-- ==== Sys2Proof/Word.lean ====
section
/-! DEFINITION. The word types of the model and the ranges that number its parts (R13, R14, R193, R271, R275). -/

namespace Sys2Proof

abbrev Byte := BitVec 8
abbrev W16 := BitVec 16
abbrev W32 := BitVec 32
abbrev W64 := BitVec 64

/-- Dies Q0 to Q3 (R11). -/
abbrev DieId := Fin 4
/-- Partitions P0 to P7 (R14). -/
abbrev PartId := Fin 8
/-- Tile ids 0 to 255 (R13). -/
abbrev TileId := Fin 256
/-- Links ZL0 to ZL5 (R16). -/
abbrev LinkId := Fin 6
/-- Functions: 0 is PF0, n is VFn (R271). -/
abbrev FnId := Fin 33
/-- Submission and completion rings of a function (R275). -/
abbrev RingIx := Fin 16
/-- Streams of a partition (R98). -/
abbrev StreamIx := Fin 4
/-- Service ports SP0 and SP1 and their sub-ports (R319). -/
abbrev PortId := Fin 2
abbrev SubPort := Fin 4
/-- Tenant service rings (R327). -/
abbrev TRingId := Fin 32
/-- Physical lanes of one direction of a link (R193). -/
abbrev LaneIx := Fin 18
/-- Image key slots (R78). -/
abbrev KeySlotIx := Fin 8
/-- A whole link frame of 2,176 bytes, byte i at bits 8i (R198). -/
abbrev RawFrame := BitVec 17408
/-- The 48 data bytes of a cell, byte i at bits 8i (R176). -/
abbrev CellData := BitVec 384

/-- The checks of a firmware slot, in the order of R390: its form, its signature, its security version. -/
inductive BootCheck where
  | form | signature | version
  deriving DecidableEq, Repr

end Sys2Proof
end

