-- ==== Sys2Proof/Syntax.lean ====
section
/-! DEFINITION. The commands of the block: one constructor of Instr for each row of opcode_table.json, with the
information that comes from outside the package (a register value, a received frame, a measured voltage) as operands. -/

namespace Sys2Proof

/-- The two directions of a link's lanes (R193). -/
inductive LaneDir where
  | tx | rx
  deriving DecidableEq, Repr

/-- How a lane fails in operation (R213). -/
inductive LaneFault where
  | openLane | short | noisy
  deriving DecidableEq, Repr

/-- What ALIGN finds on one physical lane (R221, Table 09-7a). txLane is the transmitter lane its marker carries, level its signal level. -/
structure LaneFound where
  fault : Option LaneFault
  inverted : Bool
  txLane : LaneIx
  level : Byte
  deriving DecidableEq, Repr

/-- Units that pass through HOLD when they reset (R353, R355, Table 15-4). -/
inductive UnitId where
  | tile (t : TileId) | sequencer (d : DieId) | pointEngine (d : DieId) | managementComplex
  deriving DecidableEq, Repr

/-- The three engines of a tile that run commands (R12, Table 04-10). -/
inductive EngineKind where
  | matrix | vector | mover
  deriving DecidableEq, Repr

/-- Where a command stands when its baton wait expires (R91, R137). -/
inductive WaitPlace where
  | engine (t : TileId) (e : EngineKind)
  | picker (t : TileId)
  | stream (p : PartId) (k : StreamIx)
  | binding (lead : PartId) (station : Fin 7)
  | point (p : PartId)
  deriving DecidableEq, Repr

/-- Errors a 16-byte SRAM word or a ring frame word can hold (R57, R249). -/
inductive EccErr where
  | single | double
  deriving DecidableEq, Repr

/-- Parts of a die's reserve (Table 03-1), with a staged or unused place told apart as Table 03-2 does. -/
inductive ReservePart where
  | planGolden | mapGolden | stagedMap | workingStore | recovery | unusedSpace | spareRow
  deriving DecidableEq, Repr

/-- A 16-byte word of the SRAM (R57, R58): of the plots, by package offset div 16, or of a die's reserve, by
its place in the 512 MiB, with the part of Table 03-1 that lies there and the partition whose copy it holds a word of. -/
inductive ScrubPlace where
  | plot (word : Fin 4294967296)
  | reserve (d : DieId) (part : ReservePart) (p : Option PartId) (word : Fin 33554432)
  deriving DecidableEq, Repr

/-- What an upset strikes (R57, R249): a word of the SRAM, or of a unit on the infield rings, by the unit's place among all units under way. -/
inductive UpsetPlace where
  | sram (w : ScrubPlace)
  | ring (unit : Nat)
  deriving DecidableEq, Repr

/-- Each partition's largest delay factor of a mark period, in units of 1/4096: of the part that ends at the mark, and of the earlier parts,
which a change of grade or demand ended, oldest first (R26). -/
structure DelayFactors where
  last : Vector (BitVec 16) 8
  earlier : List (Vector (BitVec 16) 8)
  deriving DecidableEq, Repr

/-- What I3C_REG_READ's row brings: the index of a PWR_ register; or a private write whose command byte Table 16-7 does not list, for which the
table has no row (R379; DESIGN CHOICE, log 169). -/
inductive I3cRead where
  | reg (index : Byte)
  | unknown (command : Byte)
  deriving DecidableEq, Repr

/-- Levels of the lands that the boundary register covers (Table 16-6, R380), true and 1 for high: ZLn_PRSNT_L, PERST_L, I3C_ADDR, MGT_ALERT_L,
MAIN_PG, and the lands of the serial buses: cable ids (12), I3C (2) and SPI (6). -/
structure Lands where
  present : BitVec 6
  perst : Bool
  address : BitVec 3
  alert : Bool
  mainPg : Bool
  serial : BitVec 20
  deriving DecidableEq, Repr

/-- What an internal debug instruction does (R387): memory access to the plots by package offset; memory access to a die's reserve, at a word
of its 512 MiB (as in ScrubPlace) where the access meets byte off of the structure that lies there; or a scan of a die, n bytes out or
the bytes in. -/
inductive DebugAccess where
  | read (a : BitVec 36) (n : BitVec 12)
  | write (a : BitVec 36) (data : List Byte)
  | reserveRead (d : DieId) (part : ReservePart) (p : Option PartId) (word : Fin 33554432) (off : BitVec 28) (n : BitVec 12)
  | reserveWrite (d : DieId) (part : ReservePart) (p : Option PartId) (word : Fin 33554432) (off : BitVec 28) (data : List Byte)
  | scanOut (d : DieId) (n : BitVec 12)
  | scanIn (d : DieId) (data : List Byte)
  deriving DecidableEq, Repr

/-- JTAG instructions of the TAP (R380), SAMPLE/PRELOAD with the values shifted in, and the internal debug instructions (R387). -/
inductive JtagOp where
  | bypass | idcode | samplePreload (preload : Lands) | extest | clamp | highz | internalDebug (access : DebugAccess)
  deriving DecidableEq, Repr

/-- Logging scopes that keep a holdoff timer (R349). -/
inductive HoldoffScope where
  | frameRejected (d : DieId)
  | planStray (l : LinkId)
  | frameReplayed (l : LinkId)
  | cellMalformedLink (l : LinkId)
  | cellMalformedRing (r : Fin 32)
  | ownerMismatch (f : FnId)
  | parseDepth (p : PortId)
  | lenShort (p : PortId)
  | zshDropped (p : PortId)
  | tsOverflow (p : PortId)
  deriving DecidableEq, Repr

/-- Bytes that the host wrote to its own memory before the command (bus address and byte). -/
abbrev HostWrites := List (Nat × Byte)

/-- The port's configuration space as the host has programmed it (R269, R305, Table 12-1): BAR0 of PF0 in 1 MiB units, the VF BAR0
aperture in 64 KiB units, Max_Payload_Size as 128 shifted left, Max_Read_Request_Size likewise, the functions in D3hot; and of each function
MSI-X Enable and Function Mask (R296). -/
structure PortConfig where
  barPf : BitVec 44
  barVf : BitVec 48
  maxPayload : Fin 3
  maxRead : Fin 6
  d3hot : BitVec 33
  msixEnable : BitVec 33
  msixMasked : BitVec 33
  deriving DecidableEq, Repr

/-- The protocol that the port has settled on: FLIT mode, and CXL with CXL.cache (Table 12-1). -/
structure PortMode where
  flit : Bool
  cxlCache : Bool
  deriving DecidableEq, Repr
/-- What comes with a training of the port: the configuration space that the host then programs, and whether the port corrected an error
meanwhile (R299, R305). -/
structure PortSetup where
  config : PortConfig
  corrected : Bool
  deriving DecidableEq, Repr

/-- The commands, in the table's order. -/
inductive Instr where
  -- power, thermal, host port
  | standbyPorRelease (strap : BitVec 3)
  | coldReset
  | standbyFail
  | stbyOutOfRange (mv : BitVec 13)
  | boot (flashWrites : List (Nat × Byte))
  | mainConversionStart
  | mainLow
  | mainLost
  | mainOvervolt
  | overcurrent
  | mainDisabled
  | sensorSample (readings : Vector (BitVec 16) 64) (vin power : BitVec 12) (vstby : BitVec 8)
  | tripClear
  | perstLChange (asserted : Bool)
  | hostLinkDown
  | functionReset (f : FnId)
  | rackrefLost
  | rackrefRestored
  | refsLost
  | timeRefFallback
  -- resets
  | warmReset
  | mcReset
  | mcWatchdogExpiry
  | tileReset (t : TileId)
  | sequencerReset (d : DieId)
  | peReset (d : DieId)
  | unitHung (u : UnitId)
  | holdExit (u : UnitId)
  -- pace
  | mark (power : BitVec 12) (delay : DelayFactors)
  | markLost
  | slackReport (l : LinkId) (cls : Fin 8) (thermal : Bool)
  | gradeAnnouncement (l : LinkId) (grade : Fin 8) (t : W32)
  | gradeChange
  | slipRequest (l : LinkId) (cause : BitVec 4) (job : Byte) (origin : W32)
  | lapBoundary (lead : PartId)
  | counterSnapshot
  -- slots and frames
  | batonSample (l : LinkId)
  | slotSend (l : LinkId)
  | deferredSend (l : LinkId)
  | frameReceive (l : LinkId) (frame : RawFrame) (phase : BitVec 16)
  | signalLost (l : LinkId)
  | ackUpdate (l : LinkId)
  | replayTimeout (l : LinkId)
  | spillAbandoned (l : LinkId)
  | laneFailure (l : LinkId) (dir : LaneDir) (lane : LaneIx) (kind : LaneFault)
  | laneSwap (l : LinkId) (dir : LaneDir)
  | presenceChange (l : LinkId) (present : Bool)
  | partnerReset (l : LinkId)
  | linkDownComplete (l : LinkId)
  | cableIdRead (l : LinkId) (id : Option (BitVec 256))
  | wakePatternSeen (l : LinkId)
  | listenTimeout (l : LinkId)
  | listenBackoffEnd (l : LinkId)
  | alignDone (l : LinkId) (tx rx : Vector LaneFound 18)
  | identifyDone (l : LinkId) (machine : W32) (chip : BitVec 13) (port : BitVec 3)
  | trainDone (l : LinkId) (noisyTx noisyRx : BitVec 18)
  | checkDone (l : LinkId) (framesGood : Bool) (delay : BitVec 16) (partnerEpoch : Byte)
  | stageTimeout (l : LinkId)
  | linkReset (l : LinkId)
  | retrain (l : LinkId)
  | zlCtrlEnable (l : LinkId) (enable : Bool)
  -- start handshake and cells
  | planDigest
  | digestDeadline (lead : PartId)
  | jobAbort
  | cellRequest
  | cellReply
  | cellTimeout (mgmt : Bool) (slot : Byte)
  | counterReq
  | ringOccurrence (lead : PartId) (transfer : W16) (err : Option EccErr)
  -- scrub and zeroing
  | scrubWord (place : ScrubPlace) (strikes : List (UpsetPlace × EccErr))
  | mapScrub (p : PartId)
  | planTableScrub (l : LinkId)
  | zeroingDone (p : PartId)
  | partitionScrubDone (p : PartId)
  -- command issue
  | sequencerIssue (d : DieId)
  | pickerDispatch (t : TileId)
  | commandComplete (t : TileId) (e : EngineKind)
  | batonTimeout (place : WaitPlace)
  | nop (p : PartId) (k : StreamIx)
  | endCircuit (p : PartId) (k : StreamIx)
  | fence (p : PartId) (k : StreamIx)
  -- engines
  | matmul (t : TileId)
  | conv2d (t : TileId)
  | add (t : TileId)
  | sub (t : TileId)
  | mul (t : TileId)
  | fma (t : TileId)
  | max (t : TileId)
  | min (t : TileId)
  | abs (t : TileId)
  | neg (t : TileId)
  | relu (t : TileId)
  | clamp (t : TileId)
  | recip (t : TileId)
  | rsqrt (t : TileId)
  | exp (t : TileId)
  | log (t : TileId)
  | tanh (t : TileId)
  | sigmoid (t : TileId)
  | convert (t : TileId)
  | rsum (t : TileId)
  | rmax (t : TileId)
  | rmin (t : TileId)
  | rsumsq (t : TileId)
  | copy (t : TileId)
  | fill (t : TileId)
  | gather (t : TileId)
  | scatter (t : TileId)
  | send (lead : PartId) (station : Fin 7)
  | recv (lead : PartId) (station : Fin 7)
  | put (lead : PartId)
  | get (lead : PartId)
  | cmpAny (t : TileId)
  | cmpAll (t : TileId)
  | cmpPayload (t : TileId)
  | setBit (t : TileId)
  | hurdle (p : PartId) (k : StreamIx)
  | hurdleReached (lead : PartId)
  | frame (d : DieId)
  -- descriptors and jobs
  | load
  | loadTakeUp
  | loadComplete
  | unload
  | start
  | jobStart (lead : PartId)
  | jobCompletion (lead : PartId)
  | endDescriptor
  | hurdleRelease
  | hurdleResume (lead : PartId)
  | hurdleStop
  | park
  | resume
  | transfer
  | headerClaim
  | windowClose
  | predicate
  | query
  | logRead
  | partitionReset
  | mgmtRead
  | mgmtWrite
  -- host rings
  | doorbellSnoop (f : FnId) (completion : Bool) (n : RingIx) (writes : HostWrites)
  | doorbellPoll (f : FnId) (completion : Bool) (n : RingIx) (writes : HostWrites)
  | descriptorFetch (f : FnId) (n : RingIx)
  | interruptDelay (f : FnId) (n : RingIx)
  | ringSqEnable (f : FnId) (n : RingIx) (writes : HostWrites)
  | ringSqDisable (f : FnId) (n : RingIx)
  | ringCqEnable (f : FnId) (n : RingIx) (writes : HostWrites)
  | ringCqDisable (f : FnId) (n : RingIx)
  -- setup registers with a row of their own
  | setupLock (f : FnId)
  | hiuDblMode (f : FnId) (snoop : Bool)
  | hiuBind (p : PartId) (v : W32)
  | mgtTopology (v : W32)
  | mgtChipId (v : W32)
  | mgtMachineId (v : W32)
  | zlPeerExpect (l : LinkId) (v : W32)
  | planSlice (n : Fin 8) (v : W64)
  | enroll (k : KeySlotIx)
  | revoke (k : KeySlotIx)
  | fwUpdate
  | fwSwitchComplete (flashOk : Bool)
  -- JTAG, I3C, attestation
  | jtagInstruction (op : JtagOp)
  | i3cRegRead (command : I3cRead)
  | i3cRegWrite (index : Byte) (v : W32)
  | sensorRead (index : Byte)
  | i3cReset (v : W32)
  | i3cLogRead (slot : W16)
  | linkStatus
  | memRead (addr : W64) (form : Byte) (len : Byte)
  | memWrite (addr : W64) (form : Byte) (len : Byte) (data : List Byte)
  | getVersion
  | getCapabilities
  | negotiateAlgorithms
  | getDigests
  | getCertificate
  | challenge (nonce : BitVec 256)
  | getMeasurements (index : Byte)
  -- service ports
  | ethFrameReceive (p : PortId) (sub : SubPort) (frame : List Byte) (good : Bool) (phase : BitVec 4)
  | zshManagement
  | zshJobControl
  | zshStreaming
  | streamChunk (n : Fin 4)
  | zshLogExport
  | svcPortUp (p : PortId) (sub : SubPort)
  | svcPortDown (p : PortId) (sub : SubPort)
  | svcTx (phase : BitVec 4)
  | svcSpMode (p : PortId) (v : W32)
  | svcTringEnable (n : TRingId)
  | svcTringDisable (n : TRingId)
  -- device time
  | ptpIncr (v : W64)
  | stepGo (force : Bool)
  | setGo (force : Bool)
  | ptpTimeNs
  | ptpSpTxts0 (p : PortId)
  | ptpPaceCount (thenTime : Bool)
  -- log, registers, late rows
  | logWrite
  | logHoldoffExpiry (scope : HoldoffScope)
  | registerWrite (f : FnId) (off : BitVec 20) (size : Fin 9) (v : W64)
  | hostLinkUp (rate : BitVec 4) (width : BitVec 5) (mode : PortMode) (setup : PortSetup)
  | deviceTimeTick
  | localrefReturn
  | pauseExpiry (p : PortId) (sub : SubPort)
  | mainLowClear
  deriving DecidableEq, Repr

end Sys2Proof
end

