-- ==== Sys2Proof/Decode.lean ====
section
/-! DEFINITION. decodeTableWord: the command a word spells by the table's bits. No row of opcode_table.json gives bits: the
rows are operations and events, not words. -/

namespace Sys2Proof

/-- The table gives no row any bits, so no word spells a command. -/
def decodeTableWord (_nbits _w : Nat) : Option Instr := none

end Sys2Proof
end

