-- ==== Sys2Proof/Machine/Bits.lean ====
section
/-! DEFINITION. Bit fields, byte order (R1, R2) and saturating counters (R407). -/

namespace Sys2Proof.Machine

/-- Bits hi down to lo of a number (R2). -/
def nbits (x hi lo : Nat) : Nat := (x >>> lo) % 2 ^ (hi + 1 - lo)

/-- Bits hi down to lo of a word, as a number (R2). -/
def fld {n : Nat} (x : BitVec n) (hi lo : Nat) : Nat := nbits x.toNat hi lo

/-- Bit i of a word. -/
def bit {n : Nat} (x : BitVec n) (i : Nat) : Bool := x.getLsbD i

/-- A Boolean as a one-bit number. -/
def b2n (b : Bool) : Nat := if b then 1 else 0

/-- The number held by bytes, least significant first (R1). -/
def leNat : List Byte → Nat
  | [] => 0
  | b :: bs => b.toNat + 256 * leNat bs

/-- The n low bytes of a number, least significant first (R1). -/
def natLE : Nat → Nat → List Byte
  | 0, _ => []
  | n + 1, v => BitVec.ofNat 8 v :: natLE n (v / 256)

/-- The number held by bytes, most significant first (network order and cryptographic values, R1). -/
def beNat (bs : List Byte) : Nat := leNat bs.reverse

/-- The n low bytes of a number, most significant first. -/
def natBE (n v : Nat) : List Byte := (natLE n v).reverse

/-- Byte i of a wide word (byte 0 at bits 7:0). -/
def byteAt {n : Nat} (x : BitVec n) (i : Nat) : Byte := BitVec.ofNat 8 (x.toNat >>> (8 * i))

/-- Part of a byte list: len bytes from off. -/
def slice (bs : List Byte) (off len : Nat) : List Byte := (bs.drop off).take len

/-- A little-endian number of len bytes at off. -/
def leAt (bs : List Byte) (off len : Nat) : Nat := leNat (slice bs off len)

/-- A big-endian number of len bytes at off. -/
def beAt (bs : List Byte) (off len : Nat) : Nat := beNat (slice bs off len)

/-- Every byte from off for len is zero. -/
def zeroAt (bs : List Byte) (off len : Nat) : Bool := (slice bs off len).all (· == 0)

/-- Sign-extended value of the low n bits of a number. -/
def signed (n v : Nat) : Int := if v % 2 ^ n < 2 ^ (n - 1) then (v % 2 ^ n : Nat) else (v % 2 ^ n : Nat) - (2 ^ n : Nat)

/-- A counter one higher, saturating (R407). -/
def satInc {n : Nat} (c : BitVec n) : BitVec n := if c = BitVec.allOnes n then c else c + 1

/-- A counter k higher, saturating (R407). -/
def satAdd {n : Nat} (c : BitVec n) (k : Nat) : BitVec n := BitVec.ofNat n (Nat.min (c.toNat + k) (2 ^ n - 1))

/-- ceil(a / b). -/
def ceilDiv (a b : Nat) : Nat := (a + b - 1) / b

/-- Set or clear bit i. -/
def setBitTo {n : Nat} (x : BitVec n) (i : Nat) (b : Bool) : BitVec n :=
  if b then x ||| BitVec.ofNat n (2 ^ i) else x &&& ~~~ BitVec.ofNat n (2 ^ i)

/-- Do two half-open ranges [a, a+n) and [b, b+m) share a number? -/
def overlaps (a n b m : Nat) : Bool := a < b + m && b < a + n && 0 < n && 0 < m

/-- Are the elements of a list pairwise different? -/
def distinct {α : Type} [BEq α] : List α → Bool
  | [] => true
  | x :: xs => !xs.contains x && distinct xs

/-- Replace the first element that meets p by f of it. -/
def updFirst {α : Type} (p : α → Bool) (f : α → α) : List α → List α
  | [] => []
  | x :: xs => if p x then f x :: xs else x :: updFirst p f xs

/-- Put an element before the first that it does not come after. -/
def insertBy {α : Type} (le : α → α → Bool) (x : α) : List α → List α
  | [] => [x]
  | y :: ys => if le x y then x :: y :: ys else y :: insertBy le x ys
/-- Sort a list, keeping the order of equal elements. -/
def sortBy {α : Type} (le : α → α → Bool) (xs : List α) : List α := xs.foldr (insertBy le) []

/-- Split a list of bytes into chunks of n, dropping a short tail; the first argument bounds the count. -/
def chunks (n : Nat) : Nat → List Byte → List (List Byte)
  | 0, _ => []
  | k + 1, bs => if bs.length < n then [] else bs.take n :: chunks n k (bs.drop n)

end Sys2Proof.Machine
end

