-- ==== Sys2Proof/Machine/Fec.lean ====
section
/-! DEFINITION. Frame protection: CRC-32C and the Reed-Solomon code RS(136, 132) over GF(2^8) (R198 to R200). -/

namespace Sys2Proof.Machine

/-! CRC-32C. -/

def crcBit (c : Nat) : Nat := if c % 2 = 1 then (c / 2) ^^^ 0x82F63B78 else c / 2
def crcByte (c : Nat) (b : Byte) : Nat :=
  let c := c ^^^ b.toNat
  crcBit (crcBit (crcBit (crcBit (crcBit (crcBit (crcBit (crcBit c)))))))
/-- CRC-32C of bytes. -/
def crc32c (bs : List Byte) : Nat := (bs.foldl crcByte 0xFFFFFFFF) ^^^ 0xFFFFFFFF

/-! GF(2^8) with x^8 + x^4 + x^3 + x^2 + 1. -/

def gfDouble (a : Nat) : Nat := if 128 ≤ a then (2 * a) ^^^ 0x11D else 2 * a
def gfMulN : Nat → Nat → Nat → Nat
  | 0, _, _ => 0
  | n + 1, a, b => (if b % 2 = 1 then a else 0) ^^^ gfMulN n (gfDouble a) (b / 2)
def gfMul (a b : Nat) : Nat := gfMulN 8 a b
/-- Powers of α = 2. -/
def gfPow : Nat → Nat
  | 0 => 1
  | n + 1 => gfDouble (gfPow n)
/-- a^254 is the inverse of a nonzero a. -/
def gfInv (a : Nat) : Nat :=
  let a2 := gfMul a a
  let a4 := gfMul a2 a2
  let a8 := gfMul a4 a4
  let a16 := gfMul a8 a8
  let a32 := gfMul a16 a16
  let a64 := gfMul a32 a32
  let a128 := gfMul a64 a64
  gfMul a2 (gfMul a4 (gfMul a8 (gfMul a16 (gfMul a32 (gfMul a64 a128)))))
def gfDiv (a b : Nat) : Nat := gfMul a (gfInv b)

/-! The code. The first data position is the coefficient of the highest power, the last parity byte that of x^0 (log 54). -/

/-- Coefficients of (x - 1)(x - α)(x - α^2)(x - α^3) from x^3 down to x^0. -/
def rsGen : List Nat :=
  let mulLin := fun (p : List Nat) (r : Nat) => (p ++ [0]).zipWith (· ^^^ ·) (0 :: p.map (gfMul r))
  ([gfPow 0, gfPow 1, gfPow 2, gfPow 3].foldl mulLin [1]).tail
/-- One division step: the remainder of 4 coefficients takes in the next data byte. -/
def rsStep (r : List Nat) (d : Nat) : List Nat :=
  let f := d ^^^ r.headD 0
  (r.tail ++ [0]).zipWith (fun x g => x ^^^ gfMul f g) rsGen
/-- The four parity bytes of 132 data bytes. -/
def rsParity (ds : List Nat) : List Nat := ds.foldl rsStep [0, 0, 0, 0]

/-- Syndrome j of a codeword of 136 bytes. -/
def rsSyndrome (j : Nat) (cs : List Nat) : Nat := cs.foldl (fun a c => gfMul a (gfPow j) ^^^ c) 0

/-- What decoding finds: the errors (position, value), at most two; none when the codeword does not decode. -/
def rsErrors (cs : List Nat) : Option (List (Nat × Nat)) :=
  let s0 := rsSyndrome 0 cs
  let s1 := rsSyndrome 1 cs
  let s2 := rsSyndrome 2 cs
  let s3 := rsSyndrome 3 cs
  let n := cs.length
  let locate := fun (x : Nat) => (List.range n).find? (fun p => gfPow (n - 1 - p) == x)
  if s0 = 0 ∧ s1 = 0 ∧ s2 = 0 ∧ s3 = 0 then some []
  else
    let det := gfMul s0 s2 ^^^ gfMul s1 s1
    if det = 0 then
      if s0 ≠ 0 ∧ gfMul s1 s2 = gfMul s0 s3 then (locate (gfDiv s1 s0)).map (fun p => [(p, s0)]) else none
    else
      let a := gfDiv (gfMul s0 s3 ^^^ gfMul s1 s2) det
      let b := gfDiv (gfMul s1 s3 ^^^ gfMul s2 s2) det
      let roots := (List.range n).filter (fun p =>
        let x := gfPow (n - 1 - p)
        gfMul x x ^^^ gfMul a x ^^^ b == 0)
      match roots with
      | [p, q] =>
        let x := gfPow (n - 1 - p)
        let y := gfPow (n - 1 - q)
        let e := gfDiv (gfMul s0 y ^^^ s1) (x ^^^ y)
        if e = 0 ∨ e = s0 then none else some [(p, e), (q, e ^^^ s0)]
      | _ => none

end Sys2Proof.Machine
end

