-- ==== Sys2Proof/Machine/Codes.lean ====
section
/-! DEFINITION. Fault codes (R9, R10) and completion status codes (R7), table by table. -/

namespace Sys2Proof.Machine

/-- Class of a fault code, bits 15:12 (R9). -/
def faultClass (c : W16) : Nat := c.toNat >>> 12
/-- Source unit of a fault code, bits 11:8 (R9). -/
def faultSource (c : W16) : Nat := (c.toNat >>> 8) % 16

/-- REGION_BOUNDS, 0x3X20 with X the source unit (Table 03-11). -/
def Code.regionBounds (x : Nat) : W16 := BitVec.ofNat 16 (0x3020 + 256 * x)
/-- REGION_KIND, 0x3X21 (Table 03-11). -/
def Code.regionKind (x : Nat) : W16 := BitVec.ofNat 16 (0x3021 + 256 * x)
/-- LANDING_BOUNDS, 0x3X23 (Table 03-11). -/
def Code.landingBounds (x : Nat) : W16 := BitVec.ofNat 16 (0x3023 + 256 * x)
/-- Is a code that of a contract violation of a job: REGION_BOUNDS, REGION_KIND, QUEUE_OVERRUN or LANDING_BOUNDS (Table 03-11)? -/
def Code.violates (c : W16) : Bool := c.toNat / 4096 == 3 && c.toNat % 256 / 4 == 8
/-- CELL_REGION, 0x2X25 (Table 03-11). -/
def Code.cellRegion (x : Nat) : W16 := BitVec.ofNat 16 (0x2025 + 256 * x)

/-! Table 02-7 -/
def Code.rackrefLost : W16 := 0x1101
def Code.rackrefRestored : W16 := 0x0102
def Code.refsLost : W16 := 0x5103
def Code.drift : W16 := 0x3104
def Code.markLost : W16 := 0x3105
def Code.paceLate : W16 := 0x3106
def Code.gradeChange : W16 := 0x0107
def Code.gradeLimit : W16 := 0x0108
def Code.thermalStretch : W16 := 0x0109
def Code.paceMismatch : W16 := 0x210A
def Code.lapBelow2H : W16 := 0x210B
def Code.startTooSoon : W16 := 0x210C
def Code.startGradeBad : W16 := 0x210E
def Code.hopDelayShort : W16 := 0x210F
def Code.treeBroken : W16 := 0x310D
def Code.stumble : W16 := 0x0910
def Code.replayExhausted : W16 := 0x0911
def Code.slipBudget : W16 := 0x3912
def Code.deferRepeat : W16 := 0x0913

/-! Table 03-11 -/
def Code.sramCorrected : W16 := 0x1801
def Code.sramUncorrectable : W16 := 0x4826
def Code.uncorrectableCleared : W16 := 0x0827
def Code.goldenLost : W16 := 0x3828
def Code.rowRepaired : W16 := 0x1829
def Code.repairExhausted : W16 := 0x082A
def Code.queueOverrun : W16 := 0x3622
def Code.dmaRegion : W16 := 0x2D24
def Code.mapLatent : W16 := 0x0F30
def Code.mapDiverged : W16 := 0x3F31
def Code.mapMalformed : W16 := 0x2F40
def Code.mapLayout : W16 := 0x2F41
def Code.mapKind : W16 := 0x2F42
def Code.mapMissing : W16 := 0x2F43
def Code.mapDigest : W16 := 0x2F44
def Code.parkMapBad : W16 := 0x2F45
def Code.reserveFull : W16 := 0x2F46

/-! Table 04-13 -/
def Code.imageMalformed : W16 := 0x2F50
def Code.signatureBad : W16 := 0x2F51
def Code.featureMissing : W16 := 0x2F52
def Code.translateFail : W16 := 0x2F53
def Code.stateConflict : W16 := 0x2F54
def Code.batonMismatch : W16 := 0x3601
def Code.batonTimeout : W16 := 0x3602
def Code.batonOrphan : W16 := 0x3603
def Code.streamEnd : W16 := 0x0204

/-! Table 05-14 -/
def Code.loopMalformed : W16 := 0x3560
def Code.landingUnarmed : W16 := 0x3961
def Code.armLimit : W16 := 0x3962
def Code.bindingOrphan : W16 := 0x3963
def Code.hurdleMissed : W16 := 0x3264
def Code.hurdleReached : W16 := 0x0265

/-! Table 06-5 -/
def Code.pickerOrder : W16 := 0x3604
def Code.graphEnd : W16 := 0x0605

/-! Table 07-15 -/
def Code.frameRejected : W16 := 0x0750
def Code.tableCleared : W16 := 0x0751

/-! Table 08-13 -/
def Code.planMalformed : W16 := 0x2F60
def Code.planReserve : W16 := 0x2F61
def Code.planLink : W16 := 0x2F62
def Code.planAbsent : W16 := 0x2F63
def Code.burstLength : W16 := 0x3970
def Code.burstTransfer : W16 := 0x3971
def Code.burstRank : W16 := 0x3972
def Code.slotKind : W16 := 0x3973
def Code.planIsolation : W16 := 0x3974
def Code.planDiverged : W16 := 0x3975
def Code.planLatent : W16 := 0x0976
def Code.planLinkLost : W16 := 0x3977
def Code.peerFault : W16 := 0x3978
def Code.hurdleUnclean : W16 := 0x3979
def Code.planStray : W16 := 0x097A
def Code.planMismatch : W16 := 0x297B
def Code.rankMismatch : W16 := 0x297C
def Code.linkBusy : W16 := 0x297D
def Code.peerSilent : W16 := 0x297E
def Code.startAborted : W16 := 0x297F

/-! Table 09-7 -/
def Code.unplugged : W16 := 0x6A01
def Code.signalLost : W16 := 0x6A02
def Code.partnerReset : W16 := 0x6A03
def Code.linkReset : W16 := 0x6A04
def Code.lanesExhausted : W16 := 0x6A05
def Code.ackLost : W16 := 0x6A06
def Code.ackInvalid : W16 := 0x6A07
def Code.replayFull : W16 := 0x6A08
def Code.spillAbandoned : W16 := 0x6A09
def Code.linkFault : W16 := 0x6A0A
def Code.delayLimit : W16 := 0x6A0B
def Code.laneSpared : W16 := 0x1A10
def Code.laneMarked : W16 := 0x0A11
def Code.linkUp : W16 := 0x0A12
def Code.linkAbsent : W16 := 0x0A13
def Code.linkMiswired : W16 := 0x0A14
def Code.stageTimeout : W16 := 0x0A15
def Code.cableIdBad : W16 := 0x0A16
def Code.frameReplayed : W16 := 0x1A17

/-! Table 10-5 -/
def Code.chipIdUnset : W16 := 0x0080
def Code.topologyConflict : W16 := 0x0081
def Code.setupRejected : W16 := 0x0082
def Code.sliceInUse : W16 := 0x0083
def Code.sliceViolation : W16 := 0x2084
def Code.addressInvalid : W16 := 0x2085

/-! Table 11-7 -/
def Code.cellRefused : W16 := 0x3B01
def Code.cellTimeout : W16 := 0x3B02
def Code.cellMalformed : W16 := 0x0B03
def Code.ringUncorrectable : W16 := 0x3B04
def Code.ringCorrected : W16 := 0x1B05

/-! Table 12-14 -/
def Code.regLocked : W16 := 0x0C01
def Code.regAccess : W16 := 0x0C02
def Code.ringBusy : W16 := 0x0C03
def Code.ringSetupBad : W16 := 0x2C04
def Code.ringTailBad : W16 := 0x2C05
def Code.fetchFailed : W16 := 0x2C06
def Code.dblReadFail : W16 := 0x0C07
def Code.cqOverflow : W16 := 0x0C08
def Code.dblModeFallback : W16 := 0x0C09
def Code.functionReset : W16 := 0x0C0A
def Code.jobHostReset : W16 := 0x3C0B
def Code.hostLinkDown : W16 := 0x7C0C
def Code.portCorrected : W16 := 0x1C0D

/-! Table 13-10 -/
def Code.walkFault : W16 := 0x2D10
def Code.selfTarget : W16 := 0x2D11
def Code.ownerMismatch : W16 := 0x0D12
def Code.headerMalformed : W16 := 0x2D13
def Code.bufferShort : W16 := 0x2D14
def Code.busError : W16 := 0x2D15
def Code.poisonSet : W16 := 0x0D16
def Code.poisonUnreachable : W16 := 0x0D17

/-! Table 14-11 -/
def Code.parseDepth : W16 := 0x0E01
def Code.lenShort : W16 := 0x0E02
def Code.tsOverflow : W16 := 0x0E03
def Code.jumpRefused : W16 := 0x0E04
def Code.clockStep : W16 := 0x0E05
def Code.svcRingFull : W16 := 0x0E06
def Code.zshDropped : W16 := 0x0E07
def Code.svcPortUp : W16 := 0x0E08
def Code.svcPortDown : W16 := 0x0E09
def Code.timeRefFallback : W16 := 0x1E0A
def Code.svcRingSetupBad : W16 := 0x2E0B

/-! Table 15-7 -/
def Code.tileReset : W16 := 0x3001
def Code.sequencerReset : W16 := 0x3002
def Code.peReset : W16 := 0x0003
def Code.unitHung : W16 := 0x0004
def Code.partitionReset : W16 := 0x0005
def Code.mcReset : W16 := 0x0006
def Code.warmReset : W16 := 0x5007
def Code.coldReset : W16 := 0x0008
def Code.fwUpdated : W16 := 0x0009
def Code.fwRejected : W16 := 0x200A

/-! Table 16-10 -/
def Code.thermalTrip : W16 := 0x5090
def Code.overcurrent : W16 := 0x5091
def Code.mainLost : W16 := 0x5092
def Code.mainOvervolt : W16 := 0x5093
def Code.mainDisabled : W16 := 0x5094
def Code.mainLow : W16 := 0x0095
def Code.mainRestored : W16 := 0x0096
def Code.powerStretch : W16 := 0x0097
def Code.stbyOutOfRange : W16 := 0x0098
def Code.sensorFailed : W16 := 0x0099
def Code.sensorsDegraded : W16 := 0x109A
def Code.jtagRefused : W16 := 0x009B

/-! Table 17-7 -/
def Code.bootSlotBad : W16 := 0x00A0
def Code.bootFailed : W16 := 0x50A1
def Code.bootDone : W16 := 0x00A2
def Code.jobParked : W16 := 0x00A3
def Code.jobResumed : W16 := 0x00A4

/-! Table 00-4 -/
def Status.success : Byte := 0x00
def Status.retry : Byte := 0x01
def Status.badDescriptor : Byte := 0x02
def Status.notPermitted : Byte := 0x03
def Status.unsupported : Byte := 0x04

/-! Table 13-9 -/
def Status.walkFault : Byte := 0x10
def Status.selfTarget : Byte := 0x11
def Status.ownerMismatch : Byte := 0x12
def Status.headerMalformed : Byte := 0x13
def Status.bufferShort : Byte := 0x14
def Status.busError : Byte := 0x15

/-! R357 -/
def Status.unitReset : Byte := 0x20

/-! Table 04-12 -/
def Status.imageRefused : Byte := 0x30
def Status.signatureBad : Byte := 0x31
def Status.featureMissing : Byte := 0x32
def Status.startRefused : Byte := 0x33
def Status.stateConflict : Byte := 0x34
def Status.jobFaulted : Byte := 0x35

/-! Table 08-12 -/
def Status.planMismatch : Byte := 0x38
def Status.rankMismatch : Byte := 0x39
def Status.linkBusy : Byte := 0x3A
def Status.planAbsent : Byte := 0x3B
def Status.startAborted : Byte := 0x3C
def Status.peerSilent : Byte := 0x3D

/-! Table 12-13 -/
def Status.ringAborted : Byte := 0x40
def Status.fetchFailed : Byte := 0x41
def Status.cqInvalid : Byte := 0x42
def Status.countTooSoon : Byte := 0x43

/-! Table 07-14 -/
def Status.pointOverProvision : Byte := 0x50
def Status.poseBad : Byte := 0x51
def Status.frameMalformed : Byte := 0x52

/-! Table 09-9 -/
def Status.linkDown : Byte := 0x60
def Status.linkAbsent : Byte := 0x61

/-! Table 14-10 -/
def Status.portDown : Byte := 0x70
def Status.tsDiscarded : Byte := 0x71
def Status.streamRefused : Byte := 0x72
def Status.streamAborted : Byte := 0x73

end Sys2Proof.Machine
end

