-- ==== Sys2Proof/Machine/Types.lean ====
section
/-! DEFINITION. The structures that the package holds for a loaded image, a job and a link: commands, batons, queue
entries, allocation maps, plans, Point Engine configurations, frames and cells. Fields that the hardware stores as bits
stay bits; the accessors are in Machine/Fields.lean. -/

namespace Sys2Proof.Machine

/-- Byte-addressed storage: (address, byte) pairs in canonical form (Host.Cell is the same pair), see Machine/Memory.lean. -/
abbrev Bytes := List (Nat × Byte)

/-- A Ronef command or descriptor: eight 64-bit words (R87, R127). -/
structure Cmd where
  w : Vector W64 8
  deriving DecidableEq, Repr

/-- A Baton Exchange queue entry of 16 bytes (Table 04-9). -/
abbrev QEntry := BitVec 128

/-- Consumers of a queue (Table 04-8). -/
inductive Consumer where
  | matrix | vector | mover | binding | point | sequencer
  deriving DecidableEq, Repr

/-- One declared queue with what it holds, oldest entry first (R88, R139). -/
structure Queue where
  tile : Fin 32
  queue : Fin 64
  consumer : Consumer
  depth : Nat
  region : Nat
  offset : Nat
  entries : List QEntry
  highest : Nat
  deriving DecidableEq, Repr

/-- An allocation map, or one checker copy of it: the entries kept as stored, those from count on unused (Tables 03-4, 03-5). -/
structure AllocMap where
  count : Nat
  jobPart : Byte
  linkOwn : BitVec 6
  digest : BitVec 384
  entries : List (BitVec 128)
  deriving DecidableEq, Repr

/-- A hurdle declaration (Table 05-12). -/
structure HurdleDecl where
  id : W16
  streamable : Bool
  parkable : Bool
  iteration : Nat
  seqEntry : Nat
  deriving DecidableEq, Repr

/-- A transfer entry of 32 bytes (Table 08-4). -/
structure Transfer where
  w : Vector W64 4
  deriving DecidableEq, Repr

/-- A table set: one link or ring in one direction (Table 08-3). Each table is (first segment, segment count). -/
structure TableSet where
  link : Byte
  rx : Bool
  ring : Byte
  peerRank : BitVec 13
  tables : List (Nat × Nat)
  segs : List W32
  xfers : List Transfer
  deriving DecidableEq, Repr

/-- One plan of a PLAN section (Table 08-2). -/
structure PlanDef where
  planId : Nat
  seq : List W32
  avoid : List W32
  sets : List TableSet
  deriving DecidableEq, Repr

/-- A PLAN section: lap lengths, loop entry and plans (R168). -/
structure PlanSection where
  lapLen : List Nat
  loopEntry : Nat
  plans : List PlanDef
  deriving DecidableEq, Repr

/-- A layer descriptor of a Point Engine configuration (Table 07-6). -/
structure Layer where
  weights : W64
  bias : W64
  features : W64
  cin : Nat
  cout : Nat
  kernel : Nat
  stride : Nat
  pinned : Bool
  relu : Bool
  sat : Bool
  round : BitVec 2
  siteCap : Nat
  deriving DecidableEq, Repr

/-- A Point Engine configuration (Table 07-5); FP32 values as their bits. -/
structure PointConfig where
  provisioned : Bool
  sliced : Bool
  classAgnostic : Bool
  slices : Nat
  maxPerVoxel : Nat
  tableLog2 : Nat
  classCount : Nat
  tileSet : W32
  pointLimit : Nat
  voxelCap : Nat
  candCap : Nat
  boxMax : Nat
  scoreMin : W32
  iouMax : W32
  voxelSize : Vector W32 3
  boundMin : Vector W32 3
  boundMax : Vector W32 3
  table : W64
  vfe : W64
  anchors : List (Vector W32 3)
  layers : List Layer
  deriving DecidableEq, Repr

/-- A STREAM section as loaded (R77, R83). -/
structure StreamDef where
  jobPart : Nat
  index : Nat
  region : Nat
  offset : Nat
  code : List Cmd
  deriving DecidableEq, Repr

/-- A graph list as loaded (R126). -/
structure ListDef where
  jobPart : Nat
  tile : Fin 32
  descs : List Cmd
  deriving DecidableEq, Repr

/-- An INIT section as loaded (R84). -/
structure InitDef where
  jobPart : Nat
  region : Nat
  offset : Nat
  data : List Byte
  deriving DecidableEq, Repr

/-- What an accepted image gives the package (R76, R84): header values and decoded sections. -/
structure Image where
  partCount : Nat
  parkPart : Option Nat
  minGrade : Fin 8
  slipBudget : Nat
  waitLimit : Nat
  featureReq : BitVec 128
  name : List Byte
  maps : List AllocMap
  queues : List (Nat × W64)
  streams : List StreamDef
  lists : List ListDef
  graphTargets : List (Nat × Nat × Nat × Nat)
  hurdles : List HurdleDecl
  plan : Option PlanSection
  work : List Nat
  parkMap : Option (List W64)
  points : List (Nat × List PointConfig)
  inits : List InitDef
  deriving DecidableEq, Repr

/-- Where a command came from: a stream of the partition, or a graph list (R134). -/
inductive CmdSource where
  | stream (k : StreamIx)
  | graph
  deriving DecidableEq, Repr

/-- A command in an engine's queue: its index, the iteration or pass that issued it and its source (R97, R98). -/
structure Issued where
  cmd : Cmd
  index : Nat
  iter : Nat
  src : CmdSource
  deriving DecidableEq, Repr

/-- A command an engine is running; payload is what its posts will carry (R106). -/
structure Running where
  cmd : Issued
  payload : BitVec 96
  deriving DecidableEq, Repr

/-- The sources an engine takes in turn (R134, R144). -/
inductive Turn where
  | graph | stream | point
  deriving DecidableEq, Repr

/-- An engine of a tile: its stream and graph queues, oldest first, what runs, and whose turn is next (R134, Table 04-10). -/
structure Engine where
  tile : Fin 32
  kind : EngineKind
  streamQ : List Issued
  graphQ : List Issued
  running : Option Running
  turn : Turn
  deriving DecidableEq, Repr

/-- What a stream is doing (R96, R98, R121): its control command waits; a FENCE or HURDLE that runs waits for earlier
commands; it has arrived at a hurdle. -/
inductive StreamMode where
  | running
  | control (c : Issued)
  | fence (c : Issued)
  | arrived (c : Issued) (decl : HurdleDecl)
  | ended
  deriving DecidableEq, Repr

/-- A stream of a partition (R98). -/
structure Stream where
  index : StreamIx
  code : List Cmd
  pos : Nat
  iter : Nat
  mode : StreamMode
  deriving DecidableEq, Repr

/-- A graph list and its picker (R129, R130): next instance to enter, window, instances dispatched and not complete. -/
structure GraphList where
  tile : Fin 32
  descs : List Cmd
  nextPass : Nat
  nextIndex : Nat
  window : List (Nat × Nat)
  busy : List (Nat × Nat)
  lastPass : Option Nat
  maxPass : Nat
  arrived : Option (Nat × Nat × HurdleDecl)
  ended : Bool
  deriving DecidableEq, Repr

/-- States of a partition (R85, Table 04-5). -/
inductive PState where
  | marks | set | run | hold | parked | faulted
  deriving DecidableEq, Repr

/-- The pace block of a start descriptor (Table 02-3). -/
structure PaceBlock where
  hopDelay : Nat
  treeDepth : Nat
  pkgDepth : Nat
  parent : Option LinkId
  children : BitVec 6
  startGrade : Fin 8
  jobIndex : Byte
  domainId : Byte
  startCount : Nat
  deriving DecidableEq, Repr

/-- A rank table (R179). -/
structure RankTable where
  myRank : BitVec 13
  entries : List (Option (BitVec 13))
  deriving DecidableEq, Repr

/-- Where a job's lap sequence stands (R167 to R170): entry, laps of it already run, lap index, the count at which the
present lap began, its table and length, whether it is a held lap, whether the sequence is paused at a hurdle (with length 0 where it has
not begun a lap), waits at a hurdle's boundary for sends still pending (R121), or has ended;
the entry and lap index it began with; when the lap before began and whether that was a held lap; the target of the last hold that it met (R50); the
indexes of laps that a held lap followed. A held lap keeps the
position and lap index of the lap it follows, and the table due next. -/
structure LapState where
  entry : Nat
  rep : Nat
  lapIndex : Nat
  lapStart : Nat
  table : Nat
  length : Nat
  held : Bool
  paused : Bool
  waits : Bool
  ended : Bool
  baseEntry : Nat
  baseLap : Nat
  prevStart : Nat
  met : Nat
  prevHeld : Bool
  heldAfter : List Nat
  deriving DecidableEq, Repr

/-- What a package keeps for one TRANSFER of a job: arm count, and how many occurrences SENDs have bound (R116, R117). -/
structure XferState where
  transfer : W16
  arms : Nat
  bound : Nat
  deriving DecidableEq, Repr

/-- A SEND bound to an occurrence: its number, the cause of its void baton (0: present), what it carries, its command, and whether its posts
have been pushed, as the picker does for one that it skips (R116, R132). -/
structure BoundSend where
  transfer : W16
  occurrence : Nat
  void : Nat
  carried : BitVec 96
  cmd : Issued
  part : PartId
  posted : Bool
  deriving DecidableEq, Repr

/-- A command in a relay station's queue; skip is the cause of a SEND that the descriptor picker has skipped and completed, of which only the
void that it binds to an occurrence is left (R116, R132). -/
structure Binding where
  part : PartId
  cmd : Issued
  skip : Option Nat
  deriving DecidableEq, Repr

/-- What the TAP has captured with its present instruction (R380, R387). -/
inductive JtagData where
  | none
  | idcode (v : W32)
  | lands (l : Lands)
  | bytes (bs : List Byte)
  deriving DecidableEq, Repr

/-- Control state that PARK saves for one JOB_PART (R396). -/
structure SavedPart where
  jobPart : Nat
  pred : W16
  queues : List Queue
  streams : List Stream
  lists : List GraphList
  serials : List W32
  deriving DecidableEq, Repr

/-- A digest cell kept for a loaded job (R182). -/
structure DigestCell where
  link : LinkId
  planId : Nat
  rx : Bool
  rank : BitVec 13
  startCount : Nat
  live : BitVec 128
  full : BitVec 128
  deriving DecidableEq, Repr

/-- Phases of a job on this package (Table 04-5). -/
inductive JobPhase where
  | loaded | armed | run | parked | faulted
  deriving DecidableEq, Repr

/-- Where a descriptor came from: a submission ring, or a ZSH request (R332). -/
inductive Origin where
  | ring (f : FnId) (sq : RingIx)
  | zsh (p : PortId) (seq : W32)
  deriving DecidableEq, Repr

/-- A fetched descriptor: the function it acts for, its source, the count of its ring entry, and its eight words (R286). No two
descriptors in progress are equal. -/
structure Desc where
  fn : FnId
  origin : Origin
  entry : W32 := 0
  w : Vector W64 8
  deriving DecidableEq, Repr

/-- A slot of a scheduled send or receive named by its lap, slot and table entry. -/
structure Occurrence where
  lapIndex : Nat
  slot : Nat
  seqEntry : Nat
  table : Nat
  xfer : Nat
  len : Nat
  deriving DecidableEq, Repr

/-- A deferred send of a relay station (R45), ready once its baton has arrived. -/
structure Deferred where
  lead : PartId
  occ : Occurrence
  transfer : W16
  number : Nat
  ready : Bool
  nextSlot : Nat
  deriving DecidableEq, Repr

/-- What the sample of R44 decided for the burst that starts next. -/
inductive SampleOutcome where
  | present | void | stumble
  deriving DecidableEq, Repr

structure Sampled where
  occ : Occurrence
  number : Nat
  outcome : SampleOutcome
  deriving DecidableEq, Repr

/-- The body of a frame that a relay station stores for replay: slot field, payload and baton part (R205, R208). -/
structure FrameBody where
  slot0 : W64
  slot1 : W64
  payload : BitVec 16384
  baton : BitVec 128
  deriving DecidableEq, Repr

/-- An unacknowledged sequenced frame (R208); spilled is its place in the ring of the SPILL region, where it lies there. -/
structure ReplayEntry where
  seq : W16
  body : FrameBody
  spilled : Option Nat
  deriving DecidableEq, Repr

/-- A burst that is landing (R178), named by its lap index and first slot: frames arrived (next) and frames stored in the plot (landed). -/
structure Landing where
  transfer : W16
  lapIndex : Nat
  slot : Nat
  next : Nat
  landed : Nat
  baton : BitVec 96
  dropped : Bool
  deriving DecidableEq, Repr

/-- A frame of a burst in a relay station: on its way to the link, or from it (R251, R253). occ is the burst's occurrence on the link. -/
structure StoredFrame where
  transfer : W16
  occ : Occurrence
  index : Nat
  data : List Byte
  deriving DecidableEq, Repr

/-- A cell of 64 bytes (Table 08-9). -/
structure Cell where
  address : W64
  head : W64
  data : CellData
  deriving DecidableEq, Repr

/-- Where a cell came into the package. -/
inductive CellFrom where
  | link (l : LinkId) | here
  deriving DecidableEq, Repr

/-- A burst frame on a ring (R251, R254): its job, the station that counts its landing (0 to 5 the links, 6 the rings), whether it is a
feed for that link, its frame, whether it is a void one, what its data baton carries, and the SEND that ends when it enters the ring. -/
structure RingBurst where
  job : Nat
  station : Fin 7
  feed : Bool
  frame : StoredFrame
  void : Bool
  carried : BitVec 96
  send : Option (W16 × Nat)
  deriving DecidableEq, Repr

/-- A frame of a reserved occurrence on its way, an error that its words hold, and the count of the beat that begins as it reaches its last
stop (R251). -/
structure RingFlight where
  due : Nat
  err : Option EccErr
  burst : RingBurst
  deriving DecidableEq, Repr

/-- A stop of the rings: a tile's, by package row and column, or the service stops of a die (R247). -/
inductive Stop where
  | tile (row col : Nat)
  | service (d : DieId)
  deriving DecidableEq, Repr

/-- Who makes an access to a plot over the rings: a unit, or a relay station (R356). -/
inductive PlotUser where
  | unit (u : UnitId)
  | relay (l : LinkId)
  deriving DecidableEq, Repr

/-- A unit of plot traffic (R250): who made the access, with its epoch then (R356), the stop of the requester, the plot's, the partition for
which the access is made, the 64 bytes that it is about (package offset div 64), and whether it is the reply. -/
structure PlotUnit where
  user : PlotUser
  epoch : Byte
  src : Stop
  plot : Stop
  part : PartId
  piece : Nat
  reply : Bool
  deriving DecidableEq, Repr

/-- What a unit of an infield ring carries: a cell with where it came from, held while it occupies that link's receive buffer, a burst
frame, or a unit of plot traffic. -/
inductive RingLoad where
  | cell (o : CellFrom) (held : Bool) (c : Cell)
  | burst (b : RingBurst)
  | plot (x : PlotUnit)
  deriving DecidableEq, Repr

/-- A leg of a route: ring direction (bits 5:0 of a RING field), the position where its unit stands, the one where the leg ends (R255). -/
structure RingLeg where
  dir : Nat
  pos : Nat
  goal : Nat
  deriving DecidableEq, Repr

/-- A unit on its way over the package: what it carries, the link on which it leaves (none: it is for this package), the ring direction
and position whose buffer it holds (none: no ring yet), the legs still to go (R250, R255), and an error that its words hold (R249). -/
structure RingUnit where
  load : RingLoad
  out : Option LinkId
  place : Option (Nat × Nat)
  legs : List RingLeg
  err : Option EccErr := none
  deriving DecidableEq, Repr

/-- A pace cell waiting for a link, with the copies still to send (R40, R41, R202). -/
structure PaceCell where
  kind : BitVec 4
  body : BitVec 44
  copies : Nat
  deriving DecidableEq, Repr

/-- A swap of a logical lane to a spare: how the lane failed, and the count once announced (R214). -/
structure LaneSwap where
  lane : Fin 16
  kind : LaneFault
  at_ : Option Nat
  deriving DecidableEq, Repr

/-- States of a physical lane (R193). -/
inductive LaneState where
  | active | spare | openLane | short | noisy
  deriving DecidableEq, Repr

/-- Stages of a link in the encoding order of Table 16-7 (R219). -/
inductive Stage where
  | off | listen | align | identify | train | check | up | down | miswired | fault
  deriving DecidableEq, Repr

/-- What a completion entry holds (Table 12-10), without its PHASE and SQ_HEAD, which are set when it is written. -/
structure Completion where
  kind : BitVec 3
  synthetic : Bool
  part : Bool
  status : Byte
  sq : BitVec 4
  tag : W32
  fault : W16
  lead : BitVec 3
  detail0 : W64
  detail1 : W64
  fromSq : Option RingIx
  deriving DecidableEq, Repr

/-- A located fault record (R72, Table 03-9). -/
structure Located where
  w : Vector W64 6
  deriving DecidableEq, Repr

/-- The last 48 bytes of a trouble-log entry (Table 15-3); slot: the slot that the boot ROM refused and the check that it failed (R390). -/
inductive LogBody where
  | located (r : Located)
  | capture (data : CellData)
  | continuation (data : CellData)
  | count (v : W64)
  | slot (slotB : Bool) (check : BootCheck)
  deriving DecidableEq, Repr

/-- A trouble-log entry, in the input queue (seq 0, not pinned) or written (Table 15-3). beat is the pace count at which it reached the
queue, while the pace ran; place is the die of the unit that produced it times 8, plus the number of its link (R347). -/
structure LogEntry where
  code : W16
  pinned : Bool
  vf : Byte
  seq : W32
  time : W64
  body : LogBody
  beat : Option Nat
  place : Nat
  deriving DecidableEq, Repr

/-- An error that a word of a die's reserve holds (R57): where it lies and what the word is part of (Tables 03-1, 03-2). -/
structure ReserveErr where
  die : DieId
  part : ReservePart
  holder : Option PartId
  word : Nat
  err : EccErr
  deriving DecidableEq, Repr

/-- What a request of the package waits for (R259 to R262). -/
inductive ReqOwner where
  | putGet (lead : PartId) (part : PartId) (cmd : Issued) (isGet : Bool)
  | mgmt (d : Desc) (isRead : Bool)
  | i3c (isRead : Bool)
  | counters (d : Desc)
  | plot (part : PartId)
  deriving DecidableEq, Repr

/-- An outstanding request: its VC, slot and reuse count, cells still unanswered, what the answers said, the offset and
length it covers and the bytes read so far (R259 to R262). -/
structure Request where
  mgmt : Bool
  slot : Byte
  reuse : Byte
  owner : ReqOwner
  base : W64
  cells : Nat
  length : Nat
  left : Nat
  refused : Option Nat
  unitReset : Bool
  linkDown : Bool
  data : Bytes
  deriving DecidableEq, Repr

/-- Stages of a window descriptor (Table 13-6): waiting at step 3; past step 8 and waiting for an outcome (moved: data bytes
moved so far); moved (or failed) and waiting to close. -/
inductive WinPhase where
  | waiting
  | reply (moved : Nat)
  | close (status : Byte) (hdr : Option Nat) (moved : Nat) (partialEnd : Bool) (detail0 detail1 : W64) (fault : W16)
  deriving DecidableEq, Repr

/-- SEQ and BUF_LEN of an owner header as the device read them (R306). -/
structure Hdr where
  seq : Nat
  len : Nat
  deriving DecidableEq, Repr

/-- A POISON write that waits for the end of a firmware switch (R313, R366). -/
structure Poison where
  fn : FnId
  root : W64
  off : Nat
  hdr : Hdr
  status : Byte
  part : Bool
  moved : Nat
  fault : W16
  tag : W32
  deriving DecidableEq, Repr

/-- A window descriptor in the Window Translator (R308): its descriptor, window offset, partition named (TRANSFER), and
the bytes it will write to the host when they are known. -/
structure WinOp where
  desc : Desc
  root : W64
  offset : W64
  part : Option PartId
  claim : Option Nat
  hdr : Hdr
  phase : WinPhase
  deriving DecidableEq, Repr

/-- What beside descriptors claims the header of a buffer: a live firmware update, the enable of a tenant service ring, the descriptor of
the service transmit ring (R327, R330, R365). -/
inductive HeaderUser where
  | firmware
  | tring (n : TRingId)
  | tx
  deriving DecidableEq, Repr

/-- One of these that waits at step 3 of Table 13-6: its function, the WIN_ROOT it found, its window offset, and the descriptors that waited
when it came, which go before it (R310). -/
structure HeaderWait where
  user : HeaderUser
  fn : FnId
  root : W64
  offset : W64
  after : List WinOp
  deriving DecidableEq, Repr

/-- A transmit time-stamp entry (R339). -/
structure TxStamp where
  id : W16
  sub : SubPort
  sec : W32
  ns : BitVec 30
  frac : W32
  deriving DecidableEq, Repr

/-- A frame in the management receive ring or the exception ring (R321, R322): where it came in, its flags (those of Table 14-7;
bit 5, the model's own, says PARSE_DEPTH), its corrected stamp (R338) and its bytes without FCS. -/
structure RxFrame where
  port : PortId
  sub : SubPort
  flags : Byte
  sec : W32
  ns : BitVec 30
  frac : W32
  data : List Byte
  deriving DecidableEq, Repr

/-- A ZSH request of the management core (R332): the frame's bytes before the ZSH payload, where its IP and UDP headers
begin, its payload, and whether it has been taken up. -/
structure ZshRequest where
  port : PortId
  sub : SubPort
  channel : Byte
  vf : Byte
  seq : W32
  header : List Byte
  l3 : Nat
  l4 : Nat
  v6 : Bool
  payload : List Byte
  taken : Bool
  deriving DecidableEq, Repr

/-- An active channel 2 stream (R333). -/
structure OutStream where
  lead : PartId
  part : PartId
  base : Nat
  offset : Nat
  length : Nat
  sent : Nat
  req : ZshRequest
  stop : Option Byte
  deriving DecidableEq, Repr

end Sys2Proof.Machine
end

