-- ==== Sys2Proof/Machine/State.lean ====
section
/-! DEFINITION. State: everything the spec gives the package, as plain data, block by block; the reasons a step can stop;
State.reset. A register that software reads or writes whole is a bit vector; a table that is mostly empty is a list. -/

namespace Sys2Proof.Machine

/-- Reasons a step stops with a fault. The spec's own faults never stop the machine (R9): they are log entries,
completions and states. -/
inductive Fault where
  /-- Raised by no command: every command has an effect on every state, whatever its operands (R5 for register accesses). Safe. -/
  | illFormed (what : String)
  deriving DecidableEq, Repr

/-- Reasons a step gives no meaning. -/
inductive Refusal where
  /-- Raised by Dispatch alone, for a row without a meaning. Safe. -/
  | notModelled (mnemonic : String)
  deriving DecidableEq, Repr

/-- One junction sensor (R382). -/
structure Sensor where
  last : BitVec 16
  sampled : Bool
  failed : Bool
  hot : Bool
  deriving DecidableEq, Repr

/-- Power inputs, converters, power registers, sensors and their lands (R17, R369 to R375, R378, R382, R383). -/
structure Power where
  porReleased : Bool
  stbyEpisode : Bool
  mainPg : Bool
  stopped : Bool
  mainEn : Bool
  limit : BitVec 12
  trip : Bool
  overcurrent : Bool
  thermal : Bool
  powerStretch : Bool
  mainLow : Bool
  vin : BitVec 12
  powerW : BitVec 12
  vstby : BitVec 8
  peakPower : BitVec 12
  sensors : Vector Sensor 64
  degraded : Vector Bool 4
  thermalEpisode : Bool
  alertMask : BitVec 4
  alertStatus : BitVec 4
  perst : Bool
  thermtrip : Bool
  strap : BitVec 3
  deriving DecidableEq, Repr

/-- Who runs on the management core (R390, R391). -/
inductive BootMode where
  | off | rom | recovery | running
  deriving DecidableEq, Repr

/-- Stages of a live update, as MGT_FW_STATUS encodes them (R365). -/
inductive FwStage where
  | idle | reading | checking | switching
  deriving DecidableEq, Repr

/-- Boot flash, boot state and live update (R365, R366, R389 to R391). -/
structure Boot where
  flash : Bytes
  mode : BootMode
  slotB : Bool
  fwVersion : W32
  svn : W16
  fwDigest : BitVec 384
  stage : FwStage
  fwOffset : W64
  staged : List Byte
  deriving DecidableEq, Repr

/-- A change of the device clock that waits for its tick (R337). -/
inductive TimeChange where
  | step (force : Bool) | set (force : Bool)
  deriving DecidableEq, Repr

/-- Time-stamp queue and correction of one service port (R338, R339). -/
structure PortStamps where
  entries : List TxStamp
  latched : TxStamp
  overflow : W64
  adj : Vector (BitVec 16) 4
  deriving DecidableEq, Repr

/-- The device clock and the PTP_ block (R335 to R340, Table 18-10). -/
structure Clock where
  sec : W64
  ns : BitVec 30
  frac : W32
  incr : BitVec 40
  incrNext : Option (BitVec 40)
  latSec : W64
  latFrac : W32
  step : W64
  setSec : W64
  setNs : BitVec 30
  change : Option TimeChange
  jumpRefused : Bool
  fallback : Bool
  thresh : W32
  paceCount : W64
  paceTime : W64
  paceFrozen : Bool
  readData : W64
  stamps : Vector PortStamps 2
  deriving DecidableEq, Repr

/-- The trouble log (R345 to R350). -/
structure TroubleLog where
  slots : List (Nat × LogEntry)
  head : BitVec 12
  pinned : BitVec 6
  lost : W64
  overwritten : W64
  suppressed : W64
  seq : W32
  input : List LogEntry
  holdoffs : List HoldoffScope
  deriving DecidableEq, Repr

/-- States of an image key slot (Table 18-3). -/
inductive KeyState where
  | empty | enrolled | revoked
  deriving DecidableEq, Repr

/-- An image key slot: state and the P-384 point of MGT_KEYk (R415). -/
structure KeySlot where
  state : KeyState
  x : BitVec 384
  y : BitVec 384
  deriving DecidableEq, Repr

/-- The load that the loader is writing (R81, R82). lost: a word of what it staged was lost, so it is refused at its next step (Table 03-2). -/
structure LoadTask where
  desc : Desc
  parts : List PartId
  image : Image
  lost : Bool
  deriving DecidableEq, Repr

/-- Partitions that one UNLOAD, PARTITION_RESET or PARK descriptor still waits for (R85, R360, R396); parked: of a PARK, the job and the bytes
copied. -/
structure ResetTask where
  desc : Desc
  left : List PartId
  parked : Option (Nat × Nat)
  deriving DecidableEq, Repr

/-- A held or latched half of a 64-bit register access (R403). -/
structure HeldHalf where
  fn : FnId
  off : BitVec 20
  value : W32
  deriving DecidableEq, Repr

/-- Installation and management registers, key slots, the loader and what the Management Complex waits for; restarting that the HOLD of the
Management Complex belongs to a reset of its own, whose restart is still to be logged (R355, Table 15-7). -/
structure Mgt where
  machineId : W32
  topology : W32
  chipId : W32
  scrubPeriod : BitVec 5
  hangLimit : BitVec 14
  keys : Vector KeySlot 8
  staleCount : W64
  epoch : Byte
  slices : Vector W64 8
  loads : List Desc
  loadHeld : Option Desc
  task : Option LoadTask
  unloads : List ResetTask
  held : List HeldHalf
  committed : List HeldHalf
  latched : List HeldHalf
  nextJob : Nat
  poisons : List Poison
  restarting : Bool
  deriving DecidableEq, Repr

/-- The pace domain a package belongs to (R31 to R34). -/
structure Domain where
  id : Byte
  treeDepth : Nat
  pkgDepth : Nat
  parent : Option LinkId
  children : BitVec 6
  hopDelay : Nat
  deriving DecidableEq, Repr

/-- An armed hold: the count of the lap boundary it targets, and whether this package raised the first request for it
(R48, R52), and whether its held lap has been counted. -/
structure ArmedHold where
  target : Nat
  jobIndex : Byte
  raisedHere : Bool
  counted : Bool
  deriving DecidableEq, Repr

/-- A part of a mark period that ended before its mark: the grade it ran at and the demand of each partition, as a fraction (R26). -/
structure SlackSegment where
  grade : Fin 8
  demands : Vector (Nat × Nat) 8
  deriving DecidableEq, Repr

/-- The pacer (R23 to R53, R410). tightenSince is the count from which the domain's class has met the tighten conditions (R28); segments
are the parts of the present mark period that a change of grade or demand has ended. -/
structure Pacer where
  count : W64
  grade : Fin 8
  voltage : Fin 8
  domain : Option Domain
  outstanding : Option (Fin 8 × Nat)
  skipEval : Bool
  worst : Fin 8
  lastWorst : Fin 8
  thermalSeen : Bool
  tightenSince : Nat
  segments : List SlackSegment
  localref : Bool
  rackrefBack : Bool
  refsLost : Bool
  offset : Int
  missedMarks : Nat
  adopted : Bool
  holds : List ArmedHold
  window : Nat
  windowSlips : Nat
  recent : List (LinkId × BitVec 4 × BitVec 44 × Nat)
  stretchClass : BitVec 3
  tightenClass : BitVec 3
  floor : BitVec 3
  slipCount : W64
  badCell : W64
  deriving DecidableEq, Repr

/-- SRAM of the four dies: plots, the errors that words of the plots and of the reserves hold, row repair (R54 to R61). -/
structure Sram where
  mem : Bytes
  ecc : List (Nat × EccErr)
  reserve : List ReserveErr
  corrected : List Nat
  occasions : List (Nat × W64)
  retired : List Nat
  spares : Vector Nat 4
  exhausted : Vector Bool 4
  deriving DecidableEq, Repr

/-- One partition (R14, R85, R86, R93, R98). A partition that is zeroed on its way to MARKS has st MARKS with zeroing set, and left is the state
that it is still in (R61). heldCq is, of a partition in HOLD, the EVENT_CQ that the job it held names (R277). Then: state, owner, job, checker maps,
predicate bits, queues, engines and programs. -/
structure Partition where
  st : PState
  left : PState
  zeroing : Bool
  scrubFirst : Bool
  owner : Option FnId
  job : Option Nat
  jobPart : Nat
  fault : W16
  mapA : Option AllocMap
  mapB : Option AllocMap
  mapGold : Option AllocMap
  pred : W16
  demandNum : Nat
  demandDen : Nat
  queues : List Queue
  engines : List Engine
  streams : List Stream
  lists : List GraphList
  pointQ : List Issued
  configs : List PointConfig
  serials : List W32
  heldCq : Option (FnId × RingIx)
  deriving DecidableEq, Repr

/-- The stop of a job that a contract violation has faulted (R71, R352): the pace count of the beat, the tiles and engines whose violation is
logged, as in their records, and the job's partitions as they were. -/
structure Stopping where
  beat : W64
  units : List (Nat × Nat)
  parts : List (PartId × Partition)
  deriving DecidableEq, Repr

/-- A job on the package (R31 to R33, R116 to R123, R166 to R189, R351, R395 to R401). slices are the slice records that admitted
its start or resume (R242); prior is where its START reports while a RESUME is armed (R293, R401); occBase the occurrences of its
transfers before its present lap sequence began (R396). -/
structure Job where
  id : Nat
  fn : FnId
  origin : Origin
  tag : W32
  eventCq : RingIx
  parts : List PartId
  lead : PartId
  phase : JobPhase
  image : Image
  startDone : Bool
  startDesc : Option Desc
  resuming : Bool
  pace : Option PaceBlock
  planSel : Nat
  ranks : Option RankTable
  slices : List (Fin 8)
  prior : Option (Origin × W32 × RingIx)
  occBase : List (Bool × W16 × Nat)
  circuits : Nat
  predInit : W16
  fromHurdle : Option HurdleDecl
  digests : List DigestCell
  lap : Option LapState
  endCount : Option Nat
  resumeCount : Option Nat
  hurdle : Option HurdleDecl
  nextHurdle : Nat
  xfers : List XferState
  sends : List BoundSend
  ringDeferred : List Deferred
  ringSampled : List (W16 × Sampled)
  ringLanding : List Landing
  bindQ : List (Fin 7 × List Binding)
  slips : Nat
  firstFault : W16
  divergedAtLap : Bool
  parkedMap : Option AllocMap
  saved : List SavedPart
  savedPace : Option PaceBlock
  stopping : Option Stopping
  deriving DecidableEq, Repr

/-- HOLD and epochs of the units (R355, R356): units in HOLD, and each unit's epoch but for the Management Complex's (Mgt.epoch); units not
listed have epoch 0. That 1,000 ms pass before a unit leaves HOLD with an epoch value again is part of what HOLD_EXIT says. -/
structure Units where
  hold : List UnitId
  epochs : List (UnitId × Byte)
  deriving DecidableEq, Repr

/-- A frame the Point Engine may be running is whole inside the FRAME row; between rows it keeps whose turn is next (R15), and its counters
(R165, Table 18-3). convolving says, inside the row, that the frame has reached a convolution (R144). -/
structure PointEngine where
  nextUpper : Bool
  convolving : Bool
  rejects : W64
  frames : W64
  deriving DecidableEq, Repr

/-- One direction of a link's lanes (R193, R213, R214): states, which physical lane carries each logical lane, inverted
lanes, corrected bytes in the present period, swaps in order of failure, the last lane swapped with its count, swaps made, and the
transmitter lane that each physical lane receives. -/
structure Lanes where
  states : Vector LaneState 18
  logical : Vector LaneIx 16
  inverted : BitVec 18
  errors : Vector Nat 18
  pendingSwap : List LaneSwap
  lastSwap : Option (Fin 16 × Nat)
  swapped : Nat
  carrier : Vector LaneIx 18
  deriving DecidableEq, Repr

/-- One Zhevham link: registers, training, lanes, frames, replay, credits, cells and deferred sends (R166 to R228, Table 18-5). ackFrom is the count
at which the oldest frame accepted and not yet acknowledged came (R204); elastic the frames that wait for their beat, with their phase
(R197), sincePresented the beats since the last frame was presented, on a link in locked mode; uncorrRun, for each physical lane, the frames
in a row with an uncorrectable codeword in which every other lane's bytes were good, and laneErrNow the limit of the present period (R213, Table
18-5); regrade the fill of a grade change, and the own count at which the frames it follows come (R196); heard the pace count of the last good
frame, counted on by one at each bad frame since (R214); feed and hold the burst frames on their way to and from the
link (R251, R253); spillLost that the partition of its SPILL region has faulted (R210). -/
structure Link where
  enable : Bool
  stage : Stage
  present : Bool
  absent : Bool
  absentLogged : Bool
  waiting : Bool
  fails : Nat
  chipUnsetLogged : Bool
  peerExpect : W32
  conflict : Bool
  peerSeen : W64
  delay : BitVec 16
  replayTimeout : BitVec 7
  laneErrLimit : W16
  laneErrNow : W16
  cableId : BitVec 256
  epoch : Byte
  partnerEpoch : Byte
  tx : Lanes
  rx : Lanes
  nextSeq : W16
  unacked : List ReplayEntry
  replayPtr : Option Nat
  timeouts : Nat
  rrOut : BitVec 4
  rrSeen : BitVec 4
  expectSeq : W16
  ackOut : W16
  accepted : W16
  sinceAck : Nat
  ackFrom : Option Nat
  gap : BitVec 4
  regrade : Option (Nat × BitVec 4)
  heard : Nat
  badRun : Nat
  uncorrRun : Vector Nat 18
  elastic : List (RawFrame × BitVec 16)
  sincePresented : Option Nat
  creditJob : Nat
  creditMgmt : Nat
  freedJob : Byte
  freedMgmt : Byte
  partnerFreedJob : Byte
  partnerFreedMgmt : Byte
  rxUsedJob : Nat
  rxUsedMgmt : Nat
  paceCells : List PaceCell
  deferred : List Deferred
  sampled : List Sampled
  landing : List Landing
  feed : List StoredFrame
  hold : List StoredFrame
  tableA : Option PlanDef
  tableB : Option PlanDef
  owner : Option Nat
  wire : Option RawFrame
  frameBad : W64
  dup : W64
  outOfSeq : W64
  epochDrop : W64
  replayCount : W64
  cellDrop : W64
  stray : W64
  burstSlots : W64
  uCells : W64
  sparesUsed : W64
  cellsForwarded : W64
  spillWritten : W64
  spillLost : Bool
  stumbles : W64
  slipsRaised : W64
  exhaustedEvents : W64
  peakJob : W64
  peakMgmt : W64
  deriving DecidableEq, Repr

/-- Infield rings: units on their way over the package or at their last stop, in the order in which they set out; the frames of reserved
occurrences on their way; outstanding requests, counters and their snapshot (R250, R251, R255, R259 to R266). -/
structure Infield where
  transit : List RingUnit
  flights : List RingFlight
  requests : List Request
  reuse : List (Bool × Byte × Byte)
  cellTimeout : BitVec 10
  staleCount : W64
  cellDrop : W64
  corrected : W64
  snap : W32
  snapPace : W64
  snapLap : W64
  snapSlips : W64
  snapGrade : W64
  snapWorst : W64
  snapLinks : Vector (Vector W64 15) 6
  snapRings : List (Nat × Vector W64 5)
  ringUse : List (Nat × Vector W64 5)
  deriving DecidableEq, Repr

/-- A submission ring (Table 12-3, R278, R283). seen is the HOST_COUNT last read, which is TAIL while no error has stopped the ring; held are the
descriptors behind an ORDER bit that has not been met, oldest first, the one that bears it at their head (R285). -/
structure Sq where
  base : W64
  dbl : W64
  enable : Bool
  stopped : Bool
  error : Bool
  cq : RingIx
  errCause : BitVec 4
  sizeLog2 : BitVec 5
  head : W32
  tail : W32
  seen : W32
  inflight : Nat
  unchanged : Nat
  interval : Nat
  readFail : Bool
  held : List Desc
  deriving DecidableEq, Repr

/-- A completion ring with the completions that wait for room (Tables 12-4, 12-5, R295, R296) and how often its line has been
read without a change (R283). -/
structure Cq where
  base : W64
  dbl : W64
  enable : Bool
  overflow : Bool
  error : Bool
  errCause : BitVec 4
  sizeLog2 : BitVec 5
  irqEn : Bool
  delay : BitVec 10
  countM1 : Byte
  vec : Byte
  count : W32
  head : W32
  waiting : List Completion
  sinceMsg : Nat
  unchanged : Nat
  interval : Nat
  readFail : Bool
  deriving DecidableEq, Repr

/-- A function's registers, MSI-X table (address and data words that are not zero, mask bits, pending bits), rings, and the submission
ring whose turn is next (R271 to R281, R284, R296, R301). -/
structure Function where
  setupLock : Bool
  dblMode : Bool
  fallbackLogged : Bool
  msixTable : List (Nat × W32)
  msixMask : BitVec 256
  msixPend : BitVec 256
  winRoot : W64
  mismatch : W32
  winFaults : W32
  sqs : Vector Sq 16
  cqs : Vector Cq 16
  turn : RingIx
  deriving DecidableEq, Repr

/-- Stages of the host port (R269, R372). -/
inductive PortStage where
  | reset | detect | up
  deriving DecidableEq, Repr

/-- The state of a line in the CXL cache (R282). -/
inductive LineState where
  | shared | exclusive | invalid
  deriving DecidableEq, Repr

/-- The Host Interface Unit beside its functions: port, configuration space, the doorbell lines its CXL cache holds by bus address,
binding, interrupt and excluded-range registers, the function whose turn is next, unit queues, window descriptors, messages sent
(R269 to R316). -/
structure Hiu where
  port : PortStage
  rate : BitVec 4
  width : BitVec 5
  flit : Bool
  cxlCache : Bool
  downEpisode : Bool
  bind : Vector W32 8
  errMask : Byte
  logVec : W32
  exclBase : Vector W64 4
  exclLimit : Vector W64 4
  config : PortConfig
  lines : List (Nat × LineState)
  turn : FnId
  mcQueue : List Desc
  reQueue : List Desc
  winOps : List WinOp
  headerWaits : List HeaderWait
  msix : List (FnId × Byte)
  epoch : Byte
  deriving DecidableEq, Repr

/-- Host memory as the device's accesses meet it: its bytes, the ranges whose reads fail and whose writes the IOMMU blocks
(R309, R316). -/
structure HostMem where
  mem : Bytes
  readFail : List (Nat × Nat)
  writeBlock : List (Nat × Nat)
  deriving DecidableEq, Repr

/-- A service port (R319, R320, Table 18-6). counters are those of each sub-port, of a port in MODE 1 the first; out holds the frames it has sent,
held those that wait on PAUSE. -/
structure SvcPort where
  mgmtEn : Bool
  pauseEn : Bool
  fec : Vector (BitVec 2) 4
  mode : BitVec 2
  linkUp : BitVec 4
  macs : Vector (BitVec 48) 4
  counters : Vector (Vector W64 10) 4
  paused : BitVec 4
  held : List (SubPort × List Byte)
  out : List (SubPort × List Byte)
  deriving DecidableEq, Repr

/-- A tenant service ring (R327, R328, Table 18-7). -/
structure TRing where
  enable : Bool
  error : Bool
  vec : Byte
  vf : BitVec 6
  sizeLog2 : BitVec 5
  base : W64
  dbl : W64
  key : W32
  drop : W32
  tail : W32
  head : W32
  fullEpisode : Bool
  header : Option (Nat × Hdr)
  root : W64
  deriving DecidableEq, Repr

/-- Service ports, rings, ZSH requests, streams and log export (R319 to R334). -/
structure Svc where
  ports : Vector SvcPort 2
  mcast : Vector W64 8
  ptpRing : W32
  tx : Sq
  txHeld : Option (List W64)
  trings : Vector TRing 32
  mgmtRing : List RxFrame
  excRing : List RxFrame
  requests : List ZshRequest
  streams : Vector (Option OutStream) 4
  subscriber : Option ZshRequest
  exportSeq : W32
  deriving DecidableEq, Repr

/-- An answer of the SPDM responder on PF0 (R392). -/
inductive SpdmReply where
  | none
  | version (major minor : Nat)
  | capabilities (cert chal meas : Bool) (keyExchange : Bool)
  | algorithms (asym hash : String)
  | digests (slot0 : BitVec 384)
  | certificate (chain : List Byte)
  | challengeAuth (chainDigest : BitVec 384) (nonce : BitVec 256)
  | measurements (index : Nat) (block : List Byte)
  | notReady
  | invalid
  deriving DecidableEq, Repr

/-- I3C, JTAG and SPDM interfaces: the last replies and what a firmware switch holds (R366, R379, R380, R392); boundary is what the lands follow
under EXTEST, CLAMP and HIGHZ, jtagOut what the TAP's present instruction has captured. -/
structure Side where
  i3cReply : List Byte
  i3cHeld : List (Bool × W64 × Byte × Nat × List Byte)
  jtag : JtagOp
  boundary : Lands
  jtagOut : JtagData
  spdm : SpdmReply
  deriving DecidableEq, Repr

/-- The whole package and its queue of waiting commands. fresh counts the free values drawn (the model's own field). -/
structure State where
  pending : List Instr
  power : Power
  boot : Boot
  clock : Clock
  log : TroubleLog
  mgt : Mgt
  pace : Pacer
  sram : Sram
  parts : Vector Partition 8
  jobs : List Job
  units : Units
  seqTurn : Vector (Fin 8) 4
  pe : Vector PointEngine 4
  links : Vector Link 6
  infield : Infield
  hiu : Hiu
  fns : Vector Function 33
  host : HostMem
  svc : Svc
  side : Side
  fresh : Nat
  deriving DecidableEq, Repr

/-! Reset values, block by block: the package with no supply applied; a value the spec does not give is named in the log. -/

def Power.reset : Power where
  porReleased := false
  stbyEpisode := false
  mainPg := false
  stopped := false
  mainEn := true
  limit := 2500
  trip := false
  overcurrent := false
  thermal := false
  powerStretch := false
  mainLow := false
  vin := 0
  powerW := 0
  vstby := 0
  peakPower := 0
  sensors := Vector.replicate 64 { last := 0, sampled := false, failed := false, hot := false }
  degraded := Vector.replicate 4 false
  thermalEpisode := false
  alertMask := 0
  alertStatus := 0
  perst := true
  thermtrip := false
  strap := 0

def Boot.reset : Boot where
  flash := []
  mode := .off
  slotB := false
  fwVersion := 0
  svn := 0
  fwDigest := 0
  stage := .idle
  fwOffset := 0
  staged := []

def TxStamp.zero : TxStamp := { id := 0, sub := 0, sec := 0, ns := 0, frac := 0 }

def Clock.reset : Clock where
  sec := 0
  ns := 0
  frac := 0
  incr := 0x0400000000
  incrNext := none
  latSec := 0
  latFrac := 0
  step := 0
  setSec := 0
  setNs := 0
  change := none
  jumpRefused := false
  fallback := false
  thresh := 1000000
  paceCount := 0
  paceTime := 0
  paceFrozen := false
  readData := 0
  stamps := Vector.replicate 2 { entries := [], latched := TxStamp.zero, overflow := 0, adj := Vector.replicate 4 0 }

def TroubleLog.reset : TroubleLog where
  slots := []
  head := 0
  pinned := 0
  lost := 0
  overwritten := 0
  suppressed := 0
  seq := 0
  input := []
  holdoffs := []

def Mgt.reset : Mgt where
  machineId := 0
  topology := 0x08000000
  chipId := 0
  scrubPeriod := 8
  hangLimit := 100
  keys := Vector.replicate 8 { state := .empty, x := 0, y := 0 }
  staleCount := 0
  epoch := 0
  slices := Vector.replicate 8 0
  loads := []
  loadHeld := none
  task := none
  unloads := []
  held := []
  committed := []
  latched := []
  nextJob := 0
  poisons := []
  restarting := false

def Pacer.reset : Pacer where
  count := 0
  grade := 0
  voltage := 0
  domain := none
  outstanding := none
  skipEval := false
  worst := 7
  lastWorst := 7
  thermalSeen := false
  tightenSince := 0
  segments := []
  localref := false
  rackrefBack := false
  refsLost := false
  offset := 0
  missedMarks := 0
  adopted := false
  holds := []
  window := 0
  windowSlips := 0
  recent := []
  stretchClass := 2
  tightenClass := 6
  floor := 0
  slipCount := 0
  badCell := 0

def Sram.reset : Sram where
  mem := []
  ecc := []
  reserve := []
  corrected := []
  occasions := []
  retired := []
  spares := Vector.replicate 4 14336
  exhausted := Vector.replicate 4 false

def Partition.reset : Partition where
  st := .marks
  left := .marks
  zeroing := false
  scrubFirst := false
  owner := none
  job := none
  jobPart := 0
  fault := 0
  mapA := none
  mapB := none
  mapGold := none
  pred := 0
  demandNum := 0
  demandDen := 1
  queues := []
  engines := []
  streams := []
  lists := []
  pointQ := []
  configs := []
  serials := []
  heldCq := none

def Lanes.reset : Lanes where
  states := Vector.replicate 18 .active
  logical := Vector.ofFn (fun i : Fin 16 => (⟨i.val, Nat.lt_of_lt_of_le i.isLt (by decide)⟩ : LaneIx))
  inverted := 0
  errors := Vector.replicate 18 0
  pendingSwap := []
  lastSwap := none
  swapped := 0
  carrier := Vector.ofFn (fun i : LaneIx => i)

def Link.reset : Link where
  enable := false
  stage := .off
  present := false
  absent := false
  absentLogged := false
  waiting := false
  fails := 0
  chipUnsetLogged := false
  peerExpect := 0
  conflict := false
  peerSeen := 0
  delay := 0
  replayTimeout := 4
  laneErrLimit := 256
  laneErrNow := 256
  cableId := 0
  epoch := 0
  partnerEpoch := 0
  tx := Lanes.reset
  rx := Lanes.reset
  nextSeq := 0
  unacked := []
  replayPtr := none
  timeouts := 0
  rrOut := 0
  rrSeen := 0
  expectSeq := 0
  ackOut := 0xFFFF
  accepted := 0xFFFF
  sinceAck := 0
  ackFrom := none
  gap := 0
  regrade := none
  heard := 0
  badRun := 0
  uncorrRun := Vector.replicate 18 0
  elastic := []
  sincePresented := none
  creditJob := 0
  creditMgmt := 0
  freedJob := 0
  freedMgmt := 0
  partnerFreedJob := 0
  partnerFreedMgmt := 0
  rxUsedJob := 0
  rxUsedMgmt := 0
  paceCells := []
  deferred := []
  sampled := []
  landing := []
  feed := []
  hold := []
  tableA := none
  tableB := none
  owner := none
  wire := none
  frameBad := 0
  dup := 0
  outOfSeq := 0
  epochDrop := 0
  replayCount := 0
  cellDrop := 0
  stray := 0
  burstSlots := 0
  uCells := 0
  sparesUsed := 0
  cellsForwarded := 0
  spillWritten := 0
  spillLost := false
  stumbles := 0
  slipsRaised := 0
  exhaustedEvents := 0
  peakJob := 0
  peakMgmt := 0

def Infield.reset : Infield where
  transit := []
  flights := []
  requests := []
  reuse := []
  cellTimeout := 100
  staleCount := 0
  cellDrop := 0
  corrected := 0
  snap := 0
  snapPace := 0
  snapLap := 0
  snapSlips := 0
  snapGrade := 0
  snapWorst := 0
  snapLinks := Vector.replicate 6 (Vector.replicate 15 0)
  snapRings := []
  ringUse := []

def Sq.reset : Sq where
  base := 0
  dbl := 0
  enable := false
  stopped := true
  error := false
  cq := 0
  errCause := 0
  sizeLog2 := 6
  head := 0
  tail := 0
  seen := 0
  inflight := 0
  unchanged := 0
  interval := 250
  readFail := false
  held := []

def Cq.reset : Cq where
  base := 0
  dbl := 0
  enable := false
  overflow := false
  error := false
  errCause := 0
  sizeLog2 := 6
  irqEn := false
  delay := 0
  countM1 := 0
  vec := 0
  count := 0
  head := 0
  waiting := []
  sinceMsg := 0
  unchanged := 0
  interval := 250
  readFail := false

def Function.reset : Function where
  setupLock := false
  dblMode := false
  fallbackLogged := false
  msixTable := []
  msixMask := BitVec.allOnes 256
  msixPend := 0
  winRoot := 0
  mismatch := 0
  winFaults := 0
  sqs := Vector.replicate 16 Sq.reset
  cqs := Vector.replicate 16 Cq.reset
  turn := 0

/-- Configuration space at reset: BARs 0, every function in D0, and the sizes that PCI Express gives at reset, 128 and 512 bytes
(PRESUMED, log 146). -/
def PortConfig.reset : PortConfig where
  barPf := 0
  barVf := 0
  maxPayload := 0
  maxRead := 2
  d3hot := 0
  msixEnable := 0
  msixMasked := 0

def Hiu.reset : Hiu where
  port := .reset
  rate := 0
  width := 0
  flit := false
  cxlCache := false
  downEpisode := false
  bind := Vector.replicate 8 0
  errMask := 3
  logVec := 0
  exclBase := Vector.replicate 4 0
  exclLimit := Vector.replicate 4 0
  config := PortConfig.reset
  lines := []
  turn := 0
  mcQueue := []
  reQueue := []
  winOps := []
  headerWaits := []
  msix := []
  epoch := 0

def SvcPort.reset : SvcPort where
  mgmtEn := false
  pauseEn := false
  fec := Vector.replicate 4 0
  mode := 0
  linkUp := 0
  macs := Vector.replicate 4 0
  counters := Vector.replicate 4 (Vector.replicate 10 0)
  paused := 0
  held := []
  out := []

def TRing.reset : TRing where
  enable := false
  error := false
  vec := 0
  vf := 0
  sizeLog2 := 6
  base := 0
  dbl := 0
  key := 0
  drop := 0
  tail := 0
  head := 0
  fullEpisode := false
  header := none
  root := 0

def Svc.reset : Svc where
  ports := Vector.replicate 2 SvcPort.reset
  mcast := Vector.replicate 8 0
  ptpRing := 0
  tx := Sq.reset
  txHeld := none
  trings := Vector.replicate 32 TRing.reset
  mgmtRing := []
  excRing := []
  requests := []
  streams := Vector.replicate 4 none
  subscriber := none
  exportSeq := 0

def Side.reset : Side where
  i3cReply := []
  i3cHeld := []
  jtag := .idcode
  boundary := { present := 0, perst := false, address := 0, alert := false, mainPg := false, serial := 0 }
  jtagOut := .none
  spdm := .none

/-- The package right after a cold reset's clearing and before any row: no supply's event has been seen, every register
at its reset value, SRAM zero, the log empty, the queue of commands empty. -/
def State.reset : State where
  pending := []
  power := Power.reset
  boot := Boot.reset
  clock := Clock.reset
  log := TroubleLog.reset
  mgt := Mgt.reset
  pace := Pacer.reset
  sram := Sram.reset
  parts := Vector.replicate 8 Partition.reset
  jobs := []
  units := { hold := [], epochs := [] }
  seqTurn := Vector.replicate 4 0
  pe := Vector.replicate 4 { nextUpper := false, convolving := false, rejects := 0, frames := 0 }
  links := Vector.replicate 6 Link.reset
  infield := Infield.reset
  hiu := Hiu.reset
  fns := Vector.replicate 33 Function.reset
  host := { mem := [], readFail := [], writeBlock := [] }
  svc := Svc.reset
  side := Side.reset
  fresh := 0

end Sys2Proof.Machine
end

