-- ==== Sys2Proof/Machine/Fields.lean ====
section
/-! DEFINITION. Named fields of the stored layouts: commands, baton references, queue entries, map entries, transfers,
segments, sequence entries, cells, descriptors; and the numbering of tiles, partitions, dies and links. -/

namespace Sys2Proof.Machine

/-! Numbering (R13, R14, R16). -/

def allParts : List PartId := [0, 1, 2, 3, 4, 5, 6, 7]
def allLinks : List LinkId := [0, 1, 2, 3, 4, 5]
def allDies : List DieId := [0, 1, 2, 3]
def allStreams : List StreamIx := [0, 1, 2, 3]
def allFns : List FnId := List.finRange 33
def allRings : List RingIx := List.finRange 16

/-- A number as an index, modulo the range. -/
def finOf (n : Nat) [NeZero n] (k : Nat) : Fin n := Fin.ofNat n k

/-- Die of a partition (R14). -/
def dieOfPart (p : PartId) : DieId := finOf 4 (p.val / 2)
/-- Partition and tile within it of a tile id (R14). -/
def partOfTile (t : TileId) : PartId := finOf 8 (t.val / 32)
def tileInPart (t : TileId) : Fin 32 := finOf 32 t.val
/-- Tile id of tile t of partition p. -/
def tileId (p : PartId) (t : Nat) : Nat := 32 * p.val + t
/-- Die of a link (Table 01-3). -/
def dieOfLink (l : LinkId) : DieId :=
  match l.val with
  | 0 => 0 | 1 => 1 | 2 => 2 | 3 => 3 | 4 => 0 | _ => 2
/-- Package offset of the first byte of a partition (R54). -/
def partBase (p : PartId) : Nat := p.val * 2 ^ 33
/-- Partition of a package offset (R54). -/
def partOfOffset (a : Nat) : PartId := finOf 8 (a / 2 ^ 33)

/-! Command words (Tables 04-6, 04-7). -/

def Cmd.zero : Cmd := { w := Vector.replicate 8 0 }
def Cmd.word (c : Cmd) (i : Fin 8) : W64 := c.w[i]
def Cmd.group (c : Cmd) : Nat := fld (c.word 0) 63 60
def Cmd.opcode (c : Cmd) : Nat := fld (c.word 0) 59 52
def Cmd.tile (c : Cmd) : Fin 32 := finOf 32 (fld (c.word 0) 51 47)
def Cmd.predEn (c : Cmd) : Bool := bit (c.word 0) 46
def Cmd.predPol (c : Cmd) : Bool := bit (c.word 0) 45
def Cmd.predSel (c : Cmd) : Nat := fld (c.word 0) 44 41
def Cmd.voidMode (c : Cmd) : Nat := fld (c.word 0) 40 39
def Cmd.relGen (c : Cmd) : Bool := bit (c.word 0) 38
def Cmd.nwait (c : Cmd) : Nat := fld (c.word 0) 37 36
def Cmd.npost (c : Cmd) : Nat := fld (c.word 0) 35 34

/-- The eight words as 64 bytes, little-endian (R1, R87). -/
def Cmd.ofBytes (bs : List Byte) : Cmd :=
  { w := Vector.ofFn (fun i : Fin 8 => BitVec.ofNat 64 (leAt bs (8 * i.val) 8)) }

def wordsToBytes (ws : List W64) : List Byte := ws.flatMap (fun w => natLE 8 w.toNat)

/-- A baton reference (Table 04-7). -/
abbrev BatonRef := BitVec 32
def refQueue (r : BatonRef) : Fin 64 := finOf 64 (fld r 31 26)
def refTile (r : BatonRef) : Fin 32 := finOf 32 (fld r 25 21)
def refId (r : BatonRef) : W16 := BitVec.ofNat 16 (fld r 20 5)
def refGen (r : BatonRef) : Nat := fld r 4 1

def Cmd.waits (c : Cmd) : List BatonRef :=
  [BitVec.ofNat 32 (fld (c.word 1) 31 0), BitVec.ofNat 32 (fld (c.word 1) 63 32)].take c.nwait
def Cmd.posts (c : Cmd) : List BatonRef :=
  [BitVec.ofNat 32 (fld (c.word 2) 31 0), BitVec.ofNat 32 (fld (c.word 2) 63 32)].take c.npost

/-- Effective generation (R97). -/
def effGen (rel : Bool) (gen iter : Nat) : Nat := if rel then (gen + iter) % 16 else gen

/-! Queue entries (Table 04-9). -/

def qPayload (e : QEntry) : BitVec 96 := BitVec.ofNat 96 (fld e 127 32)
def qId (e : QEntry) : W16 := BitVec.ofNat 16 (fld e 31 16)
def qGen (e : QEntry) : Nat := fld e 15 12
def qVoid (e : QEntry) : Bool := bit e 11
def mkEntry (payload : BitVec 96) (id : W16) (gen : Nat) (src : Nat) : QEntry :=
  BitVec.ofNat 128 (payload.toNat * 2 ^ 32 + id.toNat * 2 ^ 16 + (gen % 16) * 2 ^ 12 + src % 256)
/-- A void entry: zero payload, VOID and the cause (R94). -/
def mkVoid (cause : Nat) (id : W16) (gen : Nat) (src : Nat) : QEntry :=
  BitVec.ofNat 128 (id.toNat * 2 ^ 16 + (gen % 16) * 2 ^ 12 + 2 ^ 11 + (cause % 8) * 2 ^ 8 + src % 256)

/-! Allocation map entries (Table 03-5). -/

def meTileMask (e : BitVec 128) : Nat := fld e 127 96
def meLink (e : BitVec 128) : Nat := fld e 95 92
def mePurpose (e : BitVec 128) : Nat := fld e 87 80
def meKinds (e : BitVec 128) : Nat := fld e 79 72
def mePages (e : BitVec 128) : Nat := fld e 53 32
def meBase (e : BitVec 128) : Nat := fld e 20 0
/-- Rsvd bits 91:88, 71:54 and 31:21 of an entry, and KINDS bit 7 (Table 03-5). -/
def meRsvdMask : BitVec 128 := BitVec.ofNat 128 (15 * 2 ^ 88 + 2 ^ 79 + (2 ^ 18 - 1) * 2 ^ 54 + (2 ^ 11 - 1) * 2 ^ 21)
def meRsvd (e : BitVec 128) : BitVec 128 := e &&& meRsvdMask
def meLive (e : BitVec 128) : BitVec 128 := e &&& ~~~meRsvdMask
/-- First byte and length in bytes of a region, as partition offsets. -/
def meStart (e : BitVec 128) : Nat := meBase e * 4096
def meLen (e : BitVec 128) : Nat := mePages e * 4096
def meHas (e : BitVec 128) (kind : Nat) : Bool := (meKinds e).testBit kind
def meTile (e : BitVec 128) (t : Nat) : Bool := (meTileMask e).testBit t
def mkMapEntry (mask link purpose kinds pages base : Nat) : BitVec 128 :=
  BitVec.ofNat 128 (mask * 2 ^ 96 + link * 2 ^ 92 + purpose * 2 ^ 80 + kinds * 2 ^ 72 + pages * 2 ^ 32 + base)

/-- Region purposes (Table 03-3). -/
def Purpose.free : Nat := 0
def Purpose.code : Nat := 1
def Purpose.tensor : Nat := 2
def Purpose.queue : Nat := 3
def Purpose.landing : Nat := 4
def Purpose.spill : Nat := 5
def Purpose.pointTable : Nat := 6
def Purpose.parkMap : Nat := 7
/-- KINDS bit numbers (Table 03-5). -/
def Kind.tileRead : Nat := 0
def Kind.tileWrite : Nat := 1
def Kind.mover : Nat := 2
def Kind.landing : Nat := 3
def Kind.spill : Nat := 4
def Kind.point : Nat := 5
def Kind.window : Nat := 6

/-- The used entries of a map, with their indices. -/
def AllocMap.used (m : AllocMap) : List (Nat × BitVec 128) := (List.range m.count).zip (m.entries.take m.count)
def AllocMap.entry? (m : AllocMap) (i : Nat) : Option (BitVec 128) := if i < m.count then m.entries[i]? else none

/-! Plans (R168, R169, Table 08-4). -/

def segKind (g : W32) : Nat := fld g 31 29
def segXfer (g : W32) : Nat := fld g 28 16
def segLen (g : W32) : Nat := fld g 15 0 + 1
/-- Segment kinds (R169). -/
def Seg.idle : Nat := 0
def Seg.burst : Nat := 1
def Seg.u : Nat := 2
def Seg.spare : Nat := 3

def seqTable (e : W32) : Nat := fld e 31 26
def seqRepeat (e : W32) : Nat := fld e 15 0 + 1

def Transfer.number (t : Transfer) : W16 := BitVec.ofNat 16 (fld t.w[0] 63 48)
def Transfer.slots (t : Transfer) : Nat := fld t.w[0] 47 46 + 1
def Transfer.part (t : Transfer) : Nat := fld t.w[0] 45 43
def Transfer.relGen (t : Transfer) : Bool := bit t.w[0] 42
def Transfer.offset (t : Transfer) : Nat := fld t.w[0] 32 0
def Transfer.region (t : Transfer) : Nat := fld t.w[1] 63 54
def Transfer.queue (t : Transfer) : Fin 64 := finOf 64 (fld t.w[2] 63 58)
def Transfer.qtile (t : Transfer) : Fin 32 := finOf 32 (fld t.w[2] 57 53)
def Transfer.batonId (t : Transfer) : W16 := BitVec.ofNat 16 (fld t.w[2] 52 37)
def Transfer.gen (t : Transfer) : Nat := fld t.w[2] 36 33
def Transfer.zero : Transfer := { w := Vector.replicate 4 0 }

/-- Segments of table t of a set. -/
def TableSet.segsOf (k : TableSet) (t : Nat) : List W32 :=
  match k.tables[t]? with
  | some (first, n) => (k.segs.drop first).take n
  | none => []
/-- Does the set hold table t (R168)? -/
def TableSet.holds (k : TableSet) (t : Nat) : Bool :=
  match k.tables[t]? with
  | some (_, n) => n != 0
  | none => false
def TableSet.isRing (k : TableSet) : Bool := k.link.toNat == 0xE
def TableSet.onLink (k : TableSet) (l : LinkId) : Bool := k.link.toNat == l.val
def TableSet.xfer? (k : TableSet) (i : Nat) : Option Transfer := k.xfers[i]?

/-- The segments that lie in a table of the set; only these give occurrences (R169). -/
def TableSet.inTables (k : TableSet) : List W32 := (List.range k.tables.length).flatMap k.segsOf
/-- Does a BURST of a table of the set name the transfer? -/
def TableSet.names (k : TableSet) (t : W16) : Bool :=
  ((List.range k.xfers.length).zip k.xfers).any (fun x =>
    x.2.number == t && k.inTables.any (fun g => segKind g == Seg.burst && segXfer g == x.1))

/-- Segments with their first slots. -/
def placed : Nat → List W32 → List (Nat × W32)
  | _, [] => []
  | at_, g :: gs => (at_, g) :: placed (at_ + segLen g) gs

/-- The segment that covers slot s and its first slot. -/
def segAt (s : Nat) (gs : List W32) : Option (Nat × W32) :=
  (placed 0 gs).find? (fun x => x.1 ≤ s && s < x.1 + segLen x.2)

def PlanDef.set? (p : PlanDef) (l : LinkId) (rx : Bool) : Option TableSet :=
  p.sets.find? (fun k => k.onLink l && k.rx == rx)
def PlanDef.usesLink (p : PlanDef) (l : LinkId) : Bool := p.sets.any (fun k => k.onLink l)
def PlanSection.plan? (k : PlanSection) (id : Nat) : Option PlanDef := k.plans.find? (fun p => p.planId == id)
def PlanSection.usesLink (k : PlanSection) (l : LinkId) : Bool := k.plans.any (fun p => p.usesLink l)

/-! Cells (Table 08-9) and fabric addresses (R235). -/

def faClass (a : W64) : Bool := bit a 63
def faChip (a : W64) : BitVec 13 := BitVec.ofNat 13 (fld a 62 50)
def faZero (a : W64) : Bool := fld a 49 36 == 0
def faOffset (a : W64) : Nat := fld a 35 0
def mkFa (cls : Bool) (chip : BitVec 13) (off : Nat) : W64 :=
  BitVec.ofNat 64 (b2n cls * 2 ^ 63 + chip.toNat * 2 ^ 50 + off % 2 ^ 36)

def Cell.kind (c : Cell) : Nat := fld c.head 63 60
def Cell.wordsM1 (c : Cell) : Nat := fld c.head 59 58
def Cell.mgmt (c : Cell) : Bool := bit c.head 57
def Cell.src (c : Cell) : BitVec 13 := BitVec.ofNat 13 (fld c.head 56 44)
def Cell.tag (c : Cell) : W16 := BitVec.ofNat 16 (fld c.head 43 28)
def Cell.epoch (c : Cell) : Byte := BitVec.ofNat 8 (fld c.head 27 20)
def Cell.jobIndex (c : Cell) : Byte := BitVec.ofNat 8 (fld c.head 19 12)
def Cell.domain (c : Cell) : Byte := BitVec.ofNat 8 (fld c.head 11 4)
def Cell.bytes (c : Cell) : List Byte := natLE 48 c.data.toNat
def Cell.mgmtType (c : Cell) : Nat := (byteAt c.data 0).toNat
def mkHead (kind wordsM1 : Nat) (mgmt : Bool) (src : BitVec 13) (tag : W16) (epoch jobIndex domain : Byte) : W64 :=
  BitVec.ofNat 64 (kind * 2 ^ 60 + wordsM1 * 2 ^ 58 + b2n mgmt * 2 ^ 57 + src.toNat * 2 ^ 44 + tag.toNat * 2 ^ 28
    + epoch.toNat * 2 ^ 20 + jobIndex.toNat * 2 ^ 12 + domain.toNat * 2 ^ 4)
def mkData (bs : List Byte) : CellData := BitVec.ofNat 384 (leNat (bs.take 48))
/-- Cell kinds (Table 08-9). -/
def CellKind.write : Nat := 1
def CellKind.readReq : Nat := 2
def CellKind.readData : Nat := 3
def CellKind.completion : Nat := 4
def CellKind.management : Nat := 5

/-! Chip ids (R229). -/
def chipX (c : BitVec 13) : Nat := fld c 3 0
def chipY (c : BitVec 13) : Nat := fld c 7 4
def chipZ (c : BitVec 13) : Nat := fld c 12 8
def mkChip (x y z : Nat) : BitVec 13 := BitVec.ofNat 13 (z * 256 + y * 16 + x)

/-! Descriptors (R286, Table 12-8). -/

def Desc.word (d : Desc) (i : Fin 8) : W64 := d.w[i]
def Desc.opcode (d : Desc) : Nat := fld (d.word 0) 63 56
def Desc.order (d : Desc) : Bool := bit (d.word 0) 48
def Desc.tag (d : Desc) : W32 := BitVec.ofNat 32 (fld (d.word 0) 31 0)
/-- LEAD of a job descriptor, bits 2:0 of word 2. -/
def Desc.lead (d : Desc) : PartId := finOf 8 (fld (d.word 2) 2 0)
/-- Rsvd bits of word 0 are zero. -/
def Desc.word0Ok (d : Desc) : Bool := fld (d.word 0) 55 49 == 0 && fld (d.word 0) 47 32 == 0
def Desc.ofBytes (fn : FnId) (o : Origin) (bs : List Byte) : Desc :=
  { fn := fn, origin := o, w := Vector.ofFn (fun i : Fin 8 => BitVec.ofNat 64 (leAt bs (8 * i.val) 8)) }

/-- Descriptor opcodes (Table 12-7). -/
def Op.load : Nat := 1
def Op.unload : Nat := 2
def Op.start : Nat := 3
def Op.endD : Nat := 4
def Op.hurdle : Nat := 5
def Op.park : Nat := 6
def Op.resume : Nat := 7
def Op.transfer : Nat := 8
def Op.predicate : Nat := 9
def Op.query : Nat := 10
def Op.logRead : Nat := 11
def Op.partReset : Nat := 12
def Op.mgmtRead : Nat := 13
def Op.mgmtWrite : Nat := 14

/-- Is the descriptor one of a job, whose completion carries LEAD (Tables 12-8 and 12-10)? -/
def Desc.ofJob (d : Desc) : Bool :=
  d.opcode == Op.start || d.opcode == Op.endD || d.opcode == Op.hurdle || d.opcode == Op.park || d.opcode == Op.resume
/-- Opcodes that the Management Complex serves, and those of the Ring Engine (Table 12-7). -/
def Op.ofMc (op : Nat) : Bool :=
  op == Op.load || op == Op.unload || op == Op.start || op == Op.park || op == Op.resume || op == Op.query || op == Op.logRead
  || op == Op.partReset || op == Op.mgmtRead || op == Op.mgmtWrite
def Op.ofRe (op : Nat) : Bool := op == Op.endD || op == Op.hurdle || op == Op.transfer || op == Op.predicate

end Sys2Proof.Machine
end

