-- ==== Sys2Proof/Machine/Frame.lean ====
section
/-! DEFINITION. The link frame of 2,176 bytes (Tables 09-2, 09-3): building, decoding, and its named fields (Table 08-7). -/

namespace Sys2Proof.Machine

/-! Slot field (Table 08-7). -/

def mkSlot0 (kind : Nat) (void deferred : Bool) (index slotsM1 plan : Nat) (transfer : W16) (rank : BitVec 13) (slot : Nat) : W64 :=
  BitVec.ofNat 64 (kind * 2 ^ 60 + b2n void * 2 ^ 59 + b2n deferred * 2 ^ 58 + index * 2 ^ 56 + slotsM1 * 2 ^ 54
    + plan * 2 ^ 51 + transfer.toNat * 2 ^ 32 + rank.toNat * 2 ^ 19 + slot % 2 ^ 16)
def mkSlot1 (domain job : Byte) (lap : Nat) : W64 :=
  BitVec.ofNat 64 (domain.toNat * 2 ^ 56 + job.toNat * 2 ^ 48 + lap % 2 ^ 32)

def FrameBody.kind (b : FrameBody) : Nat := fld b.slot0 63 60
def FrameBody.void (b : FrameBody) : Bool := bit b.slot0 59
def FrameBody.deferred (b : FrameBody) : Bool := bit b.slot0 58
def FrameBody.index (b : FrameBody) : Nat := fld b.slot0 57 56
def FrameBody.slotsM1 (b : FrameBody) : Nat := fld b.slot0 55 54
def FrameBody.plan (b : FrameBody) : Nat := fld b.slot0 53 51
def FrameBody.transfer (b : FrameBody) : W16 := BitVec.ofNat 16 (fld b.slot0 47 32)
def FrameBody.rank (b : FrameBody) : BitVec 13 := BitVec.ofNat 13 (fld b.slot0 31 19)
def FrameBody.slot (b : FrameBody) : Nat := fld b.slot0 15 0
def FrameBody.domain (b : FrameBody) : Byte := BitVec.ofNat 8 (fld b.slot1 63 56)
def FrameBody.job (b : FrameBody) : Byte := BitVec.ofNat 8 (fld b.slot1 55 48)
def FrameBody.lap (b : FrameBody) : Nat := fld b.slot1 31 0
/-- A frame that carries job fields: a burst frame, or one with any field of the slot field beside FRAME_KIND set. -/
def FrameBody.hasJob (b : FrameBody) : Bool := b.kind == 1 || b.kind == 2 || fld b.slot0 59 0 != 0 || b.slot1 != 0
/-- CARRIED of a burst's first frame (R174). -/
def FrameBody.carried (b : FrameBody) : BitVec 96 := BitVec.ofNat 96 (fld b.baton 95 0)
/-- The 2,048 payload bytes, and the 32 cells of a cell frame (R176). -/
def FrameBody.bytes (b : FrameBody) : List Byte := natLE 2048 b.payload.toNat
def Cell.ofBytes (bs : List Byte) : Cell :=
  { address := BitVec.ofNat 64 (leAt bs 0 8), head := BitVec.ofNat 64 (leAt bs 8 8), data := BitVec.ofNat 384 (leAt bs 16 48) }
def Cell.toBytes (c : Cell) : List Byte := natLE 8 c.address.toNat ++ natLE 8 c.head.toNat ++ natLE 48 c.data.toNat
def FrameBody.cells (b : FrameBody) : List Cell := ((chunks 64 32 b.bytes).map Cell.ofBytes).filter (fun c => c.kind != 0)
/-- Is the frame sequenced (R201)? -/
def FrameBody.sequenced (b : FrameBody) : Bool :=
  b.kind == 1 || b.kind == 2 || (b.kind == 0 && (b.void || b.deferred)) || (b.kind == 3 && !b.cells.isEmpty)
def FrameBody.null : FrameBody := { slot0 := 0, slot1 := 0, payload := 0, baton := 0 }
/-- Frame bytes 16 to 2,095, as the replay buffer stores them (R208). -/
def FrameBody.stored (b : FrameBody) : List Byte :=
  natLE 8 b.slot0.toNat ++ natLE 8 b.slot1.toNat ++ natLE 2048 b.payload.toNat ++ natLE 16 b.baton.toNat
def FrameBody.ofStored (bs : List Byte) : FrameBody :=
  { slot0 := BitVec.ofNat 64 (leAt bs 0 8), slot1 := BitVec.ofNat 64 (leAt bs 8 8),
    payload := BitVec.ofNat 16384 (leAt bs 16 2048), baton := BitVec.ofNat 128 (leAt bs 2064 16) }

/-! Frames (Table 09-2). -/

/-- A frame's parts beside parity: pace field, body, trailer link part without FRAME_CRC. -/
structure FrameParts where
  pace0 : W64
  pace1 : W64
  body : FrameBody
  link0 : W64
  link1 : W32
  deriving DecidableEq, Repr

/-- Bytes 0 to 2,107. -/
def FrameParts.head (f : FrameParts) : List Byte :=
  natLE 8 f.pace0.toNat ++ natLE 8 f.pace1.toNat ++ f.body.stored ++ natLE 8 f.link0.toNat ++ natLE 4 f.link1.toNat

/-- The data bytes of codeword k of 2,112 bytes (R199). -/
def codeword (bs : List Byte) (k : Nat) : List Nat := (List.range 132).map (fun i => (bs.getD (16 * i + k) 0).toNat)
/-- The whole frame with CRC and parity. -/
def FrameParts.encode (f : FrameParts) : RawFrame :=
  let h := f.head
  let d := h ++ natLE 4 (crc32c h)
  let par := (List.range 16).flatMap (fun k => (rsParity (codeword d k)).map (BitVec.ofNat 8))
  BitVec.ofNat 17408 (leNat (d ++ par))

/-- Frame byte of position i of codeword k (R199). -/
def codeByte (k i : Nat) : Nat := if i < 132 then 16 * i + k else 2112 + 4 * k + (i - 132)
/-- Logical lane of a frame byte (R199). -/
def laneOfByte (f : Nat) : Fin 16 := finOf 16 (f + f / 16)

/-- A decoded frame: its bytes 0 to 2,111 corrected, the logical lanes of the bytes corrected, and whether it is good (R200), and whether every
codeword decoded (sound). -/
structure Decoded where
  good : Bool
  sound : Bool
  fixed : List (Fin 16)
  bytes : List Byte
  deriving DecidableEq, Repr

def decodeLinkFrame (raw : RawFrame) : Decoded :=
  let bs := natLE 2176 raw.toNat
  let words := (List.range 16).map (fun k =>
    (k, rsErrors ((List.range 136).map (fun i => (bs.getD (codeByte k i) 0).toNat))))
  let ok := words.all (fun x => x.2.isSome)
  let errs := words.flatMap (fun x => (x.2.getD []).map (fun e => (codeByte x.1 e.1, e.2)))
  let out := errs.foldl (fun b e => b.set e.1 (b.getD e.1 0 ^^^ BitVec.ofNat 8 e.2)) bs
  let crc := leAt out 2108 4 == crc32c (out.take 2108)
  { good := ok && crc, sound := ok, fixed := errs.map (fun e => laneOfByte e.1), bytes := out.take 2112 }
def Decoded.parts (d : Decoded) : FrameParts :=
  { pace0 := BitVec.ofNat 64 (leAt d.bytes 0 8), pace1 := BitVec.ofNat 64 (leAt d.bytes 8 8),
    body := FrameBody.ofStored (slice d.bytes 16 2080), link0 := BitVec.ofNat 64 (leAt d.bytes 2096 8),
    link1 := BitVec.ofNat 32 (leAt d.bytes 2104 4) }

/-! Trailer link part (Table 09-3). -/

def FrameParts.seq (f : FrameParts) : W16 := BitVec.ofNat 16 (fld f.link0 63 48)
def FrameParts.ack (f : FrameParts) : W16 := BitVec.ofNat 16 (fld f.link0 47 32)
def FrameParts.rr (f : FrameParts) : BitVec 4 := BitVec.ofNat 4 (fld f.link0 31 28)
def FrameParts.sequenced (f : FrameParts) : Bool := bit f.link0 27
def FrameParts.replay (f : FrameParts) : Bool := bit f.link0 26
def FrameParts.epoch (f : FrameParts) : Byte := BitVec.ofNat 8 (fld f.link0 25 18)
def FrameParts.creditJob (f : FrameParts) : Byte := BitVec.ofNat 8 (fld f.link0 17 10)
def FrameParts.creditMgmt (f : FrameParts) : Byte := BitVec.ofNat 8 (fld f.link0 9 2)
def FrameParts.swapReq (f : FrameParts) : Option (Fin 16) := if bit f.link1 31 then some (finOf 16 (fld f.link1 30 27)) else none
def FrameParts.swapAnn (f : FrameParts) : Option (Fin 16 × Nat) :=
  if bit f.link1 26 then some (finOf 16 (fld f.link1 25 22), fld f.link1 21 6) else none
/-- GAP: grade and mode of the fill after the frame, as stored. -/
def FrameParts.gap (f : FrameParts) : BitVec 4 := BitVec.ofNat 4 (fld f.link1 5 2)

end Sys2Proof.Machine
end

