-- ==== Sys2Proof/Config.lean ====
section
/-! DEFINITION. What an implementation fixes and what the manual leaves open: constants without a body (free values). -/

namespace Sys2Proof

/-- A value the manual does not fix, fresh for each draw (State.fresh counts the draws), taken as bits of the width needed. -/
opaque Config.freeBits : Nat → Nat
/-- Whether a lap boundary of the job that a domain and a JOB_INDEX name lies at a pace count, for a job that does not run on the package
(R48, log 94). -/
opaque Config.lapBoundary : Byte → Byte → Nat → Bool
/-- RECIP of an FP32 value, used where it lies within 1 ulp of the exact quotient (Table 05-8). -/
opaque Config.recip : W32 → W32
/-- RSQRT of a positive finite FP32 value, used where it lies within 1 ulp (Table 05-8). -/
opaque Config.rsqrt : W32 → W32
/-- EXP of a finite FP32 value, used where it lies within 2 ulp of the exact value (Table 05-8). -/
opaque Config.exp : W32 → W32
/-- LOG of a positive finite FP32 value, used where it lies within 2 ulp (Table 05-8). -/
opaque Config.log : W32 → W32
/-- TANH of a finite FP32 value, used where it lies within 2 ulp (Table 05-8). -/
opaque Config.tanh : W32 → W32
/-- SIGMOID of a finite FP32 value, used where it lies within 2 ulp (Table 05-8). -/
opaque Config.sigmoid : W32 → W32
/-- A coordinate of a de-skewed point, from the words of the point and of the two poses; used where it lies within 4 ulp (R150). -/
opaque Config.deskew : List W32 → Fin 3 → W32
/-- atan2 of the yaw of a box, whose accuracy the manual does not state; used where it lies within 4 ulp, and for two zeros or an infinity, of
which R159 gives no angle (log 9). -/
opaque Config.atan2 : W32 → W32 → W32
/-- Native tile command words of a STREAM or GRAPH section, never longer than the Ronef code (R83). -/
opaque Config.native : List Byte → List Byte
/-- The Xeirarek firmware key whose SHA-384 hash is fused in the package (R390): x and y. -/
opaque Config.firmwareKey : BitVec 384 × BitVec 384
/-- The fused minimum security version (R390). -/
opaque Config.fusedSvn : W16
/-- SHA-384 of the boot ROM (Table 17-3). -/
opaque Config.romDigest : BitVec 384
/-- The device certificate chain of slot 0 (R392). -/
opaque Config.certChain : List Byte
/-- 1 on a P8-LX, false on a P8-L (R22, R387). -/
opaque Config.isLX : Bool
/-- Stepping, bits 31:28 of IDCODE and bits 7:0 of FEAT_ID (R79, R380, R408). -/
opaque Config.stepping : BitVec 4
/-- The pace-count bytes of BOOT_SLOT_BAD, which hold the slot and the failed check (R390, log 26). -/
opaque Config.slotBad : Bool → BootCheck → W64
/-- Bytes of the boot flash beyond the 32 MiB that it has at least (R381). -/
opaque Config.flashBeyond : Nat
/-- Bytes of the boot flash (R381). -/
def Config.flashSize : Nat := 2 ^ 25 + Config.flashBeyond

end Sys2Proof
end

