-- ==== Sys2Proof/Machine/Memory.lean ====
section
/-! DEFINITION. Byte storage in canonical form: addresses strictly rising, no entry holding 0, the value an unlisted
address reads as (R61 for SRAM; a model's choice for host memory and flash). -/

namespace Sys2Proof.Machine

/-- Are the addresses of a list above lo, strictly rising, with no entry of value 0? -/
def Mem.wfFrom : Nat → Bytes → Bool
  | _, [] => true
  | lo, (a, b) :: m => lo ≤ a && b != 0 && Mem.wfFrom (a + 1) m

/-- The canonical form of byte storage. -/
def Mem.wf (m : Bytes) : Bool := Mem.wfFrom 0 m

/-- The byte at an address: 0 where none is listed. -/
def Mem.get : Bytes → Nat → Byte
  | [], _ => 0
  | (a, b) :: m, x => if x = a then b else if x < a then 0 else Mem.get m x

/-- Write one byte, keeping the canonical form. -/
def Mem.set : Bytes → Nat → Byte → Bytes
  | [], x, v => if v = 0 then [] else [(x, v)]
  | (a, b) :: m, x, v =>
    if x < a then (if v = 0 then (a, b) :: m else (x, v) :: (a, b) :: m)
    else if x = a then (if v = 0 then m else (x, v) :: m)
    else (a, b) :: Mem.set m x v

/-- len bytes from an address. -/
def Mem.read (m : Bytes) (a : Nat) : Nat → List Byte
  | 0 => []
  | len + 1 => Mem.get m a :: Mem.read m (a + 1) len

/-- Write bytes at ascending addresses. -/
def Mem.write : Bytes → Nat → List Byte → Bytes
  | m, _, [] => m
  | m, a, v :: vs => Mem.write (Mem.set m a v) (a + 1) vs

/-- Write (address, byte) pairs in order. -/
def Mem.writeAll (m : Bytes) (ws : List (Nat × Byte)) : Bytes := ws.foldl (fun m w => Mem.set m w.1 w.2) m

/-- Zero the bytes lo up to hi (hi not included). -/
def Mem.zero : Bytes → Nat → Nat → Bytes
  | [], _, _ => []
  | (a, b) :: m, lo, hi => if lo ≤ a ∧ a < hi then Mem.zero m lo hi else (a, b) :: Mem.zero m lo hi

/-- A little-endian number of len bytes. -/
def Mem.nat (m : Bytes) (a len : Nat) : Nat := leNat (Mem.read m a len)

end Sys2Proof.Machine
end

