-- ==== Sys2Proof/Machine/Ops.lean ====
section
/-! DEFINITION. Named operations shared by the commands: updates of parts of State, free values, log entries (R72, R345 to
R349), SRAM words and region checks (R57 to R73), baton queues (R88 to R90). -/

namespace Sys2Proof.Machine

/-- Answer the next state: the form of every meaning. -/
abbrev Out := Host.Outcome State Fault Refusal

/-! Updates. -/

def vset {α : Type} {n : Nat} (v : Vector α n) (i : Fin n) (x : α) : Vector α n := v.set i.val x i.isLt
def vmod {α : Type} {n : Nat} (v : Vector α n) (i : Fin n) (f : α → α) : Vector α n := v.set i.val (f v[i]) i.isLt

def State.part (s : State) (p : PartId) : Partition := s.parts[p]
/-- The state a partition is in: it reaches MARKS when its zeroing ends (R61). -/
def Partition.shown (q : Partition) : PState := if q.zeroing && q.st == .marks then q.left else q.st
def State.modPart (s : State) (p : PartId) (f : Partition → Partition) : State := { s with parts := vmod s.parts p f }
def State.link (s : State) (l : LinkId) : Link := s.links[l]
def State.modLink (s : State) (l : LinkId) (f : Link → Link) : State := { s with links := vmod s.links l f }
def State.fn (s : State) (f : FnId) : Function := s.fns[f]
def State.modFn (s : State) (f : FnId) (g : Function → Function) : State := { s with fns := vmod s.fns f g }
def State.modPace (s : State) (g : Pacer → Pacer) : State := { s with pace := g s.pace }
def State.modMgt (s : State) (g : Mgt → Mgt) : State := { s with mgt := g s.mgt }
def State.modPower (s : State) (g : Power → Power) : State := { s with power := g s.power }
def State.modInfield (s : State) (g : Infield → Infield) : State := { s with infield := g s.infield }
def State.modHiu (s : State) (g : Hiu → Hiu) : State := { s with hiu := g s.hiu }
def State.modSvc (s : State) (g : Svc → Svc) : State := { s with svc := g s.svc }
def State.modClock (s : State) (g : Clock → Clock) : State := { s with clock := g s.clock }
def State.modSram (s : State) (g : Sram → Sram) : State := { s with sram := g s.sram }
def State.modBoot (s : State) (g : Boot → Boot) : State := { s with boot := g s.boot }
def State.modLog (s : State) (g : TroubleLog → TroubleLog) : State := { s with log := g s.log }

/-- The job with an identity. -/
def State.job? (s : State) (id : Nat) : Option Job := s.jobs.find? (fun j => j.id == id)
def State.modJob (s : State) (id : Nat) (f : Job → Job) : State :=
  { s with jobs := s.jobs.map (fun j => if j.id == id then f j else j) }
/-- The job that a partition holds. -/
def State.jobOf (s : State) (p : PartId) : Option Job := (s.part p).job.bind s.job?
/-- The job whose LEAD is the partition (R287). -/
def State.jobOfLead (s : State) (p : PartId) : Option Job :=
  match s.jobOf p with
  | some j => if j.lead == p then some j else none
  | none => none
/-- This package's chip id (Table 10-2). -/
def State.chip (s : State) : BitVec 13 := BitVec.ofNat 13 (fld s.mgt.chipId 12 0)
def State.chipValid (s : State) : Bool := bit s.mgt.chipId 31
/-- Extents and twist of MGT_TOPOLOGY (Table 10-1). -/
def State.topoValid (s : State) : Bool := bit s.mgt.topology 31
def State.ex (s : State) : Nat := fld s.mgt.topology 4 0
def State.ey (s : State) : Nat := fld s.mgt.topology 12 8
def State.ez (s : State) : Nat := fld s.mgt.topology 21 16
def State.twist (s : State) : Nat := fld s.mgt.topology 27 24
/-- Host accesses come over the PCIe lanes, which work while the standby POR is released and MAIN_PG is high (R372, R378). -/
def State.hostLanes (s : State) : Bool := s.power.porReleased && s.power.mainPg
/-- A row that the host brings about over those lanes; without them it does not arrive. -/
def State.overHost (s : State) (g : State → State) : Out := .next (if s.hostLanes then g s else s)
/-- The I3C target, the SPI interface and the sideband are cut off while EXTEST, CLAMP or HIGHZ is the current instruction (R380). -/
def State.landsCut (s : State) : Bool := s.side.jtag == .extest || s.side.jtag == .clamp || s.side.jtag == .highz
/-- Is a unit in HOLD (R355)? -/
def State.inHold (s : State) (u : UnitId) : Bool := s.units.hold.contains u
/-- A unit's epoch (R356). -/
def State.unitEpoch (s : State) (u : UnitId) : Byte :=
  match u with
  | .managementComplex => s.mgt.epoch
  | _ => match s.units.epochs.find? (fun x => x.1 == u) with
    | some x => x.2
    | none => 0
/-- The epoch that the plot traffic of a unit or relay station carries. -/
def State.userEpoch (s : State) (u : PlotUser) : Byte :=
  match u with
  | .unit u => s.unitEpoch u
  | .relay l => (s.link l).epoch
/-- Draw a free value: its number, and the counter advanced. -/
def State.draw (s : State) : Nat × State := (Config.freeBits s.fresh, { s with fresh := s.fresh + 1 })

/-- Physical partition of a JOB_PART. -/
def Job.phys (j : Job) (jp : Nat) : Option PartId := j.parts[jp]?

/-! The located fault record (R72, Table 03-9). -/

/-- The parts of a located record before they are packed; a none clears the VALID bit and zeroes the field. -/
structure Loc where
  tile : Nat
  engine : Nat
  part : Nat
  address : Option Int
  command : Option Nat
  region : Option Nat
  access : Nat
  link : Nat
  slot : Option (Nat × Nat × Nat)
  loops : Option (List Nat)
  deriving DecidableEq, Repr

/-- A record that locates only its engine. -/
def Loc.base (engine : Nat) : Loc :=
  { tile := 0xFF, engine := engine, part := 0, address := none, command := none, region := none, access := 15, link := 7,
    slot := none, loops := none }

/-- A record that names a queue of a tile, the baton awaited and the one found, each as BATON_ID × 16 + GEN: in L0, L1 and L2 (DESIGN
CHOICE, log 130: R89, R135 and R136 do not say where). -/
def Loc.baton (r : Loc) (t : Fin 32) (n : Fin 64) (want found : Nat) : Loc :=
  { r with loops := some [t.val * 64 + n.val, want, found] }

/-- A record that names a send: its transfer in L0, its lap index in L1 (bits 23:0) and L2 (bits 31:24), the BATON_ID of its data baton in L3
(DESIGN CHOICE, log 98: R44 wants lap and baton id, and does not say where). -/
def Loc.burst (r : Loc) (t : W16) (lap baton : Nat) : Loc := { r with loops := some [t.toNat, lap % 2 ^ 24, lap % 2 ^ 32 / 2 ^ 24, baton] }

def Loc.pack (chip : BitVec 13) (r : Loc) : Located :=
  let adr : Nat := match r.address with | some a => ((r.part * 2 ^ 33 + a) % (2 ^ 36 : Nat)).toNat | none => 0
  let cmd : Nat := r.command.getD 0
  let reg : Nat := r.region.getD 0
  let (e, t, sl) := r.slot.getD (0, 0, 0)
  let lp : List Nat := r.loops.getD []
  let l := fun i => lp.getD i 0 % 2 ^ 24
  let valid : Nat := b2n r.address.isSome + 2 * b2n r.command.isSome + 4 * b2n r.loops.isSome + 8 * b2n r.slot.isSome
    + 16 * b2n r.region.isSome
  { w := #v[
      BitVec.ofNat 64 (chip.toNat * 2 ^ 51 + (r.tile % 256) * 2 ^ 43 + (r.engine % 16) * 2 ^ 39 + (r.part % 8) * 2 ^ 36 + adr),
      BitVec.ofNat 64 ((cmd % 2 ^ 32) * 2 ^ 32 + (reg % 1024) * 2 ^ 22 + (r.access % 16) * 2 ^ 18 + (r.link % 8) * 2 ^ 15 + valid),
      BitVec.ofNat 64 ((e % 2 ^ 14) * 2 ^ 50 + (t % 64) * 2 ^ 44 + (sl % 2 ^ 16) * 2 ^ 28),
      BitVec.ofNat 64 (l 1 * 2 ^ 24 + l 0),
      BitVec.ofNat 64 (l 3 * 2 ^ 24 + l 2),
      BitVec.ofNat 64 (l 5 * 2 ^ 24 + l 4)] }

/-! Handing entries to the log (R346, R347, R349). -/

/-- TIME of an entry: the low 34 bits of SEC and NS (Table 15-3). -/
def Clock.stamp (c : Clock) : W64 := BitVec.ofNat 64 ((c.sec.toNat % 2 ^ 34) * 2 ^ 30 + c.ns.toNat)

/-- Does the pace count advance: does main conversion run, with a reference clock present (R17, R39)? -/
def State.paceRuns (s : State) : Bool := s.power.mainPg && !s.pace.refsLost
/-- The place of a unit in the order of R347: its die, then its link. -/
def linkPlace (l : LinkId) : Nat := (dieOfLink l).val * 8 + l.val
/-- The place of the unit that a located record names: its link's, else that of the die of its partition. -/
def Loc.place (r : Loc) : Nat := if r.link < 6 then linkPlace (finOf 6 r.link) else r.part / 2 * 8
/-- Source unit, tile id (0xFF where the entry names no tile), die and link of an entry, as one number that orders entries of one beat. -/
def LogEntry.rank (e : LogEntry) : Nat :=
  let tile := match e.body with
    | .located r => fld r.w[0] 50 43
    | _ => 0xFF
  (fld e.code 11 8 * 2 ^ 8 + tile) * 2 ^ 6 + e.place
/-- An entry e reaches the full input queue: of it and the entries of its beat, the last in the order of R347 finds no room. -/
def TroubleLog.overfull (g : TroubleLog) (e : LogEntry) : TroubleLog :=
  let last := (g.input.filter (fun x => e.beat.isSome && x.beat == e.beat)).foldl (fun m x => if m.rank ≤ x.rank then x else m) e
  { g with input := if e.rank < last.rank then g.input.erase last ++ [e] else g.input, lost := satInc g.lost }
/-- Hand an entry to the input queue of 256 entries; one that finds it full is counted in LOG_LOST (R347). -/
def State.hand (s : State) (code : W16) (vf : Nat) (body : LogBody) (place : Nat := 0) : State :=
  let e : LogEntry :=
    { code := code, pinned := false, vf := BitVec.ofNat 8 vf, seq := 0, time := s.clock.stamp, body := body,
      beat := if s.paceRuns then some s.pace.count.toNat else none, place := place }
  s.modLog (fun g => if g.input.length < 256 then { g with input := g.input ++ [e] } else g.overfull e)

/-- An entry whose body is the pace count at logging. -/
def State.logs (s : State) (code : W16) (vf : Nat := 0) (place : Nat := 0) : State := s.hand code vf (.count s.pace.count) place
/-- An entry with a located record. -/
def State.logAt (s : State) (code : W16) (vf : Nat) (r : Loc) : State := s.hand code vf (.located (r.pack s.chip)) r.place
/-- An entry limited to once per period per scope: logged when the scope's holdoff timer does not run, which it starts (R349). -/
def State.logRate (s : State) (scope : HoldoffScope) (code : W16) (vf : Nat := 0) (place : Nat := 0) : State :=
  if s.log.holdoffs.contains scope then s
  else (s.logs code vf place).modLog (fun g => { g with holdoffs := scope :: g.holdoffs })
/-- Such an entry with a located record. -/
def State.logRateAt (s : State) (scope : HoldoffScope) (code : W16) (vf : Nat) (r : Loc) : State :=
  if s.log.holdoffs.contains scope then s
  else (s.logAt code vf r).modLog (fun g => { g with holdoffs := scope :: g.holdoffs })

/-- VF that owns a partition, 0 for none. -/
def State.vfOf (s : State) (p : PartId) : Nat :=
  match (s.part p).owner with
  | some f => f.val
  | none => 0

/-! SRAM plots by package offset (R54). -/

def State.rd (s : State) (a len : Nat) : List Byte := Mem.read s.sram.mem a len
def State.wr (s : State) (a : Nat) (bs : List Byte) : State := s.modSram (fun r => { r with mem := Mem.write r.mem a bs })
/-- Zero a range of the plots; words wholly inside get good check bits. -/
def State.zeroRange (s : State) (lo hi : Nat) : State :=
  s.modSram (fun r =>
    { r with
      mem := Mem.zero r.mem lo hi
      ecc := r.ecc.filter (fun e => !(lo ≤ e.1 * 16 && e.1 * 16 + 16 ≤ hi)) })

/-! Map copies (R67, R73). -/

/-- How two copies of an entry stand to each other. -/
inductive CopyDiff where
  | same | latent | live
  deriving DecidableEq, Repr

/-- Compare entry i of the copies: a difference in a live field of a used entry is live, any other is latent (R73). -/
def AllocMap.diffAt (a b : AllocMap) (i : Nat) : CopyDiff :=
  if a.entries[i]? = b.entries[i]? then .same
  else if i < a.count && i < b.count && meLive (a.entries.getD i 0) != meLive (b.entries.getD i 0) then .live
  else .latent

/-- The used region that holds a whole range of partition offsets. -/
def regionOf (es : List (Nat × BitVec 128)) (off len : Nat) : Option (Nat × BitVec 128) :=
  es.find? (fun e => meStart e.2 ≤ off && off + len ≤ meStart e.2 + meLen e.2)

/-! Batons (R88 to R90). -/

def Partition.queue? (q : Partition) (t : Fin 32) (n : Fin 64) : Option Queue :=
  q.queues.find? (fun k => k.tile == t && k.queue == n)
def Partition.modQueue (q : Partition) (t : Fin 32) (n : Fin 64) (f : Queue → Queue) : Partition :=
  { q with queues := updFirst (fun k => k.tile == t && k.queue == n) f q.queues }
/-- Head entry of a queue. -/
def Partition.head? (q : Partition) (t : Fin 32) (n : Fin 64) : Option QEntry := (q.queue? t n).bind (·.entries.head?)
def Queue.full (k : Queue) : Bool := k.depth ≤ k.entries.length
/-- Has the queue room? An undeclared queue has none. -/
def Partition.hasRoom (q : Partition) (t : Fin 32) (n : Fin 64) : Bool :=
  match q.queue? t n with
  | some k => !k.full
  | none => false
def Queue.push (k : Queue) (e : QEntry) : Queue :=
  { k with entries := k.entries ++ [e], highest := Nat.max k.highest (k.entries.length + 1) }
/-- Push an entry. The entries are kept in the queue alone: the bytes of its QUEUE region are not written (DESIGN CHOICE, log 141). -/
def Partition.push (q : Partition) (t : Fin 32) (n : Fin 64) (e : QEntry) : Partition := q.modQueue t n (·.push e)
def Partition.pop (q : Partition) (t : Fin 32) (n : Fin 64) : Partition :=
  q.modQueue t n (fun k => { k with entries := k.entries.tail })

/-- How the waits of a command stand (R89). -/
inductive WaitState where
  | unmet
  | mismatch (r : BatonRef) (found : QEntry)
  | met (es : List QEntry)
  deriving DecidableEq, Repr

/-- The waits of a command on the queues of a tile, with their effective generations: every head must hold a baton that no
running command holds. -/
def Partition.waits (q : Partition) (t : Fin 32) (held : Fin 64 → Bool) (rel : Bool) (iter : Nat) (rs : List BatonRef) :
    WaitState :=
  let hs := rs.map (fun r => if held (refQueue r) then none else q.head? t (refQueue r))
  match (rs.zip hs).find? (fun x => match x.2 with
      | some e => !(qId e == refId x.1 && qGen e == effGen rel (refGen x.1) iter)
      | none => false) with
  | some (r, some e) => .mismatch r e
  | _ => if hs.all Option.isSome then .met (hs.filterMap id) else .unmet

/-- Consume the waited entries (R90). -/
def Partition.consume (q : Partition) (t : Fin 32) (rs : List BatonRef) : Partition :=
  rs.foldl (fun q r => q.pop t (refQueue r)) q

/-! Engines and streams of a partition. -/

def Partition.engine? (q : Partition) (t : Fin 32) (e : EngineKind) : Option Engine :=
  q.engines.find? (fun g => g.tile == t && g.kind == e)
def Engine.idle (t : Fin 32) (e : EngineKind) : Engine :=
  { tile := t, kind := e, streamQ := [], graphQ := [], running := none, turn := .graph }
/-- The engine as it stands; one never used is idle. -/
def Partition.engine (q : Partition) (t : Fin 32) (e : EngineKind) : Engine := (q.engine? t e).getD (Engine.idle t e)
def Partition.setEngine (q : Partition) (g : Engine) : Partition :=
  if (q.engine? g.tile g.kind).isSome then
    { q with engines := updFirst (fun x => x.tile == g.tile && x.kind == g.kind) (fun _ => g) q.engines }
  else { q with engines := q.engines ++ [g] }
def Partition.stream? (q : Partition) (k : StreamIx) : Option Stream := q.streams.find? (fun x => x.index == k)
def Partition.modStream (q : Partition) (k : StreamIx) (f : Stream → Stream) : Partition :=
  { q with streams := updFirst (fun x => x.index == k) f q.streams }
def Partition.list? (q : Partition) (t : Fin 32) : Option GraphList := q.lists.find? (fun x => x.tile == t)
def Partition.modList (q : Partition) (t : Fin 32) (f : GraphList → GraphList) : Partition :=
  { q with lists := updFirst (fun x => x.tile == t) f q.lists }

/-! Slip horizon (R42). -/

def Domain.horizon (d : Domain) : Nat := 64 + 2 * d.treeDepth * (8 + d.hopDelay)
/-- PACE_HORIZON of the package: of its domain, 64 beats with none (Table 02-5, one package). -/
def State.horizon (s : State) : Nat :=
  match s.pace.domain with
  | some d => d.horizon
  | none => 64
/-- Is the link a pace-tree link of the package? -/
def Domain.treeLink (d : Domain) (l : LinkId) : Bool := d.parent == some l || bit d.children l.val
def State.treeLink (s : State) (l : LinkId) : Bool :=
  match s.pace.domain with
  | some d => d.treeLink l
  | none => false
/-- Is the link in locked mode on this package (R195)? -/
def State.locked (s : State) (l : LinkId) : Bool :=
  s.treeLink l || (match (s.link l).owner.bind s.job? with
    | some j => j.phase == .armed || j.phase == .run
    | none => false)
def State.treeLinks (s : State) : List LinkId := allLinks.filter s.treeLink

/-- Links that any plan of the job has a set for (R166, R183). -/
def Job.planLinks (j : Job) : List LinkId :=
  match j.image.plan with
  | some k => allLinks.filter k.usesLink
  | none => []
/-- The selected plan of a job. -/
def Job.activePlan (j : Job) : Option PlanDef := j.image.plan.bind (fun k => k.plan? j.planSel)
def Job.activeUses (j : Job) (l : LinkId) : Bool :=
  match j.activePlan with
  | some p => p.usesLink l
  | none => false
/-- Links of LINK_OWN (Table 03-4); every map of a job carries the same (R166). -/
def Job.ownLinks (j : Job) : List LinkId :=
  match j.image.maps.head? with
  | some m => allLinks.filter (fun l => bit m.linkOwn l.val)
  | none => []
def State.up (s : State) (l : LinkId) : Bool := (s.link l).stage == .up
/-- The owner of a link when it is in RUN (R166). -/
def State.ownerRun (s : State) (l : LinkId) : Option Job :=
  ((s.link l).owner.bind s.job?).bind (fun j => if j.phase == .run then some j else none)

end Sys2Proof.Machine
end

