-- ==== Sys2Proof/Machine/Eth.lean ====
section
/-! DEFINITION. Ethernet frames that the package sends: checksums, the ZSH reply (R332), and the hand-over to a port's MAC
(R320, R331). -/

namespace Sys2Proof.Machine

/-- Sum of 16-bit big-endian words; an odd last byte counts as the high byte of a word. -/
def sum16 : List Byte → Nat
  | [] => 0
  | [a] => a.toNat * 256
  | a :: b :: r => a.toNat * 256 + b.toNat + sum16 r

/-- Fold carries of a one's complement sum; four rounds reach a fixed point for sums of frames. -/
def fold16 (n : Nat) : Nat :=
  let f := fun n : Nat => n % 65536 + n / 65536
  f (f (f (f n)))

/-- One's complement checksum of bytes. -/
def checksum16 (n : Nat) : Nat := 65535 - fold16 n

/-- Replace bytes from off. -/
def patch (bs : List Byte) (off : Nat) (new : List Byte) : List Byte := bs.take off ++ new ++ bs.drop (off + new.length)

/-- Pseudo-header sum of UDP over IPv4 or IPv6. -/
def pseudoSum (frame : List Byte) (l3 : Nat) (v6 : Bool) (ulen : Nat) : Nat :=
  if v6 then sum16 (slice frame (l3 + 8) 32) + ulen + 17 else sum16 (slice frame (l3 + 12) 8) + ulen + 17

/-- UDP checksum of a frame whose UDP header is at l4 and has length ulen; a sum of zero is sent as all ones. -/
def udpSum (frame : List Byte) (l3 l4 : Nat) (v6 : Bool) (ulen : Nat) : Nat :=
  let c := checksum16 (pseudoSum frame l3 v6 ulen + sum16 (slice frame l4 ulen))
  if c = 0 then 65535 else c

/-- ZSH channels (Table 14-5). -/
def Zsh.flagReply : Nat := 1
def Zsh.flagLast : Nat := 2
def Zsh.flagRequest : Nat := 4

/-- A frame back to the sender of a request: addresses and ports swapped, tags kept, other header fields copied, FLAGS and SEQ
as given, lengths and checksums formed anew (R332). -/
def zshFrame (r : ZshRequest) (flags : Nat) (seq : W32) (payload : List Byte) : List Byte :=
  let h := r.header
  let h := patch h 0 (slice h 6 6 ++ slice h 0 6)
  let h := if r.v6 then patch h (r.l3 + 8) (slice h (r.l3 + 24) 16 ++ slice h (r.l3 + 8) 16)
    else patch h (r.l3 + 12) (slice h (r.l3 + 16) 4 ++ slice h (r.l3 + 12) 4)
  let h := patch h r.l4 (slice h (r.l4 + 2) 2 ++ slice h r.l4 2)
  let ulen := 8 + 24 + payload.length
  let z := r.l4 + 8
  let h := patch h (z + 4) (natBE 2 (24 + payload.length))
  let h := patch h (z + 10) [BitVec.ofNat 8 flags]
  let h := patch h (z + 12) (natBE 4 seq.toNat)
  let h := patch h (r.l4 + 4) (natBE 2 ulen ++ [0, 0])
  let h := if r.v6 then patch h (r.l3 + 4) (natBE 2 (r.l4 - r.l3 - 40 + ulen))
    else
      let h := patch h (r.l3 + 2) (natBE 2 (r.l4 - r.l3 + ulen))
      let h := patch h (r.l3 + 10) [0, 0]
      patch h (r.l3 + 10) (natBE 2 (checksum16 (sum16 (slice h r.l3 (r.l4 - r.l3)))))
  let f := h ++ payload
  patch f (r.l4 + 6) (natBE 2 (udpSum f r.l3 r.l4 r.v6 ulen))

/-- Hand a frame to a MAC: it waits while PAUSE holds the sub-port; with no link it is lost. -/
def State.sendFrame (s : State) (p : PortId) (sub : SubPort) (f : List Byte) : State :=
  s.modSvc (fun v => { v with ports := vmod v.ports p (fun q =>
    if !(bit q.linkUp sub.val) then q
    else if bit q.paused sub.val then { q with held := q.held ++ [(sub, f)] }
    else { q with out := q.out ++ [(sub, f)] }) })

/-- Split a result over chunks of at most 8,192 bytes; an empty result is one empty chunk (R332). -/
def split8192 : Nat → List Byte → List (List Byte)
  | 0, bs => [bs]
  | k + 1, bs => if bs.length ≤ 8192 then [bs] else bs.take 8192 :: split8192 k (bs.drop 8192)

/-- Send a reply: the completion entry heads each frame, the result is split, and LAST is set on the final one (R332). -/
def State.zshReply (s : State) (r : ZshRequest) (entry result : List Byte) : State :=
  let cs := split8192 result.length result
  let n := cs.length
  (List.range n).foldl (fun s i =>
    s.sendFrame r.port r.sub
      (zshFrame r (if i + 1 = n then Zsh.flagReply + Zsh.flagLast else Zsh.flagReply) r.seq (entry ++ cs.getD i []))) s

end Sys2Proof.Machine
end

