-- ==== Sys2Proof/Machine/Rows.lean ====
section
/-! DEFINITION. Rows that wear out (R59), and the recovery reserve of a die, which recovery actions use (R60, Tables 03-1, 03-2). -/

namespace Sys2Proof.Machine

/-! Rows (R57, R59). -/

/-- Retire a row to a spare of its die; with none left the row stays, logged once per die (R59). The record is that of the error
that wore the row out (R72). A row that is on a spare stays there (DESIGN CHOICE, log 155). -/
def State.retireRow (s : State) (d : DieId) (row : Nat) (vf : Nat) (r : Loc) : State :=
  if s.sram.retired.contains row then s
  else if s.sram.spares[d] = 0 then
    if s.sram.exhausted[d] then s
    else (s.modSram (fun m => { m with exhausted := vset m.exhausted d true })).logAt Code.repairExhausted vf r
  else
    (s.modSram (fun m =>
      { m with
        spares := vmod m.spares d (· - 1)
        retired := row :: m.retired
        occasions := m.occasions.filter (fun o => o.1 != row) })).logAt Code.rowRepaired vf r

/-- Occasions on which a row had corrected errors in the last 24 hours of the device clock (R59). -/
def State.rowOccasions (s : State) (row : Nat) : Nat :=
  (s.sram.occasions.filter (fun o => o.1 == row && decide (s.clock.sec.toNat < o.2.toNat + 86400))).length

/-- A single-bit error was corrected in the word with a key, of a row: logged at most once per word per scrub pass, and an occasion of
the row, which is retired at the third (R57, R59). Each corrected word counts as an occasion (DESIGN CHOICE, log 127). -/
def State.correctWord (s : State) (key row : Nat) (d : DieId) (vf : Nat) (r : Loc) : State :=
  let s1 := s.modSram (fun m =>
    { m with
      corrected := if m.corrected.contains key then m.corrected else key :: m.corrected
      occasions := (row, s.clock.sec) :: m.occasions })
  let s2 := if s.sram.corrected.contains key then s1 else s1.logAt Code.sramCorrected vf r
  if s2.rowOccasions row ≥ 3 then s2.retireRow d row vf r else s2

/-! The reserve (Tables 03-1, 03-2). A row of the reserve has a number that no row of the plots has, a word a key that no word of the plots
has. -/

def reserveRow (d : DieId) (word : Nat) : Nat := 2 ^ 23 + d.val * 2 ^ 16 + word / 512
def reserveKey (d : DieId) (word : Nat) : Nat := 2 ^ 32 + d.val * 2 ^ 25 + word

/-- An uncorrectable word of the recovery reserve: the Management Complex rebuilds the structure, and the row is retired (Table 03-2). -/
def State.recoveryDouble (s : State) (d : DieId) (word : Nat) (r : Loc) : State :=
  (s.logAt Code.uncorrectableCleared 0 r).retireRow d (reserveRow d word) 0 r
/-- A structure of a die's recovery reserve is used, for HOLD, a synthetic completion or POISON marking (Table 03-1), and the errors that its
words hold are met (R60). Which words a use touches the spec does not say: the model meets all of the part (DESIGN CHOICE, log 156). -/
def State.useRecovery (s : State) (d : DieId) : State :=
  (s.sram.reserve.filter (fun x => x.part == .recovery && x.die == d)).foldl (fun s x =>
    let s := s.modSram (fun m => { m with reserve := m.reserve.erase x })
    let r : Loc := { Loc.base 10 with part := (x.holder.getD 0).val }
    match x.err with
    | .single => s.correctWord (reserveKey d x.word) (reserveRow d x.word) d 0 r
    | .double => s.recoveryDouble d x.word r) s

end Sys2Proof.Machine
end

