-- ==== Sys2Proof/Machine/Host.lean ====
section
/-! DEFINITION. The host side: host memory accesses, MSI-X messages, completion entries and rings (R292 to R296), the window
walk and the movement of data through it (R301 to R316). -/

namespace Sys2Proof.Machine

/-! Host memory (R309, R316). -/

/-- Bytes of host memory, or none when the read fails. -/
def State.hostRead (s : State) (a n : Nat) : Option (List Byte) :=
  if s.host.readFail.any (fun r => overlaps a n r.1 (r.2 - r.1)) then none else some (Mem.read s.host.mem a n)
/-- Write to host memory; a byte that the IOMMU blocks is lost without a sign (R316). -/
def State.hostWrite (s : State) (a : Nat) (bs : List Byte) : State :=
  let ws := ((List.range bs.length).map (a + ·)).zip bs
  let ok := ws.filter (fun w => !(s.host.writeBlock.any (fun r => r.1 ≤ w.1 && w.1 < r.2)))
  { s with host := { s.host with mem := Mem.writeAll s.host.mem ok } }
/-- The host's own writes, which arrive before a command; bus addresses have 64 bits, and there is no byte beyond them. A write to a
doorbell line that the device holds invalidates the device's copy (R282). -/
def State.hostWrote (s : State) (ws : HostWrites) : State :=
  { s with
    host := { s.host with mem := Mem.writeAll s.host.mem (ws.filter (fun w => w.1 < 2 ^ 64)) }
    hiu := { s.hiu with lines := s.hiu.lines.map (fun x =>
      if ws.any (fun w => decide (x.1 ≤ w.1) && decide (w.1 < x.1 + 64)) then (x.1, .invalid) else x) } }
/-- Is a message of the function's vector held back: MSI-X not enabled, the function masked, or the vector (R296; PRESUMED, log 38)? -/
def State.msixHeld (s : State) (f : FnId) (n : Nat) : Bool :=
  !bit s.hiu.config.msixEnable f.val || bit s.hiu.config.msixMasked f.val || bit (s.fn f).msixMask n
/-- An MSI-X message of a function; a masked vector sets its pending bit instead (R296). -/
def State.msix (s : State) (f : FnId) (vec : Byte) : State :=
  if s.msixHeld f vec.toNat then s.modFn f (fun x => { x with msixPend := setBitTo x.msixPend vec.toNat true })
  else s.modHiu (fun h => { h with msix := h.msix ++ [(f, vec)] })
/-- A message that was held back is sent once nothing holds it any more. -/
def State.msixFreed (s : State) (f : FnId) (n : Nat) : State :=
  if bit (s.fn f).msixPend n && !s.msixHeld f n then
    (s.modFn f (fun x => { x with msixPend := setBitTo x.msixPend n false })).msix f (BitVec.ofNat 8 n)
  else s
/-- Every message of a function that nothing holds back any more. -/
def State.msixFreedAll (s : State) (f : FnId) : State :=
  if (s.fn f).msixPend == 0 then s else (List.range 256).foldl (fun s n => s.msixFreed f n) s

/-! Refusing the device itself (R305). -/

/-- The BARs as configuration space has them at the moment of the check. -/
def State.inBar (s : State) (a n : Nat) : Bool :=
  overlaps a n (s.hiu.config.barPf.toNat * 2 ^ 20) (2 ^ 20) || overlaps a n (s.hiu.config.barVf.toNat * 2 ^ 16) (32 * 2 ^ 16)
/-- The first enabled excluded range that holds a byte of the access. -/
def State.inExcl (s : State) (a n : Nat) : Option Nat :=
  [0, 1, 2, 3].find? (fun k =>
    let b : W64 := s.hiu.exclBase.toList.getD k 0
    let l : W64 := s.hiu.exclLimit.toList.getD k 0
    bit b 0 && overlaps a n (fld b 51 12 * 4096) ((fld l 51 12 + 1) * 4096 - fld b 51 12 * 4096))
/-- target_check of R303: the reason of the refusal (Table 13-3). -/
def State.targetCheck (s : State) (a n : Nat) : Option Nat :=
  if s.inBar a n then some 4 else (s.inExcl a n).map (5 + ·)

/-! The walk (R302, R303). -/

/-- Where a walk failed and why (Table 13-3). -/
structure WalkFail where
  level : Nat
  reason : Nat
  deriving DecidableEq, Repr

/-- What a translation gives: a bus address and how many bytes of the access lie in its leaf page. -/
inductive Walked where
  | fail (f : WalkFail)
  | page (a n : Nat)
  deriving DecidableEq, Repr

def wteMalformed (e : W64) (level sizeLog2 : Nat) : Bool :=
  let leaf := bit e 7
  fld e 63 52 != 0 || fld e 11 8 != 0 || fld e 6 2 != 0 || (leaf && level == 3)
    || (leaf && (fld e 51 12 * 4096) % 2 ^ sizeLog2 != 0) || (bit e 1 && !leaf && level != 3)

/-- The table levels: level number and the low bit of its index. -/
def walkLevels : List (Nat × Nat) := [(1, 30), (2, 21), (3, 12)]

def State.walkFrom (s : State) (w want : Nat) (write : Bool) : Nat → List (Nat × Nat) → Walked
  | _, [] => .fail { level := 3, reason := 1 }
  | t, (level, lo) :: rest =>
    let i := if level = 1 then nbits w 39 30 else nbits w (lo + 8) lo
    let a := t + 8 * i
    match s.targetCheck a 8 with
    | some r => .fail { level := level, reason := r }
    | none =>
      match s.hostRead a 8 with
      | none => .fail { level := level, reason := 9 }
      | some bs =>
        let e : W64 := BitVec.ofNat 64 (leNat bs)
        if !(bit e 0) then .fail { level := level, reason := 0 }
        else if wteMalformed e level lo then .fail { level := level, reason := 1 }
        else if bit e 7 || level == 3 then
          if write && !(bit e 1) then .fail { level := level, reason := 3 }
          else
            let p := fld e 51 12 * 4096 + w % 2 ^ lo
            let n := Nat.min want (2 ^ lo - w % 2 ^ lo)
            match s.targetCheck p n with
            | some r => .fail { level := 4, reason := r }
            | none => .page p n
        else s.walkFrom w want write (fld e 51 12 * 4096) rest

/-- translate(w, n, write) of R303 under a WIN_ROOT value. -/
def State.walk (s : State) (root : W64) (w want : Nat) (write : Bool) : Walked :=
  if !(bit root 0) then .fail { level := 0, reason := 0 }
  else if nbits w 39 30 > fld root 10 1 then .fail { level := 1, reason := 2 }
  else s.walkFrom w want write (fld root 51 12 * 4096) walkLevels

/-- Status of a failure (Table 13-3). -/
def WalkFail.status (f : WalkFail) : Byte :=
  if f.reason ≤ 3 then Status.walkFault else if f.reason ≤ 8 then Status.selfTarget else Status.busError
def WalkFail.code (f : WalkFail) : W16 :=
  if f.reason ≤ 3 then Code.walkFault else if f.reason ≤ 8 then Code.selfTarget else Code.busError
/-- DETAIL1 of a window status (Table 13-7). -/
def WalkFail.detail1 (f : WalkFail) (off : Nat) : W64 :=
  BitVec.ofNat 64 (f.level * 2 ^ 56 + f.reason * 2 ^ 48 + off % 2 ^ 40)

/-- Read len bytes from a window offset, page by page; the bytes of whole pages before a failure, and the failure with the
offset of the first byte not moved (R309). The first argument bounds the pages. -/
def State.winRead (s : State) (root : W64) : Nat → Nat → Nat → List Byte × Option (WalkFail × Nat)
  | _, _, 0 => ([], none)
  | 0, _, _ + 1 => ([], none)
  | fuel + 1, off, len + 1 =>
    match s.walk root off (len + 1) false with
    | .fail f => ([], some (f, off))
    | .page a n =>
      match s.hostRead a n with
      | none => ([], some ({ level := 4, reason := 9 }, off))
      | some bs =>
        let r := s.winRead root fuel (off + n) (len + 1 - n)
        (bs ++ r.1, r.2)

/-- Write bytes at a window offset, page by page: the state, the bytes moved, and the failure (R309). -/
def State.winWrite (s : State) (root : W64) : Nat → Nat → List Byte → State × Nat × Option (WalkFail × Nat)
  | _, _, [] => (s, 0, none)
  | 0, _, _ :: _ => (s, 0, none)
  | fuel + 1, off, b :: bs =>
    match s.walk root off (b :: bs).length true with
    | .fail f => (s, 0, some (f, off))
    | .page a n =>
      let s1 := s.hostWrite a ((b :: bs).take n)
      let r := s1.winWrite root fuel (off + n) ((b :: bs).drop n)
      (r.1, n + r.2.1, r.2.2)

/-- A window status is logged (R318). -/
def State.winFault (s : State) (f : FnId) (code : W16) : State := s.logs code f.val
/-- WIN_FAULT_COUNT counts the completions of a function with a window status other than OWNER_MISMATCH (R301), the write-backs of the service
transmit ring among them; what a firmware update or a service ring meets is no completion (log 174). -/
def State.winCount (s : State) (f : FnId) (st : Byte) : State :=
  if st.toNat / 16 = 1 && st != Status.ownerMismatch then s.modFn f (fun x => { x with winFaults := satInc x.winFaults }) else s

/-! Doorbell lines in the CXL cache (R270, R282). -/

/-- Snoop mode is in effect: chosen, and the port runs CXL with CXL.cache (R281). -/
def State.snoops (s : State) (f : FnId) : Bool := (s.fn f).dblMode && s.hiu.cxlCache && s.hiu.port == .up
/-- Does an enabled ring of a function in snoop mode name the line? -/
def State.lineNamed (s : State) (a : Nat) : Bool :=
  allFns.any (fun f => s.snoops f && ((s.fn f).sqs.toList.any (fun q => q.enable && q.dbl.toNat == a)
    || (s.fn f).cqs.toList.any (fun q => q.enable && q.dbl.toNat == a)))
/-- The cache takes a line, or changes its state; it holds up to 2,048 lines. -/
def State.setLine (s : State) (a : Nat) (st : LineState) : State :=
  s.modHiu (fun h =>
    { h with
      lines := if h.lines.any (·.1 == a) then h.lines.map (fun x => if x.1 == a then (a, st) else x)
        else if h.lines.length < 2048 then h.lines ++ [(a, st)] else h.lines })
/-- Lines that no enabled ring in snoop mode names leave the cache. -/
def State.dropLines (s : State) : State := s.modHiu (fun h => { h with lines := h.lines.filter (fun x => s.lineNamed x.1) })
/-- The device reads a line: in snoop mode its copy is Shared. -/
def State.shareLine (s : State) (f : FnId) (dbl : W64) : State := if s.snoops f then s.setLine dbl.toNat .shared else s
/-- The device writes the status half of a line; in snoop mode it holds the line Exclusive for that write. -/
def State.writeLine (s : State) (f : FnId) (dbl : W64) (bs : List Byte) : State :=
  if s.snoops f then (((s.setLine dbl.toNat .exclusive).hostWrite (dbl.toNat + 32) bs).setLine dbl.toNat .shared).dropLines
  else s.hostWrite (dbl.toNat + 32) bs

/-! Doorbell status halves (R278, Table 12-6). -/

def Sq.stoppedNow (q : Sq) : Bool := q.inflight == 0 && (!q.enable || q.errCause != 0)
def State.sqStatus (s : State) (f : FnId) (n : RingIx) : State :=
  let q := (s.fn f).sqs[n]
  s.writeLine f q.dbl (natLE 4 q.head.toNat
    ++ natLE 4 (b2n q.stopped * 2 + b2n q.error * 4 + q.errCause.toNat * 16) ++ List.replicate 24 0)
def State.cqStatus (s : State) (f : FnId) (n : RingIx) : State :=
  let c := (s.fn f).cqs[n]
  s.writeLine f c.dbl (natLE 4 c.count.toNat
    ++ natLE 4 (b2n c.overflow + b2n c.error * 4) ++ List.replicate 24 0)
def State.modSq (s : State) (f : FnId) (n : RingIx) (g : Sq → Sq) : State :=
  s.modFn f (fun x => { x with sqs := vmod x.sqs n g })
def State.modCq (s : State) (f : FnId) (n : RingIx) (g : Cq → Cq) : State :=
  s.modFn f (fun x => { x with cqs := vmod x.cqs n g })
/-- STOPPED as the ring now stands, written to the doorbell line when it becomes set (R277, R279). -/
def State.sqSettle (s : State) (f : FnId) (n : RingIx) : State :=
  let q := (s.fn f).sqs[n]
  if q.stoppedNow == q.stopped then s
  else (s.modSq f n (fun q => { q with stopped := q.stoppedNow })).sqStatus f n

/-! Completion entries (R292 to R296, Table 12-10). -/

def Sq.size (q : Sq) : Nat := 2 ^ q.sizeLog2.toNat
def Cq.size (c : Cq) : Nat := 2 ^ c.sizeLog2.toNat
/-- Free entries; a HEAD beyond the device count leaves none. -/
def Cq.free (c : Cq) : Nat := c.size - (c.count - c.head).toNat

/-- Words 0 to 3 of an entry. -/
def Completion.words (c : Completion) (phase : Bool) (sqHead : W32) : List W64 :=
  [BitVec.ofNat 64 (b2n phase * 2 ^ 63 + c.kind.toNat * 2 ^ 60 + b2n c.synthetic * 2 ^ 59 + b2n c.part * 2 ^ 58
      + c.status.toNat * 2 ^ 40 + c.sq.toNat * 2 ^ 36 + c.tag.toNat),
   BitVec.ofNat 64 (c.fault.toNat * 2 ^ 48 + c.lead.toNat * 2 ^ 40 + sqHead.toNat),
   c.detail0, c.detail1]

/-- Write one entry into its ring and raise its interrupt (R292, R296). -/
def State.putEntry (s : State) (f : FnId) (n : RingIx) (c : Completion) : State :=
  let q := (s.fn f).cqs[n]
  let k := q.count.toNat
  let head : W32 := match c.fromSq with
    | some i => (s.fn f).sqs[i].head
    | none => 0
  let ws := c.words ((k / q.size + 1) % 2 == 1) head
  let a := q.base.toNat + 32 * (k % q.size)
  let s := (s.hostWrite (a + 8) (wordsToBytes ws.tail)).hostWrite a (wordsToBytes (ws.take 1))
  let fire := q.irqEn && (c.synthetic || q.sinceMsg + 1 ≥ q.countM1.toNat + 1)
  let s := s.modCq f n (fun q => { q with count := q.count + 1, sinceMsg := if fire then 0 else q.sinceMsg + 1 })
  let s := s.cqStatus f n
  if fire then s.msix f q.vec else s

/-- May the ring take the entry now, ahead of those that wait? A synthetic entry may take the reserved entry (R295). -/
def Cq.takes (q : Cq) (c : Completion) : Bool :=
  if c.synthetic then 1 ≤ q.free && (q.waiting == [] || q.free == 1) else q.waiting == [] && 2 ≤ q.free

/-- Produce an entry for a ring: written, or waiting with OVERFLOW (R295). A ring that is not enabled takes nothing. -/
def State.postCq (s : State) (f : FnId) (n : RingIx) (c : Completion) : State :=
  let q := (s.fn f).cqs[n]
  if !q.enable then s
  else if q.takes c then s.putEntry f n c
  else
    let s := s.modCq f n (fun q => { q with waiting := q.waiting ++ [c], overflow := true })
    if q.overflow then s else (((s.cqStatus f n).msix f q.vec).logs Code.cqOverflow f.val)

/-- Write waiting entries in order while they may be taken; OVERFLOW clears when none is left (R295). -/
def State.drainCq (s : State) (f : FnId) (n : RingIx) : Nat → State
  | 0 => s
  | k + 1 =>
    let q := (s.fn f).cqs[n]
    match q.waiting with
    | [] => if q.overflow then (s.modCq f n (fun q => { q with overflow := false })).cqStatus f n else s
    | c :: rest =>
      if (if c.synthetic then 1 else 2) ≤ q.free then
        ((s.modCq f n (fun q => { q with waiting := rest })).putEntry f n c).drainCq f n k
      else s

/-- What a descriptor's completion says beside its TAG, ring and LEAD. -/
structure Ans where
  status : Byte
  detail0 : W64 := 0
  detail1 : W64 := 0
  fault : W16 := 0
  synthetic : Bool := false
  part : Bool := false
  deriving DecidableEq, Repr

def Ans.entry (a : Ans) (sq : Nat) (tag : W32) (fromSq : Option RingIx) : Completion :=
  { kind := 0, synthetic := a.synthetic, part := a.part, status := a.status, sq := BitVec.ofNat 4 sq, tag := tag,
    fault := a.fault, lead := 0, detail0 := a.detail0, detail1 := a.detail1, fromSq := fromSq }

/-- The request a ZSH origin names, taken up and not yet answered. -/
def Svc.request? (v : Svc) (p : PortId) (seq : W32) : Option ZshRequest :=
  v.requests.find? (fun r => r.port == p && r.seq == seq && r.taken)

/-! The owner header (R306, Table 13-5). -/

/-- A device write of words 0 to 3 of a header at its bus address, SEQ one higher and BUF_LEN as it was read (R306, R311). -/
def State.writeHeader (s : State) (a : Nat) (h : Hdr) (owner : Nat) (status : Byte) (part : Bool) (done : Nat) (fault : W16)
    (tag : W32) : State :=
  s.hostWrite a (natLE 8 ((h.seq + 1) % 2 ^ 32 * 2 ^ 32 + b2n part * 2 ^ 16 + status.toNat * 2 ^ 8 + owner) ++ natLE 8 h.len
    ++ natLE 8 done ++ natLE 8 (fault.toNat * 2 ^ 32 + tag.toNat))
/-- Owner values (Table 13-5). -/
def Owner.host : Nat := 1
def Owner.device : Nat := 2
def Owner.poison : Nat := 3
/-- A window descriptor that ends releases its claim; one past step 8 hands its buffer back first (R310, R311). FAULT stands in the
header for window statuses alone (Table 13-5). -/
def State.endClaim (s : State) (d : Desc) (a : Ans) : State :=
  match s.hiu.winOps.find? (fun o => o.desc == d) with
  | none => s
  | some o =>
    let s := s.modHiu (fun h => { h with winOps := h.winOps.erase o })
    match o.phase, o.claim with
    | .reply moved, some h =>
      s.writeHeader h o.hdr Owner.host a.status a.part moved (if a.status.toNat / 16 = 1 then a.fault else 0) d.tag
    | _, _ => s

/-- The completion entry of a descriptor: LEAD stands in those of job descriptors, and UNIT_RESET and LINK_DOWN are synthetic
(R292, R294). LEAD is the one that the descriptor names (DEDUCED, log 148). -/
def Desc.entryOf (d : Desc) (a : Ans) (sq : Nat) (fromSq : Option RingIx) : Completion :=
  { a.entry sq d.tag fromSq with
    lead := if d.ofJob then BitVec.ofNat 3 d.lead.val else 0
    synthetic := a.synthetic || a.status == Status.unitReset || a.status == Status.linkDown }
/-- A completion that may be synthetic is produced: a synthetic one is made from the recovery reserve of Q0, where the Management Complex is
(Table 03-1, log 156). -/
def State.synthetic (s : State) (yes : Bool) : State := if yes then s.useRecovery 0 else s
/-- Complete a descriptor: an entry in its ring's completion ring, or the reply to its ZSH request with the result. -/
def State.completeWith (s : State) (d : Desc) (a : Ans) (result : List Byte) : State :=
  let s := ((s.endClaim d a).winCount d.fn a.status).synthetic (d.entryOf a 0 none).synthetic
  match d.origin with
  | .ring f n =>
    let cq := (s.fn f).sqs[n].cq
    let s := s.modSq f n (fun q => { q with inflight := q.inflight - 1 })
    (s.postCq f cq (d.entryOf a n.val (some n))).sqSettle f n
  | .zsh p seq =>
    match s.svc.request? p seq with
    | none => s
    | some r =>
      let s := s.modSvc (fun v => { v with requests := v.requests.erase r })
      s.zshReply r (wordsToBytes ((d.entryOf a 0 none).words false 0)) result
def State.complete (s : State) (d : Desc) (a : Ans) : State := s.completeWith d a []
/-- Complete with a status alone. -/
def State.done (s : State) (d : Desc) (st : Byte) : State := s.complete d { status := st }

/-- A job event: job end (KIND 1) or hurdle reached (KIND 2), to the EVENT_CQ of the job's START or RESUME (R293). -/
def State.jobEvent (s : State) (j : Job) (kind : Nat) (a : Ans) : State :=
  let sq := match j.origin with
    | .ring _ n => n.val
    | .zsh _ _ => 0
  (s.synthetic a.synthetic).postCq j.fn j.eventCq { a.entry sq j.tag none with kind := BitVec.ofNat 3 kind, lead := BitVec.ofNat 3 j.lead.val }

/-! Header form. -/

/-- Malformed header (R306). -/
def headerBad (off w0 w1 : Nat) : Bool :=
  nbits w0 7 2 != 0 || nbits w1 63 40 != 0 || nbits w1 39 0 == 0 || decide (off + 64 + nbits w1 39 0 > 2 ^ 40)

end Sys2Proof.Machine
end

