-- ==== Sys2Proof/Machine/Stops.lean ====
section
/-! DEFINITION. Rings and stops of the package (R247, R248, Table 11-1), hops, the legs of an occurrence between two stops (R251,
R252, R418), the routes of cells and plot traffic (R255, Table 11-3), and how units move over the rings in one beat (R250, R256). -/

namespace Sys2Proof.Machine

/-- Package row and package column of a tile id (R13, R247). -/
def packRow (t : Nat) : Nat := t % 64 / 8 + 8 * (t / 64 / 2)
def packCol (t : Nat) : Nat := t % 8 + 8 * (t / 64 % 2)

/-- The stop of the tile whose plot holds a package offset. -/
def Stop.ofOffset (a : Nat) : Stop := .tile (packRow (a / 2 ^ 28)) (packCol (a / 2 ^ 28))

/-- Position of a stop on a ring: 0 to 15 are row rings, 16 to 31 column rings (Table 11-1). -/
def Stop.pos (x : Stop) (ring : Nat) : Option Nat :=
  match x with
  | .tile r c =>
    if ring < 16 then (if r = ring then some (c + 1) else none) else if c = ring - 16 then some (r + 1) else none
  | .service d =>
    if ring < 16 then
      (if d.val / 2 = ring / 8 then some (if d.val % 2 = 0 then 0 else 17) else none)
    else if d.val % 2 = (ring - 16) / 8 then some (if d.val / 2 = 0 then 0 else 17) else none

/-- RING field of a set: the ring, and whether it runs descending (R248). -/
def ringNo (b : Byte) : Nat := b.toNat % 32
def ringDown (b : Byte) : Bool := bit b 5
/-- Hops from one position to another in a direction. -/
def hopCount (down : Bool) (i j : Nat) : Nat := if down then (i + 18 - j) % 18 else (j + 18 - i) % 18
/-- Ring direction as one number, bits 5:0 of the RING field. -/
def ringDir (b : Byte) : Nat := b.toNat % 64
/-- Hop j of a leg that starts at a position: the position it leaves. -/
def hopAt (down : Bool) (i j : Nat) : Nat := if down then (i + 18 - j % 18) % 18 else (i + j) % 18

/-- The die of a position on a ring: the first nine positions lie on the first two dies of a column ring, or the first of a row ring's. -/
def ringDie (ring pos : Nat) : DieId :=
  let far := if pos ≤ 8 then 0 else 1
  if ring < 16 then finOf 4 (ring / 8 * 2 + far) else finOf 4 (far * 2 + (ring - 16) / 8)
/-- The die of the ring station whose buffer a unit holds. -/
def RingUnit.die (u : RingUnit) : DieId :=
  match u.place with
  | some (dir, pos) => ringDie (dir % 32) pos
  | none => 0

/-- Hops of a leg on a ring between two stops, when both lie on it. -/
def legHops (b : Byte) (src dst : Stop) : Option Nat :=
  match src.pos (ringNo b), dst.pos (ringNo b) with
  | some i, some j => some (hopCount (ringDown b) i j)
  | _, _ => none

/-- The row ring, column ring and turn stop of a turning occurrence (R418, Table 11-3). -/
def turnOf (src dst : Stop) : Option (Nat × Nat × Stop) :=
  match src, dst with
  | .tile r c, .tile r' c' => if r = r' ∨ c = c' then none else some (r, 16 + c', .tile r c')
  | .tile r c, .service d =>
    if (src.pos r).isSome && ((Stop.service d).pos r).isSome || ((Stop.service d).pos (16 + c)).isSome then none
    else
      let k := c % 8 + 8 * (d.val % 2)
      some (r, 16 + k, .tile r k)
  | .service d, .tile r' c' =>
    if ((Stop.service d).pos r').isSome || ((Stop.service d).pos (16 + c')).isSome then none
    else
      let k := r' % 8 + 8 * (d.val / 2)
      some (k, 16 + c', .tile k c')
  | .service _, .service _ => none

/-! Routes of cells and plot traffic (R255). -/

/-- The direction of a unit on a ring: ascending for at most 9 hops. Bit 5 is set for descending. -/
def ringWay (ring i j : Nat) : Nat := if (j + 18 - i) % 18 ≤ 9 then ring else ring + 32
/-- A leg on a ring from one position to another; none where they are the same. -/
def legFrom (ring i j : Nat) : List RingLeg := if i = j then [] else [{ dir := ringWay ring i j, pos := i, goal := j }]
/-- Position of a die's service stop on its row rings and on its column rings. -/
def rowService (d : DieId) : Nat := if d.val % 2 = 0 then 0 else 17
def colService (d : DieId) : Nat := if d.val / 2 = 0 then 0 else 17

/-- The legs of a route between two stops (Table 11-3). -/
def route (src dst : Stop) : List RingLeg :=
  match src, dst with
  | .tile r c, .tile r' c' => legFrom r (c + 1) (c' + 1) ++ legFrom (16 + c') (r + 1) (r' + 1)
  | .tile r c, .service d =>
    if r / 8 = d.val / 2 then legFrom r (c + 1) (rowService d)
    else
      let k := c % 8 + 8 * (d.val % 2)
      legFrom r (c + 1) (k + 1) ++ legFrom (16 + k) (r + 1) (colService d)
  | .service d, .tile r' c' =>
    let k := r' % 8 + 8 * (d.val / 2)
    legFrom k (rowService d) (c' + 1) ++ legFrom (16 + c') (k + 1) (r' + 1)
  | .service d, .service e =>
    let r := 8 * (d.val / 2)
    if d = e then []
    else if d.val / 2 = e.val / 2 then legFrom r (rowService d) (rowService e)
    else
      let c := 8 * (e.val % 2)
      legFrom r (rowService d) (c + 1) ++ legFrom (16 + c) (r + 1) (colService e)

/-! One beat of the rings (R250, R256). -/

/-- The channels that move units one by one (orders 2 to 5 of Table 11-2). -/
inductive RingChan where
  | burst | mgmt | plotReply | plotRequest | job
  deriving DecidableEq, Repr
/-- Buffers of a channel per station and direction (Table 11-2). -/
def RingChan.buffers : RingChan → Nat
  | .burst => 8
  | .mgmt => 8
  | .plotReply | .plotRequest | .job => 16
def RingUnit.chan (u : RingUnit) : RingChan :=
  match u.load with
  | .burst _ => .burst
  | .cell _ _ c => if c.mgmt then .mgmt else .job
  | .plot x => if x.reply then .plotReply else .plotRequest
/-- What a unit takes of the 32 units of a ring frame (R249). -/
def RingUnit.weight (u : RingUnit) : Nat :=
  match u.load with
  | .burst _ => 32
  | .cell _ _ _ | .plot _ => 1

/-- The position after the one where a leg's unit stands. -/
def RingLeg.next (g : RingLeg) : Nat := if g.dir < 32 then (g.pos + 1) % 18 else (g.pos + 17) % 18
/-- The unit stands on the ring of the leg; else it is to enter it. -/
def RingUnit.on (u : RingUnit) (g : RingLeg) : Bool := u.place == some (g.dir, g.pos)
/-- The unit once it has left a link's receive buffer. -/
def RingUnit.released (u : RingUnit) : RingUnit :=
  match u.load with
  | .cell o _ c => { u with load := .cell o false c }
  | .burst _ | .plot _ => u
/-- The unit after one hop of its leg. -/
def RingUnit.hop (u : RingUnit) (g : RingLeg) (rest : List RingLeg) : RingUnit :=
  { u.released with place := some (g.dir, g.next), legs := if g.next = g.goal then rest else { g with pos := g.next } :: rest }
/-- Units of a channel that hold buffers of a station for a ring direction. -/
def bufferedAt (us : List RingUnit) (ch : RingChan) (dir pos : Nat) : Nat :=
  (us.filter (fun u => u.place == some (dir, pos) && u.chan == ch)).length

/-- The ring direction on which the reply to a plot request reaches its requester. -/
def PlotUnit.way (x : PlotUnit) : Nat := ((route x.plot x.src).getLast?.map (·.dir)).getD 0
/-- Has the station of the requester a buffer left for the reply, beside those reserved by requests that have set out (R250)? -/
def replyRoom (us : List RingUnit) (u : RingUnit) : Bool :=
  match u.load with
  | .plot x =>
    x.reply || u.place.isSome ||
      decide ((us.filter (fun v => match v.load with
        | .plot y => (y.reply || v.place.isSome) && y.src == x.src && y.way == x.way
        | _ => false)).length < RingChan.plotReply.buffers)
  | _ => true

/-- What has moved in a beat: units of each hop taken (ring direction, position, units), and units that entered a ring, with it. -/
structure RingBeat where
  taken : List (Nat × Nat × Nat)
  entered : List (RingUnit × Nat)
  deriving DecidableEq, Repr
def RingBeat.at_ (b : RingBeat) (dir pos : Nat) : Nat :=
  ((b.taken.filter (fun x => x.1 == dir && x.2.1 == pos)).map (fun x => x.2.2)).sum

/-- The units of one channel that have not moved in this beat move one hop each, in order, at most limit of them over a hop: where the hop has
room, where the next stop has two free buffers for a unit that enters a ring and one for a unit that goes on, where a plot request has its
reply's buffer, and behind no unit that stays at the same place. Each unit comes with whether it has moved. treated are the units before, last
first; stuck the places at which one has stayed; passed the hops over which one has gone. -/
def ringPass (ch : RingChan) (limit : Nat) : List (Nat × Nat × Bool) → List (Nat × Nat) → List (RingUnit × Bool) → List (RingUnit × Bool) →
    RingBeat → List (RingUnit × Bool) × RingBeat
  | _, _, [], treated, b => (treated.reverse, b)
  | stuck, passed, (u, moved) :: us, treated, b =>
    match u.legs with
    | [] => ringPass ch limit stuck passed us ((u, moved) :: treated) b
    | g :: rest =>
      if moved || u.chan != ch then ringPass ch limit stuck passed us ((u, moved) :: treated) b
      else
        let key := (g.dir, g.pos, u.on g)
        let all := (treated ++ (u, moved) :: us).map (·.1)
        let free := ch.buffers - bufferedAt all ch g.dir g.next
        if stuck.contains key || limit ≤ passed.count (g.dir, g.pos) || 32 < b.at_ g.dir g.pos + u.weight
            || free < (if u.on g then 1 else 2) || !replyRoom all u then
          ringPass ch limit (key :: stuck) passed us ((u, moved) :: treated) b
        else
          ringPass ch limit stuck ((g.dir, g.pos) :: passed) us ((u.hop g rest, true) :: treated)
            { taken := (g.dir, g.pos, u.weight) :: b.taken
              entered := if u.on g then b.entered else b.entered ++ [(u, g.dir)] }

/-- One beat of the rings, with the hops that reserved occurrences hold: the orders of Table 11-2 in turn. In the fifth, plot requests and job
cells take the places of a ring frame by turns; which is first alternates with the beats (DESIGN CHOICE, log 143). -/
def ringBeat (reserved : List (Nat × Nat)) (plotFirst : Bool) (us : List RingUnit) : List RingUnit × RingBeat :=
  let pass := fun (ch : RingChan) (limit : Nat) (r : List (RingUnit × Bool) × RingBeat) => ringPass ch limit [] [] r.1 [] r.2
  let r := (us.map (fun u => (u, false)), { taken := reserved.map (fun x => (x.1, x.2, 32)), entered := [] })
  let r := pass .plotReply 32 (pass .mgmt 32 (pass .burst 32 r))
  let (x, y) : RingChan × RingChan := if plotFirst then (.plotRequest, .job) else (.job, .plotRequest)
  let r := (List.range 32).foldl (fun r _ => pass y 1 (pass x 1 r)) r
  (r.1.map (·.1), r.2)

/-! Counters of a ring direction (Table 11-6): reserved hop-beats, cell units, plot units, peak VC 0 and VC 1 occupancy. -/

def Infield.ring (i : Infield) (dir : Nat) : Vector W64 5 := ((i.ringUse.find? (fun x => x.1 == dir)).map (·.2)).getD (Vector.replicate 5 0)
def Infield.modRing (i : Infield) (dir : Nat) (f : Vector W64 5 → Vector W64 5) : Infield :=
  { i with ringUse := (dir, f (i.ring dir)) :: i.ringUse.filter (fun x => x.1 != dir) }
/-- Buffers of a channel that units hold on a ring direction, at all its stations together: the occupancy whose peak is kept (DESIGN
CHOICE, log 142). -/
def Infield.occupancy (i : Infield) (ch : RingChan) (dir : Nat) : Nat :=
  (i.transit.filter (fun u => u.chan == ch && (u.place.map (·.1)) == some dir)).length
/-- The peaks of a ring direction take in its present occupancies; from some count on, or anew (R265). -/
def Infield.peaks (i : Infield) (anew : Bool) (dir : Nat) : Infield :=
  i.modRing dir (fun v =>
    let up := fun (old : W64) (n : Nat) => BitVec.ofNat 64 (Nat.max (if anew then 0 else old.toNat) n)
    (v.set 3 (up v[3] (i.occupancy .job dir))).set 4 (up v[4] (i.occupancy .mgmt dir)))
/-- Ring directions on which some unit stands. -/
def Infield.dirsUsed (i : Infield) : List Nat := (i.transit.filterMap (fun u => u.place.map (·.1))).dedup

/-! Plot traffic (R250): accesses to a plot other than the accessing tile's own. The data of an access move in its row; its units travel on
the rings from then on (DESIGN CHOICE, log 143). -/

/-- The tile stop of a tile id. -/
def Stop.ofTile (t : Nat) : Stop := .tile (packRow t) (packCol t)
/-- A unit of plot traffic sets out. -/
def PlotUnit.unit (x : PlotUnit) : RingUnit :=
  { load := .plot x, out := none, place := none, legs := if x.reply then route x.plot x.src else route x.src x.plot }
/-- The requests of an access: one for each aligned 64 bytes of another plot that it touches, unless one for the same bytes from the same stop
still waits to set out (DESIGN CHOICE, log 143). -/
def Infield.notePlots (i : Infield) (p : PartId) (u : PlotUser) (e : Byte) (src : Stop) (a len : Nat) : Infield :=
  let ns := if len = 0 then [] else (List.range ((a + len - 1) / 64 - a / 64 + 1)).map (a / 64 + ·)
  let us := (ns.map (fun n => ({ user := u, epoch := e, src := src, plot := Stop.ofOffset (n * 64), part := p, piece := n, reply := false } : PlotUnit).unit)).filter
    (fun u => !u.legs.isEmpty && !i.transit.contains u)
  { i with transit := i.transit ++ us }

/-! Units that have reached their last stop. -/

/-- The cell of a unit, and whether it came on a link. -/
def RingUnit.cell? (u : RingUnit) : Option Cell :=
  match u.load with
  | .cell _ _ c => some c
  | .burst _ | .plot _ => none
def RingUnit.foreign (u : RingUnit) : Bool :=
  match u.load with
  | .cell o _ _ => o != .here
  | .burst _ | .plot _ => false

/-- Is the unit a burst frame of a job, deferred or late (R254)? -/
def RingUnit.burstOf (u : RingUnit) (id : Nat) : Bool :=
  match u.load with
  | .burst b => b.job == id
  | .cell _ _ _ | .plot _ => false
/-- The frame of a deferred send of a job's ring stations that the unit carries: a feed's or a send's, not one from a link (R254). -/
def RingUnit.deferredOf (u : RingUnit) (id : Nat) : Option RingBurst :=
  match u.load with
  | .burst b => if b.job == id && (b.feed || b.station == 6) then some b else none
  | .cell _ _ _ | .plot _ => none
/-- The flow of a cell: its channel, source and target package, in which order is kept (R263). -/
def RingUnit.flow (u : RingUnit) : Option (Bool × BitVec 13 × BitVec 13) :=
  match u.load with
  | .cell _ _ c => some (c.mgmt, c.src, faChip c.address)
  | .burst _ | .plot _ => none
/-- The units for one exit that may leave: those at their last stop, none before an earlier one of its flow. -/
def readyUnits (out : Option LinkId) : List RingUnit → List (Option (Bool × BitVec 13 × BitVec 13)) → List RingUnit
  | [], _ => []
  | u :: us, late =>
    if u.out != out || u.flow.isNone then readyUnits out us late
    else if u.legs.isEmpty && !late.contains u.flow then u :: readyUnits out us late
    else readyUnits out us (u.flow :: late)
/-- The first unit of each flow that may leave. -/
def firstUnits : List RingUnit → List (Option (Bool × BitVec 13 × BitVec 13)) → List RingUnit
  | [], _ => []
  | u :: us, seen => if seen.contains u.flow then firstUnits us seen else u :: firstUnits us (u.flow :: seen)

end Sys2Proof.Machine
end

