-- ==== Sys2Proof/Machine/Faults.lean ====
section
/-! DEFINITION. How faults spread on the package: routes of cells (R257), abort cells (R183, R188), the end of window
descriptors and POISON (R313), the fault of a job (R352), of a partition and of the package (R343), the refusal of an armed
start (R183). -/

namespace Sys2Proof.Machine

/-! Routes between packages (R257). -/

/-- The link on which package c forwards a cell for package t. -/
def State.routeFrom (s : State) (c : BitVec 13) (mgmt : Bool) (t : BitVec 13) : LinkId :=
  let pick := fun (a b e : Nat) (plus minus : LinkId) =>
    if mgmt then (if (a + e - b % e) % e ≤ (b + e - a % e) % e then plus else minus)
    else (if b < a then plus else minus)
  if chipZ c ≠ chipZ t then pick (chipZ c) (chipZ t) s.ez 4 5
  else if chipY c ≠ chipY t then pick (chipY c) (chipY t) s.ey 2 3
  else pick (chipX c) (chipX t) s.ex 0 1
/-- The link on which a cell for another package leaves. -/
def State.routeOut (s : State) (mgmt : Bool) (t : BitVec 13) : LinkId := s.routeFrom s.chip mgmt t
/-- The neighbour of package c on a link and the link it uses (R231, Table 10-3). -/
def State.neighbourOf (s : State) (c : BitVec 13) (l : LinkId) : BitVec 13 × Nat :=
  let x := chipX c
  let y := chipY c
  let z := chipZ c
  let down := fun (a e : Nat) => (a + e - 1) % e
  let up := fun (a e : Nat) => (a + 1) % e
  let n : BitVec 13 := match l.val with
    | 0 => mkChip (down x s.ex) y z
    | 1 => mkChip (up x s.ex) y z
    | 2 => mkChip x (down y s.ey) z
    | 3 => mkChip x (up y s.ey) z
    | 4 => if z = 0 then mkChip ((x + s.twist) % s.ex) y (s.ez - 1) else mkChip x y (z - 1)
    | _ => if z + 1 = s.ez then mkChip ((x + s.ex - s.twist) % s.ex) y 0 else mkChip x y (z + 1)
  (n, if l.val % 2 = 0 then l.val + 1 else l.val - 1)
/-- The link on which a cell on its way from package c arrives at this one, within n hops: the route of R257, followed hop by hop. -/
def State.arrivalLink (s : State) (mgmt : Bool) : Nat → BitVec 13 → Option LinkId
  | 0, _ => none
  | n + 1, c =>
    let next := s.neighbourOf c (s.routeFrom c mgmt s.chip)
    if next.1 == s.chip then some (finOf 6 next.2) else s.arrivalLink mgmt n next.1

def State.addUnit (s : State) (u : RingUnit) : State := s.modInfield (fun i => { i with transit := i.transit ++ [u] })
/-- Queue a relay station's own cell on its link when that is UP; a link that is not UP takes nothing. -/
def State.queueCell (s : State) (l : LinkId) (c : Cell) : State :=
  if s.up l then s.addUnit { load := .cell .here false c, out := some l, place := none, legs := [] } else s

/-- A cell leaves the receive buffer of the link it came on, which is freed (R211). -/
def State.freeBuffer (s : State) (o : CellFrom) (c : Cell) : State :=
  match o with
  | .here => s
  | .link l => s.modLink l (fun k =>
      if c.mgmt then { k with rxUsedMgmt := k.rxUsedMgmt - 1, freedMgmt := k.freedMgmt + 1 }
      else { k with rxUsedJob := k.rxUsedJob - 1, freedJob := k.freedJob + 1 })

/-- A cell leaves a link's receive buffer when its unit enters a ring, goes out on another link of the die or is taken (R211, R256). -/
def State.unitLeaves (s : State) (u : RingUnit) : State :=
  match u.load with
  | .cell o true c => s.freeBuffer o c
  | _ => s
/-- What a ring finds in the words of a unit with an error: a single-bit error is corrected and counted, an uncorrectable one discards the
unit (R249). -/
def State.meetUnit (s : State) (u : RingUnit) : State :=
  match u.err with
  | none => s
  | some .single =>
    (s.modInfield (fun i =>
      { i with
        corrected := satInc i.corrected
        transit := i.transit.map (fun v => if v = u then { u with err := none } else v) })).logs Code.ringCorrected 0 (u.die.val * 8)
  | some .double => (s.modInfield (fun i => { i with transit := i.transit.erase u })).unitLeaves u

/-! Stops of cells (R255, R260). -/

/-- The stop of a requester: the tile of a PUT or GET, else the Management Complex on Q0. -/
def ReqOwner.stop (o : ReqOwner) : Stop :=
  match o with
  | .putGet _ p c _ => Stop.ofTile (tileId p c.cmd.tile.val)
  | .plot p => .service (dieOfPart p)
  | .mgmt _ _ | .i3c _ | .counters _ => .service 0
/-- The stop at which a cell for this package is taken: the plot of a request, the requester of a reply, else the Management Complex. -/
def State.cellStop (s : State) (c : Cell) : Stop :=
  if c.kind = CellKind.write ∨ c.kind = CellKind.readReq then Stop.ofOffset (faOffset c.address)
  else
    let vc := if c.kind = CellKind.completion then bit (byteAt c.data 1) 0 else c.mgmt
    match s.infield.requests.find? (fun r => r.mgmt == vc && r.slot.toNat == c.tag.toNat % 256) with
    | some r => r.owner.stop
    | none => .service 0
/-- A cell that the relay station it reaches takes itself: a plan digest or a job abort (R182, R183). -/
def Cell.forRelay (c : Cell) : Bool := c.kind == CellKind.management && (c.mgmtType == 1 || c.mgmtType == 2)
/-- A cell sets out from a stop, for the link on which it leaves, or for the stop of this package that takes it. -/
def State.setOut (s : State) (o : CellFrom) (src : Stop) (out : Option LinkId) (c : Cell) : State :=
  let dst := match out with
    | some l => Stop.service (dieOfLink l)
    | none => if c.forRelay then src else s.cellStop c
  s.addUnit { load := .cell o (o != .here) c, out := out, place := none, legs := route src dst }

/-- The completion cell that answers a request with a status, in management class (R260, Table 11-4). -/
def completionCell (own : BitVec 13) (req : Cell) (st : Byte) (fault : W16) (cls : Bool) : Cell :=
  { address := mkFa cls req.src (faOffset req.address)
    head := mkHead CellKind.completion 2 cls own req.tag req.epoch req.jobIndex req.domain
    data := mkData ([st, BitVec.ofNat 8 (b2n req.mgmt)] ++ natLE 2 fault.toNat) }

/-- The completion of a request that the relay station of a link could not send (R217): it sets out from there, on VC 1. -/
def State.answerDown (s : State) (l : LinkId) (c : Cell) : State :=
  let a := completionCell s.chip c Status.linkDown 0 true
  let out := s.routeOut true c.src
  let src := Stop.service (dieOfLink l)
  if c.src = s.chip then s.setOut .here src none a else if s.up out then s.setOut .here src (some out) a else s
/-- Send a cell from where it came: to this package's own stops, or to the link that its route chooses. A request whose link is not UP is
answered with LINK_DOWN (R217). -/
def State.routeCell (s : State) (o : CellFrom) (src : Stop) (c : Cell) : State :=
  let t := faChip c.address
  if t = s.chip then s.setOut o src none c
  else
    let l := s.routeOut c.mgmt t
    if s.up l then s.setOut o src (some l) c
    else
      let s := s.freeBuffer o c
      if c.kind = CellKind.write ∨ c.kind = CellKind.readReq then s.answerDown l c else s
def State.sendCell (s : State) (src : Stop) (c : Cell) : State := s.routeCell .here src c

/-! Abort cells (R183, R188). -/

def abortCell (own peer : BitVec 13) (epoch : Byte) (b : PaceBlock) (code : W16) : Cell :=
  { address := mkFa true peer 0
    head := mkHead CellKind.management 2 true own 0 epoch b.jobIndex b.domainId
    data := mkData ([2, 0, 0, 0, 0, 0, 0, 0] ++ natLE 8 b.startCount ++ natLE 2 code.toNat) }
def Link.peerChip (k : Link) : BitVec 13 := BitVec.ofNat 13 (fld k.peerSeen 12 0)
/-- Send a job-abort cell on every UP link that the job's plans use (in RUN: its active plan), but for the one it came on. -/
def State.sendAborts (s : State) (j : Job) (code : W16) (but : Option LinkId) : State :=
  match j.pace with
  | none => s
  | some b =>
    let ls := if j.phase == .run then allLinks.filter j.activeUses else j.planLinks
    (ls.filter (fun l => s.up l && but != some l)).foldl
      (fun s l => s.queueCell l (abortCell s.chip (s.link l).peerChip s.mgt.epoch b code)) s

/-! Leaving the pace domain (R34): the package keeps its grade, and the voltage of a tighten that was announced goes back to it (R25). -/

def State.leaveDomain (s : State) : State :=
  if s.jobs.any (fun j => j.phase == .run || j.phase == .armed) then s
  else s.modPace (fun p =>
    { p with domain := none, outstanding := none, holds := [], adopted := false, missedMarks := 0, offset := 0, voltage := p.grade })

/-- A part of the mark period ends: what the sentinels measured in it stands at its grade and demands (R26). -/
def State.noteSlack (s : State) : State :=
  s.modPace (fun p =>
    { p with segments := p.segments ++
        [{ grade := p.grade, demands := s.parts.map (fun q : Partition => (q.demandNum, q.demandDen)) }] })

/-! The window descriptors of a partition that faults or resets (R313). -/

/-- Write a header POISON, or log that it cannot be reached; during a firmware switch the write waits (R313, R366). The marking uses the
recovery reserve (Table 03-1), of Q0 (log 156). -/
def State.poisonNow (s : State) (x : Poison) : State :=
  let s := s.useRecovery 0
  match s.walk x.root x.off 64 true with
  | .page a _ => (s.writeHeader a x.hdr Owner.poison x.status x.part x.moved x.fault x.tag).logs Code.poisonSet x.fn.val
  | .fail _ => s.hand Code.poisonUnreachable x.fn.val (.count (BitVec.ofNat 64 x.off))
def State.poison (s : State) (x : Poison) : State :=
  if s.boot.stage == .switching then s.modMgt (fun m => { m with poisons := m.poisons ++ [x] }) else s.poisonNow x

/-- LENGTH of a TRANSFER (Table 12-8). -/
def Desc.length (d : Desc) : Nat := fld (d.word 3) 31 0

/-- End one window descriptor of a partition: its header POISON when it holds the buffer; another that is past step 7 hands its buffer back; its
completion is synthetic. -/
def State.endWinOp (s : State) (o : WinOp) (st : Byte) (code : W16) : State :=
  match o.phase with
  | .close _ (some _) moved _ _ _ _ =>
    let s := s.modHiu (fun h => { h with winOps := h.winOps.erase o })
    let early := decide (moved < o.desc.length)
    let s := s.poison
      { fn := o.desc.fn, root := o.root, off := o.offset.toNat, hdr := o.hdr, status := st, part := early, moved := moved, fault := code,
        tag := o.desc.tag }
    s.complete o.desc
      { status := st, detail0 := BitVec.ofNat 64 moved, fault := code, synthetic := true, part := early }
  | _ => s.complete o.desc { status := st, fault := code, synthetic := true }

/-- May a fault of its partition still end the descriptor? Only a TRANSFER holds its buffer (R313); any other whose data movement has
ended waits to close with its own outcome (R311). -/
def WinOp.cutShort (o : WinOp) : Bool :=
  o.desc.opcode == Op.transfer || (match o.phase with | .close .. => false | _ => true)
def State.endWinOps (s : State) (ps : List PartId) (st : Byte) (code : W16) : State :=
  (s.hiu.winOps.filter (fun o => o.cutShort && (match o.part with | some p => ps.contains p | none => false))).foldl
    (fun s o => s.endWinOp o st code) s

/-- The partition that a Ring Engine descriptor names: PART of TRANSFER and PREDICATE, LEAD of END and HURDLE. -/
def Desc.partNamed (d : Desc) : Option PartId :=
  if d.opcode = Op.transfer then some (finOf 8 (fld (d.word 2) 35 33))
  else if d.opcode = Op.predicate ∨ d.opcode = Op.endD ∨ d.opcode = Op.hurdle then some d.lead
  else none

/-- Is a descriptor one of a job: of its function, naming one of its partitions as its partition or its LEAD? -/
def Desc.of (d : Desc) (f : FnId) (ps : List PartId) : Bool :=
  d.fn == f && (match d.partNamed with | some p => ps.contains p | none => d.ofJob && ps.contains d.lead)
/-- The descriptors of a job that wait: in the queues of the two units, and in its function's rings behind ORDER. -/
def State.waitingOf (s : State) (f : FnId) (ps : List PartId) : List Desc :=
  (s.hiu.reQueue ++ s.hiu.mcQueue ++ (s.fn f).sqs.toList.flatMap (·.held)).filter (·.of f ps)
/-- They complete with one status (R352, step 5). -/
def State.endDescs (s : State) (f : FnId) (ps : List PartId) (st : Byte) (code : W16) : State :=
  let ds := s.waitingOf f ps
  let s := s.modHiu (fun h =>
    { h with reQueue := h.reQueue.filter (fun d => !d.of f ps), mcQueue := h.mcQueue.filter (fun d => !d.of f ps) })
  let s := s.modFn f (fun x => { x with sqs := x.sqs.map (fun q : Sq => { q with held := q.held.filter (fun d => !d.of f ps) }) })
  ds.foldl (fun s d => s.complete d { status := st, fault := code, synthetic := true }) s

/-! The fault of a job (R351, R352). -/

/-- A partition enters FAULTED: nothing runs in it, it has no map (R70), its contents are kept. One that is FAULTED keeps its first code
(R351). -/
def Partition.toFaulted (q : Partition) (code : W16) : Partition :=
  { q with
    st := .faulted, fault := if q.st == .faulted then q.fault else code, zeroing := false, engines := [], streams := [], lists := [], pointQ := [],
    mapA := none, mapB := none, mapGold := none }

/-- The requests of a job are abandoned: what it had waiting or outstanding is dropped. -/
def ReqOwner.ofLead (o : ReqOwner) (p : PartId) : Bool :=
  match o with
  | .putGet l _ _ _ => l == p
  | _ => false

/-- The partition and entry of the SPILL region of a link in the maps of its owner (R63), with the entry's index. -/
def State.spillRegion (s : State) (j : Job) (l : LinkId) : Option (PartId × Nat × BitVec 128) :=
  j.parts.findSome? (fun p => match (s.part p).mapA with
    | some m => (m.used.find? (fun e => mePurpose e.2 == Purpose.spill && meLink e.2 == l.val)).map (fun e => (p, e))
    | none => none)
/-- A PARK of the job that zeroes its partitions ends with JOB_FAULTED, and those not yet in MARKS enter FAULTED (R398). -/
def State.parkCut (s : State) (id : Nat) (code : W16) : State :=
  let mine := fun (t : ResetTask) => t.parked.any (fun x => x.1 == id)
  let ts := s.mgt.unloads.filter mine
  let s := s.modMgt (fun m => { m with unloads := m.unloads.filter (fun t => !mine t) })
  ts.foldl (fun s t =>
    (t.left.foldl (fun s p => s.modPart p (·.toFaulted code)) s).complete t.desc
      { status := Status.jobFaulted, fault := code, synthetic := true }) s
/-- The six steps of R352 for a job that has not faulted yet; code is its first fault. The cause has been logged. The abort cells
carry cell, and leave on every link but one. -/
def State.jobFaultWith (s : State) (j : Job) (code cell : W16) (but : Option LinkId) : State :=
  let live := j.phase == .armed || j.phase == .run
  let spills := allLinks.filter (fun l => (s.link l).owner == some j.id && (s.spillRegion j l).isSome)
  let s := spills.foldl (fun s l => s.modLink l (fun k => { k with spillLost := true })) s
  let s := { s with parts := s.parts.map (fun q : Partition => if q.job == some j.id then q.toFaulted code else q) }
  let s := s.modJob j.id (fun j =>
    { j with
      phase := .faulted, firstFault := code, sends := [], ringDeferred := [], ringSampled := [], ringLanding := [], bindQ := [], lap := none, hurdle := none,
      startDesc := none, endCount := none, resumeCount := none, slices := [], prior := none, saved := [], savedPace := none, parkedMap := none })
  let s := { s with links := s.links.map (fun k : Link =>
    if k.owner == some j.id then { k with owner := none, deferred := [], sampled := [], landing := [], feed := [], hold := [] } else k) }
  let s := s.modInfield (fun i =>
    { i with
      requests := i.requests.filter (fun r => !r.owner.ofLead j.lead) })
  let s := if live then s.sendAborts j cell but else s
  let s := (s.endWinOps j.parts Status.jobFaulted code).endDescs j.fn j.parts Status.jobFaulted code
  let s := s.parkCut j.id code
  let s := match j.startDesc with
    | some d => s.complete d { status := Status.jobFaulted, fault := code, synthetic := true }
    | none => s
  let s := if j.startDone then
      s.jobEvent j 1 { status := Status.jobFaulted, fault := code, synthetic := true, detail0 := s.pace.count }
    else s
  let s := s.modSvc (fun v => { v with streams := v.streams.map (fun o : Option OutStream => o.map (fun t : OutStream =>
    if t.lead == j.lead then { t with stop := some Status.jobFaulted } else t)) })
  s.leaveDomain

def State.jobFaultCore (s : State) (j : Job) (code : W16) : State := s.jobFaultWith j code code none

/-- A fault that has been logged reaches a job; a job faults only once (R71). -/
def State.jobFaultQuiet (s : State) (id : Nat) (code : W16) : State :=
  match s.job? id with
  | none => s
  | some j => if j.phase == .faulted then s else s.jobFaultCore j code

/-- The job still stops: it is the beat of its first contract violation (R71). -/
def State.stops (s : State) (j : Job) : Option Stopping := j.stopping.filter (fun x => s.paceRuns && x.beat == s.pace.count)
/-- What a job's first contract violation leaves to be known while the job stops, in the rest of that beat (R71). -/
def State.stopping (s : State) (j : Job) (code : W16) (r : Loc) : Option Stopping :=
  if Code.violates code && s.paceRuns then
    some { beat := s.pace.count, units := [(r.tile, r.engine)]
           parts := (allParts.filter (fun p => (s.part p).job == some j.id)).map (fun p => (p, s.part p)) }
  else none
/-- A class 3 fault of a job: logged with its record, then R352. After the job has faulted it is only counted (R349), but for a contract
violation by a different tile or engine while the job still stops, which is logged in full (R71). -/
def State.jobFault (s : State) (id : Nat) (code : W16) (r : Loc) : State :=
  match s.job? id with
  | none => s
  | some j =>
    if j.phase == .faulted then
      match s.stops j with
      | some x =>
        if Code.violates code && !x.units.contains (r.tile, r.engine) then
          (s.modJob id (fun j => { j with stopping := some { x with units := (r.tile, r.engine) :: x.units } })).logAt code j.fn.val r
        else s.modLog (fun g => { g with suppressed := satInc g.suppressed })
      | none => s.modLog (fun g => { g with suppressed := satInc g.suppressed })
    else ((s.logAt code j.fn.val r).jobFaultCore j code).modJob id (fun k => { k with stopping := s.stopping j code r })

/-- A fault found in a partition, of the job it holds. -/
def State.partJobFault (s : State) (p : PartId) (code : W16) (r : Loc) : State :=
  match (s.part p).job with
  | some id => s.jobFault id code r
  | none => s

/-- Fault every job of the package's domain: each job that is armed or in RUN (R36, R38, R48); the cause is logged once, with the function of
the first of them (Table 15-3; that the first stands for all is DESIGN CHOICE, log 158). -/
def State.domainFault (s : State) (code : W16) : State :=
  let js := s.jobs.filter (fun j => j.phase == .run || j.phase == .armed)
  (js.map (·.id)).foldl (fun s id => s.jobFaultQuiet id code) (s.logs code ((js.head?.map (·.fn.val)).getD 0))

/-- A class 4 fault: the partition and every job that has a partition there (R343); a scrub comes before its zeroing (R362). -/
def State.partFault (s : State) (p : PartId) (code : W16) (r : Loc) : State :=
  let s := s.logAt code (s.vfOf p) r
  let s := match (s.part p).job with
    | some id => s.jobFaultQuiet id code
    | none => s
  s.modPart p (fun q => { q.toFaulted code with scrubFirst := true })

/-! A job that still stops (R71). -/

/-- The state in which the tiles and engines of a partition go on in the beat in which its job stops: the job's partitions are as they were at
its first contract violation. -/
def State.stillRuns (s : State) (p : PartId) : Option State :=
  if (s.part p).st != .faulted then none
  else ((s.jobOf p).bind s.stops).map (fun x => { s with parts := x.parts.foldl (fun ps y => vset ps y.1 y.2) s.parts })
/-- A command that has gone on in such a state, t: where it has met a violation of its own, which is logged, what it did before counts; else it
is abandoned at once (R71, R352; which it is the spec leaves to timing: DESIGN CHOICE, log 157). -/
def State.stopRun (s : State) (p : PartId) (t : State) : State :=
  let units := fun (u : State) => ((u.jobOf p).bind u.stops).map (·.units)
  if units t == units s then s
  else
    match s.jobOf p with
    | none => s
    | some j =>
      let mine := fun (q : Partition) => q.job == some j.id
      ({ t with parts := Vector.ofFn (fun p => if mine (s.part p) then s.part p else t.part p) }).modJob j.id (fun k : Job =>
        { k with stopping := k.stopping.map (fun x : Stopping => { x with parts := x.parts.map (fun y : PartId × Partition => (y.1, t.part y.1)) }) })

/-! Posts. -/

/-- Push an entry; a full or undeclared queue faults the job with QUEUE_OVERRUN (R68, R90). -/
def State.pushOr (s : State) (p : PartId) (t : Fin 32) (n : Fin 64) (e : QEntry) (r : Loc) : State :=
  if (s.part p).hasRoom t n then s.modPart p (fun q => q.push t n e) else s.partJobFault p Code.queueOverrun r

/-- Push the posts of a command in order, POST0 first, into a partition that has not faulted (R90). -/
def State.postAll (s : State) (p : PartId) (i : Issued) (mk : W16 → Nat → QEntry) (r : Loc) : State :=
  i.cmd.posts.foldl (fun s b =>
    if (s.part p).st == .faulted then s
    else s.pushOr p (refTile b) (refQueue b) (mk (refId b) (effGen i.cmd.relGen (refGen b) i.iter)) r) s

/-- A located record of a command. -/
def Issued.loc (i : Issued) (p : PartId) (engine : Nat) : Loc :=
  { Loc.base engine with tile := tileId p i.cmd.tile.val, part := p.val, command := some i.index }

/-! Refusing an armed start (R183). -/

/-- A partition leaves its job: its zeroing begins, after the scrub that a fault of class 4 or 5 made due; its owner stays until MARKS (R61,
R238, R362). -/
def Partition.leave (q : Partition) (st : PState) : Partition :=
  { Partition.reset with
    st := st, left := q.shown, zeroing := true, owner := q.owner, fault := q.fault, scrubFirst := q.scrubFirst }

/-- Disarm: a started job returns to SET; a resumed one to PARKED, its expansion partitions zeroed (R401). -/
def State.disarm (s : State) (j : Job) : State :=
  if j.resuming then
    let keep : Option PartId := j.image.parkPart.bind j.phys
    let s := s.noteSlack
    let s := { s with parts := Vector.ofFn (fun p : Fin 8 =>
      let q := s.parts[p]
      if q.job == some j.id then
        (if keep == some p then
          { q with st := .parked, mapA := j.parkedMap, mapB := j.parkedMap, mapGold := j.parkedMap, streams := [], lists := [],
                   queues := [], engines := [] }
        else q.leave .marks)
      else q) }
    let s := { s with links := s.links.map (fun k : Link => if k.owner == some j.id then { k with owner := none } else k) }
    s.modJob j.id (fun j =>
      { j with phase := .parked, resuming := false, lead := keep.getD j.lead, parts := keep.toList, startDesc := none,
               startDone := true, slices := j.slices.tail, pace := none, prior := none
               origin := (j.prior.map (·.1)).getD j.origin, tag := (j.prior.map (·.2.1)).getD j.tag
               eventCq := (j.prior.map (·.2.2)).getD j.eventCq })
  else
    s.modJob j.id (fun j => { j with phase := .loaded, startDesc := none, startDone := false, slices := [], pace := none })

/-- A package refuses an armed start, or receives an abort for it: aborts, its completion or event, disarmed (R183). fault goes
to the completion or event, cell to the abort cells. -/
def State.refuseStart (s : State) (j : Job) (st : Byte) (fault cell : W16) (but : Option LinkId) : State :=
  let s := s.sendAborts j cell but
  let s := if j.startDesc.isNone then
      s.jobEvent j 1 { status := st, fault := fault, synthetic := true, detail0 := s.pace.count }
    else match j.startDesc with
      | some d => s.complete d { status := st, fault := fault }
      | none => s
  (s.disarm j).leaveDomain

end Sys2Proof.Machine
end

