-- ==== Sys2Proof/Machine/Access.lean ====
section
/-! DEFINITION. Accesses to the plots: errors of SRAM words met on the way (R55, R57, R59, R60) and the checked access of an
engine (R67, R70, R72, R73). An engine's access is one element (log 40). -/

namespace Sys2Proof.Machine

/-! Words and rows (R57, R59). -/

/-- The 16-byte words that a range of package offsets touches. -/
def wordsOf (a len : Nat) : List Nat :=
  if len = 0 then [] else (List.range ((a + len - 1) / 16 - a / 16 + 1)).map (a / 16 + ·)
/-- The words that a range covers only in part. -/
def partWords (a len : Nat) : List Nat :=
  (wordsOf a len).filter (fun w => !(a ≤ w * 16 && w * 16 + 16 ≤ a + len))
def State.eccAt (s : State) (w : Nat) : Option EccErr := (s.sram.ecc.find? (fun e => e.1 == w)).map (·.2)
def rowOfWord (w : Nat) : Nat := w / 512
def dieOfWord (w : Nat) : DieId := finOf 4 (w / 2 ^ 30)
def partOfWord (w : Nat) : PartId := partOfOffset (w * 16)

/-- A single-bit error met in a word of the plots. -/
def State.eccFix (s : State) (w : Nat) (r : Loc) : State :=
  let p := partOfWord w
  (s.modSram (fun m => { m with ecc := m.ecc.filter (fun e => e.1 != w) })).correctWord w (rowOfWord w) (dieOfWord w) (s.vfOf p)
    { r with part := p.val, address := some ((w * 16 : Nat) - (partBase p : Nat) : Int) }

/-- Is a word in a region of a job whose uncorrectable error faults the partition (Table 03-2)? -/
def State.wordLive (s : State) (w : Nat) : Bool :=
  let q := s.part (partOfWord w)
  (q.st == .set || q.st == .run || q.st == .hold || q.st == .parked) &&
    (match q.mapA with
     | some m => match regionOf m.used (w * 16 - partBase (partOfWord w)) 16 with
       | some (_, e) => mePurpose e != Purpose.free
       | none => false
     | none => false)

/-- Zero a word and give it good check bits. -/
def State.zeroWord (s : State) (w : Nat) : State := s.zeroRange (w * 16) (w * 16 + 16)

/-- An uncorrectable error met in a word (R60, Table 03-2); true when the word is zeroed and the access goes on. -/
def State.eccDouble (s : State) (w : Nat) (r : Loc) : State × Bool :=
  let p := partOfWord w
  let live := s.wordLive w
  let vf := s.vfOf p
  let region : Option Nat := match (s.part p).mapA with
    | some m => (regionOf m.used (w * 16 - partBase p) 16).map (·.1)
    | none => none
  let r : Loc := { r with
    part := p.val
    address := some ((w * 16 : Nat) - (partBase p : Nat) : Int)
    region := region }
  let s1 := s.zeroWord w
  let s2 := if live then s1.partFault p Code.sramUncorrectable r else s1.logAt Code.uncorrectableCleared vf r
  (s2.retireRow (dieOfWord w) (rowOfWord w) vf r, !live)

/-- Meet the errors of words in order; false when one is not delivered. -/
def State.meetWords (s : State) (r : Loc) : List Nat → State × Bool
  | [] => (s, true)
  | w :: ws =>
    match s.eccAt w with
    | none => s.meetWords r ws
    | some .single => (s.eccFix w r).meetWords r ws
    | some .double =>
      let x := s.eccDouble w r
      if x.2 then x.1.meetWords r ws else (x.1, false)

/-- Read bytes of the plots by package offset; none when a word cannot be delivered. -/
def State.fetchBytes (s : State) (a len : Nat) (r : Loc) : State × Option (List Byte) :=
  let x := s.meetWords r (wordsOf a len)
  if x.2 then (x.1, some (x.1.rd a len)) else (x.1, none)
/-- Write bytes of the plots by package offset: whole words replaced, parts merged; false when a merge meets a word that is not
delivered, and then nothing of the write is made (R55). -/
def State.store (s : State) (a : Nat) (bs : List Byte) (r : Loc) : State × Bool :=
  let x := s.meetWords r (partWords a bs.length)
  if x.2 then
    ((x.1.wr a bs).modSram (fun m =>
      { m with ecc := m.ecc.filter (fun e => !(a ≤ e.1 * 16 && e.1 * 16 + 16 ≤ a + bs.length)) }), true)
  else (x.1, false)

/-! Words of the reserve (Tables 03-1, 03-2). -/

/-- Does the load in progress stage a map for the partition, or use the loader's working store? -/
def State.stages (s : State) (p : Option PartId) : Bool :=
  match s.mgt.task, p with
  | some t, some p => t.parts.contains p
  | some _, none => true
  | none, _ => false
/-- The job whose golden copies a word holds: that of the partition, while it has not faulted. -/
def State.copyOwner (s : State) (p : Option PartId) : Option Job :=
  (p.bind s.jobOf).bind (fun j => if j.phase == .faulted then none else some j)

/-- An uncorrectable word of the reserve (Table 03-2). -/
def State.reserveDouble (s : State) (d : DieId) (part : ReservePart) (p : Option PartId) (word : Nat) (r : Loc) : State :=
  let r := { r with part := (p.getD 0).val }
  let clear := s.logAt Code.uncorrectableCleared 0 r
  let owned := match s.copyOwner p with
    | some j => s.jobFault j.id Code.goldenLost r
    | none => clear
  let lost := (s.logAt Code.goldenLost 0 r).modMgt (fun m => { m with task := m.task.map (fun t : LoadTask => { t with lost := true }) })
  let keep := fun t : State => t.retireRow d (reserveRow d word) 0 r
  match part with
  | .planGolden => keep (match s.copyOwner p with
      | some j => if j.image.plan.isSome then owned else clear
      | none => clear)
  | .mapGolden => keep owned
  | .stagedMap => keep (if s.stages p then lost else clear)
  | .workingStore => keep (if s.mgt.task.isSome then lost else clear)
  | .recovery => s.recoveryDouble d word r
  | .unusedSpace => keep clear
  | .spareRow => clear.modSram (fun m => { m with spares := vmod m.spares d (· - 1) })

/-- Meet the error of a word of the reserve: the word is good afterwards. -/
def State.reserveMeet (s : State) (r : Loc) (x : ReserveErr) : State :=
  let s := s.modSram (fun m => { m with reserve := m.reserve.erase x })
  match x.err with
  | .single => s.correctWord (reserveKey x.die x.word) (reserveRow x.die x.word) x.die 0 { r with part := (x.holder.getD 0).val }
  | .double => s.reserveDouble x.die x.part x.holder x.word r

/-- Meet every error of the reserve in words of one kind, as a reader of all of them does. -/
def State.meetReserve (s : State) (r : Loc) (which : ReserveErr → Bool) : State :=
  (s.sram.reserve.filter which).foldl (fun s x => s.reserveMeet r x) s

/-! Map copies (R73). -/

/-- Rewrite both copies from the golden copy, whose words are read, and log MAP_LATENT; where the golden copy is lost its job faults
(Table 03-2), and nothing is rewritten. -/
def State.mapRewrite (s : State) (p : PartId) (i : Nat) (r : Loc) : State :=
  let r : Loc := { r with part := p.val, region := some i }
  let s := s.meetReserve r (fun x => x.part == .mapGolden && x.holder == some p)
  match (s.part p).mapGold with
  | none => s
  | some g => (s.modPart p (fun q => { q with mapA := some g, mapB := some g })).logAt Code.mapLatent (s.vfOf p) r

/-- What a lookup of a map finds; lost: the rewrite that it needed met a lost golden copy, and the job has faulted. -/
inductive Lookup where
  | noMap
  | lost
  | diverged (i : Nat)
  | entries (es : List (Nat × BitVec 128))
  deriving DecidableEq, Repr

/-- A lookup that consults the entries at given indices of the two copies, rewriting both after a latent divergence. -/
def State.consult (s : State) (p : PartId) (idx : AllocMap → List Nat) (r : Loc) : State × Lookup :=
  match (s.part p).mapA, (s.part p).mapB with
  | some a, some b =>
    let ix := idx a
    match ix.find? (fun i => a.diffAt b i == .live) with
    | some i => (s, .diverged i)
    | none =>
      match ix.find? (fun i => a.diffAt b i == .latent) with
      | some i =>
        let s := s.mapRewrite p i r
        (match (s.part p).mapGold with
         | some g => (s, .entries (ix.filterMap (fun i => (g.entry? i).map (fun e => (i, e)))))
         | none => (s, .lost))
      | none => (s, .entries (ix.filterMap (fun i => (a.entry? i).map (fun e => (i, e)))))
  | _, _ => (s, .noMap)

/-- A lookup by region index consults that entry alone; one placed by address consults every used entry (R73). -/
def State.consultOne (s : State) (p : PartId) (i : Nat) (r : Loc) : State × Lookup := s.consult p (fun _ => [i]) r
def State.consultAll (s : State) (p : PartId) (r : Loc) : State × Lookup := s.consult p (fun a => List.range a.count) r

/-! The checked access of an engine (R67). -/

/-- A part of a command's work: it goes on, or has ended in a fault, with the state as it then is. -/
abbrev Eng := EStateM Unit State

/-- Who accesses: partition and tile, ENGINE of the located record, source unit of fault codes, the command, the loop indices. -/
structure Acc where
  part : PartId
  tile : Fin 32
  engine : Nat
  unit : Nat
  cmd : Issued
  loops : Option (List Nat)
  deriving DecidableEq, Repr

/-- The record of the accessor (R72). -/
def Acc.loc (a : Acc) : Loc :=
  { Loc.base a.engine with
    tile := tileId a.part a.tile.val, part := a.part.val, command := some a.cmd.index, loops := a.loops }

/-- The stop of the accessor: its tile's, or the service stop of the die of its Point Engine (R247). -/
def Acc.stop (a : Acc) : Stop :=
  if a.engine = 5 then .service (finOf 4 (a.part.val / 2)) else Stop.ofTile (tileId a.part a.tile.val)
/-- The unit that makes the access. -/
def Acc.user (a : Acc) : PlotUser :=
  .unit (if a.engine = 5 then .pointEngine (finOf 4 (a.part.val / 2)) else .tile (finOf 256 (tileId a.part a.tile.val)))
/-- The plot traffic of an access, made for a partition, to a range of package offsets from a stop (R250). -/
def State.plotAccess (s : State) (p : PartId) (u : PlotUser) (src : Stop) (x len : Nat) : State :=
  s.modInfield (fun i => i.notePlots p u (s.userEpoch u) src x len)
/-- End the work with a fault of the job. -/
def Acc.fault {α : Type} (a : Acc) (code : W16) (r : Loc) : Eng α :=
  fun s => .error () (s.partJobFault a.part code r)

/-- Check one access: bytes off to off + len of a region, as access kind kind. Answers its package offset (R67, Table 03-8). -/
def Acc.check (a : Acc) (kind region : Nat) (off : Int) (len : Nat) : Eng Nat := fun s =>
  let r : Loc := { a.loc with region := some region, access := kind }
  let (s, l) := s.consultOne a.part region r
  match l with
  | .lost => .error () s
  | .noMap => a.fault (Code.regionKind a.unit) r s
  | .diverged _ => a.fault Code.mapDiverged r s
  | .entries es =>
    match es.head? with
    | none => a.fault (Code.regionKind a.unit) r s
    | some (_, e) =>
      let adr : Int := meStart e + off
      let r : Loc := { r with address := some adr }
      if !(meHas e kind && meTile e a.tile.val) then a.fault (Code.regionKind a.unit) r s
      else if 0 ≤ off ∧ off + len ≤ meLen e then
        .ok (partBase a.part + adr.toNat) (s.plotAccess a.part a.user a.stop (partBase a.part + adr.toNat) len)
      else
        let bad : Int := if 0 ≤ off ∧ off < meLen e then (meStart e + meLen e : Nat) else adr
        a.fault (Code.regionBounds a.unit) { r with address := some bad } s

/-- A checked read of len bytes. -/
def Acc.read (a : Acc) (kind region : Nat) (off : Int) (len : Nat) : Eng (List Byte) := do
  let x ← a.check kind region off len
  fun s =>
    match s.fetchBytes x len { a.loc with region := some region, access := kind } with
    | (s, some bs) => .ok bs s
    | (s, none) => .error () s
/-- A checked write. -/
def Acc.write (a : Acc) (kind region : Nat) (off : Int) (bs : List Byte) : Eng Unit := do
  let x ← a.check kind region off bs.length
  fun s =>
    match s.store x bs { a.loc with region := some region, access := kind } with
    | (s, true) => .ok () s
    | (s, false) => .error () s

end Sys2Proof.Machine
end

