-- ==== Sys2Proof/Machine/Float.lean ====
section
/-! DEFINITION. Number formats: exact values, the one rounding of R103, stochastic rounding (R104), overflow and exceptions
(R105, Table 05-3). A finite value is m x 2^e with an integer m, kept exactly; a zero keeps its sign. -/

namespace Sys2Proof.Machine

/-- An exact value: a NaN, an infinity, or (-1)^neg x mant x 2^exp. -/
inductive Val where
  | nan
  | inf (neg : Bool)
  | fin (neg : Bool) (mant : Nat) (exp : Int)
  deriving DecidableEq, Repr

/-- The formats of Table 05-2. -/
inductive Fmt where
  | fp32 | bf16 | fp16 | e4m3 | e5m2 | int8 | int32
  deriving DecidableEq, Repr

/-- FORMAT codes (Table 05-2); 7 to 15 are reserved. -/
def Fmt.ofCode : Nat → Option Fmt
  | 0 => some .fp32 | 1 => some .bf16 | 2 => some .fp16 | 3 => some .e4m3
  | 4 => some .e5m2 | 5 => some .int8 | 6 => some .int32 | _ => none

/-- Element size in bytes (Table 05-2). -/
def Fmt.size : Fmt → Nat
  | .fp32 | .int32 => 4
  | .bf16 | .fp16 => 2
  | .e4m3 | .e5m2 | .int8 => 1

def Fmt.isInt : Fmt → Bool
  | .int8 | .int32 => true
  | _ => false

/-- Exponent bits, mantissa bits and bias of a floating-point format. -/
def Fmt.params : Fmt → Nat × Nat × Int
  | .fp32 => (8, 23, 127)
  | .bf16 => (8, 7, 127)
  | .fp16 => (5, 10, 15)
  | .e4m3 => (4, 3, 7)
  | .e5m2 => (5, 2, 15)
  | .int8 | .int32 => (0, 0, 0)

/-- The canonical NaN (Table 05-3). -/
def Fmt.nanBits : Fmt → Nat
  | .fp32 => 0x7FC00000 | .bf16 => 0x7FC0 | .fp16 => 0x7E00 | .e4m3 => 0x7F | .e5m2 => 0x7E
  | .int8 | .int32 => 0

/-- Bits of the largest finite magnitude (Table 05-3). -/
def Fmt.maxBits : Fmt → Nat
  | .fp32 => 0x7F7FFFFF | .bf16 => 0x7F7F | .fp16 => 0x7BFF | .e4m3 => 0x7E | .e5m2 => 0x7B
  | .int8 => 127 | .int32 => 2147483647

/-- Bits of +infinity; E4M3 has none, its place holds the NaN (Table 05-3). -/
def Fmt.infBits : Fmt → Nat
  | .fp32 => 0x7F800000 | .bf16 => 0x7F80 | .fp16 => 0x7C00 | .e4m3 => 0x7F | .e5m2 => 0x7C
  | .int8 | .int32 => 0

def Val.ofInt (i : Int) : Val := .fin (i < 0) i.natAbs 0

/-- The value of stored bits (R103: subnormals kept). -/
def Fmt.decode (f : Fmt) (x : Nat) : Val :=
  match f with
  | .int8 => .ofInt (signed 8 x)
  | .int32 => .ofInt (signed 32 x)
  | _ =>
    let (eb, mb, bias) := f.params
    let neg := nbits x (eb + mb) (eb + mb) = 1
    let e := nbits x (eb + mb - 1) mb
    let m := x % 2 ^ mb
    if f = .e4m3 then
      if e = 15 ∧ m = 7 then .nan
      else if e = 0 then .fin neg m (1 - bias - mb) else .fin neg (m + 2 ^ mb) (e - bias - mb)
    else if e = 2 ^ eb - 1 then (if m = 0 then .inf neg else .nan)
    else if e = 0 then .fin neg m (1 - bias - mb) else .fin neg (m + 2 ^ mb) (e - bias - mb)

/-- Rounding modes of the ROUND field (R103); stochastic with the 16-bit r of R104. -/
inductive Rnd where
  | nearest | zero | stochastic (r : Nat)
  deriving DecidableEq, Repr

/-- A magnitude mant x 2^exp as a multiple of 2^q, rounded to an integer (R103, R104). sticky says that a nonzero part below
mant was cut off already. -/
def roundMag (mode : Rnd) (mant : Nat) (exp q : Int) (sticky : Bool := false) : Nat :=
  if q ≤ exp then mant <<< (exp - q).toNat
  else
    let sh := (q - exp).toNat
    let t := mant >>> sh
    let rest := mant % 2 ^ sh
    match mode with
    | .zero => t
    | .nearest =>
      if 2 * rest > 2 ^ sh ∨ (2 * rest = 2 ^ sh ∧ (sticky ∨ t % 2 = 1)) then t + 1 else t
    | .stochastic r =>
      let d := if 16 ≤ sh then rest >>> (sh - 16) else rest <<< (16 - sh)
      if d > r then t + 1 else t

/-- Result of a conversion: stored bits, and whether it counts as an overflow or as an integer saturation (R106). -/
structure Conv where
  bits : Nat
  ovf : Bool
  intSat : Bool
  nan : Bool
  deriving DecidableEq, Repr

/-- Encode a finite magnitude into a floating-point format after one rounding; none on overflow (R103, R105). -/
def Fmt.encodeMag (f : Fmt) (mode : Rnd) (mant : Nat) (exp : Int) (sticky : Bool := false) : Option Nat :=
  let (_, mb, bias) := f.params
  if mant = 0 then some 0
  else
    let top : Int := (Nat.log2 mant : Int) + exp
    let q : Int := if top - mb < 1 - bias - mb then 1 - bias - mb else top - mb
    let r := roundMag mode mant exp q sticky
    -- r x 2^q with r at most 2^(mb+1); the encoding below is linear in r across the binade step
    let base : Int := q + bias + mb - 1
    let enc := base.toNat * 2 ^ mb + r
    if enc > f.maxBits then none else some enc

/-- Sign bit of a format. -/
def Fmt.signBit (f : Fmt) : Nat := 2 ^ (8 * f.size - 1)

def Fmt.withSign (f : Fmt) (neg : Bool) (x : Nat) : Nat := if neg then x + f.signBit else x

/-- Clamp an exact integer into INT8 or INT32; true when it saturated. -/
def Fmt.clampInt (f : Fmt) (i : Int) : Int × Bool :=
  let hi : Int := (f.maxBits : Int)
  if i > hi then (hi, true) else if i < -hi - 1 then (-hi - 1, true) else (i, false)

def Fmt.intBits (f : Fmt) (i : Int) : Nat := (i % (2 ^ (8 * f.size) : Nat)).toNat

/-- Convert an exact value into a format under ROUND and SAT (R103 to R106, Table 05-3). -/
def Fmt.convert (f : Fmt) (mode : Rnd) (sat : Bool) (v : Val) (sticky : Bool := false) : Conv :=
  if f.isInt then
    match v with
    | .nan => { bits := 0, ovf := false, intSat := false, nan := true }
    | .inf neg =>
      let i := (f.clampInt (if neg then -(2 ^ 40) else 2 ^ 40)).1
      { bits := f.intBits i, ovf := false, intSat := true, nan := false }
    | .fin neg m e =>
      let mag := roundMag mode m e 0 sticky
      let (i, s) := f.clampInt (if neg then -(mag : Int) else mag)
      { bits := f.intBits i, ovf := false, intSat := s, nan := false }
  else
    match v with
    | .nan => { bits := f.nanBits, ovf := false, intSat := false, nan := true }
    | .inf neg =>
      if f = .e4m3 then
        if sat then { bits := f.withSign neg f.maxBits, ovf := false, intSat := false, nan := false }
        else { bits := f.nanBits, ovf := false, intSat := false, nan := true }
      else { bits := f.withSign neg f.infBits, ovf := false, intSat := false, nan := false }
    | .fin neg m e =>
      match f.encodeMag mode m e sticky with
      | some x => { bits := f.withSign neg x, ovf := false, intSat := false, nan := false }
      | none =>
        if mode = .zero ∨ sat then { bits := f.withSign neg f.maxBits, ovf := true, intSat := false, nan := false }
        else if f = .e4m3 then { bits := f.nanBits, ovf := true, intSat := false, nan := true }
        else { bits := f.withSign neg f.infBits, ovf := true, intSat := false, nan := false }

/-- The exact value after rounding into FP32 under mode 0 (the steps R107, R110 and R111 name). -/
def toFp32 (v : Val) (sticky : Bool := false) : Val := Fmt.fp32.decode (Fmt.fp32.convert .nearest false v sticky).bits

/-! Exact arithmetic. -/

def Val.isNeg : Val → Bool
  | .nan => false
  | .inf n => n
  | .fin n _ _ => n

def Val.neg : Val → Val
  | .nan => .nan
  | .inf n => .inf (!n)
  | .fin n m e => .fin (!n) m e

def Val.abs : Val → Val
  | .nan => .nan
  | .inf _ => .inf false
  | .fin _ m e => .fin false m e

/-- Signed mantissa at exponent q, for q at most the value's own. -/
def Val.at : Val → Int → Int
  | .fin n m e, q => if n then -((m <<< (e - q).toNat : Nat) : Int) else ((m <<< (e - q).toNat : Nat) : Int)
  | _, _ => 0

def Val.expo : Val → Int
  | .fin _ _ e => e
  | _ => 0

/-- Exact sum. A zero sum of values of unlike signs is +0, of two negative zeros -0. -/
def Val.add (a b : Val) : Val :=
  match a, b with
  | .nan, _ => .nan
  | _, .nan => .nan
  | .inf x, .inf y => if x = y then .inf x else .nan
  | .inf x, _ => .inf x
  | _, .inf y => .inf y
  | .fin n m e, .fin n' m' e' =>
    let q := Min.min e e'
    let s := (Val.fin n m e).at q + (Val.fin n' m' e').at q
    if s = 0 then .fin (n && n') 0 q else .fin (s < 0) s.natAbs q

/-- Exact product. -/
def Val.mul (a b : Val) : Val :=
  match a, b with
  | .nan, _ => .nan
  | _, .nan => .nan
  | .inf x, .inf y => .inf (x != y)
  | .inf x, .fin y m _ => if m = 0 then .nan else .inf (x != y)
  | .fin x m _, .inf y => if m = 0 then .nan else .inf (x != y)
  | .fin x m e, .fin y m' e' => .fin (x != y) (m * m') (e + e')

/-- Times a power of two. -/
def Val.scale (v : Val) (k : Int) : Val :=
  match v with
  | .fin n m e => .fin n m (e + k)
  | w => w

/-- Exact comparison of values that are not NaN; zeros compare equal. -/
def Val.lt (a b : Val) : Bool :=
  match a, b with
  | .nan, _ => false
  | _, .nan => false
  | .inf x, .inf y => x && !y
  | .inf x, _ => x
  | _, .inf y => !y
  | .fin n m e, .fin n' m' e' =>
    let q := Min.min e e'
    decide ((Val.fin n m e).at q < (Val.fin n' m' e').at q)

def Val.eq (a b : Val) : Bool := a != .nan && b != .nan && !a.lt b && !b.lt a

def Val.isZero : Val → Bool
  | .fin _ m _ => m == 0
  | _ => false

/-- max(X, Y) of Table 05-8: NaN if either is NaN, and -0 < +0. -/
def Val.max (a b : Val) : Val :=
  if a = .nan ∨ b = .nan then .nan
  else if a.isZero ∧ b.isZero then (if a.isNeg then b else a)
  else if a.lt b then b else a

/-- min(X, Y), as max. -/
def Val.min (a b : Val) : Val :=
  if a = .nan ∨ b = .nan then .nan
  else if a.isZero ∧ b.isZero then (if a.isNeg then a else b)
  else if b.lt a then b else a

def Val.zero : Val := .fin false 0 0

/-! FP32 arithmetic under mode 0 on stored bits, for the Point Engine. -/

def f32 (x : W32) : Val := Fmt.fp32.decode x.toNat
def toBits32 (v : Val) : W32 := BitVec.ofNat 32 (Fmt.fp32.convert .nearest false v).bits
def fadd (a b : W32) : W32 := toBits32 ((f32 a).add (f32 b))
def fsub (a b : W32) : W32 := toBits32 ((f32 a).add (f32 b).neg)
def fmul (a b : W32) : W32 := toBits32 ((f32 a).mul (f32 b))
def fneg (a : W32) : W32 := toBits32 (f32 a).neg
def flt (a b : W32) : Bool := (f32 a).lt (f32 b)
def fle (a b : W32) : Bool := f32 a != .nan && f32 b != .nan && !(f32 b).lt (f32 a)
def fofNat (n : Nat) : W32 := toBits32 (.fin false n 0)
def fone : W32 := 0x3F800000
def fhalf : W32 := 0x3F000000

/-- a / b rounded once into FP32 under mode 0: the quotient to 64 further bits with a sticky rest. -/
def fdivVal (a b : Val) : W32 :=
  match a, b with
  | .nan, _ => 0x7FC00000
  | _, .nan => 0x7FC00000
  | .inf _, .inf _ => 0x7FC00000
  | .inf x, y => toBits32 (.inf (x != y.isNeg))
  | x, .inf y => toBits32 (.fin (x.isNeg != y) 0 0)
  | .fin x m e, .fin y m' e' =>
    if m' = 0 then (if m = 0 then 0x7FC00000 else toBits32 (.inf (x != y)))
    else
      let k := 64 + Nat.log2 m'
      let q := (m <<< k) / m'
      let rest := (m <<< k) % m'
      BitVec.ofNat 32 (Fmt.fp32.convert .nearest false (.fin (x != y) (2 * q + (if rest = 0 then 0 else 1)) (e - e' - k - 1))).bits

def fdiv (a b : W32) : W32 := fdivVal (f32 a) (f32 b)

/-- floor of an FP32 value that is finite and at least 0. -/
def ffloorNat (a : W32) : Nat :=
  match f32 a with
  | .fin false m e => if 0 ≤ e then m <<< e.toNat else m >>> (-e).toNat
  | _ => 0

/-- ceil of an FP32 value that is finite and at least 0. -/
def fceilNat (a : W32) : Nat :=
  match f32 a with
  | .fin false m e => if 0 ≤ e then m <<< e.toNat else ceilDiv m (2 ^ (-e).toNat)
  | _ => 0

/-- Is the FP32 value finite? -/
def ffinite (a : W32) : Bool :=
  match f32 a with
  | .fin _ _ _ => true
  | _ => false

/-! The bounded operations of Table 05-8. -/

/-- Unit in the last place of an FP32 result, as an exponent of two. -/
def ulpExp (x : W32) : Int := (Nat.max 1 (nbits x.toNat 30 23) : Int) - 150

/-- Does r lie within 1 ulp of 1/x, for finite nonzero x? |r x - 1| at most ulp(r) |x|. -/
def recipWithin (x r : W32) : Bool :=
  let d := (((f32 r).mul (f32 x)).add (Val.fin true 1 0)).abs
  ffinite r && !(Val.lt ((Val.fin false 1 (ulpExp r)).mul (f32 x).abs) d)

/-- RECIP (Table 05-8): the implementation's value where it lies within 1 ulp, else the correctly rounded quotient. -/
def recip32 (x : W32) : W32 :=
  match f32 x with
  | .nan => 0x7FC00000
  | .inf n => toBits32 (.fin n 0 0)
  | .fin n m _ =>
    if m = 0 then toBits32 (.inf n)
    else if recipWithin x (Config.recip x) then Config.recip x else fdiv fone x

/-- Does r lie within 1 ulp of 1/sqrt x, for positive finite x? (r - u)^2 x at most 1 and 1 at most (r + u)^2 x. -/
def rsqrtWithin (x r : W32) : Bool :=
  let u := Val.fin false 1 (ulpExp r)
  let lo := (f32 r).add u.neg
  let hi := (f32 r).add u
  let one := Val.fin false 1 0
  ffinite r && !(f32 r).isNeg && (lo.isNeg || !(one.lt ((lo.mul lo).mul (f32 x)))) && !(((hi.mul hi).mul (f32 x)).lt one)

/-- floor of the square root by bisection on bits. -/
def isqrtFrom (n : Nat) : Nat → Nat → Nat
  | 0, r => r
  | k + 1, r => let c := r + 2 ^ k; isqrtFrom n k (if c * c ≤ n then c else r)

def isqrt (n : Nat) : Nat := isqrtFrom n (Nat.log2 n / 2 + 1) 0

/-- 1/sqrt x of a positive finite value, correctly rounded: floor(2^k / sqrt m) with a sticky rest. -/
def rsqrtExact (x : W32) : W32 :=
  match f32 x with
  | .fin false m e =>
    let m1 : Nat := if e % 2 = 0 then m else 2 * m
    let e1 : Int := if e % 2 = 0 then e else e - 1
    let k : Nat := 128
    let q : Nat := isqrt ((2 ^ (2 * k)) / m1)
    let exact : Bool := q * q * m1 == 2 ^ (2 * k)
    toBits32 (.fin false (2 * q + (if exact then 0 else 1)) (-(e1 / 2) - (k : Int) - 1))
  | _ => 0x7FC00000

/-- RSQRT (Table 05-8): +0 gives +Inf, negative gives NaN. The table does not state the result for -0: a free value (DESIGN CHOICE, log 9). -/
def rsqrt32 (x : W32) : W32 :=
  match f32 x with
  | .nan => 0x7FC00000
  | .inf n => if n then 0x7FC00000 else 0
  | .fin n m _ =>
    if m = 0 then (if n then Config.rsqrt x else toBits32 (.inf false))
    else if n then 0x7FC00000
    else if rsqrtWithin x (Config.rsqrt x) then Config.rsqrt x else rsqrtExact x

/-! Stochastic rounding (R104). -/

/-- The 16-bit r of an output element. -/
def stochR (tile index iter elem : Nat) : Nat :=
  let m := 2 ^ 64
  let x := (tile * 0x9E3779B97F4A7C15 + index * 0xBF58476D1CE4E5B9 + iter * 0x94D049BB133111EB + elem) % m
  let x := ((x ^^^ (x >>> 30)) * 0xBF58476D1CE4E5B9) % m
  let x := ((x ^^^ (x >>> 27)) * 0x94D049BB133111EB) % m
  let x := x ^^^ (x >>> 31)
  x % 65536

end Sys2Proof.Machine
end

