-- ==== Sys2Proof/Machine/Elem.lean ====
section
/-! DEFINITION. The elementary functions of Table 05-8 and of the Point Engine, to far more digits than FP32 holds, and the bounds that the
spec sets on a part's own results: such a result is a free value where it keeps its bound, and the rounded exact one elsewhere (log 9). -/

namespace Sys2Proof.Machine

/-! Fixed point: a value x as the integer part of x times 2^200. -/

def fixBits : Nat := 200
def fixOne : Nat := 2 ^ fixBits
/-- ln 2 and pi in fixed point. -/
def fixLn2 : Nat := 0xb17217f7d1cf79abc9e3b39803f2f6af40f343267298b62d8a
def fixPi : Nat := 0x3243f6a8885a308d313198a2e03707344a4093822299f31d008
def fixMul (a b : Nat) : Nat := (a * b) >>> fixBits
def fixDiv (a b : Nat) : Nat := (a <<< fixBits) / b
def fixSqrt (a : Nat) : Nat := isqrt (a <<< fixBits)
/-- m x 2^e in fixed point. -/
def toFix (m : Nat) (e : Int) : Nat := if 0 ≤ e + fixBits then m <<< (e + fixBits).toNat else m >>> (-(e + fixBits)).toNat
def ofFix (neg : Bool) (a : Nat) : Val := .fin neg a (-(fixBits : Int))
/-- Exponent of the leading bit of m x 2^e. -/
def topExp (m : Nat) (e : Int) : Int := (Nat.log2 m : Int) + e

/-- The terms t, t r/k, t r/k r/(k+1), … of an exponential series, summed. -/
def expTerms (r : Nat) : Nat → Nat → Nat → Nat
  | 0, _, _ => 0
  | n + 1, k, t => t + expTerms r n (k + 1) (fixMul t r / k)
/-- e^x of a fixed-point x with its sign: mantissa and exponent of two. -/
def expFix (neg : Bool) (x : Nat) : Nat × Int :=
  let i : Int := if neg then -(x : Int) else x
  (expTerms (i % (fixLn2 : Int)).toNat 64 1 fixOne, i / (fixLn2 : Int) - fixBits)
/-- z + z^3/3 + z^5/5 + …, or with alternating signs: artanh z, or arctan z. -/
def oddTerms (alt : Bool) (z2 : Nat) : Nat → Nat → Nat → Int
  | 0, _, _ => 0
  | n + 1, k, t => (t / k : Nat) + (if alt then -oddTerms alt z2 n (k + 2) (fixMul t z2) else oddTerms alt z2 n (k + 2) (fixMul t z2))
def artanhFix (z : Nat) : Nat := (oddTerms false (fixMul z z) 70 1 z).toNat
/-- arctan of a fixed-point value, its argument halved three times first. -/
def atanFix (t : Nat) : Nat :=
  let half := fun (t : Nat) => fixDiv t (fixOne + fixSqrt (fixOne + fixMul t t))
  let z := half (half (half t))
  8 * (oddTerms true (fixMul z z) 40 1 z).toNat
/-- t - t^3/6 + …: the sine series. -/
def sinTerms (x2 : Nat) : Nat → Nat → Nat → Int
  | 0, _, _ => 0
  | n + 1, k, t => (t : Int) - sinTerms x2 n (k + 2) (fixMul t x2 / ((k + 1) * (k + 2)))

/-! Values close to the exact ones. -/

/-- Beyond every format, and below every format. -/
def huge (neg : Bool) : Val := .fin neg 1 400
def tiny (neg : Bool) : Val := .fin neg 1 (-400)
def expVal (neg : Bool) (m : Nat) (e : Int) : Val :=
  if m ≠ 0 ∧ 8 ≤ topExp m e then (if neg then tiny false else huge false)
  else
    let r := expFix neg (toFix m e)
    .fin false r.1 r.2
def logVal (m : Nat) (e : Int) : Val :=
  let y := toFix m (-(Nat.log2 m : Int))
  let l : Int := topExp m e * (fixLn2 : Int) + 2 * (artanhFix (fixDiv (y - fixOne) (y + fixOne)) : Int)
  ofFix (decide (l < 0)) l.natAbs
def tanhVal (neg : Bool) (m : Nat) (e : Int) : Val :=
  if m = 0 ∨ topExp m e < -60 then .fin neg m e
  else if 6 ≤ topExp m e then .fin neg 1 0
  else
    let r := expFix false (2 * toFix m e)
    let x := toFix r.1 r.2
    ofFix neg (fixDiv (x - fixOne) (x + fixOne))
def sigmoidVal (neg : Bool) (m : Nat) (e : Int) : Val :=
  if m ≠ 0 ∧ 8 ≤ topExp m e then (if neg then tiny false else .fin false 1 0)
  else
    let r := expFix true (toFix m e)
    let down := fixOne + toFix r.1 r.2
    if neg then .fin false (fixDiv r.1 down) r.2 else ofFix false (fixDiv fixOne down)

/-- The angle of a direction, not both parts zero: sine part (ns, ms, es), cosine part (nc, mc, ec). -/
def atan2Val (ns : Bool) (ms : Nat) (es : Int) (nc : Bool) (mc : Nat) (ec : Int) : Val :=
  if !nc && ms != 0 && mc != 0 && topExp ms es + 60 < topExp mc ec then .fin ns ((ms <<< fixBits) / mc) (es - ec - fixBits)
  else
    let steep := (Val.fin false mc ec).lt (.fin false ms es)
    let a := if steep then fixPi / 2 - atanFix (toFix mc (ec - es) / ms) else atanFix (toFix ms (es - ec) / mc)
    ofFix ns (if nc then fixPi - a else a)

/-! Bounds. -/

/-- Does r lie within k ulp of the exact value, a finite one, which a approaches to a small part of an ulp? -/
def near (k : Nat) (a : Val) (r : W32) : Bool :=
  (match a with | .fin _ _ _ => true | _ => false) && ffinite r && !(Val.lt (Val.fin false (k * 2 ^ 40 + 1) (ulpExp r - 40)) ((f32 r).add a.neg).abs)
/-- A part's own result where it keeps the bound of k ulp, else the exact value rounded. -/
def bounded (k : Nat) (own : W32) (a : Val) : W32 := if near k a own then own else toBits32 a

/-- EXP (Table 05-8), within 2 ulp of e^x. -/
def exp32 (x : W32) : W32 :=
  match f32 x with
  | .nan => 0x7FC00000
  | .inf n => if n then 0 else 0x7F800000
  | .fin n m e => bounded 2 (Config.exp x) (expVal n m e)
/-- LOG (Table 05-8), within 2 ulp: zero gives -Inf, negative gives NaN. -/
def log32 (x : W32) : W32 :=
  match f32 x with
  | .nan => 0x7FC00000
  | .inf n => if n then 0x7FC00000 else 0x7F800000
  | .fin n m e => if m = 0 then 0xFF800000 else if n then 0x7FC00000 else bounded 2 (Config.log x) (logVal m e)
/-- TANH (Table 05-8), within 2 ulp. -/
def tanh32 (x : W32) : W32 :=
  match f32 x with
  | .nan => 0x7FC00000
  | .inf n => if n then 0xBF800000 else fone
  | .fin n m e => bounded 2 (Config.tanh x) (tanhVal n m e)
/-- SIGMOID (Table 05-8), within 2 ulp. -/
def sigmoid32 (x : W32) : W32 :=
  match f32 x with
  | .nan => 0x7FC00000
  | .inf n => if n then 0 else fone
  | .fin n m e => bounded 2 (Config.sigmoid x) (sigmoidVal n m e)

/-! Correctly rounded functions of the Point Engine (R150, R159: FP32 under mode 0). -/

/-- Square root: negative gives NaN. -/
def fsqrt (x : W32) : W32 :=
  match f32 x with
  | .nan => 0x7FC00000
  | .inf n => if n then 0x7FC00000 else x
  | .fin n m e =>
    if m = 0 then x
    else if n then 0x7FC00000
    else
      let m1 := if e % 2 = 0 then m else 2 * m
      let e1 := if e % 2 = 0 then e else e - 1
      let q := isqrt (m1 <<< 128)
      toBits32 (.fin false (2 * q + (if q * q = m1 <<< 128 then 0 else 1)) (e1 / 2 - 65))
/-- Arc cosine of a value in [0, 1]; beyond it, NaN. -/
def facos (x : W32) : W32 :=
  match f32 x with
  | .fin false m e =>
    let d := toFix m e
    if fixOne < d then 0x7FC00000 else toBits32 (ofFix false (2 * atanFix (fixSqrt (fixDiv (fixOne - d) (fixOne + d)))))
  | _ => 0x7FC00000
/-- The angle of a direction (R159). The spec does not state its accuracy, nor the angle of two zeros or of an infinity: the first is a part's own
where it lies within 4 ulp, as R150 has it of coordinates, and the others are free (DESIGN CHOICE, log 9). -/
def fatan2 (sn cs : W32) : W32 :=
  match f32 sn, f32 cs with
  | .nan, _ => 0x7FC00000
  | _, .nan => 0x7FC00000
  | .fin ns ms es, .fin nc mc ec =>
    if ms = 0 ∧ mc = 0 then Config.atan2 sn cs else bounded 4 (Config.atan2 sn cs) (atan2Val ns ms es nc mc ec)
  | _, _ => Config.atan2 sn cs
/-- Sine of a value in [0, 2]; beyond it, NaN. -/
def fsin (x : W32) : W32 :=
  match f32 x with
  | .fin false m e =>
    let t := toFix m e
    if 2 * fixOne < t then 0x7FC00000 else toBits32 (ofFix false (sinTerms (fixMul t t) 40 1 t).toNat)
  | _ => 0x7FC00000

end Sys2Proof.Machine
end

