-- ==== Sys2Proof/Machine/Flags.lean ====
section
/-! DEFINITION. The exception counts of a numeric command and the payload its posts carry (R106, Table 05-4). -/

namespace Sys2Proof.Machine

/-- Counts of NaN outputs, overflows and integer saturations. -/
structure Exc where
  nan : Nat
  ovf : Nat
  sat : Nat
  deriving DecidableEq, Repr

def Exc.zero : Exc := { nan := 0, ovf := 0, sat := 0 }
def Exc.add (a b : Exc) : Exc := { nan := a.nan + b.nan, ovf := a.ovf + b.ovf, sat := a.sat + b.sat }
/-- What one conversion into an output format counts. -/
def Conv.exc (c : Conv) : Exc := { nan := b2n c.nan, ovf := b2n c.ovf, sat := b2n c.intSat }
/-- What a rounding on the way to an output counts: a NaN there is no output yet. -/
def Conv.midExc (c : Conv) : Exc := { c.exc with nan := 0 }

/-- PAYLOAD of a numeric command's post: RESULT and the counts, each saturating at 65,535. -/
def payload (result : W32) (x : Exc) : BitVec 96 :=
  BitVec.ofNat 96 (result.toNat * 2 ^ 64 + Nat.min x.nan 65535 * 2 ^ 48 + Nat.min x.ovf 65535 * 2 ^ 32 + Nat.min x.sat 65535 * 2 ^ 16)
/-- RESULT of a payload. -/
def payloadResult (p : BitVec 96) : W32 := BitVec.ofNat 32 (fld p 95 64)

/-! Steps that round on the way (R108, R110, R111). -/

/-- Round into FP32 under mode 0 on the way, SAT as given. -/
def mid32 (sat : Bool) (v : Val) : Val × Exc :=
  let c := Fmt.fp32.convert .nearest sat v
  (Fmt.fp32.decode c.bits, c.midExc)
/-- Saturate into INT32 on the way. -/
def midInt (i : Int) : Int × Exc :=
  let x := Fmt.int32.clampInt i
  (x.1, { Exc.zero with sat := b2n x.2 })

/-- Values and counts of a list, in order. -/
def collect {α : Type} (xs : List (α × Exc)) : List α × Exc :=
  (xs.map (·.1), xs.foldl (fun e x => e.add x.2) Exc.zero)

end Sys2Proof.Machine
end

