-- ==== Sys2Proof/Machine/Operands.lean ====
section
/-! DEFINITION. The operand forms of Ronef commands: tensor references (R101), loop references (R112), the words of each group
(Tables 05-5, 05-7, R110, Table 05-10, Table 05-11, R119, R121), and reading and writing a tensor. -/

namespace Sys2Proof.Machine

/-- A tensor operand reference (Table 05-1). -/
structure Ref where
  region : Nat
  offset : Nat
  format : Nat
  pitch : Nat
  deriving DecidableEq, Repr

def Ref.ofWord (w : W64) : Ref :=
  { region := fld w 63 54, offset := fld w 53 21, format := fld w 20 17, pitch := fld w 16 0 }
/-- The format named; a reserved code is refused at translation. -/
def Ref.fmt (r : Ref) : Fmt := (Fmt.ofCode r.format).getD .fp32

/-- Byte offset of element (r, c) within its region (R101). -/
def Ref.at (x : Ref) (r c : Nat) : Nat := x.offset + (r * x.pitch + c) * x.fmt.size

/-- MATMUL and CONV2D share their output fields (Tables 05-5, 05-7). -/
structure MatrixOut where
  scale : Int
  relu : Bool
  sat : Bool
  round : Nat
  acc : Bool
  deriving DecidableEq, Repr

def matmulOut (c : Cmd) : MatrixOut :=
  { scale := signed 8 (fld (c.word 7) 63 56), relu := bit (c.word 6) 6, sat := bit (c.word 6) 5,
    round := fld (c.word 6) 4 3, acc := bit (c.word 6) 0 }
def matmulM (c : Cmd) : Nat := fld (c.word 6) 63 48
def matmulN (c : Cmd) : Nat := fld (c.word 6) 47 32
def matmulK (c : Cmd) : Nat := fld (c.word 6) 31 16
def matmulTransA (c : Cmd) : Bool := bit (c.word 6) 1
def matmulTransB (c : Cmd) : Bool := bit (c.word 6) 2

/-- CONV2D dimensions (R109, Table 05-7). -/
structure Conv2d where
  h : Nat
  w : Nat
  c : Nat
  f : Nat
  kh : Nat
  kw : Nat
  sh : Nat
  sw : Nat
  dh : Nat
  dw : Nat
  pt : Nat
  pb : Nat
  pl : Nat
  pr : Nat
  deriving DecidableEq, Repr

def Conv2d.ofCmd (c : Cmd) : Conv2d :=
  let a := c.word 6
  let b := c.word 7
  { h := fld a 63 48, w := fld a 47 32, c := fld a 31 16, f := fld a 15 0,
    kh := fld b 63 60 + 1, kw := fld b 59 56 + 1, sh := fld b 55 53 + 1, sw := fld b 52 50 + 1,
    dh := fld b 49 47 + 1, dw := fld b 46 44 + 1, pt := fld b 43 40, pb := fld b 39 36, pl := fld b 35 32, pr := fld b 31 28 }
def conv2dOut (c : Cmd) : MatrixOut :=
  { scale := signed 8 (fld (c.word 7) 27 20), relu := bit (c.word 7) 15, sat := bit (c.word 7) 19,
    round := fld (c.word 7) 18 17, acc := bit (c.word 7) 16 }
/-- Output size along one axis, by R109, as an integer that can be below 1. -/
def convOut (n p0 p1 d k st : Nat) : Int := ((n + p0 + p1 : Nat) - (d * (k - 1) + 1 : Nat) : Int) / st + 1
def Conv2d.ho (x : Conv2d) : Int := convOut x.h x.pt x.pb x.dh x.kh x.sh
def Conv2d.wo (x : Conv2d) : Int := convOut x.w x.pl x.pr x.dw x.kw x.sw
def Conv2d.k (x : Conv2d) : Nat := x.kh * x.kw * x.c

/-- Flags and sizes of a Vector command (R110). -/
structure VecOps where
  rows : Nat
  cols : Nat
  yImm : Bool
  round : Nat
  sat : Bool
  axis : Nat
  imm : W32
  imm2 : W32
  deriving DecidableEq, Repr

def VecOps.ofCmd (c : Cmd) : VecOps :=
  let a := c.word 6
  { rows := fld a 63 40, cols := fld a 39 16, yImm := bit a 0, round := fld a 2 1, sat := bit a 3, axis := fld a 5 4,
    imm := BitVec.ofNat 32 (fld (c.word 7) 31 0), imm2 := BitVec.ofNat 32 (fld (c.word 7) 63 32) }

/-- A loop reference (R112). -/
structure LoopRef where
  region : Nat
  offset : Nat
  deriving DecidableEq, Repr

def LoopRef.ofWord (w : W64) : LoopRef := { region := fld w 63 54, offset := fld w 53 21 }

/-- A loop descriptor: counts and strides of levels 0 to 5 (Table 05-9). -/
structure Loops where
  counts : List Nat
  strides : List Int
  transpose : Bool
  rsvd : Bool
  deriving DecidableEq, Repr

def Loops.ofBytes (bs : List Byte) : Loops :=
  let w := fun i => leAt bs (8 * i) 8
  let ls := [0, 1, 2, 3, 4, 5]
  { counts := ls.map (fun i => nbits (w i) 55 32), strides := ls.map (fun i => signed 32 (w i)),
    transpose := nbits (w 6) 63 63 == 1,
    rsvd := ls.any (fun i => nbits (w i) 63 56 != 0) || nbits (w 6) 62 0 != 0 || w 7 != 0 }
def Loops.total (l : Loops) : Nat := l.counts.foldl (· * ·) 1
/-- Index tuple (L0 first) of visit n: L0 changes fastest (R113). -/
def loopIndex : List Nat → Nat → List Nat
  | [], _ => []
  | c :: cs, n => n % c :: loopIndex cs (n / c)
/-- Sum of index times stride. -/
def Loops.offset (l : Loops) (ix : List Nat) : Int := ((ix.zip l.strides).map (fun x => (x.1 : Int) * x.2)).foldl (· + ·) 0

/-- COUNT and ROW_ELEMS of GATHER and SCATTER (Table 05-10). -/
def rowCount (c : Cmd) : Nat := fld (c.word 6) 63 40
def rowElems (c : Cmd) : Nat := fld (c.word 6) 39 16

/-- Fields of a predicate command (R119). -/
def predCount (c : Cmd) : Nat := fld (c.word 6) 63 32
def predBit (c : Cmd) : Nat := fld (c.word 6) 31 28
def predCond (c : Cmd) : Nat := fld (c.word 6) 27 25
def predIsInt (c : Cmd) : Bool := bit (c.word 6) 24
def predImm (c : Cmd) : W32 := BitVec.ofNat 32 (fld (c.word 5) 31 0)

/-- Fields of a link binding (Table 05-11). -/
def bindTransfer (c : Cmd) : W16 := BitVec.ofNat 16 (fld (c.word 3) 63 48)
def recvArms (c : Cmd) : Nat := fld (c.word 3) 47 32
def putRank (c : Cmd) : BitVec 13 := BitVec.ofNat 13 (fld (c.word 3) 63 51)
def putPart (c : Cmd) : Nat := fld (c.word 3) 50 48
def putOffset (c : Cmd) : Nat := fld (c.word 3) 32 0
def putLocal (c : Cmd) : Ref := Ref.ofWord (c.word 4)
def putLength (c : Cmd) : Nat := fld (c.word 5) 11 0

/-- HURDLE_ID of a HURDLE command (R121). -/
def hurdleId (c : Cmd) : W16 := BitVec.ofNat 16 (fld (c.word 3) 63 48)

/-- Rounding mode of an output element (R103, R104). -/
def rndOf (round : Nat) (a : Acc) (elem : Nat) : Rnd :=
  match round with
  | 1 => .zero
  | 2 => .stochastic (stochR (tileId a.part a.tile.val) a.cmd.index (if a.cmd.src = .graph then 0 else a.cmd.iter) elem)
  | _ => .nearest

/-- Read one element (R101) through a checked access. -/
def Acc.elem (a : Acc) (kind : Nat) (x : Ref) (r c : Nat) : Eng Val := do
  let bs ← a.read kind x.region (x.at r c) x.fmt.size
  pure (x.fmt.decode (leNat bs))
/-- Read a tensor row by row. -/
def Acc.tensor (a : Acc) (kind : Nat) (x : Ref) (rows cols : Nat) : Eng (List (List Val)) :=
  (List.range rows).mapM (fun r => (List.range cols).mapM (fun c => a.elem kind x r c))
/-- Write stored values as a tensor row by row. -/
def Acc.putTensor (a : Acc) (kind : Nat) (x : Ref) (rows : List (List Nat)) : Eng Unit :=
  ((List.range rows.length).zip rows).forM (fun row =>
    ((List.range row.2.length).zip row.2).forM (fun e =>
      a.write kind x.region (x.at row.1 e.1) (natLE x.fmt.size e.2)))

end Sys2Proof.Machine
end

