-- ==== Sys2Proof/Machine/Batons.lean ====
section
/-! DEFINITION. How commands wait, meet their fate, complete and post (R89 to R97), the window of a graph list (R129 to R133,
R140), the checks that follow every change of a queue (R86, R89, R135, R136), and the start of a command on an engine (R134). -/

namespace Sys2Proof.Machine

/-! Who holds a queue's head (R90, R131). -/

/-- Does a command wait on a queue of its tile? -/
def Issued.holds (i : Issued) (t : Fin 32) (n : Fin 64) : Bool :=
  i.cmd.tile == t && i.cmd.waits.any (fun r => refQueue r == n)
def Issued.ofStream (i : Issued) (k : StreamIx) : Bool := i.src == .stream k
def StreamMode.holder : StreamMode → Option Issued
  | .fence c => some c
  | .arrived c _ => some c
  | .running | .control _ | .ended => none
/-- The commands of the PUTs and GETs that are outstanding. -/
def State.putGets (s : State) : List (PartId × Issued) :=
  s.infield.requests.filterMap (fun r => match r.owner with
      | .putGet _ p c _ => some (p, c)
      | _ => none)
/-- Does a command that runs, or has been dispatched, keep the head of a queue? -/
def State.held (s : State) (p : PartId) (t : Fin 32) (n : Fin 64) : Bool :=
  let q := s.part p
  q.engines.any (fun g => match g.running with | some r => r.cmd.holds t n | none => false)
  || q.streams.any (fun k => match k.mode.holder with | some c => c.holds t n | none => false)
  || q.lists.any (fun g => g.tile == t &&
      (g.busy ++ (match g.arrived with | some (a, b, _) => [(a, b)] | none => [])).any (fun x =>
        match g.descs[x.2]? with
        | some c => c.waits.any (fun r => refQueue r == n)
        | none => false))
  || (match s.jobOf p with
      | some j => j.sends.any (fun b => b.part == p && b.void == 0 && b.cmd.holds t n)
      | none => false)
  || s.putGets.any (fun x => x.1 == p && x.2.holds t n)

/-- How the waits of a command stand now. -/
def State.waitsOf (s : State) (p : PartId) (i : Issued) : WaitState :=
  (s.part p).waits i.cmd.tile (s.held p i.cmd.tile) i.cmd.relGen i.iter i.cmd.waits

/-! Fate (R92). -/

/-- The cause with which a command is skipped once its waits are met; none when it runs. -/
def fate (pred : W16) (c : Cmd) (es : List QEntry) : Option Nat :=
  if c.voidMode = 0 && es.any qVoid then some 2
  else if c.predEn && bit pred c.predSel != c.predPol then some 1
  else none

/-! Hurdle declarations (R120, R121, R123). -/

def Job.declared (j : Job) (id : W16) (iter : Nat) : Option (Nat × HurdleDecl) :=
  ((List.range j.image.hurdles.length).zip j.image.hurdles).find? (fun x => x.2.id == id && x.2.iteration == iter)
def Job.hurdleAhead (j : Job) : Bool := decide (j.nextHurdle < j.image.hurdles.length)

/-! Graph lists (R129, R130). -/

/-- Has the list an instance still to enter its window? -/
def GraphList.more (g : GraphList) (circuits : Nat) : Bool :=
  match g.lastPass with
  | some l => decide (g.nextPass ≤ l)
  | none => circuits == 0 || decide (g.nextPass < circuits)
def GraphList.hurdleInWindow (g : GraphList) : Bool :=
  g.window.any (fun x => match g.descs[x.2]? with | some c => c.group == 7 | none => false)
/-- The next instance enters the window. -/
def GraphList.enter (g : GraphList) : GraphList :=
  let wrap := decide (g.nextIndex + 1 ≥ g.descs.length)
  { g with
    window := g.window ++ [(g.nextPass, g.nextIndex)]
    nextPass := if wrap then g.nextPass + 1 else g.nextPass
    nextIndex := if wrap then 0 else g.nextIndex + 1 }
def GraphList.done (g : GraphList) (circuits : Nat) : Bool :=
  !g.more circuits && g.window.isEmpty && g.busy.isEmpty && g.arrived.isNone && !g.ended
/-- Does an instance wait on a queue for an entry? -/
def wants (c : Cmd) (pass : Nat) (n : Fin 64) (e : QEntry) : Bool :=
  c.waits.any (fun r => refQueue r == n && refId r == qId e && effGen c.relGen (refGen r) pass == qGen e)
def GraphList.wantsAt (g : GraphList) (x : Nat × Nat) (n : Fin 64) (e : QEntry) : Bool :=
  match g.descs[x.2]? with
  | some c => wants c x.1 n e
  | none => false
/-- A baton as BATON_ID × 16 + GEN. -/
def batonKey (id : W16) (gen : Nat) : Nat := id.toNat * 16 + gen
def qBaton (e : QEntry) : Nat := batonKey (qId e) (qGen e)
/-- The baton that an instance awaits in a queue. -/
def GraphList.wantOf (g : GraphList) (x : Nat × Nat) (n : Fin 64) : Nat :=
  match (g.descs[x.2]?).bind (fun c => (c.waits.find? (fun r => refQueue r == n)).map (fun r => batonKey (refId r) (effGen c.relGen (refGen r) x.1))) with
  | some k => k
  | none => 0
def GraphList.waitsAt (g : GraphList) (x : Nat × Nat) (n : Fin 64) : Bool :=
  match g.descs[x.2]? with
  | some c => c.waits.any (fun r => refQueue r == n)
  | none => false

/-- Is the instance ready? Each wait must be met by a head that nothing holds and that no earlier instance of the window wants
(R131). -/
def State.instReady (s : State) (p : PartId) (g : GraphList) (earlier : List (Nat × Nat)) (x : Nat × Nat) (c : Cmd) : Bool :=
  c.waits.all (fun r =>
    let n := refQueue r
    !s.held p g.tile n &&
      (match (s.part p).head? g.tile n with
       | some e => refId r == qId e && effGen c.relGen (refGen r) x.1 == qGen e && !earlier.any (fun y => g.wantsAt y n e)
       | none => false))

/-! After every change of a queue: mismatches, orphans, strays (R86, R89, R135, R136). -/

/-- Stream commands that stand at the front of a unit and are not running: the command and ENGINE of its record. -/
def State.fronts (s : State) (p : PartId) : List (Issued × Nat) :=
  let q := s.part p
  let eng := q.engines.filterMap (fun g =>
    if g.running.isSome then none
    else g.streamQ.head?.map (fun i => (i, match g.kind with | .matrix => 0 | .vector => 1 | .mover => 2)))
  let ctl := q.streams.filterMap (fun k => match k.mode with
    | .control c => some (c, 3)
    | _ => none)
  let pt := (q.pointQ.head?.map (fun i => (i, 5))).toList
  let bnd := match s.jobOf p with
    | some j => j.bindQ.filterMap (fun b => match b.2.head? with
      | some x => if x.part == p && x.skip.isNone then some (x.cmd, 6) else none
      | none => none)
    | none => []
  (eng ++ ctl ++ pt ++ bnd).filter (fun x => x.1.src != .graph)

/-- Is the baton one that a landing of the active plan posts into this partition's queue? -/
def Job.landingBaton (j : Job) (jp : Nat) (t : Fin 32) (r : BatonRef) : Bool :=
  match j.activePlan with
  | some pl => pl.sets.any (fun k => k.rx && k.xfers.any (fun x =>
      x.part == jp && x.qtile == t && x.queue == refQueue r && x.batonId == refId r))
  | none => false
def Job.lapEnded (j : Job) : Bool :=
  match j.lap with
  | some l => l.ended
  | none => false
/-- Does the command wait for a landing baton that can never come? -/
def State.orphaned (s : State) (p : PartId) (j : Job) (i : Issued) : Bool :=
  j.lapEnded && i.cmd.waits.any (fun r =>
    ((s.part p).head? i.cmd.tile (refQueue r)).isNone && j.landingBaton (s.part p).jobPart i.cmd.tile r)

/-- A head that matches no instance dispatched or in the window (R135). -/
def State.strayHead (s : State) (p : PartId) (g : GraphList) (n : Fin 64) : Bool :=
  match (s.part p).head? g.tile n with
  | some e => !(g.busy.any (fun x => g.waitsAt x n)) && !(g.window.any (fun x => g.wantsAt x n e))
  | none => false
/-- Queues that some descriptor of the list waits on: only an entry at the head of one of these is judged a stray (DESIGN CHOICE, log 166: R135
says a head entry). -/
def GraphList.queues (g : GraphList) : List (Fin 64) := (g.descs.flatMap (fun c => c.waits.map refQueue)).dedup

/-- An instance of the window that waits for a landing baton that can never come (R86). -/
def State.listOrphan (s : State) (p : PartId) (j : Job) (g : GraphList) : Option (Issued × Nat) :=
  ((g.window.filterMap (fun x => (g.descs[x.2]?).map (fun c => ({ cmd := c, index := x.2, iter := x.1, src := .graph } : Issued)))).find?
    (fun i => s.orphaned p j i)).map (fun i => (i, 4))

/-- The faults of a list that cannot progress (R135, R136). A list that has ended, or stands arrived at a HURDLE, is not judged, so that an entry
left over or come then is no stray (DESIGN CHOICE, log 165: the rule does not say). Of several heads that become stray at once, the fault is at
the first in the order in which the list's descriptors first wait on their queues (DESIGN CHOICE, log 178). -/
def State.listCheck (s : State) (p : PartId) (circuits : Nat) (g : GraphList) : State :=
  let loc := fun (x : Nat) => { Loc.base 4 with tile := tileId p g.tile.val, part := p.val, command := some x }
  if g.ended || g.arrived.isSome then s
  else
    match (if g.more circuits then none else g.queues.find? (fun n => s.strayHead p g n)) with
    | some n =>
      let found := match (s.part p).head? g.tile n with
        | some e => qBaton e
        | none => 0
      let (i, want) := match g.window.find? (fun x => g.waitsAt x n) with
        | some x => (x.2, g.wantOf x n)
        | none => (0xFFFFFFFF, 0)
      s.partJobFault p Code.batonMismatch ((loc i).baton g.tile n want found)
    | none =>
      let stray := fun (x : Nat × Nat) => (g.descs[x.2]?).bind (fun c => (c.waits.map refQueue).find? (fun n => s.strayHead p g n))
      if 128 ≤ g.window.length && g.window.all (fun x => (stray x).isSome) then
        match g.window.head? with
        | some x =>
          let n := (stray x).getD 0
          s.partJobFault p Code.pickerOrder ((loc x.2).baton g.tile n (g.wantOf x n)
            (match (s.part p).head? g.tile n with
             | some e => qBaton e
             | none => 0))
        | none => s
      else s

/-- The checks of a partition in RUN. -/
def State.settle (s : State) (p : PartId) : State :=
  if (s.part p).st != .run then s
  else
    match s.jobOf p with
    | none => s
    | some j =>
      match (s.fronts p).findSome? (fun x => match s.waitsOf p x.1 with | .mismatch r e => some (x, r, e) | _ => none) with
      | some (x, r, e) =>
        s.partJobFault p Code.batonMismatch ((x.1.loc p x.2).baton x.1.cmd.tile (refQueue r)
          (batonKey (refId r) (effGen x.1.cmd.relGen (refGen r) x.1.iter)) (qBaton e))
      | none =>
        match ((s.fronts p).find? (fun x => s.orphaned p j x.1)).orElse (fun _ => (s.part p).lists.findSome? (s.listOrphan p j)) with
        | some x => s.partJobFault p Code.batonOrphan (x.1.loc p x.2)
        | none => (s.part p).lists.foldl (fun s g => if (s.part p).st == .run then s.listCheck p j.circuits g else s) s

/-! Completion (R90, R94). -/

/-- SRC_TILE of a poster in a tile. -/
def Issued.src8 (i : Issued) (p : PartId) : Nat := tileId p i.cmd.tile.val

/-- A list whose last instance has completed ends: logged, and HURDLE_MISSED when a declared hurdle is still ahead (R123, R129). -/
def State.listEnd (s : State) (p : PartId) (t : Fin 32) : State :=
  match s.jobOf p, (s.part p).list? t with
  | some j, some g =>
    if (s.part p).st == .run && g.done j.circuits then
      let s := (s.modPart p (fun q => q.modList t (fun g => { g with ended := true }))).logs Code.graphEnd (s.vfOf p)
      if j.hurdleAhead then
        s.partJobFault p Code.hurdleMissed { Loc.base 4 with tile := tileId p t.val, part := p.val }
      else s
    else s
  | _, _ => s

/-- A command completes or is skipped: its waited entries are consumed, its posts pushed, and a graph instance leaves its list. -/
def State.retire (s : State) (p : PartId) (i : Issued) (mk : W16 → Nat → QEntry) (engine : Nat) : State :=
  let s := s.modPart p (fun q => q.consume i.cmd.tile i.cmd.waits)
  let s := s.postAll p i mk (i.loc p engine)
  if i.src == .graph then
    (s.modPart p (fun q => q.modList i.cmd.tile (fun g => { g with busy := g.busy.erase (i.iter, i.index) }))).listEnd p i.cmd.tile
  else s

/-- Does the stream of a partition have a command that is issued and not complete? -/
def State.streamBusy (s : State) (p : PartId) (k : StreamIx) : Bool :=
  let q := s.part p
  q.engines.any (fun g => g.streamQ.any (·.ofStream k) ||
    (match g.running with | some r => r.cmd.ofStream k | none => false))
  || q.pointQ.any (·.ofStream k)
  || (match s.jobOf p with
      | some j => j.bindQ.any (fun b => b.2.any (fun x => x.part == p && x.cmd.ofStream k))
        || j.sends.any (fun b => b.part == p && b.cmd.ofStream k)
      | none => false)
  || s.putGets.any (fun x => x.1 == p && x.2.ofStream k)

/-! Starting a command on an engine (R89, R92, R134). -/

def engNo : EngineKind → Nat
  | .matrix => 0
  | .vector => 1
  | .mover => 2
/-- Source unit of an engine's fault codes (R10, R75). -/
def engUnit : EngineKind → Nat
  | .matrix => 3
  | .vector => 4
  | .mover => 5

/-- The sources of an engine in the order its rotation gives them. -/
def Turn.order : Turn → List Turn
  | .graph => [.graph, .stream, .point]
  | .stream => [.stream, .point, .graph]
  | .point => [.point, .graph, .stream]
def Turn.next : Turn → Turn
  | .graph => .stream
  | .stream => .point
  | .point => .graph

/-- The configuration that a FRAME names (Table 07-1). -/
def frameConfig (c : Cmd) : Nat := fld (c.word 4) 31 24
/-- The FRAME at the front of a partition's queue when it can start, with the entries it waited on. -/
def State.frameReady (s : State) (p : PartId) : Option (PartId × Issued × List QEntry) :=
  if (s.part p).st != .run then none
  else
    match (s.part p).pointQ with
    | [] => none
    | i :: _ =>
      if i.src == .graph then some (p, i, [])
      else
        match s.waitsOf p i with
        | .met es => some (p, i, es)
        | _ => none
/-- The FRAME that the Point Engine of a die takes next: its partitions alternate (R15). -/
def State.nextFrame (s : State) (d : DieId) : Option (PartId × Issued × List QEntry) :=
  let lo : PartId := finOf 8 (2 * d.val)
  let hi : PartId := finOf 8 (2 * d.val + 1)
  (if s.pe[d].nextUpper then [hi, lo] else [lo, hi]).findSome? s.frameReady
/-- Does the Point Engine hold work for a Matrix Engine: is the frame it takes next one that runs, with the tile in its TILE_SET (R144)? -/
def State.pointWork (s : State) (p : PartId) (g : Engine) : Bool :=
  g.kind == .matrix && !s.inHold (.pointEngine (dieOfPart p)) &&
    (match s.nextFrame (dieOfPart p) with
     | some (q, i, es) =>
       q == p && (i.src == .graph || (fate (s.part p).pred i.cmd es).isNone) &&
         (match (s.part p).configs[frameConfig i.cmd]? with
          | some c => bit c.tileSet g.tile.val
          | none => false)
     | none => false)
/-- Has a source of an engine something that can start (R134, R144)? -/
inductive Source where
  | nothing
  | frame
  | command (i : Issued) (es : List QEntry)
  deriving DecidableEq, Repr

/-- What a source holds that can start: a command with the entries it waited on, or the Point Engine's work, which FRAME runs. -/
def State.startable (s : State) (p : PartId) (g : Engine) (u : Turn) : Source :=
  match u with
  | .graph =>
    match g.graphQ.head? with
    | some i => .command i (i.cmd.waits.filterMap (fun r => (s.part p).head? i.cmd.tile (refQueue r)))
    | none => .nothing
  | .stream =>
    match g.streamQ.head? with
    | none => .nothing
    | some i =>
      match s.waitsOf p i with
      | .met es => .command i es
      | _ => .nothing
  | .point => if s.pointWork p g then .frame else .nothing

/-- Run the engine's next startable command when it is of group grp and opcode op; other commands, and the Point Engine's work, wait for
their own row. -/
def State.runLive (s : State) (t : TileId) (e : EngineKind) (grp op : Nat) (body : Acc → List QEntry → Eng (BitVec 96)) : State :=
  let p := partOfTile t
  let g := (s.part p).engine (tileInPart t) e
  if (s.part p).st != .run || g.running.isSome || s.inHold (.tile t) then s
  else
    match (g.turn.order.map (fun u => (u, s.startable p g u))).find? (fun x => x.2 != .nothing) with
    | none => s
    | some (_, .nothing) => s
    | some (_, .frame) => s
    | some (u, .command i es) =>
      if i.cmd.group != grp || i.cmd.opcode != op then s
      else
        let g1 : Engine :=
          match u with
          | .graph => { g with graphQ := g.graphQ.tail, turn := u.next }
          | _ => { g with streamQ := g.streamQ.tail, turn := u.next }
        let s1 := s.modPart p (fun q => q.setEngine g1)
        match (if i.src == .graph then none else fate (s.part p).pred i.cmd es) with
        | some cause => (s1.retire p i (fun id gen => mkVoid cause id gen (i.src8 p)) (engNo e)).settle p
        | none =>
          let a : Acc := { part := p, tile := tileInPart t, engine := engNo e, unit := engUnit e, cmd := i, loops := none }
          match body a es s1 with
          | .ok pay s2 =>
            s2.modPart p (fun q => q.setEngine { q.engine (tileInPart t) e with running := some { cmd := i, payload := pay } })
          | .error _ s2 => s2
/-- Run the engine's next startable command, also in the beat in which the job of its partition stops (R71). -/
def State.runOn (s : State) (t : TileId) (e : EngineKind) (grp op : Nat) (body : Acc → List QEntry → Eng (BitVec 96)) : State :=
  match s.stillRuns (partOfTile t) with
  | none => s.runLive t e grp op body
  | some u => s.stopRun (partOfTile t) (u.runLive t e grp op body)

end Sys2Proof.Machine
end

