-- ==== Sys2Proof/Machine/Laps.lean ====
section
/-! DEFINITION. Lap sequences and lap tables (R167 to R171): positions, tables of past and coming laps, occurrences of a
transfer and their numbers, lap boundaries ahead (R48). -/

namespace Sys2Proof.Machine

/-! Positions in a lap sequence (R168, R170). -/

/-- LOOP_ENTRY that ends the sequence. -/
def noLoop : Nat := 0xFFFF

/-- The position after entry e: the next entry, LOOP_ENTRY, or none at the end. -/
def PlanSection.after (k : PlanSection) (p : PlanDef) (e : Nat) : Option Nat :=
  if e + 1 < p.seq.length then some (e + 1) else if k.loopEntry = noLoop then none else some k.loopEntry
/-- The position of the lap after lap (entry, rep). -/
def PlanSection.next (k : PlanSection) (p : PlanDef) (e r : Nat) : Option (Nat × Nat) :=
  match p.seq[e]? with
  | none => none
  | some w => if r + 1 < seqRepeat w then some (e, r + 1) else (k.after p e).map (fun x => (x, 0))
/-- Table of a sequence entry. -/
def PlanDef.tableAt (p : PlanDef) (e : Nat) : Nat := seqTable (p.seq.getD e 0)
def PlanSection.len (k : PlanSection) (t : Nat) : Nat := k.lapLen.getD t 0

/-- The runs of laps, as (table, laps), from the start of entry e for n laps. -/
def PlanSection.runs (k : PlanSection) (p : PlanDef) : Nat → Nat → Nat → List (Nat × Nat)
  | 0, _, _ => []
  | f + 1, e, n =>
    if n = 0 then []
    else
      let r := Nat.min n (seqRepeat (p.seq.getD e 0))
      (p.tableAt e, r) ::
        (match k.after p e with
         | some x => k.runs p f x (n - r)
         | none => [])
/-- The position of the lap that comes n laps after the first lap of entry e. -/
def PlanSection.posAfter (k : PlanSection) (p : PlanDef) : Nat → Nat → Nat → Option (Nat × Nat)
  | 0, _, _ => none
  | f + 1, e, n =>
    let r := seqRepeat (p.seq.getD e 0)
    if n < r then some (e, n) else (k.after p e).bind (fun x => k.posAfter p f x (n - r))

/-- The entry and table of a lap by its index, for laps since the sequence began. -/
def Job.lapAt (j : Job) (i : Nat) : Option (Nat × Nat) :=
  match j.image.plan, j.activePlan, j.lap with
  | some k, some p, some l =>
    if i < l.baseLap then none
    else (k.posAfter p (i - l.baseLap + 1) l.baseEntry (i - l.baseLap)).map (fun x => (x.1, p.tableAt x.1))
  | _, _, _ => none

/-! Occurrences (R169, R171). -/

/-- BURST segments of a table that name a transfer, with their first slots. -/
def TableSet.occs (k : TableSet) (table : Nat) (t : W16) : List (Nat × W32) :=
  (placed 0 (k.segsOf table)).filter (fun x =>
    segKind x.2 == Seg.burst && (match k.xfer? (segXfer x.2) with | some y => y.number == t | none => false))
/-- Occurrences of a transfer before the present lap sequence began: those of the sequence before a park (R396). -/
def Job.occBefore (j : Job) (rx : Bool) (t : W16) : Nat :=
  match j.occBase.find? (fun x => x.1 == rx && x.2.1 == t) with
  | some x => x.2.2
  | none => 0
/-- How many occurrences of a transfer come before slot `slot` of lap `lap`. -/
def Job.occNumber (j : Job) (k : TableSet) (t : W16) (lap slot : Nat) : Nat :=
  match j.image.plan, j.activePlan, j.lap with
  | some ps, some p, some l =>
    let n := lap - l.baseLap
    let whole := (ps.runs p (n + 1) l.baseEntry n).foldl (fun a x => a + x.2 * (k.occs x.1 t).length) 0
    let part := match j.lapAt lap with
      | some (_, tb) => ((k.occs tb t).filter (fun x => x.1 < slot)).length
      | none => 0
    j.occBefore k.rx t + whole + part
  | _, _, _ => 0
/-- The set of the active plan in which a package sends (or receives) a transfer: a link set before a ring set (R171, R418). -/
def Job.setOf (j : Job) (rx : Bool) (t : W16) : Option TableSet :=
  match j.activePlan with
  | none => none
  | some p =>
    match p.sets.find? (fun k => k.rx == rx && !k.isRing && k.names t) with
    | some k => some k
    | none => p.sets.find? (fun k => k.rx == rx && k.isRing && k.names t)
/-- Laps of the sequence up to the end of the present one; one that has paused before its first lap has run none. -/
def LapState.lapsRun (l : LapState) : Nat := if l.length = 0 then l.lapIndex else l.lapIndex + 1
/-- Occurrences of a transfer up to the end of the present lap. -/
def Job.occTotal (j : Job) (rx : Bool) (t : W16) : Nat :=
  match j.setOf rx t, j.lap with
  | some k, some l => j.occNumber k t l.lapsRun 0
  | _, _ => 0

/-! Where a pace count lies (R167). -/

/-- A lap by its bounds: index, entry, table, first beat, whether it is a held lap. -/
structure LapSpan where
  index : Nat
  entry : Nat
  table : Nat
  start : Nat
  held : Bool
  deriving DecidableEq, Repr

def LapState.span (l : LapState) : LapSpan :=
  { index := l.lapIndex, entry := l.entry, table := l.table, start := l.lapStart, held := l.held }
/-- The lap of a count: the present lap, or the one before it. None before lap 0, while the sequence is paused, and after its end. -/
def Job.spanAt (j : Job) (c : Nat) : Option LapSpan :=
  match j.lap with
  | none => none
  | some l =>
    if l.lapStart ≤ c then (if l.lapStart + l.length ≤ c then none else some l.span)
    else if l.prevStart ≤ c && l.prevStart < l.lapStart then
      if l.held then
        (if l.prevHeld then some { l.span with start := l.prevStart }
         else (j.lapAt l.lapIndex).map (fun x =>
           { index := l.lapIndex, entry := x.1, table := x.2, start := l.prevStart, held := false }))
      else
        (if l.prevHeld then some { index := l.lapIndex - 1, entry := l.entry, table := l.table, start := l.prevStart, held := true }
         else (j.lapAt (l.lapIndex - 1)).map (fun x =>
           { index := l.lapIndex - 1, entry := x.1, table := x.2, start := l.prevStart, held := false }))
    else none

/-! Boundaries ahead (R48). -/

/-- Position of the lap due after the present lap. -/
def Job.due (j : Job) : Option (Nat × Nat) :=
  match j.image.plan, j.activePlan, j.lap with
  | some k, some p, some l => k.next p l.entry l.rep
  | _, _, _ => none

/-- The first boundary at or after goal, where b is a boundary, pos the lap due there and pend the counts of holds still to be
held, in rising order. -/
def Job.boundaryFrom (j : Job) (k : PlanSection) (p : PlanDef) (goal : Nat) :
    Nat → Nat → Option (Nat × Nat) → List Nat → Option Nat
  | 0, _, _, _ => none
  | f + 1, b, pos, pend =>
    if goal ≤ b then some b
    else
      match pos with
      | none => none
      | some (e, r) =>
        let stop := k.loopEntry != noLoop && (match j.endCount with | some n => decide (n ≤ b) | none => false)
        if stop then none
        else
          let len := Nat.max 1 (k.len (p.tableAt e))
          match pend with
          | t :: ts =>
            if t ≤ b then j.boundaryFrom k p goal f (b + len) pos ts
            else j.boundaryFrom k p goal f (b + len) (k.next p e r) pend
          | [] => j.boundaryFrom k p goal f (b + len) (k.next p e r) []

/-- The target of a slip request with origin c: the first lap boundary of the job at or after c + H (R48). None for a sequence
that is paused, has ended or ends before. -/
def State.slipTarget (s : State) (j : Job) (c : Nat) : Option Nat :=
  match j.image.plan, j.activePlan, j.lap with
  | some k, some p, some l =>
    if l.paused || l.ended then none
    else
      let goal := c + s.horizon
      if goal ≤ l.prevStart then some l.prevStart
      else if goal ≤ l.lapStart then some l.lapStart
      else
        let pend := sortBy (· ≤ ·) ((s.pace.holds.map (·.target)).filter (fun t => decide (l.met < t)))
        j.boundaryFrom k p goal (goal - l.lapStart + 2) (l.lapStart + l.length) j.due pend
  | _, _, _ => none

/-! Slots (R169, R175). -/

/-- Kind of a slot of a table of a set. A set that holds no table there has no slots of its own: SPARE (log 51). -/
def TableSet.kindAt (k : TableSet) (table slot : Nat) : Nat :=
  match segAt slot (k.segsOf table) with
  | some (_, g) => segKind g
  | none => Seg.spare
/-- Slots at or after slot `slot` of a table that are not U (in a held lap) or are SPARE. -/
def TableSet.usableFrom (k : TableSet) (table slot : Nat) (held : Bool) : Nat :=
  (placed 0 (k.segsOf table)).foldl (fun n x =>
    if (if held then segKind x.2 != Seg.u else segKind x.2 == Seg.spare) then
      n + (x.1 + segLen x.2 - Nat.max slot x.1)
    else n) 0

end Sys2Proof.Machine
end

