-- ==== Sys2Proof/Machine/Binding.lean ====
section
/-! DEFINITION. Link bindings SEND and RECV (R116, R117) and the relay stations' command queues (Table 04-10). -/

namespace Sys2Proof.Machine

/-! Stations: 0 to 5 are the links, 6 serves the infield rings (log 45). -/

/-- The relay station where the active plan sends (or lands) a transfer: its link, else the infield rings (R116, R418). -/
def Job.station (j : Job) (rx : Bool) (t : W16) : Fin 7 :=
  match j.activePlan with
  | none => 6
  | some pl =>
    match pl.sets.find? (fun k => k.rx == rx && !k.isRing && k.names t) with
    | some k => finOf 7 k.link.toNat
    | none => 6
def Job.stationOf (j : Job) (c : Cmd) : Fin 7 :=
  match c.opcode with
  | 1 => j.station false (bindTransfer c)
  | 2 => j.station true (bindTransfer c)
  | _ => 6

def Job.bindings (j : Job) (n : Fin 7) : List Binding := ((j.bindQ.find? (fun b => b.1 == n)).map (·.2)).getD []
/-- The job without the bound SENDs that meet a test. -/
def Job.dropSends (j : Job) (p : BoundSend → Bool) : Job := { j with sends := j.sends.filter (fun b => !p b) }
/-- The commands that take up a station's queue: a SEND that the picker has completed is only a void to bind. -/
def Job.queued (j : Job) (n : Fin 7) : List Binding := (j.bindings n).filter (fun b => b.skip.isNone)
def Job.setBindings (j : Job) (n : Fin 7) (q : List Binding) : Job :=
  { j with bindQ := (n, q) :: j.bindQ.filter (fun b => b.1 != n) }

/-! Occurrences (R116, R171). -/

def Job.xfer (j : Job) (t : W16) : XferState :=
  (j.xfers.find? (fun x => x.transfer == t)).getD { transfer := t, arms := 0, bound := 0 }
def Job.setXfer (j : Job) (x : XferState) : Job := { j with xfers := x :: j.xfers.filter (fun y => y.transfer != x.transfer) }

/-- The SEND bound to an occurrence of a transfer. -/
def Job.boundAt (j : Job) (t : W16) (n : Nat) : Option BoundSend :=
  j.sends.find? (fun b => b.transfer == t && b.occurrence == n)
/-- BATON_ID of the data baton of an occurrence, the first that its SEND waits on: of the SEND bound to it, else of the one at the station
that will bind to it, else of the first SEND of its transfer in the job's code; 0 with none (R44; which stands where none is bound is the
model's, log 98). -/
def Job.dataBaton (j : Job) (t : W16) (n : Nat) : Nat :=
  let mine := fun (c : Cmd) => c.group == 4 && c.opcode == 1 && bindTransfer c == t
  let queued := ((j.bindings (j.station false t)).map (·.cmd.cmd)).filter mine
  let code := (j.image.streams.flatMap (·.code) ++ j.image.lists.flatMap (·.descs)).filter mine
  let c := (((j.boundAt t n).map (·.cmd.cmd)).orElse (fun _ => queued[n - (j.xfer t).bound]?)).orElse (fun _ => code.head?)
  match c.bind (·.waits.head?) with
  | some r => (refId r).toNat
  | none => 0

/-- A deferred send of the occurrence is released: its baton has arrived (R45). -/
def Deferred.release (lead : PartId) (t : W16) (n : Nat) (d : Deferred) : Deferred :=
  if d.lead == lead && d.transfer == t && d.number == n then { d with ready := true } else d

/-- Bind a SEND, or the void of a skipped one, to the earliest occurrence not yet bound; one that has stumbled is released. -/
def State.bindSend (s : State) (j : Job) (p : PartId) (i : Issued) (cause : Nat) (carried : BitVec 96) : State :=
  let t := bindTransfer i.cmd
  let n := (j.xfer t).bound
  let s := s.modJob j.id (fun j =>
    let x := j.xfer t
    let j := j.setXfer { x with bound := x.bound + 1 }
    { j with
      sends := j.sends ++ [{ transfer := t, occurrence := n, void := cause, carried := carried, cmd := i, part := p,
                              posted := i.src == .graph && cause != 0 }]
      ringDeferred := j.ringDeferred.map (Deferred.release j.lead t n) })
  { s with links := s.links.map (fun k : Link =>
      if k.owner == some j.id then { k with deferred := k.deferred.map (Deferred.release j.lead t n) } else k) }

/-- A bound SEND is done: its posts are pushed, unless the picker has, and a running one consumes the entries it waited on (R116, R132). -/
def State.sendDone (s : State) (id : Nat) (b : BoundSend) : State :=
  let s := s.modJob id (fun j => { j with sends := j.sends.filter (fun x => !(x.transfer == b.transfer && x.occurrence == b.occurrence)) })
  let s := if b.void = 0 then s.retire b.part b.cmd (fun i g => mkEntry 0 i g 0xFF) 6
    else if b.posted then s
    else s.postAll b.part b.cmd (fun i g => mkVoid b.void i g 0xFF) (b.cmd.loc b.part 6)
  s.settle b.part

/-! The binding at the front of a station's queue. -/

/-- The front binding of a station when it can start: its partition, the command, the entries it waited on, its skip cause. -/
def State.bindingReady (s : State) (j : Job) (n : Fin 7) (op : Nat) : Option (PartId × Issued × List QEntry × Option Nat) :=
  match j.bindings n with
  | [] => none
  | ⟨p, i, skip⟩ :: _ =>
    if j.phase != .run || i.cmd.opcode != op || (s.part p).st != .run then none
    else if skip.isSome then some (p, i, [], skip)
    else if i.src == .graph then
      some (p, i, i.cmd.waits.filterMap (fun r => (s.part p).head? i.cmd.tile (refQueue r)), none)
    else
      match s.waitsOf p i with
      | .met es => some (p, i, es, fate (s.part p).pred i.cmd es)
      | _ => none

/-- A SEND binds; one that no occurrence takes, because the lap sequence has ended, is an orphan (R116). -/
def State.bindOrOrphan (s : State) (j : Job) (p : PartId) (i : Issued) (cause : Nat) (carried : BitVec 96) : State :=
  let t := bindTransfer i.cmd
  if j.lapEnded && j.occTotal false t ≤ (j.xfer t).bound then s.partJobFault p Code.bindingOrphan (i.loc p 6)
  else (s.bindSend j p i cause carried).settle p

/-- SEND (R116). -/
def execSend (lead : PartId) (station : Fin 7) (s : State) : Out :=
  .next (match s.jobOfLead lead with
    | none => s
    | some j =>
      match s.bindingReady j station 1 with
      | none => s
      | some (p, i, es, cause) =>
        let s := s.modJob j.id (fun j => j.setBindings station (j.bindings station).tail)
        match cause with
        | some c =>
          let s := if i.src == .graph then s else s.modPart p (fun q => q.consume i.cmd.tile i.cmd.waits)
          s.bindOrOrphan j p i c 0
        | none =>
          let carried : BitVec 96 := match es.head? with
            | some e => if qVoid e then 0 else qPayload e
            | none => 0
          s.bindOrOrphan j p i 0 carried)

/-- RECV (R117). -/
def execRecv (lead : PartId) (station : Fin 7) (s : State) : Out :=
  .next (match s.jobOfLead lead with
    | none => s
    | some j =>
      match s.bindingReady j station 2 with
      | none => s
      | some (p, i, _, cause) =>
        let s := s.modJob j.id (fun j => j.setBindings station (j.bindings station).tail)
        match cause with
        | some c => (s.retire p i (fun id g => mkVoid c id g 0xFF) 6).settle p
        | none =>
          let x := j.xfer (bindTransfer i.cmd)
          if x.arms + recvArms i.cmd > 65535 then s.partJobFault p Code.armLimit (i.loc p 6)
          else
            let s := s.modJob j.id (fun j => j.setXfer { j.xfer (bindTransfer i.cmd) with arms := x.arms + recvArms i.cmd })
            (s.retire p i (fun id g => mkEntry 0 id g 0xFF) 6).settle p)

end Sys2Proof.Machine
end

