-- ==== Sys2Proof/Machine/Down.lean ====
section
/-! DEFINITION. The end of a request (R261), link down (R216, R217) and faults of the whole package (R343). -/

namespace Sys2Proof.Machine

/-! The end of a request (R261, Table 11-5). -/

/-- How a management request ends: status, synthetic, fault. -/
def Request.mgmtStatus (r : Request) (expired : Bool) : Byte × Bool :=
  if r.refused.isSome then (Status.notPermitted, false)
  else if expired then (Status.linkDown, true)
  else if r.unitReset then (Status.unitReset, true)
  else if r.linkDown then (Status.linkDown, true)
  else (Status.success, false)

/-- Close a window descriptor that waited for replies: data read goes to its buffer, then it waits to close. -/
def State.finishMgmt (s : State) (d : Desc) (isRead : Bool) (st : Byte) (syn : Bool) (bs : List Byte) : State :=
  match s.hiu.winOps.find? (fun o => o.desc == d && (match o.phase with | .reply _ => true | _ => false)) with
  | none =>
    s.completeWith d { status := st, synthetic := syn, detail0 := BitVec.ofNat 64 (if st = 0 && isRead then bs.length else 0) }
      (if st = 0 && isRead then bs else [])
  | some o =>
    let set := fun (s : State) (ph : WinPhase) =>
      s.modHiu (fun h => { h with winOps := updFirst (· == o) (fun o => { o with phase := ph }) h.winOps })
    if st = 0 && isRead then
      let (s, moved, f) := s.winWrite o.root bs.length (o.offset.toNat + 64) bs
      match f with
      | none => set s (.close 0 o.claim moved false (BitVec.ofNat 64 moved) 0 0)
      | some (w, off) => set (s.winFault d.fn w.code) (.close w.status o.claim moved true (BitVec.ofNat 64 moved) (w.detail1 off) w.code)
    else set s (.close st o.claim 0 false 0 0 0)

/-- End a request with the outcome that Table 11-5 gives. -/
def State.finishRequest (s : State) (r : Request) (expired : Bool) : State :=
  let s := s.modInfield (fun i => { i with requests := i.requests.filter (fun x => !(x.mgmt == r.mgmt && x.slot == r.slot)) })
  let (st, syn) := r.mgmtStatus expired
  let bs := Mem.read r.data 0 r.length
  match r.owner with
  | .putGet _ part cmd _ =>
    let loc := cmd.loc part 6
    match r.refused with
    | some off => s.partJobFault part Code.cellRefused { loc with address := some ((off : Int) - part.val * 2 ^ 33) }
    | none =>
      if expired then s.partJobFault part Code.cellTimeout loc
      else if r.unitReset then (s.retire part cmd (fun id g => mkVoid 3 id g 0xFF) 6).settle part
      else if r.linkDown then (s.retire part cmd (fun id g => mkVoid 4 id g 0xFF) 6).settle part
      else (s.retire part cmd (fun id g => mkEntry 0 id g 0xFF) 6).settle part
  | .mgmt d isRead =>
    let s := if expired && r.refused.isNone then s.logs Code.cellTimeout else s
    s.finishMgmt d isRead st syn bs
  | .counters d =>
    let s := if expired && r.refused.isNone then s.logs Code.cellTimeout else s
    s.finishMgmt d true st syn bs
  | .plot part => if expired then s.partJobFault part Code.cellTimeout { Loc.base 6 with part := part.val } else s
  | .i3c isRead =>
    let s := if expired && r.refused.isNone then s.logs Code.cellTimeout else s
    { s with side := { s.side with i3cReply := st :: (if st = 0 && isRead then bs else []) } }

/-! Link down (R216, R217). -/

/-- A link drops everything queued on it in both directions and revokes its credits (R216). -/
def Link.dropped (k : Link) : Link :=
  { k with
    stage := .down, unacked := [], replayPtr := none, timeouts := 0, creditJob := 0, creditMgmt := 0, rxUsedJob := 0,
    rxUsedMgmt := 0, paceCells := [], deferred := [], sampled := [], landing := [],
    feed := [], hold := [],
    badRun := 0, uncorrRun := Vector.replicate 18 0, elastic := [], sincePresented := none, regrade := none, spillLost := false, ackFrom := none,
    tx := { k.tx with pendingSwap := [] }, rx := { k.rx with pendingSwap := [] } }

/-- Is a cell a request of another package? -/
def Cell.foreignRequest (c : Cell) (own : BitVec 13) : Bool :=
  (c.kind == CellKind.write || c.kind == CellKind.readReq) && c.src != own

/-- The requests of other packages in the frames that a link has sent and its partner has not acknowledged, oldest first. -/
def Link.replayed (k : Link) (own : BitVec 13) : List Cell :=
  (k.unacked.flatMap (fun e => if e.body.kind = 3 then e.body.cells else [])).filter (·.foreignRequest own)
/-- The link across which the replies of a request come: a reply travels on the request's channel, back by the routes of R257. -/
def State.replyLink (s : State) (r : Request) : Option LinkId := s.arrivalLink r.mgmt (s.ex + s.ey + s.ez) (faChip r.base)
/-- Requests of this package that leave on the link, or await a reply across it (Table 09-5). -/
def State.requestsOn (s : State) (l : LinkId) : List Request :=
  s.infield.requests.filter (fun r => faChip r.base != s.chip
    && (s.routeOut r.mgmt (faChip r.base) == l || s.replyLink r == some l))

/-- A unit that a link's going down drops: a cell that leaves on it, one still in its receive buffer, a burst frame of its station (R211,
R216). -/
def RingUnit.dropsWith (u : RingUnit) (l : LinkId) : Bool :=
  u.out == some l || (match u.load with
    | .cell o held _ => held && o == .link l
    | .burst b => b.station.val == l.val
    | .plot _ => false)
/-- What Table 09-5 gives the work outstanding on a link that goes down, but for jobs and starts. A request of another package that waits in a
ring or for its acknowledgement is dropped here, and is answered. -/
def State.linkDrop (s : State) (l : LinkId) : State :=
  let gone := s.infield.transit.filter (fun u => u.dropsWith l)
  let lost := (s.link l).replayed s.chip ++ gone.filterMap (fun u => match u.load with
    | .cell _ _ c => if c.foreignRequest s.chip then some c else none
    | .burst _ | .plot _ => none)
  let rs := s.requestsOn l
  let s := gone.foldl (fun s u => s.unitLeaves u) s
  let s := s.modInfield (fun i => { i with
    transit := i.transit.filter (fun u => !u.dropsWith l), flights := i.flights.filter (fun f => f.burst.station.val != l.val) })
  let s := s.modLink l Link.dropped
  let s := lost.foldl (fun s c => s.answerDown l c) s
  rs.foldl (fun s r => s.finishRequest { r with linkDown := true } false) s

/-! Landing batons, and what a link down leaves of scheduled work (R94, R117, R178, R189, R217). -/

/-- Post the landing baton of a transfer (R178). -/
def State.postLanding (s : State) (j : Job) (y : Transfer) (e : W16 → Nat → QEntry) (n : Nat) (r : Loc) : State :=
  match j.phys y.part with
  | none => s
  | some p =>
    if (s.part p).st == .faulted then s
    else (s.pushOr p y.qtile y.queue (e y.batonId (effGen y.relGen y.gen n)) { r with part := p.val }).settle p
/-- Take one arm of a transfer; none when it has none (R117). -/
def State.takeArm (s : State) (j : Job) (t : W16) : Option State :=
  match s.job? j.id with
  | none => none
  | some j =>
    let x := j.xfer t
    if x.arms = 0 then none else some (s.modJob j.id (fun j => j.setXfer { j.xfer t with arms := x.arms - 1 }))

/-- SENDs of a link that wait at its station, or are bound to an occurrence there, end with void posts of cause 4; one that is skipped posts
the cause of its skip, if it has not. -/
def State.voidSends (s : State) (l : LinkId) (j : Job) : State :=
  let n : Fin 7 := finOf 7 l.val
  let s := (j.sends.filter (fun b => j.station false b.transfer == n)).foldl (fun s b =>
    if b.void = 0 then s.retire b.part b.cmd (fun i g => mkVoid 4 i g 0xFF) 6 else s.sendDone j.id b) s
  let s := (j.queued n).foldl (fun s x => s.postAll x.part x.cmd (fun i g => mkVoid 4 i g 0xFF) (x.cmd.loc x.part 6)) s
  s.modJob j.id (fun j => (j.setBindings n []).dropSends (fun b => j.station false b.transfer == n))
/-- Is a landing baton of a transfer awaited by a command, with none of it in its queue? -/
def State.awaited (s : State) (j : Job) (y : Transfer) : Bool :=
  match j.phys y.part with
  | none => false
  | some p =>
    let wants := fun (c : Cmd) => c.tile == y.qtile && c.waits.any (fun r => refQueue r == y.queue && refId r == y.batonId)
    ((s.part p).head? y.qtile y.queue).isNone
      && ((s.fronts p).any (fun x => wants x.1.cmd)
        || (s.part p).lists.any (fun g => g.window.any (fun x => (g.descs[x.2]?).any wants)))
/-- Landings of a link: a void landing baton of cause 4 for each burst that is landing, for each arm, and for one awaited with neither. -/
def State.voidLandings (s : State) (l : LinkId) (k : Link) (j : Job) : State :=
  match j.activePlan.bind (·.set? l true) with
  | none => s
  | some set =>
    let base := match j.spanAt (s.pace.count.toNat) with
      | some x => fun t => j.occNumber set t x.index (s.pace.count.toNat - x.start)
      | none => j.occTotal true
    set.xfers.foldl (fun s y =>
      let t := y.number
      let here := k.landing.filter (fun d => d.transfer == t && !d.dropped)
      let arms := (j.xfer t).arms
      let more := if here.isEmpty && arms = 0 then (if s.awaited j y then 1 else 0) else arms
      let ns := here.map (fun d => j.occNumber set t d.lapIndex d.slot) ++ (List.range more).map (fun i => base t + i)
      (ns.foldl (fun s n => s.postLanding j y (fun i g => mkVoid 4 i g 0xFF) n { Loc.base 6 with link := l.val }) s).modJob j.id
        (fun j => j.setXfer { j.xfer t with arms := 0 })) s
/-- Scheduled sends, arms and awaited landings of a link that has gone down, k as it was (Table 09-5). -/
def State.voidLink (s : State) (l : LinkId) (k : Link) (j : Job) : State := (s.voidSends l j).voidLandings l k j

/-- A link is a UP or training link, which can go down. -/
def Stage.live : Stage → Bool
  | .align | .identify | .train | .check | .up => true
  | .off | .listen | .down | .miswired | .fault => false

/-- Jobs and starts that a link down ends: armed starts whose selected plan uses it are refused with LINK_ABSENT, a pace-tree link
breaks the tree, and the owner's job, whose work on the link ends void, faults with PLAN_LINK_LOST when its active plan uses the link (R38,
R189, R217). Both are logged; TREE_BROKEN is of the lower source unit and comes first (R347), so it is the job's first fault (R351, log 83).
k is the link as it was. -/
def State.linkLost (s : State) (l : LinkId) (k : Link) : State :=
  let armed := s.jobs.filter (fun j => j.phase == .armed && j.activeUses l)
  let tree := s.treeLink l
  let s := armed.foldl (fun s j => s.refuseStart j Status.linkAbsent Code.linkAbsent Code.linkAbsent none) s
  let owner := (s.ownerRun l).filter (fun j => j.activeUses l)
  let s := match owner with
    | some j => s.voidLink l k j
    | none => s
  let s := if tree then s.domainFault Code.treeBroken else s
  match owner with
  | some j => (s.logAt Code.planLinkLost j.fn.val { Loc.base 6 with link := l.val, part := j.lead.val }).jobFaultQuiet j.id Code.planLinkLost
  | none => s

/-- A link goes down for a cause, which is logged with the VF of its owner (R216). -/
def State.linkDown (s : State) (l : LinkId) (cause : W16) : State :=
  let vf := match (s.link l).owner.bind s.job? with
    | some j => j.fn.val
    | none => 0
  ((s.logs cause vf (linkPlace l)).linkDrop l).linkLost l (s.link l)

/-! Package faults (R343, class 5). -/

/-- Every job faults, every partition enters FAULTED with a scrub due. -/
def State.faultAll (s : State) (code : W16) : State :=
  let s := (s.jobs.map (·.id)).foldl (fun s id => s.jobFaultQuiet id code) s
  { s with parts := s.parts.map (fun q : Partition => { q.toFaulted code with scrubFirst := true }) }

/-- Every link that is not OFF goes down without a cause of its own. -/
def State.linksAllDown (s : State) : State :=
  allLinks.foldl (fun s l => if (s.link l).stage == .off then s else ((s.linkDrop l).linkLost l (s.link l))) s

/-- A class 5 fault: logged, every job and partition faults, every link goes down. -/
def State.packageFault (s : State) (code : W16) : State := ((s.logs code).faultAll code).linksAllDown

end Sys2Proof.Machine
end

