-- ==== Sys2Proof/Machine/Pace.lean ====
section
/-! DEFINITION. The pacer: pace cells (R40, R41, R202), slack and grades (R26 to R30), marks (R37, R38), slips and lap boundaries
(R48 to R52, R167, R170), counter snapshots (R265). -/

namespace Sys2Proof.Machine

/-! Grades (Table 02-1). -/

/-- N of each grade: its beat is N × 10 ns / 125. -/
def gradeN (g : Fin 8) : Nat := [64, 72, 80, 88, 96, 112, 128, 160].getD g.val 64
/-- Least slack class to tighten into a grade. -/
def gradeLeast (g : Fin 8) : Nat := [6, 6, 6, 5, 7, 6, 7, 8].getD g.val 8
def looser (g : Fin 8) : Fin 8 := finOf 8 (g.val + 1)
def tighter (g : Fin 8) : Fin 8 := finOf 8 (g.val + 7)
/-- A link delay of 1/256 ns units in whole beats of a grade, rounded to the nearest, ties up (R223). -/
def wholeBeats (g : Fin 8) (delay : BitVec 16) : Nat :=
  let beat := gradeN g * 2048   -- 25,600 times the beat in 1/256 ns units per 0.08 ns
  (delay.toNat * 100 * 2 + beat) / (2 * beat)
/-- What the delay exceeds its whole beats by, in 1/256 beat, rounded to the nearest, ties up; negative where they were rounded up (R223). -/
def fracBeats (g : Fin 8) (delay : BitVec 16) : Int :=
  let beat := gradeN g * 2048
  ((delay.toNat * 100 * 256 * 2 + beat) / (2 * beat) : Nat) - 256 * (wholeBeats g delay : Int)
/-- The delay in G0 beats, rounded up (R42). -/
def delayG0 (delay : BitVec 16) : Nat := ceilDiv (delay.toNat * 100) (64 * 2048)

/-! Slack (R26, Table 02-2). -/

/-- Class of a slack of num / den. -/
def slackClass (num den : Int) : Fin 8 :=
  if num < 0 then 0
  else if num * 100 < 2 * den then 1
  else if num * 100 < 4 * den then 2
  else if num * 100 < 8 * den then 3
  else if num * 100 < 12 * den then 4
  else if num * 100 < 16 * den then 5
  else if num * 100 < 24 * den then 6
  else 7
/-- The class that sentinels report at a demand num / den: slack is 1 - d × f / b, f in units of 1/4096, b the beat in ns; class 7 with no
demand. -/
def demandSlack (num den : Nat) (g : Fin 8) (f : BitVec 16) : Fin 8 :=
  if num = 0 then 7
  else
    let whole : Int := (den : Int) * 4096 * (gradeN g * 8 : Nat)
    slackClass (whole - (num : Int) * f.toNat * 100) whole
def Partition.slack (q : Partition) (g : Fin 8) (f : BitVec 16) : Fin 8 := demandSlack q.demandNum q.demandDen g f
/-- The worst class of an earlier part of the mark period. -/
def SlackSegment.slack (x : SlackSegment) (delay : Vector (BitVec 16) 8) : Fin 8 :=
  allParts.foldl (fun m p => min m (demandSlack x.demands[p].1 x.demands[p].2 x.grade delay[p])) 7
/-- The worst class that the package's own sentinels have reported in the mark period, its earlier parts included (R26); class 0 through a
thermal or power episode (R30, R374). -/
def State.ownSlack (s : State) (delay : DelayFactors) : Fin 8 :=
  if s.power.thermalEpisode || s.power.powerStretch then 0
  else
    (s.pace.segments.zip delay.earlier).foldl (fun m x => min m (x.1.slack x.2))
      (allParts.foldl (fun m p => min m ((s.part p).slack s.pace.grade delay.last[p])) 7)
/-- The thermal flag of the package's reports (R30, R374). -/
def State.thermalFlag (s : State) : Bool := s.power.thermal || s.power.powerStretch

/-! Pace cells (R40, R41, R202). -/

/-- Cell kinds of the pace field (Table 02-4). -/
def PaceKind.report : BitVec 4 := 1
def PaceKind.grade : BitVec 4 := 2
def PaceKind.slip : BitVec 4 := 3
/-- Frames in a row that carry a cell (R202). -/
def PaceKind.copies (kind : BitVec 4) : Nat := if kind = PaceKind.report then 2 else 3
def reportBody (cls : Fin 8) (thermal : Bool) : BitVec 44 := BitVec.ofNat 44 (cls.val * 2 ^ 41 + b2n thermal * 2 ^ 40)
def gradeBody (g : Fin 8) (t : Nat) : BitVec 44 := BitVec.ofNat 44 (g.val * 2 ^ 40 + t % 2 ^ 32)
def slipBody (cause : BitVec 4) (job : Byte) (origin : Nat) : BitVec 44 :=
  BitVec.ofNat 44 (cause.toNat * 2 ^ 40 + job.toNat * 2 ^ 32 + origin % 2 ^ 32)

/-- Queue a pace cell on a link that is UP: three copies of a slip request or announcement, two of a report. -/
def State.queuePace (s : State) (l : LinkId) (kind : BitVec 4) (body : BitVec 44) : State :=
  if s.up l then
    s.modLink l (fun k =>
      { k with
        paceCells := k.paceCells ++ [{ kind := kind, body := body, copies := PaceKind.copies kind }] })
  else s
/-- Queue a pace cell on every tree link but one. -/
def State.sendTree (s : State) (kind : BitVec 4) (body : BitVec 44) (but : Option LinkId) : State :=
  (s.treeLinks.filter (fun l => but != some l)).foldl (fun s l => s.queuePace l kind body) s

/-- The 64-bit count nearest this package's own that has the given low 32 bits (R40). -/
def State.expand32 (s : State) (low : Nat) : Nat :=
  let own := s.pace.count.toNat
  let a := own - own % 2 ^ 32 + low % 2 ^ 32
  if a + 2 ^ 31 < own then a + 2 ^ 32 else if own + 2 ^ 31 < a && 2 ^ 32 ≤ a then a - 2 ^ 32 else a

/-- A cell equal to one received on the same link in the previous 8 beats is ignored, and is itself one received (R202): true for a first copy,
with the cell noted. -/
def State.firstCopy (s : State) (l : LinkId) (kind : BitVec 4) (body : BitVec 44) : State × Bool :=
  let now := s.pace.count.toNat
  let live := s.pace.recent.filter (fun r => decide (now ≤ r.2.2.2 + 8))
  let seen := live.any (fun r => r.1 == l && r.2.1 == kind && r.2.2.1 == body)
  (s.modPace (fun p => { p with recent := (l, kind, body, now) :: live }), !seen)

/-- A report of a child (R26). -/
def State.onReport (s : State) (l : LinkId) (cls : Fin 8) (thermal : Bool) : State :=
  match s.pace.domain with
  | none => s
  | some d =>
    if bit d.children l.val then
      s.modPace (fun p => { p with worst := min p.worst cls, thermalSeen := p.thermalSeen || thermal })
    else s

/-- An announcement takes hold: outstanding until T; a tighten raises the voltage at once (R25, R29). -/
def Pacer.announce (p : Pacer) (g : Fin 8) (t : Nat) : Pacer :=
  { p with outstanding := some (g, t), voltage := if g < p.grade then g else p.voltage }
/-- A grade announcement that has arrived on a tree link goes on every other tree link (R41) and takes hold (R29); at or after its T it is
late (Table 02-7). -/
def State.onAnnouncement (s : State) (l : LinkId) (grade : Fin 8) (t : Nat) : State :=
  if !s.treeLink l then s
  else
    let s := s.sendTree PaceKind.grade (gradeBody grade t) (some l)
    if t ≤ s.pace.count.toNat then s.domainFault Code.paceLate else s.modPace (fun p => p.announce grade t)

/-! Slips (R48, R52). -/

def State.armed (s : State) (target : Nat) : Bool := s.pace.holds.any (fun h => h.target == target)
def State.arm (s : State) (target : Nat) (job : Byte) (here : Bool) : State :=
  s.modPace (fun p =>
    { p with
      holds := p.holds ++ [{ target := target, jobIndex := job, raisedHere := here, counted := false }] })
/-- JOB_INDEX of a job. -/
def Job.index (j : Job) : Byte := match j.pace with | some b => b.jobIndex | none => 0
/-- The package raises a slip request for a job: the request leaves on every tree link, and a hold is armed at its target unless one
stands there (R44, R48, R50). Of a job that has no lap boundary left there, the request leaves all the same (log 171). -/
def State.raiseSlip (s : State) (j : Job) (cause : BitVec 4) (origin : Nat) : State :=
  match s.slipTarget j origin with
  | none => s.sendTree PaceKind.slip (slipBody cause j.index origin) none
  | some t => (if s.armed t then s else s.arm t j.index true).sendTree PaceKind.slip (slipBody cause j.index origin) none
/-- The first lap boundary at or after a count of a job that does not run here, by the domain's id and the job's index: at which counts that
job's boundaries lie is free, and of two at most 65,535 counts apart (R48, Table 02-8; log 94). -/
def foreignBoundary (domain job : Byte) (goal : Nat) : Nat :=
  goal + (((List.range 65536).find? (fun i => Config.lapBoundary domain job (goal + i))).getD 65535)
/-- The target of a request for the job of an index (R48). Of a job that does not run here the package has no lap sequence to find it by. -/
def State.requestTarget (s : State) (job : Byte) (origin : Nat) : Option Nat :=
  match s.jobs.find? (fun j => j.phase == .run && j.index == job) with
  | some j => s.slipTarget j origin
  | none => some (foreignBoundary ((s.pace.domain.map (·.id)).getD 0) job (origin + s.horizon))
/-- A slip request that has arrived on a tree link: every package arms a hold at its target and passes it on, but for a request whose
target it has armed already; one seen too late faults the domain's jobs (R41, R48). A request for a job that runs here and has no lap boundary
at or after c + H (its sequence is paused, has ended or ends before) is passed on, arms nothing and is never late (DESIGN CHOICE, log 171). -/
def State.onSlip (s : State) (l : LinkId) (cause : BitVec 4) (job : Byte) (origin : Nat) : State :=
  if !s.treeLink l then s
  else
    let body := slipBody cause job origin
    match s.requestTarget job origin with
    | none => s.sendTree PaceKind.slip body (some l)
    | some t =>
      if s.armed t then s
      else
        let s := s.sendTree PaceKind.slip body (some l)
        if t ≤ s.pace.count.toNat then s.domainFault Code.paceLate else s.arm t job false

/-- The pace cell of a good frame, word 1 of its pace field (Table 02-4). -/
def State.onPaceCell (s : State) (l : LinkId) (w : W64) : State :=
  let kind : BitVec 4 := BitVec.ofNat 4 (fld w 47 44)
  let body : BitVec 44 := BitVec.ofNat 44 (fld w 43 0)
  if kind = 0 then s
  else if 3 < kind.toNat then s.modPace (fun p => { p with badCell := satInc p.badCell })
  else
    match s.firstCopy l kind body with
    | (s, false) => s
    | (s, true) =>
      if kind = PaceKind.report then s.onReport l (finOf 8 (fld body 43 41)) (bit body 40)
      else if kind = PaceKind.grade then
        if fld body 43 40 < 8 then s.onAnnouncement l (finOf 8 (fld body 43 40)) (s.expand32 (fld body 31 0))
        else if s.treeLink l then s.sendTree PaceKind.grade body (some l)
        else s
      else s.onSlip l (BitVec.ofNat 4 (fld body 43 40)) (BitVec.ofNat 8 (fld body 39 32)) (s.expand32 (fld body 31 0))

def execSlackReport (l : LinkId) (cls : Fin 8) (thermal : Bool) (s : State) : Out :=
  .next (match s.firstCopy l PaceKind.report (reportBody cls thermal) with
    | (s, true) => s.onReport l cls thermal
    | (s, false) => s)
def execGradeAnnouncement (l : LinkId) (grade : Fin 8) (t : W32) (s : State) : Out :=
  .next (match s.firstCopy l PaceKind.grade (gradeBody grade t.toNat) with
    | (s, true) => s.onAnnouncement l grade (s.expand32 t.toNat)
    | (s, false) => s)
def execSlipRequest (l : LinkId) (cause : BitVec 4) (job : Byte) (origin : W32) (s : State) : Out :=
  .next (match s.firstCopy l PaceKind.slip (slipBody cause job origin.toNat) with
    | (s, true) => s.onSlip l cause job (s.expand32 origin.toNat)
    | (s, false) => s)

/-! Grade changes (R25, R29). -/

/-- GAP of a sender: the present grade in locked mode, 0 in free mode (Table 09-3). -/
def State.gapOf (s : State) (l : LinkId) : BitVec 4 := BitVec.ofNat 4 (if s.locked l then s.pace.grade.val * 2 + 1 else 0)
/-- The receivers of the links in locked mode frame by the new grade from the frame sent at count t on, which comes one link delay later (R167,
R196). -/
def State.regrade (s : State) (t : Nat) : State :=
  (allLinks.filter s.locked).foldl (fun s l => s.modLink l (fun k =>
    { k with regrade := some (t + wholeBeats s.pace.grade k.delay, s.gapOf l) })) s
/-- At the beat of count T the grade changes; the first full mark period at it is evaluated before the next announcement. The 2^20 beats
of a tighten, which are judged for a target grade, begin again at T (log 125). -/
def execGradeChange (s : State) : Out :=
  .next (match s.pace.outstanding with
    | none => s
    | some (g, t) =>
      if s.pace.count.toNat < t then s
      else
        (s.noteSlack.modPace (fun p =>
          { p with
            grade := g, voltage := g, outstanding := none, tightenSince := t, skipEval := t % 4096 != 0 }) |>.regrade t).logs Code.gradeChange)

/-! Marks (R26 to R28, R37, R38, R340, R374). -/

/-- Is this package its domain's pace master? -/
def State.isMaster (s : State) : Bool := match s.pace.domain with | some d => d.parent.isNone | none => false
/-- The domain floor: the loosest of PACE_FLOOR and the declared minimum grades (R28). The master knows the minimum grades of the jobs that are
armed or in RUN on its own package, and counts no other (DESIGN CHOICE, log 172). -/
def State.domainFloor (s : State) : Fin 8 :=
  (s.jobs.filter (fun j => j.phase == .run || j.phase == .armed)).foldl (fun m j => max m j.image.minGrade)
    (finOf 8 s.pace.floor.toNat)
/-- The master announces a grade, H beats ahead (R29). -/
def State.announceGrade (s : State) (g : Fin 8) : State :=
  let t := s.pace.count.toNat + s.horizon
  (s.modPace (fun p => p.announce g t)).sendTree PaceKind.grade (gradeBody g t) none

/-- Does the domain run a job on the master: until then it has no work whose slack the master could judge (R27, R31; DEDUCED, log 52)? -/
def State.mayEvaluate (s : State) : Bool := s.jobs.any (fun j => j.phase == .run)

/-- The master's evaluation at a mark: w the worst class of the domain, th its thermal flag (R27, R28). -/
def State.evaluate (s : State) (w : Fin 8) (th : Bool) : State :=
  let p := s.pace
  let g := p.grade
  let target := tighter g
  let eligible := decide (p.tightenClass.toNat ≤ w.val) && decide (gradeLeast target ≤ w.val) && g != 0
  let since := if eligible then p.tightenSince else p.count.toNat
  let s1 := s.modPace (fun p => { p with tightenSince := since })
  if p.outstanding.isSome || p.skipEval || !s.mayEvaluate then s1
  else if w.val < p.stretchClass.toNat then
    if g = 7 then s1.logs Code.gradeLimit else s1.announceGrade (looser g)
  else if g.val < p.floor.toNat then s1.announceGrade (looser g)
  else if since + 2 ^ 20 ≤ p.count.toNat && p.stretchClass.toNat < p.tightenClass.toNat && !th && s.domainFloor ≤ target then
    s1.announceGrade target
  else s1

/-- POWER_STRETCH: begins above LIMIT, ends after a whole period below 95% of it (R374). -/
def State.powerMark (s : State) (power : BitVec 12) : State :=
  let q := s.power
  let high := Nat.max power.toNat q.peakPower.toNat
  let s1 := s.modPower (fun q => { q with peakPower := 0 })
  if q.limit.toNat < power.toNat then
    if q.powerStretch then s1
    else (s1.modPower (fun q => { q with powerStretch := true, alertStatus := q.alertStatus ||| 4 })).logs Code.powerStretch
  else if q.powerStretch && high * 100 < q.limit.toNat * 95 then s1.modPower (fun q => { q with powerStretch := false })
  else s1

/-- A period of 4,096 beats begins on a link: its receiver counts corrected bytes anew, by the limit that now stands (R213, Table 18-5). -/
def Link.period (k : Link) : Link :=
  { k with laneErrNow := k.laneErrLimit, rx := { k.rx with errors := Vector.replicate 18 0 } }
/-- MARK, at a count that is a multiple of 4,096. power is the average main input power of the period in W. -/
def execMark (power : BitVec 12) (delay : DelayFactors) (s : State) : Out :=
  .next (
    if s.pace.count.toNat % 4096 != 0 || !s.power.mainPg then s
    else
      let s := if s.clock.paceFrozen then s
        else s.modClock (fun c => { c with paceCount := s.pace.count, paceTime := c.stamp })
      let s := s.powerMark power
      let s := if s.pace.rackrefBack then
          (s.modPace (fun p => { p with localref := false, rackrefBack := false })).logs Code.rackrefRestored
        else s
      let w := min s.pace.worst (s.ownSlack delay)
      let th := s.pace.thermalSeen || s.thermalFlag
      let s := s.modPace (fun p => { p with worst := 7, lastWorst := w, thermalSeen := false, segments := [] })
      let s := { s with links := s.links.map Link.period }
      match s.pace.domain with
      | none => s
      | some d =>
        let s := match d.parent with
          | some l => (s.queuePace l PaceKind.report (reportBody w th)).modPace (fun p => { p with missedMarks := p.missedMarks + 1 })
          | none => s.evaluate w th
        s.modPace (fun p => { p with skipEval := false }))

/-- MARK_LOST: three mark periods have gone without a mark from the parent (R38). -/
def execMarkLost (s : State) : Out :=
  .next (match s.pace.domain with
    | none => s
    | some d => if d.parent.isSome && 4 ≤ s.pace.missedMarks then s.domainFault Code.markLost else s)

/-! Snapshots (R265, Table 11-6). -/

/-- Good spares of a direction. -/
def Lanes.spares (k : Lanes) : Nat := (k.states.toList.filter (· == .spare)).length
def Link.counters (k : Link) : Vector W64 15 :=
  #v[k.burstSlots, k.uCells, k.sparesUsed, k.frameBad, k.cellsForwarded,
     k.replayCount, k.spillWritten, k.stumbles, k.slipsRaised, k.exhaustedEvents,
     BitVec.ofNat 64 (k.tx.swapped + k.rx.swapped), k.cellDrop, k.epochDrop, k.peakJob, k.peakMgmt]
/-- Take a snapshot of the counters; peaks start again at the occupancies of the moment (R265). -/
def State.snapshot (s : State) (lap : Nat) : State :=
  let links := Vector.ofFn (fun l : Fin 6 => s.links[l].counters)
  let s1 := s.modInfield (fun i =>
    { i with
      snap := i.snap + 1, snapPace := s.pace.count, snapLap := BitVec.ofNat 64 lap, snapSlips := s.pace.slipCount,
      snapGrade := BitVec.ofNat 64 s.pace.grade.val, snapWorst := BitVec.ofNat 64 (min s.pace.worst s.pace.lastWorst).val,
      snapLinks := links, snapRings := i.ringUse })
  let s1 := s1.modInfield (fun i => (i.ringUse.map (·.1)).foldl (fun i d => i.peaks true d) i)
  { s1 with links := s1.links.map (fun k : Link =>
      { k with peakJob := BitVec.ofNat 64 k.rxUsedJob, peakMgmt := BitVec.ofNat 64 k.rxUsedMgmt }) }
/-- The job in RUN with the lowest JOB_INDEX. -/
def State.lowestRun (s : State) : Option Job :=
  (s.jobs.filter (fun j => j.phase == .run)).foldl (fun m j => match m with
    | some x => if j.index.toNat < x.index.toNat then some j else some x
    | none => some j) none
/-- COUNTER_SNAPSHOT: with no job in RUN, at multiples of 2^27; else the lap boundary takes it (R265). -/
def execCounterSnapshot (s : State) : Out :=
  .next (
    match s.lowestRun with
    | none => if s.pace.count.toNat % 2 ^ 27 = 0 then s.snapshot 0 else s
    | some j =>
      match j.lap with
      | some l =>
        if !l.held && !l.paused && l.lapIndex % 2 ^ 16 = 0 && l.lapStart = s.pace.count.toNat && s.infield.snapPace != s.pace.count
        then s.snapshot l.lapIndex else s
      | none => s)

/-! Lap boundaries (R49 to R52, R121, R167, R170, R187). -/

/-- The earliest hold not yet met by the job at boundary b: two targets within one lap make two held laps (R50). -/
def State.holdDue (s : State) (l : LapState) (b : Nat) : Option ArmedHold :=
  (s.pace.holds.filter (fun h => decide (l.met < h.target) && decide (h.target ≤ b))).foldl (fun m h => match m with
    | some x => if h.target < x.target then some h else some x
    | none => some h) none
/-- Drop holds that have been counted and that every running sequence has met. -/
def State.pruneHolds (s : State) : State :=
  let laps := (s.jobs.filter (fun j => j.phase == .run)).filterMap (fun j => j.lap.bind (fun l => if l.paused || l.ended then none else some l.met))
  s.modPace (fun p => { p with holds := p.holds.filter (fun h => !h.counted || laps.any (fun x => decide (x < h.target))) })

/-- Count a held lap at its target: PACE_SLIP_COUNT, the window, and budgets that it exceeds, whose jobs fault. The package that raised the
first request logs it (R49, R52). -/
def State.countSlip (s : State) (h : ArmedHold) : State :=
  if h.counted then s
  else
    let w := h.target / 2 ^ 24
    let n := if s.pace.window = w then s.pace.windowSlips + 1 else 1
    let s := s.modPace (fun p =>
      { p with
        slipCount := satInc p.slipCount, window := w, windowSlips := n
        holds := p.holds.map (fun x : ArmedHold => if x.target == h.target then { x with counted := true } else x) })
    (s.jobs.filter (fun j => j.phase == .run && decide (j.image.slipBudget < n))).foldl
      (fun s j =>
        if h.raisedHere then s.jobFault j.id Code.slipBudget { Loc.base 6 with part := j.lead.val }
        else s.jobFaultQuiet j.id Code.slipBudget) s
/-- Every package of the domain counts a held lap when its own count reaches the target, with or without a sequence that holds there. -/
def State.countHolds (s : State) : State :=
  ((s.pace.holds.filter (fun h => !h.counted && decide (h.target ≤ s.pace.count.toNat))).foldl (fun s h => s.countSlip h) s)
def State.meetHolds (s : State) : State :=
  if s.pace.holds.any (fun h => decide (h.target ≤ s.pace.count.toNat)) then s.countHolds.pruneHolds else s

/-- The sequence of a job ends: a SEND that no occurrence takes is an orphan, then a command that waits for a landing (R86, R116). -/
def State.sequenceEnd (s : State) (j : Job) : State :=
  let s := s.modJob j.id (fun j => { j with lap := j.lap.map (fun l : LapState => { l with ended := true }) })
  let queued := (j.bindQ.flatMap (·.2)).find? (fun x => x.cmd.cmd.opcode == 1)
  let unbound := j.sends.find? (fun b => decide (j.occTotal false b.transfer ≤ b.occurrence))
  match queued, unbound with
  | some x, _ => s.jobFault j.id Code.bindingOrphan (x.cmd.loc x.part 6)
  | none, some b => s.jobFault j.id Code.bindingOrphan (b.cmd.loc b.part 6)
  | none, none => j.parts.foldl (fun s p => s.settle p) s

/-- Begin a lap (held or not) at a boundary. -/
def LapState.begin (l : LapState) (b entry rep index table length : Nat) (held : Bool) : LapState :=
  { l with
    entry := entry, rep := rep, lapIndex := index, lapStart := b, table := table, length := length, held := held, waits := false,
    prevStart := l.lapStart, prevHeld := l.held
    heldAfter := if held && !l.held then index :: l.heldAfter else l.heldAfter }
/-- At the end of a held lap each relay station that still holds deferred sends logs DEFER_REPEAT and raises a request, whose origin is
that end b; so do the ring stations of the job (R50). -/
def State.deferRepeat (s : State) (j : Job) (b : Nat) : State :=
  let s := (allLinks.filter (fun l => (s.link l).owner == some j.id && !(s.link l).deferred.isEmpty)).foldl (fun s l =>
    ((s.modLink l (fun k => { k with slipsRaised := satInc k.slipsRaised })).logAt Code.deferRepeat j.fn.val
      { Loc.base 6 with link := l.val, part := j.lead.val }).raiseSlip j 3 b) s
  if j.ringDeferred.isEmpty && !s.infield.transit.any (fun u => (u.deferredOf j.id).isSome && u.place.isNone) then s
  else (s.logAt Code.deferRepeat j.fn.val { Loc.base 6 with part := j.lead.val }).raiseSlip j 3 b

/-- Has a job deferred sends or replays pending (R121)? Those of the rings are pending until their last frame has landed (R254). -/
def State.sendsPending (s : State) (j : Job) : Bool :=
  !j.ringDeferred.isEmpty || s.infield.transit.any (·.burstOf j.id) ||
    s.links.toList.any (fun k => k.owner == some j.id && (!k.deferred.isEmpty || k.replayPtr.isSome))
/-- A held lap of a job begins at b for a hold: it has the table of the lap due next, and keeps the position before it. -/
def State.holdLap (s : State) (j : Job) (l : LapState) (b table length : Nat) (h : ArmedHold) : State :=
  let s := s.modJob j.id (fun j =>
    { j with slips := j.slips + 1, lap := some { l.begin b l.entry l.rep l.lapIndex table length true with met := h.target } })
  (s.countSlip h).pruneHolds
/-- The sequence has come to the boundary of its next hurdle: it pauses once no send of the job is pending. While one is, it waits, and a
held lap armed for a later count comes before the pause (R50, R121, log 137). -/
def State.atHurdleEntry (s : State) (j : Job) (l : LapState) (b table length : Nat) : State :=
  if s.sendsPending j then
    match s.holdDue l s.pace.count.toNat with
    | some h => s.holdLap j l h.target table length h
    | none => s.modJob j.id (fun j => { j with lap := some { l with waits := true } })
  else (s.modJob j.id (fun j => { j with lap := some { l with paused := true } })).pruneHolds

/-- LAP_BOUNDARY: the present lap of a job has ended. -/
def execLapBoundary (lead : PartId) (s : State) : Out :=
  .next (match s.jobOfLead lead with
    | none => s
    | some j =>
      match j.image.plan, j.activePlan, j.lap with
      | some k, some p, some l =>
        let b := l.lapStart + l.length
        if j.phase != .run || l.paused || l.ended || s.pace.count.toNat < b then s
        else if j.divergedAtLap then s.jobFaultQuiet j.id Code.planDiverged
        else
          let s := if l.held && !l.waits then s.deferRepeat j b else s
          let stop := k.loopEntry != noLoop && (match j.endCount with | some n => decide (n ≤ b) | none => false)
          match (if stop then none else k.next p l.entry l.rep) with
          | none => (s.sequenceEnd j).pruneHolds
          | some (e, r) =>
            let len := Nat.max 1 (k.len (p.tableAt e))
            match s.holdDue l b with
            | some h => s.holdLap j l b (p.tableAt e) len h
            | none =>
              let atHurdle := r = 0 && (match j.image.hurdles[j.nextHurdle]? with | some d => d.seqEntry == e | none => false)
              if atHurdle then s.atHurdleEntry j l b (p.tableAt e) len
              else
                let s := s.modJob j.id (fun j => { j with lap := some (l.begin b e r (l.lapIndex + 1) (p.tableAt e) len false) })
                let s := s.pruneHolds
                if (l.lapIndex + 1) % 2 ^ 16 = 0 && (s.lowestRun.map (·.id)) == some j.id then s.snapshot (l.lapIndex + 1) else s
      | _, _, _ => s)

end Sys2Proof.Machine
end

