-- ==== Sys2Proof/Machine/Tables.lean ====
section
/-! DEFINITION. The relay stations' table copies (R186, R187) and their accesses to the plots (Table 03-8: landings, spills). -/

namespace Sys2Proof.Machine

/-! Table copies. -/

/-- The part of a plan that a relay station of a link holds: the link's sets and the lap sequence (R186). -/
def PlanDef.forLink (p : PlanDef) (l : LinkId) : PlanDef := { p with avoid := [], sets := p.sets.filter (fun k => k.onLink l) }

/-- A transfer entry without its Rsvd fields (Table 08-4). -/
def Transfer.live (t : Transfer) : Transfer :=
  { w := #v[t.w[0] &&& ~~~(0x1FF <<< 33 : W64), t.w[1] &&& (0x3FF <<< 54 : W64),
            t.w[2] &&& ~~~(BitVec.ofNat 64 (2 ^ 33 - 1)), 0] }
/-- The referenced fields of a copy: sequence entries, the tables the sequence names, the transfers their bursts name. -/
def PlanDef.live (p : PlanDef) : List W32 × List (Byte × Bool × BitVec 13 × List (List W32) × List (Option Transfer)) :=
  let ts := (p.seq.map seqTable).dedup
  (p.seq.map (· &&& 0xFC00FFFF),
   p.sets.map (fun k =>
     let gs := ts.map k.segsOf
     (k.link, k.rx, k.peerRank, gs,
      (gs.flatten.filter (fun g => segKind g == Seg.burst)).map (fun g => (k.xfer? (segXfer g)).map Transfer.live))))
/-- A segment with the transfer it names, as far as they are live. -/
def TableSet.segLive (k : TableSet) (g : W32) : W32 × Option Transfer :=
  (g, if segKind g == Seg.burst then (k.xfer? (segXfer g)).map Transfer.live else none)
/-- What a copy says of a slot of a lap at a sequence entry: the entry, and the segment that covers the slot with its transfer. -/
def PlanDef.slotView (p : PlanDef) (l : LinkId) (rx : Bool) (entry table slot : Nat) :
    Option W32 × Option (Nat × (W32 × Option Transfer) × BitVec 13) :=
  (p.seq[entry]?.map (· &&& 0xFC00FFFF),
   (p.set? l rx).bind (fun k => (segAt slot (k.segsOf table)).map (fun x => (x.1, k.segLive x.2, k.peerRank))))
/-- What a copy says of the laps at a sequence entry in one direction. -/
def PlanDef.lapView (p : PlanDef) (l : LinkId) (rx : Bool) (entry : Nat) : Option W32 × List (W32 × Option Transfer) × Option (BitVec 13) :=
  let e := p.seq[entry]?.map (· &&& 0xFC00FFFF)
  let k := p.set? l rx
  (e, (match k, e with | some k, some e => (k.segsOf (seqTable e)).map k.segLive | _, _ => []), k.map (·.peerRank))
/-- Slots of the segments in which two lists agree before they differ. -/
def agreeSlots : List (W32 × Option Transfer) → List (W32 × Option Transfer) → Nat
  | x :: xs, y :: ys => if x = y then segLen x.1 + agreeSlots xs ys else 0
  | _, _ => 0
/-- Where a copy first differs from the golden copy in a live field: sequence entry, table and slot. -/
def PlanDef.diffPlace (a g : PlanDef) (l : LinkId) : Option (Nat × Nat × Nat) :=
  ((List.range (Nat.max a.seq.length g.seq.length)).flatMap (fun e => [(e, false), (e, true)])).findSome? (fun x =>
    let u := a.lapView l x.2 x.1
    let v := g.lapView l x.2 x.1
    if u = v then none
    else some (x.1, (v.1.map seqTable).getD 0, if u.1 = v.1 then agreeSlots u.2.1 v.2.1 else 0))

/-- Location of a slot (R177). -/
def slotLoc (l : Nat) (p : PartId) (x : LapSpan) (slot : Nat) : Loc :=
  { Loc.base 6 with link := l, part := p.val, slot := some (x.entry, x.table, slot) }

/-- The golden slot tables of a job for the relay stations of a link's die are read (R56, Table 03-2). -/
def State.meetGolden (s : State) (l : LinkId) (j : Job) (r : Loc) : State :=
  s.meetReserve r (fun x => x.part == .planGolden && x.die == dieOfLink l && x.holder.any j.parts.contains)
/-- Rewrite both copies from the golden copy (R187); where that is lost its job faults, and nothing is rewritten. -/
def State.tableRewrite (s : State) (l : LinkId) (j : Job) : State :=
  let g := j.activePlan.map (·.forLink l)
  let r := { Loc.base 6 with link := l.val, part := j.lead.val }
  let s := s.meetGolden l j r
  if (s.job? j.id).all (·.phase == .faulted) then s
  else (s.modLink l (fun k => { k with tableA := g, tableB := g })).logAt Code.planLatent j.fn.val r
/-- Meet a live difference: PLAN_DIVERGED is logged, and the job faults at the next lap boundary (R187). -/
def State.tableDiverged (s : State) (j : Job) (r : Loc) : State :=
  if (s.job? j.id).any (·.divergedAtLap) then s
  else (s.logAt Code.planDiverged j.fn.val r).modJob j.id (fun j => { j with divergedAtLap := true })

/-- Read a slot of the tables: the state after the comparison, and the set to use, or none where the slot is affected. Every read compares the
link's copies whole, not only what it reads (DESIGN CHOICE, log 152); the record of a live difference names its own place. A link
without copies of its own uses the plan of its job. After a live difference was found, a slot in which the copies differ from the golden
copy is affected as well. -/
def State.readTables (s : State) (l : LinkId) (j : Job) (rx : Bool) (x : LapSpan) (slot : Nat) : State × Option (Option TableSet) :=
  match (s.link l).tableA, (s.link l).tableB with
  | some a, some b =>
    let bad := fun (_ : Unit) => (s.job? j.id).any (·.divergedAtLap) &&
      (match j.activePlan.map (·.forLink l) with
       | some g => a.slotView l rx x.entry x.table slot != g.slotView l rx x.entry x.table slot
       | none => false)
    if a == b then (if bad () then (s, none) else (s, some (a.set? l rx)))
    else if a.live == b.live then
      let s := s.tableRewrite l j
      (s, if (s.job? j.id).all (·.phase == .faulted) then none else some ((j.activePlan.map (·.forLink l)).bind (·.set? l rx)))
    else
      let g := (j.activePlan.map (·.forLink l)).getD a
      let s := s.tableDiverged j { slotLoc l.val j.lead x slot with
        slot := ((a.diffPlace g l).orElse (fun _ => b.diffPlace g l)).orElse (fun _ => some (x.entry, x.table, slot)) }
      if a.slotView l rx x.entry x.table slot == b.slotView l rx x.entry x.table slot then (s, some (a.set? l rx)) else (s, none)
  | _, _ => (s, some (j.activePlan.bind (·.set? l rx)))

/-! Accesses of a relay station. -/

/-- Check a landing of len bytes at an offset of a region of a partition, for a link or 0xE: its package offset (R67, R70). unit is the
source of its codes: 9 for a link landing, 11 for an infield one (R75). An error without a code: the lookup's own fault stands. -/
def State.landingAt (s : State) (unit : Nat) (p : PartId) (link region off len : Nat) (r : Loc) :
    State × Except (Option (W16 × Loc)) Nat :=
  let r := { r with part := p.val, region := some region, access := Kind.landing }
  match s.consultAll p r with
  | (s, .lost) => (s, .error none)
  | (s, .noMap) => (s, .error (some (Code.regionKind unit, r)))
  | (s, .diverged _) => (s, .error (some (Code.mapDiverged, r)))
  | (s, .entries es) =>
    match es.find? (fun e => e.1 == region) with
    | none => (s, .error (some (Code.landingBounds unit, r)))
    | some (_, e) =>
      let a := meStart e + off
      let right := mePurpose e == Purpose.landing && meHas e Kind.landing && meLink e == link
      if right && off + len ≤ meLen e then (s, .ok (partBase p + a))
      else
        let bad := if right && off < meLen e then meStart e + meLen e else a
        (s, .error (some (Code.landingBounds unit, { r with address := some ((bad : Nat) : Int) })))

/-- Entries of the ring of a SPILL region, and bytes of an entry (R208). -/
def spillEntries : Nat := 7943
def spillBytes : Nat := 2112
/-- Package offset of a place of the ring, checked as a spill access of link l. -/
def State.spillAt (s : State) (j : Job) (l : LinkId) (n : Nat) : State × Except (Option (PartId × W16 × Loc)) Nat :=
  match s.spillRegion j l with
  | none => (s, .error (some (j.lead, Code.landingBounds 9, { Loc.base 6 with link := l.val, part := j.lead.val, access := Kind.spill })))
  | some (p, i, e) =>
    let a := meStart e + n * spillBytes
    let r : Loc :=
      { Loc.base 6 with link := l.val, part := p.val, access := Kind.spill, region := some i, address := some ((a : Nat) : Int) }
    match s.consultAll p r with
    | (s, .lost) => (s, .error none)
    | (s, .noMap) => (s, .error (some (p, Code.regionKind 9, r)))
    | (s, .diverged _) => (s, .error (some (p, Code.mapDiverged, r)))
    | (s, .entries _) =>
      if meHas e Kind.spill && (n + 1) * spillBytes ≤ meLen e then
        (s.plotAccess p (.relay l) (.service (dieOfLink l)) (partBase p + a) spillBytes, .ok (partBase p + a))
      else (s, .error (some (p, Code.landingBounds 9, r)))
/-- The fault of a spill access that did not pass. -/
def State.spillFault (s : State) (x : Option (PartId × W16 × Loc)) : State :=
  match x with
  | some (p, c, r) => s.partJobFault p c r
  | none => s

/-- Where a transfer entry's bytes lie: its region is looked up by its index, in both copies (R73). A live difference faults the job; none
where there is no such byte. -/
def State.xferAt (s : State) (j : Job) (y : Transfer) (r : Loc) : State × Option Nat :=
  match j.phys y.part with
  | none => (s, none)
  | some p =>
    let r := { r with part := p.val, region := some y.region }
    match s.consultOne p y.region r with
    | (s, .entries (e :: _)) => (s, some (partBase p + meStart e.2 + y.offset))
    | (s, .diverged _) => (s.partJobFault p Code.mapDiverged r, none)
    | (s, _) => (s, none)

end Sys2Proof.Machine
end

