-- ==== Sys2Proof/Machine/Landing.lean ====
section
/-! DEFINITION. How the frames of a burst reach their plot (R117, R178, R251, R253, R254, R418): the arm taken and the baton posted when
the last frame has landed, frames held for their drain, and burst frames that travel as order-2 traffic. Stations are 0 to 5 for
the links and 6 for the rings. -/

namespace Sys2Proof.Machine

/-! The sets and occurrences of a transfer (R418). -/

/-- The ring set of the active plan that names a transfer. -/
def Job.ringSet (j : Job) (rx : Bool) (t : W16) : Option TableSet :=
  j.activePlan.bind (fun p => p.sets.find? (fun k => k.isRing && k.rx == rx && k.names t))
/-- The link set of the active plan that names a transfer. -/
def Job.linkSet (j : Job) (rx : Bool) (t : W16) : Option TableSet :=
  j.activePlan.bind (fun p => p.sets.find? (fun k => !k.isRing && k.rx == rx && k.names t))
def TableSet.station (k : TableSet) : LinkId := finOf 6 k.link.toNat
def TableSet.entry? (k : TableSet) (t : W16) : Option Transfer := k.xfers.find? (fun y => y.number == t)

/-- Occurrences of a transfer in a set before a slot of a table: the place in slot order of the one at the slot. -/
def TableSet.place (k : TableSet) (table : Nat) (t : W16) (slot : Nat) : Nat := ((k.occs table t).filter (fun x => x.1 < slot)).length
/-- The occurrence of a transfer at a place of a table. -/
def TableSet.nth (k : TableSet) (table : Nat) (t : W16) (i : Nat) : Option (Nat × W32) := (k.occs table t)[i]?

/-- An occurrence's lap, by its index, entry and table. -/
def Occurrence.span (o : Occurrence) : LapSpan := { index := o.lapIndex, entry := o.seqEntry, table := o.table, start := 0, held := false }
/-- The occurrence at slot `first` of a lap. -/
def LapSpan.occ (x : LapSpan) (first : Nat) (g : W32) : Occurrence :=
  { lapIndex := x.index, slot := first, seqEntry := x.entry, table := x.table, xfer := segXfer g, len := segLen g }
/-- The count at which a lap began, for the present lap and the one before it. -/
def Job.lapBegin (j : Job) (i : Nat) : Option Nat :=
  match j.lap with
  | none => none
  | some l =>
    if l.lapIndex = i then (if !l.held then some l.lapStart else if l.prevHeld then none else some l.prevStart)
    else if l.lapIndex = i + 1 && !l.held && !l.prevHeld then some l.prevStart
    else none

/-! Stops of a transfer's bytes. -/

/-- The package offset of the first byte that a transfer entry names. -/
def State.xferOffset (s : State) (j : Job) (y : Transfer) : Option Nat :=
  (j.phys y.part).bind (fun p => ((s.part p).mapA.bind (fun m => m.entry? y.region)).map (fun e => partBase p + meStart e + y.offset))
/-- Source and destination stops of an occurrence (R418). -/
def State.ringStops (s : State) (j : Job) (t : W16) : Option (Stop × Stop) :=
  let at_ := fun (rx : Bool) => match j.linkSet (!rx) t with
    | some k => some (Stop.service (dieOfLink k.station))
    | none => (((j.ringSet rx t).bind (·.entry? t)).bind (s.xferOffset j)).map Stop.ofOffset
  match at_ false, at_ true with
  | some a, some b => some (a, b)
  | _, _ => none

/-! Landing (R117, R178). -/

def Landing.of (t : W16) (o : Occurrence) (d : Landing) : Bool := d.transfer == t && d.lapIndex == o.lapIndex && d.slot == o.slot
/-- The bursts that a station is landing for a job. -/
def State.landings (s : State) (j : Job) (st : Fin 7) : List Landing :=
  if h : st.val < 6 then (s.link ⟨st.val, h⟩).landing else ((s.job? j.id).map (·.ringLanding)).getD []
def State.modLandings (s : State) (j : Job) (st : Fin 7) (f : List Landing → List Landing) : State :=
  if h : st.val < 6 then s.modLink ⟨st.val, h⟩ (fun k => { k with landing := f k.landing })
  else s.modJob j.id (fun j => { j with ringLanding := f j.ringLanding })
/-- The first frame of a burst takes an arm, and its landing begins; none where there is no arm (R117). -/
def State.beginLanding (s : State) (j : Job) (st : Fin 7) (t : W16) (o : Occurrence) (carried : BitVec 96) : Option State :=
  (s.takeArm j t).map (fun s => s.modLandings j st (fun ds => ds.filter (fun d => !d.of t o) ++
    [{ transfer := t, lapIndex := o.lapIndex, slot := o.slot, next := 0, landed := 0, baton := carried, dropped := false }]))
/-- The set by which a station lands a transfer. -/
def Job.landSet (j : Job) (st : Fin 7) (t : W16) : Option TableSet := if st.val < 6 then j.linkSet true t else j.ringSet true t

/-- A frame of a burst reaches its plot: it is checked and stored, and the landing baton is posted with the last one (R67, R171, R178). A
frame whose landing has been dropped goes nowhere. -/
def State.landFrame (s : State) (j : Job) (st : Fin 7) (f : StoredFrame) : State :=
  match j.landSet st f.transfer, (s.landings j st).find? (·.of f.transfer f.occ) with
  | some k, some d =>
    match k.entry? f.transfer with
    | none => s
    | some y =>
      match j.phys y.part with
      | none => s
      | some p =>
        let r := slotLoc st.val j.lead f.occ.span (f.occ.slot + f.index)
        let (unit, link) := if st.val < 6 then (9, st.val) else (11, 14)
        match s.landingAt unit p link y.region (y.offset + 2048 * f.index) f.data.length r with
        | (s, .error (some (c, r))) => s.jobFault j.id c r
        | (s, .error none) => s
        | (s, .ok a) =>
          match s.store a f.data r with
          | (s, false) => s
          | (s, true) =>
            if d.landed + 1 < f.occ.len then
              s.modLandings j st (fun ds => ds.map (fun d : Landing => if d.of f.transfer f.occ then { d with landed := d.landed + 1 } else d))
            else
              (s.modLandings j st (fun ds => ds.filter (fun d => !d.of f.transfer f.occ))).postLanding j y
                (fun i g => mkEntry d.baton i g 0xFF) (j.occNumber k f.transfer f.occ.lapIndex f.occ.slot) r
  | _, _ => s

/-! Order-2 traffic (R254). -/

/-- A burst frame enters its first ring: the SEND whose last frame it is, or whose void it is, ends (R116). -/
def State.burstLeaves (s : State) (b : RingBurst) : State :=
  match b.send with
  | none => s
  | some (t, n) =>
    match ((s.job? b.job).toList.flatMap (·.sends)).find? (fun x => x.transfer == t && x.occurrence == n) with
    | some x => s.sendDone b.job x
    | none => s
/-- The die of the ring station at which a burst frame is taken: that of its relay station for a feed, else that of the partition where it
lands. -/
def Job.burstDie (j : Job) (b : RingBurst) : DieId :=
  if b.feed then dieOfLink (finOf 6 b.station.val)
  else
    match ((j.landSet b.station b.frame.transfer).bind (·.entry? b.frame.transfer)).bind (fun y => j.phys y.part) with
    | some p => dieOfPart p
    | none => 0
/-- What the rings find in a frame's words: a single-bit error is corrected and counted (R249). -/
def State.ringWord (s : State) (j : Job) (b : RingBurst) (err : Option EccErr) : State :=
  if err.isSome then
    (s.modInfield (fun i => { i with corrected := satInc i.corrected })).logs Code.ringCorrected j.fn.val ((j.burstDie b).val * 8)
  else s
/-- A frame of a send between plots reaches its destination: the first takes an arm of its transfer, or there is none (R117). The frame of a
void send lands nothing and posts void (R44, R117). -/
def State.ringLand (s : State) (j : Job) (b : RingBurst) : State :=
  let f := b.frame
  let r := slotLoc 6 j.lead f.occ.span f.occ.slot
  match (if b.void then s.takeArm j f.transfer
      else if f.index = 0 then s.beginLanding j 6 f.transfer f.occ b.carried
      else some s) with
  | none => s.jobFault j.id Code.landingUnarmed r
  | some s =>
    if b.void then
      match (j.ringSet true f.transfer).bind (fun k => (k.entry? f.transfer).map (fun y => (k, y))) with
      | some (k, y) =>
        s.postLanding j y (fun i g => mkVoid 5 i g 0xFF) (j.occNumber k f.transfer f.occ.lapIndex f.occ.slot) r
      | none => s
    else s.landFrame j 6 f
/-- A burst frame reaches its last stop: a feed waits in the relay station for its link, any other frame lands. -/
def State.burstArrives (s : State) (b : RingBurst) : State :=
  match (s.job? b.job).filter (·.phase == .run) with
  | none => s
  | some j =>
    if b.feed then
      (if b.void then s else s.modLink (finOf 6 b.station.val) (fun k => { k with feed := k.feed ++ [b.frame] }))
    else if b.station.val < 6 then s.landFrame j b.station b.frame
    else s.ringLand j b
/-- A burst frame with an error in its words reaches its last stop: a single-bit error is corrected and counted, an uncorrectable one faults
its job (R249). -/
def State.burstFound (s : State) (err : Option EccErr) (b : RingBurst) : State :=
  match (s.job? b.job).filter (·.phase == .run) with
  | none => s
  | some j =>
    if err == some .double then s.jobFault j.id Code.ringUncorrectable { Loc.base 6 with link := 6, part := j.lead.val }
    else (s.ringWord j b err).burstArrives b
/-- Send a burst frame as order-2 traffic between two stops; between the same stops it uses no ring. -/
def State.orderTwo (s : State) (src dst : Stop) (b : RingBurst) : State :=
  if src = dst then (s.burstLeaves b).burstArrives b
  else s.addUnit { load := .burst b, out := none, place := none, legs := route src dst }

/-! Frames from a link (R253, R254). -/

/-- Has the drain of a frame passed: is its lap neither the present one nor the one before, or its beat over? -/
def State.drainPassed (s : State) (j : Job) (kl : TableSet) (f : StoredFrame) : Bool :=
  match j.lapBegin f.occ.lapIndex,
      (j.ringSet false f.transfer).bind (fun k => k.nth f.occ.table f.transfer (kl.place f.occ.table f.transfer f.occ.slot)) with
  | some b, some (slot, _) => b + slot + f.index ≤ s.pace.count.toNat
  | _, _ => true
/-- A frame from a link is held for its drain; where the drain has passed, or all 8 places are taken, it goes to its plot as order-2
traffic. -/
def State.holdFrame (s : State) (l : LinkId) (j : Job) (kl : TableSet) (f : StoredFrame) : State :=
  if !s.drainPassed j kl f && (s.link l).hold.length < 8 then s.modLink l (fun k => { k with hold := k.hold ++ [f] })
  else
    let dst := ((kl.entry? f.transfer).bind (s.xferOffset j)).map Stop.ofOffset
    let src := Stop.service (dieOfLink l)
    s.orderTwo src (dst.getD src) { job := j.id, station := finOf 7 l.val, feed := false, frame := f,
                                              void := false, carried := 0, send := none }

/-! Frames to a link (R251, R253). -/

/-- A frame that the feed has brought for an occurrence on a link. -/
def Link.fed (k : Link) (t : W16) (o : Occurrence) (i : Nat) : Option (List Byte) :=
  (k.feed.find? (fun f => f.transfer == t && f.occ == o && f.index == i)).map (·.data)
/-- Has the feed of an occurrence wholly arrived? -/
def Link.fedWhole (k : Link) (t : W16) (o : Occurrence) : Bool := (List.range o.len).all (fun i => (k.fed t o i).isSome)
/-- The frame has left on the link. -/
def Link.dropFed (k : Link) (t : W16) (o : Occurrence) (i : Nat) : Link :=
  { k with feed := k.feed.filter (fun f => !(f.transfer == t && f.occ == o && f.index == i)) }

end Sys2Proof.Machine
end

