-- ==== Sys2Proof/Machine/Relay.lean ====
section
/-! DEFINITION. Relay stations: samples and stumbles (R44 to R47), what each slot sends (R175, R205 to R211), what a received
frame does (R36, R37, R177, R178, R200 to R204, R212), cells in and out (R176, R211, R257, R258, R264). -/

namespace Sys2Proof.Machine

/-! Sending: the frame (Tables 02-4, 08-7, 09-3). -/

/-- The pace cell a frame carries: one whose first copy has left, since its copies are in consecutive frames (R202); then slip requests,
announcements and reports, in this order (R41). -/
def nextPaceCell (cs : List PaceCell) : Option PaceCell :=
  (cs.find? (fun c => decide (c.copies < PaceKind.copies c.kind))).or ((cs.find? (fun c => c.kind == PaceKind.slip)).or
    ((cs.find? (fun c => c.kind == PaceKind.grade)).or cs.head?))
def useCopy (c : PaceCell) (cs : List PaceCell) : List PaceCell :=
  if c.copies ≤ 1 then cs.erase c else updFirst (· == c) (fun x => { x with copies := x.copies - 1 }) cs

/-- Word 1 of the pace field. -/
def State.paceWord (s : State) (l : LinkId) (cell : Option PaceCell) : W64 :=
  let mark := s.pace.count.toNat % 4096 == 0 && (match s.pace.domain with
    | some d => bit d.children l.val
    | none => false)
  let off := if mark then ((s.pace.offset % (2 ^ 15 : Nat)).toNat) else 0
  let (k, b) := match cell with
    | some c => (c.kind.toNat, c.body.toNat)
    | none => (0, 0)
  BitVec.ofNat 64 (b2n mark * 2 ^ 63 + off * 2 ^ 48 + k * 2 ^ 44 + b)

/-- Send one frame now: pace field and link part are built, the frame stands on the wire. -/
def State.emit (s : State) (l : LinkId) (b : FrameBody) (seq : Option W16) (replay : Bool) : State :=
  let k := s.link l
  let cell := nextPaceCell k.paceCells
  let link0 : W64 := BitVec.ofNat 64 ((seq.getD 0).toNat * 2 ^ 48 + k.ackOut.toNat * 2 ^ 32 + k.rrOut.toNat * 2 ^ 28
    + b2n seq.isSome * 2 ^ 27 + b2n replay * 2 ^ 26 + k.epoch.toNat * 2 ^ 18 + k.freedJob.toNat * 2 ^ 10 + k.freedMgmt.toNat * 2 ^ 2)
  let req : Nat := match k.rx.pendingSwap.find? (fun x => x.kind != .short) with
    | some x => 2 ^ 31 + x.lane.val * 2 ^ 27
    | none => 0
  let ann : Nat := match k.tx.pendingSwap with
    | x :: _ => match x.at_ with
      | some t => 2 ^ 26 + x.lane.val * 2 ^ 22 + (t % 2 ^ 16) * 2 ^ 6
      | none => 0
    | [] => 0
  let f : FrameParts :=
    { pace0 := s.pace.count, pace1 := s.paceWord l cell, body := b, link0 := link0, link1 := BitVec.ofNat 32 (req + ann + (s.gapOf l).toNat * 4) }
  s.modLink l (fun k =>
    { k with
      wire := some f.encode
      paceCells := match cell with
        | some c => useCopy c k.paceCells
        | none => k.paceCells })

/-! The replay buffer and its spill (R205, R208, R209). -/

def Link.inBuffer (k : Link) : Nat := (k.unacked.filter (fun e => e.spilled.isNone)).length
/-- The backlog: the unacknowledged frames from the replay pointer on (R205). -/
def Link.backlog (k : Link) : List ReplayEntry :=
  match k.replayPtr with
  | none => []
  | some p => k.unacked.dropWhile (fun e => e.seq.toNat != p)

/-- The oldest entry of the buffer moves to the SPILL region; its tag is free (log 55). -/
def State.spillOldest (s : State) (l : LinkId) (j : Job) : State × Bool :=
  let k := s.link l
  match k.unacked.find? (fun e => e.spilled.isNone) with
  | none => (s, false)
  | some e =>
    let n := k.spillWritten.toNat % spillEntries
    match s.spillAt j l n with
    | (s, .error x) => (s.spillFault x, false)
    | (s, .ok a) =>
      let (tag, s) := s.draw
      match s.store a (e.body.stored ++ natLE 32 tag) { Loc.base 6 with link := l.val, part := j.lead.val } with
      | (s, false) => (s, false)
      | (s, true) =>
        (s.modLink l (fun k =>
          { k with
            spillWritten := satInc k.spillWritten
            unacked := updFirst (fun x => x.seq == e.seq && x.spilled.isNone) (fun x => { x with spilled := some n }) k.unacked }), true)

/-- Is the spill region full, or is there none (R209)? -/
def State.spillFull (s : State) (l : LinkId) : Bool :=
  let k := s.link l
  match s.ownerRun l with
  | none => true
  | some j => (s.spillRegion j l).isNone || decide (spillEntries ≤ k.unacked.length - k.inBuffer)
/-- Make room for a new sequenced frame: true when there is room. A spill access that faults makes none. -/
def State.makeRoom (s : State) (l : LinkId) : State × Bool :=
  if (s.link l).inBuffer < 248 then (s, true)
  else if s.spillFull l then (s, false)
  else
    match s.ownerRun l with
    | none => (s, false)
    | some j => s.spillOldest l j

/-- Store and send a new sequenced frame for which there is room. -/
def State.sendStored (s : State) (l : LinkId) (b : FrameBody) : State :=
  let q := (s.link l).nextSeq
  (s.modLink l (fun k =>
    { k with
      nextSeq := k.nextSeq + 1
      unacked := k.unacked ++ [{ seq := q, body := b, spilled := none }] })).emit l b (some q) false
/-- Send a new burst, void or deferred frame; with the buffer and the spill region full the link goes down first (R209), and when the spill
access has faulted it goes down with SPILL_ABANDONED, as the partition that holds the region enters FAULTED (R210). True when it was
sent. -/
def State.sendBurst (s : State) (l : LinkId) (b : FrameBody) : State × Bool :=
  match s.makeRoom l with
  | (t, true) => (t.sendStored l b, true)
  | (t, false) => if t.up l && s.spillFull l then (t.linkDown l Code.replayFull, false) else (t, false)

/-- The stored body of a replay entry: a spilled one is read back from the ring. -/
def State.replayBody (s : State) (l : LinkId) (e : ReplayEntry) : State × Option FrameBody :=
  match e.spilled, s.ownerRun l with
  | none, _ => (s, some e.body)
  | some _, none => (s, some e.body)
  | some n, some j =>
    match s.spillAt j l n with
    | (s, .error x) => (s.spillFault x, none)
    | (s, .ok a) =>
      match s.fetchBytes a 2080 { Loc.base 6 with link := l.val, part := j.lead.val } with
      | (s, some bs) => (s, some (FrameBody.ofStored bs))
      | (s, none) => (s, none)

/-- Send the first frame of the backlog again; every replay is counted, and logged at most once per second (R205, R228). -/
def State.sendReplay (s : State) (l : LinkId) : State :=
  match (s.link l).backlog with
  | [] => s
  | e :: rest =>
    match s.replayBody l e with
    | (s, none) => s
    | (s, some b) =>
      let s := s.modLink l (fun k => { k with replayPtr := rest.head?.map (fun x => x.seq.toNat), replayCount := satInc k.replayCount })
      (s.logRate (.frameReplayed l) Code.frameReplayed 0 (linkPlace l)).emit l b (some e.seq) true

/-! Job fields of a frame. -/

def Job.domainId (j : Job) : Byte := match j.pace with | some b => b.domainId | none => 0
def Job.rank (j : Job) : BitVec 13 := match j.ranks with | some r => r.myRank | none => 0
/-- The slot field of a frame of a job. -/
def Job.slotField (j : Job) (kind : Nat) (void deferred : Bool) (index slotsM1 : Nat) (t : W16) (lap slot : Nat) (payload : Nat)
    (carried : BitVec 96) : FrameBody :=
  { slot0 := mkSlot0 kind void deferred index slotsM1 j.planSel t j.rank slot
    slot1 := mkSlot1 j.domainId j.index lap
    payload := BitVec.ofNat 16384 payload
    baton := BitVec.ofNat 128 carried.toNat }
/-- A null frame that is neither void nor deferred carries its pace field and link part only (R201). -/
def State.sendNull (s : State) (l : LinkId) : State := s.emit l FrameBody.null none false

/-- The source bytes of slot k of a burst (R171); none when they cannot be delivered. -/
def State.burstBytes (s : State) (l : Nat) (j : Job) (t : Transfer) (k : Nat) : State × Option (List Byte) :=
  let r : Loc := { Loc.base 6 with link := l, region := some t.region }
  match s.xferAt j t r with
  | (s, none) => (s, none)
  | (s, some a) => s.fetchBytes (a + 2048 * k) 2048 { r with part := (partOfOffset a).val }

/-! Samples (R44, R46, R116, R253). -/

/-- Sample the occurrence whose first slot is at `first` of lap span x; it is noted once. A feed that has not wholly arrived counts as an
absent baton (R253). -/
def State.sample (s : State) (l : LinkId) (j : Job) (k : TableSet) (x : LapSpan) (first : Nat) (g : W32) : State :=
  match k.xfer? (segXfer g) with
  | none => s
  | some y =>
    let t := y.number
    let n := j.occNumber k t x.index first
    let lk := s.link l
    if lk.sampled.any (fun a => a.occ.lapIndex == x.index && a.occ.slot == first) then s
    else
      let occ := x.occ first g
      let late := lk.deferred.any (fun d => d.occ.table == x.table && d.occ.slot == first)
      let out := match j.boundAt t n with
        | none => SampleOutcome.stumble
        | some b => if late then .stumble else if b.void != 0 then .void else if lk.fedWhole t occ then .present else .stumble
      let s := s.modLink l (fun k => { k with sampled := k.sampled ++ [{ occ := occ, number := n, outcome := out }] })
      if out == .stumble then
        let s := s.modLink l (fun k => { k with stumbles := satInc k.stumbles, slipsRaised := satInc k.slipsRaised })
        (s.logAt Code.stumble j.fn.val ((slotLoc l.val j.lead x first).burst t x.index (j.dataBaton t n))).raiseSlip j 1 (x.start + first)
      else s

/-- The lap span that a coming count lies in: the present lap, or the lap due next when no hold is armed at its boundary. -/
def State.spanAhead (s : State) (j : Job) (c : Nat) : Option LapSpan :=
  match j.lap with
  | none => none
  | some l =>
    let b := l.lapStart + l.length
    if l.paused || l.ended then none
    else if c < b then (if l.lapStart ≤ c then some l.span else none)
    else if (s.holdDue l b).isSome then none
    else
      match j.due, j.activePlan with
      | some (e, 0), some p =>
        if (match j.image.hurdles[j.nextHurdle]? with | some d => d.seqEntry == e | none => false) then none
        else some { index := l.lapIndex + 1, entry := e, table := p.tableAt e, start := b, held := false }
      | some (e, _), some p => some { index := l.lapIndex + 1, entry := e, table := p.tableAt e, start := b, held := false }
      | none, _ => none
      | _, none => none

/-- BATON_SAMPLE: two beats before a scheduled burst (R44). -/
def execBatonSample (l : LinkId) (s : State) : Out :=
  .next (match s.ownerRun l with
    | none => s
    | some j =>
      match s.spanAhead j (s.pace.count.toNat + 2) with
      | none => s
      | some x =>
        if x.held || !s.up l then s
        else
          let slot := s.pace.count.toNat + 2 - x.start
          match s.readTables l j false x slot with
          | (s, some (some k)) =>
            (match segAt slot (k.segsOf x.table) with
             | some (first, g) => if segKind g == Seg.burst && first == slot then s.sample l j k x first g else s
             | none => s)
          | (s, _) => s)

/-! Slots (Table 08-8). -/

/-- Send slot `index` of the burst that starts at `first` (R175); a stumble's later slots carry the same flags. -/
def State.sendBurstSlot (s : State) (l : LinkId) (j : Job) (k : TableSet) (x : LapSpan) (first : Nat) (g : W32) (index : Nat) : State :=
  let s := if index = 0 then s.sample l j k x first g else s
  match (s.link l).sampled.find? (fun a => a.occ.lapIndex == x.index && a.occ.slot == first), k.xfer? (segXfer g) with
  | some a, some y =>
    let t := y.number
    let m1 := segLen g - 1
    let last := index == m1
    let clear := fun (s : State) =>
      if last then s.modLink l (fun k => { k with sampled := k.sampled.filter (fun b => !(b.occ.lapIndex == x.index && b.occ.slot == first)) })
      else s
    match a.outcome with
    | .present =>
      let b := j.boundAt t a.number
      (match (s.link l).fed t a.occ index with
       | none => clear s
       | some bs =>
         let body := j.slotField (if index = 0 then 1 else 2) false false index m1 t x.index (first + index) (leNat bs)
           (if index = 0 then (match b with | some b => b.carried | none => 0) else 0)
         match s.sendBurst l body with
         | (s, false) => s
         | (s, true) =>
           let s := clear (s.modLink l (fun k => { k.dropFed t a.occ index with burstSlots := satInc k.burstSlots }))
           match last, b with
           | true, some b => s.sendDone j.id b
           | _, _ => s)
    | .void =>
      (match s.sendBurst l (j.slotField 0 true false index m1 t x.index (first + index) 0 0) with
       | (s, false) => s
       | (s, true) =>
         match index, j.boundAt t a.number with
         | 0, some b => (clear s).sendDone j.id b
         | _, _ => clear s)
    | .stumble =>
      (match s.sendBurst l (j.slotField 0 false true index m1 t x.index (first + index) 0 0) with
       | (s, false) => s
       | (s, true) =>
         let s := if index = 0 then
             s.modLink l (fun k =>
               { k with
                 deferred := k.deferred ++ [{ lead := j.lead, occ := a.occ, transfer := t, number := a.number,
                                              ready := (j.boundAt t a.number).isSome, nextSlot := 0 }] })
           else s
         clear s)
  | _, _ => s

/-- Can the oldest deferred send go on: its baton has arrived, and the next frame's bytes, where it is not void, have come by its feed? -/
def State.deferredReady (s : State) (l : LinkId) (j : Job) : Bool :=
  match (s.link l).deferred.head? with
  | none => false
  | some d => d.ready && (match j.boundAt d.transfer d.number with
    | none => false
    | some b => b.void != 0 || ((s.link l).fed d.transfer d.occ d.nextSlot).isSome)
/-- Send the next frame of the oldest deferred send, whose baton has arrived, with its original lap and slot (R45). -/
def State.sendDeferred (s : State) (l : LinkId) (j : Job) : State :=
  match (s.link l).deferred with
  | [] => s
  | d :: rest =>
    let x := d.occ.span
    match d.ready, j.boundAt d.transfer d.number, s.readTables l j false x d.occ.slot with
    | true, some b, (s, some (some k)) =>
      (match k.xfer? d.occ.xfer with
       | none => s
       | some _ =>
         let m1 := d.occ.len - 1
         let step := fun (s : State) => s.modLink l (fun k =>
           { k.dropFed d.transfer d.occ d.nextSlot with
             deferred := if d.nextSlot == m1 then rest else { d with nextSlot := d.nextSlot + 1 } :: rest })
         if b.void != 0 then
           match s.sendBurst l (j.slotField 0 true true d.nextSlot m1 d.transfer d.occ.lapIndex (d.occ.slot + d.nextSlot) 0 0) with
           | (s, false) => s
           | (s, true) => if d.nextSlot = 0 then (step s).sendDone j.id b else step s
         else
           match (s.link l).fed d.transfer d.occ d.nextSlot with
           | none => s
           | some bs =>
             match s.sendBurst l (j.slotField (if d.nextSlot = 0 then 1 else 2) false true d.nextSlot m1 d.transfer d.occ.lapIndex
                 (d.occ.slot + d.nextSlot) (leNat bs) (if d.nextSlot = 0 then b.carried else 0)) with
             | (s, false) => s
             | (s, true) => if d.nextSlot == m1 then (step s).sendDone j.id b else step s)
    | _, _, (s, _) => s

/-- Credits that a cell needs to leave on a link: two onto a new axis, one along its axis (R258). -/
def RingUnit.needs (u : RingUnit) (l : LinkId) : Nat :=
  match u.load with
  | .cell (.link m) _ _ => if m.val / 2 = l.val / 2 then 1 else 2
  | _ => 2
/-- Take up to n cells of a channel for one frame, in order, while its credits allow (R211, R258), and the credits left. A cell that lacks credit
holds back those of its flow, which late lists, and no others (log 136). -/
def takeCells (l : LinkId) : Nat → Nat → List (Option (Bool × BitVec 13 × BitVec 13)) → List RingUnit → List RingUnit × Nat
  | _, credit, _, [] => ([], credit)
  | 0, credit, _, _ => ([], credit)
  | n + 1, credit, late, u :: us =>
    if late.contains u.flow then takeCells l (n + 1) credit late us
    else if u.needs l ≤ credit then
      let r := takeCells l n (credit - 1) late us
      (u :: r.1, r.2)
    else takeCells l (n + 1) credit (u.flow :: late) us

/-- Send a cell frame when cells can go, else a null frame; job gives the frame's job fields (R175, R209). What the rings find in the cells that
are to go comes first (R249). -/
def State.sendCells (s : State) (l : LinkId) (job : Option (Job × LapSpan × Nat)) : State :=
  let s := ((readyUnits (some l) s.infield.transit []).filter (·.err.isSome)).foldl State.meetUnit s
  let k := s.link l
  let us := readyUnits (some l) s.infield.transit []
  let (m, mc) := takeCells l 32 k.creditMgmt [] (us.filter (fun u => u.chan == .mgmt))
  let (v, vc) := takeCells l (32 - m.length) k.creditJob [] (us.filter (fun u => u.chan == .job))
  let cs := m ++ v
  if cs.isEmpty then s.sendNull l
  else
    match s.makeRoom l with
    | (s, false) => if s.up l then s.sendNull l else s
    | (s, true) =>
      let pay := leNat (cs.flatMap (fun u => u.cell?.elim [] Cell.toBytes))
      let body := match job with
        | some (j, x, slot) => j.slotField 3 false false 0 0 0 x.index slot pay 0
        | none => { FrameBody.null with slot0 := mkSlot0 3 false false 0 0 0 0 0 0, payload := BitVec.ofNat 16384 pay }
      let through := (cs.filter RingUnit.foreign).length
      let s := s.modLink l (fun k =>
        { k with
          creditMgmt := mc, creditJob := vc
          cellsForwarded := satAdd k.cellsForwarded through
          uCells := if job.isSome then satInc k.uCells else k.uCells })
      let s := s.modInfield (fun i => { i with transit := cs.foldl (fun us u => us.erase u) i.transit })
      cs.foldl (fun s u => s.unitLeaves u) (s.sendStored l body)

/-- Origin of a frame as a pair that orders by lap and slot. -/
def FrameBody.key (b : FrameBody) : Nat := b.lap * 2 ^ 16 + b.slot
def Deferred.key (d : Deferred) : Nat := (d.occ.lapIndex % 2 ^ 32) * 2 ^ 16 + d.occ.slot + d.nextSlot
/-- Send the older of the backlog's first frame and a ready deferred send; none when neither waits (R45, R206). -/
def State.sendBacklog (s : State) (l : LinkId) (j : Option Job) : Option State :=
  let k := s.link l
  let d := match j, k.deferred.head? with
    | some j, some d => if s.deferredReady l j then some (j, d) else none
    | _, _ => none
  match k.backlog.head?, d with
  | some e, some (j, d) =>
    if e.body.key ≤ d.key then some (s.sendReplay l) else some (s.sendDeferred l j)
  | some _, none => some (s.sendReplay l)
  | none, some (j, _) => some (s.sendDeferred l j)
  | none, none => none

/-- R47: at a spare slot the frames awaiting replay and the deferred sends outnumber the spare slots left in the lap. -/
def State.exhaust (s : State) (l : LinkId) (j : Job) (set : Option TableSet) (x : LapSpan) (slot : Nat) : State :=
  let k := s.link l
  let lapEnd := match j.lap with
    | some q => q.lapStart + q.length
    | none => 0
  let left := match set with
    | some t => t.usableFrom x.table slot x.held
    | none => lapEnd - (x.start + slot)
  let need := k.backlog.length + k.deferred.length
  if left < need && !s.armed lapEnd then
    let s := s.modLink l (fun k =>
      { k with exhaustedEvents := satInc k.exhaustedEvents, slipsRaised := satInc k.slipsRaised })
    (s.logAt Code.replayExhausted j.fn.val (slotLoc l.val j.lead x slot)).raiseSlip j 2 (x.start + slot)
  else s
/-- A SPARE slot, or a held lap's slot that is not U. -/
def State.spareSlot (s : State) (l : LinkId) (j : Job) (set : Option TableSet) (x : LapSpan) (slot : Nat) : State :=
  let s := s.exhaust l j set x slot
  match s.sendBacklog l (some j) with
  | some t => t.modLink l (fun k => { k with sparesUsed := satInc k.sparesUsed })
  | none => s.sendNull l

/-- A frame time of a link whose owner is not in RUN, or has no lap now. -/
def State.freeSlot (s : State) (l : LinkId) (j : Option Job) : State :=
  match s.sendBacklog l j with
  | some t => t
  | none => s.sendCells l none

/-- SLOT_SEND: what this slot sends (R175, Table 08-8). In a direction for which the active plan has no table set, every slot is as SPARE (DESIGN
CHOICE, log 51: the spec gives such slots no kind). -/
def execSlotSend (l : LinkId) (s : State) : Out :=
  .next (
    if !s.up l then s
    else
      match s.ownerRun l with
      | none => s.freeSlot l none
      | some j =>
        let c := s.pace.count.toNat
        match (if (match j.lap with | some q => decide (q.lapStart ≤ c) | none => false) then j.spanAt c else none) with
        | none => s.freeSlot l (some j)
        | some x =>
          let slot := c - x.start
          match s.readTables l j false x slot with
          | (s, none) => s.sendNull l
          | (s, some set) =>
            match set.bind (fun k => (segAt slot (k.segsOf x.table)).map (fun g => (k, g))) with
            | none => s.spareSlot l j set x slot
            | some (k, first, g) =>
              if segKind g == Seg.u then s.sendCells l (some (j, x, slot))
              else if x.held || segKind g == Seg.spare then s.spareSlot l j set x slot
              else if segKind g == Seg.burst then s.sendBurstSlot l j k x first g (slot - first)
              else s.sendNull l)

/-- DEFERRED_SEND: a ready deferred send goes out in a slot it may use (R45, R49). -/
def execDeferredSend (l : LinkId) (s : State) : Out :=
  .next (
    if !s.up l then s
    else
      match s.ownerRun l with
      | none => s
      | some j =>
        let c := s.pace.count.toNat
        let usable := match (if (match j.lap with | some q => decide (q.lapStart ≤ c) | none => false) then j.spanAt c else none) with
          | none => true
          | some x =>
            let kind := match j.activePlan.bind (·.set? l false) with
              | some k => k.kindAt x.table (c - x.start)
              | none => Seg.spare
            if x.held then kind != Seg.u else kind == Seg.spare
        if usable && (s.link l).backlog.isEmpty && s.deferredReady l j then
          (s.sendDeferred l j).modLink l (fun k => { k with sparesUsed := satInc k.sparesUsed })
        else s)

/-! Receiving: cells (R211, R264). -/

/-- Does a chip id lie inside the extents (R264)? -/
def State.inExtents (s : State) (c : BitVec 13) : Bool :=
  decide (chipX c < s.ex) && decide (chipY c < s.ey) && decide (chipZ c < s.ez)
/-- R264: a cell that is discarded. -/
def State.cellBad (s : State) (c : Cell) : Bool :=
  let bs := c.bytes
  let typed := c.kind == CellKind.management
  decide (5 < c.kind) || c.wordsM1 == 3 || fld c.head 3 0 != 0 || faClass c.address != c.mgmt || !s.inExtents (faChip c.address)
  || (typed && !(decide (1 ≤ c.mgmtType) && decide (c.mgmtType ≤ 4)))
  || (typed && c.mgmtType == 1 && !(zeroAt bs 3 1 && leAt bs 4 2 / 2 ^ 13 == 0 && zeroAt bs 6 2))
  || (typed && c.mgmtType == 2 && !(zeroAt bs 1 7 && zeroAt bs 18 30))
  || (typed && c.mgmtType == 3 && !zeroAt bs 3 45)
  || (typed && c.mgmtType == 4 && !zeroAt bs 3 1)
  || (c.kind == CellKind.completion && !(leAt bs 1 1 < 2 && zeroAt bs 4 44))

/-- A cell of an accepted frame takes its buffer, and is discarded, kept for this package or forwarded (R211, R257, R264). -/
def State.cellIn (s : State) (l : LinkId) (c : Cell) : State :=
  let s := s.modLink l (fun k =>
    if c.mgmt then { k with rxUsedMgmt := k.rxUsedMgmt + 1, peakMgmt := BitVec.ofNat 64 (Nat.max k.peakMgmt.toNat (k.rxUsedMgmt + 1)) }
    else { k with rxUsedJob := k.rxUsedJob + 1, peakJob := BitVec.ofNat 64 (Nat.max k.peakJob.toNat (k.rxUsedJob + 1)) })
  if s.cellBad c then
    ((s.freeBuffer (.link l) c).modLink l (fun k => { k with cellDrop := satInc k.cellDrop })).logRate (.cellMalformedLink l) Code.cellMalformed 0 (linkPlace l)
  else s.routeCell (.link l) (.service (dieOfLink l)) c
/-- The cells of a discarded frame only give back their buffers. -/
def State.cellsGone (s : State) (l : LinkId) (b : FrameBody) : State :=
  if b.kind = 3 then
    b.cells.foldl (fun s c => s.modLink l (fun k =>
      if c.mgmt then { k with freedMgmt := k.freedMgmt + 1 } else { k with freedJob := k.freedJob + 1 })) s
  else s
def State.cellsIn (s : State) (l : LinkId) (b : FrameBody) : State :=
  if b.kind = 3 then b.cells.foldl (fun s c => s.cellIn l c) s else s

/-! Receiving: landing (R117, R171, R178). -/

/-- A frame that meets its plan entry, the segment g at slot `first` of lap x: a burst frame goes on to its landing, a void frame posts void,
a deferred null frame does neither. -/
def State.land (s : State) (l : LinkId) (j : Job) (k : TableSet) (y : Transfer) (x : LapSpan) (first : Nat) (g : W32) (b : FrameBody) :
    State :=
  let t := y.number
  let st : Fin 7 := finOf 7 l.val
  let o := x.occ first g
  let r := slotLoc l.val j.lead x (first + b.index)
  let unarmed := fun (s : State) => s.jobFault j.id Code.landingUnarmed r
  if b.kind = 0 then
    if !b.void || b.index != 0 then s
    else
      match s.takeArm j t with
      | none => unarmed s
      | some s => s.postLanding j y (fun i g => mkVoid 5 i g 0xFF) (j.occNumber k t x.index first) r
  else
    match (if b.index = 0 then s.beginLanding j st t o b.carried else some s) with
    | none => unarmed s
    | some s =>
      match (s.link l).landing.find? (·.of t o) with
      | none => s
      | some d =>
        if d.next != b.index then s
        else
          (s.modLandings j st (fun ds => ds.map (fun d : Landing => if d.of t o then { d with next := d.next + 1 } else d))).holdFrame l j k
            { transfer := t, occ := o, index := b.index, data := b.bytes }

/-! Receiving: plan checks (Table 08-10). -/

/-- The origin of a replayed or deferred frame: its lap by index (R177). -/
def Job.originLap (j : Job) (lap : Nat) : Option LapSpan :=
  match j.lap with
  | none => none
  | some l =>
    let back := (l.lapIndex % 2 ^ 32 + 2 ^ 32 - lap) % 2 ^ 32
    if back ≤ l.lapIndex then
      (j.lapAt (l.lapIndex - back)).map (fun e => { index := l.lapIndex - back, entry := e.1, table := e.2, start := 0, held := false })
    else none

/-- Is a slot a U slot of the held lap that followed a lap, where one did (R49)? A cell frame sent there carries that lap's index. -/
def Job.heldU (j : Job) (k : TableSet) (lap slot : Nat) : Bool :=
  (match j.lap with | some l => l.heldAfter.contains lap | none => false)
    && (match j.lapAt (lap + 1) with | some (_, t) => k.kindAt t slot == Seg.u | none => false)

/-- The checks of Table 08-10 for a frame of a link whose owner is in RUN, sent at count c, and what an accepted frame does. -/
def State.planFrame (s : State) (l : LinkId) (j : Job) (c : Nat) (b : FrameBody) (replay : Bool) : State :=
  let moved := b.hasJob && (b.deferred || replay)
  let here := j.spanAt c
  let origin := if moved then j.originLap b.lap else here
  let slot := if moved then b.slot else match here with | some x => c - x.start | none => 0
  let r := match here with
    | some x => slotLoc l.val j.lead x (c - x.start)
    | none => { Loc.base 6 with link := l.val, part := j.lead.val }
  let bad := fun (s : State) (code : W16) => (s.jobFault j.id code r).cellsGone l b
  let plain := !b.void && !b.deferred
  if b.hasJob && (b.domain != j.domainId || b.job != j.index) then bad s Code.planIsolation
  else if b.hasJob && b.plan != j.planSel then bad s Code.slotKind
  else
    match origin with
    | none => if moved || b.kind == 1 || b.kind == 2 || b.void then bad s Code.slotKind else s.cellsIn l b
    | some x =>
      if b.hasJob && !moved && !(b.lap == x.index % 2 ^ 32 && b.slot == slot % 2 ^ 16) then bad s Code.slotKind
      else
        match s.readTables l j true x slot with
        | (s, none) => s.cellsGone l b
        | (s, some set) =>
          let loose := replay && b.kind == 3 && plain
            && (!b.hasJob || (match set with | some k => j.heldU k x.index slot | none => false))
          match set.bind (fun k => (segAt slot (k.segsOf x.table)).map (fun g => (k, g))) with
          | none => if b.kind ≤ 3 && b.kind != 1 && b.kind != 2 && plain then s.cellsIn l b else bad s Code.slotKind
          | some (k, first, g) =>
            let kind := if x.held && segKind g == Seg.burst then Seg.idle else segKind g
            let ok := loose ||
              (if kind == Seg.burst then
                (b.kind == (if slot == first then 1 else 2) && !b.void && (!b.deferred || moved)) || (b.kind == 0 && (b.void || b.deferred))
              else if kind == Seg.u then (b.kind == 0 || b.kind == 3) && plain
              else b.kind == 0 && plain)
            if !ok then bad s Code.slotKind
            else if kind != Seg.burst || b.kind == 3 then s.cellsIn l b
            else if b.slotsM1 + 1 != segLen g || b.index != slot - first then bad s Code.burstLength
            else
              match k.xfer? (segXfer g) with
              | none => bad s Code.burstTransfer
              | some y =>
                if b.transfer != y.number then bad s Code.burstTransfer
                else if b.rank != k.peerRank then bad s Code.burstRank
                else s.land l j k y x first g b

/-- An accepted or unsequenced good frame, sent at count c, goes to the plan checks, or to cell handling (R175, R177, R203). -/
def State.bodyIn (s : State) (l : LinkId) (c : Nat) (b : FrameBody) (replay : Bool) : State :=
  match s.ownerRun l with
  | some j => s.planFrame l j c b replay
  | none =>
    if b.hasJob then
      (((s.modLink l (fun k => { k with stray := satInc k.stray })).logRateAt (.planStray l) Code.planStray 0
        { Loc.base 6 with link := l.val }).cellsGone l b)
    else s.cellsIn l b

/-! Receiving: the link part (R202 to R205, R211, R212, R214). -/

/-- Acknowledgement and replay request of a good frame; false when the link went down for ACK_INVALID. -/
def State.ackIn (s : State) (l : LinkId) (f : FrameParts) : State × Bool :=
  let k := s.link l
  let base : W16 := match k.unacked.head? with
    | some e => e.seq - 1
    | none => k.nextSeq - 1
  let n := (f.ack - base).toNat
  if (k.nextSeq - 1 - base).toNat < n then (s.linkDown l Code.ackInvalid, false)
  else
    let rest := k.unacked.drop n
    let s := s.modLink l (fun k =>
      { k with
        unacked := rest
        timeouts := if n = 0 then k.timeouts else 0
        replayPtr := match k.replayPtr with
          | some p => if rest.any (fun e => e.seq.toNat == p) then some p else rest.head?.map (fun e => e.seq.toNat)
          | none => none })
    if f.rr = k.rrSeen then (s, true)
    else
      let s := s.modLink l (fun k =>
        { k with
          rrSeen := f.rr
          replayPtr := rest.head?.map (fun e => e.seq.toNat) })
      (s, true)

/-- Credits regained by the rise of the partner's counts (R211). -/
def Link.creditIn (k : Link) (f : FrameParts) : Link :=
  { k with
    creditJob := k.creditJob + (f.creditJob - k.partnerFreedJob).toNat
    creditMgmt := k.creditMgmt + (f.creditMgmt - k.partnerFreedMgmt).toNat
    partnerFreedJob := f.creditJob
    partnerFreedMgmt := f.creditMgmt }

/-- The boundary of a swap (R214): at least 64 beats ahead, a lap boundary on a locked link with an owner in RUN, else a
multiple of 4,096. -/
def State.swapBoundary (s : State) (l : LinkId) : Nat :=
  let c := s.pace.count.toNat + 64
  let plain := (c + 4095) / 4096 * 4096
  match s.ownerRun l with
  | none => plain
  | some j =>
    match j.image.plan, j.activePlan, j.lap with
    | some k, some p, some q =>
      if q.paused || q.ended then plain
      else
        let pend := sortBy (· ≤ ·) ((s.pace.holds.map (·.target)).filter (fun t => decide (q.met < t)))
        (j.boundaryFrom k p c (c - q.lapStart + 2) (q.lapStart + q.length) j.due pend).getD plain
    | _, _, _ => plain
/-- The send direction moves a logical lane to a spare: announced, or the link goes down with none left (R214). One swap at a time has a
boundary, the others wait for theirs in order of failure (R215). -/
def State.announceSwap (s : State) (l : LinkId) (n : Fin 16) (kind : LaneFault) : State :=
  let k := s.link l
  if k.tx.pendingSwap.any (fun x => x.lane == n) then s
  else if k.tx.spares ≤ k.tx.pendingSwap.length then s.linkDown l Code.lanesExhausted
  else
    s.modLink l (fun k => { k with tx := { k.tx with pendingSwap := k.tx.pendingSwap ++
      [{ lane := n, kind := kind, at_ := if k.tx.pendingSwap.isEmpty then some (s.swapBoundary l) else none }] } })
/-- Swap fields of a good frame. A lane whose failure the other end found is marked as that end can find it: NOISY on a request,
SHORT on an announcement (log 56). A request for the lane swapped last that comes within two link delays of its swap is of that swap, which
the receiver applied later (DESIGN CHOICE, log 144). SWAP_AT is the sender's count; an announcement of the swap the receiver applied last is of
a frame sent before it. -/
def State.swapIn (s : State) (l : LinkId) (f : FrameParts) : State :=
  let old := fun (n : Fin 16) => match (s.link l).tx.lastSwap with
    | some (m, t) => m == n && s.pace.count.toNat ≤ t + 2 * wholeBeats s.pace.grade (s.link l).delay + 2
    | none => false
  let s := match f.swapReq with
    | some n => if old n then s else s.announceSwap l n .noisy
    | none => s
  match f.swapAnn with
  | some (n, low) =>
    let own := if s.locked l then s.pace.count.toNat else f.pace0.toNat
    let a := own - own % 65536 + low
    let at_ := if a + 32768 < own then a + 65536 else if own + 32768 < a && 65536 ≤ a then a - 65536 else a
    if (s.link l).rx.lastSwap == some (n, at_) then s
    else s.modLink l (fun k =>
      let kind := match k.rx.pendingSwap.find? (fun x => x.lane == n) with
        | some x => x.kind
        | none => .short
      { k with
        rx := { k.rx with
          pendingSwap := { lane := n, kind := kind, at_ := some at_ } :: k.rx.pendingSwap.filter (fun x => x.lane != n) } })
  | none => s

/-- Does the package at a link's other end belong to this package's domain: over a tree link or a link that a job owns, or because the
rank table of a job that is armed or in RUN names its chip id (R31, R179)? -/
def State.sameDomain (s : State) (l : LinkId) : Bool :=
  s.locked l || s.jobs.any (fun j => (j.phase == .run || j.phase == .armed) && (match j.ranks with
    | some r => r.entries.contains (some (s.link l).peerChip)
    | none => false))
/-- The pace field of a good frame: the header count, the mark, the pace cell (R32, R36, R37, R40); one with a reserved CELL_KIND is ignored whole.
Until a job runs here a follower takes its parent's count from every frame of its parent, so that a domain of any depth has one count within two
mark periods (R32; DEDUCED, log 151). phase is the mark's arrival against this package's beat edge, signed in 1/256 beat; the fractional link delay
is taken off it (R37, R223). -/
def State.paceIn (s : State) (l : LinkId) (f : FrameParts) (phase : BitVec 16) : State :=
  let beats := wholeBeats s.pace.grade (s.link l).delay
  let want : Int := (s.pace.count.toNat : Int) - beats
  let diff : Int := (f.pace0.toNat : Int) - want
  let running := s.jobs.any (fun j => j.phase == .run)
  if 3 < fld f.pace1 47 44 then s.modPace (fun p => { p with badCell := satInc p.badCell })
  else
  let s := if s.sameDomain l && s.pace.adopted && running && (diff < -1 || 1 < diff) then s.domainFault Code.drift else s
  let fromParent := match s.pace.domain with
    | some d => d.parent == some l
    | none => false
  let s := if fromParent && (!running || !s.pace.adopted) then
      s.modPace (fun p => { p with adopted := true, count := BitVec.ofNat 64 (f.pace0.toNat + beats) })
    else s
  let s := if bit f.pace1 63 && fromParent then
      let off : Int := signed 15 (fld f.pace1 62 48) + signed 16 phase.toNat - fracBeats s.pace.grade (s.link l).delay
      let s := s.modPace (fun p =>
        { p with offset := off, missedMarks := 0 })
      if off < -256 ∨ 256 < off then s.domainFault Code.drift else s
    else s
  s.onPaceCell l f.pace1

/-- Was every byte that a frame had corrected on one physical lane? -/
def Lanes.onlyOn (k : Lanes) (fixed : List (Fin 16)) (i : LaneIx) : Bool := fixed.all (fun n => k.logical[n] == i)
/-- A bad frame: counted, and a replay request (R200, R203); sound: every codeword of it decoded; fixed: the logical lanes of the bytes that were
corrected (R213). -/
def Link.badFrame (k : Link) (sound : Bool) (fixed : List (Fin 16)) : Link :=
  { k with
    frameBad := satInc k.frameBad, rrOut := k.rrOut + 1, ackOut := k.accepted, sinceAck := 0, ackFrom := none, badRun := k.badRun + 1
    heard := k.heard + 1
    uncorrRun := Vector.ofFn (fun i : LaneIx => if sound || !k.rx.onlyOn fixed i then 0 else k.uncorrRun[i] + 1) }
/-- A good frame has come: no run of bad ones stands (R196, R213). -/
def Link.goodFrame (k : Link) : Link := { k with badRun := 0, uncorrRun := Vector.replicate 18 0 }
/-- Count corrected bytes on the physical lanes that carried them (R200). -/
def Lanes.countFixed (k : Lanes) (ls : List (Fin 16)) : Lanes :=
  { k with errors := ls.foldl (fun e n => vmod e k.logical[n] (· + 1)) k.errors }

/-- A sequenced frame is accepted: the carried ACK_SEQ takes it in at the 16th since the last update (R203, R204). -/
def Link.accept (k : Link) (seq : W16) (count : Nat) : Link :=
  let now := 15 ≤ k.sinceAck
  { k with
    expectSeq := k.expectSeq + 1, accepted := seq
    ackOut := if now then seq else k.ackOut
    sinceAck := if now then 0 else k.sinceAck + 1
    ackFrom := if now then none else some (k.ackFrom.getD count) }

/-- The count of the slot in which a frame was sent: within one beat the elastic buffer presents it at the beat of its own count, else
the receiver's own count less the link delay tells it (R36, R167, R197). -/
def State.sentAt (s : State) (l : LinkId) (header : Nat) : Nat :=
  let own := s.pace.count.toNat - wholeBeats s.pace.grade (s.link l).delay
  if header ≤ own + 1 && own ≤ header + 1 then header else own

/-- The receiver's fill changes with the first frame that was sent at the new grade (R196). -/
def Link.fillAt (k : Link) (count : Nat) : Link :=
  match k.regrade with
  | some (due, g) => if due ≤ count then { k with gap := g, regrade := none } else k
  | none => k
/-- One frame is presented: decoded and checked, and what it carries is taken (R200). -/
def State.present (s : State) (l : LinkId) (frame : RawFrame) (phase : BitVec 16) : State :=
  let d := decodeLinkFrame frame
  let s := s.modLink l (fun k =>
    { k.fillAt s.pace.count.toNat with sincePresented := if s.locked l then some 0 else none, rx := k.rx.countFixed d.fixed })
  if !d.good then s.modLink l (·.badFrame d.sound d.fixed)
  else
    let f := d.parts
    let k := s.link l
    if f.epoch != k.partnerEpoch then s.modLink l (fun k => { k.goodFrame with epochDrop := satInc k.epochDrop })
    else
      match (s.modLink l (fun k => { k.goodFrame with gap := f.gap, heard := f.pace0.toNat })).ackIn l f with
      | (s, false) => s
      | (s, true) =>
        let s := ((s.modLink l (fun k => k.creditIn f)).swapIn l f).paceIn l f phase
        let c := s.sentAt l f.pace0.toNat
        if !s.up l then s
        else if !f.sequenced then s.bodyIn l c f.body f.replay
        else
          let k := s.link l
          if f.seq = k.expectSeq then (s.modLink l (fun k => k.accept f.seq s.pace.count.toNat)).bodyIn l c f.body f.replay
          else if (f.seq - k.expectSeq).toNat < 32768 then s.modLink l (fun k => { k with outOfSeq := satInc k.outOfSeq })
          else s.modLink l (fun k => { k with dup := satInc k.dup })

/-- A frame that has come one beat early waits for its beat (R197). -/
def State.early (s : State) (l : LinkId) (frame : RawFrame) : Bool :=
  s.locked l && (decodeLinkFrame frame).parts.pace0.toNat == s.pace.count.toNat + 1 - wholeBeats s.pace.grade (s.link l).delay
/-- Present the frames of the elastic buffer whose beat has come, in the order in which they arrived. -/
def State.presentDue : Nat → State → LinkId → State
  | 0, s, _ => s
  | n + 1, s, l =>
    match (s.link l).elastic with
    | [] => s
    | (f, phase) :: rest =>
      if !s.up l || s.early l f then s
      else presentDue n ((s.modLink l (fun k => { k with elastic := rest })).present l f phase) l

/-- A beat ends on a link. In locked mode the buffer has a frame for every beat, within the one beat of R36; when it is empty for two beats in
a row, a frame is more than one beat late: DRIFT (R36, R197). The count begins with the first frame presented in locked mode (DEDUCED, log 131). -/
def State.bufferBeat (s : State) (l : LinkId) : State :=
  match (s.link l).sincePresented with
  | none => s
  | some n =>
    if !s.up l || !s.locked l then s.modLink l (fun k => { k with sincePresented := none })
    else if 2 ≤ n then (s.modLink l (fun k => { k with sincePresented := none })).domainFault Code.drift
    else s.modLink l (fun k => { k with sincePresented := some (n + 1) })

/-- FRAME_RECEIVE: one frame arrives on a link. It passes through the elastic buffer of 8 frames; one that finds it full is lost, and DRIFT
is logged (R197, R200). -/
def execFrameReceive (l : LinkId) (frame : RawFrame) (phase : BitVec 16) (s : State) : Out :=
  .next (
    if !s.up l then s
    else if 8 ≤ (s.link l).elastic.length then s.domainFault Code.drift
    else (s.modLink l (fun k => { k with elastic := k.elastic ++ [(frame, phase)] })).presentDue 8 l)

/-! Timers (R204, R207, R210). -/

/-- ACK_UPDATE: 128 beats since the oldest frame accepted but not yet acknowledged came (R204). -/
def execAckUpdate (l : LinkId) (s : State) : Out :=
  .next (if s.up l && (s.link l).ackFrom.any (fun c => decide (c + 128 ≤ s.pace.count.toNat)) then
      s.modLink l (fun k => { k with ackOut := k.accepted, sinceAck := 0, ackFrom := none })
    else s)

/-- REPLAY_TIMEOUT: the timer runs while a frame is unacknowledged and the backlog is empty; the eighth in a row takes the link
down (R207). -/
def execReplayTimeout (l : LinkId) (s : State) : Out :=
  .next (
    let k := s.link l
    if !s.up l || k.unacked.isEmpty || !k.backlog.isEmpty then s
    else if 7 ≤ k.timeouts then s.linkDown l Code.ackLost
    else
      s.modLink l (fun k =>
        { k with
          timeouts := k.timeouts + 1
          replayPtr := k.unacked.head?.map (fun e => e.seq.toNat) }))

/-- Does a link hold a sequenced frame of a job that its partner has not acknowledged? -/
def Link.unackedOf (k : Link) (j : Job) : Bool :=
  k.unacked.any (fun e => e.body.hasJob && e.body.domain == j.domainId && e.body.job == j.index)
/-- Has every sequenced frame that a job has sent been acknowledged (R210)? -/
def State.acknowledged (s : State) (j : Job) : Bool := s.links.toList.all (fun k => k.owner != some j.id || !k.unackedOf j)
/-- Is a job at its completion or at a paused sequence, with frames of the link still unacknowledged (R210)? -/
def State.awaitsAcks (s : State) (l : LinkId) : Bool :=
  match s.ownerRun l with
  | some j => (s.link l).unackedOf j && (match j.lap with | some q => q.paused || q.ended | none => false)
  | none => false
/-- SPILL_ABANDONED: the frames of a completing job stayed unacknowledged for 1 ms, or the partition of the link's SPILL region has faulted
and the spilled entries are abandoned (R210). -/
def execSpillAbandoned (l : LinkId) (s : State) : Out :=
  .next (if s.up l && (s.awaitsAcks l || (s.link l).spillLost) then s.linkDown l Code.spillAbandoned else s)

end Sys2Proof.Machine
end

