-- ==== Sys2Proof/Machine/Digest.lean ====
section
/-! DEFINITION. The start handshake between neighbours: digest cells (R182), the deadline (R183), job-abort cells (R183, R188). -/

namespace Sys2Proof.Machine

/-! Digests (R182). -/

/-- The digest of a set over given tables, ending with a rank. -/
def digestOf (k : PlanSection) (p : PlanDef) (t : TableSet) (tables : List Nat) (rank : BitVec 13) : BitVec 128 :=
  let segs := fun (n : Nat) => (t.segsOf n).flatMap (fun g =>
    natLE 1 (segKind g) ++ natLE 2 (segLen g - 1) ++
      natLE 2 (if segKind g == Seg.burst then (match t.xfer? (segXfer g) with | some y => y.number.toNat | none => 0) else 0))
  let bs := natLE 1 p.planId ++ natLE 2 k.loopEntry ++ p.seq.flatMap (fun e => natLE 4 e.toNat)
    ++ tables.flatMap (fun n => natLE 1 n ++ natLE 4 (k.len n) ++ natLE 4 (t.segsOf n).length ++ segs n)
    ++ natLE 2 rank.toNat
  BitVec.ofNat 128 (leNat ((sha384 bs).take 16))
/-- Indices that the sequence of a plan names, and indices that a set holds, ascending. -/
def PlanDef.named (p : PlanDef) : List Nat := (List.range 64).filter (fun n => p.seq.any (fun e => seqTable e == n))
def TableSet.held (t : TableSet) : List Nat := (List.range 64).filter t.holds
def setRank (t : TableSet) (own : BitVec 13) : BitVec 13 := if t.rx then t.peerRank else own
def liveDigest (k : PlanSection) (p : PlanDef) (t : TableSet) (own : BitVec 13) : BitVec 128 := digestOf k p t p.named (setRank t own)
def fullDigest (k : PlanSection) (p : PlanDef) (t : TableSet) (own : BitVec 13) : BitVec 128 := digestOf k p t t.held (setRank t own)

/-- The link sets of every plan of a job, with their plans. -/
def Job.linkSets (j : Job) : List (PlanDef × TableSet) :=
  match j.image.plan with
  | some k => k.plans.flatMap (fun p => (p.sets.filter (fun t => !t.isRing)).map (fun t => (p, t)))
  | none => []

/-- Send the digest cells of an armed job on one link. -/
def State.sendDigests (s : State) (j : Job) (l : LinkId) : State :=
  match j.image.plan, j.pace with
  | some k, some b =>
    if !s.up l then s
    else
      (j.linkSets.filter (fun x => x.2.onLink l)).foldl (fun s x =>
        s.queueCell l
          { address := mkFa true (s.link l).peerChip 0
            head := mkHead CellKind.management 2 true s.chip 0 s.mgt.epoch b.jobIndex b.domainId
            data := mkData ([1, BitVec.ofNat 8 x.1.planId, BitVec.ofNat 8 (b2n x.2.rx), 0] ++ natLE 2 j.rank.toNat ++ [0, 0]
              ++ natLE 8 b.startCount ++ natLE 16 (liveDigest k x.1 x.2 j.rank).toNat ++ natLE 16 (fullDigest k x.1 x.2 j.rank).toNat) }) s
  | _, _ => s

/-- The peer's digest that faces a set. -/
def Job.facing (j : Job) (p : PlanDef) (t : TableSet) (start : Nat) : Option DigestCell :=
  j.digests.find? (fun d => t.onLink d.link && d.planId == p.planId && d.rx != t.rx && d.startCount == start)

/-- How the comparisons of an armed start stand. -/
inductive DigestState where
  | waiting | mismatch (l : LinkId) | done (latent : Bool)
  deriving DecidableEq, Repr

/-- What the digests of the links of a job's plans that are now UP say. One that goes down while the start waits is looked at no more, but its fall
ends no wait by itself (DESIGN CHOICE, log 164: R182 does not say whether its digest is still needed). -/
def State.digestState (s : State) (j : Job) (k : PlanSection) (b : PaceBlock) : DigestState :=
  let need := j.linkSets.filter (fun x => s.up (finOf 6 x.2.link.toNat))
  let seen := need.filterMap (fun x => (j.facing x.1 x.2 b.startCount).map (fun d => (x, d)))
  match seen.find? (fun y => y.2.live != liveDigest k y.1.1 y.1.2 j.rank) with
  | some y => .mismatch (finOf 6 y.1.2.link.toNat)
  | none =>
    if seen.length < need.length then .waiting
    else .done (seen.any (fun y => y.2.full != fullDigest k y.1.1 y.1.2 j.rank))

/-- Compare what has arrived for an armed start whose completion is not yet written (R182, R183). -/
def State.compareDigests (s : State) (id : Nat) : State :=
  match s.job? id with
  | none => s
  | some j =>
    match j.startDesc, j.pace with
    | some d, some b =>
      if j.phase != .armed then s
      else
        let st := match j.image.plan with
          | some k => s.digestState j k b
          | none => .done false
        match st with
        | .waiting => s
        | .mismatch l => ((s.logAt Code.planMismatch j.fn.val { Loc.base 6 with link := l.val, part := j.lead.val })).refuseStart j
            Status.planMismatch Code.planMismatch Code.planMismatch none
        | .done latent =>
          let s := if latent then s.logs Code.planLatent j.fn.val else s
          let s := s.modJob id (fun j => { j with startDone := true, startDesc := none })
          s.complete d { status := Status.success, detail0 := BitVec.ofNat 64 b.startCount }
    | _, _ => s

/-! Cells that arrive (R182, R183, R188). -/

/-- A cell that has been taken: the state without it, where it came from, the cell, the last ring it crossed, the die of its
last ring station, and the error that its words hold. -/
structure Taken where
  state : State
  from_ : CellFrom
  cell : Cell
  ring : Option (Fin 32)
  die : DieId
  err : Option EccErr
/-- What is taken with a unit. -/
def State.takeUnit (s : State) (u : RingUnit) : Option Taken :=
  match u.load with
  | .cell o _ c =>
    some { state := (s.modInfield (fun i => { i with transit := i.transit.erase u })).unitLeaves u, from_ := o, cell := c,
           ring := u.place.map (fun x => finOf 32 x.1), die := u.die, err := u.err }
  | .burst _ | .plot _ => none
/-- Take the first cell of a flow that has reached its stop in this package and meets a test; the cells of a flow are taken in the order in
which they were sent, and no flow waits for another (R250, R263). -/
def State.takeCell (s : State) (p : Cell → Bool) : Option Taken :=
  ((firstUnits (readyUnits none s.infield.transit []) []).find? (fun u => u.cell?.any p)).bind s.takeUnit
def isMgmtCell (n : Nat) (c : Cell) : Bool := c.kind == CellKind.management && c.mgmtType == n

/-- Does a job keep a digest cell with a START_COUNT: a loaded one does, an armed one only with its own (R182)? A PARKED job receives
nothing (R21, log 68). -/
def Job.keepsDigest (j : Job) (start : Nat) : Bool :=
  j.phase == .loaded || (j.phase == .armed && j.pace.any (fun b => b.startCount == start))
/-- The job that keeps a digest cell of a link: the link's owner. -/
def State.digestKeepers (s : State) (l : LinkId) (start : Nat) : List Nat :=
  match (s.link l).owner with
  | some id => ((s.job? id).toList.filter (·.keepsDigest start)).map (·.id)
  | none => []
/-- A digest cell as kept (R182). -/
def digestCell (l : LinkId) (bs : List Byte) : DigestCell :=
  { link := l, planId := leAt bs 1 1, rx := leAt bs 2 1 % 2 == 1, rank := BitVec.ofNat 13 (leAt bs 4 2)
    startCount := leAt bs 8 8, live := BitVec.ofNat 128 (leAt bs 16 16), full := BitVec.ofNat 128 (leAt bs 32 16) }
def Job.keepDigest (j : Job) (d : DigestCell) : Job :=
  { j with digests := d :: j.digests.filter (fun x => !(x.link == d.link && x.planId == d.planId && x.rx == d.rx)) }

/-- PLAN_DIGEST: the latest digest cell of a link is kept for its loaded job, and an armed start compares. -/
def execPlanDigest (s : State) : Out :=
  .next (match s.takeCell (isMgmtCell 1) with
    | none => s
    | some k =>
      match k.from_ with
      | .here => k.state
      | .link l =>
        let bs := k.cell.bytes
        (k.state.digestKeepers l (leAt bs 8 8)).foldl
          (fun s id => (s.modJob id (fun j => j.keepDigest (digestCell l bs))).compareDigests id) k.state)

/-- DIGEST_DEADLINE: START_COUNT - 4,096 has come with a digest missing, that of a link gone down since the last comparison included (DESIGN
CHOICE, log 164). -/
def execDigestDeadline (lead : PartId) (s : State) : Out :=
  .next (match s.jobOfLead lead with
    | none => s
    | some j =>
      match j.pace with
      | some b =>
        if j.phase == .armed && j.startDesc.isSome && b.startCount ≤ s.pace.count.toNat + 4096 then
          (s.logAt Code.peerSilent j.fn.val { Loc.base 6 with part := j.lead.val }).refuseStart j
            Status.peerSilent Code.peerSilent Code.peerSilent none
        else s
      | none => s)

/-- JOB_ABORT: an armed start for that START_COUNT disarms, a running job faults with PEER_FAULT; the cell is forwarded on the
other links. -/
def execJobAbort (s : State) : Out :=
  .next (match s.takeCell (isMgmtCell 2) with
    | none => s
    | some k =>
      let s := k.state
      let c := k.cell
      let bs := c.bytes
      let start := leAt bs 8 8
      let code : W16 := BitVec.ofNat 16 (leAt bs 16 2)
      let from_ : Option LinkId := match k.from_ with
        | .link l => some l
        | .here => none
      match s.jobs.find? (fun j => (j.phase == .armed || j.phase == .run) && (match j.pace with
          | some b => b.startCount == start && b.domainId == c.domain && b.jobIndex == c.jobIndex
          | none => false)) with
      | none => s
      | some j =>
        let r : Loc := { Loc.base 6 with part := j.lead.val, link := (match from_ with | some l => l.val | none => 7) }
        if j.phase == .armed && decide (s.pace.count.toNat < start) then
          (s.logAt Code.startAborted j.fn.val r).refuseStart j Status.startAborted
            (if j.startDesc.isNone then code else Code.startAborted) code from_
        else (s.logAt Code.peerFault j.fn.val r).jobFaultWith j Code.peerFault code from_)

end Sys2Proof.Machine
end

