-- ==== Sys2Proof/Machine/Claim.lean ====
section
/-! DEFINITION. The steps of a window descriptor (Table 13-6): the claim of its header (R310), its header's form, owner and
length (R306 to R308), the data it fetches or writes (R309), window failures (R312, R318). -/

namespace Sys2Proof.Machine

/-- Does a descriptor take its data and give its result inside a ZSH frame (channel 0, R332)? -/
def State.inFrame (s : State) (d : Desc) : Bool :=
  match d.origin with
  | .ring _ _ => false
  | .zsh p seq => match s.svc.request? p seq with
    | some r => r.channel == 0
    | none => true

/-- Descriptors of the Management Complex complete with RETRY: its firmware is not running, or a live update runs (R297, R391). -/
def State.mcRetries (s : State) : Bool := s.boot.mode != .running || s.boot.stage != .idle
/-- Those of a ring that ORDER holds back have not been taken up: they complete at once then, but for a unit in HOLD (R355). -/
def State.retryHeld (s : State) (f : FnId) (n : RingIx) : State :=
  if !s.mcRetries || s.inHold .managementComplex then s
  else
    ((s.fn f).sqs[n].held.filter (fun d => Op.ofMc d.opcode)).foldl (fun s d => s.done d Status.retry)
      (s.modSq f n (fun q => { q with held := q.held.filter (fun d => !Op.ofMc d.opcode) }))
/-- A load has been taken up and has not ended: it waits for the zeroing of a partition, waits for its header, is being written, or waits to close
(R81, R311). -/
def State.loading (s : State) : Bool :=
  s.mgt.task.isSome || s.mgt.loadHeld.isSome || s.hiu.winOps.any (fun o => o.desc.opcode == Op.load)
/-- A window offset is a multiple of 64 below 2^40 (R286, R300). -/
def winOffsetOk (w : W64) : Bool := w.toNat % 64 == 0 && decide (w.toNat < 2 ^ 40)

/-- Bus addresses of the headers that a function has claimed, those of its enabled tenant service rings among them (R327). -/
def State.claims (s : State) (f : FnId) : List Nat :=
  s.hiu.winOps.filterMap (fun o => if o.desc.fn == f then o.claim else none)
  ++ s.svc.trings.toList.filterMap (fun t => if t.vf.toNat == f.val then t.header.map (·.1) else none)
/-- Bus address of a header at a window offset. -/
def State.headerOf (s : State) (root offset : W64) : Option Nat :=
  match s.walk root offset.toNat 64 true with
  | .fail _ => none
  | .page a _ => some a
def State.headerAt (s : State) (o : WinOp) : Option Nat := s.headerOf o.root o.offset
/-- A claim can be made now of a header, with those that reached step 3 earlier and wait: they go first, for the same header, and for what is
left of the 1,024 claims where their own headers are free (R310). One that does not translate goes on to fail at step 4. -/
def State.roomFor (s : State) (f : FnId) (header : Option Nat) (ahead : List Nat) : Bool :=
  match header with
  | none => true
  | some a =>
    let held := s.claims f
    !held.contains a && !ahead.contains a
    && decide (held.length + ((ahead.filter (fun b => !held.contains b)).eraseDups).length < 1024)
/-- The headers for which others of the same function have waited at step 3 longer than a descriptor. -/
def State.ahead (s : State) (o : WinOp) : List Nat :=
  ((s.hiu.winOps.takeWhile (· != o)).filter (fun x => x.phase == .waiting && x.desc.fn == o.desc.fn)).filterMap s.headerAt
    ++ (s.hiu.headerWaits.filter (fun x => x.fn == o.desc.fn && !x.after.contains o)).filterMap (fun x => s.headerOf x.root x.offset)
/-- Whether a descriptor can claim its header now (R310). -/
def State.canClaim (s : State) (o : WinOp) : Bool := s.roomFor o.desc.fn (s.headerAt o) (s.ahead o)

/-! What beside descriptors claims headers (R327, R330, R365). -/

/-- It comes to step 3, or waits there already. -/
def State.headerWait (s : State) (u : HeaderUser) (f : FnId) (offset : W64) : HeaderWait :=
  (s.hiu.headerWaits.find? (fun x => x.user == u)).getD
    { user := u, fn := f, root := (s.fn f).winRoot, offset := offset
      after := s.hiu.winOps.filter (fun o => o.phase == .waiting && o.desc.fn == f) }
/-- Whether it can claim its header now (R310). -/
def State.mayTake (s : State) (x : HeaderWait) : Bool :=
  s.roomFor x.fn (s.headerOf x.root x.offset)
    ((s.hiu.winOps.filter (fun o => o.phase == .waiting && o.desc.fn == x.fn && x.after.contains o)).filterMap s.headerAt
      ++ ((s.hiu.headerWaits.takeWhile (· != x)).filter (fun y => y.fn == x.fn)).filterMap (fun y => s.headerOf y.root y.offset))
/-- It waits no longer. -/
def State.endWait (s : State) (u : HeaderUser) : State :=
  s.modHiu (fun h => { h with headerWaits := h.headerWaits.filter (fun x => x.user != u) })
/-- It waits, at the place it has or behind the others. -/
def State.keepWait (s : State) (x : HeaderWait) : State :=
  if s.hiu.headerWaits.contains x then s else s.modHiu (fun h => { h with headerWaits := h.headerWaits ++ [x] })

/-- A descriptor at step 3, with the WIN_ROOT it found (R301). -/
def State.winOp (s : State) (d : Desc) (part : Option PartId) : WinOp :=
  { desc := d, root := (s.fn d.fn).winRoot, offset := d.word 1, part := part, claim := none, hdr := { seq := 0, len := 0 },
    phase := .waiting }
def State.pushOp (s : State) (o : WinOp) : State := s.modHiu (fun h => { h with winOps := h.winOps ++ [o] })
def State.setOp (s : State) (o o' : WinOp) : State :=
  s.modHiu (fun h => { h with winOps := updFirst (· == o) (fun _ => o') h.winOps })
def State.dropOp (s : State) (o : WinOp) : State := s.modHiu (fun h => { h with winOps := h.winOps.erase o })

/-- OWNER_MISMATCH is counted, and logged at most once per second per function (R318). -/
def State.winMismatch (s : State) (f : FnId) : State :=
  (s.modFn f (fun x => { x with mismatch := satInc x.mismatch })).logRate (.ownerMismatch f) Code.ownerMismatch f.val

/-- What steps 4 to 7 find: the descriptor has ended, or its header is claimed with these words. -/
inductive Opened where
  | ended (s : State)
  | opened (s : State) (o : WinOp)

/-- Steps 3 to 7 of a descriptor that can claim its header now (Table 13-6): the header is translated for a 64-byte write, words
0 and 1 are read, its form and OWNER checked. -/
def State.openHeader (s : State) (o : WinOp) : Opened :=
  let d := o.desc
  let f := d.fn
  let fail := fun (w : WalkFail) =>
    Opened.ended (((s.dropOp o).winFault f w.code).complete d
      { status := w.status, detail1 := w.detail1 o.offset.toNat, fault := w.code })
  match s.walk o.root o.offset.toNat 64 true with
  | .fail w => fail w
  | .page a _ =>
    match s.hostRead a 16 with
    | none => fail { level := 4, reason := 9 }
    | some bs =>
      let w0 := leAt bs 0 8
      let w1 := leAt bs 8 8
      if headerBad o.offset.toNat w0 w1 then
        .ended (((s.dropOp o).winFault f Code.headerMalformed).complete d
          { status := Status.headerMalformed, detail1 := BitVec.ofNat 64 w1, fault := Code.headerMalformed })
      else if w0 % 4 != Owner.device then
        .ended (((s.dropOp o).winMismatch f).complete d
          { status := Status.ownerMismatch, detail1 := BitVec.ofNat 64 (w0 % 4), fault := Code.ownerMismatch })
      else
        let o' : WinOp := { o with claim := some a, hdr := { seq := nbits w0 63 32, len := nbits w1 39 0 }, phase := .reply 0 }
        .opened (s.setOp o o') o'

/-- A descriptor past step 7 waits to close. -/
def State.toClose (s : State) (o : WinOp) (status : Byte) (moved : Nat) (early : Bool) (d0 d1 : W64) (fault : W16) : State :=
  s.setOp o { o with phase := .close status o.claim moved early d0 d1 fault }

/-- Step 8: BUF_LEN against the bytes needed. -/
def State.shortBuf (s : State) (o : WinOp) (need : Nat) : State :=
  (s.winFault o.desc.fn Code.bufferShort).toClose o Status.bufferShort 0 false 0 (BitVec.ofNat 64 need) Code.bufferShort

/-- A failure of step 9 after moved bytes of whole pages. -/
def State.winCut (s : State) (o : WinOp) (moved : Nat) (f : WalkFail × Nat) : State :=
  (s.winFault o.desc.fn f.1.code).toClose o f.1.status moved true (BitVec.ofNat 64 moved) (f.1.detail1 f.2) f.1.code

/-- Fetch need bytes of data (step 9); none when the descriptor now waits to close with a failure. -/
def State.winFetch (s : State) (o : WinOp) (need : Nat) : State × Option (List Byte) :=
  match s.winRead o.root need (o.offset.toNat + 64) need with
  | (bs, none) => (s, some bs)
  | (bs, some f) => (s.winCut o bs.length f, none)
/-- Steps 8 and 9 of a descriptor that fetches. -/
def State.winTake (s : State) (o : WinOp) (need : Nat) : State × Option (List Byte) :=
  if o.hdr.len < need then (s.shortBuf o need, none) else s.winFetch o need
/-- Steps 8 and 9 of a descriptor that writes a result to the host; it then waits to close. -/
def State.winGive (s : State) (o : WinOp) (bs : List Byte) (d1 : W64) : State :=
  if o.hdr.len < bs.length then s.shortBuf o bs.length
  else
    match s.winWrite o.root bs.length (o.offset.toNat + 64) bs with
    | (s, moved, some f) => s.winCut o moved f
    | (s, moved, none) => s.toClose o 0 moved false (BitVec.ofNat 64 moved) d1 0

/-- Give a descriptor's result: to its buffer, or inside the reply. -/
def State.giveResult (s : State) (d : Desc) (o : Option WinOp) (bs : List Byte) (d1 : W64) : State :=
  match o with
  | some o => s.winGive o bs d1
  | none => s.completeWith d { status := 0, detail0 := BitVec.ofNat 64 bs.length, detail1 := d1 } bs

end Sys2Proof.Machine
end

