-- ==== Sys2Proof/Machine/Cells.lean ====
section
/-! DEFINITION. Requests and replies by cells: PUT and GET (R118, R180, R244), management reads and writes (R236, R237), the target's
checks (R67, R69, R244, R260), replies, timers (R261, R262) and counter pages (R266). -/

namespace Sys2Proof.Machine

/-! Slots and epochs (R262, R356). -/

/-- Epoch that the requests of an owner carry. -/
def State.ownerEpoch (s : State) (o : ReqOwner) : Byte :=
  match o with
  | .putGet _ p c _ => s.unitEpoch (.tile (finOf 256 (tileId p c.cmd.tile.val)))
  | .plot p => s.unitEpoch (.pointEngine (dieOfPart p))
  | .mgmt _ _ | .i3c _ | .counters _ => s.mgt.epoch
/-- Bits 15:8 of the next TAG of a slot: how often it has been reused, 0 at its first use. -/
def Infield.nextReuse (i : Infield) (mgmt : Bool) (slot : Byte) : Byte :=
  match i.reuse.find? (fun x => x.1 == mgmt && x.2.1 == slot) with
  | some x => x.2.2 + 1
  | none => 0
/-- The lowest free slot of a VC. -/
def State.freeReq (s : State) (mgmt : Bool) : Option Byte :=
  ((List.range 256).map (fun n => (BitVec.ofNat 8 n : Byte))).find? (fun n =>
    !s.infield.requests.any (fun r => r.mgmt == mgmt && r.slot == n))

/-! Sending (R259). -/

/-- Offsets of the cells of an access of n bytes. -/
def cellOffsets (n : Nat) : List Nat := (List.range (ceilDiv n 48)).map (48 * ·)
/-- A request cell: a write carries its bytes, a read asks for as many 16-byte words (log 61). -/
def requestCell (own : BitVec 13) (base : W64) (mgmt : Bool) (tag : W16) (epoch job dom : Byte) (bs : Option (List Byte)) (n off : Nat) :
    Cell :=
  let m := Nat.min 48 (n - off)
  { address := mkFa mgmt (faChip base) (faOffset base + off)
    head := mkHead (match bs with | some _ => CellKind.write | none => CellKind.readReq) (ceilDiv m 16 - 1) mgmt own tag epoch job dom
    data := match bs with
      | some bs => mkData (slice bs off m)
      | none => 0 }

/-- Open a request in a slot and send its cells; with no free slot nothing happens and it waits (R262). -/
def State.openRequest (s : State) (mgmt : Bool) (o : ReqOwner) (base : W64) (n : Nat) (bs : Option (List Byte)) (job dom : Byte) :
    Option State :=
  match s.freeReq mgmt with
  | none => none
  | some slot =>
    let reuse := s.infield.nextReuse mgmt slot
    let tag : W16 := BitVec.ofNat 16 (reuse.toNat * 256 + slot.toNat)
    let offs := cellOffsets n
    let s := s.modInfield (fun i =>
      { i with
        reuse := (mgmt, slot, reuse) :: i.reuse.filter (fun x => !(x.1 == mgmt && x.2.1 == slot))
        requests := i.requests ++ [{ mgmt := mgmt, slot := slot, reuse := reuse, owner := o, base := base, cells := offs.length,
                                     length := n, left := offs.length, refused := none, unitReset := false, linkDown := false,
                                     data := [] }] })
    let e := s.ownerEpoch o
    some (offs.foldl (fun s off => s.sendCell o.stop (requestCell s.chip base mgmt tag e job dom bs n off)) s)

/-- A COUNTER_REQ cell and its request (R266, R288). -/
def State.openCounters (s : State) (d : Desc) (chip : BitVec 13) (group page : Nat) : Option State :=
  match s.freeReq true with
  | none => none
  | some slot =>
    let reuse := s.infield.nextReuse true slot
    let tag : W16 := BitVec.ofNat 16 (reuse.toNat * 256 + slot.toNat)
    let base := mkFa true chip 0
    let s := s.modInfield (fun i =>
      { i with
        reuse := (true, slot, reuse) :: i.reuse.filter (fun x => !(x.1 == true && x.2.1 == slot))
        requests := i.requests ++ [{ mgmt := true, slot := slot, reuse := reuse, owner := .counters d, base := base, cells := 1,
                                     length := 48, left := 1, refused := none, unitReset := false, linkDown := false, data := [] }] })
    some (s.sendCell (.service 0)
      { address := base, head := mkHead CellKind.management 2 true s.chip tag s.mgt.epoch 0 0,
        data := mkData [3, BitVec.ofNat 8 group, BitVec.ofNat 8 page] })

/-! PUT and GET (R118, R180, R235, R244). -/

/-- The local reference of a PUT or GET: a used region that holds the whole range (log 58). Answers its package offset. -/
def State.localRange (s : State) (p : PartId) (i : Issued) : State × Option Nat :=
  let x := putLocal i.cmd
  let n := putLength i.cmd
  let r : Loc := { i.loc p 6 with region := some x.region }
  match s.consultOne p x.region r with
  | (s, .lost) => (s, none)
  | (s, .noMap) => (s.partJobFault p (Code.regionKind 9) r, none)
  | (s, .diverged _) => (s.partJobFault p Code.mapDiverged r, none)
  | (s, .entries es) =>
    match es.head? with
    | none => (s.partJobFault p (Code.regionKind 9) r, none)
    | some (_, e) =>
      if x.offset + n ≤ meLen e then (s, some (partBase p + meStart e + x.offset))
      else
        let bad := if x.offset < meLen e then meStart e + meLen e else meStart e + x.offset
        (s.partJobFault p (Code.regionBounds 9) { r with address := some (bad : Int) }, none)

/-- The remote fabric address: the job's package at RANK, the physical partition that JOB_PART has here. -/
def Job.remote (j : Job) (c : Cmd) : Option W64 :=
  match j.ranks.bind (fun r => (r.entries[(putRank c).toNat]?).join), j.phys (putPart c) with
  | some chip, some p => some (mkFa false chip (partBase p + putOffset c))
  | _, _ => none

/-- A PUT or GET at the front of the infield station's queue. -/
def State.putGet (s : State) (lead : PartId) (op : Nat) : State :=
  match s.jobOfLead lead with
  | none => s
  | some j =>
    match s.bindingReady j 6 op with
    | none => s
    | some (p, i, _, cause) =>
      if cause.isNone && (s.freeReq false).isNone then s
      else
        let s := s.modJob j.id (fun j => j.setBindings 6 (j.bindings 6).tail)
        match cause with
        | some c => (s.retire p i (fun id g => mkVoid c id g 0xFF) 6).settle p
        | none =>
          match j.remote i.cmd with
          | none => s.partJobFault p Code.planIsolation (i.loc p 6)
          | some base =>
            match s.localRange p i with
            | (s, none) => s
            | (s, some a) =>
              let n := putLength i.cmd
              let s := s.plotAccess p (.unit (.tile (finOf 256 (tileId p i.cmd.tile.val)))) (Stop.ofTile (tileId p i.cmd.tile.val)) a n
              let isGet := op == 4
              let (s, bs) := if isGet then (s, some none) else
                match s.fetchBytes a n (i.loc p 6) with
                | (s, some bs) => (s, some (some bs))
                | (s, none) => (s, none)
              match bs with
              | none => s
              | some bs =>
                match s.openRequest false (.putGet lead p i isGet) base n bs j.index j.domainId with
                | some t => t
                | none => s

def execPut (lead : PartId) (s : State) : Out := .next (s.putGet lead 3)
def execGet (lead : PartId) (s : State) : Out := .next (s.putGet lead 4)

/-! At the target (R260). -/

/-- Bytes that a request names. -/
def Cell.span (c : Cell) : Nat := (c.wordsM1 + 1) * 16
/-- Answer a request with a completion cell on its own VC and class. -/
def State.answer (s : State) (c : Cell) (st : Byte) (fault : W16) : State :=
  let a := completionCell s.chip c st fault c.mgmt
  let head := mkHead CellKind.completion 2 c.mgmt s.chip c.tag c.epoch c.jobIndex c.domain
  s.sendCell (Stop.ofOffset (faOffset c.address)) { a with head := head }
/-- What a ring finds in a cell that crossed it: a single-bit error is corrected and counted (R249). The answer says whether the cell goes on:
one with an uncorrectable error, and a malformed one that came on a link, is discarded (R249, R264). -/
def Taken.check (k : Taken) : State × Bool :=
  match k.ring, k.err with
  | some _, some .double => (k.state, false)
  | ring, err =>
    let s := if ring.isSome && err.isSome then
        (k.state.modInfield (fun i => { i with corrected := satInc i.corrected })).logs Code.ringCorrected 0 (k.die.val * 8)
      else k.state
    match ring with
    | some n =>
      if k.from_ != .here && s.cellBad k.cell then
        ((s.modInfield (fun i => { i with cellDrop := satInc i.cellDrop })).logRate (.cellMalformedRing n) Code.cellMalformed 0 (k.die.val * 8), false)
      else (s, true)
    | none => (s, true)

/-- What the target's check of a request finds: it passes; it is refused with a code, which is logged with its record; a fault of the
target's own job that is logged already refuses it. -/
inductive CellCheck where
  | pass
  | refuse (code : W16) (r : Loc)
  | faulted (code : W16)
  deriving DecidableEq, Repr

/-- The target's check (Tables 03-8, R69, R70, R244). A management cell is not checked against maps: it reads any allocatable byte and
writes no partition in RUN. Every record of a failed cell carries source B (log 128). -/
def State.cellCheck (s : State) (c : Cell) : State × CellCheck :=
  let a := faOffset c.address
  let n := c.span
  let p := partOfOffset a
  let write := c.kind == CellKind.write
  let r : Loc := { Loc.base 8 with part := p.val, address := some ((a : Int) - partBase p), access := if write then Kind.landing else Kind.tileRead }
  let bad := Code.cellRegion 11
  if c.mgmt then
    (s, if 2 ^ 36 < a + n then .refuse bad r
        else if write && ((s.part p).st == .run || (s.part (partOfOffset (a + n - 1))).st == .run) then .refuse bad r
        else .pass)
  else if (s.part p).mapA.isNone then (s, .refuse (Code.regionKind 11) r)
  else
    let holds := match (s.jobOf p).bind Job.pace with
      | some b => b.domainId == c.domain && b.jobIndex == c.jobIndex
      | none => false
    if !holds then (s, .refuse bad r)
    else
      match s.consultAll p r with
      | (s, .lost) => (s, .faulted Code.goldenLost)
      | (s, .noMap) => (s, .refuse (Code.regionKind 11) r)
      | (s, .diverged i) => (s.partJobFault p Code.mapDiverged { r with region := some i }, .faulted Code.mapDiverged)
      | (s, .entries es) =>
        match regionOf es (a - partBase p) 1 with
        | some (i, e) =>
          let r := { r with region := some i }
          let ok := if write then mePurpose e == Purpose.landing else meHas e Kind.tileRead
          let stop := meStart e + meLen e
          (s, if !ok then .refuse bad r
              else if stop < a - partBase p + n then .refuse bad { r with address := some (stop : Int) }
              else .pass)
        | none => (s, .refuse bad r)

/-- Log a refusal in a partition: a fault of class 2 or 3 of a job that has faulted here is only counted (R349). -/
def State.logOfJob (s : State) (p : PartId) (code : W16) (r : Loc) : State :=
  if (s.jobOf p).any (fun j => j.phase == .faulted) then s.modLog (fun g => { g with suppressed := satInc g.suppressed })
  else s.logAt code (s.vfOf p) r
/-- CELL_REQUEST: a write cell or read request reaches its target plot; a tile or partition in HOLD answers UNIT_RESET (R355). -/
def execCellRequest (s : State) : Out :=
  .next (match s.takeCell (fun c => c.kind == CellKind.write || c.kind == CellKind.readReq) with
    | none => s
    | some k =>
      let c := k.cell
      match k.check with
      | (s, false) => s
      | (s, true) =>
        let a := faOffset c.address
        let p := partOfOffset a
        let r : Loc := { Loc.base 8 with part := p.val, address := some ((a : Int) - partBase p) }
        if s.inHold (.tile (finOf 256 (a / 2 ^ 28))) || (s.part p).st == .hold then s.answer c Status.unitReset 0
        else
          match s.cellCheck c with
          | (s, .refuse code r) => (s.logOfJob p code r).answer c Status.notPermitted code
          | (s, .faulted code) => s.answer c Status.notPermitted code
          | (s, .pass) =>
            if c.kind == CellKind.write then
              (match s.store a (c.bytes.take c.span) r with
               | (s, true) => s.answer c Status.success 0
               | (s, false) => s.answer c Status.notPermitted Code.sramUncorrectable)
            else
              match s.fetchBytes a c.span r with
              | (s, none) => s.answer c Status.notPermitted Code.sramUncorrectable
              | (s, some bs) =>
                s.sendCell (Stop.ofOffset a)
                  { address := mkFa c.mgmt c.src a
                    head := mkHead CellKind.readData c.wordsM1 c.mgmt s.chip c.tag c.epoch c.jobIndex c.domain
                    data := mkData bs })

/-! At the requester (R261, R262). -/

/-- What one reply adds to its request. -/
def Request.take (r : Request) (c : Cell) : Request :=
  let r := { r with left := r.left - 1 }
  let a := faOffset c.address
  if c.kind == CellKind.completion then
    let st : Byte := byteAt c.data 0
    if st = Status.success then r
    else if st = Status.unitReset then { r with unitReset := true }
    else if st = Status.linkDown then { r with linkDown := true }
    else { r with refused := some (r.refused.getD a) }
  else if c.kind == CellKind.readData then { r with data := Mem.write r.data (a - faOffset r.base) (c.bytes.take c.span) }
  else { r with data := Mem.write r.data 0 c.bytes }

/-- A GET whose cells have all succeeded lands its data in the local reference (R261, log 60). -/
def State.landGet (s : State) (r : Request) : State × Bool :=
  match r.owner with
  | .putGet _ p i true =>
    if r.refused.isSome || r.unitReset || r.linkDown then (s, true)
    else
      match s.localRange p i with
      | (s, none) => (s, false)
      | (s, some a) => s.store a (Mem.read r.data 0 r.length) (i.loc p 6)
  | _ => (s, true)

/-- CELL_REPLY: a read-data or completion cell, or COUNTER_DATA, reaches its requester. -/
def execCellReply (s : State) : Out :=
  .next (match s.takeCell (fun c => c.kind == CellKind.readData || c.kind == CellKind.completion
      || (c.kind == CellKind.management && c.mgmtType == 4)) with
    | none => s
    | some k =>
     let c := k.cell
     match k.check with
     | (s, false) => s
     | (s, true) =>
      let vc := if c.kind == CellKind.completion then bit (byteAt c.data 1) 0 else c.mgmt
      match s.infield.requests.find? (fun r => r.mgmt == vc && r.slot.toNat == c.tag.toNat % 256
          && r.reuse.toNat == c.tag.toNat / 256 && s.ownerEpoch r.owner == c.epoch) with
      | none => s.modInfield (fun i => { i with staleCount := satInc i.staleCount })
      | some r =>
        let r2 := r.take c
        let s := s.modInfield (fun i => { i with requests := updFirst (· == r) (fun _ => r2) i.requests })
        if r2.left != 0 then s
        else
          match s.landGet r2 with
          | (s, true) => s.finishRequest r2 false
          | (s, false) => s.modInfield (fun i => { i with requests := i.requests.erase r2 }))

/-- CELL_TIMEOUT: a request's timer reaches RING_CELL_TIMEOUT. -/
def execCellTimeout (mgmt : Bool) (slot : Byte) (s : State) : Out :=
  .next (match s.infield.requests.find? (fun r => r.mgmt == mgmt && r.slot == slot) with
    | none => s
    | some r => s.finishRequest r true)

/-! Counter pages (R266, Table 11-6). -/

/-- The five counters of a page of the snapshot; none for an undefined group or page. -/
def Infield.page (i : Infield) (group page : Nat) : Option (Vector W64 5) :=
  if group = 0 then
    (if page = 0 then some #v[i.snapPace, i.snapLap, i.snapSlips, i.snapGrade, i.snapWorst] else none)
  else if 1 ≤ group ∧ group ≤ 6 then
    (if page < 3 then
      let k := i.snapLinks[finOf 6 (group - 1)]
      some (Vector.ofFn (fun n : Fin 5 => k.toList.getD (5 * page + n.val) 0))
    else none)
  else if 16 ≤ group ∧ group ≤ 47 ∧ page < 2 then
    some (match i.snapRings.find? (fun x => x.1 == group - 16 + 32 * page) with
      | some x => x.2
      | none => Vector.replicate 5 0)
  else none
/-- The 48 bytes of COUNTER_DATA. -/
def Infield.counterData (i : Infield) (group page : Nat) : List Byte :=
  let (snap, v) := match i.page group page with
    | some v => (i.snap.toNat, v)
    | none => (0, Vector.replicate 5 0)
  [4, BitVec.ofNat 8 group, BitVec.ofNat 8 page, 0] ++ natLE 4 snap ++ v.toList.flatMap (fun w => natLE 8 w.toNat)

/-- Does the management firmware serve requests now (R355, R366, R391)? -/
def State.fwServes (s : State) : Bool := s.boot.mode == .running && s.boot.stage != .switching && !s.inHold .managementComplex

/-- COUNTER_REQ: answered with COUNTER_DATA from the snapshot. -/
def execCounterReq (s : State) : Out :=
  .next (if !s.fwServes then s
    else
      match s.takeCell (isMgmtCell 3) with
      | none => s
      | some k =>
        let c := k.cell
        match k.check with
        | (s, false) => s
        | (s, true) =>
          s.sendCell (.service 0)
            { address := mkFa true c.src (faOffset c.address)
              head := mkHead CellKind.management 2 true s.chip c.tag c.epoch c.jobIndex c.domain
              data := mkData (s.infield.counterData (byteAt c.data 1).toNat (byteAt c.data 2).toNat) })

/-! Management descriptors (R236, R237, R259). -/

/-- The fabric address that a management address names; none when it is refused (R236, R237). An access that runs past the
package's 2^36 bytes is refused too (DESIGN CHOICE, log 183). -/
def State.mgmtAddress (s : State) (a : W64) (board : Bool) (n : Nat) : Option W64 :=
  if !faClass a || 2 ^ 36 < faOffset a + n then none
  else if board then
    let pos := fld a 38 36
    let c := s.chip
    let low := fun (x b : Nat) => x / 2 * 2 + b
    let t := mkChip (low (chipX c) (pos % 2)) (low (chipY c) (pos / 2 % 2)) (low (chipZ c) (pos / 4))
    if fld a 62 39 == 0 && s.inExtents t then some (mkFa true t (faOffset a)) else none
  else if faZero a && s.inExtents (faChip a) then some a
  else none

def Desc.mgmtLen (d : Desc) : Nat := fld (d.word 3) 11 0
/-- Fields of MGMT_READ and MGMT_WRITE (Table 12-8). -/
def State.mgmtFieldsOk (s : State) (d : Desc) : Bool :=
  d.word0Ok && (if s.inFrame d then d.word 1 == 0 else winOffsetOk (d.word 1)) && fld (d.word 3) 62 12 == 0
  && d.mgmtLen % 16 == 0 && decide (16 ≤ d.mgmtLen) && decide (d.mgmtLen ≤ 2048)
  && d.word 4 == 0 && d.word 5 == 0 && d.word 6 == 0 && d.word 7 == 0

/-- Send the cells of a management descriptor whose buffer is open, or that has none. -/
def State.mgmtSend (s : State) (d : Desc) (base : W64) (bs : Option (List Byte)) : Option State :=
  s.openRequest true (.mgmt d bs.isNone) base d.mgmtLen bs 0 0

/-- A management descriptor from step 4 on (Table 13-6); unchanged while no slot is free. Its address is judged again, by the topology and chip id
as they now are; one that is refused then hands its buffer back (R237, R311). -/
def State.mgmtGo (s : State) (o : WinOp) : State :=
  let d := o.desc
  if (s.freeReq true).isNone then s
  else
    match s.openHeader o with
    | .ended s => s
    | .opened s o =>
      match s.mgmtAddress (d.word 2) (bit (d.word 3) 63) d.mgmtLen with
      | none => (s.logs Code.addressInvalid).complete d { status := Status.badDescriptor, fault := Code.addressInvalid }
      | some base =>
        if d.opcode = Op.mgmtRead then
          (if o.hdr.len < d.mgmtLen then s.shortBuf o d.mgmtLen else (s.mgmtSend d base none).getD s)
        else
          match s.winTake o d.mgmtLen with
          | (s, none) => s
          | (s, some bs) => ((s.setOp o { o with phase := .reply bs.length }).mgmtSend d base (some bs)).getD s

/-! Taking descriptors from the unit queues (R285, R287). -/

/-- The front descriptor of the Management Complex's queue, when it has the row's opcode. -/
def State.takeMc (s : State) (op : Nat) : Option (Desc × State) :=
  match s.hiu.mcQueue with
  | d :: rest => if d.opcode == op && s.fwServes then some (d, s.modHiu (fun h => { h with mcQueue := rest })) else none
  | [] => none
/-- The front descriptor of the Ring Engine's queue, when it has the row's opcode. -/
def State.takeRe (s : State) (op : Nat) : Option (Desc × State) :=
  match s.hiu.reQueue with
  | d :: rest => if d.opcode == op then some (d, s.modHiu (fun h => { h with reQueue := rest })) else none
  | [] => none
/-- PF0's SETUP_LOCK gates the descriptors of the tenants (R393). -/
def State.gated (s : State) (d : Desc) : Bool := d.fn != 0 && !(s.fn 0).setupLock

/-- MGMT_READ and MGMT_WRITE. -/
def State.mgmtDesc (s : State) (op : Nat) : State :=
  match s.takeMc op with
  | none => s
  | some (d, t) =>
    if !s.mgmtFieldsOk d then t.done d Status.badDescriptor
    else if d.fn != 0 then t.done d Status.notPermitted
    else
      match s.mgmtAddress (d.word 2) (bit (d.word 3) 63) d.mgmtLen with
      | none => (t.logs Code.addressInvalid).complete d { status := Status.badDescriptor, fault := Code.addressInvalid }
      | some base =>
        if (s.freeReq true).isNone then s
        else if s.inFrame d then
          (if op = Op.mgmtRead then (t.mgmtSend d base none).getD s
           else
             let bs := match d.origin with
               | .zsh p seq => match s.svc.request? p seq with
                 | some r => slice r.payload 64 d.mgmtLen
                 | none => []
               | .ring _ _ => []
             if bs.length < d.mgmtLen then t.done d Status.badDescriptor else (t.mgmtSend d base (some bs)).getD s)
        else
          let o := t.winOp d none
          let u := t.pushOp o
          if u.canClaim o then u.mgmtGo o else u

def execMgmtRead (s : State) : Out := .next (s.mgmtDesc Op.mgmtRead)
def execMgmtWrite (s : State) : Out := .next (s.mgmtDesc Op.mgmtWrite)

end Sys2Proof.Machine
end

