-- ==== Sys2Proof/Machine/Image.lean ====
section
/-! DEFINITION. The image container (R76, Tables 04-1 to 04-3), its form (R77), signature (R78) and features (R79, R80). -/

namespace Sys2Proof.Machine

/-- Why a load is refused: the completion's status, the cause that is logged, and what the log entry carries: a located record, or
a number in place of the pace count (log 70). -/
structure Denial where
  status : Byte
  code : W16
  loc : Option Loc := none
  val : Option Nat := none
  deriving DecidableEq, Repr

/-- A check: none when it passes. -/
abbrev Check := Option Denial
/-- The first failure. -/
def firstOf (cs : List Check) : Check := (cs.filterMap id).head?
/-- A refusal with IMAGE_REFUSED, located in a partition (R66). -/
def refuse (code : W16) (p : Nat) : Denial :=
  { status := Status.imageRefused, code := code, loc := some { Loc.base 10 with part := p } }
def Denial.at (d : Denial) (region : Option Nat) : Denial := { d with loc := d.loc.map (fun r => { r with region := region }) }

/-! The header and the section table. -/

/-- A section table entry (Table 04-2) with its number in the table. -/
structure Sect where
  num : Nat
  kind : Nat
  part : Nat
  index : Nat
  off : Nat
  len : Nat
  target : W64
  deriving DecidableEq, Repr

/-- Section types (Table 04-3). -/
def Sec.stream : Nat := 1
def Sec.graph : Nat := 2
def Sec.map : Nat := 3
def Sec.parkMap : Nat := 4
def Sec.queues : Nat := 5
def Sec.plan : Nat := 6
def Sec.work : Nat := 7
def Sec.hurdles : Nat := 8
def Sec.point : Nat := 9
def Sec.init : Nat := 10
def Sec.debug : Nat := 15
def Sec.perPart : List Nat := [Sec.stream, Sec.graph, Sec.map, Sec.queues, Sec.point, Sec.init]
def Sec.perJob : List Nat := [Sec.parkMap, Sec.plan, Sec.work, Sec.hurdles]

/-- Offset of a section table entry. -/
def entryAt (n : Nat) : Nat := 256 + 32 * n
def Sect.ofBytes (bs : List Byte) (n : Nat) : Sect :=
  let a := entryAt n
  { num := n, kind := leAt bs a 1, part := leAt bs (a + 1) 1, index := leAt bs (a + 2) 1, off := leAt bs (a + 8) 8,
    len := leAt bs (a + 16) 8, target := BitVec.ofNat 64 (leAt bs (a + 24) 8) }
def Sect.region (x : Sect) : Nat := fld x.target 9 0
def Sect.tgtOff (x : Sect) : Nat := fld x.target 42 10
def Sect.body (bs : List Byte) (x : Sect) : List Byte := slice bs x.off x.len

/-- The header's fields (Table 04-1). -/
structure Head where
  size : Nat
  sections : Nat
  parts : Nat
  park : Nat
  minGrade : Nat
  slipBudget : Nat
  waitLimit : Nat
  major : Nat
  minor : Nat
  req : BitVec 128
  deriving DecidableEq, Repr

def imageSize (bs : List Byte) : Nat := leAt bs 8 8
def Head.ofBytes (bs : List Byte) : Head :=
  { size := imageSize bs, sections := leAt bs 16 2, parts := leAt bs 18 1, park := leAt bs 19 1, minGrade := leAt bs 20 1,
    slipBudget := leAt bs 22 2, waitLimit := leAt bs 24 2, major := leAt bs 6 1, minor := leAt bs 7 1,
    req := BitVec.ofNat 128 (leAt bs 32 16) }
def imageSects (bs : List Byte) : List Sect := (List.range (Head.ofBytes bs).sections).map (Sect.ofBytes bs)
def sectsOf (ss : List Sect) (kind part : Nat) : List Sect := ss.filter (fun x => x.kind == kind && x.part == part)

/-! Form (R77): each rule gives the offsets of the fields that break it. -/

/-- An offset when a rule is broken. -/
def badIf (b : Bool) (off : Nat) : List Nat := if b then [off] else []
/-- The offset of a Rsvd field that is not zero. -/
def rsvdBad (bs : List Byte) (off len : Nat) : List Nat := badIf ((List.range len).any (fun i => bs.getD (off + i) 0 != 0)) off

def headBad (bs : List Byte) : List Nat :=
  let h := Head.ofBytes bs
  let size := decide (1024 ≤ h.size) && decide (h.size ≤ 2 ^ 36) && decide (h.size ≤ bs.length)
  badIf (leAt bs 0 4 != 0xC8F00E01) 0 ++ badIf (leAt bs 4 2 != 1) 4 ++ badIf (!size) 8
  ++ badIf (h.sections == 0 || decide (256 < h.sections) || (size && decide (h.size < 512 + 32 * h.sections))) 16
  ++ badIf (h.parts == 0 || decide (8 < h.parts)) 18 ++ badIf (h.park != 0xFF && decide (h.parts ≤ h.park)) 19
  ++ badIf (decide (7 < h.minGrade)) 20
  ++ rsvdBad bs 21 1 ++ rsvdBad bs 26 6 ++ rsvdBad bs 48 16 ++ rsvdBad bs 96 160

/-- Does a section's JOB_PART fit its type? -/
def Sect.partOk (x : Sect) (parts : Nat) : Bool :=
  if Sec.perPart.contains x.kind then decide (x.part < parts)
  else if Sec.perJob.contains x.kind then x.part == 0xFF
  else decide (x.part < parts) || x.part == 0xFF
/-- Length rules; tables is TABLE_COUNT of the PLAN section, when there is one. -/
def Sect.lenOk (x : Sect) (tables : Option Nat) : Bool :=
  if x.kind = Sec.stream then x.len % 64 == 0 && decide (64 ≤ x.len) && decide (x.len ≤ 64 * 2 ^ 20)
  else if x.kind = Sec.queues then x.len % 8 == 0
  else if x.kind = Sec.hurdles then x.len % 16 == 0
  else if x.kind = Sec.work then
    match tables with
    | some t => x.len == 4 * t
    | none => x.len == 0
  else true
/-- The rules of one section by itself, and against the entries before it. -/
def sectBad (bs : List Byte) (h : Head) (ss : List Sect) (tables : Option Nat) (x : Sect) : List Nat :=
  let a := entryAt x.num
  let known := Sec.perPart.contains x.kind || Sec.perJob.contains x.kind || x.kind == Sec.debug
  let before := ss.filter (fun y => decide (y.num < x.num))
  if !known then [a]
  else
    badIf (!x.partOk h.parts) (a + 1)
    ++ badIf (if x.kind = Sec.stream then decide (3 < x.index) || before.any (fun y => y.kind == Sec.stream && y.part == x.part && y.index == x.index)
        else x.index != 0) (a + 2)
    ++ rsvdBad bs (a + 3) 5
    ++ badIf (x.off % 64 != 0 || decide (x.off < entryAt h.sections) || decide (h.size < x.off + x.len + 256)
        || before.any (fun y => overlaps x.off x.len y.off y.len)) (a + 8)
    ++ badIf (!x.lenOk tables) (a + 16)
    ++ (if x.kind == Sec.stream || x.kind == Sec.graph || x.kind == Sec.init then badIf (fld x.target 63 43 != 0) (a + 24)
        else badIf (x.target != 0) (a + 24))
/-- A missing section is reported at the end of the section table, a repeated one at the TYPE of its second entry (log 71). -/
def countBad (h : Head) (ss : List Sect) (kind part least : Nat) : List Nat :=
  match sectsOf ss kind part with
  | _ :: y :: _ => [entryAt y.num]
  | [] => badIf (decide (0 < least)) (entryAt h.sections)
  | [_] => []
def countsBad (h : Head) (ss : List Sect) : List Nat :=
  (List.range h.parts).flatMap (fun p =>
    countBad h ss Sec.map p 1 ++ countBad h ss Sec.queues p 1 ++ countBad h ss Sec.graph p 0 ++ countBad h ss Sec.point p 0
    ++ badIf (ss.all (fun x => !((x.kind == Sec.stream || x.kind == Sec.graph) && x.part == p))) (entryAt h.sections))
  ++ countBad h ss Sec.parkMap 0xFF 0 ++ countBad h ss Sec.plan 0xFF 0 ++ countBad h ss Sec.hurdles 0xFF 0
  ++ countBad h ss Sec.work 0xFF (if (sectsOf ss Sec.plan 0xFF).isEmpty then 0 else 1)
/-- TABLE_COUNT of the PLAN section (Table 08-1), read for the length of WORK. -/
def planTables (bs : List Byte) (ss : List Sect) : Option Nat := (sectsOf ss Sec.plan 0xFF).head?.map (fun x => leAt bs (x.off + 6) 1)

/-- Offset of the first offending field of an image (R77); Rsvd bytes of the signature block count (R3, log 71). -/
def imageForm (bs : List Byte) : Option Nat :=
  if bs.length < 256 then some 0
  else
    let hb := headBad bs
    let bad :=
      if !hb.isEmpty then hb
      else
        let h := Head.ofBytes bs
        let ss := imageSects bs
        ss.flatMap (sectBad bs h ss (planTables bs ss)) ++ countsBad h ss
        ++ rsvdBad bs (h.size - 255) 15 ++ rsvdBad bs (h.size - 144) 144
    bad.min?

/-! Signature (R78) and features (R79, R80). -/

def signatureOk (keys : Vector KeySlot 8) (bs : List Byte) : Bool :=
  let n := imageSize bs
  let slot := leAt bs (n - 256) 1
  if 8 ≤ slot then false
  else
    let k := keys[finOf 8 slot]
    k.state == .enrolled && ecdsaOk (beNat (natLE 48 k.x.toNat)) (beNat (natLE 48 k.y.toNat)) (sha384 (bs.take (n - 256)))
      (beAt bs (n - 240) 48) (beAt bs (n - 192) 48)

/-- FEAT_CAPS: bits 0 to 15 (R79). -/
def featCaps : BitVec 128 := 0xFFFF
/-- FEAT_RONEF: major 1, minor 0 (R79). -/
def ronefMajor : Nat := 1
def ronefMinor : Nat := 0
/-- The lowest missing bit, or 0xFF for a version mismatch (R80). -/
def featureBad (h : Head) : Option Nat :=
  match (List.range 128).find? (fun i => bit h.req i && !bit featCaps i) with
  | some i => some i
  | none => if h.major != ronefMajor || decide (ronefMinor < h.minor) then some 0xFF else none

/-- Steps 1 to 3 of R82, for a load that names a number of partitions. -/
def imageChecks (keys : Vector KeySlot 8) (bs : List Byte) (named : Nat) : Check :=
  match imageForm bs with
  | some off => some { status := Status.imageRefused, code := Code.imageMalformed, val := some off }
  | none =>
    let h := Head.ofBytes bs
    if h.parts ≠ named then some { status := Status.imageRefused, code := Code.imageMalformed, val := some 18 }
    else if !signatureOk keys bs then some { status := Status.signatureBad, code := Code.signatureBad }
    else
      match featureBad h with
      | some n => some { status := Status.featureMissing, code := Code.featureMissing, val := some n }
      | none => none

end Sys2Proof.Machine
end

