-- ==== Sys2Proof/Machine/MapLoad.lean ====
section
/-! DEFINITION. Allocation maps and park maps as the loader reads and checks them (R62 to R66, R74, Table 03-7). -/

namespace Sys2Proof.Machine

/-! Reading (R65). -/

/-- A MAP section: its map, and whether its header and length have their form. -/
def readMap (bs : List Byte) : AllocMap :=
  let n := leAt bs 0 2
  { count := n, jobPart := BitVec.ofNat 8 (leAt bs 3 1), linkOwn := BitVec.ofNat 6 (leAt bs 4 1),
    digest := BitVec.ofNat 384 (leAt bs 16 48), entries := (List.range n).map (fun i => BitVec.ofNat 128 (leAt bs (64 + 16 * i) 16)) }

/-- The bytes of a map (R65); readMap reads them back. -/
def AllocMap.bytes (m : AllocMap) : List Byte :=
  natLE 2 m.count ++ [1, m.jobPart, BitVec.ofNat 8 m.linkOwn.toNat] ++ List.replicate 11 0 ++ natLE 48 m.digest.toNat
    ++ m.entries.flatMap (fun e => natLE 16 e.toNat)

/-- The map sections of an image in JOB_PART order, with their bytes. -/
def imageMaps (bs : List Byte) (ss : List Sect) (parts : Nat) : List (Nat × List Byte × AllocMap) :=
  (List.range parts).flatMap (fun p => (sectsOf ss Sec.map p).map (fun x => (p, x.body bs, readMap (x.body bs))))

/-! The rows of Table 03-7. ps gives the physical partition of each JOB_PART. -/

def physOf (ps : List PartId) (jp : Nat) : Nat := ((ps[jp]?).getD 0).val

/-- MAP_MALFORMED. -/
def mapForm (ps : List PartId) (jp : Nat) (bs : List Byte) (m : AllocMap) : Check :=
  let d := refuse Code.mapMalformed (physOf ps jp)
  if bs.length < 64 || leAt bs 2 1 != 1 || m.count == 0 || decide (1024 < m.count) || bs.length != 64 + 16 * m.count
      || m.jobPart.toNat != jp || decide (63 < leAt bs 4 1) || !zeroAt bs 5 11 then some d
  else ((List.range m.count).find? (fun i => meRsvd (m.entries.getD i 0) != 0 || decide (7 < mePurpose (m.entries.getD i 0)))).map
    (fun i => d.at (some i))

/-- MAP_DIGEST. -/
def mapDigest (ps : List PartId) (jp : Nat) (bs : List Byte) (m : AllocMap) : Check :=
  if shaField (slice bs 64 (16 * m.count)) == m.digest then none else some (refuse Code.mapDigest (physOf ps jp))

/-- MAP_LAYOUT: the first entry that does not begin where the one before it ends, or the last when the map ends elsewhere. -/
def layoutFrom : Nat → Nat → List (BitVec 128) → Option Nat
  | i, at_, [] => if at_ = 2 ^ 21 then none else some (i - 1)
  | i, at_, e :: es =>
    if meBase e ≠ at_ ∨ mePages e = 0 ∨ 2 ^ 21 < at_ + mePages e then some i else layoutFrom (i + 1) (at_ + mePages e) es
def mapLayout (ps : List PartId) (jp : Nat) (m : AllocMap) : Check :=
  (layoutFrom 0 0 m.entries).map (fun i => (refuse Code.mapLayout (physOf ps jp)).at (some i))

/-- KINDS permitted and required for a purpose (Table 03-3). -/
def kindsAllowed (purpose : Nat) : Nat × Nat :=
  if purpose = Purpose.code then (1, 0)
  else if purpose = Purpose.tensor then (103, 0)
  else if purpose = Purpose.queue then (3, 0)
  else if purpose = Purpose.landing then (15, 8)
  else if purpose = Purpose.spill then (16, 16)
  else if purpose = Purpose.pointTable then (32, 32)
  else (0, 0)
/-- Does an entry agree with its purpose (Table 03-3, R63)? -/
def entryKindOk (own : BitVec 6) (e : BitVec 128) : Bool :=
  let p := mePurpose e
  let (may, must) := kindsAllowed p
  let k := meKinds e
  k &&& may == k && k &&& must == must
  && (if p = Purpose.landing then decide (meLink e < 6) || meLink e == 0xE
      else if p = Purpose.spill then decide (meLink e < 6) && bit own (meLink e) && mePages e == 4096
      else meLink e == 0xF)
  && (meTileMask e != 0 || p == Purpose.free || p == Purpose.parkMap)
/-- MAP_KIND. -/
def mapKind (ps : List PartId) (jp : Nat) (m : AllocMap) : Check :=
  ((List.range m.count).find? (fun i => !entryKindOk m.linkOwn (m.entries.getD i 0))).map (fun i =>
    (refuse Code.mapKind (physOf ps jp)).at (some i))

/-- Entries of the image's maps with a purpose: (JOB_PART, index, entry). -/
def regionsOf (ms : List AllocMap) (purpose : Nat) : List (Nat × Nat × BitVec 128) :=
  ((List.range ms.length).zip ms).flatMap (fun x => (x.2.used.filter (fun e => mePurpose e.2 == purpose)).map (fun e => (x.1, e.1, e.2)))
/-- What a map lacks (MAP_MISSING), but for the landings of R64: its CODE region, one SPILL region for each link that it owns, its
POINT_TABLE region, and the park map, which is a matter of the park partition's map. A region that no map holds is missed by the first map
that needs it, a second one is at fault in its own map. -/
def mapLacks (ps : List PartId) (ms : List AllocMap) (points : List Nat) (parkable hasPark : Bool) (park jp : Nat) : Check :=
  let d := refuse Code.mapMissing (physOf ps jp)
  let lacks := fun (purpose : Nat) => !(regionsOf ms purpose).any (fun x => x.1 == jp)
  let own := fun (l : Nat) => match ms[jp]? with
    | some m => bit m.linkOwn l
    | none => false
  firstOf
    ((if lacks Purpose.code then some d else none)
     :: [0, 1, 2, 3, 4, 5].map (fun l =>
       match (regionsOf ms Purpose.spill).filter (fun x => meLink x.2.2 == l) with
       | [] => if own l then some d else none
       | _ :: more => (more.find? (fun x => x.1 == jp)).map (fun x => d.at (some x.2.1)))
     ++ [if points.contains jp && lacks Purpose.pointTable then some d else none,
         if parkable && (!hasPark || (regionsOf ms Purpose.parkMap).isEmpty) && jp == (if park = 0xFF then 0 else park) then some d else none])
/-- MAP_MISSING: the row is applied to the maps in ascending JOB_PART (R66). -/
def mapMissing (ps : List PartId) (ms : List AllocMap) (points : List Nat) (parkable hasPark : Bool) (park : Nat) : Check :=
  firstOf ((List.range ms.length).map (mapLacks ps ms points parkable hasPark park))

/-! The park map (R74, Table 03-10). -/

/-- PARK_COUNT and the entries of a park map. -/
def parkCount (bs : List Byte) : Nat := leAt bs 0 2
def parkEntries (bs : List Byte) : List W64 := (List.range (parkCount bs)).map (fun i => BitVec.ofNat 64 (leAt bs (8 + 8 * i) 8))
def pkPart (w : W64) : Nat := fld w 63 61
def pkRegion (w : W64) : Nat := fld w 60 51
def pkPage (w : W64) : Nat := fld w 20 0
/-- The region that an entry names. -/
def pkSource (ms : List AllocMap) (w : W64) : Option (BitVec 128) := (ms[pkPart w]?).bind (fun m => m.entry? (pkRegion w))

/-- Do pages [d, d + n) lie wholly within FREE regions of a map? -/
def inFree (m : AllocMap) (d n : Nat) : Bool :=
  decide (d + n ≤ 2 ^ 21) && m.used.all (fun e => !overlaps (meBase e.2) (mePages e.2) d n || mePurpose e.2 == Purpose.free)

/-- Is entry k of a park map good against the entries before it? -/
def parkEntryOk (ms : List AllocMap) (park : Nat) (pm : AllocMap) (before : List W64) (w : W64) : Bool :=
  match pkSource ms w with
  | none => false
  | some e =>
    fld w 50 21 == 0
    && !(mePurpose e == Purpose.free || mePurpose e == Purpose.spill || mePurpose e == Purpose.landing)
    && !before.any (fun v => pkPart v == pkPart w && pkRegion v == pkRegion w)
    && (if pkPart w = park then pkPage w == meBase e else inFree pm (pkPage w) (mePages e))
    && !before.any (fun v => match pkSource ms v with
        | some f => overlaps (pkPage v) (mePages f) (pkPage w) (mePages e)
        | none => false)
/-- Does the park map meet R74? bs is its section (empty for none). -/
def parkOk (ms : List AllocMap) (park : Nat) (bs : List Byte) : Bool :=
  match ms[park]?, regionsOf ms Purpose.parkMap with
  | some pm, [(jp, i, e)] =>
    let ws := parkEntries bs
    jp == park && decide (8 ≤ bs.length) && zeroAt bs 2 6 && decide (1 ≤ ws.length) && decide (ws.length ≤ 8192)
    && bs.length == 8 + 8 * ws.length && decide (bs.length ≤ meLen e)
    && (List.range ws.length).all (fun k => parkEntryOk ms park pm (ws.take k) (ws.getD k 0))
    && ws.any (fun w => pkPart w == park && pkRegion w == i)
  | _, _ => false

/-- The rows of Table 03-7 but the last (step 4 of R82). -/
def mapChecks (ps : List PartId) (maps : List (Nat × List Byte × AllocMap)) (points : List Nat) (parkable : Bool) (park : Nat)
    (parkMap : Option (List Byte)) : Check :=
  let ms := maps.map (·.2.2)
  match firstOf (maps.map (fun x => mapForm ps x.1 x.2.1 x.2.2)) with
  | some d => some d
  | none =>
    firstOf
      (maps.map (fun x => mapDigest ps x.1 x.2.1 x.2.2) ++ maps.map (fun x => mapLayout ps x.1 x.2.2)
       ++ maps.map (fun x => mapKind ps x.1 x.2.2) ++ [mapMissing ps ms points parkable parkMap.isSome park]
       ++ [if parkMap.isNone && (regionsOf ms Purpose.parkMap).isEmpty || parkOk ms park (parkMap.getD []) then none
           else some (refuse Code.parkMapBad (physOf ps (if park = 0xFF then 0 else park)))])

/-! The PARKED map (R74). -/

/-- A FREE entry. -/
def freeEntry (base pages : Nat) : BitVec 128 := mkMapEntry 0 0xF Purpose.free 0 pages base
/-- Entries in base order with FREE entries between and after them. -/
def fillFree : Nat → List (BitVec 128) → List (BitVec 128)
  | at_, [] => if at_ < 2 ^ 21 then [freeEntry at_ (2 ^ 21 - at_)] else []
  | at_, e :: es =>
    (if at_ < meBase e then [freeEntry at_ (meBase e - at_)] else []) ++ e :: fillFree (meBase e + mePages e) es
/-- An entry moved to a base. -/
def meMove (e : BitVec 128) (base : Nat) : BitVec 128 :=
  mkMapEntry (meTileMask e) (meLink e) (mePurpose e) (meKinds e) (mePages e) base
/-- The entries of the PARKED map: listed regions at their destinations, FREE elsewhere. -/
def parkedEntries (ms : List AllocMap) (ws : List W64) : List (BitVec 128) :=
  let placed := ws.filterMap (fun w => (pkSource ms w).map (fun e => meMove e (pkPage w)))
  fillFree 0 (sortBy (fun a b => meBase a ≤ meBase b) placed)
def parkedMapOf (ms : List AllocMap) (park : Nat) (ws : List W64) : AllocMap :=
  let es := parkedEntries ms ws
  { count := es.length, jobPart := BitVec.ofNat 8 park, linkOwn := 0, digest := 0, entries := es }

end Sys2Proof.Machine
end

