-- ==== Sys2Proof/Machine/PlanLoad.lean ====
section
/-! DEFINITION. PLAN sections as the loader reads and checks them (R64, R166 to R173, R252, R253, R418, Table 08-5). -/

namespace Sys2Proof.Machine

/-! Reading (Tables 08-1 to 08-4): none where the first row of Table 08-5 fails. -/

/-- Does a list lie in a section of n bytes at a 64-byte-aligned offset? -/
def spanOk (n : Nat) (x : Nat × Nat) : Bool :=
  if x.2 = 0 then decide (x.1 ≤ n) else x.1 % 64 == 0 && decide (x.1 + x.2 ≤ n)
def between (n lo hi : Nat) : Bool := decide (lo ≤ n) && decide (n ≤ hi)
/-- No two lists overlap. -/
def spansApart : List (Nat × Nat) → Bool
  | [] => true
  | x :: xs => xs.all (fun y => !overlaps x.1 x.2 y.1 y.2) && spansApart xs

def readW32 (bs : List Byte) (off n : Nat) : List W32 := (List.range n).map (fun i => BitVec.ofNat 32 (leAt bs (off + 4 * i) 4))
def readXfer (bs : List Byte) (off : Nat) : Transfer :=
  { w := Vector.ofFn (fun i : Fin 4 => BitVec.ofNat 64 (leAt bs (off + 8 * i.val) 8)) }
/-- Fields and Rsvd bits of a transfer entry (Table 08-4). A TX entry has zero in QTILE, BATON_ID and GEN too, as it has in REL_GEN and QUEUE, of
which alone the table says so (DESIGN CHOICE, log 163). -/
def Transfer.formOk (x : Transfer) (rx : Bool) : Bool :=
  fld x.w[0] 41 33 == 0 && fld x.w[1] 53 0 == 0 && fld x.w[2] 32 0 == 0 && x.w[3] == 0 && x.offset % 16 == 0
  && (rx || (!x.relGen && fld x.w[2] 63 33 == 0))

/-- The lists that a table-set entry at an offset names: its table directory with its segments, its transfers (Table 08-3). -/
def setSpans (bs : List Byte) (tc at_ : Nat) : List (Nat × Nat) :=
  [(leAt bs (at_ + 16) 8, 8 * tc + 4 * leAt bs (at_ + 8) 4), (leAt bs (at_ + 24) 8, 32 * leAt bs (at_ + 6) 2)]
/-- Fields of a table-set entry (Table 08-3). -/
def setFieldsOk (bs : List Byte) (tc at_ : Nat) : Bool :=
  let link := leAt bs at_ 1
  let ring := leAt bs (at_ + 2) 1
  let peer := leAt bs (at_ + 4) 2
  let isRing := link == 0xE
  (isRing || decide (link < 6)) && decide (leAt bs (at_ + 1) 1 ≤ 1) && (if isRing then decide (ring ≤ 63) && peer == 0 else ring == 0)
  && leAt bs (at_ + 3) 1 == 0 && decide (peer ≤ 8191) && between (leAt bs (at_ + 6) 2) 1 8192 && between (leAt bs (at_ + 8) 4) 1 65536
  && leAt bs (at_ + 12) 4 == 0 && (setSpans bs tc at_).all (spanOk bs.length)
/-- A table set as it stands at an offset of the section. -/
def setAt (bs : List Byte) (tc at_ : Nat) : TableSet :=
  let so := leAt bs (at_ + 16) 8
  { link := BitVec.ofNat 8 (leAt bs at_ 1), rx := leAt bs (at_ + 1) 1 == 1, ring := BitVec.ofNat 8 (leAt bs (at_ + 2) 1),
    peerRank := BitVec.ofNat 13 (leAt bs (at_ + 4) 2),
    tables := (List.range tc).map (fun t => (leAt bs (so + 8 * t) 4, leAt bs (so + 8 * t + 4) 4)),
    segs := readW32 bs (so + 8 * tc) (leAt bs (at_ + 8) 4),
    xfers := (List.range (leAt bs (at_ + 6) 2)).map (fun i => readXfer bs (leAt bs (at_ + 24) 8 + 32 * i)) }
/-- The entry of a set's table directory, or else of its transfer list, that breaks Table 08-3 or 08-4. -/
def TableSet.badEntry (k : TableSet) : Option Nat :=
  ((List.range k.tables.length).find? (fun t => !(k.tables[t]?).all (fun x => x.2 == 0 || decide (x.1 + x.2 ≤ k.segs.length)))).orElse
    (fun _ => (List.range k.xfers.length).find? (fun i => !(k.xfers[i]?).all (·.formOk k.rx)))
/-- A table set at an offset of the section, with the lists it names (Table 08-3). -/
def readSet (bs : List Byte) (tc at_ : Nat) : Option (TableSet × List (Nat × Nat)) :=
  if setFieldsOk bs tc at_ && (setAt bs tc at_).badEntry.isNone then some (setAt bs tc at_, setSpans bs tc at_) else none

/-- An avoid entry: a rank, and a link or the whole package. -/
def avoidOk (w : W32) : Bool := fld w 14 0 == 0 && (decide (fld w 18 15 < 6) || fld w 18 15 == 0xF)
/-- Offset of a plan's entry in the directory, and the lists that it names: its lap sequence, its sets, its avoid list (Table 08-2). -/
def dirAt (k : Nat) : Nat := 320 + 32 * k
def dirSpans (bs : List Byte) (seqN k : Nat) : List (Nat × Nat) :=
  let a := dirAt k
  [(leAt bs (a + 8) 8, 4 * seqN), (leAt bs (a + 16) 8, 32 * leAt bs (a + 1) 1), (leAt bs (a + 24) 8, 4 * leAt bs (a + 2) 1)]
def dirSeq (bs : List Byte) (seqN k : Nat) : List W32 := readW32 bs (leAt bs (dirAt k + 8) 8) seqN
def dirAvoid (bs : List Byte) (k : Nat) : List W32 := readW32 bs (leAt bs (dirAt k + 24) 8) (leAt bs (dirAt k + 2) 1)
def dirSets (bs : List Byte) (k : Nat) : List Nat := (List.range (leAt bs (dirAt k + 1) 1)).map (fun j => leAt bs (dirAt k + 16) 8 + 32 * j)
/-- Fields of a directory entry (Table 08-2). -/
def dirFieldsOk (bs : List Byte) (seqN k : Nat) : Bool :=
  let a := dirAt k
  let id := leAt bs a 1
  let av := leAt bs (a + 2) 1
  (k == 0) == (id == 0) && decide (id ≤ 6) && decide (leAt bs (a + 1) 1 ≤ 64) && (if id = 0 then av == 0 else between av 1 16)
  && zeroAt bs (a + 3) 5 && (dirSpans bs seqN k).all (spanOk bs.length)
/-- The entry of a plan's lap sequence, or else of its avoid list, that breaks Table 08-2. -/
def dirBadEntry (bs : List Byte) (seqN k : Nat) : Option Nat :=
  let seq := dirSeq bs seqN k
  let avoid := dirAvoid bs k
  ((List.range seq.length).find? (fun i => !(seq[i]?).all (fun e => fld e 25 16 == 0))).orElse
    (fun _ => (List.range avoid.length).find? (fun i => !(avoid[i]?).all avoidOk))
/-- A plan of the directory (Table 08-2). -/
def readDir (bs : List Byte) (seqN tc k : Nat) : Option (PlanDef × List (Nat × Nat)) :=
  if !dirFieldsOk bs seqN k || (dirBadEntry bs seqN k).isSome then none
  else
    let ks := (dirSets bs k).map (readSet bs tc)
    if ks.any Option.isNone then none
    else
      let ks := ks.filterMap (fun x => x)
      some ({ planId := leAt bs (dirAt k) 1, seq := dirSeq bs seqN k, avoid := dirAvoid bs k, sets := ks.map (·.1) },
        dirSpans bs seqN k ++ ks.flatMap (·.2))

/-- The header and lap-length array of a section, which holds its directory (Table 08-1, R168). -/
def planHeadOk (bs : List Byte) : Bool :=
  let n := leAt bs 1 1
  let tc := leAt bs 6 1
  decide (320 ≤ bs.length) && leAt bs 0 1 == 1 && between n 1 7 && between (leAt bs 2 2) 1 16384 && between tc 1 64 && zeroAt bs 7 57
  && decide (dirAt n ≤ bs.length) && zeroAt bs (64 + 4 * tc) (4 * (64 - tc))
/-- A PLAN section and its TABLE_COUNT. -/
def readPlan (bs : List Byte) : Option (PlanSection × Nat) :=
  let n := leAt bs 1 1
  let seqN := leAt bs 2 2
  let tc := leAt bs 6 1
  if !planHeadOk bs then none
  else
    let ds := (List.range n).map (fun k => readDir bs seqN tc k)
    if ds.any Option.isNone then none
    else
      let ds := ds.filterMap (fun x => x)
      if distinct (ds.map (fun d => d.1.planId)) && spansApart ((0, 320 + 32 * n) :: ds.flatMap (·.2)) then
        some ({ lapLen := (readW32 bs 64 64).map BitVec.toNat, loopEntry := leAt bs 4 2, plans := ds.map (·.1) }, tc)
      else none

/-! The plan, the set and the entry that failed (R173). -/

structure PlanPlace where
  plan : Option Nat := none
  set : Option Nat := none
  entry : Option Nat := none
  deriving DecidableEq, Repr

/-- The elements with their numbers. -/
def firstsIn {α : Type} (xs : List α) : List (Nat × α) := (List.range xs.length).zip xs
/-- The first element, with its number, of which a check finds something. -/
def firstIn {α β : Type} (xs : List α) (f : Nat → α → Option β) : Option β := ((List.range xs.length).zip xs).findSome? (fun x => f x.1 x.2)
def PlanPlace.unless (p : PlanPlace) (ok : Bool) : Option PlanPlace := if ok then none else some p
/-- Check every plan, or every set of every plan. -/
def inPlans (k : PlanSection) (f : PlanPlace → PlanDef → Option PlanPlace) : Option PlanPlace := firstIn k.plans (fun i p => f { plan := some i } p)
def inSets (k : PlanSection) (f : PlanPlace → PlanDef → TableSet → Option PlanPlace) : Option PlanPlace :=
  inPlans k (fun at_ p => firstIn p.sets (fun j x => f { at_ with set := some j } p x))

/-- The lists of a section with the plan and set that name them, the header and directory first. -/
def planLists (bs : List Byte) : List (PlanPlace × Nat × Nat) :=
  let n := leAt bs 1 1
  ({}, 0, dirAt n) :: (List.range n).flatMap (fun k =>
    (dirSpans bs (leAt bs 2 2) k).map (fun x => ({ plan := some k }, x))
      ++ (firstsIn (dirSets bs k)).flatMap (fun y => (setSpans bs (leAt bs 6 1) y.2).map (fun x => ({ plan := some k, set := some y.1 }, x))))
/-- Where a PLAN section breaks the first row of Table 08-5: nowhere named for its header; the plan of its directory that cannot be read, its set, its
entry; else the plan that repeats a PLAN_ID; else the plan and set of the list that overlaps an earlier one. -/
def planBadAt (bs : List Byte) : PlanPlace :=
  let seqN := leAt bs 2 2
  let tc := leAt bs 6 1
  let n := leAt bs 1 1
  if !planHeadOk bs then {}
  else
    match (List.range n).find? (fun k => (readDir bs seqN tc k).isNone) with
    | some k =>
      let at_ : PlanPlace := { plan := some k }
      if !dirFieldsOk bs seqN k then at_
      else
        match dirBadEntry bs seqN k with
        | some e => { at_ with entry := some e }
        | none =>
          match (firstsIn (dirSets bs k)).find? (fun y => (readSet bs tc y.2).isNone) with
          | none => at_
          | some y => { at_ with set := some y.1, entry := if setFieldsOk bs tc y.2 then (setAt bs tc y.2).badEntry else none }
    | none =>
      match (List.range n).find? (fun k => (List.range k).any (fun i => leAt bs (dirAt i) 1 == leAt bs (dirAt k) 1)) with
      | some k => { plan := some k }
      | none =>
        let ls := planLists bs
        match (firstsIn ls).find? (fun y => (ls.take y.1).any (fun z => overlaps z.2.1 z.2.2 y.2.2.1 y.2.2.2)) with
        | some y => y.2.1
        | none => {}

/-! Rows 2 and 3 of Table 08-5: lap tables (R168, R169), transfers (R171), hurdles, LOOP_ENTRY (R170). -/

def lapOk (n : Nat) : Bool := decide (256 ≤ n) && decide (n ≤ 65536)
def TableSet.segOk (k : TableSet) (g : W32) : Bool :=
  if segKind g = Seg.burst then
    decide (segLen g ≤ 4) && (match k.xfer? (segXfer g) with | some x => x.slots == segLen g | none => false)
  else decide (segKind g ≤ 3) && segXfer g == 0
/-- The table of an index that a set holds. -/
def TableSet.tableOk (k : TableSet) (lap t : Nat) : Bool :=
  let gs := k.segsOf t
  lapOk lap && gs.all k.segOk && (gs.map segLen).sum == lap
def tablesBad (k : PlanSection) (tc : Nat) : Option PlanPlace :=
  let lap := fun (t : Nat) => k.lapLen.getD t 0
  match (List.range k.lapLen.length).find? (fun t => !(lapOk (lap t) || (lap t == 0 && t + 1 != tc))) with
  | some t => some { entry := some t }
  | none =>
    inPlans k (fun at_ p =>
      match firstIn p.sets (fun j x => { at_ with set := some j }.unless
          (!(p.sets.take j).any (fun y => y.link == x.link && y.rx == x.rx && y.ring == x.ring))) with
      | some d => some d
      | none =>
        match firstIn p.seq (fun i e =>
            if lap (seqTable e) = 0 then some { at_ with entry := some i }
            else firstIn p.sets (fun j x => { at_ with set := some j, entry := some i }.unless (x.holds (seqTable e)))) with
        | some d => some d
        | none =>
          firstIn p.sets (fun j x => (List.range 64).findSome? (fun t =>
            { at_ with set := some j, entry := some t }.unless (!x.holds t || x.tableOk (lap t) t))))
/-- Transfer numbers that BURSTs of a set name. -/
def TableSet.named (k : TableSet) : List W16 := (k.xfers.map Transfer.number).filter k.names
/-- R171: numbers distinct in a set, and no transfer on two links in one direction. -/
def transfersBad (k : PlanSection) : Option PlanPlace :=
  inPlans k (fun at_ p => firstIn p.sets (fun j x => firstIn x.xfers (fun i y =>
    { at_ with set := some j, entry := some i }.unless
      (!(x.xfers.take i).any (fun z => z.number == y.number)
       && (x.isRing || !x.names y.number
           || !(p.sets.take j).any (fun z => !z.isRing && z.rx == x.rx && z.names y.number))))))

/-! Ring occurrences (R251 to R253, R418). -/

/-- A leg: ring and direction, position and number of its hops, first slot, frames. -/
structure Leg where
  ring : Byte
  start : Nat
  hops : Nat
  slot : Nat
  len : Nat
  deriving DecidableEq, Repr

/-- The sets of a plan that name a transfer. -/
def PlanDef.naming (p : PlanDef) (ring rx : Bool) (t : W16) : List TableSet :=
  p.sets.filter (fun k => k.isRing == ring && k.rx == rx && k.names t)
def TableSet.entryOf (k : TableSet) (t : W16) : Transfer := (k.xfers.find? (fun x => x.number == t)).getD Transfer.zero
/-- The source fields, and the landing fields, of a transfer entry. -/
def Transfer.source (x : Transfer) : Nat × Nat × Nat := (x.part, x.region, x.offset)
def Transfer.sink (x : Transfer) : (Nat × Nat × Nat) × Bool × Nat := (x.source, x.relGen, fld x.w[2] 63 33)
/-- The stop of the tile whose plot holds the first byte of an entry. -/
def entryStop (ms : List AllocMap) (ps : List PartId) (x : Transfer) : Option Stop :=
  match (ms[x.part]?).bind (fun m => m.entry? x.region), ps[x.part]? with
  | some e, some p => some (Stop.ofOffset (partBase p + meStart e + x.offset))
  | _, _ => none
def linkStop (k : TableSet) : Stop := .service (dieOfLink (finOf 6 k.link.toNat))

/-- The two stops of a transfer by its entries; none when the entries break R418. -/
def ringEnds (ms : List AllocMap) (ps : List PartId) (p : PlanDef) (t : W16) (x y : Transfer) : Option (Stop × Stop) :=
  let src := match p.naming false true t with
    | k :: _ => if x.source == (0, 0, 0) && y.sink == (k.entryOf t).sink then some (linkStop k) else none
    | [] => entryStop ms ps x
  let dst := match p.naming false false t with
    | k :: _ => if y.sink == ((0, 0, 0), false, 0) && x.source == (k.entryOf t).source then some (linkStop k) else none
    | [] => entryStop ms ps y
  match src, dst with
  | some a, some b => some (a, b)
  | _, _ => none

/-- BURSTs of a transfer in a table, with slot and length. -/
def TableSet.bursts (k : TableSet) (table : Nat) (t : W16) : List (Nat × Nat) :=
  ((placed 0 (k.segsOf table)).filter (fun x =>
    segKind x.2 == Seg.burst && (match k.xfer? (segXfer x.2) with | some y => y.number == t | none => false))).map (fun x => (x.1, segLen x.2))

/-- The legs of every occurrence of a transfer in a table, first leg and last leg (the same for a straight one); none where R418
is broken. A transfer is named by one ring set in each direction (log 72). -/
def ringOccs (ms : List AllocMap) (ps : List PartId) (p : PlanDef) (t : W16) (table : Nat) : Option (List (Leg × Leg)) :=
  match p.naming true false t, p.naming true true t with
  | [kt], [kr] =>
    match ringEnds ms ps p t (kt.entryOf t) (kr.entryOf t) with
    | none => none
    | some (a, b) =>
      let bt := kt.bursts table t
      let br := kr.bursts table t
      match turnOf a b with
      | none =>
        (match legHops kt.ring a b, a.pos (ringNo kt.ring) with
         | some h, some i =>
           if kt.ring == kr.ring && bt == br then
             some (bt.map (fun x =>
               let g : Leg := { ring := kt.ring, start := i, hops := h, slot := x.1, len := x.2 }
               (g, g)))
           else none
         | _, _ => none)
      | some (row, col, m) =>
        match legHops kt.ring a m, a.pos (ringNo kt.ring), legHops kr.ring m b, m.pos (ringNo kr.ring) with
        | some h, some i, some h', some i' =>
          if ringNo kt.ring == row && ringNo kr.ring == col && bt.map (fun x => (x.1 + h + 1, x.2)) == br then
            some ((bt.zip br).map (fun x =>
              ({ ring := kt.ring, start := i, hops := h, slot := x.1.1, len := x.1.2 },
               { ring := kr.ring, start := i', hops := h', slot := x.2.1, len := x.2.2 })))
          else none
        | _, _, _, _ => none
  | _, _ => none

/-- Transfers that ring sets of a plan name. -/
def PlanDef.ringXfers (p : PlanDef) : List W16 := ((p.sets.filter TableSet.isRing).flatMap TableSet.named).dedup
/-- Tables that some set of the plan holds. -/
def PlanDef.tables (p : PlanDef) : List Nat := (List.range 64).filter (fun t => p.sets.any (fun k => k.holds t))
def legsOf (xs : List (Leg × Leg)) : List Leg := xs.flatMap (fun x => if x.1 = x.2 then [x.1] else [x.1, x.2])
/-- Hops that a leg crosses, and the hop-beats that it holds (R251). -/
def Leg.path (g : Leg) : List (Nat × Nat) := (List.range g.hops).map (fun j => (ringDir g.ring, hopAt (ringDown g.ring) g.start j))
def Leg.beats (g : Leg) : List (Nat × Nat × Nat) :=
  (List.range g.len).flatMap (fun k => (List.range g.hops).map (fun j =>
    (ringDir g.ring, hopAt (ringDown g.ring) g.start j, g.slot + k + j)))
/-- Does a leg run past a lap boundary (R252)? -/
def Leg.past (g : Leg) (lap : Nat) : Bool := g.hops != 0 && decide (lap + 2 ≤ g.slot + g.len + g.hops)
/-- Beat from the lap start at which the last frame has reached the end of the leg. -/
def Leg.arrives (g : Leg) : Nat := g.slot + g.len - 1 + g.hops

/-- Legs of one TX ring set in a table, by its entries; an entry whose occurrences break R418 has none. -/
def ringLegs (ms : List AllocMap) (ps : List PartId) (p : PlanDef) (x : TableSet) (table : Nat) : List Leg :=
  x.named.flatMap (fun t => legsOf ((ringOccs ms ps p t table).getD []))
/-- The hop-beats that one transfer of a plan takes in a table. -/
def xferBeats (ms : List AllocMap) (ps : List PartId) (p : PlanDef) (x : TableSet) (table : Nat) (y : Transfer) : List (Nat × Nat × Nat) :=
  if x.names y.number then (legsOf ((ringOccs ms ps p y.number table).getD [])).flatMap Leg.beats else []
/-- R252 and R418 for one ring set and table: its entry at fault, where one is. A hop-beat that two legs take is a fault of the later
entry, in the order of the sets and of their transfer lists. -/
def ringSetBad (ms : List AllocMap) (ps : List PartId) (p : PlanDef) (lap table j : Nat) (x : TableSet) : Option Nat :=
  match firstIn x.xfers (fun i y =>
      if x.names y.number && !((ringOccs ms ps p y.number table).any (fun os => (legsOf os).all (fun g => !g.past lap))) then some i else none) with
  | some i => some i
  | none =>
    if x.rx then none
    else
      let before := (((p.sets.take j).filter (fun z => z.isRing && !z.rx)).flatMap (fun z => ringLegs ms ps p z table)).flatMap Leg.beats
      firstIn x.xfers (fun i y =>
        let mine := xferBeats ms ps p x table y
        let held := before ++ (x.xfers.take i).flatMap (xferBeats ms ps p x table)
        if distinct mine && !mine.any (fun b => held.contains b) then none else some i)

/-- R253 for one link set and table: each occurrence has its feed (TX) or drain (RX) at the right time, at most 8 frames are held. -/
def linkTableOk (ms : List AllocMap) (ps : List PartId) (p : PlanDef) (k : TableSet) (table : Nat) : Bool :=
  let each := k.named.map (fun t => (k.bursts table t, (ringOccs ms ps p t table).getD []))
  let pairs := each.flatMap (fun x => x.1.zip x.2)
  let frames := pairs.flatMap (fun x => (List.range x.1.2).map (fun i => (x.1.1 + i, x.2.1.slot + i)))
  each.all (fun x => x.1.length == x.2.length)
  && (if k.rx then
      pairs.all (fun x => x.2.1.len == x.1.2 && decide (x.1.1 + 40 ≤ x.2.1.slot) && decide (x.2.1.slot ≤ x.1.1 + 64))
      && frames.all (fun f : Nat × Nat => decide ((frames.filter (fun h : Nat × Nat => decide (h.1 ≤ f.1) && decide (f.1 < h.2))).length ≤ 8))
    else pairs.all (fun x => x.2.2.len == x.1.2 && decide (x.2.2.arrives + 3 ≤ x.1.1)))
def ringsBad (ms : List AllocMap) (ps : List PartId) (k : PlanSection) : Option PlanPlace :=
  inPlans k (fun at_ p => p.tables.findSome? (fun t => firstIn p.sets (fun j x =>
    if x.isRing then (ringSetBad ms ps p (k.lapLen.getD t 0) t j x).map (fun i => { at_ with set := some j, entry := some i })
    else { at_ with set := some j, entry := some t }.unless (linkTableOk ms ps p x t))))

/-- Hops that the ring sets of a job name, in every plan (R252). -/
def ringHops (ms : List AllocMap) (ps : List PartId) (k : PlanSection) : List (Nat × Nat) :=
  (k.plans.flatMap (fun p => p.tables.flatMap (fun t => p.ringXfers.flatMap (fun x =>
    (legsOf ((ringOccs ms ps p x t).getD [])).flatMap Leg.path)))).dedup

/-- Hops of its own ring that one ring set names. -/
def TableSet.hopsOf (ms : List AllocMap) (ps : List PartId) (p : PlanDef) (x : TableSet) : List (Nat × Nat) :=
  p.tables.flatMap (fun t => (x.named.flatMap (fun y => legsOf ((ringOccs ms ps p y t).getD []))).flatMap (fun g =>
    if g.ring == x.ring then g.path else []))

/-! Row 4, landings (R64), R172, R166. -/

/-- Is a number of bytes of an entry inside a region of its JOB_PART that meets a test? -/
def entryIn (ms : List AllocMap) (x : Transfer) (ok : BitVec 128 → Bool) : Bool :=
  match (ms[x.part]?).bind (fun m => m.entry? x.region) with
  | some e => ok e && decide (x.offset + 2048 * x.slots ≤ meLen e)
  | none => false
def sourcesBad (ms : List AllocMap) (k : PlanSection) : Option PlanPlace :=
  inSets k (fun at_ p x => if x.rx then none else firstIn x.xfers (fun i y => { at_ with entry := some i }.unless
    ((x.isRing && !(p.naming false true y.number).isEmpty)
     || entryIn ms y (fun e => mePurpose e != Purpose.free && (meHas e Kind.tileRead || meHas e Kind.mover)))))
/-- R64. The ring RX entry of a feed names no landing; that of a drain repeats its link RX entry. An RX transfer entry that no BURST names is no
entry of a lap table, and is not held to the check (DEDUCED, log 176: Table 08-5 says 'whether or not a BURST names it' of TX alone). -/
def landingsBad (ms : List AllocMap) (k : PlanSection) : Option PlanPlace :=
  inSets k (fun at_ p x => if !x.rx then none else firstIn x.xfers (fun i y => { at_ with entry := some i }.unless
    (!x.names y.number
     || (x.isRing && (!(p.naming false false y.number).isEmpty || !(p.naming false true y.number).isEmpty))
     || entryIn ms y (fun e => mePurpose e == Purpose.landing && meLink e == x.link.toNat))))
/-- Slots of a kind in a table. -/
def TableSet.slotsOf (k : TableSet) (table kind : Nat) : Nat := (((k.segsOf table).filter (fun g => segKind g == kind)).map segLen).sum
/-- R172. -/
def reserveBad (k : PlanSection) : Option PlanPlace :=
  inSets k (fun at_ p x => p.seq.findSome? (fun e =>
    let t := seqTable e
    let lap := k.lapLen.getD t 0
    { at_ with entry := some t }.unless (x.isRing || (decide (ceilDiv lap 32 ≤ x.slotsOf t Seg.spare) && decide (ceilDiv lap 256 ≤ x.slotsOf t Seg.u)))))

/-- Links and ring hops that other jobs loaded on the package own (R166, R252). -/
def State.linksTaken (s : State) (but : Option Nat) : List LinkId :=
  allLinks.filter (fun l => match (s.link l).owner with | some i => but != some i | none => false)
def State.hopsTaken (s : State) (but : Option Nat) : List (Nat × Nat) :=
  (s.jobs.filter (fun j => j.phase != .parked && but != some j.id)).flatMap (fun j => match j.image.plan with
    | some k => ringHops j.image.maps j.parts k
    | none => [])

/-- R166, and the hops of R252; bits and hops that others own. -/
def State.ownershipOk (s : State) (ms : List AllocMap) (ps : List PartId) (k : Option PlanSection) : Bool :=
  let own : BitVec 6 := match ms.head? with
    | some m => m.linkOwn
    | none => 0
  ms.all (fun m => m.linkOwn == own) && (s.linksTaken none).all (fun l => !bit own l.val)
  && (match k with
      | none => true
      | some k =>
        k.plans.all (fun p => p.sets.all (fun x => x.isRing || bit own x.link.toNat))
        && (ringHops ms ps k).all (fun h => !(s.hopsTaken none).contains h))

/-- The set whose link, or ring hops, the job may not have (R166, R252). -/
def State.ownershipAt (s : State) (ms : List AllocMap) (ps : List PartId) (k : PlanSection) : PlanPlace :=
  let own : BitVec 6 := match ms.head? with
    | some m => m.linkOwn
    | none => 0
  let taken := s.hopsTaken none
  (inSets k (fun at_ p x => at_.unless
    (if x.isRing then !(x.hopsOf ms ps p).any taken.contains
     else bit own x.link.toNat && !(s.linksTaken none).any (fun l => l.val == x.link.toNat)))).getD {}

/-- The record of a refusal at a place of the plan: LAP_TABLE holds the plan's place in the directory and SLOT its set, all ones where
none is named; COMMAND holds the entry of the list concerned (DESIGN CHOICE, log 130: R173 does not say where). -/
def PlanPlace.denial (at_ : PlanPlace) (code : W16) (part : Nat) : Denial :=
  let d := refuse code part
  { d with loc := d.loc.map (fun r =>
      { r with slot := at_.plan.map (fun p => (2 ^ 14 - 1, p, at_.set.getD (2 ^ 16 - 1))), command := at_.entry }) }

/-- Step 5 of R82. sec is the PLAN section, read already, and bad where it could not be read; an image without one is held to R166
alone (log 73). -/
def State.planChecks (s : State) (ms : List AllocMap) (ps : List PartId) (sec : Option (Option (PlanSection × Nat))) (bad : PlanPlace)
    (hurdles : List Nat) : Check :=
  let d := fun (c : W16) (x : Option PlanPlace) => x.map (fun at_ => at_.denial c (physOf ps 0))
  match sec with
  | none => if s.ownershipOk ms ps none then none else some (refuse Code.planLink (physOf ps 0))
  | some none => d Code.planMalformed (some bad)
  | some (some (k, tc)) =>
    let seqN := match k.plans.head? with
      | some p => p.seq.length
      | none => 0
    firstOf
      [d Code.planMalformed (tablesBad k tc), d Code.planMalformed (transfersBad k), d Code.planMalformed (ringsBad ms ps k),
       d Code.planMalformed (firstIn hurdles (fun i h => { entry := some i : PlanPlace }.unless (decide (h < seqN)))),
       d Code.planMalformed ({ : PlanPlace }.unless (k.loopEntry == 0xFFFF || decide (k.loopEntry < seqN))),
       d Code.planMalformed (sourcesBad ms k), d Code.mapMissing (landingsBad ms k), d Code.planReserve (reserveBad k),
       if s.ownershipOk ms ps (some k) then none else d Code.planLink (some (s.ownershipAt ms ps k))]

/-! Golden-copy space (R56, Table 03-1). -/

/-- Bytes of golden slot tables that a plan section needs on a die: each link set with the die of its relay station, ring sets with
the die of JOB_PART 0, sized as their lists (log 74). -/
def goldenBytes (k : PlanSection) (ps : List PartId) (d : DieId) : Nat :=
  (k.plans.map (fun p => ((p.sets.filter (fun x =>
      (if x.isRing then dieOfPart ((ps[0]?).getD 0) else dieOfLink (finOf 6 x.link.toNat)) == d)).map (fun x =>
    32 + 8 * x.tables.length + 4 * x.segs.length + 32 * x.xfers.length + 4 * p.seq.length)).sum)).sum
/-- Bytes of map golden copies of a job on a die. -/
def goldenMapBytes (ms : List AllocMap) (ps : List PartId) (d : DieId) : Nat :=
  (((ms.zip ps).filter (fun x => dieOfPart x.2 == d)).map (fun x => 64 + 16 * x.1.count)).sum
/-- The partitions whose dies keep the golden copies of a job's maps: its own, or all at the park partition of a parked job (R397). -/
def Job.goldenParts (j : Job) : List PartId := if j.phase == .parked then j.image.maps.map (fun _ => j.lead) else j.parts
def State.goldenOk (s : State) (ms : List AllocMap) (ps : List PartId) (k : Option PlanSection) : Bool :=
  let plan := fun (k : Option PlanSection) (ps : List PartId) (d : DieId) => match k with
    | some k => goldenBytes k ps d
    | none => 0
  allDies.all (fun d =>
    decide (plan k ps d + (s.jobs.map (fun j => plan j.image.plan j.goldenParts d)).sum ≤ 192 * 2 ^ 20)
    && decide (goldenMapBytes ms ps d + (s.jobs.map (fun j => goldenMapBytes j.image.maps j.goldenParts d)).sum ≤ 16 * 2 ^ 20))

end Sys2Proof.Machine
end

