-- ==== Sys2Proof/Machine/Infield.lean ====
section
/-! DEFINITION. Scheduled occurrences of the infield rings (R249, R251 to R254, R418), frame by frame, and one beat of the rings for all
other traffic (R250, R256). The row of a beat enters a frame of an occurrence in its ring; it reaches its last stop as many beats later as it
crosses hops. -/

namespace Sys2Proof.Machine

/-! Frames of occurrences. -/

/-- Count the hop-beats of a leg (Table 11-6). -/
def State.useRing (s : State) (ring : Byte) (n : Nat) : State :=
  s.modInfield (fun i => i.modRing (ringDir ring) (fun v => v.set 0 (satAdd v[0] n)))
/-- The legs of a transfer's occurrences, as the RING field of each and its hops (R418). -/
def State.frameLegs (s : State) (j : Job) (t : W16) : List (Byte × Nat) :=
  match s.ringStops j t, j.ringSet false t, j.ringSet true t with
  | some (a, b), some kt, some kr =>
    match turnOf a b with
    | none => [(kt.ring, (legHops kt.ring a b).getD 0)]
    | some (_, _, x) => [(kt.ring, (legHops kt.ring a x).getD 0), (kr.ring, (legHops kr.ring x b).getD 0)]
  | _, _, _ => []
/-- Hop-beats that both legs of a frame of an occurrence use. -/
def State.countHops (s : State) (j : Job) (t : W16) : State := (s.frameLegs j t).foldl (fun s g => s.useRing g.1 g.2) s
/-- Beats from the one in which a frame enters to the one that begins as it reaches its last stop: one a hop, and the turn's own, after which
the second leg enters (R251, R252, R418). -/
def State.crossing (s : State) (j : Job) (t : W16) : Nat :=
  let gs := s.frameLegs j t
  (gs.map (·.2)).sum + (gs.length - 1)

/-- What a transfer's occurrences on the rings are: a link's drain, its feed, or a send between plots (R418). -/
inductive RingUse where
  | drain (kl : TableSet)
  | feed (kl : TableSet)
  | send
  deriving DecidableEq, Repr
def Job.ringUse (j : Job) (t : W16) : RingUse :=
  match j.linkSet true t, j.linkSet false t with
  | some kl, _ => .drain kl
  | none, some kl => .feed kl
  | none, none => .send

/-- The occurrence on the other set of the pair, in slot order: on the link of a feed or drain, on the ring RX set of a send. -/
def Job.paired (j : Job) (kt kr : TableSet) (t : W16) (x : LapSpan) (first : Nat) : Option (TableSet × Occurrence) :=
  let k := match j.ringUse t with
    | .drain kl | .feed kl => kl
    | .send => kr
  (k.nth x.table t (kt.place x.table t first)).map (fun y => (k, x.occ y.1 y.2))
/-- The number of an occurrence's SEND: that of the link's occurrence for a feed, of its own for a send (R116). -/
def Job.sendNumber (j : Job) (kt : TableSet) (t : W16) (x : LapSpan) (first : Nat) (o : Occurrence) : Nat :=
  match j.ringUse t with
  | .feed kl => j.occNumber kl t x.index o.slot
  | _ => j.occNumber kt t x.index first

/-! Samples of ring sends (R44 to R46, R254). -/

/-- Have frames of an earlier deferred send of an occurrence's slot not landed yet? It is deferred until its last one has, so that bursts land in
lap order (R46; DEDUCED, log 173). -/
def State.stillSending (s : State) (j : Job) (t : W16) (o : Occurrence) : Bool :=
  s.infield.transit.any (fun u => (u.deferredOf j.id).any (fun b =>
    b.frame.transfer == t && b.frame.occ.table == o.table && b.frame.occ.slot == o.slot))
/-- Sample the send or feed whose first slot is at `first`; it is noted once. A stumble is deferred; that of a send between plots is logged
and a slip requested, that of a feed is the stumble of its link (R253). -/
def State.ringSample (s : State) (j : Job) (kt kr : TableSet) (t : W16) (x : LapSpan) (first : Nat) (g : W32) : State :=
  match j.paired kt kr t x first with
  | none => s
  | some (_, o) =>
    if j.ringSampled.any (fun a => a.1 == t && a.2.occ.lapIndex == x.index && a.2.occ.slot == first) then s
    else
      let n := j.sendNumber kt t x first o
      let occ := x.occ first g
      let late := j.ringDeferred.any (fun d => d.transfer == t && d.occ.table == x.table && d.occ.slot == first) || s.stillSending j t o
      let out := match j.boundAt t n with
        | none => SampleOutcome.stumble
        | some b => if late then .stumble else if b.void = 0 then .present else .void
      let s := s.modJob j.id (fun j => { j with ringSampled := j.ringSampled ++ [(t, { occ := occ, number := n, outcome := out })] })
      if out != .stumble then s
      else
        let s := s.modJob j.id (fun j =>
          { j with ringDeferred := j.ringDeferred ++ [{ lead := j.lead, occ := occ, transfer := t, number := n,
                                                        ready := (j.boundAt t n).isSome, nextSlot := 0 }] })
        match j.ringUse t with
        | .feed _ => s
        | _ => (s.logAt Code.stumble j.fn.val ((slotLoc 6 j.lead x first).burst t x.index (j.dataBaton t n))).raiseSlip j 1 (x.start + first)

/-! Frames that an occurrence moves (R251). -/

/-- A frame of an occurrence sets out. One that crosses no hop is at its last stop; what the rings find in its words, they find there. -/
def State.flyFrame (s : State) (j : Job) (b : RingBurst) (err : Option EccErr) : State :=
  match s.crossing j b.frame.transfer with
  | 0 => s.burstFound err b
  | n + 1 => s.modInfield (fun i => { i with flights := i.flights ++ [{ due := s.pace.count.toNat + n + 1, err := err, burst := b }] })
/-- The frames that have reached their last stop as this beat begins. -/
def State.flightsLand (s : State) : State :=
  let due := fun (f : RingFlight) => decide (f.due ≤ s.pace.count.toNat)
  let fs := s.infield.flights.filter due
  fs.foldl (fun s f => s.burstFound f.err f.burst) (s.modInfield (fun i => { i with flights := i.flights.filter (fun f => !due f) }))

/-- The drain's frame: one that is held leaves for its plot. -/
def State.drainFrame (s : State) (j : Job) (kl : TableSet) (t : W16) (o : Occurrence) (i : Nat) (err : Option EccErr) : State :=
  let l := kl.station
  match (s.link l).hold.find? (fun f => f.transfer == t && f.occ == o && f.index == i) with
  | none => s
  | some f =>
    (s.modLink l (fun k => { k with hold := k.hold.erase f })).flyFrame j
      { job := j.id, station := finOf 7 l.val, feed := false, frame := f, void := false, carried := 0, send := none } err

/-- The frame of a void send between plots. -/
def ringVoid (j : Job) (t : W16) (o : Occurrence) (send : Option (W16 × Nat)) : RingBurst :=
  { job := j.id, station := 6, feed := false, frame := { transfer := t, occ := o, index := 0, data := [] }, void := true, carried := 0, send := send }
/-- The frame of a send or feed whose data baton was present: it is read from its plot and sets out; the SEND of a send ends as its last frame
enters the ring. A void send's first frame carries the void to its destination, and its SEND ends with it (R44, R116). -/
def State.occFrame (s : State) (j : Job) (kt : TableSet) (t : W16) (o : Occurrence) (a : Sampled) (i : Nat) (err : Option EccErr) : State :=
  let s := if i + 1 < o.len then s else s.modJob j.id (fun j => { j with ringSampled := j.ringSampled.erase (t, a) })
  match a.outcome, j.ringUse t, j.boundAt t a.number, kt.entry? t with
  | .present, use, some b, some y =>
    (match s.burstBytes 6 j y i with
     | (s, none) => s
     | (s, some bs) =>
       let f : StoredFrame := { transfer := t, occ := o, index := i, data := bs }
       match use with
       | .feed kl =>
         s.flyFrame j { job := j.id, station := finOf 7 kl.station.val, feed := true, frame := f, void := false, carried := 0, send := none } err
       | _ =>
         let s := if i + 1 == o.len then s.sendDone j.id b else s
         s.flyFrame j { job := j.id, station := 6, feed := false, frame := f, void := false, carried := b.carried, send := none } err)
  | .void, .send, some b, _ =>
    if i != 0 then s else (s.sendDone j.id b).flyFrame j (ringVoid j t o none) err
  | _, _, _, _ => s

/-! Deferred sends (R45, R254). -/

/-- The oldest deferred ring send of the ring station at which a transfer enters its ring, when it is the transfer's and its baton has arrived:
a ring station keeps its deferred sends in slot order (R45, R254). The ring station of a send is the one at its source stop. -/
def State.ringReady (s : State) (j : Job) (t : W16) : Option Deferred :=
  let stop := fun (t : W16) => (s.ringStops j t).map (·.1)
  (j.ringDeferred.filter (fun d => stop d.transfer == stop t)).head?.filter (fun d => d.ready && d.transfer == t)
/-- The frames of a deferred send go as order-2 traffic, a feed's to its link; the SEND of a send ends when the last one enters the ring. -/
def State.deferredFrames (s : State) (j : Job) (y : Transfer) (src dst : Stop) (st : Fin 7) (feed : Bool) (o : Occurrence) (b : BoundSend) :
    Nat → Nat → State
  | 0, _ => s
  | n + 1, i =>
    match s.burstBytes 6 j y i with
    | (s, none) => s
    | (s, some bs) =>
      (s.orderTwo src dst
        { job := j.id, station := st, feed := feed, frame := { transfer := y.number, occ := o, index := i, data := bs }
          void := false, carried := b.carried
          send := if n = 0 && !feed then some (b.transfer, b.occurrence) else none }).deferredFrames j y src dst st feed o b n (i + 1)
/-- Send the oldest deferred send of a transfer's ring station when its baton has arrived. That of a void baton sends its void; a feed's has
nothing to carry. -/
def State.sendRingDeferred (s : State) (j : Job) (kt kr : TableSet) (t : W16) : State :=
  match s.ringReady j t with
  | none => s
  | some d =>
    let s := s.modJob j.id (fun j => { j with ringDeferred := j.ringDeferred.erase d })
    match j.paired kt kr t d.occ.span d.occ.slot, j.boundAt t d.number, kt.entry? t, s.ringStops j t with
    | some (k, o), some b, some y, some (src, dst) =>
      let feed := match j.ringUse t with
        | .feed _ => true
        | _ => false
      if b.void != 0 then (if feed then s else s.orderTwo src dst (ringVoid j t o (some (b.transfer, b.occurrence))))
      else s.deferredFrames j y src dst (if feed then finOf 7 k.station.val else 6) feed o b o.len 0
    | _, _, _, _ => s

/-- The occurrence of a transfer that holds a slot of a table: its first slot, its segment, the place of the slot in it. -/
def TableSet.occAt (k : TableSet) (table : Nat) (t : W16) (slot : Nat) : Option (Nat × W32 × Nat) :=
  ((k.occs table t).find? (fun x => x.1 ≤ slot && decide (slot < x.1 + segLen x.2))).map (fun x => (x.1, x.2, slot - x.1))
/-- The frame that enters the ring for a transfer at this beat. -/
def State.ringFrame (s : State) (j : Job) (kt kr : TableSet) (t : W16) (err : Option EccErr) : State :=
  match j.spanAt s.pace.count.toNat with
  | none => s
  | some x =>
    match (if x.held then none else kt.occAt x.table t (s.pace.count.toNat - x.start)) with
    | none => s
    | some (first, g, i) =>
      let s := s.countHops j t
      match j.ringUse t, j.paired kt kr t x first with
      | .drain kl, some (_, o) => s.drainFrame j kl t o i err
      | _, some (_, o) =>
        let s := if i = 0 then s.ringSample j kt kr t x first g else s
        (match ((s.job? j.id).toList.flatMap (·.ringSampled)).find? (fun a => a.1 == t && a.2.occ.lapIndex == x.index && a.2.occ.slot == first) with
         | some (_, a) =>
           if a.outcome == .stumble then
             (if i + 1 < o.len then s else s.modJob j.id (fun j => { j with ringSampled := j.ringSampled.erase (t, a) }))
           else s.occFrame j kt t o a i err
         | none => s)
      | _, none => s
/-- The sample of a send or feed whose first slot is 2 beats ahead (R44). -/
def State.ringSampleAhead (s : State) (j : Job) (kt kr : TableSet) (t : W16) : State :=
  match j.ringUse t, s.spanAhead j (s.pace.count.toNat + 2) with
  | .drain _, _ => s
  | _, none => s
  | _, some x =>
    match (if x.held then none else kt.occAt x.table t (s.pace.count.toNat + 2 - x.start)) with
    | some (first, g, 0) => s.ringSample j kt kr t x first g
    | _ => s

/-- RING_OCCURRENCE: at each beat, the frame of a transfer's occurrence that enters the ring, the sample of one 2 beats ahead, and the
release of a deferred one (R44, R251, R254). err is what the rings find in a word of the frame. -/
def execRingOccurrence (lead : PartId) (transfer : W16) (err : Option EccErr) (s : State) : Out :=
  .next (match (s.jobOfLead lead).filter (·.phase == .run) with
    | none => s
    | some j =>
      match j.ringSet false transfer, j.ringSet true transfer with
      | some kt, some kr =>
        let now := fun (f : State → Job → State) (s : State) => match (s.job? j.id).filter (·.phase == .run) with
          | some j => f s j
          | none => s
        now (fun s j => s.ringSampleAhead j kt kr transfer)
          (now (fun s j => s.ringFrame j kt kr transfer err)
            (now (fun s j => s.sendRingDeferred j kt kr transfer) s))
      | _, _ => s)

/-! One beat of the rings for all other traffic (R250, R254, R256). -/

/-- Hops that reserved occurrences of a job hold in this beat (R251). -/
def Job.heldHops (j : Job) (c : Nat) : List (Nat × Nat) :=
  match j.activePlan, j.spanAt c with
  | some p, some x =>
    if x.held then []
    else
      (p.ringXfers.flatMap (fun t => legsOf ((ringOccs j.image.maps j.parts p t x.table).getD []))).flatMap (fun g =>
        ((List.range g.hops).filter (fun i => decide (x.start + g.slot + i ≤ c) && decide (c < x.start + g.slot + i + g.len))).map (fun i =>
          (ringDir g.ring, hopAt (ringDown g.ring) g.start i)))
  | _, _ => []
/-- A unit that enters a ring leaves the receive buffer it held; cells and plot units are counted on that ring, a burst frame may end its
SEND. -/
def State.unitEnters (s : State) (u : RingUnit) (dir : Nat) : State :=
  match u.load with
  | .cell _ _ _ => (s.unitLeaves u).modInfield (fun i => i.modRing dir (fun v => v.set 1 (satInc v[1])))
  | .burst b => s.burstLeaves b
  | .plot _ => s.modInfield (fun i => i.modRing dir (fun v => v.set 2 (satInc v[2])))
/-- A plot unit of an access of a partition was lost: its requester is answered as R262 states, by the time-out of a VC 0 request that nothing
answers; with every slot in use it is answered at once (R249, DESIGN CHOICE, log 143). -/
def State.plotLost (s : State) (p : PartId) : State :=
  match s.freeReq false with
  | none => s.partJobFault p Code.cellTimeout { Loc.base 6 with part := p.val }
  | some slot =>
    let reuse := s.infield.nextReuse false slot
    s.modInfield (fun i =>
      { i with
        reuse := (false, slot, reuse) :: i.reuse.filter (fun x => !(x.1 == false && x.2.1 == slot))
        requests := i.requests ++ [{ mgmt := false, slot := slot, reuse := reuse, owner := .plot p, base := mkFa false s.chip 0, cells := 1,
                                     length := 0, left := 1, refused := none, unitReset := false, linkDown := false, data := [] }] })
/-- A plot unit reaches its last stop, on die d: the plot answers a request, a reply ends its access. A single-bit error is corrected and counted; an
uncorrectable one discards the unit (R249, R250). A reply to an earlier incarnation of its requester is discarded and counted in MGT_STALE_COUNT,
as it is no cell (R356). -/
def State.plotArrives (s : State) (d : DieId) (err : Option EccErr) (x : PlotUnit) : State :=
  match err with
  | some .double => s.plotLost x.part
  | _ =>
    let s := if err.isSome then
        (s.modInfield (fun i => { i with corrected := satInc i.corrected })).logs Code.ringCorrected 0 (d.val * 8) else s
    if x.reply then (if s.userEpoch x.user == x.epoch then s else s.modMgt (fun m => { m with staleCount := satInc m.staleCount }))
    else s.addUnit ({ x with reply := true } : PlotUnit).unit
/-- The rings move their units for one beat. -/
def State.ringsMove (s : State) : State :=
  if s.infield.transit.isEmpty then s
  else
    let held := (s.jobs.filter (fun j => j.phase == .run)).flatMap (fun j => j.heldHops s.pace.count.toNat)
    let (us, b) := ringBeat held (s.pace.count.toNat % 2 == 0) s.infield.transit
    let arrived := us.filter (fun u => u.legs.isEmpty && u.cell?.isNone)
    let s := s.modInfield (fun i => { i with transit := us })
    let s := s.modInfield (fun i => i.dirsUsed.foldl (fun i d => i.peaks false d) i)
    let s := s.modInfield (fun i => { i with transit := i.transit.filter (fun u => u.cell?.isSome || !u.legs.isEmpty) })
    let s := b.entered.foldl (fun s x => s.unitEnters x.1 x.2) s
    arrived.foldl (fun s u => match u.load with
      | .burst b => s.burstFound u.err b
      | .plot x => s.plotArrives u.die u.err x
      | .cell _ _ _ => s) s

end Sys2Proof.Machine
end

