-- ==== Sys2Proof/Machine/Beat.lean ====
section
/-! DEFINITION. The passing of one beat of the pace (R35), which is what a step on an empty queue does. -/

namespace Sys2Proof.Machine

/-- One beat while main conversion runs and a reference clock is present (R17, R35, R39): the rings move their units (R250, R256), a link's buffer
that had no frame is judged (R197), the pace count advances by one, frames of reserved occurrences reach their last stop (R251), holds whose
target it has reached are counted (R49), and frames that came early are presented (R197). -/
def passBeat (s : State) : State :=
  if s.paceRuns then
    let s := allLinks.foldl (fun s l => s.bufferBeat l) s.ringsMove
    let s := ({ s with pace := { s.pace with count := s.pace.count + 1 } }).flightsLand.meetHolds
    allLinks.foldl (fun s l => s.presentDue 8 l) s
  else s

end Sys2Proof.Machine
end

