-- ==== Sys2Proof/Machine/Scrub.lean ====
section
/-! DEFINITION. The scrub of words, maps and relay tables (R57 to R60, R73, R187, R362) and the end of zeroing (R61, R360). -/

namespace Sys2Proof.Machine

/-! Words (R57, R58). -/

/-- An upset strikes a word, which holds the error until something meets it; a word with a double-bit error keeps it. A word of a unit can be
struck while the unit stands on a ring. -/
def State.strike (s : State) (x : UpsetPlace × EccErr) : State :=
  match x.1 with
  | .ring n =>
    s.modInfield (fun i =>
      { i with
        transit := i.transit.modify n (fun u => if u.place.isSome && u.err != some .double then { u with err := some x.2 } else u) })
  | .sram (.plot w) =>
    if s.eccAt w.val == some .double then s
    else s.modSram (fun m => { m with ecc := (w.val, x.2) :: m.ecc.filter (fun e => e.1 != w.val) })
  | .sram (.reserve d part p w) =>
    let here := fun (e : ReserveErr) => e.die == d && e.word == w.val
    if s.sram.reserve.any (fun e => here e && e.err == .double) then s
    else s.modSram (fun m =>
      { m with reserve := { die := d, part := part, holder := p, word := w.val, err := x.2 } :: m.reserve.filter (fun e => !here e) })

/-- The pass over a die begins: none of its words has been logged in it (R57, log 62). -/
def State.beginPass (s : State) (d : DieId) : State :=
  let ofDie := fun (k : Nat) => if k < 2 ^ 32 then dieOfWord k == d else (k - 2 ^ 32) / 2 ^ 25 == d.val
  s.modSram (fun m => { m with corrected := m.corrected.filter (fun k => !ofDie k) })

/-- SCRUB_WORD: upsets have struck words since the last command; the background scrub reads a word and handles what it holds. The pass
over a die begins with its first word (log 62). -/
def execScrubWord (place : ScrubPlace) (strikes : List (UpsetPlace × EccErr)) (s : State) : Out :=
  .next (
    if !s.power.mainPg then s
    else
      let s := strikes.foldl State.strike s
      match place with
      | .plot word =>
        let w := word.val
        let s := if w % 2 ^ 30 = 0 then s.beginPass (dieOfWord w) else s
        (s.meetWords { Loc.base 9 with tile := w / 2 ^ 24 } [w]).1
      | .reserve d _ _ word => s.meetReserve (Loc.base 9) (fun x => x.die == d && x.word == word.val))

/-! Checker copies and relay tables (R73, R187). -/

/-- The first used entry whose live fields are not the same in both copies and the golden copy. -/
def AllocMap.liveDiff (a b g : AllocMap) : Option Nat :=
  (List.range (Nat.min a.count (Nat.min b.count g.count))).find? (fun i =>
    meLive (a.entries.getD i 0) != meLive (b.entries.getD i 0) || meLive (a.entries.getD i 0) != meLive (g.entries.getD i 0))

/-- The first entry that is not the same in all three; where only other fields differ, entry 0 stands for them. -/
def AllocMap.anyDiff (a b g : AllocMap) : Option Nat :=
  if a == g && b == g then none
  else
    some (((List.range (Nat.max a.entries.length (Nat.max b.entries.length g.entries.length))).find? (fun i =>
      a.entries[i]? != g.entries[i]? || b.entries[i]? != g.entries[i]?)).getD 0)

/-- MAP_SCRUB: the golden copy of a partition's map is read, and its copies are compared with each other and with it. -/
def execMapScrub (p : PartId) (s : State) : Out :=
  let s := s.meetReserve (Loc.base 9) (fun x => x.part == .mapGolden && x.holder == some p)
  .next (match (s.part p).mapA, (s.part p).mapB, (s.part p).mapGold with
    | some a, some b, some g =>
      match a.liveDiff b g with
      | some i => s.partJobFault p Code.mapDiverged { Loc.base 9 with part := p.val, region := some i }
      | none =>
        match a.anyDiff b g with
        | some i => s.mapRewrite p i (Loc.base 9)
        | none => s
    | _, _, _ => s)

/-- PLAN_TABLE_SCRUB: a relay station's copies are compared with the golden copy. -/
def execPlanTableScrub (l : LinkId) (s : State) : Out :=
  .next (match (s.link l).tableA, (s.link l).tableB, (s.link l).owner.bind s.job? with
    | some a, some b, some j =>
      let at_ : Loc := { Loc.base 9 with link := l.val, part := j.lead.val }
      let s := s.meetGolden l j at_
      if (s.job? j.id).all (·.phase == .faulted) then s
      else
      match j.activePlan.map (·.forLink l) with
      | some g =>
        if a == g && b == g then s
        else if a.live == g.live && b.live == g.live then s.tableRewrite l j
        else s.tableDiverged j { at_ with slot := (a.diffPlace g l).orElse (fun _ => b.diffPlace g l) }
      | none => s
    | _, _, _ => s)

/-! Zeroing (R61, R238, R360, R362). -/

/-- Has a zeroing, or the scrub before it, the management core it needs (R366)? -/
def State.cleans (s : State) (p : PartId) : Bool :=
  (s.part p).zeroing && s.power.mainPg && s.boot.stage != .switching

/-- A descriptor whose partitions are all in MARKS completes: of a PARK with the bytes copied, and JOB_PARKED is logged (R396). -/
def State.taskDone (s : State) (t : ResetTask) : State :=
  match t.parked with
  | none => s.done t.desc Status.success
  | some (_, n) => (s.logs Code.jobParked t.desc.fn.val).complete t.desc { status := Status.success, detail0 := BitVec.ofNat 64 n }
/-- Step 4 of a PARK reaches its next partition, in ascending order: that leaves the job and is zeroed (R396). -/
def State.parkNext (s : State) (t : ResetTask) : State :=
  match t.parked, t.left with
  | some _, p :: _ => if (s.part p).zeroing then s else s.modPart p (·.leave .marks)
  | _, _ => s
/-- A named partition of a reset, an unload or a park has reached MARKS; the descriptor completes with the last. -/
def State.resetReached (s : State) (p : PartId) : State :=
  let left := s.mgt.unloads.map (fun t : ResetTask => { t with left := t.left.filter (· != p) })
  let s := s.modMgt (fun m => { m with unloads := left.filter (fun t => !t.left.isEmpty) })
  let s := left.foldl State.parkNext s
  (left.filter (fun t => t.left.isEmpty)).foldl (fun s t => s.taskDone t) s
/-- Forget a job none of whose partitions holds it any more. -/
def State.dropJobs (s : State) : State :=
  { s with jobs := s.jobs.filter (fun j => allParts.any (fun p => (s.part p).job == some j.id)) }

/-- ZEROING_DONE: the partition's plots are zero; it reaches MARKS and its owner leaves it. -/
def execZeroingDone (p : PartId) (s : State) : Out :=
  .next (
    if !s.cleans p || (s.part p).scrubFirst then s
    else
      let s := s.zeroRange (partBase p) (partBase p + 2 ^ 33)
      ((s.modPart p (fun _ => Partition.reset)).dropJobs).resetReached p)

/-- PARTITION_SCRUB_DONE: every word of the partition has been read; its errors are handled and its worn rows retired. -/
def execPartitionScrubDone (p : PartId) (s : State) : Out :=
  .next (
    if !s.cleans p || !(s.part p).scrubFirst then s
    else
      let ws := (s.sram.ecc.map (·.1)).filter (fun w => partOfWord w == p)
      let s := (s.meetWords (Loc.base 9) ws).1
      s.modPart p (fun q => { q with scrubFirst := false }))

end Sys2Proof.Machine
end

