-- ==== Sys2Proof/Machine/Descs.lean ====
section
/-! DEFINITION. The checks that descriptors share (R238, R286, R287, R393) and the end of a job (R86, R291). -/

namespace Sys2Proof.Machine

/-! Checks. -/

/-- The given words of a descriptor are zero. -/
def Desc.zeros (d : Desc) (ws : List (Fin 8)) : Bool := ws.all (fun i => d.word i == 0)
/-- Does a function own a partition, or is it PF0 (R238, R287)? -/
def State.owns (s : State) (f : FnId) (p : PartId) : Bool := f == 0 || (s.part p).owner == some f
/-- VFs that HIU_BINDp binds to a partition (R273). -/
def bindSlots (v : W32) : List Nat := ([fld v 5 0, fld v 13 8, fld v 21 16, fld v 29 24]).filter (· != 0)
def State.bound (s : State) (f : FnId) (p : PartId) : Bool := (bindSlots s.hiu.bind[p]).contains f.val
/-- STATE_CONFLICT, which is logged (R85, R99). -/
def State.conflict (s : State) (d : Desc) : State :=
  (s.logs Code.stateConflict d.fn.val).complete d { status := Status.stateConflict, fault := Code.stateConflict }
/-- START_REFUSED for a cause, which is logged (R99). -/
def State.startRefused (s : State) (d : Desc) (code : W16) : State :=
  (s.logs code d.fn.val).complete d { status := Status.startRefused, fault := code }
/-- The job that LEAD names, with every partition in one state; none is STATE_CONFLICT (R287). -/
def State.leadJob (s : State) (lead : PartId) (st : PState) : Option Job :=
  match s.jobOfLead lead with
  | some j => if j.parts.all (fun p => (s.part p).st == st && (s.part p).job == some j.id) then some j else none
  | none => none
/-- Permission of a VF descriptor that names partitions: PF0's lock, the issuing function, ownership (R287 steps 1 and 2). -/
def State.vfAllowed (s : State) (d : Desc) (ps : List PartId) : Bool :=
  !s.gated d && d.fn != 0 && ps.all (fun p => (s.part p).owner == some d.fn)

/-- The beats by which END_COUNT and RESUME_COUNT must lie ahead (R122, Table 12-8). -/
def leadBeats : Nat := 12288

/-! At a hurdle (R293). -/

/-- A package counts as at the hurdle once its hurdle event is written into the completion ring. -/
def State.atHurdle (s : State) (j : Job) : Bool :=
  j.hurdle.isSome &&
    !((s.fn j.fn).cqs[j.eventCq].waiting.any (fun c => c.kind == 2 && c.lead.toNat == j.lead.val && c.tag == j.tag))

/-! Queues of a PARKED partition, which the control state holds (R290, R396). -/

/-- A partition with its queues, those of a park partition taken from the control state saved. -/
def State.withQueues (s : State) (p : PartId) : Partition :=
  let q := s.part p
  if q.st == .parked then
    { q with queues := (((s.jobOf p).bind (fun j => j.saved.find? (fun x => x.jobPart == q.jobPart))).map (·.queues)).getD [] }
  else q
/-- A post into a queue of a PARKED partition; true when it found no room. -/
def State.parkedPost (s : State) (p : PartId) (t : Fin 32) (n : Fin 64) (e : QEntry) : State × Bool :=
  let q := s.withQueues p
  match s.jobOf p with
  | none => (s, true)
  | some j =>
    if !q.hasRoom t n then (s, true)
    else
      (s.modJob j.id (fun j =>
        { j with saved := j.saved.map (fun x => if x.jobPart == q.jobPart then { x with queues := (q.push t n e).queues } else x) }), false)

/-! The end of a job. -/

/-- The links of a job are released. -/
def State.releaseLinks (s : State) (id : Nat) : State :=
  { s with links := s.links.map (fun k : Link =>
      if k.owner == some id then
        { k with owner := none, deferred := [], sampled := [], landing := [], feed := [], hold := [], tableA := none, tableB := none }
      else k) }
/-- The channel 2 streams of a job stop at their next chunk (R333). -/
def State.stopStreams (s : State) (lead : PartId) (st : Byte) : State :=
  s.modSvc (fun v => { v with streams := v.streams.map (fun o : Option OutStream => o.map (fun t : OutStream =>
    if t.lead == lead && t.stop.isNone then { t with stop := some st } else t)) })
/-- Each partition of a job leaves it: its zeroing begins (R61). -/
def State.leaveParts (s : State) (id : Nat) (st : PState) : State :=
  { s.noteSlack with parts := s.parts.map (fun q : Partition => if q.job == some id then q.leave st else q) }
/-- A job leaves the package without an event. -/
def State.removeJob (s : State) (j : Job) (st : PState) : State :=
  let s := (s.leaveParts j.id st).releaseLinks j.id
  ({ s with jobs := s.jobs.filter (fun x => x.id != j.id) }).leaveDomain
/-- A job ends with SUCCESS: MARKS after zeroing, and its job end event. -/
def State.endJob (s : State) (j : Job) : State :=
  (s.jobEvent j 1 { status := Status.success, detail0 := s.pace.count }).removeJob j .marks

end Sys2Proof.Machine
end

