-- ==== Sys2Proof/Machine/Log.lean ====
section
/-! DEFINITION. The trouble log: the form of an entry (Table 15-3), the writing of entries (R348), messages to PF0 (R296), log export
(R334), holdoff timers (R349) and what a reader takes (R289). -/

namespace Sys2Proof.Machine

/-! Entries (R346). -/

def LogBody.flags : LogBody → Nat
  | .located _ => 2
  | .capture _ => 4
  | .continuation _ => 8
  | .count _ | .slot _ _ => 0
/-- The last 48 bytes of an entry. -/
def LogBody.bytes : LogBody → List Byte
  | .located r => wordsToBytes r.w.toList
  | .capture d => natLE 48 d.toNat
  | .continuation d => natLE 48 d.toNat
  | .count v => natLE 8 v.toNat ++ List.replicate 40 0
  | .slot b c => natLE 8 (Config.slotBad b c).toNat ++ List.replicate 40 0
/-- The 64 bytes of an entry. -/
def LogEntry.bytes (e : LogEntry) : List Byte :=
  natLE 2 e.code.toNat ++ [BitVec.ofNat 8 (b2n e.pinned + e.body.flags), e.vf] ++ natLE 4 e.seq.toNat ++ natLE 8 e.time.toNat ++ e.body.bytes
/-- The entry of a slot; none where the slot is empty. -/
def TroubleLog.slot? (g : TroubleLog) (n : Nat) : Option LogEntry := (g.slots.find? (fun x => x.1 == n)).map (·.2)

/-! The order of writing (R347). -/

/-- The entry that is written next: of those that reached the queue in the beat of the oldest one, the first by rank, the oldest of equals. -/
def TroubleLog.due (g : TroubleLog) : Option LogEntry :=
  match g.input with
  | [] => none
  | e :: rest =>
    some ((rest.takeWhile (fun x => e.beat.isSome && x.beat == e.beat)).foldl (fun m x => if x.rank < m.rank then x else m) e)

/-! Writing (R348). -/

/-- The first slot from n on that is not pinned. -/
def TroubleLog.unpinned (g : TroubleLog) : Nat → Nat → Nat
  | 0, n => n
  | k + 1, n => if (g.slot? n).any (·.pinned) then g.unpinned k ((n + 1) % 4096) else n
/-- Write an entry at LOG_HEAD: it takes the next SEQ, is pinned when due, and LOG_HEAD goes on past pinned slots. -/
def TroubleLog.write (g : TroubleLog) (e : LogEntry) : TroubleLog × LogEntry :=
  let cls := faultClass e.code
  let pin := (cls == 4 || cls == 5) && decide (g.pinned.toNat < 32)
  let e := { e with seq := g.seq, pinned := pin }
  let h := g.head.toNat
  let full := (g.slot? h).isSome
  let g1 : TroubleLog :=
    { g with
      slots := (h, e) :: g.slots.filter (fun x : Nat × LogEntry => x.1 != h)
      seq := g.seq + 1
      pinned := if pin then g.pinned + 1 else g.pinned
      overwritten := if full then satInc g.overwritten else g.overwritten }
  ({ g1 with head := BitVec.ofNat 12 (g1.unpinned 4096 ((h + 1) % 4096)) }, e)

/-- A message on HIU_LOG_VEC for an entry whose class is not masked (R296). -/
def State.logMessage (s : State) (code : W16) : State :=
  if bit s.hiu.logVec 31 && !(bit s.hiu.errMask (faultClass code)) then s.msix 0 (BitVec.ofNat 8 (fld s.hiu.logVec 7 0)) else s
/-- An entry leaves to the subscriber, in a frame of its own; SEQ counts frames (R334). -/
def State.exportEntry (s : State) (e : LogEntry) : State :=
  match s.svc.subscriber with
  | none => s
  | some r =>
    let s1 := s.sendFrame r.port r.sub (zshFrame r 0 s.svc.exportSeq e.bytes)
    s1.modSvc (fun v => { v with exportSeq := v.exportSeq + 1 })

/-- LOG_WRITE: the log takes the queued entry that is due; a pinned one sets STATUS bit 3 of PWR_ALERT (Table 16-3). -/
def execLogWrite (s : State) : Out :=
  .next (match s.log.due with
    | none => s
    | some e =>
      let (g, w) := { s.log with input := s.log.input.erase e }.write e
      let t := { s with log := g }
      let t := if w.pinned then t.modPower (fun q => { q with alertStatus := q.alertStatus ||| 8 }) else t
      ((t.logMessage w.code).exportEntry w))

/-- LOG_HOLDOFF_EXPIRY: a scope's timer of one period ends (R349). -/
def execLogHoldoffExpiry (scope : HoldoffScope) (s : State) : Out :=
  .next (s.modLog (fun g => { g with holdoffs := g.holdoffs.erase scope }))

/-! Reading (R289). -/

/-- Examine up to n slots from slot i, taking at most count entries that meet a test: the entries, and how many slots were
examined. -/
def TroubleLog.take (g : TroubleLog) (ok : LogEntry → Bool) : Nat → Nat → Nat → List LogEntry × Nat
  | 0, _, _ => ([], 0)
  | _ + 1, _, 0 => ([], 0)
  | n + 1, i, count + 1 =>
    match g.slot? i with
    | some e =>
      if ok e then
        let r := g.take ok n ((i + 1) % 4096) count
        (e :: r.1, r.2 + 1)
      else
        let r := g.take ok n ((i + 1) % 4096) (count + 1)
        (r.1, r.2 + 1)
    | none =>
      let r := g.take ok n ((i + 1) % 4096) (count + 1)
      (r.1, r.2 + 1)
/-- What LOG_READ takes: its bytes, and the index after the last slot examined. -/
def TroubleLog.readFor (g : TroubleLog) (f : FnId) (first count : Nat) : List Byte × Nat :=
  let r := g.take (fun e => f == 0 || e.vf.toNat == f.val) 4096 first count
  (r.1.flatMap LogEntry.bytes, (first + r.2) % 4096)

end Sys2Proof.Machine
end

