-- ==== Sys2Proof/Machine/Query.lean ====
section
/-! DEFINITION. QUERY (R288, Table 12-9) and LOG_READ (R289). -/

namespace Sys2Proof.Machine

/-! Results of QUERY. -/

/-- State numbers of KIND 0. -/
def PState.number : PState → Nat
  | .marks => 0
  | .set => 1
  | .run => 2
  | .hold => 3
  | .parked => 4
  | .faulted => 5
/-- The 16-byte record of a partition. -/
def State.partRecord (s : State) (p : PartId) : List Byte :=
  let q := s.part p
  let (armed, lead, here) := match s.jobOf p with
    | some j => (j.phase == .armed, j.lead.val, s.atHurdle j)
    | none => (false, 0, false)
  [BitVec.ofNat 8 (q.shown.number + 128 * b2n armed), BitVec.ofNat 8 (s.vfOf p), BitVec.ofNat 8 lead, BitVec.ofNat 8 q.jobPart]
    ++ natLE 2 q.fault.toNat ++ [BitVec.ofNat 8 (b2n here), 0] ++ List.replicate 8 0
/-- KIND 1: occupancy, highest occupancy and DEPTH of a queue; one that is not declared reads as zero. -/
def State.queueRecord (s : State) (p : PartId) (w3 : W64) : List Byte :=
  let (n, h, d) := match (s.withQueues p).queue? (finOf 32 (fld w3 12 8)) (finOf 64 (fld w3 5 0)) with
    | some k => (k.entries.length, k.highest, k.depth)
    | none => (0, 0, 0)
  natLE 2 n ++ natLE 2 h ++ natLE 2 d ++ List.replicate 10 0
/-- KIND 2: the avoid list of a plan of the partition's job. -/
def State.avoidRecord (s : State) (p : PartId) (w3 : W64) : List Byte :=
  let es := match (s.jobOf p).bind (fun j => j.image.plan.bind (fun k => k.plan? (fld w3 2 0))) with
    | some g => g.avoid
    | none => []
  BitVec.ofNat 8 es.length :: List.replicate 7 0 ++ es.flatMap (fun e => natLE 4 e.toNat)
/-- KIND 3: the pace. -/
def State.paceRecord (s : State) : List Byte :=
  let dom : Nat := match s.pace.domain with
    | some d => d.id.toNat
    | none => 0
  natLE 8 s.pace.count.toNat ++ [BitVec.ofNat 8 s.pace.grade.val, 0] ++ natLE 2 s.horizon
    ++ [BitVec.ofNat 8 dom, BitVec.ofNat 8 (min s.pace.worst s.pace.lastWorst).val] ++ List.replicate 18 0

def Desc.kind (d : Desc) : Nat := fld (d.word 2) 63 56
def Desc.queryPart (d : Desc) : PartId := finOf 8 (fld (d.word 2) 2 0)
def Desc.queryChip (d : Desc) : BitVec 13 := BitVec.ofNat 13 (fld (d.word 3) 28 16)
def Desc.queryGroup (d : Desc) : Nat := fld (d.word 3) 15 8
def Desc.queryPage (d : Desc) : Nat := fld (d.word 3) 7 0
/-- Does a QUERY ask another package for its counters? -/
def State.remoteQuery (s : State) (d : Desc) : Bool := d.kind == 4 && d.queryChip != s.chip
/-- The result of a QUERY that this package answers. -/
def State.queryResult (s : State) (d : Desc) : List Byte :=
  let p := d.queryPart
  if d.kind = 0 then
    allParts.flatMap (fun p => if d.fn == 0 || s.bound d.fn p then s.partRecord p else List.replicate 16 0)
  else if d.kind = 1 then s.queueRecord p (d.word 3)
  else if d.kind = 2 then s.avoidRecord p (d.word 3)
  else if d.kind = 3 then s.paceRecord
  else s.infield.counterData d.queryGroup d.queryPage

/-! The descriptors. -/

/-- A result's window offset: a buffer, or none inside a ZSH frame. -/
def State.bufferOk (s : State) (d : Desc) : Bool := if s.inFrame d then d.word 1 == 0 else winOffsetOk (d.word 1)
/-- Word 3 of each KIND (Table 12-9). -/
def queryWord3 (kind : Nat) (w : W64) : Bool :=
  if kind = 1 then fld w 63 13 == 0 && fld w 7 6 == 0
  else if kind = 2 then fld w 63 3 == 0
  else if kind = 4 then fld w 63 29 == 0
  else w == 0
/-- The fields of a QUERY. PART is Rsvd in the KINDs that name no partition, as every field a descriptor does not use (R286, R3). -/
def State.queryOk (s : State) (d : Desc) : Bool :=
  d.word0Ok && s.bufferOk d && d.zeros [4, 5, 6, 7] && fld (d.word 2) 55 3 == 0 && decide (d.kind ≤ 4)
  && (d.kind == 1 || d.kind == 2 || fld (d.word 2) 2 0 == 0)
  && queryWord3 d.kind (d.word 3) && (d.kind != 4 || (d.fn == 0 && (s.inExtents d.queryChip || d.queryChip == s.chip)))

/-- A QUERY from step 4 on; unchanged while it needs a request slot and none is free. -/
def State.queryGo (s : State) (o : WinOp) : State :=
  let d := o.desc
  if s.remoteQuery d && (s.freeReq true).isNone then s
  else
    match s.openHeader o with
    | .ended s => s
    | .opened s o =>
      if s.remoteQuery d then
        (if o.hdr.len < 48 then s.shortBuf o 48 else (s.openCounters d d.queryChip d.queryGroup d.queryPage).getD s)
      else s.winGive o (s.queryResult d) 0

/-- QUERY. One that names a partition in HOLD is a conflict (R361). -/
def execQuery (s : State) : Out :=
  .next (match s.takeMc Op.query with
    | none => s
    | some (d, t) =>
      if !s.queryOk d then t.done d Status.badDescriptor
      else if t.gated d || ((d.kind == 1 || d.kind == 2) && !t.owns d.fn d.queryPart) then t.done d Status.notPermitted
      else if (d.kind == 1 || d.kind == 2) && (t.part d.queryPart).st == .hold then t.conflict d
      else if s.remoteQuery d && (s.freeReq true).isNone then s
      else if s.inFrame d then
        (if s.remoteQuery d then (t.openCounters d d.queryChip d.queryGroup d.queryPage).getD s
         else t.giveResult d none (t.queryResult d) 0)
      else
        let o := t.winOp d none
        let u := t.pushOp o
        if u.canClaim o then u.queryGo o else u)

def State.logReadOk (s : State) (d : Desc) : Bool :=
  d.word0Ok && s.bufferOk d && d.zeros [3, 4, 5, 6, 7] && fld (d.word 2) 63 32 == 0 && fld (d.word 2) 15 12 == 0
  && decide (1 ≤ fld (d.word 2) 31 16) && decide (fld (d.word 2) 31 16 ≤ 4096)
/-- What a LOG_READ gives: the bytes and the next index. -/
def State.logRead (s : State) (d : Desc) : List Byte × Nat := s.log.readFor d.fn (fld (d.word 2) 11 0) (fld (d.word 2) 31 16)
/-- A LOG_READ from step 4 on. -/
def State.logReadGo (s : State) (o : WinOp) : State :=
  match s.openHeader o with
  | .ended s => s
  | .opened s o => s.winGive o (s.logRead o.desc).1 (BitVec.ofNat 64 (s.logRead o.desc).2)

/-- LOG_READ. -/
def execLogRead (s : State) : Out :=
  .next (match s.takeMc Op.logRead with
    | none => s
    | some (d, t) =>
      if !s.logReadOk d then t.done d Status.badDescriptor
      else if t.gated d then t.done d Status.notPermitted
      else if s.inFrame d then t.giveResult d none (t.logRead d).1 (BitVec.ofNat 64 (t.logRead d).2)
      else
        let o := t.winOp d none
        let u := t.pushOp o
        if u.canClaim o then u.logReadGo o else u)

end Sys2Proof.Machine
end

