-- ==== Sys2Proof/Machine/Clock.lean ====
section
/-! DEFINITION. Device time (R335 to R340, R414) and the reference clocks (R39, R335, Table 16-4). -/

namespace Sys2Proof.Machine

/-! PTP registers (Table 18-10). -/

def Clock.pending (c : Clock) : Bool := c.change.isSome || c.incrNext.isSome
def State.setupRejected (s : State) (f : FnId) : State := s.logs Code.setupRejected f.val

/-- A write to PTP_INCR: 3.5 to 4.5 ns, from the next tick on (R335). -/
def State.setIncr (s : State) (v : W64) : State :=
  let x : BitVec 40 := BitVec.ofNat 40 (fld v 39 0)
  if x.toNat < 0x0380000000 || 0x0480000000 < x.toNat then s.setupRejected 0
  else s.modClock (fun c => { c with incrNext := some x })

/-- PTP_CTRL.STEP_GO and SET_GO: the change waits for its tick; none may wait already (R414). -/
def State.timeChange (s : State) (x : TimeChange) : State :=
  if s.clock.pending then s.setupRejected 0 else s.modClock (fun c => { c with change := some x })
def execStepGo (force : Bool) (s : State) : Out := s.overHost (·.timeChange (.step force))
def execSetGo (force : Bool) (s : State) : Out := s.overHost (·.timeChange (.set force))

/-- A read of PTP_TIME_NS (R336). -/
def execPtpTimeNs (s : State) : Out :=
  s.overHost (·.modClock (fun c => { c with latSec := c.sec, latFrac := c.frac, readData := BitVec.ofNat 64 c.ns.toNat }))

/-- A read of PTP_SPn_TXTS0 (R339). -/
def execPtpSpTxts0 (p : PortId) (s : State) : Out :=
  s.overHost (·.modClock (fun c =>
    match c.stamps[p].entries with
    | [] => { c with readData := 0 }
    | e :: rest =>
      { c with
        stamps := vmod c.stamps p (fun q => { q with entries := rest, latched := e })
        readData := BitVec.ofNat 64 (2 ^ 31 + e.sub.val * 2 ^ 16 + e.id.toNat) }))

/-- A read of PTP_PACE_COUNT, and of PTP_PACE_TIME after it (R340). -/
def execPtpPaceCount (thenTime : Bool) (s : State) : Out :=
  s.overHost (·.modClock (fun c =>
    if thenTime then { c with paceFrozen := false, readData := c.paceTime } else { c with paceFrozen := true, readData := c.paceCount }))

/-! The tick (R335, R337). -/

def nsPerSec : Nat := 1000000000
/-- The time in whole nanoseconds. -/
def Clock.total (c : Clock) : Nat := c.sec.toNat * nsPerSec + c.ns.toNat
/-- Set SEC and NS to a time in whole nanoseconds. -/
def Clock.put (c : Clock) (t : Nat) : Clock := { c with sec := BitVec.ofNat 64 (t / nsPerSec), ns := BitVec.ofNat 30 (t % nsPerSec) }
/-- Add PTP_INCR to NS and FRAC, and carry into SEC. -/
def Clock.advance (c : Clock) : Clock :=
  let f := c.frac.toNat + c.incr.toNat % 2 ^ 32
  { c.put (c.total + c.incr.toNat / 2 ^ 32 + f / 2 ^ 32) with frac := BitVec.ofNat 32 f }

/-- What a change asks for. -/
inductive ChangeFate where
  | malformed
  | refused
  | applied (t : Nat) (set : Bool)
  deriving DecidableEq, Repr

/-- Judge the change that waits, in whole nanoseconds. -/
def Clock.judge (c : Clock) (x : TimeChange) : ChangeFate :=
  match x with
  | .step force =>
    let off := signed 64 c.step.toNat
    let t : Int := (c.total : Int) + off
    if t < 0 then .malformed
    else if !force && decide (c.thresh.toNat < off.natAbs) then .refused
    else .applied t.toNat false
  | .set force =>
    let t := c.setSec.toNat * nsPerSec + c.setNs.toNat
    if nsPerSec ≤ c.setNs.toNat then .malformed
    else if !force && decide (c.thresh.toNat < ((t : Int) - (c.total : Int)).natAbs) then .refused
    else .applied t true

/-- Apply or refuse the change that waits (R337). FRAC after a set is a free value. -/
def State.applyChange (s : State) : State :=
  match s.clock.change with
  | none => s
  | some x =>
    let t := s.modClock (fun c => { c with change := none })
    match s.clock.judge x with
    | .malformed => t.setupRejected 0
    | .refused => (t.modClock (fun c => { c with jumpRefused := true })).logs Code.jumpRefused
    | .applied n false => (t.modClock (fun c => c.put n)).logs Code.clockStep
    | .applied n true =>
      let (k, u) := t.draw
      (u.modClock (fun c => { c.put n with frac := BitVec.ofNat 32 k })).logs Code.clockStep

/-- DEVICE_TIME_TICK: a change first, then a new increment, then the advance. -/
def execDeviceTimeTick (s : State) : Out :=
  .next (if !s.power.porReleased then s
    else
      let s := s.applyChange
      let s := s.modClock (fun c => { c with incr := c.incrNext.getD c.incr, incrNext := none })
      s.modClock Clock.advance)

/-! Reference clocks. -/

/-- LOCALREF has no edge for 100 ns: the tick runs from SVCREF (R335). -/
def execTimeRefFallback (s : State) : Out :=
  .next (if !s.power.porReleased || s.clock.fallback then s
    else (s.modClock (fun c => { c with fallback := true })).logs Code.timeRefFallback)
/-- LOCALREF shows edges again; the pacer too may run from it. -/
def execLocalrefReturn (s : State) : Out :=
  .next ((s.modClock (fun c => { c with fallback := false })).modPace (fun p => { p with refsLost := false }))

/-- RACKREF has no edge for 100 ns: the pacer runs from LOCALREF (R39). -/
def execRackrefLost (s : State) : Out :=
  .next (if !s.power.mainPg then s
    else
      let t := s.modPace (fun p => { p with localref := true, rackrefBack := false })
      if s.pace.localref then t else t.logs Code.rackrefLost)
/-- RACKREF has been good for 10 ms: the pacer changes back at the next mark (R39). -/
def execRackrefRestored (s : State) : Out :=
  .next (if s.power.mainPg && s.pace.localref then s.modPace (fun p => { p with rackrefBack := true, refsLost := false }) else s)
/-- Both references are absent: a class 5 fault (R39, R343). -/
def execRefsLost (s : State) : Out :=
  .next (if !s.power.mainPg || s.pace.refsLost then s
    else (s.modPace (fun p => { p with refsLost := true, localref := true, rackrefBack := false })).packageFault Code.refsLost)

end Sys2Proof.Machine
end

