-- ==== Sys2Proof/WellFormed.lean ====
section
/-! DEFINITION. Which operands can occur at the package's lands. A command with other operands does not stop the machine: a register
access of another size is ignored and logged (R5), of a wider value the bytes the access carries are written, and a byte at a bus address
beyond 64 bits does not exist. -/

namespace Sys2Proof

/-- A register access is of 1, 2, 4 or 8 bytes: what a PCI Express request of the host can carry (R5 judges which of them
the device accepts). -/
def sizeOk (size : Fin 9) : Bool := size.val == 1 || size.val == 2 || size.val == 4 || size.val == 8

/-- Bytes written are at bus addresses of 64 bits. -/
def writesOk (ws : HostWrites) : Bool := ws.all (fun w => w.1 < 2 ^ 64)

/-- Every check on operands, command by command. -/
def wellFormed : Instr → Bool
  | .registerWrite _ _ size v => sizeOk size && decide (v.toNat < 2 ^ (8 * size.val))
  | .doorbellSnoop _ _ _ ws => writesOk ws
  | .doorbellPoll _ _ _ ws => writesOk ws
  | .ringSqEnable _ _ ws => writesOk ws
  | .ringCqEnable _ _ ws => writesOk ws
  | _ => true

end Sys2Proof
end

