-- ==== Sys2Proof/Machine/Rings.lean ====
section
/-! DEFINITION. Rings: doorbell modes and lines (R278 to R283), enabling and disabling (R276, R277), fetch and dispatch (R284 to
R286), and the delay of interrupts (R296). -/

namespace Sys2Proof.Machine

/-! Doorbell modes (R281). -/

/-- DBL_MODE_FALLBACK, once per change of mode or port. -/
def State.checkFallback (s : State) (f : FnId) : State :=
  let fb := (s.fn f).dblMode && !s.snoops f
  let log := fb && !(s.fn f).fallbackLogged
  let s := s.modFn f (fun x => { x with fallbackLogged := fb })
  if log then s.logs Code.dblModeFallback f.val else s

/-! Enabling a ring (R276). -/

/-- Checks of BASE, DBL, SIZE_LOG2 and of what the ring and its line lie in. -/
def State.ringOk (s : State) (base dbl : W64) (sizeLog2 : BitVec 5) (entry : Nat) : Bool :=
  base.toNat % 4096 == 0 && dbl.toNat % 64 == 0 && decide (6 ≤ sizeLog2.toNat) && decide (sizeLog2.toNat ≤ 16)
  && (s.targetCheck base.toNat (entry * 2 ^ sizeLog2.toNat)).isNone && (s.targetCheck dbl.toNat 64).isNone
/-- HOST_COUNT of a doorbell line, or none when the read fails (Table 12-6). -/
def State.hostCount (s : State) (dbl : W64) : Option W32 := (s.hostRead dbl.toNat 4).map (fun bs => BitVec.ofNat 32 (leNat bs))

/-- A write of 1 to the ENABLE of a submission ring. A line that cannot be read leaves the ring as it was. -/
def State.sqEnable (s : State) (f : FnId) (n : RingIx) : State :=
  let q := (s.fn f).sqs[n]
  if q.enable then s
  else if !s.ringOk q.base q.dbl q.sizeLog2 64 || !((s.fn f).cqs[q.cq].enable) then
    (s.modSq f n (fun q => { q with error := true, errCause := 1 })).logs Code.ringSetupBad f.val
  else
    match s.hostCount q.dbl with
    | none =>
      let s' := s.modSq f n (fun q => { q with readFail := true })
      if q.readFail then s' else s'.logs Code.dblReadFail f.val
    | some c =>
      ((s.modSq f n (fun q =>
        { q with enable := true, stopped := false, errCause := 0, head := c, tail := c, seen := c, unchanged := 0, interval := 250,
                 readFail := false })).shareLine f q.dbl).sqStatus f n

/-- A write of 1 to the ENABLE of a completion ring. -/
def State.cqEnable (s : State) (f : FnId) (n : RingIx) : State :=
  let q := (s.fn f).cqs[n]
  if q.enable then s
  else if !s.ringOk q.base q.dbl q.sizeLog2 32 then
    (s.modCq f n (fun q => { q with error := true, errCause := 1 })).logs Code.ringSetupBad f.val
  else
    match s.hostCount q.dbl with
    | none =>
      let s' := s.modCq f n (fun q => { q with readFail := true })
      if q.readFail then s' else s'.logs Code.dblReadFail f.val
    | some c =>
      (((s.modCq f n (fun q =>
        { q with enable := true, errCause := 0, count := c, head := c, sinceMsg := 0, unchanged := 0, interval := 250,
                 readFail := false })).shareLine f q.dbl).cqStatus f n).drainCq f n (q.waiting.length + 1)

/-- RING_SQ_ENABLE. -/
def execRingSqEnable (f : FnId) (n : RingIx) (writes : HostWrites) (s : State) : Out :=
  s.overHost (fun s => (s.hostWrote writes).sqEnable f n)
/-- RING_CQ_ENABLE. -/
def execRingCqEnable (f : FnId) (n : RingIx) (writes : HostWrites) (s : State) : Out :=
  s.overHost (fun s => (s.hostWrote writes).cqEnable f n)

/-! Disabling a ring (R277). -/

/-- A descriptor was fetched from the ring. -/
def Desc.fromSq (d : Desc) (f : FnId) (n : RingIx) : Bool := d.origin == .ring f n
/-- A write of 0 to the ENABLE of a submission ring: descriptors fetched and not started complete with RING_ABORTED, a LOAD that has
not been taken up among them (R81, R285). -/
def State.sqDisable (s : State) (f : FnId) (n : RingIx) : State :=
  let q := (s.fn f).sqs[n]
  if !q.enable then s
  else
    let ds := s.mgt.loads.filter (·.fromSq f n) ++ s.hiu.mcQueue.filter (·.fromSq f n) ++ s.hiu.reQueue.filter (·.fromSq f n) ++ q.held
    let s := s.modSq f n (fun q => { q with enable := false, held := [] })
    let s := s.modMgt (fun m => { m with loads := m.loads.filter (fun d => !d.fromSq f n) })
    let s := s.modHiu (fun h =>
      { h with
        mcQueue := h.mcQueue.filter (fun d => !d.fromSq f n)
        reQueue := h.reQueue.filter (fun d => !d.fromSq f n) })
    ((ds.foldl (fun s d => s.done d Status.ringAborted) s).sqSettle f n).dropLines

/-- A job that is armed, in RUN or PARKED names the ring as EVENT_CQ, or one whose partition a reset holds in HOLD does (R277). -/
def State.eventCqUsed (s : State) (f : FnId) (n : RingIx) : Bool :=
  s.jobs.any (fun j => j.fn == f && j.eventCq == n && (j.phase == .armed || j.phase == .run || j.phase == .parked))
  || allParts.any (fun p => (s.part p).st == .hold && (s.part p).heldCq == some (f, n))
/-- A submission ring that names the completion ring is not STOPPED. -/
def State.sqsNaming (s : State) (f : FnId) (n : RingIx) : Bool := (s.fn f).sqs.toList.any (fun q => q.cq == n && !q.stoppedNow)
/-- A write of 0 to the ENABLE of a completion ring. -/
def State.cqDisable (s : State) (f : FnId) (n : RingIx) : State :=
  if !(s.fn f).cqs[n].enable then s
  else if s.sqsNaming f n || s.eventCqUsed f n then s.logs Code.ringBusy f.val
  else (s.modCq f n (fun q => { q with enable := false })).dropLines

/-- RING_SQ_DISABLE. -/
def execRingSqDisable (f : FnId) (n : RingIx) (s : State) : Out := s.overHost (·.sqDisable f n)
/-- RING_CQ_DISABLE. -/
def execRingCqDisable (f : FnId) (n : RingIx) (s : State) : Out := s.overHost (·.cqDisable f n)

/-! Doorbell lines (R278 to R283). -/

/-- The device reads a submission ring's line and acts on a change of HOST_COUNT; TAIL beyond the ring size stops the ring (R280).
The polling interval doubles from the 64th unchanged read on. A ring that has stopped on an error acts on no change, but its line is read as
that of any enabled ring (R282, R283). -/
def State.readSqLine (s : State) (f : FnId) (n : RingIx) : State :=
  let q := (s.fn f).sqs[n]
  let same := fun (s : State) => s.modSq f n (fun q =>
    { q with unchanged := q.unchanged + 1, interval := if 64 ≤ q.unchanged + 1 then Nat.min (2 * q.interval) 8000 else q.interval })
  if !q.enable then s
  else
    match s.hostCount q.dbl with
    | none =>
      let s' := same (s.modSq f n (fun q => { q with readFail := true }))
      if q.readFail then s' else s'.logs Code.dblReadFail f.val
    | some c =>
      let s := (s.modSq f n (fun q => { q with readFail := false })).shareLine f q.dbl
      if c == q.seen then same s
      else
        let s := s.modSq f n (fun q => { q with seen := c, unchanged := 0, interval := 250 })
        if q.errCause != 0 then s
        else
        let s := s.modSq f n (fun q => { q with tail := c })
        if q.size < (c - q.head).toNat then
          ((s.modSq f n (fun q => { q with error := true, errCause := 2, stopped := q.inflight == 0 })).logs Code.ringTailBad f.val).sqStatus f n
        else s

/-- The device reads a completion ring's line; a new HEAD lets waiting entries be written (R295). -/
def State.readCqLine (s : State) (f : FnId) (n : RingIx) : State :=
  let q := (s.fn f).cqs[n]
  let same := fun (s : State) => s.modCq f n (fun q =>
    { q with unchanged := q.unchanged + 1, interval := if 64 ≤ q.unchanged + 1 then Nat.min (2 * q.interval) 8000 else q.interval })
  if !q.enable then s
  else
    match s.hostCount q.dbl with
    | none =>
      let s' := same (s.modCq f n (fun q => { q with readFail := true }))
      if q.readFail then s' else s'.logs Code.dblReadFail f.val
    | some c =>
      let s := (s.modCq f n (fun q => { q with readFail := false })).shareLine f q.dbl
      if c == q.head then same s
      else (s.modCq f n (fun q => { q with head := c, unchanged := 0, interval := 250 })).drainCq f n (q.waiting.length + 1)

def State.readLine (s : State) (f : FnId) (completion : Bool) (n : RingIx) : State :=
  if completion then s.readCqLine f n else s.readSqLine f n
/-- Bus address of a ring's doorbell line. -/
def State.lineOf (s : State) (f : FnId) (completion : Bool) (n : RingIx) : Nat :=
  if completion then (s.fn f).cqs[n].dbl.toNat else (s.fn f).sqs[n].dbl.toNat

/-- DOORBELL_SNOOP: the host has written its memory, which invalidates the copy of the ring's line; in snoop mode the device reads the
line again (R282). -/
def execDoorbellSnoop (f : FnId) (completion : Bool) (n : RingIx) (writes : HostWrites) (s : State) : Out :=
  let s := s.hostWrote writes
  .next (if !s.snoops f then s
    else
      let a := s.lineOf f completion n
      (s.modHiu (fun h => { h with lines := h.lines.map (fun x => if x.1 == a then (a, .invalid) else x) })).readLine f completion n)

/-- A function's mode or the port's protocol has changed: in snoop mode the device takes the lines of the enabled rings, otherwise it
gives them up. -/
def State.takeLines (s : State) (f : FnId) : State :=
  let s := s.checkFallback f
  if s.snoops f then allRings.foldl (fun s n => (s.readSqLine f n).readCqLine f n) s else s.dropLines

/-- DOORBELL_POLL: a polling interval expires. A completion ring's line is read only while HEAD leaves no entry that an ordinary
completion may take (R283, R295). -/
def execDoorbellPoll (f : FnId) (completion : Bool) (n : RingIx) (writes : HostWrites) (s : State) : Out :=
  let s := s.hostWrote writes
  .next (if s.snoops f || s.hiu.port != .up || (completion && 1 < (s.fn f).cqs[n].free) then s else s.readLine f completion n)

/-! Fetch and dispatch (R284 to R286). -/

/-- A descriptor goes to its unit's queue. An unknown opcode completes at once; a descriptor of the Management Complex completes
with UNIT_RESET while that unit is in HOLD (R355), and with RETRY while the firmware is not running or a live update runs (R297, R391). -/
def State.deliver (s : State) (d : Desc) : State :=
  if Op.ofMc d.opcode then
    (if s.inHold .managementComplex then s.done d Status.unitReset
     else if s.mcRetries then s.done d Status.retry
     else s.modHiu (fun h => { h with mcQueue := h.mcQueue ++ [d] }))
  else if Op.ofRe d.opcode then s.modHiu (fun h => { h with reQueue := h.reQueue ++ [d] })
  else s.done d Status.badDescriptor

/-- May the first held descriptor go to its unit? With ORDER, only when no earlier descriptor of its ring is left. -/
def Sq.mayGo (q : Sq) : Bool :=
  match q.held with
  | d :: _ => !d.order || q.inflight ≤ q.held.length
  | [] => false
/-- Deliver held descriptors in ring order while they may go (R285). -/
def State.dispatchSq (s : State) (f : FnId) (n : RingIx) : Nat → State
  | 0 => s
  | k + 1 =>
    let q := (s.fn f).sqs[n]
    match q.held with
    | [] => s
    | d :: rest =>
      if q.mayGo then ((s.modSq f n (fun q => { q with held := rest })).deliver d).dispatchSq f n k else s

/-- The ring may be fetched from now (R284). -/
def State.fetchable (s : State) (f : FnId) (n : RingIx) : Bool :=
  let q := (s.fn f).sqs[n]
  s.hiu.port == .up && q.enable && q.errCause == 0 && decide (q.inflight < 32) && !(s.fn f).cqs[q.cq].overflow && q.head != q.tail

/-- Fetch up to k descriptors of a turn; a read that fails stops the ring (R284). -/
def State.fetchSq (s : State) (f : FnId) (n : RingIx) : Nat → State
  | 0 => s
  | k + 1 =>
    if !s.fetchable f n then s
    else
      let q := (s.fn f).sqs[n]
      match s.hostRead (q.base.toNat + 64 * (q.head.toNat % q.size)) 64 with
      | none =>
        let s := (s.modSq f n (fun q => { q with error := true, errCause := 3, stopped := q.inflight == 0 })).logs Code.fetchFailed f.val
        (s.postCq f q.cq ({ status := Status.fetchFailed, detail0 := BitVec.ofNat 64 q.head.toNat : Ans }.entry n.val 0 (some n))).sqStatus f n
      | some bs =>
        let d : Desc := { fn := f, origin := .ring f n, entry := q.head, w := Vector.ofFn (fun i : Fin 8 => BitVec.ofNat 64 (leAt bs (8 * i.val) 8)) }
        (s.modSq f n (fun q => { q with head := q.head + 1, inflight := q.inflight + 1, held := q.held ++ [d] })).fetchSq f n k

/-- The ring that the Ring Engine serves next: functions in turn, the submission rings of a function in turn, those that may be fetched
from. -/
def State.fetchDue (s : State) : Option (FnId × RingIx) :=
  (allFns.map (s.hiu.turn + ·)).findSome? (fun f =>
    ((allRings.map ((s.fn f).turn + ·)).find? (s.fetchable f)).map (fun n => (f, n)))
/-- The turn goes past a ring and its function. -/
def State.turnPast (s : State) (f : FnId) (n : RingIx) : State :=
  (s.modFn f (fun x => { x with turn := n + 1 })).modHiu (fun h => { h with turn := f + 1 })
/-- Up to 8 descriptors of the ring whose turn it is; DEV_COUNT is written after a fetch (R279). -/
def State.fetchTurn (s : State) (f : FnId) (n : RingIx) : State :=
  let t := (s.fetchSq f n 8).turnPast f n
  if (t.fn f).sqs[n].head != (s.fn f).sqs[n].head then t.sqStatus f n else t

/-- DESCRIPTOR_FETCH: the Ring Engine's turn reaches a ring, and what may go to its unit is dispatched; a ring whose turn it is not is
not fetched from. -/
def execDescriptorFetch (f : FnId) (n : RingIx) (s : State) : Out :=
  let t := (if s.fetchDue = some (f, n) then s.fetchTurn f n else s).retryHeld f n
  .next (t.dispatchSq f n ((t.fn f).sqs[n].held.length + 1))

/-- INTERRUPT_DELAY: DELAY µs after the first unsignalled entry (R296). -/
def execInterruptDelay (f : FnId) (n : RingIx) (s : State) : Out :=
  let q := (s.fn f).cqs[n]
  .next (if q.irqEn && decide (0 < q.sinceMsg) then (s.modCq f n (fun q => { q with sinceMsg := 0 })).msix f q.vec else s)

end Sys2Proof.Machine
end

