-- ==== Sys2Proof/Machine/Ports.lean ====
section
/-! DEFINITION. Service ports, their links and PAUSE (R319, R320, R413), tenant service rings (R327) and the service transmit ring's
enabling (R330). -/

namespace Sys2Proof.Machine

/-! Ports. -/

def State.modPort (s : State) (p : PortId) (g : SvcPort → SvcPort) : State := s.modSvc (fun v => { v with ports := vmod v.ports p g })
def State.port (s : State) (p : PortId) : SvcPort := s.svc.ports[p]
/-- Sub-ports that a mode has (Table 14-1). -/
def SvcPort.hasSub (q : SvcPort) (k : SubPort) : Bool := q.mode == 2 || (q.mode == 1 && k == 0)
def allSubs : List SubPort := List.finRange 4

/-- A port or sub-port loses its link: what waited on PAUSE is lost. -/
def State.portDown (s : State) (p : PortId) (k : SubPort) : State :=
  if !bit (s.port p).linkUp k.val then s
  else
    (s.modPort p (fun q =>
      { q with
        linkUp := setBitTo q.linkUp k.val false, paused := setBitTo q.paused k.val false
        held := q.held.filter (fun x : SubPort × List Byte => x.1 != k) })).logs Code.svcPortDown
/-- SVC_PORT_UP: a port or sub-port of the mode reaches link. -/
def execSvcPortUp (p : PortId) (sub : SubPort) (s : State) : Out :=
  .next (
    if !s.power.porReleased || !(s.port p).hasSub sub || bit (s.port p).linkUp sub.val then s
    else (s.modPort p (fun q => { q with linkUp := setBitTo q.linkUp sub.val true })).logs Code.svcPortUp)
/-- SVC_PORT_DOWN. -/
def execSvcPortDown (p : PortId) (sub : SubPort) (s : State) : Out := .next (s.portDown p sub)

/-- PAUSE_EXPIRY: the quanta have passed; the frames that waited leave in order. -/
def execPauseExpiry (p : PortId) (sub : SubPort) (s : State) : Out :=
  .next (s.modPort p (fun q =>
    { q with
      paused := setBitTo q.paused sub.val false
      out := q.out ++ q.held.filter (fun x : SubPort × List Byte => x.1 == sub)
      held := q.held.filter (fun x : SubPort × List Byte => x.1 != sub) }))

/-! SVC_SPn_CTRL (Table 18-6, R319, R413). -/

def fecOf (v : W32) : Vector (BitVec 2) 4 := Vector.ofFn (fun k : Fin 4 => BitVec.ofNat 2 (fld v (2 * k.val + 9) (2 * k.val + 8)))
/-- A write of SVC_SPn_CTRL. MGMT_EN is RWL under PF0's lock; clearing it ends log export on the port (R334). -/
def State.svcCtrl (s : State) (p : PortId) (v : W32) : State :=
  let q := s.port p
  let en := bit v 31
  let mode : BitVec 2 := BitVec.ofNat 2 (fld v 1 0)
  let fec := fecOf v
  let locked := (s.fn 0).setupLock
  let s := if locked then s.logs Code.regLocked else s
  let en := if locked then q.mgmtEn else en
  if mode == 3 || fec.toList.any (· == 3) || (q.mode != 0 && mode != 0 && mode != q.mode) || (q.mode != 0 && fec != q.fec) then s.setupRejected 0
  else
    let s := if mode == 0 then allSubs.foldl (fun s k => s.portDown p k) s else s
    let s := s.modPort p (fun q => { q with mgmtEn := en, pauseEn := bit v 30, fec := fec, mode := mode })
    if en then s
    else s.modSvc (fun x => { x with subscriber := x.subscriber.filter (fun r => r.port != p) })
/-- SVC_SP_MODE. -/
def execSvcSpMode (p : PortId) (v : W32) (s : State) : Out := s.overHost (·.svcCtrl p v)

/-! Tenant service rings (Table 18-7, R327). -/

def State.tring (s : State) (n : TRingId) : TRing := s.svc.trings[n]
def State.modTring (s : State) (n : TRingId) (g : TRing → TRing) : State := s.modSvc (fun v => { v with trings := vmod v.trings n g })
def TRing.size (t : TRing) : Nat := 2 ^ t.sizeLog2.toNat
def TRing.fn (t : TRing) : FnId := finOf 33 t.vf.toNat
/-- The device's half of a ring's doorbell line (Table 12-6). -/
def State.tringStatus (s : State) (n : TRingId) : State :=
  let t := s.tring n
  s.hostWrite (t.dbl.toNat + 32) (natLE 4 t.tail.toNat ++ natLE 4 (b2n t.error * 4) ++ List.replicate 24 0)
/-- An enable is refused with a window status. -/
def State.tringBad (s : State) (n : TRingId) (st : Byte) : State :=
  (s.modTring n (fun t => { t with error := true })).hand Code.svcRingSetupBad (s.tring n).vf.toNat (.count (BitVec.ofNat 64 st.toNat))
/-- A vector of the ring's function and an aligned doorbell line. -/
def TRing.setupOk (t : TRing) : Bool := t.dbl.toNat % 64 == 0 && (t.vf == 0 || decide (t.vec.toNat ≤ 63)) && decide (t.vf.toNat ≤ 32)
/-- What steps 4 to 8 of Table 13-6 find at a ring's header: a window status, a buffer too short behind an open header, or its bus address and
words. -/
inductive TringOpened where
  | failed (st : Byte)
  | short (a : Nat) (h : Hdr)
  | opened (a : Nat) (h : Hdr)
/-- Steps 4 to 8 of Table 13-6 on the ring's header. -/
def State.tringOpen (s : State) (root : W64) (t : TRing) : TringOpened :=
  match s.walk root t.base.toNat 64 true with
  | .fail w => .failed w.status
  | .page a _ =>
    match s.hostRead a 16 with
    | none => .failed Status.busError
    | some bs =>
      let w0 := leAt bs 0 8
      let w1 := leAt bs 8 8
      let h : Hdr := { seq := nbits w0 63 32, len := nbits w1 39 0 }
      if headerBad t.base.toNat w0 w1 then .failed Status.headerMalformed
      else if w0 % 4 != Owner.device then .failed Status.ownerMismatch
      else if h.len < t.size * 2048 then .short a h
      else .opened a h
/-- An enable from step 4 on. The ring starts empty, at HOST_COUNT, as R276 has it for the rings of descriptors (log 33). A short buffer goes
back to HOST; the TAG that its header then holds is not stated. -/
def State.tringGo (s : State) (n : TRingId) (root : W64) : State :=
  let t := s.tring n
  match s.tringOpen root t with
  | .failed st => s.tringBad n st
  | .short a h =>
    let (v, s) := s.draw
    (s.writeHeader a h Owner.host Status.bufferShort false 0 Code.bufferShort (BitVec.ofNat 32 v)).tringBad n Status.bufferShort
  | .opened a h =>
    match s.hostCount t.dbl with
    | none => s.tringBad n Status.busError
    | some c =>
      (s.modTring n (fun t =>
        { t with
          enable := true, header := some (a, h), root := root, tail := c, head := c, fullEpisode := false })).tringStatus n
/-- A write of 1 to ENABLE. It waits at step 3 while the header cannot be claimed (R310); ENABLE reads 0 until it is, and a write of 0 ends the
wait (DESIGN CHOICE, log 33). -/
def State.tringEnable (s : State) (n : TRingId) : State :=
  let t := s.tring n
  if t.enable || s.hiu.headerWaits.any (fun x => x.user == .tring n) then s
  else if !t.setupOk then s.tringBad n Status.bufferShort
  else if !winOffsetOk t.base then s.tringBad n Status.badDescriptor
  else
    let x := s.headerWait (.tring n) t.fn t.base
    if s.mayTake x then s.tringGo n x.root else s.keepWait x
/-- A write of 0 to ENABLE: the header goes back to HOST with SUCCESS. What its DONE_BYTES and TAG then hold is not stated. -/
def State.tringDisable (s : State) (n : TRingId) : State :=
  let t := s.tring n
  if !t.enable then s.endWait (.tring n)
  else
    let s := s.modTring n (fun t => { t with enable := false, header := none })
    match t.header with
    | none => s
    | some (a, h) =>
      let (v, s) := s.draw
      let (w, s) := s.draw
      s.writeHeader a h Owner.host Status.success false (v % 2 ^ 64) 0 (BitVec.ofNat 32 w)
/-- SVC_TRING_ENABLE. -/
def execSvcTringEnable (n : TRingId) (s : State) : Out := s.overHost (·.tringEnable n)
/-- SVC_TRING_DISABLE. -/
def execSvcTringDisable (n : TRingId) (s : State) : Out := s.overHost (·.tringDisable n)

/-! The service transmit ring (R276, R277, R330). -/

def State.modTx (s : State) (g : Sq → Sq) : State := s.modSvc (fun v => { v with tx := g v.tx })
def State.txStatus (s : State) : State :=
  let q := s.svc.tx
  s.hostWrite (q.dbl.toNat + 32) (natLE 4 q.head.toNat
    ++ natLE 4 (b2n q.stopped * 2 + b2n q.error * 4 + q.errCause.toNat * 16) ++ List.replicate 24 0)
def State.txEnable (s : State) : State :=
  let q := s.svc.tx
  if q.enable then s
  else if !s.ringOk q.base q.dbl q.sizeLog2 64 || decide (12 < q.sizeLog2.toNat) then
    (s.modTx (fun q => { q with error := true, errCause := 1 })).logs Code.ringSetupBad
  else
    match s.hostCount q.dbl with
    | none =>
      let s' := s.modTx (fun q => { q with readFail := true })
      if q.readFail then s' else s'.logs Code.dblReadFail
    | some c =>
      (s.modTx (fun q =>
        { q with
          enable := true, stopped := false, errCause := 0, head := c, tail := c, readFail := false })).txStatus
/-- A disabled ring drops the descriptor that it has read and not finished. -/
def State.txDrop (s : State) : State := (s.endWait .tx).modSvc (fun v => { v with txHeld := none })
/-- The device writes word 7 of the descriptor that it has read, the one before HEAD (R330). -/
def State.txWriteBack (s : State) (st : Byte) : State :=
  let q := s.svc.tx
  (s.txDrop.winCount 0 st).hostWrite (q.base.toNat + 64 * ((q.head - 1).toNat % q.size) + 56) (natLE 8 (2 ^ 63 + st.toNat * 2 ^ 40))
/-- A write of 0 to ENABLE: a descriptor that has been read and has not started, since it waits, is written back with RING_ABORTED (R277). -/
def State.txDisable (s : State) : State :=
  if !s.svc.tx.enable then s
  else ((if s.svc.txHeld.isSome then s.txWriteBack Status.ringAborted else s).modTx (fun q => { q with enable := false, stopped := true })).txStatus

end Sys2Proof.Machine
end

