-- ==== Sys2Proof/Machine/Firmware.lean ====
section
/-! DEFINITION. Boot flash, secure boot and live update of the management firmware (R315, R365, R366, R389 to R391). -/

namespace Sys2Proof.Machine

/-! Loads that a firmware update waits for (R81). -/

def nibbles (v : W64) : List Nat := (List.range 8).map (fun j => fld v (4 * j + 3) (4 * j))
/-- JOB_PARTs that a PART_MAP uses, and the partition of each used nibble. -/
def partMapUsed (v : W64) : List Nat := (List.range 8).filter (fun j => (nibbles v).getD j 0xF != 0xF)
def partMapParts (v : W64) : List PartId := ((nibbles v).filter (· != 0xF)).map (finOf 8)
/-- A load may be admitted to its partitions: each is bound to its function, and each that is not in MARKS has no other owner (R81). -/
def State.admits (s : State) (f : FnId) (p : PartId) : Bool :=
  s.bound f p && ((s.part p).st == .marks || (s.part p).owner.isNone || (s.part p).owner == some f)


/-! Firmware images (Table 17-2, R390). -/

/-- Bytes of a firmware image: header, body and signature block. -/
def fwSize (head : List Byte) : Nat := 512 + leAt head 12 4 + 256
/-- A well-formed firmware header. -/
def fwHeadOk (head : List Byte) : Bool :=
  head.length == 512 && leAt head 0 4 == 0x4D460801 && zeroAt head 10 2 && decide (1 ≤ leAt head 12 4)
  && decide (leAt head 12 4 ≤ 2 ^ 23 - 768) && zeroAt head 16 496
/-- A signature block made with the firmware key over the header and body; KEY_SLOT is ignored (R78, R389). -/
def fwSigned (bs : List Byte) : Bool :=
  let n := bs.length - 256
  let sig := bs.drop n
  zeroAt sig 1 15 && zeroAt sig 112 144
  && ecdsaOk Config.firmwareKey.1.toNat Config.firmwareKey.2.toNat (sha384 (bs.take n)) (beAt sig 16 48) (beAt sig 64 48)
/-- The checks of R390 on a whole image. -/
def fwImageOk (bs : List Byte) : Bool :=
  fwHeadOk (bs.take 512) && bs.length == fwSize bs && fwSigned bs && decide (Config.fusedSvn.toNat ≤ leAt bs 8 2)

/-! Boot flash (Table 17-1). -/

def Boot.head (b : Boot) : List Byte := Mem.read b.flash 0 4096
/-- ACTIVE names slot B. -/
def Boot.activeB (b : Boot) : Bool := Mem.get b.flash 4 == 1
def Boot.slotAt (b : Boot) (slotB : Bool) : Nat := Mem.nat b.flash (if slotB then 16 else 8) 8
/-- A well-formed flash header. -/
def Boot.headOk (b : Boot) : Bool :=
  leAt b.head 0 4 == 0x58460801 && decide (leAt b.head 4 1 ≤ 1) && zeroAt b.head 5 3 && zeroAt b.head 24 4072
/-- R390 for a live update's write: the flash header is well formed, and it places the slot that did not boot wholly within the flash. -/
def Boot.takes (b : Boot) (bs : List Byte) : Bool := b.headOk && decide (b.slotAt (!b.slotB) + bs.length ≤ Config.flashSize)
/-- The image that a slot holds, when the slot passes the checks of R390, else the first check that it fails. -/
def Boot.slot (b : Boot) (slotB : Bool) : Except BootCheck (List Byte) :=
  let a := b.slotAt slotB
  let head := Mem.read b.flash a 512
  if !b.headOk || !fwHeadOk head || Config.flashSize < a + fwSize head then .error .form
  else
    let bs := Mem.read b.flash a (fwSize head)
    if !fwSigned bs then .error .signature
    else if leAt bs 8 2 < Config.fusedSvn.toNat then .error .version
    else .ok bs

/-- The management core runs an image. -/
def State.fwRuns (s : State) (bs : List Byte) : State :=
  s.modBoot (fun b =>
    { b with
      mode := .running, stage := .idle, staged := []
      fwVersion := BitVec.ofNat 32 (leAt bs 4 4), svn := BitVec.ofNat 16 (leAt bs 8 2), fwDigest := shaField (bs.take (bs.length - 256)) })

/-- BOOT_SLOT_BAD, with the slot and the failed check (R390). -/
def State.slotBad (s : State) (slotB : Bool) (c : BootCheck) : State := s.hand Code.bootSlotBad 0 (.slot slotB c)
/-- The ROM runs the image of a slot. -/
def State.bootSlot (s : State) (slotB : Bool) (bs : List Byte) : State :=
  let s := (s.fwRuns bs).modBoot (fun b => { b with slotB := slotB })
  s.hand Code.bootDone 0 (.count (BitVec.ofNat 64 s.boot.fwVersion.toNat))

/-- BOOT: the ROM reads the flash, which holds flashWrites beside what was known of it, and tries the slot that ACTIVE names first. -/
def execBoot (flashWrites : List (Nat × Byte)) (s : State) : Out :=
  .next (
    if !s.power.porReleased || s.boot.mode != .rom || s.landsCut then s
    else
      let s := s.modBoot (fun b => { b with flash := Mem.writeAll b.flash flashWrites })
      let first := s.boot.activeB
      match s.boot.slot first with
      | .ok bs => s.bootSlot first bs
      | .error c =>
        let s := s.slotBad first c
        match s.boot.slot (!first) with
        | .ok bs => s.bootSlot (!first) bs
        | .error d => ((s.slotBad (!first) d).modBoot (fun b => { b with mode := .recovery, slotB := first })).packageFault Code.bootFailed)

/-! Live update (R365). -/

/-- The update ends with the old firmware, or recovery, as it was. -/
def State.fwReject (s : State) (st : Byte) : State :=
  (s.modBoot (fun b => { b with stage := .idle, staged := [] })).hand Code.fwRejected 0 (.count (BitVec.ofNat 64 st.toNat))
/-- A window status ends the update: it is counted and logged as any other (R318). -/
def State.fwWindowBad (s : State) (code : W16) (st : Byte) : State := (s.winFault 0 code).fwReject st

/-- What reading the image gives: the update goes on with its bytes, or ends with what its header then holds. -/
inductive FwRead where
  | image (bs : List Byte)
  | fail (st : Byte) (moved : Nat) (early : Bool) (fault : W16)
  deriving DecidableEq, Repr
/-- Read the image behind an open header: its firmware header, then all of it. -/
def State.fwFetch (s : State) (root : W64) (off len : Nat) : State × FwRead :=
  let get := fun (n : Nat) =>
    if len < n then ((s.winFault 0 Code.bufferShort), FwRead.fail Status.bufferShort 0 false Code.bufferShort)
    else
      match s.winRead root n (off + 64) n with
      | (bs, none) => (s, FwRead.image bs)
      | (bs, some f) => (s.winFault 0 f.1.code, FwRead.fail f.1.status bs.length true f.1.code)
  match get 512 with
  | (s, .fail st n early c) => (s, .fail st n early c)
  | (_, .image head) =>
    if !fwHeadOk head then (s, .fail Status.signatureBad 512 false 0)
    else
      match get (fwSize head) with
      | (s, .fail st n early c) => (s, .fail st n early c)
      | (s, .image bs) => (s, if fwImageOk bs && s.boot.takes bs then .image bs else .fail Status.signatureBad bs.length false 0)

/-- Stages 2 and 3 from step 4 of Table 13-6 on: the image is read through PF0's window as a descriptor does, checked, and its header handed
back. -/
def State.fwRead (s : State) (root off : W64) : State :=
  match s.walk root off.toNat 64 true with
  | .fail w => s.fwWindowBad w.code w.status
  | .page a _ =>
    match s.hostRead a 16 with
    | none => s.fwWindowBad Code.busError Status.busError
    | some bs =>
      let w0 := leAt bs 0 8
      let w1 := leAt bs 8 8
      if headerBad off.toNat w0 w1 then s.fwWindowBad Code.headerMalformed Status.headerMalformed
      else if w0 % 4 != Owner.device then (s.winMismatch 0).fwReject Status.ownerMismatch
      else
        let h : Hdr := { seq := nbits w0 63 32, len := nbits w1 39 0 }
        match s.fwFetch root off.toNat h.len with
        | (s, .fail st n early c) => (s.writeHeader a h Owner.host st early n c 0).fwReject st
        | (s, .image bs) =>
          (s.writeHeader a h Owner.host Status.success false bs.length 0 0).modBoot (fun b =>
            { b with stage := .switching, staged := bs })
/-- An update goes on once no load that was taken up is left (R81, R365): it comes to step 3, where it waits while its header cannot be claimed (R310), and
reads its image. -/
def State.fwProceed (s : State) : State :=
  if s.boot.stage != .reading || s.loading then s
  else if !winOffsetOk s.boot.fwOffset then s.fwReject Status.badDescriptor
  else
    let x := s.headerWait .firmware 0 s.boot.fwOffset
    if s.mayTake x then (s.endWait .firmware).fwRead x.root x.offset else s.keepWait x

/-- FW_UPDATE: GO starts an update. Descriptors of the Management Complex that have not been taken up complete with RETRY; a load that has been,
though it may wait for zeroing, runs to its end first (R81). -/
def State.fwUpdate (s : State) : State :=
  if s.boot.stage != .idle || !(s.boot.mode == .running || s.boot.mode == .recovery) then s.setupRejected 0
  else
    let ds := s.mgt.loads ++ s.hiu.mcQueue
    let s := (s.modMgt (fun m => { m with loads := [] })).modHiu (fun h => { h with mcQueue := [] })
    let s := ds.foldl (fun s d => s.done d Status.retry) s
    let s := s.modBoot (fun b => { b with stage := .reading })
    (allFns.foldl (fun s f => allRings.foldl (fun s n => s.retryHeld f n) s) s).fwProceed
def execFwUpdate (s : State) : Out := s.overHost State.fwUpdate

/-- An update that has not reached its switch ends with FW_REJECTED (R366). -/
def State.fwAbandon (s : State) : State :=
  if s.boot.stage == .reading || s.boot.stage == .checking then
    ((s.endWait .firmware).modBoot (fun b => { b with stage := .idle, staged := [] })).logs Code.fwRejected
  else s

/-- Write the staged image to the slot that did not boot, then set ACTIVE to it (R391). -/
def Boot.writeSlot (b : Boot) : Boot :=
  let slotB := !b.slotB
  { b with
    flash := Mem.set (Mem.write b.flash (b.slotAt slotB) b.staged) 4 (if slotB then 1 else 0)
    slotB := slotB }

/-- The switch ends, its flash write done or failed; the POISON writes that waited for the management core are made (R366). -/
def State.fwSwitched (s : State) (flashOk : Bool) : State :=
  let bs := s.boot.staged
  let s := if flashOk && s.boot.takes bs then
      ((s.modBoot Boot.writeSlot).fwRuns bs).logs Code.fwUpdated
    else (s.modBoot (fun b => { b with stage := .idle, staged := [] })).logs Code.fwRejected
  let ps := s.mgt.poisons
  ps.foldl (fun s x => s.poisonNow x) (s.modMgt (fun m => { m with poisons := [] }))

end Sys2Proof.Machine
end

