-- ==== Sys2Proof/Machine/Matrix.lean ====
section
/-! DEFINITION. The Matrix Engine: MATMUL and CONV2D (R107 to R109). -/

namespace Sys2Proof.Machine

/-- Exact sum of the products of a chunk, starting from its first product. -/
def chunkSum (xs ys : List Val) : Val :=
  match (xs.zip ys).map (fun x => x.1.mul x.2) with
  | [] => Val.zero
  | v :: vs => vs.foldl Val.add v

/-- Pieces of n elements; the first argument bounds their number. -/
def pieces {α : Type} (n : Nat) : Nat → List α → List (List α)
  | 0, _ => []
  | _ + 1, [] => []
  | k + 1, x :: xs => (x :: xs).take n :: pieces n k ((x :: xs).drop n)

/-- Elements of k in one chunk (R108): 128 for FP8 and INT8, 64 for BF16 and FP16. -/
def kChunk : Fmt → Nat
  | .e4m3 | .e5m2 | .int8 => 128
  | _ => 64

/-- Step 1 in floating point: chunk sums rounded into FP32, added in order with rounding (R108). -/
def sumFloat (kc : Nat) (xs ys : List Val) : Val × Exc :=
  let cs := ((pieces kc xs.length xs).zip (pieces kc ys.length ys)).map (fun x => mid32 false (chunkSum x.1 x.2))
  match cs with
  | [] => (Val.zero, Exc.zero)
  | c :: rest => rest.foldl (fun s c =>
      let t := mid32 false (s.1.add c.1)
      (t.1, (s.2.add c.2).add t.2)) c

/-- The integer held by a value of an integer format. -/
def Val.toInt (v : Val) : Int := v.at 0

/-- Step 1 in INT8: exact chunk sums added in order with saturation, each counted (R108). -/
def sumInt (kc : Nat) (xs ys : List Val) : Int × Exc :=
  ((pieces kc xs.length xs).zip (pieces kc ys.length ys)).foldl (fun s x =>
    let t := midInt (s.1 + (chunkSum x.1 x.2).toInt)
    (t.1, s.2.add t.2)) (0, Exc.zero)

/-- A value scaled by a power of two and rounded to an integer (R108 step 2). -/
def scaleInt (mode : Rnd) (k i : Int) : Int :=
  let m := roundMag mode i.natAbs k 0
  if i < 0 then -(m : Int) else m

/-- Step 2 in floating point: exact, but for a result beyond the range of FP32, which R105 decides for FP32 under ROUND and SAT (R108). -/
def scaleFloat (mode : Rnd) (sat : Bool) (k : Int) (s : Val) : Val × Exc :=
  let t := s.scale k
  let c := Fmt.fp32.convert (if mode = .zero then .zero else .nearest) sat t
  if c.ovf then (Fmt.fp32.decode c.bits, c.midExc) else (t, Exc.zero)
/-- Steps 2 to 4 (R108). -/
def finishFloat (o : MatrixOut) (f : Fmt) (mode : Rnd) (s : Val × Exc) (old : Option Val) : Nat × Exc :=
  let t := scaleFloat mode o.sat o.scale s.1
  let u := match old with
    | some v => let x := mid32 false (t.1.add v); (x.1, t.2.add x.2)
    | none => t
  let v := if o.relu && u.1 != .nan && u.1.isNeg then Val.zero else u.1
  let c := f.convert mode o.sat v
  (c.bits, (s.2.add u.2).add c.exc)
def finishInt (o : MatrixOut) (f : Fmt) (mode : Rnd) (s : Int × Exc) (old : Option Val) : Nat × Exc :=
  let t := midInt (scaleInt mode o.scale s.1)
  let u := match old with
    | some v => let x := midInt (t.1 + v.toInt); (x.1, t.2.add x.2)
    | none => t
  let v := if o.relu && u.1 < 0 then 0 else u.1
  let c := f.convert mode o.sat (Val.ofInt v)
  (c.bits, (s.2.add u.2).add c.exc)

/-- Columns of a table of rows. -/
def columns (n : Nat) (rows : List (List Val)) : List (List Val) :=
  (List.range n).map (fun j => rows.map (fun r => r.getD j Val.zero))

/-- C from the rows of A, the columns of B and the old C. -/
def product (a : Acc) (o : MatrixOut) (fin fout : Fmt) (rows cols : List (List Val)) (old : List (List Val)) :
    List (List Nat) × Exc :=
  let n := cols.length
  let out := ((List.range rows.length).zip rows).map (fun r =>
    collect (((List.range n).zip cols).map (fun c =>
      let mode := rndOf o.round a (r.1 * n + c.1)
      let prev := if o.acc then some ((old.getD r.1 []).getD c.1 Val.zero) else none
      if fin = .int8 then finishInt o fout mode (sumInt (kChunk fin) r.2 c.2) prev
      else finishFloat o fout mode (sumFloat (kChunk fin) r.2 c.2) prev)))
  collect out

/-- Read C when ACC is set, form it and write it; the payload. -/
def matrixWrite (a : Acc) (o : MatrixOut) (fin : Fmt) (x : Ref) (m n : Nat) (rows cols : List (List Val)) : Eng (BitVec 96) := do
  let old ← if o.acc then a.tensor Kind.tileRead x m n else pure []
  let r := product a o fin x.fmt rows cols old
  a.putTensor Kind.tileWrite x r.1
  pure (payload 0 r.2)

def matmulBody (a : Acc) (_ : List QEntry) : Eng (BitVec 96) := do
  let c := a.cmd.cmd
  let ra := Ref.ofWord (c.word 3)
  let rb := Ref.ofWord (c.word 4)
  let m := matmulM c
  let n := matmulN c
  let k := matmulK c
  let rows ← if matmulTransA c then (do let x ← a.tensor Kind.tileRead ra k m; pure (columns m x))
    else a.tensor Kind.tileRead ra m k
  let cols ← if matmulTransB c then a.tensor Kind.tileRead rb n k
    else (do let x ← a.tensor Kind.tileRead rb k n; pure (columns n x))
  matrixWrite a (matmulOut c) ra.fmt (Ref.ofWord (c.word 5)) m n rows cols

/-- The row of X that an output position multiplies: kh, then kw, then c; padding reads as zero (R109). -/
def convRow (d : Conv2d) (xs : List (List Val)) (oh ow : Nat) : List Val :=
  (List.range d.kh).flatMap (fun (kh : Nat) => (List.range d.kw).flatMap (fun (kw : Nat) =>
    let ih : Int := (oh * d.sh + kh * d.dh : Nat) - (d.pt : Int)
    let iw : Int := (ow * d.sw + kw * d.dw : Nat) - (d.pl : Int)
    if 0 ≤ ih ∧ ih < d.h ∧ 0 ≤ iw ∧ iw < d.w then xs.getD (ih.toNat * d.w + iw.toNat) []
    else List.replicate d.c Val.zero))

def conv2dBody (a : Acc) (_ : List QEntry) : Eng (BitVec 96) := do
  let c := a.cmd.cmd
  let d := Conv2d.ofCmd c
  let rx := Ref.ofWord (c.word 3)
  let rw := Ref.ofWord (c.word 4)
  let xs ← a.tensor Kind.tileRead rx (d.h * d.w) d.c
  let ws ← a.tensor Kind.tileRead rw d.k d.f
  let ho := d.ho.toNat
  let wo := d.wo.toNat
  let rows := (List.range ho).flatMap (fun oh => (List.range wo).map (fun ow => convRow d xs oh ow))
  matrixWrite a (conv2dOut c) rx.fmt (Ref.ofWord (c.word 5)) (ho * wo) d.f rows (columns d.f ws)

/-- MATMUL (R107, R108). -/
def execMatmul (t : TileId) (s : State) : Out := .next (s.runOn t .matrix 1 0x01 matmulBody)
/-- CONV2D (R109). -/
def execConv2d (t : TileId) (s : State) : Out := .next (s.runOn t .matrix 1 0x02 conv2dBody)

end Sys2Proof.Machine
end

