-- ==== Sys2Proof/Machine/Point.lean ====
section
/-! DEFINITION. The Point Engine's FRAME: de-skew, voxelisation, sparse convolution, decode and suppression (R143 to R165).
The buckets of the work area are kept as Table 07-7 lays them out; the voxel store, the site lists and the rulebook have no
layout in the spec, so the bytes a frame leaves there are free values (log 50). -/

namespace Sys2Proof.Machine

/-! Operand words of FRAME (Table 07-1). -/

def frameLen (c : Cmd) : Nat := fld (c.word 4) 63 32
def frameRef (w : W64) : LoopRef := LoopRef.ofWord w

/-! Poses. -/

/-- A pose (Table 07-3). -/
structure Pose where
  t : Int
  tx : W32
  ty : W32
  tz : W32
  qw : W32
  qx : W32
  qy : W32
  qz : W32
  deriving DecidableEq, Repr

def w32At (bs : List Byte) (off : Nat) : W32 := BitVec.ofNat 32 (leAt bs off 4)
def Pose.ofBytes (bs : List Byte) : Pose :=
  { t := signed 32 (leAt bs 0 4), tx := w32At bs 4, ty := w32At bs 8, tz := w32At bs 12,
    qw := w32At bs 16, qx := w32At bs 20, qy := w32At bs 24, qz := w32At bs 28 }
def Pose.dot (p q : Pose) : W32 := fadd (fadd (fadd (fmul p.qw q.qw) (fmul p.qx q.qx)) (fmul p.qy q.qy)) (fmul p.qz q.qz)
/-- Is the squared norm of the quaternion below 0.25 or above 4 (R145)? -/
def Pose.normBad (p : Pose) : Bool := flt (p.dot p) 0x3E800000 || flt 0x40800000 (p.dot p)
def Pose.normalise (p : Pose) : Pose :=
  let n := fsqrt (p.dot p)
  { p with qw := fdiv p.qw n, qx := fdiv p.qx n, qy := fdiv p.qy n, qz := fdiv p.qz n }
def Pose.mapQ (p : Pose) (f : W32 → W32) : Pose := { p with qw := f p.qw, qx := f p.qx, qy := f p.qy, qz := f p.qz }
def Pose.zipQ (p q : Pose) (f : W32 → W32 → W32) : Pose :=
  { p with qw := f p.qw q.qw, qx := f p.qx q.qx, qy := f p.qy q.qy, qz := f p.qz q.qz }

/-- FP32 of an integer. -/
def fofInt (i : Int) : W32 := toBits32 (Val.ofInt i)

/-- The pose between two poses at a time in FP32 (R150). -/
def Pose.between (p q : Pose) (t : W32) : Pose :=
  let a := fdiv (fsub t (fofInt p.t)) (fsub (fofInt q.t) (fofInt p.t))
  let lerp := fun x y => fadd x (fmul a (fsub y x))
  let d0 := p.dot q
  let neg := flt d0 0
  let q1 := if neg then q.mapQ fneg else q
  let d := if neg then fneg d0 else d0
  let r : Pose :=
    if flt 0x3F7FDF3B d then (p.zipQ q1 lerp).normalise
    else
      let h := facos d
      let sh := fsin h
      let u := fsin (fmul (fsub fone a) h)
      let v := fsin (fmul a h)
      p.zipQ q1 (fun x y => fdiv (fadd (fmul u x) (fmul v y)) sh)
  { r with tx := lerp p.tx q.tx, ty := lerp p.ty q.ty, tz := lerp p.tz q.tz }

/-- Is the time of a pose at most t? -/
def Pose.le (p : Pose) (t : W32) : Bool := !(f32 t).lt (Val.ofInt p.t)
/-- The pose at a time (R150). -/
def poseAt : List Pose → W32 → Pose
  | [], _ => { t := 0, tx := 0, ty := 0, tz := 0, qw := fone, qx := 0, qy := 0, qz := 0 }
  | [p], _ => p
  | p :: q :: rest, t =>
    if !(p.le t) then p
    else if q.le t then poseAt (q :: rest) t
    else p.between q t

/-- Rotate a vector by the quaternion of a pose; inv rotates by its transpose. -/
def Pose.rotate (p : Pose) (inv : Bool) (x y z : W32) : W32 × W32 × W32 :=
  let w := p.qw
  let a := if inv then fneg p.qx else p.qx
  let b := if inv then fneg p.qy else p.qy
  let c := if inv then fneg p.qz else p.qz
  let two := fun v => fmul 0x40000000 v
  let r00 := fsub fone (two (fadd (fmul b b) (fmul c c)))
  let r01 := two (fsub (fmul a b) (fmul w c))
  let r02 := two (fadd (fmul a c) (fmul w b))
  let r10 := two (fadd (fmul a b) (fmul w c))
  let r11 := fsub fone (two (fadd (fmul a a) (fmul c c)))
  let r12 := two (fsub (fmul b c) (fmul w a))
  let r20 := two (fsub (fmul a c) (fmul w b))
  let r21 := two (fadd (fmul b c) (fmul w a))
  let r22 := fsub fone (two (fadd (fmul a a) (fmul b b)))
  let row := fun u v t => fadd (fadd (fmul u x) (fmul v y)) (fmul t z)
  (row r00 r01 r02, row r10 r11 r12, row r20 r21 r22)

def Pose.words (p : Pose) : List W32 := [p.tx, p.ty, p.tz, p.qw, p.qx, p.qy, p.qz]
/-- De-skew a point with the pose of its time and the pose at REF_DT: each coordinate is the part's own where that lies within 4 ulp of
what the procedure gives in FP32 under mode 0, its functions correctly rounded, and this value elsewhere (R150, log 9). -/
def deskew (ref p : Pose) (x y z : W32) : W32 × W32 × W32 :=
  let (a, b, c) := p.rotate false x y z
  let (u, v, w) := ref.rotate true (fsub (fadd a p.tx) ref.tx) (fsub (fadd b p.ty) ref.ty) (fsub (fadd c p.tz) ref.tz)
  let own := Config.deskew ([x, y, z] ++ p.words ++ ref.words)
  (bounded 4 (own 0) (f32 u), bounded 4 (own 1) (f32 v), bounded 4 (own 2) (f32 w))

/-! Voxelisation (R151 to R155). -/

/-- Grid extent along an axis of the voxel level: the difference and the quotient in FP32 under mode 0, then the ceiling (DESIGN CHOICE,
log 133: R148 does not say in which arithmetic). -/
def PointConfig.extent (g : PointConfig) (k : Fin 3) : Nat :=
  fceilNat (fdiv (fsub g.boundMax[k] g.boundMin[k]) g.voxelSize[k])
def PointConfig.inBounds (g : PointConfig) (k : Fin 3) (x : W32) : Bool := fle g.boundMin[k] x && flt x g.boundMax[k]
def PointConfig.coord (g : PointConfig) (k : Fin 3) (x : W32) : Nat :=
  Nat.min (ffloorNat (fdiv (fsub x g.boundMin[k]) g.voxelSize[k])) (g.extent k - 1)
def keyOf (x y z : Nat) : Nat := x + 2 ^ 21 * y + 2 ^ 42 * z
def PointConfig.hash (g : PointConfig) (key : Nat) : Nat := ((key * 0x9E3779B97F4A7C15) % 2 ^ 64) >>> (64 - g.tableLog2)

/-- Where a probe of the buckets ends (R151): the bucket and the voxel or site it holds, or a free bucket. -/
inductive Probe where
  | found (bucket index : Nat)
  | fresh (bucket : Nat)
  | exhausted
  deriving DecidableEq, Repr

/-- Probe from step j, at most limit steps. -/
def probe (a : Acc) (g : PointConfig) (serial key : Nat) : Nat → Nat → Eng Probe
  | 0, _ => pure .exhausted
  | limit + 1, j => do
    let r := Ref.ofWord g.table
    let b := (g.hash key + j) % 2 ^ g.tableLog2
    let bs ← a.read Kind.point r.region ((r.offset + 16 * b : Nat) : Int) 16
    let e := leNat bs
    if nbits e 127 96 != serial then pure (.fresh b)
    else if nbits e 62 0 = key then pure (.found b (nbits e 87 64))
    else probe a g serial key limit (j + 1)
/-- Write a bucket (Table 07-7). -/
def putBucket (a : Acc) (g : PointConfig) (b serial count index key : Nat) : Eng Unit :=
  let r := Ref.ofWord g.table
  a.write Kind.point r.region ((r.offset + 16 * b : Nat) : Int)
    (natLE 16 (serial * 2 ^ 96 + count * 2 ^ 88 + index * 2 ^ 64 + key))
/-- Write bytes whose value the spec does not give. -/
def writeFree (a : Acc) (region off len : Nat) : Eng Unit := do
  let s ← get
  let x := s.draw
  set x.2
  a.write Kind.point region (off : Int) (natLE len x.1)

/-- A point held by a voxel. -/
structure Held where
  dt : Nat
  index : Nat
  x : W32
  y : W32
  z : W32
  inten : Nat
  deriving DecidableEq, Repr
/-- Is a newer than b: the larger (DT, index) pair? -/
def Held.newer (a b : Held) : Bool := decide (b.dt < a.dt) || (a.dt == b.dt && decide (b.index < a.index))

structure Voxel where
  x : Nat
  y : Nat
  z : Nat
  bucket : Nat
  pts : List Held
  deriving DecidableEq, Repr

/-- Counters and voxels of the front end; full, probe and cap say what a provisioned frame is rejected for. -/
structure Front where
  oob : Nat
  dec : Nat
  full : Nat
  probe : Nat
  cap : Nat
  voxels : List Voxel
  deriving DecidableEq, Repr

def Front.dropped (f : Front) : Bool := f.full + f.probe + f.cap != 0
def Front.kept (f : Front) : Nat := (f.voxels.map (·.pts.length)).foldl (· + ·) 0

/-- Apply f at an index. -/
def updAt {α : Type} (f : α → α) : List α → Nat → List α
  | [], _ => []
  | x :: xs, 0 => f x :: xs
  | x :: xs, n + 1 => x :: updAt f xs n

/-- The newest of the held points. -/
def newest : List Held → Option Held
  | [] => none
  | h :: hs => match newest hs with
    | none => some h
    | some m => if h.newer m then some h else some m

/-- Put a point into a voxel that holds at most max points: the voxel, and whether a point was dropped or evicted (R153). A point stored
after an eviction takes the place of the evicted one, which orders the sums of R155 (DESIGN CHOICE, log 134). -/
def Voxel.store (v : Voxel) (max : Nat) (h : Held) : Voxel × Bool :=
  if v.pts.length < max then ({ v with pts := v.pts ++ [h] }, false)
  else
    match newest v.pts with
    | none => (v, true)
    | some m => if h.newer m then (v, true) else ({ v with pts := updFirst (· == m) (fun _ => h) v.pts }, true)

/-- A loop over 0 to n - 1 that carries a value. -/
def foldVisits {α : Type} (f : α → Nat → Eng α) (x : α) : Nat → Eng α
  | 0 => pure x
  | n + 1 => do
    let y ← foldVisits f x n
    f y n

/-- What a frame fixes before its points are read. -/
structure FrameIn where
  region : Nat
  offset : Nat
  ref : Pose
  poses : List Pose
  slices : List Pose
  span : Nat
  d : Nat
  serial : Nat
  deriving DecidableEq, Repr

/-- One point of R153 and R154. -/
def frontPoint (a : Acc) (g : PointConfig) (fi : FrameIn) (f : Front) (i : Nat) : Eng Front := do
  if g.provisioned && f.dropped then pure f
  else
    let bs ← a.read Kind.point fi.region ((fi.offset + 576 + 16 * i : Nat) : Int) 16
    let dt := leAt bs 14 2
    let pose : Pose :=
      if g.sliced then
        let k := Nat.min (g.slices - 1) (dt * g.slices / fi.span)
        fi.slices.getD k fi.ref
      else poseAt fi.poses (fofNat dt)
    let (x, y, z) := deskew fi.ref pose (w32At bs 0) (w32At bs 4) (w32At bs 8)
    if !(g.inBounds 0 x && g.inBounds 1 y && g.inBounds 2 z) then pure { f with oob := f.oob + 1 }
    else if i % fi.d != 0 then pure { f with dec := f.dec + 1 }
    else
      let vx := g.coord 0 x
      let vy := g.coord 1 y
      let vz := g.coord 2 z
      let key := keyOf vx vy vz
      let h : Held := { dt := dt, index := i, x := x, y := y, z := z, inten := leAt bs 12 1 }
      match ← probe a g fi.serial key 16 0 with
      | .exhausted => pure { f with probe := f.probe + 1 }
      | .fresh b =>
        if f.voxels.length = g.voxelCap then pure { f with cap := f.cap + 1 }
        else
          putBucket a g b fi.serial 1 f.voxels.length key
          pure { f with voxels := f.voxels ++ [{ x := vx, y := vy, z := vz, bucket := b, pts := [h] }] }
      | .found b n =>
        match f.voxels[n]? with
        | none => pure f
        | some v =>
          let r := v.store g.maxPerVoxel h
          putBucket a g b fi.serial r.1.pts.length n key
          pure { f with voxels := updAt (fun _ => r.1) f.voxels n, full := f.full + b2n r.2 }

/-- Sum of FP32 values in order. -/
def fsum : List W32 → W32
  | [] => 0
  | x :: xs => xs.foldl fadd x

/-- A row of VFE (R155). -/
def vfeRow (g : PointConfig) (v : Voxel) : List W32 :=
  let n := fofNat v.pts.length
  let mx := fdiv (fsum (v.pts.map (·.x))) n
  let my := fdiv (fsum (v.pts.map (·.y))) n
  let mz := fdiv (fsum (v.pts.map (·.z))) n
  let mi := fdiv (fsum (v.pts.map (fun h => fofNat h.inten))) n
  let centre := fun (k : Fin 3) (c : Nat) => fadd g.boundMin[k] (fmul (fadd (fofNat c) fhalf) g.voxelSize[k])
  [mx, my, mz, fdiv mi (fofNat 255), n, fsub mx (centre 0 v.x), fsub my (centre 1 v.y), fsub mz (centre 2 v.z)]

/-! Sites and rulebooks (R156, R157). -/

/-- A site by its coordinates. -/
structure Site where
  x : Nat
  y : Nat
  z : Nat
  deriving DecidableEq, Repr

/-- Offsets of an odd kernel in order: z outermost, x innermost, each ascending. -/
def oddOffsets (k : Nat) : List (Int × Int × Int) :=
  let r : Int := (k - 1 : Nat) / 2
  let ax := (List.range k).map (fun (i : Nat) => (i : Int) - r)
  ax.flatMap (fun z => ax.flatMap (fun y => ax.map (fun x => (x, y, z))))

/-- Sites under construction: outputs, pairs by offset, dropped sites. -/
structure Rules where
  sites : List Site
  pairs : List (Nat × Nat × Nat)
  dropped : List Site
  deriving DecidableEq, Repr

/-- Candidates of an input site: target and offset index. -/
def candidates (l : Layer) (s : Site) (ext : Nat × Nat × Nat) : List (Site × Nat) :=
  if l.stride = 2 then
    let t : Site := { x := s.x / 2, y := s.y / 2, z := s.z / 2 }
    [(t, ((s.z - 2 * t.z) * 2 + (s.y - 2 * t.y)) * 2 + (s.x - 2 * t.x))]
  else
    let os := oddOffsets l.kernel
    ((List.range os.length).zip os).filterMap (fun o =>
      let x := (s.x : Int) + o.2.1
      let y := (s.y : Int) + o.2.2.1
      let z := (s.z : Int) + o.2.2.2
      if 0 ≤ x ∧ x < ext.1 ∧ 0 ≤ y ∧ y < ext.2.1 ∧ 0 ≤ z ∧ z < ext.2.2 then
        some ({ x := x.toNat, y := y.toNat, z := z.toNat }, o.1)
      else none)

/-- Enter one candidate: found through the layer's serial, or created. -/
def enterSite (a : Acc) (g : PointConfig) (l : Layer) (serial : Nat) (create : Bool) (input : Nat) (r : Rules)
    (c : Site × Nat) : Eng Rules := do
  let key := keyOf c.1.x c.1.y c.1.z
  match ← probe a g serial key (2 ^ g.tableLog2) 0 with
  | .found _ n => pure { r with pairs := r.pairs ++ [(c.2, input, n)] }
  | .exhausted => pure r
  | .fresh b =>
    if !create then pure r
    else if r.sites.length = l.siteCap then
      pure { r with dropped := if r.dropped.contains c.1 then r.dropped else c.1 :: r.dropped }
    else
      putBucket a g b serial 0 r.sites.length key
      pure { r with sites := r.sites ++ [c.1], pairs := r.pairs ++ [(c.2, input, r.sites.length)] }

/-- The rules of a layer over its input sites. -/
def layerRules (a : Acc) (g : PointConfig) (l : Layer) (serial : Nat) (ext : Nat × Nat × Nat) (ins : List Site) : Eng Rules := do
  let create := !l.pinned
  let start : Rules := { sites := [], pairs := [], dropped := [] }
  let r0 ← if l.pinned then
      ((List.range ins.length).zip ins).foldlM (fun (r : Rules) (x : Nat × Site) => do
        let key := keyOf x.2.x x.2.y x.2.z
        match ← probe a g serial key (2 ^ g.tableLog2) 0 with
        | .fresh b => putBucket a g b serial 0 x.1 key
        | _ => pure ()
        pure { r with sites := r.sites ++ [x.2] }) start
    else pure start
  ((List.range ins.length).zip ins).foldlM (fun (r : Rules) (x : Nat × Site) =>
    (candidates l x.2 ext).foldlM (fun (r : Rules) c => enterSite a g l serial create x.1 r c) r) r0

/-! Sparse convolution (R158). -/

def tilesOf (m : W32) : List Nat := (List.range 32).filter (fun t => bit m t)
/-- The accessor of a TILE_SET tile: tile-read accesses with ENGINE 0 (R149). -/
def Acc.onTile (a : Acc) (g : PointConfig) (k : Nat) : Acc :=
  let ts := tilesOf g.tileSet
  { a with tile := finOf 32 (ts.getD (k % Nat.max 1 ts.length) 0), engine := 0, unit := 3 }

/-- Product of one input row with a column of the block, into FP32 (R158 step 2). -/
def pairValue (f : Fmt) (row col : List Val) : Val :=
  if f = .int8 then Val.ofInt (sumInt (kChunk f) row col).1 else (sumFloat (kChunk f) row col).1

/-- The features of a layer's output sites as stored bits. BIAS is read by the first tile of TILE_SET, and the WEIGHTS block of an offset that has
no pairs is not read (R149, R158; DESIGN CHOICE, log 182). -/
def convolve (a : Acc) (g : PointConfig) (l : Layer) (wf : Fmt) (rows : List (List Val)) (r : Rules) : Eng (List (List Nat)) := do
  let nOff := l.kernel ^ 3
  let wref := Ref.ofWord l.weights
  let zero : List (List Val) := List.replicate r.sites.length (List.replicate l.cout Val.zero)
  let acc ← foldVisits (fun (acc : List (List Val)) k => do
    let ps := r.pairs.filter (fun p => p.1 == k)
    if ps.isEmpty then pure acc
    else
      let t := a.onTile g k
      let block ← (List.range l.cin).mapM (fun ci => (List.range l.cout).mapM (fun co =>
        t.elem Kind.tileRead wref (k * l.cin + ci) co))
      let cols := columns l.cout block
      pure (ps.foldl (fun acc p =>
        let prod := cols.map (fun c => pairValue wf (rows.getD p.2.1 []) c)
        updAt (fun old => (old.zip prod).map (fun x => (mid32 false (x.1.add x.2)).1)) acc p.2.2) acc)) zero nOff
  let bias ← if l.bias = 0 then pure [] else (List.range l.cout).mapM (fun co => (a.onTile g 0).elem Kind.tileRead (Ref.ofWord l.bias) 0 co)
  let fout := (Ref.ofWord l.features).fmt
  let mode : Rnd := if l.round = 1 then .zero else .nearest
  pure (acc.map (fun row => ((List.range row.length).zip row).map (fun x =>
    let v := if l.bias = 0 then x.2 else (mid32 false (x.2.add (bias.getD x.1 Val.zero))).1
    let v := if l.relu && v != .nan && v.isNeg then Val.zero else v
    (fout.convert mode l.sat v).bits)))

/-! Decode and suppression (R159, R160). -/

structure Box where
  cx : W32
  cy : W32
  cz : W32
  l : W32
  w : W32
  h : W32
  sn : W32
  cs : W32
  yaw : W32
  score : W32
  cls : Nat
  site : Nat
  deriving DecidableEq, Repr

/-- First class of greatest logit. -/
def argmax : List W32 → Nat × W32
  | [] => (0, 0)
  | x :: xs => ((List.range xs.length).zip xs).foldl (fun b y => if flt b.2 y.2 then (y.1 + 1, y.2) else b) (0, x)

/-- The box of a site (R159). -/
def boxOf (g : PointConfig) (strides : Nat) (s : Site) (i : Nat) (v : List W32) : Box :=
  let nc := g.classCount
  let (c, logit) := argmax (v.take nc)
  let at_ := fun k => v.getD (nc + k) 0
  let size := fun (k : Fin 3) => fmul g.voxelSize[k] (fofNat (2 ^ strides))
  let centre := fun (k : Fin 3) (q : Nat) (d : W32) => fadd g.boundMin[k] (fmul (fadd (fadd (fofNat q) fhalf) d) (size k))
  let an : Vector W32 3 := g.anchors.getD c (Vector.replicate 3 0)
  let sn := at_ 6
  let cs := at_ 7
  let n := fsqrt (fadd (fmul sn sn) (fmul cs cs))
  let zero := (f32 sn).isZero && (f32 cs).isZero
  { cx := centre 0 s.x (at_ 0), cy := centre 1 s.y (at_ 1), cz := centre 2 s.z (at_ 2),
    l := fmul an[0] (exp32 (at_ 3)), w := fmul an[1] (exp32 (at_ 4)), h := fmul an[2] (exp32 (at_ 5)),
    sn := if zero then 0 else fdiv sn n, cs := if zero then fone else fdiv cs n, yaw := fatan2 sn cs,
    score := sigmoid32 logit, cls := c, site := i }

/-- Corners counter-clockwise (R160). -/
def Box.corners (b : Box) : List (W32 × W32) :=
  let hl := fmul b.l fhalf
  let hw := fmul b.w fhalf
  [(hl, hw), (fneg hl, hw), (fneg hl, fneg hw), (hl, fneg hw)].map (fun q =>
    (fsub (fadd b.cx (fmul q.1 b.cs)) (fmul q.2 b.sn), fadd (fadd b.cy (fmul q.1 b.sn)) (fmul q.2 b.cs)))

/-- Which side of the edge p to q a point lies on; not negative is inside (left). -/
def side (p q r : W32 × W32) : W32 :=
  fsub (fmul (fsub q.1 p.1) (fsub r.2 p.2)) (fmul (fsub q.2 p.2) (fsub r.1 p.1))
def inside (p q r : W32 × W32) : Bool := fle 0 (side p q r)
def crossing (p q a b : W32 × W32) : W32 × W32 :=
  let da := side p q a
  let db := side p q b
  let t := fdiv da (fsub da db)
  (fadd a.1 (fmul t (fsub b.1 a.1)), fadd a.2 (fmul t (fsub b.2 a.2)))
/-- Clip a polygon to the inside of an edge (R160 names Sutherland–Hodgman). A point on the edge counts as inside, and a crossing lies at
da / (da - db) of its side (DESIGN CHOICE, log 159: the rule gives neither). -/
def clip (p q : W32 × W32) (poly : List (W32 × W32)) : List (W32 × W32) :=
  match poly.getLast? with
  | none => []
  | some last =>
    ((last :: poly).zip poly).flatMap (fun e =>
      match inside p q e.1, inside p q e.2 with
      | true, true => [e.2]
      | true, false => [crossing p q e.1 e.2]
      | false, true => [crossing p q e.1 e.2, e.2]
      | false, false => [])
/-- Shoelace area from the first vertex: half of the sum of the cross terms in FP32 (DESIGN CHOICE, log 159). -/
def shoelace (poly : List (W32 × W32)) : W32 :=
  match poly with
  | [] => 0
  | p :: rest =>
    fmul fhalf (fsum (((p :: rest).zip (rest ++ [p])).map (fun e => fsub (fmul e.1.1 e.2.2) (fmul e.2.1 e.1.2))))
def Box.overlap (a b : Box) : W32 :=
  let k := b.corners
  let poly := (k.zip (k.tail ++ k.take 1)).foldl (fun p e => clip e.1 e.2 p) a.corners
  let i := shoelace poly
  fdiv i (fsub (fadd (fmul a.l a.w) (fmul b.l b.w)) i)

/-- Stable descending order by score. -/
def insertBox (b : Box) : List Box → List Box
  | [] => [b]
  | c :: cs => if flt c.score b.score then b :: c :: cs else c :: insertBox b cs
def rankBoxes (bs : List Box) : List Box := bs.foldl (fun r b => insertBox b r) []

/-- Suppression in rank order: kept boxes, and how many candidates remained when BOX_MAX had been kept. -/
def suppress (g : PointConfig) : List Box → List Box → List Box × Nat
  | kept, [] => (kept, 0)
  | kept, b :: bs =>
    if kept.length = g.boxMax then (kept, (b :: bs).length)
    else if kept.any (fun k => (g.classAgnostic || k.cls == b.cls) && fle g.iouMax (b.overlap k)) then suppress g kept bs
    else suppress g (kept ++ [b]) bs

def f16 (x : W32) : Nat := (Fmt.fp16.convert .nearest true (f32 x)).bits
/-- Box record (Table 07-8). -/
def Box.bytes (b : Box) : List Byte :=
  natLE 4 b.cx.toNat ++ natLE 4 b.cy.toNat ++ natLE 4 b.cz.toNat ++ natLE 2 (f16 b.l) ++ natLE 2 (f16 b.w) ++ natLE 2 (f16 b.h)
    ++ natLE 2 (f16 b.yaw) ++ natLE 2 (f16 b.score) ++ natLE 1 b.cls ++ [0] ++ natLE 4 b.site ++ natLE 4 0

/-! The frame. -/

/-- What the result record reports (Table 07-9). -/
structure FrameRes where
  status : Byte
  layer : Nat
  mismatch : Bool
  decimated : Bool
  siteCapped : Bool
  candCapped : Bool
  cleared : Bool
  serial : Nat
  sweep : Nat
  declared : Nat
  effective : Nat
  front : Front
  siteDrop : Nat
  cands : Nat
  candDrop : Nat
  boxes : List Box
  deriving DecidableEq, Repr

def FrameRes.flags (r : FrameRes) : Nat :=
  b2n r.mismatch + 2 * b2n r.decimated + 4 * b2n r.siteCapped + 8 * b2n r.candCapped + 16 * b2n r.cleared
def FrameRes.words (r : FrameRes) : List Nat :=
  let f := r.front
  [r.status.toNat + r.flags * 2 ^ 8 + r.layer * 2 ^ 16, r.serial, r.sweep % 2 ^ 32, r.sweep / 2 ^ 32, r.declared, r.effective,
   f.oob, f.dec, f.full, f.probe, f.cap, f.kept, f.voxels.length, r.siteDrop, r.cands,
   Nat.min r.candDrop 65535 * 2 ^ 16 + r.boxes.length]
/-- Payload of a FRAME's posts (Table 07-10). -/
def FrameRes.payload (r : FrameRes) : BitVec 96 :=
  BitVec.ofNat 96 (r.boxes.length * 2 ^ 64 + r.status.toNat * 2 ^ 56 + r.flags * 2 ^ 48 + (r.front.kept % 2 ^ 32) * 2 ^ 16)
def FrameRes.reject (r : FrameRes) (status : Byte) (layer : Nat) : FrameRes :=
  { r with status := status, layer := layer, boxes := [] }

/-- The next serial value of a configuration; at a wrap the bucket array is zeroed first (R152). -/
def takeSerial (a : Acc) (cfg : Nat) (g : PointConfig) : Eng (Nat × Bool) := do
  let s ← get
  let v : W32 := (s.part a.part).serials.getD cfg 1
  let r := Ref.ofWord g.table
  if v = 0 then
    foldVisits (fun (_ : Unit) b => a.write Kind.point r.region ((r.offset + 16 * b : Nat) : Int) (List.replicate 16 0)) () (2 ^ g.tableLog2)
    modify (fun s => s.logs Code.tableCleared (s.vfOf a.part))
  let u : W32 := if v = 0 then 1 else v
  modify (fun s => s.modPart a.part (fun q => { q with serials := updAt (fun _ => u + 1) q.serials cfg }))
  pure (u.toNat, v == 0)

/-- Whether the frame of a partition's Point Engine has reached a convolution. -/
def State.convolves (s : State) (p : PartId) (yes : Bool) : State :=
  { s with pe := vmod s.pe (dieOfPart p) (fun e => { e with convolving := yes }) }
/-- Layers from index n on: what is left of the result, and the final sites with their stride count. SITE_DROP of a rejected frame leaves out
the layer that rejects it, and the point that rejects one is counted in its DROP_ counter (R154; DESIGN CHOICE, log 181). -/
def runLayers (a : Acc) (cfg : Nat) (g : PointConfig) (kind : Nat) :
    List Layer → Nat → List Site → Nat × Nat × Nat → Nat → FrameRes → Eng (FrameRes × List Site × Nat)
  | [], _, sites, _, strides, res => pure (res, sites, strides)
  | l :: ls, n, sites, ext, strides, res => do
    let (serial, wrapped) ← takeSerial a cfg g
    let res := { res with cleared := res.cleared || wrapped }
    if res.status != 0 then runLayers a cfg g kind ls (n + 1) sites ext strides res
    else
      let r ← layerRules a g l serial ext sites
      let tr := Ref.ofWord g.table
      let area := tr.offset + 16 * 2 ^ g.tableLog2 + g.voxelCap * g.maxPerVoxel * 16
      let most := g.layers.foldl (fun m l => Nat.max m l.siteCap) g.voxelCap
      writeFree a tr.region (area + 8 * most * (n % 2)) (8 * r.sites.length)
      writeFree a tr.region (area + 16 * most) (8 * r.pairs.length)
      if g.provisioned && !r.dropped.isEmpty then
        runLayers a cfg g kind ls (n + 1) sites ext strides (res.reject Status.pointOverProvision n)
      else
        modify (fun s => s.convolves a.part true)
        let wf := (Ref.ofWord l.weights).fmt
        let inRef := if n = 0 then Ref.ofWord g.vfe else Ref.ofWord ((g.layers.getD (n - 1) l).features)
        let raw ← a.tensor kind inRef sites.length l.cin
        let rows := if n = 0 then raw.map (fun r => r.map (fun v => wf.decode (wf.convert .nearest true v).bits)) else raw
        let out ← convolve a g l wf rows r
        a.putTensor kind (Ref.ofWord l.features) out
        let half := fun x => (x + 1) / 2
        let ext := if l.stride = 2 then (half ext.1, half ext.2.1, half ext.2.2) else ext
        runLayers a cfg g kind ls (n + 1) r.sites ext (strides + (if l.stride = 2 then 1 else 0))
          { res with siteDrop := res.siteDrop + r.dropped.length, siteCapped := res.siteCapped || !r.dropped.isEmpty }

/-- Decode the last layer's sites and suppress (R159, R160). -/
def decodeFrame (a : Acc) (g : PointConfig) (sites : List Site) (strides : Nat) (res : FrameRes) : Eng FrameRes := do
  let lref := Ref.ofWord ((g.layers.getLast?.map (·.features)).getD 0)
  let vals ← (List.range sites.length).mapM (fun i => (List.range (g.classCount + 8)).mapM (fun c => do
    let bs ← a.read Kind.point lref.region ((lref.at i c : Nat) : Int) 4
    pure (w32At bs 0)))
  let all := ((List.range sites.length).zip (sites.zip vals)).map (fun x => boxOf g strides x.2.1 x.1 x.2.2)
  let cands := rankBoxes (all.filter (fun b => fle g.scoreMin b.score))
  let res := { res with cands := cands.length }
  let excess := cands.length - g.candCap
  if g.provisioned && excess != 0 then pure (res.reject Status.pointOverProvision 0xFE)
  else
    let (kept, rest) := suppress g [] (cands.take g.candCap)
    if g.provisioned && rest != 0 then pure (res.reject Status.pointOverProvision 0xFE)
    else pure { res with boxes := kept, candDrop := excess + rest, candCapped := res.candCapped || excess + rest != 0 }

/-- The checks of R145 on the header and poses: the status of a rejection, FRAME_MALFORMED where both kinds of condition hold (DESIGN CHOICE,
log 179). -/
def headerCheck (g : PointConfig) (len : Nat) (hd : List Byte) (poses : List Pose) : Option Byte :=
  if len < 576 || leAt hd 0 4 != 0x7A310008 || leAt hd 9 1 != 0 || leAt hd 14 2 != 0 || !zeroAt hd 24 40
      || leAt hd 8 1 = 0 || decide (16 < leAt hd 8 1) || (g.sliced && leAt hd 12 2 = 0) then some Status.frameMalformed
  else if !((poses.zip poses.tail).all (fun x => decide (x.1.t < x.2.t))) || poses.any Pose.normBad then some Status.poseBad
  else none

/-- One frame from header to boxes (R143). In the result, LAYER of a frame that is not rejected is 0, and so is a header field that a buffer of
less than 576 bytes does not hold (DESIGN CHOICE, log 160: R161 says neither). -/
def frameRun (a : Acc) (cfg : Nat) (g : PointConfig) : Eng FrameRes := do
  let c := a.cmd.cmd
  let fin := frameRef (c.word 3)
  let len := frameLen c
  let hd0 ← a.read Kind.point fin.region (fin.offset : Int) (Nat.min len 576)
  let hd := hd0 ++ List.replicate (576 - hd0.length) 0
  let poses := (List.range (Nat.min 16 (leAt hd 8 1))).map (fun k => Pose.ofBytes (slice hd (64 + 32 * k) 32))
  let bad := headerCheck g len hd poses
  let declared := leAt hd 4 4
  let n := Nat.min declared ((len - 576) / 16)
  let (serial, wrapped) ← takeSerial a cfg g
  let none_ : Front := { oob := 0, dec := 0, full := 0, probe := 0, cap := 0, voxels := [] }
  let res : FrameRes :=
    { status := 0, layer := 0, mismatch := (len - 576) / 16 != declared, decimated := false, siteCapped := false, candCapped := false,
      cleared := wrapped, serial := serial, sweep := leAt hd 16 8, declared := declared, effective := n, front := none_,
      siteDrop := 0, cands := 0, candDrop := 0, boxes := [] }
  let ext := (g.extent 0, g.extent 1, g.extent 2)
  let rest := fun (r : FrameRes) (sites : List Site) => runLayers a cfg g Kind.point g.layers 0 sites ext 0 r
  match bad with
  | some st => return (← rest (res.reject st 0xFF) []).1
  | none =>
    if g.provisioned && decide (g.pointLimit < n) then
      return (← rest (res.reject Status.pointOverProvision 0xFF) []).1
    else
      let ps := poses.map Pose.normalise
      let d := if g.provisioned || n ≤ g.pointLimit then 1 else ceilDiv n g.pointLimit
      let mid := fun s => fdiv (fmul (fofNat (2 * s + 1)) (fofNat (leAt hd 12 2))) (fofNat (2 * g.slices))
      let fi : FrameIn :=
        { region := fin.region, offset := fin.offset, ref := poseAt ps (fofNat (leAt hd 10 2)), poses := ps,
          slices := if g.sliced then (List.range g.slices).map (fun s => poseAt ps (mid s)) else [],
          span := leAt hd 12 2, d := d, serial := serial }
      let f ← foldVisits (frontPoint a g fi) none_ n
      let tr := Ref.ofWord g.table
      writeFree a tr.region (tr.offset + 16 * 2 ^ g.tableLog2) (16 * g.maxPerVoxel * f.voxels.length)
      let res := { res with front := f, decimated := decide (1 < d) }
      if g.provisioned && f.dropped then return (← rest (res.reject Status.pointOverProvision 0xFF) []).1
      else
        a.putTensor Kind.point (Ref.ofWord g.vfe) (f.voxels.map (fun v => (vfeRow g v).map (·.toNat)))
        let sites := f.voxels.map (fun v => ({ x := v.x, y := v.y, z := v.z } : Site))
        let (res, outs, strides) ← rest res sites
        if res.status != 0 then return res
        else decodeFrame a g outs strides res

/-- Write boxes and result record (R161). -/
def frameBody (a : Acc) : Eng FrameRes := do
  let c := a.cmd.cmd
  let s ← get
  let cfg := frameConfig c
  match (s.part a.part).configs[cfg]? with
  | none => a.fault (Code.regionKind 7) a.loc
  | some g =>
    let res ← frameRun a cfg g
    let bx := frameRef (c.word 5)
    let rs := frameRef (c.word 6)
    foldVisits (fun (_ : Unit) k => match res.boxes[k]? with
      | some b => a.write Kind.point bx.region ((bx.offset + 32 * k : Nat) : Int) b.bytes
      | none => pure ()) () res.boxes.length
    a.write Kind.point rs.region (rs.offset : Int) (res.words.flatMap (natLE 4))
    pure res

/-- A rejected frame is logged at most once per second; the rest are counted (R165). -/
def State.frameRejected (s : State) (d : DieId) (vf : Nat) : State :=
  if s.log.holdoffs.contains (.frameRejected d) then { s with pe := vmod s.pe d (fun e => { e with rejects := satInc e.rejects }) }
  else s.logRate (.frameRejected d) Code.frameRejected vf

/-- The Matrix Engines of a command's TILE_SET (R144). -/
def State.frameEngines (s : State) (p : PartId) (c : Cmd) : List Engine :=
  match (s.part p).configs[frameConfig c]? with
  | some g => (tilesOf g.tileSet).map (fun t => (s.part p).engine (finOf 32 t) .matrix)
  | none => []
/-- May the Point Engine use a Matrix Engine now: it is idle, and no source that comes before in its rotation can start (R134, R144)? -/
def State.pointMay (s : State) (p : PartId) (g : Engine) : Bool :=
  g.running.isNone && !s.inHold (.tile (finOf 256 (tileId p g.tile.val)))
    && (g.turn.order.takeWhile (· != .point)).all (fun u => s.startable p g u == .nothing)
/-- What a frame has done in its Matrix Engines, if it has reached them: their rotation moves on (R144). -/
def State.frameTurns (s : State) (d : DieId) (p : PartId) (ms : List Engine) : State :=
  if s.pe[d].convolving then
    (s.modPart p (fun q => (ms.filter (·.turn != .graph)).foldl (fun q g => q.setEngine { g with turn := Turn.point.next }) q)).convolves p false
  else s
/-- The Point Engine of a die runs one frame of the partition whose turn it is (R15, R143). A frame that convolves, whether or not it ends in a
fault, waits for the turn of each Matrix Engine of its TILE_SET, and moves their rotation on (R144). -/
def State.runFrame (s : State) (d : DieId) : State :=
  if s.inHold (.pointEngine d) then s
  else
    match s.nextFrame d with
    | none => s
    | some (p, i, es) =>
      let s0 := s
      let ms := s.frameEngines p i.cmd
      let waits := fun (t : State) => t.pe[d].convolving && !ms.all (s0.pointMay p)
      let s := s.modPart p (fun q => { q with pointQ := q.pointQ.tail })
      let s := { s with pe := vmod s.pe d (fun e => { e with nextUpper := p.val == 2 * d.val, convolving := false }) }
      match (if i.src == .graph then none else fate (s.part p).pred i.cmd es) with
      | some cause => (s.retire p i (fun id g => mkVoid cause id g (i.src8 p)) 5).settle p
      | none =>
        let a : Acc := { part := p, tile := i.cmd.tile, engine := 5, unit := 7, cmd := i, loops := none }
        match frameBody a s with
        | .error _ t => if waits t then s0 else t.convolves p false
        | .ok r t =>
          if waits t then s0
          else
            let t := t.frameTurns d p ms
            let t := { t with pe := vmod t.pe d (fun e => { e with frames := satInc e.frames }) }
            let t := if r.status = 0 then t else t.frameRejected d (t.vfOf p)
            (t.retire p i (fun id g => mkEntry r.payload id g (i.src8 p)) 5).settle p
/-- FRAME: the next frame of a die's Point Engine; with none, one of a partition whose job stops in this beat (R71). -/
def execFrame (d : DieId) (s : State) : Out :=
  .next (match s.nextFrame d, [finOf 8 (2 * d.val), finOf 8 (2 * d.val + 1)].findSome? (fun p => (s.stillRuns p).map (fun t => (p, t))) with
    | none, some (p, t) => s.stopRun p (t.runFrame d)
    | _, _ => s.runFrame d)

end Sys2Proof.Machine
end

