-- ==== Sys2Proof/Machine/Translate.lean ====
section
/-! DEFINITION. Translation at load: the rules for queue declarations (R88), hurdles (R120), commands (R83, R87, R101, R102, R107 to
R121, R143, R417), graph lists (R126 to R128), Point Engine configurations (R147, R148) and INIT sections (R83). -/

namespace Sys2Proof.Machine

/-- Where a section is at fault: a list's tile, and an index in the section: of a command, a declaration, a directory entry or, with the
tile of its list, a descriptor. -/
structure SectPlace where
  tile : Option Nat := none
  index : Option Nat := none
  deriving DecidableEq, Repr
/-- TRANSLATE_FAIL in a partition: REGION holds the section's number in the section table, COMMAND the index (DESIGN CHOICE, log 75: R83
does not say where). -/
def tfail (part sect : Nat) (at_ : SectPlace) : Denial :=
  { status := Status.imageRefused, code := Code.translateFail
    loc := some { Loc.base 10 with
      part := part, region := some sect, command := at_.index,
      tile := match at_.tile with | some t => 32 * part + t | none => 0xFF } }

/-! Queue declarations (R88, Table 04-8). -/

def qdTile (w : W64) : Nat := fld w 63 59
def qdQueue (w : W64) : Nat := fld w 58 53
def qdConsumer (w : W64) : Nat := fld w 52 50
def qdLog2 (w : W64) : Nat := fld w 49 46
def qdRegion (w : W64) : Nat := fld w 45 36
def qdOffset (w : W64) : Nat := fld w 32 0
def qdBytes (w : W64) : Nat := 16 * 2 ^ qdLog2 w
def readQueues (bs : List Byte) : List W64 := (List.range (bs.length / 8)).map (fun i => BitVec.ofNat 64 (leAt bs (8 * i) 8))
def queueOk (m : AllocMap) (before : List W64) (w : W64) : Bool :=
  fld w 35 33 == 0 && decide (qdConsumer w ≤ 5) && decide (1 ≤ qdLog2 w) && decide (qdLog2 w ≤ 12) && qdOffset w % 16 == 0
  && !before.any (fun v => qdTile v == qdTile w && qdQueue v == qdQueue w)
  && !before.any (fun v => qdRegion v == qdRegion w && overlaps (qdOffset v) (qdBytes v) (qdOffset w) (qdBytes w))
  && (match m.entry? (qdRegion w) with
      | some e => mePurpose e == Purpose.queue && meTile e (qdTile w) && decide (qdOffset w + qdBytes w ≤ meLen e)
      | none => false)
/-- Index of the first declaration that breaks R88. -/
def queuesBad (m : AllocMap) (ws : List W64) : Option Nat :=
  (List.range ws.length).find? (fun k => !queueOk m (ws.take k) (ws.getD k 0))

/-! Hurdles (R120, Table 05-12). -/

def readHurdle (bs : List Byte) (k : Nat) : HurdleDecl :=
  let w := leAt bs (16 * k) 16
  { id := BitVec.ofNat 16 (nbits w 127 112), streamable := nbits w 105 105 == 1, parkable := nbits w 104 104 == 1,
    iteration := nbits w 95 64, seqEntry := nbits w 63 50 }
def readHurdles (bs : List Byte) : List HurdleDecl := (List.range (bs.length / 16)).map (readHurdle bs)
def hurdleRsvd (bs : List Byte) (k : Nat) : Bool :=
  let w := leAt bs (16 * k) 16
  nbits w 111 106 == 0 && nbits w 103 96 == 0 && nbits w 49 0 == 0
/-- A declaration against those before it; seqN is the plan's SEQ_COUNT. -/
def hurdleOk (req : BitVec 128) (seqN : Option Nat) (before : List HurdleDecl) (h : HurdleDecl) : Bool :=
  !before.any (fun g => g.id == h.id && g.iteration == h.iteration)
  && (!h.streamable || bit req 15) && (!h.parkable || bit req 10)
  && (match seqN with
      | none => h.seqEntry == 0
      | some n => decide (h.seqEntry < n) && (match before.getLast? with | some g => decide (g.seqEntry < h.seqEntry) | none => true))
/-- The first declaration at fault; the 257th is one too many. -/
def hurdlesBad (req : BitVec 128) (seqN : Option Nat) (bs : List Byte) : Option Nat :=
  let hs := readHurdles bs
  firstIn hs (fun k h => if decide (k < 256) && hurdleRsvd bs k && hurdleOk req seqN (hs.take k) h then none else some k)

/-! Operand references (R101, R112, R417). -/

/-- What translation knows of a partition: its map, its declarations, FEATURE_REQ, the plan's transfers, its configurations. -/
structure Tx where
  map : AllocMap
  queues : List W64
  req : BitVec 128
  xfers : List W16
  configs : List PointConfig
  deriving DecidableEq, Repr

def Tx.used (x : Tx) (region : Nat) : Bool := decide (region < x.map.count)
/-- The feature bit of a format (Table 05-2). -/
def Tx.fmtOk (x : Tx) (code : Nat) : Bool :=
  match Fmt.ofCode code with
  | none => false
  | some .fp32 => true
  | some .bf16 | some .fp16 => bit x.req 1
  | some .e4m3 | some .e5m2 => bit x.req 0
  | some .int8 | some .int32 => bit x.req 2
/-- A tensor reference; cols is its column count, or none where PITCH must be 0. -/
def Tx.refOk (x : Tx) (w : W64) (cols : Option Nat) : Bool :=
  let r := Ref.ofWord w
  x.fmtOk r.format && x.used r.region && r.offset % r.fmt.size == 0
  && (match cols with | some n => decide (n ≤ r.pitch) | none => r.pitch == 0)
/-- A region and an offset of a multiple of n, other bits zero. -/
def Tx.placeOk (x : Tx) (w : W64) (n : Nat) : Bool :=
  fld w 20 0 == 0 && x.used (LoopRef.ofWord w).region && (LoopRef.ofWord w).offset % n == 0
/-- Bytes that a tensor covers, as (region, first, length). -/
def refSpan (w : W64) (rows cols : Nat) : Nat × Nat × Nat :=
  let r := Ref.ofWord w
  (r.region, r.offset, ((rows - 1) * r.pitch + cols) * r.fmt.size)
def spansMeet (a b : Nat × Nat × Nat) : Bool := a.1 == b.1 && overlaps a.2.1 a.2.2 b.2.1 b.2.2

/-- ROUND into a format (R103, R417). -/
def Tx.roundOk (x : Tx) (round code : Nat) : Bool :=
  decide (round ≤ 1) || (round == 2 && decide (1 ≤ code) && decide (code ≤ 4) && bit x.req 3)
/-- Rows of Table 05-6 by format codes. -/
def comboOk (a b c : Nat) : Bool :=
  let fp8 := fun n : Nat => n == 3 || n == 4
  if fp8 a && fp8 b then decide (c ≤ 4)
  else a == b && ((a == 1 && (c == 0 || c == 1)) || (a == 2 && (c == 0 || c == 2)) || (a == 5 && (c == 6 || c == 5)))
def refFmt (w : W64) : Nat := (Ref.ofWord w).format

/-! Commands by group. -/

/-- MATMUL (R107, Table 05-5). -/
def Tx.matmulOk (x : Tx) (c : Cmd) : Bool :=
  let o := matmulOut c
  let (m, n, k) := (matmulM c, matmulN c, matmulK c)
  let (ar, ac) := if matmulTransA c then (k, m) else (m, k)
  let (br, bc) := if matmulTransB c then (n, k) else (k, n)
  let z := refSpan (c.word 5) m n
  m != 0 && n != 0 && k != 0 && fld (c.word 6) 15 7 == 0 && fld (c.word 7) 55 0 == 0
  && x.refOk (c.word 3) (some ac) && x.refOk (c.word 4) (some bc) && x.refOk (c.word 5) (some n)
  && comboOk (refFmt (c.word 3)) (refFmt (c.word 4)) (refFmt (c.word 5)) && x.roundOk o.round (refFmt (c.word 5))
  && !spansMeet z (refSpan (c.word 3) ar ac) && !spansMeet z (refSpan (c.word 4) br bc)
/-- CONV2D (R109, Table 05-7). -/
def Tx.convOk (x : Tx) (c : Cmd) : Bool :=
  let v := Conv2d.ofCmd c
  let eh := v.dh * (v.kh - 1) + 1
  let ew := v.dw * (v.kw - 1) + 1
  let z := refSpan (c.word 5) (v.ho * v.wo).toNat v.f
  v.h != 0 && v.w != 0 && v.c != 0 && v.f != 0 && fld (c.word 7) 14 0 == 0
  && decide (v.pt < eh) && decide (v.pb < eh) && decide (v.pl < ew) && decide (v.pr < ew) && decide (1 ≤ v.ho) && decide (1 ≤ v.wo)
  && x.refOk (c.word 3) (some v.c) && x.refOk (c.word 4) (some v.f) && x.refOk (c.word 5) (some v.f)
  && comboOk (refFmt (c.word 3)) (refFmt (c.word 4)) (refFmt (c.word 5)) && x.roundOk (conv2dOut c).round (refFmt (c.word 5))
  && !spansMeet z (refSpan (c.word 3) (v.h * v.w) v.c) && !spansMeet z (refSpan (c.word 4) v.k v.f)
/-- Vector commands (R110, R111, Table 05-8). -/
def Tx.vectorOk (x : Tx) (c : Cmd) : Bool :=
  let op := c.opcode
  let o := VecOps.ofCmd c
  let reduce := decide (0x20 ≤ op)
  let takesY := decide (op ≤ 6)
  let (zr, zc) := if reduce then (if o.axis = 0 then (o.rows, 1) else if o.axis = 1 then (1, o.cols) else (1, 1)) else (o.rows, o.cols)
  let z := refSpan (c.word 5) zr zc
  let isInt := fun w : W64 => (Ref.ofWord w).fmt.isInt
  let same := fun w : W64 => w == c.word 5
  let clear := fun (w : W64) => !spansMeet z (refSpan w o.rows o.cols) || (!reduce && same w)
  ((decide (1 ≤ op) && decide (op ≤ 0x11)) || (reduce && decide (op ≤ 0x23)))
  && o.rows != 0 && o.cols != 0 && o.axis != 3 && (reduce || o.axis == 0) && fld (c.word 6) 15 6 == 0
  && (takesY || (c.word 4 == 0 && !o.yImm)) && (!o.yImm || c.word 4 == 0)
  && (o.imm == 0 || op == 0xA || o.yImm) && (o.imm2 == 0 || op == 0xA)
  && x.refOk (c.word 3) (some o.cols) && x.refOk (c.word 5) (some zc) && clear (c.word 3)
  && (!takesY || o.yImm || (x.refOk (c.word 4) (some o.cols) && clear (c.word 4) && isInt (c.word 3) == isInt (c.word 4)))
  && !(decide (0xB ≤ op) && decide (op ≤ 0x10) && isInt (c.word 3)) && x.roundOk o.round (refFmt (c.word 5))
/-- Mover commands (R112, R114, Table 05-10). -/
def Tx.moverOk (x : Tx) (c : Cmd) : Bool :=
  let size := fun w : W64 => (Ref.ofWord w).fmt.size
  if c.opcode = 1 then
    x.refOk (c.word 3) none && x.refOk (c.word 4) none && size (c.word 3) == size (c.word 4) && x.placeOk (c.word 5) 64
    && x.placeOk (c.word 6) 64 && c.word 7 == 0
  else if c.opcode = 2 then
    c.word 3 == 0 && x.refOk (c.word 4) none && c.word 5 == 0 && x.placeOk (c.word 6) 64
  else
    let n := rowElems c
    (c.opcode == 3 || c.opcode == 4) && rowCount c != 0 && n != 0 && fld (c.word 6) 15 0 == 0 && c.word 7 == 0
    && x.refOk (c.word 3) (some n) && x.refOk (c.word 4) (some n) && size (c.word 3) == size (c.word 4)
    && x.refOk (c.word 5) none && refFmt (c.word 5) == 6
/-- Link bindings (R116 to R118, Table 05-11). The local reference of PUT and GET has no column count, so no PITCH rule applies to it
(DESIGN CHOICE, log 139: R101 states the rule by columns). -/
def Tx.bindOk (x : Tx) (c : Cmd) : Bool :=
  if c.opcode = 1 ∨ c.opcode = 2 then
    bit x.req 8 && x.xfers.contains (bindTransfer c) && c.word 4 == 0 && c.word 5 == 0 && c.word 6 == 0 && c.word 7 == 0
    && (if c.opcode = 1 then fld (c.word 3) 47 0 == 0 else recvArms c != 0 && fld (c.word 3) 31 0 == 0)
  else
    (c.opcode == 3 || c.opcode == 4) && bit x.req 9 && fld (c.word 3) 47 33 == 0 && fld (c.word 5) 63 12 == 0 && c.word 6 == 0
    && c.word 7 == 0 && putLength c % 16 == 0 && decide (16 ≤ putLength c) && decide (putLength c ≤ 2048)
    && x.fmtOk (putLocal c).format && x.used (putLocal c).region && (putLocal c).offset % (putLocal c).fmt.size == 0
/-- FRAME (R143, R148, Table 07-1). -/
def Tx.frameOk (x : Tx) (c : Cmd) : Bool :=
  match x.configs[frameConfig c]? with
  | none => false
  | some g =>
    let at_ := fun (w : W64) (n : Nat) => ((LoopRef.ofWord w).region, (LoopRef.ofWord w).offset, n)
    let buf := at_ (c.word 3) (frameLen c)
    c.opcode == 1 && bit x.req 6 && bit x.req 7 && x.placeOk (c.word 3) 64 && fld (c.word 4) 23 0 == 0 && x.placeOk (c.word 5) 32
    && x.placeOk (c.word 6) 64 && c.word 7 == 0 && !spansMeet (at_ (c.word 5) (32 * g.boxMax)) buf && !spansMeet (at_ (c.word 6) 64) buf
/-- Predicate commands (R119). -/
def Tx.predOk (x : Tx) (c : Cmd) : Bool :=
  let op := c.opcode
  decide (1 ≤ op) && decide (op ≤ 4) && c.word 4 == 0 && c.word 7 == 0 && fld (c.word 5) 63 32 == 0 && fld (c.word 6) 23 0 == 0
  && decide (predCond c ≤ 5) && (!predIsInt c || op == 3)
  && (if op ≤ 2 then predCount c != 0 && x.refOk (c.word 3) none else predCount c == 0 && c.word 3 == 0)
  && (op != 3 || c.nwait != 0)
/-- The consumer code of the engine that a group runs on (Table 04-8, R87). -/
def groupConsumer (g : Nat) : Nat :=
  match g with
  | 1 => 0 | 2 => 1 | 3 => 2 | 4 => 3 | 5 => 4 | 6 => 1 | _ => 5
/-- Is a queue of a tile declared, and who consumes it? -/
def Tx.consumer (x : Tx) (tile queue : Nat) : Option Nat :=
  (x.queues.find? (fun w => qdTile w == tile && qdQueue w == queue)).map qdConsumer

/-- The common words (R87, Tables 04-6 and 04-7, R83). -/
def Tx.commonOk (x : Tx) (c : Cmd) : Bool :=
  let w := c.waits
  let p := c.posts
  decide (c.voidMode ≤ 1) && decide (c.nwait ≤ 2) && decide (c.npost ≤ 2) && fld (c.word 0) 33 0 == 0
  && (decide (2 ≤ c.nwait) || fld (c.word 1) 63 32 == 0) && (c.nwait != 0 || c.word 1 == 0)
  && (decide (2 ≤ c.npost) || fld (c.word 2) 63 32 == 0) && (c.npost != 0 || c.word 2 == 0)
  && w.all (fun r => !bit r 0 && refTile r == c.tile && x.consumer c.tile.val (refQueue r).val == some (groupConsumer c.group))
  && distinct (w.map refQueue) && p.all (fun r => !bit r 0 && (x.consumer (refTile r).val (refQueue r).val).isSome)
/-- Every rule of a command by itself. -/
def Tx.cmdOk (x : Tx) (c : Cmd) : Bool :=
  let rest := fun (_ : Unit) => c.word 4 == 0 && c.word 5 == 0 && c.word 6 == 0 && c.word 7 == 0
  x.commonOk c &&
  (match c.group with
   | 0 => decide (c.opcode ≤ 2) && c.word 3 == 0 && rest ()
   | 1 => if c.opcode = 1 then x.matmulOk c else c.opcode == 2 && x.convOk c
   | 2 => x.vectorOk c
   | 3 => x.moverOk c
   | 4 => x.bindOk c
   | 5 => x.frameOk c
   | 6 => x.predOk c
   | 7 => c.opcode == 1 && fld (c.word 3) 47 0 == 0 && rest ()
   | _ => false)
def Cmd.isEnd (c : Cmd) : Bool := c.group == 0 && c.opcode == 1

/-! Sections of code. -/

/-- Native code of a section, never longer than its Ronef code (R83). -/
def nativeCode (bs : List Byte) : List Byte := (Config.native bs).take bs.length
/-- Does code fit in a region from an offset? -/
def fits (m : AllocMap) (region off n : Nat) : Bool :=
  match m.entry? region with
  | some e => decide (off + n ≤ meLen e)
  | none => false
def readCmds (bs : List Byte) (off n : Nat) : List Cmd := (List.range n).map (fun i => Cmd.ofBytes (slice bs (off + 64 * i) 64))

/-- A STREAM section: the index of the first command at fault, or none of it for a fault of the section. -/
def Tx.streamBad (x : Tx) (region off : Nat) (bs : List Byte) : Option SectPlace :=
  let cs := readCmds bs 0 (bs.length / 64)
  if !bit x.req 4 then some {}
  else
    match (List.range cs.length).find? (fun i => !((cs[i]?).any (fun c => x.cmdOk c && c.isEnd == (i + 1 == cs.length)))) with
    | some i => some { index := some i }
    | none => if fits x.map region off (nativeCode bs).length then none else some {}

/-- The lists of a GRAPH section (Tables 06-1, 06-2): (tile, offset, descriptors). -/
def graphLists (bs : List Byte) : List (Nat × Nat × Nat) :=
  (List.range (leAt bs 0 1)).map (fun i => (leAt bs (64 + 16 * i) 1, leAt bs (72 + 16 * i) 8, leAt bs (68 + 16 * i) 4))
/-- The header of a GRAPH section and the room for its directory. -/
def graphHeadOk (bs : List Byte) : Bool :=
  let n := leAt bs 0 1
  decide (64 ≤ bs.length) && decide (1 ≤ n) && decide (n ≤ 32) && leAt bs 1 1 == 1 && zeroAt bs 2 62 && decide (64 + 16 * n ≤ bs.length)
/-- A directory entry against those before it. -/
def graphEntryOk (bs : List Byte) (i : Nat) (l : Nat × Nat × Nat) : Bool :=
  let before := (graphLists bs).take i
  zeroAt bs (65 + 16 * i) 3 && decide (l.1 ≤ 31) && decide (1 ≤ l.2.2) && decide (l.2.2 ≤ 2 ^ 20) && l.2.1 % 64 == 0
  && decide (l.2.1 + 64 * l.2.2 ≤ bs.length) && !before.any (fun m => m.1 == l.1)
  && !overlaps l.2.1 (64 * l.2.2) 0 (64 + 16 * leAt bs 0 1)
  && !before.any (fun m => overlaps l.2.1 (64 * l.2.2) m.2.1 (64 * m.2.2))
/-- Native code of a GRAPH section: its lists one after another in directory order (R126). -/
def graphNative (bs : List Byte) : List Byte :=
  (graphLists bs).flatMap (fun l => nativeCode (slice bs l.2.1 (64 * l.2.2)))
/-- A descriptor by itself (R127); streamQs are the queues that stream commands of the partition wait on. -/
def Tx.descOk (x : Tx) (streamQs : List (Fin 32 × Fin 64)) (tile : Nat) (c : Cmd) : Bool :=
  x.cmdOk c && c.tile.val == tile && (c.group != 0 || c.opcode == 0)
  && c.waits.all (fun r => !streamQs.contains (c.tile, refQueue r))
/-- A GRAPH section (R128): the directory entry, or the descriptor of a list, at fault. -/
def Tx.graphBad (x : Tx) (streamQs : List (Fin 32 × Fin 64)) (region off : Nat) (bs : List Byte) : Option SectPlace :=
  let ls := graphLists bs
  if !bit x.req 5 || !graphHeadOk bs then some {}
  else
    match firstIn ls (fun i l => if graphEntryOk bs i l then none else some i) with
    | some i => some { index := some i }
    | none =>
      match ls.findSome? (fun l => firstIn (readCmds bs l.2.1 l.2.2) (fun i c => if x.descOk streamQs l.1 c then none else some (l.1, i))) with
      | some (t, i) => some { tile := some t, index := some i }
      | none =>
        let upTo := fun (i : Nat) => (((ls.take (i + 1)).map (fun l => (nativeCode (slice bs l.2.1 (64 * l.2.2))).length)).sum)
        (firstIn ls (fun i l => match x.map.entry? region with
          | some e => if meTile e l.1 && fits x.map region off (upTo i) then none else some i
          | none => some i)).map (fun i => { index := some i })

/-! Point Engine configurations (R147, R148, Tables 07-5, 07-6). -/

def readLayer (bs : List Byte) (a : Nat) : Layer :=
  let w := fun o : Nat => BitVec.ofNat 64 (leAt bs (a + o) 8)
  let f := leAt bs (a + 30) 1
  { weights := w 0, bias := w 8, features := w 16, cin := leAt bs (a + 24) 2, cout := leAt bs (a + 26) 2, kernel := leAt bs (a + 28) 1,
    stride := leAt bs (a + 29) 1, pinned := nbits f 0 0 == 1, relu := nbits f 1 1 == 1, sat := nbits f 2 2 == 1,
    round := BitVec.ofNat 2 (nbits f 4 3), siteCap := leAt bs (a + 32) 4 }
def vec3 (bs : List Byte) (a : Nat) : Vector W32 3 := Vector.ofFn (fun i : Fin 3 => w32At bs (a + 4 * i.val))
/-- Bytes of the configuration at an offset. -/
def configLen (bs : List Byte) (a : Nat) : Nat := 320 + 64 * leAt bs (a + 4) 1
def readConfig (bs : List Byte) (a : Nat) : PointConfig :=
  let mode := leAt bs a 1
  { provisioned := nbits mode 0 0 == 1, sliced := nbits mode 1 1 == 1, classAgnostic := nbits mode 2 2 == 1,
    slices := leAt bs (a + 1) 1, maxPerVoxel := leAt bs (a + 2) 1, tableLog2 := leAt bs (a + 3) 1, classCount := leAt bs (a + 5) 1,
    tileSet := w32At bs (a + 8), pointLimit := leAt bs (a + 12) 4, voxelCap := leAt bs (a + 16) 4, candCap := leAt bs (a + 20) 4,
    boxMax := leAt bs (a + 24) 2, scoreMin := w32At bs (a + 28), iouMax := w32At bs (a + 32), voxelSize := vec3 bs (a + 36),
    boundMin := vec3 bs (a + 48), boundMax := vec3 bs (a + 60), table := BitVec.ofNat 64 (leAt bs (a + 72) 8),
    vfe := BitVec.ofNat 64 (leAt bs (a + 80) 8), anchors := (List.range 16).map (fun i => vec3 bs (a + 128 + 12 * i)),
    layers := (List.range (leAt bs (a + 4) 1)).map (fun i => readLayer bs (a + 320 + 64 * i)) }
/-- Offsets of the configurations. -/
def configsFrom (bs : List Byte) : Nat → Nat → List Nat
  | 0, _ => []
  | n + 1, a => a :: configsFrom bs n (a + configLen bs a)
def configOffsets (bs : List Byte) : List Nat := configsFrom bs (leAt bs 0 1) 64
def readConfigs (bs : List Byte) : List PointConfig := (configOffsets bs).map (readConfig bs)

/-- Rsvd bytes of a configuration and its layers. -/
def configRsvd (bs : List Byte) (a : Nat) : Bool :=
  decide (leAt bs a 1 < 8) && zeroAt bs (a + 6) 2 && zeroAt bs (a + 26) 2 && zeroAt bs (a + 88) 40
  && (List.range (leAt bs (a + 4) 1)).all (fun i =>
      let b := a + 320 + 64 * i
      decide (leAt bs (b + 30) 1 < 16) && leAt bs (b + 31) 1 == 0 && zeroAt bs (b + 36) 28)
/-- Rules 1, 4 and the references of a layer. A reference to a region that the map does not use is refused, as R83 has it of commands (DESIGN
CHOICE, log 162: R148 does not list it). -/
def Tx.layerOk (x : Tx) (l : Layer) : Bool :=
  between l.cin 1 512 && between l.cout 1 512 && between l.siteCap 1 (2 ^ 24) && decide (l.round.toNat ≤ 1)
  && (if l.stride = 1 then l.kernel == 1 || l.kernel == 3 || l.kernel == 5 else l.stride == 2 && l.kernel == 2 && !l.pinned)
  && x.refOk l.weights (some l.cout) && x.refOk l.features (some l.cout)
  && (l.bias == 0 || (x.refOk l.bias (some l.cout) && refFmt l.bias == 0))
/-- Rules 3 and 6 along the layers: input channels and input format of the next layer. -/
def layersOk : Nat → Option Nat → List Layer → Bool
  | _, _, [] => true
  | cin, fmt, l :: ls =>
    l.cin == cin && comboOk (fmt.getD (refFmt l.weights)) (refFmt l.weights) (refFmt l.features)
    && layersOk l.cout (some (refFmt l.features)) ls
/-- Rule 5. -/
def lastOk (g : PointConfig) : Bool :=
  match g.layers.getLast? with
  | some l => l.pinned && l.kernel == 1 && l.stride == 1 && l.cout == g.classCount + 8 && refFmt l.features == 0
  | none => false
/-- Input cap times kernel volume of each layer. The input cap of a layer is SITE_CAP of the one before it, of a pinned one too (DESIGN CHOICE,
log 161: R148 does not define it, and a pinned layer does not apply its SITE_CAP). -/
def ruleSizes : Nat → List Layer → List Nat
  | _, [] => []
  | cap, l :: ls => cap * l.kernel ^ 3 :: ruleSizes l.siteCap ls
/-- Bytes of the work area (rule 8). -/
def PointConfig.workBytes (g : PointConfig) : Nat :=
  let cap := (g.layers.map (·.siteCap)).foldl Nat.max g.voxelCap
  16 * 2 ^ g.tableLog2 + 16 * g.voxelCap * g.maxPerVoxel + 2 * (8 * cap) + 8 * (ruleSizes g.voxelCap g.layers).foldl Nat.max 0
/-- The work area: TABLE is taken as an operand word is, region in bits 63:54 and offset in bits 53:21, its other bits ignored (DESIGN CHOICE,
log 140: Table 07-5 says region and offset only). -/
def PointConfig.work (g : PointConfig) : Nat × Nat × Nat := ((LoopRef.ofWord g.table).region, (LoopRef.ofWord g.table).offset, g.workBytes)
/-- A finite FP32 value above zero. -/
def fpos (w : W32) : Bool := flt 0 w && fle w 0x7F7FFFFF
/-- Rules 1 to 8 of a configuration. -/
def Tx.configOk (x : Tx) (g : PointConfig) : Bool :=
  between g.slices 1 32 && between g.maxPerVoxel 1 64 && between g.tableLog2 10 24 && between g.layers.length 1 16
  && between g.classCount 1 16 && g.tileSet != 0 && between g.pointLimit 1 (2 ^ 24) && between g.voxelCap 1 (2 ^ 24)
  && between g.candCap 1 4096 && between g.boxMax 1 512 && fle 0 g.scoreMin && fle g.scoreMin 0x3F800000 && flt 0 g.iouMax
  && fle g.iouMax 0x3F800000 && ([0, 1, 2] : List (Fin 3)).all (fun i => fpos g.voxelSize[i] && between (g.extent i) 1 (2 ^ 21))
  && (LoopRef.ofWord g.table).offset % 64 == 0 && x.refOk g.vfe (some 8) && refFmt g.vfe == 0
  && g.layers.all x.layerOk && layersOk 8 none g.layers && lastOk g
  && decide (2 * g.voxelCap ≤ 2 ^ g.tableLog2) && g.layers.all (fun l => decide (2 * l.siteCap ≤ 2 ^ g.tableLog2))
  && (match x.map.entry? g.work.1 with
      | some e => mePurpose e == Purpose.pointTable && decide (g.work.2.1 + g.work.2.2 ≤ meLen e)
      | none => false)
/-- A POINT section (R147, R148). -/
def Tx.pointOk (x : Tx) (bs : List Byte) : Bool :=
  let as_ := configOffsets bs
  let gs := readConfigs bs
  bit x.req 6 && bit x.req 7 && decide (64 ≤ bs.length) && between (leAt bs 0 1) 1 8 && zeroAt bs 1 63
  && as_.all (fun a => decide (a + configLen bs a ≤ bs.length) && configRsvd bs a) && gs.all x.configOk
  && (List.range gs.length).all (fun i => (List.range i).all (fun k => match gs[i]?, gs[k]? with
      | some a, some b => !spansMeet a.work b.work
      | _, _ => true))

/-! INIT sections (R83). -/

def initOk (m : AllocMap) (region off n : Nat) : Bool :=
  match m.entry? region with
  | some e => (meHas e Kind.tileWrite || meHas e Kind.mover) && decide (off + n ≤ meLen e)
  | none => false

end Sys2Proof.Machine
end

