-- ==== Sys2Proof/Machine/Loader.lean ====
section
/-! DEFINITION. The loader: LOAD, LOAD_TAKE_UP with the checks of R82 in order, LOAD_COMPLETE (R81 to R84). -/

namespace Sys2Proof.Machine

/-! PART_MAP (Table 12-8). -/

/-- No nibble from 8 to 14, no partition twice. -/
def partMapOk (v : W64) : Bool := (nibbles v).all (fun n => decide (n < 8) || n == 0xF) && distinct (partMapParts v)

/-! Reading an image that has passed its form. -/

/-- The first section of a job-wide type. -/
def jobBody (bs : List Byte) (ss : List Sect) (kind : Nat) : Option (List Byte) := (sectsOf ss kind 0xFF).head?.map (Sect.body bs)
def partBody (bs : List Byte) (ss : List Sect) (kind p : Nat) : List Byte := (((sectsOf ss kind p).head?).map (Sect.body bs)).getD []
/-- The PLAN section as read: none without one, some none when malformed. -/
def imagePlan (bs : List Byte) (ss : List Sect) : Option (Option (PlanSection × Nat)) := (jobBody bs ss Sec.plan).map readPlan
def PlanSection.xferNumbers (k : PlanSection) : List W16 := k.plans.flatMap (fun p => p.sets.flatMap (fun x => x.xfers.map Transfer.number))
/-- Transfers that the image's plan defines. -/
def imageXfers (bs : List Byte) (ss : List Sect) : List W16 :=
  match imagePlan bs ss with
  | some (some (k, _)) => k.xferNumbers
  | _ => []
def imageSeq (bs : List Byte) (ss : List Sect) : Option Nat :=
  match imagePlan bs ss with
  | some (some (k, _)) => (k.plans.head?).map (fun p => p.seq.length)
  | _ => none
/-- What translation knows of a partition of the image. -/
def imageTx (bs : List Byte) (ss : List Sect) (m : AllocMap) (p : Nat) : Tx :=
  { map := m, queues := readQueues (partBody bs ss Sec.queues p), req := (Head.ofBytes bs).req, xfers := imageXfers bs ss,
    configs := readConfigs (partBody bs ss Sec.point p) }
/-- Queues that stream commands of a partition wait on. -/
def streamWaits (bs : List Byte) (ss : List Sect) (p : Nat) : List (Fin 32 × Fin 64) :=
  (sectsOf ss Sec.stream p).flatMap (fun x =>
    (readCmds bs x.off (x.len / 64)).flatMap (fun c => c.waits.map (fun r => (c.tile, refQueue r))))

/-! Step 6 (R83, R120, R128, R148). -/

/-- One section's translation. -/
def sectTranslate (bs : List Byte) (ss : List Sect) (ps : List PartId) (ms : List AllocMap) (x : Sect) : Check :=
  let p := physOf ps x.part
  let req := (Head.ofBytes bs).req
  let tx := imageTx bs ss (ms.getD x.part { count := 0, jobPart := 0, linkOwn := 0, digest := 0, entries := [] }) x.part
  let fail := fun (b : Option SectPlace) => b.map (tfail p x.num)
  let need := fun (b : Bool) => if b then none else some (tfail (physOf ps 0) x.num {})
  if x.kind = Sec.stream then fail (tx.streamBad x.region x.tgtOff (x.body bs))
  else if x.kind = Sec.graph then fail (tx.graphBad (streamWaits bs ss x.part) x.region x.tgtOff (x.body bs))
  else if x.kind = Sec.point then fail (if tx.pointOk (x.body bs) then none else some {})
  else if x.kind = Sec.init then fail (if initOk tx.map x.region x.tgtOff x.len then none else some {})
  else if x.kind = Sec.hurdles then (hurdlesBad req (imageSeq bs ss) (x.body bs)).map (fun i => tfail (physOf ps 0) x.num { index := some i })
  else if x.kind = Sec.parkMap then need (bit req 10)
  else if x.kind = Sec.plan then need (bit req 8 && (decide (leAt bs (x.off + 1) 1 ≤ 1) || bit req 11))
  else none
/-- QUEUES of every partition first, then the sections in table order (log 76). -/
def translateChecks (bs : List Byte) (ss : List Sect) (ps : List PartId) (ms : List AllocMap) : Check :=
  firstOf
    (((List.range ms.length).zip ms).map (fun x =>
      (queuesBad x.2 (readQueues (partBody bs ss Sec.queues x.1))).map (fun i =>
        tfail (physOf ps x.1) (((sectsOf ss Sec.queues x.1).head?.map (·.num)).getD 0) { index := some i }))
     ++ ss.map (sectTranslate bs ss ps ms))

/-! The checks in order (R82). -/

def State.loadChecks (s : State) (bs : List Byte) (ps : List PartId) : Check :=
  match imageChecks s.mgt.keys bs ps.length with
  | some d => some d
  | none =>
    let h := Head.ofBytes bs
    let ss := imageSects bs
    let maps := imageMaps bs ss h.parts
    let ms := maps.map (·.2.2)
    let hs := readHurdles ((jobBody bs ss Sec.hurdles).getD [])
    let sec := imagePlan bs ss
    let points := (List.range h.parts).filter (fun p => !(sectsOf ss Sec.point p).isEmpty)
    match mapChecks ps maps points (hs.any (·.parkable)) h.park (jobBody bs ss Sec.parkMap) with
    | some d => some d
    | none =>
      if !s.goldenOk ms ps (sec.bind (fun x => x.map (·.1))) then some (refuse Code.reserveFull (physOf ps 0))
      else
        match s.planChecks ms ps sec (planBadAt ((jobBody bs ss Sec.plan).getD [])) (hs.map (·.seqEntry)) with
        | some d => some d
        | none => translateChecks bs ss ps ms

/-! What a load gives the package. -/

def imageLists (bs : List Byte) (ss : List Sect) : List ListDef :=
  (ss.filter (fun x => x.kind == Sec.graph)).flatMap (fun x =>
    (graphLists (x.body bs)).map (fun l => { jobPart := x.part, tile := finOf 32 l.1, descs := readCmds (x.body bs) l.2.1 l.2.2 }))
/-- The image as the package keeps it. -/
def readImage (bs : List Byte) : Image :=
  let h := Head.ofBytes bs
  let ss := imageSects bs
  { partCount := h.parts
    parkPart := if h.park = 0xFF then none else some h.park
    minGrade := finOf 8 h.minGrade
    slipBudget := h.slipBudget
    waitLimit := h.waitLimit
    featureReq := h.req
    name := slice bs 64 32
    maps := (imageMaps bs ss h.parts).map (·.2.2)
    queues := (List.range h.parts).flatMap (fun p => (readQueues (partBody bs ss Sec.queues p)).map (fun w => (p, w)))
    streams := (ss.filter (fun x => x.kind == Sec.stream)).map (fun x =>
      { jobPart := x.part, index := x.index, region := x.region, offset := x.tgtOff, code := readCmds bs x.off (x.len / 64) })
    lists := imageLists bs ss
    graphTargets := (ss.filter (fun x => x.kind == Sec.graph)).map (fun x => (x.part, x.region, x.tgtOff, x.len))
    hurdles := readHurdles ((jobBody bs ss Sec.hurdles).getD [])
    plan := (imagePlan bs ss).bind (fun x => x.map (·.1))
    work := (readW32 ((jobBody bs ss Sec.work).getD []) 0 (((jobBody bs ss Sec.work).getD []).length / 4)).map BitVec.toNat
    parkMap := (jobBody bs ss Sec.parkMap).map parkEntries
    points := (ss.filter (fun x => x.kind == Sec.point)).map (fun x => (x.part, readConfigs (x.body bs)))
    inits := (ss.filter (fun x => x.kind == Sec.init)).map (fun x =>
      { jobPart := x.part, region := x.region, offset := x.tgtOff, data := x.body bs }) }

/-- Largest ratio of a lap's budget to its length: the demand of an image (R25). -/
def Image.demand (g : Image) : Nat × Nat :=
  match g.plan with
  | none => (0, 1)
  | some k => (g.work.zip k.lapLen).foldl (fun a x => if x.2 = 0 then a else if a.1 * x.2 < x.1 * a.2 then (x.1, x.2) else a) (0, 1)

/-- A region's first byte in the package. -/
def Image.place (g : Image) (ps : List PartId) (jp region off : Nat) : Option Nat :=
  match (g.maps[jp]?).bind (fun m => m.entry? region), ps[jp]? with
  | some e, some p => some (partBase p + meStart e + off)
  | _, _ => none
def cmdBytes (cs : List Cmd) : List Byte := cs.flatMap (fun c => wordsToBytes c.w.toList)
/-- Bytes of a park map (R74). -/
def parkBytes (ws : List W64) : List Byte := natLE 8 ws.length ++ wordsToBytes ws
/-- Everything that step 7 writes to the plots: JOB_PART, region, offset, bytes. INIT sections come last, in table order (log 76). -/
def Image.writes (g : Image) : List (Nat × Nat × Nat × List Byte) :=
  g.streams.map (fun x => (x.jobPart, x.region, x.offset, nativeCode (cmdBytes x.code)))
  ++ g.graphTargets.map (fun t =>
      (t.1, t.2.1, t.2.2.1, (g.lists.filter (fun l => l.jobPart == t.1)).flatMap (fun l => nativeCode (cmdBytes l.descs))))
  ++ (match g.parkMap with
      | some ws => (regionsOf g.maps Purpose.parkMap).map (fun x => (x.1, x.2.1, 0, parkBytes ws))
      | none => [])
  ++ g.inits.map (fun x => (x.jobPart, x.region, x.offset, x.data))
def Queue.ofDecl (w : W64) : Queue :=
  { tile := finOf 32 (qdTile w), queue := finOf 64 (qdQueue w)
    consumer := (match qdConsumer w with
      | 0 => .matrix | 1 => .vector | 2 => .mover | 3 => .binding | 4 => .point | _ => .sequencer)
    depth := 2 ^ qdLog2 w, region := qdRegion w, offset := qdOffset w, entries := [], highest := 0 }
/-- A partition in SET for its JOB_PART of a job. -/
def Image.partition (g : Image) (id jp : Nat) (f : FnId) (st : PState) : Partition :=
  let m := g.maps[jp]?
  let cs := ((g.points.find? (fun x => x.1 == jp)).map (·.2)).getD []
  { Partition.reset with
    st := st, owner := some f, job := some id, jobPart := jp, mapA := m, mapB := m, mapGold := m,
    demandNum := g.demand.1, demandDen := g.demand.2, queues := (g.queues.filter (fun x => x.1 == jp)).map (fun x => Queue.ofDecl x.2),
    configs := cs, serials := cs.map (fun _ => 1) }
/-- The job of an accepted load. -/
def Image.job (g : Image) (id : Nat) (d : Desc) (ps : List PartId) : Job :=
  { id := id, fn := d.fn, origin := d.origin, tag := d.tag, eventCq := 0, parts := ps, lead := (ps[0]?).getD 0, phase := .loaded,
    image := g, startDone := false, startDesc := none, resuming := false, pace := none, planSel := 0, ranks := none, slices := [],
    prior := none, occBase := [],
    circuits := 0, predInit := 0, fromHurdle := none, digests := [], lap := none, endCount := none, resumeCount := none, hurdle := none,
    nextHurdle := 0, xfers := [], sends := [], ringDeferred := [], ringSampled := [], ringLanding := [], bindQ := [], slips := 0,
    firstFault := 0, divergedAtLap := false, parkedMap := none, saved := [], savedPace := none, stopping := none }
/-- The links of LINK_OWN that no other job owns are the job's (R166). -/
def State.claimLinks (s : State) (j : Job) : State :=
  { s with links := Vector.ofFn (fun l : Fin 6 =>
      if j.ownLinks.contains l && s.links[l].owner.isNone then { s.links[l] with owner := some j.id } else s.links[l]) }
/-- Set a job's partitions by their JOB_PARTs. -/
def State.setParts (s : State) (ps : List PartId) (f : Nat → PartId → Partition) : State :=
  ((List.range ps.length).zip ps).foldl (fun s x => s.modPart x.2 (fun _ => f x.1 x.2)) s

/-- What INIT sections left in a queue's storage: its entries up to the first that is all zero (log 67). -/
def seedEntries (depth : Nat) (bs : List Byte) : List QEntry :=
  ((List.range depth).map (fun i => (BitVec.ofNat 128 (leAt bs (16 * i) 16) : QEntry))).takeWhile (· != 0)
def State.seedQueues (s : State) (p : PartId) (m : Option AllocMap) : State :=
  (s.part p).queues.foldl (fun s k =>
    match m.bind (fun m => m.entry? k.region) with
    | none => s
    | some e =>
      match s.fetchBytes (partBase p + meStart e + k.offset) (16 * k.depth) (Loc.base 10) with
      | (s, none) => s
      | (s, some bs) =>
        let es := seedEntries k.depth bs
        s.modPart p (fun q => q.modQueue k.tile k.queue (fun k => { k with entries := es, highest := es.length }))) s

/-- Step 7 and the end of an accepted load (R84). -/
def State.install (s : State) (d : Desc) (ps : List PartId) (g : Image) : State :=
  let id := s.mgt.nextJob
  let s := g.writes.foldl (fun s x => match g.place ps x.1 x.2.1 x.2.2.1 with
    | some a => (s.store a x.2.2.2 (Loc.base 10)).1
    | none => s) s
  let s := s.setParts ps (fun jp _ => g.partition id jp d.fn .set)
  let s := ps.foldl (fun s p => s.seedQueues p (s.part p).mapA) s
  let j := g.job id d ps
  let s := { s with jobs := s.jobs ++ [j] }
  (s.claimLinks j).modMgt (fun m => { m with nextJob := id + 1 })

/-! The rows. -/

def Desc.loadOk (d : Desc) : Bool :=
  d.word0Ok && winOffsetOk (d.word 1) && d.zeros [3, 4, 5, 6, 7] && fld (d.word 2) 63 32 == 0 && partMapOk (d.word 2)
  && partMapUsed (d.word 2) == List.range (partMapParts (d.word 2)).length

/-- LOAD: a LOAD descriptor is checked and waits its turn (R81). -/
def execLoad (s : State) : Out :=
  .next (match s.takeMc Op.load with
    | none => s
    | some (d, t) =>
      if !d.loadOk then t.done d Status.badDescriptor
      else if d.fn == 0 || t.gated d then t.done d Status.notPermitted
      else t.modMgt (fun m => { m with loads := m.loads ++ [d] }))

/-- The named partitions are zeroed again and stay in MARKS (R84). -/
def State.rezero (s : State) (ps : List PartId) : State :=
  ps.foldl (fun s p => s.modPart p (fun q => if q.st == .marks then { q with zeroing := true } else q)) s
/-- A load is refused: its cause is logged, its partitions are zeroed, its descriptor completes (R66, R84). -/
def State.denyLoad (s : State) (d : Desc) (ps : List PartId) (x : Denial) : State :=
  let s := match x.loc, x.val with
    | some r, _ => s.logAt x.code d.fn.val r
    | none, some n => s.hand x.code d.fn.val (.count (BitVec.ofNat 64 n))
    | none, none => s.logs x.code d.fn.val
  (s.rezero ps).complete d { status := x.status, fault := x.code }

/-- Read the image of a load through its header (R308, R309): its bytes, or none when the descriptor waits to close. -/
def State.readLoad (s : State) (o : WinOp) : State × Option (List Byte) :=
  if o.hdr.len < 256 then (s.shortBuf o 256, none)
  else
    match s.winFetch o 256 with
    | (s, none) => (s, none)
    | (s, some head) =>
      let n := imageSize head
      if o.hdr.len < n then (s.shortBuf o n, none) else s.winFetch o (Nat.max 256 n)

/-- A load from step 4 on: its image is read and checked. -/
def State.loadGo (s : State) (o : WinOp) : State :=
  let ps := partMapParts (o.desc.word 2)
  match s.openHeader o with
  | .ended s => s
  | .opened s o =>
    match s.readLoad o with
    | (s, none) => s
    | (s, some bs) =>
      let s := s.setOp o { o with phase := .reply bs.length }
      match s.loadChecks bs ps with
      | some x => s.denyLoad o.desc ps x
      | none => s.modMgt (fun m => { m with task := some { desc := o.desc, parts := ps, image := readImage bs, lost := false } })

/-- A load is taken up: answered, or it waits while a named partition is being zeroed, or it is admitted and its image read and checked (R61, R81,
R82). -/
def State.takeLoad (s : State) (d : Desc) : State :=
  let ps := partMapParts (d.word 2)
  if !ps.all (s.admits d.fn) then s.done d Status.notPermitted
  else if !ps.all (fun p => (s.part p).st == .marks) then s.conflict d
  else if ps.any (fun p => (s.part p).zeroing) then s.modMgt (fun m => { m with loadHeld := some d })
  else
    let o := s.winOp d none
    let u := s.pushOp o
    if u.canClaim o then u.loadGo o else u
/-- LOAD_TAKE_UP: the load at its turn is taken up, or the one that has waited for zeroing goes on once that has ended. A firmware update that waited
for it goes on (R81, R310, R365). -/
def execLoadTakeUp (s : State) : Out :=
  .next (if !s.fwServes then s
    else
      match s.mgt.loadHeld, s.mgt.loads with
      | some d, _ =>
        if (partMapParts (d.word 2)).any (fun p => (s.part p).zeroing) then s
        else ((s.modMgt (fun m => { m with loadHeld := none })).takeLoad d).fwProceed
      | none, [] => s
      | none, d :: rest => if s.loading then s else ((s.modMgt (fun m => { m with loads := rest })).takeLoad d).fwProceed)

/-- LOAD_COMPLETE: step 7 is written and the partitions are SET, or the load is refused late: a staged copy lost, a named partition
no longer in MARKS (log 77). A firmware update that waited for it goes on (R365). -/
def execLoadComplete (s : State) : Out :=
  .next (match s.mgt.task with
    | none => s
    | some k =>
      if !s.fwServes then s
      else
        let u := s.meetReserve (Loc.base 10) (fun x => x.part == .workingStore
          || (x.part == .stagedMap && x.holder.any k.parts.contains))
        let t := u.modMgt (fun m => { m with task := none })
        (if u.mgt.task.any (·.lost) then (t.rezero k.parts).complete k.desc { status := Status.imageRefused, fault := Code.goldenLost }
         else if !k.parts.all (fun p => (u.part p).st == .marks && !(u.part p).zeroing) then (t.rezero k.parts).conflict k.desc
         else (t.install k.desc k.parts k.image).done k.desc Status.success).fwProceed)

end Sys2Proof.Machine
end

