-- ==== Sys2Proof/Machine/HostPort.lean ====
section
/-! DEFINITION. Resets of functions and of the host port (R269, R274, R314, R327, R366, R372, R405, Table 15-4). -/

namespace Sys2Proof.Machine

/-! Function reset (R274). -/

/-- Descriptors of a function that have not completed, wherever they wait. -/
def ReqOwner.desc? (o : ReqOwner) : Option Desc :=
  match o with
  | .putGet .. | .i3c _ | .plot _ => none
  | .mgmt d _ => some d
  | .counters d => some d
def State.openDescs (s : State) (f : FnId) : List Desc :=
  (s.hiu.mcQueue ++ s.hiu.reQueue ++ s.hiu.winOps.map (·.desc) ++ s.mgt.loads ++ s.mgt.loadHeld.toList ++ s.mgt.unloads.map (·.desc)
   ++ s.mgt.task.toList.map (·.desc) ++ s.infield.requests.filterMap (·.owner.desc?) ++ s.jobs.filterMap (·.startDesc)).filter (·.fn == f)

/-- Drop every descriptor of a function: none completes, no header is written, claims are released; a load in progress is abandoned
(R274, R314). -/
def State.dropDescs (s : State) (f : FnId) : State :=
  let ds := s.openDescs f
  let s := s.modHiu (fun h =>
    { h with
      mcQueue := h.mcQueue.filter (·.fn != f), reQueue := h.reQueue.filter (·.fn != f), winOps := h.winOps.filter (·.desc.fn != f) })
  let s := match s.mgt.task with
    | some k => if k.desc.fn == f then (s.rezero k.parts).modMgt (fun m => { m with task := none }) else s
    | none => s
  let s := s.modMgt (fun m =>
    { m with
      loads := m.loads.filter (·.fn != f), loadHeld := m.loadHeld.filter (·.fn != f), unloads := m.unloads.filter (·.desc.fn != f)
      held := m.held.filter (·.fn != f), committed := m.committed.filter (·.fn != f), latched := m.latched.filter (·.fn != f)
      poisons := m.poisons.filter (·.fn != f) })
  let s := s.modInfield (fun i =>
    { i with
      requests := i.requests.filter (fun r => match r.owner.desc? with | some d => d.fn != f | none => true) })
  let s := s.modSvc (fun v =>
    { v with
      requests := v.requests.filter (fun r => !(r.taken && ds.any (fun d => d.origin == .zsh r.port r.seq))) })
  { s with jobs := s.jobs.map (fun j : Job =>
      match j.startDesc with
      | some d => if d.fn == f then { j with startDesc := none } else j
      | none => j) }

/-- Every job of a function faults with JOB_HOST_RESET. -/
def State.hostResetJobs (s : State) (f : FnId) : State :=
  let ids := (s.jobs.filter (fun j => j.fn == f && j.phase != .faulted)).map (·.id)
  ids.foldl (fun s id => (s.logs Code.jobHostReset f.val).jobFaultQuiet id Code.jobHostReset) s

/-- A PARK of the function's job is cut: its partitions that are not in MARKS enter FAULTED (R398). -/
def State.parksCut (s : State) (f : FnId) : State :=
  (s.mgt.unloads.filter (fun t => t.desc.fn == f && t.parked.isSome)).foldl (fun s t =>
    t.left.foldl (fun s p => s.modPart p (·.toFaulted Code.jobHostReset)) s) s
/-- One function returns to reset: its rings, registers and descriptors, its tenant service rings, its jobs; FUNCTION_RESET is logged. -/
def State.fnReset (s : State) (f : FnId) : State :=
  let s := (s.parksCut f).dropDescs f
  let s := s.modFn f (fun _ => Function.reset)
  let s := s.modHiu (fun h =>
    { h with
      headerWaits := h.headerWaits.filter (fun x => x.fn != f)
      config := { h.config with
        msixEnable := setBitTo h.config.msixEnable f.val false, msixMasked := setBitTo h.config.msixMasked f.val false } })
  let s := s.modSvc (fun v =>
    { v with
      trings := v.trings.map (fun t : TRing => if t.vf.toNat == f.val then { t with enable := false, header := none } else t) })
  ((s.dropLines).hostResetJobs f).logs Code.functionReset f.val

/-- A function level reset: of one VF, or of PF0 and with it every VF (R274, R405). The service transmit ring is a ring of PF0. -/
def State.functionReset (s : State) (f : FnId) : State :=
  let s := if f == 0 then
      let s := allFns.foldl (fun s f => s.fnReset f) s.fwAbandon
      let s := s.modSvc (fun v => { v with tx := { v.tx with enable := false, stopped := true }, txHeld := none })
      s.modHiu (fun h =>
        { h with
          bind := Vector.replicate 8 0, errMask := 3, logVec := 0, exclBase := Vector.replicate 4 0, exclLimit := Vector.replicate 4 0 })
    else s.fnReset f
  s.fwProceed

/-- FUNCTION_RESET. -/
def execFunctionReset (f : FnId) (s : State) : Out := s.overHost (·.functionReset f)

/-! The host port (R269, R372). -/

/-- The port as a loss of the host link leaves it: its negotiation is gone and its configuration space back at reset. -/
def Hiu.portLost (h : Hiu) (stage : PortStage) : Hiu :=
  { h with port := stage, rate := 0, width := 0, flit := false, cxlCache := false, config := PortConfig.reset, lines := [], epoch := h.epoch + 1 }
/-- The host link is lost: as an FLR of PF0, with HOST_LINK_DOWN (R274). -/
def State.hostLost (s : State) (stage : PortStage) : State :=
  ((s.logs Code.hostLinkDown).functionReset 0).modHiu (fun h => { h.portLost stage with downEpisode := true })
/-- Training found no partner that the port supports: HOST_LINK_DOWN is logged once per episode, which ends when the link comes up or
the port is released from reset (log 147). -/
def State.noPartner (s : State) : State :=
  if s.hiu.downEpisode then s else (s.modHiu (fun h => { h with downEpisode := true })).logs Code.hostLinkDown

/-- HOST_LINK_DOWN: the link is lost, or training, which needs MAIN_PG, finds no partner that the port supports, logged once per episode. -/
def execHostLinkDown (s : State) : Out :=
  .next (match s.hiu.port with
    | .up => s.hostLost .detect
    | .detect => if s.power.mainPg then s.noPartner else s
    | .reset => s)

/-- PERST_L_CHANGE: asserted, it resets the port; released, it lets the port go to Detect, where it stays while MAIN_PG is low (R372). -/
def execPerstLChange (asserted : Bool) (s : State) : Out :=
  .next (
    let t := s.modPower (fun p => { p with perst := asserted })
    if asserted then (if s.hiu.port == .up then t.hostLost .reset else t.modHiu (fun h => { h with port := .reset }))
    else if s.hiu.port == .reset then t.modHiu (fun h => { h with port := .detect, downEpisode := false })
    else t)

/-- An option of Table 12-1: rate 1 to 3 (16, 32, 64 GT/s), width 4, 8 or 16 lanes, 64 GT/s in FLIT mode alone, CXL.cache at 64 GT/s. -/
def portOption (rate : BitVec 4) (width : BitVec 5) (flit cxlCache : Bool) : Bool :=
  decide (1 ≤ rate.toNat) && decide (rate.toNat ≤ 3) && (width == 4 || width == 8 || width == 16)
  && (flit || rate != 3) && (!cxlCache || rate == 3)

/-- Tag bits of the port's requests (Table 12-1). -/
def Hiu.tagBits (h : Hiu) : Nat := if h.flit then 14 else 10
/-- Max_Payload_Size and Max_Read_Request_Size in bytes (Table 12-1). -/
def PortConfig.payloadBytes (c : PortConfig) : Nat := 128 * 2 ^ c.maxPayload.val
def PortConfig.readBytes (c : PortConfig) : Nat := 128 * 2 ^ c.maxRead.val

/-- HOST_LINK_UP: training ends with a partner; one with no listed option leaves the port in Detect. On a port that is up the row stands
for a retraining and for the host's later configuration writes, for which the table has no row (log 147). A corrected error is logged
(R299). -/
def execHostLinkUp (rate : BitVec 4) (width : BitVec 5) (mode : PortMode) (setup : PortSetup) (s : State) : Out :=
  .next (
    if s.hiu.port == .reset || !s.power.mainPg || s.power.perst then s
    else if !portOption rate width mode.flit mode.cxlCache then (if s.hiu.port == .up then s.hostLost .detect else s.noPartner)
    else
      let s := s.modHiu (fun h =>
        { h with
          port := .up, rate := rate, width := width, flit := mode.flit, cxlCache := mode.cxlCache, config := setup.config, downEpisode := false })
      let s := allFns.foldl State.msixFreedAll s
      allFns.foldl (fun s f => s.takeLines f) (if setup.corrected then s.logs Code.portCorrected else s))

end Sys2Proof.Machine
end

