-- ==== Sys2Proof/Machine/Issue.lean ====
section
/-! DEFINITION. Issue of commands: the Sequencer core (R98), the descriptor picker (R132, R133, R140), control commands (R87,
R96), completion (R90), WAIT_LIMIT (R91, R137) and hurdle commands (R121, R123). -/

namespace Sys2Proof.Machine

/-! The Sequencer core (R98). -/

/-- Where a command goes: an engine's stream queue is full at 32, a relay station's at 64, the Point Engine's at 16. -/
def State.queueFull (s : State) (p : PartId) (j : Job) (c : Cmd) : Bool :=
  let q := s.part p
  match c.group with
  | 1 => decide (32 ≤ (q.engine c.tile .matrix).streamQ.length)
  | 2 | 6 => decide (32 ≤ (q.engine c.tile .vector).streamQ.length)
  | 3 => decide (32 ≤ (q.engine c.tile .mover).streamQ.length)
  | 4 => decide (64 ≤ (j.queued (j.stationOf c)).length)
  | 5 => decide (16 ≤ q.pointQ.length)
  | _ => false

/-- The next command of a stream that can issue. Nothing of a stream issues while one of its control commands waits for its batons: the
Sequencer has no queue (Table 04-10) in which such a command could wait aside (DESIGN CHOICE, log 154). -/
def State.canIssue (s : State) (p : PartId) (k : StreamIx) : Option (Stream × Cmd) :=
  let q := s.part p
  match s.jobOf p, q.stream? k with
  | some j, some x =>
    if q.st != .run || j.phase != .run || x.mode != .running then none
    else
      match x.code[x.pos]? with
      | some c => if s.queueFull p j c then none else some (x, c)
      | none => none
  | _, _ => none

/-- A Sequencer or picker fetch: checked against a CODE region that holds the code and whose TILE_MASK holds the tile (Table 03-8), then
read. The spec does not give the layout of native code, so which byte from the code's start on is fetched is a free value (log 129). -/
def State.fetchCheck (s : State) (p : PartId) (region offset : Nat) (i : Issued) (engine unit : Nat) : State × Bool :=
  let r : Loc := { i.loc p engine with region := some region, access := Kind.tileRead }
  let (s, l) := s.consultAll p r
  match l with
  | .lost => (s, false)
  | .noMap => (s.partJobFault p (Code.regionKind unit) r, false)
  | .diverged _ => (s.partJobFault p Code.mapDiverged r, false)
  | .entries es =>
    match es.find? (fun e => e.1 == region) with
    | some (_, e) =>
      let (n, s) := s.draw
      let at_ := meStart e + offset + (if offset < meLen e then n % (meLen e - offset) else 0)
      let r := { r with address := some ((at_ : Nat) : Int) }
      if mePurpose e == Purpose.code && meTile e i.cmd.tile.val && offset < meLen e then
        match s.fetchBytes (partBase p + at_) 1 r with
        | (s, some _) => (s, true)
        | (s, none) => (s, false)
      else (s.partJobFault p (Code.regionKind unit) r, false)
    | none => (s.partJobFault p (Code.regionKind unit) r, false)

/-! FRAMEs of a Point Engine that resets (R355). -/

/-- The front FRAME of a partition posts void with cause 3; the waits of one that could not start stay where they are (R355 step 3). -/
def State.voidFrame (s : State) (p : PartId) : State :=
  match (s.part p).pointQ with
  | [] => s
  | i :: rest =>
    let met := i.src == .graph || (match s.waitsOf p i with | .met _ => true | _ => false)
    let s := s.modPart p (fun q => { q with pointQ := rest })
    let mk := fun (id : W16) (g : Nat) => mkVoid 3 id g (i.src8 p)
    if met then s.retire p i mk 5 else s.postAll p i mk (i.loc p 5)
/-- Every queued FRAME of a partition, oldest first. -/
def State.voidFrames (s : State) (p : PartId) : Nat → State
  | 0 => s
  | n + 1 => if (s.part p).pointQ.isEmpty then s else (s.voidFrame p).voidFrames p n
/-- A FRAME reaches the Point Engine's queue; in HOLD it is answered at once: its posts are void with cause 3 (R355, Table 15-6). -/
def State.toPoint (s : State) (p : PartId) (i : Issued) : State :=
  let t := s.modPart p (fun q => { q with pointQ := q.pointQ ++ [i] })
  if s.inHold (.pointEngine (dieOfPart p)) then t.voidFrames p (t.part p).pointQ.length else t

/-- Put a command of a stream into its engine's queue, or leave a control command to its own row. -/
def State.issueTo (s : State) (p : PartId) (j : Job) (k : StreamIx) (i : Issued) : State :=
  let eng := fun (e : EngineKind) => s.modPart p (fun q =>
    let g := q.engine i.cmd.tile e
    q.setEngine { g with streamQ := g.streamQ ++ [i] })
  match i.cmd.group with
  | 1 => eng .matrix
  | 2 | 6 => eng .vector
  | 3 => eng .mover
  | 4 => s.modJob j.id (fun j => let n := j.stationOf i.cmd; j.setBindings n (j.bindings n ++ [⟨p, i, none⟩]))
  | 5 => s.toPoint p i
  | _ => s.modPart p (fun q => q.modStream k (fun x => { x with mode := .control i }))

/-- Issue the next command of a stream. -/
def State.issue (s : State) (p : PartId) (j : Job) (x : Stream) (c : Cmd) : State :=
  let i : Issued := { cmd := c, index := x.pos, iter := x.iter, src := .stream x.index }
  let (region, offset) := match j.image.streams.find? (fun d => d.jobPart == (s.part p).jobPart && d.index == x.index.val) with
    | some d => (d.region, d.offset)
    | none => (0, 0)
  match s.fetchCheck p region offset i 3 2 with
  | (s, false) => s
  | (s, true) =>
    let s := s.modPart p (fun q => q.modStream x.index (fun x => { x with pos := x.pos + 1 }))
    (s.issueTo p j x.index i).settle p

/-- The streams of a die in turn: number n is stream n mod 4 of its partition n div 4. -/
def streamOf (d : DieId) (n : Fin 8) : PartId × StreamIx := (finOf 8 (2 * d.val + n.val / 4), finOf 4 n.val)

/-- SEQUENCER_ISSUE: one command of the next stream in turn that can issue (R98). -/
def execSequencerIssue (d : DieId) (s : State) : Out :=
  .next (if s.inHold (.sequencer d) then s
    else
      let turns := (List.range 8).map (fun k => finOf 8 (s.seqTurn[d].val + k))
      match turns.findSome? (fun n =>
          let pk := streamOf d n
          (s.canIssue pk.1 pk.2).map (fun x => (n, pk.1, x))) with
      | none => s
      | some (n, p, x, c) =>
        match s.jobOf p with
        | none => s
        | some j => { s with seqTurn := vset s.seqTurn d (finOf 8 (n.val + 1)) }.issue p j x c)

/-! Control commands (R87, R96). -/

/-- What a control command does once its waits are met: it completes and its stream goes on. -/
def State.controlDone (s : State) (p : PartId) (k : StreamIx) (i : Issued) : State :=
  let s := s.modPart p (fun q => q.modStream k (fun x => { x with mode := .running }))
  s.retire p i (fun id g => mkEntry 0 id g (i.src8 p)) 3
/-- A skipped control command posts voids and its stream goes on. -/
def State.controlSkip (s : State) (p : PartId) (k : StreamIx) (i : Issued) (cause : Nat) : State :=
  let s := s.modPart p (fun q => q.modStream k (fun x => { x with mode := .running }))
  s.retire p i (fun id g => mkVoid cause id g (i.src8 p)) 3

/-- The control command that a stream waits at, of a group and opcode, when its waits are met: with its skip cause. -/
def State.controlReady (s : State) (p : PartId) (k : StreamIx) (grp op : Nat) : Option (Issued × Option Nat) :=
  if (s.part p).st != .run || s.inHold (.sequencer (dieOfPart p)) then none
  else
    match ((s.part p).stream? k).map Stream.mode with
    | some (.control i) =>
      if i.cmd.group != grp || i.cmd.opcode != op then none
      else
        match s.waitsOf p i with
        | .met es => some (i, fate (s.part p).pred i.cmd es)
        | _ => none
    | _ => none

/-- NOP waits and posts only (R87). -/
def execNop (p : PartId) (k : StreamIx) (s : State) : Out :=
  .next (match s.controlReady p k 0 0 with
    | none => s
    | some (i, some c) => (s.controlSkip p k i c).settle p
    | some (i, none) => (s.controlDone p k i).settle p)

/-- The circuit body closes: the stream ends, or issues again from command 0 (R96); a hurdle still ahead is missed (R123). -/
def State.closeCircuit (s : State) (p : PartId) (k : StreamIx) : State :=
  match s.jobOf p, (s.part p).stream? k with
  | some j, some x =>
    if (s.part p).st != .run then s
    else if x.iter + 1 = j.circuits || (j.circuits = 0 && j.endCount.isSome) then
      let s := (s.modPart p (fun q => q.modStream k (fun x => { x with iter := x.iter + 1, mode := .ended }))).logs Code.streamEnd (s.vfOf p)
      if j.hurdleAhead then s.partJobFault p Code.hurdleMissed { Loc.base 3 with part := p.val, command := some x.pos } else s
    else s.modPart p (fun q => q.modStream k (fun x => { x with iter := x.iter + 1, pos := 0 }))
  | _, _ => s

/-- END closes the circuit body; a skipped END still closes it (log 46). -/
def execEndCircuit (p : PartId) (k : StreamIx) (s : State) : Out :=
  .next (match s.controlReady p k 0 1 with
    | none => s
    | some (i, some c) => ((s.controlSkip p k i c).closeCircuit p k).settle p
    | some (i, none) => ((s.controlDone p k i).closeCircuit p k).settle p)

/-- FENCE: once it runs, the stream issues nothing until its earlier commands are complete; then the FENCE completes (R87). -/
def execFence (p : PartId) (k : StreamIx) (s : State) : Out :=
  .next (
    let finish := fun (s : State) (i : Issued) => (s.controlDone p k i).settle p
    match ((s.part p).stream? k).map Stream.mode with
    | some (.fence i) =>
      if i.cmd.group != 0 || (s.part p).st != .run || s.inHold (.sequencer (dieOfPart p)) || s.streamBusy p k then s
      else finish s i
    | _ =>
      match s.controlReady p k 0 2 with
      | none => s
      | some (i, some c) => (s.controlSkip p k i c).settle p
      | some (i, none) =>
        let s := s.modPart p (fun q => q.modStream k (fun x => { x with mode := .fence i }))
        if s.streamBusy p k then s else finish s i)

/-! HURDLE commands of streams (R121, R123). -/

/-- Decide a HURDLE whose earlier commands are complete. -/
def State.decideHurdle (s : State) (p : PartId) (k : StreamIx) (i : Issued) : State :=
  match s.jobOf p with
  | none => s
  | some j =>
    match j.declared (hurdleId i.cmd) i.iter with
    | none => (s.controlDone p k i).settle p
    | some (n, d) =>
      if n != j.nextHurdle then s.partJobFault p Code.hurdleMissed (i.loc p 3)
      else s.modPart p (fun q => q.modStream k (fun x => { x with mode := .arrived i d }))

/-- HURDLE (R121). -/
def execHurdle (p : PartId) (k : StreamIx) (s : State) : Out :=
  .next (match ((s.part p).stream? k).map Stream.mode with
    | some (.fence i) =>
      if i.cmd.group != 7 || (s.part p).st != .run || s.inHold (.sequencer (dieOfPart p)) || s.streamBusy p k then s
      else s.decideHurdle p k i
    | _ =>
      match s.controlReady p k 7 1 with
      | none => s
      | some (i, some c) =>
        (match s.jobOf p with
         | some j =>
           if (j.declared (hurdleId i.cmd) i.iter).isSome then s.partJobFault p Code.hurdleMissed (i.loc p 3)
           else (s.controlSkip p k i c).settle p
         | none => s)
      | some (i, none) =>
        let s := s.modPart p (fun q => q.modStream k (fun x => { x with mode := .fence i }))
        if s.streamBusy p k then s else s.decideHurdle p k i)

/-! The descriptor picker (R130 to R133, R140). -/

/-- Room in the queue a dispatched descriptor goes to (Table 06-3). -/
def State.graphRoom (s : State) (p : PartId) (j : Job) (c : Cmd) : Bool :=
  let q := s.part p
  match c.group with
  | 1 => decide ((q.engine c.tile .matrix).graphQ.length < 4)
  | 2 | 6 => decide ((q.engine c.tile .vector).graphQ.length < 4)
  | 3 => decide ((q.engine c.tile .mover).graphQ.length < 4)
  | 4 => decide ((j.queued (j.stationOf c)).length < 64)
  | 5 => decide (q.pointQ.length < 16)
  | _ => true

/-- Does list order still bind the instance (R133)? A binding behind an earlier one of its TRANSFER, a Point Engine command behind
an earlier one. -/
def GraphList.ordered (g : GraphList) (earlier : List (Nat × Nat)) (c : Cmd) : Bool :=
  let es := earlier.filterMap (fun x => g.descs[x.2]?)
  if c.group == 4 && c.opcode ≤ 2 then es.any (fun d => d.group == 4 && d.opcode ≤ 2 && bindTransfer d == bindTransfer c)
  else if c.group == 5 then es.any (fun d => d.group == 5)
  else false

/-- Dispatch an instance that runs. -/
def State.dispatchTo (s : State) (p : PartId) (j : Job) (i : Issued) : State :=
  let eng := fun (e : EngineKind) => s.modPart p (fun q =>
    let g := q.engine i.cmd.tile e
    q.setEngine { g with graphQ := g.graphQ ++ [i] })
  match i.cmd.group with
  | 1 => eng .matrix
  | 2 | 6 => eng .vector
  | 3 => eng .mover
  | 4 => s.modJob j.id (fun j => let n := j.stationOf i.cmd; j.setBindings n (j.bindings n ++ [⟨p, i, none⟩]))
  | 5 => s.toPoint p i
  | _ => s
/-- The picker has completed a skipped SEND (R132): its void baton goes to its station in list order, to bind an occurrence of its transfer
(R116, R133). It takes up no place of the station's queue (DEDUCED, log 132). -/
def State.skipSend (s : State) (p : PartId) (j : Job) (i : Issued) (cause : Nat) : State :=
  if (s.part p).st != .run then s
  else
    s.modJob j.id (fun j =>
      let n := j.stationOf i.cmd
      j.setBindings n (j.bindings n ++ [⟨p, i, some cause⟩]))

/-- Take an instance out of the window; busy says that it stays with its list until it completes. -/
def GraphList.leave (g : GraphList) (x : Nat × Nat) (busy : Bool) : GraphList :=
  { g with
    window := g.window.erase x
    busy := if busy then g.busy ++ [x] else g.busy
    maxPass := Nat.max g.maxPass x.1 }

/-- Act on a ready instance; none when the picker cannot handle it now. List order (R133) is asked before the instance's fate, so that it
holds back a skip too: the rule keeps list order, and its points speak only of dispatch (DESIGN CHOICE, log 153). -/
def State.pick (s : State) (p : PartId) (j : Job) (g : GraphList) (earlier : List (Nat × Nat)) (x : Nat × Nat) (c : Cmd) :
    Option State :=
  let i : Issued := { cmd := c, index := x.2, iter := x.1, src := .graph }
  let es := c.waits.filterMap (fun r => (s.part p).head? g.tile (refQueue r))
  let out := fun (busy : Bool) => s.modPart p (fun q => q.modList g.tile (fun g => g.leave x busy))
  let cause := fate (s.part p).pred c es
  let decl := j.declared (hurdleId c) x.1
  let skip := fun (k : Nat) => (out true).retire p i (fun id n => mkVoid k id n (i.src8 p)) 4
  let run := fun (_ : Unit) => (out true).retire p i (fun id n => mkEntry 0 id n (i.src8 p)) 4
  if c.group == 7 then
    if !(earlier.isEmpty && g.busy.isEmpty) then none
    else
      match cause, decl with
      | some _, some _ => some (s.partJobFault p Code.hurdleMissed (i.loc p 4))
      | some k, none => some (skip k)
      | none, none => some (run ())
      | none, some (n, d) =>
        if n != j.nextHurdle then some (s.partJobFault p Code.hurdleMissed (i.loc p 4))
        else some ((out false).modPart p (fun q => q.modList g.tile (fun g => { g with arrived := some (x.1, x.2, d) })))
  else if g.ordered earlier c then none
  else
    match cause with
    | some k =>
      some (if c.group == 4 && c.opcode == 1 then (skip k).skipSend p j i k else skip k)
    | none =>
      if c.group == 0 then some (run ())
      else if s.graphRoom p j c then some ((out true).dispatchTo p j i)
      else none

/-- Try the ready instances of the window in order. -/
def State.pickFrom (s : State) (p : PartId) (j : Job) (g : GraphList) : List (Nat × Nat) → List (Nat × Nat) → Option State
  | _, [] => none
  | earlier, x :: rest =>
    match g.descs[x.2]? with
    | none => s.pickFrom p j g (earlier ++ [x]) rest
    | some c =>
      match (if s.instReady p g earlier x c then s.pick p j g earlier x c else none) with
      | some t => some t
      | none => s.pickFrom p j g (earlier ++ [x]) rest

/-- The window of a list fills: each instance that enters is fetched with its own index (R127, R130); false when a fetch faults. -/
def State.fillWindow (s : State) (p : PartId) (t : Fin 32) (circuits region offset : Nat) : Nat → State × Bool
  | 0 => (s, true)
  | n + 1 =>
    match (s.part p).list? t with
    | none => (s, true)
    | some g =>
      if 128 ≤ g.window.length || !g.more circuits || g.hurdleInWindow then (s, true)
      else
        match s.fetchCheck p region offset
            { cmd := (g.descs[g.nextIndex]?).getD Cmd.zero, index := g.nextIndex, iter := g.nextPass, src := .graph } 4 6 with
        | (s, false) => (s, false)
        | (s, true) => (s.modPart p (fun q => q.modList t GraphList.enter)).fillWindow p t circuits region offset n

/-- PICKER_DISPATCH: the window fills, its faults are judged, and the first ready instance that can be handled is (R130 to R136). -/
def execPickerDispatch (t : TileId) (s : State) : Out :=
  .next (
    let p := partOfTile t
    let tt := tileInPart t
    if (s.part p).st != .run || s.inHold (.tile t) then s
    else
      match s.jobOf p, (s.part p).list? tt with
      | some j, some g0 =>
        if g0.ended || g0.arrived.isSome || j.phase != .run then s
        else
          let (region, offset) := match j.image.graphTargets.find? (fun d => d.1 == (s.part p).jobPart) with
            | some (_, r, o, _) => (r, o)
            | none => (0, 0)
          match s.fillWindow p tt j.circuits region offset 128 with
          | (s, false) => s
          | (s, true) =>
            match (s.part p).list? tt with
            | none => s
            | some g =>
              match g.window with
              | [] => s.listEnd p tt
              | _ =>
                match s.pickFrom p j g [] g.window with
                | none => s.settle p
                | some t =>
                  match (if (t.part p).st == .run then t.fillWindow p tt j.circuits region offset 128 else (t, true)) with
                  | (t, false) => t
                  | (t, true) => (t.listEnd p tt).settle p
      | _, _ => s)

/-! Completion and time-out. -/

/-- COMMAND_COMPLETE: the running command of an engine consumes its waited entries and pushes its posts; a post into a full queue faults
the job (R68, R90, log 47). -/
def execCommandComplete (t : TileId) (e : EngineKind) (s : State) : Out :=
  .next (
    let p := partOfTile t
    let g := (s.part p).engine (tileInPart t) e
    match g.running with
    | none => s
    | some r =>
      let i := r.cmd
      if s.inHold (.tile t) || (s.part p).st != .run then s
      else
        let s := s.modPart p (fun q => q.setEngine { g with running := none })
        (s.retire p i (fun id n => mkEntry r.payload id n (i.src8 p)) (engNo e)).settle p)

/-- The command that stands at a place with a wait unmet, and ENGINE of its record (R91, R137). A stream command that an engine runs is still the
one at the front; a graph command that it runs stands in no stream queue (R134). -/
def State.waiting (s : State) (place : WaitPlace) : Option (PartId × Issued × Nat) :=
  let unmet := fun (p : PartId) (i : Issued) (n : Nat) =>
    if i.src == .graph then none
    else match s.waitsOf p i with
      | .unmet => some (p, i, n)
      | _ => none
  match place with
  | .engine t e =>
    let p := partOfTile t
    let g := (s.part p).engine (tileInPart t) e
    if g.running.any (fun r => r.cmd.src != .graph) then none else g.streamQ.head?.bind (fun i => unmet p i (engNo e))
  | .picker t =>
    let p := partOfTile t
    match (s.part p).list? (tileInPart t) with
    | some g =>
      if g.arrived.isSome then none
      else g.window.head?.bind (fun x => (g.descs[x.2]?).bind (fun c =>
        if s.instReady p g [] x c then none
        else some (p, { cmd := c, index := x.2, iter := x.1, src := .graph }, 4)))
    | none => none
  | .stream p k =>
    match ((s.part p).stream? k).map Stream.mode with
    | some (.control i) => unmet p i 3
    | _ => none
  | .binding lead n =>
    match s.jobOfLead lead with
    | some j => (j.bindings n).head?.bind (fun x => if x.skip.isSome then none else unmet x.part x.cmd 6)
    | none => none
  | .point p => (s.part p).pointQ.head?.bind (fun i => unmet p i 5)

/-- BATON_TIMEOUT: WAIT_LIMIT ms have passed at a place whose wait is unmet (R91, R137). -/
def execBatonTimeout (place : WaitPlace) (s : State) : Out :=
  .next (match s.waiting place with
    | none => s
    | some (p, i, n) =>
      match s.jobOf p with
      | some j =>
        if (s.part p).st == .run && j.image.waitLimit != 0 then s.partJobFault p Code.batonTimeout (i.loc p n) else s
      | none => s)

end Sys2Proof.Machine
end

