-- ==== Sys2Proof/Machine/Train.lean ====
section
/-! DEFINITION. Links between OFF and UP: presence, training stages, lanes and their sparing, the writes of ZL_CTRL (R193, R213
to R226, R233, R411). -/

namespace Sys2Proof.Machine

/-! Stages (Table 09-6). -/

/-- Enter LISTEN with the back-off reset. -/
def Link.listenFresh (k : Link) : Link :=
  { k with stage := .listen, fails := 0, waiting := false, absent := false, absentLogged := false }
/-- Where an enabled link goes when it may train, else OFF. -/
def State.listenOrOff (s : State) (l : LinkId) : State :=
  if (s.link l).enable && s.power.mainPg then s.modLink l Link.listenFresh
  else s.modLink l (fun k => { k with stage := .off, waiting := false, absent := false })
def State.idsValid (s : State) : Bool := s.topoValid && s.chipValid
/-- Reach IDENTIFY; without a valid topology and chip id the link enters MISWIRED, logged once per episode (R233). -/
def State.enterIdentify (s : State) (l : LinkId) : State :=
  if s.idsValid then s.modLink l (fun k => { k with stage := .identify, chipUnsetLogged := false })
  else
    let first := !(s.link l).chipUnsetLogged
    let s := s.modLink l (fun k => { k with stage := .miswired, chipUnsetLogged := true })
    if first then s.logs Code.chipIdUnset 0 (linkPlace l) else s
/-- Training ends in FAULT for a cause. -/
def State.trainFault (s : State) (l : LinkId) (code : W16) : State :=
  (s.modLink l (fun k => { k with stage := .fault })).logs code 0 (linkPlace l)

/-! Lanes. -/

def laneStateOf : LaneFault → LaneState
  | .openLane => .openLane
  | .short => .short
  | .noisy => .noisy
def LaneState.good : LaneState → Bool
  | .active | .spare => true
  | .openLane | .short | .noisy => false
def Lanes.good (k : Lanes) : List LaneIx := (List.finRange 18).filter (fun i => k.states[i].good)

/-- What ALIGN finds in a direction (R221): faults, inverted lanes, the transmitter lane of each; of two lanes that claim one
transmitter lane the weaker is marked NOISY, the higher numbered of two alike (log 57). -/
def Lanes.aligned (k : Lanes) (f : Vector LaneFound 18) : Lanes :=
  { k with
    states := Vector.ofFn (fun i : LaneIx => match f[i].fault with
      | some x => laneStateOf x
      | none => if (List.finRange 18).any (fun j => f[j].fault.isNone && f[j].txLane == f[i].txLane
        && (decide (f[i].level.toNat < f[j].level.toNat) || (f[i].level == f[j].level && decide (j.val < i.val)))) then .noisy else .spare)
    inverted := BitVec.ofNat 18 ((List.finRange 18).foldl (fun n i => n + b2n f[i].inverted * 2 ^ i.val) 0)
    carrier := Vector.ofFn (fun i : LaneIx => f[i].txLane)
    pendingSwap := []
    lastSwap := none
    swapped := 0
    errors := Vector.replicate 18 0 }
/-- TRAIN marks the noisy lanes, assigns the logical lanes in ascending order of the transmitter's lanes, and keeps the rest as
SPARE (R193). -/
def Lanes.trained (k : Lanes) (noisy : BitVec 18) : Lanes :=
  let st := Vector.ofFn (fun i : LaneIx => if k.states[i].good && bit noisy i.val then LaneState.noisy else k.states[i])
  let good := sortBy (fun a b => k.carrier[a].val ≤ k.carrier[b].val) ((List.finRange 18).filter (fun i => st[i].good))
  let use := good.take 16
  { k with
    states := Vector.ofFn (fun i : LaneIx => if use.contains i then LaneState.active else st[i])
    logical := Vector.ofFn (fun n : Fin 16 => use.getD n.val 0) }
/-- Lanes that are good in one state of a direction and marked in the next. -/
def Lanes.marked (k next : Lanes) : Nat := ((List.finRange 18).filter (fun i => k.states[i].good && !next.states[i].good)).length
/-- Log LANE_MARKED once per lane (R213, R221). -/
def State.logMarked (s : State) (l : LinkId) : Nat → State
  | 0 => s
  | n + 1 => (s.logs Code.laneMarked 0 (linkPlace l)).logMarked l n
def Lanes.enough (k : Lanes) : Bool := decide (16 ≤ k.good.length)

/-- Can a direction find a failure of a lane: a transmitter finds SHORT; a receiver OPEN, and NOISY where a lane in use has more corrected
bytes in the present period than its ZL_LANE_ERR_LIMIT, or 4 frames in a row had an uncorrectable codeword while every other lane's bytes were
good (R213). A spare, which carries no codeword, is NOISY by its training pattern at any time (DEDUCED, log 150). -/
def Link.finds (k : Link) (dir : LaneDir) (lane : LaneIx) (kind : LaneFault) : Bool :=
  match dir, kind with
  | .tx, .short => true
  | .rx, .openLane => true
  | .rx, .noisy => k.rx.states[lane] == .spare || decide (k.laneErrNow.toNat < k.rx.errors[lane]) || decide (4 ≤ k.uncorrRun[lane])
  | _, _ => false
/-- LANE_FAILURE: a lane of a link in operation is found OPEN, SHORT or NOISY (R213 to R215). -/
def execLaneFailure (l : LinkId) (dir : LaneDir) (lane : LaneIx) (kind : LaneFault) (s : State) : Out :=
  .next (
    let k := s.link l
    let d := match dir with
      | .tx => k.tx
      | .rx => k.rx
    let put := fun (s : State) (f : Lanes → Lanes) => s.modLink l (fun k => match dir with
      | .tx => { k with tx := f k.tx }
      | .rx => { k with rx := f k.rx })
    if !s.up l || !k.finds dir lane kind then s
    else
      match d.states[lane] with
      | .spare =>
        (put s (fun d => { d with states := vset d.states lane (laneStateOf kind) })).logs Code.laneMarked 0 (linkPlace l)
      | .active =>
        (match (List.finRange 16).find? (fun n => d.logical[n] == lane) with
         | none => s
         | some n =>
           match dir with
           | .tx => s.announceSwap l n kind
           | .rx =>
             if d.pendingSwap.any (fun x => x.lane == n) then s
             else if d.spares ≤ d.pendingSwap.length then s.linkDown l Code.lanesExhausted
             else put s (fun d => { d with pendingSwap := d.pendingSwap ++ [{ lane := n, kind := kind, at_ := none }] }))
      | _ => s)

/-- The spare that a direction takes: the transmitter's lowest, which a receiver knows by the markers of ALIGN (R214, R221). -/
def Lanes.nextSpare (d : Lanes) : Option LaneIx :=
  ((List.finRange 18).find? (fun t => (List.finRange 18).any (fun i => d.states[i] == .spare && d.carrier[i] == t))).bind (fun t =>
    (List.finRange 18).find? (fun i => d.states[i] == .spare && d.carrier[i] == t))
/-- Has a direction come to a swap's boundary t: the transmitter at its own count; the receiver at the frame sent at that count, one link delay
later in locked mode, and in free mode the next to arrive after the one before it (R167, R214)? -/
def State.swapReached (s : State) (l : LinkId) (dir : LaneDir) (t : Nat) : Bool :=
  match dir with
  | .tx => decide (t ≤ s.pace.count.toNat)
  | .rx => if s.locked l then decide (t + wholeBeats s.pace.grade (s.link l).delay ≤ s.pace.count.toNat) else decide (t ≤ (s.link l).heard + 1)
/-- LANE_SWAP: at SWAP_AT the logical lane moves to the lowest good spare; the next swap of the direction then gets its boundary (R214,
R215). -/
def execLaneSwap (l : LinkId) (dir : LaneDir) (s : State) : Out :=
  .next (
    let k := s.link l
    let d := match dir with
      | .tx => k.tx
      | .rx => k.rx
    match d.pendingSwap with
    | [] => s
    | x :: rest =>
      match x.at_ with
      | none => s
      | some t =>
        if !s.up l || !s.swapReached l dir t then s
        else
          match d.nextSpare with
          | none => s.linkDown l Code.lanesExhausted
          | some i =>
            let d2 : Lanes := { d with
              states := vset (vset d.states d.logical[x.lane] (laneStateOf x.kind)) i .active
              logical := vset d.logical x.lane i
              pendingSwap := match dir, rest with
                | .tx, y :: ys => { y with at_ := some (s.swapBoundary l) } :: ys
                | _, _ => rest
              lastSwap := some (x.lane, t)
              swapped := d.swapped + 1 }
            (s.modLink l (fun k => match dir with
              | .tx => { k with tx := d2 }
              | .rx => { k with rx := d2 })).logs Code.laneSpared 0 (linkPlace l))

/-! Events of training and of the far end. -/

/-- SIGNAL_LOST: the search that begins when three frames in a row have failed finds no frame (R196). -/
def execSignalLost (l : LinkId) (s : State) : Out :=
  .next (if s.up l && 3 ≤ (s.link l).badRun then s.linkDown l Code.signalLost else s)
/-- PARTNER_RESET (R216). -/
def execPartnerReset (l : LinkId) (s : State) : Out := .next (if s.up l then s.linkDown l Code.partnerReset else s)
/-- LINK_DOWN_COMPLETE: a link leaves DOWN (R216). -/
def execLinkDownComplete (l : LinkId) (s : State) : Out := .next (if (s.link l).stage == .down then s.listenOrOff l else s)

/-- PRESENCE_CHANGE: a debounced change of ZLn_PRSNT_L (R219, R224). -/
def execPresenceChange (l : LinkId) (present : Bool) (s : State) : Out :=
  .next (
    if (s.link l).present == present || s.landsCut then s
    else
      let s := s.modLink l (fun k => { k with present := present })
      match (s.link l).stage with
      | .off | .down => s
      | .up => if present then s else s.linkDown l Code.unplugged
      | .miswired => if present then s.enterIdentify l else s.listenOrOff l
      | .listen | .align | .identify | .train | .check | .fault => s.listenOrOff l)

/-- CABLE_ID_READ (R225). id is the 32 bytes read, none where the read failed. -/
def execCableIdRead (l : LinkId) (id : Option (BitVec 256)) (s : State) : Out :=
  .next (
    if (s.link l).stage != .listen || s.landsCut then s
    else
      match id with
      | none => s.logs Code.cableIdBad 0 (linkPlace l)
      | some v =>
        let s := s.modLink l (fun k => { k with cableId := v })
        if fld v 15 0 != 0x5A01 || 250 < fld v 31 16 then s.logs Code.cableIdBad 0 (linkPlace l) else s)

/-- WAKE_PATTERN_SEEN: LISTEN goes to ALIGN; a back-off wait ends (R219, R220). -/
def execWakePatternSeen (l : LinkId) (s : State) : Out :=
  .next (if (s.link l).stage == .listen then
      s.modLink l (fun k => { k with stage := .align, waiting := false, absent := false, absentLogged := false })
    else s)
/-- LISTEN_TIMEOUT: an attempt saw no wake pattern for 100 ms (R220). -/
def execListenTimeout (l : LinkId) (s : State) : Out :=
  .next (
    let k := s.link l
    if k.stage != .listen || k.waiting then s
    else
      let s := s.modLink l (fun k => { k with waiting := true, fails := k.fails + 1, absent := true, absentLogged := true })
      if k.absentLogged then s else s.logs Code.linkAbsent 0 (linkPlace l))
/-- LISTEN_BACKOFF_END: the wait is over, the next attempt begins (R220). -/
def execListenBackoffEnd (l : LinkId) (s : State) : Out :=
  .next (if (s.link l).stage == .listen then s.modLink l (fun k => { k with waiting := false }) else s)

/-- ALIGN_DONE: what ALIGN found on the lanes of both directions (R221). -/
def execAlignDone (l : LinkId) (tx rx : Vector LaneFound 18) (s : State) : Out :=
  .next (
    if (s.link l).stage != .align then s
    else
      let k := s.link l
      let start := fun (d : Lanes) => { d with states := Vector.replicate 18 .spare }
      let n := (start k.tx).marked (k.tx.aligned tx) + (start k.rx).marked (k.rx.aligned rx)
      let s := (s.modLink l (fun k => { k with tx := k.tx.aligned tx, rx := k.rx.aligned rx })).logMarked l n
      let k := s.link l
      if k.tx.enough && k.rx.enough then s.enterIdentify l else s.trainFault l Code.linkFault)

/-- IDENTIFY_DONE: the identity the partner sent (R222). -/
def execIdentifyDone (l : LinkId) (machine : W32) (chip : BitVec 13) (port : BitVec 3) (s : State) : Out :=
  .next (
    if (s.link l).stage != .identify then s
    else
      let seen : W64 := BitVec.ofNat 64 (machine.toNat * 2 ^ 32 + 2 ^ 31 + port.toNat * 2 ^ 16 + chip.toNat)
      let s := s.modLink l (fun k => { k with peerSeen := seen })
      let k := s.link l
      if !s.idsValid then s.enterIdentify l
      else if machine == s.mgt.machineId && bit k.peerExpect 31 && !k.conflict && fld k.peerExpect 18 16 == port.toNat
          && fld k.peerExpect 12 0 == chip.toNat then s.modLink l (fun k => { k with stage := .train })
      else (s.modLink l (fun k => { k with stage := .miswired })).hand Code.linkMiswired 0 (.count seen) (linkPlace l))

/-- TRAIN_DONE: the lanes above the error ratio are NOISY, the rest are assigned (R193, R219). -/
def execTrainDone (l : LinkId) (noisyTx noisyRx : BitVec 18) (s : State) : Out :=
  .next (
    if (s.link l).stage != .train then s
    else
      let k := s.link l
      let n := k.tx.marked (k.tx.trained noisyTx) + k.rx.marked (k.rx.trained noisyRx)
      let s := (s.modLink l (fun k => { k with tx := k.tx.trained noisyTx, rx := k.rx.trained noisyRx })).logMarked l n
      let k := s.link l
      if k.tx.enough && k.rx.enough then s.modLink l (fun k => { k with stage := .check }) else s.trainFault l Code.linkFault)

/-- A link enters UP: a new epoch, sequence numbers and credits from their start (R201, R204, R211, R212). -/
def Link.start (k : Link) (partner : Byte) : Link :=
  { k.dropped with
    stage := .up, epoch := k.epoch + 1, partnerEpoch := partner, nextSeq := 0, rrOut := 0, rrSeen := 0, expectSeq := 0,
    ackOut := 0xFFFF, accepted := 0xFFFF, sinceAck := 0, gap := 0, heard := 0, creditJob := 128, creditMgmt := 64, freedJob := 0,
    freedMgmt := 0, partnerFreedJob := 0, partnerFreedMgmt := 0 }

/-- CHECK_DONE: test frames, the measured delay in 1/256 ns and the partner's epoch (R212, R223); armed starts that use the link
send their digest cells. -/
def execCheckDone (l : LinkId) (framesGood : Bool) (delay : BitVec 16) (partnerEpoch : Byte) (s : State) : Out :=
  .next (
    if (s.link l).stage != .check then s
    else
      let s := s.modLink l (fun k => { k with delay := delay })
      if 200 * 256 < delay.toNat then s.trainFault l Code.delayLimit
      else if !framesGood then s.trainFault l Code.linkFault
      else
        let s := (s.modLink l (fun k => k.start partnerEpoch)).logs Code.linkUp 0 (linkPlace l)
        (s.jobs.filter (fun j => j.phase == .armed)).foldl (fun s j => s.sendDigests j l) s)

/-- STAGE_TIMEOUT (R219). -/
def execStageTimeout (l : LinkId) (s : State) : Out :=
  .next (match (s.link l).stage with
    | .align | .identify | .train | .check =>
      (s.modLink l (fun k => { k with stage := .listen, waiting := false })).logs Code.stageTimeout 0 (linkPlace l)
    | _ => s)

/-! Writes of ZL_CTRL (R411). -/

/-- RESET: the link goes down with LINK_RESET and trains again; ignored in OFF. -/
def State.linkReset (s : State) (l : LinkId) : State :=
  match (s.link l).stage with
  | .off | .down => s
  | _ => s.linkDown l Code.linkReset
def execLinkReset (l : LinkId) (s : State) : Out := s.overHost (·.linkReset l)
/-- RETRAIN: a link in FAULT or MISWIRED returns to LISTEN. -/
def State.retrain (s : State) (l : LinkId) : State :=
  match (s.link l).stage with
  | .fault | .miswired => s.listenOrOff l
  | _ => s
def execRetrain (l : LinkId) (s : State) : Out := s.overHost (·.retrain l)
/-- ENABLE. -/
def State.linkEnable (s : State) (l : LinkId) (enable : Bool) : State :=
  let s1 := s.modLink l (fun k => { k with enable := enable })
  match (s.link l).stage, enable with
  | .off, true => s1.listenOrOff l
  | .off, false => s1
  | .down, _ => s1
  | _, true => s1
  | _, false => s1.linkDown l Code.linkReset
def execZlCtrlEnable (l : LinkId) (enable : Bool) (s : State) : Out := s.overHost (·.linkEnable l enable)

end Sys2Proof.Machine
end

