-- ==== Sys2Proof/Machine/Reset.lean ====
section
/-! DEFINITION. Resets of units, of the Management Complex and of the package while its power stays (R353 to R358, R405,
Table 15-4, Table 15-5). -/

namespace Sys2Proof.Machine

/-! Units (R353 to R356). -/

/-- A class 3 fault whose cause stands in the log with the job's VF. -/
def State.jobReset (s : State) (j : Job) (code : W16) : State :=
  if j.phase == .faulted then s else (s.logs code j.fn.val).jobFaultQuiet j.id code
def unitDie : UnitId → DieId
  | .tile t => finOf 4 (t.val / 64)
  | .sequencer d => d
  | .pointEngine d => d
  | .managementComplex => 0
/-- A unit enters HOLD: the structures that the Management Complex uses in it lie in the recovery reserve of its die (Table 03-1), whose
words are read. -/
def State.enterHold (s : State) (u : UnitId) : State :=
  let s := s.useRecovery (unitDie u)
  { s with units := { s.units with hold := u :: s.units.hold } }
def dieParts (d : DieId) : List PartId := [finOf 8 (2 * d.val), finOf 8 (2 * d.val + 1)]

/-- A tile resets: its partition's job faults when it is in RUN; the plot is kept. -/
def State.resetTile (s : State) (t : TileId) : State :=
  let p := partOfTile t
  let s := s.enterHold (.tile t)
  match s.jobOf p with
  | some j => if (s.part p).st == .run then s.jobReset j Code.tileReset else s
  | none => s

/-- A Sequencer core resets: the jobs of which a partition of its die is in RUN with streams of its STREAM section fault. -/
def State.resetSequencer (s : State) (d : DieId) : State :=
  (dieParts d).foldl (fun s p => match s.jobOf p with
    | some j => if (s.part p).st == .run && !(s.part p).streams.isEmpty then s.jobReset j Code.sequencerReset else s
    | none => s) (s.enterHold (.sequencer d))

/-- A Point Engine resets: its FRAMEs post void, jobs go on. -/
def State.resetPe (s : State) (d : DieId) : State :=
  ((dieParts d).foldl (fun s p => (s.voidFrames p (s.part p).pointQ.length).settle p) (s.enterHold (.pointEngine d))).logs Code.peReset 0 (d.val * 8)

/-! The Management Complex (Table 15-4, R358). -/

/-- Is the window descriptor one that the Management Complex serves and has not finished? -/
def WinOp.ofMc (o : WinOp) : Bool :=
  o.desc.opcode != Op.transfer && (match o.phase with | .close .. => false | _ => true)
/-- Descriptors that the Management Complex has taken up and not completed; those that wait in its queue are not (Table 15-4). -/
def State.mcOpen (s : State) : List Desc :=
  let ops := (s.hiu.winOps.filter (·.ofMc)).map (·.desc)
  let taken := s.mgt.task.toList.map (·.desc) ++ s.mgt.loadHeld.toList ++ s.mgt.unloads.map (·.desc) ++ s.infield.requests.filterMap (·.owner.desc?)
    ++ s.jobs.filterMap (·.startDesc)
  ops ++ taken.filter (fun d => !ops.contains d)
/-- A request of ZSH that has not been taken up is answered with UNIT_RESET. -/
def State.zshUnitReset (s : State) : State :=
  let rs := s.svc.requests.filter (fun r => !r.taken)
  let s := s.modSvc (fun v => { v with requests := v.requests.filter (·.taken) })
  rs.foldl (fun s r =>
    s.zshReply r (wordsToBytes (({ status := Status.unitReset, synthetic := true : Ans }.entry 0 0 none).words false 0)) []) s

/-- A reset of the Management Complex answers the command of the I3C target that it serves or holds with UNIT_RESET (R355, R379). -/
def State.i3cUnitReset (s : State) : State :=
  if !s.side.i3cHeld.isEmpty || s.infield.requests.any (fun r => match r.owner with | .i3c _ => true | _ => false) then
    { s.modInfield (fun i => { i with requests := i.requests.filter (fun r => match r.owner with | .i3c _ => false | _ => true) }) with
      side := { s.side with i3cReply := [Status.unitReset], i3cHeld := [] } }
  else s
/-- The Management Complex resets: it enters HOLD, which HOLD_EXIT ends; a load in progress is refused, descriptors that it has taken up and
commands of the I3C target that it holds end with UNIT_RESET, log export ends; the jobs go on (R353, R355, R379). MC_RESET is logged after
the restart (Table 15-7). Of a PARK that it ends, the partitions that step 4 had not reached are zeroed all the same (DEDUCED, log 84). -/
def State.mcReset (s : State) : State :=
  let ds := s.mcOpen
  let s := match s.mgt.task with
    | some k => s.rezero k.parts
    | none => s
  let s := s.mgt.unloads.foldl (fun s t => if t.parked.isSome then
    t.left.foldl (fun s p => if (s.part p).zeroing then s else s.modPart p (·.leave .marks)) s else s) s
  let s := if s.inHold .managementComplex then s else s.enterHold .managementComplex
  let s := (s.modMgt (fun m => { m with task := none, loadHeld := none, unloads := [], restarting := true })).i3cUnitReset
  let s := s.modInfield (fun i =>
    { i with
      requests := i.requests.filter (fun r => match r.owner with | .putGet .. | .plot _ => true | _ => false) })
  let s := { s with jobs := s.jobs.map (fun j : Job => if j.startDesc.isSome then { j with startDesc := none, startDone := true } else j) }
  let s := ds.foldl (fun s d => s.complete d { status := Status.unitReset, synthetic := true }) s
  let s := s.zshUnitReset
  let s := s.modSvc (fun v =>
    { v with
      subscriber := none
      streams := v.streams.map (fun o : Option OutStream => o.map (fun t : OutStream =>
        if t.stop.isNone then { t with stop := some Status.unitReset } else t)) })
  s.fwAbandon

def State.resetUnit (s : State) (u : UnitId) : State :=
  match u with
  | .tile t => s.resetTile t
  | .sequencer d => s.resetSequencer d
  | .pointEngine d => s.resetPe d
  | .managementComplex => s.mcReset
/-- MGT_UNIT_RESET.GO: ignored with SETUP_REJECTED for a unit that is in HOLD (Table 15-5). -/
def State.unitResetGo (s : State) (u : UnitId) : State :=
  if !s.power.mainPg then s
  else if s.inHold u then s.setupRejected 0
  else s.resetUnit u

/-- TILE_RESET. -/
def execTileReset (t : TileId) (s : State) : Out := .next (s.unitResetGo (.tile t))
/-- SEQUENCER_RESET. -/
def execSequencerReset (d : DieId) (s : State) : Out := .next (s.unitResetGo (.sequencer d))
/-- PE_RESET. -/
def execPeReset (d : DieId) (s : State) : Out := .next (s.unitResetGo (.pointEngine d))

/-- What a stream could do now and has not done: a control command whose waits are met, a FENCE or HURDLE whose earlier commands have
completed, a command that it can issue. One that waits for batons, or for other commands, has not started (R354). -/
def State.streamStarted (s : State) (p : PartId) (k : Stream) : Option Loc :=
  match k.mode with
  | .ended | .arrived .. => none
  | .control c => match s.waitsOf p c with
    | .met _ => some (c.loc p 3)
    | _ => none
  | .fence c => if s.streamBusy p k.index then none else some (c.loc p 3)
  | .running => (s.canIssue p k.index).map (fun _ => { Loc.base 3 with part := p.val, command := some k.pos })
/-- The command that a unit has started and not completed, with the record that locates it; a command that waits for batons has not
started (R354). -/
def State.startedCommand (s : State) (u : UnitId) : Option (PartId × Loc) :=
  match u with
  | .tile t =>
    let p := partOfTile t
    [EngineKind.matrix, .vector, .mover].findSome? (fun e =>
      ((s.part p).engine (tileInPart t) e).running.map (fun r => (p, r.cmd.loc p (engNo e))))
  | .sequencer d =>
    (dieParts d).findSome? (fun p =>
      if (s.part p).st != .run then none
      else (s.part p).streams.findSome? (fun k => (s.streamStarted p k).map (fun r => (p, r))))
  | .pointEngine d =>
    (dieParts d).findSome? (fun p => (s.frameReady p).map (fun x => (p, x.2.1.loc p 5)))
  | .managementComplex => none
/-- UNIT_HUNG: a unit made no progress on a started command for MGT_HANG_LIMIT, and is reset. -/
def execUnitHung (u : UnitId) (s : State) : Out :=
  .next (
    if s.inHold u then s
    else
      match s.startedCommand u with
      | none => s
      | some (p, r) => (s.logAt Code.unitHung (s.vfOf p) r).resetUnit u)

/-- The epoch of a unit one higher (R356). -/
def Units.bump (x : Units) (u : UnitId) (e : Byte) : Units := { x with epochs := (u, e + 1) :: x.epochs.filter (·.1 != u) }
def State.bumpEpoch (s : State) (u : UnitId) : State :=
  match u with
  | .managementComplex => s.modMgt (fun m => { m with epoch := m.epoch + 1 })
  | _ => { s with units := s.units.bump u (s.unitEpoch u) }
/-- HOLD_EXIT: a unit is reset, its epoch increments, it leaves HOLD. -/
def execHoldExit (u : UnitId) (s : State) : Out :=
  .next (if !s.inHold u then s
    else
      let t := s.bumpEpoch u
      let t := { t with units := { t.units with hold := t.units.hold.filter (· != u) } }
      if u == .managementComplex && t.mgt.restarting then (t.modMgt (fun m => { m with restarting := false })).logs Code.mcReset else t)

/-! Resets of the Management Complex (Table 15-4). -/

/-- MC_RESET: MGT_RESET.MC. -/
def execMcReset (s : State) : Out := .next (if s.power.porReleased then s.mcReset else s)
/-- MC_WATCHDOG_EXPIRY: the management core's watchdog; the boot ROM has none of its own. -/
def execMcWatchdogExpiry (s : State) : Out := .next (if s.fwServes then s.mcReset else s)

/-! Package warm reset (Table 15-4, R405). -/

/-- A link's registers at reset but for what survives, the link training again when it is enabled. -/
def Link.warm (k : Link) : Link :=
  { Link.reset with
    enable := k.enable, present := k.present, peerExpect := k.peerExpect, conflict := k.conflict, epoch := k.epoch }
def allUnits : List UnitId :=
  (List.finRange 256).map UnitId.tile ++ (List.finRange 4).map UnitId.sequencer ++ (List.finRange 4).map UnitId.pointEngine
    ++ [.managementComplex]

/-- The pacer of a package that starts again; the clock references are outside it. -/
def Pacer.restart (p : Pacer) : Pacer :=
  { Pacer.reset with localref := p.localref, rackrefBack := p.rackrefBack, refsLost := p.refsLost }
/-- The host port as a reset of the package leaves it. -/
def State.hostReset (s : State) : State :=
  if s.hiu.port == .up then s.hostLost .detect else (s.functionReset 0).modHiu (fun h => { h with epoch := h.epoch + 1 })

/-- Every job of the package faults through a class 5 fault: the partitions that enter FAULTED by it are to be scrubbed first (R362). -/
def State.faultJobs (s : State) (code : W16) : State :=
  let t := (s.jobs.map (·.id)).foldl (fun s id => s.jobFaultQuiet id code) s
  { t with parts := Vector.ofFn (fun p : PartId =>
      if t.parts[p].st == .faulted && s.parts[p].st != .faulted then { t.parts[p] with scrubFirst := true } else t.parts[p]) }
/-- Every partition starts its zeroing on the way to MARKS; no job is left. -/
def State.zeroAll (s : State) : State :=
  { s with parts := s.parts.map (fun q : Partition => q.leave .marks), jobs := [] }

/-- What a warm reset leaves of the package's registers and units: every unit is in HOLD, which HOLD_EXIT ends (R353, R355). -/
def State.warmClear (s : State) : State :=
  { s with
    mgt := { Mgt.reset with
      machineId := s.mgt.machineId, topology := s.mgt.topology, chipId := s.mgt.chipId, keys := s.mgt.keys
      epoch := s.mgt.epoch, nextJob := s.mgt.nextJob }
    pace := s.pace.restart
    units := { s.units with hold := allUnits }
    seqTurn := Vector.replicate 4 0
    pe := Vector.replicate 4 { nextUpper := false, convolving := false, rejects := 0, frames := 0 }
    infield := Infield.reset
    boot := { s.boot with fwOffset := Boot.reset.fwOffset }
    hiu := { Hiu.reset with
      port := s.hiu.port, downEpisode := s.hiu.downEpisode, epoch := s.hiu.epoch, msix := s.hiu.msix }
    fns := Vector.replicate 33 Function.reset
    svc := { Svc.reset with
      ports := s.svc.ports.map (fun p : SvcPort => { SvcPort.reset with out := p.out }) } }

/-- WARM_RESET: MGT_RESET.WARM or the I3C warm reset. -/
def State.warmReset (s : State) : State :=
  let s := ((s.logs Code.warmReset).faultJobs Code.warmReset).i3cUnitReset.hostReset
  let s := allLinks.foldl (fun s l => if (s.link l).stage == .off then s else s.linkDrop l) s
  let s := s.zeroAll.warmClear
  allLinks.foldl (fun s l => (s.modLink l Link.warm).listenOrOff l) s
def execWarmReset (s : State) : Out := .next (if s.power.porReleased then s.warmReset else s)

end Sys2Proof.Machine
end

