-- ==== Sys2Proof/Machine/Power.lean ====
section
/-! DEFINITION. Power inputs, conversion, cold reset, sensors and the thermal trip (R17, R30, R353, R369 to R375, R382, R383,
R405). -/

namespace Sys2Proof.Machine

/-! Status bits of PWR_ALERT (Table 16-3). -/

def State.alert (s : State) (n : Nat) : State := s.modPower (fun p => { p with alertStatus := setBitTo p.alertStatus n true })

/-! Conversion stops (R17, R369, R405). -/

/-- The port without a host link: with PERST_L released it is in Detect, and trains while MAIN_PG is high (R372). -/
def Power.portStage (p : Power) : PortStage := if p.perst then .reset else .detect

/-- A link whose main domain has no power: its setup fields and epoch are kept. -/
def Link.powerOff (k : Link) : Link :=
  { k.warm with replayTimeout := k.replayTimeout, laneErrLimit := k.laneErrLimit, laneErrNow := k.laneErrLimit }
/-- The host port is gone at once: nothing more is written to the host for any function. -/
def State.cutHost (s : State) : State :=
  allFns.foldl (fun s f => (s.dropDescs f).modFn f (fun _ => Function.reset)) s
/-- A pacer whose package starts again with its setup fields. -/
def Pacer.powerOff (p : Pacer) : Pacer :=
  { p.restart with stretchClass := p.stretchClass, tightenClass := p.tightenClass, floor := p.floor }
/-- Status and counters of the main domain, and its units, start again; the Management Complex, in the standby domain, goes on. -/
def State.mainClear (s : State) : State :=
  { s with
    pace := s.pace.powerOff
    units :=
      { hold := s.units.hold.filter (· == .managementComplex)
        epochs := (allUnits.filter (· != .managementComplex)).map (fun u => (u, s.unitEpoch u + 1)) }
    seqTurn := Vector.replicate 4 0
    pe := Vector.replicate 4 { nextUpper := false, convolving := false, rejects := 0, frames := 0 }
    infield := { Infield.reset with cellTimeout := s.infield.cellTimeout } }

/-- Requests of the I3C target that are outstanding end with UNIT_RESET. -/
def State.endI3c (s : State) : State :=
  if s.infield.requests.any (fun r => match r.owner with | .i3c _ => true | _ => false) then
    { s with side := { s.side with i3cReply := [Status.unitReset] } }
  else s

/-- Conversion stops for a cause of class 5, which is logged and raises the alert: every job and partition faults, SRAM is lost and with
it what queues held, the links and the host port are lost (R17). -/
def State.mainStop (s : State) (code : W16) : State :=
  if !s.power.mainPg then s
  else
    let s := (s.logs code).alert 0
    let s := s.modPower (fun p => { p with mainPg := false, stopped := true, mainLow := false, powerStretch := false })
    let up := s.hiu.port == .up
    let s := (s.cutHost).faultAll code
    let s := allLinks.foldl (fun s l => if (s.link l).stage == .off then s else s.linkDrop l) s
    let s := { s with links := s.links.map Link.powerOff }
    let s := if up then s.hostLost s.power.portStage else (s.functionReset 0).modHiu (fun h => h.portLost s.power.portStage)
    let s := s.endI3c.mainClear
    let s := { s with parts := s.parts.map (fun q : Partition => { q with queues := [], pred := 0, configs := [], serials := [] }) }
    s.modSram (fun m => { m with mem := [], ecc := [], corrected := [], occasions := [] })

/-- MAIN_LOST: the main input below 36 V for 5 microseconds. -/
def execMainLost (s : State) : Out := .next (s.mainStop Code.mainLost)
/-- MAIN_OVERVOLT: above 62 V for 5 microseconds. -/
def execMainOvervolt (s : State) : Out := .next (s.mainStop Code.mainOvervolt)
/-- OVERCURRENT: above 75 A for 10 microseconds; conversion stays off until the bit is cleared. -/
def execOvercurrent (s : State) : Out :=
  .next (if s.power.mainPg then (s.modPower (fun p => { p with overcurrent := true })).mainStop Code.overcurrent else s)
/-- MAIN_DISABLED: PWR_CTRL.MAIN_EN written 0. -/
def State.mainDisable (s : State) : State := (s.modPower (fun p => { p with mainEn := false })).mainStop Code.mainDisabled
def execMainDisabled (s : State) : Out := .next (if s.power.porReleased then s.mainDisable else s)

/-- MAIN_LOW: the main input between 36 V and 40 V while converting, logged once per episode. -/
def execMainLow (s : State) : Out :=
  .next (if s.power.mainPg && !s.power.mainLow then (s.modPower (fun p => { p with mainLow := true })).logs Code.mainLow else s)
/-- MAIN_LOW_CLEAR: the main input is back at 40 V or more. -/
def execMainLowClear (s : State) : Out := .next (s.modPower (fun p => { p with mainLow := false }))

/-! Conversion starts (R61, R369, R372). -/

/-- MAIN_CONVERSION_START: the start conditions hold, MAIN_PG rises. -/
def execMainConversionStart (s : State) : Out :=
  .next (
    let p := s.power
    if !p.porReleased || p.mainPg || !p.mainEn || p.trip || p.overcurrent then s
    else
      let s := if p.stopped then s.logs Code.mainRestored else s
      let s := s.modPower (fun p => { p with mainPg := true, stopped := false })
      let s := (s.zeroAll).modHiu (fun h => { h with port := s.power.portStage, downEpisode := false })
      let s := allLinks.foldl (fun s l => s.listenOrOff l) s
      s.modPace (fun q => { q with count := 0 }))

/-! Cold reset and the standby input (R353, R370, R378). -/

/-- What no reset of the package reaches: the queue of commands, host memory, the boot flash, the cable presence inputs, the count of
free values. -/
def State.outside (s : State) : State :=
  { State.reset with
    pending := s.pending, host := s.host, fresh := s.fresh
    boot := { Boot.reset with flash := s.boot.flash }
    links := s.links.map (fun k : Link => { Link.reset with present := k.present })
    power := { Power.reset with perst := s.power.perst }
    hiu := { Hiu.reset with port := s.power.portStage } }
/-- The standby domain starts: COLD_RESET is the first entry of the log, and the boot ROM runs. -/
def State.coldStart (s : State) : State := (s.modBoot (fun b => { b with mode := .rom })).logs Code.coldReset

/-- STANDBY_POR_RELEASE: the straps are sampled and the standby domain starts. -/
def execStandbyPorRelease (strap : BitVec 3) (s : State) : Out :=
  .next (if s.power.porReleased then s
    else (s.outside.modPower (fun p => { p with porReleased := true, strap := strap })).coldStart)

/-- COLD_RESET: MGT_RESET.COLD or the I3C cold reset. The inputs are as they were, TRIP among them (R383); SRAM is zeroed when its
rails are up. -/
def State.coldReset (s : State) : State :=
  let p := s.power
  let t := s.outside
  ({ t with
    power := { t.power with
      porReleased := true, mainPg := p.mainPg, stopped := p.stopped, trip := p.trip, thermtrip := p.thermtrip, vin := p.vin
      powerW := p.powerW, vstby := p.vstby, strap := p.strap, stbyEpisode := p.stbyEpisode }
    clock := { Clock.reset with fallback := s.clock.fallback }
    pace := s.pace.restart
    parts := s.parts.map (fun q : Partition => { Partition.reset with zeroing := p.mainPg, left := q.shown })
    hiu := { Hiu.reset with port := p.portStage }
    side := { Side.reset with jtag := s.side.jtag } : State }).coldStart
def execColdReset (s : State) : Out := .next (if s.power.porReleased then s.coldReset else s)

/-- STANDBY_FAIL: below 2.9 V for 1 microsecond or above 3.8 V: all state is lost. -/
def execStandbyFail (s : State) : Out := .next (if s.power.porReleased then s.outside else s)

/-- STBY_OUT_OF_RANGE: the standby input, in millivolts, where the package runs outside the operating range; logged once per episode,
which a value inside the operating range ends. -/
def execStbyOutOfRange (mv : BitVec 13) (s : State) : Out :=
  .next (
    let v := mv.toNat
    if !s.power.porReleased then s
    else if (3000 ≤ v && v < 3135) || (3465 < v && v ≤ 3800) then
      (if s.power.stbyEpisode then s else (s.modPower (fun p => { p with stbyEpisode := true })).logs Code.stbyOutOfRange)
    else if 3135 ≤ v && v ≤ 3465 then s.modPower (fun p => { p with stbyEpisode := false })
    else s)

/-! Sensors and the trip (R30, R382, R383). -/

/-- One sample of a sensor, in 1/8 degree; true when it fails now. -/
def Sensor.take (q : Sensor) (v : BitVec 16) : Sensor × Bool :=
  let x := v.toInt
  if q.failed then (q, false)
  else if x < -320 || 1200 < x || (q.sampled && 160 < (x - q.last.toInt).natAbs) then ({ q with failed := true, hot := false }, true)
  else ({ q with last := v, sampled := true, hot := decide (960 ≤ x) }, false)
/-- A good sensor that reads at least a value in 1/8 degree. -/
def Sensor.atLeast (q : Sensor) (x : Int) : Bool := !q.failed && q.sampled && decide (x ≤ q.last.toInt)
/-- Good sensors of a die. -/
def Power.goodOn (p : Power) (d : DieId) : Nat := ((p.sensors.toList.drop (16 * d.val)).take 16).countP (fun q => !q.failed)

/-- A die with fewer than 8 good sensors counts as reading 105 degrees; logged once per episode. -/
def State.checkDegraded (s : State) : State :=
  (List.finRange 4).foldl (fun s d =>
    let low := decide (s.power.goodOn d < 8)
    let was := s.power.degraded[d]
    let s := s.modPower (fun p => { p with degraded := vset p.degraded d low })
    if low && !was then s.logs Code.sensorsDegraded else s) s

/-- The thermal flag and the class 0 reports of R30. -/
def State.checkThermal (s : State) : State :=
  let p := s.power
  let deg := p.degraded.toList.any id
  let any := fun (x : Int) => p.sensors.toList.any (fun q => q.atLeast x)
  let flag := deg || any 800
  let episode := if deg || any 840 then true else if flag then p.thermalEpisode else false
  let s := s.modPower (fun p => { p with thermal := flag, thermalEpisode := episode })
  let s := if flag && !p.thermal then s.alert 1 else s
  if episode && !p.thermalEpisode then s.logs Code.thermalStretch else s

/-- The trip comparator: conversion stops, TRIP and THERMTRIP_L are set, the trip is logged (R383). -/
def State.tripNow (s : State) : State :=
  if s.power.trip then s
  else
    let s := s.modPower (fun p => { p with trip := true, thermtrip := true })
    if s.power.mainPg then s.mainStop Code.thermalTrip else (s.logs Code.thermalTrip).alert 0

/-- SENSOR_SAMPLE: the 64 readings of one sampling instant, and the inputs as PWR_INPUT shows them. -/
def execSensorSample (readings : Vector (BitVec 16) 64) (vin power : BitVec 12) (vstby : BitVec 8) (s : State) : Out :=
  .next (
    if !s.power.porReleased then s
    else
      let old := s.power.sensors
      let new := Vector.ofFn (fun i : Fin 64 => (old[i].take readings[i]).1)
      let trip := (List.finRange 64).any (fun i => old[i].hot && new[i].hot)
      let failed := (List.finRange 64).filter (fun i => (old[i].take readings[i]).2)
      let s := s.modPower (fun p =>
        { p with
          sensors := new, vin := vin, powerW := power, vstby := vstby
          peakPower := if p.peakPower.toNat < power.toNat then power else p.peakPower })
      let s := failed.foldl (fun s _ => s.logs Code.sensorFailed) s
      let s := s.checkDegraded.checkThermal
      if trip then s.tripNow else s)

/-- TRIP_CLEAR: a write of 1 to PWR_STATUS.TRIP; ignored while a good sensor reads 90 degrees or more. -/
def State.tripClear (s : State) : State :=
  if s.power.sensors.toList.any (fun q => q.atLeast 720) then s
  else s.modPower (fun p => { p with trip := false, thermtrip := false })
def execTripClear (s : State) : Out := .next (if s.power.porReleased then s.tripClear else s)

end Sys2Proof.Machine
end

