-- ==== Sys2Proof/Machine/Hurdle.lean ====
section
/-! DEFINITION. Hurdles of a job (R121, R122, R185, R291, R293) and the completion of a job (R86). -/

namespace Sys2Proof.Machine

/-! Reaching a hurdle. -/

/-- REL_GEN transfers that land by the active plan. -/
def Job.relGenXfers (j : Job) : List W16 :=
  match j.activePlan with
  | some p => p.sets.flatMap (fun k => if k.rx then (k.xfers.filter Transfer.relGen).map Transfer.number else [])
  | none => []
/-- Transfers that are not clean at a hurdle: an arm count not 0, or a REL_GEN occurrence count not a multiple of 16 (R185). -/
def Job.uncleanXfers (j : Job) : List W16 :=
  (j.xfers.filter (fun x => x.arms != 0)).map (·.transfer) ++ j.relGenXfers.filter (fun t => j.occTotal true t % 16 != 0)
/-- The first of them: the one with the lowest number (log 63). -/
def Job.unclean (j : Job) : Option W16 := (sortBy (fun a b => a.toNat ≤ b.toNat) j.uncleanXfers).head?
/-- The record gives the transfer by the link, region and offset where it lands (log 63). -/
def State.xferLoc (s : State) (j : Job) (t : W16) : Loc :=
  match j.setOf true t with
  | none => { Loc.base 6 with part := j.lead.val }
  | some k =>
    let link := if k.isRing then 6 else k.link.toNat
    match k.xfers.find? (fun x => x.number == t) with
    | none => { Loc.base 6 with part := j.lead.val, link := link }
    | some x =>
      let p := (j.phys x.part).getD j.lead
      { Loc.base 6 with
        part := p.val, link := link, region := some x.region
        address := ((s.part p).mapA.bind (fun m => m.entry? x.region)).map (fun e => ((meStart e + x.offset : Nat) : Int)) }

/-- Has every stream and list of a partition arrived at a declaration? -/
def Partition.allArrived (q : Partition) (d : HurdleDecl) : Bool :=
  q.streams.all (fun k => match k.mode with
    | .arrived _ e => e == d
    | _ => false)
  && q.lists.all (fun g => match g.arrived with
    | some (_, _, e) => e == d
    | none => false)
/-- Has the lap sequence paused, with no deferred send or replay of the job pending and every frame of it acknowledged (R121, R210)? -/
def State.pausedClean (s : State) (j : Job) : Bool :=
  match j.image.plan with
  | none => true
  | some _ =>
    (match j.lap with
     | some l => l.paused
     | none => false)
    && !s.sendsPending j && s.acknowledged j

/-- HURDLE_REACHED. -/
def execHurdleReached (lead : PartId) (s : State) : Out :=
  .next (match s.jobOfLead lead with
    | none => s
    | some j =>
      match j.image.hurdles[j.nextHurdle]? with
      | none => s
      | some d =>
        if j.phase != .run || j.hurdle.isSome || !s.pausedClean j || !j.parts.all (fun p => (s.part p).allArrived d) then s
        else
          match j.unclean with
          | some t => s.jobFault j.id Code.hurdleUnclean (s.xferLoc j t)
          | none =>
            let s := (s.modJob j.id (fun j => { j with hurdle := some d })).logs Code.hurdleReached j.fn.val
            s.jobEvent j 2
              { status := Status.success, detail0 := s.pace.count
                detail1 := BitVec.ofNat 64 (d.id.toNat * 2 ^ 48 + d.iteration % 2 ^ 32) })

/-! Release and stop (R122, R291). -/

/-- Fields of HURDLE (Table 12-8). -/
def Desc.hurdleOk (d : Desc) : Bool :=
  d.word0Ok && d.zeros [1, 4, 5, 6, 7] && fld (d.word 2) 63 9 == 0 && fld (d.word 2) 7 3 == 0
  && (!(bit (d.word 2) 8) || d.word 3 == 0)
/-- Take a HURDLE descriptor of an ACTION, through its checks up to the job that stands at its hurdle. -/
def State.hurdleDesc (s : State) (stop : Bool) (act : Desc → Job → State → State) : State :=
  match s.takeRe Op.hurdle with
  | none => s
  | some (d, t) =>
    if bit (d.word 2) 8 != stop then s
    else if !d.hurdleOk then t.done d Status.badDescriptor
    else if !t.vfAllowed d [d.lead] then t.complete d { status := Status.notPermitted }
    else
      match t.leadJob d.lead .run with
      | none => t.conflict d
      | some j => if t.atHurdle j && j.resumeCount.isNone then act d j t else t.conflict d

/-- HURDLE_RELEASE: a HURDLE descriptor with ACTION 0. -/
def execHurdleRelease (s : State) : Out :=
  .next (s.hurdleDesc false (fun d j t =>
    let n := (d.word 3).toNat
    if n < t.pace.count.toNat + leadBeats then t.startRefused d Code.startTooSoon
    else
      ((t.modJob j.id (fun j => { j with resumeCount := some n })).stopStreams j.lead Status.streamAborted).complete d
        { status := Status.success }))

/-- HURDLE_STOP: a HURDLE descriptor with ACTION 1 ends the job at the hurdle. -/
def execHurdleStop (s : State) : Out :=
  .next (s.hurdleDesc true (fun d j t =>
    ((t.stopStreams j.lead Status.streamAborted).complete d { status := Status.success }).endJob j))

/-- Every arrived stream and list of a partition goes on after its HURDLE. -/
def State.releasePart (s : State) (p : PartId) : State :=
  let q := s.part p
  let s := q.streams.foldl (fun s k => match k.mode with
    | .arrived i _ => s.controlDone p k.index i
    | _ => s) s
  let s := q.lists.foldl (fun s g => match g.arrived, g.arrived.bind (fun x => g.descs[x.2.1]?) with
    | some (pass, n, _), some c =>
      let i : Issued := { cmd := c, index := n, iter := pass, src := .graph }
      (s.modPart p (fun q => q.modList g.tile (fun g => { g with arrived := none }))).retire p i
        (fun id gen => mkEntry 0 id gen (i.src8 p)) 4
    | _, _ => s) s
  s.settle p

/-- The lap sequence resumes with an entry at a count (R122); no lap lies before it. -/
def LapState.resumeAt (l : LapState) (c entry table length : Nat) : LapState :=
  { l.begin c entry 0 l.lapsRun table length false with paused := false, prevStart := c, met := c, prevHeld := false }
/-- A job continues after its hurdle. -/
def State.releaseJob (s : State) (j : Job) (d : HurdleDecl) (c : Nat) : State :=
  let s := s.modJob j.id (fun j =>
    { j with
      hurdle := none, resumeCount := none, nextHurdle := j.nextHurdle + 1
      lap := match j.image.plan, j.activePlan, j.lap with
        | some k, some p, some l =>
          let t := p.tableAt d.seqEntry
          some (l.resumeAt c d.seqEntry t (Nat.max 1 (k.len t)))
        | _, _, l => l })
  j.parts.foldl (fun s p => s.releasePart p) s

/-- HURDLE_RESUME: the beat that begins RESUME_COUNT. -/
def execHurdleResume (lead : PartId) (s : State) : Out :=
  .next (match s.jobOfLead lead with
    | none => s
    | some j =>
      match j.hurdle, j.resumeCount with
      | some d, some n => if j.phase != .run || s.pace.count.toNat < n then s else s.releaseJob j d n
      | _, _ => s)

/-! The completion of a job (R86, R129). -/

/-- Nothing of a partition's commands is left to issue or to complete. -/
def State.partDone (s : State) (p : PartId) : Bool :=
  let q := s.part p
  q.streams.all (fun k => k.mode == .ended && !s.streamBusy p k.index) && q.lists.all (·.ended)
  && q.engines.all (fun g => g.running.isNone && g.streamQ.isEmpty && g.graphQ.isEmpty) && q.pointQ.isEmpty
/-- Is every command of the job complete, has its lap sequence ended, and is every frame that it sent acknowledged (R86, R210)? -/
def State.jobDone (s : State) (j : Job) : Bool :=
  j.phase == .run && (j.image.plan.isNone || j.lapEnded) && s.acknowledged j && j.sends.isEmpty && j.bindQ.all (fun b => b.2.isEmpty)
  && j.parts.all s.partDone

/-- JOB_COMPLETION. -/
def execJobCompletion (lead : PartId) (s : State) : Out :=
  .next (match s.jobOfLead lead with
    | none => s
    | some j => if s.jobDone j then s.endJob j else s)

/-! END (R96, R170). -/

def Desc.endOk (d : Desc) : Bool := d.word0Ok && d.zeros [1, 4, 5, 6, 7] && fld (d.word 2) 63 3 == 0

/-- An unbounded list takes no instance past the highest pass already dispatched or skipped (R129). Where nothing of it has been dispatched or
skipped yet, that is the pass the list began in (DESIGN CHOICE, log 138). -/
def GraphList.lastAt (g : GraphList) : GraphList :=
  if g.lastPass.isSome then g
  else { g with lastPass := some g.maxPass, window := g.window.filter (fun x : Nat × Nat => decide (x.1 ≤ g.maxPass)) }
/-- The end descriptor of a job is accepted: its lists learn their last pass (R96, R129, R170). -/
def State.recordEnd (s : State) (j : Job) (n : Nat) : State :=
  let s := s.modJob j.id (fun j => { j with endCount := some n })
  if j.circuits != 0 then s
  else
    j.parts.foldl (fun s p =>
      let s := s.modPart p (fun q => { q with lists := q.lists.map GraphList.lastAt })
      ((s.part p).lists.foldl (fun s g => s.listEnd p g.tile) s).settle p) s
/-- END_DESCRIPTOR: an END descriptor is taken and its END_COUNT recorded. -/
def execEndDescriptor (s : State) : Out :=
  .next (match s.takeRe Op.endD with
    | none => s
    | some (d, t) =>
      if !d.endOk then t.done d Status.badDescriptor
      else if !t.vfAllowed d [d.lead] then t.complete d { status := Status.notPermitted }
      else
        match t.leadJob d.lead .run with
        | none => t.conflict d
        | some j =>
          let n := (d.word 3).toNat
          if n < t.pace.count.toNat + leadBeats then t.complete d { status := Status.countTooSoon }
          else
            (t.recordEnd j n).complete d { status := Status.success })

end Sys2Proof.Machine
end

