-- ==== Sys2Proof/Machine/Park.lean ====
section
/-! DEFINITION. PARK (R395 to R397) and the copies between a park partition and the partitions of its job (R74, R396, R400). -/

namespace Sys2Proof.Machine

/-! Copies. -/

/-- Bytes [a, a + n) of a storage, moved to b. -/
def Mem.moved (m : Bytes) (a n b : Nat) : Bytes :=
  (m.filter (fun x : Nat × Byte => decide (a ≤ x.1) && decide (x.1 < a + n))).map (fun x => (x.1 - a + b, x.2))
/-- Copy n bytes of the plots; false when a word of the source cannot be delivered (Table 03-2), and then nothing is copied. -/
def State.copyRange (s : State) (a b n : Nat) : State × Bool :=
  let ws := sortBy (· ≤ ·) ((s.sram.ecc.map (·.1)).filter (fun w => decide (a ≤ w * 16) && decide (w * 16 < a + n)))
  match s.meetWords (Loc.base 10) ws with
  | (s, false) => (s, false)
  | (s, true) =>
    ((s.zeroRange b (b + n)).modSram (fun r => { r with mem := Mem.writeAll r.mem (Mem.moved s.sram.mem a n b) }), true)

/-- A park map at a package offset; none when a word of it cannot be delivered. -/
def State.readParkAt (s : State) (a : Nat) : State × Option (List W64) :=
  match s.fetchBytes a 8 (Loc.base 10) with
  | (s, none) => (s, none)
  | (s, some head) =>
    match s.fetchBytes a (8 + 8 * parkCount head) (Loc.base 10) with
    | (s, none) => (s, none)
    | (s, some bs) => (s, some (parkEntries bs))
/-- The park map of a job, read from its PARK_MAP region in the park partition. -/
def State.readPark (s : State) (j : Job) (park : PartId) : State × Option (List W64) :=
  match (regionsOf j.image.maps Purpose.parkMap).head? with
  | none => (s, some [])
  | some (_, _, e) => s.readParkAt (partBase park + meStart e)

/-- Move the regions of park map entries in order, to the park partition or back: the state, the bytes moved, whether every entry was. -/
def State.moveEntries (s : State) (j : Job) (park : PartId) (ps : List PartId) (back : Bool) : List W64 → Nat → State × Nat × Bool
  | [], n => (s, n, true)
  | w :: ws, n =>
    match pkSource j.image.maps w, ps[pkPart w]? with
    | some e, some p =>
      let home := partBase p + meStart e
      let away := partBase park + 4096 * pkPage w
      if p = park then s.moveEntries j park ps back ws n
      else
        match (if back then s.copyRange away home (meLen e) else s.copyRange home away (meLen e)) with
        | (s, true) => s.moveEntries j park ps back ws (n + meLen e)
        | (s, false) => (s, n, false)
    | _, _ => s.moveEntries j park ps back ws n

/-! PARK. -/

/-- The control state of a partition (R396, step 1). A queue whose region the park map does not list loses its contents (R400). -/
def Partition.saved (q : Partition) (ws : List W64) : SavedPart :=
  let listed := fun (r : Nat) => ws.any (fun w => pkPart w == q.jobPart && pkRegion w == r)
  { jobPart := q.jobPart, pred := q.pred
    queues := q.queues.map (fun k : Queue => if listed k.region then k else { k with entries := k.entries.map (fun _ => 0) })
    streams := q.streams, lists := q.lists, serials := q.serials }
/-- Occurrence counts of every transfer of the active plan (R171, R396). -/
def Job.occurrences (j : Job) : List (Bool × W16 × Nat) :=
  match j.activePlan with
  | none => []
  | some p =>
    ((p.sets.flatMap (fun k => k.xfers.map (fun x => (k.rx, x.number)))).dedup).map (fun x => (x.1, x.2, j.occTotal x.1 x.2))
/-- A region that the park map does not list is vacated. -/
def State.vacate (s : State) (j : Job) (park : PartId) (jp : Nat) (ws : List W64) : State :=
  match j.image.maps[jp]? with
  | none => s
  | some m =>
    (m.used.filter (fun e => mePurpose e.2 != Purpose.free && !ws.any (fun w => pkPart w == jp && pkRegion w == e.1))).foldl
      (fun s e => s.zeroRange (partBase park + meStart e.2) (partBase park + meStart e.2 + meLen e.2)) s

/-- The other partitions of a job that parks, in the order of step 4. -/
def Job.released (j : Job) (park : PartId) : List PartId := allParts.filter (fun p => j.parts.contains p && p != park)
/-- A partition that step 4 has not reached: it stays in RUN, with nothing left to run. -/
def Partition.unreached (q : Partition) : Partition := { q with engines := [], streams := [], lists := [], queues := [], pointQ := [] }
/-- Step 3, and step 4 begun: the park partition holds the PARKED map, the lowest of the others leaves the job and is zeroed, and the rest stay
in RUN until step 4 reaches them (R396). -/
def State.parkParts (s : State) (j : Job) (park : PartId) (m : AllocMap) : State :=
  { s.noteSlack with parts := Vector.ofFn (fun p : Fin 8 =>
      let q := s.parts[p]
      if q.job != some j.id then q
      else if p == park then
        { q with
          st := .parked, mapA := some m, mapB := some m, mapGold := some m, engines := [], streams := [], lists := [], queues := [],
          pointQ := [] }
      else if (j.released park).head? == some p then q.leave .marks
      else q.unreached) }

/-- Step 5 comes when the last partition of step 4 is in MARKS. -/
def State.awaitParked (s : State) (t : ResetTask) : State :=
  if t.left.isEmpty then s.taskDone t else s.modMgt (fun m => { m with unloads := m.unloads ++ [t] })
/-- An accepted PARK (R396). An error in a source region has faulted the job (R398). -/
def State.parkJob (s : State) (d : Desc) (j : Job) (jp : Nat) (park : PartId) : State :=
  let faulted := fun (s : State) =>
    s.complete d
      { status := Status.jobFaulted, fault := ((s.job? j.id).map (·.firstFault)).getD 0, synthetic := true }
  match s.readPark j park with
  | (s, none) => faulted s
  | (s, some ws) =>
    let saved := j.parts.map (fun p => (s.part p).saved ws)
    match s.moveEntries j park j.parts false ws 0 with
    | (s, _, false) => faulted s
    | (s, n, true) =>
      let s := s.vacate j park jp ws
      let s := s.parkParts j park (parkedMapOf j.image.maps jp ws)
      let s := (s.releaseLinks j.id).modJob j.id (fun j =>
        { j with
          phase := .parked, lead := park, parts := [park], saved := saved, savedPace := j.pace, occBase := j.occurrences, pace := none
          ringDeferred := [], ringSampled := [], ringLanding := [], sends := [], bindQ := [] })
      s.leaveDomain.awaitParked { desc := d, left := j.released park, parked := some (j.id, n) }

def Desc.parkFieldsOk (d : Desc) : Bool := d.word0Ok && d.zeros [1, 3, 4, 5, 6, 7] && fld (d.word 2) 63 3 == 0
/-- Is a channel 2 stream of the job active (R333)? -/
def State.streaming (s : State) (lead : PartId) : Bool :=
  s.svc.streams.toList.any (fun o => match o with
    | some t => t.lead == lead
    | none => false)

/-- PARK. -/
def execPark (s : State) : Out :=
  .next (match s.takeMc Op.park with
    | none => s
    | some (d, t) =>
      if !d.parkFieldsOk then t.done d Status.badDescriptor
      else if !t.vfAllowed d [d.lead] then t.complete d { status := Status.notPermitted }
      else
        match t.leadJob d.lead .run with
        | none => t.conflict d
        | some j =>
          match j.image.parkPart, j.image.parkPart.bind j.phys with
          | some jp, some park =>
            if t.atHurdle j && j.resumeCount.isNone && (match j.hurdle with | some h => h.parkable | none => false) && !t.streaming j.lead
            then t.parkJob d j jp park
            else t.conflict d
          | _, _ => t.conflict d)

end Sys2Proof.Machine
end

