-- ==== Sys2Proof/Machine/Start.lean ====
section
/-! DEFINITION. START and RESUME (R32, R33, R43, R179 to R184, R241, R400, R401) and JOB_START (R86, R184, R401). -/

namespace Sys2Proof.Machine

/-! The pace block (Table 02-3) and the other fields. -/

def Desc.pace (d : Desc) : PaceBlock :=
  let w := d.word 7
  let parent := fld w 39 36
  { hopDelay := fld w 63 56, treeDepth := fld w 55 48, pkgDepth := fld w 47 40
    parent := if parent = 0xF then none else some (finOf 6 parent)
    children := BitVec.ofNat 6 (fld w 31 26), startGrade := finOf 8 (fld w 23 20), jobIndex := BitVec.ofNat 8 (fld w 15 8)
    domainId := BitVec.ofNat 8 (fld w 7 0), startCount := (d.word 6).toNat }
def Desc.paceOk (d : Desc) : Bool :=
  let w := d.word 7
  fld w 35 32 == 0 && fld w 25 24 == 0 && fld w 19 16 == 0 && decide (fld w 63 56 ≤ 40) && decide (fld w 55 48 ≤ 32)
  && (decide (fld w 39 36 < 6) || fld w 39 36 == 0xF) && decide (fld w 23 20 < 8)
def Desc.planSel (d : Desc) : Nat := fld (d.word 2) 10 8
def Desc.eventCq (d : Desc) : RingIx := finOf 16 (fld (d.word 2) 15 12)
def Desc.fromHurdle (d : Desc) : Bool := bit (d.word 2) 11
/-- Fields that START and RESUME share. -/
def Desc.startFields (d : Desc) : Bool :=
  d.word0Ok && winOffsetOk (d.word 1) && d.paceOk && decide (d.planSel ≤ 6) && fld (d.word 2) 7 3 == 0 && d.word 5 == 0
def Desc.startOk (d : Desc) : Bool :=
  d.startFields && d.word 4 == 0 && fld (d.word 3) 47 32 == 0 && (d.fromHurdle || d.word 3 == 0)
/-- CIRCUITS and PRED_INIT of a RESUME are not used (R401), and a field that a descriptor does not use is Rsvd (R286, R3; DEDUCED,
log 175). -/
def Desc.resumeOk (d : Desc) : Bool :=
  d.startFields && fld (d.word 2) 63 16 == 0 && !d.fromHurdle && d.word 3 == 0 && fld (d.word 4) 63 32 == 0 && partMapOk (d.word 4)

/-! The rank table (R179). -/

def rankBytes : Nat := 16448
def readRanks (bs : List Byte) : RankTable :=
  { myRank := BitVec.ofNat 13 (leAt bs 0 2)
    entries := (List.range 8192).map (fun r =>
      let v := leAt bs (64 + 2 * r) 2
      if v.testBit 15 then some (BitVec.ofNat 13 v) else none) }
/-- Rsvd bits of the header and of every entry are zero. -/
def ranksForm (bs : List Byte) : Bool :=
  decide (leAt bs 0 2 < 2 ^ 13) && zeroAt bs 2 62
  && (List.range 8192).all (fun r => nbits (leAt bs (64 + 2 * r) 2) 14 13 == 0)
def RankTable.at_ (r : RankTable) (n : BitVec 13) : Option (BitVec 13) := (r.entries[n.toNat]?).join
def RankTable.chips (r : RankTable) : List (BitVec 13) := r.entries.filterMap id
def State.ranksOk (s : State) (j : Job) (bs : List Byte) : Bool :=
  let r := readRanks bs
  ranksForm bs && r.at_ r.myRank == some s.chip && distinct r.chips
  && j.linkSets.all (fun x =>
    let l : LinkId := finOf 6 x.2.link.toNat
    !s.up l || r.at_ x.2.peerRank == some (s.link l).peerChip)

/-! Slices (R240, R241, Table 10-4). -/

def sliceValid (v : W64) : Bool := bit v 63
def sliceTenant (v : W64) : Nat := fld v 61 56
/-- Does a chip id lie in a slice record? -/
def State.inSlice (s : State) (v : W64) (c : BitVec 13) : Bool :=
  let o : BitVec 13 := BitVec.ofNat 13 (fld v 12 0)
  let lies := fun (x x0 e d : Nat) => decide ((x + e - x0 % e) % e < d)
  lies (chipX c) (chipX o) s.ex (fld v 28 24) && lies (chipY c) (chipY o) s.ey (fld v 33 29) && lies (chipZ c) (chipZ o) s.ez (fld v 39 34)
/-- The slice record that admits a start, or the first chip id outside: of the tenant's first valid record, or this package where the
tenant has none (log 64). -/
def State.sliceOf (s : State) (f : FnId) (r : RankTable) : Except (BitVec 13) (Fin 8) :=
  let chips := s.chip :: r.chips
  let mine := (List.finRange 8).filter (fun n => sliceValid s.mgt.slices[n] && sliceTenant s.mgt.slices[n] == f.val)
  match mine.find? (fun n => chips.all (s.inSlice s.mgt.slices[n])) with
  | some n => .ok n
  | none =>
    .error (match mine with
      | [] => s.chip
      | n :: _ => (chips.find? (fun c => !s.inSlice s.mgt.slices[n] c)).getD s.chip)

/-! Pace checks (R32, R33, R43). -/

def PaceBlock.horizon (b : PaceBlock) : Nat := 64 + 2 * b.treeDepth * (8 + b.hopDelay)
def PaceBlock.links (b : PaceBlock) : List LinkId := allLinks.filter (fun l => b.parent == some l || bit b.children l.val)
/-- R33: the running values of the domain. -/
def Domain.agrees (d : Domain) (b : PaceBlock) : Bool :=
  d.id == b.domainId && d.treeDepth == b.treeDepth && d.pkgDepth == b.pkgDepth && d.parent == b.parent && d.children == b.children
  && d.hopDelay == b.hopDelay
/-- The cause that refuses a start, in the order of R32, R33, R43 (log 65). -/
def State.paceCheck (s : State) (j : Job) (b : PaceBlock) : Option W16 :=
  let soon := decide (b.startCount < s.pace.count.toNat + 12288)
  let short := fun (h : Nat) => match j.image.plan with
    | some k => k.lapLen.any (fun n => n != 0 && decide (n < 2 * h))
    | none => false
  match s.pace.domain with
  | none =>
    if b.links.any (fun l => !s.up l) then some Code.startTooSoon
    else if decide (b.startGrade < max (if b.parent.isNone then finOf 8 s.pace.floor.toNat else 0) j.image.minGrade) then some Code.startGradeBad
    else if soon then some Code.startTooSoon
    else if b.links.any (fun l => decide (b.hopDelay < delayG0 (s.link l).delay)) then some Code.hopDelayShort
    else if short b.horizon then some Code.lapBelow2H
    else none
  | some d =>
    if !d.agrees b || decide (s.pace.grade < j.image.minGrade) then some Code.paceMismatch
    else if soon then some Code.startTooSoon
    else if short d.horizon then some Code.lapBelow2H
    else none

/-! The checks of a start in order: plan and links (R181), rank table (R179), slice (R241), pace. -/

/-- Why a start is refused: status, fault code, and what is logged. -/
structure StartNo where
  status : Byte
  code : W16
  body : Option LogBody
  deriving DecidableEq, Repr

def State.startCheck (s : State) (j : Job) (f : FnId) (planSel : Nat) (hurdle : Option (Option HurdleDecl)) (ps : List PartId)
    (b : PaceBlock) (bs : List Byte) : Except StartNo (RankTable × Fin 8) :=
  let count : LogBody := .count s.pace.count
  let no := fun (st : Byte) (c : W16) => Except.error { status := st, code := c, body := some count }
  let plan := j.image.plan.bind (fun k => k.plan? planSel)
  let links := match plan with
    | some p => allLinks.filter p.usesLink
    | none => []
  let hops := match j.image.plan with
    | some k => ringHops j.image.maps ps k
    | none => []
  if (if j.image.plan.isSome then plan.isNone else planSel != 0) || hurdle == some none then no Status.planAbsent Code.planAbsent
  else if links.any (fun l => !s.up l) then .error { status := Status.linkAbsent, code := 0, body := none }
  else if links.any (s.linksTaken (some j.id)).contains || hops.any (s.hopsTaken (some j.id)).contains then
    no Status.linkBusy Code.linkBusy
  else if !s.ranksOk j bs then no Status.rankMismatch Code.rankMismatch
  else
    let r := readRanks bs
    match s.sliceOf f r with
    | .error c => .error { status := Status.startRefused, code := Code.sliceViolation, body := some (.count (BitVec.ofNat 64 c.toNat)) }
    | .ok n =>
      match s.paceCheck j b with
      | some c => no Status.startRefused c
      | none => .ok (r, n)

/-- A start that fails a check: logged, completed, its partitions as they were. -/
def State.startNo (s : State) (d : Desc) (x : StartNo) : State :=
  let s := match x.body with
    | some b => s.hand x.code d.fn.val b
    | none => s
  s.complete d { status := x.status, fault := x.code }

/-! Arming. -/

/-- A package that belongs to no domain takes the domain of the pace block, and its START_GRADE at START_COUNT (R32, Table 02-3). The master
keeps its own count, a follower adopts its parent's. The offset from the master is 0, of a follower until its parent's first mark (R37). -/
def State.joinDomain (s : State) (b : PaceBlock) : State :=
  if s.pace.domain.isSome then s
  else
    s.modPace (fun p =>
      let q : Pacer :=
        { p with
          domain := some { id := b.domainId, treeDepth := b.treeDepth, pkgDepth := b.pkgDepth, parent := b.parent, children := b.children,
                           hopDelay := b.hopDelay }
          adopted := b.parent.isNone, missedMarks := 0, offset := 0, holds := [], tightenSince := p.count.toNat }
      if b.startGrade = p.grade then q else q.announce b.startGrade b.startCount)
/-- The relay stations of the job's links hold the selected plan (R186). -/
def State.loadTables (s : State) (id : Nat) : State :=
  match (s.job? id).bind Job.activePlan with
  | none => s
  | some p =>
    { s with links := Vector.ofFn (fun l : Fin 6 =>
        let k := s.links[l]
        if k.owner == some id then { k with tableA := some (p.forLink l), tableB := some (p.forLink l) } else k) }
/-- A descriptor that has passed its checks no longer ends with its partition: its job completes it. -/
def State.unbound (s : State) (d : Desc) : State :=
  s.modHiu (fun h => { h with winOps := h.winOps.map (fun o : WinOp => if o.desc == d then { o with part := none } else o) })
/-- Arm a job for START_COUNT, send its digest cells, compare what has arrived (R182). Its descriptor stays open until then. -/
def State.armJob (s : State) (d : Desc) (id : Nat) (r : RankTable) (n : Fin 8) (resuming : Bool) : State :=
  let b := d.pace
  let s := s.modJob id (fun j =>
    { j with
      phase := .armed, origin := d.origin, tag := d.tag, eventCq := d.eventCq, startDone := false, startDesc := some d
      resuming := resuming, prior := if resuming then some (j.origin, j.tag, j.eventCq) else none, pace := some b
      planSel := d.planSel, ranks := some r, slices := n :: j.slices })
  let s := ((s.unbound d).joinDomain b).loadTables id
  match s.job? id with
  | none => s
  | some j => (j.planLinks.foldl (fun s l => s.sendDigests j l) s).compareDigests id

/-! START. -/

/-- The declaration that FROM_HURDLE names: none without it, some none where no declaration matches. -/
def Job.startHurdle (j : Job) (d : Desc) : Option (Option HurdleDecl) :=
  if d.fromHurdle then some ((j.declared (BitVec.ofNat 16 (fld (d.word 3) 63 48)) (fld (d.word 3) 31 0)).map (·.2)) else none
/-- The job of a START: in SET, not armed. -/
def State.startJob (s : State) (d : Desc) : Option Job := (s.leadJob d.lead .set).bind (fun j => if j.phase == .loaded then some j else none)
/-- A START whose rank table has been read. -/
def State.startWith (s : State) (d : Desc) (bs : List Byte) : State :=
  match s.startJob d with
  | none => s.conflict d
  | some j =>
    match s.startCheck j d.fn d.planSel (j.startHurdle d) j.parts d.pace bs with
    | .error x => s.startNo d x
    | .ok (r, n) =>
      let s := s.modJob j.id (fun x =>
        { x with
          circuits := fld (d.word 2) 63 32, predInit := BitVec.ofNat 16 (fld (d.word 2) 31 16), fromHurdle := (j.startHurdle d).join })
      s.armJob d j.id r n false

/-- Steps 4 to 9 of a descriptor that reads a rank table (R308). -/
def State.rankGo (s : State) (o : WinOp) (k : State → List Byte → State) : State :=
  match s.openHeader o with
  | .ended s => s
  | .opened s o =>
    match s.winTake o rankBytes with
    | (s, none) => s
    | (s, some bs) => k (s.setOp o { o with phase := .reply bs.length }) bs
def State.startGo (s : State) (o : WinOp) : State := s.rankGo o (fun s bs => s.startWith o.desc bs)

def State.cqOn (s : State) (d : Desc) : Bool := (s.fn d.fn).cqs[d.eventCq].enable
/-- START. -/
def execStart (s : State) : Out :=
  .next (match s.takeMc Op.start with
    | none => s
    | some (d, t) =>
      if !d.startOk then t.done d Status.badDescriptor
      else if !t.vfAllowed d [d.lead] then t.complete d { status := Status.notPermitted }
      else if (t.startJob d).isNone then t.conflict d
      else if !t.cqOn d then t.complete d { status := Status.cqInvalid }
      else
        let o := t.winOp d (some d.lead)
        let u := t.pushOp o
        if u.canClaim o then u.startGo o else u)

/-! RESUME (R400). -/

/-- The expansion partitions of a RESUME. -/
def Desc.expansion (d : Desc) : List PartId := (partMapParts (d.word 4)).filter (· != d.lead)
/-- The job of a RESUME: PARKED at LEAD, its PART_MAP of the job's size with the park JOB_PART at LEAD, the others in MARKS. -/
def State.resumeJob (s : State) (d : Desc) : Option Job :=
  match s.leadJob d.lead .parked with
  | none => none
  | some j =>
    let ps := partMapParts (d.word 4)
    if j.phase == .parked && partMapUsed (d.word 4) == List.range j.image.partCount && j.image.parkPart.bind (fun jp => ps[jp]?) == some d.lead
        && d.expansion.all (fun p => (s.part p).st == .marks && !(s.part p).zeroing)
    then some j else none
/-- Step 5: the control state of a JOB_PART. The serials of its configurations go on as they were at the PARK, though the partition enters SET
again (R152, R396; DESIGN CHOICE, log 180). -/
def Job.restore (j : Job) (jp : Nat) (q : Partition) : Partition :=
  match j.saved.find? (fun x => x.jobPart == jp) with
  | none => q
  | some x => { q with pred := x.pred, queues := x.queues, streams := x.streams, lists := x.lists, serials := x.serials }
/-- Steps 1 to 6 of an accepted RESUME. -/
def State.expand (s : State) (d : Desc) (j : Job) (r : RankTable) (n : Fin 8) : State :=
  let ps := partMapParts (d.word 4)
  let failed := fun (s : State) =>
    (s.rezero d.expansion).complete d
      { status := Status.jobFaulted, fault := ((s.job? j.id).map (·.firstFault)).getD 0, synthetic := true }
  match (s.unbound d).readPark j d.lead with
  | (s, none) => failed s
  | (s, some ws) =>
    match s.moveEntries j d.lead ps true ws 0 with
    | (s, _, false) => failed s
    | (s, _, true) =>
      let s := s.setParts ps (fun jp _ => j.restore jp (j.image.partition j.id jp j.fn .set))
      let s := s.modJob j.id (fun j => { j with parts := ps, lead := (ps[0]?).getD d.lead })
      s.armJob d j.id r n true
/-- A RESUME whose rank table has been read. -/
def State.resumeWith (s : State) (d : Desc) (bs : List Byte) : State :=
  match s.resumeJob d with
  | none => s.conflict d
  | some j =>
    match s.startCheck j d.fn d.planSel none (partMapParts (d.word 4)) d.pace bs with
    | .error x => s.startNo d x
    | .ok (r, n) =>
      let parked := (s.part d.lead).mapGold
      let s := s.claimLinks j
      (s.modJob j.id (fun j => { j with parkedMap := parked })).expand d j r n
def State.resumeGo (s : State) (o : WinOp) : State := s.rankGo o (fun s bs => s.resumeWith o.desc bs)

/-- RESUME. -/
def execResume (s : State) : Out :=
  .next (match s.takeMc Op.resume with
    | none => s
    | some (d, t) =>
      if !d.resumeOk then t.done d Status.badDescriptor
      else if !t.vfAllowed d [d.lead]
          || !d.expansion.all (fun p => t.bound d.fn p && ((t.part p).owner.isNone || (t.part p).owner == some d.fn)) then
        t.complete d { status := Status.notPermitted }
      else if (t.resumeJob d).isNone then t.conflict d
      else if !t.cqOn d then t.complete d { status := Status.cqInvalid }
      else
        let o := t.winOp d (some d.lead)
        let u := t.pushOp o
        if u.canClaim o then u.resumeGo o else u)

/-! JOB_START. -/

/-- Index of the HURDLE command of an id in a list of commands. -/
def hurdleAt (cs : List Cmd) (id : W16) : Option Nat := cs.findIdx? (fun c => c.group == 7 && hurdleId c == id)
/-- A stream at its first command, or after the HURDLE of a start from one (R86, R184); one without that HURDLE begins at command 0
(log 66). -/
def StreamDef.begin (x : StreamDef) (from_ : Option HurdleDecl) : Stream :=
  { index := finOf 4 x.index, code := x.code
    pos := (match from_ with
      | some h => ((hurdleAt x.code h.id).map (· + 1)).getD 0
      | none => 0)
    iter := (match from_ with
      | some h => h.iteration
      | none => 0)
    mode := .running }
/-- A list at its first instance, or after the HURDLE of a start from one. -/
def ListDef.begin (x : ListDef) (from_ : Option HurdleDecl) : GraphList :=
  let pass := match from_ with
    | some h => h.iteration
    | none => 0
  let at_ := match from_ with
    | some h => ((hurdleAt x.descs h.id).map (· + 1)).getD 0
    | none => 0
  let wrap := decide (x.descs.length ≤ at_)
  { tile := x.tile, descs := x.descs, nextPass := if wrap then pass + 1 else pass, nextIndex := if wrap then 0 else at_, window := []
    busy := [], lastPass := none, maxPass := pass, arrived := none, ended := false }
/-- Lap 0 of a job that starts (R167, R184). Where the next declared hurdle, number next, stands before the first entry, the sequence pauses
at once: lap 0 does not begin (R121). -/
def Job.firstLap (j : Job) (start next : Nat) : Option LapState :=
  match j.image.plan, j.activePlan with
  | some k, some p =>
    let e := match j.fromHurdle with
      | some h => h.seqEntry
      | none => 0
    let t := p.tableAt e
    let stop := (j.image.hurdles[next]?).any (fun d => d.seqEntry == e)
    some { entry := e, rep := 0, lapIndex := 0, lapStart := start, table := t, length := if stop then 0 else Nat.max 1 (k.len t)
           held := false, paused := stop, waits := false, ended := false, baseEntry := e, baseLap := 0, prevStart := start, met := start, prevHeld := false
           heldAfter := [] }
  | _, _ => none
/-- A job enters RUN from SET. -/
def State.beginJob (s : State) (j : Job) (start : Nat) : State :=
  let s := { s with parts := s.parts.map (fun q : Partition =>
    if q.job == some j.id then
      { q with
        st := .run, pred := j.predInit, engines := [], pointQ := []
        streams := (j.image.streams.filter (fun x : StreamDef => x.jobPart == q.jobPart)).map (fun x : StreamDef => x.begin j.fromHurdle)
        lists := (j.image.lists.filter (fun x : ListDef => x.jobPart == q.jobPart)).map (fun x : ListDef => x.begin j.fromHurdle) }
    else q) }
  let next := match j.fromHurdle with
    | some h => ((j.declared h.id h.iteration).map (fun x : Nat × HurdleDecl => x.1 + 1)).getD 0
    | none => 0
  s.modJob j.id (fun j =>
    { j with phase := .run, lap := j.firstLap start next, nextHurdle := next, xfers := [], occBase := [], sends := [], bindQ := [], slips := 0 })
/-- A resumed job enters RUN: it continues as a release at its hurdle would (R401). -/
def State.continueJob (s : State) (j : Job) (start : Nat) : State :=
  let s := { s with parts := s.parts.map (fun q : Partition => if q.job == some j.id then { q with st := .run } else q) }
  let s := s.modJob j.id (fun j =>
    { j with
      phase := .run, resuming := false, prior := none, parkedMap := none, saved := [], savedPace := none
      lap := (match j.hurdle, j.lap with
        | some d, some l => some { l with baseEntry := d.seqEntry, baseLap := l.lapsRun }
        | _, l => l) })
  let s := s.logs Code.jobResumed j.fn.val
  match s.job? j.id with
  | some j => match j.hurdle with
    | some d => s.releaseJob j d start
    | none => s
  | none => s

/-- JOB_START: the pace count reaches START_COUNT of an armed job whose comparisons have ended. -/
def execJobStart (lead : PartId) (s : State) : Out :=
  .next (match s.jobOfLead lead with
    | none => s
    | some j =>
      match j.pace with
      | none => s
      | some b =>
        if j.phase != .armed || !j.startDone || s.pace.count.toNat < b.startCount then s
        else
          if j.resuming then s.continueJob j b.startCount else s.beginJob j b.startCount)

end Sys2Proof.Machine
end

