-- ==== Sys2Proof/Machine/Registers.lean ====
section
/-! DEFINITION. Writes of the setup registers: each register's rule (R4, R272, R273, R305, R404, R409 to R416) and the decoding of a
register access (R3, R5, R403, Tables 18-1 to 18-10). -/

namespace Sys2Proof.Machine

/-! Locks (R272, R404). -/

/-- Does SETUP_LOCK of a function govern a write now? -/
def State.lockOf (s : State) (f : FnId) : Bool := (s.fn f).setupLock
def State.regLocked (s : State) (f : FnId) : State := s.logs Code.regLocked f.val
/-- A write of an RWL register: ignored and logged under the lock. -/
def State.unlocked (s : State) (f : FnId) (g : State → State) : State := if s.lockOf f then s.regLocked f else g s

/-! Function registers (Table 18-1). -/

/-- SETUP_LOCK written 1: PF0's needs a valid topology and chip id (R393). -/
def State.setLock (s : State) (f : FnId) : State :=
  if s.lockOf f then s.regLocked f
  else if f == 0 && !s.idsValid then s.setupRejected 0
  else s.modFn f (fun x => { x with setupLock := true })
def execSetupLock (f : FnId) (s : State) : Out := s.overHost (·.setLock f)

/-- HIU_DBL_MODE (R281). -/
def State.setDblMode (s : State) (f : FnId) (snoop : Bool) : State :=
  s.unlocked f (fun s =>
    if (s.fn f).dblMode == snoop then s
    else (s.modFn f (fun x => { x with dblMode := snoop, fallbackLogged := false })).takeLines f)
def execHiuDblMode (f : FnId) (snoop : Bool) (s : State) : Out := s.overHost (·.setDblMode f snoop)

/-- HIU_BINDp (R238, R273, R409). -/
def State.setBind (s : State) (p : PartId) (v : W32) : State :=
  let vs := bindSlots v
  let q := s.part p
  let unbinds := q.shown != .marks && (match q.owner with
    | some f => f != 0 && !vs.contains f.val
    | none => false)
  if vs.any (32 < ·) || !distinct vs || unbinds then s.setupRejected 0
  else s.modHiu (fun h => { h with bind := vset h.bind p (v &&& 0x3F3F3F3F) })
def execHiuBind (p : PartId) (v : W32) (s : State) : Out := s.overHost (·.setBind p v)

def State.setWinRoot (s : State) (f : FnId) (v : W64) : State :=
  s.unlocked f (fun s => s.modFn f (fun x => { x with winRoot := v &&& 0x000FFFFFFFFFF7FF }))
/-- An excluded range that covers nothing though it is enabled is reported (R305). -/
def State.exclCheck (s : State) (n : Fin 4) : State :=
  let b : W64 := s.hiu.exclBase[n]
  let l : W64 := s.hiu.exclLimit[n]
  if bit b 0 && decide (fld l 51 12 < fld b 51 12) then s.setupRejected 0 else s
def State.setExclBase (s : State) (n : Fin 4) (v : W64) : State :=
  s.unlocked 0 (fun s => (s.modHiu (fun h => { h with exclBase := vset h.exclBase n (v &&& 0x000FFFFFFFFFF001) })).exclCheck n)
def State.setExclLimit (s : State) (n : Fin 4) (v : W64) : State :=
  s.unlocked 0 (fun s => (s.modHiu (fun h => { h with exclLimit := vset h.exclLimit n (v &&& 0x000FFFFFFFFFF000) })).exclCheck n)

/-! Rings (R275 to R277, Tables 12-3 to 12-5). -/

def State.setSqAddr (s : State) (f : FnId) (n : RingIx) (dbl : Bool) (v : W64) : State :=
  if (s.fn f).sqs[n].enable then s.logs Code.ringBusy f.val
  else s.modSq f n (fun q => if dbl then { q with dbl := v } else { q with base := v })
def State.setCqAddr (s : State) (f : FnId) (n : RingIx) (dbl : Bool) (v : W64) : State :=
  if (s.fn f).cqs[n].enable then s.logs Code.ringBusy f.val
  else s.modCq f n (fun q => if dbl then { q with dbl := v } else { q with base := v })
/-- RING_SQn_CTRL: ERROR clears by a 1; CQ and SIZE_LOG2 change while the ring is disabled; then ENABLE acts. -/
def State.setSqCtrl (s : State) (f : FnId) (n : RingIx) (v : W32) : State :=
  let size : BitVec 5 := BitVec.ofNat 5 (fld v 4 0)
  let cq : RingIx := finOf 16 (fld v 23 20)
  let s := if bit v 29 then s.modSq f n (fun q => { q with error := false }) else s
  let q := (s.fn f).sqs[n]
  if q.enable then
    let s := if size != q.sizeLog2 || cq != q.cq then s.logs Code.ringBusy f.val else s
    if bit v 31 then s else s.sqDisable f n
  else
    let s := s.modSq f n (fun q => { q with sizeLog2 := size, cq := cq })
    if bit v 31 then s.sqEnable f n else s
def State.setCqCtrl (s : State) (f : FnId) (n : RingIx) (v : W32) : State :=
  let size : BitVec 5 := BitVec.ofNat 5 (fld v 4 0)
  let s := if bit v 29 then s.modCq f n (fun q => { q with error := false }) else s
  let q := (s.fn f).cqs[n]
  if q.enable then
    let s := if size != q.sizeLog2 then s.logs Code.ringBusy f.val else s
    if bit v 31 then s else s.cqDisable f n
  else
    let s := s.modCq f n (fun q => { q with sizeLog2 := size })
    if bit v 31 then s.cqEnable f n else s
def State.setCqIrq (s : State) (f : FnId) (n : RingIx) (v : W32) : State :=
  if f != 0 && decide (63 < fld v 7 0) then s.setupRejected f
  else
    s.modCq f n (fun q =>
      { q with
        irqEn := bit v 31, delay := BitVec.ofNat 10 (fld v 25 16), countM1 := BitVec.ofNat 8 (fld v 15 8)
        vec := BitVec.ofNat 8 (fld v 7 0) })

/-! MSI-X (Table 18-1; PCI Express). -/

/-- A doubleword of the MSI-X table: address and data, or the vector's mask bit, whose clearing sends a pending message. -/
def State.setMsix (s : State) (f : FnId) (d : Nat) (v : W32) : State :=
  let n := d / 4
  if d % 4 != 3 then
    s.modFn f (fun x =>
      let rest := x.msixTable.filter (fun e : Nat × W32 => e.1 != d)
      { x with msixTable := if v == 0 then rest else (d, v) :: rest })
  else
    (s.modFn f (fun x => { x with msixMask := setBitTo x.msixMask n (bit v 0) })).msixFreed f n

/-! Installation (R230, R231, R233, R411, R412). -/

/-- The neighbour on a link and the link it uses (Table 10-3). -/
def State.neighbour (s : State) (l : LinkId) : BitVec 13 × Nat := s.neighbourOf s.chip l
/-- Compare ZL_PEER_EXPECT with the computed peer; a conflict is logged with the link. -/
def State.checkPeer (s : State) (l : LinkId) : State :=
  if !s.idsValid then s
  else
    let e := (s.link l).peerExpect
    let n := s.neighbour l
    let bad := bit e 31 && !(fld e 12 0 == n.1.toNat && fld e 18 16 == n.2)
    let s := s.modLink l (fun k => { k with conflict := bad })
    if bad then s.hand Code.topologyConflict 0 (.count (BitVec.ofNat 64 l.val)) else s

/-- A partition holds a job or a job's remains that the installation registers may not change under (R412). -/
def State.installBusy (s : State) : Bool :=
  s.parts.toList.any (fun q => q.shown == .set || q.shown == .run || q.shown == .hold || q.shown == .parked)
/-- Links in IDENTIFY or a later stage, MISWIRED and FAULT among them (Table 16-7), go down and train again. -/
def State.reidentify (s : State) : State :=
  allLinks.foldl (fun s l => match (s.link l).stage with
    | .identify | .train | .check | .up | .miswired | .fault =>
      (s.modLink l (fun k => { k with chipUnsetLogged := false })).linkDown l Code.linkReset
    | .off | .listen | .align | .down => s) s
/-- An installation register takes a new value: the links train again, and while the topology and the chip id are valid the peers are
compared again (R233, R412). -/
def State.install1 (s : State) (g : Mgt → Mgt) : State :=
  if s.installBusy then s.setupRejected 0
  else
    allLinks.foldl (fun s l => s.checkPeer l) (s.modMgt g).reidentify
/-- An RWL installation register: an unchanged value has no effect. -/
def State.setInstall (s : State) (old new : W32) (ok : Bool) (g : Mgt → Mgt) : State :=
  s.unlocked 0 (fun s => if new == old then s else if !ok then s.setupRejected 0 else s.install1 g)

def extentOk (e most : Nat) : Bool := e == 2 || e == 4 || e == 8 || e == 16 || (e == 32 && most == 32)
/-- MGT_TOPOLOGY (R230). -/
def State.setTopology (s : State) (v : W32) : State :=
  let w := v &&& 0x8F3F1F1F
  let ex := fld w 4 0
  let ok := extentOk ex 16 && extentOk (fld w 12 8) 16 && extentOk (fld w 21 16) 32 && decide (fld w 27 24 < ex)
  s.setInstall s.mgt.topology w (!bit w 31 || ok) (fun m => { m with topology := w })
def execMgtTopology (v : W32) (s : State) : Out := s.overHost (·.setTopology v)
/-- MGT_CHIP_ID (Table 10-2). -/
def State.setChipId (s : State) (v : W32) : State :=
  let w := v &&& 0x80001FFF
  let ok := s.topoValid && s.inExtents (BitVec.ofNat 13 (fld w 12 0))
  s.setInstall s.mgt.chipId w (!bit w 31 || ok) (fun m => { m with chipId := w })
def execMgtChipId (v : W32) (s : State) : Out := s.overHost (·.setChipId v)
/-- MGT_MACHINE_ID. -/
def State.setMachineId (s : State) (v : W32) : State := s.setInstall s.mgt.machineId v true (fun m => { m with machineId := v })
def execMgtMachineId (v : W32) (s : State) : Out := s.overHost (·.setMachineId v)

/-- A job that is armed or in RUN owns the link, or the pace tree uses it (R412). -/
def State.peerFixed (s : State) (l : LinkId) : Bool :=
  s.treeLink l || (match (s.link l).owner.bind s.job? with
    | some j => j.phase == .armed || j.phase == .run
    | none => false)
/-- ZL_PEER_EXPECT. -/
def State.setPeerExpect (s : State) (l : LinkId) (v : W32) : State :=
  s.unlocked 0 (fun s =>
    let w := v &&& 0x80071FFF
    if 5 < fld w 18 16 then s.setupRejected 0
    else if w == (s.link l).peerExpect then s
    else if s.peerFixed l then s.setupRejected 0
    else
      let s := (s.modLink l (fun k => { k with peerExpect := w, conflict := false })).checkPeer l
      match (s.link l).stage with
      | .up => s.linkDown l Code.linkReset
      | .miswired => s.enterIdentify l
      | _ => s)
def execZlPeerExpect (l : LinkId) (v : W32) (s : State) : Out := s.overHost (·.setPeerExpect l v)

/-- ZL_CTRL (R411): ENABLE first, RESET and RETRAIN of a link that was not OFF. -/
def State.setZlCtrl (s : State) (l : LinkId) (v : W32) : State :=
  let off := (s.link l).stage == .off
  let s1 := if bit v 31 == (s.link l).enable then s else s.linkEnable l (bit v 31)
  if off || !bit v 31 then s1
  else if bit v 30 then s1.linkReset l
  else if bit v 29 then s1.retrain l
  else s1

/-! Slice records (R239, R242). -/

def State.sliceOk (s : State) (v : W64) : Bool :=
  let o : BitVec 13 := BitVec.ofNat 13 (fld v 12 0)
  let axis := fun (x d e : Nat) => decide (1 ≤ d) && decide (d ≤ e) && (if d = e then x == 0 else decide (x + d ≤ e))
  let dx := fld v 28 24
  let dz := fld v 39 34
  s.topoValid && decide (1 ≤ sliceTenant v) && decide (sliceTenant v ≤ 32) && axis (chipX o) dx s.ex && axis (chipY o) (fld v 33 29) s.ey
  && axis (chipZ o) dz s.ez && (!(dz == s.ez && s.twist != 0) || dx == s.ex)
def State.setSlice (s : State) (n : Fin 8) (v : W64) : State :=
  let w := v &&& 0xBF0000FFFF001FFF
  if s.jobs.any (fun j => j.slices.contains n) then s.logs Code.sliceInUse
  else if sliceValid w && !s.sliceOk w then s.setupRejected 0
  else s.modMgt (fun m => { m with slices := vset m.slices n w })

/-! Key slots (R415). -/

def KeySlot.onCurve (k : KeySlot) : Bool := ecOnCurve (beNat (natLE 48 k.x.toNat)) (beNat (natLE 48 k.y.toNat))
def State.keyOpen (s : State) (k : KeySlotIx) : Bool := !s.lockOf 0 && s.mgt.keys[k].state == .empty
/-- ENROLL. -/
def State.enroll (s : State) (k : KeySlotIx) : State :=
  if s.keyOpen k && s.mgt.keys[k].onCurve then s.modMgt (fun m => { m with keys := vmod m.keys k (fun x => { x with state := .enrolled }) })
  else s.setupRejected 0
def execEnroll (k : KeySlotIx) (s : State) : Out := s.overHost (·.enroll k)
/-- REVOKE. -/
def State.revoke (s : State) (k : KeySlotIx) : State :=
  s.modMgt (fun m => { m with keys := vmod m.keys k (fun x => { x with state := .revoked }) })
def execRevoke (k : KeySlotIx) (s : State) : Out := s.overHost (·.revoke k)
def State.setKeyCtrl (s : State) (v : W32) : State :=
  let k : KeySlotIx := finOf 8 (fld v 2 0)
  if bit v 30 then s.revoke k else if bit v 31 then s.enroll k else s
/-- Bytes of MGT_KEYk from an offset on. -/
def State.setKeyBytes (s : State) (k : KeySlotIx) (off : Nat) (bs : List Byte) : State :=
  if !s.keyOpen k then s.setupRejected 0
  else
    let all := patch (natLE 48 s.mgt.keys[k].x.toNat ++ natLE 48 s.mgt.keys[k].y.toNat) off bs
    s.modMgt (fun m => { m with keys := vmod m.keys k (fun x =>
      { x with x := BitVec.ofNat 384 (leAt all 0 48), y := BitVec.ofNat 384 (leAt all 48 48) }) })

/-! Resets and power registers (Table 18-8, Table 15-5, Table 16-3). -/

/-- MGT_RESET: the widest reset named, with the key. -/
def State.setReset (s : State) (v : W32) : State :=
  if fld v 31 16 != 0xA5C3 then s.setupRejected 0
  else if bit v 2 then s.coldReset
  else if bit v 1 then s.warmReset
  else if bit v 0 then s.mcReset
  else s
/-- MGT_UNIT_RESET. -/
def State.setUnitReset (s : State) (v : W32) : State :=
  let i := fld v 7 0
  if !bit v 31 then s
  else
    match fld v 30 28 with
    | 0 => s.unitResetGo (.tile (finOf 256 i))
    | 1 => if i < 4 then s.unitResetGo (.sequencer (finOf 4 i)) else s.setupRejected 0
    | 2 => if i < 4 then s.unitResetGo (.pointEngine (finOf 4 i)) else s.setupRejected 0
    | _ => s.setupRejected 0
/-- A write of a PWR_ register, from PF0 or the I3C target, as one whole write (R406). -/
def State.setPwr (s : State) (i : Nat) (v : W32) : State :=
  match i with
  | 0 =>
    let lim := fld v 11 0
    if lim < 500 || 2500 < lim then s.setupRejected 0
    else
      let s := s.modPower (fun p => { p with limit := BitVec.ofNat 12 lim })
      if bit v 31 then s.modPower (fun p => { p with mainEn := true }) else if s.power.mainEn then s.mainDisable else s
  | 1 =>
    let s := if bit v 30 then s.tripClear else s
    if bit v 29 then s.modPower (fun p => { p with overcurrent := false }) else s
  | 4 => s.modPower (fun p =>
      { p with alertMask := BitVec.ofNat 4 (fld v 11 8), alertStatus := p.alertStatus &&& ~~~(BitVec.ofNat 4 (fld v 3 0)) })
  | _ => s

/-! Service and time registers (Tables 18-6, 18-7, 18-10). -/

def State.setMac (s : State) (p : PortId) (k : SubPort) (v : W64) : State :=
  s.unlocked 0 (fun s => s.modPort p (fun q => { q with macs := vset q.macs k (BitVec.ofNat 48 (fld v 47 0)) }))
def State.setMcast (s : State) (m : Fin 8) (v : W64) : State :=
  if !bit v 40 then s.setupRejected 0 else s.modSvc (fun x => { x with mcast := vset x.mcast m (v &&& 0x8000FFFFFFFFFFFF) })
def State.setTxAddr (s : State) (dbl : Bool) (v : W64) : State :=
  if s.svc.tx.enable then s.logs Code.ringBusy else s.modTx (fun q => if dbl then { q with dbl := v } else { q with base := v })
def State.setTxCtrl (s : State) (v : W32) : State :=
  let size : BitVec 5 := BitVec.ofNat 5 (fld v 4 0)
  if !(decide (6 ≤ size.toNat) && decide (size.toNat ≤ 12)) then s.setupRejected 0
  else
    let s := if bit v 29 then s.modTx (fun q => { q with error := false }) else s
    if s.svc.tx.enable then
      let s := if size != s.svc.tx.sizeLog2 then s.logs Code.ringBusy else s
      if bit v 31 then s else s.txDisable
    else
      let s := s.modTx (fun q => { q with sizeLog2 := size })
      if bit v 31 then s.txEnable else s
/-- SVC_TRINGn_CTRL: fields other than ENABLE and ERROR stay while the ring is enabled. -/
def State.setTringCtrl (s : State) (n : TRingId) (v : W32) : State :=
  let size : BitVec 5 := BitVec.ofNat 5 (fld v 4 0)
  let vf : BitVec 6 := BitVec.ofNat 6 (fld v 13 8)
  let vec : Byte := BitVec.ofNat 8 (fld v 23 16)
  if 32 < vf.toNat || !(decide (6 ≤ size.toNat) && decide (size.toNat ≤ 16)) then s.setupRejected 0
  else
    let s := if bit v 30 then s.modTring n (fun t => { t with error := false }) else s
    let t := s.tring n
    if t.enable then
      let s := if size != t.sizeLog2 || vf != t.vf || vec != t.vec then s.setupRejected 0 else s
      if bit v 31 then s else s.tringDisable n
    else
      let s := s.modTring n (fun t => { t with sizeLog2 := size, vf := vf, vec := vec })
      if bit v 31 then s.tringEnable n else s
def State.setTring (s : State) (n : TRingId) (g : TRing → TRing) : State :=
  if (s.tring n).enable then s.setupRejected 0 else s.modTring n g
/-- PTP_STEP, PTP_SET_SEC and PTP_SET_NS: not while a change waits (R414). -/
def State.setTime (s : State) (g : Clock → Clock) : State := if s.clock.pending then s.setupRejected 0 else s.modClock g
/-- PTP_CTRL. -/
def State.setPtpCtrl (s : State) (v : W32) : State :=
  if s.clock.pending || (bit v 31 && bit v 30) then s.setupRejected 0
  else if bit v 31 then s.timeChange (.step (bit v 29))
  else if bit v 30 then s.timeChange (.set (bit v 29))
  else s

/-- A field with a stated range: outside it the write is ignored (R409). -/
def State.ranged (s : State) (v lo hi : Nat) (g : State → State) : State := if lo ≤ v && v ≤ hi then g s else s.setupRejected 0

/-! The register map. -/

/-- The registers that take a write. -/
inductive SetupReg where
  | setup | dblMode | winRoot | errMask | logVec
  | sqBase (n : RingIx) | sqDbl (n : RingIx) | sqCtrl (n : RingIx)
  | cqBase (n : RingIx) | cqDbl (n : RingIx) | cqCtrl (n : RingIx) | cqIrq (n : RingIx)
  | exclBase (n : Fin 4) | exclLimit (n : Fin 4)
  | msix (d : Nat) | bind (p : PartId)
  | stretch | tighten | floor | slice (n : Fin 8) | cellTimeout
  | zlCtrl (l : LinkId) | peerExpect (l : LinkId) | replay (l : LinkId) | laneErr (l : LinkId)
  | machineId | topology | chipId | scrub | hang | reset | unitReset | fwOffset | fwCtrl | keyCtrl
  | key (k : KeySlotIx) (off : Nat) | pwr (i : Nat)
  | svcCtrl (p : PortId) | mac (p : PortId) (k : SubPort) | mcast (m : Fin 8) | ptpRing
  | txBase | txDbl | txCtrl
  | tringCtrl (n : TRingId) | tringBase (n : TRingId) | tringDbl (n : TRingId) | tringKey (n : TRingId)
  | incr | step | setSec | setNs | ptpCtrl | ptpStatus | thresh | adj (p : PortId) (k : SubPort)
  deriving DecidableEq, Repr

/-- Registers of 64 bits. -/
def SetupReg.wide : SetupReg → Bool
  | .winRoot | .sqBase _ | .sqDbl _ | .cqBase _ | .cqDbl _ | .exclBase _ | .exclLimit _ | .slice _ | .fwOffset | .mac _ _ | .mcast _
  | .txBase | .txDbl | .tringBase _ | .tringDbl _ | .incr | .step | .setSec => true
  | _ => false

/-- Ring registers (R275). -/
def ringReg (off : Nat) : Option SetupReg :=
  if off < 0x2000 ∨ 0x2800 ≤ off then none
  else
    let n : RingIx := finOf 16 (off % 0x400 / 64)
    let o := off % 64
    if off < 0x2400 then
      (if o < 8 then some (.sqBase n) else if o < 16 then some (.sqDbl n) else if o = 16 then some (.sqCtrl n) else none)
    else
      (if o < 8 then some (.cqBase n) else if o < 16 then some (.cqDbl n) else if o = 16 then some (.cqCtrl n)
       else if o = 20 then some (.cqIrq n) else none)
/-- Registers that every function has (Table 18-1). -/
def fnReg (f : FnId) (off : Nat) : Option SetupReg :=
  if off = 0 then some .setup
  else if off = 0x10 then some .dblMode
  else if off = 0x3000 ∨ off = 0x3004 then some .winRoot
  else if 0x4000 ≤ off ∧ off < (if f = 0 then 0x5000 else 0x4400) then some (.msix ((off - 0x4000) / 4))
  else ringReg off
/-- Registers of PF0 below 0x1_0000. -/
def pfReg (off : Nat) : Option SetupReg :=
  if 0x3100 ≤ off ∧ off < 0x3140 then
    (let n : Fin 4 := finOf 4 ((off - 0x3100) / 16)
     some (if off % 16 < 8 then .exclBase n else .exclLimit n))
  else if 0x6000 ≤ off ∧ off < 0x6020 then some (.bind (finOf 8 ((off - 0x6000) / 4)))
  else if off = 0x6040 then some .errMask
  else if off = 0x6044 then some .logVec
  else none
/-- PACE_, PLAN_, RING_ and ZL_ registers. -/
def fabricReg (off : Nat) : Option SetupReg :=
  if off = 0x10000 then some .stretch
  else if off = 0x10004 then some .tighten
  else if off = 0x10008 then some .floor
  else if 0x11000 ≤ off ∧ off < 0x11040 then some (.slice (finOf 8 ((off - 0x11000) / 8)))
  else if off = 0x13000 then some .cellTimeout
  else if 0x20000 ≤ off ∧ off < 0x26000 then
    (let l : LinkId := finOf 6 ((off - 0x20000) / 0x1000)
     match off % 0x1000 with
     | 0x000 => some (.zlCtrl l)
     | 0x008 => some (.peerExpect l)
     | 0x01C => some (.replay l)
     | 0x020 => some (.laneErr l)
     | _ => none)
  else none
/-- MGT_ and PWR_ registers. -/
def mgtReg (off : Nat) : Option SetupReg :=
  if off = 0x30000 then some .machineId
  else if off = 0x30004 then some .topology
  else if off = 0x30008 then some .chipId
  else if off = 0x30010 then some .scrub
  else if off = 0x30014 then some .hang
  else if off = 0x30020 then some .reset
  else if off = 0x30024 then some .unitReset
  else if off = 0x30030 ∨ off = 0x30034 then some .fwOffset
  else if off = 0x30038 then some .fwCtrl
  else if off = 0x30388 then some .keyCtrl
  else if 0x30400 ≤ off ∧ off < 0x30800 ∧ off % 0x80 < 96 then some (.key (finOf 8 ((off - 0x30400) / 0x80)) (off % 0x80))
  else if 0x31000 ≤ off ∧ off < 0x31014 then some (.pwr ((off - 0x31000) / 4))
  else none
/-- SVC_ and PTP_ registers. -/
def svcReg (off : Nat) : Option SetupReg :=
  if 0x40000 ≤ off ∧ off < 0x42000 then
    (let p : PortId := finOf 2 ((off - 0x40000) / 0x1000)
     let o := off % 0x1000
     if o = 0 then some (.svcCtrl p) else if 0x10 ≤ o ∧ o < 0x30 then some (.mac p (finOf 4 ((o - 0x10) / 8))) else none)
  else if 0x42000 ≤ off ∧ off < 0x42040 then some (.mcast (finOf 8 ((off - 0x42000) / 8)))
  else if off = 0x42040 then some .ptpRing
  else if 0x42100 ≤ off ∧ off < 0x42108 then some .txBase
  else if 0x42108 ≤ off ∧ off < 0x42110 then some .txDbl
  else if off = 0x42110 then some .txCtrl
  else if 0x43000 ≤ off ∧ off < 0x43400 then
    (let n : TRingId := finOf 32 ((off - 0x43000) / 0x20)
     match off % 0x20 with
     | 0x00 => some (.tringCtrl n)
     | 0x08 | 0x0C => some (.tringBase n)
     | 0x10 | 0x14 => some (.tringDbl n)
     | 0x18 => some (.tringKey n)
     | _ => none)
  else if 0x44100 ≤ off ∧ off < 0x44180 ∧ off % 0x40 < 16 then
    some (.adj (finOf 2 ((off - 0x44100) / 0x40)) (finOf 4 (off % 0x40 / 4)))
  else
    match off with
    | 0x44000 | 0x44004 => some .incr
    | 0x44020 | 0x44024 => some .step
    | 0x44028 | 0x4402C => some .setSec
    | 0x44030 => some .setNs
    | 0x44034 => some .ptpCtrl
    | 0x44038 => some .ptpStatus
    | 0x4403C => some .thresh
    | _ => none
/-- The register that an aligned 32-bit word of a function's BAR0 belongs to; none where a write is ignored (R271, R408). -/
def regAt (f : FnId) (off : Nat) : Option SetupReg :=
  match fnReg f off with
  | some r => some r
  | none =>
    if f != 0 then none
    else if off < 0x10000 then pfReg off
    else if off < 0x30000 then fabricReg off
    else if off < 0x40000 then mgtReg off
    else svcReg off

/-- Value of a 64-bit register, whose low half stands where nothing was committed. -/
def State.wideValue (s : State) (f : FnId) : SetupReg → W64
  | .winRoot => (s.fn f).winRoot
  | .sqBase n => (s.fn f).sqs[n].base
  | .sqDbl n => (s.fn f).sqs[n].dbl
  | .cqBase n => (s.fn f).cqs[n].base
  | .cqDbl n => (s.fn f).cqs[n].dbl
  | .exclBase n => s.hiu.exclBase[n]
  | .exclLimit n => s.hiu.exclLimit[n]
  | .slice n => s.mgt.slices[n]
  | .fwOffset => s.boot.fwOffset
  | .mac p k => BitVec.ofNat 64 (s.port p).macs[k].toNat
  | .mcast m => s.svc.mcast[m]
  | .txBase => s.svc.tx.base
  | .txDbl => s.svc.tx.dbl
  | .tringBase n => (s.tring n).base
  | .tringDbl n => (s.tring n).dbl
  | .incr => BitVec.ofNat 64 s.clock.incr.toNat
  | .step => s.clock.step
  | .setSec => s.clock.setSec
  | _ => 0

/-- A write of a 64-bit register. -/
def State.commit64 (s : State) (f : FnId) (r : SetupReg) (v : W64) : State :=
  match r with
  | .winRoot => s.setWinRoot f v
  | .sqBase n => s.setSqAddr f n false v
  | .sqDbl n => s.setSqAddr f n true v
  | .cqBase n => s.setCqAddr f n false v
  | .cqDbl n => s.setCqAddr f n true v
  | .exclBase n => s.setExclBase n v
  | .exclLimit n => s.setExclLimit n v
  | .slice n => s.setSlice n v
  | .fwOffset => s.modBoot (fun b => { b with fwOffset := v })
  | .mac p k => s.setMac p k v
  | .mcast m => s.setMcast m v
  | .txBase => s.setTxAddr false v
  | .txDbl => s.setTxAddr true v
  | .tringBase n => s.setTring n (fun t => { t with base := v })
  | .tringDbl n => s.setTring n (fun t => { t with dbl := v })
  | .incr => s.setIncr v
  | .step => s.setTime (fun c => { c with step := v })
  | .setSec => s.setTime (fun c => { c with setSec := v })
  | _ => s

/-- A write of a 32-bit register. -/
def State.commit32 (s : State) (f : FnId) (r : SetupReg) (v : W32) : State :=
  match r with
  | .setup => if s.lockOf f then s.regLocked f else if bit v 0 then s.setLock f else s
  | .dblMode => s.setDblMode f (bit v 0)
  | .errMask => s.modHiu (fun h => { h with errMask := BitVec.ofNat 8 (fld v 7 0) })
  | .logVec => s.modHiu (fun h => { h with logVec := v &&& 0x800000FF })
  | .sqCtrl n => s.setSqCtrl f n v
  | .cqCtrl n => s.setCqCtrl f n v
  | .cqIrq n => s.setCqIrq f n v
  | .msix d => s.setMsix f d v
  | .bind p => s.setBind p v
  | .stretch => s.ranged (fld v 2 0) 1 7 (fun s => s.modPace (fun p => { p with stretchClass := BitVec.ofNat 3 (fld v 2 0) }))
  | .tighten => s.ranged (fld v 2 0) 1 7 (fun s => s.modPace (fun p => { p with tightenClass := BitVec.ofNat 3 (fld v 2 0) }))
  | .floor => s.modPace (fun p => { p with floor := BitVec.ofNat 3 (fld v 2 0) })
  | .cellTimeout => s.ranged (fld v 9 0) 1 1000 (fun s => s.modInfield (fun i => { i with cellTimeout := BitVec.ofNat 10 (fld v 9 0) }))
  | .zlCtrl l => s.setZlCtrl l v
  | .peerExpect l => s.setPeerExpect l v
  | .replay l => s.ranged (fld v 6 0) 1 64 (fun s => s.modLink l (fun k => { k with replayTimeout := BitVec.ofNat 7 (fld v 6 0) }))
  | .laneErr l => s.ranged (fld v 15 0) 1 65535 (fun s => s.modLink l (fun k => { k with laneErrLimit := BitVec.ofNat 16 (fld v 15 0) }))
  | .machineId => s.setMachineId v
  | .topology => s.setTopology v
  | .chipId => s.setChipId v
  | .scrub => s.ranged (fld v 4 0) 1 24 (fun s => s.modMgt (fun m => { m with scrubPeriod := BitVec.ofNat 5 (fld v 4 0) }))
  | .hang => s.ranged (fld v 13 0) 1 10000 (fun s => s.modMgt (fun m => { m with hangLimit := BitVec.ofNat 14 (fld v 13 0) }))
  | .reset => s.setReset v
  | .unitReset => s.setUnitReset v
  | .fwCtrl => if bit v 31 then s.fwUpdate else s
  | .keyCtrl => s.setKeyCtrl v
  | .key k off => s.setKeyBytes k off (natLE 4 v.toNat)
  | .pwr i => s.setPwr i v
  | .svcCtrl p => s.svcCtrl p v
  | .ptpRing => s.modSvc (fun x => { x with ptpRing := v &&& 0x8000001F })
  | .txCtrl => s.setTxCtrl v
  | .tringCtrl n => s.setTringCtrl n v
  | .tringKey n => s.setTring n (fun t => { t with key := v })
  | .setNs => s.setTime (fun c => { c with setNs := BitVec.ofNat 30 (fld v 29 0) })
  | .ptpCtrl => s.setPtpCtrl v
  | .ptpStatus => if bit v 31 then s.modClock (fun c => { c with jumpRefused := false }) else s
  | .thresh => s.ranged v.toNat 1 (2 ^ 32 - 1) (fun s => s.modClock (fun c => { c with thresh := v }))
  | .adj p k => s.modClock (fun c =>
      { c with stamps := vmod c.stamps p (fun q => { q with adj := vset q.adj k (BitVec.ofNat 16 (fld v 15 0)) }) })
  | _ => s

/-! Halves of 64-bit registers (R403). -/

def heldAt (hs : List HeldHalf) (f : FnId) (off : BitVec 20) : Option W32 := (hs.find? (fun h => h.fn == f && h.off == off)).map (·.value)
def dropHeld (hs : List HeldHalf) (f : FnId) (off : BitVec 20) : List HeldHalf := hs.filter (fun h => !(h.fn == f && h.off == off))
/-- Commit a whole 64-bit value: its low half is the one last committed. -/
def State.commitWide (s : State) (f : FnId) (off : BitVec 20) (r : SetupReg) (v : W64) : State :=
  (s.modMgt (fun m =>
    { m with
      committed := { fn := f, off := off, value := BitVec.ofNat 32 (fld v 31 0) } :: dropHeld m.committed f off })).commit64 f r v
/-- A low half is held; a high half commits with the held low half, else the one last committed. -/
def State.writeHalf (s : State) (f : FnId) (off : BitVec 20) (r : SetupReg) (v : W32) : State :=
  let base : BitVec 20 := BitVec.ofNat 20 (off.toNat / 8 * 8)
  if off == base then s.modMgt (fun m => { m with held := { fn := f, off := base, value := v } :: dropHeld m.held f base })
  else
    let low : W32 := match heldAt s.mgt.held f base with
      | some x => x
      | none => match heldAt s.mgt.committed f base with
        | some x => x
        | none => BitVec.ofNat 32 (fld (s.wideValue f r) 31 0)
    let s := s.modMgt (fun m => { m with held := dropHeld m.held f base })
    s.commitWide f base r (BitVec.ofNat 64 (v.toNat * 2 ^ 32 + low.toNat))

/-- An aligned access of 4 bytes, or of 8. An 8-byte access writes two words of the MSI-X table, or 8 bytes of a key as one write; it
does not apply to a 32-bit register. -/
def State.regWrite (s : State) (f : FnId) (off : BitVec 20) (eight : Bool) (v : W64) : State :=
  if f != 0 && decide (0x10000 ≤ off.toNat) then s
  else
    let lo : W32 := BitVec.ofNat 32 (fld v 31 0)
    let hi : W32 := BitVec.ofNat 32 (fld v 63 32)
    match regAt f off.toNat with
    | none => s
    | some r =>
      if r.wide then (if eight then s.commitWide f off r v else s.writeHalf f off r lo)
      else if !eight then s.commit32 f r lo
      else
        match r with
        | .key k o => s.setKeyBytes k o (natLE 8 v.toNat)
        | .msix d => (s.setMsix f d lo).setMsix f (d + 1) hi
        | _ => s

/-- An access that the device takes: naturally aligned, of 4 or 8 bytes (R5). -/
def accessOk (off : BitVec 20) (size : Fin 9) : Bool := (size == 4 || size == 8) && off.toNat % size.val == 0
/-- REGISTER_WRITE: an access that is not an aligned one of 4 or 8 bytes is ignored and logged (R5). Of the value, the bytes that the
access carries are written. -/
def execRegisterWrite (f : FnId) (off : BitVec 20) (size : Fin 9) (v : W64) (s : State) : Out :=
  s.overHost (fun s => if accessOk off size then s.regWrite f off (size == 8) v else s.logs Code.regAccess f.val)

/-! Rows that stand for a write of a 64-bit register: its value, whole (R403). -/

/-- PLAN_SLICE. -/
def execPlanSlice (n : Fin 8) (v : W64) (s : State) : Out :=
  s.overHost (·.commitWide 0 (BitVec.ofNat 20 (0x11000 + 8 * n.val)) (.slice n) v)
/-- PTP_INCR. -/
def execPtpIncr (v : W64) (s : State) : Out := s.overHost (·.commitWide 0 0x44000 .incr v)

end Sys2Proof.Machine
end

