-- ==== Sys2Proof/Machine/Board.lean ====
section
/-! DEFINITION. The board's interfaces: the I3C target (R375, R379), JTAG (R380, R387), attestation (R392, R416), and the end of a
firmware switch, which lets held I3C commands go on (R366). -/

namespace Sys2Proof.Machine

/-! PWR_ registers as they read (Table 16-3). -/

/-- The hottest good reading and its sensor, the lowest of equals. -/
def Power.hottest (p : Power) : Option (BitVec 16 × Nat) :=
  ((List.range 64).zip p.sensors.toList).foldl (fun m x =>
    if x.2.failed || !x.2.sampled then m
    else
      match m with
      | some (v, _) => if v.toInt < x.2.last.toInt then some (x.2.last, x.1) else m
      | none => some (x.2.last, x.1)) none
def Power.reg (p : Power) (i : Nat) : W32 :=
  match i with
  | 0 => BitVec.ofNat 32 (b2n p.mainEn * 2 ^ 31 + p.limit.toNat)
  | 1 => BitVec.ofNat 32 (b2n p.mainPg * 2 ^ 31 + b2n p.trip * 2 ^ 30 + b2n p.overcurrent * 2 ^ 29 + b2n p.thermal * 2 ^ 28
      + b2n p.powerStretch * 2 ^ 27 + b2n p.mainLow * 2 ^ 26 + p.sensors.toList.countP (·.failed))
  | 2 => BitVec.ofNat 32 (p.vin.toNat * 2 ^ 20 + p.powerW.toNat * 2 ^ 8 + p.vstby.toNat)
  | 3 => (match p.hottest with
      | some (v, n) => BitVec.ofNat 32 (v.toNat * 2 ^ 16 + n)
      | none => 0)
  | 4 => BitVec.ofNat 32 (p.alertMask.toNat * 2 ^ 8 + p.alertStatus.toNat)
  | _ => 0
/-- MGT_ALERT_L is asserted while an unmasked status bit is set. -/
def Power.alertPin (p : Power) : Bool := p.alertStatus &&& ~~~p.alertMask != 0

/-! The I3C target (R379). -/

def State.i3cAnswer (s : State) (bs : List Byte) : State := { s with side := { s.side with i3cReply := bs } }
def State.i3cBad (s : State) : State := s.i3cAnswer [Status.badDescriptor]
/-- A command of the target: it works while the standby POR is released and the lands are not cut off. -/
def State.i3c (s : State) (g : State → State) : Out := .next (if s.power.porReleased && !s.landsCut then g s else s)

/-- The static address of the target; a row of the target is a command that the board sent to it (R379). -/
def Power.i3cAddress (p : Power) : Nat := 0x60 + p.strap.toNat
/-- I3C_REG_READ; an unknown command is answered as one out of range (R379). -/
def execI3cRegRead (c : I3cRead) (s : State) : Out :=
  s.i3c (fun s => match c with
    | .reg index => if 4 < index.toNat then s.i3cBad else s.i3cAnswer (0 :: natLE 4 (s.power.reg index.toNat).toNat)
    | .unknown _ => s.i3cBad)
/-- I3C_REG_WRITE. -/
def execI3cRegWrite (index : Byte) (v : W32) (s : State) : Out :=
  s.i3c (fun s => if 4 < index.toNat then s.i3cBad else (s.setPwr index.toNat v).i3cAnswer [0])
/-- SENSOR_READ. -/
def execSensorRead (index : Byte) (s : State) : Out :=
  s.i3c (fun s =>
    if 63 < index.toNat then s.i3cBad
    else
      let q := s.power.sensors[finOf 64 index.toNat]
      s.i3cAnswer (0 :: natLE 2 (if q.failed then 0x8000 else q.last.toNat)))
/-- I3C_RESET: a value in the format of MGT_RESET. A cold reset leaves no reply. -/
def execI3cReset (v : W32) (s : State) : Out :=
  s.i3c (fun s =>
    let t := s.setReset v
    if fld v 31 16 == 0xA5C3 && bit v 2 then t else t.i3cAnswer [0])
/-- I3C_LOG_READ: an empty slot reads as zeros. -/
def execI3cLogRead (slot : W16) (s : State) : Out :=
  s.i3c (fun s =>
    if 4095 < slot.toNat then s.i3cBad
    else s.i3cAnswer (0 :: (match s.log.slot? slot.toNat with
      | some e => e.bytes
      | none => List.replicate 64 0)))
/-- Stages as Table 16-7 encodes them. -/
def Stage.number : Stage → Nat
  | .off => 0 | .listen => 1 | .align => 2 | .identify => 3 | .train => 4 | .check => 5 | .up => 6 | .down => 7 | .miswired => 8
  | .fault => 9
/-- LINK_STATUS. -/
def execLinkStatus (s : State) : Out :=
  s.i3c (fun s => s.i3cAnswer (0 :: s.links.toList.map (fun k => BitVec.ofNat 8 (b2n k.present * 128 + k.stage.number))))

/-- A memory command of the management core, from its address on. -/
def State.memGo (s : State) (isRead : Bool) (addr : W64) (form : Byte) (len : Nat) (data : List Byte) : State :=
  match s.mgmtAddress addr (form == 1) len with
  | none => (s.logs Code.addressInvalid).i3cBad
  | some base =>
    match s.openRequest true (.i3c isRead) base len (if isRead then none else some data) 0 0 with
    | none => s.i3cAnswer [Status.retry]
    | some t => t
/-- Operands of MEM_READ and MEM_WRITE (Table 16-7). -/
def memOk (isRead : Bool) (form len : Byte) (data : List Byte) : Bool :=
  decide (form.toNat ≤ 1) && decide (16 ≤ len.toNat) && decide (len.toNat ≤ 64) && len.toNat % 16 == 0 && (isRead || data.length == len.toNat)
def State.mem (s : State) (isRead : Bool) (addr : W64) (form len : Byte) (data : List Byte) : State :=
  if !memOk isRead form len data then s.i3cBad
  else if !s.power.mainPg then s.i3cAnswer [Status.notPermitted]
  else if s.inHold .managementComplex then s.i3cAnswer [Status.unitReset]
  else if s.boot.stage == .switching then
    ({ s with side := { s.side with i3cHeld := s.side.i3cHeld ++ [(isRead, addr, form, len.toNat, data)] } }).i3cAnswer [Status.retry]
  else if !s.fwServes then s.i3cAnswer [Status.retry]
  else (s.i3cAnswer []).memGo isRead addr form len.toNat data
/-- MEM_READ. -/
def execMemRead (addr : W64) (form : Byte) (len : Byte) (s : State) : Out := s.i3c (fun s => s.mem true addr form len [])
/-- MEM_WRITE. -/
def execMemWrite (addr : W64) (form : Byte) (len : Byte) (data : List Byte) (s : State) : Out :=
  s.i3c (fun s => s.mem false addr form len data)

/-- FW_SWITCH_COMPLETE: the switch ends; held I3C commands go on when firmware runs. With the SPI interface cut off nothing is written to the
flash (R380). -/
def execFwSwitchComplete (flashOk : Bool) (s : State) : Out :=
  .next (
    if s.boot.stage != .switching then s
    else
      let s := s.fwSwitched (flashOk && !s.landsCut)
      let hs := s.side.i3cHeld
      let s := { s with side := { s.side with i3cHeld := [] } }
      hs.foldl (fun s x =>
        if !s.power.mainPg then s.i3cAnswer [Status.notPermitted]
        else if !s.fwServes then s.i3cAnswer [Status.retry]
        else s.memGo x.1 x.2.1 x.2.2.1 x.2.2.2.1 x.2.2.2.2) s)

/-! JTAG (R380, R387). -/

/-- IDCODE. -/
def idcode : W32 :=
  BitVec.ofNat 32 (Config.stepping.toNat * 2 ^ 28 + (if Config.isLX then 0x0509 else 0x0508) * 2 ^ 12 + 0x6E5 * 2 + 1)
/-- May an instruction load now? -/
def State.jtagLoads (s : State) (op : JtagOp) : Bool :=
  match op with
  | .bypass | .idcode | .samplePreload _ => true
  | .extest | .clamp | .highz => !s.power.mainPg
  | .internalDebug _ => Config.isLX
/-- Levels of the lands that the boundary register covers: they follow it while EXTEST, CLAMP or HIGHZ is the current instruction (R380). The
levels of the straps after their sampling and of the serial buses are the board's: v. -/
def State.lands (s : State) (v : Nat) : Lands :=
  if s.landsCut then s.side.boundary
  else
    { present := BitVec.ofNat 6 ((allLinks.filter (fun l => !(s.link l).present)).map (fun l => 2 ^ l.val)).sum
      perst := !s.power.perst, address := BitVec.ofNat 3 (v / 2 ^ 20), alert := !s.power.alertPin, mainPg := s.power.mainPg
      serial := BitVec.ofNat 20 v }
/-- THERMTRIP_L, which no boundary register covers: low while the trip stands (R380, R383). -/
def State.thermtripLand (s : State) : Bool := !s.power.thermtrip
def State.tdo (s : State) (x : JtagData) : State := { s with side := { s.side with jtagOut := x } }
/-- The partition whose map golden copy an access to a reserve meets: one of the die's (Table 03-1). -/
def goldenHolder (d : DieId) (part : ReservePart) (p : Option PartId) : Option PartId :=
  if part == .mapGolden then p.filter (fun q => (dieParts d).contains q) else none
/-- Bytes off on of the map golden copy that an access to a reserve meets; none of a structure whose form is not stated. -/
def State.goldenAt (s : State) (h : Option PartId) (off n : Nat) : List Byte :=
  match h.bind (fun p => (s.part p).mapGold) with
  | some m => slice m.bytes off n
  | none => []
/-- Write over bytes off on of a map golden copy. -/
def State.writeGolden (s : State) (h : Option PartId) (off : Nat) (bs : List Byte) : State :=
  match h with
  | some p => s.modPart p (fun q => { q with mapGold := q.mapGold.map (fun m =>
      let old := m.bytes
      readMap (old.take off ++ bs.take (old.length - off) ++ old.drop (off + bs.length))) })
  | none => s
/-- What an internal debug instruction does. A write mends the words that it covers whole. What a scan chain holds, and the rest of a reserve, is
not stated: it reads as a free value, and no write to it changes what the model holds (DESIGN CHOICE, log 167). -/
def State.debugAccess (s : State) (x : DebugAccess) : State :=
  match x with
  | .read a n => s.tdo (.bytes (s.rd a.toNat n.toNat))
  | .write a bs =>
    ((s.wr a.toNat (bs.take (2 ^ 36 - a.toNat))).modSram (fun m =>
      { m with ecc := m.ecc.filter (fun e => !(a.toNat ≤ e.1 * 16 && e.1 * 16 + 16 ≤ a.toNat + bs.length)) })).tdo .none
  | .reserveRead d part p _ off n =>
    let (v, s) := s.draw
    let known := s.goldenAt (goldenHolder d part p) off.toNat n.toNat
    s.tdo (.bytes (known ++ (natLE n.toNat v).drop known.length))
  | .reserveWrite d part p w off bs =>
    ((s.modSram (fun m =>
      { m with reserve := m.reserve.filter (fun e => !(e.die == d && w.val ≤ e.word && e.word < w.val + bs.length / 16)) })).writeGolden
        (goldenHolder d part p) off.toNat bs).tdo .none
  | .scanOut _ n =>
    let (v, s) := s.draw
    s.tdo (.bytes (natLE n.toNat v))
  | .scanIn _ bs =>
    let (v, s) := s.draw
    s.tdo (.bytes (natLE bs.length v))
/-- An instruction becomes the current one, and captures what it selects. -/
def State.jtagLoad (s : State) (op : JtagOp) : State :=
  let t := { s with side := { s.side with jtag := op } }
  match op with
  | .bypass | .extest | .clamp | .highz => t.tdo .none
  | .idcode => t.tdo (.idcode idcode)
  | .samplePreload p =>
    let (v, t) := t.draw
    let t := t.tdo (.lands (t.lands v))
    { t with side := { t.side with boundary := p } }
  | .internalDebug x => t.debugAccess x
/-- JTAG_INSTRUCTION: one that may not load loads as BYPASS. -/
def execJtagInstruction (op : JtagOp) (s : State) : Out :=
  .next (
    if !s.power.porReleased then s
    else if s.jtagLoads op then s.jtagLoad op
    else (s.jtagLoad .bypass).logs Code.jtagRefused)

/-! Attestation (R392, Table 17-3). -/

/-- A request over DOE of PF0, which comes over the PCIe lanes (Table 12-1, R378). -/
def State.spdm (s : State) (r : SpdmReply) : Out := s.overHost (fun s => { s with side := { s.side with spdm := r } })
/-- Measurement block 5. -/
def State.mapBlock (s : State) : List Byte :=
  if (s.fn 0).setupLock then
    sha384 (natLE 4 s.mgt.machineId.toNat ++ natLE 4 s.mgt.topology.toNat ++ natLE 4 s.mgt.chipId.toNat
      ++ s.links.toList.flatMap (fun k => natLE 4 k.peerExpect.toNat))
  else List.replicate 48 0
def KeyState.number : KeyState → Nat
  | .empty => 0 | .enrolled => 1 | .revoked => 2
/-- Measurement block 6 (R416). -/
def State.keyBlock (s : State) : List Byte :=
  sha384 (s.mgt.keys.toList.flatMap (fun k =>
    natLE 1 k.state.number ++ (if k.state == .empty then List.replicate 96 0 else natLE 48 k.x.toNat ++ natLE 48 k.y.toNat)))
def State.block (s : State) (n : Nat) : List Byte :=
  match n with
  | 1 => natLE 48 Config.romDigest.toNat
  | 2 => natLE 48 s.boot.fwDigest.toNat
  | 3 => natLE 4 s.boot.fwVersion.toNat ++ natLE 2 s.boot.svn.toNat ++ natLE 2 Config.fusedSvn.toNat
  | 4 => natLE 1 (b2n Config.isLX)
  | 5 => s.mapBlock
  | _ => s.keyBlock

/-- GET_VERSION: SPDM 1.2. -/
def execGetVersion (s : State) : Out := s.spdm (.version 1 2)
/-- GET_CAPABILITIES: certificates, challenge and measurements; no key exchange. -/
def execGetCapabilities (s : State) : Out := s.spdm (.capabilities true true true false)
/-- NEGOTIATE_ALGORITHMS. -/
def execNegotiateAlgorithms (s : State) : Out := s.spdm (.algorithms "ECDSA_P384" "SHA_384")
/-- GET_DIGESTS: slot 0. -/
def execGetDigests (s : State) : Out := s.spdm (.digests (shaField Config.certChain))
/-- GET_CERTIFICATE: slot 0. -/
def execGetCertificate (s : State) : Out := s.spdm (.certificate Config.certChain)
/-- CHALLENGE: the answer names the chain's digest and the nonce that it signs. -/
def execChallenge (nonce : BitVec 256) (s : State) : Out := s.spdm (.challengeAuth (shaField Config.certChain) nonce)
/-- GET_MEASUREMENTS of a block 1 to 6, answered by the management firmware. -/
def execGetMeasurements (index : Byte) (s : State) : Out :=
  s.spdm (
    if !s.fwServes then .notReady
    else if 1 ≤ index.toNat && index.toNat ≤ 6 then .measurements index.toNat (s.block index.toNat)
    else .invalid)

end Sys2Proof.Machine
end

