-- ==== Sys2Proof/Machine/Parts.lean ====
section
/-! DEFINITION. Descriptors that name partitions: UNLOAD (R85), PARTITION_RESET (R359 to R361) and PREDICATE (R93, R290). -/

namespace Sys2Proof.Machine

/-! PART_MASK. -/

def Desc.maskParts (d : Desc) : List PartId := allParts.filter (fun p => bit (d.word 2) p.val)
def Desc.maskOk (d : Desc) : Bool := d.word0Ok && d.zeros [1, 3, 4, 5, 6, 7] && fld (d.word 2) 63 8 == 0 && !d.maskParts.isEmpty
/-- A descriptor waits for partitions to reach MARKS. -/
def State.awaitMarks (s : State) (d : Desc) (ps : List PartId) : State :=
  s.modMgt (fun m => { m with unloads := m.unloads ++ [{ desc := d, left := ps, parked := none }] })

/-- UNLOAD: the partitions of one job in SET, not armed, are zeroed. -/
def execUnload (s : State) : Out :=
  .next (match s.takeMc Op.unload with
    | none => s
    | some (d, t) =>
      let ps := d.maskParts
      if !d.maskOk then t.done d Status.badDescriptor
      else if !t.vfAllowed d ps then t.done d Status.notPermitted
      else
        match ps.head?.bind t.jobOf with
        | none => t.conflict d
        | some j =>
          if j.phase == .loaded && allParts.all (fun p => ps.contains p == ((t.part p).job == some j.id)) && ps.all (fun p => (t.part p).st == .set)
          then (t.removeJob j .marks).awaitMarks d ps
          else t.conflict d)

/-! PARTITION_RESET. -/

/-- Does the descriptor name every partition of each job in SET or PARKED that it touches (R359)? -/
def State.resetWhole (s : State) (ps : List PartId) : Bool :=
  ps.all (fun p => match s.jobOf p with
    | some j => j.phase == .faulted || j.parts.all ps.contains
    | none => true)
/-- Refuse the armed starts of the named partitions (R183, R360). -/
def State.refuseNamed (s : State) (ps : List PartId) : State :=
  ps.foldl (fun s p => match s.jobOf p with
    | some j => if j.phase == .armed then s.refuseStart j Status.unitReset Code.partitionReset Code.partitionReset none else s
    | none => s) s
/-- One partition enters HOLD, its buffers POISON; a parked job ends with its event (R313, R355, R360, R398). -/
def State.resetPart (s : State) (p : PartId) : State :=
  let q := s.part p
  let j : Option Job := s.jobOf p
  let code : W16 := match j with
    | some (j : Job) => if j.phase == JobPhase.faulted then j.firstFault else Code.partitionReset
    | none => Code.partitionReset
  let vf := s.vfOf p
  let cq : Option (FnId × RingIx) := j.bind (fun j => if j.phase == .parked then some (j.fn, j.eventCq) else none)
  let s := (s.noteSlack.useRecovery (dieOfPart p)).modPart p (fun q => { q with st := .hold })
  let s := s.endWinOps [p] Status.unitReset code
  let s := match j with
    | none => s
    | some j =>
      if j.phase == JobPhase.parked then
        (s.jobEvent j 1 { status := Status.jobFaulted, fault := Code.partitionReset, synthetic := true, detail0 := s.pace.count }).removeJob j .hold
      else if j.phase == JobPhase.faulted then s
      else s.removeJob j .hold
  let s := s.modPart p (fun _ => { Partition.reset with st := .hold, zeroing := true, owner := q.owner, fault := q.fault, scrubFirst := q.scrubFirst, heldCq := cq })
  s.dropJobs.logs Code.partitionReset vf

/-- PARTITION_RESET. -/
def execPartitionReset (s : State) : Out :=
  .next (match s.takeMc Op.partReset with
    | none => s
    | some (d, t) =>
      let ps := d.maskParts
      if !d.maskOk then t.done d Status.badDescriptor
      else if t.gated d || !ps.all (t.owns d.fn) then t.done d Status.notPermitted
      else if !(ps.all (fun p => let st := (t.part p).shown; st == .marks || st == .set || st == .parked || st == .faulted)) || !t.resetWhole ps then
        t.conflict d
      else (ps.foldl (fun s p => s.resetPart p) (t.refuseNamed ps)).awaitMarks d ps)

/-! PREDICATE and host posts (R290). -/

def Desc.postEn (d : Desc) : Bool := bit (d.word 2) 62
def Desc.baton (d : Desc) : BatonRef := BitVec.ofNat 32 (fld (d.word 4) 31 0)
/-- Word 4 is a baton reference with POST_EN, and zero without. -/
def Desc.postOk (d : Desc) : Bool := if d.postEn then fld (d.word 4) 63 32 == 0 && !bit d.baton 0 else d.word 4 == 0
/-- Post the baton of a host descriptor; true when the post found no room: the descriptor then completes and the job faults, in that
order (R290, R352 steps 5 and 6). -/
def State.hostPost (s : State) (d : Desc) (p : PartId) (payload : BitVec 96) : State × Bool :=
  let r := d.baton
  if (s.part p).st == .parked then s.parkedPost p (refTile r) (refQueue r) (mkEntry payload (refId r) (refGen r) 0xFF)
  else if !((s.part p).hasRoom (refTile r) (refQueue r)) then (s, true)
  else
    ((s.modPart p (fun q => q.push (refTile r) (refQueue r) (mkEntry payload (refId r) (refGen r) 0xFF))).settle p, false)

/-- A host post found no room (R68, R290). -/
def State.postOverrun (s : State) (p : PartId) : State := s.partJobFault p Code.queueOverrun { Loc.base 7 with part := p.val }

def Desc.predicateOk (d : Desc) : Bool :=
  d.word0Ok && d.zeros [1, 5, 6, 7] && fld (d.word 2) 61 3 == 0 && !bit (d.word 2) 63 && fld (d.word 3) 63 32 == 0 && d.postOk
/-- PREDICATE: bits under MASK are written, then the baton is posted. -/
def execPredicate (s : State) : Out :=
  .next (match s.takeRe Op.predicate with
    | none => s
    | some (d, t) =>
      let p := d.lead
      if !d.predicateOk then t.done d Status.badDescriptor
      else if !t.vfAllowed d [p] then t.done d Status.notPermitted
      else if (t.part p).st != .run then t.conflict d
      else
        let mask : W16 := BitVec.ofNat 16 (fld (d.word 3) 31 16)
        let v : W16 := BitVec.ofNat 16 (fld (d.word 3) 15 0)
        let t := t.modPart p (fun q => { q with pred := (q.pred &&& ~~~mask) ||| (v &&& mask) })
        if !d.postEn then t.done d Status.success
        else
          match t.hostPost d p 0 with
          | (t, false) => t.done d Status.success
          | (t, true) => (t.complete d { status := Status.jobFaulted, fault := Code.queueOverrun }).postOverrun p)

end Sys2Proof.Machine
end

