-- ==== Sys2Proof/Machine/Window.lean ====
section
/-! DEFINITION. TRANSFER, HEADER_CLAIM and WINDOW_CLOSE (R69, R290, R308 to R311). -/

namespace Sys2Proof.Machine

/-! TRANSFER. -/

def Desc.toHost (d : Desc) : Bool := bit (d.word 2) 63
def Desc.transferPart (d : Desc) : PartId := finOf 8 (fld (d.word 2) 35 33)
def Desc.partOffset (d : Desc) : Nat := fld (d.word 2) 32 0
def Desc.transferOk (d : Desc) : Bool :=
  d.word0Ok && winOffsetOk (d.word 1) && d.zeros [5, 6, 7] && fld (d.word 2) 61 36 == 0 && fld (d.word 3) 63 32 == 0
  && d.length % 16 == 0 && decide (16 ≤ d.length) && d.postOk

/-- What the check of an SRAM range finds. -/
inductive DmaCheck where
  | ok | lost | region (r : Loc) | diverged (r : Loc)
/-- The whole SRAM range lies in one region with host-window (R69, R70, Table 03-8). -/
def State.dmaCheck (s : State) (d : Desc) : State × DmaCheck :=
  let p := d.transferPart
  let off := d.partOffset
  let r : Loc := { Loc.base 7 with part := p.val, access := Kind.window, address := some (off : Int) }
  match s.consultAll p r with
  | (s, .lost) => (s, .lost)
  | (s, .noMap) => (s, .region r)
  | (s, .diverged i) => (s, .diverged { r with region := some i })
  | (s, .entries es) =>
    match regionOf es off 1 with
    | none => (s, .region r)
    | some (i, e) =>
      if !(meHas e Kind.window) then (s, .region { r with region := some i })
      else if meStart e + meLen e < off + d.length then
        (s, .region { r with region := some i, address := some ((meStart e + meLen e : Nat) : Int) })
      else (s, .ok)
/-- Step 2 of a TRANSFER: none when it has completed with a failure. -/
def State.dmaStep (s : State) (d : Desc) : State × Bool :=
  match s.dmaCheck d with
  | (s, .ok) => (s, true)
  | (s, .lost) => (s.complete d { status := Status.jobFaulted, fault := Code.goldenLost, synthetic := true }, false)
  | (s, .region r) => ((s.logAt Code.dmaRegion d.fn.val r).complete d { status := Status.badDescriptor, fault := Code.dmaRegion }, false)
  | (s, .diverged r) =>
    ((s.complete d { status := Status.jobFaulted, fault := Code.mapDiverged, synthetic := true }).partJobFault d.transferPart Code.mapDiverged r, false)

/-- TRANSFER: steps 1 and 2; it then waits for its header. -/
def execTransfer (s : State) : Out :=
  .next (match s.takeRe Op.transfer with
    | none => s
    | some (d, t) =>
      let p := d.transferPart
      let st := (t.part p).st
      if !d.transferOk then t.done d Status.badDescriptor
      else if !t.vfAllowed d [p] then t.done d Status.notPermitted
      else if !(st == .set || st == .run || st == .parked) then t.conflict d
      else
        match t.dmaStep d with
        | (t, false) => t
        | (t, true) => t.pushOp (t.winOp d (some p)))

/-! The movement of a TRANSFER's data (step 9). -/

/-- SRAM bytes go to the host one leaf page at a time, each page's bytes read when it has been translated (R309). moved counts those of the pages
before; as the data of a page are read the descriptor holds its buffer with them (R313). A word that cannot be delivered has ended it. -/
def State.moveOut (s : State) (o : WinOp) (a len : Nat) (r : Loc) : Nat → Nat → State
  | 0, _ => s
  | fuel + 1, moved =>
    let put := fun (n : Nat) (o : WinOp) => { o with phase := .close 0 o.claim n false (BitVec.ofNat 64 n) 0 0 }
    if len ≤ moved then s
    else
      match s.walk o.root (o.offset.toNat + 64 + moved) (len - moved) true with
      | .fail f => s.winCut (put moved o) moved (f, o.offset.toNat + 64 + moved)
      | .page b n =>
        match s.fetchBytes (a + moved) n r with
        | (s, none) => s
        | (s, some bs) => ((s.hostWrite b bs).setOp (put moved o) (put (moved + n) o)).moveOut o a len r fuel (moved + n)
/-- A TRANSFER whose header is open. While it moves it counts as holding its buffer with what has moved (R313; log 69). -/
def State.moveData (s : State) (o : WinOp) : State :=
  let d := o.desc
  let a := partBase d.transferPart + d.partOffset
  let r : Loc := { Loc.base 7 with part := d.transferPart.val, access := Kind.window }
  let o' : WinOp := { o with phase := .close 0 o.claim 0 false 0 0 0 }
  let s := s.setOp o o'
  if d.toHost then
    s.moveOut o a d.length r d.length 0
  else
    match s.winRead o.root d.length (o.offset.toNat + 64) d.length with
    | (bs, cut) =>
      match s.store a bs r with
      | (s, false) => s
      | (s, true) =>
        match cut with
        | some f => s.winCut o' bs.length f
        | none => s.toClose o' 0 bs.length false (BitVec.ofNat 64 bs.length) 0 0
/-- A TRANSFER from step 3 on: its SRAM range still stands when it claims its header. -/
def State.transferGo (s : State) (o : WinOp) : State :=
  match s.dmaStep o.desc with
  | (s, false) => s
  | (s, true) =>
    match s.openHeader o with
    | .ended s => s
    | .opened s o => if o.hdr.len < o.desc.length then s.shortBuf o o.desc.length else s.moveData o

/-! HEADER_CLAIM. -/

/-- Needs a descriptor a request slot before it can go on (R262)? -/
def State.needsSlot (s : State) (d : Desc) : Bool :=
  d.opcode == Op.mgmtRead || d.opcode == Op.mgmtWrite || (d.opcode == Op.query && s.remoteQuery d)
/-- May a waiting descriptor claim its header and go on? Those of the Management Complex need its firmware. -/
def State.mayClaim (s : State) (o : WinOp) : Bool :=
  o.phase == .waiting && (o.desc.opcode == Op.transfer || s.fwServes) && (!s.needsSlot o.desc || (s.freeReq true).isSome) && s.canClaim o
/-- A descriptor from step 3 on, by its opcode. -/
def State.goOn (s : State) (o : WinOp) : State :=
  let op := o.desc.opcode
  if op = Op.transfer then s.transferGo o
  else if op = Op.load then (s.loadGo o).fwProceed
  else if op = Op.query then s.queryGo o
  else if op = Op.logRead then s.logReadGo o
  else if op = Op.start then s.startGo o
  else if op = Op.resume then s.resumeGo o
  else s.mgmtGo o

/-! WINDOW_CLOSE (R311). -/

/-- The post of a TRANSFER that ended well (R290); true when it found no room. A partition whose job is no longer there takes none. -/
def State.closePost (s : State) (o : WinOp) (status : Byte) : State × Bool :=
  let d := o.desc
  let p := d.transferPart
  if d.opcode != Op.transfer || status != 0 || !d.postEn || !((s.part p).st == .run || (s.part p).st == .set || (s.part p).st == .parked) then (s, false)
  else s.hostPost d p (BitVec.ofNat 96 (d.length * 2 ^ 64))
/-- Close a descriptor: its post, its header, its completion. -/
def State.closeOp (s : State) (o : WinOp) (status : Byte) (h : Option Nat) (moved : Nat) (early : Bool) (d0 d1 : W64) (fault : W16) : State :=
  let d := o.desc
  let (s, full) := (s.dropOp o).closePost o status
  let status := if full then Status.jobFaulted else status
  let s := match h with
    | some a => s.writeHeader a o.hdr Owner.host status early moved (if status.toNat / 16 = 1 then fault else 0) d.tag
    | none => s
  let s := s.complete d
    { status := status, detail0 := d0, detail1 := d1, fault := (if full then Code.queueOverrun else fault), part := early }
  if full then s.postOverrun d.transferPart else s

/-- WINDOW_CLOSE: the first descriptor whose data movement has ended. A firmware update that waited for a load goes on (R365). -/
def execWindowClose (s : State) : Out :=
  .next (match s.hiu.winOps.find? (fun o => match o.phase with | .close .. => true | _ => false) with
    | none => s
    | some o =>
      match o.phase with
      | .close st h moved early d0 d1 f =>
        let t := s.closeOp o st h moved early d0 d1 f
        if o.desc.opcode = Op.load then t.fwProceed else t
      | _ => s)

end Sys2Proof.Machine
end

