-- ==== Sys2Proof/Machine/Headers.lean ====
section
/-! DEFINITION. HEADER_CLAIM: what waits at step 3 of Table 13-6 goes on when its header can be claimed (R310). -/

namespace Sys2Proof.Machine

/-- A firmware update or the enable of a tenant service ring that can claim its header now; the service transmit ring goes on in its own row. -/
def State.waiter (s : State) : Option HeaderWait := s.hiu.headerWaits.find? (fun x => x.user != .tx && s.mayTake x)
/-- It goes on. -/
def State.waiterGoes (s : State) (x : HeaderWait) : State :=
  match x.user with
  | .firmware => s.fwProceed
  | .tring n => (s.endWait (.tring n)).tringGo n x.root
  | .tx => s

/-- HEADER_CLAIM: of what waits, the first in the order of arrival that can claim its header does, and goes on (R310). -/
def execHeaderClaim (s : State) : Out :=
  .next (match s.hiu.winOps.find? s.mayClaim, s.waiter with
    | none, none => s
    | some o, none => s.goOn o
    | none, some x => s.waiterGoes x
    | some o, some x => if x.after.contains o then s.goOn o else s.waiterGoes x)

end Sys2Proof.Machine
end

