-- ==== Sys2Proof/Machine/Mover.lean ====
section
/-! DEFINITION. The Mover: COPY, FILL, GATHER and SCATTER (R112 to R115, Table 05-10). -/

namespace Sys2Proof.Machine

/-- Read a loop descriptor, as a mover access at command start (R112). -/
def readLoops (a : Acc) (l : LoopRef) : Eng Loops := do
  let bs ← a.read Kind.mover l.region l.offset 64
  pure (Loops.ofBytes bs)

/-- Is a descriptor well formed: every COUNT nonzero and every Rsvd field zero (R113)? -/
def Loops.ok (l : Loops) : Bool := !l.rsvd && l.counts.all (· != 0)

/-- A LOOP_MALFORMED fault names the descriptor's region. -/
def loopFault (a : Acc) (l : LoopRef) : Eng Unit :=
  a.fault Code.loopMalformed { a.loc with region := some l.region, access := Kind.mover }

/-- Element size of a command's transfer. -/
def moverSize (w : W64) : Nat := (Ref.ofWord w).fmt.size

/-- Read the element of a walk at an index tuple. -/
def walkRead (a : Acc) (x : Ref) (l : Loops) (size n : Nat) : Eng (List Byte) :=
  let ix := loopIndex l.counts n
  { a with loops := some ix }.read Kind.mover x.region (x.offset + size * l.offset ix) size
/-- Write the element of a walk at an index tuple. -/
def walkWrite (a : Acc) (x : Ref) (l : Loops) (n : Nat) (bs : List Byte) : Eng Unit :=
  let ix := loopIndex l.counts n
  { a with loops := some ix }.write Kind.mover x.region (x.offset + bs.length * l.offset ix) bs

/-- Do the work of visits 0 to n - 1 in order. -/
def visits (f : Nat → Eng Unit) : Nat → Eng Unit
  | 0 => pure ()
  | n + 1 => do
    visits f n
    f n

/-- COPY: one element at a time in walk order; with TRANSPOSE block by block, with L0 and L1 exchanged (R113 to R115). Of a transposed COPY
whose source and destination bytes overlap, each block is read whole before an element of it is written (DESIGN CHOICE, log 177). -/
def copyBody (a : Acc) (_ : List QEntry) : Eng (BitVec 96) := do
  let c := a.cmd.cmd
  let src := Ref.ofWord (c.word 3)
  let dst := Ref.ofWord (c.word 4)
  let size := src.fmt.size
  let lsRef := LoopRef.ofWord (c.word 5)
  let ldRef := LoopRef.ofWord (c.word 6)
  let ls ← readLoops a lsRef
  let ld ← readLoops a ldRef
  let s ← get
  let feature13 : Bool := match s.jobOf a.part with
    | some j => bit j.image.featureReq 13
    | none => false
  let c0 := ls.counts.headD 1
  let c1 := ls.counts.getD 1 1
  if !ls.ok then loopFault a lsRef
  if !ld.ok || ld.transpose then loopFault a ldRef
  if ls.total != ld.total then loopFault a lsRef
  if ls.transpose && (!feature13 || decide (c0 * c1 * size > 65536)) then loopFault a lsRef
  if ls.transpose then
    let block := c0 * c1
    visits (fun b => do
      let es ← (List.range block).mapM (fun n => walkRead a src ls size (b * block + n))
      visits (fun n => walkWrite a dst ld (b * block + n) (es.getD (n % c1 * c0 + n / c1) [])) block) (ls.total / block)
  else
    visits (fun n => do
      let bs ← walkRead a src ls size n
      walkWrite a dst ld n bs) ls.total
  pure 0

/-- FILL: the value of word 7 along the destination walk. -/
def fillBody (a : Acc) (_ : List QEntry) : Eng (BitVec 96) := do
  let c := a.cmd.cmd
  let dst := Ref.ofWord (c.word 4)
  let ldRef := LoopRef.ofWord (c.word 6)
  let ld ← readLoops a ldRef
  if !ld.ok || ld.transpose then loopFault a ldRef
  visits (fun n => walkWrite a dst ld n (natLE dst.fmt.size (c.word 7).toNat)) ld.total
  pure 0

/-- Move one row of GATHER or SCATTER: the index names the row of the table. The record's L0 is the element, L1 the list position. -/
def rowMove (a : Acc) (gather : Bool) (table rows list : Ref) (elems n : Nat) : Eng Unit := do
  let size := table.fmt.size
  let bs ← { a with loops := some [0, n] }.read Kind.mover list.region (list.offset + 4 * n) 4
  let k : Int := signed 32 (leNat bs)
  visits (fun e => do
    let b := { a with loops := some [e, n] }
    let ta : Int := table.offset + k * ((table.pitch * size : Nat) : Int) + ((e * size : Nat) : Int)
    let ra : Int := ((rows.at n e : Nat) : Int)
    if gather then do
      let v ← b.read Kind.mover table.region ta size
      b.write Kind.mover rows.region ra v
    else do
      let v ← b.read Kind.mover rows.region ra size
      b.write Kind.mover table.region ta v) elems

def gatherBody (a : Acc) (_ : List QEntry) : Eng (BitVec 96) := do
  let c := a.cmd.cmd
  visits (rowMove a true (Ref.ofWord (c.word 3)) (Ref.ofWord (c.word 4)) (Ref.ofWord (c.word 5)) (rowElems c)) (rowCount c)
  pure 0
def scatterBody (a : Acc) (_ : List QEntry) : Eng (BitVec 96) := do
  let c := a.cmd.cmd
  visits (rowMove a false (Ref.ofWord (c.word 4)) (Ref.ofWord (c.word 3)) (Ref.ofWord (c.word 5)) (rowElems c)) (rowCount c)
  pure 0

/-- COPY (R113). -/
def execCopy (t : TileId) (s : State) : Out := .next (s.runOn t .mover 3 0x01 copyBody)
/-- FILL (R114). -/
def execFill (t : TileId) (s : State) : Out := .next (s.runOn t .mover 3 0x02 fillBody)
/-- GATHER (R114). -/
def execGather (t : TileId) (s : State) : Out := .next (s.runOn t .mover 3 0x03 gatherBody)
/-- SCATTER (R114). -/
def execScatter (t : TileId) (s : State) : Out := .next (s.runOn t .mover 3 0x04 scatterBody)

end Sys2Proof.Machine
end

