-- ==== Sys2Proof/Machine/Predicate.lean ====
section
/-! DEFINITION. Predicate commands, which run on the Vector Engine (R93, R119). -/

namespace Sys2Proof.Machine

/-- A comparison by COND: every comparison with NaN is false but NE (R119). -/
def condHolds (cond : Nat) (x y : Val) : Bool :=
  match cond with
  | 0 => x.eq y
  | 1 => !(x.eq y)
  | 2 => x.lt y
  | 3 => x != .nan && y != .nan && !(y.lt x)
  | 4 => y.lt x
  | 5 => x != .nan && y != .nan && !(x.lt y)
  | _ => false

/-- Write a predicate bit; the payload carries the written bit as RESULT (R93, Table 05-4). -/
def writePred (a : Acc) (n : Nat) (b : Bool) : Eng (BitVec 96) := do
  modify (fun s => s.modPart a.part (fun q => { q with pred := setBitTo q.pred n b }))
  pure (payload (BitVec.ofNat 32 (b2n b)) Exc.zero)

/-- The elements of X: contiguous from its OFFSET, every one of COUNT read. -/
def predElems (a : Acc) : Eng (List Val) :=
  let x := Ref.ofWord (a.cmd.cmd.word 3)
  (List.range (predCount a.cmd.cmd)).mapM (fun k => a.elem Kind.tileRead x 0 k)
/-- IMM in the kind of X's format. -/
def predImmVal (isInt : Bool) (w : W32) : Val := if isInt then Fmt.int32.decode w.toNat else f32 w

def cmpBody (all : Bool) (a : Acc) (_ : List QEntry) : Eng (BitVec 96) := do
  let c := a.cmd.cmd
  let xs ← predElems a
  let imm := predImmVal (Ref.ofWord (c.word 3)).fmt.isInt (predImm c)
  let hit := fun v => condHolds (predCond c) v imm
  writePred a (predBit c) (if all then xs.all hit else xs.any hit)

/-- RESULT of the entry that WAIT0 consumed; a void one reads as 0. -/
def payloadBody (a : Acc) (es : List QEntry) : Eng (BitVec 96) :=
  let c := a.cmd.cmd
  let r : W32 := match es.head? with
    | some e => if qVoid e then 0 else payloadResult (qPayload e)
    | none => 0
  let v := predImmVal (predIsInt c) r
  writePred a (predBit c) (condHolds (predCond c) v (predImmVal (predIsInt c) (predImm c)))

def setBitBody (a : Acc) (_ : List QEntry) : Eng (BitVec 96) :=
  writePred a (predBit a.cmd.cmd) (bit (predImm a.cmd.cmd) 0)

/-- CMP_ANY (R119). -/
def execCmpAny (t : TileId) (s : State) : Out := .next (s.runOn t .vector 6 0x01 (cmpBody false))
/-- CMP_ALL (R119). -/
def execCmpAll (t : TileId) (s : State) : Out := .next (s.runOn t .vector 6 0x02 (cmpBody true))
/-- CMP_PAYLOAD (R119). -/
def execCmpPayload (t : TileId) (s : State) : Out := .next (s.runOn t .vector 6 0x03 payloadBody)
/-- SET_BIT (R119). -/
def execSetBit (t : TileId) (s : State) : Out := .next (s.runOn t .vector 6 0x04 setBitBody)

end Sys2Proof.Machine
end

