-- ==== Sys2Proof/Machine/Service.lean ====
section
/-! DEFINITION. The receive parser (R321, R322), the length checks (R323), the service header (R324, R325), delivery (R326 to R329),
time-stamps (R338, R339), the service transmit ring (R330, R331), and the requests of channels 0 to 3 (R332 to R334). -/

namespace Sys2Proof.Machine

/-! Time-stamps (R338). The device clock in units of 2^-32 ns, as an exact number. -/

def nsUnits : Int := 2 ^ 32
def secUnits : Int := 10 ^ 9 * nsUnits
def Clock.units (c : Clock) : Int := c.sec.toNat * secUnits + c.ns.toNat * nsUnits + c.frac.toNat
/-- TX_CORR and RX_CORR in halves of a nanosecond (Table 14-9). -/
def SvcPort.corr (q : SvcPort) (k : SubPort) : Nat × Nat :=
  if q.mode = 1 then (128, 363)
  else
    match q.fec[k].toNat with
    | 0 => (104, 82)
    | 1 => (117, 530)
    | _ => (142, 660)
/-- A stamp of a port or sub-port: the clock, the quarter nanoseconds since its tick, the correction and PTP_SPn_ADJk. -/
def State.stampAt (s : State) (p : PortId) (k : SubPort) (phase : BitVec 4) (tx : Bool) (id : W16) : TxStamp :=
  let c := (s.port p).corr k
  let half : Int := if tx then (c.1 : Int) else -(c.2 : Int)
  let adj : Int := (s.clock.stamps[p].adj[k]).toInt
  let t : Int := s.clock.units + phase.toNat * 2 ^ 30 + half * 2 ^ 31 + adj * 2 ^ 24
  let r := t % secUnits
  { id := id, sub := k, sec := BitVec.ofInt 32 (t / secUnits), ns := BitVec.ofInt 30 (r / nsUnits), frac := BitVec.ofInt 32 (r % nsUnits) }

/-! Counters of a port (Table 18-6). -/

inductive RxCount where
  | rxErr | rxFiltered | parseDepth | lenShort | lenContra | zshLen | lenExcess | csumBad | zshDrop | mgmtDrop
  deriving DecidableEq, Repr
def RxCount.ix : RxCount → Fin 10
  | .rxErr => 0
  | .rxFiltered => 1
  | .parseDepth => 2
  | .lenShort => 3
  | .lenContra => 4
  | .zshLen => 5
  | .lenExcess => 6
  | .csumBad => 7
  | .zshDrop => 8
  | .mgmtDrop => 9
/-- Count at the MAC of a port or sub-port (R319). -/
def State.rxCount (s : State) (p : PortId) (k : SubPort) (c : RxCount) : State :=
  s.modPort p (fun q => { q with counters := vmod q.counters k (fun v => vmod v c.ix satInc) })

/-! The parser (R321, R322). -/

/-- What the parser finds: the number of layers and whether it stopped; the bytes of tags; the last EtherType; where the IP header
begins; bytes of the IP header and of the extension headers; where UDP and ZSH begin; where the payload begins. -/
structure Parsed where
  layers : Nat
  deep : Bool
  tagged : Bool
  etype : Nat
  ip : Option Nat
  v6 : Bool
  ipLen : Nat
  fragment : Bool
  udp : Option Nat
  zsh : Option Nat
  payload : Nat
  deriving DecidableEq, Repr

def isTag (f : List Byte) (off : Nat) : Bool := beAt f off 2 == 0x8100 || beAt f off 2 == 0x88A8
/-- Tags from the type field at off: at most three are looked for. -/
def tagsAt (f : List Byte) (off : Nat) : Nat → Nat
  | 0 => 0
  | k + 1 => if isTag f off then 1 + tagsAt f (off + 4) k else 0
/-- IPv6 extension headers from off: how many (at most three are looked for), where they end, and the Next Header then. -/
def extsAt (f : List Byte) (off next : Nat) : Nat → Nat × Nat × Nat
  | 0 => (0, off, next)
  | k + 1 =>
    if next = 0 ∨ next = 43 ∨ next = 60 then
      let r := extsAt f (off + 8 * (beAt f (off + 1) 1 + 1)) (beAt f off 1) k
      (r.1 + 1, r.2)
    else (0, off, next)
/-- UDP and ZSH behind an IP header that ends at off (R321). -/
def Parsed.transport (x : Parsed) (f : List Byte) (off next : Nat) : Parsed :=
  if next ≠ 17 then { x with payload := off }
  else
    let z := beAt f (off + 2) 2 == 47120
    { x with
      layers := x.layers + 1 + b2n z, udp := some off, zsh := if z then some (off + 8) else none
      payload := off + 8 + 24 * b2n z }
/-- Walk the headers of a frame. -/
def parseHeaders (f : List Byte) : Parsed :=
  let n := tagsAt f 12 3
  let off := 14 + 4 * n
  let t := beAt f (12 + 4 * n) 2
  let x : Parsed :=
    { layers := 1 + n, deep := decide (2 < n), tagged := decide (0 < n), etype := t, ip := none, v6 := false, ipLen := 0,
      fragment := false, udp := none, zsh := none, payload := off }
  if t = 0x0800 then
    let h := 4 * (beAt f off 1 % 16)
    let frag := beAt f (off + 6) 2 % 0x4000 != 0
    let x := { x with layers := x.layers + 1, ip := some off, ipLen := h, fragment := frag, payload := off + h }
    if frag then x else x.transport f (off + h) (beAt f (off + 9) 1)
  else if t = 0x86DD then
    let (k, e, next) := extsAt f (off + 40) (beAt f (off + 6) 1) 3
    let x :=
      { x with
        layers := x.layers + 1 + k, deep := x.deep || decide (2 < k), ip := some off, v6 := true, ipLen := e - off
        fragment := next == 44, payload := e }
    x.transport f e next
  else x
/-- Beyond the parser: more than 6 layers, a third tag or a third extension header (R322). -/
def Parsed.tooDeep (x : Parsed) : Bool := x.deep || decide (6 < x.layers)

/-! Length checks (Table 14-3). -/

/-- What the length checks decide: drop with a count, or accept, perhaps with excess. -/
inductive LenOut where
  | drop (c : RxCount)
  | accept (excess : Bool)
  deriving DecidableEq, Repr

/-- D: the IPv4 total length, or 40 plus the IPv6 payload length. -/
def Parsed.dLen (x : Parsed) (f : List Byte) (ip : Nat) : Nat := if x.v6 then 40 + beAt f (ip + 4) 2 else beAt f (ip + 2) 2
/-- Checksums of step 6. -/
def Parsed.sumsBad (x : Parsed) (f : List Byte) (ip : Nat) : Bool :=
  (!x.v6 && checksum16 (sum16 (slice f ip x.ipLen)) != 0)
  || (match x.udp with
      | none => false
      | some u =>
        let c := beAt f (u + 6) 2
        if c = 0 then x.v6
        else
          let n := beAt f (u + 4) 2
          checksum16 (pseudoSum f ip x.v6 n + sum16 (slice f u n)) != 0)
/-- The first step that applies decides. -/
def Parsed.lengths (x : Parsed) (f : List Byte) : LenOut :=
  match x.ip with
  | none => .accept false
  | some ip =>
    let have_ := f.length - ip
    let d := x.dLen f ip
    let p : Int := (d : Int) - x.ipLen
    let u : Nat := match x.udp with | some o => beAt f (o + 4) 2 | none => 0
    if have_ < d then .drop .lenShort
    else if (!x.v6 && decide (d < x.ipLen)) || (x.udp.isSome && (decide (u < 8) || decide ((u : Int) ≠ p))) then .drop .lenContra
    else if (match x.zsh with | some z => beAt f (z + 4) 2 != u - 8 | none => false) then .drop .zshLen
    else if 64 < have_ - d then .accept true
    else if d < have_ then .accept false
    else if x.sumsBad f ip then .drop .csumBad
    else .accept false

/-! Delivery (R326 to R329). -/

/-- FLAGS of a receive record (Table 14-7). -/
def Parsed.flags (x : Parsed) (excess : Bool) : Nat := 2 * b2n excess + 4 * b2n x.tagged + 8 + 16 * b2n x.fragment
/-- A frame in a ring of the management core. -/
def rxFrame (p : PortId) (st : TxStamp) (flags : Nat) (f : List Byte) : RxFrame :=
  { port := p, sub := st.sub, flags := BitVec.ofNat 8 flags, sec := st.sec, ns := st.ns, frac := st.frac, data := f }
/-- The management receive ring of 256 frames (R326). -/
def State.toMgmt (s : State) (p : PortId) (r : RxFrame) : State :=
  if 256 ≤ s.svc.mgmtRing.length then s.rxCount p r.sub .mgmtDrop
  else s.modSvc (fun v => { v with mgmtRing := v.mgmtRing ++ [r] })
/-- The exception ring of 64 frames (R322). -/
def State.toExc (s : State) (p : PortId) (r : RxFrame) : State :=
  let s := (s.rxCount p r.sub .parseDepth).logRate (.parseDepth p) Code.parseDepth
  if 64 ≤ s.svc.excRing.length then s else s.modSvc (fun v => { v with excRing := v.excRing ++ [r] })

/-- A receive record (Table 14-7). -/
def rxRecord (len payload port flags : Nat) (st : TxStamp) (seq : Nat) : List Byte :=
  natLE 2 len ++ natLE 2 payload ++ [BitVec.ofNat 8 port, BitVec.ofNat 8 flags, 0, 0] ++ natLE 4 st.sec.toNat ++ natLE 4 st.ns.toNat
    ++ natLE 2 (st.frac.toNat / 65536) ++ [0, 0] ++ natLE 4 seq ++ List.replicate 8 0
/-- A SKIP record: SKIP set and LENGTH zero; what its other fields hold is not stated. -/
def State.skipRecord (s : State) : List Byte × State :=
  let (v, s) := s.draw
  let bs := natLE 16 v
  ([0, 0] ++ slice bs 0 2 ++ [(bs.getD 2 0) &&& 7, 1, 0, 0] ++ slice bs 3 4 ++ natLE 4 (leAt bs 7 4 % 2 ^ 30) ++ slice bs 11 2 ++ [0, 0]
    ++ List.replicate 12 0, s)

def TRing.room (t : TRing) : Nat := t.size - (t.tail - t.head).toNat
/-- A window fault while a ring is written: the ring is disabled with ERROR (R328). -/
def State.tringFault (s : State) (n : TRingId) (w : WalkFail) : State :=
  ((s.modTring n (fun t => { t with enable := false, error := true, header := none })).winFault (s.tring n).fn w.code).tringStatus n
def State.tringDropped (s : State) (n : TRingId) : State := s.modTring n (fun t => { t with drop := satInc t.drop })
/-- Slots that a frame takes from TAIL on: those of a SKIP, and its own. -/
def TRing.slots (t : TRing) (len : Nat) : Nat × Nat :=
  let need := ceilDiv (32 + len) 2048
  let left := t.size - t.tail.toNat % t.size
  (if left < need then left else 0, need)
/-- Write a frame, and a SKIP record before it when there is one, then TAIL and the message (R328). -/
def State.tringWrite (s : State) (n : TRingId) (bytes : List Byte) (skip need : Nat) : State :=
  let t := s.tring n
  let at_ := fun (slot : Nat) => t.base.toNat + 64 + 2048 * (slot % t.size)
  let (rec_, s) := if skip = 0 then ([], s) else s.skipRecord
  match s.winWrite t.root 32 (at_ t.tail.toNat) rec_ with
  | (s, _, some w) => s.tringFault n w.1
  | (s, _, none) =>
    match s.winWrite t.root bytes.length (at_ (t.tail.toNat + skip)) bytes with
    | (s, _, some w) => s.tringFault n w.1
    | (s, _, none) =>
      let s := s.modTring n (fun t => { t with tail := t.tail + BitVec.ofNat 32 (skip + need), fullEpisode := false })
      (s.tringStatus n).msix t.fn t.vec
/-- The Host Interface Unit can take frames for tenant rings: without the main input or the host link they are dropped and counted (R329). -/
def State.ringsReach (s : State) : Bool := s.power.mainPg && s.hiu.port == .up
/-- A frame for a tenant service ring. HEAD is read only when room lacks; a line that cannot be read leaves HEAD as it was. -/
def State.toTring (s : State) (n : TRingId) (len : Nat) (bytes : List Byte) : State :=
  if !s.ringsReach then s.tringDropped n
  else
    let (skip, need) := (s.tring n).slots len
    let s := if skip + need ≤ (s.tring n).room then s
      else match s.hostCount (s.tring n).dbl with
        | none => s
        | some c => s.modTring n (fun t => { t with head := c })
    if skip + need ≤ (s.tring n).room then s.tringWrite n bytes skip need
    else
      let full := (s.tring n).fullEpisode
      let s := (s.tringDropped n).modTring n (fun t => { t with fullEpisode := true })
      if full then s else s.logs Code.svcRingFull (s.tring n).vf.toNat

/-! The service header (R324, R325). -/

/-- A ZSH field that R325 checks is wrong. -/
def zshWrong (f : List Byte) (z : Nat) : Bool :=
  beAt f z 2 != 0x5A48 || beAt f (z + 2) 1 != 1 || decide (4 < beAt f (z + 3) 1) || decide (beAt f (z + 4) 2 < 24)
  || decide (9146 < beAt f (z + 4) 2) || beAt f (z + 6) 2 / 8192 % 4 != 0 || decide (8 ≤ beAt f (z + 10) 1) || beAt f (z + 11) 1 != 0
  || beAt f (z + 20) 4 != 0
/-- The cases of R325. MGT_CHIP_ID not valid is one whatever ANY is (DEDUCED from the comma, log 170); a ring that is not enabled because its host is
out of reach is R329's. -/
def State.zshDropped (s : State) (p : PortId) (f : List Byte) (z : Nat) : Bool :=
  let target := beAt f (z + 6) 2
  let ch := beAt f (z + 3) 1
  let t := s.tring (finOf 32 (beAt f (z + 9) 1))
  zshWrong f z || !s.chipValid || (decide (target < 32768) && target % 8192 != s.chip.toNat)
  || (if ch = 4 then decide (31 < beAt f (z + 9) 1) || (!t.enable && s.ringsReach) || beAt f (z + 16) 4 != t.key.toNat else !(s.port p).mgmtEn)
/-- Does the management core take up requests now, outside a live update (R297, R332)? -/
def State.requestsServed (s : State) : Bool := s.boot.mode == .running && s.boot.stage == .idle
/-- The TAG of a reply: its descriptor's; a request that holds none has a free one. -/
def State.replyTag (s : State) (r : ZshRequest) : W32 × State :=
  if r.channel.toNat ≤ 1 && decide (64 ≤ r.payload.length) then (BitVec.ofNat 32 (leAt r.payload 0 4), s)
  else
    let (v, s) := s.draw
    (BitVec.ofNat 32 v, s)
/-- Answer a request at once with a status (R332). -/
def State.zshAnswer (s : State) (r : ZshRequest) (a : Ans) : State :=
  let (tag, s) := s.replyTag r
  s.zshReply r (wordsToBytes ((a.entry 0 tag none).words false 0)) []
/-- A request for the management core (channels 0 to 3). One without the REQUEST flag asks for nothing. -/
def State.toCore (s : State) (p : PortId) (k : SubPort) (f : List Byte) (x : Parsed) (ip u z : Nat) : State :=
  if beAt f (z + 10) 1 / 4 % 2 = 0 then s
  else
    let r : ZshRequest :=
      { port := p, sub := k, channel := BitVec.ofNat 8 (beAt f (z + 3) 1), vf := BitVec.ofNat 8 (beAt f (z + 8) 1)
        seq := BitVec.ofNat 32 (beAt f (z + 12) 4), header := f.take (z + 24), l3 := ip, l4 := u, v6 := x.v6
        payload := slice f (z + 24) (beAt f (z + 4) 2 - 24), taken := false }
    if s.inHold .managementComplex then s.zshAnswer r { status := Status.unitReset, synthetic := true }
    else if s.requestsServed then s.modSvc (fun v => { v with requests := v.requests ++ [r] })
    else s.zshAnswer r { status := Status.retry }

/-! ETH_FRAME_RECEIVE. -/

/-- PTP frames (Table 14-6). -/
def Parsed.ptp (x : Parsed) (f : List Byte) : Bool :=
  x.etype == 0x88F7 || (match x.udp with
    | some u => beAt f (u + 2) 2 == 319 || beAt f (u + 2) 2 == 320
    | none => false)
/-- An accepted frame goes to exactly one destination (Table 14-6). -/
def State.route (s : State) (p : PortId) (st : TxStamp) (f : List Byte) (x : Parsed) (excess : Bool) : State :=
  let ring := fun (s : State) (n : TRingId) (seq : Nat) =>
    s.toTring n f.length (rxRecord f.length x.payload (p.val + 2 * st.sub.val) (x.flags excess) st seq ++ f)
  let mgmt := fun (s : State) => s.toMgmt p (rxFrame p st (x.flags excess) f)
  match x.ip, x.udp, x.zsh with
  | some ip, some u, some z =>
    if s.zshDropped p f z then (s.rxCount p st.sub .zshDrop).logRate (.zshDropped p) Code.zshDropped
    else if beAt f (z + 3) 1 = 4 then ring s (finOf 32 (beAt f (z + 9) 1)) (beAt f (z + 12) 4)
    else s.toCore p st.sub f x ip u z
  | _, _, _ =>
    if x.ptp f && bit s.svc.ptpRing 31 then
      let n : TRingId := finOf 32 (fld s.svc.ptpRing 4 0)
      if (s.tring n).enable then ring s n 0 else s.tringDropped n
    else mgmt s
/-- The capture of a LEN_SHORT frame: the logged entry and the two that follow it, at most once per second per port (R323). -/
def State.lenShort (s : State) (p : PortId) (k : SubPort) (f : List Byte) : State :=
  let s := s.rxCount p k .lenShort
  if s.log.holdoffs.contains (.lenShort p) then s
  else
    let part := fun (i n : Nat) => BitVec.ofNat 384 (leNat (slice (f.take 128) (48 * i) n))
    let s := s.hand Code.lenShort 0 (.capture (part 0 48))
    let s := s.hand Code.lenShort 0 (.continuation (part 1 48))
    let s := s.hand Code.lenShort 0 (.continuation (part 2 32))
    s.modLog (fun g => { g with holdoffs := .lenShort p :: g.holdoffs })
/-- The MAC's filter of destination addresses (R320). -/
def State.accepts (s : State) (p : PortId) (k : SubPort) (f : List Byte) : Bool :=
  let a := beAt f 0 6
  a == 2 ^ 48 - 1 || a == 0x011B19000000 || a == 0x0180C200000E || (a != 0 && a == (s.port p).macs[k].toNat)
  || s.svc.mcast.toList.any (fun e : W64 => bit e 63 && fld e 47 0 == a)
/-- A PAUSE frame: its quanta hold the sub-port, zero quanta release it (R320). -/
def State.pauseFrame (s : State) (p : PortId) (k : SubPort) (f : List Byte) : State :=
  if !(s.port p).pauseEn then s
  else if beAt f 16 2 = 0 then
    s.modPort p (fun q =>
      { q with
        paused := setBitTo q.paused k.val false
        out := q.out ++ q.held.filter (fun x : SubPort × List Byte => x.1 == k)
        held := q.held.filter (fun x : SubPort × List Byte => x.1 != k) })
  else s.modPort p (fun q => { q with paused := setBitTo q.paused k.val true })
/-- Parse a frame that the filter accepts, check its lengths and deliver it. -/
def State.rxParse (s : State) (p : PortId) (st : TxStamp) (f : List Byte) : State :=
  let x := parseHeaders f
  if x.tooDeep then s.toExc p (rxFrame p st (32 + x.flags false) f)
  else
    match x.lengths f with
    | .drop .lenShort => s.lenShort p st.sub f
    | .drop c => s.rxCount p st.sub c
    | .accept excess => (if excess then s.rxCount p st.sub .lenExcess else s).route p st f x excess
/-- A frame at a MAC, its bytes without FCS; good says whether its FCS and coding are right. -/
def State.rxFrameAt (s : State) (p : PortId) (k : SubPort) (f : List Byte) (good : Bool) (phase : BitVec 4) : State :=
  if !bit (s.port p).linkUp k.val then s
  else if !good || f.length < 60 || 9212 < f.length then s.rxCount p k .rxErr
  else if beAt f 12 2 = 0x8808 ∧ beAt f 14 2 = 1 then s.pauseFrame p k f
  else if (beAt f 12 2 = 0x8808 ∧ beAt f 14 2 = 0x0101) ∨ s.accepts p k f = false then s.rxCount p k .rxFiltered
  else s.rxParse p (s.stampAt p k phase false 0) f
def execEthFrameReceive (p : PortId) (sub : SubPort) (frame : List Byte) (good : Bool) (phase : BitVec 4) (s : State) : Out :=
  .next (s.rxFrameAt p sub frame good phase)

/-! Requests of channels 0 to 3. -/

/-- The oldest request of a channel that is not taken up, and whose answer no earlier one of its port and SEQ would take. -/
def Svc.waiting? (v : Svc) (ch : Nat) : Option ZshRequest :=
  (v.requests.find? (fun r => r.channel.toNat == ch && !r.taken)).filter (fun r => (v.request? r.port r.seq).isNone)
def State.dropRequest (s : State) (r : ZshRequest) : State := s.modSvc (fun v => { v with requests := v.requests.erase r })
/-- Mark a request taken up, so that its descriptor's completion answers it. -/
def State.takeRequest (s : State) (r : ZshRequest) : State :=
  s.modSvc (fun v => { v with requests := updFirst (· == r) (fun r => { r with taken := true }) v.requests })
/-- Answer a request that is not taken up. -/
def State.refuseRequest (s : State) (r : ZshRequest) (st : Byte) : State := (s.dropRequest r).zshAnswer r { status := st }

def Op.onChannel0 (op : Nat) : Bool := op == Op.query || op == Op.logRead || op == Op.mgmtRead || op == Op.mgmtWrite
/-- A request of channel 0 or 1 hands its descriptor over as one of the function it names (R332). -/
def State.takeDesc (s : State) (r : ZshRequest) : State :=
  let d := Desc.ofBytes (if r.channel == 0 then 0 else finOf 33 r.vf.toNat) (.zsh r.port r.seq) (r.payload.take 64)
  if !s.requestsServed then s.refuseRequest r Status.retry
  else if r.payload.length < 64 || (r.channel == 1 && decide (32 < r.vf.toNat)) then s.refuseRequest r Status.badDescriptor
  else if r.channel == 0 && (Op.ofMc d.opcode || Op.ofRe d.opcode) && !Op.onChannel0 d.opcode then
    s.refuseRequest r Status.notPermitted
  else (s.takeRequest r).deliver d
/-- ZSH_MANAGEMENT: a channel 0 request. -/
def execZshManagement (s : State) : Out :=
  .next (match s.svc.waiting? 0 with
    | none => s
    | some r => s.takeDesc r)
/-- ZSH_JOB_CONTROL: a channel 1 request. -/
def execZshJobControl (s : State) : Out :=
  .next (match s.svc.waiting? 1 with
    | none => s
    | some r => s.takeDesc r)

/-! Channel 2 (R333). -/

/-- A free slot of the four streams. -/
def Svc.streamSlot (v : Svc) : Option (Fin 4) := (List.finRange 4).find? (fun i => v.streams[i].isNone)
/-- A job in RUN at a hurdle declared STREAMABLE, with feature bit 15. -/
def State.canStream (s : State) (j : Job) : Bool :=
  bit j.image.featureReq 15 && j.parts.all (fun p => (s.part p).st == .run) && s.atHurdle j
  && (match j.hurdle with | some h => h.streamable | none => false)
/-- The package offset of a range of a region; none where R333 refuses it. A copy that differs is met as any consultation of it. -/
def State.streamRange (s : State) (p : PartId) (region off len : Nat) : State × Option Nat :=
  match s.consultOne p region { Loc.base 10 with part := p.val } with
  | (s, .lost) => (s, none)
  | (s, .noMap) => (s, none)
  | (s, .diverged _) => (s.partJobFault p Code.mapDiverged { Loc.base 10 with part := p.val, region := some region }, none)
  | (s, .entries es) =>
    match es.head? with
    | none => (s, none)
    | some (_, e) =>
      if mePurpose e = Purpose.free ∨ mePurpose e = Purpose.spill ∨ mePurpose e = Purpose.landing ∨ meLen e < off + len then (s, none)
      else (s, some (partBase p + meStart e + off))
/-- Take up a channel 2 request. -/
def State.openStream (s : State) (r : ZshRequest) : State :=
  let b := r.payload
  if !s.requestsServed then s.refuseRequest r Status.retry
  else if b.length != 24 || leAt b 4 4 != 0 then s.refuseRequest r Status.badDescriptor
  else if 7 < leAt b 0 1 || 7 < leAt b 1 1 then s.refuseRequest r Status.streamRefused
  else
    let lead : PartId := finOf 8 (leAt b 0 1)
    let len := leAt b 16 8
    match s.jobOfLead lead, s.svc.streamSlot with
    | some j, some i =>
      match j.phys (leAt b 1 1) with
      | none => s.refuseRequest r Status.streamRefused
      | some p =>
        if !s.canStream j then s.refuseRequest r Status.streamRefused
        else
          match s.streamRange p (leAt b 2 2) (leAt b 8 8) len with
          | (s, none) => s.refuseRequest r Status.streamRefused
          | (s, some a) =>
            (s.dropRequest r).modSvc (fun v =>
              { v with
                streams := vset v.streams i
                  (some { lead := lead, part := p, base := a, offset := leAt b 8 8, length := len, sent := 0, req := r, stop := none }) })
    | _, _ => s.refuseRequest r Status.streamRefused
/-- ZSH_STREAMING: a channel 2 request. -/
def execZshStreaming (s : State) : Out :=
  .next (match s.svc.waiting? 2 with
    | none => s
    | some r => s.openStream r)

/-- The final reply of a stream: its status and the bytes sent. -/
def State.endStream (s : State) (n : Fin 4) (t : OutStream) (st : Byte) : State :=
  (s.modSvc (fun v => { v with streams := vset v.streams n none })).zshAnswer t.req { status := st, detail0 := BitVec.ofNat 64 t.sent }
/-- A data frame: the chunk header and the bytes. -/
def chunkFrame (t : OutStream) (bs : List Byte) : List Byte :=
  zshFrame t.req Zsh.flagReply t.req.seq (natLE 8 (t.offset + t.sent) ++ natLE 4 bs.length ++ natLE 4 0 ++ bs)
/-- The next chunk of a stream; behind the last one, or where it stops, the final reply. -/
def State.streamStep (s : State) (n : Fin 4) (t : OutStream) : State :=
  match t.stop with
  | some st => s.endStream n t st
  | none =>
    if t.length ≤ t.sent then s.endStream n t Status.success
    else
      let len := Nat.min 8192 (t.length - t.sent)
      match s.fetchBytes (t.base + t.sent) len { Loc.base 10 with part := t.part.val } with
      | (s, none) => s
      | (s, some bs) =>
        (s.modSvc (fun v => { v with streams := vset v.streams n (some { t with sent := t.sent + len }) })).sendFrame t.req.port t.req.sub
          (chunkFrame t bs)
/-- STREAM_CHUNK. -/
def execStreamChunk (n : Fin 4) (s : State) : Out :=
  .next (match s.svc.streams[n] with
    | none => s
    | some t => if s.fwServes then s.streamStep n t else s)

/-- ZSH_LOG_EXPORT: a channel 3 request becomes the subscriber (R334). -/
def execZshLogExport (s : State) : Out :=
  .next (match s.svc.waiting? 3 with
    | none => s
    | some r =>
      if !s.requestsServed then s.refuseRequest r Status.retry
      else (s.dropRequest r).modSvc (fun v => { v with subscriber := some r, exportSeq := 0 }))

/-! The service transmit ring (R330, R331). -/

/-- Table 14-8. -/
def txOk (w : Nat → W64) : Bool :=
  fld (w 0) 63 32 == 0 && !bit (w 0) 16 && decide (14 ≤ fld (w 0) 31 18) && decide (fld (w 0) 31 18 ≤ 9212) && fld (w 1) 63 3 == 0
  && winOffsetOk (w 2) && w 3 == 0 && w 4 == 0 && w 5 == 0 && w 6 == 0 && fld (w 7) 62 48 == 0 && fld (w 7) 39 0 == 0
/-- What the frame's buffer gives: a window status, or the bytes. -/
inductive TxData where
  | failed (st : Byte)
  | got (bs : List Byte)
/-- The steps of Table 13-6 for a frame's buffer in PF0's window, from step 4 on. The TAG that its header then holds is not stated. -/
def State.txFetch (s : State) (root off : W64) (len : Nat) : State × TxData :=
  let give := fun (s : State) (a : Nat) (h : Hdr) (st : Byte) (early : Bool) (moved : Nat) (fault : W16) =>
    let (v, s) := s.draw
    s.writeHeader a h Owner.host st early moved fault (BitVec.ofNat 32 v)
  match s.walk root off.toNat 64 true with
  | .fail w => (s.winFault 0 w.code, .failed w.status)
  | .page a _ =>
    match s.hostRead a 16 with
    | none => (s.winFault 0 Code.busError, .failed Status.busError)
    | some bs =>
      let w0 := leAt bs 0 8
      let w1 := leAt bs 8 8
      let h : Hdr := { seq := nbits w0 63 32, len := nbits w1 39 0 }
      if headerBad off.toNat w0 w1 then (s.winFault 0 Code.headerMalformed, .failed Status.headerMalformed)
      else if w0 % 4 != Owner.device then (s.winMismatch 0, .failed Status.ownerMismatch)
      else if h.len < len then
        (give (s.winFault 0 Code.bufferShort) a h Status.bufferShort false 0 Code.bufferShort, .failed Status.bufferShort)
      else
        match s.winRead root len (off.toNat + 64) len with
        | (bs, some w) => (give (s.winFault 0 w.1.code) a h w.1.status true bs.length w.1.code, .failed w.1.status)
        | (bs, none) => (give s a h Status.success false bs.length 0, .got bs)
/-- Queue the stamp of a frame sent with TS_REQ; the status of the write-back (R339). -/
def State.txStamp (s : State) (p : PortId) (st : TxStamp) : State × Byte :=
  if s.clock.stamps[p].entries.length < 16 then
    (s.modClock (fun c => { c with stamps := vmod c.stamps p (fun x => { x with entries := x.entries ++ [st] }) }), Status.success)
  else
    ((s.modClock (fun c => { c with stamps := vmod c.stamps p (fun x => { x with overflow := satInc x.overflow }) })).logRate
      (.tsOverflow p) Code.tsOverflow, Status.tsDiscarded)
/-- The descriptor that has been read (R330, R331). It waits while its port pauses, and at step 3 while its header cannot be claimed (R310). -/
def State.txDesc (s : State) (w : Nat → W64) (phase : BitVec 4) : State :=
  let p : PortId := finOf 2 (fld (w 1) 0 0)
  let k : SubPort := finOf 4 (fld (w 1) 2 1)
  let len := fld (w 0) 31 18
  if !txOk w then s.txWriteBack Status.badDescriptor
  else if !bit (s.port p).linkUp k.val then s.txWriteBack Status.portDown
  else if bit (s.port p).paused k.val then s
  else
    let x := s.headerWait .tx 0 (w 2)
    if !s.mayTake x then s.keepWait x
    else
      match (s.endWait .tx).txFetch x.root x.offset len with
      | (s, .failed st) => s.txWriteBack st
      | (s, .got bs) =>
        let st := s.stampAt p k phase true (BitVec.ofNat 16 (fld (w 0) 15 0))
        let s := s.sendFrame p k (bs ++ List.replicate (60 - bs.length) 0)
        let (s, status) := if bit (w 0) 17 then s.txStamp p st else (s, Status.success)
        s.txWriteBack status
/-- The line of the ring is read; TAIL beyond the ring size stops it (R280). -/
def State.txLine (s : State) : State :=
  let q := s.svc.tx
  match s.hostCount q.dbl with
  | none =>
    let s' := s.modTx (fun q => { q with readFail := true })
    if q.readFail then s' else s'.logs Code.dblReadFail
  | some c =>
    let s := s.modTx (fun q => { q with tail := c, readFail := false })
    if q.size < (c - q.head).toNat then
      ((s.modTx (fun q => { q with error := true, errCause := 2, stopped := true })).logs Code.ringTailBad).txStatus
    else s
/-- The next descriptor of the ring is read, once, and DEV_COUNT goes on (R279). -/
def State.txRead (s : State) : State :=
  let q := s.svc.tx
  if q.errCause != 0 || q.head == q.tail then s
  else
    match s.hostRead (q.base.toNat + 64 * (q.head.toNat % q.size)) 64 with
    | none => ((s.modTx (fun q => { q with error := true, errCause := 3, stopped := true })).logs Code.fetchFailed).txStatus
    | some bs =>
      ((s.modSvc (fun v => { v with txHeld := some ((List.range 8).map (fun i => BitVec.ofNat 64 (leAt bs (8 * i) 8))) })).modTx
        (fun q => { q with head := q.head + 1 })).txStatus
/-- SVC_TX. A descriptor that has been read and waits goes on, though the ring has stopped since (R280); else the next is read. -/
def execSvcTx (phase : BitVec 4) (s : State) : Out :=
  .next (
    if !s.power.mainPg || s.hiu.port != .up || !s.svc.tx.enable then s
    else
      let s := if s.svc.txHeld.isSome || s.svc.tx.errCause != 0 then s else s.txLine.txRead
      match s.svc.txHeld with
      | none => s
      | some ws => s.txDesc (fun i => ws.getD i 0) phase)

end Sys2Proof.Machine
end

