-- ==== Sys2Proof/Machine/Vector.lean ====
section
/-! DEFINITION. The Vector Engine: element-wise operations and reductions (R110, R111, Table 05-8). -/

namespace Sys2Proof.Machine

/-- An operation that computes on FP32. An infinity out of a finite input other than zero is an overflow: it goes on as a value
beyond every format, so that Table 05-3 applies in Z (R105). -/
def via32 (f : W32 → W32) (v : Val) : Val :=
  let x := f32 (f (toBits32 v))
  match v, x with
  | .fin _ m _, .inf g => if m = 0 then .inf g else .fin g 1 300
  | _, _ => x

/-- The exact result of an operation of Table 05-8, before its rounding into Z. -/
def vecOp (op : Nat) (x y z lo hi : Val) : Val :=
  match op with
  | 0x01 => x.add y
  | 0x02 => x.add y.neg
  | 0x03 => x.mul y
  | 0x04 => (x.mul y).add z
  | 0x05 => x.max y
  | 0x06 => x.min y
  | 0x07 => x.abs
  | 0x08 => x.neg
  | 0x09 => x.max Val.zero
  | 0x0A => (x.max lo).min hi
  | 0x0B => via32 recip32 x
  | 0x0C => via32 rsqrt32 x
  | 0x0D => via32 exp32 x
  | 0x0E => via32 log32 x
  | 0x0F => via32 tanh32 x
  | 0x10 => via32 sigmoid32 x
  | _ => x

/-- Does the value pass into FP32 on the way to Z? A result beyond its range goes on as it is, so that Table 05-3 applies once
with the command's SAT; where Z is FP32, or an integer, the rounding is Z's (log 42). -/
def towardZ (f : Fmt) (v : Val) : Val :=
  if f = .fp32 then v
  else
    match (Fmt.fp32.convert .nearest false v) with
    | c => if c.ovf then v else Fmt.fp32.decode c.bits

/-- One output element (R103, R110): integer operations compute in saturating INT32, floating-point ones in FP32. CONVERT
rounds the exact value once, and so does FMA. -/
def vecOut (f : Fmt) (isInt : Bool) (op : Nat) (mode : Rnd) (sat : Bool) (v : Val) : Nat × Exc :=
  if op = 0x11 then
    let c := f.convert mode sat v
    (c.bits, c.exc)
  else if isInt then
    match v with
    | .fin _ _ e =>
      if 0 ≤ e then
        let i := midInt (v.at 0)
        let c := f.convert mode sat (Val.ofInt i.1)
        (c.bits, i.2.add c.exc)
      else
        let c := f.convert mode sat v
        (c.bits, c.exc)
    | _ =>
      let c := f.convert mode sat v
      (c.bits, c.exc)
  else
    let c := f.convert mode sat (if op = 0x04 then v else towardZ f v)
    (c.bits, c.exc)

/-- Y of every element: IMM, or the tensor of word 4, or nothing for the operations without Y. -/
def readY (a : Acc) (v : VecOps) (isInt : Bool) (op : Nat) : Eng (List (List Val)) :=
  if op ≤ 0x06 then
    if v.yImm then
      pure (List.replicate v.rows (List.replicate v.cols (if isInt then Fmt.int32.decode v.imm.toNat else f32 v.imm)))
    else a.tensor Kind.tileRead (Ref.ofWord (a.cmd.cmd.word 4)) v.rows v.cols
  else pure []

/-- An element-wise operation. An FMA whose Z is of the other kind than X and Y adds the exact value of the old Z (DESIGN CHOICE, log 135:
R110 does not say how it enters the sum). -/
def vecBody (op : Nat) (a : Acc) (_ : List QEntry) : Eng (BitVec 96) := do
  let c := a.cmd.cmd
  let v := VecOps.ofCmd c
  let rx := Ref.ofWord (c.word 3)
  let rz := Ref.ofWord (c.word 5)
  let isInt := rx.fmt.isInt
  let imm := fun (w : W32) => if isInt then Fmt.int32.decode w.toNat else f32 w
  let xs ← a.tensor Kind.tileRead rx v.rows v.cols
  let ys ← readY a v isInt op
  let zs ← if op = 0x04 then a.tensor Kind.tileRead rz v.rows v.cols else pure []
  let at_ := fun (t : List (List Val)) (r k : Nat) => (t.getD r []).getD k Val.zero
  let out := collect ((List.range v.rows).map (fun r => collect ((List.range v.cols).map (fun k =>
    vecOut rz.fmt isInt op (rndOf v.round a (r * v.cols + k)) v.sat
      (vecOp op (at_ xs r k) (at_ ys r k) (at_ zs r k) (imm v.imm) (imm v.imm2))))))
  a.putTensor Kind.tileWrite rz out.1
  pure (payload 0 out.2)

/-! Reductions (R111). -/

/-- What a lane does with one more input, in FP32 under mode 0 or in saturating INT32. -/
def foldOp (isInt : Bool) (op : Nat) (x y : Val) : Val × Exc :=
  match op with
  | 0x21 => (x.max y, Exc.zero)
  | 0x22 => (x.min y, Exc.zero)
  | _ =>
    if isInt then
      let i := midInt ((x.add y).at 0)
      (Val.ofInt i.1, i.2)
    else mid32 false (x.add y)

/-- An input of a lane: its square for RSUMSQ, rounded as the lane rounds (log 43). -/
def laneInput (isInt : Bool) (op : Nat) (x : Val) : Val × Exc :=
  if op = 0x23 then
    if isInt then
      let i := midInt ((x.mul x).at 0)
      (Val.ofInt i.1, i.2)
    else mid32 false (x.mul x)
  else (x, Exc.zero)

/-- Combine two partial results; one that received no input takes no part. -/
def laneJoin (isInt : Bool) (op : Nat) : Option (Val × Exc) → Option (Val × Exc) → Option (Val × Exc)
  | none, y => y
  | x, none => x
  | some x, some y => let r := foldOp isInt op x.1 y.1; some (r.1, (x.2.add y.2).add r.2)

/-- Lane l of a list of inputs: inputs l, l + 256, … folded in order from the first. -/
def lane (isInt : Bool) (op : Nat) (xs : Array Val) (l : Nat) : Option (Val × Exc) :=
  ((List.range (xs.size / 256 + 1)).filterMap (fun k => xs[l + 256 * k]?)).foldl
    (fun r x => laneJoin isInt op r (some (laneInput isInt op x))) none

/-- Combine the lanes pairwise for s = 128, 64, …, 1. -/
def laneTree (isInt : Bool) (op : Nat) (ls : List (Option (Val × Exc))) : List Nat → List (Option (Val × Exc))
  | [] => ls
  | s :: ss => laneTree isInt op ((List.range s).map (fun l => laneJoin isInt op (ls.getD l none) (ls.getD (l + s) none))) ss

/-- The reduction of a list of inputs. -/
def reduce (isInt : Bool) (op : Nat) (xs : List Val) : Val × Exc :=
  let arr := xs.toArray
  let ls := (List.range 256).map (lane isInt op arr)
  ((laneTree isInt op ls [128, 64, 32, 16, 8, 4, 2, 1]).headD none).getD (Val.zero, Exc.zero)

/-- RESULT of a whole-tensor reduction (Table 05-4): FP32 or INT32 bits. -/
def reduceResult (isInt : Bool) (v : Val) : W32 :=
  if isInt then BitVec.ofNat 32 (Fmt.int32.intBits (v.at 0)) else toBits32 v

def reduceBody (op : Nat) (a : Acc) (_ : List QEntry) : Eng (BitVec 96) := do
  let c := a.cmd.cmd
  let v := VecOps.ofCmd c
  let rx := Ref.ofWord (c.word 3)
  let rz := Ref.ofWord (c.word 5)
  let isInt := rx.fmt.isInt
  let xs ← a.tensor Kind.tileRead rx v.rows v.cols
  let sets : List (List (List Val)) :=
    match v.axis with
    | 0 => xs.map (fun r => [r])
    | 1 => [(List.range v.cols).map (fun k => xs.map (fun r => r.getD k Val.zero))]
    | _ => [[xs.flatten]]
  let red := sets.map (fun row => row.map (reduce isInt op))
  let nc := (red.headD []).length
  let out := collect (((List.range red.length).zip red).map (fun r => collect (((List.range nc).zip r.2).map (fun k =>
    let o := rz.fmt.convert (rndOf v.round a (r.1 * nc + k.1)) v.sat k.2.1
    (o.bits, k.2.2.add o.exc)))))
  a.putTensor Kind.tileWrite rz out.1
  let result : W32 := if v.axis = 2 then reduceResult isInt (((red.headD []).headD (Val.zero, Exc.zero)).1) else 0
  pure (payload result out.2)

/-- ADD: X + Y (R110). -/
def execAdd (t : TileId) (s : State) : Out := .next (s.runOn t .vector 2 0x01 (vecBody 0x01))
/-- SUB: X - Y. -/
def execSub (t : TileId) (s : State) : Out := .next (s.runOn t .vector 2 0x02 (vecBody 0x02))
/-- MUL: X x Y. -/
def execMul (t : TileId) (s : State) : Out := .next (s.runOn t .vector 2 0x03 (vecBody 0x03))
/-- FMA: X x Y + Z, rounded once. -/
def execFma (t : TileId) (s : State) : Out := .next (s.runOn t .vector 2 0x04 (vecBody 0x04))
/-- MAX. -/
def execMax (t : TileId) (s : State) : Out := .next (s.runOn t .vector 2 0x05 (vecBody 0x05))
/-- MIN. -/
def execMin (t : TileId) (s : State) : Out := .next (s.runOn t .vector 2 0x06 (vecBody 0x06))
/-- ABS. -/
def execAbs (t : TileId) (s : State) : Out := .next (s.runOn t .vector 2 0x07 (vecBody 0x07))
/-- NEG. -/
def execNeg (t : TileId) (s : State) : Out := .next (s.runOn t .vector 2 0x08 (vecBody 0x08))
/-- RELU: max(X, +0). -/
def execRelu (t : TileId) (s : State) : Out := .next (s.runOn t .vector 2 0x09 (vecBody 0x09))
/-- CLAMP: min(max(X, IMM), IMM2). -/
def execClamp (t : TileId) (s : State) : Out := .next (s.runOn t .vector 2 0x0A (vecBody 0x0A))
/-- RECIP: 1/X. -/
def execRecip (t : TileId) (s : State) : Out := .next (s.runOn t .vector 2 0x0B (vecBody 0x0B))
/-- RSQRT. -/
def execRsqrt (t : TileId) (s : State) : Out := .next (s.runOn t .vector 2 0x0C (vecBody 0x0C))
/-- EXP. -/
def execExp (t : TileId) (s : State) : Out := .next (s.runOn t .vector 2 0x0D (vecBody 0x0D))
/-- LOG. -/
def execLog (t : TileId) (s : State) : Out := .next (s.runOn t .vector 2 0x0E (vecBody 0x0E))
/-- TANH. -/
def execTanh (t : TileId) (s : State) : Out := .next (s.runOn t .vector 2 0x0F (vecBody 0x0F))
/-- SIGMOID. -/
def execSigmoid (t : TileId) (s : State) : Out := .next (s.runOn t .vector 2 0x10 (vecBody 0x10))
/-- CONVERT: X in the format of Z. -/
def execConvert (t : TileId) (s : State) : Out := .next (s.runOn t .vector 2 0x11 (vecBody 0x11))
/-- RSUM: sum along AXIS (R111). -/
def execRsum (t : TileId) (s : State) : Out := .next (s.runOn t .vector 2 0x20 (reduceBody 0x20))
/-- RMAX: maximum along AXIS. -/
def execRmax (t : TileId) (s : State) : Out := .next (s.runOn t .vector 2 0x21 (reduceBody 0x21))
/-- RMIN: minimum along AXIS. -/
def execRmin (t : TileId) (s : State) : Out := .next (s.runOn t .vector 2 0x22 (reduceBody 0x22))
/-- RSUMSQ: sum of squares along AXIS. -/
def execRsumsq (t : TileId) (s : State) : Out := .next (s.runOn t .vector 2 0x23 (reduceBody 0x23))

end Sys2Proof.Machine
end

