-- ==== Sys2Proof/Machine/Dispatch.lean ====
section
/-! DEFINITION. The dispatch: one arm per constructor, each one direct call of the meaning of its command. -/

namespace Sys2Proof.Machine

def exec (i : Instr) (s : State) : Host.Outcome State Fault Refusal :=
  match i with
  | .standbyPorRelease strap => Sys2Proof.Machine.execStandbyPorRelease strap s
  | .coldReset => Sys2Proof.Machine.execColdReset s
  | .standbyFail => Sys2Proof.Machine.execStandbyFail s
  | .stbyOutOfRange mv => Sys2Proof.Machine.execStbyOutOfRange mv s
  | .boot flashWrites => Sys2Proof.Machine.execBoot flashWrites s
  | .mainConversionStart => Sys2Proof.Machine.execMainConversionStart s
  | .mainLow => Sys2Proof.Machine.execMainLow s
  | .mainLost => Sys2Proof.Machine.execMainLost s
  | .mainOvervolt => Sys2Proof.Machine.execMainOvervolt s
  | .overcurrent => Sys2Proof.Machine.execOvercurrent s
  | .mainDisabled => Sys2Proof.Machine.execMainDisabled s
  | .sensorSample readings vin power vstby => Sys2Proof.Machine.execSensorSample readings vin power vstby s
  | .tripClear => Sys2Proof.Machine.execTripClear s
  | .perstLChange asserted => Sys2Proof.Machine.execPerstLChange asserted s
  | .hostLinkDown => Sys2Proof.Machine.execHostLinkDown s
  | .functionReset f => Sys2Proof.Machine.execFunctionReset f s
  | .rackrefLost => Sys2Proof.Machine.execRackrefLost s
  | .rackrefRestored => Sys2Proof.Machine.execRackrefRestored s
  | .refsLost => Sys2Proof.Machine.execRefsLost s
  | .timeRefFallback => Sys2Proof.Machine.execTimeRefFallback s
  | .warmReset => Sys2Proof.Machine.execWarmReset s
  | .mcReset => Sys2Proof.Machine.execMcReset s
  | .mcWatchdogExpiry => Sys2Proof.Machine.execMcWatchdogExpiry s
  | .tileReset t => Sys2Proof.Machine.execTileReset t s
  | .sequencerReset d => Sys2Proof.Machine.execSequencerReset d s
  | .peReset d => Sys2Proof.Machine.execPeReset d s
  | .unitHung u => Sys2Proof.Machine.execUnitHung u s
  | .holdExit u => Sys2Proof.Machine.execHoldExit u s
  | .mark power delay => Sys2Proof.Machine.execMark power delay s
  | .markLost => Sys2Proof.Machine.execMarkLost s
  | .slackReport l cls thermal => Sys2Proof.Machine.execSlackReport l cls thermal s
  | .gradeAnnouncement l grade t => Sys2Proof.Machine.execGradeAnnouncement l grade t s
  | .gradeChange => Sys2Proof.Machine.execGradeChange s
  | .slipRequest l cause job origin => Sys2Proof.Machine.execSlipRequest l cause job origin s
  | .lapBoundary lead => Sys2Proof.Machine.execLapBoundary lead s
  | .counterSnapshot => Sys2Proof.Machine.execCounterSnapshot s
  | .batonSample l => Sys2Proof.Machine.execBatonSample l s
  | .slotSend l => Sys2Proof.Machine.execSlotSend l s
  | .deferredSend l => Sys2Proof.Machine.execDeferredSend l s
  | .frameReceive l frame phase => Sys2Proof.Machine.execFrameReceive l frame phase s
  | .signalLost l => Sys2Proof.Machine.execSignalLost l s
  | .ackUpdate l => Sys2Proof.Machine.execAckUpdate l s
  | .replayTimeout l => Sys2Proof.Machine.execReplayTimeout l s
  | .spillAbandoned l => Sys2Proof.Machine.execSpillAbandoned l s
  | .laneFailure l dir lane kind => Sys2Proof.Machine.execLaneFailure l dir lane kind s
  | .laneSwap l dir => Sys2Proof.Machine.execLaneSwap l dir s
  | .presenceChange l present => Sys2Proof.Machine.execPresenceChange l present s
  | .partnerReset l => Sys2Proof.Machine.execPartnerReset l s
  | .linkDownComplete l => Sys2Proof.Machine.execLinkDownComplete l s
  | .cableIdRead l id => Sys2Proof.Machine.execCableIdRead l id s
  | .wakePatternSeen l => Sys2Proof.Machine.execWakePatternSeen l s
  | .listenTimeout l => Sys2Proof.Machine.execListenTimeout l s
  | .listenBackoffEnd l => Sys2Proof.Machine.execListenBackoffEnd l s
  | .alignDone l tx rx => Sys2Proof.Machine.execAlignDone l tx rx s
  | .identifyDone l machine chip port => Sys2Proof.Machine.execIdentifyDone l machine chip port s
  | .trainDone l noisyTx noisyRx => Sys2Proof.Machine.execTrainDone l noisyTx noisyRx s
  | .checkDone l framesGood delay partnerEpoch => Sys2Proof.Machine.execCheckDone l framesGood delay partnerEpoch s
  | .stageTimeout l => Sys2Proof.Machine.execStageTimeout l s
  | .linkReset l => Sys2Proof.Machine.execLinkReset l s
  | .retrain l => Sys2Proof.Machine.execRetrain l s
  | .zlCtrlEnable l enable => Sys2Proof.Machine.execZlCtrlEnable l enable s
  | .planDigest => Sys2Proof.Machine.execPlanDigest s
  | .digestDeadline lead => Sys2Proof.Machine.execDigestDeadline lead s
  | .jobAbort => Sys2Proof.Machine.execJobAbort s
  | .cellRequest => Sys2Proof.Machine.execCellRequest s
  | .cellReply => Sys2Proof.Machine.execCellReply s
  | .cellTimeout mgmt slot => Sys2Proof.Machine.execCellTimeout mgmt slot s
  | .counterReq => Sys2Proof.Machine.execCounterReq s
  | .ringOccurrence lead transfer err => Sys2Proof.Machine.execRingOccurrence lead transfer err s
  | .scrubWord place upset => Sys2Proof.Machine.execScrubWord place upset s
  | .mapScrub p => Sys2Proof.Machine.execMapScrub p s
  | .planTableScrub l => Sys2Proof.Machine.execPlanTableScrub l s
  | .zeroingDone p => Sys2Proof.Machine.execZeroingDone p s
  | .partitionScrubDone p => Sys2Proof.Machine.execPartitionScrubDone p s
  | .sequencerIssue d => Sys2Proof.Machine.execSequencerIssue d s
  | .pickerDispatch t => Sys2Proof.Machine.execPickerDispatch t s
  | .commandComplete t e => Sys2Proof.Machine.execCommandComplete t e s
  | .batonTimeout place => Sys2Proof.Machine.execBatonTimeout place s
  | .nop p k => Sys2Proof.Machine.execNop p k s
  | .endCircuit p k => Sys2Proof.Machine.execEndCircuit p k s
  | .fence p k => Sys2Proof.Machine.execFence p k s
  | .matmul t => Sys2Proof.Machine.execMatmul t s
  | .conv2d t => Sys2Proof.Machine.execConv2d t s
  | .add t => Sys2Proof.Machine.execAdd t s
  | .sub t => Sys2Proof.Machine.execSub t s
  | .mul t => Sys2Proof.Machine.execMul t s
  | .fma t => Sys2Proof.Machine.execFma t s
  | .max t => Sys2Proof.Machine.execMax t s
  | .min t => Sys2Proof.Machine.execMin t s
  | .abs t => Sys2Proof.Machine.execAbs t s
  | .neg t => Sys2Proof.Machine.execNeg t s
  | .relu t => Sys2Proof.Machine.execRelu t s
  | .clamp t => Sys2Proof.Machine.execClamp t s
  | .recip t => Sys2Proof.Machine.execRecip t s
  | .rsqrt t => Sys2Proof.Machine.execRsqrt t s
  | .exp t => Sys2Proof.Machine.execExp t s
  | .log t => Sys2Proof.Machine.execLog t s
  | .tanh t => Sys2Proof.Machine.execTanh t s
  | .sigmoid t => Sys2Proof.Machine.execSigmoid t s
  | .convert t => Sys2Proof.Machine.execConvert t s
  | .rsum t => Sys2Proof.Machine.execRsum t s
  | .rmax t => Sys2Proof.Machine.execRmax t s
  | .rmin t => Sys2Proof.Machine.execRmin t s
  | .rsumsq t => Sys2Proof.Machine.execRsumsq t s
  | .copy t => Sys2Proof.Machine.execCopy t s
  | .fill t => Sys2Proof.Machine.execFill t s
  | .gather t => Sys2Proof.Machine.execGather t s
  | .scatter t => Sys2Proof.Machine.execScatter t s
  | .send lead station => Sys2Proof.Machine.execSend lead station s
  | .recv lead station => Sys2Proof.Machine.execRecv lead station s
  | .put lead => Sys2Proof.Machine.execPut lead s
  | .get lead => Sys2Proof.Machine.execGet lead s
  | .cmpAny t => Sys2Proof.Machine.execCmpAny t s
  | .cmpAll t => Sys2Proof.Machine.execCmpAll t s
  | .cmpPayload t => Sys2Proof.Machine.execCmpPayload t s
  | .setBit t => Sys2Proof.Machine.execSetBit t s
  | .hurdle p k => Sys2Proof.Machine.execHurdle p k s
  | .hurdleReached lead => Sys2Proof.Machine.execHurdleReached lead s
  | .frame d => Sys2Proof.Machine.execFrame d s
  | .load => Sys2Proof.Machine.execLoad s
  | .loadTakeUp => Sys2Proof.Machine.execLoadTakeUp s
  | .loadComplete => Sys2Proof.Machine.execLoadComplete s
  | .unload => Sys2Proof.Machine.execUnload s
  | .start => Sys2Proof.Machine.execStart s
  | .jobStart lead => Sys2Proof.Machine.execJobStart lead s
  | .jobCompletion lead => Sys2Proof.Machine.execJobCompletion lead s
  | .endDescriptor => Sys2Proof.Machine.execEndDescriptor s
  | .hurdleRelease => Sys2Proof.Machine.execHurdleRelease s
  | .hurdleResume lead => Sys2Proof.Machine.execHurdleResume lead s
  | .hurdleStop => Sys2Proof.Machine.execHurdleStop s
  | .park => Sys2Proof.Machine.execPark s
  | .resume => Sys2Proof.Machine.execResume s
  | .transfer => Sys2Proof.Machine.execTransfer s
  | .headerClaim => Sys2Proof.Machine.execHeaderClaim s
  | .windowClose => Sys2Proof.Machine.execWindowClose s
  | .predicate => Sys2Proof.Machine.execPredicate s
  | .query => Sys2Proof.Machine.execQuery s
  | .logRead => Sys2Proof.Machine.execLogRead s
  | .partitionReset => Sys2Proof.Machine.execPartitionReset s
  | .mgmtRead => Sys2Proof.Machine.execMgmtRead s
  | .mgmtWrite => Sys2Proof.Machine.execMgmtWrite s
  | .doorbellSnoop f completion n writes => Sys2Proof.Machine.execDoorbellSnoop f completion n writes s
  | .doorbellPoll f completion n writes => Sys2Proof.Machine.execDoorbellPoll f completion n writes s
  | .descriptorFetch f n => Sys2Proof.Machine.execDescriptorFetch f n s
  | .interruptDelay f n => Sys2Proof.Machine.execInterruptDelay f n s
  | .ringSqEnable f n writes => Sys2Proof.Machine.execRingSqEnable f n writes s
  | .ringSqDisable f n => Sys2Proof.Machine.execRingSqDisable f n s
  | .ringCqEnable f n writes => Sys2Proof.Machine.execRingCqEnable f n writes s
  | .ringCqDisable f n => Sys2Proof.Machine.execRingCqDisable f n s
  | .setupLock f => Sys2Proof.Machine.execSetupLock f s
  | .hiuDblMode f snoop => Sys2Proof.Machine.execHiuDblMode f snoop s
  | .hiuBind p v => Sys2Proof.Machine.execHiuBind p v s
  | .mgtTopology v => Sys2Proof.Machine.execMgtTopology v s
  | .mgtChipId v => Sys2Proof.Machine.execMgtChipId v s
  | .mgtMachineId v => Sys2Proof.Machine.execMgtMachineId v s
  | .zlPeerExpect l v => Sys2Proof.Machine.execZlPeerExpect l v s
  | .planSlice n v => Sys2Proof.Machine.execPlanSlice n v s
  | .enroll k => Sys2Proof.Machine.execEnroll k s
  | .revoke k => Sys2Proof.Machine.execRevoke k s
  | .fwUpdate => Sys2Proof.Machine.execFwUpdate s
  | .fwSwitchComplete flashOk => Sys2Proof.Machine.execFwSwitchComplete flashOk s
  | .jtagInstruction op => Sys2Proof.Machine.execJtagInstruction op s
  | .i3cRegRead index => Sys2Proof.Machine.execI3cRegRead index s
  | .i3cRegWrite index v => Sys2Proof.Machine.execI3cRegWrite index v s
  | .sensorRead index => Sys2Proof.Machine.execSensorRead index s
  | .i3cReset v => Sys2Proof.Machine.execI3cReset v s
  | .i3cLogRead slot => Sys2Proof.Machine.execI3cLogRead slot s
  | .linkStatus => Sys2Proof.Machine.execLinkStatus s
  | .memRead addr form len => Sys2Proof.Machine.execMemRead addr form len s
  | .memWrite addr form len data => Sys2Proof.Machine.execMemWrite addr form len data s
  | .getVersion => Sys2Proof.Machine.execGetVersion s
  | .getCapabilities => Sys2Proof.Machine.execGetCapabilities s
  | .negotiateAlgorithms => Sys2Proof.Machine.execNegotiateAlgorithms s
  | .getDigests => Sys2Proof.Machine.execGetDigests s
  | .getCertificate => Sys2Proof.Machine.execGetCertificate s
  | .challenge nonce => Sys2Proof.Machine.execChallenge nonce s
  | .getMeasurements index => Sys2Proof.Machine.execGetMeasurements index s
  | .ethFrameReceive p sub frame good phase => Sys2Proof.Machine.execEthFrameReceive p sub frame good phase s
  | .zshManagement => Sys2Proof.Machine.execZshManagement s
  | .zshJobControl => Sys2Proof.Machine.execZshJobControl s
  | .zshStreaming => Sys2Proof.Machine.execZshStreaming s
  | .streamChunk n => Sys2Proof.Machine.execStreamChunk n s
  | .zshLogExport => Sys2Proof.Machine.execZshLogExport s
  | .svcPortUp p sub => Sys2Proof.Machine.execSvcPortUp p sub s
  | .svcPortDown p sub => Sys2Proof.Machine.execSvcPortDown p sub s
  | .svcTx phase => Sys2Proof.Machine.execSvcTx phase s
  | .svcSpMode p v => Sys2Proof.Machine.execSvcSpMode p v s
  | .svcTringEnable n => Sys2Proof.Machine.execSvcTringEnable n s
  | .svcTringDisable n => Sys2Proof.Machine.execSvcTringDisable n s
  | .ptpIncr v => Sys2Proof.Machine.execPtpIncr v s
  | .stepGo force => Sys2Proof.Machine.execStepGo force s
  | .setGo force => Sys2Proof.Machine.execSetGo force s
  | .ptpTimeNs => Sys2Proof.Machine.execPtpTimeNs s
  | .ptpSpTxts0 p => Sys2Proof.Machine.execPtpSpTxts0 p s
  | .ptpPaceCount thenTime => Sys2Proof.Machine.execPtpPaceCount thenTime s
  | .logWrite => Sys2Proof.Machine.execLogWrite s
  | .logHoldoffExpiry scope => Sys2Proof.Machine.execLogHoldoffExpiry scope s
  | .registerWrite f off size v => Sys2Proof.Machine.execRegisterWrite f off size v s
  | .hostLinkUp rate width mode setup => Sys2Proof.Machine.execHostLinkUp rate width mode setup s
  | .deviceTimeTick => Sys2Proof.Machine.execDeviceTimeTick s
  | .localrefReturn => Sys2Proof.Machine.execLocalrefReturn s
  | .pauseExpiry p sub => Sys2Proof.Machine.execPauseExpiry p sub s
  | .mainLowClear => Sys2Proof.Machine.execMainLowClear s

end Sys2Proof.Machine
end

