-- ==== Sys2Proof/Machine/Views.lean ====
section
/-! DEFINITION. What a host's read of a register gives (R271, R403, chapter 18). The table of commands has no row for a plain read, so
this is a function of the state: readWord is the value of a word, regRead the access with the latch of R403 and the check of R5. The
reads that have rows are PTP_TIME_NS, PTP_SP_TXTS0 and PTP_PACE_COUNT. -/

namespace Sys2Proof.Machine

/-- Fields at their low bits, packed into a 32-bit word. -/
def packFields (fs : List (Nat × Nat)) : W32 := BitVec.ofNat 32 (fs.foldl (fun n f => n + f.2 * 2 ^ f.1) 0)

/-! Ring registers (Tables 12-3 to 12-5) and HIU_STATUS (Table 18-2). -/

def Sq.ctrl (q : Sq) : W32 :=
  packFields [(31, b2n q.enable), (30, b2n q.stopped), (29, b2n q.error), (20, q.cq.val), (8, q.errCause.toNat), (0, q.sizeLog2.toNat)]
def Cq.ctrl (q : Cq) : W32 :=
  packFields [(31, b2n q.enable), (30, b2n q.overflow), (29, b2n q.error), (8, q.errCause.toNat), (0, q.sizeLog2.toNat)]
def Cq.irq (q : Cq) : W32 := packFields [(31, b2n q.irqEn), (16, q.delay.toNat), (8, q.countM1.toNat), (0, q.vec.toNat)]
def TRing.ctrl (t : TRing) : W32 :=
  packFields [(31, b2n t.enable), (30, b2n t.error), (16, t.vec.toNat), (8, t.vf.toNat), (0, t.sizeLog2.toNat)]
def State.hiuStatus (s : State) (f : FnId) : W32 :=
  packFields [(24, f.val), (16, s.hiu.rate.toNat), (11, s.hiu.width.toNat), (10, b2n s.hiu.cxlCache), (9, b2n s.hiu.flit),
    (8, b2n !(s.snoops f)), (0, b2n (s.fn f).setupLock)]

/-! Status of the pace, the links, the key slots, the service ports and device time. -/

/-- PACE_GRADE (Table 18-4). -/
def State.paceGrade (s : State) : W32 :=
  let (inside, master, id) : Bool × Bool × Nat := match s.pace.domain with
    | some d => (true, d.parent.isNone, d.id.toNat)
    | none => (false, false, 0)
  packFields [(31, b2n inside), (30, b2n master), (16, id), (9, b2n s.thermalFlag), (8, b2n s.pace.localref), (0, s.pace.grade.val)]
/-- ZL_STATUS (Table 18-5). -/
def State.zlStatus (s : State) (l : LinkId) : W32 :=
  let k := s.links[l]
  packFields [(31, b2n k.present), (30, b2n k.absent), (29, b2n (s.locked l)), (16, k.epoch.toNat), (14, k.tx.spares), (12, k.rx.spares),
    (0, k.stage.number)]
def LaneState.number : LaneState → Nat
  | .active => 0
  | .spare => 1
  | .openLane => 2
  | .short => 3
  | .noisy => 4
/-- ZL_LANE_TX and ZL_LANE_RX. -/
def Lanes.word (k : Lanes) : W64 :=
  BitVec.ofNat 64 ((List.finRange 18).foldl (fun n i => n + k.states[i].number * 8 ^ i.val) 0)
/-- MGT_KEY_STATE. -/
def State.keyState (s : State) : W32 :=
  packFields ((List.finRange 8).map (fun k => (2 * k.val, s.mgt.keys[k].state.number)))
def FwStage.number : FwStage → Nat
  | .idle => 0
  | .reading => 1
  | .checking => 2
  | .switching => 3
def SvcPort.ctrl (q : SvcPort) : W32 :=
  packFields ([(31, b2n q.mgmtEn), (30, b2n q.pauseEn), (0, q.mode.toNat)]
    ++ (List.finRange 4).map (fun k => (8 + 2 * k.val, q.fec[k].toNat)))
def Clock.status (c : Clock) : W32 := packFields [(31, b2n c.jumpRefused), (30, b2n c.fallback), (29, b2n c.pending)]

/-! Registers of 64 bits that a host reads and does not write. -/

/-- Counters of a link (Table 18-5). -/
def Link.counter (k : Link) (i : Nat) : W64 :=
  [k.frameBad, k.dup, k.outOfSeq, k.epochDrop, k.replayCount, k.cellDrop].getD i 0
/-- A counter register of a service port: what its MAC, or those of its sub-ports together, have counted (R319; DESIGN CHOICE, log 168). -/
def SvcPort.counted (q : SvcPort) (i : Fin 10) : W64 :=
  BitVec.ofNat 64 (Nat.min (2 ^ 64 - 1) ((q.counters.toList.map (fun v => v[i].toNat)).sum))
/-- A read-only 64-bit register of PF0 at the offset of its low half. -/
def State.wideStatus (s : State) (off : Nat) : Option W64 :=
  if 0x11100 ≤ off ∧ off < 0x11130 then some (s.links[finOf 6 ((off - 0x11100) / 8)]).stray
  else if 0x12000 ≤ off ∧ off < 0x12020 then some (s.pe[finOf 4 ((off - 0x12000) / 8)]).rejects
  else if 0x12040 ≤ off ∧ off < 0x12060 then some (s.pe[finOf 4 ((off - 0x12040) / 8)]).frames
  else if 0x20000 ≤ off ∧ off < 0x26000 then
    (let k := s.links[finOf 6 ((off - 0x20000) / 0x1000)]
     let o := off % 0x1000
     if o = 0x10 then some k.peerSeen
     else if o = 0x28 then some k.tx.word
     else if o = 0x30 then some k.rx.word
     else if 0x40 ≤ o ∧ o < 0x60 then some (BitVec.ofNat 64 (k.cableId.toNat / 2 ^ (8 * (o - 0x40))))
     else if 0x100 ≤ o ∧ o < 0x130 then some (k.counter ((o - 0x100) / 8))
     else none)
  else if 0x40000 ≤ off ∧ off < 0x42000 ∧ 0x100 ≤ off % 0x1000 ∧ off % 0x1000 < 0x150 then
    some ((s.port (finOf 2 ((off - 0x40000) / 0x1000))).counted (finOf 10 ((off % 0x1000 - 0x100) / 8)))
  else
    match off with
    | 0x10010 => some s.pace.count
    | 0x10020 => some s.pace.slipCount
    | 0x10028 => some s.pace.badCell
    | 0x13008 => some s.infield.staleCount
    | 0x13010 => some s.infield.cellDrop
    | 0x30040 => some s.mgt.staleCount
    | 0x32008 => some s.log.lost
    | 0x32010 => some s.log.overwritten
    | 0x32018 => some s.log.suppressed
    | 0x44010 => some s.clock.latSec
    | 0x44040 => some s.clock.paceCount
    | 0x44048 => some s.clock.paceTime
    | 0x44220 => some s.clock.stamps[(0 : Fin 2)].overflow
    | 0x44260 => some s.clock.stamps[(1 : Fin 2)].overflow
    | _ => none

/-! Registers of 32 bits. -/

/-- Registers of 32 bits that take a write; those that are write-only read as zero. -/
def State.setupValue (s : State) (f : FnId) : SetupReg → W32
  | .setup => packFields [(0, b2n (s.fn f).setupLock)]
  | .dblMode => packFields [(0, b2n (s.fn f).dblMode)]
  | .errMask => s.hiu.errMask.setWidth 32
  | .logVec => s.hiu.logVec
  | .sqCtrl n => (s.fn f).sqs[n].ctrl
  | .cqCtrl n => (s.fn f).cqs[n].ctrl
  | .cqIrq n => (s.fn f).cqs[n].irq
  | .msix d =>
    if d % 4 = 3 then packFields [(0, b2n (bit (s.fn f).msixMask (d / 4)))]
    else (((s.fn f).msixTable.find? (fun x => x.1 == d)).map (·.2)).getD 0
  | .bind p => s.hiu.bind[p]
  | .stretch => s.pace.stretchClass.setWidth 32
  | .tighten => s.pace.tightenClass.setWidth 32
  | .floor => s.pace.floor.setWidth 32
  | .cellTimeout => s.infield.cellTimeout.setWidth 32
  | .zlCtrl l => packFields [(31, b2n s.links[l].enable)]
  | .peerExpect l => s.links[l].peerExpect
  | .replay l => s.links[l].replayTimeout.setWidth 32
  | .laneErr l => s.links[l].laneErrLimit.setWidth 32
  | .machineId => s.mgt.machineId
  | .topology => s.mgt.topology
  | .chipId => s.mgt.chipId
  | .scrub => s.mgt.scrubPeriod.setWidth 32
  | .hang => s.mgt.hangLimit.setWidth 32
  | .key k off =>
    let bs := natLE 48 s.mgt.keys[k].x.toNat ++ natLE 48 s.mgt.keys[k].y.toNat
    BitVec.ofNat 32 (leAt bs off 4)
  | .pwr i => s.power.reg i
  | .svcCtrl p => (s.port p).ctrl
  | .ptpRing => s.svc.ptpRing
  | .txCtrl => s.svc.tx.ctrl
  | .tringCtrl n => (s.tring n).ctrl
  | .tringKey n => (s.tring n).key
  | .setNs => s.clock.setNs.setWidth 32
  | .ptpStatus => s.clock.status
  | .thresh => s.clock.thresh
  | .adj p k => s.clock.stamps[p].adj[k].setWidth 32
  | _ => 0
/-- Read-only 32-bit registers of PF0. -/
def State.pfStatus (s : State) (off : Nat) : W32 :=
  if 0x20000 ≤ off ∧ off < 0x26000 then
    (let l : LinkId := finOf 6 ((off - 0x20000) / 0x1000)
     if off % 0x1000 = 4 then s.zlStatus l else if off % 0x1000 = 0x18 then s.links[l].delay.setWidth 32 else 0)
  else if 0x43000 ≤ off ∧ off < 0x43400 then (if off % 0x20 = 0x1C then (s.tring (finOf 32 ((off - 0x43000) / 0x20))).drop else 0)
  else if off = 0x40004 ∨ off = 0x41004 then (s.port (finOf 2 ((off - 0x40000) / 0x1000))).linkUp.setWidth 32
  else if 0x44200 ≤ off ∧ off < 0x44280 then
    (let q := s.clock.stamps[(finOf 2 ((off - 0x44200) / 0x40) : Fin 2)]
     match off % 0x40 with
     | 0x04 => q.latched.sec
     | 0x08 => q.latched.ns.setWidth 32
     | 0x0C => q.latched.frac
     | _ => 0)
  else
    match off with
    | 0x10018 => s.paceGrade
    | 0x1001C => BitVec.ofNat 32 s.horizon
    | 0x3003C => BitVec.ofNat 32 s.boot.stage.number
    | 0x30380 => s.keyState
    | 0x32000 => s.log.head.setWidth 32
    | 0x32004 => s.log.pinned.setWidth 32
    | 0x44008 => s.clock.ns.setWidth 32
    | 0x44018 => s.clock.latFrac
    | _ => 0
/-- Read-only 32-bit registers of every function. -/
def State.fnStatus (s : State) (f : FnId) (off : Nat) : W32 :=
  if 0x5000 ≤ off ∧ off < 0x5020 then BitVec.ofNat 32 (fld (s.fn f).msixPend (8 * (off - 0x5000) + 31) (8 * (off - 0x5000)))
  else
    match off with
    | 0x0008 => s.hiuStatus f
    | 0x1000 => BitVec.ofNat 32 (0x80000000 + Config.stepping.toNat)
    | 0x1004 => 0x100
    | 0x1010 => 0xFFFF
    | 0x3010 => (s.fn f).mismatch
    | 0x3014 => (s.fn f).winFaults
    | _ => if f = 0 then s.pfStatus off else 0

/-- A half of a 64-bit value. -/
def halfOf (v : W64) (high : Bool) : W32 := if high then BitVec.ofNat 32 (fld v 63 32) else BitVec.ofNat 32 (fld v 31 0)
/-- What an aligned 32-bit read of a function's BAR0 gives; an offset that holds no register reads as zero (R4, R271, R408). -/
def State.readWord (s : State) (f : FnId) (off : Nat) : W32 :=
  let base := off / 8 * 8
  let high := off % 8 == 4
  if f != 0 && decide (0x10000 ≤ off) then 0
  else
    match regAt f off with
    | some r => if r.wide then halfOf (s.wideValue f r) high else s.setupValue f r
    | none =>
      match (if f = 0 then s.wideStatus base else none) with
      | some v => halfOf v high
      | none => s.fnStatus f off

/-- ZL_CABLE_ID, a register of 32 bytes (Table 18-5). -/
def cableIdAt (off : Nat) : Bool := decide (0x20000 ≤ off) && decide (off < 0x26000) && decide (0x40 ≤ off % 0x1000) && decide (off % 0x1000 < 0x60)
/-- The word belongs to a register of 64 bits, which a read of the low half latches (R403). -/
def State.wideAt (s : State) (f : FnId) (off : Nat) : Bool :=
  match regAt f off with
  | some r => r.wide
  | none => f == 0 && !cableIdAt off && (s.wideStatus (off / 8 * 8)).isSome
/-- A read of an aligned word: the low half of a 64-bit register latches the high half, and the next read of the high half gives what
was latched (R403). -/
def State.readHalf (s : State) (f : FnId) (off : BitVec 20) : State × W32 :=
  let base : BitVec 20 := BitVec.ofNat 20 (off.toNat / 8 * 8)
  if !s.wideAt f off.toNat then (s, s.readWord f off.toNat)
  else if off == base then
    (s.modMgt (fun m => { m with latched := { fn := f, off := base, value := s.readWord f (base.toNat + 4) } :: dropHeld m.latched f base }),
      s.readWord f base.toNat)
  else
    match heldAt s.mgt.latched f base with
    | some v => (s.modMgt (fun m => { m with latched := dropHeld m.latched f base }), v)
    | none => (s, s.readWord f off.toNat)
/-- A read access of a function's BAR0 and the value it returns: zero, with a log entry, where it is not a naturally aligned one of 4 or 8
bytes (R5). An aligned read of 8 bytes takes both words at one instant. -/
def State.regRead (s : State) (f : FnId) (off : BitVec 20) (size : Fin 9) : State × W64 :=
  if !accessOk off size then (s.logs Code.regAccess f.val, 0)
  else if size == 8 then (s, BitVec.ofNat 64 ((s.readWord f (off.toNat + 4)).toNat * 2 ^ 32 + (s.readWord f off.toNat).toNat))
  else ((s.readHalf f off).1, (s.readHalf f off).2.setWidth 64)

end Sys2Proof.Machine
end

