-- ==== Sys2Proof/Safety.lean ====
section
/-! DEFINITION. What counts as a safe run: no step stops. A step of this model stops only where a command is ill formed. The
invariant that every step keeps, and the words the statements use. -/

namespace Sys2Proof.Machine

/-- The step answers a next state. -/
def Runs (s : State) : Prop := ∃ t, step s = .next t

/-- k steps in a row answer next states. -/
def SafeFor : Nat → State → Prop
  | 0, _ => True
  | k + 1, s => ∃ t, step s = .next t ∧ SafeFor k t

/-- The trouble log's slots (R348): each of the 4,096 is listed at most once, LOG_PINNED counts the pinned ones, which are at most 32, and
the slot at LOG_HEAD is not pinned. -/
structure TroubleLog.Wf (g : TroubleLog) : Prop where
  once : (g.slots.map (·.1)).Nodup
  range : ∀ x ∈ g.slots, x.1 < 4096
  count : (g.slots.filter (fun x => x.2.pinned)).length = g.pinned.toNat
  most : g.pinned.toNat ≤ 32
  head : (g.slot? g.head.toNat).any (·.pinned) = false

/-- What every step keeps: the plots (R54, R61), host memory and the boot flash list each byte that is not zero once, in rising order;
NS stays below one second (R335); the log's input queue holds at most 256 entries (R347) and its slots are well formed (R348). -/
structure State.Inv (s : State) : Prop where
  sram : Mem.wf s.sram.mem = true
  host : Mem.wf s.host.mem = true
  flash : Mem.wf s.boot.flash = true
  ns : s.clock.ns.toNat < 10 ^ 9
  input : s.log.input.length ≤ 256
  log : s.log.Wf

/-- Commands that may start the standby domain again, or write the registers that PF0 and the I3C target offer (Tables 15-4, 16-7, 18-3). -/
def mayRestart : Instr → Bool
  | .standbyPorRelease _ | .coldReset | .standbyFail | .i3cReset _ | .registerWrite .. => true
  | _ => false
/-- Commands that may move device time: those, and the tick (R335, R337). -/
def mayMoveTime : Instr → Bool
  | .deviceTimeTick => true
  | c => mayRestart c
/-- Commands that may change a key slot (R415). -/
def mayChangeKeys : Instr → Bool
  | .enroll _ | .revoke _ => true
  | c => mayRestart c

/-- Commands that end the life of a standby domain or begin one: cold reset in its three forms, and the standby power events (Tables 15-4,
16-7, 18-8). -/
def coldStarts : Instr → Bool
  | .coldReset | .standbyPorRelease _ | .standbyFail => true
  | .registerWrite f off size v => f == 0 && off == 0x30020 && size == 4 && fld v 31 16 == 0xA5C3 && bit v 2
  | .i3cReset v => fld v 31 16 == 0xA5C3 && bit v 2
  | _ => false

/-! Words of the statements about the engines. -/

/-- The state with other bytes in its plots. -/
def State.withMem (s : State) (m : Bytes) : State := s.modSram (fun r => { r with mem := m })
/-- The state with other units on its rings (R250): an engine's accesses send plot traffic beside what they read and write. -/
def State.withTraffic (s : State) (l : List RingUnit) : State := s.modInfield (fun i => { i with transit := l })
/-- Entry e of a partition's map grants accesses of a kind to a tile in a region (R67, R73): both checker copies are one map, whose used
entry of that index is e, with the kind and the tile. -/
structure State.Grants (s : State) (p : PartId) (tile : Fin 32) (kind region : Nat) (e : BitVec 128) : Prop where
  map : ∃ m, (s.part p).mapA = some m ∧ (s.part p).mapB = some m ∧ m.entry? region = some e
  kind : meHas e kind = true
  tile : meTile e tile.val = true
/-- A tensor operand that a tile may access: its region grants the kind, every element lies in it, and base is where the region begins. -/
structure State.TensorAt (s : State) (t : TileId) (kind : Nat) (x : Ref) (rows cols base : Nat) : Prop where
  grant : ∃ e, s.Grants (partOfTile t) (tileInPart t) kind x.region e ∧ base = partBase (partOfTile t) + meStart e ∧
    ∀ r < rows, ∀ k < cols, x.at r k + x.fmt.size ≤ meLen e
/-- The values of a tensor whose region begins at base. -/
def Ref.valuesIn (x : Ref) (m : Bytes) (base rows cols : Nat) : List (List Val) :=
  (List.range rows).map (fun r => (List.range cols).map (fun k => x.fmt.decode (Mem.nat m (base + x.at r k) x.fmt.size)))
/-- The plots with rows of stored values in a tensor's place. -/
def Ref.storeIn (x : Ref) (m : Bytes) (base : Nat) (rows : List (List Nat)) : Bytes :=
  ((List.range rows.length).zip rows).foldl (fun m row =>
    ((List.range row.2.length).zip row.2).foldl (fun m e => Mem.write m (base + x.at row.1 e.1) (natLE x.fmt.size e.2)) m) m

/-- An engine that starts a command next (R89, R134): its partition runs, it is idle and not in HOLD, and the first source in turn with a
command that can start gives i, which waited on the entries es. -/
structure State.Starts (s : State) (t : TileId) (e : EngineKind) (u : Turn) (i : Issued) (es : List QEntry) : Prop where
  run : (s.part (partOfTile t)).st = .run
  idle : ((s.part (partOfTile t)).engine (tileInPart t) e).running = none
  hold : s.inHold (.tile t) = false
  next : (((s.part (partOfTile t)).engine (tileInPart t) e).turn.order.map (fun w =>
    (w, s.startable (partOfTile t) ((s.part (partOfTile t)).engine (tileInPart t) e) w))).find? (fun x => x.2 != .nothing)
    = some (u, .command i es)
/-- Whether a command that starts runs or is skipped, and with which cause (R92, R133). -/
def State.skipCause (s : State) (p : PartId) (i : Issued) (es : List QEntry) : Option Nat :=
  if i.src == .graph then none else fate (s.part p).pred i.cmd es
/-- The state with the command taken from its queue. -/
def State.taken (s : State) (t : TileId) (e : EngineKind) (u : Turn) : State :=
  s.modPart (partOfTile t) (fun q => q.setEngine (
    let g := (s.part (partOfTile t)).engine (tileInPart t) e
    match u with
    | .graph => { g with graphQ := g.graphQ.tail, turn := u.next }
    | _ => { g with streamQ := g.streamQ.tail, turn := u.next }))
/-- The state with the command running, its posts to carry a payload. -/
def State.nowRuns (s : State) (t : TileId) (e : EngineKind) (i : Issued) (pay : BitVec 96) : State :=
  s.modPart (partOfTile t) (fun q => q.setEngine { q.engine (tileInPart t) e with running := some { cmd := i, payload := pay } })
/-- The accesses of a command on an engine of a tile. -/
def accOf (t : TileId) (e : EngineKind) (i : Issued) : Acc :=
  { part := partOfTile t, tile := tileInPart t, engine := engNo e, unit := engUnit e, cmd := i, loops := none }

/-! Accesses that fail their check (R67, Table 03-8). -/

/-- The package offset of a region's byte, as the accessor's map places it. -/
def State.placeOf (s : State) (a : Acc) (region : Nat) (off : Int) : Nat :=
  match (s.part a.part).mapA.bind (·.entry? region) with
  | some e => partBase a.part + ((meStart e : Int) + off).toNat
  | none => 0
/-- Bytes off to off + len of a region are granted to an accessor. -/
def State.Allows (s : State) (a : Acc) (kind region : Nat) (off : Int) (len : Nat) : Prop :=
  ∃ e, s.Grants a.part a.tile kind region e ∧ 0 ≤ off ∧ off + len ≤ meLen e
/-- The check of an access to bytes off to off + len of a region fails: the map has no such region, the region does not hold the kind or the
tile, or the bytes leave it. code is the cause, r the record with the first byte outside (R72). -/
def State.Denied (s : State) (a : Acc) (kind region : Nat) (off : Int) (len : Nat) (code : W16) (r : Loc) : Prop :=
  ∃ m adr, (s.part a.part).mapA = some m ∧ (s.part a.part).mapB = some m ∧
    r = { a.loc with region := some region, access := kind, address := adr } ∧
    match m.entry? region with
    | none => code = Code.regionKind a.unit ∧ adr = none
    | some e =>
      if meHas e kind = true ∧ meTile e a.tile.val = true then
        ¬(0 ≤ off ∧ off + len ≤ meLen e) ∧ code = Code.regionBounds a.unit ∧
          adr = some (if 0 ≤ off ∧ off < meLen e then ((meStart e + meLen e : Nat) : Int) else meStart e + off)
      else code = Code.regionKind a.unit ∧ adr = some (meStart e + off)
/-- Element (r, k) is the first of a tensor operand, row by row, whose access fails. -/
def State.TensorDenied (s : State) (a : Acc) (kind : Nat) (x : Ref) (rows cols r k : Nat) (code : W16) (w : Loc) : Prop :=
  r < rows ∧ k < cols ∧ s.Denied a kind x.region (x.at r k : Nat) x.fmt.size code w ∧
    ∀ r' k' : Nat, (r' < r ∧ k' < cols) ∨ (r' = r ∧ k' < k) → s.Allows a kind x.region (x.at r' k' : Nat) x.fmt.size
/-- The elements of a tensor before (r, k), row by row. -/
def before {α : Type} (rows : List (List α)) (r k : Nat) : List (List α) := rows.take r ++ [(rows.getD r []).take k]
/-- A command whose work ends in a fault has left its queue and does not run; the plots hold what it stored before. -/
def State.cutBy (s : State) (t : TileId) (e : EngineKind) (u : Turn) (m : Bytes) (l : List RingUnit) (code : W16) (r : Loc) : State :=
  (((s.taken t e u).withMem m).withTraffic l).partJobFault (partOfTile t) code r

/-- The loop descriptor that a reference names, granted to an accessor (R112). -/
def State.LoopsAt (s : State) (a : Acc) (f : LoopRef) (l : Loops) : Prop :=
  s.Allows a Kind.mover f.region (f.offset : Nat) 64 ∧ l = Loops.ofBytes (Mem.read s.sram.mem (s.placeOf a f.region (f.offset : Nat)) 64)
/-- The region offset of visit n of a walk (R113). -/
def walkAt (x : Ref) (l : Loops) (size n : Nat) : Int := (x.offset : Int) + size * l.offset (loopIndex l.counts n)
/-- Is the access of visit n of a walk granted? -/
def State.WalkAllows (s : State) (a : Acc) (x : Ref) (l : Loops) (size n : Nat) : Prop :=
  s.Allows a Kind.mover x.region (walkAt x l size n) size
/-- The access of visit n of a walk fails; the record holds the loop indices. -/
def State.WalkDenied (s : State) (a : Acc) (x : Ref) (l : Loops) (size n : Nat) (code : W16) (w : Loc) : Prop :=
  s.Denied { a with loops := some (loopIndex l.counts n) } Kind.mover x.region (walkAt x l size n) size code w
/-- The plots with one element copied from visit n of one walk to visit k of another. -/
def State.copied (s : State) (a : Acc) (src dst : Ref) (ls ld : Loops) (size : Nat) (from_ m : Bytes) (n k : Nat) : Bytes :=
  Mem.write m (s.placeOf a dst.region (walkAt dst ld size k)) (Mem.read from_ (s.placeOf a src.region (walkAt src ls size n)) size)

end Sys2Proof.Machine
end

