-- ==== Sys2Proof/Certificates/Slice0/Obligations.lean ====
section
/-! DEFINITION. The statements for the provers. Each docstring says what its statement says; where one rests on a choice of the model, it
names the log entry. -/

open Sys2Proof Sys2Proof.Machine


/-- For every state whose queue begins with a command c, one step is exec of c on the state with the queue's rest. That commands wait in one
queue, first in first out, is the model's form (log 1). -/
def Obligations.StepRunsFrontCommand : Prop :=
  ∀ (s : State) (c : Instr) (rest : List Instr), s.pending = c :: rest → step s = exec c { s with pending := rest }

/-- With no command waiting and nothing under way (no unit or frame on a ring, no frame in an elastic buffer, no buffer whose frames are counted, no
hold whose target the next count reaches), a step raises the pace count by one while main conversion runs and a reference clock is present, and
changes nothing else; without either it changes nothing, whatever is under way. From a state that meets the invariant it always answers a next
state, with the queue still empty and device time, the log's slots and the key slots as they were. That a step on an empty queue is one beat is
the model's choice (log 2). -/
def Obligations.EmptyQueuePassesOneBeat : Prop :=
  ∀ s : State, s.pending = [] →
    (s.power.mainPg = true → s.pace.refsLost = false → s.infield.transit = [] → s.infield.flights = [] →
      (∀ l : LinkId, (s.link l).elastic = [] ∧ (s.link l).sincePresented = none) →
      (∀ h ∈ s.pace.holds, (s.pace.count + 1).toNat < h.target) →
      step s = .next { s with pace := { s.pace with count := s.pace.count + 1 } }) ∧
    ((s.power.mainPg = false ∨ s.pace.refsLost = true) → step s = .next s) ∧
    (s.Inv → ∃ t, step s = .next t ∧ t.pending = [] ∧ t.clock.sec = s.clock.sec ∧ t.clock.ns = s.clock.ns ∧ t.log.slots = s.log.slots ∧
      t.mgt.keys = s.mgt.keys)

/-- From every state that meets the invariant, whatever command stands at the front of the queue, a step that answers a next state gives one
that meets it: the plots, host memory and the boot flash stay in canonical form (addresses strictly rising, no zero byte listed), NS of the
device clock stays below 1,000,000,000, the log's input queue holds at most 256 entries, and LOG_PINNED is at most 32. -/
def Obligations.EveryStepKeepsTheInvariant : Prop :=
  ∀ s t : State, s.Inv → step s = .next t → t.Inv

/-- State.reset meets the invariant that every step keeps. -/
def Obligations.ResetMeetsTheInvariant : Prop := State.reset.Inv

/-- At reset the queue of commands, the log and SRAM are empty, every partition is in MARKS with its predicate bits 0, no job is present,
every key slot is EMPTY, no link is enabled, no ring is enabled, device time is 0 with 4 ns a tick and a jump threshold of 1,000,000 ns,
PACE_STRETCH_CLASS is 2, PACE_TIGHTEN_CLASS is 6 and PACE_FLOOR is 0, PWR_CTRL holds MAIN_EN and a limit of 2,500 W, and the scrub and hang limits
stand at their reset values. -/
def Obligations.ResetLeavesTheListedValues : Prop :=
  State.reset.pending = [] ∧ State.reset.log.slots = [] ∧ State.reset.sram.mem = [] ∧ State.reset.jobs = [] ∧
  (∀ p : PartId, (State.reset.part p).st = .marks ∧ (State.reset.part p).pred = 0 ∧ (State.reset.part p).owner = none) ∧
  (∀ k : KeySlotIx, State.reset.mgt.keys[k].state = .empty) ∧
  (∀ l : LinkId, (State.reset.link l).enable = false ∧ (State.reset.link l).stage = .off) ∧
  (∀ (f : FnId) (n : RingIx), (State.reset.fn f).sqs[n].enable = false ∧ (State.reset.fn f).cqs[n].enable = false) ∧
  State.reset.clock.total = 0 ∧ State.reset.clock.incr = 0x0400000000 ∧ State.reset.clock.thresh = 1000000 ∧
  State.reset.pace.stretchClass = 2 ∧ State.reset.pace.tightenClass = 6 ∧ State.reset.pace.floor = 0 ∧
  State.reset.power.mainEn = true ∧ State.reset.power.limit = 2500 ∧ State.reset.mgt.scrubPeriod = 8 ∧ State.reset.mgt.hangLimit = 100

/-- An entry that a unit hands over with a code, a VF, a body and the place of the unit joins the end of the input queue with the device time of
that moment, and with the pace count while the pace runs, when the queue holds fewer than 256 entries. Otherwise LOG_LOST counts one entry: of the
new one and those of its beat in the queue the last in the order of R347 finds no room, so a new entry that is not the last takes the place of the
one that is. Nothing else of the state changes. -/
def Obligations.HandedEntryJoinsTheInputQueue : Prop :=
  ∀ (s : State) (code : W16) (vf place : Nat) (body : LogBody),
    (s.log.input.length < 256 →
      s.hand code vf body place = { s with
        log := { s.log with
          input := s.log.input ++
            [{ code := code, pinned := false, vf := BitVec.ofNat 8 vf, seq := 0, time := s.clock.stamp, body := body
               beat := if s.power.mainPg = true ∧ s.pace.refsLost = false then some s.pace.count.toNat else none, place := place }] } }) ∧
    (∀ e : LogEntry, 256 ≤ s.log.input.length →
      e = { code := code, pinned := false, vf := BitVec.ofNat 8 vf, seq := 0, time := s.clock.stamp, body := body
            beat := if s.power.mainPg = true ∧ s.pace.refsLost = false then some s.pace.count.toNat else none, place := place } →
      (e.beat = none ∨ (∀ x ∈ s.log.input, x.beat = e.beat → x.rank ≤ e.rank) →
        s.hand code vf body place = { s with log := { s.log with lost := satInc s.log.lost } }) ∧
      (∀ y ∈ s.log.input, e.beat.isSome = true → y.beat = e.beat → e.rank < y.rank →
        (∀ x ∈ s.log.input, x.beat = e.beat → x ≠ y → x.rank < y.rank) →
        s.hand code vf body place = { s with
          log := { s.log with input := s.log.input.erase y ++ [e], lost := satInc s.log.lost } }))

/-- From every state that meets the invariant, whatever the command, when exec answers a next state its queue is the queue exec was given: a step
takes the front command and nothing else from the queue. That commands wait in one queue is the model's form (log 1). -/
def Obligations.NoCommandTouchesTheQueue : Prop :=
  ∀ (c : Instr) (s t : State), s.Inv → exec c s = .next t → t.pending = s.pending

/-- From a state that meets the invariant, a command that is neither the tick of the device clock nor one that may start the standby domain
again (a cold reset, a standby power event, a register write, an I3C reset) leaves SEC, NS and FRAC as they were: device time keeps running
through every other reset, and no step, set or jump is applied outside a tick. -/
def Obligations.DeviceTimeMovesOnlyAtItsTick : Prop :=
  ∀ (c : Instr) (s t : State), s.Inv → mayMoveTime c = false → exec c s = .next t →
    t.clock.sec = s.clock.sec ∧ t.clock.ns = s.clock.ns ∧ t.clock.frac = s.clock.frac

/-- From a state that meets the invariant, a slot of the trouble log that holds a pinned entry holds the same entry after every command but
one that may start the standby domain again (a cold reset, a standby power event, a register write, an I3C reset): a pinned slot is never written
again until cold reset, LOG_WRITE included. -/
def Obligations.PinnedLogSlotIsKept : Prop :=
  ∀ (c : Instr) (s t : State) (n : Nat) (e : LogEntry), s.Inv → mayRestart c = false → s.log.slot? n = some e → e.pinned = true →
    exec c s = .next t → t.log.slot? n = some e

/-- From a state that meets the invariant, every command but ENROLL, REVOKE and those that may write the key registers or start the standby
domain again leaves every image key slot, its state and its point, as it was. -/
def Obligations.KeySlotsChangeOnlyByTheirCommands : Prop :=
  ∀ (c : Instr) (s t : State), s.Inv → mayChangeKeys c = false → exec c s = .next t → t.mgt.keys = s.mgt.keys

/-- MAIN_LOW in main conversion is logged once per episode, which MAIN_LOW_CLEAR ends; without main conversion it changes nothing. A standby input
of 3.000 V up to 3.135 V, or above 3.465 V up to 3.8 V, is logged once per episode, which a value from 3.135 V to 3.465 V ends; that this is
the band that ends an episode, and that a value of no band changes nothing, is the model's reading (log 23). TRIP_CLEAR clears TRIP and
THERMTRIP_L when no good sensor reads 90 degrees or more (720 in eighths), and changes nothing otherwise. Nothing else of the state changes, and
nothing at all while the standby domain does not run. -/
def Obligations.SupplyWarningsAndTripClear : Prop :=
  ∀ s : State,
    (s.power.mainPg = true → s.power.mainLow = false →
      exec .mainLow s = .next (({ s with power := { s.power with mainLow := true } } : State).logs Code.mainLow)) ∧
    ((s.power.mainLow = true ∨ s.power.mainPg = false) → exec .mainLow s = .next s) ∧
    exec .mainLowClear s = .next { s with power := { s.power with mainLow := false } } ∧
    (∀ mv : BitVec 13, s.power.porReleased = true →
      ((3000 ≤ mv.toNat ∧ mv.toNat < 3135) ∨ (3465 < mv.toNat ∧ mv.toNat ≤ 3800) →
        (s.power.stbyEpisode = false →
          exec (.stbyOutOfRange mv) s =
            .next (({ s with power := { s.power with stbyEpisode := true } } : State).logs Code.stbyOutOfRange)) ∧
        (s.power.stbyEpisode = true → exec (.stbyOutOfRange mv) s = .next s)) ∧
      (3135 ≤ mv.toNat → mv.toNat ≤ 3465 →
        exec (.stbyOutOfRange mv) s = .next { s with power := { s.power with stbyEpisode := false } }) ∧
      (mv.toNat < 3000 ∨ 3800 < mv.toNat → exec (.stbyOutOfRange mv) s = .next s)) ∧
    (s.power.porReleased = true →
      ((∀ q ∈ s.power.sensors.toList, q.failed = false → q.sampled = true → q.last.toInt < 720) →
        exec .tripClear s = .next { s with power := { s.power with trip := false, thermtrip := false } }) ∧
      ((∃ q ∈ s.power.sensors.toList, q.failed = false ∧ q.sampled = true ∧ 720 ≤ q.last.toInt) → exec .tripClear s = .next s)) ∧
    (s.power.porReleased = false → exec .tripClear s = .next s ∧ ∀ mv : BitVec 13, exec (.stbyOutOfRange mv) s = .next s)

/-- While main conversion runs, MAIN_LOST, MAIN_OVERVOLT, OVERCURRENT and MAIN_DISABLED each stop it: MAIN_PG is low, the plots and the errors of
their words are gone, no unit of the main domain is in HOLD, and each one's epoch is one higher, no request of the Infield is outstanding, and
the host port is in Detect, or in reset while PERST_L is asserted. The standby domain goes on: device time, the slots of the trouble log, the key
slots, the Management Complex's HOLD and epoch, and the queue of commands are as they were. That no unit stands in HOLD, that the epochs rise without
one, that the Management Complex keeps its own, and that no request is left, is the model's reading (log 25). The state met is one that meets the
invariant. -/
def Obligations.MainInputEventsStopConversion : Prop :=
  ∀ (s : State) (c : Instr), s.Inv → s.power.porReleased = true → s.power.mainPg = true →
    c = .mainLost ∨ c = .mainOvervolt ∨ c = .overcurrent ∨ c = .mainDisabled →
    ∃ t, exec c s = .next t ∧ t.power.mainPg = false ∧ t.sram.mem = [] ∧ t.sram.ecc = [] ∧
      (∀ u : UnitId, u ≠ .managementComplex → t.inHold u = false ∧ t.unitEpoch u = s.unitEpoch u + 1) ∧
      t.inHold .managementComplex = s.inHold .managementComplex ∧ t.mgt.epoch = s.mgt.epoch ∧
      t.infield.requests = [] ∧ t.hiu.port = (if s.power.perst then .reset else .detect) ∧ t.power.porReleased = true ∧
      t.clock.sec = s.clock.sec ∧ t.clock.ns = s.clock.ns ∧ t.log.slots = s.log.slots ∧ t.mgt.keys = s.mgt.keys ∧ t.pending = s.pending

/-- With the standby domain running, MAIN_EN set, conversion off, and neither TRIP nor the overcurrent bit set, MAIN_CONVERSION_START raises
MAIN_PG, starts the zeroing of every partition towards MARKS, leaves no job, lets the host port train when PERST_L is released, and starts
the pace count at 0 (that the count starts again is the model's reading, log 20). The plots, host memory, the trouble log's slots and the queue are
as they were. SENSOR_SAMPLE with no sensor hot twice in a row stores the readings of the inputs and each sensor's new state. -/
def Obligations.ConversionStartsAndSensorsAreSampled : Prop :=
  ∀ s : State,
    (s.power.porReleased = true → s.power.mainPg = false → s.power.mainEn = true → s.power.trip = false → s.power.overcurrent = false →
      ∃ t, exec .mainConversionStart s = .next t ∧ t.power.mainPg = true ∧ t.power.stopped = false ∧ t.jobs = [] ∧
        (∀ p : PartId, (t.part p).st = .marks ∧ (t.part p).zeroing = true ∧ (t.part p).owner = (s.part p).owner) ∧
        t.hiu.port = (if s.power.perst then .reset else .detect) ∧ t.pace = { s.pace with count := 0 } ∧
        t.sram = s.sram ∧ t.host = s.host ∧ t.log.slots = s.log.slots ∧ t.pending = s.pending) ∧
    (∀ (r : Vector (BitVec 16) 64) (vin pw : BitVec 12) (vs : BitVec 8), s.power.porReleased = true →
      (∀ i : Fin 64, s.power.sensors[i].hot = true → ((s.power.sensors[i].take r[i]).1).hot = false) →
      ∃ t, exec (.sensorSample r vin pw vs) s = .next t ∧ t.power.vin = vin ∧ t.power.powerW = pw ∧ t.power.vstby = vs ∧
        (∀ i : Fin 64, t.power.sensors[i] = (s.power.sensors[i].take r[i]).1) ∧
        t.power.peakPower = (if s.power.peakPower.toNat < pw.toNat then pw else s.power.peakPower) ∧
        t.power.trip = s.power.trip ∧ t.power.mainPg = s.power.mainPg ∧ t.sram = s.sram ∧ t.jobs = s.jobs ∧ t.parts = s.parts)

/-- STANDBY_POR_RELEASE samples the straps and starts the standby domain: the boot ROM runs, the log holds COLD_RESET alone, in its input queue.
COLD_RESET does the same while the domain runs: device time is 0, no job is present, every partition is in MARKS (zeroing when the main rails are
up), every key slot is EMPTY. That TRIP, MAIN_PG, the straps and the JTAG instruction stay over a COLD_RESET is the model's reading, against a row
of Table 15-4 that names nothing as surviving (log 21). STANDBY_FAIL loses all state. After each the host port is in Detect, in reset while PERST_L
is asserted. None of them touches host memory, the boot flash or the queue, which is the model's form (log 1). -/
def Obligations.StandbyDomainStartsAgain : Prop :=
  ∀ s : State,
    (∀ strap : BitVec 3, s.power.porReleased = false →
      ∃ t, exec (.standbyPorRelease strap) s = .next t ∧ t.power.porReleased = true ∧ t.power.strap = strap ∧ t.boot.mode = .rom ∧
        t.log.slots = [] ∧ t.log.input.map (·.code) = [Code.coldReset] ∧ t.clock.total = 0 ∧ t.jobs = [] ∧
        t.hiu.port = (if s.power.perst then .reset else .detect) ∧ t.host = s.host ∧ t.boot.flash = s.boot.flash ∧ t.pending = s.pending) ∧
    (s.power.porReleased = true →
      ∃ t, exec .coldReset s = .next t ∧ t.power.porReleased = true ∧ t.power.trip = s.power.trip ∧ t.power.mainPg = s.power.mainPg ∧
        t.power.strap = s.power.strap ∧ t.boot.mode = .rom ∧ t.log.slots = [] ∧ t.log.input.map (·.code) = [Code.coldReset] ∧
        t.clock.total = 0 ∧ t.jobs = [] ∧ t.sram.mem = [] ∧
        (∀ p : PartId, (t.part p).st = .marks ∧ (t.part p).zeroing = s.power.mainPg) ∧
        (∀ k : KeySlotIx, t.mgt.keys[k].state = .empty) ∧ t.hiu.port = (if s.power.perst then .reset else .detect) ∧
        t.host = s.host ∧ t.boot.flash = s.boot.flash ∧ t.side.jtag = s.side.jtag ∧ t.pending = s.pending) ∧
    (s.power.porReleased = true →
      ∃ t, exec .standbyFail s = .next t ∧ t.power.porReleased = false ∧ t.power.mainPg = false ∧ t.log.slots = [] ∧ t.log.input = [] ∧
        t.hiu.port = (if s.power.perst then .reset else .detect) ∧ t.jobs = [] ∧ t.sram.mem = [] ∧ t.host = s.host ∧
        t.boot.flash = s.boot.flash ∧ t.pending = s.pending)

/-- RACKREF_LOST changes the pacer to LOCALREF and logs it; RACKREF_RESTORED marks that the pacer changes back at the next mark; REFS_LOST is a
class 5 fault of the package; TIME_REF_FALLBACK runs device time from SVCREF and logs it once; LOCALREF_RETURN ends the fallback. Apart from
the class 5 fault, nothing but the clock fields and the log changes. -/
def Obligations.ReferenceClocksComeAndGo : Prop :=
  ∀ s : State,
    (s.power.mainPg = true → s.pace.localref = false →
      exec .rackrefLost s =
        .next (({ s with pace := { s.pace with localref := true, rackrefBack := false } } : State).logs Code.rackrefLost)) ∧
    (s.power.mainPg = true → s.pace.localref = true →
      exec .rackrefRestored s = .next { s with pace := { s.pace with rackrefBack := true, refsLost := false } }) ∧
    (s.power.mainPg = true → s.pace.refsLost = false →
      exec .refsLost s =
        .next (({ s with
          pace := { s.pace with refsLost := true, localref := true, rackrefBack := false } } : State).packageFault Code.refsLost)) ∧
    (s.power.porReleased = true → s.clock.fallback = false →
      exec .timeRefFallback s =
        .next (({ s with clock := { s.clock with fallback := true } } : State).logs Code.timeRefFallback)) ∧
    exec .localrefReturn s =
      .next { s with
        clock := { s.clock with fallback := false }
        pace := { s.pace with refsLost := false } }

/-- PERST_L asserted while the port is not up holds it in reset; while it is up its link is lost with it. Released, it lets the port go to Detect,
where it stays while MAIN_PG is low: no training ends there. The loss of an up link is a function level reset of PF0 with HOST_LINK_DOWN logged
first, then the negotiation and the configuration space are gone and the HIU's epoch is one higher; a failed training is logged once per episode
(log 147). A training that ends with an option of Table 12-1 brings the port up with that option and with what the host programs into the
configuration space; one with no such option is a failed training; an error that the port corrected is logged as PORT_CORRECTED (with no function
that has chosen snoop mode, and no message that waits to be let go). Over its lanes, which need MAIN_PG, FUNCTION_RESET of a VF with no live job and
no PARK under way puts every register and ring of that function, its MSI-X Enable with them, back to reset and keeps every other function's
registers (while no update of the firmware reads its image); that of PF0 unbinds every partition, ends the service transmit ring and clears the
exclusion windows; without MAIN_PG it does not arrive. -/
def Obligations.HostPortAndFunctionReset : Prop :=
  ∀ s : State,
    (s.hiu.port ≠ .up →
      exec (.perstLChange true) s = .next { s with
        power := { s.power with perst := true }
        hiu := { s.hiu with port := .reset } }) ∧
    (s.hiu.port = .up →
      ∃ t, exec (.perstLChange true) s = .next t ∧ t.hiu.port = .reset ∧ t.power.perst = true ∧ t.hiu.bind = Vector.replicate 8 0 ∧
        t.svc.tx.enable = false) ∧
    (s.hiu.port = .reset →
      exec (.perstLChange false) s = .next { s with
        power := { s.power with perst := false }
        hiu := { s.hiu with port := .detect, downEpisode := false } }) ∧
    (s.hiu.port ≠ .reset → exec (.perstLChange false) s = .next { s with power := { s.power with perst := false } }) ∧
    (s.hiu.port = .detect → s.power.mainPg = false →
      exec .hostLinkDown s = .next s ∧ ∀ (r : BitVec 4) (w : BitVec 5) (m : PortMode) (g : PortSetup), exec (.hostLinkUp r w m g) s = .next s) ∧
    (s.hiu.port = .up → ∃ t u, u = (s.logs Code.hostLinkDown).functionReset 0 ∧ exec .hostLinkDown s = .next t ∧
      t = { u with hiu := { u.hiu with
        port := .detect, rate := 0, width := 0, flit := false, cxlCache := false, config := PortConfig.reset, lines := []
        epoch := u.hiu.epoch + 1, downEpisode := true } } ∧
      t.hiu.bind = Vector.replicate 8 0 ∧ t.svc.tx.enable = false) ∧
    (s.hiu.port = .detect → s.power.mainPg = true → s.hiu.downEpisode = false →
      exec .hostLinkDown s = .next (({ s with hiu := { s.hiu with downEpisode := true } } : State).logs Code.hostLinkDown)) ∧
    (∀ (r : BitVec 4) (w : BitVec 5) (flit cxl fixed : Bool) (g : PortConfig), s.hiu.port ≠ .reset → s.power.mainPg = true →
      s.power.perst = false →
      (1 ≤ r.toNat ∧ r.toNat ≤ 3 → w = 4 ∨ w = 8 ∨ w = 16 → (r = 3 → flit = true) → (cxl = true → r = 3) →
        (∀ f : FnId, (s.fn f).dblMode = false ∧ (s.fn f).msixPend = 0) →
        ∃ t, exec (.hostLinkUp r w { flit := flit, cxlCache := cxl } { config := g, corrected := fixed }) s = .next t ∧
          t.hiu = { s.hiu with
            port := .up, rate := r, width := w, flit := flit, cxlCache := cxl, config := g, downEpisode := false, lines := [] } ∧
          t.log = (if fixed then (s.logs Code.portCorrected).log else s.log) ∧
          t.parts = s.parts ∧ t.jobs = s.jobs ∧ t.links = s.links) ∧
      (r = 0 ∨ 3 < r.toNat ∨ (w ≠ 4 ∧ w ≠ 8 ∧ w ≠ 16) ∨ (r = 3 ∧ flit = false) ∨ (cxl = true ∧ r ≠ 3) → s.hiu.port = .detect →
        s.hiu.downEpisode = false →
        exec (.hostLinkUp r w { flit := flit, cxlCache := cxl } { config := g, corrected := fixed }) s =
          .next (({ s with hiu := { s.hiu with downEpisode := true } } : State).logs Code.hostLinkDown))) ∧
    (∀ f : FnId, s.hostLanes = true → f ≠ 0 → s.mgt.task = none → s.boot.stage ≠ .reading →
      (∀ j ∈ s.jobs, j.fn = f → j.phase = .faulted) → (∀ x ∈ s.mgt.unloads, x.parked = none) →
      ∃ t, exec (.functionReset f) s = .next t ∧ t.fn f = Function.reset ∧ (∀ g : FnId, g ≠ f → t.fn g = s.fn g) ∧
        t.parts = s.parts ∧ (∀ d ∈ t.hiu.mcQueue ++ t.hiu.reQueue, d.fn ≠ f) ∧ (∀ o ∈ t.hiu.winOps, o.desc.fn ≠ f) ∧
        (∀ x ∈ t.hiu.headerWaits, x.fn ≠ f) ∧ bit t.hiu.config.msixEnable f.val = false ∧ (∀ n : TRingId, (s.tring n).vf.toNat = f.val →
            (t.tring n).enable = false)) ∧
    (s.hostLanes = true → ∃ t, exec (.functionReset 0) s = .next t ∧ t.hiu.bind = Vector.replicate 8 0 ∧ t.svc.tx.enable = false ∧
      t.hiu.exclBase = Vector.replicate 4 0 ∧ t.hiu.exclLimit = Vector.replicate 4 0 ∧ t.hiu.errMask = 3) ∧
    (∀ f : FnId, s.hostLanes = false → exec (.functionReset f) s = .next s)

/-- With the boot ROM waiting and the flash interface not cut off, BOOT reads the flash as the command gives it. When the slot that ACTIVE names
passes its checks, its firmware runs: version, SVN and measurement digest are those of the image. When only the other slot passes, that one
runs, behind an entry with the first slot and the check that it failed. When neither passes, the ROM stays in recovery with an entry for each slot
and the class 5 fault BOOT_FAILED. The order of the checks, form, signature, SVN, is that of the rule's list (log 26). -/
def Obligations.BootRunsTheFirstGoodSlot : Prop :=
  ∀ (s : State) (ws : List (Nat × Byte)) (b : Boot),
    s.power.porReleased = true → s.boot.mode = .rom → s.landsCut = false →
    b = { s.boot with flash := Mem.writeAll s.boot.flash ws } →
    (∀ im : List Byte, b.slot b.activeB = .ok im →
      ∃ t, exec (.boot ws) s = .next t ∧
        t.boot = { b with
          mode := .running, stage := .idle, staged := [], slotB := b.activeB
          fwVersion := BitVec.ofNat 32 (leAt im 4 4), svn := BitVec.ofNat 16 (leAt im 8 2)
          fwDigest := shaField (im.take (im.length - 256)) } ∧
        t.log = (s.hand Code.bootDone 0 (.count (BitVec.ofNat 64 (BitVec.ofNat 32 (leAt im 4 4)).toNat))).log ∧
        t.parts = s.parts ∧ t.links = s.links ∧ t.jobs = s.jobs) ∧
    (∀ (im : List Byte) (c : BootCheck), b.slot b.activeB = .error c → b.slot (!b.activeB) = .ok im →
      ∃ t, exec (.boot ws) s = .next t ∧
        t.boot = { b with
          mode := .running, stage := .idle, staged := [], slotB := !b.activeB
          fwVersion := BitVec.ofNat 32 (leAt im 4 4), svn := BitVec.ofNat 16 (leAt im 8 2)
          fwDigest := shaField (im.take (im.length - 256)) } ∧
        t.log = ((s.hand Code.bootSlotBad 0 (.slot b.activeB c)).hand Code.bootDone 0
          (.count (BitVec.ofNat 64 (BitVec.ofNat 32 (leAt im 4 4)).toNat))).log ∧
        t.parts = s.parts ∧ t.links = s.links ∧ t.jobs = s.jobs) ∧
    (∀ c d : BootCheck, b.slot b.activeB = .error c → b.slot (!b.activeB) = .error d →
      ∃ u : State, exec (.boot ws) s = .next (u.packageFault Code.bootFailed) ∧ u.boot = { b with mode := .recovery, slotB := b.activeB } ∧
        u.log = ((s.hand Code.bootSlotBad 0 (.slot b.activeB c)).hand Code.bootSlotBad 0 (.slot (!b.activeB) d)).log ∧
        u.parts = s.parts ∧ u.links = s.links ∧ u.jobs = s.jobs)

/-- FW_UPDATE over the host's lanes, on an idle management core with no descriptor waiting for it, starts the reading, which waits while a load is
taken up. With no load taken up and the image's header claimed (R310; else it waits for it), an image behind a header that PF0's window holds in
DEVICE, and that passes its checks, is staged: its header goes back to the host with SUCCESS and the switch begins; a read of the image that
fails hands the header back with its status, the bytes moved and the fault code, and the old firmware goes on, as after a header that does not
translate or is not in DEVICE. FW_SWITCH_COMPLETE with the flash written runs the staged image from the other slot; with the flash write failed, or the
flash interface cut off, or a flash header that is not well formed or places the other slot beyond the flash, the old firmware goes on and
FW_REJECTED is logged; behind such a header no image is staged either. In any other stage both leave the firmware alone. That the row goes
through reading and checking to the switch at once, and that both flash slots are written after the switch, the image first and ACTIVE next, are
the model's choices (log 27). -/
def Obligations.LiveUpdateStagesAndSwitches : Prop :=
  ∀ (s u : State), u = { s with boot := { s.boot with stage := .reading } } →
    (s.hostLanes = true → s.boot.stage = .idle → (s.boot.mode = .running ∨ s.boot.mode = .recovery) → s.mgt.loads = [] → s.hiu.mcQueue = [] →
      (∀ (f : FnId) (n : RingIx), ∀ d ∈ (s.fn f).sqs[n].held, Op.ofMc d.opcode = false) → (∀ x ∈ s.hiu.headerWaits, x.user ≠ .firmware) →
      (s.loading = true → exec .fwUpdate s = .next u) ∧
      (s.loading = false → winOffsetOk s.boot.fwOffset = false → exec .fwUpdate s = .next (u.fwReject Status.badDescriptor)) ∧
      (∀ x : HeaderWait, s.loading = false → winOffsetOk s.boot.fwOffset = true → x = u.headerWait .firmware 0 s.boot.fwOffset →
        (u.mayTake x = false → exec .fwUpdate s = .next (u.keepWait x)) ∧
        (∀ w : WalkFail, u.mayTake x = true → u.walk (s.fn 0).winRoot s.boot.fwOffset.toNat 64 true = .fail w →
          exec .fwUpdate s = .next ((u.winFault 0 w.code).fwReject w.status)) ∧
        (∀ (a k : Nat) (bs : List Byte), u.mayTake x = true → u.walk (s.fn 0).winRoot s.boot.fwOffset.toNat 64 true = .page a k →
          u.hostRead a 16 = some bs → headerBad s.boot.fwOffset.toNat (leAt bs 0 8) (leAt bs 8 8) = false →
          (leAt bs 0 8 % 4 ≠ Owner.device → exec .fwUpdate s = .next ((u.winMismatch 0).fwReject Status.ownerMismatch)) ∧
          (∀ h : Hdr, leAt bs 0 8 % 4 = Owner.device → h = { seq := nbits (leAt bs 0 8) 63 32, len := nbits (leAt bs 8 8) 39 0 } →
            (∀ (v : State) (im : List Byte), u.fwFetch (s.fn 0).winRoot s.boot.fwOffset.toNat h.len = (v, .image im) →
              exec .fwUpdate s = .next ((v.writeHeader a h Owner.host Status.success false im.length 0 0).modBoot
                (fun b => { b with stage := .switching, staged := im }))) ∧
            (∀ (v : State) (st : Byte) (n : Nat) (early : Bool) (c : W16),
              u.fwFetch (s.fn 0).winRoot s.boot.fwOffset.toNat h.len = (v, .fail st n early c) →
              exec .fwUpdate s = .next ((v.writeHeader a h Owner.host st early n c 0).fwReject st)))))) ∧
    (s.hostLanes = true → s.boot.stage ≠ .idle → exec .fwUpdate s = .next (s.logs Code.setupRejected 0)) ∧
    (s.hostLanes = false → exec .fwUpdate s = .next s) ∧
    (s.boot.stage = .switching → s.side.i3cHeld = [] → s.mgt.poisons = [] →
      (s.boot.headOk = true → s.boot.slotAt (!s.boot.slotB) + s.boot.staged.length ≤ Config.flashSize → Mem.wf s.boot.flash = true → s.landsCut = false →
        ∃ t, exec (.fwSwitchComplete true) s = .next t ∧ t.boot.mode = .running ∧ t.boot.stage = .idle ∧ t.boot.staged = [] ∧
          t.boot.slotB = !s.boot.slotB ∧ t.boot.fwVersion = BitVec.ofNat 32 (leAt s.boot.staged 4 4) ∧
          Mem.get t.boot.flash 4 = (if s.boot.slotB then 0 else 1) ∧ t.parts = s.parts ∧ t.jobs = s.jobs ∧ t.hiu = s.hiu) ∧
      (∀ ok : Bool, ok = false ∨ s.landsCut = true ∨ s.boot.headOk = false ∨
          Config.flashSize < s.boot.slotAt (!s.boot.slotB) + s.boot.staged.length →
        ∃ t, exec (.fwSwitchComplete ok) s = .next t ∧ t.boot = { s.boot with stage := .idle, staged := [] } ∧
          t.log = (s.logs Code.fwRejected).log ∧ t.parts = s.parts ∧ t.jobs = s.jobs ∧ t.hiu = s.hiu)) ∧
    (∀ ok : Bool, s.boot.stage ≠ .switching → exec (.fwSwitchComplete ok) s = .next s) ∧
    (∀ (v : State) (root off : W64) (n : Nat) (im : List Byte), s.fwFetch root off.toNat n = (v, .image im) →
      s.boot.headOk = true ∧ s.boot.slotAt (!s.boot.slotB) + im.length ≤ Config.flashSize)

/-- With the standby domain running and the invariant met, WARM_RESET leaves no job, every partition zeroing on its way to MARKS, every unit in HOLD
with its epoch as it was (log 24), every function at reset, no partition bound and no link up; a partition of a job that had not faulted is to be
scrubbed before it is zeroed; device time, the log's slots and the key slots stay. A reset of
the Management Complex, by MC_RESET or by its watchdog while firmware serves, puts it into HOLD, ends log export and every stream, gives up an update
that has not reached its switch, and leaves device time, the log's slots, key slots, its epoch, and the descriptors and loads that it has not taken
up (log 35); with no descriptor or request outstanding at it, it leaves every partition, job, link and ring as it was. HOLD_EXIT then raises its
epoch, and logs MC_RESET. -/
def Obligations.PackageResetsLeaveWhatTheTableSays : Prop :=
  ∀ s : State, s.Inv →
    (s.power.porReleased = true →
      ∃ t, exec .warmReset s = .next t ∧ t.jobs = [] ∧ (∀ p : PartId, (t.part p).st = .marks ∧ (t.part p).zeroing = true) ∧
        (∀ u : UnitId, t.inHold u = true ∧ t.unitEpoch u = s.unitEpoch u) ∧
        (∀ (p : PartId) (j : Job), (s.part p).job = some j.id → s.job? j.id = some j → j.phase ≠ .faulted → (s.part p).st ≠ .faulted →
          (t.part p).scrubFirst = true) ∧
        (∀ f : FnId, t.fn f = Function.reset) ∧ t.hiu.bind = Vector.replicate 8 0 ∧
        (∀ l : LinkId, t.up l = false) ∧ t.boot.fwOffset = 0 ∧ t.clock.sec = s.clock.sec ∧ t.clock.ns = s.clock.ns ∧ t.log.slots = s.log.slots ∧
        t.mgt.keys = s.mgt.keys ∧ t.pending = s.pending) ∧
    (∀ c : Instr, (c = .mcReset ∧ s.power.porReleased = true) ∨ (c = .mcWatchdogExpiry ∧ s.fwServes = true) →
      ∃ t, exec c s = .next t ∧ t.inHold .managementComplex = true ∧
        (∀ u : UnitId, u ≠ .managementComplex → t.inHold u = s.inHold u) ∧ (∀ u : UnitId, t.unitEpoch u = s.unitEpoch u) ∧
        t.svc.subscriber = none ∧ (∀ (n : Fin 4) (o : OutStream), t.svc.streams[n] = some o → o.stop.isSome = true) ∧
        t.boot.stage ≠ .reading ∧ t.boot.stage ≠ .checking ∧ t.hiu.mcQueue = s.hiu.mcQueue ∧ t.mgt.loads = s.mgt.loads ∧
        t.clock.sec = s.clock.sec ∧ t.clock.ns = s.clock.ns ∧
        t.log.slots = s.log.slots ∧ t.mgt.keys = s.mgt.keys ∧ t.pending = s.pending ∧
        (s.mcOpen = [] → s.svc.requests = [] → s.infield.requests = [] →
          t.parts = s.parts ∧ t.jobs = s.jobs ∧ t.links = s.links ∧ t.fns = s.fns ∧ t.mgt = { s.mgt with restarting := true }))

/-- With main power on and no error in the recovery reserve, a reset of a tile, Sequencer core or Point Engine that is not in HOLD puts it into
HOLD. A tile's job in RUN faults with TILE_RESET, and nothing else changes. Of a Sequencer core, a job in RUN that has streams in a partition of
its die faults with SEQUENCER_RESET; that one without such a partition changes nothing else is the model's choice (log 36: Table 15-4 names no
state). Of a Point Engine without a queued FRAME nothing else changes but its PE_RESET entry; its queued FRAMEs first each post void of cause 3, oldest first,
the waits of one consumed when they were met, else left. A unit that is in HOLD refuses the reset with
SETUP_REJECTED. UNIT_HUNG logs the started command and resets the unit. HOLD_EXIT raises the unit's epoch by one and takes it out of HOLD, the
Management Complex among them, whose own reset is then logged. -/
def Obligations.UnitsPassThroughHold : Prop :=
  ∀ s : State,
    (∀ u : UnitId, s.power.mainPg = true → s.inHold u = true → ∀ c : Instr,
      (∃ t, u = .tile t ∧ c = .tileReset t) ∨ (∃ d, u = .sequencer d ∧ c = .sequencerReset d) ∨ (∃ d, u = .pointEngine d ∧ c = .peReset d) →
      exec c s = .next (s.logs Code.setupRejected 0)) ∧
    (∀ t : TileId, s.power.mainPg = true → s.inHold (.tile t) = false → (∀ x ∈ s.sram.reserve, x.part ≠ .recovery) →
      ((s.part (partOfTile t)).st ≠ .run → exec (.tileReset t) s = .next { s with units := { s.units with hold := .tile t :: s.units.hold } }) ∧
      (∀ j : Job, (s.part (partOfTile t)).st = .run → s.jobOf (partOfTile t) = some j → j.phase ≠ .faulted →
        exec (.tileReset t) s = .next
          ((({ s with units := { s.units with hold := .tile t :: s.units.hold } } : State).logs Code.tileReset j.fn.val).jobFaultQuiet
            j.id Code.tileReset))) ∧
    (∀ (d : DieId) (h : State), s.power.mainPg = true → (∀ x ∈ s.sram.reserve, x.part ≠ .recovery) → s.inHold (.sequencer d) = false →
      h = { s with units := { s.units with hold := .sequencer d :: s.units.hold } } →
      ((∀ p ∈ dieParts d, (s.part p).st = .run → (s.part p).streams = []) → exec (.sequencerReset d) s = .next h) ∧
      (∀ (p : PartId) (j : Job), p ∈ dieParts d → (s.part p).st = .run → (s.part p).streams ≠ [] → s.jobOf p = some j → j.phase ≠ .faulted →
        (∀ q ∈ dieParts d, q ≠ p → (s.part q).st = .run → (s.part q).streams = []) →
        exec (.sequencerReset d) s = .next ((h.logs Code.sequencerReset j.fn.val).jobFaultQuiet j.id Code.sequencerReset))) ∧
    (∀ d : DieId, s.power.mainPg = true → (∀ x ∈ s.sram.reserve, x.part ≠ .recovery) → s.inHold (.pointEngine d) = false →
      (∀ p ∈ dieParts d, (s.part p).st ≠ .run ∧ (s.part p).pointQ = []) →
      exec (.peReset d) s = .next
        (({ s with units := { s.units with hold := .pointEngine d :: s.units.hold } } : State).logs Code.peReset 0 (d.val * 8))) ∧
    (∀ (d : DieId) (h : State), s.power.mainPg = true → (∀ x ∈ s.sram.reserve, x.part ≠ .recovery) → s.inHold (.pointEngine d) = false →
      h = { s with units := { s.units with hold := .pointEngine d :: s.units.hold } } →
      exec (.peReset d) s = .next
        (((dieParts d).foldl (fun t p => (t.voidFrames p (t.part p).pointQ.length).settle p) h).logs Code.peReset 0 (d.val * 8))) ∧
    (∀ (p : PartId) (n : Nat), ((s.part p).pointQ = [] → s.voidFrames p n = s) ∧
      ((s.part p).pointQ ≠ [] → s.voidFrames p (n + 1) = (s.voidFrame p).voidFrames p n)) ∧
    (∀ (p : PartId) (i : Issued) (rest : List Issued) (v : State), (s.part p).pointQ = i :: rest →
      v = s.modPart p (fun q => { q with pointQ := rest }) →
      (i.src = .graph ∨ (∃ es, s.waitsOf p i = .met es) →
        s.voidFrame p = v.retire p i (fun id g => mkVoid 3 id g (i.src8 p)) 5) ∧
      (i.src ≠ .graph → (∀ es, s.waitsOf p i ≠ .met es) →
        s.voidFrame p = v.postAll p i (fun id g => mkVoid 3 id g (i.src8 p)) (i.loc p 5))) ∧
    (∀ (u : UnitId) (p : PartId) (r : Loc), s.inHold u = false → s.startedCommand u = some (p, r) →
      exec (.unitHung u) s = .next ((s.logAt Code.unitHung (s.vfOf p) r).resetUnit u)) ∧
    (∀ u : UnitId, s.startedCommand u = none → exec (.unitHung u) s = .next s) ∧
    (∀ u : UnitId, s.inHold u = true → u ≠ .managementComplex ∨ s.mgt.restarting = false →
      ∃ t, exec (.holdExit u) s = .next t ∧ t.inHold u = false ∧ t.unitEpoch u = s.unitEpoch u + 1 ∧
        (∀ v : UnitId, v ≠ u → t.inHold v = s.inHold v ∧ t.unitEpoch v = s.unitEpoch v) ∧ t = { s with units := t.units, mgt := t.mgt } ∧
        t.mgt = (if u = .managementComplex then { s.mgt with epoch := s.mgt.epoch + 1 } else s.mgt)) ∧
    (s.inHold .managementComplex = true → s.mgt.restarting = true →
      exec (.holdExit .managementComplex) s = .next (({ s with
        units := { s.units with hold := s.units.hold.filter (· != .managementComplex) }
        mgt := { s.mgt with epoch := s.mgt.epoch + 1, restarting := false } } : State).logs Code.mcReset)) ∧
    (∀ u : UnitId, s.inHold u = false → exec (.holdExit u) s = .next s)

/-- At a count that is a multiple of 4,096, with main power on, MARK latches the count and the device time unless a read has frozen them, judges the
input power against its limit, changes back to RACKREF with RACKREF_RESTORED when that is due, starts a new period on every link, and starts the
worst slack class again at 7. A package in no domain does no more. A follower counts one more period without a mark from its parent, and queues two
copies of its slack report to the parent while that link is UP: the worse of its own class and its children's, with the thermal flag. The pace
master evaluates the domain's class, while a job runs on it (log 52) and no announcement stands and no evaluation is skipped: below STRETCH it
announces the next looser grade, at the loosest it logs GRADE_LIMIT; below the floor it goes looser; with TIGHTEN and the target's least class met
for 2^20 beats, no thermal flag and a target within the domain's floor (log 172) it goes tighter. An announcement names the count H beats ahead and
goes to every tree link. MARK_LOST on a follower with three periods gone faults its domain, and changes nothing before or on the master. -/
def Obligations.MarksLatchReportAndAreMissed : Prop :=
  (∀ (s : State) (pw : BitVec 12) (dl : DelayFactors),
    (s.pace.count.toNat % 4096 ≠ 0 ∨ s.power.mainPg = false → exec (.mark pw dl) s = .next s) ∧
    (∀ (c v u : State) (w : Fin 8) (th : Bool), s.pace.count.toNat % 4096 = 0 → s.power.mainPg = true →
      c = (if s.clock.paceFrozen then s else { s with clock := { s.clock with paceCount := s.pace.count, paceTime := s.clock.stamp } }) →
      v = (if s.pace.rackrefBack then
            ((c.powerMark pw).modPace (fun p => { p with localref := false, rackrefBack := false })).logs Code.rackrefRestored
          else c.powerMark pw) →
      w = min v.pace.worst (v.ownSlack dl) → th = (v.pace.thermalSeen || v.power.thermal || v.power.powerStretch) →
      u = { v with
        pace := { v.pace with worst := 7, lastWorst := w, thermalSeen := false, segments := [] }
        links := v.links.map (fun k => { k with
          laneErrNow := k.laneErrLimit, rx := { k.rx with errors := Vector.replicate 18 0 } }) } →
      (s.pace.domain = none → exec (.mark pw dl) s = .next u) ∧
      (∀ (d : Domain) (l : LinkId), s.pace.domain = some d → d.parent = some l →
        exec (.mark pw dl) s = .next ((if s.up l then u.modLink l (fun k => { k with
            paceCells := k.paceCells ++ [{ kind := PaceKind.report, copies := 2, body := reportBody w th }] })
          else u).modPace (fun p => { p with missedMarks := s.pace.missedMarks + 1, skipEval := false }))) ∧
      (∀ d : Domain, s.pace.domain = some d → d.parent = none →
        exec (.mark pw dl) s = .next ((u.evaluate w th).modPace (fun p => { p with skipEval := false })))) ∧
    (s.pace.domain = none ∨ (∃ d : Domain, s.pace.domain = some d ∧ (d.parent = none ∨ s.pace.missedMarks < 4)) →
      exec .markLost s = .next s) ∧
    (∀ (d : Domain) (l : LinkId), s.pace.domain = some d → d.parent = some l → 4 ≤ s.pace.missedMarks →
      exec .markLost s = .next (s.domainFault Code.markLost)) ∧
    (s.power.limit.toNat < pw.toNat → s.power.powerStretch = false →
      s.powerMark pw = ({ s with power := { s.power with
        peakPower := 0, powerStretch := true, alertStatus := s.power.alertStatus ||| 4 } } : State).logs Code.powerStretch) ∧
    (pw.toNat ≤ s.power.limit.toNat → s.power.powerStretch = true → max pw.toNat s.power.peakPower.toNat * 100 < s.power.limit.toNat * 95 →
      s.powerMark pw = { s with power := { s.power with peakPower := 0, powerStretch := false } }) ∧
    ((s.power.limit.toNat < pw.toNat ∧ s.power.powerStretch = true) ∨ (pw.toNat ≤ s.power.limit.toNat ∧ (s.power.powerStretch = false ∨
        s.power.limit.toNat * 95 ≤ max pw.toNat s.power.peakPower.toNat * 100)) →
      s.powerMark pw = { s with power := { s.power with peakPower := 0 } })) ∧
  (∀ (s a : State) (w g : Fin 8) (th : Bool) (since : Nat), g = s.pace.grade →
    since = (if s.pace.tightenClass.toNat ≤ w.val ∧ gradeLeast (tighter g) ≤ w.val ∧ g ≠ 0 then s.pace.tightenSince
      else s.pace.count.toNat) →
    a = s.modPace (fun p => { p with tightenSince := since }) →
    (s.pace.outstanding.isSome = true ∨ s.pace.skipEval = true ∨ (∀ j ∈ s.jobs, j.phase ≠ .run) → s.evaluate w th = a) ∧
    (s.pace.outstanding = none → s.pace.skipEval = false → (∃ j ∈ s.jobs, j.phase = .run) →
      (w.val < s.pace.stretchClass.toNat → s.evaluate w th = (if g = 7 then a.logs Code.gradeLimit else a.announceGrade (looser g))) ∧
      (s.pace.stretchClass.toNat ≤ w.val → g.val < s.pace.floor.toNat → s.evaluate w th = a.announceGrade (looser g)) ∧
      (s.pace.stretchClass.toNat ≤ w.val → s.pace.floor.toNat ≤ g.val →
        s.evaluate w th = (if since + 2 ^ 20 ≤ s.pace.count.toNat ∧ s.pace.stretchClass.toNat < s.pace.tightenClass.toNat ∧ th = false ∧
          s.domainFloor ≤ tighter g then a.announceGrade (tighter g) else a))) ∧
    s.announceGrade g = (s.modPace (fun p => { p with outstanding := some (g, s.pace.count.toNat + s.horizon) })).sendTree PaceKind.grade
      (gradeBody g (s.pace.count.toNat + s.horizon)) none ∧
    (∀ h : Fin 8, s.pace.grade < h → s.announceGrade h =
      (s.modPace (fun p => { p with outstanding := some (h, s.pace.count.toNat + s.horizon) })).sendTree PaceKind.grade
        (gradeBody h (s.pace.count.toNat + s.horizon)) none) ∧
    (∀ h : Fin 8, h < s.pace.grade → s.announceGrade h =
      (s.modPace (fun p => { p with outstanding := some (h, s.pace.count.toNat + s.horizon), voltage := h })).sendTree PaceKind.grade
        (gradeBody h (s.pace.count.toNat + s.horizon)) none))

/-- From the beat of its count T on, and not before, an outstanding grade change takes effect, whatever lap any job is in: the grade is the
announced one, GRADE_CHANGE is logged, the receivers of the links in locked mode frame by the new grade from the frame sent at T on, which comes
one link delay later, and every job, its lap (held or not) with its start and length in beats, and every armed hold stay as they were, as does all
else of every link. -/
def Obligations.GradeChangesLeaveHeldLapsAlone : Prop :=
  ∀ (s : State) (g : Fin 8) (n : Nat), s.pace.outstanding = some (g, n) →
    (s.pace.count.toNat < n → exec .gradeChange s = .next s) ∧
    (n ≤ s.pace.count.toNat →
      ∃ t, exec .gradeChange s = .next t ∧ t.pace.grade = g ∧ t.pace.voltage = g ∧ t.pace.outstanding = none ∧
        t.log = (s.logs Code.gradeChange).log ∧ t.jobs = s.jobs ∧ t.pace.holds = s.pace.holds ∧ t.pace.count = s.pace.count ∧
        (∀ l : LinkId, t.link l = (if s.locked l then { s.link l with
          regrade := some (n + wholeBeats g (s.link l).delay, BitVec.ofNat 4 (g.val * 2 + 1)) } else s.link l)) ∧
        t.parts = s.parts ∧ t.pace.domain = s.pace.domain)

/-- A pace cell seen on the same link in the previous 8 beats is a further copy and acts on nothing. The first copy of a child's slack report lowers
the worst class to the child's and keeps its thermal flag; one from a link of no child changes nothing. The first copy of a grade announcement on a
tree link is forwarded on the other tree links; for a later count it becomes the outstanding change, at or after its count it faults the domain with
PACE_LATE; on a link outside the tree it does nothing. The first copy of a slip request on a tree link does nothing when its target is armed; else
it is forwarded on the other tree links, and arms a hold at the target, or faults the domain with PACE_LATE when that count has come, or arms
nothing when there is no target (log 171). The target is the first lap boundary at or after c + H that the sequence of the job in RUN gives; of a
job that does not run here it is one count at or after c + H that the model leaves free, the same for every request of that boundary (log 94). A
slip that is raised leaves on every tree link, and arms the target when there is one that is not armed. What is sent to the tree links is queued on
each that is UP, slip requests and announcements in three copies, reports in two. -/
def Obligations.PaceCellsActOnTheirFirstCopy : Prop :=
  (∀ (s u : State) (l : LinkId),
    (∀ (cls : Fin 8) (th : Bool), s.firstCopy l PaceKind.report (reportBody cls th) = (u, false) →
      exec (.slackReport l cls th) s = .next u) ∧
    (∀ (cls : Fin 8) (th : Bool), s.firstCopy l PaceKind.report (reportBody cls th) = (u, true) →
      (s.pace.domain = none → exec (.slackReport l cls th) s = .next u) ∧
      (∀ d : Domain, s.pace.domain = some d →
        (bit d.children l.val = true →
          exec (.slackReport l cls th) s = .next { u with
            pace := { u.pace with worst := min u.pace.worst cls, thermalSeen := u.pace.thermalSeen || th } }) ∧
        (bit d.children l.val = false → exec (.slackReport l cls th) s = .next u))) ∧
    (∀ (g : Fin 8) (w : W32), s.firstCopy l PaceKind.grade (gradeBody g w.toNat) = (u, false) →
      exec (.gradeAnnouncement l g w) s = .next u) ∧
    (∀ (g : Fin 8) (w : W32) (v : State), s.firstCopy l PaceKind.grade (gradeBody g w.toNat) = (u, true) →
      v = u.sendTree PaceKind.grade (gradeBody g (s.expand32 w.toNat)) (some l) →
      (s.treeLink l = false → exec (.gradeAnnouncement l g w) s = .next u) ∧
      (s.treeLink l = true → s.pace.count.toNat < s.expand32 w.toNat →
        exec (.gradeAnnouncement l g w) s = .next (v.modPace (fun p => { p with
          outstanding := some (g, s.expand32 w.toNat)
          voltage := if g < p.grade then g else p.voltage }))) ∧
      (s.treeLink l = true → s.expand32 w.toNat ≤ s.pace.count.toNat →
        exec (.gradeAnnouncement l g w) s = .next (v.domainFault Code.paceLate))) ∧
    (∀ (cause : BitVec 4) (job : Byte) (w : W32), s.firstCopy l PaceKind.slip (slipBody cause job w.toNat) = (u, false) →
      exec (.slipRequest l cause job w) s = .next u) ∧
    (∀ (cause : BitVec 4) (job : Byte) (w : W32) (v : State),
      s.firstCopy l PaceKind.slip (slipBody cause job w.toNat) = (u, true) →
      v = u.sendTree PaceKind.slip (slipBody cause job (s.expand32 w.toNat)) (some l) →
      (s.treeLink l = false → exec (.slipRequest l cause job w) s = .next u) ∧
      (s.treeLink l = true → s.requestTarget job (s.expand32 w.toNat) = none → exec (.slipRequest l cause job w) s = .next v) ∧
      (∀ n : Nat, s.treeLink l = true → s.requestTarget job (s.expand32 w.toNat) = some n →
        (s.armed n = true → exec (.slipRequest l cause job w) s = .next u) ∧
        (s.armed n = false → s.pace.count.toNat < n →
          exec (.slipRequest l cause job w) s = .next (v.modPace (fun p => { p with
            holds := p.holds ++ [{ target := n, jobIndex := job, raisedHere := false, counted := false }] }))) ∧
        (s.armed n = false → n ≤ s.pace.count.toNat → exec (.slipRequest l cause job w) s = .next (v.domainFault Code.paceLate))))) ∧
  (∀ (s : State) (job : Byte) (c : Nat),
    (∀ j : Job, s.jobs.find? (fun j => j.phase == .run && j.index == job) = some j → s.requestTarget job c = s.slipTarget j c) ∧
    ((∀ j ∈ s.jobs, j.phase = .run → j.index ≠ job) →
      ∃ n, s.requestTarget job c = some n ∧ c + s.horizon ≤ n ∧ n ≤ c + s.horizon + 65535 ∧
        ∀ e : Nat, c ≤ e → e + s.horizon ≤ n → Config.lapBoundary ((s.pace.domain.map (·.id)).getD 0) job n = true →
          s.requestTarget job e = some n)) ∧
  (∀ (s : State) (j : Job) (cause : BitVec 4) (c : Nat),
    (s.slipTarget j c = none → s.raiseSlip j cause c = s.sendTree PaceKind.slip (slipBody cause j.index c) none) ∧
    (∀ n : Nat, s.slipTarget j c = some n → s.raiseSlip j cause c = (if s.armed n then s else s.modPace (fun p => { p with
      holds := p.holds ++ [{ target := n, jobIndex := j.index, raisedHere := true, counted := false }] })).sendTree PaceKind.slip
        (slipBody cause j.index c) none)) ∧
  (∀ (s : State) (kind : BitVec 4) (body : BitVec 44) (but : Option LinkId) (m : LinkId),
    (s.sendTree kind body but).link m =
      (if s.treeLink m = true ∧ but ≠ some m ∧ s.up m = true then { s.link m with
        paceCells := (s.link m).paceCells ++ [{ kind := kind, body := body, copies := if kind = PaceKind.report then 2 else 3 }] }
      else s.link m))

/-- When the present lap of a job in RUN has run its length, no held lap with sends pending ends, the plan has not diverged and the sequence goes
on: with no hold due and no declared hurdle at the next entry, the next lap begins at the boundary with the lap index one higher; at a hurdle's
SEQ_ENTRY the sequence pauses when no send of the job is pending, and waits at the boundary while one is and no hold is due since (log 137); with a
hold due that another package raised, within every job's budget, a held lap of the length of the lap due next begins, the lap index stays, and the
job's slips count one more (the earliest target not yet met, so two targets in one lap give two held laps, log 95); over the budget of the one job
of the package that job faults with SLIP_BUDGET as well, logged where the hold was raised. After the last entry, or at END's lap of a looping
sequence, the sequence ends: with a SEND queued or bound that no occurrence takes it faults with BINDING_ORPHAN, else what waits for a landing is
judged (log 109). A job whose plan was found to differ faults with PLAN_DIVERGED, logged before, and runs no further lap. Before the boundary
nothing changes. COUNTER_SNAPSHOT with no job in RUN takes a snapshot at counts that are multiples of 2^27: its number is one higher, it holds the
pace count, the slip count, the grade and every link's 15 counters, and the links' peak buffer uses start again at the present uses. -/
def Obligations.LapBoundariesGoOnHoldOrPause : Prop :=
  ∀ s : State,
   (∀ (lead : PartId) (j : Job) (k : PlanSection) (p : PlanDef) (l : LapState),
    s.jobOfLead lead = some j → s.job? j.id = some j → j.image.plan = some k → j.activePlan = some p → j.lap = some l → j.phase = .run →
    l.paused = false → l.ended = false →
    (s.pace.count.toNat < l.lapStart + l.length → exec (.lapBoundary lead) s = .next s) ∧
    (l.lapStart + l.length ≤ s.pace.count.toNat → j.divergedAtLap = true →
      exec (.lapBoundary lead) s = .next (s.jobFaultQuiet j.id Code.planDiverged)) ∧
    (∀ v : State, l.lapStart + l.length ≤ s.pace.count.toNat → j.divergedAtLap = false → l.held = false →
      (k.next p l.entry l.rep = none ∨
        (k.loopEntry ≠ noLoop ∧ ∃ n : Nat, j.endCount = some n ∧ n ≤ l.lapStart + l.length)) →
      v = s.modJob j.id (fun j => { j with lap := j.lap.map (fun l => { l with ended := true }) }) →
      (∀ x : Binding, (j.bindQ.flatMap (·.2)).find? (fun x => x.cmd.cmd.opcode == 1) = some x →
        exec (.lapBoundary lead) s = .next (v.jobFault j.id Code.bindingOrphan (x.cmd.loc x.part 6)).pruneHolds) ∧
      ((∀ x ∈ j.bindQ.flatMap (·.2), x.cmd.cmd.opcode ≠ 1) →
        (∀ b : BoundSend, j.sends.find? (fun b => decide (j.occTotal false b.transfer ≤ b.occurrence)) = some b →
          exec (.lapBoundary lead) s = .next (v.jobFault j.id Code.bindingOrphan (b.cmd.loc b.part 6)).pruneHolds) ∧
        ((∀ b ∈ j.sends, b.occurrence < j.occTotal false b.transfer) →
          exec (.lapBoundary lead) s = .next (j.parts.foldl (fun t p => t.settle p) v).pruneHolds))) ∧
    (l.lapStart + l.length ≤ s.pace.count.toNat → j.divergedAtLap = false → l.held = false → j.endCount = none →
      ∀ (e r : Nat), k.next p l.entry l.rep = some (e, r) →
        (s.holdDue l (l.lapStart + l.length) = none → (r ≠ 0 ∨ ∀ d : HurdleDecl, j.image.hurdles[j.nextHurdle]? = some d → d.seqEntry ≠ e) →
          ∃ t, exec (.lapBoundary lead) s = .next t ∧
            (t.job? j.id).bind (·.lap) =
              some (l.begin (l.lapStart + l.length) e r (l.lapIndex + 1) (p.tableAt e) (Nat.max 1 (k.len (p.tableAt e))) false) ∧
            t.pace.count = s.pace.count ∧ t.parts = s.parts ∧ t.log = s.log ∧ t.sram = s.sram) ∧
        (∀ d : HurdleDecl, s.holdDue l (l.lapStart + l.length) = none → r = 0 → j.image.hurdles[j.nextHurdle]? = some d → d.seqEntry = e →
          (s.sendsPending j = false →
            ∃ t, exec (.lapBoundary lead) s = .next t ∧ (t.job? j.id).bind (·.lap) = some { l with paused := true } ∧
              t.parts = s.parts ∧ t.log = s.log ∧ t.sram = s.sram) ∧
          (s.sendsPending j = true → (∀ h ∈ s.pace.holds, l.lapStart + l.length < h.target → s.pace.count.toNat < h.target) →
            exec (.lapBoundary lead) s = .next (s.modJob j.id (fun j => { j with lap := some { l with waits := true } })))) ∧
        (∀ h : ArmedHold, s.holdDue l (l.lapStart + l.length) = some h → h.raisedHere = false → h.counted = false →
          (∀ q ∈ s.jobs, q.phase = .run →
            (if s.pace.window = h.target / 2 ^ 24 then s.pace.windowSlips + 1 else 1) ≤ q.image.slipBudget) →
          ∃ t, exec (.lapBoundary lead) s = .next t ∧
            (t.job? j.id).bind (·.lap) =
              some { l.begin (l.lapStart + l.length) l.entry l.rep l.lapIndex (p.tableAt e) (Nat.max 1 (k.len (p.tableAt e))) true with
                met := h.target } ∧
            (t.job? j.id).map (·.slips) = some (j.slips + 1) ∧ t.pace.slipCount = satInc s.pace.slipCount ∧
            t.parts = s.parts ∧ t.log = s.log ∧ t.sram = s.sram) ∧
        (∀ (h : ArmedHold) (w : Nat) (v : State), s.holdDue l (l.lapStart + l.length) = some h → h.counted = false → s.jobs = [j] →
          w = (if s.pace.window = h.target / 2 ^ 24 then s.pace.windowSlips + 1 else 1) → j.image.slipBudget < w →
          v = { s with
            jobs := [{ j with
              slips := j.slips + 1
              lap := some { l.begin (l.lapStart + l.length) l.entry l.rep l.lapIndex (p.tableAt e) (Nat.max 1 (k.len (p.tableAt e))) true with
                met := h.target } }]
            pace := { s.pace with
              slipCount := satInc s.pace.slipCount
              window := h.target / 2 ^ 24
              windowSlips := w
              holds := s.pace.holds.map (fun x => if x.target = h.target then { x with counted := true } else x) } } →
          exec (.lapBoundary lead) s = .next (if h.raisedHere
            then v.jobFault j.id Code.slipBudget { Loc.base 6 with part := j.lead.val }
            else v.jobFaultQuiet j.id Code.slipBudget).pruneHolds))) ∧
   ((∀ j ∈ s.jobs, j.phase ≠ .run) →
    (s.pace.count.toNat % 2 ^ 27 = 0 →
      ∃ t, exec .counterSnapshot s = .next t ∧ t.infield.snap = s.infield.snap + 1 ∧ t.infield.snapPace = s.pace.count ∧
        t.infield.snapLap = 0 ∧ t.infield.snapSlips = s.pace.slipCount ∧ t.infield.snapGrade = BitVec.ofNat 64 s.pace.grade.val ∧
        (∀ l : LinkId, t.infield.snapLinks[l] = (s.link l).counters ∧
          t.link l = { s.link l with
            peakJob := BitVec.ofNat 64 (s.link l).rxUsedJob
            peakMgmt := BitVec.ofNat 64 (s.link l).rxUsedMgmt }) ∧
        t.infield.requests = s.infield.requests ∧ t.infield.transit = s.infield.transit ∧ t.infield.flights = s.infield.flights ∧ t.pace = s.pace ∧ t.jobs = s.jobs ∧
        t.parts = s.parts ∧ t.log = s.log) ∧
    (s.pace.count.toNat % 2 ^ 27 ≠ 0 → exec .counterSnapshot s = .next s))

/-- Two beats before a burst of a lap that is not held, on an UP link, BATON_SAMPLE notes the outcome once: void as the SEND that bound the
occurrence says, present when all its frames have come by their feed, when no earlier burst of that slot is deferred; with no SEND bound, or with a
feed that is late, it is a stumble, logged (with the fields of log 98), counted, and a slip of cause 1 is raised with the slot's count as origin.
SLOT_SEND on a link with no owner in RUN sends the first frame of the backlog again, counted and logged at most once per second, else, with no cell
that may leave on it, a null frame. With an owner in RUN: an IDLE slot sends a null frame; a U slot sends cells; a SPARE slot, a held lap's slot
that is not U, and every slot of a direction that has no table set (log 51) first meet the exhaustion rule of R47, then send the older of a replay
and a ready deferred send, counted as used, else a null frame; a slot of a burst sends the frame that the sample decided: the burst's bytes as its
feed brought them, whose last frame ends the SEND, a void frame, whose first ends it, or a null frame marked deferred, whose first puts the send
among the deferred. With room in the replay buffer, a cell frame takes management cells before job cells, in order, as many as credits and 32 places
allow, and none of a flow waits that could go. DEFERRED_SEND in a frame time outside any lap (log 101), in a spare slot of a lap, or in a slot of a
held lap that is not U, with nothing to replay and the oldest deferred send ready, sends that one and counts the slot used. A frame sent changes the
link alone: it stands on the wire. -/
def Obligations.RelayStationsSampleAndSend : Prop :=
  (∀ (s : State) (l : LinkId), s.up l = true →
    (∀ (u : State) (j : Job) (x : LapSpan) (k : TableSet) (g : W32) (y : Transfer) (slot : Nat),
      s.ownerRun l = some j → s.spanAhead j (s.pace.count.toNat + 2) = some x → x.held = false → slot = s.pace.count.toNat + 2 - x.start →
      s.readTables l j false x slot = (u, some (some k)) → segAt slot (k.segsOf x.table) = some (slot, g) → segKind g = Seg.burst →
      k.xfer? (segXfer g) = some y → (u.link l).sampled = [] → (u.link l).deferred = [] →
      (∀ b : BoundSend, j.boundAt y.number (j.occNumber k y.number x.index slot) = some b →
        b.void ≠ 0 ∨ (u.link l).fedWhole y.number (x.occ slot g) = true →
        exec (.batonSample l) s = .next (u.modLink l (fun q => { q with
          sampled := [{ occ := { lapIndex := x.index, slot := slot, seqEntry := x.entry, table := x.table, xfer := segXfer g, len := segLen g }
                        number := j.occNumber k y.number x.index slot
                        outcome := if b.void = 0 then .present else .void }] }))) ∧
      (j.boundAt y.number (j.occNumber k y.number x.index slot) = none ∨
        (∃ b : BoundSend, j.boundAt y.number (j.occNumber k y.number x.index slot) = some b ∧ b.void = 0 ∧
          (u.link l).fedWhole y.number (x.occ slot g) = false) →
        exec (.batonSample l) s = .next (((u.modLink l (fun q => { q with
          sampled := [{ occ := { lapIndex := x.index, slot := slot, seqEntry := x.entry, table := x.table, xfer := segXfer g, len := segLen g }
                        number := j.occNumber k y.number x.index slot
                        outcome := .stumble }]
          stumbles := satInc q.stumbles
          slipsRaised := satInc q.slipsRaised })).logAt Code.stumble j.fn.val ((slotLoc l.val j.lead x slot).burst y.number x.index
            (j.dataBaton y.number (j.occNumber k y.number x.index slot)))).raiseSlip j 1 (x.start + slot)))) ∧
    (s.ownerRun l = none →
      ((s.link l).backlog = [] → readyUnits (some l) s.infield.transit [] = [] →
        exec (.slotSend l) s = .next (s.emit l FrameBody.null none false)) ∧
      (∀ (e : ReplayEntry) (rest : List ReplayEntry), (s.link l).backlog = e :: rest → e.spilled = none →
        exec (.slotSend l) s = .next
          (((s.modLink l (fun k => { k with
            replayPtr := rest.head?.map (fun x => x.seq.toNat)
            replayCount := satInc k.replayCount })).logRate (.frameReplayed l) Code.frameReplayed 0 (linkPlace l)).emit l e.body
              (some e.seq) true))) ∧
    (∀ (u : State) (j : Job) (q : LapState) (x : LapSpan) (slot : Nat) (set : Option TableSet), s.ownerRun l = some j → j.lap = some q →
      q.lapStart ≤ s.pace.count.toNat → j.spanAt s.pace.count.toNat = some x → slot = s.pace.count.toNat - x.start →
      s.readTables l j false x slot = (u, some set) →
      (∀ v : State, set = none ∨ (∃ k first g, set = some k ∧ segAt slot (k.segsOf x.table) = some (first, g) ∧ segKind g ≠ Seg.u ∧
          (x.held = true ∨ segKind g = Seg.spare)) → v = u.exhaust l j set x slot →
        (v.sendBacklog l (some j) = none → exec (.slotSend l) s = .next (v.emit l FrameBody.null none false)) ∧
        (∀ t : State, v.sendBacklog l (some j) = some t →
          exec (.slotSend l) s = .next (t.modLink l (fun k => { k with sparesUsed := satInc k.sparesUsed })))) ∧
      (∀ (k : TableSet) (first : Nat) (g : W32), set = some k → segAt slot (k.segsOf x.table) = some (first, g) →
        (segKind g = Seg.u → exec (.slotSend l) s = .next (u.sendCells l (some (j, x, slot)))) ∧
        (x.held = false → segKind g = Seg.idle → exec (.slotSend l) s = .next (u.emit l FrameBody.null none false)) ∧
        (∀ (a : Sampled) (y : Transfer) (n : Nat) (done : State → State), x.held = false → segKind g = Seg.burst →
          k.xfer? (segXfer g) = some y → n = segLen g - 1 → (u.link l).inBuffer < 248 →
          (u.link l).sampled.find? (fun a => a.occ.lapIndex == x.index && a.occ.slot == first) = some a →
          done = (fun v => if slot - first = n then v.modLink l (fun k => { k with
            sampled := k.sampled.filter (fun b => !(b.occ.lapIndex == x.index && b.occ.slot == first)) }) else v) →
          (∀ (bs : List Byte) (b : BoundSend) (v : State), a.outcome = .present → (u.link l).fed y.number a.occ (slot - first) = some bs →
            j.boundAt y.number a.number = some b →
            v = done ((u.sendStored l (j.slotField (if slot - first = 0 then 1 else 2) false false (slot - first) n y.number x.index
                (first + (slot - first)) (leNat bs) (if slot - first = 0 then b.carried else 0))).modLink l
              (fun k => { k.dropFed y.number a.occ (slot - first) with burstSlots := satInc k.burstSlots })) →
            exec (.slotSend l) s = .next (if slot - first = n then v.sendDone j.id b else v)) ∧
          (∀ (b : BoundSend) (v : State), a.outcome = .void → j.boundAt y.number a.number = some b →
            v = done (u.sendStored l (j.slotField 0 true false (slot - first) n y.number x.index (first + (slot - first)) 0 0)) →
            exec (.slotSend l) s = .next (if slot - first = 0 then v.sendDone j.id b else v)) ∧
          (∀ v : State, a.outcome = .stumble →
            v = u.sendStored l (j.slotField 0 false true (slot - first) n y.number x.index (first + (slot - first)) 0 0) →
            exec (.slotSend l) s = .next (done (if slot - first = 0 then v.modLink l (fun k => { k with
              deferred := k.deferred ++ [{ lead := j.lead, occ := a.occ, transfer := y.number, number := a.number,
                                           ready := (j.boundAt y.number a.number).isSome, nextSlot := 0 }] }) else v)))))) ∧
    (∀ (w : Option (Job × LapSpan × Nat)) (m v : List RingUnit) (mc vc : Nat), (∀ u ∈ readyUnits (some l) s.infield.transit [], u.err = none) →
      takeCells l 32 (s.link l).creditMgmt [] ((readyUnits (some l) s.infield.transit []).filter (fun u => u.chan == .mgmt)) = (m, mc) →
      takeCells l (32 - m.length) (s.link l).creditJob [] ((readyUnits (some l) s.infield.transit []).filter (fun u => u.chan == .job)) = (v, vc) →
      (m ++ v = [] → s.sendCells l w = s.emit l FrameBody.null none false) ∧
      (m ++ v ≠ [] → (s.link l).inBuffer < 248 →
        s.sendCells l w = (m ++ v).foldl (fun t u => t.unitLeaves u)
          (((s.modLink l (fun k => { k with
            creditMgmt := mc, creditJob := vc
            cellsForwarded := satAdd k.cellsForwarded ((m ++ v).filter RingUnit.foreign).length
            uCells := if w.isSome then satInc k.uCells else k.uCells })).modInfield (fun i => { i with
              transit := (m ++ v).foldl (fun us u => us.erase u) i.transit })).sendStored l (match w with
            | some (j, x, slot) => j.slotField 3 false false 0 0 0 x.index slot (leNat ((m ++ v).flatMap (fun u => u.cell?.elim [] Cell.toBytes))) 0
            | none => { FrameBody.null with
                slot0 := mkSlot0 3 false false 0 0 0 0 0 0
                payload := BitVec.ofNat 16384 (leNat ((m ++ v).flatMap (fun u => u.cell?.elim [] Cell.toBytes))) })))) ∧
    (∀ j : Job, s.ownerRun l = some j → (s.link l).backlog = [] → s.deferredReady l j = true →
      (∀ x : LapSpan, j.spanAt s.pace.count.toNat = some x →
        ∃ k, j.activePlan.bind (·.set? l false) = some k ∧
          (if x.held then k.kindAt x.table (s.pace.count.toNat - x.start) ≠ Seg.u
           else k.kindAt x.table (s.pace.count.toNat - x.start) = Seg.spare)) →
      exec (.deferredSend l) s = .next ((s.sendDeferred l j).modLink l (fun k => { k with sparesUsed := satInc k.sparesUsed }))) ∧
    (∀ (b : FrameBody) (q : Option W16) (r : Bool),
      ∃ k, s.emit l b q r = { s with links := vset s.links l k } ∧ k.wire.isSome = true ∧ k.unacked = (s.link l).unacked ∧
        k.nextSeq = (s.link l).nextSeq ∧ k.deferred = (s.link l).deferred ∧ k.stage = .up) ∧
    (∀ b : FrameBody, s.sendStored l b = (s.modLink l (fun k => { k with
      nextSeq := k.nextSeq + 1
      unacked := k.unacked ++ [{ seq := k.nextSeq, body := b, spilled := none }] })).emit l b (some (s.link l).nextSeq) false)) ∧
  (∀ (l : LinkId) (n c k : Nat) (us r : List RingUnit), takeCells l n c [] us = (r, k) →
    r.Sublist us ∧ r.length ≤ n ∧ r.length + k = c ∧
    (∀ f : Option (Bool × BitVec 13 × BitVec 13), r.filter (fun u => u.flow == f) <+: us.filter (fun u => u.flow == f)) ∧
    (r.length < n → ∀ u ∈ us, u ∉ r → ∃ v ∈ us, v.flow = u.flow ∧ k < v.needs l))

/-- On an UP link, a frame that finds the elastic buffer full is lost and the domain faults with DRIFT; one a beat early on a locked link waits in
it. With the buffer empty, any other is presented at once (log 131); the receiver's fill changes with the first frame of the new grade. A frame that
fails its checks is counted, acknowledges what was accepted and asks for a replay; a good frame of another epoch is dropped and counted. A good
frame of the partner's epoch whose acknowledgement is valid gives back credits, then its swap and pace fields act; when the link is still UP, an
unsequenced frame goes on to its body, the expected sequence number goes on to its body and moves the expected number on by one (every sixteenth
acknowledged at once, the count of the oldest other noted), a later one is counted out of sequence and an earlier one as a duplicate, with no other
effect. On a link with an owner in RUN a body meets the plan checks: a frame of another domain or job faults PLAN_ISOLATION; of another plan, lap,
slot or kind than its slot has SLOT_KIND; a burst slot of another length or index BURST_LENGTH, of another transfer BURST_TRANSFER, of another rank
BURST_RANK; the cells of a refused frame only give back their buffers. A frame that meets its burst slot lands: the first takes an arm, or there is
none and it faults LANDING_UNARMED; each goes to its plot, one out of its turn is dropped without a fault (log 102), and the last one to be stored
posts the landing baton; the first void frame takes the arm and posts void of cause 5. With no owner in RUN a job frame is counted stray and logged.
A buffer of a locked link that is empty two beats in a row faults DRIFT (log 131). ACK_UPDATE acknowledges what was accepted once 128 beats have
gone since the oldest frame not acknowledged came, and changes nothing before. REPLAY_TIMEOUT starts the replay at the oldest frame; the eighth in a
row takes the link down. SPILL_ABANDONED takes it down. -/
def Obligations.ReceivedFramesAndReplayTimers : Prop :=
  (∀ (s : State) (l : LinkId), s.up l = true →
    (∀ (raw : RawFrame) (phase : BitVec 16),
      (8 ≤ (s.link l).elastic.length → exec (.frameReceive l raw phase) s = .next (s.domainFault Code.drift)) ∧
      ((s.link l).elastic = [] → s.early l raw = true →
        exec (.frameReceive l raw phase) s = .next (s.modLink l (fun k => { k with elastic := [(raw, phase)] })))) ∧
    (∀ (raw : RawFrame) (phase : BitVec 16) (w : State) (f : FrameParts), (s.link l).elastic = [] → s.early l raw = false →
      w = s.modLink l (fun k => { k.fillAt s.pace.count.toNat with
        sincePresented := if s.locked l then some 0 else none
        rx := k.rx.countFixed (decodeLinkFrame raw).fixed }) → f = (decodeLinkFrame raw).parts →
      ((decodeLinkFrame raw).good = false →
        exec (.frameReceive l raw phase) s = .next (w.modLink l (fun k => { k with
          frameBad := satInc k.frameBad
          heard := k.heard + 1
          rrOut := k.rrOut + 1
          ackOut := k.accepted
          sinceAck := 0
          ackFrom := none
          badRun := k.badRun + 1
          uncorrRun := Vector.ofFn (fun i : LaneIx =>
            if (decodeLinkFrame raw).sound || (decodeLinkFrame raw).fixed.any (fun n => k.rx.logical[n] != i) then 0
            else k.uncorrRun[i] + 1) }))) ∧
      ((decodeLinkFrame raw).good = true → f.epoch ≠ (s.link l).partnerEpoch →
        exec (.frameReceive l raw phase) s = .next (w.modLink l (fun k => { k with
          epochDrop := satInc k.epochDrop
          badRun := 0
          uncorrRun := Vector.replicate 18 0 }))) ∧
      (∀ u v : State, (decodeLinkFrame raw).good = true → f.epoch = (s.link l).partnerEpoch →
        (w.modLink l (fun k => { k with
          gap := f.gap, heard := f.pace0.toNat, badRun := 0, uncorrRun := Vector.replicate 18 0 })).ackIn l f = (u, true) →
        v = ((u.modLink l (fun k => k.creditIn f)).swapIn l f).paceIn l f phase → v.up l = true → (v.link l).elastic = [] →
        (∀ x : State, f.sequenced = false → x = v.bodyIn l (v.sentAt l f.pace0.toNat) f.body f.replay → (x.link l).elastic = [] →
          exec (.frameReceive l raw phase) s = .next x) ∧
        (∀ x : State, f.sequenced = true → f.seq = (v.link l).expectSeq →
          x = (v.modLink l (fun k => { k with
              expectSeq := k.expectSeq + 1
              accepted := f.seq
              ackOut := if 15 ≤ k.sinceAck then f.seq else k.ackOut
              sinceAck := if 15 ≤ k.sinceAck then 0 else k.sinceAck + 1
              ackFrom := if 15 ≤ k.sinceAck then none else some (k.ackFrom.getD v.pace.count.toNat) })).bodyIn l
                (v.sentAt l f.pace0.toNat) f.body f.replay → (x.link l).elastic = [] →
          exec (.frameReceive l raw phase) s = .next x) ∧
        (f.sequenced = true → f.seq ≠ (v.link l).expectSeq →
          exec (.frameReceive l raw phase) s = .next (v.modLink l (fun k =>
            if (f.seq - (v.link l).expectSeq).toNat < 32768 then { k with outOfSeq := satInc k.outOfSeq } else { k with dup := satInc k.dup }))))) ∧
    (∀ n : Nat, (s.link l).sincePresented = some n → s.locked l = true →
      s.bufferBeat l = (if n < 2 then s.modLink l (fun k => { k with sincePresented := some (n + 1) })
        else (s.modLink l (fun k => { k with sincePresented := none })).domainFault Code.drift)) ∧
    (∀ c : Nat, (s.link l).ackFrom = some c →
      (c + 128 ≤ s.pace.count.toNat →
        exec (.ackUpdate l) s = .next (s.modLink l (fun k => { k with ackOut := k.accepted, sinceAck := 0, ackFrom := none }))) ∧
      (s.pace.count.toNat < c + 128 → exec (.ackUpdate l) s = .next s)) ∧
    (∀ e : ReplayEntry, (s.link l).unacked.head? = some e → (s.link l).backlog = [] →
      ((s.link l).timeouts < 7 →
        exec (.replayTimeout l) s = .next (s.modLink l (fun k => { k with
          timeouts := k.timeouts + 1
          replayPtr := some e.seq.toNat }))) ∧
      (7 ≤ (s.link l).timeouts → exec (.replayTimeout l) s = .next (s.linkDown l Code.ackLost))) ∧
    (s.awaitsAcks l = true ∨ (s.link l).spillLost = true → exec (.spillAbandoned l) s = .next (s.linkDown l Code.spillAbandoned))) ∧
  (∀ (k : Link) (c n : Nat) (g : BitVec 4), k.regrade = some (n, g) →
    k.fillAt c = (if n ≤ c then { k with gap := g, regrade := none } else k)) ∧
  (∀ (s : State) (l : LinkId) (c : Nat) (b : FrameBody) (replay : Bool),
    (s.ownerRun l = none → s.bodyIn l c b replay = (if b.hasJob
      then ((s.modLink l (fun k => { k with stray := satInc k.stray })).logRateAt (.planStray l) Code.planStray 0
        { Loc.base 6 with link := l.val }).cellsGone l b
      else s.cellsIn l b)) ∧
    (∀ (j : Job) (x : LapSpan) (slot : Nat) (r : Loc), s.ownerRun l = some j → j.spanAt c = some x → slot = c - x.start →
      r = slotLoc l.val j.lead x slot → b.hasJob = true →
      (b.domain ≠ j.domainId ∨ b.job ≠ j.index → s.bodyIn l c b replay = (s.jobFault j.id Code.planIsolation r).cellsGone l b) ∧
      (b.domain = j.domainId → b.job = j.index →
        (b.plan ≠ j.planSel → s.bodyIn l c b replay = (s.jobFault j.id Code.slotKind r).cellsGone l b) ∧
        (b.plan = j.planSel → b.deferred = false → replay = false →
          (b.lap ≠ x.index % 2 ^ 32 ∨ b.slot ≠ slot % 2 ^ 16 → s.bodyIn l c b replay = (s.jobFault j.id Code.slotKind r).cellsGone l b) ∧
          (∀ (u : State) (k : TableSet) (first : Nat) (g : W32), b.lap = x.index % 2 ^ 32 → b.slot = slot % 2 ^ 16 →
            s.readTables l j true x slot = (u, some (some k)) → segAt slot (k.segsOf x.table) = some (first, g) →
            (segKind g ≠ Seg.burst ∨ x.held = true →
              s.bodyIn l c b replay = (if b.void = false ∧ (b.kind = 0 ∨ (b.kind = 3 ∧ segKind g = Seg.u)) then u.cellsIn l b
                else (u.jobFault j.id Code.slotKind r).cellsGone l b)) ∧
            (segKind g = Seg.burst → x.held = false →
              (¬(b.kind = (if slot = first then 1 else 2) ∧ b.void = false) → ¬(b.kind = 0 ∧ b.void = true) →
                s.bodyIn l c b replay = (u.jobFault j.id Code.slotKind r).cellsGone l b) ∧
              ((b.kind = (if slot = first then 1 else 2) ∧ b.void = false) ∨ (b.kind = 0 ∧ b.void = true) →
                (b.slotsM1 + 1 ≠ segLen g ∨ b.index ≠ slot - first →
                  s.bodyIn l c b replay = (u.jobFault j.id Code.burstLength r).cellsGone l b) ∧
                (∀ y : Transfer, b.slotsM1 + 1 = segLen g → b.index = slot - first → k.xfer? (segXfer g) = some y →
                  (b.transfer ≠ y.number → s.bodyIn l c b replay = (u.jobFault j.id Code.burstTransfer r).cellsGone l b) ∧
                  (b.transfer = y.number → b.rank ≠ k.peerRank →
                    s.bodyIn l c b replay = (u.jobFault j.id Code.burstRank r).cellsGone l b) ∧
                  (b.transfer = y.number → b.rank = k.peerRank → s.bodyIn l c b replay = u.land l j k y x first g b))))))))) ∧
  (∀ (s : State) (l : LinkId) (j : Job) (k : TableSet) (y : Transfer) (x : LapSpan) (first : Nat) (g : W32) (b : FrameBody) (f : StoredFrame)
    (r : Loc), r = slotLoc l.val j.lead x (first + b.index) →
    f = { transfer := y.number, occ := x.occ first g, index := b.index, data := b.bytes } →
    (b.index = 0 → b.kind ≠ 0 ∨ b.void = true →
      (s.takeArm j y.number = none → s.land l j k y x first g b = s.jobFault j.id Code.landingUnarmed r) ∧
      (∀ t : State, s.takeArm j y.number = some t →
        (b.kind = 0 → s.land l j k y x first g b =
          t.postLanding j y (fun i g => mkVoid 5 i g 0xFF) (j.occNumber k y.number x.index first) r) ∧
        (b.kind ≠ 0 → s.land l j k y x first g b = (t.modLink l (fun q => { q with
          landing := q.landing.filter (fun d => !(d.transfer == y.number && d.lapIndex == x.index && d.slot == first)) ++
            [{ transfer := y.number, lapIndex := x.index, slot := first, next := 1, landed := 0, baton := b.carried
               dropped := false }] })).holdFrame l j k f))) ∧
    (b.index ≠ 0 → b.kind = 0 → s.land l j k y x first g b = s) ∧
    (∀ d : Landing, b.index ≠ 0 → b.kind ≠ 0 → (s.link l).landing = [d] → d.transfer = y.number → d.lapIndex = x.index → d.slot = first →
      s.land l j k y x first g b = (if d.next = b.index
        then (s.modLink l (fun q => { q with landing := [{ d with next := d.next + 1 }] })).holdFrame l j k f else s)) ∧
    (∀ q : Job, s.job? j.id = some q → ((q.xfer y.number).arms = 0 → s.takeArm j y.number = none) ∧
      ((q.xfer y.number).arms ≠ 0 → s.takeArm j y.number = some (s.modJob j.id (fun j => j.setXfer { j.xfer y.number with
        arms := (q.xfer y.number).arms - 1 }))))) ∧
  (∀ (s u v : State) (j : Job) (st : Fin 7) (f : StoredFrame) (k : TableSet) (d : Landing) (y : Transfer) (p : PartId) (a : Nat),
    j.landSet st f.transfer = some k → (s.landings j st).find? (·.of f.transfer f.occ) = some d → k.entry? f.transfer = some y →
    j.phys y.part = some p →
    s.landingAt (if st.val < 6 then 9 else 11) p (if st.val < 6 then st.val else 14) y.region (y.offset + 2048 * f.index) f.data.length
      (slotLoc st.val j.lead f.occ.span (f.occ.slot + f.index)) = (u, .ok a) →
    u.store a f.data (slotLoc st.val j.lead f.occ.span (f.occ.slot + f.index)) = (v, true) →
    s.landFrame j st f = (if d.landed + 1 < f.occ.len
      then v.modLandings j st (fun ds => ds.map (fun d => if d.of f.transfer f.occ then { d with landed := d.landed + 1 } else d))
      else (v.modLandings j st (fun ds => ds.filter (fun d => !d.of f.transfer f.occ))).postLanding j y
        (fun i g => mkEntry d.baton i g 0xFF) (j.occNumber k f.transfer f.occ.lapIndex f.occ.slot)
        (slotLoc st.val j.lead f.occ.span (f.occ.slot + f.index))))

/-- SIGNAL_LOST, once three frames in a row have failed, PARTNER_RESET and a cable taken out take an UP link down with the cause of each;
SIGNAL_LOST before that changes nothing. Going down, a link that carries no work of the package (no cell or burst frame of it on the rings, no
burst frame of its station on a plot's way, no request of another package among its unacknowledged frames, no request, no job, no pace-tree edge)
drops its frames and credits, waits in DOWN, and the cause is logged; nothing else changes. A request of another package in a frame that its partner
has not acknowledged is answered LINK_DOWN.
LINK_DOWN_COMPLETE takes an enabled link to LISTEN when main power is on, else to OFF. A cable put in or taken out on a training link
starts LISTEN again. -/
def Obligations.LinksGoDownAndComeBack : Prop :=
  ∀ (s : State) (l : LinkId),
    (s.up l = true →
      (3 ≤ (s.link l).badRun → exec (.signalLost l) s = .next (s.linkDown l Code.signalLost)) ∧
      ((s.link l).badRun < 3 → exec (.signalLost l) s = .next s) ∧
      exec (.partnerReset l) s = .next (s.linkDown l Code.partnerReset) ∧
      ((s.link l).present = true → s.landsCut = false →
        exec (.presenceChange l false) s = .next ((s.modLink l (fun k => { k with present := false })).linkDown l Code.unplugged))) ∧
    (∀ (c : W16) (v : State), (∀ u ∈ s.infield.transit, u.dropsWith l = false) →
      (∀ f ∈ s.infield.flights, f.burst.station.val ≠ l.val) → s.infield.requests = [] → s.jobs = [] → s.treeLink l = false →
      v = (s.logs c 0 (linkPlace l)).modLink l (fun k => { k with
        stage := .down, unacked := [], replayPtr := none, timeouts := 0, creditJob := 0, creditMgmt := 0, rxUsedJob := 0
        rxUsedMgmt := 0, paceCells := [], deferred := [], sampled := [], landing := [], feed := [], hold := [], badRun := 0
        uncorrRun := Vector.replicate 18 0, elastic := [], sincePresented := none, regrade := none, spillLost := false, ackFrom := none
        tx := { k.tx with pendingSwap := [] }
        rx := { k.rx with pendingSwap := [] } }) →
      ((s.link l).replayed s.chip = [] → s.linkDown l c = v) ∧
      (∀ q : Cell, (s.link l).replayed s.chip = [q] → s.linkDown l c = v.answerDown l q)) ∧
    (∀ e ∈ (s.link l).unacked, ∀ q ∈ e.body.cells, e.body.kind = 3 → q.kind = CellKind.write ∨ q.kind = CellKind.readReq → q.src ≠ s.chip →
      q ∈ (s.link l).replayed s.chip) ∧
    ((s.link l).stage = .down → (s.link l).enable = true → s.power.mainPg = true →
      exec (.linkDownComplete l) s = .next (s.modLink l (fun k => { k with
        stage := .listen, fails := 0, waiting := false, absent := false, absentLogged := false }))) ∧
    ((s.link l).stage = .down → ((s.link l).enable = false ∨ s.power.mainPg = false) →
      exec (.linkDownComplete l) s = .next (s.modLink l (fun k => { k with stage := .off, waiting := false, absent := false }))) ∧
    (∀ b : Bool, (s.link l).stage = .align ∨ (s.link l).stage = .identify ∨ (s.link l).stage = .train ∨ (s.link l).stage = .check →
      (s.link l).present ≠ b → s.landsCut = false → (s.link l).enable = true → s.power.mainPg = true →
      exec (.presenceChange l b) s = .next (s.modLink l (fun k => { k with
        present := b, stage := .listen, fails := 0, waiting := false, absent := false, absentLogged := false })))

/-- On an UP link, a spare lane that fails is marked with how it failed and logged. A receive direction finds OPEN, and NOISY on an active lane
that has more corrected bytes in the period than the limit that stood at its start, or after 4 frames in a row with an uncorrectable codeword in which no
other lane had a byte corrected; a transmit direction finds SHORT; a failure that a direction cannot find changes nothing. Which direction finds which
failure, and that a spare is found NOISY at any time, is the model's choice (log 150). An active receive lane that fails asks for a swap of its logical
lane, an active transmit lane announces one, in order of failure, the first at the swap boundary and the others once those before them have swapped;
with no spare left for it the link goes down with LANES_EXHAUSTED. At the announced count, which the transmitter reads on its own count and the
receiver on the frame sent at it (one link delay later in locked mode), the logical lane moves to the transmitter's lowest numbered
spare, the failed lane is marked, LANE_SPARED is logged, and the next swap of a transmit direction gets its boundary; before it nothing changes. -/
def Obligations.LanesAreSparedInOrder : Prop :=
  ∀ (s : State) (l : LinkId), s.up l = true →
    (∀ (i : LaneIx) (kind : LaneFault), kind ≠ .short → (s.link l).rx.states[i] = .spare →
      exec (.laneFailure l .rx i kind) s = .next
        ((s.modLink l (fun k => { k with rx := { k.rx with states := vset k.rx.states i (laneStateOf kind) } })).logs Code.laneMarked 0 (linkPlace l))) ∧
    (∀ i : LaneIx, (s.link l).tx.states[i] = .spare →
      exec (.laneFailure l .tx i .short) s = .next
        ((s.modLink l (fun k => { k with tx := { k.tx with states := vset k.tx.states i .short } })).logs Code.laneMarked 0 (linkPlace l))) ∧
    (∀ i : LaneIx, exec (.laneFailure l .rx i .short) s = .next s ∧ exec (.laneFailure l .tx i .openLane) s = .next s ∧
      exec (.laneFailure l .tx i .noisy) s = .next s ∧
      ((s.link l).rx.states[i] = .active → (s.link l).rx.errors[i] ≤ (s.link l).laneErrNow.toNat → (s.link l).uncorrRun[i] < 4 →
        exec (.laneFailure l .rx i .noisy) s = .next s)) ∧
    (∀ (i : LaneIx) (kind : LaneFault) (n : Fin 16), (s.link l).rx.states[i] = .active →
      kind = .openLane ∨ (kind = .noisy ∧ ((s.link l).laneErrNow.toNat < (s.link l).rx.errors[i] ∨ 4 ≤ (s.link l).uncorrRun[i])) →
      (List.finRange 16).find? (fun n => (s.link l).rx.logical[n] == i) = some n →
      (s.link l).rx.pendingSwap.any (fun x => x.lane == n) = false →
      ((s.link l).rx.pendingSwap.length < (s.link l).rx.spares →
        exec (.laneFailure l .rx i kind) s = .next (s.modLink l (fun k => { k with
          rx := { k.rx with pendingSwap := k.rx.pendingSwap ++ [{ lane := n, kind := kind, at_ := none }] } }))) ∧
      ((s.link l).rx.spares ≤ (s.link l).rx.pendingSwap.length →
        exec (.laneFailure l .rx i kind) s = .next (s.linkDown l Code.lanesExhausted))) ∧
    (∀ (i : LaneIx) (n : Fin 16), (s.link l).tx.states[i] = .active →
      (List.finRange 16).find? (fun n => (s.link l).tx.logical[n] == i) = some n →
      (s.link l).tx.pendingSwap.any (fun x => x.lane == n) = false →
      ((s.link l).tx.pendingSwap.length < (s.link l).tx.spares →
        exec (.laneFailure l .tx i .short) s = .next (s.modLink l (fun k => { k with
          tx := { k.tx with pendingSwap := k.tx.pendingSwap ++
            [{ lane := n, kind := .short, at_ := if (s.link l).tx.pendingSwap = [] then some (s.swapBoundary l) else none }] } }))) ∧
      ((s.link l).tx.spares ≤ (s.link l).tx.pendingSwap.length →
        exec (.laneFailure l .tx i .short) s = .next (s.linkDown l Code.lanesExhausted))) ∧
    (∀ (x : LaneSwap) (rest : List LaneSwap) (n : Nat), (s.link l).tx.pendingSwap = x :: rest → x.at_ = some n →
      (s.pace.count.toNat < n → exec (.laneSwap l .tx) s = .next s) ∧
      (∀ i : LaneIx, n ≤ s.pace.count.toNat → (s.link l).tx.nextSpare = some i →
        exec (.laneSwap l .tx) s = .next ((s.modLink l (fun k => { k with
          tx := { k.tx with
            states := vset (vset k.tx.states k.tx.logical[x.lane] (laneStateOf x.kind)) i .active
            logical := vset k.tx.logical x.lane i
            pendingSwap := (match rest with
              | [] => []
              | y :: ys => { y with at_ := some (s.swapBoundary l) } :: ys)
            lastSwap := some (x.lane, n)
            swapped := k.tx.swapped + 1 } })).logs Code.laneSpared 0 (linkPlace l)))) ∧
    (∀ (x : LaneSwap) (rest : List LaneSwap) (n : Nat), (s.link l).rx.pendingSwap = x :: rest → x.at_ = some n →
      (s.locked l = true ∧ s.pace.count.toNat < n + wholeBeats s.pace.grade (s.link l).delay) ∨ (s.locked l = false ∧ (s.link l).heard + 1 < n) →
      exec (.laneSwap l .rx) s = .next s) ∧
    (∀ (x : LaneSwap) (rest : List LaneSwap) (n : Nat) (i : LaneIx), (s.link l).rx.pendingSwap = x :: rest → x.at_ = some n →
      (if s.locked l then n + wholeBeats s.pace.grade (s.link l).delay ≤ s.pace.count.toNat else n ≤ (s.link l).heard + 1) →
      (s.link l).rx.nextSpare = some i →
      exec (.laneSwap l .rx) s = .next ((s.modLink l (fun k => { k with
        rx := { k.rx with
          states := vset (vset k.rx.states k.rx.logical[x.lane] (laneStateOf x.kind)) i .active
          logical := vset k.rx.logical x.lane i
          pendingSwap := rest
          lastSwap := some (x.lane, n)
          swapped := k.rx.swapped + 1 } })).logs Code.laneSpared 0 (linkPlace l))) ∧
    (∀ (d : Lanes) (i : LaneIx), d.nextSpare = some i → d.states[i] = .spare ∧
      ∀ m : LaneIx, d.states[m] = .spare → (d.carrier[i]).val ≤ (d.carrier[m]).val)

/-- In LISTEN a wake pattern takes the link to ALIGN and clears its absence; an attempt without one waits for its back-off, counts, marks the
partner absent and logs LINK_ABSENT once per episode; the end of the back-off starts the next attempt; a cable ID that reads well is kept, and
one that fails its read or its checks is logged. A stage of training that takes too long goes back to LISTEN with STAGE_TIMEOUT. -/
def Obligations.ListenAndStageTimeouts : Prop :=
  ∀ (s : State) (l : LinkId),
    ((s.link l).stage = .listen →
      exec (.wakePatternSeen l) s = .next (s.modLink l (fun k => { k with
        stage := .align, waiting := false, absent := false, absentLogged := false })) ∧
      exec (.listenBackoffEnd l) s = .next (s.modLink l (fun k => { k with waiting := false })) ∧
      ((s.link l).waiting = false → (s.link l).absentLogged = false →
        exec (.listenTimeout l) s = .next ((s.modLink l (fun k => { k with
          waiting := true, fails := k.fails + 1, absent := true, absentLogged := true })).logs Code.linkAbsent 0 (linkPlace l))) ∧
      ((s.link l).waiting = false → (s.link l).absentLogged = true →
        exec (.listenTimeout l) s = .next (s.modLink l (fun k => { k with
          waiting := true, fails := k.fails + 1, absent := true, absentLogged := true }))) ∧
      (s.landsCut = false →
        exec (.cableIdRead l none) s = .next (s.logs Code.cableIdBad 0 (linkPlace l)) ∧
        (∀ v : BitVec 256, fld v 15 0 = 0x5A01 → fld v 31 16 ≤ 250 →
          exec (.cableIdRead l (some v)) s = .next (s.modLink l (fun k => { k with cableId := v }))) ∧
        (∀ v : BitVec 256, fld v 15 0 ≠ 0x5A01 ∨ 250 < fld v 31 16 →
          exec (.cableIdRead l (some v)) s = .next ((s.modLink l (fun k => { k with cableId := v })).logs Code.cableIdBad 0 (linkPlace l))))) ∧
    ((s.link l).stage = .align ∨ (s.link l).stage = .identify ∨ (s.link l).stage = .train ∨ (s.link l).stage = .check →
      exec (.stageTimeout l) s = .next ((s.modLink l (fun k => { k with stage := .listen, waiting := false })).logs Code.stageTimeout 0 (linkPlace l))) ∧
    ((s.link l).stage = .up → exec (.stageTimeout l) s = .next s)

/-- ALIGN marks the lanes it finds faulty, each logged, and goes on to IDENTIFY when each direction keeps 16 good lanes and the topology and chip
id are valid, to MISWIRED when they are not, and with too few good lanes to FAULT with LINK_FAULT. IDENTIFY goes on to TRAIN when the partner's
machine, port and chip id are those that a programmed ZL_PEER_EXPECT gives and no conflict is known; any other identity, or none programmed, is
MISWIRED and logged. TRAIN marks and logs the
noisy lanes, assigns the logical lanes to 16 good lanes and goes on to CHECK, else FAULT. CHECK with good frames and a delay of at most 200 ns
brings the link UP with a new epoch, sequence numbers from 0 and full credits, and logs LINK_UP; too long a delay is FAULT with DELAY_LIMIT. -/
def Obligations.TrainingReachesUp : Prop :=
  ∀ (s : State) (l : LinkId),
    (∀ (tx rx : Vector LaneFound 18) (w : State), (s.link l).stage = .align →
      w = (s.modLink l (fun k => { k with tx := k.tx.aligned tx, rx := k.rx.aligned rx })).logMarked l
        (((List.finRange 18).filter (fun i => !((s.link l).tx.aligned tx).states[i].good)).length +
          ((List.finRange 18).filter (fun i => !((s.link l).rx.aligned rx).states[i].good)).length) →
      (((s.link l).tx.aligned tx).enough = true → ((s.link l).rx.aligned rx).enough = true →
        (s.idsValid = true →
          exec (.alignDone l tx rx) s = .next (w.modLink l (fun k => { k with stage := .identify, chipUnsetLogged := false }))) ∧
        (s.idsValid = false → (s.link l).chipUnsetLogged = false →
          exec (.alignDone l tx rx) s = .next ((w.modLink l (fun k => { k with
            stage := .miswired, chipUnsetLogged := true })).logs Code.chipIdUnset 0 (linkPlace l)))) ∧
      (((s.link l).tx.aligned tx).enough = false ∨ ((s.link l).rx.aligned rx).enough = false →
        exec (.alignDone l tx rx) s = .next ((w.modLink l (fun k => { k with stage := .fault })).logs Code.linkFault 0 (linkPlace l)))) ∧
    (∀ (m : W32) (chip : BitVec 13) (port : BitVec 3) (seen : W64), (s.link l).stage = .identify → s.idsValid = true →
      seen = BitVec.ofNat 64 (m.toNat * 2 ^ 32 + 2 ^ 31 + port.toNat * 2 ^ 16 + chip.toNat) →
      (m = s.mgt.machineId ∧ bit (s.link l).peerExpect 31 = true ∧ (s.link l).conflict = false ∧
          fld (s.link l).peerExpect 18 16 = port.toNat ∧ fld (s.link l).peerExpect 12 0 = chip.toNat →
        exec (.identifyDone l m chip port) s = .next (s.modLink l (fun k => { k with peerSeen := seen, stage := .train }))) ∧
      (m ≠ s.mgt.machineId ∨ bit (s.link l).peerExpect 31 = false ∨ (s.link l).conflict = true ∨
          fld (s.link l).peerExpect 18 16 ≠ port.toNat ∨ fld (s.link l).peerExpect 12 0 ≠ chip.toNat →
        exec (.identifyDone l m chip port) s = .next
          ((s.modLink l (fun k => { k with peerSeen := seen, stage := .miswired })).hand Code.linkMiswired 0 (.count seen) (linkPlace l)))) ∧
    (∀ (nt nr : BitVec 18) (w : State), (s.link l).stage = .train →
      w = (s.modLink l (fun k => { k with tx := k.tx.trained nt, rx := k.rx.trained nr })).logMarked l
        ((s.link l).tx.marked ((s.link l).tx.trained nt) + (s.link l).rx.marked ((s.link l).rx.trained nr)) →
      (((s.link l).tx.trained nt).enough = true → ((s.link l).rx.trained nr).enough = true →
        exec (.trainDone l nt nr) s = .next (w.modLink l (fun k => { k with stage := .check }))) ∧
      (((s.link l).tx.trained nt).enough = false ∨ ((s.link l).rx.trained nr).enough = false →
        exec (.trainDone l nt nr) s = .next ((w.modLink l (fun k => { k with stage := .fault })).logs Code.linkFault 0 (linkPlace l)))) ∧
    (∀ (good : Bool) (delay : BitVec 16) (e : Byte), (s.link l).stage = .check →
      (good = true → delay.toNat ≤ 200 * 256 → (∀ j ∈ s.jobs, j.phase ≠ .armed) →
        ∃ t, exec (.checkDone l good delay e) s = .next t ∧ (t.link l).stage = .up ∧ (t.link l).epoch = (s.link l).epoch + 1 ∧
          (t.link l).partnerEpoch = e ∧ (t.link l).delay = delay ∧ (t.link l).nextSeq = 0 ∧ (t.link l).expectSeq = 0 ∧
          (t.link l).creditJob = 128 ∧ (t.link l).creditMgmt = 64 ∧ (t.link l).unacked = [] ∧ (t.link l).tx.states = (s.link l).tx.states ∧
          t.log = (s.logs Code.linkUp 0 (linkPlace l)).log ∧ (∀ m : LinkId, m ≠ l → t.link m = s.link m) ∧ t.jobs = s.jobs ∧ t.parts = s.parts) ∧
      (200 * 256 < delay.toNat →
        exec (.checkDone l good delay e) s = .next
          ((s.modLink l (fun k => { k with delay := delay, stage := .fault })).logs Code.delayLimit 0 (linkPlace l))))

/-- Over the host's lanes, which need MAIN_PG and the standby POR released (without them nothing changes): RESET takes a link that is neither
OFF nor DOWN down with LINK_RESET, and is ignored otherwise. RETRAIN takes an enabled link in FAULT or MISWIRED to LISTEN. ENABLE takes a link from
OFF to LISTEN; its clearing takes an UP link down with
LINK_RESET. A write of ZL_PEER_EXPECT under PF0's SETUP_LOCK is ignored and logged, one that names a port above 5 is rejected, and one that
changes the value of a link in OFF, with no valid topology and chip id yet, is stored. -/
def Obligations.LinkControlAndExpectedPeer : Prop :=
  ∀ (s : State) (l : LinkId),
    (s.hostLanes = false → exec (.linkReset l) s = .next s ∧ exec (.retrain l) s = .next s ∧ (∀ b : Bool, exec (.zlCtrlEnable l b) s = .next s) ∧
      ∀ v : W32, exec (.zlPeerExpect l v) s = .next s) ∧
    (s.hostLanes = true →
      ((s.link l).stage ≠ .off → (s.link l).stage ≠ .down → exec (.linkReset l) s = .next (s.linkDown l Code.linkReset)) ∧
      ((s.link l).stage = .off ∨ (s.link l).stage = .down → exec (.linkReset l) s = .next s) ∧
      ((s.link l).stage = .fault ∨ (s.link l).stage = .miswired → (s.link l).enable = true →
        exec (.retrain l) s = .next (s.modLink l (fun k => { k with
          stage := .listen, fails := 0, waiting := false, absent := false, absentLogged := false }))) ∧
      ((s.link l).stage = .off →
        exec (.zlCtrlEnable l true) s = .next (s.modLink l (fun k => { k with
          enable := true, stage := .listen, fails := 0, waiting := false, absent := false, absentLogged := false }))) ∧
      ((s.link l).stage = .up →
        exec (.zlCtrlEnable l false) s = .next ((s.modLink l (fun k => { k with enable := false })).linkDown l Code.linkReset)) ∧
      (∀ v : W32,
        ((s.fn 0).setupLock = true → exec (.zlPeerExpect l v) s = .next (s.logs Code.regLocked 0)) ∧
        ((s.fn 0).setupLock = false → 5 < fld (v &&& 0x80071FFF) 18 16 → exec (.zlPeerExpect l v) s = .next (s.logs Code.setupRejected 0)) ∧
        ((s.fn 0).setupLock = false → fld (v &&& 0x80071FFF) 18 16 ≤ 5 → v &&& 0x80071FFF ≠ (s.link l).peerExpect → s.peerFixed l = false →
          s.idsValid = false → (s.link l).stage = .off →
          exec (.zlPeerExpect l v) s = .next (s.modLink l (fun k => { k with peerExpect := v &&& 0x80071FFF, conflict := false })))))

/-- PLAN_DIGEST takes the first digest cell that has reached its stop and keeps it for the owner of its link when that is loaded, or armed with
the cell's START_COUNT, in place of an earlier one for the same set; an armed owner with another START_COUNT does not keep it. An armed owner
compares: with cells missing it waits; with a live digest that differs it logs PLAN_MISMATCH and the start is refused; with all of them equal
START completes with SUCCESS and START_COUNT. DIGEST_DEADLINE 4,096 beats before START_COUNT with the completion still due refuses the start with
PEER_SILENT. JOB_ABORT for an armed start whose count has not come refuses it with START_ABORTED; a running job faults with PEER_FAULT and passes
the cell on on its other links. -/
def Obligations.DigestsAndAbortsDecideAnArmedStart : Prop :=
  (∀ (s u w : State) (l : LinkId) (c : Cell) (r : Option (Fin 32)) (d : DieId) (e : Option EccErr) (j kept : Job),
    s.takeCell (isMgmtCell 1) = some { state := u, from_ := .link l, cell := c, ring := r, die := d, err := e } → (u.link l).owner = some j.id →
    u.job? j.id = some j → kept = j.keepDigest (digestCell l c.bytes) → w = u.modJob j.id (fun j => j.keepDigest (digestCell l c.bytes)) →
    kept.digests.head? = some (digestCell l c.bytes) ∧
    (j.phase = .loaded → exec .planDigest s = .next w) ∧
    (∀ b : PaceBlock, j.phase = .armed → j.pace = some b → b.startCount ≠ leAt c.bytes 8 8 → exec .planDigest s = .next u) ∧
    (∀ (d : Desc) (b : PaceBlock) (k : PlanSection), j.phase = .armed → j.startDesc = some d → j.pace = some b → j.image.plan = some k →
      b.startCount = leAt c.bytes 8 8 →
      (w.digestState kept k b = .waiting → exec .planDigest s = .next w) ∧
      (∀ m : LinkId, w.digestState kept k b = .mismatch m →
        exec .planDigest s = .next ((w.logAt Code.planMismatch j.fn.val { Loc.base 6 with link := m.val, part := j.lead.val }).refuseStart kept
          Status.planMismatch Code.planMismatch Code.planMismatch none)) ∧
      (w.digestState kept k b = .done false →
        exec .planDigest s = .next ((w.modJob j.id (fun j => { j with startDone := true, startDesc := none })).complete d
          { status := Status.success, detail0 := BitVec.ofNat 64 b.startCount })))) ∧
  (∀ (s : State) (lead : PartId) (j : Job) (b : PaceBlock), s.jobOfLead lead = some j → j.pace = some b → j.phase = .armed →
    (j.startDesc.isSome = true → b.startCount ≤ s.pace.count.toNat + 4096 →
      exec (.digestDeadline lead) s = .next ((s.logAt Code.peerSilent j.fn.val { Loc.base 6 with part := j.lead.val }).refuseStart j
        Status.peerSilent Code.peerSilent Code.peerSilent none)) ∧
    (s.pace.count.toNat + 4096 < b.startCount → exec (.digestDeadline lead) s = .next s)) ∧
  (∀ (s u : State) (l : LinkId) (c : Cell) (r : Option (Fin 32)) (d : DieId) (e : Option EccErr) (j : Job) (b : PaceBlock),
    s.takeCell (isMgmtCell 2) = some { state := u, from_ := .link l, cell := c, ring := r, die := d, err := e } → u.jobs = [j] →
    j.pace = some b → b.startCount = leAt c.bytes 8 8 → b.domainId = c.domain → b.jobIndex = c.jobIndex →
    (j.phase = .armed → u.pace.count.toNat < b.startCount → j.startDesc.isSome = true →
      exec .jobAbort s = .next ((u.logAt Code.startAborted j.fn.val { Loc.base 6 with part := j.lead.val, link := l.val }).refuseStart j
        Status.startAborted Code.startAborted (BitVec.ofNat 16 (leAt c.bytes 16 2)) (some l))) ∧
    (j.phase = .run → exec .jobAbort s = .next ((u.logAt Code.peerFault j.fn.val
      { Loc.base 6 with part := j.lead.val, link := l.val }).jobFaultWith j Code.peerFault (BitVec.ofNat 16 (leAt c.bytes 16 2)) (some l))))

/-- What the rings find in a cell that crossed one: nothing for a cell that crossed none; an uncorrectable error discards it; a single-bit error is
corrected, counted and logged; a malformed cell that came on a link is discarded and counted, any other goes on. A management-class request
that goes on, whose bytes lie inside the package, none of whose words holds an error, and whose tile and partition are not in HOLD: a write to
partitions that are not in RUN stores its bytes at its offset and answers SUCCESS; a read is answered with the bytes stored there. A write that touches
a partition in RUN, be it the last of its bytes, and a request beyond the package are answered NOT_PERMITTED, and CELL_REGION is logged. To a tile or a
partition in HOLD the answer is UNIT_RESET and nothing is stored. Every byte outside those stored reads as before. A job-class request of the domain and
job of the partition's job, both copies of whose map agree: a write into a LANDING region and a read of a region that tiles may read, inside its bounds,
are performed likewise; one of a region of another kind, across its end or in no region is refused with CELL_REGION. One to a partition that holds no
map is refused with the kind fault, one of another job than the partition's with CELL_REGION, all with source B (log 128). A refusal in a partition
whose job has faulted is only counted. -/
def Obligations.CellRequestsReachTheirPlot : Prop :=
  (∀ k : Taken,
    (k.ring = none → k.check = (k.state, true)) ∧
    (∀ n : Fin 32, k.ring = some n →
      (k.err = some .double → k.check = (k.state, false)) ∧
      (∀ v : State, v = (if k.err = some .single then
          (k.state.modInfield (fun i => { i with corrected := satInc i.corrected })).logs Code.ringCorrected 0 (k.die.val * 8) else k.state) →
        k.err ≠ some .double →
        ((k.from_ = .here ∨ k.state.cellBad k.cell = false) → k.check = (v, true)) ∧
        (∀ l : LinkId, k.from_ = .link l → k.state.cellBad k.cell = true →
          k.check = ((v.modInfield (fun i => { i with cellDrop := satInc i.cellDrop })).logRate (.cellMalformedRing n) Code.cellMalformed 0
            (k.die.val * 8), false))))) ∧
  (∀ (s v : State) (k : Taken) (c : Cell),
    s.takeCell (fun c => c.kind == CellKind.write || c.kind == CellKind.readReq) = some k → c = k.cell →
    (k.check = (v, false) → exec .cellRequest s = .next v) ∧
    (k.check = (v, true) →
      (v.inHold (.tile (finOf 256 (faOffset c.address / 2 ^ 28))) = true ∨ (v.part (partOfOffset (faOffset c.address))).st = .hold →
        exec .cellRequest s = .next (v.answer c Status.unitReset 0)) ∧
      (v.inHold (.tile (finOf 256 (faOffset c.address / 2 ^ 28))) = false → (v.part (partOfOffset (faOffset c.address))).st ≠ .hold →
        (c.mgmt = true → faOffset c.address + c.span ≤ 2 ^ 36 → v.sram.ecc = [] →
          (c.kind = CellKind.write → (v.part (partOfOffset (faOffset c.address))).st ≠ .run →
            (v.part (partOfOffset (faOffset c.address + c.span - 1))).st ≠ .run →
            exec .cellRequest s = .next ((v.wr (faOffset c.address) (c.bytes.take c.span)).answer c Status.success 0) ∧
            (Mem.wf v.sram.mem = true → ∀ x : Nat, (x < faOffset c.address ∨ faOffset c.address + c.span ≤ x) →
              Mem.get (v.wr (faOffset c.address) (c.bytes.take c.span)).sram.mem x = Mem.get v.sram.mem x)) ∧
          (c.kind = CellKind.readReq →
            exec .cellRequest s = .next (v.sendCell (Stop.ofOffset (faOffset c.address))
              { address := mkFa true c.src (faOffset c.address)
                head := mkHead CellKind.readData c.wordsM1 true v.chip c.tag c.epoch c.jobIndex c.domain
                data := mkData (Mem.read v.sram.mem (faOffset c.address) c.span) }))) ∧
        (c.mgmt = true → (2 ^ 36 < faOffset c.address + c.span ∨ (c.kind = CellKind.write ∧
            ((v.part (partOfOffset (faOffset c.address))).st = .run ∨ (v.part (partOfOffset (faOffset c.address + c.span - 1))).st = .run))) →
          exec .cellRequest s = .next ((v.logOfJob (partOfOffset (faOffset c.address)) (Code.cellRegion 11)
            { Loc.base 8 with part := (partOfOffset (faOffset c.address)).val
                              address := some ((faOffset c.address : Int) - partBase (partOfOffset (faOffset c.address)))
                              access := if c.kind = CellKind.write then Kind.landing else Kind.tileRead }).answer c Status.notPermitted
            (Code.cellRegion 11))) ∧
        (∀ (p : PartId) (off : Nat) (m : AllocMap) (b : PaceBlock) (r : Loc), c.mgmt = false → p = partOfOffset (faOffset c.address) →
          off = faOffset c.address - partBase p → (v.part p).mapA = some m → (v.part p).mapB = some m → v.sram.ecc = [] →
          (v.jobOf p).bind Job.pace = some b → b.domainId = c.domain → b.jobIndex = c.jobIndex →
          r = { Loc.base 8 with part := p.val, address := some ((faOffset c.address : Int) - partBase p)
                                access := if c.kind = CellKind.write then Kind.landing else Kind.tileRead } →
          (regionOf ((List.range m.count).filterMap (fun i => (m.entry? i).map (fun e => (i, e)))) off 1 = none →
            exec .cellRequest s = .next ((v.logOfJob p (Code.cellRegion 11) r).answer c Status.notPermitted (Code.cellRegion 11))) ∧
          (∀ (i : Nat) (e : BitVec 128),
            regionOf ((List.range m.count).filterMap (fun i => (m.entry? i).map (fun e => (i, e)))) off 1 = some (i, e) →
            ((c.kind = CellKind.write ∧ mePurpose e ≠ Purpose.landing) ∨ (c.kind = CellKind.readReq ∧ meHas e Kind.tileRead = false) →
              exec .cellRequest s = .next
                ((v.logOfJob p (Code.cellRegion 11) { r with region := some i }).answer c Status.notPermitted (Code.cellRegion 11))) ∧
            ((c.kind = CellKind.write ∧ mePurpose e = Purpose.landing) ∨ (c.kind = CellKind.readReq ∧ meHas e Kind.tileRead = true) →
              (meStart e + meLen e < off + c.span →
                exec .cellRequest s = .next
                  ((v.logOfJob p (Code.cellRegion 11) { r with region := some i, address := some ((meStart e + meLen e : Nat) : Int) }).answer c
                    Status.notPermitted (Code.cellRegion 11))) ∧
              (off + c.span ≤ meStart e + meLen e →
                (c.kind = CellKind.write →
                  exec .cellRequest s = .next ((v.wr (faOffset c.address) (c.bytes.take c.span)).answer c Status.success 0)) ∧
                (c.kind = CellKind.readReq →
                  exec .cellRequest s = .next (v.sendCell (Stop.ofOffset (faOffset c.address))
                    { address := mkFa false c.src (faOffset c.address)
                      head := mkHead CellKind.readData c.wordsM1 false v.chip c.tag c.epoch c.jobIndex c.domain
                      data := mkData (Mem.read v.sram.mem (faOffset c.address) c.span) })))))) ∧
        (∀ (code : W16), c.mgmt = false →
          ((v.part (partOfOffset (faOffset c.address))).mapA = none ∧ code = Code.regionKind 11) ∨
          ((v.part (partOfOffset (faOffset c.address))).mapA ≠ none ∧ code = Code.cellRegion 11 ∧
            ∀ b : PaceBlock, (v.jobOf (partOfOffset (faOffset c.address))).bind Job.pace = some b → b.domainId ≠ c.domain ∨ b.jobIndex ≠ c.jobIndex) →
          exec .cellRequest s = .next ((v.logOfJob (partOfOffset (faOffset c.address)) code
            { Loc.base 8 with part := (partOfOffset (faOffset c.address)).val
                              address := some ((faOffset c.address : Int) - partBase (partOfOffset (faOffset c.address)))
                              access := if c.kind = CellKind.write then Kind.landing else Kind.tileRead }).answer c Status.notPermitted code))))) ∧
  (∀ (s : State) (p : PartId) (code : W16) (r : Loc),
    ((∀ j : Job, s.jobOf p = some j → j.phase ≠ .faulted) → s.logOfJob p code r = s.logAt code (s.vfOf p) r) ∧
    (∀ j : Job, s.jobOf p = some j → j.phase = .faulted →
      s.logOfJob p code r = s.modLog (fun g => { g with suppressed := satInc g.suppressed })))

/-- A reply that its rings let go on and that no open request matches by VC, slot, reuse count and epoch is counted in STALE_COUNT and has no
other effect; one that they discard has none. A SUCCESS or data reply of a request with more still to come is taken into it; the last reply ends
it; that of a GET whose cells have all succeeded first stores the data that came in the local reference, that of one that failed stores nothing
(log 60). CELL_TIMEOUT ends an open request. A request
ends with the first outcome of Table 11-5 that applies: a PUT or GET with a refused cell faults its job with CELL_REFUSED at the remote offset, at its
timer with CELL_TIMEOUT, posts void of cause 3 after UNIT_RESET and of cause 4 after LINK_DOWN, else posts normally; a management descriptor and
the I3C access complete NOT_PERMITTED, LINK_DOWN (CELL_TIMEOUT is logged), UNIT_RESET, LINK_DOWN or SUCCESS, a read with its bytes.
COUNTER_REQ, while firmware serves, is answered with the page of the snapshot; one that its rings discard is not. -/
def Obligations.RepliesAndTimersEndRequests : Prop :=
  (∀ (s v : State) (k : Taken) (c : Cell),
    s.takeCell (fun c => c.kind == CellKind.readData || c.kind == CellKind.completion
      || (c.kind == CellKind.management && c.mgmtType == 4)) = some k → c = k.cell →
    (k.check = (v, false) → exec .cellReply s = .next v) ∧
    (∀ vc : Bool, k.check = (v, true) → vc = (if c.kind = CellKind.completion then bit (byteAt c.data 1) 0 else c.mgmt) →
      ((∀ q ∈ v.infield.requests, q.mgmt = vc → q.slot.toNat = c.tag.toNat % 256 → q.reuse.toNat = c.tag.toNat / 256 →
          v.ownerEpoch q.owner ≠ c.epoch) →
        exec .cellReply s = .next (v.modInfield (fun i => { i with staleCount := satInc i.staleCount }))) ∧
      (∀ q : Request, v.infield.requests = [q] → q.mgmt = vc → q.slot.toNat = c.tag.toNat % 256 → q.reuse.toNat = c.tag.toNat / 256 →
        v.ownerEpoch q.owner = c.epoch →
        (1 < q.left → c.kind = CellKind.completion → byteAt c.data 0 = Status.success →
          exec .cellReply s = .next (v.modInfield (fun i => { i with requests := [{ q with left := q.left - 1 }] }))) ∧
        (1 < q.left → c.kind = CellKind.readData →
          exec .cellReply s = .next (v.modInfield (fun i => { i with requests := [{ q with
            left := q.left - 1
            data := Mem.write q.data (faOffset c.address - faOffset q.base) (c.bytes.take c.span) }] }))) ∧
        (q.left = 1 → (∀ l p i, q.owner = .putGet l p i true →
            (q.take c).refused.isSome = true ∨ (q.take c).unitReset = true ∨ (q.take c).linkDown = true) →
          exec .cellReply s =
            .next ((v.modInfield (fun i => { i with requests := [q.take c] })).finishRequest (q.take c) false)) ∧
        (∀ (lead p : PartId) (i : Issued) (w : State) (m : AllocMap) (e : BitVec 128), q.left = 1 → q.owner = .putGet lead p i true →
          (q.take c).refused = none → (q.take c).unitReset = false → (q.take c).linkDown = false →
          w = v.modInfield (fun i => { i with requests := [q.take c] }) → (v.part p).mapA = some m → (v.part p).mapB = some m →
          m.entry? (putLocal i.cmd).region = some e → (putLocal i.cmd).offset + putLength i.cmd ≤ meLen e → v.sram.ecc = [] →
          exec .cellReply s = .next ((w.wr (partBase p + meStart e + (putLocal i.cmd).offset)
            (Mem.read (q.take c).data 0 (q.take c).length)).finishRequest (q.take c) false))))) ∧
  (∀ (s : State) (mgmt : Bool) (slot : Byte),
    ((∀ q ∈ s.infield.requests, q.mgmt = mgmt → q.slot ≠ slot) → exec (.cellTimeout mgmt slot) s = .next s) ∧
    (∀ q : Request, s.infield.requests = [q] → q.mgmt = mgmt → q.slot = slot →
      exec (.cellTimeout mgmt slot) s = .next (s.finishRequest q true))) ∧
  (∀ (s w : State) (q : Request) (expired : Bool) (x : Request), s.infield.requests = [x] → x.mgmt = q.mgmt → x.slot = q.slot →
    w = s.modInfield (fun i => { i with requests := [] }) →
    (∀ (lead p : PartId) (i : Issued) (g : Bool), q.owner = .putGet lead p i g →
      (∀ off : Nat, q.refused = some off → s.finishRequest q expired = w.partJobFault p Code.cellRefused
        { i.loc p 6 with address := some ((off : Int) - p.val * 2 ^ 33) }) ∧
      (q.refused = none → expired = true → s.finishRequest q expired = w.partJobFault p Code.cellTimeout (i.loc p 6)) ∧
      (q.refused = none → expired = false → q.unitReset = true →
        s.finishRequest q expired = (w.retire p i (fun id g => mkVoid 3 id g 0xFF) 6).settle p) ∧
      (q.refused = none → expired = false → q.unitReset = false → q.linkDown = true →
        s.finishRequest q expired = (w.retire p i (fun id g => mkVoid 4 id g 0xFF) 6).settle p) ∧
      (q.refused = none → expired = false → q.unitReset = false → q.linkDown = false →
        s.finishRequest q expired = (w.retire p i (fun id g => mkEntry 0 id g 0xFF) 6).settle p)) ∧
    (∀ (st : Byte) (syn rd : Bool), (st, syn) = (if q.refused.isSome then (Status.notPermitted, false) else if expired then (Status.linkDown, true)
        else if q.unitReset then (Status.unitReset, true) else if q.linkDown then (Status.linkDown, true) else (Status.success, false)) →
      (∀ v : State, q.owner = .i3c rd → v = (if expired = true ∧ q.refused = none then w.logs Code.cellTimeout else w) →
        s.finishRequest q expired = { v with
        side := { v.side with i3cReply := st :: (if st = 0 ∧ rd = true then Mem.read q.data 0 q.length else []) } }) ∧
      (∀ (d : Desc) (v : State), q.owner = .mgmt d rd ∨ (q.owner = .counters d ∧ rd = true) →
        v = (if expired = true ∧ q.refused = none then w.logs Code.cellTimeout else w) →
        ((∀ o ∈ s.hiu.winOps, o.desc ≠ d) → s.finishRequest q expired = (if st = 0 ∧ rd = true
          then v.completeWith d { status := st, synthetic := syn, detail0 := BitVec.ofNat 64 (Mem.read q.data 0 q.length).length }
            (Mem.read q.data 0 q.length)
          else v.complete d { status := st, synthetic := syn })) ∧
        (∀ (o : WinOp) (n : Nat), s.hiu.winOps = [o] → o.desc = d → o.phase = .reply n →
          (st ≠ 0 ∨ rd = false → s.finishRequest q expired = v.modHiu (fun h => { h with
            winOps := [{ o with phase := .close st o.claim 0 false 0 0 0 }] })) ∧
          (∀ u : State, st = 0 → rd = true → v.winWrite o.root (Mem.read q.data 0 q.length).length (o.offset.toNat + 64)
              (Mem.read q.data 0 q.length) = (u, q.length, none) → u.hiu.winOps = [o] →
            s.finishRequest q expired = u.modHiu (fun h => { h with
              winOps := [{ o with phase := .close 0 o.claim q.length false (BitVec.ofNat 64 q.length) 0 0 }] })))))) ∧
  (∀ (s v : State) (k : Taken), s.fwServes = true → s.takeCell (isMgmtCell 3) = some k →
    (k.check = (v, false) → exec .counterReq s = .next v) ∧
    (k.check = (v, true) →
      exec .counterReq s = .next (v.sendCell (.service 0)
        { address := mkFa true k.cell.src (faOffset k.cell.address)
          head := mkHead CellKind.management 2 true v.chip k.cell.tag k.cell.epoch k.cell.jobIndex k.cell.domain
          data := mkData (v.infield.counterData (byteAt k.cell.data 1).toNat (byteAt k.cell.data 2).toNat) })))

/-- For a running job whose active plan carries a transfer on the infield rings, with no deferred send of it that can go: with no frame of it due on
the rings now and no occurrence that begins in two beats, nothing happens. Two beats before the first slot of a send between plots its outcome is
noted once: present or void as the SEND that bound the occurrence says; with nothing bound, or with frames of an earlier deferred send of its slot
still on their way (log 173), it is deferred, STUMBLE is logged (with the fields of log 98) and a slip is requested. At each slot of an occurrence,
the last and the only one included, its hops are counted and its frame enters the ring: that of a present send as read from its plot in that row
(log 145), whose last frame ends the SEND; that of a void send in its first slot, which ends the SEND; that of a present feed, for the relay station
of its link; that of a drain, when it is held. A stumble's slots stay empty. (What is said of a frame's beat is said for a beat in which nothing is
sampled ahead.) A frame is under way for as many beats as it crosses hops, and then meets what the rings found in it: a single-bit error is
corrected, counted and logged, an uncorrectable one faults the job with RING_UNCORRECTABLE; then it waits for its link, or lands. A cell that is the
only unit on the rings, with no job in RUN, moves one hop of its leg in a beat, which a step on an empty queue is (log 2), and goes on with the next
leg at its goal. -/
def Obligations.RingOccurrencesSendOrStumble : Prop :=
  (∀ (s : State) (lead : PartId) (t : W16) (j : Job) (kt kr : TableSet), s.jobOfLead lead = some j → s.job? j.id = some j →
    j.ringSet false t = some kt → j.ringSet true t = some kr → j.phase = .run → s.ringReady j t = none →
    ((∀ x : LapSpan, j.spanAt s.pace.count.toNat = some x → x.held = true ∨ kt.occAt x.table t (s.pace.count.toNat - x.start) = none) →
      (∀ err : Option EccErr, ((∃ kl, j.ringUse t = .drain kl) ∨ (∀ x : LapSpan, s.spanAhead j (s.pace.count.toNat + 2) = some x →
          x.held = true ∨ ∀ first g, kt.occAt x.table t (s.pace.count.toNat + 2 - x.start) ≠ some (first, g, 0))) →
        exec (.ringOccurrence lead t err) s = .next s) ∧
      (∀ (err : Option EccErr) (x : LapSpan) (first : Nat) (g : W32) (r : Nat × W32), j.ringUse t = .send →
        s.spanAhead j (s.pace.count.toNat + 2) = some x → x.held = false →
        kt.occAt x.table t (s.pace.count.toNat + 2 - x.start) = some (first, g, 0) → kr.nth x.table t (kt.place x.table t first) = some r →
        j.ringSampled = [] → j.ringDeferred = [] →
        (∀ b : BoundSend, j.boundAt t (j.occNumber kt t x.index first) = some b → s.stillSending j t (x.occ r.1 r.2) = false →
          exec (.ringOccurrence lead t err) s = .next (s.modJob j.id (fun j => { j with
            ringSampled := j.ringSampled ++ [(t, { occ := x.occ first g, number := j.occNumber kt t x.index first
                                                   outcome := if b.void = 0 then .present else .void })] }))) ∧
        (j.boundAt t (j.occNumber kt t x.index first) = none ∨ s.stillSending j t (x.occ r.1 r.2) = true →
          exec (.ringOccurrence lead t err) s = .next ((((s.modJob j.id (fun j => { j with
            ringSampled := j.ringSampled ++ [(t, { occ := x.occ first g, number := j.occNumber kt t x.index first
                                                   outcome := .stumble })] })).modJob j.id (fun q => { q with
            ringDeferred := q.ringDeferred ++ [{ lead := j.lead, occ := x.occ first g, transfer := t
                                                 number := j.occNumber kt t x.index first
                                                 ready := (j.boundAt t (j.occNumber kt t x.index first)).isSome, nextSlot := 0 }] })).logAt
            Code.stumble j.fn.val ((slotLoc 6 j.lead x first).burst t x.index
              (j.dataBaton t (j.occNumber kt t x.index first)))).raiseSlip j 1 (x.start + first))))) ∧
    (∀ (x : LapSpan) (first i : Nat) (g : W32) (err : Option EccErr) (v w : State) (r : Nat × W32),
      j.spanAt s.pace.count.toNat = some x → x.held = false → kt.occAt x.table t (s.pace.count.toNat - x.start) = some (first, g, i) →
      v = s.countHops j t → (∀ q : Job, w.job? j.id = some q → q.phase = .run → w.ringSampleAhead q kt kr t = w) →
      (∀ kl : TableSet, j.ringUse t = .drain kl → kl.nth x.table t (kt.place x.table t first) = some r →
        (∀ f : StoredFrame, (v.link kl.station).hold.find? (fun f => f.transfer == t && f.occ == x.occ r.1 r.2 && f.index == i) = some f →
          w = (v.modLink kl.station (fun k => { k with hold := k.hold.erase f })).flyFrame j
            { job := j.id, station := finOf 7 kl.station.val, feed := false, frame := f, void := false, carried := 0, send := none } err →
          exec (.ringOccurrence lead t err) s = .next w) ∧
        ((∀ f ∈ (v.link kl.station).hold, f.transfer = t → f.occ = x.occ r.1 r.2 → f.index ≠ i) → w = v →
          exec (.ringOccurrence lead t err) s = .next w)) ∧
      (∀ (a : Sampled) (z : State), j.ringSampled.find? (fun a => a.1 == t && a.2.occ.lapIndex == x.index && a.2.occ.slot == first) = some (t, a) →
        z = (if i + 1 < segLen r.2 then v else v.modJob j.id (fun j => { j with ringSampled := j.ringSampled.erase (t, a) })) →
        (∀ k : TableSet, a.outcome = .stumble → (j.ringUse t = .send ∧ k = kr) ∨ j.ringUse t = .feed k →
          k.nth x.table t (kt.place x.table t first) = some r → w = z → exec (.ringOccurrence lead t err) s = .next w) ∧
        (∀ (b : BoundSend) (y : Transfer), j.boundAt t a.number = some b → kt.entry? t = some y →
          (∀ (u : State) (bs : List Byte), a.outcome = .present → z.burstBytes 6 j y i = (u, some bs) →
            (j.ringUse t = .send → kr.nth x.table t (kt.place x.table t first) = some r →
              w = (if i + 1 = segLen r.2 then u.sendDone j.id b else u).flyFrame j
                { job := j.id, station := 6, feed := false, frame := { transfer := t, occ := x.occ r.1 r.2, index := i, data := bs }
                  void := false, carried := b.carried, send := none } err →
              exec (.ringOccurrence lead t err) s = .next w) ∧
            (∀ kl : TableSet, j.ringUse t = .feed kl → kl.nth x.table t (kt.place x.table t first) = some r →
              w = u.flyFrame j
                { job := j.id, station := finOf 7 kl.station.val, feed := true
                  frame := { transfer := t, occ := x.occ r.1 r.2, index := i, data := bs }, void := false, carried := 0, send := none } err →
              exec (.ringOccurrence lead t err) s = .next w)) ∧
          (a.outcome = .void → j.ringUse t = .send → kr.nth x.table t (kt.place x.table t first) = some r →
            w = (if i = 0 then (z.sendDone j.id b).flyFrame j (ringVoid j t (x.occ r.1 r.2) none) err else z) →
            exec (.ringOccurrence lead t err) s = .next w))))) ∧
  (∀ (s : State) (j : Job) (b : RingBurst) (err : Option EccErr),
    (s.crossing j b.frame.transfer = 0 → s.flyFrame j b err = s.burstFound err b) ∧
    (s.crossing j b.frame.transfer ≠ 0 → s.flyFrame j b err = s.modInfield (fun i => { i with
      flights := i.flights ++ [{ due := s.pace.count.toNat + s.crossing j b.frame.transfer, err := err, burst := b }] })) ∧
    (∀ f : RingFlight, s.infield.flights = [f] →
      s.flightsLand = (if f.due ≤ s.pace.count.toNat then (s.modInfield (fun i => { i with flights := [] })).burstFound f.err f.burst else s)) ∧
    ((∀ q : Job, s.job? b.job = some q → q.phase ≠ .run) → s.burstFound err b = s) ∧
    (∀ (q : Job) (v : State), s.job? b.job = some q → q.phase = .run →
      s.burstFound (some .double) b = s.jobFault q.id Code.ringUncorrectable { Loc.base 6 with link := 6, part := q.lead.val } ∧
      (v = (if err = some .single then
          (s.modInfield (fun i => { i with corrected := satInc i.corrected })).logs Code.ringCorrected q.fn.val
            ((q.burstDie b).val * 8) else s) →
        err ≠ some .double →
        (b.feed = true → b.void = false → s.burstFound err b =
          v.modLink (finOf 6 b.station.val) (fun k => { k with feed := k.feed ++ [b.frame] })) ∧
        (b.feed = false → b.station.val < 6 → s.burstFound err b = v.landFrame q b.station b.frame) ∧
        (b.feed = false → b.station = 6 → b.void = false → b.frame.index ≠ 0 → s.burstFound err b = v.landFrame q 6 b.frame) ∧
        (b.feed = false → b.station = 6 → b.void = false → b.frame.index = 0 →
          (∀ z : State, v.beginLanding q 6 b.frame.transfer b.frame.occ b.carried = some z → s.burstFound err b = z.landFrame q 6 b.frame) ∧
          (v.beginLanding q 6 b.frame.transfer b.frame.occ b.carried = none → s.burstFound err b =
            v.jobFault q.id Code.landingUnarmed (slotLoc 6 q.lead b.frame.occ.span b.frame.occ.slot)))))) ∧
  (∀ (s : State) (u : RingUnit) (g : RingLeg) (rest : List RingLeg), s.pending = [] → s.power.mainPg = true → s.pace.refsLost = false →
    s.infield.transit = [u] → u.cell?.isSome = true → u.legs = g :: rest → u.on g = true → g.next ≠ g.pos →
    (∀ j ∈ s.jobs, j.phase ≠ .run) → s.pace.holds = [] → s.infield.flights = [] →
    (∀ l : LinkId, (s.link l).elastic = [] ∧ (s.link l).sincePresented = none) →
    ∃ t, step s = .next t ∧ t.infield.transit = [u.hop g rest] ∧ t.pace.count = s.pace.count + 1 ∧ t.links = s.links ∧ t.log = s.log ∧
      t.jobs = s.jobs ∧ t.parts = s.parts ∧ t.sram = s.sram)

/-- An upset leaves its error in the word, but a word with a double-bit error keeps that; it can strike a unit while that stands on a ring.
SCRUB_WORD with main power on, after the upsets: a good word changes nothing, but at the first word of a die's pass the words that were corrected
in the last pass may be logged again. A single-bit error is corrected and, the first time in a pass, logged; the third occasion of its row in 24
hours retires the row to a spare while one is left (that each corrected word is an occasion is the model's choice, log 127). A double-bit error
in a word that no live region of a job holds zeroes the word alone, logs UNCORRECTABLE_CLEARED and retires its row, unless it is on a spare
(log 155); no partition or job changes. In a live region it is SRAM_UNCORRECTABLE: the word is zeroed, it is logged, the partition's job faults, and the
partition is FAULTED and scrubbed before it is zeroed. A reserve word
without an error changes nothing; a double-bit error in its unused space is cleared and logged, and its row retired. That a pass over a die
begins with its first word is the model's choice (log 62). MAP_SCRUB of a partition whose checker copies and golden copy are equal, and whose
golden words hold no error, changes nothing. With no live field different and some other one, both copies become the golden copy and MAP_LATENT
is logged at the first entry that differs; a used entry with a live difference faults the job with MAP_DIVERGED at that region. A partition
without a map is left alone. PLAN_TABLE_SCRUB does the same with the two copies of a relay station against the owner's active plan: equal,
nothing; different only where no live field lies, rewritten; else the job's plan has diverged. -/
def Obligations.ScrubsMendWordsRowsAndCopies : Prop :=
  (∀ (s : State) (w : Fin (2 ^ 32)) (e : EccErr),
    (s.strike (.sram (.plot w), e)).eccAt w.val = some (if s.eccAt w.val = some .double then .double else e) ∧
    (∀ k : Nat, k ≠ w.val → (s.strike (.sram (.plot w), e)).eccAt k = s.eccAt k)) ∧
  (∀ (s : State) (n : Nat) (u : RingUnit) (e : EccErr), s.infield.transit[n]? = some u →
    (s.strike (.ring n, e)).infield.transit[n]? =
      some (if u.place = none then u else { u with err := some (if u.err = some .double then .double else e) }) ∧
    (∀ k : Nat, k ≠ n → (s.strike (.ring n, e)).infield.transit[k]? = s.infield.transit[k]?) ∧
    (s.strike (.ring n, e)).sram = s.sram ∧ (s.strike (.ring n, e)).jobs = s.jobs) ∧
  (∀ (s v : State) (w : Fin (2 ^ 32)) (strikes : List (UpsetPlace × EccErr)), s.power.mainPg = true → v = strikes.foldl State.strike s →
    (v.eccAt w.val = none →
      (w.val % 2 ^ 30 ≠ 0 → exec (.scrubWord (.plot w) strikes) s = .next v) ∧
      (w.val % 2 ^ 30 = 0 → exec (.scrubWord (.plot w) strikes) s = .next (v.modSram (fun m =>
        { m with corrected := m.corrected.filter (fun k =>
          !(if k < 2 ^ 32 then dieOfWord k == dieOfWord w.val else (k - 2 ^ 32) / 2 ^ 25 == (dieOfWord w.val).val)) })))) ∧
    (w.val % 2 ^ 30 ≠ 0 → v.eccAt w.val = some .single → v.sram.corrected.contains w.val = false →
      ∃ t, exec (.scrubWord (.plot w) strikes) s = .next t ∧ t.eccAt w.val = none ∧ t.sram.mem = v.sram.mem ∧
        t.sram.corrected = w.val :: v.sram.corrected ∧ t.parts = v.parts ∧ t.jobs = v.jobs ∧
        (v.rowOccasions (rowOfWord w.val) < 2 →
          t.log = (v.logAt Code.sramCorrected (v.vfOf (partOfWord w.val))
            { Loc.base 9 with tile := w.val / 2 ^ 24, part := (partOfWord w.val).val
                              address := some ((w.val * 16 : Nat) - (partBase (partOfWord w.val) : Nat) : Int) }).log ∧
          t.sram.spares = v.sram.spares ∧ t.sram.retired = v.sram.retired) ∧
        (2 ≤ v.rowOccasions (rowOfWord w.val) → v.sram.spares[dieOfWord w.val] ≠ 0 → v.sram.retired.contains (rowOfWord w.val) = false →
          t.sram.retired = rowOfWord w.val :: v.sram.retired ∧
          t.sram.spares[dieOfWord w.val] + 1 = v.sram.spares[dieOfWord w.val])) ∧
    (w.val % 2 ^ 30 ≠ 0 → v.eccAt w.val = some .double → v.wordLive w.val = false → Mem.wf v.sram.mem = true →
      ∃ t, exec (.scrubWord (.plot w) strikes) s = .next t ∧ t.eccAt w.val = none ∧ t.parts = v.parts ∧ t.jobs = v.jobs ∧
        (∀ a : Nat, Mem.get t.sram.mem a = if w.val * 16 ≤ a ∧ a < w.val * 16 + 16 then 0 else Mem.get v.sram.mem a) ∧
        (v.sram.spares[dieOfWord w.val] ≠ 0 → v.sram.retired.contains (rowOfWord w.val) = false →
          t.sram.retired = rowOfWord w.val :: v.sram.retired)) ∧
    (∀ (p : PartId) (r : Loc), w.val % 2 ^ 30 ≠ 0 → v.eccAt w.val = some .double → p = partOfWord w.val →
      r = { Loc.base 9 with
        tile := w.val / 2 ^ 24, part := p.val, address := some ((w.val * 16 : Nat) - (partBase p : Nat) : Int)
        region := ((v.part p).mapA.bind (fun m => regionOf m.used (w.val * 16 - partBase p) 16)).map (·.1) } →
      (v.wordLive w.val = false → exec (.scrubWord (.plot w) strikes) s = .next
        (((v.zeroRange (w.val * 16) (w.val * 16 + 16)).logAt Code.uncorrectableCleared (v.vfOf p) r).retireRow (dieOfWord w.val)
          (rowOfWord w.val) (v.vfOf p) r)) ∧
      (v.wordLive w.val = true → ∃ t u, exec (.scrubWord (.plot w) strikes) s = .next t ∧
        u = (match (v.part p).job with
          | some id => ((v.zeroRange (w.val * 16) (w.val * 16 + 16)).logAt Code.sramUncorrectable (v.vfOf p) r).jobFaultQuiet id
              Code.sramUncorrectable
          | none => (v.zeroRange (w.val * 16) (w.val * 16 + 16)).logAt Code.sramUncorrectable (v.vfOf p) r) ∧
        t = (u.modPart p (fun q => { q.toFaulted Code.sramUncorrectable with scrubFirst := true })).retireRow (dieOfWord w.val)
          (rowOfWord w.val) (v.vfOf p) r ∧
        (t.part p).st = .faulted ∧ (t.part p).scrubFirst = true)) ∧
    (∀ (d : DieId) (part : ReservePart) (p : Option PartId) (k : Fin (2 ^ 25)),
      ((∀ x ∈ v.sram.reserve, x.die = d → x.word ≠ k.val) → exec (.scrubWord (.reserve d part p k) strikes) s = .next v) ∧
      (∀ r : Loc, v.sram.reserve = [{ die := d, part := .unusedSpace, holder := p, word := k.val, err := .double }] →
        r = { Loc.base 9 with part := (p.getD 0).val } →
        exec (.scrubWord (.reserve d part p k) strikes) s =
          .next (((v.modSram (fun m => { m with reserve := [] })).logAt Code.uncorrectableCleared 0 r).retireRow d (reserveRow d k.val) 0 r)))) ∧
  ((∀ (s : State) (p : PartId), (∀ x ∈ s.sram.reserve, x.part = .mapGolden → x.holder ≠ some p) →
    ((s.part p).mapA = none → exec (.mapScrub p) s = .next s) ∧
    (∀ a b g : AllocMap, (s.part p).mapA = some a → (s.part p).mapB = some b → (s.part p).mapGold = some g →
      (a = g → b = g → exec (.mapScrub p) s = .next s) ∧
      ((a ≠ g ∨ b ≠ g) → (a.anyDiff b g).isSome = true) ∧
      (∀ i : Nat, a.liveDiff b g = none → a.anyDiff b g = some i →
        ∃ t, exec (.mapScrub p) s = .next t ∧ (t.part p).mapA = some g ∧ (t.part p).mapB = some g ∧ (t.part p).mapGold = some g ∧
          t.log = (s.logAt Code.mapLatent (s.vfOf p) { Loc.base 9 with part := p.val, region := some i }).log ∧ t.jobs = s.jobs ∧
          (∀ q : PartId, q ≠ p → t.part q = s.part q)) ∧
      (∀ i : Nat, a.liveDiff b g = some i →
        exec (.mapScrub p) s = .next (s.partJobFault p Code.mapDiverged { Loc.base 9 with part := p.val, region := some i })))) ∧
  (∀ (s : State) (l : LinkId) (a b g : PlanDef) (j : Job), (s.link l).tableA = some a → (s.link l).tableB = some b →
    (s.link l).owner = some j.id → s.job? j.id = some j → j.phase ≠ .faulted → j.activePlan.map (·.forLink l) = some g →
    (∀ x ∈ s.sram.reserve, x.part ≠ .planGolden) →
    (a = g → b = g → exec (.planTableScrub l) s = .next s) ∧
    (a.live = g.live → b.live = g.live → (a ≠ g ∨ b ≠ g) →
      exec (.planTableScrub l) s = .next ((s.modLink l (fun k => { k with tableA := some g, tableB := some g })).logAt Code.planLatent j.fn.val
        { Loc.base 6 with link := l.val, part := j.lead.val })) ∧
    ((a.live ≠ g.live ∨ b.live ≠ g.live) →
      exec (.planTableScrub l) s = .next (s.tableDiverged j { Loc.base 9 with
        link := l.val, part := j.lead.val, slot := (a.diffPlace g l).orElse (fun _ => b.diffPlace g l) }))))

/-- SEQUENCER_ISSUE takes the next stream in turn that can issue: its next command, with its index and iteration, goes to its engine, and the turn
moves past the stream; in HOLD, or with none that can, nothing happens. A stream of a running job that runs can issue while the queue its next
command goes to has room. PICKER_DISPATCH, with the window filled and its code fetched, passes over the instances of the window that are not ready
or that it cannot handle now (list order binds one, asked before its fate, log 153; its queue is full), and takes the first one after them: one that
runs goes from the window to its engine, one that is skipped consumes its waits and posts its voids at once, a SEND's void going to its station as
well (log 132); the window then fills again; a fetch that faults ends it. COMMAND_COMPLETE frees the engine, consumes the waited entries and pushes
the posts with the command's payload; an idle engine, or one whose tile is in HOLD, does nothing. BATON_TIMEOUT faults the job at the command that
waits when the image sets WAIT_LIMIT, and does nothing where nothing waits. As at every fault of a job, its partitions enter FAULTED with the code
of its first fault and no map, nothing of it runs on, its contents stay; its links are free, its requests dropped; job-abort cells leave on every UP
link of its active plan; the descriptors of its partitions end. A later fault of the job is only counted (R349 names those of class 2 and 3; the
clause is of any code), but for a contract violation that another tile or engine meets in the same beat, which is logged (log 157). After every
change of a queue of a partition in RUN, a command at the front of its unit whose queue's head holds another baton than it awaits faults the job
with BATON_MISMATCH (its record is the model's choice, log 130), and, where there is none, one that waits for a landing that can no longer come
faults it with BATON_ORPHAN (that order, and that every change is judged, log 109). -/
def Obligations.CommandsIssueDispatchAndComplete : Prop :=
  ((∀ (s : State) (d : DieId), (s.inHold (.sequencer d) = true ∨ (∀ n : Fin 8, s.canIssue (streamOf d n).1 (streamOf d n).2 = none)) →
      exec (.sequencerIssue d) s = .next s) ∧
   (∀ (s v : State) (d : DieId) (m : Nat) (n : Fin 8) (p : PartId) (k : StreamIx) (x : Stream) (c : Cmd) (j : Job),
    s.inHold (.sequencer d) = false → m < 8 → n = finOf 8 (s.seqTurn[d].val + m) →
    (∀ i : Nat, i < m → s.canIssue (streamOf d (finOf 8 (s.seqTurn[d].val + i))).1 (streamOf d (finOf 8 (s.seqTurn[d].val + i))).2 = none) →
    streamOf d n = (p, k) → s.canIssue p k = some (x, c) → s.jobOf p = some j →
    (∃ y ∈ j.image.streams.find? (fun y => y.jobPart == (s.part p).jobPart && y.index == x.index.val),
      { s with seqTurn := vset s.seqTurn d (finOf 8 (n.val + 1)) }.fetchCheck p y.region y.offset
        { cmd := c, index := x.pos, iter := x.iter, src := .stream x.index } 3 2 = (v, true)) →
    exec (.sequencerIssue d) s = .next (((v.modPart p (fun q => q.modStream x.index (fun x => { x with pos := x.pos + 1 }))).issueTo p j
      x.index { cmd := c, index := x.pos, iter := x.iter, src := .stream x.index }).settle p)) ∧
   (∀ (s : State) (p : PartId) (k : StreamIx) (x : Stream) (j : Job) (c : Cmd), s.jobOf p = some j → (s.part p).stream? k = some x →
    (s.part p).st = .run → j.phase = .run → x.code[x.pos]? = some c →
    (x.mode = .running → s.queueFull p j c = false → s.canIssue p k = some (x, c)) ∧
    (x.mode ≠ .running ∨ s.queueFull p j c = true → s.canIssue p k = none))) ∧
  (∀ (s v : State) (t : TileId) (p : PartId) (tt : Fin 32) (j : Job) (g0 : GraphList) (region offset ix : Nat),
    p = partOfTile t → tt = tileInPart t → (s.part p).st = .run → s.inHold (.tile t) = false → s.jobOf p = some j → j.phase = .run →
    (s.part p).list? tt = some g0 → g0.ended = false → g0.arrived = none →
    j.image.graphTargets.find? (fun d => d.1 == (s.part p).jobPart) = some ((s.part p).jobPart, region, offset, ix) →
    (s.fillWindow p tt j.circuits region offset 128 = (v, false) → exec (.pickerDispatch t) s = .next v) ∧
    (∀ (u y : State) (g : GraphList) (x : Nat × Nat) (before rest : List (Nat × Nat)) (c : Cmd) (i : Issued),
      s.fillWindow p tt j.circuits region offset 128 = (v, true) → (v.part p).list? tt = some g → g.window = before ++ x :: rest →
      (∀ (e e' : List (Nat × Nat)) (z : Nat × Nat) (d : Cmd), before = e ++ z :: e' → g.descs[z.2]? = some d → v.instReady p g e z d = true →
        v.pick p j g e z d = none) →
      g.descs[x.2]? = some c → v.instReady p g before x c = true → c.group ≠ 0 → c.group ≠ 7 → g.ordered before c = false →
      i = { cmd := c, index := x.2, iter := x.1, src := .graph } →
      (fate (v.part p).pred c (c.waits.filterMap (fun r => (v.part p).head? g.tile (refQueue r))) = none ∧ v.graphRoom p j c = true ∧
          u = (v.modPart p (fun q => q.modList g.tile (fun g => g.leave x true))).dispatchTo p j i) ∨
        (∃ (n : Nat) (w : State), fate (v.part p).pred c (c.waits.filterMap (fun r => (v.part p).head? g.tile (refQueue r))) = some n ∧
          w = (v.modPart p (fun q => q.modList g.tile (fun g => g.leave x true))).retire p i (fun id k => mkVoid n id k (i.src8 p)) 4 ∧
          u = (if c.group = 4 ∧ c.opcode = 1 then w.skipSend p j i n else w)) →
      (if (u.part p).st == .run then u.fillWindow p tt j.circuits region offset 128 else (u, true)) = (y, true) →
      exec (.pickerDispatch t) s = .next ((y.listEnd p tt).settle p)) ∧
    (∀ (g : GraphList) (x : Nat × Nat) (before : List (Nat × Nat)) (c : Cmd), c.group ≠ 7 → (g.ordered before c = true ∨ (c.group ≠ 0 ∧
        fate (v.part p).pred c (c.waits.filterMap (fun r => (v.part p).head? g.tile (refQueue r))) = none ∧ v.graphRoom p j c = false)) →
      v.pick p j g before x c = none)) ∧
  (∀ (s : State) (t : TileId) (e : EngineKind) (p : PartId) (g : Engine), p = partOfTile t → g = (s.part p).engine (tileInPart t) e →
    ((g.running = none ∨ (s.part p).st ≠ .run ∨ s.inHold (.tile t) = true) → exec (.commandComplete t e) s = .next s) ∧
    (∀ r : Running, g.running = some r → (s.part p).st = .run → s.inHold (.tile t) = false →
      exec (.commandComplete t e) s = .next (((s.modPart p (fun q => q.setEngine { g with running := none })).retire p r.cmd
        (fun id n => mkEntry r.payload id n (r.cmd.src8 p)) (engNo e)).settle p))) ∧
  (∀ (s : State) (place : WaitPlace),
    (s.waiting place = none → exec (.batonTimeout place) s = .next s) ∧
    (∀ (p : PartId) (i : Issued) (n : Nat) (j : Job), s.waiting place = some (p, i, n) → s.jobOf p = some j →
      (j.image.waitLimit = 0 → exec (.batonTimeout place) s = .next s) ∧
      (j.image.waitLimit ≠ 0 → (s.part p).st = .run →
        exec (.batonTimeout place) s = .next (s.partJobFault p Code.batonTimeout (i.loc p n))))) ∧
  (∀ (s : State) (place : WaitPlace) (p : PartId) (i : Issued) (n : Nat) (j : Job), s.waiting place = some (p, i, n) → s.jobOf p = some j →
    j.image.waitLimit ≠ 0 → (s.part p).st = .run → j.phase ≠ .faulted → (∀ u ∈ s.mgt.unloads, ∀ x, u.parked = some x → x.1 ≠ j.id) →
    ∃ t, exec (.batonTimeout place) s = .next t ∧ (t.job? j.id).map (fun j => (j.phase, j.firstFault)) = some (.faulted, Code.batonTimeout) ∧
      (∀ q : PartId, (t.part q) = (if (s.part q).job = some j.id then { s.part q with
        st := .faulted, fault := if (s.part q).st = .faulted then (s.part q).fault else Code.batonTimeout, zeroing := false, engines := []
        streams := [], lists := [], pointQ := [], mapA := none, mapB := none, mapGold := none } else s.part q)) ∧
      (∀ l : LinkId, t.link l = (if (s.link l).owner = some j.id then { s.link l with
        owner := none, deferred := [], sampled := [], landing := [], feed := [], hold := []
        spillLost := (s.link l).spillLost || (s.spillRegion j l).isSome } else s.link l)) ∧
      t.infield.requests = s.infield.requests.filter (fun r => !r.owner.ofLead j.lead) ∧ t.sram.mem = s.sram.mem ∧
      (∀ (b : PaceBlock) (l : LinkId), j.phase = .run → j.pace = some b → j.activeUses l = true → s.up l = true →
        ∃ u ∈ t.infield.transit, u.out = some l ∧
          u.cell? = some (abortCell s.chip (s.link l).peerChip s.mgt.epoch b Code.batonTimeout)) ∧
      (∀ d ∈ t.hiu.reQueue ++ t.hiu.mcQueue, d.of j.fn j.parts = false) ∧
      (∀ (o : WinOp) (q : PartId), s.hiu.winOps = [o] → o.cutShort = true → o.part = some q → q ∈ j.parts → t.hiu.winOps = [])) ∧
  (∀ (s : State) (j : Job) (code : W16) (r : Loc), s.job? j.id = some j → j.phase = .faulted →
    (∀ x : Stopping, j.stopping = some x → s.paceRuns = true → x.beat = s.pace.count → Code.violates code = true →
      (r.tile, r.engine) ∉ x.units → s.jobFault j.id code r = (s.modJob j.id (fun j => { j with
        stopping := some { x with units := (r.tile, r.engine) :: x.units } })).logAt code j.fn.val r) ∧
    ((∀ x : Stopping, j.stopping = some x → x.beat = s.pace.count → (r.tile, r.engine) ∈ x.units) ∨ s.paceRuns = false ∨
        Code.violates code = false →
      s.jobFault j.id code r = s.modLog (fun g => { g with suppressed := satInc g.suppressed }))) ∧
  (∀ (s : State) (p : PartId) (j : Job), s.jobOf p = some j → (s.part p).st = .run →
    (∀ (before after : List (Issued × Nat)) (i : Issued) (n : Nat) (r : BatonRef) (e : QEntry), s.fronts p = before ++ (i, n) :: after →
      (∀ x ∈ before, ∀ r e, s.waitsOf p x.1 ≠ .mismatch r e) → s.waitsOf p i = .mismatch r e →
      s.settle p = s.partJobFault p Code.batonMismatch ((i.loc p n).baton i.cmd.tile (refQueue r)
        (batonKey (refId r) (effGen i.cmd.relGen (refGen r) i.iter)) (batonKey (qId e) (qGen e)))) ∧
    (∀ (i : Issued) (r : BatonRef) (e : QEntry), s.waitsOf p i = .mismatch r e → r ∈ i.cmd.waits ∧
      (s.part p).head? i.cmd.tile (refQueue r) = some e ∧ s.held p i.cmd.tile (refQueue r) = false ∧
      (qId e ≠ refId r ∨ qGen e ≠ effGen i.cmd.relGen (refGen r) i.iter)) ∧
    (∀ (before after : List (Issued × Nat)) (i : Issued) (n : Nat), (∀ x ∈ s.fronts p, ∀ r e, s.waitsOf p x.1 ≠ .mismatch r e) →
      s.fronts p = before ++ (i, n) :: after → (∀ x ∈ before, s.orphaned p j x.1 = false) → s.orphaned p j i = true →
      s.settle p = s.partJobFault p Code.batonOrphan (i.loc p n)))

/-- A control command that is ready and runs consumes its waits, pushes its posts, and its stream goes on; one that is skipped posts voids. END
then closes the circuit body: the last circuit of a job with no hurdle ahead ends the stream, another begins at command 0 with the next
iteration. A FENCE or HURDLE waits while an earlier command of its stream is not complete. A HURDLE that no declaration names completes; the
declared one that is next stands at the hurdle; a skipped declared one, or one out of turn, faults the job with HURDLE_MISSED. That a skipped END
closes the circuit too is the model's choice (log 46). -/
def Obligations.ControlCommandsOfAStream : Prop :=
  ∀ (s : State) (p : PartId) (k : StreamIx) (i : Issued),
    (∀ c : Option Nat, s.controlReady p k 0 0 = some (i, c) →
      (∀ n, c = some n → exec (.nop p k) s = .next ((s.controlSkip p k i n).settle p)) ∧
      (c = none → exec (.nop p k) s = .next ((s.controlDone p k i).settle p))) ∧
    (∀ (t : State) (j : Job) (x : Stream), s.controlReady p k 0 1 = some (i, none) → t = s.controlDone p k i →
      t.jobOf p = some j → (t.part p).stream? k = some x → (t.part p).st = .run → j.hurdleAhead = false →
      (x.iter + 1 = j.circuits →
        exec (.endCircuit p k) s = .next (((t.modPart p (fun q => q.modStream k (fun x => { x with iter := x.iter + 1, mode := .ended }))).logs
          Code.streamEnd (t.vfOf p)).settle p)) ∧
      (x.iter + 1 ≠ j.circuits → j.endCount = none →
        exec (.endCircuit p k) s = .next ((t.modPart p (fun q => q.modStream k (fun x => { x with iter := x.iter + 1, pos := 0 }))).settle p))) ∧
    (∀ n : Nat, s.controlReady p k 0 1 = some (i, some n) →
      exec (.endCircuit p k) s = .next (((s.controlSkip p k i n).closeCircuit p k).settle p)) ∧
    (∀ u : State, u = s.modPart p (fun q => q.modStream k (fun x => { x with mode := .fence i })) → u.streamBusy p k = true →
      (s.controlReady p k 0 2 = some (i, none) → exec (.fence p k) s = .next u) ∧
      (s.controlReady p k 7 1 = some (i, none) → exec (.hurdle p k) s = .next u)) ∧
    (∀ (x : Stream) (j : Job), (s.part p).stream? k = some x → x.mode = .fence i → (s.part p).st = .run →
      s.inHold (.sequencer (dieOfPart p)) = false → s.streamBusy p k = false → s.jobOf p = some j →
      (i.cmd.group = 0 → exec (.fence p k) s = .next ((s.controlDone p k i).settle p)) ∧
      (i.cmd.group = 7 → j.declared (hurdleId i.cmd) i.iter = none →
        exec (.hurdle p k) s = .next ((s.controlDone p k i).settle p)) ∧
      (∀ (n : Nat) (d : HurdleDecl), i.cmd.group = 7 → j.declared (hurdleId i.cmd) i.iter = some (n, d) →
        (n = j.nextHurdle → exec (.hurdle p k) s = .next (s.modPart p (fun q => q.modStream k (fun x => { x with mode := .arrived i d })))) ∧
        (n ≠ j.nextHurdle → exec (.hurdle p k) s = .next (s.partJobFault p Code.hurdleMissed (i.loc p 3))))) ∧
    (∀ (n : Nat) (j : Job), s.controlReady p k 7 1 = some (i, some n) → s.jobOf p = some j →
      (j.declared (hurdleId i.cmd) i.iter).isSome = true → exec (.hurdle p k) s = .next (s.partJobFault p Code.hurdleMissed (i.loc p 3)))

/-- When a vector engine starts a command of group 2 that runs, its plots hold no error and its operands lie in regions that grant the access,
the row of its opcode runs it: every element of Z becomes f of the elements of X, Y (or IMM) and Z at its place, converted by vecOut under ROUND
and SAT into Z's format, with f the exact sum for ADD, the difference for SUB, and so on down Table 05-8; the payload counts its exceptions. The
command is taken from its queue and runs; nothing else of the state changes but the plot traffic noted (R250). An FMA whose Z is of the other kind
(log 135), the one saturation of an integer FMA (log 111) and the FP32 step on the way to Z (log 42) are the model's readings. Where a region of an
operand does not grant the access, or an element leaves it, the work ends at the first such element, the ones before it stored: the job faults with
REGION_KIND or REGION_BOUNDS, located. A skipped command consumes its waits and posts voids. -/
def Obligations.ElementwiseCommandsComputeEveryElement : Prop :=
  ∀ (s : State) (t : TileId) (u : Turn) (i : Issued) (es : List QEntry) (v : VecOps) (x y z : Ref) (bx bY bz : Nat)
      (row : Instr) (op : Nat) (f : Val → Val → Val → Val → Val → Val),
    (row, op, f) ∈ ([(.add t, 0x01, fun x y _ _ _ => x.add y), (.sub t, 0x02, fun x y _ _ _ => x.add y.neg),
      (.mul t, 0x03, fun x y _ _ _ => x.mul y), (.fma t, 0x04, fun x y z _ _ => (x.mul y).add z), (.max t, 0x05, fun x y _ _ _ => x.max y),
      (.min t, 0x06, fun x y _ _ _ => x.min y), (.abs t, 0x07, fun x _ _ _ _ => x.abs), (.neg t, 0x08, fun x _ _ _ _ => x.neg),
      (.relu t, 0x09, fun x _ _ _ _ => x.max Val.zero), (.clamp t, 0x0A, fun x _ _ lo hi => (x.max lo).min hi),
      (.recip t, 0x0B, fun x _ _ _ _ => via32 recip32 x), (.rsqrt t, 0x0C, fun x _ _ _ _ => via32 rsqrt32 x),
      (.exp t, 0x0D, fun x _ _ _ _ => via32 exp32 x), (.log t, 0x0E, fun x _ _ _ _ => via32 log32 x),
      (.tanh t, 0x0F, fun x _ _ _ _ => via32 tanh32 x), (.sigmoid t, 0x10, fun x _ _ _ _ => via32 sigmoid32 x),
      (.convert t, 0x11, fun x _ _ _ _ => x)] : List (Instr × Nat × (Val → Val → Val → Val → Val → Val))) →
    s.Starts t .vector u i es → i.cmd.group = 2 → i.cmd.opcode = op →
    (∀ n : Nat, s.skipCause (partOfTile t) i es = some n →
      exec row s = .next (((s.taken t .vector u).retire (partOfTile t) i (fun id g => mkVoid n id g (i.src8 (partOfTile t))) 1).settle
        (partOfTile t))) ∧
    (∀ (b : State) (a : Acc), b = s.taken t .vector u → a = accOf t .vector i → s.skipCause (partOfTile t) i es = none →
      v = VecOps.ofCmd i.cmd → x = Ref.ofWord (i.cmd.word 3) → y = Ref.ofWord (i.cmd.word 4) → z = Ref.ofWord (i.cmd.word 5) →
      s.sram.ecc = [] →
      (∀ (r k : Nat) (code : W16) (w : Loc), b.TensorDenied a Kind.tileRead x v.rows v.cols r k code w →
        ∃ l, exec row s = .next (s.cutBy t .vector u s.sram.mem l code w)) ∧
      (b.TensorAt t Kind.tileRead x v.rows v.cols bx →
        (∀ (r k : Nat) (code : W16) (w : Loc), op ≤ 0x06 → v.yImm = false → b.TensorDenied a Kind.tileRead y v.rows v.cols r k code w →
          ∃ l, exec row s = .next (s.cutBy t .vector u s.sram.mem l code w)) ∧
        ((op ≤ 0x06 → v.yImm = false → b.TensorAt t Kind.tileRead y v.rows v.cols bY) →
          (∀ (r k : Nat) (code : W16) (w : Loc), op = 0x04 → b.TensorDenied a Kind.tileRead z v.rows v.cols r k code w →
            ∃ l, exec row s = .next (s.cutBy t .vector u s.sram.mem l code w)) ∧
          ((op = 0x04 → b.TensorAt t Kind.tileRead z v.rows v.cols bz) → ∀ out : List (List Nat) × Exc,
            out = collect ((List.range v.rows).map (fun r => collect ((List.range v.cols).map (fun k =>
              vecOut z.fmt x.fmt.isInt op (rndOf v.round a (r * v.cols + k)) v.sat
                (f (x.fmt.decode (Mem.nat s.sram.mem (bx + x.at r k) x.fmt.size))
                  (if v.yImm then (if x.fmt.isInt then Fmt.int32.decode v.imm.toNat else f32 v.imm)
                   else y.fmt.decode (Mem.nat s.sram.mem (bY + y.at r k) y.fmt.size))
                  (z.fmt.decode (Mem.nat s.sram.mem (bz + z.at r k) z.fmt.size))
                  (if x.fmt.isInt then Fmt.int32.decode v.imm.toNat else f32 v.imm)
                  (if x.fmt.isInt then Fmt.int32.decode v.imm2.toNat else f32 v.imm2)))))) →
            (∀ (r k : Nat) (code : W16) (w : Loc), b.TensorDenied a Kind.tileWrite z v.rows v.cols r k code w →
              ∃ l, exec row s = .next (s.cutBy t .vector u (z.storeIn s.sram.mem (b.placeOf a z.region 0) (before out.1 r k)) l code w)) ∧
            (b.TensorAt t Kind.tileWrite z v.rows v.cols bz →
              ∃ l, exec row s = .next (((b.withMem (z.storeIn s.sram.mem bz out.1)).nowRuns t .vector i (payload 0 out.2)).withTraffic l))))))

/-- When a vector engine starts RSUM, RMAX, RMIN or RSUMSQ that runs, with its operands granted and no error in the plots, the elements along
AXIS (each row, each column, or the whole tensor) are reduced lane by lane and pairwise as R111 orders, rounded into Z's format, and stored; a
reduction of the whole tensor also gives RESULT. Nothing else of the state changes but the engine's queue, what it runs and the plot traffic
noted. That squares of RSUMSQ round as their lane does is the model's choice (log 43). An access that its region refuses ends the work
with REGION_KIND or REGION_BOUNDS, the elements before it stored. -/
def Obligations.ReductionsFoldAlongTheirAxis : Prop :=
  ∀ (s : State) (t : TileId) (u : Turn) (i : Issued) (es : List QEntry) (v : VecOps) (x z : Ref) (bx bz nr nc : Nat)
      (row : Instr) (op : Nat) (sets : List (List (List Val))) (red : List (List (Val × Exc))) (out : List (List Nat) × Exc),
    (row, op) ∈ ([(.rsum t, 0x20), (.rmax t, 0x21), (.rmin t, 0x22), (.rsumsq t, 0x23)] : List (Instr × Nat)) →
    s.Starts t .vector u i es → i.cmd.group = 2 → i.cmd.opcode = op → s.skipCause (partOfTile t) i es = none → v = VecOps.ofCmd i.cmd →
    x = Ref.ofWord (i.cmd.word 3) → z = Ref.ofWord (i.cmd.word 5) → s.sram.ecc = [] →
    nr = (if v.axis = 0 then v.rows else 1) → nc = (if v.axis = 1 then v.cols else 1) →
    ∀ (b : State) (a : Acc), b = s.taken t .vector u → a = accOf t .vector i →
    (∀ (r k : Nat) (code : W16) (w : Loc), b.TensorDenied a Kind.tileRead x v.rows v.cols r k code w →
      ∃ l, exec row s = .next (s.cutBy t .vector u s.sram.mem l code w)) ∧
    (b.TensorAt t Kind.tileRead x v.rows v.cols bx →
      sets = (if v.axis = 0 then (x.valuesIn s.sram.mem bx v.rows v.cols).map (fun r => [r])
        else if v.axis = 1 then [(List.range v.cols).map (fun k => (x.valuesIn s.sram.mem bx v.rows v.cols).map (fun r => r.getD k Val.zero))]
        else [[(x.valuesIn s.sram.mem bx v.rows v.cols).flatten]]) →
      red = sets.map (fun r => r.map (reduce x.fmt.isInt op)) →
      out = collect (((List.range nr).zip red).map (fun r => collect (((List.range nc).zip r.2).map (fun k =>
        ((z.fmt.convert (rndOf v.round a (r.1 * nc + k.1)) v.sat k.2.1).bits,
         k.2.2.add (z.fmt.convert (rndOf v.round a (r.1 * nc + k.1)) v.sat k.2.1).exc))))) →
      (∀ (r k : Nat) (code : W16) (w : Loc), b.TensorDenied a Kind.tileWrite z nr nc r k code w →
        ∃ l, exec row s = .next (s.cutBy t .vector u (z.storeIn s.sram.mem (b.placeOf a z.region 0) (before out.1 r k)) l code w)) ∧
      (b.TensorAt t Kind.tileWrite z nr nc bz →
        ∃ l, exec row s = .next (((b.withMem (z.storeIn s.sram.mem bz out.1)).nowRuns t .vector i
          (payload (if v.axis = 2 then reduceResult x.fmt.isInt (((red.headD []).headD (Val.zero, Exc.zero)).1) else 0) out.2)).withTraffic l)))

/-- When a matrix engine starts a MATMUL that runs, with its operands granted and no error in the plots, C becomes the product of A and B (either
read transposed as its flag says): chunks summed exactly and added in order, scaled by SCALE, added to the old C with ACC, then RELU and one
rounding into C's format. CONV2D does the same with the row of padded, dilated X elements of every output position as A and the filter rows as B.
The payload counts the exceptions; nothing else changes but the engine's queue, what it runs and the plot traffic noted. An access that its region
refuses ends the work with REGION_KIND or REGION_BOUNDS, the elements before it stored. -/
def Obligations.MatrixCommandsStoreTheProduct : Prop :=
  (∀ (s : State) (t : TileId) (u : Turn) (i : Issued) (es : List QEntry) (a b c : Ref) (ba bb bc m n k : Nat) (rows cols : List (List Val))
      (r : List (List Nat) × Exc) (v : State) (q : Acc), s.Starts t .matrix u i es → i.cmd.group = 1 → i.cmd.opcode = 1 →
    s.skipCause (partOfTile t) i es = none → v = s.taken t .matrix u → q = accOf t .matrix i →
    a = Ref.ofWord (i.cmd.word 3) → b = Ref.ofWord (i.cmd.word 4) → c = Ref.ofWord (i.cmd.word 5) →
    m = matmulM i.cmd → n = matmulN i.cmd → k = matmulK i.cmd → s.sram.ecc = [] →
    (∀ (y x : Nat) (code : W16) (w : Loc),
      v.TensorDenied q Kind.tileRead a (if matmulTransA i.cmd then k else m) (if matmulTransA i.cmd then m else k) y x code w →
      ∃ l, exec (.matmul t) s = .next (s.cutBy t .matrix u s.sram.mem l code w)) ∧
    (v.TensorAt t Kind.tileRead a (if matmulTransA i.cmd then k else m) (if matmulTransA i.cmd then m else k) ba →
      (∀ (y x : Nat) (code : W16) (w : Loc),
        v.TensorDenied q Kind.tileRead b (if matmulTransB i.cmd then n else k) (if matmulTransB i.cmd then k else n) y x code w →
        ∃ l, exec (.matmul t) s = .next (s.cutBy t .matrix u s.sram.mem l code w)) ∧
      (v.TensorAt t Kind.tileRead b (if matmulTransB i.cmd then n else k) (if matmulTransB i.cmd then k else n) bb →
        (∀ (y x : Nat) (code : W16) (w : Loc), (matmulOut i.cmd).acc = true → v.TensorDenied q Kind.tileRead c m n y x code w →
          ∃ l, exec (.matmul t) s = .next (s.cutBy t .matrix u s.sram.mem l code w)) ∧
        (((matmulOut i.cmd).acc = true → v.TensorAt t Kind.tileRead c m n bc) →
          rows = (if matmulTransA i.cmd then columns m (a.valuesIn s.sram.mem ba k m) else a.valuesIn s.sram.mem ba m k) →
          cols = (if matmulTransB i.cmd then b.valuesIn s.sram.mem bb n k else columns n (b.valuesIn s.sram.mem bb k n)) →
          r = product q (matmulOut i.cmd) a.fmt c.fmt rows cols (c.valuesIn s.sram.mem bc m n) →
          (∀ (y x : Nat) (code : W16) (w : Loc), v.TensorDenied q Kind.tileWrite c m n y x code w →
            ∃ l, exec (.matmul t) s = .next
              (s.cutBy t .matrix u (c.storeIn s.sram.mem (v.placeOf q c.region 0) (before r.1 y x)) l code w)) ∧
          (v.TensorAt t Kind.tileWrite c m n bc →
            ∃ l, exec (.matmul t) s = .next (((v.withMem (c.storeIn s.sram.mem bc r.1)).nowRuns t .matrix i (payload 0 r.2)).withTraffic l)))))) ∧
  (∀ (s : State) (t : TileId) (u : Turn) (i : Issued) (es : List QEntry) (d : Conv2d) (x w c : Ref) (bx bw bc ho wo : Nat)
      (r : List (List Nat) × Exc) (v : State) (q : Acc), s.Starts t .matrix u i es → i.cmd.group = 1 → i.cmd.opcode = 2 →
    s.skipCause (partOfTile t) i es = none → v = s.taken t .matrix u → q = accOf t .matrix i →
    x = Ref.ofWord (i.cmd.word 3) → w = Ref.ofWord (i.cmd.word 4) → c = Ref.ofWord (i.cmd.word 5) → d = Conv2d.ofCmd i.cmd →
    ho = d.ho.toNat → wo = d.wo.toNat → s.sram.ecc = [] →
    (∀ (y k : Nat) (code : W16) (at_ : Loc), v.TensorDenied q Kind.tileRead x (d.h * d.w) d.c y k code at_ →
      ∃ l, exec (.conv2d t) s = .next (s.cutBy t .matrix u s.sram.mem l code at_)) ∧
    (v.TensorAt t Kind.tileRead x (d.h * d.w) d.c bx →
      (∀ (y k : Nat) (code : W16) (at_ : Loc), v.TensorDenied q Kind.tileRead w d.k d.f y k code at_ →
        ∃ l, exec (.conv2d t) s = .next (s.cutBy t .matrix u s.sram.mem l code at_)) ∧
      (v.TensorAt t Kind.tileRead w d.k d.f bw →
        (∀ (y k : Nat) (code : W16) (at_ : Loc), (conv2dOut i.cmd).acc = true → v.TensorDenied q Kind.tileRead c (ho * wo) d.f y k code at_ →
          ∃ l, exec (.conv2d t) s = .next (s.cutBy t .matrix u s.sram.mem l code at_)) ∧
        (((conv2dOut i.cmd).acc = true → v.TensorAt t Kind.tileRead c (ho * wo) d.f bc) →
          r = product q (conv2dOut i.cmd) x.fmt c.fmt
            ((List.range ho).flatMap (fun oh => (List.range wo).map (fun ow => convRow d (x.valuesIn s.sram.mem bx (d.h * d.w) d.c) oh ow)))
            (columns d.f (w.valuesIn s.sram.mem bw d.k d.f)) (c.valuesIn s.sram.mem bc (ho * wo) d.f) →
          (∀ (y k : Nat) (code : W16) (at_ : Loc), v.TensorDenied q Kind.tileWrite c (ho * wo) d.f y k code at_ →
            ∃ l, exec (.conv2d t) s = .next
              (s.cutBy t .matrix u (c.storeIn s.sram.mem (v.placeOf q c.region 0) (before r.1 y k)) l code at_)) ∧
          (v.TensorAt t Kind.tileWrite c (ho * wo) d.f bc →
            ∃ l, exec (.conv2d t) s = .next (((v.withMem (c.storeIn s.sram.mem bc r.1)).nowRuns t .matrix i (payload 0 r.2)).withTraffic l))))))

/-- When a mover starts a command that runs, with loop descriptors, list and operands granted and no error in the plots, COPY without TRANSPOSE
writes at visit n of the destination walk the element read at visit n of the source walk, one visit after another; with TRANSPOSE, which the
image requires by feature bit 13, it reads a block of COUNT0 x COUNT1 elements, of at most 64 KiB, and writes it with L0 and L1 exchanged, one
block after another; FILL writes the value of word 7 at every visit; GATHER moves, for each position of the list, the table row that its signed
index names to that position's row, SCATTER the other way. The payload is 0; nothing else changes but the engine's queue, what it runs and the
plot traffic noted. A loop descriptor that fails R113 or R115 moves nothing and faults the job with LOOP_MALFORMED at its region; a descriptor, list
entry or element that its region refuses ends the work with REGION_KIND or REGION_BOUNDS at its loop indices, what came before it moved (in a block of
a transposed COPY, which is read whole before it is written, log 177). -/
def Obligations.MoverCommandsMoveElementByElement : Prop :=
  ∀ (s : State) (t : TileId) (u : Turn) (i : Issued) (es : List QEntry), s.Starts t .mover u i es → i.cmd.group = 3 →
    s.skipCause (partOfTile t) i es = none → s.sram.ecc = [] →
    (∀ (src dst : Ref) (ls ld : Loops) (es' ed el el' : BitVec 128) (bs bd sz : Nat), i.cmd.opcode = 1 → src = Ref.ofWord (i.cmd.word 3) →
      dst = Ref.ofWord (i.cmd.word 4) → sz = src.fmt.size →
      (s.taken t .mover u).Grants (partOfTile t) (tileInPart t) Kind.mover (LoopRef.ofWord (i.cmd.word 5)).region el →
      (s.taken t .mover u).Grants (partOfTile t) (tileInPart t) Kind.mover (LoopRef.ofWord (i.cmd.word 6)).region el' →
      (s.taken t .mover u).Grants (partOfTile t) (tileInPart t) Kind.mover src.region es' →
      (s.taken t .mover u).Grants (partOfTile t) (tileInPart t) Kind.mover dst.region ed →
      (LoopRef.ofWord (i.cmd.word 5)).offset + 64 ≤ meLen el → (LoopRef.ofWord (i.cmd.word 6)).offset + 64 ≤ meLen el' →
      bs = partBase (partOfTile t) + meStart es' → bd = partBase (partOfTile t) + meStart ed →
      ls = Loops.ofBytes (Mem.read s.sram.mem (partBase (partOfTile t) + meStart el + (LoopRef.ofWord (i.cmd.word 5)).offset) 64) →
      ld = Loops.ofBytes (Mem.read s.sram.mem (partBase (partOfTile t) + meStart el' + (LoopRef.ofWord (i.cmd.word 6)).offset) 64) →
      ls.ok = true → ld.ok = true → ld.transpose = false → ls.total = ld.total →
      (∀ n < ls.total, 0 ≤ (src.offset : Int) + sz * ls.offset (loopIndex ls.counts n) ∧
        (src.offset : Int) + sz * ls.offset (loopIndex ls.counts n) + sz ≤ meLen es' ∧
        0 ≤ (dst.offset : Int) + sz * ld.offset (loopIndex ld.counts n) ∧
        (dst.offset : Int) + sz * ld.offset (loopIndex ld.counts n) + sz ≤ meLen ed) →
      (ls.transpose = false → ∃ l, exec (.copy t) s = .next ((((s.taken t .mover u).withMem ((List.range ls.total).foldl (fun m n =>
        Mem.write m (bd + ((dst.offset : Int) + sz * ld.offset (loopIndex ld.counts n)).toNat)
          (Mem.read m (bs + ((src.offset : Int) + sz * ls.offset (loopIndex ls.counts n)).toNat) sz)) s.sram.mem)).nowRuns t .mover i
          0).withTraffic l)) ∧
      (∀ (j : Job) (c0 c1 : Nat), ls.transpose = true → s.jobOf (partOfTile t) = some j → bit j.image.featureReq 13 = true →
        c0 = ls.counts.headD 1 → c1 = ls.counts.getD 1 1 → c0 * c1 * sz ≤ 65536 →
        ∃ l, exec (.copy t) s = .next ((((s.taken t .mover u).withMem ((List.range (ls.total / (c0 * c1))).foldl (fun m b =>
          (List.range (c0 * c1)).foldl (fun w n => Mem.write w (bd + ((dst.offset : Int) + sz * ld.offset (loopIndex ld.counts
              (b * (c0 * c1) + n))).toNat)
            (Mem.read m (bs + ((src.offset : Int) + sz * ls.offset (loopIndex ls.counts (b * (c0 * c1) + (n % c1 * c0 + n / c1)))).toNat) sz)) m)
          s.sram.mem)).nowRuns t .mover i 0).withTraffic l))) ∧
    (∀ (dst : Ref) (ld : Loops) (ed el : BitVec 128) (bd : Nat), i.cmd.opcode = 2 → dst = Ref.ofWord (i.cmd.word 4) →
      (s.taken t .mover u).Grants (partOfTile t) (tileInPart t) Kind.mover (LoopRef.ofWord (i.cmd.word 6)).region el →
      (s.taken t .mover u).Grants (partOfTile t) (tileInPart t) Kind.mover dst.region ed →
      (LoopRef.ofWord (i.cmd.word 6)).offset + 64 ≤ meLen el → bd = partBase (partOfTile t) + meStart ed →
      ld = Loops.ofBytes (Mem.read s.sram.mem (partBase (partOfTile t) + meStart el + (LoopRef.ofWord (i.cmd.word 6)).offset) 64) →
      ld.ok = true → ld.transpose = false →
      (∀ n < ld.total, 0 ≤ (dst.offset : Int) + dst.fmt.size * ld.offset (loopIndex ld.counts n) ∧
        (dst.offset : Int) + dst.fmt.size * ld.offset (loopIndex ld.counts n) + dst.fmt.size ≤ meLen ed) →
      ∃ l, exec (.fill t) s = .next ((((s.taken t .mover u).withMem ((List.range ld.total).foldl (fun m n =>
        Mem.write m (bd + ((dst.offset : Int) + dst.fmt.size * ld.offset (loopIndex ld.counts n)).toNat)
          (natLE dst.fmt.size (i.cmd.word 7).toNat)) s.sram.mem)).nowRuns t .mover i 0).withTraffic l)) ∧
    (∀ (gather : Bool) (table rows list : Ref) (et er el : BitVec 128) (bt br bl sz : Nat) (ix : Nat → Int), i.cmd.opcode = (if gather then 3 else 4) →
      table = Ref.ofWord (i.cmd.word (if gather then 3 else 4)) → rows = Ref.ofWord (i.cmd.word (if gather then 4 else 3)) →
      list = Ref.ofWord (i.cmd.word 5) → sz = table.fmt.size → Mem.wf s.sram.mem = true →
      (s.taken t .mover u).Grants (partOfTile t) (tileInPart t) Kind.mover table.region et →
      (s.taken t .mover u).Grants (partOfTile t) (tileInPart t) Kind.mover rows.region er →
      (s.taken t .mover u).Grants (partOfTile t) (tileInPart t) Kind.mover list.region el →
      bt = partBase (partOfTile t) + meStart et → br = partBase (partOfTile t) + meStart er → bl = partBase (partOfTile t) + meStart el →
      ix = (fun n => signed 32 (Mem.nat s.sram.mem (bl + list.offset + 4 * n) 4)) → list.offset + 4 * rowCount i.cmd ≤ meLen el →
      (∀ n < rowCount i.cmd, ∀ e < rowElems i.cmd, 0 ≤ (table.offset : Int) + ix n * (table.pitch * sz : Nat) + (e * sz : Nat) ∧
        (table.offset : Int) + ix n * (table.pitch * sz : Nat) + (e * sz : Nat) + sz ≤ meLen et ∧ rows.at n e + sz ≤ meLen er) →
      (if gather then meStart el + meLen el ≤ meStart er ∨ meStart er + meLen er ≤ meStart el
       else meStart el + meLen el ≤ meStart et ∨ meStart et + meLen et ≤ meStart el) →
      ∃ l, exec (if gather then .gather t else .scatter t) s = .next ((((s.taken t .mover u).withMem ((List.range (rowCount i.cmd)).foldl (fun m n =>
        (List.range (rowElems i.cmd)).foldl (fun m e =>
          if gather then Mem.write m (br + rows.at n e)
            (Mem.read m (bt + ((table.offset : Int) + ix n * (table.pitch * sz : Nat) + (e * sz : Nat)).toNat) sz)
          else Mem.write m (bt + ((table.offset : Int) + ix n * (table.pitch * sz : Nat) + (e * sz : Nat)).toNat)
            (Mem.read m (br + rows.at n e) sz)) m) s.sram.mem)).nowRuns t .mover i 0).withTraffic l)) ∧
    (∀ (b : State) (a : Acc) (src dst : Ref) (f g : LoopRef) (sz : Nat) (code : W16) (w : Loc), b = s.taken t .mover u → a = accOf t .mover i →
      src = Ref.ofWord (i.cmd.word 3) → dst = Ref.ofWord (i.cmd.word 4) → f = LoopRef.ofWord (i.cmd.word 5) → g = LoopRef.ofWord (i.cmd.word 6) →
      (i.cmd.opcode = 1 → sz = src.fmt.size →
        (b.Denied a Kind.mover f.region (f.offset : Nat) 64 code w → ∃ l, exec (.copy t) s = .next (s.cutBy t .mover u s.sram.mem l code w)) ∧
        (∀ ls : Loops, b.LoopsAt a f ls →
          (b.Denied a Kind.mover g.region (g.offset : Nat) 64 code w → ∃ l, exec (.copy t) s = .next (s.cutBy t .mover u s.sram.mem l code w)) ∧
          (∀ ld : Loops, b.LoopsAt a g ld →
            (ls.ok = false ∨ (ld.ok = true ∧ ld.transpose = false ∧ ls.total ≠ ld.total) ∨
                (ld.ok = true ∧ ld.transpose = false ∧ ls.transpose = true ∧ ((∀ j : Job, s.jobOf (partOfTile t) = some j →
                  bit j.image.featureReq 13 = false) ∨ 65536 < ls.counts.headD 1 * ls.counts.getD 1 1 * sz)) →
              ∃ l, exec (.copy t) s = .next (s.cutBy t .mover u s.sram.mem l Code.loopMalformed
                { a.loc with region := some f.region, access := Kind.mover })) ∧
            (ls.ok = true → ld.ok = false ∨ ld.transpose = true →
              ∃ l, exec (.copy t) s = .next (s.cutBy t .mover u s.sram.mem l Code.loopMalformed
                { a.loc with region := some g.region, access := Kind.mover })) ∧
            (ls.ok = true → ld.ok = true → ld.transpose = false → ls.total = ld.total →
              (∀ n < ls.total, ls.transpose = false → (∀ k < n, b.WalkAllows a src ls sz k ∧ b.WalkAllows a dst ld sz k) →
                b.WalkDenied a src ls sz n code w ∨ (b.WalkAllows a src ls sz n ∧ b.WalkDenied a dst ld sz n code w) →
                ∃ l, exec (.copy t) s = .next (s.cutBy t .mover u
                  ((List.range n).foldl (fun m k => b.copied a src dst ls ld sz m m k k) s.sram.mem) l code w)) ∧
              (∀ (j : Job) (c0 c1 h n : Nat) (from_ : Bytes), ls.transpose = true → s.jobOf (partOfTile t) = some j →
                bit j.image.featureReq 13 = true → c0 = ls.counts.headD 1 → c1 = ls.counts.getD 1 1 → c0 * c1 * sz ≤ 65536 →
                h < ls.total / (c0 * c1) → n < c0 * c1 → (∀ k < h * (c0 * c1), b.WalkAllows a src ls sz k ∧ b.WalkAllows a dst ld sz k) →
                from_ = (List.range h).foldl (fun m y => (List.range (c0 * c1)).foldl (fun v k =>
                  b.copied a src dst ls ld sz m v (y * (c0 * c1) + (k % c1 * c0 + k / c1)) (y * (c0 * c1) + k)) m) s.sram.mem →
                ((∀ k < n, b.WalkAllows a src ls sz (h * (c0 * c1) + k)) → b.WalkDenied a src ls sz (h * (c0 * c1) + n) code w →
                  ∃ l, exec (.copy t) s = .next (s.cutBy t .mover u from_ l code w)) ∧
                ((∀ k < c0 * c1, b.WalkAllows a src ls sz (h * (c0 * c1) + k)) → (∀ k < n, b.WalkAllows a dst ld sz (h * (c0 * c1) + k)) →
                  b.WalkDenied a dst ld sz (h * (c0 * c1) + n) code w →
                  ∃ l, exec (.copy t) s = .next (s.cutBy t .mover u ((List.range n).foldl (fun v k =>
                    b.copied a src dst ls ld sz from_ v (h * (c0 * c1) + (k % c1 * c0 + k / c1)) (h * (c0 * c1) + k)) from_) l code w))))))) ∧
      (i.cmd.opcode = 2 → sz = dst.fmt.size →
        (b.Denied a Kind.mover g.region (g.offset : Nat) 64 code w → ∃ l, exec (.fill t) s = .next (s.cutBy t .mover u s.sram.mem l code w)) ∧
        (∀ ld : Loops, b.LoopsAt a g ld →
          (ld.ok = false ∨ ld.transpose = true → ∃ l, exec (.fill t) s = .next (s.cutBy t .mover u s.sram.mem l Code.loopMalformed
            { a.loc with region := some g.region, access := Kind.mover })) ∧
          (∀ n < ld.total, ld.ok = true → ld.transpose = false → (∀ k < n, b.WalkAllows a dst ld sz k) → b.WalkDenied a dst ld sz n code w →
            ∃ l, exec (.fill t) s = .next (s.cutBy t .mover u ((List.range n).foldl (fun m k =>
              Mem.write m (b.placeOf a dst.region (walkAt dst ld sz k)) (natLE sz (i.cmd.word 7).toNat)) s.sram.mem) l code w)))) ∧
      (∀ (gather : Bool) (table rows list rd wr : Ref) (ix : Nat → Int) (ta ra ro wo : Nat → Nat → Int) (move : Nat → Bytes → Nat → Bytes)
          (n e : Nat), i.cmd.opcode = (if gather then 3 else 4) → Mem.wf s.sram.mem = true → n < rowCount i.cmd →
        table = Ref.ofWord (i.cmd.word (if gather then 3 else 4)) → rows = Ref.ofWord (i.cmd.word (if gather then 4 else 3)) →
        list = Ref.ofWord (i.cmd.word 5) → sz = table.fmt.size → rd = (if gather then table else rows) → wr = (if gather then rows else table) →
        ix = (fun n => signed 32 (Mem.nat s.sram.mem (b.placeOf a list.region ((list.offset + 4 * n : Nat) : Int)) 4)) →
        ta = (fun n e => (table.offset : Int) + ix n * (table.pitch * sz : Nat) + (e * sz : Nat)) → ra = (fun n e => ((rows.at n e : Nat) : Int)) →
        ro = (if gather then ta else ra) → wo = (if gather then ra else ta) →
        move = (fun n m e => Mem.write m (b.placeOf a wr.region (wo n e)) (Mem.read m (b.placeOf a rd.region (ro n e)) sz)) →
        (∀ x y, b.Grants a.part a.tile Kind.mover list.region x → b.Grants a.part a.tile Kind.mover wr.region y →
          meStart x + meLen x ≤ meStart y ∨ meStart y + meLen y ≤ meStart x) →
        (∀ k < n, b.Allows a Kind.mover list.region ((list.offset + 4 * k : Nat) : Int) 4 ∧
          ∀ h < rowElems i.cmd, b.Allows a Kind.mover rd.region (ro k h) sz ∧ b.Allows a Kind.mover wr.region (wo k h) sz) →
        (b.Denied { a with loops := some [0, n] } Kind.mover list.region ((list.offset + 4 * n : Nat) : Int) 4 code w →
          ∃ l, exec (if gather then .gather t else .scatter t) s = .next (s.cutBy t .mover u
            ((List.range n).foldl (fun m k => (List.range (rowElems i.cmd)).foldl (move k) m) s.sram.mem) l code w)) ∧
        (e < rowElems i.cmd → b.Allows a Kind.mover list.region ((list.offset + 4 * n : Nat) : Int) 4 →
          (∀ h < e, b.Allows a Kind.mover rd.region (ro n h) sz ∧ b.Allows a Kind.mover wr.region (wo n h) sz) →
          b.Denied { a with loops := some [e, n] } Kind.mover rd.region (ro n e) sz code w ∨ (b.Allows a Kind.mover rd.region (ro n e) sz ∧
            b.Denied { a with loops := some [e, n] } Kind.mover wr.region (wo n e) sz code w) →
          ∃ l, exec (if gather then .gather t else .scatter t) s = .next (s.cutBy t .mover u ((List.range e).foldl (move n)
            ((List.range n).foldl (fun m k => (List.range (rowElems i.cmd)).foldl (move k) m) s.sram.mem)) l code w))))

/-- When a vector engine starts a command of group 6 that runs, with X granted and no error in the plots, CMP_ANY writes to the predicate bit
that BIT names whether some of the COUNT elements of X from its offset meets the condition against IMM, CMP_ALL whether every one does,
CMP_PAYLOAD whether RESULT of the entry that WAIT0 consumed does (a void entry reads as 0), and SET_BIT writes bit 0 of IMM; every other bit
stays, and the payload carries the written bit as RESULT. Nothing else changes but the engine's queue, what it runs and the plot traffic of the
elements read. -/
def Obligations.PredicateCommandsWriteOneBit : Prop :=
  ∀ (s : State) (t : TileId) (u : Turn) (i : Issued) (es : List QEntry) (x : Ref) (bx : Nat), s.Starts t .vector u i es → i.cmd.group = 6 →
    s.skipCause (partOfTile t) i es = none → x = Ref.ofWord (i.cmd.word 3) →
    (∀ b : Bool, ∀ w : State, w = ((s.taken t .vector u).modPart (partOfTile t) (fun q => { q with pred := setBitTo q.pred (predBit i.cmd) b })).nowRuns
        t .vector i (payload (BitVec.ofNat 32 (b2n b)) Exc.zero) →
      (s.sram.ecc = [] → (s.taken t .vector u).TensorAt t Kind.tileRead x 1 (predCount i.cmd) bx →
        (i.cmd.opcode = 1 → b = (List.range (predCount i.cmd)).any (fun k => condHolds (predCond i.cmd)
            (x.fmt.decode (Mem.nat s.sram.mem (bx + x.at 0 k) x.fmt.size)) (predImmVal x.fmt.isInt (predImm i.cmd))) →
          ∃ l, exec (.cmpAny t) s = .next (w.withTraffic l)) ∧
        (i.cmd.opcode = 2 → b = (List.range (predCount i.cmd)).all (fun k => condHolds (predCond i.cmd)
            (x.fmt.decode (Mem.nat s.sram.mem (bx + x.at 0 k) x.fmt.size)) (predImmVal x.fmt.isInt (predImm i.cmd))) →
          ∃ l, exec (.cmpAll t) s = .next (w.withTraffic l))) ∧
      (i.cmd.opcode = 3 → b = condHolds (predCond i.cmd)
          (predImmVal (predIsInt i.cmd) (match es.head? with
            | some e => if qVoid e then 0 else payloadResult (qPayload e)
            | none => 0)) (predImmVal (predIsInt i.cmd) (predImm i.cmd)) →
        exec (.cmpPayload t) s = .next w) ∧
      (i.cmd.opcode = 4 → b = bit (predImm i.cmd) 0 → exec (.setBit t) s = .next w))

/-- A SEND at the front of its station that runs leaves the queue and is bound to the earliest occurrence of its TRANSFER not yet bound, with what
its first waited entry carried; it posts when that occurrence has been sent. A skipped one binds a void in its place and consumes its waits; that of
a graph list, which the picker has completed, only binds the void (log 132). Where the lap sequence has ended and no occurrence of the TRANSFER is
left, the job faults with BINDING_ORPHAN. A RECV adds its ARMS to the arm count and completes; a sum beyond 65,535 faults the job with ARM_LIMIT; a
skipped one posts voids. A PUT or GET whose rank and local range are good, with a request slot free, opens a request at the target's address and
sends its cells, a PUT's with the local bytes; with no slot free it waits; a skipped one posts voids. A rank, or a JOB_PART, that the job does not
hold faults it with PLAN_ISOLATION (the model's choice for a JOB_PART, log 114); that the local range need lie in one region only, of any KINDS, is
the model's choice (log 58). A station whose front command cannot start does nothing. -/
def Obligations.BindingsStartTheirTransfers : Prop :=
  (∀ (s : State) (lead : PartId) (n : Fin 7) (j : Job), s.jobOfLead lead = some j →
    (s.bindingReady j n 1 = none → exec (.send lead n) s = .next s) ∧ (s.bindingReady j n 2 = none → exec (.recv lead n) s = .next s) ∧
    (∀ (p : PartId) (i : Issued) (es : List QEntry) (u : State), u = s.modJob j.id (fun j => j.setBindings n (j.bindings n).tail) →
      (∀ (c : Option Nat) (v : State) (cause : Nat) (x : BitVec 96), s.bindingReady j n 1 = some (p, i, es, c) →
        v = (if c.isSome && i.src != .graph then u.modPart p (fun q => q.consume i.cmd.tile i.cmd.waits) else u) → cause = c.getD 0 →
        x = (if c.isSome then 0 else match es.head? with
          | some e => if qVoid e then 0 else qPayload e
          | none => 0) →
        ((j.lapEnded = false ∨ (j.xfer (bindTransfer i.cmd)).bound < j.occTotal false (bindTransfer i.cmd)) →
          exec (.send lead n) s = .next ((v.bindSend j p i cause x).settle p)) ∧
        (j.lapEnded = true → j.occTotal false (bindTransfer i.cmd) ≤ (j.xfer (bindTransfer i.cmd)).bound →
          exec (.send lead n) s = .next (v.partJobFault p Code.bindingOrphan (i.loc p 6)))) ∧
      (∀ c : Nat, s.bindingReady j n 2 = some (p, i, es, some c) →
        exec (.recv lead n) s = .next ((u.retire p i (fun id g => mkVoid c id g 0xFF) 6).settle p)) ∧
      (s.bindingReady j n 2 = some (p, i, es, none) →
        ((j.xfer (bindTransfer i.cmd)).arms + recvArms i.cmd ≤ 65535 →
          exec (.recv lead n) s = .next (((u.modJob j.id (fun k => k.setXfer { k.xfer (bindTransfer i.cmd) with
            arms := (j.xfer (bindTransfer i.cmd)).arms + recvArms i.cmd })).retire p i (fun id g => mkEntry 0 id g 0xFF) 6).settle p)) ∧
        (65535 < (j.xfer (bindTransfer i.cmd)).arms + recvArms i.cmd →
          exec (.recv lead n) s = .next (u.partJobFault p Code.armLimit (i.loc p 6)))))) ∧
  (∀ (s : State) (lead : PartId) (j : Job) (op : Nat) (row : Instr) (p : PartId) (i : Issued) (es : List QEntry) (u : State),
    (op, row) ∈ ([(3, .put lead), (4, .get lead)] : List (Nat × Instr)) → s.jobOfLead lead = some j →
    u = s.modJob j.id (fun j => j.setBindings 6 (j.bindings 6).tail) →
    (s.bindingReady j 6 op = none → exec row s = .next s) ∧
    (∀ c : Nat, s.bindingReady j 6 op = some (p, i, es, some c) →
      exec row s = .next ((u.retire p i (fun id g => mkVoid c id g 0xFF) 6).settle p)) ∧
    (s.bindingReady j 6 op = some (p, i, es, none) → s.freeReq false = none → exec row s = .next s) ∧
    (s.bindingReady j 6 op = some (p, i, es, none) → (s.freeReq false).isSome = true →
      (j.remote i.cmd = none → exec row s = .next (u.partJobFault p Code.planIsolation (i.loc p 6))) ∧
      (∀ (base : W64) (m : AllocMap) (e : BitVec 128), j.remote i.cmd = some base → (s.part p).mapA = some m → (s.part p).mapB = some m →
        m.entry? (putLocal i.cmd).region = some e → (putLocal i.cmd).offset + putLength i.cmd ≤ meLen e → s.sram.ecc = [] →
        ∃ w, exec row s = .next w ∧ (u.plotAccess p (.unit (.tile (finOf 256 (tileId p i.cmd.tile.val))))
            (Stop.ofTile (tileId p i.cmd.tile.val)) (partBase p + meStart e + (putLocal i.cmd).offset)
            (putLength i.cmd)).openRequest false (.putGet lead p i (op == 4)) base (putLength i.cmd)
          (if op = 3 then some (Mem.read s.sram.mem (partBase p + meStart e + (putLocal i.cmd).offset) (putLength i.cmd)) else none)
          j.index j.domainId = some w)))

/-- JOB_START before START_COUNT, or of a job that is not armed with its comparisons ended, changes nothing. At the count, a job that began from
SET puts each of its partitions into RUN with the initial predicate bits and, when it starts at no hurdle, every stream at command 0 of iteration
0; other partitions stay. HURDLE_REACHED with every stream and list of the job arrived at the next declaration and its lap sequence paused clean
writes the hurdle event; a transfer that is not clean faults the job with HURDLE_UNCLEAN. HURDLE_RESUME goes on at RESUME_COUNT and not before.
JOB_COMPLETION ends a job whose commands and laps are done, and no other. -/
def Obligations.JobsStartPauseAndEndAtTheirCounts : Prop :=
  ∀ (s : State) (lead : PartId) (j : Job), s.jobOfLead lead = some j →
    (∀ b : PaceBlock, j.pace = some b →
      (j.phase ≠ .armed ∨ j.startDone = false ∨ s.pace.count.toNat < b.startCount → exec (.jobStart lead) s = .next s) ∧
      (j.phase = .armed → j.startDone = true → b.startCount ≤ s.pace.count.toNat → j.resuming = false →
        ∃ t, exec (.jobStart lead) s = .next t ∧
          (∀ p : PartId, (s.part p).job ≠ some j.id → t.part p = s.part p) ∧
          (∀ p : PartId, (s.part p).job = some j.id → (t.part p).st = .run ∧ (t.part p).pred = j.predInit ∧ (t.part p).queues = (s.part p).queues ∧
            (j.fromHurdle = none → (t.part p).streams = (j.image.streams.filter (fun x => x.jobPart == (s.part p).jobPart)).map (fun x =>
              { index := finOf 4 x.index, code := x.code, pos := 0, iter := 0, mode := .running }))) ∧
          t.log = s.log ∧ t.links = s.links ∧ t.sram = s.sram ∧ t.hiu = s.hiu) ∧
      (j.phase = .armed → j.startDone = true → b.startCount ≤ s.pace.count.toNat → j.resuming = true →
        exec (.jobStart lead) s = .next (s.continueJob j b.startCount))) ∧
    (∀ d : HurdleDecl, j.image.hurdles[j.nextHurdle]? = some d → j.phase = .run → j.hurdle = none → s.pausedClean j = true →
      (∀ p ∈ j.parts, (s.part p).allArrived d = true) →
      (j.unclean = none → exec (.hurdleReached lead) s = .next (((s.modJob j.id (fun j => { j with hurdle := some d })).logs Code.hurdleReached
        j.fn.val).jobEvent j 2 { status := Status.success, detail0 := s.pace.count
                                 detail1 := BitVec.ofNat 64 (d.id.toNat * 2 ^ 48 + d.iteration % 2 ^ 32) })) ∧
      (∀ x : W16, j.unclean = some x → exec (.hurdleReached lead) s = .next (s.jobFault j.id Code.hurdleUnclean (s.xferLoc j x)))) ∧
    ((∃ d, j.image.hurdles[j.nextHurdle]? = some d ∧ ∃ p ∈ j.parts, (s.part p).allArrived d = false) → exec (.hurdleReached lead) s = .next s) ∧
    (∀ (d : HurdleDecl) (n : Nat), j.hurdle = some d → j.resumeCount = some n →
      (s.pace.count.toNat < n → exec (.hurdleResume lead) s = .next s) ∧
      (n ≤ s.pace.count.toNat → j.phase = .run → exec (.hurdleResume lead) s = .next (s.releaseJob j d n))) ∧
    (s.jobDone j = true → exec (.jobCompletion lead) s = .next ((s.jobEvent j 1 { status := Status.success, detail0 := s.pace.count }).removeJob
      j .marks)) ∧
    (s.jobDone j = true → ∀ p : PartId, (s.part p).job = some j.id → ∃ t, exec (.jobCompletion lead) s = .next t ∧
      (t.part p).st = .marks ∧ (t.part p).zeroing = true ∧ (t.part p).job = none ∧ (t.part p).mapA = none) ∧
    (s.jobDone j = false → exec (.jobCompletion lead) s = .next s)

/-- FRAME takes the ready frame of the partition whose turn it is, else that of the die's other partition. A skipped frame posts voids. A frame
whose work meets no fault has run whole: the frame counter rises, a rejection is logged (once a second, else counted), the posts carry the
payload of Table 07-10, and the other partition's turn is next. A frame that convolves, whether or not it ends in a fault, waits until each Matrix
Engine of its TILE_SET is idle and no source before the Point Engine in its rotation can start, and moves their rotation on (log 122); one whose work
meets a fault ends with it. A
frame shorter than 576 bytes is rejected FRAME_MALFORMED at layer 0xFF: with its header and record granted, no error in the plots and no serial
about to wrap, its record is written with that status and no box, and a serial is used for voxelisation and for each layer. With the engine in
HOLD, or no frame ready, and no job of the die that still stops, nothing happens. -/
def Obligations.FramesRunWholeInTurn : Prop :=
  (∀ (s : State) (d : DieId), s.inHold (.pointEngine d) = true ∨
      (s.frameReady (finOf 8 (2 * d.val)) = none ∧ s.frameReady (finOf 8 (2 * d.val + 1)) = none) →
    s.stillRuns (finOf 8 (2 * d.val)) = none → s.stillRuns (finOf 8 (2 * d.val + 1)) = none → exec (.frame d) s = .next s) ∧
  (∀ (s v : State) (d : DieId) (p : PartId) (i : Issued) (es : List QEntry), s.inHold (.pointEngine d) = false →
    (if s.pe[d].nextUpper then [finOf 8 (2 * d.val + 1), finOf 8 (2 * d.val)] else [finOf 8 (2 * d.val), finOf 8 (2 * d.val + 1)]).findSome?
      s.frameReady = some (p, i, es) →
    v = ({ s.modPart p (fun q => { q with pointQ := q.pointQ.tail }) with
      pe := vmod s.pe d (fun e => { e with nextUpper := p.val == 2 * d.val, convolving := false }) } : State) →
    (∀ c : Nat, s.skipCause p i es = some c →
      exec (.frame d) s = .next ((v.retire p i (fun id g => mkVoid c id g (i.src8 p)) 5).settle p)) ∧
    (∀ (a : Acc) (w : State), s.skipCause p i es = none →
      a = { part := p, tile := i.cmd.tile, engine := 5, unit := 7, cmd := i, loops := none } →
      (∀ e : Unit, frameBody a v = .error e w →
        (w.pe[d].convolving = true → (∃ g ∈ s.frameEngines p i.cmd, s.pointMay p g = false) → exec (.frame d) s = .next s) ∧
        (w.pe[d].convolving = false ∨ (∀ g ∈ s.frameEngines p i.cmd, s.pointMay p g = true) →
          exec (.frame d) s = .next { w with pe := vmod w.pe d (fun e => { e with convolving := false }) })) ∧
      (∀ (r : FrameRes) (x : State), frameBody a v = .ok r w →
        (w.pe[d].convolving = true → (∃ g ∈ s.frameEngines p i.cmd, s.pointMay p g = false) → exec (.frame d) s = .next s) ∧
        ((w.pe[d].convolving = true → ∀ g ∈ s.frameEngines p i.cmd, s.pointMay p g = true) →
          x = { (if w.pe[d].convolving then w.modPart p (fun q =>
              ((s.frameEngines p i.cmd).filter (fun g => g.turn != Turn.graph)).foldl (fun q g => q.setEngine { g with turn := Turn.point.next }) q)
            else w) with
            pe := vmod w.pe d (fun e => { e with frames := satInc e.frames, convolving := false }) } →
          exec (.frame d) s = .next (((if r.status = 0 then x else x.frameRejected d (x.vfOf p)).retire p i
            (fun id g => mkEntry r.payload id g (i.src8 p)) 5).settle p))))) ∧
  (∀ (s : State) (a : Acc) (g : PointConfig) (n : Nat) (v : W32) (ein eout : BitVec 128),
    n = frameConfig a.cmd.cmd → (s.part a.part).configs[n]? = some g → (s.part a.part).serials[n]? = some v → v ≠ 0 →
    v.toNat + g.layers.length < 2 ^ 32 → s.sram.ecc = [] → 0 < frameLen a.cmd.cmd → frameLen a.cmd.cmd < 576 →
    s.Grants a.part a.tile Kind.point (frameRef (a.cmd.cmd.word 3)).region ein →
    (frameRef (a.cmd.cmd.word 3)).offset + frameLen a.cmd.cmd ≤ meLen ein →
    s.Grants a.part a.tile Kind.point (frameRef (a.cmd.cmd.word 6)).region eout → (frameRef (a.cmd.cmd.word 6)).offset + 64 ≤ meLen eout →
    ∃ (r : FrameRes) (w : State), frameBody a s = .ok r w ∧ r.status = Status.frameMalformed ∧ r.layer = 0xFF ∧ r.boxes = [] ∧
      r.serial = v.toNat ∧ w.log = s.log ∧ w.jobs = s.jobs ∧ (w.part a.part).serials[n]? = some (v + BitVec.ofNat 32 (1 + g.layers.length)) ∧
      w.sram.mem = Mem.write s.sram.mem (partBase a.part + meStart eout + (frameRef (a.cmd.cmd.word 6)).offset) (r.words.flatMap (natLE 4)))

/-- A LOAD descriptor at the front of the Management Complex's queue completes BAD_DESCRIPTOR when a field of Table 12-8 is malformed, NOT_PERMITTED
from PF0 or while PF0's SETUP_LOCK gates it, and else joins the loads that wait. LOAD_TAKE_UP takes the first of them, one at a time: a partition
that the function may not load ends it NOT_PERMITTED, one not in MARKS ends it STATE_CONFLICT, and one being zeroed lets it wait as the load in hand
until none is, as a claimed header does (that ownership is asked before the state is the model's choice, log 88). With its image read, the first
check that fails refuses it with the partitions zeroed again; an image that passes becomes the task. LOAD_COMPLETE refuses it when a word of what it
staged was lost or a partition is no longer in MARKS (that the second is STATE_CONFLICT with the partitions zeroed again is the model's choice, log
77), and else installs it and completes SUCCESS: without errors in the plots every named partition is in SET, owned by the function, in the new job;
the other partitions stay, the job joins the package's jobs, and the plots hold the image's writes. -/
def Obligations.LoadsAreCheckedTakenUpAndInstalled : Prop :=
  (∀ (s t : State) (d : Desc), s.takeMc Op.load = some (d, t) →
    (d.loadOk = false → exec .load s = .next (t.done d Status.badDescriptor)) ∧
    (d.loadOk = true → d.fn = 0 ∨ t.gated d = true → exec .load s = .next (t.done d Status.notPermitted)) ∧
    (d.loadOk = true → d.fn ≠ 0 → t.gated d = false → exec .load s = .next (t.modMgt (fun m => { m with loads := m.loads ++ [d] })))) ∧
  (∀ (s t : State) (d : Desc) (rest : List Desc) (ps : List PartId), s.fwServes = true → ps = partMapParts (d.word 2) →
    (s.mgt.loads = d :: rest ∧ s.loading = false ∧ t = s.modMgt (fun m => { m with loads := rest })) ∨
      (s.mgt.loadHeld = some d ∧ (∀ p ∈ ps, (s.part p).zeroing = false) ∧ t = s.modMgt (fun m => { m with loadHeld := none })) →
    ((∃ p ∈ ps, s.bound d.fn p = false ∨ ((s.part p).st ≠ .marks ∧ (s.part p).owner ≠ none ∧ (s.part p).owner ≠ some d.fn)) →
      exec .loadTakeUp s = .next (t.done d Status.notPermitted).fwProceed) ∧
    ((∀ p ∈ ps, s.bound d.fn p = true ∧ ((s.part p).st = .marks ∨ (s.part p).owner = none ∨ (s.part p).owner = some d.fn)) →
      ((∃ p ∈ ps, (s.part p).st ≠ .marks) → exec .loadTakeUp s = .next (t.conflict d).fwProceed) ∧
      ((∀ p ∈ ps, (s.part p).st = .marks) → (∃ p ∈ ps, (s.part p).zeroing = true) →
        exec .loadTakeUp s = .next (t.modMgt (fun m => { m with loadHeld := some d }))) ∧
      ((∀ p ∈ ps, (s.part p).st = .marks ∧ (s.part p).zeroing = false) → (t.pushOp (t.winOp d none)).canClaim (t.winOp d none) = false →
        exec .loadTakeUp s = .next (t.pushOp (t.winOp d none)).fwProceed) ∧
      ((∀ p ∈ ps, (s.part p).st = .marks ∧ (s.part p).zeroing = false) → ∀ (o : WinOp) (u v x : State) (bs : List Byte),
        (t.pushOp (t.winOp d none)).canClaim (t.winOp d none) = true → (t.pushOp (t.winOp d none)).openHeader (t.winOp d none) = .opened u o →
        u.readLoad o = (v, some bs) → x = v.setOp o { o with phase := .reply bs.length } →
        (∀ n : Denial, x.loadChecks bs ps = some n → exec .loadTakeUp s = .next (x.denyLoad d ps n).fwProceed) ∧
        (x.loadChecks bs ps = none →
          exec .loadTakeUp s = .next (x.modMgt (fun m => { m with task := some { desc := d, parts := ps, image := readImage bs, lost := false } })).fwProceed)))) ∧
  (∀ (s : State) (d : Desc) (p : PartId), s.mgt.loadHeld = some d → p ∈ partMapParts (d.word 2) → (s.part p).zeroing = true →
    exec .loadTakeUp s = .next s) ∧
  (∀ (s t : State) (k : LoadTask), s.mgt.task = some k → s.fwServes = true →
    (∀ x ∈ s.sram.reserve, x.part ≠ .workingStore ∧ x.part ≠ .stagedMap) →
    t = s.modMgt (fun m => { m with task := none }) →
    (k.lost = true →
      exec .loadComplete s = .next (((t.rezero k.parts).complete k.desc { status := Status.imageRefused, fault := Code.goldenLost }).fwProceed)) ∧
    (k.lost = false → (∃ p ∈ k.parts, (s.part p).st ≠ .marks ∨ (s.part p).zeroing = true) →
      exec .loadComplete s = .next (((t.rezero k.parts).conflict k.desc).fwProceed)) ∧
    (k.lost = false → (∀ p ∈ k.parts, (s.part p).st = .marks ∧ (s.part p).zeroing = false) → s.sram.ecc = [] →
      ∃ u : State, exec .loadComplete s = .next ((u.done k.desc Status.success).fwProceed) ∧
        (∀ p ∈ k.parts, (u.part p).st = .set ∧ (u.part p).owner = some k.desc.fn ∧ (u.part p).job = some s.mgt.nextJob ∧ (u.part p).pred = 0) ∧
        (∀ p : PartId, p ∉ k.parts → u.part p = s.part p) ∧
        u.jobs = s.jobs ++ [k.image.job s.mgt.nextJob k.desc k.parts] ∧ u.mgt.nextJob = s.mgt.nextJob + 1 ∧ u.mgt.task = none ∧
        u.log = s.log ∧ u.hiu = s.hiu ∧ u.sram.mem = k.image.writes.foldl (fun m x => match k.image.place k.parts x.1 x.2.1 x.2.2.1 with
          | some a => Mem.write m a x.2.2.2
          | none => m) s.sram.mem))

/-- ZEROING_DONE of a partition that zeroes, with the management core able to and no scrub before it, leaves the partition as at reset: MARKS, no
owner, no job, and every byte of its 8 GiB zero; every other byte and every other partition stay. Where it was the last partition that a
PARTITION_RESET, an UNLOAD or a PARK waited for, that descriptor completes with SUCCESS, the PARK with the bytes copied and JOB_PARKED logged; a
PARK with partitions left goes on with the next. With
a scrub due, or no zeroing under way, nothing happens; PARTITION_SCRUB_DONE clears what is due when no word of the partition is in error. UNLOAD and
PARTITION_RESET complete BAD_DESCRIPTOR on a malformed field or an empty mask, and NOT_PERMITTED when the function owns not every named partition
(PARTITION_RESET of PF0 needs no ownership). UNLOAD of exactly the partitions of a job that is in SET and not armed takes the job out and waits for
them to be zeroed; any other (no job at the first partition, a job armed, a part of a job's partitions or more, a partition not in SET) is
STATE_CONFLICT (that it must name exactly those is the model's reading, log 90). PARTITION_RESET of partitions in MARKS, SET, PARKED or FAULTED that
names every partition of each job in SET or PARKED that it touches (one in FAULTED may be reset alone; a partition reaches MARKS when its zeroing
ends) puts each into HOLD with its owner kept, no job and no map, its buffers to be zeroed, and waits for MARKS; any
other is STATE_CONFLICT. -/
def Obligations.PartitionsAreEmptiedZeroedAndBackInMarks : Prop :=
  (∀ (s : State) (p : PartId),
    ((s.part p).zeroing = false ∨ (s.part p).scrubFirst = true ∨ s.power.mainPg = false → exec (.zeroingDone p) s = .next s) ∧
    ((s.part p).zeroing = true → s.power.mainPg = true → s.boot.stage ≠ .switching →
      ((s.part p).scrubFirst = false → Mem.wf s.sram.mem = true →
        (s.mgt.unloads = [] →
          ∃ t, exec (.zeroingDone p) s = .next t ∧ t.part p = Partition.reset ∧ (∀ q : PartId, q ≠ p → t.part q = s.part q) ∧
            (∀ a : Nat, Mem.get t.sram.mem a = if partBase p ≤ a ∧ a < partBase p + 2 ^ 33 then 0 else Mem.get s.sram.mem a) ∧
            t.links = s.links ∧ t.log = s.log ∧ t.hiu = s.hiu ∧
            (∀ j ∈ s.jobs, (∃ q : PartId, q ≠ p ∧ (s.part q).job = some j.id) → j ∈ t.jobs)) ∧
        (∀ (d : Desc) (o : Option (Nat × Nat)), s.mgt.unloads = [{ desc := d, left := [p], parked := o }] →
          ∃ u : State, u.part p = Partition.reset ∧ u.mgt.unloads = [] ∧ u.hiu = s.hiu ∧ u.log = s.log ∧
            (o = none → exec (.zeroingDone p) s = .next (u.done d Status.success)) ∧
            (∀ id n : Nat, o = some (id, n) → exec (.zeroingDone p) s =
              .next ((u.logs Code.jobParked d.fn.val).complete d { status := Status.success, detail0 := BitVec.ofNat 64 n }))) ∧
        (∀ (d : Desc) (q : PartId) (rest : List PartId) (o : Nat × Nat), p ∉ q :: rest →
          s.mgt.unloads = [{ desc := d, left := p :: q :: rest, parked := some o }] →
          ∃ t, exec (.zeroingDone p) s = .next t ∧ t.part p = Partition.reset ∧
            t.mgt.unloads = [{ desc := d, left := q :: rest, parked := some o }] ∧
            t.part q = (if (s.part q).zeroing then s.part q else (s.part q).leave .marks) ∧
            (∀ r : PartId, r ≠ p → r ≠ q → t.part r = s.part r))) ∧
      ((s.part p).scrubFirst = true → (∀ e ∈ s.sram.ecc, partOfWord e.1 ≠ p) →
        exec (.partitionScrubDone p) s = .next (s.modPart p (fun q => { q with scrubFirst := false }))))) ∧
  ((∀ (s t : State) (d : Desc), s.takeMc Op.unload = some (d, t) →
    (d.maskOk = false → exec .unload s = .next (t.done d Status.badDescriptor)) ∧
    (d.maskOk = true → t.vfAllowed d d.maskParts = false → exec .unload s = .next (t.done d Status.notPermitted)) ∧
    (d.maskOk = true → t.vfAllowed d d.maskParts = true →
      (∀ (p : PartId) (j : Job), d.maskParts.head? = some p → t.jobOf p = some j → j.phase = .loaded →
        (∀ q : PartId, q ∈ d.maskParts ↔ (t.part q).job = some j.id) → (∀ q ∈ d.maskParts, (t.part q).st = .set) →
        exec .unload s = .next ((t.removeJob j .marks).awaitMarks d d.maskParts) ∧
        (∀ q ∈ d.maskParts, ((t.removeJob j .marks).part q).st = .marks ∧ ((t.removeJob j .marks).part q).zeroing = true ∧
          ((t.removeJob j .marks).part q).job = none)) ∧
      (∀ (p : PartId) (j : Job), d.maskParts.head? = some p → t.jobOf p = some j →
        j.phase ≠ .loaded ∨ (∃ q : PartId, ¬(q ∈ d.maskParts ↔ (t.part q).job = some j.id)) ∨ (∃ q ∈ d.maskParts, (t.part q).st ≠ .set) →
        exec .unload s = .next (t.conflict d)) ∧
      ((∃ p ∈ d.maskParts, (t.part p).st ≠ .set ∨ (t.part p).job = none ∨ t.jobOf p = none) → exec .unload s = .next (t.conflict d)))) ∧
  (∀ (s t : State) (d : Desc), s.takeMc Op.partReset = some (d, t) →
    (d.maskOk = false → exec .partitionReset s = .next (t.done d Status.badDescriptor)) ∧
    (d.maskOk = true → t.gated d = true ∨ (∃ p ∈ d.maskParts, t.owns d.fn p = false) →
      exec .partitionReset s = .next (t.done d Status.notPermitted)) ∧
    (d.maskOk = true → t.gated d = false → (∀ p ∈ d.maskParts, t.owns d.fn p = true) →
      ((∀ p ∈ d.maskParts, (t.part p).shown = .marks ∨ (t.part p).shown = .set ∨ (t.part p).shown = .parked ∨ (t.part p).shown = .faulted) →
        t.resetWhole d.maskParts = true →
        ∃ u : State, exec .partitionReset s = .next (u.awaitMarks d d.maskParts) ∧
          ∀ p ∈ d.maskParts, (u.part p).st = .hold ∧ (u.part p).owner = (t.part p).owner ∧ (u.part p).zeroing = true ∧
            (u.part p).job = none ∧ (u.part p).mapA = none ∧ (u.part p).mapB = none ∧ (u.part p).queues = [] ∧ (u.part p).streams = []) ∧
      ((∃ p ∈ d.maskParts, (t.part p).shown = .run ∨ (t.part p).shown = .hold) ∨ t.resetWhole d.maskParts = false →
        exec .partitionReset s = .next (t.conflict d)))))

/-- A START completes BAD_DESCRIPTOR on a malformed field, NOT_PERMITTED when the issuer does not own LEAD, STATE_CONFLICT without a job in SET,
not armed, at LEAD, CQ_INVALID when its EVENT_CQ is disabled; one that passes and cannot claim its header waits. With its header open and the
rank table read, it is refused for the first check that fails, its partitions as they were, and else arms the job for its START_COUNT with the
circuits, predicate bits and hurdle it names; a package in no domain then takes the domain of the pace block. A RESUME is the same of a PARKED
job, whose expansion partitions must be bound and in MARKS. -/
def Obligations.StartsAndResumesArmTheirJob : Prop :=
  (∀ (s t : State) (d : Desc), s.takeMc Op.start = some (d, t) →
    (d.startOk = false → exec .start s = .next (t.done d Status.badDescriptor)) ∧
    (d.startOk = true → t.vfAllowed d [d.lead] = false → exec .start s = .next (t.complete d { status := Status.notPermitted })) ∧
    (d.startOk = true → t.vfAllowed d [d.lead] = true →
      (t.startJob d = none → exec .start s = .next (t.conflict d)) ∧
      (∀ j : Job, t.startJob d = some j →
        ((t.fn d.fn).cqs[d.eventCq].enable = false → exec .start s = .next (t.complete d { status := Status.cqInvalid })) ∧
        ((t.fn d.fn).cqs[d.eventCq].enable = true → ∀ (o : WinOp) (w : State), o = t.winOp d (some d.lead) → w = t.pushOp o →
          (w.canClaim o = false → exec .start s = .next w) ∧
          (∀ (u v x : State) (q : WinOp) (bs : List Byte), w.canClaim o = true → w.openHeader o = .opened u q → u.winTake q rankBytes = (v, some bs) →
            x = v.setOp q { q with phase := .reply bs.length } → x.startJob d = some j →
            (∀ n : StartNo, x.startCheck j d.fn d.planSel (j.startHurdle d) j.parts d.pace bs = .error n → exec .start s = .next (x.startNo d n)) ∧
            (∀ (r : RankTable) (n : Fin 8), x.startCheck j d.fn d.planSel (j.startHurdle d) j.parts d.pace bs = .ok (r, n) →
              exec .start s = .next ((x.modJob j.id (fun k => { k with
                circuits := fld (d.word 2) 63 32, predInit := BitVec.ofNat 16 (fld (d.word 2) 31 16)
                fromHurdle := (j.startHurdle d).join })).armJob d j.id r n false))))))) ∧
  (∀ (s : State) (b : PaceBlock), (s.pace.domain = none → ∃ g : Domain, (s.joinDomain b).pace.domain = some g ∧ g.agrees b = true) ∧
    (s.pace.domain.isSome = true → s.joinDomain b = s)) ∧
  (∀ (s t : State) (d : Desc), s.takeMc Op.resume = some (d, t) →
    (d.resumeOk = false → exec .resume s = .next (t.done d Status.badDescriptor)) ∧
    (d.resumeOk = true → (t.vfAllowed d [d.lead] = false ∨ (∃ p ∈ d.expansion, t.bound d.fn p = false ∨
        ((t.part p).owner ≠ none ∧ (t.part p).owner ≠ some d.fn)) →
      exec .resume s = .next (t.complete d { status := Status.notPermitted })) ∧
    (d.resumeOk = true → t.vfAllowed d [d.lead] = true →
        (∀ p ∈ d.expansion, t.bound d.fn p = true ∧ ((t.part p).owner = none ∨ (t.part p).owner = some d.fn)) →
      (t.resumeJob d = none → exec .resume s = .next (t.conflict d)) ∧
      (∀ j : Job, t.resumeJob d = some j →
        ((t.fn d.fn).cqs[d.eventCq].enable = false → exec .resume s = .next (t.complete d { status := Status.cqInvalid })) ∧
        ((t.fn d.fn).cqs[d.eventCq].enable = true → ∀ (o : WinOp) (w : State), o = t.winOp d (some d.lead) → w = t.pushOp o →
          (w.canClaim o = false → exec .resume s = .next w) ∧
          (∀ (u v x : State) (q : WinOp) (bs : List Byte), w.canClaim o = true → w.openHeader o = .opened u q → u.winTake q rankBytes = (v, some bs) →
            x = v.setOp q { q with phase := .reply bs.length } → x.resumeJob d = some j →
            (∀ n : StartNo, x.startCheck j d.fn d.planSel none (partMapParts (d.word 4)) d.pace bs = .error n →
              exec .resume s = .next (x.startNo d n)) ∧
            (∀ (r : RankTable) (n : Fin 8), x.startCheck j d.fn d.planSel none (partMapParts (d.word 4)) d.pace bs = .ok (r, n) →
              exec .resume s = .next (((x.claimLinks j).modJob j.id (fun k => { k with parkedMap := (x.part d.lead).mapGold })).expand
                d j r n))))))))

/-- END, HURDLE and PARK complete BAD_DESCRIPTOR on a malformed field, NOT_PERMITTED when the issuer does not own LEAD, and STATE_CONFLICT without a
job in RUN at LEAD; HURDLE and PARK also unless the job stands at its hurdle and no release was accepted, PARK also unless the hurdle is parkable
and no stream is active. An END_COUNT less than 12,288 beats ahead is COUNT_TOO_SOON, a RESUME_COUNT is START_REFUSED, START_TOO_SOON logged (log
121); else END records its count and a release its RESUME_COUNT. A stop ends the job with SUCCESS. An accepted PARK reads the park map of the job
and moves the regions it lists, in its order, to their pages of the park partition: with no error in the plots the read and the moves succeed, each
copy puts the bytes of its source at its destination and changes no other byte, and a region of the park partition that the map does not list is
zeroed after them. The park partition then keeps the job, PARKED, under the map of the parked job, the pace block saved; the first of the others, in
ascending order, has left it, its zeroing begun, and the rest stay in RUN, nothing of them running, until step 4 reaches them (that one row does
steps 1 to 3 and begins step 4 is the model's reading, log 84); the links are released; and the PARK waits until all are in MARKS (at once where
there is none), to complete with SUCCESS, the number of bytes it moved in DETAIL0, and JOB_PARKED logged. Where a word of the map or of a source
cannot be delivered it completes JOB_FAULTED with the job's fault code. -/
def Obligations.HurdlesEndsAndParksActOnAStandingJob : Prop :=
  (∀ (s t : State) (d : Desc), s.takeRe Op.endD = some (d, t) →
    (d.endOk = false → exec .endDescriptor s = .next (t.done d Status.badDescriptor)) ∧
    (d.endOk = true → t.vfAllowed d [d.lead] = false →
      exec .endDescriptor s = .next (t.complete d { status := Status.notPermitted })) ∧
    (d.endOk = true → t.vfAllowed d [d.lead] = true →
      (t.leadJob d.lead .run = none → exec .endDescriptor s = .next (t.conflict d)) ∧
      (∀ j : Job, t.leadJob d.lead .run = some j →
        ((d.word 3).toNat < t.pace.count.toNat + 12288 →
          exec .endDescriptor s = .next (t.complete d { status := Status.countTooSoon })) ∧
        (t.pace.count.toNat + 12288 ≤ (d.word 3).toNat →
          exec .endDescriptor s = .next ((t.recordEnd j (d.word 3).toNat).complete d { status := Status.success }) ∧
          (j.circuits ≠ 0 → t.recordEnd j (d.word 3).toNat = t.modJob j.id (fun k => { k with endCount := some (d.word 3).toNat })))))) ∧
  (∀ (s t : State) (d : Desc) (stop : Bool) (row : Instr), s.takeRe Op.hurdle = some (d, t) → row = (if stop then .hurdleStop else .hurdleRelease) →
    ((d.word 2).getLsbD 8 ≠ stop → exec row s = .next s) ∧
    ((d.word 2).getLsbD 8 = stop →
      (d.hurdleOk = false → exec row s = .next (t.done d Status.badDescriptor)) ∧
      (d.hurdleOk = true → t.vfAllowed d [d.lead] = false →
        exec row s = .next (t.complete d { status := Status.notPermitted })) ∧
      (d.hurdleOk = true → t.vfAllowed d [d.lead] = true →
        (t.leadJob d.lead .run = none → exec row s = .next (t.conflict d)) ∧
        (∀ j : Job, t.leadJob d.lead .run = some j →
          (t.atHurdle j = false ∨ j.resumeCount.isSome = true → exec row s = .next (t.conflict d)) ∧
          (t.atHurdle j = true → j.resumeCount = none →
            (stop = true → exec row s = .next (((t.stopStreams j.lead Status.streamAborted).complete d
              { status := Status.success }).endJob j)) ∧
            (stop = false → (d.word 3).toNat < t.pace.count.toNat + 12288 →
              exec row s = .next (t.startRefused d Code.startTooSoon)) ∧
            (stop = false → t.pace.count.toNat + 12288 ≤ (d.word 3).toNat →
              exec row s = .next (((t.modJob j.id (fun k => { k with resumeCount := some (d.word 3).toNat })).stopStreams j.lead
                Status.streamAborted).complete d { status := Status.success }))))))) ∧
  (∀ (s t : State) (d : Desc), s.takeMc Op.park = some (d, t) →
    (d.parkFieldsOk = false → exec .park s = .next (t.done d Status.badDescriptor)) ∧
    (d.parkFieldsOk = true → t.vfAllowed d [d.lead] = false → exec .park s = .next (t.complete d { status := Status.notPermitted })) ∧
    (d.parkFieldsOk = true → t.vfAllowed d [d.lead] = true →
      (t.leadJob d.lead .run = none → exec .park s = .next (t.conflict d)) ∧
      (∀ j : Job, t.leadJob d.lead .run = some j →
        (t.atHurdle j = false ∨ j.resumeCount.isSome = true ∨ t.streaming j.lead = true ∨ j.image.parkPart.bind j.phys = none ∨
          (∃ h, j.hurdle = some h ∧ h.parkable = false) → exec .park s = .next (t.conflict d)) ∧
        (∀ (jp : Nat) (park : PartId) (h : HurdleDecl), t.atHurdle j = true → j.resumeCount = none → t.streaming j.lead = false →
          j.image.parkPart = some jp → j.phys jp = some park → j.hurdle = some h → h.parkable = true →
          (∀ v : State, t.readPark j park = (v, none) → exec .park s = .next (v.complete d
            { status := Status.jobFaulted, fault := ((v.job? j.id).map (·.firstFault)).getD 0, synthetic := true })) ∧
          (∀ (v w : State) (ws : List W64) (n : Nat), t.readPark j park = (v, some ws) →
            v.moveEntries j park j.parts false ws 0 = (w, n, false) → exec .park s = .next (w.complete d
              { status := Status.jobFaulted, fault := ((w.job? j.id).map (·.firstFault)).getD 0, synthetic := true })) ∧
          (t.sram.ecc = [] → (t.part park).job = some j.id →
            ∃ (ws : List W64) (w u : State) (n : Nat), t.readPark j park = (t, some ws) ∧ t.moveEntries j park j.parts false ws 0 = (w, n, true) ∧
              w.log = t.log ∧ w.parts = t.parts ∧ w.jobs = t.jobs ∧ u.sram.mem = (w.vacate j park jp ws).sram.mem ∧
              (u.part park).st = .parked ∧ (u.part park).job = some j.id ∧ (u.part park).mapA = some (parkedMapOf j.image.maps jp ws) ∧
              (∀ p : PartId, (t.part p).job = some j.id → p ≠ park → u.part p = (if (j.released park).head? = some p
                then (t.part p).leave .marks else (t.part p).unreached)) ∧
              (∀ p : PartId, (t.part p).job ≠ some j.id → u.part p = t.part p) ∧
              (∀ k ∈ u.jobs, k.id = j.id → k.phase = .parked ∧ k.parts = [park] ∧ k.lead = park ∧ k.pace = none ∧
                k.saved = j.parts.map (fun p => (t.part p).saved ws)) ∧
              (u.job? j.id).map (fun k => (k.savedPace, k.occBase)) = some (j.pace, j.occurrences) ∧
              (∀ l : LinkId, (t.link l).owner = some j.id → (u.link l).owner = none) ∧
              (j.released park ≠ [] → exec .park s = .next (u.modMgt (fun m => { m with
                unloads := m.unloads ++ [{ desc := d, left := j.released park, parked := some (j.id, n) }] }))) ∧
              (j.released park = [] → exec .park s = .next ((u.logs Code.jobParked d.fn.val).complete d
                { status := Status.success, detail0 := BitVec.ofNat 64 n }))))))) ∧
  (∀ (s : State) (a b n : Nat), s.sram.ecc = [] → Mem.wf s.sram.mem = true →
    ∃ t : State, s.copyRange a b n = (t, true) ∧ t.log = s.log ∧ t.jobs = s.jobs ∧ t.parts = s.parts ∧
      ∀ x : Nat, Mem.get t.sram.mem x = if b ≤ x ∧ x < b + n then Mem.get s.sram.mem (x - b + a) else Mem.get s.sram.mem x)

/-- A TRANSFER completes BAD_DESCRIPTOR on a malformed field, then (that fields come first is the model's reading, log 78) NOT_PERMITTED when the
issuer does not own PART, STATE_CONFLICT when PART is not in SET, RUN or PARKED; with its whole range in one region with host-window it waits for
its header, any other range completes BAD_DESCRIPTOR and DMA_REGION is logged, at the claim as at the fetch. HEADER_CLAIM lets the first that can
claim its header go on, of the descriptors that wait and of the firmware update and tenant ring enables that wait among them, and does nothing where
none can. A TRANSFER with its header open and long enough then, the plots without errors, fills the plots from the buffer or the buffer from the
plots, and waits to close; a buffer too short closes BUFFER_SHORT with nothing moved. WINDOW_CLOSE posts, hands the header back and completes the
first descriptor whose data has ended, and a firmware update that waited for a load goes on: without a post, its header becomes HOST with the status
and the bytes moved, and its completion is given. PREDICATE of a partition in RUN writes the predicate bits under MASK and leaves the others, and
posts when POST_EN is set; where the post finds no room the job faults after the completion. -/
def Obligations.TransfersMoveThroughTheirBufferAndClose : Prop :=
  (∀ (s t : State) (d : Desc) (p : PartId), s.takeRe Op.transfer = some (d, t) → p = d.transferPart →
    (d.transferOk = false → exec .transfer s = .next (t.done d Status.badDescriptor)) ∧
    (d.transferOk = true → t.vfAllowed d [p] = false → exec .transfer s = .next (t.done d Status.notPermitted)) ∧
    (d.transferOk = true → t.vfAllowed d [p] = true →
      ((t.part p).st = .marks ∨ (t.part p).st = .hold ∨ (t.part p).st = .faulted → exec .transfer s = .next (t.conflict d)) ∧
      ((t.part p).st = .set ∨ (t.part p).st = .run ∨ (t.part p).st = .parked → ∀ m : AllocMap, (t.part p).mapA = some m → (t.part p).mapB = some m →
        (regionOf m.used d.partOffset 1 = none →
          ∃ r : Loc, exec .transfer s = .next ((t.logAt Code.dmaRegion d.fn.val r).complete d
            { status := Status.badDescriptor, fault := Code.dmaRegion })) ∧
        (∀ (n : Nat) (e : BitVec 128), regionOf m.used d.partOffset 1 = some (n, e) →
          (meHas e Kind.window = true → d.partOffset + d.length ≤ meStart e + meLen e →
            exec .transfer s = .next (t.pushOp (t.winOp d (some p)))) ∧
          (meHas e Kind.window = false ∨ meStart e + meLen e < d.partOffset + d.length →
            ∃ r : Loc, exec .transfer s = .next ((t.logAt Code.dmaRegion d.fn.val r).complete d
              { status := Status.badDescriptor, fault := Code.dmaRegion })))))) ∧
  (∀ s : State, (s.hiu.winOps.find? s.mayClaim = none → s.waiter = none → exec .headerClaim s = .next s) ∧
    (∀ x : HeaderWait, s.waiter = some x → (∀ o : WinOp, s.hiu.winOps.find? s.mayClaim = some o → o ∉ x.after) →
      (x.user = .firmware → exec .headerClaim s = .next s.fwProceed) ∧
      (∀ n : TRingId, x.user = .tring n → exec .headerClaim s = .next ((s.endWait (.tring n)).tringGo n x.root))) ∧
    (∀ o : WinOp, s.hiu.winOps.find? s.mayClaim = some o → (∀ x : HeaderWait, s.waiter = some x → o ∈ x.after) →
      exec .headerClaim s = .next (s.goOn o) ∧
      (o.desc.opcode = Op.transfer → ∀ (m : AllocMap) (n : Nat) (e : BitVec 128) (t : State) (q c : WinOp) (p : PartId),
        p = o.desc.transferPart → (s.part p).mapA = some m → (s.part p).mapB = some m → regionOf m.used o.desc.partOffset 1 = some (n, e) →
        meHas e Kind.window = true → o.desc.partOffset + o.desc.length ≤ meStart e + meLen e → s.openHeader o = .opened t q →
        c = { q with phase := .close 0 q.claim 0 false 0 0 0 } →
        (q.hdr.len < o.desc.length → exec .headerClaim s = .next ((t.winFault o.desc.fn Code.bufferShort).toClose q Status.bufferShort 0 false 0
          (BitVec.ofNat 64 o.desc.length) Code.bufferShort)) ∧
        (o.desc.length ≤ q.hdr.len → t.sram.ecc = [] → (∀ x ∈ t.hiu.winOps, x.desc = q.desc → x = q) →
          (o.desc.toHost = true → exec .headerClaim s = .next ((t.setOp q c).winGive c
            (Mem.read t.sram.mem (partBase p + o.desc.partOffset) o.desc.length) 0)) ∧
          (o.desc.toHost = false → ∀ bs : List Byte, t.winRead q.root o.desc.length (q.offset.toNat + 64) o.desc.length = (bs, none) →
            exec .headerClaim s = .next (((t.setOp q c).withMem (Mem.write t.sram.mem (partBase p + o.desc.partOffset) bs)).toClose c
              0 bs.length false (BitVec.ofNat 64 bs.length) 0 0)))))) ∧
  (∀ s : State, ((∀ x ∈ s.hiu.winOps, x.phase = .waiting ∨ ∃ k, x.phase = .reply k) → exec .windowClose s = .next s) ∧
    (∀ (o : WinOp) (st : Byte) (h : Option Nat) (n : Nat) (b : Bool) (d0 d1 : W64) (f : W16) (l1 l2 : List WinOp),
      s.hiu.winOps = l1 ++ o :: l2 → (∀ x ∈ l1, x.phase = .waiting ∨ ∃ k, x.phase = .reply k) → o.phase = .close st h n b d0 d1 f →
      exec .windowClose s = .next (if o.desc.opcode = Op.load then (s.closeOp o st h n b d0 d1 f).fwProceed else s.closeOp o st h n b d0 d1 f) ∧
      (∀ a : Nat, h = some a → o.desc.opcode ≠ Op.load → (o.desc.opcode ≠ Op.transfer ∨ o.desc.postEn = false ∨ st ≠ 0) →
        exec .windowClose s = .next (((s.dropOp o).writeHeader a o.hdr Owner.host st b n (if st.toNat / 16 = 1 then f else 0) o.desc.tag).complete
          o.desc { status := st, detail0 := d0, detail1 := d1, fault := f, part := b })))) ∧
  (∀ (s t : State) (d : Desc), s.takeRe Op.predicate = some (d, t) →
    (d.predicateOk = false → exec .predicate s = .next (t.done d Status.badDescriptor)) ∧
    (d.predicateOk = true → t.vfAllowed d [d.lead] = false → exec .predicate s = .next (t.done d Status.notPermitted)) ∧
    (d.predicateOk = true → t.vfAllowed d [d.lead] = true →
      ((t.part d.lead).st ≠ .run → exec .predicate s = .next (t.conflict d)) ∧
      (∀ (v : W16) (u : State), (∀ n < 16, v.getLsbD n = if (d.word 3).getLsbD (16 + n) then (d.word 3).getLsbD n else (t.part d.lead).pred.getLsbD n) →
        u = t.modPart d.lead (fun q => { q with pred := v }) → (t.part d.lead).st = .run →
        (d.postEn = false → exec .predicate s = .next (u.done d Status.success)) ∧
        (d.postEn = true → (u.part d.lead).hasRoom (refTile d.baton) (refQueue d.baton) = true →
          exec .predicate s = .next (((u.modPart d.lead (fun q => q.push (refTile d.baton) (refQueue d.baton)
            (mkEntry 0 (refId d.baton) (refGen d.baton) 0xFF))).settle d.lead).done d Status.success)) ∧
        (d.postEn = true → (u.part d.lead).hasRoom (refTile d.baton) (refQueue d.baton) = false →
          exec .predicate s = .next ((u.complete d { status := Status.jobFaulted, fault := Code.queueOverrun }).postOverrun d.lead)))))

/-- Each of the four completes BAD_DESCRIPTOR on a malformed field, then (that fields come first is the model's reading, log 79) NOT_PERMITTED from
a function that may not use it. A QUERY that names a
partition in HOLD is STATE_CONFLICT. A QUERY of this
package, and a LOG_READ, asked inside a ZSH frame complete with their result in the reply; from a submission ring they claim their header and
write the result to the buffer. A QUERY of another package's counters sends a request. The result of a LOG_READ holds 64 bytes for each entry
that the function may see. MGMT_READ and MGMT_WRITE of an address that is not a management address complete ADDRESS_INVALID, wait for a request
slot, and send their cells. -/
def Obligations.QueriesReadAndManagementDescriptorsSend : Prop :=
  (∀ (s t : State) (d : Desc), s.takeMc Op.query = some (d, t) →
    (s.queryOk d = false → exec .query s = .next (t.done d Status.badDescriptor)) ∧
    (s.queryOk d = true → t.gated d = true ∨ ((d.kind = 1 ∨ d.kind = 2) ∧ t.owns d.fn d.queryPart = false) →
      exec .query s = .next (t.done d Status.notPermitted)) ∧
    (s.queryOk d = true → t.gated d = false → (d.kind = 1 ∨ d.kind = 2) → t.owns d.fn d.queryPart = true → (t.part d.queryPart).st = .hold →
      exec .query s = .next (t.conflict d)) ∧
    (s.queryOk d = true → t.gated d = false → (d.kind = 1 ∨ d.kind = 2 → t.owns d.fn d.queryPart = true ∧ (t.part d.queryPart).st ≠ .hold) →
      (s.remoteQuery d = true → s.freeReq true = none → exec .query s = .next s) ∧
      (s.remoteQuery d = true → (s.freeReq true).isSome = true → s.inFrame d = true →
        ∃ u, t.openCounters d d.queryChip d.queryGroup d.queryPage = some u ∧ exec .query s = .next u) ∧
      (s.remoteQuery d = false → s.inFrame d = true →
        exec .query s = .next (t.completeWith d { status := 0, detail0 := BitVec.ofNat 64 (t.queryResult d).length, detail1 := 0 } (t.queryResult d))) ∧
      (∀ (o : WinOp) (w : State), s.remoteQuery d = false → s.inFrame d = false → o = t.winOp d none → w = t.pushOp o →
        (w.canClaim o = false → exec .query s = .next w) ∧
        (∀ (u : State) (q : WinOp), w.canClaim o = true → w.openHeader o = .opened u q → w.remoteQuery d = false →
          exec .query s = .next (u.winGive q (u.queryResult d) 0))))) ∧
  (∀ (s : State) (d : Desc) (p : PartId), d.kind = 0 → d.fn ≠ 0 → s.bound d.fn p = false →
    ((s.queryResult d).drop (16 * p.val)).take 16 = List.replicate 16 0) ∧
  (∀ (s t : State) (d : Desc), s.takeMc Op.logRead = some (d, t) →
    (s.logReadOk d = false → exec .logRead s = .next (t.done d Status.badDescriptor)) ∧
    (s.logReadOk d = true → t.gated d = true → exec .logRead s = .next (t.done d Status.notPermitted)) ∧
    (s.logReadOk d = true → t.gated d = false → s.inFrame d = true →
      exec .logRead s = .next (t.completeWith d { status := 0, detail0 := BitVec.ofNat 64 (t.logRead d).1.length
                                                  detail1 := BitVec.ofNat 64 (t.logRead d).2 } (t.logRead d).1)) ∧
    (∀ (o : WinOp) (w : State), s.logReadOk d = true → t.gated d = false → s.inFrame d = false → o = t.winOp d none → w = t.pushOp o →
      (w.canClaim o = false → exec .logRead s = .next w) ∧
      (∀ (u : State) (q : WinOp), w.canClaim o = true → w.openHeader o = .opened u q →
        exec .logRead s = .next (u.winGive q (u.logRead d).1 (BitVec.ofNat 64 (u.logRead d).2))))) ∧
  (∀ (s : State) (d : Desc), (s.logRead d).1.length % 64 = 0 ∧ (s.logRead d).1.length ≤ 64 * fld (d.word 2) 31 16 ∧ (s.logRead d).2 < 4096) ∧
  (∀ (s t : State) (d : Desc) (wr : Bool) (row : Instr), row = (if wr then .mgmtWrite else .mgmtRead) →
    s.takeMc (if wr then Op.mgmtWrite else Op.mgmtRead) = some (d, t) →
    (s.mgmtFieldsOk d = false → exec row s = .next (t.done d Status.badDescriptor)) ∧
    (s.mgmtFieldsOk d = true → d.fn ≠ 0 → exec row s = .next (t.done d Status.notPermitted)) ∧
    (s.mgmtFieldsOk d = true → d.fn = 0 →
      (s.mgmtAddress (d.word 2) (bit (d.word 3) 63) d.mgmtLen = none →
        exec row s = .next ((t.logs Code.addressInvalid).complete d { status := Status.badDescriptor, fault := Code.addressInvalid })) ∧
      (∀ base : W64, s.mgmtAddress (d.word 2) (bit (d.word 3) 63) d.mgmtLen = some base →
        (s.freeReq true = none → exec row s = .next s) ∧
        ((s.freeReq true).isSome = true →
          (s.inFrame d = true → wr = false → ∃ u, t.mgmtSend d base none = some u ∧ exec row s = .next u) ∧
          (∀ (p : PortId) (seq : W32) (r : ZshRequest), d.origin = .zsh p seq → s.svc.request? p seq = some r → r.channel = 0 → wr = true →
            d.mgmtLen ≤ (slice r.payload 64 d.mgmtLen).length →
            ∃ u, t.mgmtSend d base (some (slice r.payload 64 d.mgmtLen)) = some u ∧ exec row s = .next u) ∧
          (s.inFrame d = false → (t.pushOp (t.winOp d none)).canClaim (t.winOp d none) = false →
            exec row s = .next (t.pushOp (t.winOp d none))) ∧
          (s.inFrame d = false → (t.pushOp (t.winOp d none)).canClaim (t.winOp d none) = true → ∀ (u : State) (q : WinOp),
            (t.pushOp (t.winOp d none)).openHeader (t.winOp d none) = .opened u q →
            (wr = false → d.mgmtLen ≤ q.hdr.len → ∃ v, u.mgmtSend d base none = some v ∧ exec row s = .next v) ∧
            (∀ (v : State) (bs : List Byte), wr = true → u.winTake q d.mgmtLen = (v, some bs) →
              ∃ w, (v.setOp q { q with phase := .reply bs.length }).mgmtSend d base (some bs) = some w ∧ exec row s = .next w))))))

/-- Without the host's lanes no write of an ENABLE arrives. With them, for either kind of ring: 1 to ENABLE of an enabled ring changes nothing; a
BASE, DBL or size out of range, a line in a refused target, or a submission ring whose completion ring is disabled sets ERROR with cause 1 and logs;
else the ring is enabled at the line's HOST_COUNT, with no error. 0 to a submission ring's ENABLE turns off fetching, and its descriptors not yet
started, loads that wait among them, complete RING_ABORTED; a completion ring in use (a ring not stopped names it, a job armed, in RUN or PARKED, or
a partition in HOLD; log 49) stays enabled and RING_BUSY is logged. A doorbell line read by snoop or poll takes the new TAIL; a TAIL beyond the ring
size sets ERROR cause 2; the same count raises the unchanged reads; a ring stopped on an error takes none, but is read likewise. A host write to a
held line invalidates the copy, the read makes it Shared again. A completion ring's line is polled with at most one entry free (the model's reading
of R283, log 48). That waiting loads abort, the RETRY of what ORDER holds back, the opcode check after the firmware's (log 59), the lines that leave
the cache and the turn of the fetch (log 149) are the model's reading. INTERRUPT_DELAY sends the message for an unsignalled entry alone; one held
back by MSI-X Enable or a mask (log 38) sets its pending bit. DESCRIPTOR_FETCH of a ring out of turn, nothing held, does nothing. The ring in turn,
with one descriptor waiting, nothing held and host memory that answers, fetches the 64 bytes at BASE + 64 times HEAD modulo its size: HEAD rises by
one, the turn goes on, the descriptor is in flight and, without ORDER or with none in flight before it, goes to the queue of its opcode's unit, to
UNIT_RESET with the Management Complex in HOLD, to a RETRY when the firmware does not serve (then with ORDER too), to BAD_DESCRIPTOR when no unit
has the opcode. A read that fails sets ERROR with cause 3 and completes FETCH_FAILED. -/
def Obligations.RingsStartFollowTheirLineFetchAndStop : Prop :=
  ((∀ (s t : State) (f : FnId) (n : RingIx) (ws : HostWrites) (q : Sq), s.hostLanes = true → t = s.hostWrote ws →
    q = (t.fn f).sqs[n] →
    (q.enable = true → exec (.ringSqEnable f n ws) s = .next t) ∧
    (q.enable = false →
      (t.ringOk q.base q.dbl q.sizeLog2 64 = false ∨ (t.fn f).cqs[q.cq].enable = false →
        exec (.ringSqEnable f n ws) s = .next ((t.modSq f n (fun q => { q with error := true, errCause := 1 })).logs Code.ringSetupBad f.val)) ∧
      (∀ c : W32, t.ringOk q.base q.dbl q.sizeLog2 64 = true → (t.fn f).cqs[q.cq].enable = true → t.hostCount q.dbl = some c →
        ∃ u, exec (.ringSqEnable f n ws) s = .next u ∧ (u.fn f).sqs[n].enable = true ∧ (u.fn f).sqs[n].head = c ∧ (u.fn f).sqs[n].tail = c ∧
          (u.fn f).sqs[n].errCause = 0 ∧ (u.fn f).sqs[n].base = q.base ∧ (∀ m : RingIx, m ≠ n → (u.fn f).sqs[m] = (t.fn f).sqs[m]) ∧
          (u.fn f).cqs = (t.fn f).cqs ∧ (∀ g : FnId, g ≠ f → u.fn g = t.fn g) ∧ u.log = t.log))) ∧
  (∀ (s t : State) (f : FnId) (n : RingIx) (ws : HostWrites) (q : Cq), s.hostLanes = true → t = s.hostWrote ws →
    q = (t.fn f).cqs[n] →
    (q.enable = true → exec (.ringCqEnable f n ws) s = .next t) ∧
    (q.enable = false →
      (t.ringOk q.base q.dbl q.sizeLog2 32 = false →
        exec (.ringCqEnable f n ws) s = .next ((t.modCq f n (fun q => { q with error := true, errCause := 1 })).logs Code.ringSetupBad f.val)) ∧
      (∀ c : W32, t.ringOk q.base q.dbl q.sizeLog2 32 = true → t.hostCount q.dbl = some c → q.waiting = [] → q.overflow = false →
        ∃ u, exec (.ringCqEnable f n ws) s = .next u ∧ (u.fn f).cqs[n].enable = true ∧ (u.fn f).cqs[n].count = c ∧ (u.fn f).cqs[n].head = c ∧
          (u.fn f).cqs[n].errCause = 0 ∧ (∀ m : RingIx, m ≠ n → (u.fn f).cqs[m] = (t.fn f).cqs[m]) ∧ (u.fn f).sqs = (t.fn f).sqs ∧ u.log = t.log))) ∧
  (∀ (s : State) (f : FnId) (n : RingIx) (ws : HostWrites), s.hostLanes = false →
    ∀ row ∈ [Instr.ringSqEnable f n ws, .ringCqEnable f n ws, .ringSqDisable f n, .ringCqDisable f n], exec row s = .next s) ∧
  (∀ (s : State) (f : FnId) (n : RingIx), s.hostLanes = true →
    ((s.fn f).sqs[n].enable = false → exec (.ringSqDisable f n) s = .next s) ∧
    ((s.fn f).sqs[n].enable = true → (∀ d ∈ s.mgt.loads ++ s.hiu.mcQueue ++ s.hiu.reQueue, d.fromSq f n = false) →
      exec (.ringSqDisable f n) s = .next ((((s.fn f).sqs[n].held.foldl (fun u d => u.done d Status.ringAborted)
        (s.modSq f n (fun q => { q with enable := false, held := [] }))).sqSettle f n).dropLines)) ∧
    ((s.fn f).sqs[n].enable = true → ∃ (ds : List Desc) (u : State), exec (.ringSqDisable f n) s = .next ((u.sqSettle f n).dropLines) ∧
      (∀ d : Desc, d ∈ ds ↔ (d.fromSq f n = true ∧ d ∈ s.mgt.loads ++ s.hiu.mcQueue ++ s.hiu.reQueue) ∨ d ∈ (s.fn f).sqs[n].held) ∧
      u.mgt.loadHeld = s.mgt.loadHeld ∧ (∃ v : State, u = ds.foldl (fun w d => w.done d Status.ringAborted) v ∧
        (∀ d ∈ v.mgt.loads ++ v.hiu.mcQueue ++ v.hiu.reQueue, d.fromSq f n = false))) ∧
    ((s.fn f).cqs[n].enable = false → exec (.ringCqDisable f n) s = .next s) ∧
    ((s.fn f).cqs[n].enable = true →
      ((∃ m : RingIx, (s.fn f).sqs[m].cq = n ∧ (s.fn f).sqs[m].stoppedNow = false) ∨
        (∃ j ∈ s.jobs, j.fn = f ∧ j.eventCq = n ∧ (j.phase = .armed ∨ j.phase = .run ∨ j.phase = .parked)) ∨
        (∃ p : PartId, (s.part p).st = .hold ∧ (s.part p).heldCq = some (f, n)) →
        exec (.ringCqDisable f n) s = .next (s.logs Code.ringBusy f.val)) ∧
      ((∀ m : RingIx, (s.fn f).sqs[m].cq = n → (s.fn f).sqs[m].stoppedNow = true) →
        (∀ j ∈ s.jobs, j.fn = f → j.eventCq = n → j.phase ≠ .armed ∧ j.phase ≠ .run ∧ j.phase ≠ .parked) →
        (∀ p : PartId, (s.part p).st = .hold → (s.part p).heldCq ≠ some (f, n)) →
        exec (.ringCqDisable f n) s = .next ((s.modCq f n (fun q => { q with enable := false })).dropLines)))) ∧
  (∀ (s t : State) (f : FnId) (k : Bool) (n : RingIx) (ws : HostWrites), t = s.hostWrote ws →
    (∀ x ∈ s.hiu.lines, (∃ w ∈ ws, x.1 ≤ w.1 ∧ w.1 < x.1 + 64) → (x.1, .invalid) ∈ t.hiu.lines) ∧
    exec (.doorbellSnoop f k n ws) s = .next (if t.snoops f then
      (t.modHiu (fun h => { h with lines := h.lines.map (fun x => if x.1 == t.lineOf f k n then (t.lineOf f k n, .invalid) else x) })).readLine f k n else t) ∧
    (t.snoops f = true ∨ t.hiu.port ≠ .up ∨ (k = true ∧ 1 < (t.fn f).cqs[n].free) → exec (.doorbellPoll f k n ws) s = .next t) ∧
    (t.snoops f = false → t.hiu.port = .up → k = false ∨ (t.fn f).cqs[n].free ≤ 1 →
      exec (.doorbellPoll f k n ws) s = .next (t.readLine f k n))) ∧
  (∀ (s : State) (f : FnId) (n : RingIx) (q : Sq) (c : W32), q = (s.fn f).sqs[n] → q.enable = true → q.errCause = 0 → s.hostCount q.dbl = some c →
    (s.snoops f = true → c = q.seen → (s.hiu.lines.any (·.1 == q.dbl.toNat) = true ∨ s.hiu.lines.length < 2048) →
      (q.dbl.toNat, .shared) ∈ (s.readLine f false n).hiu.lines) ∧
    (c = q.seen → ((s.readLine f false n).fn f).sqs[n].unchanged = q.unchanged + 1 ∧ ((s.readLine f false n).fn f).sqs[n].tail = q.tail) ∧
    (c ≠ q.seen → ((s.readLine f false n).fn f).sqs[n].tail = c ∧
      ((c - q.head).toNat ≤ q.size → ((s.readLine f false n).fn f).sqs[n].errCause = 0 ∧ (s.readLine f false n).log = s.log) ∧
      (q.size < (c - q.head).toNat → ((s.readLine f false n).fn f).sqs[n].errCause = 2 ∧ ((s.readLine f false n).fn f).sqs[n].error = true))) ∧
  (∀ (s : State) (f : FnId) (n : RingIx) (q : Sq), q = (s.fn f).sqs[n] → q.enable = true → q.errCause ≠ 0 →
    ((s.readLine f false n).fn f).sqs[n].tail = q.tail ∧ ((s.readLine f false n).fn f).sqs[n].errCause = q.errCause ∧
    (s.hostCount q.dbl = none ∨ s.hostCount q.dbl = some q.seen → ((s.readLine f false n).fn f).sqs[n].unchanged = q.unchanged + 1) ∧
    (s.hostCount q.dbl = none → q.readFail = false → (s.readLine f false n).log = (s.logs Code.dblReadFail f.val).log) ∧
    (∀ c : W32, s.hostCount q.dbl = some c → c ≠ q.seen → ((s.readLine f false n).fn f).sqs[n].seen = c ∧
      ((s.readLine f false n).fn f).sqs[n].unchanged = 0) ∧
    (s.snoops f = true → (s.hostCount q.dbl).isSome = true →
      (s.hiu.lines.any (·.1 == q.dbl.toNat) = true ∨ s.hiu.lines.length < 2048) → (q.dbl.toNat, .shared) ∈ (s.readLine f false n).hiu.lines)) ∧
  (∀ (s : State) (f : FnId) (n : RingIx), let q := (s.fn f).cqs[n]
    (q.irqEn = true → 0 < q.sinceMsg → exec (.interruptDelay f n) s = .next ((s.modCq f n (fun q => { q with sinceMsg := 0 })).msix f q.vec)) ∧
    (q.irqEn = false ∨ q.sinceMsg = 0 → exec (.interruptDelay f n) s = .next s)) ∧
  (∀ (s : State) (f : FnId) (v : Byte),
    (bit s.hiu.config.msixEnable f.val = true → bit s.hiu.config.msixMasked f.val = false → bit (s.fn f).msixMask v.toNat = false →
      s.msix f v = s.modHiu (fun h => { h with msix := h.msix ++ [(f, v)] })) ∧
    (bit s.hiu.config.msixEnable f.val = false ∨ bit s.hiu.config.msixMasked f.val = true ∨ bit (s.fn f).msixMask v.toNat = true →
      s.msix f v = s.modFn f (fun x => { x with msixPend := setBitTo x.msixPend v.toNat true })))) ∧
  ((∀ (s : State) (f : FnId) (n : RingIx),
    (s.fetchDue = some (f, n) → s.fetchable f n = true) ∧
    (s.fetchDue = none → s.fetchable f n = false) ∧
    (s.fetchDue ≠ some (f, n) → (s.fn f).sqs[n].held = [] → exec (.descriptorFetch f n) s = .next s)) ∧
  (∀ (s u : State) (f : FnId) (n : RingIx) (q : Sq) (bs : List Byte) (d : Desc), q = (s.fn f).sqs[n] → s.fetchDue = some (f, n) → q.tail = q.head + 1 →
    q.held = [] → s.hostRead (q.base.toNat + 64 * (q.head.toNat % q.size)) 64 = some bs →
    d = { fn := f, origin := .ring f n, entry := q.head, w := Vector.ofFn (fun i : Fin 8 => BitVec.ofNat 64 (leAt bs (8 * i.val) 8)) } →
    u = ((s.modSq f n (fun q => { q with head := q.head + 1, inflight := q.inflight + 1, held := [d] })).turnPast f n).sqStatus f n →
    (s.inHold .managementComplex = true → Op.ofMc d.opcode = true → d.order = false ∨ q.inflight = 0 →
      exec (.descriptorFetch f n) s = .next ((u.modSq f n (fun q => { q with held := [] })).done d Status.unitReset)) ∧
    (s.inHold .managementComplex = false → s.mcRetries = true → Op.ofMc d.opcode = true →
      exec (.descriptorFetch f n) s = .next ((u.modSq f n (fun q => { q with held := [] })).done d Status.retry)) ∧
    (d.order = true → 0 < q.inflight → (s.mcRetries = false ∨ s.inHold .managementComplex = true ∨ Op.ofMc d.opcode = false) →
      exec (.descriptorFetch f n) s = .next u) ∧
    (d.order = false ∨ q.inflight = 0 → s.mcRetries = false ∨ s.inHold .managementComplex = true ∨ Op.ofMc d.opcode = false →
      exec (.descriptorFetch f n) s = .next ((u.modSq f n (fun q => { q with held := [] })).deliver d))) ∧
  (∀ (s : State) (f : FnId) (n : RingIx) (q : Sq), q = (s.fn f).sqs[n] → s.fetchDue = some (f, n) → q.held = [] →
    s.hostRead (q.base.toNat + 64 * (q.head.toNat % q.size)) 64 = none →
    exec (.descriptorFetch f n) s = .next (((((s.modSq f n (fun q => { q with error := true, errCause := 3, stopped := q.inflight == 0 })).logs
      Code.fetchFailed f.val).postCq f q.cq (({ status := Status.fetchFailed, detail0 := BitVec.ofNat 64 q.head.toNat : Ans }).entry n.val 0
        (some n))).sqStatus f n).turnPast f n)) ∧
  (∀ (s : State) (d : Desc), let op := d.opcode
    (op ∈ [Op.load, Op.unload, Op.start, Op.park, Op.resume, Op.query, Op.logRead, Op.partReset, Op.mgmtRead, Op.mgmtWrite] →
      (s.inHold .managementComplex = true → s.deliver d = s.done d Status.unitReset) ∧
      (s.inHold .managementComplex = false → s.boot.mode = .running → s.boot.stage = .idle →
        s.deliver d = s.modHiu (fun h => { h with mcQueue := h.mcQueue ++ [d] })) ∧
      (s.inHold .managementComplex = false → s.boot.mode ≠ .running ∨ s.boot.stage ≠ .idle → s.deliver d = s.done d Status.retry)) ∧
    (op ∈ [Op.endD, Op.hurdle, Op.transfer, Op.predicate] → s.deliver d = s.modHiu (fun h => { h with reQueue := h.reQueue ++ [d] })) ∧
    (op ∉ [Op.load, Op.unload, Op.start, Op.park, Op.resume, Op.query, Op.logRead, Op.partReset, Op.mgmtRead, Op.mgmtWrite, Op.endD, Op.hurdle,
      Op.transfer, Op.predicate] → s.deliver d = s.done d Status.badDescriptor)))

/-- Without the host's lanes neither ENROLL nor REVOKE arrives. With them, ENROLL of a slot, PF0's SETUP_LOCK clear, the slot EMPTY and its key a
point of the P-384 curve, makes the slot ENROLLED and changes nothing else; any other ENROLL only logs SETUP_REJECTED. A write of 4 bytes, or of 8,
inside MGT_KEYk of an EMPTY slot with the lock clear replaces those bytes of the key, and any other such write only logs SETUP_REJECTED. REVOKE at
any time makes the slot REVOKED, and every command that is no cold reset (and no standby power event) leaves a REVOKED slot REVOKED. A write of
MGT_KEY_CTRL with ENROLL alone is that ENROLL, and one with REVOKE, with ENROLL or without, is that REVOKE. -/
def Obligations.KeySlotsAreEnrolledAndRevoked : Prop :=
  (∀ (s : State) (k : KeySlotIx) (x y : Nat), s.hostLanes = true → x = beNat (natLE 48 s.mgt.keys[k].x.toNat) → y = beNat (natLE 48 s.mgt.keys[k].y.toNat) →
    ((s.fn 0).setupLock = false ∧ s.mgt.keys[k].state = .empty ∧ x < ecP ∧ y < ecP ∧ y ^ 2 % ecP = (x ^ 3 + (ecP - 3) * x + ecB) % ecP →
      exec (.enroll k) s = .next (s.modMgt (fun m => { m with keys := vmod m.keys k (fun q => { q with state := .enrolled }) }))) ∧
    (¬ ((s.fn 0).setupLock = false ∧ s.mgt.keys[k].state = .empty ∧ x < ecP ∧ y < ecP ∧ y ^ 2 % ecP = (x ^ 3 + (ecP - 3) * x + ecB) % ecP) →
      exec (.enroll k) s = .next (s.logs Code.setupRejected))) ∧
  (∀ (s : State) (k : KeySlotIx) (o n : Nat) (size : Fin 9) (off : BitVec 20) (v : W64), s.hostLanes = true → (n = 4 ∧ size = 4 ∨ n = 8 ∧ size = 8) →
      o % n = 0 → o < 96 →
    off.toNat = 0x30400 + 0x80 * k.val + o → v.toNat < 2 ^ (8 * n) →
    ((s.fn 0).setupLock = true ∨ s.mgt.keys[k].state ≠ .empty → exec (.registerWrite 0 off size v) s = .next (s.logs Code.setupRejected)) ∧
    ((s.fn 0).setupLock = false → s.mgt.keys[k].state = .empty →
      ∃ t, exec (.registerWrite 0 off size v) s = .next t ∧ t.log = s.log ∧ t.mgt.keys[k].state = .empty ∧
        (∀ j : KeySlotIx, j ≠ k → t.mgt.keys[j] = s.mgt.keys[j]) ∧
        ∀ i < 96, leAt (natLE 48 t.mgt.keys[k].x.toNat ++ natLE 48 t.mgt.keys[k].y.toNat) i 1 =
          if o ≤ i ∧ i < o + n then v.toNat / 2 ^ (8 * (i - o)) % 256
          else leAt (natLE 48 s.mgt.keys[k].x.toNat ++ natLE 48 s.mgt.keys[k].y.toNat) i 1)) ∧
  (∀ (s : State) (k : KeySlotIx), (s.hostLanes = false → exec (.enroll k) s = .next s ∧ exec (.revoke k) s = .next s) ∧ (s.hostLanes = true →
    exec (.revoke k) s = .next (s.modMgt (fun m => { m with keys := vmod m.keys k (fun q => { q with state := .revoked }) })))) ∧
  (∀ (c : Instr) (s t : State) (k : KeySlotIx), s.Inv → coldStarts c = false → s.mgt.keys[k].state = .revoked → exec c s = .next t →
    t.mgt.keys[k].state = .revoked) ∧
  (∀ (s : State) (k : KeySlotIx) (v : W64), v.toNat < 2 ^ 32 → v.toNat % 8 = k.val →
    (v.getLsbD 30 = true → exec (.registerWrite 0 0x30388 4 v) s = exec (.revoke k) s) ∧
    (v.getLsbD 30 = false → v.getLsbD 31 = true → exec (.registerWrite 0 0x30388 4 v) s = exec (.enroll k) s))

/-- With no change pending, a write of PTP_CTRL with STEP_GO or SET_GO alone lets that change wait for its tick, with FORCE as written; with both
GO bits it only logs SETUP_REJECTED; with neither it changes nothing, FORCE or not. The rows STEP_GO and SET_GO are those writes. While a step, a
set or an increment waits, a write of PTP_STEP or PTP_SET_SEC (of 8 bytes, or of the high half that commits it), of PTP_SET_NS or of PTP_CTRL
leaves the clock as it was and logs SETUP_REJECTED. A PTP_INCR in its range joins what waits; its low half is then the one last committed. All this
while the host's lanes work; without them none of it arrives. -/
def Obligations.TimeChangesWaitForTheirTick : Prop :=
  (∀ (s : State) (v : W64), s.hostLanes = true → v.toNat < 2 ^ 32 → s.clock.change = none → s.clock.incrNext = none →
    (v.getLsbD 31 = true → v.getLsbD 30 = false →
      exec (.registerWrite 0 0x44034 4 v) s = .next (s.modClock (fun c => { c with change := some (.step (v.getLsbD 29)) }))) ∧
    (v.getLsbD 31 = false → v.getLsbD 30 = true →
      exec (.registerWrite 0 0x44034 4 v) s = .next (s.modClock (fun c => { c with change := some (.set (v.getLsbD 29)) }))) ∧
    (v.getLsbD 31 = true → v.getLsbD 30 = true → exec (.registerWrite 0 0x44034 4 v) s = .next (s.logs Code.setupRejected)) ∧
    (v.getLsbD 31 = false → v.getLsbD 30 = false → exec (.registerWrite 0 0x44034 4 v) s = .next s)) ∧
  (∀ (s : State) (force : Bool), s.hostLanes = true → s.clock.change = none → s.clock.incrNext = none →
    exec (.stepGo force) s = .next (s.modClock (fun c => { c with change := some (.step force) })) ∧
    exec (.setGo force) s = .next (s.modClock (fun c => { c with change := some (.set force) }))) ∧
  (∀ (s : State) (v : W64) (force : Bool), s.hostLanes = true → s.clock.change.isSome = true ∨ s.clock.incrNext.isSome = true →
    exec (.stepGo force) s = .next (s.logs Code.setupRejected) ∧ exec (.setGo force) s = .next (s.logs Code.setupRejected) ∧
    (∀ off ∈ [(0x44030 : BitVec 20), 0x44034], v.toNat < 2 ^ 32 → exec (.registerWrite 0 off 4 v) s = .next (s.logs Code.setupRejected)) ∧
    (∀ off ∈ [(0x44020 : BitVec 20), 0x44028], (∃ hs : List HeldHalf, exec (.registerWrite 0 off 8 v) s =
        .next ((s.modMgt (fun m => { m with committed := hs })).logs Code.setupRejected)) ∧
      (v.toNat < 2 ^ 32 → ∃ hs ks : List HeldHalf, exec (.registerWrite 0 (off + 4) 4 v) s =
        .next ((s.modMgt (fun m => { m with held := hs, committed := ks })).logs Code.setupRejected)))) ∧
  (∀ (s : State) (v : W64) (x : BitVec 40), s.hostLanes = true → x.toNat = v.toNat % 2 ^ 40 →
    ∃ hs : List HeldHalf, heldAt hs 0 0x44000 = some (v.setWidth 32) ∧
      (0x0380000000 ≤ x.toNat → x.toNat ≤ 0x0480000000 →
        exec (.ptpIncr v) s = .next ((s.modMgt (fun m => { m with committed := hs })).modClock (fun c => { c with incrNext := some x }))) ∧
      (x.toNat < 0x0380000000 ∨ 0x0480000000 < x.toNat →
        exec (.ptpIncr v) s = .next ((s.modMgt (fun m => { m with committed := hs })).logs Code.setupRejected))) ∧
  (∀ (s : State) (v : W64) (force : Bool), s.hostLanes = false → ∀ row ∈ [Instr.stepGo force, .setGo force, .ptpIncr v], exec row s = .next s)

/-- Without the host's lanes none of these rows arrives. With them, SETUP_LOCK locks a function, once; PF0's waits for a valid topology and chip id,
and a locked register is left with REG_LOCKED. HIU_DBL_MODE of an unlocked function takes the mode and leaves its rings that are not enabled;
without CXL.cache, or when it leaves snoop mode, all its rings stay, and the lines that no enabled ring in snoop mode names leave the cache.
HIU_BINDp takes its four slots unless one names a VF above 32 or one twice, or drops the owner of a partition not in MARKS: then it only logs
SETUP_REJECTED. PLAN_SLICEn that a job on the package uses logs SLICE_IN_USE, and a valid record out of range is rejected; its low half is then the
one last committed. MGT_TOPOLOGY, MGT_CHIP_ID and MGT_MACHINE_ID take a new value only with the lock clear, the value in range, and no partition in
SET, RUN, HOLD or PARKED; every link in IDENTIFY or a later stage (MISWIRED and FAULT among them) then goes down, and a link before IDENTIFY, or
down, stays. An equal value changes nothing. -/
def Obligations.SetupRegistersFollowTheLockAndTheirRanges : Prop :=
  (∀ (s : State) (f : FnId) (p : PartId) (n : Fin 8) (b : Bool) (v : W32) (w : W64), s.hostLanes = false →
    ∀ row ∈ [Instr.setupLock f, .hiuDblMode f b, .hiuBind p v, .planSlice n w, .mgtTopology v, .mgtChipId v, .mgtMachineId v], exec row s = .next s) ∧
  (∀ (s : State) (f : FnId), s.hostLanes = true →
    ((s.fn f).setupLock = true → exec (.setupLock f) s = .next (s.logs Code.regLocked f.val)) ∧
    ((s.fn f).setupLock = false → (f = 0 ∧ s.idsValid = false → exec (.setupLock f) s = .next (s.logs Code.setupRejected)) ∧
      (f ≠ 0 ∨ s.idsValid = true → exec (.setupLock f) s = .next (s.modFn f (fun x => { x with setupLock := true })))) ∧
    (∀ b : Bool, ((s.fn f).setupLock = true → exec (.hiuDblMode f b) s = .next (s.logs Code.regLocked f.val)) ∧
      ((s.fn f).setupLock = false → (s.fn f).dblMode = b → exec (.hiuDblMode f b) s = .next s) ∧
      ((s.fn f).setupLock = false → (s.fn f).dblMode ≠ b →
        ∃ t, exec (.hiuDblMode f b) s = .next t ∧ (t.fn f).dblMode = b ∧ (t.fn f).winRoot = (s.fn f).winRoot ∧
          (∀ g : FnId, g ≠ f → t.fn g = s.fn g) ∧ (∀ n : RingIx, (s.fn f).sqs[n].enable = false → (t.fn f).sqs[n] = (s.fn f).sqs[n]) ∧
          (b = false ∨ s.hiu.cxlCache = false ∨ s.hiu.port ≠ .up → (t.fn f).sqs = (s.fn f).sqs ∧ (t.fn f).cqs = (s.fn f).cqs) ∧
          (b = false → t.log = s.log ∧ t.hiu.lines = (t.hiu.lines).filter (fun x => t.lineNamed x.1))))) ∧
  (∀ (s : State) (p : PartId) (v : W32), s.hostLanes = true → let slots :=
      ([v.toNat % 64, v.toNat / 2 ^ 8 % 64, v.toNat / 2 ^ 16 % 64, v.toNat / 2 ^ 24 % 64]).filter (· ≠ 0)
    ((∃ n ∈ slots, 32 < n) ∨ ¬ slots.Nodup ∨ ((s.part p).shown ≠ .marks ∧ ∃ f : FnId, (s.part p).owner = some f ∧ f ≠ 0 ∧ f.val ∉ slots) →
      exec (.hiuBind p v) s = .next (s.logs Code.setupRejected)) ∧
    ((∀ n ∈ slots, n ≤ 32) → slots.Nodup → ((s.part p).shown = .marks ∨ ∀ f : FnId, (s.part p).owner = some f → f = 0 ∨ f.val ∈ slots) →
      exec (.hiuBind p v) s = .next (s.modHiu (fun h => { h with bind := vset h.bind p (v &&& 0x3F3F3F3F) })))) ∧
  (∀ (s : State) (n : Fin 8) (v : W64), s.hostLanes = true → let w := v &&& 0xBF0000FFFF001FFF
    ∃ hs : List HeldHalf, ∃ u : State, heldAt hs 0 (BitVec.ofNat 20 (0x11000 + 8 * n.val)) = some (v.setWidth 32) ∧
      u = s.modMgt (fun m => { m with committed := hs }) ∧
      ((∃ j ∈ s.jobs, n ∈ j.slices) → exec (.planSlice n v) s = .next (u.logs Code.sliceInUse)) ∧
      ((∀ j ∈ s.jobs, n ∉ j.slices) → (sliceValid w = true → s.sliceOk w = false → exec (.planSlice n v) s = .next (u.logs Code.setupRejected)) ∧
        (sliceValid w = false ∨ s.sliceOk w = true →
          exec (.planSlice n v) s = .next (u.modMgt (fun m => { m with slices := vset m.slices n w }))))) ∧
  (∀ (s : State) (row : Instr) (new old : W32) (ok : Bool) (g : Mgt → Mgt) (v : W32), s.hostLanes = true →
    ((row, new, old, ok, g) : Instr × W32 × W32 × Bool × (Mgt → Mgt)) =
        (.mgtMachineId v, v, s.mgt.machineId, true, fun m => { m with machineId := v }) ∨
      (row, new, old, ok, g) = (.mgtChipId v, v &&& 0x80001FFF, s.mgt.chipId,
        !(v.getLsbD 31) || (s.topoValid && s.inExtents (v.setWidth 13)), fun m => { m with chipId := v &&& 0x80001FFF }) ∨
      (row, new, old, ok, g) = (.mgtTopology v, v &&& 0x8F3F1F1F, s.mgt.topology,
        !(v.getLsbD 31) || (extentOk (v.toNat % 32) 16 && extentOk (v.toNat / 2 ^ 8 % 32) 16 && extentOk (v.toNat / 2 ^ 16 % 64) 32
          && decide (v.toNat / 2 ^ 24 % 16 < v.toNat % 32)), fun m => { m with topology := v &&& 0x8F3F1F1F }) →
    ((s.fn 0).setupLock = true → exec row s = .next (s.logs Code.regLocked)) ∧
    ((s.fn 0).setupLock = false →
      (new = old → exec row s = .next s) ∧
      (new ≠ old → ok = false ∨ (∃ p : PartId, (s.part p).shown ∈ [PState.set, .run, .hold, .parked]) → exec row s = .next (s.logs Code.setupRejected)) ∧
      (new ≠ old → ok = true → (∀ p : PartId, (s.part p).shown = .marks ∨ (s.part p).shown = .faulted) → s.jobs = [] →
        ∃ t, exec row s = .next t ∧ t.mgt.topology = (g s.mgt).topology ∧ t.mgt.chipId = (g s.mgt).chipId ∧ t.mgt.machineId = (g s.mgt).machineId ∧
          (∀ l : LinkId, (s.link l).stage ∈ [Stage.off, .listen, .align, .down] → (t.link l).stage = (s.link l).stage) ∧
          (∀ l : LinkId, (s.link l).stage ∈ [Stage.identify, .train, .check, .up, .miswired, .fault] → (t.link l).stage = .down))))

/-- Without the host's lanes no register access arrives. With them: REGISTER_WRITE of a size other than 4 and 8 bytes, or not aligned, only logs
REG_ACCESS; a VF's write at 0x1_0000 or above changes nothing; a write outside a stated range only logs SETUP_REJECTED. A low half written and then
a high half commit one 64-bit value. A read of PTP_TIME_NS gives NS and latches SEC and FRAC. A read of PTP_SPn_TXTS0 takes the oldest stamp, or
reads zero. A read of PTP_PACE_COUNT freezes PTP_PACE_TIME until that is read. DEVICE_TIME_TICK advances the time by PTP_INCR exactly; a step within
the threshold, or forced, is added first, with CLOCK_STEP logged. LOG_WRITE moves the entry that is due, of those that reached the queue in the beat
of the oldest the first by source unit, tile, die and link, to LOG_HEAD with the next SEQ, pinned when its class is 4 or 5 and fewer than 32 are,
and leaves every other slot. LOG_HOLDOFF_EXPIRY ends one timer of its scope. -/
def Obligations.RegistersTimeAndLogAdvance : Prop :=
  (∀ (s : State) (f : FnId) (off : BitVec 20) (size : Fin 9) (v : W64), (s.hostLanes = false → exec (.registerWrite f off size v) s = .next s) ∧
      (s.hostLanes = true →
    ((size ≠ 4 ∧ size ≠ 8) ∨ off.toNat % size.val ≠ 0 → exec (.registerWrite f off size v) s = .next (s.logs Code.regAccess f.val)) ∧
    ((size = 4 ∨ size = 8) → off.toNat % size.val = 0 → f ≠ 0 → 0x10000 ≤ off.toNat → exec (.registerWrite f off size v) s = .next s))) ∧
  (∀ (s : State) (v : W64), s.hostLanes = true → v.toNat < 2 ^ 32 →
    ((v.toNat % 8 = 0 → exec (.registerWrite 0 0x10000 4 v) s = .next (s.logs Code.setupRejected)) ∧
     (v.toNat % 8 ≠ 0 → exec (.registerWrite 0 0x10000 4 v) s = .next (s.modPace (fun p => { p with stretchClass := v.setWidth 3 }))) ∧
     exec (.registerWrite 0 0x10008 4 v) s = .next (s.modPace (fun p => { p with floor := v.setWidth 3 })) ∧
     (v.toNat % 1024 = 0 ∨ 1000 < v.toNat % 1024 → exec (.registerWrite 0 0x13000 4 v) s = .next (s.logs Code.setupRejected)) ∧
     (v.toNat % 1024 ≠ 0 → v.toNat % 1024 ≤ 1000 →
       exec (.registerWrite 0 0x13000 4 v) s = .next (s.modInfield (fun i => { i with cellTimeout := v.setWidth 10 }))))) ∧
  (∀ (s t : State) (lo hi : W64), s.hostLanes = true → lo.toNat < 2 ^ 32 → hi.toNat < 2 ^ 32 → exec (.registerWrite 0 0x30030 4 lo) s = .next t →
    t.boot.fwOffset = s.boot.fwOffset ∧
    ∃ u, exec (.registerWrite 0 0x30034 4 hi) t = .next u ∧ u.boot.fwOffset.toNat = hi.toNat * 2 ^ 32 + lo.toNat ∧ u.log = s.log) ∧
  (∀ (s : State) (p : PortId) (b : Bool), s.hostLanes = false → ∀ row ∈ [Instr.ptpTimeNs, .ptpSpTxts0 p, .ptpPaceCount b], exec row s = .next s) ∧
  (∀ s : State, s.hostLanes = true → ∃ t, exec .ptpTimeNs s = .next t ∧ t.clock.readData.toNat = s.clock.ns.toNat ∧ t.clock.latSec = s.clock.sec ∧
    t.clock.latFrac = s.clock.frac ∧ t.clock.units = s.clock.units ∧
    t.readWord 0 0x44010 = s.clock.sec.setWidth 32 ∧ t.readWord 0 0x44018 = s.clock.frac) ∧
  (∀ (s : State) (p : PortId), s.hostLanes = true →
    (s.clock.stamps[p].entries = [] → exec (.ptpSpTxts0 p) s = .next (s.modClock (fun c => { c with readData := 0 }))) ∧
    (∀ (e : TxStamp) (rest : List TxStamp), s.clock.stamps[p].entries = e :: rest → ∃ t, exec (.ptpSpTxts0 p) s = .next t ∧
      t.clock.stamps[p].entries = rest ∧ t.clock.stamps[p].latched = e ∧
      t.clock.readData.toNat = 2 ^ 31 + e.sub.val * 2 ^ 16 + e.id.toNat ∧ t.clock.units = s.clock.units)) ∧
  (∀ s : State, s.hostLanes = true → exec (.ptpPaceCount false) s = .next (s.modClock (fun c => { c with paceFrozen := true, readData := c.paceCount })) ∧
    exec (.ptpPaceCount true) s = .next (s.modClock (fun c => { c with paceFrozen := false, readData := c.paceTime }))) ∧
  (∀ s : State, (s.power.porReleased = false → exec .deviceTimeTick s = .next s) ∧
    (s.power.porReleased = true → ∀ n : BitVec 40, n = s.clock.incrNext.getD s.clock.incr →
      (s.clock.change = none → (s.clock.total + 1000) / 10 ^ 9 < 2 ^ 64 →
        ∃ t, exec .deviceTimeTick s = .next t ∧ t.clock.units = s.clock.units + n.toNat ∧ t.clock.incr = n ∧ t.clock.incrNext = none ∧ t.log = s.log) ∧
      (∀ (force : Bool) (off : Int) (k : Nat), s.clock.change = some (.step force) → off = s.clock.step.toInt → (s.clock.total : Int) + off = k →
        (k + 1000) / 10 ^ 9 < 2 ^ 64 →
        (force = true ∨ off.natAbs ≤ s.clock.thresh.toNat →
          ∃ t, exec .deviceTimeTick s = .next t ∧ t.clock.units = s.clock.units + off * 2 ^ 32 + n.toNat ∧ t.clock.change = none ∧
            t.log = ((s.modClock (fun c => c.put k)).logs Code.clockStep).log ∧ t.clock.jumpRefused = s.clock.jumpRefused) ∧
        (force = false → s.clock.thresh.toNat < off.natAbs → (s.clock.total + 1000) / 10 ^ 9 < 2 ^ 64 →
          ∃ t, exec .deviceTimeTick s = .next t ∧ t.clock.units = s.clock.units + n.toNat ∧ t.clock.change = none ∧
            t.log = (s.logs Code.jumpRefused).log ∧ t.clock.jumpRefused = true)))) ∧
  (∀ s : State, (s.log.input = [] → exec .logWrite s = .next s) ∧
    (∀ (o : LogEntry) (rest : List LogEntry), s.log.input = o :: rest → ∃ e : LogEntry, s.log.due = some e ∧ e ∈ s.log.input ∧ e.rank ≤ o.rank ∧
      (e = o ∨ (o.beat ≠ none ∧ e.beat = o.beat)) ∧ (∀ l : List LogEntry, l <+: rest → (∀ x ∈ l, o.beat ≠ none ∧ x.beat = o.beat) → ∀ x ∈ l, e.rank ≤ x.rank)) ∧
    (∀ (e : LogEntry) (b : Bool), s.log.due = some e →
      b = decide ((faultClass e.code = 4 ∨ faultClass e.code = 5) ∧ s.log.pinned.toNat < 32) →
      ∃ t, exec .logWrite s = .next t ∧ t.log.input = s.log.input.erase e ∧ t.log.seq = s.log.seq + 1 ∧
        t.log.slot? s.log.head.toNat = some { e with seq := s.log.seq, pinned := b } ∧
        (∀ n : Nat, n ≠ s.log.head.toNat → t.log.slot? n = s.log.slot? n) ∧ t.log.pinned = (if b then s.log.pinned + 1 else s.log.pinned) ∧
        (b = true → t.power.alertStatus.getLsbD 3 = true) ∧ (b = false → t.power = s.power) ∧ t.parts = s.parts ∧ t.jobs = s.jobs ∧ t.links = s.links)) ∧
  (∀ (s : State) (x : HoldoffScope), exec (.logHoldoffExpiry x) s = .next (s.modLog (fun g => { g with holdoffs := g.holdoffs.erase x })))

/-- With the standby reset released and the lands connected, each I3C command leaves its reply and, but for writes and resets, nothing else
changed: PWR_ registers 0 to 4, sensors 0 to 63 (0x8000 when failed), log slots 0 to 4,095 (zeros when empty), and the stage of each link; an
index out of range, and an unknown command, is BAD_DESCRIPTOR. PWR_CTRL takes a LIMIT of 500 to 2,500 and rejects others. A reset without its key
is rejected. MEM_READ and MEM_WRITE need main power (else NOT_PERMITTED) and a Management Complex not in HOLD (else UNIT_RESET), read RETRY and are
held in a firmware switch, and send cells to their management address; that they also read RETRY, and are not held, without a free request slot or
with firmware that does not serve outside a switch is the model's choice (log 28; R379 gives RETRY in a switch). JTAG loads BYPASS,
IDCODE and SAMPLE/PRELOAD always, EXTEST, CLAMP and HIGHZ without main power; what may not load loads BYPASS and is logged. SAMPLE/PRELOAD captures
the lands, which its loading restores, and takes its preload. An internal debug instruction reads or writes the plots, or a die's reserve with the
map golden copies in it (the forms are the model's choice, log 167), on a P8-LX and is refused on a P8-L. Without the PCIe lanes no SPDM request
arrives. SPDM answers version, capabilities, algorithms, the chain and its digest, the challenge's nonce and blocks 1 to 6. -/
def Obligations.BoardAndAttestationAnswer : Prop :=
  (∀ (s : State) (r : List Byte → State), s.power.porReleased = true → s.landsCut = false →
    r = (fun bs => { s with side := { s.side with i3cReply := bs } }) →
    (∀ i : Byte, (4 < i.toNat → exec (.i3cRegRead (.reg i)) s = .next (r [Status.badDescriptor]) ∧
        ∀ v : W32, exec (.i3cRegWrite i v) s = .next (r [Status.badDescriptor])) ∧
      (i.toNat ≤ 4 → exec (.i3cRegRead (.reg i)) s = .next (r (0 :: natLE 4 (s.power.reg i.toNat).toNat))) ∧
      exec (.i3cRegRead (.unknown i)) s = .next (r [Status.badDescriptor])) ∧
    (∀ v : W32, (v.toNat % 2 ^ 12 < 500 ∨ 2500 < v.toNat % 2 ^ 12 → exec (.i3cRegWrite 0 v) s = .next ((s.logs Code.setupRejected).i3cAnswer [0])) ∧
      (500 ≤ v.toNat % 2 ^ 12 → v.toNat % 2 ^ 12 ≤ 2500 → v.getLsbD 31 = true →
        exec (.i3cRegWrite 0 v) s = .next ((s.modPower (fun p => { p with limit := v.setWidth 12, mainEn := true })).i3cAnswer [0])) ∧
      exec (.i3cRegWrite 4 v) s = .next ((s.modPower (fun p => { p with
        alertMask := (v >>> 8).setWidth 4, alertStatus := p.alertStatus &&& ~~~ (v.setWidth 4) })).i3cAnswer [0])) ∧
    (∀ i : Byte, (63 < i.toNat → exec (.sensorRead i) s = .next (r [Status.badDescriptor])) ∧
      (∀ n : Fin 64, i.toNat = n.val → exec (.sensorRead i) s = .next (r (0 :: natLE 2
        (if s.power.sensors[n].failed then 0x8000 else s.power.sensors[n].last.toNat))))) ∧
    (∀ n : W16, (4095 < n.toNat → exec (.i3cLogRead n) s = .next (r [Status.badDescriptor])) ∧
      (n.toNat ≤ 4095 → (s.log.slot? n.toNat = none → exec (.i3cLogRead n) s = .next (r (List.replicate 65 0))) ∧
        (∀ e, s.log.slot? n.toNat = some e → exec (.i3cLogRead n) s = .next (r (0 :: e.bytes))))) ∧
    exec .linkStatus s = .next (r (0 :: (List.finRange 6).map (fun l => BitVec.ofNat 8 (b2n s.links[l].present * 128 + s.links[l].stage.number)))) ∧
    (∀ v : W32, (v.toNat / 2 ^ 16 ≠ 0xA5C3 → exec (.i3cReset v) s = .next ((s.logs Code.setupRejected).i3cAnswer [0])) ∧
      (v.toNat / 2 ^ 16 = 0xA5C3 → v.getLsbD 2 = true → exec (.i3cReset v) s = .next s.coldReset) ∧
      (v.toNat / 2 ^ 16 = 0xA5C3 → v.getLsbD 2 = false → v.getLsbD 1 = true → exec (.i3cReset v) s = .next (s.warmReset.i3cAnswer [0])) ∧
      (v.toNat / 2 ^ 16 = 0xA5C3 → v.getLsbD 2 = false → v.getLsbD 1 = false → v.getLsbD 0 = true →
        exec (.i3cReset v) s = .next (s.mcReset.i3cAnswer [0]))) ∧
    (∀ (rd : Bool) (a : W64) (form len : Byte) (data : List Byte) (row : Instr), row = (if rd then .memRead a form len else .memWrite a form len data) →
      (1 < form.toNat ∨ len.toNat < 16 ∨ 64 < len.toNat ∨ len.toNat % 16 ≠ 0 ∨ (rd = false ∧ data.length ≠ len.toNat) →
        exec row s = .next (r [Status.badDescriptor])) ∧
      (form.toNat ≤ 1 → 16 ≤ len.toNat → len.toNat ≤ 64 → len.toNat % 16 = 0 → (rd = false → data.length = len.toNat) →
        (s.power.mainPg = false → exec row s = .next (r [Status.notPermitted])) ∧
        (s.power.mainPg = true → s.inHold .managementComplex = true → exec row s = .next (r [Status.unitReset])) ∧
        (s.power.mainPg = true → s.inHold .managementComplex = false → s.boot.stage ≠ .switching → s.fwServes = false →
          exec row s = .next (r [Status.retry])) ∧
        (s.power.mainPg = true → s.inHold .managementComplex = false → s.boot.stage = .switching →
          ∃ t, exec row s = .next t ∧ t.side.i3cReply = [Status.retry] ∧ t.side.i3cHeld.length = s.side.i3cHeld.length + 1) ∧
        (s.power.mainPg = true → s.boot.stage ≠ .switching → s.fwServes = true →
          (s.mgmtAddress a (form == 1) len.toNat = none → exec row s = .next (((r []).logs Code.addressInvalid).i3cAnswer [Status.badDescriptor])) ∧
          (∀ base : W64, s.mgmtAddress a (form == 1) len.toNat = some base →
            (s.freeReq true = none → exec row s = .next (r [Status.retry])) ∧
            ((s.freeReq true).isSome = true →
              ∃ t, (r []).openRequest true (.i3c rd) base len.toNat (if rd then none else some data) 0 0 = some t ∧ exec row s = .next t)))))) ∧
  (∀ (s : State) (op : JtagOp) (x : JtagData), s.power.porReleased = true →
    ((op, x) ∈ [(JtagOp.bypass, JtagData.none), (.idcode, .idcode idcode)] ∨ (op ∈ [JtagOp.extest, .clamp, .highz] ∧ x = .none ∧ s.power.mainPg = false) →
      exec (.jtagInstruction op) s = .next { s with side := { s.side with jtag := op, jtagOut := x } }) ∧
    (op ∈ [JtagOp.extest, .clamp, .highz] → s.power.mainPg = true → exec (.jtagInstruction op) s =
      .next (({ s with side := { s.side with jtag := .bypass, jtagOut := .none } } : State).logs Code.jtagRefused))) ∧
  (∀ (s : State) (p : Lands), s.power.porReleased = true → ∃ (t : State) (l : Lands), exec (.jtagInstruction (.samplePreload p)) s = .next t ∧
    t.side = { s.side with jtag := .samplePreload p, jtagOut := .lands l, boundary := p } ∧ t.log = s.log ∧ t.power = s.power ∧ t.sram = s.sram ∧
    l.perst = !s.power.perst ∧ l.alert = !s.power.alertPin ∧ l.mainPg = s.power.mainPg ∧
    ∀ k : LinkId, l.present.getLsbD k.val = !(s.link k).present) ∧
  (∀ s : State, s.power.porReleased = true →
    (∀ (a : BitVec 36) (n : BitVec 12), exec (.jtagInstruction (.internalDebug (.read a n))) s = .next (if Config.isLX = true
      then { s with side := { s.side with jtag := .internalDebug (.read a n), jtagOut := .bytes (Mem.read s.sram.mem a.toNat n.toNat) } }
      else ({ s with side := { s.side with jtag := .bypass, jtagOut := .none } } : State).logs Code.jtagRefused)) ∧
    (∀ (a : BitVec 36) (bs : List Byte), a.toNat + bs.length ≤ 2 ^ 36 → exec (.jtagInstruction (.internalDebug (.write a bs))) s = .next (if Config.isLX = true
      then { s with
        side := { s.side with jtag := .internalDebug (.write a bs), jtagOut := .none }
        sram := { s.sram with
          mem := Mem.write s.sram.mem a.toNat bs
          ecc := s.sram.ecc.filter (fun e => !(a.toNat ≤ e.1 * 16 && e.1 * 16 + 16 ≤ a.toNat + bs.length)) } }
      else ({ s with side := { s.side with jtag := .bypass, jtagOut := .none } } : State).logs Code.jtagRefused)) ∧
    (∀ (d : DieId) (part : ReservePart) (p : Option PartId) (k : Fin 33554432) (off : BitVec 28), Config.isLX = true →
      (∀ n : BitVec 12, ∃ (t : State) (bs : List Byte), exec (.jtagInstruction (.internalDebug (.reserveRead d part p k off n))) s = .next t ∧
        t.side.jtagOut = .bytes bs ∧ s.goldenAt (goldenHolder d part p) off.toNat n.toNat <+: bs ∧ t.parts = s.parts ∧ t.sram = s.sram) ∧
      (∀ bs : List Byte, ∃ t : State, exec (.jtagInstruction (.internalDebug (.reserveWrite d part p k off bs))) s = .next t ∧
        t.sram = { s.sram with
          reserve := s.sram.reserve.filter (fun e => !(e.die == d && k.val ≤ e.word && e.word < k.val + bs.length / 16)) } ∧
        t.parts = (s.writeGolden (goldenHolder d part p) off.toNat bs).parts ∧ t.jobs = s.jobs)) ∧
    (∀ (d : DieId) (bs : List Byte) (n : BitVec 12) (x : DebugAccess), Config.isLX = true → x = .scanOut d n ∨ x = .scanIn d bs →
      ∃ (t : State) (out : List Byte), exec (.jtagInstruction (.internalDebug x)) s = .next t ∧ t.side.jtagOut = .bytes out ∧
        (x = .scanOut d n → out.length = n.toNat) ∧ (x = .scanIn d bs → out.length = bs.length) ∧ t.parts = s.parts ∧ t.sram = s.sram)) ∧
  (∀ (s : State) (n : BitVec 256) (i : Byte), s.hostLanes = false → ∀ row ∈ [Instr.getVersion, .getCapabilities, .negotiateAlgorithms, .getDigests,
    .getCertificate, .challenge n, .getMeasurements i], exec row s = .next s) ∧
  (∀ (s : State) (r : SpdmReply → State), s.hostLanes = true → r = (fun x => { s with side := { s.side with spdm := x } }) →
    exec .getVersion s = .next (r (.version 1 2)) ∧
    exec .getCapabilities s = .next (r (.capabilities true true true false)) ∧
    exec .negotiateAlgorithms s = .next (r (.algorithms "ECDSA_P384" "SHA_384")) ∧
    exec .getDigests s = .next (r (.digests (shaField Config.certChain))) ∧
    exec .getCertificate s = .next (r (.certificate Config.certChain)) ∧
    (∀ n : BitVec 256, exec (.challenge n) s = .next (r (.challengeAuth (shaField Config.certChain) n))) ∧
    (∀ i : Byte, (s.fwServes = false → exec (.getMeasurements i) s = .next (r .notReady)) ∧
      (s.fwServes = true → (i.toNat = 0 ∨ 6 < i.toNat → exec (.getMeasurements i) s = .next (r .invalid)) ∧
        (i = 1 → exec (.getMeasurements i) s = .next (r (.measurements 1 (natLE 48 Config.romDigest.toNat)))) ∧
        (i = 2 → exec (.getMeasurements i) s = .next (r (.measurements 2 (natLE 48 s.boot.fwDigest.toNat)))) ∧
        (i = 5 → (s.fn 0).setupLock = false → exec (.getMeasurements i) s = .next (r (.measurements 5 (List.replicate 48 0)))) ∧
        (1 ≤ i.toNat → i.toNat ≤ 6 → ∃ bs, exec (.getMeasurements i) s = .next (r (.measurements i.toNat bs))))))

/-- Each sub-port has its own counters. A frame on a sub-port without link changes nothing; a bad one, or one of fewer than 60 or more than 9,212
bytes, counts RX_ERR; a PAUSE frame holds or releases its sub-port; one that no filter accepts counts RX_FILTERED. An accepted frame beyond the
parser goes to the exception ring, one whose lengths contradict counts its case, and another is routed: a frame that is neither IP nor time goes to
the management ring, or counts MGMT_DROP when that is full. A ZSH frame that is malformed, comes while MGT_CHIP_ID is not valid, ANY set or not (the
model's reading, log 170), or names another package is counted ZSH_DROP and logged. An untagged IPv4 frame shorter than its total length is a
LEN_SHORT. A request of channel 0 or 1 is refused RETRY while the core does not serve, BAD_DESCRIPTOR when it is too short or names no VF,
NOT_PERMITTED for an opcode channel 0 does not take, and else handed over as a descriptor. Channel 2 opens a stream only with a job at a streamable
hurdle (else, a LEAD or JOB_PART beyond 7 among them, STREAM_REFUSED), and STREAM_CHUNK sends up to 8,192 bytes, then the final reply. Channel 3
makes its sender the subscriber. -/
def Obligations.ServiceFramesAndRequestsReachTheirPlace : Prop :=
  (∀ (s : State) (p : PortId) (k : SubPort) (f : List Byte) (good : Bool) (ph : BitVec 4) (row : Instr), row = .ethFrameReceive p k f good ph →
    ((s.port p).linkUp.getLsbD k.val = false → exec row s = .next s) ∧
    ((s.port p).linkUp.getLsbD k.val = true →
      (good = false ∨ f.length < 60 ∨ 9212 < f.length → exec row s = .next (s.rxCount p k .rxErr)) ∧
      (good = true → 60 ≤ f.length → f.length ≤ 9212 →
        (beAt f 12 2 = 0x8808 → beAt f 14 2 = 1 →
          ((s.port p).pauseEn = false → exec row s = .next s) ∧
          ((s.port p).pauseEn = true → beAt f 16 2 ≠ 0 →
            exec row s = .next (s.modPort p (fun q => { q with paused := setBitTo q.paused k.val true })))) ∧
        (beAt f 12 2 ≠ 0x8808 →
          (s.accepts p k f = false → exec row s = .next (s.rxCount p k .rxFiltered)) ∧
          (s.accepts p k f = true → ∀ (x : Parsed) (st : TxStamp), x = parseHeaders f → st = s.stampAt p k ph false 0 →
            (x.tooDeep = true → exec row s = .next (s.toExc p (rxFrame p st (32 + x.flags false) f))) ∧
            (x.tooDeep = false → (∀ c : RxCount, c ≠ .lenShort → x.lengths f = .drop c → exec row s = .next (s.rxCount p k c)) ∧
              (∀ e : Bool, x.lengths f = .accept e →
                exec row s = .next ((if e then s.rxCount p k .lenExcess else s).route p st f x e)))) ∧
          (s.accepts p k f = true → beAt f 12 2 ∉ [0x8100, 0x88A8, 0x0800, 0x86DD, 0x88F7] →
            (256 ≤ s.svc.mgmtRing.length → exec row s = .next (s.rxCount p k .mgmtDrop)) ∧
            (s.svc.mgmtRing.length < 256 → ∃ r : RxFrame, r.data = f ∧ r.port = p ∧ r.sub = k ∧
              exec row s = .next (s.modSvc (fun v => { v with mgmtRing := v.mgmtRing ++ [r] })))) ∧
          (s.accepts p k f = true → beAt f 12 2 = 0x0800 → f.length < 14 + beAt f 16 2 → exec row s = .next (s.lenShort p k f)))))) ∧
  (∀ (s : State) (p : PortId) (k : SubPort) (c : RxCount) (q : SubPort), q ≠ k →
    ((s.rxCount p k c).port p).counters[q] = (s.port p).counters[q] ∧ ((s.rxCount p k c).port p).counters[k][c.ix] = satInc (s.port p).counters[k][c.ix]) ∧
  (∀ (s : State) (p : PortId) (st : TxStamp) (f : List Byte) (x : Parsed) (e : Bool) (ip u z : Nat), x.ip = some ip → x.udp = some u → x.zsh = some z →
    zshWrong f z = true ∨ s.chipValid = false ∨ (beAt f (z + 6) 2 < 32768 ∧ beAt f (z + 6) 2 % 8192 ≠ s.chip.toNat) →
    s.route p st f x e = (s.rxCount p st.sub .zshDrop).logRate (.zshDropped p) Code.zshDropped) ∧
  (∀ s : State, (s.svc.waiting? 0 = none → exec .zshManagement s = .next s) ∧ (s.svc.waiting? 1 = none → exec .zshJobControl s = .next s) ∧
    (s.svc.waiting? 2 = none → exec .zshStreaming s = .next s) ∧ (s.svc.waiting? 3 = none → exec .zshLogExport s = .next s)) ∧
  (∀ (s : State) (r : ZshRequest) (ch : Nat) (row : Instr), (ch, row) ∈ [(0, Instr.zshManagement), (1, .zshJobControl), (2, .zshStreaming), (3, .zshLogExport)] →
    s.svc.waiting? ch = some r → s.requestsServed = false → exec row s = .next (s.refuseRequest r Status.retry)) ∧
  (∀ (s : State) (r : ZshRequest) (d : Desc), s.svc.waiting? 0 = some r → s.requestsServed = true →
    d = Desc.ofBytes 0 (.zsh r.port r.seq) (r.payload.take 64) →
    (r.payload.length < 64 → exec .zshManagement s = .next (s.refuseRequest r Status.badDescriptor)) ∧
    (64 ≤ r.payload.length →
      (d.opcode ∈ [Op.query, Op.logRead, Op.mgmtRead, Op.mgmtWrite] → exec .zshManagement s = .next ((s.takeRequest r).deliver d)) ∧
      (d.opcode ∈ [Op.load, Op.unload, Op.start, Op.park, Op.resume, Op.partReset, Op.endD, Op.hurdle, Op.transfer, Op.predicate] →
        exec .zshManagement s = .next (s.refuseRequest r Status.notPermitted)))) ∧
  (∀ (s : State) (r : ZshRequest), s.svc.waiting? 1 = some r → s.requestsServed = true →
    (r.payload.length < 64 ∨ 32 < r.vf.toNat → exec .zshJobControl s = .next (s.refuseRequest r Status.badDescriptor)) ∧
    (∀ f : FnId, 64 ≤ r.payload.length → r.vf.toNat = f.val →
      exec .zshJobControl s = .next ((s.takeRequest r).deliver (Desc.ofBytes f (.zsh r.port r.seq) (r.payload.take 64))))) ∧
  (∀ (s : State) (r : ZshRequest), s.svc.waiting? 2 = some r → s.requestsServed = true →
    (r.payload.length ≠ 24 ∨ leAt r.payload 4 4 ≠ 0 → exec .zshStreaming s = .next (s.refuseRequest r Status.badDescriptor)) ∧
    (r.payload.length = 24 → leAt r.payload 4 4 = 0 → 7 < leAt r.payload 0 1 ∨ 7 < leAt r.payload 1 1 →
      exec .zshStreaming s = .next (s.refuseRequest r Status.streamRefused)) ∧
    (∀ (lead p : PartId) (j : Job) (i : Fin 4), r.payload.length = 24 → leAt r.payload 0 1 = lead.val → leAt r.payload 1 1 ≤ 7 → leAt r.payload 4 4 = 0 →
      s.jobOfLead lead = some j → s.svc.streamSlot = some i → j.phys (leAt r.payload 1 1) = some p →
      (s.canStream j = false → exec .zshStreaming s = .next (s.refuseRequest r Status.streamRefused)) ∧
      (∀ (m : AllocMap) (e : BitVec 128), s.canStream j = true → (s.part p).mapA = some m → (s.part p).mapB = some m →
        m.entry? (leAt r.payload 2 2) = some e → mePurpose e ∉ [Purpose.free, Purpose.spill, Purpose.landing] →
        leAt r.payload 8 8 + leAt r.payload 16 8 ≤ meLen e →
        exec .zshStreaming s = .next ((s.dropRequest r).modSvc (fun v => { v with streams := vset v.streams i (some
          { lead := lead, part := p, base := partBase p + meStart e + leAt r.payload 8 8, offset := leAt r.payload 8 8
            length := leAt r.payload 16 8, sent := 0, req := r, stop := none }) }))))) ∧
  (∀ (s : State) (r : ZshRequest), s.svc.waiting? 3 = some r → s.requestsServed = true →
    exec .zshLogExport s = .next ((s.dropRequest r).modSvc (fun v => { v with subscriber := some r, exportSeq := 0 }))) ∧
  (∀ (s : State) (n : Fin 4), (s.svc.streams[n] = none ∨ s.fwServes = false → exec (.streamChunk n) s = .next s) ∧
    (∀ t : OutStream, s.svc.streams[n] = some t → s.fwServes = true →
      (∀ st : Byte, t.stop = some st → exec (.streamChunk n) s = .next (s.endStream n t st)) ∧
      (t.stop = none → t.length ≤ t.sent → exec (.streamChunk n) s = .next (s.endStream n t Status.success)) ∧
      (t.stop = none → t.sent < t.length → s.sram.ecc = [] →
        exec (.streamChunk n) s = .next ((s.modSvc (fun v => { v with
          streams := vset v.streams n (some { t with sent := t.sent + min 8192 (t.length - t.sent) }) })).sendFrame t.req.port t.req.sub
            (chunkFrame t (Mem.read s.sram.mem (t.base + t.sent) (min 8192 (t.length - t.sent))))))))

/-- A sub-port of its port's mode reaches link once, with SVC_PORT_UP logged, and loses it with SVC_PORT_DOWN and what waited on PAUSE. PAUSE_EXPIRY
lets the frames that waited leave in order. A write of SVC_SPn_CTRL with mode 3, a FEC of 3, or a change of a running port's mode or FEC is
rejected; one of a port in mode 0, the lock clear, sets mode, FEC, MGMT_EN and PAUSE_EN. SVC_TRING_ENABLE of a ring waits while its header cannot be
claimed, and ENABLE reads 0 until then; with the header open it starts the ring empty at HOST_COUNT (the start and the wait are the model's choice:
R327 does not say them, log 33), a short buffer goes back to HOST, and else the ring is in ERROR with SVC_RING_SETUP_BAD; a disable ends a wait or
hands the header back. SVC_TX reads its line and the descriptor at HEAD, once, and HEAD goes on: a malformed one is written back BAD_DESCRIPTOR, one
for a port without link PORT_DOWN, one for a paused sub-port or a header it cannot claim waits, one whose buffer fails is written back with that
status, and one whose bytes are fetched is sent, padded to 60 bytes, and written back SUCCESS; one that waits goes on though the ring has stopped,
and a disable writes it back RING_ABORTED. -/
def Obligations.ServicePortsAndRingsRun : Prop :=
  (∀ (s : State) (p : PortId) (k : SubPort),
    (s.power.porReleased = false ∨ (s.port p).linkUp.getLsbD k.val = true ∨ (s.port p).hasSub k = false → exec (.svcPortUp p k) s = .next s) ∧
    (s.power.porReleased = true → (s.port p).linkUp.getLsbD k.val = false → (s.port p).mode = 2 ∨ ((s.port p).mode = 1 ∧ k = 0) →
      exec (.svcPortUp p k) s = .next ((s.modPort p (fun q => { q with linkUp := setBitTo q.linkUp k.val true })).logs Code.svcPortUp)) ∧
    ((s.port p).linkUp.getLsbD k.val = false → exec (.svcPortDown p k) s = .next s) ∧
    ((s.port p).linkUp.getLsbD k.val = true →
      exec (.svcPortDown p k) s = .next ((s.modPort p (fun q => { q with
        linkUp := setBitTo q.linkUp k.val false, paused := setBitTo q.paused k.val false
        held := q.held.filter (fun x : SubPort × List Byte => x.1 != k) })).logs Code.svcPortDown)) ∧
    (∃ t, exec (.pauseExpiry p k) s = .next t ∧ (t.port p).paused.getLsbD k.val = false ∧
      (t.port p).out = (s.port p).out ++ (s.port p).held.filter (fun x => x.1 == k) ∧
      (t.port p).held = (s.port p).held.filter (fun x => x.1 != k) ∧ (∀ q : PortId, q ≠ p → t.port q = s.port q) ∧
      (∀ m : SubPort, m ≠ k → (t.port p).paused.getLsbD m.val = (s.port p).paused.getLsbD m.val))) ∧
  (∀ (s : State) (p : PortId) (v : W32), s.hostLanes = true → (s.fn 0).setupLock = false →
    (v.toNat % 4 = 3 ∨ (∃ k : Fin 4, v.toNat / 2 ^ (8 + 2 * k.val) % 4 = 3) ∨ ((s.port p).mode ≠ 0 ∧ v.toNat % 4 ≠ 0 ∧ v.toNat % 4 ≠ (s.port p).mode.toNat) ∨
      ((s.port p).mode ≠ 0 ∧ fecOf v ≠ (s.port p).fec) → exec (.svcSpMode p v) s = .next (s.logs Code.setupRejected)) ∧
    ((s.port p).mode = 0 → v.toNat % 4 = 1 ∨ v.toNat % 4 = 2 → (∀ k : Fin 4, v.toNat / 2 ^ (8 + 2 * k.val) % 4 ≠ 3) →
      ∃ t, exec (.svcSpMode p v) s = .next t ∧ (t.port p).mode.toNat = v.toNat % 4 ∧ (t.port p).fec = fecOf v ∧
        (t.port p).mgmtEn = v.getLsbD 31 ∧ (t.port p).pauseEn = v.getLsbD 30 ∧ (t.port p).linkUp = (s.port p).linkUp ∧ t.log = s.log ∧
        (∀ q : PortId, q ≠ p → t.port q = s.port q))) ∧
  (∀ (s : State) (p : PortId) (v : W32) (n : TRingId), s.hostLanes = false →
    ∀ row ∈ [Instr.svcSpMode p v, .svcTringEnable n, .svcTringDisable n], exec row s = .next s) ∧
  (∀ (s : State) (n : TRingId) (t : TRing) (bad : State → Byte → State) (root : W64) (x : HeaderWait), s.hostLanes = true → t = s.tring n →
    bad = (fun u st => (u.modTring n (fun t => { t with error := true })).hand Code.svcRingSetupBad t.vf.toNat (.count (BitVec.ofNat 64 st.toNat))) →
    root = (s.fn t.fn).winRoot → x = s.headerWait (.tring n) t.fn t.base →
    (t.enable = true ∨ (∃ y ∈ s.hiu.headerWaits, y.user = .tring n) → exec (.svcTringEnable n) s = .next s) ∧
    (t.enable = false → (∀ y ∈ s.hiu.headerWaits, y.user ≠ .tring n) →
      (t.setupOk = false → exec (.svcTringEnable n) s = .next (bad s Status.bufferShort)) ∧
      (t.setupOk = true → winOffsetOk t.base = false → exec (.svcTringEnable n) s = .next (bad s Status.badDescriptor)) ∧
      (t.setupOk = true → winOffsetOk t.base = true → s.mayTake x = false →
        exec (.svcTringEnable n) s = .next (s.modHiu (fun h => { h with headerWaits := h.headerWaits ++ [x] }))) ∧
      (t.setupOk = true → winOffsetOk t.base = true → s.mayTake x = true →
        (∀ st : Byte, s.tringOpen root t = .failed st → exec (.svcTringEnable n) s = .next (bad s st)) ∧
        (∀ (a : Nat) (h : Hdr), s.tringOpen root t = .short a h →
          ∃ (u : State) (tag : W32), u.host = s.host ∧ u.log = s.log ∧ u.svc = s.svc ∧ exec (.svcTringEnable n) s =
            .next (bad (u.writeHeader a h Owner.host Status.bufferShort false 0 Code.bufferShort tag) Status.bufferShort)) ∧
        (∀ (a : Nat) (h : Hdr) (c : W32), s.tringOpen root t = .opened a h → s.hostCount t.dbl = some c →
          ∃ u, exec (.svcTringEnable n) s = .next u ∧ (u.tring n).enable = true ∧ (u.tring n).head = c ∧ (u.tring n).tail = c ∧
            (u.tring n).header = some (a, h) ∧ (u.tring n).root = root ∧ u.log = s.log ∧
            (∀ m : TRingId, m ≠ n → u.tring m = s.tring m)))) ∧
    (t.enable = false → exec (.svcTringDisable n) s = .next (s.endWait (.tring n))) ∧
    (∀ (a : Nat) (h : Hdr), t.enable = true → t.header = some (a, h) →
      ∃ (y : State) (v : Nat) (tag : W32), exec (.svcTringDisable n) s = .next (y.writeHeader a h Owner.host Status.success false v 0 tag) ∧
        (y.tring n).enable = false ∧ (y.tring n).header = none ∧ (y.tring n).tail = t.tail ∧ y.host = s.host ∧ y.log = s.log ∧
        (∀ m : TRingId, m ≠ n → y.tring m = s.tring m))) ∧
  (∀ (s : State) (ph : BitVec 4),
    (s.power.mainPg = false ∨ s.hiu.port ≠ .up ∨ s.svc.tx.enable = false ∨ (s.svc.tx.errCause ≠ 0 ∧ s.svc.txHeld = none) →
      exec (.svcTx ph) s = .next s) ∧
    (s.power.mainPg = true → s.hiu.port = .up → s.svc.tx.enable = true →
      (∀ (c : W32) (t : State), s.svc.txHeld = none → s.svc.tx.errCause = 0 → s.hostCount s.svc.tx.dbl = some c →
          t = s.modTx (fun q => { q with tail := c, readFail := false }) →
        (c = s.svc.tx.head → exec (.svcTx ph) s = .next t) ∧
        (s.svc.tx.size < (c - s.svc.tx.head).toNat →
          exec (.svcTx ph) s = .next ((t.modTx (fun q => { q with error := true, errCause := 2, stopped := true })).logs Code.ringTailBad).txStatus)) ∧
      (∀ (u : State) (ws : List W64) (w : Nat → W64) (p : PortId) (k : SubPort) (x : HeaderWait),
        (s.svc.txHeld = some ws ∧ u = s) ∨
          (s.svc.txHeld = none ∧ s.svc.tx.errCause = 0 ∧ ∃ (c : W32) (bs : List Byte), s.hostCount s.svc.tx.dbl = some c ∧ c ≠ s.svc.tx.head ∧
            (c - s.svc.tx.head).toNat ≤ s.svc.tx.size ∧
            s.hostRead (s.svc.tx.base.toNat + 64 * (s.svc.tx.head.toNat % s.svc.tx.size)) 64 = some bs ∧
            ws = (List.range 8).map (fun i => BitVec.ofNat 64 (leAt bs (8 * i) 8)) ∧
            u = ((s.modTx (fun q => { q with tail := c, head := q.head + 1, readFail := false })).modSvc (fun v => { v with
              txHeld := some ws })).txStatus) →
        w = (fun i => ws.getD i 0) → (w 1).toNat % 2 = p.val → (w 1).toNat / 2 % 4 = k.val → x = u.headerWait .tx 0 (w 2) →
        (txOk w = false → exec (.svcTx ph) s = .next (u.txWriteBack Status.badDescriptor)) ∧
        (txOk w = true →
          ((s.port p).linkUp.getLsbD k.val = false → exec (.svcTx ph) s = .next (u.txWriteBack Status.portDown)) ∧
          ((s.port p).linkUp.getLsbD k.val = true → (s.port p).paused.getLsbD k.val = true → exec (.svcTx ph) s = .next u) ∧
          ((s.port p).linkUp.getLsbD k.val = true → (s.port p).paused.getLsbD k.val = false →
            (u.mayTake x = false → exec (.svcTx ph) s = .next (u.keepWait x)) ∧
            (u.mayTake x = true →
              (∀ (v : State) (st : Byte), (u.endWait .tx).txFetch x.root x.offset ((w 0).toNat / 2 ^ 18 % 2 ^ 14) = (v, .failed st) →
                exec (.svcTx ph) s = .next (v.txWriteBack st)) ∧
              (∀ (v : State) (data : List Byte), (w 0).getLsbD 17 = false →
                (u.endWait .tx).txFetch x.root x.offset ((w 0).toNat / 2 ^ 18 % 2 ^ 14) = (v, .got data) →
                exec (.svcTx ph) s =
                  .next ((v.sendFrame p k (data ++ List.replicate (60 - data.length) 0)).txWriteBack Status.success)))))) ∧
      (∀ (u : State) (st : Byte), (u.txWriteBack st).svc.txHeld = none ∧ (u.txWriteBack st).svc.tx.head = u.svc.tx.head) ∧
      (s.svc.txHeld.isSome = true → s.txDisable = ((s.txWriteBack Status.ringAborted).modTx (fun q => { q with
        enable := false, stopped := true })).txStatus)))
end

