-- ==== Sys2Proof/Laws/Engines.lean ====
section
/-! SUPPORT. What the engines' shared operations do where nothing faults: the start of a command, a checked access, the reading and the
writing of a tensor, a fetch of native code. -/

namespace Sys2Proof.Machine

theorem State.withMem_self (s : State) : s.withMem s.sram.mem = s := rfl
theorem State.withMem_withMem (s : State) (m n : Bytes) : (s.withMem m).withMem n = s.withMem n := rfl
@[simp] theorem State.withMem_part (s : State) (m : Bytes) (p : PartId) : (s.withMem m).part p = s.part p := rfl
@[simp] theorem State.withMem_mem (s : State) (m : Bytes) : (s.withMem m).sram.mem = m := rfl
@[simp] theorem State.withMem_ecc (s : State) (m : Bytes) : (s.withMem m).sram.ecc = s.sram.ecc := rfl
theorem State.Grants.withMem {s : State} {p : PartId} {tile : Fin 32} {kind region : Nat} {e : BitVec 128}
    (h : s.Grants p tile kind region e) (m : Bytes) : (s.withMem m).Grants p tile kind region e := ⟨h.map, h.kind, h.tile⟩
@[simp] theorem State.withTraffic_part (s : State) (l : List RingUnit) (p : PartId) : (s.withTraffic l).part p = s.part p := rfl
@[simp] theorem State.withTraffic_sram (s : State) (l : List RingUnit) : (s.withTraffic l).sram = s.sram := rfl
theorem State.withTraffic_self (s : State) : s.withTraffic s.infield.transit = s := rfl
theorem State.withTraffic_withTraffic (s : State) (l k : List RingUnit) : (s.withTraffic l).withTraffic k = s.withTraffic k := rfl
theorem State.withTraffic_withMem (s : State) (l : List RingUnit) (m : Bytes) : (s.withTraffic l).withMem m = (s.withMem m).withTraffic l := rfl
theorem State.Grants.withTraffic {s : State} {p : PartId} {tile : Fin 32} {kind region : Nat} {e : BitVec 128}
    (h : s.Grants p tile kind region e) (l : List RingUnit) : (s.withTraffic l).Grants p tile kind region e := ⟨h.map, h.kind, h.tile⟩

/-- An engine of a running partition runs without a stop (R71). -/
theorem State.runOn_live {s : State} {t : TileId} {e : EngineKind} {grp op : Nat} {body : Acc → List QEntry → Eng (BitVec 96)}
    (h : (s.part (partOfTile t)).st = .run) : s.runOn t e grp op body = s.runLive t e grp op body := by
  have hn : s.stillRuns (partOfTile t) = none := by simp [State.stillRuns, h]
  simp only [State.runOn, hn]
/-- A command that starts and runs, and meets its row. -/
theorem State.runOn_runs {s s2 : State} {t : TileId} {e : EngineKind} {u : Turn} {i : Issued} {es : List QEntry} {grp op : Nat}
    {body : Acc → List QEntry → Eng (BitVec 96)} {pay : BitVec 96} (h : s.Starts t e u i es)
    (hs : s.skipCause (partOfTile t) i es = none) (hg : i.cmd.group = grp) (ho : i.cmd.opcode = op)
    (hb : body (accOf t e i) es (s.taken t e u) = .ok pay s2) : s.runOn t e grp op body = s2.nowRuns t e i pay := by
  have h1 := h.run; have h2 := h.idle; have h3 := h.hold; have h4 := h.next
  simp only [State.skipCause] at hs
  rw [State.runOn_live h1]
  simp only [accOf, State.taken, h2] at hb
  simp only [State.runLive, h1, h2, h3, h4, hg, ho, hs]
  simp
  cases u <;> simp only at hb ⊢ <;> rw [hb] <;> rfl
/-- A command that starts and is skipped. -/
theorem State.runOn_skips {s : State} {t : TileId} {e : EngineKind} {u : Turn} {i : Issued} {es : List QEntry} {grp op n : Nat}
    {body : Acc → List QEntry → Eng (BitVec 96)} (h : s.Starts t e u i es) (hs : s.skipCause (partOfTile t) i es = some n)
    (hg : i.cmd.group = grp) (ho : i.cmd.opcode = op) :
    s.runOn t e grp op body = ((s.taken t e u).retire (partOfTile t) i (fun id g => mkVoid n id g (i.src8 (partOfTile t))) (engNo e)).settle
      (partOfTile t) := by
  have h1 := h.run; have h2 := h.idle; have h3 := h.hold; have h4 := h.next
  simp only [State.skipCause] at hs
  rw [State.runOn_live h1]
  simp only [State.runLive, h1, h2, h3, h4, hg, ho, hs, State.taken]
  cases u <;> simp
/-- A command of another row waits for that row. -/
theorem State.runOn_waits {s : State} {t : TileId} {e : EngineKind} {u : Turn} {i : Issued} {es : List QEntry} {grp op : Nat}
    {body : Acc → List QEntry → Eng (BitVec 96)} (h : s.Starts t e u i es) (hg : i.cmd.group ≠ grp ∨ i.cmd.opcode ≠ op) :
    s.runOn t e grp op body = s := by
  have h1 := h.run; have h2 := h.idle; have h3 := h.hold; have h4 := h.next
  rw [State.runOn_live h1]
  simp only [State.runLive, h1, h2, h3, h4]
  simp
  intro a b
  rcases hg with hg | hg <;> contradiction

/-! Accesses. -/

theorem State.consultOne_grants {s : State} {p : PartId} {tile : Fin 32} {kind region : Nat} {e : BitVec 128}
    (h : s.Grants p tile kind region e) (r : Loc) : s.consultOne p region r = (s, .entries [(region, e)]) := by
  obtain ⟨m, ha, hb, he⟩ := h.map
  simp [State.consultOne, State.consult, ha, hb, he, AllocMap.diffAt]
theorem State.meetWords_clean (s : State) (r : Loc) (h : s.sram.ecc = []) (ws : List Nat) : s.meetWords r ws = (s, true) := by
  induction ws with
  | nil => rfl
  | cons w ws ih => simp [State.meetWords, State.eccAt, h, ih]
theorem State.store_clean (s : State) (a : Nat) (bs : List Byte) (r : Loc) (h : s.sram.ecc = []) :
    s.store a bs r = (s.withMem (Mem.write s.sram.mem a bs), true) := by
  simp only [State.store, State.meetWords_clean s r h, if_true]
  simp [State.wr, State.modSram, State.withMem, h]
theorem State.fetchBytes_clean (s : State) (a n : Nat) (r : Loc) (h : s.sram.ecc = []) :
    s.fetchBytes a n r = (s, some (Mem.read s.sram.mem a n)) := by
  simp [State.fetchBytes, State.meetWords_clean s r h, State.rd]
/-- A granted access goes on: beside its place it sends plot traffic. -/
theorem Acc.check_ok {a : Acc} {s : State} {kind region len : Nat} {off : Int} {e : BitVec 128} (h : s.Grants a.part a.tile kind region e)
    (h0 : 0 ≤ off) (h1 : off + len ≤ meLen e) :
    ∃ l, a.check kind region off len s = .ok (partBase a.part + ((meStart e : Int) + off).toNat) (s.withTraffic l) := by
  refine ⟨(s.infield.notePlots a.part a.user (s.userEpoch a.user) a.stop (partBase a.part + ((meStart e : Int) + off).toNat) len).transit, ?_⟩
  simp [Acc.check, State.consultOne_grants h, h.kind, h.tile, h0, h1, State.plotAccess, State.withTraffic, State.modInfield, Infield.notePlots]
theorem Acc.read_ok {a : Acc} {s : State} {kind region len : Nat} {off : Int} {e : BitVec 128} (h : s.Grants a.part a.tile kind region e)
    (hc : s.sram.ecc = []) (h0 : 0 ≤ off) (h1 : off + len ≤ meLen e) :
    ∃ l, a.read kind region off len s =
      .ok (Mem.read s.sram.mem (partBase a.part + ((meStart e : Int) + off).toNat) len) (s.withTraffic l) := by
  obtain ⟨l, hl⟩ := Acc.check_ok h h0 h1
  refine ⟨l, ?_⟩
  show (bind _ _ : Eng _) s = _
  simp only [bind, EStateM.bind, hl, State.fetchBytes_clean (s.withTraffic l) _ _ _ hc]
  rfl
theorem Acc.write_ok {a : Acc} {s : State} {kind region : Nat} {off : Int} {bs : List Byte} {e : BitVec 128}
    (h : s.Grants a.part a.tile kind region e) (hc : s.sram.ecc = []) (h0 : 0 ≤ off) (h1 : off + bs.length ≤ meLen e) :
    ∃ l, a.write kind region off bs s =
      .ok () ((s.withMem (Mem.write s.sram.mem (partBase a.part + ((meStart e : Int) + off).toNat) bs)).withTraffic l) := by
  obtain ⟨l, hl⟩ := Acc.check_ok h h0 h1
  refine ⟨l, ?_⟩
  show (bind _ _ : Eng _) s = _
  simp only [bind, EStateM.bind, hl, State.store_clean (s.withTraffic l) _ _ _ hc]
  rfl

/-! Lists of steps. -/

theorem mapM_ok {α β : Type} {s : State} {f : α → Eng β} {g : α → β} : ∀ {l : List α} {k : List RingUnit},
    (∀ x ∈ l, ∀ k, ∃ k', f x (s.withTraffic k) = .ok (g x) (s.withTraffic k')) →
    ∃ k', l.mapM f (s.withTraffic k) = .ok (l.map g) (s.withTraffic k')
  | [], k, _ => ⟨k, rfl⟩
  | x :: l, k, h => by
    obtain ⟨k1, h1⟩ := h x (by simp) k
    obtain ⟨k2, h2⟩ := mapM_ok (l := l) (k := k1) (fun y hy => h y (by simp [hy]))
    exact ⟨k2, by simp only [List.mapM_cons, bind, EStateM.bind, h1, h2, pure, EStateM.pure, List.map_cons]⟩
theorem forM_ok {α : Type} {s : State} {f : α → Eng Unit} {g : Bytes → α → Bytes} : ∀ {l : List α} {m : Bytes} {k : List RingUnit},
    (∀ x ∈ l, ∀ (n : Bytes) k, ∃ k', f x ((s.withMem n).withTraffic k) = .ok () ((s.withMem (g n x)).withTraffic k')) →
    ∃ k', l.forM f ((s.withMem m).withTraffic k) = .ok () ((s.withMem (l.foldl g m)).withTraffic k')
  | [], _, k, _ => ⟨k, rfl⟩
  | x :: l, m, k, h => by
    obtain ⟨k1, h1⟩ := h x (by simp) m k
    obtain ⟨k2, h2⟩ := forM_ok (l := l) (m := g m x) (k := k1) (fun y hy => h y (by simp [hy]))
    refine ⟨k2, ?_⟩
    show (bind (f x) (fun _ => l.forM f) : Eng Unit) _ = _
    simp only [bind, EStateM.bind, h1, h2, List.foldl_cons]
theorem visits_ok {s : State} {f : Nat → Eng Unit} {g : Bytes → Nat → Bytes} : ∀ {n : Nat} {m : Bytes} {k : List RingUnit},
    (∀ j < n, ∀ (b : Bytes) k, ∃ k', f j ((s.withMem b).withTraffic k) = .ok () ((s.withMem (g b j)).withTraffic k')) →
    ∃ k', visits f n ((s.withMem m).withTraffic k) = .ok () ((s.withMem ((List.range n).foldl g m)).withTraffic k')
  | 0, _, k, _ => ⟨k, rfl⟩
  | n + 1, m, k, h => by
    obtain ⟨k1, h1⟩ := visits_ok (n := n) (m := m) (k := k) (fun j hj => h j (by omega))
    obtain ⟨k2, h2⟩ := h n (by omega) ((List.range n).foldl g m) k1
    exact ⟨k2, by simp only [visits, bind, EStateM.bind, h1, h2, List.range_succ, List.foldl_append, List.foldl_cons, List.foldl_nil]⟩

/-! Tensors. -/

theorem natLE_length (n x : Nat) : (natLE n x).length = n := by
  induction n generalizing x with
  | zero => rfl
  | succ n ih => simp [natLE, ih]
theorem Acc.tensor_ok {t : TileId} {e : EngineKind} {i : Issued} {s : State} {kind : Nat} {x : Ref} {rows cols base : Nat}
    (h : s.TensorAt t kind x rows cols base) (hc : s.sram.ecc = []) (k : List RingUnit) :
    ∃ k', (accOf t e i).tensor kind x rows cols (s.withTraffic k) = .ok (x.valuesIn s.sram.mem base rows cols) (s.withTraffic k') := by
  obtain ⟨w, hg, hb, hl⟩ := h.grant
  refine mapM_ok fun r hr k1 => mapM_ok fun j hj k2 => ?_
  have hr := List.mem_range.mp hr
  have hj := List.mem_range.mp hj
  have hl := hl r hr j hj
  obtain ⟨k3, h3⟩ := Acc.read_ok (a := accOf t e i) (s := s.withTraffic k2) (off := ((x.at r j : Nat) : Int)) (len := x.fmt.size)
    (hg.withTraffic k2) hc (by omega) (by omega)
  refine ⟨k3, ?_⟩
  show (bind _ _ : Eng _) _ = _
  simp only [bind, EStateM.bind, h3, pure, EStateM.pure]
  have : partBase (accOf t e i).part + ((meStart w : Int) + (x.at r j : Nat)).toNat = base + x.at r j := by
    rw [hb]; simp [accOf]; omega
  rw [this]; rfl
theorem Acc.putTensor_ok {t : TileId} {e : EngineKind} {i : Issued} {s : State} {kind : Nat} {x : Ref} {cols base : Nat} {m : Bytes}
    {rows : List (List Nat)} (h : s.TensorAt t kind x rows.length cols base) (hw : ∀ r ∈ rows, r.length ≤ cols) (hc : s.sram.ecc = [])
    (k : List RingUnit) :
    ∃ k', (accOf t e i).putTensor kind x rows ((s.withMem m).withTraffic k) = .ok () ((s.withMem (x.storeIn m base rows)).withTraffic k') := by
  obtain ⟨w, hg, hb, hl⟩ := h.grant
  refine forM_ok fun row hrow n k1 => forM_ok fun c hcol n' k2 => ?_
  have h1 : row.1 < rows.length := by
    have := List.of_mem_zip hrow; exact List.mem_range.mp this.1
  have h2 : c.1 < cols := by
    have a := List.mem_range.mp (List.of_mem_zip hcol).1
    have b := hw row.2 (List.of_mem_zip hrow).2
    omega
  have hl := hl row.1 h1 c.1 h2
  obtain ⟨k3, h3⟩ := Acc.write_ok (a := accOf t e i) (s := (s.withMem n').withTraffic k2) (off := ((x.at row.1 c.1 : Nat) : Int))
    (bs := natLE x.fmt.size c.2) ((hg.withMem n').withTraffic k2) hc (by omega) (by rw [natLE_length]; omega)
  refine ⟨k3, ?_⟩
  rw [h3]
  have : partBase (accOf t e i).part + ((meStart w : Int) + (x.at row.1 c.1 : Nat)).toNat = base + x.at row.1 c.1 := by
    rw [hb]; simp [accOf]; omega
  rw [this]; rfl

/-! Fetches of native code (R67). -/

/-- A lookup of a map whose two copies are equal. -/
theorem State.consult_same {s : State} {p : PartId} {m : AllocMap} (ha : (s.part p).mapA = some m) (hb : (s.part p).mapB = some m)
    (idx : AllocMap → List Nat) (r : Loc) :
    s.consult p idx r = (s, .entries ((idx m).filterMap (fun i => (m.entry? i).map (fun e => (i, e))))) := by
  simp only [State.consult, ha, hb]
  rw [List.find?_eq_none.2 (by simp [AllocMap.diffAt])]
  dsimp only
  rw [List.find?_eq_none.2 (by simp [AllocMap.diffAt])]
/-- A fetch from a region that holds the code and whose mask holds the tile: one free value is drawn (log 129). -/
theorem State.fetchCheck_ok {s : State} {p : PartId} {region offset : Nat} {i : Issued} {m : AllocMap} {e : BitVec 128} (engine unit : Nat)
    (ha : (s.part p).mapA = some m) (hb : (s.part p).mapB = some m) (hr : region < m.count) (he : m.entry? region = some e)
    (hp : mePurpose e = Purpose.code) (ht : meTile e i.cmd.tile.val = true) (ho : offset < meLen e) (hc : s.sram.ecc = []) :
    s.fetchCheck p region offset i engine unit = (s.draw.2, true) := by
  have hd : s.draw.2.sram.ecc = [] := hc
  have hf : ((List.range m.count).filterMap (fun i => (m.entry? i).map (fun e => (i, e)))).find? (fun x => x.1 == region) = some (region, e) := by
    have hex : (region, e) ∈ (List.range m.count).filterMap (fun i => (m.entry? i).map (fun e => (i, e))) :=
      List.mem_filterMap.2 ⟨region, List.mem_range.2 hr, by simp [he]⟩
    obtain ⟨y, hy⟩ : ∃ y, ((List.range m.count).filterMap (fun i => (m.entry? i).map (fun e => (i, e)))).find? (fun x => x.1 == region) = some y :=
      Option.isSome_iff_exists.1 (List.find?_isSome.2 ⟨_, hex, by simp⟩)
    have h1 := List.find?_some hy
    obtain ⟨k, -, hk⟩ := List.mem_filterMap.1 (List.mem_of_find?_eq_some hy)
    rw [hy]
    simp only [Option.map_eq_some_iff] at hk
    obtain ⟨e', hk, rfl⟩ := hk
    simp only [beq_iff_eq] at h1
    subst h1
    rw [he] at hk; cases hk; rfl
  simp only [State.fetchCheck, State.consultAll, State.consult_same ha hb]
  simp [hf, hp, ht, ho, State.fetchBytes_clean _ _ _ _ hd]

end Sys2Proof.Machine
end

