-- ==== Sys2Proof/Laws/Log.lean ====
section
/-! SUPPORT. The trouble log's slots (R348): a write changes the slot at LOG_HEAD alone, LOG_HEAD goes on to a slot that is not pinned, and
the slots stay well formed. -/

set_option linter.all false

namespace Sys2Proof.Machine

/-! The log's slots. -/

theorem TroubleLog.slot_write_same (g : TroubleLog) (e : LogEntry) : (g.write e).1.slot? g.head.toNat = some (g.write e).2 := by
  simp [TroubleLog.write, TroubleLog.slot?]
theorem find?_filter_ne (l : List (Nat × LogEntry)) (h n : Nat) (hn : n ≠ h) :
    (l.filter (fun x => x.1 != h)).find? (fun x => x.1 == n) = l.find? (fun x => x.1 == n) := by
  induction l with
  | nil => rfl
  | cons x l ih =>
    by_cases hx : x.1 = h
    · have hb : (x.1 == n) = false := by
        rw [beq_eq_false_iff_ne]
        exact fun e => hn (e ▸ hx)
      rw [List.filter_cons_of_neg (by simp [hx]), List.find?_cons, hb, ih]
    · rw [List.filter_cons_of_pos (by simp [hx]), List.find?_cons, List.find?_cons, ih]
/-- A write changes the slot at LOG_HEAD alone. -/
theorem TroubleLog.slot_write_other (g : TroubleLog) (e : LogEntry) (n : Nat) (h : n ≠ g.head.toNat) :
    (g.write e).1.slot? n = g.slot? n := by
  have h2 : ¬ g.head.toNat = n := fun e => h e.symm
  have hb : (g.head.toNat == n) = false := by simpa using h2
  simp only [TroubleLog.write, TroubleLog.slot?, List.find?_cons, hb]
  rw [find?_filter_ne _ _ _ h]
/-- Going on past pinned slots ends at one that is not pinned, when there is one within reach. -/
theorem TroubleLog.unpinned_ok (g : TroubleLog) (k n : Nat) (hn : n < 4096)
    (hx : ∃ i, i < k ∧ (g.slot? ((n + i) % 4096)).any (·.pinned) = false) : (g.slot? (g.unpinned k n)).any (·.pinned) = false := by
  induction k generalizing n with
  | zero => obtain ⟨i, hi, _⟩ := hx; omega
  | succ k ih =>
    unfold TroubleLog.unpinned
    split
    · rename_i hp
      obtain ⟨i, hi, hu⟩ := hx
      refine ih _ (Nat.mod_lt _ (by omega)) ?_
      cases i with
      | zero => rw [Nat.add_zero, Nat.mod_eq_of_lt hn] at hu; rw [hu] at hp; cases hp
      | succ i => exact ⟨i, by omega, by rw [show ((n + 1) % 4096 + i) % 4096 = (n + (i + 1)) % 4096 by omega]; exact hu⟩
    · rename_i hp; simpa using hp
theorem TroubleLog.unpinned_lt (g : TroubleLog) (k n : Nat) (hn : n < 4096) : g.unpinned k n < 4096 := by
  induction k generalizing n with
  | zero => exact hn
  | succ k ih => unfold TroubleLog.unpinned; split; exact ih _ (Nat.mod_lt _ (by omega)); exact hn
/-- Fewer pinned entries than slots looked at: one of them is not pinned. -/
theorem TroubleLog.some_unpinned (g : TroubleLog) (n : Nat) (hc : (g.slots.filter (fun x => x.2.pinned)).length ≤ 32) :
    ∃ i, i < 4096 ∧ (g.slot? ((n + i) % 4096)).any (·.pinned) = false := by
  by_contra hcon
  have hall : ∀ i, i < 4096 → (g.slot? ((n + i) % 4096)).any (·.pinned) = true := by
    intro i hi
    by_contra hne
    exact hcon ⟨i, hi, by simpa using hne⟩
  have hmem : ∀ i, i < 33 → (n + i) % 4096 ∈ (g.slots.filter (fun x => x.2.pinned)).map (·.1) := by
    intro i hi
    have h := hall i (by omega)
    unfold TroubleLog.slot? at h
    cases hf : g.slots.find? (fun x => x.1 == (n + i) % 4096) with
    | none => rw [hf] at h; cases h
    | some x =>
      rw [hf] at h
      have h1 := List.mem_of_find?_eq_some hf
      have h2 := List.find?_some hf
      simp only [beq_iff_eq] at h2
      exact List.mem_map.2 ⟨x, List.mem_filter.2 ⟨h1, by simpa using h⟩, h2⟩
  have hnd : ((List.range 33).map (fun i => (n + i) % 4096)).Nodup := by
    refine List.Nodup.map_on ?_ List.nodup_range
    intro a ha b hb hab
    rw [List.mem_range] at ha hb
    omega
  have hsub : (List.range 33).map (fun i => (n + i) % 4096) ⊆ (g.slots.filter (fun x => x.2.pinned)).map (·.1) := by
    intro y hy
    obtain ⟨i, hi, rfl⟩ := List.mem_map.1 hy
    exact hmem i (List.mem_range.1 hi)
  have hl := (List.subperm_of_subset hnd hsub).length_le
  simp only [List.length_map, List.length_range] at hl
  omega
theorem filter_ne_self (l : List (Nat × LogEntry)) (h : Nat) (hp : ((l.find? (fun x => x.1 == h)).map (·.2)).any (·.pinned) = false)
    (hn : (l.map (·.1)).Nodup) :
    ((l.filter (fun x => x.1 != h)).filter (fun x => x.2.pinned)).length = (l.filter (fun x => x.2.pinned)).length := by
  induction l with
  | nil => rfl
  | cons x l ih =>
    simp only [List.map_cons, List.nodup_cons] at hn
    by_cases hx : x.1 = h
    · have hu : x.2.pinned = false := by simpa [hx] using hp
      have hno : ∀ y ∈ l, (y.1 != h) = true := by
        intro y hy
        simp only [bne_iff_ne, ne_eq]
        intro e
        exact hn.1 (hx ▸ e ▸ List.mem_map_of_mem hy)
      rw [List.filter_cons_of_neg (by simp [hx]), List.filter_eq_self.2 hno, List.filter_cons_of_neg (by simp [hu])]
    · have hp2 : ((l.find? (fun x => x.1 == h)).map (·.2)).any (·.pinned) = false := by simpa [hx] using hp
      have := ih hp2 hn.2
      rw [List.filter_cons_of_pos (by simp [hx])]
      by_cases hq : x.2.pinned = true
      · simp only [List.filter_cons, hq, if_true, List.length_cons, this]
      · simp only [List.filter_cons, hq, if_false]; exact this
/-- A write keeps the slots well formed. -/
theorem TroubleLog.write_wf (g : TroubleLog) (e : LogEntry) (h : g.Wf) : (g.write e).1.Wf := by
  have hcount : ((g.write e).1.slots.filter (fun x => x.2.pinned)).length = (g.write e).1.pinned.toNat ∧ (g.write e).1.pinned.toNat ≤ 32 := by
    have hf := filter_ne_self g.slots g.head.toNat h.head h.once
    have hc := h.count
    have hm := h.most
    simp only [TroubleLog.write]
    by_cases hp : ((faultClass e.code == 4 || faultClass e.code == 5) && decide (g.pinned.toNat < 32)) = true
    · have hlt : g.pinned.toNat < 32 := by simp only [Bool.and_eq_true, decide_eq_true_eq] at hp; exact hp.2
      have hs : (g.pinned + 1).toNat = g.pinned.toNat + 1 := by rw [BitVec.toNat_add]; have : (1 : BitVec 6).toNat = 1 := rfl; omega
      rw [List.filter_cons_of_pos (by simpa using hp), if_pos hp, List.length_cons, hf, hs]
      omega
    · rw [List.filter_cons_of_neg (by simpa using hp), if_neg hp, hf]
      exact ⟨hc, hm⟩
  refine ⟨?_, ?_, hcount.1, hcount.2, ?_⟩
  · simp only [TroubleLog.write, List.map_cons, List.nodup_cons]
    refine ⟨by simp, ?_⟩
    exact (h.once.sublist ((List.filter_sublist).map _))
  · intro x hx
    simp only [TroubleLog.write, List.mem_cons, List.mem_filter] at hx
    rcases hx with hx | hx
    · subst hx; exact g.head.isLt
    · exact h.range x hx.1
  · have hlt : (g.head.toNat + 1) % 4096 < 4096 := Nat.mod_lt _ (by omega)
    have hsome := TroubleLog.some_unpinned (g.write e).1 ((g.head.toNat + 1) % 4096) (by rw [hcount.1]; exact hcount.2)
    have hu := TroubleLog.unpinned_ok (g.write e).1 4096 _ hlt hsome
    have hl := TroubleLog.unpinned_lt (g.write e).1 4096 _ hlt
    have hs : ∀ k n, (g.write e).1.unpinned k n = TroubleLog.unpinned { (g.write e).1 with head := g.head } k n := by
      intro k
      induction k with
      | zero => intro n; rfl
      | succ k ih => intro n; unfold TroubleLog.unpinned; rw [ih]; rfl
    have hh : (g.write e).1.head.toNat = (g.write e).1.unpinned 4096 ((g.head.toNat + 1) % 4096) := by
      rw [hs] at hl ⊢
      simp only [TroubleLog.write] at hl ⊢
      rw [BitVec.toNat_ofNat, Nat.mod_eq_of_lt hl]
    rw [hh]; exact hu

end Sys2Proof.Machine
end

