-- ==== Sys2Proof/Laws/Memory.lean ====
section
/-! SUPPORT. Byte storage: every operation keeps the canonical form, and what a read after a write gives. -/

namespace Sys2Proof.Machine

/-! The canonical form. -/

theorem Mem.wfFrom_mono {m : Bytes} : ∀ {lo lo' : Nat}, Mem.wfFrom lo m = true → lo' ≤ lo → Mem.wfFrom lo' m = true := by
  intro lo lo' h hl
  cases m with
  | nil => rfl
  | cons x m => simp only [Mem.wfFrom, Bool.and_eq_true, decide_eq_true_eq] at h ⊢; exact ⟨⟨by omega, h.1.2⟩, h.2⟩
theorem Mem.wfFrom_set : ∀ (m : Bytes) (lo x : Nat) (v : Byte), Mem.wfFrom lo m = true → lo ≤ x → Mem.wfFrom lo (Mem.set m x v) = true := by
  intro m
  induction m with
  | nil => intro lo x v _ hx; simp only [Mem.set]; split <;> simp_all [Mem.wfFrom]
  | cons y m ih =>
    intro lo x v h hx
    obtain ⟨a, b⟩ := y
    simp only [Mem.wfFrom, Bool.and_eq_true, decide_eq_true_eq] at h
    simp only [Mem.set]
    split
    · split
      · simp only [Mem.wfFrom, Bool.and_eq_true, decide_eq_true_eq]; exact ⟨⟨h.1.1, h.1.2⟩, h.2⟩
      · rename_i hv; simp only [Mem.wfFrom, Bool.and_eq_true, decide_eq_true_eq, bne_iff_ne]; exact ⟨⟨hx, hv⟩, ⟨by omega, by simpa using h.1.2⟩, h.2⟩
    · split
      · split
        · exact Mem.wfFrom_mono h.2 (by omega)
        · subst_vars; simp_all [Mem.wfFrom]
      · simp only [Mem.wfFrom, Bool.and_eq_true, decide_eq_true_eq]
        exact ⟨h.1, ih _ _ _ h.2 (by omega)⟩
theorem Mem.wf_set (m : Bytes) (x : Nat) (v : Byte) (h : Mem.wf m = true) : Mem.wf (Mem.set m x v) = true :=
  Mem.wfFrom_set m 0 x v h (Nat.zero_le _)
theorem Mem.wf_write (m : Bytes) (a : Nat) (bs : List Byte) (h : Mem.wf m = true) : Mem.wf (Mem.write m a bs) = true := by
  induction bs generalizing m a with
  | nil => exact h
  | cons b bs ih => exact ih _ _ (Mem.wf_set _ _ _ h)
theorem Mem.wf_writeAll (m : Bytes) (ws : List (Nat × Byte)) (h : Mem.wf m = true) : Mem.wf (Mem.writeAll m ws) = true := by
  unfold Mem.writeAll
  induction ws generalizing m with
  | nil => exact h
  | cons b bs ih => exact ih _ (Mem.wf_set _ _ _ h)
theorem Mem.wfFrom_zero : ∀ (m : Bytes) (k lo hi : Nat), Mem.wfFrom k m = true → Mem.wfFrom k (Mem.zero m lo hi) = true := by
  intro m
  induction m with
  | nil => intros; rfl
  | cons y m ih =>
    intro k lo hi h
    obtain ⟨a, b⟩ := y
    simp only [Mem.wfFrom, Bool.and_eq_true, decide_eq_true_eq] at h
    simp only [Mem.zero]
    split
    · exact ih _ _ _ (Mem.wfFrom_mono h.2 (by omega))
    · simp only [Mem.wfFrom, Bool.and_eq_true, decide_eq_true_eq]; exact ⟨h.1, ih _ _ _ h.2⟩
theorem Mem.wf_zero (m : Bytes) (lo hi : Nat) (h : Mem.wf m = true) : Mem.wf (Mem.zero m lo hi) = true := Mem.wfFrom_zero m 0 lo hi h


/-! Reading after writing. -/

theorem Mem.get_below : ∀ {m : Bytes} {lo x : Nat}, Mem.wfFrom lo m = true → x < lo → Mem.get m x = 0 := by
  intro m
  induction m with
  | nil => intros; rfl
  | cons y m ih =>
    intro lo x h hx
    obtain ⟨a, b⟩ := y
    simp only [Mem.wfFrom, Bool.and_eq_true, decide_eq_true_eq] at h
    have h1 : ¬ x = a := by omega
    have h2 : x < a := by omega
    simp [Mem.get, h1, h2]
theorem Mem.get_setFrom : ∀ (m : Bytes) (lo x y : Nat) (v : Byte), Mem.wfFrom lo m = true →
    Mem.get (Mem.set m x v) y = if y = x then v else Mem.get m y := by
  intro m
  induction m with
  | nil => intro lo x y v _; simp only [Mem.set]; split <;> simp_all [Mem.get]
  | cons z m ih =>
    intro lo x y v h
    obtain ⟨a, b⟩ := z
    simp only [Mem.wfFrom, Bool.and_eq_true, decide_eq_true_eq] at h
    have hb : ∀ w, w < a + 1 → Mem.get m w = 0 := fun w hw => Mem.get_below h.2 hw
    simp only [Mem.set]
    split
    · split
      · by_cases e : y = x
        · subst e; have h1 : ¬ y = a := by omega
          simp_all [Mem.get]
        · simp [e]
      · by_cases e : y = x
        · simp [Mem.get, e]
        · by_cases l : y < x
          · have h1 : ¬ y = a := by omega
            have h2 : y < a := by omega
            simp [Mem.get, e, l, h1, h2]
          · simp [Mem.get, e, l]
    · split
      · rename_i hxa
        split
        · by_cases e : y = a
          · simp [hb a (by omega), *]
          · by_cases l : y < a
            · simp [Mem.get, e, l, hb y (by omega), hxa]
            · simp [Mem.get, e, l, hxa]
        · by_cases e : y = a <;> simp [Mem.get, e, hxa]
      · by_cases e : y = a
        · have : ¬ a = x := by omega
          simp [Mem.get, e, this]
        · by_cases l : y < a
          · have : ¬ y = x := by omega
            simp [Mem.get, e, l, this]
          · simp [Mem.get, e, l, ih (a + 1) x y v h.2]
/-- A byte written reads as written, and every other byte as before. -/
theorem Mem.get_set (m : Bytes) (x y : Nat) (v : Byte) (h : Mem.wf m = true) :
    Mem.get (Mem.set m x v) y = if y = x then v else Mem.get m y := Mem.get_setFrom m 0 x y v h
/-- Bytes outside a write read as before. -/
theorem Mem.get_write_other (m : Bytes) (a y : Nat) (bs : List Byte) (h : Mem.wf m = true) (ho : y < a ∨ a + bs.length ≤ y) :
    Mem.get (Mem.write m a bs) y = Mem.get m y := by
  induction bs generalizing m a with
  | nil => rfl
  | cons b bs ih =>
    simp only [List.length_cons] at ho
    rw [Mem.write, ih _ _ (Mem.wf_set _ _ _ h) (by omega), Mem.get_set _ _ _ _ h]
    have : ¬ y = a := by omega
    simp [this]
/-- Bytes inside a write read as written. -/
theorem Mem.get_write (m : Bytes) (a i : Nat) (bs : List Byte) (h : Mem.wf m = true) (hi : i < bs.length) :
    Mem.get (Mem.write m a bs) (a + i) = bs[i] := by
  induction bs generalizing m a i with
  | nil => simp at hi
  | cons b bs ih =>
    rw [Mem.write]
    cases i with
    | zero => rw [Mem.get_write_other _ _ _ _ (Mem.wf_set _ _ _ h) (by omega), Mem.get_set _ _ _ _ h]; simp
    | succ i =>
      have hi2 : i < bs.length := by simpa using hi
      rw [show a + (i + 1) = a + 1 + i by omega, ih _ _ _ (Mem.wf_set _ _ _ h) hi2]; simp
theorem Mem.get_zeroFrom : ∀ (m : Bytes) (k lo hi y : Nat), Mem.wfFrom k m = true →
    Mem.get (Mem.zero m lo hi) y = if lo ≤ y ∧ y < hi then 0 else Mem.get m y := by
  intro m
  induction m with
  | nil => intros; simp [Mem.zero, Mem.get]
  | cons z m ih =>
    intro k lo hi y h
    obtain ⟨a, b⟩ := z
    simp only [Mem.wfFrom, Bool.and_eq_true, decide_eq_true_eq] at h
    have hb : ∀ w, w < a + 1 → Mem.get m w = 0 := fun w hw => Mem.get_below h.2 hw
    simp only [Mem.zero]
    split
    · rw [ih _ _ _ _ h.2]
      by_cases e : y = a
      · subst e; simp [*]
      · by_cases l : y < a
        · simp [Mem.get, e, l, hb y (by omega)]
        · simp [Mem.get, e, l]
    · by_cases e : y = a
      · subst e; simp [Mem.get, *]
      · by_cases l : y < a
        · simp [Mem.get, e, l]
        · simp [Mem.get, e, l, ih _ _ _ _ h.2]
/-- A zeroed range reads as zero, and every other byte as before. -/
theorem Mem.get_zero (m : Bytes) (lo hi y : Nat) (h : Mem.wf m = true) :
    Mem.get (Mem.zero m lo hi) y = if lo ≤ y ∧ y < hi then 0 else Mem.get m y := Mem.get_zeroFrom m 0 lo hi y h

end Sys2Proof.Machine
end

