-- ==== Sys2Proof/Laws/Steady.lean ====
section
/-! SUPPORT. State.Steady: what nearly every operation keeps, and how it goes through the forms that meanings are written in. -/

namespace Sys2Proof.Machine

/-- What nearly every operation keeps of a state s₀: s is well formed as State.Inv says, and device time, the log's slots, the key
slots, the queue of commands and the standby reset stand as in s₀, and main conversion runs only where it ran in s₀. -/
structure State.Steady (s s₀ : State) : Prop where
  sram : Mem.wf s.sram.mem = true
  host : Mem.wf s.host.mem = true
  flash : Mem.wf s.boot.flash = true
  input : s.log.input.length ≤ 256
  time : s.clock.sec = s₀.clock.sec ∧ s.clock.ns = s₀.clock.ns ∧ s.clock.frac = s₀.clock.frac
  slots : s.log.slots = s₀.log.slots ∧ s.log.head = s₀.log.head ∧ s.log.pinned = s₀.log.pinned
  keys : s.mgt.keys = s₀.mgt.keys
  queue : s.pending = s₀.pending
  por : s.power.porReleased = s₀.power.porReleased ∧ (s.power.mainPg = true → s₀.power.mainPg = true)

variable {s₀ : State}
theorem State.Inv.steady {s : State} (h : s.Inv) : s.Steady s := ⟨h.1, h.2, h.3, h.5, ⟨rfl, rfl, rfl⟩, ⟨rfl, rfl, rfl⟩, rfl, rfl, rfl, id⟩
/-- Steady over a state in which main conversion runs. -/
theorem State.Steady.powered {s : State} (h : s.Steady s₀) : s.Steady { s₀ with power := { s₀.power with mainPg := true } } :=
  ⟨h.1, h.2, h.3, h.4, h.5, h.6, h.7, h.8, h.9.1, fun _ => rfl⟩
theorem TroubleLog.Wf.of_eq {g k : TroubleLog} (h : k.Wf) (h1 : g.slots = k.slots) (h2 : g.head = k.head) (h3 : g.pinned = k.pinned) : g.Wf := by
  refine ⟨by rw [h1]; exact h.once, by rw [h1]; exact h.range, by rw [h1, h3]; exact h.count, by rw [h3]; exact h.most, ?_⟩
  have : g.slot? g.head.toNat = k.slot? k.head.toNat := by unfold TroubleLog.slot?; rw [h1, h2]
  rw [this]; exact h.head
theorem State.Steady.inv {s : State} (h : s.Steady s₀) (h0 : s₀.Inv) : s.Inv :=
  ⟨h.1, h.2, h.3, by rw [h.time.2.1]; exact h0.ns, h.4, h0.log.of_eq h.slots.1 h.slots.2.1 h.slots.2.2⟩

theorem foldl_steady {α : Type} (l : List α) (f : State → α → State) (s : State) (h : s.Steady s₀) (hf : ∀ s x, s.Steady s₀ → (f s x).Steady s₀) : (l.foldl f s).Steady s₀ := by
  induction l generalizing s with
  | nil => exact h
  | cons x l ih => exact ih _ (hf _ _ h)
theorem upd_steady (s : State) (h : s.Steady s₀) (pace parts jobs units seqTurn pe links infield hiu fns svc side fresh) :
  State.Steady ⟨s.pending, s.power, s.boot, s.clock, s.log, s.mgt, pace, s.sram, parts, jobs, units, seqTurn, pe, links, infield, hiu, fns, s.host, svc, side, fresh⟩ s₀ := ⟨h.1,h.2,h.3,h.4,h.5,h.6,h.7,h.8,h.9⟩
theorem ite_steady {c : Prop} [Decidable c] {a b : State} (ha : a.Steady s₀) (hb : b.Steady s₀) : (if c then a else b).Steady s₀ := by split <;> assumption
theorem ite_fst {α : Type} {c : Prop} [Decidable c] {a b : State × α} (ha : a.1.Steady s₀) (hb : b.1.Steady s₀) : (if c then a else b).1.Steady s₀ := by split <;> assumption
theorem ite_snd {α : Type} {c : Prop} [Decidable c] {a b : α × State} (ha : a.2.Steady s₀) (hb : b.2.Steady s₀) : (if c then a else b).2.Steady s₀ := by split <;> assumption
theorem pair_steady {α : Type} {e : State × α} {out : State} {res : α} (h : e.1.Steady s₀) (heq : e = (out, res)) : out.Steady s₀ := by rw [heq] at h; exact h
theorem getD_steady {x : Option State} {s : State} (hx : ∀ out, x = some out → out.Steady s₀) (h : s.Steady s₀) : (x.getD s).Steady s₀ := by
  cases x with
  | none => exact h
  | some t => exact hx t rfl
end Sys2Proof.Machine
end

