-- ==== Sys2Proof/Laws/SteadyOps.lean ====
section
/-! SUPPORT. For each operation of shared operations, faults, access, batons and link down: what it keeps (State.Steady). -/

set_option maxRecDepth 4000
set_option linter.all false

namespace Sys2Proof.Machine

variable {s₀ : State}

/-! Machine/Ops.lean. -/

theorem modPart_steady (s : State) (p : PartId) (f : Partition → Partition) (hs : s.Steady s₀) : (State.modPart s p f).Steady s₀ := by
  unfold State.modPart; repeat' (first | with_reducible assumption | with_reducible (refine upd_steady _ ?_ .. ; with_reducible assumption) | split)
theorem modLink_steady (s : State) (l : LinkId) (f : Link → Link) (hs : s.Steady s₀) : (State.modLink s l f).Steady s₀ := by
  unfold State.modLink; repeat' (first | with_reducible assumption | with_reducible (refine upd_steady _ ?_ .. ; with_reducible assumption) | split)
theorem modFn_steady (s : State) (f : FnId) (g : Function → Function) (hs : s.Steady s₀) : (State.modFn s f g).Steady s₀ := by
  unfold State.modFn; repeat' (first | with_reducible assumption | with_reducible (refine upd_steady _ ?_ .. ; with_reducible assumption) | split)
theorem modPace_steady (s : State) (g : Pacer → Pacer) (hs : s.Steady s₀) : (State.modPace s g).Steady s₀ := by
  unfold State.modPace; repeat' (first | with_reducible assumption | with_reducible (refine upd_steady _ ?_ .. ; with_reducible assumption) | split)
theorem modMgt_steady (s : State) (f) (h : s.Steady s₀) (h1 : (f s.mgt).keys = s.mgt.keys) : (s.modMgt f).Steady s₀ := ⟨h.1,h.2,h.3,h.4,h.5,h.6,h1.trans h.7,h.8,h.9⟩
/-- An update of power while main conversion runs in s₀. -/
theorem modPower_steady_on (s : State) (f) (h : s.Steady s₀) (h1 : (f s.power).porReleased = s.power.porReleased)
    (hm : s₀.power.mainPg = true) : (s.modPower f).Steady s₀ := ⟨h.1,h.2,h.3,h.4,h.5,h.6,h.7,h.8,h1.trans h.9.1, fun _ => hm⟩
theorem modPower_steady (s : State) (f) (h : s.Steady s₀) (h1 : (f s.power).porReleased = s.power.porReleased ∧ ((f s.power).mainPg = true → s.power.mainPg = true)) : (s.modPower f).Steady s₀ :=
  ⟨h.1,h.2,h.3,h.4,h.5,h.6,h.7,h.8,h1.1.trans h.9.1, fun x => h.9.2 (h1.2 x)⟩
theorem modInfield_steady (s : State) (g : Infield → Infield) (hs : s.Steady s₀) : (State.modInfield s g).Steady s₀ := by
  unfold State.modInfield; repeat' (first | with_reducible assumption | with_reducible (refine upd_steady _ ?_ .. ; with_reducible assumption) | split)
theorem modHiu_steady (s : State) (g : Hiu → Hiu) (hs : s.Steady s₀) : (State.modHiu s g).Steady s₀ := by
  unfold State.modHiu; repeat' (first | with_reducible assumption | with_reducible (refine upd_steady _ ?_ .. ; with_reducible assumption) | split)
theorem modSvc_steady (s : State) (g : Svc → Svc) (hs : s.Steady s₀) : (State.modSvc s g).Steady s₀ := by
  unfold State.modSvc; repeat' (first | with_reducible assumption | with_reducible (refine upd_steady _ ?_ .. ; with_reducible assumption) | split)
theorem modClock_steady (s : State) (f) (h : s.Steady s₀) (h1 : (f s.clock).sec = s.clock.sec) (h2 : (f s.clock).ns = s.clock.ns) (h3 : (f s.clock).frac = s.clock.frac) : (s.modClock f).Steady s₀ :=
  ⟨h.1,h.2,h.3,h.4,⟨h1.trans h.time.1, h2.trans h.time.2.1, h3.trans h.time.2.2⟩,h.6,h.7,h.8,h.9⟩
theorem modSram_steady (s : State) (f) (h : s.Steady s₀) (hf : Mem.wf (f s.sram).mem = true) : (s.modSram f).Steady s₀ := ⟨hf,h.2,h.3,h.4,h.5,h.6,h.7,h.8,h.9⟩
theorem modSram_steady2 (s : State) (f) (h : s.Steady s₀) (h0 : (f s.sram).mem = s.sram.mem) : (s.modSram f).Steady s₀ := modSram_steady s f h (by rw [h0]; exact h.1)
theorem modBoot_steady (s : State) (f) (h : s.Steady s₀) (hf : Mem.wf (f s.boot).flash = true) : (s.modBoot f).Steady s₀ := ⟨h.1,h.2,hf,h.4,h.5,h.6,h.7,h.8,h.9⟩
theorem modBoot_steady2 (s : State) (f) (h : s.Steady s₀) (h0 : (f s.boot).flash = s.boot.flash) : (s.modBoot f).Steady s₀ := modBoot_steady s f h (by rw [h0]; exact h.3)
theorem modLog_steady (s : State) (f) (h : s.Steady s₀) (h0 : (f s.log).input.length ≤ 256) (h1 : (f s.log).slots = s.log.slots) (h2 : (f s.log).head = s.log.head) (h3 : (f s.log).pinned = s.log.pinned) : (s.modLog f).Steady s₀ :=
  ⟨h.1,h.2,h.3,h0,h.5,⟨h1.trans h.slots.1, h2.trans h.slots.2.1, h3.trans h.slots.2.2⟩,h.7,h.8,h.9⟩
theorem modLog_steady2 (s : State) (f) (h : s.Steady s₀) (h0 : (f s.log).input = s.log.input) (h1 : (f s.log).slots = s.log.slots) (h2 : (f s.log).head = s.log.head) (h3 : (f s.log).pinned = s.log.pinned) : (s.modLog f).Steady s₀ :=
  modLog_steady s f h (by rw [h0]; exact h.4) h1 h2 h3
theorem modJob_steady (s : State) (id : Nat) (f : Job → Job) (hs : s.Steady s₀) : (State.modJob s id f).Steady s₀ := by
  unfold State.modJob; repeat' (first | with_reducible assumption | with_reducible (refine upd_steady _ ?_ .. ; with_reducible assumption) | with_reducible refine ite_steady ?_ ?_ | split)
theorem overHost_steady (s : State) (g : State → State) (hg : (g s).Steady s₀) (hs : s.Steady s₀) :
    ∀ out, s.overHost g = .next out → out.Steady s₀ := by
  intro out ht
  unfold State.overHost at ht
  injection ht with ht
  subst ht
  exact ite_steady hg hs
theorem draw_steady (s : State) (hs : s.Steady s₀) : (State.draw s).2.Steady s₀ := by
  unfold State.draw; repeat' (first | with_reducible assumption | with_reducible (refine upd_steady _ ?_ .. ; with_reducible assumption) | with_reducible (dsimp only) | split)
theorem draw_steadyE {s : State} {out : State} {res} (hs : s.Steady s₀) (heq : State.draw s = (res, out)) : out.Steady s₀ := by
  have h := draw_steady s hs; rw [heq] at h; exact h
/-- The entry that overfull picks is the new one or one of the queue. -/
theorem foldl_last_mem (l : List LogEntry) (m : LogEntry) :
    l.foldl (fun m x => if m.rank ≤ x.rank then x else m) m = m ∨ l.foldl (fun m x => if m.rank ≤ x.rank then x else m) m ∈ l := by
  induction l generalizing m with
  | nil => exact .inl rfl
  | cons x l ih =>
    rw [List.foldl_cons]
    rcases ih (if m.rank ≤ x.rank then x else m) with h | h
    · rw [h]; split
      · exact .inr List.mem_cons_self
      · exact .inl rfl
    · exact .inr (List.mem_cons_of_mem _ h)
/-- A full queue stays as long as it is. -/
theorem TroubleLog.overfull_length (g : TroubleLog) (e : LogEntry) : (g.overfull e).input.length = g.input.length := by
  unfold TroubleLog.overfull
  dsimp only
  split
  · next h =>
    rcases foldl_last_mem (g.input.filter (fun x => e.beat.isSome && x.beat == e.beat)) e with h' | h'
    · rw [h'] at h; omega
    · have hm := List.mem_of_mem_filter h'
      have hp : 0 < g.input.length := List.length_pos_of_mem hm
      rw [List.length_append, List.length_erase_of_mem hm]
      simp only [List.length_cons, List.length_nil]; omega
  · rfl
theorem hand_steady (s : State) (code : W16) (vf : Nat) (body : LogBody) (place : Nat) (hs : s.Steady s₀) : (State.hand s code vf body place).Steady s₀ := by
  unfold State.hand
  dsimp only
  refine modLog_steady _ _ hs ?_ ?_ ?_ ?_
  · split
    · next h => simp only [List.length_append, List.length_cons, List.length_nil]; omega
    · rw [TroubleLog.overfull_length]; exact hs.input
  all_goals (split <;> rfl)
theorem logs_steady (s : State) (code : W16) (vf : Nat) (place : Nat) (hs : s.Steady s₀) : (State.logs s code vf place).Steady s₀ := by
  unfold State.logs; repeat' (first | with_reducible assumption | with_reducible refine hand_steady _ _ _ _ _ ?_ | split)
theorem logAt_steady (s : State) (code : W16) (vf : Nat) (r : Loc) (hs : s.Steady s₀) : (State.logAt s code vf r).Steady s₀ := by
  unfold State.logAt; repeat' (first | with_reducible assumption | with_reducible refine hand_steady _ _ _ _ _ ?_ | split)
theorem logRate_steady (s : State) (scope : HoldoffScope) (code : W16) (vf : Nat) (place : Nat) (hs : s.Steady s₀) : (State.logRate s scope code vf place).Steady s₀ := by
  unfold State.logRate; repeat' (first | with_reducible assumption | with_reducible (refine upd_steady _ ?_ .. ; with_reducible assumption) | with_reducible refine ite_steady ?_ ?_ | with_reducible refine modLog_steady2 _ _ ?_ rfl rfl rfl rfl | with_reducible refine logs_steady _ _ _ _ ?_ | split)
theorem logRateAt_steady (s : State) (scope : HoldoffScope) (code : W16) (vf : Nat) (r : Loc) (hs : s.Steady s₀) : (State.logRateAt s scope code vf r).Steady s₀ := by
  unfold State.logRateAt; repeat' (first | with_reducible assumption | with_reducible (refine upd_steady _ ?_ .. ; with_reducible assumption) | with_reducible refine ite_steady ?_ ?_ | with_reducible refine modLog_steady2 _ _ ?_ rfl rfl rfl rfl | with_reducible refine logAt_steady _ _ _ _ ?_ | split)
theorem wr_steady (s : State) (a : Nat) (bs : List Byte) (hs : s.Steady s₀) : (State.wr s a bs).Steady s₀ := by
  unfold State.wr; repeat' (first | with_reducible assumption | with_reducible exact Mem.wf_write _ _ _ (State.Steady.sram (by assumption)) | with_reducible refine modSram_steady _ _ ?_ ?_)
theorem zeroRange_steady (s : State) (lo hi : Nat) (hs : s.Steady s₀) : (State.zeroRange s lo hi).Steady s₀ := by
  unfold State.zeroRange; repeat' (first | with_reducible assumption | with_reducible exact Mem.wf_zero _ _ _ (State.Steady.sram (by assumption)) | with_reducible refine modSram_steady _ _ ?_ ?_)

/-! Machine/Rows.lean. -/

theorem retireRow_steady (s : State) (d : DieId) (row : Nat) (vf : Nat) (r : Loc) (hs : s.Steady s₀) : (State.retireRow s d row vf r).Steady s₀ := by
  unfold State.retireRow; repeat' (first | with_reducible assumption | with_reducible (refine upd_steady _ ?_ .. ; with_reducible assumption) | with_reducible refine ite_steady ?_ ?_ | with_reducible refine modSram_steady2 _ _ ?_ rfl | with_reducible refine logAt_steady _ _ _ _ ?_ | split)
theorem correctWord_steady (s : State) (key : Nat) (row : Nat) (d : DieId) (vf : Nat) (r : Loc) (hs : s.Steady s₀) : (State.correctWord s key row d vf r).Steady s₀ := by
  unfold State.correctWord; repeat' (first | with_reducible assumption | with_reducible (refine upd_steady _ ?_ .. ; with_reducible assumption) | with_reducible refine ite_steady ?_ ?_ | with_reducible (extract_lets +onlyGivenNames x; refine (show x.Steady s₀ → _ from fun hx => ?_) ?_; (on_goal 2 => unfold x; clear x); clear_value x; revert x; intro _ _) | with_reducible (extract_lets +onlyGivenNames x; refine (show x.1.Steady s₀ → _ from fun hx => ?_) ?_; (on_goal 2 => unfold x; clear x); clear_value x; revert x; intro _ _) | with_reducible (extract_lets +onlyGivenNames x; refine (show x.2.Steady s₀ → _ from fun hx => ?_) ?_; (on_goal 2 => unfold x; clear x); clear_value x; revert x; intro _ _) | with_reducible (extract_lets +onlyGivenNames x; refine (show (∀ t : State, t.Steady s₀ → (x t).Steady s₀) → _ from fun hx => ?_) ?_; (on_goal 2 => unfold x; clear x; intro t ht; beta_reduce); clear_value x; revert x; intro _ _) | with_reducible (extract_lets +onlyGivenNames x; clear_value x; revert x; intro _) | with_reducible refine modSram_steady2 _ _ ?_ rfl | with_reducible refine logAt_steady _ _ _ _ ?_ | with_reducible refine retireRow_steady _ _ _ _ _ ?_ | split)
theorem recoveryDouble_steady (s : State) (d : DieId) (word : Nat) (r : Loc) (hs : s.Steady s₀) : (State.recoveryDouble s d word r).Steady s₀ := by
  unfold State.recoveryDouble; repeat' (first | with_reducible assumption | with_reducible refine logAt_steady _ _ _ _ ?_ | with_reducible refine retireRow_steady _ _ _ _ _ ?_ | split)
theorem useRecovery_steady (s : State) (d : DieId) (hs : s.Steady s₀) : (State.useRecovery s d).Steady s₀ := by
  unfold State.useRecovery; repeat' (first | with_reducible assumption | with_reducible (refine upd_steady _ ?_ .. ; with_reducible assumption) | with_reducible (extract_lets +onlyGivenNames x; refine (show x.Steady s₀ → _ from fun hx => ?_) ?_; (on_goal 2 => unfold x; clear x); clear_value x; revert x; intro _ _) | with_reducible (extract_lets +onlyGivenNames x; refine (show x.1.Steady s₀ → _ from fun hx => ?_) ?_; (on_goal 2 => unfold x; clear x); clear_value x; revert x; intro _ _) | with_reducible (extract_lets +onlyGivenNames x; refine (show x.2.Steady s₀ → _ from fun hx => ?_) ?_; (on_goal 2 => unfold x; clear x); clear_value x; revert x; intro _ _) | with_reducible (extract_lets +onlyGivenNames x; refine (show (∀ t : State, t.Steady s₀ → (x t).Steady s₀) → _ from fun hx => ?_) ?_; (on_goal 2 => unfold x; clear x; intro t ht; beta_reduce); clear_value x; revert x; intro _ _) | with_reducible (extract_lets +onlyGivenNames x; clear_value x; revert x; intro _) | with_reducible refine foldl_steady _ _ _ ?_ (fun _ _ _ => ?_) | with_reducible refine getD_steady (fun _ _ => ?_) ?_ | with_reducible refine modSram_steady2 _ _ ?_ rfl | with_reducible refine correctWord_steady _ _ _ _ _ _ ?_ | with_reducible refine recoveryDouble_steady _ _ _ _ ?_ | split)

/-! Machine/Eth.lean. -/

theorem sendFrame_steady (s : State) (p : PortId) (sub : SubPort) (f : List Byte) (hs : s.Steady s₀) : (State.sendFrame s p sub f).Steady s₀ := by
  unfold State.sendFrame; repeat' (first | with_reducible assumption | with_reducible (refine upd_steady _ ?_ .. ; with_reducible assumption) | with_reducible refine ite_steady ?_ ?_ | with_reducible refine modSvc_steady _ _ ?_ | split)
theorem zshReply_steady (s : State) (r : ZshRequest) (entry : List Byte) (result : List Byte) (hs : s.Steady s₀) : (State.zshReply s r entry result).Steady s₀ := by
  unfold State.zshReply; repeat' (first | with_reducible assumption | with_reducible refine ite_steady ?_ ?_ | with_reducible (extract_lets +onlyGivenNames x; refine (show x.Steady s₀ → _ from fun hx => ?_) ?_; (on_goal 2 => unfold x; clear x); clear_value x; revert x; intro _ _) | with_reducible (extract_lets +onlyGivenNames x; refine (show x.1.Steady s₀ → _ from fun hx => ?_) ?_; (on_goal 2 => unfold x; clear x); clear_value x; revert x; intro _ _) | with_reducible (extract_lets +onlyGivenNames x; refine (show x.2.Steady s₀ → _ from fun hx => ?_) ?_; (on_goal 2 => unfold x; clear x); clear_value x; revert x; intro _ _) | with_reducible (extract_lets +onlyGivenNames x; refine (show (∀ t : State, t.Steady s₀ → (x t).Steady s₀) → _ from fun hx => ?_) ?_; (on_goal 2 => unfold x; clear x; intro t ht; beta_reduce); clear_value x; revert x; intro _ _) | with_reducible (extract_lets +onlyGivenNames x; clear_value x; revert x; intro _) | with_reducible refine foldl_steady _ _ _ ?_ (fun _ _ _ => ?_) | with_reducible refine getD_steady (fun _ _ => ?_) ?_ | with_reducible refine sendFrame_steady _ _ _ _ ?_ | split)

/-! Machine/Host.lean. -/

theorem hostWrite_steady (s : State) (a : Nat) (bs : List Byte) (h : s.Steady s₀) : (s.hostWrite a bs).Steady s₀ :=
  ⟨h.1, Mem.wf_writeAll _ _ h.2, h.3, h.4, h.5, h.6, h.7, h.8, h.9⟩
theorem hostWrote_steady (s : State) (ws : HostWrites) (h : s.Steady s₀) : (s.hostWrote ws).Steady s₀ :=
  ⟨h.1, Mem.wf_writeAll _ _ h.2, h.3, h.4, h.5, h.6, h.7, h.8, h.9⟩
theorem msix_steady (s : State) (f : FnId) (vec : Byte) (hs : s.Steady s₀) : (State.msix s f vec).Steady s₀ := by
  unfold State.msix; repeat' (first | with_reducible assumption | with_reducible (refine upd_steady _ ?_ .. ; with_reducible assumption) | with_reducible refine ite_steady ?_ ?_ | with_reducible refine modFn_steady _ _ _ ?_ | with_reducible refine modHiu_steady _ _ ?_ | split)
theorem msixFreed_steady (s : State) (f : FnId) (n : Nat) (hs : s.Steady s₀) : (State.msixFreed s f n).Steady s₀ := by
  unfold State.msixFreed; repeat' (first | with_reducible assumption | with_reducible (refine upd_steady _ ?_ .. ; with_reducible assumption) | with_reducible refine ite_steady ?_ ?_ | with_reducible refine modFn_steady _ _ _ ?_ | with_reducible refine msix_steady _ _ _ ?_ | split)
theorem msixFreedAll_steady (s : State) (f : FnId) (hs : s.Steady s₀) : (State.msixFreedAll s f).Steady s₀ := by
  unfold State.msixFreedAll; repeat' (first | with_reducible assumption | with_reducible refine ite_steady ?_ ?_ | with_reducible refine foldl_steady _ _ _ ?_ (fun _ _ _ => ?_) | with_reducible refine msixFreed_steady _ _ _ ?_ | split)
theorem winWrite_steady (s : State) (root : W64) (k off : Nat) (bs : List Byte) (hs : s.Steady s₀) : (s.winWrite root k off bs).1.Steady s₀ := by
  induction k generalizing s off bs with
  | zero => cases bs <;> exact hs
  | succ k ih =>
    cases bs with
    | nil => exact hs
    | cons b bs => unfold State.winWrite; grind [hostWrite_steady]
theorem winFault_steady (s : State) (f : FnId) (code : W16) (hs : s.Steady s₀) : (State.winFault s f code).Steady s₀ := by
  unfold State.winFault; repeat' (first | with_reducible assumption | with_reducible refine logs_steady _ _ _ _ ?_ | split)
theorem winCount_steady (s : State) (f : FnId) (st : Byte) (hs : s.Steady s₀) : (State.winCount s f st).Steady s₀ := by
  unfold State.winCount; repeat' (first | with_reducible assumption | with_reducible (refine upd_steady _ ?_ .. ; with_reducible assumption) | with_reducible refine ite_steady ?_ ?_ | with_reducible refine modFn_steady _ _ _ ?_ | split)
theorem setLine_steady (s : State) (a : Nat) (st : LineState) (hs : s.Steady s₀) : (State.setLine s a st).Steady s₀ := by
  unfold State.setLine; repeat' (first | with_reducible assumption | with_reducible (refine upd_steady _ ?_ .. ; with_reducible assumption) | with_reducible refine ite_steady ?_ ?_ | with_reducible refine modHiu_steady _ _ ?_ | split)
theorem dropLines_steady (s : State) (hs : s.Steady s₀) : (State.dropLines s).Steady s₀ := by
  unfold State.dropLines; repeat' (first | with_reducible assumption | with_reducible (refine upd_steady _ ?_ .. ; with_reducible assumption) | with_reducible refine modHiu_steady _ _ ?_ | split)
theorem shareLine_steady (s : State) (f : FnId) (dbl : W64) (hs : s.Steady s₀) : (State.shareLine s f dbl).Steady s₀ := by
  unfold State.shareLine; repeat' (first | with_reducible assumption | with_reducible refine ite_steady ?_ ?_ | with_reducible refine setLine_steady _ _ _ ?_ | split)
theorem writeLine_steady (s : State) (f : FnId) (dbl : W64) (bs : List Byte) (hs : s.Steady s₀) : (State.writeLine s f dbl bs).Steady s₀ := by
  unfold State.writeLine; repeat' (first | with_reducible assumption | with_reducible refine ite_steady ?_ ?_ | with_reducible refine hostWrite_steady _ _ _ ?_ | with_reducible refine setLine_steady _ _ _ ?_ | with_reducible refine dropLines_steady _ ?_ | split)
theorem sqStatus_steady (s : State) (f : FnId) (n : RingIx) (hs : s.Steady s₀) : (State.sqStatus s f n).Steady s₀ := by
  unfold State.sqStatus; repeat' (first | with_reducible assumption | with_reducible (extract_lets +onlyGivenNames x; refine (show x.Steady s₀ → _ from fun hx => ?_) ?_; (on_goal 2 => unfold x; clear x); clear_value x; revert x; intro _ _) | with_reducible (extract_lets +onlyGivenNames x; refine (show x.1.Steady s₀ → _ from fun hx => ?_) ?_; (on_goal 2 => unfold x; clear x); clear_value x; revert x; intro _ _) | with_reducible (extract_lets +onlyGivenNames x; refine (show x.2.Steady s₀ → _ from fun hx => ?_) ?_; (on_goal 2 => unfold x; clear x); clear_value x; revert x; intro _ _) | with_reducible (extract_lets +onlyGivenNames x; refine (show (∀ t : State, t.Steady s₀ → (x t).Steady s₀) → _ from fun hx => ?_) ?_; (on_goal 2 => unfold x; clear x; intro t ht; beta_reduce); clear_value x; revert x; intro _ _) | with_reducible (extract_lets +onlyGivenNames x; clear_value x; revert x; intro _) | with_reducible refine writeLine_steady _ _ _ _ ?_ | split)
theorem cqStatus_steady (s : State) (f : FnId) (n : RingIx) (hs : s.Steady s₀) : (State.cqStatus s f n).Steady s₀ := by
  unfold State.cqStatus; repeat' (first | with_reducible assumption | with_reducible (extract_lets +onlyGivenNames x; refine (show x.Steady s₀ → _ from fun hx => ?_) ?_; (on_goal 2 => unfold x; clear x); clear_value x; revert x; intro _ _) | with_reducible (extract_lets +onlyGivenNames x; refine (show x.1.Steady s₀ → _ from fun hx => ?_) ?_; (on_goal 2 => unfold x; clear x); clear_value x; revert x; intro _ _) | with_reducible (extract_lets +onlyGivenNames x; refine (show x.2.Steady s₀ → _ from fun hx => ?_) ?_; (on_goal 2 => unfold x; clear x); clear_value x; revert x; intro _ _) | with_reducible (extract_lets +onlyGivenNames x; refine (show (∀ t : State, t.Steady s₀ → (x t).Steady s₀) → _ from fun hx => ?_) ?_; (on_goal 2 => unfold x; clear x; intro t ht; beta_reduce); clear_value x; revert x; intro _ _) | with_reducible (extract_lets +onlyGivenNames x; clear_value x; revert x; intro _) | with_reducible refine writeLine_steady _ _ _ _ ?_ | split)
theorem modSq_steady (s : State) (f : FnId) (n : RingIx) (g : Sq → Sq) (hs : s.Steady s₀) : (State.modSq s f n g).Steady s₀ := by
  unfold State.modSq; repeat' (first | with_reducible assumption | with_reducible (refine upd_steady _ ?_ .. ; with_reducible assumption) | with_reducible refine modFn_steady _ _ _ ?_ | split)
theorem modCq_steady (s : State) (f : FnId) (n : RingIx) (g : Cq → Cq) (hs : s.Steady s₀) : (State.modCq s f n g).Steady s₀ := by
  unfold State.modCq; repeat' (first | with_reducible assumption | with_reducible (refine upd_steady _ ?_ .. ; with_reducible assumption) | with_reducible refine modFn_steady _ _ _ ?_ | split)
theorem sqSettle_steady (s : State) (f : FnId) (n : RingIx) (hs : s.Steady s₀) : (State.sqSettle s f n).Steady s₀ := by
  unfold State.sqSettle; repeat' (first | with_reducible assumption | with_reducible (refine upd_steady _ ?_ .. ; with_reducible assumption) | with_reducible refine ite_steady ?_ ?_ | with_reducible (extract_lets +onlyGivenNames x; refine (show x.Steady s₀ → _ from fun hx => ?_) ?_; (on_goal 2 => unfold x; clear x); clear_value x; revert x; intro _ _) | with_reducible (extract_lets +onlyGivenNames x; refine (show x.1.Steady s₀ → _ from fun hx => ?_) ?_; (on_goal 2 => unfold x; clear x); clear_value x; revert x; intro _ _) | with_reducible (extract_lets +onlyGivenNames x; refine (show x.2.Steady s₀ → _ from fun hx => ?_) ?_; (on_goal 2 => unfold x; clear x); clear_value x; revert x; intro _ _) | with_reducible (extract_lets +onlyGivenNames x; refine (show (∀ t : State, t.Steady s₀ → (x t).Steady s₀) → _ from fun hx => ?_) ?_; (on_goal 2 => unfold x; clear x; intro t ht; beta_reduce); clear_value x; revert x; intro _ _) | with_reducible (extract_lets +onlyGivenNames x; clear_value x; revert x; intro _) | with_reducible refine sqStatus_steady _ _ _ ?_ | with_reducible refine modSq_steady _ _ _ _ ?_ | split)
theorem putEntry_steady (s : State) (f : FnId) (n : RingIx) (c : Completion) (hs : s.Steady s₀) : (State.putEntry s f n c).Steady s₀ := by
  unfold State.putEntry; repeat' (first | with_reducible assumption | with_reducible (refine upd_steady _ ?_ .. ; with_reducible assumption) | with_reducible refine ite_steady ?_ ?_ | with_reducible (extract_lets +onlyGivenNames x; refine (show x.Steady s₀ → _ from fun hx => ?_) ?_; (on_goal 2 => unfold x; clear x); clear_value x; revert x; intro _ _) | with_reducible (extract_lets +onlyGivenNames x; refine (show x.1.Steady s₀ → _ from fun hx => ?_) ?_; (on_goal 2 => unfold x; clear x); clear_value x; revert x; intro _ _) | with_reducible (extract_lets +onlyGivenNames x; refine (show x.2.Steady s₀ → _ from fun hx => ?_) ?_; (on_goal 2 => unfold x; clear x); clear_value x; revert x; intro _ _) | with_reducible (extract_lets +onlyGivenNames x; refine (show (∀ t : State, t.Steady s₀ → (x t).Steady s₀) → _ from fun hx => ?_) ?_; (on_goal 2 => unfold x; clear x; intro t ht; beta_reduce); clear_value x; revert x; intro _ _) | with_reducible (extract_lets +onlyGivenNames x; clear_value x; revert x; intro _) | with_reducible refine hostWrite_steady _ _ _ ?_ | with_reducible refine msix_steady _ _ _ ?_ | with_reducible refine cqStatus_steady _ _ _ ?_ | with_reducible refine modCq_steady _ _ _ _ ?_ | with_reducible refine synthetic_steady _ _ ?_ | split)
theorem postCq_steady (s : State) (f : FnId) (n : RingIx) (c : Completion) (hs : s.Steady s₀) : (State.postCq s f n c).Steady s₀ := by
  unfold State.postCq; repeat' (first | with_reducible assumption | with_reducible (refine upd_steady _ ?_ .. ; with_reducible assumption) | with_reducible refine ite_steady ?_ ?_ | with_reducible (extract_lets +onlyGivenNames x; refine (show x.Steady s₀ → _ from fun hx => ?_) ?_; (on_goal 2 => unfold x; clear x); clear_value x; revert x; intro _ _) | with_reducible (extract_lets +onlyGivenNames x; refine (show x.1.Steady s₀ → _ from fun hx => ?_) ?_; (on_goal 2 => unfold x; clear x); clear_value x; revert x; intro _ _) | with_reducible (extract_lets +onlyGivenNames x; refine (show x.2.Steady s₀ → _ from fun hx => ?_) ?_; (on_goal 2 => unfold x; clear x); clear_value x; revert x; intro _ _) | with_reducible (extract_lets +onlyGivenNames x; refine (show (∀ t : State, t.Steady s₀ → (x t).Steady s₀) → _ from fun hx => ?_) ?_; (on_goal 2 => unfold x; clear x; intro t ht; beta_reduce); clear_value x; revert x; intro _ _) | with_reducible (extract_lets +onlyGivenNames x; clear_value x; revert x; intro _) | with_reducible refine logs_steady _ _ _ _ ?_ | with_reducible refine msix_steady _ _ _ ?_ | with_reducible refine cqStatus_steady _ _ _ ?_ | with_reducible refine modCq_steady _ _ _ _ ?_ | with_reducible refine putEntry_steady _ _ _ _ ?_ | split)
theorem drainCq_steady (s : State) (f : FnId) (n : RingIx) (k : Nat) (hs : s.Steady s₀) : (s.drainCq f n k).Steady s₀ := by
  induction k generalizing s with
  | zero => exact hs
  | succ k ih => unfold State.drainCq; grind [cqStatus_steady, modCq_steady, putEntry_steady]
theorem writeHeader_steady (s : State) (a : Nat) (h : Hdr) (owner : Nat) (status : Byte) (part : Bool) (done : Nat) (fault : W16) (tag : W32) (hs : s.Steady s₀) : (State.writeHeader s a h owner status part done fault tag).Steady s₀ := by
  unfold State.writeHeader; repeat' (first | with_reducible assumption | with_reducible refine hostWrite_steady _ _ _ ?_ | with_reducible refine done_steady _ _ _ ?_ | split)
theorem endClaim_steady (s : State) (d : Desc) (a : Ans) (hs : s.Steady s₀) : (State.endClaim s d a).Steady s₀ := by
  unfold State.endClaim; repeat' (first | with_reducible assumption | with_reducible (refine upd_steady _ ?_ .. ; with_reducible assumption) | with_reducible refine ite_steady ?_ ?_ | with_reducible (extract_lets +onlyGivenNames x; refine (show x.Steady s₀ → _ from fun hx => ?_) ?_; (on_goal 2 => unfold x; clear x); clear_value x; revert x; intro _ _) | with_reducible (extract_lets +onlyGivenNames x; refine (show x.1.Steady s₀ → _ from fun hx => ?_) ?_; (on_goal 2 => unfold x; clear x); clear_value x; revert x; intro _ _) | with_reducible (extract_lets +onlyGivenNames x; refine (show x.2.Steady s₀ → _ from fun hx => ?_) ?_; (on_goal 2 => unfold x; clear x); clear_value x; revert x; intro _ _) | with_reducible (extract_lets +onlyGivenNames x; refine (show (∀ t : State, t.Steady s₀ → (x t).Steady s₀) → _ from fun hx => ?_) ?_; (on_goal 2 => unfold x; clear x; intro t ht; beta_reduce); clear_value x; revert x; intro _ _) | with_reducible (extract_lets +onlyGivenNames x; clear_value x; revert x; intro _) | with_reducible refine modHiu_steady _ _ ?_ | with_reducible refine writeHeader_steady _ _ _ _ _ _ _ _ _ ?_ | split)
theorem synthetic_steady (s : State) (yes : Bool) (hs : s.Steady s₀) : (State.synthetic s yes).Steady s₀ := by
  unfold State.synthetic; repeat' (first | with_reducible assumption | with_reducible refine ite_steady ?_ ?_ | with_reducible refine useRecovery_steady _ _ ?_ | split)
theorem completeWith_steady (s : State) (d : Desc) (a : Ans) (result : List Byte) (hs : s.Steady s₀) : (State.completeWith s d a result).Steady s₀ := by
  unfold State.completeWith; repeat' (first | with_reducible assumption | with_reducible (refine upd_steady _ ?_ .. ; with_reducible assumption) | with_reducible (extract_lets +onlyGivenNames x; refine (show x.Steady s₀ → _ from fun hx => ?_) ?_; (on_goal 2 => unfold x; clear x); clear_value x; revert x; intro _ _) | with_reducible (extract_lets +onlyGivenNames x; refine (show x.1.Steady s₀ → _ from fun hx => ?_) ?_; (on_goal 2 => unfold x; clear x); clear_value x; revert x; intro _ _) | with_reducible (extract_lets +onlyGivenNames x; refine (show x.2.Steady s₀ → _ from fun hx => ?_) ?_; (on_goal 2 => unfold x; clear x); clear_value x; revert x; intro _ _) | with_reducible (extract_lets +onlyGivenNames x; refine (show (∀ t : State, t.Steady s₀ → (x t).Steady s₀) → _ from fun hx => ?_) ?_; (on_goal 2 => unfold x; clear x; intro t ht; beta_reduce); clear_value x; revert x; intro _ _) | with_reducible (extract_lets +onlyGivenNames x; clear_value x; revert x; intro _) | with_reducible refine modSvc_steady _ _ ?_ | with_reducible refine zshReply_steady _ _ _ _ ?_ | with_reducible refine winCount_steady _ _ _ ?_ | with_reducible refine modSq_steady _ _ _ _ ?_ | with_reducible refine sqSettle_steady _ _ _ ?_ | with_reducible refine postCq_steady _ _ _ _ ?_ | with_reducible refine endClaim_steady _ _ _ ?_ | with_reducible refine synthetic_steady _ _ ?_ | split)
theorem complete_steady (s : State) (d : Desc) (a : Ans) (hs : s.Steady s₀) : (State.complete s d a).Steady s₀ := by
  unfold State.complete; repeat' (first | with_reducible assumption | with_reducible refine completeWith_steady _ _ _ _ ?_ | split)
theorem done_steady (s : State) (d : Desc) (st : Byte) (hs : s.Steady s₀) : (State.done s d st).Steady s₀ := by
  unfold State.done; repeat' (first | with_reducible assumption | with_reducible refine complete_steady _ _ _ ?_ | split)
theorem jobEvent_steady (s : State) (j : Job) (kind : Nat) (a : Ans) (hs : s.Steady s₀) : (State.jobEvent s j kind a).Steady s₀ := by
  unfold State.jobEvent; repeat' (first | with_reducible assumption | with_reducible (extract_lets +onlyGivenNames x; refine (show x.Steady s₀ → _ from fun hx => ?_) ?_; (on_goal 2 => unfold x; clear x); clear_value x; revert x; intro _ _) | with_reducible (extract_lets +onlyGivenNames x; refine (show x.1.Steady s₀ → _ from fun hx => ?_) ?_; (on_goal 2 => unfold x; clear x); clear_value x; revert x; intro _ _) | with_reducible (extract_lets +onlyGivenNames x; refine (show x.2.Steady s₀ → _ from fun hx => ?_) ?_; (on_goal 2 => unfold x; clear x); clear_value x; revert x; intro _ _) | with_reducible (extract_lets +onlyGivenNames x; refine (show (∀ t : State, t.Steady s₀ → (x t).Steady s₀) → _ from fun hx => ?_) ?_; (on_goal 2 => unfold x; clear x; intro t ht; beta_reduce); clear_value x; revert x; intro _ _) | with_reducible (extract_lets +onlyGivenNames x; clear_value x; revert x; intro _) | with_reducible refine postCq_steady _ _ _ _ ?_ | with_reducible refine synthetic_steady _ _ ?_ | split)

/-! Machine/Faults.lean. -/

theorem addUnit_steady (s : State) (u : RingUnit) (hs : s.Steady s₀) : (State.addUnit s u).Steady s₀ := by
  unfold State.addUnit; repeat' (first | with_reducible assumption | with_reducible (refine upd_steady _ ?_ .. ; with_reducible assumption) | with_reducible refine modInfield_steady _ _ ?_ | split)
theorem queueCell_steady (s : State) (l : LinkId) (c : Cell) (hs : s.Steady s₀) : (State.queueCell s l c).Steady s₀ := by
  unfold State.queueCell; repeat' (first | with_reducible assumption | with_reducible refine ite_steady ?_ ?_ | with_reducible refine addUnit_steady _ _ ?_ | split)
theorem freeBuffer_steady (s : State) (o : CellFrom) (c : Cell) (hs : s.Steady s₀) : (State.freeBuffer s o c).Steady s₀ := by
  unfold State.freeBuffer; repeat' (first | with_reducible assumption | with_reducible (refine upd_steady _ ?_ .. ; with_reducible assumption) | with_reducible refine ite_steady ?_ ?_ | with_reducible refine modLink_steady _ _ _ ?_ | split)
theorem unitLeaves_steady (s : State) (u : RingUnit) (hs : s.Steady s₀) : (State.unitLeaves s u).Steady s₀ := by
  unfold State.unitLeaves; repeat' (first | with_reducible assumption | with_reducible refine freeBuffer_steady _ _ _ ?_ | split)
theorem meetUnit_steady (s : State) (u : RingUnit) (hs : s.Steady s₀) : (State.meetUnit s u).Steady s₀ := by
  unfold State.meetUnit; repeat' (first | with_reducible assumption | with_reducible (refine upd_steady _ ?_ .. ; with_reducible assumption) | with_reducible refine ite_steady ?_ ?_ | with_reducible refine modInfield_steady _ _ ?_ | with_reducible refine logs_steady _ _ _ _ ?_ | with_reducible refine unitLeaves_steady _ _ ?_ | split)
theorem setOut_steady (s : State) (o : CellFrom) (src : Stop) (out : Option LinkId) (c : Cell) (hs : s.Steady s₀) : (State.setOut s o src out c).Steady s₀ := by
  unfold State.setOut; repeat' (first | with_reducible assumption | with_reducible refine ite_steady ?_ ?_ | with_reducible (extract_lets +onlyGivenNames x; refine (show x.Steady s₀ → _ from fun hx => ?_) ?_; (on_goal 2 => unfold x; clear x); clear_value x; revert x; intro _ _) | with_reducible (extract_lets +onlyGivenNames x; refine (show x.1.Steady s₀ → _ from fun hx => ?_) ?_; (on_goal 2 => unfold x; clear x); clear_value x; revert x; intro _ _) | with_reducible (extract_lets +onlyGivenNames x; refine (show x.2.Steady s₀ → _ from fun hx => ?_) ?_; (on_goal 2 => unfold x; clear x); clear_value x; revert x; intro _ _) | with_reducible (extract_lets +onlyGivenNames x; refine (show (∀ t : State, t.Steady s₀ → (x t).Steady s₀) → _ from fun hx => ?_) ?_; (on_goal 2 => unfold x; clear x; intro t ht; beta_reduce); clear_value x; revert x; intro _ _) | with_reducible (extract_lets +onlyGivenNames x; clear_value x; revert x; intro _) | with_reducible refine addUnit_steady _ _ ?_ | with_reducible refine route_steady _ _ _ _ _ _ ?_ | split)
theorem answerDown_steady (s : State) (l : LinkId) (c : Cell) (hs : s.Steady s₀) : (State.answerDown s l c).Steady s₀ := by
  unfold State.answerDown; repeat' (first | with_reducible assumption | with_reducible refine ite_steady ?_ ?_ | with_reducible (extract_lets +onlyGivenNames x; refine (show x.Steady s₀ → _ from fun hx => ?_) ?_; (on_goal 2 => unfold x; clear x); clear_value x; revert x; intro _ _) | with_reducible (extract_lets +onlyGivenNames x; refine (show x.1.Steady s₀ → _ from fun hx => ?_) ?_; (on_goal 2 => unfold x; clear x); clear_value x; revert x; intro _ _) | with_reducible (extract_lets +onlyGivenNames x; refine (show x.2.Steady s₀ → _ from fun hx => ?_) ?_; (on_goal 2 => unfold x; clear x); clear_value x; revert x; intro _ _) | with_reducible (extract_lets +onlyGivenNames x; refine (show (∀ t : State, t.Steady s₀ → (x t).Steady s₀) → _ from fun hx => ?_) ?_; (on_goal 2 => unfold x; clear x; intro t ht; beta_reduce); clear_value x; revert x; intro _ _) | with_reducible (extract_lets +onlyGivenNames x; clear_value x; revert x; intro _) | with_reducible refine setOut_steady _ _ _ _ _ ?_ | with_reducible refine linkDown_steady _ _ _ ?_ | split)
theorem routeCell_steady (s : State) (o : CellFrom) (src : Stop) (c : Cell) (hs : s.Steady s₀) : (State.routeCell s o src c).Steady s₀ := by
  unfold State.routeCell; repeat' (first | with_reducible assumption | with_reducible refine ite_steady ?_ ?_ | with_reducible (extract_lets +onlyGivenNames x; refine (show x.Steady s₀ → _ from fun hx => ?_) ?_; (on_goal 2 => unfold x; clear x); clear_value x; revert x; intro _ _) | with_reducible (extract_lets +onlyGivenNames x; refine (show x.1.Steady s₀ → _ from fun hx => ?_) ?_; (on_goal 2 => unfold x; clear x); clear_value x; revert x; intro _ _) | with_reducible (extract_lets +onlyGivenNames x; refine (show x.2.Steady s₀ → _ from fun hx => ?_) ?_; (on_goal 2 => unfold x; clear x); clear_value x; revert x; intro _ _) | with_reducible (extract_lets +onlyGivenNames x; refine (show (∀ t : State, t.Steady s₀ → (x t).Steady s₀) → _ from fun hx => ?_) ?_; (on_goal 2 => unfold x; clear x; intro t ht; beta_reduce); clear_value x; revert x; intro _ _) | with_reducible (extract_lets +onlyGivenNames x; clear_value x; revert x; intro _) | with_reducible refine freeBuffer_steady _ _ _ ?_ | with_reducible refine setOut_steady _ _ _ _ _ ?_ | with_reducible refine answerDown_steady _ _ _ ?_ | split)
theorem sendCell_steady (s : State) (src : Stop) (c : Cell) (hs : s.Steady s₀) : (State.sendCell s src c).Steady s₀ := by
  unfold State.sendCell; repeat' (first | with_reducible assumption | with_reducible refine routeCell_steady _ _ _ _ ?_ | split)
theorem sendAborts_steady (s : State) (j : Job) (code : W16) (but : Option LinkId) (hs : s.Steady s₀) : (State.sendAborts s j code but).Steady s₀ := by
  unfold State.sendAborts; repeat' (first | with_reducible assumption | with_reducible refine ite_steady ?_ ?_ | with_reducible (extract_lets +onlyGivenNames x; refine (show x.Steady s₀ → _ from fun hx => ?_) ?_; (on_goal 2 => unfold x; clear x); clear_value x; revert x; intro _ _) | with_reducible (extract_lets +onlyGivenNames x; refine (show x.1.Steady s₀ → _ from fun hx => ?_) ?_; (on_goal 2 => unfold x; clear x); clear_value x; revert x; intro _ _) | with_reducible (extract_lets +onlyGivenNames x; refine (show x.2.Steady s₀ → _ from fun hx => ?_) ?_; (on_goal 2 => unfold x; clear x); clear_value x; revert x; intro _ _) | with_reducible (extract_lets +onlyGivenNames x; refine (show (∀ t : State, t.Steady s₀ → (x t).Steady s₀) → _ from fun hx => ?_) ?_; (on_goal 2 => unfold x; clear x; intro t ht; beta_reduce); clear_value x; revert x; intro _ _) | with_reducible (extract_lets +onlyGivenNames x; clear_value x; revert x; intro _) | with_reducible refine foldl_steady _ _ _ ?_ (fun _ _ _ => ?_) | with_reducible refine queueCell_steady _ _ _ ?_ | split)
theorem leaveDomain_steady (s : State) (hs : s.Steady s₀) : (State.leaveDomain s).Steady s₀ := by
  unfold State.leaveDomain; repeat' (first | with_reducible assumption | with_reducible (refine upd_steady _ ?_ .. ; with_reducible assumption) | with_reducible refine ite_steady ?_ ?_ | with_reducible refine modPace_steady _ _ ?_ | split)
theorem noteSlack_steady (s : State) (hs : s.Steady s₀) : (State.noteSlack s).Steady s₀ := by
  unfold State.noteSlack; repeat' (first | with_reducible assumption | with_reducible (refine upd_steady _ ?_ .. ; with_reducible assumption) | with_reducible refine modPace_steady _ _ ?_ | split)
theorem poisonNow_steady (s : State) (x : Poison) (hs : s.Steady s₀) : (State.poisonNow s x).Steady s₀ := by
  unfold State.poisonNow; repeat' (first | with_reducible assumption | with_reducible (extract_lets +onlyGivenNames x; refine (show x.Steady s₀ → _ from fun hx => ?_) ?_; (on_goal 2 => unfold x; clear x); clear_value x; revert x; intro _ _) | with_reducible (extract_lets +onlyGivenNames x; refine (show x.1.Steady s₀ → _ from fun hx => ?_) ?_; (on_goal 2 => unfold x; clear x); clear_value x; revert x; intro _ _) | with_reducible (extract_lets +onlyGivenNames x; refine (show x.2.Steady s₀ → _ from fun hx => ?_) ?_; (on_goal 2 => unfold x; clear x); clear_value x; revert x; intro _ _) | with_reducible (extract_lets +onlyGivenNames x; refine (show (∀ t : State, t.Steady s₀ → (x t).Steady s₀) → _ from fun hx => ?_) ?_; (on_goal 2 => unfold x; clear x; intro t ht; beta_reduce); clear_value x; revert x; intro _ _) | with_reducible (extract_lets +onlyGivenNames x; clear_value x; revert x; intro _) | with_reducible refine hand_steady _ _ _ _ _ ?_ | with_reducible refine logs_steady _ _ _ _ ?_ | with_reducible refine useRecovery_steady _ _ ?_ | with_reducible refine writeHeader_steady _ _ _ _ _ _ _ _ _ ?_ | with_reducible refine poison_steady _ _ ?_ | split)
theorem poison_steady (s : State) (x : Poison) (hs : s.Steady s₀) : (State.poison s x).Steady s₀ := by
  unfold State.poison; repeat' (first | with_reducible assumption | with_reducible (refine upd_steady _ ?_ .. ; with_reducible assumption) | with_reducible refine ite_steady ?_ ?_ | with_reducible refine modMgt_steady _ _ ?_ rfl | with_reducible refine poisonNow_steady _ _ ?_ | split)
theorem endWinOp_steady (s : State) (o : WinOp) (st : Byte) (code : W16) (hs : s.Steady s₀) : (State.endWinOp s o st code).Steady s₀ := by
  unfold State.endWinOp; repeat' (first | with_reducible assumption | with_reducible (refine upd_steady _ ?_ .. ; with_reducible assumption) | with_reducible (extract_lets +onlyGivenNames x; refine (show x.Steady s₀ → _ from fun hx => ?_) ?_; (on_goal 2 => unfold x; clear x); clear_value x; revert x; intro _ _) | with_reducible (extract_lets +onlyGivenNames x; refine (show x.1.Steady s₀ → _ from fun hx => ?_) ?_; (on_goal 2 => unfold x; clear x); clear_value x; revert x; intro _ _) | with_reducible (extract_lets +onlyGivenNames x; refine (show x.2.Steady s₀ → _ from fun hx => ?_) ?_; (on_goal 2 => unfold x; clear x); clear_value x; revert x; intro _ _) | with_reducible (extract_lets +onlyGivenNames x; refine (show (∀ t : State, t.Steady s₀ → (x t).Steady s₀) → _ from fun hx => ?_) ?_; (on_goal 2 => unfold x; clear x; intro t ht; beta_reduce); clear_value x; revert x; intro _ _) | with_reducible (extract_lets +onlyGivenNames x; clear_value x; revert x; intro _) | with_reducible refine modHiu_steady _ _ ?_ | with_reducible refine synthetic_steady _ _ ?_ | with_reducible refine complete_steady _ _ _ ?_ | with_reducible refine poison_steady _ _ ?_ | split)
theorem endWinOps_steady (s : State) (ps : List PartId) (st : Byte) (code : W16) (hs : s.Steady s₀) : (State.endWinOps s ps st code).Steady s₀ := by
  unfold State.endWinOps; repeat' (first | with_reducible assumption | with_reducible refine foldl_steady _ _ _ ?_ (fun _ _ _ => ?_) | with_reducible refine endWinOp_steady _ _ _ _ ?_ | split)
theorem endDescs_steady (s : State) (f : FnId) (ps : List PartId) (st : Byte) (code : W16) (hs : s.Steady s₀) : (State.endDescs s f ps st code).Steady s₀ := by
  unfold State.endDescs; repeat' (first | with_reducible assumption | with_reducible (refine upd_steady _ ?_ .. ; with_reducible assumption) | with_reducible (extract_lets +onlyGivenNames x; refine (show x.Steady s₀ → _ from fun hx => ?_) ?_; (on_goal 2 => unfold x; clear x); clear_value x; revert x; intro _ _) | with_reducible (extract_lets +onlyGivenNames x; refine (show x.1.Steady s₀ → _ from fun hx => ?_) ?_; (on_goal 2 => unfold x; clear x); clear_value x; revert x; intro _ _) | with_reducible (extract_lets +onlyGivenNames x; refine (show x.2.Steady s₀ → _ from fun hx => ?_) ?_; (on_goal 2 => unfold x; clear x); clear_value x; revert x; intro _ _) | with_reducible (extract_lets +onlyGivenNames x; refine (show (∀ t : State, t.Steady s₀ → (x t).Steady s₀) → _ from fun hx => ?_) ?_; (on_goal 2 => unfold x; clear x; intro t ht; beta_reduce); clear_value x; revert x; intro _ _) | with_reducible (extract_lets +onlyGivenNames x; clear_value x; revert x; intro _) | with_reducible refine foldl_steady _ _ _ ?_ (fun _ _ _ => ?_) | with_reducible refine modFn_steady _ _ _ ?_ | with_reducible refine modHiu_steady _ _ ?_ | with_reducible refine synthetic_steady _ _ ?_ | with_reducible refine complete_steady _ _ _ ?_ | split)
theorem parkCut_steady (s : State) (id : Nat) (code : W16) (hs : s.Steady s₀) : (State.parkCut s id code).Steady s₀ := by
  unfold State.parkCut; repeat' (first | with_reducible assumption | with_reducible (refine upd_steady _ ?_ .. ; with_reducible assumption) | with_reducible (extract_lets +onlyGivenNames x; refine (show x.Steady s₀ → _ from fun hx => ?_) ?_; (on_goal 2 => unfold x; clear x); clear_value x; revert x; intro _ _) | with_reducible (extract_lets +onlyGivenNames x; refine (show x.1.Steady s₀ → _ from fun hx => ?_) ?_; (on_goal 2 => unfold x; clear x); clear_value x; revert x; intro _ _) | with_reducible (extract_lets +onlyGivenNames x; refine (show x.2.Steady s₀ → _ from fun hx => ?_) ?_; (on_goal 2 => unfold x; clear x); clear_value x; revert x; intro _ _) | with_reducible (extract_lets +onlyGivenNames x; refine (show (∀ t : State, t.Steady s₀ → (x t).Steady s₀) → _ from fun hx => ?_) ?_; (on_goal 2 => unfold x; clear x; intro t ht; beta_reduce); clear_value x; revert x; intro _ _) | with_reducible (extract_lets +onlyGivenNames x; clear_value x; revert x; intro _) | with_reducible refine foldl_steady _ _ _ ?_ (fun _ _ _ => ?_) | with_reducible refine modPart_steady _ _ _ ?_ | with_reducible refine modMgt_steady _ _ ?_ rfl | with_reducible refine synthetic_steady _ _ ?_ | with_reducible refine complete_steady _ _ _ ?_ | split)
theorem jobFaultWith_steady (s : State) (j : Job) (code : W16) (cell : W16) (but : Option LinkId) (hs : s.Steady s₀) : (State.jobFaultWith s j code cell but).Steady s₀ := by
  unfold State.jobFaultWith; repeat' (first | with_reducible assumption | with_reducible (refine upd_steady _ ?_ .. ; with_reducible assumption) | with_reducible refine ite_steady ?_ ?_ | with_reducible (extract_lets +onlyGivenNames x; refine (show x.Steady s₀ → _ from fun hx => ?_) ?_; (on_goal 2 => unfold x; clear x); clear_value x; revert x; intro _ _) | with_reducible (extract_lets +onlyGivenNames x; refine (show x.1.Steady s₀ → _ from fun hx => ?_) ?_; (on_goal 2 => unfold x; clear x); clear_value x; revert x; intro _ _) | with_reducible (extract_lets +onlyGivenNames x; refine (show x.2.Steady s₀ → _ from fun hx => ?_) ?_; (on_goal 2 => unfold x; clear x); clear_value x; revert x; intro _ _) | with_reducible (extract_lets +onlyGivenNames x; refine (show (∀ t : State, t.Steady s₀ → (x t).Steady s₀) → _ from fun hx => ?_) ?_; (on_goal 2 => unfold x; clear x; intro t ht; beta_reduce); clear_value x; revert x; intro _ _) | with_reducible (extract_lets +onlyGivenNames x; clear_value x; revert x; intro _) | with_reducible refine foldl_steady _ _ _ ?_ (fun _ _ _ => ?_) | with_reducible refine modLink_steady _ _ _ ?_ | with_reducible refine modInfield_steady _ _ ?_ | with_reducible refine modSvc_steady _ _ ?_ | with_reducible refine modJob_steady _ _ _ ?_ | with_reducible refine synthetic_steady _ _ ?_ | with_reducible refine complete_steady _ _ _ ?_ | with_reducible refine jobEvent_steady _ _ _ _ ?_ | with_reducible refine sendAborts_steady _ _ _ _ ?_ | with_reducible refine leaveDomain_steady _ ?_ | with_reducible refine endWinOps_steady _ _ _ _ ?_ | with_reducible refine endDescs_steady _ _ _ _ _ ?_ | with_reducible refine parkCut_steady _ _ _ ?_ | split)
theorem jobFaultCore_steady (s : State) (j : Job) (code : W16) (hs : s.Steady s₀) : (State.jobFaultCore s j code).Steady s₀ := by
  unfold State.jobFaultCore; repeat' (first | with_reducible assumption | with_reducible refine jobFaultWith_steady _ _ _ _ _ ?_ | split)
theorem jobFaultQuiet_steady (s : State) (id : Nat) (code : W16) (hs : s.Steady s₀) : (State.jobFaultQuiet s id code).Steady s₀ := by
  unfold State.jobFaultQuiet; repeat' (first | with_reducible assumption | with_reducible refine ite_steady ?_ ?_ | with_reducible refine jobFaultCore_steady _ _ _ ?_ | split)
theorem jobFault_steady (s : State) (id : Nat) (code : W16) (r : Loc) (hs : s.Steady s₀) : (State.jobFault s id code r).Steady s₀ := by
  unfold State.jobFault; repeat' (first | with_reducible assumption | with_reducible (refine upd_steady _ ?_ .. ; with_reducible assumption) | with_reducible refine ite_steady ?_ ?_ | with_reducible refine modLog_steady2 _ _ ?_ rfl rfl rfl rfl | with_reducible refine modJob_steady _ _ _ ?_ | with_reducible refine logAt_steady _ _ _ _ ?_ | with_reducible refine jobFaultCore_steady _ _ _ ?_ | split)
theorem partJobFault_steady (s : State) (p : PartId) (code : W16) (r : Loc) (hs : s.Steady s₀) : (State.partJobFault s p code r).Steady s₀ := by
  unfold State.partJobFault; repeat' (first | with_reducible assumption | with_reducible refine jobFault_steady _ _ _ _ ?_ | split)
theorem domainFault_steady (s : State) (code : W16) (hs : s.Steady s₀) : (State.domainFault s code).Steady s₀ := by
  unfold State.domainFault; repeat' (first | with_reducible assumption | with_reducible (extract_lets +onlyGivenNames x; refine (show x.Steady s₀ → _ from fun hx => ?_) ?_; (on_goal 2 => unfold x; clear x); clear_value x; revert x; intro _ _) | with_reducible (extract_lets +onlyGivenNames x; refine (show x.1.Steady s₀ → _ from fun hx => ?_) ?_; (on_goal 2 => unfold x; clear x); clear_value x; revert x; intro _ _) | with_reducible (extract_lets +onlyGivenNames x; refine (show x.2.Steady s₀ → _ from fun hx => ?_) ?_; (on_goal 2 => unfold x; clear x); clear_value x; revert x; intro _ _) | with_reducible (extract_lets +onlyGivenNames x; refine (show (∀ t : State, t.Steady s₀ → (x t).Steady s₀) → _ from fun hx => ?_) ?_; (on_goal 2 => unfold x; clear x; intro t ht; beta_reduce); clear_value x; revert x; intro _ _) | with_reducible (extract_lets +onlyGivenNames x; clear_value x; revert x; intro _) | with_reducible refine foldl_steady _ _ _ ?_ (fun _ _ _ => ?_) | with_reducible refine getD_steady (fun _ _ => ?_) ?_ | with_reducible refine logs_steady _ _ _ _ ?_ | with_reducible refine jobFaultQuiet_steady _ _ _ ?_ | split)
theorem partFault_steady (s : State) (p : PartId) (code : W16) (r : Loc) (hs : s.Steady s₀) : (State.partFault s p code r).Steady s₀ := by
  unfold State.partFault; repeat' (first | with_reducible assumption | with_reducible (extract_lets +onlyGivenNames x; refine (show x.Steady s₀ → _ from fun hx => ?_) ?_; (on_goal 2 => unfold x; clear x); clear_value x; revert x; intro _ _) | with_reducible (extract_lets +onlyGivenNames x; refine (show x.1.Steady s₀ → _ from fun hx => ?_) ?_; (on_goal 2 => unfold x; clear x); clear_value x; revert x; intro _ _) | with_reducible (extract_lets +onlyGivenNames x; refine (show x.2.Steady s₀ → _ from fun hx => ?_) ?_; (on_goal 2 => unfold x; clear x); clear_value x; revert x; intro _ _) | with_reducible (extract_lets +onlyGivenNames x; refine (show (∀ t : State, t.Steady s₀ → (x t).Steady s₀) → _ from fun hx => ?_) ?_; (on_goal 2 => unfold x; clear x; intro t ht; beta_reduce); clear_value x; revert x; intro _ _) | with_reducible (extract_lets +onlyGivenNames x; clear_value x; revert x; intro _) | with_reducible refine modPart_steady _ _ _ ?_ | with_reducible refine logAt_steady _ _ _ _ ?_ | with_reducible refine jobFaultQuiet_steady _ _ _ ?_ | split)
theorem stillRuns_steady (s : State) (p : PartId) (hs : s.Steady s₀) : ∀ out, s.stillRuns p = some out → out.Steady s₀ := by
  intro out ht
  unfold State.stillRuns at ht
  split at ht
  · cases ht
  · obtain ⟨x, _, rfl⟩ := Option.map_eq_some_iff.mp ht
    exact upd_steady _ hs ..
theorem stopRun_steady (s : State) (p : PartId) (t : State) (hs : s.Steady s₀) (ht : t.Steady s₀) : (State.stopRun s p t).Steady s₀ := by
  unfold State.stopRun; repeat' (first | with_reducible assumption | with_reducible (refine upd_steady _ ?_ .. ; with_reducible assumption) | with_reducible refine ite_steady ?_ ?_ | with_reducible (extract_lets +onlyGivenNames x; refine (show x.Steady s₀ → _ from fun hx => ?_) ?_; (on_goal 2 => unfold x; clear x); clear_value x; revert x; intro _ _) | with_reducible (extract_lets +onlyGivenNames x; refine (show x.1.Steady s₀ → _ from fun hx => ?_) ?_; (on_goal 2 => unfold x; clear x); clear_value x; revert x; intro _ _) | with_reducible (extract_lets +onlyGivenNames x; refine (show x.2.Steady s₀ → _ from fun hx => ?_) ?_; (on_goal 2 => unfold x; clear x); clear_value x; revert x; intro _ _) | with_reducible (extract_lets +onlyGivenNames x; refine (show (∀ t : State, t.Steady s₀ → (x t).Steady s₀) → _ from fun hx => ?_) ?_; (on_goal 2 => unfold x; clear x; intro t ht; beta_reduce); clear_value x; revert x; intro _ _) | with_reducible (extract_lets +onlyGivenNames x; clear_value x; revert x; intro _) | with_reducible refine modJob_steady _ _ _ ?_ | split)
theorem pushOr_steady (s : State) (p : PartId) (t : Fin 32) (n : Fin 64) (e : QEntry) (r : Loc) (hs : s.Steady s₀) : (State.pushOr s p t n e r).Steady s₀ := by
  unfold State.pushOr; repeat' (first | with_reducible assumption | with_reducible refine ite_steady ?_ ?_ | with_reducible refine modPart_steady _ _ _ ?_ | with_reducible refine partJobFault_steady _ _ _ _ ?_ | split)
theorem postAll_steady (s : State) (p : PartId) (i : Issued) (mk : W16 → Nat → QEntry) (r : Loc) (hs : s.Steady s₀) : (State.postAll s p i mk r).Steady s₀ := by
  unfold State.postAll; repeat' (first | with_reducible assumption | with_reducible refine ite_steady ?_ ?_ | with_reducible refine foldl_steady _ _ _ ?_ (fun _ _ _ => ?_) | with_reducible refine pushOr_steady _ _ _ _ _ _ ?_ | split)
theorem disarm_steady (s : State) (j : Job) (hs : s.Steady s₀) : (State.disarm s j).Steady s₀ := by
  unfold State.disarm; repeat' (first | with_reducible assumption | with_reducible (refine upd_steady _ ?_ .. ; with_reducible assumption) | with_reducible refine ite_steady ?_ ?_ | with_reducible (extract_lets +onlyGivenNames x; refine (show x.Steady s₀ → _ from fun hx => ?_) ?_; (on_goal 2 => unfold x; clear x); clear_value x; revert x; intro _ _) | with_reducible (extract_lets +onlyGivenNames x; refine (show x.1.Steady s₀ → _ from fun hx => ?_) ?_; (on_goal 2 => unfold x; clear x); clear_value x; revert x; intro _ _) | with_reducible (extract_lets +onlyGivenNames x; refine (show x.2.Steady s₀ → _ from fun hx => ?_) ?_; (on_goal 2 => unfold x; clear x); clear_value x; revert x; intro _ _) | with_reducible (extract_lets +onlyGivenNames x; refine (show (∀ t : State, t.Steady s₀ → (x t).Steady s₀) → _ from fun hx => ?_) ?_; (on_goal 2 => unfold x; clear x; intro t ht; beta_reduce); clear_value x; revert x; intro _ _) | with_reducible (extract_lets +onlyGivenNames x; clear_value x; revert x; intro _) | with_reducible refine getD_steady (fun _ _ => ?_) ?_ | with_reducible refine modJob_steady _ _ _ ?_ | with_reducible refine noteSlack_steady _ ?_ | split)
theorem refuseStart_steady (s : State) (j : Job) (st : Byte) (fault : W16) (cell : W16) (but : Option LinkId) (hs : s.Steady s₀) : (State.refuseStart s j st fault cell but).Steady s₀ := by
  unfold State.refuseStart; repeat' (first | with_reducible assumption | with_reducible refine ite_steady ?_ ?_ | with_reducible (extract_lets +onlyGivenNames x; refine (show x.Steady s₀ → _ from fun hx => ?_) ?_; (on_goal 2 => unfold x; clear x); clear_value x; revert x; intro _ _) | with_reducible (extract_lets +onlyGivenNames x; refine (show x.1.Steady s₀ → _ from fun hx => ?_) ?_; (on_goal 2 => unfold x; clear x); clear_value x; revert x; intro _ _) | with_reducible (extract_lets +onlyGivenNames x; refine (show x.2.Steady s₀ → _ from fun hx => ?_) ?_; (on_goal 2 => unfold x; clear x); clear_value x; revert x; intro _ _) | with_reducible (extract_lets +onlyGivenNames x; refine (show (∀ t : State, t.Steady s₀ → (x t).Steady s₀) → _ from fun hx => ?_) ?_; (on_goal 2 => unfold x; clear x; intro t ht; beta_reduce); clear_value x; revert x; intro _ _) | with_reducible (extract_lets +onlyGivenNames x; clear_value x; revert x; intro _) | with_reducible refine synthetic_steady _ _ ?_ | with_reducible refine complete_steady _ _ _ ?_ | with_reducible refine jobEvent_steady _ _ _ _ ?_ | with_reducible refine sendAborts_steady _ _ _ _ ?_ | with_reducible refine leaveDomain_steady _ ?_ | with_reducible refine disarm_steady _ _ ?_ | split)

/-! Machine/Access.lean. -/

theorem eccFix_steady (s : State) (w : Nat) (r : Loc) (hs : s.Steady s₀) : (State.eccFix s w r).Steady s₀ := by
  unfold State.eccFix; repeat' (first | with_reducible assumption | with_reducible (refine upd_steady _ ?_ .. ; with_reducible assumption) | with_reducible (extract_lets +onlyGivenNames x; refine (show x.Steady s₀ → _ from fun hx => ?_) ?_; (on_goal 2 => unfold x; clear x); clear_value x; revert x; intro _ _) | with_reducible (extract_lets +onlyGivenNames x; refine (show x.1.Steady s₀ → _ from fun hx => ?_) ?_; (on_goal 2 => unfold x; clear x); clear_value x; revert x; intro _ _) | with_reducible (extract_lets +onlyGivenNames x; refine (show x.2.Steady s₀ → _ from fun hx => ?_) ?_; (on_goal 2 => unfold x; clear x); clear_value x; revert x; intro _ _) | with_reducible (extract_lets +onlyGivenNames x; refine (show (∀ t : State, t.Steady s₀ → (x t).Steady s₀) → _ from fun hx => ?_) ?_; (on_goal 2 => unfold x; clear x; intro t ht; beta_reduce); clear_value x; revert x; intro _ _) | with_reducible (extract_lets +onlyGivenNames x; clear_value x; revert x; intro _) | with_reducible refine modSram_steady2 _ _ ?_ rfl | with_reducible refine correctWord_steady _ _ _ _ _ _ ?_ | split)
theorem zeroWord_steady (s : State) (w : Nat) (hs : s.Steady s₀) : (State.zeroWord s w).Steady s₀ := by
  unfold State.zeroWord; repeat' (first | with_reducible assumption | with_reducible refine zeroRange_steady _ _ _ ?_ | split)
theorem eccDouble_steady (s : State) (w : Nat) (r : Loc) (hs : s.Steady s₀) : (State.eccDouble s w r).1.Steady s₀ := by
  unfold State.eccDouble; repeat' (first | with_reducible assumption | with_reducible (refine upd_steady _ ?_ .. ; with_reducible assumption) | with_reducible refine ite_steady ?_ ?_ | with_reducible refine ite_fst ?_ ?_ | with_reducible (extract_lets +onlyGivenNames x; refine (show x.Steady s₀ → _ from fun hx => ?_) ?_; (on_goal 2 => unfold x; clear x); clear_value x; revert x; intro _ _) | with_reducible (extract_lets +onlyGivenNames x; refine (show x.1.Steady s₀ → _ from fun hx => ?_) ?_; (on_goal 2 => unfold x; clear x); clear_value x; revert x; intro _ _) | with_reducible (extract_lets +onlyGivenNames x; refine (show x.2.Steady s₀ → _ from fun hx => ?_) ?_; (on_goal 2 => unfold x; clear x); clear_value x; revert x; intro _ _) | with_reducible (extract_lets +onlyGivenNames x; refine (show (∀ t : State, t.Steady s₀ → (x t).Steady s₀) → _ from fun hx => ?_) ?_; (on_goal 2 => unfold x; clear x; intro t ht; beta_reduce); clear_value x; revert x; intro _ _) | with_reducible (extract_lets +onlyGivenNames x; clear_value x; revert x; intro _) | with_reducible refine logAt_steady _ _ _ _ ?_ | with_reducible refine retireRow_steady _ _ _ _ _ ?_ | with_reducible refine partFault_steady _ _ _ _ ?_ | with_reducible refine zeroWord_steady _ _ ?_ | with_reducible (dsimp only) | split)
theorem eccDouble_steadyE {s : State} {w : Nat} {r : Loc} {out : State} {res} (hs : s.Steady s₀) (heq : State.eccDouble s w r = (out, res)) : out.Steady s₀ := by
  have h := eccDouble_steady s w r hs; rw [heq] at h; exact h
theorem meetWords_steady (s : State) (r : Loc) (ws : List Nat) (hs : s.Steady s₀) : (s.meetWords r ws).1.Steady s₀ := by
  induction ws generalizing s with
  | nil => exact hs
  | cons w ws ih => unfold State.meetWords; grind [eccFix_steady, eccDouble_steady]
theorem fetchBytes_steady (s : State) (a : Nat) (len : Nat) (r : Loc) (hs : s.Steady s₀) : (State.fetchBytes s a len r).1.Steady s₀ := by
  unfold State.fetchBytes; repeat' (first | with_reducible assumption | with_reducible refine ite_steady ?_ ?_ | with_reducible refine ite_fst ?_ ?_ | with_reducible (extract_lets +onlyGivenNames x; refine (show x.Steady s₀ → _ from fun hx => ?_) ?_; (on_goal 2 => unfold x; clear x); clear_value x; revert x; intro _ _) | with_reducible (extract_lets +onlyGivenNames x; refine (show x.1.Steady s₀ → _ from fun hx => ?_) ?_; (on_goal 2 => unfold x; clear x); clear_value x; revert x; intro _ _) | with_reducible (extract_lets +onlyGivenNames x; refine (show x.2.Steady s₀ → _ from fun hx => ?_) ?_; (on_goal 2 => unfold x; clear x); clear_value x; revert x; intro _ _) | with_reducible (extract_lets +onlyGivenNames x; refine (show (∀ t : State, t.Steady s₀ → (x t).Steady s₀) → _ from fun hx => ?_) ?_; (on_goal 2 => unfold x; clear x; intro t ht; beta_reduce); clear_value x; revert x; intro _ _) | with_reducible (extract_lets +onlyGivenNames x; clear_value x; revert x; intro _) | with_reducible refine meetWords_steady _ _ _ ?_ | with_reducible refine meetWords_steadyE ?_ (by assumption) | with_reducible (dsimp only) | split)
theorem fetchBytes_steadyE {s : State} {a : Nat} {len : Nat} {r : Loc} {out : State} {res} (hs : s.Steady s₀) (heq : State.fetchBytes s a len r = (out, res)) : out.Steady s₀ := by
  have h := fetchBytes_steady s a len r hs; rw [heq] at h; exact h
theorem store_steady (s : State) (a : Nat) (bs : List Byte) (r : Loc) (hs : s.Steady s₀) : (State.store s a bs r).1.Steady s₀ := by
  unfold State.store; repeat' (first | with_reducible assumption | with_reducible (refine upd_steady _ ?_ .. ; with_reducible assumption) | with_reducible refine ite_steady ?_ ?_ | with_reducible refine ite_fst ?_ ?_ | with_reducible (extract_lets +onlyGivenNames x; refine (show x.Steady s₀ → _ from fun hx => ?_) ?_; (on_goal 2 => unfold x; clear x); clear_value x; revert x; intro _ _) | with_reducible (extract_lets +onlyGivenNames x; refine (show x.1.Steady s₀ → _ from fun hx => ?_) ?_; (on_goal 2 => unfold x; clear x); clear_value x; revert x; intro _ _) | with_reducible (extract_lets +onlyGivenNames x; refine (show x.2.Steady s₀ → _ from fun hx => ?_) ?_; (on_goal 2 => unfold x; clear x); clear_value x; revert x; intro _ _) | with_reducible (extract_lets +onlyGivenNames x; refine (show (∀ t : State, t.Steady s₀ → (x t).Steady s₀) → _ from fun hx => ?_) ?_; (on_goal 2 => unfold x; clear x; intro t ht; beta_reduce); clear_value x; revert x; intro _ _) | with_reducible (extract_lets +onlyGivenNames x; clear_value x; revert x; intro _) | with_reducible refine modSram_steady2 _ _ ?_ rfl | with_reducible refine wr_steady _ _ _ ?_ | with_reducible refine meetWords_steady _ _ _ ?_ | with_reducible refine meetWords_steadyE ?_ (by assumption) | with_reducible (dsimp only) | split)
theorem store_steadyE {s : State} {a : Nat} {bs : List Byte} {r : Loc} {out : State} {res} (hs : s.Steady s₀) (heq : State.store s a bs r = (out, res)) : out.Steady s₀ := by
  have h := store_steady s a bs r hs; rw [heq] at h; exact h
/-- The state that work leaves, whether it goes on or has ended. -/
def resState {α : Type} : EStateM.Result Unit State α → State
  | .ok _ t => t
  | .error _ t => t
structure EngSteady {α : Type} (m : Eng α) : Prop where
  run : ∀ {s₀ : State} (s : State), s.Steady s₀ → (resState (m s)).Steady s₀
theorem EngSteady.pure {α : Type} (a : α) : EngSteady (Pure.pure a) := ⟨fun _ h => h⟩
theorem EngSteady.bind {α β : Type} (m : Eng α) (f : α → Eng β) (hm : EngSteady m) (hf : ∀ a, EngSteady (f a)) : EngSteady (m >>= f) := by
  refine ⟨fun {s₀} s h => ?_⟩
  have h1 := hm.run s h
  show (resState (EStateM.bind m f s)).Steady s₀
  unfold EStateM.bind
  cases hs : m s with
  | ok a t => rw [hs] at h1; exact (hf a).run t h1
  | error e t => rw [hs] at h1; exact h1
theorem EngSteady.map {α β : Type} (m : Eng α) (f : α → β) (hm : EngSteady m) : EngSteady (f <$> m) := by
  refine ⟨fun {s₀} s h => ?_⟩
  have h1 := hm.run s h
  show (resState (EStateM.map f m s)).Steady s₀
  unfold EStateM.map
  cases hs : m s with
  | ok a t => rw [hs] at h1; exact h1
  | error e t => rw [hs] at h1; exact h1
theorem EngSteady.get : EngSteady (MonadState.get : Eng State) := ⟨fun _ h => h⟩
theorem EngSteady.mapM {α β : Type} (f : α → Eng β) (hf : ∀ a, EngSteady (f a)) (l : List α) : EngSteady (l.mapM f) := by
  induction l with
  | nil => exact EngSteady.pure _
  | cons a l ih =>
    rw [List.mapM_cons]
    exact EngSteady.bind _ _ (hf a) (fun b => EngSteady.bind _ _ ih (fun c => EngSteady.pure _))
theorem EngSteady.forM {α : Type} (f : α → Eng PUnit) (hf : ∀ a, EngSteady (f a)) (l : List α) : EngSteady (l.forM f) := by
  induction l with
  | nil => exact EngSteady.pure _
  | cons a l ih =>
    show EngSteady (f a >>= fun _ => l.forM f)
    exact EngSteady.bind _ _ (hf a) (fun b => ih)
theorem reserveDouble_steady (s : State) (d : DieId) (part : ReservePart) (p : Option PartId) (word : Nat) (r : Loc) (hs : s.Steady s₀) : (State.reserveDouble s d part p word r).Steady s₀ := by
  unfold State.reserveDouble; grind [logAt_steady, retireRow_steady, recoveryDouble_steady, jobFault_steady, modMgt_steady, modSram_steady, upd_steady, → State.Steady.sram, → State.Steady.host, → State.Steady.flash, → State.Steady.input, → State.Steady.time, → State.Steady.slots, → State.Steady.keys, → State.Steady.queue, → State.Steady.por, Mem.wf_set, Mem.wf_write, Mem.wf_writeAll, Mem.wf_zero]
theorem reserveMeet_steady (s : State) (r : Loc) (x : ReserveErr) (hs : s.Steady s₀) : (State.reserveMeet s r x).Steady s₀ := by
  unfold State.reserveMeet; repeat' (first | with_reducible assumption | with_reducible (refine upd_steady _ ?_ .. ; with_reducible assumption) | with_reducible (extract_lets +onlyGivenNames x; refine (show x.Steady s₀ → _ from fun hx => ?_) ?_; (on_goal 2 => unfold x; clear x); clear_value x; revert x; intro _ _) | with_reducible (extract_lets +onlyGivenNames x; refine (show x.1.Steady s₀ → _ from fun hx => ?_) ?_; (on_goal 2 => unfold x; clear x); clear_value x; revert x; intro _ _) | with_reducible (extract_lets +onlyGivenNames x; refine (show x.2.Steady s₀ → _ from fun hx => ?_) ?_; (on_goal 2 => unfold x; clear x); clear_value x; revert x; intro _ _) | with_reducible (extract_lets +onlyGivenNames x; refine (show (∀ t : State, t.Steady s₀ → (x t).Steady s₀) → _ from fun hx => ?_) ?_; (on_goal 2 => unfold x; clear x; intro t ht; beta_reduce); clear_value x; revert x; intro _ _) | with_reducible (extract_lets +onlyGivenNames x; clear_value x; revert x; intro _) | with_reducible refine getD_steady (fun _ _ => ?_) ?_ | with_reducible refine modSram_steady2 _ _ ?_ rfl | with_reducible refine correctWord_steady _ _ _ _ _ _ ?_ | with_reducible refine reserveDouble_steady _ _ _ _ _ _ ?_ | split)
theorem meetReserve_steady (s : State) (r : Loc) (which : ReserveErr → Bool) (hs : s.Steady s₀) : (State.meetReserve s r which).Steady s₀ := by
  unfold State.meetReserve; repeat' (first | with_reducible assumption | with_reducible refine foldl_steady _ _ _ ?_ (fun _ _ _ => ?_) | with_reducible refine reserveMeet_steady _ _ _ ?_ | split)
theorem mapRewrite_steady (s : State) (p : PartId) (i : Nat) (r : Loc) (hs : s.Steady s₀) : (State.mapRewrite s p i r).Steady s₀ := by
  unfold State.mapRewrite; repeat' (first | with_reducible assumption | with_reducible (refine upd_steady _ ?_ .. ; with_reducible assumption) | with_reducible (extract_lets +onlyGivenNames x; refine (show x.Steady s₀ → _ from fun hx => ?_) ?_; (on_goal 2 => unfold x; clear x); clear_value x; revert x; intro _ _) | with_reducible (extract_lets +onlyGivenNames x; refine (show x.1.Steady s₀ → _ from fun hx => ?_) ?_; (on_goal 2 => unfold x; clear x); clear_value x; revert x; intro _ _) | with_reducible (extract_lets +onlyGivenNames x; refine (show x.2.Steady s₀ → _ from fun hx => ?_) ?_; (on_goal 2 => unfold x; clear x); clear_value x; revert x; intro _ _) | with_reducible (extract_lets +onlyGivenNames x; refine (show (∀ t : State, t.Steady s₀ → (x t).Steady s₀) → _ from fun hx => ?_) ?_; (on_goal 2 => unfold x; clear x; intro t ht; beta_reduce); clear_value x; revert x; intro _ _) | with_reducible (extract_lets +onlyGivenNames x; clear_value x; revert x; intro _) | with_reducible refine modPart_steady _ _ _ ?_ | with_reducible refine logAt_steady _ _ _ _ ?_ | with_reducible refine meetReserve_steady _ _ _ ?_ | split)
theorem consult_steady (s : State) (p : PartId) (idx : AllocMap → List Nat) (r : Loc) (hs : s.Steady s₀) : (State.consult s p idx r).1.Steady s₀ := by
  unfold State.consult; repeat' (first | with_reducible assumption | with_reducible (extract_lets +onlyGivenNames x; refine (show x.Steady s₀ → _ from fun hx => ?_) ?_; (on_goal 2 => unfold x; clear x); clear_value x; revert x; intro _ _) | with_reducible (extract_lets +onlyGivenNames x; refine (show x.1.Steady s₀ → _ from fun hx => ?_) ?_; (on_goal 2 => unfold x; clear x); clear_value x; revert x; intro _ _) | with_reducible (extract_lets +onlyGivenNames x; refine (show x.2.Steady s₀ → _ from fun hx => ?_) ?_; (on_goal 2 => unfold x; clear x); clear_value x; revert x; intro _ _) | with_reducible (extract_lets +onlyGivenNames x; refine (show (∀ t : State, t.Steady s₀ → (x t).Steady s₀) → _ from fun hx => ?_) ?_; (on_goal 2 => unfold x; clear x; intro t ht; beta_reduce); clear_value x; revert x; intro _ _) | with_reducible (extract_lets +onlyGivenNames x; clear_value x; revert x; intro _) | with_reducible refine mapRewrite_steady _ _ _ _ ?_ | with_reducible (dsimp only) | split)
theorem consult_steadyE {s : State} {p : PartId} {idx : AllocMap → List Nat} {r : Loc} {out : State} {res} (hs : s.Steady s₀) (heq : State.consult s p idx r = (out, res)) : out.Steady s₀ := by
  have h := consult_steady s p idx r hs; rw [heq] at h; exact h
theorem consultOne_steady (s : State) (p : PartId) (i : Nat) (r : Loc) (hs : s.Steady s₀) : (State.consultOne s p i r).1.Steady s₀ := by
  unfold State.consultOne; repeat' (first | with_reducible assumption | with_reducible refine consult_steady _ _ _ _ ?_ | with_reducible refine consult_steadyE ?_ (by assumption) | with_reducible (dsimp only) | split)
theorem consultOne_steadyE {s : State} {p : PartId} {i : Nat} {r : Loc} {out : State} {res} (hs : s.Steady s₀) (heq : State.consultOne s p i r = (out, res)) : out.Steady s₀ := by
  have h := consultOne_steady s p i r hs; rw [heq] at h; exact h
theorem consultAll_steady (s : State) (p : PartId) (r : Loc) (hs : s.Steady s₀) : (State.consultAll s p r).1.Steady s₀ := by
  unfold State.consultAll; repeat' (first | with_reducible assumption | with_reducible refine consult_steady _ _ _ _ ?_ | with_reducible refine consult_steadyE ?_ (by assumption) | with_reducible (dsimp only) | split)
theorem consultAll_steadyE {s : State} {p : PartId} {r : Loc} {out : State} {res} (hs : s.Steady s₀) (heq : State.consultAll s p r = (out, res)) : out.Steady s₀ := by
  have h := consultAll_steady s p r hs; rw [heq] at h; exact h
theorem plotAccess_steady (s : State) (p : PartId) (u : PlotUser) (src : Stop) (x : Nat) (len : Nat) (hs : s.Steady s₀) : (State.plotAccess s p u src x len).Steady s₀ := by
  unfold State.plotAccess; repeat' (first | with_reducible assumption | with_reducible refine modInfield_steady _ _ ?_ | split)
theorem Acc_fault_steady {α : Type} (a : Acc) (code : W16) (r : Loc) : EngSteady (a.fault code r : Eng α) :=
  ⟨fun s h => partJobFault_steady s a.part code r h⟩
theorem EngSteady.modify (f : State → State) (hf : ∀ s₀ s : State, s.Steady s₀ → (f s).Steady s₀) : EngSteady (modify f : Eng PUnit) := ⟨fun s h => hf _ s h⟩
theorem EngSteady.foldlM {α β : Type} (f : β → α → Eng β) (hf : ∀ b a, EngSteady (f b a)) (l : List α) (b : β) : EngSteady (l.foldlM f b) := by
  induction l generalizing b with
  | nil => exact EngSteady.pure _
  | cons a l ih =>
    rw [List.foldlM_cons]
    exact EngSteady.bind _ _ (hf b a) (fun c => ih c)
theorem Acc_check_steady (a : Acc) (kind region : Nat) (off : Int) (len : Nat) : EngSteady (a.check kind region off len) := by
  refine ⟨fun {s₀} s h => ?_⟩
  have h1 := consultOne_steady s a.part region { a.loc with region := some region, access := kind } h
  have hf : ∀ (t : State) (c r), t.Steady s₀ → (resState ((a.fault c r : Eng Nat) t)).Steady s₀ := fun t c r ht =>
    (Acc_fault_steady (α := Nat) a c r).run t ht
  unfold Acc.check
  dsimp only
  generalize s.consultOne a.part region { a.loc with region := some region, access := kind } = x at h1 ⊢
  obtain ⟨t, l⟩ := x
  cases l with
  | lost => exact h1
  | noMap => exact hf _ _ _ h1
  | diverged i => exact hf _ _ _ h1
  | entries es =>
    dsimp only
    cases es.head? with
    | none => exact hf _ _ _ h1
    | some y =>
      dsimp only
      split
      · exact hf _ _ _ h1
      · split
        · exact plotAccess_steady _ _ _ _ _ _ h1
        · exact hf _ _ _ h1
theorem Acc_read_steady (a : Acc) (kind region : Nat) (off : Int) (len : Nat) : EngSteady (a.read kind region off len) := by
  unfold Acc.read
  refine EngSteady.bind _ _ (Acc_check_steady ..) (fun x => ?_)
  refine ⟨fun {s₀} s h => ?_⟩
  have h1 := fetchBytes_steady s x len { a.loc with region := some region, access := kind } h
  dsimp only
  split <;> (rename_i heq; rw [heq] at h1; exact h1)
theorem Acc_write_steady (a : Acc) (kind region : Nat) (off : Int) (bs : List Byte) : EngSteady (a.write kind region off bs) := by
  unfold Acc.write
  refine EngSteady.bind _ _ (Acc_check_steady ..) (fun x => ?_)
  refine ⟨fun {s₀} s h => ?_⟩
  have h1 := store_steady s x bs { a.loc with region := some region, access := kind } h
  dsimp only
  split <;> (rename_i heq; rw [heq] at h1; exact h1)

/-! Machine/Batons.lean. -/

theorem listCheck_steady (s : State) (p : PartId) (circuits : Nat) (g : GraphList) (hs : s.Steady s₀) : (State.listCheck s p circuits g).Steady s₀ := by
  unfold State.listCheck; repeat' (first | with_reducible assumption | with_reducible refine ite_steady ?_ ?_ | with_reducible (extract_lets +onlyGivenNames x; refine (show x.Steady s₀ → _ from fun hx => ?_) ?_; (on_goal 2 => unfold x; clear x); clear_value x; revert x; intro _ _) | with_reducible (extract_lets +onlyGivenNames x; refine (show x.1.Steady s₀ → _ from fun hx => ?_) ?_; (on_goal 2 => unfold x; clear x); clear_value x; revert x; intro _ _) | with_reducible (extract_lets +onlyGivenNames x; refine (show x.2.Steady s₀ → _ from fun hx => ?_) ?_; (on_goal 2 => unfold x; clear x); clear_value x; revert x; intro _ _) | with_reducible (extract_lets +onlyGivenNames x; refine (show (∀ t : State, t.Steady s₀ → (x t).Steady s₀) → _ from fun hx => ?_) ?_; (on_goal 2 => unfold x; clear x; intro t ht; beta_reduce); clear_value x; revert x; intro _ _) | with_reducible (extract_lets +onlyGivenNames x; clear_value x; revert x; intro _) | with_reducible refine getD_steady (fun _ _ => ?_) ?_ | with_reducible refine partJobFault_steady _ _ _ _ ?_ | split)
theorem settle_steady (s : State) (p : PartId) (hs : s.Steady s₀) : (State.settle s p).Steady s₀ := by
  unfold State.settle; repeat' (first | with_reducible assumption | with_reducible refine ite_steady ?_ ?_ | with_reducible refine ite_fst ?_ ?_ | with_reducible refine foldl_steady _ _ _ ?_ (fun _ _ _ => ?_) | with_reducible refine partJobFault_steady _ _ _ _ ?_ | with_reducible refine listCheck_steady _ _ _ _ ?_ | split)
theorem listEnd_steady (s : State) (p : PartId) (t : Fin 32) (hs : s.Steady s₀) : (State.listEnd s p t).Steady s₀ := by
  unfold State.listEnd; repeat' (first | with_reducible assumption | with_reducible (refine upd_steady _ ?_ .. ; with_reducible assumption) | with_reducible refine ite_steady ?_ ?_ | with_reducible (extract_lets +onlyGivenNames x; refine (show x.Steady s₀ → _ from fun hx => ?_) ?_; (on_goal 2 => unfold x; clear x); clear_value x; revert x; intro _ _) | with_reducible (extract_lets +onlyGivenNames x; refine (show x.1.Steady s₀ → _ from fun hx => ?_) ?_; (on_goal 2 => unfold x; clear x); clear_value x; revert x; intro _ _) | with_reducible (extract_lets +onlyGivenNames x; refine (show x.2.Steady s₀ → _ from fun hx => ?_) ?_; (on_goal 2 => unfold x; clear x); clear_value x; revert x; intro _ _) | with_reducible (extract_lets +onlyGivenNames x; refine (show (∀ t : State, t.Steady s₀ → (x t).Steady s₀) → _ from fun hx => ?_) ?_; (on_goal 2 => unfold x; clear x; intro t ht; beta_reduce); clear_value x; revert x; intro _ _) | with_reducible (extract_lets +onlyGivenNames x; clear_value x; revert x; intro _) | with_reducible refine modPart_steady _ _ _ ?_ | with_reducible refine logs_steady _ _ _ _ ?_ | with_reducible refine done_steady _ _ _ ?_ | with_reducible refine partJobFault_steady _ _ _ _ ?_ | split)
theorem retire_steady (s : State) (p : PartId) (i : Issued) (mk : W16 → Nat → QEntry) (engine : Nat) (hs : s.Steady s₀) : (State.retire s p i mk engine).Steady s₀ := by
  unfold State.retire; repeat' (first | with_reducible assumption | with_reducible (refine upd_steady _ ?_ .. ; with_reducible assumption) | with_reducible refine ite_steady ?_ ?_ | with_reducible (extract_lets +onlyGivenNames x; refine (show x.Steady s₀ → _ from fun hx => ?_) ?_; (on_goal 2 => unfold x; clear x); clear_value x; revert x; intro _ _) | with_reducible (extract_lets +onlyGivenNames x; refine (show x.1.Steady s₀ → _ from fun hx => ?_) ?_; (on_goal 2 => unfold x; clear x); clear_value x; revert x; intro _ _) | with_reducible (extract_lets +onlyGivenNames x; refine (show x.2.Steady s₀ → _ from fun hx => ?_) ?_; (on_goal 2 => unfold x; clear x); clear_value x; revert x; intro _ _) | with_reducible (extract_lets +onlyGivenNames x; refine (show (∀ t : State, t.Steady s₀ → (x t).Steady s₀) → _ from fun hx => ?_) ?_; (on_goal 2 => unfold x; clear x; intro t ht; beta_reduce); clear_value x; revert x; intro _ _) | with_reducible (extract_lets +onlyGivenNames x; clear_value x; revert x; intro _) | with_reducible refine modPart_steady _ _ _ ?_ | with_reducible refine postAll_steady _ _ _ _ _ ?_ | with_reducible refine listEnd_steady _ _ _ ?_ | split)
theorem resState_steady {α : Type} {m : Eng α} {s t : State} {r : EStateM.Result Unit State α} (heq : m s = r) (ht : t = resState r)
    (hm : EngSteady m) (h : s.Steady s₀) : t.Steady s₀ := by
  rw [ht, ← heq]; exact hm.run s h
theorem runLive_steady (s : State) (t : TileId) (e : EngineKind) (grp op : Nat) (body : Acc → List QEntry → Eng (BitVec 96))
    (hb : ∀ a es, EngSteady (body a es)) (hs : s.Steady s₀) : (s.runLive t e grp op body).Steady s₀ := by
  unfold State.runLive
  dsimp only
  refine ite_steady hs ?_
  split
  · exact hs
  · exact hs
  · exact hs
  · refine ite_steady hs ?_
    split
    · exact settle_steady _ _ (retire_steady _ _ _ _ _ (modPart_steady _ _ _ hs))
    · split
      · rename_i heq; exact modPart_steady _ _ _ (resState_steady heq rfl (hb _ _) (modPart_steady _ _ _ hs))
      · rename_i heq; exact resState_steady heq rfl (hb _ _) (modPart_steady _ _ _ hs)
theorem runOn_steady (s : State) (t : TileId) (e : EngineKind) (grp op : Nat) (body : Acc → List QEntry → Eng (BitVec 96))
    (hb : ∀ a es, EngSteady (body a es)) (hs : s.Steady s₀) : (s.runOn t e grp op body).Steady s₀ := by
  unfold State.runOn
  split
  · exact runLive_steady _ _ _ _ _ _ hb hs
  · rename_i u hu
    exact stopRun_steady _ _ _ hs (runLive_steady _ _ _ _ _ _ hb (stillRuns_steady _ _ hs _ hu))

/-! Machine/Binding.lean. -/

theorem bindSend_steady (s : State) (j : Job) (p : PartId) (i : Issued) (cause : Nat) (carried : BitVec 96) (hs : s.Steady s₀) : (State.bindSend s j p i cause carried).Steady s₀ := by
  unfold State.bindSend; repeat' (first | with_reducible assumption | with_reducible (refine upd_steady _ ?_ .. ; with_reducible assumption) | with_reducible refine ite_steady ?_ ?_ | with_reducible (extract_lets +onlyGivenNames x; refine (show x.Steady s₀ → _ from fun hx => ?_) ?_; (on_goal 2 => unfold x; clear x); clear_value x; revert x; intro _ _) | with_reducible (extract_lets +onlyGivenNames x; refine (show x.1.Steady s₀ → _ from fun hx => ?_) ?_; (on_goal 2 => unfold x; clear x); clear_value x; revert x; intro _ _) | with_reducible (extract_lets +onlyGivenNames x; refine (show x.2.Steady s₀ → _ from fun hx => ?_) ?_; (on_goal 2 => unfold x; clear x); clear_value x; revert x; intro _ _) | with_reducible (extract_lets +onlyGivenNames x; refine (show (∀ t : State, t.Steady s₀ → (x t).Steady s₀) → _ from fun hx => ?_) ?_; (on_goal 2 => unfold x; clear x; intro t ht; beta_reduce); clear_value x; revert x; intro _ _) | with_reducible (extract_lets +onlyGivenNames x; clear_value x; revert x; intro _) | with_reducible refine modJob_steady _ _ _ ?_ | split)
theorem sendDone_steady (s : State) (id : Nat) (b : BoundSend) (hs : s.Steady s₀) : (State.sendDone s id b).Steady s₀ := by
  unfold State.sendDone; repeat' (first | with_reducible assumption | with_reducible (refine upd_steady _ ?_ .. ; with_reducible assumption) | with_reducible refine ite_steady ?_ ?_ | with_reducible (extract_lets +onlyGivenNames x; refine (show x.Steady s₀ → _ from fun hx => ?_) ?_; (on_goal 2 => unfold x; clear x); clear_value x; revert x; intro _ _) | with_reducible (extract_lets +onlyGivenNames x; refine (show x.1.Steady s₀ → _ from fun hx => ?_) ?_; (on_goal 2 => unfold x; clear x); clear_value x; revert x; intro _ _) | with_reducible (extract_lets +onlyGivenNames x; refine (show x.2.Steady s₀ → _ from fun hx => ?_) ?_; (on_goal 2 => unfold x; clear x); clear_value x; revert x; intro _ _) | with_reducible (extract_lets +onlyGivenNames x; refine (show (∀ t : State, t.Steady s₀ → (x t).Steady s₀) → _ from fun hx => ?_) ?_; (on_goal 2 => unfold x; clear x; intro t ht; beta_reduce); clear_value x; revert x; intro _ _) | with_reducible (extract_lets +onlyGivenNames x; clear_value x; revert x; intro _) | with_reducible refine modJob_steady _ _ _ ?_ | with_reducible refine postAll_steady _ _ _ _ _ ?_ | with_reducible refine settle_steady _ _ ?_ | with_reducible refine retire_steady _ _ _ _ _ ?_ | split)
theorem bindOrOrphan_steady (s : State) (j : Job) (p : PartId) (i : Issued) (cause : Nat) (carried : BitVec 96) (hs : s.Steady s₀) : (State.bindOrOrphan s j p i cause carried).Steady s₀ := by
  unfold State.bindOrOrphan; repeat' (first | with_reducible assumption | with_reducible refine ite_steady ?_ ?_ | with_reducible (extract_lets +onlyGivenNames x; refine (show x.Steady s₀ → _ from fun hx => ?_) ?_; (on_goal 2 => unfold x; clear x); clear_value x; revert x; intro _ _) | with_reducible (extract_lets +onlyGivenNames x; refine (show x.1.Steady s₀ → _ from fun hx => ?_) ?_; (on_goal 2 => unfold x; clear x); clear_value x; revert x; intro _ _) | with_reducible (extract_lets +onlyGivenNames x; refine (show x.2.Steady s₀ → _ from fun hx => ?_) ?_; (on_goal 2 => unfold x; clear x); clear_value x; revert x; intro _ _) | with_reducible (extract_lets +onlyGivenNames x; refine (show (∀ t : State, t.Steady s₀ → (x t).Steady s₀) → _ from fun hx => ?_) ?_; (on_goal 2 => unfold x; clear x; intro t ht; beta_reduce); clear_value x; revert x; intro _ _) | with_reducible (extract_lets +onlyGivenNames x; clear_value x; revert x; intro _) | with_reducible refine partJobFault_steady _ _ _ _ ?_ | with_reducible refine settle_steady _ _ ?_ | with_reducible refine bindSend_steady _ _ _ _ _ _ ?_ | split)
theorem execSend_steady (lead : PartId) (station : Fin 7) (s : State) (hs : s.Steady s₀) : ∀ out, execSend lead station s = .next out → out.Steady s₀ := by
  intro out ht; unfold execSend at ht; (try injection ht with ht); subst ht; repeat' (first | with_reducible assumption | with_reducible refine ite_steady ?_ ?_ | with_reducible (extract_lets +onlyGivenNames x; refine (show x.Steady s₀ → _ from fun hx => ?_) ?_; (on_goal 2 => unfold x; clear x); clear_value x; revert x; intro _ _) | with_reducible (extract_lets +onlyGivenNames x; refine (show x.1.Steady s₀ → _ from fun hx => ?_) ?_; (on_goal 2 => unfold x; clear x); clear_value x; revert x; intro _ _) | with_reducible (extract_lets +onlyGivenNames x; refine (show x.2.Steady s₀ → _ from fun hx => ?_) ?_; (on_goal 2 => unfold x; clear x); clear_value x; revert x; intro _ _) | with_reducible (extract_lets +onlyGivenNames x; refine (show (∀ t : State, t.Steady s₀ → (x t).Steady s₀) → _ from fun hx => ?_) ?_; (on_goal 2 => unfold x; clear x; intro t ht; beta_reduce); clear_value x; revert x; intro _ _) | with_reducible (extract_lets +onlyGivenNames x; clear_value x; revert x; intro _) | with_reducible refine modPart_steady _ _ _ ?_ | with_reducible refine modJob_steady _ _ _ ?_ | with_reducible refine bindOrOrphan_steady _ _ _ _ _ _ ?_ | split)
theorem execRecv_steady (lead : PartId) (station : Fin 7) (s : State) (hs : s.Steady s₀) : ∀ out, execRecv lead station s = .next out → out.Steady s₀ := by
  intro out ht; unfold execRecv at ht; (try injection ht with ht); subst ht; repeat' (first | with_reducible assumption | with_reducible refine ite_steady ?_ ?_ | with_reducible (extract_lets +onlyGivenNames x; refine (show x.Steady s₀ → _ from fun hx => ?_) ?_; (on_goal 2 => unfold x; clear x); clear_value x; revert x; intro _ _) | with_reducible (extract_lets +onlyGivenNames x; refine (show x.1.Steady s₀ → _ from fun hx => ?_) ?_; (on_goal 2 => unfold x; clear x); clear_value x; revert x; intro _ _) | with_reducible (extract_lets +onlyGivenNames x; refine (show x.2.Steady s₀ → _ from fun hx => ?_) ?_; (on_goal 2 => unfold x; clear x); clear_value x; revert x; intro _ _) | with_reducible (extract_lets +onlyGivenNames x; refine (show (∀ t : State, t.Steady s₀ → (x t).Steady s₀) → _ from fun hx => ?_) ?_; (on_goal 2 => unfold x; clear x; intro t ht; beta_reduce); clear_value x; revert x; intro _ _) | with_reducible (extract_lets +onlyGivenNames x; clear_value x; revert x; intro _) | with_reducible refine modJob_steady _ _ _ ?_ | with_reducible refine partJobFault_steady _ _ _ _ ?_ | with_reducible refine settle_steady _ _ ?_ | with_reducible refine retire_steady _ _ _ _ _ ?_ | split)

/-! Machine/Down.lean. -/

theorem finishMgmt_steady (s : State) (d : Desc) (isRead : Bool) (st : Byte) (syn : Bool) (bs : List Byte) (hs : s.Steady s₀) : (State.finishMgmt s d isRead st syn bs).Steady s₀ := by
  unfold State.finishMgmt; grind [modHiu_steady, winWrite_steady, winFault_steady, synthetic_steady, completeWith_steady, upd_steady, → State.Steady.sram, → State.Steady.host, → State.Steady.flash, → State.Steady.input, → State.Steady.time, → State.Steady.slots, → State.Steady.keys, → State.Steady.queue, → State.Steady.por, Mem.wf_set, Mem.wf_write, Mem.wf_writeAll, Mem.wf_zero]
theorem finishRequest_steady (s : State) (r : Request) (expired : Bool) (hs : s.Steady s₀) : (State.finishRequest s r expired).Steady s₀ := by
  unfold State.finishRequest; repeat' (first | with_reducible assumption | with_reducible (refine upd_steady _ ?_ .. ; with_reducible assumption) | with_reducible refine ite_steady ?_ ?_ | with_reducible (extract_lets +onlyGivenNames x; refine (show x.Steady s₀ → _ from fun hx => ?_) ?_; (on_goal 2 => unfold x; clear x); clear_value x; revert x; intro _ _) | with_reducible (extract_lets +onlyGivenNames x; refine (show x.1.Steady s₀ → _ from fun hx => ?_) ?_; (on_goal 2 => unfold x; clear x); clear_value x; revert x; intro _ _) | with_reducible (extract_lets +onlyGivenNames x; refine (show x.2.Steady s₀ → _ from fun hx => ?_) ?_; (on_goal 2 => unfold x; clear x); clear_value x; revert x; intro _ _) | with_reducible (extract_lets +onlyGivenNames x; refine (show (∀ t : State, t.Steady s₀ → (x t).Steady s₀) → _ from fun hx => ?_) ?_; (on_goal 2 => unfold x; clear x; intro t ht; beta_reduce); clear_value x; revert x; intro _ _) | with_reducible (extract_lets +onlyGivenNames x; clear_value x; revert x; intro _) | with_reducible refine modInfield_steady _ _ ?_ | with_reducible refine logs_steady _ _ _ _ ?_ | with_reducible refine partJobFault_steady _ _ _ _ ?_ | with_reducible refine settle_steady _ _ ?_ | with_reducible refine retire_steady _ _ _ _ _ ?_ | with_reducible refine finishMgmt_steady _ _ _ _ _ _ ?_ | with_reducible refine linkDown_steady _ _ _ ?_ | with_reducible refine putGet_steady _ _ _ ?_ | split)
theorem linkDrop_steady (s : State) (l : LinkId) (hs : s.Steady s₀) : (State.linkDrop s l).Steady s₀ := by
  unfold State.linkDrop; repeat' (first | with_reducible assumption | with_reducible (refine upd_steady _ ?_ .. ; with_reducible assumption) | with_reducible refine ite_steady ?_ ?_ | with_reducible refine ite_fst ?_ ?_ | with_reducible (extract_lets +onlyGivenNames x; refine (show x.Steady s₀ → _ from fun hx => ?_) ?_; (on_goal 2 => unfold x; clear x); clear_value x; revert x; intro _ _) | with_reducible (extract_lets +onlyGivenNames x; refine (show x.1.Steady s₀ → _ from fun hx => ?_) ?_; (on_goal 2 => unfold x; clear x); clear_value x; revert x; intro _ _) | with_reducible (extract_lets +onlyGivenNames x; refine (show x.2.Steady s₀ → _ from fun hx => ?_) ?_; (on_goal 2 => unfold x; clear x); clear_value x; revert x; intro _ _) | with_reducible (extract_lets +onlyGivenNames x; refine (show (∀ t : State, t.Steady s₀ → (x t).Steady s₀) → _ from fun hx => ?_) ?_; (on_goal 2 => unfold x; clear x; intro t ht; beta_reduce); clear_value x; revert x; intro _ _) | with_reducible (extract_lets +onlyGivenNames x; clear_value x; revert x; intro _) | with_reducible refine foldl_steady _ _ _ ?_ (fun _ _ _ => ?_) | with_reducible refine modLink_steady _ _ _ ?_ | with_reducible refine modInfield_steady _ _ ?_ | with_reducible refine unitLeaves_steady _ _ ?_ | with_reducible refine answerDown_steady _ _ _ ?_ | with_reducible refine finishRequest_steady _ _ _ ?_ | with_reducible refine linkDown_steady _ _ _ ?_ | split)
theorem postLanding_steady (s : State) (j : Job) (y : Transfer) (e : W16 → Nat → QEntry) (n : Nat) (r : Loc) (hs : s.Steady s₀) : (State.postLanding s j y e n r).Steady s₀ := by
  unfold State.postLanding; repeat' (first | with_reducible assumption | with_reducible (refine upd_steady _ ?_ .. ; with_reducible assumption) | with_reducible refine ite_steady ?_ ?_ | with_reducible refine pushOr_steady _ _ _ _ _ _ ?_ | with_reducible refine settle_steady _ _ ?_ | split)
theorem takeArm_steady (s : State) (j : Job) (t : W16) (hs : s.Steady s₀) : ∀ out, State.takeArm s j t = some out → out.Steady s₀ := by
  intro out ht; unfold State.takeArm at ht; grind [modJob_steady, upd_steady, → State.Steady.sram, → State.Steady.host, → State.Steady.flash, → State.Steady.input, → State.Steady.time, → State.Steady.slots, → State.Steady.keys, → State.Steady.queue, → State.Steady.por, Mem.wf_set, Mem.wf_write, Mem.wf_writeAll, Mem.wf_zero]
theorem takeArm_steadyD (s : State) (j : Job) (t : W16) (hs : s.Steady s₀) (dflt : State) (hd : dflt.Steady s₀) : ((State.takeArm s j t).getD dflt).Steady s₀ := getD_steady (takeArm_steady s j t hs) hd
theorem voidSends_steady (s : State) (l : LinkId) (j : Job) (hs : s.Steady s₀) : (State.voidSends s l j).Steady s₀ := by
  unfold State.voidSends; repeat' (first | with_reducible assumption | with_reducible refine ite_steady ?_ ?_ | with_reducible (extract_lets +onlyGivenNames x; refine (show x.Steady s₀ → _ from fun hx => ?_) ?_; (on_goal 2 => unfold x; clear x); clear_value x; revert x; intro _ _) | with_reducible (extract_lets +onlyGivenNames x; refine (show x.1.Steady s₀ → _ from fun hx => ?_) ?_; (on_goal 2 => unfold x; clear x); clear_value x; revert x; intro _ _) | with_reducible (extract_lets +onlyGivenNames x; refine (show x.2.Steady s₀ → _ from fun hx => ?_) ?_; (on_goal 2 => unfold x; clear x); clear_value x; revert x; intro _ _) | with_reducible (extract_lets +onlyGivenNames x; refine (show (∀ t : State, t.Steady s₀ → (x t).Steady s₀) → _ from fun hx => ?_) ?_; (on_goal 2 => unfold x; clear x; intro t ht; beta_reduce); clear_value x; revert x; intro _ _) | with_reducible (extract_lets +onlyGivenNames x; clear_value x; revert x; intro _) | with_reducible refine foldl_steady _ _ _ ?_ (fun _ _ _ => ?_) | with_reducible refine modJob_steady _ _ _ ?_ | with_reducible refine postAll_steady _ _ _ _ _ ?_ | with_reducible refine retire_steady _ _ _ _ _ ?_ | with_reducible refine sendDone_steady _ _ _ ?_ | split)
theorem voidLandings_steady (s : State) (l : LinkId) (k : Link) (j : Job) (hs : s.Steady s₀) : (State.voidLandings s l k j).Steady s₀ := by
  unfold State.voidLandings; repeat' (first | with_reducible assumption | with_reducible refine ite_steady ?_ ?_ | with_reducible refine ite_fst ?_ ?_ | with_reducible (extract_lets +onlyGivenNames x; refine (show x.Steady s₀ → _ from fun hx => ?_) ?_; (on_goal 2 => unfold x; clear x); clear_value x; revert x; intro _ _) | with_reducible (extract_lets +onlyGivenNames x; refine (show x.1.Steady s₀ → _ from fun hx => ?_) ?_; (on_goal 2 => unfold x; clear x); clear_value x; revert x; intro _ _) | with_reducible (extract_lets +onlyGivenNames x; refine (show x.2.Steady s₀ → _ from fun hx => ?_) ?_; (on_goal 2 => unfold x; clear x); clear_value x; revert x; intro _ _) | with_reducible (extract_lets +onlyGivenNames x; refine (show (∀ t : State, t.Steady s₀ → (x t).Steady s₀) → _ from fun hx => ?_) ?_; (on_goal 2 => unfold x; clear x; intro t ht; beta_reduce); clear_value x; revert x; intro _ _) | with_reducible (extract_lets +onlyGivenNames x; clear_value x; revert x; intro _) | with_reducible refine foldl_steady _ _ _ ?_ (fun _ _ _ => ?_) | with_reducible refine modJob_steady _ _ _ ?_ | with_reducible refine postLanding_steady _ _ _ _ _ _ ?_ | split)
theorem voidLink_steady (s : State) (l : LinkId) (k : Link) (j : Job) (hs : s.Steady s₀) : (State.voidLink s l k j).Steady s₀ := by
  unfold State.voidLink; repeat' (first | with_reducible assumption | with_reducible refine voidSends_steady _ _ _ ?_ | with_reducible refine voidLandings_steady _ _ _ _ ?_ | split)
theorem linkLost_steady (s : State) (l : LinkId) (k : Link) (hs : s.Steady s₀) : (State.linkLost s l k).Steady s₀ := by
  unfold State.linkLost; repeat' (first | with_reducible assumption | with_reducible refine ite_steady ?_ ?_ | with_reducible refine ite_fst ?_ ?_ | with_reducible (extract_lets +onlyGivenNames x; refine (show x.Steady s₀ → _ from fun hx => ?_) ?_; (on_goal 2 => unfold x; clear x); clear_value x; revert x; intro _ _) | with_reducible (extract_lets +onlyGivenNames x; refine (show x.1.Steady s₀ → _ from fun hx => ?_) ?_; (on_goal 2 => unfold x; clear x); clear_value x; revert x; intro _ _) | with_reducible (extract_lets +onlyGivenNames x; refine (show x.2.Steady s₀ → _ from fun hx => ?_) ?_; (on_goal 2 => unfold x; clear x); clear_value x; revert x; intro _ _) | with_reducible (extract_lets +onlyGivenNames x; refine (show (∀ t : State, t.Steady s₀ → (x t).Steady s₀) → _ from fun hx => ?_) ?_; (on_goal 2 => unfold x; clear x; intro t ht; beta_reduce); clear_value x; revert x; intro _ _) | with_reducible (extract_lets +onlyGivenNames x; clear_value x; revert x; intro _) | with_reducible refine foldl_steady _ _ _ ?_ (fun _ _ _ => ?_) | with_reducible refine logAt_steady _ _ _ _ ?_ | with_reducible refine jobFaultQuiet_steady _ _ _ ?_ | with_reducible refine domainFault_steady _ _ ?_ | with_reducible refine refuseStart_steady _ _ _ _ _ _ ?_ | with_reducible refine voidLink_steady _ _ _ _ ?_ | split)
theorem linkDown_steady (s : State) (l : LinkId) (cause : W16) (hs : s.Steady s₀) : (State.linkDown s l cause).Steady s₀ := by
  unfold State.linkDown; repeat' (first | with_reducible assumption | with_reducible (extract_lets +onlyGivenNames x; refine (show x.Steady s₀ → _ from fun hx => ?_) ?_; (on_goal 2 => unfold x; clear x); clear_value x; revert x; intro _ _) | with_reducible (extract_lets +onlyGivenNames x; refine (show x.1.Steady s₀ → _ from fun hx => ?_) ?_; (on_goal 2 => unfold x; clear x); clear_value x; revert x; intro _ _) | with_reducible (extract_lets +onlyGivenNames x; refine (show x.2.Steady s₀ → _ from fun hx => ?_) ?_; (on_goal 2 => unfold x; clear x); clear_value x; revert x; intro _ _) | with_reducible (extract_lets +onlyGivenNames x; refine (show (∀ t : State, t.Steady s₀ → (x t).Steady s₀) → _ from fun hx => ?_) ?_; (on_goal 2 => unfold x; clear x; intro t ht; beta_reduce); clear_value x; revert x; intro _ _) | with_reducible (extract_lets +onlyGivenNames x; clear_value x; revert x; intro _) | with_reducible refine logs_steady _ _ _ _ ?_ | with_reducible refine linkDrop_steady _ _ ?_ | with_reducible refine linkLost_steady _ _ _ ?_ | split)
theorem faultAll_steady (s : State) (code : W16) (hs : s.Steady s₀) : (State.faultAll s code).Steady s₀ := by
  unfold State.faultAll; repeat' (first | with_reducible assumption | with_reducible (refine upd_steady _ ?_ .. ; with_reducible assumption) | with_reducible (extract_lets +onlyGivenNames x; refine (show x.Steady s₀ → _ from fun hx => ?_) ?_; (on_goal 2 => unfold x; clear x); clear_value x; revert x; intro _ _) | with_reducible (extract_lets +onlyGivenNames x; refine (show x.1.Steady s₀ → _ from fun hx => ?_) ?_; (on_goal 2 => unfold x; clear x); clear_value x; revert x; intro _ _) | with_reducible (extract_lets +onlyGivenNames x; refine (show x.2.Steady s₀ → _ from fun hx => ?_) ?_; (on_goal 2 => unfold x; clear x); clear_value x; revert x; intro _ _) | with_reducible (extract_lets +onlyGivenNames x; refine (show (∀ t : State, t.Steady s₀ → (x t).Steady s₀) → _ from fun hx => ?_) ?_; (on_goal 2 => unfold x; clear x; intro t ht; beta_reduce); clear_value x; revert x; intro _ _) | with_reducible (extract_lets +onlyGivenNames x; clear_value x; revert x; intro _) | with_reducible refine foldl_steady _ _ _ ?_ (fun _ _ _ => ?_) | with_reducible refine jobFaultQuiet_steady _ _ _ ?_ | split)
theorem linksAllDown_steady (s : State) (hs : s.Steady s₀) : (State.linksAllDown s).Steady s₀ := by
  unfold State.linksAllDown; repeat' (first | with_reducible assumption | with_reducible refine ite_steady ?_ ?_ | with_reducible refine foldl_steady _ _ _ ?_ (fun _ _ _ => ?_) | with_reducible refine linkDrop_steady _ _ ?_ | with_reducible refine linkLost_steady _ _ _ ?_ | split)
theorem packageFault_steady (s : State) (code : W16) (hs : s.Steady s₀) : (State.packageFault s code).Steady s₀ := by
  unfold State.packageFault; repeat' (first | with_reducible assumption | with_reducible refine logs_steady _ _ _ _ ?_ | with_reducible refine faultAll_steady _ _ ?_ | with_reducible refine linksAllDown_steady _ ?_ | split)

end Sys2Proof.Machine
end

