-- ==== Sys2Proof/Laws/SteadyFabric.lean ====
section
/-! SUPPORT. For each operation of pace, plans, relay stations, digests, window claims and cells: what it keeps (State.Steady). -/

set_option maxRecDepth 4000
set_option linter.all false

namespace Sys2Proof.Machine

variable {s₀ : State}

/-! Machine/Pace.lean. -/

theorem queuePace_steady (s : State) (l : LinkId) (kind : BitVec 4) (body : BitVec 44) (hs : s.Steady s₀) : (State.queuePace s l kind body).Steady s₀ := by
  unfold State.queuePace; repeat' (first | with_reducible assumption | with_reducible (refine upd_steady _ ?_ .. ; with_reducible assumption) | with_reducible refine ite_steady ?_ ?_ | with_reducible refine modLink_steady _ _ _ ?_ | split)
theorem sendTree_steady (s : State) (kind : BitVec 4) (body : BitVec 44) (but : Option LinkId) (hs : s.Steady s₀) : (State.sendTree s kind body but).Steady s₀ := by
  unfold State.sendTree; repeat' (first | with_reducible assumption | with_reducible refine foldl_steady _ _ _ ?_ (fun _ _ _ => ?_) | with_reducible refine queuePace_steady _ _ _ _ ?_ | split)
theorem firstCopy_steady (s : State) (l : LinkId) (kind : BitVec 4) (body : BitVec 44) (hs : s.Steady s₀) : (State.firstCopy s l kind body).1.Steady s₀ := by
  unfold State.firstCopy; repeat' (first | with_reducible assumption | with_reducible (refine upd_steady _ ?_ .. ; with_reducible assumption) | with_reducible (extract_lets +onlyGivenNames x; refine (show x.Steady s₀ → _ from fun hx => ?_) ?_; (on_goal 2 => unfold x; clear x); clear_value x; revert x; intro _ _) | with_reducible (extract_lets +onlyGivenNames x; refine (show x.1.Steady s₀ → _ from fun hx => ?_) ?_; (on_goal 2 => unfold x; clear x); clear_value x; revert x; intro _ _) | with_reducible (extract_lets +onlyGivenNames x; refine (show x.2.Steady s₀ → _ from fun hx => ?_) ?_; (on_goal 2 => unfold x; clear x); clear_value x; revert x; intro _ _) | with_reducible (extract_lets +onlyGivenNames x; refine (show (∀ t : State, t.Steady s₀ → (x t).Steady s₀) → _ from fun hx => ?_) ?_; (on_goal 2 => unfold x; clear x; intro t ht; beta_reduce); clear_value x; revert x; intro _ _) | with_reducible (extract_lets +onlyGivenNames x; clear_value x; revert x; intro _) | with_reducible refine modPace_steady _ _ ?_ | with_reducible (dsimp only) | split)
theorem firstCopy_steadyE {s : State} {l : LinkId} {kind : BitVec 4} {body : BitVec 44} {out : State} {res} (hs : s.Steady s₀) (heq : State.firstCopy s l kind body = (out, res)) : out.Steady s₀ := by
  have h := firstCopy_steady s l kind body hs; rw [heq] at h; exact h
theorem onReport_steady (s : State) (l : LinkId) (cls : Fin 8) (thermal : Bool) (hs : s.Steady s₀) : (State.onReport s l cls thermal).Steady s₀ := by
  unfold State.onReport; repeat' (first | with_reducible assumption | with_reducible (refine upd_steady _ ?_ .. ; with_reducible assumption) | with_reducible refine ite_steady ?_ ?_ | with_reducible refine modPace_steady _ _ ?_ | split)
theorem onAnnouncement_steady (s : State) (l : LinkId) (grade : Fin 8) (t : Nat) (hs : s.Steady s₀) : (State.onAnnouncement s l grade t).Steady s₀ := by
  unfold State.onAnnouncement; repeat' (first | with_reducible assumption | with_reducible refine ite_steady ?_ ?_ | with_reducible (extract_lets +onlyGivenNames x; refine (show x.Steady s₀ → _ from fun hx => ?_) ?_; (on_goal 2 => unfold x; clear x); clear_value x; revert x; intro _ _) | with_reducible (extract_lets +onlyGivenNames x; refine (show x.1.Steady s₀ → _ from fun hx => ?_) ?_; (on_goal 2 => unfold x; clear x); clear_value x; revert x; intro _ _) | with_reducible (extract_lets +onlyGivenNames x; refine (show x.2.Steady s₀ → _ from fun hx => ?_) ?_; (on_goal 2 => unfold x; clear x); clear_value x; revert x; intro _ _) | with_reducible (extract_lets +onlyGivenNames x; refine (show (∀ t : State, t.Steady s₀ → (x t).Steady s₀) → _ from fun hx => ?_) ?_; (on_goal 2 => unfold x; clear x; intro t ht; beta_reduce); clear_value x; revert x; intro _ _) | with_reducible (extract_lets +onlyGivenNames x; clear_value x; revert x; intro _) | with_reducible refine modPace_steady _ _ ?_ | with_reducible refine domainFault_steady _ _ ?_ | with_reducible refine sendTree_steady _ _ _ _ ?_ | split)
theorem arm_steady (s : State) (target : Nat) (job : Byte) (here : Bool) (hs : s.Steady s₀) : (State.arm s target job here).Steady s₀ := by
  unfold State.arm; repeat' (first | with_reducible assumption | with_reducible (refine upd_steady _ ?_ .. ; with_reducible assumption) | with_reducible refine modPace_steady _ _ ?_ | split)
theorem raiseSlip_steady (s : State) (j : Job) (cause : BitVec 4) (origin : Nat) (hs : s.Steady s₀) : (State.raiseSlip s j cause origin).Steady s₀ := by
  unfold State.raiseSlip; repeat' (first | with_reducible assumption | with_reducible refine ite_steady ?_ ?_ | with_reducible refine ite_fst ?_ ?_ | with_reducible refine sendTree_steady _ _ _ _ ?_ | with_reducible refine arm_steady _ _ _ _ ?_ | split)
theorem onSlip_steady (s : State) (l : LinkId) (cause : BitVec 4) (job : Byte) (origin : Nat) (hs : s.Steady s₀) : (State.onSlip s l cause job origin).Steady s₀ := by
  unfold State.onSlip; repeat' (first | with_reducible assumption | with_reducible refine ite_steady ?_ ?_ | with_reducible (extract_lets +onlyGivenNames x; refine (show x.Steady s₀ → _ from fun hx => ?_) ?_; (on_goal 2 => unfold x; clear x); clear_value x; revert x; intro _ _) | with_reducible (extract_lets +onlyGivenNames x; refine (show x.1.Steady s₀ → _ from fun hx => ?_) ?_; (on_goal 2 => unfold x; clear x); clear_value x; revert x; intro _ _) | with_reducible (extract_lets +onlyGivenNames x; refine (show x.2.Steady s₀ → _ from fun hx => ?_) ?_; (on_goal 2 => unfold x; clear x); clear_value x; revert x; intro _ _) | with_reducible (extract_lets +onlyGivenNames x; refine (show (∀ t : State, t.Steady s₀ → (x t).Steady s₀) → _ from fun hx => ?_) ?_; (on_goal 2 => unfold x; clear x; intro t ht; beta_reduce); clear_value x; revert x; intro _ _) | with_reducible (extract_lets +onlyGivenNames x; clear_value x; revert x; intro _) | with_reducible refine domainFault_steady _ _ ?_ | with_reducible refine sendTree_steady _ _ _ _ ?_ | with_reducible refine arm_steady _ _ _ _ ?_ | split)
theorem onPaceCell_steady (s : State) (l : LinkId) (w : W64) (hs : s.Steady s₀) : (State.onPaceCell s l w).Steady s₀ := by
  unfold State.onPaceCell; repeat' (first | with_reducible assumption | with_reducible (refine upd_steady _ ?_ .. ; with_reducible assumption) | with_reducible refine ite_steady ?_ ?_ | with_reducible refine ite_fst ?_ ?_ | with_reducible (extract_lets +onlyGivenNames x; refine (show x.Steady s₀ → _ from fun hx => ?_) ?_; (on_goal 2 => unfold x; clear x); clear_value x; revert x; intro _ _) | with_reducible (extract_lets +onlyGivenNames x; refine (show x.1.Steady s₀ → _ from fun hx => ?_) ?_; (on_goal 2 => unfold x; clear x); clear_value x; revert x; intro _ _) | with_reducible (extract_lets +onlyGivenNames x; refine (show x.2.Steady s₀ → _ from fun hx => ?_) ?_; (on_goal 2 => unfold x; clear x); clear_value x; revert x; intro _ _) | with_reducible (extract_lets +onlyGivenNames x; refine (show (∀ t : State, t.Steady s₀ → (x t).Steady s₀) → _ from fun hx => ?_) ?_; (on_goal 2 => unfold x; clear x; intro t ht; beta_reduce); clear_value x; revert x; intro _ _) | with_reducible (extract_lets +onlyGivenNames x; clear_value x; revert x; intro _) | with_reducible refine modPace_steady _ _ ?_ | with_reducible refine sendTree_steady _ _ _ _ ?_ | with_reducible refine firstCopy_steady _ _ _ _ ?_ | with_reducible refine firstCopy_steadyE ?_ (by assumption) | with_reducible refine onReport_steady _ _ _ _ ?_ | with_reducible refine onAnnouncement_steady _ _ _ _ ?_ | with_reducible refine onSlip_steady _ _ _ _ _ ?_ | split)
theorem execSlackReport_steady (l : LinkId) (cls : Fin 8) (thermal : Bool) (s : State) (hs : s.Steady s₀) : ∀ out, execSlackReport l cls thermal s = .next out → out.Steady s₀ := by
  intro out ht; unfold execSlackReport at ht; (try injection ht with ht); subst ht; repeat' (first | with_reducible assumption | with_reducible refine firstCopy_steady _ _ _ _ ?_ | with_reducible refine firstCopy_steadyE ?_ (by assumption) | with_reducible refine onReport_steady _ _ _ _ ?_ | split)
theorem execGradeAnnouncement_steady (l : LinkId) (grade : Fin 8) (t : W32) (s : State) (hs : s.Steady s₀) : ∀ out, execGradeAnnouncement l grade t s = .next out → out.Steady s₀ := by
  intro out ht; unfold execGradeAnnouncement at ht; (try injection ht with ht); subst ht; repeat' (first | with_reducible assumption | with_reducible refine firstCopy_steady _ _ _ _ ?_ | with_reducible refine firstCopy_steadyE ?_ (by assumption) | with_reducible refine onAnnouncement_steady _ _ _ _ ?_ | split)
theorem execSlipRequest_steady (l : LinkId) (cause : BitVec 4) (job : Byte) (origin : W32) (s : State) (hs : s.Steady s₀) : ∀ out, execSlipRequest l cause job origin s = .next out → out.Steady s₀ := by
  intro out ht; unfold execSlipRequest at ht; (try injection ht with ht); subst ht; repeat' (first | with_reducible assumption | with_reducible refine firstCopy_steady _ _ _ _ ?_ | with_reducible refine firstCopy_steadyE ?_ (by assumption) | with_reducible refine onSlip_steady _ _ _ _ _ ?_ | split)
theorem regrade_steady (s : State) (t : Nat) (hs : s.Steady s₀) : (State.regrade s t).Steady s₀ := by
  unfold State.regrade; repeat' (first | with_reducible assumption | with_reducible (refine upd_steady _ ?_ .. ; with_reducible assumption) | with_reducible refine foldl_steady _ _ _ ?_ (fun _ _ _ => ?_) | with_reducible refine modLink_steady _ _ _ ?_ | split)
theorem execGradeChange_steady (s : State) (hs : s.Steady s₀) : ∀ out, execGradeChange s = .next out → out.Steady s₀ := by
  intro out ht; unfold execGradeChange at ht; (try injection ht with ht); subst ht; repeat' (first | with_reducible assumption | with_reducible (refine upd_steady _ ?_ .. ; with_reducible assumption) | with_reducible refine ite_steady ?_ ?_ | with_reducible refine modPace_steady _ _ ?_ | with_reducible refine logs_steady _ _ _ _ ?_ | with_reducible refine noteSlack_steady _ ?_ | with_reducible refine regrade_steady _ _ ?_ | split)
theorem announceGrade_steady (s : State) (g : Fin 8) (hs : s.Steady s₀) : (State.announceGrade s g).Steady s₀ := by
  unfold State.announceGrade; repeat' (first | with_reducible assumption | with_reducible (extract_lets +onlyGivenNames x; refine (show x.Steady s₀ → _ from fun hx => ?_) ?_; (on_goal 2 => unfold x; clear x); clear_value x; revert x; intro _ _) | with_reducible (extract_lets +onlyGivenNames x; refine (show x.1.Steady s₀ → _ from fun hx => ?_) ?_; (on_goal 2 => unfold x; clear x); clear_value x; revert x; intro _ _) | with_reducible (extract_lets +onlyGivenNames x; refine (show x.2.Steady s₀ → _ from fun hx => ?_) ?_; (on_goal 2 => unfold x; clear x); clear_value x; revert x; intro _ _) | with_reducible (extract_lets +onlyGivenNames x; refine (show (∀ t : State, t.Steady s₀ → (x t).Steady s₀) → _ from fun hx => ?_) ?_; (on_goal 2 => unfold x; clear x; intro t ht; beta_reduce); clear_value x; revert x; intro _ _) | with_reducible (extract_lets +onlyGivenNames x; clear_value x; revert x; intro _) | with_reducible refine modPace_steady _ _ ?_ | with_reducible refine sendTree_steady _ _ _ _ ?_ | split)
theorem evaluate_steady (s : State) (w : Fin 8) (th : Bool) (hs : s.Steady s₀) : (State.evaluate s w th).Steady s₀ := by
  unfold State.evaluate; repeat' (first | with_reducible assumption | with_reducible (refine upd_steady _ ?_ .. ; with_reducible assumption) | with_reducible refine ite_steady ?_ ?_ | with_reducible (extract_lets +onlyGivenNames x; refine (show x.Steady s₀ → _ from fun hx => ?_) ?_; (on_goal 2 => unfold x; clear x); clear_value x; revert x; intro _ _) | with_reducible (extract_lets +onlyGivenNames x; refine (show x.1.Steady s₀ → _ from fun hx => ?_) ?_; (on_goal 2 => unfold x; clear x); clear_value x; revert x; intro _ _) | with_reducible (extract_lets +onlyGivenNames x; refine (show x.2.Steady s₀ → _ from fun hx => ?_) ?_; (on_goal 2 => unfold x; clear x); clear_value x; revert x; intro _ _) | with_reducible (extract_lets +onlyGivenNames x; refine (show (∀ t : State, t.Steady s₀ → (x t).Steady s₀) → _ from fun hx => ?_) ?_; (on_goal 2 => unfold x; clear x; intro t ht; beta_reduce); clear_value x; revert x; intro _ _) | with_reducible (extract_lets +onlyGivenNames x; clear_value x; revert x; intro _) | with_reducible refine modPace_steady _ _ ?_ | with_reducible refine logs_steady _ _ _ _ ?_ | with_reducible refine announceGrade_steady _ _ ?_ | split)
theorem powerMark_steady (s : State) (power : BitVec 12) (hs : s.Steady s₀) : (State.powerMark s power).Steady s₀ := by
  unfold State.powerMark; repeat' (first | with_reducible assumption | with_reducible (refine upd_steady _ ?_ .. ; with_reducible assumption) | with_reducible refine ite_steady ?_ ?_ | with_reducible (extract_lets +onlyGivenNames x; refine (show x.Steady s₀ → _ from fun hx => ?_) ?_; (on_goal 2 => unfold x; clear x); clear_value x; revert x; intro _ _) | with_reducible (extract_lets +onlyGivenNames x; refine (show x.1.Steady s₀ → _ from fun hx => ?_) ?_; (on_goal 2 => unfold x; clear x); clear_value x; revert x; intro _ _) | with_reducible (extract_lets +onlyGivenNames x; refine (show x.2.Steady s₀ → _ from fun hx => ?_) ?_; (on_goal 2 => unfold x; clear x); clear_value x; revert x; intro _ _) | with_reducible (extract_lets +onlyGivenNames x; refine (show (∀ t : State, t.Steady s₀ → (x t).Steady s₀) → _ from fun hx => ?_) ?_; (on_goal 2 => unfold x; clear x; intro t ht; beta_reduce); clear_value x; revert x; intro _ _) | with_reducible (extract_lets +onlyGivenNames x; clear_value x; revert x; intro _) | with_reducible refine modPower_steady _ _ ?_ ⟨rfl, id⟩ | with_reducible refine logs_steady _ _ _ _ ?_ | split)
theorem execMark_steady (power : BitVec 12) (delay : DelayFactors) (s : State) (hs : s.Steady s₀) : ∀ out, execMark power delay s = .next out → out.Steady s₀ := by
  intro out ht; unfold execMark at ht; (try injection ht with ht); subst ht; repeat' (first | with_reducible assumption | with_reducible (refine upd_steady _ ?_ .. ; with_reducible assumption) | with_reducible refine ite_steady ?_ ?_ | with_reducible (extract_lets +onlyGivenNames x; refine (show x.Steady s₀ → _ from fun hx => ?_) ?_; (on_goal 2 => unfold x; clear x); clear_value x; revert x; intro _ _) | with_reducible (extract_lets +onlyGivenNames x; refine (show x.1.Steady s₀ → _ from fun hx => ?_) ?_; (on_goal 2 => unfold x; clear x); clear_value x; revert x; intro _ _) | with_reducible (extract_lets +onlyGivenNames x; refine (show x.2.Steady s₀ → _ from fun hx => ?_) ?_; (on_goal 2 => unfold x; clear x); clear_value x; revert x; intro _ _) | with_reducible (extract_lets +onlyGivenNames x; refine (show (∀ t : State, t.Steady s₀ → (x t).Steady s₀) → _ from fun hx => ?_) ?_; (on_goal 2 => unfold x; clear x; intro t ht; beta_reduce); clear_value x; revert x; intro _ _) | with_reducible (extract_lets +onlyGivenNames x; clear_value x; revert x; intro _) | with_reducible refine modPace_steady _ _ ?_ | with_reducible refine modClock_steady _ _ ?_ rfl rfl rfl | with_reducible refine logs_steady _ _ _ _ ?_ | with_reducible refine queuePace_steady _ _ _ _ ?_ | with_reducible refine evaluate_steady _ _ _ ?_ | with_reducible refine powerMark_steady _ _ ?_ | split)
theorem execMarkLost_steady (s : State) (hs : s.Steady s₀) : ∀ out, execMarkLost s = .next out → out.Steady s₀ := by
  intro out ht; unfold execMarkLost at ht; (try injection ht with ht); subst ht; repeat' (first | with_reducible assumption | with_reducible refine ite_steady ?_ ?_ | with_reducible refine domainFault_steady _ _ ?_ | split)
theorem snapshot_steady (s : State) (lap : Nat) (hs : s.Steady s₀) : (State.snapshot s lap).Steady s₀ := by
  unfold State.snapshot; repeat' (first | with_reducible assumption | with_reducible (refine upd_steady _ ?_ .. ; with_reducible assumption) | with_reducible (extract_lets +onlyGivenNames x; refine (show x.Steady s₀ → _ from fun hx => ?_) ?_; (on_goal 2 => unfold x; clear x); clear_value x; revert x; intro _ _) | with_reducible (extract_lets +onlyGivenNames x; refine (show x.1.Steady s₀ → _ from fun hx => ?_) ?_; (on_goal 2 => unfold x; clear x); clear_value x; revert x; intro _ _) | with_reducible (extract_lets +onlyGivenNames x; refine (show x.2.Steady s₀ → _ from fun hx => ?_) ?_; (on_goal 2 => unfold x; clear x); clear_value x; revert x; intro _ _) | with_reducible (extract_lets +onlyGivenNames x; refine (show (∀ t : State, t.Steady s₀ → (x t).Steady s₀) → _ from fun hx => ?_) ?_; (on_goal 2 => unfold x; clear x; intro t ht; beta_reduce); clear_value x; revert x; intro _ _) | with_reducible (extract_lets +onlyGivenNames x; clear_value x; revert x; intro _) | with_reducible refine foldl_steady _ _ _ ?_ (fun _ _ _ => ?_) | with_reducible refine modInfield_steady _ _ ?_ | split)
theorem execCounterSnapshot_steady (s : State) (hs : s.Steady s₀) : ∀ out, execCounterSnapshot s = .next out → out.Steady s₀ := by
  intro out ht; unfold execCounterSnapshot at ht; (try injection ht with ht); subst ht; repeat' (first | with_reducible assumption | with_reducible refine ite_steady ?_ ?_ | with_reducible refine snapshot_steady _ _ ?_ | split)
theorem pruneHolds_steady (s : State) (hs : s.Steady s₀) : (State.pruneHolds s).Steady s₀ := by
  unfold State.pruneHolds; repeat' (first | with_reducible assumption | with_reducible (refine upd_steady _ ?_ .. ; with_reducible assumption) | with_reducible refine ite_steady ?_ ?_ | with_reducible (extract_lets +onlyGivenNames x; refine (show x.Steady s₀ → _ from fun hx => ?_) ?_; (on_goal 2 => unfold x; clear x); clear_value x; revert x; intro _ _) | with_reducible (extract_lets +onlyGivenNames x; refine (show x.1.Steady s₀ → _ from fun hx => ?_) ?_; (on_goal 2 => unfold x; clear x); clear_value x; revert x; intro _ _) | with_reducible (extract_lets +onlyGivenNames x; refine (show x.2.Steady s₀ → _ from fun hx => ?_) ?_; (on_goal 2 => unfold x; clear x); clear_value x; revert x; intro _ _) | with_reducible (extract_lets +onlyGivenNames x; refine (show (∀ t : State, t.Steady s₀ → (x t).Steady s₀) → _ from fun hx => ?_) ?_; (on_goal 2 => unfold x; clear x; intro t ht; beta_reduce); clear_value x; revert x; intro _ _) | with_reducible (extract_lets +onlyGivenNames x; clear_value x; revert x; intro _) | with_reducible refine modPace_steady _ _ ?_ | split)
theorem countSlip_steady (s : State) (h : ArmedHold) (hs : s.Steady s₀) : (State.countSlip s h).Steady s₀ := by
  unfold State.countSlip; repeat' (first | with_reducible assumption | with_reducible (refine upd_steady _ ?_ .. ; with_reducible assumption) | with_reducible refine ite_steady ?_ ?_ | with_reducible (extract_lets +onlyGivenNames x; refine (show x.Steady s₀ → _ from fun hx => ?_) ?_; (on_goal 2 => unfold x; clear x); clear_value x; revert x; intro _ _) | with_reducible (extract_lets +onlyGivenNames x; refine (show x.1.Steady s₀ → _ from fun hx => ?_) ?_; (on_goal 2 => unfold x; clear x); clear_value x; revert x; intro _ _) | with_reducible (extract_lets +onlyGivenNames x; refine (show x.2.Steady s₀ → _ from fun hx => ?_) ?_; (on_goal 2 => unfold x; clear x); clear_value x; revert x; intro _ _) | with_reducible (extract_lets +onlyGivenNames x; refine (show (∀ t : State, t.Steady s₀ → (x t).Steady s₀) → _ from fun hx => ?_) ?_; (on_goal 2 => unfold x; clear x; intro t ht; beta_reduce); clear_value x; revert x; intro _ _) | with_reducible (extract_lets +onlyGivenNames x; clear_value x; revert x; intro _) | with_reducible refine foldl_steady _ _ _ ?_ (fun _ _ _ => ?_) | with_reducible refine modPace_steady _ _ ?_ | with_reducible refine jobFaultQuiet_steady _ _ _ ?_ | with_reducible refine jobFault_steady _ _ _ _ ?_ | split)
theorem countHolds_steady (s : State) (hs : s.Steady s₀) : (State.countHolds s).Steady s₀ := by
  unfold State.countHolds; repeat' (first | with_reducible assumption | with_reducible refine foldl_steady _ _ _ ?_ (fun _ _ _ => ?_) | with_reducible refine countSlip_steady _ _ ?_ | split)
theorem meetHolds_steady (s : State) (hs : s.Steady s₀) : (State.meetHolds s).Steady s₀ := by
  unfold State.meetHolds; repeat' (first | with_reducible assumption | with_reducible refine ite_steady ?_ ?_ | with_reducible refine pruneHolds_steady _ ?_ | with_reducible refine countHolds_steady _ ?_ | split)
theorem sequenceEnd_steady (s : State) (j : Job) (hs : s.Steady s₀) : (State.sequenceEnd s j).Steady s₀ := by
  unfold State.sequenceEnd; repeat' (first | with_reducible assumption | with_reducible (refine upd_steady _ ?_ .. ; with_reducible assumption) | with_reducible (extract_lets +onlyGivenNames x; refine (show x.Steady s₀ → _ from fun hx => ?_) ?_; (on_goal 2 => unfold x; clear x); clear_value x; revert x; intro _ _) | with_reducible (extract_lets +onlyGivenNames x; refine (show x.1.Steady s₀ → _ from fun hx => ?_) ?_; (on_goal 2 => unfold x; clear x); clear_value x; revert x; intro _ _) | with_reducible (extract_lets +onlyGivenNames x; refine (show x.2.Steady s₀ → _ from fun hx => ?_) ?_; (on_goal 2 => unfold x; clear x); clear_value x; revert x; intro _ _) | with_reducible (extract_lets +onlyGivenNames x; refine (show (∀ t : State, t.Steady s₀ → (x t).Steady s₀) → _ from fun hx => ?_) ?_; (on_goal 2 => unfold x; clear x; intro t ht; beta_reduce); clear_value x; revert x; intro _ _) | with_reducible (extract_lets +onlyGivenNames x; clear_value x; revert x; intro _) | with_reducible refine foldl_steady _ _ _ ?_ (fun _ _ _ => ?_) | with_reducible refine modJob_steady _ _ _ ?_ | with_reducible refine jobFault_steady _ _ _ _ ?_ | with_reducible refine settle_steady _ _ ?_ | with_reducible refine unbound_steady _ _ ?_ | split)
theorem deferRepeat_steady (s : State) (j : Job) (b : Nat) (hs : s.Steady s₀) : (State.deferRepeat s j b).Steady s₀ := by
  unfold State.deferRepeat; repeat' (first | with_reducible assumption | with_reducible (refine upd_steady _ ?_ .. ; with_reducible assumption) | with_reducible refine ite_steady ?_ ?_ | with_reducible (extract_lets +onlyGivenNames x; refine (show x.Steady s₀ → _ from fun hx => ?_) ?_; (on_goal 2 => unfold x; clear x); clear_value x; revert x; intro _ _) | with_reducible (extract_lets +onlyGivenNames x; refine (show x.1.Steady s₀ → _ from fun hx => ?_) ?_; (on_goal 2 => unfold x; clear x); clear_value x; revert x; intro _ _) | with_reducible (extract_lets +onlyGivenNames x; refine (show x.2.Steady s₀ → _ from fun hx => ?_) ?_; (on_goal 2 => unfold x; clear x); clear_value x; revert x; intro _ _) | with_reducible (extract_lets +onlyGivenNames x; refine (show (∀ t : State, t.Steady s₀ → (x t).Steady s₀) → _ from fun hx => ?_) ?_; (on_goal 2 => unfold x; clear x; intro t ht; beta_reduce); clear_value x; revert x; intro _ _) | with_reducible (extract_lets +onlyGivenNames x; clear_value x; revert x; intro _) | with_reducible refine foldl_steady _ _ _ ?_ (fun _ _ _ => ?_) | with_reducible refine modLink_steady _ _ _ ?_ | with_reducible refine logAt_steady _ _ _ _ ?_ | with_reducible refine raiseSlip_steady _ _ _ _ ?_ | split)
theorem holdLap_steady (s : State) (j : Job) (l : LapState) (b : Nat) (table : Nat) (length : Nat) (h : ArmedHold) (hs : s.Steady s₀) : (State.holdLap s j l b table length h).Steady s₀ := by
  unfold State.holdLap; repeat' (first | with_reducible assumption | with_reducible (refine upd_steady _ ?_ .. ; with_reducible assumption) | with_reducible (extract_lets +onlyGivenNames x; refine (show x.Steady s₀ → _ from fun hx => ?_) ?_; (on_goal 2 => unfold x; clear x); clear_value x; revert x; intro _ _) | with_reducible (extract_lets +onlyGivenNames x; refine (show x.1.Steady s₀ → _ from fun hx => ?_) ?_; (on_goal 2 => unfold x; clear x); clear_value x; revert x; intro _ _) | with_reducible (extract_lets +onlyGivenNames x; refine (show x.2.Steady s₀ → _ from fun hx => ?_) ?_; (on_goal 2 => unfold x; clear x); clear_value x; revert x; intro _ _) | with_reducible (extract_lets +onlyGivenNames x; refine (show (∀ t : State, t.Steady s₀ → (x t).Steady s₀) → _ from fun hx => ?_) ?_; (on_goal 2 => unfold x; clear x; intro t ht; beta_reduce); clear_value x; revert x; intro _ _) | with_reducible (extract_lets +onlyGivenNames x; clear_value x; revert x; intro _) | with_reducible refine modJob_steady _ _ _ ?_ | with_reducible refine pruneHolds_steady _ ?_ | with_reducible refine countSlip_steady _ _ ?_ | split)
theorem atHurdleEntry_steady (s : State) (j : Job) (l : LapState) (b : Nat) (table : Nat) (length : Nat) (hs : s.Steady s₀) : (State.atHurdleEntry s j l b table length).Steady s₀ := by
  unfold State.atHurdleEntry; repeat' (first | with_reducible assumption | with_reducible (refine upd_steady _ ?_ .. ; with_reducible assumption) | with_reducible refine ite_steady ?_ ?_ | with_reducible refine modJob_steady _ _ _ ?_ | with_reducible refine pruneHolds_steady _ ?_ | with_reducible refine holdLap_steady _ _ _ _ _ _ _ ?_ | split)
theorem execLapBoundary_steady (lead : PartId) (s : State) (hs : s.Steady s₀) : ∀ out, execLapBoundary lead s = .next out → out.Steady s₀ := by
  intro out ht; unfold execLapBoundary at ht; (try injection ht with ht); subst ht; repeat' (first | with_reducible assumption | with_reducible (refine upd_steady _ ?_ .. ; with_reducible assumption) | with_reducible refine ite_steady ?_ ?_ | with_reducible (extract_lets +onlyGivenNames x; refine (show x.Steady s₀ → _ from fun hx => ?_) ?_; (on_goal 2 => unfold x; clear x); clear_value x; revert x; intro _ _) | with_reducible (extract_lets +onlyGivenNames x; refine (show x.1.Steady s₀ → _ from fun hx => ?_) ?_; (on_goal 2 => unfold x; clear x); clear_value x; revert x; intro _ _) | with_reducible (extract_lets +onlyGivenNames x; refine (show x.2.Steady s₀ → _ from fun hx => ?_) ?_; (on_goal 2 => unfold x; clear x); clear_value x; revert x; intro _ _) | with_reducible (extract_lets +onlyGivenNames x; refine (show (∀ t : State, t.Steady s₀ → (x t).Steady s₀) → _ from fun hx => ?_) ?_; (on_goal 2 => unfold x; clear x; intro t ht; beta_reduce); clear_value x; revert x; intro _ _) | with_reducible (extract_lets +onlyGivenNames x; clear_value x; revert x; intro _) | with_reducible refine modJob_steady _ _ _ ?_ | with_reducible refine jobFaultQuiet_steady _ _ _ ?_ | with_reducible refine snapshot_steady _ _ ?_ | with_reducible refine pruneHolds_steady _ ?_ | with_reducible refine sequenceEnd_steady _ _ ?_ | with_reducible refine deferRepeat_steady _ _ _ ?_ | with_reducible refine holdLap_steady _ _ _ _ _ _ _ ?_ | with_reducible refine atHurdleEntry_steady _ _ _ _ _ _ ?_ | split)

/-! Machine/Tables.lean. -/

theorem meetGolden_steady (s : State) (l : LinkId) (j : Job) (r : Loc) (hs : s.Steady s₀) : (State.meetGolden s l j r).Steady s₀ := by
  unfold State.meetGolden; repeat' (first | with_reducible assumption | with_reducible refine meetReserve_steady _ _ _ ?_ | split)
theorem tableRewrite_steady (s : State) (l : LinkId) (j : Job) (hs : s.Steady s₀) : (State.tableRewrite s l j).Steady s₀ := by
  unfold State.tableRewrite; repeat' (first | with_reducible assumption | with_reducible (refine upd_steady _ ?_ .. ; with_reducible assumption) | with_reducible refine ite_steady ?_ ?_ | with_reducible (extract_lets +onlyGivenNames x; refine (show x.Steady s₀ → _ from fun hx => ?_) ?_; (on_goal 2 => unfold x; clear x); clear_value x; revert x; intro _ _) | with_reducible (extract_lets +onlyGivenNames x; refine (show x.1.Steady s₀ → _ from fun hx => ?_) ?_; (on_goal 2 => unfold x; clear x); clear_value x; revert x; intro _ _) | with_reducible (extract_lets +onlyGivenNames x; refine (show x.2.Steady s₀ → _ from fun hx => ?_) ?_; (on_goal 2 => unfold x; clear x); clear_value x; revert x; intro _ _) | with_reducible (extract_lets +onlyGivenNames x; refine (show (∀ t : State, t.Steady s₀ → (x t).Steady s₀) → _ from fun hx => ?_) ?_; (on_goal 2 => unfold x; clear x; intro t ht; beta_reduce); clear_value x; revert x; intro _ _) | with_reducible (extract_lets +onlyGivenNames x; clear_value x; revert x; intro _) | with_reducible refine modLink_steady _ _ _ ?_ | with_reducible refine logAt_steady _ _ _ _ ?_ | with_reducible refine meetGolden_steady _ _ _ _ ?_ | split)
theorem tableDiverged_steady (s : State) (j : Job) (r : Loc) (hs : s.Steady s₀) : (State.tableDiverged s j r).Steady s₀ := by
  unfold State.tableDiverged; repeat' (first | with_reducible assumption | with_reducible (refine upd_steady _ ?_ .. ; with_reducible assumption) | with_reducible refine ite_steady ?_ ?_ | with_reducible refine modJob_steady _ _ _ ?_ | with_reducible refine logAt_steady _ _ _ _ ?_ | split)
theorem readTables_steady (s : State) (l : LinkId) (j : Job) (rx : Bool) (x : LapSpan) (slot : Nat) (hs : s.Steady s₀) : (State.readTables s l j rx x slot).1.Steady s₀ := by
  unfold State.readTables; repeat' (first | with_reducible assumption | with_reducible refine ite_steady ?_ ?_ | with_reducible refine ite_fst ?_ ?_ | with_reducible (extract_lets +onlyGivenNames x; refine (show x.Steady s₀ → _ from fun hx => ?_) ?_; (on_goal 2 => unfold x; clear x); clear_value x; revert x; intro _ _) | with_reducible (extract_lets +onlyGivenNames x; refine (show x.1.Steady s₀ → _ from fun hx => ?_) ?_; (on_goal 2 => unfold x; clear x); clear_value x; revert x; intro _ _) | with_reducible (extract_lets +onlyGivenNames x; refine (show x.2.Steady s₀ → _ from fun hx => ?_) ?_; (on_goal 2 => unfold x; clear x); clear_value x; revert x; intro _ _) | with_reducible (extract_lets +onlyGivenNames x; refine (show (∀ t : State, t.Steady s₀ → (x t).Steady s₀) → _ from fun hx => ?_) ?_; (on_goal 2 => unfold x; clear x; intro t ht; beta_reduce); clear_value x; revert x; intro _ _) | with_reducible (extract_lets +onlyGivenNames x; clear_value x; revert x; intro _) | with_reducible refine getD_steady (fun _ _ => ?_) ?_ | with_reducible refine tableRewrite_steady _ _ _ ?_ | with_reducible refine tableDiverged_steady _ _ _ ?_ | with_reducible (dsimp only) | split)
theorem readTables_steadyE {s : State} {l : LinkId} {j : Job} {rx : Bool} {x : LapSpan} {slot : Nat} {out : State} {res} (hs : s.Steady s₀) (heq : State.readTables s l j rx x slot = (out, res)) : out.Steady s₀ := by
  have h := readTables_steady s l j rx x slot hs; rw [heq] at h; exact h
theorem landingAt_steady (s : State) (unit : Nat) (p : PartId) (link : Nat) (region : Nat) (off : Nat) (len : Nat) (r : Loc) (hs : s.Steady s₀) : (State.landingAt s unit p link region off len r).1.Steady s₀ := by
  unfold State.landingAt; repeat' (first | with_reducible assumption | with_reducible (refine upd_steady _ ?_ .. ; with_reducible assumption) | with_reducible refine ite_steady ?_ ?_ | with_reducible refine ite_fst ?_ ?_ | with_reducible (extract_lets +onlyGivenNames x; refine (show x.Steady s₀ → _ from fun hx => ?_) ?_; (on_goal 2 => unfold x; clear x); clear_value x; revert x; intro _ _) | with_reducible (extract_lets +onlyGivenNames x; refine (show x.1.Steady s₀ → _ from fun hx => ?_) ?_; (on_goal 2 => unfold x; clear x); clear_value x; revert x; intro _ _) | with_reducible (extract_lets +onlyGivenNames x; refine (show x.2.Steady s₀ → _ from fun hx => ?_) ?_; (on_goal 2 => unfold x; clear x); clear_value x; revert x; intro _ _) | with_reducible (extract_lets +onlyGivenNames x; refine (show (∀ t : State, t.Steady s₀ → (x t).Steady s₀) → _ from fun hx => ?_) ?_; (on_goal 2 => unfold x; clear x; intro t ht; beta_reduce); clear_value x; revert x; intro _ _) | with_reducible (extract_lets +onlyGivenNames x; clear_value x; revert x; intro _) | with_reducible refine consultAll_steady _ _ _ ?_ | with_reducible refine consultAll_steadyE ?_ (by assumption) | with_reducible (dsimp only) | split)
theorem landingAt_steadyE {s : State} {unit : Nat} {p : PartId} {link : Nat} {region : Nat} {off : Nat} {len : Nat} {r : Loc} {out : State} {res} (hs : s.Steady s₀) (heq : State.landingAt s unit p link region off len r = (out, res)) : out.Steady s₀ := by
  have h := landingAt_steady s unit p link region off len r hs; rw [heq] at h; exact h
theorem spillAt_steady (s : State) (j : Job) (l : LinkId) (n : Nat) (hs : s.Steady s₀) : (State.spillAt s j l n).1.Steady s₀ := by
  unfold State.spillAt; repeat' (first | with_reducible assumption | with_reducible refine ite_steady ?_ ?_ | with_reducible refine ite_fst ?_ ?_ | with_reducible (extract_lets +onlyGivenNames x; refine (show x.Steady s₀ → _ from fun hx => ?_) ?_; (on_goal 2 => unfold x; clear x); clear_value x; revert x; intro _ _) | with_reducible (extract_lets +onlyGivenNames x; refine (show x.1.Steady s₀ → _ from fun hx => ?_) ?_; (on_goal 2 => unfold x; clear x); clear_value x; revert x; intro _ _) | with_reducible (extract_lets +onlyGivenNames x; refine (show x.2.Steady s₀ → _ from fun hx => ?_) ?_; (on_goal 2 => unfold x; clear x); clear_value x; revert x; intro _ _) | with_reducible (extract_lets +onlyGivenNames x; refine (show (∀ t : State, t.Steady s₀ → (x t).Steady s₀) → _ from fun hx => ?_) ?_; (on_goal 2 => unfold x; clear x; intro t ht; beta_reduce); clear_value x; revert x; intro _ _) | with_reducible (extract_lets +onlyGivenNames x; clear_value x; revert x; intro _) | with_reducible refine consultAll_steady _ _ _ ?_ | with_reducible refine consultAll_steadyE ?_ (by assumption) | with_reducible refine plotAccess_steady _ _ _ _ _ _ ?_ | with_reducible (dsimp only) | split)
theorem spillAt_steadyE {s : State} {j : Job} {l : LinkId} {n : Nat} {out : State} {res} (hs : s.Steady s₀) (heq : State.spillAt s j l n = (out, res)) : out.Steady s₀ := by
  have h := spillAt_steady s j l n hs; rw [heq] at h; exact h
theorem spillFault_steady (s : State) (x : Option (PartId × W16 × Loc)) (hs : s.Steady s₀) : (State.spillFault s x).Steady s₀ := by
  unfold State.spillFault; repeat' (first | with_reducible assumption | with_reducible refine partJobFault_steady _ _ _ _ ?_ | split)
theorem xferAt_steady (s : State) (j : Job) (y : Transfer) (r : Loc) (hs : s.Steady s₀) : (State.xferAt s j y r).1.Steady s₀ := by
  unfold State.xferAt; repeat' (first | with_reducible assumption | with_reducible (refine upd_steady _ ?_ .. ; with_reducible assumption) | with_reducible (extract_lets +onlyGivenNames x; refine (show x.Steady s₀ → _ from fun hx => ?_) ?_; (on_goal 2 => unfold x; clear x); clear_value x; revert x; intro _ _) | with_reducible (extract_lets +onlyGivenNames x; refine (show x.1.Steady s₀ → _ from fun hx => ?_) ?_; (on_goal 2 => unfold x; clear x); clear_value x; revert x; intro _ _) | with_reducible (extract_lets +onlyGivenNames x; refine (show x.2.Steady s₀ → _ from fun hx => ?_) ?_; (on_goal 2 => unfold x; clear x); clear_value x; revert x; intro _ _) | with_reducible (extract_lets +onlyGivenNames x; refine (show (∀ t : State, t.Steady s₀ → (x t).Steady s₀) → _ from fun hx => ?_) ?_; (on_goal 2 => unfold x; clear x; intro t ht; beta_reduce); clear_value x; revert x; intro _ _) | with_reducible (extract_lets +onlyGivenNames x; clear_value x; revert x; intro _) | with_reducible refine partJobFault_steady _ _ _ _ ?_ | with_reducible refine consultOne_steady _ _ _ _ ?_ | with_reducible refine consultOne_steadyE ?_ (by assumption) | with_reducible (dsimp only) | split)
theorem xferAt_steadyE {s : State} {j : Job} {y : Transfer} {r : Loc} {out : State} {res} (hs : s.Steady s₀) (heq : State.xferAt s j y r = (out, res)) : out.Steady s₀ := by
  have h := xferAt_steady s j y r hs; rw [heq] at h; exact h

/-! Machine/Landing.lean. -/

theorem modLandings_steady (s : State) (j : Job) (st : Fin 7) (f : List Landing → List Landing) (hs : s.Steady s₀) : (State.modLandings s j st f).Steady s₀ := by
  unfold State.modLandings; repeat' (first | with_reducible assumption | with_reducible (refine upd_steady _ ?_ .. ; with_reducible assumption) | with_reducible refine ite_steady ?_ ?_ | with_reducible refine modLink_steady _ _ _ ?_ | with_reducible refine modJob_steady _ _ _ ?_ | split)
theorem beginLanding_steady (s : State) (j : Job) (st : Fin 7) (t : W16) (o : Occurrence) (carried : BitVec 96) (hs : s.Steady s₀) :
    ∀ out, State.beginLanding s j st t o carried = some out → out.Steady s₀ := by
  intro out ht
  obtain ⟨u, hu, rfl⟩ := Option.map_eq_some_iff.mp ht
  exact modLandings_steady _ _ _ _ (takeArm_steady s j t hs u hu)
theorem beginLanding_steadyD (s : State) (j : Job) (st : Fin 7) (t : W16) (o : Occurrence) (carried : BitVec 96) (hs : s.Steady s₀) (dflt : State)
    (hd : dflt.Steady s₀) : ((State.beginLanding s j st t o carried).getD dflt).Steady s₀ := getD_steady (beginLanding_steady s j st t o carried hs) hd
theorem landFrame_steady (s : State) (j : Job) (st : Fin 7) (f : StoredFrame) (hs : s.Steady s₀) : (State.landFrame s j st f).Steady s₀ := by
  unfold State.landFrame; repeat' (first | with_reducible assumption | with_reducible (refine upd_steady _ ?_ .. ; with_reducible assumption) | with_reducible refine ite_steady ?_ ?_ | with_reducible refine ite_fst ?_ ?_ | with_reducible (extract_lets +onlyGivenNames x; refine (show x.Steady s₀ → _ from fun hx => ?_) ?_; (on_goal 2 => unfold x; clear x); clear_value x; revert x; intro _ _) | with_reducible (extract_lets +onlyGivenNames x; refine (show x.1.Steady s₀ → _ from fun hx => ?_) ?_; (on_goal 2 => unfold x; clear x); clear_value x; revert x; intro _ _) | with_reducible (extract_lets +onlyGivenNames x; refine (show x.2.Steady s₀ → _ from fun hx => ?_) ?_; (on_goal 2 => unfold x; clear x); clear_value x; revert x; intro _ _) | with_reducible (extract_lets +onlyGivenNames x; refine (show (∀ t : State, t.Steady s₀ → (x t).Steady s₀) → _ from fun hx => ?_) ?_; (on_goal 2 => unfold x; clear x; intro t ht; beta_reduce); clear_value x; revert x; intro _ _) | with_reducible (extract_lets +onlyGivenNames x; clear_value x; revert x; intro _) | with_reducible refine jobFault_steady _ _ _ _ ?_ | with_reducible refine store_steady _ _ _ _ ?_ | with_reducible refine store_steadyE ?_ (by assumption) | with_reducible refine postLanding_steady _ _ _ _ _ _ ?_ | with_reducible refine landingAt_steady _ _ _ _ _ _ _ _ ?_ | with_reducible refine landingAt_steadyE ?_ (by assumption) | with_reducible refine modLandings_steady _ _ _ _ ?_ | split)
theorem burstLeaves_steady (s : State) (b : RingBurst) (hs : s.Steady s₀) : (State.burstLeaves s b).Steady s₀ := by
  unfold State.burstLeaves; repeat' (first | with_reducible assumption | with_reducible refine sendDone_steady _ _ _ ?_ | split)
theorem ringWord_steady (s : State) (j : Job) (b : RingBurst) (err : Option EccErr) (hs : s.Steady s₀) : (State.ringWord s j b err).Steady s₀ := by
  unfold State.ringWord; repeat' (first | with_reducible assumption | with_reducible (refine upd_steady _ ?_ .. ; with_reducible assumption) | with_reducible refine ite_steady ?_ ?_ | with_reducible refine modInfield_steady _ _ ?_ | with_reducible refine logs_steady _ _ _ _ ?_ | split)
theorem ringLand_steady (s : State) (j : Job) (b : RingBurst) (hs : s.Steady s₀) : (State.ringLand s j b).Steady s₀ := by
  unfold State.ringLand; grind [jobFault_steady, postLanding_steady, takeArm_steady, beginLanding_steady, landFrame_steady, upd_steady, → State.Steady.sram, → State.Steady.host, → State.Steady.flash, → State.Steady.input, → State.Steady.time, → State.Steady.slots, → State.Steady.keys, → State.Steady.queue, → State.Steady.por, Mem.wf_set, Mem.wf_write, Mem.wf_writeAll, Mem.wf_zero]
theorem burstArrives_steady (s : State) (b : RingBurst) (hs : s.Steady s₀) : (State.burstArrives s b).Steady s₀ := by
  unfold State.burstArrives; repeat' (first | with_reducible assumption | with_reducible (refine upd_steady _ ?_ .. ; with_reducible assumption) | with_reducible refine ite_steady ?_ ?_ | with_reducible refine modLink_steady _ _ _ ?_ | with_reducible refine landFrame_steady _ _ _ _ ?_ | with_reducible refine ringLand_steady _ _ _ ?_ | split)
theorem burstFound_steady (s : State) (err : Option EccErr) (b : RingBurst) (hs : s.Steady s₀) : (State.burstFound s err b).Steady s₀ := by
  unfold State.burstFound; repeat' (first | with_reducible assumption | with_reducible refine ite_steady ?_ ?_ | with_reducible refine jobFault_steady _ _ _ _ ?_ | with_reducible refine ringWord_steady _ _ _ _ ?_ | with_reducible refine burstArrives_steady _ _ ?_ | split)
theorem orderTwo_steady (s : State) (src : Stop) (dst : Stop) (b : RingBurst) (hs : s.Steady s₀) : (State.orderTwo s src dst b).Steady s₀ := by
  unfold State.orderTwo; repeat' (first | with_reducible assumption | with_reducible refine ite_steady ?_ ?_ | with_reducible refine addUnit_steady _ _ ?_ | with_reducible refine burstLeaves_steady _ _ ?_ | with_reducible refine burstArrives_steady _ _ ?_ | with_reducible refine route_steady _ _ _ _ _ _ ?_ | split)
theorem holdFrame_steady (s : State) (l : LinkId) (j : Job) (kl : TableSet) (f : StoredFrame) (hs : s.Steady s₀) : (State.holdFrame s l j kl f).Steady s₀ := by
  unfold State.holdFrame; repeat' (first | with_reducible assumption | with_reducible (refine upd_steady _ ?_ .. ; with_reducible assumption) | with_reducible refine ite_steady ?_ ?_ | with_reducible (extract_lets +onlyGivenNames x; refine (show x.Steady s₀ → _ from fun hx => ?_) ?_; (on_goal 2 => unfold x; clear x); clear_value x; revert x; intro _ _) | with_reducible (extract_lets +onlyGivenNames x; refine (show x.1.Steady s₀ → _ from fun hx => ?_) ?_; (on_goal 2 => unfold x; clear x); clear_value x; revert x; intro _ _) | with_reducible (extract_lets +onlyGivenNames x; refine (show x.2.Steady s₀ → _ from fun hx => ?_) ?_; (on_goal 2 => unfold x; clear x); clear_value x; revert x; intro _ _) | with_reducible (extract_lets +onlyGivenNames x; refine (show (∀ t : State, t.Steady s₀ → (x t).Steady s₀) → _ from fun hx => ?_) ?_; (on_goal 2 => unfold x; clear x; intro t ht; beta_reduce); clear_value x; revert x; intro _ _) | with_reducible (extract_lets +onlyGivenNames x; clear_value x; revert x; intro _) | with_reducible refine getD_steady (fun _ _ => ?_) ?_ | with_reducible refine modLink_steady _ _ _ ?_ | with_reducible refine orderTwo_steady _ _ _ _ ?_ | split)

/-! Machine/Relay.lean. -/

theorem emit_steady (s : State) (l : LinkId) (b : FrameBody) (seq : Option W16) (replay : Bool) (hs : s.Steady s₀) : (State.emit s l b seq replay).Steady s₀ := by
  unfold State.emit; repeat' (first | with_reducible assumption | with_reducible (refine upd_steady _ ?_ .. ; with_reducible assumption) | with_reducible (extract_lets +onlyGivenNames x; refine (show x.Steady s₀ → _ from fun hx => ?_) ?_; (on_goal 2 => unfold x; clear x); clear_value x; revert x; intro _ _) | with_reducible (extract_lets +onlyGivenNames x; refine (show x.1.Steady s₀ → _ from fun hx => ?_) ?_; (on_goal 2 => unfold x; clear x); clear_value x; revert x; intro _ _) | with_reducible (extract_lets +onlyGivenNames x; refine (show x.2.Steady s₀ → _ from fun hx => ?_) ?_; (on_goal 2 => unfold x; clear x); clear_value x; revert x; intro _ _) | with_reducible (extract_lets +onlyGivenNames x; refine (show (∀ t : State, t.Steady s₀ → (x t).Steady s₀) → _ from fun hx => ?_) ?_; (on_goal 2 => unfold x; clear x; intro t ht; beta_reduce); clear_value x; revert x; intro _ _) | with_reducible (extract_lets +onlyGivenNames x; clear_value x; revert x; intro _) | with_reducible refine getD_steady (fun _ _ => ?_) ?_ | with_reducible refine modLink_steady _ _ _ ?_ | split)
theorem spillOldest_steady (s : State) (l : LinkId) (j : Job) (hs : s.Steady s₀) : (State.spillOldest s l j).1.Steady s₀ := by
  unfold State.spillOldest; repeat' (first | with_reducible assumption | with_reducible (refine upd_steady _ ?_ .. ; with_reducible assumption) | with_reducible (extract_lets +onlyGivenNames x; refine (show x.Steady s₀ → _ from fun hx => ?_) ?_; (on_goal 2 => unfold x; clear x); clear_value x; revert x; intro _ _) | with_reducible (extract_lets +onlyGivenNames x; refine (show x.1.Steady s₀ → _ from fun hx => ?_) ?_; (on_goal 2 => unfold x; clear x); clear_value x; revert x; intro _ _) | with_reducible (extract_lets +onlyGivenNames x; refine (show x.2.Steady s₀ → _ from fun hx => ?_) ?_; (on_goal 2 => unfold x; clear x); clear_value x; revert x; intro _ _) | with_reducible (extract_lets +onlyGivenNames x; refine (show (∀ t : State, t.Steady s₀ → (x t).Steady s₀) → _ from fun hx => ?_) ?_; (on_goal 2 => unfold x; clear x; intro t ht; beta_reduce); clear_value x; revert x; intro _ _) | with_reducible (extract_lets +onlyGivenNames x; clear_value x; revert x; intro _) | with_reducible refine modLink_steady _ _ _ ?_ | with_reducible refine draw_steady _ ?_ | with_reducible refine draw_steadyE ?_ (by assumption) | with_reducible refine store_steady _ _ _ _ ?_ | with_reducible refine store_steadyE ?_ (by assumption) | with_reducible refine spillAt_steady _ _ _ _ ?_ | with_reducible refine spillAt_steadyE ?_ (by assumption) | with_reducible refine spillFault_steady _ _ ?_ | with_reducible (dsimp only) | split)
theorem spillOldest_steadyE {s : State} {l : LinkId} {j : Job} {out : State} {res} (hs : s.Steady s₀) (heq : State.spillOldest s l j = (out, res)) : out.Steady s₀ := by
  have h := spillOldest_steady s l j hs; rw [heq] at h; exact h
theorem makeRoom_steady (s : State) (l : LinkId) (hs : s.Steady s₀) : (State.makeRoom s l).1.Steady s₀ := by
  unfold State.makeRoom; repeat' (first | with_reducible assumption | with_reducible refine ite_steady ?_ ?_ | with_reducible refine ite_fst ?_ ?_ | with_reducible refine spillOldest_steady _ _ _ ?_ | with_reducible refine spillOldest_steadyE ?_ (by assumption) | with_reducible (dsimp only) | split)
theorem makeRoom_steadyE {s : State} {l : LinkId} {out : State} {res} (hs : s.Steady s₀) (heq : State.makeRoom s l = (out, res)) : out.Steady s₀ := by
  have h := makeRoom_steady s l hs; rw [heq] at h; exact h
theorem sendStored_steady (s : State) (l : LinkId) (b : FrameBody) (hs : s.Steady s₀) : (State.sendStored s l b).Steady s₀ := by
  unfold State.sendStored; repeat' (first | with_reducible assumption | with_reducible (refine upd_steady _ ?_ .. ; with_reducible assumption) | with_reducible (extract_lets +onlyGivenNames x; refine (show x.Steady s₀ → _ from fun hx => ?_) ?_; (on_goal 2 => unfold x; clear x); clear_value x; revert x; intro _ _) | with_reducible (extract_lets +onlyGivenNames x; refine (show x.1.Steady s₀ → _ from fun hx => ?_) ?_; (on_goal 2 => unfold x; clear x); clear_value x; revert x; intro _ _) | with_reducible (extract_lets +onlyGivenNames x; refine (show x.2.Steady s₀ → _ from fun hx => ?_) ?_; (on_goal 2 => unfold x; clear x); clear_value x; revert x; intro _ _) | with_reducible (extract_lets +onlyGivenNames x; refine (show (∀ t : State, t.Steady s₀ → (x t).Steady s₀) → _ from fun hx => ?_) ?_; (on_goal 2 => unfold x; clear x; intro t ht; beta_reduce); clear_value x; revert x; intro _ _) | with_reducible (extract_lets +onlyGivenNames x; clear_value x; revert x; intro _) | with_reducible refine modLink_steady _ _ _ ?_ | with_reducible refine emit_steady _ _ _ _ _ ?_ | split)
theorem sendBurst_steady (s : State) (l : LinkId) (b : FrameBody) (hs : s.Steady s₀) : (State.sendBurst s l b).1.Steady s₀ := by
  unfold State.sendBurst; repeat' (first | with_reducible assumption | with_reducible refine ite_steady ?_ ?_ | with_reducible refine ite_fst ?_ ?_ | with_reducible refine linkDown_steady _ _ _ ?_ | with_reducible refine makeRoom_steady _ _ ?_ | with_reducible refine makeRoom_steadyE ?_ (by assumption) | with_reducible refine sendStored_steady _ _ _ ?_ | with_reducible (dsimp only) | split)
theorem sendBurst_steadyE {s : State} {l : LinkId} {b : FrameBody} {out : State} {res} (hs : s.Steady s₀) (heq : State.sendBurst s l b = (out, res)) : out.Steady s₀ := by
  have h := sendBurst_steady s l b hs; rw [heq] at h; exact h
theorem replayBody_steady (s : State) (l : LinkId) (e : ReplayEntry) (hs : s.Steady s₀) : (State.replayBody s l e).1.Steady s₀ := by
  unfold State.replayBody; repeat' (first | with_reducible assumption | with_reducible refine fetchBytes_steady _ _ _ _ ?_ | with_reducible refine fetchBytes_steadyE ?_ (by assumption) | with_reducible refine spillAt_steady _ _ _ _ ?_ | with_reducible refine spillAt_steadyE ?_ (by assumption) | with_reducible refine spillFault_steady _ _ ?_ | with_reducible (dsimp only) | split)
theorem replayBody_steadyE {s : State} {l : LinkId} {e : ReplayEntry} {out : State} {res} (hs : s.Steady s₀) (heq : State.replayBody s l e = (out, res)) : out.Steady s₀ := by
  have h := replayBody_steady s l e hs; rw [heq] at h; exact h
theorem sendReplay_steady (s : State) (l : LinkId) (hs : s.Steady s₀) : (State.sendReplay s l).Steady s₀ := by
  unfold State.sendReplay; repeat' (first | with_reducible assumption | with_reducible (refine upd_steady _ ?_ .. ; with_reducible assumption) | with_reducible (extract_lets +onlyGivenNames x; refine (show x.Steady s₀ → _ from fun hx => ?_) ?_; (on_goal 2 => unfold x; clear x); clear_value x; revert x; intro _ _) | with_reducible (extract_lets +onlyGivenNames x; refine (show x.1.Steady s₀ → _ from fun hx => ?_) ?_; (on_goal 2 => unfold x; clear x); clear_value x; revert x; intro _ _) | with_reducible (extract_lets +onlyGivenNames x; refine (show x.2.Steady s₀ → _ from fun hx => ?_) ?_; (on_goal 2 => unfold x; clear x); clear_value x; revert x; intro _ _) | with_reducible (extract_lets +onlyGivenNames x; refine (show (∀ t : State, t.Steady s₀ → (x t).Steady s₀) → _ from fun hx => ?_) ?_; (on_goal 2 => unfold x; clear x; intro t ht; beta_reduce); clear_value x; revert x; intro _ _) | with_reducible (extract_lets +onlyGivenNames x; clear_value x; revert x; intro _) | with_reducible refine modLink_steady _ _ _ ?_ | with_reducible refine logRate_steady _ _ _ _ _ ?_ | with_reducible refine emit_steady _ _ _ _ _ ?_ | with_reducible refine replayBody_steady _ _ _ ?_ | with_reducible refine replayBody_steadyE ?_ (by assumption) | split)
theorem sendNull_steady (s : State) (l : LinkId) (hs : s.Steady s₀) : (State.sendNull s l).Steady s₀ := by
  unfold State.sendNull; repeat' (first | with_reducible assumption | with_reducible refine emit_steady _ _ _ _ _ ?_ | split)
theorem burstBytes_steady (s : State) (l : Nat) (j : Job) (t : Transfer) (k : Nat) (hs : s.Steady s₀) : (State.burstBytes s l j t k).1.Steady s₀ := by
  unfold State.burstBytes; repeat' (first | with_reducible assumption | with_reducible (refine upd_steady _ ?_ .. ; with_reducible assumption) | with_reducible (extract_lets +onlyGivenNames x; refine (show x.Steady s₀ → _ from fun hx => ?_) ?_; (on_goal 2 => unfold x; clear x); clear_value x; revert x; intro _ _) | with_reducible (extract_lets +onlyGivenNames x; refine (show x.1.Steady s₀ → _ from fun hx => ?_) ?_; (on_goal 2 => unfold x; clear x); clear_value x; revert x; intro _ _) | with_reducible (extract_lets +onlyGivenNames x; refine (show x.2.Steady s₀ → _ from fun hx => ?_) ?_; (on_goal 2 => unfold x; clear x); clear_value x; revert x; intro _ _) | with_reducible (extract_lets +onlyGivenNames x; refine (show (∀ t : State, t.Steady s₀ → (x t).Steady s₀) → _ from fun hx => ?_) ?_; (on_goal 2 => unfold x; clear x; intro t ht; beta_reduce); clear_value x; revert x; intro _ _) | with_reducible (extract_lets +onlyGivenNames x; clear_value x; revert x; intro _) | with_reducible refine fetchBytes_steady _ _ _ _ ?_ | with_reducible refine fetchBytes_steadyE ?_ (by assumption) | with_reducible refine xferAt_steady _ _ _ _ ?_ | with_reducible refine xferAt_steadyE ?_ (by assumption) | with_reducible (dsimp only) | split)
theorem burstBytes_steadyE {s : State} {l : Nat} {j : Job} {t : Transfer} {k : Nat} {out : State} {res} (hs : s.Steady s₀) (heq : State.burstBytes s l j t k = (out, res)) : out.Steady s₀ := by
  have h := burstBytes_steady s l j t k hs; rw [heq] at h; exact h
theorem sample_steady (s : State) (l : LinkId) (j : Job) (k : TableSet) (x : LapSpan) (first : Nat) (g : W32) (hs : s.Steady s₀) : (State.sample s l j k x first g).Steady s₀ := by
  unfold State.sample; repeat' (first | with_reducible assumption | with_reducible (refine upd_steady _ ?_ .. ; with_reducible assumption) | with_reducible refine ite_steady ?_ ?_ | with_reducible (extract_lets +onlyGivenNames x; refine (show x.Steady s₀ → _ from fun hx => ?_) ?_; (on_goal 2 => unfold x; clear x); clear_value x; revert x; intro _ _) | with_reducible (extract_lets +onlyGivenNames x; refine (show x.1.Steady s₀ → _ from fun hx => ?_) ?_; (on_goal 2 => unfold x; clear x); clear_value x; revert x; intro _ _) | with_reducible (extract_lets +onlyGivenNames x; refine (show x.2.Steady s₀ → _ from fun hx => ?_) ?_; (on_goal 2 => unfold x; clear x); clear_value x; revert x; intro _ _) | with_reducible (extract_lets +onlyGivenNames x; refine (show (∀ t : State, t.Steady s₀ → (x t).Steady s₀) → _ from fun hx => ?_) ?_; (on_goal 2 => unfold x; clear x; intro t ht; beta_reduce); clear_value x; revert x; intro _ _) | with_reducible (extract_lets +onlyGivenNames x; clear_value x; revert x; intro _) | with_reducible refine modLink_steady _ _ _ ?_ | with_reducible refine logAt_steady _ _ _ _ ?_ | with_reducible refine raiseSlip_steady _ _ _ _ ?_ | with_reducible refine present_steady _ _ _ _ ?_ | split)
theorem execBatonSample_steady (l : LinkId) (s : State) (hs : s.Steady s₀) : ∀ out, execBatonSample l s = .next out → out.Steady s₀ := by
  intro out ht; unfold execBatonSample at ht; (try injection ht with ht); subst ht; repeat' (first | with_reducible assumption | with_reducible refine ite_steady ?_ ?_ | with_reducible (extract_lets +onlyGivenNames x; refine (show x.Steady s₀ → _ from fun hx => ?_) ?_; (on_goal 2 => unfold x; clear x); clear_value x; revert x; intro _ _) | with_reducible (extract_lets +onlyGivenNames x; refine (show x.1.Steady s₀ → _ from fun hx => ?_) ?_; (on_goal 2 => unfold x; clear x); clear_value x; revert x; intro _ _) | with_reducible (extract_lets +onlyGivenNames x; refine (show x.2.Steady s₀ → _ from fun hx => ?_) ?_; (on_goal 2 => unfold x; clear x); clear_value x; revert x; intro _ _) | with_reducible (extract_lets +onlyGivenNames x; refine (show (∀ t : State, t.Steady s₀ → (x t).Steady s₀) → _ from fun hx => ?_) ?_; (on_goal 2 => unfold x; clear x; intro t ht; beta_reduce); clear_value x; revert x; intro _ _) | with_reducible (extract_lets +onlyGivenNames x; clear_value x; revert x; intro _) | with_reducible refine readTables_steady _ _ _ _ _ _ ?_ | with_reducible refine readTables_steadyE ?_ (by assumption) | with_reducible refine sample_steady _ _ _ _ _ _ _ ?_ | split)
theorem sendBurstSlot_steady (s : State) (l : LinkId) (j : Job) (k : TableSet) (x : LapSpan) (first : Nat) (g : W32) (index : Nat) (hs : s.Steady s₀) : (State.sendBurstSlot s l j k x first g index).Steady s₀ := by
  unfold State.sendBurstSlot; repeat' (first | with_reducible assumption | with_reducible (extract_lets +onlyGivenNames x; refine (show x.Steady s₀ → _ from fun hx => ?_) ?_; (on_goal 2 => unfold x; clear x); clear_value x; revert x; intro _ _) | with_reducible (extract_lets +onlyGivenNames x; refine (show (∀ t : State, t.Steady s₀ → (x t).Steady s₀) → _ from fun hx => ?_) ?_; (on_goal 2 => unfold x; clear x; intro t ht; beta_reduce); clear_value x; revert x; intro _ _) | with_reducible (extract_lets +onlyGivenNames x; clear_value x; revert x; intro _) | with_reducible refine (‹∀ t : State, t.Steady s₀ → (_ : State).Steady s₀›) _ ?_ | with_reducible refine ite_steady ?_ ?_ | with_reducible refine burstBytes_steadyE ?_ (by assumption) | with_reducible refine modLink_steady _ _ _ ?_ | with_reducible refine sample_steady _ _ _ _ _ _ _ ?_ | with_reducible refine sendBurst_steadyE ?_ (by assumption) | with_reducible refine sendDone_steady _ _ _ ?_ | split)
theorem sendDeferred_steady (s : State) (l : LinkId) (j : Job) (hs : s.Steady s₀) : (State.sendDeferred s l j).Steady s₀ := by
  unfold State.sendDeferred; dsimp only; (repeat' split) <;> grind [modLink_steady, sendDone_steady, readTables_steady, sendBurst_steady, upd_steady, → State.Steady.sram, → State.Steady.host, → State.Steady.flash, → State.Steady.input, → State.Steady.time, → State.Steady.slots, → State.Steady.keys, → State.Steady.queue, → State.Steady.por, Mem.wf_set, Mem.wf_write, Mem.wf_writeAll, Mem.wf_zero]
theorem sendCells_steady (s : State) (l : LinkId) (job : Option (Job × LapSpan × Nat)) (hs : s.Steady s₀) : (State.sendCells s l job).Steady s₀ := by
  unfold State.sendCells; repeat' (first | with_reducible assumption | with_reducible (refine upd_steady _ ?_ .. ; with_reducible assumption) | with_reducible refine ite_steady ?_ ?_ | with_reducible refine ite_fst ?_ ?_ | with_reducible (extract_lets +onlyGivenNames x; refine (show x.Steady s₀ → _ from fun hx => ?_) ?_; (on_goal 2 => unfold x; clear x); clear_value x; revert x; intro _ _) | with_reducible (extract_lets +onlyGivenNames x; refine (show x.1.Steady s₀ → _ from fun hx => ?_) ?_; (on_goal 2 => unfold x; clear x); clear_value x; revert x; intro _ _) | with_reducible (extract_lets +onlyGivenNames x; refine (show x.2.Steady s₀ → _ from fun hx => ?_) ?_; (on_goal 2 => unfold x; clear x); clear_value x; revert x; intro _ _) | with_reducible (extract_lets +onlyGivenNames x; refine (show (∀ t : State, t.Steady s₀ → (x t).Steady s₀) → _ from fun hx => ?_) ?_; (on_goal 2 => unfold x; clear x; intro t ht; beta_reduce); clear_value x; revert x; intro _ _) | with_reducible (extract_lets +onlyGivenNames x; clear_value x; revert x; intro _) | with_reducible refine foldl_steady _ _ _ ?_ (fun _ _ _ => ?_) | with_reducible refine modLink_steady _ _ _ ?_ | with_reducible refine modInfield_steady _ _ ?_ | with_reducible refine unitLeaves_steady _ _ ?_ | with_reducible refine meetUnit_steady _ _ ?_ | with_reducible refine makeRoom_steady _ _ ?_ | with_reducible refine makeRoom_steadyE ?_ (by assumption) | with_reducible refine sendStored_steady _ _ _ ?_ | with_reducible refine sendNull_steady _ _ ?_ | split)
theorem sendBacklog_steady (s : State) (l : LinkId) (j : Option Job) (hs : s.Steady s₀) : ∀ out, State.sendBacklog s l j = some out → out.Steady s₀ := by
  intro out ht; unfold State.sendBacklog at ht; grind [sendReplay_steady, sendDeferred_steady, upd_steady, → State.Steady.sram, → State.Steady.host, → State.Steady.flash, → State.Steady.input, → State.Steady.time, → State.Steady.slots, → State.Steady.keys, → State.Steady.queue, → State.Steady.por, Mem.wf_set, Mem.wf_write, Mem.wf_writeAll, Mem.wf_zero]
theorem sendBacklog_steadyD (s : State) (l : LinkId) (j : Option Job) (hs : s.Steady s₀) (dflt : State) (hd : dflt.Steady s₀) : ((State.sendBacklog s l j).getD dflt).Steady s₀ := getD_steady (sendBacklog_steady s l j hs) hd
theorem exhaust_steady (s : State) (l : LinkId) (j : Job) (set : Option TableSet) (x : LapSpan) (slot : Nat) (hs : s.Steady s₀) : (State.exhaust s l j set x slot).Steady s₀ := by
  unfold State.exhaust; repeat' (first | with_reducible assumption | with_reducible (refine upd_steady _ ?_ .. ; with_reducible assumption) | with_reducible refine ite_steady ?_ ?_ | with_reducible (extract_lets +onlyGivenNames x; refine (show x.Steady s₀ → _ from fun hx => ?_) ?_; (on_goal 2 => unfold x; clear x); clear_value x; revert x; intro _ _) | with_reducible (extract_lets +onlyGivenNames x; refine (show x.1.Steady s₀ → _ from fun hx => ?_) ?_; (on_goal 2 => unfold x; clear x); clear_value x; revert x; intro _ _) | with_reducible (extract_lets +onlyGivenNames x; refine (show x.2.Steady s₀ → _ from fun hx => ?_) ?_; (on_goal 2 => unfold x; clear x); clear_value x; revert x; intro _ _) | with_reducible (extract_lets +onlyGivenNames x; refine (show (∀ t : State, t.Steady s₀ → (x t).Steady s₀) → _ from fun hx => ?_) ?_; (on_goal 2 => unfold x; clear x; intro t ht; beta_reduce); clear_value x; revert x; intro _ _) | with_reducible (extract_lets +onlyGivenNames x; clear_value x; revert x; intro _) | with_reducible refine modLink_steady _ _ _ ?_ | with_reducible refine logAt_steady _ _ _ _ ?_ | with_reducible refine raiseSlip_steady _ _ _ _ ?_ | split)
theorem spareSlot_steady (s : State) (l : LinkId) (j : Job) (set : Option TableSet) (x : LapSpan) (slot : Nat) (hs : s.Steady s₀) : (State.spareSlot s l j set x slot).Steady s₀ := by
  unfold State.spareSlot; repeat' (first | with_reducible assumption | with_reducible (refine upd_steady _ ?_ .. ; with_reducible assumption) | with_reducible (extract_lets +onlyGivenNames x; refine (show x.Steady s₀ → _ from fun hx => ?_) ?_; (on_goal 2 => unfold x; clear x); clear_value x; revert x; intro _ _) | with_reducible (extract_lets +onlyGivenNames x; refine (show x.1.Steady s₀ → _ from fun hx => ?_) ?_; (on_goal 2 => unfold x; clear x); clear_value x; revert x; intro _ _) | with_reducible (extract_lets +onlyGivenNames x; refine (show x.2.Steady s₀ → _ from fun hx => ?_) ?_; (on_goal 2 => unfold x; clear x); clear_value x; revert x; intro _ _) | with_reducible (extract_lets +onlyGivenNames x; refine (show (∀ t : State, t.Steady s₀ → (x t).Steady s₀) → _ from fun hx => ?_) ?_; (on_goal 2 => unfold x; clear x; intro t ht; beta_reduce); clear_value x; revert x; intro _ _) | with_reducible (extract_lets +onlyGivenNames x; clear_value x; revert x; intro _) | with_reducible refine modLink_steady _ _ _ ?_ | with_reducible refine sendNull_steady _ _ ?_ | with_reducible refine sendBacklog_steady _ _ _ ?_ _ (by assumption) | with_reducible refine sendBacklog_steadyD _ _ _ ?_ _ ?_ | with_reducible refine exhaust_steady _ _ _ _ _ _ ?_ | split)
theorem freeSlot_steady (s : State) (l : LinkId) (j : Option Job) (hs : s.Steady s₀) : (State.freeSlot s l j).Steady s₀ := by
  unfold State.freeSlot; repeat' (first | with_reducible assumption | with_reducible refine sendCells_steady _ _ _ ?_ | with_reducible refine sendBacklog_steady _ _ _ ?_ _ (by assumption) | with_reducible refine sendBacklog_steadyD _ _ _ ?_ _ ?_ | split)
theorem execSlotSend_steady (l : LinkId) (s : State) (hs : s.Steady s₀) : ∀ out, execSlotSend l s = .next out → out.Steady s₀ := by
  intro out ht; unfold execSlotSend at ht; (try injection ht with ht); subst ht; repeat' (first | with_reducible assumption | with_reducible refine ite_steady ?_ ?_ | with_reducible refine ite_fst ?_ ?_ | with_reducible (extract_lets +onlyGivenNames x; refine (show x.Steady s₀ → _ from fun hx => ?_) ?_; (on_goal 2 => unfold x; clear x); clear_value x; revert x; intro _ _) | with_reducible (extract_lets +onlyGivenNames x; refine (show x.1.Steady s₀ → _ from fun hx => ?_) ?_; (on_goal 2 => unfold x; clear x); clear_value x; revert x; intro _ _) | with_reducible (extract_lets +onlyGivenNames x; refine (show x.2.Steady s₀ → _ from fun hx => ?_) ?_; (on_goal 2 => unfold x; clear x); clear_value x; revert x; intro _ _) | with_reducible (extract_lets +onlyGivenNames x; refine (show (∀ t : State, t.Steady s₀ → (x t).Steady s₀) → _ from fun hx => ?_) ?_; (on_goal 2 => unfold x; clear x; intro t ht; beta_reduce); clear_value x; revert x; intro _ _) | with_reducible (extract_lets +onlyGivenNames x; clear_value x; revert x; intro _) | with_reducible refine readTables_steady _ _ _ _ _ _ ?_ | with_reducible refine readTables_steadyE ?_ (by assumption) | with_reducible refine sendNull_steady _ _ ?_ | with_reducible refine sendBurstSlot_steady _ _ _ _ _ _ _ _ ?_ | with_reducible refine sendCells_steady _ _ _ ?_ | with_reducible refine spareSlot_steady _ _ _ _ _ _ ?_ | with_reducible refine freeSlot_steady _ _ _ ?_ | split)
theorem execDeferredSend_steady (l : LinkId) (s : State) (hs : s.Steady s₀) : ∀ out, execDeferredSend l s = .next out → out.Steady s₀ := by
  intro out ht; unfold execDeferredSend at ht; (try injection ht with ht); subst ht; repeat' (first | with_reducible assumption | with_reducible (refine upd_steady _ ?_ .. ; with_reducible assumption) | with_reducible refine ite_steady ?_ ?_ | with_reducible refine ite_fst ?_ ?_ | with_reducible (extract_lets +onlyGivenNames x; refine (show x.Steady s₀ → _ from fun hx => ?_) ?_; (on_goal 2 => unfold x; clear x); clear_value x; revert x; intro _ _) | with_reducible (extract_lets +onlyGivenNames x; refine (show x.1.Steady s₀ → _ from fun hx => ?_) ?_; (on_goal 2 => unfold x; clear x); clear_value x; revert x; intro _ _) | with_reducible (extract_lets +onlyGivenNames x; refine (show x.2.Steady s₀ → _ from fun hx => ?_) ?_; (on_goal 2 => unfold x; clear x); clear_value x; revert x; intro _ _) | with_reducible (extract_lets +onlyGivenNames x; refine (show (∀ t : State, t.Steady s₀ → (x t).Steady s₀) → _ from fun hx => ?_) ?_; (on_goal 2 => unfold x; clear x; intro t ht; beta_reduce); clear_value x; revert x; intro _ _) | with_reducible (extract_lets +onlyGivenNames x; clear_value x; revert x; intro _) | with_reducible refine modLink_steady _ _ _ ?_ | with_reducible refine sendDeferred_steady _ _ _ ?_ | split)
theorem cellIn_steady (s : State) (l : LinkId) (c : Cell) (hs : s.Steady s₀) : (State.cellIn s l c).Steady s₀ := by
  unfold State.cellIn; repeat' (first | with_reducible assumption | with_reducible (refine upd_steady _ ?_ .. ; with_reducible assumption) | with_reducible refine ite_steady ?_ ?_ | with_reducible (extract_lets +onlyGivenNames x; refine (show x.Steady s₀ → _ from fun hx => ?_) ?_; (on_goal 2 => unfold x; clear x); clear_value x; revert x; intro _ _) | with_reducible (extract_lets +onlyGivenNames x; refine (show x.1.Steady s₀ → _ from fun hx => ?_) ?_; (on_goal 2 => unfold x; clear x); clear_value x; revert x; intro _ _) | with_reducible (extract_lets +onlyGivenNames x; refine (show x.2.Steady s₀ → _ from fun hx => ?_) ?_; (on_goal 2 => unfold x; clear x); clear_value x; revert x; intro _ _) | with_reducible (extract_lets +onlyGivenNames x; refine (show (∀ t : State, t.Steady s₀ → (x t).Steady s₀) → _ from fun hx => ?_) ?_; (on_goal 2 => unfold x; clear x; intro t ht; beta_reduce); clear_value x; revert x; intro _ _) | with_reducible (extract_lets +onlyGivenNames x; clear_value x; revert x; intro _) | with_reducible refine modLink_steady _ _ _ ?_ | with_reducible refine logRate_steady _ _ _ _ _ ?_ | with_reducible refine freeBuffer_steady _ _ _ ?_ | with_reducible refine routeCell_steady _ _ _ _ ?_ | split)
theorem cellsGone_steady (s : State) (l : LinkId) (b : FrameBody) (hs : s.Steady s₀) : (State.cellsGone s l b).Steady s₀ := by
  unfold State.cellsGone; repeat' (first | with_reducible assumption | with_reducible (refine upd_steady _ ?_ .. ; with_reducible assumption) | with_reducible refine ite_steady ?_ ?_ | with_reducible refine foldl_steady _ _ _ ?_ (fun _ _ _ => ?_) | with_reducible refine modLink_steady _ _ _ ?_ | split)
theorem cellsIn_steady (s : State) (l : LinkId) (b : FrameBody) (hs : s.Steady s₀) : (State.cellsIn s l b).Steady s₀ := by
  unfold State.cellsIn; repeat' (first | with_reducible assumption | with_reducible refine ite_steady ?_ ?_ | with_reducible refine foldl_steady _ _ _ ?_ (fun _ _ _ => ?_) | with_reducible refine cellIn_steady _ _ _ ?_ | split)
theorem land_steady (s : State) (l : LinkId) (j : Job) (k : TableSet) (y : Transfer) (x : LapSpan) (first : Nat) (g : W32) (b : FrameBody) (hs : s.Steady s₀) : (State.land s l j k y x first g b).Steady s₀ := by
  unfold State.land; grind [jobFault_steady, postLanding_steady, takeArm_steady, modLandings_steady, beginLanding_steady, holdFrame_steady, upd_steady, → State.Steady.sram, → State.Steady.host, → State.Steady.flash, → State.Steady.input, → State.Steady.time, → State.Steady.slots, → State.Steady.keys, → State.Steady.queue, → State.Steady.por, Mem.wf_set, Mem.wf_write, Mem.wf_writeAll, Mem.wf_zero]
theorem planFrame_steady (s : State) (l : LinkId) (j : Job) (c : Nat) (b : FrameBody) (replay : Bool) (hs : s.Steady s₀) : (State.planFrame s l j c b replay).Steady s₀ := by
  unfold State.planFrame; repeat' (first | with_reducible assumption | with_reducible refine ite_steady ?_ ?_ | with_reducible refine ite_fst ?_ ?_ | with_reducible (extract_lets +onlyGivenNames x; refine (show x.Steady s₀ → _ from fun hx => ?_) ?_; (on_goal 2 => unfold x; clear x); clear_value x; revert x; intro _ _) | with_reducible (extract_lets +onlyGivenNames x; refine (show x.1.Steady s₀ → _ from fun hx => ?_) ?_; (on_goal 2 => unfold x; clear x); clear_value x; revert x; intro _ _) | with_reducible (extract_lets +onlyGivenNames x; refine (show x.2.Steady s₀ → _ from fun hx => ?_) ?_; (on_goal 2 => unfold x; clear x); clear_value x; revert x; intro _ _) | with_reducible (extract_lets +onlyGivenNames x; refine (show (∀ t : State, t.Steady s₀ → (x t).Steady s₀) → _ from fun hx => ?_) ?_; (on_goal 2 => unfold x; clear x; intro t ht; beta_reduce); clear_value x; revert x; intro _ _) | with_reducible (extract_lets +onlyGivenNames x; clear_value x; revert x; intro _) | with_reducible refine jobFault_steady _ _ _ _ ?_ | with_reducible refine readTables_steady _ _ _ _ _ _ ?_ | with_reducible refine readTables_steadyE ?_ (by assumption) | with_reducible refine cellsGone_steady _ _ _ ?_ | with_reducible refine cellsIn_steady _ _ _ ?_ | with_reducible refine land_steady _ _ _ _ _ _ _ _ _ ?_ | split)
theorem bodyIn_steady (s : State) (l : LinkId) (c : Nat) (b : FrameBody) (replay : Bool) (hs : s.Steady s₀) : (State.bodyIn s l c b replay).Steady s₀ := by
  unfold State.bodyIn; grind [modLink_steady, logRateAt_steady, cellsGone_steady, cellsIn_steady, planFrame_steady, upd_steady, → State.Steady.sram, → State.Steady.host, → State.Steady.flash, → State.Steady.input, → State.Steady.time, → State.Steady.slots, → State.Steady.keys, → State.Steady.queue, → State.Steady.por, Mem.wf_set, Mem.wf_write, Mem.wf_writeAll, Mem.wf_zero]
theorem ackIn_steady (s : State) (l : LinkId) (f : FrameParts) (hs : s.Steady s₀) : (State.ackIn s l f).1.Steady s₀ := by
  unfold State.ackIn; repeat' (first | with_reducible assumption | with_reducible (refine upd_steady _ ?_ .. ; with_reducible assumption) | with_reducible refine ite_steady ?_ ?_ | with_reducible refine ite_fst ?_ ?_ | with_reducible (extract_lets +onlyGivenNames x; refine (show x.Steady s₀ → _ from fun hx => ?_) ?_; (on_goal 2 => unfold x; clear x); clear_value x; revert x; intro _ _) | with_reducible (extract_lets +onlyGivenNames x; refine (show x.1.Steady s₀ → _ from fun hx => ?_) ?_; (on_goal 2 => unfold x; clear x); clear_value x; revert x; intro _ _) | with_reducible (extract_lets +onlyGivenNames x; refine (show x.2.Steady s₀ → _ from fun hx => ?_) ?_; (on_goal 2 => unfold x; clear x); clear_value x; revert x; intro _ _) | with_reducible (extract_lets +onlyGivenNames x; refine (show (∀ t : State, t.Steady s₀ → (x t).Steady s₀) → _ from fun hx => ?_) ?_; (on_goal 2 => unfold x; clear x; intro t ht; beta_reduce); clear_value x; revert x; intro _ _) | with_reducible (extract_lets +onlyGivenNames x; clear_value x; revert x; intro _) | with_reducible refine modLink_steady _ _ _ ?_ | with_reducible refine linkDown_steady _ _ _ ?_ | with_reducible (dsimp only) | split)
theorem ackIn_steadyE {s : State} {l : LinkId} {f : FrameParts} {out : State} {res} (hs : s.Steady s₀) (heq : State.ackIn s l f = (out, res)) : out.Steady s₀ := by
  have h := ackIn_steady s l f hs; rw [heq] at h; exact h
theorem announceSwap_steady (s : State) (l : LinkId) (n : Fin 16) (kind : LaneFault) (hs : s.Steady s₀) : (State.announceSwap s l n kind).Steady s₀ := by
  unfold State.announceSwap; repeat' (first | with_reducible assumption | with_reducible (refine upd_steady _ ?_ .. ; with_reducible assumption) | with_reducible refine ite_steady ?_ ?_ | with_reducible (extract_lets +onlyGivenNames x; refine (show x.Steady s₀ → _ from fun hx => ?_) ?_; (on_goal 2 => unfold x; clear x); clear_value x; revert x; intro _ _) | with_reducible (extract_lets +onlyGivenNames x; refine (show x.1.Steady s₀ → _ from fun hx => ?_) ?_; (on_goal 2 => unfold x; clear x); clear_value x; revert x; intro _ _) | with_reducible (extract_lets +onlyGivenNames x; refine (show x.2.Steady s₀ → _ from fun hx => ?_) ?_; (on_goal 2 => unfold x; clear x); clear_value x; revert x; intro _ _) | with_reducible (extract_lets +onlyGivenNames x; refine (show (∀ t : State, t.Steady s₀ → (x t).Steady s₀) → _ from fun hx => ?_) ?_; (on_goal 2 => unfold x; clear x; intro t ht; beta_reduce); clear_value x; revert x; intro _ _) | with_reducible (extract_lets +onlyGivenNames x; clear_value x; revert x; intro _) | with_reducible refine modLink_steady _ _ _ ?_ | with_reducible refine linkDown_steady _ _ _ ?_ | split)
theorem swapIn_steady (s : State) (l : LinkId) (f : FrameParts) (hs : s.Steady s₀) : (State.swapIn s l f).Steady s₀ := by
  unfold State.swapIn; repeat' (first | with_reducible assumption | with_reducible (refine upd_steady _ ?_ .. ; with_reducible assumption) | with_reducible refine ite_steady ?_ ?_ | with_reducible (extract_lets +onlyGivenNames x; refine (show x.Steady s₀ → _ from fun hx => ?_) ?_; (on_goal 2 => unfold x; clear x); clear_value x; revert x; intro _ _) | with_reducible (extract_lets +onlyGivenNames x; refine (show x.1.Steady s₀ → _ from fun hx => ?_) ?_; (on_goal 2 => unfold x; clear x); clear_value x; revert x; intro _ _) | with_reducible (extract_lets +onlyGivenNames x; refine (show x.2.Steady s₀ → _ from fun hx => ?_) ?_; (on_goal 2 => unfold x; clear x); clear_value x; revert x; intro _ _) | with_reducible (extract_lets +onlyGivenNames x; refine (show (∀ t : State, t.Steady s₀ → (x t).Steady s₀) → _ from fun hx => ?_) ?_; (on_goal 2 => unfold x; clear x; intro t ht; beta_reduce); clear_value x; revert x; intro _ _) | with_reducible (extract_lets +onlyGivenNames x; clear_value x; revert x; intro _) | with_reducible refine modLink_steady _ _ _ ?_ | with_reducible refine announceSwap_steady _ _ _ _ ?_ | split)
theorem paceIn_steady (s : State) (l : LinkId) (f : FrameParts) (phase : BitVec 16) (hs : s.Steady s₀) : (State.paceIn s l f phase).Steady s₀ := by
  unfold State.paceIn; repeat' (first | with_reducible assumption | with_reducible (refine upd_steady _ ?_ .. ; with_reducible assumption) | with_reducible refine ite_steady ?_ ?_ | with_reducible (extract_lets +onlyGivenNames x; refine (show x.Steady s₀ → _ from fun hx => ?_) ?_; (on_goal 2 => unfold x; clear x); clear_value x; revert x; intro _ _) | with_reducible (extract_lets +onlyGivenNames x; refine (show x.1.Steady s₀ → _ from fun hx => ?_) ?_; (on_goal 2 => unfold x; clear x); clear_value x; revert x; intro _ _) | with_reducible (extract_lets +onlyGivenNames x; refine (show x.2.Steady s₀ → _ from fun hx => ?_) ?_; (on_goal 2 => unfold x; clear x); clear_value x; revert x; intro _ _) | with_reducible (extract_lets +onlyGivenNames x; refine (show (∀ t : State, t.Steady s₀ → (x t).Steady s₀) → _ from fun hx => ?_) ?_; (on_goal 2 => unfold x; clear x; intro t ht; beta_reduce); clear_value x; revert x; intro _ _) | with_reducible (extract_lets +onlyGivenNames x; clear_value x; revert x; intro _) | with_reducible refine modPace_steady _ _ ?_ | with_reducible refine domainFault_steady _ _ ?_ | with_reducible refine onPaceCell_steady _ _ _ ?_ | split)
theorem present_steady (s : State) (l : LinkId) (frame : RawFrame) (phase : BitVec 16) (hs : s.Steady s₀) : (State.present s l frame phase).Steady s₀ := by
  unfold State.present; repeat' (first | with_reducible assumption | with_reducible (refine upd_steady _ ?_ .. ; with_reducible assumption) | with_reducible refine ite_steady ?_ ?_ | with_reducible refine ite_fst ?_ ?_ | with_reducible (extract_lets +onlyGivenNames x; refine (show x.Steady s₀ → _ from fun hx => ?_) ?_; (on_goal 2 => unfold x; clear x); clear_value x; revert x; intro _ _) | with_reducible (extract_lets +onlyGivenNames x; refine (show x.1.Steady s₀ → _ from fun hx => ?_) ?_; (on_goal 2 => unfold x; clear x); clear_value x; revert x; intro _ _) | with_reducible (extract_lets +onlyGivenNames x; refine (show x.2.Steady s₀ → _ from fun hx => ?_) ?_; (on_goal 2 => unfold x; clear x); clear_value x; revert x; intro _ _) | with_reducible (extract_lets +onlyGivenNames x; refine (show (∀ t : State, t.Steady s₀ → (x t).Steady s₀) → _ from fun hx => ?_) ?_; (on_goal 2 => unfold x; clear x; intro t ht; beta_reduce); clear_value x; revert x; intro _ _) | with_reducible (extract_lets +onlyGivenNames x; clear_value x; revert x; intro _) | with_reducible refine modLink_steady _ _ _ ?_ | with_reducible refine bodyIn_steady _ _ _ _ _ ?_ | with_reducible refine ackIn_steady _ _ _ ?_ | with_reducible refine ackIn_steadyE ?_ (by assumption) | with_reducible refine swapIn_steady _ _ _ ?_ | with_reducible refine paceIn_steady _ _ _ _ ?_ | split)
theorem presentDue_steady (n : Nat) (s : State) (l : LinkId) (hs : s.Steady s₀) : (State.presentDue n s l).Steady s₀ := by
  induction n generalizing s with
  | zero => exact hs
  | succ n ih =>
    unfold State.presentDue
    split
    · exact hs
    · exact ite_steady hs (ih _ (present_steady _ _ _ _ (modLink_steady _ _ _ hs)))
theorem bufferBeat_steady (s : State) (l : LinkId) (hs : s.Steady s₀) : (State.bufferBeat s l).Steady s₀ := by
  unfold State.bufferBeat; repeat' (first | with_reducible assumption | with_reducible (refine upd_steady _ ?_ .. ; with_reducible assumption) | with_reducible refine ite_steady ?_ ?_ | with_reducible refine modLink_steady _ _ _ ?_ | with_reducible refine domainFault_steady _ _ ?_ | split)
theorem execFrameReceive_steady (l : LinkId) (frame : RawFrame) (phase : BitVec 16) (s : State) (hs : s.Steady s₀) : ∀ out, execFrameReceive l frame phase s = .next out → out.Steady s₀ := by
  intro out ht; unfold execFrameReceive at ht; (try injection ht with ht); subst ht; repeat' (first | with_reducible assumption | with_reducible (refine upd_steady _ ?_ .. ; with_reducible assumption) | with_reducible refine ite_steady ?_ ?_ | with_reducible refine modLink_steady _ _ _ ?_ | with_reducible refine domainFault_steady _ _ ?_ | with_reducible refine presentDue_steady _ _ _ ?_ | split)
theorem execAckUpdate_steady (l : LinkId) (s : State) (hs : s.Steady s₀) : ∀ out, execAckUpdate l s = .next out → out.Steady s₀ := by
  intro out ht; unfold execAckUpdate at ht; (try injection ht with ht); subst ht; repeat' (first | with_reducible assumption | with_reducible (refine upd_steady _ ?_ .. ; with_reducible assumption) | with_reducible refine ite_steady ?_ ?_ | with_reducible refine modLink_steady _ _ _ ?_ | split)
theorem execReplayTimeout_steady (l : LinkId) (s : State) (hs : s.Steady s₀) : ∀ out, execReplayTimeout l s = .next out → out.Steady s₀ := by
  intro out ht; unfold execReplayTimeout at ht; (try injection ht with ht); subst ht; repeat' (first | with_reducible assumption | with_reducible (refine upd_steady _ ?_ .. ; with_reducible assumption) | with_reducible refine ite_steady ?_ ?_ | with_reducible (extract_lets +onlyGivenNames x; refine (show x.Steady s₀ → _ from fun hx => ?_) ?_; (on_goal 2 => unfold x; clear x); clear_value x; revert x; intro _ _) | with_reducible (extract_lets +onlyGivenNames x; refine (show x.1.Steady s₀ → _ from fun hx => ?_) ?_; (on_goal 2 => unfold x; clear x); clear_value x; revert x; intro _ _) | with_reducible (extract_lets +onlyGivenNames x; refine (show x.2.Steady s₀ → _ from fun hx => ?_) ?_; (on_goal 2 => unfold x; clear x); clear_value x; revert x; intro _ _) | with_reducible (extract_lets +onlyGivenNames x; refine (show (∀ t : State, t.Steady s₀ → (x t).Steady s₀) → _ from fun hx => ?_) ?_; (on_goal 2 => unfold x; clear x; intro t ht; beta_reduce); clear_value x; revert x; intro _ _) | with_reducible (extract_lets +onlyGivenNames x; clear_value x; revert x; intro _) | with_reducible refine modLink_steady _ _ _ ?_ | with_reducible refine linkDown_steady _ _ _ ?_ | split)
theorem execSpillAbandoned_steady (l : LinkId) (s : State) (hs : s.Steady s₀) : ∀ out, execSpillAbandoned l s = .next out → out.Steady s₀ := by
  intro out ht; unfold execSpillAbandoned at ht; (try injection ht with ht); subst ht; repeat' (first | with_reducible assumption | with_reducible refine ite_steady ?_ ?_ | with_reducible refine linkDown_steady _ _ _ ?_ | split)

/-! Machine/Digest.lean. -/

theorem sendDigests_steady (s : State) (j : Job) (l : LinkId) (hs : s.Steady s₀) : (State.sendDigests s j l).Steady s₀ := by
  unfold State.sendDigests; repeat' (first | with_reducible assumption | with_reducible refine ite_steady ?_ ?_ | with_reducible refine foldl_steady _ _ _ ?_ (fun _ _ _ => ?_) | with_reducible refine queueCell_steady _ _ _ ?_ | split)
theorem compareDigests_steady (s : State) (id : Nat) (hs : s.Steady s₀) : (State.compareDigests s id).Steady s₀ := by
  unfold State.compareDigests; repeat' (first | with_reducible assumption | with_reducible (refine upd_steady _ ?_ .. ; with_reducible assumption) | with_reducible refine ite_steady ?_ ?_ | with_reducible (extract_lets +onlyGivenNames x; refine (show x.Steady s₀ → _ from fun hx => ?_) ?_; (on_goal 2 => unfold x; clear x); clear_value x; revert x; intro _ _) | with_reducible (extract_lets +onlyGivenNames x; refine (show x.1.Steady s₀ → _ from fun hx => ?_) ?_; (on_goal 2 => unfold x; clear x); clear_value x; revert x; intro _ _) | with_reducible (extract_lets +onlyGivenNames x; refine (show x.2.Steady s₀ → _ from fun hx => ?_) ?_; (on_goal 2 => unfold x; clear x); clear_value x; revert x; intro _ _) | with_reducible (extract_lets +onlyGivenNames x; refine (show (∀ t : State, t.Steady s₀ → (x t).Steady s₀) → _ from fun hx => ?_) ?_; (on_goal 2 => unfold x; clear x; intro t ht; beta_reduce); clear_value x; revert x; intro _ _) | with_reducible (extract_lets +onlyGivenNames x; clear_value x; revert x; intro _) | with_reducible refine modJob_steady _ _ _ ?_ | with_reducible refine logs_steady _ _ _ _ ?_ | with_reducible refine logAt_steady _ _ _ _ ?_ | with_reducible refine complete_steady _ _ _ ?_ | with_reducible refine done_steady _ _ _ ?_ | with_reducible refine refuseStart_steady _ _ _ _ _ _ ?_ | split)
theorem takeUnit_steady (s : State) (u : RingUnit) (hs : s.Steady s₀) : ∀ k, s.takeUnit u = some k → k.state.Steady s₀ := by
  intro k ht
  unfold State.takeUnit at ht
  split at ht
  · injection ht with ht; subst ht; exact unitLeaves_steady _ _ (modInfield_steady _ _ hs)
  · cases ht
  · cases ht
theorem takeCell_steady (s : State) (p : Cell → Bool) (hs : s.Steady s₀) : ∀ k, s.takeCell p = some k → k.state.Steady s₀ := by
  intro k ht
  obtain ⟨u, _, hu⟩ := Option.bind_eq_some_iff.mp ht
  exact takeUnit_steady s u hs k hu
theorem execPlanDigest_steady (s : State) (hs : s.Steady s₀) : ∀ out, execPlanDigest s = .next out → out.Steady s₀ := by
  intro out ht; unfold execPlanDigest at ht; (try injection ht with ht); subst ht; repeat' (first | with_reducible assumption | with_reducible (extract_lets +onlyGivenNames x; refine (show x.Steady s₀ → _ from fun hx => ?_) ?_; (on_goal 2 => unfold x; clear x); clear_value x; revert x; intro _ _) | with_reducible (extract_lets +onlyGivenNames x; refine (show x.1.Steady s₀ → _ from fun hx => ?_) ?_; (on_goal 2 => unfold x; clear x); clear_value x; revert x; intro _ _) | with_reducible (extract_lets +onlyGivenNames x; refine (show x.2.Steady s₀ → _ from fun hx => ?_) ?_; (on_goal 2 => unfold x; clear x); clear_value x; revert x; intro _ _) | with_reducible (extract_lets +onlyGivenNames x; refine (show (∀ t : State, t.Steady s₀ → (x t).Steady s₀) → _ from fun hx => ?_) ?_; (on_goal 2 => unfold x; clear x; intro t ht; beta_reduce); clear_value x; revert x; intro _ _) | with_reducible (extract_lets +onlyGivenNames x; clear_value x; revert x; intro _) | with_reducible refine foldl_steady _ _ _ ?_ (fun _ _ _ => ?_) | with_reducible refine modJob_steady _ _ _ ?_ | with_reducible refine compareDigests_steady _ _ ?_ | with_reducible refine takeCell_steady _ _ ?_ _ (by assumption) | split)
theorem execDigestDeadline_steady (lead : PartId) (s : State) (hs : s.Steady s₀) : ∀ out, execDigestDeadline lead s = .next out → out.Steady s₀ := by
  intro out ht; unfold execDigestDeadline at ht; (try injection ht with ht); subst ht; repeat' (first | with_reducible assumption | with_reducible refine ite_steady ?_ ?_ | with_reducible refine logAt_steady _ _ _ _ ?_ | with_reducible refine refuseStart_steady _ _ _ _ _ _ ?_ | split)
theorem execJobAbort_steady (s : State) (hs : s.Steady s₀) : ∀ out, execJobAbort s = .next out → out.Steady s₀ := by
  intro out ht; unfold execJobAbort at ht; (try injection ht with ht); subst ht; repeat' (first | with_reducible assumption | with_reducible refine ite_steady ?_ ?_ | with_reducible (extract_lets +onlyGivenNames x; refine (show x.Steady s₀ → _ from fun hx => ?_) ?_; (on_goal 2 => unfold x; clear x); clear_value x; revert x; intro _ _) | with_reducible (extract_lets +onlyGivenNames x; refine (show x.1.Steady s₀ → _ from fun hx => ?_) ?_; (on_goal 2 => unfold x; clear x); clear_value x; revert x; intro _ _) | with_reducible (extract_lets +onlyGivenNames x; refine (show x.2.Steady s₀ → _ from fun hx => ?_) ?_; (on_goal 2 => unfold x; clear x); clear_value x; revert x; intro _ _) | with_reducible (extract_lets +onlyGivenNames x; refine (show (∀ t : State, t.Steady s₀ → (x t).Steady s₀) → _ from fun hx => ?_) ?_; (on_goal 2 => unfold x; clear x; intro t ht; beta_reduce); clear_value x; revert x; intro _ _) | with_reducible (extract_lets +onlyGivenNames x; clear_value x; revert x; intro _) | with_reducible refine logAt_steady _ _ _ _ ?_ | with_reducible refine jobFaultWith_steady _ _ _ _ _ ?_ | with_reducible refine refuseStart_steady _ _ _ _ _ _ ?_ | with_reducible refine takeCell_steady _ _ ?_ _ (by assumption) | split)

/-! Machine/Claim.lean. -/

theorem retryHeld_steady (s : State) (f : FnId) (n : RingIx) (hs : s.Steady s₀) : (State.retryHeld s f n).Steady s₀ := by
  unfold State.retryHeld; repeat' (first | with_reducible assumption | with_reducible (refine upd_steady _ ?_ .. ; with_reducible assumption) | with_reducible refine ite_steady ?_ ?_ | with_reducible refine foldl_steady _ _ _ ?_ (fun _ _ _ => ?_) | with_reducible refine modSq_steady _ _ _ _ ?_ | with_reducible refine done_steady _ _ _ ?_ | split)
theorem endWait_steady (s : State) (u : HeaderUser) (hs : s.Steady s₀) : (State.endWait s u).Steady s₀ := by
  unfold State.endWait; repeat' (first | with_reducible assumption | with_reducible (refine upd_steady _ ?_ .. ; with_reducible assumption) | with_reducible refine modHiu_steady _ _ ?_ | split)
theorem keepWait_steady (s : State) (x : HeaderWait) (hs : s.Steady s₀) : (State.keepWait s x).Steady s₀ := by
  unfold State.keepWait; repeat' (first | with_reducible assumption | with_reducible (refine upd_steady _ ?_ .. ; with_reducible assumption) | with_reducible refine ite_steady ?_ ?_ | with_reducible refine modHiu_steady _ _ ?_ | split)
theorem pushOp_steady (s : State) (o : WinOp) (hs : s.Steady s₀) : (State.pushOp s o).Steady s₀ := by
  unfold State.pushOp; repeat' (first | with_reducible assumption | with_reducible (refine upd_steady _ ?_ .. ; with_reducible assumption) | with_reducible refine modHiu_steady _ _ ?_ | split)
theorem setOp_steady (s : State) (o : WinOp) (o' : WinOp) (hs : s.Steady s₀) : (State.setOp s o o').Steady s₀ := by
  unfold State.setOp; repeat' (first | with_reducible assumption | with_reducible (refine upd_steady _ ?_ .. ; with_reducible assumption) | with_reducible refine modHiu_steady _ _ ?_ | split)
theorem dropOp_steady (s : State) (o : WinOp) (hs : s.Steady s₀) : (State.dropOp s o).Steady s₀ := by
  unfold State.dropOp; repeat' (first | with_reducible assumption | with_reducible (refine upd_steady _ ?_ .. ; with_reducible assumption) | with_reducible refine modHiu_steady _ _ ?_ | split)
theorem winMismatch_steady (s : State) (f : FnId) (hs : s.Steady s₀) : (State.winMismatch s f).Steady s₀ := by
  unfold State.winMismatch; repeat' (first | with_reducible assumption | with_reducible (refine upd_steady _ ?_ .. ; with_reducible assumption) | with_reducible refine modFn_steady _ _ _ ?_ | with_reducible refine logRate_steady _ _ _ _ _ ?_ | split)
theorem openHeader_steadyA (s : State) (o : WinOp) (hs : s.Steady s₀) : ∀ out, s.openHeader o = .ended out → out.Steady s₀ := by
  intro out ht; unfold State.openHeader at ht
  grind [dropOp_steady, winMismatch_steady, winFault_steady, complete_steady, setOp_steady, done_steady, logs_steady, modMgt_steady, modFn_steady, logRate_steady, hostWrite_steady, modHiu_steady]
theorem openHeader_steadyB (s : State) (o : WinOp) (hs : s.Steady s₀) : ∀ out o2, s.openHeader o = .opened out o2 → out.Steady s₀ := by
  intro out o2 ht; unfold State.openHeader at ht
  grind [dropOp_steady, winMismatch_steady, winFault_steady, complete_steady, setOp_steady, done_steady, logs_steady, modMgt_steady, modFn_steady, logRate_steady, hostWrite_steady, modHiu_steady]
theorem toClose_steady (s : State) (o : WinOp) (status : Byte) (moved : Nat) (early : Bool) (d0 : W64) (d1 : W64) (fault : W16) (hs : s.Steady s₀) : (State.toClose s o status moved early d0 d1 fault).Steady s₀ := by
  unfold State.toClose; repeat' (first | with_reducible assumption | with_reducible (refine upd_steady _ ?_ .. ; with_reducible assumption) | with_reducible refine setOp_steady _ _ _ ?_ | split)
theorem shortBuf_steady (s : State) (o : WinOp) (need : Nat) (hs : s.Steady s₀) : (State.shortBuf s o need).Steady s₀ := by
  unfold State.shortBuf; repeat' (first | with_reducible assumption | with_reducible refine winFault_steady _ _ _ ?_ | with_reducible refine toClose_steady _ _ _ _ _ _ _ _ ?_ | split)
theorem winCut_steady (s : State) (o : WinOp) (moved : Nat) (f : WalkFail × Nat) (hs : s.Steady s₀) : (State.winCut s o moved f).Steady s₀ := by
  unfold State.winCut; repeat' (first | with_reducible assumption | with_reducible refine winFault_steady _ _ _ ?_ | with_reducible refine toClose_steady _ _ _ _ _ _ _ _ ?_ | split)
theorem winFetch_steady (s : State) (o : WinOp) (need : Nat) (hs : s.Steady s₀) : (State.winFetch s o need).1.Steady s₀ := by
  unfold State.winFetch; repeat' (first | with_reducible assumption | with_reducible refine winCut_steady _ _ _ _ ?_ | with_reducible (dsimp only) | split)
theorem winFetch_steadyE {s : State} {o : WinOp} {need : Nat} {out : State} {res} (hs : s.Steady s₀) (heq : State.winFetch s o need = (out, res)) : out.Steady s₀ := by
  have h := winFetch_steady s o need hs; rw [heq] at h; exact h
theorem winTake_steady (s : State) (o : WinOp) (need : Nat) (hs : s.Steady s₀) : (State.winTake s o need).1.Steady s₀ := by
  unfold State.winTake; repeat' (first | with_reducible assumption | with_reducible refine ite_steady ?_ ?_ | with_reducible refine ite_fst ?_ ?_ | with_reducible refine shortBuf_steady _ _ _ ?_ | with_reducible refine winFetch_steady _ _ _ ?_ | with_reducible refine winFetch_steadyE ?_ (by assumption) | with_reducible (dsimp only) | split)
theorem winTake_steadyE {s : State} {o : WinOp} {need : Nat} {out : State} {res} (hs : s.Steady s₀) (heq : State.winTake s o need = (out, res)) : out.Steady s₀ := by
  have h := winTake_steady s o need hs; rw [heq] at h; exact h
theorem winGive_steady (s : State) (o : WinOp) (bs : List Byte) (d1 : W64) (hs : s.Steady s₀) : (State.winGive s o bs d1).Steady s₀ := by
  unfold State.winGive; grind [winWrite_steady, toClose_steady, shortBuf_steady, winCut_steady, upd_steady, → State.Steady.sram, → State.Steady.host, → State.Steady.flash, → State.Steady.input, → State.Steady.time, → State.Steady.slots, → State.Steady.keys, → State.Steady.queue, → State.Steady.por, Mem.wf_set, Mem.wf_write, Mem.wf_writeAll, Mem.wf_zero]
theorem giveResult_steady (s : State) (d : Desc) (o : Option WinOp) (bs : List Byte) (d1 : W64) (hs : s.Steady s₀) : (State.giveResult s d o bs d1).Steady s₀ := by
  unfold State.giveResult; repeat' (first | with_reducible assumption | with_reducible refine completeWith_steady _ _ _ _ ?_ | with_reducible refine winGive_steady _ _ _ _ ?_ | split)

/-! Machine/Cells.lean. -/

theorem openRequest_steady (s : State) (mgmt : Bool) (o : ReqOwner) (base : W64) (n : Nat) (bs : Option (List Byte)) (job : Byte) (dom : Byte) (hs : s.Steady s₀) : ∀ out, State.openRequest s mgmt o base n bs job dom = some out → out.Steady s₀ := by
  intro out ht; unfold State.openRequest at ht; repeat' (first | (injection ht with ht; subst ht) | contradiction | split at ht); all_goals (repeat' (first | with_reducible assumption | with_reducible (refine upd_steady _ ?_ .. ; with_reducible assumption) | with_reducible (extract_lets +onlyGivenNames x; refine (show x.Steady s₀ → _ from fun hx => ?_) ?_; (on_goal 2 => unfold x; clear x); clear_value x; revert x; intro _ _) | with_reducible (extract_lets +onlyGivenNames x; refine (show x.1.Steady s₀ → _ from fun hx => ?_) ?_; (on_goal 2 => unfold x; clear x); clear_value x; revert x; intro _ _) | with_reducible (extract_lets +onlyGivenNames x; refine (show x.2.Steady s₀ → _ from fun hx => ?_) ?_; (on_goal 2 => unfold x; clear x); clear_value x; revert x; intro _ _) | with_reducible (extract_lets +onlyGivenNames x; refine (show (∀ t : State, t.Steady s₀ → (x t).Steady s₀) → _ from fun hx => ?_) ?_; (on_goal 2 => unfold x; clear x; intro t ht; beta_reduce); clear_value x; revert x; intro _ _) | with_reducible (extract_lets +onlyGivenNames x; clear_value x; revert x; intro _) | with_reducible refine foldl_steady _ _ _ ?_ (fun _ _ _ => ?_) | with_reducible refine modInfield_steady _ _ ?_ | with_reducible refine sendCell_steady _ _ _ ?_ | with_reducible refine linkDown_steady _ _ _ ?_ | split))
theorem openRequest_steadyD (s : State) (mgmt : Bool) (o : ReqOwner) (base : W64) (n : Nat) (bs : Option (List Byte)) (job : Byte) (dom : Byte) (hs : s.Steady s₀) (dflt : State) (hd : dflt.Steady s₀) : ((State.openRequest s mgmt o base n bs job dom).getD dflt).Steady s₀ := getD_steady (openRequest_steady s mgmt o base n bs job dom hs) hd
theorem openCounters_steady (s : State) (d : Desc) (chip : BitVec 13) (group : Nat) (page : Nat) (hs : s.Steady s₀) : ∀ out, State.openCounters s d chip group page = some out → out.Steady s₀ := by
  intro out ht; unfold State.openCounters at ht; repeat' (first | (injection ht with ht; subst ht) | contradiction | split at ht); all_goals (repeat' (first | with_reducible assumption | with_reducible (refine upd_steady _ ?_ .. ; with_reducible assumption) | with_reducible (extract_lets +onlyGivenNames x; refine (show x.Steady s₀ → _ from fun hx => ?_) ?_; (on_goal 2 => unfold x; clear x); clear_value x; revert x; intro _ _) | with_reducible (extract_lets +onlyGivenNames x; refine (show x.1.Steady s₀ → _ from fun hx => ?_) ?_; (on_goal 2 => unfold x; clear x); clear_value x; revert x; intro _ _) | with_reducible (extract_lets +onlyGivenNames x; refine (show x.2.Steady s₀ → _ from fun hx => ?_) ?_; (on_goal 2 => unfold x; clear x); clear_value x; revert x; intro _ _) | with_reducible (extract_lets +onlyGivenNames x; refine (show (∀ t : State, t.Steady s₀ → (x t).Steady s₀) → _ from fun hx => ?_) ?_; (on_goal 2 => unfold x; clear x; intro t ht; beta_reduce); clear_value x; revert x; intro _ _) | with_reducible (extract_lets +onlyGivenNames x; clear_value x; revert x; intro _) | with_reducible refine modInfield_steady _ _ ?_ | with_reducible refine sendCell_steady _ _ _ ?_ | with_reducible refine linkDown_steady _ _ _ ?_ | split))
theorem openCounters_steadyD (s : State) (d : Desc) (chip : BitVec 13) (group : Nat) (page : Nat) (hs : s.Steady s₀) (dflt : State) (hd : dflt.Steady s₀) : ((State.openCounters s d chip group page).getD dflt).Steady s₀ := getD_steady (openCounters_steady s d chip group page hs) hd
theorem localRange_steady (s : State) (p : PartId) (i : Issued) (hs : s.Steady s₀) : (State.localRange s p i).1.Steady s₀ := by
  unfold State.localRange; repeat' (first | with_reducible assumption | with_reducible (refine upd_steady _ ?_ .. ; with_reducible assumption) | with_reducible refine ite_steady ?_ ?_ | with_reducible refine ite_fst ?_ ?_ | with_reducible (extract_lets +onlyGivenNames x; refine (show x.Steady s₀ → _ from fun hx => ?_) ?_; (on_goal 2 => unfold x; clear x); clear_value x; revert x; intro _ _) | with_reducible (extract_lets +onlyGivenNames x; refine (show x.1.Steady s₀ → _ from fun hx => ?_) ?_; (on_goal 2 => unfold x; clear x); clear_value x; revert x; intro _ _) | with_reducible (extract_lets +onlyGivenNames x; refine (show x.2.Steady s₀ → _ from fun hx => ?_) ?_; (on_goal 2 => unfold x; clear x); clear_value x; revert x; intro _ _) | with_reducible (extract_lets +onlyGivenNames x; refine (show (∀ t : State, t.Steady s₀ → (x t).Steady s₀) → _ from fun hx => ?_) ?_; (on_goal 2 => unfold x; clear x; intro t ht; beta_reduce); clear_value x; revert x; intro _ _) | with_reducible (extract_lets +onlyGivenNames x; clear_value x; revert x; intro _) | with_reducible refine partJobFault_steady _ _ _ _ ?_ | with_reducible refine consultOne_steady _ _ _ _ ?_ | with_reducible refine consultOne_steadyE ?_ (by assumption) | with_reducible (dsimp only) | split)
theorem localRange_steadyE {s : State} {p : PartId} {i : Issued} {out : State} {res} (hs : s.Steady s₀) (heq : State.localRange s p i = (out, res)) : out.Steady s₀ := by
  have h := localRange_steady s p i hs; rw [heq] at h; exact h
theorem putGet_steady (s : State) (lead : PartId) (op : Nat) (hs : s.Steady s₀) : (State.putGet s lead op).Steady s₀ := by
  unfold State.putGet; repeat' (first | with_reducible assumption | with_reducible refine ite_steady ?_ ?_ | with_reducible refine ite_fst ?_ ?_ | with_reducible (extract_lets +onlyGivenNames x; refine (show x.Steady s₀ → _ from fun hx => ?_) ?_; (on_goal 2 => unfold x; clear x); clear_value x; revert x; intro _ _) | with_reducible (extract_lets +onlyGivenNames x; refine (show x.1.Steady s₀ → _ from fun hx => ?_) ?_; (on_goal 2 => unfold x; clear x); clear_value x; revert x; intro _ _) | with_reducible (extract_lets +onlyGivenNames x; refine (show x.2.Steady s₀ → _ from fun hx => ?_) ?_; (on_goal 2 => unfold x; clear x); clear_value x; revert x; intro _ _) | with_reducible (extract_lets +onlyGivenNames x; refine (show (∀ t : State, t.Steady s₀ → (x t).Steady s₀) → _ from fun hx => ?_) ?_; (on_goal 2 => unfold x; clear x; intro t ht; beta_reduce); clear_value x; revert x; intro _ _) | with_reducible (extract_lets +onlyGivenNames x; clear_value x; revert x; intro _) | with_reducible refine modJob_steady _ _ _ ?_ | with_reducible refine partJobFault_steady _ _ _ _ ?_ | with_reducible refine fetchBytes_steady _ _ _ _ ?_ | with_reducible refine fetchBytes_steadyE ?_ (by assumption) | with_reducible refine plotAccess_steady _ _ _ _ _ _ ?_ | with_reducible refine settle_steady _ _ ?_ | with_reducible refine retire_steady _ _ _ _ _ ?_ | with_reducible refine openRequest_steady _ _ _ _ _ _ _ _ ?_ _ (by assumption) | with_reducible refine openRequest_steadyD _ _ _ _ _ _ _ _ ?_ _ ?_ | with_reducible refine localRange_steady _ _ _ ?_ | with_reducible refine localRange_steadyE ?_ (by assumption) | with_reducible refine pair_steady ?_ (by assumption) | with_reducible refine ite_fst ?_ ?_ | with_reducible (dsimp only) | split)
theorem execPut_steady (lead : PartId) (s : State) (hs : s.Steady s₀) : ∀ out, execPut lead s = .next out → out.Steady s₀ := by
  intro out ht; unfold execPut at ht; (try injection ht with ht); subst ht; repeat' (first | with_reducible assumption | with_reducible refine putGet_steady _ _ _ ?_ | split)
theorem execGet_steady (lead : PartId) (s : State) (hs : s.Steady s₀) : ∀ out, execGet lead s = .next out → out.Steady s₀ := by
  intro out ht; unfold execGet at ht; (try injection ht with ht); subst ht; repeat' (first | with_reducible assumption | with_reducible refine putGet_steady _ _ _ ?_ | split)
theorem answer_steady (s : State) (c : Cell) (st : Byte) (fault : W16) (hs : s.Steady s₀) : (State.answer s c st fault).Steady s₀ := by
  unfold State.answer; repeat' (first | with_reducible assumption | with_reducible (refine upd_steady _ ?_ .. ; with_reducible assumption) | with_reducible (extract_lets +onlyGivenNames x; refine (show x.Steady s₀ → _ from fun hx => ?_) ?_; (on_goal 2 => unfold x; clear x); clear_value x; revert x; intro _ _) | with_reducible (extract_lets +onlyGivenNames x; refine (show x.1.Steady s₀ → _ from fun hx => ?_) ?_; (on_goal 2 => unfold x; clear x); clear_value x; revert x; intro _ _) | with_reducible (extract_lets +onlyGivenNames x; refine (show x.2.Steady s₀ → _ from fun hx => ?_) ?_; (on_goal 2 => unfold x; clear x); clear_value x; revert x; intro _ _) | with_reducible (extract_lets +onlyGivenNames x; refine (show (∀ t : State, t.Steady s₀ → (x t).Steady s₀) → _ from fun hx => ?_) ?_; (on_goal 2 => unfold x; clear x; intro t ht; beta_reduce); clear_value x; revert x; intro _ _) | with_reducible (extract_lets +onlyGivenNames x; clear_value x; revert x; intro _) | with_reducible refine sendCell_steady _ _ _ ?_ | split)
theorem Taken_check_steady (k : Taken) (hs : k.state.Steady s₀) : k.check.1.Steady s₀ := by
  unfold Taken.check
  split
  · exact hs
  · extract_lets s
    have h : s.Steady s₀ := ite_steady (logs_steady _ _ _ _ (modInfield_steady _ _ hs)) hs
    split
    · exact ite_fst (logRate_steady _ _ _ _ _ (modInfield_steady _ _ h)) h
    · exact h
theorem Taken_check_steadyE {k : Taken} {out : State} {res} (hs : k.state.Steady s₀) (heq : k.check = (out, res)) :
    out.Steady s₀ := by
  have h := Taken_check_steady k hs; rw [heq] at h; exact h
theorem cellCheck_steady (s : State) (c : Cell) (hs : s.Steady s₀) : (State.cellCheck s c).1.Steady s₀ := by
  unfold State.cellCheck; repeat' (first | with_reducible assumption | with_reducible (refine upd_steady _ ?_ .. ; with_reducible assumption) | with_reducible refine ite_steady ?_ ?_ | with_reducible refine ite_fst ?_ ?_ | with_reducible (extract_lets +onlyGivenNames x; refine (show x.Steady s₀ → _ from fun hx => ?_) ?_; (on_goal 2 => unfold x; clear x); clear_value x; revert x; intro _ _) | with_reducible (extract_lets +onlyGivenNames x; refine (show x.1.Steady s₀ → _ from fun hx => ?_) ?_; (on_goal 2 => unfold x; clear x); clear_value x; revert x; intro _ _) | with_reducible (extract_lets +onlyGivenNames x; refine (show x.2.Steady s₀ → _ from fun hx => ?_) ?_; (on_goal 2 => unfold x; clear x); clear_value x; revert x; intro _ _) | with_reducible (extract_lets +onlyGivenNames x; refine (show (∀ t : State, t.Steady s₀ → (x t).Steady s₀) → _ from fun hx => ?_) ?_; (on_goal 2 => unfold x; clear x; intro t ht; beta_reduce); clear_value x; revert x; intro _ _) | with_reducible (extract_lets +onlyGivenNames x; clear_value x; revert x; intro _) | with_reducible refine partJobFault_steady _ _ _ _ ?_ | with_reducible refine consultAll_steady _ _ _ ?_ | with_reducible refine consultAll_steadyE ?_ (by assumption) | with_reducible (dsimp only) | split)
theorem cellCheck_steadyE {s : State} {c : Cell} {out : State} {res} (hs : s.Steady s₀) (heq : State.cellCheck s c = (out, res)) : out.Steady s₀ := by
  have h := cellCheck_steady s c hs; rw [heq] at h; exact h
theorem logOfJob_steady (s : State) (p : PartId) (code : W16) (r : Loc) (hs : s.Steady s₀) : (State.logOfJob s p code r).Steady s₀ := by
  unfold State.logOfJob; repeat' (first | with_reducible assumption | with_reducible (refine upd_steady _ ?_ .. ; with_reducible assumption) | with_reducible refine ite_steady ?_ ?_ | with_reducible refine modLog_steady2 _ _ ?_ rfl rfl rfl rfl | with_reducible refine logAt_steady _ _ _ _ ?_ | split)
theorem execCellRequest_steady (s : State) (hs : s.Steady s₀) : ∀ out, execCellRequest s = .next out → out.Steady s₀ := by
  intro out ht; unfold execCellRequest at ht; (try injection ht with ht); subst ht; repeat' (first | with_reducible assumption | with_reducible refine ite_steady ?_ ?_ | with_reducible refine ite_fst ?_ ?_ | with_reducible (extract_lets +onlyGivenNames x; refine (show x.Steady s₀ → _ from fun hx => ?_) ?_; (on_goal 2 => unfold x; clear x); clear_value x; revert x; intro _ _) | with_reducible (extract_lets +onlyGivenNames x; refine (show x.1.Steady s₀ → _ from fun hx => ?_) ?_; (on_goal 2 => unfold x; clear x); clear_value x; revert x; intro _ _) | with_reducible (extract_lets +onlyGivenNames x; refine (show x.2.Steady s₀ → _ from fun hx => ?_) ?_; (on_goal 2 => unfold x; clear x); clear_value x; revert x; intro _ _) | with_reducible (extract_lets +onlyGivenNames x; refine (show (∀ t : State, t.Steady s₀ → (x t).Steady s₀) → _ from fun hx => ?_) ?_; (on_goal 2 => unfold x; clear x; intro t ht; beta_reduce); clear_value x; revert x; intro _ _) | with_reducible (extract_lets +onlyGivenNames x; clear_value x; revert x; intro _) | with_reducible refine sendCell_steady _ _ _ ?_ | with_reducible refine fetchBytes_steady _ _ _ _ ?_ | with_reducible refine fetchBytes_steadyE ?_ (by assumption) | with_reducible refine store_steady _ _ _ _ ?_ | with_reducible refine store_steadyE ?_ (by assumption) | with_reducible refine answer_steady _ _ _ _ ?_ | with_reducible refine cellCheck_steady _ _ ?_ | with_reducible refine cellCheck_steadyE ?_ (by assumption) | with_reducible refine logOfJob_steady _ _ _ _ ?_ | with_reducible refine takeCell_steady _ _ ?_ _ (by assumption) | with_reducible refine Taken_check_steadyE ?_ (by assumption) | split)
theorem landGet_steady (s : State) (r : Request) (hs : s.Steady s₀) : (State.landGet s r).1.Steady s₀ := by
  unfold State.landGet; repeat' (first | with_reducible assumption | with_reducible refine ite_steady ?_ ?_ | with_reducible refine ite_fst ?_ ?_ | with_reducible refine store_steady _ _ _ _ ?_ | with_reducible refine store_steadyE ?_ (by assumption) | with_reducible refine linkDown_steady _ _ _ ?_ | with_reducible refine localRange_steady _ _ _ ?_ | with_reducible refine localRange_steadyE ?_ (by assumption) | with_reducible refine putGet_steady _ _ _ ?_ | with_reducible (dsimp only) | split)
theorem landGet_steadyE {s : State} {r : Request} {out : State} {res} (hs : s.Steady s₀) (heq : State.landGet s r = (out, res)) : out.Steady s₀ := by
  have h := landGet_steady s r hs; rw [heq] at h; exact h
theorem execCellReply_steady (s : State) (hs : s.Steady s₀) : ∀ out, execCellReply s = .next out → out.Steady s₀ := by
  intro out ht; unfold execCellReply at ht; (try injection ht with ht); subst ht; repeat' (first | with_reducible assumption | with_reducible (refine upd_steady _ ?_ .. ; with_reducible assumption) | with_reducible refine ite_steady ?_ ?_ | with_reducible refine ite_fst ?_ ?_ | with_reducible (extract_lets +onlyGivenNames x; refine (show x.Steady s₀ → _ from fun hx => ?_) ?_; (on_goal 2 => unfold x; clear x); clear_value x; revert x; intro _ _) | with_reducible (extract_lets +onlyGivenNames x; refine (show x.1.Steady s₀ → _ from fun hx => ?_) ?_; (on_goal 2 => unfold x; clear x); clear_value x; revert x; intro _ _) | with_reducible (extract_lets +onlyGivenNames x; refine (show x.2.Steady s₀ → _ from fun hx => ?_) ?_; (on_goal 2 => unfold x; clear x); clear_value x; revert x; intro _ _) | with_reducible (extract_lets +onlyGivenNames x; refine (show (∀ t : State, t.Steady s₀ → (x t).Steady s₀) → _ from fun hx => ?_) ?_; (on_goal 2 => unfold x; clear x; intro t ht; beta_reduce); clear_value x; revert x; intro _ _) | with_reducible (extract_lets +onlyGivenNames x; clear_value x; revert x; intro _) | with_reducible refine modInfield_steady _ _ ?_ | with_reducible refine finishRequest_steady _ _ _ ?_ | with_reducible refine landGet_steady _ _ ?_ | with_reducible refine landGet_steadyE ?_ (by assumption) | with_reducible refine takeCell_steady _ _ ?_ _ (by assumption) | with_reducible refine Taken_check_steadyE ?_ (by assumption) | split)
theorem execCellTimeout_steady (mgmt : Bool) (slot : Byte) (s : State) (hs : s.Steady s₀) : ∀ out, execCellTimeout mgmt slot s = .next out → out.Steady s₀ := by
  intro out ht; unfold execCellTimeout at ht; (try injection ht with ht); subst ht; repeat' (first | with_reducible assumption | with_reducible refine finishRequest_steady _ _ _ ?_ | split)
theorem execCounterReq_steady (s : State) (hs : s.Steady s₀) : ∀ out, execCounterReq s = .next out → out.Steady s₀ := by
  intro out ht; unfold execCounterReq at ht; (try injection ht with ht); subst ht; repeat' (first | with_reducible assumption | with_reducible refine ite_steady ?_ ?_ | with_reducible refine ite_fst ?_ ?_ | with_reducible (extract_lets +onlyGivenNames x; refine (show x.Steady s₀ → _ from fun hx => ?_) ?_; (on_goal 2 => unfold x; clear x); clear_value x; revert x; intro _ _) | with_reducible (extract_lets +onlyGivenNames x; refine (show x.1.Steady s₀ → _ from fun hx => ?_) ?_; (on_goal 2 => unfold x; clear x); clear_value x; revert x; intro _ _) | with_reducible (extract_lets +onlyGivenNames x; refine (show x.2.Steady s₀ → _ from fun hx => ?_) ?_; (on_goal 2 => unfold x; clear x); clear_value x; revert x; intro _ _) | with_reducible (extract_lets +onlyGivenNames x; refine (show (∀ t : State, t.Steady s₀ → (x t).Steady s₀) → _ from fun hx => ?_) ?_; (on_goal 2 => unfold x; clear x; intro t ht; beta_reduce); clear_value x; revert x; intro _ _) | with_reducible (extract_lets +onlyGivenNames x; clear_value x; revert x; intro _) | with_reducible refine sendCell_steady _ _ _ ?_ | with_reducible refine takeCell_steady _ _ ?_ _ (by assumption) | with_reducible refine Taken_check_steadyE ?_ (by assumption) | split)
theorem mgmtSend_steady (s : State) (d : Desc) (base : W64) (bs : Option (List Byte)) (hs : s.Steady s₀) : ∀ out, State.mgmtSend s d base bs = some out → out.Steady s₀ := by
  intro out ht; unfold State.mgmtSend at ht; grind [openRequest_steady, upd_steady, → State.Steady.sram, → State.Steady.host, → State.Steady.flash, → State.Steady.input, → State.Steady.time, → State.Steady.slots, → State.Steady.keys, → State.Steady.queue, → State.Steady.por, Mem.wf_set, Mem.wf_write, Mem.wf_writeAll, Mem.wf_zero]
theorem mgmtSend_steadyD (s : State) (d : Desc) (base : W64) (bs : Option (List Byte)) (hs : s.Steady s₀) (dflt : State) (hd : dflt.Steady s₀) : ((State.mgmtSend s d base bs).getD dflt).Steady s₀ := getD_steady (mgmtSend_steady s d base bs hs) hd
theorem mgmtGo_steady (s : State) (o : WinOp) (hs : s.Steady s₀) : (State.mgmtGo s o).Steady s₀ := by
  unfold State.mgmtGo; repeat' (first | with_reducible assumption | with_reducible (refine upd_steady _ ?_ .. ; with_reducible assumption) | with_reducible refine ite_steady ?_ ?_ | with_reducible refine ite_fst ?_ ?_ | with_reducible (extract_lets +onlyGivenNames x; refine (show x.Steady s₀ → _ from fun hx => ?_) ?_; (on_goal 2 => unfold x; clear x); clear_value x; revert x; intro _ _) | with_reducible (extract_lets +onlyGivenNames x; refine (show x.1.Steady s₀ → _ from fun hx => ?_) ?_; (on_goal 2 => unfold x; clear x); clear_value x; revert x; intro _ _) | with_reducible (extract_lets +onlyGivenNames x; refine (show x.2.Steady s₀ → _ from fun hx => ?_) ?_; (on_goal 2 => unfold x; clear x); clear_value x; revert x; intro _ _) | with_reducible (extract_lets +onlyGivenNames x; refine (show (∀ t : State, t.Steady s₀ → (x t).Steady s₀) → _ from fun hx => ?_) ?_; (on_goal 2 => unfold x; clear x; intro t ht; beta_reduce); clear_value x; revert x; intro _ _) | with_reducible (extract_lets +onlyGivenNames x; clear_value x; revert x; intro _) | with_reducible refine getD_steady (fun _ _ => ?_) ?_ | with_reducible refine logs_steady _ _ _ _ ?_ | with_reducible refine complete_steady _ _ _ ?_ | with_reducible refine setOp_steady _ _ _ ?_ | with_reducible refine shortBuf_steady _ _ _ ?_ | with_reducible refine winTake_steady _ _ _ ?_ | with_reducible refine winTake_steadyE ?_ (by assumption) | with_reducible refine mgmtSend_steady _ _ _ _ ?_ _ (by assumption) | with_reducible refine mgmtSend_steadyD _ _ _ _ ?_ _ ?_ | with_reducible refine openHeader_steadyA _ _ ?_ _ (by assumption) | with_reducible refine openHeader_steadyB _ _ ?_ _ _ (by assumption) | split)
theorem takeMc_steady (s : State) (op : Nat) (hs : s.Steady s₀) : ∀ out x, State.takeMc s op = some (x, out) → out.Steady s₀ := by
  intro out x ht; unfold State.takeMc at ht; grind [modHiu_steady, upd_steady, → State.Steady.sram, → State.Steady.host, → State.Steady.flash, → State.Steady.input, → State.Steady.time, → State.Steady.slots, → State.Steady.keys, → State.Steady.queue, → State.Steady.por, Mem.wf_set, Mem.wf_write, Mem.wf_writeAll, Mem.wf_zero]
theorem takeRe_steady (s : State) (op : Nat) (hs : s.Steady s₀) : ∀ out x, State.takeRe s op = some (x, out) → out.Steady s₀ := by
  intro out x ht; unfold State.takeRe at ht; grind [modHiu_steady, upd_steady, → State.Steady.sram, → State.Steady.host, → State.Steady.flash, → State.Steady.input, → State.Steady.time, → State.Steady.slots, → State.Steady.keys, → State.Steady.queue, → State.Steady.por, Mem.wf_set, Mem.wf_write, Mem.wf_writeAll, Mem.wf_zero]
theorem mgmtDesc_steady (s : State) (op : Nat) (hs : s.Steady s₀) : (State.mgmtDesc s op).Steady s₀ := by
  unfold State.mgmtDesc; repeat' (first | with_reducible assumption | with_reducible refine ite_steady ?_ ?_ | with_reducible refine ite_fst ?_ ?_ | with_reducible (extract_lets +onlyGivenNames x; refine (show x.Steady s₀ → _ from fun hx => ?_) ?_; (on_goal 2 => unfold x; clear x); clear_value x; revert x; intro _ _) | with_reducible (extract_lets +onlyGivenNames x; refine (show x.1.Steady s₀ → _ from fun hx => ?_) ?_; (on_goal 2 => unfold x; clear x); clear_value x; revert x; intro _ _) | with_reducible (extract_lets +onlyGivenNames x; refine (show x.2.Steady s₀ → _ from fun hx => ?_) ?_; (on_goal 2 => unfold x; clear x); clear_value x; revert x; intro _ _) | with_reducible (extract_lets +onlyGivenNames x; refine (show (∀ t : State, t.Steady s₀ → (x t).Steady s₀) → _ from fun hx => ?_) ?_; (on_goal 2 => unfold x; clear x; intro t ht; beta_reduce); clear_value x; revert x; intro _ _) | with_reducible (extract_lets +onlyGivenNames x; clear_value x; revert x; intro _) | with_reducible refine getD_steady (fun _ _ => ?_) ?_ | with_reducible refine logs_steady _ _ _ _ ?_ | with_reducible refine complete_steady _ _ _ ?_ | with_reducible refine done_steady _ _ _ ?_ | with_reducible refine pushOp_steady _ _ ?_ | with_reducible refine mgmtSend_steady _ _ _ _ ?_ _ (by assumption) | with_reducible refine mgmtSend_steadyD _ _ _ _ ?_ _ ?_ | with_reducible refine mgmtGo_steady _ _ ?_ | with_reducible refine takeMc_steady _ _ ?_ _ _ (by assumption) | split)
theorem execMgmtRead_steady (s : State) (hs : s.Steady s₀) : ∀ out, execMgmtRead s = .next out → out.Steady s₀ := by
  intro out ht; unfold execMgmtRead at ht; (try injection ht with ht); subst ht; repeat' (first | with_reducible assumption | with_reducible refine mgmtDesc_steady _ _ ?_ | split)
theorem execMgmtWrite_steady (s : State) (hs : s.Steady s₀) : ∀ out, execMgmtWrite s = .next out → out.Steady s₀ := by
  intro out ht; unfold execMgmtWrite at ht; (try injection ht with ht); subst ht; repeat' (first | with_reducible assumption | with_reducible refine mgmtDesc_steady _ _ ?_ | split)

end Sys2Proof.Machine
end

