-- ==== Sys2Proof/Laws/SteadyCells.lean ====
section
/-! SUPPORT. For each operation of the infield rings, scrub, descriptors, the log, clocks, rings, ports and firmware: what it keeps (State.Steady). -/

set_option maxRecDepth 4000
set_option linter.all false

namespace Sys2Proof.Machine

variable {s₀ : State}

/-! Machine/Infield.lean. -/

theorem useRing_steady (s : State) (ring : Byte) (n : Nat) (hs : s.Steady s₀) : (State.useRing s ring n).Steady s₀ := by
  unfold State.useRing; repeat' (first | with_reducible assumption | with_reducible refine modInfield_steady _ _ ?_ | split)
theorem countHops_steady (s : State) (j : Job) (t : W16) (hs : s.Steady s₀) : (State.countHops s j t).Steady s₀ := by
  unfold State.countHops; repeat' (first | with_reducible assumption | with_reducible refine foldl_steady _ _ _ ?_ (fun _ _ _ => ?_) | with_reducible refine useRing_steady _ _ _ ?_ | split)
theorem ringSample_steady (s : State) (j : Job) (kt : TableSet) (kr : TableSet) (t : W16) (x : LapSpan) (first : Nat) (g : W32) (hs : s.Steady s₀) : (State.ringSample s j kt kr t x first g).Steady s₀ := by
  unfold State.ringSample; repeat' (first | with_reducible assumption | with_reducible (refine upd_steady _ ?_ .. ; with_reducible assumption) | with_reducible refine ite_steady ?_ ?_ | with_reducible (extract_lets +onlyGivenNames x; refine (show x.Steady s₀ → _ from fun hx => ?_) ?_; (on_goal 2 => unfold x; clear x); clear_value x; revert x; intro _ _) | with_reducible (extract_lets +onlyGivenNames x; refine (show x.1.Steady s₀ → _ from fun hx => ?_) ?_; (on_goal 2 => unfold x; clear x); clear_value x; revert x; intro _ _) | with_reducible (extract_lets +onlyGivenNames x; refine (show x.2.Steady s₀ → _ from fun hx => ?_) ?_; (on_goal 2 => unfold x; clear x); clear_value x; revert x; intro _ _) | with_reducible (extract_lets +onlyGivenNames x; refine (show (∀ t : State, t.Steady s₀ → (x t).Steady s₀) → _ from fun hx => ?_) ?_; (on_goal 2 => unfold x; clear x; intro t ht; beta_reduce); clear_value x; revert x; intro _ _) | with_reducible (extract_lets +onlyGivenNames x; clear_value x; revert x; intro _) | with_reducible refine modJob_steady _ _ _ ?_ | with_reducible refine logAt_steady _ _ _ _ ?_ | with_reducible refine raiseSlip_steady _ _ _ _ ?_ | with_reducible refine present_steady _ _ _ _ ?_ | split)
theorem flyFrame_steady (s : State) (j : Job) (b : RingBurst) (err : Option EccErr) (hs : s.Steady s₀) : (State.flyFrame s j b err).Steady s₀ := by
  unfold State.flyFrame; repeat' (first | with_reducible assumption | with_reducible (refine upd_steady _ ?_ .. ; with_reducible assumption) | with_reducible refine modInfield_steady _ _ ?_ | with_reducible refine burstFound_steady _ _ _ ?_ | split)
theorem flightsLand_steady (s : State) (hs : s.Steady s₀) : (State.flightsLand s).Steady s₀ := by
  unfold State.flightsLand; repeat' (first | with_reducible assumption | with_reducible (refine upd_steady _ ?_ .. ; with_reducible assumption) | with_reducible (extract_lets +onlyGivenNames x; refine (show x.Steady s₀ → _ from fun hx => ?_) ?_; (on_goal 2 => unfold x; clear x); clear_value x; revert x; intro _ _) | with_reducible (extract_lets +onlyGivenNames x; refine (show x.1.Steady s₀ → _ from fun hx => ?_) ?_; (on_goal 2 => unfold x; clear x); clear_value x; revert x; intro _ _) | with_reducible (extract_lets +onlyGivenNames x; refine (show x.2.Steady s₀ → _ from fun hx => ?_) ?_; (on_goal 2 => unfold x; clear x); clear_value x; revert x; intro _ _) | with_reducible (extract_lets +onlyGivenNames x; refine (show (∀ t : State, t.Steady s₀ → (x t).Steady s₀) → _ from fun hx => ?_) ?_; (on_goal 2 => unfold x; clear x; intro t ht; beta_reduce); clear_value x; revert x; intro _ _) | with_reducible (extract_lets +onlyGivenNames x; clear_value x; revert x; intro _) | with_reducible refine foldl_steady _ _ _ ?_ (fun _ _ _ => ?_) | with_reducible refine modInfield_steady _ _ ?_ | with_reducible refine burstFound_steady _ _ _ ?_ | split)
theorem drainFrame_steady (s : State) (j : Job) (kl : TableSet) (t : W16) (o : Occurrence) (i : Nat) (err : Option EccErr) (hs : s.Steady s₀) : (State.drainFrame s j kl t o i err).Steady s₀ := by
  unfold State.drainFrame; repeat' (first | with_reducible assumption | with_reducible (refine upd_steady _ ?_ .. ; with_reducible assumption) | with_reducible (extract_lets +onlyGivenNames x; refine (show x.Steady s₀ → _ from fun hx => ?_) ?_; (on_goal 2 => unfold x; clear x); clear_value x; revert x; intro _ _) | with_reducible (extract_lets +onlyGivenNames x; refine (show x.1.Steady s₀ → _ from fun hx => ?_) ?_; (on_goal 2 => unfold x; clear x); clear_value x; revert x; intro _ _) | with_reducible (extract_lets +onlyGivenNames x; refine (show x.2.Steady s₀ → _ from fun hx => ?_) ?_; (on_goal 2 => unfold x; clear x); clear_value x; revert x; intro _ _) | with_reducible (extract_lets +onlyGivenNames x; refine (show (∀ t : State, t.Steady s₀ → (x t).Steady s₀) → _ from fun hx => ?_) ?_; (on_goal 2 => unfold x; clear x; intro t ht; beta_reduce); clear_value x; revert x; intro _ _) | with_reducible (extract_lets +onlyGivenNames x; clear_value x; revert x; intro _) | with_reducible refine modLink_steady _ _ _ ?_ | with_reducible refine flyFrame_steady _ _ _ _ ?_ | split)
theorem occFrame_steady (s : State) (j : Job) (kt : TableSet) (t : W16) (o : Occurrence) (a : Sampled) (i : Nat) (err : Option EccErr)
    (hs : s.Steady s₀) : (s.occFrame j kt t o a i err).Steady s₀ := by
  unfold State.occFrame
  extract_lets u
  have h1 : u.Steady s₀ := ite_steady hs (modJob_steady _ _ _ hs)
  clear_value u
  split
  · split
    · rename_i heq; exact burstBytes_steadyE h1 heq
    · rename_i heq
      have h2 := burstBytes_steadyE h1 heq
      dsimp only
      split
      · exact flyFrame_steady _ _ _ _ h2
      · exact flyFrame_steady _ _ _ _ (ite_steady (sendDone_steady _ _ _ h2) h2)
  · exact ite_steady h1 (flyFrame_steady _ _ _ _ (sendDone_steady _ _ _ h1))
  · exact h1
theorem deferredFrames_steady (s : State) (j : Job) (y : Transfer) (src dst : Stop) (st : Fin 7) (feed : Bool) (o : Occurrence) (b : BoundSend)
    (n i : Nat) (hs : s.Steady s₀) : (s.deferredFrames j y src dst st feed o b n i).Steady s₀ := by
  induction n generalizing s i with
  | zero => exact hs
  | succ n ih =>
    unfold State.deferredFrames
    split
    · rename_i heq; exact burstBytes_steadyE hs heq
    · rename_i heq; exact ih _ _ (orderTwo_steady _ _ _ _ (burstBytes_steadyE hs heq))
theorem sendRingDeferred_steady (s : State) (j : Job) (kt : TableSet) (kr : TableSet) (t : W16) (hs : s.Steady s₀) : (State.sendRingDeferred s j kt kr t).Steady s₀ := by
  unfold State.sendRingDeferred; repeat' (first | with_reducible assumption | with_reducible (refine upd_steady _ ?_ .. ; with_reducible assumption) | with_reducible refine ite_steady ?_ ?_ | with_reducible (extract_lets +onlyGivenNames x; refine (show x.Steady s₀ → _ from fun hx => ?_) ?_; (on_goal 2 => unfold x; clear x); clear_value x; revert x; intro _ _) | with_reducible (extract_lets +onlyGivenNames x; refine (show x.1.Steady s₀ → _ from fun hx => ?_) ?_; (on_goal 2 => unfold x; clear x); clear_value x; revert x; intro _ _) | with_reducible (extract_lets +onlyGivenNames x; refine (show x.2.Steady s₀ → _ from fun hx => ?_) ?_; (on_goal 2 => unfold x; clear x); clear_value x; revert x; intro _ _) | with_reducible (extract_lets +onlyGivenNames x; refine (show (∀ t : State, t.Steady s₀ → (x t).Steady s₀) → _ from fun hx => ?_) ?_; (on_goal 2 => unfold x; clear x; intro t ht; beta_reduce); clear_value x; revert x; intro _ _) | with_reducible (extract_lets +onlyGivenNames x; clear_value x; revert x; intro _) | with_reducible refine modJob_steady _ _ _ ?_ | with_reducible refine orderTwo_steady _ _ _ _ ?_ | with_reducible refine deferredFrames_steady _ _ _ _ _ _ _ _ _ _ _ ?_ | split)
theorem ringFrame_steady (s : State) (j : Job) (kt : TableSet) (kr : TableSet) (t : W16) (err : Option EccErr) (hs : s.Steady s₀) : (State.ringFrame s j kt kr t err).Steady s₀ := by
  unfold State.ringFrame; repeat' (first | with_reducible assumption | with_reducible (refine upd_steady _ ?_ .. ; with_reducible assumption) | with_reducible refine ite_steady ?_ ?_ | with_reducible (extract_lets +onlyGivenNames x; refine (show x.Steady s₀ → _ from fun hx => ?_) ?_; (on_goal 2 => unfold x; clear x); clear_value x; revert x; intro _ _) | with_reducible (extract_lets +onlyGivenNames x; refine (show x.1.Steady s₀ → _ from fun hx => ?_) ?_; (on_goal 2 => unfold x; clear x); clear_value x; revert x; intro _ _) | with_reducible (extract_lets +onlyGivenNames x; refine (show x.2.Steady s₀ → _ from fun hx => ?_) ?_; (on_goal 2 => unfold x; clear x); clear_value x; revert x; intro _ _) | with_reducible (extract_lets +onlyGivenNames x; refine (show (∀ t : State, t.Steady s₀ → (x t).Steady s₀) → _ from fun hx => ?_) ?_; (on_goal 2 => unfold x; clear x; intro t ht; beta_reduce); clear_value x; revert x; intro _ _) | with_reducible (extract_lets +onlyGivenNames x; clear_value x; revert x; intro _) | with_reducible refine modJob_steady _ _ _ ?_ | with_reducible refine countHops_steady _ _ _ ?_ | with_reducible refine ringSample_steady _ _ _ _ _ _ _ _ ?_ | with_reducible refine drainFrame_steady _ _ _ _ _ _ _ ?_ | with_reducible refine occFrame_steady _ _ _ _ _ _ _ _ ?_ | split)
theorem ringSampleAhead_steady (s : State) (j : Job) (kt : TableSet) (kr : TableSet) (t : W16) (hs : s.Steady s₀) : (State.ringSampleAhead s j kt kr t).Steady s₀ := by
  unfold State.ringSampleAhead; repeat' (first | with_reducible assumption | with_reducible refine ite_steady ?_ ?_ | with_reducible refine ringSample_steady _ _ _ _ _ _ _ _ ?_ | split)
theorem execRingOccurrence_steady (lead : PartId) (transfer : W16) (err : Option EccErr) (s : State) (hs : s.Steady s₀) : ∀ out, execRingOccurrence lead transfer err s = .next out → out.Steady s₀ := by
  intro out ht; unfold execRingOccurrence at ht; dsimp only at ht; injection ht with ht; subst ht; (repeat' split) <;> grind [sendRingDeferred_steady, ringFrame_steady, ringSampleAhead_steady, upd_steady, → State.Steady.sram, → State.Steady.host, → State.Steady.flash, → State.Steady.input, → State.Steady.time, → State.Steady.slots, → State.Steady.keys, → State.Steady.queue, → State.Steady.por, Mem.wf_set, Mem.wf_write, Mem.wf_writeAll, Mem.wf_zero]
theorem unitEnters_steady (s : State) (u : RingUnit) (dir : Nat) (hs : s.Steady s₀) : (State.unitEnters s u dir).Steady s₀ := by
  unfold State.unitEnters; repeat' (first | with_reducible assumption | with_reducible refine modInfield_steady _ _ ?_ | with_reducible refine unitLeaves_steady _ _ ?_ | with_reducible refine burstLeaves_steady _ _ ?_ | split)
theorem plotLost_steady (s : State) (p : PartId) (hs : s.Steady s₀) : (State.plotLost s p).Steady s₀ := by
  unfold State.plotLost; repeat' (first | with_reducible assumption | with_reducible (refine upd_steady _ ?_ .. ; with_reducible assumption) | with_reducible (extract_lets +onlyGivenNames x; refine (show x.Steady s₀ → _ from fun hx => ?_) ?_; (on_goal 2 => unfold x; clear x); clear_value x; revert x; intro _ _) | with_reducible (extract_lets +onlyGivenNames x; refine (show x.1.Steady s₀ → _ from fun hx => ?_) ?_; (on_goal 2 => unfold x; clear x); clear_value x; revert x; intro _ _) | with_reducible (extract_lets +onlyGivenNames x; refine (show x.2.Steady s₀ → _ from fun hx => ?_) ?_; (on_goal 2 => unfold x; clear x); clear_value x; revert x; intro _ _) | with_reducible (extract_lets +onlyGivenNames x; refine (show (∀ t : State, t.Steady s₀ → (x t).Steady s₀) → _ from fun hx => ?_) ?_; (on_goal 2 => unfold x; clear x; intro t ht; beta_reduce); clear_value x; revert x; intro _ _) | with_reducible (extract_lets +onlyGivenNames x; clear_value x; revert x; intro _) | with_reducible refine modInfield_steady _ _ ?_ | with_reducible refine partJobFault_steady _ _ _ _ ?_ | with_reducible refine linkDown_steady _ _ _ ?_ | split)
theorem plotArrives_steady (s : State) (d : DieId) (err : Option EccErr) (x : PlotUnit) (hs : s.Steady s₀) : (State.plotArrives s d err x).Steady s₀ := by
  unfold State.plotArrives; repeat' (first | with_reducible assumption | with_reducible (refine upd_steady _ ?_ .. ; with_reducible assumption) | with_reducible refine ite_steady ?_ ?_ | with_reducible (extract_lets +onlyGivenNames x; refine (show x.Steady s₀ → _ from fun hx => ?_) ?_; (on_goal 2 => unfold x; clear x); clear_value x; revert x; intro _ _) | with_reducible (extract_lets +onlyGivenNames x; refine (show x.1.Steady s₀ → _ from fun hx => ?_) ?_; (on_goal 2 => unfold x; clear x); clear_value x; revert x; intro _ _) | with_reducible (extract_lets +onlyGivenNames x; refine (show x.2.Steady s₀ → _ from fun hx => ?_) ?_; (on_goal 2 => unfold x; clear x); clear_value x; revert x; intro _ _) | with_reducible (extract_lets +onlyGivenNames x; refine (show (∀ t : State, t.Steady s₀ → (x t).Steady s₀) → _ from fun hx => ?_) ?_; (on_goal 2 => unfold x; clear x; intro t ht; beta_reduce); clear_value x; revert x; intro _ _) | with_reducible (extract_lets +onlyGivenNames x; clear_value x; revert x; intro _) | with_reducible refine modMgt_steady _ _ ?_ rfl | with_reducible refine modInfield_steady _ _ ?_ | with_reducible refine logs_steady _ _ _ _ ?_ | with_reducible refine addUnit_steady _ _ ?_ | with_reducible refine plotLost_steady _ _ ?_ | split)
theorem ringsMove_steady (s : State) (hs : s.Steady s₀) : (State.ringsMove s).Steady s₀ := by
  unfold State.ringsMove; repeat' (first | with_reducible assumption | with_reducible (refine upd_steady _ ?_ .. ; with_reducible assumption) | with_reducible refine ite_steady ?_ ?_ | with_reducible (extract_lets +onlyGivenNames x; refine (show x.Steady s₀ → _ from fun hx => ?_) ?_; (on_goal 2 => unfold x; clear x); clear_value x; revert x; intro _ _) | with_reducible (extract_lets +onlyGivenNames x; refine (show x.1.Steady s₀ → _ from fun hx => ?_) ?_; (on_goal 2 => unfold x; clear x); clear_value x; revert x; intro _ _) | with_reducible (extract_lets +onlyGivenNames x; refine (show x.2.Steady s₀ → _ from fun hx => ?_) ?_; (on_goal 2 => unfold x; clear x); clear_value x; revert x; intro _ _) | with_reducible (extract_lets +onlyGivenNames x; refine (show (∀ t : State, t.Steady s₀ → (x t).Steady s₀) → _ from fun hx => ?_) ?_; (on_goal 2 => unfold x; clear x; intro t ht; beta_reduce); clear_value x; revert x; intro _ _) | with_reducible (extract_lets +onlyGivenNames x; clear_value x; revert x; intro _) | with_reducible refine foldl_steady _ _ _ ?_ (fun _ _ _ => ?_) | with_reducible refine modInfield_steady _ _ ?_ | with_reducible refine burstFound_steady _ _ _ ?_ | with_reducible refine unitEnters_steady _ _ _ ?_ | with_reducible refine plotArrives_steady _ _ _ _ ?_ | split)

/-! Machine/Beat.lean. -/

theorem passBeat_steady (s : State) (hs : s.Steady s₀) : (passBeat s).Steady s₀ := by
  unfold passBeat; repeat' (first | with_reducible assumption | with_reducible (refine upd_steady _ ?_ .. ; with_reducible assumption) | with_reducible refine ite_steady ?_ ?_ | with_reducible (extract_lets +onlyGivenNames x; refine (show x.Steady s₀ → _ from fun hx => ?_) ?_; (on_goal 2 => unfold x; clear x); clear_value x; revert x; intro _ _) | with_reducible (extract_lets +onlyGivenNames x; refine (show x.1.Steady s₀ → _ from fun hx => ?_) ?_; (on_goal 2 => unfold x; clear x); clear_value x; revert x; intro _ _) | with_reducible (extract_lets +onlyGivenNames x; refine (show x.2.Steady s₀ → _ from fun hx => ?_) ?_; (on_goal 2 => unfold x; clear x); clear_value x; revert x; intro _ _) | with_reducible (extract_lets +onlyGivenNames x; refine (show (∀ t : State, t.Steady s₀ → (x t).Steady s₀) → _ from fun hx => ?_) ?_; (on_goal 2 => unfold x; clear x; intro t ht; beta_reduce); clear_value x; revert x; intro _ _) | with_reducible (extract_lets +onlyGivenNames x; clear_value x; revert x; intro _) | with_reducible refine foldl_steady _ _ _ ?_ (fun _ _ _ => ?_) | with_reducible refine meetHolds_steady _ ?_ | with_reducible refine presentDue_steady _ _ _ ?_ | with_reducible refine bufferBeat_steady _ _ ?_ | with_reducible refine flightsLand_steady _ ?_ | with_reducible refine ringsMove_steady _ ?_ | split)

/-! Machine/Scrub.lean. -/

theorem strike_steady (s : State) (x : UpsetPlace × EccErr) (hs : s.Steady s₀) : (State.strike s x).Steady s₀ := by
  unfold State.strike; repeat' (first | with_reducible assumption | with_reducible (refine upd_steady _ ?_ .. ; with_reducible assumption) | with_reducible refine ite_steady ?_ ?_ | with_reducible (extract_lets +onlyGivenNames x; refine (show x.Steady s₀ → _ from fun hx => ?_) ?_; (on_goal 2 => unfold x; clear x); clear_value x; revert x; intro _ _) | with_reducible (extract_lets +onlyGivenNames x; refine (show x.1.Steady s₀ → _ from fun hx => ?_) ?_; (on_goal 2 => unfold x; clear x); clear_value x; revert x; intro _ _) | with_reducible (extract_lets +onlyGivenNames x; refine (show x.2.Steady s₀ → _ from fun hx => ?_) ?_; (on_goal 2 => unfold x; clear x); clear_value x; revert x; intro _ _) | with_reducible (extract_lets +onlyGivenNames x; refine (show (∀ t : State, t.Steady s₀ → (x t).Steady s₀) → _ from fun hx => ?_) ?_; (on_goal 2 => unfold x; clear x; intro t ht; beta_reduce); clear_value x; revert x; intro _ _) | with_reducible (extract_lets +onlyGivenNames x; clear_value x; revert x; intro _) | with_reducible refine modInfield_steady _ _ ?_ | with_reducible refine modSram_steady2 _ _ ?_ rfl | split)
theorem beginPass_steady (s : State) (d : DieId) (hs : s.Steady s₀) : (State.beginPass s d).Steady s₀ := by
  unfold State.beginPass; repeat' (first | with_reducible assumption | with_reducible (refine upd_steady _ ?_ .. ; with_reducible assumption) | with_reducible refine ite_steady ?_ ?_ | with_reducible (extract_lets +onlyGivenNames x; refine (show x.Steady s₀ → _ from fun hx => ?_) ?_; (on_goal 2 => unfold x; clear x); clear_value x; revert x; intro _ _) | with_reducible (extract_lets +onlyGivenNames x; refine (show x.1.Steady s₀ → _ from fun hx => ?_) ?_; (on_goal 2 => unfold x; clear x); clear_value x; revert x; intro _ _) | with_reducible (extract_lets +onlyGivenNames x; refine (show x.2.Steady s₀ → _ from fun hx => ?_) ?_; (on_goal 2 => unfold x; clear x); clear_value x; revert x; intro _ _) | with_reducible (extract_lets +onlyGivenNames x; refine (show (∀ t : State, t.Steady s₀ → (x t).Steady s₀) → _ from fun hx => ?_) ?_; (on_goal 2 => unfold x; clear x; intro t ht; beta_reduce); clear_value x; revert x; intro _ _) | with_reducible (extract_lets +onlyGivenNames x; clear_value x; revert x; intro _) | with_reducible refine modSram_steady2 _ _ ?_ rfl | split)
theorem execScrubWord_steady (place : ScrubPlace) (strikes : List (UpsetPlace × EccErr)) (s : State) (hs : s.Steady s₀) : ∀ out, execScrubWord place strikes s = .next out → out.Steady s₀ := by
  intro out ht; unfold execScrubWord at ht; (try injection ht with ht); subst ht; repeat' (first | with_reducible assumption | with_reducible refine ite_steady ?_ ?_ | with_reducible (extract_lets +onlyGivenNames x; refine (show x.Steady s₀ → _ from fun hx => ?_) ?_; (on_goal 2 => unfold x; clear x); clear_value x; revert x; intro _ _) | with_reducible (extract_lets +onlyGivenNames x; refine (show x.1.Steady s₀ → _ from fun hx => ?_) ?_; (on_goal 2 => unfold x; clear x); clear_value x; revert x; intro _ _) | with_reducible (extract_lets +onlyGivenNames x; refine (show x.2.Steady s₀ → _ from fun hx => ?_) ?_; (on_goal 2 => unfold x; clear x); clear_value x; revert x; intro _ _) | with_reducible (extract_lets +onlyGivenNames x; refine (show (∀ t : State, t.Steady s₀ → (x t).Steady s₀) → _ from fun hx => ?_) ?_; (on_goal 2 => unfold x; clear x; intro t ht; beta_reduce); clear_value x; revert x; intro _ _) | with_reducible (extract_lets +onlyGivenNames x; clear_value x; revert x; intro _) | with_reducible refine foldl_steady _ _ _ ?_ (fun _ _ _ => ?_) | with_reducible refine meetWords_steady _ _ _ ?_ | with_reducible refine meetWords_steadyE ?_ (by assumption) | with_reducible refine meetReserve_steady _ _ _ ?_ | with_reducible refine strike_steady _ _ ?_ | with_reducible refine beginPass_steady _ _ ?_ | split)
theorem execMapScrub_steady (p : PartId) (s : State) (hs : s.Steady s₀) : ∀ out, execMapScrub p s = .next out → out.Steady s₀ := by
  intro out ht; unfold execMapScrub at ht; (try injection ht with ht); subst ht; repeat' (first | with_reducible assumption | with_reducible (extract_lets +onlyGivenNames x; refine (show x.Steady s₀ → _ from fun hx => ?_) ?_; (on_goal 2 => unfold x; clear x); clear_value x; revert x; intro _ _) | with_reducible (extract_lets +onlyGivenNames x; refine (show x.1.Steady s₀ → _ from fun hx => ?_) ?_; (on_goal 2 => unfold x; clear x); clear_value x; revert x; intro _ _) | with_reducible (extract_lets +onlyGivenNames x; refine (show x.2.Steady s₀ → _ from fun hx => ?_) ?_; (on_goal 2 => unfold x; clear x); clear_value x; revert x; intro _ _) | with_reducible (extract_lets +onlyGivenNames x; refine (show (∀ t : State, t.Steady s₀ → (x t).Steady s₀) → _ from fun hx => ?_) ?_; (on_goal 2 => unfold x; clear x; intro t ht; beta_reduce); clear_value x; revert x; intro _ _) | with_reducible (extract_lets +onlyGivenNames x; clear_value x; revert x; intro _) | with_reducible refine partJobFault_steady _ _ _ _ ?_ | with_reducible refine meetReserve_steady _ _ _ ?_ | with_reducible refine mapRewrite_steady _ _ _ _ ?_ | split)
theorem execPlanTableScrub_steady (l : LinkId) (s : State) (hs : s.Steady s₀) : ∀ out, execPlanTableScrub l s = .next out → out.Steady s₀ := by
  intro out ht; unfold execPlanTableScrub at ht; (try injection ht with ht); subst ht; repeat' (first | with_reducible assumption | with_reducible (refine upd_steady _ ?_ .. ; with_reducible assumption) | with_reducible refine ite_steady ?_ ?_ | with_reducible (extract_lets +onlyGivenNames x; refine (show x.Steady s₀ → _ from fun hx => ?_) ?_; (on_goal 2 => unfold x; clear x); clear_value x; revert x; intro _ _) | with_reducible (extract_lets +onlyGivenNames x; refine (show x.1.Steady s₀ → _ from fun hx => ?_) ?_; (on_goal 2 => unfold x; clear x); clear_value x; revert x; intro _ _) | with_reducible (extract_lets +onlyGivenNames x; refine (show x.2.Steady s₀ → _ from fun hx => ?_) ?_; (on_goal 2 => unfold x; clear x); clear_value x; revert x; intro _ _) | with_reducible (extract_lets +onlyGivenNames x; refine (show (∀ t : State, t.Steady s₀ → (x t).Steady s₀) → _ from fun hx => ?_) ?_; (on_goal 2 => unfold x; clear x; intro t ht; beta_reduce); clear_value x; revert x; intro _ _) | with_reducible (extract_lets +onlyGivenNames x; clear_value x; revert x; intro _) | with_reducible refine meetGolden_steady _ _ _ _ ?_ | with_reducible refine tableRewrite_steady _ _ _ ?_ | with_reducible refine tableDiverged_steady _ _ _ ?_ | split)
theorem taskDone_steady (s : State) (t : ResetTask) (hs : s.Steady s₀) : (State.taskDone s t).Steady s₀ := by
  unfold State.taskDone; repeat' (first | with_reducible assumption | with_reducible refine logs_steady _ _ _ _ ?_ | with_reducible refine complete_steady _ _ _ ?_ | with_reducible refine done_steady _ _ _ ?_ | split)
theorem parkNext_steady (s : State) (t : ResetTask) (hs : s.Steady s₀) : (State.parkNext s t).Steady s₀ := by
  unfold State.parkNext; repeat' (first | with_reducible assumption | with_reducible refine ite_steady ?_ ?_ | with_reducible refine modPart_steady _ _ _ ?_ | split)
theorem resetReached_steady (s : State) (p : PartId) (hs : s.Steady s₀) : (State.resetReached s p).Steady s₀ := by
  unfold State.resetReached; repeat' (first | with_reducible assumption | with_reducible (refine upd_steady _ ?_ .. ; with_reducible assumption) | with_reducible (extract_lets +onlyGivenNames x; refine (show x.Steady s₀ → _ from fun hx => ?_) ?_; (on_goal 2 => unfold x; clear x); clear_value x; revert x; intro _ _) | with_reducible (extract_lets +onlyGivenNames x; refine (show x.1.Steady s₀ → _ from fun hx => ?_) ?_; (on_goal 2 => unfold x; clear x); clear_value x; revert x; intro _ _) | with_reducible (extract_lets +onlyGivenNames x; refine (show x.2.Steady s₀ → _ from fun hx => ?_) ?_; (on_goal 2 => unfold x; clear x); clear_value x; revert x; intro _ _) | with_reducible (extract_lets +onlyGivenNames x; refine (show (∀ t : State, t.Steady s₀ → (x t).Steady s₀) → _ from fun hx => ?_) ?_; (on_goal 2 => unfold x; clear x; intro t ht; beta_reduce); clear_value x; revert x; intro _ _) | with_reducible (extract_lets +onlyGivenNames x; clear_value x; revert x; intro _) | with_reducible refine foldl_steady _ _ _ ?_ (fun _ _ _ => ?_) | with_reducible refine modMgt_steady _ _ ?_ rfl | with_reducible refine taskDone_steady _ _ ?_ | with_reducible refine parkNext_steady _ _ ?_ | split)
theorem dropJobs_steady (s : State) (hs : s.Steady s₀) : (State.dropJobs s).Steady s₀ := by
  unfold State.dropJobs; repeat' (first | with_reducible assumption | with_reducible (refine upd_steady _ ?_ .. ; with_reducible assumption) | split)
theorem execZeroingDone_steady (p : PartId) (s : State) (hs : s.Steady s₀) : ∀ out, execZeroingDone p s = .next out → out.Steady s₀ := by
  intro out ht; unfold execZeroingDone at ht; (try injection ht with ht); subst ht; repeat' (first | with_reducible assumption | with_reducible refine ite_steady ?_ ?_ | with_reducible (extract_lets +onlyGivenNames x; refine (show x.Steady s₀ → _ from fun hx => ?_) ?_; (on_goal 2 => unfold x; clear x); clear_value x; revert x; intro _ _) | with_reducible (extract_lets +onlyGivenNames x; refine (show x.1.Steady s₀ → _ from fun hx => ?_) ?_; (on_goal 2 => unfold x; clear x); clear_value x; revert x; intro _ _) | with_reducible (extract_lets +onlyGivenNames x; refine (show x.2.Steady s₀ → _ from fun hx => ?_) ?_; (on_goal 2 => unfold x; clear x); clear_value x; revert x; intro _ _) | with_reducible (extract_lets +onlyGivenNames x; refine (show (∀ t : State, t.Steady s₀ → (x t).Steady s₀) → _ from fun hx => ?_) ?_; (on_goal 2 => unfold x; clear x; intro t ht; beta_reduce); clear_value x; revert x; intro _ _) | with_reducible (extract_lets +onlyGivenNames x; clear_value x; revert x; intro _) | with_reducible refine modPart_steady _ _ _ ?_ | with_reducible refine zeroRange_steady _ _ _ ?_ | with_reducible refine resetReached_steady _ _ ?_ | with_reducible refine dropJobs_steady _ ?_ | split)
theorem execPartitionScrubDone_steady (p : PartId) (s : State) (hs : s.Steady s₀) : ∀ out, execPartitionScrubDone p s = .next out → out.Steady s₀ := by
  intro out ht; unfold execPartitionScrubDone at ht; (try injection ht with ht); subst ht; repeat' (first | with_reducible assumption | with_reducible (refine upd_steady _ ?_ .. ; with_reducible assumption) | with_reducible refine ite_steady ?_ ?_ | with_reducible (extract_lets +onlyGivenNames x; refine (show x.Steady s₀ → _ from fun hx => ?_) ?_; (on_goal 2 => unfold x; clear x); clear_value x; revert x; intro _ _) | with_reducible (extract_lets +onlyGivenNames x; refine (show x.1.Steady s₀ → _ from fun hx => ?_) ?_; (on_goal 2 => unfold x; clear x); clear_value x; revert x; intro _ _) | with_reducible (extract_lets +onlyGivenNames x; refine (show x.2.Steady s₀ → _ from fun hx => ?_) ?_; (on_goal 2 => unfold x; clear x); clear_value x; revert x; intro _ _) | with_reducible (extract_lets +onlyGivenNames x; refine (show (∀ t : State, t.Steady s₀ → (x t).Steady s₀) → _ from fun hx => ?_) ?_; (on_goal 2 => unfold x; clear x; intro t ht; beta_reduce); clear_value x; revert x; intro _ _) | with_reducible (extract_lets +onlyGivenNames x; clear_value x; revert x; intro _) | with_reducible refine modPart_steady _ _ _ ?_ | with_reducible refine meetWords_steady _ _ _ ?_ | with_reducible refine meetWords_steadyE ?_ (by assumption) | split)

/-! Machine/Descs.lean. -/

theorem conflict_steady (s : State) (d : Desc) (hs : s.Steady s₀) : (State.conflict s d).Steady s₀ := by
  unfold State.conflict; repeat' (first | with_reducible assumption | with_reducible refine logs_steady _ _ _ _ ?_ | with_reducible refine complete_steady _ _ _ ?_ | split)
theorem startRefused_steady (s : State) (d : Desc) (code : W16) (hs : s.Steady s₀) : (State.startRefused s d code).Steady s₀ := by
  unfold State.startRefused; repeat' (first | with_reducible assumption | with_reducible refine logs_steady _ _ _ _ ?_ | with_reducible refine complete_steady _ _ _ ?_ | split)
theorem parkedPost_steady (s : State) (p : PartId) (t : Fin 32) (n : Fin 64) (e : QEntry) (hs : s.Steady s₀) : (State.parkedPost s p t n e).1.Steady s₀ := by
  unfold State.parkedPost; repeat' (first | with_reducible assumption | with_reducible (refine upd_steady _ ?_ .. ; with_reducible assumption) | with_reducible refine ite_steady ?_ ?_ | with_reducible refine ite_fst ?_ ?_ | with_reducible (extract_lets +onlyGivenNames x; refine (show x.Steady s₀ → _ from fun hx => ?_) ?_; (on_goal 2 => unfold x; clear x); clear_value x; revert x; intro _ _) | with_reducible (extract_lets +onlyGivenNames x; refine (show x.1.Steady s₀ → _ from fun hx => ?_) ?_; (on_goal 2 => unfold x; clear x); clear_value x; revert x; intro _ _) | with_reducible (extract_lets +onlyGivenNames x; refine (show x.2.Steady s₀ → _ from fun hx => ?_) ?_; (on_goal 2 => unfold x; clear x); clear_value x; revert x; intro _ _) | with_reducible (extract_lets +onlyGivenNames x; refine (show (∀ t : State, t.Steady s₀ → (x t).Steady s₀) → _ from fun hx => ?_) ?_; (on_goal 2 => unfold x; clear x; intro t ht; beta_reduce); clear_value x; revert x; intro _ _) | with_reducible (extract_lets +onlyGivenNames x; clear_value x; revert x; intro _) | with_reducible refine modJob_steady _ _ _ ?_ | with_reducible (dsimp only) | split)
theorem parkedPost_steadyE {s : State} {p : PartId} {t : Fin 32} {n : Fin 64} {e : QEntry} {out : State} {res} (hs : s.Steady s₀) (heq : State.parkedPost s p t n e = (out, res)) : out.Steady s₀ := by
  have h := parkedPost_steady s p t n e hs; rw [heq] at h; exact h
theorem releaseLinks_steady (s : State) (id : Nat) (hs : s.Steady s₀) : (State.releaseLinks s id).Steady s₀ := by
  unfold State.releaseLinks; repeat' (first | with_reducible assumption | with_reducible (refine upd_steady _ ?_ .. ; with_reducible assumption) | with_reducible refine ite_steady ?_ ?_ | split)
theorem stopStreams_steady (s : State) (lead : PartId) (st : Byte) (hs : s.Steady s₀) : (State.stopStreams s lead st).Steady s₀ := by
  unfold State.stopStreams; repeat' (first | with_reducible assumption | with_reducible (refine upd_steady _ ?_ .. ; with_reducible assumption) | with_reducible refine ite_steady ?_ ?_ | with_reducible refine modSvc_steady _ _ ?_ | split)
theorem leaveParts_steady (s : State) (id : Nat) (st : PState) (hs : s.Steady s₀) : (State.leaveParts s id st).Steady s₀ := by
  unfold State.leaveParts; grind [noteSlack_steady, upd_steady, → State.Steady.sram, → State.Steady.host, → State.Steady.flash, → State.Steady.input, → State.Steady.time, → State.Steady.slots, → State.Steady.keys, → State.Steady.queue, → State.Steady.por, Mem.wf_set, Mem.wf_write, Mem.wf_writeAll, Mem.wf_zero]
theorem removeJob_steady (s : State) (j : Job) (st : PState) (hs : s.Steady s₀) : (State.removeJob s j st).Steady s₀ := by
  unfold State.removeJob; repeat' (first | with_reducible assumption | with_reducible (refine upd_steady _ ?_ .. ; with_reducible assumption) | with_reducible (extract_lets +onlyGivenNames x; refine (show x.Steady s₀ → _ from fun hx => ?_) ?_; (on_goal 2 => unfold x; clear x); clear_value x; revert x; intro _ _) | with_reducible (extract_lets +onlyGivenNames x; refine (show x.1.Steady s₀ → _ from fun hx => ?_) ?_; (on_goal 2 => unfold x; clear x); clear_value x; revert x; intro _ _) | with_reducible (extract_lets +onlyGivenNames x; refine (show x.2.Steady s₀ → _ from fun hx => ?_) ?_; (on_goal 2 => unfold x; clear x); clear_value x; revert x; intro _ _) | with_reducible (extract_lets +onlyGivenNames x; refine (show (∀ t : State, t.Steady s₀ → (x t).Steady s₀) → _ from fun hx => ?_) ?_; (on_goal 2 => unfold x; clear x; intro t ht; beta_reduce); clear_value x; revert x; intro _ _) | with_reducible (extract_lets +onlyGivenNames x; clear_value x; revert x; intro _) | with_reducible refine leaveDomain_steady _ ?_ | with_reducible refine releaseLinks_steady _ _ ?_ | with_reducible refine leaveParts_steady _ _ _ ?_ | split)
theorem endJob_steady (s : State) (j : Job) (hs : s.Steady s₀) : (State.endJob s j).Steady s₀ := by
  unfold State.endJob; repeat' (first | with_reducible assumption | with_reducible refine jobEvent_steady _ _ _ _ ?_ | with_reducible refine removeJob_steady _ _ _ ?_ | split)

/-! Machine/Log.lean. -/

theorem logMessage_steady (s : State) (code : W16) (hs : s.Steady s₀) : (State.logMessage s code).Steady s₀ := by
  unfold State.logMessage; repeat' (first | with_reducible assumption | with_reducible refine ite_steady ?_ ?_ | with_reducible refine msix_steady _ _ _ ?_ | split)
theorem exportEntry_steady (s : State) (e : LogEntry) (hs : s.Steady s₀) : (State.exportEntry s e).Steady s₀ := by
  unfold State.exportEntry; repeat' (first | with_reducible assumption | with_reducible (refine upd_steady _ ?_ .. ; with_reducible assumption) | with_reducible (extract_lets +onlyGivenNames x; refine (show x.Steady s₀ → _ from fun hx => ?_) ?_; (on_goal 2 => unfold x; clear x); clear_value x; revert x; intro _ _) | with_reducible (extract_lets +onlyGivenNames x; refine (show x.1.Steady s₀ → _ from fun hx => ?_) ?_; (on_goal 2 => unfold x; clear x); clear_value x; revert x; intro _ _) | with_reducible (extract_lets +onlyGivenNames x; refine (show x.2.Steady s₀ → _ from fun hx => ?_) ?_; (on_goal 2 => unfold x; clear x); clear_value x; revert x; intro _ _) | with_reducible (extract_lets +onlyGivenNames x; refine (show (∀ t : State, t.Steady s₀ → (x t).Steady s₀) → _ from fun hx => ?_) ?_; (on_goal 2 => unfold x; clear x; intro t ht; beta_reduce); clear_value x; revert x; intro _ _) | with_reducible (extract_lets +onlyGivenNames x; clear_value x; revert x; intro _) | with_reducible refine modSvc_steady _ _ ?_ | with_reducible refine sendFrame_steady _ _ _ _ ?_ | split)
theorem execLogHoldoffExpiry_steady (scope : HoldoffScope) (s : State) (hs : s.Steady s₀) : ∀ out, execLogHoldoffExpiry scope s = .next out → out.Steady s₀ := by
  intro out ht; unfold execLogHoldoffExpiry at ht; (try injection ht with ht); subst ht; repeat' (first | with_reducible assumption | with_reducible (refine upd_steady _ ?_ .. ; with_reducible assumption) | with_reducible refine modLog_steady2 _ _ ?_ rfl rfl rfl rfl | split)

/-! Machine/Query.lean. -/

theorem queryGo_steady (s : State) (o : WinOp) (hs : s.Steady s₀) : (State.queryGo s o).Steady s₀ := by
  unfold State.queryGo; repeat' (first | with_reducible assumption | with_reducible refine ite_steady ?_ ?_ | with_reducible refine ite_fst ?_ ?_ | with_reducible (extract_lets +onlyGivenNames x; refine (show x.Steady s₀ → _ from fun hx => ?_) ?_; (on_goal 2 => unfold x; clear x); clear_value x; revert x; intro _ _) | with_reducible (extract_lets +onlyGivenNames x; refine (show x.1.Steady s₀ → _ from fun hx => ?_) ?_; (on_goal 2 => unfold x; clear x); clear_value x; revert x; intro _ _) | with_reducible (extract_lets +onlyGivenNames x; refine (show x.2.Steady s₀ → _ from fun hx => ?_) ?_; (on_goal 2 => unfold x; clear x); clear_value x; revert x; intro _ _) | with_reducible (extract_lets +onlyGivenNames x; refine (show (∀ t : State, t.Steady s₀ → (x t).Steady s₀) → _ from fun hx => ?_) ?_; (on_goal 2 => unfold x; clear x; intro t ht; beta_reduce); clear_value x; revert x; intro _ _) | with_reducible (extract_lets +onlyGivenNames x; clear_value x; revert x; intro _) | with_reducible refine getD_steady (fun _ _ => ?_) ?_ | with_reducible refine shortBuf_steady _ _ _ ?_ | with_reducible refine winGive_steady _ _ _ _ ?_ | with_reducible refine openCounters_steady _ _ _ _ _ ?_ _ (by assumption) | with_reducible refine openCounters_steadyD _ _ _ _ _ ?_ _ ?_ | with_reducible refine openHeader_steadyA _ _ ?_ _ (by assumption) | with_reducible refine openHeader_steadyB _ _ ?_ _ _ (by assumption) | split)
theorem execQuery_steady (s : State) (hs : s.Steady s₀) : ∀ out, execQuery s = .next out → out.Steady s₀ := by
  intro out ht; unfold execQuery at ht; (try injection ht with ht); subst ht; repeat' (first | with_reducible assumption | with_reducible refine ite_steady ?_ ?_ | with_reducible refine ite_fst ?_ ?_ | with_reducible (extract_lets +onlyGivenNames x; refine (show x.Steady s₀ → _ from fun hx => ?_) ?_; (on_goal 2 => unfold x; clear x); clear_value x; revert x; intro _ _) | with_reducible (extract_lets +onlyGivenNames x; refine (show x.1.Steady s₀ → _ from fun hx => ?_) ?_; (on_goal 2 => unfold x; clear x); clear_value x; revert x; intro _ _) | with_reducible (extract_lets +onlyGivenNames x; refine (show x.2.Steady s₀ → _ from fun hx => ?_) ?_; (on_goal 2 => unfold x; clear x); clear_value x; revert x; intro _ _) | with_reducible (extract_lets +onlyGivenNames x; refine (show (∀ t : State, t.Steady s₀ → (x t).Steady s₀) → _ from fun hx => ?_) ?_; (on_goal 2 => unfold x; clear x; intro t ht; beta_reduce); clear_value x; revert x; intro _ _) | with_reducible (extract_lets +onlyGivenNames x; clear_value x; revert x; intro _) | with_reducible refine getD_steady (fun _ _ => ?_) ?_ | with_reducible refine done_steady _ _ _ ?_ | with_reducible refine pushOp_steady _ _ ?_ | with_reducible refine giveResult_steady _ _ _ _ _ ?_ | with_reducible refine openCounters_steady _ _ _ _ _ ?_ _ (by assumption) | with_reducible refine openCounters_steadyD _ _ _ _ _ ?_ _ ?_ | with_reducible refine takeMc_steady _ _ ?_ _ _ (by assumption) | with_reducible refine conflict_steady _ _ ?_ | with_reducible refine queryGo_steady _ _ ?_ | split)
theorem logReadGo_steady (s : State) (o : WinOp) (hs : s.Steady s₀) : (State.logReadGo s o).Steady s₀ := by
  unfold State.logReadGo; repeat' (first | with_reducible assumption | with_reducible refine winGive_steady _ _ _ _ ?_ | with_reducible refine openHeader_steadyA _ _ ?_ _ (by assumption) | with_reducible refine openHeader_steadyB _ _ ?_ _ _ (by assumption) | split)
theorem execLogRead_steady (s : State) (hs : s.Steady s₀) : ∀ out, execLogRead s = .next out → out.Steady s₀ := by
  intro out ht; unfold execLogRead at ht; (try injection ht with ht); subst ht; repeat' (first | with_reducible assumption | with_reducible refine ite_steady ?_ ?_ | with_reducible (extract_lets +onlyGivenNames x; refine (show x.Steady s₀ → _ from fun hx => ?_) ?_; (on_goal 2 => unfold x; clear x); clear_value x; revert x; intro _ _) | with_reducible (extract_lets +onlyGivenNames x; refine (show x.1.Steady s₀ → _ from fun hx => ?_) ?_; (on_goal 2 => unfold x; clear x); clear_value x; revert x; intro _ _) | with_reducible (extract_lets +onlyGivenNames x; refine (show x.2.Steady s₀ → _ from fun hx => ?_) ?_; (on_goal 2 => unfold x; clear x); clear_value x; revert x; intro _ _) | with_reducible (extract_lets +onlyGivenNames x; refine (show (∀ t : State, t.Steady s₀ → (x t).Steady s₀) → _ from fun hx => ?_) ?_; (on_goal 2 => unfold x; clear x; intro t ht; beta_reduce); clear_value x; revert x; intro _ _) | with_reducible (extract_lets +onlyGivenNames x; clear_value x; revert x; intro _) | with_reducible refine done_steady _ _ _ ?_ | with_reducible refine pushOp_steady _ _ ?_ | with_reducible refine giveResult_steady _ _ _ _ _ ?_ | with_reducible refine takeMc_steady _ _ ?_ _ _ (by assumption) | with_reducible refine logReadGo_steady _ _ ?_ | split)

/-! Machine/Clock.lean. -/

theorem setupRejected_steady (s : State) (f : FnId) (hs : s.Steady s₀) : (State.setupRejected s f).Steady s₀ := by
  unfold State.setupRejected; repeat' (first | with_reducible assumption | with_reducible refine logs_steady _ _ _ _ ?_ | split)
theorem setIncr_steady (s : State) (v : W64) (hs : s.Steady s₀) : (State.setIncr s v).Steady s₀ := by
  unfold State.setIncr; repeat' (first | with_reducible assumption | with_reducible (refine upd_steady _ ?_ .. ; with_reducible assumption) | with_reducible refine ite_steady ?_ ?_ | with_reducible (extract_lets +onlyGivenNames x; refine (show x.Steady s₀ → _ from fun hx => ?_) ?_; (on_goal 2 => unfold x; clear x); clear_value x; revert x; intro _ _) | with_reducible (extract_lets +onlyGivenNames x; refine (show x.1.Steady s₀ → _ from fun hx => ?_) ?_; (on_goal 2 => unfold x; clear x); clear_value x; revert x; intro _ _) | with_reducible (extract_lets +onlyGivenNames x; refine (show x.2.Steady s₀ → _ from fun hx => ?_) ?_; (on_goal 2 => unfold x; clear x); clear_value x; revert x; intro _ _) | with_reducible (extract_lets +onlyGivenNames x; refine (show (∀ t : State, t.Steady s₀ → (x t).Steady s₀) → _ from fun hx => ?_) ?_; (on_goal 2 => unfold x; clear x; intro t ht; beta_reduce); clear_value x; revert x; intro _ _) | with_reducible (extract_lets +onlyGivenNames x; clear_value x; revert x; intro _) | with_reducible refine modClock_steady _ _ ?_ rfl rfl rfl | with_reducible refine setupRejected_steady _ _ ?_ | split)
theorem timeChange_steady (s : State) (x : TimeChange) (hs : s.Steady s₀) : (State.timeChange s x).Steady s₀ := by
  unfold State.timeChange; repeat' (first | with_reducible assumption | with_reducible (refine upd_steady _ ?_ .. ; with_reducible assumption) | with_reducible refine ite_steady ?_ ?_ | with_reducible refine modClock_steady _ _ ?_ rfl rfl rfl | with_reducible refine setupRejected_steady _ _ ?_ | split)
theorem execStepGo_steady (force : Bool) (s : State) (hs : s.Steady s₀) : ∀ out, execStepGo force s = .next out → out.Steady s₀ := by
  intro out ht; unfold execStepGo at ht; refine overHost_steady _ _ ?_ hs _ ht; beta_reduce; repeat' (first | with_reducible assumption | with_reducible refine timeChange_steady _ _ ?_ | split)
theorem execSetGo_steady (force : Bool) (s : State) (hs : s.Steady s₀) : ∀ out, execSetGo force s = .next out → out.Steady s₀ := by
  intro out ht; unfold execSetGo at ht; refine overHost_steady _ _ ?_ hs _ ht; beta_reduce; repeat' (first | with_reducible assumption | with_reducible refine timeChange_steady _ _ ?_ | split)
theorem execPtpTimeNs_steady (s : State) (hs : s.Steady s₀) : ∀ out, execPtpTimeNs s = .next out → out.Steady s₀ := by
  intro out ht; unfold execPtpTimeNs at ht; refine overHost_steady _ _ ?_ hs _ ht; beta_reduce; repeat' (first | with_reducible assumption | with_reducible (refine upd_steady _ ?_ .. ; with_reducible assumption) | with_reducible refine modClock_steady _ _ ?_ rfl rfl rfl | split)
theorem execPtpSpTxts0_steady (p : PortId) (s : State) (hs : s.Steady s₀) : ∀ out, execPtpSpTxts0 p s = .next out → out.Steady s₀ := by
  intro out ht; unfold execPtpSpTxts0 State.overHost at ht; grind [modClock_steady, upd_steady, → State.Steady.sram, → State.Steady.host, → State.Steady.flash, → State.Steady.input, → State.Steady.time, → State.Steady.slots, → State.Steady.keys, → State.Steady.queue, → State.Steady.por, Mem.wf_set, Mem.wf_write, Mem.wf_writeAll, Mem.wf_zero]
theorem execPtpPaceCount_steady (thenTime : Bool) (s : State) (hs : s.Steady s₀) : ∀ out, execPtpPaceCount thenTime s = .next out → out.Steady s₀ := by
  intro out ht; unfold execPtpPaceCount at ht; refine overHost_steady _ _ ?_ hs _ ht; beta_reduce; repeat' (first | with_reducible assumption | with_reducible (refine upd_steady _ ?_ .. ; with_reducible assumption) | with_reducible refine ite_steady ?_ ?_ | with_reducible refine modClock_steady _ _ ?_ rfl rfl rfl | split)
theorem execTimeRefFallback_steady (s : State) (hs : s.Steady s₀) : ∀ out, execTimeRefFallback s = .next out → out.Steady s₀ := by
  intro out ht; unfold execTimeRefFallback at ht; (try injection ht with ht); subst ht; repeat' (first | with_reducible assumption | with_reducible (refine upd_steady _ ?_ .. ; with_reducible assumption) | with_reducible refine ite_steady ?_ ?_ | with_reducible refine modClock_steady _ _ ?_ rfl rfl rfl | with_reducible refine logs_steady _ _ _ _ ?_ | split)
theorem execLocalrefReturn_steady (s : State) (hs : s.Steady s₀) : ∀ out, execLocalrefReturn s = .next out → out.Steady s₀ := by
  intro out ht; unfold execLocalrefReturn at ht; (try injection ht with ht); subst ht; repeat' (first | with_reducible assumption | with_reducible (refine upd_steady _ ?_ .. ; with_reducible assumption) | with_reducible refine modPace_steady _ _ ?_ | with_reducible refine modClock_steady _ _ ?_ rfl rfl rfl | split)
theorem execRackrefLost_steady (s : State) (hs : s.Steady s₀) : ∀ out, execRackrefLost s = .next out → out.Steady s₀ := by
  intro out ht; unfold execRackrefLost at ht; (try injection ht with ht); subst ht; repeat' (first | with_reducible assumption | with_reducible (refine upd_steady _ ?_ .. ; with_reducible assumption) | with_reducible refine ite_steady ?_ ?_ | with_reducible (extract_lets +onlyGivenNames x; refine (show x.Steady s₀ → _ from fun hx => ?_) ?_; (on_goal 2 => unfold x; clear x); clear_value x; revert x; intro _ _) | with_reducible (extract_lets +onlyGivenNames x; refine (show x.1.Steady s₀ → _ from fun hx => ?_) ?_; (on_goal 2 => unfold x; clear x); clear_value x; revert x; intro _ _) | with_reducible (extract_lets +onlyGivenNames x; refine (show x.2.Steady s₀ → _ from fun hx => ?_) ?_; (on_goal 2 => unfold x; clear x); clear_value x; revert x; intro _ _) | with_reducible (extract_lets +onlyGivenNames x; refine (show (∀ t : State, t.Steady s₀ → (x t).Steady s₀) → _ from fun hx => ?_) ?_; (on_goal 2 => unfold x; clear x; intro t ht; beta_reduce); clear_value x; revert x; intro _ _) | with_reducible (extract_lets +onlyGivenNames x; clear_value x; revert x; intro _) | with_reducible refine modPace_steady _ _ ?_ | with_reducible refine logs_steady _ _ _ _ ?_ | split)
theorem execRackrefRestored_steady (s : State) (hs : s.Steady s₀) : ∀ out, execRackrefRestored s = .next out → out.Steady s₀ := by
  intro out ht; unfold execRackrefRestored at ht; (try injection ht with ht); subst ht; repeat' (first | with_reducible assumption | with_reducible (refine upd_steady _ ?_ .. ; with_reducible assumption) | with_reducible refine ite_steady ?_ ?_ | with_reducible refine modPace_steady _ _ ?_ | split)
theorem execRefsLost_steady (s : State) (hs : s.Steady s₀) : ∀ out, execRefsLost s = .next out → out.Steady s₀ := by
  intro out ht; unfold execRefsLost at ht; (try injection ht with ht); subst ht; repeat' (first | with_reducible assumption | with_reducible (refine upd_steady _ ?_ .. ; with_reducible assumption) | with_reducible refine ite_steady ?_ ?_ | with_reducible refine modPace_steady _ _ ?_ | with_reducible refine packageFault_steady _ _ ?_ | split)

/-! Machine/Rings.lean. -/

theorem checkFallback_steady (s : State) (f : FnId) (hs : s.Steady s₀) : (State.checkFallback s f).Steady s₀ := by
  unfold State.checkFallback; repeat' (first | with_reducible assumption | with_reducible (refine upd_steady _ ?_ .. ; with_reducible assumption) | with_reducible refine ite_steady ?_ ?_ | with_reducible (extract_lets +onlyGivenNames x; refine (show x.Steady s₀ → _ from fun hx => ?_) ?_; (on_goal 2 => unfold x; clear x); clear_value x; revert x; intro _ _) | with_reducible (extract_lets +onlyGivenNames x; refine (show x.1.Steady s₀ → _ from fun hx => ?_) ?_; (on_goal 2 => unfold x; clear x); clear_value x; revert x; intro _ _) | with_reducible (extract_lets +onlyGivenNames x; refine (show x.2.Steady s₀ → _ from fun hx => ?_) ?_; (on_goal 2 => unfold x; clear x); clear_value x; revert x; intro _ _) | with_reducible (extract_lets +onlyGivenNames x; refine (show (∀ t : State, t.Steady s₀ → (x t).Steady s₀) → _ from fun hx => ?_) ?_; (on_goal 2 => unfold x; clear x; intro t ht; beta_reduce); clear_value x; revert x; intro _ _) | with_reducible (extract_lets +onlyGivenNames x; clear_value x; revert x; intro _) | with_reducible refine modFn_steady _ _ _ ?_ | with_reducible refine logs_steady _ _ _ _ ?_ | split)
theorem sqEnable_steady (s : State) (f : FnId) (n : RingIx) (hs : s.Steady s₀) : (State.sqEnable s f n).Steady s₀ := by
  unfold State.sqEnable; repeat' (first | with_reducible assumption | with_reducible (refine upd_steady _ ?_ .. ; with_reducible assumption) | with_reducible refine ite_steady ?_ ?_ | with_reducible (extract_lets +onlyGivenNames x; refine (show x.Steady s₀ → _ from fun hx => ?_) ?_; (on_goal 2 => unfold x; clear x); clear_value x; revert x; intro _ _) | with_reducible (extract_lets +onlyGivenNames x; refine (show x.1.Steady s₀ → _ from fun hx => ?_) ?_; (on_goal 2 => unfold x; clear x); clear_value x; revert x; intro _ _) | with_reducible (extract_lets +onlyGivenNames x; refine (show x.2.Steady s₀ → _ from fun hx => ?_) ?_; (on_goal 2 => unfold x; clear x); clear_value x; revert x; intro _ _) | with_reducible (extract_lets +onlyGivenNames x; refine (show (∀ t : State, t.Steady s₀ → (x t).Steady s₀) → _ from fun hx => ?_) ?_; (on_goal 2 => unfold x; clear x; intro t ht; beta_reduce); clear_value x; revert x; intro _ _) | with_reducible (extract_lets +onlyGivenNames x; clear_value x; revert x; intro _) | with_reducible refine logs_steady _ _ _ _ ?_ | with_reducible refine shareLine_steady _ _ _ ?_ | with_reducible refine sqStatus_steady _ _ _ ?_ | with_reducible refine modSq_steady _ _ _ _ ?_ | split)
theorem cqEnable_steady (s : State) (f : FnId) (n : RingIx) (hs : s.Steady s₀) : (State.cqEnable s f n).Steady s₀ := by
  unfold State.cqEnable; repeat' (first | with_reducible assumption | with_reducible (refine upd_steady _ ?_ .. ; with_reducible assumption) | with_reducible refine ite_steady ?_ ?_ | with_reducible (extract_lets +onlyGivenNames x; refine (show x.Steady s₀ → _ from fun hx => ?_) ?_; (on_goal 2 => unfold x; clear x); clear_value x; revert x; intro _ _) | with_reducible (extract_lets +onlyGivenNames x; refine (show x.1.Steady s₀ → _ from fun hx => ?_) ?_; (on_goal 2 => unfold x; clear x); clear_value x; revert x; intro _ _) | with_reducible (extract_lets +onlyGivenNames x; refine (show x.2.Steady s₀ → _ from fun hx => ?_) ?_; (on_goal 2 => unfold x; clear x); clear_value x; revert x; intro _ _) | with_reducible (extract_lets +onlyGivenNames x; refine (show (∀ t : State, t.Steady s₀ → (x t).Steady s₀) → _ from fun hx => ?_) ?_; (on_goal 2 => unfold x; clear x; intro t ht; beta_reduce); clear_value x; revert x; intro _ _) | with_reducible (extract_lets +onlyGivenNames x; clear_value x; revert x; intro _) | with_reducible refine logs_steady _ _ _ _ ?_ | with_reducible refine shareLine_steady _ _ _ ?_ | with_reducible refine cqStatus_steady _ _ _ ?_ | with_reducible refine modCq_steady _ _ _ _ ?_ | with_reducible refine drainCq_steady _ _ _ _ ?_ | split)
theorem execRingSqEnable_steady (f : FnId) (n : RingIx) (writes : HostWrites) (s : State) (hs : s.Steady s₀) : ∀ out, execRingSqEnable f n writes s = .next out → out.Steady s₀ := by
  intro out ht; unfold execRingSqEnable at ht; refine overHost_steady _ _ ?_ hs _ ht; beta_reduce; repeat' (first | with_reducible assumption | with_reducible refine hostWrote_steady _ _ ?_ | with_reducible refine sqEnable_steady _ _ _ ?_ | split)
theorem execRingCqEnable_steady (f : FnId) (n : RingIx) (writes : HostWrites) (s : State) (hs : s.Steady s₀) : ∀ out, execRingCqEnable f n writes s = .next out → out.Steady s₀ := by
  intro out ht; unfold execRingCqEnable at ht; refine overHost_steady _ _ ?_ hs _ ht; beta_reduce; repeat' (first | with_reducible assumption | with_reducible refine hostWrote_steady _ _ ?_ | with_reducible refine cqEnable_steady _ _ _ ?_ | split)
theorem sqDisable_steady (s : State) (f : FnId) (n : RingIx) (hs : s.Steady s₀) : (State.sqDisable s f n).Steady s₀ := by
  unfold State.sqDisable; repeat' (first | with_reducible assumption | with_reducible (refine upd_steady _ ?_ .. ; with_reducible assumption) | with_reducible refine ite_steady ?_ ?_ | with_reducible (extract_lets +onlyGivenNames x; refine (show x.Steady s₀ → _ from fun hx => ?_) ?_; (on_goal 2 => unfold x; clear x); clear_value x; revert x; intro _ _) | with_reducible (extract_lets +onlyGivenNames x; refine (show x.1.Steady s₀ → _ from fun hx => ?_) ?_; (on_goal 2 => unfold x; clear x); clear_value x; revert x; intro _ _) | with_reducible (extract_lets +onlyGivenNames x; refine (show x.2.Steady s₀ → _ from fun hx => ?_) ?_; (on_goal 2 => unfold x; clear x); clear_value x; revert x; intro _ _) | with_reducible (extract_lets +onlyGivenNames x; refine (show (∀ t : State, t.Steady s₀ → (x t).Steady s₀) → _ from fun hx => ?_) ?_; (on_goal 2 => unfold x; clear x; intro t ht; beta_reduce); clear_value x; revert x; intro _ _) | with_reducible (extract_lets +onlyGivenNames x; clear_value x; revert x; intro _) | with_reducible refine foldl_steady _ _ _ ?_ (fun _ _ _ => ?_) | with_reducible refine modMgt_steady _ _ ?_ rfl | with_reducible refine modHiu_steady _ _ ?_ | with_reducible refine dropLines_steady _ ?_ | with_reducible refine modSq_steady _ _ _ _ ?_ | with_reducible refine sqSettle_steady _ _ _ ?_ | with_reducible refine done_steady _ _ _ ?_ | split)
theorem cqDisable_steady (s : State) (f : FnId) (n : RingIx) (hs : s.Steady s₀) : (State.cqDisable s f n).Steady s₀ := by
  unfold State.cqDisable; repeat' (first | with_reducible assumption | with_reducible (refine upd_steady _ ?_ .. ; with_reducible assumption) | with_reducible refine ite_steady ?_ ?_ | with_reducible refine logs_steady _ _ _ _ ?_ | with_reducible refine dropLines_steady _ ?_ | with_reducible refine modCq_steady _ _ _ _ ?_ | split)
theorem execRingSqDisable_steady (f : FnId) (n : RingIx) (s : State) (hs : s.Steady s₀) : ∀ out, execRingSqDisable f n s = .next out → out.Steady s₀ := by
  intro out ht; unfold execRingSqDisable at ht; refine overHost_steady _ _ ?_ hs _ ht; beta_reduce; repeat' (first | with_reducible assumption | with_reducible refine sqDisable_steady _ _ _ ?_ | split)
theorem execRingCqDisable_steady (f : FnId) (n : RingIx) (s : State) (hs : s.Steady s₀) : ∀ out, execRingCqDisable f n s = .next out → out.Steady s₀ := by
  intro out ht; unfold execRingCqDisable at ht; refine overHost_steady _ _ ?_ hs _ ht; beta_reduce; repeat' (first | with_reducible assumption | with_reducible refine cqDisable_steady _ _ _ ?_ | split)
theorem readSqLine_steady (s : State) (f : FnId) (n : RingIx) (hs : s.Steady s₀) : (State.readSqLine s f n).Steady s₀ := by
  unfold State.readSqLine; repeat' (first | with_reducible assumption | with_reducible (refine upd_steady _ ?_ .. ; with_reducible assumption) | with_reducible refine ite_steady ?_ ?_ | with_reducible (extract_lets +onlyGivenNames x; refine (show x.Steady s₀ → _ from fun hx => ?_) ?_; (on_goal 2 => unfold x; clear x); clear_value x; revert x; intro _ _) | with_reducible (extract_lets +onlyGivenNames x; refine (show x.1.Steady s₀ → _ from fun hx => ?_) ?_; (on_goal 2 => unfold x; clear x); clear_value x; revert x; intro _ _) | with_reducible (extract_lets +onlyGivenNames x; refine (show x.2.Steady s₀ → _ from fun hx => ?_) ?_; (on_goal 2 => unfold x; clear x); clear_value x; revert x; intro _ _) | with_reducible (extract_lets +onlyGivenNames x; refine (show (∀ t : State, t.Steady s₀ → (x t).Steady s₀) → _ from fun hx => ?_) ?_; (on_goal 2 => unfold x; clear x; intro t ht; beta_reduce); clear_value x; revert x; intro _ _) | with_reducible (extract_lets +onlyGivenNames x; clear_value x; revert x; intro _) | with_reducible refine logs_steady _ _ _ _ ?_ | with_reducible refine shareLine_steady _ _ _ ?_ | with_reducible refine sqStatus_steady _ _ _ ?_ | with_reducible refine modSq_steady _ _ _ _ ?_ | split)
theorem readCqLine_steady (s : State) (f : FnId) (n : RingIx) (hs : s.Steady s₀) : (State.readCqLine s f n).Steady s₀ := by
  unfold State.readCqLine; repeat' (first | with_reducible assumption | with_reducible (refine upd_steady _ ?_ .. ; with_reducible assumption) | with_reducible refine ite_steady ?_ ?_ | with_reducible (extract_lets +onlyGivenNames x; refine (show x.Steady s₀ → _ from fun hx => ?_) ?_; (on_goal 2 => unfold x; clear x); clear_value x; revert x; intro _ _) | with_reducible (extract_lets +onlyGivenNames x; refine (show x.1.Steady s₀ → _ from fun hx => ?_) ?_; (on_goal 2 => unfold x; clear x); clear_value x; revert x; intro _ _) | with_reducible (extract_lets +onlyGivenNames x; refine (show x.2.Steady s₀ → _ from fun hx => ?_) ?_; (on_goal 2 => unfold x; clear x); clear_value x; revert x; intro _ _) | with_reducible (extract_lets +onlyGivenNames x; refine (show (∀ t : State, t.Steady s₀ → (x t).Steady s₀) → _ from fun hx => ?_) ?_; (on_goal 2 => unfold x; clear x; intro t ht; beta_reduce); clear_value x; revert x; intro _ _) | with_reducible (extract_lets +onlyGivenNames x; clear_value x; revert x; intro _) | with_reducible refine logs_steady _ _ _ _ ?_ | with_reducible refine shareLine_steady _ _ _ ?_ | with_reducible refine modCq_steady _ _ _ _ ?_ | with_reducible refine drainCq_steady _ _ _ _ ?_ | split)
theorem readLine_steady (s : State) (f : FnId) (completion : Bool) (n : RingIx) (hs : s.Steady s₀) : (State.readLine s f completion n).Steady s₀ := by
  unfold State.readLine; repeat' (first | with_reducible assumption | with_reducible refine ite_steady ?_ ?_ | with_reducible refine readSqLine_steady _ _ _ ?_ | with_reducible refine readCqLine_steady _ _ _ ?_ | split)
theorem execDoorbellSnoop_steady (f : FnId) (completion : Bool) (n : RingIx) (writes : HostWrites) (s : State) (hs : s.Steady s₀) : ∀ out, execDoorbellSnoop f completion n writes s = .next out → out.Steady s₀ := by
  intro out ht; unfold execDoorbellSnoop at ht; (try injection ht with ht); subst ht; repeat' (first | with_reducible assumption | with_reducible (refine upd_steady _ ?_ .. ; with_reducible assumption) | with_reducible refine ite_steady ?_ ?_ | with_reducible (extract_lets +onlyGivenNames x; refine (show x.Steady s₀ → _ from fun hx => ?_) ?_; (on_goal 2 => unfold x; clear x); clear_value x; revert x; intro _ _) | with_reducible (extract_lets +onlyGivenNames x; refine (show x.1.Steady s₀ → _ from fun hx => ?_) ?_; (on_goal 2 => unfold x; clear x); clear_value x; revert x; intro _ _) | with_reducible (extract_lets +onlyGivenNames x; refine (show x.2.Steady s₀ → _ from fun hx => ?_) ?_; (on_goal 2 => unfold x; clear x); clear_value x; revert x; intro _ _) | with_reducible (extract_lets +onlyGivenNames x; refine (show (∀ t : State, t.Steady s₀ → (x t).Steady s₀) → _ from fun hx => ?_) ?_; (on_goal 2 => unfold x; clear x; intro t ht; beta_reduce); clear_value x; revert x; intro _ _) | with_reducible (extract_lets +onlyGivenNames x; clear_value x; revert x; intro _) | with_reducible refine modHiu_steady _ _ ?_ | with_reducible refine hostWrote_steady _ _ ?_ | with_reducible refine readLine_steady _ _ _ _ ?_ | split)
theorem takeLines_steady (s : State) (f : FnId) (hs : s.Steady s₀) : (State.takeLines s f).Steady s₀ := by
  unfold State.takeLines; repeat' (first | with_reducible assumption | with_reducible refine ite_steady ?_ ?_ | with_reducible (extract_lets +onlyGivenNames x; refine (show x.Steady s₀ → _ from fun hx => ?_) ?_; (on_goal 2 => unfold x; clear x); clear_value x; revert x; intro _ _) | with_reducible (extract_lets +onlyGivenNames x; refine (show x.1.Steady s₀ → _ from fun hx => ?_) ?_; (on_goal 2 => unfold x; clear x); clear_value x; revert x; intro _ _) | with_reducible (extract_lets +onlyGivenNames x; refine (show x.2.Steady s₀ → _ from fun hx => ?_) ?_; (on_goal 2 => unfold x; clear x); clear_value x; revert x; intro _ _) | with_reducible (extract_lets +onlyGivenNames x; refine (show (∀ t : State, t.Steady s₀ → (x t).Steady s₀) → _ from fun hx => ?_) ?_; (on_goal 2 => unfold x; clear x; intro t ht; beta_reduce); clear_value x; revert x; intro _ _) | with_reducible (extract_lets +onlyGivenNames x; clear_value x; revert x; intro _) | with_reducible refine foldl_steady _ _ _ ?_ (fun _ _ _ => ?_) | with_reducible refine dropLines_steady _ ?_ | with_reducible refine checkFallback_steady _ _ ?_ | with_reducible refine readSqLine_steady _ _ _ ?_ | with_reducible refine readCqLine_steady _ _ _ ?_ | split)
theorem execDoorbellPoll_steady (f : FnId) (completion : Bool) (n : RingIx) (writes : HostWrites) (s : State) (hs : s.Steady s₀) : ∀ out, execDoorbellPoll f completion n writes s = .next out → out.Steady s₀ := by
  intro out ht; unfold execDoorbellPoll at ht; (try injection ht with ht); subst ht; repeat' (first | with_reducible assumption | with_reducible refine ite_steady ?_ ?_ | with_reducible (extract_lets +onlyGivenNames x; refine (show x.Steady s₀ → _ from fun hx => ?_) ?_; (on_goal 2 => unfold x; clear x); clear_value x; revert x; intro _ _) | with_reducible (extract_lets +onlyGivenNames x; refine (show x.1.Steady s₀ → _ from fun hx => ?_) ?_; (on_goal 2 => unfold x; clear x); clear_value x; revert x; intro _ _) | with_reducible (extract_lets +onlyGivenNames x; refine (show x.2.Steady s₀ → _ from fun hx => ?_) ?_; (on_goal 2 => unfold x; clear x); clear_value x; revert x; intro _ _) | with_reducible (extract_lets +onlyGivenNames x; refine (show (∀ t : State, t.Steady s₀ → (x t).Steady s₀) → _ from fun hx => ?_) ?_; (on_goal 2 => unfold x; clear x; intro t ht; beta_reduce); clear_value x; revert x; intro _ _) | with_reducible (extract_lets +onlyGivenNames x; clear_value x; revert x; intro _) | with_reducible refine hostWrote_steady _ _ ?_ | with_reducible refine readLine_steady _ _ _ _ ?_ | split)
theorem deliver_steady (s : State) (d : Desc) (hs : s.Steady s₀) : (State.deliver s d).Steady s₀ := by
  unfold State.deliver; repeat' (first | with_reducible assumption | with_reducible (refine upd_steady _ ?_ .. ; with_reducible assumption) | with_reducible refine ite_steady ?_ ?_ | with_reducible refine modHiu_steady _ _ ?_ | with_reducible refine done_steady _ _ _ ?_ | split)
theorem dispatchSq_steady (s : State) (f : FnId) (n : RingIx) (k : Nat) (hs : s.Steady s₀) : (s.dispatchSq f n k).Steady s₀ := by
  induction k generalizing s with
  | zero => exact hs
  | succ k ih => unfold State.dispatchSq; grind [modSq_steady, deliver_steady]
theorem fetchSq_steady (s : State) (f : FnId) (n : RingIx) (k : Nat) (hs : s.Steady s₀) : (s.fetchSq f n k).Steady s₀ := by
  induction k generalizing s with
  | zero => exact hs
  | succ k ih => unfold State.fetchSq; grind [modSq_steady, logs_steady, postCq_steady, sqStatus_steady]
theorem turnPast_steady (s : State) (f : FnId) (n : RingIx) (hs : s.Steady s₀) : (State.turnPast s f n).Steady s₀ := by
  unfold State.turnPast; repeat' (first | with_reducible assumption | with_reducible (refine upd_steady _ ?_ .. ; with_reducible assumption) | with_reducible refine modFn_steady _ _ _ ?_ | with_reducible refine modHiu_steady _ _ ?_ | split)
theorem fetchTurn_steady (s : State) (f : FnId) (n : RingIx) (hs : s.Steady s₀) : (State.fetchTurn s f n).Steady s₀ := by
  unfold State.fetchTurn; repeat' (first | with_reducible assumption | with_reducible refine ite_steady ?_ ?_ | with_reducible (extract_lets +onlyGivenNames x; refine (show x.Steady s₀ → _ from fun hx => ?_) ?_; (on_goal 2 => unfold x; clear x); clear_value x; revert x; intro _ _) | with_reducible (extract_lets +onlyGivenNames x; refine (show x.1.Steady s₀ → _ from fun hx => ?_) ?_; (on_goal 2 => unfold x; clear x); clear_value x; revert x; intro _ _) | with_reducible (extract_lets +onlyGivenNames x; refine (show x.2.Steady s₀ → _ from fun hx => ?_) ?_; (on_goal 2 => unfold x; clear x); clear_value x; revert x; intro _ _) | with_reducible (extract_lets +onlyGivenNames x; refine (show (∀ t : State, t.Steady s₀ → (x t).Steady s₀) → _ from fun hx => ?_) ?_; (on_goal 2 => unfold x; clear x; intro t ht; beta_reduce); clear_value x; revert x; intro _ _) | with_reducible (extract_lets +onlyGivenNames x; clear_value x; revert x; intro _) | with_reducible refine sqStatus_steady _ _ _ ?_ | with_reducible refine fetchSq_steady _ _ _ _ ?_ | with_reducible refine turnPast_steady _ _ _ ?_ | split)
theorem execDescriptorFetch_steady (f : FnId) (n : RingIx) (s : State) (hs : s.Steady s₀) : ∀ out, execDescriptorFetch f n s = .next out → out.Steady s₀ := by
  intro out ht; unfold execDescriptorFetch at ht; (try injection ht with ht); subst ht; repeat' (first | with_reducible assumption | with_reducible refine ite_steady ?_ ?_ | with_reducible (extract_lets +onlyGivenNames x; refine (show x.Steady s₀ → _ from fun hx => ?_) ?_; (on_goal 2 => unfold x; clear x); clear_value x; revert x; intro _ _) | with_reducible (extract_lets +onlyGivenNames x; refine (show x.1.Steady s₀ → _ from fun hx => ?_) ?_; (on_goal 2 => unfold x; clear x); clear_value x; revert x; intro _ _) | with_reducible (extract_lets +onlyGivenNames x; refine (show x.2.Steady s₀ → _ from fun hx => ?_) ?_; (on_goal 2 => unfold x; clear x); clear_value x; revert x; intro _ _) | with_reducible (extract_lets +onlyGivenNames x; refine (show (∀ t : State, t.Steady s₀ → (x t).Steady s₀) → _ from fun hx => ?_) ?_; (on_goal 2 => unfold x; clear x; intro t ht; beta_reduce); clear_value x; revert x; intro _ _) | with_reducible (extract_lets +onlyGivenNames x; clear_value x; revert x; intro _) | with_reducible refine retryHeld_steady _ _ _ ?_ | with_reducible refine dispatchSq_steady _ _ _ _ ?_ | with_reducible refine fetchTurn_steady _ _ _ ?_ | split)
theorem execInterruptDelay_steady (f : FnId) (n : RingIx) (s : State) (hs : s.Steady s₀) : ∀ out, execInterruptDelay f n s = .next out → out.Steady s₀ := by
  intro out ht; unfold execInterruptDelay at ht; (try injection ht with ht); subst ht; repeat' (first | with_reducible assumption | with_reducible (refine upd_steady _ ?_ .. ; with_reducible assumption) | with_reducible refine ite_steady ?_ ?_ | with_reducible (extract_lets +onlyGivenNames x; refine (show x.Steady s₀ → _ from fun hx => ?_) ?_; (on_goal 2 => unfold x; clear x); clear_value x; revert x; intro _ _) | with_reducible (extract_lets +onlyGivenNames x; refine (show x.1.Steady s₀ → _ from fun hx => ?_) ?_; (on_goal 2 => unfold x; clear x); clear_value x; revert x; intro _ _) | with_reducible (extract_lets +onlyGivenNames x; refine (show x.2.Steady s₀ → _ from fun hx => ?_) ?_; (on_goal 2 => unfold x; clear x); clear_value x; revert x; intro _ _) | with_reducible (extract_lets +onlyGivenNames x; refine (show (∀ t : State, t.Steady s₀ → (x t).Steady s₀) → _ from fun hx => ?_) ?_; (on_goal 2 => unfold x; clear x; intro t ht; beta_reduce); clear_value x; revert x; intro _ _) | with_reducible (extract_lets +onlyGivenNames x; clear_value x; revert x; intro _) | with_reducible refine msix_steady _ _ _ ?_ | with_reducible refine modCq_steady _ _ _ _ ?_ | split)

/-! Machine/Ports.lean. -/

theorem modPort_steady (s : State) (p : PortId) (g : SvcPort → SvcPort) (hs : s.Steady s₀) : (State.modPort s p g).Steady s₀ := by
  unfold State.modPort; repeat' (first | with_reducible assumption | with_reducible (refine upd_steady _ ?_ .. ; with_reducible assumption) | with_reducible refine modSvc_steady _ _ ?_ | split)
theorem portDown_steady (s : State) (p : PortId) (k : SubPort) (hs : s.Steady s₀) : (State.portDown s p k).Steady s₀ := by
  unfold State.portDown; repeat' (first | with_reducible assumption | with_reducible (refine upd_steady _ ?_ .. ; with_reducible assumption) | with_reducible refine ite_steady ?_ ?_ | with_reducible refine logs_steady _ _ _ _ ?_ | with_reducible refine modPort_steady _ _ _ ?_ | split)
theorem execSvcPortUp_steady (p : PortId) (sub : SubPort) (s : State) (hs : s.Steady s₀) : ∀ out, execSvcPortUp p sub s = .next out → out.Steady s₀ := by
  intro out ht; unfold execSvcPortUp at ht; (try injection ht with ht); subst ht; repeat' (first | with_reducible assumption | with_reducible (refine upd_steady _ ?_ .. ; with_reducible assumption) | with_reducible refine ite_steady ?_ ?_ | with_reducible refine logs_steady _ _ _ _ ?_ | with_reducible refine modPort_steady _ _ _ ?_ | split)
theorem execSvcPortDown_steady (p : PortId) (sub : SubPort) (s : State) (hs : s.Steady s₀) : ∀ out, execSvcPortDown p sub s = .next out → out.Steady s₀ := by
  intro out ht; unfold execSvcPortDown at ht; (try injection ht with ht); subst ht; repeat' (first | with_reducible assumption | with_reducible refine portDown_steady _ _ _ ?_ | split)
theorem execPauseExpiry_steady (p : PortId) (sub : SubPort) (s : State) (hs : s.Steady s₀) : ∀ out, execPauseExpiry p sub s = .next out → out.Steady s₀ := by
  intro out ht; unfold execPauseExpiry at ht; (try injection ht with ht); subst ht; repeat' (first | with_reducible assumption | with_reducible (refine upd_steady _ ?_ .. ; with_reducible assumption) | with_reducible refine modPort_steady _ _ _ ?_ | split)
theorem svcCtrl_steady (s : State) (p : PortId) (v : W32) (hs : s.Steady s₀) : (State.svcCtrl s p v).Steady s₀ := by
  unfold State.svcCtrl; repeat' (first | with_reducible assumption | with_reducible (refine upd_steady _ ?_ .. ; with_reducible assumption) | with_reducible refine ite_steady ?_ ?_ | with_reducible (extract_lets +onlyGivenNames x; refine (show x.Steady s₀ → _ from fun hx => ?_) ?_; (on_goal 2 => unfold x; clear x); clear_value x; revert x; intro _ _) | with_reducible (extract_lets +onlyGivenNames x; refine (show x.1.Steady s₀ → _ from fun hx => ?_) ?_; (on_goal 2 => unfold x; clear x); clear_value x; revert x; intro _ _) | with_reducible (extract_lets +onlyGivenNames x; refine (show x.2.Steady s₀ → _ from fun hx => ?_) ?_; (on_goal 2 => unfold x; clear x); clear_value x; revert x; intro _ _) | with_reducible (extract_lets +onlyGivenNames x; refine (show (∀ t : State, t.Steady s₀ → (x t).Steady s₀) → _ from fun hx => ?_) ?_; (on_goal 2 => unfold x; clear x; intro t ht; beta_reduce); clear_value x; revert x; intro _ _) | with_reducible (extract_lets +onlyGivenNames x; clear_value x; revert x; intro _) | with_reducible refine foldl_steady _ _ _ ?_ (fun _ _ _ => ?_) | with_reducible refine modSvc_steady _ _ ?_ | with_reducible refine logs_steady _ _ _ _ ?_ | with_reducible refine setupRejected_steady _ _ ?_ | with_reducible refine modPort_steady _ _ _ ?_ | with_reducible refine portDown_steady _ _ _ ?_ | with_reducible refine regLocked_steady _ _ ?_ | split)
theorem execSvcSpMode_steady (p : PortId) (v : W32) (s : State) (hs : s.Steady s₀) : ∀ out, execSvcSpMode p v s = .next out → out.Steady s₀ := by
  intro out ht; unfold execSvcSpMode at ht; refine overHost_steady _ _ ?_ hs _ ht; beta_reduce; repeat' (first | with_reducible assumption | with_reducible refine svcCtrl_steady _ _ _ ?_ | split)
theorem modTring_steady (s : State) (n : TRingId) (g : TRing → TRing) (hs : s.Steady s₀) : (State.modTring s n g).Steady s₀ := by
  unfold State.modTring; repeat' (first | with_reducible assumption | with_reducible (refine upd_steady _ ?_ .. ; with_reducible assumption) | with_reducible refine modSvc_steady _ _ ?_ | split)
theorem tringStatus_steady (s : State) (n : TRingId) (hs : s.Steady s₀) : (State.tringStatus s n).Steady s₀ := by
  unfold State.tringStatus; repeat' (first | with_reducible assumption | with_reducible (extract_lets +onlyGivenNames x; refine (show x.Steady s₀ → _ from fun hx => ?_) ?_; (on_goal 2 => unfold x; clear x); clear_value x; revert x; intro _ _) | with_reducible (extract_lets +onlyGivenNames x; refine (show x.1.Steady s₀ → _ from fun hx => ?_) ?_; (on_goal 2 => unfold x; clear x); clear_value x; revert x; intro _ _) | with_reducible (extract_lets +onlyGivenNames x; refine (show x.2.Steady s₀ → _ from fun hx => ?_) ?_; (on_goal 2 => unfold x; clear x); clear_value x; revert x; intro _ _) | with_reducible (extract_lets +onlyGivenNames x; refine (show (∀ t : State, t.Steady s₀ → (x t).Steady s₀) → _ from fun hx => ?_) ?_; (on_goal 2 => unfold x; clear x; intro t ht; beta_reduce); clear_value x; revert x; intro _ _) | with_reducible (extract_lets +onlyGivenNames x; clear_value x; revert x; intro _) | with_reducible refine hostWrite_steady _ _ _ ?_ | split)
theorem tringBad_steady (s : State) (n : TRingId) (st : Byte) (hs : s.Steady s₀) : (State.tringBad s n st).Steady s₀ := by
  unfold State.tringBad; repeat' (first | with_reducible assumption | with_reducible (refine upd_steady _ ?_ .. ; with_reducible assumption) | with_reducible refine hand_steady _ _ _ _ _ ?_ | with_reducible refine modTring_steady _ _ _ ?_ | split)
theorem tringGo_steady (s : State) (n : TRingId) (root : W64) (hs : s.Steady s₀) : (State.tringGo s n root).Steady s₀ := by
  unfold State.tringGo; repeat' (first | with_reducible assumption | with_reducible (refine upd_steady _ ?_ .. ; with_reducible assumption) | with_reducible (extract_lets +onlyGivenNames x; refine (show x.Steady s₀ → _ from fun hx => ?_) ?_; (on_goal 2 => unfold x; clear x); clear_value x; revert x; intro _ _) | with_reducible (extract_lets +onlyGivenNames x; refine (show x.1.Steady s₀ → _ from fun hx => ?_) ?_; (on_goal 2 => unfold x; clear x); clear_value x; revert x; intro _ _) | with_reducible (extract_lets +onlyGivenNames x; refine (show x.2.Steady s₀ → _ from fun hx => ?_) ?_; (on_goal 2 => unfold x; clear x); clear_value x; revert x; intro _ _) | with_reducible (extract_lets +onlyGivenNames x; refine (show (∀ t : State, t.Steady s₀ → (x t).Steady s₀) → _ from fun hx => ?_) ?_; (on_goal 2 => unfold x; clear x; intro t ht; beta_reduce); clear_value x; revert x; intro _ _) | with_reducible (extract_lets +onlyGivenNames x; clear_value x; revert x; intro _) | with_reducible refine draw_steady _ ?_ | with_reducible refine draw_steadyE ?_ (by assumption) | with_reducible refine writeHeader_steady _ _ _ _ _ _ _ _ _ ?_ | with_reducible refine modTring_steady _ _ _ ?_ | with_reducible refine tringStatus_steady _ _ ?_ | with_reducible refine tringBad_steady _ _ _ ?_ | split)
theorem tringEnable_steady (s : State) (n : TRingId) (hs : s.Steady s₀) : (State.tringEnable s n).Steady s₀ := by
  unfold State.tringEnable; repeat' (first | with_reducible assumption | with_reducible refine ite_steady ?_ ?_ | with_reducible (extract_lets +onlyGivenNames x; refine (show x.Steady s₀ → _ from fun hx => ?_) ?_; (on_goal 2 => unfold x; clear x); clear_value x; revert x; intro _ _) | with_reducible (extract_lets +onlyGivenNames x; refine (show x.1.Steady s₀ → _ from fun hx => ?_) ?_; (on_goal 2 => unfold x; clear x); clear_value x; revert x; intro _ _) | with_reducible (extract_lets +onlyGivenNames x; refine (show x.2.Steady s₀ → _ from fun hx => ?_) ?_; (on_goal 2 => unfold x; clear x); clear_value x; revert x; intro _ _) | with_reducible (extract_lets +onlyGivenNames x; refine (show (∀ t : State, t.Steady s₀ → (x t).Steady s₀) → _ from fun hx => ?_) ?_; (on_goal 2 => unfold x; clear x; intro t ht; beta_reduce); clear_value x; revert x; intro _ _) | with_reducible (extract_lets +onlyGivenNames x; clear_value x; revert x; intro _) | with_reducible refine keepWait_steady _ _ ?_ | with_reducible refine tringBad_steady _ _ _ ?_ | with_reducible refine tringGo_steady _ _ _ ?_ | split)
theorem tringDisable_steady (s : State) (n : TRingId) (hs : s.Steady s₀) : (State.tringDisable s n).Steady s₀ := by
  unfold State.tringDisable; repeat' (first | with_reducible assumption | with_reducible (refine upd_steady _ ?_ .. ; with_reducible assumption) | with_reducible refine ite_steady ?_ ?_ | with_reducible (extract_lets +onlyGivenNames x; refine (show x.Steady s₀ → _ from fun hx => ?_) ?_; (on_goal 2 => unfold x; clear x); clear_value x; revert x; intro _ _) | with_reducible (extract_lets +onlyGivenNames x; refine (show x.1.Steady s₀ → _ from fun hx => ?_) ?_; (on_goal 2 => unfold x; clear x); clear_value x; revert x; intro _ _) | with_reducible (extract_lets +onlyGivenNames x; refine (show x.2.Steady s₀ → _ from fun hx => ?_) ?_; (on_goal 2 => unfold x; clear x); clear_value x; revert x; intro _ _) | with_reducible (extract_lets +onlyGivenNames x; refine (show (∀ t : State, t.Steady s₀ → (x t).Steady s₀) → _ from fun hx => ?_) ?_; (on_goal 2 => unfold x; clear x; intro t ht; beta_reduce); clear_value x; revert x; intro _ _) | with_reducible (extract_lets +onlyGivenNames x; clear_value x; revert x; intro _) | with_reducible refine draw_steady _ ?_ | with_reducible refine draw_steadyE ?_ (by assumption) | with_reducible refine writeHeader_steady _ _ _ _ _ _ _ _ _ ?_ | with_reducible refine endWait_steady _ _ ?_ | with_reducible refine modTring_steady _ _ _ ?_ | split)
theorem execSvcTringEnable_steady (n : TRingId) (s : State) (hs : s.Steady s₀) : ∀ out, execSvcTringEnable n s = .next out → out.Steady s₀ := by
  intro out ht; unfold execSvcTringEnable at ht; refine overHost_steady _ _ ?_ hs _ ht; beta_reduce; repeat' (first | with_reducible assumption | with_reducible refine tringEnable_steady _ _ ?_ | split)
theorem execSvcTringDisable_steady (n : TRingId) (s : State) (hs : s.Steady s₀) : ∀ out, execSvcTringDisable n s = .next out → out.Steady s₀ := by
  intro out ht; unfold execSvcTringDisable at ht; refine overHost_steady _ _ ?_ hs _ ht; beta_reduce; repeat' (first | with_reducible assumption | with_reducible refine tringDisable_steady _ _ ?_ | split)
theorem modTx_steady (s : State) (g : Sq → Sq) (hs : s.Steady s₀) : (State.modTx s g).Steady s₀ := by
  unfold State.modTx; repeat' (first | with_reducible assumption | with_reducible (refine upd_steady _ ?_ .. ; with_reducible assumption) | with_reducible refine modSvc_steady _ _ ?_ | split)
theorem txStatus_steady (s : State) (hs : s.Steady s₀) : (State.txStatus s).Steady s₀ := by
  unfold State.txStatus; repeat' (first | with_reducible assumption | with_reducible (extract_lets +onlyGivenNames x; refine (show x.Steady s₀ → _ from fun hx => ?_) ?_; (on_goal 2 => unfold x; clear x); clear_value x; revert x; intro _ _) | with_reducible (extract_lets +onlyGivenNames x; refine (show x.1.Steady s₀ → _ from fun hx => ?_) ?_; (on_goal 2 => unfold x; clear x); clear_value x; revert x; intro _ _) | with_reducible (extract_lets +onlyGivenNames x; refine (show x.2.Steady s₀ → _ from fun hx => ?_) ?_; (on_goal 2 => unfold x; clear x); clear_value x; revert x; intro _ _) | with_reducible (extract_lets +onlyGivenNames x; refine (show (∀ t : State, t.Steady s₀ → (x t).Steady s₀) → _ from fun hx => ?_) ?_; (on_goal 2 => unfold x; clear x; intro t ht; beta_reduce); clear_value x; revert x; intro _ _) | with_reducible (extract_lets +onlyGivenNames x; clear_value x; revert x; intro _) | with_reducible refine hostWrite_steady _ _ _ ?_ | split)
theorem txEnable_steady (s : State) (hs : s.Steady s₀) : (State.txEnable s).Steady s₀ := by
  unfold State.txEnable; repeat' (first | with_reducible assumption | with_reducible (refine upd_steady _ ?_ .. ; with_reducible assumption) | with_reducible refine ite_steady ?_ ?_ | with_reducible (extract_lets +onlyGivenNames x; refine (show x.Steady s₀ → _ from fun hx => ?_) ?_; (on_goal 2 => unfold x; clear x); clear_value x; revert x; intro _ _) | with_reducible (extract_lets +onlyGivenNames x; refine (show x.1.Steady s₀ → _ from fun hx => ?_) ?_; (on_goal 2 => unfold x; clear x); clear_value x; revert x; intro _ _) | with_reducible (extract_lets +onlyGivenNames x; refine (show x.2.Steady s₀ → _ from fun hx => ?_) ?_; (on_goal 2 => unfold x; clear x); clear_value x; revert x; intro _ _) | with_reducible (extract_lets +onlyGivenNames x; refine (show (∀ t : State, t.Steady s₀ → (x t).Steady s₀) → _ from fun hx => ?_) ?_; (on_goal 2 => unfold x; clear x; intro t ht; beta_reduce); clear_value x; revert x; intro _ _) | with_reducible (extract_lets +onlyGivenNames x; clear_value x; revert x; intro _) | with_reducible refine logs_steady _ _ _ _ ?_ | with_reducible refine modTx_steady _ _ ?_ | with_reducible refine txStatus_steady _ ?_ | split)
theorem txDrop_steady (s : State) (hs : s.Steady s₀) : (State.txDrop s).Steady s₀ := by
  unfold State.txDrop; repeat' (first | with_reducible assumption | with_reducible (refine upd_steady _ ?_ .. ; with_reducible assumption) | with_reducible refine modSvc_steady _ _ ?_ | with_reducible refine endWait_steady _ _ ?_ | split)
theorem txWriteBack_steady (s : State) (st : Byte) (hs : s.Steady s₀) : (State.txWriteBack s st).Steady s₀ := by
  unfold State.txWriteBack; repeat' (first | with_reducible assumption | with_reducible (extract_lets +onlyGivenNames x; refine (show x.Steady s₀ → _ from fun hx => ?_) ?_; (on_goal 2 => unfold x; clear x); clear_value x; revert x; intro _ _) | with_reducible (extract_lets +onlyGivenNames x; refine (show x.1.Steady s₀ → _ from fun hx => ?_) ?_; (on_goal 2 => unfold x; clear x); clear_value x; revert x; intro _ _) | with_reducible (extract_lets +onlyGivenNames x; refine (show x.2.Steady s₀ → _ from fun hx => ?_) ?_; (on_goal 2 => unfold x; clear x); clear_value x; revert x; intro _ _) | with_reducible (extract_lets +onlyGivenNames x; refine (show (∀ t : State, t.Steady s₀ → (x t).Steady s₀) → _ from fun hx => ?_) ?_; (on_goal 2 => unfold x; clear x; intro t ht; beta_reduce); clear_value x; revert x; intro _ _) | with_reducible (extract_lets +onlyGivenNames x; clear_value x; revert x; intro _) | with_reducible refine hostWrite_steady _ _ _ ?_ | with_reducible refine winCount_steady _ _ _ ?_ | with_reducible refine txDrop_steady _ ?_ | split)
theorem txDisable_steady (s : State) (hs : s.Steady s₀) : (State.txDisable s).Steady s₀ := by
  unfold State.txDisable; repeat' (first | with_reducible assumption | with_reducible (refine upd_steady _ ?_ .. ; with_reducible assumption) | with_reducible refine ite_steady ?_ ?_ | with_reducible refine modTx_steady _ _ ?_ | with_reducible refine txStatus_steady _ ?_ | with_reducible refine txWriteBack_steady _ _ ?_ | split)

/-! Machine/Firmware.lean. -/

theorem fwRuns_steady (s : State) (bs : List Byte) (hs : s.Steady s₀) : (State.fwRuns s bs).Steady s₀ := by
  unfold State.fwRuns; repeat' (first | with_reducible assumption | with_reducible (refine upd_steady _ ?_ .. ; with_reducible assumption) | with_reducible refine modBoot_steady2 _ _ ?_ rfl | split)
theorem slotBad_steady (s : State) (slotB : Bool) (c : BootCheck) (hs : s.Steady s₀) : (State.slotBad s slotB c).Steady s₀ := by
  unfold State.slotBad; repeat' (first | with_reducible assumption | with_reducible refine hand_steady _ _ _ _ _ ?_ | split)
theorem bootSlot_steady (s : State) (slotB : Bool) (bs : List Byte) (hs : s.Steady s₀) : (State.bootSlot s slotB bs).Steady s₀ := by
  unfold State.bootSlot; repeat' (first | with_reducible assumption | with_reducible (refine upd_steady _ ?_ .. ; with_reducible assumption) | with_reducible (extract_lets +onlyGivenNames x; refine (show x.Steady s₀ → _ from fun hx => ?_) ?_; (on_goal 2 => unfold x; clear x); clear_value x; revert x; intro _ _) | with_reducible (extract_lets +onlyGivenNames x; refine (show x.1.Steady s₀ → _ from fun hx => ?_) ?_; (on_goal 2 => unfold x; clear x); clear_value x; revert x; intro _ _) | with_reducible (extract_lets +onlyGivenNames x; refine (show x.2.Steady s₀ → _ from fun hx => ?_) ?_; (on_goal 2 => unfold x; clear x); clear_value x; revert x; intro _ _) | with_reducible (extract_lets +onlyGivenNames x; refine (show (∀ t : State, t.Steady s₀ → (x t).Steady s₀) → _ from fun hx => ?_) ?_; (on_goal 2 => unfold x; clear x; intro t ht; beta_reduce); clear_value x; revert x; intro _ _) | with_reducible (extract_lets +onlyGivenNames x; clear_value x; revert x; intro _) | with_reducible refine modBoot_steady2 _ _ ?_ rfl | with_reducible refine hand_steady _ _ _ _ _ ?_ | with_reducible refine fwRuns_steady _ _ ?_ | split)
theorem execBoot_steady (flashWrites : List (Nat × Byte)) (s : State) (hs : s.Steady s₀) : ∀ out, execBoot flashWrites s = .next out → out.Steady s₀ := by
  intro out ht; unfold execBoot at ht; dsimp only at ht; injection ht with ht; subst ht; (repeat' split) <;> grind [packageFault_steady, slotBad_steady, bootSlot_steady, modBoot_steady, upd_steady, → State.Steady.sram, → State.Steady.host, → State.Steady.flash, → State.Steady.input, → State.Steady.time, → State.Steady.slots, → State.Steady.keys, → State.Steady.queue, → State.Steady.por, Mem.wf_set, Mem.wf_write, Mem.wf_writeAll, Mem.wf_zero]
theorem fwReject_steady (s : State) (st : Byte) (hs : s.Steady s₀) : (State.fwReject s st).Steady s₀ := by
  unfold State.fwReject; repeat' (first | with_reducible assumption | with_reducible (refine upd_steady _ ?_ .. ; with_reducible assumption) | with_reducible refine modBoot_steady2 _ _ ?_ rfl | with_reducible refine hand_steady _ _ _ _ _ ?_ | split)
theorem fwWindowBad_steady (s : State) (code : W16) (st : Byte) (hs : s.Steady s₀) : (State.fwWindowBad s code st).Steady s₀ := by
  unfold State.fwWindowBad; repeat' (first | with_reducible assumption | with_reducible refine winFault_steady _ _ _ ?_ | with_reducible refine fwReject_steady _ _ ?_ | split)
theorem fwFetch_steady (s : State) (root : W64) (off : Nat) (len : Nat) (hs : s.Steady s₀) : (State.fwFetch s root off len).1.Steady s₀ := by
  unfold State.fwFetch; grind [winFault_steady, upd_steady, → State.Steady.sram, → State.Steady.host, → State.Steady.flash, → State.Steady.input, → State.Steady.time, → State.Steady.slots, → State.Steady.keys, → State.Steady.queue, → State.Steady.por, Mem.wf_set, Mem.wf_write, Mem.wf_writeAll, Mem.wf_zero]
theorem fwFetch_steadyE {s : State} {root : W64} {off : Nat} {len : Nat} {out : State} {res} (hs : s.Steady s₀) (heq : State.fwFetch s root off len = (out, res)) : out.Steady s₀ := by
  have h := fwFetch_steady s root off len hs; rw [heq] at h; exact h
theorem fwRead_steady (s : State) (root : W64) (off : W64) (hs : s.Steady s₀) : (State.fwRead s root off).Steady s₀ := by
  unfold State.fwRead; repeat' (first | with_reducible assumption | with_reducible (refine upd_steady _ ?_ .. ; with_reducible assumption) | with_reducible refine ite_steady ?_ ?_ | with_reducible (extract_lets +onlyGivenNames x; refine (show x.Steady s₀ → _ from fun hx => ?_) ?_; (on_goal 2 => unfold x; clear x); clear_value x; revert x; intro _ _) | with_reducible (extract_lets +onlyGivenNames x; refine (show x.1.Steady s₀ → _ from fun hx => ?_) ?_; (on_goal 2 => unfold x; clear x); clear_value x; revert x; intro _ _) | with_reducible (extract_lets +onlyGivenNames x; refine (show x.2.Steady s₀ → _ from fun hx => ?_) ?_; (on_goal 2 => unfold x; clear x); clear_value x; revert x; intro _ _) | with_reducible (extract_lets +onlyGivenNames x; refine (show (∀ t : State, t.Steady s₀ → (x t).Steady s₀) → _ from fun hx => ?_) ?_; (on_goal 2 => unfold x; clear x; intro t ht; beta_reduce); clear_value x; revert x; intro _ _) | with_reducible (extract_lets +onlyGivenNames x; clear_value x; revert x; intro _) | with_reducible refine modBoot_steady2 _ _ ?_ rfl | with_reducible refine writeHeader_steady _ _ _ _ _ _ _ _ _ ?_ | with_reducible refine winMismatch_steady _ _ ?_ | with_reducible refine fwReject_steady _ _ ?_ | with_reducible refine fwWindowBad_steady _ _ _ ?_ | with_reducible refine fwFetch_steady _ _ _ _ ?_ | with_reducible refine fwFetch_steadyE ?_ (by assumption) | split)
theorem fwProceed_steady (s : State) (hs : s.Steady s₀) : (State.fwProceed s).Steady s₀ := by
  unfold State.fwProceed; repeat' (first | with_reducible assumption | with_reducible refine ite_steady ?_ ?_ | with_reducible (extract_lets +onlyGivenNames x; refine (show x.Steady s₀ → _ from fun hx => ?_) ?_; (on_goal 2 => unfold x; clear x); clear_value x; revert x; intro _ _) | with_reducible (extract_lets +onlyGivenNames x; refine (show x.1.Steady s₀ → _ from fun hx => ?_) ?_; (on_goal 2 => unfold x; clear x); clear_value x; revert x; intro _ _) | with_reducible (extract_lets +onlyGivenNames x; refine (show x.2.Steady s₀ → _ from fun hx => ?_) ?_; (on_goal 2 => unfold x; clear x); clear_value x; revert x; intro _ _) | with_reducible (extract_lets +onlyGivenNames x; refine (show (∀ t : State, t.Steady s₀ → (x t).Steady s₀) → _ from fun hx => ?_) ?_; (on_goal 2 => unfold x; clear x; intro t ht; beta_reduce); clear_value x; revert x; intro _ _) | with_reducible (extract_lets +onlyGivenNames x; clear_value x; revert x; intro _) | with_reducible refine endWait_steady _ _ ?_ | with_reducible refine keepWait_steady _ _ ?_ | with_reducible refine fwReject_steady _ _ ?_ | with_reducible refine fwRead_steady _ _ _ ?_ | split)
theorem fwUpdate_steady (s : State) (hs : s.Steady s₀) : (State.fwUpdate s).Steady s₀ := by
  unfold State.fwUpdate; repeat' (first | with_reducible assumption | with_reducible (refine upd_steady _ ?_ .. ; with_reducible assumption) | with_reducible refine ite_steady ?_ ?_ | with_reducible (extract_lets +onlyGivenNames x; refine (show x.Steady s₀ → _ from fun hx => ?_) ?_; (on_goal 2 => unfold x; clear x); clear_value x; revert x; intro _ _) | with_reducible (extract_lets +onlyGivenNames x; refine (show x.1.Steady s₀ → _ from fun hx => ?_) ?_; (on_goal 2 => unfold x; clear x); clear_value x; revert x; intro _ _) | with_reducible (extract_lets +onlyGivenNames x; refine (show x.2.Steady s₀ → _ from fun hx => ?_) ?_; (on_goal 2 => unfold x; clear x); clear_value x; revert x; intro _ _) | with_reducible (extract_lets +onlyGivenNames x; refine (show (∀ t : State, t.Steady s₀ → (x t).Steady s₀) → _ from fun hx => ?_) ?_; (on_goal 2 => unfold x; clear x; intro t ht; beta_reduce); clear_value x; revert x; intro _ _) | with_reducible (extract_lets +onlyGivenNames x; clear_value x; revert x; intro _) | with_reducible refine foldl_steady _ _ _ ?_ (fun _ _ _ => ?_) | with_reducible refine modMgt_steady _ _ ?_ rfl | with_reducible refine modHiu_steady _ _ ?_ | with_reducible refine modBoot_steady2 _ _ ?_ rfl | with_reducible refine done_steady _ _ _ ?_ | with_reducible refine retryHeld_steady _ _ _ ?_ | with_reducible refine setupRejected_steady _ _ ?_ | with_reducible refine fwProceed_steady _ ?_ | split)
theorem execFwUpdate_steady (s : State) (hs : s.Steady s₀) : ∀ out, execFwUpdate s = .next out → out.Steady s₀ := by
  intro out ht; unfold execFwUpdate at ht; refine overHost_steady _ _ ?_ hs _ ht; beta_reduce; repeat' (first | with_reducible assumption | with_reducible refine fwUpdate_steady _ ?_ | split)
theorem fwAbandon_steady (s : State) (hs : s.Steady s₀) : (State.fwAbandon s).Steady s₀ := by
  unfold State.fwAbandon; repeat' (first | with_reducible assumption | with_reducible (refine upd_steady _ ?_ .. ; with_reducible assumption) | with_reducible refine ite_steady ?_ ?_ | with_reducible refine modBoot_steady2 _ _ ?_ rfl | with_reducible refine logs_steady _ _ _ _ ?_ | with_reducible refine endWait_steady _ _ ?_ | split)
theorem fwSwitched_steady (s : State) (flashOk : Bool) (hs : s.Steady s₀) : (State.fwSwitched s flashOk).Steady s₀ := by
  unfold State.fwSwitched
  extract_lets bs u ps
  have h : u.Steady s₀ := ite_steady
    (logs_steady _ _ _ _ (fwRuns_steady _ _ (modBoot_steady _ _ hs (by simp only [Boot.writeSlot]; exact Mem.wf_set _ _ _ (Mem.wf_write _ _ _ hs.flash)))))
    (logs_steady _ _ _ _ (modBoot_steady2 _ _ hs rfl))
  clear_value u
  exact foldl_steady _ _ _ (modMgt_steady _ _ h rfl) (fun _ _ k => poisonNow_steady _ _ k)

end Sys2Proof.Machine
end

