-- ==== Sys2Proof/Laws/SteadyEngines.lean ====
section
/-! SUPPORT. For each operation of the loader and the engines with most state: what it keeps (State.Steady). -/

set_option maxRecDepth 4000
set_option linter.all false

namespace Sys2Proof.Machine

variable {s₀ : State}

/-! Machine/Operands.lean. -/

theorem Acc_elem_steady (a : Acc) (kind : Nat) (x : Ref) (r c : Nat) : EngSteady (Acc.elem a kind x r c) := by
  unfold Acc.elem
  try dsimp only
  repeat' (first | exact EngSteady.pure _ | exact EngSteady.get | exact Acc_read_steady .. | refine EngSteady.bind _ _ ?_ (fun _ => ?_) | refine EngSteady.mapM _ (fun _ => ?_) _ | refine EngSteady.forM _ (fun _ => ?_) _ | split | apply Acc_read_steady | intro _)
theorem Acc_tensor_steady (a : Acc) (kind : Nat) (x : Ref) (rows cols : Nat) : EngSteady (Acc.tensor a kind x rows cols) := by
  unfold Acc.tensor
  try dsimp only
  repeat' (first | exact EngSteady.pure _ | exact EngSteady.get | exact Acc_elem_steady .. | refine EngSteady.bind _ _ ?_ (fun _ => ?_) | refine EngSteady.mapM _ (fun _ => ?_) _ | refine EngSteady.forM _ (fun _ => ?_) _ | split | apply Acc_elem_steady | intro _)
theorem Acc_putTensor_steady (a : Acc) (kind : Nat) (x : Ref) (rows : List (List Nat)) : EngSteady (Acc.putTensor a kind x rows) := by
  unfold Acc.putTensor
  try dsimp only
  repeat' (first | exact EngSteady.pure _ | exact EngSteady.get | exact Acc_write_steady .. | refine EngSteady.bind _ _ ?_ (fun _ => ?_) | refine EngSteady.mapM _ (fun _ => ?_) _ | refine EngSteady.forM _ (fun _ => ?_) _ | split | apply Acc_write_steady | intro _)

/-! Machine/Matrix.lean. -/

theorem matrixWrite_steady (a : Acc) (o : MatrixOut) (fin : Fmt) (x : Ref) (m n : Nat) (rows cols : List (List Val)) : EngSteady (matrixWrite a o fin x m n rows cols) := by
  unfold matrixWrite
  try dsimp only
  repeat' (first | exact EngSteady.pure _ | exact EngSteady.get | exact Acc_putTensor_steady .. | exact Acc_tensor_steady .. | refine EngSteady.bind _ _ ?_ (fun _ => ?_) | refine EngSteady.mapM _ (fun _ => ?_) _ | refine EngSteady.forM _ (fun _ => ?_) _ | split | apply Acc_putTensor_steady | apply Acc_tensor_steady | intro _)
theorem matmulBody_steady (a : Acc) (u1 : List QEntry) : EngSteady (matmulBody a u1) := by
  unfold matmulBody
  try dsimp only
  repeat' (first | exact EngSteady.pure _ | exact EngSteady.get | exact Acc_tensor_steady .. | exact matrixWrite_steady .. | refine EngSteady.bind _ _ ?_ (fun _ => ?_) | refine EngSteady.mapM _ (fun _ => ?_) _ | refine EngSteady.forM _ (fun _ => ?_) _ | split | apply Acc_tensor_steady | apply matrixWrite_steady | intro _)
theorem conv2dBody_steady (a : Acc) (u1 : List QEntry) : EngSteady (conv2dBody a u1) := by
  unfold conv2dBody
  try dsimp only
  repeat' (first | exact EngSteady.pure _ | exact EngSteady.get | exact Acc_tensor_steady .. | exact matrixWrite_steady .. | refine EngSteady.bind _ _ ?_ (fun _ => ?_) | refine EngSteady.mapM _ (fun _ => ?_) _ | refine EngSteady.forM _ (fun _ => ?_) _ | split | apply Acc_tensor_steady | apply matrixWrite_steady | intro _)
theorem execMatmul_steady (t : TileId) (s : State) (hs : s.Steady s₀) : ∀ t', execMatmul t s = .next t' → t'.Steady s₀ := by
  intro t' ht; unfold execMatmul at ht; injection ht with ht; subst ht
  exact runOn_steady _ _ _ _ _ _ (fun a es => matmulBody_steady ..) hs
theorem execConv2d_steady (t : TileId) (s : State) (hs : s.Steady s₀) : ∀ t', execConv2d t s = .next t' → t'.Steady s₀ := by
  intro t' ht; unfold execConv2d at ht; injection ht with ht; subst ht
  exact runOn_steady _ _ _ _ _ _ (fun a es => conv2dBody_steady ..) hs

/-! Machine/Point.lean. -/

theorem probe_steady (a : Acc) (g : PointConfig) (serial key n j : Nat) : EngSteady (probe a g serial key n j) := by
  induction n generalizing j with
  | zero => exact EngSteady.pure _
  | succ n ih =>
    unfold probe
    dsimp only
    refine EngSteady.bind _ _ (Acc_read_steady ..) (fun _ => ?_)
    split
    · exact EngSteady.pure _
    · split
      · exact EngSteady.pure _
      · exact ih _
theorem putBucket_steady (a : Acc) (g : PointConfig) (b serial count index key : Nat) : EngSteady (putBucket a g b serial count index key) := by
  unfold putBucket; exact Acc_write_steady ..
theorem writeFree_steady (a : Acc) (region off len : Nat) : EngSteady (writeFree a region off len) := by
  refine ⟨fun {s₀} s h => ?_⟩
  exact (Acc_write_steady a Kind.point region (off : Int) (natLE len s.draw.1)).run s.draw.2 (draw_steady s h)
theorem foldVisits_steady {α : Type} (f : α → Nat → Eng α) (x : α) (n : Nat) (hf : ∀ y k, EngSteady (f y k)) : EngSteady (foldVisits f x n) := by
  induction n with
  | zero => exact EngSteady.pure _
  | succ n ih => exact EngSteady.bind _ _ ih (fun y => hf y n)
theorem frontPoint_steady (a : Acc) (g : PointConfig) (fi : FrameIn) (f : Front) (i : Nat) : EngSteady (frontPoint a g fi f i) := by
  unfold frontPoint
  dsimp only
  repeat' (first | exact EngSteady.pure _ | exact Acc_read_steady .. | exact probe_steady .. | exact putBucket_steady .. | exact writeFree_steady .. | refine EngSteady.bind _ _ ?_ (fun _ => ?_) | split)
theorem enterSite_steady (a : Acc) (g : PointConfig) (l : Layer) (serial : Nat) (create : Bool) (input : Nat) (r : Rules) (c : Site × Nat) :
    EngSteady (enterSite a g l serial create input r c) := by
  unfold enterSite
  repeat' (first | exact EngSteady.pure _ | exact Acc_read_steady .. | exact probe_steady .. | exact putBucket_steady .. | exact writeFree_steady .. | refine EngSteady.bind _ _ ?_ (fun _ => ?_) | split)
theorem layerRules_steady (a : Acc) (g : PointConfig) (l : Layer) (serial : Nat) (ext : Nat × Nat × Nat) (ins : List Site) :
    EngSteady (layerRules a g l serial ext ins) := by
  unfold layerRules
  try dsimp only
  repeat' (first | exact EngSteady.pure _ | exact enterSite_steady .. | exact Acc_read_steady .. | exact probe_steady .. | exact putBucket_steady .. | exact writeFree_steady .. | refine EngSteady.foldlM _ (fun _ _ => ?_) _ _ | refine EngSteady.bind _ _ ?_ (fun _ => ?_) | split)
theorem EngSteady.ite2 {α : Type} {c : Prop} [Decidable c] {x y : Eng α} (hx : EngSteady x) (hy : EngSteady y) : EngSteady (if c then x else y) := by
  split <;> assumption
theorem convolve_steady (a : Acc) (g : PointConfig) (l : Layer) (wf : Fmt) (rows : List (List Val)) (r : Rules) :
    EngSteady (convolve a g l wf rows r) := by
  unfold convolve
  extract_lets
  refine EngSteady.bind _ _ (foldVisits_steady _ _ _ (fun y k => ?_)) (fun acc => ?_)
  · refine EngSteady.ite2 (EngSteady.pure _) (EngSteady.bind _ _ (EngSteady.mapM _ (fun ci => EngSteady.mapM _ (fun co => Acc_elem_steady ..) _) _) (fun _ => EngSteady.pure _))
  · extract_lets jp
    have hj : ∀ b, EngSteady (jp b) := fun b => EngSteady.pure _
    exact EngSteady.ite2 (EngSteady.bind _ _ (EngSteady.pure _) hj) (EngSteady.bind _ _ (EngSteady.mapM _ (fun co => Acc_elem_steady ..) _) hj)
theorem takeSerial_steady (a : Acc) (cfg : Nat) (g : PointConfig) : EngSteady (takeSerial a cfg g) := by
  unfold takeSerial
  try dsimp only
  repeat' (first | exact EngSteady.pure _ | exact EngSteady.get | refine EngSteady.modify _ (fun _ s h => ?_) | exact logs_steady _ _ _ _ (by assumption) | exact modPart_steady _ _ _ (by assumption) | exact Acc_write_steady .. | refine foldVisits_steady _ _ _ (fun _ _ => ?_) | refine EngSteady.bind _ _ ?_ (fun _ => ?_) | split)
theorem convolves_steady (s : State) (p : PartId) (yes : Bool) (hs : s.Steady s₀) : (State.convolves s p yes).Steady s₀ := by
  unfold State.convolves; repeat' (first | with_reducible assumption | with_reducible (refine upd_steady _ ?_ .. ; with_reducible assumption) | split)
theorem runLayers_steady (a : Acc) (cfg : Nat) (g : PointConfig) (kind : Nat) (ls : List Layer) (n : Nat) (sites : List Site)
    (ext : Nat × Nat × Nat) (st : Nat) (res : FrameRes) : EngSteady (runLayers a cfg g kind ls n sites ext st res) := by
  induction ls generalizing n sites ext st res with
  | nil => exact EngSteady.pure _
  | cons l ls ih =>
    unfold runLayers
    dsimp only
    repeat' (first | exact ih .. | exact EngSteady.pure _ | (refine EngSteady.modify _ (fun _ s h => ?_); exact convolves_steady _ _ _ h) | exact takeSerial_steady .. | exact layerRules_steady .. | exact writeFree_steady .. | exact convolve_steady .. | exact Acc_tensor_steady .. | exact Acc_putTensor_steady .. | exact Acc_write_steady .. | refine EngSteady.bind _ _ ?_ (fun _ => ?_) | split)
theorem decodeFrame_steady (a : Acc) (g : PointConfig) (sites : List Site) (strides : Nat) (res : FrameRes) : EngSteady (decodeFrame a g sites strides res) := by
  unfold decodeFrame
  try dsimp only
  repeat' (first | with_reducible exact EngSteady.pure _ | with_reducible exact Acc_elem_steady .. | with_reducible exact Acc_tensor_steady .. | with_reducible exact Acc_putTensor_steady .. | with_reducible exact Acc_read_steady .. | with_reducible exact Acc_write_steady .. | with_reducible exact writeFree_steady .. | with_reducible refine EngSteady.mapM _ (fun _ => ?_) _ | with_reducible refine EngSteady.forM _ (fun _ => ?_) _ | with_reducible refine EngSteady.foldlM _ (fun _ _ => ?_) _ _ | with_reducible refine EngSteady.bind _ _ ?_ (fun _ => ?_) | split)
theorem frameRun_steady (a : Acc) (cfg : Nat) (g : PointConfig) : EngSteady (frameRun a cfg g) := by
  unfold frameRun
  try dsimp only
  repeat' (first | with_reducible exact EngSteady.pure _ | with_reducible exact EngSteady.get | with_reducible exact frontPoint_steady .. | with_reducible exact decodeFrame_steady .. | with_reducible exact runLayers_steady .. | with_reducible exact takeSerial_steady .. | with_reducible exact Acc_elem_steady .. | with_reducible exact Acc_tensor_steady .. | with_reducible exact Acc_putTensor_steady .. | with_reducible exact Acc_read_steady .. | with_reducible exact Acc_write_steady .. | with_reducible exact writeFree_steady .. | with_reducible exact putBucket_steady .. | with_reducible exact Acc_fault_steady .. | with_reducible refine foldVisits_steady _ _ _ (fun _ _ => ?_) | with_reducible refine EngSteady.mapM _ (fun _ => ?_) _ | with_reducible refine EngSteady.forM _ (fun _ => ?_) _ | with_reducible refine EngSteady.foldlM _ (fun _ _ => ?_) _ _ | with_reducible refine EngSteady.bind _ _ ?_ (fun _ => ?_) | split)
theorem frameBody_steady (a : Acc) : EngSteady (frameBody a) := by
  unfold frameBody
  refine EngSteady.bind _ _ EngSteady.get (fun s => ?_)
  dsimp only
  cases (s.part a.part).configs[frameConfig a.cmd.cmd]? with
  | none => exact Acc_fault_steady ..
  | some g =>
    refine EngSteady.bind _ _ (frameRun_steady ..) (fun res => ?_)
    refine EngSteady.bind _ _ (foldVisits_steady _ _ _ (fun y k => ?_)) (fun _ => EngSteady.bind _ _ (Acc_write_steady ..) (fun _ => EngSteady.pure _))
    cases res.boxes[k]? with
    | none => exact EngSteady.pure _
    | some b => exact Acc_write_steady ..
theorem frameRejected_steady (s : State) (d : DieId) (vf : Nat) (hs : s.Steady s₀) : (State.frameRejected s d vf).Steady s₀ := by
  unfold State.frameRejected; repeat' (first | with_reducible assumption | with_reducible (refine upd_steady _ ?_ .. ; with_reducible assumption) | with_reducible refine ite_steady ?_ ?_ | with_reducible refine logRate_steady _ _ _ _ _ ?_ | split)
theorem frameTurns_steady (s : State) (d : DieId) (p : PartId) (ms : List Engine) (hs : s.Steady s₀) : (State.frameTurns s d p ms).Steady s₀ := by
  unfold State.frameTurns; repeat' (first | with_reducible assumption | with_reducible (refine upd_steady _ ?_ .. ; with_reducible assumption) | with_reducible refine ite_steady ?_ ?_ | with_reducible refine foldl_steady _ _ _ ?_ (fun _ _ _ => ?_) | with_reducible refine modPart_steady _ _ _ ?_ | with_reducible refine convolves_steady _ _ _ ?_ | split)
theorem runFrame_steady (s : State) (d : DieId) (hs : s.Steady s₀) : (State.runFrame s d).Steady s₀ := by
  unfold State.runFrame
  refine ite_steady hs ?_
  split
  · exact hs
  · rename_i p i es _
    have h1 := modPart_steady s p (fun q => { q with pointQ := q.pointQ.tail }) hs
    extract_lets s0 ms waits u v
    have h2 : v.Steady s₀ := upd_steady _ h1 ..
    clear_value v waits
    split
    · exact settle_steady _ _ (retire_steady _ _ _ _ _ h2)
    · split
      · rename_i heq
        exact ite_steady hs (convolves_steady _ _ _ (resState_steady heq rfl (frameBody_steady _) h2))
      · rename_i heq
        have h3 := resState_steady heq rfl (frameBody_steady _) h2
        refine ite_steady hs (settle_steady _ _ (retire_steady _ _ _ _ _ ?_))
        have h4 : ∀ t : State, t.Steady s₀ → State.Steady { t with pe := vmod t.pe d (fun e => { e with frames := satInc e.frames }) } s₀ :=
          fun t h => upd_steady t h ..
        exact ite_steady (h4 _ (frameTurns_steady _ _ _ _ h3)) (frameRejected_steady _ _ _ (h4 _ (frameTurns_steady _ _ _ _ h3)))
theorem execFrame_steady (d : DieId) (s : State) (hs : s.Steady s₀) : ∀ out, execFrame d s = .next out → out.Steady s₀ := by
  intro out ht
  unfold execFrame at ht
  injection ht with ht
  subst ht
  split
  · rename_i x p t _ hx
    obtain ⟨y, _, hy⟩ := List.exists_of_findSome?_eq_some hx
    obtain ⟨u, hu, he⟩ := Option.map_eq_some_iff.mp hy
    cases he
    exact stopRun_steady _ _ _ hs (runFrame_steady _ _ (stillRuns_steady _ _ hs _ hu))
  · exact runFrame_steady _ _ hs

/-! Machine/Loader.lean. -/

theorem claimLinks_steady (s : State) (j : Job) (hs : s.Steady s₀) : (State.claimLinks s j).Steady s₀ := by
  unfold State.claimLinks; repeat' (first | with_reducible assumption | with_reducible (refine upd_steady _ ?_ .. ; with_reducible assumption) | with_reducible refine ite_steady ?_ ?_ | split)
theorem setParts_steady (s : State) (ps : List PartId) (f : Nat → PartId → Partition) (hs : s.Steady s₀) : (State.setParts s ps f).Steady s₀ := by
  unfold State.setParts; repeat' (first | with_reducible assumption | with_reducible refine foldl_steady _ _ _ ?_ (fun _ _ _ => ?_) | with_reducible refine modPart_steady _ _ _ ?_ | split)
theorem seedQueues_steady (s : State) (p : PartId) (m : Option AllocMap) (hs : s.Steady s₀) : (State.seedQueues s p m).Steady s₀ := by
  unfold State.seedQueues; repeat' (first | with_reducible assumption | with_reducible (refine upd_steady _ ?_ .. ; with_reducible assumption) | with_reducible (extract_lets +onlyGivenNames x; refine (show x.Steady s₀ → _ from fun hx => ?_) ?_; (on_goal 2 => unfold x; clear x); clear_value x; revert x; intro _ _) | with_reducible (extract_lets +onlyGivenNames x; refine (show x.1.Steady s₀ → _ from fun hx => ?_) ?_; (on_goal 2 => unfold x; clear x); clear_value x; revert x; intro _ _) | with_reducible (extract_lets +onlyGivenNames x; refine (show x.2.Steady s₀ → _ from fun hx => ?_) ?_; (on_goal 2 => unfold x; clear x); clear_value x; revert x; intro _ _) | with_reducible (extract_lets +onlyGivenNames x; refine (show (∀ t : State, t.Steady s₀ → (x t).Steady s₀) → _ from fun hx => ?_) ?_; (on_goal 2 => unfold x; clear x; intro t ht; beta_reduce); clear_value x; revert x; intro _ _) | with_reducible (extract_lets +onlyGivenNames x; clear_value x; revert x; intro _) | with_reducible refine foldl_steady _ _ _ ?_ (fun _ _ _ => ?_) | with_reducible refine modPart_steady _ _ _ ?_ | with_reducible refine fetchBytes_steady _ _ _ _ ?_ | with_reducible refine fetchBytes_steadyE ?_ (by assumption) | split)
theorem install_steady (s : State) (d : Desc) (ps : List PartId) (g : Image) (hs : s.Steady s₀) : (State.install s d ps g).Steady s₀ := by
  unfold State.install; repeat' (first | with_reducible assumption | with_reducible (refine upd_steady _ ?_ .. ; with_reducible assumption) | with_reducible (extract_lets +onlyGivenNames x; refine (show x.Steady s₀ → _ from fun hx => ?_) ?_; (on_goal 2 => unfold x; clear x); clear_value x; revert x; intro _ _) | with_reducible (extract_lets +onlyGivenNames x; refine (show x.1.Steady s₀ → _ from fun hx => ?_) ?_; (on_goal 2 => unfold x; clear x); clear_value x; revert x; intro _ _) | with_reducible (extract_lets +onlyGivenNames x; refine (show x.2.Steady s₀ → _ from fun hx => ?_) ?_; (on_goal 2 => unfold x; clear x); clear_value x; revert x; intro _ _) | with_reducible (extract_lets +onlyGivenNames x; refine (show (∀ t : State, t.Steady s₀ → (x t).Steady s₀) → _ from fun hx => ?_) ?_; (on_goal 2 => unfold x; clear x; intro t ht; beta_reduce); clear_value x; revert x; intro _ _) | with_reducible (extract_lets +onlyGivenNames x; clear_value x; revert x; intro _) | with_reducible refine foldl_steady _ _ _ ?_ (fun _ _ _ => ?_) | with_reducible refine modMgt_steady _ _ ?_ rfl | with_reducible refine store_steady _ _ _ _ ?_ | with_reducible refine store_steadyE ?_ (by assumption) | with_reducible refine claimLinks_steady _ _ ?_ | with_reducible refine setParts_steady _ _ _ ?_ | with_reducible refine seedQueues_steady _ _ _ ?_ | split)
theorem execLoad_steady (s : State) (hs : s.Steady s₀) : ∀ out, execLoad s = .next out → out.Steady s₀ := by
  intro out ht; unfold execLoad at ht; (try injection ht with ht); subst ht; repeat' (first | with_reducible assumption | with_reducible (refine upd_steady _ ?_ .. ; with_reducible assumption) | with_reducible refine ite_steady ?_ ?_ | with_reducible refine modMgt_steady _ _ ?_ rfl | with_reducible refine done_steady _ _ _ ?_ | with_reducible refine takeMc_steady _ _ ?_ _ _ (by assumption) | split)
theorem rezero_steady (s : State) (ps : List PartId) (hs : s.Steady s₀) : (State.rezero s ps).Steady s₀ := by
  unfold State.rezero; repeat' (first | with_reducible assumption | with_reducible (refine upd_steady _ ?_ .. ; with_reducible assumption) | with_reducible refine ite_steady ?_ ?_ | with_reducible refine foldl_steady _ _ _ ?_ (fun _ _ _ => ?_) | with_reducible refine modPart_steady _ _ _ ?_ | split)
theorem denyLoad_steady (s : State) (d : Desc) (ps : List PartId) (x : Denial) (hs : s.Steady s₀) : (State.denyLoad s d ps x).Steady s₀ := by
  unfold State.denyLoad; repeat' (first | with_reducible assumption | with_reducible (extract_lets +onlyGivenNames x; refine (show x.Steady s₀ → _ from fun hx => ?_) ?_; (on_goal 2 => unfold x; clear x); clear_value x; revert x; intro _ _) | with_reducible (extract_lets +onlyGivenNames x; refine (show x.1.Steady s₀ → _ from fun hx => ?_) ?_; (on_goal 2 => unfold x; clear x); clear_value x; revert x; intro _ _) | with_reducible (extract_lets +onlyGivenNames x; refine (show x.2.Steady s₀ → _ from fun hx => ?_) ?_; (on_goal 2 => unfold x; clear x); clear_value x; revert x; intro _ _) | with_reducible (extract_lets +onlyGivenNames x; refine (show (∀ t : State, t.Steady s₀ → (x t).Steady s₀) → _ from fun hx => ?_) ?_; (on_goal 2 => unfold x; clear x; intro t ht; beta_reduce); clear_value x; revert x; intro _ _) | with_reducible (extract_lets +onlyGivenNames x; clear_value x; revert x; intro _) | with_reducible refine hand_steady _ _ _ _ _ ?_ | with_reducible refine logs_steady _ _ _ _ ?_ | with_reducible refine logAt_steady _ _ _ _ ?_ | with_reducible refine complete_steady _ _ _ ?_ | with_reducible refine rezero_steady _ _ ?_ | split)
theorem readLoad_steady (s : State) (o : WinOp) (hs : s.Steady s₀) : (State.readLoad s o).1.Steady s₀ := by
  unfold State.readLoad; repeat' (first | with_reducible assumption | with_reducible refine ite_steady ?_ ?_ | with_reducible refine ite_fst ?_ ?_ | with_reducible (extract_lets +onlyGivenNames x; refine (show x.Steady s₀ → _ from fun hx => ?_) ?_; (on_goal 2 => unfold x; clear x); clear_value x; revert x; intro _ _) | with_reducible (extract_lets +onlyGivenNames x; refine (show x.1.Steady s₀ → _ from fun hx => ?_) ?_; (on_goal 2 => unfold x; clear x); clear_value x; revert x; intro _ _) | with_reducible (extract_lets +onlyGivenNames x; refine (show x.2.Steady s₀ → _ from fun hx => ?_) ?_; (on_goal 2 => unfold x; clear x); clear_value x; revert x; intro _ _) | with_reducible (extract_lets +onlyGivenNames x; refine (show (∀ t : State, t.Steady s₀ → (x t).Steady s₀) → _ from fun hx => ?_) ?_; (on_goal 2 => unfold x; clear x; intro t ht; beta_reduce); clear_value x; revert x; intro _ _) | with_reducible (extract_lets +onlyGivenNames x; clear_value x; revert x; intro _) | with_reducible refine shortBuf_steady _ _ _ ?_ | with_reducible refine winFetch_steady _ _ _ ?_ | with_reducible refine winFetch_steadyE ?_ (by assumption) | with_reducible (dsimp only) | split)
theorem readLoad_steadyE {s : State} {o : WinOp} {out : State} {res} (hs : s.Steady s₀) (heq : State.readLoad s o = (out, res)) : out.Steady s₀ := by
  have h := readLoad_steady s o hs; rw [heq] at h; exact h
theorem loadGo_steady (s : State) (o : WinOp) (hs : s.Steady s₀) : (State.loadGo s o).Steady s₀ := by
  unfold State.loadGo; repeat' (first | with_reducible assumption | with_reducible (refine upd_steady _ ?_ .. ; with_reducible assumption) | with_reducible (extract_lets +onlyGivenNames x; refine (show x.Steady s₀ → _ from fun hx => ?_) ?_; (on_goal 2 => unfold x; clear x); clear_value x; revert x; intro _ _) | with_reducible (extract_lets +onlyGivenNames x; refine (show x.1.Steady s₀ → _ from fun hx => ?_) ?_; (on_goal 2 => unfold x; clear x); clear_value x; revert x; intro _ _) | with_reducible (extract_lets +onlyGivenNames x; refine (show x.2.Steady s₀ → _ from fun hx => ?_) ?_; (on_goal 2 => unfold x; clear x); clear_value x; revert x; intro _ _) | with_reducible (extract_lets +onlyGivenNames x; refine (show (∀ t : State, t.Steady s₀ → (x t).Steady s₀) → _ from fun hx => ?_) ?_; (on_goal 2 => unfold x; clear x; intro t ht; beta_reduce); clear_value x; revert x; intro _ _) | with_reducible (extract_lets +onlyGivenNames x; clear_value x; revert x; intro _) | with_reducible refine modMgt_steady _ _ ?_ rfl | with_reducible refine setOp_steady _ _ _ ?_ | with_reducible refine denyLoad_steady _ _ _ _ ?_ | with_reducible refine readLoad_steady _ _ ?_ | with_reducible refine readLoad_steadyE ?_ (by assumption) | with_reducible refine openHeader_steadyA _ _ ?_ _ (by assumption) | with_reducible refine openHeader_steadyB _ _ ?_ _ _ (by assumption) | split)
theorem takeLoad_steady (s : State) (d : Desc) (hs : s.Steady s₀) : (State.takeLoad s d).Steady s₀ := by
  unfold State.takeLoad; repeat' (first | with_reducible assumption | with_reducible (refine upd_steady _ ?_ .. ; with_reducible assumption) | with_reducible refine ite_steady ?_ ?_ | with_reducible (extract_lets +onlyGivenNames x; refine (show x.Steady s₀ → _ from fun hx => ?_) ?_; (on_goal 2 => unfold x; clear x); clear_value x; revert x; intro _ _) | with_reducible (extract_lets +onlyGivenNames x; refine (show x.1.Steady s₀ → _ from fun hx => ?_) ?_; (on_goal 2 => unfold x; clear x); clear_value x; revert x; intro _ _) | with_reducible (extract_lets +onlyGivenNames x; refine (show x.2.Steady s₀ → _ from fun hx => ?_) ?_; (on_goal 2 => unfold x; clear x); clear_value x; revert x; intro _ _) | with_reducible (extract_lets +onlyGivenNames x; refine (show (∀ t : State, t.Steady s₀ → (x t).Steady s₀) → _ from fun hx => ?_) ?_; (on_goal 2 => unfold x; clear x; intro t ht; beta_reduce); clear_value x; revert x; intro _ _) | with_reducible (extract_lets +onlyGivenNames x; clear_value x; revert x; intro _) | with_reducible refine modMgt_steady _ _ ?_ rfl | with_reducible refine done_steady _ _ _ ?_ | with_reducible refine pushOp_steady _ _ ?_ | with_reducible refine conflict_steady _ _ ?_ | with_reducible refine loadGo_steady _ _ ?_ | split)
theorem execLoadTakeUp_steady (s : State) (hs : s.Steady s₀) : ∀ out, execLoadTakeUp s = .next out → out.Steady s₀ := by
  intro out ht; unfold execLoadTakeUp at ht; (try injection ht with ht); subst ht; repeat' (first | with_reducible assumption | with_reducible (refine upd_steady _ ?_ .. ; with_reducible assumption) | with_reducible refine ite_steady ?_ ?_ | with_reducible refine modMgt_steady _ _ ?_ rfl | with_reducible refine fwProceed_steady _ ?_ | with_reducible refine takeLoad_steady _ _ ?_ | split)
theorem execLoadComplete_steady (s : State) (hs : s.Steady s₀) : ∀ out, execLoadComplete s = .next out → out.Steady s₀ := by
  intro out ht; unfold execLoadComplete at ht; (try injection ht with ht); subst ht; repeat' (first | with_reducible assumption | with_reducible (refine upd_steady _ ?_ .. ; with_reducible assumption) | with_reducible refine ite_steady ?_ ?_ | with_reducible (extract_lets +onlyGivenNames x; refine (show x.Steady s₀ → _ from fun hx => ?_) ?_; (on_goal 2 => unfold x; clear x); clear_value x; revert x; intro _ _) | with_reducible (extract_lets +onlyGivenNames x; refine (show x.1.Steady s₀ → _ from fun hx => ?_) ?_; (on_goal 2 => unfold x; clear x); clear_value x; revert x; intro _ _) | with_reducible (extract_lets +onlyGivenNames x; refine (show x.2.Steady s₀ → _ from fun hx => ?_) ?_; (on_goal 2 => unfold x; clear x); clear_value x; revert x; intro _ _) | with_reducible (extract_lets +onlyGivenNames x; refine (show (∀ t : State, t.Steady s₀ → (x t).Steady s₀) → _ from fun hx => ?_) ?_; (on_goal 2 => unfold x; clear x; intro t ht; beta_reduce); clear_value x; revert x; intro _ _) | with_reducible (extract_lets +onlyGivenNames x; clear_value x; revert x; intro _) | with_reducible refine modMgt_steady _ _ ?_ rfl | with_reducible refine complete_steady _ _ _ ?_ | with_reducible refine done_steady _ _ _ ?_ | with_reducible refine meetReserve_steady _ _ _ ?_ | with_reducible refine conflict_steady _ _ ?_ | with_reducible refine fwProceed_steady _ ?_ | with_reducible refine install_steady _ _ _ _ ?_ | with_reducible refine rezero_steady _ _ ?_ | split)

end Sys2Proof.Machine
end

