-- ==== Sys2Proof/Laws/SteadyResets.lean ====
section
/-! SUPPORT. For each operation of resets, links, power, issue and hurdles: what it keeps (State.Steady). -/

set_option maxRecDepth 4000
set_option linter.all false

namespace Sys2Proof.Machine

variable {s₀ : State}

/-! Machine/HostPort.lean. -/

theorem dropDescs_steady (s : State) (f : FnId) (hs : s.Steady s₀) : (State.dropDescs s f).Steady s₀ := by
  unfold State.dropDescs; repeat' (first | with_reducible assumption | with_reducible (refine upd_steady _ ?_ .. ; with_reducible assumption) | with_reducible refine ite_steady ?_ ?_ | with_reducible refine ite_fst ?_ ?_ | with_reducible (extract_lets +onlyGivenNames x; refine (show x.Steady s₀ → _ from fun hx => ?_) ?_; (on_goal 2 => unfold x; clear x); clear_value x; revert x; intro _ _) | with_reducible (extract_lets +onlyGivenNames x; refine (show x.1.Steady s₀ → _ from fun hx => ?_) ?_; (on_goal 2 => unfold x; clear x); clear_value x; revert x; intro _ _) | with_reducible (extract_lets +onlyGivenNames x; refine (show x.2.Steady s₀ → _ from fun hx => ?_) ?_; (on_goal 2 => unfold x; clear x); clear_value x; revert x; intro _ _) | with_reducible (extract_lets +onlyGivenNames x; refine (show (∀ t : State, t.Steady s₀ → (x t).Steady s₀) → _ from fun hx => ?_) ?_; (on_goal 2 => unfold x; clear x; intro t ht; beta_reduce); clear_value x; revert x; intro _ _) | with_reducible (extract_lets +onlyGivenNames x; clear_value x; revert x; intro _) | with_reducible refine modMgt_steady _ _ ?_ rfl | with_reducible refine modInfield_steady _ _ ?_ | with_reducible refine modHiu_steady _ _ ?_ | with_reducible refine modSvc_steady _ _ ?_ | with_reducible refine rezero_steady _ _ ?_ | split)
theorem hostResetJobs_steady (s : State) (f : FnId) (hs : s.Steady s₀) : (State.hostResetJobs s f).Steady s₀ := by
  unfold State.hostResetJobs; repeat' (first | with_reducible assumption | with_reducible (extract_lets +onlyGivenNames x; refine (show x.Steady s₀ → _ from fun hx => ?_) ?_; (on_goal 2 => unfold x; clear x); clear_value x; revert x; intro _ _) | with_reducible (extract_lets +onlyGivenNames x; refine (show x.1.Steady s₀ → _ from fun hx => ?_) ?_; (on_goal 2 => unfold x; clear x); clear_value x; revert x; intro _ _) | with_reducible (extract_lets +onlyGivenNames x; refine (show x.2.Steady s₀ → _ from fun hx => ?_) ?_; (on_goal 2 => unfold x; clear x); clear_value x; revert x; intro _ _) | with_reducible (extract_lets +onlyGivenNames x; refine (show (∀ t : State, t.Steady s₀ → (x t).Steady s₀) → _ from fun hx => ?_) ?_; (on_goal 2 => unfold x; clear x; intro t ht; beta_reduce); clear_value x; revert x; intro _ _) | with_reducible (extract_lets +onlyGivenNames x; clear_value x; revert x; intro _) | with_reducible refine foldl_steady _ _ _ ?_ (fun _ _ _ => ?_) | with_reducible refine logs_steady _ _ _ _ ?_ | with_reducible refine jobFaultQuiet_steady _ _ _ ?_ | split)
theorem parksCut_steady (s : State) (f : FnId) (hs : s.Steady s₀) : (State.parksCut s f).Steady s₀ := by
  unfold State.parksCut; repeat' (first | with_reducible assumption | with_reducible refine foldl_steady _ _ _ ?_ (fun _ _ _ => ?_) | with_reducible refine modPart_steady _ _ _ ?_ | split)
theorem fnReset_steady (s : State) (f : FnId) (hs : s.Steady s₀) : (State.fnReset s f).Steady s₀ := by
  unfold State.fnReset; repeat' (first | with_reducible assumption | with_reducible (refine upd_steady _ ?_ .. ; with_reducible assumption) | with_reducible refine ite_steady ?_ ?_ | with_reducible (extract_lets +onlyGivenNames x; refine (show x.Steady s₀ → _ from fun hx => ?_) ?_; (on_goal 2 => unfold x; clear x); clear_value x; revert x; intro _ _) | with_reducible (extract_lets +onlyGivenNames x; refine (show x.1.Steady s₀ → _ from fun hx => ?_) ?_; (on_goal 2 => unfold x; clear x); clear_value x; revert x; intro _ _) | with_reducible (extract_lets +onlyGivenNames x; refine (show x.2.Steady s₀ → _ from fun hx => ?_) ?_; (on_goal 2 => unfold x; clear x); clear_value x; revert x; intro _ _) | with_reducible (extract_lets +onlyGivenNames x; refine (show (∀ t : State, t.Steady s₀ → (x t).Steady s₀) → _ from fun hx => ?_) ?_; (on_goal 2 => unfold x; clear x; intro t ht; beta_reduce); clear_value x; revert x; intro _ _) | with_reducible (extract_lets +onlyGivenNames x; clear_value x; revert x; intro _) | with_reducible refine modFn_steady _ _ _ ?_ | with_reducible refine modHiu_steady _ _ ?_ | with_reducible refine modSvc_steady _ _ ?_ | with_reducible refine logs_steady _ _ _ _ ?_ | with_reducible refine dropLines_steady _ ?_ | with_reducible refine dropDescs_steady _ _ ?_ | with_reducible refine hostResetJobs_steady _ _ ?_ | with_reducible refine parksCut_steady _ _ ?_ | with_reducible refine functionReset_steady _ _ ?_ | split)
theorem functionReset_steady (s : State) (f : FnId) (hs : s.Steady s₀) : (State.functionReset s f).Steady s₀ := by
  unfold State.functionReset; repeat' (first | with_reducible assumption | with_reducible (refine upd_steady _ ?_ .. ; with_reducible assumption) | with_reducible refine ite_steady ?_ ?_ | with_reducible (extract_lets +onlyGivenNames x; refine (show x.Steady s₀ → _ from fun hx => ?_) ?_; (on_goal 2 => unfold x; clear x); clear_value x; revert x; intro _ _) | with_reducible (extract_lets +onlyGivenNames x; refine (show x.1.Steady s₀ → _ from fun hx => ?_) ?_; (on_goal 2 => unfold x; clear x); clear_value x; revert x; intro _ _) | with_reducible (extract_lets +onlyGivenNames x; refine (show x.2.Steady s₀ → _ from fun hx => ?_) ?_; (on_goal 2 => unfold x; clear x); clear_value x; revert x; intro _ _) | with_reducible (extract_lets +onlyGivenNames x; refine (show (∀ t : State, t.Steady s₀ → (x t).Steady s₀) → _ from fun hx => ?_) ?_; (on_goal 2 => unfold x; clear x; intro t ht; beta_reduce); clear_value x; revert x; intro _ _) | with_reducible (extract_lets +onlyGivenNames x; clear_value x; revert x; intro _) | with_reducible refine foldl_steady _ _ _ ?_ (fun _ _ _ => ?_) | with_reducible refine modHiu_steady _ _ ?_ | with_reducible refine modSvc_steady _ _ ?_ | with_reducible refine fwProceed_steady _ ?_ | with_reducible refine fwAbandon_steady _ ?_ | with_reducible refine fnReset_steady _ _ ?_ | split)
theorem execFunctionReset_steady (f : FnId) (s : State) (hs : s.Steady s₀) : ∀ out, execFunctionReset f s = .next out → out.Steady s₀ := by
  intro out ht; unfold execFunctionReset at ht; refine overHost_steady _ _ ?_ hs _ ht; beta_reduce; repeat' (first | with_reducible assumption | with_reducible refine functionReset_steady _ _ ?_ | split)
theorem hostLost_steady (s : State) (stage : PortStage) (hs : s.Steady s₀) : (State.hostLost s stage).Steady s₀ := by
  unfold State.hostLost; repeat' (first | with_reducible assumption | with_reducible refine modHiu_steady _ _ ?_ | with_reducible refine logs_steady _ _ _ _ ?_ | with_reducible refine functionReset_steady _ _ ?_ | split)
theorem noPartner_steady (s : State) (hs : s.Steady s₀) : (State.noPartner s).Steady s₀ := by
  unfold State.noPartner; repeat' (first | with_reducible assumption | with_reducible (refine upd_steady _ ?_ .. ; with_reducible assumption) | with_reducible refine ite_steady ?_ ?_ | with_reducible refine modHiu_steady _ _ ?_ | with_reducible refine logs_steady _ _ _ _ ?_ | split)
theorem execHostLinkDown_steady (s : State) (hs : s.Steady s₀) : ∀ out, execHostLinkDown s = .next out → out.Steady s₀ := by
  intro out ht; unfold execHostLinkDown at ht; (try injection ht with ht); subst ht; repeat' (first | with_reducible assumption | with_reducible refine ite_steady ?_ ?_ | with_reducible refine hostLost_steady _ _ ?_ | with_reducible refine noPartner_steady _ ?_ | split)
theorem execPerstLChange_steady (asserted : Bool) (s : State) (hs : s.Steady s₀) : ∀ out, execPerstLChange asserted s = .next out → out.Steady s₀ := by
  intro out ht; unfold execPerstLChange at ht; (try injection ht with ht); subst ht; repeat' (first | with_reducible assumption | with_reducible (refine upd_steady _ ?_ .. ; with_reducible assumption) | with_reducible refine ite_steady ?_ ?_ | with_reducible (extract_lets +onlyGivenNames x; refine (show x.Steady s₀ → _ from fun hx => ?_) ?_; (on_goal 2 => unfold x; clear x); clear_value x; revert x; intro _ _) | with_reducible (extract_lets +onlyGivenNames x; refine (show x.1.Steady s₀ → _ from fun hx => ?_) ?_; (on_goal 2 => unfold x; clear x); clear_value x; revert x; intro _ _) | with_reducible (extract_lets +onlyGivenNames x; refine (show x.2.Steady s₀ → _ from fun hx => ?_) ?_; (on_goal 2 => unfold x; clear x); clear_value x; revert x; intro _ _) | with_reducible (extract_lets +onlyGivenNames x; refine (show (∀ t : State, t.Steady s₀ → (x t).Steady s₀) → _ from fun hx => ?_) ?_; (on_goal 2 => unfold x; clear x; intro t ht; beta_reduce); clear_value x; revert x; intro _ _) | with_reducible (extract_lets +onlyGivenNames x; clear_value x; revert x; intro _) | with_reducible refine modPower_steady _ _ ?_ ⟨rfl, id⟩ | with_reducible refine modHiu_steady _ _ ?_ | with_reducible refine hostLost_steady _ _ ?_ | split)
theorem execHostLinkUp_steady (rate : BitVec 4) (width : BitVec 5) (mode : PortMode) (setup : PortSetup) (s : State) (hs : s.Steady s₀) : ∀ out, execHostLinkUp rate width mode setup s = .next out → out.Steady s₀ := by
  intro out ht; unfold execHostLinkUp at ht; (try injection ht with ht); subst ht; repeat' (first | with_reducible assumption | with_reducible (refine upd_steady _ ?_ .. ; with_reducible assumption) | with_reducible refine ite_steady ?_ ?_ | with_reducible (extract_lets +onlyGivenNames x; refine (show x.Steady s₀ → _ from fun hx => ?_) ?_; (on_goal 2 => unfold x; clear x); clear_value x; revert x; intro _ _) | with_reducible (extract_lets +onlyGivenNames x; refine (show x.1.Steady s₀ → _ from fun hx => ?_) ?_; (on_goal 2 => unfold x; clear x); clear_value x; revert x; intro _ _) | with_reducible (extract_lets +onlyGivenNames x; refine (show x.2.Steady s₀ → _ from fun hx => ?_) ?_; (on_goal 2 => unfold x; clear x); clear_value x; revert x; intro _ _) | with_reducible (extract_lets +onlyGivenNames x; refine (show (∀ t : State, t.Steady s₀ → (x t).Steady s₀) → _ from fun hx => ?_) ?_; (on_goal 2 => unfold x; clear x; intro t ht; beta_reduce); clear_value x; revert x; intro _ _) | with_reducible (extract_lets +onlyGivenNames x; clear_value x; revert x; intro _) | with_reducible refine foldl_steady _ _ _ ?_ (fun _ _ _ => ?_) | with_reducible refine modHiu_steady _ _ ?_ | with_reducible refine logs_steady _ _ _ _ ?_ | with_reducible refine msixFreedAll_steady _ _ ?_ | with_reducible refine takeLines_steady _ _ ?_ | with_reducible refine hostLost_steady _ _ ?_ | with_reducible refine noPartner_steady _ ?_ | split)

/-! Machine/Train.lean. -/

theorem listenOrOff_steady (s : State) (l : LinkId) (hs : s.Steady s₀) : (State.listenOrOff s l).Steady s₀ := by
  unfold State.listenOrOff; repeat' (first | with_reducible assumption | with_reducible (refine upd_steady _ ?_ .. ; with_reducible assumption) | with_reducible refine ite_steady ?_ ?_ | with_reducible refine modLink_steady _ _ _ ?_ | split)
theorem enterIdentify_steady (s : State) (l : LinkId) (hs : s.Steady s₀) : (State.enterIdentify s l).Steady s₀ := by
  unfold State.enterIdentify; repeat' (first | with_reducible assumption | with_reducible (refine upd_steady _ ?_ .. ; with_reducible assumption) | with_reducible refine ite_steady ?_ ?_ | with_reducible (extract_lets +onlyGivenNames x; refine (show x.Steady s₀ → _ from fun hx => ?_) ?_; (on_goal 2 => unfold x; clear x); clear_value x; revert x; intro _ _) | with_reducible (extract_lets +onlyGivenNames x; refine (show x.1.Steady s₀ → _ from fun hx => ?_) ?_; (on_goal 2 => unfold x; clear x); clear_value x; revert x; intro _ _) | with_reducible (extract_lets +onlyGivenNames x; refine (show x.2.Steady s₀ → _ from fun hx => ?_) ?_; (on_goal 2 => unfold x; clear x); clear_value x; revert x; intro _ _) | with_reducible (extract_lets +onlyGivenNames x; refine (show (∀ t : State, t.Steady s₀ → (x t).Steady s₀) → _ from fun hx => ?_) ?_; (on_goal 2 => unfold x; clear x; intro t ht; beta_reduce); clear_value x; revert x; intro _ _) | with_reducible (extract_lets +onlyGivenNames x; clear_value x; revert x; intro _) | with_reducible refine modLink_steady _ _ _ ?_ | with_reducible refine logs_steady _ _ _ _ ?_ | split)
theorem trainFault_steady (s : State) (l : LinkId) (code : W16) (hs : s.Steady s₀) : (State.trainFault s l code).Steady s₀ := by
  unfold State.trainFault; repeat' (first | with_reducible assumption | with_reducible (refine upd_steady _ ?_ .. ; with_reducible assumption) | with_reducible refine modLink_steady _ _ _ ?_ | with_reducible refine logs_steady _ _ _ _ ?_ | split)
theorem logMarked_steady (s : State) (l : LinkId) (n : Nat) (hs : s.Steady s₀) : (s.logMarked l n).Steady s₀ := by
  induction n generalizing s with
  | zero => exact hs
  | succ n ih => exact ih _ (logs_steady _ _ _ _ hs)
theorem execLaneFailure_steady (l : LinkId) (dir : LaneDir) (lane : LaneIx) (kind : LaneFault) (s : State) (hs : s.Steady s₀) : ∀ out, execLaneFailure l dir lane kind s = .next out → out.Steady s₀ := by
  intro out ht; unfold execLaneFailure at ht; (try injection ht with ht); subst ht; repeat' (first | with_reducible assumption | with_reducible (refine upd_steady _ ?_ .. ; with_reducible assumption) | with_reducible refine ite_steady ?_ ?_ | with_reducible (extract_lets +onlyGivenNames x; refine (show x.Steady s₀ → _ from fun hx => ?_) ?_; (on_goal 2 => unfold x; clear x); clear_value x; revert x; intro _ _) | with_reducible (extract_lets +onlyGivenNames x; refine (show x.1.Steady s₀ → _ from fun hx => ?_) ?_; (on_goal 2 => unfold x; clear x); clear_value x; revert x; intro _ _) | with_reducible (extract_lets +onlyGivenNames x; refine (show x.2.Steady s₀ → _ from fun hx => ?_) ?_; (on_goal 2 => unfold x; clear x); clear_value x; revert x; intro _ _) | with_reducible (extract_lets +onlyGivenNames x; refine (show (∀ t : State, t.Steady s₀ → (x t).Steady s₀) → _ from fun hx => ?_) ?_; (on_goal 2 => unfold x; clear x; intro t ht; beta_reduce); clear_value x; revert x; intro _ _) | with_reducible (extract_lets +onlyGivenNames x; clear_value x; revert x; intro _) | with_reducible refine modLink_steady _ _ _ ?_ | with_reducible refine logs_steady _ _ _ _ ?_ | with_reducible refine linkDown_steady _ _ _ ?_ | with_reducible refine announceSwap_steady _ _ _ _ ?_ | with_reducible refine laneStateOf_steady ?_ _ (by assumption) | with_reducible refine laneStateOf_steadyD ?_ _ ?_ | split)
theorem execLaneSwap_steady (l : LinkId) (dir : LaneDir) (s : State) (hs : s.Steady s₀) : ∀ out, execLaneSwap l dir s = .next out → out.Steady s₀ := by
  intro out ht; unfold execLaneSwap at ht; (try injection ht with ht); subst ht; repeat' (first | with_reducible assumption | with_reducible (refine upd_steady _ ?_ .. ; with_reducible assumption) | with_reducible refine ite_steady ?_ ?_ | with_reducible (extract_lets +onlyGivenNames x; refine (show x.Steady s₀ → _ from fun hx => ?_) ?_; (on_goal 2 => unfold x; clear x); clear_value x; revert x; intro _ _) | with_reducible (extract_lets +onlyGivenNames x; refine (show x.1.Steady s₀ → _ from fun hx => ?_) ?_; (on_goal 2 => unfold x; clear x); clear_value x; revert x; intro _ _) | with_reducible (extract_lets +onlyGivenNames x; refine (show x.2.Steady s₀ → _ from fun hx => ?_) ?_; (on_goal 2 => unfold x; clear x); clear_value x; revert x; intro _ _) | with_reducible (extract_lets +onlyGivenNames x; refine (show (∀ t : State, t.Steady s₀ → (x t).Steady s₀) → _ from fun hx => ?_) ?_; (on_goal 2 => unfold x; clear x; intro t ht; beta_reduce); clear_value x; revert x; intro _ _) | with_reducible (extract_lets +onlyGivenNames x; clear_value x; revert x; intro _) | with_reducible refine modLink_steady _ _ _ ?_ | with_reducible refine logs_steady _ _ _ _ ?_ | with_reducible refine linkDown_steady _ _ _ ?_ | with_reducible refine laneStateOf_steady ?_ _ (by assumption) | with_reducible refine laneStateOf_steadyD ?_ _ ?_ | split)
theorem execSignalLost_steady (l : LinkId) (s : State) (hs : s.Steady s₀) : ∀ out, execSignalLost l s = .next out → out.Steady s₀ := by
  intro out ht; unfold execSignalLost at ht; (try injection ht with ht); subst ht; repeat' (first | with_reducible assumption | with_reducible refine ite_steady ?_ ?_ | with_reducible refine linkDown_steady _ _ _ ?_ | split)
theorem execPartnerReset_steady (l : LinkId) (s : State) (hs : s.Steady s₀) : ∀ out, execPartnerReset l s = .next out → out.Steady s₀ := by
  intro out ht; unfold execPartnerReset at ht; (try injection ht with ht); subst ht; repeat' (first | with_reducible assumption | with_reducible refine ite_steady ?_ ?_ | with_reducible refine linkDown_steady _ _ _ ?_ | split)
theorem execLinkDownComplete_steady (l : LinkId) (s : State) (hs : s.Steady s₀) : ∀ out, execLinkDownComplete l s = .next out → out.Steady s₀ := by
  intro out ht; unfold execLinkDownComplete at ht; (try injection ht with ht); subst ht; repeat' (first | with_reducible assumption | with_reducible refine ite_steady ?_ ?_ | with_reducible refine listenOrOff_steady _ _ ?_ | split)
theorem execPresenceChange_steady (l : LinkId) (present : Bool) (s : State) (hs : s.Steady s₀) : ∀ out, execPresenceChange l present s = .next out → out.Steady s₀ := by
  intro out ht; unfold execPresenceChange at ht; (try injection ht with ht); subst ht; repeat' (first | with_reducible assumption | with_reducible (refine upd_steady _ ?_ .. ; with_reducible assumption) | with_reducible refine ite_steady ?_ ?_ | with_reducible (extract_lets +onlyGivenNames x; refine (show x.Steady s₀ → _ from fun hx => ?_) ?_; (on_goal 2 => unfold x; clear x); clear_value x; revert x; intro _ _) | with_reducible (extract_lets +onlyGivenNames x; refine (show x.1.Steady s₀ → _ from fun hx => ?_) ?_; (on_goal 2 => unfold x; clear x); clear_value x; revert x; intro _ _) | with_reducible (extract_lets +onlyGivenNames x; refine (show x.2.Steady s₀ → _ from fun hx => ?_) ?_; (on_goal 2 => unfold x; clear x); clear_value x; revert x; intro _ _) | with_reducible (extract_lets +onlyGivenNames x; refine (show (∀ t : State, t.Steady s₀ → (x t).Steady s₀) → _ from fun hx => ?_) ?_; (on_goal 2 => unfold x; clear x; intro t ht; beta_reduce); clear_value x; revert x; intro _ _) | with_reducible (extract_lets +onlyGivenNames x; clear_value x; revert x; intro _) | with_reducible refine modLink_steady _ _ _ ?_ | with_reducible refine linkDown_steady _ _ _ ?_ | with_reducible refine present_steady _ _ _ _ ?_ | with_reducible refine listenOrOff_steady _ _ ?_ | with_reducible refine enterIdentify_steady _ _ ?_ | with_reducible refine Taken_check_steadyE ?_ (by assumption) | split)
theorem execCableIdRead_steady (l : LinkId) (id : Option (BitVec 256)) (s : State) (hs : s.Steady s₀) : ∀ out, execCableIdRead l id s = .next out → out.Steady s₀ := by
  intro out ht; unfold execCableIdRead at ht; (try injection ht with ht); subst ht; repeat' (first | with_reducible assumption | with_reducible (refine upd_steady _ ?_ .. ; with_reducible assumption) | with_reducible refine ite_steady ?_ ?_ | with_reducible (extract_lets +onlyGivenNames x; refine (show x.Steady s₀ → _ from fun hx => ?_) ?_; (on_goal 2 => unfold x; clear x); clear_value x; revert x; intro _ _) | with_reducible (extract_lets +onlyGivenNames x; refine (show x.1.Steady s₀ → _ from fun hx => ?_) ?_; (on_goal 2 => unfold x; clear x); clear_value x; revert x; intro _ _) | with_reducible (extract_lets +onlyGivenNames x; refine (show x.2.Steady s₀ → _ from fun hx => ?_) ?_; (on_goal 2 => unfold x; clear x); clear_value x; revert x; intro _ _) | with_reducible (extract_lets +onlyGivenNames x; refine (show (∀ t : State, t.Steady s₀ → (x t).Steady s₀) → _ from fun hx => ?_) ?_; (on_goal 2 => unfold x; clear x; intro t ht; beta_reduce); clear_value x; revert x; intro _ _) | with_reducible (extract_lets +onlyGivenNames x; clear_value x; revert x; intro _) | with_reducible refine modLink_steady _ _ _ ?_ | with_reducible refine logs_steady _ _ _ _ ?_ | split)
theorem execWakePatternSeen_steady (l : LinkId) (s : State) (hs : s.Steady s₀) : ∀ out, execWakePatternSeen l s = .next out → out.Steady s₀ := by
  intro out ht; unfold execWakePatternSeen at ht; (try injection ht with ht); subst ht; repeat' (first | with_reducible assumption | with_reducible (refine upd_steady _ ?_ .. ; with_reducible assumption) | with_reducible refine ite_steady ?_ ?_ | with_reducible refine modLink_steady _ _ _ ?_ | split)
theorem execListenTimeout_steady (l : LinkId) (s : State) (hs : s.Steady s₀) : ∀ out, execListenTimeout l s = .next out → out.Steady s₀ := by
  intro out ht; unfold execListenTimeout at ht; (try injection ht with ht); subst ht; repeat' (first | with_reducible assumption | with_reducible (refine upd_steady _ ?_ .. ; with_reducible assumption) | with_reducible refine ite_steady ?_ ?_ | with_reducible (extract_lets +onlyGivenNames x; refine (show x.Steady s₀ → _ from fun hx => ?_) ?_; (on_goal 2 => unfold x; clear x); clear_value x; revert x; intro _ _) | with_reducible (extract_lets +onlyGivenNames x; refine (show x.1.Steady s₀ → _ from fun hx => ?_) ?_; (on_goal 2 => unfold x; clear x); clear_value x; revert x; intro _ _) | with_reducible (extract_lets +onlyGivenNames x; refine (show x.2.Steady s₀ → _ from fun hx => ?_) ?_; (on_goal 2 => unfold x; clear x); clear_value x; revert x; intro _ _) | with_reducible (extract_lets +onlyGivenNames x; refine (show (∀ t : State, t.Steady s₀ → (x t).Steady s₀) → _ from fun hx => ?_) ?_; (on_goal 2 => unfold x; clear x; intro t ht; beta_reduce); clear_value x; revert x; intro _ _) | with_reducible (extract_lets +onlyGivenNames x; clear_value x; revert x; intro _) | with_reducible refine modLink_steady _ _ _ ?_ | with_reducible refine logs_steady _ _ _ _ ?_ | split)
theorem execListenBackoffEnd_steady (l : LinkId) (s : State) (hs : s.Steady s₀) : ∀ out, execListenBackoffEnd l s = .next out → out.Steady s₀ := by
  intro out ht; unfold execListenBackoffEnd at ht; (try injection ht with ht); subst ht; repeat' (first | with_reducible assumption | with_reducible (refine upd_steady _ ?_ .. ; with_reducible assumption) | with_reducible refine ite_steady ?_ ?_ | with_reducible refine modLink_steady _ _ _ ?_ | split)
theorem execAlignDone_steady (l : LinkId) (tx : Vector LaneFound 18) (rx : Vector LaneFound 18) (s : State) (hs : s.Steady s₀) : ∀ out, execAlignDone l tx rx s = .next out → out.Steady s₀ := by
  intro out ht; unfold execAlignDone at ht; (try injection ht with ht); subst ht; repeat' (first | with_reducible assumption | with_reducible (refine upd_steady _ ?_ .. ; with_reducible assumption) | with_reducible refine ite_steady ?_ ?_ | with_reducible (extract_lets +onlyGivenNames x; refine (show x.Steady s₀ → _ from fun hx => ?_) ?_; (on_goal 2 => unfold x; clear x); clear_value x; revert x; intro _ _) | with_reducible (extract_lets +onlyGivenNames x; refine (show x.1.Steady s₀ → _ from fun hx => ?_) ?_; (on_goal 2 => unfold x; clear x); clear_value x; revert x; intro _ _) | with_reducible (extract_lets +onlyGivenNames x; refine (show x.2.Steady s₀ → _ from fun hx => ?_) ?_; (on_goal 2 => unfold x; clear x); clear_value x; revert x; intro _ _) | with_reducible (extract_lets +onlyGivenNames x; refine (show (∀ t : State, t.Steady s₀ → (x t).Steady s₀) → _ from fun hx => ?_) ?_; (on_goal 2 => unfold x; clear x; intro t ht; beta_reduce); clear_value x; revert x; intro _ _) | with_reducible (extract_lets +onlyGivenNames x; clear_value x; revert x; intro _) | with_reducible refine modLink_steady _ _ _ ?_ | with_reducible refine enterIdentify_steady _ _ ?_ | with_reducible refine trainFault_steady _ _ _ ?_ | with_reducible refine logMarked_steady _ _ _ ?_ | split)
theorem execIdentifyDone_steady (l : LinkId) (machine : W32) (chip : BitVec 13) (port : BitVec 3) (s : State) (hs : s.Steady s₀) : ∀ out, execIdentifyDone l machine chip port s = .next out → out.Steady s₀ := by
  intro out ht; unfold execIdentifyDone at ht; (try injection ht with ht); subst ht; repeat' (first | with_reducible assumption | with_reducible (refine upd_steady _ ?_ .. ; with_reducible assumption) | with_reducible refine ite_steady ?_ ?_ | with_reducible (extract_lets +onlyGivenNames x; refine (show x.Steady s₀ → _ from fun hx => ?_) ?_; (on_goal 2 => unfold x; clear x); clear_value x; revert x; intro _ _) | with_reducible (extract_lets +onlyGivenNames x; refine (show x.1.Steady s₀ → _ from fun hx => ?_) ?_; (on_goal 2 => unfold x; clear x); clear_value x; revert x; intro _ _) | with_reducible (extract_lets +onlyGivenNames x; refine (show x.2.Steady s₀ → _ from fun hx => ?_) ?_; (on_goal 2 => unfold x; clear x); clear_value x; revert x; intro _ _) | with_reducible (extract_lets +onlyGivenNames x; refine (show (∀ t : State, t.Steady s₀ → (x t).Steady s₀) → _ from fun hx => ?_) ?_; (on_goal 2 => unfold x; clear x; intro t ht; beta_reduce); clear_value x; revert x; intro _ _) | with_reducible (extract_lets +onlyGivenNames x; clear_value x; revert x; intro _) | with_reducible refine modLink_steady _ _ _ ?_ | with_reducible refine hand_steady _ _ _ _ _ ?_ | with_reducible refine conflict_steady _ _ ?_ | with_reducible refine enterIdentify_steady _ _ ?_ | split)
theorem execTrainDone_steady (l : LinkId) (noisyTx : BitVec 18) (noisyRx : BitVec 18) (s : State) (hs : s.Steady s₀) : ∀ out, execTrainDone l noisyTx noisyRx s = .next out → out.Steady s₀ := by
  intro out ht; unfold execTrainDone at ht; (try injection ht with ht); subst ht; repeat' (first | with_reducible assumption | with_reducible (refine upd_steady _ ?_ .. ; with_reducible assumption) | with_reducible refine ite_steady ?_ ?_ | with_reducible (extract_lets +onlyGivenNames x; refine (show x.Steady s₀ → _ from fun hx => ?_) ?_; (on_goal 2 => unfold x; clear x); clear_value x; revert x; intro _ _) | with_reducible (extract_lets +onlyGivenNames x; refine (show x.1.Steady s₀ → _ from fun hx => ?_) ?_; (on_goal 2 => unfold x; clear x); clear_value x; revert x; intro _ _) | with_reducible (extract_lets +onlyGivenNames x; refine (show x.2.Steady s₀ → _ from fun hx => ?_) ?_; (on_goal 2 => unfold x; clear x); clear_value x; revert x; intro _ _) | with_reducible (extract_lets +onlyGivenNames x; refine (show (∀ t : State, t.Steady s₀ → (x t).Steady s₀) → _ from fun hx => ?_) ?_; (on_goal 2 => unfold x; clear x; intro t ht; beta_reduce); clear_value x; revert x; intro _ _) | with_reducible (extract_lets +onlyGivenNames x; clear_value x; revert x; intro _) | with_reducible refine modLink_steady _ _ _ ?_ | with_reducible refine trainFault_steady _ _ _ ?_ | with_reducible refine logMarked_steady _ _ _ ?_ | with_reducible refine Taken_check_steadyE ?_ (by assumption) | split)
theorem execCheckDone_steady (l : LinkId) (framesGood : Bool) (delay : BitVec 16) (partnerEpoch : Byte) (s : State) (hs : s.Steady s₀) : ∀ out, execCheckDone l framesGood delay partnerEpoch s = .next out → out.Steady s₀ := by
  intro out ht; unfold execCheckDone at ht; (try injection ht with ht); subst ht; repeat' (first | with_reducible assumption | with_reducible (refine upd_steady _ ?_ .. ; with_reducible assumption) | with_reducible refine ite_steady ?_ ?_ | with_reducible (extract_lets +onlyGivenNames x; refine (show x.Steady s₀ → _ from fun hx => ?_) ?_; (on_goal 2 => unfold x; clear x); clear_value x; revert x; intro _ _) | with_reducible (extract_lets +onlyGivenNames x; refine (show x.1.Steady s₀ → _ from fun hx => ?_) ?_; (on_goal 2 => unfold x; clear x); clear_value x; revert x; intro _ _) | with_reducible (extract_lets +onlyGivenNames x; refine (show x.2.Steady s₀ → _ from fun hx => ?_) ?_; (on_goal 2 => unfold x; clear x); clear_value x; revert x; intro _ _) | with_reducible (extract_lets +onlyGivenNames x; refine (show (∀ t : State, t.Steady s₀ → (x t).Steady s₀) → _ from fun hx => ?_) ?_; (on_goal 2 => unfold x; clear x; intro t ht; beta_reduce); clear_value x; revert x; intro _ _) | with_reducible (extract_lets +onlyGivenNames x; clear_value x; revert x; intro _) | with_reducible refine foldl_steady _ _ _ ?_ (fun _ _ _ => ?_) | with_reducible refine modLink_steady _ _ _ ?_ | with_reducible refine logs_steady _ _ _ _ ?_ | with_reducible refine sendDigests_steady _ _ _ ?_ | with_reducible refine trainFault_steady _ _ _ ?_ | with_reducible refine Taken_check_steadyE ?_ (by assumption) | split)
theorem execStageTimeout_steady (l : LinkId) (s : State) (hs : s.Steady s₀) : ∀ out, execStageTimeout l s = .next out → out.Steady s₀ := by
  intro out ht; unfold execStageTimeout at ht; (try injection ht with ht); subst ht; repeat' (first | with_reducible assumption | with_reducible (refine upd_steady _ ?_ .. ; with_reducible assumption) | with_reducible refine modLink_steady _ _ _ ?_ | with_reducible refine logs_steady _ _ _ _ ?_ | with_reducible refine Taken_check_steadyE ?_ (by assumption) | split)
theorem linkReset_steady (s : State) (l : LinkId) (hs : s.Steady s₀) : (State.linkReset s l).Steady s₀ := by
  unfold State.linkReset; repeat' (first | with_reducible assumption | with_reducible refine linkDown_steady _ _ _ ?_ | split)
theorem execLinkReset_steady (l : LinkId) (s : State) (hs : s.Steady s₀) : ∀ out, execLinkReset l s = .next out → out.Steady s₀ := by
  intro out ht; unfold execLinkReset at ht; refine overHost_steady _ _ ?_ hs _ ht; beta_reduce; repeat' (first | with_reducible assumption | with_reducible refine linkReset_steady _ _ ?_ | split)
theorem retrain_steady (s : State) (l : LinkId) (hs : s.Steady s₀) : (State.retrain s l).Steady s₀ := by
  unfold State.retrain; repeat' (first | with_reducible assumption | with_reducible refine listenOrOff_steady _ _ ?_ | split)
theorem execRetrain_steady (l : LinkId) (s : State) (hs : s.Steady s₀) : ∀ out, execRetrain l s = .next out → out.Steady s₀ := by
  intro out ht; unfold execRetrain at ht; refine overHost_steady _ _ ?_ hs _ ht; beta_reduce; repeat' (first | with_reducible assumption | with_reducible refine retrain_steady _ _ ?_ | split)
theorem linkEnable_steady (s : State) (l : LinkId) (enable : Bool) (hs : s.Steady s₀) : (State.linkEnable s l enable).Steady s₀ := by
  unfold State.linkEnable; repeat' (first | with_reducible assumption | with_reducible (refine upd_steady _ ?_ .. ; with_reducible assumption) | with_reducible (extract_lets +onlyGivenNames x; refine (show x.Steady s₀ → _ from fun hx => ?_) ?_; (on_goal 2 => unfold x; clear x); clear_value x; revert x; intro _ _) | with_reducible (extract_lets +onlyGivenNames x; refine (show x.1.Steady s₀ → _ from fun hx => ?_) ?_; (on_goal 2 => unfold x; clear x); clear_value x; revert x; intro _ _) | with_reducible (extract_lets +onlyGivenNames x; refine (show x.2.Steady s₀ → _ from fun hx => ?_) ?_; (on_goal 2 => unfold x; clear x); clear_value x; revert x; intro _ _) | with_reducible (extract_lets +onlyGivenNames x; refine (show (∀ t : State, t.Steady s₀ → (x t).Steady s₀) → _ from fun hx => ?_) ?_; (on_goal 2 => unfold x; clear x; intro t ht; beta_reduce); clear_value x; revert x; intro _ _) | with_reducible (extract_lets +onlyGivenNames x; clear_value x; revert x; intro _) | with_reducible refine modLink_steady _ _ _ ?_ | with_reducible refine linkDown_steady _ _ _ ?_ | with_reducible refine listenOrOff_steady _ _ ?_ | with_reducible refine linkReset_steady _ _ ?_ | split)
theorem execZlCtrlEnable_steady (l : LinkId) (enable : Bool) (s : State) (hs : s.Steady s₀) : ∀ out, execZlCtrlEnable l enable s = .next out → out.Steady s₀ := by
  intro out ht; unfold execZlCtrlEnable at ht; refine overHost_steady _ _ ?_ hs _ ht; beta_reduce; repeat' (first | with_reducible assumption | with_reducible refine linkEnable_steady _ _ _ ?_ | split)

/-! Machine/Issue.lean. -/

theorem fetchCheck_steady (s : State) (p : PartId) (region : Nat) (offset : Nat) (i : Issued) (engine : Nat) (unit : Nat) (hs : s.Steady s₀) : (State.fetchCheck s p region offset i engine unit).1.Steady s₀ := by
  unfold State.fetchCheck; repeat' (first | with_reducible assumption | with_reducible (refine upd_steady _ ?_ .. ; with_reducible assumption) | with_reducible refine ite_steady ?_ ?_ | with_reducible refine ite_fst ?_ ?_ | with_reducible (extract_lets +onlyGivenNames x; refine (show x.Steady s₀ → _ from fun hx => ?_) ?_; (on_goal 2 => unfold x; clear x); clear_value x; revert x; intro _ _) | with_reducible (extract_lets +onlyGivenNames x; refine (show x.1.Steady s₀ → _ from fun hx => ?_) ?_; (on_goal 2 => unfold x; clear x); clear_value x; revert x; intro _ _) | with_reducible (extract_lets +onlyGivenNames x; refine (show x.2.Steady s₀ → _ from fun hx => ?_) ?_; (on_goal 2 => unfold x; clear x); clear_value x; revert x; intro _ _) | with_reducible (extract_lets +onlyGivenNames x; refine (show (∀ t : State, t.Steady s₀ → (x t).Steady s₀) → _ from fun hx => ?_) ?_; (on_goal 2 => unfold x; clear x; intro t ht; beta_reduce); clear_value x; revert x; intro _ _) | with_reducible (extract_lets +onlyGivenNames x; clear_value x; revert x; intro _) | with_reducible refine draw_steady _ ?_ | with_reducible refine draw_steadyE ?_ (by assumption) | with_reducible refine partJobFault_steady _ _ _ _ ?_ | with_reducible refine fetchBytes_steady _ _ _ _ ?_ | with_reducible refine fetchBytes_steadyE ?_ (by assumption) | with_reducible refine consultAll_steady _ _ _ ?_ | with_reducible refine consultAll_steadyE ?_ (by assumption) | with_reducible (dsimp only) | with_reducible refine pair_steady ?_ (by assumption) | with_reducible refine ite_fst ?_ ?_ | with_reducible (dsimp only) | split)
theorem fetchCheck_steadyE {s : State} {p : PartId} {region : Nat} {offset : Nat} {i : Issued} {engine : Nat} {unit : Nat} {out : State} {res} (hs : s.Steady s₀) (heq : State.fetchCheck s p region offset i engine unit = (out, res)) : out.Steady s₀ := by
  have h := fetchCheck_steady s p region offset i engine unit hs; rw [heq] at h; exact h
theorem voidFrame_steady (s : State) (p : PartId) (hs : s.Steady s₀) : (State.voidFrame s p).Steady s₀ := by
  unfold State.voidFrame; repeat' (first | with_reducible assumption | with_reducible (refine upd_steady _ ?_ .. ; with_reducible assumption) | with_reducible refine ite_steady ?_ ?_ | with_reducible (extract_lets +onlyGivenNames x; refine (show x.Steady s₀ → _ from fun hx => ?_) ?_; (on_goal 2 => unfold x; clear x); clear_value x; revert x; intro _ _) | with_reducible (extract_lets +onlyGivenNames x; refine (show x.1.Steady s₀ → _ from fun hx => ?_) ?_; (on_goal 2 => unfold x; clear x); clear_value x; revert x; intro _ _) | with_reducible (extract_lets +onlyGivenNames x; refine (show x.2.Steady s₀ → _ from fun hx => ?_) ?_; (on_goal 2 => unfold x; clear x); clear_value x; revert x; intro _ _) | with_reducible (extract_lets +onlyGivenNames x; refine (show (∀ t : State, t.Steady s₀ → (x t).Steady s₀) → _ from fun hx => ?_) ?_; (on_goal 2 => unfold x; clear x; intro t ht; beta_reduce); clear_value x; revert x; intro _ _) | with_reducible (extract_lets +onlyGivenNames x; clear_value x; revert x; intro _) | with_reducible refine modPart_steady _ _ _ ?_ | with_reducible refine postAll_steady _ _ _ _ _ ?_ | with_reducible refine retire_steady _ _ _ _ _ ?_ | split)
theorem voidFrames_steady (s : State) (p : PartId) (k : Nat) (hs : s.Steady s₀) : (s.voidFrames p k).Steady s₀ := by
  induction k generalizing s with
  | zero => exact hs
  | succ k ih => exact ite_steady hs (ih _ (voidFrame_steady _ _ hs))
theorem toPoint_steady (s : State) (p : PartId) (i : Issued) (hs : s.Steady s₀) : (State.toPoint s p i).Steady s₀ := by
  unfold State.toPoint; repeat' (first | with_reducible assumption | with_reducible (refine upd_steady _ ?_ .. ; with_reducible assumption) | with_reducible refine ite_steady ?_ ?_ | with_reducible (extract_lets +onlyGivenNames x; refine (show x.Steady s₀ → _ from fun hx => ?_) ?_; (on_goal 2 => unfold x; clear x); clear_value x; revert x; intro _ _) | with_reducible (extract_lets +onlyGivenNames x; refine (show x.1.Steady s₀ → _ from fun hx => ?_) ?_; (on_goal 2 => unfold x; clear x); clear_value x; revert x; intro _ _) | with_reducible (extract_lets +onlyGivenNames x; refine (show x.2.Steady s₀ → _ from fun hx => ?_) ?_; (on_goal 2 => unfold x; clear x); clear_value x; revert x; intro _ _) | with_reducible (extract_lets +onlyGivenNames x; refine (show (∀ t : State, t.Steady s₀ → (x t).Steady s₀) → _ from fun hx => ?_) ?_; (on_goal 2 => unfold x; clear x; intro t ht; beta_reduce); clear_value x; revert x; intro _ _) | with_reducible (extract_lets +onlyGivenNames x; clear_value x; revert x; intro _) | with_reducible refine modPart_steady _ _ _ ?_ | with_reducible refine voidFrames_steady _ _ _ ?_ | split)
theorem issueTo_steady (s : State) (p : PartId) (j : Job) (k : StreamIx) (i : Issued) (hs : s.Steady s₀) : (State.issueTo s p j k i).Steady s₀ := by
  unfold State.issueTo; grind [modPart_steady, modJob_steady, toPoint_steady, upd_steady, → State.Steady.sram, → State.Steady.host, → State.Steady.flash, → State.Steady.input, → State.Steady.time, → State.Steady.slots, → State.Steady.keys, → State.Steady.queue, → State.Steady.por, Mem.wf_set, Mem.wf_write, Mem.wf_writeAll, Mem.wf_zero]
theorem issue_steady (s : State) (p : PartId) (j : Job) (x : Stream) (c : Cmd) (hs : s.Steady s₀) : (State.issue s p j x c).Steady s₀ := by
  unfold State.issue; repeat' (first | with_reducible assumption | with_reducible (refine upd_steady _ ?_ .. ; with_reducible assumption) | with_reducible (extract_lets +onlyGivenNames x; refine (show x.Steady s₀ → _ from fun hx => ?_) ?_; (on_goal 2 => unfold x; clear x); clear_value x; revert x; intro _ _) | with_reducible (extract_lets +onlyGivenNames x; refine (show x.1.Steady s₀ → _ from fun hx => ?_) ?_; (on_goal 2 => unfold x; clear x); clear_value x; revert x; intro _ _) | with_reducible (extract_lets +onlyGivenNames x; refine (show x.2.Steady s₀ → _ from fun hx => ?_) ?_; (on_goal 2 => unfold x; clear x); clear_value x; revert x; intro _ _) | with_reducible (extract_lets +onlyGivenNames x; refine (show (∀ t : State, t.Steady s₀ → (x t).Steady s₀) → _ from fun hx => ?_) ?_; (on_goal 2 => unfold x; clear x; intro t ht; beta_reduce); clear_value x; revert x; intro _ _) | with_reducible (extract_lets +onlyGivenNames x; clear_value x; revert x; intro _) | with_reducible refine modPart_steady _ _ _ ?_ | with_reducible refine settle_steady _ _ ?_ | with_reducible refine fetchCheck_steady _ _ _ _ _ _ _ ?_ | with_reducible refine fetchCheck_steadyE ?_ (by assumption) | with_reducible refine issueTo_steady _ _ _ _ _ ?_ | split)
theorem execSequencerIssue_steady (d : DieId) (s : State) (hs : s.Steady s₀) : ∀ out, execSequencerIssue d s = .next out → out.Steady s₀ := by
  intro out ht; unfold execSequencerIssue at ht; (try injection ht with ht); subst ht; repeat' (first | with_reducible assumption | with_reducible (refine upd_steady _ ?_ .. ; with_reducible assumption) | with_reducible refine ite_steady ?_ ?_ | with_reducible (extract_lets +onlyGivenNames x; refine (show x.Steady s₀ → _ from fun hx => ?_) ?_; (on_goal 2 => unfold x; clear x); clear_value x; revert x; intro _ _) | with_reducible (extract_lets +onlyGivenNames x; refine (show x.1.Steady s₀ → _ from fun hx => ?_) ?_; (on_goal 2 => unfold x; clear x); clear_value x; revert x; intro _ _) | with_reducible (extract_lets +onlyGivenNames x; refine (show x.2.Steady s₀ → _ from fun hx => ?_) ?_; (on_goal 2 => unfold x; clear x); clear_value x; revert x; intro _ _) | with_reducible (extract_lets +onlyGivenNames x; refine (show (∀ t : State, t.Steady s₀ → (x t).Steady s₀) → _ from fun hx => ?_) ?_; (on_goal 2 => unfold x; clear x; intro t ht; beta_reduce); clear_value x; revert x; intro _ _) | with_reducible (extract_lets +onlyGivenNames x; clear_value x; revert x; intro _) | with_reducible refine issue_steady _ _ _ _ _ ?_ | split)
theorem controlDone_steady (s : State) (p : PartId) (k : StreamIx) (i : Issued) (hs : s.Steady s₀) : (State.controlDone s p k i).Steady s₀ := by
  unfold State.controlDone; repeat' (first | with_reducible assumption | with_reducible (refine upd_steady _ ?_ .. ; with_reducible assumption) | with_reducible (extract_lets +onlyGivenNames x; refine (show x.Steady s₀ → _ from fun hx => ?_) ?_; (on_goal 2 => unfold x; clear x); clear_value x; revert x; intro _ _) | with_reducible (extract_lets +onlyGivenNames x; refine (show x.1.Steady s₀ → _ from fun hx => ?_) ?_; (on_goal 2 => unfold x; clear x); clear_value x; revert x; intro _ _) | with_reducible (extract_lets +onlyGivenNames x; refine (show x.2.Steady s₀ → _ from fun hx => ?_) ?_; (on_goal 2 => unfold x; clear x); clear_value x; revert x; intro _ _) | with_reducible (extract_lets +onlyGivenNames x; refine (show (∀ t : State, t.Steady s₀ → (x t).Steady s₀) → _ from fun hx => ?_) ?_; (on_goal 2 => unfold x; clear x; intro t ht; beta_reduce); clear_value x; revert x; intro _ _) | with_reducible (extract_lets +onlyGivenNames x; clear_value x; revert x; intro _) | with_reducible refine modPart_steady _ _ _ ?_ | with_reducible refine retire_steady _ _ _ _ _ ?_ | split)
theorem controlSkip_steady (s : State) (p : PartId) (k : StreamIx) (i : Issued) (cause : Nat) (hs : s.Steady s₀) : (State.controlSkip s p k i cause).Steady s₀ := by
  unfold State.controlSkip; repeat' (first | with_reducible assumption | with_reducible (refine upd_steady _ ?_ .. ; with_reducible assumption) | with_reducible (extract_lets +onlyGivenNames x; refine (show x.Steady s₀ → _ from fun hx => ?_) ?_; (on_goal 2 => unfold x; clear x); clear_value x; revert x; intro _ _) | with_reducible (extract_lets +onlyGivenNames x; refine (show x.1.Steady s₀ → _ from fun hx => ?_) ?_; (on_goal 2 => unfold x; clear x); clear_value x; revert x; intro _ _) | with_reducible (extract_lets +onlyGivenNames x; refine (show x.2.Steady s₀ → _ from fun hx => ?_) ?_; (on_goal 2 => unfold x; clear x); clear_value x; revert x; intro _ _) | with_reducible (extract_lets +onlyGivenNames x; refine (show (∀ t : State, t.Steady s₀ → (x t).Steady s₀) → _ from fun hx => ?_) ?_; (on_goal 2 => unfold x; clear x; intro t ht; beta_reduce); clear_value x; revert x; intro _ _) | with_reducible (extract_lets +onlyGivenNames x; clear_value x; revert x; intro _) | with_reducible refine modPart_steady _ _ _ ?_ | with_reducible refine retire_steady _ _ _ _ _ ?_ | split)
theorem execNop_steady (p : PartId) (k : StreamIx) (s : State) (hs : s.Steady s₀) : ∀ out, execNop p k s = .next out → out.Steady s₀ := by
  intro out ht; unfold execNop at ht; (try injection ht with ht); subst ht; repeat' (first | with_reducible assumption | with_reducible refine settle_steady _ _ ?_ | with_reducible refine controlDone_steady _ _ _ _ ?_ | with_reducible refine controlSkip_steady _ _ _ _ _ ?_ | split)
theorem closeCircuit_steady (s : State) (p : PartId) (k : StreamIx) (hs : s.Steady s₀) : (State.closeCircuit s p k).Steady s₀ := by
  unfold State.closeCircuit; repeat' (first | with_reducible assumption | with_reducible (refine upd_steady _ ?_ .. ; with_reducible assumption) | with_reducible refine ite_steady ?_ ?_ | with_reducible (extract_lets +onlyGivenNames x; refine (show x.Steady s₀ → _ from fun hx => ?_) ?_; (on_goal 2 => unfold x; clear x); clear_value x; revert x; intro _ _) | with_reducible (extract_lets +onlyGivenNames x; refine (show x.1.Steady s₀ → _ from fun hx => ?_) ?_; (on_goal 2 => unfold x; clear x); clear_value x; revert x; intro _ _) | with_reducible (extract_lets +onlyGivenNames x; refine (show x.2.Steady s₀ → _ from fun hx => ?_) ?_; (on_goal 2 => unfold x; clear x); clear_value x; revert x; intro _ _) | with_reducible (extract_lets +onlyGivenNames x; refine (show (∀ t : State, t.Steady s₀ → (x t).Steady s₀) → _ from fun hx => ?_) ?_; (on_goal 2 => unfold x; clear x; intro t ht; beta_reduce); clear_value x; revert x; intro _ _) | with_reducible (extract_lets +onlyGivenNames x; clear_value x; revert x; intro _) | with_reducible refine modPart_steady _ _ _ ?_ | with_reducible refine logs_steady _ _ _ _ ?_ | with_reducible refine partJobFault_steady _ _ _ _ ?_ | split)
theorem execEndCircuit_steady (p : PartId) (k : StreamIx) (s : State) (hs : s.Steady s₀) : ∀ out, execEndCircuit p k s = .next out → out.Steady s₀ := by
  intro out ht; unfold execEndCircuit at ht; (try injection ht with ht); subst ht; repeat' (first | with_reducible assumption | with_reducible refine settle_steady _ _ ?_ | with_reducible refine controlDone_steady _ _ _ _ ?_ | with_reducible refine controlSkip_steady _ _ _ _ _ ?_ | with_reducible refine closeCircuit_steady _ _ _ ?_ | split)
theorem execFence_steady (p : PartId) (k : StreamIx) (s : State) (hs : s.Steady s₀) : ∀ out, execFence p k s = .next out → out.Steady s₀ := by
  intro out ht; unfold execFence at ht; grind [modPart_steady, settle_steady, controlDone_steady, controlSkip_steady, upd_steady, → State.Steady.sram, → State.Steady.host, → State.Steady.flash, → State.Steady.input, → State.Steady.time, → State.Steady.slots, → State.Steady.keys, → State.Steady.queue, → State.Steady.por, Mem.wf_set, Mem.wf_write, Mem.wf_writeAll, Mem.wf_zero]
theorem decideHurdle_steady (s : State) (p : PartId) (k : StreamIx) (i : Issued) (hs : s.Steady s₀) : (State.decideHurdle s p k i).Steady s₀ := by
  unfold State.decideHurdle; repeat' (first | with_reducible assumption | with_reducible (refine upd_steady _ ?_ .. ; with_reducible assumption) | with_reducible refine ite_steady ?_ ?_ | with_reducible refine modPart_steady _ _ _ ?_ | with_reducible refine partJobFault_steady _ _ _ _ ?_ | with_reducible refine settle_steady _ _ ?_ | with_reducible refine controlDone_steady _ _ _ _ ?_ | split)
theorem hurdleMap_steady (s : State) (p : PartId) (x : Option State) (hx : ∀ out, x = some out → out.Steady s₀) (h : s.Steady s₀) :
    ((x.map (·.settle p)).getD s).Steady s₀ := by
  cases x with
  | none => exact h
  | some t => exact settle_steady _ _ (hx t rfl)
theorem execHurdle_steady (p : PartId) (k : StreamIx) (s : State) (hs : s.Steady s₀) : ∀ out, execHurdle p k s = .next out → out.Steady s₀ := by
  intro out ht; unfold execHurdle at ht; (try injection ht with ht); subst ht; repeat' (first | with_reducible assumption | with_reducible (refine upd_steady _ ?_ .. ; with_reducible assumption) | with_reducible refine ite_steady ?_ ?_ | with_reducible refine ite_fst ?_ ?_ | with_reducible (extract_lets +onlyGivenNames x; refine (show x.Steady s₀ → _ from fun hx => ?_) ?_; (on_goal 2 => unfold x; clear x); clear_value x; revert x; intro _ _) | with_reducible (extract_lets +onlyGivenNames x; refine (show x.1.Steady s₀ → _ from fun hx => ?_) ?_; (on_goal 2 => unfold x; clear x); clear_value x; revert x; intro _ _) | with_reducible (extract_lets +onlyGivenNames x; refine (show x.2.Steady s₀ → _ from fun hx => ?_) ?_; (on_goal 2 => unfold x; clear x); clear_value x; revert x; intro _ _) | with_reducible (extract_lets +onlyGivenNames x; refine (show (∀ t : State, t.Steady s₀ → (x t).Steady s₀) → _ from fun hx => ?_) ?_; (on_goal 2 => unfold x; clear x; intro t ht; beta_reduce); clear_value x; revert x; intro _ _) | with_reducible (extract_lets +onlyGivenNames x; clear_value x; revert x; intro _) | with_reducible refine modPart_steady _ _ _ ?_ | with_reducible refine partJobFault_steady _ _ _ _ ?_ | with_reducible refine settle_steady _ _ ?_ | with_reducible refine controlSkip_steady _ _ _ _ _ ?_ | with_reducible refine decideHurdle_steady _ _ _ _ ?_ | split)
theorem dispatchTo_steady (s : State) (p : PartId) (j : Job) (i : Issued) (hs : s.Steady s₀) : (State.dispatchTo s p j i).Steady s₀ := by
  unfold State.dispatchTo; grind [modPart_steady, modJob_steady, toPoint_steady, upd_steady, → State.Steady.sram, → State.Steady.host, → State.Steady.flash, → State.Steady.input, → State.Steady.time, → State.Steady.slots, → State.Steady.keys, → State.Steady.queue, → State.Steady.por, Mem.wf_set, Mem.wf_write, Mem.wf_writeAll, Mem.wf_zero]
theorem skipSend_steady (s : State) (p : PartId) (j : Job) (i : Issued) (cause : Nat) (hs : s.Steady s₀) : (State.skipSend s p j i cause).Steady s₀ := by
  unfold State.skipSend; repeat' (first | with_reducible assumption | with_reducible refine ite_steady ?_ ?_ | with_reducible (extract_lets +onlyGivenNames x; refine (show x.Steady s₀ → _ from fun hx => ?_) ?_; (on_goal 2 => unfold x; clear x); clear_value x; revert x; intro _ _) | with_reducible (extract_lets +onlyGivenNames x; refine (show x.1.Steady s₀ → _ from fun hx => ?_) ?_; (on_goal 2 => unfold x; clear x); clear_value x; revert x; intro _ _) | with_reducible (extract_lets +onlyGivenNames x; refine (show x.2.Steady s₀ → _ from fun hx => ?_) ?_; (on_goal 2 => unfold x; clear x); clear_value x; revert x; intro _ _) | with_reducible (extract_lets +onlyGivenNames x; refine (show (∀ t : State, t.Steady s₀ → (x t).Steady s₀) → _ from fun hx => ?_) ?_; (on_goal 2 => unfold x; clear x; intro t ht; beta_reduce); clear_value x; revert x; intro _ _) | with_reducible (extract_lets +onlyGivenNames x; clear_value x; revert x; intro _) | with_reducible refine modJob_steady _ _ _ ?_ | split)
theorem pick_steady (s : State) (p : PartId) (j : Job) (g : GraphList) (earlier : List (Nat × Nat)) (x : Nat × Nat) (c : Cmd) (hs : s.Steady s₀) : ∀ out, State.pick s p j g earlier x c = some out → out.Steady s₀ := by
  intro out ht; unfold State.pick at ht; grind [modPart_steady, partJobFault_steady, retire_steady, dispatchTo_steady, skipSend_steady, upd_steady, → State.Steady.sram, → State.Steady.host, → State.Steady.flash, → State.Steady.input, → State.Steady.time, → State.Steady.slots, → State.Steady.keys, → State.Steady.queue, → State.Steady.por, Mem.wf_set, Mem.wf_write, Mem.wf_writeAll, Mem.wf_zero]
theorem pick_steadyD (s : State) (p : PartId) (j : Job) (g : GraphList) (earlier : List (Nat × Nat)) (x : Nat × Nat) (c : Cmd) (hs : s.Steady s₀) (dflt : State) (hd : dflt.Steady s₀) : ((State.pick s p j g earlier x c).getD dflt).Steady s₀ := getD_steady (pick_steady s p j g earlier x c hs) hd
theorem pickFrom_steady (s : State) (p : PartId) (j : Job) (g : GraphList) (e l : List (Nat × Nat)) (hs : s.Steady s₀) :
    ∀ out, s.pickFrom p j g e l = some out → out.Steady s₀ := by
  induction l generalizing e with
  | nil => intro out ht; simp [State.pickFrom] at ht
  | cons x l ih =>
    intro out ht
    unfold State.pickFrom at ht
    split at ht
    · exact ih _ _ ht
    · split at ht
      · rename_i heq; injection ht with ht; subst ht
        split at heq
        · exact pick_steady _ _ _ _ _ _ _ hs _ heq
        · simp at heq
      · exact ih _ _ ht
theorem fillWindow_steady (s : State) (p : PartId) (t : Fin 32) (circuits region offset n : Nat) (hs : s.Steady s₀) :
    (s.fillWindow p t circuits region offset n).1.Steady s₀ := by
  induction n generalizing s with
  | zero => exact hs
  | succ n ih =>
    unfold State.fillWindow
    split
    · exact hs
    · refine ite_fst hs ?_
      split
      · rename_i heq; exact fetchCheck_steadyE hs heq
      · rename_i heq; exact ih _ (modPart_steady _ _ _ (fetchCheck_steadyE hs heq))
theorem fillWindow_steadyE {s : State} {p : PartId} {t : Fin 32} {circuits region offset n : Nat} {out : State} {res : Bool} (hs : s.Steady s₀)
    (heq : s.fillWindow p t circuits region offset n = (out, res)) : out.Steady s₀ := by
  have h := fillWindow_steady s p t circuits region offset n hs; rw [heq] at h; exact h
theorem execPickerDispatch_steady (t : TileId) (s : State) (hs : s.Steady s₀) : ∀ out, execPickerDispatch t s = .next out → out.Steady s₀ := by
  intro out ht; unfold execPickerDispatch at ht; injection ht with ht; subst ht
  extract_lets p tt
  refine ite_steady hs ?_
  split
  · refine ite_steady hs ?_
    split
    split
    · rename_i heq; exact fillWindow_steadyE hs heq
    · rename_i heq
      have h1 := fillWindow_steadyE hs heq
      split
      · exact h1
      · split
        · exact listEnd_steady _ _ _ h1
        · split
          · exact settle_steady _ _ h1
          · rename_i heq
            have h3 := pickFrom_steady _ _ _ _ _ _ h1 _ heq
            have h4 : ∀ c : Prop, ∀ _ : Decidable c, ∀ x : State × Bool, x.1.Steady s₀ → ∀ y, (if c then x else (_, true)) = y → y.1.Steady s₀ :=
              fun c _ x hx y hy => by rw [← hy]; exact ite_fst hx h3
            split
            · rename_i heq; exact h4 _ _ _ (fillWindow_steady _ _ _ _ _ _ _ h3) _ heq
            · rename_i heq; exact settle_steady _ _ (listEnd_steady _ _ _ (h4 _ _ _ (fillWindow_steady _ _ _ _ _ _ _ h3) _ heq))
  · exact hs
theorem execCommandComplete_steady (t : TileId) (e : EngineKind) (s : State) (hs : s.Steady s₀) : ∀ out, execCommandComplete t e s = .next out → out.Steady s₀ := by
  intro out ht; unfold execCommandComplete at ht; (try injection ht with ht); subst ht; repeat' (first | with_reducible assumption | with_reducible (refine upd_steady _ ?_ .. ; with_reducible assumption) | with_reducible refine ite_steady ?_ ?_ | with_reducible (extract_lets +onlyGivenNames x; refine (show x.Steady s₀ → _ from fun hx => ?_) ?_; (on_goal 2 => unfold x; clear x); clear_value x; revert x; intro _ _) | with_reducible (extract_lets +onlyGivenNames x; refine (show x.1.Steady s₀ → _ from fun hx => ?_) ?_; (on_goal 2 => unfold x; clear x); clear_value x; revert x; intro _ _) | with_reducible (extract_lets +onlyGivenNames x; refine (show x.2.Steady s₀ → _ from fun hx => ?_) ?_; (on_goal 2 => unfold x; clear x); clear_value x; revert x; intro _ _) | with_reducible (extract_lets +onlyGivenNames x; refine (show (∀ t : State, t.Steady s₀ → (x t).Steady s₀) → _ from fun hx => ?_) ?_; (on_goal 2 => unfold x; clear x; intro t ht; beta_reduce); clear_value x; revert x; intro _ _) | with_reducible (extract_lets +onlyGivenNames x; clear_value x; revert x; intro _) | with_reducible refine modPart_steady _ _ _ ?_ | with_reducible refine settle_steady _ _ ?_ | with_reducible refine retire_steady _ _ _ _ _ ?_ | split)
theorem execBatonTimeout_steady (place : WaitPlace) (s : State) (hs : s.Steady s₀) : ∀ out, execBatonTimeout place s = .next out → out.Steady s₀ := by
  intro out ht; unfold execBatonTimeout at ht; (try injection ht with ht); subst ht; repeat' (first | with_reducible assumption | with_reducible refine ite_steady ?_ ?_ | with_reducible refine partJobFault_steady _ _ _ _ ?_ | split)

/-! Machine/Reset.lean. -/

theorem jobReset_steady (s : State) (j : Job) (code : W16) (hs : s.Steady s₀) : (State.jobReset s j code).Steady s₀ := by
  unfold State.jobReset; repeat' (first | with_reducible assumption | with_reducible refine ite_steady ?_ ?_ | with_reducible refine logs_steady _ _ _ _ ?_ | with_reducible refine jobFaultQuiet_steady _ _ _ ?_ | split)
theorem enterHold_steady (s : State) (u : UnitId) (hs : s.Steady s₀) : (State.enterHold s u).Steady s₀ := by
  unfold State.enterHold; repeat' (first | with_reducible assumption | with_reducible (refine upd_steady _ ?_ .. ; with_reducible assumption) | with_reducible (extract_lets +onlyGivenNames x; refine (show x.Steady s₀ → _ from fun hx => ?_) ?_; (on_goal 2 => unfold x; clear x); clear_value x; revert x; intro _ _) | with_reducible (extract_lets +onlyGivenNames x; refine (show x.1.Steady s₀ → _ from fun hx => ?_) ?_; (on_goal 2 => unfold x; clear x); clear_value x; revert x; intro _ _) | with_reducible (extract_lets +onlyGivenNames x; refine (show x.2.Steady s₀ → _ from fun hx => ?_) ?_; (on_goal 2 => unfold x; clear x); clear_value x; revert x; intro _ _) | with_reducible (extract_lets +onlyGivenNames x; refine (show (∀ t : State, t.Steady s₀ → (x t).Steady s₀) → _ from fun hx => ?_) ?_; (on_goal 2 => unfold x; clear x; intro t ht; beta_reduce); clear_value x; revert x; intro _ _) | with_reducible (extract_lets +onlyGivenNames x; clear_value x; revert x; intro _) | with_reducible refine useRecovery_steady _ _ ?_ | split)
theorem resetTile_steady (s : State) (t : TileId) (hs : s.Steady s₀) : (State.resetTile s t).Steady s₀ := by
  unfold State.resetTile; repeat' (first | with_reducible assumption | with_reducible refine ite_steady ?_ ?_ | with_reducible (extract_lets +onlyGivenNames x; refine (show x.Steady s₀ → _ from fun hx => ?_) ?_; (on_goal 2 => unfold x; clear x); clear_value x; revert x; intro _ _) | with_reducible (extract_lets +onlyGivenNames x; refine (show x.1.Steady s₀ → _ from fun hx => ?_) ?_; (on_goal 2 => unfold x; clear x); clear_value x; revert x; intro _ _) | with_reducible (extract_lets +onlyGivenNames x; refine (show x.2.Steady s₀ → _ from fun hx => ?_) ?_; (on_goal 2 => unfold x; clear x); clear_value x; revert x; intro _ _) | with_reducible (extract_lets +onlyGivenNames x; refine (show (∀ t : State, t.Steady s₀ → (x t).Steady s₀) → _ from fun hx => ?_) ?_; (on_goal 2 => unfold x; clear x; intro t ht; beta_reduce); clear_value x; revert x; intro _ _) | with_reducible (extract_lets +onlyGivenNames x; clear_value x; revert x; intro _) | with_reducible refine jobReset_steady _ _ _ ?_ | with_reducible refine enterHold_steady _ _ ?_ | split)
theorem resetSequencer_steady (s : State) (d : DieId) (hs : s.Steady s₀) : (State.resetSequencer s d).Steady s₀ := by
  unfold State.resetSequencer; repeat' (first | with_reducible assumption | with_reducible refine ite_steady ?_ ?_ | with_reducible refine foldl_steady _ _ _ ?_ (fun _ _ _ => ?_) | with_reducible refine jobReset_steady _ _ _ ?_ | with_reducible refine enterHold_steady _ _ ?_ | split)
theorem resetPe_steady (s : State) (d : DieId) (hs : s.Steady s₀) : (State.resetPe s d).Steady s₀ := by
  unfold State.resetPe; repeat' (first | with_reducible assumption | with_reducible refine foldl_steady _ _ _ ?_ (fun _ _ _ => ?_) | with_reducible refine logs_steady _ _ _ _ ?_ | with_reducible refine settle_steady _ _ ?_ | with_reducible refine voidFrames_steady _ _ _ ?_ | with_reducible refine enterHold_steady _ _ ?_ | split)
theorem zshUnitReset_steady (s : State) (hs : s.Steady s₀) : (State.zshUnitReset s).Steady s₀ := by
  unfold State.zshUnitReset; repeat' (first | with_reducible assumption | with_reducible (refine upd_steady _ ?_ .. ; with_reducible assumption) | with_reducible (extract_lets +onlyGivenNames x; refine (show x.Steady s₀ → _ from fun hx => ?_) ?_; (on_goal 2 => unfold x; clear x); clear_value x; revert x; intro _ _) | with_reducible (extract_lets +onlyGivenNames x; refine (show x.1.Steady s₀ → _ from fun hx => ?_) ?_; (on_goal 2 => unfold x; clear x); clear_value x; revert x; intro _ _) | with_reducible (extract_lets +onlyGivenNames x; refine (show x.2.Steady s₀ → _ from fun hx => ?_) ?_; (on_goal 2 => unfold x; clear x); clear_value x; revert x; intro _ _) | with_reducible (extract_lets +onlyGivenNames x; refine (show (∀ t : State, t.Steady s₀ → (x t).Steady s₀) → _ from fun hx => ?_) ?_; (on_goal 2 => unfold x; clear x; intro t ht; beta_reduce); clear_value x; revert x; intro _ _) | with_reducible (extract_lets +onlyGivenNames x; clear_value x; revert x; intro _) | with_reducible refine foldl_steady _ _ _ ?_ (fun _ _ _ => ?_) | with_reducible refine modSvc_steady _ _ ?_ | with_reducible refine zshReply_steady _ _ _ _ ?_ | with_reducible refine synthetic_steady _ _ ?_ | split)
theorem i3cUnitReset_steady (s : State) (hs : s.Steady s₀) : (State.i3cUnitReset s).Steady s₀ := by
  unfold State.i3cUnitReset; grind [modInfield_steady, upd_steady, → State.Steady.sram, → State.Steady.host, → State.Steady.flash, → State.Steady.input, → State.Steady.time, → State.Steady.slots, → State.Steady.keys, → State.Steady.queue, → State.Steady.por, Mem.wf_set, Mem.wf_write, Mem.wf_writeAll, Mem.wf_zero]
theorem mcReset_steady (s : State) (hs : s.Steady s₀) : (State.mcReset s).Steady s₀ := by
  unfold State.mcReset; repeat' (first | with_reducible assumption | with_reducible (refine upd_steady _ ?_ .. ; with_reducible assumption) | with_reducible refine ite_steady ?_ ?_ | with_reducible (extract_lets +onlyGivenNames x; refine (show x.Steady s₀ → _ from fun hx => ?_) ?_; (on_goal 2 => unfold x; clear x); clear_value x; revert x; intro _ _) | with_reducible (extract_lets +onlyGivenNames x; refine (show x.1.Steady s₀ → _ from fun hx => ?_) ?_; (on_goal 2 => unfold x; clear x); clear_value x; revert x; intro _ _) | with_reducible (extract_lets +onlyGivenNames x; refine (show x.2.Steady s₀ → _ from fun hx => ?_) ?_; (on_goal 2 => unfold x; clear x); clear_value x; revert x; intro _ _) | with_reducible (extract_lets +onlyGivenNames x; refine (show (∀ t : State, t.Steady s₀ → (x t).Steady s₀) → _ from fun hx => ?_) ?_; (on_goal 2 => unfold x; clear x; intro t ht; beta_reduce); clear_value x; revert x; intro _ _) | with_reducible (extract_lets +onlyGivenNames x; clear_value x; revert x; intro _) | with_reducible refine foldl_steady _ _ _ ?_ (fun _ _ _ => ?_) | with_reducible refine modPart_steady _ _ _ ?_ | with_reducible refine modMgt_steady _ _ ?_ rfl | with_reducible refine modInfield_steady _ _ ?_ | with_reducible refine modSvc_steady _ _ ?_ | with_reducible refine synthetic_steady _ _ ?_ | with_reducible refine complete_steady _ _ _ ?_ | with_reducible refine putGet_steady _ _ _ ?_ | with_reducible refine fwAbandon_steady _ ?_ | with_reducible refine rezero_steady _ _ ?_ | with_reducible refine enterHold_steady _ _ ?_ | with_reducible refine zshUnitReset_steady _ ?_ | with_reducible refine i3cUnitReset_steady _ ?_ | split)
theorem resetUnit_steady (s : State) (u : UnitId) (hs : s.Steady s₀) : (State.resetUnit s u).Steady s₀ := by
  unfold State.resetUnit; repeat' (first | with_reducible assumption | with_reducible refine resetTile_steady _ _ ?_ | with_reducible refine resetSequencer_steady _ _ ?_ | with_reducible refine resetPe_steady _ _ ?_ | with_reducible refine mcReset_steady _ ?_ | split)
theorem unitResetGo_steady (s : State) (u : UnitId) (hs : s.Steady s₀) : (State.unitResetGo s u).Steady s₀ := by
  unfold State.unitResetGo; repeat' (first | with_reducible assumption | with_reducible refine ite_steady ?_ ?_ | with_reducible refine setupRejected_steady _ _ ?_ | with_reducible refine resetUnit_steady _ _ ?_ | split)
theorem execTileReset_steady (t : TileId) (s : State) (hs : s.Steady s₀) : ∀ out, execTileReset t s = .next out → out.Steady s₀ := by
  intro out ht; unfold execTileReset at ht; (try injection ht with ht); subst ht; repeat' (first | with_reducible assumption | with_reducible refine unitResetGo_steady _ _ ?_ | split)
theorem execSequencerReset_steady (d : DieId) (s : State) (hs : s.Steady s₀) : ∀ out, execSequencerReset d s = .next out → out.Steady s₀ := by
  intro out ht; unfold execSequencerReset at ht; (try injection ht with ht); subst ht; repeat' (first | with_reducible assumption | with_reducible refine unitResetGo_steady _ _ ?_ | split)
theorem execPeReset_steady (d : DieId) (s : State) (hs : s.Steady s₀) : ∀ out, execPeReset d s = .next out → out.Steady s₀ := by
  intro out ht; unfold execPeReset at ht; (try injection ht with ht); subst ht; repeat' (first | with_reducible assumption | with_reducible refine unitResetGo_steady _ _ ?_ | split)
theorem execUnitHung_steady (u : UnitId) (s : State) (hs : s.Steady s₀) : ∀ out, execUnitHung u s = .next out → out.Steady s₀ := by
  intro out ht; unfold execUnitHung at ht; (try injection ht with ht); subst ht; repeat' (first | with_reducible assumption | with_reducible refine ite_steady ?_ ?_ | with_reducible refine logAt_steady _ _ _ _ ?_ | with_reducible refine resetUnit_steady _ _ ?_ | split)
theorem bumpEpoch_steady (s : State) (u : UnitId) (hs : s.Steady s₀) : (State.bumpEpoch s u).Steady s₀ := by
  unfold State.bumpEpoch; repeat' (first | with_reducible assumption | with_reducible (refine upd_steady _ ?_ .. ; with_reducible assumption) | with_reducible refine modMgt_steady _ _ ?_ rfl | split)
theorem execHoldExit_steady (u : UnitId) (s : State) (hs : s.Steady s₀) : ∀ out, execHoldExit u s = .next out → out.Steady s₀ := by
  intro out ht; unfold execHoldExit at ht; grind [logs_steady, mcReset_steady, bumpEpoch_steady, modMgt_steady, upd_steady, → State.Steady.sram, → State.Steady.host, → State.Steady.flash, → State.Steady.input, → State.Steady.time, → State.Steady.slots, → State.Steady.keys, → State.Steady.queue, → State.Steady.por, Mem.wf_set, Mem.wf_write, Mem.wf_writeAll, Mem.wf_zero]
theorem execMcReset_steady (s : State) (hs : s.Steady s₀) : ∀ out, execMcReset s = .next out → out.Steady s₀ := by
  intro out ht; unfold execMcReset at ht; (try injection ht with ht); subst ht; repeat' (first | with_reducible assumption | with_reducible refine ite_steady ?_ ?_ | with_reducible refine mcReset_steady _ ?_ | split)
theorem execMcWatchdogExpiry_steady (s : State) (hs : s.Steady s₀) : ∀ out, execMcWatchdogExpiry s = .next out → out.Steady s₀ := by
  intro out ht; unfold execMcWatchdogExpiry at ht; (try injection ht with ht); subst ht; repeat' (first | with_reducible assumption | with_reducible refine ite_steady ?_ ?_ | with_reducible refine mcReset_steady _ ?_ | split)
theorem hostReset_steady (s : State) (hs : s.Steady s₀) : (State.hostReset s).Steady s₀ := by
  unfold State.hostReset; repeat' (first | with_reducible assumption | with_reducible (refine upd_steady _ ?_ .. ; with_reducible assumption) | with_reducible refine ite_steady ?_ ?_ | with_reducible refine modHiu_steady _ _ ?_ | with_reducible refine functionReset_steady _ _ ?_ | with_reducible refine hostLost_steady _ _ ?_ | split)
theorem faultJobs_steady (s : State) (code : W16) (hs : s.Steady s₀) : (State.faultJobs s code).Steady s₀ := by
  unfold State.faultJobs; repeat' (first | with_reducible assumption | with_reducible (refine upd_steady _ ?_ .. ; with_reducible assumption) | with_reducible refine ite_steady ?_ ?_ | with_reducible (extract_lets +onlyGivenNames x; refine (show x.Steady s₀ → _ from fun hx => ?_) ?_; (on_goal 2 => unfold x; clear x); clear_value x; revert x; intro _ _) | with_reducible (extract_lets +onlyGivenNames x; refine (show x.1.Steady s₀ → _ from fun hx => ?_) ?_; (on_goal 2 => unfold x; clear x); clear_value x; revert x; intro _ _) | with_reducible (extract_lets +onlyGivenNames x; refine (show x.2.Steady s₀ → _ from fun hx => ?_) ?_; (on_goal 2 => unfold x; clear x); clear_value x; revert x; intro _ _) | with_reducible (extract_lets +onlyGivenNames x; refine (show (∀ t : State, t.Steady s₀ → (x t).Steady s₀) → _ from fun hx => ?_) ?_; (on_goal 2 => unfold x; clear x; intro t ht; beta_reduce); clear_value x; revert x; intro _ _) | with_reducible (extract_lets +onlyGivenNames x; clear_value x; revert x; intro _) | with_reducible refine foldl_steady _ _ _ ?_ (fun _ _ _ => ?_) | with_reducible refine jobFaultQuiet_steady _ _ _ ?_ | split)
theorem zeroAll_steady (s : State) (hs : s.Steady s₀) : (State.zeroAll s).Steady s₀ := by
  unfold State.zeroAll; repeat' (first | with_reducible assumption | with_reducible (refine upd_steady _ ?_ .. ; with_reducible assumption) | split)
theorem warmClear_steady (s : State) (hs : s.Steady s₀) : (State.warmClear s).Steady s₀ := by
  exact ⟨hs.1,hs.2,hs.3,hs.4,hs.5,hs.6,hs.7,hs.8,hs.9⟩
theorem warmReset_steady (s : State) (hs : s.Steady s₀) : (State.warmReset s).Steady s₀ := by
  unfold State.warmReset; repeat' (first | with_reducible assumption | with_reducible refine ite_steady ?_ ?_ | with_reducible (extract_lets +onlyGivenNames x; refine (show x.Steady s₀ → _ from fun hx => ?_) ?_; (on_goal 2 => unfold x; clear x); clear_value x; revert x; intro _ _) | with_reducible (extract_lets +onlyGivenNames x; refine (show x.1.Steady s₀ → _ from fun hx => ?_) ?_; (on_goal 2 => unfold x; clear x); clear_value x; revert x; intro _ _) | with_reducible (extract_lets +onlyGivenNames x; refine (show x.2.Steady s₀ → _ from fun hx => ?_) ?_; (on_goal 2 => unfold x; clear x); clear_value x; revert x; intro _ _) | with_reducible (extract_lets +onlyGivenNames x; refine (show (∀ t : State, t.Steady s₀ → (x t).Steady s₀) → _ from fun hx => ?_) ?_; (on_goal 2 => unfold x; clear x; intro t ht; beta_reduce); clear_value x; revert x; intro _ _) | with_reducible (extract_lets +onlyGivenNames x; clear_value x; revert x; intro _) | with_reducible refine foldl_steady _ _ _ ?_ (fun _ _ _ => ?_) | with_reducible refine modLink_steady _ _ _ ?_ | with_reducible refine logs_steady _ _ _ _ ?_ | with_reducible refine linkDrop_steady _ _ ?_ | with_reducible refine listenOrOff_steady _ _ ?_ | with_reducible refine i3cUnitReset_steady _ ?_ | with_reducible refine hostReset_steady _ ?_ | with_reducible refine faultJobs_steady _ _ ?_ | with_reducible refine zeroAll_steady _ ?_ | with_reducible refine warmClear_steady _ ?_ | split)
theorem execWarmReset_steady (s : State) (hs : s.Steady s₀) : ∀ out, execWarmReset s = .next out → out.Steady s₀ := by
  intro out ht; unfold execWarmReset at ht; (try injection ht with ht); subst ht; repeat' (first | with_reducible assumption | with_reducible refine ite_steady ?_ ?_ | with_reducible refine warmReset_steady _ ?_ | split)

/-! Machine/Power.lean. -/

theorem alert_steady (s : State) (n : Nat) (hs : s.Steady s₀) : (State.alert s n).Steady s₀ := by
  unfold State.alert; repeat' (first | with_reducible assumption | with_reducible (refine upd_steady _ ?_ .. ; with_reducible assumption) | with_reducible refine modPower_steady _ _ ?_ ⟨rfl, id⟩ | split)
theorem cutHost_steady (s : State) (hs : s.Steady s₀) : (State.cutHost s).Steady s₀ := by
  unfold State.cutHost; repeat' (first | with_reducible assumption | with_reducible refine foldl_steady _ _ _ ?_ (fun _ _ _ => ?_) | with_reducible refine modFn_steady _ _ _ ?_ | with_reducible refine dropDescs_steady _ _ ?_ | split)
theorem mainClear_steady (s : State) (hs : s.Steady s₀) : (State.mainClear s).Steady s₀ := by
  unfold State.mainClear; repeat' (first | with_reducible assumption | with_reducible (refine upd_steady _ ?_ .. ; with_reducible assumption) | split)
theorem endI3c_steady (s : State) (hs : s.Steady s₀) : (State.endI3c s).Steady s₀ := by
  unfold State.endI3c; repeat' (first | with_reducible assumption | with_reducible (refine upd_steady _ ?_ .. ; with_reducible assumption) | with_reducible refine ite_steady ?_ ?_ | split)
theorem linksMap_steady (s : State) (f : Link → Link) (hs : s.Steady s₀) : State.Steady { s with links := s.links.map f } s₀ := upd_steady s hs ..
theorem mainStop_steady (s : State) (code : W16) (hs : s.Steady s₀) : (s.mainStop code).Steady s₀ := by
  unfold State.mainStop
  refine ite_steady hs ?_
  extract_lets s1 s2 up s3 s4 s5 s6 s7 s8
  have h2 : s2.Steady s₀ := modPower_steady _ _ (alert_steady _ _ (logs_steady _ _ _ _ hs)) ⟨rfl, fun h => nomatch h⟩
  have h3 : s3.Steady s₀ := faultAll_steady _ _ (cutHost_steady _ h2)
  have h4 : s4.Steady s₀ := foldl_steady _ _ _ h3 (fun s l h => ite_steady h (linkDrop_steady _ _ h))
  have h5 : s5.Steady s₀ := linksMap_steady _ _ h4
  have h6 : s6.Steady s₀ := ite_steady (hostLost_steady _ _ h5) (modHiu_steady _ _ (functionReset_steady _ _ h5))
  have h8 : s8.Steady s₀ := upd_steady _ (mainClear_steady _ (endI3c_steady _ h6)) ..
  exact modSram_steady _ _ h8 rfl
theorem execMainLost_steady (s : State) (hs : s.Steady s₀) : ∀ out, execMainLost s = .next out → out.Steady s₀ := by
  intro out ht; unfold execMainLost at ht; (try injection ht with ht); subst ht; repeat' (first | with_reducible assumption | with_reducible refine mainStop_steady _ _ ?_ | split)
theorem execMainOvervolt_steady (s : State) (hs : s.Steady s₀) : ∀ out, execMainOvervolt s = .next out → out.Steady s₀ := by
  intro out ht; unfold execMainOvervolt at ht; (try injection ht with ht); subst ht; repeat' (first | with_reducible assumption | with_reducible refine mainStop_steady _ _ ?_ | split)
theorem execOvercurrent_steady (s : State) (hs : s.Steady s₀) : ∀ out, execOvercurrent s = .next out → out.Steady s₀ := by
  intro out ht; unfold execOvercurrent at ht; (try injection ht with ht); subst ht; repeat' (first | with_reducible assumption | with_reducible (refine upd_steady _ ?_ .. ; with_reducible assumption) | with_reducible refine ite_steady ?_ ?_ | with_reducible refine modPower_steady _ _ ?_ ⟨rfl, id⟩ | with_reducible refine mainStop_steady _ _ ?_ | split)
theorem mainDisable_steady (s : State) (hs : s.Steady s₀) : (State.mainDisable s).Steady s₀ := by
  unfold State.mainDisable; repeat' (first | with_reducible assumption | with_reducible (refine upd_steady _ ?_ .. ; with_reducible assumption) | with_reducible refine modPower_steady _ _ ?_ ⟨rfl, id⟩ | with_reducible refine mainStop_steady _ _ ?_ | split)
theorem execMainDisabled_steady (s : State) (hs : s.Steady s₀) : ∀ out, execMainDisabled s = .next out → out.Steady s₀ := by
  intro out ht; unfold execMainDisabled at ht; (try injection ht with ht); subst ht; repeat' (first | with_reducible assumption | with_reducible refine ite_steady ?_ ?_ | with_reducible refine mainDisable_steady _ ?_ | split)
theorem execMainLow_steady (s : State) (hs : s.Steady s₀) : ∀ out, execMainLow s = .next out → out.Steady s₀ := by
  intro out ht; unfold execMainLow at ht; (try injection ht with ht); subst ht; repeat' (first | with_reducible assumption | with_reducible (refine upd_steady _ ?_ .. ; with_reducible assumption) | with_reducible refine ite_steady ?_ ?_ | with_reducible refine modPower_steady _ _ ?_ ⟨rfl, id⟩ | with_reducible refine logs_steady _ _ _ _ ?_ | split)
theorem execMainLowClear_steady (s : State) (hs : s.Steady s₀) : ∀ out, execMainLowClear s = .next out → out.Steady s₀ := by
  intro out ht; unfold execMainLowClear at ht; (try injection ht with ht); subst ht; repeat' (first | with_reducible assumption | with_reducible (refine upd_steady _ ?_ .. ; with_reducible assumption) | with_reducible refine modPower_steady _ _ ?_ ⟨rfl, id⟩ | split)
theorem execMainConversionStart_steady (s : State) (hs : s.Steady s₀) (hm : s₀.power.mainPg = true) : ∀ out, execMainConversionStart s = .next out → out.Steady s₀ := by
  intro out ht; unfold execMainConversionStart at ht; (try injection ht with ht); subst ht; repeat' (first | with_reducible assumption | with_reducible (extract_lets +onlyGivenNames x; refine (show x.Steady s₀ → _ from fun hx => ?_) ?_; (on_goal 2 => unfold x; clear x); clear_value x; revert x; intro _ _) | with_reducible (extract_lets +onlyGivenNames x; clear_value x; revert x; intro _) | with_reducible refine ite_steady ?_ ?_ | with_reducible refine foldl_steady _ _ _ ?_ (fun _ _ _ => ?_) | with_reducible refine listenOrOff_steady _ _ ?_ | with_reducible refine logs_steady _ _ _ _ ?_ | with_reducible refine modHiu_steady _ _ ?_ | with_reducible refine modPace_steady _ _ ?_ | with_reducible refine modPower_steady_on _ _ ?_ rfl hm | with_reducible refine zeroAll_steady _ ?_)
theorem coldStart_steady (s : State) (hs : s.Steady s₀) : (State.coldStart s).Steady s₀ := by
  unfold State.coldStart; repeat' (first | with_reducible assumption | with_reducible (refine upd_steady _ ?_ .. ; with_reducible assumption) | with_reducible refine modBoot_steady2 _ _ ?_ rfl | with_reducible refine logs_steady _ _ _ _ ?_ | with_reducible refine coldReset_steady _ ?_ | split)
theorem execStbyOutOfRange_steady (mv : BitVec 13) (s : State) (hs : s.Steady s₀) : ∀ out, execStbyOutOfRange mv s = .next out → out.Steady s₀ := by
  intro out ht; unfold execStbyOutOfRange at ht; (try injection ht with ht); subst ht; repeat' (first | with_reducible assumption | with_reducible (refine upd_steady _ ?_ .. ; with_reducible assumption) | with_reducible refine ite_steady ?_ ?_ | with_reducible (extract_lets +onlyGivenNames x; refine (show x.Steady s₀ → _ from fun hx => ?_) ?_; (on_goal 2 => unfold x; clear x); clear_value x; revert x; intro _ _) | with_reducible (extract_lets +onlyGivenNames x; refine (show x.1.Steady s₀ → _ from fun hx => ?_) ?_; (on_goal 2 => unfold x; clear x); clear_value x; revert x; intro _ _) | with_reducible (extract_lets +onlyGivenNames x; refine (show x.2.Steady s₀ → _ from fun hx => ?_) ?_; (on_goal 2 => unfold x; clear x); clear_value x; revert x; intro _ _) | with_reducible (extract_lets +onlyGivenNames x; refine (show (∀ t : State, t.Steady s₀ → (x t).Steady s₀) → _ from fun hx => ?_) ?_; (on_goal 2 => unfold x; clear x; intro t ht; beta_reduce); clear_value x; revert x; intro _ _) | with_reducible (extract_lets +onlyGivenNames x; clear_value x; revert x; intro _) | with_reducible refine modPower_steady _ _ ?_ ⟨rfl, id⟩ | with_reducible refine logs_steady _ _ _ _ ?_ | split)
theorem checkDegraded_steady (s : State) (hs : s.Steady s₀) : (State.checkDegraded s).Steady s₀ := by
  unfold State.checkDegraded; repeat' (first | with_reducible assumption | with_reducible (refine upd_steady _ ?_ .. ; with_reducible assumption) | with_reducible refine ite_steady ?_ ?_ | with_reducible (extract_lets +onlyGivenNames x; refine (show x.Steady s₀ → _ from fun hx => ?_) ?_; (on_goal 2 => unfold x; clear x); clear_value x; revert x; intro _ _) | with_reducible (extract_lets +onlyGivenNames x; refine (show x.1.Steady s₀ → _ from fun hx => ?_) ?_; (on_goal 2 => unfold x; clear x); clear_value x; revert x; intro _ _) | with_reducible (extract_lets +onlyGivenNames x; refine (show x.2.Steady s₀ → _ from fun hx => ?_) ?_; (on_goal 2 => unfold x; clear x); clear_value x; revert x; intro _ _) | with_reducible (extract_lets +onlyGivenNames x; refine (show (∀ t : State, t.Steady s₀ → (x t).Steady s₀) → _ from fun hx => ?_) ?_; (on_goal 2 => unfold x; clear x; intro t ht; beta_reduce); clear_value x; revert x; intro _ _) | with_reducible (extract_lets +onlyGivenNames x; clear_value x; revert x; intro _) | with_reducible refine foldl_steady _ _ _ ?_ (fun _ _ _ => ?_) | with_reducible refine modPower_steady _ _ ?_ ⟨rfl, id⟩ | with_reducible refine logs_steady _ _ _ _ ?_ | split)
theorem checkThermal_steady (s : State) (hs : s.Steady s₀) : (State.checkThermal s).Steady s₀ := by
  unfold State.checkThermal; repeat' (first | with_reducible assumption | with_reducible (refine upd_steady _ ?_ .. ; with_reducible assumption) | with_reducible refine ite_steady ?_ ?_ | with_reducible (extract_lets +onlyGivenNames x; refine (show x.Steady s₀ → _ from fun hx => ?_) ?_; (on_goal 2 => unfold x; clear x); clear_value x; revert x; intro _ _) | with_reducible (extract_lets +onlyGivenNames x; refine (show x.1.Steady s₀ → _ from fun hx => ?_) ?_; (on_goal 2 => unfold x; clear x); clear_value x; revert x; intro _ _) | with_reducible (extract_lets +onlyGivenNames x; refine (show x.2.Steady s₀ → _ from fun hx => ?_) ?_; (on_goal 2 => unfold x; clear x); clear_value x; revert x; intro _ _) | with_reducible (extract_lets +onlyGivenNames x; refine (show (∀ t : State, t.Steady s₀ → (x t).Steady s₀) → _ from fun hx => ?_) ?_; (on_goal 2 => unfold x; clear x; intro t ht; beta_reduce); clear_value x; revert x; intro _ _) | with_reducible (extract_lets +onlyGivenNames x; clear_value x; revert x; intro _) | with_reducible refine modPower_steady _ _ ?_ ⟨rfl, id⟩ | with_reducible refine logs_steady _ _ _ _ ?_ | with_reducible refine alert_steady _ _ ?_ | split)
theorem tripNow_steady (s : State) (hs : s.Steady s₀) : (State.tripNow s).Steady s₀ := by
  unfold State.tripNow; repeat' (first | with_reducible assumption | with_reducible (refine upd_steady _ ?_ .. ; with_reducible assumption) | with_reducible refine ite_steady ?_ ?_ | with_reducible (extract_lets +onlyGivenNames x; refine (show x.Steady s₀ → _ from fun hx => ?_) ?_; (on_goal 2 => unfold x; clear x); clear_value x; revert x; intro _ _) | with_reducible (extract_lets +onlyGivenNames x; refine (show x.1.Steady s₀ → _ from fun hx => ?_) ?_; (on_goal 2 => unfold x; clear x); clear_value x; revert x; intro _ _) | with_reducible (extract_lets +onlyGivenNames x; refine (show x.2.Steady s₀ → _ from fun hx => ?_) ?_; (on_goal 2 => unfold x; clear x); clear_value x; revert x; intro _ _) | with_reducible (extract_lets +onlyGivenNames x; refine (show (∀ t : State, t.Steady s₀ → (x t).Steady s₀) → _ from fun hx => ?_) ?_; (on_goal 2 => unfold x; clear x; intro t ht; beta_reduce); clear_value x; revert x; intro _ _) | with_reducible (extract_lets +onlyGivenNames x; clear_value x; revert x; intro _) | with_reducible refine modPower_steady _ _ ?_ ⟨rfl, id⟩ | with_reducible refine logs_steady _ _ _ _ ?_ | with_reducible refine alert_steady _ _ ?_ | with_reducible refine mainStop_steady _ _ ?_ | split)
theorem execSensorSample_steady (readings : Vector (BitVec 16) 64) (vin : BitVec 12) (power : BitVec 12) (vstby : BitVec 8) (s : State) (hs : s.Steady s₀) : ∀ out, execSensorSample readings vin power vstby s = .next out → out.Steady s₀ := by
  intro out ht; unfold execSensorSample at ht; (try injection ht with ht); subst ht; repeat' (first | with_reducible assumption | with_reducible (refine upd_steady _ ?_ .. ; with_reducible assumption) | with_reducible refine ite_steady ?_ ?_ | with_reducible (extract_lets +onlyGivenNames x; refine (show x.Steady s₀ → _ from fun hx => ?_) ?_; (on_goal 2 => unfold x; clear x); clear_value x; revert x; intro _ _) | with_reducible (extract_lets +onlyGivenNames x; refine (show x.1.Steady s₀ → _ from fun hx => ?_) ?_; (on_goal 2 => unfold x; clear x); clear_value x; revert x; intro _ _) | with_reducible (extract_lets +onlyGivenNames x; refine (show x.2.Steady s₀ → _ from fun hx => ?_) ?_; (on_goal 2 => unfold x; clear x); clear_value x; revert x; intro _ _) | with_reducible (extract_lets +onlyGivenNames x; refine (show (∀ t : State, t.Steady s₀ → (x t).Steady s₀) → _ from fun hx => ?_) ?_; (on_goal 2 => unfold x; clear x; intro t ht; beta_reduce); clear_value x; revert x; intro _ _) | with_reducible (extract_lets +onlyGivenNames x; clear_value x; revert x; intro _) | with_reducible refine foldl_steady _ _ _ ?_ (fun _ _ _ => ?_) | with_reducible refine modPower_steady _ _ ?_ ⟨rfl, id⟩ | with_reducible refine logs_steady _ _ _ _ ?_ | with_reducible refine checkDegraded_steady _ ?_ | with_reducible refine checkThermal_steady _ ?_ | with_reducible refine tripNow_steady _ ?_ | split)
theorem tripClear_steady (s : State) (hs : s.Steady s₀) : (State.tripClear s).Steady s₀ := by
  unfold State.tripClear; repeat' (first | with_reducible assumption | with_reducible (refine upd_steady _ ?_ .. ; with_reducible assumption) | with_reducible refine ite_steady ?_ ?_ | with_reducible refine modPower_steady _ _ ?_ ⟨rfl, id⟩ | split)
theorem execTripClear_steady (s : State) (hs : s.Steady s₀) : ∀ out, execTripClear s = .next out → out.Steady s₀ := by
  intro out ht; unfold execTripClear at ht; (try injection ht with ht); subst ht; repeat' (first | with_reducible assumption | with_reducible refine ite_steady ?_ ?_ | with_reducible refine tripClear_steady _ ?_ | split)

/-! Machine/Hurdle.lean. -/

theorem execHurdleReached_steady (lead : PartId) (s : State) (hs : s.Steady s₀) : ∀ out, execHurdleReached lead s = .next out → out.Steady s₀ := by
  intro out ht; unfold execHurdleReached at ht; (try injection ht with ht); subst ht; repeat' (first | with_reducible assumption | with_reducible (refine upd_steady _ ?_ .. ; with_reducible assumption) | with_reducible refine ite_steady ?_ ?_ | with_reducible (extract_lets +onlyGivenNames x; refine (show x.Steady s₀ → _ from fun hx => ?_) ?_; (on_goal 2 => unfold x; clear x); clear_value x; revert x; intro _ _) | with_reducible (extract_lets +onlyGivenNames x; refine (show x.1.Steady s₀ → _ from fun hx => ?_) ?_; (on_goal 2 => unfold x; clear x); clear_value x; revert x; intro _ _) | with_reducible (extract_lets +onlyGivenNames x; refine (show x.2.Steady s₀ → _ from fun hx => ?_) ?_; (on_goal 2 => unfold x; clear x); clear_value x; revert x; intro _ _) | with_reducible (extract_lets +onlyGivenNames x; refine (show (∀ t : State, t.Steady s₀ → (x t).Steady s₀) → _ from fun hx => ?_) ?_; (on_goal 2 => unfold x; clear x; intro t ht; beta_reduce); clear_value x; revert x; intro _ _) | with_reducible (extract_lets +onlyGivenNames x; clear_value x; revert x; intro _) | with_reducible refine modJob_steady _ _ _ ?_ | with_reducible refine logs_steady _ _ _ _ ?_ | with_reducible refine jobEvent_steady _ _ _ _ ?_ | with_reducible refine jobFault_steady _ _ _ _ ?_ | split)
theorem hurdleDesc_steady (s : State) (stop : Bool) (act : Desc → Job → State → State) (hact : ∀ d j t, t.Steady s₀ → (act d j t).Steady s₀)
    (hs : s.Steady s₀) : (s.hurdleDesc stop act).Steady s₀ := by
  unfold State.hurdleDesc
  split
  · exact hs
  · rename_i heq
    have ht := takeRe_steady _ _ hs _ _ heq
    refine ite_steady hs (ite_steady (done_steady _ _ _ ht) (ite_steady (complete_steady _ _ _ ht) ?_))
    split
    · exact conflict_steady _ _ ht
    · exact ite_steady (hact _ _ _ ht) (conflict_steady _ _ ht)
theorem execHurdleRelease_steady (s : State) (hs : s.Steady s₀) : ∀ out, execHurdleRelease s = .next out → out.Steady s₀ := by
  intro out ht; unfold execHurdleRelease at ht; injection ht with ht; subst ht
  refine hurdleDesc_steady _ _ _ (fun d j t h => ?_) hs
  exact ite_steady (startRefused_steady _ _ _ h) (complete_steady _ _ _ (stopStreams_steady _ _ _ (modJob_steady _ _ _ h)))
theorem execHurdleStop_steady (s : State) (hs : s.Steady s₀) : ∀ out, execHurdleStop s = .next out → out.Steady s₀ := by
  intro out ht; unfold execHurdleStop at ht; injection ht with ht; subst ht
  refine hurdleDesc_steady _ _ _ (fun d j t h => ?_) hs
  exact endJob_steady _ _ (complete_steady _ _ _ (stopStreams_steady _ _ _ h))
theorem releasePart_steady (s : State) (p : PartId) (hs : s.Steady s₀) : (State.releasePart s p).Steady s₀ := by
  unfold State.releasePart; repeat' (first | with_reducible assumption | with_reducible (refine upd_steady _ ?_ .. ; with_reducible assumption) | with_reducible (extract_lets +onlyGivenNames x; refine (show x.Steady s₀ → _ from fun hx => ?_) ?_; (on_goal 2 => unfold x; clear x); clear_value x; revert x; intro _ _) | with_reducible (extract_lets +onlyGivenNames x; refine (show x.1.Steady s₀ → _ from fun hx => ?_) ?_; (on_goal 2 => unfold x; clear x); clear_value x; revert x; intro _ _) | with_reducible (extract_lets +onlyGivenNames x; refine (show x.2.Steady s₀ → _ from fun hx => ?_) ?_; (on_goal 2 => unfold x; clear x); clear_value x; revert x; intro _ _) | with_reducible (extract_lets +onlyGivenNames x; refine (show (∀ t : State, t.Steady s₀ → (x t).Steady s₀) → _ from fun hx => ?_) ?_; (on_goal 2 => unfold x; clear x; intro t ht; beta_reduce); clear_value x; revert x; intro _ _) | with_reducible (extract_lets +onlyGivenNames x; clear_value x; revert x; intro _) | with_reducible refine foldl_steady _ _ _ ?_ (fun _ _ _ => ?_) | with_reducible refine modPart_steady _ _ _ ?_ | with_reducible refine settle_steady _ _ ?_ | with_reducible refine retire_steady _ _ _ _ _ ?_ | with_reducible refine controlDone_steady _ _ _ _ ?_ | split)
theorem releaseJob_steady (s : State) (j : Job) (d : HurdleDecl) (c : Nat) (hs : s.Steady s₀) : (State.releaseJob s j d c).Steady s₀ := by
  unfold State.releaseJob; repeat' (first | with_reducible assumption | with_reducible (refine upd_steady _ ?_ .. ; with_reducible assumption) | with_reducible (extract_lets +onlyGivenNames x; refine (show x.Steady s₀ → _ from fun hx => ?_) ?_; (on_goal 2 => unfold x; clear x); clear_value x; revert x; intro _ _) | with_reducible (extract_lets +onlyGivenNames x; refine (show x.1.Steady s₀ → _ from fun hx => ?_) ?_; (on_goal 2 => unfold x; clear x); clear_value x; revert x; intro _ _) | with_reducible (extract_lets +onlyGivenNames x; refine (show x.2.Steady s₀ → _ from fun hx => ?_) ?_; (on_goal 2 => unfold x; clear x); clear_value x; revert x; intro _ _) | with_reducible (extract_lets +onlyGivenNames x; refine (show (∀ t : State, t.Steady s₀ → (x t).Steady s₀) → _ from fun hx => ?_) ?_; (on_goal 2 => unfold x; clear x; intro t ht; beta_reduce); clear_value x; revert x; intro _ _) | with_reducible (extract_lets +onlyGivenNames x; clear_value x; revert x; intro _) | with_reducible refine foldl_steady _ _ _ ?_ (fun _ _ _ => ?_) | with_reducible refine modJob_steady _ _ _ ?_ | with_reducible refine releasePart_steady _ _ ?_ | split)
theorem execHurdleResume_steady (lead : PartId) (s : State) (hs : s.Steady s₀) : ∀ out, execHurdleResume lead s = .next out → out.Steady s₀ := by
  intro out ht; unfold execHurdleResume at ht; (try injection ht with ht); subst ht; repeat' (first | with_reducible assumption | with_reducible refine ite_steady ?_ ?_ | with_reducible refine releaseJob_steady _ _ _ _ ?_ | split)
theorem execJobCompletion_steady (lead : PartId) (s : State) (hs : s.Steady s₀) : ∀ out, execJobCompletion lead s = .next out → out.Steady s₀ := by
  intro out ht; unfold execJobCompletion at ht; (try injection ht with ht); subst ht; repeat' (first | with_reducible assumption | with_reducible refine ite_steady ?_ ?_ | with_reducible refine endJob_steady _ _ ?_ | split)
theorem recordEnd_steady (s : State) (j : Job) (n : Nat) (hs : s.Steady s₀) : (State.recordEnd s j n).Steady s₀ := by
  unfold State.recordEnd; repeat' (first | with_reducible assumption | with_reducible (refine upd_steady _ ?_ .. ; with_reducible assumption) | with_reducible refine ite_steady ?_ ?_ | with_reducible (extract_lets +onlyGivenNames x; refine (show x.Steady s₀ → _ from fun hx => ?_) ?_; (on_goal 2 => unfold x; clear x); clear_value x; revert x; intro _ _) | with_reducible (extract_lets +onlyGivenNames x; refine (show x.1.Steady s₀ → _ from fun hx => ?_) ?_; (on_goal 2 => unfold x; clear x); clear_value x; revert x; intro _ _) | with_reducible (extract_lets +onlyGivenNames x; refine (show x.2.Steady s₀ → _ from fun hx => ?_) ?_; (on_goal 2 => unfold x; clear x); clear_value x; revert x; intro _ _) | with_reducible (extract_lets +onlyGivenNames x; refine (show (∀ t : State, t.Steady s₀ → (x t).Steady s₀) → _ from fun hx => ?_) ?_; (on_goal 2 => unfold x; clear x; intro t ht; beta_reduce); clear_value x; revert x; intro _ _) | with_reducible (extract_lets +onlyGivenNames x; clear_value x; revert x; intro _) | with_reducible refine foldl_steady _ _ _ ?_ (fun _ _ _ => ?_) | with_reducible refine modPart_steady _ _ _ ?_ | with_reducible refine modJob_steady _ _ _ ?_ | with_reducible refine settle_steady _ _ ?_ | with_reducible refine listEnd_steady _ _ _ ?_ | split)
theorem execEndDescriptor_steady (s : State) (hs : s.Steady s₀) : ∀ out, execEndDescriptor s = .next out → out.Steady s₀ := by
  intro out ht; unfold execEndDescriptor at ht; (try injection ht with ht); subst ht; repeat' (first | with_reducible assumption | with_reducible refine ite_steady ?_ ?_ | with_reducible (extract_lets +onlyGivenNames x; refine (show x.Steady s₀ → _ from fun hx => ?_) ?_; (on_goal 2 => unfold x; clear x); clear_value x; revert x; intro _ _) | with_reducible (extract_lets +onlyGivenNames x; refine (show x.1.Steady s₀ → _ from fun hx => ?_) ?_; (on_goal 2 => unfold x; clear x); clear_value x; revert x; intro _ _) | with_reducible (extract_lets +onlyGivenNames x; refine (show x.2.Steady s₀ → _ from fun hx => ?_) ?_; (on_goal 2 => unfold x; clear x); clear_value x; revert x; intro _ _) | with_reducible (extract_lets +onlyGivenNames x; refine (show (∀ t : State, t.Steady s₀ → (x t).Steady s₀) → _ from fun hx => ?_) ?_; (on_goal 2 => unfold x; clear x; intro t ht; beta_reduce); clear_value x; revert x; intro _ _) | with_reducible (extract_lets +onlyGivenNames x; clear_value x; revert x; intro _) | with_reducible refine complete_steady _ _ _ ?_ | with_reducible refine done_steady _ _ _ ?_ | with_reducible refine takeRe_steady _ _ ?_ _ _ (by assumption) | with_reducible refine conflict_steady _ _ ?_ | with_reducible refine recordEnd_steady _ _ _ ?_ | split)

end Sys2Proof.Machine
end

