-- ==== Sys2Proof/Laws/SteadyRows.lean ====
section
/-! SUPPORT. For each operation of the rows of the command table: what it keeps (State.Steady). -/

set_option maxRecDepth 4000
set_option linter.all false

namespace Sys2Proof.Machine

variable {s₀ : State}

/-! Machine/Park.lean. -/

theorem copyRange_steady (s : State) (a b n : Nat) (hs : s.Steady s₀) : (State.copyRange s a b n).1.Steady s₀ := by
  unfold State.copyRange; grind [meetWords_steady, modSram_steady, zeroRange_steady, upd_steady, → State.Steady.sram, → State.Steady.host, → State.Steady.flash, → State.Steady.input, → State.Steady.time, → State.Steady.slots, → State.Steady.keys, → State.Steady.queue, → State.Steady.por, Mem.wf_set, Mem.wf_write, Mem.wf_writeAll, Mem.wf_zero]
theorem copyRange_steadyE {s : State} {a b n : Nat} {out : State} {res} (hs : s.Steady s₀) (heq : State.copyRange s a b n = (out, res)) : out.Steady s₀ := by
  have h := copyRange_steady s a b n hs; rw [heq] at h; exact h
theorem readParkAt_steady (s : State) (a : Nat) (hs : s.Steady s₀) : (State.readParkAt s a).1.Steady s₀ := by
  unfold State.readParkAt; repeat' (first | with_reducible assumption | with_reducible refine fetchBytes_steady _ _ _ _ ?_ | with_reducible refine fetchBytes_steadyE ?_ (by assumption) | with_reducible (dsimp only) | split)
theorem readParkAt_steadyE {s : State} {a : Nat} {out : State} {res} (hs : s.Steady s₀) (heq : State.readParkAt s a = (out, res)) : out.Steady s₀ := by
  have h := readParkAt_steady s a hs; rw [heq] at h; exact h
theorem readPark_steady (s : State) (j : Job) (park : PartId) (hs : s.Steady s₀) : (State.readPark s j park).1.Steady s₀ := by
  unfold State.readPark; repeat' (first | with_reducible assumption | with_reducible refine readParkAt_steady _ _ ?_ | with_reducible refine readParkAt_steadyE ?_ (by assumption) | with_reducible (dsimp only) | split)
theorem readPark_steadyE {s : State} {j : Job} {park : PartId} {out : State} {res} (hs : s.Steady s₀) (heq : State.readPark s j park = (out, res)) : out.Steady s₀ := by
  have h := readPark_steady s j park hs; rw [heq] at h; exact h
theorem moveEntries_steady (s : State) (j : Job) (park : PartId) (ps : List PartId) (back : Bool) (ws : List W64) (n : Nat) (hs : s.Steady s₀) :
    (s.moveEntries j park ps back ws n).1.Steady s₀ := by
  induction ws generalizing s n with
  | nil => exact hs
  | cons w ws ih =>
    unfold State.moveEntries
    split
    · dsimp only
      split
      · exact ih _ _ hs
      · split
        · rename_i heq
          refine ih _ _ ?_
          split at heq <;> exact copyRange_steadyE hs heq
        · rename_i heq
          split at heq <;> exact copyRange_steadyE hs heq
    · exact ih _ _ hs
theorem moveEntries_steadyE {s : State} {j : Job} {park : PartId} {ps : List PartId} {back : Bool} {ws : List W64} {n : Nat} {out : State} {res}
    (hs : s.Steady s₀) (heq : s.moveEntries j park ps back ws n = (out, res)) : out.Steady s₀ := by
  have h := moveEntries_steady s j park ps back ws n hs; rw [heq] at h; exact h
theorem vacate_steady (s : State) (j : Job) (park : PartId) (jp : Nat) (ws : List W64) (hs : s.Steady s₀) : (State.vacate s j park jp ws).Steady s₀ := by
  unfold State.vacate; repeat' (first | with_reducible assumption | with_reducible refine foldl_steady _ _ _ ?_ (fun _ _ _ => ?_) | with_reducible refine zeroRange_steady _ _ _ ?_ | split)
theorem parkParts_steady (s : State) (j : Job) (park : PartId) (m : AllocMap) (hs : s.Steady s₀) : (State.parkParts s j park m).Steady s₀ := by
  unfold State.parkParts; repeat' (first | with_reducible assumption | with_reducible (refine upd_steady _ ?_ .. ; with_reducible assumption) | with_reducible refine ite_steady ?_ ?_ | with_reducible (extract_lets +onlyGivenNames x; refine (show x.Steady s₀ → _ from fun hx => ?_) ?_; (on_goal 2 => unfold x; clear x); clear_value x; revert x; intro _ _) | with_reducible (extract_lets +onlyGivenNames x; refine (show x.1.Steady s₀ → _ from fun hx => ?_) ?_; (on_goal 2 => unfold x; clear x); clear_value x; revert x; intro _ _) | with_reducible (extract_lets +onlyGivenNames x; refine (show x.2.Steady s₀ → _ from fun hx => ?_) ?_; (on_goal 2 => unfold x; clear x); clear_value x; revert x; intro _ _) | with_reducible (extract_lets +onlyGivenNames x; refine (show (∀ t : State, t.Steady s₀ → (x t).Steady s₀) → _ from fun hx => ?_) ?_; (on_goal 2 => unfold x; clear x; intro t ht; beta_reduce); clear_value x; revert x; intro _ _) | with_reducible (extract_lets +onlyGivenNames x; clear_value x; revert x; intro _) | with_reducible refine noteSlack_steady _ ?_ | split)
theorem awaitParked_steady (s : State) (t : ResetTask) (hs : s.Steady s₀) : (State.awaitParked s t).Steady s₀ := by
  unfold State.awaitParked; repeat' (first | with_reducible assumption | with_reducible (refine upd_steady _ ?_ .. ; with_reducible assumption) | with_reducible refine ite_steady ?_ ?_ | with_reducible refine modMgt_steady _ _ ?_ rfl | with_reducible refine taskDone_steady _ _ ?_ | split)
theorem parkJob_steady (s : State) (d : Desc) (j : Job) (jp : Nat) (park : PartId) (hs : s.Steady s₀) : (State.parkJob s d j jp park).Steady s₀ := by
  unfold State.parkJob; dsimp only; (repeat' split) <;> grind [modJob_steady, synthetic_steady, complete_steady, leaveDomain_steady, releaseLinks_steady, readPark_steady, moveEntries_steady, vacate_steady, parkParts_steady, awaitParked_steady, upd_steady, → State.Steady.sram, → State.Steady.host, → State.Steady.flash, → State.Steady.input, → State.Steady.time, → State.Steady.slots, → State.Steady.keys, → State.Steady.queue, → State.Steady.por, Mem.wf_set, Mem.wf_write, Mem.wf_writeAll, Mem.wf_zero]
theorem execPark_steady (s : State) (hs : s.Steady s₀) : ∀ out, execPark s = .next out → out.Steady s₀ := by
  intro out ht; unfold execPark at ht; (try injection ht with ht); subst ht; repeat' (first | with_reducible assumption | with_reducible refine ite_steady ?_ ?_ | with_reducible refine complete_steady _ _ _ ?_ | with_reducible refine done_steady _ _ _ ?_ | with_reducible refine takeMc_steady _ _ ?_ _ _ (by assumption) | with_reducible refine conflict_steady _ _ ?_ | with_reducible refine parkJob_steady _ _ _ _ _ ?_ | split)

/-! Machine/Start.lean. -/

theorem startNo_steady (s : State) (d : Desc) (x : StartNo) (hs : s.Steady s₀) : (State.startNo s d x).Steady s₀ := by
  unfold State.startNo; repeat' (first | with_reducible assumption | with_reducible (extract_lets +onlyGivenNames x; refine (show x.Steady s₀ → _ from fun hx => ?_) ?_; (on_goal 2 => unfold x; clear x); clear_value x; revert x; intro _ _) | with_reducible (extract_lets +onlyGivenNames x; refine (show x.1.Steady s₀ → _ from fun hx => ?_) ?_; (on_goal 2 => unfold x; clear x); clear_value x; revert x; intro _ _) | with_reducible (extract_lets +onlyGivenNames x; refine (show x.2.Steady s₀ → _ from fun hx => ?_) ?_; (on_goal 2 => unfold x; clear x); clear_value x; revert x; intro _ _) | with_reducible (extract_lets +onlyGivenNames x; refine (show (∀ t : State, t.Steady s₀ → (x t).Steady s₀) → _ from fun hx => ?_) ?_; (on_goal 2 => unfold x; clear x; intro t ht; beta_reduce); clear_value x; revert x; intro _ _) | with_reducible (extract_lets +onlyGivenNames x; clear_value x; revert x; intro _) | with_reducible refine hand_steady _ _ _ _ _ ?_ | with_reducible refine complete_steady _ _ _ ?_ | split)
theorem joinDomain_steady (s : State) (b : PaceBlock) (hs : s.Steady s₀) : (State.joinDomain s b).Steady s₀ := by
  unfold State.joinDomain; repeat' (first | with_reducible assumption | with_reducible (refine upd_steady _ ?_ .. ; with_reducible assumption) | with_reducible refine ite_steady ?_ ?_ | with_reducible (extract_lets +onlyGivenNames x; refine (show x.Steady s₀ → _ from fun hx => ?_) ?_; (on_goal 2 => unfold x; clear x); clear_value x; revert x; intro _ _) | with_reducible (extract_lets +onlyGivenNames x; refine (show x.1.Steady s₀ → _ from fun hx => ?_) ?_; (on_goal 2 => unfold x; clear x); clear_value x; revert x; intro _ _) | with_reducible (extract_lets +onlyGivenNames x; refine (show x.2.Steady s₀ → _ from fun hx => ?_) ?_; (on_goal 2 => unfold x; clear x); clear_value x; revert x; intro _ _) | with_reducible (extract_lets +onlyGivenNames x; refine (show (∀ t : State, t.Steady s₀ → (x t).Steady s₀) → _ from fun hx => ?_) ?_; (on_goal 2 => unfold x; clear x; intro t ht; beta_reduce); clear_value x; revert x; intro _ _) | with_reducible (extract_lets +onlyGivenNames x; clear_value x; revert x; intro _) | with_reducible refine modPace_steady _ _ ?_ | split)
theorem loadTables_steady (s : State) (id : Nat) (hs : s.Steady s₀) : (State.loadTables s id).Steady s₀ := by
  unfold State.loadTables; repeat' (first | with_reducible assumption | with_reducible (refine upd_steady _ ?_ .. ; with_reducible assumption) | with_reducible refine ite_steady ?_ ?_ | with_reducible (extract_lets +onlyGivenNames x; refine (show x.Steady s₀ → _ from fun hx => ?_) ?_; (on_goal 2 => unfold x; clear x); clear_value x; revert x; intro _ _) | with_reducible (extract_lets +onlyGivenNames x; refine (show x.1.Steady s₀ → _ from fun hx => ?_) ?_; (on_goal 2 => unfold x; clear x); clear_value x; revert x; intro _ _) | with_reducible (extract_lets +onlyGivenNames x; refine (show x.2.Steady s₀ → _ from fun hx => ?_) ?_; (on_goal 2 => unfold x; clear x); clear_value x; revert x; intro _ _) | with_reducible (extract_lets +onlyGivenNames x; refine (show (∀ t : State, t.Steady s₀ → (x t).Steady s₀) → _ from fun hx => ?_) ?_; (on_goal 2 => unfold x; clear x; intro t ht; beta_reduce); clear_value x; revert x; intro _ _) | with_reducible (extract_lets +onlyGivenNames x; clear_value x; revert x; intro _) | split)
theorem unbound_steady (s : State) (d : Desc) (hs : s.Steady s₀) : (State.unbound s d).Steady s₀ := by
  unfold State.unbound; repeat' (first | with_reducible assumption | with_reducible (refine upd_steady _ ?_ .. ; with_reducible assumption) | with_reducible refine ite_steady ?_ ?_ | with_reducible refine modHiu_steady _ _ ?_ | split)
theorem armJob_steady (s : State) (d : Desc) (id : Nat) (r : RankTable) (n : Fin 8) (resuming : Bool) (hs : s.Steady s₀) : (State.armJob s d id r n resuming).Steady s₀ := by
  unfold State.armJob; repeat' (first | with_reducible assumption | with_reducible (refine upd_steady _ ?_ .. ; with_reducible assumption) | with_reducible refine ite_steady ?_ ?_ | with_reducible (extract_lets +onlyGivenNames x; refine (show x.Steady s₀ → _ from fun hx => ?_) ?_; (on_goal 2 => unfold x; clear x); clear_value x; revert x; intro _ _) | with_reducible (extract_lets +onlyGivenNames x; refine (show x.1.Steady s₀ → _ from fun hx => ?_) ?_; (on_goal 2 => unfold x; clear x); clear_value x; revert x; intro _ _) | with_reducible (extract_lets +onlyGivenNames x; refine (show x.2.Steady s₀ → _ from fun hx => ?_) ?_; (on_goal 2 => unfold x; clear x); clear_value x; revert x; intro _ _) | with_reducible (extract_lets +onlyGivenNames x; refine (show (∀ t : State, t.Steady s₀ → (x t).Steady s₀) → _ from fun hx => ?_) ?_; (on_goal 2 => unfold x; clear x; intro t ht; beta_reduce); clear_value x; revert x; intro _ _) | with_reducible (extract_lets +onlyGivenNames x; clear_value x; revert x; intro _) | with_reducible refine foldl_steady _ _ _ ?_ (fun _ _ _ => ?_) | with_reducible refine modJob_steady _ _ _ ?_ | with_reducible refine sendDigests_steady _ _ _ ?_ | with_reducible refine compareDigests_steady _ _ ?_ | with_reducible refine joinDomain_steady _ _ ?_ | with_reducible refine loadTables_steady _ _ ?_ | with_reducible refine unbound_steady _ _ ?_ | split)
theorem startWith_steady (s : State) (d : Desc) (bs : List Byte) (hs : s.Steady s₀) : (State.startWith s d bs).Steady s₀ := by
  unfold State.startWith; repeat' (first | with_reducible assumption | with_reducible (refine upd_steady _ ?_ .. ; with_reducible assumption) | with_reducible (extract_lets +onlyGivenNames x; refine (show x.Steady s₀ → _ from fun hx => ?_) ?_; (on_goal 2 => unfold x; clear x); clear_value x; revert x; intro _ _) | with_reducible (extract_lets +onlyGivenNames x; refine (show x.1.Steady s₀ → _ from fun hx => ?_) ?_; (on_goal 2 => unfold x; clear x); clear_value x; revert x; intro _ _) | with_reducible (extract_lets +onlyGivenNames x; refine (show x.2.Steady s₀ → _ from fun hx => ?_) ?_; (on_goal 2 => unfold x; clear x); clear_value x; revert x; intro _ _) | with_reducible (extract_lets +onlyGivenNames x; refine (show (∀ t : State, t.Steady s₀ → (x t).Steady s₀) → _ from fun hx => ?_) ?_; (on_goal 2 => unfold x; clear x; intro t ht; beta_reduce); clear_value x; revert x; intro _ _) | with_reducible (extract_lets +onlyGivenNames x; clear_value x; revert x; intro _) | with_reducible refine modJob_steady _ _ _ ?_ | with_reducible refine conflict_steady _ _ ?_ | with_reducible refine startNo_steady _ _ _ ?_ | with_reducible refine armJob_steady _ _ _ _ _ _ ?_ | split)
theorem rankGo_steady (s : State) (o : WinOp) (k : State → List Byte → State) (hk : ∀ t bs, t.Steady s₀ → (k t bs).Steady s₀) (hs : s.Steady s₀) :
    (s.rankGo o k).Steady s₀ := by
  unfold State.rankGo
  split
  · rename_i heq; exact openHeader_steadyA _ _ hs _ heq
  · rename_i heq
    have h1 := openHeader_steadyB _ _ hs _ _ heq
    split
    · rename_i heq; exact winTake_steadyE h1 heq
    · rename_i heq; exact hk _ _ (setOp_steady _ _ _ (winTake_steadyE h1 heq))
theorem startGo_steady (s : State) (o : WinOp) (hs : s.Steady s₀) : (State.startGo s o).Steady s₀ := by
  unfold State.startGo; grind [startWith_steady, rankGo_steady, upd_steady, → State.Steady.sram, → State.Steady.host, → State.Steady.flash, → State.Steady.input, → State.Steady.time, → State.Steady.slots, → State.Steady.keys, → State.Steady.queue, → State.Steady.por, Mem.wf_set, Mem.wf_write, Mem.wf_writeAll, Mem.wf_zero]
theorem execStart_steady (s : State) (hs : s.Steady s₀) : ∀ out, execStart s = .next out → out.Steady s₀ := by
  intro out ht; unfold execStart at ht; (try injection ht with ht); subst ht; repeat' (first | with_reducible assumption | with_reducible refine ite_steady ?_ ?_ | with_reducible (extract_lets +onlyGivenNames x; refine (show x.Steady s₀ → _ from fun hx => ?_) ?_; (on_goal 2 => unfold x; clear x); clear_value x; revert x; intro _ _) | with_reducible (extract_lets +onlyGivenNames x; refine (show x.1.Steady s₀ → _ from fun hx => ?_) ?_; (on_goal 2 => unfold x; clear x); clear_value x; revert x; intro _ _) | with_reducible (extract_lets +onlyGivenNames x; refine (show x.2.Steady s₀ → _ from fun hx => ?_) ?_; (on_goal 2 => unfold x; clear x); clear_value x; revert x; intro _ _) | with_reducible (extract_lets +onlyGivenNames x; refine (show (∀ t : State, t.Steady s₀ → (x t).Steady s₀) → _ from fun hx => ?_) ?_; (on_goal 2 => unfold x; clear x; intro t ht; beta_reduce); clear_value x; revert x; intro _ _) | with_reducible (extract_lets +onlyGivenNames x; clear_value x; revert x; intro _) | with_reducible refine complete_steady _ _ _ ?_ | with_reducible refine done_steady _ _ _ ?_ | with_reducible refine pushOp_steady _ _ ?_ | with_reducible refine takeMc_steady _ _ ?_ _ _ (by assumption) | with_reducible refine conflict_steady _ _ ?_ | with_reducible refine startGo_steady _ _ ?_ | split)
theorem expand_steady (s : State) (d : Desc) (j : Job) (r : RankTable) (n : Fin 8) (hs : s.Steady s₀) : (State.expand s d j r n).Steady s₀ := by
  unfold State.expand; dsimp only; (repeat' split) <;> grind [modJob_steady, synthetic_steady, complete_steady, setParts_steady, rezero_steady, readPark_steady, moveEntries_steady, unbound_steady, armJob_steady, upd_steady, → State.Steady.sram, → State.Steady.host, → State.Steady.flash, → State.Steady.input, → State.Steady.time, → State.Steady.slots, → State.Steady.keys, → State.Steady.queue, → State.Steady.por, Mem.wf_set, Mem.wf_write, Mem.wf_writeAll, Mem.wf_zero]
theorem resumeWith_steady (s : State) (d : Desc) (bs : List Byte) (hs : s.Steady s₀) : (State.resumeWith s d bs).Steady s₀ := by
  unfold State.resumeWith; repeat' (first | with_reducible assumption | with_reducible (refine upd_steady _ ?_ .. ; with_reducible assumption) | with_reducible (extract_lets +onlyGivenNames x; refine (show x.Steady s₀ → _ from fun hx => ?_) ?_; (on_goal 2 => unfold x; clear x); clear_value x; revert x; intro _ _) | with_reducible (extract_lets +onlyGivenNames x; refine (show x.1.Steady s₀ → _ from fun hx => ?_) ?_; (on_goal 2 => unfold x; clear x); clear_value x; revert x; intro _ _) | with_reducible (extract_lets +onlyGivenNames x; refine (show x.2.Steady s₀ → _ from fun hx => ?_) ?_; (on_goal 2 => unfold x; clear x); clear_value x; revert x; intro _ _) | with_reducible (extract_lets +onlyGivenNames x; refine (show (∀ t : State, t.Steady s₀ → (x t).Steady s₀) → _ from fun hx => ?_) ?_; (on_goal 2 => unfold x; clear x; intro t ht; beta_reduce); clear_value x; revert x; intro _ _) | with_reducible (extract_lets +onlyGivenNames x; clear_value x; revert x; intro _) | with_reducible refine modJob_steady _ _ _ ?_ | with_reducible refine conflict_steady _ _ ?_ | with_reducible refine claimLinks_steady _ _ ?_ | with_reducible refine startNo_steady _ _ _ ?_ | with_reducible refine expand_steady _ _ _ _ _ ?_ | split)
theorem resumeGo_steady (s : State) (o : WinOp) (hs : s.Steady s₀) : (State.resumeGo s o).Steady s₀ := by
  unfold State.resumeGo; grind [rankGo_steady, resumeWith_steady, upd_steady, → State.Steady.sram, → State.Steady.host, → State.Steady.flash, → State.Steady.input, → State.Steady.time, → State.Steady.slots, → State.Steady.keys, → State.Steady.queue, → State.Steady.por, Mem.wf_set, Mem.wf_write, Mem.wf_writeAll, Mem.wf_zero]
theorem execResume_steady (s : State) (hs : s.Steady s₀) : ∀ out, execResume s = .next out → out.Steady s₀ := by
  intro out ht; unfold execResume at ht; (try injection ht with ht); subst ht; repeat' (first | with_reducible assumption | with_reducible refine ite_steady ?_ ?_ | with_reducible (extract_lets +onlyGivenNames x; refine (show x.Steady s₀ → _ from fun hx => ?_) ?_; (on_goal 2 => unfold x; clear x); clear_value x; revert x; intro _ _) | with_reducible (extract_lets +onlyGivenNames x; refine (show x.1.Steady s₀ → _ from fun hx => ?_) ?_; (on_goal 2 => unfold x; clear x); clear_value x; revert x; intro _ _) | with_reducible (extract_lets +onlyGivenNames x; refine (show x.2.Steady s₀ → _ from fun hx => ?_) ?_; (on_goal 2 => unfold x; clear x); clear_value x; revert x; intro _ _) | with_reducible (extract_lets +onlyGivenNames x; refine (show (∀ t : State, t.Steady s₀ → (x t).Steady s₀) → _ from fun hx => ?_) ?_; (on_goal 2 => unfold x; clear x; intro t ht; beta_reduce); clear_value x; revert x; intro _ _) | with_reducible (extract_lets +onlyGivenNames x; clear_value x; revert x; intro _) | with_reducible refine complete_steady _ _ _ ?_ | with_reducible refine done_steady _ _ _ ?_ | with_reducible refine pushOp_steady _ _ ?_ | with_reducible refine takeMc_steady _ _ ?_ _ _ (by assumption) | with_reducible refine conflict_steady _ _ ?_ | with_reducible refine resumeGo_steady _ _ ?_ | split)
theorem beginJob_steady (s : State) (j : Job) (start : Nat) (hs : s.Steady s₀) : (State.beginJob s j start).Steady s₀ := by
  unfold State.beginJob; repeat' (first | with_reducible assumption | with_reducible (refine upd_steady _ ?_ .. ; with_reducible assumption) | with_reducible refine ite_steady ?_ ?_ | with_reducible (extract_lets +onlyGivenNames x; refine (show x.Steady s₀ → _ from fun hx => ?_) ?_; (on_goal 2 => unfold x; clear x); clear_value x; revert x; intro _ _) | with_reducible (extract_lets +onlyGivenNames x; refine (show x.1.Steady s₀ → _ from fun hx => ?_) ?_; (on_goal 2 => unfold x; clear x); clear_value x; revert x; intro _ _) | with_reducible (extract_lets +onlyGivenNames x; refine (show x.2.Steady s₀ → _ from fun hx => ?_) ?_; (on_goal 2 => unfold x; clear x); clear_value x; revert x; intro _ _) | with_reducible (extract_lets +onlyGivenNames x; refine (show (∀ t : State, t.Steady s₀ → (x t).Steady s₀) → _ from fun hx => ?_) ?_; (on_goal 2 => unfold x; clear x; intro t ht; beta_reduce); clear_value x; revert x; intro _ _) | with_reducible (extract_lets +onlyGivenNames x; clear_value x; revert x; intro _) | with_reducible refine getD_steady (fun _ _ => ?_) ?_ | with_reducible refine modJob_steady _ _ _ ?_ | split)
theorem continueJob_steady (s : State) (j : Job) (start : Nat) (hs : s.Steady s₀) : (State.continueJob s j start).Steady s₀ := by
  unfold State.continueJob; repeat' (first | with_reducible assumption | with_reducible (refine upd_steady _ ?_ .. ; with_reducible assumption) | with_reducible refine ite_steady ?_ ?_ | with_reducible (extract_lets +onlyGivenNames x; refine (show x.Steady s₀ → _ from fun hx => ?_) ?_; (on_goal 2 => unfold x; clear x); clear_value x; revert x; intro _ _) | with_reducible (extract_lets +onlyGivenNames x; refine (show x.1.Steady s₀ → _ from fun hx => ?_) ?_; (on_goal 2 => unfold x; clear x); clear_value x; revert x; intro _ _) | with_reducible (extract_lets +onlyGivenNames x; refine (show x.2.Steady s₀ → _ from fun hx => ?_) ?_; (on_goal 2 => unfold x; clear x); clear_value x; revert x; intro _ _) | with_reducible (extract_lets +onlyGivenNames x; refine (show (∀ t : State, t.Steady s₀ → (x t).Steady s₀) → _ from fun hx => ?_) ?_; (on_goal 2 => unfold x; clear x; intro t ht; beta_reduce); clear_value x; revert x; intro _ _) | with_reducible (extract_lets +onlyGivenNames x; clear_value x; revert x; intro _) | with_reducible refine modJob_steady _ _ _ ?_ | with_reducible refine logs_steady _ _ _ _ ?_ | with_reducible refine releaseJob_steady _ _ _ _ ?_ | split)
theorem execJobStart_steady (lead : PartId) (s : State) (hs : s.Steady s₀) : ∀ out, execJobStart lead s = .next out → out.Steady s₀ := by
  intro out ht; unfold execJobStart at ht; (try injection ht with ht); subst ht; repeat' (first | with_reducible assumption | with_reducible refine ite_steady ?_ ?_ | with_reducible refine beginJob_steady _ _ _ ?_ | with_reducible refine continueJob_steady _ _ _ ?_ | split)

/-! Machine/Registers.lean. -/

theorem regLocked_steady (s : State) (f : FnId) (hs : s.Steady s₀) : (State.regLocked s f).Steady s₀ := by
  unfold State.regLocked; repeat' (first | with_reducible assumption | with_reducible refine logs_steady _ _ _ _ ?_ | split)
theorem unlocked_steady (s : State) (f : FnId) (g : State → State) (hg : ∀ t, t.Steady s₀ → (g t).Steady s₀) (hs : s.Steady s₀) : (s.unlocked f g).Steady s₀ :=
  ite_steady (regLocked_steady _ _ hs) (hg _ hs)
theorem setLock_steady (s : State) (f : FnId) (hs : s.Steady s₀) : (State.setLock s f).Steady s₀ := by
  unfold State.setLock; repeat' (first | with_reducible assumption | with_reducible (refine upd_steady _ ?_ .. ; with_reducible assumption) | with_reducible refine ite_steady ?_ ?_ | with_reducible refine modFn_steady _ _ _ ?_ | with_reducible refine setupRejected_steady _ _ ?_ | with_reducible refine regLocked_steady _ _ ?_ | split)
theorem execSetupLock_steady (f : FnId) (s : State) (hs : s.Steady s₀) : ∀ out, execSetupLock f s = .next out → out.Steady s₀ := by
  intro out ht; unfold execSetupLock at ht; refine overHost_steady _ _ ?_ hs _ ht; beta_reduce; repeat' (first | with_reducible assumption | with_reducible refine setLock_steady _ _ ?_ | split)
theorem setDblMode_steady (s : State) (f : FnId) (snoop : Bool) (hs : s.Steady s₀) : (State.setDblMode s f snoop).Steady s₀ := by
  unfold State.setDblMode; grind [modFn_steady, takeLines_steady, unlocked_steady, upd_steady, → State.Steady.sram, → State.Steady.host, → State.Steady.flash, → State.Steady.input, → State.Steady.time, → State.Steady.slots, → State.Steady.keys, → State.Steady.queue, → State.Steady.por, Mem.wf_set, Mem.wf_write, Mem.wf_writeAll, Mem.wf_zero]
theorem execHiuDblMode_steady (f : FnId) (snoop : Bool) (s : State) (hs : s.Steady s₀) : ∀ out, execHiuDblMode f snoop s = .next out → out.Steady s₀ := by
  intro out ht; unfold execHiuDblMode at ht; refine overHost_steady _ _ ?_ hs _ ht; beta_reduce; repeat' (first | with_reducible assumption | with_reducible refine setDblMode_steady _ _ _ ?_ | split)
theorem setBind_steady (s : State) (p : PartId) (v : W32) (hs : s.Steady s₀) : (State.setBind s p v).Steady s₀ := by
  unfold State.setBind; repeat' (first | with_reducible assumption | with_reducible (refine upd_steady _ ?_ .. ; with_reducible assumption) | with_reducible refine ite_steady ?_ ?_ | with_reducible (extract_lets +onlyGivenNames x; refine (show x.Steady s₀ → _ from fun hx => ?_) ?_; (on_goal 2 => unfold x; clear x); clear_value x; revert x; intro _ _) | with_reducible (extract_lets +onlyGivenNames x; refine (show x.1.Steady s₀ → _ from fun hx => ?_) ?_; (on_goal 2 => unfold x; clear x); clear_value x; revert x; intro _ _) | with_reducible (extract_lets +onlyGivenNames x; refine (show x.2.Steady s₀ → _ from fun hx => ?_) ?_; (on_goal 2 => unfold x; clear x); clear_value x; revert x; intro _ _) | with_reducible (extract_lets +onlyGivenNames x; refine (show (∀ t : State, t.Steady s₀ → (x t).Steady s₀) → _ from fun hx => ?_) ?_; (on_goal 2 => unfold x; clear x; intro t ht; beta_reduce); clear_value x; revert x; intro _ _) | with_reducible (extract_lets +onlyGivenNames x; clear_value x; revert x; intro _) | with_reducible refine modHiu_steady _ _ ?_ | with_reducible refine setupRejected_steady _ _ ?_ | split)
theorem execHiuBind_steady (p : PartId) (v : W32) (s : State) (hs : s.Steady s₀) : ∀ out, execHiuBind p v s = .next out → out.Steady s₀ := by
  intro out ht; unfold execHiuBind at ht; refine overHost_steady _ _ ?_ hs _ ht; beta_reduce; repeat' (first | with_reducible assumption | with_reducible refine setBind_steady _ _ _ ?_ | split)
theorem setWinRoot_steady (s : State) (f : FnId) (v : W64) (hs : s.Steady s₀) : (State.setWinRoot s f v).Steady s₀ := by
  unfold State.setWinRoot; grind [modFn_steady, unlocked_steady, upd_steady, → State.Steady.sram, → State.Steady.host, → State.Steady.flash, → State.Steady.input, → State.Steady.time, → State.Steady.slots, → State.Steady.keys, → State.Steady.queue, → State.Steady.por, Mem.wf_set, Mem.wf_write, Mem.wf_writeAll, Mem.wf_zero]
theorem exclCheck_steady (s : State) (n : Fin 4) (hs : s.Steady s₀) : (State.exclCheck s n).Steady s₀ := by
  unfold State.exclCheck; repeat' (first | with_reducible assumption | with_reducible refine ite_steady ?_ ?_ | with_reducible (extract_lets +onlyGivenNames x; refine (show x.Steady s₀ → _ from fun hx => ?_) ?_; (on_goal 2 => unfold x; clear x); clear_value x; revert x; intro _ _) | with_reducible (extract_lets +onlyGivenNames x; refine (show x.1.Steady s₀ → _ from fun hx => ?_) ?_; (on_goal 2 => unfold x; clear x); clear_value x; revert x; intro _ _) | with_reducible (extract_lets +onlyGivenNames x; refine (show x.2.Steady s₀ → _ from fun hx => ?_) ?_; (on_goal 2 => unfold x; clear x); clear_value x; revert x; intro _ _) | with_reducible (extract_lets +onlyGivenNames x; refine (show (∀ t : State, t.Steady s₀ → (x t).Steady s₀) → _ from fun hx => ?_) ?_; (on_goal 2 => unfold x; clear x; intro t ht; beta_reduce); clear_value x; revert x; intro _ _) | with_reducible (extract_lets +onlyGivenNames x; clear_value x; revert x; intro _) | with_reducible refine setupRejected_steady _ _ ?_ | split)
theorem setExclBase_steady (s : State) (n : Fin 4) (v : W64) (hs : s.Steady s₀) : (State.setExclBase s n v).Steady s₀ := by
  unfold State.setExclBase; grind [modHiu_steady, unlocked_steady, exclCheck_steady, upd_steady, → State.Steady.sram, → State.Steady.host, → State.Steady.flash, → State.Steady.input, → State.Steady.time, → State.Steady.slots, → State.Steady.keys, → State.Steady.queue, → State.Steady.por, Mem.wf_set, Mem.wf_write, Mem.wf_writeAll, Mem.wf_zero]
theorem setExclLimit_steady (s : State) (n : Fin 4) (v : W64) (hs : s.Steady s₀) : (State.setExclLimit s n v).Steady s₀ := by
  unfold State.setExclLimit; grind [modHiu_steady, unlocked_steady, exclCheck_steady, upd_steady, → State.Steady.sram, → State.Steady.host, → State.Steady.flash, → State.Steady.input, → State.Steady.time, → State.Steady.slots, → State.Steady.keys, → State.Steady.queue, → State.Steady.por, Mem.wf_set, Mem.wf_write, Mem.wf_writeAll, Mem.wf_zero]
theorem setSqAddr_steady (s : State) (f : FnId) (n : RingIx) (dbl : Bool) (v : W64) (hs : s.Steady s₀) : (State.setSqAddr s f n dbl v).Steady s₀ := by
  unfold State.setSqAddr; repeat' (first | with_reducible assumption | with_reducible (refine upd_steady _ ?_ .. ; with_reducible assumption) | with_reducible refine ite_steady ?_ ?_ | with_reducible refine logs_steady _ _ _ _ ?_ | with_reducible refine modSq_steady _ _ _ _ ?_ | split)
theorem setCqAddr_steady (s : State) (f : FnId) (n : RingIx) (dbl : Bool) (v : W64) (hs : s.Steady s₀) : (State.setCqAddr s f n dbl v).Steady s₀ := by
  unfold State.setCqAddr; repeat' (first | with_reducible assumption | with_reducible (refine upd_steady _ ?_ .. ; with_reducible assumption) | with_reducible refine ite_steady ?_ ?_ | with_reducible refine logs_steady _ _ _ _ ?_ | with_reducible refine modCq_steady _ _ _ _ ?_ | split)
theorem setSqCtrl_steady (s : State) (f : FnId) (n : RingIx) (v : W32) (hs : s.Steady s₀) : (State.setSqCtrl s f n v).Steady s₀ := by
  unfold State.setSqCtrl; repeat' (first | with_reducible assumption | with_reducible (refine upd_steady _ ?_ .. ; with_reducible assumption) | with_reducible refine ite_steady ?_ ?_ | with_reducible (extract_lets +onlyGivenNames x; refine (show x.Steady s₀ → _ from fun hx => ?_) ?_; (on_goal 2 => unfold x; clear x); clear_value x; revert x; intro _ _) | with_reducible (extract_lets +onlyGivenNames x; refine (show x.1.Steady s₀ → _ from fun hx => ?_) ?_; (on_goal 2 => unfold x; clear x); clear_value x; revert x; intro _ _) | with_reducible (extract_lets +onlyGivenNames x; refine (show x.2.Steady s₀ → _ from fun hx => ?_) ?_; (on_goal 2 => unfold x; clear x); clear_value x; revert x; intro _ _) | with_reducible (extract_lets +onlyGivenNames x; refine (show (∀ t : State, t.Steady s₀ → (x t).Steady s₀) → _ from fun hx => ?_) ?_; (on_goal 2 => unfold x; clear x; intro t ht; beta_reduce); clear_value x; revert x; intro _ _) | with_reducible (extract_lets +onlyGivenNames x; clear_value x; revert x; intro _) | with_reducible refine logs_steady _ _ _ _ ?_ | with_reducible refine modSq_steady _ _ _ _ ?_ | with_reducible refine sqEnable_steady _ _ _ ?_ | with_reducible refine sqDisable_steady _ _ _ ?_ | split)
theorem setCqCtrl_steady (s : State) (f : FnId) (n : RingIx) (v : W32) (hs : s.Steady s₀) : (State.setCqCtrl s f n v).Steady s₀ := by
  unfold State.setCqCtrl; repeat' (first | with_reducible assumption | with_reducible (refine upd_steady _ ?_ .. ; with_reducible assumption) | with_reducible refine ite_steady ?_ ?_ | with_reducible (extract_lets +onlyGivenNames x; refine (show x.Steady s₀ → _ from fun hx => ?_) ?_; (on_goal 2 => unfold x; clear x); clear_value x; revert x; intro _ _) | with_reducible (extract_lets +onlyGivenNames x; refine (show x.1.Steady s₀ → _ from fun hx => ?_) ?_; (on_goal 2 => unfold x; clear x); clear_value x; revert x; intro _ _) | with_reducible (extract_lets +onlyGivenNames x; refine (show x.2.Steady s₀ → _ from fun hx => ?_) ?_; (on_goal 2 => unfold x; clear x); clear_value x; revert x; intro _ _) | with_reducible (extract_lets +onlyGivenNames x; refine (show (∀ t : State, t.Steady s₀ → (x t).Steady s₀) → _ from fun hx => ?_) ?_; (on_goal 2 => unfold x; clear x; intro t ht; beta_reduce); clear_value x; revert x; intro _ _) | with_reducible (extract_lets +onlyGivenNames x; clear_value x; revert x; intro _) | with_reducible refine logs_steady _ _ _ _ ?_ | with_reducible refine modCq_steady _ _ _ _ ?_ | with_reducible refine cqEnable_steady _ _ _ ?_ | with_reducible refine cqDisable_steady _ _ _ ?_ | split)
theorem setCqIrq_steady (s : State) (f : FnId) (n : RingIx) (v : W32) (hs : s.Steady s₀) : (State.setCqIrq s f n v).Steady s₀ := by
  unfold State.setCqIrq; repeat' (first | with_reducible assumption | with_reducible (refine upd_steady _ ?_ .. ; with_reducible assumption) | with_reducible refine ite_steady ?_ ?_ | with_reducible refine modCq_steady _ _ _ _ ?_ | with_reducible refine setupRejected_steady _ _ ?_ | split)
theorem setMsix_steady (s : State) (f : FnId) (d : Nat) (v : W32) (hs : s.Steady s₀) : (State.setMsix s f d v).Steady s₀ := by
  unfold State.setMsix; repeat' (first | with_reducible assumption | with_reducible (refine upd_steady _ ?_ .. ; with_reducible assumption) | with_reducible refine ite_steady ?_ ?_ | with_reducible (extract_lets +onlyGivenNames x; refine (show x.Steady s₀ → _ from fun hx => ?_) ?_; (on_goal 2 => unfold x; clear x); clear_value x; revert x; intro _ _) | with_reducible (extract_lets +onlyGivenNames x; refine (show x.1.Steady s₀ → _ from fun hx => ?_) ?_; (on_goal 2 => unfold x; clear x); clear_value x; revert x; intro _ _) | with_reducible (extract_lets +onlyGivenNames x; refine (show x.2.Steady s₀ → _ from fun hx => ?_) ?_; (on_goal 2 => unfold x; clear x); clear_value x; revert x; intro _ _) | with_reducible (extract_lets +onlyGivenNames x; refine (show (∀ t : State, t.Steady s₀ → (x t).Steady s₀) → _ from fun hx => ?_) ?_; (on_goal 2 => unfold x; clear x; intro t ht; beta_reduce); clear_value x; revert x; intro _ _) | with_reducible (extract_lets +onlyGivenNames x; clear_value x; revert x; intro _) | with_reducible refine modFn_steady _ _ _ ?_ | with_reducible refine msixFreed_steady _ _ _ ?_ | split)
theorem checkPeer_steady (s : State) (l : LinkId) (hs : s.Steady s₀) : (State.checkPeer s l).Steady s₀ := by
  unfold State.checkPeer; repeat' (first | with_reducible assumption | with_reducible (refine upd_steady _ ?_ .. ; with_reducible assumption) | with_reducible refine ite_steady ?_ ?_ | with_reducible (extract_lets +onlyGivenNames x; refine (show x.Steady s₀ → _ from fun hx => ?_) ?_; (on_goal 2 => unfold x; clear x); clear_value x; revert x; intro _ _) | with_reducible (extract_lets +onlyGivenNames x; refine (show x.1.Steady s₀ → _ from fun hx => ?_) ?_; (on_goal 2 => unfold x; clear x); clear_value x; revert x; intro _ _) | with_reducible (extract_lets +onlyGivenNames x; refine (show x.2.Steady s₀ → _ from fun hx => ?_) ?_; (on_goal 2 => unfold x; clear x); clear_value x; revert x; intro _ _) | with_reducible (extract_lets +onlyGivenNames x; refine (show (∀ t : State, t.Steady s₀ → (x t).Steady s₀) → _ from fun hx => ?_) ?_; (on_goal 2 => unfold x; clear x; intro t ht; beta_reduce); clear_value x; revert x; intro _ _) | with_reducible (extract_lets +onlyGivenNames x; clear_value x; revert x; intro _) | with_reducible refine modLink_steady _ _ _ ?_ | with_reducible refine hand_steady _ _ _ _ _ ?_ | with_reducible refine conflict_steady _ _ ?_ | split)
theorem reidentify_steady (s : State) (hs : s.Steady s₀) : (State.reidentify s).Steady s₀ := by
  unfold State.reidentify; repeat' (first | with_reducible assumption | with_reducible (refine upd_steady _ ?_ .. ; with_reducible assumption) | with_reducible refine foldl_steady _ _ _ ?_ (fun _ _ _ => ?_) | with_reducible refine modLink_steady _ _ _ ?_ | with_reducible refine linkDown_steady _ _ _ ?_ | with_reducible refine linkReset_steady _ _ ?_ | with_reducible refine Taken_check_steadyE ?_ (by assumption) | split)
theorem install1_steady (s : State) (g : Mgt → Mgt) (hg : ∀ m, (g m).keys = m.keys) (hs : s.Steady s₀) : (s.install1 g).Steady s₀ := by
  unfold State.install1
  refine ite_steady (setupRejected_steady _ _ hs) ?_
  exact foldl_steady _ _ _ (reidentify_steady _ (modMgt_steady s g hs (hg _))) (fun s l h => checkPeer_steady _ _ h)
theorem setInstall_steady (s : State) (old new : W32) (ok : Bool) (g : Mgt → Mgt) (hg : ∀ m, (g m).keys = m.keys) (hs : s.Steady s₀) :
    (s.setInstall old new ok g).Steady s₀ :=
  unlocked_steady _ _ _ (fun t h => ite_steady h (ite_steady (setupRejected_steady _ _ h) (install1_steady _ _ hg h))) hs
theorem setTopology_steady (s : State) (v : W32) (hs : s.Steady s₀) : (s.setTopology v).Steady s₀ := setInstall_steady _ _ _ _ _ (fun _ => rfl) hs
theorem execMgtTopology_steady (v : W32) (s : State) (hs : s.Steady s₀) : ∀ out, execMgtTopology v s = .next out → out.Steady s₀ := by
  intro out ht; unfold execMgtTopology at ht; refine overHost_steady _ _ ?_ hs _ ht; beta_reduce; repeat' (first | with_reducible assumption | with_reducible refine setTopology_steady _ _ ?_ | split)
theorem setChipId_steady (s : State) (v : W32) (hs : s.Steady s₀) : (s.setChipId v).Steady s₀ := setInstall_steady _ _ _ _ _ (fun _ => rfl) hs
theorem execMgtChipId_steady (v : W32) (s : State) (hs : s.Steady s₀) : ∀ out, execMgtChipId v s = .next out → out.Steady s₀ := by
  intro out ht; unfold execMgtChipId at ht; refine overHost_steady _ _ ?_ hs _ ht; beta_reduce; repeat' (first | with_reducible assumption | with_reducible refine setChipId_steady _ _ ?_ | split)
theorem setMachineId_steady (s : State) (v : W32) (hs : s.Steady s₀) : (s.setMachineId v).Steady s₀ := setInstall_steady _ _ _ _ _ (fun _ => rfl) hs
theorem execMgtMachineId_steady (v : W32) (s : State) (hs : s.Steady s₀) : ∀ out, execMgtMachineId v s = .next out → out.Steady s₀ := by
  intro out ht; unfold execMgtMachineId at ht; refine overHost_steady _ _ ?_ hs _ ht; beta_reduce; repeat' (first | with_reducible assumption | with_reducible refine setMachineId_steady _ _ ?_ | split)
theorem setPeerExpect_steady (s : State) (l : LinkId) (v : W32) (hs : s.Steady s₀) : (State.setPeerExpect s l v).Steady s₀ := by
  unfold State.setPeerExpect; grind [modLink_steady, linkDown_steady, conflict_steady, setupRejected_steady, enterIdentify_steady, linkReset_steady, unlocked_steady, checkPeer_steady, upd_steady, → State.Steady.sram, → State.Steady.host, → State.Steady.flash, → State.Steady.input, → State.Steady.time, → State.Steady.slots, → State.Steady.keys, → State.Steady.queue, → State.Steady.por, Mem.wf_set, Mem.wf_write, Mem.wf_writeAll, Mem.wf_zero]
theorem execZlPeerExpect_steady (l : LinkId) (v : W32) (s : State) (hs : s.Steady s₀) : ∀ out, execZlPeerExpect l v s = .next out → out.Steady s₀ := by
  intro out ht; unfold execZlPeerExpect at ht; refine overHost_steady _ _ ?_ hs _ ht; beta_reduce; repeat' (first | with_reducible assumption | with_reducible refine setPeerExpect_steady _ _ _ ?_ | split)
theorem setZlCtrl_steady (s : State) (l : LinkId) (v : W32) (hs : s.Steady s₀) : (State.setZlCtrl s l v).Steady s₀ := by
  unfold State.setZlCtrl; repeat' (first | with_reducible assumption | with_reducible refine ite_steady ?_ ?_ | with_reducible (extract_lets +onlyGivenNames x; refine (show x.Steady s₀ → _ from fun hx => ?_) ?_; (on_goal 2 => unfold x; clear x); clear_value x; revert x; intro _ _) | with_reducible (extract_lets +onlyGivenNames x; refine (show x.1.Steady s₀ → _ from fun hx => ?_) ?_; (on_goal 2 => unfold x; clear x); clear_value x; revert x; intro _ _) | with_reducible (extract_lets +onlyGivenNames x; refine (show x.2.Steady s₀ → _ from fun hx => ?_) ?_; (on_goal 2 => unfold x; clear x); clear_value x; revert x; intro _ _) | with_reducible (extract_lets +onlyGivenNames x; refine (show (∀ t : State, t.Steady s₀ → (x t).Steady s₀) → _ from fun hx => ?_) ?_; (on_goal 2 => unfold x; clear x; intro t ht; beta_reduce); clear_value x; revert x; intro _ _) | with_reducible (extract_lets +onlyGivenNames x; clear_value x; revert x; intro _) | with_reducible refine linkReset_steady _ _ ?_ | with_reducible refine retrain_steady _ _ ?_ | with_reducible refine linkEnable_steady _ _ _ ?_ | split)
theorem setSlice_steady (s : State) (n : Fin 8) (v : W64) (hs : s.Steady s₀) : (State.setSlice s n v).Steady s₀ := by
  unfold State.setSlice; repeat' (first | with_reducible assumption | with_reducible (refine upd_steady _ ?_ .. ; with_reducible assumption) | with_reducible refine ite_steady ?_ ?_ | with_reducible (extract_lets +onlyGivenNames x; refine (show x.Steady s₀ → _ from fun hx => ?_) ?_; (on_goal 2 => unfold x; clear x); clear_value x; revert x; intro _ _) | with_reducible (extract_lets +onlyGivenNames x; refine (show x.1.Steady s₀ → _ from fun hx => ?_) ?_; (on_goal 2 => unfold x; clear x); clear_value x; revert x; intro _ _) | with_reducible (extract_lets +onlyGivenNames x; refine (show x.2.Steady s₀ → _ from fun hx => ?_) ?_; (on_goal 2 => unfold x; clear x); clear_value x; revert x; intro _ _) | with_reducible (extract_lets +onlyGivenNames x; refine (show (∀ t : State, t.Steady s₀ → (x t).Steady s₀) → _ from fun hx => ?_) ?_; (on_goal 2 => unfold x; clear x; intro t ht; beta_reduce); clear_value x; revert x; intro _ _) | with_reducible (extract_lets +onlyGivenNames x; clear_value x; revert x; intro _) | with_reducible refine modMgt_steady _ _ ?_ rfl | with_reducible refine logs_steady _ _ _ _ ?_ | with_reducible refine setupRejected_steady _ _ ?_ | split)
theorem setUnitReset_steady (s : State) (v : W32) (hs : s.Steady s₀) : (State.setUnitReset s v).Steady s₀ := by
  unfold State.setUnitReset; repeat' (first | with_reducible assumption | with_reducible refine ite_steady ?_ ?_ | with_reducible (extract_lets +onlyGivenNames x; refine (show x.Steady s₀ → _ from fun hx => ?_) ?_; (on_goal 2 => unfold x; clear x); clear_value x; revert x; intro _ _) | with_reducible (extract_lets +onlyGivenNames x; refine (show x.1.Steady s₀ → _ from fun hx => ?_) ?_; (on_goal 2 => unfold x; clear x); clear_value x; revert x; intro _ _) | with_reducible (extract_lets +onlyGivenNames x; refine (show x.2.Steady s₀ → _ from fun hx => ?_) ?_; (on_goal 2 => unfold x; clear x); clear_value x; revert x; intro _ _) | with_reducible (extract_lets +onlyGivenNames x; refine (show (∀ t : State, t.Steady s₀ → (x t).Steady s₀) → _ from fun hx => ?_) ?_; (on_goal 2 => unfold x; clear x; intro t ht; beta_reduce); clear_value x; revert x; intro _ _) | with_reducible (extract_lets +onlyGivenNames x; clear_value x; revert x; intro _) | with_reducible refine setupRejected_steady _ _ ?_ | with_reducible refine unitResetGo_steady _ _ ?_ | split)
theorem setPwr_steady (s : State) (i : Nat) (v : W32) (hs : s.Steady s₀) : (State.setPwr s i v).Steady s₀ := by
  unfold State.setPwr; repeat' (first | with_reducible assumption | with_reducible (refine upd_steady _ ?_ .. ; with_reducible assumption) | with_reducible refine ite_steady ?_ ?_ | with_reducible (extract_lets +onlyGivenNames x; refine (show x.Steady s₀ → _ from fun hx => ?_) ?_; (on_goal 2 => unfold x; clear x); clear_value x; revert x; intro _ _) | with_reducible (extract_lets +onlyGivenNames x; refine (show x.1.Steady s₀ → _ from fun hx => ?_) ?_; (on_goal 2 => unfold x; clear x); clear_value x; revert x; intro _ _) | with_reducible (extract_lets +onlyGivenNames x; refine (show x.2.Steady s₀ → _ from fun hx => ?_) ?_; (on_goal 2 => unfold x; clear x); clear_value x; revert x; intro _ _) | with_reducible (extract_lets +onlyGivenNames x; refine (show (∀ t : State, t.Steady s₀ → (x t).Steady s₀) → _ from fun hx => ?_) ?_; (on_goal 2 => unfold x; clear x; intro t ht; beta_reduce); clear_value x; revert x; intro _ _) | with_reducible (extract_lets +onlyGivenNames x; clear_value x; revert x; intro _) | with_reducible refine modPower_steady _ _ ?_ ⟨rfl, id⟩ | with_reducible refine setupRejected_steady _ _ ?_ | with_reducible refine mainDisable_steady _ ?_ | with_reducible refine tripClear_steady _ ?_ | split)
theorem setMac_steady (s : State) (p : PortId) (k : SubPort) (v : W64) (hs : s.Steady s₀) : (State.setMac s p k v).Steady s₀ := by
  unfold State.setMac; grind [modPort_steady, unlocked_steady, upd_steady, → State.Steady.sram, → State.Steady.host, → State.Steady.flash, → State.Steady.input, → State.Steady.time, → State.Steady.slots, → State.Steady.keys, → State.Steady.queue, → State.Steady.por, Mem.wf_set, Mem.wf_write, Mem.wf_writeAll, Mem.wf_zero]
theorem setMcast_steady (s : State) (m : Fin 8) (v : W64) (hs : s.Steady s₀) : (State.setMcast s m v).Steady s₀ := by
  unfold State.setMcast; repeat' (first | with_reducible assumption | with_reducible (refine upd_steady _ ?_ .. ; with_reducible assumption) | with_reducible refine ite_steady ?_ ?_ | with_reducible refine modSvc_steady _ _ ?_ | with_reducible refine setupRejected_steady _ _ ?_ | split)
theorem setTxAddr_steady (s : State) (dbl : Bool) (v : W64) (hs : s.Steady s₀) : (State.setTxAddr s dbl v).Steady s₀ := by
  unfold State.setTxAddr; repeat' (first | with_reducible assumption | with_reducible (refine upd_steady _ ?_ .. ; with_reducible assumption) | with_reducible refine ite_steady ?_ ?_ | with_reducible refine logs_steady _ _ _ _ ?_ | with_reducible refine modTx_steady _ _ ?_ | split)
theorem setTxCtrl_steady (s : State) (v : W32) (hs : s.Steady s₀) : (State.setTxCtrl s v).Steady s₀ := by
  unfold State.setTxCtrl; repeat' (first | with_reducible assumption | with_reducible (refine upd_steady _ ?_ .. ; with_reducible assumption) | with_reducible refine ite_steady ?_ ?_ | with_reducible (extract_lets +onlyGivenNames x; refine (show x.Steady s₀ → _ from fun hx => ?_) ?_; (on_goal 2 => unfold x; clear x); clear_value x; revert x; intro _ _) | with_reducible (extract_lets +onlyGivenNames x; refine (show x.1.Steady s₀ → _ from fun hx => ?_) ?_; (on_goal 2 => unfold x; clear x); clear_value x; revert x; intro _ _) | with_reducible (extract_lets +onlyGivenNames x; refine (show x.2.Steady s₀ → _ from fun hx => ?_) ?_; (on_goal 2 => unfold x; clear x); clear_value x; revert x; intro _ _) | with_reducible (extract_lets +onlyGivenNames x; refine (show (∀ t : State, t.Steady s₀ → (x t).Steady s₀) → _ from fun hx => ?_) ?_; (on_goal 2 => unfold x; clear x; intro t ht; beta_reduce); clear_value x; revert x; intro _ _) | with_reducible (extract_lets +onlyGivenNames x; clear_value x; revert x; intro _) | with_reducible refine logs_steady _ _ _ _ ?_ | with_reducible refine setupRejected_steady _ _ ?_ | with_reducible refine modTx_steady _ _ ?_ | with_reducible refine txEnable_steady _ ?_ | with_reducible refine txDisable_steady _ ?_ | split)
theorem setTringCtrl_steady (s : State) (n : TRingId) (v : W32) (hs : s.Steady s₀) : (State.setTringCtrl s n v).Steady s₀ := by
  unfold State.setTringCtrl; repeat' (first | with_reducible assumption | with_reducible (refine upd_steady _ ?_ .. ; with_reducible assumption) | with_reducible refine ite_steady ?_ ?_ | with_reducible (extract_lets +onlyGivenNames x; refine (show x.Steady s₀ → _ from fun hx => ?_) ?_; (on_goal 2 => unfold x; clear x); clear_value x; revert x; intro _ _) | with_reducible (extract_lets +onlyGivenNames x; refine (show x.1.Steady s₀ → _ from fun hx => ?_) ?_; (on_goal 2 => unfold x; clear x); clear_value x; revert x; intro _ _) | with_reducible (extract_lets +onlyGivenNames x; refine (show x.2.Steady s₀ → _ from fun hx => ?_) ?_; (on_goal 2 => unfold x; clear x); clear_value x; revert x; intro _ _) | with_reducible (extract_lets +onlyGivenNames x; refine (show (∀ t : State, t.Steady s₀ → (x t).Steady s₀) → _ from fun hx => ?_) ?_; (on_goal 2 => unfold x; clear x; intro t ht; beta_reduce); clear_value x; revert x; intro _ _) | with_reducible (extract_lets +onlyGivenNames x; clear_value x; revert x; intro _) | with_reducible refine setupRejected_steady _ _ ?_ | with_reducible refine modTring_steady _ _ _ ?_ | with_reducible refine tringEnable_steady _ _ ?_ | with_reducible refine tringDisable_steady _ _ ?_ | split)
theorem setTring_steady (s : State) (n : TRingId) (g : TRing → TRing) (hs : s.Steady s₀) : (State.setTring s n g).Steady s₀ := by
  unfold State.setTring; repeat' (first | with_reducible assumption | with_reducible refine ite_steady ?_ ?_ | with_reducible refine setupRejected_steady _ _ ?_ | with_reducible refine modTring_steady _ _ _ ?_ | split)
theorem setTime_steady (s : State) (g : Clock → Clock) (h1 : (g s.clock).sec = s.clock.sec) (h2 : (g s.clock).ns = s.clock.ns) (h3 : (g s.clock).frac = s.clock.frac)
    (hs : s.Steady s₀) : (s.setTime g).Steady s₀ :=
  ite_steady (setupRejected_steady _ _ hs) (modClock_steady _ _ hs h1 h2 h3)
theorem setPtpCtrl_steady (s : State) (v : W32) (hs : s.Steady s₀) : (State.setPtpCtrl s v).Steady s₀ := by
  unfold State.setPtpCtrl; repeat' (first | with_reducible assumption | with_reducible refine ite_steady ?_ ?_ | with_reducible refine setupRejected_steady _ _ ?_ | with_reducible refine timeChange_steady _ _ ?_ | split)
theorem ranged_steady (s : State) (v lo hi : Nat) (g : State → State) (hg : ∀ t, t.Steady s₀ → (g t).Steady s₀) (hs : s.Steady s₀) : (s.ranged v lo hi g).Steady s₀ :=
  ite_steady (hg _ hs) (setupRejected_steady _ _ hs)
theorem commit64_steady (s : State) (f : FnId) (r : SetupReg) (v : W64) (hs : s.Steady s₀) : (State.commit64 s f r v).Steady s₀ := by
  unfold State.commit64; grind [setIncr_steady, setWinRoot_steady, setExclBase_steady, setExclLimit_steady, setSqAddr_steady, setCqAddr_steady, setSlice_steady, setMac_steady, setMcast_steady, setTxAddr_steady, setTring_steady, setTime_steady, modBoot_steady, upd_steady, → State.Steady.sram, → State.Steady.host, → State.Steady.flash, → State.Steady.input, → State.Steady.time, → State.Steady.slots, → State.Steady.keys, → State.Steady.queue, → State.Steady.por, Mem.wf_set, Mem.wf_write, Mem.wf_writeAll, Mem.wf_zero]
theorem commitWide_steady (s : State) (f : FnId) (off : BitVec 20) (r : SetupReg) (v : W64) (hs : s.Steady s₀) : (State.commitWide s f off r v).Steady s₀ := by
  unfold State.commitWide; repeat' (first | with_reducible assumption | with_reducible (refine upd_steady _ ?_ .. ; with_reducible assumption) | with_reducible refine modMgt_steady _ _ ?_ rfl | with_reducible refine commit64_steady _ _ _ _ ?_ | split)
theorem writeHalf_steady (s : State) (f : FnId) (off : BitVec 20) (r : SetupReg) (v : W32) (hs : s.Steady s₀) : (State.writeHalf s f off r v).Steady s₀ := by
  unfold State.writeHalf; repeat' (first | with_reducible assumption | with_reducible (refine upd_steady _ ?_ .. ; with_reducible assumption) | with_reducible refine ite_steady ?_ ?_ | with_reducible (extract_lets +onlyGivenNames x; refine (show x.Steady s₀ → _ from fun hx => ?_) ?_; (on_goal 2 => unfold x; clear x); clear_value x; revert x; intro _ _) | with_reducible (extract_lets +onlyGivenNames x; refine (show x.1.Steady s₀ → _ from fun hx => ?_) ?_; (on_goal 2 => unfold x; clear x); clear_value x; revert x; intro _ _) | with_reducible (extract_lets +onlyGivenNames x; refine (show x.2.Steady s₀ → _ from fun hx => ?_) ?_; (on_goal 2 => unfold x; clear x); clear_value x; revert x; intro _ _) | with_reducible (extract_lets +onlyGivenNames x; refine (show (∀ t : State, t.Steady s₀ → (x t).Steady s₀) → _ from fun hx => ?_) ?_; (on_goal 2 => unfold x; clear x; intro t ht; beta_reduce); clear_value x; revert x; intro _ _) | with_reducible (extract_lets +onlyGivenNames x; clear_value x; revert x; intro _) | with_reducible refine modMgt_steady _ _ ?_ rfl | with_reducible refine commitWide_steady _ _ _ _ _ ?_ | split)
theorem execPlanSlice_steady (n : Fin 8) (v : W64) (s : State) (hs : s.Steady s₀) : ∀ out, execPlanSlice n v s = .next out → out.Steady s₀ := by
  intro out ht; unfold execPlanSlice at ht; refine overHost_steady _ _ ?_ hs _ ht; beta_reduce; repeat' (first | with_reducible assumption | with_reducible refine commitWide_steady _ _ _ _ _ ?_ | split)
theorem execPtpIncr_steady (v : W64) (s : State) (hs : s.Steady s₀) : ∀ out, execPtpIncr v s = .next out → out.Steady s₀ := by
  intro out ht; unfold execPtpIncr at ht; refine overHost_steady _ _ ?_ hs _ ht; beta_reduce; repeat' (first | with_reducible assumption | with_reducible refine commitWide_steady _ _ _ _ _ ?_ | split)

/-! Machine/Board.lean. -/

theorem i3cAnswer_steady (s : State) (bs : List Byte) (hs : s.Steady s₀) : (State.i3cAnswer s bs).Steady s₀ := by
  unfold State.i3cAnswer; repeat' (first | with_reducible assumption | with_reducible (refine upd_steady _ ?_ .. ; with_reducible assumption) | split)
theorem i3cBad_steady (s : State) (hs : s.Steady s₀) : (State.i3cBad s).Steady s₀ := by
  unfold State.i3cBad; repeat' (first | with_reducible assumption | with_reducible refine i3cAnswer_steady _ _ ?_ | split)
theorem i3c_steady (s : State) (g : State → State) (hg : ∀ t, t.Steady s₀ → (g t).Steady s₀) (hs : s.Steady s₀) : ∀ out, s.i3c g = .next out → out.Steady s₀ := by
  intro out ht; unfold State.i3c at ht; injection ht with ht; subst ht
  first | exact ite_steady (hg _ hs) hs | exact ite_steady hs (hg _ hs)
theorem execI3cRegRead_steady (c : I3cRead) (s : State) (hs : s.Steady s₀) : ∀ out, execI3cRegRead c s = .next out → out.Steady s₀ := by
  intro out ht; unfold execI3cRegRead at ht; (try injection ht with ht); subst ht; repeat' (first | with_reducible assumption | with_reducible refine ite_steady ?_ ?_ | with_reducible refine i3cAnswer_steady _ _ ?_ | with_reducible refine i3cBad_steady _ ?_ | split)
theorem execI3cRegWrite_steady (index : Byte) (v : W32) (s : State) (hs : s.Steady s₀) : ∀ out, execI3cRegWrite index v s = .next out → out.Steady s₀ := by
  intro out ht; unfold execI3cRegWrite at ht; (try injection ht with ht); subst ht; repeat' (first | with_reducible assumption | with_reducible refine ite_steady ?_ ?_ | with_reducible refine setPwr_steady _ _ _ ?_ | with_reducible refine i3cAnswer_steady _ _ ?_ | with_reducible refine i3cBad_steady _ ?_ | split)
theorem execSensorRead_steady (index : Byte) (s : State) (hs : s.Steady s₀) : ∀ out, execSensorRead index s = .next out → out.Steady s₀ := by
  intro out ht; unfold execSensorRead at ht; (try injection ht with ht); subst ht; repeat' (first | with_reducible assumption | with_reducible refine ite_steady ?_ ?_ | with_reducible (extract_lets +onlyGivenNames x; refine (show x.Steady s₀ → _ from fun hx => ?_) ?_; (on_goal 2 => unfold x; clear x); clear_value x; revert x; intro _ _) | with_reducible (extract_lets +onlyGivenNames x; refine (show x.1.Steady s₀ → _ from fun hx => ?_) ?_; (on_goal 2 => unfold x; clear x); clear_value x; revert x; intro _ _) | with_reducible (extract_lets +onlyGivenNames x; refine (show x.2.Steady s₀ → _ from fun hx => ?_) ?_; (on_goal 2 => unfold x; clear x); clear_value x; revert x; intro _ _) | with_reducible (extract_lets +onlyGivenNames x; refine (show (∀ t : State, t.Steady s₀ → (x t).Steady s₀) → _ from fun hx => ?_) ?_; (on_goal 2 => unfold x; clear x; intro t ht; beta_reduce); clear_value x; revert x; intro _ _) | with_reducible (extract_lets +onlyGivenNames x; clear_value x; revert x; intro _) | with_reducible refine i3cAnswer_steady _ _ ?_ | with_reducible refine i3cBad_steady _ ?_ | split)
theorem execI3cLogRead_steady (slot : W16) (s : State) (hs : s.Steady s₀) : ∀ out, execI3cLogRead slot s = .next out → out.Steady s₀ := by
  intro out ht; unfold execI3cLogRead at ht; (try injection ht with ht); subst ht; repeat' (first | with_reducible assumption | with_reducible refine ite_steady ?_ ?_ | with_reducible refine i3cAnswer_steady _ _ ?_ | with_reducible refine i3cBad_steady _ ?_ | split)
theorem execLinkStatus_steady (s : State) (hs : s.Steady s₀) : ∀ out, execLinkStatus s = .next out → out.Steady s₀ := by
  intro out ht; unfold execLinkStatus at ht; (try injection ht with ht); subst ht; repeat' (first | with_reducible assumption | with_reducible refine present_steady _ _ _ _ ?_ | with_reducible refine i3cAnswer_steady _ _ ?_ | split)
theorem memGo_steady (s : State) (isRead : Bool) (addr : W64) (form : Byte) (len : Nat) (data : List Byte) (hs : s.Steady s₀) : (State.memGo s isRead addr form len data).Steady s₀ := by
  unfold State.memGo; repeat' (first | with_reducible assumption | with_reducible refine ite_steady ?_ ?_ | with_reducible refine logs_steady _ _ _ _ ?_ | with_reducible refine openRequest_steady _ _ _ _ _ _ _ _ ?_ _ (by assumption) | with_reducible refine openRequest_steadyD _ _ _ _ _ _ _ _ ?_ _ ?_ | with_reducible refine i3cAnswer_steady _ _ ?_ | with_reducible refine i3cBad_steady _ ?_ | split)
theorem mem_steady (s : State) (isRead : Bool) (addr : W64) (form : Byte) (len : Byte) (data : List Byte) (hs : s.Steady s₀) : (State.mem s isRead addr form len data).Steady s₀ := by
  unfold State.mem; repeat' (first | with_reducible assumption | with_reducible (refine upd_steady _ ?_ .. ; with_reducible assumption) | with_reducible refine ite_steady ?_ ?_ | with_reducible refine i3cAnswer_steady _ _ ?_ | with_reducible refine i3cBad_steady _ ?_ | with_reducible refine memGo_steady _ _ _ _ _ _ ?_ | split)
theorem execMemRead_steady (addr : W64) (form : Byte) (len : Byte) (s : State) (hs : s.Steady s₀) : ∀ out, execMemRead addr form len s = .next out → out.Steady s₀ := by
  intro out ht; unfold execMemRead at ht; (try injection ht with ht); subst ht; repeat' (first | with_reducible assumption | with_reducible refine mem_steady _ _ _ _ _ _ ?_ | split)
theorem execMemWrite_steady (addr : W64) (form : Byte) (len : Byte) (data : List Byte) (s : State) (hs : s.Steady s₀) : ∀ out, execMemWrite addr form len data s = .next out → out.Steady s₀ := by
  intro out ht; unfold execMemWrite at ht; (try injection ht with ht); subst ht; repeat' (first | with_reducible assumption | with_reducible refine mem_steady _ _ _ _ _ _ ?_ | split)
theorem execFwSwitchComplete_steady (flashOk : Bool) (s : State) (hs : s.Steady s₀) : ∀ out, execFwSwitchComplete flashOk s = .next out → out.Steady s₀ := by
  intro out ht; unfold execFwSwitchComplete at ht; (try injection ht with ht); subst ht; repeat' (first | with_reducible assumption | with_reducible (refine upd_steady _ ?_ .. ; with_reducible assumption) | with_reducible refine ite_steady ?_ ?_ | with_reducible (extract_lets +onlyGivenNames x; refine (show x.Steady s₀ → _ from fun hx => ?_) ?_; (on_goal 2 => unfold x; clear x); clear_value x; revert x; intro _ _) | with_reducible (extract_lets +onlyGivenNames x; refine (show x.1.Steady s₀ → _ from fun hx => ?_) ?_; (on_goal 2 => unfold x; clear x); clear_value x; revert x; intro _ _) | with_reducible (extract_lets +onlyGivenNames x; refine (show x.2.Steady s₀ → _ from fun hx => ?_) ?_; (on_goal 2 => unfold x; clear x); clear_value x; revert x; intro _ _) | with_reducible (extract_lets +onlyGivenNames x; refine (show (∀ t : State, t.Steady s₀ → (x t).Steady s₀) → _ from fun hx => ?_) ?_; (on_goal 2 => unfold x; clear x; intro t ht; beta_reduce); clear_value x; revert x; intro _ _) | with_reducible (extract_lets +onlyGivenNames x; clear_value x; revert x; intro _) | with_reducible refine foldl_steady _ _ _ ?_ (fun _ _ _ => ?_) | with_reducible refine fwSwitched_steady _ _ ?_ | with_reducible refine i3cAnswer_steady _ _ ?_ | with_reducible refine memGo_steady _ _ _ _ _ _ ?_ | split)
theorem tdo_steady (s : State) (x : JtagData) (hs : s.Steady s₀) : (State.tdo s x).Steady s₀ := by
  unfold State.tdo; repeat' (first | with_reducible assumption | with_reducible (refine upd_steady _ ?_ .. ; with_reducible assumption) | split)
theorem writeGolden_steady (s : State) (h : Option PartId) (off : Nat) (bs : List Byte) (hs : s.Steady s₀) : (State.writeGolden s h off bs).Steady s₀ := by
  unfold State.writeGolden; repeat' (first | with_reducible assumption | with_reducible (refine upd_steady _ ?_ .. ; with_reducible assumption) | with_reducible (extract_lets +onlyGivenNames x; refine (show x.Steady s₀ → _ from fun hx => ?_) ?_; (on_goal 2 => unfold x; clear x); clear_value x; revert x; intro _ _) | with_reducible (extract_lets +onlyGivenNames x; refine (show x.1.Steady s₀ → _ from fun hx => ?_) ?_; (on_goal 2 => unfold x; clear x); clear_value x; revert x; intro _ _) | with_reducible (extract_lets +onlyGivenNames x; refine (show x.2.Steady s₀ → _ from fun hx => ?_) ?_; (on_goal 2 => unfold x; clear x); clear_value x; revert x; intro _ _) | with_reducible (extract_lets +onlyGivenNames x; refine (show (∀ t : State, t.Steady s₀ → (x t).Steady s₀) → _ from fun hx => ?_) ?_; (on_goal 2 => unfold x; clear x; intro t ht; beta_reduce); clear_value x; revert x; intro _ _) | with_reducible (extract_lets +onlyGivenNames x; clear_value x; revert x; intro _) | with_reducible refine modPart_steady _ _ _ ?_ | split)
theorem debugAccess_steady (s : State) (x : DebugAccess) (hs : s.Steady s₀) : (State.debugAccess s x).Steady s₀ := by
  unfold State.debugAccess; repeat' (first | with_reducible assumption | with_reducible (refine upd_steady _ ?_ .. ; with_reducible assumption) | with_reducible (extract_lets +onlyGivenNames x; refine (show x.Steady s₀ → _ from fun hx => ?_) ?_; (on_goal 2 => unfold x; clear x); clear_value x; revert x; intro _ _) | with_reducible (extract_lets +onlyGivenNames x; refine (show x.1.Steady s₀ → _ from fun hx => ?_) ?_; (on_goal 2 => unfold x; clear x); clear_value x; revert x; intro _ _) | with_reducible (extract_lets +onlyGivenNames x; refine (show x.2.Steady s₀ → _ from fun hx => ?_) ?_; (on_goal 2 => unfold x; clear x); clear_value x; revert x; intro _ _) | with_reducible (extract_lets +onlyGivenNames x; refine (show (∀ t : State, t.Steady s₀ → (x t).Steady s₀) → _ from fun hx => ?_) ?_; (on_goal 2 => unfold x; clear x; intro t ht; beta_reduce); clear_value x; revert x; intro _ _) | with_reducible (extract_lets +onlyGivenNames x; clear_value x; revert x; intro _) | with_reducible refine modSram_steady2 _ _ ?_ rfl | with_reducible refine draw_steady _ ?_ | with_reducible refine draw_steadyE ?_ (by assumption) | with_reducible refine wr_steady _ _ _ ?_ | with_reducible refine tdo_steady _ _ ?_ | with_reducible refine writeGolden_steady _ _ _ _ ?_ | split)
theorem jtagLoad_steady (s : State) (op : JtagOp) (hs : s.Steady s₀) : (State.jtagLoad s op).Steady s₀ := by
  unfold State.jtagLoad; repeat' (first | with_reducible assumption | with_reducible (refine upd_steady _ ?_ .. ; with_reducible assumption) | with_reducible (extract_lets +onlyGivenNames x; refine (show x.Steady s₀ → _ from fun hx => ?_) ?_; (on_goal 2 => unfold x; clear x); clear_value x; revert x; intro _ _) | with_reducible (extract_lets +onlyGivenNames x; refine (show x.1.Steady s₀ → _ from fun hx => ?_) ?_; (on_goal 2 => unfold x; clear x); clear_value x; revert x; intro _ _) | with_reducible (extract_lets +onlyGivenNames x; refine (show x.2.Steady s₀ → _ from fun hx => ?_) ?_; (on_goal 2 => unfold x; clear x); clear_value x; revert x; intro _ _) | with_reducible (extract_lets +onlyGivenNames x; refine (show (∀ t : State, t.Steady s₀ → (x t).Steady s₀) → _ from fun hx => ?_) ?_; (on_goal 2 => unfold x; clear x; intro t ht; beta_reduce); clear_value x; revert x; intro _ _) | with_reducible (extract_lets +onlyGivenNames x; clear_value x; revert x; intro _) | with_reducible refine draw_steady _ ?_ | with_reducible refine draw_steadyE ?_ (by assumption) | with_reducible refine tdo_steady _ _ ?_ | with_reducible refine debugAccess_steady _ _ ?_ | split)
theorem execJtagInstruction_steady (op : JtagOp) (s : State) (hs : s.Steady s₀) : ∀ out, execJtagInstruction op s = .next out → out.Steady s₀ := by
  intro out ht; unfold execJtagInstruction at ht; (try injection ht with ht); subst ht; repeat' (first | with_reducible assumption | with_reducible refine ite_steady ?_ ?_ | with_reducible refine logs_steady _ _ _ _ ?_ | with_reducible refine jtagLoad_steady _ _ ?_ | split)
theorem spdm_steady (s : State) (r : SpdmReply) (hs : s.Steady s₀) : ∀ out, State.spdm s r = .next out → out.Steady s₀ := by
  intro out ht; unfold State.spdm at ht; refine overHost_steady _ _ ?_ hs _ ht; beta_reduce; repeat' (first | with_reducible assumption | with_reducible (refine upd_steady _ ?_ .. ; with_reducible assumption) | split)
theorem execGetVersion_steady (s : State) (hs : s.Steady s₀) : ∀ out, execGetVersion s = .next out → out.Steady s₀ := by
  intro out ht; unfold execGetVersion at ht; (try injection ht with ht); subst ht; repeat' (first | with_reducible assumption | with_reducible (refine upd_steady _ ?_ .. ; with_reducible assumption) | with_reducible (extract_lets +onlyGivenNames x; clear_value x; revert x; intro _) | with_reducible refine ite_steady ?_ ?_)
theorem execGetCapabilities_steady (s : State) (hs : s.Steady s₀) : ∀ out, execGetCapabilities s = .next out → out.Steady s₀ := by
  intro out ht; unfold execGetCapabilities at ht; (try injection ht with ht); subst ht; repeat' (first | with_reducible assumption | with_reducible (refine upd_steady _ ?_ .. ; with_reducible assumption) | with_reducible (extract_lets +onlyGivenNames x; clear_value x; revert x; intro _) | with_reducible refine ite_steady ?_ ?_)
theorem execNegotiateAlgorithms_steady (s : State) (hs : s.Steady s₀) : ∀ out, execNegotiateAlgorithms s = .next out → out.Steady s₀ := by
  intro out ht; unfold execNegotiateAlgorithms at ht; (try injection ht with ht); subst ht; repeat' (first | with_reducible assumption | with_reducible (refine upd_steady _ ?_ .. ; with_reducible assumption) | with_reducible (extract_lets +onlyGivenNames x; clear_value x; revert x; intro _) | with_reducible refine ite_steady ?_ ?_)
theorem execGetDigests_steady (s : State) (hs : s.Steady s₀) : ∀ out, execGetDigests s = .next out → out.Steady s₀ := by
  intro out ht; unfold execGetDigests at ht; (try injection ht with ht); subst ht; repeat' (first | with_reducible assumption | with_reducible (refine upd_steady _ ?_ .. ; with_reducible assumption) | with_reducible (extract_lets +onlyGivenNames x; clear_value x; revert x; intro _) | with_reducible refine ite_steady ?_ ?_)
theorem execGetCertificate_steady (s : State) (hs : s.Steady s₀) : ∀ out, execGetCertificate s = .next out → out.Steady s₀ := by
  intro out ht; unfold execGetCertificate at ht; (try injection ht with ht); subst ht; repeat' (first | with_reducible assumption | with_reducible (refine upd_steady _ ?_ .. ; with_reducible assumption) | with_reducible (extract_lets +onlyGivenNames x; clear_value x; revert x; intro _) | with_reducible refine ite_steady ?_ ?_)
theorem execChallenge_steady (nonce : BitVec 256) (s : State) (hs : s.Steady s₀) : ∀ out, execChallenge nonce s = .next out → out.Steady s₀ := by
  intro out ht; unfold execChallenge at ht; (try injection ht with ht); subst ht; repeat' (first | with_reducible assumption | with_reducible (refine upd_steady _ ?_ .. ; with_reducible assumption) | with_reducible (extract_lets +onlyGivenNames x; clear_value x; revert x; intro _) | with_reducible refine ite_steady ?_ ?_)
theorem execGetMeasurements_steady (index : Byte) (s : State) (hs : s.Steady s₀) : ∀ out, execGetMeasurements index s = .next out → out.Steady s₀ := by
  intro out ht; unfold execGetMeasurements at ht; (try injection ht with ht); subst ht; repeat' (first | with_reducible assumption | with_reducible (refine upd_steady _ ?_ .. ; with_reducible assumption) | with_reducible (extract_lets +onlyGivenNames x; clear_value x; revert x; intro _) | with_reducible refine ite_steady ?_ ?_)

/-! Machine/Mover.lean. -/

theorem readLoops_steady (a : Acc) (l : LoopRef) : EngSteady (readLoops a l) := by
  unfold readLoops
  exact EngSteady.bind _ _ (Acc_read_steady ..) (fun _ => EngSteady.pure _)
theorem loopFault_steady (a : Acc) (l : LoopRef) : EngSteady (loopFault a l) := by
  unfold loopFault
  try dsimp only
  repeat' (first | exact EngSteady.pure _ | exact EngSteady.get | exact Acc_fault_steady .. | refine EngSteady.bind _ _ ?_ (fun _ => ?_) | refine EngSteady.mapM _ (fun _ => ?_) _ | refine EngSteady.forM _ (fun _ => ?_) _ | split | apply Acc_fault_steady | intro _)
theorem walkRead_steady (a : Acc) (x : Ref) (l : Loops) (size n : Nat) : EngSteady (walkRead a x l size n) := by
  unfold walkRead
  try dsimp only
  repeat' (first | exact EngSteady.pure _ | exact EngSteady.get | exact Acc_read_steady .. | refine EngSteady.bind _ _ ?_ (fun _ => ?_) | refine EngSteady.mapM _ (fun _ => ?_) _ | refine EngSteady.forM _ (fun _ => ?_) _ | split | apply Acc_read_steady | intro _)
theorem walkWrite_steady (a : Acc) (x : Ref) (l : Loops) (n : Nat) (bs : List Byte) : EngSteady (walkWrite a x l n bs) := by
  unfold walkWrite
  try dsimp only
  repeat' (first | exact EngSteady.pure _ | exact EngSteady.get | exact Acc_write_steady .. | refine EngSteady.bind _ _ ?_ (fun _ => ?_) | refine EngSteady.mapM _ (fun _ => ?_) _ | refine EngSteady.forM _ (fun _ => ?_) _ | split | apply Acc_write_steady | intro _)
theorem EngSteady.iteB {α : Type} {c : Prop} [Decidable c] {x y : Eng α} (hx : EngSteady x) (hy : EngSteady y) : EngSteady (if c then x else y) := by
  split <;> assumption
theorem visits_steady (f : Nat → Eng Unit) (hf : ∀ n, EngSteady (f n)) (n : Nat) : EngSteady (visits f n) := by
  induction n with
  | zero => exact EngSteady.pure _
  | succ n ih => exact EngSteady.bind _ _ ih (fun _ => hf n)
theorem copyBody_steady (a : Acc) (u1 : List QEntry) : EngSteady (copyBody a u1) := by
  unfold copyBody
  extract_lets c src dst size lsRef ldRef
  refine EngSteady.bind _ _ (readLoops_steady ..) (fun ls => EngSteady.bind _ _ (readLoops_steady ..) (fun ld => EngSteady.bind _ _ EngSteady.get (fun s => ?_)))
  extract_lets f13 c0 c1
  repeat' (first
    | exact EngSteady.pure _
    | exact loopFault_steady ..
    | exact walkRead_steady ..
    | exact walkWrite_steady ..
    | extract_lets
    | refine EngSteady.iteB ?_ ?_
    | refine EngSteady.bind _ _ ?_ (fun _ => ?_)
    | refine EngSteady.mapM _ (fun _ => ?_) _
    | refine visits_steady _ (fun _ => ?_) _)
theorem fillBody_steady (a : Acc) (u1 : List QEntry) : EngSteady (fillBody a u1) := by
  unfold fillBody
  dsimp only
  refine EngSteady.bind _ _ (readLoops_steady ..) (fun ld => ?_)
  have hv := fun (k : Ref) => visits_steady (fun n => walkWrite a k ld n (natLE k.fmt.size (a.cmd.cmd.word 7).toNat)) (fun n => walkWrite_steady ..) ld.total
  split
  · exact EngSteady.bind _ _ (loopFault_steady ..) (fun _ => EngSteady.bind _ _ (hv _) (fun _ => EngSteady.pure _))
  · exact EngSteady.bind _ _ (hv _) (fun _ => EngSteady.pure _)
theorem rowMove_steady (a : Acc) (gather : Bool) (table rows list : Ref) (elems n : Nat) : EngSteady (rowMove a gather table rows list elems n) := by
  unfold rowMove
  refine EngSteady.bind _ _ (Acc_read_steady ..) (fun bs => visits_steady _ (fun e => ?_) _)
  split
  · exact EngSteady.bind _ _ (Acc_read_steady ..) (fun _ => Acc_write_steady ..)
  · exact EngSteady.bind _ _ (Acc_read_steady ..) (fun _ => Acc_write_steady ..)
theorem gatherBody_steady (a : Acc) (u1 : List QEntry) : EngSteady (gatherBody a u1) := by
  unfold gatherBody
  exact EngSteady.bind _ _ (visits_steady _ (fun n => rowMove_steady ..) _) (fun _ => EngSteady.pure _)
theorem scatterBody_steady (a : Acc) (u1 : List QEntry) : EngSteady (scatterBody a u1) := by
  unfold scatterBody
  exact EngSteady.bind _ _ (visits_steady _ (fun n => rowMove_steady ..) _) (fun _ => EngSteady.pure _)
theorem execCopy_steady (t : TileId) (s : State) (hs : s.Steady s₀) : ∀ t', execCopy t s = .next t' → t'.Steady s₀ := by
  intro t' ht; unfold execCopy at ht; injection ht with ht; subst ht
  exact runOn_steady _ _ _ _ _ _ (fun a es => copyBody_steady ..) hs
theorem execFill_steady (t : TileId) (s : State) (hs : s.Steady s₀) : ∀ t', execFill t s = .next t' → t'.Steady s₀ := by
  intro t' ht; unfold execFill at ht; injection ht with ht; subst ht
  exact runOn_steady _ _ _ _ _ _ (fun a es => fillBody_steady ..) hs
theorem execGather_steady (t : TileId) (s : State) (hs : s.Steady s₀) : ∀ t', execGather t s = .next t' → t'.Steady s₀ := by
  intro t' ht; unfold execGather at ht; injection ht with ht; subst ht
  exact runOn_steady _ _ _ _ _ _ (fun a es => gatherBody_steady ..) hs
theorem execScatter_steady (t : TileId) (s : State) (hs : s.Steady s₀) : ∀ t', execScatter t s = .next t' → t'.Steady s₀ := by
  intro t' ht; unfold execScatter at ht; injection ht with ht; subst ht
  exact runOn_steady _ _ _ _ _ _ (fun a es => scatterBody_steady ..) hs

/-! Machine/Parts.lean. -/

theorem awaitMarks_steady (s : State) (d : Desc) (ps : List PartId) (hs : s.Steady s₀) : (State.awaitMarks s d ps).Steady s₀ := by
  unfold State.awaitMarks; repeat' (first | with_reducible assumption | with_reducible (refine upd_steady _ ?_ .. ; with_reducible assumption) | with_reducible refine modMgt_steady _ _ ?_ rfl | split)
theorem execUnload_steady (s : State) (hs : s.Steady s₀) : ∀ out, execUnload s = .next out → out.Steady s₀ := by
  intro out ht; unfold execUnload at ht; (try injection ht with ht); subst ht; repeat' (first | with_reducible assumption | with_reducible refine ite_steady ?_ ?_ | with_reducible (extract_lets +onlyGivenNames x; refine (show x.Steady s₀ → _ from fun hx => ?_) ?_; (on_goal 2 => unfold x; clear x); clear_value x; revert x; intro _ _) | with_reducible (extract_lets +onlyGivenNames x; refine (show x.1.Steady s₀ → _ from fun hx => ?_) ?_; (on_goal 2 => unfold x; clear x); clear_value x; revert x; intro _ _) | with_reducible (extract_lets +onlyGivenNames x; refine (show x.2.Steady s₀ → _ from fun hx => ?_) ?_; (on_goal 2 => unfold x; clear x); clear_value x; revert x; intro _ _) | with_reducible (extract_lets +onlyGivenNames x; refine (show (∀ t : State, t.Steady s₀ → (x t).Steady s₀) → _ from fun hx => ?_) ?_; (on_goal 2 => unfold x; clear x; intro t ht; beta_reduce); clear_value x; revert x; intro _ _) | with_reducible (extract_lets +onlyGivenNames x; clear_value x; revert x; intro _) | with_reducible refine done_steady _ _ _ ?_ | with_reducible refine takeMc_steady _ _ ?_ _ _ (by assumption) | with_reducible refine conflict_steady _ _ ?_ | with_reducible refine removeJob_steady _ _ _ ?_ | with_reducible refine awaitMarks_steady _ _ _ ?_ | split)
theorem refuseNamed_steady (s : State) (ps : List PartId) (hs : s.Steady s₀) : (State.refuseNamed s ps).Steady s₀ := by
  unfold State.refuseNamed; repeat' (first | with_reducible assumption | with_reducible refine ite_steady ?_ ?_ | with_reducible refine foldl_steady _ _ _ ?_ (fun _ _ _ => ?_) | with_reducible refine refuseStart_steady _ _ _ _ _ _ ?_ | split)
theorem resetPart_steady (s : State) (p : PartId) (hs : s.Steady s₀) : (State.resetPart s p).Steady s₀ := by
  unfold State.resetPart; repeat' (first | with_reducible assumption | with_reducible (refine upd_steady _ ?_ .. ; with_reducible assumption) | with_reducible refine ite_steady ?_ ?_ | with_reducible refine ite_fst ?_ ?_ | with_reducible (extract_lets +onlyGivenNames x; refine (show x.Steady s₀ → _ from fun hx => ?_) ?_; (on_goal 2 => unfold x; clear x); clear_value x; revert x; intro _ _) | with_reducible (extract_lets +onlyGivenNames x; refine (show x.1.Steady s₀ → _ from fun hx => ?_) ?_; (on_goal 2 => unfold x; clear x); clear_value x; revert x; intro _ _) | with_reducible (extract_lets +onlyGivenNames x; refine (show x.2.Steady s₀ → _ from fun hx => ?_) ?_; (on_goal 2 => unfold x; clear x); clear_value x; revert x; intro _ _) | with_reducible (extract_lets +onlyGivenNames x; refine (show (∀ t : State, t.Steady s₀ → (x t).Steady s₀) → _ from fun hx => ?_) ?_; (on_goal 2 => unfold x; clear x; intro t ht; beta_reduce); clear_value x; revert x; intro _ _) | with_reducible (extract_lets +onlyGivenNames x; clear_value x; revert x; intro _) | with_reducible refine modPart_steady _ _ _ ?_ | with_reducible refine logs_steady _ _ _ _ ?_ | with_reducible refine useRecovery_steady _ _ ?_ | with_reducible refine synthetic_steady _ _ ?_ | with_reducible refine jobEvent_steady _ _ _ _ ?_ | with_reducible refine noteSlack_steady _ ?_ | with_reducible refine endWinOps_steady _ _ _ _ ?_ | with_reducible refine dropJobs_steady _ ?_ | with_reducible refine removeJob_steady _ _ _ ?_ | split)
theorem execPartitionReset_steady (s : State) (hs : s.Steady s₀) : ∀ out, execPartitionReset s = .next out → out.Steady s₀ := by
  intro out ht; unfold execPartitionReset at ht; (try injection ht with ht); subst ht; repeat' (first | with_reducible assumption | with_reducible refine ite_steady ?_ ?_ | with_reducible (extract_lets +onlyGivenNames x; refine (show x.Steady s₀ → _ from fun hx => ?_) ?_; (on_goal 2 => unfold x; clear x); clear_value x; revert x; intro _ _) | with_reducible (extract_lets +onlyGivenNames x; refine (show x.1.Steady s₀ → _ from fun hx => ?_) ?_; (on_goal 2 => unfold x; clear x); clear_value x; revert x; intro _ _) | with_reducible (extract_lets +onlyGivenNames x; refine (show x.2.Steady s₀ → _ from fun hx => ?_) ?_; (on_goal 2 => unfold x; clear x); clear_value x; revert x; intro _ _) | with_reducible (extract_lets +onlyGivenNames x; refine (show (∀ t : State, t.Steady s₀ → (x t).Steady s₀) → _ from fun hx => ?_) ?_; (on_goal 2 => unfold x; clear x; intro t ht; beta_reduce); clear_value x; revert x; intro _ _) | with_reducible (extract_lets +onlyGivenNames x; clear_value x; revert x; intro _) | with_reducible refine foldl_steady _ _ _ ?_ (fun _ _ _ => ?_) | with_reducible refine done_steady _ _ _ ?_ | with_reducible refine takeMc_steady _ _ ?_ _ _ (by assumption) | with_reducible refine conflict_steady _ _ ?_ | with_reducible refine awaitMarks_steady _ _ _ ?_ | with_reducible refine refuseNamed_steady _ _ ?_ | with_reducible refine resetPart_steady _ _ ?_ | split)
theorem hostPost_steady (s : State) (d : Desc) (p : PartId) (payload : BitVec 96) (hs : s.Steady s₀) : (State.hostPost s d p payload).1.Steady s₀ := by
  unfold State.hostPost; repeat' (first | with_reducible assumption | with_reducible refine ite_steady ?_ ?_ | with_reducible refine ite_fst ?_ ?_ | with_reducible (extract_lets +onlyGivenNames x; refine (show x.Steady s₀ → _ from fun hx => ?_) ?_; (on_goal 2 => unfold x; clear x); clear_value x; revert x; intro _ _) | with_reducible (extract_lets +onlyGivenNames x; refine (show x.1.Steady s₀ → _ from fun hx => ?_) ?_; (on_goal 2 => unfold x; clear x); clear_value x; revert x; intro _ _) | with_reducible (extract_lets +onlyGivenNames x; refine (show x.2.Steady s₀ → _ from fun hx => ?_) ?_; (on_goal 2 => unfold x; clear x); clear_value x; revert x; intro _ _) | with_reducible (extract_lets +onlyGivenNames x; refine (show (∀ t : State, t.Steady s₀ → (x t).Steady s₀) → _ from fun hx => ?_) ?_; (on_goal 2 => unfold x; clear x; intro t ht; beta_reduce); clear_value x; revert x; intro _ _) | with_reducible (extract_lets +onlyGivenNames x; clear_value x; revert x; intro _) | with_reducible refine modPart_steady _ _ _ ?_ | with_reducible refine settle_steady _ _ ?_ | with_reducible refine parkedPost_steady _ _ _ _ _ ?_ | with_reducible refine parkedPost_steadyE ?_ (by assumption) | with_reducible (dsimp only) | split)
theorem hostPost_steadyE {s : State} {d : Desc} {p : PartId} {payload : BitVec 96} {out : State} {res} (hs : s.Steady s₀) (heq : State.hostPost s d p payload = (out, res)) : out.Steady s₀ := by
  have h := hostPost_steady s d p payload hs; rw [heq] at h; exact h
theorem postOverrun_steady (s : State) (p : PartId) (hs : s.Steady s₀) : (State.postOverrun s p).Steady s₀ := by
  unfold State.postOverrun; repeat' (first | with_reducible assumption | with_reducible refine partJobFault_steady _ _ _ _ ?_ | split)
theorem execPredicate_steady (s : State) (hs : s.Steady s₀) : ∀ out, execPredicate s = .next out → out.Steady s₀ := by
  intro out ht; unfold execPredicate at ht; (try injection ht with ht); subst ht; repeat' (first | with_reducible assumption | with_reducible (refine upd_steady _ ?_ .. ; with_reducible assumption) | with_reducible refine ite_steady ?_ ?_ | with_reducible refine ite_fst ?_ ?_ | with_reducible (extract_lets +onlyGivenNames x; refine (show x.Steady s₀ → _ from fun hx => ?_) ?_; (on_goal 2 => unfold x; clear x); clear_value x; revert x; intro _ _) | with_reducible (extract_lets +onlyGivenNames x; refine (show x.1.Steady s₀ → _ from fun hx => ?_) ?_; (on_goal 2 => unfold x; clear x); clear_value x; revert x; intro _ _) | with_reducible (extract_lets +onlyGivenNames x; refine (show x.2.Steady s₀ → _ from fun hx => ?_) ?_; (on_goal 2 => unfold x; clear x); clear_value x; revert x; intro _ _) | with_reducible (extract_lets +onlyGivenNames x; refine (show (∀ t : State, t.Steady s₀ → (x t).Steady s₀) → _ from fun hx => ?_) ?_; (on_goal 2 => unfold x; clear x; intro t ht; beta_reduce); clear_value x; revert x; intro _ _) | with_reducible (extract_lets +onlyGivenNames x; clear_value x; revert x; intro _) | with_reducible refine modPart_steady _ _ _ ?_ | with_reducible refine complete_steady _ _ _ ?_ | with_reducible refine done_steady _ _ _ ?_ | with_reducible refine takeRe_steady _ _ ?_ _ _ (by assumption) | with_reducible refine conflict_steady _ _ ?_ | with_reducible refine hostPost_steady _ _ _ _ ?_ | with_reducible refine hostPost_steadyE ?_ (by assumption) | with_reducible refine postOverrun_steady _ _ ?_ | split)

/-! Machine/Predicate.lean. -/

theorem writePred_steady (a : Acc) (n : Nat) (b : Bool) : EngSteady (writePred a n b) := by
  unfold writePred
  exact EngSteady.bind _ _ (EngSteady.modify _ (fun _ s h => modPart_steady _ _ _ h)) (fun _ => EngSteady.pure _)
theorem predElems_steady (a : Acc) : EngSteady (predElems a) := by
  unfold predElems
  try dsimp only
  repeat' (first | exact EngSteady.pure _ | exact EngSteady.get | exact Acc_elem_steady .. | refine EngSteady.bind _ _ ?_ (fun _ => ?_) | refine EngSteady.mapM _ (fun _ => ?_) _ | refine EngSteady.forM _ (fun _ => ?_) _ | split | apply Acc_elem_steady | intro _)
theorem cmpBody_steady (all : Bool) (a : Acc) (u1 : List QEntry) : EngSteady (cmpBody all a u1) := by
  unfold cmpBody
  try dsimp only
  repeat' (first | exact EngSteady.pure _ | exact EngSteady.get | exact predElems_steady .. | exact writePred_steady .. | refine EngSteady.bind _ _ ?_ (fun _ => ?_) | refine EngSteady.mapM _ (fun _ => ?_) _ | refine EngSteady.forM _ (fun _ => ?_) _ | split | apply predElems_steady | apply writePred_steady | intro _)
theorem payloadBody_steady (a : Acc) (es : List QEntry) : EngSteady (payloadBody a es) := by
  unfold payloadBody
  try dsimp only
  repeat' (first | exact EngSteady.pure _ | exact EngSteady.get | exact writePred_steady .. | refine EngSteady.bind _ _ ?_ (fun _ => ?_) | refine EngSteady.mapM _ (fun _ => ?_) _ | refine EngSteady.forM _ (fun _ => ?_) _ | split | apply writePred_steady | intro _)
theorem setBitBody_steady (a : Acc) (u1 : List QEntry) : EngSteady (setBitBody a u1) := by
  unfold setBitBody
  try dsimp only
  repeat' (first | exact EngSteady.pure _ | exact EngSteady.get | exact writePred_steady .. | refine EngSteady.bind _ _ ?_ (fun _ => ?_) | refine EngSteady.mapM _ (fun _ => ?_) _ | refine EngSteady.forM _ (fun _ => ?_) _ | split | apply writePred_steady | intro _)
theorem execCmpAny_steady (t : TileId) (s : State) (hs : s.Steady s₀) : ∀ t', execCmpAny t s = .next t' → t'.Steady s₀ := by
  intro t' ht; unfold execCmpAny at ht; injection ht with ht; subst ht
  exact runOn_steady _ _ _ _ _ _ (fun a es => cmpBody_steady ..) hs
theorem execCmpAll_steady (t : TileId) (s : State) (hs : s.Steady s₀) : ∀ t', execCmpAll t s = .next t' → t'.Steady s₀ := by
  intro t' ht; unfold execCmpAll at ht; injection ht with ht; subst ht
  exact runOn_steady _ _ _ _ _ _ (fun a es => cmpBody_steady ..) hs
theorem execCmpPayload_steady (t : TileId) (s : State) (hs : s.Steady s₀) : ∀ t', execCmpPayload t s = .next t' → t'.Steady s₀ := by
  intro t' ht; unfold execCmpPayload at ht; injection ht with ht; subst ht
  exact runOn_steady _ _ _ _ _ _ (fun a es => payloadBody_steady ..) hs
theorem execSetBit_steady (t : TileId) (s : State) (hs : s.Steady s₀) : ∀ t', execSetBit t s = .next t' → t'.Steady s₀ := by
  intro t' ht; unfold execSetBit at ht; injection ht with ht; subst ht
  exact runOn_steady _ _ _ _ _ _ (fun a es => setBitBody_steady ..) hs

/-! Machine/Service.lean. -/

theorem rxCount_steady (s : State) (p : PortId) (k : SubPort) (c : RxCount) (hs : s.Steady s₀) : (State.rxCount s p k c).Steady s₀ := by
  unfold State.rxCount; repeat' (first | with_reducible assumption | with_reducible (refine upd_steady _ ?_ .. ; with_reducible assumption) | with_reducible refine modPort_steady _ _ _ ?_ | split)
theorem toMgmt_steady (s : State) (p : PortId) (r : RxFrame) (hs : s.Steady s₀) : (State.toMgmt s p r).Steady s₀ := by
  unfold State.toMgmt; repeat' (first | with_reducible assumption | with_reducible (refine upd_steady _ ?_ .. ; with_reducible assumption) | with_reducible refine ite_steady ?_ ?_ | with_reducible refine modSvc_steady _ _ ?_ | with_reducible refine rxCount_steady _ _ _ _ ?_ | split)
theorem toExc_steady (s : State) (p : PortId) (r : RxFrame) (hs : s.Steady s₀) : (State.toExc s p r).Steady s₀ := by
  unfold State.toExc; repeat' (first | with_reducible assumption | with_reducible (refine upd_steady _ ?_ .. ; with_reducible assumption) | with_reducible refine ite_steady ?_ ?_ | with_reducible (extract_lets +onlyGivenNames x; refine (show x.Steady s₀ → _ from fun hx => ?_) ?_; (on_goal 2 => unfold x; clear x); clear_value x; revert x; intro _ _) | with_reducible (extract_lets +onlyGivenNames x; refine (show x.1.Steady s₀ → _ from fun hx => ?_) ?_; (on_goal 2 => unfold x; clear x); clear_value x; revert x; intro _ _) | with_reducible (extract_lets +onlyGivenNames x; refine (show x.2.Steady s₀ → _ from fun hx => ?_) ?_; (on_goal 2 => unfold x; clear x); clear_value x; revert x; intro _ _) | with_reducible (extract_lets +onlyGivenNames x; refine (show (∀ t : State, t.Steady s₀ → (x t).Steady s₀) → _ from fun hx => ?_) ?_; (on_goal 2 => unfold x; clear x; intro t ht; beta_reduce); clear_value x; revert x; intro _ _) | with_reducible (extract_lets +onlyGivenNames x; clear_value x; revert x; intro _) | with_reducible refine modSvc_steady _ _ ?_ | with_reducible refine logRate_steady _ _ _ _ _ ?_ | with_reducible refine rxCount_steady _ _ _ _ ?_ | split)
theorem skipRecord_steady (s : State) (hs : s.Steady s₀) : (State.skipRecord s).2.Steady s₀ := by
  unfold State.skipRecord; repeat' (first | with_reducible assumption | with_reducible (extract_lets +onlyGivenNames x; refine (show x.Steady s₀ → _ from fun hx => ?_) ?_; (on_goal 2 => unfold x; clear x); clear_value x; revert x; intro _ _) | with_reducible (extract_lets +onlyGivenNames x; refine (show x.1.Steady s₀ → _ from fun hx => ?_) ?_; (on_goal 2 => unfold x; clear x); clear_value x; revert x; intro _ _) | with_reducible (extract_lets +onlyGivenNames x; refine (show x.2.Steady s₀ → _ from fun hx => ?_) ?_; (on_goal 2 => unfold x; clear x); clear_value x; revert x; intro _ _) | with_reducible (extract_lets +onlyGivenNames x; refine (show (∀ t : State, t.Steady s₀ → (x t).Steady s₀) → _ from fun hx => ?_) ?_; (on_goal 2 => unfold x; clear x; intro t ht; beta_reduce); clear_value x; revert x; intro _ _) | with_reducible (extract_lets +onlyGivenNames x; clear_value x; revert x; intro _) | with_reducible refine getD_steady (fun _ _ => ?_) ?_ | with_reducible refine draw_steady _ ?_ | with_reducible refine draw_steadyE ?_ (by assumption) | with_reducible (dsimp only) | split)
theorem skipRecord_steadyE {s : State} {out : State} {res} (hs : s.Steady s₀) (heq : State.skipRecord s = (res, out)) : out.Steady s₀ := by
  have h := skipRecord_steady s hs; rw [heq] at h; exact h
theorem tringFault_steady (s : State) (n : TRingId) (w : WalkFail) (hs : s.Steady s₀) : (State.tringFault s n w).Steady s₀ := by
  unfold State.tringFault; repeat' (first | with_reducible assumption | with_reducible (refine upd_steady _ ?_ .. ; with_reducible assumption) | with_reducible refine winFault_steady _ _ _ ?_ | with_reducible refine modTring_steady _ _ _ ?_ | with_reducible refine tringStatus_steady _ _ ?_ | split)
theorem tringDropped_steady (s : State) (n : TRingId) (hs : s.Steady s₀) : (State.tringDropped s n).Steady s₀ := by
  unfold State.tringDropped; repeat' (first | with_reducible assumption | with_reducible (refine upd_steady _ ?_ .. ; with_reducible assumption) | with_reducible refine modTring_steady _ _ _ ?_ | split)
theorem tringWrite_steady (s : State) (n : TRingId) (bytes : List Byte) (skip : Nat) (need : Nat) (hs : s.Steady s₀) : (State.tringWrite s n bytes skip need).Steady s₀ := by
  unfold State.tringWrite; grind [msix_steady, winWrite_steady, modTring_steady, tringStatus_steady, skipRecord_steady, tringFault_steady, upd_steady, → State.Steady.sram, → State.Steady.host, → State.Steady.flash, → State.Steady.input, → State.Steady.time, → State.Steady.slots, → State.Steady.keys, → State.Steady.queue, → State.Steady.por, Mem.wf_set, Mem.wf_write, Mem.wf_writeAll, Mem.wf_zero]
theorem toTring_steady (s : State) (n : TRingId) (len : Nat) (bytes : List Byte) (hs : s.Steady s₀) : (State.toTring s n len bytes).Steady s₀ := by
  unfold State.toTring; repeat' (first | with_reducible assumption | with_reducible (refine upd_steady _ ?_ .. ; with_reducible assumption) | with_reducible refine ite_steady ?_ ?_ | with_reducible (extract_lets +onlyGivenNames x; refine (show x.Steady s₀ → _ from fun hx => ?_) ?_; (on_goal 2 => unfold x; clear x); clear_value x; revert x; intro _ _) | with_reducible (extract_lets +onlyGivenNames x; refine (show x.1.Steady s₀ → _ from fun hx => ?_) ?_; (on_goal 2 => unfold x; clear x); clear_value x; revert x; intro _ _) | with_reducible (extract_lets +onlyGivenNames x; refine (show x.2.Steady s₀ → _ from fun hx => ?_) ?_; (on_goal 2 => unfold x; clear x); clear_value x; revert x; intro _ _) | with_reducible (extract_lets +onlyGivenNames x; refine (show (∀ t : State, t.Steady s₀ → (x t).Steady s₀) → _ from fun hx => ?_) ?_; (on_goal 2 => unfold x; clear x; intro t ht; beta_reduce); clear_value x; revert x; intro _ _) | with_reducible (extract_lets +onlyGivenNames x; clear_value x; revert x; intro _) | with_reducible refine logs_steady _ _ _ _ ?_ | with_reducible refine modTring_steady _ _ _ ?_ | with_reducible refine tringDropped_steady _ _ ?_ | with_reducible refine tringWrite_steady _ _ _ _ _ ?_ | split)
theorem replyTag_steady (s : State) (r : ZshRequest) (hs : s.Steady s₀) : (State.replyTag s r).2.Steady s₀ := by
  unfold State.replyTag; repeat' (first | with_reducible assumption | with_reducible refine ite_steady ?_ ?_ | with_reducible refine ite_fst ?_ ?_ | with_reducible refine ite_snd ?_ ?_ | with_reducible (extract_lets +onlyGivenNames x; refine (show x.Steady s₀ → _ from fun hx => ?_) ?_; (on_goal 2 => unfold x; clear x); clear_value x; revert x; intro _ _) | with_reducible (extract_lets +onlyGivenNames x; refine (show x.1.Steady s₀ → _ from fun hx => ?_) ?_; (on_goal 2 => unfold x; clear x); clear_value x; revert x; intro _ _) | with_reducible (extract_lets +onlyGivenNames x; refine (show x.2.Steady s₀ → _ from fun hx => ?_) ?_; (on_goal 2 => unfold x; clear x); clear_value x; revert x; intro _ _) | with_reducible (extract_lets +onlyGivenNames x; refine (show (∀ t : State, t.Steady s₀ → (x t).Steady s₀) → _ from fun hx => ?_) ?_; (on_goal 2 => unfold x; clear x; intro t ht; beta_reduce); clear_value x; revert x; intro _ _) | with_reducible (extract_lets +onlyGivenNames x; clear_value x; revert x; intro _) | with_reducible refine draw_steady _ ?_ | with_reducible refine draw_steadyE ?_ (by assumption) | with_reducible (dsimp only) | split)
theorem replyTag_steadyE {s : State} {r : ZshRequest} {out : State} {res} (hs : s.Steady s₀) (heq : State.replyTag s r = (res, out)) : out.Steady s₀ := by
  have h := replyTag_steady s r hs; rw [heq] at h; exact h
theorem zshAnswer_steady (s : State) (r : ZshRequest) (a : Ans) (hs : s.Steady s₀) : (State.zshAnswer s r a).Steady s₀ := by
  unfold State.zshAnswer; repeat' (first | with_reducible assumption | with_reducible (extract_lets +onlyGivenNames x; refine (show x.Steady s₀ → _ from fun hx => ?_) ?_; (on_goal 2 => unfold x; clear x); clear_value x; revert x; intro _ _) | with_reducible (extract_lets +onlyGivenNames x; refine (show x.1.Steady s₀ → _ from fun hx => ?_) ?_; (on_goal 2 => unfold x; clear x); clear_value x; revert x; intro _ _) | with_reducible (extract_lets +onlyGivenNames x; refine (show x.2.Steady s₀ → _ from fun hx => ?_) ?_; (on_goal 2 => unfold x; clear x); clear_value x; revert x; intro _ _) | with_reducible (extract_lets +onlyGivenNames x; refine (show (∀ t : State, t.Steady s₀ → (x t).Steady s₀) → _ from fun hx => ?_) ?_; (on_goal 2 => unfold x; clear x; intro t ht; beta_reduce); clear_value x; revert x; intro _ _) | with_reducible (extract_lets +onlyGivenNames x; clear_value x; revert x; intro _) | with_reducible refine zshReply_steady _ _ _ _ ?_ | with_reducible refine replyTag_steady _ _ ?_ | with_reducible refine replyTag_steadyE ?_ (by assumption) | split)
theorem toCore_steady (s : State) (p : PortId) (k : SubPort) (f : List Byte) (x : Parsed) (ip : Nat) (u : Nat) (z : Nat) (hs : s.Steady s₀) : (State.toCore s p k f x ip u z).Steady s₀ := by
  unfold State.toCore; repeat' (first | with_reducible assumption | with_reducible (refine upd_steady _ ?_ .. ; with_reducible assumption) | with_reducible refine ite_steady ?_ ?_ | with_reducible (extract_lets +onlyGivenNames x; refine (show x.Steady s₀ → _ from fun hx => ?_) ?_; (on_goal 2 => unfold x; clear x); clear_value x; revert x; intro _ _) | with_reducible (extract_lets +onlyGivenNames x; refine (show x.1.Steady s₀ → _ from fun hx => ?_) ?_; (on_goal 2 => unfold x; clear x); clear_value x; revert x; intro _ _) | with_reducible (extract_lets +onlyGivenNames x; refine (show x.2.Steady s₀ → _ from fun hx => ?_) ?_; (on_goal 2 => unfold x; clear x); clear_value x; revert x; intro _ _) | with_reducible (extract_lets +onlyGivenNames x; refine (show (∀ t : State, t.Steady s₀ → (x t).Steady s₀) → _ from fun hx => ?_) ?_; (on_goal 2 => unfold x; clear x; intro t ht; beta_reduce); clear_value x; revert x; intro _ _) | with_reducible (extract_lets +onlyGivenNames x; clear_value x; revert x; intro _) | with_reducible refine modSvc_steady _ _ ?_ | with_reducible refine synthetic_steady _ _ ?_ | with_reducible refine zshAnswer_steady _ _ _ ?_ | split)
theorem route_steady (s : State) (p : PortId) (st : TxStamp) (f : List Byte) (x : Parsed) (excess : Bool) (hs : s.Steady s₀) : (State.route s p st f x excess).Steady s₀ := by
  unfold State.route; grind [logRate_steady, rxCount_steady, toMgmt_steady, tringDropped_steady, toTring_steady, toCore_steady, upd_steady, → State.Steady.sram, → State.Steady.host, → State.Steady.flash, → State.Steady.input, → State.Steady.time, → State.Steady.slots, → State.Steady.keys, → State.Steady.queue, → State.Steady.por, Mem.wf_set, Mem.wf_write, Mem.wf_writeAll, Mem.wf_zero]
theorem lenShort_steady (s : State) (p : PortId) (k : SubPort) (f : List Byte) (hs : s.Steady s₀) : (State.lenShort s p k f).Steady s₀ := by
  unfold State.lenShort; repeat' (first | with_reducible assumption | with_reducible (refine upd_steady _ ?_ .. ; with_reducible assumption) | with_reducible refine ite_steady ?_ ?_ | with_reducible (extract_lets +onlyGivenNames x; refine (show x.Steady s₀ → _ from fun hx => ?_) ?_; (on_goal 2 => unfold x; clear x); clear_value x; revert x; intro _ _) | with_reducible (extract_lets +onlyGivenNames x; refine (show x.1.Steady s₀ → _ from fun hx => ?_) ?_; (on_goal 2 => unfold x; clear x); clear_value x; revert x; intro _ _) | with_reducible (extract_lets +onlyGivenNames x; refine (show x.2.Steady s₀ → _ from fun hx => ?_) ?_; (on_goal 2 => unfold x; clear x); clear_value x; revert x; intro _ _) | with_reducible (extract_lets +onlyGivenNames x; refine (show (∀ t : State, t.Steady s₀ → (x t).Steady s₀) → _ from fun hx => ?_) ?_; (on_goal 2 => unfold x; clear x; intro t ht; beta_reduce); clear_value x; revert x; intro _ _) | with_reducible (extract_lets +onlyGivenNames x; clear_value x; revert x; intro _) | with_reducible refine modLog_steady2 _ _ ?_ rfl rfl rfl rfl | with_reducible refine hand_steady _ _ _ _ _ ?_ | with_reducible refine rxCount_steady _ _ _ _ ?_ | split)
theorem pauseFrame_steady (s : State) (p : PortId) (k : SubPort) (f : List Byte) (hs : s.Steady s₀) : (State.pauseFrame s p k f).Steady s₀ := by
  unfold State.pauseFrame; repeat' (first | with_reducible assumption | with_reducible (refine upd_steady _ ?_ .. ; with_reducible assumption) | with_reducible refine ite_steady ?_ ?_ | with_reducible refine modPort_steady _ _ _ ?_ | split)
theorem rxParse_steady (s : State) (p : PortId) (st : TxStamp) (f : List Byte) (hs : s.Steady s₀) : (State.rxParse s p st f).Steady s₀ := by
  unfold State.rxParse; repeat' (first | with_reducible assumption | with_reducible refine ite_steady ?_ ?_ | with_reducible (extract_lets +onlyGivenNames x; refine (show x.Steady s₀ → _ from fun hx => ?_) ?_; (on_goal 2 => unfold x; clear x); clear_value x; revert x; intro _ _) | with_reducible (extract_lets +onlyGivenNames x; refine (show x.1.Steady s₀ → _ from fun hx => ?_) ?_; (on_goal 2 => unfold x; clear x); clear_value x; revert x; intro _ _) | with_reducible (extract_lets +onlyGivenNames x; refine (show x.2.Steady s₀ → _ from fun hx => ?_) ?_; (on_goal 2 => unfold x; clear x); clear_value x; revert x; intro _ _) | with_reducible (extract_lets +onlyGivenNames x; refine (show (∀ t : State, t.Steady s₀ → (x t).Steady s₀) → _ from fun hx => ?_) ?_; (on_goal 2 => unfold x; clear x; intro t ht; beta_reduce); clear_value x; revert x; intro _ _) | with_reducible (extract_lets +onlyGivenNames x; clear_value x; revert x; intro _) | with_reducible refine rxCount_steady _ _ _ _ ?_ | with_reducible refine toExc_steady _ _ _ ?_ | with_reducible refine route_steady _ _ _ _ _ _ ?_ | with_reducible refine lenShort_steady _ _ _ _ ?_ | split)
theorem rxFrameAt_steady (s : State) (p : PortId) (k : SubPort) (f : List Byte) (good : Bool) (phase : BitVec 4) (hs : s.Steady s₀) : (State.rxFrameAt s p k f good phase).Steady s₀ := by
  unfold State.rxFrameAt; repeat' (first | with_reducible assumption | with_reducible refine ite_steady ?_ ?_ | with_reducible refine rxCount_steady _ _ _ _ ?_ | with_reducible refine pauseFrame_steady _ _ _ _ ?_ | with_reducible refine rxParse_steady _ _ _ _ ?_ | split)
theorem execEthFrameReceive_steady (p : PortId) (sub : SubPort) (frame : List Byte) (good : Bool) (phase : BitVec 4) (s : State) (hs : s.Steady s₀) : ∀ out, execEthFrameReceive p sub frame good phase s = .next out → out.Steady s₀ := by
  intro out ht; unfold execEthFrameReceive at ht; (try injection ht with ht); subst ht; repeat' (first | with_reducible assumption | with_reducible refine rxFrameAt_steady _ _ _ _ _ _ ?_ | split)
theorem dropRequest_steady (s : State) (r : ZshRequest) (hs : s.Steady s₀) : (State.dropRequest s r).Steady s₀ := by
  unfold State.dropRequest; repeat' (first | with_reducible assumption | with_reducible (refine upd_steady _ ?_ .. ; with_reducible assumption) | with_reducible refine modSvc_steady _ _ ?_ | split)
theorem takeRequest_steady (s : State) (r : ZshRequest) (hs : s.Steady s₀) : (State.takeRequest s r).Steady s₀ := by
  unfold State.takeRequest; repeat' (first | with_reducible assumption | with_reducible (refine upd_steady _ ?_ .. ; with_reducible assumption) | with_reducible refine modSvc_steady _ _ ?_ | split)
theorem refuseRequest_steady (s : State) (r : ZshRequest) (st : Byte) (hs : s.Steady s₀) : (State.refuseRequest s r st).Steady s₀ := by
  unfold State.refuseRequest; repeat' (first | with_reducible assumption | with_reducible refine zshAnswer_steady _ _ _ ?_ | with_reducible refine dropRequest_steady _ _ ?_ | split)
theorem takeDesc_steady (s : State) (r : ZshRequest) (hs : s.Steady s₀) : (State.takeDesc s r).Steady s₀ := by
  unfold State.takeDesc; repeat' (first | with_reducible assumption | with_reducible refine ite_steady ?_ ?_ | with_reducible (extract_lets +onlyGivenNames x; refine (show x.Steady s₀ → _ from fun hx => ?_) ?_; (on_goal 2 => unfold x; clear x); clear_value x; revert x; intro _ _) | with_reducible (extract_lets +onlyGivenNames x; refine (show x.1.Steady s₀ → _ from fun hx => ?_) ?_; (on_goal 2 => unfold x; clear x); clear_value x; revert x; intro _ _) | with_reducible (extract_lets +onlyGivenNames x; refine (show x.2.Steady s₀ → _ from fun hx => ?_) ?_; (on_goal 2 => unfold x; clear x); clear_value x; revert x; intro _ _) | with_reducible (extract_lets +onlyGivenNames x; refine (show (∀ t : State, t.Steady s₀ → (x t).Steady s₀) → _ from fun hx => ?_) ?_; (on_goal 2 => unfold x; clear x; intro t ht; beta_reduce); clear_value x; revert x; intro _ _) | with_reducible (extract_lets +onlyGivenNames x; clear_value x; revert x; intro _) | with_reducible refine deliver_steady _ _ ?_ | with_reducible refine takeRequest_steady _ _ ?_ | with_reducible refine refuseRequest_steady _ _ _ ?_ | split)
theorem execZshManagement_steady (s : State) (hs : s.Steady s₀) : ∀ out, execZshManagement s = .next out → out.Steady s₀ := by
  intro out ht; unfold execZshManagement at ht; (try injection ht with ht); subst ht; repeat' (first | with_reducible assumption | with_reducible refine takeDesc_steady _ _ ?_ | split)
theorem execZshJobControl_steady (s : State) (hs : s.Steady s₀) : ∀ out, execZshJobControl s = .next out → out.Steady s₀ := by
  intro out ht; unfold execZshJobControl at ht; (try injection ht with ht); subst ht; repeat' (first | with_reducible assumption | with_reducible refine takeDesc_steady _ _ ?_ | split)
theorem streamRange_steady (s : State) (p : PartId) (region : Nat) (off : Nat) (len : Nat) (hs : s.Steady s₀) : (State.streamRange s p region off len).1.Steady s₀ := by
  unfold State.streamRange; repeat' (first | with_reducible assumption | with_reducible refine ite_steady ?_ ?_ | with_reducible refine ite_fst ?_ ?_ | with_reducible refine partJobFault_steady _ _ _ _ ?_ | with_reducible refine consultOne_steady _ _ _ _ ?_ | with_reducible refine consultOne_steadyE ?_ (by assumption) | with_reducible (dsimp only) | split)
theorem streamRange_steadyE {s : State} {p : PartId} {region : Nat} {off : Nat} {len : Nat} {out : State} {res} (hs : s.Steady s₀) (heq : State.streamRange s p region off len = (out, res)) : out.Steady s₀ := by
  have h := streamRange_steady s p region off len hs; rw [heq] at h; exact h
theorem openStream_steady (s : State) (r : ZshRequest) (hs : s.Steady s₀) : (State.openStream s r).Steady s₀ := by
  unfold State.openStream; repeat' (first | with_reducible assumption | with_reducible (refine upd_steady _ ?_ .. ; with_reducible assumption) | with_reducible refine ite_steady ?_ ?_ | with_reducible refine ite_fst ?_ ?_ | with_reducible (extract_lets +onlyGivenNames x; refine (show x.Steady s₀ → _ from fun hx => ?_) ?_; (on_goal 2 => unfold x; clear x); clear_value x; revert x; intro _ _) | with_reducible (extract_lets +onlyGivenNames x; refine (show x.1.Steady s₀ → _ from fun hx => ?_) ?_; (on_goal 2 => unfold x; clear x); clear_value x; revert x; intro _ _) | with_reducible (extract_lets +onlyGivenNames x; refine (show x.2.Steady s₀ → _ from fun hx => ?_) ?_; (on_goal 2 => unfold x; clear x); clear_value x; revert x; intro _ _) | with_reducible (extract_lets +onlyGivenNames x; refine (show (∀ t : State, t.Steady s₀ → (x t).Steady s₀) → _ from fun hx => ?_) ?_; (on_goal 2 => unfold x; clear x; intro t ht; beta_reduce); clear_value x; revert x; intro _ _) | with_reducible (extract_lets +onlyGivenNames x; clear_value x; revert x; intro _) | with_reducible refine modSvc_steady _ _ ?_ | with_reducible refine dropRequest_steady _ _ ?_ | with_reducible refine refuseRequest_steady _ _ _ ?_ | with_reducible refine streamRange_steady _ _ _ _ _ ?_ | with_reducible refine streamRange_steadyE ?_ (by assumption) | split)
theorem execZshStreaming_steady (s : State) (hs : s.Steady s₀) : ∀ out, execZshStreaming s = .next out → out.Steady s₀ := by
  intro out ht; unfold execZshStreaming at ht; (try injection ht with ht); subst ht; repeat' (first | with_reducible assumption | with_reducible refine openStream_steady _ _ ?_ | split)
theorem endStream_steady (s : State) (n : Fin 4) (t : OutStream) (st : Byte) (hs : s.Steady s₀) : (State.endStream s n t st).Steady s₀ := by
  unfold State.endStream; repeat' (first | with_reducible assumption | with_reducible (refine upd_steady _ ?_ .. ; with_reducible assumption) | with_reducible refine modSvc_steady _ _ ?_ | with_reducible refine zshAnswer_steady _ _ _ ?_ | split)
theorem streamStep_steady (s : State) (n : Fin 4) (t : OutStream) (hs : s.Steady s₀) : (State.streamStep s n t).Steady s₀ := by
  unfold State.streamStep; repeat' (first | with_reducible assumption | with_reducible (refine upd_steady _ ?_ .. ; with_reducible assumption) | with_reducible refine ite_steady ?_ ?_ | with_reducible refine ite_fst ?_ ?_ | with_reducible (extract_lets +onlyGivenNames x; refine (show x.Steady s₀ → _ from fun hx => ?_) ?_; (on_goal 2 => unfold x; clear x); clear_value x; revert x; intro _ _) | with_reducible (extract_lets +onlyGivenNames x; refine (show x.1.Steady s₀ → _ from fun hx => ?_) ?_; (on_goal 2 => unfold x; clear x); clear_value x; revert x; intro _ _) | with_reducible (extract_lets +onlyGivenNames x; refine (show x.2.Steady s₀ → _ from fun hx => ?_) ?_; (on_goal 2 => unfold x; clear x); clear_value x; revert x; intro _ _) | with_reducible (extract_lets +onlyGivenNames x; refine (show (∀ t : State, t.Steady s₀ → (x t).Steady s₀) → _ from fun hx => ?_) ?_; (on_goal 2 => unfold x; clear x; intro t ht; beta_reduce); clear_value x; revert x; intro _ _) | with_reducible (extract_lets +onlyGivenNames x; clear_value x; revert x; intro _) | with_reducible refine modSvc_steady _ _ ?_ | with_reducible refine sendFrame_steady _ _ _ _ ?_ | with_reducible refine fetchBytes_steady _ _ _ _ ?_ | with_reducible refine fetchBytes_steadyE ?_ (by assumption) | with_reducible refine endStream_steady _ _ _ _ ?_ | split)
theorem execStreamChunk_steady (n : Fin 4) (s : State) (hs : s.Steady s₀) : ∀ out, execStreamChunk n s = .next out → out.Steady s₀ := by
  intro out ht; unfold execStreamChunk at ht; (try injection ht with ht); subst ht; repeat' (first | with_reducible assumption | with_reducible refine ite_steady ?_ ?_ | with_reducible refine streamStep_steady _ _ _ ?_ | split)
theorem execZshLogExport_steady (s : State) (hs : s.Steady s₀) : ∀ out, execZshLogExport s = .next out → out.Steady s₀ := by
  intro out ht; unfold execZshLogExport at ht; (try injection ht with ht); subst ht; repeat' (first | with_reducible assumption | with_reducible (refine upd_steady _ ?_ .. ; with_reducible assumption) | with_reducible refine ite_steady ?_ ?_ | with_reducible refine modSvc_steady _ _ ?_ | with_reducible refine dropRequest_steady _ _ ?_ | with_reducible refine refuseRequest_steady _ _ _ ?_ | split)
theorem txFetch_steady (s : State) (root : W64) (off : W64) (len : Nat) (hs : s.Steady s₀) : (State.txFetch s root off len).1.Steady s₀ := by
  unfold State.txFetch; dsimp only; (repeat' split) <;> grind [draw_steady, winFault_steady, writeHeader_steady, winMismatch_steady, upd_steady, → State.Steady.sram, → State.Steady.host, → State.Steady.flash, → State.Steady.input, → State.Steady.time, → State.Steady.slots, → State.Steady.keys, → State.Steady.queue, → State.Steady.por, Mem.wf_set, Mem.wf_write, Mem.wf_writeAll, Mem.wf_zero]
theorem txFetch_steadyE {s : State} {root : W64} {off : W64} {len : Nat} {out : State} {res} (hs : s.Steady s₀) (heq : State.txFetch s root off len = (out, res)) : out.Steady s₀ := by
  have h := txFetch_steady s root off len hs; rw [heq] at h; exact h
theorem txStamp_steady (s : State) (p : PortId) (st : TxStamp) (hs : s.Steady s₀) : (State.txStamp s p st).1.Steady s₀ := by
  unfold State.txStamp; repeat' (first | with_reducible assumption | with_reducible (refine upd_steady _ ?_ .. ; with_reducible assumption) | with_reducible refine ite_steady ?_ ?_ | with_reducible refine ite_fst ?_ ?_ | with_reducible refine modClock_steady _ _ ?_ rfl rfl rfl | with_reducible refine logRate_steady _ _ _ _ _ ?_ | with_reducible (dsimp only) | split)
theorem txStamp_steadyE {s : State} {p : PortId} {st : TxStamp} {out : State} {res} (hs : s.Steady s₀) (heq : State.txStamp s p st = (out, res)) : out.Steady s₀ := by
  have h := txStamp_steady s p st hs; rw [heq] at h; exact h
theorem txDesc_steady (s : State) (w : Nat → W64) (phase : BitVec 4) (hs : s.Steady s₀) : (State.txDesc s w phase).Steady s₀ := by
  unfold State.txDesc; grind [sendFrame_steady, endWait_steady, keepWait_steady, portDown_steady, txWriteBack_steady, txFetch_steady, txStamp_steady, upd_steady, → State.Steady.sram, → State.Steady.host, → State.Steady.flash, → State.Steady.input, → State.Steady.time, → State.Steady.slots, → State.Steady.keys, → State.Steady.queue, → State.Steady.por, Mem.wf_set, Mem.wf_write, Mem.wf_writeAll, Mem.wf_zero]
theorem txLine_steady (s : State) (hs : s.Steady s₀) : (State.txLine s).Steady s₀ := by
  unfold State.txLine; repeat' (first | with_reducible assumption | with_reducible (refine upd_steady _ ?_ .. ; with_reducible assumption) | with_reducible refine ite_steady ?_ ?_ | with_reducible (extract_lets +onlyGivenNames x; refine (show x.Steady s₀ → _ from fun hx => ?_) ?_; (on_goal 2 => unfold x; clear x); clear_value x; revert x; intro _ _) | with_reducible (extract_lets +onlyGivenNames x; refine (show x.1.Steady s₀ → _ from fun hx => ?_) ?_; (on_goal 2 => unfold x; clear x); clear_value x; revert x; intro _ _) | with_reducible (extract_lets +onlyGivenNames x; refine (show x.2.Steady s₀ → _ from fun hx => ?_) ?_; (on_goal 2 => unfold x; clear x); clear_value x; revert x; intro _ _) | with_reducible (extract_lets +onlyGivenNames x; refine (show (∀ t : State, t.Steady s₀ → (x t).Steady s₀) → _ from fun hx => ?_) ?_; (on_goal 2 => unfold x; clear x; intro t ht; beta_reduce); clear_value x; revert x; intro _ _) | with_reducible (extract_lets +onlyGivenNames x; clear_value x; revert x; intro _) | with_reducible refine logs_steady _ _ _ _ ?_ | with_reducible refine modTx_steady _ _ ?_ | with_reducible refine txStatus_steady _ ?_ | split)
theorem txRead_steady (s : State) (hs : s.Steady s₀) : (State.txRead s).Steady s₀ := by
  unfold State.txRead; repeat' (first | with_reducible assumption | with_reducible (refine upd_steady _ ?_ .. ; with_reducible assumption) | with_reducible refine ite_steady ?_ ?_ | with_reducible (extract_lets +onlyGivenNames x; refine (show x.Steady s₀ → _ from fun hx => ?_) ?_; (on_goal 2 => unfold x; clear x); clear_value x; revert x; intro _ _) | with_reducible (extract_lets +onlyGivenNames x; refine (show x.1.Steady s₀ → _ from fun hx => ?_) ?_; (on_goal 2 => unfold x; clear x); clear_value x; revert x; intro _ _) | with_reducible (extract_lets +onlyGivenNames x; refine (show x.2.Steady s₀ → _ from fun hx => ?_) ?_; (on_goal 2 => unfold x; clear x); clear_value x; revert x; intro _ _) | with_reducible (extract_lets +onlyGivenNames x; refine (show (∀ t : State, t.Steady s₀ → (x t).Steady s₀) → _ from fun hx => ?_) ?_; (on_goal 2 => unfold x; clear x; intro t ht; beta_reduce); clear_value x; revert x; intro _ _) | with_reducible (extract_lets +onlyGivenNames x; clear_value x; revert x; intro _) | with_reducible refine modSvc_steady _ _ ?_ | with_reducible refine logs_steady _ _ _ _ ?_ | with_reducible refine modTx_steady _ _ ?_ | with_reducible refine txStatus_steady _ ?_ | split)
theorem execSvcTx_steady (phase : BitVec 4) (s : State) (hs : s.Steady s₀) : ∀ out, execSvcTx phase s = .next out → out.Steady s₀ := by
  intro out ht; unfold execSvcTx at ht; (try injection ht with ht); subst ht; repeat' (first | with_reducible assumption | with_reducible refine ite_steady ?_ ?_ | with_reducible (extract_lets +onlyGivenNames x; refine (show x.Steady s₀ → _ from fun hx => ?_) ?_; (on_goal 2 => unfold x; clear x); clear_value x; revert x; intro _ _) | with_reducible (extract_lets +onlyGivenNames x; refine (show x.1.Steady s₀ → _ from fun hx => ?_) ?_; (on_goal 2 => unfold x; clear x); clear_value x; revert x; intro _ _) | with_reducible (extract_lets +onlyGivenNames x; refine (show x.2.Steady s₀ → _ from fun hx => ?_) ?_; (on_goal 2 => unfold x; clear x); clear_value x; revert x; intro _ _) | with_reducible (extract_lets +onlyGivenNames x; refine (show (∀ t : State, t.Steady s₀ → (x t).Steady s₀) → _ from fun hx => ?_) ?_; (on_goal 2 => unfold x; clear x; intro t ht; beta_reduce); clear_value x; revert x; intro _ _) | with_reducible (extract_lets +onlyGivenNames x; clear_value x; revert x; intro _) | with_reducible refine getD_steady (fun _ _ => ?_) ?_ | with_reducible refine txDesc_steady _ _ _ ?_ | with_reducible refine txLine_steady _ ?_ | with_reducible refine txRead_steady _ ?_ | split)

/-! Machine/Vector.lean. -/

theorem readY_steady (a : Acc) (v : VecOps) (isInt : Bool) (op : Nat) : EngSteady (readY a v isInt op) := by
  unfold readY
  try dsimp only
  repeat' (first | exact EngSteady.pure _ | exact EngSteady.get | exact Acc_tensor_steady .. | refine EngSteady.bind _ _ ?_ (fun _ => ?_) | refine EngSteady.mapM _ (fun _ => ?_) _ | refine EngSteady.forM _ (fun _ => ?_) _ | split | apply Acc_tensor_steady | intro _)
theorem vecBody_steady (op : Nat) (a : Acc) (u1 : List QEntry) : EngSteady (vecBody op a u1) := by
  unfold vecBody
  try dsimp only
  repeat' (first | exact EngSteady.pure _ | exact EngSteady.get | exact Acc_putTensor_steady .. | exact Acc_tensor_steady .. | exact readY_steady .. | refine EngSteady.bind _ _ ?_ (fun _ => ?_) | refine EngSteady.mapM _ (fun _ => ?_) _ | refine EngSteady.forM _ (fun _ => ?_) _ | split | apply Acc_putTensor_steady | apply Acc_tensor_steady | apply readY_steady | intro _)
theorem reduceBody_steady (op : Nat) (a : Acc) (u1 : List QEntry) : EngSteady (reduceBody op a u1) := by
  unfold reduceBody
  try dsimp only
  repeat' (first | exact EngSteady.pure _ | exact EngSteady.get | exact Acc_putTensor_steady .. | exact Acc_tensor_steady .. | refine EngSteady.bind _ _ ?_ (fun _ => ?_) | refine EngSteady.mapM _ (fun _ => ?_) _ | refine EngSteady.forM _ (fun _ => ?_) _ | split | apply Acc_putTensor_steady | apply Acc_tensor_steady | intro _)
theorem execAdd_steady (t : TileId) (s : State) (hs : s.Steady s₀) : ∀ t', execAdd t s = .next t' → t'.Steady s₀ := by
  intro t' ht; unfold execAdd at ht; injection ht with ht; subst ht
  exact runOn_steady _ _ _ _ _ _ (fun a es => vecBody_steady ..) hs
theorem execSub_steady (t : TileId) (s : State) (hs : s.Steady s₀) : ∀ t', execSub t s = .next t' → t'.Steady s₀ := by
  intro t' ht; unfold execSub at ht; injection ht with ht; subst ht
  exact runOn_steady _ _ _ _ _ _ (fun a es => vecBody_steady ..) hs
theorem execMul_steady (t : TileId) (s : State) (hs : s.Steady s₀) : ∀ t', execMul t s = .next t' → t'.Steady s₀ := by
  intro t' ht; unfold execMul at ht; injection ht with ht; subst ht
  exact runOn_steady _ _ _ _ _ _ (fun a es => vecBody_steady ..) hs
theorem execFma_steady (t : TileId) (s : State) (hs : s.Steady s₀) : ∀ t', execFma t s = .next t' → t'.Steady s₀ := by
  intro t' ht; unfold execFma at ht; injection ht with ht; subst ht
  exact runOn_steady _ _ _ _ _ _ (fun a es => vecBody_steady ..) hs
theorem execMax_steady (t : TileId) (s : State) (hs : s.Steady s₀) : ∀ t', execMax t s = .next t' → t'.Steady s₀ := by
  intro t' ht; unfold execMax at ht; injection ht with ht; subst ht
  exact runOn_steady _ _ _ _ _ _ (fun a es => vecBody_steady ..) hs
theorem execMin_steady (t : TileId) (s : State) (hs : s.Steady s₀) : ∀ t', execMin t s = .next t' → t'.Steady s₀ := by
  intro t' ht; unfold execMin at ht; injection ht with ht; subst ht
  exact runOn_steady _ _ _ _ _ _ (fun a es => vecBody_steady ..) hs
theorem execAbs_steady (t : TileId) (s : State) (hs : s.Steady s₀) : ∀ t', execAbs t s = .next t' → t'.Steady s₀ := by
  intro t' ht; unfold execAbs at ht; injection ht with ht; subst ht
  exact runOn_steady _ _ _ _ _ _ (fun a es => vecBody_steady ..) hs
theorem execNeg_steady (t : TileId) (s : State) (hs : s.Steady s₀) : ∀ t', execNeg t s = .next t' → t'.Steady s₀ := by
  intro t' ht; unfold execNeg at ht; injection ht with ht; subst ht
  exact runOn_steady _ _ _ _ _ _ (fun a es => vecBody_steady ..) hs
theorem execRelu_steady (t : TileId) (s : State) (hs : s.Steady s₀) : ∀ t', execRelu t s = .next t' → t'.Steady s₀ := by
  intro t' ht; unfold execRelu at ht; injection ht with ht; subst ht
  exact runOn_steady _ _ _ _ _ _ (fun a es => vecBody_steady ..) hs
theorem execClamp_steady (t : TileId) (s : State) (hs : s.Steady s₀) : ∀ t', execClamp t s = .next t' → t'.Steady s₀ := by
  intro t' ht; unfold execClamp at ht; injection ht with ht; subst ht
  exact runOn_steady _ _ _ _ _ _ (fun a es => vecBody_steady ..) hs
theorem execRecip_steady (t : TileId) (s : State) (hs : s.Steady s₀) : ∀ t', execRecip t s = .next t' → t'.Steady s₀ := by
  intro t' ht; unfold execRecip at ht; injection ht with ht; subst ht
  exact runOn_steady _ _ _ _ _ _ (fun a es => vecBody_steady ..) hs
theorem execRsqrt_steady (t : TileId) (s : State) (hs : s.Steady s₀) : ∀ t', execRsqrt t s = .next t' → t'.Steady s₀ := by
  intro t' ht; unfold execRsqrt at ht; injection ht with ht; subst ht
  exact runOn_steady _ _ _ _ _ _ (fun a es => vecBody_steady ..) hs
theorem execExp_steady (t : TileId) (s : State) (hs : s.Steady s₀) : ∀ t', execExp t s = .next t' → t'.Steady s₀ := by
  intro t' ht; unfold execExp at ht; injection ht with ht; subst ht
  exact runOn_steady _ _ _ _ _ _ (fun a es => vecBody_steady ..) hs
theorem execLog_steady (t : TileId) (s : State) (hs : s.Steady s₀) : ∀ t', execLog t s = .next t' → t'.Steady s₀ := by
  intro t' ht; unfold execLog at ht; injection ht with ht; subst ht
  exact runOn_steady _ _ _ _ _ _ (fun a es => vecBody_steady ..) hs
theorem execTanh_steady (t : TileId) (s : State) (hs : s.Steady s₀) : ∀ t', execTanh t s = .next t' → t'.Steady s₀ := by
  intro t' ht; unfold execTanh at ht; injection ht with ht; subst ht
  exact runOn_steady _ _ _ _ _ _ (fun a es => vecBody_steady ..) hs
theorem execSigmoid_steady (t : TileId) (s : State) (hs : s.Steady s₀) : ∀ t', execSigmoid t s = .next t' → t'.Steady s₀ := by
  intro t' ht; unfold execSigmoid at ht; injection ht with ht; subst ht
  exact runOn_steady _ _ _ _ _ _ (fun a es => vecBody_steady ..) hs
theorem execConvert_steady (t : TileId) (s : State) (hs : s.Steady s₀) : ∀ t', execConvert t s = .next t' → t'.Steady s₀ := by
  intro t' ht; unfold execConvert at ht; injection ht with ht; subst ht
  exact runOn_steady _ _ _ _ _ _ (fun a es => vecBody_steady ..) hs
theorem execRsum_steady (t : TileId) (s : State) (hs : s.Steady s₀) : ∀ t', execRsum t s = .next t' → t'.Steady s₀ := by
  intro t' ht; unfold execRsum at ht; injection ht with ht; subst ht
  exact runOn_steady _ _ _ _ _ _ (fun a es => reduceBody_steady ..) hs
theorem execRmax_steady (t : TileId) (s : State) (hs : s.Steady s₀) : ∀ t', execRmax t s = .next t' → t'.Steady s₀ := by
  intro t' ht; unfold execRmax at ht; injection ht with ht; subst ht
  exact runOn_steady _ _ _ _ _ _ (fun a es => reduceBody_steady ..) hs
theorem execRmin_steady (t : TileId) (s : State) (hs : s.Steady s₀) : ∀ t', execRmin t s = .next t' → t'.Steady s₀ := by
  intro t' ht; unfold execRmin at ht; injection ht with ht; subst ht
  exact runOn_steady _ _ _ _ _ _ (fun a es => reduceBody_steady ..) hs
theorem execRsumsq_steady (t : TileId) (s : State) (hs : s.Steady s₀) : ∀ t', execRsumsq t s = .next t' → t'.Steady s₀ := by
  intro t' ht; unfold execRsumsq at ht; injection ht with ht; subst ht
  exact runOn_steady _ _ _ _ _ _ (fun a es => reduceBody_steady ..) hs

/-! Machine/Window.lean. -/

theorem dmaCheck_steady (s : State) (d : Desc) (hs : s.Steady s₀) : (State.dmaCheck s d).1.Steady s₀ := by
  unfold State.dmaCheck; repeat' (first | with_reducible assumption | with_reducible (refine upd_steady _ ?_ .. ; with_reducible assumption) | with_reducible refine ite_steady ?_ ?_ | with_reducible refine ite_fst ?_ ?_ | with_reducible (extract_lets +onlyGivenNames x; refine (show x.Steady s₀ → _ from fun hx => ?_) ?_; (on_goal 2 => unfold x; clear x); clear_value x; revert x; intro _ _) | with_reducible (extract_lets +onlyGivenNames x; refine (show x.1.Steady s₀ → _ from fun hx => ?_) ?_; (on_goal 2 => unfold x; clear x); clear_value x; revert x; intro _ _) | with_reducible (extract_lets +onlyGivenNames x; refine (show x.2.Steady s₀ → _ from fun hx => ?_) ?_; (on_goal 2 => unfold x; clear x); clear_value x; revert x; intro _ _) | with_reducible (extract_lets +onlyGivenNames x; refine (show (∀ t : State, t.Steady s₀ → (x t).Steady s₀) → _ from fun hx => ?_) ?_; (on_goal 2 => unfold x; clear x; intro t ht; beta_reduce); clear_value x; revert x; intro _ _) | with_reducible (extract_lets +onlyGivenNames x; clear_value x; revert x; intro _) | with_reducible refine consultAll_steady _ _ _ ?_ | with_reducible refine consultAll_steadyE ?_ (by assumption) | with_reducible (dsimp only) | split)
theorem dmaCheck_steadyE {s : State} {d : Desc} {out : State} {res} (hs : s.Steady s₀) (heq : State.dmaCheck s d = (out, res)) : out.Steady s₀ := by
  have h := dmaCheck_steady s d hs; rw [heq] at h; exact h
theorem dmaStep_steady (s : State) (d : Desc) (hs : s.Steady s₀) : (State.dmaStep s d).1.Steady s₀ := by
  unfold State.dmaStep; repeat' (first | with_reducible assumption | with_reducible refine logAt_steady _ _ _ _ ?_ | with_reducible refine synthetic_steady _ _ ?_ | with_reducible refine complete_steady _ _ _ ?_ | with_reducible refine partJobFault_steady _ _ _ _ ?_ | with_reducible refine dmaCheck_steady _ _ ?_ | with_reducible refine dmaCheck_steadyE ?_ (by assumption) | with_reducible (dsimp only) | split)
theorem dmaStep_steadyE {s : State} {d : Desc} {out : State} {res} (hs : s.Steady s₀) (heq : State.dmaStep s d = (out, res)) : out.Steady s₀ := by
  have h := dmaStep_steady s d hs; rw [heq] at h; exact h
theorem execTransfer_steady (s : State) (hs : s.Steady s₀) : ∀ out, execTransfer s = .next out → out.Steady s₀ := by
  intro out ht; unfold execTransfer at ht; (try injection ht with ht); subst ht; repeat' (first | with_reducible assumption | with_reducible refine ite_steady ?_ ?_ | with_reducible refine ite_fst ?_ ?_ | with_reducible (extract_lets +onlyGivenNames x; refine (show x.Steady s₀ → _ from fun hx => ?_) ?_; (on_goal 2 => unfold x; clear x); clear_value x; revert x; intro _ _) | with_reducible (extract_lets +onlyGivenNames x; refine (show x.1.Steady s₀ → _ from fun hx => ?_) ?_; (on_goal 2 => unfold x; clear x); clear_value x; revert x; intro _ _) | with_reducible (extract_lets +onlyGivenNames x; refine (show x.2.Steady s₀ → _ from fun hx => ?_) ?_; (on_goal 2 => unfold x; clear x); clear_value x; revert x; intro _ _) | with_reducible (extract_lets +onlyGivenNames x; refine (show (∀ t : State, t.Steady s₀ → (x t).Steady s₀) → _ from fun hx => ?_) ?_; (on_goal 2 => unfold x; clear x; intro t ht; beta_reduce); clear_value x; revert x; intro _ _) | with_reducible (extract_lets +onlyGivenNames x; clear_value x; revert x; intro _) | with_reducible refine done_steady _ _ _ ?_ | with_reducible refine pushOp_steady _ _ ?_ | with_reducible refine takeRe_steady _ _ ?_ _ _ (by assumption) | with_reducible refine conflict_steady _ _ ?_ | with_reducible refine dmaStep_steady _ _ ?_ | with_reducible refine dmaStep_steadyE ?_ (by assumption) | split)
theorem moveOut_steady (s : State) (o : WinOp) (a len : Nat) (r : Loc) (fuel moved : Nat) (hs : s.Steady s₀) :
    (s.moveOut o a len r fuel moved).Steady s₀ := by
  induction fuel generalizing s o moved with
  | zero => exact hs
  | succ n ih =>
    unfold State.moveOut
    extract_lets put
    refine ite_steady hs ?_
    split
    · exact winCut_steady _ _ _ _ hs
    · split
      · exact fetchBytes_steadyE hs (by assumption)
      · exact ih _ _ _ (setOp_steady _ _ _ (hostWrite_steady _ _ _ (fetchBytes_steadyE hs (by assumption))))
theorem moveData_steady (s : State) (o : WinOp) (hs : s.Steady s₀) : (State.moveData s o).Steady s₀ := by
  unfold State.moveData; grind [store_steady, setOp_steady, toClose_steady, winCut_steady, moveOut_steady, upd_steady, → State.Steady.sram, → State.Steady.host, → State.Steady.flash, → State.Steady.input, → State.Steady.time, → State.Steady.slots, → State.Steady.keys, → State.Steady.queue, → State.Steady.por, Mem.wf_set, Mem.wf_write, Mem.wf_writeAll, Mem.wf_zero]
theorem transferGo_steady (s : State) (o : WinOp) (hs : s.Steady s₀) : (State.transferGo s o).Steady s₀ := by
  unfold State.transferGo; repeat' (first | with_reducible assumption | with_reducible refine ite_steady ?_ ?_ | with_reducible refine ite_fst ?_ ?_ | with_reducible refine shortBuf_steady _ _ _ ?_ | with_reducible refine dmaStep_steady _ _ ?_ | with_reducible refine dmaStep_steadyE ?_ (by assumption) | with_reducible refine moveData_steady _ _ ?_ | with_reducible refine openHeader_steadyA _ _ ?_ _ (by assumption) | with_reducible refine openHeader_steadyB _ _ ?_ _ _ (by assumption) | split)
theorem goOn_steady (s : State) (o : WinOp) (hs : s.Steady s₀) : (State.goOn s o).Steady s₀ := by
  unfold State.goOn; repeat' (first | with_reducible assumption | with_reducible refine ite_steady ?_ ?_ | with_reducible (extract_lets +onlyGivenNames x; refine (show x.Steady s₀ → _ from fun hx => ?_) ?_; (on_goal 2 => unfold x; clear x); clear_value x; revert x; intro _ _) | with_reducible (extract_lets +onlyGivenNames x; refine (show x.1.Steady s₀ → _ from fun hx => ?_) ?_; (on_goal 2 => unfold x; clear x); clear_value x; revert x; intro _ _) | with_reducible (extract_lets +onlyGivenNames x; refine (show x.2.Steady s₀ → _ from fun hx => ?_) ?_; (on_goal 2 => unfold x; clear x); clear_value x; revert x; intro _ _) | with_reducible (extract_lets +onlyGivenNames x; refine (show (∀ t : State, t.Steady s₀ → (x t).Steady s₀) → _ from fun hx => ?_) ?_; (on_goal 2 => unfold x; clear x; intro t ht; beta_reduce); clear_value x; revert x; intro _ _) | with_reducible (extract_lets +onlyGivenNames x; clear_value x; revert x; intro _) | with_reducible refine mgmtGo_steady _ _ ?_ | with_reducible refine queryGo_steady _ _ ?_ | with_reducible refine logReadGo_steady _ _ ?_ | with_reducible refine fwProceed_steady _ ?_ | with_reducible refine loadGo_steady _ _ ?_ | with_reducible refine startGo_steady _ _ ?_ | with_reducible refine resumeGo_steady _ _ ?_ | with_reducible refine transferGo_steady _ _ ?_ | split)
theorem closePost_steady (s : State) (o : WinOp) (status : Byte) (hs : s.Steady s₀) : (State.closePost s o status).1.Steady s₀ := by
  unfold State.closePost; repeat' (first | with_reducible assumption | with_reducible refine ite_steady ?_ ?_ | with_reducible refine ite_fst ?_ ?_ | with_reducible (extract_lets +onlyGivenNames x; refine (show x.Steady s₀ → _ from fun hx => ?_) ?_; (on_goal 2 => unfold x; clear x); clear_value x; revert x; intro _ _) | with_reducible (extract_lets +onlyGivenNames x; refine (show x.1.Steady s₀ → _ from fun hx => ?_) ?_; (on_goal 2 => unfold x; clear x); clear_value x; revert x; intro _ _) | with_reducible (extract_lets +onlyGivenNames x; refine (show x.2.Steady s₀ → _ from fun hx => ?_) ?_; (on_goal 2 => unfold x; clear x); clear_value x; revert x; intro _ _) | with_reducible (extract_lets +onlyGivenNames x; refine (show (∀ t : State, t.Steady s₀ → (x t).Steady s₀) → _ from fun hx => ?_) ?_; (on_goal 2 => unfold x; clear x; intro t ht; beta_reduce); clear_value x; revert x; intro _ _) | with_reducible (extract_lets +onlyGivenNames x; clear_value x; revert x; intro _) | with_reducible refine hostPost_steady _ _ _ _ ?_ | with_reducible refine hostPost_steadyE ?_ (by assumption) | with_reducible (dsimp only) | split)
theorem closePost_steadyE {s : State} {o : WinOp} {status : Byte} {out : State} {res} (hs : s.Steady s₀) (heq : State.closePost s o status = (out, res)) : out.Steady s₀ := by
  have h := closePost_steady s o status hs; rw [heq] at h; exact h
theorem closeOp_steady (s : State) (o : WinOp) (status : Byte) (h : Option Nat) (moved : Nat) (early : Bool) (d0 : W64) (d1 : W64) (fault : W16) (hs : s.Steady s₀) : (State.closeOp s o status h moved early d0 d1 fault).Steady s₀ := by
  unfold State.closeOp; repeat' (first | with_reducible assumption | with_reducible refine ite_steady ?_ ?_ | with_reducible (extract_lets +onlyGivenNames x; refine (show x.Steady s₀ → _ from fun hx => ?_) ?_; (on_goal 2 => unfold x; clear x); clear_value x; revert x; intro _ _) | with_reducible (extract_lets +onlyGivenNames x; refine (show x.1.Steady s₀ → _ from fun hx => ?_) ?_; (on_goal 2 => unfold x; clear x); clear_value x; revert x; intro _ _) | with_reducible (extract_lets +onlyGivenNames x; refine (show x.2.Steady s₀ → _ from fun hx => ?_) ?_; (on_goal 2 => unfold x; clear x); clear_value x; revert x; intro _ _) | with_reducible (extract_lets +onlyGivenNames x; refine (show (∀ t : State, t.Steady s₀ → (x t).Steady s₀) → _ from fun hx => ?_) ?_; (on_goal 2 => unfold x; clear x; intro t ht; beta_reduce); clear_value x; revert x; intro _ _) | with_reducible (extract_lets +onlyGivenNames x; clear_value x; revert x; intro _) | with_reducible refine writeHeader_steady _ _ _ _ _ _ _ _ _ ?_ | with_reducible refine complete_steady _ _ _ ?_ | with_reducible refine dropOp_steady _ _ ?_ | with_reducible refine postOverrun_steady _ _ ?_ | with_reducible refine closePost_steady _ _ _ ?_ | with_reducible refine closePost_steadyE ?_ (by assumption) | with_reducible refine pair_steady ?_ (by assumption) | with_reducible refine ite_fst ?_ ?_ | with_reducible (dsimp only) | split)
theorem execWindowClose_steady (s : State) (hs : s.Steady s₀) : ∀ out, execWindowClose s = .next out → out.Steady s₀ := by
  intro out ht; unfold execWindowClose at ht; (try injection ht with ht); subst ht; repeat' (first | with_reducible assumption | with_reducible refine ite_steady ?_ ?_ | with_reducible (extract_lets +onlyGivenNames x; refine (show x.Steady s₀ → _ from fun hx => ?_) ?_; (on_goal 2 => unfold x; clear x); clear_value x; revert x; intro _ _) | with_reducible (extract_lets +onlyGivenNames x; refine (show x.1.Steady s₀ → _ from fun hx => ?_) ?_; (on_goal 2 => unfold x; clear x); clear_value x; revert x; intro _ _) | with_reducible (extract_lets +onlyGivenNames x; refine (show x.2.Steady s₀ → _ from fun hx => ?_) ?_; (on_goal 2 => unfold x; clear x); clear_value x; revert x; intro _ _) | with_reducible (extract_lets +onlyGivenNames x; refine (show (∀ t : State, t.Steady s₀ → (x t).Steady s₀) → _ from fun hx => ?_) ?_; (on_goal 2 => unfold x; clear x; intro t ht; beta_reduce); clear_value x; revert x; intro _ _) | with_reducible (extract_lets +onlyGivenNames x; clear_value x; revert x; intro _) | with_reducible refine fwProceed_steady _ ?_ | with_reducible refine closeOp_steady _ _ _ _ _ _ _ _ _ ?_ | split)

/-! Machine/Headers.lean. -/

theorem waiterGoes_steady (s : State) (x : HeaderWait) (hs : s.Steady s₀) : (State.waiterGoes s x).Steady s₀ := by
  unfold State.waiterGoes; repeat' (first | with_reducible assumption | with_reducible refine endWait_steady _ _ ?_ | with_reducible refine tringGo_steady _ _ _ ?_ | with_reducible refine fwProceed_steady _ ?_ | split)
theorem execHeaderClaim_steady (s : State) (hs : s.Steady s₀) : ∀ out, execHeaderClaim s = .next out → out.Steady s₀ := by
  intro out ht; unfold execHeaderClaim at ht; (try injection ht with ht); subst ht; repeat' (first | with_reducible assumption | with_reducible refine ite_steady ?_ ?_ | with_reducible refine goOn_steady _ _ ?_ | with_reducible refine waiterGoes_steady _ _ ?_ | split)

end Sys2Proof.Machine
end

