-- ==== Sys2Proof/Laws/Restart.lean ====
section
/-! SUPPORT. The operations that do not keep State.Steady: restarts of the standby domain, changes of device time, key slots and register
writes. Each keeps the invariant and the queue of commands. -/

set_option linter.all false

namespace Sys2Proof.Machine

theorem TroubleLog.reset_wf : TroubleLog.reset.Wf := ⟨List.nodup_nil, fun _ h => absurd h List.not_mem_nil, rfl, by decide, rfl⟩
theorem State.outside_inv (s : State) (h : s.Inv) : s.outside.Inv :=
  ⟨rfl, h.host, h.flash, by show (0 : BitVec 30).toNat < 10 ^ 9; decide, by show ([] : List LogEntry).length ≤ 256; decide, TroubleLog.reset_wf⟩
theorem State.coldStart_inv (s : State) (h : s.Inv) : s.coldStart.Inv ∧ s.coldStart.pending = s.pending := by
  have h1 := coldStart_steady s h.steady
  exact ⟨h1.inv h, h1.queue⟩
theorem State.coldReset_inv (s : State) (h : s.Inv) : s.coldReset.Inv ∧ s.coldReset.pending = s.pending := by
  unfold State.coldReset
  refine State.coldStart_inv _ ?_
  exact ⟨rfl, h.host, h.flash, by show (0 : BitVec 30).toNat < 10 ^ 9; decide, by show ([] : List LogEntry).length ≤ 256; decide, TroubleLog.reset_wf⟩
theorem Clock.put_ns (c : Clock) (t : Nat) : (c.put t).ns.toNat < 10 ^ 9 := by
  have h : t % nsPerSec < nsPerSec := Nat.mod_lt _ (by decide)
  simp only [Clock.put, BitVec.toNat_ofNat]
  have h2 : nsPerSec = 1000000000 := rfl
  omega
theorem State.modClock_inv (s : State) (f : Clock → Clock) (h : s.Inv) (hf : (f s.clock).ns.toNat < 10 ^ 9) : (s.modClock f).Inv :=
  ⟨h.sram, h.host, h.flash, hf, h.input, h.log⟩
theorem State.logs_inv (s : State) (c : W16) (v k : Nat) (h : s.Inv) : (s.logs c v k).Inv := (logs_steady s c v k h.steady).inv h
theorem State.applyChange_inv (s : State) (h : s.Inv) : s.applyChange.Inv ∧ s.applyChange.pending = s.pending := by
  unfold State.applyChange
  split
  · exact ⟨h, rfl⟩
  · have h1 : (s.modClock (fun c => { c with change := none })).Inv := s.modClock_inv _ h h.ns
    dsimp only
    split
    · exact ⟨(setupRejected_steady _ 0 h1.steady).inv h1, (setupRejected_steady _ 0 h1.steady).queue⟩
    · have h2 := State.modClock_inv _ (fun c => { c with jumpRefused := true }) h1 h1.ns
      exact ⟨State.logs_inv _ _ _ _ h2, (logs_steady _ _ _ _ h2.steady).queue⟩
    · rename_i n _
      have h2 := State.modClock_inv _ (fun c => c.put n) h1 (Clock.put_ns _ _)
      exact ⟨State.logs_inv _ _ _ _ h2, (logs_steady _ _ _ _ h2.steady).queue⟩
    · rename_i n _
      have h0 := draw_steady _ h1.steady
      have h2 := State.modClock_inv _ (fun c => { c.put n with frac := BitVec.ofNat 32 (State.draw (s.modClock (fun c => { c with change := none }))).1 })
        (h0.inv h1) (Clock.put_ns s.clock n)
      exact ⟨State.logs_inv _ _ _ _ h2, (logs_steady _ _ _ _ h2.steady).queue.trans h0.queue⟩
theorem State.modMgt_inv (s : State) (f : Mgt → Mgt) (h : s.Inv) : (s.modMgt f).Inv := ⟨h.sram, h.host, h.flash, h.ns, h.input, h.log⟩
theorem State.setupRejected_inv (s : State) (f : FnId) (h : s.Inv) : (s.setupRejected f).Inv ∧ (s.setupRejected f).pending = s.pending :=
  ⟨(setupRejected_steady s f h.steady).inv h, (setupRejected_steady s f h.steady).queue⟩
theorem State.enroll_inv (s : State) (k : KeySlotIx) (h : s.Inv) : (s.enroll k).Inv ∧ (s.enroll k).pending = s.pending := by
  unfold State.enroll; split
  · exact ⟨s.modMgt_inv _ h, rfl⟩
  · exact s.setupRejected_inv 0 h
theorem State.revoke_inv (s : State) (k : KeySlotIx) (h : s.Inv) : (s.revoke k).Inv ∧ (s.revoke k).pending = s.pending := ⟨s.modMgt_inv _ h, rfl⟩
theorem State.setKeyCtrl_inv (s : State) (v : W32) (h : s.Inv) : (s.setKeyCtrl v).Inv ∧ (s.setKeyCtrl v).pending = s.pending := by
  unfold State.setKeyCtrl; dsimp only; split
  · exact s.revoke_inv _ h
  · split
    · exact s.enroll_inv _ h
    · exact ⟨h, rfl⟩
theorem State.setKeyBytes_inv (s : State) (k : KeySlotIx) (o : Nat) (bs : List Byte) (h : s.Inv) :
    (s.setKeyBytes k o bs).Inv ∧ (s.setKeyBytes k o bs).pending = s.pending := by
  unfold State.setKeyBytes; dsimp only; split
  · exact s.setupRejected_inv 0 h
  · exact ⟨s.modMgt_inv _ h, rfl⟩
theorem State.setReset_inv (s : State) (v : W32) (h : s.Inv) : (s.setReset v).Inv ∧ (s.setReset v).pending = s.pending := by
  unfold State.setReset
  split
  · exact s.setupRejected_inv 0 h
  · split
    · exact s.coldReset_inv h
    · split
      · exact ⟨(warmReset_steady s h.steady).inv h, (warmReset_steady s h.steady).queue⟩
      · split
        · exact ⟨(mcReset_steady s h.steady).inv h, (mcReset_steady s h.steady).queue⟩
        · exact ⟨h, rfl⟩
theorem State.commit32_steady (s : State) (f : FnId) (r : SetupReg) (v : W32)
    (hr : r ≠ .reset ∧ r ≠ .keyCtrl ∧ ∀ k o, r ≠ .key k o) (h : s.Steady s) : (s.commit32 f r v).Steady s := by
  cases r
  case reset => exact absurd rfl hr.1
  case keyCtrl => exact absurd rfl hr.2.1
  case key k o => exact absurd rfl (hr.2.2 k o)
  all_goals (unfold State.commit32; dsimp only)
  all_goals (repeat' (first | with_reducible assumption | with_reducible (refine upd_steady _ ?_ .. ; with_reducible assumption) | with_reducible rfl | with_reducible refine (‹∀ t : State, t.Steady s₀ → (_ : State).Steady s₀›) _ ?_ | with_reducible refine ite_steady ?_ ?_ | with_reducible refine foldl_steady _ _ _ ?_ (fun _ _ _ => ?_) | with_reducible refine fwUpdate_steady _ ?_ | with_reducible refine modClock_steady _ _ ?_ rfl rfl rfl | with_reducible refine modHiu_steady _ _ ?_ | with_reducible refine modInfield_steady _ _ ?_ | with_reducible refine modLink_steady _ _ _ ?_ | with_reducible refine modMgt_steady _ _ ?_ rfl | with_reducible refine modPace_steady _ _ ?_ | with_reducible refine modSvc_steady _ _ ?_ | with_reducible refine msix_steady _ _ _ ?_ | with_reducible refine ranged_steady _ _ _ _ _ (fun _ _ => ?_) ?_ | with_reducible refine regLocked_steady _ _ ?_ | with_reducible refine setBind_steady _ _ _ ?_ | with_reducible refine setChipId_steady _ _ ?_ | with_reducible refine setCqCtrl_steady _ _ _ _ ?_ | with_reducible refine setCqIrq_steady _ _ _ _ ?_ | with_reducible refine setDblMode_steady _ _ _ ?_ | with_reducible refine setLock_steady _ _ ?_ | with_reducible refine setMachineId_steady _ _ ?_ | with_reducible refine setMsix_steady _ _ _ _ ?_ | with_reducible refine setPeerExpect_steady _ _ _ ?_ | with_reducible refine setPtpCtrl_steady _ _ ?_ | with_reducible refine setPwr_steady _ _ _ ?_ | with_reducible refine setSqCtrl_steady _ _ _ _ ?_ | with_reducible refine setTime_steady _ _ rfl rfl rfl ?_ | with_reducible refine setTopology_steady _ _ ?_ | with_reducible refine setTring_steady _ _ _ ?_ | with_reducible refine setTringCtrl_steady _ _ _ ?_ | with_reducible refine setTxCtrl_steady _ _ ?_ | with_reducible refine setUnitReset_steady _ _ ?_ | with_reducible refine setZlCtrl_steady _ _ _ ?_ | with_reducible refine svcCtrl_steady _ _ _ ?_ | with_reducible refine pair_steady ?_ (by assumption) | with_reducible refine ite_fst ?_ ?_ | with_reducible refine ite_snd ?_ ?_ | split | dsimp only))
theorem State.commit32_inv (s : State) (f : FnId) (r : SetupReg) (v : W32) (h : s.Inv) :
    (s.commit32 f r v).Inv ∧ (s.commit32 f r v).pending = s.pending := by
  by_cases hr : r ≠ .reset ∧ r ≠ .keyCtrl ∧ ∀ k o, r ≠ .key k o
  · have h1 := s.commit32_steady f r v hr h.steady
    exact ⟨h1.inv h, h1.queue⟩
  · cases r
    case reset => exact s.setReset_inv v h
    case keyCtrl => exact s.setKeyCtrl_inv v h
    case key k o => exact s.setKeyBytes_inv k o _ h
    all_goals exact absurd ⟨nofun, nofun, nofun⟩ hr
theorem State.regWrite_inv (s : State) (f : FnId) (off : BitVec 20) (eight : Bool) (v : W64) (h : s.Inv) :
    (s.regWrite f off eight v).Inv ∧ (s.regWrite f off eight v).pending = s.pending := by
  unfold State.regWrite
  dsimp only
  split
  · exact ⟨h, rfl⟩
  · split
    · exact ⟨h, rfl⟩
    · rename_i r _
      split
      · split
        · exact ⟨(commitWide_steady s f off r v h.steady).inv h, (commitWide_steady s f off r v h.steady).queue⟩
        · exact ⟨(writeHalf_steady s f off r _ h.steady).inv h, (writeHalf_steady s f off r _ h.steady).queue⟩
      · split
        · exact s.commit32_inv f r _ h
        · split
          · exact s.setKeyBytes_inv _ _ _ h
          · rename_i d _ _
            have h1 := setMsix_steady _ f (d + 1) (BitVec.ofNat 32 (fld v 63 32)) (setMsix_steady s f d (BitVec.ofNat 32 (fld v 31 0)) h.steady)
            exact ⟨h1.inv h, h1.queue⟩
          · exact ⟨h, rfl⟩
end Sys2Proof.Machine
end

