-- ==== Sys2Proof/Laws/State.lean ====
section
/-! SUPPORT. What each update of State reads back as: one lemma per update and field, true by rfl, so that no proof unfolds a
record update; and the indexed reads of what was written. -/

namespace Sys2Proof.Machine

variable (s : State)

/-! Vectors. -/

@[simp] theorem vset_same {α : Type} {n : Nat} (v : Vector α n) (i : Fin n) (x : α) : (vset v i x)[i] = x := by
  simp [vset]
theorem vset_other {α : Type} {n : Nat} (v : Vector α n) (i j : Fin n) (x : α) (h : i ≠ j) : (vset v i x)[j] = v[j] := by
  have : i.val ≠ j.val := fun e => h (Fin.ext e)
  simp [vset, this]
@[simp] theorem vmod_same {α : Type} {n : Nat} (v : Vector α n) (i : Fin n) (f : α → α) : (vmod v i f)[i] = f v[i] := by
  simp [vmod]
theorem vmod_other {α : Type} {n : Nat} (v : Vector α n) (i j : Fin n) (f : α → α) (h : i ≠ j) : (vmod v i f)[j] = v[j] := by
  have : i.val ≠ j.val := fun e => h (Fin.ext e)
  simp [vmod, this]

/-! Indexed parts of State. -/

@[simp] theorem State.modPart_part (p : PartId) (f : Partition → Partition) : (s.modPart p f).part p = f (s.part p) :=
  vmod_same s.parts p f
theorem State.modPart_part_other (p q : PartId) (f : Partition → Partition) (h : p ≠ q) : (s.modPart p f).part q = s.part q :=
  vmod_other s.parts p q f h
@[simp] theorem State.modLink_link (l : LinkId) (f : Link → Link) : (s.modLink l f).link l = f (s.link l) :=
  vmod_same s.links l f
theorem State.modLink_link_other (l m : LinkId) (f : Link → Link) (h : l ≠ m) : (s.modLink l f).link m = s.link m :=
  vmod_other s.links l m f h
@[simp] theorem State.modFn_fn (n : FnId) (f : Function → Function) : (s.modFn n f).fn n = f (s.fn n) :=
  vmod_same s.fns n f
theorem State.modFn_fn_other (n m : FnId) (f : Function → Function) (h : n ≠ m) : (s.modFn n f).fn m = s.fn m :=
  vmod_other s.fns n m f h

/-! modPart. -/

section
variable (p : PartId) (f : Partition → Partition)
@[simp] theorem State.modPart_pending : (s.modPart p f).pending = s.pending := rfl
@[simp] theorem State.modPart_power : (s.modPart p f).power = s.power := rfl
@[simp] theorem State.modPart_boot : (s.modPart p f).boot = s.boot := rfl
@[simp] theorem State.modPart_clock : (s.modPart p f).clock = s.clock := rfl
@[simp] theorem State.modPart_log : (s.modPart p f).log = s.log := rfl
@[simp] theorem State.modPart_mgt : (s.modPart p f).mgt = s.mgt := rfl
@[simp] theorem State.modPart_pace : (s.modPart p f).pace = s.pace := rfl
@[simp] theorem State.modPart_sram : (s.modPart p f).sram = s.sram := rfl
@[simp] theorem State.modPart_jobs : (s.modPart p f).jobs = s.jobs := rfl
@[simp] theorem State.modPart_units : (s.modPart p f).units = s.units := rfl
@[simp] theorem State.modPart_seqTurn : (s.modPart p f).seqTurn = s.seqTurn := rfl
@[simp] theorem State.modPart_pe : (s.modPart p f).pe = s.pe := rfl
@[simp] theorem State.modPart_links : (s.modPart p f).links = s.links := rfl
@[simp] theorem State.modPart_infield : (s.modPart p f).infield = s.infield := rfl
@[simp] theorem State.modPart_hiu : (s.modPart p f).hiu = s.hiu := rfl
@[simp] theorem State.modPart_fns : (s.modPart p f).fns = s.fns := rfl
@[simp] theorem State.modPart_host : (s.modPart p f).host = s.host := rfl
@[simp] theorem State.modPart_svc : (s.modPart p f).svc = s.svc := rfl
@[simp] theorem State.modPart_side : (s.modPart p f).side = s.side := rfl
@[simp] theorem State.modPart_fresh : (s.modPart p f).fresh = s.fresh := rfl
@[simp] theorem State.modPart_link (l' : LinkId) : (s.modPart p f).link l' = s.link l' := rfl
@[simp] theorem State.modPart_fn (n' : FnId) : (s.modPart p f).fn n' = s.fn n' := rfl
end

/-! modLink. -/

section
variable (l : LinkId) (f : Link → Link)
@[simp] theorem State.modLink_pending : (s.modLink l f).pending = s.pending := rfl
@[simp] theorem State.modLink_power : (s.modLink l f).power = s.power := rfl
@[simp] theorem State.modLink_boot : (s.modLink l f).boot = s.boot := rfl
@[simp] theorem State.modLink_clock : (s.modLink l f).clock = s.clock := rfl
@[simp] theorem State.modLink_log : (s.modLink l f).log = s.log := rfl
@[simp] theorem State.modLink_mgt : (s.modLink l f).mgt = s.mgt := rfl
@[simp] theorem State.modLink_pace : (s.modLink l f).pace = s.pace := rfl
@[simp] theorem State.modLink_sram : (s.modLink l f).sram = s.sram := rfl
@[simp] theorem State.modLink_parts : (s.modLink l f).parts = s.parts := rfl
@[simp] theorem State.modLink_jobs : (s.modLink l f).jobs = s.jobs := rfl
@[simp] theorem State.modLink_units : (s.modLink l f).units = s.units := rfl
@[simp] theorem State.modLink_seqTurn : (s.modLink l f).seqTurn = s.seqTurn := rfl
@[simp] theorem State.modLink_pe : (s.modLink l f).pe = s.pe := rfl
@[simp] theorem State.modLink_infield : (s.modLink l f).infield = s.infield := rfl
@[simp] theorem State.modLink_hiu : (s.modLink l f).hiu = s.hiu := rfl
@[simp] theorem State.modLink_fns : (s.modLink l f).fns = s.fns := rfl
@[simp] theorem State.modLink_host : (s.modLink l f).host = s.host := rfl
@[simp] theorem State.modLink_svc : (s.modLink l f).svc = s.svc := rfl
@[simp] theorem State.modLink_side : (s.modLink l f).side = s.side := rfl
@[simp] theorem State.modLink_fresh : (s.modLink l f).fresh = s.fresh := rfl
@[simp] theorem State.modLink_part (p' : PartId) : (s.modLink l f).part p' = s.part p' := rfl
@[simp] theorem State.modLink_fn (n' : FnId) : (s.modLink l f).fn n' = s.fn n' := rfl
end

/-! modFn. -/

section
variable (n : FnId) (f : Function → Function)
@[simp] theorem State.modFn_pending : (s.modFn n f).pending = s.pending := rfl
@[simp] theorem State.modFn_power : (s.modFn n f).power = s.power := rfl
@[simp] theorem State.modFn_boot : (s.modFn n f).boot = s.boot := rfl
@[simp] theorem State.modFn_clock : (s.modFn n f).clock = s.clock := rfl
@[simp] theorem State.modFn_log : (s.modFn n f).log = s.log := rfl
@[simp] theorem State.modFn_mgt : (s.modFn n f).mgt = s.mgt := rfl
@[simp] theorem State.modFn_pace : (s.modFn n f).pace = s.pace := rfl
@[simp] theorem State.modFn_sram : (s.modFn n f).sram = s.sram := rfl
@[simp] theorem State.modFn_parts : (s.modFn n f).parts = s.parts := rfl
@[simp] theorem State.modFn_jobs : (s.modFn n f).jobs = s.jobs := rfl
@[simp] theorem State.modFn_units : (s.modFn n f).units = s.units := rfl
@[simp] theorem State.modFn_seqTurn : (s.modFn n f).seqTurn = s.seqTurn := rfl
@[simp] theorem State.modFn_pe : (s.modFn n f).pe = s.pe := rfl
@[simp] theorem State.modFn_links : (s.modFn n f).links = s.links := rfl
@[simp] theorem State.modFn_infield : (s.modFn n f).infield = s.infield := rfl
@[simp] theorem State.modFn_hiu : (s.modFn n f).hiu = s.hiu := rfl
@[simp] theorem State.modFn_host : (s.modFn n f).host = s.host := rfl
@[simp] theorem State.modFn_svc : (s.modFn n f).svc = s.svc := rfl
@[simp] theorem State.modFn_side : (s.modFn n f).side = s.side := rfl
@[simp] theorem State.modFn_fresh : (s.modFn n f).fresh = s.fresh := rfl
@[simp] theorem State.modFn_part (p' : PartId) : (s.modFn n f).part p' = s.part p' := rfl
@[simp] theorem State.modFn_link (l' : LinkId) : (s.modFn n f).link l' = s.link l' := rfl
end

/-! modPace. -/

section
variable (f : Pacer → Pacer)
@[simp] theorem State.modPace_pending : (s.modPace f).pending = s.pending := rfl
@[simp] theorem State.modPace_power : (s.modPace f).power = s.power := rfl
@[simp] theorem State.modPace_boot : (s.modPace f).boot = s.boot := rfl
@[simp] theorem State.modPace_clock : (s.modPace f).clock = s.clock := rfl
@[simp] theorem State.modPace_log : (s.modPace f).log = s.log := rfl
@[simp] theorem State.modPace_mgt : (s.modPace f).mgt = s.mgt := rfl
@[simp] theorem State.modPace_pace : (s.modPace f).pace = f s.pace := rfl
@[simp] theorem State.modPace_sram : (s.modPace f).sram = s.sram := rfl
@[simp] theorem State.modPace_parts : (s.modPace f).parts = s.parts := rfl
@[simp] theorem State.modPace_jobs : (s.modPace f).jobs = s.jobs := rfl
@[simp] theorem State.modPace_units : (s.modPace f).units = s.units := rfl
@[simp] theorem State.modPace_seqTurn : (s.modPace f).seqTurn = s.seqTurn := rfl
@[simp] theorem State.modPace_pe : (s.modPace f).pe = s.pe := rfl
@[simp] theorem State.modPace_links : (s.modPace f).links = s.links := rfl
@[simp] theorem State.modPace_infield : (s.modPace f).infield = s.infield := rfl
@[simp] theorem State.modPace_hiu : (s.modPace f).hiu = s.hiu := rfl
@[simp] theorem State.modPace_fns : (s.modPace f).fns = s.fns := rfl
@[simp] theorem State.modPace_host : (s.modPace f).host = s.host := rfl
@[simp] theorem State.modPace_svc : (s.modPace f).svc = s.svc := rfl
@[simp] theorem State.modPace_side : (s.modPace f).side = s.side := rfl
@[simp] theorem State.modPace_fresh : (s.modPace f).fresh = s.fresh := rfl
@[simp] theorem State.modPace_part (p' : PartId) : (s.modPace f).part p' = s.part p' := rfl
@[simp] theorem State.modPace_link (l' : LinkId) : (s.modPace f).link l' = s.link l' := rfl
@[simp] theorem State.modPace_fn (n' : FnId) : (s.modPace f).fn n' = s.fn n' := rfl
end

/-! modMgt. -/

section
variable (f : Mgt → Mgt)
@[simp] theorem State.modMgt_pending : (s.modMgt f).pending = s.pending := rfl
@[simp] theorem State.modMgt_power : (s.modMgt f).power = s.power := rfl
@[simp] theorem State.modMgt_boot : (s.modMgt f).boot = s.boot := rfl
@[simp] theorem State.modMgt_clock : (s.modMgt f).clock = s.clock := rfl
@[simp] theorem State.modMgt_log : (s.modMgt f).log = s.log := rfl
@[simp] theorem State.modMgt_mgt : (s.modMgt f).mgt = f s.mgt := rfl
@[simp] theorem State.modMgt_pace : (s.modMgt f).pace = s.pace := rfl
@[simp] theorem State.modMgt_sram : (s.modMgt f).sram = s.sram := rfl
@[simp] theorem State.modMgt_parts : (s.modMgt f).parts = s.parts := rfl
@[simp] theorem State.modMgt_jobs : (s.modMgt f).jobs = s.jobs := rfl
@[simp] theorem State.modMgt_units : (s.modMgt f).units = s.units := rfl
@[simp] theorem State.modMgt_seqTurn : (s.modMgt f).seqTurn = s.seqTurn := rfl
@[simp] theorem State.modMgt_pe : (s.modMgt f).pe = s.pe := rfl
@[simp] theorem State.modMgt_links : (s.modMgt f).links = s.links := rfl
@[simp] theorem State.modMgt_infield : (s.modMgt f).infield = s.infield := rfl
@[simp] theorem State.modMgt_hiu : (s.modMgt f).hiu = s.hiu := rfl
@[simp] theorem State.modMgt_fns : (s.modMgt f).fns = s.fns := rfl
@[simp] theorem State.modMgt_host : (s.modMgt f).host = s.host := rfl
@[simp] theorem State.modMgt_svc : (s.modMgt f).svc = s.svc := rfl
@[simp] theorem State.modMgt_side : (s.modMgt f).side = s.side := rfl
@[simp] theorem State.modMgt_fresh : (s.modMgt f).fresh = s.fresh := rfl
@[simp] theorem State.modMgt_part (p' : PartId) : (s.modMgt f).part p' = s.part p' := rfl
@[simp] theorem State.modMgt_link (l' : LinkId) : (s.modMgt f).link l' = s.link l' := rfl
@[simp] theorem State.modMgt_fn (n' : FnId) : (s.modMgt f).fn n' = s.fn n' := rfl
end

/-! modPower. -/

section
variable (f : Power → Power)
@[simp] theorem State.modPower_pending : (s.modPower f).pending = s.pending := rfl
@[simp] theorem State.modPower_power : (s.modPower f).power = f s.power := rfl
@[simp] theorem State.modPower_boot : (s.modPower f).boot = s.boot := rfl
@[simp] theorem State.modPower_clock : (s.modPower f).clock = s.clock := rfl
@[simp] theorem State.modPower_log : (s.modPower f).log = s.log := rfl
@[simp] theorem State.modPower_mgt : (s.modPower f).mgt = s.mgt := rfl
@[simp] theorem State.modPower_pace : (s.modPower f).pace = s.pace := rfl
@[simp] theorem State.modPower_sram : (s.modPower f).sram = s.sram := rfl
@[simp] theorem State.modPower_parts : (s.modPower f).parts = s.parts := rfl
@[simp] theorem State.modPower_jobs : (s.modPower f).jobs = s.jobs := rfl
@[simp] theorem State.modPower_units : (s.modPower f).units = s.units := rfl
@[simp] theorem State.modPower_seqTurn : (s.modPower f).seqTurn = s.seqTurn := rfl
@[simp] theorem State.modPower_pe : (s.modPower f).pe = s.pe := rfl
@[simp] theorem State.modPower_links : (s.modPower f).links = s.links := rfl
@[simp] theorem State.modPower_infield : (s.modPower f).infield = s.infield := rfl
@[simp] theorem State.modPower_hiu : (s.modPower f).hiu = s.hiu := rfl
@[simp] theorem State.modPower_fns : (s.modPower f).fns = s.fns := rfl
@[simp] theorem State.modPower_host : (s.modPower f).host = s.host := rfl
@[simp] theorem State.modPower_svc : (s.modPower f).svc = s.svc := rfl
@[simp] theorem State.modPower_side : (s.modPower f).side = s.side := rfl
@[simp] theorem State.modPower_fresh : (s.modPower f).fresh = s.fresh := rfl
@[simp] theorem State.modPower_part (p' : PartId) : (s.modPower f).part p' = s.part p' := rfl
@[simp] theorem State.modPower_link (l' : LinkId) : (s.modPower f).link l' = s.link l' := rfl
@[simp] theorem State.modPower_fn (n' : FnId) : (s.modPower f).fn n' = s.fn n' := rfl
end

/-! modInfield. -/

section
variable (f : Infield → Infield)
@[simp] theorem State.modInfield_pending : (s.modInfield f).pending = s.pending := rfl
@[simp] theorem State.modInfield_power : (s.modInfield f).power = s.power := rfl
@[simp] theorem State.modInfield_boot : (s.modInfield f).boot = s.boot := rfl
@[simp] theorem State.modInfield_clock : (s.modInfield f).clock = s.clock := rfl
@[simp] theorem State.modInfield_log : (s.modInfield f).log = s.log := rfl
@[simp] theorem State.modInfield_mgt : (s.modInfield f).mgt = s.mgt := rfl
@[simp] theorem State.modInfield_pace : (s.modInfield f).pace = s.pace := rfl
@[simp] theorem State.modInfield_sram : (s.modInfield f).sram = s.sram := rfl
@[simp] theorem State.modInfield_parts : (s.modInfield f).parts = s.parts := rfl
@[simp] theorem State.modInfield_jobs : (s.modInfield f).jobs = s.jobs := rfl
@[simp] theorem State.modInfield_units : (s.modInfield f).units = s.units := rfl
@[simp] theorem State.modInfield_seqTurn : (s.modInfield f).seqTurn = s.seqTurn := rfl
@[simp] theorem State.modInfield_pe : (s.modInfield f).pe = s.pe := rfl
@[simp] theorem State.modInfield_links : (s.modInfield f).links = s.links := rfl
@[simp] theorem State.modInfield_infield : (s.modInfield f).infield = f s.infield := rfl
@[simp] theorem State.modInfield_hiu : (s.modInfield f).hiu = s.hiu := rfl
@[simp] theorem State.modInfield_fns : (s.modInfield f).fns = s.fns := rfl
@[simp] theorem State.modInfield_host : (s.modInfield f).host = s.host := rfl
@[simp] theorem State.modInfield_svc : (s.modInfield f).svc = s.svc := rfl
@[simp] theorem State.modInfield_side : (s.modInfield f).side = s.side := rfl
@[simp] theorem State.modInfield_fresh : (s.modInfield f).fresh = s.fresh := rfl
@[simp] theorem State.modInfield_part (p' : PartId) : (s.modInfield f).part p' = s.part p' := rfl
@[simp] theorem State.modInfield_link (l' : LinkId) : (s.modInfield f).link l' = s.link l' := rfl
@[simp] theorem State.modInfield_fn (n' : FnId) : (s.modInfield f).fn n' = s.fn n' := rfl
end

/-! modHiu. -/

section
variable (f : Hiu → Hiu)
@[simp] theorem State.modHiu_pending : (s.modHiu f).pending = s.pending := rfl
@[simp] theorem State.modHiu_power : (s.modHiu f).power = s.power := rfl
@[simp] theorem State.modHiu_boot : (s.modHiu f).boot = s.boot := rfl
@[simp] theorem State.modHiu_clock : (s.modHiu f).clock = s.clock := rfl
@[simp] theorem State.modHiu_log : (s.modHiu f).log = s.log := rfl
@[simp] theorem State.modHiu_mgt : (s.modHiu f).mgt = s.mgt := rfl
@[simp] theorem State.modHiu_pace : (s.modHiu f).pace = s.pace := rfl
@[simp] theorem State.modHiu_sram : (s.modHiu f).sram = s.sram := rfl
@[simp] theorem State.modHiu_parts : (s.modHiu f).parts = s.parts := rfl
@[simp] theorem State.modHiu_jobs : (s.modHiu f).jobs = s.jobs := rfl
@[simp] theorem State.modHiu_units : (s.modHiu f).units = s.units := rfl
@[simp] theorem State.modHiu_seqTurn : (s.modHiu f).seqTurn = s.seqTurn := rfl
@[simp] theorem State.modHiu_pe : (s.modHiu f).pe = s.pe := rfl
@[simp] theorem State.modHiu_links : (s.modHiu f).links = s.links := rfl
@[simp] theorem State.modHiu_infield : (s.modHiu f).infield = s.infield := rfl
@[simp] theorem State.modHiu_hiu : (s.modHiu f).hiu = f s.hiu := rfl
@[simp] theorem State.modHiu_fns : (s.modHiu f).fns = s.fns := rfl
@[simp] theorem State.modHiu_host : (s.modHiu f).host = s.host := rfl
@[simp] theorem State.modHiu_svc : (s.modHiu f).svc = s.svc := rfl
@[simp] theorem State.modHiu_side : (s.modHiu f).side = s.side := rfl
@[simp] theorem State.modHiu_fresh : (s.modHiu f).fresh = s.fresh := rfl
@[simp] theorem State.modHiu_part (p' : PartId) : (s.modHiu f).part p' = s.part p' := rfl
@[simp] theorem State.modHiu_link (l' : LinkId) : (s.modHiu f).link l' = s.link l' := rfl
@[simp] theorem State.modHiu_fn (n' : FnId) : (s.modHiu f).fn n' = s.fn n' := rfl
end

/-! modSvc. -/

section
variable (f : Svc → Svc)
@[simp] theorem State.modSvc_pending : (s.modSvc f).pending = s.pending := rfl
@[simp] theorem State.modSvc_power : (s.modSvc f).power = s.power := rfl
@[simp] theorem State.modSvc_boot : (s.modSvc f).boot = s.boot := rfl
@[simp] theorem State.modSvc_clock : (s.modSvc f).clock = s.clock := rfl
@[simp] theorem State.modSvc_log : (s.modSvc f).log = s.log := rfl
@[simp] theorem State.modSvc_mgt : (s.modSvc f).mgt = s.mgt := rfl
@[simp] theorem State.modSvc_pace : (s.modSvc f).pace = s.pace := rfl
@[simp] theorem State.modSvc_sram : (s.modSvc f).sram = s.sram := rfl
@[simp] theorem State.modSvc_parts : (s.modSvc f).parts = s.parts := rfl
@[simp] theorem State.modSvc_jobs : (s.modSvc f).jobs = s.jobs := rfl
@[simp] theorem State.modSvc_units : (s.modSvc f).units = s.units := rfl
@[simp] theorem State.modSvc_seqTurn : (s.modSvc f).seqTurn = s.seqTurn := rfl
@[simp] theorem State.modSvc_pe : (s.modSvc f).pe = s.pe := rfl
@[simp] theorem State.modSvc_links : (s.modSvc f).links = s.links := rfl
@[simp] theorem State.modSvc_infield : (s.modSvc f).infield = s.infield := rfl
@[simp] theorem State.modSvc_hiu : (s.modSvc f).hiu = s.hiu := rfl
@[simp] theorem State.modSvc_fns : (s.modSvc f).fns = s.fns := rfl
@[simp] theorem State.modSvc_host : (s.modSvc f).host = s.host := rfl
@[simp] theorem State.modSvc_svc : (s.modSvc f).svc = f s.svc := rfl
@[simp] theorem State.modSvc_side : (s.modSvc f).side = s.side := rfl
@[simp] theorem State.modSvc_fresh : (s.modSvc f).fresh = s.fresh := rfl
@[simp] theorem State.modSvc_part (p' : PartId) : (s.modSvc f).part p' = s.part p' := rfl
@[simp] theorem State.modSvc_link (l' : LinkId) : (s.modSvc f).link l' = s.link l' := rfl
@[simp] theorem State.modSvc_fn (n' : FnId) : (s.modSvc f).fn n' = s.fn n' := rfl
end

/-! modClock. -/

section
variable (f : Clock → Clock)
@[simp] theorem State.modClock_pending : (s.modClock f).pending = s.pending := rfl
@[simp] theorem State.modClock_power : (s.modClock f).power = s.power := rfl
@[simp] theorem State.modClock_boot : (s.modClock f).boot = s.boot := rfl
@[simp] theorem State.modClock_clock : (s.modClock f).clock = f s.clock := rfl
@[simp] theorem State.modClock_log : (s.modClock f).log = s.log := rfl
@[simp] theorem State.modClock_mgt : (s.modClock f).mgt = s.mgt := rfl
@[simp] theorem State.modClock_pace : (s.modClock f).pace = s.pace := rfl
@[simp] theorem State.modClock_sram : (s.modClock f).sram = s.sram := rfl
@[simp] theorem State.modClock_parts : (s.modClock f).parts = s.parts := rfl
@[simp] theorem State.modClock_jobs : (s.modClock f).jobs = s.jobs := rfl
@[simp] theorem State.modClock_units : (s.modClock f).units = s.units := rfl
@[simp] theorem State.modClock_seqTurn : (s.modClock f).seqTurn = s.seqTurn := rfl
@[simp] theorem State.modClock_pe : (s.modClock f).pe = s.pe := rfl
@[simp] theorem State.modClock_links : (s.modClock f).links = s.links := rfl
@[simp] theorem State.modClock_infield : (s.modClock f).infield = s.infield := rfl
@[simp] theorem State.modClock_hiu : (s.modClock f).hiu = s.hiu := rfl
@[simp] theorem State.modClock_fns : (s.modClock f).fns = s.fns := rfl
@[simp] theorem State.modClock_host : (s.modClock f).host = s.host := rfl
@[simp] theorem State.modClock_svc : (s.modClock f).svc = s.svc := rfl
@[simp] theorem State.modClock_side : (s.modClock f).side = s.side := rfl
@[simp] theorem State.modClock_fresh : (s.modClock f).fresh = s.fresh := rfl
@[simp] theorem State.modClock_part (p' : PartId) : (s.modClock f).part p' = s.part p' := rfl
@[simp] theorem State.modClock_link (l' : LinkId) : (s.modClock f).link l' = s.link l' := rfl
@[simp] theorem State.modClock_fn (n' : FnId) : (s.modClock f).fn n' = s.fn n' := rfl
end

/-! modSram. -/

section
variable (f : Sram → Sram)
@[simp] theorem State.modSram_pending : (s.modSram f).pending = s.pending := rfl
@[simp] theorem State.modSram_power : (s.modSram f).power = s.power := rfl
@[simp] theorem State.modSram_boot : (s.modSram f).boot = s.boot := rfl
@[simp] theorem State.modSram_clock : (s.modSram f).clock = s.clock := rfl
@[simp] theorem State.modSram_log : (s.modSram f).log = s.log := rfl
@[simp] theorem State.modSram_mgt : (s.modSram f).mgt = s.mgt := rfl
@[simp] theorem State.modSram_pace : (s.modSram f).pace = s.pace := rfl
@[simp] theorem State.modSram_sram : (s.modSram f).sram = f s.sram := rfl
@[simp] theorem State.modSram_parts : (s.modSram f).parts = s.parts := rfl
@[simp] theorem State.modSram_jobs : (s.modSram f).jobs = s.jobs := rfl
@[simp] theorem State.modSram_units : (s.modSram f).units = s.units := rfl
@[simp] theorem State.modSram_seqTurn : (s.modSram f).seqTurn = s.seqTurn := rfl
@[simp] theorem State.modSram_pe : (s.modSram f).pe = s.pe := rfl
@[simp] theorem State.modSram_links : (s.modSram f).links = s.links := rfl
@[simp] theorem State.modSram_infield : (s.modSram f).infield = s.infield := rfl
@[simp] theorem State.modSram_hiu : (s.modSram f).hiu = s.hiu := rfl
@[simp] theorem State.modSram_fns : (s.modSram f).fns = s.fns := rfl
@[simp] theorem State.modSram_host : (s.modSram f).host = s.host := rfl
@[simp] theorem State.modSram_svc : (s.modSram f).svc = s.svc := rfl
@[simp] theorem State.modSram_side : (s.modSram f).side = s.side := rfl
@[simp] theorem State.modSram_fresh : (s.modSram f).fresh = s.fresh := rfl
@[simp] theorem State.modSram_part (p' : PartId) : (s.modSram f).part p' = s.part p' := rfl
@[simp] theorem State.modSram_link (l' : LinkId) : (s.modSram f).link l' = s.link l' := rfl
@[simp] theorem State.modSram_fn (n' : FnId) : (s.modSram f).fn n' = s.fn n' := rfl
end

/-! modBoot. -/

section
variable (f : Boot → Boot)
@[simp] theorem State.modBoot_pending : (s.modBoot f).pending = s.pending := rfl
@[simp] theorem State.modBoot_power : (s.modBoot f).power = s.power := rfl
@[simp] theorem State.modBoot_boot : (s.modBoot f).boot = f s.boot := rfl
@[simp] theorem State.modBoot_clock : (s.modBoot f).clock = s.clock := rfl
@[simp] theorem State.modBoot_log : (s.modBoot f).log = s.log := rfl
@[simp] theorem State.modBoot_mgt : (s.modBoot f).mgt = s.mgt := rfl
@[simp] theorem State.modBoot_pace : (s.modBoot f).pace = s.pace := rfl
@[simp] theorem State.modBoot_sram : (s.modBoot f).sram = s.sram := rfl
@[simp] theorem State.modBoot_parts : (s.modBoot f).parts = s.parts := rfl
@[simp] theorem State.modBoot_jobs : (s.modBoot f).jobs = s.jobs := rfl
@[simp] theorem State.modBoot_units : (s.modBoot f).units = s.units := rfl
@[simp] theorem State.modBoot_seqTurn : (s.modBoot f).seqTurn = s.seqTurn := rfl
@[simp] theorem State.modBoot_pe : (s.modBoot f).pe = s.pe := rfl
@[simp] theorem State.modBoot_links : (s.modBoot f).links = s.links := rfl
@[simp] theorem State.modBoot_infield : (s.modBoot f).infield = s.infield := rfl
@[simp] theorem State.modBoot_hiu : (s.modBoot f).hiu = s.hiu := rfl
@[simp] theorem State.modBoot_fns : (s.modBoot f).fns = s.fns := rfl
@[simp] theorem State.modBoot_host : (s.modBoot f).host = s.host := rfl
@[simp] theorem State.modBoot_svc : (s.modBoot f).svc = s.svc := rfl
@[simp] theorem State.modBoot_side : (s.modBoot f).side = s.side := rfl
@[simp] theorem State.modBoot_fresh : (s.modBoot f).fresh = s.fresh := rfl
@[simp] theorem State.modBoot_part (p' : PartId) : (s.modBoot f).part p' = s.part p' := rfl
@[simp] theorem State.modBoot_link (l' : LinkId) : (s.modBoot f).link l' = s.link l' := rfl
@[simp] theorem State.modBoot_fn (n' : FnId) : (s.modBoot f).fn n' = s.fn n' := rfl
end

/-! modLog. -/

section
variable (f : TroubleLog → TroubleLog)
@[simp] theorem State.modLog_pending : (s.modLog f).pending = s.pending := rfl
@[simp] theorem State.modLog_power : (s.modLog f).power = s.power := rfl
@[simp] theorem State.modLog_boot : (s.modLog f).boot = s.boot := rfl
@[simp] theorem State.modLog_clock : (s.modLog f).clock = s.clock := rfl
@[simp] theorem State.modLog_log : (s.modLog f).log = f s.log := rfl
@[simp] theorem State.modLog_mgt : (s.modLog f).mgt = s.mgt := rfl
@[simp] theorem State.modLog_pace : (s.modLog f).pace = s.pace := rfl
@[simp] theorem State.modLog_sram : (s.modLog f).sram = s.sram := rfl
@[simp] theorem State.modLog_parts : (s.modLog f).parts = s.parts := rfl
@[simp] theorem State.modLog_jobs : (s.modLog f).jobs = s.jobs := rfl
@[simp] theorem State.modLog_units : (s.modLog f).units = s.units := rfl
@[simp] theorem State.modLog_seqTurn : (s.modLog f).seqTurn = s.seqTurn := rfl
@[simp] theorem State.modLog_pe : (s.modLog f).pe = s.pe := rfl
@[simp] theorem State.modLog_links : (s.modLog f).links = s.links := rfl
@[simp] theorem State.modLog_infield : (s.modLog f).infield = s.infield := rfl
@[simp] theorem State.modLog_hiu : (s.modLog f).hiu = s.hiu := rfl
@[simp] theorem State.modLog_fns : (s.modLog f).fns = s.fns := rfl
@[simp] theorem State.modLog_host : (s.modLog f).host = s.host := rfl
@[simp] theorem State.modLog_svc : (s.modLog f).svc = s.svc := rfl
@[simp] theorem State.modLog_side : (s.modLog f).side = s.side := rfl
@[simp] theorem State.modLog_fresh : (s.modLog f).fresh = s.fresh := rfl
@[simp] theorem State.modLog_part (p' : PartId) : (s.modLog f).part p' = s.part p' := rfl
@[simp] theorem State.modLog_link (l' : LinkId) : (s.modLog f).link l' = s.link l' := rfl
@[simp] theorem State.modLog_fn (n' : FnId) : (s.modLog f).fn n' = s.fn n' := rfl
end

/-! modJob. -/

section
variable (id : Nat) (f : Job → Job)
@[simp] theorem State.modJob_pending : (s.modJob id f).pending = s.pending := rfl
@[simp] theorem State.modJob_power : (s.modJob id f).power = s.power := rfl
@[simp] theorem State.modJob_boot : (s.modJob id f).boot = s.boot := rfl
@[simp] theorem State.modJob_clock : (s.modJob id f).clock = s.clock := rfl
@[simp] theorem State.modJob_log : (s.modJob id f).log = s.log := rfl
@[simp] theorem State.modJob_mgt : (s.modJob id f).mgt = s.mgt := rfl
@[simp] theorem State.modJob_pace : (s.modJob id f).pace = s.pace := rfl
@[simp] theorem State.modJob_sram : (s.modJob id f).sram = s.sram := rfl
@[simp] theorem State.modJob_parts : (s.modJob id f).parts = s.parts := rfl
@[simp] theorem State.modJob_units : (s.modJob id f).units = s.units := rfl
@[simp] theorem State.modJob_seqTurn : (s.modJob id f).seqTurn = s.seqTurn := rfl
@[simp] theorem State.modJob_pe : (s.modJob id f).pe = s.pe := rfl
@[simp] theorem State.modJob_links : (s.modJob id f).links = s.links := rfl
@[simp] theorem State.modJob_infield : (s.modJob id f).infield = s.infield := rfl
@[simp] theorem State.modJob_hiu : (s.modJob id f).hiu = s.hiu := rfl
@[simp] theorem State.modJob_fns : (s.modJob id f).fns = s.fns := rfl
@[simp] theorem State.modJob_host : (s.modJob id f).host = s.host := rfl
@[simp] theorem State.modJob_svc : (s.modJob id f).svc = s.svc := rfl
@[simp] theorem State.modJob_side : (s.modJob id f).side = s.side := rfl
@[simp] theorem State.modJob_fresh : (s.modJob id f).fresh = s.fresh := rfl
@[simp] theorem State.modJob_part (p' : PartId) : (s.modJob id f).part p' = s.part p' := rfl
@[simp] theorem State.modJob_link (l' : LinkId) : (s.modJob id f).link l' = s.link l' := rfl
@[simp] theorem State.modJob_fn (n' : FnId) : (s.modJob id f).fn n' = s.fn n' := rfl
end

/-! The log's input queue (hand, logs, logAt): only the log changes. -/

theorem State.hand_eq (c : W16) (v : Nat) (b : LogBody) (k : Nat) : s.hand c v b k = { s with log := (s.hand c v b k).log } := by
  unfold State.hand; split <;> rfl

@[simp] theorem State.hand_pending (c : W16) (v : Nat) (b : LogBody) (k : Nat) : (s.hand c v b k).pending = s.pending := by rw [State.hand_eq]
@[simp] theorem State.hand_power (c : W16) (v : Nat) (b : LogBody) (k : Nat) : (s.hand c v b k).power = s.power := by rw [State.hand_eq]
@[simp] theorem State.hand_boot (c : W16) (v : Nat) (b : LogBody) (k : Nat) : (s.hand c v b k).boot = s.boot := by rw [State.hand_eq]
@[simp] theorem State.hand_clock (c : W16) (v : Nat) (b : LogBody) (k : Nat) : (s.hand c v b k).clock = s.clock := by rw [State.hand_eq]
@[simp] theorem State.hand_mgt (c : W16) (v : Nat) (b : LogBody) (k : Nat) : (s.hand c v b k).mgt = s.mgt := by rw [State.hand_eq]
@[simp] theorem State.hand_pace (c : W16) (v : Nat) (b : LogBody) (k : Nat) : (s.hand c v b k).pace = s.pace := by rw [State.hand_eq]
@[simp] theorem State.hand_sram (c : W16) (v : Nat) (b : LogBody) (k : Nat) : (s.hand c v b k).sram = s.sram := by rw [State.hand_eq]
@[simp] theorem State.hand_parts (c : W16) (v : Nat) (b : LogBody) (k : Nat) : (s.hand c v b k).parts = s.parts := by rw [State.hand_eq]
@[simp] theorem State.hand_jobs (c : W16) (v : Nat) (b : LogBody) (k : Nat) : (s.hand c v b k).jobs = s.jobs := by rw [State.hand_eq]
@[simp] theorem State.hand_units (c : W16) (v : Nat) (b : LogBody) (k : Nat) : (s.hand c v b k).units = s.units := by rw [State.hand_eq]
@[simp] theorem State.hand_seqTurn (c : W16) (v : Nat) (b : LogBody) (k : Nat) : (s.hand c v b k).seqTurn = s.seqTurn := by rw [State.hand_eq]
@[simp] theorem State.hand_pe (c : W16) (v : Nat) (b : LogBody) (k : Nat) : (s.hand c v b k).pe = s.pe := by rw [State.hand_eq]
@[simp] theorem State.hand_links (c : W16) (v : Nat) (b : LogBody) (k : Nat) : (s.hand c v b k).links = s.links := by rw [State.hand_eq]
@[simp] theorem State.hand_infield (c : W16) (v : Nat) (b : LogBody) (k : Nat) : (s.hand c v b k).infield = s.infield := by rw [State.hand_eq]
@[simp] theorem State.hand_hiu (c : W16) (v : Nat) (b : LogBody) (k : Nat) : (s.hand c v b k).hiu = s.hiu := by rw [State.hand_eq]
@[simp] theorem State.hand_fns (c : W16) (v : Nat) (b : LogBody) (k : Nat) : (s.hand c v b k).fns = s.fns := by rw [State.hand_eq]
@[simp] theorem State.hand_host (c : W16) (v : Nat) (b : LogBody) (k : Nat) : (s.hand c v b k).host = s.host := by rw [State.hand_eq]
@[simp] theorem State.hand_svc (c : W16) (v : Nat) (b : LogBody) (k : Nat) : (s.hand c v b k).svc = s.svc := by rw [State.hand_eq]
@[simp] theorem State.hand_side (c : W16) (v : Nat) (b : LogBody) (k : Nat) : (s.hand c v b k).side = s.side := by rw [State.hand_eq]
@[simp] theorem State.hand_fresh (c : W16) (v : Nat) (b : LogBody) (k : Nat) : (s.hand c v b k).fresh = s.fresh := by rw [State.hand_eq]
@[simp] theorem State.logs_pending (c : W16) (v k : Nat) : (s.logs c v k).pending = s.pending := s.hand_pending c v _ k
@[simp] theorem State.logs_power (c : W16) (v k : Nat) : (s.logs c v k).power = s.power := s.hand_power c v _ k
@[simp] theorem State.logs_boot (c : W16) (v k : Nat) : (s.logs c v k).boot = s.boot := s.hand_boot c v _ k
@[simp] theorem State.logs_clock (c : W16) (v k : Nat) : (s.logs c v k).clock = s.clock := s.hand_clock c v _ k
@[simp] theorem State.logs_mgt (c : W16) (v k : Nat) : (s.logs c v k).mgt = s.mgt := s.hand_mgt c v _ k
@[simp] theorem State.logs_pace (c : W16) (v k : Nat) : (s.logs c v k).pace = s.pace := s.hand_pace c v _ k
@[simp] theorem State.logs_sram (c : W16) (v k : Nat) : (s.logs c v k).sram = s.sram := s.hand_sram c v _ k
@[simp] theorem State.logs_parts (c : W16) (v k : Nat) : (s.logs c v k).parts = s.parts := s.hand_parts c v _ k
@[simp] theorem State.logs_jobs (c : W16) (v k : Nat) : (s.logs c v k).jobs = s.jobs := s.hand_jobs c v _ k
@[simp] theorem State.logs_units (c : W16) (v k : Nat) : (s.logs c v k).units = s.units := s.hand_units c v _ k
@[simp] theorem State.logs_seqTurn (c : W16) (v k : Nat) : (s.logs c v k).seqTurn = s.seqTurn := s.hand_seqTurn c v _ k
@[simp] theorem State.logs_pe (c : W16) (v k : Nat) : (s.logs c v k).pe = s.pe := s.hand_pe c v _ k
@[simp] theorem State.logs_links (c : W16) (v k : Nat) : (s.logs c v k).links = s.links := s.hand_links c v _ k
@[simp] theorem State.logs_infield (c : W16) (v k : Nat) : (s.logs c v k).infield = s.infield := s.hand_infield c v _ k
@[simp] theorem State.logs_hiu (c : W16) (v k : Nat) : (s.logs c v k).hiu = s.hiu := s.hand_hiu c v _ k
@[simp] theorem State.logs_fns (c : W16) (v k : Nat) : (s.logs c v k).fns = s.fns := s.hand_fns c v _ k
@[simp] theorem State.logs_host (c : W16) (v k : Nat) : (s.logs c v k).host = s.host := s.hand_host c v _ k
@[simp] theorem State.logs_svc (c : W16) (v k : Nat) : (s.logs c v k).svc = s.svc := s.hand_svc c v _ k
@[simp] theorem State.logs_side (c : W16) (v k : Nat) : (s.logs c v k).side = s.side := s.hand_side c v _ k
@[simp] theorem State.logs_fresh (c : W16) (v k : Nat) : (s.logs c v k).fresh = s.fresh := s.hand_fresh c v _ k
@[simp] theorem State.logAt_pending (c : W16) (v : Nat) (r : Loc) : (s.logAt c v r).pending = s.pending := s.hand_pending c v _ _
@[simp] theorem State.logAt_power (c : W16) (v : Nat) (r : Loc) : (s.logAt c v r).power = s.power := s.hand_power c v _ _
@[simp] theorem State.logAt_boot (c : W16) (v : Nat) (r : Loc) : (s.logAt c v r).boot = s.boot := s.hand_boot c v _ _
@[simp] theorem State.logAt_clock (c : W16) (v : Nat) (r : Loc) : (s.logAt c v r).clock = s.clock := s.hand_clock c v _ _
@[simp] theorem State.logAt_mgt (c : W16) (v : Nat) (r : Loc) : (s.logAt c v r).mgt = s.mgt := s.hand_mgt c v _ _
@[simp] theorem State.logAt_pace (c : W16) (v : Nat) (r : Loc) : (s.logAt c v r).pace = s.pace := s.hand_pace c v _ _
@[simp] theorem State.logAt_sram (c : W16) (v : Nat) (r : Loc) : (s.logAt c v r).sram = s.sram := s.hand_sram c v _ _
@[simp] theorem State.logAt_parts (c : W16) (v : Nat) (r : Loc) : (s.logAt c v r).parts = s.parts := s.hand_parts c v _ _
@[simp] theorem State.logAt_jobs (c : W16) (v : Nat) (r : Loc) : (s.logAt c v r).jobs = s.jobs := s.hand_jobs c v _ _
@[simp] theorem State.logAt_units (c : W16) (v : Nat) (r : Loc) : (s.logAt c v r).units = s.units := s.hand_units c v _ _
@[simp] theorem State.logAt_seqTurn (c : W16) (v : Nat) (r : Loc) : (s.logAt c v r).seqTurn = s.seqTurn := s.hand_seqTurn c v _ _
@[simp] theorem State.logAt_pe (c : W16) (v : Nat) (r : Loc) : (s.logAt c v r).pe = s.pe := s.hand_pe c v _ _
@[simp] theorem State.logAt_links (c : W16) (v : Nat) (r : Loc) : (s.logAt c v r).links = s.links := s.hand_links c v _ _
@[simp] theorem State.logAt_infield (c : W16) (v : Nat) (r : Loc) : (s.logAt c v r).infield = s.infield := s.hand_infield c v _ _
@[simp] theorem State.logAt_hiu (c : W16) (v : Nat) (r : Loc) : (s.logAt c v r).hiu = s.hiu := s.hand_hiu c v _ _
@[simp] theorem State.logAt_fns (c : W16) (v : Nat) (r : Loc) : (s.logAt c v r).fns = s.fns := s.hand_fns c v _ _
@[simp] theorem State.logAt_host (c : W16) (v : Nat) (r : Loc) : (s.logAt c v r).host = s.host := s.hand_host c v _ _
@[simp] theorem State.logAt_svc (c : W16) (v : Nat) (r : Loc) : (s.logAt c v r).svc = s.svc := s.hand_svc c v _ _
@[simp] theorem State.logAt_side (c : W16) (v : Nat) (r : Loc) : (s.logAt c v r).side = s.side := s.hand_side c v _ _
@[simp] theorem State.logAt_fresh (c : W16) (v : Nat) (r : Loc) : (s.logAt c v r).fresh = s.fresh := s.hand_fresh c v _ _

theorem State.logRate_eq (h : HoldoffScope) (c : W16) (v k : Nat) : s.logRate h c v k = { s with log := (s.logRate h c v k).log } := by
  unfold State.logRate
  split
  · rfl
  · unfold State.logs; rw [State.hand_eq]; rfl

@[simp] theorem State.logs_part (c : W16) (v k : Nat) (p : PartId) : (s.logs c v k).part p = s.part p := by simp [State.part]
@[simp] theorem State.logs_link (c : W16) (v k : Nat) (l : LinkId) : (s.logs c v k).link l = s.link l := by simp [State.link]
@[simp] theorem State.logs_fn (c : W16) (v k : Nat) (n : FnId) : (s.logs c v k).fn n = s.fn n := by simp [State.fn]

end Sys2Proof.Machine
end

