-- ==== Sys2Proof/Tests/Slice0.lean ====
section
/-! SUPPORT. Tests: the checks of wellFormed, and small states that meet the hypotheses of the statements. -/

namespace Sys2Proof.Tests

open Sys2Proof Sys2Proof.Machine

/-! Small states. -/

/-- An image with nothing in it but a WAIT_LIMIT of 5. -/
def img : Image :=
  { partCount := 1, parkPart := none, minGrade := 0, slipBudget := 0, waitLimit := 5, featureReq := 0, name := [], maps := [], queues := []
    streams := [], lists := [], graphTargets := [], hurdles := [], plan := none, work := [], parkMap := none, points := [], inits := [] }
/-- A descriptor of VF1's ring 0, by its opcode and words 1 to 4. -/
def desc (op : Nat) (w1 w2 w3 w4 : W64) : Desc :=
  { fn := 1, origin := .ring 1 0, w := #v[BitVec.ofNat 64 (op * 2 ^ 56), w1, w2, w3, w4, 0, 0, 0] }
/-- A job of VF1 on P0 with an image. -/
def job (g : Image) (ph : JobPhase) : Job := { g.job 1 (desc 1 0 0 0 0) [0] with phase := ph }
/-- A command of a group and opcode, with words 3 to 7. -/
def cmd (grp op : Nat) (w3 w4 w5 w6 w7 : W64) : Cmd :=
  { w := #v[BitVec.ofNat 64 (grp * 2 ^ 60 + op * 2 ^ 52), 0, 0, w3, w4, w5, w6, w7] }
def issued (c : Cmd) : Issued := { cmd := c, index := 0, iter := 0, src := .stream 0 }
/-- A map whose one region is the first 8,192 bytes of the partition, with every kind for every tile. -/
def map1 : AllocMap :=
  { count := 1, jobPart := 0, linkOwn := 0, digest := 0, entries := [mkMapEntry 0xFFFFFFFF 15 Purpose.tensor 0x7F 2 0] }

/-- The standby domain after its power-on reset, before any firmware. -/
def rom : State := { State.reset with
  power := { Power.reset with porReleased := true }
  boot := { Boot.reset with mode := .rom } }
/-- The package with its supplies, its firmware and its links up, and lane 17 of every receiver spare. -/
def on : State := { State.reset with
  power := { Power.reset with porReleased := true, mainPg := true }
  boot := { Boot.reset with mode := .running }
  links := Vector.replicate 6 { Link.reset with
    stage := .up, enable := true, present := true, rx := { Lanes.reset with states := vset Lanes.reset.states 17 .spare } } }
/-- A job on P0, which VF1 owns, in a state, with map1. -/
def busy (st : PState) (j : Job) (q : Partition) : State := { on with
  jobs := [j]
  parts := vset on.parts 0 { q with st := st, job := some j.id, owner := some 1, mapA := some map1, mapB := some map1, mapGold := some map1 } }
/-- A job in RUN whose engine of tile 0 has a command at its front. -/
def engine (e : EngineKind) (c : Cmd) : State :=
  busy .run (job img .run) { Partition.reset with
    engines := [{ tile := 0, kind := e, streamQ := [issued c], graphQ := [], running := none, turn := .stream }] }
/-- A state with a link changed. -/
def onLink (f : Link → Link) : State := on.modLink 0 f
/-- A state with the port up and a descriptor for the Management Complex. -/
def mcWith (s : State) (d : Desc) : State := { s with
  hiu := { s.hiu with port := .up, mcQueue := [d] }
  fns := vmod s.fns 0 (fun f => { f with setupLock := true }) }
/-- The same for the Ring Engine. -/
def reWith (s : State) (d : Desc) : State := { s with
  hiu := { s.hiu with port := .up, reQueue := [d] }
  fns := vmod s.fns 0 (fun f => { f with setupLock := true }) }

/-! The checks of wellFormed, each with a term that it refuses. -/

theorem test_wf_register_size : wellFormed (.registerWrite 0 0 3 0) = false := by decide
theorem test_wf_register_value : wellFormed (.registerWrite 0 0 4 0x100000000) = false := by decide
theorem test_wf_snoop_address : wellFormed (.doorbellSnoop 0 false 0 [(2 ^ 64, 0)]) = false := by decide
theorem test_wf_poll_address : wellFormed (.doorbellPoll 0 false 0 [(2 ^ 64, 0)]) = false := by decide
theorem test_wf_sq_enable_address : wellFormed (.ringSqEnable 0 0 [(2 ^ 64, 0)]) = false := by decide
theorem test_wf_cq_enable_address : wellFormed (.ringCqEnable 0 0 [(2 ^ 64, 0)]) = false := by decide
theorem test_wf_accepts : wellFormed (.registerWrite 0 0x10000 4 3) = true ∧ wellFormed (.doorbellPoll 1 true 2 [(64, 1)]) = true := by decide
/-- An access of 3 bytes is ignored and logged (R5). -/
theorem test_ill_formed_is_logged : exec (.registerWrite 0 0 3 0) on = .next (on.logs Code.regAccess 0) := rfl

/-! The queue and the invariant (O1 to O10). -/

theorem test_queue_has_a_front : ({ on with pending := [.mainLow] } : State).pending = .mainLow :: [] := rfl
theorem test_empty_queue : on.pending = [] ∧ on.power.mainPg = true ∧ on.pace.refsLost = false ∧ rom.power.mainPg = false := by decide
theorem test_inv_on : on.Inv := by
  refine ⟨by decide, by decide, by decide, by decide, by decide, ?_⟩
  constructor <;> decide
theorem test_step_answers : ∃ t, step on = .next t := ⟨_, rfl⟩
theorem test_row_answers : ∃ t, exec .mainLow on = .next t := ⟨_, rfl⟩
theorem test_input_queue_has_room : on.log.input.length < 256 := by decide
theorem test_input_queue_full :
    256 ≤ (List.replicate 256 ({ code := 1, pinned := false, vf := 0, seq := 0, time := 0, body := .count 0, beat := none, place := 0 } : LogEntry)).length :=
  Nat.le_of_eq List.length_replicate.symm
theorem test_neutral_row : mayMoveTime .mainLow = false ∧ mayRestart .mainLow = false ∧ mayChangeKeys .mainLow = false ∧ coldStarts .mainLow = false := by
  decide
/-- A log with a pinned entry in slot 0. -/
def pinned : State := { on with
  log := { TroubleLog.reset with
    head := 1, pinned := 1, slots := [(0, { code := 0x5007, pinned := true, vf := 0, seq := 0, time := 0, body := .count 0, beat := none, place := 0 })] } }
theorem test_inv_pinned : pinned.Inv := by
  refine ⟨by decide, by decide, by decide, by decide, by decide, ?_⟩
  constructor <;> decide
theorem test_pinned_slot : ∃ e, pinned.log.slot? 0 = some e ∧ e.pinned = true ∧ ∃ t, exec .mainLow pinned = .next t := ⟨_, rfl, rfl, _, rfl⟩

/-! Power, clocks, boot and resets (O11 to O20). -/

theorem test_supply_warnings : on.power.mainLow = false ∧ rom.power.stbyEpisode = false ∧ rom.power.porReleased = true ∧
    (3000 ≤ (3100 : BitVec 13).toNat ∧ (3100 : BitVec 13).toNat < 3135) ∧ 3135 ≤ (3300 : BitVec 13).toNat ∧ (3300 : BitVec 13).toNat ≤ 3465 := by
  decide
theorem test_no_hot_sensor : ∀ q ∈ on.power.sensors.toList, q.failed = false → q.sampled = true → q.last.toInt < 720 := by decide
theorem test_hot_sensor : ∃ q ∈ ({ on.power with
    sensors := vset on.power.sensors 0 { last := 800, sampled := true, failed := false, hot := false } } : Power).sensors.toList,
    q.failed = false ∧ q.sampled = true ∧ 720 ≤ q.last.toInt := by decide
theorem test_conversion_may_start : rom.power.porReleased = true ∧ rom.power.mainPg = false ∧ rom.power.mainEn = true ∧ rom.power.trip = false ∧
    rom.power.overcurrent = false := by decide
theorem test_sensors_not_hot : ∀ i : Fin 64, on.power.sensors[i].hot = false := by decide
theorem test_standby_off : State.reset.power.porReleased = false := rfl
theorem test_references : on.pace.localref = false ∧ on.clock.fallback = false ∧ ({ on.pace with localref := true } : Pacer).localref = true := by decide
theorem test_port_stages : on.hiu.port ≠ .up ∧ on.hiu.port = .reset ∧ ({ on.hiu with port := .detect } : Hiu).downEpisode = false := by decide
theorem test_port_option : (1 ≤ (3 : BitVec 4).toNat ∧ (3 : BitVec 4).toNat ≤ 3) ∧ ((16 : BitVec 5) = 4 ∨ (16 : BitVec 5) = 8 ∨ (16 : BitVec 5) = 16) := by decide
theorem test_function_reset : (1 : FnId) ≠ 0 ∧ on.mgt.task = none ∧ on.boot.stage ≠ .reading ∧ (∀ j ∈ on.jobs, j.fn = 1 → j.phase = .faulted) :=
  ⟨by decide, rfl, by decide, by decide⟩
/-- No slot of an empty flash passes; that one passes rests on the firmware key, which is an implementation's. -/
theorem test_boot_of_empty_flash : rom.boot.mode = .rom ∧ rom.landsCut = false ∧ (∃ c, rom.boot.slot rom.boot.activeB = .error c) ∧
    (∃ c, rom.boot.slot (!rom.boot.activeB) = .error c) := ⟨rfl, by decide, ⟨_, rfl⟩, _, rfl⟩
theorem test_update_may_start : on.boot.stage = .idle ∧ on.boot.mode = .running ∧ on.mgt.loads = [] ∧ on.hiu.mcQueue = [] := ⟨rfl, rfl, rfl, rfl⟩
theorem test_update_switches : ∀ b : Boot, b = { on.boot with stage := .switching } →
    b.slotAt (!b.slotB) + b.staged.length ≤ Config.flashSize → b.stage = .switching ∧ on.side.i3cHeld = [] ∧ on.mgt.poisons = [] := by
  rintro b rfl _; exact ⟨rfl, rfl, rfl⟩
theorem test_mc_reset : on.fwServes = true ∧ on.mcOpen = [] ∧ on.svc.requests = [] ∧ on.infield.requests = [] := ⟨rfl, rfl, rfl, rfl⟩
theorem test_units : on.inHold (.tile 0) = false ∧ ({ on with units := { on.units with hold := [.tile 0] } } : State).inHold (.tile 0) = true ∧
    (∀ p ∈ dieParts 0, (on.part p).st ≠ .run) ∧ (∀ p ∈ dieParts 0, (on.part p).pointQ = []) := by decide
/-- A job in RUN whose vector engine of tile 0 runs a command. -/
def running : State := busy .run (job img .run) { Partition.reset with
  engines := [{ tile := 0, kind := .vector, streamQ := [], graphQ := [], turn := .stream
                running := some { cmd := issued (cmd 2 1 0 0 0 0 0), payload := 0 } }] }
theorem test_tile_of_a_job : (running.part 0).st = .run ∧ running.jobOf 0 = some (job img .run) ∧ (job img .run).phase ≠ .faulted :=
  ⟨rfl, rfl, by decide⟩
theorem test_started_command : ∃ r, running.startedCommand (.tile 0) = some (0, r) := ⟨_, rfl⟩

/-! The pace (O21 to O24). -/

/-- A follower of link 0 in a domain with link 1 below it. -/
def follower : State := { on with
  pace := { Pacer.reset with
    missedMarks := 4, domain := some { id := 1, treeDepth := 1, pkgDepth := 1, parent := some 0, children := 2, hopDelay := 10 } } }
theorem test_mark_count : on.pace.count.toNat % 4096 = 0 ∧ ({ on.pace with count := 5 } : Pacer).count.toNat % 4096 ≠ 0 ∧
    on.power.powerStretch = false ∧ on.pace.rackrefBack = false ∧ on.clock.paceFrozen = false ∧ on.pace.domain = none := by decide
theorem test_follower : ∃ d, follower.pace.domain = some d ∧ d.parent = some 0 ∧ follower.up 0 = true ∧ 4 ≤ follower.pace.missedMarks :=
  ⟨_, rfl, rfl, rfl, by decide⟩
theorem test_grade_outstanding : ∀ p : Pacer, p = { on.pace with outstanding := some (3, 8) } → p.outstanding = some (3, 8) ∧ p.count.toNat < 8 := by
  rintro p rfl; decide
theorem test_first_copy : (follower.firstCopy 1 PaceKind.report (reportBody 3 true)).2 = true ∧
    ((follower.firstCopy 1 PaceKind.report (reportBody 3 true)).1.firstCopy 1 PaceKind.report (reportBody 3 true)).2 = false ∧
    (follower.firstCopy 0 PaceKind.grade (gradeBody 2 500)).2 = true ∧ follower.treeLink 0 = true ∧ follower.pace.count.toNat < follower.expand32 500 := by
  decide
/-- A plan of one table of 4,096 beats, with one burst of one slot at slot 0 of link 0, and its set. -/
def set0 : TableSet :=
  { link := 0, rx := false, ring := 0, peerRank := 0, tables := [(0, 1)], segs := [0x20000000], xfers := [Transfer.zero] }
def plan0 : PlanDef := { planId := 0, seq := [0], avoid := [], sets := [set0] }
def planImg : Image := { img with plan := some { lapLen := [4096], loopEntry := 0, plans := [plan0] } }
def lap0 (start : Nat) : LapState :=
  { entry := 0, rep := 0, lapIndex := 0, lapStart := start, table := 0, length := 4096, held := false, paused := false, waits := false, ended := false
    baseEntry := 0, baseLap := 0, prevStart := 0, prevHeld := false, heldAfter := [], met := start }
def planJob (start : Nat) : Job := { job planImg .run with lap := some (lap0 start) }
/-- A job in RUN with the plan, which owns link 0, at a pace count. -/
def planned (start count : Nat) : State :=
  { (busy .run (planJob start) Partition.reset).modLink 0 (fun k => { k with owner := some 1, tableA := some plan0, tableB := some plan0 }) with
    pace := { Pacer.reset with count := BitVec.ofNat 64 count } }
theorem test_lap_boundary : (planned 0 4096).jobOfLead 0 = some (planJob 0) ∧ (planned 0 4096).job? 1 = some (planJob 0) ∧
    (planJob 0).activePlan = some plan0 ∧ (planJob 0).lap = some (lap0 0) ∧ (lap0 0).lapStart + (lap0 0).length ≤ (planned 0 4096).pace.count.toNat ∧
    (∃ k, (planJob 0).image.plan = some k ∧ k.next plan0 0 0 = some (0, 0)) ∧ (planned 0 4096).holdDue (lap0 0) 4096 = none ∧
    (planJob 0).image.hurdles[(planJob 0).nextHurdle]? = none := ⟨rfl, rfl, rfl, rfl, by decide, ⟨_, rfl, rfl⟩, rfl, rfl⟩
theorem test_slip_target : ∃ n, (planned 0 8).slipTarget (planJob 0) 8 = some n ∧ (planned 0 8).armed n = false ∧ (planned 0 8).pace.count.toNat < n :=
  ⟨4096, by decide, by decide, by decide⟩
theorem test_snapshot_count : on.pace.count.toNat % 2 ^ 27 = 0 ∧ ∀ j ∈ on.jobs, j.phase ≠ .run := by decide

/-! Links (O25 to O31). -/

theorem test_burst_ahead : (planned 2 0).up 0 = true ∧ (planned 2 0).ownerRun 0 = some (planJob 2) ∧
    (∃ x, (planned 2 0).spanAhead (planJob 2) 2 = some x ∧ x.held = false ∧ 2 - x.start = 0 ∧
      (planned 2 0).readTables 0 (planJob 2) false x 0 = (planned 2 0, some (some set0)) ∧ segAt 0 (set0.segsOf x.table) = some (0, 0x20000000)) ∧
    segKind 0x20000000 = Seg.burst ∧ set0.xfer? (segXfer 0x20000000) = some Transfer.zero ∧ (planned 2 0).pace.count.toNat + 2 = 2 ∧
    (planJob 2).boundAt Transfer.zero.number ((planJob 2).occNumber set0 Transfer.zero.number 0 0) = none :=
  ⟨rfl, rfl, ⟨_, rfl, rfl, rfl, rfl, rfl⟩, by decide, rfl, by decide, rfl⟩
/-- A link with one frame unacknowledged. -/
def entry0 : ReplayEntry := { seq := 0, body := FrameBody.null, spilled := none }
theorem test_idle_link : on.up 0 = true ∧ on.ownerRun 0 = none ∧ (on.link 0).backlog = [] ∧ on.infield.transit = [] :=
  ⟨rfl, rfl, rfl, rfl⟩
theorem test_backlog : ((onLink (fun k => { k with unacked := [entry0], replayPtr := some 0 })).link 0).backlog = [entry0] := rfl
theorem test_deferred_ready : ∃ d : Deferred, d.ready = true ∧
    ((onLink (fun k => { k with deferred := [d] })).link 0).deferred.head? = some d :=
  ⟨{ lead := 0, occ := { lapIndex := 0, slot := 0, seqEntry := 0, table := 0, xfer := 0, len := 1 }, transfer := 0, number := 0
     ready := true, nextSlot := 0 }, rfl, rfl⟩
theorem test_replay_timer : ((onLink (fun k => { k with unacked := [entry0] })).link 0).unacked.head? = some entry0 ∧
    ((onLink (fun k => { k with unacked := [entry0] })).link 0).backlog = [] ∧ (on.link 0).timeouts < 7 := ⟨rfl, rfl, by decide⟩
theorem test_link_without_work : on.infield.transit = [] ∧ on.infield.requests = [] ∧ on.jobs = [] ∧ on.treeLink 0 = false ∧
    (on.link 0).present = true ∧ on.landsCut = false := by
  decide
theorem test_link_down : ((onLink (fun k => { k with stage := .down })).link 0).stage = .down ∧
    ((onLink (fun k => { k with stage := .down })).link 0).enable = true := by decide
theorem test_lanes : (on.link 0).rx.states[(17 : LaneIx)] = .spare ∧ (on.link 0).rx.states[(3 : LaneIx)] = .active ∧
    (List.finRange 16).find? (fun n => (on.link 0).rx.logical[n] == (3 : LaneIx)) = some 3 ∧
    (on.link 0).rx.pendingSwap.any (fun x => x.lane == 3) = false ∧ (on.link 0).rx.pendingSwap.length < (on.link 0).rx.spares := by decide
theorem test_lane_swap : ∀ s : State, s = onLink (fun k => { k with
      tx := { k.tx with states := vset k.tx.states 16 .spare, pendingSwap := [{ lane := 3, kind := .noisy, at_ := some 0 }] } }) →
    (s.link 0).tx.pendingSwap = [{ lane := 3, kind := .noisy, at_ := some 0 }] ∧ 0 ≤ s.pace.count.toNat ∧
    (s.link 0).tx.nextSpare = some 16 := by rintro s rfl; decide
theorem test_listen : ((onLink (fun k => { k with stage := .listen })).link 0).stage = .listen ∧ (on.link 0).waiting = false ∧
    (on.link 0).absentLogged = false ∧ fld (0x00645A01 : BitVec 256) 15 0 = 0x5A01 ∧ fld (0x00645A01 : BitVec 256) 31 16 ≤ 250 := by decide
/-- A machine of 8 x 8 x 8 packages, this one at (1, 1, 1), whose link 0 expects the neighbour's link 1. -/
def placed0 (st : Stage) : State :=
  { onLink (fun k => { k with stage := st, peerExpect := 0x80010110 }) with mgt := { on.mgt with topology := 0x80080808, chipId := 0x80000111 } }
theorem test_align : (placed0 .align).idsValid = true ∧ ((placed0 .align).link 0).stage = .align ∧
    (((placed0 .align).link 0).tx.aligned (Vector.ofFn (fun i => { fault := none, inverted := false, txLane := i, level := 0 }))).enough = true ∧
    (((placed0 .align).link 0).rx.aligned (Vector.ofFn (fun i => { fault := none, inverted := false, txLane := i, level := 0 }))).enough = true ∧
    (((placed0 .align).link 0).tx.aligned (Vector.replicate 18 { fault := some .short, inverted := false, txLane := 0, level := 0 })).enough = false := by decide
theorem test_identify : bit ((placed0 .identify).link 0).peerExpect 31 = true ∧ ((placed0 .identify).link 0).conflict = false ∧
    fld ((placed0 .identify).link 0).peerExpect 18 16 = (1 : BitVec 3).toNat ∧
    fld ((placed0 .identify).link 0).peerExpect 12 0 = (0x110 : BitVec 13).toNat ∧ (placed0 .identify).mgt.machineId = 0 := by decide
theorem test_train : (((placed0 .train).link 0).tx.trained 0).enough = true ∧ (((placed0 .train).link 0).tx.trained (BitVec.allOnes 18)).enough = false := by
  decide
theorem test_check : ((placed0 .check).link 0).stage = .check ∧ (20 : BitVec 16).toNat ≤ 200 * 256 ∧ (∀ j ∈ (placed0 .check).jobs, j.phase ≠ .armed) := by
  decide
theorem test_expected_peer : (on.fn 0).setupLock = false ∧ fld ((0x80010110 : W32) &&& 0x80071FFF) 18 16 ≤ 5 ∧
    (0x80010110 : W32) &&& 0x80071FFF ≠ (on.link 0).peerExpect ∧ on.idsValid = false ∧ on.peerFixed 0 = false ∧
    5 < fld ((0x80070110 : W32) &&& 0x80071FFF) 18 16 := by decide

/-! Starts, cells and rings (O32 to O36). -/

/-- A cell of a management type from link 0, with data bytes. -/
def mgmtCell (n : Nat) : CellFrom × Cell :=
  (.link 0, { address := 0, head := mkHead CellKind.management 2 true 0 0 0 0 0, data := mkData [BitVec.ofNat 8 n] })
/-- A cell that has reached its stop without a ring. -/
def arrivedUnit (c : CellFrom × Cell) : RingUnit := { load := .cell c.1 false c.2, out := none, place := none, legs := [] }
def armed (count : Nat) : Job := { job planImg .armed with
  startDesc := some (desc Op.start 0 0 0 0)
  pace := some { hopDelay := 0, treeDepth := 0, pkgDepth := 0, parent := none, children := 0, startGrade := 0, jobIndex := 0, domainId := 0
                 startCount := count } }
/-- An armed job that owns link 0, with a cell arrived. -/
def withCell (j : Job) (c : CellFrom × Cell) : State :=
  ((busy .set j Partition.reset).modLink 0 (fun k => { k with owner := some 1 })).modInfield (fun i => { i with transit := [arrivedUnit c] })
theorem test_plan_digest : ∃ u, (withCell (armed 0) (mgmtCell 1)).takeCell (isMgmtCell 1) =
      some { state := u, from_ := .link 0, cell := (mgmtCell 1).2, ring := none, die := 0, err := none } ∧
    (u.link 0).owner = some 1 ∧ u.job? 1 = some (armed 0) ∧ (armed 0).phase = .armed ∧
    (armed 0).pace.map (·.startCount) = some (leAt (mgmtCell 1).2.bytes 8 8) ∧
    (armed 9000).pace.map (·.startCount) ≠ some (leAt (mgmtCell 1).2.bytes 8 8) := ⟨_, rfl, rfl, rfl, rfl, by decide, by decide⟩
theorem test_deadline : (withCell (armed 4000) (mgmtCell 1)).jobOfLead 0 = some (armed 4000) ∧ (armed 4000).startDesc.isSome = true ∧
    4000 ≤ (withCell (armed 4000) (mgmtCell 1)).pace.count.toNat + 4096 ∧ (withCell (armed 9000) (mgmtCell 1)).pace.count.toNat + 4096 < 9000 :=
  ⟨rfl, rfl, by decide, by decide⟩
theorem test_job_abort : ∃ u, (withCell (armed 0) (mgmtCell 2)).takeCell (isMgmtCell 2) =
      some { state := u, from_ := .link 0, cell := (mgmtCell 2).2, ring := none, die := 0, err := none } ∧
    u.jobs = [armed 0] ∧ leAt (mgmtCell 2).2.bytes 8 8 = 0 ∧ (mgmtCell 2).2.domain = 0 ∧ (mgmtCell 2).2.jobIndex = 0 :=
  ⟨_, rfl, rfl, by decide, by decide, by decide⟩
/-- A management-class write of 16 bytes to the first bytes of P0, from this package. -/
def writeCell (kind : Nat) : Cell := { address := mkFa true 0 0, head := mkHead kind 0 true 0 0 0 0 0, data := mkData [1, 2, 3] }
theorem test_cell_request : ∀ k ∈ [CellKind.write, CellKind.readReq],
    ∃ u, (on.modInfield (fun i => { i with transit := [arrivedUnit (.here, writeCell k)] })).takeCell
        (fun c => c.kind == CellKind.write || c.kind == CellKind.readReq) = some { state := u, from_ := .here, cell := writeCell k, ring := none, die := 0, err := none } ∧
      (writeCell k).kind = k ∧ (writeCell k).mgmt = true ∧ u.inHold (.tile (finOf 256 (faOffset (writeCell k).address / 2 ^ 28))) = false ∧
      faOffset (writeCell k).address / 2 ^ 33 = (faOffset (writeCell k).address + (writeCell k).span - 1) / 2 ^ 33 ∧ u.sram.ecc = [] ∧
      (u.part (partOfOffset (faOffset (writeCell k).address))).st ≠ .run := by
  intro k hk
  simp only [List.mem_cons, List.not_mem_nil, or_false] at hk
  obtain rfl | rfl := hk <;> exact ⟨_, rfl, by decide, by decide, by decide, by decide, rfl, by decide⟩
/-- A request of an I3C access in slot 0 of VC 1. -/
def request1 : Request :=
  { mgmt := true, slot := 0, reuse := 1, owner := .i3c true, base := 0, cells := 1, length := 16, left := 1, refused := none, unitReset := false
    linkDown := false, data := [] }
/-- The completion cell that answers it. -/
def reply1 : Cell := { address := 0, head := mkHead CellKind.completion 0 true 0 0x0100 0 0 0, data := mkData [0, 1] }
theorem test_reply : ∃ u, (on.modInfield (fun i => { i with transit := [arrivedUnit (.link 0, reply1)], requests := [request1] })).takeCell
      (fun c => c.kind == CellKind.readData || c.kind == CellKind.completion || (c.kind == CellKind.management && c.mgmtType == 4)) =
        some { state := u, from_ := .link 0, cell := reply1, ring := none, die := 0, err := none } ∧ reply1.kind = CellKind.completion ∧ u.infield.requests = [request1] ∧
    request1.mgmt = bit (byteAt reply1.data 1) 0 ∧ request1.slot.toNat = reply1.tag.toNat % 256 ∧ request1.reuse.toNat = reply1.tag.toNat / 256 ∧
    u.ownerEpoch request1.owner = reply1.epoch ∧ request1.left = 1 := ⟨_, rfl, by decide, rfl, by decide, by decide, by decide, by decide, rfl⟩
theorem test_counter_request : on.fwServes = true ∧ ∃ u,
    (on.modInfield (fun i => { i with transit := [arrivedUnit (mgmtCell 3)] })).takeCell (isMgmtCell 3) =
      some { state := u, from_ := .link 0, cell := (mgmtCell 3).2, ring := none, die := 0, err := none } := ⟨rfl, _, rfl⟩
/-- A taken cell that crossed ring 3, from this package. -/
theorem test_ring_check : ∀ k : Taken, k = { state := on, from_ := .here, cell := writeCell 0, ring := some 3, die := 0, err := none } →
    k.ring = some 3 ∧ { k with err := some .double }.check.2 = false ∧ { k with err := some .single }.check.2 = true ∧ k.check.2 = true := by
  rintro k rfl; exact ⟨rfl, rfl, rfl, rfl⟩
/-- A job whose plan sends transfer 0 round ring 0, at its first slot. -/
def ringSet0 (rx : Bool) : TableSet := { set0 with link := 0xE, rx := rx }
def ringJob : Job := { planJob 0 with
  image := { planImg with plan := some { lapLen := [4096], loopEntry := 0, plans := [{ plan0 with sets := [ringSet0 false, ringSet0 true] }] } } }
theorem test_ring_occurrence : (busy .run ringJob Partition.reset).jobOfLead 0 = some ringJob ∧ ringJob.ringSet false 0 = some (ringSet0 false) ∧
    ringJob.ringSet true 0 = some (ringSet0 true) ∧ ringJob.phase = .run ∧ ringJob.linkSet false 0 = none ∧ ringJob.linkSet true 0 = none ∧
    ringJob.ringDeferred = [] ∧ (∃ x, ringJob.spanAt 0 = some x ∧ x.held = false ∧ 0 - x.start = 0 ∧
      ((ringSet0 false).occs x.table 0).find? (fun y => y.1 == 0) = some (0, 0x20000000) ∧
      (ringSet0 true).nth x.table 0 ((ringSet0 false).place x.table 0 0) = some (0, 0x20000000) ∧
      ringJob.boundAt 0 (ringJob.occNumber (ringSet0 false) 0 x.index 0) = none) :=
  ⟨rfl, rfl, rfl, rfl, rfl, rfl, rfl, _, rfl, rfl, rfl, by decide, by decide, rfl⟩
theorem test_scrub : on.power.mainPg = true ∧ on.eccAt 5 = none ∧ 5 % 2 ^ 30 ≠ 0 ∧ on.sram.corrected.contains 5 = false ∧
    on.rowOccasions (rowOfWord 5) < 2 ∧ on.sram.spares[dieOfWord 5] ≠ 0 ∧ on.wordLive 5 = false ∧ Mem.wf on.sram.mem = true := by decide
theorem test_map_scrub : (running.part 0).mapA = some map1 ∧ (running.part 0).mapB = some map1 ∧ (running.part 0).mapGold = some map1 ∧
    map1.liveDiff { map1 with digest := 1 } map1 = none ∧ map1.liveDiff map1 { map1 with entries := [0] } = some 0 :=
  ⟨rfl, rfl, rfl, by decide, by decide⟩
theorem test_table_scrub : ((planned 0 0).link 0).tableA = some plan0 ∧ ((planned 0 0).link 0).owner = some 1 ∧
    (planned 0 0).job? 1 = some (planJob 0) ∧ ∃ g, (planJob 0).activePlan.map (·.forLink 0) = some g := ⟨rfl, rfl, rfl, _, rfl⟩

/-! Issue and control commands (O37, O38). -/

/-- A code region of 4,096 bytes. -/
def codeMap : AllocMap := { map1 with entries := [mkMapEntry 0xFFFFFFFF 15 Purpose.code 0x7F 1 0] }
def streamImg : Image := { img with streams := [{ jobPart := 0, index := 0, region := 0, offset := 0, code := [cmd 2 1 0 0 0 0 0] }] }
/-- Stream 0 of P0 in a mode, before its first command. -/
def streaming (m : StreamMode) : State :=
  (busy .run (job streamImg .run) { Partition.reset with
    streams := [{ index := 0, code := [cmd 2 1 0 0 0 0 0], pos := 0, iter := 0, mode := m }] }).modPart 0 (fun q => { q with
      mapA := some codeMap, mapB := some codeMap, mapGold := some codeMap })
theorem test_issue : (streaming .running).inHold (.sequencer 0) = false ∧ (0 : Fin 8) = (streaming .running).seqTurn[(0 : DieId)] ∧
    streamOf 0 0 = (0, 0) ∧ (∃ x, (streaming .running).canIssue 0 0 = some (x, cmd 2 1 0 0 0 0 0)) ∧
    (streaming .running).jobOf 0 = some (job streamImg .run) ∧
    (∃ v, ({ streaming .running with seqTurn := vset (streaming .running).seqTurn 0 1 } : State).fetchCheck 0 0 0 (issued (cmd 2 1 0 0 0 0 0)) 3 2 =
      (v, true)) :=
  ⟨by decide, rfl, rfl, ⟨_, rfl⟩, rfl, _, State.fetchCheck_ok (m := codeMap) 3 2 rfl rfl (by decide) rfl (by decide) (by decide) (by decide) rfl⟩
/-- A graph list of one descriptor whose window is filled. -/
def list0 : GraphList :=
  { tile := 0, descs := [cmd 2 1 0 0 0 0 0], nextPass := 1, nextIndex := 0, window := [(0, 0)], busy := [], lastPass := some 0, maxPass := 0
    arrived := none, ended := false }
def graphImg : Image := { img with graphTargets := [(0, 0, 0, 0)] }
def graphed : State := (busy .run (job graphImg .run) { Partition.reset with lists := [list0] }).modPart 0 (fun q => { q with
  mapA := some codeMap, mapB := some codeMap, mapGold := some codeMap })
theorem test_dispatch : (graphed.part 0).list? 0 = some list0 ∧ graphed.fillWindow 0 0 (job graphImg .run).circuits 0 0 128 = (graphed, true) ∧
    (∃ v, graphed.fetchCheck 0 0 0 { cmd := cmd 2 1 0 0 0 0 0, index := 0, iter := 0, src := .graph } 4 6 = (v, true)) ∧
    graphed.instReady 0 list0 [] (0, 0) (cmd 2 1 0 0 0 0 0) = true ∧ (cmd 2 1 0 0 0 0 0).group = 2 ∧
    fate (graphed.part 0).pred (cmd 2 1 0 0 0 0 0) [] = none ∧ graphed.graphRoom 0 (job graphImg .run) (cmd 2 1 0 0 0 0 0) = true :=
  ⟨rfl, rfl, ⟨_, State.fetchCheck_ok (m := codeMap) 4 6 rfl rfl (by decide) rfl (by decide) (by decide) (by decide) rfl⟩, by decide, by decide,
    by decide, by decide⟩
theorem test_complete : ∃ r, ((running.part 0).engine 0 .vector).running = some r ∧ (running.part 0).st = .run ∧
    running.inHold (.tile 0) = false := ⟨_, rfl, rfl, by decide⟩
/-- A command that waits on queue 0 for an entry that is not there. -/
def waiter : Cmd := { cmd 2 1 0 0 0 0 0 with w := vset (cmd 2 1 0 0 0 0 0).w 0 0x2010001000000000 }
def waiting : State := busy .run (job img .run) { Partition.reset with
  queues := [{ tile := 0, queue := 0, consumer := .vector, depth := 4, region := 0, offset := 0, entries := [], highest := 0 }]
  engines := [{ tile := 0, kind := .vector, streamQ := [issued waiter], graphQ := [], running := none, turn := .stream }] }
theorem test_waits : (∃ i n, waiting.waiting (.engine 0 .vector) = some (0, i, n)) ∧ waiting.jobOf 0 = some (job img .run) ∧
    (job img .run).image.waitLimit ≠ 0 ∧ on.waiting (.engine 0 .vector) = none := ⟨⟨_, _, rfl⟩, rfl, by decide, rfl⟩
theorem test_control_ready : (streaming (.control (issued (cmd 0 0 0 0 0 0 0)))).controlReady 0 0 0 0 = some (issued (cmd 0 0 0 0 0 0 0), none) ∧
    (streaming (.control (issued (cmd 0 1 0 0 0 0 0)))).controlReady 0 0 0 1 = some (issued (cmd 0 1 0 0 0 0 0), none) ∧
    (streaming (.control (issued (cmd 0 2 0 0 0 0 0)))).controlReady 0 0 0 2 = some (issued (cmd 0 2 0 0 0 0 0), none) ∧
    (streaming (.control (issued (cmd 7 1 0 0 0 0 0)))).controlReady 0 0 7 1 = some (issued (cmd 7 1 0 0 0 0 0), none) := ⟨rfl, rfl, rfl, rfl⟩
theorem test_control_done : ∃ t, (streaming (.control (issued (cmd 0 1 0 0 0 0 0)))).controlDone 0 0 (issued (cmd 0 1 0 0 0 0 0)) = t ∧
    t.jobOf 0 = some (job streamImg .run) ∧ (∃ x, (t.part 0).stream? 0 = some x ∧ x.iter + 1 ≠ (job streamImg .run).circuits) ∧
    (t.part 0).st = .run ∧ (job streamImg .run).hurdleAhead = false ∧ (job streamImg .run).endCount = none :=
  ⟨_, rfl, rfl, ⟨_, rfl, by decide⟩, rfl, rfl, rfl⟩
theorem test_fence_free : (streaming (.fence (issued (cmd 0 2 0 0 0 0 0)))).streamBusy 0 0 = false ∧
    (∃ x, ((streaming (.fence (issued (cmd 0 2 0 0 0 0 0)))).part 0).stream? 0 = some x ∧ x.mode = .fence (issued (cmd 0 2 0 0 0 0 0))) :=
  ⟨by decide, _, rfl, rfl⟩

/-! Engines (O39 to O43). Every operand is one FP32 element in the region of map1. -/

/-- The word of a reference to region 0, FP32, at an offset. -/
def ref (off : Nat) : W64 := BitVec.ofNat 64 (off * 2 ^ 21 + 1)
theorem starts_of (e : EngineKind) (c : Cmd) (h : c = cmd 2 1 (ref 0) (ref 64) (ref 128) 0x10000010000 0 ∨ c = cmd 2 0x20 (ref 0) 0 (ref 128) 0x10000010000 0 ∨
      c = cmd 1 1 (ref 0) (ref 64) (ref 128) 0x0001000100010000 0 ∨ c = cmd 3 2 0 (ref 0) 0 0 7 ∨ c = cmd 6 4 0 0 1 0 0) :
    (engine e c).Starts 0 e .stream (issued c) [] := by
  obtain rfl | rfl | rfl | rfl | rfl := h <;> cases e <;> exact ⟨rfl, rfl, by decide, rfl⟩
theorem grants_taken (e : EngineKind) (c : Cmd) (k : Nat) (hk : k = Kind.tileRead ∨ k = Kind.tileWrite ∨ k = Kind.mover) :
    ((engine e c).taken 0 e .stream).Grants 0 0 k 0 (mkMapEntry 0xFFFFFFFF 15 Purpose.tensor 0x7F 2 0) := by
  obtain rfl | rfl | rfl := hk <;> cases e <;> exact ⟨⟨map1, rfl, rfl, rfl⟩, by decide, by decide⟩
/-- One element at an offset below 4,096 is granted. -/
theorem tensor_one (e : EngineKind) (c : Cmd) (off k : Nat) (ho : off = 0 ∨ off = 64 ∨ off = 128) (hk : k = Kind.tileRead ∨ k = Kind.tileWrite) :
    ((engine e c).taken 0 e .stream).TensorAt 0 k (Ref.ofWord (ref off)) 1 1 0 := by
  refine ⟨⟨mkMapEntry 0xFFFFFFFF 15 Purpose.tensor 0x7F 2 0, ?_, by decide, ?_⟩⟩
  · have h := grants_taken e c k (by tauto)
    obtain rfl | rfl | rfl := ho <;> exact h
  · obtain rfl | rfl | rfl := ho <;> decide
theorem test_add_starts : (cmd 2 1 (ref 0) (ref 64) (ref 128) 0x10000010000 0).group = 2 ∧ (cmd 2 1 (ref 0) (ref 64) (ref 128) 0x10000010000 0).opcode = 1 ∧
    (VecOps.ofCmd (cmd 2 1 (ref 0) (ref 64) (ref 128) 0x10000010000 0)).rows = 1 ∧ (VecOps.ofCmd (cmd 2 1 (ref 0) (ref 64) (ref 128) 0x10000010000 0)).cols = 1 ∧
    (engine .vector (cmd 2 1 (ref 0) (ref 64) (ref 128) 0x10000010000 0)).skipCause 0 (issued (cmd 2 1 (ref 0) (ref 64) (ref 128) 0x10000010000 0)) [] = none ∧
    (engine .vector (cmd 2 1 (ref 0) (ref 64) (ref 128) 0x10000010000 0)).sram.ecc = [] := by decide
theorem test_sum_starts : (cmd 2 0x20 (ref 0) 0 (ref 128) 0x10000010000 0).group = 2 ∧ (cmd 2 0x20 (ref 0) 0 (ref 128) 0x10000010000 0).opcode = 0x20 ∧
    (VecOps.ofCmd (cmd 2 0x20 (ref 0) 0 (ref 128) 0x10000010000 0)).rows = 1 ∧ (VecOps.ofCmd (cmd 2 0x20 (ref 0) 0 (ref 128) 0x10000010000 0)).axis = 0 := by
  decide
theorem test_matmul_starts : (cmd 1 1 (ref 0) (ref 64) (ref 128) 0x0001000100010000 0).group = 1 ∧
    (cmd 1 1 (ref 0) (ref 64) (ref 128) 0x0001000100010000 0).opcode = 1 ∧
    matmulM (cmd 1 1 (ref 0) (ref 64) (ref 128) 0x0001000100010000 0) = 1 ∧ matmulN (cmd 1 1 (ref 0) (ref 64) (ref 128) 0x0001000100010000 0) = 1 ∧
    matmulK (cmd 1 1 (ref 0) (ref 64) (ref 128) 0x0001000100010000 0) = 1 ∧ (matmulOut (cmd 1 1 (ref 0) (ref 64) (ref 128) 0x0001000100010000 0)).acc = false := by
  decide
theorem test_conv_shape : (Conv2d.ofCmd (cmd 1 2 (ref 0) (ref 64) (ref 128) 0x0001000100010001 0)).h = 1 ∧
    (Conv2d.ofCmd (cmd 1 2 (ref 0) (ref 64) (ref 128) 0x0001000100010001 0)).ho = 1 ∧
        (Conv2d.ofCmd (cmd 1 2 (ref 0) (ref 64) (ref 128) 0x0001000100010001 0)).k = 1 ∧
    (conv2dOut (cmd 1 2 (ref 0) (ref 64) (ref 128) 0x0001000100010001 0)).acc = false := by decide
/-- A loop descriptor of one visit. -/
def loopBytes : List Byte := (List.range 6).flatMap (fun _ => natLE 8 (2 ^ 32)) ++ List.replicate 16 0
theorem test_one_visit : (Loops.ofBytes loopBytes).ok = true ∧ (Loops.ofBytes loopBytes).total = 1 ∧ (Loops.ofBytes loopBytes).transpose = false ∧
    (Loops.ofBytes loopBytes).offset (loopIndex (Loops.ofBytes loopBytes).counts 0) = 0 := by decide
theorem test_set_bit : predBit (cmd 6 4 0 0 1 0 0) = 0 ∧ bit (predImm (cmd 6 4 0 0 1 0 0)) 0 = true ∧ (cmd 6 4 0 0 1 0 0).group = 6 ∧
    predCount (cmd 6 1 0 0 0 0x100000000 0) = 1 := by decide

/-! Bindings, jobs and frames (O44 to O46). -/

/-- A job whose station n has a binding of an opcode at its front, with TRANSFER 0 and one ARM. -/
def bound (n : Fin 7) (op : Nat) : Job := { job { img with maps := [map1] } .run with
  bindQ := [(n, [⟨0, issued (cmd 4 op (if op = 2 then 0x100000000 else 0) 0 16 0 0), none⟩])]
  ranks := some { myRank := 0, entries := [some 0] } }
theorem test_bindings_ready : ∀ n : Fin 7, (busy .run (bound n 1) Partition.reset).jobOfLead 0 = some (bound n 1) ∧
    (∃ i, (busy .run (bound n 1) Partition.reset).bindingReady (bound n 1) n 1 = some (0, i, [], none)) ∧
    (∃ i, (busy .run (bound n 2) Partition.reset).bindingReady (bound n 2) n 2 = some (0, i, [], none) ∧
      ((bound n 2).xfer (bindTransfer i.cmd)).arms + recvArms i.cmd ≤ 65535) ∧
    (busy .run (bound n 1) Partition.reset).bindingReady (bound n 1) n 2 = none := by
  intro n
  have h : ∀ op, (bound n op).bindings n = [⟨0, issued (cmd 4 op (if op = 2 then 0x100000000 else 0) 0 16 0 0), none⟩] := by
    intro op; simp [bound, Job.bindings]
  refine ⟨rfl, ⟨issued (cmd 4 1 0 0 16 0 0), ?_⟩, ⟨issued (cmd 4 2 0x100000000 0 16 0 0), ?_, ?_⟩, ?_⟩
  · rw [State.bindingReady, h]; rfl
  · rw [State.bindingReady, h]; rfl
  · exact (by decide : 0 + recvArms (cmd 4 2 0x100000000 0 16 0 0) ≤ 65535)
  · rw [State.bindingReady, h]; rfl
theorem test_put_ready : ∃ i base, (busy .run (bound 6 3) Partition.reset).bindingReady (bound 6 3) 6 3 = some (0, i, [], none) ∧
    ((busy .run (bound 6 3) Partition.reset).freeReq false).isSome = true ∧ (bound 6 3).remote i.cmd = some base ∧
    map1.entry? (putLocal i.cmd).region = some (mkMapEntry 0xFFFFFFFF 15 Purpose.tensor 0x7F 2 0) ∧
    (putLocal i.cmd).offset + putLength i.cmd ≤ meLen (mkMapEntry 0xFFFFFFFF 15 Purpose.tensor 0x7F 2 0) :=
  ⟨issued (cmd 4 3 0 0 16 0 0), 0, rfl, by decide, by decide, by decide, by decide⟩
theorem test_job_start : (busy .set { armed 0 with startDone := true } Partition.reset).jobOfLead 0 = some { armed 0 with startDone := true } ∧
    (armed 0).phase = .armed ∧ (armed 0).resuming = false ∧ (∃ b, (armed 0).pace = some b ∧ b.startCount ≤ on.pace.count.toNat) ∧
    (∃ b, (armed 9).pace = some b ∧ on.pace.count.toNat < b.startCount) := ⟨rfl, rfl, rfl, ⟨_, rfl, by decide⟩, ⟨_, rfl, by decide⟩⟩
/-- A declaration and a job with it whose one stream has arrived there. -/
def decl1 : HurdleDecl := { id := 1, streamable := true, parkable := true, iteration := 0, seqEntry := 0 }
def hurdleImg : Image := { img with hurdles := [decl1], featureReq := 0x8000 }
def arrived : State := busy .run (job hurdleImg .run) { Partition.reset with
  streams := [{ index := 0, code := [], pos := 0, iter := 0, mode := .arrived (issued (cmd 7 1 0x1000000000000 0 0 0 0)) decl1 }] }
theorem test_hurdle_reached : (job hurdleImg .run).image.hurdles[(job hurdleImg .run).nextHurdle]? = some decl1 ∧
    arrived.pausedClean (job hurdleImg .run) = true ∧ (∀ p ∈ (job hurdleImg .run).parts, (arrived.part p).allArrived decl1 = true) ∧
    (job hurdleImg .run).unclean = none ∧ (running.part 0).streams = [] := ⟨rfl, by decide, by decide, rfl, rfl⟩
/-- The job at its hurdle. -/
def standing (resume : Option Nat) : Job := { job hurdleImg .run with hurdle := some decl1, resumeCount := resume }
theorem test_hurdle_resume : (standing (some 5)).resumeCount = some 5 ∧ on.pace.count.toNat < 5 ∧ (standing (some 0)).hurdle = some decl1 ∧
    0 ≤ on.pace.count.toNat := ⟨rfl, by decide, rfl, by decide⟩
theorem test_job_done : (busy .run (job img .run) Partition.reset).jobDone (job img .run) = true ∧ arrived.jobDone (job hurdleImg .run) = false := by
  decide
/-- A FRAME of 100 bytes at the front of the Point Engine's queue of P0, with its configuration. -/
def frameCmd : Cmd := cmd 5 1 0 0x6400000000 0 0 0
def config0 : PointConfig :=
  { provisioned := false, sliced := false, classAgnostic := false, slices := 1, maxPerVoxel := 1, tableLog2 := 10, classCount := 1, tileSet := 1
    pointLimit := 16, voxelCap := 16, candCap := 16, boxMax := 1, scoreMin := 0, iouMax := 0, voxelSize := Vector.replicate 3 0
    boundMin := Vector.replicate 3 0, boundMax := Vector.replicate 3 0, table := 0, vfe := 0, anchors := [], layers := [] }
def framed : State := busy .run (job img .run) { Partition.reset with pointQ := [issued frameCmd], configs := [config0], serials := [1] }
theorem test_frame_ready : framed.inHold (.pointEngine 0) = false ∧ [(0 : PartId), 1].findSome? framed.frameReady = some (0, issued frameCmd, []) ∧
    framed.skipCause 0 (issued frameCmd) [] = none ∧ on.frameReady 0 = none ∧ on.frameReady 1 = none := ⟨by decide, rfl, by decide, rfl, rfl⟩
theorem test_short_frame : frameConfig frameCmd = 0 ∧ (framed.part 0).serials[0]? = some 1 ∧ 0 < frameLen frameCmd ∧ frameLen frameCmd < 576 ∧
    framed.Grants 0 0 Kind.point (frameRef (frameCmd.word 3)).region (mkMapEntry 0xFFFFFFFF 15 Purpose.tensor 0x7F 2 0) ∧
    (frameRef (frameCmd.word 3)).offset + frameLen frameCmd ≤ meLen (mkMapEntry 0xFFFFFFFF 15 Purpose.tensor 0x7F 2 0) :=
  ⟨by decide, rfl, by decide, by decide, ⟨⟨map1, rfl, rfl, rfl⟩, by decide, by decide⟩, by decide⟩

/-! Loads, resets and descriptors of jobs (O47 to O50). -/

/-- A LOAD of JOB_PART 0 to P0, whose PART_MAP is 0xFFFF_FFF0. -/
def loadDesc : Desc := desc Op.load 0 0xFFFFFFF0 0 0
/-- P0 bound to VF1, and VF1's window of 1 GiB at bus address 0x4000_0000. -/
def windowed (s : State) (len : Nat) : State := { s with
  hiu := { s.hiu with bind := vset s.hiu.bind 0 1, config := { PortConfig.reset with barPf := 2 ^ 30, barVf := 2 ^ 35 } }
  fns := vmod s.fns 1 (fun f => { f with winRoot := 0x1001, cqs := vmod f.cqs 0 (fun q => { q with enable := true }) })
  host := { s.host with
    mem := [(0x1000, 0x83), (0x1003, 0x40), (0x40000000, 2), (0x40000008, BitVec.ofNat 8 len), (0x40000009, BitVec.ofNat 8 (len / 256))] } }
theorem test_window_walk : (windowed on 16).walk 0x1001 0 64 true = .page 0x40000000 64 := by decide
theorem test_load : (∃ t, (mcWith on loadDesc).takeMc Op.load = some (loadDesc, t) ∧ t.gated loadDesc = false) ∧ loadDesc.loadOk = true ∧
    loadDesc.fn ≠ 0 ∧ partMapParts (loadDesc.word 2) = [0] := ⟨⟨_, rfl, by decide⟩, by decide, by decide, by decide⟩
theorem test_take_up : ∀ s : State, s = (windowed on 4096).modMgt (fun m => { m with loads := [loadDesc] }) →
    s.mgt.loads = [loadDesc] ∧ s.mgt.task = none ∧ s.fwServes = true ∧ s.bound 1 0 = true ∧ (s.part 0).st = .marks ∧ (s.part 0).zeroing = false ∧
    s.canClaim (s.winOp loadDesc none) = true ∧
    ∃ u o, (s.pushOp (s.winOp loadDesc none)).openHeader (s.winOp loadDesc none) = .opened u o := by
  rintro s rfl
  exact ⟨rfl, rfl, rfl, by decide, rfl, rfl, by decide, _, _, rfl⟩
theorem test_load_complete : ∀ s : State, s = on.modMgt (fun m => { m with task := some { desc := loadDesc, parts := [0], image := img, lost := false } }) →
    s.mgt.task = some { desc := loadDesc, parts := [0], image := img, lost := false } ∧ s.fwServes = true ∧ on.mgt.loadHeld = none ∧
    (∀ p ∈ [(0 : PartId)], (s.part p).st = .marks ∧ (s.part p).zeroing = false) ∧ s.sram.ecc = [] := by
  rintro s rfl
  exact ⟨rfl, rfl, rfl, by decide, rfl⟩
theorem test_zeroing : ∀ s : State, s = on.modPart 0 (fun q => { q with zeroing := true }) →
    (s.part 0).zeroing = true ∧ s.power.mainPg = true ∧ s.boot.stage ≠ .switching ∧ (s.part 0).scrubFirst = false ∧ Mem.wf s.sram.mem = true ∧
    s.mgt.unloads = [] := by rintro s rfl; exact ⟨rfl, rfl, by decide, rfl, rfl, rfl⟩
theorem test_unload : (∃ t, (mcWith (busy .set (job img .loaded) Partition.reset) (desc Op.unload 0 1 0 0)).takeMc Op.unload =
      some (desc Op.unload 0 1 0 0, t) ∧ t.vfAllowed (desc Op.unload 0 1 0 0) (desc Op.unload 0 1 0 0).maskParts = true ∧
      t.jobOf 0 = some (job img .loaded) ∧ (∀ q : PartId, q ∈ (desc Op.unload 0 1 0 0).maskParts ↔ (t.part q).job = some 1) ∧ (t.part 0).st = .set) ∧
    (desc Op.unload 0 1 0 0).maskOk = true ∧ (desc Op.unload 0 1 0 0).maskParts.head? = some 0 := ⟨⟨_, rfl, by decide, rfl, by decide, rfl⟩, by decide, by decide⟩
theorem test_partition_reset : ∃ t, (mcWith (busy .set (job img .loaded) Partition.reset) (desc Op.partReset 0 1 0 0)).takeMc Op.partReset =
      some (desc Op.partReset 0 1 0 0, t) ∧ t.gated (desc Op.partReset 0 1 0 0) = false ∧
      (∀ p ∈ (desc Op.partReset 0 1 0 0).maskParts, t.owns 1 p = true ∧ (t.part p).st = .set) ∧ t.resetWhole (desc Op.partReset 0 1 0 0).maskParts = true :=
  ⟨_, rfl, by decide, by decide, by decide⟩
/-- START of the job on P0, with the master's pace block. -/
def startDesc : Desc := { desc Op.start 0 0 0 0 with w := vset (desc Op.start 0 0 0 0).w 7 0xF000000000 }
theorem test_start : ∃ t, (mcWith (windowed (busy .set (job img .loaded) Partition.reset) rankBytes) startDesc).takeMc Op.start = some (startDesc, t) ∧
    startDesc.startOk = true ∧ t.vfAllowed startDesc [startDesc.lead] = true ∧ t.startJob startDesc = some (job img .loaded) ∧
    (t.fn startDesc.fn).cqs[startDesc.eventCq].enable = true ∧ (t.pushOp (t.winOp startDesc (some 0))).canClaim (t.winOp startDesc (some 0)) = true ∧
    ∃ u q, (t.pushOp (t.winOp startDesc (some 0))).openHeader (t.winOp startDesc (some 0)) = .opened u q :=
  ⟨_, rfl, by decide, by decide, rfl, by decide, by decide, _, _, rfl⟩
/-- RESUME of the parked job whose one JOB_PART is the park part. -/
def resumeDesc : Desc := { startDesc with w := vset (vset startDesc.w 0 0x0700000000000000) 4 0xFFFFFFF0 }
def parkedJob : Job := job { img with parkPart := some 0 } .parked
theorem test_resume : ∃ t, (mcWith (windowed (busy .parked parkedJob Partition.reset) rankBytes) resumeDesc).takeMc Op.resume = some (resumeDesc, t) ∧
    resumeDesc.resumeOk = true ∧ t.vfAllowed resumeDesc [resumeDesc.lead] = true ∧ resumeDesc.expansion = [] ∧ t.resumeJob resumeDesc = some parkedJob ∧
    (t.fn resumeDesc.fn).cqs[resumeDesc.eventCq].enable = true ∧
    ∃ u q, (t.pushOp (t.winOp resumeDesc (some 0))).openHeader (t.winOp resumeDesc (some 0)) = .opened u q :=
  ⟨_, rfl, by decide, by decide, by decide, rfl, by decide, _, _, rfl⟩
/-- A state with the job at its hurdle. -/
def stood : State := busy .run (standing none) Partition.reset
theorem test_end : ∃ t, (reWith stood (desc Op.endD 0 0 20000 0)).takeRe Op.endD = some (desc Op.endD 0 0 20000 0, t) ∧ (desc Op.endD 0 0 20000 0).endOk = true ∧
    t.vfAllowed (desc Op.endD 0 0 20000 0) [0] = true ∧ t.leadJob 0 .run = some (standing none) ∧
    t.pace.count.toNat + 12288 ≤ ((desc Op.endD 0 0 20000 0).word 3).toNat := ⟨_, rfl, by decide, by decide, rfl, by decide⟩
theorem test_hurdle_descriptor : ∀ d ∈ [desc Op.hurdle 0 0x100 0 0, desc Op.hurdle 0 0 20000 0], ∃ t, (reWith stood d).takeRe Op.hurdle = some (d, t) ∧
    d.hurdleOk = true ∧ t.vfAllowed d [0] = true ∧ t.leadJob 0 .run = some (standing none) ∧ t.atHurdle (standing none) = true := by
  intro d hd
  simp only [List.mem_cons, List.not_mem_nil, or_false] at hd
  obtain rfl | rfl := hd <;> exact ⟨_, rfl, by decide, by decide, rfl, by decide⟩
theorem test_park : ∀ j : Job, j = { standing none with image := { hurdleImg with parkPart := some 0 } } →
    ∃ t, (mcWith (busy .run j Partition.reset) (desc Op.park 0 0 0 0)).takeMc Op.park = some (desc Op.park 0 0 0 0, t) ∧
      (desc Op.park 0 0 0 0).parkFieldsOk = true ∧ t.vfAllowed (desc Op.park 0 0 0 0) [0] = true ∧ t.leadJob 0 .run = some j ∧
      t.atHurdle j = true ∧ t.streaming j.lead = false ∧ j.phys 0 = some 0 ∧ t.sram.ecc = [] ∧ (t.part 0).job = some j.id := by
  rintro j rfl
  exact ⟨_, rfl, by decide, by decide, rfl, by decide, by decide, rfl, rfl, rfl⟩

/-! Descriptors of data and rings of the host (O51 to O53). -/

def transferDesc : Desc := desc Op.transfer 0 0 16 0
theorem test_transfer : ∃ t, (reWith (windowed (busy .set (job img .loaded) Partition.reset) 16) transferDesc).takeRe Op.transfer = some (transferDesc, t) ∧
    transferDesc.transferOk = true ∧ t.vfAllowed transferDesc [transferDesc.transferPart] = true ∧ (t.part 0).st = .set ∧
    regionOf map1.used transferDesc.partOffset 1 = some (0, mkMapEntry 0xFFFFFFFF 15 Purpose.tensor 0x7F 2 0) ∧
    meHas (mkMapEntry 0xFFFFFFFF 15 Purpose.tensor 0x7F 2 0) Kind.window = true ∧ transferDesc.length = 16 :=
  ⟨_, rfl, by decide, by decide, rfl, by decide, by decide, by decide⟩
theorem test_header_claim : ∀ s t : State, s = windowed (busy .set (job img .loaded) Partition.reset) 16 →
    t = s.pushOp (s.winOp transferDesc (some 0)) → t.hiu.winOps.find? t.mayClaim = some (s.winOp transferDesc (some 0)) ∧
    (∃ u q, t.openHeader (s.winOp transferDesc (some 0)) = .opened u q ∧ q.hdr.len = 16 ∧ q.desc = transferDesc ∧ u.sram.ecc = []) ∧
    on.hiu.winOps.find? on.mayClaim = none := by
  rintro s t rfl rfl
  exact ⟨rfl, ⟨_, _, rfl, by decide, rfl, rfl⟩, rfl⟩
theorem test_predicate : ∃ t, (reWith (busy .run (job img .run) Partition.reset) (desc Op.predicate 0 0 0x10001 0)).takeRe Op.predicate =
      some (desc Op.predicate 0 0 0x10001 0, t) ∧ (desc Op.predicate 0 0 0x10001 0).predicateOk = true ∧
      t.vfAllowed (desc Op.predicate 0 0 0x10001 0) [0] = true ∧ (t.part 0).st = .run ∧ (desc Op.predicate 0 0 0x10001 0).postEn = false :=
  ⟨_, rfl, by decide, by decide, rfl, by decide⟩
/-- Word 2 of a QUERY of KIND 3 (the pace). -/
theorem test_query : ∃ t, (mcWith (windowed on 4096) (desc Op.query 0 0x300000000000000 0 0)).takeMc Op.query = some (desc Op.query 0 0x300000000000000 0 0, t) ∧
    (mcWith (windowed on 4096) (desc Op.query 0 0x300000000000000 0 0)).queryOk (desc Op.query 0 0x300000000000000 0 0) = true ∧
    t.gated (desc Op.query 0 0x300000000000000 0 0) = false ∧ t.remoteQuery (desc Op.query 0 0x300000000000000 0 0) = false ∧
    (t.pushOp (t.winOp (desc Op.query 0 0x300000000000000 0 0) none)).canClaim (t.winOp (desc Op.query 0 0x300000000000000 0 0) none) = true :=
  ⟨_, rfl, by decide, by decide, by decide, by decide⟩
theorem test_log_read : ∃ t, (mcWith (windowed on 4096) (desc Op.logRead 0 0x10000 0 0)).takeMc Op.logRead = some (desc Op.logRead 0 0x10000 0 0, t) ∧
    (mcWith (windowed on 4096) (desc Op.logRead 0 0x10000 0 0)).logReadOk (desc Op.logRead 0 0x10000 0 0) = true ∧
    t.gated (desc Op.logRead 0 0x10000 0 0) = false := ⟨_, rfl, by decide, by decide⟩
/-- A MGMT_READ of 16 bytes of this package's own offset 0, from PF0. -/
def mgmtDesc (op : Nat) : Desc := { desc op 0 (mkFa true 0x111 0) 16 0 with fn := 0 }
theorem test_mgmt : ∀ op ∈ [Op.mgmtRead, Op.mgmtWrite], ∃ t, (mcWith (placed0 .up) (mgmtDesc op)).takeMc op = some (mgmtDesc op, t) ∧
    (mcWith (placed0 .up) (mgmtDesc op)).mgmtFieldsOk (mgmtDesc op) = true ∧ (mgmtDesc op).fn = 0 ∧
    (mcWith (placed0 .up) (mgmtDesc op)).mgmtAddress ((mgmtDesc op).word 2) (bit ((mgmtDesc op).word 3) 63) (mgmtDesc op).mgmtLen = some (mkFa true 0x111 0) ∧
    ((mcWith (placed0 .up) (mgmtDesc op)).freeReq true).isSome = true := by
  intro op h
  simp only [List.mem_cons, List.not_mem_nil, or_false] at h
  obtain rfl | rfl := h <;> exact ⟨_, rfl, by decide, rfl, by decide, by decide⟩
/-- VF1's ring 0 set up at bus address 0x10_0000 with its line at 0x20_0000 and one descriptor waiting. -/
def ringed (en : Bool) : State := { windowed on 16 with
  hiu := { (windowed on 16).hiu with port := .up }
  fns := vmod (windowed on 16).fns 1 (fun f => { f with
    sqs := vmod f.sqs 0 (fun q => { q with enable := en, base := 0x100000, dbl := 0x200000, tail := if en then 1 else 0 })
    cqs := vmod f.cqs 1 (fun q => { q with base := 0x100000, dbl := 0x200000, irqEn := true, sinceMsg := 1 }) }) }
theorem test_ring_enable : (ringed false).ringOk 0x100000 0x200000 6 64 = true ∧ ((ringed false).fn 1).cqs[(0 : RingIx)].enable = true ∧
    (ringed false).hostCount 0x200000 = some 0 ∧ ((ringed false).fn 1).sqs[(0 : RingIx)].enable = false ∧
    (ringed false).ringOk 0x100000 0x200000 6 32 = true ∧ ((ringed false).fn 1).cqs[(1 : RingIx)].enable = false ∧
    ((ringed false).fn 1).cqs[(1 : RingIx)].waiting = [] ∧ (ringed false).ringOk 0x100001 0x200000 6 64 = false := by decide
theorem test_fetch : (ringed true).fetchable 1 0 = true ∧ ((ringed true).fn 1).sqs[(0 : RingIx)].tail = ((ringed true).fn 1).sqs[(0 : RingIx)].head + 1 ∧
    ((ringed true).fn 1).sqs[(0 : RingIx)].held = [] ∧ (∃ bs, (ringed true).hostRead 0x100000 64 = some bs) ∧ (ringed false).fetchable 1 0 = false :=
  ⟨by decide, by decide, rfl, ⟨_, rfl⟩, by decide⟩
theorem test_line : (ringed true).snoops 1 = false ∧ (ringed true).hiu.port = .up ∧ ((ringed true).fn 1).sqs[(0 : RingIx)].errCause = 0 ∧
    (ringed true).hostCount ((ringed true).fn 1).sqs[(0 : RingIx)].dbl = some 0 ∧ (0 : W32) ≠ ((ringed true).fn 1).sqs[(0 : RingIx)].tail := by decide
theorem test_interrupt : ((ringed true).fn 1).cqs[(1 : RingIx)].irqEn = true ∧ 0 < ((ringed true).fn 1).cqs[(1 : RingIx)].sinceMsg := by decide

/-! Registers, time and the log (O54 to O57). -/

/-- The generator of P-384, in the byte order of a key slot. -/
def gSlot : KeySlot :=
  { state := .empty
    x := BitVec.ofNat 384 (beNat (natLE 48 0xaa87ca22be8b05378eb1c71ef320ad746e1d3b628ba79b9859f741e082542a385502f25dbf55296c3a545e3872760ab7))
    y := BitVec.ofNat 384 (beNat (natLE 48 0x3617de4a96262c6f5d9e98bf9292dc29f8f41dbd289a147ce9da3113b5f0b8c00a60b1ce1d7e819d7a431d7c90ea0e5f)) }
def keyed : State := on.modMgt (fun m => { m with keys := vset m.keys 0 gSlot })
theorem test_key_on_curve : (keyed.fn 0).setupLock = false ∧ keyed.mgt.keys[(0 : KeySlotIx)].state = .empty ∧
    ∃ x y, x = beNat (natLE 48 keyed.mgt.keys[(0 : KeySlotIx)].x.toNat) ∧ y = beNat (natLE 48 keyed.mgt.keys[(0 : KeySlotIx)].y.toNat) ∧
      x < ecP ∧ y < ecP ∧ y ^ 2 % ecP = (x ^ 3 + (ecP - 3) * x + ecB) % ecP :=
  ⟨rfl, rfl, _, _, rfl, rfl, by decide +kernel, by decide +kernel, by decide +kernel⟩
theorem test_key_write : 0x30400 + 0x80 * (0 : KeySlotIx).val + 8 = (0x30408 : BitVec 20).toNat ∧ 8 % 8 = 0 ∧ 8 < 96 := by decide
theorem test_revoked_kept : ∃ s : State, s.Inv ∧ s.mgt.keys[(0 : KeySlotIx)].state = .revoked ∧ ∃ t, exec .mainLow s = .next t :=
  ⟨on.modMgt (fun m => { m with keys := vset m.keys 0 { state := .revoked, x := 0, y := 0 } }),
    ⟨test_inv_on.1, test_inv_on.2, test_inv_on.3, test_inv_on.4, test_inv_on.5, test_inv_on.6⟩, rfl, _, rfl⟩
theorem test_time_changes : on.clock.change = none ∧ on.clock.incrNext = none ∧
    (({ on.clock with change := some (.step false) } : Clock).change.isSome = true ∨ on.clock.incrNext.isSome = true) ∧
    0x0380000000 ≤ (0x0400000000 : BitVec 40).toNat ∧ (0x0400000000 : BitVec 40).toNat ≤ 0x0480000000 := by decide
theorem test_setup_lock : (on.fn 0).setupLock = false ∧ on.idsValid = false ∧ (placed0 .off).idsValid = true ∧ (on.fn 1).dblMode = false := by decide
theorem test_bind : (∀ n ∈ ([1, 0, 0, 0] : List Nat).filter (· ≠ 0), n ≤ 32) ∧ (([1, 0, 0, 0] : List Nat).filter (· ≠ 0)).Nodup ∧ (on.part 0).shown = .marks := by
  decide
theorem test_install : (0x00000017 : W32) ≠ on.mgt.machineId ∧ (∀ p : PartId, (on.part p).shown = .marks ∨ (on.part p).shown = .faulted) ∧ on.jobs = [] := by decide
theorem test_topology_value : (0x80080808 : W32).getLsbD 31 = true ∧ extentOk ((0x80080808 : W32).toNat % 32) 16 = true ∧
    extentOk ((0x80080808 : W32).toNat / 2 ^ 16 % 64) 32 = true ∧ (0x80080808 : W32).toNat / 2 ^ 24 % 16 < (0x80080808 : W32).toNat % 32 := by decide
theorem test_stamp_waits : ∃ e rest, ({ on.clock.stamps[(0 : PortId)] with entries := [TxStamp.zero] } : PortStamps).entries = e :: rest := ⟨_, _, rfl⟩
theorem test_tick : on.power.porReleased = true ∧ on.clock.change = none ∧ (on.clock.total + 1000) / 10 ^ 9 < 2 ^ 64 ∧
    ((1 : W64).toInt).natAbs ≤ on.clock.thresh.toNat ∧ on.clock.thresh.toNat < ((2000000 : W64).toInt).natAbs := by decide
theorem test_log_queue : ∃ e rest, (on.logs Code.warmReset).log.input = e :: rest ∧ faultClass e.code = 5 ∧ on.log.pinned.toNat < 32 :=
    ⟨_, _, rfl, by decide, by decide⟩

/-! The board and the service ports (O58 to O60). -/

theorem test_board : on.power.porReleased = true ∧ on.landsCut = false ∧ rom.power.mainPg = false ∧ on.fwServes = true ∧
    (placed0 .up).mgmtAddress (mkFa true 0x111 0) false 16 = some (mkFa true 0x111 0) ∧ ((placed0 .up).freeReq true).isSome = true := by decide
/-- A port with link on sub-port 0 in mode 1. -/
def linked : State := on.modPort 0 (fun q => { q with mode := 1, linkUp := 1, pauseEn := true })
/-- A broadcast frame of 60 bytes that is neither IP nor time. -/
def plain : List Byte := List.replicate 6 0xFF ++ List.replicate 6 0 ++ [0x90, 0] ++ List.replicate 46 0
theorem test_frame_accepted : (linked.port 0).linkUp.getLsbD 0 = true ∧ plain.length = 60 ∧ linked.accepts 0 0 plain = true ∧ beAt plain 12 2 = 0x9000 ∧
    linked.svc.mgmtRing.length < 256 ∧ (parseHeaders plain).tooDeep = false ∧ (parseHeaders plain).lengths plain = .accept false := by decide
/-- A request of a channel with a payload. -/
def zsh (ch : Byte) (bs : List Byte) : ZshRequest :=
  { port := 0, sub := 0, channel := ch, vf := 1, seq := 1, header := [], l3 := 14, l4 := 34, v6 := false, payload := bs, taken := false }
def asked (s : State) (r : ZshRequest) : State := s.modSvc (fun v => { v with requests := [r] })
theorem test_requests : ∀ ch ∈ [(0 : Byte), 1, 2, 3], ∃ r, (asked on (zsh ch [])).svc.waiting? ch.toNat = some r ∧ r.payload.length < 64 ∧
    (asked on (zsh ch [])).requestsServed = true ∧ on.svc.waiting? ch.toNat = none := by
  intro ch h
  simp only [List.mem_cons, List.not_mem_nil, or_false] at h
  obtain rfl | rfl | rfl | rfl := h <;> exact ⟨_, rfl, by decide, by decide, rfl⟩
theorem test_query_request : (Desc.ofBytes 0 (.zsh 0 1) ((List.replicate 7 0 ++ [BitVec.ofNat 8 Op.query] ++ List.replicate 56 0).take 64)).opcode = Op.query := by
  decide
/-- A channel 2 request for 16 bytes of region 0 of P0. -/
def streamReq : ZshRequest := zsh 2 (List.replicate 16 0 ++ [16] ++ List.replicate 7 0)
theorem test_stream_request : ∀ s : State, s = asked stood streamReq → s.svc.waiting? 2 = some streamReq ∧ streamReq.payload.length = 24 ∧
    s.jobOfLead 0 = some (standing none) ∧ s.svc.streamSlot = some 0 ∧ (standing none).phys (leAt streamReq.payload 1 1) = some 0 ∧
    s.canStream (standing none) = true ∧ leAt streamReq.payload 8 8 + leAt streamReq.payload 16 8 ≤ meLen (mkMapEntry 0xFFFFFFFF 15 Purpose.tensor 0x7F 2 0) := by
  rintro s rfl
  exact ⟨rfl, rfl, rfl, rfl, rfl, by decide, by decide⟩
theorem test_stream_chunk : ∃ t : OutStream, (on.modSvc (fun v => { v with streams := vset v.streams 0 (some t) })).svc.streams[(0 : Fin 4)] = some t ∧
    t.stop = none ∧ t.sent < t.length ∧ on.fwServes = true :=
  ⟨{ lead := 0, part := 0, base := 0, offset := 0, length := 16, sent := 0, req := streamReq, stop := none }, rfl, rfl, by decide, rfl⟩
theorem test_port_up : (on.port 0).linkUp.getLsbD 0 = false ∧ (linked.port 0).mode = 1 ∧ (on.port 0).mode = 0 ∧
    (∀ k : Fin 4, (1 : W32).toNat / 2 ^ (8 + 2 * k.val) % 4 ≠ 3) := by decide
theorem test_tring : ∀ s : State, s = (windowed on 4096).modTring 0 (fun t => { t with vf := 1, dbl := 0x200000 }) → (s.tring 0).enable = false ∧
    (s.tring 0).setupOk = true ∧ s.hostCount (s.tring 0).dbl = some 0 := by rintro s rfl; decide
/-- The transmit ring with one descriptor of a 64-byte frame for sub-port 0 of port 0. -/
def sending : State := { windowed linked 4096 with
  hiu := { (windowed linked 4096).hiu with port := .up }
  svc := { (windowed linked 4096).svc with
    tx := { Sq.reset with enable := true, base := 0x300000, dbl := 0x200000 } }
  host := { (windowed linked 4096).host with mem := [(0x200000, 1), (0x300002, 0), (0x300003, 1)].filter (fun x => x.2 != 0) } }
theorem test_tx : sending.power.mainPg = true ∧ sending.hiu.port = .up ∧ sending.svc.tx.errCause = 0 ∧ sending.hostCount sending.svc.tx.dbl = some 1 ∧
    (1 : W32) ≠ sending.svc.tx.head ∧ ((1 : W32) - sending.svc.tx.head).toNat ≤ sending.svc.tx.size ∧
    (∃ bs, sending.hostRead 0x300000 64 = some bs ∧ txOk (fun i => BitVec.ofNat 64 (leAt bs (8 * i) 8)) = true) ∧
    (sending.port 0).linkUp.getLsbD 0 = true ∧ (sending.port 0).paused.getLsbD 0 = false :=
  ⟨rfl, rfl, rfl, by decide, by decide, by decide, ⟨_, rfl, by decide⟩, by decide, by decide⟩

/-! Further clauses: states that meet their hypotheses together. -/

theorem test_nothing_under_way : on.infield.transit = [] ∧ (∀ l : LinkId, (on.link l).elastic = [] ∧ (on.link l).sincePresented = none) ∧
    on.pace.holds = [] ∧ on.infield.flights = [] := ⟨rfl, by decide, rfl, rfl⟩
theorem test_port_trains : ∀ s : State, s = { on with hiu := { on.hiu with port := .detect }, power := { on.power with perst := false } } →
    s.hiu.port ≠ .reset ∧ s.power.mainPg = true ∧ s.power.perst = false ∧ ∀ f : FnId, (s.fn f).dblMode = false := by
  rintro s rfl; exact ⟨by decide, rfl, rfl, by decide⟩
/-- PF0's window of 1 GiB with a header at its start that is in DEVICE, and no image behind it. -/
def updating : State := { windowed on 16 with fns := vmod (windowed on 16).fns 0 (fun f => { f with winRoot := 0x1001 }) }
theorem test_update_header : updating.walk 0x1001 0 64 true = .page 0x40000000 64 ∧ updating.boot.fwOffset = 0 ∧ (updating.fn 0).winRoot = 0x1001 ∧
    winOffsetOk 0 = true ∧ (∃ bs, updating.hostRead 0x40000000 16 = some bs ∧ headerBad 0 (leAt bs 0 8) (leAt bs 8 8) = false ∧
      leAt bs 0 8 % 4 = Owner.device) := ⟨by decide, rfl, rfl, by decide, _, rfl, by decide, by decide⟩
/-- A buffer shorter than the firmware header fails the read. -/
theorem test_update_short : ∃ v, updating.fwFetch 0x1001 0 16 = (v, .fail Status.bufferShort 0 false Code.bufferShort) :=
  ⟨updating.winFault 0 Code.bufferShort, rfl⟩
theorem test_sample_feed : ∀ s : State, s = (planned 2 0).modLink 0 (fun k => { k with
      feed := (List.range (segLen 0x20000000)).map (fun i =>
        ({ transfer := 0, occ := { lapIndex := 0, slot := 0, seqEntry := 0, table := 0, xfer := 0, len := segLen 0x20000000 }
           index := i, data := [] } : StoredFrame)) }) →
    (s.link 0).fedWhole 0 { lapIndex := 0, slot := 0, seqEntry := 0, table := 0, xfer := 0, len := segLen 0x20000000 } = true ∧
    ((planned 2 0).link 0).fedWhole 0 { lapIndex := 0, slot := 0, seqEntry := 0, table := 0, xfer := 0, len := segLen 0x20000000 } = false := by
  rintro s rfl; decide
theorem test_spare_slot : (planJob 0).spanAt 100 = some { index := 0, entry := 0, table := 0, start := 0, held := false } ∧
   set0.kindAt 0 100 = Seg.spare ∧ (planJob 0).activePlan.bind (·.set? 0 false) = some set0 := by decide
theorem test_elastic : ∀ s : State, s = (onLink (fun k => { k with elastic := List.replicate 8 (0, 0) })) → 8 ≤ (s.link 0).elastic.length ∧ s.up 0 = true ∧
   on.early 0 0 = false := by rintro s rfl; exact ⟨by decide, rfl, rfl⟩
theorem test_early (raw : RawFrame) (h : (decodeLinkFrame raw).parts.pace0 = 0) : ∀ s : State, s = (planned 0 0).modLink 0 (fun k => { k with delay := 20 * 256 }) →
   (s.link 0).elastic = [] ∧ s.early 0 raw = true := by
  rintro s rfl
  refine ⟨rfl, ?_⟩
  simp only [State.early, h]
  decide
theorem test_ack : ∀ s : State, s = onLink (fun k => { k with ackFrom := some 0, badRun := 3, uncorrRun := Vector.replicate 18 4 }) →
   (s.link 0).ackFrom = some 0 ∧ s.pace.count.toNat < 0 + 128 ∧ 3 ≤ (s.link 0).badRun ∧ 4 ≤ (s.link 0).uncorrRun[(3 : LaneIx)] ∧ (on.link 0).badRun < 3 := by
  rintro s rfl; decide
theorem test_load_waits : ∀ s : State, s = (windowed on 4096).modMgt (fun m => { m with loads := [loadDesc] }) →
   ∀ t : State, t = ({ s with hiu := { s.hiu with winOps := [{ (s.winOp loadDesc none) with phase := .reply 0, claim := some 0x40000000 }] }} : State) →
   t.canClaim (t.winOp loadDesc none) = false := by
  rintro s rfl t rfl; decide
theorem test_line_held : ∀ s : State, s = { ringed true with
     hiu := { (ringed true).hiu with cxlCache := true, lines := [(0x200000, .shared)] }
     fns := vmod (ringed true).fns 1 (fun f => { f with dblMode := true }) } →
   s.snoops 1 = true ∧ s.hiu.lines.any (·.1 == ((s.fn 1).sqs[(0 : RingIx)]).dbl.toNat) = true ∧ (0x200000 ≤ 0x200020 ∧ 0x200020 < 0x200000 + 64) := by
  rintro s rfl; decide
theorem test_fetch_turn : (ringed true).fetchDue = some (1, 0) ∧ (ringed false).fetchDue = none := by decide
theorem test_update_waits : ∀ s : State, s = on.modMgt (fun m => { m with task := some { desc := desc Op.load 0 0 0 0, parts := [0], image := img, lost := false } }) →
    s.loading = true ∧ on.loading = false ∧ (∀ (f : FnId) (n : RingIx), ∀ d ∈ (on.fn f).sqs[n].held, Op.ofMc d.opcode = false) := by
  rintro s rfl; exact ⟨rfl, rfl, by decide⟩
theorem test_reserve_good : ∀ x ∈ on.sram.reserve, x.part ≠ .recovery := by decide
theorem test_slip_armed : ∀ s : State, s = { planned 0 8 with pace := { (planned 0 8).pace with
      holds := [{ target := 4096, jobIndex := 0, raisedHere := false, counted := false }] } } →
    s.slipTarget (planJob 0) 8 = some 4096 ∧ s.armed 4096 = true ∧ s.holdDue (lap0 0) 4096 =
      some { target := 4096, jobIndex := 0, raisedHere := false, counted := false } := by
  rintro s rfl; decide
theorem test_slip_late : ∃ n, (planned 0 5000).slipTarget (planJob 0) 8 = some n ∧ (planned 0 5000).armed n = false ∧ n ≤ (planned 0 5000).pace.count.toNat :=
  ⟨4096, by decide, by decide, by decide⟩
theorem test_slip_of_no_job : (∀ j ∈ follower.jobs, j.phase = .run → j.index ≠ 0) ∧ follower.treeLink 0 = true := by decide

/-! Rings, scrubs, jobs and descriptors. -/

/-- A cell unit that stands at position 3 of ring 2, one hop before its goal. -/
def hopUnit : RingUnit := { load := .cell .here false (writeCell 0), out := none, place := some (2, 3), legs := [{ dir := 2, pos := 3, goal := 4 }] }
theorem test_hop : hopUnit.cell?.isSome = true ∧ hopUnit.on { dir := 2, pos := 3, goal := 4 } = true ∧
    ({ dir := 2, pos := 3, goal := 4 } : RingLeg).next ≠ 3 ∧ (hopUnit.hop { dir := 2, pos := 3, goal := 4 } []).legs = [] := by decide
/-- An upset can strike it, and a unit that has a double-bit error keeps that. -/
theorem test_ring_strike : (on.modInfield (fun i => { i with transit := [hopUnit] })).infield.transit[0]? = some hopUnit ∧ hopUnit.place ≠ none ∧
    hopUnit.err = none ∧ (((on.modInfield (fun i => { i with transit := [{ hopUnit with err := some .double }] })).strike
      (.ring 0, .single)).infield.transit.map (·.err)) = [some .double] := ⟨rfl, by decide, rfl, rfl⟩
/-- The same job, two beats before its first slot. -/
def ringAhead : Job := { ringJob with lap := some { lap0 2 with prevStart := 2 } }
theorem test_ring_ahead : ∃ x, (busy .run ringAhead Partition.reset).spanAhead ringAhead 2 = some x ∧ x.held = false ∧
    (ringSet0 false).occAt x.table 0 (2 - x.start) = some (0, 0x20000000, 0) ∧ ringAhead.spanAt 0 = none ∧ ringAhead.ringUse 0 = .send ∧
    (busy .run ringAhead Partition.reset).ringReady ringAhead 0 = none ∧ ringAhead.ringSampled = [] := ⟨_, rfl, rfl, by decide, rfl, rfl, rfl, rfl⟩
theorem test_ring_slot : ∃ x, ringJob.spanAt 0 = some x ∧ (ringSet0 false).occAt x.table 0 (0 - x.start) = some (0, 0x20000000, 0) := ⟨_, rfl, by decide⟩
theorem test_reserve_word : ∀ s : State, s = on.modSram (fun m => { m with
      reserve := [{ die := 0, part := .unusedSpace, holder := none, word := 5, err := .double }] }) →
    s.sram.reserve = [{ die := 0, part := .unusedSpace, holder := none, word := (5 : Fin (2 ^ 25)).val, err := .double }] ∧
    (∀ x ∈ s.sram.reserve, x.die = 0 → x.word ≠ (6 : Fin (2 ^ 25)).val) ∧ ∀ x ∈ s.sram.reserve, x.part ≠ .planGolden ∧ x.part ≠ .mapGolden := by
  rintro s rfl; exact ⟨rfl, by decide, by decide⟩
/-- A loop descriptor of a 2 x 3 block, transposed. -/
def transposed : Loops := { counts := [2, 3, 1, 1, 1, 1], strides := [1, 2, 0, 0, 0, 0], transpose := true, rsvd := false }
theorem test_transpose : transposed.ok = true ∧ transposed.total = 6 ∧ transposed.counts.headD 1 * transposed.counts.getD 1 1 * 4 ≤ 65536 ∧
    bit (0x2000 : W64) 13 = true := by decide
theorem test_orphan : ∀ j : Job, j = { bound 1 1 with lap := some { lap0 0 with ended := true } } → j.lapEnded = true ∧
    j.occTotal false 0 ≤ (j.xfer 0).bound ∧ (bound 1 1).lapEnded = false := by rintro j rfl; decide
theorem test_hurdle_waits : ∀ (s : State) (j : Job), j = { planJob 0 with image := { planImg with hurdles := [decl1] } } →
    s = (busy .run j Partition.reset).modLink 0 (fun k => { k with owner := some 1, replayPtr := some 0 }) →
    s.sendsPending j = true ∧ (busy .run j Partition.reset).sendsPending j = false ∧ j.image.hurdles[j.nextHurdle]? = some decl1 ∧ decl1.seqEntry = 0 := by
  rintro s j rfl rfl; exact ⟨by decide, by decide, rfl, rfl⟩
/-- A hold that another package raised, due at the first boundary. -/
def hold0 : ArmedHold := { target := 4096, jobIndex := 0, raisedHere := false, counted := false }
theorem test_hold_due : ∀ (s : State) (j : Job), j = { planJob 0 with image := { planImg with slipBudget := 1 } } →
    s = { busy .run j Partition.reset with pace := { Pacer.reset with count := 4096, holds := [hold0] } } →
    s.holdDue (lap0 0) 4096 = some hold0 ∧ ∀ q ∈ s.jobs, q.phase = .run →
      (if s.pace.window = hold0.target / 2 ^ 24 then s.pace.windowSlips + 1 else 1) ≤ q.image.slipBudget := by rintro s j rfl rfl; decide
theorem test_transfer_outside : regionOf map1.used 8192 1 = none ∧ meHas (mkMapEntry 0xFFFFFFFF 15 Purpose.tensor 0 2 0) Kind.window = false ∧
    meStart (mkMapEntry 0xFFFFFFFF 15 Purpose.tensor 0x7F 2 0) + meLen (mkMapEntry 0xFFFFFFFF 15 Purpose.tensor 0x7F 2 0) < 8176 + 32 := by decide
theorem test_short_buffer : ∀ s t : State, s = windowed (busy .set (job img .loaded) Partition.reset) 15 →
    t = s.pushOp (s.winOp transferDesc (some 0)) → ∃ u q, t.openHeader (s.winOp transferDesc (some 0)) = .opened u q ∧ q.hdr.len < transferDesc.length := by
  rintro s t rfl rfl; exact ⟨_, _, rfl, by decide⟩
theorem test_transfer_fill : ∀ s t : State, s = windowed (busy .set (job img .loaded) Partition.reset) 16 →
    t = s.pushOp (s.winOp transferDesc (some 0)) → ∃ u q bs, t.openHeader (s.winOp transferDesc (some 0)) = .opened u q ∧ transferDesc.toHost = false ∧
      u.winRead q.root 16 (q.offset.toNat + 64) 16 = (bs, none) := by rintro s t rfl rfl; exact ⟨_, _, _, rfl, rfl, rfl⟩
/-- A TRANSFER whose data has ended, and one before it that waits. -/
def closing : WinOp := { on.winOp transferDesc (some 0) with claim := some 0x40000000, phase := .close 0 (some 0x40000000) 16 false 16 0 0 }
theorem test_window_close : ∀ s : State, s = { on with hiu := { on.hiu with winOps := [on.winOp transferDesc (some 0)] ++ closing :: [] } } →
    s.hiu.winOps = [on.winOp transferDesc (some 0)] ++ closing :: [] ∧
    (∀ x ∈ [on.winOp transferDesc (some 0)], x.phase = .waiting ∨ ∃ k, x.phase = .reply k) ∧ closing.desc.postEn = false := by
  rintro s rfl; exact ⟨rfl, fun x hx => .inl (by simp at hx; subst hx; rfl), rfl⟩
/-- Queue 0 of tile 0, with room for one entry, and full. -/
def postQueue (es : List QEntry) : Queue :=
  { tile := 0, queue := 0, consumer := .vector, depth := 1, region := 0, offset := 0, entries := es, highest := es.length }
theorem test_predicate_post : (desc Op.predicate 0 0x4000000000000000 0x10001 0).postEn = true ∧
    (desc Op.predicate 0 0x4000000000000000 0x10001 0).predicateOk = true ∧
    ({ Partition.reset with queues := [postQueue []] } : Partition).hasRoom (refTile (desc Op.predicate 0 0 0x10001 0).baton)
      (refQueue (desc Op.predicate 0 0 0x10001 0).baton) = true ∧
    ({ Partition.reset with queues := [postQueue [0]] } : Partition).hasRoom (refTile (desc Op.predicate 0 0 0x10001 0).baton)
      (refQueue (desc Op.predicate 0 0 0x10001 0).baton) = false := by
  decide
theorem test_reset_zeroing : ∀ q : Partition, q = { Partition.reset with zeroing := true, left := .hold } → q.st = .marks ∧ q.shown = .hold ∧
    Partition.reset.shown = .marks := by rintro q rfl; decide
theorem test_load_refused : ∀ s : State, s = windowed (busy .faulted (job img .faulted) Partition.reset) 16 → s.bound 1 0 = true ∧
    (s.part 0).st ≠ .marks ∧ (s.part 0).owner = some 1 ∧ on.bound 1 0 = false := by rintro s rfl; decide

/-! Further witnesses: power, hosts, units and the pace. -/

theorem test_standby_values : ({ rom.power with stbyEpisode := true } : Power).stbyEpisode = true ∧
    (3000 ≤ (3000 : BitVec 13).toNat ∧ (3134 : BitVec 13).toNat < 3135) ∧ (3465 < (3466 : BitVec 13).toNat ∧ (3800 : BitVec 13).toNat ≤ 3800) ∧
    3135 ≤ (3135 : BitVec 13).toNat ∧ (3465 : BitVec 13).toNat ≤ 3465 ∧ (2999 : BitVec 13).toNat < 3000 ∧ 3800 < (3801 : BitVec 13).toNat := by decide
theorem test_host_lanes : on.hostLanes = true ∧ rom.hostLanes = false ∧ (mcWith on (desc 0 0 0 0 0)).hiu.port = .up ∧ on.hiu.headerWaits = [] ∧
    ({ on.hiu with port := .detect } : Hiu).port = .detect ∧ ({ on.hiu with port := .detect } : Hiu).downEpisode = false ∧
    (∀ x ∈ on.hiu.headerWaits, x.user ≠ .firmware) := by decide
/-- The image's header in DEVICE, behind which PF0's window holds no image, is free for the update to claim. -/
theorem test_update_claims : ∀ u : State, u = { updating with boot := { updating.boot with stage := .reading } } → updating.hostLanes = true ∧
    updating.boot.stage = .idle ∧ updating.boot.mode = .running ∧ updating.loading = false ∧
    u.mayTake (u.headerWait .firmware 0 updating.boot.fwOffset) = true := by rintro u rfl; decide
/-- A descriptor of PF0 that holds the header makes it wait. -/
theorem test_update_held : ∀ u : State, u = { updating with hiu := { updating.hiu with winOps := [{ updating.winOp (mgmtDesc 0) none with
      phase := .reply 0, claim := some 0x40000000 }] } } → u.mayTake (u.headerWait .firmware 0 updating.boot.fwOffset) = false := by
  rintro u rfl; decide
theorem test_lands_cut : ∀ s : State, s = { on with side := { on.side with jtag := .extest } } → s.landsCut = true ∧ on.landsCut = false := by
  rintro s rfl; decide
theorem test_sequencer_of_a_job : (streaming .running).inHold (.sequencer 0) = false ∧ (0 : PartId) ∈ dieParts 0 ∧ ((streaming .running).part 0).st = .run ∧
    ((streaming .running).part 0).streams ≠ [] ∧ (streaming .running).jobOf 0 = some (job streamImg .run) ∧
    (∀ q ∈ dieParts 0, q ≠ 0 → ((streaming .running).part q).st ≠ .run) ∧ (∀ p ∈ dieParts 0, (running.part p).streams = []) := by decide
/-- A pace master with a job in RUN. -/
def master (p : Pacer) : State := { planned 0 0 with
  pace := { p with domain := some { id := 1, treeDepth := 0, pkgDepth := 0, parent := none, children := 3, hopDelay := 10 } } }
theorem test_mark_of_a_master : (∃ d, (master Pacer.reset).pace.domain = some d ∧ d.parent = none) ∧ (master Pacer.reset).pace.count.toNat % 4096 = 0 ∧
    ({ on.pace with rackrefBack := true } : Pacer).rackrefBack = true ∧ ({ on.clock with paceFrozen := true } : Clock).paceFrozen = true ∧
    (master Pacer.reset).power.limit.toNat < 4095 ∨ (master Pacer.reset).power.limit.toNat = 4095 := by
  exact .inl ⟨⟨_, rfl, rfl⟩, by decide, by decide, by decide, by decide⟩
theorem test_evaluation : (master Pacer.reset).pace.outstanding = none ∧ (master Pacer.reset).pace.skipEval = false ∧
    (∃ j ∈ (master Pacer.reset).jobs, j.phase = .run) ∧
    (∀ p : Pacer, p = { Pacer.reset with stretchClass := 1, floor := 2, grade := 1 } → (0 : Fin 8).val < p.stretchClass.toNat ∧
      p.stretchClass.toNat ≤ (1 : Fin 8).val ∧ p.grade.val < p.floor.toNat) ∧
    (∀ p : Pacer, p = { Pacer.reset with stretchClass := 1, floor := 0, grade := 1 } → p.floor.toNat ≤ p.grade.val ∧ (0 : Fin 8) < p.grade ∧
      p.grade < 2) ∧ ({ Pacer.reset with skipEval := true } : Pacer).skipEval = true := by
  refine ⟨rfl, rfl, ⟨_, List.mem_cons_self .., rfl⟩, ?_, ?_, rfl⟩ <;> (rintro p rfl; decide)
theorem test_power_marks : ∀ p : Power, p = { on.power with limit := 100, peakPower := 90 } → p.limit.toNat < (101 : BitVec 12).toNat ∧
    p.powerStretch = false ∧ max (94 : BitVec 12).toNat p.peakPower.toNat * 100 < p.limit.toNat * 95 ∧
    p.limit.toNat * 95 ≤ max (95 : BitVec 12).toNat p.peakPower.toNat * 100 := by rintro p rfl; decide
/-- A slip request of the job in RUN has its next boundary; that of a job which is not in RUN has a count of the model's. -/
theorem test_request_target : (planned 0 8).jobs.find? (fun j => j.phase == .run && j.index == 0) = some (planJob 0) ∧
    (planned 0 8).requestTarget 0 8 = some 4096 ∧ (∀ j ∈ (planned 0 8).jobs, j.phase = .run → j.index ≠ 1) ∧
    on.treeLink 0 = false ∧ (master Pacer.reset).treeLink 1 = true := by decide
/-- The last lap of a sequence without a loop. -/
def lastImg : Image := { img with plan := some { lapLen := [4096], loopEntry := noLoop, plans := [plan0] } }
def lastJob : Job := { planJob 0 with image := lastImg }
theorem test_sequence_end : (∃ k, lastJob.image.plan = some k ∧ k.next plan0 0 0 = none) ∧ lastJob.divergedAtLap = false ∧
    ({ lastJob with divergedAtLap := true } : Job).divergedAtLap = true ∧ (lap0 0).held = false ∧
    (∃ k, (planJob 0).image.plan = some k ∧ k.loopEntry ≠ noLoop) ∧ ({ planJob 0 with endCount := some 4096 } : Job).endCount = some 4096 ∧
    (∀ x ∈ lastJob.bindQ.flatMap (·.2), x.cmd.cmd.opcode ≠ 1) ∧ (∃ x, ((bound 0 1).bindQ.flatMap (·.2)).find? (fun x => x.cmd.cmd.opcode == 1) = some x) ∧
    (∀ b ∈ lastJob.sends, b.occurrence < lastJob.occTotal false b.transfer) :=
  ⟨⟨_, rfl, by decide⟩, rfl, rfl, rfl, ⟨_, rfl, by decide⟩, rfl, by decide, ⟨_, rfl⟩, by decide⟩
/-- A SEND bound to an occurrence that the sequence does not hold. -/
def send0 (n void : Nat) : BoundSend :=
  { part := 0, cmd := issued (cmd 4 1 0 0 16 0 0), transfer := 0, occurrence := n, void := void, carried := 0, posted := false }
theorem test_sequence_end_orphan : ∀ j : Job, j = { lastJob with sends := [send0 9 0] } →
    j.sends.find? (fun b => decide (j.occTotal false b.transfer ≤ b.occurrence)) = some (send0 9 0) := by rintro j rfl; decide
/-- A hold over the budget of the one job of the package. -/
theorem test_hold_over_budget : ∀ s : State, s = { planned 0 4096 with pace := { (planned 0 4096).pace with holds := [hold0] } } →
    s.holdDue (lap0 0) 4096 = some hold0 ∧ s.jobs = [planJob 0] ∧ (planJob 0).image.slipBudget < 1 := by rintro s rfl; exact ⟨by decide, rfl, by decide⟩

/-! Further witnesses: the slots, bursts and bodies of a link. -/

/-- A table whose first four slots are a burst, U, IDLE and SPARE, the rest SPARE, sent on link 0 or received. -/
def set4 (rx : Bool) : TableSet :=
  { set0 with rx := rx, tables := [(0, 4)], segs := [0x20000000, 0x40000000, 0, 0x60000FFC] }
def plan4 : PlanDef := { plan0 with sets := [set4 false, set4 true] }
def job4 : Job := { planJob 0 with image := { planImg with plan := some { lapLen := [4096], loopEntry := 0, plans := [plan4] } }, sends := [send0 0 0] }
/-- The job in RUN at a count, its link 0 changed. -/
def slots4 (count : Nat) (f : Link → Link) : State :=
  { (busy .run job4 Partition.reset).modLink 0 (fun k => f { k with owner := some 1, tableA := some plan4, tableB := some plan4 }) with
    pace := { Pacer.reset with count := BitVec.ofNat 64 count } }
def span0 : LapSpan := { index := 0, entry := 0, table := 0, start := 0, held := false }
def occ0 : Occurrence := { lapIndex := 0, slot := 0, seqEntry := 0, table := 0, xfer := 0, len := 1 }
theorem test_slots (c : Fin 4) : (slots4 c id).up 0 = true ∧ (slots4 c id).ownerRun 0 = some job4 ∧ job4.lap = some (lap0 0) ∧
    job4.spanAt c = some span0 ∧ (slots4 c id).readTables 0 job4 false span0 c = (slots4 c id, some (some (set4 false))) ∧
    (slots4 c id).readTables 0 job4 true span0 c = (slots4 c id, some (some (set4 true))) := by
  match c with
  | 0 | 1 | 2 | 3 => exact ⟨rfl, rfl, rfl, rfl, rfl, rfl⟩
theorem test_slot_kinds : (segAt 0 ((set4 false).segsOf 0)).map (fun x => (x.1, segKind x.2, segLen x.2)) = some (0, Seg.burst, 1) ∧
    (segAt 1 ((set4 false).segsOf 0)).map (fun x => segKind x.2) = some Seg.u ∧
    (segAt 2 ((set4 false).segsOf 0)).map (fun x => segKind x.2) = some Seg.idle ∧
    (segAt 3 ((set4 false).segsOf 0)).map (fun x => (x.1, segKind x.2)) = some (3, Seg.spare) ∧
    (segAt 4095 ((set4 false).segsOf 0)).map (fun x => x.1) = some 3 ∧ (set4 false).xfer? 0 = some Transfer.zero := by decide
theorem test_spare_slot_sends (j : Job) (v : State) (hv : v = (slots4 3 id).exhaust 0 job4 (some (set4 false)) span0 3) (hj : j = job4) :
    v.sendBacklog 0 (some j) = none ∧ ∃ t, (slots4 3 (fun k => { k with unacked := [entry0], replayPtr := some 0 })).sendBacklog 0 (some j) = some t := by
  subst hv hj; exact ⟨rfl, _, rfl⟩
/-- What the sample of the burst's first slot can have decided. -/
def sampled0 (o : SampleOutcome) : Sampled := { occ := occ0, number := 0, outcome := o }
theorem test_burst_slot (o : SampleOutcome) : ∀ s : State, s = slots4 0 (fun k => { k with
      sampled := [sampled0 o], feed := [{ transfer := 0, occ := occ0, index := 0, data := [7] }] }) →
    (s.link 0).sampled.find? (fun a => a.occ.lapIndex == 0 && a.occ.slot == 0) = some (sampled0 o) ∧ (s.link 0).inBuffer < 248 ∧
    (s.link 0).fed Transfer.zero.number occ0 (0 - 0) = some [7] ∧ job4.boundAt Transfer.zero.number 0 = some (send0 0 0) := by
  rintro s rfl; exact ⟨rfl, (by decide : 0 < 248), rfl, rfl⟩
/-- A sample two beats ahead, with a bound SEND that is void, one whose feed is late, and one whose feed has come. -/
theorem test_sampled : (∀ s : State, s = planned 2 0 → (s.link 0).sampled = [] ∧ (s.link 0).deferred = [] ∧
      (s.link 0).fedWhole Transfer.zero.number occ0 = false) ∧
    ({ planJob 2 with sends := [send0 0 5] } : Job).boundAt Transfer.zero.number ((planJob 2).occNumber set0 Transfer.zero.number 0 0) =
      some (send0 0 5) ∧ (send0 0 5).void ≠ 0 ∧ (send0 0 0).void = 0 ∧
    (slots4 0 (fun k => { k with feed := [{ transfer := 0, occ := occ0, index := 0, data := [7] }] }) |>.link 0).fedWhole 0 occ0 = true := by
  refine ⟨?_, rfl, by decide, rfl, by decide⟩
  rintro s rfl; exact ⟨rfl, rfl, by decide⟩
/-- A cell that leaves on link 0, and the credits for it. -/
def leaving : RingUnit := { load := .cell .here false (writeCell 1), out := some 0, place := none, legs := [] }
theorem test_cells_leave : ∀ s : State, s = (onLink (fun k => { k with creditMgmt := 2, creditJob := 2 })).modInfield (fun i => { i with transit := [leaving] }) →
    readyUnits (some 0) s.infield.transit [] = [leaving] ∧ leaving.err = none ∧ leaving.chan = .mgmt ∧
    takeCells 0 32 (s.link 0).creditMgmt [] [leaving] = ([leaving], 1) ∧ takeCells 0 31 (s.link 0).creditJob [] [] = ([], 2) := by
  rintro s rfl; exact ⟨rfl, rfl, rfl, rfl, rfl⟩
theorem test_deferred_in_spare : ∀ s : State, s = slots4 3 (fun k => { k with
      deferred := [{ lead := 0, occ := occ0, transfer := 0, number := 0, ready := true, nextSlot := 0 }]
      feed := [{ transfer := 0, occ := occ0, index := 0, data := [7] }] }) →
    s.ownerRun 0 = some job4 ∧ (s.link 0).backlog = [] ∧ s.deferredReady 0 job4 = true ∧ job4.spanAt s.pace.count.toNat = some span0 ∧
    job4.activePlan.bind (·.set? 0 false) = some (set4 false) ∧ (set4 false).kindAt 0 3 = Seg.spare := by
  rintro s rfl; exact ⟨rfl, rfl, by decide, rfl, rfl, by decide⟩
/-- A frame at slot n of the lap, of a kind and void flag, with its burst's length less 1, TRANSFER and rank. -/
def bodyAt (n kind : Nat) (void : Bool) (slotsM1 : Nat) (xfer : W16) (rank : BitVec 13) : FrameBody :=
  { FrameBody.null with slot0 := mkSlot0 kind void false 0 slotsM1 0 xfer rank n }
theorem test_bodies : (slots4 0 id).ownerRun 0 = some job4 ∧ job4.domainId = 0 ∧ job4.index = 0 ∧ job4.planSel = 0 ∧
    (∀ b : FrameBody, b = bodyAt 0 1 false 0 0 0 → b.hasJob = true ∧ b.domain = 0 ∧ b.job = 0 ∧ b.plan = 0 ∧ b.deferred = false ∧ b.lap = 0 ∧
      b.slot = 0 ∧ b.kind = 1 ∧ b.void = false ∧ b.slotsM1 + 1 = 1 ∧ b.index = 0 ∧ b.transfer = Transfer.zero.number ∧ b.rank = (set4 true).peerRank) ∧
    (bodyAt 0 0 true 0 0 0).kind = 0 ∧ (bodyAt 0 0 true 0 0 0).void = true ∧ (bodyAt 0 2 false 0 0 0).kind = 2 ∧ (bodyAt 0 1 false 1 0 0).slotsM1 = 1 ∧
    (bodyAt 0 1 false 0 1 0).transfer = 1 ∧ (bodyAt 0 1 false 0 0 1).rank = 1 ∧ (bodyAt 1 1 false 0 0 0).slot = 1 ∧
    ({ bodyAt 0 1 false 0 0 0 with slot1 := mkSlot1 1 0 0 } : FrameBody).domain = 1 ∧ (bodyAt 0 3 false 0 1 0).kind = 3 ∧
    ({ bodyAt 0 1 false 0 0 0 with slot0 := mkSlot0 1 false false 0 0 1 0 0 0 } : FrameBody).plan = 1 ∧ FrameBody.null.hasJob = false ∧
    (bodyAt 0 1 false 0 0 0).sequenced = true ∧ FrameBody.null.sequenced = false := by
  refine ⟨rfl, rfl, rfl, rfl, ?_, ?_⟩
  · rintro b rfl; decide
  · decide
/-- A job that has one arm left for TRANSFER 0, and none. -/
def armedXfer (n : Nat) : Job := { job4 with xfers := [{ job4.xfer 0 with arms := n }] }
theorem test_arms : ∀ (n : Nat) (s : State), s = busy .run (armedXfer n) Partition.reset → s.job? (armedXfer n).id = some (armedXfer n) ∧
    ((armedXfer n).xfer 0).arms = n := by rintro n s rfl; exact ⟨rfl, rfl⟩
/-- A burst of two frames of which the first has landed. -/
def landing0 : Landing := { transfer := 0, lapIndex := 0, slot := 0, next := 1, landed := 0, baton := 0, dropped := false }
theorem test_landing : ∀ s : State, s = slots4 1 (fun k => { k with landing := [landing0] }) → (s.link 0).landing = [landing0] ∧
    ({ FrameBody.null with slot0 := mkSlot0 2 false false 1 1 0 0 0 1 } : FrameBody).index ≠ 0 ∧
    ({ FrameBody.null with slot0 := mkSlot0 2 false false 1 1 0 0 0 1 } : FrameBody).kind = 2 := by rintro s rfl; exact ⟨rfl, by decide, by decide⟩
/-- A landing region for link 0. -/
def landMap : AllocMap := { map1 with entries := [mkMapEntry 0xFFFFFFFF 0 Purpose.landing 0x7F 2 0] }
/-- The one frame of the burst reaches its plot. -/
theorem test_frame_lands : ∀ (s : State) (f : StoredFrame), s = (slots4 1 (fun k => { k with landing := [landing0] })).modPart 0 (fun q => { q with
      mapA := some landMap, mapB := some landMap, mapGold := some landMap }) →
    f = { transfer := 0, occ := occ0, index := 0, data := [7] } → job4.landSet 0 f.transfer = some (set4 true) ∧
    (s.landings job4 0).find? (·.of f.transfer f.occ) = some landing0 ∧ (set4 true).entry? f.transfer = some Transfer.zero ∧
    job4.phys Transfer.zero.part = some 0 ∧
    (∃ u v a, s.landingAt 9 0 0 Transfer.zero.region (Transfer.zero.offset + 2048 * f.index) f.data.length (slotLoc 0 0 f.occ.span 0) = (u, .ok a) ∧
      u.store a f.data (slotLoc 0 0 f.occ.span 0) = (v, true)) ∧ ¬ landing0.landed + 1 < f.occ.len := by
  rintro s f rfl rfl
  exact ⟨rfl, rfl, rfl, rfl, ⟨_, _, 0, rfl, rfl⟩, by decide⟩
theorem test_empty_buffer : ∀ s : State, s = slots4 1 (fun k => { k with sincePresented := some 1, regrade := some (5, 3) }) →
    (s.link 0).sincePresented = some 1 ∧ s.locked 0 = true ∧ (s.link 0).regrade = some (5, 3) ∧ on.locked 0 = false := by
  rintro s rfl; decide
theorem test_acks : (onLink (fun k => { k with unacked := [entry0], timeouts := 7 }) |>.link 0).timeouts = 7 ∧
    (onLink (fun k => { k with spillLost := true }) |>.link 0).spillLost = true := by decide

/-! Further witnesses: lanes, training, cells, rings and scrubs. -/

/-- A cell of another package in a frame that is not acknowledged. -/
def foreignCell : Cell := { address := mkFa true 0x222 0, head := mkHead CellKind.readReq 0 true 0x333 0 0 0 0, data := 0 }
theorem test_request_in_replay (e : ReplayEntry) (he : e.body.kind = 3) (hc : e.body.cells = [foreignCell]) : ∀ s : State,
    s = onLink (fun k => { k with unacked := [e] }) → (s.link 0).replayed s.chip = [foreignCell] ∧ foreignCell.src ≠ s.chip ∧ (on.link 0).replayed on.chip = [] ∧
    (∀ f ∈ on.infield.flights, f.burst.station.val ≠ 0) := by
  rintro s rfl
  have h : ((onLink (fun k => { k with unacked := [e] })).link 0).unacked = [e] := rfl
  refine ⟨?_, (by decide : foreignCell.src ≠ on.chip), rfl, by decide⟩
  have hf : foreignCell.foreignRequest on.chip = true := by decide
  rw [Link.replayed, h]; simp [he, hc]; exact hf
theorem test_noisy_lane : ∀ s : State, s = onLink (fun k => { k with laneErrNow := 5, rx := { k.rx with errors := Vector.replicate 18 6 } }) →
    (s.link 0).laneErrNow.toNat < (s.link 0).rx.errors[(3 : LaneIx)] ∧ (on.link 0).rx.errors[(3 : LaneIx)] ≤ (on.link 0).laneErrNow.toNat ∧
    (on.link 0).uncorrRun[(3 : LaneIx)] < 4 := by rintro s rfl; decide
theorem test_receive_swap : ∀ s : State, s = onLink (fun k => { k with
      rx := { k.rx with pendingSwap := [{ lane := 3, kind := .noisy, at_ := some 8 }] }, heard := 7 }) →
    (s.link 0).rx.pendingSwap = [{ lane := 3, kind := .noisy, at_ := some 8 }] ∧ s.locked 0 = false ∧ 8 ≤ (s.link 0).heard + 1 ∧
    (s.link 0).rx.nextSpare = some 17 ∧ (on.link 0).heard + 1 < 8 ∧ (master Pacer.reset).locked 0 = true ∧
    (master Pacer.reset).pace.count.toNat < 1 + wholeBeats (master Pacer.reset).pace.grade ((master Pacer.reset).link 0).delay := by
  rintro s rfl; decide
/-- Identities that IDENTIFY refuses: a wrong port, a wrong chip id, and none programmed. -/
theorem test_wrong_identity : fld ((placed0 .identify).link 0).peerExpect 18 16 ≠ (2 : BitVec 3).toNat ∧
    fld ((placed0 .identify).link 0).peerExpect 12 0 ≠ (0x111 : BitVec 13).toNat ∧ bit (on.link 0).peerExpect 31 = false ∧
    (1 : W32) ≠ (placed0 .identify).mgt.machineId := by decide
theorem test_link_control : on.hostLanes = true ∧ State.reset.hostLanes = false ∧ ((onLink (fun k => { k with stage := .off })).link 0).stage = .off ∧
    ((onLink (fun k => { k with stage := .fault })).link 0).stage = .fault ∧ ((onLink (fun k => { k with stage := .fault })).link 0).enable = true := by decide
/-- A job-class request of a kind to the first bytes of P0. -/
def jobCell (kind : Nat) : Cell := { address := mkFa false 0 0, head := mkHead kind 0 false 0 0 0 0 0, data := mkData [1, 2, 3] }
theorem test_job_class_cell : ∀ (m : AllocMap) (s : State), m = { map1 with entries := [mkMapEntry 0xFFFFFFFF 0 Purpose.landing 0x7F 2 0] } →
    s = (busy .set (armed 0) Partition.reset).modPart 0 (fun q => { q with mapA := some m, mapB := some m }) →
    (jobCell CellKind.write).mgmt = false ∧ partOfOffset (faOffset (jobCell CellKind.write).address) = 0 ∧
    (∃ b, (s.jobOf 0).bind Job.pace = some b ∧ b.domainId = (jobCell CellKind.write).domain ∧ b.jobIndex = (jobCell CellKind.write).jobIndex) ∧
    (∃ e, regionOf ((List.range m.count).filterMap (fun i => (m.entry? i).map (fun e => (i, e)))) 0 1 = some (0, e) ∧
      mePurpose e = Purpose.landing ∧ meHas e Kind.tileRead = true ∧ 0 + (jobCell CellKind.write).span ≤ meStart e + meLen e) ∧
    regionOf ((List.range m.count).filterMap (fun i => (m.entry? i).map (fun e => (i, e)))) 8192 1 = none ∧
    (jobCell CellKind.readReq).kind = CellKind.readReq ∧ s.sram.ecc = [] := by
  rintro m s rfl rfl
  exact ⟨rfl, by decide, ⟨_, rfl, by decide, by decide⟩,
    ⟨mkMapEntry 0xFFFFFFFF 0 Purpose.landing 0x7F 2 0, by decide, by decide, by decide, by decide⟩, by decide, by decide, rfl⟩
theorem test_cell_to_hold : ∀ s : State, s = on.modPart 0 (fun q => { q with st := .hold }) → (s.part 0).st = .hold ∧
    (running.part 0).st = .run ∧ 2 ^ 36 < faOffset (mkFa true 0 (2 ^ 36 - 8)) + (writeCell CellKind.write).span ∧
    (on.part 0).mapA = none ∧ ∃ j, (busy .faulted (job img .faulted) Partition.reset).jobOf 0 = some j ∧ j.phase = .faulted := by
  rintro s rfl; exact ⟨rfl, rfl, by decide, rfl, _, rfl, rfl⟩
/-- A request of an owner, with one cell to come. -/
def requestOf (o : ReqOwner) (refused : Option Nat) (unitReset linkDown : Bool) : Request :=
  { request1 with owner := o, refused := refused, unitReset := unitReset, linkDown := linkDown }
theorem test_request_outcomes (o : ReqOwner) : ∀ s : State, s = on.modInfield (fun i => { i with requests := [requestOf o none false false] }) →
    s.infield.requests = [requestOf o none false false] ∧ (requestOf o (some 8) false false).refused = some 8 ∧
    (requestOf o none true true).unitReset = true ∧ (requestOf o none false true).linkDown = true ∧
    (∀ q ∈ s.infield.requests, q.mgmt = false → q.slot ≠ 0) := by
  rintro s rfl; exact ⟨rfl, rfl, rfl, rfl, by intro q h hm; simp [State.modInfield, requestOf, request1] at h; subst h; cases hm⟩
/-- A management descriptor that read into its buffer. -/
theorem test_read_reply : ∀ (s : State) (d : Desc) (o : WinOp), d = transferDesc → o = { on.winOp d (some 0) with phase := .reply 0 } →
    s = { windowed on 16 with hiu := { (windowed on 16).hiu with winOps := [{ o with root := 0x1001 }] } } →
    s.hiu.winOps = [{ o with root := 0x1001 }] ∧
    ∃ u, s.winWrite 0x1001 (List.replicate 16 (0 : Byte)).length (o.offset.toNat + 64) (List.replicate 16 0) = (u, 16, none) ∧
      u.hiu.winOps = [{ o with root := 0x1001 }] := by
  rintro s d o rfl rfl rfl; exact ⟨rfl, _, rfl, rfl⟩
/-- The data of a GET whose cells have all come lie in its local reference. -/
def getCmd : Issued := issued (cmd 4 4 0 0 16 0 0)
theorem test_get_lands : ∀ q : Request, q = requestOf (.putGet 0 0 getCmd true) none false false →
    ((q.take reply1).refused = none ∧ (q.take reply1).unitReset = false ∧ (q.take reply1).linkDown = false) ∧
    map1.entry? (putLocal getCmd.cmd).region = some (mkMapEntry 0xFFFFFFFF 15 Purpose.tensor 0x7F 2 0) ∧
    (putLocal getCmd.cmd).offset + putLength getCmd.cmd ≤ meLen (mkMapEntry 0xFFFFFFFF 15 Purpose.tensor 0x7F 2 0) := by
  rintro q rfl; decide
/-- At the slot of the only frame of an occurrence nothing is sampled ahead, and its sample stands. -/
theorem test_ring_frame (o : SampleOutcome) : ∀ (j : Job) (s : State), j = { ringJob with ringSampled := [(0, sampled0 o)], sends := [send0 0 0] } →
    s = busy .run j Partition.reset → s.jobOfLead 0 = some j ∧ s.ringReady j 0 = none ∧ j.spanAt 0 = some span0 ∧
    (ringSet0 false).occAt 0 0 (0 - 0) = some (0, 0x20000000, 0) ∧ j.ringUse 0 = .send ∧ 0 + 1 = segLen 0x20000000 ∧
    j.ringSampled.find? (fun a => a.1 == 0 && a.2.occ.lapIndex == 0 && a.2.occ.slot == 0) = some (0, sampled0 o) ∧
    j.boundAt 0 0 = some (send0 0 0) ∧ (ringSet0 false).entry? 0 = some Transfer.zero ∧ s.ringSampleAhead j (ringSet0 false) (ringSet0 true) 0 = s := by
  rintro j s rfl rfl
  exact ⟨rfl, rfl, rfl, by decide, rfl, by decide, rfl, rfl, rfl, rfl⟩
theorem test_ring_bytes : ∀ (j : Job) (s : State), j = { ringJob with sends := [send0 0 0] } → s = busy .run j Partition.reset →
    ∃ u bs, s.burstBytes 6 j Transfer.zero 0 = (u, some bs) := by rintro j s rfl rfl; exact ⟨_, _, rfl⟩
/-- A frame on its way that is due. -/
def flight0 (feed : Bool) (st : Fin 7) : RingFlight :=
  { due := 0, err := none
    burst := { job := 1, station := st, feed := feed, void := false, carried := 0, send := none
               frame := { transfer := 0, occ := occ0, index := 0, data := [7] } } }
theorem test_flight_lands : ∀ s : State, s = (busy .run (armedXfer 1) Partition.reset).modInfield (fun i => { i with flights := [flight0 false 6] }) →
    s.infield.flights = [flight0 false 6] ∧ (flight0 false 6).due ≤ s.pace.count.toNat ∧ s.job? (flight0 true 0).burst.job = some (armedXfer 1) ∧
    (armedXfer 1).phase = .run ∧ (∃ z, s.beginLanding (armedXfer 1) 6 0 occ0 0 = some z) ∧
    (busy .run (armedXfer 0) Partition.reset).beginLanding (armedXfer 0) 6 0 occ0 0 = none := by
  rintro s rfl; exact ⟨rfl, by decide, rfl, rfl, ⟨_, rfl⟩, rfl⟩
/-- A word with a double-bit error in a live region of a running job, and in none. -/
theorem test_double_errors : ∀ s : State, s = running.modSram (fun m => { m with ecc := [(5, .double), (2 ^ 20, .double)] }) →
    s.eccAt 5 = some .double ∧ s.wordLive 5 = true ∧ s.wordLive (2 ^ 20) = false ∧ s.eccAt (2 ^ 20) = some .double ∧
    2 ^ 20 % 2 ^ 30 ≠ 0 ∧ (s.part (partOfWord 5)).job = some 1 ∧ s.sram.retired.contains (rowOfWord 5) = false := by
  rintro s rfl; decide
theorem test_no_golden_error : (∀ x ∈ on.sram.reserve, x.part = .mapGolden → x.holder ≠ some 0) ∧ (∀ x ∈ on.sram.reserve, x.part ≠ .planGolden) := by decide

/-! Further witnesses: issue and dispatch, jobs, the rings of the host, the log and the service ports. -/

/-- The turn of the Sequencer core stands at a stream that cannot issue; the next one that can is one further. -/
theorem test_issue_passes_over : ∀ s : State, s = { streaming .running with seqTurn := vset (streaming .running).seqTurn 0 7 } →
    finOf 8 (s.seqTurn[(0 : DieId)].val + 1) = 0 ∧ s.canIssue (streamOf 0 7).1 (streamOf 0 7).2 = none ∧
    (∃ x, s.canIssue (streamOf 0 0).1 (streamOf 0 0).2 = some (x, cmd 2 1 0 0 0 0 0)) ∧
    (∀ n : Fin 8, on.canIssue (streamOf 0 n).1 (streamOf 0 n).2 = none) := by
  rintro s rfl; exact ⟨by decide, rfl, ⟨_, rfl⟩, by decide⟩
theorem test_stream_may_issue : ((streaming .running).part 0).stream? 0 = some { index := 0, code := [cmd 2 1 0 0 0 0 0], pos := 0, iter := 0, mode := .running } ∧
    (streaming .running).queueFull 0 (job streamImg .run) (cmd 2 1 0 0 0 0 0) = false ∧ (job streamImg .run).phase = .run := by decide
/-- A list whose first instance waits on a queue that is empty and whose second is ready; one whose second is skipped. -/
def skipped : Cmd := { cmd 2 1 0 0 0 0 0 with w := vset (cmd 2 1 0 0 0 0 0).w 0 (BitVec.ofNat 64 (2 * 2 ^ 60 + 2 ^ 52 + 2 ^ 46 + 2 ^ 45)) }
def list2 (c : Cmd) : GraphList := { list0 with descs := [waiter, c], window := [(0, 0), (0, 1)] }
theorem test_dispatch_passes_over : ∀ s : State, s = graphed.modPart 0 (fun q => { q with lists := [list2 (cmd 2 1 0 0 0 0 0)] }) →
    (s.part 0).list? 0 = some (list2 (cmd 2 1 0 0 0 0 0)) ∧ (list2 (cmd 2 1 0 0 0 0 0)).window = [(0, 0)] ++ (0, 1) :: [] ∧
    s.instReady 0 (list2 (cmd 2 1 0 0 0 0 0)) [] (0, 0) waiter = false ∧
    s.instReady 0 (list2 (cmd 2 1 0 0 0 0 0)) [(0, 0)] (0, 1) (cmd 2 1 0 0 0 0 0) = true ∧
    (list2 (cmd 2 1 0 0 0 0 0)).ordered [(0, 0)] (cmd 2 1 0 0 0 0 0) = false := by
  rintro s rfl; decide
theorem test_skipped : ∃ n, fate 0 skipped [] = some n := ⟨1, by decide⟩
/-- A job that has faulted in this beat, in which another unit meets a violation. -/
theorem test_stopping : ∀ (j : Job) (s : State), j = { job img .faulted with stopping := some { beat := 0, units := [(0, 1)], parts := [] } } →
    s = busy .faulted j Partition.reset → s.job? j.id = some j ∧ j.phase = .faulted ∧ s.paceRuns = true ∧ (0 : W64) = s.pace.count ∧
    Code.violates (Code.regionKind 1) = true ∧ Code.violates Code.batonTimeout = false ∧ on.paceRuns = true := by
  rintro j s rfl rfl; exact ⟨rfl, rfl, by decide, rfl, by decide, by decide, by decide⟩
/-- A queue whose head is not the baton that the front command waits on. -/
theorem test_mismatch : ∀ s : State, s = waiting.modPart 0 (fun q => { q with queues := q.queues.map (fun k =>
      { k with entries := [mkEntry 0 0x77 0 0], highest := 1 }) }) →
    s.jobOf 0 = some (job img .run) ∧ (s.part 0).st = .run ∧ ∃ i n r e, s.fronts 0 = [] ++ (i, n) :: [] ∧ s.waitsOf 0 i = .mismatch r e := by
  rintro s rfl; exact ⟨rfl, rfl, issued waiter, _, _, _, rfl, rfl⟩
/-- The SEND that the picker has skipped is bound with its void. -/
theorem test_skipped_send : ∀ (j : Job) (i : Issued), i = { issued (cmd 4 1 0 0 16 0 0) with src := .graph } →
    j = { bound 1 1 with bindQ := [(1, [⟨0, i, some 1⟩])] } → (busy .run j Partition.reset).bindingReady j 1 1 = some (0, i, [], some 1) := by
  rintro j i rfl rfl; rfl
/-- A PARK that waits for the last of its partitions. -/
theorem test_park_waits : ∀ s : State, s = (on.modPart 0 (fun q => { q with zeroing := true })).modMgt (fun m => { m with
      unloads := [{ desc := desc Op.park 0 0 0 0, left := [0], parked := some (1, 64) }] }) →
    (s.part 0).zeroing = true ∧ s.mgt.unloads = [{ desc := desc Op.park 0 0 0 0, left := [0], parked := some (1, 64) }] ∧ Mem.wf s.sram.mem = true ∧
    (∀ e ∈ s.sram.ecc, partOfWord e.1 ≠ 0) ∧ ({ s.part 0 with scrubFirst := true } : Partition).scrubFirst = true := by
  rintro s rfl; exact ⟨rfl, rfl, rfl, by simp [State.modMgt, State.modPart, on, State.reset, Sram.reset], rfl⟩
theorem test_unload_conflicts : (∃ t, (mcWith (busy .set (armed 0) Partition.reset) (desc Op.unload 0 1 0 0)).takeMc Op.unload = some (desc Op.unload 0 1 0 0, t) ∧
      t.jobOf 0 = some (armed 0)) ∧ (armed 0).phase ≠ .loaded ∧ (on.part 0).job = none ∧ (desc Op.unload 0 3 0 0).maskParts = [0, 1] ∧
    (1 : PartId) ∈ (desc Op.unload 0 3 0 0).maskParts ∧ ((busy .set (job img .loaded) Partition.reset).part 1).job ≠ some 1 := by
  exact ⟨⟨_, rfl, rfl⟩, by decide, by decide, by decide, by decide, by decide⟩
/-- A job on two partitions that parks on its first; a park map word that meets an error. -/
theorem test_park_leaves : ∀ j : Job, j = { standing none with parts := [0, 1] } → j.parts.filter (· != (0 : PartId)) ≠ [] ∧
    (standing none).parts.filter (· != (0 : PartId)) = [] := by rintro j rfl; decide
theorem test_ring_waiter (u : HeaderUser) (hu : u = .firmware ∨ u = .tring 0) : ∀ s : State, s = windowed on 4096 → ∀ x : HeaderWait, x = s.headerWait u 0 0 →
    (s.modHiu (fun h => { h with headerWaits := [x] })).waiter = some x ∧ on.waiter = none ∧ x.user = u ∧
    (s.modHiu (fun h => { h with headerWaits := [x] })).hiu.winOps.find? (s.modHiu (fun h => { h with headerWaits := [x] })).mayClaim = none := by
  rintro s rfl x rfl
  obtain rfl | rfl := hu <;> exact ⟨rfl, rfl, rfl, rfl⟩
theorem test_query_of_hold : ∀ s : State, s = on.modPart 0 (fun q => { q with st := .hold, owner := some 1 }) →
    (s.part (desc Op.query 0 0x100000000000000 0 0).queryPart).st = .hold ∧ (desc Op.query 0 0x100000000000000 0 0).kind = 1 ∧
    s.owns 1 (desc Op.query 0 0x100000000000000 0 0).queryPart = true := by rintro s rfl; exact ⟨by decide, by decide, by decide⟩
/-- An enabled ring that stopped on an error, in snoop mode, and a Management Complex in HOLD. -/
theorem test_stopped_ring : ∀ s : State, s = { ringed true with
      hiu := { (ringed true).hiu with cxlCache := true }
      units := { (ringed true).units with hold := [.managementComplex] }
      fns := vmod (ringed true).fns 1 (fun f => { f with dblMode := true, sqs := vmod f.sqs 0 (fun q => { q with errCause := 2 }) }) } →
    ((s.fn 1).sqs[(0 : RingIx)]).enable = true ∧ ((s.fn 1).sqs[(0 : RingIx)]).errCause ≠ 0 ∧ s.snoops 1 = true ∧
    (s.hostCount ((s.fn 1).sqs[(0 : RingIx)]).dbl).isSome = true ∧ s.hiu.lines.length < 2048 ∧ s.inHold .managementComplex = true := by
  rintro s rfl; exact ⟨by decide, by decide, by decide, by decide, by decide, by decide⟩
/-- Two entries of one beat, of which the later has the lower source unit, and is due first. -/
def entryOf (code place : Nat) : LogEntry :=
  { code := BitVec.ofNat 16 code, pinned := false, vf := 0, seq := 0, time := 0, body := .count 0, beat := some 5, place := place }
theorem test_log_due : ∀ s : State, s = on.modLog (fun g => { g with input := [entryOf 0x3A01 0, entryOf 0x3101 0] }) →
    s.log.due = some (entryOf 0x3101 0) := by rintro s rfl; decide
/-- VF1's window with a header of 128 KiB. -/
def wide : State := { windowed on 0 with
  host := { (windowed on 0).host with mem := [(0x1000, 0x83), (0x1003, 0x40), (0x40000000, 2), (0x4000000A, 2)] } }
theorem test_ring_opens : ∀ (s : State) (t : TRing), s = wide.modTring 0 (fun t => { t with vf := 1, dbl := 0x200000 }) → t = s.tring 0 →
    s.hostLanes = true ∧ t.enable = false ∧ winOffsetOk t.base = true ∧ s.mayTake (s.headerWait (.tring 0) t.fn t.base) = true ∧
    (match s.tringOpen (s.fn t.fn).winRoot t with | .opened _ _ => true | _ => false) = true ∧
    (match (windowed on 4096).tringOpen 0x1001 t with | .short _ _ => true | _ => false) = true ∧
    (∃ st, on.tringOpen 0 t = .failed st) ∧ (∀ y ∈ s.hiu.headerWaits, y.user ≠ .tring 0) := by
  rintro s t rfl rfl
  exact ⟨by decide, rfl, by decide, by decide, by decide +kernel, by decide +kernel, ⟨_, rfl⟩, by decide⟩
theorem test_ring_header : ∃ t : TRing, ({ TRing.reset with enable := true, header := some (64, { seq := 0, len := 64 }) } : TRing) = t ∧ t.enable = true ∧
    t.header = some (64, { seq := 0, len := 64 }) := ⟨_, rfl, rfl, rfl⟩
theorem test_zsh_refused : on.chipValid = false ∧ (placed0 .up).chipValid = true ∧
    (∃ x : Parsed, { parseHeaders plain with ip := some 14, udp := some 34, zsh := some 42 } = x ∧ x.ip = some 14 ∧ x.udp = some 34 ∧ x.zsh = some 42) := by
  exact ⟨by decide, by decide, _, rfl, rfl, rfl, rfl⟩
/-- A transmit descriptor that was read and waits for its header. -/
theorem test_tx_held : ∀ (s : State) (ws : List W64), ws = [0x40000, 0, 0, 0, 0, 0, 0, 0] → s = sending.modSvc (fun v => { v with txHeld := some ws }) →
    s.svc.txHeld = some ws ∧ (s.port 0).linkUp.getLsbD 0 = true ∧ (s.port 0).paused.getLsbD 0 = false ∧
    s.mayTake (s.headerWait .tx 0 0) = true := by rintro s ws rfl rfl; exact ⟨rfl, by decide, by decide, by decide⟩

/-! Further witnesses: the full log queue, resets, slips, denied accesses, loads and rings. -/

/-- An entry of beat 0, from a unit of the main domain. -/
def entry5 (code : Nat) : LogEntry := { entryOf code 0 with beat := some 0 }
/-- A full input queue of entries of this beat: one more of a lower rank takes the place of the last, one of a higher rank finds no room. -/
theorem test_full_queue_ranks : ∀ s : State, s = on.modLog (fun g => { g with input := entry5 0x3A01 :: List.replicate 255 (entry5 0x3101) }) →
    256 ≤ s.log.input.length ∧ entry5 0x3A01 ∈ s.log.input ∧ (entry5 0x3101).beat = some s.pace.count.toNat ∧
    (entry5 0x3101).rank < (entry5 0x3A01).rank ∧
    (∀ x ∈ s.log.input, x.beat = (entry5 0x3101).beat → x ≠ entry5 0x3A01 → x.rank < (entry5 0x3A01).rank) ∧
    (∀ x ∈ s.log.input, x.beat = (entry5 0x3B01).beat → x.rank ≤ (entry5 0x3B01).rank) := by
  rintro s rfl
  refine ⟨Nat.le_of_eq (congrArg (· + 1) (List.length_replicate (n := 255) (a := entry5 0x3101))).symm, List.mem_cons_self .., by decide, by decide, ?_, ?_⟩ <;> intro x hx _ <;>
    obtain rfl | h := List.mem_cons.1 hx
  · intro h; exact absurd rfl h
  · intro _; rw [(List.mem_replicate.1 h).2]; decide
  · decide
  · rw [(List.mem_replicate.1 h).2]; decide
/-- Nothing of a function's messages is pending, and no PARK is under way. -/
theorem test_no_message_waits : (∀ f : FnId, (on.fn f).dblMode = false ∧ (on.fn f).msixPend = 0) ∧ on.mgt.unloads = [] := by decide
/-- A flash header that places its slots at the front of the flash; an erased one is not well formed. -/
def flashed : Boot := { on.boot with flash := [(0, 0x01), (1, 0x08), (2, 0x46), (3, 0x58), (9, 0x10), (17, 0x20)] }
theorem test_flash_header : flashed.headOk = true ∧ Mem.wf flashed.flash = true ∧ on.boot.headOk = false := by
  refine ⟨by decide +kernel, by decide, by decide +kernel⟩
theorem test_flash_slot : flashed.slotAt (!flashed.slotB) + flashed.staged.length ≤ Config.flashSize :=
  Nat.le_trans (by decide : flashed.slotAt (!flashed.slotB) + flashed.staged.length ≤ 2 ^ 25) (Nat.le_add_right ..)
theorem test_warm_scrubs : (running.part 0).job = some (job img .run).id ∧ running.job? (job img .run).id = some (job img .run) ∧
    (job img .run).phase ≠ .faulted ∧ (running.part 0).st ≠ .faulted := ⟨rfl, rfl, by decide, by decide⟩
/-- A FRAME that waits on queue 0 for an entry that is not there. -/
def frameWaits : Issued := issued { frameCmd with w := vset frameCmd.w 0 0x5010001000000000 }
theorem test_frames_voided : ∀ s : State, s = framed.modPart 0 (fun q => { q with
      pointQ := [frameWaits], queues := [{ tile := 0, queue := 0, consumer := .point, depth := 4, region := 0, offset := 0, entries := [], highest := 0 }] }) →
    framed.power.mainPg = true ∧ framed.sram.reserve = [] ∧ framed.inHold (.pointEngine 0) = false ∧ (framed.part 0).pointQ = issued frameCmd :: [] ∧
    (∃ es, framed.waitsOf 0 (issued frameCmd) = .met es) ∧ (on.part 0).pointQ = [] ∧ (s.part 0).pointQ = frameWaits :: [] ∧ frameWaits.src ≠ .graph ∧
    ∀ es, s.waitsOf 0 frameWaits ≠ .met es := by
  rintro s rfl; exact ⟨rfl, rfl, by decide, rfl, ⟨_, rfl⟩, rfl, rfl, by decide, fun es h => by cases h⟩
theorem test_restarting : ∀ s : State, s = { on with units := { on.units with hold := [.managementComplex, .tile 0] }, mgt := { on.mgt with restarting := true } } →
    s.inHold .managementComplex = true ∧ s.mgt.restarting = true ∧ s.inHold (.tile 0) = true ∧ (UnitId.tile 0) ≠ .managementComplex := by
  rintro s rfl; decide
/-- Behind the end of the last lap no boundary is left for a slip. -/
theorem test_no_boundary_left : ∀ s : State, s = { planned 0 4000 with jobs := [lastJob] } → s.slipTarget lastJob 5000 = none ∧
    (∃ n, (planned 0 8).slipTarget (planJob 0) 8 = some n) := by rintro s rfl; exact ⟨by decide, 4096, by decide⟩
/-- A frame of an earlier deferred send of the slot of occ0 that waits for its ring. -/
def sendingUnit : RingUnit :=
  { load := .burst { job := 1, station := 6, feed := false, void := false, carried := 0, send := none
                     frame := { transfer := 0, occ := occ0, index := 0, data := [7] } }, out := none, place := none, legs := [] }
theorem test_still_sending : ∀ s : State, s = (busy .run ringJob Partition.reset).modInfield (fun i => { i with transit := [sendingUnit] }) →
    s.stillSending ringJob 0 occ0 = true ∧ (busy .run ringJob Partition.reset).stillSending ringJob 0 occ0 = false := by rintro s rfl; decide
/-- The bytes of an access leave a region that grants the kind. -/
theorem denied_bounds {s : State} {a : Acc} {kind region len : Nat} {off adr : Int} {m : AllocMap} {e : BitVec 128} {w : Loc}
    (hA : (s.part a.part).mapA = some m) (hB : (s.part a.part).mapB = some m) (he : m.entry? region = some e)
    (hk : meHas e kind = true ∧ meTile e a.tile.val = true) (ho : ¬(0 ≤ off ∧ off + len ≤ meLen e))
    (hadr : adr = if 0 ≤ off ∧ off < meLen e then ((meStart e + meLen e : Nat) : Int) else meStart e + off)
    (hw : w = { a.loc with region := some region, access := kind, address := some adr }) :
    s.Denied a kind region off len (Code.regionBounds a.unit) w := by
  refine ⟨m, _, hA, hB, hw, ?_⟩
  rw [he]
  change if meHas e kind = true ∧ meTile e a.tile.val = true then _ else _
  rw [if_pos hk, ← hadr]
  exact ⟨ho, rfl, rfl⟩
/-- The region of map1, as every engine of tile 0 meets it. -/
def region0 : BitVec 128 := mkMapEntry 0xFFFFFFFF 15 Purpose.tensor 0x7F 2 0
/-- One element that leaves the region of map1, and one of a region that map1 does not have. -/
theorem test_denied (e : EngineKind) (c : Cmd) (a : Acc) (k : Nat) (w : Loc) (hk : k = Kind.tileRead ∨ k = Kind.tileWrite ∨ k = Kind.mover)
    (ha : a = accOf 0 e (issued c)) (hw : w = { a.loc with access := k }) :
    ((engine e c).taken 0 e .stream).TensorDenied a k (Ref.ofWord (ref 8192)) 1 1 0 0 (Code.regionBounds a.unit)
      { w with region := some 0, address := some 8192 } ∧
    ((engine e c).taken 0 e .stream).Denied a k 1 0 4 (Code.regionKind a.unit) { w with region := some 1, address := none } := by
  subst ha hw
  refine ⟨⟨by decide, by decide, denied_bounds (m := map1) (e := region0) ?_ ?_ rfl ?_ ?_ (by decide) rfl, by omega⟩, map1, none, ?_, ?_, rfl, rfl, rfl⟩
  · cases e <;> rfl
  · cases e <;> rfl
  · obtain rfl | rfl | rfl := hk <;> exact ⟨by decide, (by decide : meTile region0 0 = true)⟩
  · decide
  · cases e <;> rfl
  · cases e <;> rfl
/-- The empty plots hold a loop descriptor that is malformed; a walk of one visit is granted its first element, or leaves the region. -/
theorem test_loops_at (c : Cmd) (b : State) (a : Acc) (f : LoopRef) (l : Loops) (w : Loc) (hb : b = (engine .mover c).taken 0 .mover .stream)
    (ha : a = accOf 0 .mover (issued c)) (hf : f = { region := 0, offset := 0 }) (hl : l = Loops.ofBytes loopBytes)
    (hw : w = { a.loc with region := some 0, access := Kind.mover }) :
    b.LoopsAt a f (Loops.ofBytes (List.replicate 64 0)) ∧ (Loops.ofBytes (List.replicate 64 0)).ok = false ∧
    b.WalkAllows a (Ref.ofWord (ref 0)) l 4 0 ∧ b.WalkDenied a (Ref.ofWord (ref 8192)) l 4 0 (Code.regionBounds a.unit)
      { w with address := some 8192, loops := some (loopIndex l.counts 0) } := by
  subst hb ha hf hl hw
  have hg : ((engine .mover c).taken 0 .mover .stream).Grants 0 0 Kind.mover 0 region0 := grants_taken .mover c _ (.inr (.inr rfl))
  have hr : ∀ n, List.replicate 64 0 = Mem.read [] n 64 := fun n => rfl
  refine ⟨⟨⟨region0, hg, by decide, by decide⟩, congrArg Loops.ofBytes (hr _)⟩, by decide, ⟨region0, hg, by decide +kernel, by decide +kernel⟩, ?_⟩
  exact denied_bounds (m := map1) (e := region0) rfl rfl rfl (by decide : _ ∧ meTile region0 0 = true) (by decide +kernel) (by decide +kernel) rfl
/-- A load in hand whose partition is being zeroed, and one that goes on; a load that lost a word. -/
theorem test_load_in_hand : ∀ s : State, s = ((windowed on 4096).modPart 0 (fun q => { q with zeroing := true })).modMgt (fun m => { m with loadHeld := some loadDesc }) →
    s.fwServes = true ∧ s.mgt.loadHeld = some loadDesc ∧ (s.part 0).zeroing = true ∧ (0 : PartId) ∈ partMapParts (loadDesc.word 2) ∧
    ∀ p ∈ partMapParts (loadDesc.word 2), ((on.modMgt (fun m => { m with loadHeld := some loadDesc })).part p).zeroing = false := by
  rintro s rfl; decide
theorem test_load_lost : ∀ s : State, s = on.modMgt (fun m => { m with task := some { desc := loadDesc, parts := [0], image := img, lost := true } }) →
    s.mgt.task = some { desc := loadDesc, parts := [0], image := img, lost := true } ∧ s.fwServes = true ∧ s.sram.reserve = [] := by rintro s rfl; exact ⟨rfl, rfl, rfl⟩
/-- A PARK with a second partition still to reach. -/
theorem test_park_goes_on : ∀ s : State, s = (on.modPart 0 (fun q => { q with zeroing := true })).modMgt (fun m => { m with
      unloads := [{ desc := desc Op.park 0 0 0 0, left := 0 :: 1 :: [], parked := some (1, 64) }] }) →
    (s.part 0).zeroing = true ∧ (0 : PartId) ∉ [(1 : PartId)] ∧ (s.part 0).scrubFirst = false ∧
    s.mgt.unloads = [{ desc := desc Op.park 0 0 0 0, left := 0 :: 1 :: [], parked := some (1, 64) }] := by rintro s rfl; decide
theorem test_park_releases : ({ standing none with parts := [0, 1, 2] } : Job).released 0 = [1, 2] ∧ (standing none).released 0 = [] := by decide
theorem test_one_operation : ∀ s t : State, s = windowed (busy .set (job img .loaded) Partition.reset) 16 →
    t = s.pushOp (s.winOp transferDesc (some 0)) → ∃ u q, t.openHeader (s.winOp transferDesc (some 0)) = .opened u q ∧
      ∀ x ∈ u.hiu.winOps, x.desc = q.desc → x = q := by
  rintro s t rfl rfl; exact ⟨_, _, rfl, fun x hx _ => List.mem_singleton.1 hx⟩
/-- A partition in HOLD whose job had its events on ring 1; a ring in error whose line holds a new count, and the one last seen. -/
theorem test_held_ring : ∀ s : State, s = on.modPart 0 (fun q => { q with st := .hold, heldCq := some (1, 1) }) → (s.part 0).st = .hold ∧
    (s.part 0).heldCq = some (1, 1) ∧ ∀ p : PartId, (s.part p).st = .hold → (s.part p).heldCq ≠ some (1, 0) := by rintro s rfl; decide
theorem test_stopped_line : ∀ (s : State) (q : Sq), s = (ringed true).modSq 1 0 (fun q => { q with errCause := 2 }) → q = (s.fn 1).sqs[(0 : RingIx)] →
    q.enable = true ∧ q.errCause ≠ 0 ∧ s.hostCount q.dbl = some q.seen ∧ (0 : W32) ≠ ({ q with seen := 7 } : Sq).seen ∧ q.readFail = false ∧
    ({ q with dbl := 0x7FFFFFFFFFFFFFC0 } : Sq).errCause ≠ 0 := by rintro s q rfl rfl; decide
theorem test_messages : ∀ s : State, s = (on.modHiu (fun h => { h with config := { h.config with msixEnable := 3, msixMasked := 1 } })).modFn 1 (fun f =>
      { f with msixMask := 0 }) →
    bit s.hiu.config.msixEnable 1 = true ∧ bit s.hiu.config.msixMasked 1 = false ∧ bit (s.fn 1).msixMask 0 = false ∧
    bit s.hiu.config.msixMasked 0 = true ∧ bit s.hiu.config.msixEnable 2 = false := by rintro s rfl; decide
/-- Table 03-1's golden copy of P0 lies in the reserve of die 0. -/
theorem test_golden_copy : goldenHolder 0 .mapGolden (some 0) = some 0 ∧ (running.part 0).mapGold = some map1 ∧ running.goldenAt (some 0) 0 8 ≠ [] := by decide
theorem test_stream_beyond : ∀ r : ZshRequest, r = zsh 2 (9 :: List.replicate 23 0) ∨ r = zsh 2 (0 :: 8 :: List.replicate 22 0) →
    (asked on r).svc.waiting? 2 = some r ∧ (asked on r).requestsServed = true ∧ r.payload.length = 24 ∧ leAt r.payload 4 4 = 0 ∧
    (7 < leAt r.payload 0 1 ∨ 7 < leAt r.payload 1 1) := by rintro r (rfl | rfl) <;> decide
/-- A transmit ring stopped on an error, with a descriptor read and without. -/
theorem test_tx_stopped : ∀ (s : State) (ws : List W64), ws = [0x40000, 0, 0, 0, 0, 0, 0, 0] → s = sending.modSvc (fun v => { v with tx := { v.tx with errCause := 2 } }) →
    s.svc.tx.enable = true ∧ s.svc.tx.errCause ≠ 0 ∧ s.svc.txHeld = none ∧ (s.modSvc (fun v => { v with txHeld := some ws })).svc.txHeld.isSome = true := by
  rintro s ws rfl rfl; decide

end Sys2Proof.Tests
end

section
/-! SUPPORT. The scope's statements: a step runs the front command; register accesses, device time at its tick and the writing of the
trouble log (R5, R335 to R340, R347 to R349, R403, R408, R409). -/

namespace Sys2Proof.Machine

/-! The front command. -/

theorem step_of_pending {s : State} {c : Instr} {rest : List Instr} (h : s.pending = c :: rest) :
    step s = exec c { s with pending := rest } := by
  simp only [step, h]

/-- Settles O1: the case of `step` whose queue is not empty. -/
theorem stepRunsFrontCommand : Obligations.StepRunsFrontCommand :=
  fun _ _ _ h => step_of_pending h

/-! Bits from 0 up of a word. -/

theorem fld_low {n : Nat} (x : BitVec n) (hi : Nat) : fld x hi 0 = x.toNat % 2 ^ (hi + 1) := by
  simp only [fld, nbits, Nat.shiftRight_zero, Nat.sub_zero]
theorem ofNat_fld_low {n : Nat} (x : BitVec n) (hi : Nat) : BitVec.ofNat (hi + 1) (fld x hi 0) = x.setWidth (hi + 1) := by
  rw [fld_low]
  exact BitVec.eq_of_toNat_eq (by simp)

/-! Rows over the host's lanes. -/

theorem State.overHost_down {s : State} (g : State → State) (h : s.hostLanes = false) : s.overHost g = .next s := by
  simp [State.overHost, h]
theorem State.overHost_up {s : State} (g : State → State) (h : s.hostLanes = true) : s.overHost g = .next (g s) := by
  simp [State.overHost, h]
@[simp] theorem State.modMgt_hostLanes (s : State) (g : Mgt → Mgt) : (s.modMgt g).hostLanes = s.hostLanes := rfl

/-! Register writes (R5, R403, R408). -/

theorem exec_registerWrite (s : State) (f : FnId) (off : BitVec 20) (size : Fin 9) (v : W64) :
    exec (.registerWrite f off size v) s =
      s.overHost (fun s => if accessOk off size then s.regWrite f off (size == 8) v else s.logs Code.regAccess f.val) := rfl
theorem exec_registerWrite_down {s : State} {f : FnId} {off : BitVec 20} {size : Fin 9} {v : W64} (hl : s.hostLanes = false) :
    exec (.registerWrite f off size v) s = .next s := by
  rw [exec_registerWrite, State.overHost_down _ hl]
/-- An access that is taken: its size is 4 or 8 and divides the offset. -/
theorem accessOk_iff {off : BitVec 20} {size : Fin 9} :
    accessOk off size = true ↔ (size = 4 ∨ size = 8) ∧ off.toNat % size.val = 0 := by
  simp [accessOk]
theorem exec_registerWrite_bad {s : State} {f : FnId} {off : BitVec 20} {size : Fin 9} {v : W64} (hl : s.hostLanes = true)
    (h : (size ≠ 4 ∧ size ≠ 8) ∨ off.toNat % size.val ≠ 0) :
    exec (.registerWrite f off size v) s = .next (s.logs Code.regAccess f.val) := by
  have hbad : ¬ accessOk off size = true := by rw [accessOk_iff]; tauto
  rw [exec_registerWrite, State.overHost_up _ hl, if_neg hbad]
theorem exec_registerWrite_ok {s : State} {f : FnId} {off : BitVec 20} {size : Fin 9} {v : W64} (hl : s.hostLanes = true)
    (hs : size = 4 ∨ size = 8) (ha : off.toNat % size.val = 0) :
    exec (.registerWrite f off size v) s = .next (s.regWrite f off (size == 8) v) := by
  rw [exec_registerWrite, State.overHost_up _ hl, if_pos (accessOk_iff.2 ⟨hs, ha⟩)]
/-- A VF has no registers from 0x1_0000 on (R271). -/
theorem State.regWrite_vf_above {s : State} {f : FnId} {off : BitVec 20} {eight : Bool} {v : W64} (hf : f ≠ 0) (ho : 0x10000 ≤ off.toNat) :
    s.regWrite f off eight v = s := by
  rw [State.regWrite, if_pos (by simp [hf, ho])]
/-- A 4-byte write of PF0: a half of a register of 64 bits, or a register of 32 bits. -/
theorem State.regWrite_four {s : State} {off : BitVec 20} {r : SetupReg} {v : W64} (hr : regAt 0 off.toNat = some r) :
    s.regWrite 0 off false v = if r.wide then s.writeHalf 0 off r (v.setWidth 32) else s.commit32 0 r (v.setWidth 32) := by
  simp only [State.regWrite, bne_self_eq_false, Bool.false_and, Bool.false_eq_true, if_false, hr, Bool.not_false, if_true, ofNat_fld_low v 31]
theorem exec_registerWrite_four {s : State} {off : BitVec 20} {r : SetupReg} {v : W64} (hl : s.hostLanes = true)
    (ha : off.toNat % 4 = 0) (hr : regAt 0 off.toNat = some r) :
    exec (.registerWrite 0 off 4 v) s =
      .next (if r.wide then s.writeHalf 0 off r (v.setWidth 32) else s.commit32 0 r (v.setWidth 32)) := by
  rw [exec_registerWrite_ok hl (.inl rfl) ha]
  exact congrArg _ (State.regWrite_four hr)
theorem exec_registerWrite_narrow {s : State} {off : BitVec 20} {r : SetupReg} {v : W64} (hl : s.hostLanes = true)
    (ha : off.toNat % 4 = 0) (hr : regAt 0 off.toNat = some r) (hw : r.wide = false) :
    exec (.registerWrite 0 off 4 v) s = .next (s.commit32 0 r (v.setWidth 32)) := by
  rw [exec_registerWrite_four hl ha hr, if_neg (by simp [hw])]
theorem exec_registerWrite_wide {s : State} {off : BitVec 20} {r : SetupReg} {v : W64} (hl : s.hostLanes = true)
    (ha : off.toNat % 4 = 0) (hr : regAt 0 off.toNat = some r) (hw : r.wide = true) :
    exec (.registerWrite 0 off 4 v) s = .next (s.writeHalf 0 off r (v.setWidth 32)) := by
  rw [exec_registerWrite_four hl ha hr, if_pos hw]

/-! Fields with a stated range (R409). -/

theorem State.ranged_in {s : State} {v lo hi : Nat} {g : State → State} (h1 : lo ≤ v) (h2 : v ≤ hi) : s.ranged v lo hi g = g s := by
  simp [State.ranged, h1, h2]
theorem State.ranged_out {s : State} {v lo hi : Nat} {g : State → State} (h : v < lo ∨ hi < v) :
    s.ranged v lo hi g = s.logs Code.setupRejected := by
  have : ¬ (lo ≤ v ∧ v ≤ hi) := by omega
  simp [State.ranged, this, State.setupRejected]
/-- A field at bit 0 of the low word of a write. -/
theorem fld_setWidth_low (v : W64) {hi : Nat} (h : hi < 32) : fld (v.setWidth 32) hi 0 = v.toNat % 2 ^ (hi + 1) := by
  rw [fld_low, BitVec.toNat_setWidth, Nat.mod_mod_of_dvd _ (Nat.pow_dvd_pow 2 (by omega))]
theorem ofNat_fld_setWidth_low (v : W64) {hi : Nat} (h : hi < 32) :
    BitVec.ofNat (hi + 1) (fld (v.setWidth 32) hi 0) = v.setWidth (hi + 1) := by
  rw [fld_setWidth_low v h]
  exact BitVec.eq_of_toNat_eq (by simp)

theorem State.commit32_stretch (s : State) (v : W64) :
    (v.toNat % 8 = 0 → s.commit32 0 .stretch (v.setWidth 32) = s.logs Code.setupRejected) ∧
    (v.toNat % 8 ≠ 0 → s.commit32 0 .stretch (v.setWidth 32) = s.modPace (fun p => { p with stretchClass := v.setWidth 3 })) := by
  have heq : s.commit32 0 .stretch (v.setWidth 32) = s.ranged (fld (v.setWidth 32) 2 0) 1 7
    (fun s => s.modPace (fun p => { p with stretchClass := BitVec.ofNat 3 (fld (v.setWidth 32) 2 0) })) := rfl
  rw [heq, ofNat_fld_setWidth_low v (show 2 < 32 by decide), fld_setWidth_low v (by decide)]
  exact ⟨fun h => State.ranged_out (by omega), fun h => State.ranged_in (by omega) (by omega)⟩
theorem State.commit32_floor (s : State) (v : W64) :
    s.commit32 0 .floor (v.setWidth 32) = s.modPace (fun p => { p with floor := v.setWidth 3 }) := by
  rw [← ofNat_fld_setWidth_low v (show 2 < 32 by decide)]
  rfl
theorem State.commit32_cellTimeout (s : State) (v : W64) :
    (v.toNat % 1024 = 0 ∨ 1000 < v.toNat % 1024 → s.commit32 0 .cellTimeout (v.setWidth 32) = s.logs Code.setupRejected) ∧
    (v.toNat % 1024 ≠ 0 → v.toNat % 1024 ≤ 1000 →
      s.commit32 0 .cellTimeout (v.setWidth 32) = s.modInfield (fun i => { i with cellTimeout := v.setWidth 10 })) := by
  have heq : s.commit32 0 .cellTimeout (v.setWidth 32) = s.ranged (fld (v.setWidth 32) 9 0) 1 1000
    (fun s => s.modInfield (fun i => { i with cellTimeout := BitVec.ofNat 10 (fld (v.setWidth 32) 9 0) })) := rfl
  rw [heq, ofNat_fld_setWidth_low v (show 9 < 32 by decide), fld_setWidth_low v (by decide)]
  exact ⟨fun h => State.ranged_out (by omega), fun h0 h1 => State.ranged_in (by omega) (by omega)⟩

/-! Halves of 64-bit registers (R403). -/

theorem heldAt_cons (hs : List HeldHalf) (f : FnId) (off : BitVec 20) (v : W32) :
    heldAt ({ fn := f, off := off, value := v } :: hs) f off = some v := by
  simp [heldAt]
/-- The first offset of the 8 bytes that an offset lies in. -/
theorem half_base {off : BitVec 20} {k : Nat} (h8 : off.toNat % 8 = 0) (hk : k < 8) :
    BitVec.ofNat 20 ((off + BitVec.ofNat 20 k).toNat / 8 * 8) = off := by
  have := off.isLt
  refine BitVec.eq_of_toNat_eq ?_
  rw [BitVec.toNat_ofNat, BitVec.toNat_add, BitVec.toNat_ofNat]
  omega
theorem State.writeHalf_low (s : State) (f : FnId) {off : BitVec 20} (r : SetupReg) (v : W32) (h8 : off.toNat % 8 = 0) :
    s.writeHalf f off r v = s.modMgt (fun m => { m with held := { fn := f, off := off, value := v } :: dropHeld m.held f off }) := by
  have hb := half_base (k := 0) h8 (by decide)
  rw [BitVec.add_zero] at hb
  simp [State.writeHalf, hb]
/-- A high half commits with the low half that is held. -/
theorem State.writeHalf_high {s : State} {f : FnId} {off : BitVec 20} (r : SetupReg) {lo : W32} (hi : W32) (h8 : off.toNat % 8 = 0)
    (h : heldAt s.mgt.held f off = some lo) :
    s.writeHalf f (off + 4) r hi =
      (s.modMgt (fun m => { m with held := dropHeld m.held f off })).commitWide f off r (BitVec.ofNat 64 (hi.toNat * 2 ^ 32 + lo.toNat)) := by
  have hb : BitVec.ofNat 20 ((off + 4).toNat / 8 * 8) = off := half_base (k := 4) h8 (by decide)
  have hne : off + 4 ≠ off := by bv_omega
  simp only [State.writeHalf, hb, beq_iff_eq, hne, if_false, h]
theorem State.commitWide_fwOffset (s : State) (f : FnId) (off : BitVec 20) (v : W64) :
    (s.commitWide f off .fwOffset v).boot.fwOffset = v ∧ (s.commitWide f off .fwOffset v).log = s.log := ⟨rfl, rfl⟩

/-! Reads that change device time's registers (R336, R339, R340). -/

theorem exec_ptpRead_down {s : State} {p : PortId} {b : Bool} {row : Instr} (h : s.hostLanes = false)
    (hrow : row ∈ [Instr.ptpTimeNs, .ptpSpTxts0 p, .ptpPaceCount b]) : exec row s = .next s := by
  simp only [List.mem_cons, List.not_mem_nil, or_false] at hrow
  rcases hrow with rfl | rfl | rfl
  · exact (State.overHost_down _ h : execPtpTimeNs s = _)
  · exact (State.overHost_down _ h : execPtpSpTxts0 p s = _)
  · exact (State.overHost_down _ h : execPtpPaceCount b s = _)
theorem exec_ptpTimeNs {s : State} (h : s.hostLanes = true) : exec .ptpTimeNs s =
    .next (s.modClock (fun c => { c with latSec := c.sec, latFrac := c.frac, readData := BitVec.ofNat 64 c.ns.toNat })) :=
  (State.overHost_up _ h : execPtpTimeNs s = _)
theorem State.readWord_ptpLatSec (s : State) : s.readWord 0 0x44010 = s.clock.latSec.setWidth 32 := ofNat_fld_low s.clock.latSec 31
theorem State.readWord_ptpLatFrac (s : State) : s.readWord 0 0x44018 = s.clock.latFrac := rfl

theorem exec_ptpSpTxts0_empty {s : State} {p : PortId} (h : s.hostLanes = true) (he : s.clock.stamps[p].entries = []) :
    exec (.ptpSpTxts0 p) s = .next (s.modClock (fun c => { c with readData := 0 })) := by
  show execPtpSpTxts0 p s = _
  simp only [execPtpSpTxts0, State.overHost_up _ h, State.modClock, he]
theorem exec_ptpSpTxts0_cons {s : State} {p : PortId} {e : TxStamp} {rest : List TxStamp} (h : s.hostLanes = true)
    (he : s.clock.stamps[p].entries = e :: rest) :
    exec (.ptpSpTxts0 p) s = .next (s.modClock (fun c => { c with
      stamps := vmod c.stamps p (fun q => { q with entries := rest, latched := e })
      readData := BitVec.ofNat 64 (2 ^ 31 + e.sub.val * 2 ^ 16 + e.id.toNat) })) := by
  show execPtpSpTxts0 p s = _
  simp only [execPtpSpTxts0, State.overHost_up _ h, State.modClock, he]

theorem exec_ptpPaceCount_count {s : State} (h : s.hostLanes = true) :
    exec (.ptpPaceCount false) s = .next (s.modClock (fun c => { c with paceFrozen := true, readData := c.paceCount })) :=
  (State.overHost_up _ h : execPtpPaceCount false s = _)
theorem exec_ptpPaceCount_time {s : State} (h : s.hostLanes = true) :
    exec (.ptpPaceCount true) s = .next (s.modClock (fun c => { c with paceFrozen := false, readData := c.paceTime })) :=
  (State.overHost_up _ h : execPtpPaceCount true s = _)

/-! Device time (R335, R337): total is its whole nanoseconds, units the exact number. -/

theorem Clock.units_eq (c : Clock) : c.units = c.total * 2 ^ 32 + c.frac.toNat := by
  simp only [Clock.units, Clock.total, secUnits, nsUnits, nsPerSec]
  push_cast
  ring
/-- What the reads of R336 and R339 write does not move the time. -/
theorem Clock.units_reads (c : Clock) (sec data : W64) (frac : W32) (st : Vector PortStamps 2) :
    { c with latSec := sec, latFrac := frac, stamps := st, readData := data : Clock }.units = c.units := rfl
theorem Clock.total_put (c : Clock) {t : Nat} (h : t / 10 ^ 9 < 2 ^ 64) : (c.put t).total = t := by
  simp only [Clock.put, Clock.total, nsPerSec, BitVec.toNat_ofNat]
  omega
/-- The advance adds PTP_INCR exactly; it stays below 1,000 ns, so SEC does not overflow. -/
theorem Clock.units_advance (c : Clock) (h : (c.total + 1000) / 10 ^ 9 < 2 ^ 64) : c.advance.units = c.units + c.incr.toNat := by
  have hi := c.incr.isLt
  have hf := c.frac.isLt
  have ht : c.advance.total = c.total + c.incr.toNat / 2 ^ 32 + (c.frac.toNat + c.incr.toNat % 2 ^ 32) / 2 ^ 32 :=
    Clock.total_put c (by omega)
  have hr : c.advance.frac.toNat = (c.frac.toNat + c.incr.toNat % 2 ^ 32) % 2 ^ 32 := BitVec.toNat_ofNat _ _
  rw [Clock.units_eq, Clock.units_eq, ht, hr]
  omega

theorem Clock.put_eq (c : Clock) (t : Nat) : ∃ sec ns, c.put t = { c with sec := sec, ns := ns } := ⟨_, _, rfl⟩
theorem Clock.advance_eq (c : Clock) : ∃ sec ns frac, c.advance = { c with sec := sec, ns := ns, frac := frac } := by
  obtain ⟨sec, ns, h⟩ := c.put_eq (c.total + c.incr.toNat / 2 ^ 32 + (c.frac.toNat + c.incr.toNat % 2 ^ 32) / 2 ^ 32)
  refine ⟨sec, ns, BitVec.ofNat 32 (c.frac.toNat + c.incr.toNat % 2 ^ 32), ?_⟩
  rw [Clock.advance, h]

/-- PTP_INCR is no part of the time. -/
theorem Clock.total_incr (c : Clock) (x : BitVec 40) (y : Option (BitVec 40)) :
    { c with incr := x, incrNext := y : Clock }.total = c.total := rfl
theorem Clock.units_incr (c : Clock) (x : BitVec 40) (y : Option (BitVec 40)) :
    { c with incr := x, incrNext := y : Clock }.units = c.units := rfl

/-- What the tick does to the clock once a change has been applied: a new PTP_INCR is taken, then added. -/
def Clock.tick (c : Clock) : Clock := { c with incr := c.incrNext.getD c.incr, incrNext := none : Clock }.advance

/-- Beside PTP_INCR the tick moves SEC, NS and FRAC alone. -/
theorem Clock.tick_eq (c : Clock) : ∃ sec ns frac, c.tick =
    { c with incr := c.incrNext.getD c.incr, incrNext := none, sec := sec, ns := ns, frac := frac } :=
  Clock.advance_eq { c with incr := c.incrNext.getD c.incr, incrNext := none : Clock }
theorem Clock.units_tick (c : Clock) (h : (c.total + 1000) / 10 ^ 9 < 2 ^ 64) :
    c.tick.units = c.units + (c.incrNext.getD c.incr).toNat := by
  rw [Clock.tick, Clock.units_advance _ (by rw [Clock.total_incr]; exact h), Clock.units_incr]

theorem State.modClock_modClock (s : State) (f g : Clock → Clock) : (s.modClock f).modClock g = s.modClock (fun c => g (f c)) := rfl
theorem exec_deviceTimeTick_off {s : State} (h : s.power.porReleased = false) : exec .deviceTimeTick s = .next s := by
  show execDeviceTimeTick s = _
  simp [execDeviceTimeTick, h]
theorem exec_deviceTimeTick {s : State} (h : s.power.porReleased = true) :
    exec .deviceTimeTick s = .next (s.applyChange.modClock Clock.tick) := by
  show execDeviceTimeTick s = _
  simp only [execDeviceTimeTick, h, Bool.not_true, Bool.false_eq_true, if_false]
  rw [State.modClock_modClock]
  rfl

/-! The change that waits (R337). -/

theorem signed_eq_toInt (x : W64) : signed 64 x.toNat = x.toInt := by
  have := x.isLt
  simp only [signed, BitVec.toInt]
  split <;> split <;> omega
theorem Clock.judge_step_applied {c : Clock} {force : Bool} {k : Nat} (hk : (c.total : Int) + c.step.toInt = k)
    (h : force = true ∨ c.step.toInt.natAbs ≤ c.thresh.toNat) : c.judge (.step force) = .applied k false := by
  have hr : ¬ (!force && decide (c.thresh.toNat < c.step.toInt.natAbs)) = true := by
    rcases h with rfl | h
    · simp
    · simp [h]
  simp only [Clock.judge, signed_eq_toInt, hk]
  rw [if_neg (by omega), if_neg hr, Int.toNat_natCast]
theorem Clock.judge_step_refused {c : Clock} {k : Nat} (hk : (c.total : Int) + c.step.toInt = k)
    (h : c.thresh.toNat < c.step.toInt.natAbs) : c.judge (.step false) = .refused := by
  simp only [Clock.judge, signed_eq_toInt, hk]
  rw [if_neg (by omega), if_pos (by simpa using h)]

theorem State.applyChange_none {s : State} (h : s.clock.change = none) : s.applyChange = s := by
  simp only [State.applyChange, h]
theorem State.applyChange_applied {s : State} {x : TimeChange} {n : Nat} (hx : s.clock.change = some x)
    (hj : s.clock.judge x = .applied n false) :
    s.applyChange = ((s.modClock (fun c => { c with change := none })).modClock (fun c => c.put n)).logs Code.clockStep := by
  simp only [State.applyChange, hx, hj]
theorem State.applyChange_refused {s : State} {x : TimeChange} (hx : s.clock.change = some x) (hj : s.clock.judge x = .refused) :
    s.applyChange = ((s.modClock (fun c => { c with change := none })).modClock (fun c => { c with jumpRefused := true })).logs
      Code.jumpRefused := by
  simp only [State.applyChange, hx, hj]

/-- The tick, where the change has left a state u. -/
theorem deviceTimeTick_of_applyChange {s u : State} (hp : s.power.porReleased = true) (hu : s.applyChange = u)
    (ht : (u.clock.total + 1000) / 10 ^ 9 < 2 ^ 64) :
    ∃ t, exec .deviceTimeTick s = .next t ∧ t.clock.units = u.clock.units + (u.clock.incrNext.getD u.clock.incr).toNat ∧
      t.clock.incr = u.clock.incrNext.getD u.clock.incr ∧ t.clock.incrNext = none ∧ t.clock.change = u.clock.change ∧
      t.clock.jumpRefused = u.clock.jumpRefused ∧ t.log = u.log := by
  obtain ⟨sec, ns, frac, h⟩ := u.clock.tick_eq
  refine ⟨u.modClock Clock.tick, hu ▸ exec_deviceTimeTick hp, ?_⟩
  rw [State.modClock_clock, State.modClock_log]
  exact ⟨u.clock.units_tick ht, by rw [h], by rw [h], by rw [h], by rw [h], rfl⟩
/-- An entry handed to the log holds of the clock only its stamp. -/
theorem State.logs_log_modClock {s : State} {f g : Clock → Clock} (h : (f s.clock).stamp = (g s.clock).stamp) (c : W16) :
    ((s.modClock f).logs c).log = ((s.modClock g).logs c).log := by
  simp only [State.logs, State.hand, State.modLog_log, State.modClock_log, State.modClock_clock, State.modClock_pace, State.paceRuns,
    State.modClock_power, h]
  rfl

/-- The clock after a step to k nanoseconds. -/
theorem Clock.put_step {c : Clock} {k : Nat} (hk : (c.total : Int) + c.step.toInt = k) (ht : k / 10 ^ 9 < 2 ^ 64) :
    (c.put k).units = c.units + c.step.toInt * 2 ^ 32 := by
  have hfrac : (c.put k).frac = c.frac := by simp only [Clock.put]
  rw [Clock.units_eq, Clock.units_eq, Clock.total_put c ht, hfrac, ← hk]
  ring
theorem deviceTimeTick_unchanged {s : State} (hp : s.power.porReleased = true) (hc : s.clock.change = none)
    (ht : (s.clock.total + 1000) / 10 ^ 9 < 2 ^ 64) :
    ∃ t, exec .deviceTimeTick s = .next t ∧ t.clock.units = s.clock.units + (s.clock.incrNext.getD s.clock.incr).toNat ∧
      t.clock.incr = s.clock.incrNext.getD s.clock.incr ∧ t.clock.incrNext = none ∧ t.log = s.log := by
  obtain ⟨t, he, hu, hi, hn, -, -, hl⟩ := deviceTimeTick_of_applyChange hp (State.applyChange_none hc) ht
  exact ⟨t, he, hu, hi, hn, hl⟩
theorem deviceTimeTick_step_applied {s : State} {force : Bool} {k : Nat} (hp : s.power.porReleased = true)
    (hc : s.clock.change = some (.step force)) (hk : (s.clock.total : Int) + s.clock.step.toInt = k) (ht : (k + 1000) / 10 ^ 9 < 2 ^ 64)
    (h : force = true ∨ s.clock.step.toInt.natAbs ≤ s.clock.thresh.toNat) :
    ∃ t, exec .deviceTimeTick s = .next t ∧
      t.clock.units = s.clock.units + s.clock.step.toInt * 2 ^ 32 + (s.clock.incrNext.getD s.clock.incr).toNat ∧
      t.clock.change = none ∧ t.log = ((s.modClock (fun c => c.put k)).logs Code.clockStep).log ∧
      t.clock.jumpRefused = s.clock.jumpRefused := by
  have hk9 : k / 10 ^ 9 < 2 ^ 64 := by omega
  obtain ⟨t, he, hu, -, -, hch, hj, hl⟩ := deviceTimeTick_of_applyChange hp
    (State.applyChange_applied hc (Clock.judge_step_applied hk h))
    (by rw [State.logs_clock, State.modClock_modClock, State.modClock_clock, Clock.total_put _ hk9]; exact ht)
  rw [State.modClock_modClock] at hu hch hj hl
  rw [State.logs_clock, State.modClock_clock] at hu hch hj
  refine ⟨t, he, ?_, hch, hl.trans (State.logs_log_modClock (by simp only [Clock.put, Clock.stamp]) _), hj⟩
  rw [hu, ← Clock.put_step hk hk9]
  simp only [Clock.put, Clock.units]
theorem deviceTimeTick_step_refused {s : State} {k : Nat} (hp : s.power.porReleased = true)
    (hc : s.clock.change = some (.step false)) (hk : (s.clock.total : Int) + s.clock.step.toInt = k)
    (h : s.clock.thresh.toNat < s.clock.step.toInt.natAbs) (ht : (s.clock.total + 1000) / 10 ^ 9 < 2 ^ 64) :
    ∃ t, exec .deviceTimeTick s = .next t ∧ t.clock.units = s.clock.units + (s.clock.incrNext.getD s.clock.incr).toNat ∧
      t.clock.change = none ∧ t.log = (s.logs Code.jumpRefused).log ∧ t.clock.jumpRefused = true := by
  obtain ⟨t, he, hu, -, -, hch, hj, hl⟩ := deviceTimeTick_of_applyChange hp
    (State.applyChange_refused hc (Clock.judge_step_refused hk h)) (by rw [State.logs_clock]; exact ht)
  rw [State.modClock_modClock] at hu hch hj hl
  rw [State.logs_clock, State.modClock_clock] at hu hch hj
  exact ⟨t, he, hu, hch, hl.trans (State.logs_log_modClock (g := id) rfl _), hj⟩

/-! The entry that is due (R347). -/

/-- Of two entries the one of lower rank, the first of equals: the choice that TroubleLog.due folds over the entries of one beat. -/
def LogEntry.lower (m x : LogEntry) : LogEntry := if x.rank < m.rank then x else m

theorem LogEntry.rank_lower (m x : LogEntry) : (m.lower x).rank = min m.rank x.rank := by
  unfold LogEntry.lower
  split <;> omega
theorem LogEntry.lower_eq (m x : LogEntry) : m.lower x = m ∨ m.lower x = x := by
  unfold LogEntry.lower
  split <;> simp
theorem foldl_lower_mem (l : List LogEntry) (m : LogEntry) : l.foldl LogEntry.lower m ∈ m :: l := by
  induction l generalizing m with
  | nil => simp
  | cons x l ih =>
    rw [List.foldl_cons]
    rcases List.mem_cons.1 (ih (m.lower x)) with h | h
    · rw [h]
      rcases m.lower_eq x with he | he <;> simp [he]
    · exact List.mem_cons_of_mem _ (List.mem_cons_of_mem _ h)
theorem rank_foldl_lower_le (l : List LogEntry) (m : LogEntry) : ∀ x ∈ m :: l, (l.foldl LogEntry.lower m).rank ≤ x.rank := by
  induction l generalizing m with
  | nil => simp
  | cons y l ih =>
    have hle := ih (m.lower y) _ List.mem_cons_self
    rw [LogEntry.rank_lower] at hle
    intro x hx
    rw [List.foldl_cons]
    rcases List.mem_cons.1 hx with rfl | hx
    · omega
    rcases List.mem_cons.1 hx with rfl | hx
    · omega
    · exact ih _ x (List.mem_cons_of_mem _ hx)

/-- Did an entry reach the queue in the beat of another, while the pace ran? -/
def LogEntry.sameBeat (o x : LogEntry) : Bool := o.beat.isSome && x.beat == o.beat

theorem LogEntry.sameBeat_iff {o x : LogEntry} : o.sameBeat x = true ↔ o.beat ≠ none ∧ x.beat = o.beat := by
  simp [LogEntry.sameBeat, Option.isSome_iff_ne_none]
theorem TroubleLog.due_cons {g : TroubleLog} {o : LogEntry} {rest : List LogEntry} (h : g.input = o :: rest) :
    g.due = some ((rest.takeWhile o.sameBeat).foldl LogEntry.lower o) := by
  simp only [TroubleLog.due, h]
  rfl
/-- The due entry: the oldest one or one of its beat, of no higher rank than the oldest and all that follow it in that beat. -/
theorem TroubleLog.due_spec {g : TroubleLog} {o : LogEntry} {rest : List LogEntry} (h : g.input = o :: rest) :
    ∃ e : LogEntry, g.due = some e ∧ e ∈ g.input ∧ e.rank ≤ o.rank ∧ (e = o ∨ (o.beat ≠ none ∧ e.beat = o.beat)) ∧
      (∀ l : List LogEntry, l <+: rest → (∀ x ∈ l, o.beat ≠ none ∧ x.beat = o.beat) → ∀ x ∈ l, e.rank ≤ x.rank) := by
  have hmem := foldl_lower_mem (rest.takeWhile o.sameBeat) o
  have hle := rank_foldl_lower_le (rest.takeWhile o.sameBeat) o
  refine ⟨_, TroubleLog.due_cons h, ?_, hle o List.mem_cons_self, ?_, fun l hl hb x hx => hle x (List.mem_cons_of_mem _ ?_)⟩
  · rw [h]
    exact List.cons_subset_cons _ (List.takeWhile_sublist _).subset hmem
  · exact (List.mem_cons.1 hmem).imp_right fun h => LogEntry.sameBeat_iff.1 (List.mem_takeWhile_imp h)
  · obtain ⟨k, rfl⟩ := hl
    rw [List.takeWhile_append_of_pos fun y hy => LogEntry.sameBeat_iff.2 (hb y hy)]
    exact List.mem_append_left _ hx

/-! Writing (R348). -/

/-- Is an entry pinned when it is written? -/
def TroubleLog.pins (g : TroubleLog) (e : LogEntry) : Bool :=
  decide ((faultClass e.code = 4 ∨ faultClass e.code = 5) ∧ g.pinned.toNat < 32)

theorem TroubleLog.pins_eq (g : TroubleLog) (e : LogEntry) :
    g.pins e = ((faultClass e.code == 4 || faultClass e.code == 5) && decide (g.pinned.toNat < 32)) := by
  simp [TroubleLog.pins, Bool.decide_and, Bool.decide_or, beq_eq_decide]
theorem TroubleLog.write_entry (g : TroubleLog) (e : LogEntry) : (g.write e).2 = { e with seq := g.seq, pinned := g.pins e } := by
  rw [TroubleLog.pins_eq]; rfl
theorem TroubleLog.write_pinned (g : TroubleLog) (e : LogEntry) : (g.write e).1.pinned = if g.pins e then g.pinned + 1 else g.pinned := by
  rw [TroubleLog.pins_eq]; rfl
@[simp] theorem TroubleLog.write_seq (g : TroubleLog) (e : LogEntry) : (g.write e).1.seq = g.seq + 1 := rfl
@[simp] theorem TroubleLog.write_input (g : TroubleLog) (e : LogEntry) : (g.write e).1.input = g.input := rfl

/-! The message and the export of a written entry: only the functions, the HIU and the service ports change. -/

theorem State.msix_eq (s : State) (f : FnId) (v : Byte) : s.msix f v = { s with fns := (s.msix f v).fns, hiu := (s.msix f v).hiu } := by
  unfold State.msix; split <;> rfl
theorem State.logMessage_eq (s : State) (c : W16) :
    s.logMessage c = { s with fns := (s.logMessage c).fns, hiu := (s.logMessage c).hiu } := by
  unfold State.logMessage
  split
  · exact State.msix_eq _ _ _
  · rfl
theorem State.exportEntry_eq (s : State) (e : LogEntry) : s.exportEntry e = { s with svc := (s.exportEntry e).svc } := by
  unfold State.exportEntry; split <;> rfl
/-- A written entry is announced to PF0 and to the subscriber. -/
theorem State.announce_eq (s : State) (e : LogEntry) : ∃ fns hiu svc,
    (s.logMessage e.code).exportEntry e = { s with fns := fns, hiu := hiu, svc := svc } := by
  rw [State.exportEntry_eq, State.logMessage_eq]
  exact ⟨_, _, _, rfl⟩

theorem exec_logWrite_none {s : State} (h : s.log.input = []) : exec .logWrite s = .next s := by
  show execLogWrite s = _
  simp only [execLogWrite, TroubleLog.due, h]
/-- The state after the log has taken an entry, before it is announced. -/
def State.logged (s : State) (e : LogEntry) : State :=
  let t := { s with log := ({ s.log with input := s.log.input.erase e }.write e).1 }
  if s.log.pins e then t.modPower (fun q => { q with alertStatus := q.alertStatus ||| 8 }) else t

theorem State.logged_log (s : State) (e : LogEntry) :
    (s.logged e).log = ({ s.log with input := s.log.input.erase e }.write e).1 := by
  unfold State.logged; dsimp only; split <;> rfl
theorem State.logged_frame (s : State) (e : LogEntry) :
    (s.logged e).parts = s.parts ∧ (s.logged e).jobs = s.jobs ∧ (s.logged e).links = s.links := by
  unfold State.logged; dsimp only; split <;> exact ⟨rfl, rfl, rfl⟩
theorem State.logged_power_pinned {s : State} {e : LogEntry} (h : s.log.pins e = true) :
    (s.logged e).power.alertStatus.getLsbD 3 = true := by
  simp only [State.logged, h, if_true, State.modPower_power, BitVec.getLsbD_or]
  simp
theorem State.logged_power_free {s : State} {e : LogEntry} (h : s.log.pins e = false) : (s.logged e).power = s.power := by
  simp only [State.logged, h, Bool.false_eq_true, if_false]
theorem exec_logWrite_due {s : State} {e : LogEntry} (h : s.log.due = some e) : ∃ fns hiu svc,
    exec .logWrite s = .next { s.logged e with fns := fns, hiu := hiu, svc := svc } := by
  obtain ⟨fns, hiu, svc, ha⟩ := (s.logged e).announce_eq { e with seq := s.log.seq, pinned := s.log.pins e }
  refine ⟨fns, hiu, svc, ?_⟩
  rw [← ha]
  show execLogWrite s = _
  simp only [execLogWrite, h, State.logged, TroubleLog.pins_eq]
  rfl
/-- LOG_WRITE of the entry that is due. -/
theorem logWrite_moves {s : State} {e : LogEntry} (h : s.log.due = some e) :
    ∃ t, exec .logWrite s = .next t ∧ t.log.input = s.log.input.erase e ∧ t.log.seq = s.log.seq + 1 ∧
      t.log.slot? s.log.head.toNat = some { e with seq := s.log.seq, pinned := s.log.pins e } ∧
      (∀ n : Nat, n ≠ s.log.head.toNat → t.log.slot? n = s.log.slot? n) ∧
      t.log.pinned = (if s.log.pins e then s.log.pinned + 1 else s.log.pinned) ∧
      (s.log.pins e = true → t.power.alertStatus.getLsbD 3 = true) ∧ (s.log.pins e = false → t.power = s.power) ∧
      t.parts = s.parts ∧ t.jobs = s.jobs ∧ t.links = s.links := by
  obtain ⟨fns, hiu, svc, ht⟩ := exec_logWrite_due h
  have hentry := TroubleLog.write_entry { s.log with input := s.log.input.erase e } e
  have hsame := TroubleLog.slot_write_same { s.log with input := s.log.input.erase e } e
  rw [hentry] at hsame
  refine ⟨_, ht, ?_⟩
  simp only [State.logged_log]
  exact ⟨rfl, rfl, hsame, TroubleLog.slot_write_other { s.log with input := s.log.input.erase e } e, TroubleLog.write_pinned _ e,
    State.logged_power_pinned, State.logged_power_free, s.logged_frame e⟩

/-! The clauses of O57. -/

theorem registerWrite_ranges {s : State} (hl : s.hostLanes = true) (v : W64) :
    (v.toNat % 8 = 0 → exec (.registerWrite 0 0x10000 4 v) s = .next (s.logs Code.setupRejected)) ∧
    (v.toNat % 8 ≠ 0 → exec (.registerWrite 0 0x10000 4 v) s = .next (s.modPace (fun p => { p with stretchClass := v.setWidth 3 }))) ∧
    exec (.registerWrite 0 0x10008 4 v) s = .next (s.modPace (fun p => { p with floor := v.setWidth 3 })) ∧
    (v.toNat % 1024 = 0 ∨ 1000 < v.toNat % 1024 → exec (.registerWrite 0 0x13000 4 v) s = .next (s.logs Code.setupRejected)) ∧
    (v.toNat % 1024 ≠ 0 → v.toNat % 1024 ≤ 1000 →
      exec (.registerWrite 0 0x13000 4 v) s = .next (s.modInfield (fun i => { i with cellTimeout := v.setWidth 10 }))) := by
  rw [exec_registerWrite_narrow (off := 0x10000) (r := .stretch) hl (by decide) rfl rfl,
    exec_registerWrite_narrow (off := 0x10008) (r := .floor) hl (by decide) rfl rfl,
    exec_registerWrite_narrow (off := 0x13000) (r := .cellTimeout) hl (by decide) rfl rfl]
  obtain ⟨hs0, hs1⟩ := s.commit32_stretch v
  obtain ⟨hc0, hc1⟩ := s.commit32_cellTimeout v
  exact ⟨fun h => congrArg _ (hs0 h), fun h => congrArg _ (hs1 h), congrArg _ (s.commit32_floor v), fun h => congrArg _ (hc0 h),
    fun h0 h1 => congrArg _ (hc1 h0 h1)⟩
/-- The low half is held, then commits with the high half as one value. -/
theorem registerWrite_halves {s t : State} {lo hi : W64} (hl : s.hostLanes = true) (hlo : lo.toNat < 2 ^ 32) (hhi : hi.toNat < 2 ^ 32)
    (ht : exec (.registerWrite 0 0x30030 4 lo) s = .next t) :
    t.boot.fwOffset = s.boot.fwOffset ∧
    ∃ u, exec (.registerWrite 0 0x30034 4 hi) t = .next u ∧ u.boot.fwOffset.toNat = hi.toNat * 2 ^ 32 + lo.toNat ∧ u.log = s.log := by
  rw [exec_registerWrite_wide (off := 0x30030) (r := .fwOffset) hl (by decide) rfl rfl, State.writeHalf_low s 0 _ _ (by decide)] at ht
  cases ht
  refine ⟨rfl, _, exec_registerWrite_wide (off := 0x30034) (r := .fwOffset) hl (by decide) rfl rfl, ?_⟩
  rw [show (0x30034 : BitVec 20) = 0x30030 + 4 from rfl, State.writeHalf_high _ _ (by decide) (heldAt_cons _ _ _ _)]
  refine ⟨?_, (State.commitWide_fwOffset _ _ _ _).2⟩
  rw [(State.commitWide_fwOffset _ _ _ _).1, BitVec.toNat_ofNat, BitVec.toNat_setWidth, BitVec.toNat_setWidth]
  omega

theorem ptpTimeNs_latches {s : State} (hl : s.hostLanes = true) : ∃ t, exec .ptpTimeNs s = .next t ∧
    t.clock.readData.toNat = s.clock.ns.toNat ∧ t.clock.latSec = s.clock.sec ∧ t.clock.latFrac = s.clock.frac ∧
    t.clock.units = s.clock.units ∧ t.readWord 0 0x44010 = s.clock.sec.setWidth 32 ∧ t.readWord 0 0x44018 = s.clock.frac := by
  have hns := s.clock.ns.isLt
  refine ⟨_, exec_ptpTimeNs hl, ?_⟩
  rw [State.readWord_ptpLatSec, State.readWord_ptpLatFrac, State.modClock_clock]
  exact ⟨(BitVec.toNat_ofNat _ _).trans (Nat.mod_eq_of_lt (by omega)), rfl, rfl, s.clock.units_reads _ _ _ s.clock.stamps, rfl, rfl⟩
theorem ptpSpTxts0_takes {s : State} {p : PortId} {e : TxStamp} {rest : List TxStamp} (hl : s.hostLanes = true)
    (he : s.clock.stamps[p].entries = e :: rest) : ∃ t, exec (.ptpSpTxts0 p) s = .next t ∧
    t.clock.stamps[p].entries = rest ∧ t.clock.stamps[p].latched = e ∧
    t.clock.readData.toNat = 2 ^ 31 + e.sub.val * 2 ^ 16 + e.id.toNat ∧ t.clock.units = s.clock.units := by
  have hsub := e.sub.isLt
  have hid := e.id.isLt
  refine ⟨_, exec_ptpSpTxts0_cons hl he, ?_, ?_, ?_, s.clock.units_reads s.clock.latSec _ s.clock.latFrac _⟩
  · exact congrArg PortStamps.entries (vmod_same _ _ _)
  · exact congrArg PortStamps.latched (vmod_same _ _ _)
  · exact (BitVec.toNat_ofNat _ _).trans (Nat.mod_eq_of_lt (by omega))

/-- Settles O57: an access or a row without the host's lanes does nothing; with them each clause is the lemma of its row above. -/
theorem registersTimeAndLogAdvance : Obligations.RegistersTimeAndLogAdvance := by
  refine ⟨fun s f off size v => ⟨exec_registerWrite_down, fun hl => ⟨exec_registerWrite_bad hl, fun hs ha hf ho => ?_⟩⟩,
    fun s v hl _ => registerWrite_ranges hl v,
    fun s t lo hi => registerWrite_halves,
    fun s p b hl row => exec_ptpRead_down hl,
    fun s => ptpTimeNs_latches,
    fun s p hl => ⟨exec_ptpSpTxts0_empty hl, fun e rest => ptpSpTxts0_takes hl⟩,
    fun s hl => ⟨exec_ptpPaceCount_count hl, exec_ptpPaceCount_time hl⟩,
    fun s => ⟨exec_deviceTimeTick_off, ?_⟩,
    fun s => ⟨exec_logWrite_none, fun o rest => TroubleLog.due_spec, ?_⟩,
    fun s x => rfl⟩
  case refine_1 => rw [exec_registerWrite_ok hl hs ha, State.regWrite_vf_above hf ho]
  case refine_2 =>
    rintro hp n rfl
    refine ⟨deviceTimeTick_unchanged hp, fun force off k hc hoff hk ht => ?_⟩
    subst hoff
    refine ⟨deviceTimeTick_step_applied hp hc hk ht, fun hf hthr => ?_⟩
    subst hf
    exact deviceTimeTick_step_refused hp hc hk hthr
  case refine_3 =>
    rintro e b hdue rfl
    exact logWrite_moves hdue

end Sys2Proof.Machine
end

section
/-! SUPPORT and the statement of an empty queue: one beat of the pace passes (R17, R35, R39). -/

namespace Sys2Proof.Machine

/-! The beat of an empty queue (R35). -/

theorem step_of_empty {s : State} (h : s.pending = []) : step s = .next (passBeat s) := by
  simp only [step, h]
theorem passBeat_stopped {s : State} (h : s.power.mainPg = false ∨ s.pace.refsLost = true) : passBeat s = s := by
  have hp : s.paceRuns = false := by
    obtain h | h := h <;> simp [State.paceRuns, h]
  simp [passBeat, hp]

theorem State.ringsMove_empty {s : State} (h : s.infield.transit = []) : s.ringsMove = s := by
  simp [State.ringsMove, h]
theorem State.bufferBeat_uncounted {s : State} {l : LinkId} (h : (s.link l).sincePresented = none) : s.bufferBeat l = s := by
  simp only [State.bufferBeat, h]
theorem State.presentDue_empty {s : State} {l : LinkId} (n : Nat) (h : (s.link l).elastic = []) : s.presentDue n l = s := by
  cases n with
  | zero => rfl
  | succ n => simp only [State.presentDue, h]
theorem State.flightsLand_empty {s : State} (h : s.infield.flights = []) : s.flightsLand = s := by
  have hf : { s.infield with flights := [] } = s.infield := by rw [← h]
  simp [State.flightsLand, h, State.modInfield, hf]
theorem State.meetHolds_ahead {s : State} (h : ∀ x ∈ s.pace.holds, s.pace.count.toNat < x.target) : s.meetHolds = s := by
  have hn : s.pace.holds.any (fun x => decide (x.target ≤ s.pace.count.toNat)) = false := by
    simpa using h
  simp [State.meetHolds, hn]

/-- With nothing under way a beat of the running pace raises the count alone. -/
theorem passBeat_quiet {s : State} (hm : s.power.mainPg = true) (hr : s.pace.refsLost = false) (ht : s.infield.transit = [])
    (hf : s.infield.flights = []) (hl : ∀ l : LinkId, (s.link l).elastic = [] ∧ (s.link l).sincePresented = none)
    (hh : ∀ h ∈ s.pace.holds, (s.pace.count + 1).toNat < h.target) :
    passBeat s = { s with pace := { s.pace with count := s.pace.count + 1 } } := by
  have hp : s.paceRuns = true := by simp [State.paceRuns, hm, hr]
  have hb : allLinks.foldl (fun s l => s.bufferBeat l) s.ringsMove = s := by
    rw [State.ringsMove_empty ht]
    exact List.foldl_fixed' (fun l => State.bufferBeat_uncounted (hl l).2) _
  simp only [passBeat, hp, if_true, hb]
  rw [State.flightsLand_empty (by exact hf), State.meetHolds_ahead (by exact hh)]
  exact List.foldl_fixed' (fun l => State.presentDue_empty 8 (by exact (hl l).1)) _

/-- Settles O2: on an empty queue a step is passBeat; the invariant and what stands are State.Steady's. -/
theorem emptyQueuePassesOneBeat : Obligations.EmptyQueuePassesOneBeat := by
  intro s hq
  rw [step_of_empty hq]
  refine ⟨fun hm hr ht hf hl hh => by rw [passBeat_quiet hm hr ht hf hl hh], fun h => by rw [passBeat_stopped h], fun hi => ?_⟩
  have h := passBeat_steady s hi.steady
  exact ⟨_, rfl, h.queue.trans hq, h.time.1, h.time.2.1, h.slots.1, h.keys⟩

end Sys2Proof.Machine
end

section
/-! SUPPORT and the statement of the standby domain: its power-on reset, the cold reset, its failure (R353, R370, R378). -/

namespace Sys2Proof.Machine

/-! A cold start: what it leaves, and the log's first entry. -/

section
variable (s : State)
@[simp] theorem State.coldStart_pending : s.coldStart.pending = s.pending := State.logs_pending _ _ _ _
@[simp] theorem State.coldStart_power : s.coldStart.power = s.power := State.logs_power _ _ _ _
@[simp] theorem State.coldStart_clock : s.coldStart.clock = s.clock := State.logs_clock _ _ _ _
@[simp] theorem State.coldStart_mgt : s.coldStart.mgt = s.mgt := State.logs_mgt _ _ _ _
@[simp] theorem State.coldStart_sram : s.coldStart.sram = s.sram := State.logs_sram _ _ _ _
@[simp] theorem State.coldStart_part (p : PartId) : s.coldStart.part p = s.part p := State.logs_part _ _ _ _ p
@[simp] theorem State.coldStart_jobs : s.coldStart.jobs = s.jobs := State.logs_jobs _ _ _ _
@[simp] theorem State.coldStart_hiu : s.coldStart.hiu = s.hiu := State.logs_hiu _ _ _ _
@[simp] theorem State.coldStart_host : s.coldStart.host = s.host := State.logs_host _ _ _ _
@[simp] theorem State.coldStart_side : s.coldStart.side = s.side := State.logs_side _ _ _ _
@[simp] theorem State.coldStart_boot : s.coldStart.boot = { s.boot with mode := .rom } := State.logs_boot _ _ _ _
end

/-- The first entry of an empty log is COLD_RESET, which waits in the input queue. -/
theorem State.coldStart_log {s : State} (h : s.log = TroubleLog.reset) :
    s.coldStart.log.slots = [] ∧ s.coldStart.log.input.map (·.code) = [Code.coldReset] := by
  simp [State.coldStart, State.logs, State.hand, State.modLog, State.modBoot, h, TroubleLog.reset]
theorem Clock.total_zero {c : Clock} (hs : c.sec = 0) (hn : c.ns = 0) : c.total = 0 := by
  simp [Clock.total, hs, hn]

theorem exec_standbyPorRelease {s : State} (strap : BitVec 3) (h : s.power.porReleased = false) :
    exec (.standbyPorRelease strap) s =
      .next (s.outside.modPower (fun p => { p with porReleased := true, strap := strap })).coldStart := by
  simp [exec, execStandbyPorRelease, h]
theorem exec_coldReset {s : State} (h : s.power.porReleased = true) : exec .coldReset s = .next s.coldReset := by
  simp [exec, execColdReset, h]
theorem exec_standbyFail {s : State} (h : s.power.porReleased = true) : exec .standbyFail s = .next s.outside := by
  simp [exec, execStandbyFail, h]

/-- What a cold reset clears, before the standby domain starts on it. -/
def State.coldCleared (s : State) : State :=
  let p := s.power
  { s.outside with
    power := { s.outside.power with
      porReleased := true, mainPg := p.mainPg, stopped := p.stopped, trip := p.trip, thermtrip := p.thermtrip, vin := p.vin
      powerW := p.powerW, vstby := p.vstby, strap := p.strap, stbyEpisode := p.stbyEpisode }
    clock := { Clock.reset with fallback := s.clock.fallback }
    pace := s.pace.restart
    parts := s.parts.map (fun q : Partition => { Partition.reset with zeroing := p.mainPg, left := q.shown })
    hiu := { Hiu.reset with port := p.portStage }
    side := { Side.reset with jtag := s.side.jtag } }
theorem State.coldReset_eq (s : State) : s.coldReset = s.coldCleared.coldStart := rfl
theorem State.coldCleared_part (s : State) (p : PartId) :
    (s.coldCleared.part p).st = .marks ∧ (s.coldCleared.part p).zeroing = s.power.mainPg := by
  simp [State.coldCleared, State.part, Partition.reset]
theorem State.coldCleared_key (s : State) (k : KeySlotIx) : s.coldCleared.mgt.keys[k].state = .empty := by
  simp [State.coldCleared, State.outside, State.reset, Mgt.reset]

/-- Settles O14: each clause is a field of `State.outside`, or of the cold start on what is cleared. -/
theorem standbyDomainStartsAgain : Obligations.StandbyDomainStartsAgain := by
  refine fun s => ⟨fun strap h => ⟨_, exec_standbyPorRelease strap h, ?release⟩, fun h => ⟨_, exec_coldReset h, ?cold⟩,
    fun h => ⟨_, exec_standbyFail h, ?fail⟩⟩
  case release =>
    obtain ⟨hslots, hinput⟩ := State.coldStart_log (s := s.outside.modPower (fun p => { p with porReleased := true, strap := strap })) rfl
    simp only [State.coldStart_power, State.coldStart_boot, State.coldStart_clock, State.coldStart_jobs, State.coldStart_hiu,
      State.coldStart_host, State.coldStart_pending]
    exact ⟨rfl, rfl, trivial, hslots, hinput, Clock.total_zero rfl rfl, rfl, rfl, rfl, rfl, rfl⟩
  case cold =>
    obtain ⟨hslots, hinput⟩ := State.coldStart_log (s := s.coldCleared) rfl
    simp only [State.coldReset_eq, State.coldStart_power, State.coldStart_boot, State.coldStart_clock, State.coldStart_jobs, State.coldStart_sram,
      State.coldStart_part, State.coldStart_mgt, State.coldStart_hiu, State.coldStart_host, State.coldStart_side, State.coldStart_pending]
    exact ⟨rfl, rfl, rfl, rfl, trivial, hslots, hinput, Clock.total_zero rfl rfl, rfl, rfl, s.coldCleared_part, s.coldCleared_key, rfl, rfl,
      rfl, rfl, rfl⟩
  case fail => exact ⟨rfl, rfl, rfl, rfl, rfl, rfl, rfl, rfl, rfl, rfl⟩

end Sys2Proof.Machine
end

section
/-! SUPPORT and the statement of the Point Engine's FRAME (R15, R143 to R145, R152, R161). -/

namespace Sys2Proof.Machine

/-! FRAME: whose turn, and what it does (R15, R143, R144). -/

theorem State.frameReady_part {s : State} {p q : PartId} {i : Issued} {es : List QEntry} (h : s.frameReady p = some (q, i, es)) : q = p := by
  unfold State.frameReady at h
  split at h
  · cases h
  · split at h
    · cases h
    · split at h
      · cases h; rfl
      · split at h <;> cases h
        rfl
/-- The frame taken next lies on the die. -/
theorem State.nextFrame_die {s : State} {d : DieId} {p : PartId} {i : Issued} {es : List QEntry} (h : s.nextFrame d = some (p, i, es)) :
    dieOfPart p = d := by
  have hd : ∀ e : DieId, dieOfPart (finOf 8 (2 * e.val)) = e ∧ dieOfPart (finOf 8 (2 * e.val + 1)) = e := by decide
  obtain ⟨q, hq, hr⟩ := List.exists_of_findSome?_eq_some h
  rw [State.frameReady_part hr]
  have : q = finOf 8 (2 * d.val) ∨ q = finOf 8 (2 * d.val + 1) := by
    split at hq <;> simpa [or_comm] using hq
  obtain rfl | rfl := this
  · exact (hd d).1
  · exact (hd d).2

theorem exec_frame_ready {s : State} {d : DieId} {x : PartId × Issued × List QEntry} (h : s.nextFrame d = some x) :
    exec (.frame d) s = .next (s.runFrame d) := by
  simp only [exec, execFrame, h]
/-- With the engine in HOLD, or no frame ready, and no job of the die that still stops, nothing happens. -/
theorem exec_frame_idle {s : State} {d : DieId} (h : s.inHold (.pointEngine d) = true ∨ s.nextFrame d = none)
    (h0 : s.stillRuns (finOf 8 (2 * d.val)) = none) (h1 : s.stillRuns (finOf 8 (2 * d.val + 1)) = none) : exec (.frame d) s = .next s := by
  have hr : s.runFrame d = s := by
    obtain h | h := h <;> simp [State.runFrame, h]
  simp only [exec, execFrame, List.findSome?, h0, h1, Option.map_none]
  split
  · contradiction
  · rw [hr]
theorem State.nextFrame_none {s : State} {d : DieId} (h0 : s.frameReady (finOf 8 (2 * d.val)) = none)
    (h1 : s.frameReady (finOf 8 (2 * d.val + 1)) = none) : s.nextFrame d = none := by
  simp only [State.nextFrame]
  split <;> simp [h0, h1]

/-! A frame that is taken: v is the state with it taken from its queue, and the other partition's turn next. -/

/-- The frame has left its queue and the other partition's turn is next. -/
def State.frameTaken (s : State) (d : DieId) (p : PartId) : State :=
  { s.modPart p (fun q => { q with pointQ := q.pointQ.tail }) with
    pe := vmod s.pe d (fun e => { e with nextUpper := p.val == 2 * d.val, convolving := false }) }
/-- The accesses of a frame. -/
def frameAcc (p : PartId) (i : Issued) : Acc := { part := p, tile := i.cmd.tile, engine := 5, unit := 7, cmd := i, loops := none }

theorem State.frameTaken_pred (s : State) (d : DieId) (p : PartId) : ((s.frameTaken d p).part p).pred = (s.part p).pred := by
  change (vmod s.parts p _)[p].pred = _
  rw [vmod_same]
  rfl
/-- A frame that has run is counted, and has moved its Matrix Engines' rotation on where it convolved. -/
def State.frameRan (t : State) (d : DieId) (p : PartId) (ms : List Engine) : State :=
  { t.frameTurns d p ms with pe := vmod (t.frameTurns d p ms).pe d (fun e => { e with frames := satInc e.frames }) }

section
variable {s : State} {d : DieId} {p : PartId} {i : Issued} {es : List QEntry}
variable (hh : s.inHold (.pointEngine d) = false) (hn : s.nextFrame d = some (p, i, es))
include hh hn

theorem State.runFrame_skips {c : Nat} (hc : s.skipCause p i es = some c) :
    s.runFrame d = ((s.frameTaken d p).retire p i (fun id g => mkVoid c id g (i.src8 p)) 5).settle p := by
  rw [State.skipCause, ← s.frameTaken_pred d p] at hc
  unfold State.runFrame
  simp only [hh, hn, Bool.false_eq_true, if_false]
  split
  · next heq => cases hc.symm.trans heq; rfl
  · next heq => cases hc.symm.trans heq
/-- A frame whose work ends in a fault; where it convolves it waits for its Matrix Engines. -/
theorem State.runFrame_faults {e : Unit} {t : State} (hc : s.skipCause p i es = none)
    (hb : frameBody (frameAcc p i) (s.frameTaken d p) = .error e t) :
    s.runFrame d = if t.pe[d].convolving && !(s.frameEngines p i.cmd).all (s.pointMay p) then s else t.convolves p false := by
  rw [State.skipCause, ← s.frameTaken_pred d p] at hc
  unfold State.runFrame
  simp only [hh, hn, Bool.false_eq_true, if_false]
  split
  · next heq => cases hc.symm.trans heq
  · split
    · next heq => cases hb.symm.trans heq; rfl
    · next heq => cases hb.symm.trans heq
/-- A frame whose work meets no fault. -/
theorem State.runFrame_ends {r : FrameRes} {t : State} (hc : s.skipCause p i es = none)
    (hb : frameBody (frameAcc p i) (s.frameTaken d p) = .ok r t) :
    s.runFrame d = if t.pe[d].convolving && !(s.frameEngines p i.cmd).all (s.pointMay p) then s
      else (((if r.status = 0 then t.frameRan d p (s.frameEngines p i.cmd)
          else (t.frameRan d p (s.frameEngines p i.cmd)).frameRejected d ((t.frameRan d p (s.frameEngines p i.cmd)).vfOf p)).retire p i
        (fun id g => mkEntry r.payload id g (i.src8 p)) 5).settle p) := by
  rw [State.skipCause, ← s.frameTaken_pred d p] at hc
  unfold State.runFrame
  simp only [hh, hn, Bool.false_eq_true, if_false]
  split
  · next heq => cases hc.symm.trans heq
  · split
    · next heq => cases hb.symm.trans heq
    · next heq => cases hb.symm.trans heq; rfl

end

theorem vmod_vmod {α : Type} {n : Nat} (v : Vector α n) (i : Fin n) (f g : α → α) : vmod (vmod v i f) i g = vmod v i (g ∘ f) := by
  simp [vmod]
/-- A frame that has run, written out: a frame that convolves has moved its Matrix Engines' rotation on. -/
theorem State.frameRan_eq {t : State} {d : DieId} {p : PartId} (hp : dieOfPart p = d) (ms : List Engine) :
    t.frameRan d p ms = { (if t.pe[d].convolving then t.modPart p (fun q =>
        (ms.filter (fun g => g.turn != Turn.graph)).foldl (fun q g => q.setEngine { g with turn := Turn.point.next }) q) else t) with
      pe := vmod t.pe d (fun e => { e with frames := satInc e.frames, convolving := false }) } := by
  unfold State.frameRan State.frameTurns
  cases hc : t.pe[d].convolving with
  | true => simp only [if_true, State.convolves, hp, vmod_vmod, State.modPart_pe]; rfl
  | false =>
    have hv : vmod t.pe d (fun e => { e with frames := satInc e.frames }) =
        vmod t.pe d (fun e => { e with frames := satInc e.frames, convolving := false }) := by
      simp only [vmod, hc]
    simp only [Bool.false_eq_true, if_false, hv]

/-- A frame that convolves waits while a Matrix Engine of its TILE_SET is not the Point Engine's to use, and goes on otherwise (R144). -/
theorem frame_waits {s : State} {p : PartId} {ms : List Engine} {b : Bool} (hb : b = true) (hg : ∃ g ∈ ms, s.pointMay p g = false) :
    (b && !ms.all (s.pointMay p)) = true := by
  simpa [hb] using hg
theorem frame_goes_on {s : State} {p : PartId} {ms : List Engine} {b : Bool} (h : b = true → ∀ g ∈ ms, s.pointMay p g = true) :
    ¬ (b && !ms.all (s.pointMay p)) = true := by
  simpa using h

/-! Rejection of a short frame: its serials, and its record (R145, R152, R161). -/

theorem getElem?_updAt {α : Type} (f : α → α) : ∀ (l : List α) (n : Nat) (x : α), l[n]? = some x → (updAt f l n)[n]? = some (f x)
  | [], n, x, h => by simp at h
  | y :: ys, 0, x, h => by simp_all [updAt]
  | y :: ys, n + 1, x, h => by
    simp only [updAt, List.getElem?_cons_succ] at h ⊢
    exact getElem?_updAt f ys n x h

/-- The state with other serials in a partition. -/
def State.withSerials (s : State) (p : PartId) (l : List W32) : State := s.modPart p (fun q => { q with serials := l })
@[simp] theorem State.withSerials_serials (s : State) (p : PartId) (l : List W32) : ((s.withSerials p l).part p).serials = l := by
  rw [State.withSerials, State.modPart_part]
theorem State.withSerials_withSerials (s : State) (p : PartId) (l k : List W32) : (s.withSerials p l).withSerials p k = s.withSerials p k := by
  simp [State.withSerials, State.modPart, vmod]
theorem State.withSerials_self (s : State) (p : PartId) : s.withSerials p (s.part p).serials = s := by
  have h : vmod s.parts p (fun q => { q with serials := (s.part p).serials }) = s.parts := Vector.set_getElem_self _
  rw [State.withSerials, State.modPart, h]
theorem State.Grants.withSerials {s : State} {p : PartId} {tile : Fin 32} {kind region : Nat} {e : BitVec 128}
    (h : s.Grants p tile kind region e) (q : PartId) (l : List W32) : (s.withSerials q l).Grants p tile kind region e := by
  obtain ⟨⟨m, ha, hb, he⟩, hk, ht⟩ := h
  have hm : ((s.withSerials q l).part p).mapA = (s.part p).mapA ∧ ((s.withSerials q l).part p).mapB = (s.part p).mapB := by
    by_cases hp : q = p
    · subst hp; rw [State.withSerials, State.modPart_part]; exact ⟨rfl, rfl⟩
    · rw [State.withSerials, State.modPart_part_other _ _ _ _ hp]; exact ⟨rfl, rfl⟩
  exact ⟨⟨m, hm.1.trans ha, hm.2.trans hb, he⟩, hk, ht⟩

/-- A serial that does not wrap is taken, and the next stands in its place. -/
theorem takeSerial_ok {a : Acc} {n : Nat} {g : PointConfig} {s : State} {u : Nat}
    (h : (s.part a.part).serials[n]? = some (BitVec.ofNat 32 u)) (h0 : 0 < u) (h1 : u < 2 ^ 32) :
    ∃ l, l[n]? = some (BitVec.ofNat 32 (u + 1)) ∧ takeSerial a n g s = .ok (u, false) (s.withSerials a.part l) := by
  have hu : (BitVec.ofNat 32 u).toNat = u := by rw [BitVec.toNat_ofNat, Nat.mod_eq_of_lt h1]
  have hv : BitVec.ofNat 32 u ≠ 0 := fun e => by rw [e] at hu; exact h0.ne hu
  refine ⟨_, (getElem?_updAt (fun _ => BitVec.ofNat 32 u + 1) _ _ _ h).trans (congrArg some (BitVec.ofNat_add u 1).symm), ?_⟩
  have hd : (s.part a.part).serials.getD n 1 = BitVec.ofNat 32 u := by simp [List.getD, h]
  simp only [takeSerial, bind, EStateM.bind, get, getThe, MonadStateOf.get, EStateM.get, hd, hv, if_false, pure, EStateM.pure, hu]
  rw [beq_eq_false_iff_ne.2 hv]
  rfl
/-- A frame that is rejected already takes a serial for each layer that is left, whatever its result says. -/
theorem runLayers_rejected {a : Acc} {n : Nat} {g : PointConfig} {kind : Nat} {sites : List Site} {ext : Nat × Nat × Nat} {strides : Nat} :
    ∀ (ls : List Layer) (k : Nat) (s : State) (u : Nat),
    (s.part a.part).serials[n]? = some (BitVec.ofNat 32 u) → 0 < u → u + ls.length ≤ 2 ^ 32 →
    ∃ l, l[n]? = some (BitVec.ofNat 32 (u + ls.length)) ∧ ∀ res : FrameRes, res.status ≠ 0 →
      runLayers a n g kind ls k sites ext strides res s = .ok (res, sites, strides) (s.withSerials a.part l)
  | [], k, s, u, h, _, _ => ⟨_, h, fun res _ => by rw [State.withSerials_self]; rfl⟩
  | x :: ls, k, s, u, h, hu, hl => by
    rw [List.length_cons] at hl
    obtain ⟨l, hn, ht⟩ := takeSerial_ok (g := g) h hu (by omega)
    rw [← State.withSerials_serials s a.part l] at hn
    obtain ⟨l', hn', ih⟩ := runLayers_rejected (g := g) (kind := kind) (ext := ext) ls (k + 1) (s.withSerials a.part l) (u + 1) hn
      (by omega) (by omega)
    refine ⟨l', by rw [hn', List.length_cons]; congr 2; omega, fun res hr => ?_⟩
    have ih := ih res hr
    rw [State.withSerials_withSerials] at ih
    rw [runLayers, ← ih]
    simp only [bind, EStateM.bind, ht, Bool.or_false, bne_iff_ne, ne_eq, hr, not_false_eq_true, if_true]

theorem headerCheck_short {g : PointConfig} {len : Nat} (h : len < 576) (hd : List Byte) (poses : List Pose) :
    headerCheck g len hd poses = some Status.frameMalformed := by
  simp [headerCheck, h]
/-- The words of a result record, four bytes each, fill 64 bytes. -/
theorem FrameRes.record_length (r : FrameRes) : (r.words.flatMap (natLE 4)).length = 64 := by
  simp [FrameRes.words, natLE_length]

/-- The work of a frame shorter than its header: it is rejected FRAME_MALFORMED with no box, and has taken the serials of voxelisation and of
each layer. -/
theorem frameRun_short {a : Acc} {n : Nat} {g : PointConfig} {s : State} {v : W32} {e : BitVec 128}
    (hs : (s.part a.part).serials[n]? = some v) (h0 : 0 < v.toNat) (hl : v.toNat + g.layers.length < 2 ^ 32) (hc : s.sram.ecc = [])
    (hlen : frameLen a.cmd.cmd < 576) (hg : s.Grants a.part a.tile Kind.point (frameRef (a.cmd.cmd.word 3)).region e)
    (hb : (frameRef (a.cmd.cmd.word 3)).offset + frameLen a.cmd.cmd ≤ meLen e) :
    ∃ (r : FrameRes) (k : List RingUnit) (l : List W32), frameRun a n g s = .ok r ((s.withTraffic k).withSerials a.part l) ∧
      r.status = Status.frameMalformed ∧ r.layer = 0xFF ∧ r.boxes = [] ∧ r.serial = v.toNat ∧
      l[n]? = some (v + BitVec.ofNat 32 (1 + g.layers.length)) := by
  have hmin : Nat.min (frameLen a.cmd.cmd) 576 = frameLen a.cmd.cmd := Nat.min_eq_left (by omega)
  obtain ⟨k, hk⟩ := Acc.read_ok (a := a) (off := ((frameRef (a.cmd.cmd.word 3)).offset : Int)) (len := frameLen a.cmd.cmd)
    hg hc (by omega) (by omega)
  rw [show v = BitVec.ofNat 32 v.toNat from BitVec.eq_of_toNat_eq (by simp)] at hs
  obtain ⟨l, hn, ht⟩ := takeSerial_ok (g := g) (s := s.withTraffic k) hs h0 v.isLt
  rw [← State.withSerials_serials (s.withTraffic k) a.part l] at hn
  obtain ⟨l', hn', hr⟩ := runLayers_rejected (g := g) (kind := Kind.point) (sites := []) (ext := (g.extent 0, g.extent 1, g.extent 2))
    (strides := 0) g.layers 0 _ _ hn (by omega) (by omega)
  have hbad : ∀ r : FrameRes, (r.reject Status.frameMalformed 0xFF).status ≠ 0 := fun _ => (by decide : Status.frameMalformed ≠ 0)
  unfold frameRun
  simp only [bind, EStateM.bind, hmin, hk, ht, headerCheck_short hlen, hr _ (hbad _), State.withSerials_withSerials]
  refine ⟨_, k, l', rfl, rfl, rfl, rfl, rfl, ?_⟩
  rw [hn', Nat.add_assoc, BitVec.ofNat_add, BitVec.ofNat_toNat, BitVec.setWidth_eq]

/-- The whole row of such a frame: its result record is written, and nothing but serials, plots and plot traffic changes. -/
theorem frameBody_short {a : Acc} {g : PointConfig} {s : State} {v : W32} {ein eout : BitVec 128}
    (hg : (s.part a.part).configs[frameConfig a.cmd.cmd]? = some g) (hs : (s.part a.part).serials[frameConfig a.cmd.cmd]? = some v)
    (h0 : 0 < v.toNat) (hl : v.toNat + g.layers.length < 2 ^ 32) (hc : s.sram.ecc = []) (hlen : frameLen a.cmd.cmd < 576)
    (hin : s.Grants a.part a.tile Kind.point (frameRef (a.cmd.cmd.word 3)).region ein)
    (hbin : (frameRef (a.cmd.cmd.word 3)).offset + frameLen a.cmd.cmd ≤ meLen ein)
    (hout : s.Grants a.part a.tile Kind.point (frameRef (a.cmd.cmd.word 6)).region eout)
    (hbout : (frameRef (a.cmd.cmd.word 6)).offset + 64 ≤ meLen eout) :
    ∃ (r : FrameRes) (k : List RingUnit) (l : List W32),
      frameBody a s = .ok r (((s.withSerials a.part l).withMem (Mem.write s.sram.mem
        (partBase a.part + meStart eout + (frameRef (a.cmd.cmd.word 6)).offset) (r.words.flatMap (natLE 4)))).withTraffic k) ∧
      r.status = Status.frameMalformed ∧ r.layer = 0xFF ∧ r.boxes = [] ∧ r.serial = v.toNat ∧
      l[frameConfig a.cmd.cmd]? = some (v + BitVec.ofNat 32 (1 + g.layers.length)) := by
  obtain ⟨r, k, l, hrun, hst, hla, hbx, hse, hn⟩ := frameRun_short hs h0 hl hc hlen hin hbin
  obtain ⟨k', hw⟩ := Acc.write_ok (a := a) (off := ((frameRef (a.cmd.cmd.word 6)).offset : Int)) (bs := r.words.flatMap (natLE 4))
    ((hout.withTraffic k).withSerials a.part l) hc (by omega) (by rw [r.record_length]; omega)
  have hat : partBase a.part + ((meStart eout : Int) + ((frameRef (a.cmd.cmd.word 6)).offset : Nat)).toNat =
      partBase a.part + meStart eout + (frameRef (a.cmd.cmd.word 6)).offset := by omega
  rw [hat] at hw
  refine ⟨r, k', l, ?_, hst, hla, hbx, hse, hn⟩
  simp only [frameBody, bind, EStateM.bind, get, getThe, MonadStateOf.get, EStateM.get, hg, hrun, hbx, List.length_nil, foldVisits, pure,
    EStateM.pure, hw]
  rfl

/-- Settles O46: each clause is the lemma of its case above. -/
theorem framesRunWholeInTurn : Obligations.FramesRunWholeInTurn := by
  refine ⟨fun s d h h0 h1 => ?idle, fun s v d p i es hh hn hv => ?taken, fun s a g n v ein eout hn hg hs h0 hl hc _ hlen hin hbin hout hbout => ?short⟩
  case idle => exact exec_frame_idle (h.imp_right fun hr => State.nextFrame_none hr.1 hr.2) h0 h1
  case taken =>
    replace hn : s.nextFrame d = some (p, i, es) := hn
    replace hv : v = s.frameTaken d p := hv
    subst hv
    rw [exec_frame_ready hn]
    refine ⟨fun c hc => by rw [State.runFrame_skips hh hn hc], fun a w hc ha => ?_⟩
    replace ha : a = frameAcc p i := ha
    subst ha
    refine ⟨fun e hb => ?_, fun r x hb => ?_⟩
    · rw [State.runFrame_faults hh hn hc hb]
      refine ⟨fun hw hg => by rw [if_pos (frame_waits hw hg)], fun hw => ?_⟩
      rw [if_neg (frame_goes_on fun hc => hw.resolve_left (ne_false_of_eq_true hc)), State.convolves, State.nextFrame_die hn]
    · rw [State.runFrame_ends hh hn hc hb]
      refine ⟨fun hw hg => by rw [if_pos (frame_waits hw hg)], fun hw hx => ?_⟩
      rw [if_neg (frame_goes_on hw), State.frameRan_eq (State.nextFrame_die hn), ← hx]
  case short =>
    subst hn
    obtain ⟨r, k, l, hrun, hst, hla, hbx, hse, hn⟩ := frameBody_short hg hs (Nat.pos_of_ne_zero fun e => h0 (BitVec.eq_of_toNat_eq e)) hl hc hlen hin hbin hout hbout
    refine ⟨r, _, hrun, hst, hla, hbx, hse, ?_, ?_, ?_, ?_⟩
    · rw [State.withTraffic, State.modInfield_log, State.withMem, State.modSram_log, State.withSerials, State.modPart_log]
    · rw [State.withTraffic, State.modInfield_jobs, State.withMem, State.modSram_jobs, State.withSerials, State.modPart_jobs]
    · rw [State.withTraffic_part, State.withMem_part, State.withSerials_serials, hn]
    · rw [State.withTraffic_sram, State.withMem_mem]

end Sys2Proof.Machine
end

section
/-! SUPPORT and the statement of the events that stop main conversion (R17, R369, R405): what faults, completions, resets of functions and
losses of links leave of the units and of the power block, and what the stop of conversion then makes of them. -/

namespace Sys2Proof.Machine

/-- What stands through the faults, completions and link losses of a package: HOLD and epochs of its units, and its power block. -/
def State.standing (s : State) : Units × Byte × Power := (s.units, s.mgt.epoch, s.power)
theorem State.standing_eq {s t : State} (h : s.standing = t.standing) : s.units = t.units ∧ s.mgt.epoch = t.mgt.epoch ∧ s.power = t.power := by
  simpa [State.standing] using h

section
variable (s : State)

@[simp] theorem State.standing_upd (pending boot clock log pace sram parts jobs seqTurn pe links infield hiu fns host svc side fresh) :
    State.standing ⟨pending, s.power, boot, clock, log, s.mgt, pace, sram, parts, jobs, s.units, seqTurn, pe, links, infield, hiu, fns, host, svc,
      side, fresh⟩ = s.standing := rfl
@[simp] theorem State.modPart_standing (p : PartId) (f) : (s.modPart p f).standing = s.standing := rfl
@[simp] theorem State.modLink_standing (l : LinkId) (f) : (s.modLink l f).standing = s.standing := rfl
@[simp] theorem State.modFn_standing (n : FnId) (f) : (s.modFn n f).standing = s.standing := rfl
@[simp] theorem State.modPace_standing (f) : (s.modPace f).standing = s.standing := rfl
@[simp] theorem State.modInfield_standing (f) : (s.modInfield f).standing = s.standing := rfl
@[simp] theorem State.modHiu_standing (f) : (s.modHiu f).standing = s.standing := rfl
@[simp] theorem State.modSvc_standing (f) : (s.modSvc f).standing = s.standing := rfl
@[simp] theorem State.modSram_standing (f) : (s.modSram f).standing = s.standing := rfl
@[simp] theorem State.modBoot_standing (f) : (s.modBoot f).standing = s.standing := rfl
@[simp] theorem State.modLog_standing (f) : (s.modLog f).standing = s.standing := rfl
@[simp] theorem State.modJob_standing (id : Nat) (f) : (s.modJob id f).standing = s.standing := rfl
@[simp] theorem State.modSq_standing (n : FnId) (i : RingIx) (f) : (s.modSq n i f).standing = s.standing := rfl
@[simp] theorem State.modCq_standing (n : FnId) (i : RingIx) (f) : (s.modCq n i f).standing = s.standing := rfl
theorem State.modMgt_standing (f : Mgt → Mgt) (h : (f s.mgt).epoch = s.mgt.epoch) : (s.modMgt f).standing = s.standing := by
  rw [State.standing, State.modMgt_mgt, h]; rfl
@[simp] theorem State.hand_standing (c : W16) (v : Nat) (b : LogBody) (k : Nat) : (s.hand c v b k).standing = s.standing := rfl
@[simp] theorem State.logs_standing (c : W16) (v k : Nat) : (s.logs c v k).standing = s.standing := rfl
@[simp] theorem State.logAt_standing (c : W16) (v : Nat) (r : Loc) : (s.logAt c v r).standing = s.standing := rfl

end

/-- A fold whose every step keeps what stands keeps it. -/
theorem foldl_standing {α : Type} (f : State → α → State) (l : List α) (s : State) (h : ∀ t x, (f t x).standing = t.standing) :
    (l.foldl f s).standing = s.standing := by
  induction l generalizing s with
  | nil => rfl
  | cons x l ih => rw [List.foldl_cons, ih, h]

/-! Frames that are sent, rows that wear out, and what is written to the host. -/

@[simp] theorem State.sendFrame_standing (s : State) (p sub f) : (s.sendFrame p sub f).standing = s.standing := rfl
@[simp] theorem State.zshReply_standing (s : State) (r e x) : (s.zshReply r e x).standing = s.standing := by
  exact foldl_standing _ _ _ fun _ _ => rfl
@[simp] theorem State.retireRow_standing (s : State) (d row vf r) : (s.retireRow d row vf r).standing = s.standing := by
  unfold State.retireRow; (repeat' split) <;> simp
@[simp] theorem State.correctWord_standing (s : State) (k row d vf r) : (s.correctWord k row d vf r).standing = s.standing := by
  unfold State.correctWord; simp only; (repeat' split) <;> simp
@[simp] theorem State.recoveryDouble_standing (s : State) (d w r) : (s.recoveryDouble d w r).standing = s.standing := by
  simp [State.recoveryDouble]
@[simp] theorem State.useRecovery_standing (s : State) (d) : (s.useRecovery d).standing = s.standing := by
  unfold State.useRecovery
  refine foldl_standing _ _ _ fun t x => ?_
  cases x.err <;> simp
@[simp] theorem State.hostWrite_standing (s : State) (a bs) : (s.hostWrite a bs).standing = s.standing := rfl
@[simp] theorem State.msix_standing (s : State) (f vec) : (s.msix f vec).standing = s.standing := by
  unfold State.msix; split <;> rfl

@[simp] theorem State.winWrite_standing (root : W64) : ∀ (n : Nat) (s : State) (off : Nat) (bs : List Byte),
    (s.winWrite root n off bs).1.standing = s.standing
  | 0, s, off, [] => rfl
  | 0, s, off, b :: bs => rfl
  | n + 1, s, off, [] => rfl
  | n + 1, s, off, b :: bs => by
    unfold State.winWrite
    split
    · rfl
    · exact winWrite_standing root n _ _ _
@[simp] theorem State.winFault_standing (s : State) (f c) : (s.winFault f c).standing = s.standing := rfl
@[simp] theorem State.winCount_standing (s : State) (f st) : (s.winCount f st).standing = s.standing := by
  unfold State.winCount; split <;> rfl
/-! Doorbell lines and completions. -/

@[simp] theorem State.setLine_standing (s : State) (a st) : (s.setLine a st).standing = s.standing := rfl
@[simp] theorem State.dropLines_standing (s : State) : s.dropLines.standing = s.standing := rfl
@[simp] theorem State.writeLine_standing (s : State) (f d bs) : (s.writeLine f d bs).standing = s.standing := by
  unfold State.writeLine; split <;> simp
@[simp] theorem State.sqStatus_standing (s : State) (f n) : (s.sqStatus f n).standing = s.standing := by
  simp [State.sqStatus]
@[simp] theorem State.cqStatus_standing (s : State) (f n) : (s.cqStatus f n).standing = s.standing := by
  simp [State.cqStatus]
@[simp] theorem State.sqSettle_standing (s : State) (f n) : (s.sqSettle f n).standing = s.standing := by
  unfold State.sqSettle; simp only; split <;> simp
@[simp] theorem State.putEntry_standing (s : State) (f n c) : (s.putEntry f n c).standing = s.standing := by
  unfold State.putEntry; simp only; split <;> simp
@[simp] theorem State.postCq_standing (s : State) (f n c) : (s.postCq f n c).standing = s.standing := by
  unfold State.postCq; simp only; (repeat' split) <;> simp
@[simp] theorem State.writeHeader_standing (s : State) (a h o st p d f t) : (s.writeHeader a h o st p d f t).standing = s.standing := rfl
@[simp] theorem State.endClaim_standing (s : State) (d a) : (s.endClaim d a).standing = s.standing := by
  unfold State.endClaim; simp only; (repeat' split) <;> simp
@[simp] theorem State.synthetic_standing (s : State) (y) : (s.synthetic y).standing = s.standing := by
  unfold State.synthetic; split <;> simp
@[simp] theorem State.completeWith_standing (s : State) (d a r) : (s.completeWith d a r).standing = s.standing := by
  unfold State.completeWith; simp only; (repeat' split) <;> simp
@[simp] theorem State.complete_standing (s : State) (d a) : (s.complete d a).standing = s.standing := s.completeWith_standing d a []
@[simp] theorem State.jobEvent_standing (s : State) (j k a) : (s.jobEvent j k a).standing = s.standing := by
  simp [State.jobEvent]

/-! Cells, and the fault of a job. -/

@[simp] theorem State.addUnit_standing (s : State) (u) : (s.addUnit u).standing = s.standing := rfl
@[simp] theorem State.queueCell_standing (s : State) (l c) : (s.queueCell l c).standing = s.standing := by
  unfold State.queueCell; split <;> rfl
@[simp] theorem State.freeBuffer_standing (s : State) (o c) : (s.freeBuffer o c).standing = s.standing := by
  cases o <;> rfl
@[simp] theorem State.unitLeaves_standing (s : State) (u) : (s.unitLeaves u).standing = s.standing := by
  unfold State.unitLeaves; split <;> simp
@[simp] theorem State.setOut_standing (s : State) (o x out c) : (s.setOut o x out c).standing = s.standing := rfl
@[simp] theorem State.answerDown_standing (s : State) (l c) : (s.answerDown l c).standing = s.standing := by
  unfold State.answerDown; simp only; (repeat' split) <;> rfl
@[simp] theorem State.sendAborts_standing (s : State) (j c b) : (s.sendAborts j c b).standing = s.standing := by
  unfold State.sendAborts
  split
  · rfl
  · exact foldl_standing _ _ _ fun t l => t.queueCell_standing l _
@[simp] theorem State.leaveDomain_standing (s : State) : s.leaveDomain.standing = s.standing := by
  unfold State.leaveDomain; split <;> rfl
@[simp] theorem State.poisonNow_standing (s : State) (x) : (s.poisonNow x).standing = s.standing := by
  unfold State.poisonNow; simp only; split <;> simp
@[simp] theorem State.poison_standing (s : State) (x) : (s.poison x).standing = s.standing := by
  unfold State.poison
  split
  · exact s.modMgt_standing _ rfl
  · exact s.poisonNow_standing x
@[simp] theorem State.endWinOp_standing (s : State) (o st c) : (s.endWinOp o st c).standing = s.standing := by
  unfold State.endWinOp; split <;> simp
@[simp] theorem State.endWinOps_standing (s : State) (ps st c) : (s.endWinOps ps st c).standing = s.standing :=
  foldl_standing _ _ _ fun t o => t.endWinOp_standing o st c
@[simp] theorem State.endDescs_standing (s : State) (f ps st c) : (s.endDescs f ps st c).standing = s.standing :=
  foldl_standing _ _ _ fun t d => t.complete_standing d _
@[simp] theorem State.parkCut_standing (s : State) (id c) : (s.parkCut id c).standing = s.standing := by
  refine (foldl_standing _ _ _ fun t x => ?_).trans (s.modMgt_standing _ rfl)
  rw [State.complete_standing]
  exact foldl_standing _ _ _ fun u p => u.modPart_standing p _
@[simp] theorem State.jobFaultWith_standing (s : State) (j a c b) : (s.jobFaultWith j a c b).standing = s.standing := by
  unfold State.jobFaultWith
  extract_lets _ _ spilled faulted jobEnded unowned cleared aborted closed parked answered told streams
  have hs : spilled.standing = s.standing := foldl_standing _ _ _ fun t l => t.modLink_standing l _
  have hc : cleared.standing = s.standing := hs
  have ha : aborted.standing = s.standing := by unfold aborted; split <;> simp [hc]
  have hp : parked.standing = s.standing := by simp [parked, closed, ha]
  have hd : answered.standing = s.standing := by unfold answered; split <;> simp [hp]
  have ht : told.standing = s.standing := by unfold told; split <;> simp [hd]
  simp [streams, ht]
@[simp] theorem State.jobFaultQuiet_standing (s : State) (id c) : (s.jobFaultQuiet id c).standing = s.standing := by
  unfold State.jobFaultQuiet; (repeat' split) <;> simp [State.jobFaultCore]
@[simp] theorem State.jobFault_standing (s : State) (id c r) : (s.jobFault id c r).standing = s.standing := by
  unfold State.jobFault; (repeat' split) <;> simp [State.jobFaultCore]
@[simp] theorem State.partJobFault_standing (s : State) (p c r) : (s.partJobFault p c r).standing = s.standing := by
  unfold State.partJobFault; split <;> simp

/-! Posts, requests and links. -/

@[simp] theorem State.pushOr_standing (s : State) (p t n e r) : (s.pushOr p t n e r).standing = s.standing := by
  unfold State.pushOr; split <;> simp
@[simp] theorem State.postAll_standing (s : State) (p i mk r) : (s.postAll p i mk r).standing = s.standing := by
  refine foldl_standing _ _ _ fun t b => ?_
  split <;> simp
@[simp] theorem State.listCheck_standing (s : State) (p n g) : (s.listCheck p n g).standing = s.standing := by
  unfold State.listCheck; simp only; (repeat' split) <;> simp
@[simp] theorem State.settle_standing (s : State) (p) : (s.settle p).standing = s.standing := by
  unfold State.settle
  (repeat' split) <;> try simp
  refine foldl_standing _ _ _ fun t g => ?_
  split <;> simp
@[simp] theorem State.listEnd_standing (s : State) (p t) : (s.listEnd p t).standing = s.standing := by
  unfold State.listEnd; simp only; (repeat' split) <;> simp
@[simp] theorem State.retire_standing (s : State) (p i mk e) : (s.retire p i mk e).standing = s.standing := by
  unfold State.retire; simp only; split <;> simp
@[simp] theorem State.finishMgmt_standing (s : State) (d r st y bs) : (s.finishMgmt d r st y bs).standing = s.standing := by
  unfold State.finishMgmt; simp only; (repeat' split) <;> simp
@[simp] theorem State.finishRequest_standing (s : State) (r x) : (s.finishRequest r x).standing = s.standing := by
  unfold State.finishRequest; simp only; (repeat' split) <;> simp
@[simp] theorem State.linkDrop_standing (s : State) (l) : (s.linkDrop l).standing = s.standing := by
  unfold State.linkDrop
  extract_lets gone lost rs left cleared dropped answered
  have hl : left.standing = s.standing := foldl_standing _ _ _ fun t u => t.unitLeaves_standing u
  have ha : answered.standing = s.standing := (foldl_standing _ _ _ fun t c => t.answerDown_standing l c).trans hl
  exact (foldl_standing _ _ _ fun t r => t.finishRequest_standing _ false).trans ha
@[simp] theorem State.faultAll_standing (s : State) (c) : (s.faultAll c).standing = s.standing :=
  foldl_standing _ _ _ fun t id => t.jobFaultQuiet_standing id c

/-! Firmware updates, and the reset of functions. -/

@[simp] theorem State.winMismatch_standing (s : State) (f) : (s.winMismatch f).standing = s.standing := by
  rw [State.winMismatch, State.logRate_eq]
  rfl
@[simp] theorem State.fwReject_standing (s : State) (st) : (s.fwReject st).standing = s.standing := rfl
@[simp] theorem State.fwWindowBad_standing (s : State) (c st) : (s.fwWindowBad c st).standing = s.standing := rfl
@[simp] theorem State.fwFetch_standing (s : State) (root off len) : (s.fwFetch root off len).1.standing = s.standing := by
  unfold State.fwFetch
  extract_lets get
  have hg : ∀ n, (get n).1.standing = s.standing := by
    intro n
    unfold get
    split
    · rfl
    · split <;> rfl
  split
  · next heq => rw [← hg 512, heq]
  · next head heq =>
    split
    · rfl
    · split
      · next heq => rw [← hg (fwSize head), heq]
      · next heq => rw [← hg (fwSize head), heq]
@[simp] theorem State.fwRead_standing (s : State) (root off) : (s.fwRead root off).standing = s.standing := by
  unfold State.fwRead
  simp only
  (repeat' split) <;> try simp
  · next heq => rw [← s.fwFetch_standing, heq]
  · next heq => rw [← s.fwFetch_standing, heq]
@[simp] theorem State.endWait_standing (s : State) (u) : (s.endWait u).standing = s.standing := rfl
@[simp] theorem State.keepWait_standing (s : State) (x) : (s.keepWait x).standing = s.standing := by
  unfold State.keepWait; split <;> rfl
@[simp] theorem State.fwProceed_standing (s : State) : s.fwProceed.standing = s.standing := by
  unfold State.fwProceed; simp only; (repeat' split) <;> simp
@[simp] theorem State.fwAbandon_standing (s : State) : s.fwAbandon.standing = s.standing := by
  unfold State.fwAbandon; split <;> simp
@[simp] theorem State.rezero_standing (s : State) (ps) : (s.rezero ps).standing = s.standing :=
  foldl_standing _ _ _ fun t p => t.modPart_standing p _
@[simp] theorem State.dropDescs_standing (s : State) (f) : (s.dropDescs f).standing = s.standing := by
  unfold State.dropDescs
  extract_lets ds queues abandoned mgt infield svc
  have ha : abandoned.standing = s.standing := by
    unfold abandoned
    split
    · split
      · rw [State.modMgt_standing _ _ rfl, State.rezero_standing]; rfl
      · rfl
    · rfl
  have hm : mgt.standing = abandoned.standing := State.modMgt_standing _ _ rfl
  exact hm.trans ha
@[simp] theorem State.hostResetJobs_standing (s : State) (f) : (s.hostResetJobs f).standing = s.standing :=
  foldl_standing _ _ _ fun t id => (t.logs _ _).jobFaultQuiet_standing id _
@[simp] theorem State.parksCut_standing (s : State) (f) : (s.parksCut f).standing = s.standing :=
  foldl_standing _ _ _ fun _ x => foldl_standing _ x.left _ fun t p => t.modPart_standing p _
@[simp] theorem State.fnReset_standing (s : State) (f) : (s.fnReset f).standing = s.standing := by
  simp [State.fnReset]
@[simp] theorem State.functionReset_standing (s : State) (f) : (s.functionReset f).standing = s.standing := by
  unfold State.functionReset
  extract_lets reset tx both
  rw [State.fwProceed_standing]
  have hr : reset.standing = s.standing :=
    (foldl_standing _ _ _ fun t f => t.fnReset_standing f).trans s.fwAbandon_standing
  unfold both
  split
  · rw [State.modHiu_standing, State.modSvc_standing, hr]
  · exact s.fnReset_standing f
@[simp] theorem State.hostLost_standing (s : State) (st) : (s.hostLost st).standing = s.standing := by
  simp [State.hostLost]
@[simp] theorem State.cutHost_standing (s : State) : s.cutHost.standing = s.standing :=
  foldl_standing _ _ _ fun t f => t.dropDescs_standing f
@[simp] theorem State.endI3c_standing (s : State) : s.endI3c.standing = s.standing := by
  unfold State.endI3c; split <;> rfl

/-! Main conversion stops (R17, R369, R405). -/

/-- Conversion has stopped for a cause, which is logged and raises the alert. -/
def State.powerCut (s : State) (code : W16) : State :=
  ((s.logs code).alert 0).modPower (fun p => { p with mainPg := false, stopped := true, mainLow := false, powerStretch := false })
/-- With it every job and partition has faulted, and the links have dropped. -/
def State.linksCut (s : State) (code : W16) : State :=
  let t := allLinks.foldl (fun s l => if (s.link l).stage == .off then s else s.linkDrop l) ((s.powerCut code).cutHost.faultAll code)
  { t with links := t.links.map Link.powerOff }
/-- With them the host port is lost. -/
def State.portCut (s : State) (code : W16) : State :=
  if (s.powerCut code).hiu.port == .up then (s.linksCut code).hostLost (s.linksCut code).power.portStage
  else ((s.linksCut code).functionReset 0).modHiu (fun h => h.portLost (s.linksCut code).power.portStage)
/-- What the loss of the main domain's power leaves of the queues and the plots. -/
def State.plotsLost (s : State) : State :=
  ({ s with parts := s.parts.map (fun q : Partition => { q with queues := [], pred := 0, configs := [], serials := [] }) } : State).modSram
    (fun m => { m with mem := [], ecc := [], corrected := [], occasions := [] })
theorem State.mainStop_eq {s : State} (h : s.power.mainPg = true) (code : W16) :
    s.mainStop code = (s.portCut code).endI3c.mainClear.plotsLost := by
  unfold State.mainStop State.portCut State.linksCut State.powerCut State.plotsLost
  rw [if_neg (by simp [h])]

theorem State.linksCut_standing (s : State) (code : W16) : (s.linksCut code).standing = (s.powerCut code).standing := by
  unfold State.linksCut
  extract_lets t
  have ht : t.standing = ((s.powerCut code).cutHost.faultAll code).standing := foldl_standing _ _ _ fun t l => by split <;> simp
  rw [State.standing_upd, ht, State.faultAll_standing, State.cutHost_standing]
theorem State.portCut_standing (s : State) (code : W16) : (s.portCut code).standing = (s.powerCut code).standing := by
  unfold State.portCut
  split <;> simp [s.linksCut_standing code]
theorem State.portCut_port (s : State) (code : W16) : (s.portCut code).hiu.port = (if s.power.perst then .reset else .detect) := by
  have hp : (s.linksCut code).power = (s.powerCut code).power := (State.standing_eq (s.linksCut_standing code)).2.2
  have hs : (s.powerCut code).power.portStage = (if s.power.perst then .reset else .detect) := by
    simp [State.powerCut, State.alert, Power.portStage]
  rw [← hs, ← hp]
  unfold State.portCut
  split
  · rw [State.hostLost, State.modHiu_hiu, Hiu.portLost]
  · rw [State.modHiu_hiu, Hiu.portLost]
theorem State.endI3c_hiu (s : State) : s.endI3c.hiu = s.hiu := by
  unfold State.endI3c; split <;> rfl

theorem mem_allUnits (u : UnitId) : u ∈ allUnits := by
  cases u <;> simp [allUnits]
theorem find?_keyed {α β : Type} [BEq α] [LawfulBEq α] (f : α → β) {l : List α} {x : α} (h : x ∈ l) :
    (l.map (fun y => (y, f y))).find? (fun y => y.1 == x) = some (x, f x) := by
  induction l with
  | nil => cases h
  | cons y l ih =>
    rw [List.map_cons, List.find?_cons]
    by_cases hy : y = x
    · subst hy; simp
    · rw [beq_eq_false_iff_ne.2 hy]
      exact ih ((List.mem_cons.1 h).resolve_left (Ne.symm hy))
theorem State.unitEpoch_of_find {s : State} {u : UnitId} {e : Byte} (hu : u ≠ .managementComplex)
    (h : s.units.epochs.find? (fun x => x.1 == u) = some (u, e)) : s.unitEpoch u = e := by
  cases u with
  | managementComplex => exact absurd rfl hu
  | tile | sequencer | pointEngine => simp only [State.unitEpoch, h]
/-- No unit of the main domain is in HOLD, and each one's epoch is one higher. -/
theorem State.mainClear_unit (s : State) {u : UnitId} (hu : u ≠ .managementComplex) :
    s.mainClear.inHold u = false ∧ s.mainClear.unitEpoch u = s.unitEpoch u + 1 := by
  have hm : u ∈ allUnits.filter (· != .managementComplex) := List.mem_filter.2 ⟨mem_allUnits u, by simpa using hu⟩
  exact ⟨by simpa [State.mainClear, State.inHold] using fun _ => hu, State.unitEpoch_of_find hu (find?_keyed (fun u => s.unitEpoch u + 1) hm)⟩
theorem State.mainClear_hold_mc (s : State) : s.mainClear.inHold .managementComplex = s.inHold .managementComplex := by
  simp [State.mainClear, State.inHold]
/-- HOLD and epochs are what stands. -/
theorem State.standing_inHold {s t : State} (h : s.standing = t.standing) (u : UnitId) : s.inHold u = t.inHold u := by
  rw [State.inHold, (State.standing_eq h).1, State.inHold]
theorem State.standing_unitEpoch {s t : State} (h : s.standing = t.standing) (u : UnitId) : s.unitEpoch u = t.unitEpoch u := by
  obtain ⟨hu, he, -⟩ := State.standing_eq h
  simp only [State.unitEpoch, hu, he]

section
variable (s : State) (code : W16) (u : UnitId)
theorem State.powerCut_mgt : (s.powerCut code).mgt = s.mgt := by simp [State.powerCut, State.alert]
theorem State.powerCut_inHold : (s.powerCut code).inHold u = s.inHold u := by simp [State.powerCut, State.alert, State.inHold]
theorem State.powerCut_unitEpoch : (s.powerCut code).unitEpoch u = s.unitEpoch u := by simp [State.powerCut, State.alert, State.unitEpoch]
theorem State.mainClear_power : s.mainClear.power = s.power := rfl
theorem State.mainClear_hiu : s.mainClear.hiu = s.hiu := rfl
theorem State.plotsLost_power : s.plotsLost.power = s.power := rfl
theorem State.plotsLost_hiu : s.plotsLost.hiu = s.hiu := rfl
theorem State.plotsLost_inHold : s.plotsLost.inHold u = s.inHold u := rfl
theorem State.plotsLost_unitEpoch : s.plotsLost.unitEpoch u = s.unitEpoch u := rfl
end

/-- What a stop of main conversion leaves. -/
structure State.Stopped (t s : State) : Prop where
  mainPg : t.power.mainPg = false
  mem : t.sram.mem = []
  ecc : t.sram.ecc = []
  unit : ∀ u : UnitId, u ≠ .managementComplex → t.inHold u = false ∧ t.unitEpoch u = s.unitEpoch u + 1
  hold : t.inHold .managementComplex = s.inHold .managementComplex
  epoch : t.mgt.epoch = s.mgt.epoch
  requests : t.infield.requests = []
  port : t.hiu.port = (if s.power.perst then .reset else .detect)
theorem State.mainStop_stopped {s : State} (h : s.power.mainPg = true) (code : W16) : (s.mainStop code).Stopped s := by
  have hs : (s.portCut code).endI3c.standing = (s.powerCut code).standing := by rw [State.endI3c_standing, s.portCut_standing]
  have hm : (s.portCut code).endI3c.mainClear.mgt.epoch = s.mgt.epoch :=
    (State.standing_eq hs).2.1.trans (congrArg Mgt.epoch (s.powerCut_mgt code))
  rw [State.mainStop_eq h]
  refine ⟨?_, rfl, rfl, fun u hu => ?_, ?_, hm, rfl, ?_⟩
  · rw [State.plotsLost_power, State.mainClear_power, (State.standing_eq hs).2.2]; rfl
  · rw [State.plotsLost_inHold, State.plotsLost_unitEpoch, ← s.powerCut_unitEpoch code, ← State.standing_unitEpoch hs]
    exact State.mainClear_unit _ hu
  · rw [State.plotsLost_inHold, State.mainClear_hold_mc, State.standing_inHold hs, s.powerCut_inHold]
  · rw [State.plotsLost_hiu, State.mainClear_hiu, State.endI3c_hiu, s.portCut_port]

/-- The four inputs that stop main conversion, each after what its event says of itself (R369). -/
theorem exec_stops {s : State} {c : Instr} (hp : s.power.porReleased = true) (hm : s.power.mainPg = true)
    (hc : c = .mainLost ∨ c = .mainOvervolt ∨ c = .overcurrent ∨ c = .mainDisabled) :
    ∃ (g : Power → Power) (code : W16), exec c s = .next ((s.modPower g).mainStop code) ∧
      (g s.power).mainPg = true ∧ (g s.power).perst = s.power.perst ∧ (g s.power).porReleased = true := by
  obtain rfl | rfl | rfl | rfl := hc
  · exact ⟨id, Code.mainLost, rfl, hm, rfl, hp⟩
  · exact ⟨id, Code.mainOvervolt, rfl, hm, rfl, hp⟩
  · exact ⟨fun p => { p with overcurrent := true }, Code.overcurrent, by simp only [exec, execOvercurrent, hm, if_true], hm, rfl, hp⟩
  · exact ⟨fun p => { p with mainEn := false }, Code.mainDisabled, by simp only [exec, execMainDisabled, hp, if_true]; rfl, hm, rfl, hp⟩

/-- Settles O12: what the stop of conversion leaves is `State.mainStop_stopped`; what the standby domain keeps is State.Steady's. -/
theorem mainInputEventsStopConversion : Obligations.MainInputEventsStopConversion := by
  intro s c hi hp hm hc
  obtain ⟨g, code, he, hg, hperst, hpor⟩ := exec_stops hp hm hc
  have h := State.mainStop_stopped (s := s.modPower g) hg code
  have hk := mainStop_steady (s.modPower g) code (modPower_steady s g hi.steady ⟨hpor.trans hp.symm, fun _ => hm⟩)
  refine ⟨_, he, h.mainPg, h.mem, h.ecc, h.unit, h.hold, h.epoch, h.requests, ?_, hk.por.1.trans hp, hk.time.1, hk.time.2.1, hk.slots.1,
    hk.keys, hk.queue⟩
  rw [h.port, State.modPower_power, hperst]

end Sys2Proof.Machine
end

section
/-! SUPPORT and the statement of the reference clocks (R39, R335, R343). -/

namespace Sys2Proof.Machine

section
variable {s : State}
theorem exec_rackrefLost (hm : s.power.mainPg = true) (hl : s.pace.localref = false) :
    exec .rackrefLost s = .next ((s.modPace (fun p => { p with localref := true, rackrefBack := false })).logs Code.rackrefLost) := by
  simp [exec, execRackrefLost, hm, hl]
theorem exec_rackrefRestored (hm : s.power.mainPg = true) (hl : s.pace.localref = true) :
    exec .rackrefRestored s = .next (s.modPace (fun p => { p with rackrefBack := true, refsLost := false })) := by
  simp [exec, execRackrefRestored, hm, hl]
theorem exec_refsLost (hm : s.power.mainPg = true) (hl : s.pace.refsLost = false) :
    exec .refsLost s =
      .next ((s.modPace (fun p => { p with refsLost := true, localref := true, rackrefBack := false })).packageFault Code.refsLost) := by
  simp [exec, execRefsLost, hm, hl]
theorem exec_timeRefFallback (hp : s.power.porReleased = true) (hf : s.clock.fallback = false) :
    exec .timeRefFallback s = .next ((s.modClock (fun c => { c with fallback := true })).logs Code.timeRefFallback) := by
  simp [exec, execTimeRefFallback, hp, hf]
theorem exec_localrefReturn :
    exec .localrefReturn s = .next ((s.modClock (fun c => { c with fallback := false })).modPace (fun p => { p with refsLost := false })) := rfl
end

/-- Settles O15: each clause is the lemma of its row above. -/
theorem referenceClocksComeAndGo : Obligations.ReferenceClocksComeAndGo :=
  fun _ => ⟨exec_rackrefLost, exec_rackrefRestored, exec_refsLost, exec_timeRefFallback, exec_localrefReturn⟩

end Sys2Proof.Machine
end

section
/-! SUPPORT and the statement of the grade changes; folds of steps that each change links alone (R25, R29, R51, R196). -/

namespace Sys2Proof.Machine

/-! Folds over the links. -/

theorem nodup_allLinks : allLinks.Nodup := by decide
theorem mem_allLinks (l : LinkId) : l ∈ allLinks := by revert l; decide
/-- Steps that change links alone change links alone together. -/
theorem foldl_changes_links {α : Type} {f : State → α → State} (h : ∀ s x, ∃ ks, f s x = { s with links := ks }) (xs : List α) :
    ∀ s, ∃ ks, xs.foldl f s = { s with links := ks } := by
  induction xs with
  | nil => exact fun s => ⟨s.links, rfl⟩
  | cons x xs ih =>
    intro s
    obtain ⟨ks, hk⟩ := h s x
    obtain ⟨ks', hk'⟩ := ih (f s x)
    exact ⟨ks', by rw [List.foldl_cons, hk', hk]⟩
/-- Steps that each make a link of what stands there, and leave every other: each link of the list is made once. -/
theorem foldl_each_link {f : State → LinkId → State} {g : State → LinkId → Link} (hsame : ∀ s l, (f s l).link l = g s l)
    (hother : ∀ s l m, l ≠ m → (f s l).link m = s.link m) (hg : ∀ s l m, l ≠ m → g (f s l) m = g s m) (m : LinkId) (ls : List LinkId) :
    ∀ s, ls.Nodup → (ls.foldl f s).link m = if m ∈ ls then g s m else s.link m := by
  induction ls with
  | nil => intro s _; simp
  | cons l ls ih =>
    intro s hn
    obtain ⟨hl, hn⟩ := List.nodup_cons.1 hn
    rw [List.foldl_cons, ih _ hn]
    by_cases hm : l = m
    · subst hm; simp [hl, hsame]
    · simp [Ne.symm hm, hg s l m hm, hother s l m hm]

/-! Locked mode, and the grade by which the receivers frame (R195, R196). -/

theorem State.modLink_locked_other (s : State) {l m : LinkId} (f : Link → Link) (h : l ≠ m) : (s.modLink l f).locked m = s.locked m := by
  simp only [State.locked, State.modLink_link_other s l m f h]
  rfl
theorem State.modLink_gapOf_other (s : State) {l m : LinkId} (f : Link → Link) (h : l ≠ m) : (s.modLink l f).gapOf m = s.gapOf m := by
  simp only [State.gapOf, State.modLink_locked_other s f h, State.modLink_pace]
/-- The receiver of a link that is to frame by the present grade from the frame sent at count t on. -/
def State.regraded (s : State) (t : Nat) (l : LinkId) : Link :=
  { s.link l with regrade := some (t + wholeBeats s.pace.grade (s.link l).delay, s.gapOf l) }
theorem State.regrade_links (s : State) (t : Nat) : ∃ ks, s.regrade t = { s with links := ks } :=
  foldl_changes_links (fun _ _ => ⟨_, rfl⟩) _ s
theorem State.regrade_link (s : State) (t : Nat) (l : LinkId) :
    (s.regrade t).link l = if s.locked l then s.regraded t l else s.link l := by
  refine (foldl_each_link (g := fun s l => s.regraded t l) (fun s l => State.modLink_link ..)
    (fun s l m h => State.modLink_link_other _ _ _ _ h) (fun s l m h => ?_) l _ s (nodup_allLinks.filter _)).trans ?_
  · simp only [State.regraded, State.modLink_link_other _ _ _ _ h, State.modLink_pace, State.modLink_gapOf_other _ _ h]
  · simp [mem_allLinks]

/-! GRADE_CHANGE (R25, R29). -/

/-- The pacer has taken up grade g, whose count was t. -/
def State.gradeTaken (s : State) (g : Fin 8) (t : Nat) : State :=
  s.noteSlack.modPace (fun p => { p with
    grade := g, voltage := g, outstanding := none, tightenSince := t, skipEval := t % 4096 != 0 })
theorem State.gradeTaken_regraded {s : State} {g : Fin 8} {t : Nat} {l : LinkId} (h : s.locked l = true) :
    (s.gradeTaken g t).regraded t l =
      { s.link l with regrade := some (t + wholeBeats g (s.link l).delay, BitVec.ofNat 4 (g.val * 2 + 1)) } := by
  have hg : (s.gradeTaken g t).gapOf l = BitVec.ofNat 4 (g.val * 2 + 1) := by
    have hl : (s.gradeTaken g t).locked l = true := h
    rw [State.gapOf, if_pos hl]
    rfl
  rw [State.regraded, hg]
  rfl
theorem exec_gradeChange_early {s : State} {g : Fin 8} {t : Nat} (h : s.pace.outstanding = some (g, t)) (hc : s.pace.count.toNat < t) :
    exec .gradeChange s = .next s := by
  show execGradeChange s = _
  simp only [execGradeChange, h, if_pos hc]
theorem exec_gradeChange_due {s : State} {g : Fin 8} {t : Nat} (h : s.pace.outstanding = some (g, t)) (hc : t ≤ s.pace.count.toNat) :
    exec .gradeChange s = .next (((s.gradeTaken g t).regrade t).logs Code.gradeChange) := by
  show execGradeChange s = _
  simp only [execGradeChange, h, if_neg (Nat.not_lt.2 hc)]
  rfl

/-- Settles O22: the pacer takes the grade (`exec_gradeChange_due`), and of the links the receivers' next grade alone changes
(`State.regrade_link`). -/
theorem gradeChangesLeaveHeldLapsAlone : Obligations.GradeChangesLeaveHeldLapsAlone := by
  refine fun s g n h => ⟨exec_gradeChange_early h, fun hc => ⟨_, exec_gradeChange_due h hc, ?_⟩⟩
  have hlink : ∀ l, ((s.gradeTaken g n).regrade n).link l = if s.locked l then { s.link l with
      regrade := some (n + wholeBeats g (s.link l).delay, BitVec.ofNat 4 (g.val * 2 + 1)) } else s.link l := by
    intro l
    rw [State.regrade_link]
    by_cases hl : s.locked l = true
    · rw [if_pos hl, if_pos (by exact hl), State.gradeTaken_regraded hl]
    · rw [if_neg hl, if_neg (by exact hl)]; rfl
  obtain ⟨ks, hk⟩ := (s.gradeTaken g n).regrade_links n
  rw [hk] at hlink ⊢
  simp only [State.logs_pace, State.logs_jobs, State.logs_parts, State.logs_link]
  exact ⟨rfl, rfl, rfl, rfl, rfl, rfl, rfl, hlink, rfl, rfl⟩

end Sys2Proof.Machine
end

section
/-! SUPPORT and the statement of the marks: what every package does at one, a follower's report, the master's evaluation, a lost parent
(R26 to R29, R37 to R39, R340, R374). -/

namespace Sys2Proof.Machine

/-! The power of a mark period (R374). -/

section
variable (s : State) (pw : BitVec 12)
@[simp] theorem State.powerMark_pace : (s.powerMark pw).pace = s.pace := by
  simp only [State.powerMark]
  (repeat' split) <;> simp
@[simp] theorem State.powerMark_links : (s.powerMark pw).links = s.links := by
  simp only [State.powerMark]
  (repeat' split) <;> simp

variable {s pw}
theorem State.powerMark_begins (h : s.power.limit.toNat < pw.toNat) (hs : s.power.powerStretch = false) :
    s.powerMark pw = (s.modPower (fun q => { q with
      peakPower := 0, powerStretch := true, alertStatus := q.alertStatus ||| 4 })).logs Code.powerStretch := by
  simp [State.powerMark, h, hs, State.modPower]
theorem State.powerMark_ends (h : pw.toNat ≤ s.power.limit.toNat) (hs : s.power.powerStretch = true)
    (hb : max pw.toNat s.power.peakPower.toNat * 100 < s.power.limit.toNat * 95) :
    s.powerMark pw = s.modPower (fun q => { q with peakPower := 0, powerStretch := false }) := by
  have hb' : Nat.max pw.toNat s.power.peakPower.toNat * 100 < s.power.limit.toNat * 95 := hb
  simp [State.powerMark, Nat.not_lt.2 h, hs, hb', State.modPower]
theorem State.powerMark_stays (h : (s.power.limit.toNat < pw.toNat ∧ s.power.powerStretch = true) ∨
    (pw.toNat ≤ s.power.limit.toNat ∧ (s.power.powerStretch = false ∨
      s.power.limit.toNat * 95 ≤ max pw.toNat s.power.peakPower.toNat * 100))) :
    s.powerMark pw = s.modPower (fun q => { q with peakPower := 0 }) := by
  obtain ⟨h, hs⟩ | ⟨h, hs⟩ := h
  · simp [State.powerMark, h, hs]
  · have hb : ¬ (s.power.powerStretch && decide (Nat.max pw.toNat s.power.peakPower.toNat * 100 < s.power.limit.toNat * 95)) = true := by
      obtain hs | hb := hs
      · simp [hs]
      · have : ¬ Nat.max pw.toNat s.power.peakPower.toNat * 100 < s.power.limit.toNat * 95 := Nat.not_lt.2 hb
        simp [this]
    rw [State.powerMark, if_neg (Nat.not_lt.2 h), if_neg hb]
end

/-! MARK at every package (R37, R39, R340). -/

/-- The pace count and the device time stand latched, unless a read has frozen them. -/
def State.paceLatched (s : State) : State :=
  if s.clock.paceFrozen then s else s.modClock (fun c => { c with paceCount := s.pace.count, paceTime := c.stamp })
/-- With them the power of the period has been judged, and the pacer runs from RACKREF again where that was due. -/
def State.marked (s : State) (pw : BitVec 12) : State :=
  if s.pace.rackrefBack then
    ((s.paceLatched.powerMark pw).modPace (fun p => { p with localref := false, rackrefBack := false })).logs Code.rackrefRestored
  else s.paceLatched.powerMark pw
/-- A new period begins, after one whose worst slack class was w. -/
def State.newPeriod (s : State) (w : Fin 8) : State :=
  { s with
    pace := { s.pace with worst := 7, lastWorst := w, thermalSeen := false, segments := [] }
    links := s.links.map Link.period }
/-- What a mark is to the package's domain: a follower counts it and reports to its parent, the master evaluates. -/
def State.markDomain (s : State) (w : Fin 8) (th : Bool) : State :=
  match s.pace.domain with
  | none => s
  | some d =>
    (match d.parent with
      | some l => (s.queuePace l PaceKind.report (reportBody w th)).modPace (fun p => { p with missedMarks := p.missedMarks + 1 })
      | none => s.evaluate w th).modPace (fun p => { p with skipEval := false })

section
variable (s : State) (pw : BitVec 12)
@[simp] theorem State.paceLatched_pace : s.paceLatched.pace = s.pace := by unfold State.paceLatched; split <;> rfl
@[simp] theorem State.paceLatched_links : s.paceLatched.links = s.links := by unfold State.paceLatched; split <;> rfl
@[simp] theorem State.marked_domain : (s.marked pw).pace.domain = s.pace.domain := by unfold State.marked; split <;> simp
@[simp] theorem State.marked_missedMarks : (s.marked pw).pace.missedMarks = s.pace.missedMarks := by unfold State.marked; split <;> simp
@[simp] theorem State.marked_links : (s.marked pw).links = s.links := by unfold State.marked; split <;> simp
theorem State.newPeriod_up (w : Fin 8) (l : LinkId) : (s.newPeriod w).up l = s.up l := by
  simp [State.up, State.link, State.newPeriod, Link.period]
end

theorem exec_mark_off {s : State} (pw : BitVec 12) (dl : DelayFactors) (h : s.pace.count.toNat % 4096 ≠ 0 ∨ s.power.mainPg = false) :
    exec (.mark pw dl) s = .next s := by
  show execMark pw dl s = _
  rw [execMark, if_pos (by simpa using h)]
theorem exec_mark {s : State} (pw : BitVec 12) (dl : DelayFactors) (h : s.pace.count.toNat % 4096 = 0) (hm : s.power.mainPg = true) :
    exec (.mark pw dl) s =
      let v := s.marked pw
      let w := min v.pace.worst (v.ownSlack dl)
      .next ((v.newPeriod w).markDomain w (v.pace.thermalSeen || v.thermalFlag)) := by
  have hr : (s.paceLatched.powerMark pw).pace.rackrefBack = s.pace.rackrefBack := by simp
  show execMark pw dl s = _
  rw [execMark, if_neg (by simp [h, hm])]
  unfold State.marked
  rw [← hr]
  rfl

theorem State.markDomain_none {s : State} (w : Fin 8) (th : Bool) (h : s.pace.domain = none) : s.markDomain w th = s := by
  simp only [State.markDomain, h]
/-- A follower's report: the two copies of it wait on the parent's link, while that is UP. -/
theorem State.markDomain_follower {s : State} {d : Domain} {l : LinkId} (w : Fin 8) (th : Bool) (h : s.pace.domain = some d)
    (hp : d.parent = some l) :
    s.markDomain w th = (if s.up l then s.modLink l (fun k => { k with
      paceCells := k.paceCells ++ [{ kind := PaceKind.report, copies := 2, body := reportBody w th }] }) else s).modPace
        (fun p => { p with missedMarks := s.pace.missedMarks + 1, skipEval := false }) := by
  simp only [State.markDomain, h, hp, State.queuePace]
  split <;> rfl
theorem State.markDomain_master {s : State} {d : Domain} (w : Fin 8) (th : Bool) (h : s.pace.domain = some d) (hp : d.parent = none) :
    s.markDomain w th = (s.evaluate w th).modPace (fun p => { p with skipEval := false }) := by
  simp only [State.markDomain, h, hp]

/-! MARK_LOST (R38). -/

theorem exec_markLost_early {s : State}
    (h : s.pace.domain = none ∨ ∃ d : Domain, s.pace.domain = some d ∧ (d.parent = none ∨ s.pace.missedMarks < 4)) :
    exec .markLost s = .next s := by
  show execMarkLost s = _
  obtain h | ⟨d, h, hp⟩ := h
  · simp only [execMarkLost, h]
  · have hn : ¬ (d.parent.isSome && decide (4 ≤ s.pace.missedMarks)) = true := by
      obtain hp | hp := hp
      · simp [hp]
      · simp [Nat.not_le.2 hp]
    simp only [execMarkLost, h, if_neg hn]
theorem exec_markLost_due {s : State} {d : Domain} {l : LinkId} (h : s.pace.domain = some d) (hp : d.parent = some l)
    (hm : 4 ≤ s.pace.missedMarks) : exec .markLost s = .next (s.domainFault Code.markLost) := by
  show execMarkLost s = _
  simp [execMarkLost, h, hp, hm]

/-! The master's evaluation (R27 to R29). -/

section
variable {s : State} {w : Fin 8} {th : Bool}
/-- Since when the target grade's least class and TIGHTEN are met, after this mark. -/
def State.tightenFrom (s : State) (w : Fin 8) : Nat :=
  if s.pace.tightenClass.toNat ≤ w.val ∧ gradeLeast (tighter s.pace.grade) ≤ w.val ∧ s.pace.grade ≠ 0 then s.pace.tightenSince
  else s.pace.count.toNat
/-- The state with that noted. -/
def State.judged (s : State) (w : Fin 8) : State := s.modPace (fun p => { p with tightenSince := s.tightenFrom w })
theorem State.mayEvaluate_iff : s.mayEvaluate = true ↔ ∃ j ∈ s.jobs, j.phase = .run := by
  simp [State.mayEvaluate]
theorem State.evaluate_eq (s : State) (w : Fin 8) (th : Bool) : s.evaluate w th =
    if s.pace.outstanding.isSome ∨ s.pace.skipEval ∨ ¬ s.mayEvaluate then s.judged w
    else if w.val < s.pace.stretchClass.toNat then
      if s.pace.grade = 7 then (s.judged w).logs Code.gradeLimit else (s.judged w).announceGrade (looser s.pace.grade)
    else if s.pace.grade.val < s.pace.floor.toNat then (s.judged w).announceGrade (looser s.pace.grade)
    else if s.tightenFrom w + 2 ^ 20 ≤ s.pace.count.toNat ∧ s.pace.stretchClass.toNat < s.pace.tightenClass.toNat ∧ th = false ∧
        s.domainFloor ≤ tighter s.pace.grade then (s.judged w).announceGrade (tighter s.pace.grade)
    else s.judged w := by
  simp only [State.evaluate, State.judged, State.tightenFrom, Bool.or_eq_true, Bool.and_eq_true, decide_eq_true_eq, bne_iff_ne,
    Bool.not_eq_true', Bool.not_eq_true, or_assoc, and_assoc]
  rfl
theorem State.evaluate_skips (h : s.pace.outstanding.isSome = true ∨ s.pace.skipEval = true ∨ ∀ j ∈ s.jobs, j.phase ≠ .run) :
    s.evaluate w th = s.judged w := by
  rw [State.evaluate_eq, if_pos]
  simpa [State.mayEvaluate_iff] using h
theorem State.evaluate_runs (ho : s.pace.outstanding = none) (hk : s.pace.skipEval = false) (hj : ∃ j ∈ s.jobs, j.phase = .run) :
    ¬ (s.pace.outstanding.isSome ∨ s.pace.skipEval ∨ ¬ s.mayEvaluate) := by
  simp [ho, hk, State.mayEvaluate_iff.2 hj]
theorem State.announceGrade_same (s : State) : s.announceGrade s.pace.grade =
    (s.modPace (fun p => { p with outstanding := some (s.pace.grade, s.pace.count.toNat + s.horizon) })).sendTree PaceKind.grade
      (gradeBody s.pace.grade (s.pace.count.toNat + s.horizon)) none := by
  simp [State.announceGrade, Pacer.announce, State.modPace]
theorem State.announceGrade_looser {h : Fin 8} (hg : s.pace.grade < h) : s.announceGrade h =
    (s.modPace (fun p => { p with outstanding := some (h, s.pace.count.toNat + s.horizon) })).sendTree PaceKind.grade
      (gradeBody h (s.pace.count.toNat + s.horizon)) none := by
  simp [State.announceGrade, Pacer.announce, State.modPace, not_lt_of_gt hg]
theorem State.announceGrade_tighter {h : Fin 8} (hg : h < s.pace.grade) : s.announceGrade h =
    (s.modPace (fun p => { p with outstanding := some (h, s.pace.count.toNat + s.horizon), voltage := h })).sendTree PaceKind.grade
      (gradeBody h (s.pace.count.toNat + s.horizon)) none := by
  simp [State.announceGrade, Pacer.announce, State.modPace, hg]
end

/-- What the domain makes of a mark, by the package's place in it. -/
theorem exec_mark_domain {s : State} (pw : BitVec 12) (dl : DelayFactors) (h0 : s.pace.count.toNat % 4096 = 0) (hm : s.power.mainPg = true)
    {v u : State} {w : Fin 8} {th : Bool} (hv : v = s.marked pw) (hw : w = min v.pace.worst (v.ownSlack dl))
    (hth : th = (v.pace.thermalSeen || v.power.thermal || v.power.powerStretch)) (hu : u = v.newPeriod w) :
    (s.pace.domain = none → exec (.mark pw dl) s = .next u) ∧
    (∀ (d : Domain) (l : LinkId), s.pace.domain = some d → d.parent = some l →
      exec (.mark pw dl) s = .next ((if s.up l then u.modLink l (fun k => { k with
          paceCells := k.paceCells ++ [{ kind := PaceKind.report, copies := 2, body := reportBody w th }] })
        else u).modPace (fun p => { p with missedMarks := s.pace.missedMarks + 1, skipEval := false }))) ∧
    (∀ d : Domain, s.pace.domain = some d → d.parent = none →
      exec (.mark pw dl) s = .next ((u.evaluate w th).modPace (fun p => { p with skipEval := false }))) := by
  have hd : u.pace.domain = s.pace.domain := by rw [hu, hv]; exact s.marked_domain pw
  have hq : u.pace.missedMarks = s.pace.missedMarks := by rw [hu, hv]; exact s.marked_missedMarks pw
  have hup : ∀ l, u.up l = s.up l := fun l => by
    rw [hu, State.newPeriod_up, hv, State.up, State.link, State.marked_links]; rfl
  have he : exec (.mark pw dl) s = .next (u.markDomain w th) := by
    rw [exec_mark pw dl h0 hm, hu, hth, Bool.or_assoc, hw, hv]; rfl
  rw [he]
  refine ⟨fun h => ?_, fun d l h hp => ?_, fun d h hp => ?_⟩
  · rw [State.markDomain_none w th (hd.trans h)]
  · rw [State.markDomain_follower w th (hd.trans h) hp, hup, hq]
  · rw [State.markDomain_master w th (hd.trans h) hp]

/-- Settles O21: the clauses of a mark are `exec_mark_domain`'s, those of the evaluation the branches of `State.evaluate_eq`. -/
theorem marksLatchReportAndAreMissed : Obligations.MarksLatchReportAndAreMissed := by
  refine ⟨fun s pw dl => ⟨exec_mark_off pw dl, fun c v u w th h0 hm hc hv hw hth hu => ?mark, exec_markLost_early,
    fun d l => exec_markLost_due, State.powerMark_begins, State.powerMark_ends, State.powerMark_stays⟩,
    fun s a w g th since hg hsince ha => ?evaluate⟩
  case mark => exact exec_mark_domain pw dl h0 hm (hv.trans (by rw [hc]; rfl)) hw hth hu
  case evaluate =>
    subst hg hsince
    obtain rfl : a = s.judged w := ha
    refine ⟨State.evaluate_skips, fun ho hk hj => ⟨fun h1 => ?_, fun h1 h2 => ?_, fun h1 h2 => ?_⟩, s.announceGrade_same,
      fun _ => State.announceGrade_looser, fun _ => State.announceGrade_tighter⟩
    all_goals rw [State.evaluate_eq, if_neg (State.evaluate_runs ho hk hj)]
    · rw [if_pos h1]
    · rw [if_neg (Nat.not_lt.2 h1), if_pos h2]
    · rw [if_neg (Nat.not_lt.2 h1), if_neg (Nat.not_lt.2 h2)]; rfl

end Sys2Proof.Machine
end

section
/-! SUPPORT and the statement of the pace cells: first copies, what is sent to the pace tree, the target of a slip (R26, R29, R40, R41, R48,
R202). -/

namespace Sys2Proof.Machine

/-! Cells for the pace tree (R41, R202). -/

/-- A link on which a pace cell waits, where it is UP. -/
def Link.paced (k : Link) (kind : BitVec 4) (body : BitVec 44) : Link :=
  if k.stage == .up then { k with paceCells := k.paceCells ++ [{ kind := kind, body := body, copies := PaceKind.copies kind }] } else k
section
variable (s : State) (kind : BitVec 4) (body : BitVec 44)
theorem State.queuePace_links (l : LinkId) : ∃ ks, s.queuePace l kind body = { s with links := ks } := by
  unfold State.queuePace
  split
  · exact ⟨_, rfl⟩
  · exact ⟨s.links, rfl⟩
theorem State.queuePace_link (l : LinkId) : (s.queuePace l kind body).link l = (s.link l).paced kind body := by
  unfold State.queuePace Link.paced State.up
  split
  · exact State.modLink_link ..
  · rfl
theorem State.queuePace_link_other {l m : LinkId} (h : l ≠ m) : (s.queuePace l kind body).link m = s.link m := by
  unfold State.queuePace
  split
  · exact State.modLink_link_other _ _ _ _ h
  · rfl
theorem State.sendTree_links (but : Option LinkId) : ∃ ks, s.sendTree kind body but = { s with links := ks } :=
  foldl_changes_links (fun s l => s.queuePace_links kind body l) _ s
@[simp] theorem State.sendTree_pace (but : Option LinkId) : (s.sendTree kind body but).pace = s.pace := by
  obtain ⟨ks, h⟩ := s.sendTree_links kind body but
  rw [h]
theorem State.sendTree_link (but : Option LinkId) (m : LinkId) : (s.sendTree kind body but).link m =
    if s.treeLink m = true ∧ but ≠ some m then (s.link m).paced kind body else s.link m := by
  refine (foldl_each_link (g := fun s l => (s.link l).paced kind body) (fun s l => s.queuePace_link kind body l)
    (fun s l m h => s.queuePace_link_other kind body h) (fun s l m h => ?_) m _ s ((nodup_allLinks.filter _).filter _)).trans ?_
  · rw [State.queuePace_link_other _ _ _ h]
  · simp [mem_allLinks, and_comm]
end

/-! First copies (R202). -/

section
variable {s u : State} {l : LinkId} {b : Bool}
/-- The cell is noted, first copy or not, and nothing else changes. -/
theorem State.firstCopy_noted {kind : BitVec 4} {body : BitVec 44} (h : s.firstCopy l kind body = (u, b)) :
    ∃ r, u = s.modPace (fun p => { p with recent := r }) := ⟨_, (congrArg Prod.fst h).symm⟩

theorem State.expand32_of_count {t : State} (h : t.pace.count = s.pace.count) (n : Nat) : t.expand32 n = s.expand32 n := by
  simp only [State.expand32, h]

theorem exec_slackReport {cls : Fin 8} {th : Bool} (h : s.firstCopy l PaceKind.report (reportBody cls th) = (u, b)) :
    exec (.slackReport l cls th) s = .next (if b then u.onReport l cls th else u) := by
  show execSlackReport l cls th s = _
  cases b <;> simp only [execSlackReport, h, Bool.false_eq_true, if_true, if_false]
theorem exec_gradeAnnouncement {g : Fin 8} {w : W32} (h : s.firstCopy l PaceKind.grade (gradeBody g w.toNat) = (u, b)) :
    exec (.gradeAnnouncement l g w) s = .next (if b then u.onAnnouncement l g (s.expand32 w.toNat) else u) := by
  obtain ⟨r, rfl⟩ := State.firstCopy_noted h
  have he := State.expand32_of_count (s := s) (t := s.modPace (fun p => { p with recent := r })) rfl w.toNat
  show execGradeAnnouncement l g w s = _
  cases b <;> simp only [execGradeAnnouncement, h, he, Bool.false_eq_true, if_true, if_false]
theorem exec_slipRequest {cause : BitVec 4} {job : Byte} {w : W32} (h : s.firstCopy l PaceKind.slip (slipBody cause job w.toNat) = (u, b)) :
    exec (.slipRequest l cause job w) s = .next (if b then u.onSlip l cause job (s.expand32 w.toNat) else u) := by
  obtain ⟨r, rfl⟩ := State.firstCopy_noted h
  have he := State.expand32_of_count (s := s) (t := s.modPace (fun p => { p with recent := r })) rfl w.toNat
  show execSlipRequest l cause job w s = _
  cases b <;> simp only [execSlipRequest, h, he, Bool.false_eq_true, if_true, if_false]
end

/-! What a first copy does. -/

section
variable {s : State} {l : LinkId}
theorem State.onReport_alone {cls : Fin 8} {th : Bool} (h : s.pace.domain = none) : s.onReport l cls th = s := by
  simp only [State.onReport, h]
theorem State.onReport_child {d : Domain} {cls : Fin 8} {th : Bool} (h : s.pace.domain = some d) (hc : bit d.children l.val = true) :
    s.onReport l cls th = s.modPace (fun p => { p with worst := min p.worst cls, thermalSeen := p.thermalSeen || th }) := by
  simp only [State.onReport, h, hc, if_true]
theorem State.onReport_other {d : Domain} {cls : Fin 8} {th : Bool} (h : s.pace.domain = some d) (hc : bit d.children l.val = false) :
    s.onReport l cls th = s := by
  simp only [State.onReport, h, hc, Bool.false_eq_true, if_false]

theorem State.onAnnouncement_outside {g : Fin 8} {t : Nat} (h : s.treeLink l = false) : s.onAnnouncement l g t = s := by
  simp [State.onAnnouncement, h]
theorem State.onAnnouncement_tree {g : Fin 8} {t : Nat} (h : s.treeLink l = true) :
    s.onAnnouncement l g t =
      let v := s.sendTree PaceKind.grade (gradeBody g t) (some l)
      if t ≤ s.pace.count.toNat then v.domainFault Code.paceLate else v.modPace (fun p => p.announce g t) := by
  simp [State.onAnnouncement, h]

theorem State.onSlip_outside {cause : BitVec 4} {job : Byte} {o : Nat} (h : s.treeLink l = false) : s.onSlip l cause job o = s := by
  simp [State.onSlip, h]
theorem State.onSlip_untargeted {cause : BitVec 4} {job : Byte} {o : Nat} (h : s.treeLink l = true) (hn : s.requestTarget job o = none) :
    s.onSlip l cause job o = s.sendTree PaceKind.slip (slipBody cause job o) (some l) := by
  simp [State.onSlip, h, hn]
theorem State.onSlip_targeted {cause : BitVec 4} {job : Byte} {o n : Nat} (h : s.treeLink l = true) (hn : s.requestTarget job o = some n) :
    s.onSlip l cause job o =
      let v := s.sendTree PaceKind.slip (slipBody cause job o) (some l)
      if s.armed n then s else if n ≤ s.pace.count.toNat then v.domainFault Code.paceLate else v.arm n job false := by
  simp [State.onSlip, h, hn]

theorem State.raiseSlip_untargeted {j : Job} {cause : BitVec 4} {c : Nat} (h : s.slipTarget j c = none) :
    s.raiseSlip j cause c = s.sendTree PaceKind.slip (slipBody cause j.index c) none := by
  simp only [State.raiseSlip, h]
theorem State.raiseSlip_targeted {j : Job} {cause : BitVec 4} {c n : Nat} (h : s.slipTarget j c = some n) :
    s.raiseSlip j cause c =
      (if s.armed n then s else s.arm n j.index true).sendTree PaceKind.slip (slipBody cause j.index c) none := by
  simp only [State.raiseSlip, h]
end

/-! The target of a request for a job that does not run here (log 94). -/

section
variable {domain job : Byte} {goal : Nat}
theorem foreignBoundary_le : goal ≤ foreignBoundary domain job goal ∧ foreignBoundary domain job goal ≤ goal + 65535 := by
  unfold foreignBoundary
  cases hf : (List.range 65536).find? (fun i => Config.lapBoundary domain job (goal + i)) with
  | none => simp
  | some i =>
    have : i < 65536 := List.mem_range.1 (List.mem_of_find?_eq_some hf)
    simp only [Option.getD_some]
    omega
/-- The first of some counts from a on is the first of them from each count b between. -/
theorem find?_range_from {p : Nat → Bool} {n a b i : Nat} (hf : (List.range n).find? (fun k => p (a + k)) = some i) (h1 : a ≤ b)
    (h2 : b ≤ a + i) : (List.range n).find? (fun k => p (b + k)) = some (a + i - b) := by
  obtain ⟨hp, hi, hbefore⟩ := List.find?_range_eq_some.1 hf
  have hi := List.mem_range.1 hi
  refine List.find?_range_eq_some.2 ⟨?_, List.mem_range.2 (by omega), fun k hk => ?_⟩
  · rwa [show b + (a + i - b) = a + i by omega]
  · have := hbefore (b + k - a) (by omega)
    rwa [show a + (b + k - a) = b + k by omega] at this
theorem foreignBoundary_from {goal' : Nat} (h1 : goal ≤ goal') (h2 : goal' ≤ foreignBoundary domain job goal)
    (hb : Config.lapBoundary domain job (foreignBoundary domain job goal) = true) :
    foreignBoundary domain job goal' = foreignBoundary domain job goal := by
  unfold foreignBoundary at h2 hb ⊢
  cases hf : (List.range 65536).find? (fun i => Config.lapBoundary domain job (goal + i)) with
  | none =>
    have hn := List.find?_range_eq_none.1 hf 65535 (by omega)
    rw [hf, Option.getD_none] at hb
    simp [hb] at hn
  | some i =>
    rw [hf, Option.getD_some] at h2
    rw [find?_range_from (p := Config.lapBoundary domain job) hf h1 h2, Option.getD_some, Option.getD_some]
    omega
end
section
variable {s : State} {job : Byte} {c : Nat}
theorem State.requestTarget_here {j : Job} (h : s.jobs.find? (fun j => j.phase == .run && j.index == job) = some j) :
    s.requestTarget job c = s.slipTarget j c := by
  simp only [State.requestTarget, h]
theorem State.requestTarget_foreign (h : ∀ j ∈ s.jobs, j.phase = .run → j.index ≠ job) :
    s.requestTarget job c = some (foreignBoundary ((s.pace.domain.map (·.id)).getD 0) job (c + s.horizon)) := by
  have hn : s.jobs.find? (fun j => j.phase == .run && j.index == job) = none := by
    rw [List.find?_eq_none]
    intro j hj
    simpa using h j hj
  simp only [State.requestTarget, hn]
end

/-- Settles O23: a further copy is only noted; each first copy is the lemma of what it does above. -/
theorem paceCellsActOnTheirFirstCopy : Obligations.PaceCellsActOnTheirFirstCopy := by
  refine ⟨fun s u l => ⟨fun cls th h => exec_slackReport h, fun cls th h => ?report, fun g w h => exec_gradeAnnouncement h,
    fun g w v h hv => ?announcement, fun cause job w h => exec_slipRequest h, fun cause job w v h hv => ?slip⟩,
    fun s job c => ⟨fun j => State.requestTarget_here, fun h => ⟨_, State.requestTarget_foreign h, ?foreign⟩⟩,
    fun s j cause c => ⟨State.raiseSlip_untargeted, fun n => State.raiseSlip_targeted⟩, fun s kind body but m => ?tree⟩
  case report =>
    obtain ⟨r, rfl⟩ := State.firstCopy_noted h
    rw [exec_slackReport h, if_pos rfl]
    refine ⟨fun hd => ?_, fun d hd => ⟨fun hc => ?_, fun hc => ?_⟩⟩
    · rw [State.onReport_alone (by exact hd)]
    · rw [State.onReport_child (by exact hd) hc]; rfl
    · rw [State.onReport_other (by exact hd) hc]
  case announcement =>
    obtain ⟨r, rfl⟩ := State.firstCopy_noted h
    rw [exec_gradeAnnouncement h, if_pos rfl]
    refine ⟨fun ht => ?_, fun ht hn => ?_, fun ht hn => ?_⟩
    · rw [State.onAnnouncement_outside (by exact ht)]
    · rw [State.onAnnouncement_tree (by exact ht), ← hv]
      exact congrArg _ (if_neg (Nat.not_le.2 hn))
    · rw [State.onAnnouncement_tree (by exact ht), ← hv]
      exact congrArg _ (if_pos hn)
  case slip =>
    obtain ⟨r, rfl⟩ := State.firstCopy_noted h
    rw [exec_slipRequest h, if_pos rfl]
    refine ⟨fun ht => ?_, fun ht hn => ?_, fun n ht hn => ?_⟩
    · rw [State.onSlip_outside (by exact ht)]
    · rw [State.onSlip_untargeted (by exact ht) (by exact hn), hv]
    · rw [State.onSlip_targeted (by exact ht) (by exact hn), ← hv]
      refine ⟨fun ha => congrArg _ (if_pos ha), fun ha hc => congrArg _ ?_, fun ha hc => congrArg _ ?_⟩
      · exact (if_neg (by rw [Bool.not_eq_true]; exact ha)).trans (if_neg (Nat.not_le.2 hc))
      · exact (if_neg (by rw [Bool.not_eq_true]; exact ha)).trans (if_pos hc)
  case foreign =>
    refine ⟨foreignBoundary_le.1, foreignBoundary_le.2, fun e h1 h2 hb => ?_⟩
    rw [State.requestTarget_foreign h, foreignBoundary_from (by omega) h2 hb]
  case tree =>
    rw [State.sendTree_link]
    unfold Link.paced PaceKind.copies State.up
    grind

end Sys2Proof.Machine
end

section
/-! SUPPORT and the statement of the lap boundaries and of the counter snapshots (R49 to R52, R121, R167, R170, R187, R265). -/

namespace Sys2Proof.Machine

/-! Jobs by identity. -/

theorem State.modJob_job? (s : State) (id : Nat) {f : Job → Job} (hf : ∀ j, (f j).id = j.id) :
    (s.modJob id f).job? id = (s.job? id).map f := by
  simp only [State.job?, State.modJob, List.find?_map]
  have hp : ((fun j : Job => j.id == id) ∘ fun j => if (j.id == id) = true then f j else j) = fun j => j.id == id := by
    funext j
    simp only [Function.comp_apply]
    split <;> simp_all
  rw [hp]
  cases hj : s.jobs.find? (fun j => j.id == id) with
  | none => rfl
  | some j => exact congrArg some (if_pos (List.find?_some hj))

theorem State.modJob_found {s : State} {j : Job} {f : Job → Job} (hf : ∀ j, (f j).id = j.id) (h : s.job? j.id = some j) :
    (s.modJob j.id f).job? j.id = some (f j) := by
  rw [s.modJob_job? j.id hf, h, Option.map_some]
@[simp] theorem State.pruneHolds_job? (s : State) (id : Nat) : s.pruneHolds.job? id = s.job? id := rfl

/-! Holds (R49, R50). -/

/-- Steps that each find something find nothing together only in an empty list. -/
theorem foldl_eq_none {α β : Type} {f : Option β → α → Option β} (hf : ∀ m x, f m x ≠ none) (xs : List α) :
    xs.foldl f none = none ↔ xs = [] := by
  induction xs using List.reverseRecOn with
  | nil => simp
  | append_singleton xs x _ => simp [hf]
theorem State.holdDue_none_iff {s : State} {l : LapState} {b : Nat} :
    s.holdDue l b = none ↔ ∀ h ∈ s.pace.holds, l.met < h.target → b < h.target := by
  rw [State.holdDue, foldl_eq_none]
  · simp [List.filter_eq_nil_iff]
  · intro m h
    cases m with
    | none => simp
    | some x => dsimp only; split <;> simp
/-- How many held laps the window of a hold's target has with it (R52). -/
def State.slipNo (s : State) (h : ArmedHold) : Nat := if s.pace.window = h.target / 2 ^ 24 then s.pace.windowSlips + 1 else 1
/-- The hold is counted. -/
def State.slipCounted (s : State) (h : ArmedHold) : State :=
  s.modPace (fun p => { p with
    slipCount := satInc p.slipCount, window := h.target / 2 ^ 24, windowSlips := s.slipNo h
    holds := p.holds.map (fun x : ArmedHold => if x.target = h.target then { x with counted := true } else x) })
@[simp] theorem State.slipCounted_job? (s : State) (h : ArmedHold) (id : Nat) : (s.slipCounted h).job? id = s.job? id := rfl
/-- A job over its budget faults; the package that raised the hold logs it. -/
def State.overBudget (h : ArmedHold) (s : State) (j : Job) : State :=
  if h.raisedHere then s.jobFault j.id Code.slipBudget { Loc.base 6 with part := j.lead.val } else s.jobFaultQuiet j.id Code.slipBudget
theorem State.countSlip_eq {s : State} {h : ArmedHold} (hc : h.counted = false) :
    s.countSlip h = (s.jobs.filter (fun j => j.phase == .run && decide (j.image.slipBudget < s.slipNo h))).foldl (State.overBudget h)
      (s.slipCounted h) := by
  simp only [State.countSlip, hc, Bool.false_eq_true, if_false, beq_iff_eq]
  rfl
theorem State.countSlip_within {s : State} {h : ArmedHold} (hc : h.counted = false)
    (hb : ∀ q ∈ s.jobs, q.phase = .run → s.slipNo h ≤ q.image.slipBudget) : s.countSlip h = s.slipCounted h := by
  rw [State.countSlip_eq hc, List.filter_eq_nil_iff.2, List.foldl_nil]
  intro q hq
  simpa using hb q hq

/-! LAP_BOUNDARY, by what stands at the boundary. -/

/-- The job of a LEAD runs lap l of its plan's sequence. -/
structure State.InLap (s : State) (lead : PartId) (j : Job) (k : PlanSection) (p : PlanDef) (l : LapState) : Prop where
  job : s.jobOfLead lead = some j
  plan : j.image.plan = some k
  active : j.activePlan = some p
  lap : j.lap = some l
  run : j.phase = .run
  paused : l.paused = false
  ended : l.ended = false
/-- Its length has run, no held lap ends, and its plan has not been found to differ. -/
structure State.LapDue (s : State) (lead : PartId) (j : Job) (k : PlanSection) (p : PlanDef) (l : LapState) : Prop
    extends s.InLap lead j k p l where
  due : l.lapStart + l.length ≤ s.pace.count.toNat
  same : j.divergedAtLap = false
  held : l.held = false
/-- The length of a lap of a table. -/
def PlanSection.beats (k : PlanSection) (t : Nat) : Nat := Nat.max 1 (k.len t)
/-- The next lap has begun. -/
def State.nextLap (s : State) (j : Job) (k : PlanSection) (p : PlanDef) (l : LapState) (e r : Nat) : State :=
  (s.modJob j.id (fun j => { j with
    lap := some (l.begin (l.lapStart + l.length) e r (l.lapIndex + 1) (p.tableAt e) (k.beats (p.tableAt e)) false) })).pruneHolds

section
variable {s : State} {lead : PartId} {j : Job} {k : PlanSection} {p : PlanDef} {l : LapState}
theorem State.InLap.early (h : s.InLap lead j k p l) (hc : s.pace.count.toNat < l.lapStart + l.length) :
    exec (.lapBoundary lead) s = .next s := by
  show execLapBoundary lead s = _
  simp [execLapBoundary, h.job, h.plan, h.active, h.lap, hc]
theorem State.InLap.diverged (h : s.InLap lead j k p l) (hc : l.lapStart + l.length ≤ s.pace.count.toNat) (hd : j.divergedAtLap = true) :
    exec (.lapBoundary lead) s = .next (s.jobFaultQuiet j.id Code.planDiverged) := by
  show execLapBoundary lead s = _
  simp [execLapBoundary, h.job, h.plan, h.active, h.lap, h.run, h.paused, h.ended, Nat.not_lt.2 hc, hd]
theorem State.LapDue.ends (h : s.LapDue lead j k p l)
    (hn : k.next p l.entry l.rep = none ∨ (k.loopEntry ≠ noLoop ∧ ∃ n : Nat, j.endCount = some n ∧ n ≤ l.lapStart + l.length)) :
    exec (.lapBoundary lead) s = .next (s.sequenceEnd j).pruneHolds := by
  show execLapBoundary lead s = _
  obtain hn | ⟨hl, n, hn, hle⟩ := hn
  · simp [execLapBoundary, h.job, h.plan, h.active, h.lap, h.run, h.paused, h.ended, h.same, h.held, Nat.not_lt.2 h.due, hn]
  · simp [execLapBoundary, h.job, h.plan, h.active, h.lap, h.run, h.paused, h.ended, h.same, h.held, Nat.not_lt.2 h.due, hl, hn, hle]

variable (h : s.LapDue lead j k p l) (hend : j.endCount = none) {e r : Nat} (hn : k.next p l.entry l.rep = some (e, r))
include h hend hn
theorem State.LapDue.holds {x : ArmedHold} (hx : s.holdDue l (l.lapStart + l.length) = some x) :
    exec (.lapBoundary lead) s = .next (s.holdLap j l (l.lapStart + l.length) (p.tableAt e) (k.beats (p.tableAt e)) x) := by
  show execLapBoundary lead s = _
  simp [execLapBoundary, h.job, h.plan, h.active, h.lap, h.run, h.paused, h.ended, h.same, h.held, Nat.not_lt.2 h.due, hend, hn, hx,
    PlanSection.beats]

variable (hx : s.holdDue l (l.lapStart + l.length) = none)
include hx
theorem State.LapDue.hurdle (hr : r = 0) {d : HurdleDecl} (hd : j.image.hurdles[j.nextHurdle]? = some d) (he : d.seqEntry = e) :
    exec (.lapBoundary lead) s = .next (s.atHurdleEntry j l (l.lapStart + l.length) (p.tableAt e) (k.beats (p.tableAt e))) := by
  show execLapBoundary lead s = _
  simp [execLapBoundary, h.job, h.plan, h.active, h.lap, h.run, h.paused, h.ended, h.same, h.held, Nat.not_lt.2 h.due, hend, hn, hx, hr, hd, he,
    PlanSection.beats]
/-- Where no hurdle stands the next lap begins; with every 65,536th of the lowest job in RUN a snapshot is taken. -/
theorem State.LapDue.goes (hr : r ≠ 0 ∨ ∀ d : HurdleDecl, j.image.hurdles[j.nextHurdle]? = some d → d.seqEntry ≠ e) :
    exec (.lapBoundary lead) s = .next (s.nextLap j k p l e r) ∨
      exec (.lapBoundary lead) s = .next ((s.nextLap j k p l e r).snapshot (l.lapIndex + 1)) := by
  have he : exec (.lapBoundary lead) s = .next (if (decide ((l.lapIndex + 1) % 2 ^ 16 = 0) &&
      ((s.nextLap j k p l e r).lowestRun.map (·.id)) == some j.id) = true then (s.nextLap j k p l e r).snapshot (l.lapIndex + 1)
      else s.nextLap j k p l e r) := by
    show execLapBoundary lead s = _
    obtain hr | hr := hr
    · simp [execLapBoundary, h.job, h.plan, h.active, h.lap, h.run, h.paused, h.ended, h.same, h.held, Nat.not_lt.2 h.due, hend, hn, hx, hr,
        PlanSection.beats, State.nextLap]
    · cases hd : j.image.hurdles[j.nextHurdle]? with
      | none =>
        simp [execLapBoundary, h.job, h.plan, h.active, h.lap, h.run, h.paused, h.ended, h.same, h.held, Nat.not_lt.2 h.due, hend, hn, hx, hd,
          PlanSection.beats, State.nextLap]
      | some d =>
        simp [execLapBoundary, h.job, h.plan, h.active, h.lap, h.run, h.paused, h.ended, h.same, h.held, Nat.not_lt.2 h.due, hend, hn, hx, hd,
          hr d hd, PlanSection.beats, State.nextLap]
  rw [he]
  split
  · exact .inr rfl
  · exact .inl rfl
end

/-! The end of a sequence (R86, R116). -/

/-- The sequence of a job has ended. -/
def State.lapOver (s : State) (j : Job) : State := s.modJob j.id (fun j => { j with lap := j.lap.map (fun l => { l with ended := true }) })
section
variable {s : State} {j : Job}
theorem State.sequenceEnd_queued {x : Binding} (hx : (j.bindQ.flatMap (·.2)).find? (fun x => x.cmd.cmd.opcode == 1) = some x) :
    s.sequenceEnd j = (s.lapOver j).jobFault j.id Code.bindingOrphan (x.cmd.loc x.part 6) := by
  simp only [State.sequenceEnd, hx]
  rfl
variable (hq : ∀ x ∈ j.bindQ.flatMap (·.2), x.cmd.cmd.opcode ≠ 1)
include hq
theorem no_queued_send : (j.bindQ.flatMap (·.2)).find? (fun x => x.cmd.cmd.opcode == 1) = none :=
  List.find?_eq_none.2 fun x hx => by simpa using hq x hx
theorem State.sequenceEnd_bound {b : BoundSend}
    (hb : j.sends.find? (fun b => decide (j.occTotal false b.transfer ≤ b.occurrence)) = some b) :
    s.sequenceEnd j = (s.lapOver j).jobFault j.id Code.bindingOrphan (b.cmd.loc b.part 6) := by
  simp only [State.sequenceEnd, no_queued_send hq, hb]
  rfl
theorem State.sequenceEnd_settles (hb : ∀ b ∈ j.sends, b.occurrence < j.occTotal false b.transfer) :
    s.sequenceEnd j = j.parts.foldl (fun t p => t.settle p) (s.lapOver j) := by
  have hn : j.sends.find? (fun b => decide (j.occTotal false b.transfer ≤ b.occurrence)) = none :=
    List.find?_eq_none.2 fun b hx => by simpa using hb b hx
  simp only [State.sequenceEnd, no_queued_send hq, hn]
  rfl
end

/-! A hurdle's entry (R121). -/

section
variable {s : State} {j : Job} {l : LapState} {b table length : Nat}
theorem State.atHurdleEntry_pauses (h : s.sendsPending j = false) :
    s.atHurdleEntry j l b table length = (s.modJob j.id (fun j => { j with lap := some { l with paused := true } })).pruneHolds := by
  simp [State.atHurdleEntry, h]
theorem State.atHurdleEntry_waits (h : s.sendsPending j = true) (hd : s.holdDue l s.pace.count.toNat = none) :
    s.atHurdleEntry j l b table length = s.modJob j.id (fun j => { j with lap := some { l with waits := true } }) := by
  simp [State.atHurdleEntry, h, hd]
end

/-! A held lap (R49, R52). -/

/-- The held lap of a job stands. -/
def State.lapHeld (s : State) (j : Job) (l : LapState) (b table length : Nat) (h : ArmedHold) : State :=
  s.modJob j.id (fun j => { j with
    slips := j.slips + 1, lap := some { l.begin b l.entry l.rep l.lapIndex table length true with met := h.target } })
theorem State.holdLap_within {s : State} {j : Job} {l : LapState} {b table length : Nat} {h : ArmedHold} (hc : h.counted = false)
    (hb : ∀ q ∈ s.jobs, q.phase = .run → s.slipNo h ≤ q.image.slipBudget) :
    s.holdLap j l b table length h = ((s.lapHeld j l b table length h).slipCounted h).pruneHolds := by
  refine congrArg State.pruneHolds (State.countSlip_within hc fun q hq hr => ?_)
  obtain ⟨q, hmem, rfl⟩ := List.mem_map.1 hq
  by_cases hid : (q.id == j.id) = true
  · rw [if_pos hid] at hr ⊢
    exact hb q hmem hr
  · rw [if_neg hid] at hr ⊢
    exact hb q hmem hr
/-- The one job of the package is over its budget. -/
theorem State.holdLap_over {s : State} {j : Job} {l : LapState} {b table length : Nat} {h : ArmedHold} (hj : s.jobs = [j])
    (hr : j.phase = .run) (hc : h.counted = false) (hb : j.image.slipBudget < s.slipNo h) :
    s.holdLap j l b table length h =
      (State.overBudget h ((s.lapHeld j l b table length h).slipCounted h) j).pruneHolds := by
  have hjobs : (s.lapHeld j l b table length h).jobs = [{ j with
      slips := j.slips + 1, lap := some { l.begin b l.entry l.rep l.lapIndex table length true with met := h.target } }] := by
    simp [State.lapHeld, State.modJob, hj]
  have hno : (s.lapHeld j l b table length h).slipNo h = s.slipNo h := rfl
  refine congrArg State.pruneHolds ((State.countSlip_eq hc).trans ?_)
  rw [show s.modJob j.id _ = s.lapHeld j l b table length h from rfl, hjobs, hno, List.filter_cons_of_pos (by simp [hr, hb]), List.filter_nil]
  rfl

/-! COUNTER_SNAPSHOT (R265). -/

theorem Infield.foldl_peaks (ds : List Nat) : ∀ i : Infield, ∃ u, ds.foldl (fun i d => i.peaks true d) i = { i with ringUse := u } := by
  induction ds with
  | nil => exact fun i => ⟨i.ringUse, rfl⟩
  | cons d ds ih =>
    intro i
    obtain ⟨u, hu⟩ := ih (i.peaks true d)
    exact ⟨u, by rw [List.foldl_cons, hu]; rfl⟩
/-- The copies of the counters that a snapshot writes. -/
def State.snapTaken (s : State) (lap : Nat) : Infield :=
  { s.infield with
    snap := s.infield.snap + 1, snapPace := s.pace.count, snapLap := BitVec.ofNat 64 lap, snapSlips := s.pace.slipCount
    snapGrade := BitVec.ofNat 64 s.pace.grade.val, snapWorst := BitVec.ofNat 64 (min s.pace.worst s.pace.lastWorst).val
    snapLinks := Vector.ofFn (fun l : Fin 6 => s.links[l].counters), snapRings := s.infield.ringUse }
/-- A link whose peaks begin again at the present uses. -/
def Link.peaksAnew (k : Link) : Link := { k with peakJob := BitVec.ofNat 64 k.rxUsedJob, peakMgmt := BitVec.ofNat 64 k.rxUsedMgmt }
theorem State.snapshot_eq (s : State) (lap : Nat) :
    ∃ u, s.snapshot lap = { s with infield := { s.snapTaken lap with ringUse := u }, links := s.links.map Link.peaksAnew } := by
  obtain ⟨u, hu⟩ := Infield.foldl_peaks (s.infield.ringUse.map (·.1)) (s.snapTaken lap)
  exact ⟨u, by rw [← hu]; rfl⟩
theorem State.lowestRun_none {s : State} (h : ∀ j ∈ s.jobs, j.phase ≠ .run) : s.lowestRun = none := by
  have hf : s.jobs.filter (fun j => j.phase == .run) = [] := List.filter_eq_nil_iff.2 fun j hj => by simpa using h j hj
  simp [State.lowestRun, hf]
theorem exec_counterSnapshot_idle {s : State} (h : ∀ j ∈ s.jobs, j.phase ≠ .run) :
    exec .counterSnapshot s = .next (if s.pace.count.toNat % 2 ^ 27 = 0 then s.snapshot 0 else s) := by
  show execCounterSnapshot s = _
  simp only [execCounterSnapshot, State.lowestRun_none h]

/-- Settles O24: each clause is the lemma of what stands at the boundary, and of what its state then reads. -/
theorem lapBoundariesGoOnHoldOrPause : Obligations.LapBoundariesGoOnHoldOrPause := by
  refine fun s => ⟨fun lead j k p l hj hid hk hp hl hr hpa hen => ?_, fun h => ⟨fun hc => ?snapshot, fun hc => ?between⟩⟩
  case snapshot =>
    obtain ⟨u, hs⟩ := s.snapshot_eq 0
    refine ⟨_, (exec_counterSnapshot_idle h).trans (congrArg _ ((if_pos hc).trans hs)), rfl, rfl, rfl, rfl, rfl, fun l => ⟨?_, ?_⟩, rfl, rfl, rfl,
      rfl, rfl, rfl, rfl⟩
    · simp [State.link, State.snapTaken]
    · simp [State.link, Link.peaksAnew]
  case between => rw [exec_counterSnapshot_idle h, if_neg hc]
  have hin : s.InLap lead j k p l := ⟨hj, hk, hp, hl, hr, hpa, hen⟩
  refine ⟨hin.early, hin.diverged, fun v hc hd hh hn hv => ?ends, fun hc hd hh hend e r hn => ⟨fun hx hr => ?goes, fun d hx hr hd he => ?hurdle,
    fun x hx hraised hcounted hb => ?within, fun x w v hx hcounted hjobs hw hb hv => ?exceeds⟩⟩
  all_goals have hdue : s.LapDue lead j k p l := ⟨hin, hc, ‹j.divergedAtLap = false›, hh⟩
  case ends =>
    obtain rfl : v = s.lapOver j := hv
    rw [hdue.ends hn]
    exact ⟨fun x hx => by rw [State.sequenceEnd_queued hx], fun hq => ⟨fun b hb => by rw [State.sequenceEnd_bound hq hb],
      fun hb => by rw [State.sequenceEnd_settles hq hb]⟩⟩
  case goes =>
    have hlap : ((s.nextLap j k p l e r).job? j.id).bind (·.lap) = some (l.begin (l.lapStart + l.length) e r (l.lapIndex + 1) (p.tableAt e)
        (Nat.max 1 (k.len (p.tableAt e))) false) := by
      rw [State.nextLap, State.pruneHolds_job?, State.modJob_found (by exact fun _ => rfl) hid]
      rfl
    obtain he | he := hdue.goes hend hn hx hr <;> exact ⟨_, he, hlap, rfl, rfl, rfl, rfl⟩
  case hurdle =>
    rw [hdue.hurdle hend hn hx hr hd he]
    refine ⟨fun hs => ⟨_, congrArg _ (State.atHurdleEntry_pauses hs), ?_, rfl, rfl, rfl⟩, fun hs hh => ?_⟩
    · rw [State.pruneHolds_job?, State.modJob_found (by exact fun _ => rfl) hid]
      rfl
    · refine congrArg _ (State.atHurdleEntry_waits hs (State.holdDue_none_iff.2 fun h hm hmet => ?_))
      exact hh h hm (State.holdDue_none_iff.1 hx h hm hmet)
  case within =>
    rw [hdue.holds hend hn hx]
    refine ⟨_, congrArg _ (State.holdLap_within hcounted hb), ?_, ?_, rfl, rfl, rfl, rfl⟩
    all_goals
      rw [State.pruneHolds_job?, State.slipCounted_job?, State.lapHeld, State.modJob_found (by exact fun _ => rfl) hid]
      rfl
  case exceeds =>
    have hvs : (s.lapHeld j l (l.lapStart + l.length) (p.tableAt e) (k.beats (p.tableAt e)) x).slipCounted x = v := by
      rw [hv, hw]
      simp only [State.lapHeld, State.slipCounted, State.modJob, State.modPace, hjobs, List.map_cons, List.map_nil, beq_self_eq_true, if_true]
      rfl
    rw [hdue.holds hend hn hx, State.holdLap_over hjobs hr hcounted (by rw [State.slipNo, ← hw]; exact hb), hvs]
    rfl

end Sys2Proof.Machine
end

section
/-! SUPPORT and the statement of START and RESUME (R32, R33, R43, R179, R181, R182, R241, R287, R400). -/

namespace Sys2Proof.Machine

/-! The header and the rank table of a window descriptor (R308). -/

/-- With the header open and the rank table read, the descriptor goes on with its bytes. -/
theorem State.rankGo_taken {s u v : State} {o q : WinOp} {bs : List Byte} (k : State → List Byte → State) (ho : s.openHeader o = .opened u q)
    (ht : u.winTake q rankBytes = (v, some bs)) : s.rankGo o k = k (v.setOp q { q with phase := .reply bs.length }) bs := by
  simp only [State.rankGo, ho, ht]

/-- A descriptor that arms a job: ok says that its fields are well formed, may that its function may name what it names, job which job it
names, and k goes on with the rank table (R308). -/
def State.rankRow (t : State) (d : Desc) (ok may : Bool) (job : Option Job) (k : State → List Byte → State) : State :=
  if !ok then t.done d Status.badDescriptor
  else if !may then t.complete d { status := Status.notPermitted }
  else if job.isNone then t.conflict d
  else if !t.cqOn d then t.complete d { status := Status.cqInvalid }
  else
    let o := t.winOp d (some d.lead)
    let u := t.pushOp o
    if u.canClaim o then u.rankGo o k else u

section
variable (t : State) (d : Desc) (k : State → List Byte → State)
theorem State.rankRow_malformed (may : Bool) (job : Option Job) : t.rankRow d false may job k = t.done d Status.badDescriptor := rfl
theorem State.rankRow_forbidden (job : Option Job) :
    t.rankRow d true false job k = t.complete d { status := Status.notPermitted } := rfl
theorem State.rankRow_conflict : t.rankRow d true true none k = t.conflict d := rfl

variable {t d}
theorem State.rankRow_cqOff (j : Job) (hq : (t.fn d.fn).cqs[d.eventCq].enable = false) :
    t.rankRow d true true (some j) k = t.complete d { status := Status.cqInvalid } := by
  have hq : t.cqOn d = false := hq
  simp [State.rankRow, hq]

variable {o : WinOp} {w : State} (j : Job) (hq : (t.fn d.fn).cqs[d.eventCq].enable = true) (ho : o = t.winOp d (some d.lead))
  (hw : w = t.pushOp o)
include hq ho hw
theorem State.rankRow_waits (hc : w.canClaim o = false) : t.rankRow d true true (some j) k = w := by
  have hq : t.cqOn d = true := hq
  subst ho hw
  simp [State.rankRow, hq, hc]
theorem State.rankRow_taken {u v x : State} {q : WinOp} {bs : List Byte} (hc : w.canClaim o = true) (hopen : w.openHeader o = .opened u q)
    (htake : u.winTake q rankBytes = (v, some bs)) (hx : x = v.setOp q { q with phase := .reply bs.length }) :
    t.rankRow d true true (some j) k = k x bs := by
  have hq : t.cqOn d = true := hq
  rw [hx, ← State.rankGo_taken k hopen htake]
  subst ho hw
  simp [State.rankRow, hq, hc]
end

/-! START. -/

theorem exec_start {s t : State} {d : Desc} (h : s.takeMc Op.start = some (d, t)) :
    exec .start s =
      .next (t.rankRow d d.startOk (t.vfAllowed d [d.lead]) (t.startJob d) (fun s bs => s.startWith d bs)) := by
  show execStart s = _
  simp only [execStart, h]
  rfl
section
variable {s : State} {d : Desc} {bs : List Byte} {j : Job} (hj : s.startJob d = some j)
include hj
theorem State.startWith_refused {n : StartNo}
    (hc : s.startCheck j d.fn d.planSel (j.startHurdle d) j.parts d.pace bs = .error n) : s.startWith d bs = s.startNo d n := by
  simp only [State.startWith, hj, hc]
theorem State.startWith_arms {r : RankTable} {n : Fin 8}
    (hc : s.startCheck j d.fn d.planSel (j.startHurdle d) j.parts d.pace bs = .ok (r, n)) :
    s.startWith d bs = (s.modJob j.id (fun x => { x with
      circuits := fld (d.word 2) 63 32, predInit := BitVec.ofNat 16 (fld (d.word 2) 31 16)
      fromHurdle := (j.startHurdle d).join })).armJob d j.id r n false := by
  simp only [State.startWith, hj, hc]
end

/-! The pace domain that a job brings (R32, R33). -/

theorem State.joinDomain_none {s : State} (b : PaceBlock) (h : s.pace.domain = none) :
    ∃ g : Domain, (s.joinDomain b).pace.domain = some g ∧ g.agrees b = true := by
  refine ⟨{ id := b.domainId, treeDepth := b.treeDepth, pkgDepth := b.pkgDepth, parent := b.parent, children := b.children
            hopDelay := b.hopDelay }, ?_, by simp [Domain.agrees]⟩
  rw [State.joinDomain, if_neg (by simp [h]), State.modPace_pace]
  dsimp only
  split <;> rfl
theorem State.joinDomain_some {s : State} (b : PaceBlock) (h : s.pace.domain.isSome = true) : s.joinDomain b = s := by
  rw [State.joinDomain, if_pos h]

/-! RESUME. -/

/-- May the function of a RESUME name its LEAD and its expansion partitions? -/
def State.mayResume (t : State) (d : Desc) : Bool :=
  t.vfAllowed d [d.lead] && d.expansion.all (fun p => t.bound d.fn p && ((t.part p).owner.isNone || (t.part p).owner == some d.fn))
theorem State.mayResume_iff {t : State} {d : Desc} : t.mayResume d = true ↔ t.vfAllowed d [d.lead] = true ∧
    ∀ p ∈ d.expansion, t.bound d.fn p = true ∧ ((t.part p).owner = none ∨ (t.part p).owner = some d.fn) := by
  simp [State.mayResume]
theorem State.mayResume_false {t : State} {d : Desc} (h : t.vfAllowed d [d.lead] = false ∨ ∃ p ∈ d.expansion, t.bound d.fn p = false ∨
    ((t.part p).owner ≠ none ∧ (t.part p).owner ≠ some d.fn)) : t.mayResume d = false := by
  rw [← Bool.not_eq_true, State.mayResume_iff]
  rintro ⟨hv, hb⟩
  obtain h | ⟨p, hp, h⟩ := h
  · simp [hv] at h
  · obtain ⟨h1, h2⟩ := hb p hp
    obtain h | ⟨h3, h4⟩ := h
    · simp [h1] at h
    · exact h2.elim h3 h4
theorem exec_resume {s t : State} {d : Desc} (h : s.takeMc Op.resume = some (d, t)) :
    exec .resume s = .next (t.rankRow d d.resumeOk (t.mayResume d) (t.resumeJob d) (fun s bs => s.resumeWith d bs)) := by
  show execResume s = _
  simp only [execResume, h, ← Bool.not_and]
  rfl
section
variable {s : State} {d : Desc} {bs : List Byte} {j : Job} (hj : s.resumeJob d = some j)
include hj
theorem State.resumeWith_refused {n : StartNo}
    (hc : s.startCheck j d.fn d.planSel none (partMapParts (d.word 4)) d.pace bs = .error n) : s.resumeWith d bs = s.startNo d n := by
  simp only [State.resumeWith, hj, hc]
theorem State.resumeWith_expands {r : RankTable} {n : Fin 8}
    (hc : s.startCheck j d.fn d.planSel none (partMapParts (d.word 4)) d.pace bs = .ok (r, n)) :
    s.resumeWith d bs =
      ((s.claimLinks j).modJob j.id (fun x => { x with parkedMap := (s.part d.lead).mapGold })).expand d j r n := by
  simp only [State.resumeWith, hj, hc]
end

/-- Settles O49: a START and a RESUME stop at the first check of their descriptor that fails (`State.rankRow`); past them each goes on with its
rank table as `State.startWith` and `State.resumeWith` say. -/
theorem startsAndResumesArmTheirJob : Obligations.StartsAndResumesArmTheirJob := by
  refine ⟨fun s t d h => ?start, fun s b => ⟨State.joinDomain_none b, State.joinDomain_some b⟩, fun s t d h => ?resume⟩
  case start =>
    rw [exec_start h]
    refine ⟨fun hf => ?_, fun hf hv => ?_, fun hf hv => ⟨fun hj => ?_, fun j hj => ⟨fun hq => ?_, fun hq o w ho hw => ⟨fun hc => ?_,
      fun u v x q bs hc hopen htake hx hjob => ?taken⟩⟩⟩⟩
    · rw [hf, State.rankRow_malformed]
    · rw [hf, hv, State.rankRow_forbidden]
    · rw [hf, hv, hj, State.rankRow_conflict]
    · rw [hf, hv, hj, State.rankRow_cqOff _ j hq]
    · rw [hf, hv, hj, State.rankRow_waits _ j hq ho hw hc]
    case taken =>
      rw [hf, hv, hj, State.rankRow_taken _ j hq ho hw hc hopen htake hx]
      exact ⟨fun n hn => by rw [State.startWith_refused hjob hn], fun r n hn => by rw [State.startWith_arms hjob hn]⟩
  case resume =>
    rw [exec_resume h]
    refine ⟨fun hf => ?_, fun hf => ⟨fun hv => ?_, fun _ hv hb => ?named⟩⟩
    · rw [hf, State.rankRow_malformed]
    · rw [hf, State.mayResume_false hv, State.rankRow_forbidden]
    case named =>
      rw [hf, State.mayResume_iff.2 ⟨hv, hb⟩]
      refine ⟨fun hj => ?_, fun j hj => ⟨fun hq => ?_, fun hq o w ho hw => ⟨fun hc => ?_,
        fun u v x q bs hc hopen htake hx hjob => ?taken⟩⟩⟩
      · rw [hj, State.rankRow_conflict]
      · rw [hj, State.rankRow_cqOff _ j hq]
      · rw [hj, State.rankRow_waits _ j hq ho hw hc]
      case taken =>
        rw [hj, State.rankRow_taken _ j hq ho hw hc hopen htake hx]
        exact ⟨fun n hn => by rw [State.resumeWith_refused hjob hn], fun r n hn => by rw [State.resumeWith_expands hjob hn]⟩

end Sys2Proof.Machine
end

section
/-! SUPPORT and the statement of what a relay station samples and sends (R44 to R47, R175, R205, R208, R253, Table 08-8). -/

namespace Sys2Proof.Machine

/-! Links. -/

theorem State.modLink_congr {s : State} {l : LinkId} {f g : Link → Link} (h : f (s.link l) = g (s.link l)) :
    s.modLink l f = s.modLink l g :=
  congrArg (fun k => { s with links := vset s.links l k }) h
theorem State.modLink_modLink (s : State) (l : LinkId) (f g : Link → Link) :
    (s.modLink l f).modLink l g = s.modLink l (g ∘ f) :=
  congrArg (fun v => { s with links := v }) (vmod_vmod s.links l f g)
theorem State.link_stage {s : State} {l : LinkId} (h : s.up l = true) : (s.link l).stage = .up := beq_iff_eq.mp h

/-! Cells that leave in one frame (R211, R258). -/

theorem RingUnit.needs_pos (u : RingUnit) (l : LinkId) : 1 ≤ u.needs l := by
  unfold RingUnit.needs
  repeat' split
  all_goals decide

/-- What a cell frame takes of the cells us: some of them in order, at most n, one credit each; of each flow the earliest ones, none of a
flow that late lists; and what stays behind with room left is of a flow that lacks credit. -/
structure FrameCells (l : LinkId) (n c : Nat) (late : List (Option (Bool × BitVec 13 × BitVec 13))) (us r : List RingUnit) (k : Nat) : Prop where
  sublist : r.Sublist us
  fits : r.length ≤ n
  paid : r.length + k = c
  inOrder : ∀ f, r.filter (fun u => u.flow == f) <+: us.filter (fun u => u.flow == f)
  heldBack : ∀ f ∈ late, r.filter (fun u => u.flow == f) = []
  starved : r.length < n → ∀ u ∈ us, u ∉ r → u.flow ∈ late ∨ ∃ v ∈ us, v.flow = u.flow ∧ k < v.needs l

theorem FrameCells.nothing (l : LinkId) {n : Nat} (c : Nat) (late) {us : List RingUnit} (h : us = [] ∨ n = 0) : FrameCells l n c late us [] c where
  sublist := us.nil_sublist
  fits := n.zero_le
  paid := c.zero_add
  inOrder _ := List.nil_prefix
  heldBack _ _ := rfl
  starved hn u hu := by
    obtain rfl | rfl := h
    · cases hu
    · cases hn

/-- A cell whose flow is held back stays behind. -/
theorem FrameCells.passOver {l : LinkId} {n c k : Nat} {late} {us r : List RingUnit} {u : RingUnit} (h : FrameCells l n c late us r k)
    (hu : u.flow ∈ late) : FrameCells l n c late (u :: us) r k where
  sublist := h.sublist.cons u
  fits := h.fits
  paid := h.paid
  inOrder f := by
    by_cases hf : u.flow = f
    · rw [h.heldBack f (hf ▸ hu)]
      exact List.nil_prefix
    · rw [List.filter_cons_of_neg (by simpa using hf)]
      exact h.inOrder f
  heldBack := h.heldBack
  starved hn w hw hr := by
    obtain rfl | hw := List.mem_cons.mp hw
    · exact .inl hu
    · exact (h.starved hn w hw hr).imp_right fun ⟨v, hv, hx⟩ => ⟨v, List.mem_cons_of_mem u hv, hx⟩

/-- A cell that the credits allow goes. -/
theorem FrameCells.take {l : LinkId} {n c k : Nat} {late} {us r : List RingUnit} {u : RingUnit} (h : FrameCells l n (c - 1) late us r k)
    (hu : u.flow ∉ late) (hc : u.needs l ≤ c) : FrameCells l (n + 1) c late (u :: us) (u :: r) k where
  sublist := h.sublist.cons_cons u
  fits := Nat.succ_le_succ h.fits
  paid := by
    have := h.paid
    have := u.needs_pos l
    simp only [List.length_cons]
    omega
  inOrder f := by
    simp only [List.filter_cons]
    split
    · exact (List.cons_prefix_cons).mpr ⟨rfl, h.inOrder f⟩
    · exact h.inOrder f
  heldBack f hf := by
    rw [List.filter_cons_of_neg (by simpa using fun e : u.flow = f => hu (e ▸ hf))]
    exact h.heldBack f hf
  starved hn w hw hr := by
    obtain ⟨hne, hr⟩ := not_or.mp (mt List.mem_cons.mpr hr)
    have hw := (List.mem_cons.mp hw).resolve_left hne
    exact (h.starved (Nat.lt_of_succ_lt_succ hn) w hw hr).imp_right fun ⟨v, hv, hx⟩ => ⟨v, List.mem_cons_of_mem u hv, hx⟩

/-- A cell that lacks credit stays behind, and holds back its flow. -/
theorem FrameCells.holdBack {l : LinkId} {n c k : Nat} {late} {us r : List RingUnit} {u : RingUnit}
    (h : FrameCells l n c (u.flow :: late) us r k) (hc : ¬u.needs l ≤ c) : FrameCells l n c late (u :: us) r k where
  sublist := h.sublist.cons u
  fits := h.fits
  paid := h.paid
  inOrder := (h.passOver List.mem_cons_self).inOrder
  heldBack f hf := h.heldBack f (List.mem_cons_of_mem _ hf)
  starved hn w hw hr := by
    have short : k < u.needs l := by
      have := h.paid
      omega
    obtain rfl | hw := List.mem_cons.mp hw
    · exact .inr ⟨w, List.mem_cons_self, rfl, short⟩
    obtain hl | ⟨v, hv, hx⟩ := h.starved hn w hw hr
    · obtain hl | hl := List.mem_cons.mp hl
      · exact .inr ⟨u, List.mem_cons_self, hl.symm, short⟩
      · exact .inl hl
    · exact .inr ⟨v, List.mem_cons_of_mem u hv, hx⟩

theorem takeCells_frameCells (l : LinkId) (n c : Nat) (late) (us : List RingUnit) :
    FrameCells l n c late us (takeCells l n c late us).1 (takeCells l n c late us).2 := by
  induction us generalizing n c late with
  | nil => simpa only [takeCells] using FrameCells.nothing l c late (.inl rfl)
  | cons u us ih =>
    cases n with
    | zero => simpa only [takeCells] using FrameCells.nothing l c late (.inr rfl)
    | succ n =>
      simp only [takeCells, List.contains_iff_mem]
      split
      · next hl => exact (ih (n + 1) c late).passOver hl
      · next hl =>
        split
        · next hc => exact (ih n (c - 1) late).take hl hc
        · next hc => exact (ih (n + 1) c (u.flow :: late)).holdBack hc

/-! Frames (R175, R205, R208). -/

/-- A frame sent changes the link alone, and stands on its wire. -/
theorem State.emit_link (s : State) (l : LinkId) (b : FrameBody) (q : Option W16) (r : Bool) :
    ∃ k, s.emit l b q r = { s with links := vset s.links l k } ∧ k.wire.isSome = true ∧ k.unacked = (s.link l).unacked ∧
      k.nextSeq = (s.link l).nextSeq ∧ k.deferred = (s.link l).deferred ∧ k.stage = (s.link l).stage :=
  ⟨_, rfl, rfl, rfl, rfl, rfl, rfl⟩

theorem State.makeRoom_buffer {s : State} {l : LinkId} (h : (s.link l).inBuffer < 248) : s.makeRoom l = (s, true) := if_pos h
theorem State.sendBurst_buffer {s : State} {l : LinkId} (h : (s.link l).inBuffer < 248) (b : FrameBody) :
    s.sendBurst l b = (s.sendStored l b, true) := by
  simp only [State.sendBurst, State.makeRoom_buffer h]

theorem State.sendReplay_inBuffer {s : State} {l : LinkId} {e : ReplayEntry} {rest : List ReplayEntry} (h : (s.link l).backlog = e :: rest)
    (he : e.spilled = none) :
    s.sendReplay l = ((s.modLink l (fun k => { k with
      replayPtr := rest.head?.map (fun x => x.seq.toNat)
      replayCount := satInc k.replayCount })).logRate (.frameReplayed l) Code.frameReplayed 0 (linkPlace l)).emit l e.body (some e.seq) true := by
  simp only [State.sendReplay, h, State.replayBody, he]

/-! Cell frames (R175, R249). -/

/-- With nothing found in the cells that are to go, no ring acts before the frame. -/
theorem foldl_meetUnit_sound {us : List RingUnit} (h : ∀ u ∈ us, u.err = none) (s : State) :
    (us.filter (·.err.isSome)).foldl State.meetUnit s = s := by
  rw [List.filter_eq_nil_iff.mpr (fun u hu => by simp [h u hu])]
  rfl

section
variable {s : State} {l : LinkId} {m v : List RingUnit} {mc vc : Nat}
  (sound : ∀ u ∈ readyUnits (some l) s.infield.transit [], u.err = none)
  (hm : takeCells l 32 (s.link l).creditMgmt [] ((readyUnits (some l) s.infield.transit []).filter (fun u => u.chan == .mgmt)) = (m, mc))
  (hv : takeCells l (32 - m.length) (s.link l).creditJob []
    ((readyUnits (some l) s.infield.transit []).filter (fun u => u.chan == .job)) = (v, vc))
include sound hm hv

theorem State.sendCells_null (w : Option (Job × LapSpan × Nat)) (h : m ++ v = []) : s.sendCells l w = s.emit l FrameBody.null none false := by
  simp only [State.sendCells, foldl_meetUnit_sound sound, hm, hv, h, List.isEmpty_nil, if_true]
  rfl

theorem State.sendCells_some (w : Option (Job × LapSpan × Nat)) (h : m ++ v ≠ []) (room : (s.link l).inBuffer < 248) :
    s.sendCells l w = (m ++ v).foldl (fun t u => t.unitLeaves u)
      (((s.modLink l (fun k => { k with
        creditMgmt := mc, creditJob := vc
        cellsForwarded := satAdd k.cellsForwarded ((m ++ v).filter RingUnit.foreign).length
        uCells := if w.isSome then satInc k.uCells else k.uCells })).modInfield (fun i => { i with
          transit := (m ++ v).foldl (fun us u => us.erase u) i.transit })).sendStored l (w.elim
        { FrameBody.null with
          slot0 := mkSlot0 3 false false 0 0 0 0 0 0
          payload := BitVec.ofNat 16384 (leNat ((m ++ v).flatMap (fun u => u.cell?.elim [] Cell.toBytes))) }
        (fun w => w.1.slotField 3 false false 0 0 0 w.2.1.index w.2.2
          (leNat ((m ++ v).flatMap (fun u => u.cell?.elim [] Cell.toBytes))) 0))) := by
  simp only [State.sendCells, foldl_meetUnit_sound sound, hm, hv, List.isEmpty_iff, h, if_false, State.makeRoom_buffer room]
  cases w <;> rfl
end

/-! Samples (R44, R46, R116, R253). -/

/-- An occurrence that stands among the samples is not sampled again. -/
theorem State.sample_noted {s : State} {l : LinkId} {x : LapSpan} {first : Nat} {a : Sampled} (j : Job) (k : TableSet) (g : W32)
    (h : (s.link l).sampled.find? (fun a => a.occ.lapIndex == x.index && a.occ.slot == first) = some a) : s.sample l j k x first g = s := by
  have noted : (s.link l).sampled.any (fun a => a.occ.lapIndex == x.index && a.occ.slot == first) = true :=
    List.any_eq_true.mpr ⟨a, List.mem_of_find?_eq_some h, List.find?_some 
      (p := fun a : Sampled => a.occ.lapIndex == x.index && a.occ.slot == first) h⟩
  unfold State.sample
  split
  · rfl
  · exact if_pos noted

section
variable {s : State} {l : LinkId} {j : Job} {k : TableSet} {x : LapSpan} {first : Nat} {g : W32} {y : Transfer}
  (hy : k.xfer? (segXfer g) = some y) (fresh : (s.link l).sampled = []) (idle : (s.link l).deferred = [])
include hy fresh idle

/-- A bound SEND that is void, or whose feed has come whole, is noted and nothing else. -/
theorem State.sample_bound {b : BoundSend} (hb : j.boundAt y.number (j.occNumber k y.number x.index first) = some b)
    (ready : b.void ≠ 0 ∨ (s.link l).fedWhole y.number (x.occ first g) = true) :
    s.sample l j k x first g = s.modLink l (fun q => { q with
      sampled := [{ occ := x.occ first g, number := j.occNumber k y.number x.index first
                    outcome := if b.void = 0 then .present else .void }] }) := by
  have noted (o : SampleOutcome) : s.modLink l (fun q => { q with
      sampled := q.sampled ++ [{ occ := x.occ first g, number := j.occNumber k y.number x.index first, outcome := o }] })
      = s.modLink l (fun q => { q with
      sampled := [{ occ := x.occ first g, number := j.occNumber k y.number x.index first, outcome := o }] }) :=
    State.modLink_congr (by simp only [fresh, List.nil_append])
  by_cases hv : b.void = 0
  · have fed := ready.resolve_left (not_not_intro hv)
    simp [State.sample, hy, hb, fresh, idle, hv, fed, noted]
  · simp [State.sample, hy, hb, fresh, idle, hv, noted]

/-- With no SEND bound, or a feed that is late, the occurrence stumbles. -/
theorem State.sample_stumble (absent : j.boundAt y.number (j.occNumber k y.number x.index first) = none ∨
      ∃ b : BoundSend, j.boundAt y.number (j.occNumber k y.number x.index first) = some b ∧ b.void = 0 ∧
        (s.link l).fedWhole y.number (x.occ first g) = false) :
    s.sample l j k x first g = ((s.modLink l (fun q => { q with
        sampled := [{ occ := x.occ first g, number := j.occNumber k y.number x.index first, outcome := .stumble }]
        stumbles := satInc q.stumbles
        slipsRaised := satInc q.slipsRaised })).logAt Code.stumble j.fn.val ((slotLoc l.val j.lead x first).burst y.number x.index
          (j.dataBaton y.number (j.occNumber k y.number x.index first)))).raiseSlip j 1 (x.start + first) := by
  have noted : (s.modLink l (fun q => { q with
        sampled := q.sampled ++ [{ occ := x.occ first g, number := j.occNumber k y.number x.index first, outcome := .stumble }] })).modLink l
        (fun q => { q with stumbles := satInc q.stumbles, slipsRaised := satInc q.slipsRaised })
      = s.modLink l (fun q => { q with
        sampled := [{ occ := x.occ first g, number := j.occNumber k y.number x.index first, outcome := .stumble }]
        stumbles := satInc q.stumbles
        slipsRaised := satInc q.slipsRaised }) := by
    rw [State.modLink_modLink]
    exact State.modLink_congr (by simp only [Function.comp_apply, fresh, List.nil_append])
  rw [← noted]
  obtain hb | ⟨b, hb, hv, fed⟩ := absent
  · simp [State.sample, hy, hb, fresh]
  · simp [State.sample, hy, hb, fresh, idle, hv, fed]
end

/-- BATON_SAMPLE two beats before a burst takes its sample. -/
theorem exec_batonSample_burst {s u : State} {l : LinkId} {j : Job} {x : LapSpan} {k : TableSet} {g : W32} {slot : Nat}
    (up : s.up l = true) (hj : s.ownerRun l = some j) (hx : s.spanAhead j (s.pace.count.toNat + 2) = some x) (open_ : x.held = false)
    (hslot : slot = s.pace.count.toNat + 2 - x.start) (hk : s.readTables l j false x slot = (u, some (some k)))
    (hg : segAt slot (k.segsOf x.table) = some (slot, g)) (burst : segKind g = Seg.burst) :
    exec (.batonSample l) s = .next (u.sample l j k x slot g) := by
  subst hslot
  show execBatonSample l s = _
  simp only [execBatonSample, hj, hx, open_, up, Bool.not_true, Bool.or_self, Bool.false_eq_true, if_false, hk, hg, burst, BEq.rfl,
    Bool.and_self, if_true]

/-! Slots (Table 08-8). -/

/-- A frame time of a link with no owner in RUN. -/
theorem exec_slotSend_free {s : State} {l : LinkId} (up : s.up l = true) (hj : s.ownerRun l = none) :
    exec (.slotSend l) s = .next (s.freeSlot l none) := by
  show execSlotSend l s = _
  simp only [execSlotSend, up, hj, Bool.not_true, Bool.false_eq_true, if_false]

theorem State.sendBacklog_ownerless (s : State) (l : LinkId) :
    s.sendBacklog l none = (s.link l).backlog.head?.map fun _ => s.sendReplay l := by
  simp only [State.sendBacklog]
  cases (s.link l).backlog.head? <;> rfl

section
variable {s u : State} {l : LinkId} {j : Job} {q : LapState} {x : LapSpan} {slot : Nat} {set : Option TableSet}
  (up : s.up l = true) (hj : s.ownerRun l = some j) (hq : j.lap = some q) (begun : q.lapStart ≤ s.pace.count.toNat)
  (hx : j.spanAt s.pace.count.toNat = some x) (hslot : slot = s.pace.count.toNat - x.start)
  (hset : s.readTables l j false x slot = (u, some set))
include up hj hq begun hx hslot hset

theorem exec_slotSend_untabled (hk : set = none) : exec (.slotSend l) s = .next (u.spareSlot l j set x slot) := by
  subst hslot hk
  show execSlotSend l s = _
  simp [execSlotSend, up, hj, hq, begun, hx, hset]

variable {k : TableSet} {first : Nat} {g : W32} (hk : set = some k) (hg : segAt slot (k.segsOf x.table) = some (first, g))
include hk hg

theorem exec_slotSend_cells (kind : segKind g = Seg.u) : exec (.slotSend l) s = .next (u.sendCells l (some (j, x, slot))) := by
  subst hslot hk
  show execSlotSend l s = _
  simp [execSlotSend, up, hj, hq, begun, hx, hset, hg, kind]
theorem exec_slotSend_spare (notU : segKind g ≠ Seg.u) (spare : x.held = true ∨ segKind g = Seg.spare) :
    exec (.slotSend l) s = .next (u.spareSlot l j set x slot) := by
  subst hslot hk
  show execSlotSend l s = _
  simp [execSlotSend, up, hj, hq, begun, hx, hset, hg, notU, spare]
theorem exec_slotSend_idle (open_ : x.held = false) (kind : segKind g = Seg.idle) :
    exec (.slotSend l) s = .next (u.emit l FrameBody.null none false) := by
  subst hslot hk
  show execSlotSend l s = _
  simp [execSlotSend, up, hj, hq, begun, hx, hset, hg, open_, kind, Seg.idle, Seg.u, Seg.spare, Seg.burst, State.sendNull]
theorem exec_slotSend_burst (open_ : x.held = false) (kind : segKind g = Seg.burst) :
    exec (.slotSend l) s = .next (u.sendBurstSlot l j k x first g (slot - first)) := by
  subst hslot hk
  show execSlotSend l s = _
  simp [execSlotSend, up, hj, hq, begun, hx, hset, hg, open_, kind, Seg.u, Seg.spare, Seg.burst]
end

/-! Slots of a burst (R175). -/

/-- The sample of an occurrence has served its last slot. -/
def State.clearSample (s : State) (l : LinkId) (x : LapSpan) (first : Nat) : State :=
  s.modLink l (fun k => { k with sampled := k.sampled.filter (fun b => !(b.occ.lapIndex == x.index && b.occ.slot == first)) })

section
variable {s : State} {l : LinkId} {j : Job} {k : TableSet} {x : LapSpan} {first n i : Nat} {g : W32} {y : Transfer} {a : Sampled}
  {done : State → State}
  (hy : k.xfer? (segXfer g) = some y) (hn : n = segLen g - 1) (room : (s.link l).inBuffer < 248)
  (ha : (s.link l).sampled.find? (fun a => a.occ.lapIndex == x.index && a.occ.slot == first) = some a)
  (hdone : done = fun v => if i = n then v.clearSample l x first else v)
include hy hn room ha hdone

theorem State.sendBurstSlot_present {bs : List Byte} {b : BoundSend} {v : State} (out : a.outcome = .present)
    (fed : (s.link l).fed y.number a.occ i = some bs) (hb : j.boundAt y.number a.number = some b)
    (hv : v = done ((s.sendStored l (j.slotField (if i = 0 then 1 else 2) false false i n y.number x.index (first + i) (leNat bs)
      (if i = 0 then b.carried else 0))).modLink l
        (fun k => { k.dropFed y.number a.occ i with burstSlots := satInc k.burstSlots }))) :
    s.sendBurstSlot l j k x first g i = if i = n then v.sendDone j.id b else v := by
  subst hv hdone hn
  simp only [State.sendBurstSlot, State.sample_noted j k g ha, ite_self, ha, hy, out, fed, hb, State.sendBurst_buffer room]
  by_cases last : i = segLen g - 1
  · simp [last, State.clearSample]
  · simp [last]
theorem State.sendBurstSlot_void {b : BoundSend} {v : State} (out : a.outcome = .void) (hb : j.boundAt y.number a.number = some b)
    (hv : v = done (s.sendStored l (j.slotField 0 true false i n y.number x.index (first + i) 0 0))) :
    s.sendBurstSlot l j k x first g i = if i = 0 then v.sendDone j.id b else v := by
  subst hv hdone hn
  simp only [State.sendBurstSlot, State.sample_noted j k g ha, ite_self, ha, hy, out, hb, State.sendBurst_buffer room]
  cases i <;> simp [State.clearSample]
theorem State.sendBurstSlot_stumble {v : State} (out : a.outcome = .stumble)
    (hv : v = s.sendStored l (j.slotField 0 false true i n y.number x.index (first + i) 0 0)) :
    s.sendBurstSlot l j k x first g i = done (if i = 0 then v.modLink l (fun k => { k with
      deferred := k.deferred ++ [{ lead := j.lead, occ := a.occ, transfer := y.number, number := a.number,
                                   ready := (j.boundAt y.number a.number).isSome, nextSlot := 0 }] }) else v) := by
  subst hv hdone hn
  simp only [State.sendBurstSlot, State.sample_noted j k g ha, ite_self, ha, hy, out, State.sendBurst_buffer room]
  simp [State.clearSample]
end

/-! Deferred sends (R45, R49). -/

/-- DEFERRED_SEND sends where the frame time, when it lies in a lap, is one that a deferred send may use. -/
theorem exec_deferredSend_ready {s : State} {l : LinkId} {j : Job} (up : s.up l = true) (hj : s.ownerRun l = some j)
    (idle : (s.link l).backlog = []) (ready : s.deferredReady l j = true)
    (usable : ∀ x : LapSpan, j.spanAt s.pace.count.toNat = some x → ∃ k, j.activePlan.bind (·.set? l false) = some k ∧
      (if x.held then k.kindAt x.table (s.pace.count.toNat - x.start) ≠ Seg.u
       else k.kindAt x.table (s.pace.count.toNat - x.start) = Seg.spare)) :
    exec (.deferredSend l) s = .next ((s.sendDeferred l j).modLink l (fun k => { k with sparesUsed := satInc k.sparesUsed })) := by
  show execDeferredSend l s = _
  simp only [execDeferredSend, up, hj, idle, ready, Bool.not_true, Bool.false_eq_true, if_false, List.isEmpty_nil, Bool.and_true]
  refine congrArg Host.Outcome.next (if_pos ?_)
  cases hx : j.spanAt s.pace.count.toNat with
  | none => simp only [ite_self]
  | some x =>
    obtain ⟨k, hk, may⟩ := usable x hx
    split
    · rfl
    · next z hz =>
      obtain ⟨-, hz⟩ := Option.ite_none_right_eq_some.mp hz
      obtain rfl := Option.some.inj hz
      cases hh : x.held <;> simp_all

/-- Settles O25: each clause is the lemma above for that event, slot kind or operation. -/
theorem relayStationsSampleAndSend : Obligations.RelayStationsSampleAndSend := by
  unfold Obligations.RelayStationsSampleAndSend
  refine ⟨fun s l up => ⟨?sample, ?free, ?lap, ?cells, ?deferred, ?emit, fun b => rfl⟩, ?take⟩
  case sample =>
    intro u j x k g y slot hj hx open_ hslot hk hg burst hy fresh idle
    rw [exec_batonSample_burst up hj hx open_ hslot hk hg burst]
    exact ⟨fun b hb ready => congrArg _ (State.sample_bound hy fresh idle hb ready),
      fun absent => congrArg _ (State.sample_stumble hy fresh idle absent)⟩
  case free =>
    intro hj
    rw [exec_slotSend_free up hj]
    refine ⟨fun empty noCells => ?_, fun e rest he stored => ?_⟩
    · simp only [State.freeSlot, State.sendBacklog_ownerless, empty, List.head?_nil, Option.map_none]
      rw [State.sendCells_null (m := []) (v := []) (mc := (s.link l).creditMgmt) (vc := (s.link l).creditJob)] <;>
        simp [noCells, takeCells]
    · simp only [State.freeSlot, State.sendBacklog_ownerless, he, List.head?_cons, Option.map_some]
      rw [State.sendReplay_inBuffer he stored]
  case lap =>
    intro u j q x slot set hj hq begun hx hslot hset
    refine ⟨fun v spare hv => ?_, fun k first g hk hg => ⟨?_, ?_, ?_⟩⟩
    · have sent : exec (.slotSend l) s = .next (u.spareSlot l j set x slot) := by
        obtain rfl | ⟨k, first, g, hk, hg, notU, kind⟩ := spare
        · exact exec_slotSend_untabled up hj hq begun hx hslot hset rfl
        · exact exec_slotSend_spare up hj hq begun hx hslot hset hk hg notU kind
      subst hv
      exact ⟨fun h => by simp only [sent, State.spareSlot, h, State.sendNull],
        fun t h => by simp only [sent, State.spareSlot, h]⟩
    · exact exec_slotSend_cells up hj hq begun hx hslot hset hk hg
    · exact exec_slotSend_idle up hj hq begun hx hslot hset hk hg
    · intro a y n done open_ burst hy hn room ha hdone
      rw [exec_slotSend_burst up hj hq begun hx hslot hset hk hg open_ burst]
      exact ⟨fun bs b v out fed hb hv => congrArg _ (State.sendBurstSlot_present hy hn room ha hdone out fed hb hv),
        fun b v out hb hv => congrArg _ (State.sendBurstSlot_void hy hn room ha hdone out hb hv),
        fun v out hv => congrArg _ (State.sendBurstSlot_stumble hy hn room ha hdone out hv)⟩
  case cells =>
    intro w m v mc vc sound hm hv
    refine ⟨State.sendCells_null sound hm hv w, fun h room => ?_⟩
    rw [State.sendCells_some sound hm hv w h room]
    cases w <;> rfl
  case deferred => exact fun j hj idle ready usable => exec_deferredSend_ready up hj idle ready usable
  case emit =>
    intro b q r
    obtain ⟨k, he, wire, unacked, nextSeq, deferred, stage⟩ := s.emit_link l b q r
    exact ⟨k, he, wire, unacked, nextSeq, deferred, stage.trans (State.link_stage up)⟩
  case take =>
    intro l n c k us r h
    have taken := takeCells_frameCells l n c [] us
    simp only [h] at taken
    exact ⟨taken.sublist, taken.fits, taken.paid, taken.inOrder,
      fun short u hu hr => (taken.starved short u hu hr).resolve_left List.not_mem_nil⟩

end Sys2Proof.Machine
end

section
/-! SUPPORT and the statement of the invariant: every step keeps it, and the reset state meets it (R54, R335, R347, R348). -/

namespace Sys2Proof.Machine

/-! The commands that keep State.Steady: all but those that restart the standby domain, raise MAIN_PG, move device time, change a key slot, write
the trouble log, or write a register. -/

/-- Commands that may leave what State.Steady holds fast. -/
def mayUnsteady : Instr → Bool
  | .standbyPorRelease _ | .coldReset | .standbyFail | .i3cReset _ | .registerWrite .. | .mainConversionStart | .deviceTimeTick | .logWrite
  | .enroll _ | .revoke _ => true
  | _ => false

/-- Every other command keeps State.Steady: the lemma of its meaning. -/
theorem exec_steady {s s₀ out : State} (hs : s.Steady s₀) : ∀ c : Instr, mayUnsteady c = false → exec c s = .next out → out.Steady s₀
  | .stbyOutOfRange mv, _, h => execStbyOutOfRange_steady mv s hs out h
  | .boot flashWrites, _, h => execBoot_steady flashWrites s hs out h
  | .mainLow, _, h => execMainLow_steady s hs out h
  | .mainLost, _, h => execMainLost_steady s hs out h
  | .mainOvervolt, _, h => execMainOvervolt_steady s hs out h
  | .overcurrent, _, h => execOvercurrent_steady s hs out h
  | .mainDisabled, _, h => execMainDisabled_steady s hs out h
  | .sensorSample readings vin power vstby, _, h => execSensorSample_steady readings vin power vstby s hs out h
  | .tripClear, _, h => execTripClear_steady s hs out h
  | .perstLChange asserted, _, h => execPerstLChange_steady asserted s hs out h
  | .hostLinkDown, _, h => execHostLinkDown_steady s hs out h
  | .functionReset f, _, h => execFunctionReset_steady f s hs out h
  | .rackrefLost, _, h => execRackrefLost_steady s hs out h
  | .rackrefRestored, _, h => execRackrefRestored_steady s hs out h
  | .refsLost, _, h => execRefsLost_steady s hs out h
  | .timeRefFallback, _, h => execTimeRefFallback_steady s hs out h
  | .warmReset, _, h => execWarmReset_steady s hs out h
  | .mcReset, _, h => execMcReset_steady s hs out h
  | .mcWatchdogExpiry, _, h => execMcWatchdogExpiry_steady s hs out h
  | .tileReset t, _, h => execTileReset_steady t s hs out h
  | .sequencerReset d, _, h => execSequencerReset_steady d s hs out h
  | .peReset d, _, h => execPeReset_steady d s hs out h
  | .unitHung u, _, h => execUnitHung_steady u s hs out h
  | .holdExit u, _, h => execHoldExit_steady u s hs out h
  | .mark power delay, _, h => execMark_steady power delay s hs out h
  | .markLost, _, h => execMarkLost_steady s hs out h
  | .slackReport l cls thermal, _, h => execSlackReport_steady l cls thermal s hs out h
  | .gradeAnnouncement l grade t, _, h => execGradeAnnouncement_steady l grade t s hs out h
  | .gradeChange, _, h => execGradeChange_steady s hs out h
  | .slipRequest l cause job origin, _, h => execSlipRequest_steady l cause job origin s hs out h
  | .lapBoundary lead, _, h => execLapBoundary_steady lead s hs out h
  | .counterSnapshot, _, h => execCounterSnapshot_steady s hs out h
  | .batonSample l, _, h => execBatonSample_steady l s hs out h
  | .slotSend l, _, h => execSlotSend_steady l s hs out h
  | .deferredSend l, _, h => execDeferredSend_steady l s hs out h
  | .frameReceive l frame phase, _, h => execFrameReceive_steady l frame phase s hs out h
  | .signalLost l, _, h => execSignalLost_steady l s hs out h
  | .ackUpdate l, _, h => execAckUpdate_steady l s hs out h
  | .replayTimeout l, _, h => execReplayTimeout_steady l s hs out h
  | .spillAbandoned l, _, h => execSpillAbandoned_steady l s hs out h
  | .laneFailure l dir lane kind, _, h => execLaneFailure_steady l dir lane kind s hs out h
  | .laneSwap l dir, _, h => execLaneSwap_steady l dir s hs out h
  | .presenceChange l present, _, h => execPresenceChange_steady l present s hs out h
  | .partnerReset l, _, h => execPartnerReset_steady l s hs out h
  | .linkDownComplete l, _, h => execLinkDownComplete_steady l s hs out h
  | .cableIdRead l id, _, h => execCableIdRead_steady l id s hs out h
  | .wakePatternSeen l, _, h => execWakePatternSeen_steady l s hs out h
  | .listenTimeout l, _, h => execListenTimeout_steady l s hs out h
  | .listenBackoffEnd l, _, h => execListenBackoffEnd_steady l s hs out h
  | .alignDone l tx rx, _, h => execAlignDone_steady l tx rx s hs out h
  | .identifyDone l machine chip port, _, h => execIdentifyDone_steady l machine chip port s hs out h
  | .trainDone l noisyTx noisyRx, _, h => execTrainDone_steady l noisyTx noisyRx s hs out h
  | .checkDone l framesGood delay partnerEpoch, _, h => execCheckDone_steady l framesGood delay partnerEpoch s hs out h
  | .stageTimeout l, _, h => execStageTimeout_steady l s hs out h
  | .linkReset l, _, h => execLinkReset_steady l s hs out h
  | .retrain l, _, h => execRetrain_steady l s hs out h
  | .zlCtrlEnable l enable, _, h => execZlCtrlEnable_steady l enable s hs out h
  | .planDigest, _, h => execPlanDigest_steady s hs out h
  | .digestDeadline lead, _, h => execDigestDeadline_steady lead s hs out h
  | .jobAbort, _, h => execJobAbort_steady s hs out h
  | .cellRequest, _, h => execCellRequest_steady s hs out h
  | .cellReply, _, h => execCellReply_steady s hs out h
  | .cellTimeout mgmt slot, _, h => execCellTimeout_steady mgmt slot s hs out h
  | .counterReq, _, h => execCounterReq_steady s hs out h
  | .ringOccurrence lead transfer err, _, h => execRingOccurrence_steady lead transfer err s hs out h
  | .scrubWord place upset, _, h => execScrubWord_steady place upset s hs out h
  | .mapScrub p, _, h => execMapScrub_steady p s hs out h
  | .planTableScrub l, _, h => execPlanTableScrub_steady l s hs out h
  | .zeroingDone p, _, h => execZeroingDone_steady p s hs out h
  | .partitionScrubDone p, _, h => execPartitionScrubDone_steady p s hs out h
  | .sequencerIssue d, _, h => execSequencerIssue_steady d s hs out h
  | .pickerDispatch t, _, h => execPickerDispatch_steady t s hs out h
  | .commandComplete t e, _, h => execCommandComplete_steady t e s hs out h
  | .batonTimeout place, _, h => execBatonTimeout_steady place s hs out h
  | .nop p k, _, h => execNop_steady p k s hs out h
  | .endCircuit p k, _, h => execEndCircuit_steady p k s hs out h
  | .fence p k, _, h => execFence_steady p k s hs out h
  | .matmul t, _, h => execMatmul_steady t s hs out h
  | .conv2d t, _, h => execConv2d_steady t s hs out h
  | .add t, _, h => execAdd_steady t s hs out h
  | .sub t, _, h => execSub_steady t s hs out h
  | .mul t, _, h => execMul_steady t s hs out h
  | .fma t, _, h => execFma_steady t s hs out h
  | .max t, _, h => execMax_steady t s hs out h
  | .min t, _, h => execMin_steady t s hs out h
  | .abs t, _, h => execAbs_steady t s hs out h
  | .neg t, _, h => execNeg_steady t s hs out h
  | .relu t, _, h => execRelu_steady t s hs out h
  | .clamp t, _, h => execClamp_steady t s hs out h
  | .recip t, _, h => execRecip_steady t s hs out h
  | .rsqrt t, _, h => execRsqrt_steady t s hs out h
  | .exp t, _, h => execExp_steady t s hs out h
  | .log t, _, h => execLog_steady t s hs out h
  | .tanh t, _, h => execTanh_steady t s hs out h
  | .sigmoid t, _, h => execSigmoid_steady t s hs out h
  | .convert t, _, h => execConvert_steady t s hs out h
  | .rsum t, _, h => execRsum_steady t s hs out h
  | .rmax t, _, h => execRmax_steady t s hs out h
  | .rmin t, _, h => execRmin_steady t s hs out h
  | .rsumsq t, _, h => execRsumsq_steady t s hs out h
  | .copy t, _, h => execCopy_steady t s hs out h
  | .fill t, _, h => execFill_steady t s hs out h
  | .gather t, _, h => execGather_steady t s hs out h
  | .scatter t, _, h => execScatter_steady t s hs out h
  | .send lead station, _, h => execSend_steady lead station s hs out h
  | .recv lead station, _, h => execRecv_steady lead station s hs out h
  | .put lead, _, h => execPut_steady lead s hs out h
  | .get lead, _, h => execGet_steady lead s hs out h
  | .cmpAny t, _, h => execCmpAny_steady t s hs out h
  | .cmpAll t, _, h => execCmpAll_steady t s hs out h
  | .cmpPayload t, _, h => execCmpPayload_steady t s hs out h
  | .setBit t, _, h => execSetBit_steady t s hs out h
  | .hurdle p k, _, h => execHurdle_steady p k s hs out h
  | .hurdleReached lead, _, h => execHurdleReached_steady lead s hs out h
  | .frame d, _, h => execFrame_steady d s hs out h
  | .load, _, h => execLoad_steady s hs out h
  | .loadTakeUp, _, h => execLoadTakeUp_steady s hs out h
  | .loadComplete, _, h => execLoadComplete_steady s hs out h
  | .unload, _, h => execUnload_steady s hs out h
  | .start, _, h => execStart_steady s hs out h
  | .jobStart lead, _, h => execJobStart_steady lead s hs out h
  | .jobCompletion lead, _, h => execJobCompletion_steady lead s hs out h
  | .endDescriptor, _, h => execEndDescriptor_steady s hs out h
  | .hurdleRelease, _, h => execHurdleRelease_steady s hs out h
  | .hurdleResume lead, _, h => execHurdleResume_steady lead s hs out h
  | .hurdleStop, _, h => execHurdleStop_steady s hs out h
  | .park, _, h => execPark_steady s hs out h
  | .resume, _, h => execResume_steady s hs out h
  | .transfer, _, h => execTransfer_steady s hs out h
  | .headerClaim, _, h => execHeaderClaim_steady s hs out h
  | .windowClose, _, h => execWindowClose_steady s hs out h
  | .predicate, _, h => execPredicate_steady s hs out h
  | .query, _, h => execQuery_steady s hs out h
  | .logRead, _, h => execLogRead_steady s hs out h
  | .partitionReset, _, h => execPartitionReset_steady s hs out h
  | .mgmtRead, _, h => execMgmtRead_steady s hs out h
  | .mgmtWrite, _, h => execMgmtWrite_steady s hs out h
  | .doorbellSnoop f completion n writes, _, h => execDoorbellSnoop_steady f completion n writes s hs out h
  | .doorbellPoll f completion n writes, _, h => execDoorbellPoll_steady f completion n writes s hs out h
  | .descriptorFetch f n, _, h => execDescriptorFetch_steady f n s hs out h
  | .interruptDelay f n, _, h => execInterruptDelay_steady f n s hs out h
  | .ringSqEnable f n writes, _, h => execRingSqEnable_steady f n writes s hs out h
  | .ringSqDisable f n, _, h => execRingSqDisable_steady f n s hs out h
  | .ringCqEnable f n writes, _, h => execRingCqEnable_steady f n writes s hs out h
  | .ringCqDisable f n, _, h => execRingCqDisable_steady f n s hs out h
  | .setupLock f, _, h => execSetupLock_steady f s hs out h
  | .hiuDblMode f snoop, _, h => execHiuDblMode_steady f snoop s hs out h
  | .hiuBind p v, _, h => execHiuBind_steady p v s hs out h
  | .mgtTopology v, _, h => execMgtTopology_steady v s hs out h
  | .mgtChipId v, _, h => execMgtChipId_steady v s hs out h
  | .mgtMachineId v, _, h => execMgtMachineId_steady v s hs out h
  | .zlPeerExpect l v, _, h => execZlPeerExpect_steady l v s hs out h
  | .planSlice n v, _, h => execPlanSlice_steady n v s hs out h
  | .fwUpdate, _, h => execFwUpdate_steady s hs out h
  | .fwSwitchComplete flashOk, _, h => execFwSwitchComplete_steady flashOk s hs out h
  | .jtagInstruction op, _, h => execJtagInstruction_steady op s hs out h
  | .i3cRegRead index, _, h => execI3cRegRead_steady index s hs out h
  | .i3cRegWrite index v, _, h => execI3cRegWrite_steady index v s hs out h
  | .sensorRead index, _, h => execSensorRead_steady index s hs out h
  | .i3cLogRead slot, _, h => execI3cLogRead_steady slot s hs out h
  | .linkStatus, _, h => execLinkStatus_steady s hs out h
  | .memRead addr form len, _, h => execMemRead_steady addr form len s hs out h
  | .memWrite addr form len data, _, h => execMemWrite_steady addr form len data s hs out h
  | .getVersion, _, h => execGetVersion_steady s hs out h
  | .getCapabilities, _, h => execGetCapabilities_steady s hs out h
  | .negotiateAlgorithms, _, h => execNegotiateAlgorithms_steady s hs out h
  | .getDigests, _, h => execGetDigests_steady s hs out h
  | .getCertificate, _, h => execGetCertificate_steady s hs out h
  | .challenge nonce, _, h => execChallenge_steady nonce s hs out h
  | .getMeasurements index, _, h => execGetMeasurements_steady index s hs out h
  | .ethFrameReceive p sub frame good phase, _, h => execEthFrameReceive_steady p sub frame good phase s hs out h
  | .zshManagement, _, h => execZshManagement_steady s hs out h
  | .zshJobControl, _, h => execZshJobControl_steady s hs out h
  | .zshStreaming, _, h => execZshStreaming_steady s hs out h
  | .streamChunk n, _, h => execStreamChunk_steady n s hs out h
  | .zshLogExport, _, h => execZshLogExport_steady s hs out h
  | .svcPortUp p sub, _, h => execSvcPortUp_steady p sub s hs out h
  | .svcPortDown p sub, _, h => execSvcPortDown_steady p sub s hs out h
  | .svcTx phase, _, h => execSvcTx_steady phase s hs out h
  | .svcSpMode p v, _, h => execSvcSpMode_steady p v s hs out h
  | .svcTringEnable n, _, h => execSvcTringEnable_steady n s hs out h
  | .svcTringDisable n, _, h => execSvcTringDisable_steady n s hs out h
  | .ptpIncr v, _, h => execPtpIncr_steady v s hs out h
  | .stepGo force, _, h => execStepGo_steady force s hs out h
  | .setGo force, _, h => execSetGo_steady force s hs out h
  | .ptpTimeNs, _, h => execPtpTimeNs_steady s hs out h
  | .ptpSpTxts0 p, _, h => execPtpSpTxts0_steady p s hs out h
  | .ptpPaceCount thenTime, _, h => execPtpPaceCount_steady thenTime s hs out h
  | .logHoldoffExpiry scope, _, h => execLogHoldoffExpiry_steady scope s hs out h
  | .hostLinkUp rate width mode setup, _, h => execHostLinkUp_steady rate width mode setup s hs out h
  | .localrefReturn, _, h => execLocalrefReturn_steady s hs out h
  | .pauseExpiry p sub, _, h => execPauseExpiry_steady p sub s hs out h
  | .mainLowClear, _, h => execMainLowClear_steady s hs out h

/-! The others keep the invariant itself. -/

theorem State.overHost_inv {s t : State} {g : State → State} (h : s.Inv) (hg : (g s).Inv) (ht : s.overHost g = .next t) : t.Inv := by
  unfold State.overHost at ht
  cases ht
  split
  · exact hg
  · exact h
theorem State.i3c_inv {s t : State} {g : State → State} (h : s.Inv) (hg : (g s).Inv) (ht : s.i3c g = .next t) : t.Inv := by
  unfold State.i3c at ht
  cases ht
  split
  · exact hg
  · exact h
theorem State.modPower_inv (s : State) (f : Power → Power) (h : s.Inv) : (s.modPower f).Inv := ⟨h.sram, h.host, h.flash, h.ns, h.input, h.log⟩
/-- The log's slots and queue after an entry has been taken (R347, R348). -/
theorem State.logged_inv {s : State} (e : LogEntry) (h : s.Inv) : (s.logged e).Inv := by
  have hw := TroubleLog.write_wf { s.log with input := s.log.input.erase e } e (h.log.of_eq rfl rfl rfl)
  have hl : ({ s.log with input := s.log.input.erase e }.write e).1.input.length ≤ 256 := List.length_erase_le.trans h.input
  have ht : State.Inv { s with log := ({ s.log with input := s.log.input.erase e }.write e).1 } := ⟨h.sram, h.host, h.flash, h.ns, hl, hw⟩
  unfold State.logged
  dsimp only
  split
  · exact State.modPower_inv _ _ ht
  · exact ht

theorem execStandbyPorRelease_inv {strap : BitVec 3} {s t : State} (h : s.Inv) (ht : execStandbyPorRelease strap s = .next t) : t.Inv := by
  unfold execStandbyPorRelease at ht
  cases ht
  split
  · exact h
  · exact (State.coldStart_inv _ (State.modPower_inv _ _ (s.outside_inv h))).1
theorem execColdReset_inv {s t : State} (h : s.Inv) (ht : execColdReset s = .next t) : t.Inv := by
  unfold execColdReset at ht
  cases ht
  split
  · exact (s.coldReset_inv h).1
  · exact h
theorem execStandbyFail_inv {s t : State} (h : s.Inv) (ht : execStandbyFail s = .next t) : t.Inv := by
  unfold execStandbyFail at ht
  cases ht
  split
  · exact s.outside_inv h
  · exact h
/-- Conversion starts: MAIN_PG rises, which is all that State.Steady forbids. -/
theorem execMainConversionStart_inv {s t : State} (h : s.Inv) (ht : execMainConversionStart s = .next t) : t.Inv :=
  (execMainConversionStart_steady s h.steady.powered rfl t ht).inv (State.modPower_inv s (fun p => { p with mainPg := true }) h)
theorem execI3cReset_inv {v : W32} {s t : State} (h : s.Inv) (ht : execI3cReset v s = .next t) : t.Inv := by
  refine State.i3c_inv h ?_ ht
  have hr := (s.setReset_inv v h).1
  dsimp only
  split
  · exact hr
  · exact (i3cAnswer_steady _ _ hr.steady).inv hr
theorem execRegisterWrite_inv {f : FnId} {off : BitVec 20} {size : Fin 9} {v : W64} {s t : State} (h : s.Inv)
    (ht : execRegisterWrite f off size v s = .next t) : t.Inv := by
  refine State.overHost_inv h ?_ ht
  split
  · exact (s.regWrite_inv f off _ v h).1
  · exact s.logs_inv _ _ _ h
theorem Clock.advance_ns (c : Clock) : c.advance.ns.toNat < 10 ^ 9 := Clock.put_ns c _
theorem exec_deviceTimeTick_inv {s t : State} (h : s.Inv) (ht : exec .deviceTimeTick s = .next t) : t.Inv := by
  cases hp : s.power.porReleased with
  | false =>
    rw [exec_deviceTimeTick_off hp] at ht
    cases ht
    exact h
  | true =>
    rw [exec_deviceTimeTick hp] at ht
    cases ht
    exact State.modClock_inv _ _ (s.applyChange_inv h).1 (Clock.advance_ns _)
theorem exec_logWrite_inv {s t : State} (h : s.Inv) (ht : exec .logWrite s = .next t) : t.Inv := by
  cases hi : s.log.input with
  | nil =>
    rw [exec_logWrite_none hi] at ht
    cases ht
    exact h
  | cons o rest =>
    obtain ⟨fns, hiu, svc, he⟩ := exec_logWrite_due (TroubleLog.due_cons hi)
    rw [he] at ht
    cases ht
    have hl := State.logged_inv ((rest.takeWhile o.sameBeat).foldl LogEntry.lower o) h
    exact ⟨hl.sram, hl.host, hl.flash, hl.ns, hl.input, hl.log⟩

/-- Every command keeps the invariant. -/
theorem exec_inv {s t : State} (h : s.Inv) (c : Instr) (ht : exec c s = .next t) : t.Inv := by
  cases hc : mayUnsteady c with
  | false => exact (exec_steady h.steady c hc ht).inv h
  | true =>
    cases c with
    | standbyPorRelease strap => exact execStandbyPorRelease_inv h ht
    | coldReset => exact execColdReset_inv h ht
    | standbyFail => exact execStandbyFail_inv h ht
    | mainConversionStart => exact execMainConversionStart_inv h ht
    | enroll k => exact State.overHost_inv (g := (·.enroll k)) h (s.enroll_inv k h).1 ht
    | revoke k => exact State.overHost_inv (g := (·.revoke k)) h (s.revoke_inv k h).1 ht
    | i3cReset v => exact execI3cReset_inv h ht
    | registerWrite f off size v => exact execRegisterWrite_inv h ht
    | deviceTimeTick => exact exec_deviceTimeTick_inv h ht
    | logWrite => exact exec_logWrite_inv h ht
    | _ => cases hc

/-- Settles O3: on an empty queue a beat keeps State.Steady, and the front command keeps the invariant whatever it is. -/
theorem everyStepKeepsTheInvariant : Obligations.EveryStepKeepsTheInvariant := by
  intro s t h ht
  cases hq : s.pending with
  | nil =>
    rw [step_of_empty hq] at ht
    cases ht
    exact (passBeat_steady s h.steady).inv h
  | cons c rest =>
    rw [step_of_pending hq] at ht
    exact exec_inv (s := { s with pending := rest }) ⟨h.sram, h.host, h.flash, h.ns, h.input, h.log⟩ c ht

/-- Settles O4: at reset the memories and the log are empty, and device time is 0. -/
theorem resetMeetsTheInvariant : Obligations.ResetMeetsTheInvariant :=
  ⟨rfl, rfl, rfl, by decide, by decide, TroubleLog.reset_wf⟩

end Sys2Proof.Machine
end

section
/-! SUPPORT and the statement of the start of main conversion and of the sensors (R61, R369, R372, R382, R383). -/

namespace Sys2Proof.Machine

theorem State.hand_slots (s : State) (c : W16) (v : Nat) (b : LogBody) (k : Nat) : (s.hand c v b k).log.slots = s.log.slots := by
  unfold State.hand
  rw [State.modLog_log]
  split <;> rfl
theorem State.logs_slots (s : State) (c : W16) (v k : Nat) : (s.logs c v k).log.slots = s.log.slots := s.hand_slots c v _ k
theorem State.logs_eq (s : State) (c : W16) (v k : Nat) : s.logs c v k = { s with log := (s.logs c v k).log } := s.hand_eq c v _ k

/-! MAIN_CONVERSION_START (R61, R369, R372). -/

theorem State.listenOrOff_links (s : State) (l : LinkId) : ∃ ks, s.listenOrOff l = { s with links := ks } := by
  unfold State.listenOrOff
  split <;> exact ⟨_, rfl⟩
/-- MAIN_PG is high again, once that is logged where a cause had stopped conversion. -/
def State.powerUp (s : State) : State :=
  (if s.power.stopped then s.logs Code.mainRestored else s).modPower (fun p => { p with mainPg := true, stopped := false })
theorem State.powerUp_eq (s : State) : ∃ log, log.slots = s.log.slots ∧
    s.powerUp = { s with log := log, power := { s.power with mainPg := true, stopped := false } } := by
  unfold State.powerUp
  split
  · rw [State.logs_eq]; exact ⟨_, s.logs_slots .., rfl⟩
  · exact ⟨_, rfl, rfl⟩
/-- What a start of conversion leaves: every partition zeroes towards MARKS, the port may train, the links listen. -/
theorem exec_mainConversionStart {s : State} (hp : s.power.porReleased = true) (hm : s.power.mainPg = false) (he : s.power.mainEn = true)
    (ht : s.power.trip = false) (ho : s.power.overcurrent = false) : ∃ ks, exec .mainConversionStart s =
      .next ((({ s.powerUp.zeroAll with links := ks } : State).modHiu (fun h => { h with port := s.powerUp.power.portStage, downEpisode := false })).modPace
        (fun q => { q with count := 0 })) := by
  obtain ⟨ks, hk⟩ := foldl_changes_links State.listenOrOff_links allLinks
    (s.powerUp.zeroAll.modHiu (fun h => { h with port := s.powerUp.power.portStage, downEpisode := false }))
  refine ⟨ks, ?_⟩
  show execMainConversionStart s = _
  unfold execMainConversionStart
  dsimp only
  rw [if_neg (by simp [hp, hm, he, ht, ho])]
  exact congrArg (fun t : State => Host.Outcome.next (t.modPace (fun q => { q with count := 0 }))) hk
theorem State.zeroAll_part (s : State) (p : PartId) : s.zeroAll.part p = (s.part p).leave .marks := by
  simp [State.zeroAll, State.part]

/-! SENSOR_SAMPLE (R382). -/

/-- Only the log, and the flags and alerts that sensors raise, differ. -/
def State.Flagged (t s : State) : Prop := ∃ log degraded thermal episode status,
  t = { s with
    log := log
    power := { s.power with degraded := degraded, thermal := thermal, thermalEpisode := episode, alertStatus := status } }
theorem State.Flagged.refl (s : State) : s.Flagged s := ⟨_, _, _, _, _, rfl⟩
theorem State.Flagged.logs {t s : State} (h : t.Flagged s) (c : W16) (v k : Nat) : (t.logs c v k).Flagged s := by
  obtain ⟨log, degraded, thermal, episode, status, rfl⟩ := h
  rw [State.logs_eq]
  exact ⟨_, _, _, _, _, rfl⟩
theorem State.Flagged.alert {t s : State} (h : t.Flagged s) (n : Nat) : (t.alert n).Flagged s := by
  obtain ⟨log, degraded, thermal, episode, status, rfl⟩ := h
  exact ⟨_, _, _, _, _, rfl⟩
theorem State.Flagged.degraded {t s : State} (h : t.Flagged s) (g : Vector Bool 4 → Vector Bool 4) :
    (t.modPower (fun p => { p with degraded := g p.degraded })).Flagged s := by
  obtain ⟨log, degraded, thermal, episode, status, rfl⟩ := h
  exact ⟨_, _, _, _, _, rfl⟩
theorem State.Flagged.thermal {t s : State} (h : t.Flagged s) (flag episode : Bool) :
    (t.modPower (fun p => { p with thermal := flag, thermalEpisode := episode })).Flagged s := by
  obtain ⟨log, degraded, thermal, old, status, rfl⟩ := h
  exact ⟨_, _, _, _, _, rfl⟩
theorem foldl_flagged {α : Type} {f : State → α → State} {s : State} (hf : ∀ t x, t.Flagged s → (f t x).Flagged s) (l : List α) {t : State}
    (h : t.Flagged s) : (l.foldl f t).Flagged s := by
  induction l generalizing t with
  | nil => exact h
  | cons x l ih => exact ih (hf t x h)
theorem State.Flagged.checkDegraded {t s : State} (h : t.Flagged s) : t.checkDegraded.Flagged s := by
  refine foldl_flagged (fun t d ht => ?_) _ h
  have hd := ht.degraded (fun v => vset v d (decide (t.power.goodOn d < 8)))
  dsimp only
  split
  · exact hd.logs ..
  · exact hd
theorem State.Flagged.checkThermal {t s : State} (h : t.Flagged s) : t.checkThermal.Flagged s := by
  unfold State.checkThermal
  extract_lets p deg any flag episode u v
  have hu : u.Flagged s := h.thermal flag episode
  have hv : v.Flagged s := by
    show (if flag && !p.thermal then u.alert 1 else u).Flagged s
    split
    · exact hu.alert 1
    · exact hu
  split
  · exact hv.logs ..
  · exact hv

/-- The inputs and sensors as a sample leaves them. -/
def State.sampled (s : State) (r : Vector (BitVec 16) 64) (vin pw : BitVec 12) (vs : BitVec 8) : State :=
  s.modPower (fun p =>
    { p with
      sensors := Vector.ofFn (fun i : Fin 64 => (s.power.sensors[i].take r[i]).1), vin := vin, powerW := pw, vstby := vs
      peakPower := if p.peakPower.toNat < pw.toNat then pw else p.peakPower })
/-- A sample at which no sensor is hot for the second time in a row. -/
theorem exec_sensorSample_cool {s : State} {r : Vector (BitVec 16) 64} (vin pw : BitVec 12) (vs : BitVec 8) (hp : s.power.porReleased = true)
    (h : ∀ i : Fin 64, s.power.sensors[i].hot = true → ((s.power.sensors[i].take r[i]).1).hot = false) :
    ∃ t, exec (.sensorSample r vin pw vs) s = .next t ∧ t.Flagged (s.sampled r vin pw vs) := by
  show ∃ t, execSensorSample r vin pw vs s = .next t ∧ _
  unfold execSensorSample
  extract_lets old new trip failed u v w
  have htrip : trip = false := by
    refine List.any_eq_false.2 fun i _ => ?_
    cases hh : old[i].hot with
    | false => simp
    | true => simpa [new] using h i hh
  have hv : v.Flagged u := foldl_flagged (fun t _ ht => ht.logs ..) failed (State.Flagged.refl u)
  rw [if_neg (by simp [hp]), if_neg (by simp [htrip])]
  exact ⟨w, rfl, hv.checkDegraded.checkThermal⟩

/-- Settles O13: what the start leaves is `exec_mainConversionStart`, and of a sample the flags and the log alone are left open. -/
theorem conversionStartsAndSensorsAreSampled : Obligations.ConversionStartsAndSensorsAreSampled := by
  refine fun s => ⟨fun hp hm he ht ho => ?start, fun r vin pw vs hp h => ?sample⟩
  case start =>
    obtain ⟨ks, hk⟩ := exec_mainConversionStart hp hm he ht ho
    have hparts := s.powerUp.zeroAll_part
    obtain ⟨log, hlog, hu⟩ := s.powerUp_eq
    rw [hu] at hk hparts
    refine ⟨_, hk, rfl, rfl, rfl, fun p => ?_, rfl, rfl, rfl, rfl, hlog, rfl⟩
    have hst := congrArg Partition.st (hparts p)
    have hzero := congrArg Partition.zeroing (hparts p)
    have howner := congrArg Partition.owner (hparts p)
    exact ⟨hst, hzero, howner⟩
  case sample =>
    obtain ⟨t, hx, log, degraded, thermal, episode, status, rfl⟩ := exec_sensorSample_cool vin pw vs hp h
    exact ⟨_, hx, rfl, rfl, rfl, fun i => by simp [State.sampled], rfl, rfl, rfl, rfl, rfl, rfl⟩

end Sys2Proof.Machine
end

section
/-! SUPPORT and the statement of the scrubs (R57 to R60, R69, R73, R187, Tables 03-2, 03-11, 08-8). -/

namespace Sys2Proof.Machine

/-! Upsets (R57). -/

/-- Errors of one word set aside: those of every other stand. -/
theorem find?_filter_key (l : List (Nat × EccErr)) (w k : Nat) :
    (l.filter (fun e => e.1 != w)).find? (fun e => e.1 == k) = if k = w then none else l.find? (fun e => e.1 == k) := by
  rw [List.find?_filter]
  by_cases h : k = w
  · subst h; simp
  · simp only [if_neg h]
    congr 1
    funext e
    by_cases he : e.1 = k <;> simp [he, h]
theorem State.strike_plot_double {s : State} {w : Fin (2 ^ 32)} (e : EccErr) (h : s.eccAt w.val = some .double) :
    s.strike (.sram (.plot w), e) = s := by
  simp only [State.strike]
  exact if_pos (by rw [h]; rfl)
theorem State.strike_plot {s : State} {w : Fin (2 ^ 32)} (e : EccErr) (h : s.eccAt w.val ≠ some .double) :
    s.strike (.sram (.plot w), e) = s.modSram (fun m => { m with ecc := (w.val, e) :: m.ecc.filter (fun e => e.1 != w.val) }) := by
  simp only [State.strike]
  exact if_neg (by simpa using h)
theorem State.strike_plot_eccAt (s : State) (w : Fin (2 ^ 32)) (e : EccErr) :
    (s.strike (.sram (.plot w), e)).eccAt w.val = some (if s.eccAt w.val = some .double then .double else e) := by
  by_cases h : s.eccAt w.val = some .double
  · rw [State.strike_plot_double e h, if_pos h, h]
  · rw [State.strike_plot e h, if_neg h]
    simp [State.eccAt]
theorem State.strike_plot_other (s : State) (w : Fin (2 ^ 32)) (e : EccErr) {k : Nat} (hk : k ≠ w.val) :
    (s.strike (.sram (.plot w), e)).eccAt k = s.eccAt k := by
  by_cases h : s.eccAt w.val = some .double
  · rw [State.strike_plot_double e h]
  · have hw : (w.val == k) = false := by simpa using hk.symm
    simp only [State.strike_plot e h, State.eccAt, State.modSram_sram, List.find?_cons, hw, find?_filter_key, if_neg hk]
/-- The unit as an upset leaves it. -/
theorem RingUnit.struck (u : RingUnit) (e : EccErr) :
    (if u.place.isSome && u.err != some .double then { u with err := some e } else u) =
      if u.place = none then u else { u with err := some (if u.err = some .double then .double else e) } := by
  by_cases hp : u.place = none
  · simp [hp]
  · rw [if_neg hp]
    by_cases he : u.err = some .double
    · rw [if_neg (by simp [he]), if_pos he, ← he]
    · rw [if_pos (by simpa [Option.isSome_iff_ne_none, he] using hp), if_neg he]
theorem State.strike_ring_transit (s : State) (n k : Nat) (e : EccErr) : (s.strike (.ring n, e)).infield.transit[k]? =
    (fun u : RingUnit => if n = k then (if u.place.isSome && u.err != some .double then { u with err := some e } else u) else u) <$>
      s.infield.transit[k]? := by
  show (s.infield.transit.modify n _)[k]? = _
  exact List.getElem?_modify ..

/-! Rows (R59). -/

/-- Retiring a row changes the log, the spares and the lists of rows alone. -/
structure State.RowsOf (t s : State) : Prop where
  eq : ∃ log sram, t = { s with log := log, sram := sram }
  mem : t.sram.mem = s.sram.mem
  ecc : t.sram.ecc = s.sram.ecc
  corrected : t.sram.corrected = s.sram.corrected
theorem State.logAt_eq (s : State) (c : W16) (v : Nat) (r : Loc) : s.logAt c v r = { s with log := (s.logAt c v r).log } := s.hand_eq c v _ _
@[simp] theorem State.logAt_part (s : State) (c : W16) (v : Nat) (r : Loc) (p : PartId) : (s.logAt c v r).part p = s.part p := by simp [State.part]
theorem State.RowsOf.logAt {t s : State} (h : t.RowsOf s) (c : W16) (v : Nat) (r : Loc) : (t.logAt c v r).RowsOf s := by
  obtain ⟨⟨log, sram, rfl⟩, hm, he, hc⟩ := h
  rw [State.logAt_eq]
  exact ⟨⟨_, _, rfl⟩, hm, he, hc⟩
theorem State.retireRow_rows (s : State) (d : DieId) (row vf : Nat) (r : Loc) : (s.retireRow d row vf r).RowsOf s := by
  have modified (f : Sram → Sram) (hm : (f s.sram).mem = s.sram.mem) (he : (f s.sram).ecc = s.sram.ecc)
      (hc : (f s.sram).corrected = s.sram.corrected) : (s.modSram f).RowsOf s := ⟨⟨s.log, f s.sram, rfl⟩, hm, he, hc⟩
  unfold State.retireRow
  split
  · exact modified id rfl rfl rfl
  · split
    · split
      · exact modified id rfl rfl rfl
      · exact (modified _ rfl rfl rfl).logAt ..
    · exact (modified _ rfl rfl rfl).logAt ..
/-- A row that is on no spare is retired while one is left. -/
theorem State.retireRow_retired {s : State} {d : DieId} {row : Nat} (vf : Nat) (r : Loc) (hs : s.sram.spares[d] ≠ 0)
    (hr : s.sram.retired.contains row = false) : (s.retireRow d row vf r).sram.retired = row :: s.sram.retired ∧
      (s.retireRow d row vf r).sram.spares[d] + 1 = s.sram.spares[d] := by
  unfold State.retireRow
  rw [if_neg (by rw [hr]; exact Bool.false_ne_true), if_neg hs, State.logAt_sram, State.modSram_sram]
  refine ⟨rfl, ?_⟩
  rw [vmod_same]
  exact Nat.sub_add_cancel (Nat.pos_of_ne_zero hs)
theorem State.RowsOf.parts {t s : State} (h : t.RowsOf s) : t.parts = s.parts := by obtain ⟨⟨log, sram, rfl⟩, -⟩ := h; rfl
theorem State.RowsOf.jobs {t s : State} (h : t.RowsOf s) : t.jobs = s.jobs := by obtain ⟨⟨log, sram, rfl⟩, -⟩ := h; rfl
theorem State.RowsOf.eccAt {t s : State} (h : t.RowsOf s) (w : Nat) : t.eccAt w = s.eccAt w := by simp only [State.eccAt, h.ecc]
theorem State.RowsOf.part {t s : State} (h : t.RowsOf s) (p : PartId) : t.part p = s.part p := by simp only [State.part, h.parts]

/-! A word that the scrub meets (R57, R59, R60, Table 03-2). -/

/-- SCRUB_WORD of a word of the plots that is not the first of a die's pass, after the upsets. -/
theorem exec_scrubWord_plot {s : State} {w : Fin (2 ^ 32)} (strikes : List (UpsetPlace × EccErr)) (hm : s.power.mainPg = true)
    (hw : w.val % 2 ^ 30 ≠ 0) : exec (.scrubWord (.plot w) strikes) s =
      .next ((strikes.foldl State.strike s).meetWords { Loc.base 9 with tile := w.val / 2 ^ 24 } [w.val]).1 := by
  show execScrubWord (.plot w) strikes s = _
  unfold execScrubWord
  dsimp only
  rw [if_neg (by simp [hm]), if_neg hw]
theorem exec_scrubWord_first {s : State} {w : Fin (2 ^ 32)} (strikes : List (UpsetPlace × EccErr)) (hm : s.power.mainPg = true)
    (hw : w.val % 2 ^ 30 = 0) : exec (.scrubWord (.plot w) strikes) s =
      .next (((strikes.foldl State.strike s).beginPass (dieOfWord w.val)).meetWords { Loc.base 9 with tile := w.val / 2 ^ 24 } [w.val]).1 := by
  show execScrubWord (.plot w) strikes s = _
  unfold execScrubWord
  dsimp only
  rw [if_neg (by simp [hm]), if_pos hw]
theorem exec_scrubWord_reserve {s : State} (d : DieId) (part : ReservePart) (p : Option PartId) (k : Fin (2 ^ 25))
    (strikes : List (UpsetPlace × EccErr)) (hm : s.power.mainPg = true) : exec (.scrubWord (.reserve d part p k) strikes) s =
      .next ((strikes.foldl State.strike s).meetReserve (Loc.base 9) (fun x => x.die == d && x.word == k.val)) := by
  show execScrubWord (.reserve d part p k) strikes s = _
  unfold execScrubWord
  dsimp only
  rw [if_neg (by simp [hm])]

section
variable {v : State} {w : Nat} (r : Loc)
theorem State.meetWords_good (h : v.eccAt w = none) : (v.meetWords r [w]).1 = v := by
  simp only [State.meetWords, h]
theorem State.meetWords_single (h : v.eccAt w = some .single) : (v.meetWords r [w]).1 = v.eccFix w r := by
  simp only [State.meetWords, h]
theorem State.meetWords_double (h : v.eccAt w = some .double) : (v.meetWords r [w]).1 = (v.eccDouble w r).1 := by
  simp only [State.meetWords, h]
  split <;> rfl
end

section
variable (v : State) (w : Nat)

/-- A word whose single-bit error is corrected for the first time in a pass, before its row is judged. -/
def State.mended (r : Loc) : State :=
  (v.modSram (fun m =>
    { m with
      ecc := m.ecc.filter (fun e => e.1 != w), corrected := w :: m.corrected
      occasions := (rowOfWord w, v.clock.sec) :: m.occasions })).logAt Code.sramCorrected (v.vfOf (partOfWord w)) r
theorem State.eccFix_first (r : Loc) (h : v.sram.corrected.contains w = false) : ∃ q : Loc,
    q = { r with part := (partOfWord w).val, address := some ((w * 16 : Nat) - (partBase (partOfWord w) : Nat) : Int) } ∧
    v.eccFix w r = if 3 ≤ (v.mended w q).rowOccasions (rowOfWord w)
      then (v.mended w q).retireRow (dieOfWord w) (rowOfWord w) (v.vfOf (partOfWord w)) q else v.mended w q := by
  refine ⟨_, rfl, ?_⟩
  unfold State.eccFix State.correctWord
  simp only [State.modSram, h, Bool.false_eq_true, if_false]
  rfl
/-- The corrected word is one more occasion of its row. -/
theorem State.mended_rowOccasions (r : Loc) : (v.mended w r).rowOccasions (rowOfWord w) = v.rowOccasions (rowOfWord w) + 1 := by
  simp [State.mended, State.rowOccasions]
theorem State.mended_eccAt (r : Loc) : (v.mended w r).eccAt w = none := by
  simp [State.mended, State.eccAt]
theorem State.mended_sram (r : Loc) : (v.mended w r).sram =
    { v.sram with
      ecc := v.sram.ecc.filter (fun e => e.1 != w), corrected := w :: v.sram.corrected
      occasions := (rowOfWord w, v.clock.sec) :: v.sram.occasions } := State.logAt_sram ..
end

/-- A word with a single-bit error, corrected for the first time in a pass (R57, R59). -/
theorem State.eccFix_mends {v : State} {w : Nat} {r : Loc} (h : v.sram.corrected.contains w = false) :
    (v.eccFix w r).eccAt w = none ∧ (v.eccFix w r).sram.mem = v.sram.mem ∧ (v.eccFix w r).sram.corrected = w :: v.sram.corrected ∧
      (v.eccFix w r).parts = v.parts ∧ (v.eccFix w r).jobs = v.jobs ∧
      (v.rowOccasions (rowOfWord w) < 2 →
        (v.eccFix w r).log = (v.logAt Code.sramCorrected (v.vfOf (partOfWord w)) { r with
          part := (partOfWord w).val, address := some ((w * 16 : Nat) - (partBase (partOfWord w) : Nat) : Int) }).log ∧
        (v.eccFix w r).sram.spares = v.sram.spares ∧ (v.eccFix w r).sram.retired = v.sram.retired) ∧
      (2 ≤ v.rowOccasions (rowOfWord w) → v.sram.spares[dieOfWord w] ≠ 0 → v.sram.retired.contains (rowOfWord w) = false →
        (v.eccFix w r).sram.retired = rowOfWord w :: v.sram.retired ∧
        (v.eccFix w r).sram.spares[dieOfWord w] + 1 = v.sram.spares[dieOfWord w]) := by
  obtain ⟨q, hq, he⟩ := v.eccFix_first w r h
  rw [v.mended_rowOccasions w q] at he
  rw [he, ← hq]
  by_cases ho : 2 ≤ v.rowOccasions (rowOfWord w)
  · rw [if_pos (by omega)]
    have hrows := (v.mended w q).retireRow_rows (dieOfWord w) (rowOfWord w) (v.vfOf (partOfWord w)) q
    have hret := State.retireRow_retired (s := v.mended w q) (d := dieOfWord w) (row := rowOfWord w) (v.vfOf (partOfWord w)) q
    rw [v.mended_sram w q] at hret
    rw [hrows.eccAt, hrows.mem, hrows.corrected, hrows.parts, hrows.jobs, v.mended_sram w q]
    exact ⟨v.mended_eccAt w q, rfl, rfl, rfl, rfl, fun hlt => absurd ho (Nat.not_le.2 hlt), fun _ => hret⟩
  · rw [if_neg (by omega), v.mended_sram w q]
    exact ⟨v.mended_eccAt w q, rfl, rfl, rfl, rfl, fun _ => ⟨rfl, rfl, rfl⟩, fun hle => absurd hle ho⟩

/-! A double-bit error (R60, Table 03-2). -/

/-- The record of an uncorrectable word. -/
def State.doubleLoc (v : State) (w : Nat) (r : Loc) : Loc :=
  { r with
    part := (partOfWord w).val, address := some ((w * 16 : Nat) - (partBase (partOfWord w) : Nat) : Int)
    region := ((v.part (partOfWord w)).mapA.bind (fun m => regionOf m.used (w * 16 - partBase (partOfWord w)) 16)).map (·.1) }
theorem State.eccDouble_eq (v : State) (w : Nat) (r : Loc) : (v.eccDouble w r).1 =
    (if v.wordLive w then (v.zeroWord w).partFault (partOfWord w) Code.sramUncorrectable (v.doubleLoc w r)
      else (v.zeroWord w).logAt Code.uncorrectableCleared (v.vfOf (partOfWord w)) (v.doubleLoc w r)).retireRow (dieOfWord w) (rowOfWord w)
        (v.vfOf (partOfWord w)) (v.doubleLoc w r) := by
  unfold State.eccDouble State.doubleLoc
  dsimp only
  cases (v.part (partOfWord w)).mapA <;> rfl
theorem State.zeroWord_eccAt (v : State) (w : Nat) : (v.zeroWord w).eccAt w = none := by
  have h : ∀ e : Nat × EccErr, (e.1 == w && !(decide (w * 16 ≤ e.1 * 16) && decide (e.1 * 16 + 16 ≤ w * 16 + 16))) = false := by
    intro e
    by_cases he : e.1 = w <;> simp [he]
  simp only [State.zeroWord, State.zeroRange, State.eccAt, State.modSram_sram, List.find?_filter]
  rw [List.find?_eq_none.2 fun e _ => ?_]
  · rfl
  · have := h e
    simp_all
theorem State.zeroWord_get {v : State} (w a : Nat) (h : Mem.wf v.sram.mem = true) :
    Mem.get (v.zeroWord w).sram.mem a = if w * 16 ≤ a ∧ a < w * 16 + 16 then 0 else Mem.get v.sram.mem a :=
  Mem.get_zero _ _ _ _ h
/-- Outside a live region the word alone is zeroed, and its row retired. -/
theorem State.eccDouble_cleared {v : State} {w : Nat} (r : Loc) (h : v.wordLive w = false) : (v.eccDouble w r).1 =
    ((v.zeroWord w).logAt Code.uncorrectableCleared (v.vfOf (partOfWord w)) (v.doubleLoc w r)).retireRow (dieOfWord w) (rowOfWord w)
      (v.vfOf (partOfWord w)) (v.doubleLoc w r) := by
  rw [State.eccDouble_eq, h, if_neg Bool.false_ne_true]
theorem State.eccDouble_clears {v : State} {w : Nat} (r : Loc) (h : v.wordLive w = false) (hw : Mem.wf v.sram.mem = true) :
    (v.eccDouble w r).1.eccAt w = none ∧ (v.eccDouble w r).1.parts = v.parts ∧ (v.eccDouble w r).1.jobs = v.jobs ∧
      (∀ a : Nat, Mem.get (v.eccDouble w r).1.sram.mem a = if w * 16 ≤ a ∧ a < w * 16 + 16 then 0 else Mem.get v.sram.mem a) ∧
      (v.sram.spares[dieOfWord w] ≠ 0 → v.sram.retired.contains (rowOfWord w) = false →
        (v.eccDouble w r).1.sram.retired = rowOfWord w :: v.sram.retired) := by
  rw [State.eccDouble_cleared r h]
  let u := (v.zeroWord w).logAt Code.uncorrectableCleared (v.vfOf (partOfWord w)) (v.doubleLoc w r)
  have hsram : u.sram = (v.zeroWord w).sram := State.logAt_sram ..
  have hrows := u.retireRow_rows (dieOfWord w) (rowOfWord w) (v.vfOf (partOfWord w)) (v.doubleLoc w r)
  rw [hrows.eccAt, hrows.parts, hrows.jobs, hrows.mem]
  refine ⟨?_, rfl, rfl, fun a => ?_, fun hs hr => (State.retireRow_retired _ _ ?_ ?_).1⟩
  · rw [State.eccAt, hsram]
    exact v.zeroWord_eccAt w
  · rw [hsram]
    exact State.zeroWord_get w a hw
  · exact hs
  · exact hr
/-- In a live region the partition faults: its job, and what becomes of the partition itself. -/
theorem State.partFault_eq (s : State) (p : PartId) (code : W16) (r : Loc) : s.partFault p code r =
    (match (s.part p).job with
      | some id => (s.logAt code (s.vfOf p) r).jobFaultQuiet id code
      | none => s.logAt code (s.vfOf p) r).modPart p (fun q => { q.toFaulted code with scrubFirst := true }) := by
  have hj : ((s.logAt code (s.vfOf p) r).part p).job = (s.part p).job := by rw [State.logAt_part]
  unfold State.partFault
  cases h : (s.part p).job with
  | none => simp only [hj, h]
  | some id => simp only [hj, h]

/-! The reserve (Table 03-2). -/

theorem State.meetReserve_none {s : State} (r : Loc) {which : ReserveErr → Bool} (h : ∀ x ∈ s.sram.reserve, which x = false) :
    s.meetReserve r which = s := by
  unfold State.meetReserve
  rw [List.filter_eq_nil_iff.2 fun x hx => by simp [h x hx]]
  rfl
/-- The one error of the reserve, a double one in space that nothing uses, is cleared. -/
theorem State.meetReserve_unused {s : State} {d : DieId} {p : Option PartId} {k : Nat} {which : ReserveErr → Bool} (r : Loc)
    (h : s.sram.reserve = [{ die := d, part := .unusedSpace, holder := p, word := k, err := .double }])
    (hw : which { die := d, part := .unusedSpace, holder := p, word := k, err := .double } = true) :
    s.meetReserve r which = ((s.modSram (fun m => { m with reserve := [] })).logAt Code.uncorrectableCleared 0
      { r with part := (p.getD 0).val }).retireRow d (reserveRow d k) 0 { r with part := (p.getD 0).val } := by
  have he : s.modSram (fun m => { m with reserve := m.reserve.erase { die := d, part := .unusedSpace, holder := p, word := k, err := .double } })
      = s.modSram (fun m => { m with reserve := [] }) := by
    simp only [State.modSram, h, List.erase_cons_head]
  unfold State.meetReserve
  rw [h, List.filter_cons_of_pos hw]
  simp only [List.filter_nil, List.foldl_cons, List.foldl_nil, State.reserveMeet, he]
  rfl

/-! Map copies (R73). -/

/-- Two copies are not both the golden one. -/
theorem not_beq_both {α : Type} [BEq α] [LawfulBEq α] {a b g : α} : ¬ (a == g && b == g) = true ↔ a ≠ g ∨ b ≠ g := by
  rw [Bool.and_eq_true, beq_iff_eq, beq_iff_eq, not_and_or]

theorem AllocMap.liveDiff_self (g : AllocMap) : g.liveDiff g g = none := by
  simp [AllocMap.liveDiff]
theorem AllocMap.anyDiff_self (g : AllocMap) : g.anyDiff g g = none := by
  simp [AllocMap.anyDiff]
theorem AllocMap.anyDiff_isSome {a b g : AllocMap} (h : a ≠ g ∨ b ≠ g) : (a.anyDiff b g).isSome = true := by
  unfold AllocMap.anyDiff
  rw [if_neg (not_beq_both.2 h)]
  rfl
section
variable {s : State} {p : PartId} (good : ∀ x ∈ s.sram.reserve, x.part = .mapGolden → x.holder ≠ some p)
include good
theorem State.meetReserve_mapGolden (r : Loc) : s.meetReserve r (fun x => x.part == .mapGolden && x.holder == some p) = s :=
  s.meetReserve_none r fun x hx => by simpa using good x hx
theorem exec_mapScrub_unmapped (h : (s.part p).mapA = none) : exec (.mapScrub p) s = .next s := by
  show execMapScrub p s = _
  unfold execMapScrub
  rw [s.meetReserve_mapGolden good]
  simp only [h]
variable {a b g : AllocMap} (ha : (s.part p).mapA = some a) (hb : (s.part p).mapB = some b) (hg : (s.part p).mapGold = some g)
include ha hb hg
theorem exec_mapScrub_live {i : Nat} (h : a.liveDiff b g = some i) :
    exec (.mapScrub p) s = .next (s.partJobFault p Code.mapDiverged { Loc.base 9 with part := p.val, region := some i }) := by
  show execMapScrub p s = _
  unfold execMapScrub
  rw [s.meetReserve_mapGolden good]
  simp only [ha, hb, hg, h]
theorem exec_mapScrub_equal (hl : a.liveDiff b g = none) (h : a.anyDiff b g = none) : exec (.mapScrub p) s = .next s := by
  show execMapScrub p s = _
  unfold execMapScrub
  rw [s.meetReserve_mapGolden good]
  simp only [ha, hb, hg, hl, h]
/-- A latent difference: both copies become the golden one. -/
theorem exec_mapScrub_latent {i : Nat} (hl : a.liveDiff b g = none) (h : a.anyDiff b g = some i) : exec (.mapScrub p) s =
    .next ((s.modPart p (fun q => { q with mapA := some g, mapB := some g })).logAt Code.mapLatent (s.vfOf p)
      { Loc.base 9 with part := p.val, region := some i }) := by
  show execMapScrub p s = _
  unfold execMapScrub
  rw [s.meetReserve_mapGolden good]
  simp only [ha, hb, hg, hl, h, State.mapRewrite, s.meetReserve_mapGolden good]
end

/-! The tables of a relay station (R187). -/

section
variable {s : State} {l : LinkId} {a b g : PlanDef} {j : Job} (ha : (s.link l).tableA = some a) (hb : (s.link l).tableB = some b)
  (ho : (s.link l).owner = some j.id) (hj : s.job? j.id = some j) (hf : j.phase ≠ .faulted) (hp : j.activePlan.map (·.forLink l) = some g)
  (good : ∀ x ∈ s.sram.reserve, x.part ≠ .planGolden)
include good in
theorem State.meetGolden_good (r : Loc) : s.meetGolden l j r = s :=
  s.meetReserve_none r fun x hx => by simp [good x hx]
include ha hb ho hj hf hp good
theorem exec_planTableScrub : exec (.planTableScrub l) s = .next (if a == g && b == g then s
    else if a.live == g.live && b.live == g.live then s.tableRewrite l j
    else s.tableDiverged j { Loc.base 9 with
      link := l.val, part := j.lead.val, slot := (a.diffPlace g l).orElse (fun _ => b.diffPlace g l) }) := by
  show execPlanTableScrub l s = _
  unfold execPlanTableScrub
  have hjob : (s.link l).owner.bind s.job? = some j := by rw [ho]; exact hj
  have hrun : (s.job? j.id).all (·.phase == .faulted) = false := by rw [hj]; simpa using hf
  simp only [ha, hb, hjob, State.meetGolden_good good, hrun, hp, Bool.false_eq_true, if_false]
omit ha hb ho in
theorem State.tableRewrite_good : s.tableRewrite l j =
    (s.modLink l (fun k => { k with tableA := some g, tableB := some g })).logAt Code.planLatent j.fn.val
      { Loc.base 6 with link := l.val, part := j.lead.val } := by
  have hrun : (s.job? j.id).all (·.phase == .faulted) = false := by rw [hj]; simpa using hf
  unfold State.tableRewrite
  simp only [State.meetGolden_good good, hrun, hp, Bool.false_eq_true, if_false]
end

/-! The clauses of O36. -/

theorem scrub_words {s v : State} {w : Fin (2 ^ 32)} {strikes : List (UpsetPlace × EccErr)} (hm : s.power.mainPg = true)
    (hv : v = strikes.foldl State.strike s) (h : v.eccAt w.val = none) :
    (w.val % 2 ^ 30 ≠ 0 → exec (.scrubWord (.plot w) strikes) s = .next v) ∧
    (w.val % 2 ^ 30 = 0 → exec (.scrubWord (.plot w) strikes) s = .next (v.beginPass (dieOfWord w.val))) := by
  refine ⟨fun hw => ?_, fun hw => ?_⟩
  · rw [exec_scrubWord_plot strikes hm hw, ← hv, State.meetWords_good _ h]
  · rw [exec_scrubWord_first strikes hm hw, ← hv, State.meetWords_good _ (by exact h)]

/-- Settles O36: an upset changes its own word (`State.strike_plot_other`); the scrub of a word is `State.eccFix_mends` for a single-bit error,
`State.eccDouble_eq` for a double one; copies are compared in `exec_mapScrub_latent`, `exec_planTableScrub` and their neighbours. -/
theorem scrubsMendWordsRowsAndCopies : Obligations.ScrubsMendWordsRowsAndCopies := by
  refine ⟨fun s w e => ⟨s.strike_plot_eccAt w e, fun k => s.strike_plot_other w e⟩, fun s n u e hu => ?ring,
    fun s v w strikes hm hv => ⟨scrub_words hm hv, fun hw h hc => ?single, fun hw h hl hmem => ?cleared, fun p r hw h hp hr => ?double,
      fun d part p k => ⟨fun hx => ?sound, fun r hx hr => ?unused⟩⟩,
    fun s p good => ⟨exec_mapScrub_unmapped good, fun a b g ha hb hg => ⟨?equal, AllocMap.anyDiff_isSome, fun i hl h => ?latent,
      fun i => exec_mapScrub_live good ha hb hg⟩⟩,
    fun s l a b g j ha hb ho hj hf hp good => ⟨?tables, ?rewritten, ?diverged⟩⟩
  case ring =>
    refine ⟨?_, fun k hk => ?_, rfl, rfl⟩
    · rw [State.strike_ring_transit, hu]
      simp only [Option.map_eq_map, Option.map_some, if_true, RingUnit.struck]
    · rw [State.strike_ring_transit]
      simp [Ne.symm hk]
  case single =>
    rw [exec_scrubWord_plot strikes hm hw, ← hv, State.meetWords_single _ h]
    exact ⟨_, rfl, State.eccFix_mends hc⟩
  case cleared =>
    rw [exec_scrubWord_plot strikes hm hw, ← hv, State.meetWords_double _ h]
    exact ⟨_, rfl, State.eccDouble_clears _ hl hmem⟩
  case double =>
    subst hp
    have hloc : v.doubleLoc w.val { Loc.base 9 with tile := w.val / 2 ^ 24 } = r := hr.symm
    rw [exec_scrubWord_plot strikes hm hw, ← hv, State.meetWords_double _ h, State.eccDouble_eq, hloc]
    refine ⟨fun hl => ?_, fun hl => ?_⟩
    · rw [hl, if_neg Bool.false_ne_true]; rfl
    · rw [hl, if_pos rfl, State.partFault_eq]
      refine ⟨_, _, rfl, rfl, rfl, ?_, ?_⟩
      · rw [(State.retireRow_rows _ _ _ _ _).part, State.modPart_part]; rfl
      · rw [(State.retireRow_rows _ _ _ _ _).part, State.modPart_part]
  case sound =>
    rw [exec_scrubWord_reserve d part p k strikes hm, ← hv, State.meetReserve_none]
    exact fun x hmem => by simpa using hx x hmem
  case unused =>
    rw [exec_scrubWord_reserve d part p k strikes hm, ← hv, State.meetReserve_unused _ hx (by simp), hr]
  case equal =>
    rintro rfl rfl
    exact exec_mapScrub_equal good ha hb hg (AllocMap.liveDiff_self _) (AllocMap.anyDiff_self _)
  case latent =>
    refine ⟨_, exec_mapScrub_latent good ha hb hg hl h, ?_⟩
    simp only [State.logAt_jobs, State.modPart_jobs]
    simp only [State.logAt_part, State.modPart_part]
    exact ⟨trivial, trivial, hg, rfl, trivial, fun q hq => State.modPart_part_other _ _ _ _ (Ne.symm hq)⟩
  case tables =>
    rintro rfl rfl
    rw [exec_planTableScrub ha hb ho hj hf hp good, if_pos (by simp)]
  case rewritten =>
    intro hla hlb hne
    rw [exec_planTableScrub ha hb ho hj hf hp good, if_neg (not_beq_both.2 hne), if_pos (by simp [hla, hlb]),
      State.tableRewrite_good hj hf hp good]
  case diverged =>
    intro hne
    have hd : a ≠ g ∨ b ≠ g := hne.imp (mt (congrArg _)) (mt (congrArg _))
    rw [exec_planTableScrub ha hb ho hj hf hp good, if_neg (not_beq_both.2 hd), if_neg (not_beq_both.2 hne)]

end Sys2Proof.Machine
end

section
/-! SUPPORT. What completions, headers, messages and the uses of the recovery reserve leave alone: the partitions, the jobs, the links and the
pace (R292 to R296, R306, R313). -/

namespace Sys2Proof.Machine

/-- What stands whatever is completed: the partitions, the jobs, the links and the pace. -/
def State.inside (s : State) : Vector Partition 8 × List Job × Vector Link 6 × Pacer := (s.parts, s.jobs, s.links, s.pace)
theorem State.inside_eq {s t : State} (h : s.inside = t.inside) :
    s.parts = t.parts ∧ s.jobs = t.jobs ∧ s.links = t.links ∧ s.pace = t.pace := by
  simpa [State.inside] using h
theorem State.part_of_inside {s t : State} (h : s.inside = t.inside) (p : PartId) : s.part p = t.part p := by
  rw [State.part, (State.inside_eq h).1, State.part]

section
variable (s : State)
@[simp] theorem State.inside_upd (pending power boot clock log mgt sram units seqTurn pe infield hiu fns host svc side fresh) :
    State.inside ⟨pending, power, boot, clock, log, mgt, s.pace, sram, s.parts, s.jobs, units, seqTurn, pe, s.links, infield, hiu, fns, host, svc,
      side, fresh⟩ = s.inside := rfl
@[simp] theorem State.modFn_inside (n : FnId) (f) : (s.modFn n f).inside = s.inside := rfl
@[simp] theorem State.modMgt_inside (f) : (s.modMgt f).inside = s.inside := rfl
@[simp] theorem State.modHiu_inside (f) : (s.modHiu f).inside = s.inside := rfl
@[simp] theorem State.modSvc_inside (f) : (s.modSvc f).inside = s.inside := rfl
@[simp] theorem State.modSram_inside (f) : (s.modSram f).inside = s.inside := rfl
@[simp] theorem State.modSq_inside (n : FnId) (i : RingIx) (f) : (s.modSq n i f).inside = s.inside := rfl
@[simp] theorem State.modCq_inside (n : FnId) (i : RingIx) (f) : (s.modCq n i f).inside = s.inside := rfl
@[simp] theorem State.hand_inside (c : W16) (v : Nat) (b : LogBody) (k : Nat) : (s.hand c v b k).inside = s.inside := rfl
@[simp] theorem State.logs_inside (c : W16) (v k : Nat) : (s.logs c v k).inside = s.inside := rfl
@[simp] theorem State.logAt_inside (c : W16) (v : Nat) (r : Loc) : (s.logAt c v r).inside = s.inside := rfl
@[simp] theorem State.hostWrite_inside (a : Nat) (bs : List Byte) : (s.hostWrite a bs).inside = s.inside := rfl
@[simp] theorem State.setLine_inside (a : Nat) (st : LineState) : (s.setLine a st).inside = s.inside := rfl
@[simp] theorem State.dropLines_inside : s.dropLines.inside = s.inside := rfl
end

/-- A fold whose every step keeps a part of the state keeps it. -/
theorem foldl_keeps {α β : Type} (π : State → β) {f : State → α → State} (h : ∀ t x, π (f t x) = π t) (l : List α) (s : State) :
    π (l.foldl f s) = π s := by
  induction l generalizing s with
  | nil => rfl
  | cons x l ih => rw [List.foldl_cons, ih, h]

section
variable (s : State)

/-! Rows and the recovery reserve. -/

@[simp] theorem State.retireRow_inside (d : DieId) (row vf : Nat) (r : Loc) : (s.retireRow d row vf r).inside = s.inside := by
  obtain ⟨⟨log, sram, h⟩, -⟩ := s.retireRow_rows d row vf r
  rw [h]; rfl
@[simp] theorem State.correctWord_inside (k row : Nat) (d : DieId) (vf : Nat) (r : Loc) : (s.correctWord k row d vf r).inside = s.inside := by
  unfold State.correctWord; dsimp only; (repeat' split) <;> simp
@[simp] theorem State.recoveryDouble_inside (d : DieId) (w : Nat) (r : Loc) : (s.recoveryDouble d w r).inside = s.inside := by
  simp [State.recoveryDouble]
@[simp] theorem State.useRecovery_inside (d : DieId) : (s.useRecovery d).inside = s.inside := by
  unfold State.useRecovery
  refine foldl_keeps State.inside (fun t x => ?_) _ _
  cases x.err <;> simp
@[simp] theorem State.synthetic_inside (y : Bool) : (s.synthetic y).inside = s.inside := by
  unfold State.synthetic; split <;> simp

/-! Messages, doorbell lines and completion rings. -/

@[simp] theorem State.msix_inside (f : FnId) (v : Byte) : (s.msix f v).inside = s.inside := by rw [State.msix_eq]; rfl
@[simp] theorem State.writeLine_inside (f : FnId) (a : W64) (bs : List Byte) : (s.writeLine f a bs).inside = s.inside := by
  unfold State.writeLine; split <;> simp
@[simp] theorem State.sqStatus_inside (f : FnId) (n : RingIx) : (s.sqStatus f n).inside = s.inside := s.writeLine_inside ..
@[simp] theorem State.cqStatus_inside (f : FnId) (n : RingIx) : (s.cqStatus f n).inside = s.inside := s.writeLine_inside ..
@[simp] theorem State.sqSettle_inside (f : FnId) (n : RingIx) : (s.sqSettle f n).inside = s.inside := by
  unfold State.sqSettle; dsimp only; split <;> simp
@[simp] theorem State.putEntry_inside (f : FnId) (n : RingIx) (c : Completion) : (s.putEntry f n c).inside = s.inside := by
  unfold State.putEntry; dsimp only; split <;> simp
@[simp] theorem State.postCq_inside (f : FnId) (n : RingIx) (c : Completion) : (s.postCq f n c).inside = s.inside := by
  unfold State.postCq; dsimp only; (repeat' split) <;> simp

/-! Completions and events. -/

@[simp] theorem State.winCount_inside (f : FnId) (st : Byte) : (s.winCount f st).inside = s.inside := by
  unfold State.winCount; split <;> rfl
@[simp] theorem State.writeHeader_inside (a : Nat) (h : Hdr) (o : Nat) (st : Byte) (p : Bool) (n : Nat) (f : W16) (t : W32) :
    (s.writeHeader a h o st p n f t).inside = s.inside := rfl
@[simp] theorem State.endClaim_inside (d : Desc) (a : Ans) : (s.endClaim d a).inside = s.inside := by
  unfold State.endClaim; dsimp only; (repeat' split) <;> simp
@[simp] theorem State.zshReply_inside (r : ZshRequest) (e bs : List Byte) : (s.zshReply r e bs).inside = s.inside := by
  unfold State.zshReply
  exact foldl_keeps State.inside (fun t i => (rfl : (t.sendFrame ..).inside = _)) _ _
@[simp] theorem State.completeWith_inside (d : Desc) (a : Ans) (bs : List Byte) : (s.completeWith d a bs).inside = s.inside := by
  unfold State.completeWith; dsimp only; (repeat' split) <;> simp
@[simp] theorem State.complete_inside (d : Desc) (a : Ans) : (s.complete d a).inside = s.inside := s.completeWith_inside d a []
@[simp] theorem State.jobEvent_inside (j : Job) (k : Nat) (a : Ans) : (s.jobEvent j k a).inside = s.inside := by
  simp [State.jobEvent]

/-! Window descriptors and abort cells. -/

@[simp] theorem State.poisonNow_inside (x : Poison) : (s.poisonNow x).inside = s.inside := by
  unfold State.poisonNow; dsimp only; split <;> simp
@[simp] theorem State.poison_inside (x : Poison) : (s.poison x).inside = s.inside := by
  unfold State.poison; split <;> simp
@[simp] theorem State.endWinOp_inside (o : WinOp) (st : Byte) (c : W16) : (s.endWinOp o st c).inside = s.inside := by
  unfold State.endWinOp; split <;> simp
@[simp] theorem State.endWinOps_inside (ps : List PartId) (st : Byte) (c : W16) : (s.endWinOps ps st c).inside = s.inside :=
  foldl_keeps State.inside (fun t o => t.endWinOp_inside o st c) _ _
@[simp] theorem State.queueCell_inside (l : LinkId) (c : Cell) : (s.queueCell l c).inside = s.inside := by
  unfold State.queueCell; split <;> rfl
@[simp] theorem State.sendAborts_inside (j : Job) (c : W16) (b : Option LinkId) : (s.sendAborts j c b).inside = s.inside := by
  unfold State.sendAborts
  split
  · rfl
  · exact foldl_keeps State.inside (fun t l => t.queueCell_inside l _) _ _
end

end Sys2Proof.Machine
end

section
/-! SUPPORT and the statement of zeroing, UNLOAD and PARTITION_RESET (R61, R85, R238, R287, R359, R360, R362, R366, R396). -/

namespace Sys2Proof.Machine

/-! ZEROING_DONE and PARTITION_SCRUB_DONE (R61, R362). -/

theorem State.cleans_false {s : State} {p : PartId} (h : (s.part p).zeroing = false ∨ s.power.mainPg = false) : s.cleans p = false := by
  obtain h | h := h <;> simp [State.cleans, h]
theorem State.cleans_true {s : State} {p : PartId} (hz : (s.part p).zeroing = true) (hm : s.power.mainPg = true)
    (hb : s.boot.stage ≠ .switching) : s.cleans p = true := by
  simp [State.cleans, hz, hm, hb]

/-- The partition as at reset, its plots zero; a job that no partition holds any more is forgotten. -/
def State.emptied (s : State) (p : PartId) : State :=
  ((s.zeroRange (partBase p) (partBase p + 2 ^ 33)).modPart p (fun _ => Partition.reset)).dropJobs

section
variable (s : State) (p : PartId)
theorem State.emptied_part : (s.emptied p).part p = Partition.reset := State.modPart_part _ p _
theorem State.emptied_part_other {q : PartId} (h : q ≠ p) : (s.emptied p).part q = s.part q := State.modPart_part_other _ _ _ _ (Ne.symm h)
theorem State.emptied_mem {s : State} (h : Mem.wf s.sram.mem = true) (a : Nat) :
    Mem.get (s.emptied p).sram.mem a = if partBase p ≤ a ∧ a < partBase p + 2 ^ 33 then 0 else Mem.get s.sram.mem a :=
  Mem.get_zero _ _ _ _ h
theorem mem_allParts (q : PartId) : q ∈ allParts := by revert q; decide
/-- A job that another partition holds stays. -/
theorem State.emptied_jobs {s : State} {j : Job} (hj : j ∈ s.jobs) (h : ∃ q : PartId, q ≠ p ∧ (s.part q).job = some j.id) :
    j ∈ (s.emptied p).jobs := by
  obtain ⟨q, hq, hqj⟩ := h
  refine List.mem_filter.2 ⟨hj, List.any_eq_true.2 ⟨q, mem_allParts q, ?_⟩⟩
  rw [State.modPart_part_other _ _ _ _ (Ne.symm hq)]
  exact beq_iff_eq.2 hqj
end

theorem exec_zeroingDone {s : State} {p : PartId} (hc : s.cleans p = true) (hf : (s.part p).scrubFirst = false) :
    exec (.zeroingDone p) s = .next ((s.emptied p).resetReached p) := by
  show execZeroingDone p s = _
  unfold execZeroingDone
  rw [if_neg (by simp [hc, hf])]
  rfl
theorem exec_zeroingDone_not {s : State} {p : PartId}
    (h : (s.part p).zeroing = false ∨ (s.part p).scrubFirst = true ∨ s.power.mainPg = false) : exec (.zeroingDone p) s = .next s := by
  have hn : (!s.cleans p || (s.part p).scrubFirst) = true := by
    obtain h | h | h := h
    · rw [State.cleans_false (.inl h)]; rfl
    · rw [h, Bool.or_true]
    · rw [State.cleans_false (.inr h)]; rfl
  show execZeroingDone p s = _
  unfold execZeroingDone
  rw [if_pos hn]
theorem exec_partitionScrubDone_clean {s : State} {p : PartId} (hc : s.cleans p = true) (hf : (s.part p).scrubFirst = true)
    (h : ∀ e ∈ s.sram.ecc, partOfWord e.1 ≠ p) :
    exec (.partitionScrubDone p) s = .next (s.modPart p (fun q => { q with scrubFirst := false })) := by
  have hw : (s.sram.ecc.map (·.1)).filter (fun w => partOfWord w == p) = [] := by
    rw [List.filter_eq_nil_iff]
    intro w hw
    obtain ⟨e, he, rfl⟩ := List.mem_map.1 hw
    simpa using h e he
  show execPartitionScrubDone p s = _
  unfold execPartitionScrubDone
  rw [if_neg (by simp [hc, hf]), hw]
  rfl

/-! What waits for a partition (R360, R396). -/

/-- The one task that waits, once partition p has reached MARKS. -/
def ResetTask.reached (k : ResetTask) (p : PartId) : ResetTask := { k with left := k.left.filter (· != p) }
theorem State.resetReached_none {s : State} (p : PartId) (h : s.mgt.unloads = []) : s.resetReached p = s.modMgt (fun m => { m with unloads := [] }) := by
  unfold State.resetReached
  rw [h]
  rfl
theorem State.parkNext_ended (s : State) {k : ResetTask} (h : k.left = []) : s.parkNext k = s := by
  unfold State.parkNext
  split
  · rename_i hcons
    rw [h] at hcons
    cases hcons
  · rfl
theorem State.resetReached_one {s : State} (p : PartId) {k : ResetTask} (h : s.mgt.unloads = [k]) : s.resetReached p =
    if (k.reached p).left.isEmpty then (s.modMgt (fun m => { m with unloads := [] })).taskDone (k.reached p)
    else (s.modMgt (fun m => { m with unloads := [k.reached p] })).parkNext (k.reached p) := by
  have hm : s.mgt.unloads.map (fun t : ResetTask => { t with left := t.left.filter (· != p) }) = [k.reached p] := by rw [h]; rfl
  unfold State.resetReached
  simp only [hm, List.foldl_cons, List.foldl_nil, List.filter_cons, List.filter_nil]
  cases he : (k.reached p).left.isEmpty with
  | true =>
    simp only [Bool.not_true, Bool.false_eq_true, if_false, if_true, List.foldl_cons, List.foldl_nil]
    rw [State.parkNext_ended _ (List.isEmpty_iff.1 he)]
  | false => simp only [Bool.not_false, Bool.false_eq_true, if_false, if_true, List.foldl_nil]

/-- A zeroing that nothing holds back empties its partition; what waited for that goes on. -/
theorem zeroing_ends {s : State} {p : PartId} (hz : (s.part p).zeroing = true) (hm : s.power.mainPg = true) (hb : s.boot.stage ≠ .switching)
    (hf : (s.part p).scrubFirst = false) : exec (.zeroingDone p) s = .next ((s.emptied p).resetReached p) :=
  exec_zeroingDone (State.cleans_true hz hm hb) hf

/-! UNLOAD (R85). -/

@[simp] theorem State.noteSlack_parts (s : State) : s.noteSlack.parts = s.parts := rfl
@[simp] theorem State.leaveDomain_parts (s : State) : s.leaveDomain.parts = s.parts := by
  unfold State.leaveDomain; split <;> rfl
/-- A job that is taken out leaves its own partitions, and no other. -/
theorem State.removeJob_part (s : State) (j : Job) (st : PState) (q : PartId) :
    (s.removeJob j st).part q = if (s.part q).job = some j.id then (s.part q).leave st else s.part q := by
  unfold State.removeJob
  simp only [State.part, State.leaveDomain_parts, State.releaseLinks, State.leaveParts]
  by_cases h : s.parts[q].job = some j.id <;> simp_all

/-- The job that UNLOAD names is loaded, and its partitions are the named ones, each in SET. -/
def State.mayUnload (t : State) (ps : List PartId) (j : Job) : Bool :=
  j.phase == .loaded && allParts.all (fun p => ps.contains p == ((t.part p).job == some j.id)) && ps.all (fun p => (t.part p).st == .set)
theorem State.mayUnload_iff {t : State} {ps : List PartId} {j : Job} : t.mayUnload ps j = true ↔
    j.phase = .loaded ∧ (∀ q : PartId, q ∈ ps ↔ (t.part q).job = some j.id) ∧ ∀ q ∈ ps, (t.part q).st = .set := by
  have hsame (q : PartId) : (ps.contains q == ((t.part q).job == some j.id)) = true ↔ (q ∈ ps ↔ (t.part q).job = some j.id) := by
    rw [beq_iff_eq, Bool.eq_iff_iff, List.contains_iff_mem, beq_iff_eq]
  simp only [State.mayUnload, Bool.and_eq_true, beq_iff_eq, List.all_eq_true, hsame, mem_allParts, true_implies, and_assoc]
theorem State.job?_id {s : State} {id : Nat} {j : Job} (h : s.job? id = some j) : j.id = id :=
  beq_iff_eq.1 (List.find?_some (p := fun j : Job => j.id == id) h)
/-- A job found at a partition is the one that the partition holds. -/
theorem State.jobOf_job {s : State} {p : PartId} {j : Job} (h : s.jobOf p = some j) : (s.part p).job = some j.id ∧ s.job? j.id = some j := by
  obtain ⟨id, hid, hj⟩ := Option.bind_eq_some_iff.1 h
  have hi := State.job?_id hj
  subst hi
  exact ⟨hid, hj⟩

theorem exec_unload {s t : State} {d : Desc} (h : s.takeMc Op.unload = some (d, t)) : exec .unload s = .next (
    if !d.maskOk then t.done d Status.badDescriptor
    else if !t.vfAllowed d d.maskParts then t.done d Status.notPermitted
    else match d.maskParts.head?.bind t.jobOf with
      | none => t.conflict d
      | some j => if t.mayUnload d.maskParts j then (t.removeJob j .marks).awaitMarks d d.maskParts else t.conflict d) := by
  show execUnload s = _
  unfold execUnload
  simp only [h] <;> rfl
section
variable {s t : State} {d : Desc} (h : s.takeMc Op.unload = some (d, t)) (ok : d.maskOk = true) (may : t.vfAllowed d d.maskParts = true)
include h ok may
theorem exec_unload_of_job {p : PartId} {j : Job} (hp : d.maskParts.head? = some p) (hj : t.jobOf p = some j) : exec .unload s =
    .next (if t.mayUnload d.maskParts j then (t.removeJob j .marks).awaitMarks d d.maskParts else t.conflict d) := by
  simp [exec_unload h, ok, may, hp, hj]
theorem exec_unload_jobless (hj : d.maskParts.head?.bind t.jobOf = none) : exec .unload s = .next (t.conflict d) := by
  simp [exec_unload h, ok, may, hj]
/-- A named partition that is not in SET, or that no job holds. -/
theorem exec_unload_conflict {p : PartId} (hp : p ∈ d.maskParts) (hc : (t.part p).st ≠ .set ∨ (t.part p).job = none ∨ t.jobOf p = none) :
    exec .unload s = .next (t.conflict d) := by
  cases hj : d.maskParts.head?.bind t.jobOf with
  | none => exact exec_unload_jobless h ok may hj
  | some j =>
    obtain ⟨q, hq, hjq⟩ := Option.bind_eq_some_iff.1 hj
    rw [exec_unload_of_job h ok may hq hjq, if_neg]
    rw [State.mayUnload_iff]
    rintro ⟨-, hsame, hset⟩
    have hpj := (hsame p).1 hp
    obtain hc | hc | hc := hc
    · exact hc (hset p hp)
    · rw [hpj] at hc; cases hc
    · rw [State.jobOf, hpj, Option.bind_some, (State.jobOf_job hjq).2] at hc; cases hc
end

/-! PARTITION_RESET (R359, R360). -/

theorem State.disarm_owner (s : State) (j : Job) (p : PartId) : ((s.disarm j).part p).owner = (s.part p).owner := by
  unfold State.disarm
  split
  · rw [State.modJob_part]
    show Partition.owner ((Vector.ofFn fun q : Fin 8 => _)[p]) = _
    simp only [Fin.getElem_fin, Vector.getElem_ofFn]
    split
    · split <;> rfl
    · rfl
  · rfl
theorem State.refuseStart_owner (s : State) (j : Job) (st : Byte) (f c : W16) (b : Option LinkId) (p : PartId) :
    ((s.refuseStart j st f c b).part p).owner = (s.part p).owner := by
  unfold State.refuseStart
  extract_lets u v
  have hu : u.inside = s.inside := s.sendAborts_inside ..
  have hv : v.inside = u.inside := by
    unfold v
    split
    · simp
    · split <;> simp
  rw [State.part, State.leaveDomain_parts]
  exact (v.disarm_owner j p).trans (congrArg Partition.owner (State.part_of_inside (hv.trans hu) p))
theorem State.refuseNamed_owner (s : State) (ps : List PartId) (p : PartId) : ((s.refuseNamed ps).part p).owner = (s.part p).owner := by
  refine foldl_keeps (fun s => (s.part p).owner) (fun t x => ?_) _ _
  split
  · split
    · exact t.refuseStart_owner ..
    · rfl
  · rfl

/-- A partition that PARTITION_RESET has put into HOLD, with its owner. -/
structure Partition.Reset (q : Partition) (owner : Option FnId) : Prop where
  st : q.st = .hold
  owner : q.owner = owner
  zeroing : q.zeroing = true
  job : q.job = none
  mapA : q.mapA = none
  mapB : q.mapB = none
  queues : q.queues = []
  streams : q.streams = []
theorem State.resetPart_part (s : State) (p : PartId) : ((s.resetPart p).part p).Reset (s.part p).owner := by
  unfold State.resetPart
  extract_lets q j code vf cq held ended gone blank last
  have hlast : last.dropJobs.part p = _ := State.modPart_part gone p _
  rw [State.logs_part, hlast]
  exact ⟨rfl, rfl, rfl, rfl, rfl, rfl, rfl, rfl⟩
/-- Any other partition stays as it is, or leaves a job that goes with the reset one. -/
theorem State.resetPart_part_other (s : State) {p q : PartId} (h : q ≠ p) : (s.resetPart p).part q = s.part q ∨
    ((s.part q).job ≠ none ∧ ∃ st, (s.resetPart p).part q = (s.part q).leave st) := by
  unfold State.resetPart
  extract_lets x j code vf cq held ended gone blank last
  have hheld : held.part q = s.part q := by
    rw [State.modPart_part_other _ _ _ _ (Ne.symm h)]
    exact State.part_of_inside (State.useRecovery_inside ..) q
  have hended : ended.part q = s.part q := (State.part_of_inside (State.endWinOps_inside ..) q).trans hheld
  have hremoved (u : State) (k : Job) (hu : u.part q = s.part q) : (u.removeJob k .hold).part q = s.part q ∨
      ((s.part q).job ≠ none ∧ ∃ st, (u.removeJob k .hold).part q = (s.part q).leave st) := by
    rw [State.removeJob_part, hu]
    by_cases hj : (s.part q).job = some k.id
    · rw [if_pos hj, hj]
      exact .inr ⟨nofun, .hold, rfl⟩
    · rw [if_neg hj]
      exact .inl rfl
  have hlast : last.dropJobs.part q = gone.part q := State.modPart_part_other _ _ _ _ (Ne.symm h)
  rw [State.logs_part, hlast]
  unfold gone j
  split
  · exact .inl hended
  · split
    · exact hremoved _ _ ((State.part_of_inside (State.jobEvent_inside ..) q).trans hended)
    · split
      · exact .inl hended
      · exact hremoved _ _ hended
theorem State.resetPart_owner (s : State) (p q : PartId) : ((s.resetPart p).part q).owner = (s.part q).owner := by
  by_cases h : q = p
  · subst h
    exact (s.resetPart_part q).owner
  · obtain h | ⟨-, st, h⟩ := s.resetPart_part_other h <;> rw [h]
    rfl
/-- A partition without a job is left alone by the resets of others. -/
theorem State.foldl_resetPart_idle {p : PartId} (ps : List PartId) : ∀ s : State, p ∉ ps → (s.part p).job = none →
    (ps.foldl State.resetPart s).part p = s.part p := by
  induction ps with
  | nil => intros; rfl
  | cons x ps ih =>
    intro s hp hj
    rw [List.mem_cons, not_or] at hp
    have hx : (s.resetPart x).part p = s.part p := (s.resetPart_part_other hp.1).resolve_right fun hl => hl.1 hj
    rw [List.foldl_cons, ih _ hp.2 (by rw [hx, hj]), hx]
theorem State.foldl_resetPart {p : PartId} (ps : List PartId) : ∀ s : State, p ∈ ps →
    ((ps.foldl State.resetPart s).part p).Reset (s.part p).owner := by
  induction ps with
  | nil => intro s hp; cases hp
  | cons x ps ih =>
    intro s hp
    rw [List.foldl_cons]
    by_cases hps : p ∈ ps
    · rw [← s.resetPart_owner x p]
      exact ih _ hps
    · obtain rfl : p = x := (List.mem_cons.1 hp).resolve_right hps
      rw [State.foldl_resetPart_idle ps _ hps (s.resetPart_part p).job]
      exact s.resetPart_part p

/-- The named partitions are in states that a reset may meet, and no job in SET or PARKED is named in part (R359). -/
def State.mayReset (t : State) (ps : List PartId) : Bool :=
  ps.all (fun p => (t.part p).shown == .marks || (t.part p).shown == .set || (t.part p).shown == .parked || (t.part p).shown == .faulted)
    && t.resetWhole ps
theorem exec_partitionReset {s t : State} {d : Desc} (h : s.takeMc Op.partReset = some (d, t)) : exec .partitionReset s = .next (
    if !d.maskOk then t.done d Status.badDescriptor
    else if t.gated d || !d.maskParts.all (t.owns d.fn) then t.done d Status.notPermitted
    else if !t.mayReset d.maskParts then t.conflict d
    else (d.maskParts.foldl State.resetPart (t.refuseNamed d.maskParts)).awaitMarks d d.maskParts) := by
  show execPartitionReset s = _
  unfold execPartitionReset
  simp only [h, State.mayReset, Bool.not_and]

/-! The clauses of O48. -/

theorem unload_clauses {s t : State} {d : Desc} (h : s.takeMc Op.unload = some (d, t)) (ok : d.maskOk = true)
    (may : t.vfAllowed d d.maskParts = true) :
    (∀ (p : PartId) (j : Job), d.maskParts.head? = some p → t.jobOf p = some j → j.phase = .loaded →
      (∀ q : PartId, q ∈ d.maskParts ↔ (t.part q).job = some j.id) → (∀ q ∈ d.maskParts, (t.part q).st = .set) →
      exec .unload s = .next ((t.removeJob j .marks).awaitMarks d d.maskParts) ∧
      (∀ q ∈ d.maskParts, ((t.removeJob j .marks).part q).st = .marks ∧ ((t.removeJob j .marks).part q).zeroing = true ∧
        ((t.removeJob j .marks).part q).job = none)) ∧
    (∀ (p : PartId) (j : Job), d.maskParts.head? = some p → t.jobOf p = some j →
      j.phase ≠ .loaded ∨ (∃ q : PartId, ¬(q ∈ d.maskParts ↔ (t.part q).job = some j.id)) ∨ (∃ q ∈ d.maskParts, (t.part q).st ≠ .set) →
      exec .unload s = .next (t.conflict d)) ∧
    ((∃ p ∈ d.maskParts, (t.part p).st ≠ .set ∨ (t.part p).job = none ∨ t.jobOf p = none) → exec .unload s = .next (t.conflict d)) := by
  refine ⟨fun p j hp hj hl hsame hset => ⟨?_, fun q hq => ?_⟩, fun p j hp hj hno => ?_, fun ⟨p, hp, hc⟩ => exec_unload_conflict h ok may hp hc⟩
  · rw [exec_unload_of_job h ok may hp hj, if_pos (State.mayUnload_iff.2 ⟨hl, hsame, hset⟩)]
  · rw [State.removeJob_part, if_pos ((hsame q).1 hq)]
    exact ⟨rfl, rfl, rfl⟩
  · rw [exec_unload_of_job h ok may hp hj, if_neg]
    rw [State.mayUnload_iff]
    rintro ⟨hl, hsame, hset⟩
    obtain hno | ⟨q, hq⟩ | ⟨q, hq, hno⟩ := hno
    · exact hno hl
    · exact hq (hsame q)
    · exact hno (hset q hq)

/-- Settles O48: a zeroing ends in `exec_zeroingDone` and its task in `State.resetReached_one`; UNLOAD takes its job out
(`State.removeJob_part`), PARTITION_RESET resets each partition in turn (`State.foldl_resetPart`). -/
theorem partitionsAreEmptiedZeroedAndBackInMarks : Obligations.PartitionsAreEmptiedZeroedAndBackInMarks := by
  refine ⟨fun s p => ⟨exec_zeroingDone_not, fun hz hm hb => ⟨fun hf hw => ⟨fun hn => ?alone, fun d o ht => ?last, fun d q rest o hp ht => ?next⟩,
      exec_partitionScrubDone_clean (State.cleans_true hz hm hb)⟩⟩,
    fun s t d h => ⟨fun bad => by simp [exec_unload h, bad], fun ok no => by simp [exec_unload h, ok, no], unload_clauses h⟩,
    fun s t d h => ⟨fun bad => by simp [exec_partitionReset h, bad], fun ok no => ?forbidden, fun ok free own => ⟨fun hs whole => ?reset,
      fun hno => ?conflict⟩⟩⟩
  case alone =>
    rw [zeroing_ends hz hm hb hf, State.resetReached_none (s := s.emptied p) p hn]
    exact ⟨_, rfl, s.emptied_part p, fun q => s.emptied_part_other p, State.emptied_mem p hw, rfl, rfl, rfl, fun j => State.emptied_jobs p⟩
  case last =>
    have hk : (ResetTask.reached { desc := d, left := [p], parked := o } p) = { desc := d, left := [], parked := o } := by
      simp [ResetTask.reached]
    rw [zeroing_ends hz hm hb hf, State.resetReached_one (s := s.emptied p) p ht, hk]
    refine ⟨(s.emptied p).modMgt (fun m => { m with unloads := [] }), s.emptied_part p, rfl, rfl, rfl, ?_, ?_⟩
    · rintro rfl; rfl
    · rintro id n rfl; rfl
  case next =>
    have hk : (ResetTask.reached { desc := d, left := p :: q :: rest, parked := some o } p) = { desc := d, left := q :: rest, parked := some o } := by
      rw [ResetTask.reached, List.filter_cons_of_neg (by simp), List.filter_eq_self.2 fun x hx => by simpa using ne_of_mem_of_not_mem hx hp]
    have hqp : q ≠ p := fun he => hp (he ▸ List.mem_cons_self)
    have hq := s.emptied_part_other p hqp
    rw [zeroing_ends hz hm hb hf, State.resetReached_one (s := s.emptied p) p ht, hk]
    simp only [List.isEmpty_cons, Bool.false_eq_true, if_false, State.parkNext, State.modMgt_part, hq]
    cases hzq : (s.part q).zeroing with
    | true =>
      simp only [if_true]
      exact ⟨_, rfl, s.emptied_part p, rfl, hq, fun r hrp _ => s.emptied_part_other p hrp⟩
    | false =>
      simp only [Bool.false_eq_true, if_false]
      refine ⟨_, rfl, ?_, rfl, ?_, fun r hrp hrq => ?_⟩
      · rw [State.modPart_part_other _ _ _ _ hqp]
        exact s.emptied_part p
      · rw [State.modPart_part]
        exact congrArg (Partition.leave · .marks) hq
      · rw [State.modPart_part_other _ _ _ _ (Ne.symm hrq)]
        exact s.emptied_part_other p hrp
  case forbidden =>
    have hn : (t.gated d || !d.maskParts.all (t.owns d.fn)) = true := by
      obtain hg | ⟨p, hp, ho⟩ := no
      · rw [hg, Bool.true_or]
      · have : d.maskParts.all (t.owns d.fn) = false := List.all_eq_false.2 ⟨p, hp, by simp [ho]⟩
        rw [this, Bool.not_false, Bool.or_true]
    simp [exec_partitionReset h, ok, hn]
  case reset =>
    have hall : d.maskParts.all (t.owns d.fn) = true := List.all_eq_true.2 own
    have hmay : t.mayReset d.maskParts = true := by
      simpa [State.mayReset, whole, or_assoc] using hs
    refine ⟨d.maskParts.foldl State.resetPart (t.refuseNamed d.maskParts), by simp [exec_partitionReset h, ok, free, hall, hmay], fun p hp => ?_⟩
    have hr := State.foldl_resetPart d.maskParts (t.refuseNamed d.maskParts) hp
    exact ⟨hr.st, hr.owner.trans (t.refuseNamed_owner _ p), hr.zeroing, hr.job, hr.mapA, hr.mapB, hr.queues, hr.streams⟩
  case conflict =>
    have hall : d.maskParts.all (t.owns d.fn) = true := List.all_eq_true.2 own
    have hmay : t.mayReset d.maskParts = false := by
      obtain ⟨p, hp, hst⟩ | hw := hno
      · refine Bool.and_eq_false_iff.2 (.inl (List.all_eq_false.2 ⟨p, hp, ?_⟩))
        obtain hst | hst := hst <;> simp [hst]
      · exact Bool.and_eq_false_iff.2 (.inr hw)
    simp [exec_partitionReset h, ok, free, hall, hmay]

end Sys2Proof.Machine
end

section
/-! SUPPORT and the statement of TRANSFER, HEADER_CLAIM, WINDOW_CLOSE and PREDICATE (R69, R290, R308 to R311). -/

namespace Sys2Proof.Machine

/-! The check of a TRANSFER's range (R69, R73). -/

theorem filterMap_range_getElem? {α : Type} (n : Nat) (es : List α) :
    (List.range n).filterMap (fun i => (es[i]?).map (fun e => (i, e))) = (List.range n).zip es := by
  simp only [List.range_eq_range']
  suffices h : ∀ k, (List.range' k n).filterMap (fun i => (es[i - k]?).map (fun e => (i, e))) = (List.range' k n).zip es from h 0
  induction es generalizing n with
  | nil => intro k; simp
  | cons e es ih =>
    intro k
    cases n with
    | zero => rfl
    | succ n =>
      rw [List.range'_succ, List.filterMap_cons_some (b := (k, e)) (by simp), List.zip_cons_cons, ← ih n (k + 1)]
      congr 1
      refine List.filterMap_congr fun i hi => ?_
      have : i - k = (i - (k + 1)) + 1 := by
        have := (List.mem_range'_1.1 hi).1
        omega
      rw [this, List.getElem?_cons_succ]

theorem State.consultAll_same {s : State} {p : PartId} {m : AllocMap} (ha : (s.part p).mapA = some m) (hb : (s.part p).mapB = some m) (r : Loc) :
    s.consultAll p r = (s, .entries m.used) := by
  have he : m.entry? = fun i => (m.entries.take m.count)[i]? := by
    funext i
    rw [AllocMap.entry?, List.getElem?_take]
  rw [State.consultAll, State.consult_same ha hb, he, filterMap_range_getElem?, AllocMap.used]

/-- A TRANSFER whose range is refused: DMA_REGION is logged with a record, and it completes. -/
def State.dmaRefused (s : State) (d : Desc) (r : Loc) : State :=
  (s.logAt Code.dmaRegion d.fn.val r).complete d { status := Status.badDescriptor, fault := Code.dmaRegion }

section
variable {s : State} {d : Desc} {m : AllocMap} (ha : (s.part d.transferPart).mapA = some m) (hb : (s.part d.transferPart).mapB = some m)
include ha hb
theorem State.dmaStep_outside (h : regionOf m.used d.partOffset 1 = none) : ∃ r, s.dmaStep d = (s.dmaRefused d r, false) := by
  unfold State.dmaStep State.dmaCheck
  simp only [State.consultAll_same ha hb, h]
  exact ⟨_, rfl⟩
variable {n : Nat} {e : BitVec 128} (h : regionOf m.used d.partOffset 1 = some (n, e))
include h
theorem State.dmaStep_ok (hw : meHas e Kind.window = true) (hl : d.partOffset + d.length ≤ meStart e + meLen e) : s.dmaStep d = (s, true) := by
  unfold State.dmaStep State.dmaCheck
  simp only [State.consultAll_same ha hb, h, hw, Bool.not_true, Bool.false_eq_true, if_false, if_neg (Nat.not_lt.2 hl)]
theorem State.dmaStep_refused (hr : meHas e Kind.window = false ∨ meStart e + meLen e < d.partOffset + d.length) :
    ∃ r, s.dmaStep d = (s.dmaRefused d r, false) := by
  unfold State.dmaStep State.dmaCheck
  simp only [State.consultAll_same ha hb, h]
  cases hw : meHas e Kind.window with
  | false => exact ⟨_, rfl⟩
  | true =>
    have hl := hr.resolve_left (by simp [hw])
    simp only [Bool.not_true, Bool.false_eq_true, if_false, if_pos hl]
    exact ⟨_, rfl⟩
end

/-! TRANSFER (R69, R308). -/

section
variable {s t : State} {d : Desc} (h : s.takeRe Op.transfer = some (d, t))
include h
theorem exec_transfer_malformed (hk : d.transferOk = false) : exec .transfer s = .next (t.done d Status.badDescriptor) := by
  show execTransfer s = _
  unfold execTransfer
  simp [h, hk]
variable (hk : d.transferOk = true)
include hk
theorem exec_transfer_notPermitted (hf : t.vfAllowed d [d.transferPart] = false) : exec .transfer s = .next (t.done d Status.notPermitted) := by
  show execTransfer s = _
  unfold execTransfer
  simp [h, hk, hf]
variable (hf : t.vfAllowed d [d.transferPart] = true)
include hf
theorem exec_transfer_conflict (hst : (t.part d.transferPart).st = .marks ∨ (t.part d.transferPart).st = .hold ∨ (t.part d.transferPart).st = .faulted) :
    exec .transfer s = .next (t.conflict d) := by
  show execTransfer s = _
  unfold execTransfer
  obtain hst | hst | hst := hst <;> simp [h, hk, hf, hst]
/-- With its partition in use it goes to the check of its range. -/
theorem exec_transfer_checked (hst : (t.part d.transferPart).st = .set ∨ (t.part d.transferPart).st = .run ∨ (t.part d.transferPart).st = .parked) :
    exec .transfer s = .next (if (t.dmaStep d).2 then (t.dmaStep d).1.pushOp ((t.dmaStep d).1.winOp d (some d.transferPart)) else (t.dmaStep d).1) := by
  have hs : ((t.part d.transferPart).st == .set || (t.part d.transferPart).st == .run || (t.part d.transferPart).st == .parked) = true := by
    simpa [or_assoc] using hst
  show execTransfer s = _
  unfold execTransfer
  simp only [h, hk, hf, hs, Bool.not_true, Bool.false_eq_true, if_false]
  obtain ⟨u, b⟩ := t.dmaStep d
  cases b <;> rfl
end

/-! HEADER_CLAIM (R310). -/

section
variable {s : State}
theorem exec_headerClaim_idle (ho : s.hiu.winOps.find? s.mayClaim = none) (hx : s.waiter = none) : exec .headerClaim s = .next s := by
  show execHeaderClaim s = _
  unfold execHeaderClaim
  simp only [ho, hx]
/-- What waits beside the descriptors goes on when no descriptor that waited before it can. -/
theorem exec_headerClaim_waiter {x : HeaderWait} (hx : s.waiter = some x) (ho : ∀ o, s.hiu.winOps.find? s.mayClaim = some o → o ∉ x.after) :
    exec .headerClaim s = .next (s.waiterGoes x) := by
  show execHeaderClaim s = _
  unfold execHeaderClaim
  cases hf : s.hiu.winOps.find? s.mayClaim with
  | none => simp only [hx]
  | some o => simp only [hx, List.contains_iff_mem, if_neg (ho o hf)]
theorem exec_headerClaim_op {o : WinOp} (ho : s.hiu.winOps.find? s.mayClaim = some o) (hx : ∀ x, s.waiter = some x → o ∈ x.after) :
    exec .headerClaim s = .next (s.goOn o) := by
  show execHeaderClaim s = _
  unfold execHeaderClaim
  cases hw : s.waiter with
  | none => simp only [ho]
  | some x => simp only [ho, List.contains_iff_mem, if_pos (hx x hw)]
end

/-- An opened descriptor is the one that claimed, with its header. -/
theorem State.openHeader_desc {s t : State} {o q : WinOp} (h : s.openHeader o = .opened t q) : q.desc = o.desc := by
  unfold State.openHeader at h
  dsimp only at h
  repeat' split at h
  all_goals cases h
  rfl

/-- From step 3 on: the range checked again, the header claimed. -/
theorem State.goOn_transfer {s t : State} {o q : WinOp} (hop : o.desc.opcode = Op.transfer) (hd : s.dmaStep o.desc = (s, true))
    (hq : s.openHeader o = .opened t q) : s.goOn o = if q.hdr.len < q.desc.length then t.shortBuf q q.desc.length else t.moveData q := by
  rw [State.goOn, if_pos hop, State.transferGo]
  simp only [hd, hq]

/-! The list of window descriptors while one of them moves (R308, R313). -/

section
variable {α : Type} [BEq α] [LawfulBEq α]
/-- An element that is changed twice is as changed once to the last, unless the first change made it equal to one before it. -/
theorem updFirst_updFirst {q x y : α} {l : List α} (h : x ∈ l → x = q) :
    updFirst (· == x) (fun _ => y) (updFirst (· == q) (fun _ => x) l) = updFirst (· == q) (fun _ => y) l := by
  induction l with
  | nil => rfl
  | cons z l ih =>
    by_cases hz : z = q
    · simp [updFirst, hz]
    · have hx : z ≠ x := fun e => hz (e.trans (h (e ▸ List.mem_cons_self)))
      simp only [updFirst, beq_eq_false_iff_ne.2 hz, beq_eq_false_iff_ne.2 hx, Bool.false_eq_true, if_false,
        ih (fun hm => h (List.mem_cons_of_mem _ hm))]
end

/-- No other descriptor of the Window Translator is the same descriptor. -/
def State.lone (s : State) (q : WinOp) : Prop := ∀ x ∈ s.hiu.winOps, x.desc = q.desc → x = q
theorem State.setOp_setOp {s : State} {q x y : WinOp} (h : s.lone q) (hx : x.desc = q.desc) : (s.setOp q x).setOp x y = s.setOp q y :=
  congrArg (fun l => s.modHiu (fun u => { u with winOps := l })) (updFirst_updFirst fun hm => h x hm hx)

/-- The descriptor holding its buffer with n bytes moved (R313). -/
def WinOp.moved (q : WinOp) (n : Nat) : WinOp := { q with phase := .close 0 q.claim n false (BitVec.ofNat 64 n) 0 0 }
theorem WinOp.moved_zero (q : WinOp) : q.moved 0 = { q with phase := .close 0 q.claim 0 false 0 0 0 } := rfl
/-- How the movement of its data ends: all moved, or cut short by a failure. -/
def State.gave (s : State) (q : WinOp) (n : Nat) (cut : Option (WalkFail × Nat)) : State :=
  match cut with
  | none => s.setOp q (q.moved n)
  | some f => s.winCut q n f
section
variable {s : State} {q : WinOp} (h : s.lone q)
include h
theorem State.moved_moved (k n : Nat) : (s.setOp q (q.moved k)).setOp (q.moved k) (q.moved n) = s.setOp q (q.moved n) :=
  State.setOp_setOp h rfl
theorem State.winCut_moved (k n : Nat) (f : WalkFail × Nat) : (s.setOp q (q.moved k)).winCut (q.moved k) n f = s.winCut q n f :=
  State.setOp_setOp (s := s.winFault q.desc.fn f.1.code) h rfl
end

/-! Pages of host memory (R302, R303, R309). The target check is kept under a name of its own while a walk is unfolded: the kernel would evaluate
its address ranges. -/

section
variable (s : State) (q x : WinOp)
@[simp] theorem State.hostRead_setOp : (s.setOp q x).hostRead = s.hostRead := rfl
@[simp] theorem State.walk_setOp (root : W64) (off n : Nat) (w : Bool) : (s.setOp q x).walk root off n w = s.walk root off n w := by
  have hf (t : Nat) (l : List (Nat × Nat)) : (s.setOp q x).walkFrom off n w t l = s.walkFrom off n w t l := by
    have ht : (s.setOp q x).targetCheck = s.targetCheck := rfl
    delta State.walkFrom State.walkFrom._f
    rw [ht, State.hostRead_setOp]
  rw [State.walk, hf, State.walk]
theorem State.winRead_setOp (root : W64) (k off n : Nat) : (s.setOp q x).winRead root k off n = s.winRead root k off n := by
  induction k generalizing off n with
  | zero => cases n <;> rfl
  | succ k ih =>
    cases n with
    | zero => rfl
    | succ n => simp only [State.winRead, State.walk_setOp, State.hostRead_setOp, ih]
end

theorem State.walkFrom_le {s : State} {off want a n t : Nat} {w : Bool} {l : List (Nat × Nat)}
    (h : s.walkFrom off want w t l = .page a n) : n ≤ want := by
  obtain ⟨tc, htc⟩ : ∃ f, f = s.targetCheck := ⟨_, rfl⟩
  obtain ⟨hr, hhr⟩ : ∃ f, f = s.hostRead := ⟨_, rfl⟩
  delta State.walkFrom State.walkFrom._f at h
  rw [← htc, ← hhr] at h
  induction l generalizing t with
  | nil => cases h
  | cons x l ih =>
    dsimp only at h
    split at h
    · cases h
    · split at h
      · cases h
      · split_ifs at h
        · split at h <;> cases h
          exact Nat.min_le_left _ _
        · exact ih h
theorem State.walk_le {s : State} {root : W64} {off want a n : Nat} {w : Bool} (h : s.walk root off want w = .page a n) : n ≤ want := by
  unfold State.walk at h
  split at h
  · cases h
  · split at h
    · cases h
    · exact State.walkFrom_le h

@[simp] theorem Mem.read_length (m : Bytes) (a n : Nat) : (Mem.read m a n).length = n := by
  induction n generalizing a with
  | zero => rfl
  | succ n ih => simp [Mem.read, ih]
theorem Mem.read_append (m : Bytes) (a k n : Nat) : Mem.read m a (k + n) = Mem.read m a k ++ Mem.read m (a + k) n := by
  induction k generalizing a with
  | zero => simp [Mem.read]
  | succ k ih => rw [Nat.add_right_comm, Mem.read, ih, Mem.read, List.cons_append, Nat.add_assoc, Nat.add_comm 1 k]

section
variable {s : State} {root : W64} {k off : Nat} {bs : List Byte} (hb : bs ≠ [])
include hb
theorem State.winWrite_fail {f : WalkFail} (h : s.walk root off bs.length true = .fail f) :
    s.winWrite root (k + 1) off bs = (s, 0, some (f, off)) := by
  cases bs with
  | nil => exact absurd rfl hb
  | cons b bs => simp only [State.winWrite, h]
theorem State.winWrite_page {a n : Nat} (h : s.walk root off bs.length true = .page a n) : s.winWrite root (k + 1) off bs =
    (((s.hostWrite a (bs.take n)).winWrite root k (off + n) (bs.drop n)).1,
      n + ((s.hostWrite a (bs.take n)).winWrite root k (off + n) (bs.drop n)).2.1,
      ((s.hostWrite a (bs.take n)).winWrite root k (off + n) (bs.drop n)).2.2) := by
  cases bs with
  | nil => exact absurd rfl hb
  | cons b bs => simp only [State.winWrite, h]
end
theorem State.winWrite_nil (s : State) (root : W64) (k off : Nat) : s.winWrite root k off [] = (s, 0, none) := by cases k <;> rfl
theorem State.winWrite_zero (s : State) (root : W64) (off : Nat) (bs : List Byte) : s.winWrite root 0 off bs = (s, 0, none) := by cases bs <;> rfl
/-- A written page moves no descriptor. -/
theorem State.winWrite_hiu (s : State) (root : W64) (k off : Nat) (bs : List Byte) : (s.winWrite root k off bs).1.hiu = s.hiu := by
  induction k generalizing s off bs with
  | zero => rw [State.winWrite_zero]
  | succ k ih =>
    by_cases hb : bs = []
    · rw [hb, State.winWrite_nil]
    · cases h : s.walk root off bs.length true with
      | fail f => rw [State.winWrite_fail hb h]
      | page a n => rw [State.winWrite_page hb h]; exact ih _ _ _
theorem State.winWrite_setOp (s : State) (q x : WinOp) (root : W64) (k off : Nat) (bs : List Byte) : (s.setOp q x).winWrite root k off bs =
    ((s.winWrite root k off bs).1.setOp q x, (s.winWrite root k off bs).2) := by
  induction k generalizing s off bs with
  | zero => simp only [State.winWrite_zero]
  | succ k ih =>
    by_cases hb : bs = []
    · simp only [hb, State.winWrite_nil]
    · cases h : s.walk root off bs.length true with
      | fail f => rw [State.winWrite_fail hb h, State.winWrite_fail hb (by simpa using h)]
      | page a n =>
        rw [State.winWrite_page hb h, State.winWrite_page hb (by simpa using h),
          show (s.setOp q x).hostWrite a (bs.take n) = (s.hostWrite a (bs.take n)).setOp q x from rfl, ih]

/-! The movement of a TRANSFER's data (R308, R309). -/

/-- The bytes written to the buffer after the m that have moved, and how that ends. -/
def State.giveRest (s : State) (q : WinOp) (k m : Nat) (bs : List Byte) : State :=
  let w := s.winWrite q.root k (q.offset.toNat + 64 + m) bs
  w.1.gave q (m + w.2.1) w.2.2
section
variable {s : State} {q : WinOp} {k m : Nat} {bs : List Byte}
theorem State.giveRest_none (s : State) (q : WinOp) (m : Nat) (h : k = 0 ∨ bs = []) : s.giveRest q k m bs = s.setOp q (q.moved m) := by
  obtain rfl | rfl := h
  · rw [State.giveRest, State.winWrite_zero]; rfl
  · rw [State.giveRest, State.winWrite_nil]; rfl
theorem State.giveRest_fail {f : WalkFail} (hb : bs ≠ []) (h : s.walk q.root (q.offset.toNat + 64 + m) bs.length true = .fail f) :
    s.giveRest q (k + 1) m bs = s.winCut q m (f, q.offset.toNat + 64 + m) := by
  rw [State.giveRest, State.winWrite_fail hb h]; rfl
theorem State.giveRest_page {a n : Nat} (hb : bs ≠ []) (h : s.walk q.root (q.offset.toNat + 64 + m) bs.length true = .page a n) :
    s.giveRest q (k + 1) m bs = (s.hostWrite a (bs.take n)).giveRest q k (m + n) (bs.drop n) := by
  rw [State.giveRest, State.winWrite_page hb h]
  simp only [State.giveRest, Nat.add_assoc]
end

section
variable {s : State} {q : WinOp} (h : s.lone q)
include h
/-- Moving out page by page is one write of all that is left. -/
theorem State.moveOut_eq (hc : s.sram.ecc = []) (a len : Nat) (r : Loc) (k m : Nat) :
    (s.setOp q (q.moved m)).moveOut q a len r k m = s.giveRest q k m (Mem.read s.sram.mem (a + m) (len - m)) := by
  induction k generalizing s m with
  | zero => exact (State.giveRest_none s q m (.inl rfl)).symm
  | succ k ih =>
    unfold State.moveOut
    dsimp only
    by_cases hl : len ≤ m
    · rw [if_pos hl, Nat.sub_eq_zero_of_le hl, Mem.read, State.giveRest_none s q m (.inr rfl)]
    · have hlen := Mem.read_length s.sram.mem (a + m) (len - m)
      have hne : Mem.read s.sram.mem (a + m) (len - m) ≠ [] := List.ne_nil_of_length_pos (by omega)
      rw [if_neg hl, State.walk_setOp]
      cases hw : s.walk q.root (q.offset.toNat + 64 + m) (len - m) true with
      | fail f =>
        rw [State.giveRest_fail hne (by rw [hlen, hw])]
        exact State.winCut_moved h m m _
      | page b n =>
        have hn := State.walk_le hw
        have hsplit : Mem.read s.sram.mem (a + m) (len - m) =
            Mem.read s.sram.mem (a + m) n ++ Mem.read s.sram.mem (a + (m + n)) (len - (m + n)) := by
          rw [← Nat.add_assoc, ← Mem.read_append]
          congr 1
          omega
        rw [State.giveRest_page hne (by rw [hlen, hw]), hsplit, List.take_left' (Mem.read_length _ _ _), List.drop_left' (Mem.read_length _ _ _)]
        simp only [State.fetchBytes_clean (s.setOp q (q.moved m)) (a + m) n r hc]
        have hpage : (s.hostWrite b (Mem.read s.sram.mem (a + m) n)).lone q := h
        calc _ = (((s.hostWrite b (Mem.read s.sram.mem (a + m) n)).setOp q (q.moved m)).setOp (q.moved m) (q.moved (m + n))).moveOut
              q a len r k (m + n) := rfl
          _ = _ := by rw [State.moved_moved hpage, ih hpage hc]; rfl
/-- Giving a result is one write of its bytes. -/
theorem State.winGive_moved {bs : List Byte} (hl : bs.length ≤ q.hdr.len) :
    (s.setOp q (q.moved 0)).winGive (q.moved 0) bs 0 = s.giveRest q bs.length 0 bs := by
  rcases hW : s.winWrite q.root bs.length (q.offset.toNat + 64) bs with ⟨v, n, cut⟩
  have hv : v.lone q := by
    have hh := s.winWrite_hiu q.root bs.length (q.offset.toNat + 64) bs
    rw [hW] at hh
    rwa [State.lone, hh]
  have hw : (s.setOp q (q.moved 0)).winWrite (q.moved 0).root bs.length ((q.moved 0).offset.toNat + 64) bs = (v.setOp q (q.moved 0), n, cut) := by
    rw [State.winWrite_setOp]
    exact congrArg (fun w => (w.1.setOp q (q.moved 0), w.2)) hW
  unfold State.winGive
  rw [if_neg (show ¬(q.moved 0).hdr.len < bs.length from Nat.not_lt.2 hl)]
  simp only [hw, State.giveRest, Nat.add_zero, Nat.zero_add, hW]
  cases cut with
  | none => exact State.moved_moved hv 0 n
  | some f => exact State.winCut_moved hv 0 n f
theorem State.moveData_toHost (hc : s.sram.ecc = []) (ht : q.desc.toHost = true) (hl : q.desc.length ≤ q.hdr.len) :
    s.moveData q = (s.setOp q (q.moved 0)).winGive (q.moved 0)
      (Mem.read s.sram.mem (partBase q.desc.transferPart + q.desc.partOffset) q.desc.length) 0 := by
  rw [State.winGive_moved h (by rwa [Mem.read_length]), Mem.read_length]
  unfold State.moveData
  dsimp only
  rw [if_pos ht, ← WinOp.moved_zero]
  refine (State.moveOut_eq h hc _ _ _ _ 0).trans ?_
  rw [Nat.add_zero, Nat.sub_zero]
end
theorem State.moveData_fromHost {s : State} {q : WinOp} {bs : List Byte} (hc : s.sram.ecc = []) (ht : q.desc.toHost = false)
    (hr : s.winRead q.root q.desc.length (q.offset.toNat + 64) q.desc.length = (bs, none)) :
    s.moveData q = ((s.setOp q (q.moved 0)).withMem (Mem.write s.sram.mem (partBase q.desc.transferPart + q.desc.partOffset) bs)).toClose
      (q.moved 0) 0 bs.length false (BitVec.ofNat 64 bs.length) 0 0 := by
  have hr' := (State.winRead_setOp s q (q.moved 0) q.root q.desc.length (q.offset.toNat + 64) q.desc.length).trans hr
  have hs := State.store_clean (s.setOp q (q.moved 0)) (partBase q.desc.transferPart + q.desc.partOffset) bs
    { Loc.base 7 with part := q.desc.transferPart.val, access := Kind.window } hc
  unfold State.moveData
  dsimp only
  rw [ht, ← WinOp.moved_zero]
  simp only [Bool.false_eq_true, if_false, hr']
  simp only [hs]
  rfl

/-! WINDOW_CLOSE (R311). -/

theorem exec_windowClose_idle {s : State} (h : ∀ x ∈ s.hiu.winOps, x.phase = .waiting ∨ ∃ k, x.phase = .reply k) : exec .windowClose s = .next s := by
  show execWindowClose s = _
  unfold execWindowClose
  rw [List.find?_eq_none.2]
  intro x hx
  obtain hp | ⟨k, hp⟩ := h x hx <;> simp [hp]
theorem exec_windowClose {s : State} {o : WinOp} {st : Byte} {h : Option Nat} {n : Nat} {b : Bool} {d0 d1 : W64} {f : W16} {l1 l2 : List WinOp}
    (hl : s.hiu.winOps = l1 ++ o :: l2) (h1 : ∀ x ∈ l1, x.phase = .waiting ∨ ∃ k, x.phase = .reply k) (ho : o.phase = .close st h n b d0 d1 f) :
    exec .windowClose s =
      .next (if o.desc.opcode = Op.load then (s.closeOp o st h n b d0 d1 f).fwProceed else s.closeOp o st h n b d0 d1 f) := by
  show execWindowClose s = _
  unfold execWindowClose
  rw [hl, List.find?_append, List.find?_eq_none.2, Option.none_or, List.find?_cons_of_pos]
  · simp only [ho]
  · simp only [ho]
  · intro x hx
    obtain hp | ⟨k, hp⟩ := h1 x hx <;> simp [hp]
/-- Without a post the header becomes HOST and the completion is given. -/
theorem State.closeOp_unposted {s : State} {o : WinOp} {st : Byte} (h : o.desc.opcode ≠ Op.transfer ∨ o.desc.postEn = false ∨ st ≠ 0) (a n : Nat)
    (b : Bool) (d0 d1 : W64) (f : W16) : s.closeOp o st (some a) n b d0 d1 f =
      ((s.dropOp o).writeHeader a o.hdr Owner.host st b n (if st.toNat / 16 = 1 then f else 0) o.desc.tag).complete o.desc
        { status := st, detail0 := d0, detail1 := d1, fault := f, part := b } := by
  have hp : (s.dropOp o).closePost o st = (s.dropOp o, false) := by
    unfold State.closePost
    refine if_pos ?_
    obtain h | h | h := h
    · simp [h]
    · simp [h]
    · have hst : ¬st = 0#8 := h
      simp [hst]
  unfold State.closeOp
  simp only [hp, Bool.false_eq_true, if_false]

/-! PREDICATE (R290). -/

theorem State.modPart_congr {s : State} {p : PartId} {f g : Partition → Partition} (h : f (s.part p) = g (s.part p)) : s.modPart p f = s.modPart p g :=
  congrArg (fun k => { s with parts := vset s.parts p k }) h

theorem fld_getLsbD {w : W64} {hi lo n : Nat} (h : n < hi + 1 - lo) (h16 : n < 16) :
    (BitVec.ofNat 16 (fld w hi lo)).getLsbD n = w.getLsbD (lo + n) := by
  rw [BitVec.getLsbD_ofNat, fld, nbits, Nat.testBit_mod_two_pow, Nat.testBit_shiftRight]
  simp [h, h16, BitVec.getLsbD]
/-- The predicate bits after a write: those under the mask in bits 31 to 16 of a word are its bits 15 to 0, the others stay. -/
def predBits (w : W64) (pred : W16) : W16 :=
  (pred &&& ~~~(BitVec.ofNat 16 (fld w 31 16))) ||| (BitVec.ofNat 16 (fld w 15 0) &&& BitVec.ofNat 16 (fld w 31 16))
theorem eq_predBits {w : W64} {pred v : W16}
    (h : ∀ n < 16, v.getLsbD n = if w.getLsbD (16 + n) then w.getLsbD n else pred.getLsbD n) : v = predBits w pred := by
  refine BitVec.eq_of_getLsbD_eq fun n hn => ?_
  rw [h n hn, predBits, BitVec.getLsbD_or, BitVec.getLsbD_and, BitVec.getLsbD_and, BitVec.getLsbD_not,
    fld_getLsbD (by omega) hn, fld_getLsbD (by omega) hn, Nat.zero_add]
  cases w.getLsbD (16 + n) <;> simp [hn]

theorem State.hostPost_room {s : State} {d : Desc} {p : PartId} {x : BitVec 96} (hs : (s.part p).st = .run)
    (hr : (s.part p).hasRoom (refTile d.baton) (refQueue d.baton) = true) :
    s.hostPost d p x = ((s.modPart p (fun q => q.push (refTile d.baton) (refQueue d.baton)
      (mkEntry x (refId d.baton) (refGen d.baton) 0xFF))).settle p, false) := by
  unfold State.hostPost
  simp [hs, hr]
theorem State.hostPost_full {s : State} {d : Desc} {p : PartId} {x : BitVec 96} (hs : (s.part p).st = .run)
    (hr : (s.part p).hasRoom (refTile d.baton) (refQueue d.baton) = false) : s.hostPost d p x = (s, true) := by
  unfold State.hostPost
  simp [hs, hr]

section
variable {s t : State} {d : Desc} (h : s.takeRe Op.predicate = some (d, t))
include h
theorem exec_predicate_malformed (hk : d.predicateOk = false) : exec .predicate s = .next (t.done d Status.badDescriptor) := by
  show execPredicate s = _
  unfold execPredicate
  simp [h, hk]
variable (hk : d.predicateOk = true)
include hk
theorem exec_predicate_notPermitted (hf : t.vfAllowed d [d.lead] = false) : exec .predicate s = .next (t.done d Status.notPermitted) := by
  show execPredicate s = _
  unfold execPredicate
  simp [h, hk, hf]
variable (hf : t.vfAllowed d [d.lead] = true)
include hf
theorem exec_predicate_conflict (hs : (t.part d.lead).st ≠ .run) : exec .predicate s = .next (t.conflict d) := by
  show execPredicate s = _
  unfold execPredicate
  simp [h, hk, hf, hs]
/-- The bits written, it posts and completes; a post without room completes it with QUEUE_OVERRUN. -/
theorem exec_predicate_run {u : State} (hs : (t.part d.lead).st = .run)
    (hu : u = t.modPart d.lead (fun q => { q with pred := predBits (d.word 3) q.pred })) : exec .predicate s = .next (
      if d.postEn then
        if (u.hostPost d d.lead 0).2 then
          ((u.hostPost d d.lead 0).1.complete d { status := Status.jobFaulted, fault := Code.queueOverrun }).postOverrun d.lead
        else (u.hostPost d d.lead 0).1.done d Status.success
      else u.done d Status.success) := by
  show execPredicate s = _
  unfold execPredicate
  have hr : ((t.part d.lead).st != .run) = false := by rw [hs]; rfl
  simp only [h, hk, hf, hr, Bool.not_true, Bool.false_eq_true, if_false]
  cases d.postEn with
  | false => rw [hu]; rfl
  | true =>
    change Host.Outcome.next (match (t.modPart d.lead (fun q => { q with pred := predBits (d.word 3) q.pred })).hostPost d d.lead 0 with
      | (t, false) => t.done d Status.success
      | (t, true) => (t.complete d { status := Status.jobFaulted, fault := Code.queueOverrun }).postOverrun d.lead) = _
    rw [← hu]
    obtain ⟨w, b⟩ := u.hostPost d d.lead 0
    cases b <;> rfl
end

/-! The statement. -/

/-- Settles O51. Each command has its cases as lemmas above; the movement to the host is one write of the range's bytes, by induction on the
pages that it takes. -/
theorem transfersMoveThroughTheirBufferAndClose : Obligations.TransfersMoveThroughTheirBufferAndClose := by
  unfold Obligations.TransfersMoveThroughTheirBufferAndClose
  refine ⟨?transfer, ?claim, ?close, ?predicate⟩
  case transfer =>
    rintro s t d p h rfl
    refine ⟨exec_transfer_malformed h, exec_transfer_notPermitted h, fun hk hf => ⟨exec_transfer_conflict h hk hf, fun hst m ha hb => ?_⟩⟩
    rw [exec_transfer_checked h hk hf hst]
    refine ⟨fun hr => ?_, fun n e hr => ⟨fun hw hl => ?_, fun hx => ?_⟩⟩
    · obtain ⟨r, hd⟩ := State.dmaStep_outside ha hb hr
      exact ⟨r, by rw [hd]; rfl⟩
    · rw [State.dmaStep_ok ha hb hr hw hl]; rfl
    · obtain ⟨r, hd⟩ := State.dmaStep_refused ha hb hr hx
      exact ⟨r, by rw [hd]; rfl⟩
  case claim =>
    refine fun s => ⟨exec_headerClaim_idle, fun x hx ho => ⟨fun hu => ?_, fun n hu => ?_⟩, fun o ho hx => ⟨exec_headerClaim_op ho hx, ?_⟩⟩
    · rw [exec_headerClaim_waiter hx ho, State.waiterGoes, hu]
    · rw [exec_headerClaim_waiter hx ho, State.waiterGoes, hu]
    · rintro hop m n e t q c p rfl ha hb hr hw hl hq rfl
      have hd := State.openHeader_desc hq
      rw [exec_headerClaim_op ho hx, State.goOn_transfer hop (State.dmaStep_ok ha hb hr hw hl) hq, ← hd, ← WinOp.moved_zero]
      refine ⟨fun hs => ?_, fun hs hc hlone => ⟨fun ht => ?_, fun ht bs hbs => ?_⟩⟩
      · rw [if_pos hs, State.shortBuf]
      · rw [if_neg (Nat.not_lt.2 hs), State.moveData_toHost hlone hc ht hs]
      · rw [if_neg (Nat.not_lt.2 hs), State.moveData_fromHost hc ht hbs]
  case close =>
    refine fun s => ⟨exec_windowClose_idle, fun o st h n b d0 d1 f l1 l2 hl h1 ho => ⟨exec_windowClose hl h1 ho, ?_⟩⟩
    rintro a rfl hop hpost
    rw [exec_windowClose hl h1 ho, if_neg hop, State.closeOp_unposted hpost]
  case predicate =>
    refine fun s t d h => ⟨exec_predicate_malformed h, exec_predicate_notPermitted h, fun hk hf => ⟨exec_predicate_conflict h hk hf, ?_⟩⟩
    intro v u hv hu hs
    have hu' : u = t.modPart d.lead (fun q => { q with pred := predBits (d.word 3) q.pred }) := by
      rw [hu, eq_predBits hv]
      exact State.modPart_congr rfl
    have hst : (u.part d.lead).st = .run := by rw [hu, State.modPart_part]; exact hs
    rw [exec_predicate_run h hk hf hs hu']
    refine ⟨fun he => ?_, fun he hroom => ?_, fun he hroom => ?_⟩
    · rw [he]; rfl
    · rw [he, State.hostPost_room hst hroom]; rfl
    · rw [he, State.hostPost_full hst hroom]; rfl

end Sys2Proof.Machine
end

section
/-! SUPPORT and the statement of the reset values (R85, R93, R335, R337, R348, R410, R415, Tables 12-3, 16-3, 18-3, 18-6, 18-10). -/

namespace Sys2Proof.Machine

/-! Every partition, link and function is at its own reset value. -/

theorem State.reset_part (p : PartId) : State.reset.part p = Partition.reset := Vector.getElem_replicate p.isLt
theorem State.reset_link (l : LinkId) : State.reset.link l = Link.reset := Vector.getElem_replicate l.isLt
theorem State.reset_fn (f : FnId) : State.reset.fn f = Function.reset := Vector.getElem_replicate f.isLt

/-- Settles O5: what an index reads is the value that its table repeats; every other register is a field of State.reset. -/
theorem resetLeavesTheListedValues : Obligations.ResetLeavesTheListedValues := by
  have hkey (k : KeySlotIx) : State.reset.mgt.keys[k] = { state := .empty, x := 0, y := 0 } := Vector.getElem_replicate k.isLt
  have hsq (n : RingIx) : Function.reset.sqs[n] = Sq.reset := Vector.getElem_replicate n.isLt
  have hcq (n : RingIx) : Function.reset.cqs[n] = Cq.reset := Vector.getElem_replicate n.isLt
  refine ⟨rfl, rfl, rfl, rfl, fun p => ?_, fun k => ?_, fun l => ?_, fun f n => ?_, rfl, rfl, rfl, rfl, rfl, rfl, rfl, rfl, rfl, rfl⟩
  · rw [State.reset_part]
    exact ⟨rfl, rfl, rfl⟩
  · rw [hkey]
  · rw [State.reset_link]
    exact ⟨rfl, rfl⟩
  · rw [State.reset_fn, hsq, hcq]
    exact ⟨rfl, rfl⟩

end Sys2Proof.Machine
end

section
/-! SUPPORT and the statement of the control commands of a stream: NOP, END, FENCE and HURDLE (R87, R92, R94, R96, R121, R123). -/

namespace Sys2Proof.Machine

/-! What stands at a stream (R87, R92). -/

/-- A ready control command stands at its stream, which is therefore not fenced. -/
theorem State.controlReady_mode {s : State} {p : PartId} {k : StreamIx} {grp op : Nat} {i : Issued} {c : Option Nat}
    (h : s.controlReady p k grp op = some (i, c)) : ((s.part p).stream? k).map Stream.mode = some (.control i) := by
  unfold State.controlReady at h
  repeat' split at h
  all_goals simp_all

section
variable {s : State} {p : PartId} {k : StreamIx} {i : Issued}

/-! NOP and END (R87, R96). -/

theorem exec_nop_ready {c : Option Nat} (h : s.controlReady p k 0 0 = some (i, c)) : exec (.nop p k) s =
    .next ((match c with | some n => s.controlSkip p k i n | none => s.controlDone p k i).settle p) := by
  show execNop p k s = _
  unfold execNop
  rw [h]
  cases c <;> rfl
theorem exec_endCircuit_ready {c : Option Nat} (h : s.controlReady p k 0 1 = some (i, c)) : exec (.endCircuit p k) s =
    .next (((match c with | some n => s.controlSkip p k i n | none => s.controlDone p k i).closeCircuit p k).settle p) := by
  show execEndCircuit p k s = _
  unfold execEndCircuit
  rw [h]
  cases c <;> rfl
section
variable {j : Job} {x : Stream} (hj : s.jobOf p = some j) (hx : (s.part p).stream? k = some x) (hr : (s.part p).st = .run)
include hj hx hr
/-- The last circuit of a job with no hurdle ahead. -/
theorem State.closeCircuit_last (hh : j.hurdleAhead = false) (hc : x.iter + 1 = j.circuits) : s.closeCircuit p k =
    (s.modPart p (fun q => q.modStream k (fun x => { x with iter := x.iter + 1, mode := .ended }))).logs Code.streamEnd (s.vfOf p) := by
  unfold State.closeCircuit
  simp [hj, hx, hr, hh, hc]
/-- Another circuit follows. -/
theorem State.closeCircuit_next (hc : x.iter + 1 ≠ j.circuits) (he : j.endCount = none) : s.closeCircuit p k =
    s.modPart p (fun q => q.modStream k (fun x => { x with iter := x.iter + 1, pos := 0 })) := by
  unfold State.closeCircuit
  simp [hj, hx, hr, hc, he]
end

/-! FENCE and HURDLE (R87, R121, R123). -/

/-- A stream that holds a FENCE or HURDLE until its earlier commands are complete. -/
def State.fenced (s : State) (p : PartId) (k : StreamIx) (i : Issued) : State :=
  s.modPart p (fun q => q.modStream k (fun x => { x with mode := .fence i }))

theorem exec_fence_ready (h : s.controlReady p k 0 2 = some (i, none)) (hb : (s.fenced p k i).streamBusy p k = true) :
    exec (.fence p k) s = .next (s.fenced p k i) := by
  show execFence p k s = _
  unfold execFence
  simp only [State.controlReady_mode h, h]
  exact congrArg Host.Outcome.next (if_pos hb)
theorem exec_hurdle_ready (h : s.controlReady p k 7 1 = some (i, none)) (hb : (s.fenced p k i).streamBusy p k = true) :
    exec (.hurdle p k) s = .next (s.fenced p k i) := by
  show execHurdle p k s = _
  unfold execHurdle
  simp only [State.controlReady_mode h, h]
  exact congrArg Host.Outcome.next (if_pos hb)
/-- A skipped HURDLE that a declaration names. -/
theorem exec_hurdle_skipped {n : Nat} {j : Job} (h : s.controlReady p k 7 1 = some (i, some n)) (hj : s.jobOf p = some j)
    (hd : (j.declared (hurdleId i.cmd) i.iter).isSome = true) :
    exec (.hurdle p k) s = .next (s.partJobFault p Code.hurdleMissed (i.loc p 3)) := by
  show execHurdle p k s = _
  unfold execHurdle
  simp only [State.controlReady_mode h, h, hj, hd, if_true]

section
variable {x : Stream} (hx : (s.part p).stream? k = some x) (hm : x.mode = .fence i) (hr : (s.part p).st = .run)
  (hh : s.inHold (.sequencer (dieOfPart p)) = false) (hb : s.streamBusy p k = false)
include hx hm hr hh hb
theorem exec_fence_free (hg : i.cmd.group = 0) : exec (.fence p k) s = .next ((s.controlDone p k i).settle p) := by
  show execFence p k s = _
  unfold execFence
  simp [hx, hm, hr, hh, hb, hg]
theorem exec_hurdle_free (hg : i.cmd.group = 7) : exec (.hurdle p k) s = .next (s.decideHurdle p k i) := by
  show execHurdle p k s = _
  unfold execHurdle
  simp [hx, hm, hr, hh, hb, hg]
end

section
variable {j : Job} (hj : s.jobOf p = some j)
include hj
theorem State.decideHurdle_undeclared (hd : j.declared (hurdleId i.cmd) i.iter = none) :
    s.decideHurdle p k i = (s.controlDone p k i).settle p := by
  simp only [State.decideHurdle, hj, hd]
theorem State.decideHurdle_next {d : HurdleDecl} (hd : j.declared (hurdleId i.cmd) i.iter = some (j.nextHurdle, d)) :
    s.decideHurdle p k i = s.modPart p (fun q => q.modStream k (fun x => { x with mode := .arrived i d })) := by
  simp [State.decideHurdle, hj, hd]
theorem State.decideHurdle_missed {n : Nat} {d : HurdleDecl} (hd : j.declared (hurdleId i.cmd) i.iter = some (n, d)) (hn : n ≠ j.nextHurdle) :
    s.decideHurdle p k i = s.partJobFault p Code.hurdleMissed (i.loc p 3) := by
  simp [State.decideHurdle, hj, hd, hn]
end
end

/-- Settles O38: each clause is the lemma of its row above. -/
theorem controlCommandsOfAStream : Obligations.ControlCommandsOfAStream := by
  intro s p k i
  refine ⟨fun c h => ⟨?_, ?_⟩, ?_, fun n h => ?_, ?_, ?_, fun n j => exec_hurdle_skipped⟩
  · rintro n rfl
    rw [exec_nop_ready h]
  · rintro rfl
    rw [exec_nop_ready h]
  · rintro t j x h rfl hj hx hr hh
    refine ⟨fun hc => ?_, fun hc he => ?_⟩
    · rw [exec_endCircuit_ready h, State.closeCircuit_last hj hx hr hh hc]
    · rw [exec_endCircuit_ready h, State.closeCircuit_next hj hx hr hc he]
  · rw [exec_endCircuit_ready h]
  · rintro u rfl hb
    exact ⟨fun h => exec_fence_ready h hb, fun h => exec_hurdle_ready h hb⟩
  · intro x j hx hm hr hh hb hj
    refine ⟨exec_fence_free hx hm hr hh hb, fun hg hd => ?_, fun n d hg hd => ⟨?_, fun hn => ?_⟩⟩
    · rw [exec_hurdle_free hx hm hr hh hb hg, State.decideHurdle_undeclared hj hd]
    · rintro rfl
      rw [exec_hurdle_free hx hm hr hh hb hg, State.decideHurdle_next hj hd]
    · rw [exec_hurdle_free hx hm hr hh hb hg, State.decideHurdle_missed hj hd hn]

end Sys2Proof.Machine
end

section
/-! SUPPORT and the statement of the predicate commands (R93, R119). -/

namespace Sys2Proof.Machine

/-- The write of a predicate bit of a partition (R93). -/
def State.withBit (s : State) (p : PartId) (n : Nat) (b : Bool) : State := s.modPart p (fun q => { q with pred := setBitTo q.pred n b })

theorem writePred_eq (a : Acc) (n : Nat) (b : Bool) (s : State) :
    writePred a n b s = .ok (payload (BitVec.ofNat 32 (b2n b)) Exc.zero) (s.withBit a.part n b) := rfl

/-- The elements of X that a comparison reads, as the plots hold them. -/
def predValues (c : Cmd) (m : Bytes) (base : Nat) : List Val :=
  let x := Ref.ofWord (c.word 3)
  (List.range (predCount c)).map (fun k => x.fmt.decode (Mem.nat m (base + x.at 0 k) x.fmt.size))

section
variable {s : State} {t : TileId} {i : Issued} {bx : Nat}
  (hx : s.TensorAt t Kind.tileRead (Ref.ofWord (i.cmd.word 3)) 1 (predCount i.cmd) bx) (hc : s.sram.ecc = [])
include hx hc
/-- Every element of X is read: X is the one row of a tensor. -/
theorem predElems_ok : ∃ l, predElems (accOf t .vector i) s = .ok (predValues i.cmd s.sram.mem bx) (s.withTraffic l) := by
  obtain ⟨l, hl⟩ := Acc.tensor_ok (e := .vector) (i := i) hx hc s.infield.transit
  refine ⟨l, ?_⟩
  have hrow : (accOf t .vector i).tensor Kind.tileRead (Ref.ofWord (i.cmd.word 3)) 1 (predCount i.cmd) s =
      (bind (predElems (accOf t .vector i)) (fun xs => pure [xs]) : Eng (List (List Val))) s := rfl
  rw [State.withTraffic_self, hrow] at hl
  simp only [bind, EStateM.bind] at hl
  split at hl
  · cases hl; assumption
  · cases hl
/-- A comparison writes whether some element, or every one, meets the condition. -/
theorem cmpBody_ok (all : Bool) (es : List QEntry) : ∃ l, cmpBody all (accOf t .vector i) es s =
    (let hit := fun v => condHolds (predCond i.cmd) v (predImmVal (Ref.ofWord (i.cmd.word 3)).fmt.isInt (predImm i.cmd))
     let xs := predValues i.cmd s.sram.mem bx
     let b := if all then xs.all hit else xs.any hit
     .ok (payload (BitVec.ofNat 32 (b2n b)) Exc.zero) ((s.withBit (partOfTile t) (predBit i.cmd) b).withTraffic l)) := by
  obtain ⟨l, hl⟩ := predElems_ok hx hc
  refine ⟨l, ?_⟩
  show (bind (predElems (accOf t .vector i)) _ : Eng _) s = _
  simp only [bind, EStateM.bind, hl]
  rfl
end

/-- A command of group 6 that has run: the bit is written, and the payload carries it. -/
def State.bitRuns (s : State) (t : TileId) (u : Turn) (i : Issued) (b : Bool) : State :=
  ((s.taken t .vector u).withBit (partOfTile t) (predBit i.cmd) b).nowRuns t .vector i (payload (BitVec.ofNat 32 (b2n b)) Exc.zero)

section
variable {s : State} {t : TileId} {u : Turn} {i : Issued} {es : List QEntry} (h : s.Starts t .vector u i es)
  (hs : s.skipCause (partOfTile t) i es = none) (hg : i.cmd.group = 6)
include h hs hg
theorem exec_cmp {bx : Nat} (all : Bool) (ho : i.cmd.opcode = if all then 2 else 1) (hc : s.sram.ecc = [])
    (hx : (s.taken t .vector u).TensorAt t Kind.tileRead (Ref.ofWord (i.cmd.word 3)) 1 (predCount i.cmd) bx) :
    ∃ l, exec (if all then .cmpAll t else .cmpAny t) s = .next ((s.bitRuns t u i (
      let hit := fun v => condHolds (predCond i.cmd) v (predImmVal (Ref.ofWord (i.cmd.word 3)).fmt.isInt (predImm i.cmd))
      let xs := predValues i.cmd s.sram.mem bx
      if all then xs.all hit else xs.any hit)).withTraffic l) := by
  obtain ⟨l, hl⟩ := cmpBody_ok hx hc all es
  refine ⟨l, ?_⟩
  have hr := State.runOn_runs h hs hg ho hl
  cases all <;> exact congrArg Host.Outcome.next hr
theorem exec_cmpPayload (ho : i.cmd.opcode = 3) : exec (.cmpPayload t) s = .next (s.bitRuns t u i
    (condHolds (predCond i.cmd)
      (predImmVal (predIsInt i.cmd) (match es.head? with
        | some e => if qVoid e then 0 else payloadResult (qPayload e)
        | none => 0)) (predImmVal (predIsInt i.cmd) (predImm i.cmd)))) :=
  congrArg Host.Outcome.next (State.runOn_runs h hs hg ho (writePred_eq _ _ _ _))
theorem exec_setBit (ho : i.cmd.opcode = 4) : exec (.setBit t) s = .next (s.bitRuns t u i (bit (predImm i.cmd) 0)) :=
  congrArg Host.Outcome.next (State.runOn_runs h hs hg ho (writePred_eq _ _ _ _))
end

/-- Settles O43: each row writes the bit that its comparison, or IMM, gives. -/
theorem predicateCommandsWriteOneBit : Obligations.PredicateCommandsWriteOneBit := by
  rintro s t u i es x bx h hg hs rfl b w rfl
  refine ⟨fun hc hx => ⟨fun ho hb => ?_, fun ho hb => ?_⟩, fun ho hb => ?_, fun ho hb => ?_⟩
  · subst hb
    obtain ⟨l, hl⟩ := exec_cmp h hs hg false ho hc hx
    simp only [predValues, List.any_map, Bool.false_eq_true, if_false] at hl
    exact ⟨l, hl⟩
  · subst hb
    obtain ⟨l, hl⟩ := exec_cmp h hs hg true ho hc hx
    simp only [predValues, List.all_map, if_true] at hl
    exact ⟨l, hl⟩
  · subst hb
    exact exec_cmpPayload h hs hg ho
  · subst hb
    exact exec_setBit h hs hg ho

end Sys2Proof.Machine
end

section
/-! SUPPORT and the statement of a job's start, hurdles and completion (R86, R121, R122, R184, R185, R293). -/

namespace Sys2Proof.Machine

/-! The states a start and an end leave (R61, R86, R184). -/

/-- A partition whose job starts from SET. -/
def Partition.begun (q : Partition) (j : Job) : Partition :=
  { q with
    st := .run, pred := j.predInit, engines := [], pointQ := []
    streams := (j.image.streams.filter (fun x : StreamDef => x.jobPart == q.jobPart)).map (fun x : StreamDef => x.begin j.fromHurdle)
    lists := (j.image.lists.filter (fun x : ListDef => x.jobPart == q.jobPart)).map (fun x : ListDef => x.begin j.fromHurdle) }
theorem State.beginJob_part (s : State) (j : Job) (n : Nat) (p : PartId) :
    (s.beginJob j n).part p = if (s.part p).job = some j.id then (s.part p).begun j else s.part p := by
  have h : (s.beginJob j n).parts = s.parts.map (fun q => if q.job == some j.id then q.begun j else q) := rfl
  rw [State.part, h]
  exact (Vector.getElem_map ..).trans (if_congr beq_iff_eq rfl rfl)
theorem State.endJob_part (s : State) (j : Job) (p : PartId) :
    (s.endJob j).part p = if (s.part p).job = some j.id then (s.part p).leave .marks else s.part p := by
  rw [State.endJob, State.removeJob_part, State.part_of_inside (State.jobEvent_inside ..)]

section
variable {s : State} {lead : PartId} {j : Job} (hj : s.jobOfLead lead = some j)
include hj

/-! JOB_START (R86, R184). -/

section
variable {b : PaceBlock} (hb : j.pace = some b)
include hb
theorem exec_jobStart_early (h : j.phase ≠ .armed ∨ j.startDone = false ∨ s.pace.count.toNat < b.startCount) :
    exec (.jobStart lead) s = .next s := by
  have hn : (j.phase != .armed || !j.startDone || s.pace.count.toNat < b.startCount) = true := by simpa [or_assoc] using h
  show execJobStart lead s = _
  unfold execJobStart
  simp only [hj, hb, if_pos hn]
theorem exec_jobStart_due (hp : j.phase = .armed) (hd : j.startDone = true) (hc : b.startCount ≤ s.pace.count.toNat) :
    exec (.jobStart lead) s = .next (if j.resuming then s.continueJob j b.startCount else s.beginJob j b.startCount) := by
  show execJobStart lead s = _
  unfold execJobStart
  simp [hj, hb, hp, hd, Nat.not_lt.2 hc]
end

/-! HURDLE_REACHED (R121, R185, R293). -/

section
variable {d : HurdleDecl} (hd : j.image.hurdles[j.nextHurdle]? = some d)
include hd
theorem exec_hurdleReached (hr : j.phase = .run) (hh : j.hurdle = none) (hc : s.pausedClean j = true)
    (ha : ∀ p ∈ j.parts, (s.part p).allArrived d = true) :
    exec (.hurdleReached lead) s = .next (match j.unclean with
      | some x => s.jobFault j.id Code.hurdleUnclean (s.xferLoc j x)
      | none => ((s.modJob j.id (fun j => { j with hurdle := some d })).logs Code.hurdleReached j.fn.val).jobEvent j 2
          { status := Status.success, detail0 := s.pace.count
            detail1 := BitVec.ofNat 64 (d.id.toNat * 2 ^ 48 + d.iteration % 2 ^ 32) }) := by
  have hall : j.parts.all (fun p => (s.part p).allArrived d) = true := List.all_eq_true.2 ha
  show execHurdleReached lead s = _
  unfold execHurdleReached
  simp only [hj, hd, hr, hh, hc, hall]
  cases j.unclean <;> rfl
theorem exec_hurdleReached_not {p : PartId} (hp : p ∈ j.parts) (ha : (s.part p).allArrived d = false) :
    exec (.hurdleReached lead) s = .next s := by
  have hall : j.parts.all (fun p => (s.part p).allArrived d) = false := List.all_eq_false.2 ⟨p, hp, by simp [ha]⟩
  show execHurdleReached lead s = _
  unfold execHurdleReached
  simp only [hj, hd, hall, Bool.not_false, Bool.or_true, if_true]
end

/-! HURDLE_RESUME (R122). -/

theorem exec_hurdleResume {d : HurdleDecl} {n : Nat} (hh : j.hurdle = some d) (hn : j.resumeCount = some n) :
    exec (.hurdleResume lead) s = .next (if j.phase != .run || s.pace.count.toNat < n then s else s.releaseJob j d n) := by
  show execHurdleResume lead s = _
  unfold execHurdleResume
  simp only [hj, hh, hn]

/-! JOB_COMPLETION (R86). -/

theorem exec_jobCompletion : exec (.jobCompletion lead) s = .next (if s.jobDone j then s.endJob j else s) := by
  show execJobCompletion lead s = _
  unfold execJobCompletion
  simp only [hj]
end

/-- Settles O45: each clause is the row's case above; what a start and an end leave of a partition is read from it. -/
theorem jobsStartPauseAndEndAtTheirCounts : Obligations.JobsStartPauseAndEndAtTheirCounts := by
  intro s lead j hj
  refine ⟨fun b hb => ⟨exec_jobStart_early hj hb, ?_, ?_⟩, fun d hd hr hh hc ha => ⟨?_, ?_⟩, ?_, fun d n hh hn => ⟨?_, ?_⟩, ?_, ?_, ?_⟩
  · intro hp hs hc hn
    refine ⟨_, exec_jobStart_due hj hb hp hs hc, ?_⟩
    rw [hn, if_neg Bool.false_ne_true]
    refine ⟨fun p h => ?_, fun p h => ?_, rfl, rfl, rfl, rfl⟩
    · rw [State.beginJob_part, if_neg h]
    · rw [State.beginJob_part, if_pos h]
      refine ⟨rfl, rfl, rfl, fun hf => ?_⟩
      simp only [Partition.begun, hf]
      rfl
  · intro hp hs hc hn
    rw [exec_jobStart_due hj hb hp hs hc, hn, if_pos rfl]
  · intro hu
    rw [exec_hurdleReached hj hd hr hh hc ha, hu]
  · intro x hu
    rw [exec_hurdleReached hj hd hr hh hc ha, hu]
  · rintro ⟨d, hd, p, hp, ha⟩
    exact exec_hurdleReached_not hj hd hp ha
  · intro hc
    rw [exec_hurdleResume hj hh hn, if_pos (by simp [hc])]
  · intro hc hp
    rw [exec_hurdleResume hj hh hn, if_neg (by simp [hp, hc])]
  · intro hd
    rw [exec_jobCompletion hj, if_pos hd]
    rfl
  · intro hd p hp
    refine ⟨_, exec_jobCompletion hj, ?_⟩
    rw [if_pos hd, State.endJob_part, if_pos hp]
    exact ⟨rfl, rfl, rfl, rfl⟩
  · intro hd
    rw [exec_jobCompletion hj, if_neg (by simp [hd])]

end Sys2Proof.Machine
end

section
/-! SUPPORT and the statement of LOAD, LOAD_TAKE_UP and LOAD_COMPLETE (R81, R82, R84, R238, R393, Table 12-8). -/

namespace Sys2Proof.Machine

/-! LOAD (R81). -/

theorem exec_load {s t : State} {d : Desc} (h : s.takeMc Op.load = some (d, t)) : exec .load s = .next (
    if d.loadOk then
      if d.fn = 0 ∨ t.gated d = true then t.done d Status.notPermitted else t.modMgt (fun m => { m with loads := m.loads ++ [d] })
    else t.done d Status.badDescriptor) := by
  show execLoad s = _
  unfold execLoad
  simp only [h]
  by_cases hk : d.loadOk = true <;> by_cases hp : d.fn = 0 ∨ t.gated d = true <;> simp_all

/-! A load that is taken up (R61, R81, R82, R238). -/

section
variable {t : State} {d : Desc}

theorem State.admits_false {f : FnId} {p : PartId}
    (h : t.bound f p = false ∨ ((t.part p).st ≠ .marks ∧ (t.part p).owner ≠ none ∧ (t.part p).owner ≠ some f)) : t.admits f p = false := by
  obtain h | ⟨hs, ho, hf⟩ := h
  · simp [State.admits, h]
  · simp [State.admits, hs, hf, Option.isSome_iff_ne_none, ho]
theorem State.admits_true {f : FnId} {p : PartId} (hb : t.bound f p = true)
    (h : (t.part p).st = .marks ∨ (t.part p).owner = none ∨ (t.part p).owner = some f) : t.admits f p = true := by
  simpa [State.admits, hb, or_assoc] using h

theorem State.takeLoad_notPermitted {p : PartId} (hp : p ∈ partMapParts (d.word 2)) (h : t.admits d.fn p = false) :
    t.takeLoad d = t.done d Status.notPermitted := by
  have ha : (partMapParts (d.word 2)).all (t.admits d.fn) = false := List.all_eq_false.2 ⟨p, hp, by simp [h]⟩
  simp [State.takeLoad, ha]

variable (ha : ∀ p ∈ partMapParts (d.word 2), t.admits d.fn p = true)
include ha
theorem State.takeLoad_conflict {p : PartId} (hp : p ∈ partMapParts (d.word 2)) (h : (t.part p).st ≠ .marks) : t.takeLoad d = t.conflict d := by
  have hm : (partMapParts (d.word 2)).all (fun p => (t.part p).st == .marks) = false := List.all_eq_false.2 ⟨p, hp, by simp [h]⟩
  simp only [State.takeLoad, List.all_eq_true.2 ha, hm]
  rfl
variable (hm : ∀ p ∈ partMapParts (d.word 2), (t.part p).st = .marks)
include hm
theorem State.takeLoad_waits {p : PartId} (hp : p ∈ partMapParts (d.word 2)) (h : (t.part p).zeroing = true) :
    t.takeLoad d = t.modMgt (fun m => { m with loadHeld := some d }) := by
  have hm : (partMapParts (d.word 2)).all (fun p => (t.part p).st == .marks) = true := List.all_eq_true.2 fun p hp => by simp [hm p hp]
  have hz : (partMapParts (d.word 2)).any (fun p => (t.part p).zeroing) = true := List.any_eq_true.2 ⟨p, hp, h⟩
  simp only [State.takeLoad, List.all_eq_true.2 ha, hm, hz]
  rfl
variable (hz : ∀ p ∈ partMapParts (d.word 2), (t.part p).zeroing = false)
include hz
/-- Every named partition is in MARKS: the image is read once its header can be claimed. -/
theorem State.takeLoad_admitted : t.takeLoad d =
    if (t.pushOp (t.winOp d none)).canClaim (t.winOp d none) then (t.pushOp (t.winOp d none)).loadGo (t.winOp d none)
    else t.pushOp (t.winOp d none) := by
  have hm : (partMapParts (d.word 2)).all (fun p => (t.part p).st == .marks) = true := List.all_eq_true.2 fun p hp => by simp [hm p hp]
  have hz : (partMapParts (d.word 2)).any (fun p => (t.part p).zeroing) = false := List.any_eq_false.2 fun p hp => by simp [hz p hp]
  simp only [State.takeLoad, List.all_eq_true.2 ha, hm, hz]
  rfl
end

/-! The image has been read: its checks decide (R82). -/

section
variable {t u v x : State} {o q : WinOp} {bs : List Byte} (ho : t.openHeader o = .opened u q) (hr : u.readLoad q = (v, some bs))
  (hx : x = v.setOp q { q with phase := .reply bs.length })
include ho hr hx
theorem State.loadGo_denied {n : Denial} (hn : x.loadChecks bs (partMapParts (o.desc.word 2)) = some n) :
    t.loadGo o = x.denyLoad o.desc (partMapParts (o.desc.word 2)) n := by
  subst hx
  simp only [State.loadGo, ho, hr]
  rw [← State.openHeader_desc ho] at hn ⊢
  simp only [hn]
theorem State.loadGo_passed (hn : x.loadChecks bs (partMapParts (o.desc.word 2)) = none) : t.loadGo o = x.modMgt (fun m =>
    { m with task := some { desc := o.desc, parts := partMapParts (o.desc.word 2), image := readImage bs, lost := false } }) := by
  subst hx
  simp only [State.loadGo, ho, hr]
  rw [← State.openHeader_desc ho] at hn ⊢
  simp only [hn]
end

/-- A firmware update waits while a load is in hand (R81, R365). -/
theorem State.fwProceed_loading {s : State} (h : s.loading = true) : s.fwProceed = s := by
  unfold State.fwProceed
  rw [if_pos (by simp [h])]

/-- LOAD_TAKE_UP takes the load at its turn, or the one that has waited for zeroing, out of where it waits. -/
def State.TakesUp (s : State) (d : Desc) (t : State) : Prop :=
  (∃ rest, s.mgt.loads = d :: rest ∧ s.loading = false ∧ t = s.modMgt (fun m => { m with loads := rest })) ∨
    (s.mgt.loadHeld = some d ∧ (∀ p ∈ partMapParts (d.word 2), (s.part p).zeroing = false) ∧ t = s.modMgt (fun m => { m with loadHeld := none }))

section
variable {s t : State} {d : Desc}
/-- All that changes is that list. -/
theorem State.TakesUp.eq (h : s.TakesUp d t) : ∃ f, t = s.modMgt f := by
  obtain ⟨-, -, -, rfl⟩ | ⟨-, -, rfl⟩ := h
  · exact ⟨_, rfl⟩
  · exact ⟨_, rfl⟩
theorem exec_loadTakeUp (hf : s.fwServes = true) (h : s.TakesUp d t) : exec .loadTakeUp s = .next (t.takeLoad d).fwProceed := by
  show execLoadTakeUp s = _
  unfold execLoadTakeUp
  obtain ⟨rest, hl, hn, rfl⟩ | ⟨hh, hz, rfl⟩ := h
  · have hh : s.mgt.loadHeld = none := by
      simp only [State.loading, Bool.or_eq_false_iff] at hn
      simpa using hn.1.2
    simp [hf, hl, hn, hh]
  · have hz : (partMapParts (d.word 2)).any (fun p => (s.part p).zeroing) = false := List.any_eq_false.2 fun p hp => by simp [hz p hp]
    simp [hf, hh, hz]
theorem exec_loadTakeUp_held {p : PartId} (h : s.mgt.loadHeld = some d) (hp : p ∈ partMapParts (d.word 2)) (hz : (s.part p).zeroing = true) :
    exec .loadTakeUp s = .next s := by
  have hz : (partMapParts (d.word 2)).any (fun p => (s.part p).zeroing) = true := List.any_eq_true.2 ⟨p, hp, hz⟩
  show execLoadTakeUp s = _
  unfold execLoadTakeUp
  simp only [h, hz, if_true, ite_self]
end

/-! Step 7: what an accepted load writes (R84). -/

/-- The plots with everything that an image writes into the regions of its partitions. -/
def Image.written (g : Image) (ps : List PartId) (m : Bytes) : Bytes :=
  g.writes.foldl (fun m x => match g.place ps x.1 x.2.1 x.2.2.1 with
    | some a => Mem.write m a x.2.2.2
    | none => m) m
/-- The writes, one after another. -/
def State.storeImage (s : State) (g : Image) (ps : List PartId) : State :=
  g.writes.foldl (fun s x => match g.place ps x.1 x.2.1 x.2.2.1 with
    | some a => (s.store a x.2.2.2 (Loc.base 10)).1
    | none => s) s
theorem State.storeImage_clean {s : State} (hc : s.sram.ecc = []) (g : Image) (ps : List PartId) :
    s.storeImage g ps = s.withMem (g.written ps s.sram.mem) := by
  unfold State.storeImage Image.written
  generalize g.writes = ws
  induction ws generalizing s with
  | nil => rfl
  | cons x ws ih =>
    simp only [List.foldl_cons]
    cases g.place ps x.1 x.2.1 x.2.2.1 with
    | none => exact ih hc
    | some a => simp only [State.store_clean s a _ _ hc]; exact ih hc

/-- From s to t only partitions of ps have changed, and as f says. -/
structure State.Fills (s t : State) (ps : List PartId) : Prop where
  rest : { t with parts := s.parts } = s
  other : ∀ p ∉ ps, t.part p = s.part p

theorem State.Fills.refl (s : State) (ps : List PartId) : s.Fills s ps := ⟨rfl, fun _ _ => rfl⟩
theorem State.Fills.trans {s t u : State} {ps : List PartId} (h : s.Fills t ps) (k : t.Fills u ps) : s.Fills u ps where
  rest := by
    have hu : { u with parts := s.parts } = { t with parts := s.parts } := congrArg (fun w : State => { w with parts := s.parts }) k.rest
    exact hu.trans h.rest
  other p hp := (k.other p hp).trans (h.other p hp)
theorem State.Fills.sram {s t : State} {ps : List PartId} (h : s.Fills t ps) : t.sram = s.sram := (congrArg State.sram h.rest :)
theorem State.modPart_fills (s : State) {ps : List PartId} {p : PartId} (f : Partition → Partition) (hp : p ∈ ps) : s.Fills (s.modPart p f) ps where
  rest := rfl
  other q hq := State.modPart_part_other s p q f fun h => hq (h ▸ hp)

/-- A partition of a job that LOAD installs: SET, owned, with the job's identity, its predicate bits 0. -/
def Partition.Installed (q : Partition) (f : FnId) (id : Nat) : Prop := q.st = .set ∧ q.owner = some f ∧ q.job = some id ∧ q.pred = 0

section
variable {s : State} {ps : List PartId}

theorem State.setParts_fills (f : Nat → PartId → Partition) : s.Fills (s.setParts ps f) ps := by
  unfold State.setParts
  refine List.foldlRecOn _ _ (motive := fun t : State => s.Fills t ps) (State.Fills.refl s ps) fun t h x hx => ?_
  exact h.trans (t.modPart_fills _ (List.of_mem_zip hx).2)
/-- Each partition that is named is set by one of its places in the list. -/
theorem State.setParts_part {P : Partition → Prop} {f : Nat → PartId → Partition} (h : ∀ n p, P (f n p)) {p : PartId} (hp : p ∈ ps) :
    P ((s.setParts ps f).part p) := by
  unfold State.setParts
  have hp : p ∈ ((List.range ps.length).zip ps).map Prod.snd := by
    rw [List.map_snd_zip (by simp)]; exact hp
  generalize (List.range ps.length).zip ps = l at hp
  induction l using List.reverseRecOn with
  | nil => cases hp
  | append_singleton l x ih =>
    rw [List.foldl_append, List.foldl_cons, List.foldl_nil]
    by_cases hx : x.2 = p
    · subst hx; rw [State.modPart_part]; exact h ..
    · rw [State.modPart_part_other _ _ _ _ hx]
      exact ih (by simpa [Ne.symm hx] using hp)

variable (hc : s.sram.ecc = [])
include hc
/-- The seeds of a queue change nothing of its partition but its queues. -/
theorem State.seedQueues_fills {p : PartId} (hp : p ∈ ps) (m : Option AllocMap) :
    s.Fills (s.seedQueues p m) ps ∧ ∀ q, ∃ ks, (s.seedQueues p m).part q = { s.part q with queues := ks } := by
  unfold State.seedQueues
  refine List.foldlRecOn _ _ (motive := fun t : State => s.Fills t ps ∧ ∀ q, ∃ ks, t.part q = { s.part q with queues := ks })
    ⟨State.Fills.refl s ps, fun q => ⟨_, rfl⟩⟩ ?_
  rintro t ⟨h, hq⟩ k -
  dsimp only
  split
  · exact ⟨h, hq⟩
  · rw [State.fetchBytes_clean t _ _ _ (by rw [h.sram]; exact hc)]
    refine ⟨h.trans (t.modPart_fills _ hp), fun q => ?_⟩
    obtain ⟨ks, hks⟩ := hq q
    by_cases hqp : p = q
    · subst hqp
      rw [State.modPart_part, hks]
      exact ⟨_, rfl⟩
    · rw [State.modPart_part_other _ _ _ _ hqp]
      exact ⟨ks, hks⟩
/-- Every queue of the named partitions is seeded. -/
theorem State.seedAll_fills : let t := ps.foldl (fun s p => s.seedQueues p (s.part p).mapA) s
    s.Fills t ps ∧ ∀ q, ∃ ks, t.part q = { s.part q with queues := ks } := by
  refine List.foldlRecOn ps _ (motive := fun t : State => s.Fills t ps ∧ ∀ q, ∃ ks, t.part q = { s.part q with queues := ks })
    ⟨State.Fills.refl s ps, fun q => ⟨_, rfl⟩⟩ ?_
  rintro t ⟨h, hq⟩ p hp
  obtain ⟨h1, hq1⟩ := State.seedQueues_fills (s := t) (by rw [h.sram]; exact hc) hp (t.part p).mapA
  refine ⟨h.trans h1, fun q => ?_⟩
  obtain ⟨ks, hks⟩ := hq q
  obtain ⟨ls, hls⟩ := hq1 q
  exact ⟨ls, by rw [hls, hks]⟩
end

/-- The partitions that step 7 sets, with their queues seeded. -/
def State.fillParts (s : State) (d : Desc) (ps : List PartId) (g : Image) (id : Nat) : State :=
  ps.foldl (fun s p => s.seedQueues p (s.part p).mapA) (s.setParts ps (fun jp _ => g.partition id jp d.fn .set))
theorem State.install_eq (s : State) (d : Desc) (ps : List PartId) (g : Image) : s.install d ps g =
    (let w := (s.storeImage g ps).fillParts d ps g s.mgt.nextJob
     ({ w with jobs := w.jobs ++ [g.job s.mgt.nextJob d ps] }.claimLinks (g.job s.mgt.nextJob d ps)).modMgt
      (fun m => { m with nextJob := s.mgt.nextJob + 1 })) := rfl
/-- Each of them is installed, and nothing else has changed. -/
theorem State.fillParts_fills {s : State} (hc : s.sram.ecc = []) (d : Desc) (ps : List PartId) (g : Image) (id : Nat) :
    s.Fills (s.fillParts d ps g id) ps ∧ ∀ p ∈ ps, ((s.fillParts d ps g id).part p).Installed d.fn id := by
  have hset := State.setParts_fills (s := s) (ps := ps) (fun jp _ => g.partition id jp d.fn .set)
  obtain ⟨hseed, hq⟩ := State.seedAll_fills (s := s.setParts ps (fun jp _ => g.partition id jp d.fn .set)) (ps := ps)
    (by rw [hset.sram]; exact hc)
  refine ⟨hset.trans hseed, fun p hp => ?_⟩
  obtain ⟨ks, hks⟩ := hq p
  rw [State.fillParts, hks]
  exact State.setParts_part (P := fun q => q.Installed d.fn id) (fun _ _ => ⟨rfl, rfl, rfl, rfl⟩) hp
/-- Without errors in the plots: the plots hold what the image writes, the named partitions are installed, and the job is the package's. -/
theorem State.install_clean {s : State} (hc : s.sram.ecc = []) (d : Desc) (ps : List PartId) (g : Image) :
    (∀ p ∈ ps, ((s.install d ps g).part p).Installed d.fn s.mgt.nextJob) ∧ (∀ p ∉ ps, (s.install d ps g).part p = s.part p) ∧
    (s.install d ps g).jobs = s.jobs ++ [g.job s.mgt.nextJob d ps] ∧
    (s.install d ps g).mgt = { s.mgt with nextJob := s.mgt.nextJob + 1 } ∧ (s.install d ps g).log = s.log ∧
    (s.install d ps g).hiu = s.hiu ∧ (s.install d ps g).sram.mem = g.written ps s.sram.mem := by
  rw [State.install_eq, State.storeImage_clean hc]
  obtain ⟨hfill, hin⟩ := State.fillParts_fills (s := s.withMem (g.written ps s.sram.mem)) hc d ps g s.mgt.nextJob
  generalize (s.withMem (g.written ps s.sram.mem)).fillParts d ps g s.mgt.nextJob = w at hfill hin
  have hrest := hfill.rest
  refine ⟨hin, hfill.other, ?_, ?_, (congrArg State.log hrest :), (congrArg State.hiu hrest :), (congrArg (fun u => u.sram.mem) hrest :)⟩
  · exact congrArg (· ++ [g.job s.mgt.nextJob d ps]) (congrArg State.jobs hrest :)
  · exact congrArg (fun m : Mgt => { m with nextJob := s.mgt.nextJob + 1 }) (congrArg State.mgt hrest :)

/-! LOAD_COMPLETE (R82, R84). -/

section
variable {s : State} {k : LoadTask} (hk : s.mgt.task = some k) (hf : s.fwServes = true)
  (hr : ∀ x ∈ s.sram.reserve, x.part ≠ .workingStore ∧ x.part ≠ .stagedMap)
include hk hf hr
theorem exec_loadComplete : exec .loadComplete s = .next (
    let t := s.modMgt (fun m => { m with task := none })
    (if k.lost then (t.rezero k.parts).complete k.desc { status := Status.imageRefused, fault := Code.goldenLost }
     else if !k.parts.all (fun p => (s.part p).st == .marks && !(s.part p).zeroing) then (t.rezero k.parts).conflict k.desc
     else (t.install k.desc k.parts k.image).done k.desc Status.success).fwProceed) := by
  have hm : s.meetReserve (Loc.base 10) (fun x => x.part == .workingStore || (x.part == .stagedMap && x.holder.any k.parts.contains)) = s :=
    State.meetReserve_none _ fun x hx => by simp [hr x hx]
  show execLoadComplete s = _
  unfold execLoadComplete
  simp only [hk, hf, hm]
  rfl
end

/-- Settles O47: a load is taken up as `State.takeLoad`'s cases say, and step 7 leaves what `State.install_clean` says. -/
theorem loadsAreCheckedTakenUpAndInstalled : Obligations.LoadsAreCheckedTakenUpAndInstalled := by
  refine ⟨?load, ?takeUp, fun s d p => exec_loadTakeUp_held, ?complete⟩
  case load =>
    refine fun s t d h => ⟨fun hk => ?_, fun hk hp => ?_, fun hk hf hg => ?_⟩
    · rw [exec_load h, if_neg (by simp [hk])]
    · rw [exec_load h, if_pos hk, if_pos hp]
    · rw [exec_load h, if_pos hk, if_neg (by simp [hf, hg])]
  case takeUp =>
    rintro s t d rest ps hf rfl h
    have h : s.TakesUp d t := h.imp_left fun h => ⟨rest, h⟩
    obtain ⟨f, ht⟩ := h.eq
    rw [exec_loadTakeUp hf h]
    subst ht
    refine ⟨fun ⟨p, hp, hn⟩ => ?_, fun ha => ?_⟩
    · rw [State.takeLoad_notPermitted (t := s.modMgt f) hp (State.admits_false hn)]
    have ha : ∀ p ∈ partMapParts (d.word 2), (s.modMgt f).admits d.fn p = true := fun p hp => State.admits_true (ha p hp).1 (ha p hp).2
    refine ⟨fun ⟨p, hp, hm⟩ => ?_, fun hm ⟨p, hp, hz⟩ => ?_, fun hm hc => ?_, fun hm o u v x bs hc ho hr hx => ?_⟩
    · rw [State.takeLoad_conflict ha hp hm]
    · rw [State.takeLoad_waits ha hm hp hz, State.fwProceed_loading (by simp [State.loading])]
    · rw [State.takeLoad_admitted ha (fun p hp => (hm p hp).1) (fun p hp => (hm p hp).2), if_neg (by simp [hc])]
    · rw [State.takeLoad_admitted ha (fun p hp => (hm p hp).1) (fun p hp => (hm p hp).2), if_pos hc]
      exact ⟨fun n hn => by rw [State.loadGo_denied ho hr hx hn]; rfl, fun hn => by rw [State.loadGo_passed ho hr hx hn]; rfl⟩
  case complete =>
    rintro s t k hk hf hr rfl
    rw [exec_loadComplete hk hf hr]
    refine ⟨fun hl => ?_, fun hl ⟨p, hp, hm⟩ => ?_, fun hl hm hc => ?_⟩
    · simp only [hl, if_true]
    · have hall : k.parts.all (fun p => (s.part p).st == .marks && !(s.part p).zeroing) = false :=
        List.all_eq_false.2 ⟨p, hp, by rcases hm with hm | hm <;> simp [hm]⟩
      simp only [hl, hall]
      rfl
    · have hall : k.parts.all (fun p => (s.part p).st == .marks && !(s.part p).zeroing) = true :=
        List.all_eq_true.2 fun p hp => by simp [hm p hp]
      obtain ⟨hin, hout, hjobs, hmgt, hlog, hhiu, hmem⟩ :=
        State.install_clean (s := s.modMgt (fun m => { m with task := none })) hc k.desc k.parts k.image
      refine ⟨_, ?_, hin, hout, hjobs, by rw [hmgt]; rfl, by rw [hmgt]; rfl, hlog, hhiu, ?_⟩
      · simp only [hl, hall]
        rfl
      · rw [hmem]
        rfl

end Sys2Proof.Machine
end

section
/-! SUPPORT and the statement of END, HURDLE and PARK (R96, R122, R170, R287, R291, R395, R396, R397, Table 12-8). -/

namespace Sys2Proof.Machine

/-! END (R96, R170). -/

/-- What an END that its issuer may send does to the job in RUN at LEAD, where there is one (R170). -/
def endAct (d : Desc) (t : State) : Option Job → State
  | none => t.conflict d
  | some j => if (d.word 3).toNat < t.pace.count.toNat + leadBeats then t.complete d { status := Status.countTooSoon }
    else (t.recordEnd j (d.word 3).toNat).complete d { status := Status.success }
theorem exec_endDescriptor {s t : State} {d : Desc} (h : s.takeRe Op.endD = some (d, t)) : exec .endDescriptor s = .next (
    if !d.endOk then t.done d Status.badDescriptor
    else if !t.vfAllowed d [d.lead] then t.complete d { status := Status.notPermitted }
    else endAct d t (t.leadJob d.lead .run)) := by
  show execEndDescriptor s = _
  unfold execEndDescriptor
  simp only [h]
  cases t.leadJob d.lead .run <;> rfl
/-- A job with a number of circuits has no list that END would bound. -/
theorem State.recordEnd_counted (s : State) {j : Job} (n : Nat) (h : j.circuits ≠ 0) :
    s.recordEnd j n = s.modJob j.id (fun k => { k with endCount := some n }) := by
  unfold State.recordEnd
  rw [if_pos (by simpa using h)]

theorem end_clauses (s t : State) (d : Desc) (h : s.takeRe Op.endD = some (d, t)) :
    (d.endOk = false → exec .endDescriptor s = .next (t.done d Status.badDescriptor)) ∧
    (d.endOk = true → t.vfAllowed d [d.lead] = false → exec .endDescriptor s = .next (t.complete d { status := Status.notPermitted })) ∧
    (d.endOk = true → t.vfAllowed d [d.lead] = true →
      (t.leadJob d.lead .run = none → exec .endDescriptor s = .next (t.conflict d)) ∧
      (∀ j : Job, t.leadJob d.lead .run = some j →
        ((d.word 3).toNat < t.pace.count.toNat + 12288 → exec .endDescriptor s = .next (t.complete d { status := Status.countTooSoon })) ∧
        (t.pace.count.toNat + 12288 ≤ (d.word 3).toNat →
          exec .endDescriptor s = .next ((t.recordEnd j (d.word 3).toNat).complete d { status := Status.success }) ∧
          (j.circuits ≠ 0 → t.recordEnd j (d.word 3).toNat = t.modJob j.id (fun k => { k with endCount := some (d.word 3).toNat }))))) := by
  rw [exec_endDescriptor h]
  refine ⟨fun hk => ?_, fun hk hf => ?_, fun hk hf => ⟨fun hj => ?_, fun j hj => ⟨fun hn => ?_, fun hn => ⟨?_, t.recordEnd_counted _⟩⟩⟩⟩
  · simp [hk]
  · simp [hk, hf]
  · simp [hk, hf, hj, endAct]
  · simp [hk, hf, hj, endAct, leadBeats, hn]
  · simp [hk, hf, hj, endAct, leadBeats, Nat.not_lt.2 hn]

/-! HURDLE (R122, R291). -/

section
variable {s t : State} {d : Desc} {stop : Bool} (h : s.takeRe Op.hurdle = some (d, t)) (act : Desc → Job → State → State)
include h
theorem State.hurdleDesc_other (hs : (d.word 2).getLsbD 8 ≠ stop) : s.hurdleDesc stop act = s := by
  have hb : (bit (d.word 2) 8 != stop) = true := bne_iff_ne.2 hs
  simp only [State.hurdleDesc, h, hb, if_true]
variable (hs : (d.word 2).getLsbD 8 = stop)
include hs
theorem State.hurdleDesc_eq : s.hurdleDesc stop act =
    if !d.hurdleOk then t.done d Status.badDescriptor
    else if !t.vfAllowed d [d.lead] then t.complete d { status := Status.notPermitted }
    else match t.leadJob d.lead .run with
      | none => t.conflict d
      | some j => if t.atHurdle j && j.resumeCount.isNone then act d j t else t.conflict d := by
  have hb : (bit (d.word 2) 8 != stop) = false := bne_eq_false_iff_eq.2 hs
  simp only [State.hurdleDesc, h, hb]
  cases t.leadJob d.lead .run <;> rfl
variable (hk : d.hurdleOk = true) (hf : t.vfAllowed d [d.lead] = true)
include hk hf
theorem State.hurdleDesc_jobless (hj : t.leadJob d.lead .run = none) : s.hurdleDesc stop act = t.conflict d := by
  simp [State.hurdleDesc_eq h act hs, hk, hf, hj]
variable {j : Job} (hj : t.leadJob d.lead .run = some j)
include hj
theorem State.hurdleDesc_conflict (hn : t.atHurdle j = false ∨ j.resumeCount.isSome = true) : s.hurdleDesc stop act = t.conflict d := by
  have hb : (t.atHurdle j && j.resumeCount.isNone) = false := by
    obtain hn | hn := hn
    · simp [hn]
    · simp [hn]
  simp [State.hurdleDesc_eq h act hs, hk, hf, hj, hb]
theorem State.hurdleDesc_acts (ha : t.atHurdle j = true) (hr : j.resumeCount = none) : s.hurdleDesc stop act = act d j t := by
  simp [State.hurdleDesc_eq h act hs, hk, hf, hj, ha, hr]
end

/-- What an accepted HURDLE descriptor does: a stop ends the job, a release records its count (R122, R291). -/
def hurdleAct (stop : Bool) (d : Desc) (j : Job) (t : State) : State :=
  if stop then ((t.stopStreams j.lead Status.streamAborted).complete d { status := Status.success }).endJob j
  else if (d.word 3).toNat < t.pace.count.toNat + leadBeats then t.startRefused d Code.startTooSoon
  else ((t.modJob j.id (fun j => { j with resumeCount := some (d.word 3).toNat })).stopStreams j.lead Status.streamAborted).complete d
    { status := Status.success }
theorem exec_hurdleDesc (stop : Bool) (s : State) :
    exec (if stop then .hurdleStop else .hurdleRelease) s = .next (s.hurdleDesc stop (hurdleAct stop)) := by
  cases stop <;> rfl

theorem hurdle_clauses (s t : State) (d : Desc) (stop : Bool) (row : Instr) (h : s.takeRe Op.hurdle = some (d, t))
    (hrow : row = (if stop then .hurdleStop else .hurdleRelease)) :
    ((d.word 2).getLsbD 8 ≠ stop → exec row s = .next s) ∧
    ((d.word 2).getLsbD 8 = stop →
      (d.hurdleOk = false → exec row s = .next (t.done d Status.badDescriptor)) ∧
      (d.hurdleOk = true → t.vfAllowed d [d.lead] = false → exec row s = .next (t.complete d { status := Status.notPermitted })) ∧
      (d.hurdleOk = true → t.vfAllowed d [d.lead] = true →
        (t.leadJob d.lead .run = none → exec row s = .next (t.conflict d)) ∧
        (∀ j : Job, t.leadJob d.lead .run = some j →
          (t.atHurdle j = false ∨ j.resumeCount.isSome = true → exec row s = .next (t.conflict d)) ∧
          (t.atHurdle j = true → j.resumeCount = none → exec row s = .next (hurdleAct stop d j t))))) := by
  rw [hrow, exec_hurdleDesc]
  refine ⟨fun hs => ?_, fun hs => ⟨fun hk => ?_, fun hk hf => ?_, fun hk hf => ⟨fun hj => ?_, fun j hj => ⟨fun hn => ?_, fun ha hr => ?_⟩⟩⟩⟩
  · rw [State.hurdleDesc_other h _ hs]
  · simp [State.hurdleDesc_eq h _ hs, hk]
  · simp [State.hurdleDesc_eq h _ hs, hk, hf]
  · rw [State.hurdleDesc_jobless h _ hs hk hf hj]
  · rw [State.hurdleDesc_conflict h _ hs hk hf hj hn]
  · rw [State.hurdleDesc_acts h _ hs hk hf hj ha hr]

/-! Copies of the plots (R74, R396). -/

theorem Mem.get_cons {m : Bytes} {c : Nat} {v : Byte} (h : Mem.wfFrom (c + 1) m = true) (y : Nat) :
    Mem.get ((c, v) :: m) y = if y = c then v else Mem.get m y := by
  rw [Mem.get]
  by_cases hy : y < c
  · simp [hy, Mem.get_below h (Nat.lt_succ_of_lt hy)]
  · simp [hy]
/-- Bytes that are moved into storage: those of the source that are not zero stand at their new places, over what stood there. -/
theorem Mem.get_writeAll_moved (a n b x : Nat) {m : Bytes} : ∀ {lo : Nat} {z : Bytes}, Mem.wfFrom lo m = true → Mem.wf z = true →
    Mem.get (Mem.writeAll z (Mem.moved m a n b)) x =
      if (b ≤ x ∧ x < b + n) ∧ Mem.get m (x - b + a) ≠ 0 then Mem.get m (x - b + a) else Mem.get z x := by
  induction m with
  | nil => intro lo z _ _; simp [Mem.moved, Mem.writeAll, Mem.get]
  | cons y m ih =>
    intro lo z h hz
    obtain ⟨c, v⟩ := y
    simp only [Mem.wfFrom, Bool.and_eq_true, decide_eq_true_eq, bne_iff_ne] at h
    obtain ⟨⟨-, hv⟩, h⟩ := h
    rw [Mem.get_cons h]
    by_cases hc : a ≤ c ∧ c < a + n
    · have hm : Mem.moved ((c, v) :: m) a n b = (c - a + b, v) :: Mem.moved m a n b := by simp [Mem.moved, hc]
      have hw : Mem.writeAll z ((c - a + b, v) :: Mem.moved m a n b) = Mem.writeAll (Mem.set z (c - a + b) v) (Mem.moved m a n b) := rfl
      rw [hm, hw, ih h (Mem.wf_set _ _ _ hz), Mem.get_set _ _ _ _ hz]
      by_cases hx : x = c - a + b
      · have hy : x - b + a = c := by omega
        have hr : b ≤ x ∧ x < b + n := by omega
        rw [hy, if_pos hx, if_pos rfl, if_neg fun h0 => h0.2 (Mem.get_below h (Nat.lt_succ_self c)), if_pos ⟨hr, hv⟩]
      · have hy : b ≤ x ∧ x < b + n → x - b + a ≠ c := by omega
        grind
    · have hm : Mem.moved ((c, v) :: m) a n b = Mem.moved m a n b := by
        simp only [Mem.moved]
        rw [List.filter_cons_of_neg (by simpa using hc)]
      have hy : b ≤ x ∧ x < b + n → x - b + a ≠ c := by omega
      rw [hm, ih h hz]
      grind
/-- With no error in the plots a copy succeeds, and changes only its destination. -/
theorem State.copyRange_clean {s : State} (hc : s.sram.ecc = []) (a b n : Nat) : s.copyRange a b n =
    (s.withMem (Mem.writeAll (Mem.zero s.sram.mem b (b + n)) (Mem.moved s.sram.mem a n b)), true) := by
  have hz : (s.zeroRange b (b + n)) = s.withMem (Mem.zero s.sram.mem b (b + n)) := by
    simp [State.zeroRange, State.withMem, State.modSram, hc]
  simp only [State.copyRange, State.meetWords_clean s _ hc, hz]
  rfl
theorem State.copyRange_get {s : State} (hw : Mem.wf s.sram.mem = true) (a b n x : Nat) :
    Mem.get (Mem.writeAll (Mem.zero s.sram.mem b (b + n)) (Mem.moved s.sram.mem a n b)) x =
      if b ≤ x ∧ x < b + n then Mem.get s.sram.mem (x - b + a) else Mem.get s.sram.mem x := by
  rw [Mem.get_writeAll_moved a n b x hw (Mem.wf_zero _ _ _ hw), Mem.get_zero _ _ _ _ hw]
  by_cases hx : b ≤ x ∧ x < b + n
  · rw [if_pos hx, if_pos hx]
    exact ite_eq_left_iff.2 fun h0 => (not_not.1 fun h => h0 ⟨hx, h⟩).symm
  · rw [if_neg hx, if_neg hx, if_neg fun h => hx h.1]
/-- A park map is read. -/
theorem State.readParkAt_clean {s : State} (hc : s.sram.ecc = []) (a : Nat) : ∃ ws, s.readParkAt a = (s, some ws) := by
  unfold State.readParkAt
  rw [State.fetchBytes_clean s _ _ _ hc]
  dsimp only
  rw [State.fetchBytes_clean s _ _ _ hc]
  exact ⟨_, rfl⟩
theorem State.readPark_clean {s : State} (hc : s.sram.ecc = []) (j : Job) (park : PartId) : ∃ ws, s.readPark j park = (s, some ws) := by
  unfold State.readPark
  split
  · exact ⟨_, rfl⟩
  · exact State.readParkAt_clean hc _
/-- Its regions are moved: only the plots change. -/
theorem State.moveEntries_clean {s : State} (hc : s.sram.ecc = []) (j : Job) (park : PartId) (ps : List PartId) (back : Bool) (ws : List W64) :
    ∀ (m : Bytes) (n : Nat), ∃ m' n', (s.withMem m).moveEntries j park ps back ws n = (s.withMem m', n', true) := by
  induction ws with
  | nil => exact fun m n => ⟨m, n, rfl⟩
  | cons w ws ih =>
    intro m n
    unfold State.moveEntries
    split
    · dsimp only
      split
      · exact ih ..
      · cases back <;> simp only [Bool.false_eq_true, if_true, if_false, State.copyRange_clean (s := s.withMem m) hc] <;> exact ih ..
    · exact ih ..

/-! What an accepted PARK leaves (R396). -/

theorem State.leaveDomain_eq (s : State) : ∃ f, s.leaveDomain = s.modPace f := by
  unfold State.leaveDomain
  split
  · exact ⟨id, rfl⟩
  · exact ⟨_, rfl⟩
theorem State.vacate_eq (s : State) (j : Job) (park : PartId) (jp : Nat) (ws : List W64) : ∃ r, s.vacate j park jp ws = { s with sram := r } := by
  unfold State.vacate
  split
  · exact ⟨_, rfl⟩
  · refine List.foldlRecOn _ _ (motive := fun t : State => ∃ r, t = { s with sram := r }) ⟨_, rfl⟩ ?_
    rintro t ⟨r, rfl⟩ e -
    exact ⟨_, rfl⟩

/-- The park partition under the map of the parked job. -/
def Partition.parkedBy (q : Partition) (m : AllocMap) : Partition :=
  { q with
    st := .parked, mapA := some m, mapB := some m, mapGold := some m, engines := [], streams := [], lists := [], queues := [], pointQ := [] }
theorem State.parkParts_part (s : State) (j : Job) (park : PartId) (m : AllocMap) (p : PartId) : (s.parkParts j park m).part p =
    if (s.part p).job ≠ some j.id then s.part p
    else if p = park then (s.part p).parkedBy m
    else if (j.released park).head? = some p then (s.part p).leave .marks
    else (s.part p).unreached := by
  unfold State.parkParts
  exact (Vector.getElem_ofFn ..).trans (if_congr bne_iff_ne rfl (if_congr beq_iff_eq rfl (if_congr beq_iff_eq rfl rfl)))
theorem State.releaseLinks_link (s : State) (id : Nat) {l : LinkId} (h : (s.link l).owner = some id) : ((s.releaseLinks id).link l).owner = none := by
  have hl : (s.releaseLinks id).link l = _ := Vector.getElem_map ..
  have hb : (s.links[l.val].owner == some id) = true := beq_iff_eq.2 h
  rw [hl, if_pos hb]

/-- The parked job, with the control state of its partitions saved. -/
def Job.parkedAt (k : Job) (park : PartId) (saved : List SavedPart) : Job :=
  { k with
    phase := .parked, lead := park, parts := [park], saved := saved, savedPace := k.pace, occBase := k.occurrences, pace := none
    ringDeferred := [], ringSampled := [], ringLanding := [], sends := [], bindQ := [] }
/-- The state once the regions have been moved, the job parked and its links released. -/
def State.parkedState (w : State) (j : Job) (jp : Nat) (park : PartId) (ws : List W64) (saved : List SavedPart) : State :=
  ((((w.vacate j park jp ws).parkParts j park (parkedMapOf j.image.maps jp ws)).releaseLinks j.id).modJob j.id
    (fun k => k.parkedAt park saved)).leaveDomain

section
variable {t v w : State} {d : Desc} {j : Job} {jp n : Nat} {park : PartId} {ws : List W64}
theorem State.parkJob_unread (hr : t.readPark j park = (v, none)) : t.parkJob d j jp park = v.complete d
    { status := Status.jobFaulted, fault := ((v.job? j.id).map (·.firstFault)).getD 0, synthetic := true } := by
  simp only [State.parkJob, hr]
variable (hr : t.readPark j park = (v, some ws))
include hr
theorem State.parkJob_unmoved (hm : v.moveEntries j park j.parts false ws 0 = (w, n, false)) : t.parkJob d j jp park = w.complete d
    { status := Status.jobFaulted, fault := ((w.job? j.id).map (·.firstFault)).getD 0, synthetic := true } := by
  simp only [State.parkJob, hr, hm]
theorem State.parkJob_moved (hm : v.moveEntries j park j.parts false ws 0 = (w, n, true)) : t.parkJob d j jp park =
    (w.parkedState j jp park ws (j.parts.map (fun p => (v.part p).saved ws))).awaitParked
      { desc := d, left := j.released park, parked := some (j.id, n) } := by
  simp only [State.parkJob, hr, hm]
  rfl
end

section
variable (w : State) (j : Job) (jp : Nat) (park : PartId) (ws : List W64) (saved : List SavedPart)
/-- Nothing but the plots, the partitions, the links, the job and the pace changes. -/
theorem State.parkedState_eq : ∃ f, w.parkedState j jp park ws saved =
    (((({ w with sram := (w.vacate j park jp ws).sram }.parkParts j park (parkedMapOf j.image.maps jp ws)).releaseLinks j.id).modJob j.id
      (fun k => k.parkedAt park saved)).modPace f) := by
  obtain ⟨r, hr⟩ := w.vacate_eq j park jp ws
  rw [State.parkedState, hr]
  exact State.leaveDomain_eq _
theorem State.parkedState_part (p : PartId) : (w.parkedState j jp park ws saved).part p =
    if (w.part p).job ≠ some j.id then w.part p
    else if p = park then (w.part p).parkedBy (parkedMapOf j.image.maps jp ws)
    else if (j.released park).head? = some p then (w.part p).leave .marks
    else (w.part p).unreached := by
  obtain ⟨f, h⟩ := w.parkedState_eq j jp park ws saved
  rw [h]
  exact State.parkParts_part ..
theorem State.parkedState_mem : (w.parkedState j jp park ws saved).sram.mem = (w.vacate j park jp ws).sram.mem := by
  obtain ⟨f, h⟩ := w.parkedState_eq j jp park ws saved
  rw [h]
  rfl
theorem State.parkedState_jobs : (w.parkedState j jp park ws saved).jobs = (w.modJob j.id (fun k => k.parkedAt park saved)).jobs := by
  obtain ⟨f, h⟩ := w.parkedState_eq j jp park ws saved
  rw [h]
  rfl
theorem State.parkedState_link {l : LinkId} (ho : (w.link l).owner = some j.id) : ((w.parkedState j jp park ws saved).link l).owner = none := by
  obtain ⟨f, h⟩ := w.parkedState_eq j jp park ws saved
  rw [h]
  exact State.releaseLinks_link _ _ ho
end
/-- A job that is changed is found changed. -/
theorem State.mem_modJob {s : State} {id : Nat} {f : Job → Job} {k : Job} (hk : k ∈ (s.modJob id f).jobs) (hi : k.id = id)  :
    ∃ i, k = f i := by
  obtain ⟨i, -, rfl⟩ := List.mem_map.1 hk
  by_cases h : (i.id == id) = true
  · exact ⟨i, by rw [if_pos h]⟩
  · rw [if_neg h] at hi
    exact absurd (beq_iff_eq.2 hi) h
theorem State.jobOf_of_jobOfLead {s : State} {p : PartId} {j : Job} (h : s.jobOfLead p = some j) : s.jobOf p = some j := by
  unfold State.jobOfLead at h
  split at h
  · rename_i k hk
    split at h
    · cases h; exact hk
    · cases h
  · cases h
theorem State.jobOfLead_of_leadJob {s : State} {p : PartId} {st : PState} {j : Job} (h : s.leadJob p st = some j) : s.jobOfLead p = some j := by
  unfold State.leadJob at h
  split at h
  · rename_i k hk
    split at h
    · cases h; exact hk
    · cases h
  · cases h

/-! PARK (R395). -/

/-- The JOB_PART and partition that a job parks in, when it stands at a parkable hurdle with no release accepted and no stream active. -/
def State.parksIn (t : State) (j : Job) : Option (Nat × PartId) :=
  if t.atHurdle j && j.resumeCount.isNone && j.hurdle.any (·.parkable) && !t.streaming j.lead then
    j.image.parkPart.bind (fun jp => (j.phys jp).map (fun park => (jp, park)))
  else none
theorem State.parksIn_some {t : State} {j : Job} {jp : Nat} {park : PartId} {h : HurdleDecl} (ha : t.atHurdle j = true)
    (hr : j.resumeCount = none) (hs : t.streaming j.lead = false) (hjp : j.image.parkPart = some jp) (hp : j.phys jp = some park)
    (hh : j.hurdle = some h) (hk : h.parkable = true) : t.parksIn j = some (jp, park) := by
  simp [State.parksIn, ha, hr, hs, hjp, hp, hh, hk]
theorem State.parksIn_none {t : State} {j : Job} (h : t.atHurdle j = false ∨ j.resumeCount.isSome = true ∨ t.streaming j.lead = true ∨
    j.image.parkPart.bind j.phys = none ∨ ∃ h, j.hurdle = some h ∧ h.parkable = false) : t.parksIn j = none := by
  unfold State.parksIn
  obtain h | h | h | h | ⟨k, h, hk⟩ := h
  · simp [h]
  · obtain ⟨n, hn⟩ := Option.isSome_iff_exists.1 h
    simp [hn]
  · simp [h]
  · cases hjp : j.image.parkPart with
    | none => simp
    | some jp =>
      rw [hjp] at h
      simp [show j.phys jp = none from h]
  · simp [h, hk]

theorem exec_park {s t : State} {d : Desc} (h : s.takeMc Op.park = some (d, t)) : exec .park s = .next (
    if !d.parkFieldsOk then t.done d Status.badDescriptor
    else if !t.vfAllowed d [d.lead] then t.complete d { status := Status.notPermitted }
    else match t.leadJob d.lead .run with
      | none => t.conflict d
      | some j => match t.parksIn j with
        | some (jp, park) => t.parkJob d j jp park
        | none => t.conflict d) := by
  show execPark s = _
  unfold execPark
  simp only [h]
  rcases t.leadJob d.lead .run with _ | j
  · rfl
  · rcases hjp : j.image.parkPart with _ | jp
    · simp [State.parksIn, hjp]
    · rcases hp : j.phys jp with _ | park
      · simp [State.parksIn, hjp, hp]
      · rcases hh : j.hurdle with _ | k
        · simp [State.parksIn, hjp, hp, hh]
        · cases hg : t.atHurdle j && j.resumeCount.isNone && k.parkable && !t.streaming j.lead
          all_goals simp [State.parksIn, hjp, hp, hh, hg]

/-- The state that an accepted PARK leaves where the plots hold no error, but for what waits for it. -/
def State.parkedFrom (t : State) (j : Job) (jp : Nat) (park : PartId) (ws : List W64) (m : Bytes) : State :=
  (t.withMem m).parkedState j jp park ws (j.parts.map (fun p => (t.part p).saved ws))
/-- The map is read, its regions are moved, the job is parked, and the PARK waits (R396). -/
theorem State.parkJob_clean {t : State} {d : Desc} {j : Job} {jp : Nat} {park : PartId} (hc : t.sram.ecc = []) : ∃ ws m n,
    t.readPark j park = (t, some ws) ∧ t.moveEntries j park j.parts false ws 0 = (t.withMem m, n, true) ∧ t.parkJob d j jp park =
      (t.parkedFrom j jp park ws m).awaitParked { desc := d, left := j.released park, parked := some (j.id, n) } := by
  obtain ⟨ws, hr⟩ := State.readPark_clean hc j park
  obtain ⟨m, n, hm⟩ := State.moveEntries_clean hc j park j.parts false ws t.sram.mem 0
  rw [State.withMem_self] at hm
  exact ⟨ws, m, n, hr, hm, State.parkJob_moved hr hm⟩
theorem State.awaitParked_some (u : State) {k : ResetTask} (h : k.left ≠ []) :
    u.awaitParked k = u.modMgt (fun m => { m with unloads := m.unloads ++ [k] }) := by
  rw [State.awaitParked, if_neg (by simpa using h)]
theorem State.awaitParked_none (u : State) {d : Desc} {id n : Nat} {ps : List PartId} (h : ps = []) :
    u.awaitParked { desc := d, left := ps, parked := some (id, n) } =
      (u.logs Code.jobParked d.fn.val).complete d { status := Status.success, detail0 := BitVec.ofNat 64 n } := by
  subst h
  rfl

section
variable (t : State) (j : Job) (jp : Nat) (park : PartId) (ws : List W64) (m : Bytes)
theorem State.parkedFrom_park (h : (t.part park).job = some j.id) :
    (t.parkedFrom j jp park ws m).part park = (t.part park).parkedBy (parkedMapOf j.image.maps jp ws) := by
  refine (State.parkedState_part ..).trans ?_
  rw [State.withMem_part, if_neg (not_not.2 h), if_pos rfl]
theorem State.parkedFrom_part {p : PartId} (h : (t.part p).job = some j.id) (hp : p ≠ park) : (t.parkedFrom j jp park ws m).part p =
    if (j.released park).head? = some p then (t.part p).leave .marks else (t.part p).unreached := by
  refine (State.parkedState_part ..).trans ?_
  rw [State.withMem_part, if_neg (not_not.2 h), if_neg hp]
theorem State.parkedFrom_other {p : PartId} (h : (t.part p).job ≠ some j.id) : (t.parkedFrom j jp park ws m).part p = t.part p := by
  refine (State.parkedState_part ..).trans ?_
  rw [State.withMem_part, if_pos h]
theorem State.parkedFrom_job {k : Job} (hk : k ∈ (t.parkedFrom j jp park ws m).jobs) (hi : k.id = j.id) :
    ∃ i : Job, k = i.parkedAt park (j.parts.map (fun p => (t.part p).saved ws)) := by
  rw [State.parkedFrom, State.parkedState_jobs] at hk
  exact State.mem_modJob hk hi
theorem State.parkedFrom_found {j : Job} (h : t.job? j.id = some j) : (t.parkedFrom j jp park ws m).job? j.id =
    some (j.parkedAt park (j.parts.map (fun p => (t.part p).saved ws))) := by
  rw [State.job?, State.parkedFrom, State.parkedState_jobs]
  exact State.modJob_found (s := t.withMem m) (fun _ => rfl) h
end

/-- Settles O50: END and HURDLE have their cases above; a PARK moves its regions by `State.copyRange_clean`, and what it leaves of the package
is read from `State.parkedFrom`. -/
theorem hurdlesEndsAndParksActOnAStandingJob : Obligations.HurdlesEndsAndParksActOnAStandingJob := by
  refine ⟨end_clauses, ?hurdle, ?park, ?copy⟩
  case hurdle =>
    intro s t d stop row h hrow
    obtain ⟨hother, hmine⟩ := hurdle_clauses s t d stop row h hrow
    refine ⟨hother, fun hs => ?_⟩
    obtain ⟨hbad, hnot, hmay⟩ := hmine hs
    refine ⟨hbad, hnot, fun hk hf => ⟨(hmay hk hf).1, fun j hj => ?_⟩⟩
    obtain ⟨hconflict, hacts⟩ := (hmay hk hf).2 j hj
    refine ⟨hconflict, fun ha hr => ?_⟩
    rw [hacts ha hr]
    refine ⟨?_, ?_, ?_⟩
    · rintro rfl
      rfl
    · rintro rfl hn
      simp [hurdleAct, leadBeats, hn]
    · rintro rfl hn
      simp [hurdleAct, leadBeats, Nat.not_lt.2 hn]
  case park =>
    intro s t d h
    rw [exec_park h]
    refine ⟨fun hk => by simp [hk], fun hk hf => by simp [hk, hf], fun hk hf => ⟨fun hj => by simp [hk, hf, hj], fun j hj => ?_⟩⟩
    refine ⟨fun hn => by simp [hk, hf, hj, State.parksIn_none hn], fun jp park k ha hr hs hjp hp hh hkp => ?_⟩
    simp only [hk, hf, hj, State.parksIn_some ha hr hs hjp hp hh hkp]
    refine ⟨fun v hv => ?_, fun v w ws n hv hw => ?_, fun hc hpark => ?_⟩
    · exact congrArg Host.Outcome.next (State.parkJob_unread hv)
    · exact congrArg Host.Outcome.next (State.parkJob_unmoved hv hw)
    obtain ⟨ws, m, n, hread, hmoved, hdone⟩ := State.parkJob_clean (d := d) (j := j) (jp := jp) (park := park) hc
    have hpp := t.parkedFrom_park j jp park ws m hpark
    have hfound := State.jobOf_job (State.jobOf_of_jobOfLead (State.jobOfLead_of_leadJob hj))
    refine ⟨ws, t.withMem m, t.parkedFrom j jp park ws m, n, hread, hmoved, rfl, rfl, rfl, State.parkedState_mem .., by rw [hpp]; rfl,
      by rw [hpp]; exact hpark, by rw [hpp]; rfl, fun p => t.parkedFrom_part j jp park ws m, fun p => t.parkedFrom_other j jp park ws m,
      fun i hi hid => ?_, ?_, fun l hl => State.parkedState_link _ _ _ _ _ _ hl, fun hne => ?_, fun he => ?_⟩
    · obtain ⟨i, rfl⟩ := t.parkedFrom_job j jp park ws m hi hid
      exact ⟨rfl, rfl, rfl, rfl, rfl⟩
    · rw [t.parkedFrom_found jp park ws m hfound.2]
      rfl
    · exact congrArg Host.Outcome.next (hdone.trans (State.awaitParked_some _ hne))
    · exact congrArg Host.Outcome.next (hdone.trans (State.awaitParked_none _ he))
  case copy =>
    intro s a b n hc hw
    exact ⟨_, State.copyRange_clean hc a b n, rfl, rfl, rfl, State.copyRange_get hw a b n⟩

end Sys2Proof.Machine
end

section
/-! SUPPORT. What completions, headers, messages and the uses of the recovery reserve leave alone beside what State.inside names: the requests
and the cells in transit, the contents of the plots, the queues of the two units and the tasks of the Management Complex; and which window
descriptors they end (R292 to R296, R306, R310, R313). -/

namespace Sys2Proof.Machine

/-- What stands whatever is completed, and the window descriptors that are under way. -/
def State.field (s : State) : (Infield × Bytes × List Desc × List Desc × List ResetTask) × List WinOp :=
  ((s.infield, s.sram.mem, s.hiu.reQueue, s.hiu.mcQueue, s.mgt.unloads), s.hiu.winOps)
theorem State.field_eq {s t : State} (h : s.field.1 = t.field.1) : s.infield = t.infield ∧ s.sram.mem = t.sram.mem ∧
    s.hiu.reQueue = t.hiu.reQueue ∧ s.hiu.mcQueue = t.hiu.mcQueue ∧ s.mgt.unloads = t.mgt.unloads := by
  simpa [State.field] using h
/-- The window descriptors that are left when a descriptor ends. -/
def unclaimed (d : Desc) (ws : List WinOp) : List WinOp := (ws.find? (fun o => o.desc == d)).elim ws ws.erase
@[simp] theorem unclaimed_nil (d : Desc) : unclaimed d [] = [] := rfl
@[simp] theorem unclaimed_own (o : WinOp) : unclaimed o.desc [o] = [] := by simp [unclaimed]

section
variable (s : State)
@[simp] theorem State.modFn_field (n : FnId) (f) : (s.modFn n f).field = s.field := rfl
@[simp] theorem State.modPace_field (f) : (s.modPace f).field = s.field := rfl
@[simp] theorem State.modSvc_field (f) : (s.modSvc f).field = s.field := rfl
@[simp] theorem State.modJob_field (id : Nat) (f) : (s.modJob id f).field = s.field := rfl
@[simp] theorem State.modSq_field (n : FnId) (i : RingIx) (f) : (s.modSq n i f).field = s.field := rfl
@[simp] theorem State.modCq_field (n : FnId) (i : RingIx) (f) : (s.modCq n i f).field = s.field := rfl
@[simp] theorem State.hand_field (c : W16) (v : Nat) (b : LogBody) (k : Nat) : (s.hand c v b k).field = s.field := rfl
@[simp] theorem State.logs_field (c : W16) (v k : Nat) : (s.logs c v k).field = s.field := rfl
@[simp] theorem State.logAt_field (c : W16) (v : Nat) (r : Loc) : (s.logAt c v r).field = s.field := rfl
@[simp] theorem State.hostWrite_field (a : Nat) (bs : List Byte) : (s.hostWrite a bs).field = s.field := rfl
@[simp] theorem State.setLine_field (a : Nat) (st : LineState) : (s.setLine a st).field = s.field := rfl
@[simp] theorem State.dropLines_field : s.dropLines.field = s.field := rfl
@[simp] theorem State.leaveDomain_field : s.leaveDomain.field = s.field := by
  unfold State.leaveDomain; split <;> rfl

/-! Rows and the recovery reserve. -/

@[simp] theorem State.retireRow_field (d : DieId) (row vf : Nat) (r : Loc) : (s.retireRow d row vf r).field = s.field := by
  obtain ⟨⟨log, sram, h⟩, hm, -, -⟩ := s.retireRow_rows d row vf r
  rw [h] at hm ⊢
  exact congrArg (fun m => ((s.infield, m, s.hiu.reQueue, s.hiu.mcQueue, s.mgt.unloads), s.hiu.winOps)) hm
@[simp] theorem State.correctWord_field (k row : Nat) (d : DieId) (vf : Nat) (r : Loc) : (s.correctWord k row d vf r).field = s.field := by
  have met : ∀ f : Sram → Sram, (f s.sram).mem = s.sram.mem → (s.modSram f).field = s.field := fun f h => by
    simp only [State.field, State.modSram, h]
  unfold State.correctWord; dsimp only; (repeat' split) <;> simp [met]
@[simp] theorem State.recoveryDouble_field (d : DieId) (w : Nat) (r : Loc) : (s.recoveryDouble d w r).field = s.field := by
  simp [State.recoveryDouble]
@[simp] theorem State.useRecovery_field (d : DieId) : (s.useRecovery d).field = s.field := by
  unfold State.useRecovery
  refine foldl_keeps State.field (fun t x => ?_) _ _
  cases x.err with
  | single => exact State.correctWord_field ..
  | double => exact State.recoveryDouble_field ..
@[simp] theorem State.synthetic_field (y : Bool) : (s.synthetic y).field = s.field := by
  unfold State.synthetic; split <;> simp

/-! Messages, doorbell lines and completion rings. -/

@[simp] theorem State.msix_field (f : FnId) (v : Byte) : (s.msix f v).field = s.field := by
  unfold State.msix; split <;> rfl
@[simp] theorem State.writeLine_field (f : FnId) (a : W64) (bs : List Byte) : (s.writeLine f a bs).field = s.field := by
  unfold State.writeLine; split <;> simp
@[simp] theorem State.sqStatus_field (f : FnId) (n : RingIx) : (s.sqStatus f n).field = s.field := s.writeLine_field ..
@[simp] theorem State.cqStatus_field (f : FnId) (n : RingIx) : (s.cqStatus f n).field = s.field := s.writeLine_field ..
@[simp] theorem State.sqSettle_field (f : FnId) (n : RingIx) : (s.sqSettle f n).field = s.field := by
  unfold State.sqSettle; dsimp only; split <;> simp
@[simp] theorem State.putEntry_field (f : FnId) (n : RingIx) (c : Completion) : (s.putEntry f n c).field = s.field := by
  unfold State.putEntry; dsimp only; split <;> simp
@[simp] theorem State.postCq_field (f : FnId) (n : RingIx) (c : Completion) : (s.postCq f n c).field = s.field := by
  unfold State.postCq; dsimp only; (repeat' split) <;> simp

/-! Completions and events. -/

@[simp] theorem State.winCount_field (f : FnId) (st : Byte) : (s.winCount f st).field = s.field := by
  unfold State.winCount; split <;> rfl
@[simp] theorem State.writeHeader_field (a : Nat) (h : Hdr) (o : Nat) (st : Byte) (p : Bool) (n : Nat) (f : W16) (t : W32) :
    (s.writeHeader a h o st p n f t).field = s.field := rfl
@[simp] theorem State.endClaim_field (d : Desc) (a : Ans) : (s.endClaim d a).field = (s.field.1, unclaimed d s.field.2) := by
  have hw : s.field.2 = s.hiu.winOps := rfl
  rw [unclaimed, hw]
  unfold State.endClaim
  cases s.hiu.winOps.find? (fun o => o.desc == d) with
  | none => rfl
  | some o => dsimp only; split <;> rfl
@[simp] theorem State.zshReply_field (r : ZshRequest) (e bs : List Byte) : (s.zshReply r e bs).field = s.field := by
  unfold State.zshReply
  exact foldl_keeps State.field (fun t i => (rfl : (t.sendFrame ..).field = _)) _ _
@[simp] theorem State.complete_field (d : Desc) (a : Ans) : (s.complete d a).field = (s.field.1, unclaimed d s.field.2) := by
  unfold State.complete State.completeWith; dsimp only; (repeat' split) <;> simp
@[simp] theorem State.jobEvent_field (j : Job) (k : Nat) (a : Ans) : (s.jobEvent j k a).field = s.field := by
  simp [State.jobEvent]

/-! Window descriptors and the descriptors of a job. -/

@[simp] theorem State.poisonNow_field (x : Poison) : (s.poisonNow x).field = s.field := by
  unfold State.poisonNow; dsimp only; split <;> simp
@[simp] theorem State.poison_field (x : Poison) : (s.poison x).field = s.field := by
  unfold State.poison
  split
  · rfl
  · simp
theorem State.endWinOp_field (o : WinOp) (st : Byte) (c : W16) : (s.endWinOp o st c).field.1 = s.field.1 := by
  unfold State.endWinOp; split <;> simp
  rfl
/-- A window descriptor that alone is under way is under way no longer once it ends. -/
theorem State.endWinOp_only {s : State} {o : WinOp} (st : Byte) (c : W16) (h : s.field.2 = [o]) : (s.endWinOp o st c).field.2 = [] := by
  unfold State.endWinOp
  split
  · have he : (s.modHiu (fun h => { h with winOps := h.winOps.erase o })).field.2 = [] := by
      have hw : s.hiu.winOps = [o] := h
      simp [State.field, hw]
    simp [he]
  · simp [h]
theorem State.endWinOps_field (ps : List PartId) (st : Byte) (c : W16) : (s.endWinOps ps st c).field.1 = s.field.1 :=
  foldl_keeps (·.field.1) (fun t o => t.endWinOp_field o st c) _ _
/-- Descriptors that end leave nothing under way where nothing was. -/
theorem State.completes_field {α : Type} (d : α → Desc) (a : α → Ans) (l : List α) :
    (l.foldl (fun s x => s.complete (d x) (a x)) s).field.1 = s.field.1 ∧
      (s.field.2 = [] → (l.foldl (fun s x => s.complete (d x) (a x)) s).field.2 = []) := by
  refine ⟨foldl_keeps (·.field.1) (fun t x => by simp) _ _, fun h => ?_⟩
  induction l generalizing s with
  | nil => exact h
  | cons x l ih => exact ih _ (by simp [h])
end

@[simp] theorem State.endDescs_inside (s : State) (f : FnId) (ps : List PartId) (st : Byte) (c : W16) :
    (s.endDescs f ps st c).inside = s.inside :=
  foldl_keeps State.inside (fun t d => t.complete_inside d _) _ _
/-- Nothing of a job waits in the queues of the two units once its descriptors have ended. -/
theorem State.endDescs_field (s : State) (f : FnId) (ps : List PartId) (st : Byte) (c : W16) :
    (s.endDescs f ps st c).field.1 = (s.infield, s.sram.mem, s.hiu.reQueue.filter (fun d => !d.of f ps),
      s.hiu.mcQueue.filter (fun d => !d.of f ps), s.mgt.unloads) ∧ (s.field.2 = [] → (s.endDescs f ps st c).field.2 = []) :=
  State.completes_field _ id (fun _ => { status := st, fault := c, synthetic := true }) _

/-! The job-abort cells (R183). -/

/-- The cell that leaves on a link. -/
def leaving (l : LinkId) (c : Cell) : RingUnit := { load := .cell .here false c, out := some l, place := none, legs := [] }
/-- Cells that are queued on links that are UP are all on their way. -/
theorem foldl_queueCell (g : State → LinkId → Cell) (hg : ∀ (s : State) (i : Infield) (l : LinkId), g { s with infield := i } l = g s l)
    (ls : List LinkId) : ∀ s : State, (∀ l ∈ ls, s.up l = true) → ls.foldl (fun s l => s.queueCell l (g s l)) s =
      s.modInfield (fun i => { i with transit := i.transit ++ ls.map (fun l => leaving l (g s l)) }) := by
  induction ls with
  | nil => intro s _; simp [State.modInfield]
  | cons l ls ih =>
    intro s hl
    have hq : s.queueCell l (g s l) = s.addUnit (leaving l (g s l)) := if_pos (hl l List.mem_cons_self)
    have hup : ∀ m ∈ ls, (s.addUnit (leaving l (g s l))).up m = true := fun m hm => hl m (List.mem_cons_of_mem l hm)
    rw [List.foldl_cons, hq, ih _ hup]
    have hs : ∀ m, g (s.addUnit (leaving l (g s l))) m = g s m := fun m => hg s _ m
    simp only [hs]
    simp [State.addUnit, State.modInfield]

/-- The links on which the job-abort cells of a job leave. -/
def State.abortLinks (s : State) (j : Job) (but : Option LinkId) : List LinkId :=
  (if j.phase == .run then allLinks.filter j.activeUses else j.planLinks).filter (fun l => s.up l && but != some l)
theorem State.sendAborts_eq {s : State} {j : Job} {b : PaceBlock} (hb : j.pace = some b) (code : W16) (but : Option LinkId) :
    s.sendAborts j code but = s.modInfield (fun i => { i with transit := i.transit ++ (s.abortLinks j but).map (fun l =>
      leaving l (abortCell s.chip (s.link l).peerChip s.mgt.epoch b code)) }) := by
  unfold State.sendAborts
  simp only [hb]
  refine foldl_queueCell (fun s l => abortCell s.chip (s.link l).peerChip s.mgt.epoch b code) (fun _ _ _ => rfl) _ s fun l hl => ?_
  exact (Bool.and_eq_true_iff.1 (List.mem_filter.1 hl).2).1
theorem State.sendAborts_changes (s : State) (j : Job) (code : W16) (but : Option LinkId) :
    ∃ us, s.sendAborts j code but = s.modInfield (fun i => { i with transit := us }) := by
  cases hb : j.pace with
  | some b => exact ⟨_, s.sendAborts_eq hb code but⟩
  | none => exact ⟨s.infield.transit, by simp [State.sendAborts, hb, State.modInfield]⟩

/-! The first fault of a job (R352). -/

/-- The links of a job whose SPILL region its partitions still map lose what was spilled. -/
def State.spillsLost (s : State) (j : Job) : State :=
  (allLinks.filter (fun l => (s.link l).owner == some j.id && (s.spillRegion j l).isSome)).foldl
    (fun s l => s.modLink l (fun k => { k with spillLost := true })) s
/-- A job that has faulted for the first time. -/
def Job.cutOff (j : Job) (code : W16) : Job :=
  { j with
    phase := .faulted, firstFault := code, sends := [], ringDeferred := [], ringSampled := [], ringLanding := [], bindQ := [], lap := none
    hurdle := none, startDesc := none, endCount := none, resumeCount := none, slices := [], prior := none, saved := [], savedPace := none
    parkedMap := none }
/-- A link that no job owns any more. -/
def Link.unowned (k : Link) : Link := { k with owner := none, deferred := [], sampled := [], landing := [], feed := [], hold := [] }
/-- What the first fault of a job clears before its cells leave and its descriptors end: its partitions are FAULTED, its links free, its
requests dropped. -/
def State.cleared (s : State) (j : Job) (code : W16) : State :=
  let s := s.spillsLost j
  let s := { s with parts := s.parts.map (fun q : Partition => if q.job == some j.id then q.toFaulted code else q) }
  let s := s.modJob j.id (·.cutOff code)
  let s := { s with links := s.links.map (fun k : Link => if k.owner == some j.id then k.unowned else k) }
  s.modInfield (fun i => { i with requests := i.requests.filter (fun r => !r.owner.ofLead j.lead) })
/-- The cells that leave then. -/
def State.aborted (s : State) (j : Job) (cell : W16) (but : Option LinkId) : State :=
  if j.phase == .armed || j.phase == .run then s.sendAborts j cell but else s

theorem State.parkCut_untouched {s : State} {id : Nat} (code : W16) (h : ∀ u ∈ s.mgt.unloads, ∀ x, u.parked = some x → x.1 ≠ id) :
    s.parkCut id code = s := by
  have hno : ∀ u ∈ s.mgt.unloads, (u.parked.any fun x => x.1 == id) = false := fun u hu =>
    Bool.eq_false_iff.2 fun ha => by
      obtain ⟨x, hx, hid⟩ := (Option.any_eq_true ..).1 ha
      exact h u hu x hx (beq_iff_eq.1 hid)
  have hnone : s.mgt.unloads.filter (fun u => u.parked.any fun x => x.1 == id) = [] := List.filter_eq_nil_iff.2 fun u hu => by simp [hno u hu]
  have hall : s.mgt.unloads.filter (fun u => !(u.parked.any fun x => x.1 == id)) = s.mgt.unloads :=
    List.filter_eq_self.2 fun u hu => by simp [hno u hu]
  unfold State.parkCut State.modMgt
  simp only [hnone, hall, List.foldl_nil]

@[simp] theorem State.modLink_field (s : State) (l : LinkId) (f) : (s.modLink l f).field = s.field := rfl
/-- What is cleared leaves the plots, the queues and the tasks. -/
theorem State.cleared_field (s : State) (j : Job) (code : W16) : (s.cleared j code).field =
    (({ s.infield with requests := s.infield.requests.filter (fun r => !r.owner.ofLead j.lead) }, s.sram.mem, s.hiu.reQueue, s.hiu.mcQueue,
      s.mgt.unloads), s.hiu.winOps) := by
  have hs : (s.spillsLost j).field = s.field := foldl_keeps State.field (fun t l => t.modLink_field l _) _ _
  exact congrArg (fun x => (({ x.1.1 with requests := x.1.1.requests.filter (fun r => !r.owner.ofLead j.lead) }, x.1.2), x.2)) hs
theorem State.aborted_changes (s : State) (j : Job) (cell : W16) (but : Option LinkId) :
    ∃ us, s.aborted j cell but = s.modInfield (fun i => { i with transit := us }) := by
  unfold State.aborted
  split
  · exact s.sendAborts_changes j cell but
  · exact ⟨s.infield.transit, rfl⟩

/-- A fault of a job ends its window descriptors, and takes what waits in the queues of the two units. -/
theorem State.ends_field (s : State) (f : FnId) (ps : List PartId) (st : Byte) (c : W16) :
    ((s.endWinOps ps st c).endDescs f ps st c).field.1 = (s.infield, s.sram.mem, s.hiu.reQueue.filter (fun d => !d.of f ps),
      s.hiu.mcQueue.filter (fun d => !d.of f ps), s.mgt.unloads) := by
  obtain ⟨hi, hm, hr, hq, hu⟩ := State.field_eq (s.endWinOps_field ps st c)
  rw [(State.endDescs_field ..).1, hi, hm, hr, hq, hu]
/-- The one window descriptor under way, of one of the partitions, ends. -/
theorem State.ends_only {s : State} {o : WinOp} {q : PartId} {ps : List PartId} (f : FnId) (st : Byte) (c : W16) (h : s.hiu.winOps = [o])
    (hc : o.cutShort = true) (hq : o.part = some q) (hm : q ∈ ps) : ((s.endWinOps ps st c).endDescs f ps st c).field.2 = [] := by
  have hend : (s.endWinOp o st c).field.2 = [] := State.endWinOp_only st c h
  refine (State.endDescs_field ..).2 ?_
  simp [State.endWinOps, h, hc, hq, hm, hend]

/-- What a completion or an event leaves of what stands. -/
structure State.Answered (t u : State) : Prop where
  inside : t.inside = u.inside
  field : t.field.1 = u.field.1
  ended : u.field.2 = [] → t.field.2 = []
theorem State.Answered.trans {t u w : State} (h : t.Answered u) (h' : u.Answered w) : t.Answered w :=
  ⟨h.inside.trans h'.inside, h.field.trans h'.field, fun he => h.ended (h'.ended he)⟩
theorem State.Answered.refl (s : State) : s.Answered s := ⟨rfl, rfl, id⟩
theorem State.complete_answered (s : State) (d : Desc) (a : Ans) : (s.complete d a).Answered s := ⟨by simp, by simp, fun h => by simp [h]⟩
theorem State.jobEvent_answered (s : State) (j : Job) (k : Nat) (a : Ans) : (s.jobEvent j k a).Answered s :=
  ⟨by simp, by simp, fun h => by simp [h]⟩

/-- What stands once a job has faulted for the first time: what was cleared, the cells that left, and nothing of its descriptors. -/
theorem State.jobFaultWith_stands {s : State} {j : Job} (code cell : W16) (but : Option LinkId)
    (h : ∀ u ∈ s.mgt.unloads, ∀ x, u.parked = some x → x.1 ≠ j.id) :
    (s.jobFaultWith j code cell but).parts = (s.cleared j code).parts ∧ (s.jobFaultWith j code cell but).jobs = (s.cleared j code).jobs ∧
    (s.jobFaultWith j code cell but).links = (s.cleared j code).links ∧
    (s.jobFaultWith j code cell but).field.1 = (((s.cleared j code).aborted j cell but).infield, s.sram.mem,
      s.hiu.reQueue.filter (fun d => !d.of j.fn j.parts), s.hiu.mcQueue.filter (fun d => !d.of j.fn j.parts), s.mgt.unloads) ∧
    (∀ (o : WinOp) (q : PartId), s.hiu.winOps = [o] → o.cutShort = true → o.part = some q → q ∈ j.parts →
      (s.jobFaultWith j code cell but).field.2 = []) := by
  unfold State.jobFaultWith
  extract_lets live spills spilled faulted jobEnded unowned cleared aborted closed parked answered told streams
  have hinside : aborted.inside = cleared.inside := by
    unfold aborted
    split
    · exact State.sendAborts_inside ..
    · rfl
  obtain ⟨hrest, hops⟩ : aborted.field.1.2 = s.field.1.2 ∧ aborted.field.2 = s.field.2 := by
    obtain ⟨us, ha⟩ : ∃ us, aborted = (s.cleared j code).modInfield (fun i => { i with transit := us }) := State.aborted_changes ..
    have hc := s.cleared_field j code
    rw [ha]
    exact ⟨congrArg (·.1.2) hc, congrArg (·.2) hc⟩
  obtain ⟨hmem, hre, hmc, hun⟩ : aborted.sram.mem = s.sram.mem ∧ aborted.hiu.reQueue = s.hiu.reQueue ∧
    aborted.hiu.mcQueue = s.hiu.mcQueue ∧ aborted.mgt.unloads = s.mgt.unloads := by simpa [State.field] using hrest
  have hclosed : closed.field.1 = (aborted.infield, s.sram.mem, s.hiu.reQueue.filter (fun d => !d.of j.fn j.parts),
      s.hiu.mcQueue.filter (fun d => !d.of j.fn j.parts), s.mgt.unloads) :=
    (State.ends_field ..).trans (by rw [hmem, hre, hmc, hun])
  have hunloads : closed.mgt.unloads = s.mgt.unloads := congrArg (·.2.2.2.2) hclosed
  have hparked : parked = closed := State.parkCut_untouched code fun u hu => h u (hunloads ▸ hu)
  have hanswered : answered.Answered closed := by
    unfold answered
    rw [hparked]
    split
    · exact State.complete_answered ..
    · exact State.Answered.refl _
  have htold : told.Answered closed := by
    unfold told
    split
    · exact (State.jobEvent_answered ..).trans hanswered
    · exact hanswered
  have hins : told.inside = cleared.inside := by rw [htold.inside, ← hinside]; simp [closed]
  obtain ⟨hparts, hjobs, hlinks, -⟩ := State.inside_eq hins
  obtain ⟨f, hf⟩ := streams.leaveDomain_eq
  rw [hf]
  exact ⟨hparts, hjobs, hlinks, htold.field.trans hclosed, fun o q ho hc hq hm =>
    htold.ended (State.ends_only _ _ _ (hops.trans ho) hc hq hm)⟩

/-! What is cleared (R70, R351, R352). -/

theorem State.spillsLost_link (s : State) (j : Job) (l : LinkId) : (s.spillsLost j).link l =
    if (s.link l).owner = some j.id ∧ (s.spillRegion j l).isSome = true then { s.link l with spillLost := true } else s.link l := by
  have hmem : l ∈ allLinks.filter (fun l => (s.link l).owner == some j.id && (s.spillRegion j l).isSome) ↔
      (s.link l).owner = some j.id ∧ (s.spillRegion j l).isSome = true := by simp [List.mem_filter, mem_allLinks]
  rw [State.spillsLost, foldl_each_link (g := fun s l => { s.link l with spillLost := true }) (fun s l => s.modLink_link l _)
    (fun s l m h => s.modLink_link_other l m _ h) (fun s l m h => by rw [s.modLink_link_other l m _ h]) l _ s (nodup_allLinks.filter _)]
  exact if_congr hmem rfl rfl
theorem State.spillsLost_eq (s : State) (j : Job) : ∃ ks, s.spillsLost j = { s with links := ks } :=
  foldl_changes_links (fun _ _ => ⟨_, rfl⟩) _ s

theorem State.cleared_part (s : State) (j : Job) (code : W16) (q : PartId) :
    (s.cleared j code).part q = if (s.part q).job = some j.id then (s.part q).toFaulted code else s.part q := by
  obtain ⟨ks, hs⟩ := s.spillsLost_eq j
  have hp : (s.cleared j code).parts = s.parts.map (fun q => if q.job == some j.id then q.toFaulted code else q) := by
    rw [State.cleared, hs]
    rfl
  rw [State.part, hp]
  exact (Vector.getElem_map ..).trans (if_congr beq_iff_eq rfl rfl)
theorem State.cleared_link (s : State) (j : Job) (code : W16) (l : LinkId) : (s.cleared j code).link l =
    if (s.link l).owner = some j.id then
      { (s.link l).unowned with spillLost := (s.link l).spillLost || (s.spillRegion j l).isSome } else s.link l := by
  have hl : (s.cleared j code).links = (s.spillsLost j).links.map (fun k => if k.owner == some j.id then k.unowned else k) := rfl
  have hk : (s.cleared j code).link l =
      if ((s.spillsLost j).link l).owner = some j.id then ((s.spillsLost j).link l).unowned else (s.spillsLost j).link l := by
    rw [State.link, hl]
    exact (Vector.getElem_map ..).trans (if_congr beq_iff_eq rfl rfl)
  rw [hk, s.spillsLost_link]
  by_cases ho : (s.link l).owner = some j.id
  · cases (s.spillRegion j l).isSome <;> simp [ho, Link.unowned]
  · simp [ho]
theorem State.cleared_job {s : State} {j : Job} (code : W16) (hj : s.job? j.id = some j) :
    (s.cleared j code).job? j.id = some (j.cutOff code) := by
  obtain ⟨ks, hs⟩ := s.spillsLost_eq j
  have hc : (s.cleared j code).job? j.id = (s.modJob j.id (·.cutOff code)).job? j.id := by
    rw [State.cleared, hs]
    rfl
  rw [hc, State.modJob_found (f := (·.cutOff code)) (fun _ => rfl) hj]

/-- A job-abort cell leaves on every link that is UP of the active plan of a job in RUN. -/
theorem State.aborted_cell {s : State} {j : Job} {b : PaceBlock} {l : LinkId} (code : W16) (hr : j.phase = .run) (hb : j.pace = some b)
    (hl : j.activeUses l = true) (hu : s.up l = true) :
    ∃ u ∈ (s.aborted j code none).infield.transit, u.out = some l ∧ u.cell? = some (abortCell s.chip (s.link l).peerChip s.mgt.epoch b code) := by
  have hmem : l ∈ s.abortLinks j none := by simp [State.abortLinks, hr, hl, hu, mem_allLinks]
  rw [State.aborted, hr, if_pos (by decide), State.sendAborts_eq hb]
  exact ⟨_, List.mem_append_right _ (List.mem_map_of_mem hmem), rfl, rfl⟩
theorem State.cleared_mgt (s : State) (j : Job) (code : W16) : (s.cleared j code).mgt = s.mgt := by
  obtain ⟨ks, hs⟩ := s.spillsLost_eq j
  rw [State.cleared, hs]
  rfl
theorem State.cleared_peer (s : State) (j : Job) (code : W16) (l : LinkId) : ((s.cleared j code).link l).peerChip = (s.link l).peerChip ∧
    (s.cleared j code).up l = s.up l := by
  rw [State.up, s.cleared_link]
  split <;> exact ⟨rfl, rfl⟩

/-! The state after the first fault of a job (R352). -/

section
variable {s : State} {j : Job} (code : W16) (r : Loc) (hj : s.job? j.id = some j) (hf : j.phase ≠ .faulted)
  (hu : ∀ u ∈ s.mgt.unloads, ∀ x, u.parked = some x → x.1 ≠ j.id)
include hj hf
theorem State.jobFault_first : s.jobFault j.id code r =
    ((s.logAt code j.fn.val r).jobFaultWith j code code none).modJob j.id (fun k => { k with stopping := s.stopping j code r }) := by
  have hp : (j.phase == .faulted) = false := beq_eq_false_iff_ne.2 hf
  simp only [State.jobFault, hj, hp]
  rfl
include hu
theorem State.jobFault_job : ((s.jobFault j.id code r).job? j.id).map (fun j => (j.phase, j.firstFault)) = some (.faulted, code) := by
  obtain ⟨-, hjobs, -⟩ := State.jobFaultWith_stands (s := s.logAt code j.fn.val r) code code none hu
  have hcut : ((s.logAt code j.fn.val r).jobFaultWith j code code none).job? j.id = some (j.cutOff code) := by
    rw [State.job?, hjobs]
    exact State.cleared_job code hj
  rw [State.jobFault_first code r hj hf, State.modJob_job? _ _ (f := fun k => { k with stopping := s.stopping j code r }) fun _ => rfl, hcut]
  rfl
theorem State.jobFault_part (q : PartId) : (s.jobFault j.id code r).part q =
    if (s.part q).job = some j.id then (s.part q).toFaulted code else s.part q := by
  obtain ⟨hparts, -⟩ := State.jobFaultWith_stands (s := s.logAt code j.fn.val r) code code none hu
  rw [State.jobFault_first code r hj hf, State.modJob_part, State.part, hparts]
  exact State.cleared_part ..
theorem State.jobFault_link (l : LinkId) : (s.jobFault j.id code r).link l = if (s.link l).owner = some j.id then
    { (s.link l).unowned with spillLost := (s.link l).spillLost || (s.spillRegion j l).isSome } else s.link l := by
  obtain ⟨-, -, hlinks, -⟩ := State.jobFaultWith_stands (s := s.logAt code j.fn.val r) code code none hu
  rw [State.jobFault_first code r hj hf, State.modJob_link, State.link, hlinks]
  exact State.cleared_link ..
theorem State.jobFault_field : (s.jobFault j.id code r).field.1 =
    ((((s.logAt code j.fn.val r).cleared j code).aborted j code none).infield, s.sram.mem,
      s.hiu.reQueue.filter (fun d => !d.of j.fn j.parts), s.hiu.mcQueue.filter (fun d => !d.of j.fn j.parts), s.mgt.unloads) := by
  obtain ⟨-, -, -, hfield, -⟩ := State.jobFaultWith_stands (s := s.logAt code j.fn.val r) code code none hu
  rw [State.jobFault_first code r hj hf]
  exact hfield
theorem State.jobFault_infield : (s.jobFault j.id code r).infield =
    (((s.logAt code j.fn.val r).cleared j code).aborted j code none).infield := congrArg (·.1) (State.jobFault_field code r hj hf hu)
theorem State.jobFault_requests : (s.jobFault j.id code r).infield.requests =
    s.infield.requests.filter (fun r => !r.owner.ofLead j.lead) := by
  obtain ⟨us, ha⟩ := ((s.logAt code j.fn.val r).cleared j code).aborted_changes j code none
  have hc := congrArg (·.1.1.requests) ((s.logAt code j.fn.val r).cleared_field j code)
  rw [State.jobFault_infield code r hj hf hu, ha]
  exact hc
theorem State.jobFault_mem : (s.jobFault j.id code r).sram.mem = s.sram.mem := congrArg (·.2.1) (State.jobFault_field code r hj hf hu)
theorem State.jobFault_cell {b : PaceBlock} {l : LinkId} (hr : j.phase = .run) (hb : j.pace = some b) (hl : j.activeUses l = true)
    (hup : s.up l = true) : ∃ u ∈ (s.jobFault j.id code r).infield.transit, u.out = some l ∧
      u.cell? = some (abortCell s.chip (s.link l).peerChip s.mgt.epoch b code) := by
  have hm : ((s.logAt code j.fn.val r).cleared j code).mgt = s.mgt := State.cleared_mgt ..
  have hchip : ((s.logAt code j.fn.val r).cleared j code).chip = s.chip := by rw [State.chip, hm, State.chip]
  obtain ⟨hpeer, hupc⟩ := (s.logAt code j.fn.val r).cleared_peer j code l
  have hcell := State.aborted_cell code hr hb hl (hupc.trans hup)
  rw [hchip, hpeer, hm] at hcell
  rw [State.jobFault_infield code r hj hf hu]
  exact hcell
theorem State.jobFault_queues : ∀ d ∈ (s.jobFault j.id code r).hiu.reQueue ++ (s.jobFault j.id code r).hiu.mcQueue,
    d.of j.fn j.parts = false := by
  have hre : (s.jobFault j.id code r).hiu.reQueue = s.hiu.reQueue.filter (fun d => !d.of j.fn j.parts) :=
    congrArg (·.2.2.1) (State.jobFault_field code r hj hf hu)
  have hmc : (s.jobFault j.id code r).hiu.mcQueue = s.hiu.mcQueue.filter (fun d => !d.of j.fn j.parts) :=
    congrArg (·.2.2.2.1) (State.jobFault_field code r hj hf hu)
  intro d hd
  rw [hre, hmc, ← List.filter_append] at hd
  simpa using (List.mem_filter.1 hd).2
theorem State.jobFault_winOps {o : WinOp} {q : PartId} (ho : s.hiu.winOps = [o]) (hc : o.cutShort = true) (hq : o.part = some q)
    (hm : q ∈ j.parts) : (s.jobFault j.id code r).hiu.winOps = [] := by
  obtain ⟨-, -, -, -, hops⟩ := State.jobFaultWith_stands (s := s.logAt code j.fn.val r) code code none hu
  rw [State.jobFault_first code r hj hf]
  exact hops o q ho hc hq hm
end

end Sys2Proof.Machine
end

section
/-! SUPPORT and the statement of issue, dispatch, completion and the fault of a job (R68, R89 to R91, R98, R130 to R137, R313, R352). -/

namespace Sys2Proof.Machine

/-! SEQUENCER_ISSUE (R98). -/

/-- What a die's stream of a turn can issue, with the turn and the partition. -/
def State.turnIssue (s : State) (d : DieId) (n : Fin 8) : Option (Fin 8 × PartId × Stream × Cmd) :=
  (s.canIssue (streamOf d n).1 (streamOf d n).2).map (fun x => (n, (streamOf d n).1, x))
theorem State.turnIssue_none {s : State} {d : DieId} {n : Fin 8} (h : s.canIssue (streamOf d n).1 (streamOf d n).2 = none) :
    s.turnIssue d n = none := by rw [State.turnIssue, h]; rfl
/-- The turns of a die's streams, from the one whose turn it is. -/
def State.turns (s : State) (d : DieId) : List (Fin 8) := (List.range 8).map (fun k => finOf 8 (s.seqTurn[d].val + k))

/-- The first of the numbers at which a function answers is found by going through them in order. -/
theorem findSome?_range_of_first {α : Type} {f : Nat → Option α} {m N : Nat} {a : α} (hm : m < N) (hn : ∀ i < m, f i = none)
    (hf : f m = some a) : (List.range N).findSome? f = some a := by
  have hsplit : List.range N = List.range m ++ (List.range (N - m)).map (m + ·) := by
    rw [← List.range_add, Nat.add_sub_cancel' hm.le]
  have hnone : (List.range m).findSome? f = none := List.findSome?_eq_none_iff.2 fun i hi => hn i (List.mem_range.1 hi)
  obtain ⟨k, hk⟩ := Nat.exists_eq_succ_of_ne_zero (Nat.sub_ne_zero_of_lt hm)
  rw [hsplit, List.findSome?_append, hnone, hk, List.range_succ_eq_map]
  simp [hf]

theorem exec_sequencerIssue_idle {s : State} {d : DieId}
    (h : s.inHold (.sequencer d) = true ∨ ∀ n : Fin 8, s.canIssue (streamOf d n).1 (streamOf d n).2 = none) :
    exec (.sequencerIssue d) s = .next s := by
  show execSequencerIssue d s = _
  unfold execSequencerIssue
  obtain h | h := h
  · rw [if_pos h]
  · have hnone : (s.turns d).findSome? (s.turnIssue d) = none := List.findSome?_eq_none_iff.2 fun n _ => State.turnIssue_none (h n)
    unfold State.turns State.turnIssue at hnone
    simp only [hnone, ite_self]

theorem State.issue_checked {s v : State} {p : PartId} {j : Job} {x : Stream} {c : Cmd} {y : StreamDef}
    (hy : y ∈ j.image.streams.find? (fun y => y.jobPart == (s.part p).jobPart && y.index == x.index.val))
    (hf : s.fetchCheck p y.region y.offset { cmd := c, index := x.pos, iter := x.iter, src := .stream x.index } 3 2 = (v, true)) :
    s.issue p j x c = ((v.modPart p (fun q => q.modStream x.index (fun x => { x with pos := x.pos + 1 }))).issueTo p j x.index
      { cmd := c, index := x.pos, iter := x.iter, src := .stream x.index }).settle p := by
  unfold State.issue
  rw [Option.mem_def.1 hy]
  simp only [hf]

theorem exec_sequencerIssue_turn {s : State} {d : DieId} {m : Nat} {n : Fin 8} {p : PartId} {k : StreamIx} {x : Stream} {c : Cmd} {j : Job}
    (hh : s.inHold (.sequencer d) = false) (hm : m < 8) (hn : n = finOf 8 (s.seqTurn[d].val + m))
    (hb : ∀ i < m, s.canIssue (streamOf d (finOf 8 (s.seqTurn[d].val + i))).1 (streamOf d (finOf 8 (s.seqTurn[d].val + i))).2 = none)
    (hpk : streamOf d n = (p, k)) (hc : s.canIssue p k = some (x, c)) (hj : s.jobOf p = some j) :
    exec (.sequencerIssue d) s = .next ({ s with seqTurn := vset s.seqTurn d (finOf 8 (n.val + 1)) }.issue p j x c) := by
  have hfirst : (s.turns d).findSome? (s.turnIssue d) = some (n, p, x, c) := by
    rw [State.turns, List.findSome?_map]
    refine findSome?_range_of_first hm (fun i hi => State.turnIssue_none (hb i hi)) ?_
    rw [Function.comp_apply, ← hn, State.turnIssue, hpk, hc]
    rfl
  show execSequencerIssue d s = _
  unfold execSequencerIssue
  rw [if_neg (by simp [hh])]
  unfold State.turns State.turnIssue at hfirst
  simp only [hfirst, hj]

section
variable {s : State} {p : PartId} {k : StreamIx} {x : Stream} {j : Job} {c : Cmd} (hj : s.jobOf p = some j)
  (hx : (s.part p).stream? k = some x) (hr : (s.part p).st = .run) (hp : j.phase = .run) (hc : x.code[x.pos]? = some c)
include hj hx hr hp hc
theorem State.canIssue_running (hm : x.mode = .running) (hq : s.queueFull p j c = false) : s.canIssue p k = some (x, c) := by
  simp [State.canIssue, hj, hx, hr, hp, hc, hm, hq]
theorem State.canIssue_waits (h : x.mode ≠ .running ∨ s.queueFull p j c = true) : s.canIssue p k = none := by
  unfold State.canIssue
  simp only [hj, hx, hr, hp, hc]
  obtain h | h := h
  · simp [h]
  · simp [h]
end

/-! PICKER_DISPATCH (R130 to R136). -/

/-- The picker takes the first descriptor after those it passes over. -/
theorem State.pickFrom_first {s u : State} {p : PartId} {j : Job} {g : GraphList} {x : Nat × Nat} {rest : List (Nat × Nat)} {c : Cmd}
    (hx : g.descs[x.2]? = some c) : ∀ {before earlier : List (Nat × Nat)},
    (∀ (e e' : List (Nat × Nat)) (z : Nat × Nat) (d : Cmd), before = e ++ z :: e' → g.descs[z.2]? = some d →
      s.instReady p g (earlier ++ e) z d = true → s.pick p j g (earlier ++ e) z d = none) →
    s.instReady p g (earlier ++ before) x c = true → s.pick p j g (earlier ++ before) x c = some u →
    s.pickFrom p j g earlier (before ++ x :: rest) = some u
  | [], earlier, _, hr, hu => by
    rw [List.append_nil] at hr hu
    rw [List.nil_append, State.pickFrom]
    simp only [hx, hr, hu, if_true]
  | z :: before, earlier, hb, hr, hu => by
    have hrest : s.pickFrom p j g (earlier ++ [z]) (before ++ x :: rest) = some u := by
      refine State.pickFrom_first hx (fun e e' y d he hd hy => ?_) (by simpa using hr) (by simpa using hu)
      have h := hb (z :: e) e' y d (by rw [he, List.cons_append]) hd
      simpa using h (by simpa using hy)
    rw [List.cons_append, State.pickFrom]
    split
    · exact hrest
    · next d hd =>
      have hz : (if s.instReady p g earlier z d then s.pick p j g earlier z d else none) = none := by
        split
        · next hy => simpa using hb [] before z d rfl hd (by simpa using hy)
        · rfl
      rw [hz]
      exact hrest

section
variable {s : State} {p : PartId} {j : Job} {g : GraphList} {before : List (Nat × Nat)} {x : Nat × Nat} {c : Cmd}

theorem State.pick_dispatches (h0 : c.group ≠ 0) (h7 : c.group ≠ 7) (ho : g.ordered before c = false)
    (hf : fate (s.part p).pred c (c.waits.filterMap (fun r => (s.part p).head? g.tile (refQueue r))) = none)
    (hr : s.graphRoom p j c = true) : s.pick p j g before x c =
      some ((s.modPart p (fun q => q.modList g.tile (fun g => g.leave x true))).dispatchTo p j
        { cmd := c, index := x.2, iter := x.1, src := .graph }) := by
  simp [State.pick, h0, h7, ho, hf, hr]
theorem State.pick_skips {n : Nat} {w : State} (h7 : c.group ≠ 7) (ho : g.ordered before c = false)
    (hf : fate (s.part p).pred c (c.waits.filterMap (fun r => (s.part p).head? g.tile (refQueue r))) = some n)
    (hw : w = (s.modPart p (fun q => q.modList g.tile (fun g => g.leave x true))).retire p
      { cmd := c, index := x.2, iter := x.1, src := .graph }
      (fun id k => mkVoid n id k (Issued.src8 { cmd := c, index := x.2, iter := x.1, src := .graph } p)) 4) :
    s.pick p j g before x c = some (if c.group = 4 ∧ c.opcode = 1 then
      w.skipSend p j { cmd := c, index := x.2, iter := x.1, src := .graph } n else w) := by
  simp [State.pick, h7, ho, hf, hw]
theorem State.pick_holds_back (h7 : c.group ≠ 7) (h : g.ordered before c = true ∨ (c.group ≠ 0 ∧
    fate (s.part p).pred c (c.waits.filterMap (fun r => (s.part p).head? g.tile (refQueue r))) = none ∧ s.graphRoom p j c = false)) :
    s.pick p j g before x c = none := by
  obtain ho | ⟨h0, hf, hr⟩ := h
  · simp [State.pick, h7, ho]
  · simp [State.pick, h7, h0, hf, hr]
end

section
variable {s v : State} {t : TileId} {p : PartId} {tt : Fin 32} {j : Job} {g0 : GraphList} {region offset ix : Nat} (hp : p = partOfTile t)
  (ht : tt = tileInPart t) (hr : (s.part p).st = .run) (hh : s.inHold (.tile t) = false) (hj : s.jobOf p = some j) (hjr : j.phase = .run)
  (hg : (s.part p).list? tt = some g0) (he : g0.ended = false) (ha : g0.arrived = none)
  (hd : j.image.graphTargets.find? (fun d => d.1 == (s.part p).jobPart) = some ((s.part p).jobPart, region, offset, ix))
include hp ht hr hh hj hjr hg he ha hd
theorem exec_pickerDispatch_faulted (hv : s.fillWindow p tt j.circuits region offset 128 = (v, false)) :
    exec (.pickerDispatch t) s = .next v := by
  subst hp ht
  show execPickerDispatch t s = _
  unfold execPickerDispatch
  simp [hr, hh, hj, hjr, hg, he, ha, hd, hv]
theorem exec_pickerDispatch_handled {u y : State} {g : GraphList} {x : Nat × Nat} {before rest : List (Nat × Nat)}
    (hv : s.fillWindow p tt j.circuits region offset 128 = (v, true)) (hl : (v.part p).list? tt = some g)
    (hw : g.window = before ++ x :: rest) (hu : v.pickFrom p j g [] g.window = some u)
    (hy : (if (u.part p).st == .run then u.fillWindow p tt j.circuits region offset 128 else (u, true)) = (y, true)) :
    exec (.pickerDispatch t) s = .next ((y.listEnd p tt).settle p) := by
  subst hp ht
  show execPickerDispatch t s = _
  unfold execPickerDispatch
  simp only [hr, hh, hj, hjr, hg, he, ha, hd, hv, hl]
  simp only [hu, hy]
  simp [hw]
end

/-! COMMAND_COMPLETE and BATON_TIMEOUT (R68, R90, R91, R137). -/

section
variable {s : State} {t : TileId} {e : EngineKind} {p : PartId} {g : Engine} (hp : p = partOfTile t)
  (hg : g = (s.part p).engine (tileInPart t) e)
include hp hg
theorem exec_commandComplete_idle (h : g.running = none ∨ (s.part p).st ≠ .run ∨ s.inHold (.tile t) = true) :
    exec (.commandComplete t e) s = .next s := by
  subst hp hg
  show execCommandComplete t e s = _
  unfold execCommandComplete
  dsimp only
  split
  · rfl
  · next r hr =>
    have hst : (s.inHold (.tile t) || (s.part (partOfTile t)).st != .run) = true := by
      simpa [hr, or_comm] using h
    rw [if_pos hst]
theorem exec_commandComplete_running {r : Running} (hr : g.running = some r) (hs : (s.part p).st = .run) (hh : s.inHold (.tile t) = false) :
    exec (.commandComplete t e) s = .next (((s.modPart p (fun q => q.setEngine { g with running := none })).retire p r.cmd
      (fun id n => mkEntry r.payload id n (r.cmd.src8 p)) (engNo e)).settle p) := by
  subst hp hg
  show execCommandComplete t e s = _
  unfold execCommandComplete
  simp [hr, hs, hh]
end

theorem exec_batonTimeout_quiet {s : State} {place : WaitPlace} (h : s.waiting place = none) : exec (.batonTimeout place) s = .next s := by
  show execBatonTimeout place s = _
  unfold execBatonTimeout
  rw [h]
section
variable {s : State} {place : WaitPlace} {p : PartId} {i : Issued} {n : Nat} {j : Job} (hw : s.waiting place = some (p, i, n))
  (hj : s.jobOf p = some j)
include hw hj
theorem exec_batonTimeout_unlimited (h0 : j.image.waitLimit = 0) : exec (.batonTimeout place) s = .next s := by
  show execBatonTimeout place s = _
  unfold execBatonTimeout
  simp [hw, hj, h0]
theorem exec_batonTimeout_faults (h0 : j.image.waitLimit ≠ 0) (hr : (s.part p).st = .run) :
    exec (.batonTimeout place) s = .next (s.partJobFault p Code.batonTimeout (i.loc p n)) := by
  show execBatonTimeout place s = _
  unfold execBatonTimeout
  simp [hw, hj, h0, hr]
end

/-! A later fault of a job (R71, R349). -/

section
variable {s : State} {j : Job} {code : W16} {r : Loc} (hj : s.job? j.id = some j) (hf : j.phase = .faulted)
include hj hf
theorem State.jobFault_same_beat {x : Stopping} (hx : j.stopping = some x) (hr : s.paceRuns = true) (hb : x.beat = s.pace.count)
    (hv : Code.violates code = true) (hu : (r.tile, r.engine) ∉ x.units) : s.jobFault j.id code r =
      (s.modJob j.id (fun j => { j with stopping := some { x with units := (r.tile, r.engine) :: x.units } })).logAt code j.fn.val r := by
  have hs : s.stops j = some x := by simp [State.stops, hx, hr, hb]
  simp [State.jobFault, hj, hf, hs, hv, hu]
theorem State.jobFault_counted (h : (∀ x : Stopping, j.stopping = some x → x.beat = s.pace.count → (r.tile, r.engine) ∈ x.units) ∨
    s.paceRuns = false ∨ Code.violates code = false) :
    s.jobFault j.id code r = s.modLog (fun g => { g with suppressed := satInc g.suppressed }) := by
  unfold State.jobFault
  simp only [hj, hf, beq_self_eq_true, if_true]
  split
  · next x hx =>
    obtain ⟨hst, hrun⟩ := Option.filter_eq_some_iff.1 hx
    obtain ⟨hpr, hbeat⟩ := Bool.and_eq_true_iff.1 hrun
    have hno : (Code.violates code && !x.units.contains (r.tile, r.engine)) = false := by
      obtain h | h | h := h
      · simp [h x hst (beq_iff_eq.1 hbeat)]
      · simp [hpr] at h
      · simp [h]
    rw [hno]
    rfl
  · rfl
end

/-! What follows every change of a queue (R86, R89, R135). -/

/-- The mismatch at which a front stands, if it stands at one. -/
def State.mismatchAt (s : State) (p : PartId) (x : Issued × Nat) : Option ((Issued × Nat) × BatonRef × QEntry) :=
  match s.waitsOf p x.1 with
  | .mismatch r e => some (x, r, e)
  | _ => none
theorem State.mismatchAt_of {s : State} {p : PartId} {i : Issued} {n : Nat} {r : BatonRef} {e : QEntry} (h : s.waitsOf p i = .mismatch r e) :
    s.mismatchAt p (i, n) = some ((i, n), r, e) := by
  simp only [State.mismatchAt, h]
theorem State.mismatchAt_none {s : State} {p : PartId} {x : Issued × Nat} (h : ∀ r e, s.waitsOf p x.1 ≠ .mismatch r e) :
    s.mismatchAt p x = none := by
  unfold State.mismatchAt
  split
  · next r e hm => exact absurd hm (h r e)
  · rfl

section
variable {s : State} {p : PartId} {j : Job} (hj : s.jobOf p = some j) (hr : (s.part p).st = .run) {before after : List (Issued × Nat)}
  {i : Issued} {n : Nat} (hi : s.fronts p = before ++ (i, n) :: after)
include hj hr hi
theorem State.settle_mismatch {r : BatonRef} {e : QEntry} (hb : ∀ x ∈ before, ∀ r e, s.waitsOf p x.1 ≠ .mismatch r e)
    (hm : s.waitsOf p i = .mismatch r e) :
    s.settle p = s.partJobFault p Code.batonMismatch ((i.loc p n).baton i.cmd.tile (refQueue r)
      (batonKey (refId r) (effGen i.cmd.relGen (refGen r) i.iter)) (batonKey (qId e) (qGen e))) := by
  have hfirst : (s.fronts p).findSome? (s.mismatchAt p) = some ((i, n), r, e) := by
    have hnone : before.findSome? (s.mismatchAt p) = none := List.findSome?_eq_none_iff.2 fun x hx => State.mismatchAt_none (hb x hx)
    rw [hi, List.findSome?_append, hnone, List.findSome?_cons, State.mismatchAt_of hm]
    rfl
  unfold State.settle
  rw [hr, if_neg (by decide), hj]
  dsimp only
  split
  · next heq =>
    obtain ⟨hx, hre⟩ := Prod.mk.inj (Option.some.inj (heq.symm.trans hfirst))
    obtain ⟨rfl, rfl⟩ := Prod.mk.inj hre
    rw [hx]
    rfl
  · next heq => cases heq.symm.trans hfirst
theorem State.settle_orphan (hn : ∀ x ∈ s.fronts p, ∀ r e, s.waitsOf p x.1 ≠ .mismatch r e)
    (hb : ∀ x ∈ before, s.orphaned p j x.1 = false) (ho : s.orphaned p j i = true) :
    s.settle p = s.partJobFault p Code.batonOrphan (i.loc p n) := by
  have hnone : (s.fronts p).findSome? (s.mismatchAt p) = none := List.findSome?_eq_none_iff.2 fun x hx => State.mismatchAt_none (hn x hx)
  have hfirst : (s.fronts p).find? (fun x => s.orphaned p j x.1) = some (i, n) := by
    have hskip : before.find? (fun x => s.orphaned p j x.1) = none := List.find?_eq_none.2 fun x hx => by simp [hb x hx]
    rw [hi, List.find?_append, hskip, Option.none_or]
    exact List.find?_cons_of_pos (a := (i, n)) ho
  unfold State.settle
  rw [hr, if_neg (by decide), hj]
  dsimp only
  split
  · next heq => cases heq.symm.trans hnone
  · rw [hfirst]
    rfl
end

/-- What a list is zipped with, when that is a function of its members. -/
theorem mem_zip_map {α β : Type} {f : α → β} {a : α} {b : β} {l : List α} (h : (a, b) ∈ l.zip (l.map f)) : a ∈ l ∧ f a = b := by
  have hz : l.zip (l.map f) = l.map (fun x => (x, f x)) := by simpa using List.zip_map' (f := id) (g := f) (l := l)
  obtain ⟨x, hx, hpair⟩ := List.mem_map.1 (hz ▸ h)
  obtain ⟨rfl, rfl⟩ := Prod.mk.inj hpair
  exact ⟨hx, rfl⟩
/-- A mismatch is a head, held by nothing, that is another baton than the command awaits. -/
theorem State.waitsOf_mismatch {s : State} {p : PartId} {i : Issued} {r : BatonRef} {e : QEntry} (h : s.waitsOf p i = .mismatch r e) :
    r ∈ i.cmd.waits ∧ (s.part p).head? i.cmd.tile (refQueue r) = some e ∧ s.held p i.cmd.tile (refQueue r) = false ∧
      (qId e ≠ refId r ∨ qGen e ≠ effGen i.cmd.relGen (refGen r) i.iter) := by
  unfold State.waitsOf Partition.waits at h
  dsimp only at h
  split at h
  · next r' e' hf =>
    obtain ⟨rfl, rfl⟩ := WaitState.mismatch.inj h
    have hbad := List.find?_some hf
    obtain ⟨hx, he⟩ := mem_zip_map (List.mem_of_find?_eq_some hf)
    split at he
    · cases he
    · next hheld =>
      refine ⟨hx, he, by simpa using hheld, ?_⟩
      simpa [← not_and_or, Bool.and_eq_false_iff] using hbad
  · split at h <;> cases h

/-! The fault of a job at a command that waits (R91, R313, R352). -/

/-- The fault that a command of a partition meets is one of the job there. -/
theorem State.partJobFault_of {s : State} {p : PartId} {j : Job} (hj : s.jobOf p = some j) (code : W16) (r : Loc) :
    s.partJobFault p code r = s.jobFault j.id code r := by
  obtain ⟨hid, -⟩ := State.jobOf_job hj
  simp only [State.partJobFault, hid]
theorem batonTimeout_fault {s : State} {place : WaitPlace} {p : PartId} {i : Issued} {n : Nat} {j : Job}
    (hw : s.waiting place = some (p, i, n)) (hj : s.jobOf p = some j) (h0 : j.image.waitLimit ≠ 0) (hr : (s.part p).st = .run) :
    exec (.batonTimeout place) s = .next (s.jobFault j.id Code.batonTimeout (i.loc p n)) := by
  rw [exec_batonTimeout_faults hw hj h0 hr, State.partJobFault_of hj]

/-- Settles O37: the first job fault of a command that waits too long is read off from what any first fault of a job leaves; each other clause is the
lemma of its row or operation above. -/
theorem commandsIssueDispatchAndComplete : Obligations.CommandsIssueDispatchAndComplete := by
  unfold Obligations.CommandsIssueDispatchAndComplete
  refine ⟨⟨fun s d h => exec_sequencerIssue_idle h, ?_, fun s p k x j c hj hx hr hp hc => ⟨State.canIssue_running hj hx hr hp hc,
    State.canIssue_waits hj hx hr hp hc⟩⟩, ?_, ?_, ?_, ?_, ?_, ?_⟩
  · intro s v d m n p k x c j hh hm hn hb hpk hc hj hy
    obtain ⟨y, hy, hf⟩ := hy
    rw [exec_sequencerIssue_turn hh hm hn hb hpk hc hj]
    exact congrArg _ (State.issue_checked hy hf)
  · intro s v t p tt j g0 region offset ix hp ht hr hh hj hjr hg he ha hd
    refine ⟨exec_pickerDispatch_faulted hp ht hr hh hj hjr hg he ha hd, ?_, fun g x before c h7 h => State.pick_holds_back h7 h⟩
    intro u y g x before rest c i hv hl hw hb hx hready h0 h7 ho hi hu hy
    subst hi
    have hpick : v.pick p j g before x c = some u := by
      obtain ⟨hfate, hroom, rfl⟩ | ⟨k, w, hfate, hw, rfl⟩ := hu
      · exact State.pick_dispatches h0 h7 ho hfate hroom
      · exact State.pick_skips h7 ho hfate hw
    have hfrom : v.pickFrom p j g [] g.window = some u := by
      rw [hw]
      exact State.pickFrom_first hx hb hready hpick
    exact exec_pickerDispatch_handled hp ht hr hh hj hjr hg he ha hd hv hl hw hfrom hy
  · exact fun s t e p g hp hg => ⟨exec_commandComplete_idle hp hg, fun r => exec_commandComplete_running hp hg⟩
  · exact fun s place => ⟨exec_batonTimeout_quiet, fun p i n j hw hj => ⟨exec_batonTimeout_unlimited hw hj, exec_batonTimeout_faults hw hj⟩⟩
  · intro s place p i n j hw hj h0 hr hf hu
    have hj' := (State.jobOf_job hj).2
    refine ⟨_, batonTimeout_fault hw hj h0 hr, State.jobFault_job _ _ hj' hf hu, fun q => ?_, fun l => ?_, State.jobFault_requests _ _ hj' hf hu,
      State.jobFault_mem _ _ hj' hf hu, fun b l => State.jobFault_cell _ _ hj' hf hu, State.jobFault_queues _ _ hj' hf hu,
      fun o q => State.jobFault_winOps _ _ hj' hf hu⟩
    · rw [State.jobFault_part _ _ hj' hf hu]
      simp [Partition.toFaulted]
    · exact State.jobFault_link _ _ hj' hf hu l
  · exact fun s j code r hj hf => ⟨fun x => State.jobFault_same_beat hj hf, State.jobFault_counted hj hf⟩
  · exact fun s p j hj hr => ⟨fun before after i n r e hi => State.settle_mismatch hj hr hi, fun i r e => State.waitsOf_mismatch,
      fun before after i n hn hi => State.settle_orphan hj hr hi hn⟩

end Sys2Proof.Machine
end

section
/-! SUPPORT. Work on the plots that goes on and work that a refused access ends: how both go through the forms that the engines' bodies
are written in, and what they make of the engine that starts them (R67, R70, R72, R89). -/

namespace Sys2Proof.Machine

/-- Work on the plots that goes on: whatever traffic is noted, from plots m it answers v and leaves plots n. -/
def State.Gives {α : Type} (s : State) (f : Eng α) (m : Bytes) (v : α) (n : Bytes) : Prop :=
  ∀ k, ∃ k', f ((s.withMem m).withTraffic k) = .ok v ((s.withMem n).withTraffic k')
/-- Work on the plots that a fault of a partition's job ends: from plots m, with plots n stored so far. -/
def State.Cuts {α : Type} (s : State) (p : PartId) (code : W16) (w : Loc) (f : Eng α) (m n : Bytes) : Prop :=
  ∀ k, ∃ k', f ((s.withMem m).withTraffic k) = .error () (((s.withMem n).withTraffic k').partJobFault p code w)

section
variable {α β : Type} {s : State} {p : PartId} {code : W16} {w : Loc} {m n o : Bytes}

/-! Sequences. -/

theorem State.Gives.pure (s : State) (v : α) (m : Bytes) : s.Gives (Pure.pure v) m v m := fun k => ⟨k, rfl⟩
theorem State.Gives.bind {f : Eng α} {g : α → Eng β} {v : α} {u : β} (hf : s.Gives f m v n) (hg : s.Gives (g v) n u o) :
    s.Gives (f >>= g) m u o := by
  intro k
  obtain ⟨k1, h1⟩ := hf k
  obtain ⟨k2, h2⟩ := hg k1
  exact ⟨k2, by simp only [Bind.bind, EStateM.bind, h1, h2]⟩
theorem State.Gives.bind_cuts {f : Eng α} {g : α → Eng β} {v : α} (hf : s.Gives f m v n) (hg : s.Cuts p code w (g v) n o) :
    s.Cuts p code w (f >>= g) m o := by
  intro k
  obtain ⟨k1, h1⟩ := hf k
  obtain ⟨k2, h2⟩ := hg k1
  exact ⟨k2, by simp only [Bind.bind, EStateM.bind, h1, h2]⟩
theorem State.Cuts.bind {f : Eng α} (hf : s.Cuts p code w f m n) (g : α → Eng β) : s.Cuts p code w (f >>= g) m n := by
  intro k
  obtain ⟨k1, h1⟩ := hf k
  exact ⟨k1, by simp only [Bind.bind, EStateM.bind, h1]⟩

/-! Lists of steps. -/

theorem State.Gives.mapM {f : α → Eng β} {g : α → β} {l : List α} (h : ∀ x ∈ l, s.Gives (f x) m (g x) m) :
    s.Gives (l.mapM f) m (l.map g) m :=
  fun _ => mapM_ok (s := s.withMem m) h
theorem State.Gives.mapM_exists {f : α → Eng β} {l : List α} (h : ∀ x ∈ l, ∃ v, s.Gives (f x) m v m) :
    ∃ vs, s.Gives (l.mapM f) m vs m := by
  induction l with
  | nil => exact ⟨[], .pure s _ m⟩
  | cons x l ih =>
    obtain ⟨v, hv⟩ := h x (by simp)
    obtain ⟨vs, hvs⟩ := ih fun y hy => h y (by simp [hy])
    exact ⟨v :: vs, by rw [List.mapM_cons]; exact hv.bind (hvs.bind (.pure s _ m))⟩
theorem State.Cuts.mapM {f : α → Eng β} {before after : List α} {x : α} (h : ∀ y ∈ before, ∃ v, s.Gives (f y) m v m)
    (hx : s.Cuts p code w (f x) m n) : s.Cuts p code w ((before ++ x :: after).mapM f) m n := by
  obtain ⟨vs, hvs⟩ := State.Gives.mapM_exists h
  rw [List.mapM_append, List.mapM_cons]
  exact hvs.bind_cuts ((hx.bind _).bind _)
theorem State.Gives.forM {f : α → Eng Unit} {g : Bytes → α → Bytes} {l : List α} (h : ∀ x ∈ l, ∀ b, s.Gives (f x) b () (g b x)) :
    s.Gives (l.forM f) m () (l.foldl g m) :=
  fun _ => forM_ok h
theorem State.Cuts.forM {f : α → Eng Unit} {before after : List α} {x : α} (h : s.Gives (before.forM f) m () n)
    (hx : s.Cuts p code w (f x) n o) : s.Cuts p code w ((before ++ x :: after).forM f) m o := by
  rw [show (before ++ x :: after).forM f = (before.forM f >>= fun _ => (x :: after).forM f) from List.forM_append ..]
  exact h.bind_cuts (hx.bind _)
theorem State.Gives.visits {f : Nat → Eng Unit} {g : Bytes → Nat → Bytes} {c : Nat}
    (h : ∀ j < c, s.Gives (f j) ((List.range j).foldl g m) () (g ((List.range j).foldl g m) j)) :
    s.Gives (Machine.visits f c) m () ((List.range c).foldl g m) := by
  induction c with
  | zero => exact .pure s () m
  | succ c ih =>
    rw [List.range_succ, List.foldl_append]
    exact (ih fun j hj => h j (by omega)).bind (h c (by omega))
theorem State.Cuts.visits {f : Nat → Eng Unit} {j c : Nat} (hj : j < c) (h : s.Gives (Machine.visits f j) m () n)
    (hx : s.Cuts p code w (f j) n o) : s.Cuts p code w (Machine.visits f c) m o := by
  induction c with
  | zero => omega
  | succ c ih =>
    obtain rfl | hj := Nat.lt_succ_iff_lt_or_eq.1 hj |>.symm
    · exact h.bind_cuts hx
    · exact (ih hj).bind _
end

/-! A list up to one of its places. -/

theorem range_upTo {n k : Nat} (h : k < n) : ∃ after, List.range n = List.range k ++ k :: after := by
  induction n with
  | zero => omega
  | succ n ih =>
    obtain rfl | h := Nat.lt_succ_iff_lt_or_eq.1 h |>.symm
    · exact ⟨[], List.range_succ⟩
    · obtain ⟨after, ha⟩ := ih h
      exact ⟨after ++ [n], by rw [List.range_succ, ha]; simp⟩
/-- The numbered elements of a list before place k, the one there, and the rest. -/
theorem numbered_upTo {α : Type} {l : List α} {k : Nat} (h : k < l.length) :
    ∃ after, (List.range l.length).zip l = (List.range k).zip (l.take k) ++ (k, l[k]) :: after := by
  obtain ⟨after, ha⟩ := range_upTo h
  refine ⟨after.zip (l.drop (k + 1)), ?_⟩
  rw [ha]
  conv_lhs => rw [← List.take_append_drop k l, List.drop_eq_getElem_cons h]
  rw [List.zip_append (by simp; omega), List.zip_cons_cons]

/-! One access. -/

section
variable {s : State} {a : Acc} {kind region len : Nat} {off : Int}

theorem State.placeOf_grants {e : BitVec 128} {tile : Fin 32} (h : s.Grants a.part tile kind region e) (off : Int) :
    s.placeOf a region off = partBase a.part + ((meStart e : Int) + off).toNat := by
  obtain ⟨m, hA, -, he⟩ := h.map
  simp [State.placeOf, hA, he]
theorem State.Gives.read (h : s.Allows a kind region off len) (hc : s.sram.ecc = []) (m : Bytes) :
    s.Gives (a.read kind region off len) m (Mem.read m (s.placeOf a region off) len) m := by
  obtain ⟨e, hg, h0, h1⟩ := h
  intro k
  rw [State.placeOf_grants hg]
  exact Acc.read_ok (s := (s.withMem m).withTraffic k) ((hg.withMem m).withTraffic k) hc h0 h1
theorem State.Gives.write {bs : List Byte} (h : s.Allows a kind region off bs.length) (hc : s.sram.ecc = []) (m : Bytes) :
    s.Gives (a.write kind region off bs) m () (Mem.write m (s.placeOf a region off) bs) := by
  obtain ⟨e, hg, h0, h1⟩ := h
  intro k
  rw [State.placeOf_grants hg]
  exact Acc.write_ok (s := (s.withMem m).withTraffic k) ((hg.withMem m).withTraffic k) hc h0 h1

variable {code : W16} {w : Loc}
/-- An access that its region refuses ends the work with the fault that the refusal names (R67, R72). -/
theorem State.Cuts.check (h : s.Denied a kind region off len code w) (m : Bytes) :
    s.Cuts a.part code w (a.check kind region off len) m m := by
  obtain ⟨g, adr, hA, hB, rfl, h⟩ := h
  intro k
  refine ⟨k, ?_⟩
  simp only [Acc.check, State.consultOne, State.consult, State.withTraffic_part, State.withMem_part, hA, hB]
  rcases he : g.entry? region with _ | e <;> rw [he] at h
  · obtain ⟨rfl, rfl⟩ := h
    simp [AllocMap.diffAt, he]
    rfl
  · dsimp only at h
    split at h
    · next hk =>
      obtain ⟨hb, rfl, rfl⟩ := h
      simp [AllocMap.diffAt, he, hk, hb]
      rfl
    · next hk =>
      obtain ⟨rfl, rfl⟩ := h
      rw [not_and_or, Bool.not_eq_true, Bool.not_eq_true] at hk
      simp [AllocMap.diffAt, he, hk]
      rfl
theorem State.Cuts.read (h : s.Denied a kind region off len code w) (m : Bytes) :
    s.Cuts a.part code w (a.read kind region off len) m m :=
  (State.Cuts.check h m).bind _
theorem State.Cuts.write {bs : List Byte} (h : s.Denied a kind region off bs.length code w) (m : Bytes) :
    s.Cuts a.part code w (a.write kind region off bs) m m :=
  (State.Cuts.check h m).bind _
end

/-! The command that starts the work. -/

theorem State.runOn_ends {s s2 : State} {t : TileId} {e : EngineKind} {u : Turn} {i : Issued} {es : List QEntry} {grp op : Nat}
    {body : Acc → List QEntry → Eng (BitVec 96)} (h : s.Starts t e u i es) (hs : s.skipCause (partOfTile t) i es = none)
    (hg : i.cmd.group = grp) (ho : i.cmd.opcode = op) (hb : body (accOf t e i) es (s.taken t e u) = .error () s2) :
    s.runOn t e grp op body = s2 := by
  obtain ⟨h1, h2, h3, h4⟩ := h
  simp only [State.skipCause] at hs
  rw [State.runOn_live h1]
  simp only [accOf, State.taken, h2] at hb
  simp only [State.runLive, h1, h2, h3, h4, hg, ho, hs]
  simp
  cases u <;> simp only at hb ⊢ <;> rw [hb]

section
variable {s : State} {t : TileId} {e : EngineKind} {u : Turn} {i : Issued} {es : List QEntry} {grp op : Nat} {row : Instr}
  {body : Acc → List QEntry → Eng (BitVec 96)} {n : Bytes} (hrow : exec row s = .next (s.runOn t e grp op body))
  (h : s.Starts t e u i es) (hs : s.skipCause (partOfTile t) i es = none) (hg : i.cmd.group = grp) (ho : i.cmd.opcode = op)
include hrow h hs hg ho
/-- A command whose work goes on to its end runs, with its payload. -/
theorem State.Gives.exec {pay : BitVec 96} (hb : (s.taken t e u).Gives (body (accOf t e i) es) s.sram.mem pay n) :
    ∃ l, Machine.exec row s = .next ((((s.taken t e u).withMem n).nowRuns t e i pay).withTraffic l) := by
  obtain ⟨l, hl⟩ := hb s.infield.transit
  exact ⟨l, by rw [hrow, State.runOn_runs h hs hg ho hl]; rfl⟩
/-- A command whose work an access ends is cut off there. -/
theorem State.Cuts.exec {code : W16} {w : Loc} (hb : (s.taken t e u).Cuts (partOfTile t) code w (body (accOf t e i) es) s.sram.mem n) :
    ∃ l, Machine.exec row s = .next (s.cutBy t e u n l code w) := by
  obtain ⟨l, hl⟩ := hb s.infield.transit
  exact ⟨l, by rw [hrow, State.runOn_ends h hs hg ho hl]; rfl⟩
end

end Sys2Proof.Machine
end

section
/-! SUPPORT. Tensors that an engine reads and stores, whole or up to an element that is refused (R67, R101). -/

namespace Sys2Proof.Machine

/-- The plots with a row of stored values in row r of a tensor. -/
def Ref.storeRow (x : Ref) (base : Nat) (m : Bytes) (r : Nat) (es : List Nat) : Bytes :=
  ((List.range es.length).zip es).foldl (fun m e => Mem.write m (base + x.at r e.1) (natLE x.fmt.size e.2)) m
theorem Ref.storeIn_eq (x : Ref) (m : Bytes) (base : Nat) (rows : List (List Nat)) :
    x.storeIn m base rows = ((List.range rows.length).zip rows).foldl (fun m row => x.storeRow base m row.1 row.2) m := rfl
/-- What is stored before element (r, k): the rows before r, and of row r what is before k. -/
theorem Ref.storeIn_before (x : Ref) (m : Bytes) (base : Nat) {rows : List (List Nat)} {r : Nat} (k : Nat) (h : r < rows.length) :
    x.storeIn m base (before rows r k) = x.storeRow base (x.storeIn m base (rows.take r)) r (rows[r].take k) := by
  have hl : (rows.take r).length = r := by simp; omega
  have hb : before rows r k = rows.take r ++ [rows[r].take k] := by simp [before, h]
  rw [Ref.storeIn_eq, Ref.storeIn_eq, hb, List.length_append, hl, List.length_singleton, List.range_succ,
    List.zip_append (by simp [hl]), List.foldl_append]
  rfl

section
variable {s : State} {a : Acc} {kind : Nat} {x : Ref}

/-- A place in a region lies as far from where the region begins as its offset says. -/
theorem State.placeOf_allows {region len o : Nat} (h : s.Allows a kind region (o : Nat) len) :
    s.placeOf a region (o : Nat) = s.placeOf a region 0 + o := by
  obtain ⟨e, hg, -, -⟩ := h
  rw [State.placeOf_grants hg, State.placeOf_grants hg]
  omega

theorem State.Gives.elem {r k : Nat} (h : s.Allows a kind x.region (x.at r k : Nat) x.fmt.size) (hc : s.sram.ecc = []) (m : Bytes) :
    s.Gives (a.elem kind x r k) m (x.fmt.decode (Mem.nat m (s.placeOf a x.region (x.at r k : Nat)) x.fmt.size)) m :=
  (State.Gives.read h hc m).bind (.pure s _ m)
theorem State.Gives.store {r k v : Nat} (h : s.Allows a kind x.region (x.at r k : Nat) x.fmt.size) (hc : s.sram.ecc = []) (m : Bytes) :
    s.Gives (a.write kind x.region (x.at r k : Nat) (natLE x.fmt.size v)) m ()
      (Mem.write m (s.placeOf a x.region 0 + x.at r k) (natLE x.fmt.size v)) := by
  rw [← State.placeOf_allows h]
  exact State.Gives.write (by rwa [natLE_length]) hc m

variable {rows cols r k : Nat} {code : W16} {w : Loc}

theorem State.Gives.tensor {t : TileId} {e : EngineKind} {i : Issued} {base : Nat} (h : s.TensorAt t kind x rows cols base)
    (hc : s.sram.ecc = []) :
    s.Gives ((accOf t e i).tensor kind x rows cols) s.sram.mem (x.valuesIn s.sram.mem base rows cols) s.sram.mem :=
  fun k => Acc.tensor_ok h hc k
theorem State.Gives.putTensor {t : TileId} {e : EngineKind} {i : Issued} {base : Nat} {out : List (List Nat)}
    (h : s.TensorAt t kind x out.length cols base) (hw : ∀ row ∈ out, row.length = cols) (hc : s.sram.ecc = []) (m : Bytes) :
    s.Gives ((accOf t e i).putTensor kind x out) m () (x.storeIn m base out) :=
  fun k => Acc.putTensor_ok h (fun row hrow => (hw row hrow).le) hc k
/-- A tensor is read up to its first element that is refused. -/
theorem State.Cuts.tensor (h : s.TensorDenied a kind x rows cols r k code w) (hc : s.sram.ecc = []) (m : Bytes) :
    s.Cuts a.part code w (a.tensor kind x rows cols) m m := by
  obtain ⟨hr, hk, hd, hbefore⟩ := h
  obtain ⟨rows', hrows⟩ := range_upTo hr
  obtain ⟨cols', hcols⟩ := range_upTo hk
  rw [Acc.tensor, hrows]
  refine .mapM (fun r' hr' => State.Gives.mapM_exists fun k' hk' => ⟨_, .elem (hbefore r' k' (.inl ?_)) hc m⟩) ?_
  · exact ⟨List.mem_range.1 hr', List.mem_range.1 hk'⟩
  · rw [hcols]
    exact .mapM (fun k' hk' => ⟨_, .elem (hbefore r k' (.inr ⟨rfl, List.mem_range.1 hk'⟩)) hc m⟩) ((State.Cuts.read hd m).bind _)

theorem State.Gives.storeRow {es : List Nat} (h : ∀ j < es.length, s.Allows a kind x.region (x.at r j : Nat) x.fmt.size) (hc : s.sram.ecc = [])
    (m : Bytes) :
    s.Gives (((List.range es.length).zip es).forM (fun e => a.write kind x.region (x.at r e.1) (natLE x.fmt.size e.2))) m ()
      (x.storeRow (s.placeOf a x.region 0) m r es) :=
  .forM fun _ he b => .store (h _ (List.mem_range.1 (List.of_mem_zip he).1)) hc b
/-- A tensor is stored up to its first element that is refused. -/
theorem State.Cuts.putTensor {out : List (List Nat)} (h : s.TensorDenied a kind x out.length cols r k code w)
    (hw : ∀ row ∈ out, row.length = cols) (hc : s.sram.ecc = []) (m : Bytes) :
    s.Cuts a.part code w (a.putTensor kind x out) m (x.storeIn m (s.placeOf a x.region 0) (before out r k)) := by
  obtain ⟨hr, hk, hd, hbefore⟩ := h
  have hlen : out[r].length = cols := hw _ (List.getElem_mem hr)
  obtain ⟨rows', hrows⟩ := numbered_upTo hr
  obtain ⟨cols', hcols⟩ := numbered_upTo (l := out[r]) (k := k) (by omega)
  have hrl : (out.take r).length = r := by simp; omega
  have hkl : (out[r].take k).length = k := by simp; omega
  rw [Acc.putTensor, hrows, Ref.storeIn_before x m _ k hr]
  refine .forM (n := x.storeIn m (s.placeOf a x.region 0) (out.take r)) ?_ ?_
  · rw [Ref.storeIn_eq, hrl]
    refine .forM fun row hrow b => .storeRow (fun j hj => hbefore row.1 j (.inl ?_)) hc b
    obtain ⟨h1, h2⟩ := List.of_mem_zip hrow
    exact ⟨List.mem_range.1 h1, by rwa [← hw row.2 (List.mem_of_mem_take h2)]⟩
  · dsimp only
    rw [hcols]
    refine .forM (n := x.storeRow (s.placeOf a x.region 0) (x.storeIn m (s.placeOf a x.region 0) (out.take r)) r (out[r].take k)) ?_
      (State.Cuts.write (by rwa [natLE_length]) _)
    have hrow := State.Gives.storeRow (es := out[r].take k) (fun j hj => hbefore r j (.inr ⟨rfl, by omega⟩)) hc
      (x.storeIn m (s.placeOf a x.region 0) (out.take r))
    rwa [hkl] at hrow
end

end Sys2Proof.Machine
end

section
/-! SUPPORT and the statement of the element-wise Vector commands (R103, R110, Table 05-8). -/

namespace Sys2Proof.Machine

/-- Entry (r, k) of a table of values. -/
def entry (xs : List (List Val)) (r k : Nat) : Val := (xs.getD r []).getD k Val.zero
/-- Element (r, k) of a tensor whose region begins at base. -/
def Ref.value (x : Ref) (m : Bytes) (base r k : Nat) : Val := x.fmt.decode (Mem.nat m (base + x.at r k) x.fmt.size)
theorem entry_valuesIn {x : Ref} {m : Bytes} {base rows cols r k : Nat} (hr : r < rows) (hk : k < cols) :
    entry (x.valuesIn m base rows cols) r k = x.value m base r k := by
  simp [entry, Ref.valuesIn, Ref.value, hr, hk]
theorem entry_replicate {v : Val} {rows cols r k : Nat} (hr : r < rows) (hk : k < cols) :
    entry (List.replicate rows (List.replicate cols v)) r k = v := by
  simp [entry, hr, hk]

/-- The value of an IMM field (R110). -/
def immOf (isInt : Bool) (w : W32) : Val := if isInt then Fmt.int32.decode w.toNat else f32 w

/-- Only the operations up to FMA read Y, and only FMA the old Z (Table 05-8). -/
theorem vecOp_congr {op : Nat} {x y y' z z' lo hi : Val} (hy : op ≤ 0x06 → y = y') (hz : op = 0x04 → z = z') :
    vecOp op x y z lo hi = vecOp op x y' z' lo hi := by
  unfold vecOp
  split
  case h_4 => rw [hy (by decide), hz rfl]
  case h_1 | h_2 | h_3 | h_5 | h_6 => rw [hy (by decide)]
  all_goals rfl

/-- What an element-wise command stores, and its exceptions, given the elements of X, Y and the old Z. -/
def vecRows (op : Nat) (a : Acc) (X Y Z : Nat → Nat → Val) : List (List Nat) × Exc :=
  let v := VecOps.ofCmd a.cmd.cmd
  let rx := Ref.ofWord (a.cmd.cmd.word 3)
  collect ((List.range v.rows).map (fun r => collect ((List.range v.cols).map (fun k =>
    vecOut (Ref.ofWord (a.cmd.cmd.word 5)).fmt rx.fmt.isInt op (rndOf v.round a (r * v.cols + k)) v.sat
      (vecOp op (X r k) (Y r k) (Z r k) (immOf rx.fmt.isInt v.imm) (immOf rx.fmt.isInt v.imm2))))))
section
variable {op : Nat} {a : Acc} {X X' Y Y' Z Z' : Nat → Nat → Val}
theorem vecRows_length : (vecRows op a X Y Z).1.length = (VecOps.ofCmd a.cmd.cmd).rows := by simp [vecRows, collect]
theorem vecRows_row : ∀ row ∈ (vecRows op a X Y Z).1, row.length = (VecOps.ofCmd a.cmd.cmd).cols := by
  simp [vecRows, collect]
theorem vecRows_congr (hX : ∀ r < (VecOps.ofCmd a.cmd.cmd).rows, ∀ k < (VecOps.ofCmd a.cmd.cmd).cols, X r k = X' r k)
    (hY : op ≤ 0x06 → ∀ r < (VecOps.ofCmd a.cmd.cmd).rows, ∀ k < (VecOps.ofCmd a.cmd.cmd).cols, Y r k = Y' r k)
    (hZ : op = 0x04 → ∀ r < (VecOps.ofCmd a.cmd.cmd).rows, ∀ k < (VecOps.ofCmd a.cmd.cmd).cols, Z r k = Z' r k) :
    vecRows op a X Y Z = vecRows op a X' Y' Z' := by
  refine congrArg collect (List.map_congr_left fun r hr => congrArg collect (List.map_congr_left fun k hk => ?_))
  have hr := List.mem_range.1 hr
  have hk := List.mem_range.1 hk
  rw [hX r hr k hk, vecOp_congr (fun h => hY h r hr k hk) (fun h => hZ h r hr k hk)]
end

/-- The end of an element-wise command: Z is stored, and the payload counts the exceptions. -/
def vecStore (op : Nat) (a : Acc) (xs ys zs : List (List Val)) : Eng (BitVec 96) := do
  let out := vecRows op a (entry xs) (entry ys) (entry zs)
  a.putTensor Kind.tileWrite (Ref.ofWord (a.cmd.cmd.word 5)) out.1
  pure (payload 0 out.2)
/-- The old Z, which FMA alone reads. -/
def readZ (op : Nat) (a : Acc) : Eng (List (List Val)) :=
  let v := VecOps.ofCmd a.cmd.cmd
  if op = 0x04 then a.tensor Kind.tileRead (Ref.ofWord (a.cmd.cmd.word 5)) v.rows v.cols else pure []
/-- The work of an element-wise command: X, Y and the old Z are read, then Z is stored. -/
def vecWork (op : Nat) (a : Acc) (_ : List QEntry) : Eng (BitVec 96) := do
  let v := VecOps.ofCmd a.cmd.cmd
  let rx := Ref.ofWord (a.cmd.cmd.word 3)
  let xs ← a.tensor Kind.tileRead rx v.rows v.cols
  let ys ← readY a v rx.fmt.isInt op
  let zs ← readZ op a
  vecStore op a xs ys zs
theorem vecBody_eq (op : Nat) : vecBody op = vecWork op := by
  funext a es
  unfold vecBody vecWork readZ
  by_cases h : op = 0x04
  · simp only [if_pos h]
    rfl
  · simp only [if_neg h]
    rfl

section
variable {b : State} {t : TileId} {i : Issued} {op bY bz r k : Nat} {code : W16} {w : Loc} (hc : b.sram.ecc = [])
include hc
theorem tensor_gives {x : Ref} {rows cols bx : Nat} (hX : b.TensorAt t Kind.tileRead x rows cols bx) :
    ∃ xs, b.Gives ((accOf t .vector i).tensor Kind.tileRead x rows cols) b.sram.mem xs b.sram.mem ∧
      ∀ r < rows, ∀ k < cols, entry xs r k = x.value b.sram.mem bx r k :=
  ⟨_, .tensor hX hc, fun _ hr _ hk => entry_valuesIn hr hk⟩
theorem readY_gives (isInt : Bool)
    (hY : op ≤ 0x06 → (VecOps.ofCmd i.cmd).yImm = false →
      b.TensorAt t Kind.tileRead (Ref.ofWord (i.cmd.word 4)) (VecOps.ofCmd i.cmd).rows (VecOps.ofCmd i.cmd).cols bY) :
    ∃ ys, b.Gives (readY (accOf t .vector i) (VecOps.ofCmd i.cmd) isInt op) b.sram.mem ys b.sram.mem ∧
      (op ≤ 0x06 → ∀ r < (VecOps.ofCmd i.cmd).rows, ∀ k < (VecOps.ofCmd i.cmd).cols, entry ys r k =
        if (VecOps.ofCmd i.cmd).yImm then immOf isInt (VecOps.ofCmd i.cmd).imm else (Ref.ofWord (i.cmd.word 4)).value b.sram.mem bY r k) := by
  unfold readY
  by_cases ho : op ≤ 0x06
  · rw [if_pos ho]
    cases hi : (VecOps.ofCmd i.cmd).yImm
    · exact ⟨_, .tensor (hY ho hi) hc, fun _ r hr k hk => entry_valuesIn hr hk⟩
    · exact ⟨_, .pure b _ _, fun _ r hr k hk => entry_replicate hr hk⟩
  · exact ⟨[], by rw [if_neg ho]; exact .pure b _ _, fun h => absurd h ho⟩
theorem readY_cuts (isInt : Bool) (ho : op ≤ 0x06) (hi : (VecOps.ofCmd i.cmd).yImm = false)
    (hd : b.TensorDenied (accOf t .vector i) Kind.tileRead (Ref.ofWord (i.cmd.word 4)) (VecOps.ofCmd i.cmd).rows (VecOps.ofCmd i.cmd).cols
      r k code w) (m : Bytes) :
    b.Cuts (partOfTile t) code w (readY (accOf t .vector i) (VecOps.ofCmd i.cmd) isInt op) m m := by
  rw [readY, if_pos ho, hi]
  exact .tensor hd hc m
theorem readZ_gives
    (hZ : op = 0x04 →
      b.TensorAt t Kind.tileRead (Ref.ofWord (i.cmd.word 5)) (VecOps.ofCmd i.cmd).rows (VecOps.ofCmd i.cmd).cols bz) :
    ∃ zs, b.Gives (readZ op (accOf t .vector i)) b.sram.mem zs b.sram.mem ∧
      (op = 0x04 → ∀ r < (VecOps.ofCmd i.cmd).rows, ∀ k < (VecOps.ofCmd i.cmd).cols, entry zs r k =
        (Ref.ofWord (i.cmd.word 5)).value b.sram.mem bz r k) := by
  unfold readZ
  by_cases ho : op = 0x04
  · rw [if_pos ho]
    exact (tensor_gives hc (hZ ho)).imp fun zs hz => ⟨hz.1, fun _ => hz.2⟩
  · exact ⟨[], by rw [if_neg ho]; exact .pure b _ _, fun h => absurd h ho⟩
theorem readZ_cuts (ho : op = 0x04)
    (hd : b.TensorDenied (accOf t .vector i) Kind.tileRead (Ref.ofWord (i.cmd.word 5)) (VecOps.ofCmd i.cmd).rows (VecOps.ofCmd i.cmd).cols
      r k code w) (m : Bytes) :
    b.Cuts (partOfTile t) code w (readZ op (accOf t .vector i)) m m := by
  rw [readZ, if_pos ho]
  exact .tensor hd hc m
end

/-- The element-wise operations: row, opcode and what an element of Z becomes (Table 05-8). -/
def elementwise (t : TileId) : List (Instr × Nat × (Val → Val → Val → Val → Val → Val)) :=
  [(.add t, 0x01, fun x y _ _ _ => x.add y), (.sub t, 0x02, fun x y _ _ _ => x.add y.neg),
    (.mul t, 0x03, fun x y _ _ _ => x.mul y), (.fma t, 0x04, fun x y z _ _ => (x.mul y).add z), (.max t, 0x05, fun x y _ _ _ => x.max y),
    (.min t, 0x06, fun x y _ _ _ => x.min y), (.abs t, 0x07, fun x _ _ _ _ => x.abs), (.neg t, 0x08, fun x _ _ _ _ => x.neg),
    (.relu t, 0x09, fun x _ _ _ _ => x.max Val.zero), (.clamp t, 0x0A, fun x _ _ lo hi => (x.max lo).min hi),
    (.recip t, 0x0B, fun x _ _ _ _ => via32 recip32 x), (.rsqrt t, 0x0C, fun x _ _ _ _ => via32 rsqrt32 x),
    (.exp t, 0x0D, fun x _ _ _ _ => via32 exp32 x), (.log t, 0x0E, fun x _ _ _ _ => via32 log32 x),
    (.tanh t, 0x0F, fun x _ _ _ _ => via32 tanh32 x), (.sigmoid t, 0x10, fun x _ _ _ _ => via32 sigmoid32 x),
    (.convert t, 0x11, fun x _ _ _ _ => x)]
/-- Each row of an element-wise operation runs the commands of its opcode with that operation's function. -/
theorem elementwise_rows (t : TileId) : ∀ e ∈ elementwise t, (∀ s, exec e.1 s = .next (s.runOn t .vector 2 e.2.1 (vecWork e.2.1))) ∧
    vecOp e.2.1 = e.2.2 := by
  simp only [← vecBody_eq, elementwise, List.forall_mem_cons, List.not_mem_nil, IsEmpty.forall_iff, implies_true, and_true]
  and_intros <;> intros <;> rfl

/-- Settles O39: X, Y and the old Z are read before Z is stored, and the first access that is refused ends the work there. -/
theorem elementwiseCommandsComputeEveryElement : Obligations.ElementwiseCommandsComputeEveryElement := by
  intro s t u i es v x y z bx bY bz row op f hmem h hg ho
  obtain ⟨hrow, hf⟩ : (∀ s, exec row s = .next (s.runOn t .vector 2 op (vecWork op))) ∧ vecOp op = f := elementwise_rows t (row, op, f) hmem
  subst hf
  refine ⟨fun n hs => ?_, ?_⟩
  · rw [hrow, State.runOn_skips h hs hg ho]
    rfl
  · rintro b a rfl rfl hs rfl rfl rfl rfl (hc : (s.taken t .vector u).sram.ecc = [])
    refine ⟨fun r k code w hd => State.Cuts.exec (hrow s) h hs hg ho ((State.Cuts.tensor hd hc _).bind _), fun hX => ?_⟩
    obtain ⟨xs, hxs, hx⟩ := tensor_gives hc hX
    refine ⟨fun r k code w hy hi hd => State.Cuts.exec (hrow s) h hs hg ho (hxs.bind_cuts ((readY_cuts hc _ hy hi hd _).bind _)), fun hY => ?_⟩
    obtain ⟨ys, hys, hy⟩ := readY_gives hc (Ref.ofWord (i.cmd.word 3)).fmt.isInt hY
    refine ⟨fun r k code w hz hd => State.Cuts.exec (hrow s) h hs hg ho (hxs.bind_cuts (hys.bind_cuts ((readZ_cuts hc hz hd _).bind _))),
      fun hZ out hout => ?_⟩
    obtain ⟨zs, hzs, hz⟩ := readZ_gives hc hZ
    have heq : out = vecRows op (accOf t .vector i) (entry xs) (entry ys) (entry zs) := by
      rw [vecRows_congr (a := accOf t .vector i) hx hy hz]
      exact hout
    subst heq
    have hlen := vecRows_length (op := op) (a := accOf t .vector i) (X := entry xs) (Y := entry ys) (Z := entry zs)
    refine ⟨fun r k code w hd => State.Cuts.exec (hrow s) h hs hg ho (hxs.bind_cuts (hys.bind_cuts (hzs.bind_cuts
      ((State.Cuts.putTensor (hlen.symm ▸ hd) vecRows_row hc _).bind _)))), fun hW => State.Gives.exec (hrow s) h hs hg ho (hxs.bind
      (hys.bind (hzs.bind ((State.Gives.putTensor (hlen.symm ▸ hW) vecRows_row hc _).bind (.pure _ _ _)))))⟩

end Sys2Proof.Machine
end

section
/-! SUPPORT and the statement of the reductions (R103, R111, Table 05-4). -/

namespace Sys2Proof.Machine

/-- The lists of elements that a reduction folds, by AXIS: each row, each column, or the whole tensor. -/
def axisSets (axis cols : Nat) (xs : List (List Val)) : List (List (List Val)) :=
  if axis = 0 then xs.map (fun r => [r])
  else if axis = 1 then [(List.range cols).map (fun k => xs.map (fun r => r.getD k Val.zero))]
  else [[xs.flatten]]
/-- Rows and columns of Z. -/
def VecOps.outRows (v : VecOps) : Nat := if v.axis = 0 then v.rows else 1
def VecOps.outCols (v : VecOps) : Nat := if v.axis = 1 then v.cols else 1
theorem axisSets_length {v : VecOps} {xs : List (List Val)} (h : xs.length = v.rows) : (axisSets v.axis v.cols xs).length = v.outRows := by
  unfold axisSets VecOps.outRows
  split
  · simpa using h
  · split <;> rfl
theorem axisSets_row {v : VecOps} {xs : List (List Val)} : ∀ r ∈ axisSets v.axis v.cols xs, r.length = v.outCols := by
  unfold axisSets VecOps.outCols
  split
  · next h => simp [h]
  · split <;> simp

/-- The reduced values in Z's format, with their exceptions: row r, column k is element r x nc + k of Z. -/
def reduceRows (a : Acc) (nr nc : Nat) (red : List (List (Val × Exc))) : List (List Nat) × Exc :=
  let v := VecOps.ofCmd a.cmd.cmd
  let f := (Ref.ofWord (a.cmd.cmd.word 5)).fmt
  collect (((List.range nr).zip red).map (fun r => collect (((List.range nc).zip r.2).map (fun k =>
    ((f.convert (rndOf v.round a (r.1 * nc + k.1)) v.sat k.2.1).bits,
      k.2.2.add (f.convert (rndOf v.round a (r.1 * nc + k.1)) v.sat k.2.1).exc)))))
section
variable {a : Acc} {nr nc : Nat} {red : List (List (Val × Exc))}
theorem reduceRows_length (hr : red.length = nr) : (reduceRows a nr nc red).1.length = nr := by simp [reduceRows, collect, hr]
theorem reduceRows_row (hc : ∀ row ∈ red, row.length = nc) : ∀ row ∈ (reduceRows a nr nc red).1, row.length = nc := by
  simp only [reduceRows, collect, List.map_map, List.mem_map, forall_exists_index, and_imp]
  rintro _ x hx rfl
  simp [hc x.2 (List.of_mem_zip hx).2]
/-- Z's shape is read off the reduced values. -/
theorem reduceRows_shape (hr : red.length = nr) (hc : ∀ row ∈ red, row.length = nc) :
    reduceRows a red.length (red.headD []).length red = reduceRows a nr nc red := by
  subst hr
  cases red with
  | nil => simp [reduceRows]
  | cons row rest => rw [List.headD_cons, hc row (by simp)]
end

/-- The reductions of the lists along AXIS. -/
def reduced (op : Nat) (c : Cmd) (xs : List (List Val)) : List (List (Val × Exc)) :=
  (axisSets (VecOps.ofCmd c).axis (VecOps.ofCmd c).cols xs).map (fun r => r.map (reduce (Ref.ofWord (c.word 3)).fmt.isInt op))
section
variable {op : Nat} {c : Cmd} {xs : List (List Val)}
theorem reduced_length (h : xs.length = (VecOps.ofCmd c).rows) : (reduced op c xs).length = (VecOps.ofCmd c).outRows := by
  rw [reduced, List.length_map, axisSets_length h]
theorem reduced_row : ∀ row ∈ reduced op c xs, row.length = (VecOps.ofCmd c).outCols := by
  simp only [reduced, List.mem_map, forall_exists_index, and_imp]
  rintro _ r hr rfl
  rw [List.length_map, axisSets_row r hr]
end

/-- The end of a reduction: Z is stored, and the payload counts the exceptions and holds RESULT. -/
def reduceStore (op : Nat) (a : Acc) (xs : List (List Val)) : Eng (BitVec 96) := do
  let red := reduced op a.cmd.cmd xs
  let out := reduceRows a red.length (red.headD []).length red
  a.putTensor Kind.tileWrite (Ref.ofWord (a.cmd.cmd.word 5)) out.1
  pure (payload (if (VecOps.ofCmd a.cmd.cmd).axis = 2 then
    reduceResult (Ref.ofWord (a.cmd.cmd.word 3)).fmt.isInt (((red.headD []).headD (Val.zero, Exc.zero)).1) else 0) out.2)
/-- The work of a reduction: X is read, then Z is stored. -/
def reduceWork (op : Nat) (a : Acc) (_ : List QEntry) : Eng (BitVec 96) := do
  let v := VecOps.ofCmd a.cmd.cmd
  let xs ← a.tensor Kind.tileRead (Ref.ofWord (a.cmd.cmd.word 3)) v.rows v.cols
  reduceStore op a xs
theorem reduceBody_eq (op : Nat) : reduceBody op = reduceWork op := by
  funext a es
  unfold reduceBody reduceWork reduceStore reduced axisSets
  dsimp only
  generalize (VecOps.ofCmd a.cmd.cmd).axis = axis
  rcases axis with _ | _ | axis <;> rfl

/-- Each row of a reduction runs the commands of its opcode. -/
theorem reduction_rows (t : TileId) :
    ∀ e ∈ ([(.rsum t, 0x20), (.rmax t, 0x21), (.rmin t, 0x22), (.rsumsq t, 0x23)] : List (Instr × Nat)),
      ∀ s, exec e.1 s = .next (s.runOn t .vector 2 e.2 (reduceWork e.2)) := by
  simp only [← reduceBody_eq, List.forall_mem_cons, List.not_mem_nil, IsEmpty.forall_iff, implies_true, and_true]
  and_intros <;> intros <;> rfl

/-- Settles O40: X is read before Z is stored, and the first access that is refused ends the work there. -/
theorem reductionsFoldAlongTheirAxis : Obligations.ReductionsFoldAlongTheirAxis := by
  rintro s t u i es v x z bx bz nr nc row op sets red out hmem h hg ho hs rfl rfl rfl (hc : (s.taken t .vector u).sram.ecc = [])
    (hnr : _ = (VecOps.ofCmd i.cmd).outRows) (hnc : _ = (VecOps.ofCmd i.cmd).outCols) b a rfl rfl
  have hrow := reduction_rows t (row, op) hmem s
  subst hnr hnc
  refine ⟨fun r k code w hd => State.Cuts.exec hrow h hs hg ho ((State.Cuts.tensor hd hc _).bind _), fun hX hsets hred hout => ?_⟩
  have hxs := State.Gives.tensor (e := .vector) (i := i) hX hc
  have hlen : ((Ref.ofWord (i.cmd.word 3)).valuesIn s.sram.mem bx (VecOps.ofCmd i.cmd).rows (VecOps.ofCmd i.cmd).cols).length =
    (VecOps.ofCmd i.cmd).rows := by simp [Ref.valuesIn]
  replace hred : red = reduced op i.cmd ((Ref.ofWord (i.cmd.word 3)).valuesIn s.sram.mem bx (VecOps.ofCmd i.cmd).rows
    (VecOps.ofCmd i.cmd).cols) := by rw [hred, hsets]; rfl
  have hr : red.length = (VecOps.ofCmd i.cmd).outRows := by rw [hred, reduced_length hlen]
  have hk : ∀ row ∈ red, row.length = (VecOps.ofCmd i.cmd).outCols := by rw [hred]; exact reduced_row
  have hol : out.1.length = (VecOps.ofCmd i.cmd).outRows := by rw [hout]; exact reduceRows_length (a := accOf t .vector i) hr
  have how : ∀ row ∈ out.1, row.length = (VecOps.ofCmd i.cmd).outCols := by rw [hout]; exact reduceRows_row (a := accOf t .vector i) hk
  have hout : out = reduceRows (accOf t .vector i) red.length (red.headD []).length red := by
    rw [reduceRows_shape hr hk]
    exact hout
  subst hout hred
  exact ⟨fun r k code w hd => State.Cuts.exec hrow h hs hg ho (hxs.bind_cuts ((State.Cuts.putTensor (hol.symm ▸ hd) how hc _).bind _)),
    fun hW => State.Gives.exec hrow h hs hg ho (hxs.bind ((State.Gives.putTensor (hol.symm ▸ hW) how hc _).bind (.pure _ _ _)))⟩

end Sys2Proof.Machine
end

section
/-! SUPPORT and the statement of the Matrix commands (R107 to R109). -/

namespace Sys2Proof.Machine

/-! The product, and the end that MATMUL and CONV2D share. -/

section
variable {a : Acc} {o : MatrixOut} {fin fout : Fmt} {rows cols old : List (List Val)}
theorem product_length : (product a o fin fout rows cols old).1.length = rows.length := by simp [product, collect]
theorem product_row : ∀ row ∈ (product a o fin fout rows cols old).1, row.length = cols.length := by
  simp only [product, collect, List.map_map, List.mem_map, forall_exists_index, and_imp]
  rintro _ x - rfl
  simp
/-- Only ACC adds the old C (R108). -/
theorem product_fresh (h : o.acc = false) (old' : List (List Val)) :
    product a o fin fout rows cols old = product a o fin fout rows cols old' := by
  simp [product, h]
end
theorem columns_length (n : Nat) (xs : List (List Val)) : (columns n xs).length = n := by simp [columns]
theorem valuesIn_length (x : Ref) (m : Bytes) (base rows cols : Nat) : (x.valuesIn m base rows cols).length = rows := by
  simp [Ref.valuesIn]

/-- The old C, which ACC alone reads. -/
def readC (a : Acc) (o : MatrixOut) (x : Ref) (m n : Nat) : Eng (List (List Val)) :=
  if o.acc then a.tensor Kind.tileRead x m n else pure []
theorem matrixWrite_eq (a : Acc) (o : MatrixOut) (fin : Fmt) (x : Ref) (m n : Nat) (rows cols : List (List Val)) :
    matrixWrite a o fin x m n rows cols = (do
      let old ← readC a o x m n
      a.putTensor Kind.tileWrite x (product a o fin x.fmt rows cols old).1
      pure (payload 0 (product a o fin x.fmt rows cols old).2)) := by
  unfold matrixWrite readC
  cases o.acc <;> rfl

section
variable {b : State} {t : TileId} {i : Issued} {o : MatrixOut} {fin : Fmt} {x : Ref} {m n bc r k : Nat} {rows cols : List (List Val)}
  {code : W16} {w : Loc} (hc : b.sram.ecc = [])
include hc
theorem matrixWrite_refused_old (ha : o.acc = true) (hd : b.TensorDenied (accOf t .matrix i) Kind.tileRead x m n r k code w) (p : Bytes) :
    b.Cuts (partOfTile t) code w (matrixWrite (accOf t .matrix i) o fin x m n rows cols) p p := by
  rw [matrixWrite_eq, readC, if_pos ha]
  exact (State.Cuts.tensor hd hc p).bind _
variable (hC : o.acc = true → b.TensorAt t Kind.tileRead x m n bc)
include hC
/-- What ACC reads is the old C; without it the product is the same whatever C holds. -/
theorem readC_gives : ∃ old, b.Gives (readC (accOf t .matrix i) o x m n) b.sram.mem old b.sram.mem ∧
    product (accOf t .matrix i) o fin x.fmt rows cols old =
      product (accOf t .matrix i) o fin x.fmt rows cols (x.valuesIn b.sram.mem bc m n) := by
  unfold readC
  cases ha : o.acc
  · exact ⟨[], .pure b _ _, product_fresh ha _⟩
  · exact ⟨_, .tensor (hC ha) hc, rfl⟩
variable (hm : rows.length = m) (hn : cols.length = n)
include hm hn
theorem matrixWrite_refused (hd : b.TensorDenied (accOf t .matrix i) Kind.tileWrite x m n r k code w) :
    b.Cuts (partOfTile t) code w (matrixWrite (accOf t .matrix i) o fin x m n rows cols) b.sram.mem
      (x.storeIn b.sram.mem (b.placeOf (accOf t .matrix i) x.region 0)
        (before (product (accOf t .matrix i) o fin x.fmt rows cols (x.valuesIn b.sram.mem bc m n)).1 r k)) := by
  obtain ⟨old, hold, hp⟩ := readC_gives (i := i) (fin := fin) (rows := rows) (cols := cols) hc hC
  rw [matrixWrite_eq, ← hp]
  subst hm hn
  exact hold.bind_cuts ((State.Cuts.putTensor (product_length.symm ▸ hd) product_row hc _).bind _)
theorem matrixWrite_gives (hW : b.TensorAt t Kind.tileWrite x m n bc) :
    b.Gives (matrixWrite (accOf t .matrix i) o fin x m n rows cols) b.sram.mem
      (payload 0 (product (accOf t .matrix i) o fin x.fmt rows cols (x.valuesIn b.sram.mem bc m n)).2)
      (x.storeIn b.sram.mem bc (product (accOf t .matrix i) o fin x.fmt rows cols (x.valuesIn b.sram.mem bc m n)).1) := by
  obtain ⟨old, hold, hp⟩ := readC_gives (i := i) (fin := fin) (rows := rows) (cols := cols) hc hC
  rw [matrixWrite_eq, ← hp]
  subst hm hn
  exact hold.bind ((State.Gives.putTensor (product_length.symm ▸ hW) product_row hc _).bind (.pure _ _ _))
end

/-! MATMUL. -/

/-- Read an operand of a product as rows, or as columns where flip says so. -/
def readSide (a : Acc) (x : Ref) (flip : Bool) (rows cols : Nat) : Eng (List (List Val)) := do
  let xs ← a.tensor Kind.tileRead x rows cols
  pure (if flip then columns cols xs else xs)
section
variable {b : State} {t : TileId} {i : Issued} {x : Ref} {base m n k : Nat} {trans : Bool} (hc : b.sram.ecc = [])
include hc
theorem readSide_gives {rows cols : Nat} (flip : Bool) (hX : b.TensorAt t Kind.tileRead x rows cols base) :
    b.Gives (readSide (accOf t .matrix i) x flip rows cols) b.sram.mem
      (if flip then columns cols (x.valuesIn b.sram.mem base rows cols) else x.valuesIn b.sram.mem base rows cols) b.sram.mem :=
  (State.Gives.tensor hX hc).bind (.pure _ _ _)
/-- The rows of A, read transposed as its flag says. -/
theorem readRows_gives (hA : b.TensorAt t Kind.tileRead x (if trans then k else m) (if trans then m else k) base) :
    b.Gives (readSide (accOf t .matrix i) x trans (if trans then k else m) (if trans then m else k)) b.sram.mem
      (if trans then columns m (x.valuesIn b.sram.mem base k m) else x.valuesIn b.sram.mem base m k) b.sram.mem := by
  cases trans <;> exact readSide_gives hc _ hA
/-- The columns of B, read transposed as its flag says. -/
theorem readCols_gives (hB : b.TensorAt t Kind.tileRead x (if trans then n else k) (if trans then k else n) base) :
    b.Gives (readSide (accOf t .matrix i) x (!trans) (if trans then n else k) (if trans then k else n)) b.sram.mem
      (if trans then x.valuesIn b.sram.mem base n k else columns n (x.valuesIn b.sram.mem base k n)) b.sram.mem := by
  cases trans <;> exact readSide_gives hc _ hB
end

/-- The work of a MATMUL: the rows of A are read, then the columns of B, then C is formed. -/
def matmulWork (a : Acc) (_ : List QEntry) : Eng (BitVec 96) := do
  let c := a.cmd.cmd
  let (m, n, k) := (matmulM c, matmulN c, matmulK c)
  let rows ← readSide a (Ref.ofWord (c.word 3)) (matmulTransA c) (if matmulTransA c then k else m) (if matmulTransA c then m else k)
  let cols ← readSide a (Ref.ofWord (c.word 4)) (!matmulTransB c) (if matmulTransB c then n else k) (if matmulTransB c then k else n)
  matrixWrite a (matmulOut c) (Ref.ofWord (c.word 3)).fmt (Ref.ofWord (c.word 5)) m n rows cols
theorem matmulBody_eq : matmulBody = matmulWork := by
  funext a es
  unfold matmulBody matmulWork readSide
  cases hA : matmulTransA a.cmd.cmd <;> cases hB : matmulTransB a.cmd.cmd <;> simp [hA, hB]

/-! CONV2D. -/

/-- The rows of X that the output positions multiply, in order (R109). -/
def convRows (d : Conv2d) (xs : List (List Val)) : List (List Val) :=
  (List.range d.ho.toNat).flatMap (fun oh => (List.range d.wo.toNat).map (fun ow => convRow d xs oh ow))
theorem convRows_length (d : Conv2d) (xs : List (List Val)) : (convRows d xs).length = d.ho.toNat * d.wo.toNat := by
  simp [convRows, List.length_flatMap]

/-- Settles O41: A, B and the old C are read before C is stored, and the first access that is refused ends the work there. -/
theorem matrixCommandsStoreTheProduct : Obligations.MatrixCommandsStoreTheProduct := by
  constructor
  · rintro s t u i es a b c ba bb bc m n k rows cols r v q h hg ho hs rfl rfl rfl rfl rfl rfl rfl rfl
      (hc : (s.taken t .matrix u).sram.ecc = [])
    have hrow : exec (.matmul t) s = .next (s.runOn t .matrix 1 1 matmulWork) := by rw [← matmulBody_eq]; rfl
    refine ⟨fun y x code w hd => State.Cuts.exec hrow h hs hg ho (((State.Cuts.tensor hd hc _).bind _).bind _), fun hA => ?_⟩
    have hrows := readRows_gives (i := i) hc hA
    refine ⟨fun y x code w hd => State.Cuts.exec hrow h hs hg ho (hrows.bind_cuts (((State.Cuts.tensor hd hc _).bind _).bind _)), fun hB => ?_⟩
    have hcols := readCols_gives (i := i) hc hB
    refine ⟨fun y x code w ha hd => State.Cuts.exec hrow h hs hg ho (hrows.bind_cuts (hcols.bind_cuts (matrixWrite_refused_old hc ha hd _))),
      fun hC hr hk hp => ?_⟩
    have hm : rows.length = matmulM i.cmd := by rw [hr]; split <;> simp only [columns_length, valuesIn_length]
    have hn : cols.length = matmulN i.cmd := by rw [hk]; split <;> simp only [columns_length, valuesIn_length]
    subst hp hr hk
    exact ⟨fun y x code w hd => State.Cuts.exec hrow h hs hg ho (hrows.bind_cuts (hcols.bind_cuts (matrixWrite_refused hc hC hm hn hd))),
      fun hW => State.Gives.exec hrow h hs hg ho (hrows.bind (hcols.bind (matrixWrite_gives hc hC hm hn hW)))⟩
  · rintro s t u i es d x w c bx bw bc ho wo r v q h hg hop hs rfl rfl rfl rfl rfl rfl rfl rfl (hc : (s.taken t .matrix u).sram.ecc = [])
    have hrow : exec (.conv2d t) s = .next (s.runOn t .matrix 1 2 conv2dBody) := rfl
    refine ⟨fun y k code at_ hd => State.Cuts.exec hrow h hs hg hop ((State.Cuts.tensor hd hc _).bind _), fun hX => ?_⟩
    have hxs := State.Gives.tensor (e := .matrix) (i := i) hX hc
    refine ⟨fun y k code at_ hd => State.Cuts.exec hrow h hs hg hop (hxs.bind_cuts ((State.Cuts.tensor hd hc _).bind _)), fun hW => ?_⟩
    have hws := State.Gives.tensor (e := .matrix) (i := i) hW hc
    refine ⟨fun y k code at_ ha hd => State.Cuts.exec hrow h hs hg hop (hxs.bind_cuts (hws.bind_cuts (matrixWrite_refused_old hc ha hd _))),
      fun hC hp => ?_⟩
    subst hp
    exact ⟨fun y k code at_ hd => State.Cuts.exec hrow h hs hg hop
        (hxs.bind_cuts (hws.bind_cuts (matrixWrite_refused hc hC (convRows_length _ _) (columns_length _ _) hd))),
      fun hO => State.Gives.exec hrow h hs hg hop
        (hxs.bind (hws.bind (matrixWrite_gives hc hC (convRows_length _ _) (columns_length _ _) hO)))⟩

end Sys2Proof.Machine
end

section
/-! SUPPORT. The Mover's walks and rows: what a loop descriptor, the element of a walk, a block and a row of a table make of the plots, and
where a refused access ends them (R112 to R115). -/

namespace Sys2Proof.Machine

/-! Loop descriptors. -/

section
variable {b : State} {a : Acc} {f : LoopRef} {l : Loops} {code : W16} {w : Loc}
theorem readLoops_gives (h : b.LoopsAt a f l) (hc : b.sram.ecc = []) : b.Gives (readLoops a f) b.sram.mem l b.sram.mem := by
  obtain ⟨ha, rfl⟩ := h
  exact (State.Gives.read ha hc _).bind (.pure b _ _)
theorem readLoops_cuts (h : b.Denied a Kind.mover f.region (f.offset : Nat) 64 code w) (m : Bytes) :
    b.Cuts a.part code w (readLoops a f) m m :=
  (State.Cuts.read h m).bind _

/-- A check of loop descriptors: the fault names the descriptor's region. -/
def checkLoops (a : Acc) (bad : Bool) (f : LoopRef) : Eng Unit := if bad then loopFault a f else pure ()
theorem checkLoops_bind {α : Type} (a : Acc) (bad : Bool) (f : LoopRef) (k : Unit → Eng α) :
    checkLoops a bad f >>= k = if bad then loopFault a f >>= k else pure () >>= k := by
  cases bad <;> rfl
theorem checkLoops_gives {bad : Bool} (h : bad = false) (m : Bytes) : b.Gives (checkLoops a bad f) m () m := by
  subst h
  exact .pure b () m
theorem checkLoops_cuts {bad : Bool} (h : bad = true) (m : Bytes) :
    b.Cuts a.part Code.loopMalformed { a.loc with region := some f.region, access := Kind.mover } (checkLoops a bad f) m m := by
  subst h
  exact fun k => ⟨k, rfl⟩
end

/-! One element of a walk. -/

section
variable {b : State} {a : Acc} {x : Ref} {l : Loops} {size n : Nat} {code : W16} {w : Loc}
theorem walkRead_gives (h : b.WalkAllows a x l size n) (hc : b.sram.ecc = []) (m : Bytes) :
    b.Gives (walkRead a x l size n) m (Mem.read m (b.placeOf a x.region (walkAt x l size n)) size) m :=
  State.Gives.read (a := { a with loops := some (loopIndex l.counts n) }) h hc m
theorem walkRead_cuts (h : b.WalkDenied a x l size n code w) (m : Bytes) : b.Cuts a.part code w (walkRead a x l size n) m m :=
  State.Cuts.read h m
theorem walkWrite_gives {bs : List Byte} (hl : bs.length = size) (h : b.WalkAllows a x l size n) (hc : b.sram.ecc = []) (m : Bytes) :
    b.Gives (walkWrite a x l n bs) m () (Mem.write m (b.placeOf a x.region (walkAt x l size n)) bs) := by
  subst hl
  exact State.Gives.write (a := { a with loops := some (loopIndex l.counts n) }) h hc m
theorem walkWrite_cuts {bs : List Byte} (hl : bs.length = size) (h : b.WalkDenied a x l size n code w) (m : Bytes) :
    b.Cuts a.part code w (walkWrite a x l n bs) m m := by
  subst hl
  exact State.Cuts.write h m
end

/-! Copies along two walks. -/

/-- The element of a visit is read and written. -/
def moveElem (a : Acc) (src dst : Ref) (ls ld : Loops) (size n : Nat) : Eng Unit := do
  let bs ← walkRead a src ls size n
  walkWrite a dst ld n bs
/-- The place in its block of the element that visit n writes: L0 and L1 are exchanged (R115). -/
def crossed (c0 c1 n : Nat) : Nat := n % c1 * c0 + n / c1
/-- Block h is read whole and written with L0 and L1 exchanged. -/
def moveBlock (a : Acc) (src dst : Ref) (ls ld : Loops) (size c0 c1 h : Nat) : Eng Unit := do
  let es ← (List.range (c0 * c1)).mapM (fun n => walkRead a src ls size (h * (c0 * c1) + n))
  visits (fun n => walkWrite a dst ld (h * (c0 * c1) + n) (es.getD (crossed c0 c1 n) [])) (c0 * c1)
theorem crossed_lt {c0 c1 n : Nat} (h : n < c0 * c1) : crossed c0 c1 n < c0 * c1 := by
  have h1 : 0 < c1 := Nat.pos_of_ne_zero fun e => by simp [e] at h
  have hq : n / c1 < c0 := Nat.div_lt_of_lt_mul (by rwa [Nat.mul_comm])
  have hr : n % c1 + 1 ≤ c1 := Nat.mod_lt n h1
  calc n % c1 * c0 + n / c1 < n % c1 * c0 + c0 := by omega
    _ = (n % c1 + 1) * c0 := by rw [Nat.add_mul, Nat.one_mul]
    _ ≤ c1 * c0 := Nat.mul_le_mul_right c0 hr
    _ = c0 * c1 := Nat.mul_comm c1 c0

section
variable {b : State} {a : Acc} {src dst : Ref} {ls ld : Loops} {size n : Nat} {code : W16} {w : Loc} (hc : b.sram.ecc = [])
include hc
theorem moveElem_gives (hs : b.WalkAllows a src ls size n) (hd : b.WalkAllows a dst ld size n) (m : Bytes) :
    b.Gives (moveElem a src dst ls ld size n) m () (b.copied a src dst ls ld size m m n n) :=
  (walkRead_gives hs hc m).bind (walkWrite_gives (Mem.read_length ..) hd hc m)
theorem moveElem_cuts (h : b.WalkDenied a src ls size n code w ∨ (b.WalkAllows a src ls size n ∧ b.WalkDenied a dst ld size n code w))
    (m : Bytes) : b.Cuts a.part code w (moveElem a src dst ls ld size n) m m := by
  obtain h | ⟨hs, h⟩ := h
  · exact (walkRead_cuts h m).bind _
  · exact (walkRead_gives hs hc m).bind_cuts (walkWrite_cuts (Mem.read_length ..) h m)

variable {c0 c1 h : Nat}
/-- The elements of a block, as it is read. -/
theorem readBlock_gives (hs : ∀ k < c0 * c1, b.WalkAllows a src ls size (h * (c0 * c1) + k)) (m : Bytes) :
    b.Gives ((List.range (c0 * c1)).mapM (fun n => walkRead a src ls size (h * (c0 * c1) + n))) m
      ((List.range (c0 * c1)).map (fun k => Mem.read m (b.placeOf a src.region (walkAt src ls size (h * (c0 * c1) + k))) size)) m :=
  .mapM fun k hk => walkRead_gives (hs k (List.mem_range.1 hk)) hc m
theorem readBlock_cuts (hn : n < c0 * c1) (hs : ∀ k < n, b.WalkAllows a src ls size (h * (c0 * c1) + k))
    (hd : b.WalkDenied a src ls size (h * (c0 * c1) + n) code w) (m : Bytes) :
    b.Cuts a.part code w (moveBlock a src dst ls ld size c0 c1 h) m m := by
  obtain ⟨after, ha⟩ := range_upTo hn
  have hread : b.Cuts a.part code w ((List.range (c0 * c1)).mapM (fun n => walkRead a src ls size (h * (c0 * c1) + n))) m m := by
    rw [ha]
    exact .mapM (fun k hk => ⟨_, walkRead_gives (hs k (List.mem_range.1 hk)) hc m⟩) (walkRead_cuts hd m)
  exact hread.bind _
omit hc in
/-- What a block read from plots m holds at the crossed place. -/
theorem block_getD {m : Bytes} {k : Nat} (hk : k < c0 * c1) :
    ((List.range (c0 * c1)).map (fun k => Mem.read m (b.placeOf a src.region (walkAt src ls size (h * (c0 * c1) + k))) size)).getD
      (crossed c0 c1 k) [] =
    Mem.read m (b.placeOf a src.region (walkAt src ls size (h * (c0 * c1) + crossed c0 c1 k))) size := by
  simp [crossed_lt hk]
/-- The first n elements of a block read from plots m are written. -/
theorem writeBlock_gives {m : Bytes} (hn : n ≤ c0 * c1) (hd : ∀ k < n, b.WalkAllows a dst ld size (h * (c0 * c1) + k)) :
    b.Gives (visits (fun k => walkWrite a dst ld (h * (c0 * c1) + k)
        (((List.range (c0 * c1)).map (fun k => Mem.read m (b.placeOf a src.region (walkAt src ls size (h * (c0 * c1) + k))) size)).getD
          (crossed c0 c1 k) [])) n) m ()
      ((List.range n).foldl (fun v k => b.copied a src dst ls ld size m v (h * (c0 * c1) + crossed c0 c1 k) (h * (c0 * c1) + k)) m) := by
  refine .visits fun k hk => ?_
  rw [block_getD (by omega)]
  exact walkWrite_gives (Mem.read_length ..) (hd k hk) hc _
theorem moveBlock_gives (hs : ∀ k < c0 * c1, b.WalkAllows a src ls size (h * (c0 * c1) + k))
    (hd : ∀ k < c0 * c1, b.WalkAllows a dst ld size (h * (c0 * c1) + k)) (m : Bytes) :
    b.Gives (moveBlock a src dst ls ld size c0 c1 h) m () ((List.range (c0 * c1)).foldl (fun v k =>
      b.copied a src dst ls ld size m v (h * (c0 * c1) + crossed c0 c1 k) (h * (c0 * c1) + k)) m) :=
  (readBlock_gives hc hs m).bind (writeBlock_gives hc le_rfl hd)
theorem moveBlock_cuts (hs : ∀ k < c0 * c1, b.WalkAllows a src ls size (h * (c0 * c1) + k)) (hn : n < c0 * c1)
    (hd : ∀ k < n, b.WalkAllows a dst ld size (h * (c0 * c1) + k)) (hw : b.WalkDenied a dst ld size (h * (c0 * c1) + n) code w) (m : Bytes) :
    b.Cuts a.part code w (moveBlock a src dst ls ld size c0 c1 h) m ((List.range n).foldl (fun v k =>
      b.copied a src dst ls ld size m v (h * (c0 * c1) + crossed c0 c1 k) (h * (c0 * c1) + k)) m) := by
  refine (readBlock_gives hc hs m).bind_cuts (.visits hn (writeBlock_gives hc hn.le hd) (walkWrite_cuts ?_ hw _))
  rw [block_getD hn, Mem.read_length]
end

end Sys2Proof.Machine
end

section
/-! SUPPORT. The rows that GATHER and SCATTER move, whose list of indices the moves leave as it is (R114). -/

namespace Sys2Proof.Machine

/-! Bytes that writes elsewhere leave alone. -/

theorem Mem.read_congr {m n : Bytes} {a len : Nat} (h : ∀ y, a ≤ y → y < a + len → Mem.get m y = Mem.get n y) :
    Mem.read m a len = Mem.read n a len := by
  induction len generalizing a with
  | zero => rfl
  | succ len ih =>
    rw [Mem.read, Mem.read, h a le_rfl (by omega), ih fun y h1 h2 => h y (by omega) (by omega)]

/-- Plots n in canonical form that hold in a range what plots m hold there. -/
structure Mem.Keeps (a len : Nat) (m n : Bytes) : Prop where
  wf : Mem.wf n = true
  same : ∀ y, a ≤ y → y < a + len → Mem.get n y = Mem.get m y
section
variable {a len : Nat} {m n : Bytes}
theorem Mem.Keeps.refl (h : Mem.wf m = true) : Mem.Keeps a len m m := ⟨h, fun _ _ _ => rfl⟩
theorem Mem.Keeps.nat (h : Mem.Keeps a len m n) : Mem.nat n a len = Mem.nat m a len := congrArg leNat (Mem.read_congr h.same)
theorem Mem.Keeps.write {x : Nat} {bs : List Byte} (h : Mem.Keeps a len m n) (hx : x + bs.length ≤ a ∨ a + len ≤ x) :
    Mem.Keeps a len m (Mem.write n x bs) :=
  ⟨Mem.wf_write _ _ _ h.wf, fun y h1 h2 => by rw [Mem.get_write_other _ _ _ _ h.wf (by omega), h.same y h1 h2]⟩
theorem Mem.Keeps.foldl {α : Type} {f : Bytes → α → Bytes} {l : List α} (h : Mem.Keeps a len m n)
    (hf : ∀ x ∈ l, ∀ v, Mem.Keeps a len m v → Mem.Keeps a len m (f v x)) : Mem.Keeps a len m (l.foldl f n) := by
  induction l generalizing n with
  | nil => exact h
  | cons x l ih => exact ih (hf x (by simp) n h) fun y hy => hf y (by simp [hy])
end

/-! Places in two regions. -/

theorem State.Grants.unique {s : State} {p : PartId} {tile tile' : Fin 32} {kind kind' region : Nat} {e e' : BitVec 128}
    (h : s.Grants p tile kind region e) (h' : s.Grants p tile' kind' region e') : e = e' := by
  obtain ⟨m, hA, -, he⟩ := h.map
  obtain ⟨m', hA', -, he'⟩ := h'.map
  simp_all
/-- Regions of which neither reaches into the other (R66). -/
def State.Apart (s : State) (a : Acc) (r r' : Nat) : Prop :=
  ∀ x y, s.Grants a.part a.tile Kind.mover r x → s.Grants a.part a.tile Kind.mover r' y →
    meStart x + meLen x ≤ meStart y ∨ meStart y + meLen y ≤ meStart x
theorem State.Apart.places {s : State} {a : Acc} {r r' len len' : Nat} {o o' : Int} (h : s.Apart a r r')
    (hr : s.Allows a Kind.mover r o len) (hr' : s.Allows a Kind.mover r' o' len') :
    s.placeOf a r' o' + len' ≤ s.placeOf a r o ∨ s.placeOf a r o + len ≤ s.placeOf a r' o' := by
  obtain ⟨x, hx, h1, h2⟩ := hr
  obtain ⟨y, hy, h3, h4⟩ := hr'
  have := h x y hx hy
  rw [State.placeOf_grants hx, State.placeOf_grants hy]
  omega

/-! The element of a row. -/

/-- The region offset of element e of the table row that an index names. -/
def Ref.rowAt (x : Ref) (ix : Int) (e : Nat) : Int := (x.offset : Int) + ix * (x.pitch * x.fmt.size : Nat) + (e * x.fmt.size : Nat)
/-- GATHER reads the table and writes the rows; SCATTER the other way. -/
def fromRef (gather : Bool) (table rows : Ref) : Ref := if gather then table else rows
def toRef (gather : Bool) (table rows : Ref) : Ref := if gather then rows else table
def fromAt (gather : Bool) (table rows : Ref) (ix : Int) (n e : Nat) : Int := if gather then table.rowAt ix e else (rows.at n e : Nat)
def toAt (gather : Bool) (table rows : Ref) (ix : Int) (n e : Nat) : Int := if gather then (rows.at n e : Nat) else table.rowAt ix e
/-- The plots with element e of position n moved. -/
def State.rowStep (s : State) (a : Acc) (gather : Bool) (table rows : Ref) (ix : Int) (n : Nat) (m : Bytes) (e : Nat) : Bytes :=
  Mem.write m (s.placeOf a (toRef gather table rows).region (toAt gather table rows ix n e))
    (Mem.read m (s.placeOf a (fromRef gather table rows).region (fromAt gather table rows ix n e)) table.fmt.size)
/-- Both accesses of element e of position n are granted. -/
def State.RowAllows (s : State) (a : Acc) (gather : Bool) (table rows : Ref) (ix : Int) (n e : Nat) : Prop :=
  s.Allows a Kind.mover (fromRef gather table rows).region (fromAt gather table rows ix n e) table.fmt.size ∧
    s.Allows a Kind.mover (toRef gather table rows).region (toAt gather table rows ix n e) table.fmt.size
/-- The move of element e of position n. -/
def moveCell (a : Acc) (gather : Bool) (table rows : Ref) (ix : Int) (n e : Nat) : Eng Unit := do
  let b := { a with loops := some [e, n] }
  let v ← b.read Kind.mover (fromRef gather table rows).region (fromAt gather table rows ix n e) table.fmt.size
  b.write Kind.mover (toRef gather table rows).region (toAt gather table rows ix n e) v
/-- A position's index is read, then its row is moved. -/
theorem rowMove_eq (a : Acc) (gather : Bool) (table rows list : Ref) (elems n : Nat) :
    rowMove a gather table rows list elems n = (do
      let bs ← { a with loops := some [0, n] }.read Kind.mover list.region (list.offset + 4 * n : Nat) 4
      visits (moveCell a gather table rows (signed 32 (leNat bs)) n) elems) := by
  cases gather <;> rfl

section
variable {b : State} {a : Acc} {gather : Bool} {table rows list : Ref} {ix : Int} {elems n e : Nat} {m : Bytes} {code : W16} {w : Loc}
  (hc : b.sram.ecc = [])
include hc
theorem moveCell_gives (h : b.RowAllows a gather table rows ix n e) (m : Bytes) :
    b.Gives (moveCell a gather table rows ix n e) m () (b.rowStep a gather table rows ix n m e) :=
  (State.Gives.read (a := { a with loops := some [e, n] }) h.1 hc m).bind
    (State.Gives.write (a := { a with loops := some [e, n] }) (by rw [Mem.read_length]; exact h.2) hc m)
theorem moveCell_cuts
    (h : b.Denied { a with loops := some [e, n] } Kind.mover (fromRef gather table rows).region (fromAt gather table rows ix n e)
        table.fmt.size code w ∨
      (b.Allows a Kind.mover (fromRef gather table rows).region (fromAt gather table rows ix n e) table.fmt.size ∧
        b.Denied { a with loops := some [e, n] } Kind.mover (toRef gather table rows).region (toAt gather table rows ix n e)
          table.fmt.size code w)) (m : Bytes) :
    b.Cuts a.part code w (moveCell a gather table rows ix n e) m m := by
  obtain h | ⟨hr, h⟩ := h
  · exact (State.Cuts.read h m).bind _
  · exact (State.Gives.read (a := { a with loops := some [e, n] }) hr hc m).bind_cuts
      (State.Cuts.write (a := { a with loops := some [e, n] }) (by rw [Mem.read_length]; exact h) m)

/-! The row of a position. -/

omit hc in
theorem rowMove_cuts_list (h : b.Denied { a with loops := some [0, n] } Kind.mover list.region (list.offset + 4 * n : Nat) 4 code w)
    (m : Bytes) : b.Cuts a.part code w (rowMove a gather table rows list elems n) m m := by
  rw [rowMove_eq]
  exact (State.Cuts.read h m).bind _
variable (hl : b.Allows a Kind.mover list.region (list.offset + 4 * n : Nat) 4)
  (hix : signed 32 (Mem.nat m (b.placeOf a list.region (list.offset + 4 * n : Nat)) 4) = ix)
include hl hix
theorem rowMove_gives (h : ∀ e < elems, b.RowAllows a gather table rows ix n e) :
    b.Gives (rowMove a gather table rows list elems n) m () ((List.range elems).foldl (b.rowStep a gather table rows ix n) m) := by
  subst hix
  rw [rowMove_eq]
  exact (State.Gives.read (a := { a with loops := some [0, n] }) hl hc m).bind (.visits fun e he => moveCell_gives hc (h e he) _)
theorem rowMove_cuts (he : e < elems) (h : ∀ k < e, b.RowAllows a gather table rows ix n k)
    (hd : b.Denied { a with loops := some [e, n] } Kind.mover (fromRef gather table rows).region (fromAt gather table rows ix n e)
        table.fmt.size code w ∨
      (b.Allows a Kind.mover (fromRef gather table rows).region (fromAt gather table rows ix n e) table.fmt.size ∧
        b.Denied { a with loops := some [e, n] } Kind.mover (toRef gather table rows).region (toAt gather table rows ix n e)
          table.fmt.size code w)) :
    b.Cuts a.part code w (rowMove a gather table rows list elems n) m ((List.range e).foldl (b.rowStep a gather table rows ix n) m) := by
  subst hix
  rw [rowMove_eq]
  exact (State.Gives.read (a := { a with loops := some [0, n] }) hl hc m).bind_cuts
    (.visits he (.visits fun k hk => moveCell_gives hc (h k hk) _) (moveCell_cuts hc hd _))
end

/-! The rows of a list. -/

/-- The index that a list holds at position n. -/
def State.indexAt (s : State) (a : Acc) (list : Ref) (m : Bytes) (n : Nat) : Int :=
  signed 32 (Mem.nat m (s.placeOf a list.region (list.offset + 4 * n : Nat)) 4)
/-- The plots with the rows of the first n positions moved, by the indices that the list held at the start. -/
def State.rowsMoved (s : State) (a : Acc) (gather : Bool) (table rows list : Ref) (elems : Nat) (m : Bytes) (n : Nat) : Bytes :=
  (List.range n).foldl (fun v k => (List.range elems).foldl (s.rowStep a gather table rows (s.indexAt a list m k) k) v) m

section
variable {b : State} {a : Acc} {gather : Bool} {table rows list : Ref} {elems n e : Nat} {m : Bytes} {code : W16} {w : Loc}
  (hwf : Mem.wf m = true) (hapart : b.Apart a list.region (toRef gather table rows).region)
include hwf hapart
/-- The list is apart from what is written, so that a position's index stands until it is read. -/
theorem indexAt_rowsMoved (hl : b.Allows a Kind.mover list.region (list.offset + 4 * n : Nat) 4)
    (h : ∀ k < n, ∀ e < elems, b.RowAllows a gather table rows (b.indexAt a list m k) k e) :
    b.indexAt a list (b.rowsMoved a gather table rows list elems m n) n = b.indexAt a list m n := by
  have hkeeps : Mem.Keeps (b.placeOf a list.region (list.offset + 4 * n : Nat)) 4 m (b.rowsMoved a gather table rows list elems m n) := by
    refine .foldl (.refl hwf) fun k hk v hv => .foldl hv fun e he u hu => hu.write ?_
    rw [Mem.read_length]
    exact hapart.places hl (h k (List.mem_range.1 hk) e (List.mem_range.1 he)).2
  exact congrArg (signed 32) hkeeps.nat

variable (hc : b.sram.ecc = [])
include hc
theorem rows_gives (h : ∀ k < n, b.Allows a Kind.mover list.region (list.offset + 4 * k : Nat) 4 ∧
      ∀ e < elems, b.RowAllows a gather table rows (b.indexAt a list m k) k e) :
    b.Gives (visits (rowMove a gather table rows list elems) n) m () (b.rowsMoved a gather table rows list elems m n) :=
  .visits fun k hk => rowMove_gives hc (h k hk).1
    (indexAt_rowsMoved hwf hapart (h k hk).1 fun j hj => (h j (by omega)).2) (h k hk).2
variable {count : Nat} (hn : n < count)
  (h : ∀ k < n, b.Allows a Kind.mover list.region (list.offset + 4 * k : Nat) 4 ∧
    ∀ e < elems, b.RowAllows a gather table rows (b.indexAt a list m k) k e)
include hn h
theorem rows_cuts_list (hd : b.Denied { a with loops := some [0, n] } Kind.mover list.region (list.offset + 4 * n : Nat) 4 code w) :
    b.Cuts a.part code w (visits (rowMove a gather table rows list elems) count) m (b.rowsMoved a gather table rows list elems m n) :=
  .visits hn (rows_gives hwf hapart hc h) (rowMove_cuts_list hd _)
theorem rows_cuts (hl : b.Allows a Kind.mover list.region (list.offset + 4 * n : Nat) 4) (he : e < elems)
    (hrow : ∀ k < e, b.RowAllows a gather table rows (b.indexAt a list m n) n k)
    (hd : b.Denied { a with loops := some [e, n] } Kind.mover (fromRef gather table rows).region
        (fromAt gather table rows (b.indexAt a list m n) n e) table.fmt.size code w ∨
      (b.Allows a Kind.mover (fromRef gather table rows).region (fromAt gather table rows (b.indexAt a list m n) n e) table.fmt.size ∧
        b.Denied { a with loops := some [e, n] } Kind.mover (toRef gather table rows).region
          (toAt gather table rows (b.indexAt a list m n) n e) table.fmt.size code w)) :
    b.Cuts a.part code w (visits (rowMove a gather table rows list elems) count) m
      ((List.range e).foldl (b.rowStep a gather table rows (b.indexAt a list m n) n) (b.rowsMoved a gather table rows list elems m n)) :=
  .visits hn (rows_gives hwf hapart hc h)
    (rowMove_cuts hc hl (indexAt_rowsMoved hwf hapart hl fun k hk => (h k hk).2) he hrow hd)
end

end Sys2Proof.Machine
end

section
/-! SUPPORT. The work of COPY, FILL, GATHER and SCATTER: descriptors read and checked, then the elements, granted or refused (R112 to R115,
Table 05-10). -/

namespace Sys2Proof.Machine

/-! COPY: its descriptors are read and checked before an element moves. -/

/-- The image of the job of an accessor requires feature bit 13 (R115). -/
def State.hasTranspose (s : State) (p : PartId) : Bool :=
  match s.jobOf p with
  | some j => bit j.image.featureReq 13
  | none => false
/-- COUNT0 and COUNT1, the sides of a block. -/
def Loops.side0 (l : Loops) : Nat := l.counts.headD 1
def Loops.side1 (l : Loops) : Nat := l.counts.getD 1 1
/-- The elements of a COPY, visit by visit or block by block. -/
def copyMoves (a : Acc) (ls ld : Loops) : Eng Unit :=
  let src := Ref.ofWord (a.cmd.cmd.word 3)
  let dst := Ref.ofWord (a.cmd.cmd.word 4)
  if ls.transpose then visits (moveBlock a src dst ls ld src.fmt.size ls.side0 ls.side1) (ls.total / (ls.side0 * ls.side1))
  else visits (moveElem a src dst ls ld src.fmt.size) ls.total
/-- A COPY once its descriptors are read. -/
def copyChecked (a : Acc) (ls ld : Loops) (feature13 : Bool) : Eng (BitVec 96) := do
  let f := LoopRef.ofWord (a.cmd.cmd.word 5)
  let g := LoopRef.ofWord (a.cmd.cmd.word 6)
  checkLoops a (!ls.ok) f
  checkLoops a (!ld.ok || ld.transpose) g
  checkLoops a (ls.total != ld.total) f
  checkLoops a (ls.transpose &&
    (!feature13 || decide (ls.side0 * ls.side1 * (Ref.ofWord (a.cmd.cmd.word 3)).fmt.size > 65536))) f
  copyMoves a ls ld
  pure 0
theorem copyBody_eq (a : Acc) (es : List QEntry) : copyBody a es = (do
    let ls ← readLoops a (LoopRef.ofWord (a.cmd.cmd.word 5))
    let ld ← readLoops a (LoopRef.ofWord (a.cmd.cmd.word 6))
    let s ← get
    copyChecked a ls ld (s.hasTranspose a.part)) := by
  unfold copyBody copyChecked
  refine bind_congr fun ls => bind_congr fun ld => bind_congr fun s => ?_
  simp only [checkLoops_bind]
  cases ht : ls.transpose <;> simp only [copyMoves, ht] <;> rfl

section
variable {b : State} {a : Acc} {ls ld : Loops} {m n : Bytes} {p : PartId} {code : W16} {w : Loc}

section
variable {es : List QEntry} (hf : b.LoopsAt a (LoopRef.ofWord (a.cmd.cmd.word 5)) ls)
  (hg : b.LoopsAt a (LoopRef.ofWord (a.cmd.cmd.word 6)) ld) (hc : b.sram.ecc = [])
include hf hg hc
theorem copyBody_gives {v : BitVec 96} (h : b.Gives (copyChecked a ls ld (b.hasTranspose a.part)) b.sram.mem v n) :
    b.Gives (copyBody a es) b.sram.mem v n := by
  rw [copyBody_eq]
  exact (readLoops_gives hf hc).bind ((readLoops_gives hg hc).bind fun k => h k)
theorem copyBody_cuts (h : b.Cuts p code w (copyChecked a ls ld (b.hasTranspose a.part)) b.sram.mem n) :
    b.Cuts p code w (copyBody a es) b.sram.mem n := by
  rw [copyBody_eq]
  exact (readLoops_gives hf hc).bind_cuts ((readLoops_gives hg hc).bind_cuts fun k => h k)
end

/-- Descriptors that a COPY moves elements by (R113, R115). -/
structure CopyFits (a : Acc) (ls ld : Loops) (feature13 : Bool) : Prop where
  source : ls.ok = true
  dest : ld.ok = true
  plain : ld.transpose = false
  total : ls.total = ld.total
  block : ls.transpose = true → feature13 = true ∧ ls.side0 * ls.side1 * (Ref.ofWord (a.cmd.cmd.word 3)).fmt.size ≤ 65536
section
variable {feature13 : Bool} (h : CopyFits a ls ld feature13)
include h
theorem CopyFits.third : (ls.total != ld.total) = false := by simp [h.total]
theorem CopyFits.fourth : (ls.transpose && (!feature13 ||
    decide (ls.side0 * ls.side1 * (Ref.ofWord (a.cmd.cmd.word 3)).fmt.size > 65536))) = false := by
  cases ht : ls.transpose
  · rfl
  · obtain ⟨h13, hsize⟩ := h.block ht
    simp [h13, hsize]
theorem copyChecked_gives (hm : b.Gives (copyMoves a ls ld) m () n) : b.Gives (copyChecked a ls ld feature13) m 0 n :=
  (checkLoops_gives (by simp [h.source]) m).bind ((checkLoops_gives (by simp [h.dest, h.plain]) m).bind
    ((checkLoops_gives h.third m).bind ((checkLoops_gives h.fourth m).bind (hm.bind (.pure b _ n)))))
theorem copyChecked_cuts (hm : b.Cuts p code w (copyMoves a ls ld) m n) : b.Cuts p code w (copyChecked a ls ld feature13) m n :=
  (checkLoops_gives (by simp [h.source]) m).bind_cuts ((checkLoops_gives (by simp [h.dest, h.plain]) m).bind_cuts
    ((checkLoops_gives h.third m).bind_cuts ((checkLoops_gives h.fourth m).bind_cuts (hm.bind _))))
end
/-- A malformed source descriptor, walks of different totals, or a block that may not be exchanged: the fault names the source's descriptor. -/
theorem copyChecked_source {feature13 : Bool} (h : ls.ok = false ∨ (ld.ok = true ∧ ld.transpose = false ∧ ls.total ≠ ld.total) ∨
      (ld.ok = true ∧ ld.transpose = false ∧ ls.transpose = true ∧
        (feature13 = false ∨ 65536 < ls.side0 * ls.side1 * (Ref.ofWord (a.cmd.cmd.word 3)).fmt.size))) (m : Bytes) :
    b.Cuts a.part Code.loopMalformed { a.loc with region := some (LoopRef.ofWord (a.cmd.cmd.word 5)).region, access := Kind.mover }
      (copyChecked a ls ld feature13) m m := by
  cases hs : ls.ok
  · exact (checkLoops_cuts (by simp [hs]) m).bind _
  refine (checkLoops_gives (by simp [hs]) m).bind_cuts ?_
  obtain h | h := h
  · simp [hs] at h
  obtain ⟨hd, hp⟩ : ld.ok = true ∧ ld.transpose = false := h.elim (fun h => ⟨h.1, h.2.1⟩) (fun h => ⟨h.1, h.2.1⟩)
  refine (checkLoops_gives (by simp [hd, hp]) m).bind_cuts ?_
  by_cases ht : ls.total = ld.total
  · obtain ⟨-, -, h⟩ | ⟨-, -, hx, h⟩ := h
    · exact absurd ht h
    · exact (checkLoops_gives (by simp [ht]) m).bind_cuts ((checkLoops_cuts (by simpa [hx] using h) m).bind _)
  · exact (checkLoops_cuts (by simpa using ht) m).bind _
/-- A malformed destination descriptor, or one with TRANSPOSE: the fault names it. -/
theorem copyChecked_dest {feature13 : Bool} (hs : ls.ok = true) (h : ld.ok = false ∨ ld.transpose = true) (m : Bytes) :
    b.Cuts a.part Code.loopMalformed { a.loc with region := some (LoopRef.ofWord (a.cmd.cmd.word 6)).region, access := Kind.mover }
      (copyChecked a ls ld feature13) m m :=
  (checkLoops_gives (by simp [hs]) m).bind_cuts ((checkLoops_cuts (by simpa using h) m).bind _)
end

/-! The elements of a COPY. -/

section
variable {b : State} {a : Acc} {src dst : Ref} {ls ld : Loops} {size c0 c1 c h n : Nat} {m : Bytes} {code : W16} {w : Loc} (hc : b.sram.ecc = [])
include hc
theorem elems_gives (hn : ∀ k < n, b.WalkAllows a src ls size k ∧ b.WalkAllows a dst ld size k) :
    b.Gives (visits (moveElem a src dst ls ld size) n) m () ((List.range n).foldl (fun m k => b.copied a src dst ls ld size m m k k) m) :=
  .visits fun k hk => moveElem_gives hc (hn k hk).1 (hn k hk).2 _
theorem elems_cuts (h : n < c) (hn : ∀ k < n, b.WalkAllows a src ls size k ∧ b.WalkAllows a dst ld size k)
    (hw : b.WalkDenied a src ls size n code w ∨ (b.WalkAllows a src ls size n ∧ b.WalkDenied a dst ld size n code w)) :
    b.Cuts a.part code w (visits (moveElem a src dst ls ld size) c) m
      ((List.range n).foldl (fun m k => b.copied a src dst ls ld size m m k k) m) :=
  .visits h (elems_gives hc hn) (moveElem_cuts hc hw _)

omit hc in
theorem block_lt {k : Nat} (hh : h < c) (hk : k < c0 * c1) : h * (c0 * c1) + k < c * (c0 * c1) :=
  calc h * (c0 * c1) + k < h * (c0 * c1) + c0 * c1 := by omega
    _ = (h + 1) * (c0 * c1) := by rw [Nat.add_mul, Nat.one_mul]
    _ ≤ c * (c0 * c1) := Nat.mul_le_mul_right _ hh
/-- The plots with the first c blocks moved. -/
def State.blocksMoved (s : State) (a : Acc) (src dst : Ref) (ls ld : Loops) (size c0 c1 : Nat) (m : Bytes) (c : Nat) : Bytes :=
  (List.range c).foldl (fun m y => (List.range (c0 * c1)).foldl (fun v k =>
    s.copied a src dst ls ld size m v (y * (c0 * c1) + crossed c0 c1 k) (y * (c0 * c1) + k)) m) m
theorem blocks_gives (hn : ∀ k < c * (c0 * c1), b.WalkAllows a src ls size k ∧ b.WalkAllows a dst ld size k) :
    b.Gives (visits (moveBlock a src dst ls ld size c0 c1) c) m () (b.blocksMoved a src dst ls ld size c0 c1 m c) :=
  .visits fun _ hy => moveBlock_gives hc (fun _ hk => (hn _ (block_lt hy hk)).1) (fun _ hk => (hn _ (block_lt hy hk)).2) _
variable (hh : h < c) (hn : ∀ k < h * (c0 * c1), b.WalkAllows a src ls size k ∧ b.WalkAllows a dst ld size k) (hk : n < c0 * c1)
include hh hn hk
theorem blocks_cuts_read (hs : ∀ k < n, b.WalkAllows a src ls size (h * (c0 * c1) + k))
    (hw : b.WalkDenied a src ls size (h * (c0 * c1) + n) code w) :
    b.Cuts a.part code w (visits (moveBlock a src dst ls ld size c0 c1) c) m (b.blocksMoved a src dst ls ld size c0 c1 m h) :=
  .visits hh (blocks_gives hc hn) (readBlock_cuts hc hk hs hw _)
theorem blocks_cuts_write (hs : ∀ k < c0 * c1, b.WalkAllows a src ls size (h * (c0 * c1) + k))
    (hd : ∀ k < n, b.WalkAllows a dst ld size (h * (c0 * c1) + k)) (hw : b.WalkDenied a dst ld size (h * (c0 * c1) + n) code w) :
    b.Cuts a.part code w (visits (moveBlock a src dst ls ld size c0 c1) c) m ((List.range n).foldl (fun v k =>
      b.copied a src dst ls ld size (b.blocksMoved a src dst ls ld size c0 c1 m h) v (h * (c0 * c1) + crossed c0 c1 k) (h * (c0 * c1) + k))
      (b.blocksMoved a src dst ls ld size c0 c1 m h)) :=
  .visits hh (blocks_gives hc hn) (moveBlock_cuts hc hs hk hd hw _)
end

/-! FILL. -/

/-- The work of a FILL: its descriptor is read and checked, then the value of word 7 is written at every visit. -/
def fillWork (a : Acc) (_ : List QEntry) : Eng (BitVec 96) := do
  let dst := Ref.ofWord (a.cmd.cmd.word 4)
  let g := LoopRef.ofWord (a.cmd.cmd.word 6)
  let ld ← readLoops a g
  checkLoops a (!ld.ok || ld.transpose) g
  visits (fun n => walkWrite a dst ld n (natLE dst.fmt.size (a.cmd.cmd.word 7).toNat)) ld.total
  pure 0
theorem fillBody_eq : fillBody = fillWork := by
  funext a es
  simp only [fillWork, checkLoops_bind]
  rfl

section
variable {b : State} {a : Acc} {ld : Loops} {n : Nat} {m : Bytes} {code : W16} {w : Loc} {es : List QEntry}
/-- The plots with a value written at a visit of the destination walk. -/
def State.filled (s : State) (a : Acc) (dst : Ref) (ld : Loops) (v : W64) (m : Bytes) (n : Nat) : Bytes :=
  Mem.write m (s.placeOf a dst.region (walkAt dst ld dst.fmt.size n)) (natLE dst.fmt.size v.toNat)
variable (hg : b.LoopsAt a (LoopRef.ofWord (a.cmd.cmd.word 6)) ld) (hc : b.sram.ecc = [])
include hg hc
theorem fillWork_malformed (h : ld.ok = false ∨ ld.transpose = true) :
    b.Cuts a.part Code.loopMalformed { a.loc with region := some (LoopRef.ofWord (a.cmd.cmd.word 6)).region, access := Kind.mover }
      (fillWork a es) b.sram.mem b.sram.mem :=
  (readLoops_gives hg hc).bind_cuts ((checkLoops_cuts (by simpa using h) _).bind _)
variable (ho : ld.ok = true) (ht : ld.transpose = false)
include ho ht
theorem fillWork_gives
    (hn : ∀ k < ld.total, b.WalkAllows a (Ref.ofWord (a.cmd.cmd.word 4)) ld (Ref.ofWord (a.cmd.cmd.word 4)).fmt.size k) :
    b.Gives (fillWork a es) b.sram.mem 0
      ((List.range ld.total).foldl (b.filled a (Ref.ofWord (a.cmd.cmd.word 4)) ld (a.cmd.cmd.word 7)) b.sram.mem) :=
  (readLoops_gives hg hc).bind ((checkLoops_gives (by simp [ho, ht]) _).bind
    (.bind (.visits fun k hk => walkWrite_gives (natLE_length ..) (hn k hk) hc _) (.pure b _ _)))
theorem fillWork_cuts (h : n < ld.total)
    (hn : ∀ k < n, b.WalkAllows a (Ref.ofWord (a.cmd.cmd.word 4)) ld (Ref.ofWord (a.cmd.cmd.word 4)).fmt.size k)
    (hw : b.WalkDenied a (Ref.ofWord (a.cmd.cmd.word 4)) ld (Ref.ofWord (a.cmd.cmd.word 4)).fmt.size n code w) :
    b.Cuts a.part code w (fillWork a es) b.sram.mem
      ((List.range n).foldl (b.filled a (Ref.ofWord (a.cmd.cmd.word 4)) ld (a.cmd.cmd.word 7)) b.sram.mem) :=
  (readLoops_gives hg hc).bind_cuts ((checkLoops_gives (by simp [ho, ht]) _).bind_cuts
    (.bind (.visits h (.visits fun k hk => walkWrite_gives (natLE_length ..) (hn k hk) hc _) (walkWrite_cuts (natLE_length ..) hw _)) _))
end

/-! GATHER and SCATTER. -/

/-- The work of a GATHER or a SCATTER. -/
def rowsWork (gather : Bool) (a : Acc) (_ : List QEntry) : Eng (BitVec 96) := do
  let c := a.cmd.cmd
  visits (rowMove a gather (Ref.ofWord (c.word (if gather then 3 else 4))) (Ref.ofWord (c.word (if gather then 4 else 3)))
    (Ref.ofWord (c.word 5)) (rowElems c)) (rowCount c)
  pure 0
theorem exec_rows (gather : Bool) (t : TileId) (s : State) : exec (if gather then .gather t else .scatter t) s =
    .next (s.runOn t .mover 3 (if gather then 3 else 4) (rowsWork gather)) := by
  cases gather <;> rfl

/-! Places that entries of the map give. -/

theorem State.placeOf_within {s : State} {a : Acc} {tile : Fin 32} {kind region : Nat} {e : BitVec 128} {off : Int}
    (h : s.Grants a.part tile kind region e) (h0 : 0 ≤ off) : s.placeOf a region off = partBase a.part + meStart e + off.toNat := by
  rw [State.placeOf_grants h]
  omega
theorem State.Allows.of_grants {s : State} {a : Acc} {kind region o len : Nat} {e : BitVec 128}
    (h : s.Grants a.part a.tile kind region e) (hl : o + len ≤ meLen e) : s.Allows a kind region (o : Nat) len :=
  ⟨e, h, by omega, by omega⟩
theorem State.LoopsAt.of_grants {s : State} {a : Acc} {f : LoopRef} {e : BitVec 128} (h : s.Grants a.part a.tile Kind.mover f.region e)
    (hl : f.offset + 64 ≤ meLen e) :
    s.LoopsAt a f (Loops.ofBytes (Mem.read s.sram.mem (partBase a.part + meStart e + f.offset) 64)) := by
  refine ⟨.of_grants h hl, ?_⟩
  rw [State.placeOf_within h (by omega), Int.toNat_natCast]
theorem State.copied_within {s : State} {a : Acc} {src dst : Ref} {ls ld : Loops} {size n k : Nat} {es ed : BitVec 128}
    (hs : s.Grants a.part a.tile Kind.mover src.region es) (hd : s.Grants a.part a.tile Kind.mover dst.region ed)
    (h0 : 0 ≤ walkAt src ls size n) (h1 : 0 ≤ walkAt dst ld size k) (from_ m : Bytes) :
    s.copied a src dst ls ld size from_ m n k = Mem.write m (partBase a.part + meStart ed + (walkAt dst ld size k).toNat)
      (Mem.read from_ (partBase a.part + meStart es + (walkAt src ls size n).toNat) size) := by
  rw [State.copied, State.placeOf_within hs h0, State.placeOf_within hd h1]
/-- The blocks moved, each element at the places that the entries give. -/
theorem State.blocksMoved_within {s : State} {a : Acc} {src dst : Ref} {ls ld : Loops} {size c0 c1 c : Nat} {es ed : BitVec 128}
    (hs : s.Grants a.part a.tile Kind.mover src.region es) (hd : s.Grants a.part a.tile Kind.mover dst.region ed)
    (h0 : ∀ n < c * (c0 * c1), 0 ≤ walkAt src ls size n ∧ 0 ≤ walkAt dst ld size n) (m : Bytes) :
    s.blocksMoved a src dst ls ld size c0 c1 m c = (List.range c).foldl (fun m y => (List.range (c0 * c1)).foldl (fun v k =>
      Mem.write v (partBase a.part + meStart ed + (walkAt dst ld size (y * (c0 * c1) + k)).toNat)
        (Mem.read m (partBase a.part + meStart es + (walkAt src ls size (y * (c0 * c1) + crossed c0 c1 k)).toNat) size)) m) m := by
  refine List.foldl_ext _ _ _ fun m y hy => List.foldl_ext _ _ _ fun v k hk => ?_
  have hlt : ∀ j < c0 * c1, y * (c0 * c1) + j < c * (c0 * c1) := fun j hj => block_lt (List.mem_range.1 hy) hj
  have hk := List.mem_range.1 hk
  exact State.copied_within hs hd (h0 _ (hlt _ (crossed_lt hk))).1 (h0 _ (hlt k hk)).2 m v
theorem State.jobOf_taken (s : State) (t : TileId) (e : EngineKind) (u : Turn) :
    (s.taken t e u).jobOf (partOfTile t) = s.jobOf (partOfTile t) := by
  have hj : ∀ (q : Partition) (g : Engine), (q.setEngine g).job = q.job := by
    intro q g
    unfold Partition.setEngine
    split <;> rfl
  simp only [State.jobOf, State.taken, State.modPart_part, hj]
  rfl
theorem State.hasTranspose_taken (s : State) (t : TileId) (e : EngineKind) (u : Turn) :
    (s.taken t e u).hasTranspose (partOfTile t) = s.hasTranspose (partOfTile t) := by
  simp only [State.hasTranspose, State.jobOf_taken]
theorem State.hasTranspose_of {s : State} {p : PartId} {j : Job} (h : s.jobOf p = some j) : s.hasTranspose p = bit j.image.featureReq 13 := by
  simp only [State.hasTranspose, h]
theorem State.hasTranspose_none {s : State} {p : PartId} (h : ∀ j, s.jobOf p = some j → bit j.image.featureReq 13 = false) :
    s.hasTranspose p = false := by
  cases hj : s.jobOf p with
  | none => simp only [State.hasTranspose, hj]
  | some j => rw [State.hasTranspose_of hj, h j hj]

section
variable {s : State} {t : TileId} {u : Turn} {i : Issued} {es : List QEntry} (h : s.Starts t .mover u i es) (hg : i.cmd.group = 3)
  (hs : s.skipCause (partOfTile t) i es = none) (hc : s.sram.ecc = [])
include h hg hs hc

/-! COPY. -/

section
variable (ho : i.cmd.opcode = 1) {ls ld : Loops} {n : Bytes}
  (hf : (s.taken t .mover u).LoopsAt (accOf t .mover i) (LoopRef.ofWord (i.cmd.word 5)) ls)
  (hd : (s.taken t .mover u).LoopsAt (accOf t .mover i) (LoopRef.ofWord (i.cmd.word 6)) ld)
include ho hf hd
theorem exec_copy_cuts {code : W16} {w : Loc} (hm : (s.taken t .mover u).Cuts (partOfTile t) code w
      (copyChecked (accOf t .mover i) ls ld ((s.taken t .mover u).hasTranspose (partOfTile t))) s.sram.mem n) :
    ∃ l, exec (.copy t) s = .next (s.cutBy t .mover u n l code w) :=
  State.Cuts.exec rfl h hs hg ho (copyBody_cuts hf hd hc hm)
variable (hfit : CopyFits (accOf t .mover i) ls ld ((s.taken t .mover u).hasTranspose (partOfTile t)))
include hfit
theorem exec_copy_moves (hm : (s.taken t .mover u).Gives (copyMoves (accOf t .mover i) ls ld) s.sram.mem () n) :
    ∃ l, exec (.copy t) s = .next ((((s.taken t .mover u).withMem n).nowRuns t .mover i 0).withTraffic l) :=
  State.Gives.exec rfl h hs hg ho (copyBody_gives hf hd hc (copyChecked_gives hfit hm))
theorem exec_copy_refused {code : W16} {w : Loc}
    (hm : (s.taken t .mover u).Cuts (partOfTile t) code w (copyMoves (accOf t .mover i) ls ld) s.sram.mem n) :
    ∃ l, exec (.copy t) s = .next (s.cutBy t .mover u n l code w) :=
  State.Cuts.exec rfl h hs hg ho (copyBody_cuts hf hd hc (copyChecked_cuts hfit hm))
end
end

end Sys2Proof.Machine
end

section
/-! SUPPORT and the statement of the Mover's commands, each kind granted and refused (R112 to R115, Table 05-10). -/

namespace Sys2Proof.Machine

theorem copyMoves_plain {a : Acc} {ls : Loops} (ld : Loops) (h : ls.transpose = false) : copyMoves a ls ld =
    visits (moveElem a (Ref.ofWord (a.cmd.cmd.word 3)) (Ref.ofWord (a.cmd.cmd.word 4)) ls ld (Ref.ofWord (a.cmd.cmd.word 3)).fmt.size)
      ls.total := by
  rw [copyMoves, if_neg (by simp [h])]
theorem copyMoves_blocks {a : Acc} {ls : Loops} (ld : Loops) (h : ls.transpose = true) : copyMoves a ls ld =
    visits (moveBlock a (Ref.ofWord (a.cmd.cmd.word 3)) (Ref.ofWord (a.cmd.cmd.word 4)) ls ld (Ref.ofWord (a.cmd.cmd.word 3)).fmt.size
      ls.side0 ls.side1) (ls.total / (ls.side0 * ls.side1)) := by
  rw [copyMoves, if_pos h]

section
variable {s : State} {t : TileId} {u : Turn} {i : Issued} {es : List QEntry} (h : s.Starts t .mover u i es) (hg : i.cmd.group = 3)
  (hs : s.skipCause (partOfTile t) i es = none) (hc : s.sram.ecc = [])
include h hg hs hc

/-! COPY whose descriptors are well formed. -/

section
variable (ho : i.cmd.opcode = 1) {ls ld : Loops} {src dst : Ref} {sz n : Nat} {code : W16} {w : Loc}
  (hsrc : src = Ref.ofWord (i.cmd.word 3)) (hdst : dst = Ref.ofWord (i.cmd.word 4)) (hsz : sz = src.fmt.size)
  (hf : (s.taken t .mover u).LoopsAt (accOf t .mover i) (LoopRef.ofWord (i.cmd.word 5)) ls)
  (hd : (s.taken t .mover u).LoopsAt (accOf t .mover i) (LoopRef.ofWord (i.cmd.word 6)) ld)
  (oks : ls.ok = true) (okd : ld.ok = true) (hp : ld.transpose = false) (ht : ls.total = ld.total)
include ho hsrc hdst hsz hf hd oks okd hp ht

section
variable (htr : ls.transpose = false)
include htr
theorem exec_copy_plain (hall : ∀ n < ls.total, (s.taken t .mover u).WalkAllows (accOf t .mover i) src ls sz n ∧
      (s.taken t .mover u).WalkAllows (accOf t .mover i) dst ld sz n) :
    ∃ l, exec (.copy t) s = .next ((((s.taken t .mover u).withMem ((List.range ls.total).foldl (fun m n =>
      (s.taken t .mover u).copied (accOf t .mover i) src dst ls ld sz m m n n) s.sram.mem)).nowRuns t .mover i 0).withTraffic l) := by
  subst hsrc hdst hsz
  refine exec_copy_moves h hg hs hc ho hf hd ⟨oks, okd, hp, ht, by simp [htr]⟩ ?_
  rw [copyMoves_plain ld htr]
  exact elems_gives hc hall
theorem exec_copy_plain_refused (hn : n < ls.total)
    (hall : ∀ k < n, (s.taken t .mover u).WalkAllows (accOf t .mover i) src ls sz k ∧
      (s.taken t .mover u).WalkAllows (accOf t .mover i) dst ld sz k)
    (hw : (s.taken t .mover u).WalkDenied (accOf t .mover i) src ls sz n code w ∨
      ((s.taken t .mover u).WalkAllows (accOf t .mover i) src ls sz n ∧
        (s.taken t .mover u).WalkDenied (accOf t .mover i) dst ld sz n code w)) :
    ∃ l, exec (.copy t) s = .next (s.cutBy t .mover u ((List.range n).foldl (fun m k =>
      (s.taken t .mover u).copied (accOf t .mover i) src dst ls ld sz m m k k) s.sram.mem) l code w) := by
  subst hsrc hdst hsz
  refine exec_copy_refused h hg hs hc ho hf hd ⟨oks, okd, hp, ht, by simp [htr]⟩ ?_
  rw [copyMoves_plain ld htr]
  exact elems_cuts hc hn hall hw
end

section
variable (htr : ls.transpose = true) (h13 : s.hasTranspose (partOfTile t) = true) (hsize : ls.side0 * ls.side1 * sz ≤ 65536)
include htr h13 hsize
theorem exec_copy_blocks (hall : ∀ n < ls.total, (s.taken t .mover u).WalkAllows (accOf t .mover i) src ls sz n ∧
      (s.taken t .mover u).WalkAllows (accOf t .mover i) dst ld sz n) :
    ∃ l, exec (.copy t) s = .next ((((s.taken t .mover u).withMem ((s.taken t .mover u).blocksMoved (accOf t .mover i) src dst ls ld sz
      ls.side0 ls.side1 s.sram.mem (ls.total / (ls.side0 * ls.side1)))).nowRuns t .mover i 0).withTraffic l) := by
  subst hsrc hdst hsz
  refine exec_copy_moves h hg hs hc ho hf hd ⟨oks, okd, hp, ht, fun _ => ⟨by rwa [State.hasTranspose_taken], hsize⟩⟩ ?_
  rw [copyMoves_blocks ld htr]
  exact blocks_gives hc fun k hk => hall k (hk.trans_le (Nat.div_mul_le_self ..))
variable {y : Nat} (hy : y < ls.total / (ls.side0 * ls.side1)) (hn : n < ls.side0 * ls.side1)
  (hall : ∀ k < y * (ls.side0 * ls.side1), (s.taken t .mover u).WalkAllows (accOf t .mover i) src ls sz k ∧
    (s.taken t .mover u).WalkAllows (accOf t .mover i) dst ld sz k)
include hy hn hall
theorem exec_copy_blocks_unread
    (hr : ∀ k < n, (s.taken t .mover u).WalkAllows (accOf t .mover i) src ls sz (y * (ls.side0 * ls.side1) + k))
    (hw : (s.taken t .mover u).WalkDenied (accOf t .mover i) src ls sz (y * (ls.side0 * ls.side1) + n) code w) :
    ∃ l, exec (.copy t) s = .next (s.cutBy t .mover u
      ((s.taken t .mover u).blocksMoved (accOf t .mover i) src dst ls ld sz ls.side0 ls.side1 s.sram.mem y) l code w) := by
  subst hsrc hdst hsz
  refine exec_copy_refused h hg hs hc ho hf hd ⟨oks, okd, hp, ht, fun _ => ⟨by rwa [State.hasTranspose_taken], hsize⟩⟩ ?_
  rw [copyMoves_blocks ld htr]
  exact blocks_cuts_read hc hy hall hn hr hw
theorem exec_copy_blocks_unwritten
    (hr : ∀ k < ls.side0 * ls.side1, (s.taken t .mover u).WalkAllows (accOf t .mover i) src ls sz (y * (ls.side0 * ls.side1) + k))
    (hq : ∀ k < n, (s.taken t .mover u).WalkAllows (accOf t .mover i) dst ld sz (y * (ls.side0 * ls.side1) + k))
    (hw : (s.taken t .mover u).WalkDenied (accOf t .mover i) dst ld sz (y * (ls.side0 * ls.side1) + n) code w) :
    ∃ l, exec (.copy t) s = .next (s.cutBy t .mover u ((List.range n).foldl (fun v k =>
      (s.taken t .mover u).copied (accOf t .mover i) src dst ls ld sz
        ((s.taken t .mover u).blocksMoved (accOf t .mover i) src dst ls ld sz ls.side0 ls.side1 s.sram.mem y) v
        (y * (ls.side0 * ls.side1) + crossed ls.side0 ls.side1 k) (y * (ls.side0 * ls.side1) + k))
      ((s.taken t .mover u).blocksMoved (accOf t .mover i) src dst ls ld sz ls.side0 ls.side1 s.sram.mem y)) l code w) := by
  subst hsrc hdst hsz
  refine exec_copy_refused h hg hs hc ho hf hd ⟨oks, okd, hp, ht, fun _ => ⟨by rwa [State.hasTranspose_taken], hsize⟩⟩ ?_
  rw [copyMoves_blocks ld htr]
  exact blocks_cuts_write hc hy hall hn hr hq hw
end
end

/-! COPY whose descriptors are refused or malformed. -/

section
variable (ho : i.cmd.opcode = 1) {ls : Loops} {code : W16} {w : Loc}
include ho
omit hc in
theorem exec_copy_no_source
    (hd : (s.taken t .mover u).Denied (accOf t .mover i) Kind.mover (LoopRef.ofWord (i.cmd.word 5)).region
      ((LoopRef.ofWord (i.cmd.word 5)).offset : Nat) 64 code w) :
    ∃ l, exec (.copy t) s = .next (s.cutBy t .mover u s.sram.mem l code w) :=
  State.Cuts.exec rfl h hs hg ho (by rw [copyBody_eq]; exact (readLoops_cuts hd _).bind _)
variable (hf : (s.taken t .mover u).LoopsAt (accOf t .mover i) (LoopRef.ofWord (i.cmd.word 5)) ls)
include hf
theorem exec_copy_no_dest
    (hd : (s.taken t .mover u).Denied (accOf t .mover i) Kind.mover (LoopRef.ofWord (i.cmd.word 6)).region
      ((LoopRef.ofWord (i.cmd.word 6)).offset : Nat) 64 code w) :
    ∃ l, exec (.copy t) s = .next (s.cutBy t .mover u s.sram.mem l code w) :=
  State.Cuts.exec rfl h hs hg ho (by
    rw [copyBody_eq]
    exact (readLoops_gives hf hc).bind_cuts ((readLoops_cuts hd _).bind _))
variable {ld : Loops} (hd : (s.taken t .mover u).LoopsAt (accOf t .mover i) (LoopRef.ofWord (i.cmd.word 6)) ld)
include hd
theorem exec_copy_bad_source (hbad : ls.ok = false ∨ (ld.ok = true ∧ ld.transpose = false ∧ ls.total ≠ ld.total) ∨
      (ld.ok = true ∧ ld.transpose = false ∧ ls.transpose = true ∧ ((∀ j : Job, s.jobOf (partOfTile t) = some j →
        bit j.image.featureReq 13 = false) ∨ 65536 < ls.side0 * ls.side1 * (Ref.ofWord (i.cmd.word 3)).fmt.size))) :
    ∃ l, exec (.copy t) s = .next (s.cutBy t .mover u s.sram.mem l Code.loopMalformed
      { (accOf t .mover i).loc with region := some (LoopRef.ofWord (i.cmd.word 5)).region, access := Kind.mover }) := by
  refine exec_copy_cuts h hg hs hc ho hf hd (copyChecked_source (hbad.imp_right (Or.imp_right fun ⟨hk, hp, ht, hb⟩ => ?_)) _)
  refine ⟨hk, hp, ht, hb.imp_left fun hj => ?_⟩
  rw [State.hasTranspose_taken, State.hasTranspose_none hj]
theorem exec_copy_bad_dest (oks : ls.ok = true) (hbad : ld.ok = false ∨ ld.transpose = true) :
    ∃ l, exec (.copy t) s = .next (s.cutBy t .mover u s.sram.mem l Code.loopMalformed
      { (accOf t .mover i).loc with region := some (LoopRef.ofWord (i.cmd.word 6)).region, access := Kind.mover }) :=
  exec_copy_cuts h hg hs hc ho hf hd (copyChecked_dest oks hbad _)
end

/-! FILL. -/

omit h hg hs hc in
theorem exec_fill (t : TileId) (s : State) : exec (.fill t) s = .next (s.runOn t .mover 3 2 fillWork) := by
  rw [← fillBody_eq]
  rfl
section
variable (ho : i.cmd.opcode = 2) {ld : Loops} {code : W16} {w : Loc}
include ho
omit hc in
theorem exec_fill_no_dest
    (hd : (s.taken t .mover u).Denied (accOf t .mover i) Kind.mover (LoopRef.ofWord (i.cmd.word 6)).region
      ((LoopRef.ofWord (i.cmd.word 6)).offset : Nat) 64 code w) :
    ∃ l, exec (.fill t) s = .next (s.cutBy t .mover u s.sram.mem l code w) :=
  State.Cuts.exec (exec_fill t s) h hs hg ho ((readLoops_cuts hd _).bind _)
variable (hd : (s.taken t .mover u).LoopsAt (accOf t .mover i) (LoopRef.ofWord (i.cmd.word 6)) ld)
include hd
theorem exec_fill_bad_dest (hbad : ld.ok = false ∨ ld.transpose = true) :
    ∃ l, exec (.fill t) s = .next (s.cutBy t .mover u s.sram.mem l Code.loopMalformed
      { (accOf t .mover i).loc with region := some (LoopRef.ofWord (i.cmd.word 6)).region, access := Kind.mover }) :=
  State.Cuts.exec (exec_fill t s) h hs hg ho (fillWork_malformed hd hc hbad)
variable {dst : Ref} (hdst : dst = Ref.ofWord (i.cmd.word 4)) (okd : ld.ok = true) (hp : ld.transpose = false)
include hdst okd hp
theorem exec_fill_all (hall : ∀ n < ld.total, (s.taken t .mover u).WalkAllows (accOf t .mover i) dst ld dst.fmt.size n) :
    ∃ l, exec (.fill t) s = .next ((((s.taken t .mover u).withMem ((List.range ld.total).foldl
      ((s.taken t .mover u).filled (accOf t .mover i) dst ld (i.cmd.word 7)) s.sram.mem)).nowRuns t .mover i 0).withTraffic l) := by
  subst hdst
  exact State.Gives.exec (exec_fill t s) h hs hg ho (fillWork_gives hd hc okd hp hall)
theorem exec_fill_refused {n : Nat} (hn : n < ld.total)
    (hall : ∀ k < n, (s.taken t .mover u).WalkAllows (accOf t .mover i) dst ld dst.fmt.size k)
    (hw : (s.taken t .mover u).WalkDenied (accOf t .mover i) dst ld dst.fmt.size n code w) :
    ∃ l, exec (.fill t) s = .next (s.cutBy t .mover u ((List.range n).foldl
      ((s.taken t .mover u).filled (accOf t .mover i) dst ld (i.cmd.word 7)) s.sram.mem) l code w) := by
  subst hdst
  exact State.Cuts.exec (exec_fill t s) h hs hg ho (fillWork_cuts hd hc okd hp hn hall hw)
end

/-! GATHER and SCATTER. -/

section
variable {gather : Bool} {table rows list : Ref} (ho : i.cmd.opcode = if gather then 3 else 4)
  (htable : table = Ref.ofWord (i.cmd.word (if gather then 3 else 4))) (hrows : rows = Ref.ofWord (i.cmd.word (if gather then 4 else 3)))
  (hlist : list = Ref.ofWord (i.cmd.word 5)) (hwf : Mem.wf s.sram.mem = true)
  (hapart : (s.taken t .mover u).Apart (accOf t .mover i) list.region (toRef gather table rows).region)
include ho htable hrows hlist hwf hapart
theorem exec_rows_all (hall : ∀ k < rowCount i.cmd,
      (s.taken t .mover u).Allows (accOf t .mover i) Kind.mover list.region (list.offset + 4 * k : Nat) 4 ∧
      ∀ e < rowElems i.cmd, (s.taken t .mover u).RowAllows (accOf t .mover i) gather table rows
        ((s.taken t .mover u).indexAt (accOf t .mover i) list s.sram.mem k) k e) :
    ∃ l, exec (if gather then .gather t else .scatter t) s = .next ((((s.taken t .mover u).withMem
      ((s.taken t .mover u).rowsMoved (accOf t .mover i) gather table rows list (rowElems i.cmd) s.sram.mem (rowCount i.cmd))).nowRuns t .mover i
        0).withTraffic l) := by
  subst htable hrows hlist
  exact State.Gives.exec (exec_rows gather t s) h hs hg ho ((rows_gives hwf hapart hc hall).bind (.pure _ _ _))
variable {n : Nat} {code : W16} {w : Loc} (hn : n < rowCount i.cmd) (hall : ∀ k < n,
    (s.taken t .mover u).Allows (accOf t .mover i) Kind.mover list.region (list.offset + 4 * k : Nat) 4 ∧
    ∀ e < rowElems i.cmd, (s.taken t .mover u).RowAllows (accOf t .mover i) gather table rows
      ((s.taken t .mover u).indexAt (accOf t .mover i) list s.sram.mem k) k e)
include hn hall
theorem exec_rows_no_index (hd : (s.taken t .mover u).Denied { accOf t .mover i with loops := some [0, n] } Kind.mover list.region
      (list.offset + 4 * n : Nat) 4 code w) :
    ∃ l, exec (if gather then .gather t else .scatter t) s = .next (s.cutBy t .mover u
      ((s.taken t .mover u).rowsMoved (accOf t .mover i) gather table rows list (rowElems i.cmd) s.sram.mem n) l code w) := by
  subst htable hrows hlist
  exact State.Cuts.exec (exec_rows gather t s) h hs hg ho ((rows_cuts_list hwf hapart hc hn hall hd).bind _)
theorem exec_rows_refused {e : Nat} {ix : Int} (hix : ix = (s.taken t .mover u).indexAt (accOf t .mover i) list s.sram.mem n)
    (hl : (s.taken t .mover u).Allows (accOf t .mover i) Kind.mover list.region (list.offset + 4 * n : Nat) 4) (he : e < rowElems i.cmd)
    (hrow : ∀ k < e, (s.taken t .mover u).RowAllows (accOf t .mover i) gather table rows ix n k)
    (hd : (s.taken t .mover u).Denied { accOf t .mover i with loops := some [e, n] } Kind.mover (fromRef gather table rows).region
        (fromAt gather table rows ix n e) table.fmt.size code w ∨
      ((s.taken t .mover u).Allows (accOf t .mover i) Kind.mover (fromRef gather table rows).region (fromAt gather table rows ix n e)
          table.fmt.size ∧
        (s.taken t .mover u).Denied { accOf t .mover i with loops := some [e, n] } Kind.mover (toRef gather table rows).region
          (toAt gather table rows ix n e) table.fmt.size code w)) :
    ∃ l, exec (if gather then .gather t else .scatter t) s = .next (s.cutBy t .mover u ((List.range e).foldl
      ((s.taken t .mover u).rowStep (accOf t .mover i) gather table rows ix n)
      ((s.taken t .mover u).rowsMoved (accOf t .mover i) gather table rows list (rowElems i.cmd) s.sram.mem n)) l code w) := by
  subst htable hrows hlist hix
  exact State.Cuts.exec (exec_rows gather t s) h hs hg ho ((rows_cuts hwf hapart hc hn hall hl he hrow hd).bind _)
end
end

/-! The bytes that entries of the map place. -/

theorem State.filled_within {s : State} {a : Acc} {dst : Ref} {ld : Loops} {v : W64} {n : Nat} {ed : BitVec 128}
    (hd : s.Grants a.part a.tile Kind.mover dst.region ed) (h0 : 0 ≤ walkAt dst ld dst.fmt.size n) (m : Bytes) :
    s.filled a dst ld v m n =
      Mem.write m (partBase a.part + meStart ed + (walkAt dst ld dst.fmt.size n).toNat) (natLE dst.fmt.size v.toNat) := by
  rw [State.filled, State.placeOf_within hd h0]
section
variable {s : State} {a : Acc} {table rows list : Ref} {ix : Int} {n e : Nat} {et er el : BitVec 128}
theorem State.indexAt_within (hl : s.Grants a.part a.tile Kind.mover list.region el) (m : Bytes) :
    s.indexAt a list m n = signed 32 (Mem.nat m (partBase a.part + meStart el + list.offset + 4 * n) 4) := by
  rw [State.indexAt, State.placeOf_within hl (by omega), Int.toNat_natCast, Nat.add_assoc _ list.offset]
variable (ht : s.Grants a.part a.tile Kind.mover table.region et) (hr : s.Grants a.part a.tile Kind.mover rows.region er)
include ht hr
theorem State.rowStep_within (h0 : 0 ≤ table.rowAt ix e) (gather : Bool) (m : Bytes) : s.rowStep a gather table rows ix n m e =
    if gather then Mem.write m (partBase a.part + meStart er + rows.at n e)
      (Mem.read m (partBase a.part + meStart et + (table.rowAt ix e).toNat) table.fmt.size)
    else Mem.write m (partBase a.part + meStart et + (table.rowAt ix e).toNat)
      (Mem.read m (partBase a.part + meStart er + rows.at n e) table.fmt.size) := by
  have hrow : s.placeOf a rows.region (rows.at n e : Nat) = partBase a.part + meStart er + rows.at n e := by
    rw [State.placeOf_within hr (by omega), Int.toNat_natCast]
  have htab := State.placeOf_within ht h0
  cases gather <;> simp [State.rowStep, toRef, fromRef, toAt, fromAt, hrow, htab]
/-- The rows moved, each element at the places that the entries and the list's indices give. -/
theorem State.rowsMoved_within (gather : Bool) {m : Bytes} {ix : Nat → Int} {elems : Nat} (hl : s.Grants a.part a.tile Kind.mover list.region el)
    (hix : ∀ k, ix k = signed 32 (Mem.nat m (partBase a.part + meStart el + list.offset + 4 * k) 4))
    (h0 : ∀ k < n, ∀ e < elems, 0 ≤ table.rowAt (ix k) e) :
    s.rowsMoved a gather table rows list elems m n = (List.range n).foldl (fun v k => (List.range elems).foldl (fun v e =>
      if gather then Mem.write v (partBase a.part + meStart er + rows.at k e)
        (Mem.read v (partBase a.part + meStart et + (table.rowAt (ix k) e).toNat) table.fmt.size)
      else Mem.write v (partBase a.part + meStart et + (table.rowAt (ix k) e).toNat)
        (Mem.read v (partBase a.part + meStart er + rows.at k e) table.fmt.size)) v) m := by
  refine List.foldl_ext _ _ _ fun v k hk => List.foldl_ext _ _ _ fun v e he => ?_
  rw [State.indexAt_within hl, ← hix]
  exact State.rowStep_within ht hr (h0 k (List.mem_range.1 hk) e (List.mem_range.1 he)) gather v
variable (h0 : 0 ≤ table.rowAt ix e)
include h0
theorem State.RowAllows.of_grants (gather : Bool) (h1 : table.rowAt ix e + table.fmt.size ≤ meLen et)
    (h2 : rows.at n e + table.fmt.size ≤ meLen er) : s.RowAllows a gather table rows ix n e := by
  have htab : s.Allows a Kind.mover table.region (table.rowAt ix e) table.fmt.size := ⟨et, ht, h0, h1⟩
  have hrow : s.Allows a Kind.mover rows.region (rows.at n e : Nat) table.fmt.size := .of_grants hr h2
  cases gather
  · exact ⟨hrow, htab⟩
  · exact ⟨htab, hrow⟩
end

/-- Settles O42: the four kinds of commands have their cases above; what is granted by entries of the map is granted as an access. -/
theorem moverCommandsMoveElementByElement : Obligations.MoverCommandsMoveElementByElement := by
  intro s t u i es h hg hs hc
  refine ⟨?_, ?_, ?_, ?_⟩
  · rintro src dst ls ld es' ed el el' bs bd sz ho hsrc hdst hsz hel hel' hes hed h5 h6 rfl rfl hls hld oks okd hp ht hb
    have hf : (s.taken t .mover u).LoopsAt (accOf t .mover i) (LoopRef.ofWord (i.cmd.word 5)) ls := hls ▸ .of_grants hel h5
    have hd : (s.taken t .mover u).LoopsAt (accOf t .mover i) (LoopRef.ofWord (i.cmd.word 6)) ld := hld ▸ .of_grants hel' h6
    have hall : ∀ n < ls.total, (s.taken t .mover u).WalkAllows (accOf t .mover i) src ls sz n ∧
        (s.taken t .mover u).WalkAllows (accOf t .mover i) dst ld sz n := by
      intro n hn
      obtain ⟨h1, h2, h3, h4⟩ := hb n hn
      exact ⟨⟨es', hes, h1, h2⟩, ed, hed, h3, h4⟩
    have hplace : ∀ n < ls.total, 0 ≤ walkAt src ls sz n ∧ 0 ≤ walkAt dst ld sz n := by
      intro n hn
      obtain ⟨h1, -, h3, -⟩ := hb n hn
      exact ⟨h1, h3⟩
    refine ⟨fun htr => ?_, fun j c0 c1 htr hj h13 h0 h1 hsize => ?_⟩
    · have hm := exec_copy_plain h hg hs hc ho hsrc hdst hsz hf hd oks okd hp ht htr hall
      rwa [List.foldl_ext _ _ _ fun m n hn => State.copied_within (a := accOf t .mover i) hes hed (hplace n (List.mem_range.1 hn)).1
        (hplace n (List.mem_range.1 hn)).2 m m] at hm
    · subst h0 h1
      have hm := exec_copy_blocks h hg hs hc ho hsrc hdst hsz hf hd oks okd hp ht htr (by rw [State.hasTranspose_of hj, h13]) hsize hall
      rwa [State.blocksMoved_within (a := accOf t .mover i) hes hed
        fun n hn => hplace n (hn.trans_le (Nat.div_mul_le_self ..))] at hm
  · rintro dst ld ed el bd ho hdst hel hed h6 rfl hld okd hp hb
    have hd : (s.taken t .mover u).LoopsAt (accOf t .mover i) (LoopRef.ofWord (i.cmd.word 6)) ld := hld ▸ .of_grants hel h6
    have hm := exec_fill_all h hg hs hc ho hd hdst okd hp fun n hn => ⟨ed, hed, (hb n hn).1, (hb n hn).2⟩
    rwa [List.foldl_ext _ _ _ fun m n hn => State.filled_within (a := accOf t .mover i) hed (hb n (List.mem_range.1 hn)).1 m] at hm
  · rintro gather table rows list et er el bt br bl sz ix ho htable hrows hlist rfl hwf het her hel rfl rfl rfl rfl hlen hb hdisj
    have hapart : (s.taken t .mover u).Apart (accOf t .mover i) list.region (toRef gather table rows).region := by
      intro x y hx hy
      obtain rfl := hel.unique hx
      cases gather
      · obtain rfl := het.unique hy
        exact hdisj
      · obtain rfl := her.unique hy
        exact hdisj
    have hlist' : ∀ k < rowCount i.cmd,
        (s.taken t .mover u).Allows (accOf t .mover i) Kind.mover list.region (list.offset + 4 * k : Nat) 4 :=
      fun k hk => .of_grants hel (by omega)
    have hcells : ∀ k < rowCount i.cmd, ∀ e < rowElems i.cmd, (s.taken t .mover u).RowAllows (accOf t .mover i) gather table rows
        ((s.taken t .mover u).indexAt (accOf t .mover i) list s.sram.mem k) k e := by
      intro k hk e he
      obtain ⟨h1, h2, h3⟩ := hb k hk e he
      rw [State.indexAt_within hel]
      exact .of_grants het her h1 gather h2 h3
    have hm := exec_rows_all h hg hs hc ho htable hrows hlist hwf hapart fun k hk => ⟨hlist' k hk, hcells k hk⟩
    rwa [State.rowsMoved_within (a := accOf t .mover i) het her gather hel (fun _ => rfl) fun k hk e he => (hb k hk e he).1] at hm
  · rintro b a src dst f g sz code w rfl rfl hsrc hdst rfl rfl
    refine ⟨fun ho hsz => ⟨exec_copy_no_source h hg hs ho, fun ls hf => ⟨exec_copy_no_dest h hg hs hc ho hf, fun ld hd =>
      ⟨fun hbad => ?_, exec_copy_bad_dest h hg hs hc ho hf hd, fun oks okd hp ht =>
        ⟨fun n hn htr => exec_copy_plain_refused h hg hs hc ho hsrc hdst hsz hf hd oks okd hp ht htr hn, ?_⟩⟩⟩⟩,
      fun ho hsz => ⟨exec_fill_no_dest h hg hs ho, fun ld hd => ⟨exec_fill_bad_dest h hg hs hc ho hd, fun n hn okd hp hall hw => ?_⟩⟩, ?_⟩
    · subst hsz hsrc
      exact exec_copy_bad_source h hg hs hc ho hf hd hbad
    · rintro j c0 c1 y n from_ htr hj h13 rfl rfl hsize hy hn hall rfl
      have h13 : s.hasTranspose (partOfTile t) = true := by rw [State.hasTranspose_of hj, h13]
      exact ⟨exec_copy_blocks_unread h hg hs hc ho hsrc hdst hsz hf hd oks okd hp ht htr h13 hsize hy hn hall,
        exec_copy_blocks_unwritten h hg hs hc ho hsrc hdst hsz hf hd oks okd hp ht htr h13 hsize hy hn hall⟩
    · subst hsz
      exact exec_fill_refused h hg hs hc ho hd hdst okd hp hn hall hw
    · rintro gather table rows list rd wr ix ta ra ro wo move n e ho hwf hn htable hrows hlist rfl rfl rfl rfl rfl rfl rfl rfl rfl hapart hall
      cases gather <;>
        exact ⟨exec_rows_no_index h hg hs hc ho htable hrows hlist hwf hapart hn hall,
          fun he hl hrow hd => exec_rows_refused h hg hs hc ho htable hrows hlist hwf hapart hn hall rfl hl he hrow hd⟩

end Sys2Proof.Machine
end

section
/-! SUPPORT and the statement of the bindings SEND, RECV, PUT and GET (R116, R117, R118, R262). -/

namespace Sys2Proof.Machine

section
variable {s : State} {lead : PartId} {n : Fin 7} {j : Job} {p : PartId} {i : Issued} {es : List QEntry} (hj : s.jobOfLead lead = some j)
include hj

/-! SEND and RECV. -/

theorem exec_send_idle (hb : s.bindingReady j n 1 = none) : exec (.send lead n) s = .next s := by
  show execSend lead n s = _
  simp only [execSend, hj, hb]
theorem exec_recv_idle (hb : s.bindingReady j n 2 = none) : exec (.recv lead n) s = .next s := by
  show execRecv lead n s = _
  simp only [execRecv, hj, hb]
/-- A SEND at the front leaves its station: a skipped one consumes its waits, unless the picker has, and what it binds is a void. -/
theorem exec_send_ready {c : Option Nat} (hb : s.bindingReady j n 1 = some (p, i, es, c)) :
    exec (.send lead n) s = .next (
      let u := s.modJob j.id (fun j => j.setBindings n (j.bindings n).tail)
      (if c.isSome && i.src != .graph then u.modPart p (fun q => q.consume i.cmd.tile i.cmd.waits) else u).bindOrOrphan j p i (c.getD 0)
        (if c.isSome then 0 else match es.head? with
          | some e => if qVoid e then 0 else qPayload e
          | none => 0)) := by
  show execSend lead n s = _
  simp only [execSend, hj, hb]
  cases c with
  | none => rfl
  | some c => cases hg : i.src == .graph <;> simp [bne, hg]
theorem exec_recv_skipped {c : Nat} (hb : s.bindingReady j n 2 = some (p, i, es, some c)) :
    exec (.recv lead n) s = .next (((s.modJob j.id (fun j => j.setBindings n (j.bindings n).tail)).retire p i
      (fun id g => mkVoid c id g 0xFF) 6).settle p) := by
  show execRecv lead n s = _
  simp only [execRecv, hj, hb]
theorem exec_recv_ready (hb : s.bindingReady j n 2 = some (p, i, es, none)) :
    exec (.recv lead n) s = .next (
      let u := s.modJob j.id (fun j => j.setBindings n (j.bindings n).tail)
      let x := j.xfer (bindTransfer i.cmd)
      if 65535 < x.arms + recvArms i.cmd then u.partJobFault p Code.armLimit (i.loc p 6)
      else ((u.modJob j.id (fun k => k.setXfer { k.xfer (bindTransfer i.cmd) with arms := x.arms + recvArms i.cmd })).retire p i
        (fun id g => mkEntry 0 id g 0xFF) 6).settle p) := by
  show execRecv lead n s = _
  simp only [execRecv, hj, hb]
end

section
variable {s : State} {j : Job} {p : PartId} {i : Issued} {cause : Nat} {x : BitVec 96}
theorem State.bindOrOrphan_binds (h : j.lapEnded = false ∨ (j.xfer (bindTransfer i.cmd)).bound < j.occTotal false (bindTransfer i.cmd)) :
    s.bindOrOrphan j p i cause x = (s.bindSend j p i cause x).settle p := by
  have h : ¬(j.lapEnded = true ∧ j.occTotal false (bindTransfer i.cmd) ≤ (j.xfer (bindTransfer i.cmd)).bound) := by
    rintro ⟨he, hle⟩
    obtain h | h := h
    · simp [he] at h
    · omega
  simp [State.bindOrOrphan, h]
theorem State.bindOrOrphan_orphan (he : j.lapEnded = true)
    (hn : j.occTotal false (bindTransfer i.cmd) ≤ (j.xfer (bindTransfer i.cmd)).bound) :
    s.bindOrOrphan j p i cause x = s.partJobFault p Code.bindingOrphan (i.loc p 6) := by
  simp [State.bindOrOrphan, he, hn]
end

/-! PUT and GET. -/

/-- With a slot free a request opens (R262). -/
theorem State.openRequest_opens {s : State} {mgmt : Bool} (h : (s.freeReq mgmt).isSome = true) (o : ReqOwner) (base : W64) (n : Nat)
    (bs : Option (List Byte)) (job dom : Byte) : ∃ t, s.openRequest mgmt o base n bs job dom = some t := by
  obtain ⟨slot, hs⟩ := Option.isSome_iff_exists.1 h
  simp only [State.openRequest, hs]
  exact ⟨_, rfl⟩
/-- A local range that lies in a region of the partition's map, whatever its KINDS (log 58). -/
theorem State.localRange_ok {s : State} {p : PartId} {i : Issued} {m : AllocMap} {e : BitVec 128} (hA : (s.part p).mapA = some m)
    (hB : (s.part p).mapB = some m) (he : m.entry? (putLocal i.cmd).region = some e)
    (hl : (putLocal i.cmd).offset + putLength i.cmd ≤ meLen e) :
    s.localRange p i = (s, some (partBase p + meStart e + (putLocal i.cmd).offset)) := by
  simp only [State.localRange, State.consultOne, State.consult_same hA hB]
  simp [he, hl]

/-- The row of a PUT (opcode 3) and of a GET (opcode 4). -/
theorem exec_putGet {op : Nat} {row : Instr} {lead : PartId} (h : (op, row) ∈ ([(3, .put lead), (4, .get lead)] : List (Nat × Instr)))
    (s : State) : exec row s = .next (s.putGet lead op) := by
  simp only [List.mem_cons, Prod.mk.injEq, List.not_mem_nil, or_false] at h
  obtain ⟨rfl, rfl⟩ | ⟨rfl, rfl⟩ := h <;> rfl

section
variable {s : State} {lead : PartId} {j : Job} {op : Nat} {p : PartId} {i : Issued} {es : List QEntry} (hj : s.jobOfLead lead = some j)
include hj
theorem State.putGet_idle (hb : s.bindingReady j 6 op = none) : s.putGet lead op = s := by
  simp only [State.putGet, hj, hb]
theorem State.putGet_skipped {c : Nat} (hb : s.bindingReady j 6 op = some (p, i, es, some c)) :
    s.putGet lead op = ((s.modJob j.id (fun j => j.setBindings 6 (j.bindings 6).tail)).retire p i
      (fun id g => mkVoid c id g 0xFF) 6).settle p := by
  simp only [State.putGet, hj, hb]
  rfl
variable (hb : s.bindingReady j 6 op = some (p, i, es, none))
include hb
theorem State.putGet_waits (hf : s.freeReq false = none) : s.putGet lead op = s := by
  simp [State.putGet, hj, hb, hf]
variable (hf : (s.freeReq false).isSome = true)
include hf
theorem State.putGet_isolated (hr : j.remote i.cmd = none) :
    s.putGet lead op = (s.modJob j.id (fun j => j.setBindings 6 (j.bindings 6).tail)).partJobFault p Code.planIsolation (i.loc p 6) := by
  simp [State.putGet, hj, hb, Option.isNone_eq_false_iff.2 hf, hr]
/-- A PUT or GET whose rank and local range are good is the request that it opens; a PUT's cells carry the local bytes. -/
theorem State.putGet_opens (hop : op = 3 ∨ op = 4) {base : W64} {m : AllocMap} {e : BitVec 128} {a : Nat} {v w : State}
    (hr : j.remote i.cmd = some base) (hA : (s.part p).mapA = some m) (hB : (s.part p).mapB = some m)
    (he : m.entry? (putLocal i.cmd).region = some e) (hl : (putLocal i.cmd).offset + putLength i.cmd ≤ meLen e) (hc : s.sram.ecc = [])
    (ha : a = partBase p + meStart e + (putLocal i.cmd).offset)
    (hv : v = (s.modJob j.id (fun j => j.setBindings 6 (j.bindings 6).tail)).plotAccess p
      (.unit (.tile (finOf 256 (tileId p i.cmd.tile.val)))) (Stop.ofTile (tileId p i.cmd.tile.val)) a (putLength i.cmd))
    (hw : v.openRequest false (.putGet lead p i (op == 4)) base (putLength i.cmd)
      (if op = 3 then some (Mem.read s.sram.mem a (putLength i.cmd)) else none) j.index j.domainId = some w) :
    s.putGet lead op = w := by
  have hcv : v.sram.ecc = [] := by rw [hv]; exact hc
  have hmv : v.sram.mem = s.sram.mem := by rw [hv]; rfl
  simp only [State.putGet, hj, hb, Option.isNone_eq_false_iff.2 hf, hr]
  rw [State.localRange_ok (s := s.modJob j.id _) hA hB he hl, ← ha]
  dsimp only
  rw [← hv]
  obtain rfl | rfl := hop
  · simp [State.fetchBytes_clean v _ _ _ hcv, hmv] at hw ⊢
    rw [hw]
  · simp at hw ⊢
    rw [hw]
end

/-- Settles O44: each clause is the lemma of its row above. -/
theorem bindingsStartTheirTransfers : Obligations.BindingsStartTheirTransfers := by
  refine ⟨fun s lead n j hj => ⟨exec_send_idle hj, exec_recv_idle hj, ?_⟩, ?_⟩
  · rintro p i es u rfl
    refine ⟨?_, fun c => exec_recv_skipped hj, fun hb => ⟨fun h => ?_, fun h => ?_⟩⟩
    · rintro c v cause x hb rfl rfl rfl
      refine ⟨fun h => ?_, fun he hn => ?_⟩
      · exact (exec_send_ready hj hb).trans (congrArg _ (State.bindOrOrphan_binds h))
      · exact (exec_send_ready hj hb).trans (congrArg _ (State.bindOrOrphan_orphan he hn))
    · rw [exec_recv_ready hj hb, if_neg (by omega)]
    · rw [exec_recv_ready hj hb, if_pos h]
  · rintro s lead j op row p i es u hrow hj rfl
    have hop : op = 3 ∨ op = 4 := by
      simp only [List.mem_cons, Prod.mk.injEq, List.not_mem_nil, or_false] at hrow
      exact hrow.imp And.left And.left
    rw [exec_putGet hrow]
    refine ⟨fun hb => ?_, fun c hb => ?_, fun hb hf => ?_, fun hb hf => ⟨fun hr => ?_, fun base m e hr hA hB he hl hc => ?_⟩⟩
    · rw [State.putGet_idle hj hb]
    · rw [State.putGet_skipped hj hb]
    · rw [State.putGet_waits hj hb hf]
    · rw [State.putGet_isolated hj hb hf hr]
    · refine (State.openRequest_opens (mgmt := false) ?_ _ _ _ _ _ _).imp fun w hw =>
        ⟨congrArg _ (State.putGet_opens hj hb hf hop hr hA hB he hl hc rfl rfl hw), hw⟩
      exact hf

end Sys2Proof.Machine
end

section
/-! SUPPORT and the statement of the digest cells, the deadline of an armed start and the job-abort cells (R182, R183, R188). -/

namespace Sys2Proof.Machine

/-! Digest cells that are kept (R182). -/

/-- The latest cell of a set stands first. -/
theorem Job.keepDigest_head (j : Job) (d : DigestCell) : (j.keepDigest d).digests.head? = some d := rfl
theorem Job.keepsDigest_loaded {j : Job} (h : j.phase = .loaded) (start : Nat) : j.keepsDigest start = true := by
  simp [Job.keepsDigest, h]
theorem Job.keepsDigest_armed {j : Job} {b : PaceBlock} (h : j.phase = .armed) (hb : j.pace = some b) (start : Nat) :
    j.keepsDigest start = true ↔ b.startCount = start := by
  simp [Job.keepsDigest, h, hb]
theorem State.digestKeepers_owner {s : State} {l : LinkId} {j : Job} (ho : (s.link l).owner = some j.id) (hj : s.job? j.id = some j)
    (start : Nat) : s.digestKeepers l start = if j.keepsDigest start then [j.id] else [] := by
  simp only [State.digestKeepers, ho, hj, Option.toList_some, List.filter_singleton]
  cases j.keepsDigest start <;> rfl

/-! The comparison of an armed start (R182, R183). -/

theorem State.compareDigests_unarmed {s : State} {id : Nat} {j : Job} (hj : s.job? id = some j) (h : j.phase ≠ .armed) :
    s.compareDigests id = s := by
  unfold State.compareDigests
  simp only [hj]
  cases j.startDesc <;> cases j.pace <;> simp [h]

section
variable {s : State} {id : Nat} {j : Job} {d : Desc} {b : PaceBlock} {k : PlanSection} (hj : s.job? id = some j) (hp : j.phase = .armed)
  (hd : j.startDesc = some d) (hb : j.pace = some b) (hk : j.image.plan = some k)
include hj hp hd hb hk
theorem State.compareDigests_waiting (h : s.digestState j k b = .waiting) : s.compareDigests id = s := by
  simp [State.compareDigests, hj, hp, hd, hb, hk, h]
theorem State.compareDigests_mismatch {m : LinkId} (h : s.digestState j k b = .mismatch m) :
    s.compareDigests id = (s.logAt Code.planMismatch j.fn.val { Loc.base 6 with link := m.val, part := j.lead.val }).refuseStart j
      Status.planMismatch Code.planMismatch Code.planMismatch none := by
  simp [State.compareDigests, hj, hp, hd, hb, hk, h]
theorem State.compareDigests_equal (h : s.digestState j k b = .done false) :
    s.compareDigests id = (s.modJob id (fun j => { j with startDone := true, startDesc := none })).complete d
      { status := Status.success, detail0 := BitVec.ofNat 64 b.startCount } := by
  simp [State.compareDigests, hj, hp, hd, hb, hk, h]
end

/-! PLAN_DIGEST. -/

section
variable {s u : State} {l : LinkId} {c : Cell} {r : Option (Fin 32)} {d : DieId} {e : Option EccErr} {j : Job}
  (ht : s.takeCell (isMgmtCell 1) = some { state := u, from_ := .link l, cell := c, ring := r, die := d, err := e })
  (ho : (u.link l).owner = some j.id) (hj : u.job? j.id = some j)
include ht ho hj
/-- A cell that the owner of its link keeps is compared; one that it does not keep leaves nothing. -/
theorem exec_planDigest_kept (h : j.keepsDigest (leAt c.bytes 8 8) = true) :
    exec .planDigest s = .next ((u.modJob j.id (·.keepDigest (digestCell l c.bytes))).compareDigests j.id) := by
  show execPlanDigest s = _
  simp only [execPlanDigest, ht, State.digestKeepers_owner ho hj, if_pos h, List.foldl_cons, List.foldl_nil]
theorem exec_planDigest_ignored (h : j.keepsDigest (leAt c.bytes 8 8) = false) : exec .planDigest s = .next u := by
  show execPlanDigest s = _
  simp only [execPlanDigest, ht, State.digestKeepers_owner ho hj, h, Bool.false_eq_true, if_false, List.foldl_nil]
end

/-! DIGEST_DEADLINE. -/

section
variable {s : State} {lead : PartId} {j : Job} {b : PaceBlock} (hj : s.jobOfLead lead = some j) (hb : j.pace = some b)
include hj hb
theorem exec_digestDeadline_due (hp : j.phase = .armed) (hd : j.startDesc.isSome = true) (h : b.startCount ≤ s.pace.count.toNat + 4096) :
    exec (.digestDeadline lead) s = .next ((s.logAt Code.peerSilent j.fn.val { Loc.base 6 with part := j.lead.val }).refuseStart j
      Status.peerSilent Code.peerSilent Code.peerSilent none) := by
  show execDigestDeadline lead s = _
  simp [execDigestDeadline, hj, hb, hp, hd, h]
theorem exec_digestDeadline_early (h : s.pace.count.toNat + 4096 < b.startCount) : exec (.digestDeadline lead) s = .next s := by
  show execDigestDeadline lead s = _
  simp [execDigestDeadline, hj, hb, h]
end

/-! JOB_ABORT. -/

/-- Does a job-abort cell name a job: one that is armed or in RUN, of its START_COUNT, its domain and its JOB_INDEX (R183)? -/
def Job.namedBy (j : Job) (c : Cell) : Bool :=
  (j.phase == .armed || j.phase == .run) && (match j.pace with
    | some b => b.startCount == leAt c.bytes 8 8 && b.domainId == c.domain && b.jobIndex == c.jobIndex
    | none => false)
theorem Job.namedBy_iff {j : Job} {b : PaceBlock} (hb : j.pace = some b) (c : Cell) : j.namedBy c = true ↔
    (j.phase = .armed ∨ j.phase = .run) ∧ b.startCount = leAt c.bytes 8 8 ∧ b.domainId = c.domain ∧ b.jobIndex = c.jobIndex := by
  simp [Job.namedBy, hb, and_assoc]

section
variable {s u : State} {l : LinkId} {c : Cell} {r : Option (Fin 32)} {d : DieId} {e : Option EccErr} {j : Job}
  (ht : s.takeCell (isMgmtCell 2) = some { state := u, from_ := .link l, cell := c, ring := r, die := d, err := e })
  (hj : u.jobs.find? (·.namedBy c) = some j)
include ht hj
/-- A job-abort cell reaches the first job that it names. -/
theorem exec_jobAbort_named : exec .jobAbort s = .next (
    if j.phase = .armed ∧ u.pace.count.toNat < leAt c.bytes 8 8 then
      (u.logAt Code.startAborted j.fn.val { Loc.base 6 with part := j.lead.val, link := l.val }).refuseStart j Status.startAborted
        (if j.startDesc.isNone then BitVec.ofNat 16 (leAt c.bytes 16 2) else Code.startAborted) (BitVec.ofNat 16 (leAt c.bytes 16 2)) (some l)
    else (u.logAt Code.peerFault j.fn.val { Loc.base 6 with part := j.lead.val, link := l.val }).jobFaultWith j Code.peerFault
      (BitVec.ofNat 16 (leAt c.bytes 16 2)) (some l)) := by
  show execJobAbort s = _
  simp only [execJobAbort, ht]
  generalize hf : List.find? _ u.jobs = o
  obtain rfl : o = some j := hf.symm.trans hj
  simp
theorem exec_jobAbort_armed (hp : j.phase = .armed) (hc : u.pace.count.toNat < leAt c.bytes 8 8) (hd : j.startDesc.isSome = true) :
    exec .jobAbort s = .next ((u.logAt Code.startAborted j.fn.val { Loc.base 6 with part := j.lead.val, link := l.val }).refuseStart j
      Status.startAborted Code.startAborted (BitVec.ofNat 16 (leAt c.bytes 16 2)) (some l)) := by
  rw [exec_jobAbort_named ht hj, if_pos ⟨hp, hc⟩, if_neg (by simp [Option.isSome_iff_ne_none.1 hd])]
theorem exec_jobAbort_run (hp : j.phase = .run) :
    exec .jobAbort s = .next ((u.logAt Code.peerFault j.fn.val { Loc.base 6 with part := j.lead.val, link := l.val }).jobFaultWith j
      Code.peerFault (BitVec.ofNat 16 (leAt c.bytes 16 2)) (some l)) := by
  rw [exec_jobAbort_named ht hj, if_neg (by simp [hp])]
end

/-- Settles O32: each clause is the lemma of its row above, and what compares is the job as it keeps the cell. -/
theorem digestsAndAbortsDecideAnArmedStart : Obligations.DigestsAndAbortsDecideAnArmedStart := by
  refine ⟨?_, fun s lead j b hj hb hp => ⟨exec_digestDeadline_due hj hb hp, exec_digestDeadline_early hj hb⟩, ?_⟩
  · rintro s u w l c r d e j kept ht ho hj rfl rfl
    have hw : (u.modJob j.id (·.keepDigest (digestCell l c.bytes))).job? j.id = some (j.keepDigest (digestCell l c.bytes)) :=
      State.modJob_found (fun _ => rfl) hj
    refine ⟨j.keepDigest_head _, fun hp => ?_, fun b hp hb hne => ?_, fun sd b k hp hd hb hk hc => ?_⟩
    · rw [exec_planDigest_kept ht ho hj (Job.keepsDigest_loaded hp _), State.compareDigests_unarmed hw]
      exact fun ha : j.phase = .armed => by simp [hp] at ha
    · exact exec_planDigest_ignored ht ho hj (Bool.eq_false_iff.2 (mt (Job.keepsDigest_armed hp hb _).1 hne))
    · rw [exec_planDigest_kept ht ho hj ((Job.keepsDigest_armed hp hb _).2 hc)]
      exact ⟨fun h => congrArg _ (State.compareDigests_waiting hw hp hd hb hk h),
        fun m h => congrArg _ (State.compareDigests_mismatch hw hp hd hb hk h),
        fun h => congrArg _ (State.compareDigests_equal hw hp hd hb hk h)⟩
  · intro s u l c r d e j b ht hjs hb hcount hdom hidx
    have hnamed : j.phase = .armed ∨ j.phase = .run → u.jobs.find? (·.namedBy c) = some j := fun hp => by
      simp [hjs, (Job.namedBy_iff hb c).2 ⟨hp, hcount, hdom, hidx⟩]
    exact ⟨fun hp hc => exec_jobAbort_armed ht (hnamed (.inl hp)) hp (hcount ▸ hc), fun hp => exec_jobAbort_run ht (hnamed (.inr hp)) hp⟩

end Sys2Proof.Machine
end

section
/-! SUPPORT and the statement of LISTEN, its attempts and the time limits of the stages (R219, R220, R225, Table 09-6). -/

namespace Sys2Proof.Machine

/-! LISTEN (R219, R220). -/

section
variable {s : State} {l : LinkId} (h : (s.link l).stage = .listen)
include h
theorem exec_wakePatternSeen_listen : exec (.wakePatternSeen l) s = .next (s.modLink l (fun k => { k with
    stage := .align, waiting := false, absent := false, absentLogged := false })) := by
  show execWakePatternSeen l s = _
  simp only [execWakePatternSeen, h, BEq.rfl, if_true]
theorem exec_listenBackoffEnd_listen : exec (.listenBackoffEnd l) s = .next (s.modLink l (fun k => { k with waiting := false })) := by
  show execListenBackoffEnd l s = _
  simp only [execListenBackoffEnd, h, BEq.rfl, if_true]
/-- An attempt without a wake pattern is logged where it begins an episode. -/
theorem exec_listenTimeout_listen (hw : (s.link l).waiting = false) : exec (.listenTimeout l) s = .next (
    let t := s.modLink l (fun k => { k with waiting := true, fails := k.fails + 1, absent := true, absentLogged := true })
    if (s.link l).absentLogged then t else t.logs Code.linkAbsent 0 (linkPlace l)) := by
  show execListenTimeout l s = _
  simp only [execListenTimeout, h, hw, bne_self_eq_false, Bool.or_self, Bool.false_eq_true, if_false]

/-! CABLE_ID_READ (R225). -/

variable (hc : s.landsCut = false)
include hc
theorem exec_cableIdRead_none : exec (.cableIdRead l none) s = .next (s.logs Code.cableIdBad 0 (linkPlace l)) := by
  show execCableIdRead l none s = _
  simp only [execCableIdRead, h, hc, bne_self_eq_false, Bool.or_self, Bool.false_eq_true, if_false]
theorem exec_cableIdRead_some (v : BitVec 256) : exec (.cableIdRead l (some v)) s = .next (
    let t := s.modLink l (fun k => { k with cableId := v })
    if fld v 15 0 ≠ 0x5A01 ∨ 250 < fld v 31 16 then t.logs Code.cableIdBad 0 (linkPlace l) else t) := by
  show execCableIdRead l (some v) s = _
  simp only [execCableIdRead, h, hc, bne_self_eq_false, Bool.or_self, Bool.false_eq_true, if_false, Bool.or_eq_true, bne_iff_ne,
    decide_eq_true_eq]
end

/-! STAGE_TIMEOUT (R219). -/

/-- The stages of training. -/
def Stage.training : Stage → Bool
  | .align | .identify | .train | .check => true
  | .off | .listen | .up | .down | .miswired | .fault => false
theorem Stage.training_iff (g : Stage) : g.training = true ↔ g = .align ∨ g = .identify ∨ g = .train ∨ g = .check := by
  cases g <;> simp [Stage.training]
theorem exec_stageTimeout (s : State) (l : LinkId) : exec (.stageTimeout l) s = .next (
    if (s.link l).stage.training then
      (s.modLink l (fun k => { k with stage := .listen, waiting := false })).logs Code.stageTimeout 0 (linkPlace l)
    else s) := by
  show execStageTimeout l s = _
  simp only [execStageTimeout]
  cases (s.link l).stage <;> rfl

/-- Settles O29: each clause is the lemma of its row above. -/
theorem listenAndStageTimeouts : Obligations.ListenAndStageTimeouts := by
  refine fun s l => ⟨fun h => ⟨exec_wakePatternSeen_listen h, exec_listenBackoffEnd_listen h, fun hw hb => ?_, fun hw hb => ?_,
    fun hc => ⟨exec_cableIdRead_none h hc, fun v hid hlen => ?_, fun v hbad => ?_⟩⟩, fun h => ?_, fun h => ?_⟩
  · rw [exec_listenTimeout_listen h hw, hb, if_neg Bool.false_ne_true]
  · rw [exec_listenTimeout_listen h hw, hb, if_pos rfl]
  · rw [exec_cableIdRead_some h hc, if_neg (by omega)]
  · rw [exec_cableIdRead_some h hc, if_pos hbad]
  · rw [exec_stageTimeout, if_pos ((Stage.training_iff _).2 h)]
  · rw [exec_stageTimeout, h]; rfl

end Sys2Proof.Machine
end

section
/-! SUPPORT and the statement of ZL_CTRL and ZL_PEER_EXPECT (R219, R233, R404, R411, Table 18-5). -/

namespace Sys2Proof.Machine

/-! What a write of ZL_CTRL makes of a link (R411). -/

/-- An enabled link with main power enters LISTEN. -/
theorem State.listenOrOff_listen {s : State} {l : LinkId} (he : (s.link l).enable = true) (hp : s.power.mainPg = true) :
    s.listenOrOff l = s.modLink l Link.listenFresh := by
  simp [State.listenOrOff, he, hp]
theorem State.listenOrOff_off {s : State} {l : LinkId} (h : (s.link l).enable = false ∨ s.power.mainPg = false) :
    s.listenOrOff l = s.modLink l (fun k => { k with stage := .off, waiting := false, absent := false }) := by
  obtain h | h := h <;> simp [State.listenOrOff, h]
theorem State.mainPg_of_hostLanes {s : State} (h : s.hostLanes = true) : s.power.mainPg = true := (Bool.and_eq_true_iff.1 h).2

theorem State.linkReset_down {s : State} {l : LinkId} (ho : (s.link l).stage ≠ .off) (hd : (s.link l).stage ≠ .down) :
    s.linkReset l = s.linkDown l Code.linkReset := by
  simp only [State.linkReset]
theorem State.linkReset_ignored {s : State} {l : LinkId} (h : (s.link l).stage = .off ∨ (s.link l).stage = .down) : s.linkReset l = s := by
  obtain h | h := h <;> simp only [State.linkReset, h]
theorem State.retrain_ended {s : State} {l : LinkId} (h : (s.link l).stage = .fault ∨ (s.link l).stage = .miswired) :
    s.retrain l = s.listenOrOff l := by
  obtain h | h := h <;> simp only [State.retrain, h]
theorem State.linkEnable_off {s : State} {l : LinkId} (h : (s.link l).stage = .off) (hp : s.power.mainPg = true) :
    s.linkEnable l true = s.modLink l (fun k => { k with
      enable := true, stage := .listen, fails := 0, waiting := false, absent := false, absentLogged := false }) := by
  simp only [State.linkEnable, h]
  rw [State.listenOrOff_listen (s := s.modLink l _) (by rw [State.modLink_link]) hp, State.modLink_modLink]
  rfl
theorem State.linkEnable_up {s : State} {l : LinkId} (h : (s.link l).stage = .up) :
    s.linkEnable l false = (s.modLink l (fun k => { k with enable := false })).linkDown l Code.linkReset := by
  simp only [State.linkEnable, h]

/-! ZL_PEER_EXPECT (R233, R404). -/

section
variable {s : State} {l : LinkId} {v : W32}
theorem State.setPeerExpect_locked (h : (s.fn 0).setupLock = true) : s.setPeerExpect l v = s.logs Code.regLocked 0 := if_pos h
variable (h : (s.fn 0).setupLock = false)
include h
theorem State.setPeerExpect_noPort (hp : 5 < fld (v &&& 0x80071FFF) 18 16) : s.setPeerExpect l v = s.logs Code.setupRejected 0 :=
  (if_neg (ne_true_of_eq_false h)).trans (if_pos hp)
/-- A new value of a link in OFF is compared with nothing while the topology and the chip id are not valid. -/
theorem State.setPeerExpect_stored (hp : fld (v &&& 0x80071FFF) 18 16 ≤ 5) (hne : v &&& 0x80071FFF ≠ (s.link l).peerExpect)
    (hf : s.peerFixed l = false) (hi : s.idsValid = false) (ho : (s.link l).stage = .off) :
    s.setPeerExpect l v = s.modLink l (fun k => { k with peerExpect := v &&& 0x80071FFF, conflict := false }) := by
  have unchecked (t : State) (ht : t.idsValid = false) : t.checkPeer l = t := by simp only [State.checkPeer, ht, Bool.not_false, if_true]
  refine (if_neg (ne_true_of_eq_false h)).trans ((if_neg (Nat.not_lt.2 hp)).trans ((if_neg (by simpa using hne)).trans ?_))
  simp only [hf, Bool.false_eq_true, if_false]
  rw [unchecked (s.modLink l _) hi]
  simp only [State.modLink_link, ho]
end

/-! The rows. -/

theorem exec_linkReset (s : State) (l : LinkId) : exec (.linkReset l) s = s.overHost (·.linkReset l) := rfl
theorem exec_retrain (s : State) (l : LinkId) : exec (.retrain l) s = s.overHost (·.retrain l) := rfl
theorem exec_zlCtrlEnable (s : State) (l : LinkId) (b : Bool) : exec (.zlCtrlEnable l b) s = s.overHost (·.linkEnable l b) := rfl
theorem exec_zlPeerExpect (s : State) (l : LinkId) (v : W32) : exec (.zlPeerExpect l v) s = s.overHost (·.setPeerExpect l v) := rfl

/-- Settles O31: each clause is what its write makes of the link, over lanes that are up. -/
theorem linkControlAndExpectedPeer : Obligations.LinkControlAndExpectedPeer := by
  intro s l
  simp only [exec_linkReset, exec_retrain, exec_zlCtrlEnable, exec_zlPeerExpect]
  refine ⟨fun hd => ?_, fun hu => ?_⟩
  · exact ⟨State.overHost_down _ hd, State.overHost_down _ hd, fun _ => State.overHost_down _ hd, fun _ => State.overHost_down _ hd⟩
  · simp only [State.overHost_up _ hu, Host.Outcome.next.injEq]
    have hp := State.mainPg_of_hostLanes hu
    exact ⟨State.linkReset_down, State.linkReset_ignored, fun h he => (State.retrain_ended h).trans (State.listenOrOff_listen he hp),
      fun h => State.linkEnable_off h hp, State.linkEnable_up,
      fun v => ⟨State.setPeerExpect_locked, State.setPeerExpect_noPort, State.setPeerExpect_stored⟩⟩

end Sys2Proof.Machine
end

section
/-! SUPPORT and the statement of training, from ALIGN to UP (R193, R201, R204, R211, R212, R219, R221 to R223, R233). -/

namespace Sys2Proof.Machine

/-! Lanes that are marked (R213, R221). -/

theorem State.logMarked_log (s : State) (l : LinkId) (n : Nat) : ∃ g, s.logMarked l n = { s with log := g } := by
  induction n generalizing s with
  | zero => exact ⟨s.log, rfl⟩
  | succ n ih =>
    obtain ⟨g, hg⟩ := ih (s.logs Code.laneMarked 0 (linkPlace l))
    exact ⟨g, hg⟩
theorem State.logMarked_link (s : State) (l m : LinkId) (n : Nat) : (s.logMarked l n).link m = s.link m := by
  obtain ⟨g, hg⟩ := s.logMarked_log l n
  rw [hg]; rfl
theorem State.logMarked_idsValid (s : State) (l : LinkId) (n : Nat) : (s.logMarked l n).idsValid = s.idsValid := by
  obtain ⟨g, hg⟩ := s.logMarked_log l n
  rw [hg]; rfl
/-- Against a direction with every lane good, the lanes marked are those that are not good. -/
theorem Lanes.marked_fresh (k next : Lanes) : ({ k with states := Vector.replicate 18 .spare } : Lanes).marked next =
    ((List.finRange 18).filter (fun i => !next.states[i].good)).length := by
  simp [Lanes.marked, LaneState.good]

/-! IDENTIFY is reached (R233). -/

section
variable {s : State} {l : LinkId}
theorem State.enterIdentify_valid (h : s.idsValid = true) :
    s.enterIdentify l = s.modLink l (fun k => { k with stage := .identify, chipUnsetLogged := false }) := if_pos h
/-- Without a valid topology and chip id the link waits in MISWIRED; the first of an episode is logged. -/
theorem State.enterIdentify_unset (h : s.idsValid = false) (hl : (s.link l).chipUnsetLogged = false) :
    s.enterIdentify l = (s.modLink l (fun k => { k with stage := .miswired, chipUnsetLogged := true })).logs Code.chipIdUnset 0 (linkPlace l) := by
  simp only [State.enterIdentify, h, hl, Bool.false_eq_true, if_false, Bool.not_false, if_true]
end

/-! ALIGN_DONE (R221). -/

section
variable {s w : State} {l : LinkId} {tx rx : Vector LaneFound 18} (h : (s.link l).stage = .align)
  (hw : w = (s.modLink l (fun k => { k with tx := k.tx.aligned tx, rx := k.rx.aligned rx })).logMarked l
    (((List.finRange 18).filter (fun i => !((s.link l).tx.aligned tx).states[i].good)).length +
      ((List.finRange 18).filter (fun i => !((s.link l).rx.aligned rx).states[i].good)).length))
include hw
theorem alignDone_link : w.link l = { s.link l with tx := (s.link l).tx.aligned tx, rx := (s.link l).rx.aligned rx } := by
  rw [hw, State.logMarked_link, State.modLink_link]
include h
theorem exec_alignDone_align : exec (.alignDone l tx rx) s = .next (
    if ((s.link l).tx.aligned tx).enough ∧ ((s.link l).rx.aligned rx).enough then w.enterIdentify l else w.trainFault l Code.linkFault) := by
  have hl := alignDone_link hw
  show execAlignDone l tx rx s = _
  simp only [execAlignDone, h, bne_self_eq_false, Bool.false_eq_true, if_false, Lanes.marked_fresh, ← hw, hl, Bool.and_eq_true]
end

/-! IDENTIFY_DONE (R222). -/

/-- Is the identity that a partner sent the one expected of it? -/
def State.expects (s : State) (l : LinkId) (m : W32) (chip : BitVec 13) (port : BitVec 3) : Bool :=
  m == s.mgt.machineId && bit (s.link l).peerExpect 31 && !(s.link l).conflict && fld (s.link l).peerExpect 18 16 == port.toNat
    && fld (s.link l).peerExpect 12 0 == chip.toNat
theorem State.expects_iff {s : State} {l : LinkId} {m : W32} {chip : BitVec 13} {port : BitVec 3} : s.expects l m chip port = true ↔
    m = s.mgt.machineId ∧ bit (s.link l).peerExpect 31 = true ∧ (s.link l).conflict = false ∧
      fld (s.link l).peerExpect 18 16 = port.toNat ∧ fld (s.link l).peerExpect 12 0 = chip.toNat := by
  simp [State.expects, and_assoc]
theorem State.not_expects {s : State} {l : LinkId} {m : W32} {chip : BitVec 13} {port : BitVec 3} : ¬s.expects l m chip port = true ↔
    m ≠ s.mgt.machineId ∨ bit (s.link l).peerExpect 31 = false ∨ (s.link l).conflict = true ∨
      fld (s.link l).peerExpect 18 16 ≠ port.toNat ∨ fld (s.link l).peerExpect 12 0 ≠ chip.toNat := by
  simp only [State.expects_iff, not_and_or, Bool.not_eq_true, Bool.not_eq_false, ne_eq]
theorem exec_identifyDone_identify {s : State} {l : LinkId} {m : W32} {chip : BitVec 13} {port : BitVec 3} {seen : W64}
    (h : (s.link l).stage = .identify) (hi : s.idsValid = true)
    (hs : seen = BitVec.ofNat 64 (m.toNat * 2 ^ 32 + 2 ^ 31 + port.toNat * 2 ^ 16 + chip.toNat)) :
    exec (.identifyDone l m chip port) s = .next (
      if s.expects l m chip port then s.modLink l (fun k => { k with peerSeen := seen, stage := .train })
      else (s.modLink l (fun k => { k with peerSeen := seen, stage := .miswired })).hand Code.linkMiswired 0 (.count seen) (linkPlace l)) := by
  have hv : (s.modLink l (fun k => { k with peerSeen := seen })).idsValid = true := hi
  show execIdentifyDone l m chip port s = _
  simp only [execIdentifyDone, h, bne_self_eq_false, Bool.false_eq_true, if_false, ← hs, hv, Bool.not_true, State.modLink_link,
    State.modLink_mgt, State.modLink_modLink]
  rfl

/-! TRAIN_DONE (R193, R219). -/

section
variable {s w : State} {l : LinkId} {nt nr : BitVec 18} (h : (s.link l).stage = .train)
  (hw : w = (s.modLink l (fun k => { k with tx := k.tx.trained nt, rx := k.rx.trained nr })).logMarked l
    ((s.link l).tx.marked ((s.link l).tx.trained nt) + (s.link l).rx.marked ((s.link l).rx.trained nr)))
include h hw
theorem exec_trainDone_train : exec (.trainDone l nt nr) s = .next (
    if ((s.link l).tx.trained nt).enough ∧ ((s.link l).rx.trained nr).enough then w.modLink l (fun k => { k with stage := .check })
    else w.trainFault l Code.linkFault) := by
  have hl : w.link l = { s.link l with tx := (s.link l).tx.trained nt, rx := (s.link l).rx.trained nr } := by
    rw [hw, State.logMarked_link, State.modLink_link]
  show execTrainDone l nt nr s = _
  simp only [execTrainDone, h, bne_self_eq_false, Bool.false_eq_true, if_false, ← hw, hl, Bool.and_eq_true]
end

/-! CHECK_DONE (R212, R223). -/

section
variable {s : State} {l : LinkId} {good : Bool} {delay : BitVec 16} {e : Byte} (h : (s.link l).stage = .check)
include h
theorem exec_checkDone_slow (hd : 200 * 256 < delay.toNat) : exec (.checkDone l good delay e) s = .next
    ((s.modLink l (fun k => { k with delay := delay, stage := .fault })).logs Code.delayLimit 0 (linkPlace l)) := by
  show execCheckDone l good delay e s = _
  simp only [execCheckDone, h, bne_self_eq_false, Bool.false_eq_true, if_false, hd, if_true, State.trainFault, State.modLink_modLink]
  rfl
/-- With no start armed, nothing is sent at the entry into UP. -/
theorem exec_checkDone_up (hd : delay.toNat ≤ 200 * 256) (hj : ∀ j ∈ s.jobs, j.phase ≠ .armed) : exec (.checkDone l true delay e) s = .next
    ((s.modLink l (fun k => { k with delay := delay }.start e)).logs Code.linkUp 0 (linkPlace l)) := by
  have none_armed : s.jobs.filter (fun j => j.phase == .armed) = [] := by simpa using hj
  show execCheckDone l true delay e s = _
  simp only [execCheckDone, h, bne_self_eq_false, Bool.false_eq_true, if_false, Nat.not_lt.2 hd, Bool.not_true, State.modLink_modLink,
    State.logs_jobs, State.modLink_jobs, none_armed, List.foldl_nil]
  rfl
end

theorem not_both {a b : Bool} (h : a = false ∨ b = false) : ¬(a = true ∧ b = true) := by
  obtain rfl | rfl := h <;> simp

/-- Settles O30: a stage goes on as its row says, and UP is what `Link.start` makes of the link. -/
theorem trainingReachesUp : Obligations.TrainingReachesUp := by
  refine fun s l => ⟨fun tx rx w h hw => ?align, fun m chip port seen h hi hs => ?identify, fun nt nr w h hw => ?train,
    fun good delay e h => ⟨?up, exec_checkDone_slow h⟩⟩
  case align =>
    have hids : w.idsValid = s.idsValid := by rw [hw, State.logMarked_idsValid]; rfl
    rw [exec_alignDone_align h hw]
    refine ⟨fun ht hr => ?_, fun hbad => ?_⟩
    · rw [if_pos ⟨ht, hr⟩]
      refine ⟨fun hi => congrArg _ (State.enterIdentify_valid (hids.trans hi)),
        fun hi hc => congrArg _ (State.enterIdentify_unset (hids.trans hi) ?_)⟩
      rw [alignDone_link hw]
      exact hc
    · rw [if_neg (not_both hbad)]
      rfl
  case identify =>
    rw [exec_identifyDone_identify h hi hs]
    exact ⟨fun hk => congrArg _ (if_pos (State.expects_iff.2 hk)), fun hk => congrArg _ (if_neg (State.not_expects.2 hk))⟩
  case train =>
    rw [exec_trainDone_train h hw]
    refine ⟨fun ht hr => congrArg _ (if_pos ⟨ht, hr⟩), fun hbad => congrArg _ (if_neg (not_both hbad))⟩
  case up =>
    rintro rfl hd hj
    refine ⟨_, exec_checkDone_up h hd hj, ?_⟩
    simp only [State.logs_link, State.modLink_link, State.logs_jobs, State.logs_parts]
    exact ⟨rfl, rfl, rfl, rfl, rfl, rfl, rfl, rfl, rfl, rfl, rfl, fun m hm => State.modLink_link_other _ _ _ _ hm.symm, rfl, rfl⟩

end Sys2Proof.Machine
end

section
/-! SUPPORT and the statement of how a link goes down and leaves DOWN (R196, R211, R216, R217, R219, R224, Tables 09-5, 09-6). -/

namespace Sys2Proof.Machine

/-! A link that carries no work of the package (Table 09-5). -/

@[simp] theorem State.answerDown_inside (s : State) (l : LinkId) (c : Cell) : (s.answerDown l c).inside = s.inside := by
  unfold State.answerDown
  dsimp only
  (repeat' split) <;> rfl

section
variable {s : State} {l : LinkId}

/-- What is on the rings and does not go with the link stays. -/
theorem State.dropUnits_none (ht : ∀ u ∈ s.infield.transit, u.dropsWith l = false) (hf : ∀ f ∈ s.infield.flights, f.burst.station.val ≠ l.val) :
    s.modInfield (fun i => { i with
      transit := i.transit.filter (fun u => !u.dropsWith l), flights := i.flights.filter (fun f => f.burst.station.val != l.val) }) = s := by
  have transit : s.infield.transit.filter (fun u => !u.dropsWith l) = s.infield.transit :=
    List.filter_eq_self.2 fun u hu => by simp [ht u hu]
  have flights : s.infield.flights.filter (fun f => f.burst.station.val != l.val) = s.infield.flights :=
    List.filter_eq_self.2 fun f hx => by simpa using hf f hx
  simp only [State.modInfield, transit, flights]
theorem State.linkDrop_idle (ht : ∀ u ∈ s.infield.transit, u.dropsWith l = false)
    (hf : ∀ f ∈ s.infield.flights, f.burst.station.val ≠ l.val) (hr : s.infield.requests = []) :
    s.linkDrop l = ((s.link l).replayed s.chip).foldl (fun t c => t.answerDown l c) (s.modLink l Link.dropped) := by
  have gone : s.infield.transit.filter (fun u => u.dropsWith l) = [] := List.filter_eq_nil_iff.2 fun u hu => by simp [ht u hu]
  simp only [State.linkDrop, gone, State.requestsOn, hr, List.filter_nil, List.filterMap_nil, List.append_nil, List.foldl_nil,
    State.dropUnits_none ht hf]
theorem State.linkLost_idle (hj : s.jobs = []) (ht : s.treeLink l = false) (k : Link) : s.linkLost l k = s := by
  have ownerless : s.ownerRun l = none := by cases ho : (s.link l).owner <;> simp [State.ownerRun, State.job?, hj, ho]
  simp only [State.linkLost, hj, ht, ownerless, List.filter_nil, List.foldl_nil, Option.filter_none, Bool.false_eq_true, if_false]
/-- A link without work of the package drops what it holds; what its partner had sent and not been answered is answered. -/
theorem State.linkDown_idle {c : W16} (ht : ∀ u ∈ s.infield.transit, u.dropsWith l = false)
    (hf : ∀ f ∈ s.infield.flights, f.burst.station.val ≠ l.val) (hr : s.infield.requests = []) (hj : s.jobs = []) (htree : s.treeLink l = false) :
    s.linkDown l c = ((s.link l).replayed s.chip).foldl (fun t q => t.answerDown l q) ((s.logs c 0 (linkPlace l)).modLink l Link.dropped) := by
  have vf : (s.link l).owner.bind s.job? = none := by cases ho : (s.link l).owner <;> simp [State.job?, hj]
  have chip : (s.logs c 0 (linkPlace l)).chip = s.chip := by simp only [State.chip, State.logs_mgt]
  have drop : (s.logs c 0 (linkPlace l)).linkDrop l = _ := State.linkDrop_idle (by rwa [State.logs_infield]) (by rwa [State.logs_infield])
    (by rwa [State.logs_infield])
  rw [State.logs_link, chip] at drop
  obtain ⟨-, jobs, -, pace⟩ := State.inside_eq (foldl_keeps State.inside (fun t q => t.answerDown_inside l q) ((s.link l).replayed s.chip)
    ((s.logs c 0 (linkPlace l)).modLink l Link.dropped))
  simp only [State.linkDown, vf, drop]
  refine State.linkLost_idle (jobs.trans ?_) ?_ _
  · simp only [State.modLink_jobs, State.logs_jobs, hj]
  · simpa only [State.treeLink, pace, State.modLink_pace, State.logs_pace] using htree
end

/-- A request of another package in a frame that is not acknowledged is answered. -/
theorem Link.mem_replayed {k : Link} {own : BitVec 13} {e : ReplayEntry} {q : Cell} (he : e ∈ k.unacked) (hq : q ∈ e.body.cells)
    (hk : e.body.kind = 3) (hr : q.kind = CellKind.write ∨ q.kind = CellKind.readReq) (hs : q.src ≠ own) : q ∈ k.replayed own := by
  refine List.mem_filter.2 ⟨List.mem_flatMap.2 ⟨e, he, ?_⟩, ?_⟩
  · rwa [if_pos hk]
  · simpa [Cell.foreignRequest, hs] using hr

/-! What takes a link down, and out of DOWN (R196, R216, R219). -/

section
variable {s : State} {l : LinkId} (up : s.up l = true)
include up
theorem exec_signalLost_up : exec (.signalLost l) s = .next (if 3 ≤ (s.link l).badRun then s.linkDown l Code.signalLost else s) := by
  show execSignalLost l s = _
  simp only [execSignalLost, up, Bool.true_and, decide_eq_true_eq]
theorem exec_partnerReset_up : exec (.partnerReset l) s = .next (s.linkDown l Code.partnerReset) := congrArg _ (if_pos up)
theorem exec_presenceChange_unplugged (hp : (s.link l).present = true) (hc : s.landsCut = false) :
    exec (.presenceChange l false) s = .next ((s.modLink l (fun k => { k with present := false })).linkDown l Code.unplugged) := by
  show execPresenceChange l false s = _
  simp [execPresenceChange, hp, hc, State.link_stage up]
end
theorem exec_linkDownComplete_down {s : State} {l : LinkId} (h : (s.link l).stage = .down) :
    exec (.linkDownComplete l) s = .next (s.listenOrOff l) := by
  show execLinkDownComplete l s = _
  simp only [execLinkDownComplete, h, BEq.rfl, if_true]
/-- A change of presence in training begins LISTEN again, or ends in OFF. -/
theorem exec_presenceChange_training {s : State} {l : LinkId} {b : Bool} (h : (s.link l).stage.training = true) (hp : (s.link l).present ≠ b)
    (hc : s.landsCut = false) : exec (.presenceChange l b) s = .next ((s.modLink l (fun k => { k with present := b })).listenOrOff l) := by
  show execPresenceChange l b s = _
  simp only [execPresenceChange, hc, Bool.or_false, beq_iff_eq, hp, if_false, State.modLink_link]
  obtain h | h | h | h := (Stage.training_iff _).1 h <;> simp only [h]

/-- Settles O27: what takes a link down has its lemma above, and of an idle link `State.linkDown_idle` says what is left. -/
theorem linksGoDownAndComeBack : Obligations.LinksGoDownAndComeBack := by
  refine fun s l => ⟨fun up => ⟨fun h3 => ?_, fun h3 => ?_, exec_partnerReset_up up, exec_presenceChange_unplugged up⟩, ?_,
    fun e he q hq hk hr hs => Link.mem_replayed he hq hk hr hs, fun hd he hp => ?_, fun hd h => ?_, fun b h hp hc he hm => ?_⟩
  · rw [exec_signalLost_up up, if_pos h3]
  · rw [exec_signalLost_up up, if_neg (by omega)]
  · rintro c v ht hf hr hj htree rfl
    have hd := State.linkDown_idle (c := c) ht hf hr hj htree
    exact ⟨fun hnone => by rw [hd, hnone]; rfl, fun q hone => by rw [hd, hone]; rfl⟩
  · rw [exec_linkDownComplete_down hd, State.listenOrOff_listen he hp]
    rfl
  · rw [exec_linkDownComplete_down hd, State.listenOrOff_off h]
  · rw [exec_presenceChange_training ((Stage.training_iff _).2 h) hp hc,
      State.listenOrOff_listen (s := s.modLink l _) (by rw [State.modLink_link]; exact he) hm, State.modLink_modLink]
    rfl

end Sys2Proof.Machine
end

section
/-! SUPPORT and the statement of the lanes that fail and are spared (R193, R213 to R215, Table 18-5). -/

namespace Sys2Proof.Machine

/-- The lanes of a direction, and what a change of them makes of the link. -/
def Link.lanes (k : Link) : LaneDir → Lanes
  | .tx => k.tx
  | .rx => k.rx
def Link.modLanes (k : Link) (dir : LaneDir) (f : Lanes → Lanes) : Link :=
  match dir with
  | .tx => { k with tx := f k.tx }
  | .rx => { k with rx := f k.rx }

/-! What a direction finds (R213). -/

theorem Link.finds_txShort (k : Link) (i : LaneIx) : k.finds .tx i .short = true := rfl
theorem Link.finds_rxOpen (k : Link) (i : LaneIx) : k.finds .rx i .openLane = true := rfl
theorem Link.finds_rxNoisy {k : Link} {i : LaneIx} : k.finds .rx i .noisy = true ↔
    k.rx.states[i] = .spare ∨ k.laneErrNow.toNat < k.rx.errors[i] ∨ 4 ≤ k.uncorrRun[i] := by
  simp [Link.finds, or_assoc]

/-! LANE_FAILURE (R213 to R215). -/

section
variable {s : State} {l : LinkId} {dir : LaneDir} {i : LaneIx} {kind : LaneFault}
theorem exec_laneFailure_unfound (h : (s.link l).finds dir i kind = false) : exec (.laneFailure l dir i kind) s = .next s := by
  show execLaneFailure l dir i kind s = _
  simp only [execLaneFailure, h, Bool.not_false, Bool.or_true, if_true]
variable (up : s.up l = true) (h : (s.link l).finds dir i kind = true)
include up h
theorem exec_laneFailure_spare (hi : ((s.link l).lanes dir).states[i] = .spare) : exec (.laneFailure l dir i kind) s = .next
    ((s.modLink l (fun k => k.modLanes dir (fun d => { d with states := vset d.states i (laneStateOf kind) }))).logs
      Code.laneMarked 0 (linkPlace l)) := by
  show execLaneFailure l dir i kind s = _
  simp only [execLaneFailure, up, h, Bool.not_true, Bool.or_self, Bool.false_eq_true, if_false]
  cases dir <;> rw [Link.lanes] at hi <;> simp only [hi] <;> rfl
variable {n : Fin 16} (hi : ((s.link l).lanes dir).states[i] = .active)
  (hn : (List.finRange 16).find? (fun n => ((s.link l).lanes dir).logical[n] == i) = some n)
include hi hn
/-- An active lane fails in its logical lane: a transmitter announces a swap, a receiver asks for one while a spare is left for it. -/
theorem exec_laneFailure_active : exec (.laneFailure l dir i kind) s = .next (
    if dir = .tx then s.announceSwap l n kind
    else if (s.link l).rx.pendingSwap.any (fun x => x.lane == n) then s
    else if (s.link l).rx.spares ≤ (s.link l).rx.pendingSwap.length then s.linkDown l Code.lanesExhausted
    else s.modLink l (fun k => { k with
      rx := { k.rx with pendingSwap := k.rx.pendingSwap ++ [{ lane := n, kind := kind, at_ := none }] } })) := by
  show execLaneFailure l dir i kind s = _
  simp only [execLaneFailure, up, h, Bool.not_true, Bool.or_self, Bool.false_eq_true, if_false]
  cases dir <;> simp only [Link.lanes] at hi hn <;> simp only [hi, hn] <;> rfl
end

/-- The first swap that is announced has the boundary, the others none yet (R215). -/
theorem State.announceSwap_new {s : State} {l : LinkId} {n : Fin 16} (kind : LaneFault)
    (new : (s.link l).tx.pendingSwap.any (fun x => x.lane == n) = false) : s.announceSwap l n kind =
      if (s.link l).tx.spares ≤ (s.link l).tx.pendingSwap.length then s.linkDown l Code.lanesExhausted
      else s.modLink l (fun k => { k with
        tx := { k.tx with pendingSwap := k.tx.pendingSwap ++
          [{ lane := n, kind := kind, at_ := if (s.link l).tx.pendingSwap = [] then some (s.swapBoundary l) else none }] } }) := by
  simp only [State.announceSwap, new, Bool.false_eq_true, if_false]
  refine if_congr Iff.rfl rfl (State.modLink_congr ?_)
  simp only [List.isEmpty_iff]

/-! LANE_SWAP (R214, R215). -/

/-- What a swap leaves announced: the next of a transmit direction gets its boundary. -/
def State.swapsLeft (s : State) (l : LinkId) : LaneDir → List LaneSwap → List LaneSwap
  | .tx, y :: ys => { y with at_ := some (s.swapBoundary l) } :: ys
  | _, rest => rest

section
variable {s : State} {l : LinkId} {dir : LaneDir} {x : LaneSwap} {rest : List LaneSwap} {n : Nat}
  (hp : ((s.link l).lanes dir).pendingSwap = x :: rest) (hx : x.at_ = some n)
include hp hx
theorem exec_laneSwap_early (h : s.swapReached l dir n = false) : exec (.laneSwap l dir) s = .next s := by
  show execLaneSwap l dir s = _
  simp only [execLaneSwap]
  cases dir <;> rw [Link.lanes] at hp <;> simp only [hp, hx, h, Bool.not_false, Bool.or_true, if_true]
theorem exec_laneSwap_due {i : LaneIx} (up : s.up l = true) (h : s.swapReached l dir n = true)
    (hi : ((s.link l).lanes dir).nextSpare = some i) : exec (.laneSwap l dir) s = .next ((s.modLink l (fun k => k.modLanes dir (fun d =>
      { d with
        states := vset (vset d.states d.logical[x.lane] (laneStateOf x.kind)) i .active
        logical := vset d.logical x.lane i
        pendingSwap := s.swapsLeft l dir rest
        lastSwap := some (x.lane, n)
        swapped := d.swapped + 1 }))).logs Code.laneSpared 0 (linkPlace l)) := by
  show execLaneSwap l dir s = _
  simp only [execLaneSwap]
  cases dir <;> rw [Link.lanes] at hp hi <;>
    simp only [hp, hx, up, h, Bool.not_true, Bool.or_self, Bool.false_eq_true, if_false, hi] <;> cases rest <;> rfl
end

theorem State.swapReached_tx (s : State) (l : LinkId) (n : Nat) : s.swapReached l .tx n = true ↔ n ≤ s.pace.count.toNat := decide_eq_true_iff
theorem State.swapReached_rx (s : State) (l : LinkId) (n : Nat) : s.swapReached l .rx n = true ↔
    if s.locked l then n + wholeBeats s.pace.grade (s.link l).delay ≤ s.pace.count.toNat else n ≤ (s.link l).heard + 1 := by
  simp only [State.swapReached]
  split <;> exact decide_eq_true_iff

/-- The spare that a swap takes is a spare lane, that of the transmitter's lowest numbered lane (R214). -/
theorem Lanes.nextSpare_lowest {d : Lanes} {i : LaneIx} (h : d.nextSpare = some i) : d.states[i] = .spare ∧
    ∀ m : LaneIx, d.states[m] = .spare → (d.carrier[i]).val ≤ (d.carrier[m]).val := by
  obtain ⟨t, ht, hi⟩ := Option.bind_eq_some_iff.1 h
  have hfound : d.states[i] = .spare ∧ d.carrier[i] = t := by simpa using List.find?_some hi
  refine ⟨hfound.1, fun m hm => ?_⟩
  by_contra hlt
  rw [hfound.2] at hlt
  obtain ⟨-, before, after, hsplit, hbefore⟩ := List.find?_eq_some_iff_append.1 ht
  have hmem : d.carrier[m] ∈ before ++ t :: after := hsplit ▸ List.mem_finRange _
  have hsorted : (before ++ t :: after).Pairwise (· < ·) := hsplit ▸ List.pairwise_lt_finRange 18
  obtain hin | hin := List.mem_append.1 hmem
  · have unclaimed : ∀ n : LaneIx, d.states[n] = .spare → d.carrier[n] ≠ d.carrier[m] := by simpa using hbefore _ hin
    exact unclaimed m hm rfl
  · obtain he | hin := List.mem_cons.1 hin
    · exact hlt (he ▸ le_rfl)
    · exact hlt (List.rel_of_pairwise_cons (List.pairwise_append.1 hsorted).2.1 hin).le

/-- Settles O28: each clause is the lemma of what its direction finds, and of the swap whose boundary has come or not. -/
theorem lanesAreSparedInOrder : Obligations.LanesAreSparedInOrder := by
  refine fun s l up => ⟨fun i kind hk hi => ?rxSpare, fun i hi => exec_laneFailure_spare (dir := .tx) up rfl hi,
    fun i => ⟨exec_laneFailure_unfound rfl, exec_laneFailure_unfound rfl, exec_laneFailure_unfound rfl, fun ha he hu => ?noise⟩,
    fun i kind n hi hk hn new => ?rxActive, fun i n hi hn new => ?txActive, fun x rest n hp hx => ⟨fun he => ?txEarly, fun i hn hi => ?txSwap⟩,
    fun x rest n hp hx he => ?rxEarly, fun x rest n i hp hx hn hi => ?rxSwap, fun d i => Lanes.nextSpare_lowest⟩
  case rxSpare =>
    refine exec_laneFailure_spare (dir := .rx) up ?_ hi
    cases kind
    · exact Link.finds_rxOpen _ i
    · exact absurd rfl hk
    · exact Link.finds_rxNoisy.2 (.inl hi)
  case noise =>
    refine exec_laneFailure_unfound (Bool.eq_false_iff.2 (mt Link.finds_rxNoisy.1 ?_))
    rintro (h | h | h)
    · exact absurd (ha.symm.trans h) (by decide)
    · exact absurd h (Nat.not_lt.2 he)
    · exact absurd hu (Nat.not_lt.2 h)
  case rxActive =>
    have finds : (s.link l).finds .rx i kind = true := by
      obtain rfl | ⟨rfl, h⟩ := hk
      · exact Link.finds_rxOpen _ i
      · exact Link.finds_rxNoisy.2 (.inr h)
    rw [exec_laneFailure_active (dir := .rx) up finds hi hn, if_neg (by decide), if_neg (ne_true_of_eq_false new)]
    exact ⟨fun h => congrArg _ (if_neg (Nat.not_le.2 h)), fun h => congrArg _ (if_pos h)⟩
  case txActive =>
    rw [exec_laneFailure_active (dir := .tx) up (Link.finds_txShort _ i) hi hn, if_pos rfl, State.announceSwap_new .short new]
    exact ⟨fun h => congrArg _ (if_neg (Nat.not_le.2 h)), fun h => congrArg _ (if_pos h)⟩
  case txEarly => exact exec_laneSwap_early hp hx (Bool.eq_false_iff.2 (mt (s.swapReached_tx l n).1 (Nat.not_le.2 he)))
  case txSwap =>
    rw [exec_laneSwap_due (dir := .tx) hp hx up ((s.swapReached_tx l n).2 hn) hi]
    cases rest <;> rfl
  case rxEarly =>
    refine exec_laneSwap_early hp hx (Bool.eq_false_iff.2 (mt (s.swapReached_rx l n).1 ?_))
    obtain ⟨hl, he⟩ | ⟨hl, he⟩ := he
    · rw [if_pos hl]; exact Nat.not_le.2 he
    · rw [if_neg (ne_true_of_eq_false hl)]; exact Nat.not_le.2 he
  case rxSwap => exact exec_laneSwap_due (dir := .rx) hp hx up ((s.swapReached_rx l n).2 hn) hi

end Sys2Proof.Machine
end

section
/-! SUPPORT. How a received frame passes the elastic buffer and the link part, and the timers of replay (R196, R197, R200 to R205, R207, R210, R212,
R213). -/

namespace Sys2Proof.Machine

/-! Updates of a link that change nothing that is asked of it. -/

theorem State.modLink_same {s : State} {l : LinkId} {f : Link → Link} (h : f (s.link l) = s.link l) : s.modLink l f = s := by
  have hv : vmod s.links l f = s.links := by
    rw [vmod, show f s.links[l] = s.links[l] from h]
    exact Vector.set_getElem_self _
  simp only [State.modLink, hv]
/-- The link is in locked mode by its owner and the pace tree alone. -/
theorem State.modLink_locked {s : State} {l : LinkId} {f : Link → Link} (h : (f (s.link l)).owner = (s.link l).owner) :
    (s.modLink l f).locked l = s.locked l := by
  simp only [State.locked, State.modLink_link, h]
  rfl
theorem State.modLink_up {s : State} {l : LinkId} {f : Link → Link} (h : (f (s.link l)).stage = (s.link l).stage) :
    (s.modLink l f).up l = s.up l := by
  simp only [State.up, State.modLink_link, h]

/-! The receiver's fill (R196). -/

/-- Only the fill changes, and what stands of its change. -/
theorem Link.fillAt_eq (k : Link) (c : Nat) : ∃ gap regrade, k.fillAt c = { k with gap := gap, regrade := regrade } := by
  unfold Link.fillAt
  split
  · split
    · exact ⟨_, _, rfl⟩
    · exact ⟨k.gap, k.regrade, rfl⟩
  · exact ⟨k.gap, k.regrade, rfl⟩
theorem Link.fillAt_regrade {k : Link} {n : Nat} {g : BitVec 4} (h : k.regrade = some (n, g)) (c : Nat) :
    k.fillAt c = if n ≤ c then { k with gap := g, regrade := none } else k := by
  simp only [Link.fillAt, h]

/-! The elastic buffer (R197). -/

theorem State.presentDue_cons {s : State} {l : LinkId} {raw : RawFrame} {phase : BitVec 16} {rest : List (RawFrame × BitVec 16)} (n : Nat)
    (up : s.up l = true) (h : (s.link l).elastic = (raw, phase) :: rest) : s.presentDue (n + 1) l =
      if s.early l raw then s else ((s.modLink l (fun k => { k with elastic := rest })).present l raw phase).presentDue n l := by
  simp only [State.presentDue, h, up, Bool.not_true, Bool.false_or]

section
variable {s : State} {l : LinkId} {raw : RawFrame} {phase : BitVec 16} (up : s.up l = true)
include up
theorem exec_frameReceive_full (h : 8 ≤ (s.link l).elastic.length) : exec (.frameReceive l raw phase) s = .next (s.domainFault Code.drift) := by
  show execFrameReceive l raw phase s = _
  simp only [execFrameReceive, up, Bool.not_true, Bool.false_eq_true, if_false, if_pos h]

variable (empty : (s.link l).elastic = [])
include empty
/-- A frame that finds the buffer empty waits in it when it is a beat early, else it is presented. -/
theorem exec_frameReceive_empty : exec (.frameReceive l raw phase) s = .next (
    if s.early l raw then s.modLink l (fun k => { k with elastic := [(raw, phase)] })
    else (s.present l raw phase).presentDue 7 l) := by
  have queued : s.modLink l (fun k => { k with elastic := k.elastic ++ [(raw, phase)] })
      = s.modLink l (fun k => { k with elastic := [(raw, phase)] }) := State.modLink_congr (by rw [empty, List.nil_append])
  have hup : (s.modLink l (fun k => { k with elastic := [(raw, phase)] })).up l = true := (State.modLink_up rfl).trans up
  have early : (s.modLink l (fun k => { k with elastic := [(raw, phase)] })).early l raw = s.early l raw := by
    simp only [State.early, State.modLink_locked (f := fun k => { k with elastic := [(raw, phase)] }) (s := s) (l := l) rfl, State.modLink_link,
      State.modLink_pace]
  have taken : (s.modLink l (fun k => { k with elastic := [(raw, phase)] })).modLink l (fun k => { k with elastic := [] }) = s := by
    rw [State.modLink_modLink]
    exact State.modLink_same (by simp only [Function.comp_apply, ← empty])
  show execFrameReceive l raw phase s = _
  simp only [execFrameReceive, up, Bool.not_true, Bool.false_eq_true, if_false, empty, List.length_nil, queued]
  rw [if_neg (by decide), State.presentDue_cons 7 hup (by rw [State.modLink_link]), early, taken]
theorem exec_frameReceive_early (h : s.early l raw = true) : exec (.frameReceive l raw phase) s = .next
    (s.modLink l (fun k => { k with elastic := [(raw, phase)] })) := by
  rw [exec_frameReceive_empty up empty, if_pos h]
/-- A frame that is due is presented, and no other when none waits after it. -/
theorem exec_frameReceive_due {t : State} (h : s.early l raw = false) (ht : s.present l raw phase = t) (he : (t.link l).elastic = []) :
    exec (.frameReceive l raw phase) s = .next t := by
  rw [exec_frameReceive_empty up empty, if_neg (ne_true_of_eq_false h), ht, State.presentDue_empty 7 he]
end

/-! A frame that is presented (R200 to R205, R211 to R214). -/

/-- The state in which a presented frame is checked: the fill of its grade, no beat since it, and its corrected bytes counted. -/
def State.opened (s : State) (l : LinkId) (raw : RawFrame) : State :=
  s.modLink l (fun k => { k.fillAt s.pace.count.toNat with
    sincePresented := if s.locked l then some 0 else none
    rx := k.rx.countFixed (decodeLinkFrame raw).fixed })
theorem State.opened_link (s : State) (l : LinkId) (raw : RawFrame) : ∃ gap regrade since rx, (s.opened l raw).link l =
    { s.link l with gap := gap, regrade := regrade, sincePresented := since, rx := rx } := by
  obtain ⟨gap, regrade, h⟩ := (s.link l).fillAt_eq s.pace.count.toNat
  exact ⟨gap, regrade, _, _, by rw [State.opened, State.modLink_link, h]⟩
theorem State.opened_elastic (s : State) (l : LinkId) (raw : RawFrame) : ((s.opened l raw).link l).elastic = (s.link l).elastic := by
  obtain ⟨_, _, _, _, h⟩ := s.opened_link l raw
  rw [h]
theorem State.opened_partnerEpoch (s : State) (l : LinkId) (raw : RawFrame) :
    ((s.opened l raw).link l).partnerEpoch = (s.link l).partnerEpoch := by
  obtain ⟨_, _, _, _, h⟩ := s.opened_link l raw
  rw [h]

section
variable {s : State} {l : LinkId} {raw : RawFrame} {phase : BitVec 16}
theorem State.present_bad (h : (decodeLinkFrame raw).good = false) : s.present l raw phase =
    (s.opened l raw).modLink l (·.badFrame (decodeLinkFrame raw).sound (decodeLinkFrame raw).fixed) := by
  simp only [State.present, h, Bool.not_false, if_true]
  rfl

variable {f : FrameParts} (good : (decodeLinkFrame raw).good = true) (hf : f = (decodeLinkFrame raw).parts)
include good hf
theorem State.present_otherEpoch (h : f.epoch ≠ (s.link l).partnerEpoch) : s.present l raw phase =
    (s.opened l raw).modLink l (fun k => { k.goodFrame with epochDrop := satInc k.epochDrop }) := by
  rw [← s.opened_partnerEpoch l raw] at h
  simp only [State.present, good, ← hf, Bool.not_true, Bool.false_eq_true, if_false]
  exact if_pos (bne_iff_ne.2 h)

variable {u v : State} (epoch : f.epoch = (s.link l).partnerEpoch)
  (ack : ((s.opened l raw).modLink l (fun k => { k.goodFrame with gap := f.gap, heard := f.pace0.toNat })).ackIn l f = (u, true))
  (hv : v = ((u.modLink l (fun k => k.creditIn f)).swapIn l f).paceIn l f phase) (up : v.up l = true)
include epoch ack hv up
/-- A good frame whose acknowledgement is valid goes on as its sequence number says. -/
theorem State.present_good : s.present l raw phase =
    if f.sequenced = false then v.bodyIn l (v.sentAt l f.pace0.toNat) f.body f.replay
    else if f.seq = (v.link l).expectSeq then
      (v.modLink l (fun k => k.accept f.seq v.pace.count.toNat)).bodyIn l (v.sentAt l f.pace0.toNat) f.body f.replay
    else v.modLink l (fun k =>
      if (f.seq - (v.link l).expectSeq).toNat < 32768 then { k with outOfSeq := satInc k.outOfSeq } else { k with dup := satInc k.dup }) := by
  rw [← s.opened_partnerEpoch l raw] at epoch
  have same : (f.epoch != ((s.opened l raw).link l).partnerEpoch) = false := by simpa using epoch
  simp only [State.opened] at same ack
  simp only [State.present, good, ← hf, Bool.not_true, Bool.false_eq_true, if_false, same, ack, ← hv, up, Bool.not_eq_true']
  split_ifs <;> rfl
end

/-- A bad frame marks the lanes on which alone bytes were corrected, when a codeword of it failed (R213). -/
theorem Link.badFrame_eq (k : Link) (sound : Bool) (fixed : List (Fin 16)) : k.badFrame sound fixed = { k with
    frameBad := satInc k.frameBad
    heard := k.heard + 1
    rrOut := k.rrOut + 1
    ackOut := k.accepted
    sinceAck := 0
    ackFrom := none
    badRun := k.badRun + 1
    uncorrRun := Vector.ofFn (fun i : LaneIx => if sound || fixed.any (fun n => k.rx.logical[n] != i) then 0 else k.uncorrRun[i] + 1) } := by
  simp only [Link.badFrame, Lanes.onlyOn, List.not_all_eq_any_not, bne]

/-! Timers (R197, R204, R207, R210). -/

section
variable {s : State} {l : LinkId} (up : s.up l = true)
include up
theorem State.bufferBeat_locked {n : Nat} (h : (s.link l).sincePresented = some n) (hl : s.locked l = true) :
    s.bufferBeat l = if n < 2 then s.modLink l (fun k => { k with sincePresented := some (n + 1) })
      else (s.modLink l (fun k => { k with sincePresented := none })).domainFault Code.drift := by
  simp only [State.bufferBeat, h, up, hl, Bool.not_true, Bool.or_self, Bool.false_eq_true, if_false]
  obtain h2 | h2 := Nat.lt_or_ge n 2
  · rw [if_neg (Nat.not_le.2 h2), if_pos h2]
  · rw [if_pos h2, if_neg (Nat.not_lt.2 h2)]
theorem exec_ackUpdate_up {c : Nat} (h : (s.link l).ackFrom = some c) : exec (.ackUpdate l) s = .next (
    if c + 128 ≤ s.pace.count.toNat then s.modLink l (fun k => { k with ackOut := k.accepted, sinceAck := 0, ackFrom := none }) else s) := by
  show execAckUpdate l s = _
  simp only [execAckUpdate, up, h, Option.any_some, Bool.true_and, decide_eq_true_eq]
theorem exec_replayTimeout_up {e : ReplayEntry} (h : (s.link l).unacked.head? = some e) (hb : (s.link l).backlog = []) :
    exec (.replayTimeout l) s = .next (
      if 7 ≤ (s.link l).timeouts then s.linkDown l Code.ackLost
      else s.modLink l (fun k => { k with timeouts := k.timeouts + 1, replayPtr := some e.seq.toNat })) := by
  have some_unacked : (s.link l).unacked.isEmpty = false := by
    cases hu : (s.link l).unacked with
    | nil => simp [hu] at h
    | cons => rfl
  show execReplayTimeout l s = _
  simp only [execReplayTimeout, up, some_unacked, hb, List.isEmpty_nil, Bool.not_true, Bool.or_self, Bool.false_eq_true, if_false]
  refine congrArg _ (if_congr Iff.rfl rfl (State.modLink_congr ?_))
  simp only [h, Option.map_some]
theorem exec_spillAbandoned_up (h : s.awaitsAcks l = true ∨ (s.link l).spillLost = true) :
    exec (.spillAbandoned l) s = .next (s.linkDown l Code.spillAbandoned) := by
  show execSpillAbandoned l s = _
  simp only [execSpillAbandoned, up, Bool.true_and, if_pos (Bool.or_eq_true_iff.2 h)]
end

end Sys2Proof.Machine
end

section
/-! SUPPORT. The body of a received frame against the plan of its link's owner (R177, Table 08-10), and its landing (R117, R171, R178). -/

namespace Sys2Proof.Machine

/-! A link with no owner in RUN, or with one (R175, R203). -/

theorem State.bodyIn_ownerless {s : State} {l : LinkId} (h : s.ownerRun l = none) (c : Nat) (b : FrameBody) (replay : Bool) :
    s.bodyIn l c b replay = if b.hasJob
      then ((s.modLink l (fun k => { k with stray := satInc k.stray })).logRateAt (.planStray l) Code.planStray 0
        { Loc.base 6 with link := l.val }).cellsGone l b
      else s.cellsIn l b := by
  simp only [State.bodyIn, h]
theorem State.bodyIn_owned {s : State} {l : LinkId} {j : Job} (h : s.ownerRun l = some j) (c : Nat) (b : FrameBody) (replay : Bool) :
    s.bodyIn l c b replay = s.planFrame l j c b replay := by
  simp only [State.bodyIn, h]

/-! The plan checks (Table 08-10). -/

/-- A frame of slot `slot` of lap x is refused with a fault of its job; its cells give back their buffers. -/
def State.refuseFrame (s : State) (l : LinkId) (j : Job) (x : LapSpan) (slot : Nat) (b : FrameBody) (code : W16) : State :=
  (s.jobFault j.id code (slotLoc l.val j.lead x slot)).cellsGone l b
/-- Is a frame one that a burst slot has: the first of a burst at its first slot, a later one elsewhere, or a void one? -/
def FrameBody.fitsBurst (b : FrameBody) (first : Bool) : Bool :=
  (b.kind == (if first then 1 else 2) && !b.void) || (b.kind == 0 && b.void)
/-- The kind of a segment in a lap: a burst's slots stay idle while the lap is held. -/
def LapSpan.slotKind (x : LapSpan) (g : W32) : Nat := if x.held && segKind g == Seg.burst then Seg.idle else segKind g
/-- What a frame of the slot's own lap, neither replayed nor deferred, does at the segment g that covers its slot. -/
def State.meetSegment (s : State) (l : LinkId) (j : Job) (k : TableSet) (x : LapSpan) (slot first : Nat) (g : W32) (b : FrameBody) : State :=
  if x.slotKind g ≠ Seg.burst then
    if b.void = false ∧ (b.kind = 0 ∨ (b.kind = 3 ∧ segKind g = Seg.u)) then s.cellsIn l b else s.refuseFrame l j x slot b Code.slotKind
  else if b.fitsBurst (slot == first) = false then s.refuseFrame l j x slot b Code.slotKind
  else if b.slotsM1 + 1 ≠ segLen g ∨ b.index ≠ slot - first then s.refuseFrame l j x slot b Code.burstLength
  else (k.xfer? (segXfer g)).elim (s.refuseFrame l j x slot b Code.burstTransfer) fun y =>
    if b.transfer ≠ y.number then s.refuseFrame l j x slot b Code.burstTransfer
    else if b.rank ≠ k.peerRank then s.refuseFrame l j x slot b Code.burstRank
    else s.land l j k y x first g b

theorem LapSpan.slotKind_burst (x : LapSpan) (g : W32) : x.slotKind g = Seg.burst ↔ segKind g = Seg.burst ∧ x.held = false := by
  unfold LapSpan.slotKind
  split
  · next h => simp [(Bool.and_eq_true_iff.1 h).1, Seg.idle, Seg.burst]
  · next h => exact ⟨fun hg => ⟨hg, by simpa [hg] using h⟩, And.left⟩
theorem LapSpan.slotKind_u (x : LapSpan) (g : W32) : x.slotKind g = Seg.u ↔ segKind g = Seg.u := by
  unfold LapSpan.slotKind
  split
  · next h => simp [beq_iff_eq.1 (Bool.and_eq_true_iff.1 h).2, Seg.idle, Seg.burst, Seg.u]
  · rfl
theorem FrameBody.fitsBurst_iff (b : FrameBody) (slot first : Nat) : b.fitsBurst (slot == first) = true ↔
    (b.kind = (if slot = first then 1 else 2) ∧ b.void = false) ∨ (b.kind = 0 ∧ b.void = true) := by
  simp [FrameBody.fitsBurst]
theorem FrameBody.fitsBurst_kind {b : FrameBody} {first : Bool} (h : b.fitsBurst first = true) : b.kind ≠ 3 := by
  intro hk
  cases first <;> simp [FrameBody.fitsBurst, hk] at h

section
variable {s : State} {l : LinkId} {j : Job} {c : Nat} {b : FrameBody} {replay : Bool} {x : LapSpan} {slot : Nat}
  (hx : j.spanAt c = some x) (hslot : slot = c - x.start) (job : b.hasJob = true)
include hx hslot job
theorem State.planFrame_isolation (h : b.domain ≠ j.domainId ∨ b.job ≠ j.index) :
    s.planFrame l j c b replay = s.refuseFrame l j x slot b Code.planIsolation := by
  have other : (b.domain != j.domainId || b.job != j.index) = true := by simpa using h
  subst hslot
  simp only [State.planFrame, hx, job, other, Bool.and_true, if_true]
  rfl
variable (domain : b.domain = j.domainId) (index : b.job = j.index)
include domain index
theorem State.planFrame_otherPlan (h : b.plan ≠ j.planSel) : s.planFrame l j c b replay = s.refuseFrame l j x slot b Code.slotKind := by
  subst hslot
  simp [State.planFrame, hx, job, domain, index, h, State.refuseFrame]
variable (plan : b.plan = j.planSel) (undeferred : b.deferred = false)
include plan undeferred
theorem State.planFrame_otherSlot (h : b.lap ≠ x.index % 2 ^ 32 ∨ b.slot ≠ slot % 2 ^ 16) :
    s.planFrame l j c b false = s.refuseFrame l j x slot b Code.slotKind := by
  have other : (b.lap == x.index % 2 ^ 32 && b.slot == slot % 2 ^ 16) = false := by
    rw [Bool.and_eq_false_iff]
    exact h.imp beq_false_of_ne beq_false_of_ne
  subst hslot
  simp only [State.planFrame, hx, job, domain, index, plan, undeferred, other, bne_self_eq_false, Bool.or_self, Bool.and_false, Bool.and_true,
    Bool.false_eq_true, if_false, Bool.not_false, if_true]
  rfl
variable {u : State} {k : TableSet} {first : Nat} {g : W32} (hlap : b.lap = x.index % 2 ^ 32) (hs : b.slot = slot % 2 ^ 16)
  (hset : s.readTables l j true x slot = (u, some (some k))) (hg : segAt slot (k.segsOf x.table) = some (first, g))
include hlap hs hset hg
theorem State.planFrame_segment : s.planFrame l j c b false = u.meetSegment l j k x slot first g b := by
  have kind : (if x.held && segKind g == Seg.burst then Seg.idle else segKind g) = x.slotKind g := rfl
  subst hslot
  simp only [State.planFrame, hx, job, domain, index, plan, undeferred, hlap, hs, hset, hg, kind, bne_self_eq_false, BEq.rfl, Bool.or_self,
    Bool.and_false, Bool.false_and, Bool.and_true, Bool.or_false, Bool.false_or, Bool.not_true, Bool.not_false,
    Bool.false_eq_true, if_false, Option.bind_some, Option.map_some]
  rw [State.meetSegment]
  by_cases burst : x.slotKind g = Seg.burst
  · rw [if_neg (not_not_intro burst)]
    cases fits : b.fitsBurst (c - x.start == first) with
    | false =>
      rw [FrameBody.fitsBurst] at fits
      simp only [burst, BEq.rfl, if_true, fits, Bool.not_false]
      rfl
    | true =>
      have notCells := beq_false_of_ne (FrameBody.fitsBurst_kind fits)
      rw [FrameBody.fitsBurst] at fits
      simp only [burst, BEq.rfl, if_true, fits, Bool.not_true, Bool.false_eq_true, bne_self_eq_false, notCells, Bool.or_self, if_false,
        Bool.or_eq_true, bne_iff_ne]
      cases k.xfer? (segXfer g) <;> rfl
  · rw [if_pos burst]
    have fits : (if x.slotKind g == Seg.u then (b.kind == 0 || b.kind == 3) && !b.void else b.kind == 0 && !b.void) = true ↔
        b.void = false ∧ (b.kind = 0 ∨ b.kind = 3 ∧ segKind g = Seg.u) := by
      rw [← x.slotKind_u g]
      by_cases hu : x.slotKind g = Seg.u <;> simp [hu, and_comm]
    simp only [beq_false_of_ne burst, bne_iff_ne.2 burst, Bool.true_or, Bool.false_eq_true, if_false, if_true]
    by_cases free : b.void = false ∧ (b.kind = 0 ∨ b.kind = 3 ∧ segKind g = Seg.u)
    · simp only [if_pos free, fits.2 free, Bool.not_true, Bool.false_eq_true, if_false]
    · simp only [if_neg free, Bool.eq_false_iff.2 (mt fits.1 free), Bool.not_false, if_true]
      rfl
end

end Sys2Proof.Machine
end

section
/-! SUPPORT. How the frames of a burst from a link land (R117, R171, R178). -/

namespace Sys2Proof.Machine

theorem finOf_link (l : LinkId) : (finOf 7 l.val).val = l.val := Nat.mod_eq_of_lt (l.isLt.trans (by decide))
/-- The bursts that the station of a link lands stand at the link. -/
theorem State.modLandings_link (s : State) (j : Job) (l : LinkId) (f : List Landing → List Landing) :
    s.modLandings j (finOf 7 l.val) f = s.modLink l (fun k => { k with landing := f k.landing }) := by
  have hl : (⟨(finOf 7 l.val).val, (finOf_link l).symm ▸ l.isLt⟩ : LinkId) = l := Fin.ext (finOf_link l)
  rw [State.modLandings, dif_pos ((finOf_link l).symm ▸ l.isLt), hl]

/-! Arms (R117). -/

theorem State.takeArm_found {s : State} {j q : Job} (h : s.job? j.id = some q) (t : W16) : s.takeArm j t =
    if (q.xfer t).arms = 0 then none
    else some (s.modJob j.id (fun j => j.setXfer { j.xfer t with arms := (q.xfer t).arms - 1 })) := by
  simp only [State.takeArm, h, State.job?_id h]

/-! A list in which one element alone meets p, at its end. -/

theorem find?_only_last {α : Type} {p : α → Bool} (xs : List α) {a : α} (h : p a = true) :
    (xs.filter (fun x => !p x) ++ [a]).find? p = some a := by
  have none_before : (xs.filter (fun x => !p x)).find? p = none := by simp
  rw [List.find?_append, none_before, List.find?_singleton, if_pos h, Option.none_or]
theorem map_only_last {α : Type} {p : α → Bool} (xs : List α) {a : α} (h : p a = true) (f : α → α) :
    (xs.filter (fun x => !p x) ++ [a]).map (fun x => if p x then f x else x) = xs.filter (fun x => !p x) ++ [f a] := by
  rw [List.map_append, List.map_singleton, if_pos h]
  refine congrArg (· ++ [f a]) ((List.map_congr_left fun x hx => ?_).trans (List.map_id _))
  rw [if_neg (by simpa using (List.mem_filter.1 hx).2), id]

/-! A frame that meets its burst slot (R117, R178). -/

/-- The burst of transfer t at slot `first` of lap x stands at its next frame. -/
def Landing.begun (t : W16) (x : LapSpan) (first next : Nat) (carried : BitVec 96) : Landing :=
  { transfer := t, lapIndex := x.index, slot := first, next := next, landed := 0, baton := carried, dropped := false }

section
variable {s : State} {l : LinkId} {j : Job} {k : TableSet} {y : Transfer} {x : LapSpan} {first : Nat} {g : W32} {b : FrameBody}

theorem State.land_laterVoid (later : b.index ≠ 0) (kind : b.kind = 0) : s.land l j k y x first g b = s := by
  simp [State.land, kind, later]

section
variable (start : b.index = 0)
include start
theorem State.land_unarmed (h : b.kind ≠ 0 ∨ b.void = true) (arm : s.takeArm j y.number = none) :
    s.land l j k y x first g b = s.jobFault j.id Code.landingUnarmed (slotLoc l.val j.lead x (first + b.index)) := by
  by_cases kind : b.kind = 0
  · simp [State.land, kind, h.resolve_left (not_not_intro kind), start, arm]
  · simp [State.land, kind, start, State.beginLanding, arm]
variable {t : State} (arm : s.takeArm j y.number = some t)
include arm
theorem State.land_void (kind : b.kind = 0) (void : b.void = true) : s.land l j k y x first g b =
    t.postLanding j y (fun i g => mkVoid 5 i g 0xFF) (j.occNumber k y.number x.index first) (slotLoc l.val j.lead x (first + b.index)) := by
  simp [State.land, kind, void, start, arm]
/-- The first frame of a burst begins its landing in place of one of the same occurrence. -/
theorem State.land_first (kind : b.kind ≠ 0) : s.land l j k y x first g b = (t.modLink l (fun q => { q with
    landing := q.landing.filter (fun d => !d.of y.number (x.occ first g)) ++ [Landing.begun y.number x first 1 b.carried] })).holdFrame l j k
      { transfer := y.number, occ := x.occ first g, index := b.index, data := b.bytes } := by
  have of (next : Nat) : (Landing.begun y.number x first next b.carried).of y.number (x.occ first g) = true := by
    simp [Landing.of, Landing.begun, LapSpan.occ]
  have begins : s.beginLanding j (finOf 7 l.val) y.number (x.occ first g) b.carried = some (t.modLink l (fun q => { q with
      landing := q.landing.filter (fun d => !d.of y.number (x.occ first g)) ++ [Landing.begun y.number x first 0 b.carried] })) := by
    simp only [State.beginLanding, arm, Option.map_some, State.modLandings_link]
    rfl
  simp only [State.land, kind, start, if_false, if_true, begins, State.modLink_link, find?_only_last _ (of 0), State.modLandings_link,
    State.modLink_modLink, Function.comp_def, map_only_last _ (of 0)]
  rfl
end

variable (later : b.index ≠ 0) (kind : b.kind ≠ 0)
include later kind
/-- A later frame goes on when it is in its turn. -/
theorem State.land_later {d : Landing} (hd : (s.link l).landing = [d]) (of : d.of y.number (x.occ first g) = true) :
    s.land l j k y x first g b = if d.next = b.index
      then (s.modLink l (fun q => { q with landing := [{ d with next := d.next + 1 }] })).holdFrame l j k
        { transfer := y.number, occ := x.occ first g, index := b.index, data := b.bytes }
      else s := by
  have found : (s.link l).landing.find? (·.of y.number (x.occ first g)) = some d := by rw [hd, List.find?_singleton, if_pos of]
  have next : s.modLink l (fun q => { q with
      landing := q.landing.map (fun d => if d.of y.number (x.occ first g) then { d with next := d.next + 1 } else d) })
      = s.modLink l (fun q => { q with landing := [{ d with next := d.next + 1 }] }) :=
    State.modLink_congr (by simp only [hd, List.map_singleton, if_pos of])
  simp only [State.land, kind, later, if_false, found, State.modLandings_link, next]
  by_cases turn : d.next = b.index
  · simp [turn]
  · simp [turn]
end

/-! A frame that reaches its plot (R67, R171, R178). -/

theorem State.landFrame_stored {s u v : State} {j : Job} {st : Fin 7} {f : StoredFrame} {k : TableSet} {d : Landing} {y : Transfer} {p : PartId}
    {a : Nat} (hk : j.landSet st f.transfer = some k) (hd : (s.landings j st).find? (·.of f.transfer f.occ) = some d)
    (hy : k.entry? f.transfer = some y) (hp : j.phys y.part = some p)
    (granted : s.landingAt (if st.val < 6 then 9 else 11) p (if st.val < 6 then st.val else 14) y.region (y.offset + 2048 * f.index)
      f.data.length (slotLoc st.val j.lead f.occ.span (f.occ.slot + f.index)) = (u, .ok a))
    (stored : u.store a f.data (slotLoc st.val j.lead f.occ.span (f.occ.slot + f.index)) = (v, true)) :
    s.landFrame j st f = if d.landed + 1 < f.occ.len
      then v.modLandings j st (fun ds => ds.map (fun d => if d.of f.transfer f.occ then { d with landed := d.landed + 1 } else d))
      else (v.modLandings j st (fun ds => ds.filter (fun d => !d.of f.transfer f.occ))).postLanding j y
        (fun i g => mkEntry d.baton i g 0xFF) (j.occNumber k f.transfer f.occ.lapIndex f.occ.slot)
        (slotLoc st.val j.lead f.occ.span (f.occ.slot + f.index)) := by
  by_cases hst : st.val < 6
  · simp only [if_pos hst] at granted
    simp only [State.landFrame, hk, hd, hy, hp, if_pos hst, granted, stored]
  · simp only [if_neg hst] at granted
    simp only [State.landFrame, hk, hd, hy, hp, if_neg hst, granted, stored]

end Sys2Proof.Machine
end

section
/-! SUPPORT and the statement of what a received frame does, and of the timers of replay (R117, R177, R178, R196, R197, R201, R203, R204, R207, R210,
R212, Table 08-10). -/

namespace Sys2Proof.Machine

/-! The clauses of O26. -/

section
variable {s w : State} {l : LinkId} {raw : RawFrame} {phase : BitVec 16} {f : FrameParts} (up : s.up l = true)
  (empty : (s.link l).elastic = []) (due : s.early l raw = false)
include up empty due
theorem exec_frameReceive_bad (bad : (decodeLinkFrame raw).good = false) : exec (.frameReceive l raw phase) s = .next
    ((s.opened l raw).modLink l (·.badFrame (decodeLinkFrame raw).sound (decodeLinkFrame raw).fixed)) :=
  exec_frameReceive_due up empty due (State.present_bad bad) (by
    rw [State.modLink_link, Link.badFrame]
    exact (s.opened_elastic l raw).trans empty)
variable (good : (decodeLinkFrame raw).good = true) (hf : f = (decodeLinkFrame raw).parts)
include good hf
theorem exec_frameReceive_otherEpoch (h : f.epoch ≠ (s.link l).partnerEpoch) : exec (.frameReceive l raw phase) s = .next
    ((s.opened l raw).modLink l (fun k => { k.goodFrame with epochDrop := satInc k.epochDrop })) :=
  exec_frameReceive_due up empty due (State.present_otherEpoch good hf h) (by
    rw [State.modLink_link, Link.goodFrame]
    exact (s.opened_elastic l raw).trans empty)
end

/-- A body with job fields, of a link with an owner in RUN, against the plan (Table 08-10). -/
theorem State.bodyIn_plan {s : State} {l : LinkId} {j : Job} {c : Nat} {b : FrameBody} {replay : Bool} {x : LapSpan} {slot : Nat}
    (hj : s.ownerRun l = some j) (hx : j.spanAt c = some x) (hslot : slot = c - x.start) (job : b.hasJob = true) :
    (b.domain ≠ j.domainId ∨ b.job ≠ j.index → s.bodyIn l c b replay = s.refuseFrame l j x slot b Code.planIsolation) ∧
    (b.domain = j.domainId → b.job = j.index →
      (b.plan ≠ j.planSel → s.bodyIn l c b replay = s.refuseFrame l j x slot b Code.slotKind) ∧
      (b.plan = j.planSel → b.deferred = false → replay = false →
        (b.lap ≠ x.index % 2 ^ 32 ∨ b.slot ≠ slot % 2 ^ 16 → s.bodyIn l c b replay = s.refuseFrame l j x slot b Code.slotKind) ∧
        ∀ (u : State) (k : TableSet) (first : Nat) (g : W32), b.lap = x.index % 2 ^ 32 → b.slot = slot % 2 ^ 16 →
          s.readTables l j true x slot = (u, some (some k)) → segAt slot (k.segsOf x.table) = some (first, g) →
          s.bodyIn l c b replay = u.meetSegment l j k x slot first g b)) := by
  rw [State.bodyIn_owned hj]
  refine ⟨State.planFrame_isolation hx hslot job, fun hd hi => ⟨State.planFrame_otherPlan hx hslot job hd hi, ?_⟩⟩
  rintro hp hdef rfl
  exact ⟨State.planFrame_otherSlot hx hslot job hd hi hp hdef,
    fun u k first g hlap hs hset hg => State.planFrame_segment hx hslot job hd hi hp hdef hlap hs hset hg⟩

section
variable {s : State} {l : LinkId} {j : Job} {k : TableSet} {x : LapSpan} {slot first : Nat} {g : W32} {b : FrameBody}
theorem State.meetSegment_free (h : segKind g ≠ Seg.burst ∨ x.held = true) : s.meetSegment l j k x slot first g b =
    if b.void = false ∧ (b.kind = 0 ∨ (b.kind = 3 ∧ segKind g = Seg.u)) then s.cellsIn l b else s.refuseFrame l j x slot b Code.slotKind := by
  refine if_pos (mt (x.slotKind_burst g).1 ?_)
  rintro ⟨hk, hh⟩
  exact h.elim (· hk) fun held => by simp [held] at hh
variable (burst : x.slotKind g = Seg.burst)
include burst
theorem State.meetSegment_unfit (h : ¬b.fitsBurst (slot == first) = true) :
    s.meetSegment l j k x slot first g b = s.refuseFrame l j x slot b Code.slotKind := by
  rw [State.meetSegment, if_neg (not_not_intro burst), if_pos (Bool.eq_false_iff.2 h)]
variable (fits : b.fitsBurst (slot == first) = true)
include fits
theorem State.meetSegment_length (h : b.slotsM1 + 1 ≠ segLen g ∨ b.index ≠ slot - first) :
    s.meetSegment l j k x slot first g b = s.refuseFrame l j x slot b Code.burstLength := by
  rw [State.meetSegment, if_neg (not_not_intro burst), if_neg (by simp [fits]), if_pos h]
theorem State.meetSegment_transfer {y : Transfer} (hlen : b.slotsM1 + 1 = segLen g) (hidx : b.index = slot - first)
    (hy : k.xfer? (segXfer g) = some y) : s.meetSegment l j k x slot first g b =
      if b.transfer ≠ y.number then s.refuseFrame l j x slot b Code.burstTransfer
      else if b.rank ≠ k.peerRank then s.refuseFrame l j x slot b Code.burstRank
      else s.land l j k y x first g b := by
  rw [State.meetSegment, if_neg (not_not_intro burst), if_neg (by simp [fits]),
    if_neg (by simp [hlen, hidx]), hy, Option.elim_some]
end

/-- Settles O26: the link part and the timers have a lemma for each event, a body goes by `State.bodyIn_plan` to the segment of its slot, and a
frame that meets its burst slot lands by the lemma of its place in the burst. -/
theorem receivedFramesAndReplayTimers : Obligations.ReceivedFramesAndReplayTimers := by
  refine ⟨fun s l up => ⟨fun raw phase => ⟨exec_frameReceive_full up, exec_frameReceive_early up⟩, ?presented, fun n => State.bufferBeat_locked up,
    fun c hc => ?ack, fun e he hb => ?replay, exec_spillAbandoned_up up⟩, fun k c n g h => k.fillAt_regrade h c,
    fun s l c b replay => ⟨fun h => State.bodyIn_ownerless h c b replay, ?plan⟩, ?landing, ?plot⟩
  case presented =>
    rintro raw phase w f empty due rfl hf
    refine ⟨fun bad => ?_, fun good h => exec_frameReceive_otherEpoch up empty due good hf h, fun u v good epoch ack hv vup drained => ?_⟩
    · rw [exec_frameReceive_bad up empty due bad]
      simp only [Link.badFrame_eq]
      rfl
    · have taken := State.present_good (phase := phase) good hf epoch ack hv vup
      refine ⟨?_, ?_, fun sequenced other => ?_⟩
      · rintro x sequenced rfl he
        exact exec_frameReceive_due up empty due (taken.trans (if_pos sequenced)) he
      · rintro x sequenced next rfl he
        exact exec_frameReceive_due up empty due (taken.trans ((if_neg (by simp [sequenced])).trans (if_pos next))) he
      · refine exec_frameReceive_due up empty due (taken.trans ((if_neg (by simp [sequenced])).trans (if_neg other))) ?_
        rw [State.modLink_link]
        split <;> exact drained
  case ack =>
    rw [exec_ackUpdate_up up hc]
    exact ⟨fun h => congrArg _ (if_pos h), fun h => congrArg _ (if_neg (Nat.not_le.2 h))⟩
  case replay =>
    rw [exec_replayTimeout_up up he hb]
    exact ⟨fun h => congrArg _ (if_neg (Nat.not_le.2 h)), fun h => congrArg _ (if_pos h)⟩
  case plan =>
    rintro j x slot r hj hx hslot rfl job
    obtain ⟨isolation, same⟩ := State.bodyIn_plan (replay := replay) hj hx hslot job
    refine ⟨isolation, fun hd hi => ⟨(same hd hi).1, fun hp hdef hr => ?_⟩⟩
    obtain ⟨otherSlot, segment⟩ := (same hd hi).2 hp hdef hr
    refine ⟨otherSlot, fun u k first g hlap hs hset hg => ?_⟩
    rw [segment u k first g hlap hs hset hg]
    refine ⟨State.meetSegment_free, fun kind open_ => ?_⟩
    have burst := (x.slotKind_burst g).2 ⟨kind, open_⟩
    refine ⟨fun h1 h0 => State.meetSegment_unfit burst (mt (b.fitsBurst_iff slot first).1 (not_or.2 ⟨h1, h0⟩)), fun fits => ?_⟩
    have fits := (b.fitsBurst_iff slot first).2 fits
    refine ⟨State.meetSegment_length burst fits, fun y hlen hidx hy => ?_⟩
    rw [State.meetSegment_transfer burst fits hlen hidx hy]
    exact ⟨fun ht => if_pos ht, fun ht hr => (if_neg (not_not_intro ht)).trans (if_pos hr),
      fun ht hr => (if_neg (not_not_intro ht)).trans (if_neg (not_not_intro hr))⟩
  case landing =>
    rintro s l j k y x first g b f r rfl rfl
    refine ⟨fun start h => ⟨State.land_unarmed start h, fun t arm => ⟨fun kind => ?_, State.land_first start arm⟩⟩, State.land_laterVoid,
      fun d later kind hd ht hl hs => State.land_later later kind hd ?_, fun q hq => ?_⟩
    · exact State.land_void start arm kind (h.resolve_left (not_not_intro kind))
    · simp [Landing.of, LapSpan.occ, ht, hl, hs]
    · rw [State.takeArm_found hq]
      exact ⟨fun h => if_pos h, fun h => if_neg h⟩
  case plot => exact fun s u v j st f k d y p a hk hd hy hp granted stored => State.landFrame_stored hk hd hy hp granted stored

end Sys2Proof.Machine
end

section
/-! SUPPORT and the statement of QUERY, LOG_READ, MGMT_READ and MGMT_WRITE (R236, R237, R259, R262, R288, R289, R361). -/

namespace Sys2Proof.Machine

/-! Steps that change the host unit alone: they leave the request slots, the topology and the chip id as they were. -/

/-- Nothing but the host interface unit differs. -/
def State.HiuStep (s u : State) : Prop := ∃ f : Hiu → Hiu, u = s.modHiu f

section
variable {s t u : State} {o q : WinOp} {d : Desc}
theorem State.HiuStep.trans (h : s.HiuStep t) (k : t.HiuStep u) : s.HiuStep u := by
  obtain ⟨f, rfl⟩ := h
  obtain ⟨g, rfl⟩ := k
  exact ⟨g ∘ f, rfl⟩
theorem State.pushOp_hiuStep (s : State) (o : WinOp) : s.HiuStep (s.pushOp o) := ⟨_, rfl⟩
theorem State.setOp_hiuStep (s : State) (o o' : WinOp) : s.HiuStep (s.setOp o o') := ⟨_, rfl⟩
theorem State.takeMc_hiuStep {op : Nat} (h : s.takeMc op = some (d, t)) : s.HiuStep t := by
  unfold State.takeMc at h
  repeat' split at h
  all_goals cases h
  exact ⟨_, rfl⟩
theorem State.takeMc_opcode {op : Nat} (h : s.takeMc op = some (d, t)) : d.opcode = op := by
  unfold State.takeMc at h
  split at h
  · split at h
    · next hop =>
      cases h
      exact beq_iff_eq.1 (Bool.and_eq_true_iff.1 hop).1
    · cases h
  · cases h
theorem State.openHeader_hiuStep (h : s.openHeader o = .opened u q) : s.HiuStep u := by
  unfold State.openHeader at h
  dsimp only at h
  repeat' split at h
  all_goals cases h
  exact s.setOp_hiuStep o _
/-- Data that is there to take changes nothing. -/
theorem State.winTake_taken {v : State} {need : Nat} {bs : List Byte} (h : s.winTake q need = (v, some bs)) : v = s := by
  unfold State.winTake State.winFetch at h
  repeat' split at h
  all_goals cases h
  rfl

namespace State.HiuStep
variable (h : s.HiuStep u)
include h
theorem freeReq (mgmt : Bool) : u.freeReq mgmt = s.freeReq mgmt := by obtain ⟨f, rfl⟩ := h; rfl
theorem remoteQuery (d : Desc) : u.remoteQuery d = s.remoteQuery d := by obtain ⟨f, rfl⟩ := h; rfl
theorem mgmtAddress (a : W64) (board : Bool) (n : Nat) : u.mgmtAddress a board n = s.mgmtAddress a board n := by
  obtain ⟨f, rfl⟩ := h; rfl
end State.HiuStep
end

/-! With a slot free the requests open (R262). -/

theorem State.openCounters_opens {s : State} (h : (s.freeReq true).isSome = true) (d : Desc) (chip : BitVec 13) (group page : Nat) :
    ∃ t, s.openCounters d chip group page = some t := by
  obtain ⟨slot, hs⟩ := Option.isSome_iff_exists.1 h
  simp only [State.openCounters, hs]
  exact ⟨_, rfl⟩
theorem State.mgmtSend_opens {s : State} (h : (s.freeReq true).isSome = true) (d : Desc) (base : W64) (bs : Option (List Byte)) :
    ∃ t, s.mgmtSend d base bs = some t :=
  State.openRequest_opens h ..

/-! A descriptor of a submission ring claims its header, and go takes it from step 4 on (R310). -/

/-- From step 3 on, with no partition named. -/
def State.claimRow (t : State) (d : Desc) (go : State → WinOp → State) : State :=
  if (t.pushOp (t.winOp d none)).canClaim (t.winOp d none) = true then go (t.pushOp (t.winOp d none)) (t.winOp d none)
  else t.pushOp (t.winOp d none)

section
variable {t w : State} {d : Desc} {o : WinOp} (go : State → WinOp → State) (ho : o = t.winOp d none) (hw : w = t.pushOp o)
include ho hw
theorem State.claimRow_waits (hc : w.canClaim o = false) : t.claimRow d go = w := by
  subst ho hw
  rw [State.claimRow, if_neg (by simp [hc])]
theorem State.claimRow_goes (hc : w.canClaim o = true) : t.claimRow d go = go w o := by
  subst ho hw
  rw [State.claimRow, if_pos hc]
end

/-! QUERY (R288, R361). -/

/-- A QUERY whose checks have passed; s is the state in which it was at the front of its queue. -/
def State.answerQuery (s t : State) (d : Desc) : State :=
  if s.remoteQuery d = true ∧ s.freeReq true = none then s
  else if s.inFrame d = true then
    if s.remoteQuery d = true then (t.openCounters d d.queryChip d.queryGroup d.queryPage).getD s
    else t.giveResult d none (t.queryResult d) 0
  else t.claimRow d State.queryGo

section
variable {s t : State} {d : Desc}
theorem exec_query (h : s.takeMc Op.query = some (d, t)) : exec .query s = .next (
    if s.queryOk d = false then t.done d Status.badDescriptor
    else if t.gated d = true ∨ ((d.kind = 1 ∨ d.kind = 2) ∧ t.owns d.fn d.queryPart = false) then t.done d Status.notPermitted
    else if (d.kind = 1 ∨ d.kind = 2) ∧ (t.part d.queryPart).st = .hold then t.conflict d
    else s.answerQuery t d) := by
  show execQuery s = _
  simp only [execQuery, h, State.answerQuery, State.claimRow, Bool.not_eq_true', Bool.or_eq_true, Bool.and_eq_true, beq_iff_eq,
    Option.isNone_iff_eq_none]

theorem State.answerQuery_waits (hr : s.remoteQuery d = true) (hf : s.freeReq true = none) : s.answerQuery t d = s :=
  if_pos ⟨hr, hf⟩
theorem State.answerQuery_requests (h : s.HiuStep t) (hr : s.remoteQuery d = true) (hf : (s.freeReq true).isSome = true)
    (hi : s.inFrame d = true) :
    ∃ u, t.openCounters d d.queryChip d.queryGroup d.queryPage = some u ∧ s.answerQuery t d = u := by
  obtain ⟨u, hu⟩ := State.openCounters_opens (by rwa [h.freeReq]) d d.queryChip d.queryGroup d.queryPage
  have hslot : s.freeReq true ≠ none := Option.isSome_iff_ne_none.1 hf
  refine ⟨u, hu, ?_⟩
  rw [State.answerQuery, if_neg (fun hn => hslot hn.2), if_pos hi, if_pos hr, hu, Option.getD_some]
section
variable (hr : s.remoteQuery d = false)
include hr
theorem State.answerQuery_replies (hi : s.inFrame d = true) : s.answerQuery t d = t.giveResult d none (t.queryResult d) 0 := by
  simp [State.answerQuery, hr, hi]
theorem State.answerQuery_claims (hi : s.inFrame d = false) : s.answerQuery t d = t.claimRow d State.queryGo := by
  simp [State.answerQuery, hr, hi]
end
theorem State.queryGo_opened {w u : State} {o q : WinOp} (hr : w.remoteQuery o.desc = false) (ho : w.openHeader o = .opened u q) :
    w.queryGo o = u.winGive q (u.queryResult o.desc) 0 := by
  have hu : u.remoteQuery o.desc = false := by rw [(State.openHeader_hiuStep ho).remoteQuery, hr]
  simp [State.queryGo, hr, ho, hu]
end

/-! The result of KIND 0 is a record of 16 bytes for each partition (Table 12-9). -/

/-- Blocks of one length, one after another: each stands at its index times the length. -/
theorem slice_flatMap_block {α : Type} {f : α → List Byte} {n : Nat} (hf : ∀ x, (f x).length = n) (l : List α) (i : Nat) {x : α}
    (hx : l[i]? = some x) : slice (l.flatMap f) (n * i) n = f x := by
  induction l generalizing i with
  | nil => simp at hx
  | cons y l ih =>
    cases i with
    | zero =>
      obtain rfl : y = x := by simpa using hx
      simp [slice, hf]
    | succ i =>
      rw [← ih i (by simpa using hx), slice, slice, List.flatMap_cons, Nat.mul_succ, Nat.add_comm, ← List.drop_drop,
        List.drop_left' (hf y)]
theorem State.partRecord_length (s : State) (p : PartId) : (s.partRecord p).length = 16 := by
  simp [State.partRecord, natLE_length]
theorem getElem?_allParts (p : PartId) : allParts[p.val]? = some p := by revert p; decide
/-- The record of a partition that is not bound to a VF reads to it as zero. -/
theorem State.queryResult_unbound {s : State} {d : Desc} {p : PartId} (hk : d.kind = 0) (hf : d.fn ≠ 0) (hb : s.bound d.fn p = false) :
    slice (s.queryResult d) (16 * p.val) 16 = List.replicate 16 0 := by
  rw [State.queryResult, if_pos hk, slice_flatMap_block (fun p => ?_) allParts p.val (getElem?_allParts p)]
  · simp [hf, hb]
  · split
    · exact s.partRecord_length p
    · rfl

/-! LOG_READ (R289). -/

theorem exec_logRead {s t : State} {d : Desc} (h : s.takeMc Op.logRead = some (d, t)) : exec .logRead s = .next (
    if s.logReadOk d = false then t.done d Status.badDescriptor
    else if t.gated d = true then t.done d Status.notPermitted
    else if s.inFrame d = true then t.giveResult d none (t.logRead d).1 (BitVec.ofNat 64 (t.logRead d).2)
    else t.claimRow d State.logReadGo) := by
  show execLogRead s = _
  simp only [execLogRead, h, State.claimRow, Bool.not_eq_true']
theorem State.logReadGo_opened {w u : State} {o q : WinOp} (ho : w.openHeader o = .opened u q) :
    w.logReadGo o = u.winGive q (u.logRead o.desc).1 (BitVec.ofNat 64 (u.logRead o.desc).2) := by
  simp only [State.logReadGo, ho, State.openHeader_desc ho]

theorem LogBody.bytes_length (b : LogBody) : b.bytes.length = 48 := by
  cases b <;> simp [LogBody.bytes, natLE_length, wordsToBytes, List.length_flatMap]
/-- An entry is 64 bytes (Table 15-3). -/
theorem LogEntry.bytes_length (e : LogEntry) : e.bytes.length = 64 := by
  simp [LogEntry.bytes, natLE_length, LogBody.bytes_length]
theorem TroubleLog.take_length_le (g : TroubleLog) (ok : LogEntry → Bool) (n i count : Nat) : (g.take ok n i count).1.length ≤ count := by
  induction n, i, count using TroubleLog.take.induct g ok with
  | case1 => simp [TroubleLog.take]
  | case2 => simp [TroubleLog.take]
  | case3 n i count e he hok ih => simpa [TroubleLog.take, he, hok] using ih
  | case4 n i count e he hok ih => simpa [TroubleLog.take, he, hok] using ih
  | case5 n i count he ih => simpa [TroubleLog.take, he] using ih
theorem TroubleLog.readFor_length (g : TroubleLog) (f : FnId) (first count : Nat) :
    ∃ k ≤ count, (g.readFor f first count).1.length = 64 * k := by
  refine ⟨_, g.take_length_le (fun e => f == 0 || e.vf.toNat == f.val) 4096 first count, ?_⟩
  simp [TroubleLog.readFor, List.length_flatMap, LogEntry.bytes_length, Nat.mul_comm]

/-! MGMT_READ and MGMT_WRITE (R236, R237, R259, R262). -/

/-- The bytes that the ZSH request of a MGMT_WRITE carries behind its descriptor. -/
def State.frameData (s : State) (d : Desc) : List Byte :=
  match d.origin with
  | .zsh p seq => match s.svc.request? p seq with
    | some r => slice r.payload 64 d.mgmtLen
    | none => []
  | .ring _ _ => []

/-- A management descriptor of PF0 whose address names base, with a slot free. -/
def State.mgmtAccess (s t : State) (d : Desc) (base : W64) : State :=
  if s.inFrame d = true then
    if d.opcode = Op.mgmtRead then (t.mgmtSend d base none).getD s
    else if (s.frameData d).length < d.mgmtLen then t.done d Status.badDescriptor
    else (t.mgmtSend d base (some (s.frameData d))).getD s
  else t.claimRow d State.mgmtGo

section
variable {s t : State} {op : Nat} {d : Desc} (h : s.takeMc op = some (d, t))
include h
theorem State.mgmtDesc_taken : s.mgmtDesc op =
    if s.mgmtFieldsOk d = false then t.done d Status.badDescriptor
    else if d.fn ≠ 0 then t.done d Status.notPermitted
    else (s.mgmtAddress (d.word 2) (bit (d.word 3) 63) d.mgmtLen).elim
      ((t.logs Code.addressInvalid).complete d { status := Status.badDescriptor, fault := Code.addressInvalid })
      (fun base => if s.freeReq true = none then s else s.mgmtAccess t d base) := by
  obtain rfl := State.takeMc_opcode h
  cases ha : s.mgmtAddress (d.word 2) (bit (d.word 3) 63) d.mgmtLen with
  | none => simp only [State.mgmtDesc, h, ha, Bool.not_eq_true', bne_iff_ne, Option.elim_none]
  | some base =>
    simp only [State.mgmtDesc, h, ha, State.mgmtAccess, State.claimRow, Bool.not_eq_true', bne_iff_ne, Option.isNone_iff_eq_none,
      Option.elim_some] <;> rfl
theorem State.mgmtDesc_malformed (hk : s.mgmtFieldsOk d = false) : s.mgmtDesc op = t.done d Status.badDescriptor := by
  rw [State.mgmtDesc_taken h, if_pos hk]
variable (hk : s.mgmtFieldsOk d = true)
include hk
theorem State.mgmtDesc_forbidden (hf : d.fn ≠ 0) : s.mgmtDesc op = t.done d Status.notPermitted := by
  rw [State.mgmtDesc_taken h, if_neg (by simp [hk]), if_pos hf]
variable (hf : d.fn = 0)
include hf
theorem State.mgmtDesc_invalid (ha : s.mgmtAddress (d.word 2) (bit (d.word 3) 63) d.mgmtLen = none) :
    s.mgmtDesc op = (t.logs Code.addressInvalid).complete d { status := Status.badDescriptor, fault := Code.addressInvalid } := by
  rw [State.mgmtDesc_taken h, if_neg (by simp [hk]), if_neg (not_not_intro hf), ha, Option.elim_none]
variable {base : W64} (ha : s.mgmtAddress (d.word 2) (bit (d.word 3) 63) d.mgmtLen = some base)
include ha
theorem State.mgmtDesc_valid : s.mgmtDesc op = if s.freeReq true = none then s else s.mgmtAccess t d base := by
  rw [State.mgmtDesc_taken h, if_neg (by simp [hk]), if_neg (not_not_intro hf), ha, Option.elim_some]
theorem State.mgmtDesc_waits (hr : s.freeReq true = none) : s.mgmtDesc op = s := by
  rw [State.mgmtDesc_valid h hk hf ha, if_pos hr]
theorem State.mgmtDesc_accesses (hr : (s.freeReq true).isSome = true) : s.mgmtDesc op = s.mgmtAccess t d base := by
  rw [State.mgmtDesc_valid h hk hf ha, if_neg (Option.isSome_iff_ne_none.1 hr)]
end

section
variable {s t : State} {d : Desc} (base : W64) (h : s.HiuStep t) (hr : (s.freeReq true).isSome = true)
include h hr
theorem State.mgmtAccess_read (hi : s.inFrame d = true) (hop : d.opcode = Op.mgmtRead) :
    ∃ u, t.mgmtSend d base none = some u ∧ s.mgmtAccess t d base = u := by
  obtain ⟨u, hu⟩ := State.mgmtSend_opens (by rwa [h.freeReq]) d base none
  exact ⟨u, hu, by rw [State.mgmtAccess, if_pos hi, if_pos hop, hu, Option.getD_some]⟩
theorem State.mgmtAccess_write (hi : s.inFrame d = true) (hop : d.opcode ≠ Op.mgmtRead) (hl : d.mgmtLen ≤ (s.frameData d).length) :
    ∃ u, t.mgmtSend d base (some (s.frameData d)) = some u ∧ s.mgmtAccess t d base = u := by
  obtain ⟨u, hu⟩ := State.mgmtSend_opens (by rwa [h.freeReq]) d base (some (s.frameData d))
  exact ⟨u, hu, by rw [State.mgmtAccess, if_pos hi, if_neg hop, if_neg (Nat.not_lt.2 hl), hu, Option.getD_some]⟩
end
theorem State.mgmtAccess_claims {s : State} {d : Desc} (t : State) (base : W64) (hi : s.inFrame d = false) :
    s.mgmtAccess t d base = t.claimRow d State.mgmtGo :=
  if_neg (by simp [hi])

/-! Its header open, the address is judged again by a topology that is still the same. -/
section
variable {w u : State} {o q : WinOp} {base : W64} (hr : (w.freeReq true).isSome = true) (ho : w.openHeader o = .opened u q)
  (ha : w.mgmtAddress (o.desc.word 2) (bit (o.desc.word 3) 63) o.desc.mgmtLen = some base)
include hr ho ha
theorem State.mgmtGo_read (hop : o.desc.opcode = Op.mgmtRead) (hl : o.desc.mgmtLen ≤ q.hdr.len) :
    ∃ v, u.mgmtSend o.desc base none = some v ∧ w.mgmtGo o = v := by
  have h := State.openHeader_hiuStep ho
  obtain ⟨v, hv⟩ := State.mgmtSend_opens (by rwa [h.freeReq]) o.desc base none
  refine ⟨v, hv, ?_⟩
  rw [← h.mgmtAddress] at ha
  simp [State.mgmtGo, Option.isNone_eq_false_iff.2 hr, ho, ha, hop, Nat.not_lt.2 hl, hv]
theorem State.mgmtGo_write (hop : o.desc.opcode ≠ Op.mgmtRead) {v : State} {bs : List Byte}
    (ht : u.winTake q o.desc.mgmtLen = (v, some bs)) :
    ∃ x, (v.setOp q { q with phase := .reply bs.length }).mgmtSend o.desc base (some bs) = some x ∧ w.mgmtGo o = x := by
  have h := State.openHeader_hiuStep ho
  have hv : w.HiuStep (v.setOp q { q with phase := .reply bs.length }) := by
    rw [State.winTake_taken ht]
    exact h.trans (u.setOp_hiuStep ..)
  obtain ⟨x, hx⟩ := State.mgmtSend_opens (by rwa [hv.freeReq]) o.desc base (some bs)
  refine ⟨x, hx, ?_⟩
  rw [← h.mgmtAddress] at ha
  simp [State.mgmtGo, Option.isNone_eq_false_iff.2 hr, ho, ha, hop, ht, hx]
end

theorem exec_mgmt (wr : Bool) (s : State) :
    exec (if wr then .mgmtWrite else .mgmtRead) s = .next (s.mgmtDesc (if wr then Op.mgmtWrite else Op.mgmtRead)) := by
  cases wr <;> rfl

/-- The request of a ZSH frame on channel 0 gives a descriptor its data. -/
theorem State.frameData_request {s : State} {d : Desc} {p : PortId} {seq : W32} {r : ZshRequest} (ho : d.origin = .zsh p seq)
    (hr : s.svc.request? p seq = some r) : s.frameData d = slice r.payload 64 d.mgmtLen := by
  simp only [State.frameData, ho, hr]
theorem State.inFrame_request {s : State} {d : Desc} {p : PortId} {seq : W32} {r : ZshRequest} (ho : d.origin = .zsh p seq)
    (hr : s.svc.request? p seq = some r) (hc : r.channel = 0) : s.inFrame d = true := by
  simp only [State.inFrame, ho, hr, hc]
  rfl

/-- Settles O52: each descriptor ends at the first of its checks that fails; past them it replies, sends its request, or goes by the claim of its
header (`State.claimRow`) to what it does with the header open. -/
theorem queriesReadAndManagementDescriptorsSend : Obligations.QueriesReadAndManagementDescriptorsSend := by
  refine ⟨fun s t d h => ?query, fun s d p hk hf hb => State.queryResult_unbound hk hf hb, fun s t d h => ?logRead, fun s d => ?entries, ?mgmt⟩
  case query =>
    have hiu := State.takeMc_hiuStep h
    rw [exec_query h]
    refine ⟨fun hk => by rw [if_pos hk], fun hk hn => by rw [if_neg (by simp [hk]), if_pos hn], fun hk hg hp ho hs => ?_, fun hk hg hp => ?passed⟩
    · rw [if_neg (by simp [hk]), if_neg (by simp [hg, ho]), if_pos ⟨hp, hs⟩]
    have permitted : ¬(t.gated d = true ∨ ((d.kind = 1 ∨ d.kind = 2) ∧ t.owns d.fn d.queryPart = false)) := by
      rintro (hn | ⟨hn, ho⟩)
      · cases hg.symm.trans hn
      · cases (hp hn).1.symm.trans ho
    rw [if_neg (by simp [hk]), if_neg permitted, if_neg (fun hn => (hp hn.1).2 hn.2)]
    refine ⟨fun hr hf => by rw [State.answerQuery_waits hr hf], fun hr hf hi => ?_, fun hr hi => by rw [State.answerQuery_replies hr hi]; rfl,
      fun o w hr hi ho hw => ?_⟩
    · obtain ⟨u, hu, hq⟩ := State.answerQuery_requests hiu hr hf hi
      exact ⟨u, hu, congrArg _ hq⟩
    · rw [State.answerQuery_claims hr hi]
      refine ⟨fun hc => by rw [State.claimRow_waits _ ho hw hc], fun u q hc hopen hrem => ?_⟩
      obtain rfl : o.desc = d := by rw [ho]; rfl
      rw [State.claimRow_goes _ ho hw hc, State.queryGo_opened hrem hopen]
  case logRead =>
    rw [exec_logRead h]
    refine ⟨fun hk => by rw [if_pos hk], fun hk hg => by rw [if_neg (by simp [hk]), if_pos hg], fun hk hg hi => ?_, fun o w hk hg hi ho hw => ?_⟩
    · rw [if_neg (by simp [hk]), if_neg (by simp [hg]), if_pos hi]
      rfl
    · rw [if_neg (by simp [hk]), if_neg (by simp [hg]), if_neg (by simp [hi])]
      refine ⟨fun hc => by rw [State.claimRow_waits _ ho hw hc], fun u q hc hopen => ?_⟩
      obtain rfl : o.desc = d := by rw [ho]; rfl
      rw [State.claimRow_goes _ ho hw hc, State.logReadGo_opened hopen]
  case entries =>
    obtain ⟨k, hk, hl⟩ := s.log.readFor_length d.fn (fld (d.word 2) 11 0) (fld (d.word 2) 31 16)
    refine ⟨?_, ?_, Nat.mod_lt _ (by decide)⟩ <;> rw [State.logRead, hl] <;> omega
  case mgmt =>
    rintro s t d wr row rfl h
    rw [exec_mgmt]
    have hop := State.takeMc_opcode h
    have hiu := State.takeMc_hiuStep h
    refine ⟨fun hk => by rw [State.mgmtDesc_malformed h hk], fun hk hf => by rw [State.mgmtDesc_forbidden h hk hf], fun hk hf =>
      ⟨fun ha => by rw [State.mgmtDesc_invalid h hk hf ha], fun base ha => ⟨fun hr => by rw [State.mgmtDesc_waits h hk hf ha hr], fun hr => ?_⟩⟩⟩
    rw [State.mgmtDesc_accesses h hk hf ha hr]
    refine ⟨?readInFrame, ?writeInFrame, fun hi hc => ?_, fun hi hc u q hopen => ?claimed⟩
    case readInFrame =>
      rintro hi rfl
      exact (State.mgmtAccess_read base hiu hr hi hop).imp fun u hu => ⟨hu.1, congrArg _ hu.2⟩
    case writeInFrame =>
      rintro p seq r ho hreq hch rfl hl
      have hd := State.frameData_request ho hreq
      rw [← hd] at hl ⊢
      exact (State.mgmtAccess_write base hiu hr (State.inFrame_request ho hreq hch) (by rw [hop]; decide) hl).imp fun u hu =>
        ⟨hu.1, congrArg _ hu.2⟩
    · rw [State.mgmtAccess_claims t base hi, State.claimRow_waits _ rfl rfl hc]
    case claimed =>
      have hw := hiu.trans (t.pushOp_hiuStep (t.winOp d none))
      rw [State.mgmtAccess_claims t base hi, State.claimRow_goes _ rfl rfl hc]
      rw [← hw.freeReq] at hr
      rw [← hw.mgmtAddress] at ha
      refine ⟨?_, ?_⟩
      · rintro rfl hl
        exact (State.mgmtGo_read hr hopen ha hop hl).imp fun v hv => ⟨hv.1, congrArg _ hv.2⟩
      · rintro v bs rfl ht
        exact (State.mgmtGo_write hr hopen ha (by rw [show (t.winOp d none).desc = d from rfl, hop]; decide) ht).imp fun x hx =>
          ⟨hx.1, congrArg _ hx.2⟩

end Sys2Proof.Machine
end

section
/-! SUPPORT and the statement of what the rings find in a taken cell, and of a request at its target (R67, R69, R244, R249, R260, R264, R349,
R355). -/

namespace Sys2Proof.Machine

/-! What a ring finds in a taken cell (R249, R264). -/

theorem State.cellBad_congr {s t : State} (h : s.mgt = t.mgt) (c : Cell) : s.cellBad c = t.cellBad c := by
  have hx : s.inExtents = t.inExtents := by
    unfold State.inExtents State.ex State.ey State.ez
    rw [h]
  simp only [State.cellBad, hx]

/-- The state of a taken cell whose single-bit error, when it has one, is corrected, counted and logged. -/
def Taken.corrected (k : Taken) : State :=
  if k.err = some .single then
    (k.state.modInfield (fun i => { i with corrected := satInc i.corrected })).logs Code.ringCorrected 0 (k.die.val * 8)
  else k.state

section
variable {k : Taken}
theorem Taken.corrected_cellBad : k.corrected.cellBad k.cell = k.state.cellBad k.cell := by
  unfold Taken.corrected
  split
  · exact State.cellBad_congr (by simp) _
  · rfl
theorem Taken.check_off (h : k.ring = none) : k.check = (k.state, true) := by
  simp [Taken.check, h]
variable {n : Fin 32} (h : k.ring = some n)
include h
theorem Taken.check_double (he : k.err = some .double) : k.check = (k.state, false) := by
  simp only [Taken.check, h, he]
/-- Without an uncorrectable error, only a malformed cell from a link is discarded. -/
theorem Taken.check_good (he : k.err ≠ some .double) :
    k.check = if k.from_ ≠ .here ∧ k.state.cellBad k.cell = true then
      ((k.corrected.modInfield (fun i => { i with cellDrop := satInc i.cellDrop })).logRate (.cellMalformedRing n) Code.cellMalformed 0
        (k.die.val * 8), false)
    else (k.corrected, true) := by
  rw [← k.corrected_cellBad]
  unfold Taken.check Taken.corrected
  rcases hk : k.err with _ | _ | _
  · simp [h]
  · simp [h]
  · exact absurd hk he
theorem Taken.check_passed (he : k.err ≠ some .double) (hb : k.from_ = .here ∨ k.state.cellBad k.cell = false) : k.check = (k.corrected, true) := by
  rw [Taken.check_good h he, if_neg]
  rintro ⟨hf, hbad⟩
  obtain hb | hb := hb
  · exact hf hb
  · simp [hbad] at hb
theorem Taken.check_malformed {l : LinkId} (he : k.err ≠ some .double) (hf : k.from_ = .link l) (hb : k.state.cellBad k.cell = true) :
    k.check = ((k.corrected.modInfield (fun i => { i with cellDrop := satInc i.cellDrop })).logRate (.cellMalformedRing n) Code.cellMalformed 0
      (k.die.val * 8), false) := by
  rw [Taken.check_good h he, if_pos ⟨by simp [hf], hb⟩]
end

/-! The target's check (Table 03-8, R69, R244). -/

/-- The partition whose bytes a request names first. -/
def Cell.part (c : Cell) : PartId := partOfOffset (faOffset c.address)
/-- The record of a request that its target refuses. -/
def Cell.record (c : Cell) : Loc :=
  { Loc.base 8 with part := c.part.val
                    address := some ((faOffset c.address : Int) - partBase c.part)
                    access := if c.kind = CellKind.write then Kind.landing else Kind.tileRead }
/-- A management-class request that its target forbids: one beyond the package, or a write into a partition in RUN (R260). -/
def State.Forbids (s : State) (c : Cell) : Prop :=
  2 ^ 36 < faOffset c.address + c.span ∨
    (c.kind = CellKind.write ∧ ((s.part c.part).st = .run ∨ (s.part (partOfOffset (faOffset c.address + c.span - 1))).st = .run))
/-- Does the region of an entry take a request of this kind (Table 03-8)? -/
def Cell.fits (c : Cell) (e : BitVec 128) : Bool :=
  if c.kind == CellKind.write then mePurpose e == Purpose.landing else meHas e Kind.tileRead
/-- The entries of a map that a lookup by address consults. -/
def AllocMap.consulted (m : AllocMap) : List (Nat × BitVec 128) := (List.range m.count).filterMap (fun i => (m.entry? i).map (fun e => (i, e)))

theorem Cell.fits_eq_true {c : Cell} {e : BitVec 128} (h : (c.kind = CellKind.write ∧ mePurpose e = Purpose.landing) ∨
    (c.kind = CellKind.readReq ∧ meHas e Kind.tileRead = true)) : c.fits e = true := by
  obtain ⟨hk, h⟩ | ⟨hk, h⟩ := h <;> simp [Cell.fits, hk, h, CellKind.readReq, CellKind.write]
theorem Cell.fits_eq_false {c : Cell} {e : BitVec 128} (h : (c.kind = CellKind.write ∧ mePurpose e ≠ Purpose.landing) ∨
    (c.kind = CellKind.readReq ∧ meHas e Kind.tileRead = false)) : c.fits e = false := by
  obtain ⟨hk, h⟩ | ⟨hk, h⟩ := h <;> simp [Cell.fits, hk, h, CellKind.readReq, CellKind.write]

section
variable {s : State} {c : Cell}
theorem State.cellCheck_forbidden (hm : c.mgmt = true) (h : s.Forbids c) : s.cellCheck c = (s, .refuse (Code.cellRegion 11) c.record) := by
  unfold State.cellCheck Cell.record
  simp only [hm, if_true, beq_iff_eq]
  obtain hb | ⟨hw, hr⟩ := h
  · rw [if_pos hb]
    rfl
  · rw [ite_eq_left_iff.2 fun _ => if_pos (by simpa [hw, Cell.part] using hr)]
    rfl
theorem State.cellCheck_allowed (hm : c.mgmt = true) (h : ¬ s.Forbids c) : s.cellCheck c = (s, .pass) := by
  obtain ⟨hb, hr⟩ := not_or.1 h
  unfold State.cellCheck
  simp only [hm, if_true]
  rw [if_neg hb, if_neg (by simpa [Cell.part] using hr)]

variable (hm : c.mgmt = false)
include hm
theorem State.cellCheck_mapless (h : (s.part c.part).mapA = none) : s.cellCheck c = (s, .refuse (Code.regionKind 11) c.record) := by
  unfold Cell.part at h
  simp [State.cellCheck, hm, h, Cell.record, Cell.part]
theorem State.cellCheck_otherJob (h : (s.part c.part).mapA ≠ none)
    (hj : ∀ b : PaceBlock, (s.jobOf c.part).bind Job.pace = some b → b.domainId ≠ c.domain ∨ b.jobIndex ≠ c.jobIndex) :
    s.cellCheck c = (s, .refuse (Code.cellRegion 11) c.record) := by
  unfold Cell.part at h hj
  cases hp : (s.jobOf (partOfOffset (faOffset c.address))).bind Job.pace with
  | none => simp [State.cellCheck, hm, h, hp, Cell.record, Cell.part]
  | some b =>
    have hne : ¬(b.domainId = c.domain ∧ b.jobIndex = c.jobIndex) := fun ⟨hd, hx⟩ => (hj b hp).elim (· hd) (· hx)
    simp [State.cellCheck, hm, h, hp, hne, Cell.record, Cell.part]

end

/-- A job-class request for the job of its partition, both copies of whose map are m. -/
structure State.JobCell (s : State) (c : Cell) (m : AllocMap) : Prop where
  mgmt : c.mgmt = false
  mapA : (s.part c.part).mapA = some m
  mapB : (s.part c.part).mapB = some m
  job : ∃ b, (s.jobOf c.part).bind Job.pace = some b ∧ b.domainId = c.domain ∧ b.jobIndex = c.jobIndex

section
variable {s : State} {c : Cell} {m : AllocMap} (h : s.JobCell c m)
include h
theorem State.cellCheck_unplaced (hr : regionOf m.consulted (faOffset c.address - partBase c.part) 1 = none) :
    s.cellCheck c = (s, .refuse (Code.cellRegion 11) c.record) := by
  obtain ⟨hm, ha, hb, b, hp, hd, hx⟩ := h
  have hc := State.consult_same ha hb (fun m => List.range m.count)
  unfold Cell.part at ha hp hc hr
  unfold AllocMap.consulted at hr
  simp [State.cellCheck, State.consultAll, hm, ha, hp, hd, hx, hc, hr, Cell.record, Cell.part]
variable {i : Nat} {e : BitVec 128} (hr : regionOf m.consulted (faOffset c.address - partBase c.part) 1 = some (i, e))
include hr
/-- In the region of an entry a request passes when its kind fits and its bytes end there. -/
theorem State.cellCheck_placed :
    s.cellCheck c = (s,
      if c.fits e = false then .refuse (Code.cellRegion 11) { c.record with region := some i }
      else if meStart e + meLen e < faOffset c.address - partBase c.part + c.span then
        .refuse (Code.cellRegion 11) { c.record with region := some i, address := some ((meStart e + meLen e : Nat) : Int) }
      else .pass) := by
  obtain ⟨hm, ha, hb, b, hp, hd, hx⟩ := h
  have hc := State.consult_same ha hb (fun m => List.range m.count)
  unfold Cell.part at ha hp hc hr
  unfold AllocMap.consulted at hr
  simp [State.cellCheck, State.consultAll, hm, ha, hp, hd, hx, hc, hr, Cell.record, Cell.part, Cell.fits]
theorem State.cellCheck_misfit (hf : c.fits e = false) :
    s.cellCheck c = (s, .refuse (Code.cellRegion 11) { c.record with region := some i }) := by
  rw [State.cellCheck_placed h hr, if_pos hf]
variable (hf : c.fits e = true)
include hf
theorem State.cellCheck_beyond (hl : meStart e + meLen e < faOffset c.address - partBase c.part + c.span) : s.cellCheck c =
    (s, .refuse (Code.cellRegion 11) { c.record with region := some i, address := some ((meStart e + meLen e : Nat) : Int) }) := by
  rw [State.cellCheck_placed h hr, if_neg (by simp [hf]), if_pos hl]
theorem State.cellCheck_within (hl : faOffset c.address - partBase c.part + c.span ≤ meStart e + meLen e) : s.cellCheck c = (s, .pass) := by
  rw [State.cellCheck_placed h hr, if_neg (by simp [hf]), if_neg (Nat.not_lt.2 hl)]
end

/-! CELL_REQUEST (R260, R355). -/

/-- Is the tile or the partition of a request in HOLD? -/
def State.targetHeld (s : State) (c : Cell) : Bool := s.inHold (.tile (finOf 256 (faOffset c.address / 2 ^ 28))) || (s.part c.part).st == .hold
theorem State.targetHeld_iff (s : State) (c : Cell) :
    s.targetHeld c = true ↔ s.inHold (.tile (finOf 256 (faOffset c.address / 2 ^ 28))) = true ∨ (s.part c.part).st = .hold := by
  simp only [State.targetHeld, Bool.or_eq_true, beq_iff_eq]
/-- The cell that answers a read request with the bytes that stand there. -/
def State.readAnswer (s : State) (c : Cell) : Cell :=
  { address := mkFa c.mgmt c.src (faOffset c.address)
    head := mkHead CellKind.readData c.wordsM1 c.mgmt s.chip c.tag c.epoch c.jobIndex c.domain
    data := mkData (Mem.read s.sram.mem (faOffset c.address) c.span) }

section
variable {s v : State} {k : Taken} (ht : s.takeCell (fun c => c.kind == CellKind.write || c.kind == CellKind.readReq) = some k)
include ht
theorem exec_cellRequest_discarded (hk : k.check = (v, false)) : exec .cellRequest s = .next v := by
  show execCellRequest s = _
  simp only [execCellRequest, ht, hk]
variable (hk : k.check = (v, true))
include hk
theorem exec_cellRequest_held (h : v.targetHeld k.cell = true) : exec .cellRequest s = .next (v.answer k.cell Status.unitReset 0) := by
  show execCellRequest s = _
  unfold State.targetHeld Cell.part at h
  simp only [execCellRequest, ht, hk, h, if_true]
variable (h : v.targetHeld k.cell = false)
include h
theorem exec_cellRequest_refused {u : State} {code : W16} {r : Loc} (hc : v.cellCheck k.cell = (u, .refuse code r)) :
    exec .cellRequest s = .next ((u.logOfJob k.cell.part code r).answer k.cell Status.notPermitted code) := by
  show execCellRequest s = _
  unfold State.targetHeld Cell.part at h
  simp only [execCellRequest, ht, hk, h, hc, Bool.false_eq_true, if_false, Cell.part]
variable {u : State} (hc : v.cellCheck k.cell = (u, .pass)) (he : u.sram.ecc = [])
include hc he
theorem exec_cellRequest_written (hw : k.cell.kind = CellKind.write) :
    exec .cellRequest s = .next ((u.wr (faOffset k.cell.address) (k.cell.bytes.take k.cell.span)).answer k.cell Status.success 0) := by
  show execCellRequest s = _
  unfold State.targetHeld Cell.part at h
  simp only [execCellRequest, ht, hk, h, hc, hw, State.store_clean u _ _ _ he, beq_self_eq_true, Bool.false_eq_true, if_true, if_false]
  rfl
theorem exec_cellRequest_read (hr : k.cell.kind = CellKind.readReq) :
    exec .cellRequest s = .next (u.sendCell (Stop.ofOffset (faOffset k.cell.address)) (u.readAnswer k.cell)) := by
  have hw : (k.cell.kind == CellKind.write) = false := by rw [hr]; rfl
  show execCellRequest s = _
  unfold State.targetHeld Cell.part at h
  simp only [execCellRequest, ht, hk, h, hc, hw, State.fetchBytes_clean u _ _ _ he, Bool.false_eq_true, if_false, State.readAnswer]
end

/-! A refusal in a partition (R349). -/

theorem State.logOfJob_logs {s : State} {p : PartId} (h : ∀ j : Job, s.jobOf p = some j → j.phase ≠ .faulted) (code : W16) (r : Loc) :
    s.logOfJob p code r = s.logAt code (s.vfOf p) r := by
  rw [State.logOfJob, if_neg]
  simpa [Option.any_eq_true] using h
theorem State.logOfJob_counts {s : State} {p : PartId} {j : Job} (hj : s.jobOf p = some j) (hp : j.phase = .faulted) (code : W16) (r : Loc) :
    s.logOfJob p code r = s.modLog (fun g => { g with suppressed := satInc g.suppressed }) := by
  simp [State.logOfJob, hj, hp]

/-- Settles O33: what the rings find is `Taken.check_good`'s cases; a request ends as its target's check says, whose cases are above. -/
theorem cellRequestsReachTheirPlot : Obligations.CellRequestsReachTheirPlot := by
  refine ⟨fun k => ⟨Taken.check_off, fun n hn => ⟨Taken.check_double hn, ?_⟩⟩, ?_,
    fun s p code r => ⟨fun h => State.logOfJob_logs h code r, fun j hj hp => State.logOfJob_counts hj hp code r⟩⟩
  · rintro v rfl he
    exact ⟨Taken.check_passed hn he, fun l => Taken.check_malformed hn he⟩
  · rintro s v k c ht rfl
    refine ⟨exec_cellRequest_discarded ht, fun hk => ⟨fun h => exec_cellRequest_held ht hk ((v.targetHeld_iff _).2 h), fun hu hq => ?_⟩⟩
    have h : v.targetHeld k.cell = false := Bool.eq_false_iff.2 (mt (v.targetHeld_iff _).1 (not_or.2 ⟨Bool.eq_false_iff.1 hu, hq⟩))
    refine ⟨fun hm hl he => ⟨fun hw h0 h1 => ⟨?_, fun hwf x hx => ?_⟩, fun hr => ?_⟩, fun hm hf => ?_, ?_, ?_⟩
    · have hc := State.cellCheck_allowed hm (s := v) (not_or.2 ⟨Nat.not_lt.2 hl, fun hf => hf.2.elim h0 h1⟩)
      exact exec_cellRequest_written ht hk h hc he hw
    · exact Mem.get_write_other _ _ _ _ hwf (hx.imp_right fun hx => by simp; omega)
    · have hc := State.cellCheck_allowed hm (s := v) (not_or.2 ⟨Nat.not_lt.2 hl, fun hf => by simp [hr, CellKind.readReq, CellKind.write] at hf⟩)
      rw [exec_cellRequest_read ht hk h hc he hr, State.readAnswer, hm]
    · exact exec_cellRequest_refused ht hk h (State.cellCheck_forbidden hm hf)
    · rintro p off m b r hm rfl rfl ha hb he hp hd hx rfl
      have hj : v.JobCell k.cell m := ⟨hm, ha, hb, b, hp, hd, hx⟩
      refine ⟨fun hr => exec_cellRequest_refused ht hk h (State.cellCheck_unplaced hj hr), fun i e hr => ?_⟩
      refine ⟨fun hn => exec_cellRequest_refused ht hk h (State.cellCheck_misfit hj hr (Cell.fits_eq_false hn)), fun hn => ?_⟩
      have hf := Cell.fits_eq_true hn
      refine ⟨fun hl => exec_cellRequest_refused ht hk h (State.cellCheck_beyond hj hr hf hl), fun hl => ?_⟩
      have hc := State.cellCheck_within hj hr hf hl
      refine ⟨exec_cellRequest_written ht hk h hc he, fun hr => ?_⟩
      rw [exec_cellRequest_read ht hk h hc he hr, State.readAnswer, hm]
    · rintro code hm (⟨ha, rfl⟩ | ⟨ha, rfl, hj⟩)
      · exact exec_cellRequest_refused ht hk h (State.cellCheck_mapless hm ha)
      · exact exec_cellRequest_refused ht hk h (State.cellCheck_otherJob hm ha hj)

end Sys2Proof.Machine
end

section
/-! SUPPORT and the statement of the replies and timers that end a request, and of COUNTER_REQ (R261, R262, R266, R356, Tables 11-5, 11-6). -/

namespace Sys2Proof.Machine

/-! The request that a reply names (R262, R356). -/

/-- The VC of the request that a reply answers. -/
def Cell.replyVc (c : Cell) : Bool := if c.kind = CellKind.completion then bit (byteAt c.data 1) 0 else c.mgmt
/-- Does a reply match an open request by VC, slot, reuse count and epoch? -/
def State.matched (s : State) (c : Cell) (q : Request) : Bool :=
  q.mgmt == c.replyVc && q.slot.toNat == c.tag.toNat % 256 && q.reuse.toNat == c.tag.toNat / 256 && s.ownerEpoch q.owner == c.epoch
theorem State.matched_iff (s : State) (c : Cell) (q : Request) : s.matched c q = true ↔ q.mgmt = c.replyVc ∧ q.slot.toNat = c.tag.toNat % 256 ∧
    q.reuse.toNat = c.tag.toNat / 256 ∧ s.ownerEpoch q.owner = c.epoch := by
  simp only [State.matched, Bool.and_eq_true, beq_iff_eq, and_assoc]

/-! What a reply adds to its request. -/

section
variable (q : Request) (c : Cell)
/-- A reply changes neither whose request it is nor what it was to bring, and counts as one. -/
theorem Request.take_eq : ∃ r u d bs, q.take c = { q with left := q.left - 1, refused := r, unitReset := u, linkDown := d, data := bs } := by
  unfold Request.take
  dsimp only
  split_ifs <;> exact ⟨_, _, _, _, rfl⟩
@[simp] theorem Request.take_left : (q.take c).left = q.left - 1 := by
  obtain ⟨r, u, d, bs, h⟩ := q.take_eq c
  rw [h]
@[simp] theorem Request.take_owner : (q.take c).owner = q.owner := by
  obtain ⟨r, u, d, bs, h⟩ := q.take_eq c
  rw [h]
variable {q c}
theorem Request.take_success (hk : c.kind = CellKind.completion) (h : byteAt c.data 0 = Status.success) : q.take c = { q with left := q.left - 1 } := by
  simp [Request.take, hk, h]
theorem Request.take_data (hk : c.kind = CellKind.readData) : q.take c =
    { q with left := q.left - 1, data := Mem.write q.data (faOffset c.address - faOffset q.base) (c.bytes.take c.span) } := by
  simp [Request.take, hk, CellKind.readData, CellKind.completion]
end

/-! The data of a GET (R261). -/

theorem State.landGet_none {s : State} {q : Request} (h : ∀ l p i, q.owner = .putGet l p i true →
    q.refused.isSome = true ∨ q.unitReset = true ∨ q.linkDown = true) : s.landGet q = (s, true) := by
  unfold State.landGet
  split
  · rename_i l p i ho
    rw [if_pos (by simpa [or_assoc] using h l p i ho)]
  · rfl
theorem State.landGet_lands {s : State} {q : Request} {lead p : PartId} {i : Issued} {m : AllocMap} {e : BitVec 128}
    (ho : q.owner = .putGet lead p i true) (hr : q.refused = none) (hu : q.unitReset = false) (hd : q.linkDown = false)
    (hA : (s.part p).mapA = some m) (hB : (s.part p).mapB = some m) (he : m.entry? (putLocal i.cmd).region = some e)
    (hl : (putLocal i.cmd).offset + putLength i.cmd ≤ meLen e) (hc : s.sram.ecc = []) :
    s.landGet q = (s.wr (partBase p + meStart e + (putLocal i.cmd).offset) (Mem.read q.data 0 q.length), true) := by
  simp only [State.landGet, ho, hr, hu, hd, State.localRange_ok hA hB he hl]
  exact State.store_clean s _ _ _ hc

/-! CELL_REPLY (R261, R262). -/

/-- The state whose requests are those of a list. -/
def State.withRequests (s : State) (qs : List Request) : State := s.modInfield (fun i => { i with requests := qs })

section
variable {s v : State} {k : Taken} (ht : s.takeCell (fun c => c.kind == CellKind.readData || c.kind == CellKind.completion
  || (c.kind == CellKind.management && c.mgmtType == 4)) = some k)
include ht
theorem exec_cellReply_discarded (hk : k.check = (v, false)) : exec .cellReply s = .next v := by
  show execCellReply s = _
  simp only [execCellReply, ht, hk]
variable (hk : k.check = (v, true))
include hk
theorem exec_cellReply_stale (h : ∀ q ∈ v.infield.requests, v.matched k.cell q = false) :
    exec .cellReply s = .next (v.modInfield (fun i => { i with staleCount := satInc i.staleCount })) := by
  have hf : v.infield.requests.find? (v.matched k.cell) = none := List.find?_eq_none.2 fun q hq => by simp [h q hq]
  unfold State.matched Cell.replyVc at hf
  show execCellReply s = _
  simp only [execCellReply, ht, hk, beq_iff_eq, hf]
variable {q : Request} (hr : v.infield.requests = [q]) (hm : v.matched k.cell q = true)
include hr hm
theorem exec_cellReply_more (hl : 1 < q.left) : exec .cellReply s = .next (v.withRequests [q.take k.cell]) := by
  have hf : v.infield.requests.find? (v.matched k.cell) = some q := by simp [hr, hm]
  have hn : ((q.take k.cell).left != 0) = true := by simp; omega
  unfold State.matched Cell.replyVc at hf
  show execCellReply s = _
  simp only [execCellReply, ht, hk, beq_iff_eq, hf, hn, if_true]
  simp [State.modInfield, State.withRequests, hr, updFirst]
/-- The last reply of a request ends it once the data of a GET stand in its local reference. -/
theorem exec_cellReply_last {w : State} (hl : q.left = 1) (hw : (v.withRequests [q.take k.cell]).landGet (q.take k.cell) = (w, true)) :
    exec .cellReply s = .next (w.finishRequest (q.take k.cell) false) := by
  have hf : v.infield.requests.find? (v.matched k.cell) = some q := by simp [hr, hm]
  have hn : ((q.take k.cell).left != 0) = false := by simp [hl]
  have hu : v.modInfield (fun i => { i with requests := updFirst (· == q) (fun _ => q.take k.cell) i.requests }) =
      v.withRequests [q.take k.cell] := by
    simp [State.modInfield, State.withRequests, hr, updFirst]
  unfold State.matched Cell.replyVc at hf
  show execCellReply s = _
  simp only [execCellReply, ht, hk, beq_iff_eq, hf, hn, hu, hw, Bool.false_eq_true, if_false]
end

/-! CELL_TIMEOUT (R261). -/

theorem exec_cellTimeout_none {s : State} {mgmt : Bool} {slot : Byte} (h : ∀ q ∈ s.infield.requests, q.mgmt = mgmt → q.slot ≠ slot) :
    exec (.cellTimeout mgmt slot) s = .next s := by
  have hf : s.infield.requests.find? (fun q => q.mgmt == mgmt && q.slot == slot) = none :=
    List.find?_eq_none.2 fun q hq => by simpa using h q hq
  show execCellTimeout mgmt slot s = _
  simp only [execCellTimeout, hf]
theorem exec_cellTimeout_open {s : State} {q : Request} (hr : s.infield.requests = [q]) :
    exec (.cellTimeout q.mgmt q.slot) s = .next (s.finishRequest q true) := by
  show execCellTimeout q.mgmt q.slot s = _
  simp [execCellTimeout, hr]

/-! The end of a request (Table 11-5). -/

/-- The state in which the slot of a request is free again. -/
def State.freed (s : State) (q : Request) : State :=
  s.modInfield (fun i => { i with requests := i.requests.filter (fun x => !(x.mgmt == q.mgmt && x.slot == q.slot)) })
theorem State.freed_only {s : State} {q x : Request} (h : s.infield.requests = [x]) (hm : x.mgmt = q.mgmt) (hs : x.slot = q.slot) :
    s.freed q = s.withRequests [] := by
  simp [State.freed, State.withRequests, State.modInfield, h, hm, hs]
/-- The state in which the time-out of a request of the package's own, unless a cell of it was refused, is logged. -/
def State.timeoutLogged (s : State) (q : Request) (expired : Bool) : State :=
  if expired = true ∧ q.refused = none then s.logs Code.cellTimeout else s
theorem State.timeoutLogged_hiu (s : State) (q : Request) (expired : Bool) : (s.timeoutLogged q expired).hiu = s.hiu := by
  unfold State.timeoutLogged
  split <;> simp

section
variable {s : State} {q : Request} {expired : Bool}

section
variable {lead p : PartId} {i : Issued} {g : Bool} (ho : q.owner = .putGet lead p i g)
include ho
theorem State.finishRequest_refused {off : Nat} (hr : q.refused = some off) : s.finishRequest q expired =
    (s.freed q).partJobFault p Code.cellRefused { i.loc p 6 with address := some ((off : Int) - p.val * 2 ^ 33) } := by
  simp only [State.finishRequest, ho, hr]
  rfl
variable (hr : q.refused = none)
include hr
theorem State.finishRequest_expired (he : expired = true) : s.finishRequest q expired = (s.freed q).partJobFault p Code.cellTimeout (i.loc p 6) := by
  simp only [State.finishRequest, ho, hr, he, if_true]
  rfl
variable (he : expired = false)
include he
theorem State.finishRequest_unitReset (hu : q.unitReset = true) :
    s.finishRequest q expired = ((s.freed q).retire p i (fun id g => mkVoid 3 id g 0xFF) 6).settle p := by
  simp only [State.finishRequest, ho, hr, he, hu, Bool.false_eq_true, if_false, if_true]
  rfl
theorem State.finishRequest_linkDown (hu : q.unitReset = false) (hd : q.linkDown = true) :
    s.finishRequest q expired = ((s.freed q).retire p i (fun id g => mkVoid 4 id g 0xFF) 6).settle p := by
  simp only [State.finishRequest, ho, hr, he, hu, hd, Bool.false_eq_true, if_false, if_true]
  rfl
theorem State.finishRequest_posted (hu : q.unitReset = false) (hd : q.linkDown = false) :
    s.finishRequest q expired = ((s.freed q).retire p i (fun id g => mkEntry 0 id g 0xFF) 6).settle p := by
  simp only [State.finishRequest, ho, hr, he, hu, hd, Bool.false_eq_true, if_false]
  rfl
end

theorem State.finishRequest_i3c {rd : Bool} (ho : q.owner = .i3c rd) : s.finishRequest q expired =
    { (s.freed q).timeoutLogged q expired with
      side := { ((s.freed q).timeoutLogged q expired).side with
        i3cReply := (q.mgmtStatus expired).1 :: (if (q.mgmtStatus expired).1 = 0 ∧ rd = true then Mem.read q.data 0 q.length else []) } } := by
  simp only [State.finishRequest, ho, State.timeoutLogged, Bool.and_eq_true, Option.isNone_iff_eq_none, decide_eq_true_eq]
  rfl
theorem State.finishRequest_mgmt {d : Desc} {rd : Bool} (ho : q.owner = .mgmt d rd ∨ (q.owner = .counters d ∧ rd = true)) :
    s.finishRequest q expired = ((s.freed q).timeoutLogged q expired).finishMgmt d rd (q.mgmtStatus expired).1 (q.mgmtStatus expired).2
      (Mem.read q.data 0 q.length) := by
  obtain ho | ⟨ho, rfl⟩ := ho <;> simp only [State.finishRequest, ho, State.timeoutLogged, Bool.and_eq_true, Option.isNone_iff_eq_none] <;> rfl
end

/-! The end of a management descriptor. -/

section
variable {s : State} {d : Desc} {rd syn : Bool} {st : Byte} {bs : List Byte}
/-- One that holds no place among the window descriptors completes at once. -/
theorem State.finishMgmt_completes (h : ∀ o ∈ s.hiu.winOps, o.desc ≠ d) : s.finishMgmt d rd st syn bs =
    if st = 0 ∧ rd = true then s.completeWith d { status := st, synthetic := syn, detail0 := BitVec.ofNat 64 bs.length } bs
    else s.complete d { status := st, synthetic := syn } := by
  unfold State.finishMgmt
  split
  · by_cases hb : st = 0 ∧ rd = true
    · simp [hb]
    · have hn : (decide (st = 0) && rd) = false := Bool.eq_false_iff.2 (by simpa only [ne_eq, Bool.and_eq_true, decide_eq_true_eq] using hb)
      simp only [hn, if_neg hb, Bool.false_eq_true, if_false]
      rfl
  · rename_i o hf
    have hd := List.find?_some hf
    simp only [Bool.and_eq_true, beq_iff_eq] at hd
    exact absurd hd.1 (h o (List.mem_of_find?_eq_some hf))
variable {o : WinOp} {n : Nat} (hw : s.hiu.winOps = [o]) (hd : o.desc = d) (hp : o.phase = .reply n)
include hw hd hp
theorem State.finishMgmt_closes (h : st ≠ 0 ∨ rd = false) : s.finishMgmt d rd st syn bs =
    s.modHiu (fun h => { h with winOps := [{ o with phase := .close st o.claim 0 false 0 0 0 }] }) := by
  have hn : (decide (st = 0) && rd) = false := by
    obtain h | h := h <;> simp only [h, decide_false, Bool.false_and, Bool.and_false]
  unfold State.finishMgmt
  simp only [hn]
  simp [hw, hd, hp, State.modHiu, updFirst]
theorem State.finishMgmt_moves {u : State} {k : Nat} (h0 : st = 0) (h1 : rd = true)
    (hm : s.winWrite o.root bs.length (o.offset.toNat + 64) bs = (u, k, none)) (hu : u.hiu.winOps = [o]) : s.finishMgmt d rd st syn bs =
    u.modHiu (fun h => { h with winOps := [{ o with phase := .close 0 o.claim k false (BitVec.ofNat 64 k) 0 0 }] }) := by
  unfold State.finishMgmt
  simp [hw, hd, hp, h0, h1, hm, hu, State.modHiu, updFirst]
end

/-! COUNTER_REQ (R266). -/

section
variable {s v : State} {k : Taken} (hs : s.fwServes = true) (ht : s.takeCell (isMgmtCell 3) = some k)
include hs ht
theorem exec_counterReq_discarded (hk : k.check = (v, false)) : exec .counterReq s = .next v := by
  show execCounterReq s = _
  simp [execCounterReq, hs, ht, hk]
theorem exec_counterReq_answered (hk : k.check = (v, true)) : exec .counterReq s = .next (v.sendCell (.service 0)
    { address := mkFa true k.cell.src (faOffset k.cell.address)
      head := mkHead CellKind.management 2 true v.chip k.cell.tag k.cell.epoch k.cell.jobIndex k.cell.domain
      data := mkData (v.infield.counterData (byteAt k.cell.data 1).toNat (byteAt k.cell.data 2).toNat) }) := by
  show execCounterReq s = _
  simp [execCounterReq, hs, ht, hk]
end

/-- Settles O34: a reply is taken as its lemma of CELL_REPLY says, a request ends as that of its owner in Table 11-5. -/
theorem repliesAndTimersEndRequests : Obligations.RepliesAndTimersEndRequests := by
  refine ⟨?_, fun s mgmt slot => ⟨exec_cellTimeout_none, ?_⟩, ?_,
    fun s v k hs ht => ⟨exec_counterReq_discarded hs ht, exec_counterReq_answered hs ht⟩⟩
  · rintro s v k c ht rfl
    refine ⟨exec_cellReply_discarded ht, ?_⟩
    rintro vc hk rfl
    refine ⟨fun h => exec_cellReply_stale ht hk fun q hq => ?_, fun q hr hvc hslot hreuse hepoch => ?_⟩
    · refine Bool.eq_false_iff.2 fun hm => ?_
      obtain ⟨hvc, hslot, hreuse, hepoch⟩ := (v.matched_iff _ _).1 hm
      exact h q hq hvc hslot hreuse hepoch
    · have hm : v.matched k.cell q = true := (v.matched_iff _ _).2 ⟨hvc, hslot, hreuse, hepoch⟩
      refine ⟨fun hl hc hst => ?_, fun hl hc => ?_, fun hl h => ?_, ?_⟩
      · rw [exec_cellReply_more ht hk hr hm hl, Request.take_success hc hst]
        rfl
      · rw [exec_cellReply_more ht hk hr hm hl, Request.take_data hc]
        rfl
      · exact exec_cellReply_last ht hk hr hm hl (State.landGet_none fun l p i ho => h l p i (by simpa using ho))
      · rintro lead p i w m e hl ho hf hu hd rfl hA hB he hlen hecc
        exact exec_cellReply_last ht hk hr hm hl
          (State.landGet_lands (by simpa using ho) hf hu hd hA hB he hlen hecc)
  · rintro q hr rfl rfl
    exact exec_cellTimeout_open hr
  · rintro s w q expired x hx hxm hxs rfl
    have hw : s.freed q = s.modInfield (fun i => { i with requests := [] }) := State.freed_only hx hxm hxs
    rw [← hw]
    refine ⟨fun lead p i g ho => ⟨fun off => State.finishRequest_refused ho, State.finishRequest_expired ho, State.finishRequest_unitReset ho,
      State.finishRequest_linkDown ho, State.finishRequest_posted ho⟩, fun st syn rd hst => ?_⟩
    obtain ⟨rfl, rfl⟩ : st = (q.mgmtStatus expired).1 ∧ syn = (q.mgmtStatus expired).2 := ⟨congrArg Prod.fst hst, congrArg Prod.snd hst⟩
    refine ⟨?_, ?_⟩
    · rintro v ho rfl
      exact State.finishRequest_i3c ho
    · rintro d v ho rfl
      have hiu : ((s.freed q).timeoutLogged q expired).hiu = s.hiu := State.timeoutLogged_hiu _ _ _
      rw [State.finishRequest_mgmt ho]
      refine ⟨fun h => State.finishMgmt_completes (by rwa [hiu]), fun o n ho hd hp => ?_⟩
      rw [← hiu] at ho
      refine ⟨State.finishMgmt_closes ho hd hp, fun u h0 h1 hm hu => State.finishMgmt_moves ho hd hp h0 h1 ?_ hu⟩
      rw [Mem.read_length] at hm ⊢
      exact hm

end Sys2Proof.Machine
end

section
/-! SUPPORT and the statement of the scheduled occurrences of the infield rings (R44, R116, R249, R251), which fails where two jobs of the list
carry one identity. -/

namespace Sys2Proof.Machine

/-! Two jobs of one identity that count their occurrences from different numbers. -/

/-- The set of transfer 0 on ring 0, with one occurrence of one slot at the beginning of table 0. -/
def twinSet (rx : Bool) : TableSet :=
  { link := 0xE, rx := rx, ring := 0, peerRank := 0, tables := [(0, 1)], segs := [0x20000000], xfers := [Transfer.zero] }
def twinImage : Image :=
  { partCount := 1, parkPart := none, minGrade := 0, slipBudget := 0, waitLimit := 0, featureReq := 0, name := [], maps := [], queues := []
    streams := [], lists := [], graphTargets := [], hurdles := [], work := [], parkMap := none, points := [], inits := []
    plan := some { lapLen := [4096], loopEntry := 0, plans := [{ planId := 0, seq := [0], avoid := [], sets := [twinSet false, twinSet true] }] } }
/-- The SEND that has bound occurrence 0 of transfer 0. -/
def twinSend : BoundSend :=
  { transfer := 0, occurrence := 0, void := 0, carried := 0, cmd := { cmd := { w := Vector.replicate 8 0 }, index := 0, iter := 0, src := .stream 0 }
    part := 0, posted := false }
/-- A job in RUN on P0 of identity 1, whose lap 0 begins at count 2, with n occurrences of transfer 0 before its lap sequence (R396). -/
def twinJob (n : Nat) : Job :=
  { twinImage.job 1 { fn := 0, origin := .ring 0 0, w := Vector.replicate 8 0 } [0] with
    phase := .run, sends := [twinSend], occBase := [(false, 0, n)]
    lap := some { entry := 0, rep := 0, lapIndex := 0, lapStart := 2, table := 0, length := 4096, held := false, paused := false, waits := false
                  ended := false, baseEntry := 0, baseLap := 0, prevStart := 2, met := 2, prevHeld := false, heldAfter := [] } }
/-- At count 0 P0 holds identity 1, which both jobs carry. -/
def twinState : State := { State.reset with
  jobs := [twinJob 0, twinJob 1], parts := vset State.reset.parts 0 { Partition.reset with st := .run, job := some 1 } }
/-- The lap of the twins. -/
def twinSpan : LapSpan := { index := 0, entry := 0, table := 0, start := 2, held := false }

/-- A job with the sample of the present send of occurrence 0, of the number given. -/
def Job.sampledTwin (j : Job) (number : Nat) : Job :=
  { j with ringSampled := j.ringSampled ++ [(0, { occ := twinSpan.occ 0 0x20000000, number := number, outcome := .present })] }
/-- The numbers of the occurrences that a job has sampled. -/
def Job.sampleNumbers (j : Job) : List Nat := j.ringSampled.map (·.2.number)

/-- The row notes in both the number that the first counts. -/
theorem exec_ringOccurrence_twins :
    exec (.ringOccurrence 0 0 none) twinState = .next (twinState.modJob 1 (·.sampledTwin 0)) := rfl

/-- Refutes O35: the number of a sampled occurrence is that of the job the row is of, noted in every job of its identity, while the statement
counts it anew in each of those, and does not ask that one job alone carries the identity. -/
theorem not_ringOccurrencesSendOrStumble : ¬ Obligations.RingOccurrencesSendOrStumble := by
  rintro ⟨hrow, -, -⟩
  obtain ⟨hidle, -⟩ := hrow twinState 0 0 (twinJob 0) (twinSet false) (twinSet true) rfl rfl rfl rfl rfl rfl
  have hnone : ∀ x : LapSpan, (twinJob 0).spanAt twinState.pace.count.toNat = some x →
      x.held = true ∨ (twinSet false).occAt x.table 0 (twinState.pace.count.toNat - x.start) = none := nofun
  obtain ⟨hbound, -⟩ := (hidle hnone).2 none twinSpan 0 0x20000000 (0, 0x20000000) rfl rfl rfl rfl rfl rfl rfl
  have hclaim : exec (.ringOccurrence 0 0 none) twinState =
      .next (twinState.modJob 1 (fun j => j.sampledTwin (j.occNumber (twinSet false) 0 0 0))) := hbound twinSend rfl rfl
  rw [exec_ringOccurrence_twins] at hclaim
  have hnumbers : [[0], [0]] = [[0], [1]] := congrArg (fun s : State => s.jobs.map Job.sampleNumbers) (Host.Outcome.next.inj hclaim)
  exact absurd hnumbers (by decide)

end Sys2Proof.Machine
end

section
/-! SUPPORT and the statement of the host port and the reset of a function (R269, R274, R299, R372, R405, Table 12-1). -/

namespace Sys2Proof.Machine

/-! What a firmware update that goes on leaves of PF0. -/

/-- What the reset of PF0 clears beside its functions: the binding, the interrupt and the exclusion registers, and the service transmit ring. -/
def State.pfRegs (s : State) : Vector W32 8 × Byte × Vector W64 4 × Vector W64 4 × Sq :=
  (s.hiu.bind, s.hiu.errMask, s.hiu.exclBase, s.hiu.exclLimit, s.svc.tx)

/-- Fetching the image changes nothing but the log, where a window fault is noted. -/
theorem State.fwFetch_state (s : State) (root : W64) (off len : Nat) :
    (s.fwFetch root off len).1 = s ∨ ∃ c, (s.fwFetch root off len).1 = s.winFault 0 c := by
  unfold State.fwFetch
  extract_lets get
  have hget : ∀ n, (get n).1 = s ∨ ∃ c, (get n).1 = s.winFault 0 c := by
    intro n
    unfold get
    split
    · exact .inr ⟨_, rfl⟩
    · split
      · exact .inl rfl
      · exact .inr ⟨_, rfl⟩
  split
  · next heq => have hs := hget 512; rwa [heq] at hs
  · next head heq =>
    split
    · exact .inl rfl
    · split
      · next heq => have hs := hget (fwSize head); rwa [heq] at hs
      · next heq => have hs := hget (fwSize head); rwa [heq] at hs

section
variable (s : State)
@[simp] theorem State.modBoot_pfRegs (g : Boot → Boot) : (s.modBoot g).pfRegs = s.pfRegs := rfl
@[simp] theorem State.writeHeader_pfRegs (a : Nat) (h : Hdr) (o : Nat) (st : Byte) (p : Bool) (n : Nat) (f : W16) (t : W32) :
    (s.writeHeader a h o st p n f t).pfRegs = s.pfRegs := rfl
@[simp] theorem State.fwReject_pfRegs (st : Byte) : (s.fwReject st).pfRegs = s.pfRegs := rfl
@[simp] theorem State.fwWindowBad_pfRegs (c : W16) (st : Byte) : (s.fwWindowBad c st).pfRegs = s.pfRegs := rfl
@[simp] theorem State.winMismatch_pfRegs (f : FnId) : (s.winMismatch f).pfRegs = s.pfRegs := by
  rw [State.winMismatch, State.logRate_eq]; rfl
@[simp] theorem State.endWait_pfRegs (u : HeaderUser) : (s.endWait u).pfRegs = s.pfRegs := rfl
@[simp] theorem State.keepWait_pfRegs (x : HeaderWait) : (s.keepWait x).pfRegs = s.pfRegs := by
  unfold State.keepWait; split <;> rfl
end
theorem State.fwFetch_pfRegs {s t : State} {root : W64} {off len : Nat} {r : FwRead} (h : s.fwFetch root off len = (t, r)) :
    t.pfRegs = s.pfRegs := by
  have hs := s.fwFetch_state root off len
  rw [h] at hs
  obtain rfl | ⟨c, rfl⟩ := hs <;> rfl
@[simp] theorem State.fwRead_pfRegs (s : State) (root off : W64) : (s.fwRead root off).pfRegs = s.pfRegs := by
  unfold State.fwRead
  split
  · exact s.fwWindowBad_pfRegs ..
  · split
    · exact s.fwWindowBad_pfRegs ..
    · dsimp only
      split
      · exact s.fwWindowBad_pfRegs ..
      · split
        · simp
        · split
          · next heq => simp [State.fwFetch_pfRegs heq]
          · next heq => simp [State.fwFetch_pfRegs heq]
theorem State.fwProceed_pfRegs (s : State) : s.fwProceed.pfRegs = s.pfRegs := by
  unfold State.fwProceed
  dsimp only
  split
  · rfl
  · split
    · exact s.fwReject_pfRegs _
    · split <;> simp
theorem State.fwProceed_idle {s : State} (h : s.boot.stage ≠ .reading) : s.fwProceed = s := if_pos (by simp [h])

/-! The reset of PF0 (R274, R405). -/

theorem State.functionReset_pf0 (s : State) :
    (s.functionReset 0).hiu.bind = Vector.replicate 8 0 ∧ (s.functionReset 0).svc.tx.enable = false ∧
    (s.functionReset 0).hiu.exclBase = Vector.replicate 4 0 ∧ (s.functionReset 0).hiu.exclLimit = Vector.replicate 4 0 ∧
    (s.functionReset 0).hiu.errMask = 3 := by
  unfold State.functionReset
  extract_lets reset tx both
  have hboth : both = tx.modHiu (fun h =>
      { h with
        bind := Vector.replicate 8 0, errMask := 3, logVec := 0, exclBase := Vector.replicate 4 0, exclLimit := Vector.replicate 4 0 }) := rfl
  have hregs := both.fwProceed_pfRegs
  simp only [State.pfRegs, Prod.mk.injEq] at hregs
  obtain ⟨hbind, hmask, hbase, hlimit, htx⟩ := hregs
  rw [hbind, hmask, hbase, hlimit, htx, hboth]
  exact ⟨rfl, rfl, rfl, rfl, rfl⟩

/-! The reset of a VF without a live job (R274). -/

section
variable {s : State} {f : FnId}

theorem State.parksCut_unparked (h : ∀ x ∈ s.mgt.unloads, x.parked = none) : s.parksCut f = s := by
  have hnone : s.mgt.unloads.filter (fun t => t.desc.fn == f && t.parked.isSome) = [] :=
    List.filter_eq_nil_iff.2 fun x hx => by simp [h x hx]
  rw [State.parksCut, hnone, List.foldl_nil]
theorem State.hostResetJobs_faulted (h : ∀ j ∈ s.jobs, j.fn = f → j.phase = .faulted) : s.hostResetJobs f = s := by
  have hnone : s.jobs.filter (fun j => j.fn == f && j.phase != .faulted) = [] :=
    List.filter_eq_nil_iff.2 fun j hj => by simpa using h j hj
  rw [State.hostResetJobs, hnone, List.map_nil, List.foldl_nil]

/-- A job whose START of a function is dropped. -/
def Job.startDropped (f : FnId) (j : Job) : Job :=
  match j.startDesc with
  | some d => if d.fn == f then { j with startDesc := none } else j
  | none => j
theorem Job.startDropped_fn (f : FnId) (j : Job) : (j.startDropped f).fn = j.fn := by
  unfold Job.startDropped; (repeat' split) <;> rfl
theorem Job.startDropped_phase (f : FnId) (j : Job) : (j.startDropped f).phase = j.phase := by
  unfold Job.startDropped; (repeat' split) <;> rfl

/-- With no load in progress the descriptors of a function leave the queues, the window and the Infield's requests, and nothing else changes. -/
theorem State.dropDescs_untasked (f : FnId) (h : s.mgt.task = none) : ∃ mgt infield requests, s.dropDescs f = { s with
    hiu := { s.hiu with
      mcQueue := s.hiu.mcQueue.filter (·.fn != f), reQueue := s.hiu.reQueue.filter (·.fn != f), winOps := s.hiu.winOps.filter (·.desc.fn != f) }
    mgt := mgt
    infield := infield
    svc := { s.svc with requests := requests }
    jobs := s.jobs.map (·.startDropped f) } := by
  unfold State.dropDescs
  simp only [State.modHiu_mgt, h]
  exact ⟨_, _, _, rfl⟩

/-- The registers, rings and header waits of a function back at reset, with its tenant service rings disabled. -/
def State.fnCleared (s : State) (f : FnId) : State :=
  (((s.modFn f (fun _ => Function.reset)).modHiu (fun h =>
    { h with
      headerWaits := h.headerWaits.filter (fun x => x.fn != f)
      config := { h.config with
        msixEnable := setBitTo h.config.msixEnable f.val false, msixMasked := setBitTo h.config.msixMasked f.val false } })).modSvc (fun v =>
    { v with
      trings := v.trings.map (fun t : TRing => if t.vf.toNat == f.val then { t with enable := false, header := none } else t) })).dropLines
theorem State.fnReset_eq (s : State) (f : FnId) :
    s.fnReset f = ((((s.parksCut f).dropDescs f).fnCleared f).hostResetJobs f).logs Code.functionReset f.val := rfl
theorem bit_setBitTo_clear {n : Nat} (x : BitVec n) (i : Nat) : bit (setBitTo x i false) i = false := by
  rw [bit, setBitTo, if_neg Bool.false_ne_true, BitVec.getLsbD_and, BitVec.getLsbD_not, BitVec.getLsbD_ofNat, Nat.testBit_two_pow_self]
  by_cases h : i < n <;> simp [h]

/-- What the reset of a VF leaves. -/
theorem State.functionReset_vf (hf : f ≠ 0) (hk : s.mgt.task = none) (hb : s.boot.stage ≠ .reading)
    (hj : ∀ j ∈ s.jobs, j.fn = f → j.phase = .faulted) (hu : ∀ x ∈ s.mgt.unloads, x.parked = none) :
    ∃ t, s.functionReset f = t ∧ t.fn f = Function.reset ∧ (∀ g : FnId, g ≠ f → t.fn g = s.fn g) ∧
      t.parts = s.parts ∧ (∀ d ∈ t.hiu.mcQueue ++ t.hiu.reQueue, d.fn ≠ f) ∧ (∀ o ∈ t.hiu.winOps, o.desc.fn ≠ f) ∧
      (∀ x ∈ t.hiu.headerWaits, x.fn ≠ f) ∧ bit t.hiu.config.msixEnable f.val = false ∧
      (∀ n : TRingId, (s.tring n).vf.toNat = f.val → (t.tring n).enable = false) := by
  obtain ⟨mgt, infield, requests, hd⟩ := s.dropDescs_untasked f hk
  have hjobs : ∀ j ∈ ((s.dropDescs f).fnCleared f).jobs, j.fn = f → j.phase = .faulted := by
    rw [hd]
    intro j hm hfn
    obtain ⟨k, hk, rfl⟩ := List.mem_map.1 hm
    rw [Job.startDropped_phase]
    exact hj k hk (by rwa [Job.startDropped_fn] at hfn)
  have hreset : s.fnReset f = ((s.dropDescs f).fnCleared f).logs Code.functionReset f.val := by
    rw [State.fnReset_eq, State.parksCut_unparked hu, State.hostResetJobs_faulted hjobs]
  have hstage : (s.fnReset f).boot.stage ≠ .reading := by
    rw [hreset, hd]; exact hb
  refine ⟨((s.dropDescs f).fnCleared f).logs Code.functionReset f.val, ?_, ?_⟩
  · unfold State.functionReset
    rw [if_neg (by simpa using hf)]
    exact (State.fwProceed_idle hstage).trans hreset
  · rw [hd]
    refine ⟨vmod_same s.fns f _, fun g hg => vmod_other s.fns f g _ hg.symm, rfl, fun d h => ?_, fun o h => ?_, fun x h => ?_,
      bit_setBitTo_clear _ _, fun n hn => ?_⟩
    · simp [State.fnCleared, State.dropLines] at h
      tauto
    · simpa using (List.mem_filter.1 h).2
    · simpa using (List.mem_filter.1 h).2
    · have hm : (((s.dropDescs f).fnCleared f).logs Code.functionReset f.val).tring n =
          if (s.tring n).vf.toNat == f.val then { s.tring n with enable := false, header := none } else s.tring n := by
        rw [hd]; exact Vector.getElem_map ..
      rw [hd] at hm
      rw [hm, if_pos (beq_iff_eq.2 hn)]
end

/-! Training of the port (R269, Table 12-1). -/

section
variable {s : State}

theorem State.msixFreedAll_none {f : FnId} (h : (s.fn f).msixPend = 0) : s.msixFreedAll f = s := if_pos (by simp [h])

/-- No function has chosen snoop mode. -/
def State.Unsnooped (s : State) : Prop := ∀ f : FnId, (s.fn f).dblMode = false
theorem State.Unsnooped.snoops (h : s.Unsnooped) (f : FnId) : s.snoops f = false := by simp [State.snoops, h f]
/-- Without snoop mode no line stays in the cache. -/
theorem State.Unsnooped.dropLines (h : s.Unsnooped) : s.dropLines = { s with hiu := { s.hiu with lines := [] } } := by
  have hnone : s.hiu.lines.filter (fun x => s.lineNamed x.1) = [] :=
    List.filter_eq_nil_iff.2 fun x _ => by simp [State.lineNamed, h.snoops]
  rw [State.dropLines, State.modHiu, hnone]
theorem State.Unsnooped.fallbackCleared (h : s.Unsnooped) (f : FnId) : (s.modFn f (fun x => { x with fallbackLogged := false })).Unsnooped := by
  intro g
  by_cases hg : f = g
  · subst hg; rw [State.modFn_fn]; exact h f
  · rw [State.modFn_fn_other _ _ _ _ hg]; exact h g
theorem State.Unsnooped.takeLines (h : s.Unsnooped) (f : FnId) :
    s.takeLines f = { s.modFn f (fun x => { x with fallbackLogged := false }) with hiu := { s.hiu with lines := [] } } := by
  have hc : s.checkFallback f = s.modFn f (fun x => { x with fallbackLogged := false }) := by
    simp [State.checkFallback, h f]
  have hu := h.fallbackCleared f
  rw [State.takeLines, hc]
  exact (if_neg (by rw [hu.snoops]; exact Bool.false_ne_true)).trans hu.dropLines
theorem State.Unsnooped.takeLines_all (l : List FnId) (hl : l ≠ []) (h : s.Unsnooped) :
    ∃ fns, l.foldl (fun s f => s.takeLines f) s = { s with fns := fns, hiu := { s.hiu with lines := [] } } := by
  induction l generalizing s with
  | nil => exact absurd rfl hl
  | cons f l ih =>
    rw [List.foldl_cons, h.takeLines f]
    by_cases he : l = []
    · subst he; exact ⟨_, rfl⟩
    · obtain ⟨fns, hfns⟩ := ih he (s := { s.modFn f (fun x => { x with fallbackLogged := false }) with hiu := { s.hiu with lines := [] } })
        (h.fallbackCleared f)
      exact ⟨fns, hfns⟩

/-- The options of Table 12-1. -/
theorem portOption_iff {r : BitVec 4} {w : BitVec 5} {flit cxl : Bool} : portOption r w flit cxl = true ↔
    1 ≤ r.toNat ∧ r.toNat ≤ 3 ∧ (w = 4 ∨ w = 8 ∨ w = 16) ∧ (r = 3 → flit = true) ∧ (cxl = true → r = 3) := by
  simp only [portOption, Bool.and_eq_true, Bool.or_eq_true, decide_eq_true_eq, beq_iff_eq, bne_iff_ne, Bool.not_eq_true', and_assoc, or_assoc,
    imp_iff_or_not, ne_eq, Bool.not_eq_true, or_comm (a := cxl = false)]
theorem portOption_unlisted {r : BitVec 4} {w : BitVec 5} {flit cxl : Bool}
    (h : r = 0 ∨ 3 < r.toNat ∨ (w ≠ 4 ∧ w ≠ 8 ∧ w ≠ 16) ∨ (r = 3 ∧ flit = false) ∨ (cxl = true ∧ r ≠ 3)) :
    portOption r w flit cxl = false := by
  refine Bool.eq_false_iff.2 fun hp => ?_
  obtain ⟨hlo, hhi, hw, hflit, hcxl⟩ := portOption_iff.1 hp
  rcases h with rfl | h | h | ⟨hr, hf⟩ | ⟨hc, hr⟩
  · exact absurd hlo (by decide)
  · omega
  · tauto
  · exact absurd (hflit hr) (by rw [hf]; exact Bool.false_ne_true)
  · exact hr (hcxl hc)

/-- The port as a training that ended with an option leaves it. -/
def State.trained (s : State) (r : BitVec 4) (w : BitVec 5) (m : PortMode) (g : PortConfig) : State :=
  s.modHiu (fun h =>
    { h with port := .up, rate := r, width := w, flit := m.flit, cxlCache := m.cxlCache, config := g, downEpisode := false })

variable {r : BitVec 4} {w : BitVec 5} {m : PortMode} {g : PortSetup}
theorem exec_hostLinkUp (r : BitVec 4) (w : BitVec 5) (m : PortMode) (g : PortSetup) (s : State) : exec (.hostLinkUp r w m g) s = .next (
    if s.hiu.port == .reset || !s.power.mainPg || s.power.perst then s
    else if !portOption r w m.flit m.cxlCache then (if s.hiu.port == .up then s.hostLost .detect else s.noPartner)
    else
      let t := allFns.foldl State.msixFreedAll (s.trained r w m g.config)
      allFns.foldl (fun s f => s.takeLines f) (if g.corrected then t.logs Code.portCorrected else t)) := rfl
/-- HOST_LINK_DOWN is logged for the first training of an episode that finds no partner. -/
theorem State.noPartner_first (hd : s.hiu.downEpisode = false) :
    s.noPartner = ({ s with hiu := { s.hiu with downEpisode := true } } : State).logs Code.hostLinkDown :=
  if_neg (by rw [hd]; exact Bool.false_ne_true)
theorem exec_hostLinkUp_trained (hp : s.hiu.port ≠ .reset) (hm : s.power.mainPg = true) (hr : s.power.perst = false)
    (ho : portOption r w m.flit m.cxlCache = true) (hf : ∀ f : FnId, (s.fn f).dblMode = false ∧ (s.fn f).msixPend = 0) :
    ∃ t fns, exec (.hostLinkUp r w m g) s = .next t ∧
      t = { (if g.corrected then (s.trained r w m g.config).logs Code.portCorrected else s.trained r w m g.config) with
        fns := fns, hiu := { (s.trained r w m g.config).hiu with lines := [] } } := by
  have hfn : ∀ f, (s.trained r w m g.config).fn f = s.fn f := State.modHiu_fn s _
  have hpend : allFns.foldl State.msixFreedAll (s.trained r w m g.config) = s.trained r w m g.config :=
    List.foldl_fixed' (fun f => State.msixFreedAll_none (by rw [hfn]; exact (hf f).2)) _
  have hu : (s.trained r w m g.config).Unsnooped := fun f => by rw [hfn]; exact (hf f).1
  have hul : ((s.trained r w m g.config).logs Code.portCorrected).Unsnooped := hu
  rw [exec_hostLinkUp, if_neg (by simp [hp, hm, hr]), if_neg (by simp [ho])]
  dsimp only
  rw [hpend]
  cases g.corrected with
  | false =>
    obtain ⟨fns, hfns⟩ := hu.takeLines_all allFns (by decide)
    exact ⟨_, fns, rfl, hfns⟩
  | true =>
    obtain ⟨fns, hfns⟩ := hul.takeLines_all allFns (by decide)
    exact ⟨_, fns, rfl, hfns⟩
theorem exec_hostLinkUp_unlisted (hp : s.hiu.port = .detect) (hm : s.power.mainPg = true) (hr : s.power.perst = false)
    (ho : portOption r w m.flit m.cxlCache = false) (hd : s.hiu.downEpisode = false) : exec (.hostLinkUp r w m g) s =
      .next (({ s with hiu := { s.hiu with downEpisode := true } } : State).logs Code.hostLinkDown) := by
  rw [exec_hostLinkUp, if_neg (by simp [hp, hm, hr]), if_pos (by simp [ho]), if_neg (by simp [hp]), State.noPartner_first hd]
theorem exec_hostLinkUp_unpowered (hm : s.power.mainPg = false) : exec (.hostLinkUp r w m g) s = .next s := by
  rw [exec_hostLinkUp, if_pos (by simp [hm])]

/-! The loss of the host link, and PERST_L (R269, R372). -/

theorem State.hostLost_regs (s : State) (st : PortStage) : (s.hostLost st).hiu.port = st ∧ (s.hostLost st).power = s.power ∧
    (s.hostLost st).hiu.bind = Vector.replicate 8 0 ∧ (s.hostLost st).svc.tx.enable = false := by
  obtain ⟨hbind, htx, -⟩ := (s.logs Code.hostLinkDown).functionReset_pf0
  have hpower := (State.standing_eq (s.hostLost_standing st)).2.2
  rw [State.hostLost] at hpower ⊢
  generalize (s.logs Code.hostLinkDown).functionReset 0 = u at hbind htx hpower ⊢
  exact ⟨rfl, hpower, hbind, htx⟩

theorem exec_hostLinkDown_up (hp : s.hiu.port = .up) : exec .hostLinkDown s = .next (s.hostLost .detect) := by
  change execHostLinkDown s = _
  simp only [execHostLinkDown, hp]
theorem exec_hostLinkDown_unpowered (hp : s.hiu.port = .detect) (hm : s.power.mainPg = false) : exec .hostLinkDown s = .next s := by
  change execHostLinkDown s = _
  simp only [execHostLinkDown, hp, hm, Bool.false_eq_true, if_false]
theorem exec_hostLinkDown_detect (hp : s.hiu.port = .detect) (hm : s.power.mainPg = true) (hd : s.hiu.downEpisode = false) :
    exec .hostLinkDown s = .next (({ s with hiu := { s.hiu with downEpisode := true } } : State).logs Code.hostLinkDown) := by
  change execHostLinkDown s = _
  simp only [execHostLinkDown, hp, hm, if_true, State.noPartner_first hd]
theorem exec_perstLChange_asserted (s : State) : exec (.perstLChange true) s =
    .next (if s.hiu.port == .up then (s.modPower (fun p => { p with perst := true })).hostLost .reset
      else { s with power := { s.power with perst := true }, hiu := { s.hiu with port := .reset } }) := rfl
theorem exec_perstLChange_down (hp : s.hiu.port ≠ .up) : exec (.perstLChange true) s =
    .next { s with power := { s.power with perst := true }, hiu := { s.hiu with port := .reset } } := by
  rw [exec_perstLChange_asserted, if_neg (by simpa using hp)]
theorem exec_perstLChange_up (hp : s.hiu.port = .up) : exec (.perstLChange true) s =
    .next ((s.modPower (fun p => { p with perst := true })).hostLost .reset) := by
  rw [exec_perstLChange_asserted, if_pos (by simpa using hp)]
theorem exec_perstLChange_deasserted (s : State) : exec (.perstLChange false) s =
    .next (if s.hiu.port == .reset
      then { s with power := { s.power with perst := false }, hiu := { s.hiu with port := .detect, downEpisode := false } }
      else { s with power := { s.power with perst := false } }) := rfl
theorem exec_perstLChange_released (hp : s.hiu.port = .reset) : exec (.perstLChange false) s =
    .next { s with power := { s.power with perst := false }, hiu := { s.hiu with port := .detect, downEpisode := false } } := by
  rw [exec_perstLChange_deasserted, if_pos (by simpa using hp)]
theorem exec_perstLChange_idle (hp : s.hiu.port ≠ .reset) : exec (.perstLChange false) s =
    .next { s with power := { s.power with perst := false } } := by
  rw [exec_perstLChange_deasserted, if_neg (by simpa using hp)]

/-! FUNCTION_RESET over the host's lanes (R274). -/

theorem exec_functionReset_down (f : FnId) (h : s.hostLanes = false) : exec (.functionReset f) s = .next s := by
  change s.overHost (fun t => t.functionReset f) = _
  exact State.overHost_down _ h
theorem exec_functionReset_up (f : FnId) (h : s.hostLanes = true) : exec (.functionReset f) s = .next (s.functionReset f) := by
  change s.overHost (fun t => t.functionReset f) = _
  exact State.overHost_up _ h
end

/-- Settles O16: each clause is the lemma of its row above; what a lost link leaves of PF0 is what the reset of PF0 leaves. -/
theorem hostPortAndFunctionReset : Obligations.HostPortAndFunctionReset := by
  intro s
  refine ⟨exec_perstLChange_down, fun hp => ?_, exec_perstLChange_released, exec_perstLChange_idle,
    fun hp hm => ⟨exec_hostLinkDown_unpowered hp hm, fun _ _ _ _ => exec_hostLinkUp_unpowered hm⟩, fun hp => ?_, exec_hostLinkDown_detect,
    fun r w flit cxl fixed g hp hm hr => ⟨fun h1 h2 h3 h4 hf => ?_, fun h hd he => ?_⟩, fun f hl hf hk hb hj hu => ?_, fun hl => ?_,
    fun f => exec_functionReset_down f⟩
  · obtain ⟨hport, hpower, hbind, htx⟩ := (s.modPower (fun p => { p with perst := true })).hostLost_regs .reset
    exact ⟨_, exec_perstLChange_up hp, hport, congrArg Power.perst hpower, hbind, htx⟩
  · obtain ⟨-, -, hbind, htx⟩ := s.hostLost_regs .detect
    refine ⟨_, _, rfl, exec_hostLinkDown_up hp, ?_, hbind, htx⟩
    unfold State.hostLost
    generalize (s.logs Code.hostLinkDown).functionReset 0 = u
    rfl
  · obtain ⟨t, fns, ht, rfl⟩ := exec_hostLinkUp_trained (m := { flit := flit, cxlCache := cxl }) (g := { config := g, corrected := fixed }) hp hm
      hr (portOption_iff.2 ⟨h1.1, h1.2, h2, h3, h4⟩) hf
    refine ⟨_, ht, rfl, ?_⟩
    cases fixed <;> exact ⟨rfl, rfl, rfl, rfl⟩
  · exact exec_hostLinkUp_unlisted hd hm hr (portOption_unlisted h) he
  · obtain ⟨t, rfl, hreset⟩ := State.functionReset_vf hf hk hb hj hu
    exact ⟨_, exec_functionReset_up f hl, hreset⟩
  · obtain ⟨hbind, htx, hbase, hlimit, hmask⟩ := s.functionReset_pf0
    exact ⟨_, exec_functionReset_up 0 hl, hbind, htx, hbase, hlimit, hmask⟩

end Sys2Proof.Machine
end

section
/-! SUPPORT and the statement of the rings of the host: what a completion and a written doorbell line leave of them, and enabling, reading,
fetching and disabling (R276 to R286, R295, R296). -/

namespace Sys2Proof.Machine

/-! What a write to a ring reads back as. -/

section
variable {s : State} (f : FnId) (n : RingIx)

theorem vmod_fixed {α : Type} {k : Nat} (v : Vector α k) (i : Fin k) {g : α → α} (h : g v[i] = v[i]) : vmod v i g = v := by
  unfold vmod; rw [h]; exact Vector.set_getElem_self ..
theorem vmod_congr {α : Type} {k : Nat} (v : Vector α k) (i : Fin k) {g h : α → α} (he : g v[i] = h v[i]) : vmod v i g = vmod v i h := by
  unfold vmod; rw [he]
@[simp] theorem State.modSq_sq (g : Sq → Sq) : ((s.modSq f n g).fn f).sqs[n] = g (s.fn f).sqs[n] := by
  rw [State.modSq, State.modFn_fn]; exact vmod_same ..
theorem State.modSq_sq_other (g : Sq → Sq) {m : RingIx} (h : m ≠ n) : ((s.modSq f n g).fn f).sqs[m] = (s.fn f).sqs[m] := by
  rw [State.modSq, State.modFn_fn]; exact vmod_other _ _ _ _ h.symm
@[simp] theorem State.modSq_cqs (g : Sq → Sq) : ((s.modSq f n g).fn f).cqs = (s.fn f).cqs := by
  rw [State.modSq, State.modFn_fn]
theorem State.modSq_fn_other (g : Sq → Sq) {k : FnId} (h : k ≠ f) : (s.modSq f n g).fn k = s.fn k := State.modFn_fn_other _ _ _ _ h.symm
@[simp] theorem State.modCq_cq (g : Cq → Cq) : ((s.modCq f n g).fn f).cqs[n] = g (s.fn f).cqs[n] := by
  rw [State.modCq, State.modFn_fn]; exact vmod_same ..
theorem State.modCq_cq_other (g : Cq → Cq) {m : RingIx} (h : m ≠ n) : ((s.modCq f n g).fn f).cqs[m] = (s.fn f).cqs[m] := by
  rw [State.modCq, State.modFn_fn]; exact vmod_other _ _ _ _ h.symm
@[simp] theorem State.modCq_sqs (g : Cq → Cq) : ((s.modCq f n g).fn f).sqs = (s.fn f).sqs := by
  rw [State.modCq, State.modFn_fn]
theorem State.modSq_congr {g h : Sq → Sq} (he : g (s.fn f).sqs[n] = h (s.fn f).sqs[n]) : s.modSq f n g = s.modSq f n h := by
  refine congrArg (fun v => ({ s with fns := v } : State)) (vmod_congr s.fns f ?_)
  exact congrArg (fun v => ({ s.fn f with sqs := v } : Function)) (vmod_congr (s.fn f).sqs n he)
theorem State.modSq_fixed {g : Sq → Sq} (h : g (s.fn f).sqs[n] = (s.fn f).sqs[n]) : s.modSq f n g = s := by
  refine congrArg (fun v => ({ s with fns := v } : State)) (vmod_fixed s.fns f ?_)
  exact congrArg (fun v => ({ s.fn f with sqs := v } : Function)) (vmod_fixed (s.fn f).sqs n h)
end

/-! Doorbell lines: only the HIU and host memory change. -/

section
variable (s : State)

theorem State.writeLine_eq (f : FnId) (a : W64) (bs : List Byte) : ∃ hiu host, s.writeLine f a bs = { s with hiu := hiu, host := host } := by
  unfold State.writeLine; split <;> exact ⟨_, _, rfl⟩
theorem State.sqStatus_eq (f : FnId) (n : RingIx) : ∃ hiu host, s.sqStatus f n = { s with hiu := hiu, host := host } := s.writeLine_eq ..
theorem State.sqStatus_fn (f g : FnId) (n : RingIx) : (s.sqStatus f n).fn g = s.fn g := by
  obtain ⟨hiu, host, h⟩ := s.sqStatus_eq f n
  rw [h]; rfl
theorem State.cqStatus_eq (f : FnId) (n : RingIx) : ∃ hiu host, s.cqStatus f n = { s with hiu := hiu, host := host } := s.writeLine_eq ..
theorem State.shareLine_eq (f : FnId) (a : W64) : ∃ hiu, s.shareLine f a = { s with hiu := hiu } := by
  unfold State.shareLine; split <;> exact ⟨_, rfl⟩
end
/-- A line that the cache holds, or has room for, is Shared once the device has read it. -/
theorem State.shareLine_shared {s : State} {f : FnId} {a : W64} (hs : s.snoops f = true)
    (hr : s.hiu.lines.any (·.1 == a.toNat) = true ∨ s.hiu.lines.length < 2048) : (a.toNat, .shared) ∈ (s.shareLine f a).hiu.lines := by
  rw [State.shareLine, if_pos hs, State.setLine, State.modHiu_hiu]
  by_cases hh : s.hiu.lines.any (·.1 == a.toNat) = true
  · obtain ⟨x, hx, he⟩ := List.any_eq_true.1 hh
    rw [if_pos hh]
    exact List.mem_map.2 ⟨x, hx, if_pos he⟩
  · rw [if_neg hh, if_pos (hr.resolve_left hh)]
    exact List.mem_append_right _ (List.mem_singleton_self _)

/-! Completions: the Management Complex, and what the submission rings hold and their HEAD, stay. -/

/-- What a completion leaves alone: the Management Complex, and of each submission ring the descriptors that it holds back and its HEAD. -/
def State.laid (s : State) : Mgt × (FnId → RingIx → List Desc × W32) :=
  (s.mgt, fun f n => ((s.fn f).sqs[n].held, (s.fn f).sqs[n].head))
theorem State.laid_mgt {s t : State} (h : t.laid = s.laid) : t.mgt = s.mgt := congrArg Prod.fst h
theorem State.laid_held {s t : State} (h : t.laid = s.laid) (f : FnId) (n : RingIx) : (t.fn f).sqs[n].held = (s.fn f).sqs[n].held :=
  congrArg (fun x => (x.2 f n).1) h
theorem State.laid_head {s t : State} (h : t.laid = s.laid) (f : FnId) (n : RingIx) : (t.fn f).sqs[n].head = (s.fn f).sqs[n].head :=
  congrArg (fun x => (x.2 f n).2) h

section
variable (s : State)

theorem State.modFn_laid (f : FnId) (g : Function → Function)
    (h : ∀ n : RingIx, (g (s.fn f)).sqs[n].held = (s.fn f).sqs[n].held ∧ (g (s.fn f)).sqs[n].head = (s.fn f).sqs[n].head) :
    (s.modFn f g).laid = s.laid := by
  refine congrArg (Prod.mk s.mgt) (funext fun k => funext fun n => ?_)
  by_cases hk : f = k
  · subst hk; rw [State.modFn_fn, (h n).1, (h n).2]
  · rw [State.modFn_fn_other _ _ _ _ hk]
theorem State.modSq_laid (f : FnId) (n : RingIx) (g : Sq → Sq) (h : ∀ q, (g q).held = q.held ∧ (g q).head = q.head) :
    (s.modSq f n g).laid = s.laid := by
  refine s.modFn_laid f _ fun m => ?_
  by_cases hm : n = m
  · subst hm; rw [vmod_same]; exact h _
  · rw [vmod_other _ _ _ _ hm]; exact ⟨rfl, rfl⟩
@[simp] theorem State.modCq_laid (f : FnId) (n : RingIx) (g : Cq → Cq) : (s.modCq f n g).laid = s.laid := s.modFn_laid f _ fun _ => ⟨rfl, rfl⟩
@[simp] theorem State.modHiu_laid (g) : (s.modHiu g).laid = s.laid := rfl
@[simp] theorem State.modSvc_laid (g) : (s.modSvc g).laid = s.laid := rfl
@[simp] theorem State.modSram_laid (g) : (s.modSram g).laid = s.laid := rfl
@[simp] theorem State.logAt_laid (c : W16) (v : Nat) (r : Loc) : (s.logAt c v r).laid = s.laid := rfl
@[simp] theorem State.logs_laid (c : W16) (v k : Nat) : (s.logs c v k).laid = s.laid := rfl
@[simp] theorem State.hostWrite_laid (a : Nat) (bs : List Byte) : (s.hostWrite a bs).laid = s.laid := rfl
@[simp] theorem State.writeHeader_laid (a : Nat) (h : Hdr) (o : Nat) (st : Byte) (p : Bool) (n : Nat) (f : W16) (t : W32) :
    (s.writeHeader a h o st p n f t).laid = s.laid := rfl
@[simp] theorem State.sqStatus_laid (f : FnId) (n : RingIx) : (s.sqStatus f n).laid = s.laid := by
  obtain ⟨hiu, host, h⟩ := s.sqStatus_eq f n
  rw [h]; rfl
@[simp] theorem State.cqStatus_laid (f : FnId) (n : RingIx) : (s.cqStatus f n).laid = s.laid := by
  obtain ⟨hiu, host, h⟩ := s.cqStatus_eq f n
  rw [h]; rfl
@[simp] theorem State.retireRow_laid (d : DieId) (row vf : Nat) (r : Loc) : (s.retireRow d row vf r).laid = s.laid := by
  obtain ⟨⟨log, sram, h⟩, -⟩ := s.retireRow_rows d row vf r
  rw [h]; rfl
@[simp] theorem State.correctWord_laid (k row : Nat) (d : DieId) (vf : Nat) (r : Loc) : (s.correctWord k row d vf r).laid = s.laid := by
  unfold State.correctWord; dsimp only; (repeat' split) <;> simp
@[simp] theorem State.synthetic_laid (y : Bool) : (s.synthetic y).laid = s.laid := by
  unfold State.synthetic State.useRecovery
  split
  · refine foldl_keeps State.laid (fun t x => ?_) _ _
    cases x.err <;> simp [State.recoveryDouble]
  · rfl
@[simp] theorem State.msix_laid (f : FnId) (v : Byte) : (s.msix f v).laid = s.laid := by
  unfold State.msix
  split
  · exact s.modFn_laid f _ fun _ => ⟨rfl, rfl⟩
  · rfl
@[simp] theorem State.putEntry_laid (f : FnId) (n : RingIx) (c : Completion) : (s.putEntry f n c).laid = s.laid := by
  unfold State.putEntry; dsimp only; split <;> simp
@[simp] theorem State.postCq_laid (f : FnId) (n : RingIx) (c : Completion) : (s.postCq f n c).laid = s.laid := by
  unfold State.postCq; dsimp only; (repeat' split) <;> simp
@[simp] theorem State.sqSettle_laid (f : FnId) (n : RingIx) : (s.sqSettle f n).laid = s.laid := by
  unfold State.sqSettle
  dsimp only
  split
  · rfl
  · rw [State.sqStatus_laid]
    exact State.modSq_laid _ _ _ _ fun _ => ⟨rfl, rfl⟩
@[simp] theorem State.winCount_laid (f : FnId) (st : Byte) : (s.winCount f st).laid = s.laid := by
  unfold State.winCount
  split
  · exact s.modFn_laid f _ fun _ => ⟨rfl, rfl⟩
  · rfl
@[simp] theorem State.endClaim_laid (d : Desc) (a : Ans) : (s.endClaim d a).laid = s.laid := by
  unfold State.endClaim; dsimp only; (repeat' split) <;> simp
@[simp] theorem State.zshReply_laid (r : ZshRequest) (e bs : List Byte) : (s.zshReply r e bs).laid = s.laid :=
  foldl_keeps State.laid (fun t _ => (rfl : (t.sendFrame ..).laid = _)) _ _
theorem State.completeWith_laid (d : Desc) (a : Ans) (bs : List Byte) : (s.completeWith d a bs).laid = s.laid := by
  unfold State.completeWith
  dsimp only
  split
  · rw [State.sqSettle_laid, State.postCq_laid, State.modSq_laid]
    · simp
    · exact fun _ => ⟨rfl, rfl⟩
  · split <;> simp
@[simp] theorem State.done_laid (d : Desc) (st : Byte) : (s.done d st).laid = s.laid := s.completeWith_laid d _ []
theorem State.deliver_laid (d : Desc) : (s.deliver d).laid = s.laid := by
  unfold State.deliver; (repeat' split) <;> simp
end

/-! Enabling a ring (R276). -/

/-- An enabled submission ring at the HOST_COUNT that its line holds. -/
def Sq.started (c : W32) (q : Sq) : Sq :=
  { q with enable := true, stopped := false, errCause := 0, head := c, tail := c, seen := c, unchanged := 0, interval := 250, readFail := false }
/-- An enabled completion ring at the HOST_COUNT that its line holds. -/
def Cq.started (c : W32) (q : Cq) : Cq :=
  { q with enable := true, errCause := 0, count := c, head := c, sinceMsg := 0, unchanged := 0, interval := 250, readFail := false }

section
variable {s : State} {f : FnId} {n : RingIx}

theorem State.sqEnable_enabled (h : (s.fn f).sqs[n].enable = true) : s.sqEnable f n = s := if_pos h
theorem State.sqEnable_bad (h : (s.fn f).sqs[n].enable = false)
    (hb : s.ringOk (s.fn f).sqs[n].base (s.fn f).sqs[n].dbl (s.fn f).sqs[n].sizeLog2 64 = false ∨
      (s.fn f).cqs[(s.fn f).sqs[n].cq].enable = false) :
    s.sqEnable f n = (s.modSq f n (fun q => { q with error := true, errCause := 1 })).logs Code.ringSetupBad f.val := by
  unfold State.sqEnable
  rw [if_neg (by simp [h, -Fin.getElem_fin]), if_pos (by rcases hb with hb | hb <;> simp [hb, -Fin.getElem_fin])]
/-- The ring runs from the HOST_COUNT of its line; no other ring, function or entry of the log changes. -/
theorem State.sqEnable_runs {c : W32} (h : (s.fn f).sqs[n].enable = false)
    (hok : s.ringOk (s.fn f).sqs[n].base (s.fn f).sqs[n].dbl (s.fn f).sqs[n].sizeLog2 64 = true)
    (hcq : (s.fn f).cqs[(s.fn f).sqs[n].cq].enable = true) (hc : s.hostCount (s.fn f).sqs[n].dbl = some c) :
    ∃ u, s.sqEnable f n = u ∧ (u.fn f).sqs[n] = Sq.started c (s.fn f).sqs[n] ∧ (∀ m : RingIx, m ≠ n → (u.fn f).sqs[m] = (s.fn f).sqs[m]) ∧
      (u.fn f).cqs = (s.fn f).cqs ∧ (∀ g : FnId, g ≠ f → u.fn g = s.fn g) ∧ u.log = s.log := by
  have he : s.sqEnable f n = ((s.modSq f n (Sq.started c)).shareLine f (s.fn f).sqs[n].dbl).sqStatus f n := by
    unfold State.sqEnable
    rw [if_neg (by simp [h, -Fin.getElem_fin]), if_neg (by simp [hok, hcq, -Fin.getElem_fin]), hc]
    rfl
  obtain ⟨_, hshare⟩ := (s.modSq f n (Sq.started c)).shareLine_eq f (s.fn f).sqs[n].dbl
  obtain ⟨hiu, host, hstatus⟩ := ((s.modSq f n (Sq.started c)).shareLine f (s.fn f).sqs[n].dbl).sqStatus_eq f n
  rw [hshare] at hstatus
  have hq : (({ s.modSq f n (Sq.started c) with hiu := hiu, host := host } : State).fn f).sqs[n] = Sq.started c (s.fn f).sqs[n] :=
    State.modSq_sq ..
  refine ⟨_, ?_, hq, fun m hm => State.modSq_sq_other f n _ hm, State.modSq_cqs .., fun g hg => State.modSq_fn_other f n _ hg, rfl⟩
  rw [he, hshare, hstatus]

theorem State.drainCq_empty (hw : (s.fn f).cqs[n].waiting = []) (ho : (s.fn f).cqs[n].overflow = false) : ∀ k, s.drainCq f n k = s
  | 0 => rfl
  | k + 1 => by
    unfold State.drainCq
    simp only [hw, ho]
    rfl
theorem State.cqEnable_enabled (h : (s.fn f).cqs[n].enable = true) : s.cqEnable f n = s := if_pos h
theorem State.cqEnable_bad (h : (s.fn f).cqs[n].enable = false)
    (hb : s.ringOk (s.fn f).cqs[n].base (s.fn f).cqs[n].dbl (s.fn f).cqs[n].sizeLog2 32 = false) :
    s.cqEnable f n = (s.modCq f n (fun q => { q with error := true, errCause := 1 })).logs Code.ringSetupBad f.val := by
  unfold State.cqEnable
  rw [if_neg (by simp [h, -Fin.getElem_fin]), if_pos (by simp [hb, -Fin.getElem_fin])]
/-- The ring runs from the HOST_COUNT of its line; no other ring of the function, and no entry of the log, changes. -/
theorem State.cqEnable_runs {c : W32} (h : (s.fn f).cqs[n].enable = false)
    (hok : s.ringOk (s.fn f).cqs[n].base (s.fn f).cqs[n].dbl (s.fn f).cqs[n].sizeLog2 32 = true)
    (hc : s.hostCount (s.fn f).cqs[n].dbl = some c) (hw : (s.fn f).cqs[n].waiting = []) (ho : (s.fn f).cqs[n].overflow = false) :
    ∃ u, s.cqEnable f n = u ∧ (u.fn f).cqs[n] = Cq.started c (s.fn f).cqs[n] ∧ (∀ m : RingIx, m ≠ n → (u.fn f).cqs[m] = (s.fn f).cqs[m]) ∧
      (u.fn f).sqs = (s.fn f).sqs ∧ u.log = s.log := by
  have he : s.cqEnable f n = (((s.modCq f n (Cq.started c)).shareLine f (s.fn f).cqs[n].dbl).cqStatus f n).drainCq f n
      ((s.fn f).cqs[n].waiting.length + 1) := by
    unfold State.cqEnable
    rw [if_neg (by simp [h, -Fin.getElem_fin]), if_neg (by simp [hok, -Fin.getElem_fin]), hc]
    rfl
  obtain ⟨_, hshare⟩ := (s.modCq f n (Cq.started c)).shareLine_eq f (s.fn f).cqs[n].dbl
  obtain ⟨hiu, host, hstatus⟩ := ((s.modCq f n (Cq.started c)).shareLine f (s.fn f).cqs[n].dbl).cqStatus_eq f n
  rw [hshare] at hstatus
  have hq : (({ s.modCq f n (Cq.started c) with hiu := hiu, host := host } : State).fn f).cqs[n] = Cq.started c (s.fn f).cqs[n] :=
    State.modCq_cq ..
  refine ⟨_, ?_, hq, fun m hm => State.modCq_cq_other f n _ hm, State.modCq_sqs .., rfl⟩
  rw [he, hshare, hstatus]
  exact State.drainCq_empty (by rw [hq]; exact hw) (by rw [hq]; exact ho) _

/-! Disabling a ring (R277). -/

/-- The descriptors of a ring that have been fetched and not started: loads, those in the queues of the two units, and those that it holds. -/
def State.unstarted (s : State) (f : FnId) (n : RingIx) : List Desc :=
  s.mgt.loads.filter (·.fromSq f n) ++ s.hiu.mcQueue.filter (·.fromSq f n) ++ s.hiu.reQueue.filter (·.fromSq f n) ++ (s.fn f).sqs[n].held
/-- A disabled ring, none of whose descriptors waits any longer. -/
def State.sqCleared (s : State) (f : FnId) (n : RingIx) : State :=
  (((s.modSq f n (fun q => { q with enable := false, held := [] })).modMgt (fun m =>
    { m with loads := m.loads.filter (fun d => !d.fromSq f n) })).modHiu (fun h =>
    { h with mcQueue := h.mcQueue.filter (fun d => !d.fromSq f n), reQueue := h.reQueue.filter (fun d => !d.fromSq f n) }))

theorem State.sqDisable_disabled (h : (s.fn f).sqs[n].enable = false) : s.sqDisable f n = s := if_pos (by simp [h, -Fin.getElem_fin])
theorem State.sqDisable_enabled (h : (s.fn f).sqs[n].enable = true) : s.sqDisable f n =
    (((s.unstarted f n).foldl (fun u d => u.done d Status.ringAborted) (s.sqCleared f n)).sqSettle f n).dropLines := by
  unfold State.sqDisable
  rw [if_neg (by simp [h, -Fin.getElem_fin])]
  rfl
theorem State.mem_unstarted (d : Desc) : d ∈ s.unstarted f n ↔
    (d.fromSq f n = true ∧ d ∈ s.mgt.loads ++ s.hiu.mcQueue ++ s.hiu.reQueue) ∨ d ∈ (s.fn f).sqs[n].held := by
  simp only [State.unstarted, List.mem_append, List.mem_filter]
  tauto
theorem State.sqCleared_none : ∀ d ∈ (s.sqCleared f n).mgt.loads ++ (s.sqCleared f n).hiu.mcQueue ++ (s.sqCleared f n).hiu.reQueue,
    d.fromSq f n = false := by
  simp only [State.sqCleared, State.modHiu_mgt, State.modMgt_mgt, State.modHiu_hiu, List.mem_append, List.mem_filter]
  rintro d ((⟨-, h⟩ | ⟨-, h⟩) | ⟨-, h⟩) <;> simpa using h
/-- Where no other descriptor of the ring waits, only what the ring itself holds is taken. -/
theorem State.unstarted_held (h : ∀ d ∈ s.mgt.loads ++ s.hiu.mcQueue ++ s.hiu.reQueue, d.fromSq f n = false) :
    s.unstarted f n = (s.fn f).sqs[n].held ∧ s.sqCleared f n = s.modSq f n (fun q => { q with enable := false, held := [] }) := by
  have hnone : ∀ l : List Desc, (∀ d ∈ l, d.fromSq f n = false) → l.filter (·.fromSq f n) = [] ∧ l.filter (fun d => !d.fromSq f n) = l :=
    fun l hl => ⟨List.filter_eq_nil_iff.2 fun d hd => by simp [hl d hd], List.filter_eq_self.2 fun d hd => by simp [hl d hd]⟩
  obtain ⟨hl, hl'⟩ := hnone s.mgt.loads fun d hd => h d (by simp [hd])
  obtain ⟨hm, hm'⟩ := hnone s.hiu.mcQueue fun d hd => h d (by simp [hd])
  obtain ⟨hr, hr'⟩ := hnone s.hiu.reQueue fun d hd => h d (by simp [hd])
  refine ⟨by rw [State.unstarted, hl, hm, hr]; rfl, ?_⟩
  simp only [State.sqCleared, State.modMgt, State.modHiu, State.modSq, State.modFn, hl', hm', hr']

theorem State.cqDisable_disabled (h : (s.fn f).cqs[n].enable = false) : s.cqDisable f n = s := if_pos (by simp [h, -Fin.getElem_fin])
theorem State.cqDisable_used (h : (s.fn f).cqs[n].enable = true) (hu : s.sqsNaming f n = true ∨ s.eventCqUsed f n = true) :
    s.cqDisable f n = s.logs Code.ringBusy f.val := by
  unfold State.cqDisable
  rw [if_neg (by simp [h, -Fin.getElem_fin]), if_pos (by simpa using hu)]
theorem State.cqDisable_unused (h : (s.fn f).cqs[n].enable = true) (hq : s.sqsNaming f n = false) (hu : s.eventCqUsed f n = false) :
    s.cqDisable f n = (s.modCq f n (fun q => { q with enable := false })).dropLines := by
  unfold State.cqDisable
  rw [if_neg (by simp [h, -Fin.getElem_fin]), if_neg (by simp [hq, hu])]
theorem State.sqsNaming_iff : s.sqsNaming f n = true ↔ ∃ m : RingIx, (s.fn f).sqs[m].cq = n ∧ (s.fn f).sqs[m].stoppedNow = false := by
  simp only [State.sqsNaming, List.any_eq_true, Vector.mem_toList_iff, Vector.mem_iff_getElem, Bool.and_eq_true, beq_iff_eq, Bool.not_eq_true']
  constructor
  · rintro ⟨q, ⟨i, hi, rfl⟩, h⟩
    exact ⟨⟨i, hi⟩, h⟩
  · rintro ⟨m, h⟩
    exact ⟨_, ⟨m.val, m.isLt, rfl⟩, h⟩
theorem State.eventCqUsed_iff : s.eventCqUsed f n = true ↔
    (∃ j ∈ s.jobs, j.fn = f ∧ j.eventCq = n ∧ (j.phase = .armed ∨ j.phase = .run ∨ j.phase = .parked)) ∨
    (∃ p : PartId, (s.part p).st = .hold ∧ (s.part p).heldCq = some (f, n)) := by
  simp [State.eventCqUsed, mem_allParts, and_assoc, or_assoc]
theorem State.sqsNaming_false (h : ∀ m : RingIx, (s.fn f).sqs[m].cq = n → (s.fn f).sqs[m].stoppedNow = true) : s.sqsNaming f n = false := by
  refine Bool.eq_false_iff.2 fun hn => ?_
  obtain ⟨m, hm, hs⟩ := State.sqsNaming_iff.1 hn
  exact absurd (h m hm) (by rw [hs]; exact Bool.false_ne_true)
theorem State.eventCqUsed_false (hj : ∀ j ∈ s.jobs, j.fn = f → j.eventCq = n → j.phase ≠ .armed ∧ j.phase ≠ .run ∧ j.phase ≠ .parked)
    (hp : ∀ p : PartId, (s.part p).st = .hold → (s.part p).heldCq ≠ some (f, n)) : s.eventCqUsed f n = false := by
  refine Bool.eq_false_iff.2 fun hu => ?_
  obtain ⟨j, hjm, hf, he, hphase⟩ | ⟨p, hst, hc⟩ := State.eventCqUsed_iff.1 hu
  · obtain ⟨ha, hr, hk⟩ := hj j hjm hf he
    tauto
  · exact hp p hst hc
end

/-! Doorbell lines that the device reads (R280 to R283). -/

theorem State.hostWrote_invalidates {s : State} {ws : HostWrites} {x : Nat × LineState} (hx : x ∈ s.hiu.lines)
    (hw : ∃ w ∈ ws, x.1 ≤ w.1 ∧ w.1 < x.1 + 64) : (x.1, .invalid) ∈ (s.hostWrote ws).hiu.lines := by
  refine List.mem_map.2 ⟨x, hx, if_pos ?_⟩
  simpa using hw

/-- The line of a submission ring is read without a change. -/
def Sq.reread (q : Sq) : Sq :=
  { q with unchanged := q.unchanged + 1, interval := if 64 ≤ q.unchanged + 1 then Nat.min (2 * q.interval) 8000 else q.interval }
/-- The line of a submission ring is read with a new HOST_COUNT. -/
def Sq.readNew (c : W32) (q : Sq) : Sq := { q with seen := c, unchanged := 0, interval := 250 }
/-- The line has been read: it is Shared in snoop mode. -/
def State.lineRead (s : State) (f : FnId) (n : RingIx) : State :=
  (s.modSq f n (fun q => { q with readFail := false })).shareLine f (s.fn f).sqs[n].dbl
/-- A new HOST_COUNT is noted, before it is judged. -/
def State.countRead (s : State) (f : FnId) (n : RingIx) (c : W32) : State := (s.lineRead f n).modSq f n (Sq.readNew c)

section
variable {s : State} {f : FnId} {n : RingIx} {c : W32}

theorem State.lineRead_eq (s : State) (f : FnId) (n : RingIx) :
    ∃ hiu, s.lineRead f n = { s.modSq f n (fun q => { q with readFail := false }) with hiu := hiu } := State.shareLine_eq ..
theorem State.lineRead_sq : ((s.lineRead f n).fn f).sqs[n] = { (s.fn f).sqs[n] with readFail := false } := by
  obtain ⟨hiu, h⟩ := s.lineRead_eq f n
  rw [h]; exact State.modSq_sq ..
theorem State.lineRead_log : (s.lineRead f n).log = s.log := by
  obtain ⟨hiu, h⟩ := s.lineRead_eq f n
  rw [h]; rfl
theorem State.lineRead_shared (hs : s.snoops f = true)
    (hr : s.hiu.lines.any (·.1 == (s.fn f).sqs[n].dbl.toNat) = true ∨ s.hiu.lines.length < 2048) :
    ((s.fn f).sqs[n].dbl.toNat, .shared) ∈ (s.lineRead f n).hiu.lines := by
  refine State.shareLine_shared ?_ hr
  rw [← hs]
  simp only [State.snoops, State.modSq, State.modFn_fn]
  rfl
theorem State.countRead_sq : ((s.countRead f n c).fn f).sqs[n] = { (s.fn f).sqs[n] with
    readFail := false, seen := c, unchanged := 0, interval := 250 } := by
  rw [State.countRead, State.modSq_sq, State.lineRead_sq]; rfl

theorem State.countRead_log : (s.countRead f n c).log = s.log := State.lineRead_log

theorem State.readLine_unread (he : (s.fn f).sqs[n].enable = true) (hc : s.hostCount (s.fn f).sqs[n].dbl = none) :
    s.readLine f false n = if (s.fn f).sqs[n].readFail = true then (s.modSq f n (fun q => { q with readFail := true })).modSq f n Sq.reread
      else ((s.modSq f n (fun q => { q with readFail := true })).modSq f n Sq.reread).logs Code.dblReadFail f.val := by
  change s.readSqLine f n = _
  unfold State.readSqLine
  rw [if_neg (by simp [he, -Fin.getElem_fin]), hc]
  rfl
theorem State.readLine_same (he : (s.fn f).sqs[n].enable = true) (hc : s.hostCount (s.fn f).sqs[n].dbl = some c) (hs : c = (s.fn f).sqs[n].seen) :
    s.readLine f false n = (s.lineRead f n).modSq f n Sq.reread := by
  change s.readSqLine f n = _
  unfold State.readSqLine
  rw [if_neg (by simp [he, -Fin.getElem_fin]), hc]
  exact if_pos (by simp [hs])
theorem State.readLine_stopped (he : (s.fn f).sqs[n].enable = true) (hc : s.hostCount (s.fn f).sqs[n].dbl = some c)
    (hs : c ≠ (s.fn f).sqs[n].seen) (hx : (s.fn f).sqs[n].errCause ≠ 0) : s.readLine f false n = s.countRead f n c := by
  change s.readSqLine f n = _
  unfold State.readSqLine
  rw [if_neg (by simp [he, -Fin.getElem_fin]), hc]
  exact (if_neg (by simpa [-Fin.getElem_fin] using hs)).trans (if_pos (by simpa [-Fin.getElem_fin] using hx))
theorem State.readLine_taken (he : (s.fn f).sqs[n].enable = true) (hc : s.hostCount (s.fn f).sqs[n].dbl = some c)
    (hs : c ≠ (s.fn f).sqs[n].seen) (hx : (s.fn f).sqs[n].errCause = 0) (hz : (c - (s.fn f).sqs[n].head).toNat ≤ (s.fn f).sqs[n].size) :
    s.readLine f false n = (s.countRead f n c).modSq f n (fun q => { q with tail := c }) := by
  change s.readSqLine f n = _
  unfold State.readSqLine
  rw [if_neg (by simp [he, -Fin.getElem_fin]), hc]
  exact ((if_neg (by simpa [-Fin.getElem_fin] using hs)).trans (if_neg (by simp [hx, -Fin.getElem_fin]))).trans (if_neg (Nat.not_lt.2 hz))
theorem State.readLine_beyond (he : (s.fn f).sqs[n].enable = true) (hc : s.hostCount (s.fn f).sqs[n].dbl = some c)
    (hs : c ≠ (s.fn f).sqs[n].seen) (hx : (s.fn f).sqs[n].errCause = 0) (hz : (s.fn f).sqs[n].size < (c - (s.fn f).sqs[n].head).toNat) :
    s.readLine f false n = ((((s.countRead f n c).modSq f n (fun q => { q with tail := c })).modSq f n (fun q =>
      { q with error := true, errCause := 2, stopped := q.inflight == 0 })).logs Code.ringTailBad f.val).sqStatus f n := by
  change s.readSqLine f n = _
  unfold State.readSqLine
  rw [if_neg (by simp [he, -Fin.getElem_fin]), hc]
  refine ((if_neg (by simpa [-Fin.getElem_fin] using hs)).trans (if_neg (by simp [hx, -Fin.getElem_fin]))).trans (if_pos hz)
theorem State.readLine_unread_sq (he : (s.fn f).sqs[n].enable = true) (hc : s.hostCount (s.fn f).sqs[n].dbl = none) :
    ((s.readLine f false n).fn f).sqs[n] = Sq.reread { (s.fn f).sqs[n] with readFail := true } := by
  have hq : (((s.modSq f n (fun q => { q with readFail := true })).modSq f n Sq.reread).fn f).sqs[n] =
      Sq.reread { (s.fn f).sqs[n] with readFail := true } := by rw [State.modSq_sq, State.modSq_sq]
  rw [State.readLine_unread he hc]
  split <;> exact hq
theorem State.readLine_same_sq (he : (s.fn f).sqs[n].enable = true) (hc : s.hostCount (s.fn f).sqs[n].dbl = some c)
    (hs : c = (s.fn f).sqs[n].seen) : ((s.readLine f false n).fn f).sqs[n] = Sq.reread { (s.fn f).sqs[n] with readFail := false } := by
  rw [State.readLine_same he hc hs, State.modSq_sq, State.lineRead_sq]
theorem State.readLine_beyond_sq (he : (s.fn f).sqs[n].enable = true) (hc : s.hostCount (s.fn f).sqs[n].dbl = some c)
    (hs : c ≠ (s.fn f).sqs[n].seen) (hx : (s.fn f).sqs[n].errCause = 0) (hz : (s.fn f).sqs[n].size < (c - (s.fn f).sqs[n].head).toNat) :
    ((s.readLine f false n).fn f).sqs[n] = { (s.fn f).sqs[n] with
      readFail := false, seen := c, unchanged := 0, interval := 250, tail := c, error := true, errCause := 2
      stopped := (s.fn f).sqs[n].inflight == 0 } := by
  rw [State.readLine_beyond he hc hs hx hz, State.sqStatus_fn, State.logs_fn, State.modSq_sq, State.modSq_sq, State.countRead_sq]
theorem State.readLine_tail (he : (s.fn f).sqs[n].enable = true) (hc : s.hostCount (s.fn f).sqs[n].dbl = some c)
    (hs : c ≠ (s.fn f).sqs[n].seen) (hx : (s.fn f).sqs[n].errCause = 0) : ((s.readLine f false n).fn f).sqs[n].tail = c := by
  rcases Nat.lt_or_ge (s.fn f).sqs[n].size (c - (s.fn f).sqs[n].head).toNat with hz | hz
  · rw [State.readLine_beyond_sq he hc hs hx hz]
  · rw [State.readLine_taken he hc hs hx hz, State.modSq_sq]
/-- A ring that has stopped on an error keeps its TAIL and its cause, whatever its line holds. -/
theorem State.readLine_stopped_keeps (he : (s.fn f).sqs[n].enable = true) (hx : (s.fn f).sqs[n].errCause ≠ 0) :
    ((s.readLine f false n).fn f).sqs[n].tail = (s.fn f).sqs[n].tail ∧
    ((s.readLine f false n).fn f).sqs[n].errCause = (s.fn f).sqs[n].errCause := by
  cases hc : s.hostCount (s.fn f).sqs[n].dbl with
  | none => rw [State.readLine_unread_sq he hc]; exact ⟨rfl, rfl⟩
  | some c =>
    by_cases hsame : c = (s.fn f).sqs[n].seen
    · rw [State.readLine_same_sq he hc hsame]; exact ⟨rfl, rfl⟩
    · rw [State.readLine_stopped he hc hsame hx, State.countRead_sq]; exact ⟨rfl, rfl⟩
theorem State.readLine_shared (he : (s.fn f).sqs[n].enable = true) (hc : s.hostCount (s.fn f).sqs[n].dbl = some c)
    (ho : c = (s.fn f).sqs[n].seen ∨ (s.fn f).sqs[n].errCause ≠ 0) (hs : s.snoops f = true)
    (hr : s.hiu.lines.any (·.1 == (s.fn f).sqs[n].dbl.toNat) = true ∨ s.hiu.lines.length < 2048) :
    ((s.fn f).sqs[n].dbl.toNat, .shared) ∈ (s.readLine f false n).hiu.lines := by
  by_cases hsame : c = (s.fn f).sqs[n].seen
  · rw [State.readLine_same he hc hsame]; exact State.lineRead_shared hs hr
  · rw [State.readLine_stopped he hc hsame (ho.resolve_left hsame)]; exact State.lineRead_shared hs hr
end

/-! Interrupts (R296). -/

section
variable {s : State} {f : FnId}
theorem exec_interruptDelay_fires {n : RingIx} (hi : (s.fn f).cqs[n].irqEn = true) (hn : 0 < (s.fn f).cqs[n].sinceMsg) :
    exec (.interruptDelay f n) s = .next ((s.modCq f n (fun q => { q with sinceMsg := 0 })).msix f (s.fn f).cqs[n].vec) := by
  change execInterruptDelay f n s = _
  unfold execInterruptDelay
  dsimp only
  rw [if_pos (by simp [hi, hn, -Fin.getElem_fin])]
theorem exec_interruptDelay_idle {n : RingIx} (h : (s.fn f).cqs[n].irqEn = false ∨ (s.fn f).cqs[n].sinceMsg = 0) :
    exec (.interruptDelay f n) s = .next s := by
  change execInterruptDelay f n s = _
  unfold execInterruptDelay
  dsimp only
  rw [if_neg (by rcases h with h | h <;> simp [h, -Fin.getElem_fin])]
theorem State.msix_sent {v : Byte} (he : bit s.hiu.config.msixEnable f.val = true) (hm : bit s.hiu.config.msixMasked f.val = false)
    (hv : bit (s.fn f).msixMask v.toNat = false) : s.msix f v = s.modHiu (fun h => { h with msix := h.msix ++ [(f, v)] }) :=
  if_neg (by simp [State.msixHeld, he, hm, hv])
theorem State.msix_pends {v : Byte} (h : bit s.hiu.config.msixEnable f.val = false ∨ bit s.hiu.config.msixMasked f.val = true ∨
    bit (s.fn f).msixMask v.toNat = true) : s.msix f v = s.modFn f (fun x => { x with msixPend := setBitTo x.msixPend v.toNat true }) :=
  if_pos (by rcases h with h | h | h <;> simp [State.msixHeld, h])
end

/-! The turn of the fetch (R284). -/

section
variable {s : State} {f : FnId} {n : RingIx}

theorem mem_turns (t f : FnId) : f ∈ allFns.map (t + ·) := List.mem_map.2 ⟨f - t, List.mem_finRange _, add_sub_cancel t f⟩
theorem mem_ringTurns (t n : RingIx) : n ∈ allRings.map (t + ·) := List.mem_map.2 ⟨n - t, List.mem_finRange _, add_sub_cancel t n⟩
theorem State.fetchable_of_due (h : s.fetchDue = some (f, n)) : s.fetchable f n = true := by
  obtain ⟨k, -, hk⟩ := List.exists_of_findSome?_eq_some h
  obtain ⟨m, hm, he⟩ := Option.map_eq_some_iff.1 hk
  obtain ⟨rfl, rfl⟩ := Prod.mk.inj he
  exact List.find?_some hm
theorem State.not_fetchable_of_idle (h : s.fetchDue = none) (f : FnId) (n : RingIx) : s.fetchable f n = false := by
  have hf := Option.map_eq_none_iff.1 (List.findSome?_eq_none_iff.1 h f (mem_turns _ f))
  exact Bool.eq_false_iff.2 (List.find?_eq_none.1 hf n (mem_ringTurns _ n))

theorem exec_descriptorFetch_turn (h : s.fetchDue = some (f, n)) : exec (.descriptorFetch f n) s =
    .next (((s.fetchTurn f n).retryHeld f n).dispatchSq f n ((((s.fetchTurn f n).retryHeld f n).fn f).sqs[n].held.length + 1)) := by
  change execDescriptorFetch f n s = _
  rw [execDescriptorFetch, if_pos h]
theorem exec_descriptorFetch_other (h : s.fetchDue ≠ some (f, n)) : exec (.descriptorFetch f n) s =
    .next ((s.retryHeld f n).dispatchSq f n (((s.retryHeld f n).fn f).sqs[n].held.length + 1)) := by
  change execDescriptorFetch f n s = _
  rw [execDescriptorFetch, if_neg h]

/-! What a ring holds is completed with RETRY, or goes to its unit (R285, R391). -/

theorem State.retryHeld_served (h : s.mcRetries = false ∨ s.inHold .managementComplex = true) : s.retryHeld f n = s :=
  if_pos (by rcases h with h | h <;> simp [h])
/-- Where no descriptor of the Management Complex is held, none is completed with RETRY. -/
theorem State.retryHeld_none (h : ∀ d ∈ (s.fn f).sqs[n].held, Op.ofMc d.opcode = false) : s.retryHeld f n = s := by
  have hno : (s.fn f).sqs[n].held.filter (fun d => Op.ofMc d.opcode) = [] := List.filter_eq_nil_iff.2 fun d hd => by simp [h d hd]
  have hall : (s.fn f).sqs[n].held.filter (fun d => !Op.ofMc d.opcode) = (s.fn f).sqs[n].held :=
    List.filter_eq_self.2 fun d hd => by simp [h d hd]
  unfold State.retryHeld
  rw [hno, List.foldl_nil, State.modSq_fixed f n (by rw [hall]), ite_self]
theorem State.retryHeld_one {d : Desc} (hr : s.mcRetries = true) (hh : s.inHold .managementComplex = false)
    (hd : (s.fn f).sqs[n].held = [d]) (hm : Op.ofMc d.opcode = true) :
    s.retryHeld f n = (s.modSq f n (fun q => { q with held := [] })).done d Status.retry := by
  have hone : [d].filter (fun d => Op.ofMc d.opcode) = [d] := by simp [hm]
  have hnone : [d].filter (fun d => !Op.ofMc d.opcode) = [] := by simp [hm]
  unfold State.retryHeld
  rw [if_neg (by simp [hr, hh]), hd, hone]
  exact congrArg (fun t : State => t.done d Status.retry) (State.modSq_congr f n (by rw [hd, hnone]))

theorem State.dispatchSq_empty (h : (s.fn f).sqs[n].held = []) : ∀ k, s.dispatchSq f n k = s
  | 0 => rfl
  | k + 1 => by
    unfold State.dispatchSq
    simp only [h]
theorem State.dispatchSq_waits {d : Desc} {rest : List Desc} (h : (s.fn f).sqs[n].held = d :: rest) (hg : (s.fn f).sqs[n].mayGo = false) :
    ∀ k, s.dispatchSq f n k = s
  | 0 => rfl
  | k + 1 => by
    unfold State.dispatchSq
    simp only [h, hg]
    rfl
/-- The one descriptor that a ring holds goes to its unit. -/
theorem State.dispatchSq_one {d : Desc} (h : (s.fn f).sqs[n].held = [d]) (hg : (s.fn f).sqs[n].mayGo = true) (k : Nat) :
    s.dispatchSq f n (k + 1) = (s.modSq f n (fun q => { q with held := [] })).deliver d := by
  have hleft : (((s.modSq f n (fun q => { q with held := [] })).deliver d).fn f).sqs[n].held = [] := by
    rw [State.laid_held (State.deliver_laid _ d), State.modSq_sq]
  rw [State.dispatchSq]
  simp only [h, hg, if_true]
  exact State.dispatchSq_empty hleft k
theorem exec_descriptorFetch_empty (h : s.fetchDue ≠ some (f, n)) (hd : (s.fn f).sqs[n].held = []) : exec (.descriptorFetch f n) s = .next s := by
  rw [exec_descriptorFetch_other h, State.retryHeld_none (by simp [hd, -Fin.getElem_fin]), State.dispatchSq_empty hd]

/-! One fetched descriptor, and a read that fails (R284). -/

/-- A ring with a descriptor fetched and held. -/
def Sq.fetched (d : Desc) (q : Sq) : Sq := { q with head := q.head + 1, inflight := q.inflight + 1, held := [d] }
/-- The descriptor of 64 bytes at the HEAD of a ring. -/
def Sq.descOf (q : Sq) (f : FnId) (n : RingIx) (bs : List Byte) : Desc :=
  { fn := f, origin := .ring f n, entry := q.head, w := Vector.ofFn (fun i : Fin 8 => BitVec.ofNat 64 (leAt bs (8 * i.val) 8)) }

theorem State.fetchSq_stopped (h : s.fetchable f n = false) : ∀ k, s.fetchSq f n k = s
  | 0 => rfl
  | k + 1 => by rw [State.fetchSq, if_pos (by simp [h])]
theorem State.fetchSq_one {bs : List Byte} (h : s.fetchable f n = true) (ht : (s.fn f).sqs[n].tail = (s.fn f).sqs[n].head + 1)
    (hd : (s.fn f).sqs[n].held = [])
    (hr : s.hostRead ((s.fn f).sqs[n].base.toNat + 64 * ((s.fn f).sqs[n].head.toNat % (s.fn f).sqs[n].size)) 64 = some bs) (k : Nat) :
    s.fetchSq f n (k + 1) = s.modSq f n (Sq.fetched ((s.fn f).sqs[n].descOf f n bs)) := by
  have hend : (s.modSq f n (Sq.fetched ((s.fn f).sqs[n].descOf f n bs))).fetchable f n = false := by
    simp [State.fetchable, Sq.fetched, ht, -Fin.getElem_fin]
  have hheld : s.modSq f n (fun q => { q with head := q.head + 1, inflight := q.inflight + 1
                                              held := q.held ++ [(s.fn f).sqs[n].descOf f n bs] }) =
      s.modSq f n (Sq.fetched ((s.fn f).sqs[n].descOf f n bs)) := State.modSq_congr f n (by rw [hd]; rfl)
  rw [State.fetchSq, if_neg (by simp [h])]
  simp only [hr]
  exact (congrArg (fun t : State => t.fetchSq f n k) hheld).trans (State.fetchSq_stopped hend k)
/-- The fetch of a descriptor that the host's memory does not give ends with an error of the ring. -/
def State.fetchFailed (s : State) (f : FnId) (n : RingIx) : State :=
  (((s.modSq f n (fun q => { q with error := true, errCause := 3, stopped := q.inflight == 0 })).logs Code.fetchFailed f.val).postCq f
    (s.fn f).sqs[n].cq (({ status := Status.fetchFailed, detail0 := BitVec.ofNat 64 (s.fn f).sqs[n].head.toNat : Ans }).entry n.val 0
      (some n))).sqStatus f n
theorem State.fetchFailed_laid (s : State) (f : FnId) (n : RingIx) : (s.fetchFailed f n).laid = s.laid := by
  rw [State.fetchFailed, State.sqStatus_laid, State.postCq_laid, State.logs_laid, State.modSq_laid]
  exact fun _ => ⟨rfl, rfl⟩
theorem State.fetchSq_fails (h : s.fetchable f n = true)
    (hr : s.hostRead ((s.fn f).sqs[n].base.toNat + 64 * ((s.fn f).sqs[n].head.toNat % (s.fn f).sqs[n].size)) 64 = none) (k : Nat) :
    s.fetchSq f n (k + 1) = s.fetchFailed f n := by
  rw [State.fetchSq, if_neg (by simp [h])]
  simp only [hr]
  rfl

theorem State.turnPast_sqs (s : State) (f : FnId) (n : RingIx) : ((s.turnPast f n).fn f).sqs = (s.fn f).sqs := by
  rw [State.turnPast, State.modHiu_fn, State.modFn_fn]

/-- A ring that has fetched one descriptor, with HEAD written to its line and its turn past. -/
def State.fetchedOne (s : State) (f : FnId) (n : RingIx) (d : Desc) : State := ((s.modSq f n (Sq.fetched d)).turnPast f n).sqStatus f n
theorem State.fetchedOne_eq (s : State) (f : FnId) (n : RingIx) (d : Desc) :
    ∃ hiu host, s.fetchedOne f n d = { (s.modSq f n (Sq.fetched d)).turnPast f n with hiu := hiu, host := host } := State.sqStatus_eq ..
theorem State.fetchedOne_sq (s : State) (f : FnId) (n : RingIx) (d : Desc) :
    ((s.fetchedOne f n d).fn f).sqs[n] = Sq.fetched d (s.fn f).sqs[n] := by
  obtain ⟨hiu, host, h⟩ := s.fetchedOne_eq f n d
  have hq : (((s.modSq f n (Sq.fetched d)).turnPast f n).fn f).sqs[n] = Sq.fetched d (s.fn f).sqs[n] := by
    rw [State.turnPast_sqs, State.modSq_sq]
  rw [h]; exact hq
theorem State.fetchedOne_mcRetries (s : State) (f : FnId) (n : RingIx) (d : Desc) : (s.fetchedOne f n d).mcRetries = s.mcRetries := by
  obtain ⟨hiu, host, h⟩ := s.fetchedOne_eq f n d
  rw [h]; rfl
theorem State.fetchedOne_inHold (s : State) (f : FnId) (n : RingIx) (d : Desc) (u : UnitId) : (s.fetchedOne f n d).inHold u = s.inHold u := by
  obtain ⟨hiu, host, h⟩ := s.fetchedOne_eq f n d
  rw [h]; rfl
theorem Sq.mayGo_fetched (q : Sq) (d : Desc) : (Sq.fetched d q).mayGo = (!d.order || decide (q.inflight = 0)) := by
  simp [Sq.mayGo, Sq.fetched]

theorem State.fetchTurn_one {bs : List Byte} (h : s.fetchDue = some (f, n)) (ht : (s.fn f).sqs[n].tail = (s.fn f).sqs[n].head + 1)
    (hd : (s.fn f).sqs[n].held = [])
    (hr : s.hostRead ((s.fn f).sqs[n].base.toNat + 64 * ((s.fn f).sqs[n].head.toNat % (s.fn f).sqs[n].size)) 64 = some bs) :
    s.fetchTurn f n = s.fetchedOne f n ((s.fn f).sqs[n].descOf f n bs) := by
  unfold State.fetchTurn
  rw [State.fetchSq_one (State.fetchable_of_due h) ht hd hr]
  refine if_pos ?_
  rw [State.turnPast_sqs, State.modSq_sq, bne_iff_ne]
  simp [Sq.fetched]
theorem State.fetchTurn_fails (h : s.fetchDue = some (f, n))
    (hr : s.hostRead ((s.fn f).sqs[n].base.toNat + 64 * ((s.fn f).sqs[n].head.toNat % (s.fn f).sqs[n].size)) 64 = none) :
    s.fetchTurn f n = (s.fetchFailed f n).turnPast f n := by
  unfold State.fetchTurn
  rw [State.fetchSq_fails (State.fetchable_of_due h) hr]
  refine if_neg ?_
  rw [State.turnPast_sqs, State.laid_head (s.fetchFailed_laid f n)]
  simp
theorem exec_descriptorFetch_fails (h : s.fetchDue = some (f, n)) (hd : (s.fn f).sqs[n].held = [])
    (hr : s.hostRead ((s.fn f).sqs[n].base.toNat + 64 * ((s.fn f).sqs[n].head.toNat % (s.fn f).sqs[n].size)) 64 = none) :
    exec (.descriptorFetch f n) s = .next ((s.fetchFailed f n).turnPast f n) := by
  have hempty : (((s.fetchFailed f n).turnPast f n).fn f).sqs[n].held = [] := by
    rw [State.turnPast_sqs, State.laid_held (s.fetchFailed_laid f n), hd]
  rw [exec_descriptorFetch_turn h, State.fetchTurn_fails h hr, State.retryHeld_none (by rw [hempty]; exact List.forall_mem_nil _),
    State.dispatchSq_empty hempty]
end

/-! Where a fetched descriptor goes (R285, R286, R355, R391). -/

theorem Op.ofMc_iff (op : Nat) : Op.ofMc op = true ↔
    op ∈ [Op.load, Op.unload, Op.start, Op.park, Op.resume, Op.query, Op.logRead, Op.partReset, Op.mgmtRead, Op.mgmtWrite] := by
  simp [Op.ofMc, or_assoc]
theorem Op.ofRe_iff (op : Nat) : Op.ofRe op = true ↔ op ∈ [Op.endD, Op.hurdle, Op.transfer, Op.predicate] := by
  simp [Op.ofRe, or_assoc]
theorem Op.ofMc_of_ofRe {op : Nat} (h : Op.ofRe op = true) : Op.ofMc op = false := by
  rw [Op.ofRe_iff] at h
  simp only [List.mem_cons, List.not_mem_nil, or_false] at h
  rcases h with rfl | rfl | rfl | rfl <;> rfl
theorem State.mcRetries_iff (s : State) : s.mcRetries = true ↔ s.boot.mode ≠ .running ∨ s.boot.stage ≠ .idle := by simp [State.mcRetries]

section
variable {s : State} {d : Desc}
theorem State.deliver_reset (hm : Op.ofMc d.opcode = true) (hh : s.inHold .managementComplex = true) : s.deliver d = s.done d Status.unitReset := by
  rw [State.deliver, if_pos hm, if_pos hh]
theorem State.deliver_retry (hm : Op.ofMc d.opcode = true) (hh : s.inHold .managementComplex = false) (hr : s.mcRetries = true) :
    s.deliver d = s.done d Status.retry := by
  rw [State.deliver, if_pos hm, if_neg (by simp [hh]), if_pos hr]
theorem State.deliver_mc (hm : Op.ofMc d.opcode = true) (hh : s.inHold .managementComplex = false) (hr : s.mcRetries = false) :
    s.deliver d = s.modHiu (fun h => { h with mcQueue := h.mcQueue ++ [d] }) := by
  rw [State.deliver, if_pos hm, if_neg (by simp [hh]), if_neg (by simp [hr])]
theorem State.deliver_re (hr : Op.ofRe d.opcode = true) : s.deliver d = s.modHiu (fun h => { h with reQueue := h.reQueue ++ [d] }) := by
  rw [State.deliver, if_neg (by simp [Op.ofMc_of_ofRe hr]), if_pos hr]
theorem State.deliver_unknown (hm : Op.ofMc d.opcode = false) (hr : Op.ofRe d.opcode = false) : s.deliver d = s.done d Status.badDescriptor := by
  rw [State.deliver, if_neg (by simp [hm]), if_neg (by simp [hr])]
end

section
variable {s : State} {f : FnId} {n : RingIx} {bs : List Byte}

/-- The one descriptor of a ring whose turn it is waits behind ORDER, or goes to its unit, unless it completes with RETRY at once. -/
theorem exec_descriptorFetch_one (h : s.fetchDue = some (f, n)) (ht : (s.fn f).sqs[n].tail = (s.fn f).sqs[n].head + 1)
    (hd : (s.fn f).sqs[n].held = [])
    (hr : s.hostRead ((s.fn f).sqs[n].base.toNat + 64 * ((s.fn f).sqs[n].head.toNat % (s.fn f).sqs[n].size)) 64 = some bs)
    (d : Desc) (he : d = (s.fn f).sqs[n].descOf f n bs) (hs : s.mcRetries = false ∨ s.inHold .managementComplex = true ∨ Op.ofMc d.opcode = false) :
    exec (.descriptorFetch f n) s = .next (if !d.order || decide ((s.fn f).sqs[n].inflight = 0)
      then ((s.fetchedOne f n d).modSq f n (fun q => { q with held := [] })).deliver d else s.fetchedOne f n d) := by
  have hq := s.fetchedOne_sq f n d
  have hheld : ((s.fetchedOne f n d).fn f).sqs[n].held = [d] := by rw [hq]; rfl
  have hretry : (s.fetchedOne f n d).retryHeld f n = s.fetchedOne f n d := by
    rcases or_assoc.2 hs with hs | hs
    · exact State.retryHeld_served (by rwa [State.fetchedOne_mcRetries, State.fetchedOne_inHold])
    · exact State.retryHeld_none (by rw [hheld]; simpa using hs)
  rw [exec_descriptorFetch_turn h, State.fetchTurn_one h ht hd hr, ← he, hretry]
  have hgo : ((s.fetchedOne f n d).fn f).sqs[n].mayGo = (!d.order || decide ((s.fn f).sqs[n].inflight = 0)) := by rw [hq, Sq.mayGo_fetched]
  cases hg : (!d.order || decide ((s.fn f).sqs[n].inflight = 0)) with
  | true => rw [State.dispatchSq_one hheld (hgo.trans hg), if_pos rfl]
  | false => rw [State.dispatchSq_waits hheld (hgo.trans hg), if_neg Bool.false_ne_true]
theorem exec_descriptorFetch_retry (h : s.fetchDue = some (f, n)) (ht : (s.fn f).sqs[n].tail = (s.fn f).sqs[n].head + 1)
    (hd : (s.fn f).sqs[n].held = [])
    (hr : s.hostRead ((s.fn f).sqs[n].base.toNat + 64 * ((s.fn f).sqs[n].head.toNat % (s.fn f).sqs[n].size)) 64 = some bs)
    (d : Desc) (he : d = (s.fn f).sqs[n].descOf f n bs) (hh : s.inHold .managementComplex = false) (hs : s.mcRetries = true)
    (hm : Op.ofMc d.opcode = true) :
    exec (.descriptorFetch f n) s = .next (((s.fetchedOne f n d).modSq f n (fun q => { q with held := [] })).done d Status.retry) := by
  have hheld : ((s.fetchedOne f n d).fn f).sqs[n].held = [d] := by rw [s.fetchedOne_sq f n d]; rfl
  have hempty : ((((s.fetchedOne f n d).modSq f n (fun q => { q with held := [] })).done d Status.retry).fn f).sqs[n].held = [] := by
    rw [State.laid_held (State.done_laid ..), State.modSq_sq]
  rw [exec_descriptorFetch_turn h, State.fetchTurn_one h ht hd hr, ← he, State.retryHeld_one (by rwa [State.fetchedOne_mcRetries])
    (by rwa [State.fetchedOne_inHold]) hheld hm, State.dispatchSq_empty hempty]
end

/-! Rows of the rings. -/

section
variable {s : State} {f : FnId} {n : RingIx} {ws : HostWrites}
theorem exec_ringSqEnable (h : s.hostLanes = true) : exec (.ringSqEnable f n ws) s = .next ((s.hostWrote ws).sqEnable f n) := by
  change s.overHost (fun t => (t.hostWrote ws).sqEnable f n) = _
  exact State.overHost_up _ h
theorem exec_ringCqEnable (h : s.hostLanes = true) : exec (.ringCqEnable f n ws) s = .next ((s.hostWrote ws).cqEnable f n) := by
  change s.overHost (fun t => (t.hostWrote ws).cqEnable f n) = _
  exact State.overHost_up _ h
theorem exec_ringSqDisable (h : s.hostLanes = true) : exec (.ringSqDisable f n) s = .next (s.sqDisable f n) := by
  change s.overHost (fun t => t.sqDisable f n) = _
  exact State.overHost_up _ h
theorem exec_ringCqDisable (h : s.hostLanes = true) : exec (.ringCqDisable f n) s = .next (s.cqDisable f n) := by
  change s.overHost (fun t => t.cqDisable f n) = _
  exact State.overHost_up _ h
theorem exec_ring_down {row : Instr} (h : s.hostLanes = false)
    (hrow : row ∈ [Instr.ringSqEnable f n ws, .ringCqEnable f n ws, .ringSqDisable f n, .ringCqDisable f n]) : exec row s = .next s := by
  simp only [List.mem_cons, List.not_mem_nil, or_false] at hrow
  rcases hrow with rfl | rfl | rfl | rfl
  · change s.overHost (fun t => (t.hostWrote ws).sqEnable f n) = _
    exact State.overHost_down _ h
  · change s.overHost (fun t => (t.hostWrote ws).cqEnable f n) = _
    exact State.overHost_down _ h
  · change s.overHost (fun t => t.sqDisable f n) = _
    exact State.overHost_down _ h
  · change s.overHost (fun t => t.cqDisable f n) = _
    exact State.overHost_down _ h
theorem exec_doorbellSnoop (k : Bool) (t : State) (ht : t = s.hostWrote ws) : exec (.doorbellSnoop f k n ws) s = .next (if t.snoops f then
    (t.modHiu (fun h => { h with lines := h.lines.map (fun x => if x.1 == t.lineOf f k n then (t.lineOf f k n, .invalid) else x) })).readLine f k n
    else t) := by
  subst ht
  change execDoorbellSnoop f k n ws s = _
  unfold execDoorbellSnoop
  dsimp only
  cases (s.hostWrote ws).snoops f <;> rfl
theorem exec_doorbellPoll (k : Bool) (t : State) (ht : t = s.hostWrote ws) : exec (.doorbellPoll f k n ws) s =
    .next (if t.snoops f || t.hiu.port != .up || (k && 1 < (t.fn f).cqs[n].free) then t else t.readLine f k n) := by
  subst ht; rfl
theorem exec_doorbellPoll_idle (k : Bool) (t : State) (ht : t = s.hostWrote ws)
    (h : t.snoops f = true ∨ t.hiu.port ≠ .up ∨ (k = true ∧ 1 < (t.fn f).cqs[n].free)) : exec (.doorbellPoll f k n ws) s = .next t := by
  rw [exec_doorbellPoll k t ht, if_pos]
  rcases h with h | h | ⟨hk, h⟩
  · simp [h]
  · simp [h]
  · simp [hk, h, -Fin.getElem_fin]
theorem exec_doorbellPoll_reads (k : Bool) (t : State) (ht : t = s.hostWrote ws) (hs : t.snoops f = false) (hp : t.hiu.port = .up)
    (hk : k = false ∨ (t.fn f).cqs[n].free ≤ 1) : exec (.doorbellPoll f k n ws) s = .next (t.readLine f k n) := by
  rw [exec_doorbellPoll k t ht, if_neg]
  rcases hk with hk | hk <;> simp [hs, hp, hk, -Fin.getElem_fin]
end

/-- Settles O53: each clause is the lemma of its row above, and what a ring reads back as after it. -/
theorem ringsStartFollowTheirLineFetchAndStop : Obligations.RingsStartFollowTheirLineFetchAndStop := by
  refine ⟨⟨?sqEnable, ?cqEnable, fun s f n ws h row => exec_ring_down h, ?disable, ?lines, ?read, ?stopped,
      fun s f n => ⟨exec_interruptDelay_fires, exec_interruptDelay_idle⟩, fun s f v => ⟨State.msix_sent, State.msix_pends⟩⟩,
    fun s f n => ⟨State.fetchable_of_due, fun h => State.not_fetchable_of_idle h f n, exec_descriptorFetch_empty⟩, ?fetch,
    fun s f n q hq => ?fails, ?deliver⟩
  case sqEnable =>
    rintro s t f n ws q hl rfl rfl
    rw [exec_ringSqEnable hl]
    refine ⟨fun h => by rw [State.sqEnable_enabled h], fun h => ⟨fun hb => by rw [State.sqEnable_bad h hb], fun c hok hcq hc => ?_⟩⟩
    obtain ⟨u, hu, hq, hsqs, hcqs, hfns, hlog⟩ := State.sqEnable_runs h hok hcq hc
    exact ⟨u, congrArg _ hu, congrArg Sq.enable hq, congrArg Sq.head hq, congrArg Sq.tail hq, congrArg Sq.errCause hq,
      (congrArg Sq.base hq :), hsqs, hcqs, hfns, hlog⟩
  case cqEnable =>
    rintro s t f n ws q hl rfl rfl
    rw [exec_ringCqEnable hl]
    refine ⟨fun h => by rw [State.cqEnable_enabled h], fun h => ⟨fun hb => by rw [State.cqEnable_bad h hb], fun c hok hc hw ho => ?_⟩⟩
    obtain ⟨u, hu, hq, hcqs, hsqs, hlog⟩ := State.cqEnable_runs h hok hc hw ho
    exact ⟨u, congrArg _ hu, congrArg Cq.enable hq, congrArg Cq.count hq, congrArg Cq.head hq, congrArg Cq.errCause hq, hcqs, hsqs, hlog⟩
  case disable =>
    intro s f n hl
    rw [exec_ringSqDisable hl, exec_ringCqDisable hl]
    refine ⟨fun h => by rw [State.sqDisable_disabled h], fun h hno => ?_, fun h => ?_, fun h => by rw [State.cqDisable_disabled h],
      fun h => ⟨fun hu => ?_, fun hq hj hp => ?_⟩⟩
    · obtain ⟨hds, hs⟩ := State.unstarted_held hno
      rw [State.sqDisable_enabled h, hds, hs]
    · have hlaid := foldl_keeps State.laid (fun (t : State) d => t.done_laid d Status.ringAborted) (s.unstarted f n) (s.sqCleared f n)
      exact ⟨s.unstarted f n, _, congrArg _ (State.sqDisable_enabled h), State.mem_unstarted, (congrArg Mgt.loadHeld (State.laid_mgt hlaid) :),
        s.sqCleared f n, rfl, State.sqCleared_none⟩
    · rw [State.cqDisable_used h (by rwa [State.sqsNaming_iff, State.eventCqUsed_iff])]
    · rw [State.cqDisable_unused h (State.sqsNaming_false hq) (State.eventCqUsed_false hj hp)]
  case lines =>
    intro s t f k n ws ht
    exact ⟨fun x hx hw => ht ▸ State.hostWrote_invalidates hx hw, exec_doorbellSnoop k t ht, exec_doorbellPoll_idle k t ht,
      exec_doorbellPoll_reads k t ht⟩
  case read =>
    rintro s f n q c rfl he hx hc
    refine ⟨fun hs hsame hr => State.readLine_shared he hc (.inl hsame) hs hr, fun hsame => ?_,
      fun hnew => ⟨State.readLine_tail he hc hnew hx, fun hz => ?_, fun hz => ?_⟩⟩
    · rw [State.readLine_same he hc hsame, State.modSq_sq, State.lineRead_sq]
      exact ⟨rfl, rfl⟩
    · rw [State.readLine_taken he hc hnew hx hz, State.modSq_sq, State.countRead_sq]
      exact ⟨hx, State.countRead_log (c := c)⟩
    · rw [State.readLine_beyond_sq he hc hnew hx hz]
      exact ⟨rfl, rfl⟩
  case stopped =>
    rintro s f n q rfl he hx
    obtain ⟨htail, hcause⟩ := State.readLine_stopped_keeps he hx
    refine ⟨htail, hcause, fun hc => ?_, fun hc hf => ?_, fun c hc hnew => ?_, fun hs hc hr => ?_⟩
    · rcases hc with hc | hc
      · rw [State.readLine_unread_sq he hc]; rfl
      · rw [State.readLine_same_sq he hc rfl]; rfl
    · rw [State.readLine_unread he hc, if_neg (by rw [hf]; exact Bool.false_ne_true)]
      rfl
    · rw [State.readLine_stopped he hc hnew hx, State.countRead_sq]
      exact ⟨rfl, rfl⟩
    · obtain ⟨c, hc⟩ := Option.isSome_iff_exists.1 hc
      exact State.readLine_shared he hc (.inr hx) hs hr
  case fetch =>
    rintro s u f n q bs d rfl h ht hd hr he rfl
    have hone := exec_descriptorFetch_one h ht hd hr d he
    refine ⟨fun hh hm ho => ?_, fun hh hs hm => exec_descriptorFetch_retry h ht hd hr d he hh hs hm, fun ho hi hs => ?_, fun ho hs => ?_⟩
    · rw [hone (.inr (.inl hh)), if_pos (by simpa using ho)]
      exact congrArg _ (State.deliver_reset hm (by rw [← hh, ← s.fetchedOne_inHold f n d]; rfl))
    · rw [hone hs, if_neg (by simp [ho, Nat.pos_iff_ne_zero.1 hi, -Fin.getElem_fin])]
      rfl
    · rw [hone hs, if_pos (by simpa using ho)]
      rfl
  case fails =>
    subst hq
    exact exec_descriptorFetch_fails
  case deliver =>
    intro s d op
    refine ⟨fun hop => ?_, fun hop => State.deliver_re (Op.ofRe_iff _ |>.2 hop), fun hop => ?_⟩
    · have hm := (Op.ofMc_iff _).2 hop
      exact ⟨State.deliver_reset hm, fun hh hmode hstage => State.deliver_mc hm hh (by simp [State.mcRetries, hmode, hstage]),
        fun hh hs => State.deliver_retry hm hh (s.mcRetries_iff.2 hs)⟩
    · have hno : ¬ (Op.ofMc op = true ∨ Op.ofRe op = true) := by
        rw [Op.ofMc_iff, Op.ofRe_iff, ← List.mem_append]; exact hop
      obtain ⟨hm, hr⟩ := not_or.1 hno
      exact State.deliver_unknown (Bool.eq_false_iff.2 hm) (Bool.eq_false_iff.2 hr)

end Sys2Proof.Machine
end

section
/-! SUPPORT and the statements of what every command leaves alone: the queue of commands, device time, the log's pinned slots, the key slots
(R335, R348, R353, R405, R415). -/

namespace Sys2Proof.Machine

/-! What the commands that do not keep State.Steady leave alone all the same. -/

/-- MAIN_CONVERSION_START keeps what State.Steady holds fast but for MAIN_PG. -/
theorem exec_mainConversionStart_steady {s t : State} (h : s.Inv) (ht : exec .mainConversionStart s = .next t) :
    t.Steady { s with power := { s.power with mainPg := true } } :=
  execMainConversionStart_steady s h.steady.powered rfl t ht

/-- LOG_WRITE moves neither the queue of commands nor device time nor a key slot. -/
theorem exec_logWrite_frame {s t : State} (ht : exec .logWrite s = .next t) :
    t.pending = s.pending ∧ t.clock = s.clock ∧ t.mgt = s.mgt := by
  cases hi : s.log.input with
  | nil =>
    rw [exec_logWrite_none hi] at ht
    cases ht
    exact ⟨rfl, rfl, rfl⟩
  | cons o rest =>
    obtain ⟨fns, hiu, svc, he⟩ := exec_logWrite_due (TroubleLog.due_cons hi)
    rw [he] at ht
    cases ht
    unfold State.logged
    dsimp only
    split <;> exact ⟨rfl, rfl, rfl⟩
/-- LOG_WRITE writes the slot at LOG_HEAD, which is not pinned. -/
theorem exec_logWrite_pinned {s t : State} {n : Nat} {e : LogEntry} (h : s.log.Wf) (hn : s.log.slot? n = some e) (hp : e.pinned = true)
    (ht : exec .logWrite s = .next t) : t.log.slot? n = some e := by
  cases hi : s.log.input with
  | nil =>
    rw [exec_logWrite_none hi] at ht
    cases ht
    exact hn
  | cons o rest =>
    have hne : n ≠ s.log.head.toNat := by
      rintro rfl
      have hh := h.head
      rw [hn] at hh
      exact absurd hp (by simpa using hh)
    obtain ⟨u, hu, -, -, -, hother, -⟩ := logWrite_moves (TroubleLog.due_cons hi)
    cases hu.symm.trans ht
    exact (hother n hne).trans hn

/-- Of a change that waits the tick leaves the queue of commands, the log's slots and the management registers as they were. -/
theorem State.applyChange_frame (s : State) :
    s.applyChange.pending = s.pending ∧ s.applyChange.log.slots = s.log.slots ∧ s.applyChange.mgt = s.mgt := by
  unfold State.applyChange
  split
  · exact ⟨rfl, rfl, rfl⟩
  · dsimp only
    split <;> exact ⟨State.logs_pending _ _ _ _, State.logs_slots _ _ _ _, State.logs_mgt _ _ _ _⟩
theorem exec_deviceTimeTick_frame {s t : State} (ht : exec .deviceTimeTick s = .next t) :
    t.pending = s.pending ∧ t.log.slots = s.log.slots ∧ t.mgt = s.mgt := by
  cases hp : s.power.porReleased with
  | false =>
    rw [exec_deviceTimeTick_off hp] at ht
    cases ht
    exact ⟨rfl, rfl, rfl⟩
  | true =>
    rw [exec_deviceTimeTick hp] at ht
    cases ht
    rw [State.modClock_pending, State.modClock_log, State.modClock_mgt]
    exact s.applyChange_frame

/-- A row over the host's lanes keeps what its meaning keeps. -/
theorem State.overHost_keeps {s t : State} {g : State → State} {P : State → Prop} (h : P s) (hg : P (g s)) (ht : s.overHost g = .next t) : P t := by
  unfold State.overHost at ht
  cases ht
  split
  · exact hg
  · exact h
theorem State.i3c_keeps {s t : State} {g : State → State} {P : State → Prop} (h : P s) (hg : P (g s)) (ht : s.i3c g = .next t) : P t := by
  unfold State.i3c at ht
  cases ht
  split
  · exact hg
  · exact h
theorem State.enroll_frame (s : State) (k : KeySlotIx) :
    (s.enroll k).pending = s.pending ∧ (s.enroll k).clock = s.clock ∧ (s.enroll k).log.slots = s.log.slots := by
  unfold State.enroll
  split
  · exact ⟨rfl, rfl, rfl⟩
  · exact ⟨State.logs_pending _ _ _ _, State.logs_clock _ _ _ _, State.logs_slots _ _ _ _⟩
/-- ENROLL and REVOKE move neither the queue of commands nor device time nor a slot of the log. -/
theorem exec_keyRow_frame {s t : State} {k : KeySlotIx} {c : Instr} (hc : c = .enroll k ∨ c = .revoke k) (ht : exec c s = .next t) :
    t.pending = s.pending ∧ t.clock = s.clock ∧ t.log.slots = s.log.slots := by
  rcases hc with rfl | rfl
  · exact State.overHost_keeps (P := fun t => t.pending = s.pending ∧ t.clock = s.clock ∧ t.log.slots = s.log.slots) (g := (·.enroll k))
      ⟨rfl, rfl, rfl⟩ (s.enroll_frame k) ht
  · exact State.overHost_keeps (P := fun t => t.pending = s.pending ∧ t.clock = s.clock ∧ t.log.slots = s.log.slots) (g := (·.revoke k))
      ⟨rfl, rfl, rfl⟩ ⟨rfl, rfl, rfl⟩ ht

/-! The standby domain's own commands, and the register writes, leave the queue of commands. -/

theorem exec_standbyPorRelease_pending {strap : BitVec 3} {s t : State} (ht : exec (.standbyPorRelease strap) s = .next t) :
    t.pending = s.pending := by
  cases hp : s.power.porReleased with
  | false =>
    rw [exec_standbyPorRelease strap hp] at ht
    cases ht
    exact State.coldStart_pending _
  | true =>
    have he : exec (.standbyPorRelease strap) s = .next s := by simp [exec, execStandbyPorRelease, hp]
    cases he.symm.trans ht
    rfl
theorem exec_coldReset_pending {s t : State} (h : s.Inv) (ht : exec .coldReset s = .next t) : t.pending = s.pending := by
  cases hp : s.power.porReleased with
  | false =>
    have he : exec .coldReset s = .next s := by simp [exec, execColdReset, hp]
    cases he.symm.trans ht
    rfl
  | true =>
    rw [exec_coldReset hp] at ht
    cases ht
    exact (s.coldReset_inv h).2
theorem exec_standbyFail_pending {s t : State} (ht : exec .standbyFail s = .next t) : t.pending = s.pending := by
  cases hp : s.power.porReleased with
  | false =>
    have he : exec .standbyFail s = .next s := by simp [exec, execStandbyFail, hp]
    cases he.symm.trans ht
    rfl
  | true =>
    rw [exec_standbyFail hp] at ht
    cases ht
    rfl
theorem exec_i3cReset_pending {v : W32} {s t : State} (h : s.Inv) (ht : exec (.i3cReset v) s = .next t) : t.pending = s.pending := by
  have ht : execI3cReset v s = .next t := ht
  refine State.i3c_keeps (P := fun t => t.pending = s.pending) rfl ?_ ht
  dsimp only
  split <;> exact (s.setReset_inv v h).2
theorem exec_registerWrite_pending {f : FnId} {off : BitVec 20} {size : Fin 9} {v : W64} {s t : State} (h : s.Inv)
    (ht : exec (.registerWrite f off size v) s = .next t) : t.pending = s.pending := by
  rw [exec_registerWrite] at ht
  refine State.overHost_keeps (P := fun t => t.pending = s.pending) rfl ?_ ht
  split
  · exact (s.regWrite_inv f off _ v h).2
  · exact State.logs_pending _ _ _ _

/-- Settles O7: what keeps State.Steady keeps the queue, and each other command has its lemma above. -/
theorem noCommandTouchesTheQueue : Obligations.NoCommandTouchesTheQueue := by
  intro c s t h ht
  cases hc : mayUnsteady c with
  | false => exact (exec_steady h.steady c hc ht).queue
  | true =>
    cases c with
    | standbyPorRelease strap => exact exec_standbyPorRelease_pending ht
    | coldReset => exact exec_coldReset_pending h ht
    | standbyFail => exact exec_standbyFail_pending ht
    | mainConversionStart => exact (exec_mainConversionStart_steady h ht).queue
    | enroll k => exact (exec_keyRow_frame (.inl rfl) ht).1
    | revoke k => exact (exec_keyRow_frame (.inr rfl) ht).1
    | i3cReset v => exact exec_i3cReset_pending h ht
    | registerWrite f off size v => exact exec_registerWrite_pending h ht
    | deviceTimeTick => exact (exec_deviceTimeTick_frame ht).1
    | logWrite => exact (exec_logWrite_frame ht).1
    | _ => cases hc

/-- Settles O8: what keeps State.Steady keeps device time; of the rest no command but the tick reaches the clock without a restart. -/
theorem deviceTimeMovesOnlyAtItsTick : Obligations.DeviceTimeMovesOnlyAtItsTick := by
  intro c s t h hm ht
  cases hc : mayUnsteady c with
  | false => exact (exec_steady h.steady c hc ht).time
  | true =>
    cases c with
    | mainConversionStart => exact (exec_mainConversionStart_steady h ht).time
    | enroll k => rw [(exec_keyRow_frame (.inl rfl) ht).2.1]; exact ⟨rfl, rfl, rfl⟩
    | revoke k => rw [(exec_keyRow_frame (.inr rfl) ht).2.1]; exact ⟨rfl, rfl, rfl⟩
    | logWrite => rw [(exec_logWrite_frame ht).2.1]; exact ⟨rfl, rfl, rfl⟩
    | standbyPorRelease _ | coldReset | standbyFail | i3cReset _ | registerWrite _ _ _ _ | deviceTimeTick => cases hm
    | _ => cases hc

/-- A log with the same slots holds the same entries. -/
theorem TroubleLog.slot?_congr {g k : TroubleLog} (h : g.slots = k.slots) (n : Nat) : g.slot? n = k.slot? n := by
  unfold TroubleLog.slot?
  rw [h]

/-- Settles O9: LOG_WRITE alone writes a slot, and LOG_HEAD never stands at a pinned one. -/
theorem pinnedLogSlotIsKept : Obligations.PinnedLogSlotIsKept := by
  intro c s t n e h hm hn hp ht
  have keep : t.log.slots = s.log.slots → t.log.slot? n = some e := fun hs => (TroubleLog.slot?_congr hs n).trans hn
  cases hc : mayUnsteady c with
  | false => exact keep (exec_steady h.steady c hc ht).slots.1
  | true =>
    cases c with
    | mainConversionStart => exact keep (exec_mainConversionStart_steady h ht).slots.1
    | enroll k => exact keep (exec_keyRow_frame (.inl rfl) ht).2.2
    | revoke k => exact keep (exec_keyRow_frame (.inr rfl) ht).2.2
    | deviceTimeTick => exact keep (exec_deviceTimeTick_frame ht).2.1
    | logWrite => exact exec_logWrite_pinned h.log hn hp ht
    | standbyPorRelease _ | coldReset | standbyFail | i3cReset _ | registerWrite _ _ _ _ => cases hm
    | _ => cases hc

/-- Settles O10: what keeps State.Steady keeps the key slots, and the rest that may not change them leaves the management registers. -/
theorem keySlotsChangeOnlyByTheirCommands : Obligations.KeySlotsChangeOnlyByTheirCommands := by
  intro c s t h hm ht
  cases hc : mayUnsteady c with
  | false => exact (exec_steady h.steady c hc ht).keys
  | true =>
    cases c with
    | mainConversionStart => exact (exec_mainConversionStart_steady h ht).keys
    | deviceTimeTick => rw [(exec_deviceTimeTick_frame ht).2.2]
    | logWrite => rw [(exec_logWrite_frame ht).2.2]
    | standbyPorRelease _ | coldReset | standbyFail | i3cReset _ | registerWrite _ _ _ _ | enroll _ | revoke _ => cases hm
    | _ => cases hc

end Sys2Proof.Machine
end

section
/-! SUPPORT and the statements of an entry handed to the log and of the supply warnings and the trip (R346, R347, R369, R370, R383). -/

namespace Sys2Proof.Machine

/-! Which entry finds no room (R347). -/

/-- Of two entries the one of higher rank, the second of equals: the choice that TroubleLog.overfull folds over the entries of one beat. -/
def LogEntry.upper (m x : LogEntry) : LogEntry := if m.rank ≤ x.rank then x else m

theorem foldl_upper_mem (l : List LogEntry) (m : LogEntry) : l.foldl LogEntry.upper m ∈ m :: l := by
  induction l generalizing m with
  | nil => simp
  | cons y l ih =>
    rw [List.foldl_cons]
    rcases List.mem_cons.1 (ih (m.upper y)) with h | h
    · rw [h, LogEntry.upper]
      split <;> simp
    · exact List.mem_cons_of_mem _ (List.mem_cons_of_mem _ h)
theorem le_rank_foldl_upper (l : List LogEntry) (m : LogEntry) : ∀ x ∈ m :: l, x.rank ≤ (l.foldl LogEntry.upper m).rank := by
  induction l generalizing m with
  | nil => simp
  | cons y l ih =>
    have hup : m.rank ≤ (m.upper y).rank ∧ y.rank ≤ (m.upper y).rank := by
      unfold LogEntry.upper
      split <;> omega
    have hle := ih (m.upper y) _ List.mem_cons_self
    intro x hx
    rw [List.foldl_cons]
    rcases List.mem_cons.1 hx with rfl | hx
    · omega
    rcases List.mem_cons.1 hx with rfl | hx
    · omega
    · exact ih _ x (List.mem_cons_of_mem _ hx)

/-- The entries of an entry's beat in the input queue. -/
def TroubleLog.sameBeat (g : TroubleLog) (e : LogEntry) : List LogEntry := g.input.filter e.sameBeat

theorem TroubleLog.mem_sameBeat {g : TroubleLog} {e x : LogEntry} : x ∈ g.sameBeat e ↔ x ∈ g.input ∧ e.beat ≠ none ∧ x.beat = e.beat := by
  rw [TroubleLog.sameBeat, List.mem_filter, LogEntry.sameBeat_iff]
theorem TroubleLog.overfull_eq (g : TroubleLog) (e : LogEntry) : g.overfull e =
    { g with
      input := if e.rank < ((g.sameBeat e).foldl LogEntry.upper e).rank then g.input.erase ((g.sameBeat e).foldl LogEntry.upper e) ++ [e]
        else g.input
      lost := satInc g.lost } := rfl
/-- An entry that is the last of its beat finds no room. -/
theorem TroubleLog.overfull_last {g : TroubleLog} {e : LogEntry} (h : e.beat = none ∨ ∀ x ∈ g.input, x.beat = e.beat → x.rank ≤ e.rank) :
    g.overfull e = { g with lost := satInc g.lost } := by
  have hle : ¬ e.rank < ((g.sameBeat e).foldl LogEntry.upper e).rank := by
    rcases List.mem_cons.1 (foldl_upper_mem (g.sameBeat e) e) with hm | hm
    · rw [hm]
      exact lt_irrefl _
    · obtain ⟨hin, hb, hbeat⟩ := TroubleLog.mem_sameBeat.1 hm
      exact Nat.not_lt.2 (h.resolve_left hb _ hin hbeat)
  rw [TroubleLog.overfull_eq, if_neg hle]
/-- An entry that is not the last of its beat takes the place of the one that is. -/
theorem TroubleLog.overfull_takes {g : TroubleLog} {e y : LogEntry} (hy : y ∈ g.input) (hb : e.beat.isSome = true) (hbeat : y.beat = e.beat)
    (hlt : e.rank < y.rank) (hlast : ∀ x ∈ g.input, x.beat = e.beat → x ≠ y → x.rank < y.rank) :
    g.overfull e = { g with input := g.input.erase y ++ [e], lost := satInc g.lost } := by
  have hmem : y ∈ g.sameBeat e := TroubleLog.mem_sameBeat.2 ⟨hy, Option.isSome_iff_ne_none.1 hb, hbeat⟩
  have hle := le_rank_foldl_upper (g.sameBeat e) e y (List.mem_cons_of_mem _ hmem)
  have heq : (g.sameBeat e).foldl LogEntry.upper e = y := by
    rcases List.mem_cons.1 (foldl_upper_mem (g.sameBeat e) e) with hm | hm
    · rw [hm] at hle
      omega
    · obtain ⟨hin, -, hxb⟩ := TroubleLog.mem_sameBeat.1 hm
      by_contra hne
      exact absurd (hlast _ hin hxb hne) (Nat.not_lt.2 hle)
  rw [TroubleLog.overfull_eq, heq, if_pos hlt]

/-! The hand-over (R346). -/

theorem State.paceRuns_iff (s : State) : s.paceRuns = true ↔ s.power.mainPg = true ∧ s.pace.refsLost = false := by
  simp [State.paceRuns]
/-- The entry that a unit hands over at this moment. -/
def State.entryOf (s : State) (code : W16) (vf : Nat) (body : LogBody) (place : Nat) : LogEntry :=
  { code := code, pinned := false, vf := BitVec.ofNat 8 vf, seq := 0, time := s.clock.stamp, body := body
    beat := if s.power.mainPg = true ∧ s.pace.refsLost = false then some s.pace.count.toNat else none, place := place }
theorem State.hand_entryOf (s : State) (code : W16) (vf : Nat) (body : LogBody) (place : Nat) : s.hand code vf body place =
    s.modLog (fun g => if g.input.length < 256 then { g with input := g.input ++ [s.entryOf code vf body place] }
      else g.overfull (s.entryOf code vf body place)) := by
  simp only [State.hand, State.entryOf, State.paceRuns_iff]

/-- Settles O6: with room the entry joins the queue; else the last of its beat is lost. -/
theorem handedEntryJoinsTheInputQueue : Obligations.HandedEntryJoinsTheInputQueue := by
  intro s code vf place body
  refine ⟨fun h => ?_, fun e h he => ⟨fun hlast => ?_, fun y hy hb hbeat hlt hothers => ?_⟩⟩
  · rw [State.hand_entryOf, State.modLog, if_pos h]
    rfl
  · have he : e = s.entryOf code vf body place := he
    rw [State.hand_entryOf, State.modLog, if_neg (Nat.not_lt.2 h), ← he, TroubleLog.overfull_last hlast]
  · have he : e = s.entryOf code vf body place := he
    rw [State.hand_entryOf, State.modLog, if_neg (Nat.not_lt.2 h), ← he, TroubleLog.overfull_takes hy hb hbeat hlt hothers]

/-! The main input's and the standby input's warnings (R369, R370). -/

section
variable {s : State}
theorem exec_mainLow_first (hp : s.power.mainPg = true) (hl : s.power.mainLow = false) :
    exec .mainLow s = .next ((s.modPower (fun p => { p with mainLow := true })).logs Code.mainLow) := by
  show execMainLow s = _
  simp [execMainLow, hp, hl]
theorem exec_mainLow_same (h : s.power.mainLow = true ∨ s.power.mainPg = false) : exec .mainLow s = .next s := by
  show execMainLow s = _
  rcases h with h | h <;> simp [execMainLow, h]

theorem exec_stbyOutOfRange_off {mv : BitVec 13} (h : s.power.porReleased = false) : exec (.stbyOutOfRange mv) s = .next s := by
  show execStbyOutOfRange mv s = _
  simp [execStbyOutOfRange, h]
/-- The bands of the standby input, in millivolts: one outside the operating range where the package runs, and the operating range. -/
theorem exec_stbyOutOfRange (mv : BitVec 13) (h : s.power.porReleased = true) : exec (.stbyOutOfRange mv) s = .next (
    if (3000 ≤ mv.toNat ∧ mv.toNat < 3135) ∨ (3465 < mv.toNat ∧ mv.toNat ≤ 3800) then
      (if s.power.stbyEpisode then s else (s.modPower (fun p => { p with stbyEpisode := true })).logs Code.stbyOutOfRange)
    else if 3135 ≤ mv.toNat ∧ mv.toNat ≤ 3465 then s.modPower (fun p => { p with stbyEpisode := false })
    else s) := by
  show execStbyOutOfRange mv s = _
  simp [execStbyOutOfRange, h]
theorem exec_stbyOutOfRange_out {mv : BitVec 13} (h : s.power.porReleased = true)
    (hv : (3000 ≤ mv.toNat ∧ mv.toNat < 3135) ∨ (3465 < mv.toNat ∧ mv.toNat ≤ 3800)) : exec (.stbyOutOfRange mv) s = .next (
    if s.power.stbyEpisode then s else (s.modPower (fun p => { p with stbyEpisode := true })).logs Code.stbyOutOfRange) := by
  rw [exec_stbyOutOfRange mv h, if_pos hv]
theorem exec_stbyOutOfRange_in {mv : BitVec 13} (h : s.power.porReleased = true) (hl : 3135 ≤ mv.toNat) (hh : mv.toNat ≤ 3465) :
    exec (.stbyOutOfRange mv) s = .next (s.modPower (fun p => { p with stbyEpisode := false })) := by
  rw [exec_stbyOutOfRange mv h, if_neg (by omega), if_pos ⟨hl, hh⟩]
theorem exec_stbyOutOfRange_beyond {mv : BitVec 13} (h : s.power.porReleased = true) (hv : mv.toNat < 3000 ∨ 3800 < mv.toNat) :
    exec (.stbyOutOfRange mv) s = .next s := by
  rw [exec_stbyOutOfRange mv h, if_neg (by omega), if_neg (by omega)]

/-! The clearing of the trip (R383). -/

theorem exec_tripClear_off (h : s.power.porReleased = false) : exec .tripClear s = .next s := by
  show execTripClear s = _
  simp [execTripClear, h]
theorem exec_tripClear_on (h : s.power.porReleased = true) : exec .tripClear s = .next s.tripClear := by
  show execTripClear s = _
  simp [execTripClear, h]
theorem Sensor.atLeast_iff (q : Sensor) (x : Int) : q.atLeast x = true ↔ q.failed = false ∧ q.sampled = true ∧ x ≤ q.last.toInt := by
  simp [Sensor.atLeast, and_assoc]
theorem State.tripClear_hot (h : ∃ q ∈ s.power.sensors.toList, q.failed = false ∧ q.sampled = true ∧ 720 ≤ q.last.toInt) : s.tripClear = s := by
  obtain ⟨q, hq, hot⟩ := h
  rw [State.tripClear, if_pos (List.any_eq_true.2 ⟨q, hq, (q.atLeast_iff 720).2 hot⟩)]
theorem State.tripClear_cool (h : ∀ q ∈ s.power.sensors.toList, q.failed = false → q.sampled = true → q.last.toInt < 720) :
    s.tripClear = s.modPower (fun p => { p with trip := false, thermtrip := false }) := by
  have hcool : ¬ s.power.sensors.toList.any (fun q => q.atLeast 720) = true := by
    rw [List.any_eq_true]
    rintro ⟨q, hq, hot⟩
    obtain ⟨hf, hs, hv⟩ := (q.atLeast_iff 720).1 hot
    exact absurd (h q hq hf hs) (Int.not_lt.2 hv)
  rw [State.tripClear, if_neg hcool]
end

/-- Settles O11: each clause is the lemma of its row above. -/
theorem supplyWarningsAndTripClear : Obligations.SupplyWarningsAndTripClear := by
  intro s
  refine ⟨exec_mainLow_first, exec_mainLow_same, rfl, fun mv hp => ⟨fun hv => ⟨fun he => ?_, fun he => ?_⟩,
    exec_stbyOutOfRange_in hp, exec_stbyOutOfRange_beyond hp⟩, fun hp => ⟨fun hc => ?_, fun hh => ?_⟩,
    fun hp => ⟨exec_tripClear_off hp, fun mv => exec_stbyOutOfRange_off hp⟩⟩
  · rw [exec_stbyOutOfRange_out hp hv, he]
    rfl
  · rw [exec_stbyOutOfRange_out hp hv, if_pos he]
  · rw [exec_tripClear_on hp, State.tripClear_cool hc]
    rfl
  · rw [exec_tripClear_on hp, State.tripClear_hot hh]

end Sys2Proof.Machine
end

section
/-! SUPPORT and the statement of the key slots (R415): ENROLL, REVOKE, the bytes of MGT_KEYk, and what every other command leaves of a revoked
slot. -/

namespace Sys2Proof.Machine

/-! Bytes of numbers in little-endian order (R1). -/

theorem leAt_one (bs : List Byte) (i : Nat) : leAt bs i 1 = (bs[i]?.getD 0).toNat := by
  rw [leAt, slice]
  rcases h : bs.drop i with _ | ⟨b, l⟩
  · have hi : bs[i]? = none := List.getElem?_eq_none (List.drop_eq_nil_iff.1 h)
    simp [leNat, hi]
  · have hb : bs[i]? = some b := by
      rw [← Nat.add_zero i, ← List.getElem?_drop, h]
      rfl
    simp [leNat, hb]
theorem natLE_getElem? (n v i : Nat) : (natLE n v)[i]? = if i < n then some (BitVec.ofNat 8 (v / 256 ^ i)) else none := by
  induction n generalizing v i with
  | zero => simp [natLE]
  | succ n ih =>
    cases i with
    | zero => simp [natLE]
    | succ i =>
      rw [natLE, List.getElem?_cons_succ, ih, Nat.div_div_eq_div_mul, ← Nat.pow_succ']
      simp
theorem natLE_leNat (bs : List Byte) : natLE bs.length (leNat bs) = bs := by
  induction bs with
  | nil => rfl
  | cons b bs ih =>
    have hb := b.isLt
    have hd : (b.toNat + 256 * leNat bs) / 256 = leNat bs := by omega
    rw [List.length_cons, natLE, leNat, hd, ih, List.cons.injEq]
    exact ⟨BitVec.eq_of_toNat_eq (by rw [BitVec.toNat_ofNat]; omega), rfl⟩
theorem leNat_lt (bs : List Byte) : leNat bs < 2 ^ (8 * bs.length) := by
  induction bs with
  | nil => simp [leNat]
  | cons b bs ih =>
    have hb := b.isLt
    rw [leNat, List.length_cons, Nat.mul_succ, Nat.pow_add]
    omega
/-- A word that takes n bytes gives them back. -/
theorem natLE_ofNat_leAt {bs : List Byte} {off n w : Nat} (hw : w = 8 * n) (h : off + n ≤ bs.length) :
    natLE n (BitVec.ofNat w (leAt bs off n)).toNat = slice bs off n := by
  have hlen : (slice bs off n).length = n := by rw [slice, List.length_take, List.length_drop]; omega
  have hlt := leNat_lt (slice bs off n)
  have hrt := natLE_leNat (slice bs off n)
  rw [hlen] at hlt hrt
  rw [BitVec.toNat_ofNat, leAt, hw, Nat.mod_eq_of_lt hlt, hrt]
theorem patch_length {bs new : List Byte} {off : Nat} (h : off + new.length ≤ bs.length) : (patch bs off new).length = bs.length := by
  simp only [patch, List.length_append, List.length_take, List.length_drop]
  omega
/-- A byte of a list after some of its bytes have been replaced. -/
theorem patch_getElem? {bs new : List Byte} {off : Nat} (h : off + new.length ≤ bs.length) (i : Nat) :
    (patch bs off new)[i]? = if off ≤ i ∧ i < off + new.length then new[i - off]? else bs[i]? := by
  have htake : (bs.take off).length = off := by rw [List.length_take]; omega
  rw [patch]
  by_cases h1 : i < off
  · rw [if_neg (by omega), List.append_assoc, List.getElem?_append_left (by omega), List.getElem?_take, if_pos h1]
  · by_cases h2 : i < off + new.length
    · rw [if_pos ⟨by omega, h2⟩, List.append_assoc, List.getElem?_append_right (by omega), List.getElem?_append_left (by omega), htake]
    · rw [if_neg (by omega), List.getElem?_append_right (by rw [List.length_append]; omega), List.length_append, htake, List.getElem?_drop]
      congr 1
      omega

/-! The curve, and the two commands (R415). -/

theorem ecOnCurve_iff (x y : Nat) :
    ecOnCurve x y = true ↔ x < ecP ∧ y < ecP ∧ y ^ 2 % ecP = (x ^ 3 + (ecP - 3) * x + ecB) % ecP := by
  rw [ecOnCurve, Bool.and_eq_true, Bool.and_eq_true, decide_eq_true_eq, decide_eq_true_eq, beq_iff_eq, and_assoc, pow_two,
    show x ^ 3 = x * x * x by ring]

theorem KeySlot.onCurve_iff (q : KeySlot) {x y : Nat} (hx : x = beNat (natLE 48 q.x.toNat)) (hy : y = beNat (natLE 48 q.y.toNat)) :
    q.onCurve = true ↔ x < ecP ∧ y < ecP ∧ y ^ 2 % ecP = (x ^ 3 + (ecP - 3) * x + ecB) % ecP := by
  rw [KeySlot.onCurve, ← hx, ← hy, ecOnCurve_iff]

section
variable {s : State} {k : KeySlotIx}

theorem State.keyOpen_iff : s.keyOpen k = true ↔ (s.fn 0).setupLock = false ∧ s.mgt.keys[k].state = .empty := by
  simp [State.keyOpen, State.lockOf]
theorem State.enroll_open (ho : s.keyOpen k = true) (hc : s.mgt.keys[k].onCurve = true) :
    s.enroll k = s.modMgt (fun m => { m with keys := vmod m.keys k (fun q => { q with state := .enrolled }) }) := by
  rw [State.enroll, if_pos (Bool.and_eq_true_iff.2 ⟨ho, hc⟩)]
theorem State.enroll_refused (h : ¬ (s.keyOpen k = true ∧ s.mgt.keys[k].onCurve = true)) : s.enroll k = s.logs Code.setupRejected := by
  rw [State.enroll, if_neg (fun hb => h (Bool.and_eq_true_iff.1 hb))]
  rfl
theorem exec_enroll (h : s.hostLanes = true) : exec (.enroll k) s = .next (s.enroll k) := State.overHost_up (·.enroll k) h
theorem exec_revoke (h : s.hostLanes = true) : exec (.revoke k) s = .next (s.revoke k) := State.overHost_up (·.revoke k) h
theorem exec_keyRow_down (h : s.hostLanes = false) : exec (.enroll k) s = .next s ∧ exec (.revoke k) s = .next s :=
  ⟨State.overHost_down (·.enroll k) h, State.overHost_down (·.revoke k) h⟩
end

/-! Where the registers of the management unit lie (Table 18-8). -/

theorem regAt_mgt {n : Nat} (h1 : 0x30000 ≤ n) (h2 : n < 0x40000) : regAt 0 n = mgtReg n := by
  have hf : fnReg 0 n = none := by
    simp only [fnReg, ringReg, if_true]
    rw [if_neg (by omega), if_neg (by omega), if_neg (by omega), if_neg (by omega), if_pos (by omega)]
  simp only [regAt, hf, bne_self_eq_false, Bool.false_eq_true, if_false]
  rw [if_neg (by omega), if_neg (by omega), if_pos h2]
/-- The key registers: 96 bytes every 128 from 0x3_0400 on. -/
theorem regAt_key {n o : Nat} (k : KeySlotIx) (ho : o < 96) (hn : n = 0x30400 + 0x80 * k.val + o) : regAt 0 n = some (.key k o) := by
  have hk := k.isLt
  have hix : finOf 8 ((n - 0x30400) / 0x80) = k := Fin.ext (by simp only [finOf, Fin.ofNat]; omega)
  have hoff : n % 0x80 = o := by omega
  rw [regAt_mgt (by omega) (by omega), mgtReg]
  repeat rw [if_neg (by omega)]
  rw [if_pos (by omega), hix, hoff]

/-! Writes of MGT_KEYk (R415). -/

section
variable {s : State} {k : KeySlotIx}

/-- The 96 bytes of a slot's key as its registers show them. -/
def KeySlot.bytes (q : KeySlot) : List Byte := natLE 48 q.x.toNat ++ natLE 48 q.y.toNat
/-- A slot whose key has other bytes. -/
def KeySlot.withBytes (q : KeySlot) (bs : List Byte) : KeySlot := { q with x := BitVec.ofNat 384 (leAt bs 0 48), y := BitVec.ofNat 384 (leAt bs 48 48) }

theorem KeySlot.bytes_length (q : KeySlot) : q.bytes.length = 96 := by
  rw [KeySlot.bytes, List.length_append, natLE_length, natLE_length]
theorem KeySlot.bytes_withBytes (q : KeySlot) {bs : List Byte} (h : bs.length = 96) : (q.withBytes bs).bytes = bs := by
  have hx : slice bs 0 48 = bs.take 48 := rfl
  have hy : slice bs 48 48 = bs.drop 48 := List.take_of_length_le (by rw [List.length_drop]; omega)
  rw [KeySlot.bytes, KeySlot.withBytes, natLE_ofNat_leAt rfl (by omega), natLE_ofNat_leAt rfl (by omega), hx, hy, List.take_append_drop]

theorem State.setKeyBytes_closed {o : Nat} {bs : List Byte} (h : ¬ s.keyOpen k = true) : s.setKeyBytes k o bs = s.logs Code.setupRejected := by
  rw [State.setKeyBytes, if_pos (by simpa using h)]
  rfl
theorem State.setKeyBytes_open {o : Nat} {bs : List Byte} (h : s.keyOpen k = true) : s.setKeyBytes k o bs =
    s.modMgt (fun m => { m with keys := vmod m.keys k (fun q => q.withBytes (patch s.mgt.keys[k].bytes o bs)) }) := by
  rw [State.setKeyBytes, if_neg (by simpa using h)]
  rfl

/-- An aligned write of 4 or 8 bytes inside a key register writes those bytes. -/
theorem exec_registerWrite_key {o n : Nat} {size : Fin 9} {off : BitVec 20} {v : W64} (hl : s.hostLanes = true)
    (hn : n = 4 ∧ size = 4 ∨ n = 8 ∧ size = 8) (ha : o % n = 0) (ho : o < 96) (hoff : off.toNat = 0x30400 + 0x80 * k.val + o)
    (hv : v.toNat < 2 ^ (8 * n)) : exec (.registerWrite 0 off size v) s = .next (s.setKeyBytes k o (natLE n v.toNat)) := by
  have hr : regAt 0 off.toNat = some (.key k o) := regAt_key k ho hoff
  rcases hn with ⟨rfl, rfl⟩ | ⟨rfl, rfl⟩
  · have hlow : (v.setWidth 32).toNat = v.toNat := by rw [BitVec.toNat_setWidth]; omega
    rw [exec_registerWrite_narrow hl (by omega) hr rfl, State.commit32, hlow]
  · have ha8 : off.toNat % (8 : Fin 9).val = 0 := by
      show off.toNat % 8 = 0
      omega
    rw [exec_registerWrite_ok hl (.inr rfl) ha8]
    simp [State.regWrite, hr, SetupReg.wide]
/-- What a write of bytes of an open slot's key leaves. -/
theorem State.setKeyBytes_leaves {o : Nat} {bs : List Byte} (h : s.keyOpen k = true) (hb : o + bs.length ≤ 96) :
    (s.setKeyBytes k o bs).log = s.log ∧ (s.setKeyBytes k o bs).mgt.keys[k].state = .empty ∧
    (∀ j : KeySlotIx, j ≠ k → (s.setKeyBytes k o bs).mgt.keys[j] = s.mgt.keys[j]) ∧
    (s.setKeyBytes k o bs).mgt.keys[k].bytes = patch s.mgt.keys[k].bytes o bs := by
  have hlen : (patch s.mgt.keys[k].bytes o bs).length = 96 := by
    rw [patch_length (by rwa [KeySlot.bytes_length]), KeySlot.bytes_length]
  have hsame : (s.setKeyBytes k o bs).mgt.keys[k] = s.mgt.keys[k].withBytes (patch s.mgt.keys[k].bytes o bs) := by
    rw [State.setKeyBytes_open h]
    exact vmod_same _ _ _
  refine ⟨by rw [State.setKeyBytes_open h]; rfl, ?_, fun j hj => ?_, ?_⟩
  · rw [hsame]
    exact (State.keyOpen_iff.1 h).2
  · rw [State.setKeyBytes_open h]
    exact vmod_other _ _ _ _ (Ne.symm hj)
  · rw [hsame, KeySlot.bytes_withBytes _ hlen]
end

/-! MGT_KEY_CTRL (R415). -/

theorem exec_registerWrite_overHost {s : State} {off : BitVec 20} {r : SetupReg} {v : W64} (ha : off.toNat % 4 = 0)
    (hr : regAt 0 off.toNat = some r) (hw : r.wide = false) :
    exec (.registerWrite 0 off 4 v) s = s.overHost (·.commit32 0 r (v.setWidth 32)) := by
  cases hl : s.hostLanes with
  | false => rw [exec_registerWrite_down hl, State.overHost_down _ hl]
  | true => rw [exec_registerWrite_narrow hl ha hr hw, State.overHost_up _ hl]
theorem bit_setWidth {v : W64} {i : Nat} (h : i < 32) : bit (v.setWidth 32) i = v.getLsbD i := by
  simp [bit, h]
theorem State.setKeyCtrl_revoke {s : State} {k : KeySlotIx} {v : W64} (hk : v.toNat % 8 = k.val) (h : v.getLsbD 30 = true) :
    s.setKeyCtrl (v.setWidth 32) = s.revoke k := by
  have hix : finOf 8 (fld (v.setWidth 32) 2 0) = k := Fin.ext (by rw [fld_setWidth_low v (by decide)]; simp only [finOf, Fin.ofNat]; omega)
  simp only [State.setKeyCtrl, bit_setWidth (show 30 < 32 by decide), h, if_true, hix]
theorem State.setKeyCtrl_enroll {s : State} {k : KeySlotIx} {v : W64} (hk : v.toNat % 8 = k.val) (h0 : v.getLsbD 30 = false)
    (h1 : v.getLsbD 31 = true) : s.setKeyCtrl (v.setWidth 32) = s.enroll k := by
  have hix : finOf 8 (fld (v.setWidth 32) 2 0) = k := Fin.ext (by rw [fld_setWidth_low v (by decide)]; simp only [finOf, Fin.ofNat]; omega)
  simp only [State.setKeyCtrl, bit_setWidth (show 30 < 32 by decide), bit_setWidth (show 31 < 32 by decide), h0, h1, Bool.false_eq_true,
    if_false, if_true, hix]

/-! A revoked slot stays revoked. -/

/-- Of a revoked slot ENROLL and a write of its bytes leave the state, and nothing else than REVOKE writes it but a restart. -/
def State.Revoked (s : State) (k : KeySlotIx) : Prop := s.mgt.keys[k].state = .revoked

section
variable {s t : State} {k : KeySlotIx}

theorem State.Revoked.of_keys (h : s.Revoked k) (he : t.mgt.keys = s.mgt.keys) : t.Revoked k := by
  unfold State.Revoked
  rwa [he]
theorem State.Revoked.of_steady (h : s.Revoked k) (hs : t.Steady s) : t.Revoked k := h.of_keys hs.keys
/-- A slot that opens is another one. -/
theorem State.Revoked.ne_open {j : KeySlotIx} (h : s.Revoked k) (ho : s.keyOpen j = true) : j ≠ k := by
  rintro rfl
  have he := (State.keyOpen_iff.1 ho).2
  unfold State.Revoked at h
  rw [h] at he
  cases he
theorem State.Revoked.modKey {j : KeySlotIx} {f : KeySlot → KeySlot} (h : s.Revoked k) (hj : j ≠ k) :
    (s.modMgt (fun m => { m with keys := vmod m.keys j f })).Revoked k := by
  unfold State.Revoked
  rw [State.modMgt_mgt]
  exact (congrArg KeySlot.state (vmod_other _ _ _ _ hj)).trans h
theorem State.Revoked.setupRejected (h : s.Revoked k) : (s.setupRejected 0).Revoked k := h.of_keys (congrArg Mgt.keys (State.logs_mgt _ _ _ _))
theorem State.Revoked.enroll (h : s.Revoked k) (j : KeySlotIx) : (s.enroll j).Revoked k := by
  unfold State.enroll
  split
  case isTrue ho => exact h.modKey (h.ne_open (Bool.and_eq_true_iff.1 ho).1)
  case isFalse => exact h.setupRejected
theorem State.Revoked.revoke (h : s.Revoked k) (j : KeySlotIx) : (s.revoke j).Revoked k := by
  by_cases hj : j = k
  · subst hj
    exact congrArg KeySlot.state (vmod_same _ _ _)
  · exact h.modKey hj
theorem State.Revoked.setKeyBytes (h : s.Revoked k) (j : KeySlotIx) (o : Nat) (bs : List Byte) : (s.setKeyBytes j o bs).Revoked k := by
  by_cases ho : s.keyOpen j = true
  · rw [State.setKeyBytes_open ho]
    exact h.modKey (h.ne_open ho)
  · rw [State.setKeyBytes_closed ho]
    exact h.setupRejected
theorem State.Revoked.setKeyCtrl (h : s.Revoked k) (v : W32) : (s.setKeyCtrl v).Revoked k := by
  unfold State.setKeyCtrl
  dsimp only
  split
  · exact h.revoke _
  split
  · exact h.enroll _
  · exact h
/-- MGT_RESET without its key, or without its COLD bit. -/
theorem State.Revoked.setReset (hi : s.Inv) (h : s.Revoked k) {v : W32} (hv : ¬ (fld v 31 16 = 0xA5C3 ∧ bit v 2 = true)) :
    (s.setReset v).Revoked k := by
  unfold State.setReset
  split
  · exact h.setupRejected
  case isFalse hkey =>
    rw [if_neg (fun hb => hv ⟨by simpa using hkey, hb⟩)]
    split
    · exact h.of_steady (warmReset_steady s hi.steady)
    split
    · exact h.of_steady (mcReset_steady s hi.steady)
    · exact h
theorem State.Revoked.commit32 (hi : s.Inv) (h : s.Revoked k) {f : FnId} {r : SetupReg} {v : W32}
    (hv : r = .reset → ¬ (fld v 31 16 = 0xA5C3 ∧ bit v 2 = true)) : (s.commit32 f r v).Revoked k := by
  by_cases hr : r ≠ .reset ∧ r ≠ .keyCtrl ∧ ∀ k o, r ≠ .key k o
  · exact h.of_steady (s.commit32_steady f r v hr hi.steady)
  · cases r with
    | reset => exact h.setReset hi (hv rfl)
    | keyCtrl => exact h.setKeyCtrl v
    | key j o => exact h.setKeyBytes j o _
    | _ => exact absurd ⟨nofun, nofun, nofun⟩ hr
end

/-! MGT_RESET is the word at 0x3_0020 of PF0 alone. -/

theorem ite_ne {α : Type} {c : Prop} [Decidable c] {a b x : α} (ha : a ≠ x) (hb : b ≠ x) : (if c then a else b) ≠ x := by
  split <;> assumption
theorem ringReg_ne_reset (n : Nat) : ringReg n ≠ some .reset := by
  unfold ringReg
  dsimp only
  repeat' refine ite_ne ?_ ?_
  all_goals simp
theorem fnReg_ne_reset (f : FnId) (n : Nat) : fnReg f n ≠ some .reset := by
  unfold fnReg
  refine ite_ne (by simp) (ite_ne (by simp) (ite_ne (by simp) (ite_ne (by simp) (ringReg_ne_reset n))))
theorem pfReg_ne_reset (n : Nat) : pfReg n ≠ some .reset := by
  unfold pfReg
  dsimp only
  repeat' split
  all_goals simp
theorem fabricReg_ne_reset (n : Nat) : fabricReg n ≠ some .reset := by
  unfold fabricReg
  dsimp only
  repeat' split
  all_goals simp
theorem svcReg_ne_reset (n : Nat) : svcReg n ≠ some .reset := by
  unfold svcReg
  dsimp only
  repeat' split
  all_goals simp
theorem mgtReg_ne_reset {n : Nat} (h : n ≠ 0x30020) : mgtReg n ≠ some .reset := by
  unfold mgtReg
  rw [if_neg h]
  repeat refine ite_ne (by simp) ?_
  simp
theorem regAt_reset {f : FnId} {n : Nat} (h : regAt f n = some .reset) : f = 0 ∧ n = 0x30020 := by
  unfold regAt at h
  split at h
  · rename_i r hr
    exact absurd (hr.trans h) (fnReg_ne_reset f n)
  · split_ifs at h with hf h1 h2 h3
    · exact absurd h (pfReg_ne_reset n)
    · exact absurd h (fabricReg_ne_reset n)
    · exact ⟨by simpa using hf, not_not.1 fun hn => mgtReg_ne_reset hn h⟩
    · exact absurd h (svcReg_ne_reset n)

theorem fld_setWidth_high (v : W64) : fld (v.setWidth 32) 31 16 = fld v 31 16 := by
  simp only [fld, nbits, BitVec.toNat_setWidth, Nat.shiftRight_eq_div_pow]
  omega

section
variable {s t : State} {k : KeySlotIx}

theorem State.Revoked.regWrite (hi : s.Inv) (h : s.Revoked k) {f : FnId} {off : BitVec 20} {eight : Bool} {v : W64}
    (hv : f = 0 → off = 0x30020 → eight = false → ¬ (fld v 31 16 = 0xA5C3 ∧ bit v 2 = true)) : (s.regWrite f off eight v).Revoked k := by
  unfold State.regWrite
  dsimp only
  split
  · exact h
  split
  · exact h
  rename_i r hr
  split
  · split
    · exact h.of_steady (commitWide_steady s f off r v hi.steady)
    · exact h.of_steady (writeHalf_steady s f off r _ hi.steady)
  split
  case isTrue height =>
    rw [ofNat_fld_low v 31]
    refine h.commit32 hi fun hreset => ?_
    subst hreset
    obtain ⟨hf, hn⟩ := regAt_reset hr
    rw [fld_setWidth_high, bit_setWidth (by decide)]
    exact hv hf (BitVec.eq_of_toNat_eq hn) (by simpa using height)
  split
  · exact h.setKeyBytes _ _ _
  · exact h.of_steady (setMsix_steady _ f _ _ (setMsix_steady s f _ _ hi.steady))
  · exact h

theorem exec_registerWrite_revoked {f : FnId} {off : BitVec 20} {size : Fin 9} {v : W64} (hi : s.Inv) (h : s.Revoked k)
    (hc : coldStarts (.registerWrite f off size v) = false) (ht : exec (.registerWrite f off size v) s = .next t) : t.Revoked k := by
  rw [exec_registerWrite] at ht
  refine State.overHost_keeps (P := fun t => t.Revoked k) h ?_ ht
  split
  case isTrue hok =>
    refine h.regWrite hi fun hf hoff height hb => ?_
    have hsize : size = 4 := (accessOk_iff.1 hok).1.resolve_right (by simpa using height)
    simp [coldStarts, hf, hoff, hsize, hb.1, hb.2] at hc
  case isFalse => exact h.of_keys (congrArg Mgt.keys (State.logs_mgt _ _ _ _))
theorem exec_i3cReset_revoked {v : W32} (hi : s.Inv) (h : s.Revoked k) (hc : coldStarts (.i3cReset v) = false)
    (ht : exec (.i3cReset v) s = .next t) : t.Revoked k := by
  have hr : (s.setReset v).Revoked k := h.setReset hi fun hb => by simp [coldStarts, hb.1, hb.2] at hc
  have ht : execI3cReset v s = .next t := ht
  refine State.i3c_keeps (P := fun t => t.Revoked k) h ?_ ht
  dsimp only
  split <;> exact hr

/-- No command but a cold reset or a standby power event takes a slot out of REVOKED. -/
theorem exec_revoked (hi : s.Inv) (h : s.Revoked k) (c : Instr) (hc : coldStarts c = false) (ht : exec c s = .next t) : t.Revoked k := by
  cases hu : mayUnsteady c with
  | false => exact h.of_steady (exec_steady hi.steady c hu ht)
  | true =>
    cases c with
    | mainConversionStart => exact h.of_keys (exec_mainConversionStart_steady hi ht).keys
    | enroll j => exact State.overHost_keeps (P := fun t => t.Revoked k) (g := (·.enroll j)) h (h.enroll j) ht
    | revoke j => exact State.overHost_keeps (P := fun t => t.Revoked k) (g := (·.revoke j)) h (h.revoke j) ht
    | i3cReset v => exact exec_i3cReset_revoked hi h hc ht
    | registerWrite f off size v => exact exec_registerWrite_revoked hi h hc ht
    | deviceTimeTick => exact h.of_keys (congrArg Mgt.keys (exec_deviceTimeTick_frame ht).2.2)
    | logWrite => exact h.of_keys (congrArg Mgt.keys (exec_logWrite_frame ht).2.2)
    | standbyPorRelease _ | coldReset | standbyFail => cases hc
    | _ => cases hu
end

/-- A byte of a key after an accepted write. -/
theorem leAt_patch_natLE {bs : List Byte} {o n i : Nat} (v : Nat) (h : o + n ≤ bs.length) : leAt (patch bs o (natLE n v)) i 1 =
    if o ≤ i ∧ i < o + n then v / 2 ^ (8 * (i - o)) % 256 else leAt bs i 1 := by
  rw [leAt_one, leAt_one, patch_getElem? (by rwa [natLE_length]), natLE_length]
  split
  case isTrue hi =>
    rw [natLE_getElem?, if_pos (by omega), Option.getD_some, BitVec.toNat_ofNat, Nat.pow_mul]
  case isFalse => rfl

/-- Settles O54: each clause is the lemma of its row above, and a command that is no cold reset is `exec_revoked`. -/
theorem keySlotsAreEnrolledAndRevoked : Obligations.KeySlotsAreEnrolledAndRevoked := by
  refine ⟨fun s k x y hl hx hy => ?enroll, fun s k o n size off v hl hn ha ho hoff hv => ?bytes,
    fun s k => ⟨exec_keyRow_down, exec_revoke⟩, fun c s t k hi hc hr ht => exec_revoked hi hr c hc ht, fun s k v hv hk => ?ctrl⟩
  case enroll =>
    have hiff := s.mgt.keys[k].onCurve_iff hx hy
    rw [exec_enroll hl, ← hiff, ← and_assoc, ← State.keyOpen_iff]
    exact ⟨fun ⟨ho, hc⟩ => congrArg _ (State.enroll_open ho hc), fun hno => congrArg _ (State.enroll_refused hno)⟩
  case bytes =>
    have hend : o + n ≤ 96 := by rcases hn with ⟨rfl, -⟩ | ⟨rfl, -⟩ <;> omega
    rw [exec_registerWrite_key hl hn ha ho hoff hv]
    refine ⟨fun hclosed => congrArg _ (State.setKeyBytes_closed fun hopen => ?_), fun hlock hempty => ⟨_, rfl, ?_⟩⟩
    · obtain ⟨hlock, hempty⟩ := State.keyOpen_iff.1 hopen
      exact hclosed.elim (fun h => by simp [hlock] at h) (absurd hempty)
    · obtain ⟨hlog, hst, hother, hbytes⟩ := State.setKeyBytes_leaves (bs := natLE n v.toNat) (State.keyOpen_iff.2 ⟨hlock, hempty⟩)
        (by rwa [natLE_length])
      refine ⟨hlog, hst, hother, fun i _ => ?_⟩
      have hb := congrArg (leAt · i 1) hbytes
      exact hb.trans (leAt_patch_natLE _ (by rwa [KeySlot.bytes_length]))
  case ctrl =>
    rw [exec_registerWrite_overHost (off := 0x30388) (r := .keyCtrl) (by decide) rfl rfl]
    refine ⟨fun h => ?_, fun h0 h1 => ?_⟩
    · exact congrArg (fun u => Host.Outcome.next (if s.hostLanes then u else s)) (State.setKeyCtrl_revoke hk h)
    · exact congrArg (fun u => Host.Outcome.next (if s.hostLanes then u else s)) (State.setKeyCtrl_enroll hk h0 h1)

end Sys2Proof.Machine
end

section
/-! SUPPORT and the statement of the changes of device time that wait for their tick (R335, R337, R403, R414). -/

namespace Sys2Proof.Machine

/-! A change that waits (R414). -/

theorem Clock.pending_iff (c : Clock) : c.pending = true ↔ c.change.isSome = true ∨ c.incrNext.isSome = true := by
  simp [Clock.pending]
theorem Clock.pending_none {c : Clock} (h1 : c.change = none) (h2 : c.incrNext = none) : c.pending = false := by
  simp [Clock.pending, h1, h2]

section
variable {s : State}

theorem State.timeChange_free (x : TimeChange) (h : s.clock.pending = false) :
    s.timeChange x = s.modClock (fun c => { c with change := some x }) := by
  simp [State.timeChange, h]
theorem State.timeChange_waits (x : TimeChange) (h : s.clock.pending = true) : s.timeChange x = s.logs Code.setupRejected := by
  simp [State.timeChange, h, State.setupRejected]
theorem State.setTime_waits (g : Clock → Clock) (h : s.clock.pending = true) : s.setTime g = s.logs Code.setupRejected := by
  simp [State.setTime, h, State.setupRejected]

theorem exec_stepGo (force : Bool) (h : s.hostLanes = true) : exec (.stepGo force) s = .next (s.timeChange (.step force)) :=
  State.overHost_up (·.timeChange (.step force)) h
theorem exec_setGo (force : Bool) (h : s.hostLanes = true) : exec (.setGo force) s = .next (s.timeChange (.set force)) :=
  State.overHost_up (·.timeChange (.set force)) h
theorem exec_ptpIncr (v : W64) (h : s.hostLanes = true) : exec (.ptpIncr v) s = .next (s.commitWide 0 0x44000 .incr v) :=
  State.overHost_up (·.commitWide 0 0x44000 .incr v) h
theorem exec_timeRow_down {v : W64} {force : Bool} {row : Instr} (h : s.hostLanes = false)
    (hrow : row ∈ [Instr.stepGo force, .setGo force, .ptpIncr v]) : exec row s = .next s := by
  simp only [List.mem_cons, List.not_mem_nil, or_false] at hrow
  rcases hrow with rfl | rfl | rfl
  · exact State.overHost_down (·.timeChange (.step force)) h
  · exact State.overHost_down (·.timeChange (.set force)) h
  · exact State.overHost_down (·.commitWide 0 0x44000 .incr v) h

/-! PTP_CTRL. -/

/-- A write of PTP_CTRL by its two GO bits. -/
theorem State.setPtpCtrl_eq (s : State) (v : W64) : s.setPtpCtrl (v.setWidth 32) =
    if s.clock.pending = true ∨ (v.getLsbD 31 = true ∧ v.getLsbD 30 = true) then s.logs Code.setupRejected
    else if v.getLsbD 31 = true then s.timeChange (.step (v.getLsbD 29))
    else if v.getLsbD 30 = true then s.timeChange (.set (v.getLsbD 29)) else s := by
  simp only [State.setPtpCtrl, bit_setWidth (show 29 < 32 by decide), bit_setWidth (show 30 < 32 by decide),
    bit_setWidth (show 31 < 32 by decide), Bool.or_eq_true, Bool.and_eq_true, State.setupRejected]
  rfl
theorem exec_registerWrite_ptpCtrl (v : W64) (hl : s.hostLanes = true) :
    exec (.registerWrite 0 0x44034 4 v) s = .next (s.setPtpCtrl (v.setWidth 32)) :=
  exec_registerWrite_narrow (off := 0x44034) (r := .ptpCtrl) hl (by decide) rfl rfl
/-- PTP_CTRL while nothing waits: one GO bit alone lets its change wait. -/
theorem ptpCtrl_free (v : W64) (hl : s.hostLanes = true) (hp : s.clock.pending = false) :
    (v.getLsbD 31 = true → v.getLsbD 30 = false →
      exec (.registerWrite 0 0x44034 4 v) s = .next (s.modClock (fun c => { c with change := some (.step (v.getLsbD 29)) }))) ∧
    (v.getLsbD 31 = false → v.getLsbD 30 = true →
      exec (.registerWrite 0 0x44034 4 v) s = .next (s.modClock (fun c => { c with change := some (.set (v.getLsbD 29)) }))) ∧
    (v.getLsbD 31 = true → v.getLsbD 30 = true → exec (.registerWrite 0 0x44034 4 v) s = .next (s.logs Code.setupRejected)) ∧
    (v.getLsbD 31 = false → v.getLsbD 30 = false → exec (.registerWrite 0 0x44034 4 v) s = .next s) := by
  rw [exec_registerWrite_ptpCtrl v hl, s.setPtpCtrl_eq v, State.timeChange_free _ hp, State.timeChange_free _ hp]
  refine ⟨fun h1 h0 => ?_, fun h1 h0 => ?_, fun h1 h0 => ?_, fun h1 h0 => ?_⟩ <;>
    simp only [hp, h1, h0, Bool.false_eq_true, and_true, and_false, or_true, or_false, if_true, if_false]

/-! Writes while a change waits. -/

/-- PTP_SET_NS and PTP_CTRL, of 32 bits. -/
theorem registerWrite_time_narrow {off : BitVec 20} {v : W64} (hl : s.hostLanes = true) (hp : s.clock.pending = true)
    (hoff : off ∈ [(0x44030 : BitVec 20), 0x44034]) : exec (.registerWrite 0 off 4 v) s = .next (s.logs Code.setupRejected) := by
  simp only [List.mem_cons, List.not_mem_nil, or_false] at hoff
  rcases hoff with rfl | rfl
  · rw [exec_registerWrite_narrow (off := 0x44030) (r := .setNs) hl (by decide) rfl rfl]
    exact congrArg _ (State.setTime_waits _ hp)
  · rw [exec_registerWrite_ptpCtrl v hl, s.setPtpCtrl_eq v, if_pos (.inl hp)]

/-- A write of a register of 64 bits commits its low half beside what the register does. -/
theorem State.commitWide_eq (s : State) (f : FnId) (off : BitVec 20) (r : SetupReg) (v : W64) : s.commitWide f off r v =
    (s.modMgt (fun m => { m with
      committed := { fn := f, off := off, value := v.setWidth 32 } :: dropHeld s.mgt.committed f off })).commit64 f r v := by
  rw [← ofNat_fld_low v 31]
  rfl
/-- A high half commits, with whatever low half goes with it. -/
theorem State.writeHalf_commits (s : State) (f : FnId) {off : BitVec 20} (r : SetupReg) (hi : W32) (h8 : off.toNat % 8 = 0) :
    ∃ (hs : List HeldHalf) (w : W64), s.writeHalf f (off + 4) r hi = (s.modMgt (fun m => { m with held := hs })).commitWide f off r w := by
  have hb : BitVec.ofNat 20 ((off + 4).toNat / 8 * 8) = off := half_base (k := 4) h8 (by decide)
  have hne : off + 4 ≠ off := by bv_omega
  simp only [State.writeHalf, hb, beq_iff_eq, hne, if_false]
  exact ⟨_, _, rfl⟩

/-- A register of 64 bits whose write a waiting change refuses: PTP_STEP and PTP_SET_SEC. -/
theorem SetupReg.waits_commit64 {r : SetupReg} (hr : r = .step ∨ r = .setSec) (hp : s.clock.pending = true) (w : W64) :
    s.commit64 0 r w = s.logs Code.setupRejected := by
  rcases hr with rfl | rfl <;> exact State.setTime_waits _ hp
theorem State.commitWide_waits {r : SetupReg} {off : BitVec 20} (hr : r = .step ∨ r = .setSec) (hp : s.clock.pending = true) (w : W64) :
    ∃ hs : List HeldHalf, s.commitWide 0 off r w = (s.modMgt (fun m => { m with committed := hs })).logs Code.setupRejected := by
  rw [State.commitWide_eq]
  exact ⟨{ fn := 0, off := off, value := w.setWidth 32 } :: dropHeld s.mgt.committed 0 off,
    SetupReg.waits_commit64 (s := s.modMgt _) hr hp w⟩
theorem registerWrite_time_wide {off : BitVec 20} {v : W64} (hl : s.hostLanes = true) (hp : s.clock.pending = true)
    (hoff : off ∈ [(0x44020 : BitVec 20), 0x44028]) :
    (∃ hs : List HeldHalf, exec (.registerWrite 0 off 8 v) s =
      .next ((s.modMgt (fun m => { m with committed := hs })).logs Code.setupRejected)) ∧
    ∃ hs ks : List HeldHalf, exec (.registerWrite 0 (off + 4) 4 v) s =
      .next ((s.modMgt (fun m => { m with held := hs, committed := ks })).logs Code.setupRejected) := by
  obtain ⟨r, hr, hlow, hhigh, h8, h4⟩ : ∃ r : SetupReg, (r = .step ∨ r = .setSec) ∧ regAt 0 off.toNat = some r ∧
      regAt 0 (off + 4).toNat = some r ∧ off.toNat % 8 = 0 ∧ (off + 4).toNat % 4 = 0 := by
    simp only [List.mem_cons, List.not_mem_nil, or_false] at hoff
    rcases hoff with rfl | rfl
    · exact ⟨.step, .inl rfl, rfl, rfl, by decide, by decide⟩
    · exact ⟨.setSec, .inr rfl, rfl, rfl, by decide, by decide⟩
  have hw : r.wide = true := by rcases hr with rfl | rfl <;> rfl
  constructor
  · obtain ⟨hs, he⟩ := State.commitWide_waits (off := off) hr hp v
    refine ⟨hs, ?_⟩
    rw [exec_registerWrite_ok hl (.inr rfl) h8, ← he]
    simp [State.regWrite, hlow, hw]
  · obtain ⟨hs, w, hh⟩ := s.writeHalf_commits 0 r (v.setWidth 32) h8
    obtain ⟨ks, he⟩ := State.commitWide_waits (s := s.modMgt (fun m => { m with held := hs })) (off := off) hr hp w
    refine ⟨hs, ks, ?_⟩
    rw [exec_registerWrite_wide hl h4 hhigh hw, hh, he]
    rfl

/-! PTP_INCR (R335). -/

theorem State.setIncr_in {v : W64} {x : BitVec 40} (hx : x.toNat = v.toNat % 2 ^ 40) (h1 : 0x0380000000 ≤ x.toNat)
    (h2 : x.toNat ≤ 0x0480000000) : s.setIncr v = s.modClock (fun c => { c with incrNext := some x }) := by
  have he : BitVec.ofNat 40 (fld v 39 0) = x := BitVec.eq_of_toNat_eq (by rw [fld_low, BitVec.toNat_ofNat, hx, Nat.mod_mod])
  simp [State.setIncr, he, Nat.not_lt.2 h1, Nat.not_lt.2 h2]
theorem State.setIncr_out {v : W64} {x : BitVec 40} (hx : x.toNat = v.toNat % 2 ^ 40)
    (h : x.toNat < 0x0380000000 ∨ 0x0480000000 < x.toNat) : s.setIncr v = s.logs Code.setupRejected := by
  have he : BitVec.ofNat 40 (fld v 39 0) = x := BitVec.eq_of_toNat_eq (by rw [fld_low, BitVec.toNat_ofNat, hx, Nat.mod_mod])
  simp [State.setIncr, he, h, State.setupRejected]
end

/-- Settles O55: each clause is the lemma of its row or register above. -/
theorem timeChangesWaitForTheirTick : Obligations.TimeChangesWaitForTheirTick := by
  refine ⟨fun s v hl _ hc hi => ptpCtrl_free v hl (Clock.pending_none hc hi), fun s force hl hc hi => ?go,
    fun s v force hl hw => ?waits, fun s v x hl hx => ?incr, fun s v force hl row => exec_timeRow_down hl⟩
  case go =>
    have hp := Clock.pending_none hc hi
    rw [exec_stepGo force hl, exec_setGo force hl]
    exact ⟨congrArg _ (State.timeChange_free _ hp), congrArg _ (State.timeChange_free _ hp)⟩
  case waits =>
    have hp := s.clock.pending_iff.2 hw
    rw [exec_stepGo force hl, exec_setGo force hl]
    refine ⟨congrArg _ (State.timeChange_waits _ hp), congrArg _ (State.timeChange_waits _ hp),
      fun off hoff _ => registerWrite_time_narrow hl hp hoff, fun off hoff => ?_⟩
    obtain ⟨h8, h4⟩ := registerWrite_time_wide (v := v) hl hp hoff
    exact ⟨h8, fun _ => h4⟩
  case incr =>
    rw [exec_ptpIncr v hl, State.commitWide_eq]
    exact ⟨_, heldAt_cons _ _ _ _, fun h1 h2 => congrArg _ (State.setIncr_in hx h1 h2), fun h => congrArg _ (State.setIncr_out hx h)⟩

end Sys2Proof.Machine
end

section
/-! SUPPORT and the statement of the boot of the management firmware (R389 to R391, Tables 17-1, 17-7). -/

namespace Sys2Proof.Machine

section
variable {s : State} {ws : List (Nat × Byte)} {b : Boot}

/-- An entry handed to the log does not depend on the boot flash or the firmware. -/
theorem State.hand_log_modBoot (s : State) (f : Boot → Boot) (c : W16) (v : Nat) (x : LogBody) (k : Nat) :
    ((s.modBoot f).hand c v x k).log = (s.hand c v x k).log := rfl

/-- The boot ROM's choice, with the flash as the command gives it. -/
theorem exec_boot (hp : s.power.porReleased = true) (hm : s.boot.mode = .rom) (hc : s.landsCut = false)
    (hb : b = { s.boot with flash := Mem.writeAll s.boot.flash ws }) : exec (.boot ws) s = .next (
    match b.slot b.activeB with
    | .ok bs => (s.modBoot (fun _ => b)).bootSlot b.activeB bs
    | .error c =>
      match b.slot (!b.activeB) with
      | .ok bs => ((s.modBoot (fun _ => b)).slotBad b.activeB c).bootSlot (!b.activeB) bs
      | .error d => ((((s.modBoot (fun _ => b)).slotBad b.activeB c).slotBad (!b.activeB) d).modBoot (fun x => { x with
          mode := .recovery, slotB := b.activeB })).packageFault Code.bootFailed) := by
  subst hb
  show execBoot ws s = _
  have hgo : (!s.power.porReleased || s.boot.mode != .rom || s.landsCut) = false := by rw [hp, hm, hc]; rfl
  rw [execBoot, hgo]
  rfl
theorem State.bootSlot_boot (s : State) (slotB : Bool) (im : List Byte) : (s.bootSlot slotB im).boot = { s.boot with
    mode := .running, stage := .idle, staged := [], slotB := slotB
    fwVersion := BitVec.ofNat 32 (leAt im 4 4), svn := BitVec.ofNat 16 (leAt im 8 2), fwDigest := shaField (im.take (im.length - 256)) } :=
  State.hand_boot _ _ _ _ _
theorem State.bootSlot_log (s : State) (slotB : Bool) (im : List Byte) : (s.bootSlot slotB im).log =
    (s.hand Code.bootDone 0 (.count (BitVec.ofNat 64 (BitVec.ofNat 32 (leAt im 4 4)).toNat))).log := rfl
/-- A slot that boots changes neither partitions nor links nor jobs. -/
theorem State.bootSlot_frame (s : State) (slotB : Bool) (im : List Byte) :
    (s.bootSlot slotB im).parts = s.parts ∧ (s.bootSlot slotB im).links = s.links ∧ (s.bootSlot slotB im).jobs = s.jobs :=
  ⟨State.hand_parts _ _ _ _ _, State.hand_links _ _ _ _ _, State.hand_jobs _ _ _ _ _⟩
theorem State.slotBad_frame (s : State) (slotB : Bool) (c : BootCheck) : (s.slotBad slotB c).boot = s.boot ∧
    (s.slotBad slotB c).parts = s.parts ∧ (s.slotBad slotB c).links = s.links ∧ (s.slotBad slotB c).jobs = s.jobs :=
  ⟨State.hand_boot _ _ _ _ _, State.hand_parts _ _ _ _ _, State.hand_links _ _ _ _ _, State.hand_jobs _ _ _ _ _⟩
end

/-- Settles O17: the three outcomes of `exec_boot`, and what a slot that boots leaves. -/
theorem bootRunsTheFirstGoodSlot : Obligations.BootRunsTheFirstGoodSlot := by
  intro s ws b hp hm hc hb
  have he := exec_boot hp hm hc hb
  refine ⟨fun im h1 => ?first, fun im c h1 h2 => ?second, fun c d h1 h2 => ?neither⟩
  case first =>
    simp only [h1] at he
    obtain ⟨hparts, hlinks, hjobs⟩ := (s.modBoot fun _ => b).bootSlot_frame b.activeB im
    exact ⟨_, he, State.bootSlot_boot _ _ _, State.bootSlot_log _ _ _, hparts, hlinks, hjobs⟩
  case second =>
    simp only [h1, h2] at he
    obtain ⟨hbad, hbparts, hblinks, hbjobs⟩ := (s.modBoot fun _ => b).slotBad_frame b.activeB c
    obtain ⟨hparts, hlinks, hjobs⟩ := ((s.modBoot fun _ => b).slotBad b.activeB c).bootSlot_frame (!b.activeB) im
    refine ⟨_, he, ?_, State.bootSlot_log _ _ _, hparts.trans hbparts, hlinks.trans hblinks, hjobs.trans hbjobs⟩
    rw [State.bootSlot_boot, hbad]
    rfl
  case neither =>
    simp only [h1, h2] at he
    obtain ⟨hbad, hbparts, hblinks, hbjobs⟩ := (s.modBoot fun _ => b).slotBad_frame b.activeB c
    obtain ⟨hbad2, hbparts2, hblinks2, hbjobs2⟩ := ((s.modBoot fun _ => b).slotBad b.activeB c).slotBad_frame (!b.activeB) d
    refine ⟨_, he, ?_, rfl, hbparts2.trans hbparts, hblinks2.trans hblinks, hbjobs2.trans hbjobs⟩
    rw [State.modBoot_boot, hbad2, hbad]
    rfl

end Sys2Proof.Machine
end

section
/-! SUPPORT and the statement of the live update of the management firmware (R297, R310, R315, R365, R366, R391). -/

namespace Sys2Proof.Machine

section
variable {s : State}

/-! FW_UPDATE starts the reading (R365). -/

/-- The update is reading its image. -/
def State.reading (s : State) : State := s.modBoot (fun b => { b with stage := .reading })

theorem State.fwUpdate_refused (h : s.boot.stage ≠ .idle) : s.fwUpdate = s.logs Code.setupRejected 0 := by
  rw [State.fwUpdate, if_pos (by simp [h])]
  rfl
/-- With nothing to complete with RETRY the reading begins at once. -/
theorem State.fwUpdate_idle (hs : s.boot.stage = .idle) (hm : s.boot.mode = .running ∨ s.boot.mode = .recovery) (hl : s.mgt.loads = [])
    (hq : s.hiu.mcQueue = []) (hh : ∀ (f : FnId) (n : RingIx), ∀ d ∈ (s.fn f).sqs[n].held, Op.ofMc d.opcode = false) :
    s.fwUpdate = s.reading.fwProceed := by
  have hgo : ¬ (s.boot.stage != .idle || !(s.boot.mode == .running || s.boot.mode == .recovery)) = true := by
    rcases hm with hm | hm <;> simp [hs, hm]
  have hempty : (s.modMgt (fun m => { m with loads := [] })).modHiu (fun h => { h with mcQueue := [] }) = s := by
    have hm : { s.mgt with loads := [] } = s.mgt := by rw [← hl]
    have hu : { s.hiu with mcQueue := [] } = s.hiu := by rw [← hq]
    simp only [State.modMgt, State.modHiu, hm, hu]
  have hheld : allFns.foldl (fun s f => allRings.foldl (fun s n => s.retryHeld f n) s) s.reading = s.reading :=
    List.foldl_fixed' (fun f => List.foldl_fixed' (fun n => State.retryHeld_none (s := s.reading) (hh f n)) _) _
  rw [State.fwUpdate, if_neg hgo]
  simp only [hempty, hl, hq, List.append_nil, List.foldl_nil]
  exact congrArg State.fwProceed hheld

/-! The reading goes on (R81, R310). -/

theorem State.endWait_none {x : HeaderUser} (h : ∀ y ∈ s.hiu.headerWaits, y.user ≠ x) : s.endWait x = s := by
  have hall : s.hiu.headerWaits.filter (fun y => y.user != x) = s.hiu.headerWaits := List.filter_eq_self.2 fun y hy => by simp [h y hy]
  simp only [State.endWait, State.modHiu, hall]
theorem State.headerWait_new {x : HeaderUser} {f : FnId} {o : W64} (h : ∀ y ∈ s.hiu.headerWaits, y.user ≠ x) :
    (s.headerWait x f o).root = (s.fn f).winRoot ∧ (s.headerWait x f o).offset = o := by
  have hnone : s.hiu.headerWaits.find? (fun y => y.user == x) = none := List.find?_eq_none.2 fun y hy => by simp [h y hy]
  rw [State.headerWait, hnone]
  exact ⟨rfl, rfl⟩
theorem State.fwProceed_badOffset (hl : s.loading = false) (ho : winOffsetOk s.boot.fwOffset = false) :
    s.reading.fwProceed = s.reading.fwReject Status.badDescriptor := by
  have hr : ¬ (s.reading.boot.stage != .reading || s.reading.loading) = true := by
    have hl' : s.reading.loading = false := hl
    rw [hl']
    exact Bool.false_ne_true
  have ho' : (!winOffsetOk s.reading.boot.fwOffset) = true := by
    rw [Bool.not_eq_true', ← ho]
    rfl
  rw [State.fwProceed, if_neg hr, if_pos ho']
/-- At step 3 the header is claimed, and the image read, or the update waits for it. -/
theorem State.fwProceed_header {x : HeaderWait} (hl : s.loading = false) (ho : winOffsetOk s.boot.fwOffset = true)
    (hw : ∀ y ∈ s.hiu.headerWaits, y.user ≠ .firmware) (hx : x = s.reading.headerWait .firmware 0 s.boot.fwOffset) :
    s.reading.fwProceed = if s.reading.mayTake x then s.reading.fwRead (s.fn 0).winRoot s.boot.fwOffset else s.reading.keepWait x := by
  obtain ⟨hroot, hoff⟩ := State.headerWait_new (s := s.reading) (f := 0) (o := s.boot.fwOffset) hw
  have hend : s.reading.endWait .firmware = s.reading := State.endWait_none hw
  have hr : ¬ (s.reading.boot.stage != .reading || s.reading.loading) = true := by
    have hl' : s.reading.loading = false := hl
    rw [hl']
    exact Bool.false_ne_true
  have ho' : ¬ (!winOffsetOk s.reading.boot.fwOffset) = true := by
    have he : s.reading.boot.fwOffset = s.boot.fwOffset := rfl
    simp [he, ho]
  rw [State.fwProceed, if_neg hr, if_neg ho']
  have he : s.reading.headerWait .firmware 0 s.reading.boot.fwOffset = x := hx.symm
  simp only [he, hend]
  rw [hx, hroot, hoff]
  rfl

/-! The header and the image (R306, R309, R315). -/

theorem State.fwRead_walkFail {root off : W64} {w : WalkFail} (h : s.walk root off.toNat 64 true = .fail w) :
    s.fwRead root off = (s.winFault 0 w.code).fwReject w.status := by
  simp only [State.fwRead, h]
  rfl
section
variable {root off : W64} {a k : Nat} {bs : List Byte} (hw : s.walk root off.toNat 64 true = .page a k) (hr : s.hostRead a 16 = some bs)
  (hb : headerBad off.toNat (leAt bs 0 8) (leAt bs 8 8) = false)
include hw hr hb
theorem State.fwRead_owner (ho : leAt bs 0 8 % 4 ≠ Owner.device) : s.fwRead root off = (s.winMismatch 0).fwReject Status.ownerMismatch := by
  simp only [State.fwRead, hw, hr, hb, Bool.false_eq_true, if_false, bne_iff_ne, ne_eq, ho, not_false_eq_true, if_true]
theorem State.fwRead_image {h : Hdr} {v : State} {im : List Byte} (ho : leAt bs 0 8 % 4 = Owner.device)
    (hh : h = { seq := nbits (leAt bs 0 8) 63 32, len := nbits (leAt bs 8 8) 39 0 }) (hf : s.fwFetch root off.toNat h.len = (v, .image im)) :
    s.fwRead root off = (v.writeHeader a h Owner.host Status.success false im.length 0 0).modBoot
      (fun b => { b with stage := .switching, staged := im }) := by
  subst hh
  simp only [State.fwRead, hw, hr, hb, Bool.false_eq_true, if_false, bne_iff_ne, ne_eq, ho, not_true_eq_false, hf]
theorem State.fwRead_fails {h : Hdr} {v : State} {st : Byte} {n : Nat} {early : Bool} {c : W16} (ho : leAt bs 0 8 % 4 = Owner.device)
    (hh : h = { seq := nbits (leAt bs 0 8) 63 32, len := nbits (leAt bs 8 8) 39 0 })
    (hf : s.fwFetch root off.toNat h.len = (v, .fail st n early c)) :
    s.fwRead root off = (v.writeHeader a h Owner.host st early n c 0).fwReject st := by
  subst hh
  simp only [State.fwRead, hw, hr, hb, Bool.false_eq_true, if_false, bne_iff_ne, ne_eq, ho, not_true_eq_false, hf]
end

/-- An image is staged only behind a flash header that is well formed and has room for it in the other slot (R391). -/
theorem State.fwFetch_takes {v : State} {root : W64} {off n : Nat} {im : List Byte} (h : s.fwFetch root off n = (v, .image im)) :
    s.boot.takes im = true := by
  unfold State.fwFetch at h
  extract_lets get at h
  have hsame : ∀ (k : Nat) (u : State) (bs : List Byte), get k = (u, .image bs) → u = s := by
    intro k u bs hk
    unfold get at hk
    split at hk
    · cases hk
    · split at hk <;> cases hk
      rfl
  split at h
  · cases h
  · next head _ =>
    split at h
    · cases h
    · split at h
      · cases h
      · next u bs hu =>
        obtain rfl := hsame _ _ _ hu
        split at h
        · next hok =>
          cases h
          exact (Bool.and_eq_true_iff.1 hok).2
        · cases h

/-! FW_SWITCH_COMPLETE (R366, R391). -/

theorem exec_fwSwitchComplete_other (ok : Bool) (h : s.boot.stage ≠ .switching) : exec (.fwSwitchComplete ok) s = .next s := by
  show execFwSwitchComplete ok s = _
  rw [execFwSwitchComplete, if_pos (by simpa using h)]
/-- With no POISON write waiting the switch ends with its flash write alone. -/
theorem State.fwSwitched_eq (ok : Bool) (hp : s.mgt.poisons = []) : s.fwSwitched ok =
    if (ok && s.boot.takes s.boot.staged) = true then ((s.modBoot Boot.writeSlot).fwRuns s.boot.staged).logs Code.fwUpdated
    else (s.modBoot (fun b => { b with stage := .idle, staged := [] })).logs Code.fwRejected := by
  have hnone : ∀ t : State, t.mgt = s.mgt →
      t.mgt.poisons.foldl (fun s x => s.poisonNow x) (t.modMgt (fun m => { m with poisons := [] })) = t := by
    intro t ht
    have he : { t.mgt with poisons := [] } = t.mgt := by rw [ht, ← hp]
    rw [ht, hp, List.foldl_nil, State.modMgt, he]
  refine hnone _ ?_
  split <;> exact State.logs_mgt _ _ _ _
/-- With no I3C command held either, the row is the end of the switch. -/
theorem exec_fwSwitchComplete (ok : Bool) (h : s.boot.stage = .switching) (hi : s.side.i3cHeld = []) (hp : s.mgt.poisons = []) :
    exec (.fwSwitchComplete ok) s = .next (s.fwSwitched (ok && !s.landsCut)) := by
  have hside : (s.fwSwitched (ok && !s.landsCut)).side = s.side := by
    rw [State.fwSwitched_eq _ hp]
    split <;> exact State.logs_side _ _ _ _
  have hheld : { (s.fwSwitched (ok && !s.landsCut)).side with i3cHeld := [] } = (s.fwSwitched (ok && !s.landsCut)).side := by
    rw [hside, ← hi]
  have hempty : (s.fwSwitched (ok && !s.landsCut)).side.i3cHeld = [] := by rw [hside, hi]
  show execFwSwitchComplete ok s = _
  rw [execFwSwitchComplete, if_neg (by simp [h])]
  simp only [hempty, hheld, List.foldl_nil]
theorem Boot.takes_iff (b : Boot) (bs : List Byte) :
    b.takes bs = true ↔ b.headOk = true ∧ b.slotAt (!b.slotB) + bs.length ≤ Config.flashSize := by
  simp [Boot.takes]
/-- ACTIVE names the slot that was written. -/
theorem Boot.writeSlot_active (b : Boot) (h : Mem.wf b.flash = true) : Mem.get b.writeSlot.flash 4 = if b.slotB then 0 else 1 := by
  rw [Boot.writeSlot, Mem.get_set _ _ _ _ (Mem.wf_write _ _ _ h), if_pos rfl]
  cases b.slotB <;> rfl

theorem fwSwitchComplete_runs (h : s.boot.stage = .switching) (hi : s.side.i3cHeld = []) (hp : s.mgt.poisons = [])
    (ht : s.boot.takes s.boot.staged = true) (hw : Mem.wf s.boot.flash = true) (hc : s.landsCut = false) :
    ∃ t, exec (.fwSwitchComplete true) s = .next t ∧ t.boot.mode = .running ∧ t.boot.stage = .idle ∧ t.boot.staged = [] ∧
      t.boot.slotB = !s.boot.slotB ∧ t.boot.fwVersion = BitVec.ofNat 32 (leAt s.boot.staged 4 4) ∧
      Mem.get t.boot.flash 4 = (if s.boot.slotB then 0 else 1) ∧ t.parts = s.parts ∧ t.jobs = s.jobs ∧ t.hiu = s.hiu := by
  refine ⟨_, exec_fwSwitchComplete true h hi hp, ?_⟩
  rw [hc, State.fwSwitched_eq _ hp, ht]
  simp only [Bool.not_false, Bool.and_self, if_true, State.logs_boot, State.logs_parts, State.logs_jobs, State.logs_hiu]
  exact ⟨rfl, rfl, rfl, rfl, rfl, Boot.writeSlot_active _ hw, rfl, rfl, rfl⟩
theorem fwSwitchComplete_keeps {ok : Bool} (h : s.boot.stage = .switching) (hi : s.side.i3cHeld = []) (hp : s.mgt.poisons = [])
    (ht : (ok && !s.landsCut && s.boot.takes s.boot.staged) = false) :
    ∃ t, exec (.fwSwitchComplete ok) s = .next t ∧ t.boot = { s.boot with stage := .idle, staged := [] } ∧
      t.log = (s.logs Code.fwRejected).log ∧ t.parts = s.parts ∧ t.jobs = s.jobs ∧ t.hiu = s.hiu := by
  refine ⟨_, exec_fwSwitchComplete ok h hi hp, ?_⟩
  rw [State.fwSwitched_eq _ hp, ht]
  exact ⟨State.logs_boot _ _ _ _, rfl, State.logs_parts _ _ _ _, State.logs_jobs _ _ _ _, State.logs_hiu _ _ _ _⟩
end

/-- Settles O18: FW_UPDATE goes by its header (`State.fwProceed_header`), FW_SWITCH_COMPLETE by its flash write (`State.fwSwitched_eq`). -/
theorem liveUpdateStagesAndSwitches : Obligations.LiveUpdateStagesAndSwitches := by
  intro s u hu
  obtain rfl : u = s.reading := hu
  refine ⟨fun hl hst hm hloads hq hh hwaits => ?update, fun hl hst => ?refused, fun hl => State.overHost_down _ hl,
    fun hst hi hp => ⟨fun hok hfit hw hc => ?runs, fun ok hbad => ?keeps⟩, fun ok h => exec_fwSwitchComplete_other ok h,
    fun v root off n im h => (Boot.takes_iff _ _).1 (State.fwFetch_takes h)⟩
  case update =>
    have he : exec .fwUpdate s = .next s.reading.fwProceed :=
      (State.overHost_up State.fwUpdate hl).trans (congrArg _ (State.fwUpdate_idle hst hm hloads hq hh))
    refine ⟨fun hload => ?_, fun hload hoff => ?_, fun x hload hoff hx => ?_⟩
    · exact he.trans (congrArg _ (State.fwProceed_loading hload))
    · exact he.trans (congrArg _ (State.fwProceed_badOffset hload hoff))
    · rw [State.fwProceed_header hload hoff hwaits hx] at he
      refine ⟨fun hno => ?_, fun w hyes hfail => ?_, fun a k bs hyes hpage hread hform => ?_⟩
      · rw [he, if_neg (Bool.eq_false_iff.1 hno)]
      · rw [he, if_pos hyes, State.fwRead_walkFail hfail]
      · rw [if_pos hyes] at he
        refine ⟨fun ho => ?_, fun h ho hh => ⟨fun v im hf => ?_, fun v st n early c hf => ?_⟩⟩
        · exact he.trans (congrArg _ (State.fwRead_owner hpage hread hform ho))
        · exact he.trans (congrArg _ (State.fwRead_image hpage hread hform ho hh hf))
        · exact he.trans (congrArg _ (State.fwRead_fails hpage hread hform ho hh hf))
  case refused => exact (State.overHost_up State.fwUpdate hl).trans (congrArg _ (State.fwUpdate_refused hst))
  case runs => exact fwSwitchComplete_runs hst hi hp ((Boot.takes_iff _ _).2 ⟨hok, hfit⟩) hw hc
  case keeps =>
    refine fwSwitchComplete_keeps hst hi hp (Bool.eq_false_iff.2 fun hall => ?_)
    obtain ⟨hgo, ht⟩ := Bool.and_eq_true_iff.1 hall
    obtain ⟨hok, hc⟩ := Bool.and_eq_true_iff.1 hgo
    obtain ⟨hhead, hfit⟩ := (Boot.takes_iff _ _).1 ht
    simp only [Bool.not_eq_true'] at hc
    rcases hbad with h | h | h | h
    · simp [hok] at h
    · simp [hc] at h
    · simp [hhead] at h
    · omega

end Sys2Proof.Machine
end

section
/-! SUPPORT and the statement of units that enter and leave HOLD (R353 to R356, Table 15-4, Table 15-5). -/

namespace Sys2Proof.Machine

/-! Entering HOLD. -/

/-- The state with a unit in HOLD. -/
def State.holding (s : State) (u : UnitId) : State := { s with units := { s.units with hold := u :: s.units.hold } }

/-- A recovery reserve without an error is used without a trace. -/
theorem State.useRecovery_clean {s : State} (h : ∀ x ∈ s.sram.reserve, x.part ≠ .recovery) (d : DieId) : s.useRecovery d = s := by
  have hnone : s.sram.reserve.filter (fun x => x.part == .recovery && x.die == d) = [] :=
    List.filter_eq_nil_iff.2 fun x hx => by simp [h x hx]
  rw [State.useRecovery, hnone]
  rfl
theorem State.enterHold_clean {s : State} (h : ∀ x ∈ s.sram.reserve, x.part ≠ .recovery) (u : UnitId) : s.enterHold u = s.holding u := by
  rw [State.enterHold, State.useRecovery_clean h]
  rfl

theorem State.unitResetGo_held {s : State} {u : UnitId} (hm : s.power.mainPg = true) (h : s.inHold u = true) :
    s.unitResetGo u = s.logs Code.setupRejected 0 := by
  rw [State.unitResetGo, if_neg (by simp [hm]), if_pos h]
  rfl
theorem State.unitResetGo_out {s : State} {u : UnitId} (hm : s.power.mainPg = true) (h : s.inHold u = false) :
    s.unitResetGo u = s.resetUnit u := by
  rw [State.unitResetGo, if_neg (by simp [hm]), if_neg (by simp [h])]

theorem State.jobReset_first {s : State} {j : Job} (h : j.phase ≠ .faulted) (c : W16) :
    s.jobReset j c = (s.logs c j.fn.val).jobFaultQuiet j.id c := by
  rw [State.jobReset, if_neg (by simpa using h)]

/-! A tile. -/

section
variable {s : State} {t : TileId} (hc : ∀ x ∈ s.sram.reserve, x.part ≠ .recovery)
include hc

theorem State.resetTile_idle (h : (s.part (partOfTile t)).st ≠ .run) : s.resetTile t = s.holding (.tile t) := by
  have hst : ((s.holding (.tile t)).part (partOfTile t)).st ≠ .run := h
  rw [State.resetTile, State.enterHold_clean hc]
  split
  · exact if_neg (by simpa using hst)
  · rfl
theorem State.resetTile_running {j : Job} (h : (s.part (partOfTile t)).st = .run) (hj : s.jobOf (partOfTile t) = some j)
    (hf : j.phase ≠ .faulted) :
    s.resetTile t = ((s.holding (.tile t)).logs Code.tileReset j.fn.val).jobFaultQuiet j.id Code.tileReset := by
  have hst : ((s.holding (.tile t)).part (partOfTile t)).st = .run := h
  have hjob : (s.holding (.tile t)).jobOf (partOfTile t) = some j := hj
  rw [State.resetTile, State.enterHold_clean hc]
  simp only [hjob, hst, beq_self_eq_true, if_true, State.jobReset_first hf]
end

/-! A fault of a job does nothing to a partition but to put it into FAULTED. -/

/-- The partitions are as they were, but for those that have entered FAULTED. -/
structure State.PartsFault (t s : State) : Prop where
  part : ∀ q : PartId, t.part q = s.part q ∨ ∃ c, t.part q = (s.part q).toFaulted c

theorem Partition.toFaulted_toFaulted (q : Partition) (c d : W16) : (q.toFaulted c).toFaulted d = q.toFaulted c := rfl
theorem State.PartsFault.refl (s : State) : s.PartsFault s := ⟨fun _ => .inl rfl⟩
theorem State.PartsFault.trans {t u s : State} (h : t.PartsFault u) (h' : u.PartsFault s) : t.PartsFault s := by
  refine ⟨fun q => ?_⟩
  rcases h.part q with hq | ⟨c, hq⟩ <;> rw [hq]
  · exact h'.part q
  · rcases h'.part q with hq' | ⟨d, hq'⟩ <;> rw [hq']
    · exact .inr ⟨c, rfl⟩
    · exact .inr ⟨d, Partition.toFaulted_toFaulted ..⟩
theorem State.PartsFault.of_inside {t s : State} (h : t.inside = s.inside) : t.PartsFault s := ⟨fun q => .inl (State.part_of_inside h q)⟩
theorem State.PartsFault.foldl {α : Type} {f : State → α → State} (h : ∀ t x, (f t x).PartsFault t) (l : List α) (s : State) :
    (l.foldl f s).PartsFault s := by
  induction l generalizing s with
  | nil => exact .refl s
  | cons x l ih => exact (ih _).trans (h s x)
/-- A partition that is in RUN then was so before, and is as it was. -/
theorem State.PartsFault.run {t s : State} (h : t.PartsFault s) {q : PartId} (hq : (t.part q).st = .run) : t.part q = s.part q := by
  rcases h.part q with hp | ⟨c, hp⟩
  · exact hp
  · rw [hp] at hq
    cases hq

theorem State.modPart_partsFault (s : State) (p : PartId) (c : W16) : (s.modPart p (·.toFaulted c)).PartsFault s := by
  refine ⟨fun q => ?_⟩
  by_cases hpq : p = q
  · subst hpq
    exact .inr ⟨c, State.modPart_part ..⟩
  · exact .inl (State.modPart_part_other _ _ _ _ hpq)
theorem State.parkCut_partsFault (s : State) (id : Nat) (c : W16) : (s.parkCut id c).PartsFault s := by
  unfold State.parkCut
  refine (State.PartsFault.foldl (fun t u => ?_) _ _).trans (.of_inside (State.modMgt_inside ..))
  exact (State.PartsFault.of_inside (State.complete_inside ..)).trans (.foldl (fun t p => t.modPart_partsFault p c) u.left t)
theorem State.cleared_partsFault (s : State) (j : Job) (c : W16) : (s.cleared j c).PartsFault s := by
  refine ⟨fun q => ?_⟩
  rw [State.cleared_part]
  split
  · exact .inr ⟨c, rfl⟩
  · exact .inl rfl
/-- The six steps of R352, after the clearing of the job. -/
theorem State.jobFaultWith_partsFault_cleared (s : State) (j : Job) (c cell : W16) (but : Option LinkId) :
    (s.jobFaultWith j c cell but).PartsFault (s.cleared j c) := by
  unfold State.jobFaultWith
  extract_lets live spills spilled faulted jobEnded unowned cleared aborted closed parked answered told streams
  have haborted : aborted.inside = (s.cleared j c).inside := by
    unfold aborted
    split
    · exact State.sendAborts_inside ..
    · rfl
  have hclosed : closed.inside = (s.cleared j c).inside := by simpa [closed] using haborted
  have htold : told.inside = parked.inside := by
    unfold told answered
    cases j.startDesc <;> cases j.startDone <;> simp
  obtain ⟨f, hf⟩ := streams.leaveDomain_eq
  rw [hf]
  have hmod : (streams.modPace f).PartsFault told := ⟨fun _ => .inl rfl⟩
  exact hmod.trans ((State.PartsFault.of_inside htold).trans ((State.parkCut_partsFault ..).trans (.of_inside hclosed)))
theorem State.jobFaultWith_partsFault (s : State) (j : Job) (c cell : W16) (but : Option LinkId) :
    (s.jobFaultWith j c cell but).PartsFault s :=
  (s.jobFaultWith_partsFault_cleared j c cell but).trans (s.cleared_partsFault j c)
theorem State.jobFaultQuiet_partsFault (s : State) (id : Nat) (c : W16) : (s.jobFaultQuiet id c).PartsFault s := by
  unfold State.jobFaultQuiet
  split
  · exact .refl s
  · split
    · exact .refl s
    · exact s.jobFaultWith_partsFault ..

/-! A Sequencer core. -/

/-- The job of a partition in RUN with streams faults when its Sequencer core resets. -/
def State.sequencerCut (s : State) (p : PartId) : State :=
  match s.jobOf p with
  | some j => if (s.part p).st == .run && !(s.part p).streams.isEmpty then s.jobReset j Code.sequencerReset else s
  | none => s

theorem State.sequencerCut_idle {s : State} {p : PartId} (h : (s.part p).st = .run → (s.part p).streams = []) : s.sequencerCut p = s := by
  have hno : ¬ ((s.part p).st == .run && !(s.part p).streams.isEmpty) = true := fun hc => by
    obtain ⟨hr, hk⟩ := Bool.and_eq_true_iff.1 hc
    simp [h (beq_iff_eq.1 hr)] at hk
  unfold State.sequencerCut
  split
  · exact if_neg hno
  · rfl
theorem State.sequencerCut_running {s : State} {p : PartId} {j : Job} (hr : (s.part p).st = .run) (hk : (s.part p).streams ≠ [])
    (hj : s.jobOf p = some j) (hf : j.phase ≠ .faulted) :
    s.sequencerCut p = (s.logs Code.sequencerReset j.fn.val).jobFaultQuiet j.id Code.sequencerReset := by
  have hyes : ((s.part p).st == .run && !(s.part p).streams.isEmpty) = true := by simp [hr, hk]
  rw [State.sequencerCut, hj]
  exact (if_pos hyes).trans (State.jobReset_first hf _)
/-- The fault of another partition's job lets none of this one's begin. -/
theorem State.sequencerCut_idle_after {s t : State} {p : PartId} (ht : t.PartsFault s)
    (h : (s.part p).st = .run → (s.part p).streams = []) : t.sequencerCut p = t :=
  State.sequencerCut_idle fun hr => by
    have hp := ht.run hr
    rw [hp] at hr ⊢
    exact h hr

theorem dieParts_ne : ∀ d : DieId, finOf 8 (2 * d.val) ≠ finOf 8 (2 * d.val + 1) := by decide

section
variable {s : State} {d : DieId} (hc : ∀ x ∈ s.sram.reserve, x.part ≠ .recovery)
include hc

theorem State.resetSequencer_clean : s.resetSequencer d =
    ((s.holding (.sequencer d)).sequencerCut (finOf 8 (2 * d.val))).sequencerCut (finOf 8 (2 * d.val + 1)) := by
  rw [State.resetSequencer, State.enterHold_clean hc]
  rfl
theorem State.resetSequencer_idle (h : ∀ p ∈ dieParts d, (s.part p).st = .run → (s.part p).streams = []) :
    s.resetSequencer d = s.holding (.sequencer d) := by
  have hidle : ∀ p ∈ dieParts d, (s.holding (.sequencer d)).sequencerCut p = s.holding (.sequencer d) := fun p hp =>
    State.sequencerCut_idle (h p hp)
  rw [State.resetSequencer_clean hc, hidle _ (by simp [dieParts]), hidle _ (by simp [dieParts])]
theorem State.resetSequencer_running {p : PartId} {j : Job} (hp : p ∈ dieParts d) (hr : (s.part p).st = .run)
    (hk : (s.part p).streams ≠ []) (hj : s.jobOf p = some j) (hf : j.phase ≠ .faulted)
    (ho : ∀ q ∈ dieParts d, q ≠ p → (s.part q).st = .run → (s.part q).streams = []) :
    s.resetSequencer d =
      ((s.holding (.sequencer d)).logs Code.sequencerReset j.fn.val).jobFaultQuiet j.id Code.sequencerReset := by
  have hcut := State.sequencerCut_running (s := s.holding (.sequencer d)) hr hk hj hf
  have hne := dieParts_ne d
  have hquiet := ((s.holding (.sequencer d)).logs Code.sequencerReset j.fn.val).jobFaultQuiet_partsFault j.id Code.sequencerReset
  rw [State.resetSequencer_clean hc]
  rcases List.mem_cons.1 hp with rfl | hp
  · rw [hcut, State.sequencerCut_idle_after hquiet (ho _ (by simp [dieParts]) hne.symm)]
  · obtain rfl := List.mem_singleton.1 hp
    rw [State.sequencerCut_idle (s := s.holding (.sequencer d)) (ho _ (by simp [dieParts]) hne), hcut]
end

/-! A Point Engine. -/

theorem State.voidFrames_none {s : State} {p : PartId} (h : (s.part p).pointQ = []) (n : Nat) : s.voidFrames p n = s := by
  cases n with
  | zero => rfl
  | succ n => rw [State.voidFrames, if_pos (by simp [h])]
theorem State.voidFrames_some {s : State} {p : PartId} (h : (s.part p).pointQ ≠ []) (n : Nat) :
    s.voidFrames p (n + 1) = (s.voidFrame p).voidFrames p n := by
  rw [State.voidFrames, if_neg (by simpa using h)]
theorem State.settle_idle {s : State} {p : PartId} (h : (s.part p).st ≠ .run) : s.settle p = s := by
  rw [State.settle, if_pos (by simpa using h)]

section
variable {s : State} {p : PartId} {i : Issued} {rest : List Issued} (hq : (s.part p).pointQ = i :: rest)
include hq

theorem State.voidFrame_met (h : i.src = .graph ∨ ∃ es, s.waitsOf p i = .met es) : s.voidFrame p =
    (s.modPart p (fun q => { q with pointQ := rest })).retire p i (fun id g => mkVoid 3 id g (i.src8 p)) 5 := by
  unfold State.voidFrame
  simp only [hq]
  rcases h with h | ⟨es, h⟩ <;> simp [h]
theorem State.voidFrame_unmet (hg : i.src ≠ .graph) (hw : ∀ es, s.waitsOf p i ≠ .met es) : s.voidFrame p =
    (s.modPart p (fun q => { q with pointQ := rest })).postAll p i (fun id g => mkVoid 3 id g (i.src8 p)) (i.loc p 5) := by
  unfold State.voidFrame
  simp only [hq, beq_eq_false_iff_ne.2 hg, Bool.false_or]
  cases hm : s.waitsOf p i with
  | met es => exact absurd hm (hw es)
  | _ => rfl
end

section
variable {s : State} {d : DieId} (hc : ∀ x ∈ s.sram.reserve, x.part ≠ .recovery)
include hc

theorem State.resetPe_clean : s.resetPe d =
    ((dieParts d).foldl (fun t p => (t.voidFrames p (t.part p).pointQ.length).settle p) (s.holding (.pointEngine d))).logs
      Code.peReset 0 (d.val * 8) := by
  rw [State.resetPe, State.enterHold_clean hc]
theorem State.resetPe_idle (h : ∀ p ∈ dieParts d, (s.part p).st ≠ .run ∧ (s.part p).pointQ = []) :
    s.resetPe d = (s.holding (.pointEngine d)).logs Code.peReset 0 (d.val * 8) := by
  have hstep : ∀ p ∈ dieParts d, ((s.holding (.pointEngine d)).voidFrames p ((s.holding (.pointEngine d)).part p).pointQ.length).settle p =
      s.holding (.pointEngine d) := fun p hp => by
    obtain ⟨hst, hq⟩ := h p hp
    rw [State.voidFrames_none (s := s.holding (.pointEngine d)) hq, State.settle_idle (s := s.holding (.pointEngine d)) hst]
  rw [State.resetPe_clean hc]
  simp only [dieParts, List.foldl_cons, List.foldl_nil] at hstep ⊢
  rw [hstep _ (by simp), hstep _ (by simp)]
end

/-! UNIT_HUNG and HOLD_EXIT. -/

theorem exec_unitHung_none {s : State} {u : UnitId} (h : s.startedCommand u = none) : exec (.unitHung u) s = .next s := by
  show execUnitHung u s = _
  unfold execUnitHung
  simp only [h, ite_self]
theorem exec_unitHung_some {s : State} {u : UnitId} {p : PartId} {r : Loc} (hh : s.inHold u = false) (h : s.startedCommand u = some (p, r)) :
    exec (.unitHung u) s = .next ((s.logAt Code.unitHung (s.vfOf p) r).resetUnit u) := by
  show execUnitHung u s = _
  unfold execUnitHung
  simp only [h, hh, Bool.false_eq_true, if_false]

/-! HOLD_EXIT. -/

/-- A unit's epoch goes up by one and it leaves HOLD. -/
def State.outOfHold (s : State) (u : UnitId) : State :=
  { s.bumpEpoch u with units := { (s.bumpEpoch u).units with hold := (s.bumpEpoch u).units.hold.filter (· != u) } }

theorem exec_holdExit_out {s : State} {u : UnitId} (h : s.inHold u = false) : exec (.holdExit u) s = .next s := by
  show execHoldExit u s = _
  rw [execHoldExit, h]
  rfl
theorem exec_holdExit_held {s : State} {u : UnitId} (h : s.inHold u = true) (hr : u ≠ .managementComplex ∨ s.mgt.restarting = false) :
    exec (.holdExit u) s = .next (s.outOfHold u) := by
  have hno : ¬ (u == .managementComplex && (s.outOfHold u).mgt.restarting) = true := by
    rcases hr with hr | hr
    · simp [hr]
    · cases u <;> simp [State.outOfHold, State.bumpEpoch, hr]
  show execHoldExit u s = _
  rw [execHoldExit, h]
  exact congrArg _ (if_neg hno)

theorem exec_holdExit_mc {s : State} (h : s.inHold .managementComplex = true) (hr : s.mgt.restarting = true) :
    exec (.holdExit .managementComplex) s = .next
      (({ s with
        units := { s.units with hold := s.units.hold.filter (· != .managementComplex) }
        mgt := { s.mgt with epoch := s.mgt.epoch + 1, restarting := false } } : State).logs Code.mcReset) := by
  have hyes : (UnitId.managementComplex == .managementComplex && (s.outOfHold .managementComplex).mgt.restarting) = true := hr
  show execHoldExit .managementComplex s = _
  rw [execHoldExit, h]
  exact congrArg _ (if_pos hyes)

theorem find?_fst_cons_filter {α β : Type} [DecidableEq α] (u v : α) (b : β) (l : List (α × β)) :
    ((u, b) :: l.filter (·.1 != u)).find? (·.1 == v) = if v = u then some (u, b) else l.find? (·.1 == v) := by
  by_cases h : v = u
  · simp [h]
  · rw [if_neg h, List.find?_cons_of_neg (by simpa using Ne.symm h), List.find?_filter]
    congr 1
    funext x
    by_cases hx : x.1 = v
    · simp [hx, h]
    · simp [hx]
theorem State.outOfHold_inHold (s : State) (u v : UnitId) : (s.outOfHold u).inHold v = if v = u then false else s.inHold v := by
  have hh : (s.bumpEpoch u).units.hold = s.units.hold := by cases u <;> rfl
  simp only [State.inHold, State.outOfHold, hh]
  by_cases h : v = u
  · simp [h]
  · simp [h, List.contains_eq_mem, List.mem_filter]
theorem State.unitEpoch_unit (s : State) {v : UnitId} (h : v ≠ .managementComplex) :
    s.unitEpoch v = ((s.units.epochs.find? (·.1 == v)).map (·.2)).getD 0 := by
  unfold State.unitEpoch
  split
  · exact absurd rfl h
  · cases s.units.epochs.find? (·.1 == v) <;> rfl
theorem State.outOfHold_unitEpoch (s : State) (u v : UnitId) :
    (s.outOfHold u).unitEpoch v = if v = u then s.unitEpoch u + 1 else s.unitEpoch v := by
  by_cases hu : u = .managementComplex
  · subst hu
    by_cases hv : v = .managementComplex
    · subst hv; rfl
    · rw [if_neg hv, State.unitEpoch_unit _ hv, State.unitEpoch_unit _ hv]; rfl
  · have hunits : s.bumpEpoch u = { s with units := s.units.bump u (s.unitEpoch u) } := by cases u <;> trivial
    by_cases hv : v = .managementComplex
    · subst hv
      rw [if_neg (Ne.symm hu), State.outOfHold, hunits]; rfl
    · have hfind : (s.outOfHold u).units.epochs.find? (·.1 == v) =
          if v = u then some (u, s.unitEpoch u + 1) else s.units.epochs.find? (·.1 == v) := by
        rw [State.outOfHold, hunits]
        exact find?_fst_cons_filter ..
      rw [State.unitEpoch_unit _ hv, hfind]
      split
      · rfl
      · rw [State.unitEpoch_unit _ hv]
theorem State.outOfHold_changes (s : State) (u : UnitId) :
    s.outOfHold u = { s with units := (s.outOfHold u).units, mgt := (s.outOfHold u).mgt } ∧
    (s.outOfHold u).mgt = if u = .managementComplex then { s.mgt with epoch := s.mgt.epoch + 1 } else s.mgt := by
  cases u <;> exact ⟨rfl, rfl⟩

/-- Settles O20: each reset of a unit by its own lemma (`State.resetTile_running`, `State.resetSequencer_running`, `State.resetPe_clean`), HOLD_EXIT
by `State.outOfHold`. -/
theorem unitsPassThroughHold : Obligations.UnitsPassThroughHold := by
  intro s
  refine ⟨fun u hm hh c hc => ?held, fun t hm hh hclean => ⟨fun hst => ?tileIdle, fun j hst hj hf => ?tileRuns⟩,
    fun d h hm hclean hh hd => ⟨fun hno => ?seqIdle, fun p j hp hst hk hj hf ho => ?seqRuns⟩, fun d hm hclean hh hno => ?peIdle,
    fun d h hm hclean hh hd => ?pe, fun p n => ⟨fun hq => State.voidFrames_none hq n, fun hq => State.voidFrames_some hq n⟩,
    fun p i rest v hq hv => ?void, fun u p r hh h => exec_unitHung_some hh h, fun u h => exec_unitHung_none h,
    fun u hh hr => ?exit, fun hh hr => ?mcExit, fun u h => exec_holdExit_out h⟩
  case held =>
    have hrow : exec c s = .next (s.unitResetGo u) := by
      rcases hc with ⟨t, rfl, rfl⟩ | ⟨d, rfl, rfl⟩ | ⟨d, rfl, rfl⟩ <;> rfl
    rw [hrow, State.unitResetGo_held hm hh]
  case tileIdle => exact congrArg _ ((State.unitResetGo_out hm hh).trans (State.resetTile_idle hclean hst))
  case tileRuns => exact congrArg _ ((State.unitResetGo_out hm hh).trans (State.resetTile_running hclean hst hj hf))
  case seqIdle =>
    obtain rfl : h = s.holding (.sequencer d) := hd
    exact congrArg _ ((State.unitResetGo_out hm hh).trans (State.resetSequencer_idle hclean hno))
  case seqRuns =>
    obtain rfl : h = s.holding (.sequencer d) := hd
    exact congrArg _ ((State.unitResetGo_out hm hh).trans (State.resetSequencer_running hclean hp hst hk hj hf ho))
  case peIdle => exact congrArg _ ((State.unitResetGo_out hm hh).trans (State.resetPe_idle hclean hno))
  case pe =>
    obtain rfl : h = s.holding (.pointEngine d) := hd
    have hreset : s.unitResetGo (.pointEngine d) = s.resetPe d := State.unitResetGo_out hm hh
    rw [show exec (.peReset d) s = .next (s.unitResetGo (.pointEngine d)) from rfl, hreset, State.resetPe_clean hclean]
  case void =>
    rw [hv]
    exact ⟨State.voidFrame_met hq, State.voidFrame_unmet hq⟩
  case exit =>
    obtain ⟨hchanged, hmgt⟩ := s.outOfHold_changes u
    refine ⟨s.outOfHold u, exec_holdExit_held hh hr, ?_, ?_, fun v hv => ⟨?_, ?_⟩, hchanged, hmgt⟩
    · rw [State.outOfHold_inHold, if_pos rfl]
    · rw [State.outOfHold_unitEpoch, if_pos rfl]
    · rw [State.outOfHold_inHold, if_neg hv]
    · rw [State.outOfHold_unitEpoch, if_neg hv]
  case mcExit =>
    exact exec_holdExit_mc hh hr

end Sys2Proof.Machine
end

section
/-! SUPPORT and the statement of the service ports, the tenant service rings and the service transmit ring (R319, R320, R327, R330, R413). -/

namespace Sys2Proof.Machine

/-! Bits and fields. -/

theorem bit_setBitTo_other {n : Nat} (x : BitVec n) {i m : Nat} (b : Bool) (h : i ≠ m) : (setBitTo x i b).getLsbD m = x.getLsbD m := by
  have hp : (2 ^ i).testBit m = false := Nat.testBit_two_pow_of_ne h
  cases b
  · rw [setBitTo, if_neg Bool.false_ne_true, BitVec.getLsbD_and, BitVec.getLsbD_not, BitVec.getLsbD_ofNat, hp]
    by_cases hm : m < n
    · simp [hm]
    · simp [BitVec.getLsbD_of_ge x m (by omega)]
  · rw [setBitTo, if_pos rfl, BitVec.getLsbD_or, BitVec.getLsbD_ofNat, hp, Bool.and_false, Bool.or_false]
theorem fld_eq {n : Nat} (x : BitVec n) (hi lo : Nat) : fld x hi lo = x.toNat / 2 ^ lo % 2 ^ (hi + 1 - lo) := by
  rw [fld, nbits, Nat.shiftRight_eq_div_pow]

/-! The ports of the service domain. -/

section
variable (s : State) (p : PortId)

@[simp] theorem State.modPort_port (g : SvcPort → SvcPort) : (s.modPort p g).port p = g (s.port p) := vmod_same ..
theorem State.modPort_port_other {q : PortId} (g : SvcPort → SvcPort) (h : q ≠ p) : (s.modPort p g).port q = s.port q := vmod_other _ _ _ _ h.symm
theorem State.port_of_svc {s t : State} (h : s.svc = t.svc) (p : PortId) : s.port p = t.port p := by rw [State.port, State.port, h]
end

section
variable {s : State} {p : PortId} {k : SubPort}

theorem exec_svcPortUp_not (h : s.power.porReleased = false ∨ (s.port p).linkUp.getLsbD k.val = true ∨ (s.port p).hasSub k = false) :
    exec (.svcPortUp p k) s = .next s := by
  show execSvcPortUp p k s = _
  have hc : (!s.power.porReleased || !(s.port p).hasSub k || bit (s.port p).linkUp k.val) = true := by
    rcases h with h | h | h <;> simp [bit, h]
  rw [execSvcPortUp, if_pos hc]
theorem SvcPort.hasSub_of_mode {q : SvcPort} (h : q.mode = 2 ∨ (q.mode = 1 ∧ k = 0)) : q.hasSub k = true := by
  rcases h with h | ⟨h, rfl⟩ <;> simp [SvcPort.hasSub, h]
theorem exec_svcPortUp (hr : s.power.porReleased = true) (hl : (s.port p).linkUp.getLsbD k.val = false) (hs : (s.port p).hasSub k = true) :
    exec (.svcPortUp p k) s =
      .next ((s.modPort p (fun q => { q with linkUp := setBitTo q.linkUp k.val true })).logs Code.svcPortUp) := by
  show execSvcPortUp p k s = _
  have hb : bit (s.port p).linkUp k.val = false := hl
  have hc : ¬ (!s.power.porReleased || !(s.port p).hasSub k || bit (s.port p).linkUp k.val) = true := by simp [hb, hr, hs]
  rw [execSvcPortUp, if_neg hc]
theorem State.portDown_off (h : (s.port p).linkUp.getLsbD k.val = false) : s.portDown p k = s := by
  have hb : bit (s.port p).linkUp k.val = false := h
  rw [State.portDown, if_pos (by simp [hb])]
theorem State.portDown_on (h : (s.port p).linkUp.getLsbD k.val = true) : s.portDown p k =
    (s.modPort p (fun q => { q with
      linkUp := setBitTo q.linkUp k.val false, paused := setBitTo q.paused k.val false
      held := q.held.filter (fun x : SubPort × List Byte => x.1 != k) })).logs Code.svcPortDown := by
  rw [State.portDown, if_neg (by simp [bit, h])]

/-- A port whose sub-port no longer waits on PAUSE: its frames leave in order. -/
def SvcPort.released (q : SvcPort) (k : SubPort) : SvcPort :=
  { q with
    paused := setBitTo q.paused k.val false
    out := q.out ++ q.held.filter (fun x : SubPort × List Byte => x.1 == k)
    held := q.held.filter (fun x : SubPort × List Byte => x.1 != k) }
theorem exec_pauseExpiry (s : State) (p : PortId) (k : SubPort) : exec (.pauseExpiry p k) s = .next (s.modPort p (·.released k)) := rfl
end

/-! SVC_SPn_CTRL (R319, R413). -/

section
variable {s : State} {p : PortId} {v : W32} (hk : (s.fn 0).setupLock = false)

theorem mem_fecOf {x : BitVec 2} : x ∈ (fecOf v).toList ↔ ∃ k : Fin 4, BitVec.ofNat 2 (v.toNat / 2 ^ (8 + 2 * k.val) % 4) = x := by
  rw [Vector.mem_toList_iff, fecOf, Vector.mem_ofFn]
  refine exists_congr fun k => ?_
  rw [fld_eq, show 2 * k.val + 9 + 1 - (2 * k.val + 8) = 2 by omega, Nat.add_comm, show (2 : Nat) ^ 2 = 4 by rfl]
theorem ofNat_two_three {n : Nat} : BitVec.ofNat 2 n = 3 ↔ n % 4 = 3 := by
  rw [← BitVec.toNat_inj, BitVec.toNat_ofNat]
  rfl
theorem fecOf_bad : ((fecOf v).toList.any (· == 3)) = true ↔ ∃ k : Fin 4, v.toNat / 2 ^ (8 + 2 * k.val) % 4 = 3 := by
  simp only [List.any_eq_true, mem_fecOf, beq_iff_eq]
  constructor
  · rintro ⟨_, ⟨k, rfl⟩, hx⟩
    exact ⟨k, by simpa using ofNat_two_three.1 hx⟩
  · rintro ⟨k, hk⟩
    exact ⟨_, ⟨k, rfl⟩, ofNat_two_three.2 (by simpa using hk)⟩
/-- MODE of the register. -/
theorem svcMode_toNat (v : W32) : (BitVec.ofNat 2 (fld v 1 0)).toNat = v.toNat % 4 := by
  rw [fld_low, BitVec.toNat_ofNat, Nat.mod_mod]
  rfl

/-- A write of SVC_SPn_CTRL that the ranges or the running port reject. -/
def State.svcCtrlBad (s : State) (p : PortId) (v : W32) : Bool :=
  let q := s.port p
  let mode : BitVec 2 := BitVec.ofNat 2 (fld v 1 0)
  mode == 3 || (fecOf v).toList.any (· == 3) || (q.mode != 0 && mode != 0 && mode != q.mode) || (q.mode != 0 && fecOf v != q.fec)

include hk
theorem State.svcCtrl_rejects (h : v.toNat % 4 = 3 ∨ (∃ k : Fin 4, v.toNat / 2 ^ (8 + 2 * k.val) % 4 = 3) ∨
    ((s.port p).mode ≠ 0 ∧ v.toNat % 4 ≠ 0 ∧ v.toNat % 4 ≠ (s.port p).mode.toNat) ∨ ((s.port p).mode ≠ 0 ∧ fecOf v ≠ (s.port p).fec)) :
    s.svcCtrl p v = s.logs Code.setupRejected 0 := by
  have hm := svcMode_toNat v
  have hbad : s.svcCtrlBad p v = true := by
    simp only [State.svcCtrlBad, Bool.or_eq_true, Bool.and_eq_true, bne_iff_ne, beq_iff_eq]
    rcases h with h | h | ⟨h1, h2, h3⟩ | h
    · exact .inl (.inl (.inl (BitVec.eq_of_toNat_eq (hm.trans h))))
    · exact .inl (.inl (.inr (fecOf_bad.2 h)))
    · exact .inl (.inr ⟨⟨h1, fun he => h2 (hm.symm.trans (congrArg _ he))⟩, fun he => h3 (hm.symm.trans (congrArg _ he))⟩)
    · exact .inr h
  unfold State.svcCtrl
  simp only [hk, Bool.false_eq_true, if_false]
  exact if_pos hbad
theorem State.svcCtrl_sets (hq : (s.port p).mode = 0) (hv : v.toNat % 4 = 1 ∨ v.toNat % 4 = 2)
    (hf : ∀ k : Fin 4, v.toNat / 2 ^ (8 + 2 * k.val) % 4 ≠ 3) : ∃ f : Svc → Svc, (∀ x, (f x).ports = x.ports) ∧ s.svcCtrl p v =
      (s.modPort p (fun q => { q with mgmtEn := bit v 31, pauseEn := bit v 30, fec := fecOf v, mode := BitVec.ofNat 2 (fld v 1 0) })).modSvc f := by
  have hm := svcMode_toNat v
  have hno : ∀ x : BitVec 2, x.toNat = 0 ∨ x.toNat = 3 → (BitVec.ofNat 2 (fld v 1 0) == x) = false := fun x hx => by
    rw [beq_eq_false_iff_ne]
    rintro rfl
    omega
  have hgood : ¬ s.svcCtrlBad p v = true := by
    have hfec : (fecOf v).toList.any (· == 3) = false := Bool.eq_false_iff.2 fun h => (fecOf_bad.1 h).elim hf
    rw [State.svcCtrlBad, hfec, hq, hno 3 (.inr rfl)]
    exact Bool.false_ne_true
  unfold State.svcCtrl
  simp only [hk, Bool.false_eq_true, if_false, hno 0 (.inl rfl)]
  cases hen : bit v 31 with
  | true => exact ⟨id, fun _ => rfl, (if_neg hgood).trans (if_pos rfl)⟩
  | false =>
    exact ⟨fun x => { x with subscriber := x.subscriber.filter (fun r => r.port != p) }, fun _ => rfl,
      (if_neg hgood).trans (if_neg Bool.false_ne_true)⟩
end

/-! Tenant service rings (R310, R327). -/

@[simp] theorem State.modTring_tring (s : State) (n : TRingId) (g : TRing → TRing) : (s.modTring n g).tring n = g (s.tring n) := vmod_same ..
theorem State.modTring_tring_other (s : State) {n m : TRingId} (g : TRing → TRing) (h : m ≠ n) : (s.modTring n g).tring m = s.tring m :=
  vmod_other _ _ _ _ h.symm
/-- An enable that a window status refuses. -/
theorem State.tringBad_eq {s : State} {n : TRingId} {t : TRing} (h : s.tring n = t) (st : Byte) : s.tringBad n st =
    (s.modTring n (fun t => { t with error := true })).hand Code.svcRingSetupBad t.vf.toNat (.count (BitVec.ofNat 64 st.toNat)) := by
  rw [State.tringBad, h]

section
variable {s : State} {n : TRingId}

theorem State.tringEnable_noted (h : (s.tring n).enable = true ∨ ∃ y ∈ s.hiu.headerWaits, y.user = .tring n) : s.tringEnable n = s := by
  have hc : ((s.tring n).enable || s.hiu.headerWaits.any (fun x => x.user == .tring n)) = true := by
    rcases h with h | ⟨y, hy, hu⟩
    · simp [h]
    · rw [Bool.or_eq_true, List.any_eq_true]
      exact .inr ⟨y, hy, by simp [hu]⟩
  rw [State.tringEnable, if_pos hc]

section
variable (he : (s.tring n).enable = false) (hw : ∀ y ∈ s.hiu.headerWaits, y.user ≠ .tring n)
include he hw

theorem State.tringEnable_new : s.tringEnable n =
    if !(s.tring n).setupOk then s.tringBad n Status.bufferShort
    else if !winOffsetOk (s.tring n).base then s.tringBad n Status.badDescriptor
    else if s.mayTake (s.headerWait (.tring n) (s.tring n).fn (s.tring n).base) then s.tringGo n (s.fn (s.tring n).fn).winRoot
    else s.modHiu (fun h => { h with headerWaits := h.headerWaits ++ [s.headerWait (.tring n) (s.tring n).fn (s.tring n).base] }) := by
  have hnone : s.hiu.headerWaits.find? (fun y => y.user == .tring n) = none := List.find?_eq_none.2 fun y hy => by simp [hw y hy]
  have hany : s.hiu.headerWaits.any (fun x => x.user == .tring n) = false := List.any_eq_false.2 fun y hy => by simp [hw y hy]
  have huser : (s.headerWait (.tring n) (s.tring n).fn (s.tring n).base).user = .tring n := by rw [State.headerWait, hnone]; rfl
  have hnot : s.hiu.headerWaits.contains (s.headerWait (.tring n) (s.tring n).fn (s.tring n).base) = false :=
    Bool.eq_false_iff.2 fun hm => hw _ (List.contains_iff_mem.1 hm) huser
  obtain ⟨hroot, -⟩ := State.headerWait_new (f := (s.tring n).fn) (o := (s.tring n).base) hw
  rw [State.tringEnable, if_neg (by simp [he, hany])]
  simp only [hroot, State.keepWait, hnot, Bool.false_eq_true, if_false]
end
/-- From step 4 on, by what the header is. -/
theorem State.tringGo_failed {root : W64} {st : Byte} (h : s.tringOpen root (s.tring n) = .failed st) : s.tringGo n root = s.tringBad n st := by
  unfold State.tringGo
  simp only [h]
theorem State.tringGo_short {root : W64} {a : Nat} {hd : Hdr} (h : s.tringOpen root (s.tring n) = .short a hd) : s.tringGo n root =
    (s.draw.2.writeHeader a hd Owner.host Status.bufferShort false 0 Code.bufferShort (BitVec.ofNat 32 s.draw.1)).tringBad n
      Status.bufferShort := by
  unfold State.tringGo
  simp only [h]
theorem State.tringGo_opened {root : W64} {a : Nat} {hd : Hdr} {c : W32} (h : s.tringOpen root (s.tring n) = .opened a hd)
    (hc : s.hostCount (s.tring n).dbl = some c) : s.tringGo n root =
    (s.modTring n (fun t => { t with
      enable := true, header := some (a, hd), root := root, tail := c, head := c, fullEpisode := false })).tringStatus n := by
  unfold State.tringGo
  simp only [h, hc]
theorem State.tringDisable_off (h : (s.tring n).enable = false) : s.tringDisable n = s.endWait (.tring n) := by
  rw [State.tringDisable, if_pos (by simp [h])]
theorem State.tringDisable_on {a : Nat} {hd : Hdr} (h : (s.tring n).enable = true) (hh : (s.tring n).header = some (a, hd)) :
    ∃ (v w k : Nat), s.tringDisable n =
      ({ s.modTring n (fun t => { t with enable := false, header := none }) with fresh := k } : State).writeHeader a hd Owner.host Status.success
        false v 0 (BitVec.ofNat 32 w) := by
  rw [State.tringDisable, if_neg (by simp [h])]
  simp only [hh]
  exact ⟨_, _, _, rfl⟩
end

/-! The service transmit ring (R276 to R280, R330, R331). -/

/-- SVC_TX goes on with the descriptor that has been read. -/
def State.txTurn (s : State) (ph : BitVec 4) : State :=
  match s.svc.txHeld with
  | none => s
  | some ws => s.txDesc (fun i => ws.getD i 0) ph

section
variable {s : State} {ph : BitVec 4}

theorem State.txTurn_none (h : s.svc.txHeld = none) : s.txTurn ph = s := by rw [State.txTurn, h]
theorem State.txTurn_some {ws : List W64} (h : s.svc.txHeld = some ws) : s.txTurn ph = s.txDesc (fun i => ws.getD i 0) ph := by
  rw [State.txTurn, h]
theorem exec_svcTx_off (h : s.power.mainPg = false ∨ s.hiu.port ≠ .up ∨ s.svc.tx.enable = false) : exec (.svcTx ph) s = .next s := by
  have hc : (!s.power.mainPg || s.hiu.port != .up || !s.svc.tx.enable) = true := by rcases h with h | h | h <;> simp [h]
  show execSvcTx ph s = _
  rw [execSvcTx, if_pos hc]
theorem exec_svcTx_on (hm : s.power.mainPg = true) (hp : s.hiu.port = .up) (he : s.svc.tx.enable = true) : exec (.svcTx ph) s =
    .next ((if s.svc.txHeld.isSome || s.svc.tx.errCause != 0 then s else s.txLine.txRead).txTurn ph) := by
  have hc : ¬ (!s.power.mainPg || s.hiu.port != .up || !s.svc.tx.enable) = true := by simp [hm, hp, he]
  show execSvcTx ph s = _
  rw [execSvcTx, if_neg hc]
  rfl

/-! What SVC_TX reads. -/

theorem exec_svcTx_stopped (hc : s.svc.tx.errCause ≠ 0) (hn : s.svc.txHeld = none) : exec (.svcTx ph) s = .next s := by
  by_cases hoff : s.power.mainPg = false ∨ s.hiu.port ≠ .up ∨ s.svc.tx.enable = false
  · exact exec_svcTx_off hoff
  · obtain ⟨hm, hp, he⟩ : s.power.mainPg = true ∧ s.hiu.port = .up ∧ s.svc.tx.enable = true := by simpa using hoff
    have hcause : (s.svc.txHeld.isSome || s.svc.tx.errCause != 0) = true := by rw [bne_iff_ne.2 hc, Bool.or_true]
    rw [exec_svcTx_on hm hp he, if_pos hcause, State.txTurn_none hn]

/-- The line of the transmit ring has been read. -/
def State.txTailed (s : State) (c : W32) : State := s.modTx (fun q => { q with tail := c, readFail := false })

section
variable {c : W32} (hc : s.hostCount s.svc.tx.dbl = some c)
include hc

theorem State.txLine_tail (h : (c - s.svc.tx.head).toNat ≤ s.svc.tx.size) : s.txLine = s.txTailed c := by
  unfold State.txLine
  simp only [hc]
  exact if_neg (by omega)
theorem State.txLine_beyond (h : s.svc.tx.size < (c - s.svc.tx.head).toNat) : s.txLine =
    (((s.txTailed c).modTx (fun q => { q with error := true, errCause := 2, stopped := true })).logs Code.ringTailBad).txStatus := by
  unfold State.txLine
  simp only [hc]
  exact if_pos h
end

theorem State.txRead_empty (h : s.svc.tx.errCause ≠ 0 ∨ s.svc.tx.head = s.svc.tx.tail) : s.txRead = s := by
  have hc : (s.svc.tx.errCause != 0 || s.svc.tx.head == s.svc.tx.tail) = true := by
    rwa [Bool.or_eq_true, bne_iff_ne, beq_iff_eq]
  rw [State.txRead, if_pos hc]
theorem State.txRead_next {bs : List Byte} (he : s.svc.tx.errCause = 0) (hne : s.svc.tx.tail ≠ s.svc.tx.head)
    (hb : s.hostRead (s.svc.tx.base.toNat + 64 * (s.svc.tx.head.toNat % s.svc.tx.size)) 64 = some bs) : s.txRead =
    ((s.modSvc (fun v => { v with txHeld := some ((List.range 8).map (fun i => BitVec.ofNat 64 (leAt bs (8 * i) 8))) })).modTx
      (fun q => { q with head := q.head + 1 })).txStatus := by
  have hc : ¬ (s.svc.tx.errCause != 0 || s.svc.tx.head == s.svc.tx.tail) = true := by simp [he, hne.symm]
  unfold State.txRead
  simp only [if_neg hc, hb]

@[simp] theorem State.txStatus_svc (s : State) : s.txStatus.svc = s.svc := rfl

section
variable (hm : s.power.mainPg = true) (hp : s.hiu.port = .up) (he : s.svc.tx.enable = true)
include hm hp he

theorem exec_svcTx_held {ws : List W64} (h : s.svc.txHeld = some ws) : exec (.svcTx ph) s = .next (s.txDesc (fun i => ws.getD i 0) ph) := by
  rw [exec_svcTx_on hm hp he, if_pos (by simp [h]), State.txTurn_some h]

section
variable (hn : s.svc.txHeld = none) (hz : s.svc.tx.errCause = 0)
include hn hz

theorem exec_svcTx_reads : exec (.svcTx ph) s = .next (s.txLine.txRead.txTurn ph) := by
  rw [exec_svcTx_on hm hp he, if_neg (by simp [hn, hz])]

variable {c : W32} (hc : s.hostCount s.svc.tx.dbl = some c)
include hc

theorem exec_svcTx_empty (h : c = s.svc.tx.head) : exec (.svcTx ph) s = .next (s.txTailed c) := by
  have hroom : (c - s.svc.tx.head).toNat ≤ s.svc.tx.size := by simp [h]
  rw [exec_svcTx_reads hm hp he hn hz, State.txLine_tail hc hroom, State.txRead_empty (s := s.txTailed c) (.inr h.symm),
    State.txTurn_none (s := s.txTailed c) hn]
theorem exec_svcTx_beyond (h : s.svc.tx.size < (c - s.svc.tx.head).toNat) : exec (.svcTx ph) s =
    .next (((s.txTailed c).modTx (fun q => { q with error := true, errCause := 2, stopped := true })).logs Code.ringTailBad).txStatus := by
  rw [exec_svcTx_reads hm hp he hn hz, State.txLine_beyond hc h, State.txRead_empty (.inl (by simp [State.modTx])), State.txTurn_none]
  simpa [State.modTx, State.txTailed] using hn
theorem exec_svcTx_next {bs : List Byte} {ws : List W64} (hne : c ≠ s.svc.tx.head) (hr : (c - s.svc.tx.head).toNat ≤ s.svc.tx.size)
    (hb : s.hostRead (s.svc.tx.base.toNat + 64 * (s.svc.tx.head.toNat % s.svc.tx.size)) 64 = some bs)
    (hw : ws = (List.range 8).map (fun i => BitVec.ofNat 64 (leAt bs (8 * i) 8))) : exec (.svcTx ph) s =
    .next ((((s.modTx (fun q => { q with tail := c, head := q.head + 1, readFail := false })).modSvc (fun v => { v with
      txHeld := some ws })).txStatus).txDesc (fun i => ws.getD i 0) ph) := by
  have hread := State.txRead_next (s := s.txTailed c) hz hne hb
  rw [exec_svcTx_reads hm hp he hn hz, State.txLine_tail hc hr, hread, ← hw]
  exact congrArg _ (State.txTurn_some rfl)
end
end

/-! What becomes of the descriptor. -/

section
variable {w : Nat → W64} {p : PortId} {k : SubPort} {x : HeaderWait}

theorem State.txDesc_bad (h : txOk w = false) : s.txDesc w ph = s.txWriteBack Status.badDescriptor := by
  rw [State.txDesc, if_pos (by simp [h])]

/-- A well formed descriptor of a port. -/
structure TxNames (w : Nat → W64) (p : PortId) (k : SubPort) : Prop where
  ok : txOk w = true
  port : (w 1).toNat % 2 = p.val
  sub : (w 1).toNat / 2 % 4 = k.val

theorem TxNames.finPort (h : TxNames w p k) : finOf 2 (fld (w 1) 0 0) = p := by
  rw [fld_low]
  exact Fin.ext ((Nat.mod_mod _ 2).trans h.port)
theorem TxNames.finSub (h : TxNames w p k) : finOf 4 (fld (w 1) 2 1) = k := by
  rw [fld_eq]
  exact Fin.ext ((Nat.mod_mod _ 4).trans h.sub)

variable (h : TxNames w p k)
include h

theorem State.txDesc_down (hl : (s.port p).linkUp.getLsbD k.val = false) : s.txDesc w ph = s.txWriteBack Status.portDown := by
  have hb : bit (s.port p).linkUp k.val = false := hl
  rw [State.txDesc, h.finPort, h.finSub, if_neg (by simp [h.ok]), if_pos (by simp [hb])]

variable (hl : (s.port p).linkUp.getLsbD k.val = true)
include hl

theorem State.txDesc_paused (hp : (s.port p).paused.getLsbD k.val = true) : s.txDesc w ph = s := by
  have hb : bit (s.port p).linkUp k.val = true := hl
  rw [State.txDesc, h.finPort, h.finSub, if_neg (by simp [h.ok]), if_neg (by simp [hb]), if_pos (by exact hp)]

variable (hp : (s.port p).paused.getLsbD k.val = false) (hx : x = s.headerWait .tx 0 (w 2))
include hp hx

theorem State.txDesc_waits (hy : s.mayTake x = false) : s.txDesc w ph = s.keepWait x := by
  have hb : bit (s.port p).linkUp k.val = true := hl
  have hq : bit (s.port p).paused k.val = false := hp
  rw [State.txDesc, h.finPort, h.finSub, if_neg (by simp [h.ok]), if_neg (by simp [hb]), if_neg (by simp [hq]), ← hx]
  exact if_pos (by simp [hy])

variable (hy : s.mayTake x = true)
include hy

theorem State.txDesc_fails {v : State} {st : Byte}
    (hf : (s.endWait .tx).txFetch x.root x.offset ((w 0).toNat / 2 ^ 18 % 2 ^ 14) = (v, .failed st)) : s.txDesc w ph = v.txWriteBack st := by
  have hb : bit (s.port p).linkUp k.val = true := hl
  have hq : bit (s.port p).paused k.val = false := hp
  rw [State.txDesc, h.finPort, h.finSub, if_neg (by simp [h.ok]), if_neg (by simp [hb]), if_neg (by simp [hq]), ← hx, fld_eq]
  simp only [hy, Bool.not_true, Bool.false_eq_true, if_false, hf]
theorem State.txDesc_sends {v : State} {data : List Byte} (hts : (w 0).getLsbD 17 = false)
    (hf : (s.endWait .tx).txFetch x.root x.offset ((w 0).toNat / 2 ^ 18 % 2 ^ 14) = (v, .got data)) :
    s.txDesc w ph = (v.sendFrame p k (data ++ List.replicate (60 - data.length) 0)).txWriteBack Status.success := by
  have hb : bit (s.port p).linkUp k.val = true := hl
  have hq : bit (s.port p).paused k.val = false := hp
  have ht : bit (w 0) 17 = false := hts
  rw [State.txDesc, h.finPort, h.finSub, if_neg (by simp [h.ok]), if_neg (by simp [hb]), if_neg (by simp [hq]), ← hx, fld_eq]
  simp only [hy, Bool.not_true, Bool.false_eq_true, if_false, hf, ht]
end

theorem State.txWriteBack_svc (s : State) (st : Byte) : (s.txWriteBack st).svc = { s.svc with txHeld := none } := by
  have hcount : (s.txDrop.winCount 0 st).svc = s.txDrop.svc := by
    unfold State.winCount
    split <;> rfl
  exact hcount
theorem State.txDisable_held (he : s.svc.tx.enable = true) (h : s.svc.txHeld.isSome = true) : s.txDisable =
    ((s.txWriteBack Status.ringAborted).modTx (fun q => { q with enable := false, stopped := true })).txStatus := by
  rw [State.txDisable, if_neg (by simp [he]), if_pos h]
end

/-- Settles O60: the ports by `State.portDown_on` and its like, the tenant rings by `State.tringEnable_new` and `State.tringDisable_on`, the
transmit ring by what it reads (`exec_svcTx_next`) and what becomes of it (`State.txDesc_sends`). -/
theorem servicePortsAndRingsRun : Obligations.ServicePortsAndRingsRun := by
  refine ⟨fun s p k => ?ports, fun s p v hl hk => ⟨fun h => ?rejected, fun hm hv hf => ?set⟩, fun s p v n hl row hrow => ?lanes,
    fun s n t bad root x hl ht hbad hroot hx => ?tring, fun s ph => ?tx⟩
  case ports =>
    refine ⟨exec_svcPortUp_not, fun hr hl hm => exec_svcPortUp hr hl (SvcPort.hasSub_of_mode hm), fun h => congrArg _ (State.portDown_off h),
      fun h => congrArg _ (State.portDown_on h), _, exec_pauseExpiry s p k, ?_⟩
    rw [State.modPort_port]
    exact ⟨bit_setBitTo_clear _ _, rfl, rfl, fun q hq => s.modPort_port_other p _ hq,
      fun m hm => bit_setBitTo_other _ _ fun he => hm (Fin.ext he.symm)⟩
  case rejected => exact (State.overHost_up (·.svcCtrl p v) hl).trans (congrArg _ (State.svcCtrl_rejects hk h))
  case set =>
    obtain ⟨f, hports, heq⟩ := State.svcCtrl_sets hk hm hv hf
    refine ⟨_, (State.overHost_up (·.svcCtrl p v) hl).trans (congrArg _ heq), ?_⟩
    generalize hu : s.modPort p _ = u
    have hport : ∀ q, (u.modSvc f).port q = u.port q := fun q => congrArg (·[q]) (hports u.svc)
    have hp := s.modPort_port p (fun q => { q with
      mgmtEn := bit v 31, pauseEn := bit v 30, fec := fecOf v, mode := BitVec.ofNat 2 (fld v 1 0) })
    rw [hu] at hp
    simp only [hport, hp]
    refine ⟨svcMode_toNat v, trivial, rfl, rfl, trivial, ?_, fun q hq => ?_⟩
    · rw [← hu]; rfl
    · rw [← hu]; exact s.modPort_port_other p _ hq
  case lanes =>
    simp only [List.mem_cons, List.not_mem_nil, or_false] at hrow
    rcases hrow with rfl | rfl | rfl
    · exact State.overHost_down (·.svcCtrl p v) hl
    · exact State.overHost_down (·.tringEnable n) hl
    · exact State.overHost_down (·.tringDisable n) hl
  case tring =>
    subst hroot hx hbad ht
    have hen : exec (.svcTringEnable n) s = .next (s.tringEnable n) := State.overHost_up (·.tringEnable n) hl
    have hdis : exec (.svcTringDisable n) s = .next (s.tringDisable n) := State.overHost_up (·.tringDisable n) hl
    refine ⟨fun h => ?_, fun he hw => ⟨fun hs => ?_, fun hs ho => ?_, fun hs ho hy => ?_, fun hs ho hy => ?_⟩, fun he => ?_,
      fun a h he hh => ?_⟩
    · rw [hen, State.tringEnable_noted h]
    · rw [hen, State.tringEnable_new he hw, if_pos (by simp [hs])]; rfl
    · rw [hen, State.tringEnable_new he hw, if_neg (by simp [hs]), if_pos (by simp [ho])]; rfl
    · rw [hen, State.tringEnable_new he hw, if_neg (by simp [hs]), if_neg (by simp [ho]), if_neg (by simp [hy])]
    · have hgo : s.tringEnable n = s.tringGo n (s.fn (s.tring n).fn).winRoot := by
        rw [State.tringEnable_new he hw, if_neg (by simp [hs]), if_neg (by simp [ho]), if_pos hy]
      refine ⟨fun st h => ?_, fun a h hopen => ?_, fun a h c hopen hc => ?_⟩
      · rw [hen, hgo, State.tringGo_failed h]; rfl
      · exact ⟨s.draw.2, _, rfl, rfl, rfl, by rw [hen, hgo, State.tringGo_short hopen]; rfl⟩
      · refine ⟨_, by rw [hen, hgo, State.tringGo_opened hopen hc], ?_⟩
        have htring : ∀ (u : State) m, (u.tringStatus n).tring m = u.tring m := fun _ _ => rfl
        simp only [htring, State.modTring_tring]
        exact ⟨trivial, trivial, trivial, trivial, trivial, rfl, fun m hm => s.modTring_tring_other _ hm⟩
    · rw [hdis, State.tringDisable_off he]
    · obtain ⟨v, w, k, heq⟩ := State.tringDisable_on he hh
      refine ⟨_, v, _, by rw [hdis, heq], ?_⟩
      have htring : ∀ m, ({ s.modTring n (fun t => { t with enable := false, header := none }) with fresh := k } : State).tring m =
        (s.modTring n (fun t => { t with enable := false, header := none })).tring m := fun _ => rfl
      simp only [htring, State.modTring_tring]
      exact ⟨trivial, trivial, trivial, rfl, rfl, fun m hm => s.modTring_tring_other _ hm⟩
  case tx =>
    refine ⟨fun h => ?_, fun hm hp he => ⟨fun c t hn hz hc ht => ⟨fun hempty => ?_, fun hbeyond => ?_⟩,
      fun u ws w p k x hu hw hp' hk hx => ?_, fun u st => ?_, State.txDisable_held he⟩⟩
    · rcases h with h | h | h | ⟨hc, hn⟩
      · exact exec_svcTx_off (.inl h)
      · exact exec_svcTx_off (.inr (.inl h))
      · exact exec_svcTx_off (.inr (.inr h))
      · exact exec_svcTx_stopped hc hn
    · rw [ht]; exact exec_svcTx_empty hm hp he hn hz hc hempty
    · rw [ht]; exact exec_svcTx_beyond hm hp he hn hz hc hbeyond
    · have hgoes : exec (.svcTx ph) s = .next (u.txDesc w ph) := by
        rcases hu with ⟨hheld, rfl⟩ | ⟨hn, hz, c, bs, hc, hne, hr, hb, hws, rfl⟩
        · rw [exec_svcTx_held hm hp he hheld, hw]
        · rw [exec_svcTx_next hm hp he hn hz hc hne hr hb hws, hw]
      have hport : u.port p = s.port p := by
        rcases hu with ⟨-, rfl⟩ | ⟨-, -, c, bs, -, -, -, -, -, rfl⟩ <;> rfl
      rw [hgoes, ← hport]
      refine ⟨fun hbad => congrArg _ (State.txDesc_bad hbad), fun hok => ?_⟩
      have hnames : TxNames w p k := ⟨hok, hp', hk⟩
      exact ⟨fun hl => congrArg _ (State.txDesc_down hnames hl), fun hl hq => congrArg _ (State.txDesc_paused hnames hl hq),
        fun hl hq => ⟨fun hy => congrArg _ (State.txDesc_waits hnames hl hq hx hy),
          fun hy => ⟨fun v st hf => congrArg _ (State.txDesc_fails hnames hl hq hx hy hf),
            fun v data hts hf => congrArg _ (State.txDesc_sends hnames hl hq hx hy hts hf)⟩⟩⟩
    · rw [State.txWriteBack_svc]; exact ⟨rfl, rfl⟩

end Sys2Proof.Machine
end

section
/-! SUPPORT and the statement of the frames that arrive at a service port and of the requests they bring (R319 to R326, R332 to R334). -/

namespace Sys2Proof.Machine

/-! A frame at its MAC (R319, R320). -/

section
variable {s : State} {p : PortId} {k : SubPort} {f : List Byte} {good : Bool} {ph : BitVec 4}

theorem State.rxFrameAt_off (h : (s.port p).linkUp.getLsbD k.val = false) : s.rxFrameAt p k f good ph = s := by
  have hb : bit (s.port p).linkUp k.val = false := h
  rw [State.rxFrameAt, if_pos (by simp [hb])]

variable (hl : (s.port p).linkUp.getLsbD k.val = true)
include hl

theorem State.rxFrameAt_bad (h : good = false ∨ f.length < 60 ∨ 9212 < f.length) : s.rxFrameAt p k f good ph = s.rxCount p k .rxErr := by
  have hb : bit (s.port p).linkUp k.val = true := hl
  have hc : ((!good || decide (f.length < 60) || decide (9212 < f.length)) = true) := by rcases h with h | h | h <;> simp [h]
  rw [State.rxFrameAt, if_neg (by simp [hb]), if_pos hc]

section
variable (hg : good = true) (h60 : 60 ≤ f.length) (hmax : f.length ≤ 9212)
include hg h60 hmax

theorem State.rxFrameAt_good : s.rxFrameAt p k f good ph =
    if beAt f 12 2 = 0x8808 ∧ beAt f 14 2 = 1 then s.pauseFrame p k f
    else if (beAt f 12 2 = 0x8808 ∧ beAt f 14 2 = 0x0101) ∨ s.accepts p k f = false then s.rxCount p k .rxFiltered
    else s.rxParse p (s.stampAt p k ph false 0) f := by
  have hb : bit (s.port p).linkUp k.val = true := hl
  have hc : ¬ ((!good || decide (f.length < 60) || decide (9212 < f.length)) = true) := by
    simp [hg, Nat.not_lt.2 h60, Nat.not_lt.2 hmax]
  rw [State.rxFrameAt, if_neg (by simp [hb]), if_neg hc]
theorem State.rxFrameAt_pause (h1 : beAt f 12 2 = 0x8808) (h2 : beAt f 14 2 = 1) : s.rxFrameAt p k f good ph = s.pauseFrame p k f := by
  rw [State.rxFrameAt_good hl hg h60 hmax, if_pos ⟨h1, h2⟩]
theorem State.rxFrameAt_filtered (h1 : beAt f 12 2 ≠ 0x8808) (ha : s.accepts p k f = false) :
    s.rxFrameAt p k f good ph = s.rxCount p k .rxFiltered := by
  rw [State.rxFrameAt_good hl hg h60 hmax, if_neg (fun h => h1 h.1), if_pos (.inr ha)]
theorem State.rxFrameAt_parsed (h1 : beAt f 12 2 ≠ 0x8808) (ha : s.accepts p k f = true) :
    s.rxFrameAt p k f good ph = s.rxParse p (s.stampAt p k ph false 0) f := by
  have hno : ¬ ((beAt f 12 2 = 0x8808 ∧ beAt f 14 2 = 0x0101) ∨ s.accepts p k f = false) := by simp [h1, ha]
  rw [State.rxFrameAt_good hl hg h60 hmax, if_neg (fun h => h1 h.1), if_neg hno]
end
end

section
variable {s : State} {p : PortId} {k : SubPort} {f : List Byte}

theorem State.pauseFrame_ignored (h : (s.port p).pauseEn = false) : s.pauseFrame p k f = s := by
  rw [State.pauseFrame, if_pos (by simp [h])]
theorem State.pauseFrame_holds (h : (s.port p).pauseEn = true) (hq : beAt f 16 2 ≠ 0) :
    s.pauseFrame p k f = s.modPort p (fun q => { q with paused := setBitTo q.paused k.val true }) := by
  rw [State.pauseFrame, if_neg (by simp [h]), if_neg hq]
end

/-! The parser (R321 to R323). -/

section
variable {s : State} {p : PortId} {st : TxStamp} {f : List Byte}

theorem State.rxParse_deep (h : (parseHeaders f).tooDeep = true) :
    s.rxParse p st f = s.toExc p (rxFrame p st (32 + (parseHeaders f).flags false) f) := by
  rw [State.rxParse, if_pos h]

section
variable (h : (parseHeaders f).tooDeep = false)
include h

theorem State.rxParse_drop {c : RxCount} (hc : c ≠ .lenShort) (hx : (parseHeaders f).lengths f = .drop c) :
    s.rxParse p st f = s.rxCount p st.sub c := by
  rw [State.rxParse, if_neg (Bool.eq_false_iff.1 h), hx]
  cases c with
  | lenShort => exact absurd rfl hc
  | _ => rfl
theorem State.rxParse_short (hx : (parseHeaders f).lengths f = .drop .lenShort) : s.rxParse p st f = s.lenShort p st.sub f := by
  rw [State.rxParse, if_neg (Bool.eq_false_iff.1 h), hx]
theorem State.rxParse_accept {e : Bool} (hx : (parseHeaders f).lengths f = .accept e) :
    s.rxParse p st f = (if e then s.rxCount p st.sub .lenExcess else s).route p st f (parseHeaders f) e := by
  rw [State.rxParse, if_neg (Bool.eq_false_iff.1 h), hx]
end
end

theorem tagsAt_none {f : List Byte} {off : Nat} (h1 : beAt f off 2 ≠ 0x8100) (h2 : beAt f off 2 ≠ 0x88A8) (n : Nat) : tagsAt f off n = 0 := by
  cases n with
  | zero => rfl
  | succ n => simp [tagsAt, isTag, h1, h2]

/-- An untagged frame that is no IP packet is one layer. -/
theorem parseHeaders_plain {f : List Byte} (h : beAt f 12 2 ∉ [0x8100, 0x88A8, 0x0800, 0x86DD, 0x88F7]) : parseHeaders f =
    { layers := 1, deep := false, tagged := false, etype := beAt f 12 2, ip := none, v6 := false, ipLen := 0, fragment := false, udp := none,
      zsh := none, payload := 14 } := by
  simp only [List.mem_cons, List.not_mem_nil, or_false, not_or] at h
  obtain ⟨h1, h2, h3, h4, -⟩ := h
  unfold parseHeaders
  rw [tagsAt_none h1 h2]
  simp only [Nat.mul_zero, Nat.add_zero, h3, h4, if_false]
  rfl
theorem State.route_plain {s : State} {p : PortId} {st : TxStamp} {f : List Byte} {x : Parsed} {e : Bool} (hip : x.ip = none)
    (hptp : x.ptp f = false) : s.route p st f x e = s.toMgmt p (rxFrame p st (x.flags e) f) := by
  unfold State.route
  simp only [hip, hptp, Bool.false_and, Bool.false_eq_true, if_false]
/-- Such a frame, which is no time frame either, goes to the management ring. -/
theorem State.rxParse_plain (s : State) (p : PortId) (st : TxStamp) {f : List Byte}
    (h : beAt f 12 2 ∉ [0x8100, 0x88A8, 0x0800, 0x86DD, 0x88F7]) :
    s.rxParse p st f = s.toMgmt p (rxFrame p st ((parseHeaders f).flags false) f) := by
  have hx := parseHeaders_plain h
  have hptp : (parseHeaders f).ptp f = false := by
    have hne : beAt f 12 2 ≠ 0x88F7 := fun he => h (by simp [he])
    simp [hx, Parsed.ptp, hne]
  rw [State.rxParse_accept (e := false) (by rw [hx]; rfl) (by rw [hx]; rfl)]
  exact State.route_plain (by rw [hx]) hptp
/-- An untagged IPv4 packet is at most four layers, and begins behind the type. -/
theorem parseHeaders_ipv4 {f : List Byte} (h : beAt f 12 2 = 0x0800) : (parseHeaders f).tooDeep = false ∧ (parseHeaders f).ip = some 14 ∧
    (parseHeaders f).v6 = false := by
  have htags : tagsAt f 12 3 = 0 := tagsAt_none (by omega) (by omega) 3
  have htransport : ∀ (x : Parsed) (off next : Nat), x.deep = false → x.layers ≤ 2 → x.ip = some 14 → x.v6 = false →
      (x.transport f off next).tooDeep = false ∧ (x.transport f off next).ip = some 14 ∧ (x.transport f off next).v6 = false := by
    intro x off next hd hn hip hv
    unfold Parsed.transport
    split
    · exact ⟨by simp [Parsed.tooDeep, hd]; omega, hip, hv⟩
    · refine ⟨?_, hip, hv⟩
      have hb : ∀ b, b2n b ≤ 1 := by decide
      have := hb (beAt f (off + 2) 2 == 47120)
      simp only [Parsed.tooDeep, hd, Bool.false_or, decide_eq_false_iff_not]
      omega
  unfold parseHeaders
  simp only [htags, Nat.mul_zero, Nat.add_zero, h, if_true]
  split
  · exact ⟨rfl, rfl, rfl⟩
  · exact htransport _ _ _ rfl (by simp) rfl rfl
theorem Parsed.lengths_short {x : Parsed} {f : List Byte} {ip : Nat} (hip : x.ip = some ip) (h : f.length - ip < x.dLen f ip) :
    x.lengths f = .drop .lenShort := by
  unfold Parsed.lengths
  simp only [hip]
  exact if_pos h
theorem State.rxParse_shortIpv4 (s : State) (p : PortId) (st : TxStamp) {f : List Byte} (h : beAt f 12 2 = 0x0800) (h60 : 60 ≤ f.length)
    (hs : f.length < 14 + beAt f 16 2) : s.rxParse p st f = s.lenShort p st.sub f := by
  obtain ⟨hdeep, hip, hv⟩ := parseHeaders_ipv4 h
  refine State.rxParse_short hdeep (Parsed.lengths_short hip ?_)
  have hd : (parseHeaders f).dLen f 14 = beAt f 16 2 := by simp [Parsed.dLen, hv]
  omega

/-! Where an accepted frame goes (R325, R326). -/

theorem State.toMgmt_full {s : State} {p : PortId} {r : RxFrame} (h : 256 ≤ s.svc.mgmtRing.length) : s.toMgmt p r = s.rxCount p r.sub .mgmtDrop :=
  if_pos h
theorem State.toMgmt_room {s : State} {p : PortId} {r : RxFrame} (h : s.svc.mgmtRing.length < 256) :
    s.toMgmt p r = s.modSvc (fun v => { v with mgmtRing := v.mgmtRing ++ [r] }) := if_neg (by omega)
theorem State.route_zshBad {s : State} {p : PortId} {st : TxStamp} {f : List Byte} {x : Parsed} {e : Bool} {ip u z : Nat} (hip : x.ip = some ip)
    (hu : x.udp = some u) (hz : x.zsh = some z) (h : s.zshDropped p f z = true) :
    s.route p st f x e = (s.rxCount p st.sub .zshDrop).logRate (.zshDropped p) Code.zshDropped := by
  unfold State.route
  simp only [hip, hu, hz]
  exact if_pos h
theorem State.zshDropped_of {s : State} {f : List Byte} {z : Nat} (p : PortId)
    (h : zshWrong f z = true ∨ s.chipValid = false ∨ (beAt f (z + 6) 2 < 32768 ∧ beAt f (z + 6) 2 % 8192 ≠ s.chip.toNat)) :
    s.zshDropped p f z = true := by
  have hany : (zshWrong f z || !s.chipValid || (decide (beAt f (z + 6) 2 < 32768) && beAt f (z + 6) 2 % 8192 != s.chip.toNat)) = true := by
    rcases h with h | h | ⟨h1, h2⟩
    · simp [h]
    · simp [h]
    · rw [decide_eq_true h1, bne_iff_ne.2 h2, Bool.true_and, Bool.or_true]
  exact Bool.or_eq_true_iff.2 (.inl hany)

theorem State.rxCount_counters (s : State) (p : PortId) (k : SubPort) (c : RxCount) {q : SubPort} (h : q ≠ k) :
    ((s.rxCount p k c).port p).counters[q] = (s.port p).counters[q] ∧
    ((s.rxCount p k c).port p).counters[k][c.ix] = satInc (s.port p).counters[k][c.ix] := by
  rw [State.rxCount, State.modPort_port]
  refine ⟨vmod_other _ _ _ _ h.symm, ?_⟩
  rw [vmod_same, vmod_same]

/-! Requests of channels 0 and 1 (R332). -/

theorem Svc.waiting?_channel {v : Svc} {ch : Nat} {r : ZshRequest} (h : v.waiting? ch = some r) : r.channel.toNat = ch := by
  obtain ⟨hfind, -⟩ := Option.filter_eq_some_iff.1 h
  have hyes : (r.channel.toNat == ch && !r.taken) = true := List.find?_some (p := fun r : ZshRequest => r.channel.toNat == ch && !r.taken) hfind
  exact beq_iff_eq.1 (Bool.and_eq_true_iff.1 hyes).1

section
variable {s : State} {r : ZshRequest}

theorem State.takeDesc_closed (h : s.requestsServed = false) : s.takeDesc r = s.refuseRequest r Status.retry := by
  rw [State.takeDesc, if_pos (by simp [h])]

variable (hs : s.requestsServed = true)
include hs

theorem State.takeDesc_bad (h : r.payload.length < 64 ∨ (r.channel = 1 ∧ 32 < r.vf.toNat)) :
    s.takeDesc r = s.refuseRequest r Status.badDescriptor := by
  have hc : (decide (r.payload.length < 64) || (r.channel == 1 && decide (32 < r.vf.toNat))) = true := by simpa using h
  rw [State.takeDesc, if_neg (by simp [hs]), if_pos hc]
/-- A request on channel 0 hands over a descriptor of PF0, of an opcode that the channel takes, or of none that the package has. -/
theorem State.takeDesc_management {d : Desc} (hc : r.channel = 0) (hl : 64 ≤ r.payload.length)
    (hd : d = Desc.ofBytes 0 (.zsh r.port r.seq) (r.payload.take 64)) : s.takeDesc r =
    if (Op.ofMc d.opcode || Op.ofRe d.opcode) && !Op.onChannel0 d.opcode then s.refuseRequest r Status.notPermitted
    else (s.takeRequest r).deliver d := by
  have hno : ¬ (decide (r.payload.length < 64) || (r.channel == 1 && decide (32 < r.vf.toNat))) = true := by
    simp [hc, Nat.not_lt.2 hl]
  rw [State.takeDesc, if_neg (by simp [hs]), if_neg hno, hd]
  simp only [hc, beq_self_eq_true, if_true, Bool.true_and]
theorem State.takeDesc_jobControl {f : FnId} (hc : r.channel = 1) (hl : 64 ≤ r.payload.length) (hf : r.vf.toNat = f.val) :
    s.takeDesc r = (s.takeRequest r).deliver (Desc.ofBytes f (.zsh r.port r.seq) (r.payload.take 64)) := by
  have hno : ¬ (decide (r.payload.length < 64) || (r.channel == 1 && decide (32 < r.vf.toNat))) = true := by
    have := f.isLt
    simp [Nat.not_lt.2 hl]
    omega
  have hfn : finOf 33 r.vf.toNat = f := Fin.ext (by rw [hf]; exact Nat.mod_eq_of_lt f.isLt)
  have h0 : (r.channel == 0) = false := by simp [hc]
  rw [State.takeDesc, if_neg (by simp [hs]), if_neg hno, h0, hfn]
  rfl
end

/-! Streams of channel 2 (R333). -/

theorem streamNames {b : List Byte} {lead : PartId} (hlead : leAt b 0 1 = lead.val) (hpart : leAt b 1 1 ≤ 7) :
    ¬ (decide (7 < leAt b 0 1) || decide (7 < leAt b 1 1)) = true := by
  have := lead.isLt
  simp
  omega

section
variable {s : State} {r : ZshRequest}

theorem State.openStream_closed (h : s.requestsServed = false) : s.openStream r = s.refuseRequest r Status.retry := by
  rw [State.openStream, if_pos (by simp [h])]

variable (hs : s.requestsServed = true)
include hs

theorem State.openStream_bad (h : r.payload.length ≠ 24 ∨ leAt r.payload 4 4 ≠ 0) : s.openStream r = s.refuseRequest r Status.badDescriptor := by
  have hc : (r.payload.length != 24 || leAt r.payload 4 4 != 0) = true := by simpa using h
  rw [State.openStream, if_neg (by simp [hs]), if_pos hc]

variable (hl : r.payload.length = 24) (hz : leAt r.payload 4 4 = 0)
include hl hz

theorem State.openStream_beyond (h : 7 < leAt r.payload 0 1 ∨ 7 < leAt r.payload 1 1) :
    s.openStream r = s.refuseRequest r Status.streamRefused := by
  have hc : (decide (7 < leAt r.payload 0 1) || decide (7 < leAt r.payload 1 1)) = true := by simpa using h
  rw [State.openStream, if_neg (by simp [hs]), if_neg (by simp [hl, hz]), if_pos hc]

section
variable {lead p : PartId} {j : Job} {i : Fin 4} (hlead : leAt r.payload 0 1 = lead.val) (hpart : leAt r.payload 1 1 ≤ 7)
  (hj : s.jobOfLead lead = some j) (hi : s.svc.streamSlot = some i) (hp : j.phys (leAt r.payload 1 1) = some p)
include hlead hpart hj hi hp

theorem State.openStream_refused (h : s.canStream j = false) : s.openStream r = s.refuseRequest r Status.streamRefused := by
  have hfin : finOf 8 lead.val = lead := Fin.ext (Nat.mod_eq_of_lt lead.isLt)
  rw [State.openStream, if_neg (by simp [hs]), if_neg (by simp [hl, hz]), if_neg (streamNames hlead hpart), hlead, hfin]
  simp only [hj, hi, hp, h, Bool.not_false, if_true]
theorem State.openStream_opens {a : Nat} (h : s.canStream j = true)
    (ha : s.streamRange p (leAt r.payload 2 2) (leAt r.payload 8 8) (leAt r.payload 16 8) = (s, some a)) : s.openStream r =
    (s.dropRequest r).modSvc (fun v => { v with streams := vset v.streams i (some
      { lead := lead, part := p, base := a, offset := leAt r.payload 8 8, length := leAt r.payload 16 8, sent := 0, req := r, stop := none }) }) := by
  have hfin : finOf 8 lead.val = lead := Fin.ext (Nat.mod_eq_of_lt lead.isLt)
  rw [State.openStream, if_neg (by simp [hs]), if_neg (by simp [hl, hz]), if_neg (streamNames hlead hpart), hlead, hfin]
  simp only [hj, hi, hp, h, ha, Bool.not_true, Bool.false_eq_true, if_false]
end
end

theorem State.streamRange_granted {s : State} {p : PartId} {m : AllocMap} {e : BitVec 128} {region off len : Nat}
    (ha : (s.part p).mapA = some m) (hb : (s.part p).mapB = some m) (he : m.entry? region = some e)
    (hk : mePurpose e ∉ [Purpose.free, Purpose.spill, Purpose.landing]) (hr : off + len ≤ meLen e) :
    s.streamRange p region off len = (s, some (partBase p + meStart e + off)) := by
  have hfound : s.consultOne p region { Loc.base 10 with part := p.val } = (s, .entries [(region, e)]) := by
    rw [State.consultOne, State.consult_same ha hb]
    simp [he]
  have hno : ¬ (mePurpose e = Purpose.free ∨ mePurpose e = Purpose.spill ∨ mePurpose e = Purpose.landing ∨ meLen e < off + len) := by
    simp only [List.mem_cons, List.not_mem_nil, or_false, not_or] at hk ⊢
    exact ⟨hk.1, hk.2.1, hk.2.2, by omega⟩
  unfold State.streamRange
  rw [hfound]
  exact if_neg hno

section
variable {s : State} {n : Fin 4}

theorem exec_streamChunk_idle (h : s.svc.streams[n] = none ∨ s.fwServes = false) : exec (.streamChunk n) s = .next s := by
  show execStreamChunk n s = _
  unfold execStreamChunk
  rcases h with h | h
  · simp only [h]
  · cases s.svc.streams[n] <;> simp [h]

variable {t : OutStream} (h : s.svc.streams[n] = some t) (hf : s.fwServes = true)
include h hf

theorem exec_streamChunk_open : exec (.streamChunk n) s = .next (s.streamStep n t) := by
  show execStreamChunk n s = _
  unfold execStreamChunk
  simp only [h, hf, if_true]
theorem exec_streamChunk_stopped {st : Byte} (hst : t.stop = some st) : exec (.streamChunk n) s = .next (s.endStream n t st) := by
  rw [exec_streamChunk_open h hf, State.streamStep, hst]
theorem exec_streamChunk_sent (hst : t.stop = none) (hl : t.length ≤ t.sent) :
    exec (.streamChunk n) s = .next (s.endStream n t Status.success) := by
  rw [exec_streamChunk_open h hf, State.streamStep, hst]
  exact congrArg _ (if_pos hl)
theorem exec_streamChunk_sends (hst : t.stop = none) (hl : t.sent < t.length) (hc : s.sram.ecc = []) : exec (.streamChunk n) s =
    .next ((s.modSvc (fun v => { v with
      streams := vset v.streams n (some { t with sent := t.sent + min 8192 (t.length - t.sent) }) })).sendFrame t.req.port t.req.sub
        (chunkFrame t (Mem.read s.sram.mem (t.base + t.sent) (min 8192 (t.length - t.sent))))) := by
  rw [exec_streamChunk_open h hf, State.streamStep, hst]
  simp only [if_neg (Nat.not_le.2 hl), State.fetchBytes_clean s _ _ _ hc]
end

/-! The rows of channels 0 to 3 take up the oldest request of their channel. -/

section
variable {s : State} {r : ZshRequest}

theorem exec_zshManagement_asked (h : s.svc.waiting? 0 = some r) : exec .zshManagement s = .next (s.takeDesc r) := by
  show execZshManagement s = _
  rw [execZshManagement, h]
theorem exec_zshJobControl_asked (h : s.svc.waiting? 1 = some r) : exec .zshJobControl s = .next (s.takeDesc r) := by
  show execZshJobControl s = _
  rw [execZshJobControl, h]
theorem exec_zshStreaming_asked (h : s.svc.waiting? 2 = some r) : exec .zshStreaming s = .next (s.openStream r) := by
  show execZshStreaming s = _
  rw [execZshStreaming, h]
theorem exec_zshLogExport_asked (h : s.svc.waiting? 3 = some r) : exec .zshLogExport s = .next
    (if !s.requestsServed then s.refuseRequest r Status.retry
    else (s.dropRequest r).modSvc (fun v => { v with subscriber := some r, exportSeq := 0 })) := by
  show execZshLogExport s = _
  rw [execZshLogExport, h]
/-- Without one they change nothing. -/
theorem exec_zsh_none (s : State) : (s.svc.waiting? 0 = none → exec .zshManagement s = .next s) ∧
    (s.svc.waiting? 1 = none → exec .zshJobControl s = .next s) ∧ (s.svc.waiting? 2 = none → exec .zshStreaming s = .next s) ∧
    (s.svc.waiting? 3 = none → exec .zshLogExport s = .next s) := by
  refine ⟨fun h => ?_, fun h => ?_, fun h => ?_, fun h => ?_⟩
  · show execZshManagement s = _
    rw [execZshManagement, h]
  · show execZshJobControl s = _
    rw [execZshJobControl, h]
  · show execZshStreaming s = _
    rw [execZshStreaming, h]
  · show execZshLogExport s = _
    rw [execZshLogExport, h]
/-- While the core does not serve they answer RETRY. -/
theorem exec_zsh_closed {ch : Nat} {row : Instr}
    (hrow : (ch, row) ∈ [(0, Instr.zshManagement), (1, .zshJobControl), (2, .zshStreaming), (3, .zshLogExport)])
    (h : s.svc.waiting? ch = some r) (hs : s.requestsServed = false) : exec row s = .next (s.refuseRequest r Status.retry) := by
  simp only [List.mem_cons, List.not_mem_nil, or_false, Prod.mk.injEq] at hrow
  rcases hrow with ⟨rfl, rfl⟩ | ⟨rfl, rfl⟩ | ⟨rfl, rfl⟩ | ⟨rfl, rfl⟩
  · rw [exec_zshManagement_asked h, State.takeDesc_closed hs]
  · rw [exec_zshJobControl_asked h, State.takeDesc_closed hs]
  · rw [exec_zshStreaming_asked h, State.openStream_closed hs]
  · rw [exec_zshLogExport_asked h, if_pos (by simp [hs])]
end

theorem channel_eq {r : ZshRequest} {ch : Nat} (h : r.channel.toNat = ch) (hc : ch < 256) : r.channel = BitVec.ofNat 8 ch :=
  BitVec.eq_of_toNat_eq (by rw [h, BitVec.toNat_ofNat, Nat.mod_eq_of_lt hc])

/-- Settles O59: a frame by `State.rxFrameAt_parsed` and the lemmas of the parser, a request by its channel's lemmas. -/
theorem serviceFramesAndRequestsReachTheirPlace : Obligations.ServiceFramesAndRequestsReachTheirPlace := by
  refine ⟨fun s p k f good ph row hrow => ?frame, fun s p k c q hq => s.rxCount_counters p k c hq,
    fun s p st f x e ip u z hip hu hz h => State.route_zshBad hip hu hz (State.zshDropped_of p h), exec_zsh_none,
    fun s r ch row hrow hr hs => exec_zsh_closed hrow hr hs, fun s r d hr hs hd => ?management, fun s r hr hs => ?jobControl, fun s r hr hs => ?streaming,
    fun s r hr hs => ?logExport,
    fun s n => ⟨exec_streamChunk_idle, fun t h hf => ⟨fun st => exec_streamChunk_stopped h hf, exec_streamChunk_sent h hf,
      exec_streamChunk_sends h hf⟩⟩⟩
  case frame =>
    have hrun : exec row s = .next (s.rxFrameAt p k f good ph) := by rw [hrow]; rfl
    rw [hrun]
    refine ⟨fun hl => congrArg _ (State.rxFrameAt_off hl), fun hl => ⟨fun hbad => congrArg _ (State.rxFrameAt_bad hl hbad),
      fun hg h60 hmax => ⟨fun h1 h2 => ?_, fun h1 => ⟨fun ha => congrArg _ (State.rxFrameAt_filtered hl hg h60 hmax h1 ha), ?_⟩⟩⟩⟩
    · rw [State.rxFrameAt_pause hl hg h60 hmax h1 h2]
      exact ⟨fun he => congrArg _ (State.pauseFrame_ignored he), fun he hq => congrArg _ (State.pauseFrame_holds he hq)⟩
    · refine ⟨fun ha x st hx hst => ?_, fun ha ht => ?_, fun ha ht hshort => ?_⟩
      all_goals rw [State.rxFrameAt_parsed hl hg h60 hmax h1 ha]
      · rw [hx, hst]
        exact ⟨fun hd => congrArg _ (State.rxParse_deep hd), fun hd => ⟨fun c hc hdrop => congrArg _ (State.rxParse_drop hd hc hdrop),
          fun e he => congrArg _ (State.rxParse_accept hd he)⟩⟩
      · rw [State.rxParse_plain s p _ ht]
        exact ⟨fun hfull => congrArg _ (State.toMgmt_full hfull),
          fun hroom => ⟨_, rfl, rfl, rfl, congrArg _ (State.toMgmt_room hroom)⟩⟩
      · exact congrArg _ (s.rxParse_shortIpv4 p _ ht h60 hshort)
  case management =>
    have hc : r.channel = 0 := channel_eq (Svc.waiting?_channel hr) (by decide)
    rw [exec_zshManagement_asked hr]
    refine ⟨fun hshort => congrArg _ (State.takeDesc_bad hs (.inl hshort)), fun hl => ?_⟩
    rw [State.takeDesc_management hs hc hl hd]
    refine ⟨fun ho => congrArg _ (if_neg ?_), fun ho => congrArg _ (if_pos ?_)⟩
    all_goals simp only [List.mem_cons, List.not_mem_nil, or_false] at ho
    · have hon : Op.onChannel0 d.opcode = true := by simpa [Op.onChannel0, or_assoc] using ho
      simp [hon]
    · rcases ho with h | h | h | h | h | h | h | h | h | h <;> rw [h] <;> decide
  case jobControl =>
    have hc : r.channel = 1 := channel_eq (Svc.waiting?_channel hr) (by decide)
    rw [exec_zshJobControl_asked hr]
    exact ⟨fun hbad => congrArg _ (State.takeDesc_bad hs (hbad.imp_right fun hv => ⟨hc, hv⟩)),
      fun f hl hf => congrArg _ (State.takeDesc_jobControl hs hc hl hf)⟩
  case streaming =>
    rw [exec_zshStreaming_asked hr]
    exact ⟨fun hbad => congrArg _ (State.openStream_bad hs hbad), fun hl hz hbeyond => congrArg _ (State.openStream_beyond hs hl hz hbeyond),
      fun lead p j i hl hlead hpart hz hj hi hp => ⟨fun hno => congrArg _ (State.openStream_refused hs hl hz hlead hpart hj hi hp hno),
        fun m e hcan ha hb he hk hlen =>
          congrArg _ (State.openStream_opens hs hl hz hlead hpart hj hi hp hcan (State.streamRange_granted ha hb he hk hlen))⟩⟩
  case logExport => rw [exec_zshLogExport_asked hr, if_neg (by simp [hs])]

end Sys2Proof.Machine
end

section
/-! SUPPORT and the statement of the I3C target, JTAG and attestation (R375, R379, R380, R387, R392, R416, Table 16-7, Table 17-3). -/

namespace Sys2Proof.Machine

/-! The I3C target (R379). -/

theorem Vector.toList_eq_finRange {α : Type} {n : Nat} (v : Vector α n) : v.toList = (List.finRange n).map (fun i => v[i]) := by
  refine List.ext_getElem (by simp) fun i h1 h2 => ?_
  simp

section
variable {s : State} (hp : s.power.porReleased = true) (hc : s.landsCut = false)
include hp hc

theorem State.i3c_on (g : State → State) : s.i3c g = .next (g s) := by
  rw [State.i3c, if_pos (by simp [hp, hc])]

theorem exec_i3cRegRead_bad {i : Byte} (h : 4 < i.toNat) : exec (.i3cRegRead (.reg i)) s = .next s.i3cBad := by
  show execI3cRegRead (.reg i) s = _
  rw [execI3cRegRead, State.i3c_on hp hc]
  exact congrArg _ (if_pos h)
theorem exec_i3cRegRead {i : Byte} (h : i.toNat ≤ 4) :
    exec (.i3cRegRead (.reg i)) s = .next (s.i3cAnswer (0 :: natLE 4 (s.power.reg i.toNat).toNat)) := by
  show execI3cRegRead (.reg i) s = _
  rw [execI3cRegRead, State.i3c_on hp hc]
  exact congrArg _ (if_neg (Nat.not_lt.2 h))
theorem exec_i3cRegRead_unknown (i : Byte) : exec (.i3cRegRead (.unknown i)) s = .next s.i3cBad := by
  show execI3cRegRead (.unknown i) s = _
  rw [execI3cRegRead, State.i3c_on hp hc]
theorem exec_i3cRegWrite (i : Byte) (v : W32) : exec (.i3cRegWrite i v) s =
    .next (if 4 < i.toNat then s.i3cBad else (s.setPwr i.toNat v).i3cAnswer [0]) := by
  show execI3cRegWrite i v s = _
  rw [execI3cRegWrite, State.i3c_on hp hc]
theorem exec_sensorRead_bad {i : Byte} (h : 63 < i.toNat) : exec (.sensorRead i) s = .next s.i3cBad := by
  show execSensorRead i s = _
  rw [execSensorRead, State.i3c_on hp hc, if_pos h]
theorem exec_sensorRead {i : Byte} {n : Fin 64} (h : i.toNat = n.val) : exec (.sensorRead i) s = .next (s.i3cAnswer (0 :: natLE 2
    (if s.power.sensors[n].failed then 0x8000 else s.power.sensors[n].last.toNat))) := by
  obtain rfl : finOf 64 i.toNat = n := Fin.ext (by rw [h]; exact Nat.mod_eq_of_lt n.isLt)
  have hin : ¬ 63 < i.toNat := by
    have := (finOf 64 i.toNat).isLt
    omega
  show execSensorRead i s = _
  rw [execSensorRead, State.i3c_on hp hc, if_neg hin]
theorem exec_i3cLogRead_bad {n : W16} (h : 4095 < n.toNat) : exec (.i3cLogRead n) s = .next s.i3cBad := by
  show execI3cLogRead n s = _
  rw [execI3cLogRead, State.i3c_on hp hc, if_pos h]
theorem exec_i3cLogRead_empty {n : W16} (h : n.toNat ≤ 4095) (he : s.log.slot? n.toNat = none) :
    exec (.i3cLogRead n) s = .next (s.i3cAnswer (List.replicate 65 0)) := by
  show execI3cLogRead n s = _
  rw [execI3cLogRead, State.i3c_on hp hc, if_neg (by omega), he]
  rfl
theorem exec_i3cLogRead_slot {n : W16} {e : LogEntry} (h : n.toNat ≤ 4095) (he : s.log.slot? n.toNat = some e) :
    exec (.i3cLogRead n) s = .next (s.i3cAnswer (0 :: e.bytes)) := by
  show execI3cLogRead n s = _
  rw [execI3cLogRead, State.i3c_on hp hc, if_neg (by omega), he]
theorem exec_linkStatus : exec .linkStatus s = .next (s.i3cAnswer
    (0 :: (List.finRange 6).map (fun l => BitVec.ofNat 8 (b2n s.links[l].present * 128 + s.links[l].stage.number)))) := by
  show execLinkStatus s = _
  rw [execLinkStatus, State.i3c_on hp hc, Vector.toList_eq_finRange, List.map_map]
  rfl
end

/-! PWR_CTRL and PWR_ALERT (Table 16-3). -/

section
variable {s : State} {v : W32}

theorem State.setPwr_limit_bad (h : v.toNat % 2 ^ 12 < 500 ∨ 2500 < v.toNat % 2 ^ 12) : s.setPwr 0 v = s.logs Code.setupRejected := by
  have hc : (decide (fld v 11 0 < 500) || decide (2500 < fld v 11 0)) = true := by rw [fld_low]; simpa using h
  exact if_pos hc
theorem State.setPwr_limit (h1 : 500 ≤ v.toNat % 2 ^ 12) (h2 : v.toNat % 2 ^ 12 ≤ 2500) (hb : v.getLsbD 31 = true) :
    s.setPwr 0 v = s.modPower (fun p => { p with limit := v.setWidth 12, mainEn := true }) := by
  have hc : ¬ (decide (fld v 11 0 < 500) || decide (2500 < fld v 11 0)) = true := by
    have hf : fld v 11 0 = v.toNat % 2 ^ 12 := fld_low v 11
    simp only [Bool.or_eq_true, decide_eq_true_eq]
    omega
  refine (if_neg hc).trans ((if_pos hb).trans ?_)
  rw [ofNat_fld_low v 11]
  rfl
theorem State.setPwr_alert : s.setPwr 4 v = s.modPower (fun p => { p with
    alertMask := (v >>> 8).setWidth 4, alertStatus := p.alertStatus &&& ~~~ (v.setWidth 4) }) := by
  have hm : BitVec.ofNat 4 (fld v 11 8) = (v >>> 8).setWidth 4 := BitVec.eq_of_toNat_eq (by
    rw [fld, nbits, BitVec.toNat_ofNat, BitVec.toNat_setWidth, BitVec.toNat_ushiftRight, Nat.mod_mod])
  show s.modPower (fun p => { p with
    alertMask := BitVec.ofNat 4 (fld v 11 8), alertStatus := p.alertStatus &&& ~~~(BitVec.ofNat 4 (fld v 3 0)) }) = _
  rw [hm, ofNat_fld_low v 3]
end

/-! I3C_RESET. -/

section
variable {s : State} {v : W32}

theorem fld_upper (v : W32) : fld v 31 16 = v.toNat / 2 ^ 16 := by
  rw [fld_eq]
  exact Nat.mod_eq_of_lt (Nat.div_lt_of_lt_mul v.isLt)
theorem State.setReset_unkeyed (h : v.toNat / 2 ^ 16 ≠ 0xA5C3) : s.setReset v = s.logs Code.setupRejected := by
  rw [State.setReset, fld_upper, if_pos (by simpa using h)]
  rfl
section
variable (h : v.toNat / 2 ^ 16 = 0xA5C3)
include h
theorem State.setReset_keyed : s.setReset v =
    if bit v 2 then s.coldReset else if bit v 1 then s.warmReset else if bit v 0 then s.mcReset else s := by
  rw [State.setReset, fld_upper, h, if_neg (by decide)]
variable (hp : s.power.porReleased = true) (hc : s.landsCut = false)
include hp hc
theorem exec_i3cReset_cold (h2 : v.getLsbD 2 = true) : exec (.i3cReset v) s = .next s.coldReset := by
  have hb : bit v 2 = true := h2
  show execI3cReset v s = _
  rw [execI3cReset, State.i3c_on hp hc, State.setReset_keyed h, fld_upper, h, hb]
  rfl
end
section
variable (hp : s.power.porReleased = true) (hc : s.landsCut = false)
include hp hc
theorem exec_i3cReset_answered (h : v.toNat / 2 ^ 16 ≠ 0xA5C3 ∨ v.getLsbD 2 = false) :
    exec (.i3cReset v) s = .next ((s.setReset v).i3cAnswer [0]) := by
  have hno : ¬ (fld v 31 16 == 0xA5C3 && bit v 2) = true := by
    rw [fld_upper, Bool.and_eq_true, beq_iff_eq]
    rintro ⟨hk, hb⟩
    rcases h with h | h
    · exact h hk
    · exact absurd (hb.symm.trans h) (by decide)
  show execI3cReset v s = _
  rw [execI3cReset, State.i3c_on hp hc]
  exact congrArg _ (if_neg hno)
end
end

/-! MEM_READ and MEM_WRITE (R236, R237, R366). -/

/-- The row of a memory command; a read brings no data. -/
theorem exec_mem {s : State} (hp : s.power.porReleased = true) (hc : s.landsCut = false) {rd : Bool} {a : W64} {form len : Byte}
    {data : List Byte} {row : Instr} (h : row = if rd then .memRead a form len else .memWrite a form len data) :
    ∃ bs, (rd = false → bs = data) ∧ exec row s = .next (s.mem rd a form len bs) := by
  cases rd
  · exact ⟨data, fun _ => rfl, by rw [h]; exact State.i3c_on hp hc (·.mem false a form len data)⟩
  · exact ⟨[], nofun, by rw [h]; exact State.i3c_on hp hc (·.mem true a form len [])⟩

section
variable {s : State} {rd : Bool} {a : W64} {form len : Byte} {data : List Byte}

theorem memOk_iff : memOk rd form len data = true ↔
    form.toNat ≤ 1 ∧ 16 ≤ len.toNat ∧ len.toNat ≤ 64 ∧ len.toNat % 16 = 0 ∧ (rd = false → data.length = len.toNat) := by
  cases rd <;> simp [memOk, and_assoc]

theorem State.mem_bad (h : memOk rd form len data = false) : s.mem rd a form len data = s.i3cBad := by
  rw [State.mem, if_pos (by simp [h])]

variable (h : memOk rd form len data = true)
include h

theorem State.mem_unpowered (hm : s.power.mainPg = false) : s.mem rd a form len data = s.i3cAnswer [Status.notPermitted] := by
  rw [State.mem, if_neg (by simp [h]), if_pos (by simp [hm])]

variable (hm : s.power.mainPg = true)
include hm

theorem State.mem_held (hh : s.inHold .managementComplex = true) : s.mem rd a form len data = s.i3cAnswer [Status.unitReset] := by
  rw [State.mem, if_neg (by simp [h]), if_neg (by simp [hm]), if_pos hh]

variable (hh : s.inHold .managementComplex = false)
include hh

theorem State.mem_switching (hs : s.boot.stage = .switching) : s.mem rd a form len data =
    ({ s with side := { s.side with i3cHeld := s.side.i3cHeld ++ [(rd, a, form, len.toNat, data)] } } : State).i3cAnswer [Status.retry] := by
  rw [State.mem, if_neg (by simp [h]), if_neg (by simp [hm]), if_neg (by simp [hh]), if_pos (by simp [hs])]
theorem State.mem_closed (hs : s.boot.stage ≠ .switching) (hf : s.fwServes = false) :
    s.mem rd a form len data = s.i3cAnswer [Status.retry] := by
  rw [State.mem, if_neg (by simp [h]), if_neg (by simp [hm]), if_neg (by simp [hh]), if_neg (by simpa using hs), if_pos (by simp [hf])]
theorem State.mem_goes (hs : s.boot.stage ≠ .switching) (hf : s.fwServes = true) :
    s.mem rd a form len data = (s.i3cAnswer []).memGo rd a form len.toNat data := by
  rw [State.mem, if_neg (by simp [h]), if_neg (by simp [hm]), if_neg (by simp [hh]), if_neg (by simpa using hs), if_neg (by simp [hf])]
end
/-- Firmware that serves is not in HOLD. -/
theorem State.out_of_fwServes {s : State} (h : s.fwServes = true) : s.inHold .managementComplex = false := by
  have := (Bool.and_eq_true_iff.1 h).2
  simpa using this

section
variable {s : State} {rd : Bool} {a : W64} {form : Byte} {n : Nat} {data : List Byte}

theorem State.memGo_invalid (h : s.mgmtAddress a (form == 1) n = none) : s.memGo rd a form n data = (s.logs Code.addressInvalid).i3cBad := by
  unfold State.memGo
  simp only [h]
section
variable {base : W64} (h : s.mgmtAddress a (form == 1) n = some base)
include h
theorem State.memGo_full (hf : s.freeReq true = none) : s.memGo rd a form n data = s.i3cAnswer [Status.retry] := by
  unfold State.memGo
  simp only [h, State.openRequest, hf]
theorem State.memGo_opens {t : State} (ht : s.openRequest true (.i3c rd) base n (if rd then none else some data) 0 0 = some t) :
    s.memGo rd a form n data = t := by
  unfold State.memGo
  simp only [h, ht]
end
end

/-! JTAG (R380, R387). -/

section
variable {s : State} {op : JtagOp} (hp : s.power.porReleased = true)
include hp

theorem exec_jtagInstruction (h : s.jtagLoads op = true) : exec (.jtagInstruction op) s = .next (s.jtagLoad op) := by
  show execJtagInstruction op s = _
  rw [execJtagInstruction, if_neg (by simp [hp]), if_pos h]
theorem exec_jtagInstruction_refused (h : s.jtagLoads op = false) : exec (.jtagInstruction op) s =
    .next (({ s with side := { s.side with jtag := .bypass, jtagOut := .none } } : State).logs Code.jtagRefused) := by
  show execJtagInstruction op s = _
  rw [execJtagInstruction, if_neg (by simp [hp]), if_neg (by simp [h])]
  rfl
end

/-- The instructions that cut the lands off. -/
theorem State.jtagLoads_cut (s : State) {op : JtagOp} (h : op ∈ [JtagOp.extest, .clamp, .highz]) :
    s.jtagLoads op = !s.power.mainPg ∧ s.jtagLoad op = { s with side := { s.side with jtag := op, jtagOut := .none } } := by
  simp only [List.mem_cons, List.not_mem_nil, or_false] at h
  rcases h with rfl | rfl | rfl <;> exact ⟨rfl, rfl⟩

/-- A bit of a number that is a sum of the powers of two of the links that have a property. -/
theorem getLsbD_sum_links (g : LinkId → Bool) (k : LinkId) :
    (BitVec.ofNat 6 ((allLinks.filter g).map (fun l => 2 ^ l.val)).sum).getLsbD k.val = g k := by
  revert g k
  decide

/-- The lands as SAMPLE/PRELOAD captures them. -/
theorem exec_samplePreload {s : State} (hp : s.power.porReleased = true) (p : Lands) :
    ∃ (t : State) (l : Lands), exec (.jtagInstruction (.samplePreload p)) s = .next t ∧
      t.side = { s.side with jtag := .samplePreload p, jtagOut := .lands l, boundary := p } ∧ t.log = s.log ∧ t.power = s.power ∧
      t.sram = s.sram ∧ l.perst = !s.power.perst ∧ l.alert = !s.power.alertPin ∧ l.mainPg = s.power.mainPg ∧
      ∀ k : LinkId, l.present.getLsbD k.val = !(s.link k).present :=
  ⟨_, _, exec_jtagInstruction hp rfl, rfl, rfl, rfl, rfl, rfl, rfl, rfl, fun k => getLsbD_sum_links (fun l => !(s.link l).present) k⟩

section
variable {s : State} (hp : s.power.porReleased = true)
include hp

theorem exec_internalDebug (x : DebugAccess) : exec (.jtagInstruction (.internalDebug x)) s = .next (if Config.isLX = true
    then ({ s with side := { s.side with jtag := .internalDebug x } } : State).debugAccess x
    else ({ s with side := { s.side with jtag := .bypass, jtagOut := .none } } : State).logs Code.jtagRefused) := by
  have hload : s.jtagLoads (.internalDebug x) = Config.isLX := rfl
  split
  · exact exec_jtagInstruction hp (hload.trans ‹_›)
  · exact exec_jtagInstruction_refused hp (hload.trans (Bool.eq_false_iff.2 ‹_›))
theorem exec_internalDebug_lx (hx : Config.isLX = true) (x : DebugAccess) : exec (.jtagInstruction (.internalDebug x)) s =
    .next (({ s with side := { s.side with jtag := .internalDebug x } } : State).debugAccess x) := by
  rw [exec_internalDebug hp, if_pos hx]
end

/-- Writing a map golden copy changes the partitions alone. -/
theorem State.writeGolden_eq (s : State) (h : Option PartId) (off : Nat) (bs : List Byte) :
    s.writeGolden h off bs = { s with parts := (s.writeGolden h off bs).parts } := by
  cases h <;> rfl
theorem State.writeGolden_parts {s t : State} (hp : t.parts = s.parts) (h : Option PartId) (off : Nat) (bs : List Byte) :
    (t.writeGolden h off bs).parts = (s.writeGolden h off bs).parts := by
  cases h with
  | none => exact hp
  | some p => simp only [State.writeGolden, State.modPart, hp]

theorem State.debugAccess_reserveWrite (s : State) (d : DieId) (part : ReservePart) (p : Option PartId) (w : Fin 33554432) (off : BitVec 28)
    (bs : List Byte) : ∃ u : State, u.parts = s.parts ∧ u.jobs = s.jobs ∧
      u.sram = { s.sram with reserve := s.sram.reserve.filter (fun e => !(e.die == d && w.val ≤ e.word && e.word < w.val + bs.length / 16)) } ∧
      s.debugAccess (.reserveWrite d part p w off bs) = (u.writeGolden (goldenHolder d part p) off.toNat bs).tdo .none :=
  ⟨s.modSram (fun m =>
    { m with reserve := m.reserve.filter (fun e => !(e.die == d && w.val ≤ e.word && e.word < w.val + bs.length / 16)) }), rfl, rfl, rfl, rfl⟩

/-! Attestation (R392, R416). -/

section
variable {s : State}

theorem State.spdm_on (h : s.hostLanes = true) (x : SpdmReply) : s.spdm x = .next { s with side := { s.side with spdm := x } } :=
  State.overHost_up _ h
theorem State.spdm_off (h : s.hostLanes = false) (x : SpdmReply) : s.spdm x = .next s := State.overHost_down _ h
/-- Without the PCIe lanes no request arrives. -/
theorem exec_spdm_off (h : s.hostLanes = false) {n : BitVec 256} {i : Byte} {row : Instr}
    (hr : row ∈ [Instr.getVersion, .getCapabilities, .negotiateAlgorithms, .getDigests, .getCertificate, .challenge n, .getMeasurements i]) :
    exec row s = .next s := by
  simp only [List.mem_cons, List.not_mem_nil, or_false] at hr
  rcases hr with rfl | rfl | rfl | rfl | rfl | rfl | rfl <;> exact State.spdm_off h _

section
variable (h : s.hostLanes = true) {i : Byte}
include h
theorem exec_getMeasurements : exec (.getMeasurements i) s = .next { s with side := { s.side with spdm :=
    (if !s.fwServes then .notReady
    else if 1 ≤ i.toNat && i.toNat ≤ 6 then .measurements i.toNat (s.block i.toNat)
    else .invalid) } } := State.spdm_on h _
variable (hf : s.fwServes = true)
include hf
theorem exec_getMeasurements_invalid (hi : i.toNat = 0 ∨ 6 < i.toNat) :
    exec (.getMeasurements i) s = .next { s with side := { s.side with spdm := .invalid } } := by
  have hno : ¬ (decide (1 ≤ i.toNat) && decide (i.toNat ≤ 6)) = true := by
    rw [Bool.and_eq_true, decide_eq_true_eq, decide_eq_true_eq]
    omega
  rw [exec_getMeasurements h, if_neg (by simp [hf]), if_neg hno]
theorem exec_getMeasurements_block (h1 : 1 ≤ i.toNat) (h6 : i.toNat ≤ 6) :
    exec (.getMeasurements i) s = .next { s with side := { s.side with spdm := .measurements i.toNat (s.block i.toNat) } } := by
  rw [exec_getMeasurements h, if_neg (by simp [hf]), if_pos (by simp [h1, h6])]
end
end

/-- Settles O58: each I3C command by its own lemma, MEM_READ and MEM_WRITE by `State.mem`, JTAG by `exec_jtagInstruction`, SPDM by
`State.spdm_on`. -/
theorem boardAndAttestationAnswer : Obligations.BoardAndAttestationAnswer := by
  refine ⟨fun s r hp hc hr => ⟨fun i => ?regRead, fun v => ?regWrite, fun i => ?sensor, fun n => ?log, ?links, fun v => ?reset,
      fun rd a form len data row hrow => ?mem⟩, fun s op x hp => ⟨fun h => ?loads, fun ho hm => ?refused⟩, fun s p hp => exec_samplePreload hp p,
    fun s hp => ⟨fun a n => exec_internalDebug hp _, fun a bs hb => ?write, fun d part p k off hx => ⟨fun n => ?reserveRead, fun bs => ?reserveWrite⟩,
      fun d bs n x hx ho => ?scan⟩, fun s n i hl row hrow => exec_spdm_off hl hrow, fun s r hl hr => ?spdm⟩
  case regRead =>
    obtain rfl : r = s.i3cAnswer := hr
    exact ⟨fun h => ⟨exec_i3cRegRead_bad hp hc h, fun v => by rw [exec_i3cRegWrite hp hc, if_pos h]; rfl⟩, exec_i3cRegRead hp hc,
      exec_i3cRegRead_unknown hp hc i⟩
  case regWrite =>
    have hlow : ∀ i : Byte, i.toNat ≤ 4 → exec (.i3cRegWrite i v) s = .next ((s.setPwr i.toNat v).i3cAnswer [0]) := fun i h =>
      (exec_i3cRegWrite hp hc i v).trans (congrArg _ (if_neg (Nat.not_lt.2 h)))
    refine ⟨fun h => ?_, fun h1 h2 hb => ?_, ?_⟩
    · exact (hlow 0 (by decide)).trans (by rw [← State.setPwr_limit_bad h]; rfl)
    · exact (hlow 0 (by decide)).trans (by rw [← State.setPwr_limit h1 h2 hb]; rfl)
    · exact (hlow 4 (by decide)).trans (by rw [← State.setPwr_alert]; rfl)
  case sensor =>
    obtain rfl : r = s.i3cAnswer := hr
    exact ⟨exec_sensorRead_bad hp hc, fun n h => exec_sensorRead hp hc h⟩
  case log =>
    obtain rfl : r = s.i3cAnswer := hr
    exact ⟨exec_i3cLogRead_bad hp hc, fun h => ⟨exec_i3cLogRead_empty hp hc h, fun e => exec_i3cLogRead_slot hp hc h⟩⟩
  case links =>
    obtain rfl : r = s.i3cAnswer := hr
    exact exec_linkStatus hp hc
  case reset =>
    refine ⟨fun hk => ?_, fun hk h2 => exec_i3cReset_cold hk hp hc h2, fun hk h2 h1 => ?_, fun hk h2 h1 h0 => ?_⟩
    · rw [exec_i3cReset_answered hp hc (.inl hk), State.setReset_unkeyed hk]
    · have hb2 : bit v 2 = false := h2
      have hb1 : bit v 1 = true := h1
      rw [exec_i3cReset_answered hp hc (.inr h2), State.setReset_keyed hk, hb2, hb1]
      rfl
    · have hb2 : bit v 2 = false := h2
      have hb1 : bit v 1 = false := h1
      have hb0 : bit v 0 = true := h0
      rw [exec_i3cReset_answered hp hc (.inr h2), State.setReset_keyed hk, hb2, hb1, hb0]
      rfl
  case mem =>
    obtain rfl : r = s.i3cAnswer := hr
    obtain ⟨bs, hbs, hrun⟩ := exec_mem hp hc hrow
    have hok := memOk_iff (rd := rd) (form := form) (len := len) (data := bs)
    have hlen : (rd = false → bs.length = len.toNat) ↔ (rd = false → data.length = len.toNat) :=
      forall_congr' fun hrd => by rw [hbs hrd]
    have hsent : (if rd then none else some bs) = if rd then none else some data := by
      cases rd
      · rw [hbs rfl]
      · rfl
    rw [hrun]
    refine ⟨fun hbad => congrArg _ (State.mem_bad (Bool.eq_false_iff.2 fun h => ?_)), fun h1 h2 h3 h4 h5 => ?_⟩
    · obtain ⟨h1, h2, h3, h4, h5⟩ := hok.1 h
      rcases hbad with h | h | h | h | ⟨hrd, h⟩
      · omega
      · omega
      · omega
      · exact h h4
      · exact h (hlen.1 h5 hrd)
    · have hgood := hok.2 ⟨h1, h2, h3, h4, hlen.2 h5⟩
      refine ⟨fun hm => congrArg _ (State.mem_unpowered hgood hm), fun hm hh => congrArg _ (State.mem_held hgood hm hh),
        fun hm hh hs hf => congrArg _ (State.mem_closed hgood hm hh hs hf),
        fun hm hh hs => ⟨_, congrArg _ (State.mem_switching hgood hm hh hs), rfl, List.length_append⟩, fun hm hs hf => ?_⟩
      rw [State.mem_goes hgood hm (State.out_of_fwServes hf) hs hf]
      refine ⟨fun hno => congrArg _ (State.memGo_invalid hno), fun base hb => ⟨fun hfull => congrArg _ (State.memGo_full hb hfull), fun hfree => ?_⟩⟩
      obtain ⟨t, ht⟩ := State.openRequest_opens (s := s.i3cAnswer []) hfree (.i3c rd) base len.toNat (if rd then none else some data) 0 0
      exact ⟨t, ht, congrArg _ (State.memGo_opens (s := s.i3cAnswer []) hb (by rw [hsent]; exact ht))⟩
  case loads =>
    rcases h with h | ⟨ho, rfl, hm⟩
    · simp only [List.mem_cons, List.not_mem_nil, or_false, Prod.mk.injEq] at h
      rcases h with ⟨rfl, rfl⟩ | ⟨rfl, rfl⟩
      · exact exec_jtagInstruction hp rfl
      · exact exec_jtagInstruction hp rfl
    · obtain ⟨hloads, hload⟩ := s.jtagLoads_cut ho
      rw [exec_jtagInstruction hp (by rw [hloads, hm]; rfl), hload]
  case refused =>
    obtain ⟨hloads, -⟩ := s.jtagLoads_cut ho
    exact exec_jtagInstruction_refused hp (by rw [hloads, hm]; rfl)
  case write =>
    have htake : bs.take (2 ^ 36 - a.toNat) = bs := List.take_of_length_le (by omega)
    rw [exec_internalDebug hp, State.debugAccess, htake]
    rfl
  case reserveRead =>
    exact ⟨_, _, exec_internalDebug_lx hp hx _, rfl, List.prefix_append _ _, rfl, rfl⟩
  case reserveWrite =>
    obtain ⟨u, hparts, hjobs, hsram, hu⟩ := State.debugAccess_reserveWrite
      { s with side := { s.side with jtag := .internalDebug (.reserveWrite d part p k off bs) } } d part p k off bs
    refine ⟨_, (exec_internalDebug_lx hp hx _).trans (congrArg _ hu), ?_⟩
    rw [State.writeGolden_eq]
    exact ⟨hsram, State.writeGolden_parts (s := s) hparts _ _ _, hjobs⟩
  case scan =>
    rcases ho with rfl | rfl
    · exact ⟨_, _, exec_internalDebug_lx hp hx _, rfl, fun _ => natLE_length _ _, nofun, rfl, rfl⟩
    · exact ⟨_, _, exec_internalDebug_lx hp hx _, rfl, nofun, fun _ => natLE_length _ _, rfl, rfl⟩
  case spdm =>
    obtain rfl : r = fun x => { s with side := { s.side with spdm := x } } := hr
    refine ⟨State.spdm_on hl _, State.spdm_on hl _, State.spdm_on hl _, State.spdm_on hl _, State.spdm_on hl _, fun n => State.spdm_on hl _,
      fun i => ⟨fun hf => ?_, fun hf => ⟨exec_getMeasurements_invalid hl hf, fun hi => ?_, fun hi => ?_, fun hi hk => ?_,
        fun h1 h6 => ⟨_, exec_getMeasurements_block hl hf h1 h6⟩⟩⟩⟩
    · rw [exec_getMeasurements hl, hf]; rfl
    · rw [hi]; exact exec_getMeasurements_block hl hf (by decide) (by decide)
    · rw [hi]; exact exec_getMeasurements_block hl hf (by decide) (by decide)
    · have hmap : s.mapBlock = List.replicate 48 0 := by rw [State.mapBlock, hk]; rfl
      rw [hi, ← hmap]; exact exec_getMeasurements_block hl hf (by decide) (by decide)

end Sys2Proof.Machine
end

section
/-! SUPPORT and the statement of the setup registers: the lock, the doorbell mode, bindings, slices and the package's place (R230, R238, R239,
R242, R273, R281, R393, R404, R409, R412). -/

namespace Sys2Proof.Machine

/-! SETUP_LOCK (R393, R404). -/

section
variable {s : State} {f : FnId}

theorem State.unlocked_locked (h : (s.fn f).setupLock = true) (g : State → State) : s.unlocked f g = s.logs Code.regLocked f.val := if_pos h
theorem State.unlocked_open (h : (s.fn f).setupLock = false) (g : State → State) : s.unlocked f g = g s := if_neg (Bool.eq_false_iff.1 h)

theorem State.setLock_locked (h : (s.fn f).setupLock = true) : s.setLock f = s.logs Code.regLocked f.val := if_pos h
theorem State.setLock_unplaced (h : (s.fn f).setupLock = false) (hf : f = 0) (hi : s.idsValid = false) :
    s.setLock f = s.logs Code.setupRejected := by
  have hc : (f == 0 && !s.idsValid) = true := by simp [hf, hi]
  exact (if_neg (Bool.eq_false_iff.1 h)).trans (if_pos hc)
theorem State.setLock_locks (h : (s.fn f).setupLock = false) (hi : f ≠ 0 ∨ s.idsValid = true) :
    s.setLock f = s.modFn f (fun x => { x with setupLock := true }) := by
  have hc : ¬ (f == 0 && !s.idsValid) = true := by rcases hi with hi | hi <;> simp [hi]
  exact (if_neg (Bool.eq_false_iff.1 h)).trans (if_neg hc)
end

/-! HIU_DBL_MODE: what the device does when it takes or gives up a function's lines (R281, R282). -/

/-- Taking a function's lines leaves its mode and window, its rings that are not enabled, and every other function. -/
structure State.LinesTaken (f : FnId) (t s : State) : Prop where
  mode : (t.fn f).dblMode = (s.fn f).dblMode
  root : (t.fn f).winRoot = (s.fn f).winRoot
  other : ∀ g : FnId, g ≠ f → t.fn g = s.fn g
  idle : ∀ n : RingIx, (s.fn f).sqs[n].enable = false → (t.fn f).sqs[n] = (s.fn f).sqs[n]

section
variable {f : FnId}

theorem State.LinesTaken.refl (s : State) : s.LinesTaken f s := ⟨rfl, rfl, fun _ _ => rfl, fun _ _ => rfl⟩
theorem State.LinesTaken.trans {t u s : State} (h : t.LinesTaken f u) (h' : u.LinesTaken f s) : t.LinesTaken f s where
  mode := h.mode.trans h'.mode
  root := h.root.trans h'.root
  other g hg := (h.other g hg).trans (h'.other g hg)
  idle n hn := (h.idle n (by rw [h'.idle n hn]; exact hn)).trans (h'.idle n hn)
/-- What is no function's does not matter. -/
theorem State.LinesTaken.of_fns {t s : State} (h : t.fns = s.fns) : t.LinesTaken f s := by
  have hfn : ∀ g, t.fn g = s.fn g := fun g => by rw [State.fn, h]; rfl
  exact ⟨by rw [hfn], by rw [hfn], fun g _ => hfn g, fun n _ => by rw [hfn]⟩
theorem State.LinesTaken.logs {t s : State} (h : t.LinesTaken f s) (c : W16) (v k : Nat) : (t.logs c v k).LinesTaken f s :=
  State.LinesTaken.trans (.of_fns (State.logs_fns t c v k)) h
theorem State.LinesTaken.ite {c : Prop} [Decidable c] {a b s : State} (ha : a.LinesTaken f s) (hb : b.LinesTaken f s) :
    (if c then a else b).LinesTaken f s := by
  split
  · exact ha
  · exact hb
theorem State.LinesTaken.foldl {α : Type} {F : State → α → State} (h : ∀ t x, (F t x).LinesTaken f t) (l : List α) (s : State) :
    (l.foldl F s).LinesTaken f s := by
  induction l generalizing s with
  | nil => exact .refl s
  | cons x l ih => exact (ih _).trans (h s x)

theorem State.modFn_linesTaken (s : State) (g : Function → Function) (hm : (g (s.fn f)).dblMode = (s.fn f).dblMode)
    (hr : (g (s.fn f)).winRoot = (s.fn f).winRoot)
    (hq : ∀ n : RingIx, (s.fn f).sqs[n].enable = false → (g (s.fn f)).sqs[n] = (s.fn f).sqs[n]) : (s.modFn f g).LinesTaken f s := by
  refine ⟨?_, ?_, fun k hk => State.modFn_fn_other _ _ _ _ hk.symm, fun n hn => ?_⟩
  · rw [State.modFn_fn, hm]
  · rw [State.modFn_fn, hr]
  · rw [State.modFn_fn, hq n hn]
theorem State.modSq_linesTaken {t s : State} {n : RingIx} (h : t.LinesTaken f s) (he : (s.fn f).sqs[n].enable = true) (g : Sq → Sq) :
    (t.modSq f n g).LinesTaken f s := by
  refine ⟨?_, ?_, fun k hk => ?_, fun m hm => ?_⟩
  · rw [State.modSq, State.modFn_fn]; exact h.mode
  · rw [State.modSq, State.modFn_fn]; exact h.root
  · rw [State.modSq, State.modFn_fn_other _ _ _ _ hk.symm]; exact h.other k hk
  · have hne : n ≠ m := fun hnm => by rw [hnm, hm] at he; cases he
    rw [State.modSq, State.modFn_fn]
    exact (vmod_other _ _ _ _ hne).trans (h.idle m hm)

section
variable (s : State) (n : RingIx)

theorem State.modCq_linesTaken (g : Cq → Cq) : (s.modCq f n g).LinesTaken f s := s.modFn_linesTaken _ rfl rfl fun _ _ => rfl
theorem State.shareLine_linesTaken (a : W64) : (s.shareLine f a).LinesTaken f s := by
  obtain ⟨hiu, h⟩ := s.shareLine_eq f a
  rw [h]; exact .of_fns rfl
theorem State.cqStatus_linesTaken : (s.cqStatus f n).LinesTaken f s := by
  obtain ⟨hiu, host, h⟩ := s.cqStatus_eq f n
  rw [h]; exact .of_fns rfl
theorem State.sqStatus_linesTaken : (s.sqStatus f n).LinesTaken f s := by
  obtain ⟨hiu, host, h⟩ := s.sqStatus_eq f n
  rw [h]; exact .of_fns rfl
theorem State.msix_linesTaken (v : Byte) : (s.msix f v).LinesTaken f s := by
  unfold State.msix
  split
  · exact s.modFn_linesTaken _ rfl rfl fun _ _ => rfl
  · exact .of_fns rfl
theorem State.putEntry_linesTaken (c : Completion) : (s.putEntry f n c).LinesTaken f s := by
  unfold State.putEntry
  extract_lets q k head ws a written fire counted shown
  have hshown : shown.LinesTaken f s := (counted.cqStatus_linesTaken n).trans ((written.modCq_linesTaken n _).trans (.of_fns rfl))
  exact .ite ((shown.msix_linesTaken _).trans hshown) hshown
theorem State.drainCq_linesTaken (k : Nat) : (s.drainCq f n k).LinesTaken f s := by
  induction k generalizing s with
  | zero => exact .refl s
  | succ k ih =>
    unfold State.drainCq
    extract_lets q
    split
    · exact .ite ((State.cqStatus_linesTaken _ n).trans (s.modCq_linesTaken n _)) (.refl s)
    · exact .ite ((ih _).trans ((State.putEntry_linesTaken _ n _).trans (s.modCq_linesTaken n _))) (.refl s)
theorem State.readSqLine_linesTaken : (s.readSqLine f n).LinesTaken f s := by
  unfold State.readSqLine
  extract_lets q same failed shared
  by_cases he : q.enable = true
  · have hread (b : Bool) : (s.modSq f n (fun q => { q with readFail := b })).LinesTaken f s := State.modSq_linesTaken (.refl s) he _
    have hfailed : failed.LinesTaken f s := State.modSq_linesTaken (hread true) he _
    have hshared : shared.LinesTaken f s := (State.shareLine_linesTaken _ _).trans (hread false)
    rw [if_neg (by simp [he])]
    split
    · exact .ite hfailed (hfailed.logs _ _ _)
    · extract_lets seen tailed
      have hseen : seen.LinesTaken f s := State.modSq_linesTaken hshared he _
      have htailed : tailed.LinesTaken f s := State.modSq_linesTaken hseen he _
      exact .ite (State.modSq_linesTaken hshared he _) (.ite hseen (.ite ((State.sqStatus_linesTaken _ n).trans
        ((State.modSq_linesTaken htailed he _).logs _ _ _)) htailed))
  · rw [if_pos (by simpa using he)]
    exact .refl s
theorem State.readCqLine_linesTaken : (s.readCqLine f n).LinesTaken f s := by
  unfold State.readCqLine
  extract_lets q same failed shared
  have hfailed : failed.LinesTaken f s := (State.modCq_linesTaken _ n _).trans (s.modCq_linesTaken n _)
  have hshared : shared.LinesTaken f s := (State.shareLine_linesTaken _ _).trans (s.modCq_linesTaken n _)
  refine .ite (.refl s) ?_
  split
  · exact .ite hfailed (hfailed.logs _ _ _)
  · exact .ite ((State.modCq_linesTaken _ n _).trans hshared)
      ((State.drainCq_linesTaken _ n _).trans ((State.modCq_linesTaken _ n _).trans hshared))
theorem State.checkFallback_linesTaken : (s.checkFallback f).LinesTaken f s := by
  unfold State.checkFallback
  extract_lets fb log marked
  have hmarked : marked.LinesTaken f s := s.modFn_linesTaken _ rfl rfl fun _ _ => rfl
  exact .ite (hmarked.logs _ _ _) hmarked
theorem State.takeLines_linesTaken : (s.takeLines f).LinesTaken f s := by
  unfold State.takeLines
  extract_lets checked
  refine State.LinesTaken.trans ?_ s.checkFallback_linesTaken
  exact .ite (.foldl (fun t n => (State.readCqLine_linesTaken _ n).trans (t.readSqLine_linesTaken n)) _ _) (.of_fns rfl)
end

/-- Without snoop mode the device gives the lines up. -/
theorem State.takeLines_dropped {s : State} (h : s.snoops f = false) : s.takeLines f = (s.checkFallback f).dropLines := by
  have hs : (s.checkFallback f).snoops f = false := by
    have hhiu : (s.checkFallback f).hiu = s.hiu := by unfold State.checkFallback; dsimp only; split <;> rfl
    rw [← h, State.snoops, State.snoops, hhiu, s.checkFallback_linesTaken.mode]
  exact if_neg (Bool.eq_false_iff.1 hs)
theorem State.checkFallback_rings (s : State) (f : FnId) : ((s.checkFallback f).fn f).sqs = (s.fn f).sqs ∧
    ((s.checkFallback f).fn f).cqs = (s.fn f).cqs := by
  have hm : ∀ b, ((s.modFn f (fun x => { x with fallbackLogged := b })).fn f) = { s.fn f with fallbackLogged := b } := fun b =>
    State.modFn_fn ..
  unfold State.checkFallback
  dsimp only
  split
  · rw [State.logs_fn, hm]; exact ⟨rfl, rfl⟩
  · rw [hm]; exact ⟨rfl, rfl⟩
theorem State.checkFallback_log {s : State} (h : (s.fn f).dblMode = false) : (s.checkFallback f).log = s.log := by
  simp [State.checkFallback, h]
theorem State.dropLines_lines (s : State) : s.dropLines.hiu.lines = s.dropLines.hiu.lines.filter (fun x => s.dropLines.lineNamed x.1) := by
  have hnamed : ∀ a, s.dropLines.lineNamed a = s.lineNamed a := fun _ => rfl
  simp only [hnamed]
  rw [State.dropLines, State.modHiu_hiu, List.filter_filter]
  simp only [Bool.and_self]
end

section
variable {s : State} {f : FnId} {b : Bool} (hk : (s.fn f).setupLock = false)
include hk

theorem State.setDblMode_same (h : (s.fn f).dblMode = b) : s.setDblMode f b = s :=
  (State.unlocked_open hk _).trans (if_pos (by simp [h]))

/-- The mode of a function is set, before its lines are taken or given up. -/
def State.moded (s : State) (f : FnId) (b : Bool) : State := s.modFn f (fun x => { x with dblMode := b, fallbackLogged := false })

theorem State.setDblMode_changes (h : (s.fn f).dblMode ≠ b) : s.setDblMode f b = (s.moded f b).takeLines f :=
  (State.unlocked_open hk _).trans (if_neg (by simpa using h))
end
theorem State.moded_fn (s : State) (f : FnId) (b : Bool) : (s.moded f b).fn f = { s.fn f with dblMode := b, fallbackLogged := false } :=
  State.modFn_fn ..
theorem State.moded_snoops {s : State} {f : FnId} {b : Bool} (h : b = false ∨ s.hiu.cxlCache = false ∨ s.hiu.port ≠ .up) :
    (s.moded f b).snoops f = false := by
  rw [State.snoops, State.moded_fn]
  rcases h with h | h | h
  · simp [h]
  · have hc : (s.moded f b).hiu.cxlCache = false := h
    simp [hc]
  · have hp : (s.moded f b).hiu.port ≠ .up := h
    simp [hp]

/-! HIU_BINDp (R238, R273, R409). -/

theorem distinct_iff_nodup {α : Type} [DecidableEq α] (l : List α) : distinct l = true ↔ l.Nodup := by
  induction l with
  | nil => simp [distinct]
  | cons x l ih => simp [distinct, ih]
theorem bindSlots_eq (v : W32) : bindSlots v =
    ([v.toNat % 64, v.toNat / 2 ^ 8 % 64, v.toNat / 2 ^ 16 % 64, v.toNat / 2 ^ 24 % 64]).filter (· ≠ 0) := by
  simp only [bindSlots, fld_eq, Nat.pow_zero, Nat.div_one]
  exact List.filter_congr fun n _ => by by_cases h : n = 0 <;> simp [h]

section
variable {s : State} {p : PartId} {v : W32}

/-- A write of HIU_BINDp that the rules refuse. -/
def State.bindBad (s : State) (p : PartId) (v : W32) : Prop :=
  (∃ n ∈ bindSlots v, 32 < n) ∨ ¬ (bindSlots v).Nodup ∨
    ((s.part p).shown ≠ .marks ∧ ∃ f : FnId, (s.part p).owner = some f ∧ f ≠ 0 ∧ f.val ∉ bindSlots v)

theorem State.setBind_cond : ((bindSlots v).any (32 < ·) || !distinct (bindSlots v) || ((s.part p).shown != .marks && (match (s.part p).owner with
    | some f => f != 0 && !(bindSlots v).contains f.val
    | none => false))) = true ↔ s.bindBad p v := by
  have hdrop : (match (s.part p).owner with
      | some f => f != 0 && !(bindSlots v).contains f.val
      | none => false) = true ↔ ∃ f : FnId, (s.part p).owner = some f ∧ f ≠ 0 ∧ f.val ∉ bindSlots v := by
    cases (s.part p).owner <;> simp
  rw [Bool.or_eq_true, Bool.or_eq_true, Bool.and_eq_true, hdrop, Bool.not_eq_true', ← Bool.not_eq_true, distinct_iff_nodup, or_assoc,
    State.bindBad]
  simp
theorem State.setBind_bad (h : s.bindBad p v) : s.setBind p v = s.logs Code.setupRejected := if_pos (State.setBind_cond.2 h)
theorem State.setBind_binds (h : ¬ s.bindBad p v) :
    s.setBind p v = s.modHiu (fun h => { h with bind := vset h.bind p (v &&& 0x3F3F3F3F) }) := if_neg fun hc => h (State.setBind_cond.1 hc)
end

/-! PLAN_SLICEn (R239, R242). -/

section
variable {s : State} {n : Fin 8} {v : W64}

theorem State.setSlice_used (h : ∃ j ∈ s.jobs, n ∈ j.slices) : s.setSlice n v = s.logs Code.sliceInUse := by
  have hc : s.jobs.any (fun j => j.slices.contains n) = true := by simpa using h
  exact if_pos hc
section
variable (h : ∀ j ∈ s.jobs, n ∉ j.slices)
include h
theorem State.setSlice_free : s.setSlice n v = if sliceValid (v &&& 0xBF0000FFFF001FFF) && !s.sliceOk (v &&& 0xBF0000FFFF001FFF) then
    s.logs Code.setupRejected else s.modMgt (fun m => { m with slices := vset m.slices n (v &&& 0xBF0000FFFF001FFF) }) := by
  have hc : ¬ s.jobs.any (fun j => j.slices.contains n) = true := by simpa using h
  exact if_neg hc
theorem State.setSlice_bad (hv : sliceValid (v &&& 0xBF0000FFFF001FFF) = true) (ho : s.sliceOk (v &&& 0xBF0000FFFF001FFF) = false) :
    s.setSlice n v = s.logs Code.setupRejected :=
  (State.setSlice_free h).trans (if_pos (by rw [hv, ho]; rfl))
theorem State.setSlice_sets (hw : sliceValid (v &&& 0xBF0000FFFF001FFF) = false ∨ s.sliceOk (v &&& 0xBF0000FFFF001FFF) = true) :
    s.setSlice n v = s.modMgt (fun m => { m with slices := vset m.slices n (v &&& 0xBF0000FFFF001FFF) }) := by
  refine (State.setSlice_free h).trans (if_neg ?_)
  rcases hw with hw | hw
  · rw [hw, Bool.false_and]
    exact Bool.false_ne_true
  · rw [hw, Bool.not_true, Bool.and_false]
    exact Bool.false_ne_true
end
end

/-! Installation registers (R230, R233, R412). -/

theorem fld_mask {n : Nat} {v m : BitVec n} {hi lo : Nat} (h : ∀ i < hi + 1 - lo, m.getLsbD (lo + i) = true) :
    fld (v &&& m) hi lo = fld v hi lo := by
  refine Nat.eq_of_testBit_eq fun i => ?_
  simp only [fld, nbits, Nat.testBit_mod_two_pow, Nat.testBit_shiftRight, BitVec.toNat_and, Nat.testBit_and]
  by_cases hi' : i < hi + 1 - lo
  · have hm : m.toNat.testBit (lo + i) = true := h i hi'
    simp [hi', hm]
  · simp [hi']
theorem bit_mask {n : Nat} {v m : BitVec n} {i : Nat} (h : m.getLsbD i = true) : bit (v &&& m) i = v.getLsbD i := by
  rw [bit, BitVec.getLsbD_and, h, Bool.and_true]

theorem State.setChipId_eq (s : State) (v : W32) : s.setChipId v = s.setInstall s.mgt.chipId (v &&& 0x80001FFF)
    (!(v.getLsbD 31) || (s.topoValid && s.inExtents (v.setWidth 13))) (fun m => { m with chipId := v &&& 0x80001FFF }) := by
  rw [State.setChipId, bit_mask (v := v) (by decide), fld_mask (v := v) (by decide), ofNat_fld_low v 12]
theorem State.setTopology_eq (s : State) (v : W32) : s.setTopology v = s.setInstall s.mgt.topology (v &&& 0x8F3F1F1F)
    (!(v.getLsbD 31) || (extentOk (v.toNat % 32) 16 && extentOk (v.toNat / 2 ^ 8 % 32) 16 && extentOk (v.toNat / 2 ^ 16 % 64) 32
      && decide (v.toNat / 2 ^ 24 % 16 < v.toNat % 32))) (fun m => { m with topology := v &&& 0x8F3F1F1F }) := by
  have hx : fld (v &&& 0x8F3F1F1F) 4 0 = v.toNat % 32 := (fld_mask (by decide)).trans (fld_low v 4)
  have hy : fld (v &&& 0x8F3F1F1F) 12 8 = v.toNat / 2 ^ 8 % 32 := (fld_mask (by decide)).trans (fld_eq v 12 8)
  have hz : fld (v &&& 0x8F3F1F1F) 21 16 = v.toNat / 2 ^ 16 % 64 := (fld_mask (by decide)).trans (fld_eq v 21 16)
  have ht : fld (v &&& 0x8F3F1F1F) 27 24 = v.toNat / 2 ^ 24 % 16 := (fld_mask (by decide)).trans (fld_eq v 27 24)
  rw [State.setTopology, bit_mask (v := v) (by decide), hx, hy, hz, ht]

section
variable {s : State}

theorem State.installBusy_iff : s.installBusy = true ↔ ∃ p : PartId, (s.part p).shown ∈ [PState.set, .run, .hold, .parked] := by
  rw [State.installBusy, Vector.toList_eq_finRange, List.any_map, List.any_eq_true]
  constructor
  · rintro ⟨p, -, hp⟩
    exact ⟨p, by simpa [or_assoc, State.part] using hp⟩
  · rintro ⟨p, hp⟩
    exact ⟨p, List.mem_finRange p, by simpa [or_assoc, State.part] using hp⟩

variable {old new : W32} {ok : Bool} {g : Mgt → Mgt}

theorem State.setInstall_locked (h : (s.fn 0).setupLock = true) : s.setInstall old new ok g = s.logs Code.regLocked :=
  State.unlocked_locked h _
section
variable (h : (s.fn 0).setupLock = false)
include h
theorem State.setInstall_same (he : new = old) : s.setInstall old new ok g = s :=
  (State.unlocked_open h _).trans (if_pos (by simp [he]))
theorem State.setInstall_bad (he : new ≠ old) (hb : ok = false ∨ ∃ p : PartId, (s.part p).shown ∈ [PState.set, .run, .hold, .parked]) :
    s.setInstall old new ok g = s.logs Code.setupRejected := by
  refine (State.unlocked_open h _).trans ((if_neg (by simpa using he)).trans ?_)
  cases ok with
  | false => rfl
  | true => exact if_pos (State.installBusy_iff.2 (hb.resolve_left (by simp)))
theorem State.setInstall_takes (he : new ≠ old) (hok : ok = true) (hb : ∀ p : PartId, (s.part p).shown = .marks ∨ (s.part p).shown = .faulted) :
    s.setInstall old new ok g = allLinks.foldl (fun s l => s.checkPeer l) (s.modMgt g).reidentify := by
  have hfree : ¬ s.installBusy = true := fun hbusy => by
    obtain ⟨p, hp⟩ := State.installBusy_iff.1 hbusy
    rcases hb p with hm | hm <;> simp [hm] at hp
  refine (State.unlocked_open h _).trans ((if_neg (by simpa using he)).trans ?_)
  rw [hok]
  exact if_neg hfree
end
end

/-! A link of a package without a job goes down (R216, R217): the package's place and the stages of the other links stay. -/

/-- The place of a package, the stages of its links, and its jobs. -/
def State.site (s : State) : (W32 × W32 × W32) × (LinkId → Stage) × List Job :=
  ((s.mgt.topology, s.mgt.chipId, s.mgt.machineId), fun l => (s.link l).stage, s.jobs)
theorem State.site_of {t s : State} (hm : t.mgt = s.mgt) (hi : t.inside = s.inside) : t.site = s.site := by
  obtain ⟨-, hjobs, hlinks, -⟩ := State.inside_eq hi
  simp only [State.site, State.link, hm, hjobs, hlinks]
theorem State.site_jobs {t s : State} (h : t.site = s.site) : t.jobs = s.jobs := congrArg (·.2.2) h

/-- Steps that keep the site of a package without a job keep it together. -/
theorem foldl_site {α : Type} {f : State → α → State} (l : List α) {s : State} (hs : s.jobs = [])
    (h : ∀ t x, t.jobs = [] → (f t x).site = t.site) : (l.foldl f s).site = s.site := by
  induction l generalizing s with
  | nil => rfl
  | cons x l ih =>
    have hx := h s x hs
    rw [List.foldl_cons, ih ((State.site_jobs hx).trans hs), hx]

section
variable {s : State}

theorem State.modLink_site (l : LinkId) {g : Link → Link} (h : ∀ k, (g k).stage = k.stage) : (s.modLink l g).site = s.site := by
  refine congrArg (fun x => (_, x, _)) (funext fun m => ?_)
  by_cases hm : l = m
  · subst hm; rw [State.modLink_link, h]
  · rw [State.modLink_link_other _ _ _ _ hm]
theorem State.completeWith_site (d : Desc) (a : Ans) (bs : List Byte) : (s.completeWith d a bs).site = s.site :=
  State.site_of (State.laid_mgt (s.completeWith_laid d a bs)) (s.completeWith_inside d a bs)
theorem State.winWrite_site (root : W64) (k off : Nat) (bs : List Byte) : (s.winWrite root k off bs).1.site = s.site := by
  induction k generalizing s off bs with
  | zero => rw [State.winWrite_zero]
  | succ k ih =>
    by_cases hb : bs = []
    · rw [hb, State.winWrite_nil]
    · cases h : s.walk root off bs.length true with
      | fail f => rw [State.winWrite_fail hb h]
      | page a n => rw [State.winWrite_page hb h]; exact ih _ _
theorem ite_site {c : Prop} [Decidable c] {a b : State} (ha : a.site = s.site) (hb : b.site = s.site) : (if c then a else b).site = s.site := by
  split
  · exact ha
  · exact hb
theorem State.finishMgmt_site (d : Desc) (rd : Bool) (st : Byte) (y : Bool) (bs : List Byte) : (s.finishMgmt d rd st y bs).site = s.site := by
  unfold State.finishMgmt
  split
  · exact State.completeWith_site ..
  next o _ =>
    have hw := s.winWrite_site o.root bs.length (o.offset.toNat + 64) bs
    generalize s.winWrite o.root bs.length (o.offset.toNat + 64) bs = w at hw ⊢
    obtain ⟨u, moved, cut⟩ := w
    refine ite_site ?_ rfl
    cases cut <;> exact hw

section
variable (hj : s.jobs = [])
include hj

theorem State.job?_vacant (id : Nat) : s.job? id = none := by rw [State.job?, hj]; rfl
theorem State.jobOf_vacant (p : PartId) : s.jobOf p = none := by
  rw [State.jobOf]
  cases (s.part p).job with
  | none => rfl
  | some id => exact State.job?_vacant hj id
theorem State.jobFault_vacant (id : Nat) (c : W16) (r : Loc) : s.jobFault id c r = s := by
  unfold State.jobFault
  simp only [State.job?_vacant hj]
theorem State.partJobFault_vacant (p : PartId) (c : W16) (r : Loc) : s.partJobFault p c r = s := by
  unfold State.partJobFault
  split
  · exact State.jobFault_vacant hj ..
  · rfl
theorem State.settle_vacant (p : PartId) : s.settle p = s := by
  unfold State.settle
  simp only [State.jobOf_vacant hj, ite_self]
theorem State.listEnd_vacant (p : PartId) (t : Fin 32) : s.listEnd p t = s := by
  unfold State.listEnd
  simp only [State.jobOf_vacant hj]
theorem State.pushOr_site (p : PartId) (t : Fin 32) (n : Fin 64) (e : QEntry) (r : Loc) : (s.pushOr p t n e r).site = s.site := by
  unfold State.pushOr
  split
  · rfl
  · rw [State.partJobFault_vacant hj]
theorem State.postAll_site (p : PartId) (i : Issued) (mk : W16 → Nat → QEntry) (r : Loc) : (s.postAll p i mk r).site = s.site := by
  refine foldl_site _ hj fun t b ht => ?_
  split
  · rfl
  · exact State.pushOr_site ht ..
theorem State.retire_site (p : PartId) (i : Issued) (mk : W16 → Nat → QEntry) (e : Nat) : (s.retire p i mk e).site = s.site := by
  unfold State.retire
  extract_lets consumed posted
  have hposted : posted.site = s.site := State.postAll_site (s := consumed) hj ..
  have hpj : posted.jobs = [] := (State.site_jobs hposted).trans hj
  split
  · rw [State.listEnd_vacant (s := posted.modPart _ _) hpj]
    exact hposted
  · exact hposted
theorem State.retire_settle_site (p : PartId) (i : Issued) (mk : W16 → Nat → QEntry) (e : Nat) :
    ((s.retire p i mk e).settle p).site = s.site := by
  have h := State.retire_site hj p i mk e
  rw [State.settle_vacant ((State.site_jobs h).trans hj), h]
theorem State.finishRequest_site (r : Request) (x : Bool) : (s.finishRequest r x).site = s.site := by
  unfold State.finishRequest
  extract_lets taken bs told place
  have htold : told.site = s.site := ite_site (s := taken) rfl rfl
  have hends (p : PartId) (i : Issued) (mk : W16 → Nat → QEntry) : ((taken.retire p i mk 6).settle p).site = s.site :=
    State.retire_settle_site (s := taken) hj p i mk 6
  have hfault (p : PartId) (c : W16) (l : Loc) : (taken.partJobFault p c l).site = s.site := by
    rw [State.partJobFault_vacant (s := taken) hj]
    rfl
  split
  split
  · split
    · exact hfault ..
    · exact ite_site (hfault ..) (ite_site (hends ..) (ite_site (hends ..) (hends ..)))
  · exact (State.finishMgmt_site ..).trans htold
  · exact (State.finishMgmt_site ..).trans htold
  · exact ite_site (hfault ..) rfl
  · exact htold
end

theorem State.unitLeaves_site (u : RingUnit) : (s.unitLeaves u).site = s.site := by
  unfold State.unitLeaves
  split
  · unfold State.freeBuffer
    split
    · rfl
    · exact State.modLink_site _ fun k => by split <;> rfl
  · rfl
theorem State.answerDown_site (l : LinkId) (c : Cell) : (s.answerDown l c).site = s.site := by
  unfold State.answerDown
  extract_lets a out src
  exact ite_site rfl (ite_site rfl rfl)
end

/-- The stages when a link has gone down. -/
def stagesDown (st : LinkId → Stage) (l : LinkId) : LinkId → Stage := fun m => if m = l then .down else st m

section
variable {s : State} (hj : s.jobs = [])
include hj

theorem State.linkDrop_site (l : LinkId) : (s.linkDrop l).site = (s.site.1, stagesDown s.site.2.1 l, []) := by
  unfold State.linkDrop
  extract_lets gone lost rs left cleared dropped answered
  have hleft : left.site = s.site := foldl_site _ hj fun t u _ => t.unitLeaves_site u
  have hcleared : cleared.site = s.site := hleft
  have hdropped : dropped.site = (s.site.1, stagesDown s.site.2.1 l, []) := by
    rw [← hcleared, ← hj, ← State.site_jobs hcleared]
    refine congrArg (fun x => (_, x, _)) (funext fun m => ?_)
    by_cases hm : m = l
    · subst hm
      rw [State.modLink_link, stagesDown, if_pos rfl]
      rfl
    · rw [State.modLink_link_other _ _ _ _ (Ne.symm hm), stagesDown, if_neg hm]
      rfl
  have hnone : dropped.jobs = [] := congrArg (·.2.2) hdropped
  have hanswered : answered.site = dropped.site := foldl_site _ hnone fun t c _ => t.answerDown_site l c
  rw [← hdropped, ← hanswered]
  exact foldl_site _ ((State.site_jobs hanswered).trans hnone) fun t r ht => State.finishRequest_site ht _ _
theorem State.linkLost_site (l : LinkId) (k : Link) : (s.linkLost l k).site = s.site := by
  have howner : s.ownerRun l = none := by cases ho : (s.link l).owner <;> simp [State.ownerRun, State.job?, hj, ho]
  unfold State.linkLost
  simp only [hj, howner, List.filter_nil, List.foldl_nil, Option.filter_none]
  refine ite_site ?_ rfl
  simp only [State.domainFault, hj, List.filter_nil, List.map_nil, List.foldl_nil]
  exact State.site_of (State.logs_mgt ..) (State.logs_inside ..)
theorem State.linkDown_site (l : LinkId) (c : W16) : (s.linkDown l c).site = (s.site.1, stagesDown s.site.2.1 l, []) := by
  unfold State.linkDown
  extract_lets vf
  have hlogged : (s.logs c vf (linkPlace l)).site = s.site := State.site_of (State.logs_mgt ..) (State.logs_inside ..)
  have hdrop := State.linkDrop_site ((State.site_jobs hlogged).trans hj) l
  rw [hlogged] at hdrop
  rw [State.linkLost_site (congrArg (·.2.2) hdrop :), hdrop]
end

/-! The links train again (R412). -/

/-- A link that has come as far as IDENTIFY goes down. -/
def Stage.placed : Stage → Stage
  | .identify | .train | .check | .up | .miswired | .fault => .down
  | st => st

/-- One link's part of `State.reidentify`. -/
def State.reidentify1 (s : State) (l : LinkId) : State :=
  if (s.link l).stage.placed = (s.link l).stage then s
  else (s.modLink l (fun k => { k with chipUnsetLogged := false })).linkDown l Code.linkReset

theorem State.reidentify_eq (s : State) : s.reidentify = allLinks.foldl State.reidentify1 s := by
  unfold State.reidentify
  congr 1
  funext t l
  unfold State.reidentify1
  cases h : (t.link l).stage <;> rfl
theorem Stage.placed_cases (st : Stage) : st.placed = st ∨ st.placed = .down := by cases st <;> simp [Stage.placed]
theorem State.reidentify1_site {s : State} (hj : s.jobs = []) (l : LinkId) :
    (s.reidentify1 l).site = (s.site.1, fun m => if m = l then (s.site.2.1 m).placed else s.site.2.1 m, []) := by
  unfold State.reidentify1
  split
  case isTrue h =>
    refine Prod.ext rfl (Prod.ext (funext fun m => ?_) hj)
    by_cases hm : m = l
    · subst hm; exact (h.symm.trans (if_pos rfl).symm :)
    · exact (if_neg hm).symm
  case isFalse h =>
    have hkept : (s.modLink l (fun k => { k with chipUnsetLogged := false })).site = s.site := State.modLink_site l fun _ => rfl
    rw [State.linkDown_site ((State.site_jobs hkept).trans hj), hkept]
    refine congrArg (fun x => (_, x, _)) (funext fun m => ?_)
    by_cases hm : m = l
    · subst hm
      rw [stagesDown, if_pos rfl, if_pos rfl]
      exact ((Stage.placed_cases _).resolve_left h).symm
    · rw [stagesDown, if_neg hm, if_neg hm]
theorem State.reidentify_fold (ls : List LinkId) (hn : ls.Nodup) {s : State} (hj : s.jobs = []) :
    (ls.foldl State.reidentify1 s).site = (s.site.1, fun m => if m ∈ ls then (s.site.2.1 m).placed else s.site.2.1 m, []) := by
  induction ls generalizing s with
  | nil =>
    rw [List.foldl_nil, ← hj]
    rfl
  | cons l ls ih =>
    obtain ⟨hl, hn⟩ := List.nodup_cons.1 hn
    have h1 := State.reidentify1_site hj l
    rw [List.foldl_cons, ih hn (congrArg (·.2.2) h1 :), h1]
    refine congrArg (fun x => (_, x, _)) (funext fun m => ?_)
    by_cases hm : m = l
    · subst hm; simp [hl]
    · simp [hm]
theorem State.reidentify_site {s : State} (hj : s.jobs = []) : s.reidentify.site = (s.site.1, fun l => (s.site.2.1 l).placed, []) := by
  rw [State.reidentify_eq, State.reidentify_fold _ nodup_allLinks hj]
  simp only [mem_allLinks, if_true]
theorem State.checkPeer_site (s : State) (l : LinkId) : (s.checkPeer l).site = s.site := by
  unfold State.checkPeer
  extract_lets e n bad noted
  have hnoted : noted.site = s.site := State.modLink_site l fun _ => rfl
  exact ite_site rfl (ite_site ((State.site_of (State.hand_mgt ..) (State.hand_inside ..)).trans hnoted) hnoted)

/-- Settles O56: each register by its own lemma; the last clause by what `State.reidentify` makes of the stages (`State.reidentify_site`). -/
theorem setupRegistersFollowTheLockAndTheirRanges : Obligations.SetupRegistersFollowTheLockAndTheirRanges := by
  refine ⟨fun s f p n b v w hl row hrow => ?lanes, fun s f hl => ⟨fun h => ?locked, fun h => ⟨fun hi => ?unplaced, fun hi => ?locks⟩, fun b => ?mode⟩,
    fun s p v hl => ?bind, fun s n v hl => ?slice, fun s row new old ok g v hl hrow => ?install⟩
  case lanes =>
    simp only [List.mem_cons, List.not_mem_nil, or_false] at hrow
    rcases hrow with rfl | rfl | rfl | rfl | rfl | rfl | rfl
    · exact State.overHost_down (·.setLock f) hl
    · exact State.overHost_down (·.setDblMode f b) hl
    · exact State.overHost_down (·.setBind p v) hl
    · exact State.overHost_down (·.commitWide 0 (BitVec.ofNat 20 (0x11000 + 8 * n.val)) (.slice n) w) hl
    · exact State.overHost_down (·.setTopology v) hl
    · exact State.overHost_down (·.setChipId v) hl
    · exact State.overHost_down (·.setMachineId v) hl
  case locked => exact (State.overHost_up (·.setLock f) hl).trans (congrArg _ (State.setLock_locked h))
  case unplaced => exact (State.overHost_up (·.setLock f) hl).trans (congrArg _ (State.setLock_unplaced h hi.1 hi.2))
  case locks => exact (State.overHost_up (·.setLock f) hl).trans (congrArg _ (State.setLock_locks h hi))
  case mode =>
    have hrun : exec (.hiuDblMode f b) s = .next (s.setDblMode f b) := State.overHost_up (·.setDblMode f b) hl
    rw [hrun]
    refine ⟨fun h => congrArg _ (State.unlocked_locked h _), fun h hs => congrArg _ (State.setDblMode_same h hs), fun h hne => ?_⟩
    obtain ⟨hmode, hroot, hother, hidle⟩ := (s.moded f b).takeLines_linesTaken (f := f)
    rw [State.moded_fn] at hmode hroot hidle
    refine ⟨_, congrArg _ (State.setDblMode_changes h hne), hmode, hroot,
      fun g hg => (hother g hg).trans (State.modFn_fn_other _ _ _ _ hg.symm), hidle, fun hoff => ?_, fun hb => ?_⟩
    · obtain ⟨hsqs, hcqs⟩ := (s.moded f b).checkFallback_rings f
      rw [State.moded_fn] at hsqs hcqs
      rw [State.takeLines_dropped (State.moded_snoops hoff)]
      exact ⟨hsqs, hcqs⟩
    · rw [State.takeLines_dropped (State.moded_snoops (.inl hb))]
      exact ⟨State.checkFallback_log (by rw [State.moded_fn]; exact hb), State.dropLines_lines _⟩
  case bind =>
    have hrun : exec (.hiuBind p v) s = .next (s.setBind p v) := State.overHost_up (·.setBind p v) hl
    intro slots
    have hslots : bindSlots v = slots := bindSlots_eq v
    rw [hrun]
    refine ⟨fun h => congrArg _ (State.setBind_bad ?_), fun h32 hn ho => congrArg _ (State.setBind_binds ?_)⟩
    · rw [State.bindBad, hslots]; exact h
    · rw [State.bindBad, hslots]
      rintro (⟨n, hm, hlt⟩ | hd | ⟨hm, f, hf, h0, hnot⟩)
      · exact absurd (h32 n hm) (Nat.not_le.2 hlt)
      · exact hd hn
      · rcases ho with ho | ho
        · exact hm ho
        · exact (ho f hf).elim h0 hnot
  case slice =>
    intro w
    have hrun : exec (.planSlice n v) s = .next (s.commitWide 0 (BitVec.ofNat 20 (0x11000 + 8 * n.val)) (.slice n) v) :=
      State.overHost_up (·.commitWide 0 (BitVec.ofNat 20 (0x11000 + 8 * n.val)) (.slice n) v) hl
    rw [hrun, State.commitWide_eq]
    exact ⟨_, _, heldAt_cons _ _ _ _, rfl, fun hu => congrArg _ (State.setSlice_used (s := s.modMgt _) hu),
      fun hfree => ⟨fun hv ho => congrArg _ (State.setSlice_bad (s := s.modMgt _) hfree hv ho),
        fun hgood => congrArg _ (State.setSlice_sets (s := s.modMgt _) hfree hgood)⟩⟩
  case install =>
    have hrun : exec row s = .next (s.setInstall old new ok g) := by
      simp only [Prod.mk.injEq] at hrow
      rcases hrow with ⟨rfl, rfl, rfl, rfl, rfl⟩ | ⟨rfl, rfl, rfl, rfl, rfl⟩ | ⟨rfl, rfl, rfl, rfl, rfl⟩
      · exact State.overHost_up (·.setMachineId new) hl
      · exact (State.overHost_up (·.setChipId v) hl).trans (congrArg _ (s.setChipId_eq v))
      · exact (State.overHost_up (·.setTopology v) hl).trans (congrArg _ (s.setTopology_eq v))
    rw [hrun]
    refine ⟨fun h => congrArg _ (State.setInstall_locked h), fun h => ⟨fun he => congrArg _ (State.setInstall_same h he),
      fun he hb => congrArg _ (State.setInstall_bad h he hb), fun he hok hb hj => ⟨_, congrArg _ (State.setInstall_takes h he hok hb), ?_⟩⟩⟩
    have hre := State.reidentify_site (s := s.modMgt g) hj
    have hsite := (foldl_site allLinks (congrArg (·.2.2) hre :) fun t l _ => t.checkPeer_site l).trans hre
    obtain ⟨hplace, hrest⟩ := Prod.ext_iff.1 hsite
    have hstage : ∀ l : LinkId, ((allLinks.foldl (fun s l => s.checkPeer l) (s.modMgt g).reidentify).link l).stage = (s.link l).stage.placed :=
      fun l => congrFun (Prod.ext_iff.1 hrest).1 l
    refine ⟨congrArg Prod.fst hplace, congrArg (·.2.1) hplace, congrArg (·.2.2) hplace, fun l hl => ?_, fun l hl => ?_⟩
    · rw [hstage]
      simp only [List.mem_cons, List.not_mem_nil, or_false] at hl
      rcases hl with h | h | h | h <;> rw [h] <;> rfl
    · rw [hstage]
      simp only [List.mem_cons, List.not_mem_nil, or_false] at hl
      rcases hl with h | h | h | h | h | h <;> rw [h] <;> rfl

end Sys2Proof.Machine
end

section
/-! SUPPORT and the statement of the warm reset of the package and the reset of the Management Complex (R353, R358, R405, R61, Table 15-4). -/

namespace Sys2Proof.Machine

/-! Which partitions are to be scrubbed before they are zeroed: what ends with the host or with a link leaves that. -/

/-- Is a partition to be scrubbed before it is zeroed? -/
def State.scrub (s : State) (p : PartId) : Bool := (s.part p).scrubFirst

theorem State.scrub_of_inside {s t : State} (h : t.inside = s.inside) : t.scrub = s.scrub :=
  funext fun p => congrArg (·.scrubFirst) (State.part_of_inside h p)
theorem State.PartsFault.scrub {t s : State} (h : t.PartsFault s) : t.scrub = s.scrub := by
  funext p
  rcases h.part p with hp | ⟨c, hp⟩ <;> rw [State.scrub, hp] <;> rfl

section
variable (s : State)

theorem State.modPart_scrub (p : PartId) {f : Partition → Partition} (h : ∀ q, (f q).scrubFirst = q.scrubFirst) :
    (s.modPart p f).scrub = s.scrub := by
  funext q
  by_cases hpq : p = q
  · subst hpq
    rw [State.scrub, State.modPart_part, h, State.scrub]
  · rw [State.scrub, State.modPart_part_other _ _ _ _ hpq, State.scrub]
@[simp] theorem State.scrub_upd (pending power boot clock log mgt pace sram jobs units seqTurn pe links infield hiu fns host svc side fresh) :
    State.scrub ⟨pending, power, boot, clock, log, mgt, pace, sram, s.parts, jobs, units, seqTurn, pe, links, infield, hiu, fns, host, svc, side,
      fresh⟩ = s.scrub := rfl
@[simp] theorem State.modJob_scrub (id : Nat) (f) : (s.modJob id f).scrub = s.scrub := rfl
@[simp] theorem State.modLink_scrub (l : LinkId) (f) : (s.modLink l f).scrub = s.scrub := rfl
@[simp] theorem State.modFn_scrub (n : FnId) (f) : (s.modFn n f).scrub = s.scrub := rfl
@[simp] theorem State.modHiu_scrub (f) : (s.modHiu f).scrub = s.scrub := rfl
@[simp] theorem State.modSvc_scrub (f) : (s.modSvc f).scrub = s.scrub := rfl
@[simp] theorem State.modMgt_scrub (f) : (s.modMgt f).scrub = s.scrub := rfl
@[simp] theorem State.modBoot_scrub (f) : (s.modBoot f).scrub = s.scrub := rfl
@[simp] theorem State.modInfield_scrub (f) : (s.modInfield f).scrub = s.scrub := rfl
@[simp] theorem State.modLog_scrub (f) : (s.modLog f).scrub = s.scrub := rfl
@[simp] theorem State.logs_scrub (c : W16) (v k : Nat) : (s.logs c v k).scrub = s.scrub := rfl
@[simp] theorem State.logAt_scrub (c : W16) (v : Nat) (r : Loc) : (s.logAt c v r).scrub = s.scrub := rfl
@[simp] theorem State.dropLines_scrub : s.dropLines.scrub = s.scrub := rfl
@[simp] theorem State.complete_scrub (d : Desc) (a : Ans) : (s.complete d a).scrub = s.scrub := State.scrub_of_inside (by simp)
@[simp] theorem State.completeWith_scrub (d : Desc) (a : Ans) (bs : List Byte) : (s.completeWith d a bs).scrub = s.scrub :=
  State.scrub_of_inside (by simp)
@[simp] theorem State.jobFaultQuiet_scrub (id : Nat) (c : W16) : (s.jobFaultQuiet id c).scrub = s.scrub := (s.jobFaultQuiet_partsFault id c).scrub
@[simp] theorem State.jobFaultCore_scrub (j : Job) (c : W16) : (s.jobFaultCore j c).scrub = s.scrub := (s.jobFaultWith_partsFault j c c none).scrub

/-! A command ends, with its posts or with a fault of its job. -/

@[simp] theorem State.jobFault_scrub (id : Nat) (c : W16) (r : Loc) : (s.jobFault id c r).scrub = s.scrub := by
  unfold State.jobFault; (repeat' split) <;> simp
@[simp] theorem State.partJobFault_scrub (p : PartId) (c : W16) (r : Loc) : (s.partJobFault p c r).scrub = s.scrub := by
  unfold State.partJobFault; split <;> simp
@[simp] theorem State.pushOr_scrub (p t n e r) : (s.pushOr p t n e r).scrub = s.scrub := by
  unfold State.pushOr
  split
  · exact s.modPart_scrub p fun _ => rfl
  · simp
@[simp] theorem State.postAll_scrub (p i mk r) : (s.postAll p i mk r).scrub = s.scrub := by
  refine foldl_keeps State.scrub (fun t b => ?_) _ _
  split <;> simp
@[simp] theorem State.listCheck_scrub (p n g) : (s.listCheck p n g).scrub = s.scrub := by
  unfold State.listCheck; dsimp only; (repeat' split) <;> simp
@[simp] theorem State.settle_scrub (p) : (s.settle p).scrub = s.scrub := by
  unfold State.settle
  split
  · rfl
  split
  · rfl
  split
  · simp
  split
  · simp
  refine foldl_keeps State.scrub (fun t g => ?_) _ _
  split <;> simp
theorem State.modList_scrub (p t f) : (s.modPart p (fun q => q.modList t f)).scrub = s.scrub := s.modPart_scrub p fun _ => rfl
@[simp] theorem State.listEnd_scrub (p t) : (s.listEnd p t).scrub = s.scrub := by
  unfold State.listEnd
  dsimp only
  (repeat' split) <;> simp [State.modList_scrub]
theorem Partition.consume_scrubFirst (q : Partition) (t : Fin 32) (rs : List BatonRef) : (q.consume t rs).scrubFirst = q.scrubFirst := by
  unfold Partition.consume
  induction rs generalizing q with
  | nil => rfl
  | cons r rs ih => exact ih (q.pop t (refQueue r))
@[simp] theorem State.retire_scrub (p i mk e) : (s.retire p i mk e).scrub = s.scrub := by
  have hc : (s.modPart p (fun q => q.consume i.cmd.tile i.cmd.waits)).scrub = s.scrub := s.modPart_scrub p fun q => q.consume_scrubFirst _ _
  unfold State.retire
  dsimp only
  split <;> simp [State.modList_scrub, hc]

/-! A link goes down. -/

theorem State.winWrite_scrub (root : W64) (n : Nat) (s : State) (off : Nat) (bs : List Byte) : (s.winWrite root n off bs).1.scrub = s.scrub := by
  induction n generalizing s off bs with
  | zero => cases bs <;> rfl
  | succ n ih =>
    cases bs with
    | nil => rfl
    | cons b bs =>
      unfold State.winWrite
      split
      · rfl
      · exact (ih ..).trans rfl
@[simp] theorem State.winFault_scrub (f c) : (s.winFault f c).scrub = s.scrub := rfl
@[simp] theorem State.finishMgmt_scrub (d r st y bs) : (s.finishMgmt d r st y bs).scrub = s.scrub := by
  unfold State.finishMgmt
  dsimp only
  (repeat' split) <;> simp [State.winWrite_scrub]
@[simp] theorem State.finishRequest_scrub (r x) : (s.finishRequest r x).scrub = s.scrub := by
  unfold State.finishRequest
  dsimp only
  (repeat' split) <;> simp
@[simp] theorem State.unitLeaves_scrub (u) : (s.unitLeaves u).scrub = s.scrub := by
  unfold State.unitLeaves State.freeBuffer
  (repeat' split) <;> rfl
@[simp] theorem State.answerDown_scrub (l c) : (s.answerDown l c).scrub = s.scrub := State.scrub_of_inside (by simp)
theorem State.linkDrop_scrub (l : LinkId) : (s.linkDrop l).scrub = s.scrub := by
  unfold State.linkDrop
  extract_lets gone lost rs left cleared dropped answered
  have hleft : left.scrub = s.scrub := foldl_keeps State.scrub (fun t u => t.unitLeaves_scrub u) _ _
  have hanswered : answered.scrub = s.scrub := (foldl_keeps State.scrub (fun t c => t.answerDown_scrub l c) _ _).trans hleft
  exact (foldl_keeps State.scrub (fun t r => t.finishRequest_scrub _ false) _ _).trans hanswered

/-! A function returns to reset, and the host link is lost. -/

@[simp] theorem State.rezero_scrub (ps : List PartId) : (s.rezero ps).scrub = s.scrub :=
  foldl_keeps State.scrub (fun t p => t.modPart_scrub p fun q => by split <;> rfl) _ _
@[simp] theorem State.fwAbandon_scrub : s.fwAbandon.scrub = s.scrub := by
  unfold State.fwAbandon; split <;> rfl
theorem State.fwFetch_scrub (root : W64) (off len : Nat) : (s.fwFetch root off len).1.scrub = s.scrub := by
  rcases s.fwFetch_state root off len with h | ⟨c, h⟩ <;> rw [h]
  rfl
@[simp] theorem State.keepWait_scrub (x : HeaderWait) : (s.keepWait x).scrub = s.scrub := by unfold State.keepWait; split <;> rfl
@[simp] theorem State.endWait_scrub (u : HeaderUser) : (s.endWait u).scrub = s.scrub := rfl
@[simp] theorem State.fwReject_scrub (st : Byte) : (s.fwReject st).scrub = s.scrub := rfl
theorem State.winMismatch_scrub (f : FnId) : (s.winMismatch f).scrub = s.scrub := by
  rw [State.winMismatch, State.logRate_eq]
  rfl
@[simp] theorem State.fwRead_scrub (root off : W64) : (s.fwRead root off).scrub = s.scrub := by
  unfold State.fwRead
  dsimp only
  split
  · rfl
  split
  · rfl
  split
  · rfl
  split
  · exact s.winMismatch_scrub 0
  split <;> next heq => exact (congrArg (fun x => x.1.scrub) heq).symm.trans (s.fwFetch_scrub ..)
@[simp] theorem State.fwProceed_scrub : s.fwProceed.scrub = s.scrub := by
  unfold State.fwProceed
  dsimp only
  (repeat' split) <;> simp
@[simp] theorem State.dropDescs_scrub (f : FnId) : (s.dropDescs f).scrub = s.scrub := by
  unfold State.dropDescs
  extract_lets ds queues abandoned mgt infield svc
  have ha : abandoned.scrub = s.scrub := by
    unfold abandoned
    split
    · split
      · exact (State.rezero_scrub ..).trans rfl
      · rfl
    · rfl
  exact ha
@[simp] theorem State.parksCut_scrub (f : FnId) : (s.parksCut f).scrub = s.scrub := by
  unfold State.parksCut
  refine foldl_keeps State.scrub (fun t x => ?_) _ _
  exact foldl_keeps State.scrub (fun u p => (u.modPart_partsFault p _).scrub) x.left t
@[simp] theorem State.hostResetJobs_scrub (f : FnId) : (s.hostResetJobs f).scrub = s.scrub :=
  foldl_keeps State.scrub (fun t id => (t.logs Code.jobHostReset f.val).jobFaultQuiet_scrub id _) _ _
@[simp] theorem State.fnReset_scrub (f : FnId) : (s.fnReset f).scrub = s.scrub := by simp [State.fnReset]
@[simp] theorem State.functionReset_scrub (f : FnId) : (s.functionReset f).scrub = s.scrub := by
  unfold State.functionReset
  extract_lets reset tx both
  rw [State.fwProceed_scrub]
  have hreset : reset.scrub = s.scrub := (foldl_keeps State.scrub State.fnReset_scrub _ _).trans s.fwAbandon_scrub
  unfold both
  split
  · exact ((State.modHiu_scrub ..).trans (State.modSvc_scrub ..)).trans hreset
  · exact s.fnReset_scrub f
theorem State.hostReset_scrub : s.hostReset.scrub = s.scrub := by
  unfold State.hostReset
  split <;> simp [State.hostLost]
theorem State.i3cUnitReset_scrub : s.i3cUnitReset.scrub = s.scrub := by
  unfold State.i3cUnitReset
  split <;> rfl
end

/-! Every job faults (R362). -/

/-- After the clearing of the job, its fault touches no job. -/
theorem State.jobFaultWith_jobs (s : State) (j : Job) (c cell : W16) (but : Option LinkId) :
    (s.jobFaultWith j c cell but).jobs = (s.cleared j c).jobs := by
  unfold State.jobFaultWith
  extract_lets live spills spilled faulted jobEnded unowned cleared aborted closed parked answered told streams
  have haborted : aborted.inside = (s.cleared j c).inside := by
    unfold aborted
    split
    · exact State.sendAborts_inside ..
    · rfl
  have hclosed : closed.inside = (s.cleared j c).inside := by simpa [closed] using haborted
  have hparked : parked.jobs = closed.jobs := by
    unfold parked State.parkCut
    refine (foldl_keeps State.jobs (fun t u => ?_) _ _).trans rfl
    refine (State.inside_eq (State.complete_inside ..)).2.1.trans ?_
    exact foldl_keeps State.jobs (fun v p => (rfl : (v.modPart p _).jobs = _)) u.left t
  have htold : told.inside = parked.inside := by
    unfold told answered
    cases j.startDesc <;> cases j.startDone <;> simp
  obtain ⟨f, hf⟩ := streams.leaveDomain_eq
  rw [hf]
  exact ((State.inside_eq htold).2.1.trans hparked).trans (State.inside_eq hclosed).2.1
theorem State.jobFaultQuiet_faulted {s : State} {j : Job} {p : PartId} (c : W16) (hp : (s.part p).job = some j.id)
    (hj : s.job? j.id = some j) (hf : j.phase ≠ .faulted) : ((s.jobFaultQuiet j.id c).part p).st = .faulted := by
  have hq : s.jobFaultQuiet j.id c = s.jobFaultWith j c c none := by simp [State.jobFaultQuiet, hj, hf, State.jobFaultCore]
  have hc : ((s.cleared j c).part p).st = .faulted := by rw [State.cleared_part, if_pos hp]; rfl
  rw [hq]
  rcases (s.jobFaultWith_partsFault_cleared j c c none).part p with h | ⟨d, h⟩ <;> rw [h]
  · exact hc
  · rfl
theorem State.modJob_job?_other (s : State) {id n : Nat} {f : Job → Job} (hf : ∀ j, (f j).id = j.id) (hn : n ≠ id) :
    (s.modJob id f).job? n = s.job? n := by
  simp only [State.job?, State.modJob, List.find?_map]
  have hp : ((fun j : Job => j.id == n) ∘ fun j => if (j.id == id) = true then f j else j) = fun j => j.id == n := by
    funext j
    simp only [Function.comp_apply]
    split <;> simp [hf]
  rw [hp]
  cases hj : s.jobs.find? (fun j => j.id == n) with
  | none => rfl
  | some j =>
    have hid : j.id = n := State.job?_id hj
    exact congrArg some (if_neg (by simpa [hid] using hn))
theorem State.cleared_job?_other (s : State) (j : Job) (c : W16) {n : Nat} (hn : n ≠ j.id) : (s.cleared j c).job? n = s.job? n := by
  obtain ⟨ks, hs⟩ := s.spillsLost_eq j
  rw [State.cleared, hs]
  exact State.modJob_job?_other s (f := (·.cutOff c)) (fun _ => rfl) hn
theorem State.jobFaultQuiet_job?_other {s : State} {id n : Nat} (c : W16) (hn : n ≠ id) : (s.jobFaultQuiet id c).job? n = s.job? n := by
  unfold State.jobFaultQuiet
  split
  · rfl
  next j hj =>
    split
    · rfl
    have hjobs : (s.jobFaultCore j c).jobs = (s.cleared j c).jobs := s.jobFaultWith_jobs ..
    rw [State.job?, hjobs]
    exact s.cleared_job?_other j c (State.job?_id hj ▸ hn)
/-- The part of a partition that faulted, or that a job among those to fault holds. -/
theorem State.faults_part {j : Job} {p : PartId} (c : W16) (ids : List Nat) {s : State} (hf : j.phase ≠ .faulted)
    (h : (s.part p).st = .faulted ∨ (s.part p).job = some j.id ∧ s.job? j.id = some j ∧ j.id ∈ ids) :
    ((ids.foldl (fun s id => s.jobFaultQuiet id c) s).part p).st = .faulted := by
  induction ids generalizing s with
  | nil => simpa using h
  | cons id ids ih =>
    refine ih ?_
    rcases (s.jobFaultQuiet_partsFault id c).part p with hq | ⟨d, hq⟩
    swap
    · exact .inl (by rw [hq]; rfl)
    rcases h with h | ⟨hp, hj, hm⟩
    · exact .inl (by rw [hq, h])
    by_cases hid : j.id = id
    · subst hid
      exact .inl (State.jobFaultQuiet_faulted c hp hj hf)
    · exact .inr ⟨by rw [hq, hp], by rw [State.jobFaultQuiet_job?_other c hid, hj], (List.mem_cons.1 hm).resolve_left hid⟩
theorem State.faultJobs_scrub {s : State} {j : Job} {p : PartId} (c : W16) (hp : (s.part p).job = some j.id) (hj : s.job? j.id = some j)
    (hf : j.phase ≠ .faulted) (hs : (s.part p).st ≠ .faulted) : (s.faultJobs c).scrub p = true := by
  have hmem : j.id ∈ s.jobs.map (·.id) := List.mem_map_of_mem (List.mem_of_find?_eq_some hj)
  have hst := State.faults_part c (s.jobs.map (·.id)) hf (.inr ⟨hp, hj, hmem⟩)
  have hpart : (s.faultJobs c).part p = { ((s.jobs.map (·.id)).foldl (fun s id => s.jobFaultQuiet id c) s).part p with scrubFirst := true } := by
    refine (Vector.getElem_ofFn p.isLt).trans (if_pos ?_)
    exact Bool.and_eq_true_iff.2 ⟨beq_iff_eq.2 hst, bne_iff_ne.2 hs⟩
  rw [State.scrub, hpart]

/-! A warm reset (R353, R405, Table 15-4). -/

theorem State.unitEpoch_eq {s t : State} (hu : t.units.epochs = s.units.epochs) (hm : t.mgt.epoch = s.mgt.epoch) (u : UnitId) :
    t.unitEpoch u = s.unitEpoch u := by
  cases u <;> simp only [State.unitEpoch, hu, hm]
theorem State.i3cUnitReset_standing (s : State) : s.i3cUnitReset.standing = s.standing := by
  unfold State.i3cUnitReset
  split <;> rfl
theorem State.hostReset_standing (s : State) : s.hostReset.standing = s.standing := by
  unfold State.hostReset
  split <;> simp
theorem State.faultJobs_standing (s : State) (c : W16) : (s.faultJobs c).standing = s.standing := by
  refine Eq.trans ?_ (foldl_standing _ (s.jobs.map (·.id)) s fun t id => t.jobFaultQuiet_standing id c)
  rfl

/-- The state in which every job has faulted, the host's functions are at reset, and every link that ran is down. -/
def State.warmDown (s : State) : State :=
  allLinks.foldl (fun s l => if (s.link l).stage == .off then s else s.linkDrop l)
    ((s.logs Code.warmReset).faultJobs Code.warmReset).i3cUnitReset.hostReset
/-- A link at its reset begins to listen, or is off. -/
def State.relisten (s : State) (l : LinkId) : State := (s.modLink l Link.warm).listenOrOff l

theorem State.warmReset_eq (s : State) : s.warmReset = allLinks.foldl State.relisten s.warmDown.zeroAll.warmClear := rfl
theorem State.warmDown_standing (s : State) : s.warmDown.standing = s.standing := by
  refine (foldl_standing _ _ _ fun t l => ?_).trans
    ((State.hostReset_standing _).trans ((State.i3cUnitReset_standing _).trans ((State.faultJobs_standing _ _).trans (s.logs_standing _ _ _))))
  split
  · rfl
  · exact t.linkDrop_standing l
theorem State.warmDown_scrub (s : State) : s.warmDown.scrub = ((s.logs Code.warmReset).faultJobs Code.warmReset).scrub := by
  refine (foldl_keeps State.scrub (fun t l => ?_) _ _).trans ((State.hostReset_scrub _).trans (State.i3cUnitReset_scrub _))
  split
  · rfl
  · exact t.linkDrop_scrub l

theorem State.relisten_links (s : State) (l : LinkId) : ∃ ks, s.relisten l = { s with links := ks } := by
  obtain ⟨ks, hks⟩ := (s.modLink l Link.warm).listenOrOff_links l
  exact ⟨ks, hks⟩
theorem State.relisten_up (s : State) (l : LinkId) : (s.relisten l).up l = false := by
  unfold State.relisten State.listenOrOff State.up
  split <;> rw [State.modLink_link] <;> rfl
theorem State.relisten_up_other (s : State) {l m : LinkId} (h : l ≠ m) : (s.relisten l).up m = s.up m := by
  unfold State.relisten State.listenOrOff State.up
  split <;> rw [State.modLink_link_other _ _ _ _ h, State.modLink_link_other _ _ _ _ h]
/-- Links that are taken down one after another are down. -/
theorem foldl_relisten_up {m : LinkId} (ls : List LinkId) {s : State} (h : s.up m = false ∨ m ∈ ls) : (ls.foldl State.relisten s).up m = false := by
  induction ls generalizing s with
  | nil => simpa using h
  | cons l ls ih =>
    refine ih ?_
    by_cases hl : l = m
    · subst hl
      exact .inl (s.relisten_up l)
    · rw [State.relisten_up_other s hl]
      exact h.imp_right fun hm => (List.mem_cons.1 hm).resolve_left (Ne.symm hl)

/-- What a warm reset leaves. -/
structure State.WarmLeaves (t s : State) : Prop where
  jobs : t.jobs = []
  parts : ∀ p : PartId, (t.part p).st = .marks ∧ (t.part p).zeroing = true
  units : ∀ u : UnitId, t.inHold u = true ∧ t.unitEpoch u = s.unitEpoch u
  scrub : ∀ (p : PartId) (j : Job), (s.part p).job = some j.id → s.job? j.id = some j → j.phase ≠ .faulted → (s.part p).st ≠ .faulted →
    (t.part p).scrubFirst = true
  fns : ∀ f : FnId, t.fn f = Function.reset
  bind : t.hiu.bind = Vector.replicate 8 0
  links : ∀ l : LinkId, t.up l = false
  fwOffset : t.boot.fwOffset = 0

/-- A package that is cleared, its links down, is as a warm reset leaves it. -/
theorem State.warmClear_leaves {s v t : State} {ks : Vector Link 6} (ht : t = { v.zeroAll.warmClear with links := ks })
    (hv : v.standing = s.standing) (hup : ∀ l, t.up l = false)
    (hscrub : ∀ (p : PartId) (j : Job), (s.part p).job = some j.id → s.job? j.id = some j → j.phase ≠ .faulted → (s.part p).st ≠ .faulted →
      v.scrub p = true) : t.WarmLeaves s := by
  subst ht
  obtain ⟨hunits, hepoch, -⟩ := State.standing_eq hv
  have hpart : ∀ p, State.part { v.zeroAll.warmClear with links := ks } p = (v.part p).leave .marks := v.zeroAll_part
  refine ⟨rfl, fun p => ?parts, fun u => ⟨?hold, State.unitEpoch_eq (congrArg (·.epochs) hunits) hepoch u⟩, fun p j hp hj hf hs => ?scrub,
    fun f => Vector.getElem_replicate .., rfl, hup, rfl⟩
  case parts =>
    rw [hpart]
    exact ⟨rfl, rfl⟩
  case hold => simp [State.inHold, State.warmClear, mem_allUnits]
  case scrub =>
    rw [hpart]
    exact hscrub p j hp hj hf hs
theorem State.warmReset_leaves (s : State) : s.warmReset.WarmLeaves s := by
  obtain ⟨ks, hks⟩ := foldl_changes_links State.relisten_links allLinks s.warmDown.zeroAll.warmClear
  rw [s.warmReset_eq]
  refine State.warmClear_leaves hks s.warmDown_standing (fun l => foldl_relisten_up allLinks (.inr (mem_allLinks l))) fun p j hp hj hf hs => ?_
  rw [s.warmDown_scrub]
  exact State.faultJobs_scrub Code.warmReset hp hj hf hs

/-! A reset of the Management Complex (R358, Table 15-4). -/

/-- What an answer of the Management Complex leaves: HOLD, its own state, and the descriptors that wait at it. -/
def State.mcSide (s : State) : Units × Mgt × List Desc := (s.units, s.mgt, s.hiu.mcQueue)
theorem State.complete_mcSide (s : State) (d : Desc) (a : Ans) : (s.complete d a).mcSide = s.mcSide := by
  have hfield : (s.complete d a).field.1 = s.field.1 := by rw [s.complete_field]
  have hmgt : (s.complete d a).mgt = s.mgt := State.laid_mgt (s.completeWith_laid d a [])
  obtain ⟨hunits, -, -⟩ := State.standing_eq (s.complete_standing d a)
  obtain ⟨-, -, -, hqueue, -⟩ := State.field_eq hfield
  rw [State.mcSide, hunits, hmgt, hqueue, State.mcSide]
theorem State.zshReply_mcSide (s : State) (r : ZshRequest) (e bs : List Byte) : (s.zshReply r e bs).mcSide = s.mcSide :=
  foldl_keeps State.mcSide (fun t _ => (rfl : (t.sendFrame ..).mcSide = _)) _ _
theorem State.zshUnitReset_mcSide (s : State) : s.zshUnitReset.mcSide = s.mcSide :=
  (foldl_keeps State.mcSide (fun t r => t.zshReply_mcSide r _ []) _ _).trans rfl
theorem State.zshUnitReset_none {s : State} (h : s.svc.requests = []) : ∃ svc, s.zshUnitReset = { s with svc := svc } := by
  have hnone : s.svc.requests.filter (fun r => !r.taken) = [] := by rw [h]; rfl
  unfold State.zshUnitReset
  dsimp only
  rw [hnone]
  exact ⟨_, rfl⟩

/-- The state with another log and other plots. -/
def State.withRows (s : State) (log : TroubleLog) (sram : Sram) : State := { s with log := log, sram := sram }
theorem State.withRows_eq {s t : State} (h : ∀ log sram, t.withRows log sram = s.withRows log sram) : t = s.withRows t.log t.sram :=
  h t.log t.sram

section
variable (s : State) (log : TroubleLog) (sram : Sram)
theorem State.retireRow_withRows (d row vf r) : (s.retireRow d row vf r).withRows log sram = s.withRows log sram := by
  obtain ⟨⟨l, m, h⟩, -⟩ := s.retireRow_rows d row vf r
  rw [h]
  rfl
theorem State.correctWord_withRows (k row d vf r) : (s.correctWord k row d vf r).withRows log sram = s.withRows log sram := by
  unfold State.correctWord
  extract_lets counted noted
  have hnoted : noted.withRows log sram = s.withRows log sram := by
    unfold noted
    split <;> rfl
  split
  · exact (State.retireRow_withRows ..).trans hnoted
  · exact hnoted
/-- The recovery reserve's errors are met in the log and in the reserve. -/
theorem State.useRecovery_withRows (d : DieId) : (s.useRecovery d).withRows log sram = s.withRows log sram := by
  unfold State.useRecovery
  refine foldl_keeps (State.withRows · log sram) (fun t x => ?_) _ _
  cases x.err
  · exact (State.correctWord_withRows ..).trans rfl
  · exact (State.retireRow_withRows ..).trans rfl
end

/-! What it had taken up is dropped. -/

/-- The partitions that a PARK has not reached are zeroed. -/
def State.parkZeroed (s : State) (t : ResetTask) : State :=
  if t.parked.isSome then t.left.foldl (fun s p => if (s.part p).zeroing then s else s.modPart p (·.leave .marks)) s else s
/-- The partitions of a load under way are zeroed again. -/
def State.loadZeroed (s : State) : State :=
  match s.mgt.task with
  | some k => s.rezero k.parts
  | none => s
/-- The partitions of the load and of the PARKs that a reset of the Management Complex ends are zeroed. -/
def State.mcZeroed (s : State) : State := s.loadZeroed.mgt.unloads.foldl State.parkZeroed s.loadZeroed
/-- The Management Complex in HOLD. -/
def State.mcHeld (s : State) : State := if s.inHold .managementComplex then s else s.enterHold .managementComplex
/-- The tables of the Management Complex without what it had taken up. -/
def State.mcDropped (s : State) : State :=
  let t := (s.modMgt (fun m => { m with task := none, loadHeld := none, unloads := [], restarting := true })).i3cUnitReset.modInfield (fun i =>
    { i with
      requests := i.requests.filter (fun r => match r.owner with | .putGet .. | .plot _ => true | _ => false) })
  { t with jobs := t.jobs.map (fun j : Job => if j.startDesc.isSome then { j with startDesc := none, startDone := true } else j) }
/-- The subscriber of the log and the streams of the service ports are ended. -/
def State.mcSilent (s : State) : State :=
  s.modSvc (fun v =>
    { v with
      subscriber := none
      streams := v.streams.map (fun o : Option OutStream => o.map (fun t : OutStream =>
        if t.stop.isNone then { t with stop := some Status.unitReset } else t)) })

theorem foldl_changes_parts {α : Type} {f : State → α → State} (h : ∀ s x, ∃ ps, f s x = { s with parts := ps }) (xs : List α) :
    ∀ s, ∃ ps, xs.foldl f s = { s with parts := ps } := by
  induction xs with
  | nil => exact fun s => ⟨s.parts, rfl⟩
  | cons x xs ih =>
    intro s
    obtain ⟨ps, hx⟩ := h s x
    obtain ⟨qs, hs⟩ := ih (f s x)
    exact ⟨qs, by rw [List.foldl_cons, hs, hx]⟩
theorem State.loadZeroed_parts (s : State) : ∃ ps, s.loadZeroed = { s with parts := ps } := by
  unfold State.loadZeroed
  split
  · exact foldl_changes_parts (fun _ _ => ⟨_, rfl⟩) _ s
  · exact ⟨s.parts, rfl⟩
theorem State.parkZeroed_parts (s : State) (x : ResetTask) : ∃ ps, s.parkZeroed x = { s with parts := ps } := by
  unfold State.parkZeroed
  split
  · refine foldl_changes_parts (fun t p => ?_) x.left s
    split
    · exact ⟨t.parts, rfl⟩
    · exact ⟨_, rfl⟩
  · exact ⟨s.parts, rfl⟩
theorem State.mcZeroed_parts (s : State) : ∃ ps, s.mcZeroed = { s with parts := ps } := by
  obtain ⟨ps, hps⟩ := s.loadZeroed_parts
  obtain ⟨qs, hqs⟩ := foldl_changes_parts State.parkZeroed_parts s.loadZeroed.mgt.unloads s.loadZeroed
  exact ⟨qs, by rw [State.mcZeroed, hqs, hps]⟩
theorem State.mcZeroed_none {s : State} (ht : s.mgt.task = none) (hu : s.mgt.unloads = []) : s.mcZeroed = s := by
  have hload : s.loadZeroed = s := by rw [State.loadZeroed, ht]
  rw [State.mcZeroed, hload, hu]
  rfl
/-- The Management Complex comes into HOLD, and no other unit; the log and the plots apart, nothing else changes. -/
theorem State.mcHeld_changes (s : State) : ∃ log sram units, s.mcHeld = { s with log := log, sram := sram, units := units } ∧
    units.epochs = s.units.epochs ∧ ∀ u, u ∈ units.hold ↔ u = .managementComplex ∨ u ∈ s.units.hold := by
  unfold State.mcHeld
  split
  · next h =>
    refine ⟨s.log, s.sram, s.units, rfl, rfl, fun u => ⟨.inr, ?_⟩⟩
    rintro (rfl | hu)
    · simpa [State.inHold] using h
    · exact hu
  · have hrows := State.withRows_eq fun log sram => s.useRecovery_withRows log sram (unitDie .managementComplex)
    unfold State.enterHold
    rw [hrows]
    exact ⟨_, _, _, rfl, rfl, fun u => List.mem_cons⟩
theorem State.mcDropped_changes (s : State) : ∃ side infield jobs, s.mcDropped = { s with
    mgt := { s.mgt with task := none, loadHeld := none, unloads := [], restarting := true }, side := side, infield := infield, jobs := jobs } ∧
    ((∀ j ∈ s.jobs, j.startDesc = none) → jobs = s.jobs) := by
  have hjobs : (∀ j ∈ s.jobs, j.startDesc = none) →
      s.jobs.map (fun j : Job => if j.startDesc.isSome then { j with startDesc := none, startDone := true } else j) = s.jobs := fun h =>
    (List.map_congr_left fun j hj => if_neg (by simp [h j hj])).trans (List.map_id _)
  unfold State.mcDropped State.i3cUnitReset
  split <;> exact ⟨_, _, _, rfl, hjobs⟩
theorem State.mcOpen_none {s : State} (h : s.mcOpen = []) :
    s.mgt.task = none ∧ s.mgt.loadHeld = none ∧ s.mgt.unloads = [] ∧ ∀ j ∈ s.jobs, j.startDesc = none := by
  have hops : (s.hiu.winOps.filter (·.ofMc)).map (·.desc) = [] := List.append_eq_nil_iff.1 h |>.1
  obtain ⟨htask, hheld, hunloads, -, hjobs⟩ : s.mgt.task = none ∧ s.mgt.loadHeld = none ∧ s.mgt.unloads = [] ∧
      (∀ r ∈ s.infield.requests, r.owner.desc? = none) ∧ ∀ j ∈ s.jobs, j.startDesc = none := by
    simpa [State.mcOpen, hops] using h
  exact ⟨htask, hheld, hunloads, hjobs⟩
/-- An update that has not reached its switch is given up. -/
theorem State.fwAbandon_changes (s : State) : ∃ waits boot log, s.fwAbandon = { s with
    hiu := { s.hiu with headerWaits := waits }, boot := boot, log := log } ∧ boot.stage ≠ .reading ∧ boot.stage ≠ .checking := by
  unfold State.fwAbandon
  split
  · exact ⟨_, _, _, rfl, FwStage.noConfusion, FwStage.noConfusion⟩
  · next h =>
    refine ⟨s.hiu.headerWaits, s.boot, s.log, rfl, ?_⟩
    simpa using h

/-- The state without what the Management Complex had taken up, before what it answers. -/
def State.mcCut (s : State) : State := s.mcZeroed.mcHeld.mcDropped
/-- The state after the answers to what the Management Complex had taken up. -/
def State.mcAnswered (s : State) : State :=
  (s.mcOpen.foldl (fun t d => t.complete d { status := Status.unitReset, synthetic := true }) s.mcCut).zshUnitReset

theorem State.mcAnswered_mcSide (s : State) : s.mcAnswered.mcSide = s.mcCut.mcSide :=
  (State.zshUnitReset_mcSide _).trans (foldl_keeps State.mcSide (fun t d => t.complete_mcSide d _) _ _)
/-- Without a descriptor or request outstanding there is none to answer. -/
theorem State.mcAnswered_none {s : State} (h : s.mcOpen = []) (hz : s.mcCut.svc.requests = []) :
    ∃ svc, s.mcAnswered = { s.mcCut with svc := svc } := by
  rw [State.mcAnswered, h]
  exact State.zshUnitReset_none hz
/-- With the Management Complex in HOLD and its tables dropped, nothing else of it changes. -/
theorem State.mcCut_changes (s : State) : ∃ parts log sram units side infield jobs, s.mcCut = { s with
    parts := parts, log := log, sram := sram, units := units, side := side, infield := infield, jobs := jobs
    mgt := { s.mgt with task := none, loadHeld := none, unloads := [], restarting := true } } ∧
    units.epochs = s.units.epochs ∧ (∀ u, u ∈ units.hold ↔ u = .managementComplex ∨ u ∈ s.units.hold) ∧
    (s.mcOpen = [] → parts = s.parts ∧ jobs = s.jobs) := by
  obtain ⟨parts, hparts⟩ := s.mcZeroed_parts
  obtain ⟨log, sram, units, hheld, hepochs, hhold⟩ := s.mcZeroed.mcHeld_changes
  obtain ⟨side, infield, jobs, hdropped, hjobs⟩ := s.mcZeroed.mcHeld.mcDropped_changes
  have hs : s.mcZeroed.mcHeld.jobs = s.jobs := by rw [hheld, hparts]
  refine ⟨parts, log, sram, units, side, infield, jobs, ?_, by rw [hepochs, hparts], fun u => by rw [hhold, hparts], fun ho => ?_⟩
  · rw [State.mcCut, hdropped, hheld, hparts]
  · obtain ⟨htask, -, hunloads, hstart⟩ := State.mcOpen_none ho
    have hsame : s.mcZeroed.parts = s.parts := by rw [State.mcZeroed_none htask hunloads]
    exact ⟨by rw [← hsame, hparts], by rw [hjobs (hs ▸ hstart), hs]⟩
theorem State.mcReset_eq (s : State) : s.mcReset = s.mcAnswered.mcSilent.fwAbandon := rfl

/-- What a reset of the Management Complex leaves. -/
structure State.McLeaves (t s : State) : Prop where
  held : t.inHold .managementComplex = true
  others : ∀ u : UnitId, u ≠ .managementComplex → t.inHold u = s.inHold u
  epochs : ∀ u : UnitId, t.unitEpoch u = s.unitEpoch u
  subscriber : t.svc.subscriber = none
  streams : ∀ (n : Fin 4) (o : OutStream), t.svc.streams[n] = some o → o.stop.isSome = true
  stage : t.boot.stage ≠ .reading ∧ t.boot.stage ≠ .checking
  waiting : t.hiu.mcQueue = s.hiu.mcQueue
  loads : t.mgt.loads = s.mgt.loads
  quiet : s.mcOpen = [] → s.svc.requests = [] → s.infield.requests = [] →
    t.parts = s.parts ∧ t.jobs = s.jobs ∧ t.links = s.links ∧ t.fns = s.fns ∧ t.mgt = { s.mgt with restarting := true }

theorem State.mcSilent_streams {s : State} {n : Fin 4} {o : OutStream} (h : s.mcSilent.svc.streams[n] = some o) : o.stop.isSome = true := by
  have hmap : (s.svc.streams[n]).map (fun t : OutStream => if t.stop.isNone then { t with stop := some Status.unitReset } else t) = some o :=
    (Vector.getElem_map ..).symm.trans h
  obtain ⟨x, -, rfl⟩ := Option.map_eq_some_iff.1 hmap
  split
  · rfl
  · next hx => simpa [Option.isSome_iff_ne_none] using hx
theorem State.mcReset_leaves (s : State) : s.mcReset.McLeaves s := by
  obtain ⟨parts, log, sram, units, side, infield, jobs, hcut, hepochs, hhold, hkept⟩ := s.mcCut_changes
  obtain ⟨waits, boot, log', habandon, hreading, hchecking⟩ := s.mcAnswered.mcSilent.fwAbandon_changes
  have hreset : s.mcReset = { s.mcAnswered.mcSilent with hiu := { s.mcAnswered.hiu with headerWaits := waits }, boot := boot, log := log' } :=
    habandon
  obtain ⟨hunits, hmgt, hqueue⟩ : s.mcAnswered.units = units ∧
      s.mcAnswered.mgt = { s.mgt with task := none, loadHeld := none, unloads := [], restarting := true } ∧
      s.mcAnswered.hiu.mcQueue = s.hiu.mcQueue := by
    have h := s.mcAnswered_mcSide
    rw [hcut] at h
    simpa [State.mcSide] using h
  have hu : s.mcReset.units = units := by rw [hreset]; exact hunits
  have hm : s.mcReset.mgt = { s.mgt with task := none, loadHeld := none, unloads := [], restarting := true } := by rw [hreset]; exact hmgt
  have hin : ∀ u, s.mcReset.inHold u = true ↔ u = .managementComplex ∨ s.inHold u = true := fun u => by
    simp [State.inHold, hu, hhold]
  refine ⟨(hin _).2 (.inl rfl), fun u hne => ?others, State.unitEpoch_eq (hu ▸ hepochs) (by rw [hm]), by rw [hreset]; rfl, fun n o ho => ?streams,
    by rw [hreset]; exact ⟨hreading, hchecking⟩, by rw [hreset]; exact hqueue, by rw [hm], fun ho hz _ => ?quiet⟩
  case others => exact Bool.eq_iff_iff.2 ((hin u).trans (or_iff_right hne))
  case streams =>
    rw [hreset] at ho
    exact State.mcSilent_streams ho
  case quiet =>
    obtain ⟨svc, hanswered⟩ := State.mcAnswered_none ho (by rw [hcut]; exact hz)
    obtain ⟨htask, hheld, hunloads, -⟩ := State.mcOpen_none ho
    obtain ⟨rfl, rfl⟩ := hkept ho
    have hclean : ({ s.mgt with task := none, loadHeld := none, unloads := [], restarting := true } : Mgt) = { s.mgt with restarting := true } := by
      rw [← htask, ← hheld, ← hunloads]
    rw [hreset, State.mcSilent, hanswered, hcut]
    exact ⟨rfl, rfl, rfl, rfl, hclean⟩

theorem exec_warmReset {s : State} (h : s.power.porReleased = true) : exec .warmReset s = .next s.warmReset := by
  show execWarmReset s = _
  rw [execWarmReset, if_pos h]
theorem exec_mcReset {s : State} (h : s.power.porReleased = true) : exec .mcReset s = .next s.mcReset := by
  show execMcReset s = _
  rw [execMcReset, if_pos h]
theorem exec_mcWatchdogExpiry {s : State} (h : s.fwServes = true) : exec .mcWatchdogExpiry s = .next s.mcReset := by
  show execMcWatchdogExpiry s = _
  rw [execMcWatchdogExpiry, if_pos h]

/-- Settles O19: the warm reset by `State.warmReset_leaves` (its jobs fault by `State.faultJobs_scrub`), the reset of the Management Complex by
`State.mcReset_leaves`; device time, log slots and key slots by the steadiness of both. -/
theorem packageResetsLeaveWhatTheTableSays : Obligations.PackageResetsLeaveWhatTheTableSays := by
  intro s hi
  refine ⟨fun hp => ?warm, fun c hc => ?mc⟩
  case warm =>
    obtain ⟨hjobs, hparts, hunits, hscrub, hfns, hbind, hlinks, hoff⟩ := s.warmReset_leaves
    have hs := warmReset_steady s hi.steady
    exact ⟨s.warmReset, exec_warmReset hp, hjobs, hparts, hunits, hscrub, hfns, hbind, hlinks, hoff, hs.time.1, hs.time.2.1,
      hs.slots.1, hs.keys, hs.queue⟩
  case mc =>
    have hrow : exec c s = .next s.mcReset := by
      rcases hc with ⟨rfl, hp⟩ | ⟨rfl, hp⟩
      · exact exec_mcReset hp
      · exact exec_mcWatchdogExpiry hp
    obtain ⟨hheld, hothers, hepochs, hsub, hstreams, ⟨hreading, hchecking⟩, hwaiting, hloads, hquiet⟩ := s.mcReset_leaves
    have hs := mcReset_steady s hi.steady
    exact ⟨s.mcReset, hrow, hheld, hothers, hepochs, hsub, hstreams, hreading, hchecking, hwaiting, hloads, hs.time.1, hs.time.2.1, hs.slots.1,
      hs.keys, hs.queue, hquiet⟩

end Sys2Proof.Machine
end
